-- ==== Sys2Proof/Word.lean ====
section
/-! DEFINITION. The words of the QK-900 and their plainest readings as byte strings (00 R6, R8). -/

namespace Sys2Proof

/-- One byte of memory, of a record or of a message. -/
abbrev Byte := BitVec 8

/-- A register word, as the host reads and writes it (00, Registers and fields). -/
abbrev Word32 := BitVec 32

/-- A module, rack in [13:6] and slot in [5:0] (00 R8). -/
abbrev ModuleId := BitVec 14

/-- A basket virtual address (09 R392). -/
abbrev VAddr := BitVec 56

/-- The bits `hi:lo` of a natural number, `w` of them from bit `lo`. -/
def bitsOf (n lo w : Nat) : Nat := n / 2 ^ lo % 2 ^ w

/-- Bit `i` of a natural number. -/
def bitOf (n i : Nat) : Bool := n / 2 ^ i % 2 == 1

/-- The number a byte string spells, least significant byte first (00 R6). -/
def leNat : List Byte → Nat
  | [] => 0
  | b :: bs => b.toNat + 256 * leNat bs

/-- The `n` bytes of a number, least significant first (00 R6). -/
def leBytes : Nat → Nat → List Byte
  | 0, _ => []
  | n + 1, v => BitVec.ofNat 8 (v % 256) :: leBytes n (v / 256)

/-- The number a byte string spells, most significant byte first (digests, signatures, keys: 00 R6). -/
def beNat (bs : List Byte) : Nat := leNat bs.reverse

/-- The `n` bytes of a number, most significant first. -/
def beBytes (n v : Nat) : List Byte := (leBytes n v).reverse

/-- A truth value as the bit a register shows. -/
def bit (b : Bool) : Nat := if b then 1 else 0

end Sys2Proof
end

