-- ==== Sys2Proof/Operand.lean ====
section
/-! DEFINITION. The data the commands carry: who writes, packets, flits' outcomes, responses and messages. -/

namespace Sys2Proof

/-- Who makes a register access (11 R498, R499; 04 R143, R182; 16 R720). -/
inductive Agent where
  /-- The function of a partition; 0 is the PF. -/
  | host (p : Fin 32)
  /-- The carrier function of links 1 to 3 (11 R498). -/
  | carrier (l : Fin 4)
  /-- Rim firmware. -/
  | rim
  /-- The rim monitor, acting as partition 0 (16 R720). -/
  | monitor
  deriving DecidableEq, Repr

/-- What an ECC check finds (04 R141; 14 R663). -/
inductive EccResult where
  | clean
  | corrected
  | uncorrectable
  deriving DecidableEq, Repr

/-- A memory the hourly scrub reads (14 R669). -/
inductive SramUnit where
  | localStore (site : Fin 288)
  | rowStore (row : Fin 32)
  deriving DecidableEq, Repr

/-- Who waits on a fence (08 R379, R384). -/
inductive Waiter where
  /-- A FENCE_WAIT operation's ledger entry. -/
  | entry (core : Fin 256) (slot : Fin 8) (e : Fin 64)
  /-- A FENCE_WAIT command of a context. -/
  | command (ctx : Fin 2048)
  /-- A kernel start of a context (05 R189 step 3). -/
  | kernelStart (ctx : Fin 2048)
  /-- A waiter of another module, by the ledger word its answers carry. -/
  | away (module : Fin 16384) (word : Fin 8589934592)
  deriving DecidableEq, Repr

/-- An arbiter (10 R478). -/
inductive ArbId where
  | port (p : Fin 80)
  | channel (c : Fin 256)
  | bank (row : Fin 32) (b : Fin 16)
  deriving DecidableEq, Repr

/-- Where an entry comes from that crosses into a half (04 R162): over the seam from the other half, or from the on-die network. -/
inductive Crossing where
  | seam
  | network
  deriving DecidableEq, Repr

/-- A channel into a half (04 R163): from where, and which of the 16. -/
structure SeamLane where
  via : Crossing
  chan : Fin 16
  deriving DecidableEq, Repr

/-- An entry that crosses into a half (04 R163, R164): the root edge of its launch, whether it begins a request or a response, and
its 64 bytes. -/
structure SeamEntry where
  launch : Nat
  head : Bool
  data : BitVec 512
  deriving DecidableEq, Repr

/-- A request present at an arbiter in its deciding cycle (10 R479): its requester, master (09 R431), the class label and the basket it
carries (05 R192), clock cycles waited, whether it is a telemetry packet (10 R484), and whether some beats of it have been granted (10
R482). At a weave port, the place of its packet (`Packet.place`). At a channel, for the last burst of a read, the ns from its arrival
there to the return of its data (09 R435). -/
structure ArbReq where
  requester : Nat
  master : Nat
  label : Fin 16
  basket : Fin 64
  waited : Nat
  urgent : Bool
  begun : Bool
  place : Nat
  read : Option Nat
  deriving DecidableEq, Repr

/-- A packet: the header of 10 R458, its payload after the header, the links it has crossed (10 R449), and its place in the module: the port
it came in by in [6:0], 127 for those of the local engines, and above them its number there (10 R453). -/
structure Packet where
  dest : ModuleId
  src : ModuleId
  ptype : BitVec 8
  label : BitVec 4
  hops : BitVec 2
  keySlot : BitVec 8
  keyEpoch : BitVec 8
  uid : BitVec 64
  ref : BitVec 64
  ledger : BitVec 33
  args : BitVec 128
  payload : List Byte
  links : Nat
  place : Nat
  deriving DecidableEq, Repr

/-- What a module says of the joins of a step, in the order of its record, and the step_id the message carries (06 R279, 10 Table 6). -/
structure StepAnswers where
  step : BitVec 64
  bits : List Bool
  deriving DecidableEq, Repr

/-- The lead's verdicts on the joins of a step, and the packet they came in (06 R279). -/
structure StepVerdicts where
  pkt : Packet
  step : BitVec 64
  bits : List Bool
  deriving DecidableEq, Repr

/-- The body of a RESP express message with its source (10 R466). -/
structure RespMsg where
  src : ModuleId
  ctx : BitVec 11
  shard : BitVec 8
  entry : BitVec 6
  gen : BitVec 8
  kind : BitVec 4
  status : BitVec 4
  deriving DecidableEq, Repr

/-- One strand-table entry (15 R689, R692). -/
structure Strand where
  seed : BitVec 64
  sequence : BitVec 32
  stepMin : Nat
  stepMax : Nat
  posMin : Nat
  posMax : Nat
  draws : Nat
  temperature : BitVec 32
  topK : BitVec 32
  topP : BitVec 32
  vary : Bool
  deriving DecidableEq, Repr

/-- A member's count block (05 R190 step 2; 15 R691). -/
structure CountBlock where
  status : Nat
  counts : List Nat
  wrap : Bool
  clipEvent : Bool
  escFlags : Nat
  formatMask : Nat
  cvtMask : Nat
  sealMask : Nat
  sealedAll : Bool
  strands : List Strand
  deriving DecidableEq, Repr

/-- An SPDM request on the DOE mailbox of any function: its code and the certificate slot it names, 0 where it names none (12 R537). -/
structure SpdmRequest where
  code : BitVec 8
  slot : BitVec 4
  deriving DecidableEq, Repr

/-- Why a lane fails (10 R486). -/
inductive LaneFault where
  | lossOfLock
  /-- Uncorrectable codewords seen in 1 ms. -/
  | codewords (n : Nat)
  deriving DecidableEq, Repr

/-- Why a port is found lost (10 R485). -/
inductive LossCause where
  /-- Both lanes electrically idle or without lock, for so many ns. -/
  | idle (ns : Nat)
  /-- No flit accepted, for so many flit times. -/
  | silent (flitTimes : Nat)
  deriving DecidableEq, Repr

end Sys2Proof
end

