-- ==== Sys2Proof/Syntax.lean ====
section
/-! DEFINITION. The commands of the QK-900: one constructor per row of the table of operations and events. -/

namespace Sys2Proof

/-- A command. `v` is the word written to the command register the row names; `a` is who writes it. -/
inductive Instr where
  | powerInputApply (mv heldUs : Nat)
  | powerInputLoss (mv us : Nat)
  | perstAssert (us : Nat)
  | perstRelease
  | pllLock
  | pllHoldover (lost : Bool) (ppm : Nat)
  | pllRelock
  | bootRomEntry
  | coreRelease (highSamples : Nat)
  | coolantStop (lowSamples : Nat)
  | i3cModuleWrite (module : ModuleId)
  | registerWrite (a : Agent) (off : BitVec 26) (v : Word32)
  | monitorStatus
  | monitorCap
  | monitorLog (n : Nat)
  | monitorPower
  | monitorRd (addr : BitVec 26)
  | monitorBaud (n : Nat)
  | monitorWr (addr : BitVec 26) (v : Word32)
  | monitorForce (f : BitVec 8) (i : BitVec 9)
  | monitorHold (withdraw : Bool)
  | reseatManifest (a : Agent) (v : Word32)
  | reseatFirmware (a : Agent) (v : Word32)
  | reseatBoth (a : Agent) (v : Word32)
  | rimRestart (a : Agent) (v : Word32)
  | rimHeartbeat
  | faultReport (family : BitVec 8) (inst : BitVec 9) (info : BitVec 64) (prev now : BitVec 2)
  | errPulseEnd
  | quietPeriod (family : BitVec 8)
  | fcForce (a : Agent) (v : Word32)
  | fcInjectArm (a : Agent) (v : Word32)
  | engineReset (a : Agent) (v : Word32)
  | engineResetDrained (engine : Fin 372)
  | engineBistDone (engine : Fin 372) (passed : Bool)
  | rwsSpareCmd (a : Agent) (row : Fin 32) (v : Word32)
  | lsScrubStart (a : Agent) (site : Fin 288) (v : Word32)
  | lsScrubDone (site : Fin 288)
  | handoverReadbackDone (core : Fin 256)
  | channelRetire (ch : Fin 256)
  | patrolScrub (ch : Fin 256) (off : BitVec 31) (ecc : EccResult)
  | hbmPhyRecal (stack : Fin 8)
  | sramScrub (unit : SramUnit) (line : Fin 8192) (ecc : EccResult)
  | agingCheck (site : Fin 288) (fallPct : Nat)
  | coreRotation (row : Fin 32) (slot : Fin 9)
  | telemetrySample
  | submissionWrite (p : Fin 32) (q : Fin 1024) (off : BitVec 12) (bytes : List Byte) (ide : Bool)
  | queueFill (q : Fin 1024)
  | completionPop (p : Fin 32) (q : Fin 1024) (off : BitVec 12) (len : Nat)
  | completionPost (ctx : Fin 2048)
  | cmdIdle (ctx : Fin 2048)
  | cmdKernel (ctx : Fin 2048)
  | kernelStartResume (ctx : Fin 2048)
  | cmdBatchStep (ctx : Fin 2048)
  | batchStepApply (ctx : Fin 2048)
  | joinOutcomes (ctx : Fin 2048) (pkt : Packet) (outcomes : StepAnswers)
  | stepVerdict (ctx : Fin 2048) (verdicts : StepVerdicts)
  | cmdFenceWait (ctx : Fin 2048)
  | cmdFenceSignal (ctx : Fin 2048)
  | cmdFenceTimeout (ctx : Fin 2048)
  | contextStop (a : Agent) (ctx : Fin 2048) (v : Word32)
  | contextStopped (ctx : Fin 2048)
  | contextResume (a : Agent) (ctx : Fin 2048) (v : Word32)
  | quantumExpire (core : Fin 256)
  | opIdle (core : Fin 256) (slot : Fin 8)
  | opMatmul (core : Fin 256) (slot : Fin 8)
  | opVec (core : Fin 256) (slot : Fin 8)
  | opVecReduce (core : Fin 256) (slot : Fin 8)
  | opConvert (core : Fin 256) (slot : Fin 8)
  | opLoad (core : Fin 256) (slot : Fin 8)
  | opStore (core : Fin 256) (slot : Fin 8)
  | opGather (core : Fin 256) (slot : Fin 8)
  | opExchangeSend (core : Fin 256) (slot : Fin 8)
  | opExchangeReceive (core : Fin 256) (slot : Fin 8)
  | opReduceLong (core : Fin 256) (slot : Fin 8)
  | reduceTreeStart (core : Fin 256) (slot : Fin 8) (e : Fin 64)
  | opAttention (core : Fin 256) (slot : Fin 8)
  | opKvAppend (core : Fin 256) (slot : Fin 8)
  | opSample (core : Fin 256) (slot : Fin 8)
  | opFenceWait (core : Fin 256) (slot : Fin 8)
  | opFenceSignal (core : Fin 256) (slot : Fin 8)
  | fenceWaitTimeout (core : Fin 256) (slot : Fin 8) (e : Fin 64)
  | operationComplete (core : Fin 256) (slot : Fin 8) (op : Nat) (cycles : Nat)
  | clipWindowClose (core : Fin 256) (slot : Fin 8)
  | countBlock (ctx : Fin 2048) (pkt : Packet) (block : CountBlock)
  | weaverWaitTimeout (ctx : Fin 2048)
  | ledgerDeadline (core : Fin 256) (slot : Fin 8) (e : Fin 64)
  | resp (r : RespMsg)
  | respPull (r : RespMsg)
  | respTake (r : RespMsg)
  | fenceWake (r : RespMsg)
  | fencePoll (w : Waiter)
  | fenceUpdate (b : Fin 64) (va : VAddr) (value status : BitVec 64)
  | fenceOpGo (p : Fin 32) (v : Word32)
  | rowStoreRead (row : Fin 32) (line : Fin 8192) (core : Fin 256) (b : Fin 64) (cycle : Nat)
  | rowStoreWrite (row : Fin 32) (line : Fin 8192) (core : Fin 256) (b : Fin 64) (data : List Byte) (cycle : Nat)
  | mergeWindowExpire (row : Fin 32) (bank : Fin 16) (cycle : Nat)
  | arbiterDecision (arb : ArbId) (reqs : List ArbReq)
  | budgetWindow
  | seamEntryArrive (die : Fin 2) (toEast : Bool) (lane : SeamLane) (entry : SeamEntry)
  | seamCreditReturn (die : Fin 2) (toEast : Bool) (lane : SeamLane) (edge : Nat)
  | wakeTokenIssue
  | gateIdle (h : Fin 4) (idleUs : Nat)
  | bridgeFlitReceive (b : Fin 13) (sub : Fin 16) (crcOk poison : Bool)
  | dvfsGrant
  | railSettled (h : Fin 4)
  | droopDetect (row : Fin 32) (dropMv : Nat)
  | stretchRunEnd (h : Fin 4) (stillLow : Bool)
  | ceilingExpire (h : Fin 4)
  | droopCalibrate (row : Fin 32)
  | powerMeasure (watts mv current : Nat)
  | powerAdjust
  | tempSample (sensor : Fin 14) (c : BitVec 8)
  | thermalCapStep (h : Fin 4)
  | tempClearPeaks (a : Agent) (v : Word32)
  | paceRepeat (h : Fin 4)
  | pace (uid : BitVec 64) (point : BitVec 2)
  | paceCapExpire (b : Fin 64)
  | heatEpoch
  | pageMoveDone (move : Nat)
  | editInvalidate (p : Fin 32) (v : Word32)
  | editUnmap (p : Fin 32) (v : Word32)
  | editSetRights (p : Fin 32) (v : Word32)
  | editObjCreate (p : Fin 32) (v : Word32)
  | editObjFree (p : Fin 32) (v : Word32)
  | editFrameReserve (p : Fin 32) (v : Word32)
  | editFrameRelease (p : Fin 32) (v : Word32)
  | editDrainDone (p : Fin 32)
  | flitReceive (port : Fin 80) (fec : EccResult) (flit : BitVec 2048)
  | replayTimeout (port : Fin 80)
  | packetForward (port : Fin 80) (pkt : Packet)
  | readReq (pkt : Packet)
  | readData (pkt : Packet)
  | writePkt (pkt : Packet)
  | atomicPkt (pkt : Packet)
  | offerPkt (pkt : Packet)
  | dataPkt (pkt : Packet)
  | partialPkt (pkt : Packet)
  | pagePkt (pkt : Packet)
  | ident (port : Fin 80) (module : ModuleId) (known serving : Bool) (peerPort : BitVec 7) (racks : BitVec 256)
  | notReady (port : Fin 80) (module : ModuleId)
  | notReadyRepeat
  | sealFlit (port : Fin 80) (tag : BitVec 128)
  | laneFlit (port : Fin 80) (leaving entering : Fin 4) (swap : Bool)
  | linkTrained (port : Fin 80)
  | portLost (port : Fin 80) (cause : LossCause)
  | lostPortRetrain (port : Fin 80)
  | lossMsg (lost : ModuleId) (hop : Nat)
  | laneFail (port : Fin 80) (lane : Fin 3) (why : LaneFault)
  | laneRetrainDone (port : Fin 80) (retrained spareTrained : Bool)
  | portRetire (a : Agent) (port : Fin 80) (v : Word32)
  | globalPortKeyExchange (g : Fin 16) (ok : Bool) (tx rx : BitVec 256)
  | keyUpdate (g : Fin 16) (tx rx : BitVec 256)
  | linkDown (n : Fin 4)
  | linkReturn (n : Fin 4)
  | dmaCompletion (n : Fin 4) (req : Nat) (ok : Bool)
  | flrVf (p : Fin 32)
  | flrPf
  | flrCarrier (n : Fin 4)
  | tdispNonIdeTlp (p : Fin 32)
  | lockInterfaceRequest (p : Fin 32)
  | ideKmKeyProg (n : Fin 4) (stream : BitVec 8) (key : BitVec 256)
  | spdmRequest (r : SpdmRequest)
  | negotiateAlgorithms (p521 sha512 secp521r1 aes256gcm : Bool)
  | getMeasurements (index : BitVec 8)
  | getBinding
  | ownerChallenge (a : Agent) (v : Word32)
  | nonceExpire
  | ownerProgram (a : Agent) (v : Word32)
  | monitorUnlock (a : Agent) (v : Word32)
  | svnAdvance (a : Agent) (v : Word32)
  | ownerRelease (a : Agent) (v : Word32)
  | ksLoad (a : Agent) (v : Word32)
  | ksZero (a : Agent) (v : Word32)
  | lidCharter (p : Fin 32) (charter : List Byte) (charterKey : List Byte)
  | lidAmend (p : Fin 32) (charter : List Byte) (charterKey : List Byte)
  | keyDist (p : Fin 32) (lidId : BitVec 64) (charterDigest : BitVec 512) (epoch : BitVec 8) (memKey : BitVec 768) (macKey : BitVec 512)
  | keyAck (p : Fin 32) (src : ModuleId)
  | lidReady (p : Fin 32) (lidId : BitVec 64)
  | keyDistTimeout (p : Fin 32)
  | lidDissolve (p : Fin 32) (lidId : BitVec 64) (sig : List Byte)
  | revoke (lidId : BitVec 64) (src : ModuleId) (slot epoch : BitVec 8) (mac : BitVec 512)
  | depart (lidId : BitVec 64) (src : ModuleId) (mac : BitVec 512)
  | lidPartRemove (a : Agent) (p : Fin 32) (v : Word32)
  | revokeAck (p : Fin 32) (src : ModuleId)
  | revokeTimeout (p : Fin 32)
  | lidScrubDone (p : Fin 32)
  | lidImport (p : Fin 32) (v : Word32)
  | keyRelease (lidId bundleId : BitVec 64) (kw : BitVec 256) (uses : BitVec 24)
  | plaitLoad (a : Agent) (v : Word32)
  | plaitAbort (a : Agent) (v : Word32)
  | plaitFetchDone
  | plaitChangeEffect (k : Nat)
  | plaitCommit
  | shapeReport (pkt : Packet) (uid : BitVec 64) (shapeGen : Word32) (digest : BitVec 512)
  | shapeState (pkt : Packet) (uid : BitVec 64) (state : Fin 5)
  | spanOpen (src : ModuleId) (uid kernelId : BitVec 64)
  | pgSeal (p : Fin 32) (b : Fin 64) (i : Fin 16) (v : Word32)
  | sealHashDone (accepted : Bool)
  | sealInstall (src : ModuleId) (uid : BitVec 64) (i : Fin 16) (base : VAddr) (pages : BitVec 24) (digest : BitVec 512)
  | pgSealRelease (p : Fin 32) (b : Fin 64) (i : Fin 16) (v : Word32)
  | sealBreak (src : ModuleId) (uid : BitVec 64) (i : Fin 16)
  | readLoLatchesHi (a : Agent) (off : BitVec 26)
  | tdispRun (p : Fin 32)
  | i3cDynamicAddress (addr : BitVec 7)
  | monitorUnknownCommand (line : List Byte)
  | spareBuiltInTestDone (row : Fin 32) (slot : Fin 9) (passed : Bool)
  | subLinkLossOfLock (b : Fin 13) (sub : Fin 16) (retrained : Bool)
  | portSignalDetect (port : Fin 80)
  deriving DecidableEq, Repr

end Sys2Proof
end

