-- ==== Sys2Proof/Config.lean ====
section
/-! DEFINITION. What an implementation fixes and the values the spec leaves open. Each is opaque: nothing can evaluate it,
so a claim about the machine holds whatever its value is (log entries 2, 6, 8 and 9). -/

namespace Sys2Proof

/-- A value the spec does not state, drawn by number: the `n`-th draw of the run (log entry 2). -/
opaque Config.free : Nat → BitVec 64

/-- The true random generator's `n`-th draw of 512 bits (12 R536, R543, R550, R556; log entry 2). -/
opaque Config.random : Nat → BitVec 512

/-- The die's permutation of the bits of a fused value, as the swaps of two bits it is made of, in their order; and the second fused value
that masks entry `n`: the owner entries 0 to 3, the unique device secret 4 and the identity seed 5 (12 R531; log entry 8). -/
opaque Config.fuseSwaps : List (Fin 512 × Fin 512)

opaque Config.fuseMask : Nat → BitVec 512

/-- The cells that hold the unique device secret, and those of the identity seed (12 R531; log entry 8). -/
opaque Config.udsCells : BitVec 512

opaque Config.seedCells : BitVec 512

/-- The module serial in the fuses (12 R531; log entry 8). -/
opaque Config.serial : BitVec 64

/-- The digest of the rim firmware image each flash bank holds when the module leaves the factory (log entry 9). -/
opaque Config.factoryDigest : BitVec 512

/-- The digest of the engine firmware that comes with a rim firmware image, by the image's digest (16 R707, R718; log entry 6). -/
opaque Config.engineDigest : BitVec 512 → BitVec 512

/-- The x coordinate of the public firmware key whose digest the boot ROM holds (16 R707; log entry 9). -/
opaque Config.firmwareKeyX : Nat

/-- Its y coordinate. -/
opaque Config.firmwareKeyY : Nat


/-- What a certificate of the module says: its public key; in the alias certificate the TcbInfo extension, with the SHA-512 of the rim
firmware and its svn; in the binding certificate the svn; and the private key that signs it, with the draw used in signing (12 R535, R536). -/
structure CertFields where
  key : List Byte
  tcbInfo : Option (BitVec 512 × Nat)
  svn : Option Nat
  signer : Nat
  draw : BitVec 512
  deriving DecidableEq, Repr

/-- The DER bytes of an X.509 certificate (12 R535, R536; log entry 41). -/
opaque Config.certificate : CertFields → List Byte

/-- The DeviceID certificate kept in flash, DER-encoded (12 R536; log entry 41). -/
opaque Config.deviceCert : List Byte

/-- The debug fuses (12 R540; log entry 42). -/
opaque Config.debugFuses : Nat

/-- Whether the session that the `n`-th draw stands for shows a module to have a DeviceID, by its digest, and measurements of which one of a
list is the digest (12 R564 step 5; log entry 207). -/
opaque Config.attests : Nat → Nat → List Byte → List (List Byte) → Bool

/-- The digest of the rim boot ROM (12 R540; log entry 42). -/
opaque Config.bootRomDigest : BitVec 512

/-- The digest of a measurement block whose encoding the spec does not give, from what it measures (12 R540; log entry 42). -/
opaque Config.measurement : Nat → List Nat → BitVec 512

/-- The row of a channel an offset lies in, and the row's bank (JEDEC HBM4; 14 R663, R665; log entry 26). -/
opaque Config.hbmRow : Nat → Nat

opaque Config.hbmBank : Nat → Nat

/-- The spare rows a bank has (14 R665; log entry 26). -/
opaque Config.spareRows : Nat

/-- The spare data and address lanes a channel has (14 R664, R665; log entry 26). -/
opaque Config.spareLanes : Nat

/-- The bytes of a LID_DISSOLVE of a lid that the charter key signs (12 R581; log entry 134). -/
opaque Config.dissolveMessage : BitVec 64 → List Byte

end Sys2Proof
end

