-- ==== Sys2Proof/Machine/Sparse.lean ====
section
/-! DEFINITION. The one canonical form of every table and memory: pairs of a key and a value, keys strictly rising,
no pair that holds the value an unlisted key reads as. -/

namespace Sys2Proof.Machine

/-- The value at key `k`; an unlisted key reads as `d`. -/
def Sparse.get {α : Type} (d : α) : List (Nat × α) → Nat → α
  | [], _ => d
  | (k', v) :: m, k => if k' = k then v else if k < k' then d else Sparse.get d m k

/-- Sets the value at key `k`, keeping the keys rising and listing nothing equal to `d`. -/
def Sparse.set {α : Type} [DecidableEq α] (d : α) : List (Nat × α) → Nat → α → List (Nat × α)
  | [], k, v => if v = d then [] else [(k, v)]
  | (k', v') :: m, k, v =>
    if k < k' then (if v = d then (k', v') :: m else (k, v) :: (k', v') :: m)
    else if k = k' then (if v = d then m.dropWhile (fun e => decide (e.1 ≤ k)) else (k, v) :: m)
    else (k', v') :: Sparse.set d m k v

/-- The canonical form: keys strictly rising from `lo`, and no listed value equal to `d`. -/
def Sparse.wfFrom {α : Type} [DecidableEq α] (d : α) : Nat → List (Nat × α) → Bool
  | _, [] => true
  | lo, (k, v) :: m => decide (lo ≤ k) && decide (v ≠ d) && Sparse.wfFrom d (k + 1) m

/-- The canonical form of a whole table. -/
def Sparse.wf {α : Type} [DecidableEq α] (d : α) (m : List (Nat × α)) : Bool := Sparse.wfFrom d 0 m

/-- Sets a run of keys from `lo` to values, none of them the value an unlisted key reads as. -/
def Sparse.setRun {α : Type} (m : List (Nat × α)) (lo : Nat) (vs : List α) : List (Nat × α) :=
  m.takeWhile (fun e => decide (e.1 < lo)) ++ (vs.mapIdx (fun i v => (lo + i, v)) ++
    m.dropWhile (fun e => decide (e.1 < lo + vs.length)))

/-- No key from `lo` to `lo + n - 1` stays listed. -/
def Sparse.clearRun {α : Type} (m : List (Nat × α)) (lo n : Nat) : List (Nat × α) :=
  m.takeWhile (fun e => decide (e.1 < lo)) ++ m.dropWhile (fun e => decide (e.1 < lo + n))

/-- A memory: bytes by address. -/
abbrev Mem := List Host.Cell

/-- What a byte nothing has written reads as: 0 (16 R704 step 7 for HBM; log entry 10 for the others). -/
def Mem.blank : Byte := 0

/-- The byte at an address. -/
def Mem.byte (m : Mem) (a : Nat) : Byte := Sparse.get Mem.blank m a

/-- Writes one byte. -/
def Mem.setByte (m : Mem) (a : Nat) (b : Byte) : Mem := Sparse.set Mem.blank m a b

/-- `n` bytes from address `a`, out of cells listed from `a` on in rising order. -/
def Mem.fill : Nat → Nat → Mem → List Byte
  | _, 0, _ => []
  | a, n + 1, [] => Mem.blank :: Mem.fill (a + 1) n []
  | a, n + 1, (k, v) :: m => if k = a then v :: Mem.fill (a + 1) n m else Mem.blank :: Mem.fill (a + 1) n ((k, v) :: m)

/-- `n` bytes from an address, rising. -/
def Mem.read (m : Mem) (a n : Nat) : List Byte := Mem.fill a n (m.dropWhile (fun c => decide (c.1 < a)))

/-- The cells a byte string lists from an address: those that differ from what an unlisted address reads as. -/
def Mem.cells (a : Nat) : List Byte → Mem
  | [] => []
  | b :: bs => if b = Mem.blank then Mem.cells (a + 1) bs else (a, b) :: Mem.cells (a + 1) bs

/-- Writes a byte string from an address, rising. -/
def Mem.write (m : Mem) (a : Nat) (bs : List Byte) : Mem :=
  m.takeWhile (fun c => decide (c.1 < a)) ++ (Mem.cells a bs ++ m.dropWhile (fun c => decide (c.1 < a + bs.length)))

/-- Writes zero to every byte from `a` to `a + n - 1`: no such byte stays listed. -/
def Mem.zero (m : Mem) (a n : Nat) : Mem := Sparse.clearRun m a n

/-- The canonical form of a memory. -/
def Mem.wf (m : Mem) : Bool := Sparse.wf Mem.blank m

end Sys2Proof.Machine
end

