-- ==== Sys2Proof/Machine/Registers.lean ====
section
/-! DEFINITION. Every register and register field the register tables of the spec give, with its place, access code and
reset value (00 R2, R3), and the BAR0 map (11 R503). Written from the tables; reserved fields have no entry and read zero. -/

namespace Sys2Proof.Machine

/-- The access codes of 00 R2. -/
inductive Access where
  | ro
  | rw
  | w1c
  | w1s
  | wo
  | rwl
  | bw
  deriving DecidableEq, Repr

/-- A field of a register: the register's number here, its lowest bit, its width, its access code and its reset value. -/
structure Field where
  reg : Nat
  lo : Nat
  width : Nat
  acc : Access
  reset : Nat
  deriving DecidableEq, Repr

/-- A register: its number, its name, its BAR0 offset (of its first copy), and the stride and count of each of two indices. -/
structure RegInfo where
  reg : Nat
  name : String
  base : Nat
  stride1 : Nat
  count1 : Nat
  stride2 : Nat
  count2 : Nat
  deriving DecidableEq, Repr

/-- 02 R58: MU_FMT_CTRL.invalid_event_en [0:0]. -/
def Fld.MU_FMT_CTRL_invalid_event_en : Field := ⟨0, 0, 1, .rw, 0⟩
/-- 02 R58: MU_FMT_CTRL.range_event_en [1:1]. -/
def Fld.MU_FMT_CTRL_range_event_en : Field := ⟨0, 1, 1, .rw, 0⟩
/-- 02 R58: MU_FMT_CTRL.nonfinite_event_en [2:2]. -/
def Fld.MU_FMT_CTRL_nonfinite_event_en : Field := ⟨0, 2, 1, .rw, 0⟩
/-- 02 R58: MU_SCALE_RANGE.scale_min [7:0]. -/
def Fld.MU_SCALE_RANGE_scale_min : Field := ⟨1, 0, 8, .rw, 0⟩
/-- 02 R58: MU_SCALE_RANGE.scale_max [15:8]. -/
def Fld.MU_SCALE_RANGE_scale_max : Field := ⟨1, 8, 8, .rw, 0xfe⟩
/-- 02 R58: MU_INVALID_COUNT.count [31:0]. -/
def Fld.MU_INVALID_COUNT_count : Field := ⟨2, 0, 32, .ro, 0⟩
/-- 02 R58: MU_SCALE_OOR_COUNT.count [31:0]. -/
def Fld.MU_SCALE_OOR_COUNT_count : Field := ⟨3, 0, 32, .ro, 0⟩
/-- 02 R58: MU_NONFINITE_COUNT.count [31:0]. -/
def Fld.MU_NONFINITE_COUNT_count : Field := ⟨4, 0, 32, .ro, 0⟩
/-- 02 R58: MU_OUTLIER_COUNT.count [31:0]. -/
def Fld.MU_OUTLIER_COUNT_count : Field := ⟨5, 0, 32, .ro, 0⟩
/-- 02 R58: MU_FMT_STATUS.invalid_wrap [0:0]. -/
def Fld.MU_FMT_STATUS_invalid_wrap : Field := ⟨6, 0, 1, .w1c, 0⟩
/-- 02 R58: MU_FMT_STATUS.oor_wrap [1:1]. -/
def Fld.MU_FMT_STATUS_oor_wrap : Field := ⟨6, 1, 1, .w1c, 0⟩
/-- 02 R58: MU_FMT_STATUS.nonfinite_wrap [2:2]. -/
def Fld.MU_FMT_STATUS_nonfinite_wrap : Field := ⟨6, 2, 1, .w1c, 0⟩
/-- 02 R58: MU_FMT_STATUS.outlier_wrap [3:3]. -/
def Fld.MU_FMT_STATUS_outlier_wrap : Field := ⟨6, 3, 1, .w1c, 0⟩
/-- 02 R60: VU_CLIP_CTRL.clip_limit [15:0]. -/
def Fld.VU_CLIP_CTRL_clip_limit : Field := ⟨7, 0, 16, .rw, 0x148⟩
/-- 02 R60: VU_CLIP_CTRL.window_log2 [20:16]. -/
def Fld.VU_CLIP_CTRL_window_log2 : Field := ⟨7, 16, 5, .rw, 0x10⟩
/-- 02 R60: VU_CLIP_CTRL.monitor_en [24:24]. -/
def Fld.VU_CLIP_CTRL_monitor_en : Field := ⟨7, 24, 1, .rw, 1⟩
/-- 02 R60: VU_QUANT_COUNT.count [31:0]. -/
def Fld.VU_QUANT_COUNT_count : Field := ⟨8, 0, 32, .ro, 0⟩
/-- 02 R60: VU_CLIP_COUNT.count [31:0]. -/
def Fld.VU_CLIP_COUNT_count : Field := ⟨9, 0, 32, .ro, 0⟩
/-- 02 R60: VU_NONFINITE_COUNT.count [31:0]. -/
def Fld.VU_NONFINITE_COUNT_count : Field := ⟨10, 0, 32, .ro, 0⟩
/-- 02 R60: VU_FMT_STATUS.quant_wrap [0:0]. -/
def Fld.VU_FMT_STATUS_quant_wrap : Field := ⟨11, 0, 1, .w1c, 0⟩
/-- 02 R60: VU_FMT_STATUS.clip_wrap [1:1]. -/
def Fld.VU_FMT_STATUS_clip_wrap : Field := ⟨11, 1, 1, .w1c, 0⟩
/-- 02 R60: VU_FMT_STATUS.nonfinite_wrap [2:2]. -/
def Fld.VU_FMT_STATUS_nonfinite_wrap : Field := ⟨11, 2, 1, .w1c, 0⟩
/-- 02 R60: VU_FMT_STATUS.clip_event [3:3]. -/
def Fld.VU_FMT_STATUS_clip_event : Field := ⟨11, 3, 1, .w1c, 0⟩
/-- 03 R104: MU_ACC_CTRL.escape_event_en [0:0]. -/
def Fld.MU_ACC_CTRL_escape_event_en : Field := ⟨12, 0, 1, .rw, 0⟩
/-- 03 R104: MU_ACC_CTRL.high_event_en [1:1]. -/
def Fld.MU_ACC_CTRL_high_event_en : Field := ⟨12, 1, 1, .rw, 0⟩
/-- 03 R104: MU_ESCAPE_COUNT.count [31:0]. -/
def Fld.MU_ESCAPE_COUNT_count : Field := ⟨13, 0, 32, .ro, 0⟩
/-- 03 R104: MU_TRUNC_COUNT.count [31:0]. -/
def Fld.MU_TRUNC_COUNT_count : Field := ⟨14, 0, 32, .ro, 0⟩
/-- 03 R104: MU_HIGH_COUNT.count [31:0]. -/
def Fld.MU_HIGH_COUNT_count : Field := ⟨15, 0, 32, .ro, 0⟩
/-- 03 R104: MU_ACC_STATUS.esc_pos [0:0]. -/
def Fld.MU_ACC_STATUS_esc_pos : Field := ⟨16, 0, 1, .w1c, 0⟩
/-- 03 R104: MU_ACC_STATUS.esc_neg [1:1]. -/
def Fld.MU_ACC_STATUS_esc_neg : Field := ⟨16, 1, 1, .w1c, 0⟩
/-- 03 R104: MU_ACC_STATUS.escape_wrap [2:2]. -/
def Fld.MU_ACC_STATUS_escape_wrap : Field := ⟨16, 2, 1, .w1c, 0⟩
/-- 03 R104: MU_ACC_STATUS.trunc_wrap [3:3]. -/
def Fld.MU_ACC_STATUS_trunc_wrap : Field := ⟨16, 3, 1, .w1c, 0⟩
/-- 03 R104: MU_ACC_STATUS.high_wrap [4:4]. -/
def Fld.MU_ACC_STATUS_high_wrap : Field := ⟨16, 4, 1, .w1c, 0⟩
/-- 03 R104: MU_ANCHOR_01.anchor0 [15:0]. -/
def Fld.MU_ANCHOR_01_anchor0 : Field := ⟨17, 0, 16, .ro, 0⟩
/-- 03 R104: MU_ANCHOR_01.anchor1 [31:16]. -/
def Fld.MU_ANCHOR_01_anchor1 : Field := ⟨17, 16, 16, .ro, 0⟩
/-- 03 R104: MU_ANCHOR_23.anchor2 [15:0]. -/
def Fld.MU_ANCHOR_23_anchor2 : Field := ⟨18, 0, 16, .ro, 0⟩
/-- 03 R104: MU_ANCHOR_23.anchor3 [31:16]. -/
def Fld.MU_ANCHOR_23_anchor3 : Field := ⟨18, 16, 16, .ro, 0⟩
/-- 03 R104: VU_ACC_CTRL.escape_event_en [0:0]. -/
def Fld.VU_ACC_CTRL_escape_event_en : Field := ⟨19, 0, 1, .rw, 0⟩
/-- 03 R104: VU_ACC_CTRL.high_event_en [1:1]. -/
def Fld.VU_ACC_CTRL_high_event_en : Field := ⟨19, 1, 1, .rw, 0⟩
/-- 03 R104: VU_ESCAPE_COUNT.count [31:0]. -/
def Fld.VU_ESCAPE_COUNT_count : Field := ⟨20, 0, 32, .ro, 0⟩
/-- 03 R104: VU_TRUNC_COUNT.count [31:0]. -/
def Fld.VU_TRUNC_COUNT_count : Field := ⟨21, 0, 32, .ro, 0⟩
/-- 03 R104: VU_HIGH_COUNT.count [31:0]. -/
def Fld.VU_HIGH_COUNT_count : Field := ⟨22, 0, 32, .ro, 0⟩
/-- 03 R104: VU_ACC_STATUS.esc_pos [0:0]. -/
def Fld.VU_ACC_STATUS_esc_pos : Field := ⟨23, 0, 1, .w1c, 0⟩
/-- 03 R104: VU_ACC_STATUS.esc_neg [1:1]. -/
def Fld.VU_ACC_STATUS_esc_neg : Field := ⟨23, 1, 1, .w1c, 0⟩
/-- 03 R104: VU_ACC_STATUS.escape_wrap [2:2]. -/
def Fld.VU_ACC_STATUS_escape_wrap : Field := ⟨23, 2, 1, .w1c, 0⟩
/-- 03 R104: VU_ACC_STATUS.trunc_wrap [3:3]. -/
def Fld.VU_ACC_STATUS_trunc_wrap : Field := ⟨23, 3, 1, .w1c, 0⟩
/-- 03 R104: VU_ACC_STATUS.high_wrap [4:4]. -/
def Fld.VU_ACC_STATUS_high_wrap : Field := ⟨23, 4, 1, .w1c, 0⟩
/-- 04 R179: WVR_CORE_ID.site_index [8:0]. -/
def Fld.WVR_CORE_ID_site_index : Field := ⟨24, 0, 9, .ro, 0⟩
/-- 04 R179: WVR_CORE_ID.lane [11:9]. -/
def Fld.WVR_CORE_ID_lane : Field := ⟨24, 9, 3, .ro, 0⟩
/-- 04 R179: WVR_CORE_ID.lane_valid [12:12]. -/
def Fld.WVR_CORE_ID_lane_valid : Field := ⟨24, 12, 1, .ro, 0⟩
/-- 04 R179: WVR_CORE_STATE.state [2:0]. -/
def Fld.WVR_CORE_STATE_state : Field := ⟨25, 0, 3, .ro, 0⟩
/-- 04 R179: WVR_CORE_STATE.resident [10:3]. -/
def Fld.WVR_CORE_STATE_resident : Field := ⟨25, 3, 8, .ro, 0⟩
/-- 04 R179: WVR_CORE_STATE.running_slot [13:11]. -/
def Fld.WVR_CORE_STATE_running_slot : Field := ⟨25, 11, 3, .ro, 0⟩
/-- 04 R179: WVR_CORE_STATE.running_valid [14:14]. -/
def Fld.WVR_CORE_STATE_running_valid : Field := ⟨25, 14, 1, .ro, 0⟩
/-- 04 R179: WVR_CORE_PROGRESS_LO.count_lo [31:0]. -/
def Fld.WVR_CORE_PROGRESS_LO_count_lo : Field := ⟨26, 0, 32, .ro, 0⟩
/-- 04 R179: WVR_CORE_PROGRESS_HI.count_hi [31:0]. -/
def Fld.WVR_CORE_PROGRESS_HI_count_hi : Field := ⟨27, 0, 32, .ro, 0⟩
/-- 04 R179: LS_SLICE.base_seg [4:0]. -/
def Fld.LS_SLICE_base_seg : Field := ⟨28, 0, 5, .ro, 0⟩
/-- 04 R179: LS_SLICE.len_seg [10:5]. -/
def Fld.LS_SLICE_len_seg : Field := ⟨28, 5, 6, .ro, 0⟩
/-- 04 R179: LS_ECC_STATUS.corr_count [15:0]. -/
def Fld.LS_ECC_STATUS_corr_count : Field := ⟨29, 0, 16, .ro, 0⟩
/-- 04 R179: LS_ECC_STATUS.corr_wrap [16:16]. -/
def Fld.LS_ECC_STATUS_corr_wrap : Field := ⟨29, 16, 1, .w1c, 0⟩
/-- 04 R179: LS_ECC_STATUS.uncorr [17:17]. -/
def Fld.LS_ECC_STATUS_uncorr : Field := ⟨29, 17, 1, .w1c, 0⟩
/-- 04 R179: LS_UNCORR_ADDR.line [11:0]. -/
def Fld.LS_UNCORR_ADDR_line : Field := ⟨30, 0, 12, .ro, 0⟩
/-- 04 R179: LS_SCRUB.start [0:0]. -/
def Fld.LS_SCRUB_start : Field := ⟨31, 0, 1, .wo, 0⟩
/-- 04 R179: LS_SCRUB.whole [1:1]. -/
def Fld.LS_SCRUB_whole : Field := ⟨31, 1, 1, .rw, 0⟩
/-- 04 R179: LS_SCRUB.slot_mask [9:2]. -/
def Fld.LS_SCRUB_slot_mask : Field := ⟨31, 2, 8, .rw, 0⟩
/-- 04 R179: LS_SCRUB.busy [16:16]. -/
def Fld.LS_SCRUB_busy : Field := ⟨31, 16, 1, .ro, 0⟩
/-- 04 R179: LS_SCRUB.done [17:17]. -/
def Fld.LS_SCRUB_done : Field := ⟨31, 17, 1, .w1c, 0⟩
/-- 04 R179: LS_SCRUB.refused [18:18]. -/
def Fld.LS_SCRUB_refused : Field := ⟨31, 18, 1, .w1c, 0⟩
/-- 04 R179: MU_STATUS.busy [0:0]. -/
def Fld.MU_STATUS_busy : Field := ⟨32, 0, 1, .ro, 0⟩
/-- 04 R179: MU_STATUS.array_sel [1:1]. -/
def Fld.MU_STATUS_array_sel : Field := ⟨32, 1, 1, .ro, 0⟩
/-- 04 R179: MU_STATUS.writeback [2:2]. -/
def Fld.MU_STATUS_writeback : Field := ⟨32, 2, 1, .ro, 0⟩
/-- 04 R179: VU_STATUS.busy [0:0]. -/
def Fld.VU_STATUS_busy : Field := ⟨33, 0, 1, .ro, 0⟩
/-- 04 R179: XL_L1_MISS_COUNT.count [31:0]. -/
def Fld.XL_L1_MISS_COUNT_count : Field := ⟨34, 0, 32, .ro, 0⟩
/-- 04 R179: XL_L1_STATUS.miss_wrap [0:0]. -/
def Fld.XL_L1_STATUS_miss_wrap : Field := ⟨35, 0, 1, .w1c, 0⟩
/-- 04 R181: RWS_LANE_MAP.lanes [31:0]. -/
def Fld.RWS_LANE_MAP_lanes : Field := ⟨36, 0, 32, .ro, 0x76543210⟩
/-- 04 R181: RWS_SITE_STATE.slots [17:0]. -/
def Fld.RWS_SITE_STATE_slots : Field := ⟨37, 0, 18, .ro, 0x10000⟩
/-- 04 R181: RWS_SPARE_CMD.lane [2:0]. -/
def Fld.RWS_SPARE_CMD_lane : Field := ⟨38, 0, 3, .wo, 0⟩
/-- 04 R181: RWS_SPARE_CMD.new_slot [6:3]. -/
def Fld.RWS_SPARE_CMD_new_slot : Field := ⟨38, 3, 4, .wo, 0⟩
/-- 04 R181: RWS_SPARE_CMD.fate [8:7]. -/
def Fld.RWS_SPARE_CMD_fate : Field := ⟨38, 7, 2, .wo, 0⟩
/-- 04 R181: RWS_SPARE_STATUS.done [0:0]. -/
def Fld.RWS_SPARE_STATUS_done : Field := ⟨39, 0, 1, .w1c, 0⟩
/-- 04 R181: RWS_SPARE_STATUS.refused [1:1]. -/
def Fld.RWS_SPARE_STATUS_refused : Field := ⟨39, 1, 1, .w1c, 0⟩
/-- 04 R181: RWS_MERGE_CTRL.merge_window [2:0]. -/
def Fld.RWS_MERGE_CTRL_merge_window : Field := ⟨40, 0, 3, .rw, 2⟩
/-- 04 R181: RWS_MERGE_CTRL.merge_en [3:3]. -/
def Fld.RWS_MERGE_CTRL_merge_en : Field := ⟨40, 3, 1, .rw, 1⟩
/-- 04 R181: RWS_ACCESS_COUNT.count [31:0]. -/
def Fld.RWS_ACCESS_COUNT_count : Field := ⟨41, 0, 32, .ro, 0⟩
/-- 04 R181: RWS_MERGED_COUNT.count [31:0]. -/
def Fld.RWS_MERGED_COUNT_count : Field := ⟨42, 0, 32, .ro, 0⟩
/-- 04 R181: RWS_COUNT_STATUS.access_wrap [0:0]. -/
def Fld.RWS_COUNT_STATUS_access_wrap : Field := ⟨43, 0, 1, .w1c, 0⟩
/-- 04 R181: RWS_COUNT_STATUS.merged_wrap [1:1]. -/
def Fld.RWS_COUNT_STATUS_merged_wrap : Field := ⟨43, 1, 1, .w1c, 0⟩
/-- 04 R181: RWS_ECC_STATUS.corr_count [15:0]. -/
def Fld.RWS_ECC_STATUS_corr_count : Field := ⟨44, 0, 16, .ro, 0⟩
/-- 04 R181: RWS_ECC_STATUS.corr_wrap [16:16]. -/
def Fld.RWS_ECC_STATUS_corr_wrap : Field := ⟨44, 16, 1, .w1c, 0⟩
/-- 04 R181: RWS_ECC_STATUS.uncorr [17:17]. -/
def Fld.RWS_ECC_STATUS_uncorr : Field := ⟨44, 17, 1, .w1c, 0⟩
/-- 04 R181: RWS_UNCORR_ADDR.line [12:0]. -/
def Fld.RWS_UNCORR_ADDR_line : Field := ⟨45, 0, 13, .ro, 0⟩
/-- 04 R181: RWS_SEG_OWNER.owners [31:0]. -/
def Fld.RWS_SEG_OWNER_owners : Field := ⟨46, 0, 32, .ro, 0⟩
/-- 04 R183: SEAM_DIV.west_div [2:0]. -/
def Fld.SEAM_DIV_west_div : Field := ⟨47, 0, 3, .ro, 4⟩
/-- 04 R183: SEAM_DIV.east_div [6:4]. -/
def Fld.SEAM_DIV_east_div : Field := ⟨47, 4, 3, .ro, 4⟩
/-- 04 R183: SEAM_HOLD.held_w [6:0]. -/
def Fld.SEAM_HOLD_held_w : Field := ⟨48, 0, 7, .ro, 0⟩
/-- 04 R183: SEAM_HOLD.held_e [14:8]. -/
def Fld.SEAM_HOLD_held_e : Field := ⟨48, 8, 7, .ro, 0⟩
/-- 04 R183: SEAM_WAKE_COUNT.count [31:0]. -/
def Fld.SEAM_WAKE_COUNT_count : Field := ⟨49, 0, 32, .ro, 0⟩
/-- 04 R183: SEAM_STALL_COUNT.count [31:0]. -/
def Fld.SEAM_STALL_COUNT_count : Field := ⟨50, 0, 32, .ro, 0⟩
/-- 04 R183: SEAM_STATUS.wake_wrap [0:0]. -/
def Fld.SEAM_STATUS_wake_wrap : Field := ⟨51, 0, 1, .w1c, 0⟩
/-- 04 R183: SEAM_STATUS.stall_wrap [1:1]. -/
def Fld.SEAM_STATUS_stall_wrap : Field := ⟨51, 1, 1, .w1c, 0⟩
/-- 04 R184: FC_BRIDGE_STATUS.retired [15:0]. -/
def Fld.FC_BRIDGE_STATUS_retired : Field := ⟨52, 0, 16, .ro, 0⟩
/-- 04 R184: FC_BRIDGE_STATUS.replay_wrap [16:16]. -/
def Fld.FC_BRIDGE_STATUS_replay_wrap : Field := ⟨52, 16, 1, .w1c, 0⟩
/-- 04 R184: FC_BRIDGE_STATUS.poison_seen [17:17]. -/
def Fld.FC_BRIDGE_STATUS_poison_seen : Field := ⟨52, 17, 1, .w1c, 0⟩
/-- 04 R184: FC_BRIDGE_REPLAY.count [31:0]. -/
def Fld.FC_BRIDGE_REPLAY_count : Field := ⟨53, 0, 32, .ro, 0⟩
/-- 06 R265: PG_KV_POOL_LO.base_lo [31:16]. -/
def Fld.PG_KV_POOL_LO_base_lo : Field := ⟨54, 16, 16, .ro, 0⟩
/-- 06 R265: PG_KV_POOL_HI.base_hi [23:0]. -/
def Fld.PG_KV_POOL_HI_base_hi : Field := ⟨55, 0, 24, .ro, 0⟩
/-- 06 R265: PG_KV_POOL_PAGES.pages [23:0]. -/
def Fld.PG_KV_POOL_PAGES_pages : Field := ⟨56, 0, 24, .ro, 0⟩
/-- 06 R265: PG_KV_T2_QUOTA.quota [23:0]. -/
def Fld.PG_KV_T2_QUOTA_quota : Field := ⟨57, 0, 24, .ro, 0⟩
/-- 06 R265: PG_KV_SEQ_LO.table_lo [31:6]. -/
def Fld.PG_KV_SEQ_LO_table_lo : Field := ⟨58, 6, 26, .ro, 0⟩
/-- 06 R265: PG_KV_SEQ_HI.table_hi [23:0]. -/
def Fld.PG_KV_SEQ_HI_table_hi : Field := ⟨59, 0, 24, .ro, 0⟩
/-- 06 R265: PG_KV_SEQ_MAX.entries [23:0]. -/
def Fld.PG_KV_SEQ_MAX_entries : Field := ⟨60, 0, 24, .ro, 0⟩
/-- 06 R265: PG_KV_T2_USED.pages [23:0]. -/
def Fld.PG_KV_T2_USED_pages : Field := ⟨61, 0, 24, .ro, 0⟩
/-- 06 R265: PG_KV_T3_USED.pages [23:0]. -/
def Fld.PG_KV_T3_USED_pages : Field := ⟨62, 0, 24, .ro, 0⟩
/-- 06 R265: PG_KV_T4_USED.pages [23:0]. -/
def Fld.PG_KV_T4_USED_pages : Field := ⟨63, 0, 24, .ro, 0⟩
/-- 06 R265: PG_KV_FREE.pages [23:0]. -/
def Fld.PG_KV_FREE_pages : Field := ⟨64, 0, 24, .ro, 0⟩
/-- 06 R265: PG_KV_JOIN_COUNT.count [31:0]. -/
def Fld.PG_KV_JOIN_COUNT_count : Field := ⟨65, 0, 32, .ro, 0⟩
/-- 06 R265: PG_KV_DEFER_COUNT.count [31:0]. -/
def Fld.PG_KV_DEFER_COUNT_count : Field := ⟨66, 0, 32, .ro, 0⟩
/-- 06 R265: PG_KV_SPILL_COUNT.count [31:0]. -/
def Fld.PG_KV_SPILL_COUNT_count : Field := ⟨67, 0, 32, .ro, 0⟩
/-- 06 R265: PG_KV_STATUS.join_wrap [0:0]. -/
def Fld.PG_KV_STATUS_join_wrap : Field := ⟨68, 0, 1, .w1c, 0⟩
/-- 06 R265: PG_KV_STATUS.defer_wrap [1:1]. -/
def Fld.PG_KV_STATUS_defer_wrap : Field := ⟨68, 1, 1, .w1c, 0⟩
/-- 06 R265: PG_KV_STATUS.spill_wrap [2:2]. -/
def Fld.PG_KV_STATUS_spill_wrap : Field := ⟨68, 2, 1, .w1c, 0⟩
/-- 06 R265: PG_KV_STATUS.defer_event [3:3]. -/
def Fld.PG_KV_STATUS_defer_event : Field := ⟨68, 3, 1, .w1c, 0⟩
/-- 06 R265: PG_KV_STATUS.defer_event_en [8:8]. -/
def Fld.PG_KV_STATUS_defer_event_en : Field := ⟨68, 8, 1, .rw, 0⟩
/-- 06 R265: PG_KV_STEP_LO.step_lo [31:0]. -/
def Fld.PG_KV_STEP_LO_step_lo : Field := ⟨69, 0, 32, .ro, 0⟩
/-- 06 R265: PG_KV_STEP_HI.step_hi [31:0]. -/
def Fld.PG_KV_STEP_HI_step_hi : Field := ⟨70, 0, 32, .ro, 0⟩
/-- 06 R265: PG_KV_LIST_LO.list_lo [31:6]. -/
def Fld.PG_KV_LIST_LO_list_lo : Field := ⟨71, 6, 26, .ro, 0⟩
/-- 06 R265: PG_KV_LIST_HI.list_hi [23:0]. -/
def Fld.PG_KV_LIST_HI_list_hi : Field := ⟨72, 0, 24, .ro, 0⟩
/-- 06 R265: PG_KV_LIST_SLOTS.slots [31:0]. -/
def Fld.PG_KV_LIST_SLOTS_slots : Field := ⟨73, 0, 32, .ro, 0⟩
/-- 07 R326: RIM_PLAIT_ADDR_LO.addr_lo [31:6]. -/
def Fld.RIM_PLAIT_ADDR_LO_addr_lo : Field := ⟨74, 6, 26, .rw, 0⟩
/-- 07 R326: RIM_PLAIT_ADDR_HI.addr_hi [31:0]. -/
def Fld.RIM_PLAIT_ADDR_HI_addr_hi : Field := ⟨75, 0, 32, .rw, 0⟩
/-- 07 R326: RIM_PLAIT_CMD.op [1:0]. -/
def Fld.RIM_PLAIT_CMD_op : Field := ⟨76, 0, 2, .wo, 0⟩
/-- 07 R326: RIM_PLAIT_STATUS.state [2:0]. -/
def Fld.RIM_PLAIT_STATUS_state : Field := ⟨77, 0, 3, .ro, 0⟩
/-- 07 R326: RIM_PLAIT_STATUS.done [3:3]. -/
def Fld.RIM_PLAIT_STATUS_done : Field := ⟨77, 3, 1, .w1c, 0⟩
/-- 07 R326: RIM_PLAIT_STATUS.failed [4:4]. -/
def Fld.RIM_PLAIT_STATUS_failed : Field := ⟨77, 4, 1, .w1c, 0⟩
/-- 07 R326: RIM_PLAIT_STATUS.reduced [5:5]. -/
def Fld.RIM_PLAIT_STATUS_reduced : Field := ⟨77, 5, 1, .w1c, 0⟩
/-- 07 R326: RIM_PLAIT_STATUS.done_event_en [6:6]. -/
def Fld.RIM_PLAIT_STATUS_done_event_en : Field := ⟨77, 6, 1, .rw, 0⟩
/-- 07 R326: RIM_PLAIT_ERR.code [7:0]. -/
def Fld.RIM_PLAIT_ERR_code : Field := ⟨78, 0, 8, .ro, 0⟩
/-- 07 R326: RIM_PLAIT_ERR_OFF.offset [31:0]. -/
def Fld.RIM_PLAIT_ERR_OFF_offset : Field := ⟨79, 0, 32, .ro, 0⟩
/-- 07 R326: RIM_PLAIT_GEN_LO.gen_lo [31:0]. -/
def Fld.RIM_PLAIT_GEN_LO_gen_lo : Field := ⟨80, 0, 32, .ro, 0⟩
/-- 07 R326: RIM_PLAIT_GEN_HI.gen_hi [31:0]. -/
def Fld.RIM_PLAIT_GEN_HI_gen_hi : Field := ⟨81, 0, 32, .ro, 0⟩
/-- 07 R326: RIM_PLAIT_PENDING.contexts [11:0]. -/
def Fld.RIM_PLAIT_PENDING_contexts : Field := ⟨82, 0, 12, .ro, 0⟩
/-- 07 R326: RIM_PLAIT_PENDING.channels [20:12]. -/
def Fld.RIM_PLAIT_PENDING_channels : Field := ⟨82, 12, 9, .ro, 0⟩
/-- 07 R326: RIM_PLAIT_PENDING.cores [29:21]. -/
def Fld.RIM_PLAIT_PENDING_cores : Field := ⟨82, 21, 9, .ro, 0⟩
/-- 07 R330: CAP_VERSION.table_ver [7:0]. -/
def Fld.CAP_VERSION_table_ver : Field := ⟨83, 0, 8, .ro, 1⟩
/-- 07 R330: CAP_VERSION.profile [15:8]. -/
def Fld.CAP_VERSION_profile : Field := ⟨83, 8, 8, .ro, 1⟩
/-- 07 R330: CAP_GEN.gen [31:0]. -/
def Fld.CAP_GEN_gen : Field := ⟨84, 0, 32, .ro, 0⟩
/-- 07 R330: CAP_MODULE.module [13:0]. -/
def Fld.CAP_MODULE_module : Field := ⟨85, 0, 14, .ro, 0⟩
/-- 07 R330: CAP_MODULE.module_valid [14:14]. -/
def Fld.CAP_MODULE_module_valid : Field := ⟨85, 14, 1, .ro, 0⟩
/-- 07 R330: CAP_COUNTS.cores [8:0]. -/
def Fld.CAP_COUNTS_cores : Field := ⟨86, 0, 9, .ro, 0⟩
/-- 07 R330: CAP_COUNTS.channels [17:9]. -/
def Fld.CAP_COUNTS_channels : Field := ⟨86, 9, 9, .ro, 0⟩
/-- 07 R330: CAP_COUNTS.ports [24:18]. -/
def Fld.CAP_COUNTS_ports : Field := ⟨86, 18, 7, .ro, 0⟩
/-- 07 R330: CAP_HBM_MIB.mib [31:0]. -/
def Fld.CAP_HBM_MIB_mib : Field := ⟨87, 0, 32, .ro, 0⟩
/-- 07 R330: CAP_SRAM_KIB.kib [31:0]. -/
def Fld.CAP_SRAM_KIB_kib : Field := ⟨88, 0, 32, .ro, 0⟩
/-- 07 R330: CAP_PEAK_2X4.gops [31:0]. -/
def Fld.CAP_PEAK_2X4_gops : Field := ⟨89, 0, 32, .ro, 0⟩
/-- 07 R330: CAP_PEAK_4X4.gops [31:0]. -/
def Fld.CAP_PEAK_4X4_gops : Field := ⟨90, 0, 32, .ro, 0⟩
/-- 07 R330: CAP_PEAK_FP8.gops [31:0]. -/
def Fld.CAP_PEAK_FP8_gops : Field := ⟨91, 0, 32, .ro, 0⟩
/-- 07 R330: CAP_PEAK_BF16.gops [31:0]. -/
def Fld.CAP_PEAK_BF16_gops : Field := ⟨92, 0, 32, .ro, 0⟩
/-- 07 R330: CAP_PEAK_FP32.gflops [31:0]. -/
def Fld.CAP_PEAK_FP32_gflops : Field := ⟨93, 0, 32, .ro, 0⟩
/-- 07 R330: CAP_CORE_MAP.present [31:0]. -/
def Fld.CAP_CORE_MAP_present : Field := ⟨94, 0, 32, .ro, 0⟩
/-- 07 R330: CAP_CHAN_MAP.present [31:0]. -/
def Fld.CAP_CHAN_MAP_present : Field := ⟨95, 0, 32, .ro, 0⟩
/-- 07 R330: CAP_PORT_MAP.present [31:0]. -/
def Fld.CAP_PORT_MAP_present : Field := ⟨96, 0, 32, .ro, 0⟩
/-- 07 R330: CAP_PEER.peer [13:0]. -/
def Fld.CAP_PEER_peer : Field := ⟨97, 0, 14, .ro, 0⟩
/-- 07 R330: CAP_PEER.peer_valid [14:14]. -/
def Fld.CAP_PEER_peer_valid : Field := ⟨97, 14, 1, .ro, 0⟩
/-- 07 R330: CAP_PEER.not_ready [15:15]. -/
def Fld.CAP_PEER_not_ready : Field := ⟨97, 15, 1, .ro, 0⟩
/-- 07 R330: CAP_PEER.link [17:16]. -/
def Fld.CAP_PEER_link : Field := ⟨97, 16, 2, .ro, 0⟩
/-- 07 R330: CAP_BASKET.state [2:0]. -/
def Fld.CAP_BASKET_state : Field := ⟨98, 0, 3, .ro, 0⟩
/-- 07 R330: CAP_BASKET.partition [7:3]. -/
def Fld.CAP_BASKET_partition : Field := ⟨98, 3, 5, .ro, 0⟩
/-- 07 R330: CAP_BASKET.cores [16:8]. -/
def Fld.CAP_BASKET_cores : Field := ⟨98, 8, 9, .ro, 0⟩
/-- 07 R330: CAP_BASKET.channels [25:17]. -/
def Fld.CAP_BASKET_channels : Field := ⟨98, 17, 9, .ro, 0⟩
/-- 07 R330: CAP_BASKET_SHAPE.members [14:0]. -/
def Fld.CAP_BASKET_SHAPE_members : Field := ⟨99, 0, 15, .ro, 0⟩
/-- 07 R330: CAP_BASKET_SHAPE.ordinal [28:15]. -/
def Fld.CAP_BASKET_SHAPE_ordinal : Field := ⟨99, 15, 14, .ro, 0⟩
/-- 07 R330: CAP_BASKET_UID_LO.uid_lo [31:0]. -/
def Fld.CAP_BASKET_UID_LO_uid_lo : Field := ⟨100, 0, 32, .ro, 0⟩
/-- 07 R330: CAP_BASKET_UID_HI.uid_hi [31:0]. -/
def Fld.CAP_BASKET_UID_HI_uid_hi : Field := ⟨101, 0, 32, .ro, 0⟩
/-- 08 R388: WVR_VERSION.version [7:0]. -/
def Fld.WVR_VERSION_version : Field := ⟨102, 0, 8, .ro, 1⟩
/-- 08 R388: WVR_REMOTE_TIMEOUT.us [23:0]. -/
def Fld.WVR_REMOTE_TIMEOUT_us : Field := ⟨103, 0, 24, .rw, 0x2710⟩
/-- 08 R388: WVR_QUANTUM.quantum_log2 [4:0]. -/
def Fld.WVR_QUANTUM_quantum_log2 : Field := ⟨104, 0, 5, .rw, 0x10⟩
/-- 08 R388: WVR_STATUS.stale_wrap [0:0]. -/
def Fld.WVR_STATUS_stale_wrap : Field := ⟨105, 0, 1, .w1c, 0⟩
/-- 08 R388: WVR_STATUS.poll_wrap [1:1]. -/
def Fld.WVR_STATUS_poll_wrap : Field := ⟨105, 1, 1, .w1c, 0⟩
/-- 08 R388: WVR_STATUS.watch_full [2:2]. -/
def Fld.WVR_STATUS_watch_full : Field := ⟨105, 2, 1, .w1c, 0⟩
/-- 08 R388: WVR_TIME_LO.time_lo [31:0]. -/
def Fld.WVR_TIME_LO_time_lo : Field := ⟨106, 0, 32, .ro, 0⟩
/-- 08 R388: WVR_TIME_HI.time_hi [31:0]. -/
def Fld.WVR_TIME_HI_time_hi : Field := ⟨107, 0, 32, .ro, 0⟩
/-- 08 R388: WVR_STALE_RESP_COUNT.count [31:0]. -/
def Fld.WVR_STALE_RESP_COUNT_count : Field := ⟨108, 0, 32, .ro, 0⟩
/-- 08 R388: WVR_WATCH_POLL_COUNT.count [31:0]. -/
def Fld.WVR_WATCH_POLL_COUNT_count : Field := ⟨109, 0, 32, .ro, 0⟩
/-- 08 R388: WVR_WATCH_USED.watches [13:0]. -/
def Fld.WVR_WATCH_USED_watches : Field := ⟨110, 0, 14, .ro, 0⟩
/-- 08 R388: WVR_FENCE_OP_ADDR_LO.addr_lo [31:4]. -/
def Fld.WVR_FENCE_OP_ADDR_LO_addr_lo : Field := ⟨111, 4, 28, .rw, 0⟩
/-- 08 R388: WVR_FENCE_OP_ADDR_HI.addr_hi [23:0]. -/
def Fld.WVR_FENCE_OP_ADDR_HI_addr_hi : Field := ⟨112, 0, 24, .rw, 0⟩
/-- 08 R388: WVR_FENCE_OP_VAL_LO.val_lo [31:0]. -/
def Fld.WVR_FENCE_OP_VAL_LO_val_lo : Field := ⟨113, 0, 32, .rw, 0⟩
/-- 08 R388: WVR_FENCE_OP_VAL_HI.val_hi [31:0]. -/
def Fld.WVR_FENCE_OP_VAL_HI_val_hi : Field := ⟨114, 0, 32, .rw, 0⟩
/-- 08 R388: WVR_FENCE_OP_CMD.basket_index [5:0]. -/
def Fld.WVR_FENCE_OP_CMD_basket_index : Field := ⟨115, 0, 6, .rw, 0⟩
/-- 08 R388: WVR_FENCE_OP_CMD.code [15:8]. -/
def Fld.WVR_FENCE_OP_CMD_code : Field := ⟨115, 8, 8, .rw, 0⟩
/-- 08 R388: WVR_FENCE_OP_CMD.go [16:16]. -/
def Fld.WVR_FENCE_OP_CMD_go : Field := ⟨115, 16, 1, .wo, 0⟩
/-- 08 R388: WVR_FENCE_OP_CMD.busy [17:17]. -/
def Fld.WVR_FENCE_OP_CMD_busy : Field := ⟨115, 17, 1, .ro, 0⟩
/-- 08 R388: WVR_FENCE_OP_CMD.done [18:18]. -/
def Fld.WVR_FENCE_OP_CMD_done : Field := ⟨115, 18, 1, .w1c, 0⟩
/-- 08 R388: WVR_FENCE_OP_CMD.error [19:19]. -/
def Fld.WVR_FENCE_OP_CMD_error : Field := ⟨115, 19, 1, .w1c, 0⟩
/-- 08 R389: WVR_Q_CFG.valid [0:0]. -/
def Fld.WVR_Q_CFG_valid : Field := ⟨116, 0, 1, .ro, 0⟩
/-- 08 R389: WVR_Q_CFG.kind [1:1]. -/
def Fld.WVR_Q_CFG_kind : Field := ⟨116, 1, 1, .ro, 0⟩
/-- 08 R389: WVR_Q_CFG.depth_log2 [6:2]. -/
def Fld.WVR_Q_CFG_depth_log2 : Field := ⟨116, 2, 5, .ro, 0⟩
/-- 08 R389: WVR_Q_CFG.context [17:7]. -/
def Fld.WVR_Q_CFG_context : Field := ⟨116, 7, 11, .ro, 0⟩
/-- 08 R389: WVR_Q_CFG.basket_index [23:18]. -/
def Fld.WVR_Q_CFG_basket_index : Field := ⟨116, 18, 6, .ro, 0⟩
/-- 08 R389: WVR_Q_PROD.count [31:0]. -/
def Fld.WVR_Q_PROD_count : Field := ⟨117, 0, 32, .ro, 0⟩
/-- 08 R389: WVR_Q_CONS.count [31:0]. -/
def Fld.WVR_Q_CONS_count : Field := ⟨118, 0, 32, .ro, 0⟩
/-- 08 R389: WVR_Q_CTRL.closed [0:0]. -/
def Fld.WVR_Q_CTRL_closed : Field := ⟨119, 0, 1, .rw, 0⟩
/-- 08 R389: WVR_Q_CTRL.note_en [1:1]. -/
def Fld.WVR_Q_CTRL_note_en : Field := ⟨119, 1, 1, .rw, 0⟩
/-- 08 R389: WVR_Q_CTRL.note_every_log2 [6:2]. -/
def Fld.WVR_Q_CTRL_note_every_log2 : Field := ⟨119, 2, 5, .rw, 0⟩
/-- 08 R389: WVR_Q_CTRL.overrun_event_en [7:7]. -/
def Fld.WVR_Q_CTRL_overrun_event_en : Field := ⟨119, 7, 1, .rw, 1⟩
/-- 08 R389: WVR_Q_NOTE_LO.addr_lo [31:6]. -/
def Fld.WVR_Q_NOTE_LO_addr_lo : Field := ⟨120, 6, 26, .rw, 0⟩
/-- 08 R389: WVR_Q_NOTE_HI.addr_hi [23:0]. -/
def Fld.WVR_Q_NOTE_HI_addr_hi : Field := ⟨121, 0, 24, .rw, 0⟩
/-- 08 R389: WVR_Q_DROP_COUNT.count [31:0]. -/
def Fld.WVR_Q_DROP_COUNT_count : Field := ⟨122, 0, 32, .ro, 0⟩
/-- 08 R389: WVR_Q_STATUS.drop_wrap [0:0]. -/
def Fld.WVR_Q_STATUS_drop_wrap : Field := ⟨123, 0, 1, .w1c, 0⟩
/-- 08 R389: WVR_Q_STATUS.overrun [1:1]. -/
def Fld.WVR_Q_STATUS_overrun : Field := ⟨123, 1, 1, .w1c, 0⟩
/-- 08 R389: WVR_Q_STATUS.partial [2:2]. -/
def Fld.WVR_Q_STATUS_partial : Field := ⟨123, 2, 1, .w1c, 0⟩
/-- 08 R389: WVR_Q_STATUS.closed_drop [3:3]. -/
def Fld.WVR_Q_STATUS_closed_drop : Field := ⟨123, 3, 1, .w1c, 0⟩
/-- 08 R389: WVR_Q_STATUS.head_buf [7:4]. -/
def Fld.WVR_Q_STATUS_head_buf : Field := ⟨123, 4, 4, .ro, 0⟩
/-- 08 R389: WVR_Q_STATUS.tail_buf [11:8]. -/
def Fld.WVR_Q_STATUS_tail_buf : Field := ⟨123, 8, 4, .ro, 0⟩
/-- 08 R389: WVR_Q_STATUS.spilled [12:12]. -/
def Fld.WVR_Q_STATUS_spilled : Field := ⟨123, 12, 1, .ro, 0⟩
/-- 08 R390: WVR_CTX_STATE.state [2:0]. -/
def Fld.WVR_CTX_STATE_state : Field := ⟨124, 0, 3, .ro, 0⟩
/-- 08 R390: WVR_CTX_STATE.basket_index [8:3]. -/
def Fld.WVR_CTX_STATE_basket_index : Field := ⟨124, 3, 6, .ro, 0⟩
/-- 08 R390: WVR_CTX_STATE.cores [17:9]. -/
def Fld.WVR_CTX_STATE_cores : Field := ⟨124, 9, 9, .ro, 0⟩
/-- 08 R390: WVR_CTX_SHARE.share [15:0]. -/
def Fld.WVR_CTX_SHARE_share : Field := ⟨125, 0, 16, .ro, 0⟩
/-- 08 R390: WVR_CTX_SHARE.label [19:16]. -/
def Fld.WVR_CTX_SHARE_label : Field := ⟨125, 16, 4, .ro, 0⟩
/-- 08 R390: WVR_CTX_CTRL.stop [0:0]. -/
def Fld.WVR_CTX_CTRL_stop : Field := ⟨126, 0, 1, .w1s, 0⟩
/-- 08 R390: WVR_CTX_CTRL.resume [1:1]. -/
def Fld.WVR_CTX_CTRL_resume : Field := ⟨126, 1, 1, .w1s, 0⟩
/-- 08 R390: WVR_CTX_CTRL.discard [2:2]. -/
def Fld.WVR_CTX_CTRL_discard : Field := ⟨126, 2, 1, .rw, 0⟩
/-- 08 R390: WVR_CTX_WAIT.ledger_used [14:0]. -/
def Fld.WVR_CTX_WAIT_ledger_used : Field := ⟨127, 0, 15, .ro, 0⟩
/-- 08 R390: WVR_CTX_WAIT.remote_slots [23:15]. -/
def Fld.WVR_CTX_WAIT_remote_slots : Field := ⟨127, 15, 9, .ro, 0⟩
/-- 08 R390: WVR_CTX_ISSUE_LO.lo [31:0]. -/
def Fld.WVR_CTX_ISSUE_LO_lo : Field := ⟨128, 0, 32, .ro, 0⟩
/-- 08 R390: WVR_CTX_ISSUE_HI.hi [31:0]. -/
def Fld.WVR_CTX_ISSUE_HI_hi : Field := ⟨129, 0, 32, .ro, 0⟩
/-- 08 R390: WVR_CTX_MU_LO.lo [31:0]. -/
def Fld.WVR_CTX_MU_LO_lo : Field := ⟨130, 0, 32, .ro, 0⟩
/-- 08 R390: WVR_CTX_MU_HI.hi [31:0]. -/
def Fld.WVR_CTX_MU_HI_hi : Field := ⟨131, 0, 32, .ro, 0⟩
/-- 08 R390: WVR_CTX_VU_LO.lo [31:0]. -/
def Fld.WVR_CTX_VU_LO_lo : Field := ⟨132, 0, 32, .ro, 0⟩
/-- 08 R390: WVR_CTX_VU_HI.hi [31:0]. -/
def Fld.WVR_CTX_VU_HI_hi : Field := ⟨133, 0, 32, .ro, 0⟩
/-- 08 R390: WVR_CTX_MOVE_LO.lo [31:0]. -/
def Fld.WVR_CTX_MOVE_LO_lo : Field := ⟨134, 0, 32, .ro, 0⟩
/-- 08 R390: WVR_CTX_MOVE_HI.hi [31:0]. -/
def Fld.WVR_CTX_MOVE_HI_hi : Field := ⟨135, 0, 32, .ro, 0⟩
/-- 08 R390: WVR_CTX_KERNEL_LO.lo [31:0]. -/
def Fld.WVR_CTX_KERNEL_LO_lo : Field := ⟨136, 0, 32, .ro, 0⟩
/-- 08 R390: WVR_CTX_KERNEL_HI.hi [31:0]. -/
def Fld.WVR_CTX_KERNEL_HI_hi : Field := ⟨137, 0, 32, .ro, 0⟩
/-- 08 R390: WVR_CTX_CMD_COUNT.count [31:0]. -/
def Fld.WVR_CTX_CMD_COUNT_count : Field := ⟨138, 0, 32, .ro, 0⟩
/-- 08 R390: WVR_CTX_STATUS.cmd_wrap [0:0]. -/
def Fld.WVR_CTX_STATUS_cmd_wrap : Field := ⟨139, 0, 1, .w1c, 0⟩
/-- 08 R390: WVR_CTX_STATUS.stopped [1:1]. -/
def Fld.WVR_CTX_STATUS_stopped : Field := ⟨139, 1, 1, .w1c, 0⟩
/-- 08 R390: WVR_CTX_STATUS.timeout_seen [2:2]. -/
def Fld.WVR_CTX_STATUS_timeout_seen : Field := ⟨139, 2, 1, .w1c, 0⟩
/-- 09 R438: XL_VERSION.version [7:0]. -/
def Fld.XL_VERSION_version : Field := ⟨140, 0, 8, .ro, 1⟩
/-- 09 R438: XL_L2_MISS_COUNT.count [31:0]. -/
def Fld.XL_L2_MISS_COUNT_count : Field := ⟨141, 0, 32, .ro, 0⟩
/-- 09 R438: XL_L2_STATUS.miss_wrap [3:0]. -/
def Fld.XL_L2_STATUS_miss_wrap : Field := ⟨142, 0, 4, .w1c, 0⟩
/-- 09 R438: XL_EDIT_ADDR_LO.addr_lo [31:16]. -/
def Fld.XL_EDIT_ADDR_LO_addr_lo : Field := ⟨143, 16, 16, .rw, 0⟩
/-- 09 R438: XL_EDIT_ADDR_HI.addr_hi [23:0]. -/
def Fld.XL_EDIT_ADDR_HI_addr_hi : Field := ⟨144, 0, 24, .rw, 0⟩
/-- 09 R438: XL_EDIT_COUNT.count [23:0]. -/
def Fld.XL_EDIT_COUNT_count : Field := ⟨145, 0, 24, .rw, 0⟩
/-- 09 R438: XL_EDIT_OBJ.handle [23:0]. -/
def Fld.XL_EDIT_OBJ_handle : Field := ⟨146, 0, 24, .rw, 0⟩
/-- 09 R438: XL_EDIT_GEN.generation [31:0]. -/
def Fld.XL_EDIT_GEN_generation : Field := ⟨147, 0, 32, .rw, 0⟩
/-- 09 R438: XL_EDIT_CMD.op [3:0]. -/
def Fld.XL_EDIT_CMD_op : Field := ⟨148, 0, 4, .rw, 0⟩
/-- 09 R438: XL_EDIT_CMD.basket_index [9:4]. -/
def Fld.XL_EDIT_CMD_basket_index : Field := ⟨148, 4, 6, .rw, 0⟩
/-- 09 R438: XL_EDIT_CMD.rights [12:10]. -/
def Fld.XL_EDIT_CMD_rights : Field := ⟨148, 10, 3, .rw, 0⟩
/-- 09 R438: XL_EDIT_CMD.go [16:16]. -/
def Fld.XL_EDIT_CMD_go : Field := ⟨148, 16, 1, .wo, 0⟩
/-- 09 R438: XL_EDIT_CMD.busy [17:17]. -/
def Fld.XL_EDIT_CMD_busy : Field := ⟨148, 17, 1, .ro, 0⟩
/-- 09 R438: XL_EDIT_CMD.done [18:18]. -/
def Fld.XL_EDIT_CMD_done : Field := ⟨148, 18, 1, .w1c, 0⟩
/-- 09 R438: XL_EDIT_CMD.error [19:19]. -/
def Fld.XL_EDIT_CMD_error : Field := ⟨148, 19, 1, .w1c, 0⟩
/-- 09 R438: XL_EDIT_CMD.err_code [23:20]. -/
def Fld.XL_EDIT_CMD_err_code : Field := ⟨148, 20, 4, .ro, 0⟩
/-- 09 R438: XL_ROOT_LO.root_lo [31:0]. -/
def Fld.XL_ROOT_LO_root_lo : Field := ⟨149, 0, 32, .ro, 0⟩
/-- 09 R438: XL_ROOT_HI.root_hi [31:0]. -/
def Fld.XL_ROOT_HI_root_hi : Field := ⟨150, 0, 32, .ro, 0⟩
/-- 09 R438: XL_FAULT_VA_LO.va_lo [31:0]. -/
def Fld.XL_FAULT_VA_LO_va_lo : Field := ⟨151, 0, 32, .ro, 0⟩
/-- 09 R438: XL_FAULT_VA_HI.va_hi [23:0]. -/
def Fld.XL_FAULT_VA_HI_va_hi : Field := ⟨152, 0, 24, .ro, 0⟩
/-- 09 R438: XL_FAULT_INFO.reason [2:0]. -/
def Fld.XL_FAULT_INFO_reason : Field := ⟨153, 0, 3, .ro, 0⟩
/-- 09 R438: XL_FAULT_INFO.level [5:3]. -/
def Fld.XL_FAULT_INFO_level : Field := ⟨153, 3, 3, .ro, 0⟩
/-- 09 R438: XL_FAULT_INFO.fault_event_en [6:6]. -/
def Fld.XL_FAULT_INFO_fault_event_en : Field := ⟨153, 6, 1, .rw, 0⟩
/-- 09 R438: XL_FAULT_COUNT.count [31:0]. -/
def Fld.XL_FAULT_COUNT_count : Field := ⟨154, 0, 32, .ro, 0⟩
/-- 09 R438: XL_FAULT_STATUS.fault_wrap [0:0]. -/
def Fld.XL_FAULT_STATUS_fault_wrap : Field := ⟨155, 0, 1, .w1c, 0⟩
/-- 09 R439: PG_FREE_FRAMES.frames [23:0]. -/
def Fld.PG_FREE_FRAMES_frames : Field := ⟨156, 0, 24, .ro, 0⟩
/-- 09 R439: PG_RESIDENT.pages [23:0]. -/
def Fld.PG_RESIDENT_pages : Field := ⟨157, 0, 24, .ro, 0⟩
/-- 09 R439: PG_SPILL_T3.pages [23:0]. -/
def Fld.PG_SPILL_T3_pages : Field := ⟨158, 0, 24, .ro, 0⟩
/-- 09 R439: PG_SPILL_T4.pages [23:0]. -/
def Fld.PG_SPILL_T4_pages : Field := ⟨159, 0, 24, .ro, 0⟩
/-- 09 R439: PG_GUEST_FRAMES.frames [23:0]. -/
def Fld.PG_GUEST_FRAMES_frames : Field := ⟨160, 0, 24, .rw, 0⟩
/-- 09 R439: PG_GUEST_USED.frames [23:0]. -/
def Fld.PG_GUEST_USED_frames : Field := ⟨161, 0, 24, .ro, 0⟩
/-- 09 R439: PG_T4_BASE_LO.base_lo [31:16]. -/
def Fld.PG_T4_BASE_LO_base_lo : Field := ⟨162, 16, 16, .rw, 0⟩
/-- 09 R439: PG_T4_BASE_HI.base_hi [31:0]. -/
def Fld.PG_T4_BASE_HI_base_hi : Field := ⟨163, 0, 32, .rw, 0⟩
/-- 09 R439: PG_T4_PAGES.pages [23:0]. -/
def Fld.PG_T4_PAGES_pages : Field := ⟨164, 0, 24, .rw, 0⟩
/-- 09 R439: PG_T4_PAGES.port [25:24]. -/
def Fld.PG_T4_PAGES_port : Field := ⟨164, 24, 2, .rw, 0⟩
/-- 09 R439: PG_OBJ_TABLE_LO.table_lo [31:5]. -/
def Fld.PG_OBJ_TABLE_LO_table_lo : Field := ⟨165, 5, 27, .rw, 0⟩
/-- 09 R439: PG_OBJ_TABLE_HI.table_hi [23:0]. -/
def Fld.PG_OBJ_TABLE_HI_table_hi : Field := ⟨166, 0, 24, .rw, 0⟩
/-- 09 R439: PG_OBJ_ENTRIES.entries [23:0]. -/
def Fld.PG_OBJ_ENTRIES_entries : Field := ⟨167, 0, 24, .rw, 0⟩
/-- 09 R439: PG_EVICT_COUNT.count [31:0]. -/
def Fld.PG_EVICT_COUNT_count : Field := ⟨168, 0, 32, .ro, 0⟩
/-- 09 R439: PG_FILL_COUNT.count [31:0]. -/
def Fld.PG_FILL_COUNT_count : Field := ⟨169, 0, 32, .ro, 0⟩
/-- 09 R439: PG_INPLACE_COUNT.count [31:0]. -/
def Fld.PG_INPLACE_COUNT_count : Field := ⟨170, 0, 32, .ro, 0⟩
/-- 09 R439: PG_TIER_STATUS.wrap [2:0]. -/
def Fld.PG_TIER_STATUS_wrap : Field := ⟨171, 0, 3, .w1c, 0⟩
/-- 09 R439: PG_TIER_STATUS.oom [3:3]. -/
def Fld.PG_TIER_STATUS_oom : Field := ⟨171, 3, 1, .w1c, 0⟩
/-- 09 R439: PG_TIER_STATUS.released [4:4]. -/
def Fld.PG_TIER_STATUS_released : Field := ⟨171, 4, 1, .w1c, 0⟩
/-- 09 R439: PG_TIER_STATUS.oom_event_en [5:5]. -/
def Fld.PG_TIER_STATUS_oom_event_en : Field := ⟨171, 5, 1, .rw, 0⟩
/-- 09 R439: PG_TIER_STATUS.release_event_en [6:6]. -/
def Fld.PG_TIER_STATUS_release_event_en : Field := ⟨171, 6, 1, .rw, 1⟩
/-- 09 R440: HB_REG_CTRL.bg_limit [3:0]. -/
def Fld.HB_REG_CTRL_bg_limit : Field := ⟨172, 0, 4, .rw, 0xa⟩
/-- 09 R440: HB_OVER_COUNT.count [31:0]. -/
def Fld.HB_OVER_COUNT_count : Field := ⟨173, 0, 32, .ro, 0⟩
/-- 09 R440: HB_AGED_COUNT.count [31:0]. -/
def Fld.HB_AGED_COUNT_count : Field := ⟨174, 0, 32, .ro, 0⟩
/-- 09 R440: HB_REG_STATUS.over_wrap [0:0]. -/
def Fld.HB_REG_STATUS_over_wrap : Field := ⟨175, 0, 1, .w1c, 0⟩
/-- 09 R440: HB_REG_STATUS.aged_wrap [1:1]. -/
def Fld.HB_REG_STATUS_aged_wrap : Field := ⟨175, 1, 1, .w1c, 0⟩
/-- 09 R440: HB_CLASS_CFG.base_prio [2:0]. -/
def Fld.HB_CLASS_CFG_base_prio : Field := ⟨176, 0, 3, .rw, 2⟩
/-- 09 R440: HB_CLASS_CFG.target [15:4]. -/
def Fld.HB_CLASS_CFG_target : Field := ⟨176, 4, 12, .rw, 0⟩
/-- 09 R440: HB_CLASS_LAT.ns [15:0]. -/
def Fld.HB_CLASS_LAT_ns : Field := ⟨177, 0, 16, .ro, 0⟩
/-- 09 R440: HB_MASTER_BUDGET.budget [23:0]. -/
def Fld.HB_MASTER_BUDGET_budget : Field := ⟨178, 0, 24, .rw, 0⟩
/-- 10 R492: WF_VERSION.version [7:0]. -/
def Fld.WF_VERSION_version : Field := ⟨179, 0, 8, .ro, 1⟩
/-- 10 R492: WF_CTRL.serving [0:0]. -/
def Fld.WF_CTRL_serving : Field := ⟨180, 0, 1, .ro, 0⟩
/-- 10 R492: WF_CTRL.loss_event_en [1:1]. -/
def Fld.WF_CTRL_loss_event_en : Field := ⟨180, 1, 1, .rw, 1⟩
/-- 10 R492: WF_LANE_THRESH.count [15:0]. -/
def Fld.WF_LANE_THRESH_count : Field := ⟨181, 0, 16, .rw, 0x10⟩
/-- 10 R492: WF_AGE.cycles [15:0]. -/
def Fld.WF_AGE_cycles : Field := ⟨182, 0, 16, .rw, 0x1000⟩
/-- 10 R492: WF_LOSS_COUNT.count [31:0]. -/
def Fld.WF_LOSS_COUNT_count : Field := ⟨183, 0, 32, .ro, 0⟩
/-- 10 R492: WF_UNREACH_COUNT.count [31:0]. -/
def Fld.WF_UNREACH_COUNT_count : Field := ⟨184, 0, 32, .ro, 0⟩
/-- 10 R492: WF_EPOCH_DROP_COUNT.count [31:0]. -/
def Fld.WF_EPOCH_DROP_COUNT_count : Field := ⟨185, 0, 32, .ro, 0⟩
/-- 10 R492: WF_HOP_EXCESS_COUNT.count [31:0]. -/
def Fld.WF_HOP_EXCESS_COUNT_count : Field := ⟨186, 0, 32, .ro, 0⟩
/-- 10 R492: WF_STATUS.wrap [3:0]. -/
def Fld.WF_STATUS_wrap : Field := ⟨187, 0, 4, .w1c, 0⟩
/-- 10 R492: WF_STATUS.loss [4:4]. -/
def Fld.WF_STATUS_loss : Field := ⟨187, 4, 1, .w1c, 0⟩
/-- 10 R492: WF_CLASS_CFG.prio [2:0]. -/
def Fld.WF_CLASS_CFG_prio : Field := ⟨188, 0, 3, .rw, 2⟩
/-- 10 R493: WF_PORT_STATE.state [2:0]. -/
def Fld.WF_PORT_STATE_state : Field := ⟨189, 0, 3, .ro, 0⟩
/-- 10 R493: WF_PORT_STATE.half_rate [3:3]. -/
def Fld.WF_PORT_STATE_half_rate : Field := ⟨189, 3, 1, .ro, 0⟩
/-- 10 R493: WF_PORT_STATE.lane_lo [5:4]. -/
def Fld.WF_PORT_STATE_lane_lo : Field := ⟨189, 4, 2, .ro, 0⟩
/-- 10 R493: WF_PORT_STATE.lane_hi [7:6]. -/
def Fld.WF_PORT_STATE_lane_hi : Field := ⟨189, 6, 2, .ro, 1⟩
/-- 10 R493: WF_PORT_STATE.spare_used [8:8]. -/
def Fld.WF_PORT_STATE_spare_used : Field := ⟨189, 8, 1, .ro, 0⟩
/-- 10 R493: WF_PORT_STATE.encrypted [9:9]. -/
def Fld.WF_PORT_STATE_encrypted : Field := ⟨189, 9, 1, .ro, 0⟩
/-- 10 R493: WF_PORT_PEER.peer [13:0]. -/
def Fld.WF_PORT_PEER_peer : Field := ⟨190, 0, 14, .ro, 0⟩
/-- 10 R493: WF_PORT_PEER.peer_valid [14:14]. -/
def Fld.WF_PORT_PEER_peer_valid : Field := ⟨190, 14, 1, .ro, 0⟩
/-- 10 R493: WF_PORT_PEER.not_ready [15:15]. -/
def Fld.WF_PORT_PEER_not_ready : Field := ⟨190, 15, 1, .ro, 0⟩
/-- 10 R493: WF_PORT_PEER.peer_port [22:16]. -/
def Fld.WF_PORT_PEER_peer_port : Field := ⟨190, 16, 7, .ro, 0⟩
/-- 10 R493: WF_PORT_CTRL.enable [0:0]. -/
def Fld.WF_PORT_CTRL_enable : Field := ⟨191, 0, 1, .rw, 1⟩
/-- 10 R493: WF_PORT_CTRL.retire [1:1]. -/
def Fld.WF_PORT_CTRL_retire : Field := ⟨191, 1, 1, .w1s, 0⟩
/-- 10 R493: WF_PORT_CTRL.hog_event_en [2:2]. -/
def Fld.WF_PORT_CTRL_hog_event_en : Field := ⟨191, 2, 1, .rw, 0⟩
/-- 10 R493: WF_FEC_CORR_COUNT.count [31:0]. -/
def Fld.WF_FEC_CORR_COUNT_count : Field := ⟨192, 0, 32, .ro, 0⟩
/-- 10 R493: WF_FEC_UNCORR_COUNT.count [31:0]. -/
def Fld.WF_FEC_UNCORR_COUNT_count : Field := ⟨193, 0, 32, .ro, 0⟩
/-- 10 R493: WF_REPLAY_COUNT.count [31:0]. -/
def Fld.WF_REPLAY_COUNT_count : Field := ⟨194, 0, 32, .ro, 0⟩
/-- 10 R493: WF_REVOKE_COUNT.count [31:0]. -/
def Fld.WF_REVOKE_COUNT_count : Field := ⟨195, 0, 32, .ro, 0⟩
/-- 10 R493: WF_HOG_COUNT.count [31:0]. -/
def Fld.WF_HOG_COUNT_count : Field := ⟨196, 0, 32, .ro, 0⟩
/-- 10 R493: WF_TX_EMPTY_COUNT.count [31:0]. -/
def Fld.WF_TX_EMPTY_COUNT_count : Field := ⟨197, 0, 32, .ro, 0⟩
/-- 10 R493: WF_SEAL_FAIL_COUNT.count [31:0]. -/
def Fld.WF_SEAL_FAIL_COUNT_count : Field := ⟨198, 0, 32, .ro, 0⟩
/-- 10 R493: WF_LANE_RECOVERY.rec_a [7:0]. -/
def Fld.WF_LANE_RECOVERY_rec_a : Field := ⟨199, 0, 8, .ro, 0⟩
/-- 10 R493: WF_LANE_RECOVERY.rec_b [15:8]. -/
def Fld.WF_LANE_RECOVERY_rec_b : Field := ⟨199, 8, 8, .ro, 0⟩
/-- 10 R493: WF_LANE_RECOVERY.rec_s [23:16]. -/
def Fld.WF_LANE_RECOVERY_rec_s : Field := ⟨199, 16, 8, .ro, 0⟩
/-- 10 R493: WF_PORT_STATUS.wrap [6:0]. -/
def Fld.WF_PORT_STATUS_wrap : Field := ⟨200, 0, 7, .w1c, 0⟩
/-- 10 R493: WF_PORT_STATUS.hog [7:7]. -/
def Fld.WF_PORT_STATUS_hog : Field := ⟨200, 7, 1, .w1c, 0⟩
/-- 10 R493: WF_PORT_STATUS.lost [8:8]. -/
def Fld.WF_PORT_STATUS_lost : Field := ⟨200, 8, 1, .w1c, 0⟩
/-- 10 R493: WF_PORT_STATUS.swapped [9:9]. -/
def Fld.WF_PORT_STATUS_swapped : Field := ⟨200, 9, 1, .w1c, 0⟩
/-- 11 R528: HI_VERSION.version [7:0]. -/
def Fld.HI_VERSION_version : Field := ⟨201, 0, 8, .ro, 1⟩
/-- 11 R528: HI_PART_ID.partition [4:0]. -/
def Fld.HI_PART_ID_partition : Field := ⟨202, 0, 5, .ro, 0⟩
/-- 11 R528: HI_PART_ID.link [6:5]. -/
def Fld.HI_PART_ID_link : Field := ⟨202, 5, 2, .ro, 0⟩
/-- 11 R528: HI_PART_ID.carrier [7:7]. -/
def Fld.HI_PART_ID_carrier : Field := ⟨202, 7, 1, .ro, 0⟩
/-- 11 R528: HI_PART_ID.lid [8:8]. -/
def Fld.HI_PART_ID_lid : Field := ⟨202, 8, 1, .bw, 0⟩
/-- 11 R528: HI_LINK_CFG.bifur [1:0]. -/
def Fld.HI_LINK_CFG_bifur : Field := ⟨203, 0, 2, .bw, 0⟩
/-- 11 R528: HI_LINK_CFG.role [5:2]. -/
def Fld.HI_LINK_CFG_role : Field := ⟨203, 2, 4, .bw, 0⟩
/-- 11 R528: HI_LINK_STATE.up [3:0]. -/
def Fld.HI_LINK_STATE_up : Field := ⟨204, 0, 4, .ro, 0⟩
/-- 11 R528: HI_PART_PORTS.ports [3:0]. -/
def Fld.HI_PART_PORTS_ports : Field := ⟨205, 0, 4, .bw, 0⟩
/-- 11 R528: HI_KEYSLOT.first [7:0]. -/
def Fld.HI_KEYSLOT_first : Field := ⟨206, 0, 8, .bw, 0⟩
/-- 11 R528: HI_KEYSLOT.count [16:8]. -/
def Fld.HI_KEYSLOT_count : Field := ⟨206, 8, 9, .bw, 0⟩
/-- 11 R528: HI_LABELS.labels [15:0]. -/
def Fld.HI_LABELS_labels : Field := ⟨207, 0, 16, .bw, 0⟩
/-- 11 R528: HI_CARVE_MAP.channels [31:0]. -/
def Fld.HI_CARVE_MAP_channels : Field := ⟨208, 0, 32, .bw, 0⟩
/-- 11 R528: HI_POOL_BASE_LO.base_lo [31:16]. -/
def Fld.HI_POOL_BASE_LO_base_lo : Field := ⟨209, 16, 16, .bw, 0⟩
/-- 11 R528: HI_POOL_BASE_HI.base_hi [31:0]. -/
def Fld.HI_POOL_BASE_HI_base_hi : Field := ⟨210, 0, 32, .bw, 0⟩
/-- 11 R528: HI_POOL_SIZE.pages [23:0]. -/
def Fld.HI_POOL_SIZE_pages : Field := ⟨211, 0, 24, .bw, 0⟩
/-- 11 R528: HI_POOL_SIZE.port [25:24]. -/
def Fld.HI_POOL_SIZE_port : Field := ⟨211, 24, 2, .bw, 0⟩
/-- 11 R528: HI_EVENT_STATUS.cap_change [0:0]. -/
def Fld.HI_EVENT_STATUS_cap_change : Field := ⟨212, 0, 1, .w1c, 0⟩
/-- 11 R528: HI_EVENT_STATUS.fault_notice [1:1]. -/
def Fld.HI_EVENT_STATUS_fault_notice : Field := ⟨212, 1, 1, .w1c, 0⟩
/-- 11 R528: HI_EVENT_STATUS.reattached [2:2]. -/
def Fld.HI_EVENT_STATUS_reattached : Field := ⟨212, 2, 1, .w1c, 0⟩
/-- 11 R528: HI_EVENT_STATUS.flr_done [3:3]. -/
def Fld.HI_EVENT_STATUS_flr_done : Field := ⟨212, 3, 1, .w1c, 0⟩
/-- 11 R528: HI_EVENT_STATUS.down_wrap [4:4]. -/
def Fld.HI_EVENT_STATUS_down_wrap : Field := ⟨212, 4, 1, .w1c, 0⟩
/-- 11 R528: HI_EVENT_EN.enable [3:0]. -/
def Fld.HI_EVENT_EN_enable : Field := ⟨213, 0, 4, .rw, 0⟩
/-- 11 R528: HI_LINK_DOWN_COUNT.count [31:0]. -/
def Fld.HI_LINK_DOWN_COUNT_count : Field := ⟨214, 0, 32, .ro, 0⟩
/-- 11 R528: HI_ATTACH.attached [0:0]. -/
def Fld.HI_ATTACH_attached : Field := ⟨215, 0, 1, .rw, 0⟩
/-- 11 R528: HI_ATTACH.bus_master [1:1]. -/
def Fld.HI_ATTACH_bus_master : Field := ⟨215, 1, 1, .ro, 0⟩
/-- 11 R528: HI_QVEC.vector [10:0]. -/
def Fld.HI_QVEC_vector : Field := ⟨216, 0, 11, .rw, 0⟩
/-- 11 R528: HI_QVEC.irq_en [11:11]. -/
def Fld.HI_QVEC_irq_en : Field := ⟨216, 11, 1, .rw, 0⟩
/-- 12 R589: LID_VERSION.version [7:0]. -/
def Fld.LID_VERSION_version : Field := ⟨217, 0, 8, .ro, 1⟩
/-- 12 R589: LID_STATUS.conf_mode [0:0]. -/
def Fld.LID_STATUS_conf_mode : Field := ⟨218, 0, 1, .ro, 0⟩
/-- 12 R589: LID_STATUS.owner_set [1:1]. -/
def Fld.LID_STATUS_owner_set : Field := ⟨218, 1, 1, .ro, 0⟩
/-- 12 R589: LID_STATUS.owner_locked [2:2]. -/
def Fld.LID_STATUS_owner_locked : Field := ⟨218, 2, 1, .ro, 0⟩
/-- 12 R589: LID_STATUS.owner_entry [5:3]. -/
def Fld.LID_STATUS_owner_entry : Field := ⟨218, 3, 3, .ro, 0⟩
/-- 12 R589: LID_SVN.fused_svn [15:0]. -/
def Fld.LID_SVN_fused_svn : Field := ⟨219, 0, 16, .ro, 0⟩
/-- 12 R589: LID_SVN.fw_svn [31:16]. -/
def Fld.LID_SVN_fw_svn : Field := ⟨219, 16, 16, .ro, 0⟩
/-- 12 R589: LID_REVOKE_TIMEOUT.us [23:0]. -/
def Fld.LID_REVOKE_TIMEOUT_us : Field := ⟨220, 0, 24, .rw, 0x186a0⟩
/-- 12 R589: LID_INTEGRITY_COUNT.count [31:0]. -/
def Fld.LID_INTEGRITY_COUNT_count : Field := ⟨221, 0, 32, .ro, 0⟩
/-- 12 R589: LID_ACK_SHORT_COUNT.count [31:0]. -/
def Fld.LID_ACK_SHORT_COUNT_count : Field := ⟨222, 0, 32, .ro, 0⟩
/-- 12 R589: LID_COUNT_STATUS.integ_wrap [0:0]. -/
def Fld.LID_COUNT_STATUS_integ_wrap : Field := ⟨223, 0, 1, .w1c, 0⟩
/-- 12 R589: LID_COUNT_STATUS.ack_wrap [1:1]. -/
def Fld.LID_COUNT_STATUS_ack_wrap : Field := ⟨223, 1, 1, .w1c, 0⟩
/-- 12 R589: LID_COUNT_STATUS.integ_event_en [2:2]. -/
def Fld.LID_COUNT_STATUS_integ_event_en : Field := ⟨223, 2, 1, .rw, 1⟩
/-- 12 R589: LID_OWNER_NONCE.nonce [31:0]. -/
def Fld.LID_OWNER_NONCE_nonce : Field := ⟨224, 0, 32, .ro, 0⟩
/-- 12 R589: LID_OWNER_DATA.data [31:0]. -/
def Fld.LID_OWNER_DATA_data : Field := ⟨225, 0, 32, .wo, 0⟩
/-- 12 R589: LID_OWNER_CMD.op [3:0]. -/
def Fld.LID_OWNER_CMD_op : Field := ⟨226, 0, 4, .rw, 0⟩
/-- 12 R589: LID_OWNER_CMD.challenge [8:8]. -/
def Fld.LID_OWNER_CMD_challenge : Field := ⟨226, 8, 1, .wo, 0⟩
/-- 12 R589: LID_OWNER_CMD.go [9:9]. -/
def Fld.LID_OWNER_CMD_go : Field := ⟨226, 9, 1, .wo, 0⟩
/-- 12 R589: LID_OWNER_CMD.nonce_valid [10:10]. -/
def Fld.LID_OWNER_CMD_nonce_valid : Field := ⟨226, 10, 1, .ro, 0⟩
/-- 12 R589: LID_OWNER_CMD.done [11:11]. -/
def Fld.LID_OWNER_CMD_done : Field := ⟨226, 11, 1, .w1c, 0⟩
/-- 12 R589: LID_OWNER_CMD.error [12:12]. -/
def Fld.LID_OWNER_CMD_error : Field := ⟨226, 12, 1, .w1c, 0⟩
/-- 12 R589: LID_OWNER_CMD.tries [16:13]. -/
def Fld.LID_OWNER_CMD_tries : Field := ⟨226, 13, 4, .ro, 8⟩
/-- 12 R589: LID_OWNER_ARG_LO.arg_lo [31:0]. -/
def Fld.LID_OWNER_ARG_LO_arg_lo : Field := ⟨227, 0, 32, .rw, 0⟩
/-- 12 R589: LID_OWNER_ARG_HI.arg_hi [31:0]. -/
def Fld.LID_OWNER_ARG_HI_arg_hi : Field := ⟨228, 0, 32, .rw, 0⟩
/-- 12 R589: LID_PART.state [2:0]. -/
def Fld.LID_PART_state : Field := ⟨229, 0, 3, .ro, 0⟩
/-- 12 R589: LID_PART.lid [3:3]. -/
def Fld.LID_PART_lid : Field := ⟨229, 3, 1, .ro, 0⟩
/-- 12 R589: LID_PART.sidecar_en [4:4]. -/
def Fld.LID_PART_sidecar_en : Field := ⟨229, 4, 1, .bw, 0⟩
/-- 12 R589: LID_PART.mem_slot [12:5]. -/
def Fld.LID_PART_mem_slot : Field := ⟨229, 5, 8, .ro, 0⟩
/-- 12 R589: LID_PART.epoch [20:13]. -/
def Fld.LID_PART_epoch : Field := ⟨229, 13, 8, .ro, 0⟩
/-- 12 R589: LID_PART.remove [21:21]. -/
def Fld.LID_PART_remove : Field := ⟨229, 21, 1, .w1s, 0⟩
/-- 12 R589: LID_PART.ack_short [22:22]. -/
def Fld.LID_PART_ack_short : Field := ⟨229, 22, 1, .w1c, 0⟩
/-- 12 R589: LID_PART.drained [23:23]. -/
def Fld.LID_PART_drained : Field := ⟨229, 23, 1, .ro, 1⟩
/-- 12 R589: LID_PART.tdisp [25:24]. -/
def Fld.LID_PART_tdisp : Field := ⟨229, 24, 2, .ro, 0⟩
/-- 12 R589: LID_ID_LO.id_lo [31:0]. -/
def Fld.LID_ID_LO_id_lo : Field := ⟨230, 0, 32, .ro, 0⟩
/-- 12 R589: LID_ID_HI.id_hi [31:0]. -/
def Fld.LID_ID_HI_id_hi : Field := ⟨231, 0, 32, .ro, 0⟩
/-- 12 R589: LID_CHARTER_GEN.gen [31:0]. -/
def Fld.LID_CHARTER_GEN_gen : Field := ⟨232, 0, 32, .ro, 0⟩
/-- 12 R589: LID_IMPORT_SRC_LO.src_lo [31:6]. -/
def Fld.LID_IMPORT_SRC_LO_src_lo : Field := ⟨233, 6, 26, .rw, 0⟩
/-- 12 R589: LID_IMPORT_SRC_HI.src_hi [23:0]. -/
def Fld.LID_IMPORT_SRC_HI_src_hi : Field := ⟨234, 0, 24, .rw, 0⟩
/-- 12 R589: LID_IMPORT_DST_LO.dst_lo [31:6]. -/
def Fld.LID_IMPORT_DST_LO_dst_lo : Field := ⟨235, 6, 26, .rw, 0⟩
/-- 12 R589: LID_IMPORT_DST_HI.dst_hi [23:0]. -/
def Fld.LID_IMPORT_DST_HI_dst_hi : Field := ⟨236, 0, 24, .rw, 0⟩
/-- 12 R589: LID_IMPORT_CMD.basket_index [5:0]. -/
def Fld.LID_IMPORT_CMD_basket_index : Field := ⟨237, 0, 6, .rw, 0⟩
/-- 12 R589: LID_IMPORT_CMD.go [8:8]. -/
def Fld.LID_IMPORT_CMD_go : Field := ⟨237, 8, 1, .wo, 0⟩
/-- 12 R589: LID_IMPORT_CMD.busy [9:9]. -/
def Fld.LID_IMPORT_CMD_busy : Field := ⟨237, 9, 1, .ro, 0⟩
/-- 12 R589: LID_IMPORT_CMD.done [10:10]. -/
def Fld.LID_IMPORT_CMD_done : Field := ⟨237, 10, 1, .w1c, 0⟩
/-- 12 R589: LID_IMPORT_CMD.error [11:11]. -/
def Fld.LID_IMPORT_CMD_error : Field := ⟨237, 11, 1, .w1c, 0⟩
/-- 12 R589: LID_IMPORT_CMD.err_code [15:12]. -/
def Fld.LID_IMPORT_CMD_err_code : Field := ⟨237, 12, 4, .ro, 0⟩
/-- 12 R589: LID_IMPORT_CHUNKS.chunks [23:0]. -/
def Fld.LID_IMPORT_CHUNKS_chunks : Field := ⟨238, 0, 24, .ro, 0⟩
/-- 12 R589: KS_LOAD_DATA.data [31:0]. -/
def Fld.KS_LOAD_DATA_data : Field := ⟨239, 0, 32, .wo, 0⟩
/-- 12 R589: KS_LOAD_CMD.slot [7:0]. -/
def Fld.KS_LOAD_CMD_slot : Field := ⟨240, 0, 8, .rw, 0⟩
/-- 12 R589: KS_LOAD_CMD.class [10:8]. -/
def Fld.KS_LOAD_CMD_class : Field := ⟨240, 8, 3, .rw, 0⟩
/-- 12 R589: KS_LOAD_CMD.expire_reset [11:11]. -/
def Fld.KS_LOAD_CMD_expire_reset : Field := ⟨240, 11, 1, .rw, 0⟩
/-- 12 R589: KS_LOAD_CMD.go [16:16]. -/
def Fld.KS_LOAD_CMD_go : Field := ⟨240, 16, 1, .wo, 0⟩
/-- 12 R589: KS_LOAD_CMD.busy [17:17]. -/
def Fld.KS_LOAD_CMD_busy : Field := ⟨240, 17, 1, .ro, 0⟩
/-- 12 R589: KS_LOAD_CMD.done [18:18]. -/
def Fld.KS_LOAD_CMD_done : Field := ⟨240, 18, 1, .w1c, 0⟩
/-- 12 R589: KS_LOAD_CMD.error [19:19]. -/
def Fld.KS_LOAD_CMD_error : Field := ⟨240, 19, 1, .w1c, 0⟩
/-- 12 R589: KS_LOAD_CMD.err_code [22:20]. -/
def Fld.KS_LOAD_CMD_err_code : Field := ⟨240, 20, 3, .ro, 0⟩
/-- 12 R589: KS_LOAD_USE.use_left [23:0]. -/
def Fld.KS_LOAD_USE_use_left : Field := ⟨241, 0, 24, .rw, 0xffffff⟩
/-- 12 R589: KS_ZERO.slot [7:0]. -/
def Fld.KS_ZERO_slot : Field := ⟨242, 0, 8, .rw, 0⟩
/-- 12 R589: KS_ZERO.go [8:8]. -/
def Fld.KS_ZERO_go : Field := ⟨242, 8, 1, .wo, 0⟩
/-- 12 R589: KS_ZERO.done [9:9]. -/
def Fld.KS_ZERO_done : Field := ⟨242, 9, 1, .w1c, 0⟩
/-- 12 R589: KS_ZERO.error [10:10]. -/
def Fld.KS_ZERO_error : Field := ⟨242, 10, 1, .w1c, 0⟩
/-- 12 R589: KS_ATTR.class [2:0]. -/
def Fld.KS_ATTR_class : Field := ⟨243, 0, 3, .ro, 0⟩
/-- 12 R589: KS_ATTR.state [4:3]. -/
def Fld.KS_ATTR_state : Field := ⟨243, 3, 2, .ro, 0⟩
/-- 12 R589: KS_ATTR.expire_reset [5:5]. -/
def Fld.KS_ATTR_expire_reset : Field := ⟨243, 5, 1, .ro, 0⟩
/-- 12 R589: KS_ATTR.lid [6:6]. -/
def Fld.KS_ATTR_lid : Field := ⟨243, 6, 1, .ro, 0⟩
/-- 12 R589: KS_ATTR.epoch [15:8]. -/
def Fld.KS_ATTR_epoch : Field := ⟨243, 8, 8, .ro, 0⟩
/-- 12 R589: KS_ATTR.partition [20:16]. -/
def Fld.KS_ATTR_partition : Field := ⟨243, 16, 5, .ro, 0⟩
/-- 12 R589: KS_ATTR.in_range [21:21]. -/
def Fld.KS_ATTR_in_range : Field := ⟨243, 21, 1, .ro, 0⟩
/-- 12 R589: KS_USE.use_left [23:0]. -/
def Fld.KS_USE_use_left : Field := ⟨244, 0, 24, .ro, 0⟩
/-- 13 R625: CK_VERSION.version [7:0]. -/
def Fld.CK_VERSION_version : Field := ⟨245, 0, 8, .ro, 1⟩
/-- 13 R625: CK_PLL_STATUS.locked [0:0]. -/
def Fld.CK_PLL_STATUS_locked : Field := ⟨246, 0, 1, .ro, 0⟩
/-- 13 R625: CK_PLL_STATUS.holdover [1:1]. -/
def Fld.CK_PLL_STATUS_holdover : Field := ⟨246, 1, 1, .ro, 0⟩
/-- 13 R625: CK_PLL_STATUS.lock_lost [2:2]. -/
def Fld.CK_PLL_STATUS_lock_lost : Field := ⟨246, 2, 1, .w1c, 0⟩
/-- 13 R625: CK_PLL_STATUS.lock_event_en [3:3]. -/
def Fld.CK_PLL_STATUS_lock_event_en : Field := ⟨246, 3, 1, .rw, 1⟩
/-- 13 R625: CK_DROOP_CFG.thresh_mv [5:0]. -/
def Fld.CK_DROOP_CFG_thresh_mv : Field := ⟨247, 0, 6, .rw, 0x32⟩
/-- 13 R625: CK_DROOP_CFG.droop_en [6:6]. -/
def Fld.CK_DROOP_CFG_droop_en : Field := ⟨247, 6, 1, .rw, 1⟩
/-- 13 R625: CK_DROOP_CFG.rate_limit [15:8]. -/
def Fld.CK_DROOP_CFG_rate_limit : Field := ⟨247, 8, 8, .rw, 0x40⟩
/-- 13 R625: CK_DROOP_CFG.cal_done [16:16]. -/
def Fld.CK_DROOP_CFG_cal_done : Field := ⟨247, 16, 1, .ro, 0⟩
/-- 13 R625: CK_STRETCH_COUNT.count [31:0]. -/
def Fld.CK_STRETCH_COUNT_count : Field := ⟨248, 0, 32, .ro, 0⟩
/-- 13 R625: CK_STATUS.stretch_wrap [3:0]. -/
def Fld.CK_STATUS_stretch_wrap : Field := ⟨249, 0, 4, .w1c, 0⟩
/-- 13 R625: PW_VERSION.version [7:0]. -/
def Fld.PW_VERSION_version : Field := ⟨250, 0, 8, .ro, 1⟩
/-- 13 R625: PW_LIMIT.watts [15:0]. -/
def Fld.PW_LIMIT_watts : Field := ⟨251, 0, 16, .rw, 0xc80⟩
/-- 13 R625: PW_LIMIT.window_s [19:16]. -/
def Fld.PW_LIMIT_window_s : Field := ⟨251, 16, 4, .rw, 4⟩
/-- 13 R625: PW_INPUT.now_w [15:0]. -/
def Fld.PW_INPUT_now_w : Field := ⟨252, 0, 16, .ro, 0⟩
/-- 13 R625: PW_INPUT.avg_w [31:16]. -/
def Fld.PW_INPUT_avg_w : Field := ⟨252, 16, 16, .ro, 0⟩
/-- 13 R625: PW_INPUT_VI.mv [15:0]. -/
def Fld.PW_INPUT_VI_mv : Field := ⟨253, 0, 16, .ro, 0⟩
/-- 13 R625: PW_INPUT_VI.current [31:16]. -/
def Fld.PW_INPUT_VI_current : Field := ⟨253, 16, 16, .ro, 0⟩
/-- 13 R625: PW_WAKE_CFG.tokens [7:0]. -/
def Fld.PW_WAKE_CFG_tokens : Field := ⟨254, 0, 8, .rw, 0x20⟩
/-- 13 R625: PW_WAKE_CFG.gate_idle [23:8]. -/
def Fld.PW_WAKE_CFG_gate_idle : Field := ⟨254, 8, 16, .rw, 0x32⟩
/-- 13 R625: PW_COLD_SEED.point [1:0]. -/
def Fld.PW_COLD_SEED_point : Field := ⟨255, 0, 2, .rw, 1⟩
/-- 13 R625: PW_THERM_CFG.throttle_c [7:0]. -/
def Fld.PW_THERM_CFG_throttle_c : Field := ⟨256, 0, 8, .rw, 0x5f⟩
/-- 13 R625: PW_THERM_CFG.alert_c [15:8]. -/
def Fld.PW_THERM_CFG_alert_c : Field := ⟨256, 8, 8, .rw, 0x64⟩
/-- 13 R625: PW_THERM_CFG.critical_c [23:16]. -/
def Fld.PW_THERM_CFG_critical_c : Field := ⟨256, 16, 8, .ro, 0x6e⟩
/-- 13 R625: PW_PACE_HOLD.us [15:0]. -/
def Fld.PW_PACE_HOLD_us : Field := ⟨257, 0, 16, .rw, 0x3e8⟩
/-- 13 R625: PW_PACE_EN_LO.en [31:0]. -/
def Fld.PW_PACE_EN_LO_en : Field := ⟨258, 0, 32, .rw, 0⟩
/-- 13 R625: PW_PACE_EN_HI.en [31:0]. -/
def Fld.PW_PACE_EN_HI_en : Field := ⟨259, 0, 32, .rw, 0⟩
/-- 13 R625: PW_COOLANT.coolant_ok [0:0]. -/
def Fld.PW_COOLANT_coolant_ok : Field := ⟨260, 0, 1, .ro, 0⟩
/-- 13 R625: PW_COOLANT.stopped [1:1]. -/
def Fld.PW_COOLANT_stopped : Field := ⟨260, 1, 1, .ro, 0⟩
/-- 13 R625: PW_COOLANT.therm_alert [2:2]. -/
def Fld.PW_COOLANT_therm_alert : Field := ⟨260, 2, 1, .ro, 0⟩
/-- 13 R625: PW_THROTTLE_COUNT.count [31:0]. -/
def Fld.PW_THROTTLE_COUNT_count : Field := ⟨261, 0, 32, .ro, 0⟩
/-- 13 R625: PW_WAKE_COUNT.count [31:0]. -/
def Fld.PW_WAKE_COUNT_count : Field := ⟨262, 0, 32, .ro, 0⟩
/-- 13 R625: PW_WAKE_QUEUED.count [31:0]. -/
def Fld.PW_WAKE_QUEUED_count : Field := ⟨263, 0, 32, .ro, 0⟩
/-- 13 R625: PW_PACE_TX_COUNT.count [31:0]. -/
def Fld.PW_PACE_TX_COUNT_count : Field := ⟨264, 0, 32, .ro, 0⟩
/-- 13 R625: PW_PACE_RX_COUNT.count [31:0]. -/
def Fld.PW_PACE_RX_COUNT_count : Field := ⟨265, 0, 32, .ro, 0⟩
/-- 13 R625: PW_STATUS.wrap [4:0]. -/
def Fld.PW_STATUS_wrap : Field := ⟨266, 0, 5, .w1c, 0⟩
/-- 13 R625: PW_STATUS.transient [5:5]. -/
def Fld.PW_STATUS_transient : Field := ⟨266, 5, 1, .w1c, 0⟩
/-- 13 R625: PW_STATUS.thermal [6:6]. -/
def Fld.PW_STATUS_thermal : Field := ⟨266, 6, 1, .w1c, 0⟩
/-- 13 R625: PW_STATUS.limit_event_en [7:7]. -/
def Fld.PW_STATUS_limit_event_en : Field := ⟨266, 7, 1, .rw, 1⟩
/-- 13 R625: PW_HALF.grant [1:0]. -/
def Fld.PW_HALF_grant : Field := ⟨267, 0, 2, .ro, 3⟩
/-- 13 R625: PW_HALF.want [3:2]. -/
def Fld.PW_HALF_want : Field := ⟨267, 2, 2, .ro, 3⟩
/-- 13 R625: PW_HALF.ceiling [5:4]. -/
def Fld.PW_HALF_ceiling : Field := ⟨267, 4, 2, .ro, 0⟩
/-- 13 R625: PW_HALF.pace_cap [7:6]. -/
def Fld.PW_HALF_pace_cap : Field := ⟨267, 6, 2, .ro, 0⟩
/-- 13 R625: PW_HALF.thermal_cap [9:8]. -/
def Fld.PW_HALF_thermal_cap : Field := ⟨267, 8, 2, .ro, 0⟩
/-- 13 R625: PW_HALF.gated [10:10]. -/
def Fld.PW_HALF_gated : Field := ⟨267, 10, 1, .ro, 1⟩
/-- 13 R625: PW_HALF.stretching [11:11]. -/
def Fld.PW_HALF_stretching : Field := ⟨267, 11, 1, .ro, 0⟩
/-- 13 R625: PW_HALF.reason [14:12]. -/
def Fld.PW_HALF_reason : Field := ⟨267, 12, 3, .ro, 0⟩
/-- 13 R625: PW_HALF.ruling_phase [22:15]. -/
def Fld.PW_HALF_ruling_phase : Field := ⟨267, 15, 8, .ro, 0⟩
/-- 13 R625: PW_HALF_RAIL.mv [9:0]. -/
def Fld.PW_HALF_RAIL_mv : Field := ⟨268, 0, 10, .ro, 0⟩
/-- 13 R625: PW_HALF_RAIL.current [31:16]. -/
def Fld.PW_HALF_RAIL_current : Field := ⟨268, 16, 16, .ro, 0⟩
/-- 13 R625: PW_TEMP_CLR.clear_peaks [0:0]. -/
def Fld.PW_TEMP_CLR_clear_peaks : Field := ⟨269, 0, 1, .wo, 0⟩
/-- 13 R625: PW_TEMP.now_c [7:0]. -/
def Fld.PW_TEMP_now_c : Field := ⟨270, 0, 8, .ro, 0⟩
/-- 13 R625: PW_TEMP.peak_c [15:8]. -/
def Fld.PW_TEMP_peak_c : Field := ⟨270, 8, 8, .ro, 0⟩
/-- 13 R625: PW_PHASE.pref [1:0]. -/
def Fld.PW_PHASE_pref : Field := ⟨271, 0, 2, .rw, 0⟩
/-- 13 R625: PW_PHASE.learn_count [10:4]. -/
def Fld.PW_PHASE_learn_count : Field := ⟨271, 4, 7, .ro, 0⟩
/-- 13 R625: PW_PHASE_MW.mw [15:0]. -/
def Fld.PW_PHASE_MW_mw : Field := ⟨272, 0, 16, .ro, 0⟩
/-- 14 R674: FC_VERSION.version [7:0]. -/
def Fld.FC_VERSION_version : Field := ⟨273, 0, 8, .ro, 1⟩
/-- 14 R674: FC_CTRL.err_mode [0:0]. -/
def Fld.FC_CTRL_err_mode : Field := ⟨274, 0, 1, .rw, 0⟩
/-- 14 R674: FC_CTRL.err_min_sev [3:1]. -/
def Fld.FC_CTRL_err_min_sev : Field := ⟨274, 1, 3, .rw, 2⟩
/-- 14 R674: FC_CTRL.pulse_us [11:4]. -/
def Fld.FC_CTRL_pulse_us : Field := ⟨274, 4, 8, .rw, 2⟩
/-- 14 R674: FC_CTRL.quiet_ms [27:12]. -/
def Fld.FC_CTRL_quiet_ms : Field := ⟨274, 12, 16, .rw, 0x64⟩
/-- 14 R674: FC_ERR_PIN.sw_assert [0:0]. -/
def Fld.FC_ERR_PIN_sw_assert : Field := ⟨275, 0, 1, .rw, 0⟩
/-- 14 R674: FC_ERR_PIN.low [1:1]. -/
def Fld.FC_ERR_PIN_low : Field := ⟨275, 1, 1, .ro, 0⟩
/-- 14 R674: FC_ERR_PIN.pulsing [2:2]. -/
def Fld.FC_ERR_PIN_pulsing : Field := ⟨275, 2, 1, .ro, 0⟩
/-- 14 R674: FC_ERR_PIN.coolant_hold [3:3]. -/
def Fld.FC_ERR_PIN_coolant_hold : Field := ⟨275, 3, 1, .ro, 0⟩
/-- 14 R674: FC_PENDING.sev [4:0]. -/
def Fld.FC_PENDING_sev : Field := ⟨276, 0, 5, .ro, 0⟩
/-- 14 R674: FC_RIM_HEARTBEAT.count [31:0]. -/
def Fld.FC_RIM_HEARTBEAT_count : Field := ⟨277, 0, 32, .ro, 0⟩
/-- 14 R674: FC_RIM_RESTART.restart [0:0]. -/
def Fld.FC_RIM_RESTART_restart : Field := ⟨278, 0, 1, .wo, 0⟩
/-- 14 R674: FC_RIM_RESTART.busy [1:1]. -/
def Fld.FC_RIM_RESTART_busy : Field := ⟨278, 1, 1, .ro, 0⟩
/-- 14 R674: FC_RIM_RESTART.done [2:2]. -/
def Fld.FC_RIM_RESTART_done : Field := ⟨278, 2, 1, .w1c, 0⟩
/-- 14 R674: FC_RESTART_COUNT.count [31:0]. -/
def Fld.FC_RESTART_COUNT_count : Field := ⟨279, 0, 32, .ro, 0⟩
/-- 14 R674: FC_ENGINE_RESET.engine [8:0]. -/
def Fld.FC_ENGINE_RESET_engine : Field := ⟨280, 0, 9, .rw, 0⟩
/-- 14 R674: FC_ENGINE_RESET.go [16:16]. -/
def Fld.FC_ENGINE_RESET_go : Field := ⟨280, 16, 1, .wo, 0⟩
/-- 14 R674: FC_ENGINE_RESET.busy [17:17]. -/
def Fld.FC_ENGINE_RESET_busy : Field := ⟨280, 17, 1, .ro, 0⟩
/-- 14 R674: FC_ENGINE_RESET.done [18:18]. -/
def Fld.FC_ENGINE_RESET_done : Field := ⟨280, 18, 1, .w1c, 0⟩
/-- 14 R674: FC_ENGINE_RESET.error [19:19]. -/
def Fld.FC_ENGINE_RESET_error : Field := ⟨280, 19, 1, .w1c, 0⟩
/-- 14 R674: FC_ENGINE_RESET.err_code [21:20]. -/
def Fld.FC_ENGINE_RESET_err_code : Field := ⟨280, 20, 2, .ro, 0⟩
/-- 14 R674: FC_ENGINE_RESET_COUNT.count [31:0]. -/
def Fld.FC_ENGINE_RESET_COUNT_count : Field := ⟨281, 0, 32, .ro, 0⟩
/-- 14 R674: FC_STATUS.wrap [2:0]. -/
def Fld.FC_STATUS_wrap : Field := ⟨282, 0, 3, .w1c, 0⟩
/-- 14 R674: FC_INJECT.target [2:0]. -/
def Fld.FC_INJECT_target : Field := ⟨283, 0, 3, .rw, 0⟩
/-- 14 R674: FC_INJECT.instance [11:3]. -/
def Fld.FC_INJECT_instance : Field := ⟨283, 3, 9, .rw, 0⟩
/-- 14 R674: FC_INJECT.double [12:12]. -/
def Fld.FC_INJECT_double : Field := ⟨283, 12, 1, .rw, 0⟩
/-- 14 R674: FC_INJECT.arm [13:13]. -/
def Fld.FC_INJECT_arm : Field := ⟨283, 13, 1, .w1s, 0⟩
/-- 14 R674: FC_INJECT.armed [14:14]. -/
def Fld.FC_INJECT_armed : Field := ⟨283, 14, 1, .ro, 0⟩
/-- 14 R674: FC_FORCE.family [7:0]. -/
def Fld.FC_FORCE_family : Field := ⟨284, 0, 8, .rw, 0⟩
/-- 14 R674: FC_FORCE.instance [16:8]. -/
def Fld.FC_FORCE_instance : Field := ⟨284, 8, 9, .rw, 0⟩
/-- 14 R674: FC_FORCE.go [17:17]. -/
def Fld.FC_FORCE_go : Field := ⟨284, 17, 1, .wo, 0⟩
/-- 14 R674: FC_LOG_HEAD.count [31:0]. -/
def Fld.FC_LOG_HEAD_count : Field := ⟨285, 0, 32, .ro, 0⟩
/-- 14 R674: FC_WEAR_CFG.rotate_days [7:0]. -/
def Fld.FC_WEAR_CFG_rotate_days : Field := ⟨286, 0, 8, .rw, 0x1e⟩
/-- 14 R674: FC_WEAR_CFG.aging_pct [15:8]. -/
def Fld.FC_WEAR_CFG_aging_pct : Field := ⟨286, 8, 8, .rw, 5⟩
/-- 14 R674: FC_SRC_CFG.severity [2:0]. -/
def Fld.FC_SRC_CFG_severity : Field := ⟨287, 0, 3, .rw, 0⟩
/-- 14 R674: FC_SRC_CFG.auto [3:3]. -/
def Fld.FC_SRC_CFG_auto : Field := ⟨287, 3, 1, .ro, 0⟩
/-- 14 R674: FC_SRC_STATUS.pending [0:0]. -/
def Fld.FC_SRC_STATUS_pending : Field := ⟨288, 0, 1, .w1c, 0⟩
/-- 14 R674: FC_SRC_STATUS.rail [1:1]. -/
def Fld.FC_SRC_STATUS_rail : Field := ⟨288, 1, 1, .w1c, 0⟩
/-- 14 R674: FC_SRC_STATUS.forced [2:2]. -/
def Fld.FC_SRC_STATUS_forced : Field := ⟨288, 2, 1, .w1c, 0⟩
/-- 14 R674: FC_SRC_STATUS.demoted [3:3]. -/
def Fld.FC_SRC_STATUS_demoted : Field := ⟨288, 3, 1, .ro, 0⟩
/-- 14 R674: FC_SRC_STATUS.last_instance [24:16]. -/
def Fld.FC_SRC_STATUS_last_instance : Field := ⟨288, 16, 9, .ro, 0⟩
/-- 14 R674: FC_SRC_COUNT.count [31:0]. -/
def Fld.FC_SRC_COUNT_count : Field := ⟨289, 0, 32, .ro, 0⟩
/-- 14 R674: FC_SRC_INFO.info [31:0]. -/
def Fld.FC_SRC_INFO_info : Field := ⟨290, 0, 32, .ro, 0⟩
/-- 14 R674: FC_ENG_PROGRESS_LO.lo [31:0]. -/
def Fld.FC_ENG_PROGRESS_LO_lo : Field := ⟨291, 0, 32, .ro, 0⟩
/-- 14 R674: FC_ENG_PROGRESS_HI.hi [31:0]. -/
def Fld.FC_ENG_PROGRESS_HI_hi : Field := ⟨292, 0, 32, .ro, 0⟩
/-- 14 R674: FC_PATROL_REC.recs [31:0]. -/
def Fld.FC_PATROL_REC_recs : Field := ⟨293, 0, 32, .ro, 0⟩
/-- 14 R674: FC_SERDES_REC.recs [31:0]. -/
def Fld.FC_SERDES_REC_recs : Field := ⟨294, 0, 32, .ro, 0⟩
/-- 14 R674: FC_LOG.family [7:0]. -/
def Fld.FC_LOG_family : Field := ⟨295, 0, 8, .ro, 0⟩
/-- 14 R674: FC_LOG.instance [16:8]. -/
def Fld.FC_LOG_instance : Field := ⟨295, 8, 9, .ro, 0⟩
/-- 14 R674: FC_LOG.severity [19:17]. -/
def Fld.FC_LOG_severity : Field := ⟨295, 17, 3, .ro, 0⟩
/-- 14 R674: FC_LOG.partition [24:20]. -/
def Fld.FC_LOG_partition : Field := ⟨295, 20, 5, .ro, 0⟩
/-- 14 R674: FC_LOG.part_valid [25:25]. -/
def Fld.FC_LOG_part_valid : Field := ⟨295, 25, 1, .ro, 0⟩
/-- 14 R674: FC_LOG.rail [26:26]. -/
def Fld.FC_LOG_rail : Field := ⟨295, 26, 1, .ro, 0⟩
/-- 14 R674: FC_LOG.forced [27:27]. -/
def Fld.FC_LOG_forced : Field := ⟨295, 27, 1, .ro, 0⟩
/-- 14 R674: FC_LOG_TIME.time [31:0]. -/
def Fld.FC_LOG_TIME_time : Field := ⟨296, 0, 32, .ro, 0⟩
/-- 14 R674: FC_LOG_INFO_LO.info_lo [31:0]. -/
def Fld.FC_LOG_INFO_LO_info_lo : Field := ⟨297, 0, 32, .ro, 0⟩
/-- 14 R674: FC_LOG_INFO_HI.info_hi [31:0]. -/
def Fld.FC_LOG_INFO_HI_info_hi : Field := ⟨298, 0, 32, .ro, 0⟩
/-- 14 R674: FC_PART.sev [4:0]. -/
def Fld.FC_PART_sev : Field := ⟨299, 0, 5, .w1c, 0⟩
/-- 14 R674: FC_PART.family [12:5]. -/
def Fld.FC_PART_family : Field := ⟨299, 5, 8, .ro, 0⟩
/-- 14 R674: FC_PART_INST.instance [8:0]. -/
def Fld.FC_PART_INST_instance : Field := ⟨300, 0, 9, .ro, 0⟩
/-- 14 R674: FC_PART_INFO_LO.info_lo [31:0]. -/
def Fld.FC_PART_INFO_LO_info_lo : Field := ⟨301, 0, 32, .ro, 0⟩
/-- 14 R674: FC_PART_INFO_HI.info_hi [31:0]. -/
def Fld.FC_PART_INFO_HI_info_hi : Field := ⟨302, 0, 32, .ro, 0⟩
/-- 15 R697: PG_SEAL_BASE_LO.base_lo [31:16]. -/
def Fld.PG_SEAL_BASE_LO_base_lo : Field := ⟨303, 16, 16, .rw, 0⟩
/-- 15 R697: PG_SEAL_BASE_HI.base_hi [23:0]. -/
def Fld.PG_SEAL_BASE_HI_base_hi : Field := ⟨304, 0, 24, .rw, 0⟩
/-- 15 R697: PG_SEAL_LEN.pages [23:0]. -/
def Fld.PG_SEAL_LEN_pages : Field := ⟨305, 0, 24, .rw, 0⟩
/-- 15 R697: PG_SEAL_CMD.seal [0:0]. -/
def Fld.PG_SEAL_CMD_seal : Field := ⟨306, 0, 1, .wo, 0⟩
/-- 15 R697: PG_SEAL_CMD.release [1:1]. -/
def Fld.PG_SEAL_CMD_release : Field := ⟨306, 1, 1, .wo, 0⟩
/-- 15 R697: PG_SEAL_CMD.state [3:2]. -/
def Fld.PG_SEAL_CMD_state : Field := ⟨306, 2, 2, .ro, 0⟩
/-- 15 R697: PG_SEAL_CMD.done [4:4]. -/
def Fld.PG_SEAL_CMD_done : Field := ⟨306, 4, 1, .w1c, 0⟩
/-- 15 R697: PG_SEAL_CMD.error [5:5]. -/
def Fld.PG_SEAL_CMD_error : Field := ⟨306, 5, 1, .w1c, 0⟩
/-- 15 R697: PG_SEAL_CMD.err_code [8:6]. -/
def Fld.PG_SEAL_CMD_err_code : Field := ⟨306, 6, 3, .ro, 0⟩
/-- 15 R697: PG_SEAL_CMD.origin [9:9]. -/
def Fld.PG_SEAL_CMD_origin : Field := ⟨306, 9, 1, .ro, 0⟩
/-- 15 R697: PG_SEAL_OUT_LO.addr_lo [31:6]. -/
def Fld.PG_SEAL_OUT_LO_addr_lo : Field := ⟨307, 6, 26, .rw, 0⟩
/-- 15 R697: PG_SEAL_OUT_HI.addr_hi [23:0]. -/
def Fld.PG_SEAL_OUT_HI_addr_hi : Field := ⟨308, 0, 24, .rw, 0⟩
/-- 16 R721: RIM_VERSION.version [7:0]. -/
def Fld.RIM_VERSION_version : Field := ⟨309, 0, 8, .ro, 1⟩
/-- 16 R721: RIM_STATUS.mode [1:0]. -/
def Fld.RIM_STATUS_mode : Field := ⟨310, 0, 2, .ro, 0⟩
/-- 16 R721: RIM_STATUS.stage [4:2]. -/
def Fld.RIM_STATUS_stage : Field := ⟨310, 2, 3, .ro, 0⟩
/-- 16 R721: RIM_STATUS.bank [5:5]. -/
def Fld.RIM_STATUS_bank : Field := ⟨310, 5, 1, .ro, 0⟩
/-- 16 R721: RIM_STATUS.default_manifest [6:6]. -/
def Fld.RIM_STATUS_default_manifest : Field := ⟨310, 6, 1, .ro, 0⟩
/-- 16 R721: RIM_MANIFEST_GEN_LO.gen_lo [31:0]. -/
def Fld.RIM_MANIFEST_GEN_LO_gen_lo : Field := ⟨311, 0, 32, .ro, 0⟩
/-- 16 R721: RIM_MANIFEST_GEN_HI.gen_hi [31:0]. -/
def Fld.RIM_MANIFEST_GEN_HI_gen_hi : Field := ⟨312, 0, 32, .ro, 0⟩
/-- 16 R721: RIM_RESEAT_ADDR_LO.addr_lo [31:6]. -/
def Fld.RIM_RESEAT_ADDR_LO_addr_lo : Field := ⟨313, 6, 26, .rw, 0⟩
/-- 16 R721: RIM_RESEAT_ADDR_HI.addr_hi [31:0]. -/
def Fld.RIM_RESEAT_ADDR_HI_addr_hi : Field := ⟨314, 0, 32, .rw, 0⟩
/-- 16 R721: RIM_RESEAT_CMD.op [1:0]. -/
def Fld.RIM_RESEAT_CMD_op : Field := ⟨315, 0, 2, .rw, 0⟩
/-- 16 R721: RIM_RESEAT_CMD.go [2:2]. -/
def Fld.RIM_RESEAT_CMD_go : Field := ⟨315, 2, 1, .wo, 0⟩
/-- 16 R721: RIM_RESEAT_CMD.busy [3:3]. -/
def Fld.RIM_RESEAT_CMD_busy : Field := ⟨315, 3, 1, .ro, 0⟩
/-- 16 R721: RIM_RESEAT_CMD.done [4:4]. -/
def Fld.RIM_RESEAT_CMD_done : Field := ⟨315, 4, 1, .w1c, 0⟩
/-- 16 R721: RIM_RESEAT_CMD.error [5:5]. -/
def Fld.RIM_RESEAT_CMD_error : Field := ⟨315, 5, 1, .w1c, 0⟩
/-- 16 R721: RIM_RESEAT_CMD.err_code [9:6]. -/
def Fld.RIM_RESEAT_CMD_err_code : Field := ⟨315, 6, 4, .ro, 0⟩
/-- 16 R721: RIM_RESEAT_COUNT.count [31:0]. -/
def Fld.RIM_RESEAT_COUNT_count : Field := ⟨316, 0, 32, .ro, 0⟩
/-- 16 R721: RIM_STATUS2.reseat_wrap [0:0]. -/
def Fld.RIM_STATUS2_reseat_wrap : Field := ⟨317, 0, 1, .w1c, 0⟩

/-- Part 0 of the fields, in the tables' order. -/
def fieldsPart0 : List Field :=
  [Fld.MU_FMT_CTRL_invalid_event_en, Fld.MU_FMT_CTRL_range_event_en, Fld.MU_FMT_CTRL_nonfinite_event_en, Fld.MU_SCALE_RANGE_scale_min,
   Fld.MU_SCALE_RANGE_scale_max, Fld.MU_INVALID_COUNT_count, Fld.MU_SCALE_OOR_COUNT_count, Fld.MU_NONFINITE_COUNT_count,
   Fld.MU_OUTLIER_COUNT_count, Fld.MU_FMT_STATUS_invalid_wrap, Fld.MU_FMT_STATUS_oor_wrap, Fld.MU_FMT_STATUS_nonfinite_wrap,
   Fld.MU_FMT_STATUS_outlier_wrap, Fld.VU_CLIP_CTRL_clip_limit, Fld.VU_CLIP_CTRL_window_log2, Fld.VU_CLIP_CTRL_monitor_en,
   Fld.VU_QUANT_COUNT_count, Fld.VU_CLIP_COUNT_count, Fld.VU_NONFINITE_COUNT_count, Fld.VU_FMT_STATUS_quant_wrap,
   Fld.VU_FMT_STATUS_clip_wrap, Fld.VU_FMT_STATUS_nonfinite_wrap, Fld.VU_FMT_STATUS_clip_event, Fld.MU_ACC_CTRL_escape_event_en,
   Fld.MU_ACC_CTRL_high_event_en, Fld.MU_ESCAPE_COUNT_count, Fld.MU_TRUNC_COUNT_count, Fld.MU_HIGH_COUNT_count,
   Fld.MU_ACC_STATUS_esc_pos, Fld.MU_ACC_STATUS_esc_neg, Fld.MU_ACC_STATUS_escape_wrap, Fld.MU_ACC_STATUS_trunc_wrap,
   Fld.MU_ACC_STATUS_high_wrap, Fld.MU_ANCHOR_01_anchor0, Fld.MU_ANCHOR_01_anchor1, Fld.MU_ANCHOR_23_anchor2,
   Fld.MU_ANCHOR_23_anchor3, Fld.VU_ACC_CTRL_escape_event_en, Fld.VU_ACC_CTRL_high_event_en, Fld.VU_ESCAPE_COUNT_count]

/-- Part 1 of the fields, in the tables' order. -/
def fieldsPart1 : List Field :=
  [Fld.VU_TRUNC_COUNT_count, Fld.VU_HIGH_COUNT_count, Fld.VU_ACC_STATUS_esc_pos, Fld.VU_ACC_STATUS_esc_neg,
   Fld.VU_ACC_STATUS_escape_wrap, Fld.VU_ACC_STATUS_trunc_wrap, Fld.VU_ACC_STATUS_high_wrap, Fld.WVR_CORE_ID_site_index,
   Fld.WVR_CORE_ID_lane, Fld.WVR_CORE_ID_lane_valid, Fld.WVR_CORE_STATE_state, Fld.WVR_CORE_STATE_resident,
   Fld.WVR_CORE_STATE_running_slot, Fld.WVR_CORE_STATE_running_valid, Fld.WVR_CORE_PROGRESS_LO_count_lo, Fld.WVR_CORE_PROGRESS_HI_count_hi,
   Fld.LS_SLICE_base_seg, Fld.LS_SLICE_len_seg, Fld.LS_ECC_STATUS_corr_count, Fld.LS_ECC_STATUS_corr_wrap,
   Fld.LS_ECC_STATUS_uncorr, Fld.LS_UNCORR_ADDR_line, Fld.LS_SCRUB_start, Fld.LS_SCRUB_whole,
   Fld.LS_SCRUB_slot_mask, Fld.LS_SCRUB_busy, Fld.LS_SCRUB_done, Fld.LS_SCRUB_refused,
   Fld.MU_STATUS_busy, Fld.MU_STATUS_array_sel, Fld.MU_STATUS_writeback, Fld.VU_STATUS_busy,
   Fld.XL_L1_MISS_COUNT_count, Fld.XL_L1_STATUS_miss_wrap, Fld.RWS_LANE_MAP_lanes, Fld.RWS_SITE_STATE_slots,
   Fld.RWS_SPARE_CMD_lane, Fld.RWS_SPARE_CMD_new_slot, Fld.RWS_SPARE_CMD_fate, Fld.RWS_SPARE_STATUS_done]

/-- Part 2 of the fields, in the tables' order. -/
def fieldsPart2 : List Field :=
  [Fld.RWS_SPARE_STATUS_refused, Fld.RWS_MERGE_CTRL_merge_window, Fld.RWS_MERGE_CTRL_merge_en, Fld.RWS_ACCESS_COUNT_count,
   Fld.RWS_MERGED_COUNT_count, Fld.RWS_COUNT_STATUS_access_wrap, Fld.RWS_COUNT_STATUS_merged_wrap, Fld.RWS_ECC_STATUS_corr_count,
   Fld.RWS_ECC_STATUS_corr_wrap, Fld.RWS_ECC_STATUS_uncorr, Fld.RWS_UNCORR_ADDR_line, Fld.RWS_SEG_OWNER_owners,
   Fld.SEAM_DIV_west_div, Fld.SEAM_DIV_east_div, Fld.SEAM_HOLD_held_w, Fld.SEAM_HOLD_held_e,
   Fld.SEAM_WAKE_COUNT_count, Fld.SEAM_STALL_COUNT_count, Fld.SEAM_STATUS_wake_wrap, Fld.SEAM_STATUS_stall_wrap,
   Fld.FC_BRIDGE_STATUS_retired, Fld.FC_BRIDGE_STATUS_replay_wrap, Fld.FC_BRIDGE_STATUS_poison_seen, Fld.FC_BRIDGE_REPLAY_count,
   Fld.PG_KV_POOL_LO_base_lo, Fld.PG_KV_POOL_HI_base_hi, Fld.PG_KV_POOL_PAGES_pages, Fld.PG_KV_T2_QUOTA_quota,
   Fld.PG_KV_SEQ_LO_table_lo, Fld.PG_KV_SEQ_HI_table_hi, Fld.PG_KV_SEQ_MAX_entries, Fld.PG_KV_T2_USED_pages,
   Fld.PG_KV_T3_USED_pages, Fld.PG_KV_T4_USED_pages, Fld.PG_KV_FREE_pages, Fld.PG_KV_JOIN_COUNT_count,
   Fld.PG_KV_DEFER_COUNT_count, Fld.PG_KV_SPILL_COUNT_count, Fld.PG_KV_STATUS_join_wrap, Fld.PG_KV_STATUS_defer_wrap]

/-- Part 3 of the fields, in the tables' order. -/
def fieldsPart3 : List Field :=
  [Fld.PG_KV_STATUS_spill_wrap, Fld.PG_KV_STATUS_defer_event, Fld.PG_KV_STATUS_defer_event_en, Fld.PG_KV_STEP_LO_step_lo,
   Fld.PG_KV_STEP_HI_step_hi, Fld.PG_KV_LIST_LO_list_lo, Fld.PG_KV_LIST_HI_list_hi, Fld.PG_KV_LIST_SLOTS_slots,
   Fld.RIM_PLAIT_ADDR_LO_addr_lo, Fld.RIM_PLAIT_ADDR_HI_addr_hi, Fld.RIM_PLAIT_CMD_op, Fld.RIM_PLAIT_STATUS_state,
   Fld.RIM_PLAIT_STATUS_done, Fld.RIM_PLAIT_STATUS_failed, Fld.RIM_PLAIT_STATUS_reduced, Fld.RIM_PLAIT_STATUS_done_event_en,
   Fld.RIM_PLAIT_ERR_code, Fld.RIM_PLAIT_ERR_OFF_offset, Fld.RIM_PLAIT_GEN_LO_gen_lo, Fld.RIM_PLAIT_GEN_HI_gen_hi,
   Fld.RIM_PLAIT_PENDING_contexts, Fld.RIM_PLAIT_PENDING_channels, Fld.RIM_PLAIT_PENDING_cores, Fld.CAP_VERSION_table_ver,
   Fld.CAP_VERSION_profile, Fld.CAP_GEN_gen, Fld.CAP_MODULE_module, Fld.CAP_MODULE_module_valid,
   Fld.CAP_COUNTS_cores, Fld.CAP_COUNTS_channels, Fld.CAP_COUNTS_ports, Fld.CAP_HBM_MIB_mib,
   Fld.CAP_SRAM_KIB_kib, Fld.CAP_PEAK_2X4_gops, Fld.CAP_PEAK_4X4_gops, Fld.CAP_PEAK_FP8_gops,
   Fld.CAP_PEAK_BF16_gops, Fld.CAP_PEAK_FP32_gflops, Fld.CAP_CORE_MAP_present, Fld.CAP_CHAN_MAP_present]

/-- Part 4 of the fields, in the tables' order. -/
def fieldsPart4 : List Field :=
  [Fld.CAP_PORT_MAP_present, Fld.CAP_PEER_peer, Fld.CAP_PEER_peer_valid, Fld.CAP_PEER_not_ready,
   Fld.CAP_PEER_link, Fld.CAP_BASKET_state, Fld.CAP_BASKET_partition, Fld.CAP_BASKET_cores,
   Fld.CAP_BASKET_channels, Fld.CAP_BASKET_SHAPE_members, Fld.CAP_BASKET_SHAPE_ordinal, Fld.CAP_BASKET_UID_LO_uid_lo,
   Fld.CAP_BASKET_UID_HI_uid_hi, Fld.WVR_VERSION_version, Fld.WVR_REMOTE_TIMEOUT_us, Fld.WVR_QUANTUM_quantum_log2,
   Fld.WVR_STATUS_stale_wrap, Fld.WVR_STATUS_poll_wrap, Fld.WVR_STATUS_watch_full, Fld.WVR_TIME_LO_time_lo,
   Fld.WVR_TIME_HI_time_hi, Fld.WVR_STALE_RESP_COUNT_count, Fld.WVR_WATCH_POLL_COUNT_count, Fld.WVR_WATCH_USED_watches,
   Fld.WVR_FENCE_OP_ADDR_LO_addr_lo, Fld.WVR_FENCE_OP_ADDR_HI_addr_hi, Fld.WVR_FENCE_OP_VAL_LO_val_lo, Fld.WVR_FENCE_OP_VAL_HI_val_hi,
   Fld.WVR_FENCE_OP_CMD_basket_index, Fld.WVR_FENCE_OP_CMD_code, Fld.WVR_FENCE_OP_CMD_go, Fld.WVR_FENCE_OP_CMD_busy,
   Fld.WVR_FENCE_OP_CMD_done, Fld.WVR_FENCE_OP_CMD_error, Fld.WVR_Q_CFG_valid, Fld.WVR_Q_CFG_kind,
   Fld.WVR_Q_CFG_depth_log2, Fld.WVR_Q_CFG_context, Fld.WVR_Q_CFG_basket_index, Fld.WVR_Q_PROD_count]

/-- Part 5 of the fields, in the tables' order. -/
def fieldsPart5 : List Field :=
  [Fld.WVR_Q_CONS_count, Fld.WVR_Q_CTRL_closed, Fld.WVR_Q_CTRL_note_en, Fld.WVR_Q_CTRL_note_every_log2,
   Fld.WVR_Q_CTRL_overrun_event_en, Fld.WVR_Q_NOTE_LO_addr_lo, Fld.WVR_Q_NOTE_HI_addr_hi, Fld.WVR_Q_DROP_COUNT_count,
   Fld.WVR_Q_STATUS_drop_wrap, Fld.WVR_Q_STATUS_overrun, Fld.WVR_Q_STATUS_partial, Fld.WVR_Q_STATUS_closed_drop,
   Fld.WVR_Q_STATUS_head_buf, Fld.WVR_Q_STATUS_tail_buf, Fld.WVR_Q_STATUS_spilled, Fld.WVR_CTX_STATE_state,
   Fld.WVR_CTX_STATE_basket_index, Fld.WVR_CTX_STATE_cores, Fld.WVR_CTX_SHARE_share, Fld.WVR_CTX_SHARE_label,
   Fld.WVR_CTX_CTRL_stop, Fld.WVR_CTX_CTRL_resume, Fld.WVR_CTX_CTRL_discard, Fld.WVR_CTX_WAIT_ledger_used,
   Fld.WVR_CTX_WAIT_remote_slots, Fld.WVR_CTX_ISSUE_LO_lo, Fld.WVR_CTX_ISSUE_HI_hi, Fld.WVR_CTX_MU_LO_lo,
   Fld.WVR_CTX_MU_HI_hi, Fld.WVR_CTX_VU_LO_lo, Fld.WVR_CTX_VU_HI_hi, Fld.WVR_CTX_MOVE_LO_lo,
   Fld.WVR_CTX_MOVE_HI_hi, Fld.WVR_CTX_KERNEL_LO_lo, Fld.WVR_CTX_KERNEL_HI_hi, Fld.WVR_CTX_CMD_COUNT_count,
   Fld.WVR_CTX_STATUS_cmd_wrap, Fld.WVR_CTX_STATUS_stopped, Fld.WVR_CTX_STATUS_timeout_seen, Fld.XL_VERSION_version]

/-- Part 6 of the fields, in the tables' order. -/
def fieldsPart6 : List Field :=
  [Fld.XL_L2_MISS_COUNT_count, Fld.XL_L2_STATUS_miss_wrap, Fld.XL_EDIT_ADDR_LO_addr_lo, Fld.XL_EDIT_ADDR_HI_addr_hi,
   Fld.XL_EDIT_COUNT_count, Fld.XL_EDIT_OBJ_handle, Fld.XL_EDIT_GEN_generation, Fld.XL_EDIT_CMD_op,
   Fld.XL_EDIT_CMD_basket_index, Fld.XL_EDIT_CMD_rights, Fld.XL_EDIT_CMD_go, Fld.XL_EDIT_CMD_busy,
   Fld.XL_EDIT_CMD_done, Fld.XL_EDIT_CMD_error, Fld.XL_EDIT_CMD_err_code, Fld.XL_ROOT_LO_root_lo,
   Fld.XL_ROOT_HI_root_hi, Fld.XL_FAULT_VA_LO_va_lo, Fld.XL_FAULT_VA_HI_va_hi, Fld.XL_FAULT_INFO_reason,
   Fld.XL_FAULT_INFO_level, Fld.XL_FAULT_INFO_fault_event_en, Fld.XL_FAULT_COUNT_count, Fld.XL_FAULT_STATUS_fault_wrap,
   Fld.PG_FREE_FRAMES_frames, Fld.PG_RESIDENT_pages, Fld.PG_SPILL_T3_pages, Fld.PG_SPILL_T4_pages,
   Fld.PG_GUEST_FRAMES_frames, Fld.PG_GUEST_USED_frames, Fld.PG_T4_BASE_LO_base_lo, Fld.PG_T4_BASE_HI_base_hi,
   Fld.PG_T4_PAGES_pages, Fld.PG_T4_PAGES_port, Fld.PG_OBJ_TABLE_LO_table_lo, Fld.PG_OBJ_TABLE_HI_table_hi,
   Fld.PG_OBJ_ENTRIES_entries, Fld.PG_EVICT_COUNT_count, Fld.PG_FILL_COUNT_count, Fld.PG_INPLACE_COUNT_count]

/-- Part 7 of the fields, in the tables' order. -/
def fieldsPart7 : List Field :=
  [Fld.PG_TIER_STATUS_wrap, Fld.PG_TIER_STATUS_oom, Fld.PG_TIER_STATUS_released, Fld.PG_TIER_STATUS_oom_event_en,
   Fld.PG_TIER_STATUS_release_event_en, Fld.HB_REG_CTRL_bg_limit, Fld.HB_OVER_COUNT_count, Fld.HB_AGED_COUNT_count,
   Fld.HB_REG_STATUS_over_wrap, Fld.HB_REG_STATUS_aged_wrap, Fld.HB_CLASS_CFG_base_prio, Fld.HB_CLASS_CFG_target,
   Fld.HB_CLASS_LAT_ns, Fld.HB_MASTER_BUDGET_budget, Fld.WF_VERSION_version, Fld.WF_CTRL_serving,
   Fld.WF_CTRL_loss_event_en, Fld.WF_LANE_THRESH_count, Fld.WF_AGE_cycles, Fld.WF_LOSS_COUNT_count,
   Fld.WF_UNREACH_COUNT_count, Fld.WF_EPOCH_DROP_COUNT_count, Fld.WF_HOP_EXCESS_COUNT_count, Fld.WF_STATUS_wrap,
   Fld.WF_STATUS_loss, Fld.WF_CLASS_CFG_prio, Fld.WF_PORT_STATE_state, Fld.WF_PORT_STATE_half_rate,
   Fld.WF_PORT_STATE_lane_lo, Fld.WF_PORT_STATE_lane_hi, Fld.WF_PORT_STATE_spare_used, Fld.WF_PORT_STATE_encrypted,
   Fld.WF_PORT_PEER_peer, Fld.WF_PORT_PEER_peer_valid, Fld.WF_PORT_PEER_not_ready, Fld.WF_PORT_PEER_peer_port,
   Fld.WF_PORT_CTRL_enable, Fld.WF_PORT_CTRL_retire, Fld.WF_PORT_CTRL_hog_event_en, Fld.WF_FEC_CORR_COUNT_count]

/-- Part 8 of the fields, in the tables' order. -/
def fieldsPart8 : List Field :=
  [Fld.WF_FEC_UNCORR_COUNT_count, Fld.WF_REPLAY_COUNT_count, Fld.WF_REVOKE_COUNT_count, Fld.WF_HOG_COUNT_count,
   Fld.WF_TX_EMPTY_COUNT_count, Fld.WF_SEAL_FAIL_COUNT_count, Fld.WF_LANE_RECOVERY_rec_a, Fld.WF_LANE_RECOVERY_rec_b,
   Fld.WF_LANE_RECOVERY_rec_s, Fld.WF_PORT_STATUS_wrap, Fld.WF_PORT_STATUS_hog, Fld.WF_PORT_STATUS_lost,
   Fld.WF_PORT_STATUS_swapped, Fld.HI_VERSION_version, Fld.HI_PART_ID_partition, Fld.HI_PART_ID_link,
   Fld.HI_PART_ID_carrier, Fld.HI_PART_ID_lid, Fld.HI_LINK_CFG_bifur, Fld.HI_LINK_CFG_role,
   Fld.HI_LINK_STATE_up, Fld.HI_PART_PORTS_ports, Fld.HI_KEYSLOT_first, Fld.HI_KEYSLOT_count,
   Fld.HI_LABELS_labels, Fld.HI_CARVE_MAP_channels, Fld.HI_POOL_BASE_LO_base_lo, Fld.HI_POOL_BASE_HI_base_hi,
   Fld.HI_POOL_SIZE_pages, Fld.HI_POOL_SIZE_port, Fld.HI_EVENT_STATUS_cap_change, Fld.HI_EVENT_STATUS_fault_notice,
   Fld.HI_EVENT_STATUS_reattached, Fld.HI_EVENT_STATUS_flr_done, Fld.HI_EVENT_STATUS_down_wrap, Fld.HI_EVENT_EN_enable,
   Fld.HI_LINK_DOWN_COUNT_count, Fld.HI_ATTACH_attached, Fld.HI_ATTACH_bus_master, Fld.HI_QVEC_vector]

/-- Part 9 of the fields, in the tables' order. -/
def fieldsPart9 : List Field :=
  [Fld.HI_QVEC_irq_en, Fld.LID_VERSION_version, Fld.LID_STATUS_conf_mode, Fld.LID_STATUS_owner_set,
   Fld.LID_STATUS_owner_locked, Fld.LID_STATUS_owner_entry, Fld.LID_SVN_fused_svn, Fld.LID_SVN_fw_svn,
   Fld.LID_REVOKE_TIMEOUT_us, Fld.LID_INTEGRITY_COUNT_count, Fld.LID_ACK_SHORT_COUNT_count, Fld.LID_COUNT_STATUS_integ_wrap,
   Fld.LID_COUNT_STATUS_ack_wrap, Fld.LID_COUNT_STATUS_integ_event_en, Fld.LID_OWNER_NONCE_nonce, Fld.LID_OWNER_DATA_data,
   Fld.LID_OWNER_CMD_op, Fld.LID_OWNER_CMD_challenge, Fld.LID_OWNER_CMD_go, Fld.LID_OWNER_CMD_nonce_valid,
   Fld.LID_OWNER_CMD_done, Fld.LID_OWNER_CMD_error, Fld.LID_OWNER_CMD_tries, Fld.LID_OWNER_ARG_LO_arg_lo,
   Fld.LID_OWNER_ARG_HI_arg_hi, Fld.LID_PART_state, Fld.LID_PART_lid, Fld.LID_PART_sidecar_en,
   Fld.LID_PART_mem_slot, Fld.LID_PART_epoch, Fld.LID_PART_remove, Fld.LID_PART_ack_short,
   Fld.LID_PART_drained, Fld.LID_PART_tdisp, Fld.LID_ID_LO_id_lo, Fld.LID_ID_HI_id_hi,
   Fld.LID_CHARTER_GEN_gen, Fld.LID_IMPORT_SRC_LO_src_lo, Fld.LID_IMPORT_SRC_HI_src_hi, Fld.LID_IMPORT_DST_LO_dst_lo]

/-- Part 10 of the fields, in the tables' order. -/
def fieldsPart10 : List Field :=
  [Fld.LID_IMPORT_DST_HI_dst_hi, Fld.LID_IMPORT_CMD_basket_index, Fld.LID_IMPORT_CMD_go, Fld.LID_IMPORT_CMD_busy,
   Fld.LID_IMPORT_CMD_done, Fld.LID_IMPORT_CMD_error, Fld.LID_IMPORT_CMD_err_code, Fld.LID_IMPORT_CHUNKS_chunks,
   Fld.KS_LOAD_DATA_data, Fld.KS_LOAD_CMD_slot, Fld.KS_LOAD_CMD_class, Fld.KS_LOAD_CMD_expire_reset,
   Fld.KS_LOAD_CMD_go, Fld.KS_LOAD_CMD_busy, Fld.KS_LOAD_CMD_done, Fld.KS_LOAD_CMD_error,
   Fld.KS_LOAD_CMD_err_code, Fld.KS_LOAD_USE_use_left, Fld.KS_ZERO_slot, Fld.KS_ZERO_go,
   Fld.KS_ZERO_done, Fld.KS_ZERO_error, Fld.KS_ATTR_class, Fld.KS_ATTR_state,
   Fld.KS_ATTR_expire_reset, Fld.KS_ATTR_lid, Fld.KS_ATTR_epoch, Fld.KS_ATTR_partition,
   Fld.KS_ATTR_in_range, Fld.KS_USE_use_left, Fld.CK_VERSION_version, Fld.CK_PLL_STATUS_locked,
   Fld.CK_PLL_STATUS_holdover, Fld.CK_PLL_STATUS_lock_lost, Fld.CK_PLL_STATUS_lock_event_en, Fld.CK_DROOP_CFG_thresh_mv,
   Fld.CK_DROOP_CFG_droop_en, Fld.CK_DROOP_CFG_rate_limit, Fld.CK_DROOP_CFG_cal_done, Fld.CK_STRETCH_COUNT_count]

/-- Part 11 of the fields, in the tables' order. -/
def fieldsPart11 : List Field :=
  [Fld.CK_STATUS_stretch_wrap, Fld.PW_VERSION_version, Fld.PW_LIMIT_watts, Fld.PW_LIMIT_window_s,
   Fld.PW_INPUT_now_w, Fld.PW_INPUT_avg_w, Fld.PW_INPUT_VI_mv, Fld.PW_INPUT_VI_current,
   Fld.PW_WAKE_CFG_tokens, Fld.PW_WAKE_CFG_gate_idle, Fld.PW_COLD_SEED_point, Fld.PW_THERM_CFG_throttle_c,
   Fld.PW_THERM_CFG_alert_c, Fld.PW_THERM_CFG_critical_c, Fld.PW_PACE_HOLD_us, Fld.PW_PACE_EN_LO_en,
   Fld.PW_PACE_EN_HI_en, Fld.PW_COOLANT_coolant_ok, Fld.PW_COOLANT_stopped, Fld.PW_COOLANT_therm_alert,
   Fld.PW_THROTTLE_COUNT_count, Fld.PW_WAKE_COUNT_count, Fld.PW_WAKE_QUEUED_count, Fld.PW_PACE_TX_COUNT_count,
   Fld.PW_PACE_RX_COUNT_count, Fld.PW_STATUS_wrap, Fld.PW_STATUS_transient, Fld.PW_STATUS_thermal,
   Fld.PW_STATUS_limit_event_en, Fld.PW_HALF_grant, Fld.PW_HALF_want, Fld.PW_HALF_ceiling,
   Fld.PW_HALF_pace_cap, Fld.PW_HALF_thermal_cap, Fld.PW_HALF_gated, Fld.PW_HALF_stretching,
   Fld.PW_HALF_reason, Fld.PW_HALF_ruling_phase, Fld.PW_HALF_RAIL_mv, Fld.PW_HALF_RAIL_current]

/-- Part 12 of the fields, in the tables' order. -/
def fieldsPart12 : List Field :=
  [Fld.PW_TEMP_CLR_clear_peaks, Fld.PW_TEMP_now_c, Fld.PW_TEMP_peak_c, Fld.PW_PHASE_pref,
   Fld.PW_PHASE_learn_count, Fld.PW_PHASE_MW_mw, Fld.FC_VERSION_version, Fld.FC_CTRL_err_mode,
   Fld.FC_CTRL_err_min_sev, Fld.FC_CTRL_pulse_us, Fld.FC_CTRL_quiet_ms, Fld.FC_ERR_PIN_sw_assert,
   Fld.FC_ERR_PIN_low, Fld.FC_ERR_PIN_pulsing, Fld.FC_ERR_PIN_coolant_hold, Fld.FC_PENDING_sev,
   Fld.FC_RIM_HEARTBEAT_count, Fld.FC_RIM_RESTART_restart, Fld.FC_RIM_RESTART_busy, Fld.FC_RIM_RESTART_done,
   Fld.FC_RESTART_COUNT_count, Fld.FC_ENGINE_RESET_engine, Fld.FC_ENGINE_RESET_go, Fld.FC_ENGINE_RESET_busy,
   Fld.FC_ENGINE_RESET_done, Fld.FC_ENGINE_RESET_error, Fld.FC_ENGINE_RESET_err_code, Fld.FC_ENGINE_RESET_COUNT_count,
   Fld.FC_STATUS_wrap, Fld.FC_INJECT_target, Fld.FC_INJECT_instance, Fld.FC_INJECT_double,
   Fld.FC_INJECT_arm, Fld.FC_INJECT_armed, Fld.FC_FORCE_family, Fld.FC_FORCE_instance,
   Fld.FC_FORCE_go, Fld.FC_LOG_HEAD_count, Fld.FC_WEAR_CFG_rotate_days, Fld.FC_WEAR_CFG_aging_pct]

/-- Part 13 of the fields, in the tables' order. -/
def fieldsPart13 : List Field :=
  [Fld.FC_SRC_CFG_severity, Fld.FC_SRC_CFG_auto, Fld.FC_SRC_STATUS_pending, Fld.FC_SRC_STATUS_rail,
   Fld.FC_SRC_STATUS_forced, Fld.FC_SRC_STATUS_demoted, Fld.FC_SRC_STATUS_last_instance, Fld.FC_SRC_COUNT_count,
   Fld.FC_SRC_INFO_info, Fld.FC_ENG_PROGRESS_LO_lo, Fld.FC_ENG_PROGRESS_HI_hi, Fld.FC_PATROL_REC_recs,
   Fld.FC_SERDES_REC_recs, Fld.FC_LOG_family, Fld.FC_LOG_instance, Fld.FC_LOG_severity,
   Fld.FC_LOG_partition, Fld.FC_LOG_part_valid, Fld.FC_LOG_rail, Fld.FC_LOG_forced,
   Fld.FC_LOG_TIME_time, Fld.FC_LOG_INFO_LO_info_lo, Fld.FC_LOG_INFO_HI_info_hi, Fld.FC_PART_sev,
   Fld.FC_PART_family, Fld.FC_PART_INST_instance, Fld.FC_PART_INFO_LO_info_lo, Fld.FC_PART_INFO_HI_info_hi,
   Fld.PG_SEAL_BASE_LO_base_lo, Fld.PG_SEAL_BASE_HI_base_hi, Fld.PG_SEAL_LEN_pages, Fld.PG_SEAL_CMD_seal,
   Fld.PG_SEAL_CMD_release, Fld.PG_SEAL_CMD_state, Fld.PG_SEAL_CMD_done, Fld.PG_SEAL_CMD_error,
   Fld.PG_SEAL_CMD_err_code, Fld.PG_SEAL_CMD_origin, Fld.PG_SEAL_OUT_LO_addr_lo, Fld.PG_SEAL_OUT_HI_addr_hi]

/-- Part 14 of the fields, in the tables' order. -/
def fieldsPart14 : List Field :=
  [Fld.RIM_VERSION_version, Fld.RIM_STATUS_mode, Fld.RIM_STATUS_stage, Fld.RIM_STATUS_bank,
   Fld.RIM_STATUS_default_manifest, Fld.RIM_MANIFEST_GEN_LO_gen_lo, Fld.RIM_MANIFEST_GEN_HI_gen_hi, Fld.RIM_RESEAT_ADDR_LO_addr_lo,
   Fld.RIM_RESEAT_ADDR_HI_addr_hi, Fld.RIM_RESEAT_CMD_op, Fld.RIM_RESEAT_CMD_go, Fld.RIM_RESEAT_CMD_busy,
   Fld.RIM_RESEAT_CMD_done, Fld.RIM_RESEAT_CMD_error, Fld.RIM_RESEAT_CMD_err_code, Fld.RIM_RESEAT_COUNT_count,
   Fld.RIM_STATUS2_reseat_wrap]

/-- Every register field of the spec. -/
def allFields : List Field :=
  fieldsPart0 ++ fieldsPart1 ++ fieldsPart2 ++ fieldsPart3 ++ fieldsPart4 ++ fieldsPart5 ++ fieldsPart6 ++ fieldsPart7 ++ fieldsPart8 ++ fieldsPart9 ++ fieldsPart10 ++ fieldsPart11 ++ fieldsPart12 ++ fieldsPart13 ++ fieldsPart14

/-- Part 0 of the registers, with their BAR0 offsets (11 R503). -/
def regsPart0 : List RegInfo :=
  [⟨0, "MU_FMT_CTRL", 0x1001000, 0x10000, 288, 0x1000, 8⟩,
   ⟨1, "MU_SCALE_RANGE", 0x1001004, 0x10000, 288, 0x1000, 8⟩,
   ⟨2, "MU_INVALID_COUNT", 0x1001008, 0x10000, 288, 0x1000, 8⟩,
   ⟨3, "MU_SCALE_OOR_COUNT", 0x100100c, 0x10000, 288, 0x1000, 8⟩,
   ⟨4, "MU_NONFINITE_COUNT", 0x1001010, 0x10000, 288, 0x1000, 8⟩,
   ⟨5, "MU_OUTLIER_COUNT", 0x1001014, 0x10000, 288, 0x1000, 8⟩,
   ⟨6, "MU_FMT_STATUS", 0x1001018, 0x10000, 288, 0x1000, 8⟩,
   ⟨7, "VU_CLIP_CTRL", 0x1001020, 0x10000, 288, 0x1000, 8⟩,
   ⟨8, "VU_QUANT_COUNT", 0x1001024, 0x10000, 288, 0x1000, 8⟩,
   ⟨9, "VU_CLIP_COUNT", 0x1001028, 0x10000, 288, 0x1000, 8⟩,
   ⟨10, "VU_NONFINITE_COUNT", 0x100102c, 0x10000, 288, 0x1000, 8⟩,
   ⟨11, "VU_FMT_STATUS", 0x1001030, 0x10000, 288, 0x1000, 8⟩,
   ⟨12, "MU_ACC_CTRL", 0x1001040, 0x10000, 288, 0x1000, 8⟩,
   ⟨13, "MU_ESCAPE_COUNT", 0x1001044, 0x10000, 288, 0x1000, 8⟩,
   ⟨14, "MU_TRUNC_COUNT", 0x1001048, 0x10000, 288, 0x1000, 8⟩,
   ⟨15, "MU_HIGH_COUNT", 0x100104c, 0x10000, 288, 0x1000, 8⟩,
   ⟨16, "MU_ACC_STATUS", 0x1001050, 0x10000, 288, 0x1000, 8⟩,
   ⟨17, "MU_ANCHOR_01", 0x1001054, 0x10000, 288, 0x1000, 8⟩,
   ⟨18, "MU_ANCHOR_23", 0x1001058, 0x10000, 288, 0x1000, 8⟩,
   ⟨19, "VU_ACC_CTRL", 0x1001060, 0x10000, 288, 0x1000, 8⟩,
   ⟨20, "VU_ESCAPE_COUNT", 0x1001064, 0x10000, 288, 0x1000, 8⟩,
   ⟨21, "VU_TRUNC_COUNT", 0x1001068, 0x10000, 288, 0x1000, 8⟩,
   ⟨22, "VU_HIGH_COUNT", 0x100106c, 0x10000, 288, 0x1000, 8⟩,
   ⟨23, "VU_ACC_STATUS", 0x1001070, 0x10000, 288, 0x1000, 8⟩,
   ⟨24, "WVR_CORE_ID", 0x1000000, 0x10000, 288, 0x0, 1⟩,
   ⟨25, "WVR_CORE_STATE", 0x1000004, 0x10000, 288, 0x0, 1⟩,
   ⟨26, "WVR_CORE_PROGRESS_LO", 0x1000008, 0x10000, 288, 0x0, 1⟩,
   ⟨27, "WVR_CORE_PROGRESS_HI", 0x100000c, 0x10000, 288, 0x0, 1⟩,
   ⟨28, "LS_SLICE", 0x1000010, 0x10000, 288, 0x4, 8⟩,
   ⟨29, "LS_ECC_STATUS", 0x1000030, 0x10000, 288, 0x0, 1⟩,
   ⟨30, "LS_UNCORR_ADDR", 0x1000034, 0x10000, 288, 0x0, 1⟩,
   ⟨31, "LS_SCRUB", 0x1000038, 0x10000, 288, 0x0, 1⟩,
   ⟨32, "MU_STATUS", 0x1000040, 0x10000, 288, 0x0, 1⟩,
   ⟨33, "VU_STATUS", 0x1000044, 0x10000, 288, 0x0, 1⟩,
   ⟨34, "XL_L1_MISS_COUNT", 0x1000048, 0x10000, 288, 0x0, 1⟩,
   ⟨35, "XL_L1_STATUS", 0x100004c, 0x10000, 288, 0x0, 1⟩,
   ⟨36, "RWS_LANE_MAP", 0x120000, 0x1000, 32, 0x0, 1⟩,
   ⟨37, "RWS_SITE_STATE", 0x120004, 0x1000, 32, 0x0, 1⟩,
   ⟨38, "RWS_SPARE_CMD", 0x120008, 0x1000, 32, 0x0, 1⟩,
   ⟨39, "RWS_SPARE_STATUS", 0x12000c, 0x1000, 32, 0x0, 1⟩]

/-- Part 1 of the registers, with their BAR0 offsets (11 R503). -/
def regsPart1 : List RegInfo :=
  [⟨40, "RWS_MERGE_CTRL", 0x120010, 0x1000, 32, 0x0, 1⟩,
   ⟨41, "RWS_ACCESS_COUNT", 0x120014, 0x1000, 32, 0x0, 1⟩,
   ⟨42, "RWS_MERGED_COUNT", 0x120018, 0x1000, 32, 0x0, 1⟩,
   ⟨43, "RWS_COUNT_STATUS", 0x12001c, 0x1000, 32, 0x0, 1⟩,
   ⟨44, "RWS_ECC_STATUS", 0x120020, 0x1000, 32, 0x0, 1⟩,
   ⟨45, "RWS_UNCORR_ADDR", 0x120024, 0x1000, 32, 0x0, 1⟩,
   ⟨46, "RWS_SEG_OWNER", 0x120040, 0x1000, 32, 0x4, 16⟩,
   ⟨47, "SEAM_DIV", 0x100000, 0x1000, 2, 0x0, 1⟩,
   ⟨48, "SEAM_HOLD", 0x100004, 0x1000, 2, 0x0, 1⟩,
   ⟨49, "SEAM_WAKE_COUNT", 0x100008, 0x1000, 2, 0x0, 1⟩,
   ⟨50, "SEAM_STALL_COUNT", 0x10000c, 0x1000, 2, 0x0, 1⟩,
   ⟨51, "SEAM_STATUS", 0x100010, 0x1000, 2, 0x0, 1⟩,
   ⟨52, "FC_BRIDGE_STATUS", 0x90800, 0x8, 13, 0x0, 1⟩,
   ⟨53, "FC_BRIDGE_REPLAY", 0x90804, 0x8, 13, 0x0, 1⟩,
   ⟨54, "PG_KV_POOL_LO", 0x78000, 0x80, 64, 0x0, 1⟩,
   ⟨55, "PG_KV_POOL_HI", 0x78004, 0x80, 64, 0x0, 1⟩,
   ⟨56, "PG_KV_POOL_PAGES", 0x78008, 0x80, 64, 0x0, 1⟩,
   ⟨57, "PG_KV_T2_QUOTA", 0x7800c, 0x80, 64, 0x0, 1⟩,
   ⟨58, "PG_KV_SEQ_LO", 0x78010, 0x80, 64, 0x0, 1⟩,
   ⟨59, "PG_KV_SEQ_HI", 0x78014, 0x80, 64, 0x0, 1⟩,
   ⟨60, "PG_KV_SEQ_MAX", 0x78018, 0x80, 64, 0x0, 1⟩,
   ⟨61, "PG_KV_T2_USED", 0x7801c, 0x80, 64, 0x0, 1⟩,
   ⟨62, "PG_KV_T3_USED", 0x78020, 0x80, 64, 0x0, 1⟩,
   ⟨63, "PG_KV_T4_USED", 0x78024, 0x80, 64, 0x0, 1⟩,
   ⟨64, "PG_KV_FREE", 0x78028, 0x80, 64, 0x0, 1⟩,
   ⟨65, "PG_KV_JOIN_COUNT", 0x7802c, 0x80, 64, 0x0, 1⟩,
   ⟨66, "PG_KV_DEFER_COUNT", 0x78030, 0x80, 64, 0x0, 1⟩,
   ⟨67, "PG_KV_SPILL_COUNT", 0x78034, 0x80, 64, 0x0, 1⟩,
   ⟨68, "PG_KV_STATUS", 0x78038, 0x80, 64, 0x0, 1⟩,
   ⟨69, "PG_KV_STEP_LO", 0x7803c, 0x80, 64, 0x0, 1⟩,
   ⟨70, "PG_KV_STEP_HI", 0x78040, 0x80, 64, 0x0, 1⟩,
   ⟨71, "PG_KV_LIST_LO", 0x78044, 0x80, 64, 0x0, 1⟩,
   ⟨72, "PG_KV_LIST_HI", 0x78048, 0x80, 64, 0x0, 1⟩,
   ⟨73, "PG_KV_LIST_SLOTS", 0x7804c, 0x80, 64, 0x0, 1⟩,
   ⟨74, "RIM_PLAIT_ADDR_LO", 0x80400, 0x0, 1, 0x0, 1⟩,
   ⟨75, "RIM_PLAIT_ADDR_HI", 0x80404, 0x0, 1, 0x0, 1⟩,
   ⟨76, "RIM_PLAIT_CMD", 0x80408, 0x0, 1, 0x0, 1⟩,
   ⟨77, "RIM_PLAIT_STATUS", 0x8040c, 0x0, 1, 0x0, 1⟩,
   ⟨78, "RIM_PLAIT_ERR", 0x80410, 0x0, 1, 0x0, 1⟩,
   ⟨79, "RIM_PLAIT_ERR_OFF", 0x80414, 0x0, 1, 0x0, 1⟩]

/-- Part 2 of the registers, with their BAR0 offsets (11 R503). -/
def regsPart2 : List RegInfo :=
  [⟨80, "RIM_PLAIT_GEN_LO", 0x80418, 0x0, 1, 0x0, 1⟩,
   ⟨81, "RIM_PLAIT_GEN_HI", 0x8041c, 0x0, 1, 0x0, 1⟩,
   ⟨82, "RIM_PLAIT_PENDING", 0x80420, 0x0, 1, 0x0, 1⟩,
   ⟨83, "CAP_VERSION", 0x10000, 0x0, 1, 0x0, 1⟩,
   ⟨84, "CAP_GEN", 0x10004, 0x0, 1, 0x0, 1⟩,
   ⟨85, "CAP_MODULE", 0x10008, 0x0, 1, 0x0, 1⟩,
   ⟨86, "CAP_COUNTS", 0x1000c, 0x0, 1, 0x0, 1⟩,
   ⟨87, "CAP_HBM_MIB", 0x10010, 0x0, 1, 0x0, 1⟩,
   ⟨88, "CAP_SRAM_KIB", 0x10014, 0x0, 1, 0x0, 1⟩,
   ⟨89, "CAP_PEAK_2X4", 0x10018, 0x0, 1, 0x0, 1⟩,
   ⟨90, "CAP_PEAK_4X4", 0x1001c, 0x0, 1, 0x0, 1⟩,
   ⟨91, "CAP_PEAK_FP8", 0x10020, 0x0, 1, 0x0, 1⟩,
   ⟨92, "CAP_PEAK_BF16", 0x10024, 0x0, 1, 0x0, 1⟩,
   ⟨93, "CAP_PEAK_FP32", 0x10028, 0x0, 1, 0x0, 1⟩,
   ⟨94, "CAP_CORE_MAP", 0x10040, 0x4, 8, 0x0, 1⟩,
   ⟨95, "CAP_CHAN_MAP", 0x10060, 0x4, 8, 0x0, 1⟩,
   ⟨96, "CAP_PORT_MAP", 0x10080, 0x4, 3, 0x0, 1⟩,
   ⟨97, "CAP_PEER", 0x10100, 0x4, 80, 0x0, 1⟩,
   ⟨98, "CAP_BASKET", 0x10300, 0x10, 64, 0x0, 1⟩,
   ⟨99, "CAP_BASKET_SHAPE", 0x10304, 0x10, 64, 0x0, 1⟩,
   ⟨100, "CAP_BASKET_UID_LO", 0x10308, 0x10, 64, 0x0, 1⟩,
   ⟨101, "CAP_BASKET_UID_HI", 0x1030c, 0x10, 64, 0x0, 1⟩,
   ⟨102, "WVR_VERSION", 0x20000, 0x0, 1, 0x0, 1⟩,
   ⟨103, "WVR_REMOTE_TIMEOUT", 0x20004, 0x0, 1, 0x0, 1⟩,
   ⟨104, "WVR_QUANTUM", 0x20008, 0x0, 1, 0x0, 1⟩,
   ⟨105, "WVR_STATUS", 0x2000c, 0x0, 1, 0x0, 1⟩,
   ⟨106, "WVR_TIME_LO", 0x20010, 0x0, 1, 0x0, 1⟩,
   ⟨107, "WVR_TIME_HI", 0x20014, 0x0, 1, 0x0, 1⟩,
   ⟨108, "WVR_STALE_RESP_COUNT", 0x20018, 0x0, 1, 0x0, 1⟩,
   ⟨109, "WVR_WATCH_POLL_COUNT", 0x2001c, 0x0, 1, 0x0, 1⟩,
   ⟨110, "WVR_WATCH_USED", 0x20020, 0x0, 1, 0x0, 1⟩,
   ⟨111, "WVR_FENCE_OP_ADDR_LO", 0x20040, 0x0, 1, 0x0, 1⟩,
   ⟨112, "WVR_FENCE_OP_ADDR_HI", 0x20044, 0x0, 1, 0x0, 1⟩,
   ⟨113, "WVR_FENCE_OP_VAL_LO", 0x20048, 0x0, 1, 0x0, 1⟩,
   ⟨114, "WVR_FENCE_OP_VAL_HI", 0x2004c, 0x0, 1, 0x0, 1⟩,
   ⟨115, "WVR_FENCE_OP_CMD", 0x20050, 0x0, 1, 0x0, 1⟩,
   ⟨116, "WVR_Q_CFG", 0x28000, 0x20, 1024, 0x0, 1⟩,
   ⟨117, "WVR_Q_PROD", 0x28004, 0x20, 1024, 0x0, 1⟩,
   ⟨118, "WVR_Q_CONS", 0x28008, 0x20, 1024, 0x0, 1⟩,
   ⟨119, "WVR_Q_CTRL", 0x2800c, 0x20, 1024, 0x0, 1⟩]

/-- Part 3 of the registers, with their BAR0 offsets (11 R503). -/
def regsPart3 : List RegInfo :=
  [⟨120, "WVR_Q_NOTE_LO", 0x28010, 0x20, 1024, 0x0, 1⟩,
   ⟨121, "WVR_Q_NOTE_HI", 0x28014, 0x20, 1024, 0x0, 1⟩,
   ⟨122, "WVR_Q_DROP_COUNT", 0x28018, 0x20, 1024, 0x0, 1⟩,
   ⟨123, "WVR_Q_STATUS", 0x2801c, 0x20, 1024, 0x0, 1⟩,
   ⟨124, "WVR_CTX_STATE", 0x30000, 0x40, 2048, 0x0, 1⟩,
   ⟨125, "WVR_CTX_SHARE", 0x30004, 0x40, 2048, 0x0, 1⟩,
   ⟨126, "WVR_CTX_CTRL", 0x30008, 0x40, 2048, 0x0, 1⟩,
   ⟨127, "WVR_CTX_WAIT", 0x3000c, 0x40, 2048, 0x0, 1⟩,
   ⟨128, "WVR_CTX_ISSUE_LO", 0x30010, 0x40, 2048, 0x0, 1⟩,
   ⟨129, "WVR_CTX_ISSUE_HI", 0x30014, 0x40, 2048, 0x0, 1⟩,
   ⟨130, "WVR_CTX_MU_LO", 0x30018, 0x40, 2048, 0x0, 1⟩,
   ⟨131, "WVR_CTX_MU_HI", 0x3001c, 0x40, 2048, 0x0, 1⟩,
   ⟨132, "WVR_CTX_VU_LO", 0x30020, 0x40, 2048, 0x0, 1⟩,
   ⟨133, "WVR_CTX_VU_HI", 0x30024, 0x40, 2048, 0x0, 1⟩,
   ⟨134, "WVR_CTX_MOVE_LO", 0x30028, 0x40, 2048, 0x0, 1⟩,
   ⟨135, "WVR_CTX_MOVE_HI", 0x3002c, 0x40, 2048, 0x0, 1⟩,
   ⟨136, "WVR_CTX_KERNEL_LO", 0x30030, 0x40, 2048, 0x0, 1⟩,
   ⟨137, "WVR_CTX_KERNEL_HI", 0x30034, 0x40, 2048, 0x0, 1⟩,
   ⟨138, "WVR_CTX_CMD_COUNT", 0x30038, 0x40, 2048, 0x0, 1⟩,
   ⟨139, "WVR_CTX_STATUS", 0x3003c, 0x40, 2048, 0x0, 1⟩,
   ⟨140, "XL_VERSION", 0x60000, 0x0, 1, 0x0, 1⟩,
   ⟨141, "XL_L2_MISS_COUNT", 0x60010, 0x4, 4, 0x0, 1⟩,
   ⟨142, "XL_L2_STATUS", 0x60020, 0x0, 1, 0x0, 1⟩,
   ⟨143, "XL_EDIT_ADDR_LO", 0x60800, 0x40, 32, 0x0, 1⟩,
   ⟨144, "XL_EDIT_ADDR_HI", 0x60804, 0x40, 32, 0x0, 1⟩,
   ⟨145, "XL_EDIT_COUNT", 0x60808, 0x40, 32, 0x0, 1⟩,
   ⟨146, "XL_EDIT_OBJ", 0x6080c, 0x40, 32, 0x0, 1⟩,
   ⟨147, "XL_EDIT_GEN", 0x60810, 0x40, 32, 0x0, 1⟩,
   ⟨148, "XL_EDIT_CMD", 0x60814, 0x40, 32, 0x0, 1⟩,
   ⟨149, "XL_ROOT_LO", 0x61000, 0x20, 64, 0x0, 1⟩,
   ⟨150, "XL_ROOT_HI", 0x61004, 0x20, 64, 0x0, 1⟩,
   ⟨151, "XL_FAULT_VA_LO", 0x61008, 0x20, 64, 0x0, 1⟩,
   ⟨152, "XL_FAULT_VA_HI", 0x6100c, 0x20, 64, 0x0, 1⟩,
   ⟨153, "XL_FAULT_INFO", 0x61010, 0x20, 64, 0x0, 1⟩,
   ⟨154, "XL_FAULT_COUNT", 0x61014, 0x20, 64, 0x0, 1⟩,
   ⟨155, "XL_FAULT_STATUS", 0x61018, 0x20, 64, 0x0, 1⟩,
   ⟨156, "PG_FREE_FRAMES", 0x70000, 0x40, 64, 0x0, 1⟩,
   ⟨157, "PG_RESIDENT", 0x70004, 0x40, 64, 0x0, 1⟩,
   ⟨158, "PG_SPILL_T3", 0x70008, 0x40, 64, 0x0, 1⟩,
   ⟨159, "PG_SPILL_T4", 0x7000c, 0x40, 64, 0x0, 1⟩]

/-- Part 4 of the registers, with their BAR0 offsets (11 R503). -/
def regsPart4 : List RegInfo :=
  [⟨160, "PG_GUEST_FRAMES", 0x70010, 0x40, 64, 0x0, 1⟩,
   ⟨161, "PG_GUEST_USED", 0x70014, 0x40, 64, 0x0, 1⟩,
   ⟨162, "PG_T4_BASE_LO", 0x70018, 0x40, 64, 0x0, 1⟩,
   ⟨163, "PG_T4_BASE_HI", 0x7001c, 0x40, 64, 0x0, 1⟩,
   ⟨164, "PG_T4_PAGES", 0x70020, 0x40, 64, 0x0, 1⟩,
   ⟨165, "PG_OBJ_TABLE_LO", 0x70024, 0x40, 64, 0x0, 1⟩,
   ⟨166, "PG_OBJ_TABLE_HI", 0x70028, 0x40, 64, 0x0, 1⟩,
   ⟨167, "PG_OBJ_ENTRIES", 0x7002c, 0x40, 64, 0x0, 1⟩,
   ⟨168, "PG_EVICT_COUNT", 0x70030, 0x40, 64, 0x0, 1⟩,
   ⟨169, "PG_FILL_COUNT", 0x70034, 0x40, 64, 0x0, 1⟩,
   ⟨170, "PG_INPLACE_COUNT", 0x70038, 0x40, 64, 0x0, 1⟩,
   ⟨171, "PG_TIER_STATUS", 0x7003c, 0x40, 64, 0x0, 1⟩,
   ⟨172, "HB_REG_CTRL", 0xb0000, 0x0, 1, 0x0, 1⟩,
   ⟨173, "HB_OVER_COUNT", 0xb0004, 0x0, 1, 0x0, 1⟩,
   ⟨174, "HB_AGED_COUNT", 0xb0008, 0x0, 1, 0x0, 1⟩,
   ⟨175, "HB_REG_STATUS", 0xb000c, 0x0, 1, 0x0, 1⟩,
   ⟨176, "HB_CLASS_CFG", 0xb0100, 0x4, 16, 0x0, 1⟩,
   ⟨177, "HB_CLASS_LAT", 0xb0140, 0x4, 16, 0x0, 1⟩,
   ⟨178, "HB_MASTER_BUDGET", 0xb1000, 0x4, 293, 0x0, 1⟩,
   ⟨179, "WF_VERSION", 0xa0000, 0x0, 1, 0x0, 1⟩,
   ⟨180, "WF_CTRL", 0xa0004, 0x0, 1, 0x0, 1⟩,
   ⟨181, "WF_LANE_THRESH", 0xa0008, 0x0, 1, 0x0, 1⟩,
   ⟨182, "WF_AGE", 0xa000c, 0x0, 1, 0x0, 1⟩,
   ⟨183, "WF_LOSS_COUNT", 0xa0010, 0x0, 1, 0x0, 1⟩,
   ⟨184, "WF_UNREACH_COUNT", 0xa0014, 0x0, 1, 0x0, 1⟩,
   ⟨185, "WF_EPOCH_DROP_COUNT", 0xa0018, 0x0, 1, 0x0, 1⟩,
   ⟨186, "WF_HOP_EXCESS_COUNT", 0xa001c, 0x0, 1, 0x0, 1⟩,
   ⟨187, "WF_STATUS", 0xa0020, 0x0, 1, 0x0, 1⟩,
   ⟨188, "WF_CLASS_CFG", 0xa0040, 0x4, 16, 0x0, 1⟩,
   ⟨189, "WF_PORT_STATE", 0xa1000, 0x40, 80, 0x0, 1⟩,
   ⟨190, "WF_PORT_PEER", 0xa1004, 0x40, 80, 0x0, 1⟩,
   ⟨191, "WF_PORT_CTRL", 0xa1008, 0x40, 80, 0x0, 1⟩,
   ⟨192, "WF_FEC_CORR_COUNT", 0xa100c, 0x40, 80, 0x0, 1⟩,
   ⟨193, "WF_FEC_UNCORR_COUNT", 0xa1010, 0x40, 80, 0x0, 1⟩,
   ⟨194, "WF_REPLAY_COUNT", 0xa1014, 0x40, 80, 0x0, 1⟩,
   ⟨195, "WF_REVOKE_COUNT", 0xa1018, 0x40, 80, 0x0, 1⟩,
   ⟨196, "WF_HOG_COUNT", 0xa101c, 0x40, 80, 0x0, 1⟩,
   ⟨197, "WF_TX_EMPTY_COUNT", 0xa1020, 0x40, 80, 0x0, 1⟩,
   ⟨198, "WF_SEAL_FAIL_COUNT", 0xa1024, 0x40, 80, 0x0, 1⟩,
   ⟨199, "WF_LANE_RECOVERY", 0xa1028, 0x40, 80, 0x0, 1⟩]

/-- Part 5 of the registers, with their BAR0 offsets (11 R503). -/
def regsPart5 : List RegInfo :=
  [⟨200, "WF_PORT_STATUS", 0xa102c, 0x40, 80, 0x0, 1⟩,
   ⟨201, "HI_VERSION", 0x0, 0x0, 1, 0x0, 1⟩,
   ⟨202, "HI_PART_ID", 0x4, 0x0, 1, 0x0, 1⟩,
   ⟨203, "HI_LINK_CFG", 0x8, 0x0, 1, 0x0, 1⟩,
   ⟨204, "HI_LINK_STATE", 0xc, 0x0, 1, 0x0, 1⟩,
   ⟨205, "HI_PART_PORTS", 0x10, 0x0, 1, 0x0, 1⟩,
   ⟨206, "HI_KEYSLOT", 0x14, 0x0, 1, 0x0, 1⟩,
   ⟨207, "HI_LABELS", 0x18, 0x0, 1, 0x0, 1⟩,
   ⟨208, "HI_CARVE_MAP", 0x20, 0x4, 8, 0x0, 1⟩,
   ⟨209, "HI_POOL_BASE_LO", 0x40, 0x0, 1, 0x0, 1⟩,
   ⟨210, "HI_POOL_BASE_HI", 0x44, 0x0, 1, 0x0, 1⟩,
   ⟨211, "HI_POOL_SIZE", 0x48, 0x0, 1, 0x0, 1⟩,
   ⟨212, "HI_EVENT_STATUS", 0x50, 0x0, 1, 0x0, 1⟩,
   ⟨213, "HI_EVENT_EN", 0x54, 0x0, 1, 0x0, 1⟩,
   ⟨214, "HI_LINK_DOWN_COUNT", 0x58, 0x0, 1, 0x0, 1⟩,
   ⟨215, "HI_ATTACH", 0x5c, 0x0, 1, 0x0, 1⟩,
   ⟨216, "HI_QVEC", 0x1000, 0x4, 1024, 0x0, 1⟩,
   ⟨217, "LID_VERSION", 0xe0000, 0x0, 1, 0x0, 1⟩,
   ⟨218, "LID_STATUS", 0xe0004, 0x0, 1, 0x0, 1⟩,
   ⟨219, "LID_SVN", 0xe0008, 0x0, 1, 0x0, 1⟩,
   ⟨220, "LID_REVOKE_TIMEOUT", 0xe000c, 0x0, 1, 0x0, 1⟩,
   ⟨221, "LID_INTEGRITY_COUNT", 0xe0010, 0x0, 1, 0x0, 1⟩,
   ⟨222, "LID_ACK_SHORT_COUNT", 0xe0014, 0x0, 1, 0x0, 1⟩,
   ⟨223, "LID_COUNT_STATUS", 0xe0018, 0x0, 1, 0x0, 1⟩,
   ⟨224, "LID_OWNER_NONCE", 0xe0040, 0x4, 16, 0x0, 1⟩,
   ⟨225, "LID_OWNER_DATA", 0xe0080, 0x4, 16, 0x0, 1⟩,
   ⟨226, "LID_OWNER_CMD", 0xe00c0, 0x0, 1, 0x0, 1⟩,
   ⟨227, "LID_OWNER_ARG_LO", 0xe00c4, 0x0, 1, 0x0, 1⟩,
   ⟨228, "LID_OWNER_ARG_HI", 0xe00c8, 0x0, 1, 0x0, 1⟩,
   ⟨229, "LID_PART", 0xe0100, 0x10, 32, 0x0, 1⟩,
   ⟨230, "LID_ID_LO", 0xe0104, 0x10, 32, 0x0, 1⟩,
   ⟨231, "LID_ID_HI", 0xe0108, 0x10, 32, 0x0, 1⟩,
   ⟨232, "LID_CHARTER_GEN", 0xe010c, 0x10, 32, 0x0, 1⟩,
   ⟨233, "LID_IMPORT_SRC_LO", 0xe0400, 0x20, 32, 0x0, 1⟩,
   ⟨234, "LID_IMPORT_SRC_HI", 0xe0404, 0x20, 32, 0x0, 1⟩,
   ⟨235, "LID_IMPORT_DST_LO", 0xe0408, 0x20, 32, 0x0, 1⟩,
   ⟨236, "LID_IMPORT_DST_HI", 0xe040c, 0x20, 32, 0x0, 1⟩,
   ⟨237, "LID_IMPORT_CMD", 0xe0410, 0x20, 32, 0x0, 1⟩,
   ⟨238, "LID_IMPORT_CHUNKS", 0xe0414, 0x20, 32, 0x0, 1⟩,
   ⟨239, "KS_LOAD_DATA", 0xe8000, 0x4, 24, 0x0, 1⟩]

/-- Part 6 of the registers, with their BAR0 offsets (11 R503). -/
def regsPart6 : List RegInfo :=
  [⟨240, "KS_LOAD_CMD", 0xe8060, 0x0, 1, 0x0, 1⟩,
   ⟨241, "KS_LOAD_USE", 0xe8064, 0x0, 1, 0x0, 1⟩,
   ⟨242, "KS_ZERO", 0xe8068, 0x0, 1, 0x0, 1⟩,
   ⟨243, "KS_ATTR", 0xe9000, 0x8, 256, 0x0, 1⟩,
   ⟨244, "KS_USE", 0xe9004, 0x8, 256, 0x0, 1⟩,
   ⟨245, "CK_VERSION", 0xd0000, 0x0, 1, 0x0, 1⟩,
   ⟨246, "CK_PLL_STATUS", 0xd0004, 0x0, 1, 0x0, 1⟩,
   ⟨247, "CK_DROOP_CFG", 0xd0010, 0x0, 1, 0x0, 1⟩,
   ⟨248, "CK_STRETCH_COUNT", 0xd0020, 0x4, 4, 0x0, 1⟩,
   ⟨249, "CK_STATUS", 0xd0030, 0x0, 1, 0x0, 1⟩,
   ⟨250, "PW_VERSION", 0xd1000, 0x0, 1, 0x0, 1⟩,
   ⟨251, "PW_LIMIT", 0xd1004, 0x0, 1, 0x0, 1⟩,
   ⟨252, "PW_INPUT", 0xd1008, 0x0, 1, 0x0, 1⟩,
   ⟨253, "PW_INPUT_VI", 0xd100c, 0x0, 1, 0x0, 1⟩,
   ⟨254, "PW_WAKE_CFG", 0xd1010, 0x0, 1, 0x0, 1⟩,
   ⟨255, "PW_COLD_SEED", 0xd1014, 0x0, 1, 0x0, 1⟩,
   ⟨256, "PW_THERM_CFG", 0xd1018, 0x0, 1, 0x0, 1⟩,
   ⟨257, "PW_PACE_HOLD", 0xd101c, 0x0, 1, 0x0, 1⟩,
   ⟨258, "PW_PACE_EN_LO", 0xd1020, 0x0, 1, 0x0, 1⟩,
   ⟨259, "PW_PACE_EN_HI", 0xd1024, 0x0, 1, 0x0, 1⟩,
   ⟨260, "PW_COOLANT", 0xd1028, 0x0, 1, 0x0, 1⟩,
   ⟨261, "PW_THROTTLE_COUNT", 0xd1030, 0x0, 1, 0x0, 1⟩,
   ⟨262, "PW_WAKE_COUNT", 0xd1034, 0x0, 1, 0x0, 1⟩,
   ⟨263, "PW_WAKE_QUEUED", 0xd1038, 0x0, 1, 0x0, 1⟩,
   ⟨264, "PW_PACE_TX_COUNT", 0xd103c, 0x0, 1, 0x0, 1⟩,
   ⟨265, "PW_PACE_RX_COUNT", 0xd1040, 0x0, 1, 0x0, 1⟩,
   ⟨266, "PW_STATUS", 0xd1044, 0x0, 1, 0x0, 1⟩,
   ⟨267, "PW_HALF", 0xd1080, 0x8, 4, 0x0, 1⟩,
   ⟨268, "PW_HALF_RAIL", 0xd1084, 0x8, 4, 0x0, 1⟩,
   ⟨269, "PW_TEMP_CLR", 0xd10bc, 0x0, 1, 0x0, 1⟩,
   ⟨270, "PW_TEMP", 0xd10c0, 0x4, 14, 0x0, 1⟩,
   ⟨271, "PW_PHASE", 0xd1400, 0x8, 256, 0x0, 1⟩,
   ⟨272, "PW_PHASE_MW", 0xd1404, 0x8, 256, 0x0, 1⟩,
   ⟨273, "FC_VERSION", 0x90000, 0x0, 1, 0x0, 1⟩,
   ⟨274, "FC_CTRL", 0x90004, 0x0, 1, 0x0, 1⟩,
   ⟨275, "FC_ERR_PIN", 0x90008, 0x0, 1, 0x0, 1⟩,
   ⟨276, "FC_PENDING", 0x9000c, 0x0, 1, 0x0, 1⟩,
   ⟨277, "FC_RIM_HEARTBEAT", 0x90010, 0x0, 1, 0x0, 1⟩,
   ⟨278, "FC_RIM_RESTART", 0x90014, 0x0, 1, 0x0, 1⟩,
   ⟨279, "FC_RESTART_COUNT", 0x90018, 0x0, 1, 0x0, 1⟩]

/-- Part 7 of the registers, with their BAR0 offsets (11 R503). -/
def regsPart7 : List RegInfo :=
  [⟨280, "FC_ENGINE_RESET", 0x90020, 0x0, 1, 0x0, 1⟩,
   ⟨281, "FC_ENGINE_RESET_COUNT", 0x90024, 0x0, 1, 0x0, 1⟩,
   ⟨282, "FC_STATUS", 0x90028, 0x0, 1, 0x0, 1⟩,
   ⟨283, "FC_INJECT", 0x90030, 0x0, 1, 0x0, 1⟩,
   ⟨284, "FC_FORCE", 0x90034, 0x0, 1, 0x0, 1⟩,
   ⟨285, "FC_LOG_HEAD", 0x90038, 0x0, 1, 0x0, 1⟩,
   ⟨286, "FC_WEAR_CFG", 0x90040, 0x0, 1, 0x0, 1⟩,
   ⟨287, "FC_SRC_CFG", 0x91000, 0x10, 256, 0x0, 1⟩,
   ⟨288, "FC_SRC_STATUS", 0x91004, 0x10, 256, 0x0, 1⟩,
   ⟨289, "FC_SRC_COUNT", 0x91008, 0x10, 256, 0x0, 1⟩,
   ⟨290, "FC_SRC_INFO", 0x9100c, 0x10, 256, 0x0, 1⟩,
   ⟨291, "FC_ENG_PROGRESS_LO", 0x92000, 0x8, 372, 0x0, 1⟩,
   ⟨292, "FC_ENG_PROGRESS_HI", 0x92004, 0x8, 372, 0x0, 1⟩,
   ⟨293, "FC_PATROL_REC", 0x93000, 0x4, 64, 0x0, 1⟩,
   ⟨294, "FC_SERDES_REC", 0x93100, 0x4, 27, 0x0, 1⟩,
   ⟨295, "FC_LOG", 0x94000, 0x10, 256, 0x0, 1⟩,
   ⟨296, "FC_LOG_TIME", 0x94004, 0x10, 256, 0x0, 1⟩,
   ⟨297, "FC_LOG_INFO_LO", 0x94008, 0x10, 256, 0x0, 1⟩,
   ⟨298, "FC_LOG_INFO_HI", 0x9400c, 0x10, 256, 0x0, 1⟩,
   ⟨299, "FC_PART", 0x95000, 0x10, 32, 0x0, 1⟩,
   ⟨300, "FC_PART_INST", 0x95004, 0x10, 32, 0x0, 1⟩,
   ⟨301, "FC_PART_INFO_LO", 0x95008, 0x10, 32, 0x0, 1⟩,
   ⟨302, "FC_PART_INFO_HI", 0x9500c, 0x10, 32, 0x0, 1⟩,
   ⟨303, "PG_SEAL_BASE_LO", 0x71000, 0x100, 64, 0x10, 16⟩,
   ⟨304, "PG_SEAL_BASE_HI", 0x71004, 0x100, 64, 0x10, 16⟩,
   ⟨305, "PG_SEAL_LEN", 0x71008, 0x100, 64, 0x10, 16⟩,
   ⟨306, "PG_SEAL_CMD", 0x7100c, 0x100, 64, 0x10, 16⟩,
   ⟨307, "PG_SEAL_OUT_LO", 0x75000, 0x8, 64, 0x0, 1⟩,
   ⟨308, "PG_SEAL_OUT_HI", 0x75004, 0x8, 64, 0x0, 1⟩,
   ⟨309, "RIM_VERSION", 0x80000, 0x0, 1, 0x0, 1⟩,
   ⟨310, "RIM_STATUS", 0x80004, 0x0, 1, 0x0, 1⟩,
   ⟨311, "RIM_MANIFEST_GEN_LO", 0x80008, 0x0, 1, 0x0, 1⟩,
   ⟨312, "RIM_MANIFEST_GEN_HI", 0x8000c, 0x0, 1, 0x0, 1⟩,
   ⟨313, "RIM_RESEAT_ADDR_LO", 0x80010, 0x0, 1, 0x0, 1⟩,
   ⟨314, "RIM_RESEAT_ADDR_HI", 0x80014, 0x0, 1, 0x0, 1⟩,
   ⟨315, "RIM_RESEAT_CMD", 0x80018, 0x0, 1, 0x0, 1⟩,
   ⟨316, "RIM_RESEAT_COUNT", 0x8001c, 0x0, 1, 0x0, 1⟩,
   ⟨317, "RIM_STATUS2", 0x80020, 0x0, 1, 0x0, 1⟩]

/-- Every register of the spec. -/
def allRegs : List RegInfo :=
  regsPart0 ++ regsPart1 ++ regsPart2 ++ regsPart3 ++ regsPart4 ++ regsPart5 ++ regsPart6 ++ regsPart7

/-- The fields of register number `r`. -/
def fieldsOf (r : Nat) : List Field := allFields.filter (fun f => f.reg == r)

/-- The key a field of copy `i` of its register is kept under. -/
def Field.key (f : Field) (i : Nat) : Nat := f.reg * 32 + f.lo + 16384 * i

/-- The default severity of a fault family, its lowest severity and whether it clears by quiet period (14 R636, Table 2). -/
def familyInfo (f : Nat) : Nat × Nat × Bool :=
  if f = 0x00 ∨ f = 0x02 ∨ f = 0x11 ∨ f = 0x1A ∨ f = 0x29 then (1, 1, false)
  else if f = 0x04 ∨ f = 0x1E then (2, 2, false)
  else if f = 0x32 ∨ f = 0x38 then (3, 3, false)
  else if f = 0x46 ∨ f = 0x4E then (4, 4, false)
  else if f = 0x19 ∨ f = 0x27 ∨ f = 0x28 then (0, 0, true)
  else (0, 0, false)

/-- The reset value of a field in copy `i`, where copies differ: class 15 (09 R440, 10 R492) and the families of 14 R636. -/
def Field.resetAt (f : Field) (i : Nat) : Nat :=
  if f = Fld.HB_CLASS_CFG_base_prio then (if i = 15 then 0 else f.reset)
  else if f = Fld.WF_CLASS_CFG_prio then (if i = 15 then 0 else f.reset)
  else if f = Fld.FC_SRC_CFG_severity then (familyInfo i).1
  else if f = Fld.FC_SRC_CFG_auto then bit (familyInfo i).2.2
  else f.reset

/-- The register whose copy lies at a BAR0 offset and that copy's index, if one does (11 R503, R504). -/
def regAt (off : Nat) : Option (Nat × Nat) :=
  allRegs.findSome? (fun r =>
    if off < r.base then none
    else
      let d := off - r.base
      let i1 := if r.stride1 = 0 then 0 else min (d / r.stride1) (r.count1 - 1)
      let d1 := d - i1 * r.stride1
      let i2 := if r.stride2 = 0 then 0 else min (d1 / r.stride2) (r.count2 - 1)
      if d = i1 * r.stride1 + i2 * r.stride2 then some (r.reg, i1 * r.count2 + i2) else none)

end Sys2Proof.Machine
end

