-- ==== Sys2Proof/Machine/Types.lean ====
section
/-! DEFINITION. The kinds of record the machine's state is made of. -/

namespace Sys2Proof.Machine

/-- Where the module stands between no power and service (16 R704, R705; 13 R622). -/
inductive Phase where
  /-- No 54 V input in range. -/
  | unpowered
  /-- Rails in regulation, PERST_N low (16 R704 step 1). -/
  | held
  /-- PERST_N high, the root PLL not yet locked (16 R704 step 2). -/
  | waitLock
  /-- The PLL locked, the boot ROM not yet entered (16 R704 step 3). -/
  | locked
  /-- The boot ROM has run: the rim serves, or serves in rim-only mode. -/
  | running
  /-- Stopped by loss of coolant (13 R622). -/
  | stopped
  deriving DecidableEq, Repr

/-- The levels of the module's pins (16 R698 to R701). -/
structure Pins where
  inputOk : Bool
  lossSeen : Bool
  perstN : Bool
  coolantOk : Bool
  refclkOk : Bool
  errN : Bool
  thermAlertN : Bool
  uartBaud : Nat
  i3cDynamic : Option Nat
  i3cModuleWritten : Bool
  deriving DecidableEq, Repr

/-- A firmware image staged in a flash bank: what of its header the machine uses (16 R707). -/
structure Image where
  svn : Nat
  digest : BitVec 512
  deriving DecidableEq, Repr

/-- A re-seat that has been accepted and waits for the boot ROM (16 R715 to R718). -/
structure Reseat where
  manifest : Option (List Byte)
  image : Option Image
  deriving DecidableEq, Repr

/-- What the rim is doing (16 R704 to R718; 14 R657 to R659). -/
structure Run where
  phase : Phase
  /-- The root edge at which the present µs began, and the last at which a half's clock or a channel into a half did something. -/
  rootEdge : Nat
  edge : Nat
  coresReleased : Bool
  coolantArmed : Bool
  rimOnly : Bool
  reseat : Option Reseat
  restartDue : Bool
  monitorUnlocked : Bool
  /-- The boot window (R706): closed whenever a command from outside can act, since the boot ROM runs within one command. -/
  bootWindow : Bool
  /-- The digest of the engine firmware last staged, and of the one before it (R718). -/
  engineStaged : BitVec 512
  engineActive : BitVec 512
  /-- The commands that were in progress when it was staged, which run on under the one before: context, queue, sequence. -/
  oldCmds : List (Nat × Nat × Nat)
  /-- Host links that have trained since power-up. -/
  trained : List Nat
  deriving DecidableEq, Repr

/-- The service record (16 R708; 04 R123; 14 R641). -/
structure Service where
  laneMap : List (Nat × Nat)
  siteState : List (Nat × Nat)
  retiredChannels : List Nat
  retiredPorts : List Nat
  /-- The position retired when a port's spare entered service, plus 1, by port. -/
  spareUsed : List (Nat × Nat)
  subLinks : List (Nat × Nat)
  patrolRec : List (Nat × Nat)
  serdesRec : List (Nat × Nat)
  laneRec : List (Nat × Nat)
  manifestGen : Nat
  hold : Bool
  seq : Nat
  coolantStops : Nat
  deriving DecidableEq, Repr

/-- An owner entry in the fuses: its cells, which hold its key scrambled and masked, and its two bits (12 R531). -/
structure OwnerEntry where
  cells : BitVec 512
  programmed : Bool
  retired : Bool
  deriving DecidableEq, Repr

/-- The one-time fuses that can change in service (12 R531). -/
structure Fuses where
  owner : List OwnerEntry
  svn : Nat
  deriving DecidableEq, Repr

/-- The flash: two firmware banks, the bank most recently staged, the stored manifest, the firmware key whose digest the boot ROM
holds, by its coordinates, and the DeviceID certificate (16 R707 to R709; 12 R536). -/
structure Flash where
  bank0 : Option Image
  bank1 : Option Image
  staged : Nat
  manifest : Option (List Byte)
  key : Nat × Nat
  deviceCert : List Byte
  deriving DecidableEq, Repr

/-- What the power arbiter remembers (13 R595 to R617). Tables by half or by basket; 0 where nothing is listed. -/
structure Power where
  /-- 1 ms samples in watts, newest first, at most 8,000. -/
  samples : List Nat
  /-- 10 µs measurements of the present ms, newest first. -/
  tens : List Nat
  /-- Consecutive 10 µs measurements above the limit. -/
  overRun : Nat
  /-- Why a half's ceiling stands where it does: the reason code of PW_HALF. -/
  ceilCause : List (Nat × Nat)
  /-- When a droop-rate ceiling ends, µs. -/
  droopUntil : List (Nat × Nat)
  /-- When a ceiling last changed, µs. -/
  ceilingChanged : Nat
  /-- Caps by basket: point and expiry, µs. -/
  capPoint : List (Nat × Nat)
  capUntil : List (Nat × Nat)
  /-- Cores that wait for a wake token, first first. -/
  wakeQueue : List Nat
  /-- Tokens of the present quarter of a µs not yet given. -/
  tokensLeft : Nat
  /-- Ceilings, and their causes, that a droop-rate ceiling displaced. -/
  droopPrev : List (Nat × Nat)
  droopPrevCause : List (Nat × Nat)
  /-- The core last served with a token. -/
  lastWoken : Nat
  /-- Halves in critical temperature, whose matrix units are held to one start per 64 core cycles (R620). -/
  critical : List Nat
  /-- Stretch runs of a half in the present ms, and the ms they fall in. -/
  runsInMs : List (Nat × Nat)
  runsMs : List (Nat × Nat)
  /-- The point a half's rail moves to, plus 1; 0 when the rail has settled. -/
  target : List (Nat × Nat)
  /-- When the thermal cap of a half last changed, µs. -/
  capChanged : List (Nat × Nat)
  /-- When a half's pace notice was last sent, µs. -/
  paceSent : List (Nat × Nat)
  deriving DecidableEq, Repr

/-- What the fault collector remembers beside its registers (14 R639, R645, R649, R660). -/
structure Collector where
  /-- Instances that reported since a family's pending was last set: (family, instance). -/
  reporters : List (Nat × Nat)
  /-- When a family last had a report from an instance that is not demoted, µs. -/
  lastReport : List (Nat × Nat)
  /-- When the pulse on ERR_N ends, µs. -/
  pulseEnd : Option Nat
  /-- Engines fenced. -/
  fenced : List Nat
  /-- Engines fenced whose operations have ended (step 5 done). -/
  drained : List Nat
  /-- Times of the engine resets of a core, µs: (core, time). -/
  resetTimes : List (Nat × Nat)
  /-- Sites marked for replacement. -/
  marked : List Nat
  /-- Sites in Test whose built-in test has passed (04 R125). -/
  tested : List Nat
  /-- Times of the corrected errors of a row of a channel: (channel · 2^31 + row address, time). -/
  rowErrors : List (Nat × Nat)
  /-- Spare rows used, by channel and bank. -/
  spareRows : List (Nat × Nat)
  /-- Spare lanes used, by channel (14 R664). -/
  spareLanes : List (Nat × Nat)
  /-- When a channel became retiring, µs: (channel, time). -/
  retiring : List (Nat × Nat)
  /-- Rows whose spare slot is being exchanged for a core (14 R672), as (row, slot that leaves). -/
  rotating : List (Nat × Nat)
  /-- What partition 0 reads as zero under R631: log slots, and 256 + the families. -/
  masked : List (Nat × Bool)
  deriving DecidableEq, Repr

/-- The state of a slot on a core (08 R353). -/
inductive SlotState where
  | empty
  | runnable
  | running
  | waitLocal
  | waitRemote
  deriving DecidableEq, Repr

/-- One translation held by a TLB (09 R405): its basket, the size of its page as a power of two, its page number, the
physical address of its first byte, its rights and home, and the accessed bit. -/
structure TlbEntry where
  basket : Nat
  shift : Nat
  page : Nat
  phys : Nat
  rights : Nat
  accessed : Bool
  deriving DecidableEq, Repr

/-- A table entry of levels 0 to 3 held by a walk cache (09 R406): the entry at index `va / 2^shift` of the basket. -/
structure WalkEntry where
  basket : Nat
  level : Nat
  index : Nat
  entry : Nat
  deriving DecidableEq, Repr

/-- What a frame of a bound channel is used for (09 R394, R421). -/
inductive FrameUse where
  /-- Managed by the pager and free. -/
  | free
  /-- Reserved by the driver. -/
  | reserved
  /-- Holds the page at a virtual address of the piece. -/
  | page (va : Nat)
  /-- Lent: holds the page at a virtual address of a basket for another member, by its guest-frame index. -/
  | guest (index uid va : Nat)
  deriving DecidableEq, Repr

/-- An entry of the pager's copy of an object table (09 R426, R738). -/
structure ObjEntry where
  generation : Nat
  state : Nat
  base : Nat
  pages : Nat
  pins : Nat
  deriving DecidableEq, Repr

/-- A piece's object table as the pager keeps it: whether it has taken effect, and its entries by handle. -/
structure ObjTable where
  inEffect : Bool
  entries : List (Nat × ObjEntry)
  deriving DecidableEq, Repr

/-- What a page move does when it ends (09 R412, Table 6). -/
inductive MoveKind where
  /-- A page comes back from a guest frame of a member. -/
  | bringT3 (module guest : Nat)
  /-- A page comes back from the piece's T4 spill area. -/
  | bringT4 (index : Nat)
  | spillT3 (module guest : Nat)
  | spillT4 (index : Nat)
  /-- A page leaves a frame for another of the piece. -/
  | migrate (source : Nat)
  /-- Chunks of a page of another member arrive for a guest frame. -/
  | guestIn (module : Nat)
  deriving DecidableEq, Repr

/-- A page move in progress: its number, basket, page address and kind, the frame it fills or empties, its tier-move
engine, the chunks of 4 KiB that have arrived (09 R461), and whether the other side has reported the page ready. -/
structure Move where
  id : Nat
  basket : Nat
  va : Nat
  kind : MoveKind
  frame : Nat
  engine : Nat
  chunks : Nat
  ready : Bool
  deriving DecidableEq, Repr

/-- An edit in progress in a partition's edit registers (09 R409, Table 5): what it does and to what, whether it still
waits for moves of its range (else for accesses under dropped entries), and the frames it returns at step 5. -/
structure Edit where
  part : Nat
  op : Nat
  basket : Nat
  va : Nat
  pages : Nat
  rights : Nat
  moving : Bool
  frames : List Nat
  t4 : List Nat
  guests : List (Nat × Nat)
  /-- Of an edit of the object table: the expected generation, and what has come of the table and been asked for (09 R738). -/
  gen : Nat
  got : List (Nat × List Byte)
  asked : List Nat
  deriving DecidableEq, Repr

/-- A sequence of the KV allocator, or a free index of its table (06 R262). -/
structure KvSeq where
  gen : Nat
  state : Nat
  base : Nat
  format : Nat
  members : Nat
  cols : Nat
  length : Nat
  capacity : Nat
  pages : List Nat
  slot : Nat
  lastStep : Nat
  parent : Nat
  forkLength : Nat
  branches : Nat
  draftLen : Nat
  deriving DecidableEq, Repr

/-- A free index of generation 0 (06 R731). -/
def KvSeq.free : KvSeq :=
  { gen := 0, state := 0, base := 0, format := 0, members := 0, cols := 0, length := 0, capacity := 0, pages := [], slot := 0,
    lastStep := 0, parent := 0xFFFFFFFF, forkLength := 0, branches := 0, draftLen := 0 }

/-- What waits at a row-store bank: a read group or a write (04 R151 to R154; 10 R478): its line, its requesters, the cycle it
waits from, and the bytes a write writes. -/
structure MergeGroup where
  line : Nat
  cores : List Nat
  since : Nat
  write : Option (List Byte)
  deriving DecidableEq, Repr

/-- A channel into a half (04 R163 to R168): the entries launched and not yet captured, oldest first, each with whether it holds a
credit (a response in the hold buffer holds none); the credits of its sender; for each captured entry whose credit has not been returned
the root edge from which it can be; the root edges at which credits on their way back were returned; the root edges, plus 1, of the last
launch or stall and of the last capture; and the entries launched since a response began. -/
structure SeamChan where
  held : List (SeamEntry × Bool)
  credits : Nat
  due : List Nat
  back : List Nat
  last : Nat
  cap : Nat
  len : Nat
  deriving DecidableEq, Repr

/-- A packet in an input buffer (10 R453, R457, R458): its number there, its tag, VC and flits so far, whether its tail has come, and the
payload of its flits: its header, then its own payload. -/
structure InPacket where
  id : Nat
  tag : Nat
  vc : Nat
  flits : Nat
  whole : Bool
  bytes : List Byte
  deriving DecidableEq, Repr

/-- A packet open on an output (10 R457): its place, its tag there and its next seq. -/
structure OutPacket where
  place : Nat
  tag : Nat
  seq : Nat
  deriving DecidableEq, Repr

/-- A packet sent on and not acknowledged at its tail: its output, the port it is forwarded for, and itself (10 R453, R477). -/
structure SentOn where
  port : Nat
  input : Nat
  pkt : Packet
  deriving DecidableEq, Repr

/-- A weave port beside its registers (10 R449 to R455, R472, R486, R579): the link_seq of the last flit accepted, the last
ack_seq received, the credits held for the eight VCs and for express, the tags of packets open on its input, the flits of a
group that await their seal with its number, what the peer's last IDENT said, the lane position being
retrained (3 for the whole port), and when it was last LOST or tried again, in µs. Then what it sends: the link_seq of its last flit, the
flits not acknowledged, oldest first, each with the place of a packet that ends with it, the packets open on it, its link flits that
wait (type, tag, payload), its express queue, the messages that wait for room there with their sources, the source served last, the
flits and the number of its open seal group; and the credits it owes, the packets in its input buffer, how many have begun there, the packets
it is to send, as the next module will have them, and the lane position its peer has said it leaves (10 R451 to R457, R467, R486). -/
structure Port where
  rxSeq : Nat
  ack : Nat
  credits : List Nat
  opened : List Nat
  group : List (BitVec 2048)
  groupNo : Nat
  peerServing : Bool
  racks : BitVec 256
  training : Option Nat
  lostAt : Nat
  txSeq : Nat
  unacked : List (BitVec 2048 × Option Nat)
  sending : List OutPacket
  link : List (Nat × Nat × List Byte)
  queue : List Nat
  waiting : List (Nat × Nat)
  turn : Nat
  txGroup : List (BitVec 2048)
  txGroupNo : Nat
  owed : List Nat
  inputs : List InPacket
  arrived : Nat
  outs : List Packet
  farLane : Option Nat
  deriving DecidableEq, Repr

/-- A port that has not trained (log entry 108). -/
def Port.none : Port :=
  { rxSeq := 255, ack := 255, credits := [], opened := [], group := [], groupNo := 0, peerServing := false, racks := 0,
    training := Option.none, lostAt := 0, txSeq := 255, unacked := [], sending := [], link := [], queue := [], waiting := [], turn := 80,
    txGroup := [], txGroupNo := 0, owed := List.replicate 9 0, inputs := [], arrived := 0, outs := [], farLane := Option.none }

/-- An arbiter (10 R480 to R483): its requesters by rank, highest first, the owner of the grant, the beats it has held it for,
the beats each requester has been granted of its request, and the cut-offs counted of an instance that is not a weave port (10 R483). -/
structure Arb where
  ranks : List Nat
  owner : Option Nat
  beats : Nat
  progress : List (Nat × Nat)
  hogs : Nat
  deriving DecidableEq, Repr

/-- An arbiter nothing has asked (log entry 12). -/
def Arb.none : Arb := { ranks := [], owner := Option.none, beats := 0, progress := [], hogs := 0 }

/-- An outstanding DMA request of an operation on a host link (11 R510, R520). -/
structure Dma where
  id : Nat
  link : Nat
  part : Nat
  /-- The core and slot of the operation that waits, and its index in its list. -/
  core : Nat
  slot : Nat
  op : Nat
  /-- The basket it is made for, and its class label (05 R192). -/
  basket : Nat
  label : Nat
  write : Bool
  /-- The address behind the link, and the basket virtual address. -/
  addr : Nat
  va : Nat
  data : List Byte
  len : Nat
  deriving DecidableEq, Repr

/-- An MSI-X vector of a function (11 R500, R503, R515): masked, pending, and its message. -/
structure MsixVector where
  masked : Bool
  pending : Bool
  addr : Nat
  data : Nat
  deriving DecidableEq, Repr

/-- A vector nothing has been written to (log entry 13). -/
def MsixVector.reset : MsixVector := { masked := true, pending := false, addr := 0, data := 0 }

/-- What a key slot stores beside its registers (12 R547 to R551): the key XORed with the slot's mask, the mask, and the
bundle a released wrap key serves (R577). -/
structure KeyCell where
  stored : BitVec 768
  mask : BitVec 768
  bundle : Option (BitVec 64)
  deriving DecidableEq, Repr

/-- An overwritten slot (12 R551). -/
def KeyCell.empty : KeyCell := { stored := 0, mask := 0, bundle := Option.none }

/-- What boot-ROM code hands to rim firmware (12 R535): CDI_1, the private alias and binding keys, the certificates, and
the image that runs. -/
structure Ident where
  cdi1 : List Byte
  aliasKey : Nat
  bindingKey : Nat
  aliasCert : List Byte
  bindingCert : List Byte
  image : Image
  deriving DecidableEq, Repr

/-- What a MESSAGE packet of a basket says (10 R459; 05 R190; 06 R279; 07 R321). -/
inductive MsgBody where
  | counts (ctx : Nat) (block : CountBlock)
  | outcomes (step : BitVec 64) (bits : List Bool)
  | verdicts (step : BitVec 64) (bits : List Bool)
  | shape (uid : BitVec 64) (gen : Word32) (digest : BitVec 512)
  | shapeState (uid : BitVec 64) (state : Nat)
  deriving DecidableEq, Repr

/-- The payload of a message, whose layout the spec does not give (log entry 208). -/
opaque Config.messageBytes : MsgBody → List Byte

/-- The kind of a message, in its args (10 R459; the codes in the order they are listed, log entry 208). -/
def MsgBody.kind : MsgBody → Nat
  | .counts _ _ => 0
  | .outcomes _ _ => 1
  | .verdicts _ _ => 1
  | .shape _ _ _ => 2
  | .shapeState _ _ => 3

/-- What one rim tells another (12 R564, R581, R584); the keys that KEY_DIST carries are not shown. -/
inductive RimMsg where
  | keyDist (lid : BitVec 64) (digest : List Byte) (part epoch : Nat)
  | keyAck (lid : BitVec 64)
  | lidReady (lid : BitVec 64)
  | revoke (lid : BitVec 64) (slot epoch : Nat) (mac : BitVec 512)
  | revokeAck (lid : BitVec 64)
  | depart (lid : BitVec 64) (mac : BitVec 512)
  deriving DecidableEq, Repr

/-- What the module has sent, oldest first (10 R466; 11 R515; 12 R537; 16 R719; log entry 15). -/
inductive Sent where
  | packet (pkt : Packet)
  | resp (dest : ModuleId) (r : RespMsg)
  | msix (fn vector : Nat)
  | pace (dest : ModuleId) (uid : BitVec 64) (point : Nat)
  | notReady (port : Nat) (module : ModuleId)
  | ident (port : Nat) (serving : Bool) (racks : BitVec 256)
  | loss (port : Nat) (module : ModuleId) (hop : Nat)
  | lane (port leaving entering : Nat) (swap : Bool)
  | monitor (line : List Byte)
  | monitorValues (values : List Nat)
  | bytes (fn : Nat) (data : List Byte)
  /-- A MESSAGE packet with what it says (10 R459). -/
  | message (pkt : Packet) (body : MsgBody)
  | span (dest : ModuleId) (uid kernelId : BitVec 64)
  | seal (dest : ModuleId) (uid : BitVec 64) (index base pages : Nat) (digest : BitVec 512)
  | sealBreak (dest : ModuleId) (uid : BitVec 64) (index : Nat)
  /-- A message in a rim packet (12 R541). -/
  | rim (pkt : Packet) (msg : RimMsg)
  | spdm (data : List Byte)
  /-- A flit: its bytes 0 to 127 on a lane, bytes 128 to 255 on a lane (10 R444). -/
  | flit (port lo hi : Nat) (first second : BitVec 1024)
  /-- A packet open on a port is closed (10 R454). -/
  | abort (port tag : Nat)
  | forward (port : Nat) (pkt : Packet)
  /-- An entry is captured by a half, on a channel, at a root edge (04 R164, R166). -/
  | seam (half chan edge : Nat) (data : BitVec 512)
  /-- A row store delivers a line to a core (04 R153). -/
  | line (row line core : Nat) (data : List Byte)
  | guestFree (dest : ModuleId) (uid : BitVec 64) (index : Nat)
  deriving DecidableEq, Repr

/-- A CONTEXT record (07 Table 3). -/
structure CtxRec where
  ctx : Nat
  share : Nat
  base : Nat
  len : Nat
  label : Nat
  cores : Nat
  deriving DecidableEq, Repr

/-- A QUEUE record. -/
structure QueueRec where
  queue : Nat
  ctx : Nat
  kind : Nat
  depth : Nat
  ring : Nat
  deriving DecidableEq, Repr

/-- A KV_POOL record. -/
structure KvRec where
  base : Nat
  pages : Nat
  quota : Nat
  table : Nat
  entries : Nat
  list : Nat
  slots : Nat
  deriving DecidableEq, Repr

/-- A section of a plait: what binds one piece (07 Table 3). Masks are numbers whose bit `n` names resource `n`. -/
structure Section where
  basket : Nat
  part : Nat
  lid : Bool
  gen : Nat
  uid : Nat
  shapeGen : Nat
  members : Nat
  ordinal : Nat
  profile : Nat
  logical : Nat
  memberList : List (Nat × Nat × Nat)
  cores : Nat
  channels : Nat
  segments : List Nat
  ports : Nat
  labels : Nat
  root : Nat
  kv : Option KvRec
  contexts : List CtxRec
  queues : List QueueRec
  routes : List (Nat × Nat × Nat)
  digest : BitVec 512
  shape : BitVec 512
  deriving DecidableEq, Repr

/-- A section with nothing in it. -/
def Section.none : Section :=
  { basket := 0, part := 0, lid := false, gen := 0, uid := 0, shapeGen := 0, members := 0, ordinal := 0, profile := 0,
    logical := 0, memberList := [], cores := 0, channels := 0, segments := [], ports := 0, labels := 0, root := 0,
    kv := Option.none, contexts := [], queues := [], routes := [], digest := 0, shape := 0 }

/-- A bound piece: the section its routes, ports, labels and digest come from, whether it is leaving, the channels in
effect as a mask, the pages of its T4 spill area in use, and whether a lowered KV quota still leaves an excess in T2 (06 R735). -/
structure Piece where
  sec : Section
  leaving : Bool
  chans : Nat
  t4Used : List Nat
  trim : Bool
  /-- The frames it lends: what PG_GUEST_FRAMES acts as (09 R421, R439). -/
  lent : Nat
  deriving DecidableEq, Repr

/-- No piece. -/
def Piece.none : Piece := { sec := Section.none, leaving := false, chans := 0, t4Used := [], trim := false, lent := 0 }

/-- A change of APPLY that has not taken effect (07 Table 6). -/
inductive Change where
  /-- A slot of a context is bound on a core. -/
  | slotAdd (basket core ctx base len : Nat)
  /-- A slot of a context leaves a core. -/
  | slotRemove (basket core ctx : Nat)
  /-- A context is added, its slots apart. -/
  | ctxAdd (basket ctx : Nat)
  /-- A context leaves. -/
  | ctxRemove (basket ctx : Nat)
  | chanAdd (basket ch : Nat)
  | chanRemove (basket ch : Nat)
  | segAdd (basket row seg : Nat)
  /-- A segment leaves once each listed context has passed a kernel boundary. -/
  | segRemove (basket row seg : Nat)
  deriving DecidableEq, Repr

/-- The plait engine of the rim (07 R303 to R318). -/
structure PlaitEngine where
  /-- The new plait's sections while a load is in APPLY or COMMIT. -/
  staged : List Section
  newGen : Nat
  /-- Changes that have not taken effect. -/
  changes : List Change
  /-- Contexts that ran a kernel when APPLY began and have not yet passed a kernel boundary. -/
  running : List Nat
  /-- The partition each core was last given to, plus 1. -/
  corePart : List (Nat × Nat)
  /-- Cores in hand-over, with the partition they go to; and whether the scrub has ended. -/
  handover : List (Nat × Nat × Bool)
  /-- A load has lost a resource. -/
  reduced : Bool
  deriving DecidableEq, Repr

/-- What a wait is for. -/
inductive Wait where
  /-- A page move. -/
  | move (id : Nat)
  /-- Bytes asked of another module, by address and length. -/
  | read (module va len : Nat)
  /-- A write sent to another module. -/
  | written (module va : Nat)
  /-- A DMA request. -/
  | dma (id : Nat)
  /-- A peer's take of a payload, by module and rank (05 R230). -/
  | take (module rank : Nat)
  /-- A payload from a rank (05 R232). -/
  | payload (rank : Nat)
  /-- Partials of a rank (05 R234). -/
  | partials (rank : Nat)
  /-- A fence (08 R379). -/
  | fence (va : Nat)
  /-- The performance of a signal at a fence's home (08 R376). -/
  | signalled (module va : Nat)
  deriving DecidableEq, Repr

/-- A partial tile held for the tree, or the shape of one being received (05 R235): rank, tile, anchor, rows, columns and
the lanes that have arrived, as (lane, value) pairs. -/
structure PartTile where
  rank : Nat
  tile : Nat
  rows : Nat
  cols : Nat
  lanes : List (Nat × Nat)
  deriving DecidableEq, Repr

/-- Where a page stands for an access once the pager has done what it can at once. -/
inductive PageAt where
  /-- Resident, or mapped in T2 by a large leaf: the physical address of the access. -/
  | here (phys : Nat)
  | t3 (module : Nat)
  | t4 (port addr : Nat)
  /-- A move must end first. -/
  | wait (move : Nat)
  /-- Spilled, and accessed where it lies. -/
  | atT3 (module : Nat)
  | atT4 (index : Nat)
  /-- No tier has room for a first touch. -/
  | noRoom
  /-- A T4 address that the partition may not reach (11 R511, R520; 12 R571). -/
  | barred
  /-- The module that holds the page is lost, or no route leads to it (09 R424; 10 R476). -/
  | lost (module : Nat)
  deriving DecidableEq, Repr

/-- An operation that has issued and not completed (05 R203 to R209; 08 R366). -/
structure OpRec where
  index : Nat
  /-- Its place in the order in which the operations in flight on its core issued (05 R206). -/
  order : Nat
  desc : List Byte
  /-- Its remote-ledger entry, if it took one. -/
  entry : Option Nat
  waits : List Wait
  /-- The pages it holds (09 R413). -/
  pages : List Nat
  /-- Where those of them lie that stand where they will be accessed, by the translation made at its check (09 R404, R409). -/
  places : List (Nat × PageAt)
  /-- Bytes that have come from elsewhere: basket virtual address and bytes. -/
  fetched : List (Nat × List Byte)
  /-- Writes of the slice made when it completes, as (slice offset, bytes): accumulator tiles (04 R130). -/
  back : List (Nat × List Byte)
  /-- The length a KV_APPEND gives its sequence when it completes. -/
  top : Option Nat
  /-- Partial tiles received and not yet used; tiles begun. -/
  parts : List PartTile
  /-- Its stores have been sent. -/
  sent : Bool
  /-- All it does is done: it may complete. -/
  ready : Bool
  /-- The fault it ends with: code and information (05 Table 22). -/
  fault : Option (Nat × Nat)
  deriving DecidableEq, Repr

/-- A window of the clip monitor (02 R64 to R67): its elements and clips so far, and what it began with. -/
structure ClipWindow where
  n : Nat
  c : Nat
  limit : Nat
  log2 : Nat
  en : Bool
  deriving DecidableEq, Repr

/-- The shard on a slot: its number on the module, the next operation of its list and its descriptor once fetched, whether
it issues no more, the operations in flight (oldest first), offers it has taken (source and ledger), operations completed, and its clip window. -/
structure ShardRun where
  active : Bool
  shard : Nat
  next : Nat
  head : Option (List Byte)
  halted : Bool
  ops : List OpRec
  took : List (Nat × Nat)
  opsDone : Nat
  window : Option ClipWindow
  deriving DecidableEq, Repr

/-- No shard. -/
def ShardRun.none : ShardRun :=
  { active := false, shard := 0, next := 0, head := Option.none, halted := false, ops := [], took := [], opsDone := 0, window := Option.none }

/-- An entry of a remote ledger (08 R366 to R371): whether it is in use, its generation, and its deadline in µs. -/
structure LedgerEntry where
  used : Bool
  gen : Nat
  deadline : Option Nat
  deriving DecidableEq, Repr

/-- A free entry (log entry 11). -/
def LedgerEntry.free : LedgerEntry := { used := false, gen := 0, deadline := Option.none }

/-- An offer held by this module: basket uid, kernel, channel, sender rank, source, ledger, and the payload's format, rows
and columns; a format of 16 stands for partials (10 R462; 05 R231; log entry 88). `dest` is the rank an offer of a shard of
this module is for; an offer of another module names none. -/
structure OfferRec where
  uid : Nat
  kernel : Nat
  channel : Nat
  rank : Nat
  src : Nat
  ledger : Nat
  format : Nat
  rows : Nat
  cols : Nat
  dest : Option Nat
  deriving DecidableEq, Repr

/-- The entries of a queue: those in the head buffer, how many lie in the ring, those in the tail buffer (08 R337). -/
structure QueueData where
  head : List (List Byte)
  ring : Nat
  tail : List (List Byte)
  /-- The partitions whose reads of the pop window wait for an entry in the ring (08 R345). -/
  reads : List Nat
  /-- Notify lines that have been written and not performed, by basket and address: their interrupts wait (11 R515). -/
  notes : List (Nat × Nat)
  deriving DecidableEq, Repr

/-- An empty queue. -/
def QueueData.empty : QueueData := { head := [], ring := 0, tail := [], reads := [], notes := [] }

/-- A watch on a fence at the die that holds it (08 R384): 9 where that is another module's, 8 where no die holds it. -/
structure Watch where
  die : Nat
  basket : Nat
  va : Nat
  target : Nat
  waiter : Waiter
  /-- No watch was free: the waiter polls (08 R385). -/
  polls : Bool
  /-- When it last read the fence, µs. -/
  polled : Nat
  deriving DecidableEq, Repr

/-- A command taken from a submission queue (08 R348, R352). -/
structure Cmd where
  opcode : Nat
  quiet : Bool
  id : Nat
  addr : Nat
  value : Nat
  timeout : Nat
  status : Nat
  queue : Nat
  seq : Nat
  /-- issue_cycles of the context when it was taken. -/
  cycles : Nat
  /-- WVR_TIME when it was taken. -/
  time : Nat
  deriving DecidableEq, Repr

/-- Why a kernel start waits (05 R189; 07 R322; 09 R430; 15 R680). -/
inductive StartWait where
  | fence
  | pins
  | ready
  | span
  /-- Structures being fetched. -/
  | fetch
  /-- The kernel has ended, and its completion record is still being written (05 R190 step 4, R191). -/
  | record
  /-- Its signal waits to be performed (05 R190 step 6). -/
  | signal
  deriving DecidableEq, Repr

/-- A kernel of a context (05 R186 to R193). -/
structure Kernel where
  desc : List Byte
  rankMap : List (Nat × Nat × Nat)
  objects : List (Nat × Nat)
  waiting : Option StartWait
  /-- When a wait with the deadline of 08 R372 began. -/
  since : Nat
  started : Bool
  nextShard : Nat
  ended : Nat
  /-- The recorded fault: rank, operation, code, information, core. -/
  fault : Option (Nat × Nat × Nat × Nat × Nat)
  faults : Nat
  stopped : Bool
  counts : List Nat
  wrap : Bool
  clip : Bool
  esc : Nat
  opsDone : Nat
  /-- issue_cycles of the context when it started. -/
  cycles : Nat
  /-- Events raised in this kernel (02 R724), a bit each. -/
  raised : Nat
  /-- At the lead: the count blocks received, by module. -/
  blocks : List (Nat × CountBlock)
  gathering : Bool
  /-- For a replay record: masks of formats and conversion controls used, seals read, strands drawn (15 R689 to R692). -/
  fmtMask : Nat
  cvtMask : Nat
  /-- Seals read, with their `breaks` at the first read. -/
  seals : List (Nat × Nat)
  sealedAll : Bool
  strands : List Strand
  replay : Bool
  /-- Tensor tables, one or one for each shard; the replay manifest; the objects pinned so far; and, once it has ended, its
  status, fault code and completion record address. -/
  tables : List (List Byte)
  manifest : List Byte
  pinned : Nat
  /-- Count blocks or verdicts were missing at the deadline (08 R372). -/
  short : Bool
  result : Option (Nat × Nat × Nat)
  deriving DecidableEq, Repr

/-- A batch step in progress (06 R270, R279). -/
structure StepRun where
  record : List Byte
  /-- Indices of the sequences of the groups it names, and of their branches. -/
  named : List Nat
  /-- The outcomes the lead has received, by module. -/
  outcomes : List (Nat × List Bool)
  /-- What its entries have ended with, and the groups its JOIN entries have admitted, by first index and members. -/
  outs : List (List Byte)
  joins : List (Option (Nat × Nat))
  /-- The sequence table before it. -/
  before : List (Nat × KvSeq)
  applied : Bool
  since : Nat
  deriving DecidableEq, Repr

/-- A seal: the digest of its range, and how often it has left the state INTACT (15 R683, R685, R693). -/
structure SealRec where
  digest : BitVec 512
  breaks : Nat
  deriving DecidableEq, Repr

/-- No seal has been made at an index. -/
def SealRec.none : SealRec := { digest := 0, breaks := 0 }

/-- An open span of a context (15 R675, R687 to R693): the kernel that opened it, its lead, the configuration blocks so far,
the kernels and the sums of their counts, the reduction modes used (bit masks), the seals used with their `breaks` at first
use, the strands, the flags gathered so far, the rank count of its canonical-tree kernels, and the input digest. -/
structure Span where
  openId : Nat
  lead : Nat
  config : List Byte
  kernels : Nat
  counts : List Nat
  modes : Nat
  used : List (Nat × Nat)
  sealedAll : Bool
  strands : List Strand
  fault : Bool
  short : Bool
  wrap : Bool
  ranks : Option Nat
  mixed : Bool
  input : List Byte
  deriving DecidableEq, Repr

/-- A write of the device's own that waits for a page (09 R403). -/
structure DeferredWrite where
  basket : Nat
  va : Nat
  bytes : List Byte
  /-- The module whose lines it waits for. -/
  away : Option Nat
  deriving DecidableEq, Repr

/-- A request of the device's own at another module whose answer is awaited: its ledger word, the kind of the answer (2 write done, 6
read done), the module, and the basket and address it is for (08 R368; 09 R403). -/
structure OwnReq where
  word : Nat
  kind : Nat
  module : Nat
  basket : Nat
  va : Nat
  deriving DecidableEq, Repr

/-- A part of another module's request that this module has passed on, since a third one holds the page that was spilled to it (09 R422):
the request, and the address and length of the part. -/
structure Relay where
  pkt : Packet
  va : Nat
  len : Nat
  deriving DecidableEq, Repr

/-- A signal of a driver, as WVR_FENCE_OP stood when go was written (08 R387), and whether it has been sent to another module. -/
structure FenceOp where
  basket : Nat
  va : Nat
  value : Nat
  code : Nat
  sent : Bool
  deriving DecidableEq, Repr

/-- A signal of a fence whose page is on the move (08 R376; 09 R412). -/
structure FenceUpdate where
  basket : Nat
  va : Nat
  value : Nat
  status : Nat
  deriving DecidableEq, Repr

/-- A signal that waits for the page of its fence, in the order in which they came (08 R376): an update of this module's memory side, the
ATOMIC of another module, a FENCE_SIGNAL operation, or a driver's signal. -/
inductive FenceHeld where
  | update (u : FenceUpdate)
  | packet (pkt : Packet)
  | op (core slot index : Nat)
  | driver (part : Nat)
  deriving DecidableEq, Repr

/-- A slot of a core (04 R136; 08 R353 to R357). -/
structure Slot where
  bound : Bool
  ctx : Nat
  state : SlotState
  pass : Nat
  /-- The stride of the share in force: that of the last decision point (08 R361). -/
  stride : Nat
  /-- The core cycles charged to it since it was chosen (08 R359). -/
  ran : Nat
  deriving DecidableEq, Repr

/-- A slot to which no context is bound. -/
def Slot.none : Slot := { bound := false, ctx := 0, state := .empty, pass := 0, stride := 0, ran := 0 }

/-- A context beside its registers (08 R349; 05 R189). -/
structure Context where
  /-- A BATCH_STEP runs. -/
  stepRunning : Bool
  /-- The phase its kernel reports, if it reports one. -/
  phase : Option Nat
  /-- The command in progress. -/
  cmd : Option Cmd
  kernel : Option Kernel
  step : Option StepRun
  /-- A completion item that waits to be posted. -/
  item : Option (List Byte)
  /-- Bytes the weaver has had fetched from elsewhere for the command. -/
  fetched : List (Nat × List Byte)
  /-- Requests it has made of other modules and awaits the answers of: the kind of the answer and the module (08 R368). -/
  asked : List (Nat × Nat)
  /-- Join outcomes that came before the step they are of began: step_id, module, outcomes (06 R279). -/
  early : List (Nat × Nat × List Bool)
  deriving DecidableEq, Repr

/-- A context with nothing in progress. -/
def Context.none : Context :=
  { stepRunning := false, phase := Option.none, cmd := Option.none, kernel := Option.none, step := Option.none,
    item := Option.none, fetched := [], asked := [], early := [] }

/-- Why a partition's lid is removed from this module (12 R581). -/
inductive Removal where
  /-- LID_DISSOLVE, or the leader's decision of R565: lid-wide, told to every other member. -/
  | dissolved
  /-- A REVOKE of another member: lid-wide. -/
  | revoked
  /-- A write of remove: local, the others are told. -/
  | departs
  /-- An amendment left this member out. -/
  | amended
  deriving DecidableEq, Repr

/-- The lid of a partition on this module (12 R563 to R567, R581 to R586): its charter and the key that signed it; the members
an answer is awaited of, and since when, in µs; whether the keys are being distributed; the removal that has begun, or waits
for a load to end; the members to answer once step 2 of it has ended; and whether step 3 has been done. -/
structure LidRec where
  charter : List Byte
  key : List Byte
  awaits : List Nat
  since : Nat
  sharing : Bool
  removal : Option Removal
  answers : List Nat
  sent : Bool
  deriving DecidableEq, Repr

/-- A partition without a lid. -/
def LidRec.none : LidRec :=
  { charter := [], key := [], awaits := [], since := 0, sharing := false, removal := Option.none, answers := [], sent := false }

/-- A weight import in progress (12 R575): its basket, the addresses of the bundle and of the destination, the bytes of the
bundle that have come from elsewhere, and the addresses that have been asked for; the length of its plaintext, once its header has been
accepted; and from its step 3 on its header, its wrap slot with Kw, and the plaintext stored so far. -/
structure Import where
  basket : Nat
  src : Nat
  dst : Nat
  got : List (Nat × List Byte)
  asked : List Nat
  len : Nat
  head : List Byte
  key : Option (Nat × List Byte)
  plain : List Byte
  deriving DecidableEq, Repr

/-- Nothing is being imported. -/
def Import.none : Import :=
  { basket := 0, src := 0, dst := 0, got := [], asked := [], len := 0, head := [], key := Option.none, plain := [] }

end Sys2Proof.Machine
end

