-- ==== Sys2Proof/Machine/State.lean ====
section
/-! DEFINITION. The state of the module, the reasons a command can stop, and the state before power is applied. -/

namespace Sys2Proof.Machine

/-- The state. Tables are pairs of a key and a value in rising key order; what an unlisted key reads as is said at each. -/
structure State where
  /-- Register fields that differ from their reset value, by `Field.key`. -/
  regs : List (Nat × Nat)
  /-- High words latched by a read of the low word, plus 1, by the key of the low word's field (04 R180). -/
  latched : List (Nat × Nat)
  /-- HBM by physical address, as stored: ciphertext (12 R557). -/
  hbm : Mem
  /-- The sidecar tag of each line, 8 bytes at 8 · (line number) (12 R560). -/
  sidecar : Mem
  /-- Local stores: byte `a` of site `i` at `i · 2^21 + a`. -/
  localStore : Mem
  /-- Row stores: byte `a` of row `r` at `r · 2^22 + a`. -/
  rowStore : Mem
  /-- The tweak value, plus 1, each HBM line was last encrypted with, by physical line; an unlisted line holds its bytes as
  they are (log entry 51). -/
  lineTag : List (Nat × Nat)
  /-- Host and pool memory: address `a` behind root port `n` at `n · 2^64 + a`. -/
  tier4 : Mem
  /-- Lines whose check bits are wrong, by physical line number: 1 where a read corrects the line, 2 where it carries
  poison (04 R178; 14 R632, R643). -/
  hbmPoison : List (Nat × Nat)
  /-- Lines of pages spilled to another module or to T4 that left their frame with poison, by basket · 2^50 + virtual line: 2 (04 R178). -/
  awayPoison : List (Nat × Nat)
  /-- The same for 64-bit words of local stores, by `site · 2^18 + word` (04 R141). -/
  lsPoison : List (Nat × Nat)
  /-- The same for words of row stores, by `row · 2^19 + word`. -/
  rsPoison : List (Nat × Nat)
  /-- Scrubs of local stores that run, by site: 1, whole and slot_mask as they stood when it started, in bits 0, 1 and [9:2] (04 R142). -/
  scrubs : List (Nat × Nat)
  /-- L1 TLBs by core, most recently used first (09 R405). -/
  tlb1 : List (Nat × List TlbEntry)
  /-- L2 TLB sets by `half · 512 + set`, most recently used first. -/
  tlb2 : List (Nat × List TlbEntry)
  /-- Walk caches by half, newest first (09 R406). -/
  walkCache : List (Nat × List WalkEntry)
  /-- Slots by `core · 8 + slot`; an unlisted slot is unbound. -/
  slots : List (Nat × Slot)
  /-- Shards by `core · 8 + slot`. -/
  shards : List (Nat × ShardRun)
  /-- Scoreboard tags by `(core · 8 + slot) · 64 + tag` (05 R202). -/
  tags : List (Nat × Nat)
  /-- Ledger entries by `(core · 8 + slot) · 64 + entry`. -/
  ledger : List (Nat × LedgerEntry)
  /-- Entries held by queues. -/
  queues : List (Nat × QueueData)
  /-- Waits on fences that watch or poll. -/
  watches : List Watch
  /-- Offers held. -/
  offers : List OfferRec
  /-- The device's own writes that wait for a page. -/
  deferred : List DeferredWrite
  /-- Requests of other modules that wait for a page. -/
  waiting : List Packet
  /-- Requests of other modules passed on to the module that holds the page (09 R422). -/
  relays : List Relay
  /-- Requests of the device's own at other modules, oldest first. -/
  own : List OwnReq
  /-- Signals of fences that wait for a page. -/
  updates : List FenceHeld
  /-- Driver signals in progress, by partition, and the partition served last (08 R387). -/
  fenceOps : List (Nat × FenceOp)
  fenceTurn : Nat
  /-- Contexts by number; an unlisted context has nothing in progress. -/
  contexts : List (Nat × Context)
  /-- Bound pieces by basket index. -/
  pieces : List (Nat × Piece)
  plait : PlaitEngine
  /-- Agreement reports received at ordinal 0: (basket index · 2^14 + module, shape_gen, digest) (07 R321). -/
  reports : List (Nat × Nat × BitVec 512)
  /-- Uses of frames, by physical address bits [47:16]; an unlisted frame is free (09 R394). -/
  frames : List (Nat × FrameUse)
  /-- The pager's copies of the object tables, by basket index (09 R738). -/
  objects : List (Nat × ObjTable)
  /-- The allocator's sequence tables, by basket index and index of the table (06 R262, R263). -/
  kv : List (Nat × List (Nat × KvSeq))
  /-- Seal tags of segments, by `site · 32 + segment` for local stores and `2^16 + row · 64 + segment` for row stores: 1 for
  TAINTED, `2 + 16 · basket + s` for SEAL(s) (15 R686; log entry 14); an unlisted segment is NONE. -/
  segTags : List (Nat × Nat)
  /-- Seals by `basket · 16 + index`. -/
  seals : List (Nat × SealRec)
  /-- Open spans by context. -/
  spans : List (Nat × Span)
  /-- Span-open messages that no kernel start has taken: basket uid and kernel (15 R680). -/
  spanMsgs : List (Nat × Nat)
  /-- Page moves in progress, oldest first (09 R412). -/
  moves : List Move
  /-- Edits in progress (09 R409). -/
  edits : List Edit
  /-- Heat of resident pages by physical frame (09 R419). -/
  heat : List (Nat × Nat)
  pins : Pins
  run : Run
  service : Service
  fuses : Fuses
  flash : Flash
  /-- Key slots by number; an unlisted slot is overwritten with zero. -/
  keys : List (Nat × KeyCell)
  /-- The mask drawn at the last power-up or re-seat, under which key slots are loaded (12 R550). -/
  keyMask : BitVec 768
  /-- The identity rim firmware holds (12 R532, R535). -/
  ident : Ident
  /-- When the owner nonce in LID_OWNER_NONCE was drawn, µs (12 R544). -/
  nonceTime : Nat
  /-- The active partition manifest; none while the default manifest is in force (16 R711, R712). -/
  manifest : Option (List Byte)
  /-- Valid partitions of the active manifest and their links. -/
  parts : List (Nat × Nat)
  power : Power
  fc : Collector
  /-- Outstanding DMA requests, oldest first. -/
  dma : List Dma
  /-- IDE keys of the links by `link · 256 + stream`, plus 1 (12 R568). -/
  ideKeys : List (Nat × Nat)
  /-- MSI-X vectors by `fn · 2048 + vector`; an unlisted vector is masked and not pending. -/
  msix : List (Nat × MsixVector)
  /-- Waiting read groups by `row · 16 + bank`. -/
  merge : List (Nat × List MergeGroup)
  /-- Channels into halves by `die · 64 + 32 · (1 from the network) + 16 · (1 if into east) + channel`; an unlisted channel is empty
  with 8 credits. -/
  seam : List (Nat × SeamChan)
  /-- Requests for each half that are outstanding across the seam (04 R168). -/
  seamOut : List (Nat × Nat)
  /-- Times of the retransmissions of a sub-link within the last ms, in µs, by `bridge · 16 + sub-link` (14 R668). -/
  bridgeTimes : List (Nat × List Nat)
  /-- Weave ports beside their registers. -/
  ports : List (Nat × Port)
  /-- Packets sent on and not acknowledged at their tails, and packets that wait to be sent on with the ports they are forwarded for
  (10 R453, R477). -/
  sentOn : List SentOn
  forwardWait : List (Nat × Packet)
  /-- How much of `outbox` the ports have taken up. -/
  heard : Nat
  /-- Arbiters: of port `p` at `p`, of channel `c` at `128 + c`, of a bank at `1024 + row · 16 + bank`. -/
  arbs : List (Nat × Arb)
  /-- Bytes granted in the present budget window, by master (09 R432); by channel; by channel to class 15 (09 R436). -/
  granted : List (Nat × Nat)
  /-- The root edge at which the present budget window began (09 R432). -/
  windowEdge : Nat
  chanBytes : List (Nat × Nat)
  chanBack : List (Nat × Nat)
  /-- Latencies of the last 256 reads of each class, in ns, newest first (09 R435). -/
  latencies : List (Nat × List Nat)
  /-- Functions in D3hot (11 R502). -/
  d3hot : List Nat
  /-- Bytes of other modules that have come for the seal being hashed (15 R683). -/
  sealGot : List (Nat × List Byte)
  /-- Lids by partition (12 R564). -/
  lids : List (Nat × LidRec)
  /-- Weight imports in progress, by partition (12 R575). -/
  imports : List (Nat × Import)
  /-- Modules marked lost (10 R473). -/
  lostModules : List Nat
  /-- What the module has sent. -/
  outbox : List Sent
  /-- Draws of free values so far (log entry 2). -/
  freeCounter : Nat
  /-- The commands that wait, first in, first out. -/
  pending : List Instr
  deriving DecidableEq, Repr

/-- Why a command stops the machine. -/
inductive Fault where
  /-- An access to a physical address that names nothing (09 R393). No command raises it: a walk, a plait and an edit refuse
  such an address before anything is read (09 R399, R400). Safe: it stops, and is never reached. -/
  | physicalHole (addr : Nat)
  deriving DecidableEq, Repr

/-- Why a command has no meaning. -/
inductive Refusal where
  /-- Answered by an arm of `exec` whose row has no meaning yet. Safe: nothing is claimed of it. -/
  | notModelled (mnemonic : String)
  deriving DecidableEq, Repr

/-- The pins before the 54 V input is applied (16 R699; log entries 4, 5). -/
def Pins.reset : Pins :=
  { inputOk := false, lossSeen := false, perstN := false, coolantOk := false, refclkOk := true, errN := true,
    thermAlertN := true, uartBaud := 115200, i3cDynamic := none, i3cModuleWritten := false }

/-- The rim before power. -/
def Run.reset : Run :=
  { phase := .unpowered, rootEdge := 0, edge := 0, coresReleased := false, coolantArmed := false, rimOnly := false, reseat := none,
    restartDue := false, monitorUnlocked := false, bootWindow := false, engineStaged := Config.engineDigest Config.factoryDigest,
    engineActive := Config.engineDigest Config.factoryDigest, oldCmds := [], trained := [] }

/-- The service record of a module fresh from the factory (04 R123; log entry 7). -/
def Service.fresh : Service :=
  { laneMap := [], siteState := [], retiredChannels := [], retiredPorts := [], spareUsed := [], subLinks := [],
    patrolRec := [], serdesRec := [], laneRec := [], manifestGen := 0, hold := false, seq := 0, coolantStops := 0 }

/-- Fuses of a module to which no owner has been programmed (log entry 8). -/
def Fuses.fresh : Fuses :=
  { owner := List.replicate 4 { cells := 0, programmed := false, retired := false }, svn := 0 }

/-- The flash of a module fresh from the factory: one image in bank 0, no manifest (log entry 9). -/
def Flash.fresh : Flash :=
  { bank0 := some { svn := 0, digest := Config.factoryDigest }, bank1 := none, staged := 0, manifest := none,
    key := (Config.firmwareKeyX, Config.firmwareKeyY), deviceCert := Config.deviceCert }

/-- Nothing is derived before the boot ROM has run (log entry 8). -/
def Ident.reset : Ident :=
  { cdi1 := [], aliasKey := 0, bindingKey := 0, aliasCert := [], bindingCert := [],
    image := { svn := 0, digest := Config.factoryDigest } }

/-- No plait (07 R328). -/
def PlaitEngine.reset : PlaitEngine :=
  { staged := [], newGen := 0, changes := [], running := [], corePart := [], handover := [], reduced := false }

/-- No history (13 Table 3). -/
def Power.reset : Power :=
  { samples := [], tens := [], overRun := 0, ceilCause := [], droopUntil := [], ceilingChanged := 0, capPoint := [],
    capUntil := [], wakeQueue := [], tokensLeft := 0, droopPrev := [], droopPrevCause := [], lastWoken := 255, critical := [], runsInMs := [], runsMs := [], target := [],
    capChanged := [], paceSent := [] }

/-- Nothing reported. -/
def Collector.reset : Collector :=
  { reporters := [], lastReport := [], pulseEnd := none, fenced := [], drained := [], resetTimes := [], marked := [], tested := [],
    rowErrors := [], spareRows := [], spareLanes := [], retiring := [], rotating := [], masked := [] }

/-- The module before its input is applied: every register at its reset value, nothing in any memory (log entry 4). -/
def State.reset : State :=
  { regs := [], latched := [], hbm := [], sidecar := [], lineTag := [], localStore := [], rowStore := [], tier4 := [], hbmPoison := [], awayPoison := [],
    lsPoison := [], rsPoison := [], scrubs := [], tlb1 := [], tlb2 := [], walkCache := [],
    slots := [], shards := [], tags := [], ledger := [], queues := [], watches := [], offers := [], deferred := [], waiting := [], relays := [], own := [], updates := [], fenceOps := [], fenceTurn := 31, contexts := [], pieces := [], plait := PlaitEngine.reset, reports := [],
    frames := [], objects := [], kv := [], segTags := [], seals := [], spans := [], spanMsgs := [], moves := [], edits := [], heat := [], pins := Pins.reset, run := Run.reset,
    service := Service.fresh, fuses := Fuses.fresh, flash := Flash.fresh, keys := [], keyMask := 0, ident := Ident.reset, nonceTime := 0, manifest := none, parts := [],
    power := Power.reset,
    fc := Collector.reset, dma := [], ideKeys := [], msix := [], merge := [], seam := [], seamOut := [], bridgeTimes := [],
    ports := [], sentOn := [], forwardWait := [], heard := 0, arbs := [], granted := [], windowEdge := 0, chanBytes := [], chanBack := [], latencies := [], d3hot := [], sealGot := [], lids := [], imports := [], lostModules := [], outbox := [], freeCounter := 0, pending := [] }

end Sys2Proof.Machine
end

