-- ==== Sys2Proof/Machine/Ops.lean ====
section
/-! DEFINITION. The named operations every command is made of: registers and counters, what is sent, who owns what, and
taking a fault report (14 R627 to R647). -/

namespace Sys2Proof.Machine

/-- The value of a field of copy `i` of its register. -/
def State.get (s : State) (f : Field) (i : Nat := 0) : Nat := Sparse.get (f.resetAt i) s.regs (f.key i)

/-- Whether any bit of a field is set. -/
def State.flag (s : State) (f : Field) (i : Nat := 0) : Bool := s.get f i != 0

/-- Sets a field of copy `i`; a value too wide loses its high bits. -/
def State.set (s : State) (f : Field) (i v : Nat) : State :=
  { s with regs := Sparse.set (f.resetAt i) s.regs (f.key i) (v % 2 ^ f.width) }

/-- Sets bits of a field. -/
def State.setBits (s : State) (f : Field) (i mask : Nat) : State := s.set f i (s.get f i ||| mask)

/-- Returns a field to its reset value. -/
def State.clear (s : State) (f : Field) (i : Nat) : State := s.set f i (f.resetAt i)

/-- A list of (field, value) pairs set in order, all of copy `i`. -/
def State.setAll (s : State) (i : Nat) : List (Field × Nat) → State
  | [] => s
  | (f, v) :: fs => (s.set f i v).setAll i fs

/-- An activity counter rises by `n`; passing its largest value wraps it and sets bit `k` of its wrap field (02 R61, R62). -/
def State.count (s : State) (f : Field) (i : Nat) (wrap : Field) (wi k : Nat) (n : Nat := 1) : State :=
  let v := s.get f i + n
  let s := s.set f i v
  if v < 2 ^ f.width then s else s.setBits wrap wi (2 ^ k)

/-- A counter that wraps with no wrap bit rises by `n`. -/
def State.bump (s : State) (f : Field) (i : Nat) (n : Nat := 1) : State := s.set f i (s.get f i + n)

/-- A 64-bit value held in a low and a high word. -/
def State.get64 (s : State) (lo hi : Field) (i : Nat) : Nat := s.get lo i + 2 ^ 32 * s.get hi i

/-- Sets such a value, modulo 2^64. -/
def State.set64 (s : State) (lo hi : Field) (i v : Nat) : State := (s.set lo i v).set hi i (v / 2 ^ 32)

/-- A 64-bit counter rises by `n` and wraps with no wrap bit (14 R673). -/
def State.bump64 (s : State) (lo hi : Field) (i : Nat) (n : Nat := 1) : State := s.set64 lo hi i (s.get64 lo hi i + n)

/-- WVR_TIME: µs since the release of the root PLL (08 R372). -/
def State.time (s : State) : Nat := s.get64 Fld.WVR_TIME_LO_time_lo Fld.WVR_TIME_HI_time_hi 0

/-- The module has stopped for loss of coolant: nothing but its rim is supplied (13 R622). -/
def State.halted (s : State) : Bool := s.run.phase == .stopped

/-- Puts something at the end of what the module has sent. -/
def State.emit (s : State) (x : Sent) : State := { s with outbox := s.outbox ++ [x] }

/-- The next free value (log entry 2). -/
def State.freeValue (s : State) : Nat := (Config.free s.freeCounter).toNat

/-- The next draw of the true random generator. -/
def State.randomValue (s : State) : BitVec 512 := Config.random s.freeCounter

/-- A free value or a random draw has been used. -/
def State.drawn (s : State) : State := { s with freeCounter := s.freeCounter + 1 }

/-- A slot of a core. -/
def State.slotAt (s : State) (core k : Nat) : Slot := Sparse.get Slot.none s.slots (core * 8 + k)

/-- The shard on a slot. -/
def State.shardAt (s : State) (core slot : Nat) : ShardRun := Sparse.get ShardRun.none s.shards (core * 8 + slot)

def State.setShard (s : State) (core slot : Nat) (r : ShardRun) : State :=
  { s with shards := Sparse.set ShardRun.none s.shards (core * 8 + slot) r }

/-- Replaces a slot. -/
def State.setSlot (s : State) (core k : Nat) (v : Slot) : State :=
  { s with slots := Sparse.set Slot.none s.slots (core * 8 + k) v }

/-- A context. -/
def State.ctxAt (s : State) (c : Nat) : Context := Sparse.get Context.none s.contexts c

/-- Replaces a context. -/
def State.setCtx (s : State) (c : Nat) (v : Context) : State :=
  { s with contexts := Sparse.set Context.none s.contexts c v }

/-- The stride of a context's share (08 R355). -/
def State.strideOf (s : State) (c : Nat) : Nat := 2 ^ 20 / max 1 (s.get Fld.WVR_CTX_SHARE_share c)

/-- The half of a logical core: die · 2 + (1 for rows 8 to 15, the east half) (13, Table 1; chapter 04). -/
def coreHalf (core : Nat) : Nat := core / 128 * 2 + core % 128 / 64

/-- The row of a logical core, die · 16 + row. -/
def coreRow (core : Nat) : Nat := core / 8

/-- The physical slot a lane maps to: 0xF when the lane is absent (04 R122, R127). -/
def State.laneSlot (s : State) (core : Nat) : Nat :=
  bitsOf (s.get Fld.RWS_LANE_MAP_lanes (coreRow core)) (4 * (core % 8)) 4

/-- The site of a logical core, when its lane is present (04 R121). -/
def State.siteOf (s : State) (core : Nat) : Option Nat :=
  if s.laneSlot core < 9 then some (coreRow core * 9 + s.laneSlot core) else none

/-- The state of a site: 0 active, 1 spare, 2 retired, 3 test (04 R124). -/
def State.siteState (s : State) (site : Nat) : Nat :=
  bitsOf (s.get Fld.RWS_SITE_STATE_slots (site / 9)) (2 * (site % 9)) 2

/-- Replaces `w` bits of a number from bit `lo`. -/
def putBits (n lo w v : Nat) : Nat := n - bitsOf n lo w * 2 ^ lo + v % 2 ^ w * 2 ^ lo

/-- A core is present: its lane maps to a slot (14 R661). -/
def State.corePresent (s : State) (core : Nat) : Bool := decide (s.laneSlot core < 9)

/-- Contexts bound to slots of a core, by slot. -/
def State.coreSlots (s : State) (core : Nat) : List (Nat × Slot) :=
  (List.range 8).filterMap (fun k => if (s.slotAt core k).bound then some (k, s.slotAt core k) else none)

/-- Every bound slot, as (core, slot, record). -/
def State.boundSlots (s : State) : List (Nat × Nat × Slot) :=
  (s.slots.filter (fun e => e.2.bound)).map (fun e => (e.1 / 8, e.1 % 8, e.2))

/-- The slots a context is bound to, as (core, slot). -/
def State.slotsOf (s : State) (c : Nat) : List (Nat × Nat) :=
  (s.boundSlots.filter (fun e => e.2.2.ctx == c)).map (fun e => (e.1, e.2.1))

/-- A bound piece. -/
def State.pieceAt (s : State) (b : Nat) : Piece := Sparse.get Piece.none s.pieces b

/-- A piece loses a channel: by a re-plait, or because the channel is retiring or retired (07 R311; 14 R665). -/
def State.draining (s : State) (ch : Nat) : Bool :=
  s.fc.retiring.any (fun e => e.1 == ch) || s.service.retiredChannels.contains ch ||
  s.plait.changes.any (fun c => match c with
    | .chanRemove _ k => k == ch
    | _ => false)

/-- The free frames of a channel leave the count of the piece that loses it. -/
def State.dropFree (s : State) (ch : Nat) : State :=
  let used := (s.frames.filter (fun e => e.1 / 2 ^ 24 == ch)).length
  s.pieces.foldl (fun s e =>
    if bitOf e.2.chans ch then s.set Fld.PG_FREE_FRAMES_frames e.1 (s.get Fld.PG_FREE_FRAMES_frames e.1 - (24576 - used)) else s) s

/-- The uid of a basket index. -/
def State.basketUid (s : State) (b : Nat) : Nat := s.get64 Fld.CAP_BASKET_UID_LO_uid_lo Fld.CAP_BASKET_UID_HI_uid_hi b

/-- The bound basket index with a uid, if there is one. -/
def State.basketOfUid (s : State) (uid : Nat) : Option Nat :=
  (List.range 64).find? (fun b => s.get Fld.CAP_BASKET_state b != 0 && s.basketUid b == uid)

/-! ## Who owns what (14 R630) -/

/-- Valid partitions of the active manifest. -/
def State.partitions (s : State) : List Nat := s.parts.map Prod.fst

/-- The owner of a basket index, when it is bound. -/
def State.basketOwner (s : State) (b : Nat) : Option Nat :=
  if s.get Fld.CAP_BASKET_state b = 0 then none else some (s.get Fld.CAP_BASKET_partition b)

/-- The owner of a context, when it is bound. -/
def State.ctxOwner (s : State) (c : Nat) : Option Nat :=
  if s.get Fld.WVR_CTX_STATE_state c = 0 then none else s.basketOwner (s.get Fld.WVR_CTX_STATE_basket_index c)

/-- The owner of a queue, when it is bound. -/
def State.queueOwner (s : State) (q : Nat) : Option Nat :=
  if s.flag Fld.WVR_Q_CFG_valid q then s.basketOwner (s.get Fld.WVR_Q_CFG_basket_index q) else none

/-- Channel `ch` lies in the carve-out of partition `p` (11 R528). -/
def State.inCarve (s : State) (p ch : Nat) : Bool := bitOf (s.get Fld.HI_CARVE_MAP_channels (p * 8 + ch / 32)) (ch % 32)

/-- The contexts bound to a partition. -/
def State.contextsOf (s : State) (p : Nat) : List Nat :=
  (List.range 2048).filter (fun c => s.ctxOwner c == some p)

/-- The partitions that hold a slot on a core. -/
def State.coreOwners (s : State) (core : Nat) : List Nat :=
  ((s.coreSlots core).filterMap (fun e => s.ctxOwner e.2.ctx)).eraseDups

/-- The link of a partition's function. -/
def State.linkOf (s : State) (p : Nat) : Nat := ((s.parts.find? (fun e => e.1 == p)).map Prod.snd).getD 0

/-- The partitions assigned to a link. -/
def State.linkParts (s : State) (n : Nat) : List Nat := (s.parts.filter (fun e => e.2 == n)).map Prod.fst

/-- A partition is under a lid (11 R528). -/
def State.underLid (s : State) (p : Nat) : Bool := s.flag Fld.HI_PART_ID_lid p

/-- Families whose instance is a logical core, a channel, a basket index, a context, a link or a partition (14 Table 2). -/
def coreFamily (f : Nat) : Bool := f == 0x00 || f == 0x01 || (decide (0x04 ≤ f) && decide (f ≤ 0x0C))

def channelFamily (f : Nat) : Bool := decide (0x18 ≤ f) && decide (f ≤ 0x1D)

def portFamily (f : Nat) : Bool := decide (0x20 ≤ f) && decide (f ≤ 0x27)

def basketFamily (f : Nat) : Bool := (decide (0x34 ≤ f) && decide (f ≤ 0x38))

def partitionFamily (f : Nat) : Bool := decide (0x42 ≤ f) && decide (f ≤ 0x44)

/-- The fault families that exist (14 R636). -/
def families : List Nat :=
  [0x00, 0x01, 0x02, 0x03, 0x04, 0x05, 0x06, 0x07, 0x08, 0x09, 0x0A, 0x0B, 0x0C, 0x10, 0x11, 0x18, 0x19, 0x1A, 0x1B,
   0x1C, 0x1D, 0x1E] ++
  [0x20, 0x21, 0x22, 0x23, 0x24, 0x25, 0x26, 0x27, 0x28, 0x29, 0x30, 0x31, 0x32, 0x34, 0x35, 0x36, 0x37, 0x38, 0x3A,
   0x3B] ++
  [0x40, 0x41, 0x42, 0x43, 0x44, 0x45, 0x46, 0x47, 0x48, 0x49, 0x4A, 0x4B, 0x4C, 0x4D, 0x4E]

/-- The partitions that own an instance of a family (14 R630); a partition instance is owned by that partition
(DEDUCED, log entry 30). -/
def State.instanceOwners (s : State) (f i : Nat) : List Nat :=
  if coreFamily f then s.coreOwners i
  else if channelFamily f then s.partitions.filter (fun p => s.inCarve p i)
  else if f = 0x30 then (s.queueOwner i).toList
  else if f = 0x31 ∨ f = 0x32 then (s.ctxOwner i).toList
  else if basketFamily f then (s.basketOwner i).toList
  else if f = 0x3A ∨ f = 0x3B then s.linkParts i
  else if partitionFamily f then (if s.partitions.contains i then [i] else [])
  else []

/-- The engine an instance of a family is, if it is one (14 R633, Table 4). -/
def engineOf (f i : Nat) : Option Nat :=
  if coreFamily f then some i
  else if f = 0x1E then some (256 + i)
  else if portFamily f then some (292 + i)
  else if f = 0x3A ∨ f = 0x3B then some (288 + i)
  else none

/-- The severity a family acts with (14 R635). -/
def State.severity (s : State) (f : Nat) : Nat := min 4 (max (s.get Fld.FC_SRC_CFG_severity f) (familyInfo f).2.1)

/-! ## Interrupts and events (11 R515, R516) -/

/-- The link of a function: of a partition, or of carrier function `32 + n`. -/
def State.fnLink (s : State) (fn : Nat) : Nat := if fn < 32 then s.linkOf fn else fn - 32

/-- A link is active. -/
def State.linkUp (s : State) (n : Nat) : Bool := bitOf (s.get Fld.HI_LINK_STATE_up 0) n

/-- A vector of a function. -/
def State.vector (s : State) (fn v : Nat) : MsixVector :=
  Sparse.get MsixVector.reset s.msix (fn * 2048 + v)

/-- A function is in D3hot: it performs no MMIO access and makes no request on its link (11 R502). -/
def State.asleep (s : State) (fn : Nat) : Bool := s.d3hot.contains fn

/-- A function may make requests on its link. -/
def State.mayMaster (s : State) (fn : Nat) : Bool := s.flag Fld.HI_ATTACH_bus_master fn && !s.asleep fn

/-- Function 0 of a link: partition 0 on link 0, the carrier function of the others (11 R498). -/
def linkFn0 (link : Nat) : Nat := if link = 0 then 0 else 32 + link

/-- Sends the MSI-X message of a vector; the pending bit is set instead while the vector is masked (PCIe), the link is
down (11 Table 5 step 5) or the function may not master the bus. -/
def State.sendMsix (s : State) (fn v : Nat) : State :=
  let v := if v < (if fn < 32 then 2048 else 1) then v else 0
  let m := s.vector fn v
  if m.masked || !s.linkUp (s.fnLink fn) || !s.mayMaster fn then
    { s with msix := Sparse.set MsixVector.reset s.msix (fn * 2048 + v) { m with pending := true } }
  else s.emit (.msix fn v)

/-- Sets an event of a function; one that becomes set while enabled sends vector 0 (11 R516). -/
def State.hostEvent (s : State) (fn : Nat) (f : Field) : State :=
  if s.flag f fn then s
  else
    let s := s.set f fn 1
    if bitOf (s.get Fld.HI_EVENT_EN_enable fn) f.lo then s.sendMsix fn 0 else s

/-- The functions: every valid partition and the carrier function of each other link that carries one. -/
def State.functions (s : State) : List Nat := s.partitions ++ [33, 34, 35]

/-! ## The error pin (14 R645 to R647) -/

/-- A family's pending bit counts for ERR_N. -/
def State.qualifies (s : State) (f : Nat) : Bool :=
  s.severity f == 4 || decide (s.get Fld.FC_CTRL_err_min_sev 0 ≤ s.severity f)

/-- ERR_N is low (14 R645, R646). -/
def State.errLow (s : State) : Bool :=
  (s.flag Fld.FC_ERR_PIN_sw_assert || s.flag Fld.FC_ERR_PIN_coolant_hold) ||
  (if s.flag Fld.FC_CTRL_err_mode then families.any (fun f => s.flag Fld.FC_SRC_STATUS_pending f && s.qualifies f)
   else s.fc.pulseEnd.isSome)

/-- Drives ERR_N, and shows it in FC_ERR_PIN. -/
def State.driveErr (s : State) : State :=
  let low := s.errLow
  let s := s.set Fld.FC_ERR_PIN_low 0 (bit low)
  let s := s.set Fld.FC_ERR_PIN_pulsing 0 (bit (!s.flag Fld.FC_CTRL_err_mode && s.fc.pulseEnd.isSome))
  { s with pins := { s.pins with errN := !low } }

/-- A qualifying pending bit has risen: in native mode a pulse starts, or ends later (14 R645). -/
def State.errRise (s : State) (f : Nat) : State :=
  if !s.flag Fld.FC_CTRL_err_mode && s.qualifies f then
    { s with fc := { s.fc with pulseEnd := some (s.time + max 2 (s.get Fld.FC_CTRL_pulse_us 0)) } }
  else s

/-! ## Engines and contexts -/

/-- Fences an engine, as the first two steps of an engine reset (14 R649); one that is fenced already stays so (R651). -/
def State.fence (s : State) (e : Nat) : State :=
  if s.fc.fenced.contains e then s
  else ({ s with fc := { s.fc with fenced := s.fc.fenced ++ [e] } }).set Fld.FC_ENGINE_RESET_busy 0 1

/-- Asks a context to stop (08 R373 step 1); during a BATCH_STEP the state changes only after step 8 of that step. -/
def State.requestStop (s : State) (c : Nat) : State :=
  let st := s.get Fld.WVR_CTX_STATE_state c
  if st = 0 ∨ st = 5 then s
  else
    let s := s.set Fld.WVR_CTX_CTRL_stop c 1
    if (s.ctxAt c).stepRunning then s else s.set Fld.WVR_CTX_STATE_state c 4

/-! ## Fault reports -/

/-- A recovery counter of an instance of a family with clear A: patrol scrub, lane retrain (the lane follows in the
caller), SerDes recalibration (14 R639, R640, R674). -/
def State.recovery (s : State) (f i : Nat) : Nat :=
  if f = 0x19 then bitsOf (s.get Fld.FC_PATROL_REC_recs (i / 4)) (8 * (i % 4)) 8
  else if f = 0x28 then bitsOf (s.get Fld.FC_SERDES_REC_recs (i / 4)) (8 * (i % 4)) 8
  else if f = 0x27 then
    max (s.get Fld.WF_LANE_RECOVERY_rec_a i) (max (s.get Fld.WF_LANE_RECOVERY_rec_b i) (s.get Fld.WF_LANE_RECOVERY_rec_s i))
  else 0

/-- An instance is demoted: its recovery counter stands at 255 (14 R640). -/
def State.demotedInst (s : State) (f i : Nat) : Bool := s.recovery f i == 255

/-- A notice to one partition (14 R630). -/
def State.notice (s : State) (p f i info sev : Nat) : State :=
  let s := s.setBits Fld.FC_PART_sev p (2 ^ sev)
  let s := s.setAll p [(Fld.FC_PART_family, f), (Fld.FC_PART_INST_instance, i), (Fld.FC_PART_INFO_LO_info_lo, info),
    (Fld.FC_PART_INFO_HI_info_hi, info / 2 ^ 32)]
  s.hostEvent p Fld.HI_EVENT_STATUS_fault_notice

/-- Writes the log entry of a report (14 R629, R674). -/
def State.logReport (s : State) (f i info : Nat) (rail forced : Bool) (owners : List Nat) : State :=
  let k := s.get Fld.FC_LOG_HEAD_count 0 % 256
  let s := s.setAll k [(Fld.FC_LOG_family, f), (Fld.FC_LOG_instance, i), (Fld.FC_LOG_severity, s.severity f),
    (Fld.FC_LOG_partition, owners.headD 0), (Fld.FC_LOG_part_valid, bit (owners.length == 1)), (Fld.FC_LOG_rail, bit rail),
    (Fld.FC_LOG_forced, bit forced), (Fld.FC_LOG_TIME_time, s.time), (Fld.FC_LOG_INFO_LO_info_lo, info),
    (Fld.FC_LOG_INFO_HI_info_hi, info / 2 ^ 32)]
  let hide := owners.any (fun p => s.underLid p)
  let s := { s with fc := { s.fc with
    masked := Sparse.set false (Sparse.set false s.fc.masked k hide) (256 + f) hide } }
  s.count Fld.FC_LOG_HEAD_count 0 Fld.FC_STATUS_wrap 0 2

/-- Sets the family's status from a report (14 R629, R638 to R640). -/
def State.statusReport (s : State) (f i info : Nat) (rail forced : Bool) : State :=
  let s := s.bump Fld.FC_SRC_COUNT_count f
  let was := s.flag Fld.FC_SRC_STATUS_pending f
  let s := s.setAll f [(Fld.FC_SRC_STATUS_pending, 1), (Fld.FC_SRC_STATUS_last_instance, i), (Fld.FC_SRC_INFO_info, info)]
  let s := if rail then s.set Fld.FC_SRC_STATUS_rail f 1 else s
  let s := if forced then s.set Fld.FC_SRC_STATUS_forced f 1 else s
  let s := if s.demotedInst f i then s.set Fld.FC_SRC_STATUS_demoted f 1
    else { s with fc := { s.fc with lastReport := Sparse.set 0 s.fc.lastReport f s.time } }
  let reps := if was then s.fc.reporters else s.fc.reporters.filter (fun e => e.1 != f)
  let s := { s with fc := { s.fc with reporters := if reps.contains (f, i) then reps else reps ++ [(f, i)] } }
  if was then s else s.errRise f

/-- The action of the severity of a report (14 R632, R633). A DEFER report's poison is put on the data by its raiser. -/
def State.severityAction (s : State) (f i : Nat) (owners : List Nat) : State :=
  let sev := s.severity f
  let s := if sev < 2 then s else match engineOf f i with
    | some e => s.fence e
    | none => s
  if sev < 3 then s
  else owners.foldl (fun s p => (s.contextsOf p).foldl State.requestStop s) s

/-- A rim restart begins: the RIM block goes quiet until the boot ROM has run (14 R657 to R659). -/
def State.startRimRestart (s : State) : State :=
  ({ s with run := { s.run with restartDue := true } }).set Fld.FC_RIM_RESTART_busy 0 1

/-- A fault report, whole (14 R629 to R633, R645; R658 for family 0x46). -/
def State.report (s : State) (f i info : Nat) (rail : Bool := false) (forced : Bool := false) : State :=
  let owners := s.instanceOwners f i
  let told := if owners.isEmpty then s.partitions else owners
  let s := s.logReport f i info rail forced owners
  let s := s.statusReport f i info rail forced
  let s := told.foldl (fun s p => s.notice p f i info (s.severity f)) s
  let s := s.severityAction f i owners
  let s := if f = 0x46 then s.startRimRestart else s
  s.driveErr

/-! ## The capability table (07 R330 to R333) -/

/-- A word whose bit `j` is `f (32·i + j)`. -/
def mapWord (f : Nat → Bool) (i : Nat) : Nat := (List.range 32).foldl (fun n j => n + 2 ^ j * bit (f (32 * i + j))) 0

/-- The bits set in copies 0 to `n - 1` of a field. -/
def State.popcount (s : State) (f : Field) (n : Nat) : Nat :=
  ((List.range (32 * n)).filter (fun k => bitOf (s.get f (k / 32)) (k % 32))).length

/-- Writes the fields of the capability table that follow from the cores, channels and ports in service. -/
def State.refreshCaps (s : State) : State :=
  let s := (List.range 8).foldl (fun s i => s.set Fld.CAP_CORE_MAP_present i (mapWord s.corePresent i)) s
  let s := (List.range 8).foldl (fun s i =>
    s.set Fld.CAP_CHAN_MAP_present i (mapWord (fun c => !s.service.retiredChannels.contains c) i)) s
  let s := (List.range 3).foldl (fun s i =>
    s.set Fld.CAP_PORT_MAP_present i (mapWord (fun c => decide (c < 80) && !s.service.retiredPorts.contains c) i)) s
  let cores := s.popcount Fld.CAP_CORE_MAP_present 8
  let chans := s.popcount Fld.CAP_CHAN_MAP_present 8
  s.setAll 0 [(Fld.CAP_COUNTS_cores, cores), (Fld.CAP_COUNTS_channels, chans),
    (Fld.CAP_COUNTS_ports, s.popcount Fld.CAP_PORT_MAP_present 3), (Fld.CAP_HBM_MIB_mib, 1536 * chans),
    (Fld.CAP_SRAM_KIB_kib, 2048 * cores + 4096 * 32), (Fld.CAP_PEAK_2X4_gops, cores * 32768 * 6),
    (Fld.CAP_PEAK_4X4_gops, cores * 16384 * 6), (Fld.CAP_PEAK_FP8_gops, cores * 8192 * 6),
    (Fld.CAP_PEAK_BF16_gops, cores * 4096 * 6), (Fld.CAP_PEAK_FP32_gflops, cores * 128 * 2 * 3)]

/-- CAP_GEN advances: the capability-change event is raised and every function is told (07 R332, R333; 11 R517). -/
def State.capChange (s : State) : State :=
  let s := s.bump Fld.CAP_GEN_gen 0
  let s := s.report 0x41 0 0
  s.functions.foldl (fun s fn => s.hostEvent fn Fld.HI_EVENT_STATUS_cap_change) s

/-- The registers through which data poison is recorded at a local store (04 R141). -/
def State.lsUncorrectable (s : State) (site core line : Nat) : State :=
  let s := s.setAll site [(Fld.LS_ECC_STATUS_uncorr, 1), (Fld.LS_UNCORR_ADDR_line, line)]
  s.report 0x00 core line

end Sys2Proof.Machine
end

