-- ==== Sys2Proof/Machine/Ports.lean ====
section
/-! DEFINITION. The states of the weave ports, what the module tells their peers, and the capability table's part of it
(07 R332; 10 R445, R472, R473, R490; 12 R578). -/

namespace Sys2Proof.Machine

def State.portAt (s : State) (p : Nat) : Port := Sparse.get Port.none s.ports p

def State.setPort (s : State) (p : Nat) (x : Port) : State := { s with ports := Sparse.set Port.none s.ports p x }

/-- The state of a port: 0 DOWN, 1 TRAINING, 2 UP, 3 READY, 4 LOST, 5 RETIRED (10 R445). -/
def State.portState (s : State) (p : Nat) : Nat := s.get Fld.WF_PORT_STATE_state p

/-- The ports in a state, in ascending number. -/
def State.portsIn (s : State) (st : Nat) : List Nat := (List.range 80).filter (fun p => s.portState p == st)

/-- Ports 63 to 78 lead to other racks (10 Table 9). -/
def isGlobalPort (p : Nat) : Bool := decide (63 ≤ p) && decide (p ≤ 78)

/-- The rack of a module. -/
def rackOf (m : Nat) : Nat := m / 64

/-- The transmit and receive key slots of a global port (12 R548). -/
def txSlot (p : Nat) : Nat := 1 + 2 * (p - 63)

def rxSlot (p : Nat) : Nat := 2 + 2 * (p - 63)

/-- Both link keys of a global port are installed. -/
def State.linkKeys (s : State) (p : Nat) : Bool := s.get Fld.KS_ATTR_state (txSlot p) == 1 && s.get Fld.KS_ATTR_state (rxSlot p) == 1

/-- What IDENT says of serving on a port (12 R578). -/
def State.servesOn (s : State) (p : Nat) : Bool := s.flag Fld.WF_CTRL_serving 0 && (!isGlobalPort p || s.linkKeys p)

/-- The module at the far end of a port. -/
def State.peerOf (s : State) (p : Nat) : Nat := s.get Fld.WF_PORT_PEER_peer p

/-- A port's far end is a module. -/
def State.peerIs (s : State) (p m : Nat) : Bool := s.flag Fld.WF_PORT_PEER_peer_valid p && s.peerOf p == m

/-- The racks that this module's READY global ports reach. -/
def State.ownRacks (s : State) : BitVec 256 :=
  (s.portsIn 3).foldl (fun r p => if isGlobalPort p then r ||| BitVec.ofNat 256 (2 ^ rackOf (s.peerOf p)) else r) 0

/-- The candidate ports to a module, in ascending number (10 R475); port 79 is never one (R471). -/
def State.nextPorts (s : State) (dest : Nat) : List Nat :=
  let ready := (s.portsIn 3).filter (· != 79)
  let local' := ready.filter (fun p => decide (p < 63))
  if rackOf dest = rackOf (s.get Fld.CAP_MODULE_module 0) then
    (let c := ready.filter (fun p => s.peerIs p dest)
     if c.isEmpty then local' else c)
  else
    let c := ready.filter (fun p => isGlobalPort p && rackOf (s.peerOf p) == rackOf dest)
    if c.isEmpty then local'.filter (fun p => bitOf (s.portAt p).racks.toNat (rackOf dest)) else c

/-- IDENT goes out on a port. -/
def State.sendIdent (s : State) (p : Nat) : State := s.emit (.ident p (s.servesOn p) s.ownRacks)

/-- IDENT goes out on every port that trains or has trained. -/
def State.sendIdents (s : State) : State :=
  ((List.range 80).filter (fun p => decide (1 ≤ s.portState p) && decide (s.portState p ≤ 3))).foldl State.sendIdent s

/-- CAP_PEER's link code of a port state. -/
def linkCode (st : Nat) : Nat := if st < 2 then 0 else if st < 4 then 1 else if st = 4 then 2 else 3

/-- CAP_PEER shows what the port knows; a change of its link or not_ready advances CAP_GEN (07 R332), and so does any other change of it, so
that R334 holds (log entry 176). -/
def State.showPeer (s : State) (p : Nat) : State :=
  let link := linkCode (s.portState p)
  let nr := s.get Fld.WF_PORT_PEER_not_ready p
  let valid := s.get Fld.WF_PORT_PEER_peer_valid p
  let changed := s.get Fld.CAP_PEER_link p != link || s.get Fld.CAP_PEER_not_ready p != nr ||
    s.get Fld.CAP_PEER_peer p != s.peerOf p || s.get Fld.CAP_PEER_peer_valid p != valid
  let s := s.setAll p [(Fld.CAP_PEER_peer, s.peerOf p), (Fld.CAP_PEER_peer_valid, valid),
    (Fld.CAP_PEER_not_ready, nr), (Fld.CAP_PEER_link, link)]
  if changed then s.capChange else s

/-- The mark of a lost module clears (10 R473). -/
def State.unmarkLost (s : State) (m : Nat) : State := { s with lostModules := s.lostModules.filter (· != m) }

/-- A port that is UP or READY stands as both ends serve; a port that becomes READY clears its peer's mark, and a change of a
global port's is told to every peer (10 R472, R473). -/
def State.settlePort (s : State) (p : Nat) : State :=
  let st := s.portState p
  let want := if s.servesOn p && (s.portAt p).peerServing then 3 else 2
  if (st = 2 ∨ st = 3) ∧ st ≠ want then
    let s := s.set Fld.WF_PORT_STATE_state p want
    let s := if want = 3 then s.unmarkLost (s.peerOf p) else s
    if isGlobalPort p then s.sendIdents else s
  else s

/-- serving follows the release of the cores and a known identity; a change is told to every peer (10 R472; 13 R624; 16 R712). -/
def State.refreshServing (s : State) : State :=
  let now := s.run.coresReleased && !s.run.rimOnly && s.flag Fld.CAP_MODULE_module_valid && s.run.phase == .running
  if s.flag Fld.WF_CTRL_serving 0 = now then s
  else ((List.range 80).foldl State.settlePort (s.set Fld.WF_CTRL_serving 0 (bit now))).sendIdents

end Sys2Proof.Machine
end

