-- ==== Sys2Proof/Machine/Mmio.lean ====
section
/-! DEFINITION. What each function sees of BAR0 and what its writes change (00 R2, R3; 11 R503 to R507; 12 R588, R589). -/

namespace Sys2Proof.Machine

/-- The function an agent accesses through: a partition, or carrier `32 + n`; the monitor acts as partition 0 (16 R720). -/
def agentFn : Agent → Nat
  | .host p => p.val
  | .carrier l => 32 + l.val
  | .rim => 0
  | .monitor => 0

/-- The basket index whose registers lie at an offset: XL baskets, the pager's tier, seal and KV blocks, CAP_BASKET. -/
def basketAt (off : Nat) : Option Nat :=
  if 0x61000 ≤ off ∧ off < 0x61800 then some ((off - 0x61000) / 0x20)
  else if 0x70000 ≤ off ∧ off < 0x71000 then some ((off - 0x70000) / 0x40)
  else if 0x71000 ≤ off ∧ off < 0x75000 then some ((off - 0x71000) / 0x100)
  else if 0x75000 ≤ off ∧ off < 0x75200 then some ((off - 0x75000) / 8)
  else if 0x78000 ≤ off ∧ off < 0x7A000 then some ((off - 0x78000) / 0x80)
  else if 0x10300 ≤ off ∧ off < 0x10700 then some ((off - 0x10300) / 0x10)
  else none

/-- The queue whose registers lie at an offset. -/
def queueAt (off : Nat) : Option Nat :=
  if 0x28000 ≤ off ∧ off < 0x30000 then some ((off - 0x28000) / 0x20) else none

/-- The context whose registers lie at an offset. -/
def ctxRegAt (off : Nat) : Option Nat :=
  if 0x30000 ≤ off ∧ off < 0x50000 then some ((off - 0x30000) / 0x40) else none

/-- The partition whose own registers lie at an offset: edit copies, FC_PART, LID_PART, LID_IMPORT. -/
def partAt (off : Nat) : Option Nat :=
  if 0x60800 ≤ off ∧ off < 0x61000 then some ((off - 0x60800) / 0x40)
  else if 0x95000 ≤ off ∧ off < 0x95200 then some ((off - 0x95000) / 0x10)
  else if 0xE0100 ≤ off ∧ off < 0xE0300 then some ((off - 0xE0100) / 0x10)
  else if 0xE0400 ≤ off ∧ off < 0xE0800 then some ((off - 0xE0400) / 0x20)
  else none

/-- The site whose core block lies at an offset. -/
def siteAt (off : Nat) : Option Nat :=
  if 0x1000000 ≤ off ∧ off < 0x1000000 + 288 * 0x10000 then some ((off - 0x1000000) / 0x10000) else none

/-- The logical core mapped to a site, if one is. -/
def State.coreOfSite (s : State) (site : Nat) : Option Nat :=
  (List.range 8).findSome? (fun l => if s.siteOf (site / 9 * 8 + l) = some site then some (site / 9 * 8 + l) else none)

/-- A site's core holds a slot of a partition under a lid. -/
def State.siteUnderLid (s : State) (site : Nat) : Bool :=
  match s.coreOfSite site with
  | none => false
  | some c => (s.coreOwners c).any (fun p => s.underLid p)

/-- The slot of a core holds a context of partition `p`. -/
def State.slotOfPart (s : State) (core k p : Nat) : Bool :=
  (s.slotAt core k).bound && s.ctxOwner (s.slotAt core k).ctx == some p

/-- What partition `p` sees of a core block (11 R507; 12 R588): the registers at 0x000 to 0x00C, and format-status pages. -/
def State.seesCore (s : State) (p site r : Nat) : Bool :=
  if p = 0 then
    if !s.siteUnderLid site then true
    else if r < 0x1000 then decide (r < 0x010)
    else match s.coreOfSite site with
      | none => true
      | some c =>
        let k := (r - 0x1000) / 0x1000
        match (if (s.slotAt c k).bound then s.ctxOwner (s.slotAt c k).ctx else none) with
        | some q => !s.underLid q
        | none => true
  else match s.coreOfSite site with
    | none => false
    | some c =>
      if r < 0x010 then (List.range 8).any (fun k => s.slotOfPart c k p)
      else decide (0x1000 ≤ r) && s.slotOfPart c ((r - 0x1000) / 0x1000) p

/-- The key slot whose registers lie at an offset. -/
def keySlotAt (off : Nat) : Option Nat :=
  if 0xE9000 ≤ off ∧ off < 0xE9800 then some ((off - 0xE9000) / 8) else none

/-- Slot `k` lies in the range of partition `p`. -/
def State.slotInRange (s : State) (p k : Nat) : Bool :=
  decide (s.get Fld.HI_KEYSLOT_first p ≤ k) && decide (k < s.get Fld.HI_KEYSLOT_first p + s.get Fld.HI_KEYSLOT_count p)

/-- Whether partition `p`'s BAR0 shows the register at an offset (11 R503 to R507; 12 R589; 14 R674). -/
def State.visible (s : State) (p off : Nat) : Bool :=
  if off < 0x10000 then
    (if 0x1000 ≤ off ∧ off < 0x2000 then s.queueOwner ((off - 0x1000) / 4) == some p else true)
  else match siteAt off with
  | some i => s.seesCore p i (off % 0x10000)
  | none =>
    match basketAt off with
    | some b => s.basketOwner b == some p || (p == 0 && decide (off < 0x20000))
    | none =>
      if 0x60800 ≤ off ∧ off < 0x61000 then partAt off == some p
      else if p = 0 then true
      else match queueAt off with
      | some q => s.queueOwner q == some p
      | none =>
        match ctxRegAt off with
        | some c => s.ctxOwner c == some p
        | none =>
          match keySlotAt off with
          | some k => s.slotInRange p k
          | none =>
            match partAt off with
            | some q => q == p
            | none =>
              decide (off < 0x10100) ||
              (decide (0x10100 ≤ off) && decide (off < 0x10240) &&
                s.pieces.any (fun e => s.basketOwner e.1 == some p && bitOf e.2.sec.ports ((off - 0x10100) / 4))) ||
              decide (off = 0x20000) || decide (off = 0x20004) || decide (off = 0x20008) || decide (off = 0x20010) ||
              decide (off = 0x20014) || (decide (0x20040 ≤ off) && decide (off < 0x20054)) || decide (off = 0x60000) ||
              decide (off = 0x90000) || (decide (0xE0000 ≤ off) && decide (off < 0xE000C))

/-- An agent is a function in D3hot (11 R502), or one behind the links of a module that has stopped (13 R622). -/
def State.agentAsleep (s : State) : Agent → Bool
  | .host p => s.asleep p || s.halted
  | .carrier l => s.asleep (32 + l.val) || s.halted
  | .rim => false
  | .monitor => false

/-- The register and copy an agent's access at an offset reaches, if its window shows one; a carrier has no queue, so HI_QVEC reads zero
there (11 R528). A function's own copies of the HI block and of WVR_FENCE_OP are selected by the function (11 R503, R528; 08 R387). -/
def State.target (s : State) (a : Agent) (off : Nat) : Option (Nat × Nat) :=
  let fn := agentFn a
  let shown := match a with
    | .rim => true
    | .carrier _ => decide (off < 0x1000)
    | _ => s.visible fn off
  if s.agentAsleep a || !shown then none
  else match regAt off with
    | none => none
    | some (r, i) =>
      if off < 0x10000 then
        some (r, if r = Fld.HI_CARVE_MAP_channels.reg then fn * 8 + i
          else if r = Fld.HI_QVEC_vector.reg then i else fn)
      else if 0x20040 ≤ off ∧ off < 0x20054 then some (r, fn)
      else some (r, i)

/-- Fields whose written bits are a command of their own row: they are not changed by a plain write. -/
def commandFields : List Field :=
  [Fld.WVR_CTX_CTRL_stop, Fld.WVR_CTX_CTRL_resume, Fld.WF_PORT_CTRL_retire, Fld.FC_INJECT_arm, Fld.LID_PART_remove]

/-- One field after a write of `v` to its bits (00 R2). The words of LID_OWNER_DATA and KS_LOAD_DATA are kept for the go
that uses them, and never read back. -/
def State.writeField (s : State) (i v : Nat) (f : Field) : State :=
  let x := bitsOf v f.lo f.width
  if commandFields.contains f then s
  else match f.acc with
  | .ro => s
  | .rw => s.set f i x
  | .w1c => s.set f i (s.get f i &&& (x ^^^ (2 ^ f.width - 1)))
  | .w1s => s.set f i (s.get f i ||| x)
  | .wo => if f = Fld.LID_OWNER_DATA_data ∨ f = Fld.KS_LOAD_DATA_data then s.set f i x else s
  | .rwl => s.set f i x
  | .bw => if s.run.bootWindow then s.set f i x else s

/-- A register's fields after a write of a word. -/
def State.writeReg (s : State) (r i v : Nat) : State := (fieldsOf r).foldl (fun s f => s.writeField i v f) s

/-- Whether a write by an agent to a register its window shows is accepted: rim firmware is neither partition 0 nor an owner (08 R389; 09
R439, R440; 13 R625; 14 R674; 16 R721), and the registers it does write have rows or meanings of their own (08 R389, R506; 09 R438 to R440; 11 R528;
12 R589; 13 R625; 14 R659, R674; 16 R721; 04 R143, R182). -/
def State.accepts (s : State) (a : Agent) (off : Nat) : Bool :=
  let p := agentFn a
  match a with
  | .rim =>
    (match queueAt off with
      | some q => s.flag Fld.WVR_Q_CFG_valid q
      | none =>
        !((basketAt off).isSome && decide (0x60000 ≤ off)) && !(decide (0x80000 ≤ off) && decide (off < 0xA0000)) &&
        !(decide (0xB0000 ≤ off) && decide (off < 0xC0000)) && !(decide (0xD0000 ≤ off) && decide (off < 0xE0000)))
  | .carrier _ => decide (off < 0x1000)
  | _ =>
    if off < 0x20000 then true
    else match queueAt off with
    | some q => s.flag Fld.WVR_Q_CFG_valid q
    | none =>
      match basketAt off with
      | some b => s.basketOwner b == some p
      | none =>
        if 0x80000 ≤ off ∧ off < 0x90000 then p == 0 && !s.run.restartDue
        else if 0x90000 ≤ off ∧ off < 0xA0000 then p == 0 || (decide (0x95000 ≤ off) && partAt off == some p)
        else if off = 0x20004 ∨ off = 0x20008 then p == 0
        else match siteAt off with
          | some _ => decide (0x1000 ≤ off % 0x10000) || p == 0 && decide (off % 0x10000 ≠ 0x038)
          | none => decide (off < 0x120000) || decide (off % 0x1000 ≠ 0x008)

/-- An agent's write of a register is taken. -/
def State.takes (s : State) (a : Agent) (off : Nat) : Bool := (s.target a off).isSome && s.accepts a off

/-- The guest frames of a piece once `v` has been written to PG_GUEST_FRAMES: the register reads as written (00 R2), a value above free plus
lent acts as that sum (09 R421, R439), and one below the frames in use leaves those lent (log entry 196). -/
def State.lend (s : State) (b v : Nat) : State :=
  let sum := s.get Fld.PG_FREE_FRAMES_frames b + (s.pieceAt b).lent
  let lent := max (s.get Fld.PG_GUEST_USED_frames b) (min v sum)
  { s with pieces := Sparse.set Piece.none s.pieces b { s.pieceAt b with lent := lent } }.set Fld.PG_FREE_FRAMES_frames b (sum - lent)

/-- What follows a write: clearing a family's pending bit clears its demoted bit and moves ERR_N (14 R640, R646); a count of guest frames
moves frames between lent and free (09 R421, R439); a table address returns the object table to
the driver (09 R738). -/
def State.afterWrite (s : State) (r i : Nat) : State :=
  if r = Fld.FC_SRC_STATUS_pending.reg then
    (if s.flag Fld.FC_SRC_STATUS_pending i then s else s.set Fld.FC_SRC_STATUS_demoted i 0).driveErr
  else if r = Fld.FC_CTRL_err_mode.reg ∨ r = Fld.FC_ERR_PIN_sw_assert.reg ∨ r = Fld.FC_SRC_CFG_severity.reg then s.driveErr
  else if r = Fld.PG_GUEST_FRAMES_frames.reg then
    s.lend i (s.get Fld.PG_GUEST_FRAMES_frames i)
  else s

/-- A write of a word at a BAR0 offset, as far as the access codes go (00 R2); a command bit has its own row. -/
def State.mmioWrite (s : State) (a : Agent) (off v : Nat) : State :=
  match s.target a off with
  | none => s
  | some (r, i) => if s.accepts a off then (s.writeReg r i v).afterWrite r i else s

/-- Contexts whose kernel boundary a load awaits (07 R326): those that run a kernel and gain or lose a slot, or whose segments
leave after it. -/
def State.pendingContexts (s : State) : Nat :=
  let cs := s.plait.changes.filterMap (fun c => match c with
    | .slotAdd _ _ x _ _ => some x
    | .slotRemove _ _ x => some x
    | .ctxRemove _ x => some x
    | _ => none)
  let passing := s.plait.changes.flatMap (fun c => match c with
    | .segRemove b _ _ => ((s.pieceAt b).sec.contexts.map CtxRec.ctx).filter s.plait.running.contains
    | _ => [])
  ((cs.filter (fun c => (s.ctxAt c).kernel.isSome)) ++ passing).eraseDups.length

/-- The partition a piece belongs to, or the one a load in progress gives it to. -/
def State.piecePart (s : State) (b : Nat) : Nat :=
  match s.plait.staged.find? (fun x => x.basket == b) with
  | some x => x.part
  | none => s.get Fld.CAP_BASKET_partition b

/-- The partition a core was last given to is another than `p` (07 R315). -/
def State.otherCore (s : State) (core p : Nat) : Bool :=
  let q := Sparse.get 0 s.plait.corePart core
  q != 0 && q != p + 1

/-- Cores that pass between partitions for a load (07 R315, R326). -/
def State.pendingCores (s : State) : Nat :=
  let cs := s.plait.changes.filterMap (fun c => match c with
    | .slotAdd b core _ _ _ => if s.otherCore core (s.piecePart b) then some core else none
    | _ => none)
  (cs ++ s.plait.handover.map (fun e => e.1)).eraseDups.length

/-- What a field reads as: fields computed from others, and the information R631 hides from partition 0. -/
def State.readField (s : State) (p i : Nat) (f : Field) : Nat :=
  let hidden := p == 0
  if f.acc = .wo then 0
  else if f = Fld.FC_PENDING_sev then
    (List.range 5).foldl (fun n v => n + 2 ^ v *
      bit (families.any (fun k => s.flag Fld.FC_SRC_STATUS_pending k && s.severity k == v))) 0
  else if f = Fld.HI_PART_ID_partition then (if i < 32 then i else 0)
  else if f = Fld.HI_PART_ID_link then s.fnLink i
  else if f = Fld.HI_PART_ID_carrier then bit (decide (32 ≤ i))
  else if f = Fld.WVR_CORE_ID_site_index then i
  else if f = Fld.WVR_CORE_ID_lane then ((s.coreOfSite i).getD 0) % 8
  else if f = Fld.WVR_CORE_ID_lane_valid then bit (s.coreOfSite i).isSome
  else if f = Fld.WVR_CORE_STATE_state then
    (match s.siteState i with
      | 1 => 1
      | 2 => 2
      | 3 => 4
      | _ => if s.flag Fld.PW_HALF_gated (i / 144 * 2 + i % 144 / 72) then 3 else 0)
  else if f = Fld.WVR_CORE_STATE_resident then
    (match s.coreOfSite i with
      | none => 0
      | some c => (List.range 8).foldl (fun n k =>
          n + 2 ^ k * bit (if p = 0 then (s.slotAt c k).bound else s.slotOfPart c k p)) 0)
  else if f = Fld.WVR_CORE_STATE_running_slot ∨ f = Fld.WVR_CORE_STATE_running_valid then
    (match s.coreOfSite i with
      | none => 0
      | some c =>
        if p = 0 ∨ (s.flag Fld.WVR_CORE_STATE_running_valid i = true ∧
          s.slotOfPart c (s.get Fld.WVR_CORE_STATE_running_slot i) p = true) then s.get f i else 0)
  else if f = Fld.RIM_PLAIT_PENDING_contexts then s.pendingContexts
  else if f = Fld.RIM_PLAIT_PENDING_channels then
    (s.plait.changes.filterMap (fun c => match c with
      | .chanAdd _ ch => some ch
      | .chanRemove _ ch => some ch
      | _ => none)).eraseDups.length
  else if f = Fld.RIM_PLAIT_PENDING_cores then s.pendingCores
  else if f = Fld.PW_COOLANT_coolant_ok then bit s.pins.coolantOk
  else if f = Fld.LID_PART_lid then bit (s.underLid i)
  else if hidden ∧ (f = Fld.FC_LOG_INFO_LO_info_lo ∨ f = Fld.FC_LOG_INFO_HI_info_hi) then
    (if Sparse.get false s.fc.masked i then 0 else s.get f i)
  else if hidden ∧ f = Fld.FC_SRC_INFO_info then (if Sparse.get false s.fc.masked (256 + i) then 0 else s.get f i)
  else if hidden ∧ (f = Fld.FC_PART_INFO_LO_info_lo ∨ f = Fld.FC_PART_INFO_HI_info_hi) then
    (if s.underLid i then 0 else s.get f i)
  else s.get f i

/-- The word a register reads as. -/
def State.readReg (s : State) (p r i : Nat) : Nat :=
  (fieldsOf r).foldl (fun n f => n + s.readField p i f * 2 ^ f.lo) 0

/-- The 64-bit counters whose low word's read latches the high word (04 R180; 08 R363, R388; 06 R265; 16 R721). -/
def latchPairs : List (Field × Field) :=
  [(Fld.WVR_CORE_PROGRESS_LO_count_lo, Fld.WVR_CORE_PROGRESS_HI_count_hi), (Fld.WVR_TIME_LO_time_lo, Fld.WVR_TIME_HI_time_hi),
   (Fld.WVR_CTX_ISSUE_LO_lo, Fld.WVR_CTX_ISSUE_HI_hi), (Fld.WVR_CTX_MU_LO_lo, Fld.WVR_CTX_MU_HI_hi),
   (Fld.WVR_CTX_VU_LO_lo, Fld.WVR_CTX_VU_HI_hi), (Fld.WVR_CTX_MOVE_LO_lo, Fld.WVR_CTX_MOVE_HI_hi),
   (Fld.WVR_CTX_KERNEL_LO_lo, Fld.WVR_CTX_KERNEL_HI_hi), (Fld.FC_ENG_PROGRESS_LO_lo, Fld.FC_ENG_PROGRESS_HI_hi),
   (Fld.RIM_MANIFEST_GEN_LO_gen_lo, Fld.RIM_MANIFEST_GEN_HI_gen_hi), (Fld.RIM_PLAIT_GEN_LO_gen_lo, Fld.RIM_PLAIT_GEN_HI_gen_hi),
   (Fld.PG_KV_STEP_LO_step_lo, Fld.PG_KV_STEP_HI_step_hi)]

/-- A read of a word at a BAR0 offset; a high word latched by the read of its low word is what reads back. -/
def State.mmioRead (s : State) (a : Agent) (off : Nat) : Nat :=
  match s.target a off with
  | none => 0
  | some (r, i) =>
    if 0x80000 ≤ off ∧ off < 0x90000 ∧ s.run.restartDue then 0
    else match latchPairs.find? (fun e => e.2.reg == r) with
      | some (lo, _) =>
        let v := Sparse.get 0 s.latched (lo.key i)
        if v = 0 then s.readReg (agentFn a) r i else v - 1
      | none => s.readReg (agentFn a) r i

end Sys2Proof.Machine
end

