-- ==== Sys2Proof/Machine/Seam.lean ====
section
/-! DEFINITION. The clocks of the halves, wake tokens, and the channels into a half (04 R159 to R171; 13 R609). -/

namespace Sys2Proof.Machine

/-! ## Clocks -/

/-- The divider of a point (13 R594). -/
def pointDivider (p : Nat) : Nat := if p = 0 then 4 else if p = 1 then 5 else if p = 2 then 6 else 8

/-- The core rail of a point in mV. -/
def pointMv (p : Nat) : Nat := if p = 0 then 850 else if p = 1 then 760 else if p = 2 then 700 else 650

/-- The core clock of a point in units of 0.1 GHz. -/
def pointClock (p : Nat) : Nat := if p = 0 then 30 else if p = 1 then 24 else if p = 2 then 20 else 15

/-- The field of SEAM_DIV that shows a half's clock. -/
def divField (h : Nat) : Field := if h % 2 = 0 then Fld.SEAM_DIV_west_div else Fld.SEAM_DIV_east_div

/-- The field of SEAM_HOLD of a half. -/
def holdField (h : Nat) : Field := if h % 2 = 0 then Fld.SEAM_HOLD_held_w else Fld.SEAM_HOLD_held_e

/-- The core clock code in force: 0 to 3 for a point, 4 stopped. -/
def State.divCode (s : State) (h : Nat) : Nat := s.get (divField h) (h / 2)

/-- A half is gated. -/
def State.gated (s : State) (h : Nat) : Bool := s.flag Fld.PW_HALF_gated h

/-- The first multiple of `d` that is not below `n`. -/
def roundUp (n d : Nat) : Nat := (n + d - 1) / d * d

/-- The divider of a half's clock. -/
def State.halfDiv (s : State) (h : Nat) : Nat := pointDivider (s.divCode h)

/-! ## Channels into a half (04 R162 to R168) -/

/-- A channel into a half with nothing in it. -/
def SeamChan.empty : SeamChan := { held := [], credits := 8, due := [], back := [], last := 0, cap := 0, len := 0 }

/-- A channel into a half. -/
def State.seamAt (s : State) (k : Nat) : SeamChan := Sparse.get SeamChan.empty s.seam k

/-- Replaces a channel. -/
def State.setSeam (s : State) (k : Nat) (v : SeamChan) : State := { s with seam := Sparse.set SeamChan.empty s.seam k v }

/-- How many requests for a half are outstanding across the seam. -/
def State.outstanding (s : State) (h : Nat) : Nat := Sparse.get 0 s.seamOut h

/-- The place of a channel into a half. -/
def seamKey (h : Nat) (via : Crossing) (chan : Nat) : Nat := h / 2 * 64 + 32 * bit (via == .network) + 16 * (h % 2) + chan

/-- The half a channel leads into, by its place. -/
def keyHalf (k : Nat) : Nat := k / 64 * 2 + k % 32 / 16

/-- The other half of a die. -/
def otherHalf (h : Nat) : Nat := h / 2 * 2 + (1 - h % 2)

/-- The receiver's edge that captures an entry: its first at or after two root edges past the launch, and after its capture before
that: a channel moves one entry a receiver cycle (04 R164, R166; DEDUCED, log entry 177). -/
def captureEdge (d cap : Nat) (e : SeamEntry) : Nat := roundUp (max (e.launch + 2) cap) d

/-- What a receiver whose clock divides by `d` has captured by root edge `t` of the entries waiting in a channel, oldest first, with the
edges: what still waits, the first edge free for the next capture, and the root edges from which the credits of those captured, where
they hold one, can be returned. -/
def captures (d t : Nat) : List (SeamEntry × Bool) → Nat → List Nat →
    List (SeamEntry × Bool) × Nat × List Nat × List (Nat × SeamEntry × Bool)
  | [], cap, due => ([], cap, due, [])
  | e :: es, cap, due =>
    let n := captureEdge d cap e.1
    if t < n then (e :: es, cap, due, [])
    else
      let r := captures d t es (n + 1) (if e.2 then due ++ [n + 1] else due)
      (r.1, r.2.1, r.2.2.1, (n, e) :: r.2.2.2)

/-- A channel at root edge `t`, and what has been captured from it: the receiver returns a credit at its edge after the one that
captured the entry (04 R165). -/
def SeamChan.advance (c : SeamChan) (d t : Nat) : SeamChan × List (Nat × SeamEntry × Bool) :=
  let r := captures d t c.held c.cap c.due
  ({ c with held := r.1, cap := r.2.1, due := r.2.2.1.filter (fun n => decide (t < roundUp n d)),
            back := c.back ++ (r.2.2.1.map (fun n => roundUp n d)).filter (fun n => decide (n ≤ t)) }, r.2.2.2)

/-- A half has captured an entry of channel `k`. A response leaves the hold buffer if it stood there, and the request it answers is no
longer outstanding across the seam (04 R168, R169). -/
def State.captured (s : State) (k : Nat) (x : Nat × SeamEntry × Bool) : State :=
  let h := keyHalf k
  let s := if x.2.1.head && !x.2.2 then s.set (holdField h) (h / 2) (s.get (holdField h) (h / 2) - 1) else s
  let s := if x.2.1.head && decide (8 ≤ k % 16) && decide (k % 64 < 32) then
      { s with seamOut := Sparse.set 0 s.seamOut (otherHalf h) (s.outstanding (otherHalf h) - 1) }
    else s
  s.emit (.seam h (k % 16) x.1 x.2.1.data)

/-- A channel comes to root edge `t` under the clock in force; into a half whose clock is stopped nothing is captured (04 R164, R167). -/
def State.seamChannel (s : State) (t k : Nat) : State :=
  if s.divCode (keyHalf k) = 4 then s
  else
    let r := (s.seamAt k).advance (s.halfDiv (keyHalf k)) t
    r.2.foldl (fun s x => s.captured k x) (s.setSeam k r.1)

/-- Root edge `t` has come, for every channel. -/
def State.seamTo (s : State) (t : Nat) : State :=
  (s.seam.map Prod.fst).foldl (fun s k => s.seamChannel t k) { s with run := { s.run with edge := max s.run.edge t } }

/-- A half changes its divider, or stops: at the next root edge that is a multiple of 120, up to which the clock before is in force
(04 R160, R161). -/
def State.setDiv (s : State) (h code : Nat) : State := (s.seamTo (roundUp s.run.edge 120)).set (divField h) (h / 2) code

/-! ## Waking (13 R609) -/

/-- What waits in the channels into a half that has woken is captured from its first edge on (04 R167). -/
def State.wakeChannels (s : State) (h : Nat) : State :=
  { s with seam := s.seam.map (fun e =>
      if keyHalf e.1 = h then (e.1, { e.2 with cap := max e.2.cap s.run.edge, due := e.2.due.map (fun n => max n s.run.edge) }) else e) }

/-- A gated half wakes: it restarts at its last point (13 R597). -/
def State.wakeHalf (s : State) (h : Nat) : State :=
  if !s.gated h then s
  else ((s.set Fld.PW_HALF_gated h 0).setDiv h (s.get Fld.PW_HALF_grant h)).wakeChannels h

/-- A wake token is given to a core; its half wakes (13 R609). -/
def State.giveToken (s : State) (core : Nat) : State :=
  let s := s.count Fld.PW_WAKE_COUNT_count 0 Fld.PW_STATUS_wrap 0 1
  ({ s with power := { s.power with lastWoken := core, tokensLeft := s.power.tokensLeft - 1 } }).wakeHalf (coreHalf core)

/-- A core asks for a wake token: it finds one, or queues (13 R609). -/
def State.requestWake (s : State) (core : Nat) : State :=
  if s.power.wakeQueue.contains core then s
  else if 0 < s.power.tokensLeft ∧ s.power.wakeQueue = [] then s.giveToken core
  else
    let s := s.count Fld.PW_WAKE_QUEUED_count 0 Fld.PW_STATUS_wrap 0 2
    { s with power := { s.power with wakeQueue := s.power.wakeQueue ++ [core] } }

/-- The present cores of a half. -/
def State.halfCores (s : State) (h : Nat) : List Nat :=
  ((List.range 64).map (fun k => h * 64 + k)).filter (fun c => s.corePresent c)

/-- An arrival for a gated half asks for a wake token for each of its present cores, and is counted with each (04 R167, R169; 13 R609).
Whether a core that already waits for one counts again is not said: it does (log entry 177). -/
def State.seamWake (s : State) (h : Nat) : State :=
  let cores := s.halfCores h
  cores.foldl State.requestWake (s.count Fld.SEAM_WAKE_COUNT_count (h / 2) Fld.SEAM_STATUS_wake_wrap (h / 2) 0 cores.length)

/-! ## Launching (04 R163 to R169) -/

/-- The divider of what sends into a half: none while the other half is gated. The on-die network runs at 2.0 GHz (13 Table 1). -/
def State.senderDiv (s : State) (h : Nat) (via : Crossing) : Option Nat :=
  match via with
  | .seam => if s.divCode (otherHalf h) = 4 then none else some (s.halfDiv (otherHalf h))
  | .network => if s.run.phase = .running then some 6 else none

/-- A root edge of the present µs, not before what has already happened, is an edge of what sends into a half. -/
def State.sends (s : State) (h : Nat) (via : Crossing) (t : Nat) : Bool :=
  match s.senderDiv h via with
  | none => false
  | some d => t % d == 0 && decide (s.run.edge ≤ t) && decide (t < s.run.rootEdge + 12000)

/-- Credits whose return reaches the sender by root edge `t`, one of its edges: two root edges or more after the receiver returned them
(04 R165). -/
def SeamChan.credited (c : SeamChan) (t : Nat) : SeamChan :=
  { c with credits := c.credits + (c.back.filter (fun b => decide (b + 2 ≤ t))).length, back := c.back.filter (fun b => decide (t < b + 2)) }

/-- Responses that wait for a half in the channels from one side. -/
def State.responsesFor (s : State) (h : Nat) (via : Crossing) : Nat :=
  ((List.range 8).map (fun c => ((s.seamAt (seamKey h via (8 + c))).held.filter (fun e => e.1.head)).length)).sum

/-- Of the 64 places of the hold buffer for a half those in use: one reserved by each request of the half that is outstanding across the
seam, and one by each response of the network that waits for it (04 R168; log entry 177). -/
def State.placesUsed (s : State) (h : Nat) : Nat := s.outstanding (otherHalf h) + s.responsesFor h .network

/-- An entry is not launched: a request of the seam while no place for its response is free, a response no request is outstanding for, a
response of the network for a gated half while no place is free, or an entry past the 512 bytes of a response (04 R168). -/
def State.seamBarred (s : State) (h : Nat) (via : Crossing) (chan : Nat) (head : Bool) : Bool :=
  if chan < 8 then head && via == .seam && decide (64 ≤ s.placesUsed (otherHalf h))
  else if head then
    match via with
    | .seam => decide (s.outstanding (otherHalf h) ≤ s.responsesFor h .seam)
    | .network => s.gated h && decide (64 ≤ s.placesUsed h)
  else decide ((s.seamAt (seamKey h via chan)).len = 0 ∨ 8 ≤ (s.seamAt (seamKey h via chan)).len)

/-- An entry waits in a channel into a half, or has been launched and not yet captured (04 R170). -/
def State.seamWaiting (s : State) (h : Nat) : Bool := s.seam.any (fun e => keyHalf e.1 == h && !e.2.held.isEmpty)

/-- An entry is launched: it waits in its channel, with a credit or in the hold buffer. -/
def State.launch (s : State) (k : Nat) (e : SeamEntry) (credit : Bool) : State :=
  let h := keyHalf k
  let c := s.seamAt k
  let s := s.setSeam k { c with held := c.held ++ [(e, credit)], credits := c.credits - bit credit, last := e.launch + 1,
                                len := if e.head then 1 else c.len + 1 }
  if !e.head then s
  else if k % 16 < 8 then (if k % 64 < 32 then { s with seamOut := Sparse.set 0 s.seamOut h (s.outstanding h + 1) } else s)
  else if credit then s else s.set (holdField h) (h / 2) (s.get (holdField h) (h / 2) + 1)

end Sys2Proof.Machine
end

