-- ==== Sys2Proof/Machine/Faults.lean ====
section
/-! DEFINITION. The commands of the fault collector, of engine resets begun by software and of the background work
(14 R627 to R674). -/

namespace Sys2Proof.Machine

/-- The outcome of every command that only changes the state. -/
abbrev Out := Host.Outcome State Fault Refusal

/-- Two samples of a rail pair, true rail above complement: a rail fault is (0,0) or (1,1) at both (14 R627, R628). -/
def railFault (prev now : BitVec 2) : Bool := (prev == 0 || prev == 3) && (now == 0 || now == 3)

/-- A channel becomes retiring (14 R665). -/
def State.retireChannel (s : State) (ch info : Nat) : State :=
  if s.fc.retiring.any (fun e => e.1 == ch) then s
  else
    let t := { s with fc := { s.fc with retiring := s.fc.retiring ++ [(ch, s.time)] } }
    (if s.draining ch then t else t.dropFree ch).report 0x1D ch info

/-- A corrected or uncorrectable error of an HBM line: what is recorded, the poison of an uncorrectable line, and the
sparing of its row, or the channel's retiring when its bank has no spare row left (14 R663, R665). -/
def State.hbmRowSpare (s : State) (ch off : Nat) : State :=
  let bank := ch * 2 ^ 31 + Config.hbmBank off
  let used := Sparse.get 0 s.fc.spareRows bank
  if used < Config.spareRows then
    ({ s with fc := { s.fc with spareRows := Sparse.set 0 s.fc.spareRows bank (used + 1) } }).report 0x1B ch off
  else s.retireChannel ch off

/-- A failing lane of a channel is repaired with one of its spare lanes; with none left the channel becomes retiring (14 R664, R665). -/
def State.hbmLaneSpare (s : State) (ch info : Nat) (rail : Bool) : State :=
  let used := Sparse.get 0 s.fc.spareLanes ch
  if used < Config.spareLanes then
    ({ s with fc := { s.fc with spareLanes := Sparse.set 0 s.fc.spareLanes ch (used + 1) } }).report 0x1C ch info rail
  else s.retireChannel ch info

/-- Marks the check bits of an HBM line. -/
def State.markHbm (s : State) (line v : Nat) : State := { s with hbmPoison := Sparse.set 0 s.hbmPoison line v }

/-- A corrected error of a row of a channel: 16 within 24 h spare the row (14 R663). -/
def State.hbmCorrected (s : State) (family ch off : Nat) : State :=
  let row := ch * 2 ^ 31 + Config.hbmRow off
  let recent : List (Nat × Nat) := s.fc.rowErrors.filter (fun e => decide (s.time < e.2 + 86400000000))
  let errs : List (Nat × Nat) := recent ++ [(row, s.time)]
  let s := ({ s with fc := { s.fc with rowErrors := errs } }).report family ch off
  if decide ((errs.filter (fun e => e.1 == row)).length < 16) then s
  else ({ s with fc := { s.fc with rowErrors := errs.filter (fun e => e.1 != row) } }).hbmRowSpare ch off

/-- An uncorrectable error of an HBM line. -/
def State.hbmUncorrectable (s : State) (ch off : Nat) : State :=
  ((s.markHbm ((2 ^ 40 * ch + off) / 64) 2).report 0x1A ch off).hbmRowSpare ch off

/-- FAULT_REPORT (14 R628, R629): a source reports, or its rails disagree at two consecutive samples. Rails (0,1) report
nothing. An HBM uncorrectable report spares the row at the info's offset (R663); a lane of a channel that needs repair takes a spare
lane (R664). -/
def execFaultReport (family : BitVec 8) (inst : BitVec 9) (info : BitVec 64) (prev now : BitVec 2) (s : State) : Out :=
  let f := family.toNat
  let i := inst.toNat
  if !families.contains f then .next s
  else if f = 0x1C ∧ (railFault prev now = true ∨ now = 2) then .next (s.hbmLaneSpare i info.toNat (railFault prev now))
  else if railFault prev now then .next (s.report f i info.toNat true)
  else if now = 2 then
    (if f = 0x1A then .next ((s.report f i info.toNat).hbmRowSpare i (info.toNat % 2 ^ 31)) else .next (s.report f i info.toNat))
  else .next s

/-- ERR_PULSE_END (14 R645): the native pulse ends once its time has come. -/
def execErrPulseEnd (s : State) : Out :=
  match s.fc.pulseEnd with
  | none => .next s
  | some t => if t ≤ s.time then .next ({ s with fc := { s.fc with pulseEnd := none } }).driveErr else .next s

/-- Adds one to a byte of four, saturating at 255. -/
def bumpByte (w k : Nat) : Nat := putBits w (8 * k) 8 (min 255 (bitsOf w (8 * k) 8 + 1))

/-- Raises a recovery counter: patrol scrub or SerDes recalibration (14 R639, R640), in the register and the service record. -/
def State.recover (s : State) (f i : Nat) : State :=
  if f = 0x19 then
    let v := bumpByte (s.get Fld.FC_PATROL_REC_recs (i / 4)) (i % 4)
    let s := s.set Fld.FC_PATROL_REC_recs (i / 4) v
    { s with service := { s.service with patrolRec := Sparse.set 0 s.service.patrolRec (i / 4) v } }
  else if f = 0x28 then
    let v := bumpByte (s.get Fld.FC_SERDES_REC_recs (i / 4)) (i % 4)
    let s := s.set Fld.FC_SERDES_REC_recs (i / 4) v
    { s with service := { s.service with serdesRec := Sparse.set 0 s.service.serdesRec (i / 4) v } }
  else s

/-- The quiet period in µs (14 R674: below 10 ms acts as 10). -/
def State.quietUs (s : State) : Nat := 1000 * max 10 (s.get Fld.FC_CTRL_quiet_ms 0)

/-- QUIET_PERIOD (14 R639, R640): a pending family with clear A, not demoted and without a rail fault (R628), clears after
quiet_ms without a report; the counters of the instances that reported rise, except those of lane retrain. -/
def execQuietPeriod (family : BitVec 8) (s : State) : Out :=
  let f := family.toNat
  if s.flag Fld.FC_SRC_CFG_auto f && s.flag Fld.FC_SRC_STATUS_pending f && !s.flag Fld.FC_SRC_STATUS_demoted f &&
      !s.flag Fld.FC_SRC_STATUS_rail f && decide (Sparse.get 0 s.fc.lastReport f + s.quietUs ≤ s.time) then
    let insts := (s.fc.reporters.filter (fun e => e.1 == f && !s.demotedInst f e.2)).map Prod.snd
    let s := s.set Fld.FC_SRC_STATUS_pending f 0
    let s := { s with fc := { s.fc with reporters := s.fc.reporters.filter (fun e => e.1 != f) } }
    .next (insts.foldl (fun s i => s.recover f i) s).driveErr
  else .next s

/-- A write by partition 0, directly, not in D3hot, or through the monitor (11 R502; 14 R674; 16 R721). -/
def State.fromPf (s : State) (a : Agent) : Bool :=
  match a with
  | .host p => p.val == 0 && !s.agentAsleep a
  | .monitor => true
  | .rim => false
  | .carrier _ => false

/-- An instance a family names is owned by a partition under a lid. -/
def State.lidInstance (s : State) (f i : Nat) : Bool := (s.instanceOwners f i).any (fun p => s.underLid p)

/-- FC_FORCE (14 R642, R644): a write of go makes one forced report. A write from another partition, or naming an instance
a lid partition owns, is ignored. A reserved family has no report to force. -/
def execFcForce (a : Agent) (v : Word32) (s : State) : Out :=
  let f := bitsOf v.toNat 0 8
  let i := bitsOf v.toNat 8 9
  if !s.fromPf a || s.lidInstance f i then .next s
  else
    let s := s.setAll 0 [(Fld.FC_FORCE_family, f), (Fld.FC_FORCE_instance, i)]
    if bitOf v.toNat 17 && families.contains f then .next (s.report f i 0 false true) else .next s

/-- The family whose instance an injection target is: local store, row store, HBM channel, die bridge. -/
def injectFamily (t : Nat) : Nat := if t = 0 then 0x00 else if t = 1 then 0x02 else if t = 2 then 0x1A else 0x11

/-- The write of arm in FC_INJECT (14 R643, R644). While armed a write of arm is ignored; a reserved target is not armed. -/
def execFcInjectArm (a : Agent) (v : Word32) (s : State) : Out :=
  let t := bitsOf v.toNat 0 3
  let i := bitsOf v.toNat 3 9
  if !s.fromPf a || s.lidInstance (injectFamily t) i then .next s
  else if bitOf v.toNat 13 && s.flag Fld.FC_INJECT_armed then .next s
  else
    let s := s.setAll 0 [(Fld.FC_INJECT_target, t), (Fld.FC_INJECT_instance, i), (Fld.FC_INJECT_double, bitsOf v.toNat 12 1)]
    if bitOf v.toNat 13 then .next (s.setAll 0 [(Fld.FC_INJECT_arm, 1), (Fld.FC_INJECT_armed, bit (decide (t ≤ 3)))]) else .next s

/-- Whether the next write to a target carries an injected error: 1 one check bit, 2 two; it clears armed (14 R643). -/
def State.takeInjection (s : State) (target inst : Nat) : Nat × State :=
  if s.flag Fld.FC_INJECT_armed && s.get Fld.FC_INJECT_target 0 == target && s.get Fld.FC_INJECT_instance 0 == inst then
    (if s.flag Fld.FC_INJECT_double then 2 else 1, s.set Fld.FC_INJECT_armed 0 0)
  else (0, s)

/-- A core's site can be reset: the lane is present and the site active (14 R652). -/
def State.resettable (s : State) (core : Nat) : Bool :=
  match s.siteOf core with
  | none => false
  | some site => s.siteState site == 0

/-- Begins an engine reset, remembering the time of a core's (14 R649 steps 1 and 2, R660). -/
def State.beginReset (s : State) (e : Nat) : State :=
  let s := s.fence e
  if e < 256 then { s with fc := { s.fc with resetTimes := s.fc.resetTimes ++ [(e, s.time)] } } else s

/-- A refused engine reset. -/
def State.resetError (s : State) (code : Nat) : State :=
  s.setAll 0 [(Fld.FC_ENGINE_RESET_error, 1), (Fld.FC_ENGINE_RESET_err_code, code)]

/-- The write of go in FC_ENGINE_RESET (14 R648 to R652). -/
def execEngineReset (a : Agent) (v : Word32) (s : State) : Out :=
  if !s.fromPf a then .next s
  else
    let e := bitsOf v.toNat 0 9
    let s := s.writeReg Fld.FC_ENGINE_RESET_engine.reg 0 v.toNat
    if !bitOf v.toNat 16 then .next s
    else if 372 ≤ e then .next (s.resetError 1)
    else if s.fc.fenced.contains e then .next (s.resetError 2)
    else if decide (e < 256) && !s.resettable e then .next (s.resetError 3)
    else .next (s.beginReset e)

/-- The slot of a row in a given state, if there is one: the lowest. -/
def State.rowSlotIn (s : State) (row st : Nat) : Option Nat :=
  (List.range 9).find? (fun k => s.siteState (row * 9 + k) == st)

/-- Sets the state of a site. -/
def State.setSite (s : State) (site st : Nat) : State :=
  s.set Fld.RWS_SITE_STATE_slots (site / 9) (putBits (s.get Fld.RWS_SITE_STATE_slots (site / 9)) (2 * (site % 9)) 2 st)

/-- The weaver re-plaits every basket that uses a core without it: its slots leave at their contexts' kernel boundaries (04
Table 2 step 2; 14 R661). -/
def State.leaveCore (s : State) (core : Nat) : State :=
  let cs := (s.coreSlots core).map (fun e => Change.slotRemove (s.get Fld.WVR_CTX_STATE_basket_index e.2.ctx) core e.2.ctx)
  { s with plait := { s.plait with changes := s.plait.changes ++ cs } }

/-- The row's spare slot, if it has one, is to be tested for a lane that no context uses: a wake token is requested for it, by the number
of the lane's core, and it goes to Test (04 Table 2 step 3). -/
def State.testSpare (s : State) (row core : Nat) : State :=
  match s.rowSlotIn row 1 with
  | none => s
  | some k => (s.requestWake core).setSite (row * 9 + k) 3

/-- The sparing sequence of a lane begins: its contexts leave, and once none is left the row's spare slot is tested (04 Table 2 steps 2
and 3). -/
def State.spareLane (s : State) (core : Nat) : State :=
  if (s.coreSlots core).isEmpty then s.testSpare (core / 8) core else s.leaveCore core

/-- A site is marked for replacement, and the sparing sequence of its lane begins (04 Table 2 step 1; 14 R660). -/
def State.markSite (s : State) (site : Nat) : State :=
  if s.fc.marked.contains site then s
  else
    let s := { s with fc := { s.fc with marked := s.fc.marked ++ [site] } }
    match s.coreOfSite site with
    | some c => s.spareLane c
    | none => s

/-- The write of restart in FC_RIM_RESTART (14 R657): only from partition 0; one in progress is not started again. The plait
load of R659 ends when the boot ROM is entered. -/
def execRimRestart (a : Agent) (v : Word32) (s : State) : Out :=
  if !s.fromPf a then .next s
  else
    let s := s.writeReg Fld.FC_RIM_RESTART_restart.reg 0 v.toNat
    if bitOf v.toNat 0 && !s.run.restartDue && s.run.phase == .running then .next s.startRimRestart else .next s

/-- RIM_HEARTBEAT (14 R656): rim firmware, while it runs, advances the heartbeat. -/
def execRimHeartbeat (s : State) : Out :=
  if s.run.phase == .running && !s.run.restartDue then .next (s.bump Fld.FC_RIM_HEARTBEAT_count 0) else .next s

/-- PATROL_SCRUB (14 R669, R670): a corrected line is written back with its sidecar and reported; an uncorrectable one is
handled as any. -/
def execPatrolScrub (ch : Fin 256) (off : BitVec 31) (ecc : EccResult) (s : State) : Out :=
  match ecc with
  | .clean => .next s
  | .corrected => .next ((s.markHbm ((2 ^ 40 * ch.val + off.toNat) / 64) 0).hbmCorrected 0x19 ch.val off.toNat)
  | .uncorrectable => .next (s.hbmUncorrectable ch.val off.toNat)

/-- HBM_PHY_RECAL (14 R669): its channels accept no request for at most 200 ns, which is timing alone. -/
def execHbmPhyRecal (_stack : Fin 8) (s : State) : Out := .next s

/-- A corrected word of a local store or row store (04 R141). -/
def State.sramCorrected (s : State) (u : SramUnit) : State :=
  match u with
  | .localStore site =>
    let s := s.count Fld.LS_ECC_STATUS_corr_count site.val Fld.LS_ECC_STATUS_corr_wrap site.val 0
    s.report 0x01 ((s.coreOfSite site.val).getD 0) 0
  | .rowStore row =>
    (s.count Fld.RWS_ECC_STATUS_corr_count row.val Fld.RWS_ECC_STATUS_corr_wrap row.val 0).report 0x03 row.val 0

/-- An uncorrectable error of a local-store or row-store line is shown and told (04 R141; 14 R632). -/
def State.sramUncorrectable (s : State) (u : SramUnit) (line : Nat) : State :=
  match u with
  | .localStore site =>
    (s.setAll site.val [(Fld.LS_ECC_STATUS_uncorr, 1), (Fld.LS_UNCORR_ADDR_line, line)]).report 0x00 ((s.coreOfSite site.val).getD 0) line
  | .rowStore row =>
    (s.setAll row.val [(Fld.RWS_ECC_STATUS_uncorr, 1), (Fld.RWS_UNCORR_ADDR_line, line)]).report 0x02 row.val line

/-- The word of a line that an uncorrectable error a scrub found lies in: the row gives the line alone, so one is drawn, unless
the line has a marked word already (log entry 164). -/
def markLineWord (m : List (Nat × Nat)) (first free : Nat) : List (Nat × Nat) :=
  if m.any (fun e => e.2 == 2 && e.1 / 64 == first / 64) then m else Sparse.set 0 m (first + free % 64) 2

/-- An uncorrectable error that a scrub has found stays in its word (04 R141). -/
def State.markSram (s : State) (u : SramUnit) (line : Nat) : State :=
  match u with
  | .localStore site => { s.drawn with lsPoison := markLineWord s.lsPoison (site.val * 2 ^ 18 + line % 4096 * 64) s.freeValue }
  | .rowStore row => { s.drawn with rsPoison := markLineWord s.rsPoison (row.val * 2 ^ 19 + line % 8192 * 64) s.freeValue }

/-- The read of a line by the hourly scrub is an array access of a row store (04 R181). -/
def State.scrubRead (s : State) (u : SramUnit) : State :=
  match u with
  | .localStore _ => s
  | .rowStore row => s.count Fld.RWS_ACCESS_COUNT_count row Fld.RWS_COUNT_STATUS_access_wrap row 0

/-- SRAM_SCRUB (14 R669; 04 R141): the hourly read of a line. -/
def execSramScrub (unit : SramUnit) (line : Fin 8192) (ecc : EccResult) (s : State) : Out :=
  let s := s.scrubRead unit
  match ecc with
  | .clean => .next s
  | .corrected => .next (s.sramCorrected unit)
  | .uncorrectable => .next ((s.markSram unit line.val).sramUncorrectable unit line.val)

/-- The half of a row, die · 2 + (1 for rows 8 to 15). -/
def rowHalf (row : Nat) : Nat := row / 16 * 2 + row % 16 / 8

/-- The exchange of an active site for its row's spare begins: the row has a slot in the Spare state, the site is active,
and no other row of the half rotates (14 R672). -/
def State.beginRotation (s : State) (row slot : Nat) : State :=
  if s.siteState (row * 9 + slot) != 0 || s.fc.rotating.any (fun e => rowHalf e.1 == rowHalf row) then s
  else match s.rowSlotIn row 1 with
    | none => s
    | some _ =>
      match s.coreOfSite (row * 9 + slot) with
      | some c => ({ s with fc := { s.fc with rotating := s.fc.rotating ++ [(row, slot)] } }).spareLane c
      | none => s

/-- AGING_CHECK (14 R671, R672): a fall of aging_pct percent or more is reported and starts the exchange at once. -/
def execAgingCheck (site : Fin 288) (fallPct : Nat) (s : State) : Out :=
  if max 1 (s.get Fld.FC_WEAR_CFG_aging_pct 0) ≤ fallPct then
    match s.coreOfSite site.val with
    | none => .next s
    | some c => .next ((s.report 0x0B c 0).beginRotation (site.val / 9) (site.val % 9))
  else .next s

/-- CORE_ROTATION (14 R672): every rotate_days days, with 0 disabling it, a row exchanges its most-aged active site. -/
def execCoreRotation (row : Fin 32) (slot : Fin 9) (s : State) : Out :=
  if s.get Fld.FC_WEAR_CFG_rotate_days 0 = 0 then .next s else .next (s.beginRotation row.val slot.val)

/-- TELEMETRY_SAMPLE (14 R669; 09 Table 8): reads of master 294; they change nothing the spec names. -/
def execTelemetrySample (s : State) : Out := .next s

/-- The read of a low word latches its high word (04 R180; 08 R363, R388). -/
def execReadLoLatchesHi (a : Agent) (off : BitVec 26) (s : State) : Out :=
  match s.target a off.toNat with
  | none => .next s
  | some (r, i) =>
    match latchPairs.find? (fun e => e.1.reg == r) with
    | none => .next s
    | some (lo, hi) => .next { s with latched := Sparse.set 0 s.latched (lo.key i) (s.get hi i + 1) }

end Sys2Proof.Machine
end

