-- ==== Sys2Proof/Machine/Sha512.lean ====
section
/-! DEFINITION. SHA-512 (FIPS 180-4), HMAC-SHA-512 (RFC 2104) and HKDF-SHA-512 (RFC 5869), the digests the spec names
(PRESUMED from those standards, log entry 40). -/

namespace Sys2Proof.Machine

def sha512K0 : Nat :=
  0x12835b0145706fbed807aa98a3030242ab1c5ed5da6d8118923f82a4af194f9b59f111f1b605d0193956c25bf348b538e9b5dba58189dbbcb5c0fbcfec4d3b2f7137449123ef65cd428a2f98d728ae22

def sha512K1 : Nat :=
  0x240ca1cc77ac9c650fc19dc68b8cd5b5efbe4786384f25e3e49b69c19ef14ad2c19bf174cf6926949bdc06a725c7123580deb1fe3b1696b172be5d74f27b896f550c7dc3d5ffb4e2243185be4ee4b28c

def sha512K2 : Nat :=
  0xd5a79147930aa725c6e00bf33da88fc2bf597fc7beef0ee4b00327c898fb213fa831c66d2db43210983e5152ee66dfab76f988da831153b55cb0a9dcbd41fbd44a7484aa6ea6e4832de92c6f592b0275

def sha512K3 : Nat :=
  0x92722c851482353b81c2c92e47edaee6766a0abb3c77b2a8650a73548baf63de53380d139d95b3df4d2c6dfc5ac42aed2e1b21385c26c92627b70a8546d22ffc142929670a0e6e7006ca6351e003826f

def sha512K4 : Nat :=
  0x1e376c085141ab5319a4c116b8d2d0c8106aa07032bbd1b8f40e35855771202ad69906245565a910d192e819d6ef5218c76c51a30654be30c24b8b70d0f89791a81a664bbc423001a2bfe8a14cf10364

def sha512K5 : Nat :=
  0x8cc702081a6439ec84c87814a1f0ab7278a5636f43172f60748f82ee5defb2fc682e6ff3d6b2b8a35b9cca4f7763e3734ed8aa4ae3418acb391c0cb3c5c95a6334b0bcb5e19b48a82748774cdf8eeb99

def sha512K6 : Nat :=
  0xa637dc5a2c898a606f067aa72176fbaf57d4f7fee6ed178eada7dd6cde0eb1ed186b8c721c0c207ca273eceea26619cc67178f2e372532bbef9a3f7b2c67915a4506cebde82bde990befffa23631e28

def sha512K7 : Nat :=
  0x6c44198c4a4758175fcb6fab3ad6faec597f299cfc657e2a4cc5d4becb3e42b6431d67c49c100d4c3c9ebe0a15c9bebc32caab7b40c7249328db77f523047d841b710b35131c471b113f9804bef90dae

/-- The round constants of FIPS 180-4, 64 bits each: the fractions of the cube roots of the first 80 primes. -/
def sha512K : Nat :=
  sha512K0 * 2 ^ 0 +
  sha512K1 * 2 ^ 640 +
  sha512K2 * 2 ^ 1280 +
  sha512K3 * 2 ^ 1920 +
  sha512K4 * 2 ^ 2560 +
  sha512K5 * 2 ^ 3200 +
  sha512K6 * 2 ^ 3840 +
  sha512K7 * 2 ^ 4480

def sha512H0 : Nat :=
  0x5be0cd19137e21791f83d9abfb41bd6b9b05688c2b3e6c1f510e527fade682d1a54ff53a5f1d36f13c6ef372fe94f82bbb67ae8584caa73b6a09e667f3bcc908

/-- The initial hash value of FIPS 180-4: the fractions of the square roots of the first 8 primes. -/
def sha512H : Nat :=
  sha512H0 * 2 ^ 0

/-- Word `i` of a table of 64-bit words. -/
def word64 (t i : Nat) : BitVec 64 := BitVec.ofNat 64 (t / 2 ^ (64 * i))

def shaBig0 (x : BitVec 64) : BitVec 64 := x.rotateRight 28 ^^^ x.rotateRight 34 ^^^ x.rotateRight 39

def shaBig1 (x : BitVec 64) : BitVec 64 := x.rotateRight 14 ^^^ x.rotateRight 18 ^^^ x.rotateRight 41

def shaSmall0 (x : BitVec 64) : BitVec 64 := x.rotateRight 1 ^^^ x.rotateRight 8 ^^^ x >>> 7

def shaSmall1 (x : BitVec 64) : BitVec 64 := x.rotateRight 19 ^^^ x.rotateRight 61 ^^^ x >>> 6

/-- The eight working words. -/
structure ShaWords where
  a : BitVec 64
  b : BitVec 64
  c : BitVec 64
  d : BitVec 64
  e : BitVec 64
  f : BitVec 64
  g : BitVec 64
  h : BitVec 64
  deriving DecidableEq, Repr

/-- One round with message word `w` and constant `k`. -/
def ShaWords.round (v : ShaWords) (k w : BitVec 64) : ShaWords :=
  let t1 := v.h + shaBig1 v.e + (v.e &&& v.f ^^^ ~~~v.e &&& v.g) + k + w
  let t2 := shaBig0 v.a + (v.a &&& v.b ^^^ v.a &&& v.c ^^^ v.b &&& v.c)
  ⟨t1 + t2, v.a, v.b, v.c, v.d + t1, v.e, v.f, v.g⟩

/-- `n` rounds from round `i`; `w` holds the next 16 words of the message schedule. -/
def shaRounds : Nat → Nat → List (BitVec 64) → ShaWords → ShaWords
  | 0, _, _, v => v
  | n + 1, i, w, v =>
    let w0 := w.headD 0
    let next := shaSmall1 (w.getD 14 0) + w.getD 9 0 + shaSmall0 (w.getD 1 0) + w0
    shaRounds n (i + 1) (w.tail ++ [next]) (v.round (word64 sha512K i) w0)

def ShaWords.add (v u : ShaWords) : ShaWords :=
  ⟨v.a + u.a, v.b + u.b, v.c + u.c, v.d + u.d, v.e + u.e, v.f + u.f, v.g + u.g, v.h + u.h⟩

/-- The next `n` words of 8 bytes, most significant byte first. -/
def beWords : Nat → List Byte → List (BitVec 64)
  | 0, _ => []
  | n + 1, bs => BitVec.ofNat 64 (beNat (bs.take 8)) :: beWords n (bs.drop 8)

/-- The `n` blocks of 128 bytes of a padded message, as words. -/
def shaMessage : Nat → List Byte → List (List (BitVec 64))
  | 0, _ => []
  | n + 1, bs => beWords 16 bs :: shaMessage n (bs.drop 128)

/-- Hashes one block. -/
def ShaWords.block (v : ShaWords) (w : List (BitVec 64)) : ShaWords := v.add (shaRounds 80 0 w v)

/-- The initial hash value, as words. -/
def shaStart : ShaWords :=
  ⟨word64 sha512H 0, word64 sha512H 1, word64 sha512H 2, word64 sha512H 3, word64 sha512H 4, word64 sha512H 5, word64 sha512H 6, word64 sha512H 7⟩

/-- A message padded to whole blocks, as words (FIPS 180-4). -/
def shaPadded (m : List Byte) : List (List (BitVec 64)) :=
  let p := m ++ 0x80 :: List.replicate ((239 - m.length % 128) % 128) 0 ++ beBytes 16 (8 * m.length)
  shaMessage (p.length / 128) p

/-- SHA-512. -/
def sha512 (m : List Byte) : List Byte :=
  let v := (shaPadded m).foldl ShaWords.block shaStart
  [v.a, v.b, v.c, v.d, v.e, v.f, v.g, v.h].flatMap (fun x => beBytes 8 x.toNat)

/-- The digest as the number its bytes spell, first byte most significant. -/
def sha512Nat (m : List Byte) : BitVec 512 := BitVec.ofNat 512 (beNat (sha512 m))

/-- A 512-bit value as its 64 bytes, most significant first. -/
def bytes512 (v : BitVec 512) : List Byte := beBytes 64 v.toNat

/-- HMAC-SHA-512. -/
def hmac512 (key m : List Byte) : List Byte :=
  let k := if key.length ≤ 128 then key else sha512 key
  let k := k ++ List.replicate (128 - k.length) 0
  sha512 (k.map (· ^^^ 0x5C) ++ sha512 (k.map (· ^^^ 0x36) ++ m))

/-- The blocks T(i), ..., of HKDF's expansion, `n` of them. -/
def hkdfBlocks (prk info : List Byte) : Nat → Nat → List Byte → List Byte
  | 0, _, _ => []
  | n + 1, i, t =>
    let t' := hmac512 prk (t ++ info ++ [BitVec.ofNat 8 i])
    t' ++ hkdfBlocks prk info n (i + 1) t'

/-- `n` bytes of HKDF-SHA-512. -/
def hkdf512 (salt ikm info : List Byte) (n : Nat) : List Byte :=
  (hkdfBlocks (hmac512 salt ikm) info ((n + 63) / 64) 1 []).take n

/-- The bytes of an ASCII string. -/
def ascii (t : String) : List Byte := t.toList.map (fun c => BitVec.ofNat 8 c.toNat)

end Sys2Proof.Machine
end

