-- ==== Sys2Proof/Machine/Keys.lean ====
section
/-! DEFINITION. Key slots and the owner (12 R531, R542 to R554). -/

namespace Sys2Proof.Machine

/-- A key slot's stored cell. -/
def State.cell (s : State) (k : Nat) : KeyCell := Sparse.get KeyCell.empty s.keys k

/-- Replaces a cell. -/
def State.setCell (s : State) (k : Nat) (c : KeyCell) : State := { s with keys := Sparse.set KeyCell.empty s.keys k c }

/-- The key a slot holds. -/
def State.keyOf (s : State) (k : Nat) : BitVec 768 := (s.cell k).stored ^^^ (s.cell k).mask

/-- A key's first `n` bytes; its bytes are the number's, most significant first. -/
def keyBytes (key : BitVec 768) (n : Nat) : List Byte := (beBytes 96 key.toNat).take n

/-- The key `bs` spells, zeros after it. -/
def keyFrom (bs : List Byte) : BitVec 768 := BitVec.ofNat 768 (beNat (bs ++ List.replicate (96 - bs.length) 0))

/-- A draw of 768 bits. -/
def State.draw768 (s : State) : BitVec 768 × State :=
  (s.randomValue ++ s.drawn.randomValue.setWidth 256, s.drawn.drawn)

/-- Slot states (12 R589). -/
def State.slotEmpty (s : State) (k : Nat) : Bool := s.get Fld.KS_ATTR_state k == 0

def State.slotActive (s : State) (k : Nat) : Bool := s.get Fld.KS_ATTR_state k == 1

/-- A memory key, when the slot holds one that is not empty. -/
def State.memoryKey (s : State) (k : Nat) : Option (BitVec 768) :=
  if s.get Fld.KS_ATTR_class k = 1 ∧ s.get Fld.KS_ATTR_state k ≠ 0 then some (s.keyOf k) else none

/-- Uses that are not counted (12 R547). -/
def useUncounted : Nat := 0xFFFFFF

/-- Loads an EMPTY slot: it becomes ACTIVE and holds the key under the mask in force (12 R549, R550). -/
def State.loadKey (s : State) (k cls : Nat) (key : BitVec 768) (expire lid : Bool) (use : Nat) : State :=
  let s := s.setCell k { stored := key ^^^ s.keyMask, mask := s.keyMask, bundle := none }
  let s := s.setAll k [(Fld.KS_ATTR_class, cls), (Fld.KS_ATTR_state, 1), (Fld.KS_ATTR_expire_reset, bit expire),
    (Fld.KS_ATTR_lid, bit lid)]
  s.set Fld.KS_USE_use_left k use

/-- The copy of an epoch in LID_PART of the partition whose memory slot this is (12 R589). -/
def State.showEpoch (s : State) (k : Nat) : State :=
  s.partitions.foldl (fun s p =>
    if s.get Fld.LID_PART_mem_slot p = k then s.set Fld.LID_PART_epoch p (s.get Fld.KS_ATTR_epoch k) else s) s

/-- Sets a slot's epoch. -/
def State.setEpoch (s : State) (k e : Nat) : State := (s.set Fld.KS_ATTR_epoch k e).showEpoch k

/-- Revocation: REVOKING, with the epoch advanced by one modulo 256 (12 R549). -/
def State.revokeSlot (s : State) (k : Nat) : State :=
  (s.set Fld.KS_ATTR_state k 2).setEpoch k (s.get Fld.KS_ATTR_epoch k + 1)

/-- Zeroization: contents and mask overwritten, class Empty, the epoch kept (12 R551). -/
def State.zeroSlot (s : State) (k : Nat) : State :=
  let s := s.setCell k KeyCell.empty
  (s.setAll k [(Fld.KS_ATTR_class, 0), (Fld.KS_ATTR_state, 0), (Fld.KS_ATTR_expire_reset, 0), (Fld.KS_ATTR_lid, 0)]).set
    Fld.KS_USE_use_left k 0

/-- A new mask is drawn, and every key that a slot holds is encoded again (12 R550; 16 R706 stage 0). -/
def State.remask (s : State) : State :=
  let (m, s) := s.draw768
  let s := { s with keyMask := m }
  (s.keys.map Prod.fst).foldl (fun s k => s.setCell k { s.cell k with stored := s.keyOf k ^^^ m, mask := m }) s

/-- The first slot of a partition's range. -/
def State.memSlot (s : State) (p : Nat) : Nat := s.get Fld.HI_KEYSLOT_first p

/-- The slots of a partition's range. -/
def State.keyRange (s : State) (p : Nat) : List Nat :=
  (List.range (s.get Fld.HI_KEYSLOT_count p)).map (fun k => s.memSlot p + k)

/-- A partition holds a basket piece. -/
def State.holdsPiece (s : State) (p : Nat) : Bool := (List.range 64).any (fun b => s.basketOwner b == some p)

/-- The partition whose range a slot is the first of, when the PF may manage that slot: lid bit 0 and no piece (R553). -/
def State.pfSlotOwner (s : State) (k : Nat) : Option Nat :=
  s.partitions.find? (fun p => decide (0 < s.get Fld.HI_KEYSLOT_count p) && s.memSlot p == k && !s.underLid p && !s.holdsPiece p)

/-- The bytes of consecutive 32-bit words held in copies of a field, low byte first. -/
def State.wordBytes (s : State) (f : Field) (n : Nat) : List Byte := (List.range n).flatMap (fun i => leBytes 4 (s.get f i))

/-- Clears the words of KS_LOAD_DATA. -/
def State.clearLoadData (s : State) : State := (List.range 24).foldl (fun s i => s.set Fld.KS_LOAD_DATA_data i 0) s

/-- A refused load. -/
def State.loadError (s : State) (code : Nat) : State := s.setAll 0 [(Fld.KS_LOAD_CMD_error, 1), (Fld.KS_LOAD_CMD_err_code, code)]

/-- The write of go in KS_LOAD_CMD (12 R549, R553, R554): a reserved class or field, a rim slot, a load that is not the
PF driver's to make, a slot that is not EMPTY; otherwise the memory key is loaded. The data words are cleared. -/
def execKsLoad (a : Agent) (v : Word32) (s : State) : Out :=
  if !s.fromPf a then .next s
  else
    let s := s.writeReg Fld.KS_LOAD_CMD_slot.reg 0 v.toNat
    if !bitOf v.toNat 16 then .next s
    else
      let key := keyFrom (s.wordBytes Fld.KS_LOAD_DATA_data 24)
      let s := s.clearLoadData
      let k := bitsOf v.toNat 0 8
      let cls := bitsOf v.toNat 8 3
      if cls = 0 ∨ 6 ≤ cls ∨ bitsOf v.toNat 12 4 ≠ 0 ∨ bitsOf v.toNat 23 9 ≠ 0 then .next (s.loadError 3)
      else if k < 33 then .next (s.loadError 4)
      else if cls ≠ 1 ∨ s.get Fld.KS_LOAD_USE_use_left 0 ≠ useUncounted ∨ (s.pfSlotOwner k).isNone then .next (s.loadError 1)
      else if !s.slotEmpty k then .next (s.loadError 2)
      else .next ((s.loadKey k 1 key (bitOf v.toNat 11) false useUncounted).set Fld.KS_LOAD_CMD_done 0 1)

/-- The write of go in KS_ZERO (12 R551, R553). -/
def execKsZero (a : Agent) (v : Word32) (s : State) : Out :=
  if !s.fromPf a then .next s
  else
    let s := s.writeReg Fld.KS_ZERO_slot.reg 0 v.toNat
    let k := bitsOf v.toNat 0 8
    if !bitOf v.toNat 8 then .next s
    else if (s.pfSlotOwner k).isNone then .next (s.set Fld.KS_ZERO_error 0 1)
    else .next ((s.zeroSlot k).set Fld.KS_ZERO_done 0 1)

/-! ## The fuses (12 R531) -/

/-- Two bits of a value change places. -/
def swapBits (v : BitVec 512) (e : Fin 512 × Fin 512) : BitVec 512 :=
  if v.getLsbD e.1 = v.getLsbD e.2 then v else v ^^^ (BitVec.twoPow 512 e.1 ^^^ BitVec.twoPow 512 e.2)

/-- The cells of entry `n` that hold a value: scrambled by the die's permutation, then masked. -/
def fuseCells (n : Nat) (v : BitVec 512) : BitVec 512 := Config.fuseSwaps.foldl swapBits v ^^^ Config.fuseMask n

/-- The value that the cells of entry `n` hold; only boot-ROM code reads it. -/
def fuseValue (n : Nat) (cells : BitVec 512) : BitVec 512 :=
  Config.fuseSwaps.reverse.foldl swapBits (cells ^^^ Config.fuseMask n)

/-- The unique device secret. -/
def uds : BitVec 512 := fuseValue 4 Config.udsCells

/-- The identity key seed. -/
def idSeed : BitVec 512 := fuseValue 5 Config.seedCells

/-! ## The owner (12 R543 to R546) -/

/-- The active owner entry: programmed and not retired; 4 when there is none. -/
def Fuses.active (f : Fuses) : Nat :=
  ((List.range 4).find? (fun i => match f.owner[i]? with
    | some e => e.programmed && !e.retired
    | none => false)).getD 4

/-- The secret of the active entry, which boot-ROM code reads; none when there is no active entry. -/
def Fuses.secret (f : Fuses) : Option (List Byte) := f.owner[f.active]?.map (fun e => bytes512 (fuseValue f.active e.cells))

/-- The secret as rim firmware has it: the copy in slot 0; none while that slot is EMPTY (R531; log entry 206). -/
def State.ownerKey (s : State) : Option (List Byte) := if s.slotEmpty 0 then none else some (keyBytes (s.keyOf 0) 64)

/-- Shows the fuses in LID_STATUS and LID_SVN. -/
def State.showFuses (s : State) : State :=
  s.setAll 0 [(Fld.LID_STATUS_owner_set, bit (decide (s.fuses.active < 4))), (Fld.LID_STATUS_owner_entry, s.fuses.active),
    (Fld.LID_SVN_fused_svn, s.fuses.svn)]

/-- Slot 0's uses, shown as tries. -/
def State.setTries (s : State) (n : Nat) : State := (s.set Fld.KS_USE_use_left 0 n).set Fld.LID_OWNER_CMD_tries 0 n

/-- Copies the active owner entry into slot 0 (12, The owner); its use counter is left as it stands (R545). -/
def State.loadOwner (s : State) : State :=
  match s.fuses.secret with
  | some k => s.loadKey 0 5 (keyFrom k) false false (s.get Fld.KS_USE_use_left 0)
  | none => s

/-- The write of challenge in LID_OWNER_CMD (12 R543, R544): a nonce is drawn, and an earlier one ceases to be valid. -/
def execOwnerChallenge (a : Agent) (v : Word32) (s : State) : Out :=
  if !s.fromPf a then .next s
  else
    let s := s.writeReg Fld.LID_OWNER_CMD_op.reg 0 v.toNat
    if !bitOf v.toNat 8 then .next s
    else
      let n := bytes512 s.randomValue
      let s := { s.drawn with nonceTime := s.time }
      let s := (List.range 16).foldl (fun s i => s.set Fld.LID_OWNER_NONCE_nonce i (leNat ((n.drop (4 * i)).take 4))) s
      .next (s.set Fld.LID_OWNER_CMD_nonce_valid 0 1)

/-- The nonce is spent or has expired. -/
def State.dropNonce (s : State) : State := s.set Fld.LID_OWNER_CMD_nonce_valid 0 0

/-- NONCE_EXPIRE (12 R544): 10 s after it was drawn. -/
def execNonceExpire (s : State) : Out :=
  if s.flag Fld.LID_OWNER_CMD_nonce_valid && decide (s.nonceTime + 10000000 ≤ s.time) then .next s.dropNonce else .next s

/-- The operand of an owner operation. -/
def State.ownerArg (s : State) : Nat := s.get64 Fld.LID_OWNER_ARG_LO_arg_lo Fld.LID_OWNER_ARG_HI_arg_hi 0

/-- The response an operation needs, under a secret (12 R543). -/
def State.ownerResponse (s : State) (key : List Byte) (op : Nat) : List Byte :=
  hmac512 key (s.wordBytes Fld.LID_OWNER_NONCE_nonce 16 ++ [BitVec.ofNat 8 op] ++ leBytes 8 s.ownerArg ++
    leBytes 8 Config.serial.toNat)

/-- The nonce is valid now. -/
def State.nonceValid (s : State) : Bool :=
  s.flag Fld.LID_OWNER_CMD_nonce_valid && decide (s.time < s.nonceTime + 10000000)

/-- LID_OWNER_DATA holds the response to the nonce, which is valid; with no owner there is none. -/
def State.ownerAnswers (s : State) (op : Nat) : Bool :=
  match s.ownerKey with
  | some k => s.nonceValid && s.wordBytes Fld.LID_OWNER_DATA_data 16 == s.ownerResponse k op
  | none => false

/-- An owner operation is refused. -/
def State.ownerError (s : State) : State := s.set Fld.LID_OWNER_CMD_error 0 1

/-- An owner operation has been performed. -/
def State.ownerDone (s : State) : State := s.set Fld.LID_OWNER_CMD_done 0 1

/-- A wrong response, or no valid nonce: one try fewer; at zero the owner is locked (12 R545). -/
def State.ownerFail (s : State) : State :=
  let n := s.get Fld.KS_USE_use_left 0 - 1
  let s := (s.setTries n).ownerError
  if n = 0 then s.set Fld.LID_STATUS_owner_locked 0 1 else s

/-- A go of an operation that needs a challenge: refused while locked, failed without a right response, else performed by `f`, which
refuses by answering none (12 R544 to R546). -/
def State.ownerOp (s : State) (a : Agent) (v op : Nat) (f : State → Option State) : State :=
  if !s.fromPf a || bitsOf v 0 4 != op then s
  else
    let s := s.writeReg Fld.LID_OWNER_CMD_op.reg 0 v
    if !bitOf v 9 then s
    else if s.flag Fld.LID_STATUS_owner_locked then s.dropNonce.ownerError
    else if !s.ownerAnswers op then s.dropNonce.ownerFail
    else
      let s := s.dropNonce.setTries 8
      match f s with
      | none => s.ownerError
      | some s => s.ownerDone

/-- Confidential mode (12 R587). -/
def State.confMode (s : State) : Bool := s.flag Fld.LID_STATUS_conf_mode

/-- The write of go with op PROGRAM (12 R546): no challenge; into the lowest entry neither programmed nor retired, while
none is active and conf_mode is 0. -/
def execOwnerProgram (a : Agent) (v : Word32) (s : State) : Out :=
  if !s.fromPf a || bitsOf v.toNat 0 4 != 0 then .next s
  else
    let s := s.writeReg Fld.LID_OWNER_CMD_op.reg 0 v.toNat
    if !bitOf v.toNat 9 then .next s
    else if s.flag Fld.LID_STATUS_owner_locked || decide (s.fuses.active < 4) || s.confMode then .next s.ownerError
    else
      match (List.range 4).find? (fun i => match s.fuses.owner[i]? with
        | some e => !e.programmed && !e.retired
        | none => false) with
      | none => .next s.ownerError
      | some i =>
        let key := BitVec.ofNat 512 (beNat (s.wordBytes Fld.LID_OWNER_DATA_data 16))
        let e : OwnerEntry := { cells := fuseCells i key, programmed := true, retired := false }
        .next ({ s with fuses := { s.fuses with owner := s.fuses.owner.set i e } }.showFuses).ownerDone

/-- The write of go with op MONITOR_UNLOCK (12 R546). -/
def execMonitorUnlock (a : Agent) (v : Word32) (s : State) : Out :=
  .next (s.ownerOp a v.toNat 1 (fun s =>
    if s.confMode then none else some { s with run := { s.run with monitorUnlocked := true } }))

/-- The write of go with op SVN_ADVANCE (12 R546): refused if arg exceeds the running firmware's svn; it never goes down. -/
def execSvnAdvance (a : Agent) (v : Word32) (s : State) : Out :=
  .next (s.ownerOp a v.toNat 2 (fun s =>
    if s.ident.image.svn < s.ownerArg ∨ 64 < s.ownerArg then none
    else some ({ s with fuses := { s.fuses with svn := max s.fuses.svn s.ownerArg } }.showFuses)))

/-- The write of go with op OWNER_RELEASE (12 R546): the active entry is retired and slot 0 emptied; its counter, which the right
response restored, stays (R545; log entry 140). -/
def execOwnerRelease (a : Agent) (v : Word32) (s : State) : Out :=
  .next (s.ownerOp a v.toNat 3 (fun s =>
    if s.confMode then none
    else
      let e := (s.fuses.owner[s.fuses.active]?).getD { cells := 0, programmed := true, retired := false }
      some ({ ((s.zeroSlot 0).setTries 8) with fuses := { s.fuses with
        owner := s.fuses.owner.set s.fuses.active { e with retired := true } } }.showFuses)))

end Sys2Proof.Machine
end

