-- ==== Sys2Proof/Machine/P521.lean ====
section
/-! DEFINITION. The curve P-521, ECDH and ECDSA over it (FIPS 186-5, SEC 1) (PRESUMED from those standards, log entry 40).
A point is its affine coordinates; `none` is the point at infinity. -/

namespace Sys2Proof.Machine

/-- The field of P-521. -/
def p521P : Nat := 2 ^ 521 - 1

/-- Its order. -/
def p521N : Nat := 0x1fffffffffffffffffffffffffffffffffffffffffffffffffffffffffffffffffa51868783bf2f966b7fcc0148f709a5d03bb5c9b8899c47aebb6fb71e91386409

/-- Its coefficient b. -/
def p521B : Nat := 0x51953eb9618e1c9a1f929a21a0b68540eea2da725b99b315f3b8b489918ef109e156193951ec7e937b1652c0bd3bb1bf073573df883d2c34f1ef451fd46b503f00

/-- The coordinates of its base point. -/
def p521Gx : Nat := 0xc6858e06b70404e9cd9e3ecb662395b4429c648139053fb521f828af606b4d3dbaa14b5e77efe75928fe1dc127a2ffa8de3348b3c1856a429bf97e7e31c2e5bd66

def p521Gy : Nat := 0x11839296a789a3bc0045c8a5fb42c7d1bd998f54449579b446817afbd17273e662c97ee72995ef42640c550b9013fad0761353c7086a272c24088be94769fd16650

/-- `b ^ e` modulo `m`, over the low `n` bits of `e`. -/
def powMod (m : Nat) : Nat → Nat → Nat → Nat
  | 0, _, _ => 1 % m
  | n + 1, b, e => (if e % 2 = 1 then b else 1) * powMod m n (b * b % m) (e / 2) % m

/-- The inverse modulo a prime. -/
def invMod (m a : Nat) : Nat := powMod m 521 (a % m) (m - 2)

/-- A point of the curve. -/
abbrev Point := Option (Nat × Nat)

/-- The sum of two points. -/
def Point.add : Point → Point → Point
  | none, q => q
  | p, none => p
  | some (x1, y1), some (x2, y2) =>
    let p := p521P
    if x1 = x2 then
      if (y1 + y2) % p = 0 then none
      else
        let l := (3 * x1 * x1 + (p - 3)) * invMod p (2 * y1) % p
        let x3 := (l * l + 2 * p - x1 - x2) % p
        some (x3, (l * (x1 + p - x3) + p - y1) % p)
    else
      let l := (y2 + p - y1) * invMod p (x2 + p - x1) % p
      let x3 := (l * l + 2 * p - x1 - x2) % p
      some (x3, (l * (x1 + p - x3) + p - y1) % p)

/-- `k` times a point, over the low `n` bits of `k`. -/
def Point.mul : Nat → Nat → Point → Point
  | 0, _, _ => none
  | n + 1, k, q => Point.add (if k % 2 = 1 then q else none) (Point.mul n (k / 2) (Point.add q q))

/-- The base point. -/
def p521G : Point := some (p521Gx, p521Gy)

/-- A pair of numbers below the field's size that satisfies the curve's equation. -/
def onCurve (x y : Nat) : Bool :=
  decide (x < p521P) && decide (y < p521P) && y * y % p521P == (x * x * x + (p521P - 3) * x + p521B) % p521P

/-- An uncompressed public key: the byte 4 and both coordinates, 66 bytes each (SEC 1). -/
def pointBytes : Point → List Byte
  | none => [0]
  | some (x, y) => 4 :: beBytes 66 x ++ beBytes 66 y

/-- The point an uncompressed key spells, when it is on the curve. -/
def pointOf (bs : List Byte) : Point :=
  let x := beNat ((bs.drop 1).take 66)
  let y := beNat ((bs.drop 67).take 66)
  if bs.length = 133 ∧ bs.headD 0 = 4 ∧ onCurve x y then some (x, y) else none

/-- The first 512 bits of a digest are shorter than the order, so the whole digest is the number signed. -/
def ecdsaVerify (key : Point) (digest : List Byte) (sig : List Byte) : Bool :=
  let r := beNat (sig.take 66)
  let t := beNat ((sig.drop 66).take 66)
  let n := p521N
  match key with
  | none => false
  | some q =>
    if r = 0 ∨ t = 0 ∨ n ≤ r ∨ n ≤ t ∨ sig.length ≠ 132 then false
    else
      let w := invMod n t
      match Point.add (Point.mul 521 (beNat digest * w % n) p521G) (Point.mul 521 (r * w % n) (some q)) with
      | none => false
      | some (x, _) => x % n == r

/-- A signature of a digest with private key `d` and per-message secret `k`: r then s, 66 bytes each. -/
def ecdsaSign (d k : Nat) (digest : List Byte) : List Byte :=
  let n := p521N
  match Point.mul 521 k p521G with
  | none => List.replicate 132 0
  | some (x, _) =>
    let r := x % n
    beBytes 66 r ++ beBytes 66 (invMod n k * (beNat digest + r * d) % n)

/-- The private key 80 bytes of HKDF output give (12 R533). -/
def privateKey (c : List Byte) : Nat := beNat c % (p521N - 1) + 1

/-- The public key of a private key. -/
def publicKey (d : Nat) : Point := Point.mul 521 d p521G

/-- The x coordinate of the ECDH product. -/
def ecdh (d : Nat) (q : Point) : List Byte :=
  match Point.mul 521 d q with
  | none => beBytes 66 0
  | some (x, _) => beBytes 66 x

end Sys2Proof.Machine
end

