-- ==== Sys2Proof/Machine/Power.lean ====
section
/-! DEFINITION. Clocks, the power arbiter, temperature, coolant and the seam (chapter 13; 04 R159 to R171). -/

namespace Sys2Proof.Machine

/-! ## Clocks -/

/-- PLL_LOCK (13 R592; 16 R704 step 3): the root PLL locks; the release edge is root edge 0. -/
def execPllLock (s : State) : Out :=
  if s.run.phase = .waitLock then
    .next ({ s with run := { s.run with phase := .locked, rootEdge := 0, edge := 0 } }.set Fld.CK_PLL_STATUS_locked 0 1)
  else .next s

/-- PLL_HOLDOVER (13 R593): REFCLK is lost or outside 300 ppm. -/
def execPllHoldover (lost : Bool) (ppm : Nat) (s : State) : Out :=
  if s.flag Fld.CK_PLL_STATUS_locked && (lost || decide (300 < ppm)) then
    let s := s.setAll 0 [(Fld.CK_PLL_STATUS_locked, 0), (Fld.CK_PLL_STATUS_holdover, 1), (Fld.CK_PLL_STATUS_lock_lost, 1)]
    let s := { s with pins := { s.pins with refclkOk := false } }
    if s.flag Fld.CK_PLL_STATUS_lock_event_en then .next (s.report 0x48 0 0) else .next s
  else .next s

/-- PLL_RELOCK (13 R593): REFCLK has returned and the PLL has locked to it again. -/
def execPllRelock (s : State) : Out :=
  if s.flag Fld.CK_PLL_STATUS_holdover then
    .next ({ s with pins := { s.pins with refclkOk := true } }.setAll 0
      [(Fld.CK_PLL_STATUS_locked, 1), (Fld.CK_PLL_STATUS_holdover, 0)])
  else .next s

/-! ## Gating and the seam -/

/-- The first waiting core in rotating order after the core last served. -/
def nextWake (last : Nat) (q : List Nat) : Option Nat :=
  let after := q.filter (fun c => decide (last < c))
  (if after.isEmpty then q else after).min?

/-- Gives up to `n` tokens to waiting cores. -/
def State.giveTokens : Nat → State → State
  | 0, s => s
  | n + 1, s =>
    match nextWake s.power.lastWoken s.power.wakeQueue with
    | none => s
    | some c => State.giveTokens n (({ s with power := { s.power with wakeQueue := s.power.wakeQueue.erase c } }).giveToken c)

/-- Tokens per quarter of a µs (13 R625). -/
def State.wakeTokens (s : State) : Nat := min 128 (max 32 (s.get Fld.PW_WAKE_CFG_tokens 0))

/-- WAKE_TOKEN_ISSUE (13 R609). A module stopped for want of coolant wakes no core (13 R622). -/
def execWakeTokenIssue (s : State) : Out :=
  let n := s.wakeTokens
  if s.halted then .next s else .next (({ s with power := { s.power with tokensLeft := n } }).giveTokens n)

/-- A slot of a half is RUNNING or RUNNABLE. -/
def State.halfBusy (s : State) (h : Nat) : Bool :=
  s.boundSlots.any (fun e => coreHalf e.1 == h && (e.2.2.state == .running || e.2.2.state == .runnable))

/-- A tile operation executes in a half: one that has issued, awaits nothing from elsewhere and has not completed (04 R170). -/
def State.halfExecutes (s : State) (h : Nat) : Bool :=
  s.boundSlots.any (fun e => coreHalf e.1 == h &&
    (Sparse.get ShardRun.none s.shards (e.1 * 8 + e.2.1)).ops.any (fun o => o.ready || o.waits.isEmpty))

/-- GATE_IDLE (13 R597; 04 R170). -/
def execGateIdle (h : Fin 4) (idleUs : Nat) (s : State) : Out :=
  if s.gated h.val || s.halfBusy h.val || s.halfExecutes h.val || s.seamWaiting h.val ||
      decide (idleUs < s.get Fld.PW_WAKE_CFG_gate_idle 0) then .next s
  else .next ((s.set Fld.PW_HALF_gated h.val 1).setDiv h.val 4)

/-- SEAM_ENTRY_ARRIVE (04 R162 to R169): an entry is launched into a half at an edge of its sender, with a credit; or it stalls for want
of one. A response for a gated half waits in the hold buffer, where it needs no credit; what waits for a gated half wakes it. -/
def execSeamEntryArrive (die : Fin 2) (toEast : Bool) (lane : SeamLane) (entry : SeamEntry) (s : State) : Out :=
  let h := die.val * 2 + bit toEast
  let k := seamKey h lane.via lane.chan
  if !s.sends h lane.via entry.launch || decide (entry.launch < (s.seamAt k).last) then .next s
  else
    let s := s.seamTo entry.launch
    let s := s.setSeam k ((s.seamAt k).credited entry.launch)
    if s.seamBarred h lane.via lane.chan entry.head then .next s
    else if s.gated h && decide (8 ≤ lane.chan.val) then .next ((s.launch k entry false).seamWake h)
    else if (s.seamAt k).credits = 0 then
      .next ((s.setSeam k { s.seamAt k with last := entry.launch + 1 }).count
        Fld.SEAM_STALL_COUNT_count die.val Fld.SEAM_STATUS_stall_wrap die.val 0)
    else if s.gated h then .next ((s.launch k entry true).seamWake h)
    else .next (s.launch k entry true)

/-- SEAM_CREDIT_RETURN (04 R165): the credits that have come back by an edge of the sender are its own again. -/
def execSeamCreditReturn (die : Fin 2) (toEast : Bool) (lane : SeamLane) (edge : Nat) (s : State) : Out :=
  let h := die.val * 2 + bit toEast
  let k := seamKey h lane.via lane.chan
  if s.sends h lane.via edge then
    let s := s.seamTo edge
    .next (s.setSeam k ((s.seamAt k).credited edge))
  else .next s

/-! ## Grants (13 R595 to R597, R617) -/

/-- The preferred point of a phase after the cold seed, and whether the seed clipped it. -/
def State.phasePoint (s : State) (n : Nat) : Nat × Bool :=
  let p := s.get Fld.PW_PHASE_pref n
  let seed := s.get Fld.PW_COLD_SEED_point 0
  if s.get Fld.PW_PHASE_learn_count n < 64 ∧ p < seed then (seed, true) else (p, false)

/-- Phases of the kernels whose slots are RUNNING or RUNNABLE on a half. -/
def State.halfPhases (s : State) (h : Nat) : List Nat :=
  s.boundSlots.filterMap (fun e =>
    if coreHalf e.1 = h ∧ (e.2.2.state = .running ∨ e.2.2.state = .runnable) then (s.ctxAt e.2.2.ctx).phase else none)

/-- The point a half's work wants, the lowest phase that sets it, and whether the cold seed clipped that phase. -/
def State.want (s : State) (h : Nat) : Nat × Nat × Bool :=
  (s.halfPhases h).foldl (fun acc n =>
    let p := s.phasePoint n
    if p.1 < acc.1 ∨ (p.1 = acc.1 ∧ n < acc.2.1) then (p.1, n, p.2) else acc) (3, 256, false)

/-- The baskets that hold a slot on a half. -/
def State.halfBaskets (s : State) (h : Nat) : List Nat :=
  ((s.boundSlots.filter (fun e => coreHalf e.1 == h)).map
    (fun e => s.get Fld.WVR_CTX_STATE_basket_index e.2.2.ctx)).eraseDups

/-- Pacing is enabled for a basket index. -/
def State.paceEnabled (s : State) (b : Nat) : Bool :=
  if b < 32 then bitOf (s.get Fld.PW_PACE_EN_LO_en 0) b else bitOf (s.get Fld.PW_PACE_EN_HI_en 0) (b - 32)

/-- The cap a basket stands under: point 0 with no unexpired cap, or with pacing disabled (13 R617). -/
def State.basketCap (s : State) (b : Nat) : Nat :=
  if s.paceEnabled b && decide (s.time < Sparse.get 0 s.power.capUntil b) then Sparse.get 0 s.power.capPoint b else 0

/-- pace_cap of a half: the fastest of its baskets' caps. -/
def State.paceCap (s : State) (h : Nat) : Nat := (((s.halfBaskets h).map s.basketCap).min?).getD 0

/-- The divider in force follows a grant: a slower point at once, a faster one when the rail has arrived (13 R596). -/
def State.moveTo (s : State) (h old new : Nat) : State :=
  if old = new then s
  else
    let s := { s with power := { s.power with target := Sparse.set 0 s.power.target h (new + 1) } }
    if old < new ∧ !s.gated h then s.setDiv h new else s

/-- Why a half's grant stands where it does: the codes of PW_HALF reason; of limits equally slow, the want, the ceiling,
the thermal cap and the pace cap come first in that order (DESIGN CHOICE, log entry 32). -/
def State.grantReason (s : State) (h want : Nat) (seeded : Bool) (grant : Nat) : Nat :=
  if grant = want then (if seeded then 5 else 0)
  else if s.get Fld.PW_HALF_ceiling h = grant then
    (if Sparse.get 0 s.power.ceilCause h = 0 then 1 else Sparse.get 0 s.power.ceilCause h)
  else if s.get Fld.PW_HALF_thermal_cap h = grant then 3
  else 4

/-- Sends PACE for a throttled half to the destinations of each paced basket on it (13 R615, R618). -/
def State.sendPace (s : State) (h : Nat) : State :=
  let s := { s with power := { s.power with paceSent := Sparse.set 0 s.power.paceSent h (s.time + 1) } }
  (s.halfBaskets h).foldl (fun s b =>
    if !s.paceEnabled b then s
    else (s.pieceAt b).sec.routes.foldl (fun s r =>
      (s.emit (.pace (BitVec.ofNat 14 r.1) (BitVec.ofNat 64 (s.basketUid b)) (s.get Fld.PW_HALF_grant h))).count
        Fld.PW_PACE_TX_COUNT_count 0 Fld.PW_STATUS_wrap 0 3) s) s

/-- The grant is slower than the want because of the ceiling or the thermal cap (13 R615). -/
def State.throttled (s : State) (h : Nat) : Bool :=
  decide (s.get Fld.PW_HALF_want h < s.get Fld.PW_HALF_grant h) &&
  decide (s.get Fld.PW_HALF_want h < max (s.get Fld.PW_HALF_ceiling h) (s.get Fld.PW_HALF_thermal_cap h))

/-- Grants one half a point (13 R595). -/
def State.grantHalf (s : State) (h : Nat) : State :=
  let (w, n, seeded) := s.want h
  let pc := s.paceCap h
  let g := max (max w (s.get Fld.PW_HALF_ceiling h)) (max pc (s.get Fld.PW_HALF_thermal_cap h))
  let old := s.get Fld.PW_HALF_grant h
  let was := s.throttled h
  let s := s.setAll h [(Fld.PW_HALF_want, w), (Fld.PW_HALF_pace_cap, pc), (Fld.PW_HALF_grant, g),
    (Fld.PW_HALF_reason, s.grantReason h w seeded g), (Fld.PW_HALF_ruling_phase, if n = 256 then 0 else n)]
  let s := s.moveTo h old g
  if s.throttled h && !was then s.sendPace h else s

/-- Grants every half. -/
def State.grantAll (s : State) : State := [0, 1, 2, 3].foldl State.grantHalf s

/-- DVFS_GRANT (13 R595): every 10 µs. -/
def execDvfsGrant (s : State) : Out := .next s.grantAll

/-- RAIL_SETTLED (13 R596; 04 R160, R161): the rail has arrived; a faster point's divider takes effect. -/
def execRailSettled (h : Fin 4) (s : State) : Out :=
  let t := Sparse.get 0 s.power.target h.val
  if t = 0 then .next s
  else
    let s := { s with power := { s.power with target := Sparse.set 0 s.power.target h.val 0 } }
    let s := s.set Fld.PW_HALF_RAIL_mv h.val (pointMv (t - 1))
    if s.gated h.val then .next s else .next (s.setDiv h.val (t - 1))

/-! ## Droop -/

/-- DROOP_DETECT (13 R598, R600): a fall of more than the threshold starts a stretch run; one during a run does not. -/
def execDroopDetect (row : Fin 32) (dropMv : Nat) (s : State) : Out :=
  let h := rowHalf row.val
  if s.flag Fld.CK_DROOP_CFG_droop_en && !s.gated h && decide (max 20 (s.get Fld.CK_DROOP_CFG_thresh_mv 0) < dropMv) then
    .next (s.set Fld.PW_HALF_stretching h 1)
  else .next s

/-- A droop-rate ceiling: one point slower than the grant for 10 ms; the ceiling it displaces is remembered (13 R601). -/
def State.droopCeiling (s : State) (h : Nat) : State :=
  let p := s.power
  let fresh := Sparse.get 0 p.droopUntil h == 0
  let s := { s with power := { p with
    droopPrev := if fresh then Sparse.set 0 p.droopPrev h (s.get Fld.PW_HALF_ceiling h) else p.droopPrev,
    droopPrevCause := if fresh then Sparse.set 0 p.droopPrevCause h (Sparse.get 0 p.ceilCause h) else p.droopPrevCause,
    droopUntil := Sparse.set 0 p.droopUntil h (s.time + 10000), ceilCause := Sparse.set 0 p.ceilCause h 6 } }
  let s := s.set Fld.PW_HALF_ceiling h (min 3 (s.get Fld.PW_HALF_grant h + 1))
  (s.report 0x49 h 0).grantHalf h

/-- STRETCH_RUN_END (13 R600, R601). -/
def execStretchRunEnd (h : Fin 4) (stillLow : Bool) (s : State) : Out :=
  if !s.flag Fld.PW_HALF_stretching h.val then .next s
  else
    let s := s.count Fld.CK_STRETCH_COUNT_count h.val Fld.CK_STATUS_stretch_wrap 0 h.val
    let s := s.set Fld.PW_HALF_stretching h.val (bit stillLow)
    let ms := s.time / 1000
    let n := (if Sparse.get 0 s.power.runsMs h.val = ms then Sparse.get 0 s.power.runsInMs h.val else 0) + 1
    let s := { s with power := { s.power with
        runsMs := Sparse.set 0 s.power.runsMs h.val ms,
        runsInMs := Sparse.set 0 s.power.runsInMs h.val n } }
    if n = s.get Fld.CK_DROOP_CFG_rate_limit 0 + 1 then .next (s.droopCeiling h.val) else .next s

/-- CEILING_EXPIRE (13 R601): a droop-rate ceiling ends; the ceiling it displaced stands again (DEDUCED, log entry 33). -/
def execCeilingExpire (h : Fin 4) (s : State) : Out :=
  let p := s.power
  let t := Sparse.get 0 p.droopUntil h.val
  if t = 0 ∨ s.time < t then .next s
  else
    let s := s.set Fld.PW_HALF_ceiling h.val (Sparse.get 0 p.droopPrev h.val)
    let s := { s with power := { p with
        droopUntil := Sparse.set 0 p.droopUntil h.val 0,
        ceilCause := Sparse.set 0 p.ceilCause h.val (Sparse.get 0 p.droopPrevCause h.val) } }
    .next (s.grantHalf h.val)

/-- DROOP_CALIBRATE (13 R602): one row's detectors, one at a time; cal_done is set. -/
def execDroopCalibrate (_row : Fin 32) (s : State) : Out := .next (s.set Fld.CK_DROOP_CFG_cal_done 0 1)

/-! ## Input power (13 R603 to R607) -/

/-- The average limit in watts. -/
def State.powerLimit (s : State) : Nat := min 3200 (max 800 (s.get Fld.PW_LIMIT_watts 0))

/-- The window in seconds. -/
def State.powerWindow (s : State) : Nat := min 8 (max 1 (s.get Fld.PW_LIMIT_window_s 0))

/-- The 1 ms samples of the window. -/
def State.windowSamples (s : State) : List Nat := s.power.samples.take (1000 * s.powerWindow)

/-- The window mean, rounded down (DESIGN CHOICE, log entry 34). -/
def State.windowMean (s : State) : Nat :=
  let l := s.windowSamples
  if l.isEmpty then 0 else l.sum / l.length

/-- A half's ceiling takes a point, for a cause, and counts as lowered (13 R604 to R606). -/
def State.lowerCeiling (s : State) (h point cause : Nat) : State :=
  if point ≤ s.get Fld.PW_HALF_ceiling h then s
  else
    let s := s.set Fld.PW_HALF_ceiling h point
    let s := { s with power := { s.power with ceilCause := Sparse.set 0 s.power.ceilCause h cause, ceilingChanged := s.time } }
    s.count Fld.PW_THROTTLE_COUNT_count 0 Fld.PW_STATUS_wrap 0 0

/-- The transient response (13 R605): its event, and grants anew. -/
def State.transient (s : State) : State := ((s.set Fld.PW_STATUS_transient 0 1).report 0x4B 0 0).grantAll

/-- POWER_MEASURE (13 R603, R605): a 10 µs measurement; every hundredth makes a 1 ms sample. -/
def execPowerMeasure (watts mv current : Nat) (s : State) : Out :=
  let s := s.setAll 0 [(Fld.PW_INPUT_now_w, watts), (Fld.PW_INPUT_VI_mv, mv), (Fld.PW_INPUT_VI_current, current)]
  let tens := watts :: s.power.tens
  let s :=
    if tens.length < 100 then { s with power := { s.power with tens := tens } }
    else
      let s := { s with power := { s.power with tens := [], samples := (tens.sum / 100 :: s.power.samples).take 8000 } }
      s.set Fld.PW_INPUT_avg_w 0 s.windowMean
  let runs : Nat := if s.powerLimit < watts then s.power.overRun + 1 else 0
  let s := { s with power := { s.power with overRun := runs } }
  if 4500 < watts then
    .next ([0, 1, 2, 3].foldl (fun s h => s.lowerCeiling h (min 3 (s.get Fld.PW_HALF_ceiling h + 1)) 2) s).transient
  else if decide (runs = 800) then .next ([0, 1, 2, 3].foldl (fun s h => s.lowerCeiling h 3 2) s).transient
  else .next s

/-- The active cores of a half: those with a slot RUNNING or RUNNABLE. -/
def State.activeCores (s : State) (h : Nat) : Nat :=
  ((s.boundSlots.filter (fun e => coreHalf e.1 == h && (e.2.2.state == .running || e.2.2.state == .runnable))).map
    Prod.fst).eraseDups.length

/-- The predicted draw of a half at a point, in mW · 30 · 85² (13 R606). -/
def State.predict (s : State) (h p : Nat) : Nat :=
  let mw := s.get Fld.PW_PHASE_MW_mw (s.get Fld.PW_HALF_ruling_phase h)
  (if mw = 0 then 8200 else mw) * s.activeCores h * pointClock p * (pointMv p / 10) ^ 2

/-- Of the halves in a list, the first with the greatest value. -/
def bestHalf (v : Nat → Nat) : List Nat → Option Nat
  | [] => none
  | h :: hs =>
    match bestHalf v hs with
    | none => some h
    | some k => if v h < v k then some k else some h

/-- POWER_ADJUST (13 R604, R606): every 1 ms one ceiling may move. With `n` samples of sum `t` in the window of `w` s and
`l` the latest, proj · 10 · w · n = (10 · w − 1) · t + l · n. -/
def execPowerAdjust (s : State) : Out :=
  let ws := s.windowSamples
  match ws with
  | [] => .next s
  | l :: _ =>
    let w := s.powerWindow
    let n := ws.length
    let proj := (10 * w - 1) * ws.sum + l * n
    let unit := s.powerLimit * 10 * w * n
    if 98 * unit < 100 * proj then
      match bestHalf (fun h => s.predict h (s.get Fld.PW_HALF_grant h) - s.predict h (s.get Fld.PW_HALF_grant h + 1))
          ([0, 1, 2, 3].filter (fun h => s.get Fld.PW_HALF_grant h != 3)) with
      | none => .next s
      | some h =>
        let s := s.lowerCeiling h (s.get Fld.PW_HALF_grant h + 1) 1
        let s := if s.flag Fld.PW_STATUS_limit_event_en then s.report 0x4A 0 0 else s
        .next s.grantAll
    else if 100 * proj < 95 * unit ∧ s.power.ceilingChanged + 10000 ≤ s.time then
      match bestHalf (fun h => 2 ^ 64 - (s.predict h (s.get Fld.PW_HALF_ceiling h - 1) - s.predict h (s.get Fld.PW_HALF_ceiling h)))
          ([0, 1, 2, 3].filter (fun h => decide (s.get Fld.PW_HALF_want h < s.get Fld.PW_HALF_ceiling h))) with
      | none => .next s
      | some h =>
        let c := s.get Fld.PW_HALF_ceiling h - 1
        let s := s.set Fld.PW_HALF_ceiling h c
        let s := { s with power := { s.power with
        ceilingChanged := s.time,
          ceilCause := if c = 0 then Sparse.set 0 s.power.ceilCause h 0 else s.power.ceilCause } }
        .next s.grantAll
    else .next s

/-! ## Pace notices -/

/-- pace_hold in µs. -/
def State.paceHold (s : State) : Nat := max 100 (s.get Fld.PW_PACE_HOLD_us 0)

/-- PACE_REPEAT (13 R615): while the throttle lasts, the notice is sent again every pace_hold / 2. -/
def execPaceRepeat (h : Fin 4) (s : State) : Out :=
  let last := Sparse.get 0 s.power.paceSent h.val
  if s.throttled h.val && decide (last + s.paceHold / 2 ≤ s.time + 1) then .next (s.sendPace h.val) else .next s

/-- PACE (13 R616): a notice received. -/
def execPace (uid : BitVec 64) (point : BitVec 2) (s : State) : Out :=
  let discard := s.count Fld.PW_PACE_RX_COUNT_count 0 Fld.PW_STATUS_wrap 0 4
  match s.basketOfUid uid.toNat with
  | none => .next discard
  | some b =>
    if s.paceEnabled b && (decide (Sparse.get 0 s.power.capPoint b ≤ point.toNat) ||
        decide (Sparse.get 0 s.power.capUntil b ≤ s.time)) then
      let s := { s with power := { s.power with
        capPoint := Sparse.set 0 s.power.capPoint b point.toNat,
        capUntil := Sparse.set 0 s.power.capUntil b (s.time + s.paceHold) } }
      .next s.grantAll
    else .next discard

/-- PACE_CAP_EXPIRE (13 R616, R617). -/
def execPaceCapExpire (b : Fin 64) (s : State) : Out :=
  let t := Sparse.get 0 s.power.capUntil b.val
  if t = 0 ∨ s.time < t then .next s
  else
    let s := { s with power := { s.power with
        capUntil := Sparse.set 0 s.power.capUntil b.val 0,
        capPoint := Sparse.set 0 s.power.capPoint b.val 0 } }
    .next s.grantAll

/-! ## Temperature (13 R619 to R621) -/

/-- The halves a sensor speaks for: its own, or those of the compute die its memory-side die lies beside; an I/O die lies
beside both (DESIGN CHOICE, log entry 35). -/
def sensorHalves (k : Nat) : List Nat :=
  if k < 4 then [k] else if k < 8 then [0, 1] else if k < 12 then [2, 3] else [0, 1, 2, 3]

/-- The hottest reading of the sensors that speak for a half. -/
def State.halfTemp (s : State) (h : Nat) : Nat :=
  (List.range 14).foldl (fun m k => if (sensorHalves k).contains h then max m (s.get Fld.PW_TEMP_now_c k) else m) 0

/-- Drives THERM_ALERT_N: low while any sensor reads alert_c or more, released 3 °C below, and low while stopped (R621). -/
def State.driveTherm (s : State) : State :=
  let hot := (List.range 14).foldl (fun m k => max m (s.get Fld.PW_TEMP_now_c k)) 0
  let alert := s.get Fld.PW_THERM_CFG_alert_c 0
  let low := s.flag Fld.PW_COOLANT_stopped || decide (alert ≤ hot) || (s.flag Fld.PW_COOLANT_therm_alert && decide (alert < hot + 3))
  { s.set Fld.PW_COOLANT_therm_alert 0 (bit low) with pins := { s.pins with thermAlertN := !low } }

/-- A half's sensor reads critical_c or more: thermal_cap 3 and the thermal-critical event; 5 °C below, it ends (R620). -/
def State.criticalHalf (s : State) (k c : Nat) : State :=
  let crit := s.get Fld.PW_THERM_CFG_critical_c 0
  if 4 ≤ k then s
  else if crit ≤ c then
    let s := s.set Fld.PW_HALF_thermal_cap k 3
    if s.power.critical.contains k then s
    else (({ s with power := { s.power with critical := s.power.critical ++ [k] } }).set Fld.PW_STATUS_thermal 0 1).report 0x4D k 0
  else if c + 5 ≤ crit then { s with power := { s.power with critical := s.power.critical.filter (· != k) } }
  else s

/-- TEMP_SAMPLE (13 R619 to R621): a sensor's reading; the thermal-throttle event is raised as it reaches throttle_c. -/
def execTempSample (sensor : Fin 14) (c : BitVec 8) (s : State) : Out :=
  let k := sensor.val
  let old := s.get Fld.PW_TEMP_now_c k
  let t := s.get Fld.PW_THERM_CFG_throttle_c 0
  let s := s.setAll k [(Fld.PW_TEMP_now_c, c.toNat), (Fld.PW_TEMP_peak_c, max c.toNat (s.get Fld.PW_TEMP_peak_c k))]
  let s := if old < t ∧ t ≤ c.toNat then (s.set Fld.PW_STATUS_thermal 0 1).report 0x4C k 0 else s
  .next ((s.criticalHalf k c.toNat).driveTherm).grantAll

/-- THERMAL_CAP_STEP (13 R619): one point slower at each 1 ms at throttle_c or more, one faster at each 10 ms from 3 °C
below. A half in critical temperature keeps cap 3. -/
def execThermalCapStep (h : Fin 4) (s : State) : Out :=
  let hot := s.halfTemp h.val
  let t := s.get Fld.PW_THERM_CFG_throttle_c 0
  let cap := s.get Fld.PW_HALF_thermal_cap h.val
  let since := Sparse.get 0 s.power.capChanged h.val
  let put := fun (s : State) v =>
    (({ s with power := { s.power with capChanged := Sparse.set 0 s.power.capChanged h.val s.time } }).set
      Fld.PW_HALF_thermal_cap h.val v).grantAll
  if t ≤ hot ∧ cap < 3 ∧ (since = 0 ∨ since + 1000 ≤ s.time) then .next (put s (cap + 1))
  else if hot + 3 ≤ t ∧ 0 < cap ∧ since + 10000 ≤ s.time ∧ !s.power.critical.contains h.val then .next (put s (cap - 1))
  else .next s

/-- The write of clear_peaks in PW_TEMP_CLR (13 R625): only from partition 0. -/
def execTempClearPeaks (a : Agent) (v : Word32) (s : State) : Out :=
  if s.fromPf a && bitOf v.toNat 0 then
    .next ((List.range 14).foldl (fun s k => s.set Fld.PW_TEMP_peak_c k (s.get Fld.PW_TEMP_now_c k)) s)
  else .next s

end Sys2Proof.Machine
end

