-- ==== Sys2Proof/Machine/Rim.lean ====
section
/-! DEFINITION. Power-up and reset, the boot ROM, the partition manifest, the re-seat and SPDM (chapter 16; 12 R531 to R541). -/

namespace Sys2Proof.Machine

/-! ## Power and reset (16 R698 to R705) -/

/-- The state after everything volatile is lost: the service record, the fuses and the flash stay, and the pins the tray
drives (16 R705), and host and pool memory, which is not the module's. Nothing the module has sent is taken back, and no command that waits is lost. -/
def State.lostAll (s : State) : State :=
  { State.reset with
    service := s.service, fuses := s.fuses, flash := s.flash,
    pins := { Pins.reset with
      inputOk := s.pins.inputOk, lossSeen := s.pins.lossSeen, coolantOk := s.pins.coolantOk,
      refclkOk := s.pins.refclkOk },
    tier4 := s.tier4, outbox := s.outbox, freeCounter := s.freeCounter, pending := s.pending }

/-- POWER_INPUT_APPLY (16 R698, R704 step 1): the input is in range; after a loss it must have been above 50.0 V for 10 ms. -/
def execPowerInputApply (mv heldUs : Nat) (s : State) : Out :=
  if s.run.phase = .unpowered ∧ 50000 ≤ mv ∧ mv ≤ 57600 ∧ (s.pins.lossSeen = false ∨ (50000 < mv ∧ 10000 ≤ heldUs)) then
    .next { s with pins := { s.pins with inputOk := true, lossSeen := false }, run := { s.run with phase := .held } }
  else .next s

/-- POWER_INPUT_LOSS (16 R698; 01 R16): below 44.0 V for 100 µs. -/
def execPowerInputLoss (mv us : Nat) (s : State) : Out :=
  if mv < 44000 ∧ 100 ≤ us ∧ s.run.phase ≠ .unpowered then
    let l := s.lostAll
    .next { l with pins := { l.pins with inputOk := false, lossSeen := true, perstN := false } }
  else .next s

/-- PERST_ASSERT (16 R705; 14 R647): 100 µs or more resets the module; the coolant hold and stopped bits are kept. -/
def execPerstAssert (us : Nat) (s : State) : Out :=
  if us < 100 ∨ s.run.phase = .unpowered then .next s
  else
    let l := s.lostAll
    let l := { l with run := { l.run with phase := .held } }
    let l := l.setAll 0 [(Fld.FC_ERR_PIN_coolant_hold, s.get Fld.FC_ERR_PIN_coolant_hold 0),
      (Fld.PW_COOLANT_stopped, s.get Fld.PW_COOLANT_stopped 0)]
    .next l.driveErr.driveTherm

/-- PERST_RELEASE (16 R704 step 2; 14 R647; 12 R545; 16 R719). -/
def execPerstRelease (s : State) : Out :=
  if s.run.phase = .held then
    let s := { s with pins := { s.pins with perstN := true, uartBaud := 115200 }, run := { s.run with phase := .waitLock } }
    .next (s.setAll 0 [(Fld.FC_ERR_PIN_coolant_hold, 0), (Fld.PW_COOLANT_stopped, 0)]).driveErr.driveTherm
  else .next s

/-- I3C_MODULE_WRITE (16 R701; 10 R472): the first write names the module; later ones are ignored until PERST_N. -/
def execI3cModuleWrite (module : ModuleId) (s : State) : Out :=
  if s.pins.perstN && !s.pins.i3cModuleWritten then
    let s := { s with pins := { s.pins with i3cModuleWritten := true } }
    .next (s.setAll 0 [(Fld.CAP_MODULE_module, module.toNat), (Fld.CAP_MODULE_module_valid, 1)]).refreshServing
  else .next s

/-- I3C_DYNAMIC_ADDRESS (16 R699, R701): the target accepts a dynamic address while it responds. -/
def execI3cDynamicAddress (addr : BitVec 7) (s : State) : Out :=
  if s.pins.perstN then .next { s with pins := { s.pins with i3cDynamic := some addr.toNat } } else .next s

/-! ## Coolant (13 R622 to R624) -/

/-- CORE_RELEASE (13 R624; 16 R706 stage 5, R714): COOLANT_OK has read high at ten consecutive samples. -/
def execCoreRelease (highSamples : Nat) (s : State) : Out :=
  if s.run.phase = .running ∧ s.run.coresReleased = false ∧ s.run.rimOnly = false ∧ 10 ≤ highSamples then
    let s := { s with pins := { s.pins with coolantOk := true }, run := { s.run with coresReleased := true, coolantArmed := true } }
    .next s.refreshServing
  else .next s

/-- COOLANT_STOP (13 R622; 14 R647): ten consecutive low samples once the stop is armed. The event is reported, every core
clock stops with its operations abandoned, ports and links go idle, and the stop is logged in the service record. -/
def execCoolantStop (lowSamples : Nat) (s : State) : Out :=
  if s.run.phase = .running ∧ s.run.coolantArmed = true ∧ 10 ≤ lowSamples then
    let s := { s with pins := { s.pins with coolantOk := false } }
    let s := s.setAll 0 [(Fld.PW_COOLANT_stopped, 1), (Fld.FC_ERR_PIN_coolant_hold, 1)]
    let s := (s.report 0x4E 0 0).driveTherm
    let s := [0, 1, 2, 3].foldl (fun s h => ((s.set Fld.PW_HALF_gated h 1).setDiv h 4).set (holdField h) (h / 2) 0) s
    let s := (List.range 80).foldl (fun s p => s.set Fld.WF_PORT_STATE_state p 0) s
    let s := (List.range 36).foldl (fun s fn => s.set Fld.HI_LINK_STATE_up fn 0) s
    let s := { s with
      slots := [], contexts := [], shards := [], tags := [], ledger := [], watches := [], offers := [], deferred := [], waiting := [], own := [], updates := [], fenceOps := [], dma := [], moves := [],
      edits := [], merge := [], relays := [], imports := [], sealGot := [], ports := [], sentOn := [], forwardWait := [], seam := [], seamOut := [], scrubs := [], power := { s.power with wakeQueue := [], tokensLeft := 0 },
      run := { s.run with phase := .stopped, coresReleased := false, coolantArmed := false },
      service := { s.service with coolantStops := s.service.coolantStops + 1, seq := s.service.seq + 1 } }
    .next s.refreshServing
  else if s.run.phase = .running ∧ 10 ≤ lowSamples then .next { s with pins := { s.pins with coolantOk := false } }
  else .next s

/-! ## The partition manifest (16 R709 to R712) -/

/-- `n` bytes of a manifest from an offset, as a number. -/
def fieldAt (m : List Byte) (off n : Nat) : Nat := leNat ((m.drop off).take n)

/-- What a manifest says of one partition. -/
structure PartSetup where
  valid : Bool
  link : Nat
  lid : Bool
  sidecar : Bool
  first : Nat
  count : Nat
  labels : Nat
  ports : Nat
  poolPort : Nat
  poolBase : Nat
  poolPages : Nat
  carve : Nat
  charter : Nat
  deriving DecidableEq, Repr

/-- The entry of partition `p` (16 Table 5). -/
def manifestPart (m : List Byte) (p : Nat) : PartSetup :=
  let o := 0x40 + 128 * p
  let fl := fieldAt m o 1
  { valid := bitOf fl 0, link := bitsOf fl 1 2, lid := bitOf fl 3, sidecar := bitOf fl 4, first := fieldAt m (o + 1) 1,
    count := fieldAt m (o + 2) 2, labels := fieldAt m (o + 4) 2, ports := bitsOf (fieldAt m (o + 6) 1) 0 4,
    poolPort := bitsOf (fieldAt m (o + 7) 1) 0 2, poolBase := fieldAt m (o + 8) 8, poolPages := bitsOf (fieldAt m (o + 0x10) 4) 0 24,
    carve := fieldAt m (o + 0x20) 32, charter := beNat ((m.drop (o + 0x40)).take 64) }

/-- The bytes of a manifest that are reserved are zero. -/
def manifestReservedZero (m : List Byte) : Bool :=
  let z := fun o n => fieldAt m o n == 0
  z 6 2 && bitsOf (fieldAt m 0x18 1) 6 2 == 0 && z 0x19 39 &&
  (List.range 32).all (fun p =>
    let o := 0x40 + 128 * p
    bitsOf (fieldAt m o 1) 5 3 == 0 && bitsOf (fieldAt m (o + 6) 1) 4 4 == 0 && bitsOf (fieldAt m (o + 7) 1) 2 6 == 0 &&
    bitsOf (fieldAt m (o + 0x10) 4) 24 8 == 0 && z (o + 0x14) 12)

/-- The default manifest's set-up (16 R711): partition 0 alone. -/
def State.defaultPart (s : State) (p : Nat) : PartSetup :=
  { valid := p == 0, link := 0, lid := false, sidecar := false, first := if p = 0 then 33 else 0,
    count := if p = 0 then 223 else 0, labels := if p = 0 then 0xFFFF else 0, ports := 0, poolPort := 0, poolBase := 0,
    poolPages := 0,
    carve := if p = 0 then (List.range 256).foldl (fun n c => n + 2 ^ c * bit (!s.service.retiredChannels.contains c)) 0 else 0,
    charter := 0 }

/-- The set-up a manifest, or the default manifest, gives partition `p`. -/
def State.setupOf (s : State) (m : Option (List Byte)) (p : Nat) : PartSetup :=
  match m with
  | some b => manifestPart b p
  | none => s.defaultPart p

/-- The links field: bifur in [1:0], role in [5:2]. -/
def linksOf (m : Option (List Byte)) : Nat :=
  match m with
  | some b => fieldAt b 0x18 1
  | none => 0

/-- The links a bifurcation creates (11 R495). -/
def linkCount (bifur : Nat) : Nat := if bifur = 0 then 1 else if bifur = 1 then 2 else 4

/-- Two ranges of key slots overlap. -/
def rangesMeet (a b : PartSetup) : Bool :=
  decide (0 < a.count) && decide (0 < b.count) && decide (a.first < b.first + b.count) && decide (b.first < a.first + a.count)

/-- A manifest's conflicts (16 R710): partition 0, links, carve-outs, key slots (12 R548), lid partitions (12 R562). -/
def State.manifestConflict (s : State) (m : List Byte) : Bool :=
  let ps := (List.range 32).map (fun p => (p, manifestPart m p))
  let valid := ps.filter (fun e => e.2.valid)
  let bifur := bitsOf (linksOf (some m)) 0 2
  let p0 := manifestPart m 0
  !p0.valid || p0.link != 0 || bifur == 3 || p0.lid ||
  valid.any (fun e => decide (linkCount bifur ≤ e.2.link) || (decide (0 < e.2.count) && decide (e.2.first < 33)) ||
    decide (256 < e.2.first + e.2.count) || (e.2.lid && decide (e.2.count < 3)) ||
    s.service.retiredChannels.any (fun c => bitOf e.2.carve c)) ||
  valid.any (fun e => valid.any (fun g => decide (e.1 < g.1) && ((e.2.carve &&& g.2.carve) != 0 || rangesMeet e.2 g.2)))

/-- At a re-seat, a change of a partition that is not drained, or of the links against R497 (16 R710). -/
def State.manifestUndrained (s : State) (m : List Byte) : Bool :=
  let undrained := (List.range 32).filter (fun p => !s.flag Fld.LID_PART_drained p)
  let old := linksOf s.manifest
  let new := linksOf (some m)
  undrained.any (fun p => s.setupOf s.manifest p != manifestPart m p) ||
  (bitsOf old 0 2 != bitsOf new 0 2 && !undrained.isEmpty) ||
  undrained.any (fun p => bitOf old (2 + s.linkOf p) != bitOf new (2 + s.linkOf p))

/-- Why a manifest is refused under the owner's secret, where there is one: 3 format, 2 mac, 4 rollback, 5 conflict, 6 not drained; 0 where
it is accepted. The checks are taken in the order of R710 (DESIGN CHOICE, log entry 43). -/
def State.manifestError (s : State) (owner : Option (List Byte)) (m : List Byte) (reseat : Bool) : Nat :=
  if m.length ≠ 4224 ∨ fieldAt m 0 4 ≠ 0x4D504B51 ∨ fieldAt m 4 2 ≠ 1 ∨ !manifestReservedZero m ∨
      (fieldAt m 0x10 8 ≠ 0 ∧ fieldAt m 0x10 8 ≠ Config.serial.toNat) then 3
  else if owner.map (fun k => hmac512 k (m.take 0x1040)) ≠ some (m.drop 0x1040) then 2
  else if fieldAt m 8 8 < s.service.manifestGen then 4
  else if s.manifestConflict m then 5
  else if reseat && s.manifestUndrained m then 6
  else 0

/-- Writes one function's link configuration. -/
def State.setLinkCfg (s : State) (links fn : Nat) : State :=
  s.setAll fn [(Fld.HI_LINK_CFG_bifur, bitsOf links 0 2), (Fld.HI_LINK_CFG_role, bitsOf links 2 4)]

/-- Writes the protection set-up of one partition (11 R528; 12 R589; 16 R706 stage 2). -/
def State.writeSetup (s : State) (p : Nat) (u : PartSetup) : State :=
  let s := s.setAll p [(Fld.HI_PART_ID_lid, bit u.lid), (Fld.HI_PART_PORTS_ports, u.ports), (Fld.HI_KEYSLOT_first, u.first),
    (Fld.HI_KEYSLOT_count, u.count), (Fld.HI_LABELS_labels, u.labels), (Fld.HI_POOL_BASE_LO_base_lo, u.poolBase / 2 ^ 16),
    (Fld.HI_POOL_BASE_HI_base_hi, u.poolBase / 2 ^ 32), (Fld.HI_POOL_SIZE_pages, u.poolPages), (Fld.HI_POOL_SIZE_port, u.poolPort),
    (Fld.LID_PART_sidecar_en, bit u.sidecar), (Fld.LID_PART_mem_slot, u.first)]
  let s := s.set Fld.LID_PART_epoch p (s.get Fld.KS_ATTR_epoch u.first)
  (List.range 8).foldl (fun s i => s.set Fld.HI_CARVE_MAP_channels (p * 8 + i) (u.carve / 2 ^ (32 * i))) s

/-- Shows which partition's range holds each key slot. -/
def State.showRanges (s : State) : State :=
  (List.range 256).foldl (fun s k =>
    match s.partitions.find? (fun p => s.slotInRange p k) with
    | some p => s.setAll k [(Fld.KS_ATTR_partition, p), (Fld.KS_ATTR_in_range, 1)]
    | none => s.setAll k [(Fld.KS_ATTR_partition, 0), (Fld.KS_ATTR_in_range, 0)]) s

/-- Stage 2 with an accepted manifest, or with the default manifest (16 R706, R711, R712). -/
def State.applyManifest (s : State) (m : Option (List Byte)) : State :=
  let us : List (Nat × PartSetup) := (List.range 32).map (fun p => (p, s.setupOf m p))
  let valid : List (Nat × PartSetup) := us.filter (fun e => e.2.valid)
  let s := { s with manifest := m, parts := valid.map (fun (e : Nat × PartSetup) => (e.1, e.2.link)) }
  let s := us.foldl (fun s e => s.writeSetup e.1
    (if e.2.valid then e.2 else { e.2 with
      lid := false, sidecar := false, first := 0, count := 0, labels := 0, ports := 0,
      poolPort := 0, poolBase := 0, poolPages := 0, carve := 0 })) s
  let s := (List.range 36).foldl (fun s fn => s.setLinkCfg (linksOf m) fn) s
  let s := s.showRanges
  let s := s.set Fld.LID_STATUS_conf_mode 0 (bit (valid.any (fun e => e.2.lid)))
  let gen := match m with
    | some b => fieldAt b 8 8
    | none => 0
  let s := s.set64 Fld.RIM_MANIFEST_GEN_LO_gen_lo Fld.RIM_MANIFEST_GEN_HI_gen_hi 0 gen
  let s := s.set Fld.RIM_STATUS_default_manifest 0 (bit m.isNone)
  match m with
  | some b => { s with service := { s.service with manifestGen := fieldAt b 8 8, seq := s.service.seq + 1 } }
  | none => s

/-! ## Boot ROM stages (16 R706 to R708) -/

/-- An image whose svn is not below the fused version may start (12 R534); its signature was verified when it was staged. -/
def State.startable (s : State) (i : Option Image) : Bool :=
  match i with
  | some i => decide (s.fuses.svn ≤ i.svn)
  | none => false

/-- The bank that starts: the one most recently staged, else the other (16 R708). -/
def State.bootBank (s : State) : Option Nat :=
  let bank := fun n => if n = 0 then s.flash.bank0 else s.flash.bank1
  if s.startable (bank s.flash.staged) then some s.flash.staged
  else if s.startable (bank (1 - s.flash.staged)) then some (1 - s.flash.staged)
  else none

/-- The image in a bank. -/
def State.imageIn (s : State) (n : Nat) : Image :=
  ((if n = 0 then s.flash.bank0 else s.flash.bank1)).getD { svn := 0, digest := Config.factoryDigest }

/-- CDI_0 (12 R532). -/
def deviceCdi : List Byte := hkdf512 (bytes512 idSeed) (bytes512 uds) (ascii "QK-L0") 64

/-- The DeviceID private key (12 R533). -/
def deviceKey : Nat := privateKey (hkdf512 (List.replicate 64 0) deviceCdi (ascii "QK-DEVID") 80)

/-- Stage 1 (12 R532 to R536): CDI_0, the DeviceID, binding and alias keys, CDI_1 and the certificates; CDI_0 and the
DeviceID private key do not outlive the stage. -/
def State.deriveIdentity (s : State) (img : Image) : State :=
  let zeros := List.replicate 64 (0 : Byte)
  let binding := privateKey (hkdf512 zeros deviceCdi (ascii "QK-BIND" ++ leBytes 2 img.svn) 80)
  let cdi1 := hkdf512 (bytes512 img.digest) deviceCdi (ascii "QK-L1") 64
  let aliasKey := privateKey (hkdf512 zeros cdi1 (ascii "QK-ALIAS") 80)
  let cert := fun d tcb svn => Config.certificate
    { key := pointBytes (publicKey d), tcbInfo := tcb, svn := svn, signer := deviceKey, draw := s.randomValue }
  ({ s with ident := { cdi1 := cdi1, aliasKey := aliasKey, bindingKey := binding,
                       aliasCert := cert aliasKey (some (img.digest, img.svn)) none, bindingCert := cert binding none (some img.svn),
                       image := img } }.drawn).set Fld.LID_SVN_fw_svn 0 img.svn

/-- Stage 3, at power-up only: the service record is loaded, the droop detectors calibrated (04 R123; 14 R641; 13 R602). -/
def State.loadService (s : State) : State :=
  let v := s.service
  let s := (List.range 32).foldl (fun s r =>
    s.setAll r [(Fld.RWS_LANE_MAP_lanes, Sparse.get 0x76543210 v.laneMap r),
      (Fld.RWS_SITE_STATE_slots, Sparse.get 0x00010000 v.siteState r)]) s
  let s := (List.range 13).foldl (fun s b => s.set Fld.FC_BRIDGE_STATUS_retired b (Sparse.get 0 v.subLinks b)) s
  let s := (List.range 64).foldl (fun s i => s.set Fld.FC_PATROL_REC_recs i (Sparse.get 0 v.patrolRec i)) s
  let s := (List.range 27).foldl (fun s i => s.set Fld.FC_SERDES_REC_recs i (Sparse.get 0 v.serdesRec i)) s
  let s := (List.range 80).foldl (fun s p =>
    s.setAll p [(Fld.WF_LANE_RECOVERY_rec_a, Sparse.get 0 v.laneRec (3 * p)),
      (Fld.WF_LANE_RECOVERY_rec_b, Sparse.get 0 v.laneRec (3 * p + 1)),
      (Fld.WF_LANE_RECOVERY_rec_s, Sparse.get 0 v.laneRec (3 * p + 2)),
      (Fld.WF_PORT_STATE_spare_used, bit (Sparse.get 0 v.spareUsed p != 0)),
      (Fld.WF_PORT_STATE_lane_lo, if Sparse.get 0 v.spareUsed p = 1 then 1 else 0),
      (Fld.WF_PORT_STATE_lane_hi, if Sparse.get 0 v.spareUsed p = 0 then 1 else 2)]) s
  let s := v.retiredPorts.foldl (fun s p => s.setAll p [(Fld.WF_PORT_STATE_state, 5), (Fld.CAP_PEER_link, 3)]) s
  (s.set Fld.CK_DROOP_CFG_cal_done 0 1).refreshCaps

/-- The memory keys of stage 4 (12 R556): a fresh key in the first slot of the range of each partition in a list. -/
def State.loadMemoryKeys (s : State) (ps : List Nat) : State :=
  ps.foldl (fun s p =>
    if s.get Fld.HI_KEYSLOT_count p = 0 ∨ s.underLid p then s
    else
      let (k, s) := s.draw768
      s.loadKey (s.memSlot p) 1 k false false useUncounted) s

/-- Zeroizes the slots with expire_reset (12 R552). -/
def State.expireSlots (s : State) : State :=
  (List.range 256).foldl (fun s k => if s.flag Fld.KS_ATTR_expire_reset k then s.zeroSlot k else s) s

/-- The boot ROM at power-up (16 R706 to R713): a mask for the key slots, the identity, the manifest or rim-only mode, the service record, the keys;
then rim firmware runs. With no image that may start, it does not run. -/
def State.powerUpBoot (s : State) : State :=
  match s.bootBank with
  | none => s
  | some bank =>
    let (mask, s) := s.draw768
    let s := { s with keyMask := mask }
    let s := s.deriveIdentity (s.imageIn bank)
    let s := s.set Fld.RIM_STATUS_bank 0 bank
    let hold := s.service.hold
    let s := { s with service := { s.service with hold := false, seq := s.service.seq + bit hold } }
    let err := match s.flash.manifest with
      | some m => s.manifestError s.fuses.secret m false
      | none => 3
    let owned := decide (s.fuses.active < 4)
    let refused := hold || (owned && err != 0)
    let s := s.applyManifest (if owned && !refused then s.flash.manifest else none)
    let s := s.loadService.showFuses
    let s := (s.loadOwner.setTries 8).loadMemoryKeys s.partitions
    let engine := Config.engineDigest (s.imageIn bank).digest
    let s := { s with run := { s.run with phase := .running, rimOnly := refused, engineStaged := engine, engineActive := engine, oldCmds := [] } }
    s.setAll 0 [(Fld.RIM_STATUS_mode, if refused then 2 else 1), (Fld.RIM_STATUS_stage, 5)]

/-! ## Engine firmware (16 R718) -/

/-- A command that was in progress when engine firmware was staged still runs. -/
def State.runsOld (s : State) : Bool :=
  s.run.oldCmds.any (fun e => match (s.ctxAt e.1).cmd with
    | some c => c.queue == e.2.1 && c.seq == e.2.2
    | none => false)

/-- The engine firmware in effect: the one staged, once every command begun under the one before has ended. -/
def State.engineFirmware (s : State) : BitVec 512 := if s.runsOld then s.run.engineActive else s.run.engineStaged

/-- Engine firmware is staged with an image: the commands in progress go on under the one before. -/
def State.stageEngines (s : State) (img : Image) : State :=
  { s with run := { s.run with
      engineActive := s.engineFirmware, engineStaged := Config.engineDigest img.digest,
      oldCmds := s.contexts.filterMap (fun e => e.2.cmd.map (fun c => (e.1, c.queue, c.seq))) } }

/-- The set-up of a partition differs between two manifests, or it becomes valid. -/
def State.setupChanged (s : State) (old new : Option (List Byte)) (p : Nat) : Bool :=
  (s.setupOf new p).valid && s.setupOf old p != s.setupOf new p

/-- Stage 1 at a re-seat or a restart (12 R534; 16 R706, R708, R718): the bank most recently staged starts, or the other where its svn is
now below the fused one; engine firmware comes with an image that this re-seat staged. With no bank to start, firmware is not changed. -/
def State.reseatImage (s : State) (fresh : Bool) : State :=
  match s.bootBank with
  | none => s
  | some b =>
    let img := s.imageIn b
    let s := if fresh && b == s.flash.staged then s.stageEngines img else s
    (s.deriveIdentity img).set Fld.RIM_STATUS_bank 0 b

/-- Stages 2 and 4 at a re-seat with a manifest (16 R710, R714; 12 R556): drained partitions are changed, and those with lid bit 0 lose the
keys of their old range and take a fresh memory key. -/
def State.reseatManifest (s : State) (m : List Byte) : State :=
  let changed := (List.range 32).filter (fun p => s.setupChanged s.manifest (some m) p && !(manifestPart m p).lid)
  let oldRanges := changed.flatMap s.keyRange
  let s := { s.applyManifest (some m) with flash := { s.flash with manifest := some m } }
  let s := (oldRanges.foldl State.zeroSlot s).loadMemoryKeys changed
  { s with run := { s.run with rimOnly := false } }

/-- What the boot ROM finds wrong with a re-seat that rim firmware accepted: 8 where the image it staged may no longer start, else what is
wrong with its manifest now; 0 where nothing is (12 R534; 16 R710; log entry 205). -/
def State.reseatWrong (s : State) (r : Reseat) : Nat :=
  let img := if r.image.isSome && s.bootBank != some s.flash.staged then 8 else 0
  if img ≠ 0 then img else (r.manifest.map (fun m => s.manifestError s.fuses.secret m true)).getD 0

/-- The boot ROM at a re-seat (16 R706, R714, R717; 12 R550, R552, R556): keys are encoded anew, an image starts, and a new manifest that is
not refused is applied. -/
def State.reseatBoot (s : State) (r : Reseat) : State :=
  let s := s.remask
  let ok := (r.manifest.map (fun m => s.manifestError s.fuses.secret m true == 0)).getD false
  let s := s.reseatImage r.image.isSome
  let s := match r.manifest with
    | some m => if ok then s.reseatManifest m else s
    | none => s
  let s := s.loadOwner.expireSlots
  s.setAll 0 [(Fld.RIM_STATUS_mode, if s.run.rimOnly then 2 else 1), (Fld.RIM_STATUS_stage, 5)]

/-! ## Re-seat (16 R715 to R718) -/

/-- Bytes of partition 0's host space: the memory behind link 0. -/
def State.hostBytes (s : State) (link addr n : Nat) : List Byte := s.tier4.read (2 ^ 64 * link + addr) n

/-- A link carries DMA for a function now: it is active and bus mastering is enabled (11 R510, R523). -/
def State.canMaster (s : State) (fn : Nat) : Bool := s.linkUp (s.fnLink fn) && s.mayMaster fn

/-- The firmware image at an address, or the error: 7 its header or signature, 8 its svn (16 R707; 12 R534). -/
def State.fetchImage (s : State) (addr : Nat) : Image ⊕ Nat :=
  let h := s.hostBytes 0 addr 256
  let body := s.hostBytes 0 (addr + 256) (fieldAt h 6 4)
  let digest := (h.drop 10).take 64
  if fieldAt h 0 4 ≠ 0x46524B51 ∨ sha512 body ≠ digest ∨
      !ecdsaVerify (some s.flash.key) (sha512 (h.take 74 ++ h.drop 206)) ((h.drop 74).take 132) then .inr 7
  else if fieldAt h 4 2 < s.fuses.svn then .inr 8
  else .inl { svn := fieldAt h 4 2, digest := BitVec.ofNat 512 (beNat digest) }

/-- A firmware image goes to the idle bank, which is now the one most recently staged (16 R708, Table 6 step 2). -/
def State.stageImage (s : State) (img : Option Image) : State :=
  match img with
  | none => s
  | some i =>
    let idle := 1 - s.get Fld.RIM_STATUS_bank 0
    { s with flash := { s.flash with
        bank0 := if idle = 0 then some i else s.flash.bank0, bank1 := if idle = 0 then s.flash.bank1 else some i, staged := idle } }

/-- A refused re-seat. -/
def State.reseatError (s : State) (code : Nat) : State :=
  s.setAll 0 [(Fld.RIM_RESEAT_CMD_error, 1), (Fld.RIM_RESEAT_CMD_err_code, code)]

/-- A re-seat is refused while a plait load is in FETCH to COMMIT, a removal runs, or another re-seat or restart does (R716). -/
def State.reseatBusy (s : State) : Bool :=
  let st := s.get Fld.RIM_PLAIT_STATUS_state 0
  s.run.reseat.isSome || s.run.restartDue || (decide (1 ≤ st) && decide (st ≤ 5)) ||
  s.partitions.any (fun p => s.get Fld.LID_PART_state p == 3 || s.get Fld.LID_PART_state p == 4)

/-- A re-seat that has been verified waits for the boot ROM (16 R708, R716). -/
def State.beginReseat (s : State) (r : Reseat) : State :=
  let s := s.stageImage r.image
  { s with run := { s.run with reseat := some r } }.setAll 0 [(Fld.RIM_RESEAT_CMD_busy, 1), (Fld.RIM_STATUS_mode, 3)]

/-- Starts a re-seat with op `op` (16 R715, R716): it is fetched and verified, its image staged, and then it waits for the boot ROM. -/
def State.reseatGo (s : State) (op : Nat) (a : Agent) (v : Nat) : State :=
  if !s.fromPf a || s.run.phase != .running || bitsOf v 0 2 != op then s
  else if s.run.restartDue then s
  else
    let s := s.writeReg Fld.RIM_RESEAT_CMD_op.reg 0 v
    let addr := s.get Fld.RIM_RESEAT_ADDR_LO_addr_lo 0 * 64 + 2 ^ 32 * s.get Fld.RIM_RESEAT_ADDR_HI_addr_hi 0
    if !bitOf v 2 then s
    else if s.reseatBusy then s.reseatError 9
    else if !s.canMaster 0 then s.reseatError 1
    else
      let m := s.hostBytes 0 addr 4224
      let merr := if op = 2 then 0 else s.manifestError s.ownerKey m true
      if merr ≠ 0 then s.reseatError merr
      else
        let img := s.fetchImage (if op = 2 then addr else (addr / 65536 + 1) * 65536)
        let go := fun (i : Option Image) => s.beginReseat { manifest := if op = 2 then none else some m, image := i }
        if op = 1 then go none
        else match img with
          | .inr e => s.reseatError e
          | .inl i => go (some i)

/-- RIM_RESEAT_CMD with op 1 (16 R715). -/
def execReseatManifest (a : Agent) (v : Word32) (s : State) : Out := .next (s.reseatGo 1 a v.toNat)

/-- RIM_RESEAT_CMD with op 2. -/
def execReseatFirmware (a : Agent) (v : Word32) (s : State) : Out := .next (s.reseatGo 2 a v.toNat)

/-- RIM_RESEAT_CMD with op 3. -/
def execReseatBoth (a : Agent) (v : Word32) (s : State) : Out := .next (s.reseatGo 3 a v.toNat)

/-- Reaching DONE or FAILED raises the plait-load event where it is enabled (07 R326). -/
def State.plaitEvent (s : State) : State := if s.flag Fld.RIM_PLAIT_STATUS_done_event_en 0 then s.report 0x40 0 0 else s

/-- A rim restart has run: FC registers, its event, and a plait load in FETCH or CHECK ends FAILED with code 0 (14 R657 to
R659). -/
def State.restartDone (s : State) : State :=
  let s := { s with run := { s.run with restartDue := false } }
  let s := s.setAll 0 [(Fld.FC_RIM_RESTART_busy, 0), (Fld.FC_RIM_RESTART_done, 1)]
  let s := s.count Fld.FC_RESTART_COUNT_count 0 Fld.FC_STATUS_wrap 0 0
  let st := s.get Fld.RIM_PLAIT_STATUS_state 0
  let s := if st = 1 ∨ st = 2 then
    (s.setAll 0 [(Fld.RIM_PLAIT_STATUS_state, 7), (Fld.RIM_PLAIT_STATUS_failed, 1), (Fld.RIM_PLAIT_ERR_code, 0)]).plaitEvent else s
  s.report 0x47 0 0

/-! ## SPDM (12 R537 to R540) -/

/-- The rim answers SPDM while its firmware runs. -/
def State.rimServes (s : State) : Bool := s.run.phase == .running && !s.run.restartDue

/-- Sends an SPDM answer. -/
def State.spdm (s : State) (d : List Byte) : State := if s.rimServes then s.emit (.spdm d) else s

/-- The certificate chain of slot 0: DeviceID, then alias (12 R537). -/
def State.aliasChain (s : State) : List Byte := s.flash.deviceCert ++ s.ident.aliasCert

/-- The capabilities of Table 3 of 12 as SPDM's flags: CERT, CHAL, MEAS with signature, MEAS_FRESH, ENCRYPT, MAC, MUT_AUTH, KEY_EX, HBEAT,
KEY_UPD and CHUNK (12 R539; the bits PRESUMED, log entry 44). -/
def spdmCapabilities : Nat := 0x263F6

/-- SPDM_REQUEST (12 R537, R539): GET_CAPABILITIES is answered with the capabilities of Table 3, GET_CERTIFICATE with the chain of slot 0, and
GET_DIGESTS with its digest, slot 0 alone provisioned; a request that names another slot is answered with ERROR InvalidRequest, and
PSK_EXCHANGE, PSK_FINISH, SET_CERTIFICATE and GET_CSR, which the module does not support, with ERROR UnsupportedRequest; any other has
the answer of its code. The codes are SPDM 1.3's (PRESUMED, log entry 44). -/
def execSpdmRequest (r : SpdmRequest) (s : State) : Out :=
  let c := r.code.toNat
  let d :=
    if c = 0xE1 then [0x13, 0x61] ++ leBytes 4 spdmCapabilities
    else if (c = 0x82 ∨ c = 0x83) ∧ r.slot ≠ 0 then [0x13, 0x7F, 0x01, 0x00]
    else if c = 0x82 then [0x13, 0x02] ++ s.aliasChain
    else if c = 0x81 then [0x13, 0x01, 0x01] ++ sha512 s.aliasChain
    else if c = 0xE6 ∨ c = 0xE7 ∨ c = 0xEE ∨ c = 0xED ∨ c < 0x80 then [0x13, 0x7F, 0x07, r.code]
    else [0x13, r.code &&& 0x7F]
  .next (s.spdm d)

/-- The algorithms of Table 3 of 12, as SPDM's selections of MeasurementHashAlgo, BaseAsymAlgo, BaseHashAlgo, DHE and AEAD (12 R539; the bits
PRESUMED, log entry 44). -/
def spdmAlgorithms : List Byte := leBytes 4 8 ++ leBytes 4 0x100 ++ leBytes 4 4 ++ leBytes 2 0x20 ++ leBytes 2 2

/-- NEGOTIATE_ALGORITHMS (12 R539): each field must offer the one algorithm of Table 3, which is selected; otherwise ERROR Unspecified. -/
def execNegotiateAlgorithms (p521 sha512 secp521r1 aes256gcm : Bool) (s : State) : Out :=
  .next (s.spdm (if p521 && sha512 && secp521r1 && aes256gcm then [0x13, 0x63] ++ spdmAlgorithms else [0x13, 0x7F, 0x05, 0x00]))

/-- The default manifest's bytes, for measurement (16 R709, R711). -/
def State.manifestBytes (s : State) : List Byte :=
  match s.manifest with
  | some m => m
  | none =>
    let u := s.defaultPart 0
    leBytes 4 0x4D504B51 ++ leBytes 2 1 ++ List.replicate 58 0 ++ [1, 33] ++ leBytes 2 223 ++ leBytes 2 0xFFFF ++
      List.replicate 26 0 ++ leBytes 32 u.carve ++ List.replicate (64 + 31 * 128 + 64) 0

/-- The facts of partition `p`'s protection set-up. -/
def State.setupFacts (s : State) (p : Nat) : List Nat :=
  (List.range 8).map (fun i => s.get Fld.HI_CARVE_MAP_channels (p * 8 + i)) ++
  [s.memSlot p, s.get Fld.HI_KEYSLOT_count p, s.get Fld.HI_LABELS_labels p, s.get Fld.HI_PART_PORTS_ports p,
   s.get Fld.HI_PART_ID_lid p, s.get Fld.LID_PART_sidecar_en p]

/-- The digest of a measurement block (12 R540): the manifest's is of its bytes; where the spec gives no encoding of what
is measured, the digest is a free function of the facts (log entry 42). -/
def State.measure (s : State) (i : Nat) : Option (BitVec 512) :=
  if i = 1 then some Config.bootRomDigest
  else if i = 2 then some s.ident.image.digest
  else if i = 3 then some s.engineFirmware
  else if i = 4 then some (Config.measurement 4 (s.fuses.svn :: Config.debugFuses :: s.fuses.owner.map (fun e => bit e.programmed + 2 * bit e.retired)))
  else if i = 5 then some (sha512Nat s.manifestBytes)
  else if i = 6 then some (Config.measurement 6 (bit s.confMode :: (List.range 32).map (fun p => s.get Fld.HI_PART_ID_lid p)))
  else if 0x10 ≤ i ∧ i < 0x30 then some (Config.measurement i (s.setupFacts (i - 0x10)))
  else none

/-- The indices of the measurement blocks. -/
def measureIndices : List Nat := [1, 2, 3, 4, 5, 6] ++ (List.range 32).map (· + 0x10)

/-- A measurement block in DMTF measurement format: index, specification, size, the kind of value (0 immutable ROM, 1 firmware, 2 hardware
configuration, 3 firmware configuration), its size and the digest (12 R540; the layout PRESUMED, log entry 44). -/
def measureBlock (i : Nat) (d : BitVec 512) : List Byte :=
  let kind := if i = 1 then 0 else if i < 4 then 1 else if i = 4 then 2 else 3
  leBytes 1 i ++ [1] ++ leBytes 2 67 ++ leBytes 1 kind ++ leBytes 2 64 ++ bytes512 d

/-- GET_MEASUREMENTS (12 R540): one block, all blocks at index 0xFF, or their number at index 0. -/
def execGetMeasurements (index : BitVec 8) (s : State) : Out :=
  let i := index.toNat
  let head : List Byte := [0x13, 0x60]
  if i = 0 then .next (s.spdm (head ++ [BitVec.ofNat 8 measureIndices.length]))
  else if i = 0xFF then
    .next (s.spdm (head ++ measureIndices.flatMap (fun k => measureBlock k ((s.measure k).getD 0))))
  else match s.measure i with
    | some d => .next (s.spdm (head ++ measureBlock i d))
    | none => .next (s.spdm [0x13, 0x7F, 0x01, 0x00])

/-- GET_BINDING (12 R538): the DeviceID certificate, then the binding certificate. -/
def execGetBinding (s : State) : Out := .next (s.spdm (s.flash.deviceCert ++ s.ident.bindingCert))

end Sys2Proof.Machine
end

