-- ==== Sys2Proof/Machine/PlaitCheck.lean ====
section
/-! DEFINITION. Reading and checking a plait (07 R298 to R305, R319; 12 R555, R566). A problem is the byte offset of the
offending field and its code of 07 Table 4; the problem at the lowest offset is the first in record order. -/

namespace Sys2Proof.Machine

/-- A record of a plait: where it begins, its type and its bytes, header included. -/
structure Rec where
  off : Nat
  ty : Nat
  bytes : List Byte
  deriving DecidableEq, Repr

/-- A problem: offset, code. -/
abbrev Problem := Nat × Nat

/-- The problem `(off, code)` where `bad` holds. -/
def problem (bad : Bool) (off code : Nat) : List Problem := if bad then [(off, code)] else []

/-- Bits of a record: `n` bytes at `o`, of them `w` bits from bit `lo`. -/
def Rec.field (r : Rec) (o n lo w : Nat) : Nat := bitsOf (fieldAt r.bytes o n) lo w

/-- The length 07 Table 3 gives a type: none where the type is reserved; ROUTES takes any 8 + 24·n. -/
def recLength (ty len : Nat) : Option Nat :=
  if ty = 1 then some 32 else if ty = 2 then some 24 else if ty = 3 then some 16 else if ty = 4 then some 40
  else if ty = 5 then some 56 else if ty = 6 then some 40 else if ty = 7 then some 264 else if ty = 8 then some 24
  else if ty = 9 then some (if len % 24 = 8 ∧ 32 ≤ len ∧ len ≤ 8 + 24 * 16383 then len else 32)
  else if ty = 0xA then some 24 else if ty = 0xB then some 16 else if ty = 0xC then some 56 else if ty = 0xD then some 16
  else if ty = 0xE then some 72 else if ty = 0xF then some 152 else if ty = 0xFF then some 72 else none

/-- Cuts bytes into at most `n` records; a record whose length is not its type's ends the walk with a problem, and so does one that
total_len cuts off. -/
def walk : Nat → Nat → List Byte → List Rec × List Problem
  | 0, off, _ => ([], [(off, 5)])
  | n + 1, off, bs =>
    if bs.isEmpty then ([], [])
    else if bs.length < 8 then ([], [(0x14, 2)])
    else
      let ty := fieldAt bs 0 2
      let len := fieldAt bs 4 4
      if fieldAt bs 2 2 ≠ 0 then ([], [(off + 2, 5)])
      else if recLength ty len = none then ([], [(off, 5)])
      else if recLength ty len ≠ some len then ([], [(off + 4, 5)])
      else if bs.length < len then ([], [(0x14, 2)])
      else
        let r : Rec := { off := off, ty := ty, bytes := bs.take len }
        if ty = 0xFF then ([r], if bs.length = len then [] else [(0x14, 2)])
        else
          let (rs, ps) := walk n (off + len) (bs.drop len)
          (r :: rs, ps)

/-- Cuts the records before TRAILER into sections, each from its BASKET_BEGIN; records before the first are a section of
their own, which the order check refuses. -/
def sectionsOf : List Rec → List (List Rec)
  | [] => []
  | r :: rs =>
    match sectionsOf rs with
    | [] => [[r]]
    | g :: gs => if (g.headD r).ty = 1 then [r] :: g :: gs else (r :: g) :: gs

/-- The reserved bytes and values of a record that are not what the table allows (07 R299, R300): code 5. -/
def Rec.encoding (r : Rec) : List Problem :=
  let z := fun o n => problem (fieldAt r.bytes o n != 0) (r.off + o) 5
  let zb := fun o n lo w => problem (bitsOf (fieldAt r.bytes o n) lo w != 0) (r.off + o) 5
  if r.ty = 1 then zb 8 1 6 2 ++ zb 9 1 6 2 ++ z 0xA 2 ++ problem (fieldAt r.bytes 0x10 8 == 0) (r.off + 0x10) 5 ++ z 0x1C 4
  else if r.ty = 2 then
    let m := r.field 8 2 0 15
    zb 8 2 15 1 ++ problem (m == 0 || decide (16384 < m)) (r.off + 8) 5 ++ zb 0xA 2 14 2 ++
    problem (decide (m ≤ r.field 0xA 2 0 14)) (r.off + 0xA) 5 ++ z 0xD 3 ++ z 0x14 4
  else if r.ty = 3 then
    let c := r.field 0xC 2 0 9
    zb 8 2 14 2 ++ zb 0xA 2 14 2 ++ zb 0xC 2 9 7 ++ problem (c == 0 || decide (256 < c)) (r.off + 0xC) 5 ++ z 0xE 2
  else if r.ty = 5 then
    let base := r.field 0xC 1 0 5
    let len := r.field 0xD 1 0 6
    zb 8 2 11 5 ++ problem (fieldAt r.bytes 0xA 2 == 0) (r.off + 0xA) 5 ++ zb 0xC 1 5 3 ++ zb 0xD 1 6 2 ++
    problem (len == 0 || decide (32 < base + len)) (r.off + 0xD) 5 ++ zb 0xE 1 4 4 ++ z 0xF 1 ++ z 0x30 8
  else if r.ty = 8 then z 0x12 6
  else if r.ty = 9 then
    (List.range (r.bytes.length / 24)).flatMap (fun i =>
      let o := 8 + 24 * i
      let h := r.field (o + 2) 1 0 2
      zb o 2 14 2 ++ problem (h == 0) (r.off + o + 2) 5 ++ zb (o + 2) 1 2 6 ++ z (o + 3) 5 ++ z (o + 18) 6)
  else if r.ty = 0xA then
    let d := r.field 0xD 1 0 5
    zb 8 2 10 6 ++ zb 0xA 2 11 5 ++ zb 0xC 1 1 7 ++ zb 0xD 1 5 3 ++
    problem (decide (d < 6) || decide (20 < d)) (r.off + 0xD) 5 ++ z 0xE 2 ++
    problem (r.field 0x10 7 0 56 % 64 != 0) (r.off + 0x10) 5 ++ z 0x17 1
  else if r.ty = 0xB then z 0xA 6
  else if r.ty = 0xC then
    problem (r.field 8 7 0 56 % 65536 != 0) (r.off + 8) 5 ++ z 0xF 1 ++ z 0x13 1 ++
    problem (decide (r.field 0x10 3 0 24 < r.field 0x14 3 0 24)) (r.off + 0x14) 5 ++ z 0x17 1 ++
    problem (r.field 0x18 7 0 56 % 64 != 0) (r.off + 0x18) 5 ++ z 0x1F 1 ++
    problem (fieldAt r.bytes 0x20 3 == 0) (r.off + 0x20) 5 ++ z 0x23 5 ++
    problem (r.field 0x28 7 0 56 % 64 != 0) (r.off + 0x28) 5 ++ z 0x2F 1 ++
    problem (fieldAt r.bytes 0x30 4 == 0) (r.off + 0x30) 5 ++ z 0x34 4
  else if r.ty = 0xD then z 0xD 3
  else if r.ty = 0xF then zb 8 1 2 6 ++ z 9 7 ++ z 0x94 4
  else []

/-- The section a run of records spells. -/
def sectionOf (rs : List Rec) : Section :=
  let one := fun ty => (rs.find? (fun r => r.ty == ty)).getD { off := 0, ty := ty, bytes := [] }
  let all := fun ty => rs.filter (fun r => r.ty == ty)
  let b := one 1
  let sh := one 2
  { basket := b.field 8 1 0 6, part := b.field 9 1 0 5, lid := b.field 9 1 5 1 == 1, gen := b.field 0xC 4 0 32,
    uid := b.field 0x10 8 0 64, shapeGen := b.field 0x18 4 0 32, members := sh.field 8 2 0 15, ordinal := sh.field 0xA 2 0 14,
    profile := sh.field 0xC 1 0 8, logical := sh.field 0x10 4 0 32,
    memberList := (all 3).map (fun r => (r.field 8 2 0 14, r.field 0xA 2 0 14, r.field 0xC 2 0 9)),
    cores := (one 4).field 8 32 0 256, channels := (one 6).field 8 32 0 256,
    segments := (List.range 32).map (fun r => (one 7).field (8 + 8 * r) 8 0 64), ports := (one 8).field 8 10 0 80,
    labels := (one 0xB).field 8 2 0 16, root := (one 0xD).field 8 8 0 64,
    kv := ((rs.find? (fun r => r.ty == 0xC)).map (fun r =>
      { base := r.field 8 7 0 56, pages := r.field 0x10 3 0 24, quota := r.field 0x14 3 0 24, table := r.field 0x18 7 0 56,
        entries := r.field 0x20 3 0 24, list := r.field 0x28 7 0 56, slots := r.field 0x30 4 0 32 })),
    contexts := (all 5).map (fun r =>
      { ctx := r.field 8 2 0 11, share := r.field 0xA 2 0 16, base := r.field 0xC 1 0 5, len := r.field 0xD 1 0 6,
        label := r.field 0xE 1 0 4, cores := r.field 0x10 32 0 256 }),
    queues := (all 0xA).map (fun r =>
      { queue := r.field 8 2 0 10, ctx := r.field 0xA 2 0 11, kind := r.field 0xC 1 0 1, depth := r.field 0xD 1 0 5,
        ring := r.field 0x10 7 0 56 }),
    routes := (all 9).flatMap (fun r => (List.range (r.bytes.length / 24)).map (fun i =>
      (r.field (8 + 24 * i) 2 0 14, r.field (10 + 24 * i) 1 0 2, r.field (16 + 24 * i) 10 0 80))),
    digest := BitVec.ofNat 512 (beNat (((one 0xE).bytes.drop 8).take 64)),
    shape := sha512Nat (sh.bytes.take 0xA ++ [0, 0] ++ sh.bytes.drop 0xC ++ (all 3).flatMap Rec.bytes) }

/-- The place of a type in a section (07 R301). -/
def recRank (ty : Nat) : Nat :=
  if ty = 1 then 0 else if ty = 2 then 1 else if ty = 3 then 2 else if ty = 4 then 3 else if ty = 6 then 4 else if ty = 7 then 5
  else if ty = 8 then 6 else if ty = 0xB then 7 else if ty = 0xD then 8 else if ty = 0xC then 9 else if ty = 5 then 10
  else if ty = 0xA then 11 else if ty = 9 then 12 else if ty = 0xE then 13 else 14

/-- A type that may stand more than once in a section. -/
def recRepeats (ty : Nat) : Bool := ty == 3 || ty == 5 || ty == 0xA

/-- Breaks of the order of R301 between neighbours. -/
def orderProblems : List Rec → List Problem
  | a :: b :: rs =>
    problem (decide (recRank b.ty < recRank a.ty) || (a.ty == b.ty && !recRepeats a.ty)) b.off 5 ++ orderProblems (b :: rs)
  | _ => []

/-- Numbers strictly rise along a list of (offset, number): one out of order has code 5, one that stands there twice the given
code. -/
def risingProblems (twice : Nat) : List (Nat × Nat) → List Problem
  | a :: b :: l => problem (decide (b.2 < a.2)) b.1 5 ++ problem (a.2 == b.2) b.1 twice ++ risingProblems twice (b :: l)
  | _ => []

/-- A section holds what R301 asks, in its order. -/
def structureProblems (rs : List Rec) : List Problem :=
  let at0 := (rs.headD { off := 0, ty := 0, bytes := [] }).off
  let endOff := (rs.getLast?.map (fun r => r.off)).getD at0
  let c := fun ty => (rs.filter (fun r => r.ty == ty)).length
  let sec := sectionOf rs
  let nums := fun ty w => (rs.filter (fun r => r.ty == ty)).map (fun r => (r.off + 8, r.field 8 2 0 w))
  orderProblems rs ++ problem (rs.any (fun r => r.ty == 0xFF) || (rs.headD { off := 0, ty := 0, bytes := [] }).ty != 1) at0 5 ++
  ([2, 4, 6, 7, 8, 0xB, 0xD, 0xE].flatMap (fun ty => problem (c ty == 0) endOff 5)) ++
  problem (c 5 == 0) endOff 5 ++
  problem ((c 9 != 0) != decide (1 < sec.members)) endOff 5 ++
  problem (!sec.lid && c 0xF != 0) endOff 5 ++ risingProblems 5 (nums 3 14) ++ risingProblems 7 (nums 5 11) ++ risingProblems 7 (nums 0xA 10)

/-- The bytes a section's digest covers. -/
def digestBytes (rs : List Rec) : List Byte := (rs.filter (fun r => r.ty != 0xE && r.ty != 0xF && r.ty != 0xFF)).flatMap Rec.bytes

/-- Bits set in a mask of `n` bits. -/
def maskCount (n m : Nat) : Nat := ((List.range n).filter (fun k => bitOf m k)).length

/-- The numbers a mask of `n` bits names. -/
def maskList (n m : Nat) : List Nat := (List.range n).filter (fun k => bitOf m k)

/-- Where a section's record of a type begins. -/
def offOf (rs : List Rec) (ty : Nat) : Nat := ((rs.find? (fun r => r.ty == ty)).map Rec.off).getD 0

/-- A plait-verification key of a partition's lid: 133 bytes, all zero where none is installed (12 R563). -/
def keyInstalled (k : List Byte) : Bool := k.any (fun b => b != 0)

/-- The section the active plait binds at a basket index, when one does. -/
def State.activeSection (s : State) (b : Nat) : Option Section :=
  if s.get Fld.CAP_BASKET_state b = 0 then none else some (s.pieceAt b).sec

/-- Where the KV_POOL of a section stands or, where it has none, would stand: the record after XLATE is the first CONTEXT. The spec names
no offending field for a record that a new section leaves out (DESIGN CHOICE, log entry 175). -/
def kvOff (rs : List Rec) : Nat := if rs.any (fun r => r.ty == 0xC) then offOf rs 0xC else offOf rs 5

/-- Changes of a KV_POOL record other than of its quota, each at its field; a record added or left out is a change at its base. -/
def kvProblems (rs : List Rec) (old new : Option KvRec) : List Problem :=
  let p := fun (bad : Bool) (o : Nat) => problem bad (kvOff rs + o) 0xC
  match old, new with
  | none, none => []
  | some k, some l =>
    p (k.base != l.base) 8 ++ p (k.pages != l.pages) 0x10 ++ p (k.table != l.table) 0x18 ++ p (k.entries != l.entries) 0x20 ++
    p (k.list != l.list) 0x28 ++ p (k.slots != l.slots) 0x30
  | some _, none => p true 0
  | none, some _ => p true 8

/-- Checks of one changed section against codes 0x06 to 0x0D (07 R303). `keys` are its partition's plait keys. -/
def State.sectionProblems (s : State) (keys : List (List Byte)) (rs : List Rec) (x : Section) : List Problem :=
  let p := x.part
  let o := offOf rs
  let present := fun f (k : Nat) => bitOf (s.get f (k / 32)) (k % 32)
  let old := s.activeSection x.basket
  -- 0x0D, 0x0C, 0x0A at BASKET_BEGIN
  (match old with
   | some y =>
     problem (y.uid != x.uid || (s.pieceAt x.basket).leaving) (o 1 + 8) 0xD ++
     problem (y.part != x.part || y.lid != x.lid) (o 1 + 9) 0xC ++
     problem (x.lid && decide (x.gen ≤ y.gen)) (o 1 + 0xC) 0xA ++
     problem (y.root != x.root) (o 0xD + 8) 0xC ++
     kvProblems rs y.kv x.kv
   | none => []) ++
  -- 0x06: partition, lid state and memory key
  problem (!s.partitions.contains p || s.underLid p != x.lid || (x.lid && s.get Fld.LID_PART_state p != 2) ||
    s.get Fld.HI_KEYSLOT_count p == 0 || (s.memoryKey (s.memSlot p)).isNone) (o 1 + 9) 6 ++
  -- 0x0B: shape
  problem (x.memberList.length != x.members) (o 2 + 8) 0xB ++
  problem (x.profile != s.get Fld.CAP_VERSION_profile 0) (o 2 + 0xC) 0xB ++
  problem (x.logical != (x.memberList.map (fun m => m.2.2)).sum) (o 2 + 0x10) 0xB ++
  (match rs.find? (fun r => r.ty == 3 && r.field 8 2 0 14 == x.ordinal) with
   | none => problem true (o 2 + 0xA) 0xB
   | some r => problem (r.field 0xA 2 0 14 != s.get Fld.CAP_MODULE_module 0) (r.off + 0xA) 0xB ++
     problem (r.field 0xC 2 0 9 != maskCount 256 x.cores) (r.off + 0xC) 0xB) ++
  -- 0x08: absent resources
  problem ((maskList 256 x.cores).any (fun k => !present Fld.CAP_CORE_MAP_present k)) (o 4 + 8) 8 ++
  problem ((maskList 256 x.channels).any (fun k => !present Fld.CAP_CHAN_MAP_present k)) (o 6 + 8) 8 ++
  problem ((maskList 256 x.channels).any (fun k => !s.inCarve p k)) (o 6 + 8) 6 ++
  (List.range 32).flatMap (fun r => problem (x.segments.getD r 0 != 0 &&
    (List.range 8).all (fun l => !s.corePresent (r * 8 + l))) (o 7 + 8 + 8 * r) 8) ++
  problem ((maskList 80 x.ports).any (fun k => !present Fld.CAP_PORT_MAP_present k)) (o 8 + 8) 8 ++
  problem (x.labels &&& s.get Fld.HI_LABELS_labels p != x.labels) (o 0xB + 8) 6 ++
  -- contexts, queues and routes
  (rs.filter (fun r => r.ty == 5)).flatMap (fun r =>
    problem (r.field 0x10 32 0 256 &&& x.cores != r.field 0x10 32 0 256) (r.off + 0x10) 5 ++
    problem (!bitOf x.labels (r.field 0xE 1 0 4)) (r.off + 0xE) 6) ++
  (rs.filter (fun r => r.ty == 0xA)).flatMap (fun r =>
    problem (!x.contexts.any (fun c => c.ctx == r.field 0xA 2 0 11)) (r.off + 0xA) 7 ++
    problem (decide (1 < (x.queues.filter (fun q => q.ctx == r.field 0xA 2 0 11 && q.kind == r.field 0xC 1 0 1)).length))
      (r.off + 0xA) 7) ++
  x.routes.zipIdx.flatMap (fun e => problem (e.1.2.2 &&& x.ports != e.1.2.2) (o 9 + 16 + 24 * e.2) 5) ++
  -- 0x09: signature
  (match rs.find? (fun r => r.ty == 0xF) with
   | some r =>
     let k := keys.getD (r.field 8 1 0 2) []
     problem (!keyInstalled k || !ecdsaVerify (pointOf k) (sha512 (bytes512 x.digest)) ((r.bytes.drop 0x10).take 132)) (r.off + 8) 9
   | none => problem x.lid (offOf rs 0xE) 9)

/-- Conflicts between sections (07 R296, R297, R305): a core's slots of two partitions, more than 8, or overlapping slices;
a channel, segment, queue or context used twice; a segment another piece still holds. The slots of leaving
pieces count. -/
def State.conflictProblems (s : State) (all : List Section) (rs : List Rec) (x : Section) : List Problem :=
  let o := offOf rs
  let others := all.filter (fun y => y.basket != x.basket)
  let leavers := (s.pieces.filter (fun e => e.2.leaving)).map (fun e => e.2.sec)
  let slots := (others ++ leavers).flatMap (fun y => y.contexts.map (fun c => (y.part, c)))
  let own := x.contexts.map (fun c => (x.part, c))
  problem (others.any (fun y => y.channels &&& x.channels != 0)) (o 6 + 8) 7 ++
  (List.range 32).flatMap (fun r =>
    let mine := x.segments.getD r 0
    problem (others.any (fun y => y.segments.getD r 0 &&& mine != 0)) (o 7 + 8 + 8 * r) 7 ++
    problem (s.pieces.any (fun e => e.1 != x.basket && e.2.sec.segments.getD r 0 &&& mine &&&
      (2 ^ 64 - 1 - ((s.activeSection x.basket).map (fun y => y.segments.getD r 0)).getD 0) != 0)) (o 7 + 8 + 8 * r) 7) ++
  (rs.filter (fun r => r.ty == 5)).flatMap (fun r =>
    let c := r.field 8 2 0 11
    let me := own.filter (fun e => e.2.ctx == c)
    problem (slots.any (fun e => e.2.ctx == c)) (r.off + 8) 7 ++
    problem ((maskList 256 (r.field 0x10 32 0 256)).any (fun k =>
      let on := (slots ++ own).filter (fun e => bitOf e.2.cores k)
      decide (8 < on.length) || on.any (fun e => e.1 != x.part) ||
      me.any (fun m => on.any (fun e => e.2.ctx != c && decide (e.2.base < m.2.base + m.2.len) &&
        decide (m.2.base < e.2.base + e.2.len))))) (r.off + 0x10) 7) ++
  (rs.filter (fun r => r.ty == 0xA)).flatMap (fun r =>
    problem (others.any (fun y => y.queues.any (fun q => q.queue == r.field 8 2 0 10))) (r.off + 8) 7)

/-- Problems of the header (07 R298, R303). -/
def State.headerProblems (s : State) (bs : List Byte) : List Problem :=
  let z := fun o n => problem (fieldAt bs o n != 0) o 2
  problem (fieldAt bs 0 4 != 0x4C504B51) 0 2 ++ problem (fieldAt bs 4 2 != 1) 4 2 ++ z 6 2 ++
  problem (fieldAt bs 8 8 != (s.get64 Fld.RIM_PLAIT_GEN_LO_gen_lo Fld.RIM_PLAIT_GEN_HI_gen_hi 0 + 1) % 2 ^ 64) 8 4 ++
  problem (fieldAt bs 0x10 2 != s.get Fld.CAP_MODULE_module 0) 0x10 2 ++
  problem (bitsOf (fieldAt bs 0x12 1) 7 1 != 0 || decide (64 < fieldAt bs 0x12 1 % 128)) 0x12 2 ++ z 0x13 1 ++
  problem (fieldAt bs 0x14 4 % 8 != 0) 0x14 2 ++ z 0x18 40

/-- The sections of a plait, in order, and the first problem in record order, if there is one. A section the walk broke off in is
held to the order of its records alone; a check of a record that is missing says nothing. -/
def State.checkPlait (s : State) (keysOf : Nat → List (List Byte)) (bs : List Byte) : List Section × Option Problem :=
  let total := fieldAt bs 0x14 4
  let (rs, ps) := walk (total / 8) 64 (bs.drop 64)
  let body := rs.filter (fun r => r.ty != 0xFF)
  let groups := sectionsOf body
  let secs := groups.map sectionOf
  let whole := if ps.all (fun e => e.2 == 2) then groups else groups.dropLast
  let changed := (whole.zip secs).filter (fun e =>
    match s.activeSection e.2.basket with
    | some y => y.digest != e.2.digest
    | none => true)
  let trailer := rs.filter (fun r => r.ty == 0xFF)
  let endOff := total - 72
  let probs := s.headerProblems bs ++ ps ++ rs.flatMap Rec.encoding ++ groups.flatMap orderProblems ++ whole.flatMap structureProblems ++
    (if ps.isEmpty then problem (trailer.length != 1) endOff 5 ++ problem (groups.length != fieldAt bs 0x12 1 % 128) 0x12 2 else []) ++
    risingProblems 7 ((groups.zip secs).map (fun e => (offOf e.1 1 + 8, e.2.basket))) ++
    trailer.flatMap (fun r => problem (sha512 (bs.take r.off) != (r.bytes.drop 8).take 64) (r.off + 8) 3) ++
    ((whole.zip secs).flatMap (fun e => problem (sha512Nat (digestBytes e.1) != e.2.digest) (offOf e.1 0xE + 8) 3) ++
     changed.flatMap (fun e => s.sectionProblems (keysOf e.2.part) e.1 e.2 ++ s.conflictProblems secs e.1 e.2)).filter
      (fun e => decide (64 ≤ e.1))
  (secs, probs.foldl (fun m e => match m with
    | none => some e
    | some f => if e.1 < f.1 then some e else some f) none)

end Sys2Proof.Machine
end

