-- ==== Sys2Proof/Machine/Formats.lean ====
section
/-! DEFINITION. The numeric formats, their exact values and their conversions (chapter 02, R17 to R53, R723). -/

namespace Sys2Proof.Machine

/-- The exact value of a code: NaN, an infinity, or `± m · 2^e` (the sign of a zero is kept). -/
inductive Num where
  | nan
  | inf (neg : Bool)
  | fin (neg : Bool) (m : Nat) (e : Int)
  deriving DecidableEq, Repr

/-- A floating-point layout (02 R18, Table 2). `topNan`: E4M3, whose only NaN is S.1111.111; `canon` is the canonical NaN
(R20), when there is one. -/
structure FloatFmt where
  ebits : Nat
  mbits : Nat
  bias : Nat
  hasInf : Bool
  topNan : Bool
  canon : Option Nat
  deriving DecidableEq, Repr

/-- The layouts of the scalar formats 0x00 to 0x04 and of the MX elements 0x05 to 0x09. -/
def floatFmt (f : Nat) : FloatFmt :=
  if f = 0 then ⟨8, 23, 127, true, false, some 0x7FC00000⟩
  else if f = 1 then ⟨8, 7, 127, true, false, some 0x7FC0⟩
  else if f = 2 then ⟨5, 10, 15, true, false, some 0x7E00⟩
  else if f = 3 ∨ f = 5 then ⟨4, 3, 7, false, true, some 0x7F⟩
  else if f = 4 ∨ f = 6 then ⟨5, 2, 15, true, false, some 0x7E⟩
  else if f = 7 then ⟨3, 2, 3, false, false, none⟩
  else if f = 8 then ⟨2, 3, 1, false, false, none⟩
  else ⟨2, 1, 1, false, false, none⟩

/-- Element bits of a format (02 R17, Table 1). -/
def fmtBits (f : Nat) : Nat :=
  if f = 0 ∨ f = 14 then 32 else if f = 1 ∨ f = 2 then 16 else if f = 7 ∨ f = 8 then 6 else if f = 9 then 4
  else if f = 11 then 3 else if f = 12 ∨ f = 13 then 2 else if f = 15 then 128 else 8

/-- The MX formats: a scale byte for every 32 elements of a row. -/
def isMx (f : Nat) : Bool := decide (5 ≤ f) && decide (f ≤ 10)

def isSplint (f : Nat) : Bool := decide (11 ≤ f) && decide (f ≤ 13)

/-- Formats that carry a per-tensor scale (02 R25; 05 R194). -/
def hasTensorScale (f : Nat) : Bool := decide (1 ≤ f) && decide (f ≤ 4)

/-- The value of a floating-point code (02 R18, R19, R20). -/
def FloatFmt.value (f : FloatFmt) (c : Nat) : Num :=
  let neg := bitOf c (f.ebits + f.mbits)
  let ex := bitsOf c f.mbits f.ebits
  let mant := c % 2 ^ f.mbits
  if f.hasInf && ex == 2 ^ f.ebits - 1 then (if mant = 0 then .inf neg else .nan)
  else if f.topNan && ex == 2 ^ f.ebits - 1 && mant == 2 ^ f.mbits - 1 then .nan
  else if ex = 0 then .fin neg mant (1 - f.bias - f.mbits)
  else .fin neg (2 ^ f.mbits + mant) ((ex : Int) - f.bias - f.mbits)

/-- The value of an element code before any scale (02 R18, R23, R26 to R29). An invalid SPLT code reads as 0 in the matrix unit
(R29); that a conversion reads it so too, and counts nothing, is a DESIGN CHOICE (log entry 162). -/
def elemValue (f c : Nat) : Num :=
  if f = 10 then (if bitOf c 7 then .fin true (256 - c % 256) (-6) else .fin false c (-6))
  else if f = 11 then .fin (bitOf c 2) (2 * (c % 4) + 1) (-1)
  else if f = 12 then (if c = 0 then .fin true 3 (-1) else if c = 1 then .fin true 1 (-1) else .fin false (2 * c - 3) (-1))
  else if f = 13 then (if c = 1 then .fin false 1 0 else if c = 3 then .fin true 1 0 else .fin false 0 0)
  else (floatFmt f).value c

/-- A value times `2^k`. -/
def Num.scale (x : Num) (k : Int) : Num :=
  match x with
  | .fin n m e => .fin n m (e + k)
  | y => y

/-- An element under a scale byte: NaN under the NaN scale (02 R21, R24). -/
def scaled (x : Num) (sc : Nat) : Num := if sc = 0xFF then .nan else x.scale ((sc : Int) - 127)

def Num.isFin (x : Num) : Bool :=
  match x with
  | .fin _ _ _ => true
  | _ => false

def Num.isZero (x : Num) : Bool :=
  match x with
  | .fin _ m _ => m == 0
  | _ => false

def Num.neg (x : Num) : Bool :=
  match x with
  | .nan => false
  | .inf n => n
  | .fin n _ _ => n

/-! ## Rounding (02 R43 to R47) -/

/-- `m · 2^(e - l)` cut to an integer: toward zero, or to nearest with ties to even. -/
def cutTo (rtz : Bool) (m : Nat) (e l : Int) : Nat :=
  if l ≤ e then m * 2 ^ (e - l).toNat
  else
    let d := 2 ^ (l - e).toNat
    let q := m / d
    let r := m % d
    if rtz then q else if 2 * r > d || (2 * r == d && q % 2 == 1) then q + 1 else q

/-- The magnitude code of `m · 2^e` rounded with an unbounded exponent; subnormals keep the spacing of the smallest
normal (R19). Codes rise with magnitude. -/
def FloatFmt.roundMag (f : FloatFmt) (rtz : Bool) (m : Nat) (e : Int) : Nat :=
  if m = 0 then 0
  else
    let emin : Int := 1 - f.bias
    let top : Int := (Nat.log2 m : Int) + e
    let lsb : Int := max top emin - f.mbits
    let q := cutTo rtz m e lsb
    let (q, lsb) := if q = 2 ^ (f.mbits + 1) then (2 ^ f.mbits, lsb + 1) else (q, lsb)
    if q < 2 ^ f.mbits then q
    else (lsb + f.mbits + f.bias).toNat * 2 ^ f.mbits + (q - 2 ^ f.mbits)

/-- The code of the largest finite magnitude. -/
def FloatFmt.maxCode (f : FloatFmt) : Nat :=
  if f.hasInf then (2 ^ f.ebits - 1) * 2 ^ f.mbits - 1
  else if f.topNan then 2 ^ (f.ebits + f.mbits) - 2
  else 2 ^ (f.ebits + f.mbits) - 1

def FloatFmt.signBit (f : FloatFmt) (neg : Bool) : Nat := bit neg * 2 ^ (f.ebits + f.mbits)

def FloatFmt.infCode (f : FloatFmt) (neg : Bool) : Nat := f.signBit neg + (2 ^ f.ebits - 1) * 2 ^ f.mbits

/-- `m · 2^e` exceeds `m' · 2^e'`. -/
def magGt (m : Nat) (e : Int) (m' : Nat) (e' : Int) : Bool :=
  let l := min e e'
  decide (m * 2 ^ (e - l).toNat > m' * 2 ^ (e' - l).toNat)

/-- The exact magnitude of a finite code, as a pair. -/
def FloatFmt.mag (f : FloatFmt) (c : Nat) : Nat × Int :=
  match f.value c with
  | .fin _ m e => (m, e)
  | _ => (0, 0)

/-- The outcome of one converted element: its code, and whether it clipped or was non-finite. -/
structure Conv where
  code : Nat
  clip : Bool
  nonfinite : Bool
  deriving DecidableEq, Repr

/-- A conversion to a floating-point layout (02 R44, R46 to R49). Where a target has no NaN a NaN does not arise (R53). -/
def FloatFmt.convert (f : FloatFmt) (rtz sat : Bool) (x : Num) : Conv :=
  match x with
  | .nan => ⟨f.canon.getD 0, false, true⟩
  | .inf n =>
    if f.hasInf then ⟨f.infCode n, false, true⟩
    else if f.topNan && !sat then ⟨f.canon.getD 0, false, true⟩
    else ⟨f.signBit n + f.maxCode, false, true⟩
  | .fin n m e =>
    let big := f.mag f.maxCode
    let c := f.roundMag rtz m e
    if !magGt m e big.1 big.2 then ⟨f.signBit n + c, false, false⟩
    else if c ≤ f.maxCode || rtz || sat || (!f.hasInf && !f.topNan) then ⟨f.signBit n + f.maxCode, true, false⟩
    else if f.hasInf then ⟨f.infCode n, true, false⟩
    else ⟨f.canon.getD 0, true, false⟩

/-- Rounding of a vector result: RNE, overflow to infinity, canonical NaN (02 R20; 03 R112, R115). -/
def FloatFmt.result (f : FloatFmt) (x : Num) : Nat := (f.convert false false x).code

/-! ## Quantization to MX (02 R50 to R53) -/

/-- emax and max_elem (as `m · 2^e`) of an MX element format (02 Table 13). -/
def mxLimits (f : Nat) : Int × Nat × Int :=
  if f = 5 then (8, 448, 0) else if f = 6 then (15, 57344, 0) else if f = 7 then (4, 28, 0)
  else if f = 8 then (2, 15, -1) else if f = 9 then (2, 6, 0) else (0, 127, -6)

/-- The largest magnitude of finite values, as a pair. -/
def maxMag (xs : List Num) : Nat × Int :=
  xs.foldl (fun a x => match x with
    | .fin _ m e => if magGt m e a.1 a.2 then (m, e) else a
    | _ => a) (0, 0)

/-- The scale code of a block of finite values (02 R50, R51). -/
def mxScale (f : Nat) (fit : Bool) (xs : List Num) : Nat :=
  let (m, e) := maxMag xs
  if m = 0 then 0x7F
  else
    let (emax, bm, be) := mxLimits f
    let fl : Int := (Nat.log2 m : Int) + e
    let low : Int := fl - emax - 1
    let k : Int := if !fit then fl - emax
      else if !magGt m (e - low) bm be then low else if !magGt m (e - low - 1) bm be then low + 1 else low + 2
    (min 254 (max 0 (k + 127))).toNat

/-- One element of a quantized block, its scale divided out (02 R44 to R47, R53). -/
def mxElem (f : Nat) (rtz sat : Bool) (sc : Nat) (x : Num) : Conv :=
  let y := x.scale (127 - (sc : Int))
  if f = 10 then
    match y with
    | .fin n m e =>
      let q := cutTo rtz m e (-6)
      let big := magGt m e 127 (-6)
      let q := min q 127
      ⟨if n && q != 0 then 256 - q else q, big, false⟩
    | _ => ⟨0, false, true⟩
  else (floatFmt f).convert rtz sat y

/-- A quantized block: its scale, its codes with their clips, and whether it was non-finite. -/
structure MxBlock where
  scale : Nat
  elems : List Conv
  nonfinite : Bool
  deriving DecidableEq, Repr

/-- A block of values quantized to an MX format under cvt_ctl (02 R50 to R53). -/
def quantizeBlock (f cvt : Nat) (xs : List Num) : MxBlock :=
  if xs.any (fun x => !x.isFin) then
    { scale := 0xFF, elems := xs.map (fun _ => ⟨0, false, false⟩), nonfinite := true }
  else
    let sc := mxScale f (bitOf cvt 3) xs
    { scale := sc, elems := xs.map (mxElem f (bitOf cvt 0) (bitOf cvt 2) sc), nonfinite := false }

/-! ## What converts to what (02 R31, R43, R45) -/

/-- A cvt_ctl with a reserved rnd or a reserved bit. -/
def cvtBad (cvt : Nat) : Bool := decide (2 ≤ cvt % 4) || decide (16 ≤ cvt)

/-- A conversion is accepted. -/
def convertible (src dst : Nat) : Bool :=
  if src = dst then !isSplint src
  else if isSplint dst || src == 14 || dst == 14 || dst == 15 then false
  else if src = 15 then decide (dst ≤ 4)
  else if dst = 0 then true
  else if isMx dst then decide (src ≤ 2) || isMx src
  else decide (src ≤ 4)

/-- The elements of a conversion count as conversion elements (02 R723). A per-tensor scale can make a value of E4M3 or E5M2 too
large for BF16 or FP16, which R723 says cannot be: such a clip is counted by R46, with no element beside it (DESIGN CHOICE, log
entry 163). -/
def countsConversion (src dst : Nat) : Bool :=
  src != dst && !((src == 3 || src == 4) && (dst == 1 || dst == 2))

end Sys2Proof.Machine
end

