-- ==== Sys2Proof/Machine/Func.lean ====
section
/-! DEFINITION. Vector arithmetic and the correctly rounded functions (03 R109 to R116). The transcendental functions are
evaluated in fixed point with 640 fraction bits, far past the last bit any rounding depends on (log entry 60). -/

namespace Sys2Proof.Machine

/-! ## Exact arithmetic with one rounding (R115) -/

/-- A finite signed value `n · 2^e`. -/
def signed (neg : Bool) (m : Nat) : Int := if neg then -(m : Int) else m

/-- The exact sum of two finite values; an exact zero is −0 only when both are −0 (IEEE 754, RNE). -/
def addFin (n : Bool) (m : Nat) (e : Int) (n' : Bool) (m' : Nat) (e' : Int) : Num :=
  let l := min e e'
  let v := signed n (m * 2 ^ (e - l).toNat) + signed n' (m' * 2 ^ (e' - l).toNat)
  if v = 0 then .fin (n && n') 0 0 else .fin (decide (v < 0)) v.natAbs l

/-- The exact sum. -/
def Num.add (x y : Num) : Num :=
  match x, y with
  | .nan, _ => .nan
  | _, .nan => .nan
  | .inf n, .inf n' => if n = n' then .inf n else .nan
  | .inf n, _ => .inf n
  | _, .inf n => .inf n
  | .fin n m e, .fin n' m' e' => addFin n m e n' m' e'

/-- The exact product. -/
def Num.mul (x y : Num) : Num :=
  match x, y with
  | .nan, _ => .nan
  | _, .nan => .nan
  | .inf n, y => if y.isZero then .nan else .inf (n != y.neg)
  | x, .inf n => if x.isZero then .nan else .inf (x.neg != n)
  | .fin n m e, .fin n' m' e' => .fin (n != n') (m * m') (e + e')

/-- The negated value. -/
def Num.negate (x : Num) : Num :=
  match x with
  | .nan => .nan
  | .inf n => .inf (!n)
  | .fin n m e => .fin (!n) m e

/-- `x` is less than `y` in the order with −0 below +0; for numbers only (R116). -/
def Num.lt (x y : Num) : Bool :=
  match x, y with
  | .inf n, .inf n' => n && !n'
  | .inf n, _ => n
  | _, .inf n => !n
  | .fin n m e, .fin n' m' e' =>
    if n != n' then n
    else
      let l := min e e'
      let a := m * 2 ^ (e - l).toNat
      let b := m' * 2 ^ (e' - l).toNat
      if n then decide (b < a) else decide (a < b)
  | _, _ => false

/-- The order-free maximum (R116). -/
def Num.max (x y : Num) : Num := if x = .nan ∨ y = .nan then .nan else if x.lt y then y else x

/-- The order-free minimum (R116). -/
def Num.min (x y : Num) : Num := if x = .nan ∨ y = .nan then .nan else if y.lt x then y else x

/-! ## Fixed point -/

/-- Fraction bits. -/
def fracBits : Nat := 640

/-- One. -/
def fixOne : Nat := 2 ^ fracBits

/-- `m · 2^e` in fixed point. -/
def toFix (m : Nat) (e : Int) : Nat := if 0 ≤ e + fracBits then m * 2 ^ (e + fracBits).toNat else m / 2 ^ (-(e + fracBits)).toNat

/-- Newton's steps down to the integer square root, from above. -/
def sqrtStep (n : Nat) : Nat → Nat → Nat
  | 0, x => x
  | k + 1, x => let y := (x + n / x) / 2; if y < x then sqrtStep n k y else x

/-- The integer square root. -/
def isqrt (n : Nat) : Nat := if n = 0 then 0 else sqrtStep n 64 (2 ^ (Nat.log2 n / 2 + 1))

/-- Σ 1/((2k+1) n^(2k+1)), with alternating signs for the arctangent. -/
def atanSum (alt : Bool) (n : Nat) : Nat → Nat → Nat → Int
  | 0, _, _ => 0
  | f + 1, k, p =>
    let t : Int := (p / (2 * k + 1) : Nat)
    (if alt && k % 2 == 1 then -t else t) + atanSum alt n f (k + 1) (p / (n * n))

/-- ln 2 = 18 artanh(1/26) − 2 artanh(1/4801) + 8 artanh(1/8749). -/
def fixLn2 : Nat :=
  (18 * atanSum false 26 72 0 (fixOne / 26) - 2 * atanSum false 4801 30 0 (fixOne / 4801) +
    8 * atanSum false 8749 28 0 (fixOne / 8749)).toNat

/-- π = 16 arctan(1/5) − 4 arctan(1/239). -/
def fixPi : Nat := (16 * atanSum true 5 142 0 (fixOne / 5) - 4 * atanSum true 239 44 0 (fixOne / 239)).toNat

/-- The Taylor sum of e^z for a small fixed-point z, by Horner's rule from term `n`. -/
def expSum (z : Nat) : Nat → Nat → Nat
  | 0, acc => acc
  | n + 1, acc => expSum z n (fixOne + z * acc / ((n + 1) * fixOne))

/-- Squares a fixed-point number `n` times. -/
def sqTimes : Nat → Nat → Nat
  | 0, x => x
  | n + 1, x => sqTimes n (x * x / fixOne)

/-- e^r for a fixed-point r below 1. -/
def fixExp (r : Nat) : Nat := sqTimes 24 (expSum (r / 2 ^ 24) 30 fixOne)

/-- Σ z^(2k+1)/(2k+1). -/
def artanhSum (z2 : Nat) : Nat → Nat → Nat → Nat
  | 0, _, _ => 0
  | f + 1, k, p => p / (2 * k + 1) + artanhSum z2 f (k + 1) (p * z2 / fixOne)

/-- ln m for a fixed-point m from 1 to below 2. -/
def fixLog (m : Nat) : Nat :=
  let z := (m - fixOne) * fixOne / (m + fixOne)
  2 * artanhSum (z * z / fixOne) 210 0 z

/-- Σ of terms t, t·a/3, t·a²/15, …: each is the last times a over the next odd number. -/
def oddSum (a : Nat) : Nat → Nat → Nat → Nat
  | 0, _, _ => 0
  | f + 1, k, t => t + oddSum a f (k + 1) (t * a / ((2 * k + 3) * fixOne))

/-- A real result as `m · 2^e`, its last bit standing for all that lies below. -/
structure Approx where
  m : Nat
  e : Int
  deriving DecidableEq, Repr

/-- A fixed-point number, not exact. -/
def Approx.of (v : Nat) : Approx := { m := 2 * v + 1, e := -(fracBits : Int) - 1 }

/-- e^(± m·2^e). -/
def approxExp (neg : Bool) (m : Nat) (e : Int) : Approx :=
  if magGt m e 1024 0 then (if neg then { m := 1, e := -1000 } else { m := 1, e := 1000 })
  else
    let x := toFix m e
    let k := x / fixLn2
    let r := x % fixLn2
    if neg then
      let (k, r) := if r = 0 then (k, 0) else (k + 1, fixLn2 - r)
      { m := 2 * fixExp r + 1, e := -(k : Int) - fracBits - 1 }
    else { m := 2 * fixExp r + 1, e := (k : Int) - fracBits - 1 }

/-- A small fixed-point value of an approximation: e^(−y) and the like. -/
def Approx.fix (a : Approx) : Nat := toFix a.m a.e

/-- 2^(± m·2^e), exact for integers. -/
def approxExp2 (neg : Bool) (m : Nat) (e : Int) : Approx :=
  if magGt m e 1024 0 then (if neg then { m := 1, e := -1000 } else { m := 1, e := 1000 })
  else
    let x := toFix m e
    let k := x / fixOne
    let r := x % fixOne
    if r = 0 then { m := 1, e := if neg then -(k : Int) else k }
    else
      let (k, r) : Int × Nat := if neg then (-(k : Int) - 1, fixOne - r) else (k, r)
      { m := 2 * fixExp (r * fixLn2 / fixOne) + 1, e := k - fracBits - 1 }

/-- ln of `m·2^e` (base two when `two`) as a signed fixed-point number. -/
def approxLog (two : Bool) (m : Nat) (e : Int) : Num :=
  let top := Nat.log2 m
  let k : Int := (top : Int) + e
  let f := m * fixOne / 2 ^ top
  if two && f == fixOne then .fin (decide (k < 0)) k.natAbs 0
  else
    let l : Int := if two then ((fixLog f * fixOne / fixLn2 : Nat) : Int) + k * fixOne else (fixLog f : Int) + k * fixLn2
    .fin (decide (l < 0)) (2 * l.natAbs + 1) (-(fracBits : Int) - 1)

/-- erf of `m·2^e`. -/
def approxErf (m : Nat) (e : Int) : Approx :=
  if magGt m e 6 0 then { m := 1, e := 0 }
  else
    let z := toFix m e
    let z2 := z * z / fixOne
    let ex := (approxExp true (2 * m * m) (2 * e - 1)).fix
    Approx.of (2 * isqrt (fixOne ^ 3 / fixPi) * (ex * oddSum (2 * z2) 700 0 z / fixOne) / fixOne)

/-- |x·Φ(x)| of `x = ± m·2^e`. -/
def approxGelu (neg : Bool) (m : Nat) (e : Int) : Approx :=
  if magGt m e 15 0 then (if neg then { m := 1, e := -1000 } else { m := m, e := e })
  else
    let x := toFix m e
    let x2 := x * x / fixOne
    let ex := (approxExp true (m * m) (2 * e - 1)).fix
    let half := isqrt (fixOne ^ 3 / (2 * fixPi)) * (ex * oddSum x2 700 0 x / fixOne) / fixOne
    let phi := if neg then fixOne / 2 - half else fixOne / 2 + half
    { m := 2 * (m * phi) + 1, e := e - fracBits - 1 }

/-- 1/(m·2^e), with a last bit for the remainder. -/
def approxRecip (m : Nat) (e : Int) : Approx :=
  let n := 2 ^ (fracBits + Nat.log2 m)
  { m := 2 * (n / m) + bit (n % m != 0), e := -e - fracBits - Nat.log2 m - 1 }

/-- √(m·2^e), with a last bit for the remainder. -/
def approxSqrt (m : Nat) (e : Int) : Approx :=
  let (m, e) : Nat × Int := if e % 2 = 0 then (m, e) else (2 * m, e - 1)
  let n := m * 2 ^ fracBits
  let q := isqrt n
  { m := 2 * q + bit (q * q != n), e := e / 2 - fracBits / 2 - 1 }

/-- 1/√(m·2^e), with a last bit for the remainder. -/
def approxRsqrt (m : Nat) (e : Int) : Approx :=
  let (m, e) : Nat × Int := if e % 2 = 0 then (m, e) else (2 * m, e - 1)
  let n := 2 ^ (2 * fracBits)
  let q := isqrt (n / m)
  { m := 2 * q + bit (q * q * m != n), e := -(e / 2) - fracBits - 1 }

def Approx.num (neg : Bool) (a : Approx) : Num := .fin neg a.m a.e

def numOne : Num := .fin false 1 0

def numZero : Num := .fin false 0 0

/-- The function of a code from 0x10 on of a number that is not NaN (03 R109 to R114, Table 6). -/
def vecFunction (func : Nat) (x : Num) : Num :=
  match x with
  | .nan => .nan
  | .inf n =>
    if func = 0x10 ∨ func = 0x11 then (if n then numZero else .inf false)
    else if func = 0x14 then .fin n 0 0
    else if func = 0x17 ∨ func = 0x19 then .fin n 1 0
    else if func = 0x18 then (if n then numZero else numOne)
    else if func = 0x1A then (if n then .fin true 0 0 else .inf false)
    else if n then .nan
    else if func = 0x15 then numZero
    else .inf false
  | .fin n m e =>
    if m = 0 then
      (if func = 0x10 ∨ func = 0x11 then numOne
       else if func = 0x12 ∨ func = 0x13 then .inf true
       else if func = 0x14 ∨ func = 0x15 then .inf n
       else if func = 0x18 then .fin false 1 (-1)
       else if func = 0x1A then .fin n 0 0
       else .fin n 0 0)
    else if func = 0x10 then (approxExp n m e).num false
    else if func = 0x11 then (approxExp2 n m e).num false
    else if func = 0x12 ∨ func = 0x13 then
      (if n then .nan else if !magGt m e 1 0 && !magGt 1 0 m e then numZero else approxLog (func == 0x13) m e)
    else if func = 0x14 then (approxRecip m e).num n
    else if func = 0x15 then (if n then .nan else (approxRsqrt m e).num false)
    else if func = 0x16 then (if n then .nan else (approxSqrt m e).num false)
    else if func = 0x17 then
      (if magGt m e 100 0 then .fin n 1 0
       else
        let t := (approxExp true m (e + 1)).fix
        (Approx.of ((fixOne - t) * fixOne / (fixOne + t))).num n)
    else if func = 0x18 then
      (if magGt m e 1024 0 then (if n then .fin false 1 (-1000) else numOne)
       else
        let t := (approxExp true m e).fix
        if n then (Approx.of (t * fixOne / (fixOne + t))).num false
        else (Approx.of (fixOne * fixOne / (fixOne + t))).num false)
    else if func = 0x19 then (approxErf m e).num n
    else (approxGelu n m e).num n

/-- A VEC result before its one rounding (05 R216, Table 10; 03 R115, R116). -/
def vecOp (func : Nat) (x y z : Num) : Num :=
  if func = 0 then x
  else if func = 1 then x.add y
  else if func = 2 then x.add y.negate
  else if func = 3 then x.mul y
  else if func = 4 then (x.mul y).add z
  else if func = 5 then x.max y
  else if func = 6 then x.min y
  else if func = 7 then x.negate
  else vecFunction func x

/-- The functions of Table 10 of chapter 05, and how many sources each uses. -/
def vecSources (func : Nat) : Option Nat :=
  if func = 0 ∨ func = 7 then some 1
  else if (1 ≤ func ∧ func ≤ 3) ∨ func = 5 ∨ func = 6 then some 2
  else if func = 4 then some 3
  else if 0x10 ≤ func ∧ func ≤ 0x1A then some 1
  else none

/-- binary32 addition of two FP32 codes. -/
def fp32Add (a b : Nat) : Nat := (floatFmt 0).result (((floatFmt 0).value a).add ((floatFmt 0).value b))

/-- binary32 multiplication of two FP32 codes. -/
def fp32Mul (a b : Nat) : Nat := (floatFmt 0).result (((floatFmt 0).value a).mul ((floatFmt 0).value b))

/-- One pass of the canonical tree (03 R100). -/
def treePass : List Nat → List Nat
  | a :: b :: xs => fp32Add a b :: treePass xs
  | xs => xs

/-- The canonical tree over FP32 partials. -/
def treeSum : Nat → List Nat → Nat
  | 0, xs => xs.headD 0
  | n + 1, xs =>
    match xs with
    | [x] => x
    | xs => treeSum n (treePass xs)

end Sys2Proof.Machine
end

