-- ==== Sys2Proof/Machine/Accum.lean ====
section
/-! DEFINITION. Terms, accumulator lanes and their conversion (03 R68 to R92). -/

namespace Sys2Proof.Machine

/-- A lane: its 128-bit integer and its flag byte (03 R74, R79). -/
structure Lane where
  v : BitVec 128
  flags : Nat
  deriving DecidableEq, Repr

/-- A lane that has received nothing (03 R84). -/
def Lane.zero : Lane := { v := 0, flags := 0 }

/-- Counts a unit's terms add to: escape, truncation, high; and whether a positive or a negative term escaped. -/
structure TermCounts where
  escape : Nat
  trunc : Nat
  high : Nat
  escPos : Bool
  escNeg : Bool
  deriving DecidableEq, Repr

def TermCounts.zero : TermCounts := { escape := 0, trunc := 0, high := 0, escPos := false, escNeg := false }

def TermCounts.add (a b : TermCounts) : TermCounts :=
  { escape := a.escape + b.escape, trunc := a.trunc + b.trunc, high := a.high + b.high, escPos := a.escPos || b.escPos,
    escNeg := a.escNeg || b.escNeg }

/-- What a term contributes to a lane with an anchor, and what it adds to the counts (03 R75 to R78). -/
def quantizeTerm (anchor : Int) (t : Num) : Lane × TermCounts :=
  match t with
  | .nan => ({ v := 0, flags := 1 }, TermCounts.zero)
  | .inf n => ({ v := 0, flags := if n then 4 else 2 }, TermCounts.zero)
  | .fin neg m e =>
    let l := anchor - 64
    let n := cutTo true m e l
    let esc := decide (2 ^ 127 ≤ n)
    let cut := !esc && (magGt m e n l)
    let n := if esc then 2 ^ 127 - 1 else n
    let high := decide (2 ^ 104 ≤ n)
    ({ v := BitVec.ofInt 128 (signed neg n),
       flags := (if esc then (if neg then 16 else 8) else 0) + (if high then 32 else 0) },
     { escape := bit esc, trunc := bit cut, high := bit high, escPos := esc && !neg, escNeg := esc && neg })

/-- Two lanes, or a lane and a quantized term, added (03 R80). -/
def Lane.add (a b : Lane) : Lane := { v := a.v + b.v, flags := a.flags ||| b.flags }

/-- The exact sum of products, NaN under the rules of 03 R73. -/
def exactSum (xs : List Num) : Num := xs.foldl Num.add numZero

/-- A list of terms quantized and summed into a lane. -/
def addTerms (anchor : Int) (l : Lane) (ts : List Num) : Lane × TermCounts :=
  ts.foldl (fun a t =>
    let (q, c) := quantizeTerm anchor t
    (a.1.add q, a.2.add c)) (l, TermCounts.zero)

/-- A lane converted to a floating-point layout (03 R90, R91, Table 3). -/
def Lane.convert (l : Lane) (anchor : Int) (f : FloatFmt) (rtz sat : Bool) : Conv :=
  let has := fun (k : Nat) => bitOf l.flags k
  let huge := fun (neg : Bool) => f.convert rtz sat (.fin neg 1 100000)
  if has 0 || (has 1 && has 2) then f.convert rtz sat .nan
  else if has 1 then f.convert rtz sat (.inf false)
  else if has 2 then f.convert rtz sat (.inf true)
  else if has 3 && has 4 then ⟨f.canon.getD 0, false, true⟩
  else if has 3 then huge false
  else if has 4 then huge true
  else f.convert rtz sat (.fin (decide (l.v.toInt < 0)) l.v.toInt.natAbs (anchor - 64))

end Sys2Proof.Machine
end

