-- ==== Sys2Proof/Machine/Aes.lean ====
section
/-! DEFINITION. AES-256 (FIPS 197) and the modes the spec names: XTS (IEEE 1619), GCM and CMAC (NIST SP 800-38D, 38B), key
wrap (RFC 3394) (PRESUMED from those standards, log entry 40). A block is its 16 bytes in order. -/

namespace Sys2Proof.Machine

def aesSbox0 : Nat :=
  0x75b227ebe28012079a059618c323c7041531d871f1e5a534ccf73f362693fdb7c072a49cafa2d4adf04759fa7dc982ca76abd7fe2b670130c56f6bf27b777c63

def aesSbox1 : Nat :=
  0xd2f3ff1021dab6bcf5389d928f40a351a89f3c507f02f94585334d43fbaaefd0cf584c4a39becb6a5bb1fc20ed00d153842fe329b3d63b52a05a6e1b1a2c8309

def aesSbox2 : Nat :=
  0x8ae7a65eaf4566ca94ed58d6d37c8e779e4959162acd3c25c2406490a3a32e0db0b5ede14b8ee4688902a22dc4f816073195d643d7ea7c41744975fec130ccd

def aesSbox3 : Nat :=
  0x16bb54b00f2d99416842e6bf0d89a18cdf2855cee9871e9b948ed9691198f8e19e1dc186b95735610ef6034866b53e708a8bbd4b1f74dde8c6b4a61c2e2578ba

/-- The S-box of FIPS 197, 8 bits each. -/
def aesSbox : Nat :=
  aesSbox0 * 2 ^ 0 +
  aesSbox1 * 2 ^ 512 +
  aesSbox2 * 2 ^ 1024 +
  aesSbox3 * 2 ^ 1536

def aesInvSbox0 : Nat :=
  0x25d18b6d49a25b76b224d92866a12e084ec3fa420b954cee3d23c2a632947b54cbe9dec444438e3487ff2f9b8239e37cfbd7f3819ea340bf38a53630d56a0952

def aesInvSbox1 : Nat :=
  0x6b8a130103bdafc1020f3fca8f1e2cd00645b3b80558e4f70ad3bc8c00abd890849d8da75746155edab9edfd5048706c92b6655dcc5ca4d41698688664f6f872

def aesInvSbox2 : Nat :=
  0xf45acd78fec0db9a2079d2c64b3e56fc1bbe18aa0e62b76f89c5291d711af1476edf751ce837f9e28535ade72274ac9673e6b4f0cecff297eadc674f4111913a

def aesInvSbox3 : Nat :=
  0x7d0c2155631469e126d677ba7e042b17619953833cbbebc8b0f52aae4d3be0a0ef9cc9939f7ae52d0d4ab519a97f51605fec8027591012b131c7078833a8dd1f

/-- Its inverse. -/
def aesInvSbox : Nat :=
  aesInvSbox0 * 2 ^ 0 +
  aesInvSbox1 * 2 ^ 512 +
  aesInvSbox2 * 2 ^ 1024 +
  aesInvSbox3 * 2 ^ 1536

/-- Entry `b` of a table of bytes. -/
def byteAt (t b : Nat) : Nat := (t >>> (8 * b)) % 256

def xorBytes (a b : List Byte) : List Byte := List.zipWith (· ^^^ ·) a b

/-- A block as a number: byte `i` in bits `8i` and up. The table applied to `n` bytes of it, byte `i` taken from byte `src i`. -/
def subBytes (t : Nat) (src : Nat → Nat) (x : Nat) : Nat → Nat
  | 0 => 0
  | n + 1 => subBytes t src x n + (byteAt t ((x >>> (8 * src n)) % 256)) <<< (8 * n)

/-- ShiftRows: byte `4c + r` comes from column `c + r`. -/
def aesShift (i : Nat) : Nat := (i + 4 * (i % 4)) % 16

def aesUnshift (i : Nat) : Nat := (i + 16 - 4 * (i % 4)) % 16

/-- Doubling in the field of AES, of each byte of a block. -/
def aesDouble (x : Nat) : Nat :=
  ((x &&& 0x7F7F7F7F7F7F7F7F7F7F7F7F7F7F7F7F) <<< 1) ^^^ (((x &&& 0x80808080808080808080808080808080) >>> 7) * 0x1B)

/-- Each byte of a column gives its place to the next one, and to the one after that. -/
def aesRot1 (x : Nat) : Nat :=
  ((x >>> 8) &&& 0x00FFFFFF00FFFFFF00FFFFFF00FFFFFF) ||| ((x &&& 0x000000FF000000FF000000FF000000FF) <<< 24)

def aesRot2 (x : Nat) : Nat :=
  ((x >>> 16) &&& 0x0000FFFF0000FFFF0000FFFF0000FFFF) ||| ((x &&& 0x0000FFFF0000FFFF0000FFFF0000FFFF) <<< 16)

/-- MixColumns: 2·a + 3·b + c + d of the bytes from each on in its column. -/
def aesMix (x : Nat) : Nat :=
  let y := x ^^^ aesRot1 x
  aesDouble y ^^^ aesRot1 x ^^^ aesRot2 y

/-- Its inverse: 4·(a + c) added to each byte first. -/
def aesUnmix (x : Nat) : Nat := aesMix (x ^^^ aesDouble (aesDouble (x ^^^ aesRot2 x)))

/-- The rounds' key words, newest first, extended by `n` words; `i` counts words. -/
def aesExpand : Nat → Nat → Nat → List Nat → List Nat
  | 0, _, _, ws => ws
  | n + 1, i, rcon, ws =>
    let last := ws.headD 0
    let old := ws.getD 7 0
    if i % 8 = 0 then
      aesExpand n (i + 1) (aesDouble rcon) ((old ^^^ subBytes aesSbox (fun k => (k + 1) % 4) last 4 ^^^ rcon) :: ws)
    else if i % 8 = 4 then aesExpand n (i + 1) rcon ((old ^^^ subBytes aesSbox id last 4) :: ws)
    else aesExpand n (i + 1) rcon ((old ^^^ last) :: ws)

/-- Words taken four by four. -/
def aesFours : List Nat → List Nat
  | a :: b :: c :: d :: ws => (a + b <<< 32 + c <<< 64 + d <<< 96) :: aesFours ws
  | _ => []

/-- The 15 round keys. -/
def aesKeys (key : List Byte) : List Nat :=
  aesFours (aesExpand 52 8 1 ((List.range 8).map (fun i => leNat ((key.drop (4 * i)).take 4))).reverse).reverse

/-- The cipher over the remaining round keys. -/
def aesRounds : List Nat → Nat → Nat
  | [], b => b
  | [k], b => subBytes aesSbox aesShift b 16 ^^^ k
  | k :: ks, b => aesRounds ks (aesMix (subBytes aesSbox aesShift b 16) ^^^ k)

/-- Encryption of one block under the round keys. -/
def aesEncKs (ks : List Nat) (b : List Byte) : List Byte :=
  match ks with
  | [] => b
  | k :: ks => leBytes 16 (aesRounds ks (leNat b ^^^ k))

/-- AES-256 encryption of one block. -/
def aesEnc (key b : List Byte) : List Byte := aesEncKs (aesKeys key) b

/-- The inverse cipher over the round keys from the last. -/
def aesInvRounds : List Nat → Nat → Nat
  | [], b => b
  | [k], b => subBytes aesInvSbox aesUnshift b 16 ^^^ k
  | k :: ks, b => aesInvRounds ks (aesUnmix (subBytes aesInvSbox aesUnshift b 16 ^^^ k))

/-- Decryption of one block under the round keys. -/
def aesDecKs (ks : List Nat) (b : List Byte) : List Byte :=
  match ks.reverse with
  | [] => b
  | k :: ks => leBytes 16 (aesInvRounds ks (leNat b ^^^ k))

/-- AES-256 decryption of one block. -/
def aesDec (key b : List Byte) : List Byte := aesDecKs (aesKeys key) b

/-! ## XTS over one 64-byte line (12 R557) -/

/-- The next tweak: times alpha in the field of XTS, bytes least significant first. -/
def xtsNext (t : List Byte) : List Byte :=
  let n := leNat t
  leBytes 16 (if n < 2 ^ 127 then 2 * n else (2 * n - 2 ^ 128) ^^^ 0x87)

/-- `n` blocks under one direction of the cipher. -/
def xtsBlocks (f : List Byte → List Byte) : Nat → List Byte → List Byte → List Byte
  | 0, _, _ => []
  | n + 1, t, bs => xorBytes (f (xorBytes (bs.take 16) t)) t ++ xtsBlocks f n (xtsNext t) (bs.drop 16)

/-- Encrypts a line under `key1`, with the tweak value `tw` encrypted under `key2`. -/
def xtsEnc (key1 key2 tw line : List Byte) : List Byte := xtsBlocks (aesEncKs (aesKeys key1)) 4 (aesEnc key2 tw) line

/-- Decrypts a line. -/
def xtsDec (key1 key2 tw line : List Byte) : List Byte := xtsBlocks (aesDecKs (aesKeys key1)) 4 (aesEnc key2 tw) line

/-! ## CMAC -/

/-- Doubling of a block, first byte most significant. -/
def cmacDouble (b : List Byte) : List Byte :=
  let n := beNat b
  beBytes 16 (if n < 2 ^ 127 then 2 * n else (2 * n - 2 ^ 128) ^^^ 0x87)

/-- CBC over the first `n` blocks. -/
def cbcMac (key : List Byte) : Nat → List Byte → List Byte → List Byte
  | 0, _, x => x
  | n + 1, bs, x => cbcMac key n (bs.drop 16) (aesEnc key (xorBytes x (bs.take 16)))

/-- AES-256-CMAC of a message whose length is a multiple of 16 and not 0. -/
def cmac (key m : List Byte) : List Byte :=
  let k1 := cmacDouble (aesEnc key (List.replicate 16 0))
  let n := m.length / 16 - 1
  let x := cbcMac key n m (List.replicate 16 0)
  aesEnc key (xorBytes (xorBytes x (m.drop (16 * n))) k1)

/-! ## GCM with a 12-byte IV -/

/-- The product in the field of GCM, over `n` bits of `x` from its first; blocks are numbers, first bit most significant. -/
def ghashMul : Nat → Nat → Nat → Nat → Nat
  | 0, _, _, z => z
  | n + 1, x, v, z =>
    let z := if x / 2 ^ n % 2 = 1 then z ^^^ v else z
    ghashMul n x (if v % 2 = 1 then v / 2 ^^^ 0xE1 * 2 ^ 120 else v / 2) z

/-- GHASH over `n` blocks. -/
def ghash (h : Nat) : Nat → List Byte → Nat → Nat
  | 0, _, y => y
  | n + 1, bs, y =>
    let b := bs.take 16
    ghash h n (bs.drop 16) (ghashMul 128 (y ^^^ beNat (b ++ List.replicate (16 - b.length) 0)) h 0)

/-- `n` blocks of key stream from counter `c`. -/
def gcmStream (key iv : List Byte) : Nat → Nat → List Byte
  | 0, _ => []
  | n + 1, c => aesEnc key (iv ++ beBytes 4 c) ++ gcmStream key iv n (c + 1)

/-- GCM's cipher in either direction. -/
def gcmCrypt (key iv m : List Byte) : List Byte := xorBytes m (gcmStream key iv ((m.length + 15) / 16) 2)

/-- The tag of a ciphertext, with additional data. -/
def gcmTag (key iv aad ct : List Byte) : List Byte :=
  let h := beNat (aesEnc key (List.replicate 16 0))
  let y := ghash h ((aad.length + 15) / 16) aad 0
  let y := ghash h ((ct.length + 15) / 16) ct y
  let y := ghash h 1 (beBytes 8 (8 * aad.length) ++ beBytes 8 (8 * ct.length)) y
  xorBytes (beBytes 16 y) (aesEnc key (iv ++ beBytes 4 1))

/-! ## Key wrap -/

/-- The semiblocks of 8 bytes of a string. -/
def semiblocks (n : Nat) (bs : List Byte) : List (List Byte) := (List.range n).map (fun i => (bs.drop (8 * i)).take 8)

/-- One pass backwards over the semiblocks (given last first), from step `t`. -/
def unwrapPass (key : List Byte) : Nat → List Byte → List (List Byte) → List (List Byte) → List Byte × List (List Byte)
  | _, a, [], out => (a, out)
  | t, a, r :: rs, out =>
    let b := aesDec key (xorBytes a (beBytes 8 t) ++ r)
    unwrapPass key (t - 1) (b.take 8) rs (b.drop 8 :: out)

/-- Six passes backwards. -/
def unwrapPasses (key : List Byte) (n : Nat) : Nat → List Byte → List (List Byte) → List Byte × List (List Byte)
  | 0, a, rs => (a, rs)
  | j + 1, a, rs =>
    let (a', rs') := unwrapPass key (n * (j + 1)) a rs.reverse []
    unwrapPasses key n j a' rs'

/-- RFC 3394 unwrap of a 40-byte string: the 32-byte key, when the check value is right. -/
def keyUnwrap (key w : List Byte) : Option (List Byte) :=
  let (a, rs) := unwrapPasses key 4 6 (w.take 8) (semiblocks 4 (w.drop 8))
  if a = List.replicate 8 0xA6 then some rs.flatten else none

end Sys2Proof.Machine
end

