-- ==== Sys2Proof/Machine/Memory.lean ====
section
/-! DEFINITION. Addresses, encrypted lines, page tables, TLBs and the check of an operation's pages (chapter 09, R392 to
R410, R736, R737; 12 R557 to R561; 11 R510, R511). -/

namespace Sys2Proof.Machine

/-! ## Physical lines -/

/-- A physical address names something: reserved bits zero, an offset below 1.5 GiB (09 R393). -/
def physOk (a : Nat) : Bool := decide (a < 2 ^ 48) && bitsOf a 31 9 == 0 && decide (a % 2 ^ 31 < 0x60000000)

/-- The channel of a physical address. -/
def physChan (a : Nat) : Nat := a / 2 ^ 40

/-- The tweak value of a line of a basket (12 R557). -/
def tweakOf (uid va : Nat) : Nat := bitsOf va 6 50 + uid % 2 ^ 64 * 2 ^ 64

/-- A memory key's three keys: data, tweak, sidecar. -/
def dataKey (k : BitVec 768) : List Byte := keyBytes k 32

def tweakKey (k : BitVec 768) : List Byte := (keyBytes k 64).drop 32

def sidecarKey (k : BitVec 768) : List Byte := (keyBytes k 96).drop 64

/-- The ciphertext of a line. -/
def encLine (k : BitVec 768) (tw : Nat) (line : List Byte) : List Byte := xtsEnc (dataKey k) (tweakKey k) (leBytes 16 tw) line

/-- The plaintext of a line. -/
def decLine (k : BitVec 768) (tw : Nat) (line : List Byte) : List Byte := xtsDec (dataKey k) (tweakKey k) (leBytes 16 tw) line

/-- The sidecar tag of a ciphertext line: the leftmost 64 bits of its CMAC (12 R560). -/
def lineMac (k : BitVec 768) (tw : Nat) (cipher : List Byte) : List Byte :=
  (cmac (sidecarKey k) (leBytes 16 tw ++ cipher)).take 8

/-- The memory key of a basket's partition; a partition without one uses the key of zeros (its pieces cannot be bound). -/
def State.basketKey (s : State) (b : Nat) : BitVec 768 :=
  (s.memoryKey (s.memSlot (s.get Fld.CAP_BASKET_partition b))).getD 0

/-- A basket's lines carry sidecar tags. -/
def State.sidecarOn (s : State) (b : Nat) : Bool := s.flag Fld.LID_PART_sidecar_en (s.get Fld.CAP_BASKET_partition b)

/-- What a write to a channel does to the check bits of the line: an injection armed for the channel marks them, once (14 R643). -/
def State.injected (s : State) (phys : Nat) : Nat × State :=
  if s.flag Fld.FC_INJECT_armed && s.get Fld.FC_INJECT_target 0 == 2 && s.get Fld.FC_INJECT_instance 0 == physChan phys then
    (if s.flag Fld.FC_INJECT_double then 2 else 1, s.set Fld.FC_INJECT_armed 0 0)
  else (0, s)

/-- Writes a ciphertext line and its tag to a physical line. -/
def State.putCipher (s : State) (phys tw : Nat) (cipher tag : List Byte) : State :=
  let (e, s) := s.injected phys
  { s with
    hbm := s.hbm.write (phys / 64 * 64) cipher, sidecar := s.sidecar.write (phys / 64 * 8) tag,
    lineTag := Sparse.set 0 s.lineTag (phys / 64) (tw + 1), hbmPoison := Sparse.set 0 s.hbmPoison (phys / 64) e }

/-- Writes `n` ciphertext lines of a basket, from a virtual line on, and their tags to the physical lines from one on. -/
def State.putRun (s : State) (b va phys n : Nat) (cipher tags : List Byte) : State :=
  let (e, s) := s.injected phys
  { s with
    hbm := s.hbm.write (phys / 64 * 64) cipher, sidecar := s.sidecar.write (phys / 64 * 8) tags,
    lineTag := Sparse.setRun s.lineTag (phys / 64) ((List.range n).map (fun i => tweakOf (s.basketUid b) (va + 64 * i) + 1)),
    hbmPoison := Sparse.set 0 (Sparse.clearRun s.hbmPoison (phys / 64) n) (phys / 64) e }

/-- Zeroes `n` physical lines. Their ciphertext is not formed before they leave their frame (log entry 51). -/
def State.zeroLines (s : State) (phys n : Nat) : State :=
  let (e, s) := s.injected phys
  { s with
    hbm := s.hbm.zero (phys / 64 * 64) (64 * n), sidecar := s.sidecar.zero (phys / 64 * 8) (8 * n),
    lineTag := Sparse.clearRun s.lineTag (phys / 64) n,
    hbmPoison := Sparse.set 0 (Sparse.clearRun s.hbmPoison (phys / 64) n) (phys / 64) e }

/-- Writes a plaintext line of a basket at a virtual line to a physical line. -/
def State.putLine (s : State) (b va phys : Nat) (line : List Byte) : State :=
  let k := s.basketKey b
  let tw := tweakOf (s.basketUid b) va
  let c := encLine k tw line
  s.putCipher phys tw c (if s.sidecarOn b then lineMac k tw c else List.replicate 8 0)

/-- The ciphertext of a basket's line at a physical one, as it leaves its frame: a line not written since it was zeroed is
encrypted here. -/
def State.cipherOf (s : State) (b va phys : Nat) : List Byte :=
  let c := s.hbm.read (phys / 64 * 64) 64
  if Sparse.get 0 s.lineTag (phys / 64) = 0 then encLine (s.basketKey b) (tweakOf (s.basketUid b) va) c else c

/-- Its sidecar tag. -/
def State.tagOf (s : State) (b va phys : Nat) : List Byte :=
  if Sparse.get 0 s.lineTag (phys / 64) = 0 ∧ s.sidecarOn b then
    lineMac (s.basketKey b) (tweakOf (s.basketUid b) va) (s.cipherOf b va phys)
  else s.sidecar.read (phys / 64 * 8) 8

/-- The ciphertext of `n` lines of a basket from a virtual line on, at the physical lines from one on. -/
def State.ciphers (s : State) (b va phys n : Nat) : List Byte :=
  (List.range n).flatMap (fun i => s.cipherOf b (va + 64 * i) (phys + 64 * i))

/-- Their tags. -/
def State.tagsOf (s : State) (b va phys n : Nat) : List Byte :=
  (List.range n).flatMap (fun i => s.tagOf b (va + 64 * i) (phys + 64 * i))

/-- What a read of a line finds. -/
inductive LineRead where
  | ok (line : List Byte)
  /-- The line carries poison, or its tag does not verify (12 R561). -/
  | poison (integrity : Bool)
  deriving DecidableEq, Repr

/-- Reads a line of a basket from a physical line under a tweak (12 R557, R561). A line never encrypted since the
channel was zeroed reads as its bytes are: zero (16 R704 step 7). -/
def State.lineAt (s : State) (b phys tw : Nat) : LineRead :=
  let c := s.hbm.read (phys / 64 * 64) 64
  let k := s.basketKey b
  if Sparse.get 0 s.hbmPoison (phys / 64) = 2 ∨ s.service.retiredChannels.contains (physChan phys) = true then .poison false
  else if Sparse.get 0 s.lineTag (phys / 64) = 0 then .ok c
  else if s.sidecarOn b ∧ lineMac k tw c ≠ s.sidecar.read (phys / 64 * 8) 8 then .poison true
  else .ok (decLine k tw c)

/-- Reads the line of a basket at a virtual line from a physical line. -/
def State.getLine (s : State) (b va phys : Nat) : LineRead := s.lineAt b phys (tweakOf (s.basketUid b) va)

/-- What reading a physical line under the tweak it was last written with finds: what a table walk reads (12 R561; log entry 51). -/
def State.tableLine (s : State) (b phys : Nat) : LineRead := s.lineAt b phys (Sparse.get 0 s.lineTag (phys / 64) - 1)

/-- An 8-byte table entry; zero where its line is not delivered. -/
def State.tableEntry (s : State) (b phys : Nat) : Nat :=
  match s.tableLine b phys with
  | .ok line => fieldAt line (phys % 64) 8
  | .poison _ => 0
where fieldAt (m : List Byte) (off n : Nat) : Nat := leNat ((m.drop off).take n)

/-- Writes an 8-byte table entry, keeping the tweak of its line; a poisoned line stays as it is (04 R178). -/
def State.setTableEntry (s : State) (b phys v : Nat) : State :=
  match s.tableLine b phys with
  | .poison _ => s
  | .ok line =>
    let line := line.take (phys % 64) ++ leBytes 8 v ++ line.drop (phys % 64 + 8)
    let t := Sparse.get 0 s.lineTag (phys / 64)
    if t = 0 then { s with hbm := s.hbm.write (phys / 64 * 64) line }
    else
      let k := s.basketKey b
      let c := encLine k (t - 1) line
      s.putCipher phys (t - 1) c (if s.sidecarOn b then lineMac k (t - 1) c else List.replicate 8 0)

/-! ## Page tables (09 R395 to R401) -/

/-- A leaf found by a walk: the entry, where it stands, its level and the size of its page as a power of two. -/
structure Leaf where
  entry : Nat
  eaddr : Nat
  level : Nat
  shift : Nat
  deriving DecidableEq, Repr

/-- Right bits of an entry or an access: read 1, write 2, atomic 4. -/
def Leaf.rights (l : Leaf) : Nat := bitsOf l.entry 2 3

def Leaf.home (l : Leaf) : Nat := bitsOf l.entry 5 2

def Leaf.res (l : Leaf) : Nat := bitsOf l.entry 7 2

def Leaf.spillT4 (l : Leaf) : Bool := bitOf l.entry 9

def Leaf.noSpill (l : Leaf) : Bool := bitOf l.entry 10

/-- The physical address of the frame of a resident leaf of home T2. -/
def Leaf.frame (l : Leaf) : Nat := bitsOf l.entry 12 32 * 2 ^ 16

/-- The module of a leaf of home T3, or of one spilled to T3. -/
def Leaf.module (l : Leaf) : Nat := bitsOf l.entry 12 14

/-- The lowest VA bit and the number of bits that index a level. -/
def levelShift (lv : Nat) : Nat := if lv = 0 then 48 else if lv = 1 then 39 else if lv = 2 then 30 else if lv = 3 then 21 else 16

def levelBits (lv : Nat) : Nat := if lv = 0 then 8 else if lv = 4 then 5 else 9

/-- The bits of loc a leaf does not use are zero, and a large leaf's frame is aligned (09 R398, R399). -/
def leafLocOk (e lv : Nat) : Bool :=
  let home := bitsOf e 5 2
  let res := bitsOf e 7 2
  if res = 1 ∨ res = 3 then bitsOf e 12 52 == 0
  else if res = 2 then (if bitOf e 9 then bitsOf e 36 28 == 0 else bitsOf e 58 6 == 0)
  else if home = 0 then bitsOf e 44 20 == 0 && physOk (2 ^ 16 * bitsOf e 12 32) &&
    bitsOf e 12 32 * 2 ^ 16 % 2 ^ levelShift lv == 0 && decide (bitsOf e 12 32 * 2 ^ 16 % 2 ^ 40 + 2 ^ levelShift lv ≤ 0x60000000)
  else if home = 1 then bitsOf e 26 38 == 0
  else bitsOf e 62 2 == 0

/-- The pager has a move of a page in progress. -/
def State.moving (s : State) (b va : Nat) : Bool := s.moves.any (fun m => m.basket == b && m.va == va / 65536 * 65536)

/-- A valid leaf is well formed (09 R399). -/
def State.leafOk (s : State) (b va e lv : Nat) : Bool :=
  let home := bitsOf e 5 2
  let res := bitsOf e 7 2
  decide (2 ≤ lv) && !bitOf e 11 && home != 3 && !(lv != 4 && res != 0) && !(lv != 4 && home == 0 && !bitOf e 10) &&
  !(home != 0 && res != 0) && !(home == 2 && bitOf e 4) && !(res == 3 && !s.moving b va) && leafLocOk e lv &&
  (res == 2 || !bitOf e 9)

/-- What a walk ends in: a leaf, or a translation fault with its reason and level (09 R399 to R401, R736). -/
inductive Walk where
  | leaf (l : Leaf)
  | fault (reason level : Nat)
  /-- The line of the entry at a physical address was not delivered: poison, or a tag that did not verify (04 R178; 12 R561). -/
  | poison (entry : Nat) (tag : Bool)
  deriving DecidableEq, Repr

/-- A walk from the table at a physical address, over the levels from `lv`, `n` of them. A table outside the carve-out of
the piece's partition is not read. -/
def State.walkFrom (s : State) (b va : Nat) : Nat → Nat → Nat → Walk
  | 0, _, _ => .fault 3 4
  | n + 1, lv, table =>
    let a := table + 8 * bitsOf va (levelShift lv) (levelBits lv)
    if !physOk table || !physOk a || !s.inCarve (s.get Fld.CAP_BASKET_partition b) (physChan table) then .fault 4 lv
    else match s.tableLine b a with
    | .poison tag => .poison a tag
    | .ok _ =>
      let e := s.tableEntry b a
      if !bitOf e 0 then .fault 1 lv
      else if bitOf e 1 then
        (if s.leafOk b va e lv then .leaf { entry := e, eaddr := a, level := lv, shift := levelShift lv } else .fault 3 lv)
      else if lv = 4 ∨ bitOf e 11 ∨ bitsOf e 52 12 ≠ 0 then .fault 3 lv
      else State.walkFrom s b va n (lv + 1) (2 ^ 8 * bitsOf e 12 40)

/-- The root of a piece: physical bits [47:8] of its level-0 table; reserved bits make it malformed (09 R395). -/
def State.walk (s : State) (b va : Nat) : Walk :=
  let root := s.get64 Fld.XL_ROOT_LO_root_lo Fld.XL_ROOT_HI_root_hi b
  if 2 ^ 40 ≤ root then .fault 3 0 else s.walkFrom b va 5 0 (2 ^ 8 * root)

/-! ## TLBs (09 R404 to R406) -/

/-- The entry of a list that serves an address, moved to the front. -/
def tlbFind (b va : Nat) (l : List TlbEntry) : Option (TlbEntry × List TlbEntry) :=
  match l.find? (fun e => e.basket == b && e.page == va / 2 ^ e.shift) with
  | none => none
  | some e => some (e, e :: l.erase e)

/-- Counts a miss of a core's L1 TLB. -/
def State.l1Miss (s : State) (core : Nat) : State :=
  match s.siteOf core with
  | none => s
  | some i => s.count Fld.XL_L1_MISS_COUNT_count i Fld.XL_L1_STATUS_miss_wrap i 0

/-- The key of the L2 set of a page: set index bits [8:0] of the page number at the leaf's granule. -/
def l2Key (h va shift : Nat) : Nat := h * 512 + va / 2 ^ shift % 512

/-- Two entries are of one page. -/
def TlbEntry.samePage (e x : TlbEntry) : Bool := e.basket == x.basket && e.shift == x.shift && e.page == x.page

/-- Puts an entry into a core's L1 TLB, replacing the least recently used of 32. -/
def State.fillL1 (s : State) (core : Nat) (e : TlbEntry) : State :=
  { s with tlb1 := Sparse.set [] s.tlb1 core ((e :: (Sparse.get [] s.tlb1 core).filter (fun x => !e.samePage x)).take 32) }

/-- Puts an entry into a half's L2 TLB, replacing the least recently used of the 8 ways of its set. -/
def State.fillL2 (s : State) (h va : Nat) (e : TlbEntry) : State :=
  let k := l2Key h va e.shift
  { s with tlb2 := Sparse.set [] s.tlb2 k ((e :: (Sparse.get [] s.tlb2 k).filter (fun x => !e.samePage x)).take 8) }

/-- The L2 entry of a half that serves an address, at any granule; its accessed bit is set. -/
def State.findL2 (s : State) (h b va : Nat) : Option (TlbEntry × State) :=
  [16, 21, 30].findSome? (fun sh =>
    match tlbFind b va ((Sparse.get [] s.tlb2 (l2Key h va sh)).filter (fun e => e.shift == sh)) with
    | none => none
    | some (e, _) => some (e, s.fillL2 h va { e with accessed := true }))

/-- A table entry a half's walk cache holds for a level of a walk. -/
def State.cached (s : State) (h b lv va : Nat) : Option Nat :=
  ((Sparse.get [] s.walkCache h).find? (fun e => e.basket == b && e.level == lv && e.index == va / 2 ^ levelShift lv)).map
    WalkEntry.entry

/-- Puts a table entry into a half's walk cache of 256 entries; the oldest leaves (09 R406; log entry 24). -/
def State.fillWalk (s : State) (h b lv va e : Nat) : State :=
  let w : WalkEntry := { basket := b, level := lv, index := va / 2 ^ levelShift lv, entry := e }
  { s with walkCache := Sparse.set [] s.walkCache h ((w :: Sparse.get [] s.walkCache h).take 256) }

/-- A walk of a half, over its walk cache. -/
def State.walkHalf (s : State) (h b va : Nat) : Nat → Nat → Nat → Walk × State
  | 0, _, _ => (.fault 3 4, s)
  | n + 1, lv, table =>
    match (if lv < 4 then s.cached h b lv va else none) with
    | some e => State.walkHalf s h b va n (lv + 1) (2 ^ 8 * bitsOf e 12 40)
    | none =>
      match s.walkFrom b va 1 lv table with
      | .leaf l => (.leaf l, s)
      | .poison a t => (.poison a t, s)
      | .fault r l =>
        let e := s.tableEntry b (table + 8 * bitsOf va (levelShift lv) (levelBits lv))
        if r = 3 ∧ l = 4 ∧ lv < 4 then State.walkHalf (s.fillWalk h b lv va e) h b va n (lv + 1) (2 ^ 8 * bitsOf e 12 40)
        else (.fault r l, s)

/-- The place of a page: where its bytes lie now. -/
inductive Place where
  | t2 (phys : Nat)
  | t3 (module : Nat)
  | t4 (port addr : Nat)
  | spillT3 (module guest : Nat)
  | spillT4 (index : Nat)
  | unpopulated
  | moving
  deriving DecidableEq, Repr

/-- The place a leaf gives the page that holds an address. -/
def Leaf.place (l : Leaf) (va : Nat) : Place :=
  if l.res = 1 then .unpopulated
  else if l.res = 3 then .moving
  else if l.res = 2 then (if l.spillT4 then .spillT4 (bitsOf l.entry 12 24) else .spillT3 l.module (bitsOf l.entry 26 32))
  else if l.home = 1 then .t3 l.module
  else if l.home = 2 then .t4 (bitsOf l.entry 12 2) (2 ^ 16 * bitsOf l.entry 14 48 + va % 2 ^ l.shift)
  else .t2 (l.frame + va % 2 ^ l.shift)

/-- What a translation ends in: rights, place and level, or a fault. -/
inductive Xlate where
  | ok (rights level : Nat) (place : Place)
  | fault (reason level : Nat)
  | poison (entry : Nat) (tag : Bool)
  deriving DecidableEq, Repr

/-- The level of a leaf of a page size. -/
def shiftLevel (sh : Nat) : Nat := if sh = 30 then 2 else if sh = 21 then 3 else 4

/-- A translation by a walk alone, as agents without a TLB make it. -/
def State.xlateWalk (s : State) (b va : Nat) : Xlate :=
  match s.walk b va with
  | .fault r l => .fault r l
  | .poison a t => .poison a t
  | .leaf l => .ok l.rights l.level (l.place va)

/-- A translation by a core: its L1 TLB, the L2 TLB of its half, then a walk; resident leaves of home T2 are cached. -/
def State.xlate (s : State) (core b va : Nat) : Xlate × State :=
  match tlbFind b va (Sparse.get [] s.tlb1 core) with
  | some (e, l) => (.ok e.rights (shiftLevel e.shift) (.t2 (e.phys + va % 2 ^ e.shift)), { s with tlb1 := Sparse.set [] s.tlb1 core l })
  | none =>
    let s := s.l1Miss core
    let h := coreHalf core
    match s.findL2 h b va with
    | some (e, s) => (.ok e.rights (shiftLevel e.shift) (.t2 (e.phys + va % 2 ^ e.shift)), s.fillL1 core e)
    | none =>
      let s := s.count Fld.XL_L2_MISS_COUNT_count h Fld.XL_L2_STATUS_miss_wrap 0 h
      let root := s.get64 Fld.XL_ROOT_LO_root_lo Fld.XL_ROOT_HI_root_hi b
      match (if 2 ^ 40 ≤ root then (.fault 3 0, s) else s.walkHalf h b va 5 0 (2 ^ 8 * root)) with
      | (.fault r l, s) => (.fault r l, s)
      | (.poison a t, s) => (.poison a t, s)
      | (.leaf l, s) =>
        let s := if l.res = 0 ∧ l.home = 0 then
            let e : TlbEntry := { basket := b, shift := l.shift, page := va / 2 ^ l.shift, phys := l.frame, rights := l.rights,
                                  accessed := true }
            (s.fillL2 h va e).fillL1 core e
          else s
        (.ok l.rights l.level (l.place va), s)

/-- Drops the entries of a basket that map any page of a range from every TLB and walk cache (09 R409 step 3). -/
def State.dropTlb (s : State) (b va pages : Nat) : State :=
  let hit := fun (e : TlbEntry) => e.basket == b && decide (e.page * 2 ^ e.shift < va + pages * 65536) &&
    decide (va < (e.page + 1) * 2 ^ e.shift)
  { s with
    tlb1 := (s.tlb1.map (fun c => (c.1, c.2.filter (fun e => !hit e)))).filter (fun c => !c.2.isEmpty),
    tlb2 := (s.tlb2.map (fun c => (c.1, c.2.filter (fun e => !hit e)))).filter (fun c => !c.2.isEmpty),
    walkCache := (s.walkCache.map (fun c => (c.1, c.2.filter (fun e => e.basket != b)))).filter (fun c => !c.2.isEmpty) }

/-- Drops every entry of a basket (09 R407). -/
def State.dropBasket (s : State) (b : Nat) : State := s.dropTlb b 0 (2 ^ 40)

/-! ## Faults of an access -/

/-- Why an operation's pages refuse it: the fault code of 05 Table 22 and its info. -/
inductive AccessFault where
  /-- translation, with the reason and level of 09 R736 and the full 64-bit address. -/
  | translation (addr reason level : Nat)
  | peerLost (module : Nat)
  /-- data-poison: the frame lies on a retired channel (14 R667). -/
  | poisoned (addr : Nat)
  /-- key-revoked: the memory key of the basket's partition is being revoked (12 R582). -/
  | revoked
  deriving DecidableEq, Repr

/-- Records a translation fault in the XL registers of a basket and raises its event (09 R736, R438). -/
def State.recordFault (s : State) (b : Nat) (f : AccessFault) : State :=
  match f with
  | .peerLost _ => s
  | .poisoned _ => s
  | .revoked => s
  | .translation a r l =>
    let va := if r = 6 then 0 else a
    let s := s.setAll b [(Fld.XL_FAULT_VA_LO_va_lo, va), (Fld.XL_FAULT_VA_HI_va_hi, va / 2 ^ 32), (Fld.XL_FAULT_INFO_reason, r),
      (Fld.XL_FAULT_INFO_level, l)]
    let s := s.count Fld.XL_FAULT_COUNT_count b Fld.XL_FAULT_STATUS_fault_wrap b 0
    if s.flag Fld.XL_FAULT_INFO_fault_event_en b then s.report 0x34 b a else s

/-- A partition's pool window on a root port of its set holds an address (11 R510, R520). -/
def State.inPool (s : State) (p port addr : Nat) : Bool :=
  let pool := 2 ^ 16 * s.get Fld.HI_POOL_BASE_LO_base_lo p + 2 ^ 32 * s.get Fld.HI_POOL_BASE_HI_base_hi p
  bitOf (s.get Fld.HI_PART_PORTS_ports p) port && s.get Fld.HI_POOL_SIZE_port p == port &&
    decide (pool ≤ addr) && decide (addr < pool + s.get Fld.HI_POOL_SIZE_pages p * 65536)

/-- A stream of a link has its key (12 R569, R571). -/
def State.ideStream (s : State) (link : Nat) : Bool := s.ideKeys.any (fun e => e.1 / 256 == link)

/-- A partition may reach an address behind a root port: the host space of its own link, whatever the link's role (11 R518), or its pool
window. A lid partition's interface must run, and the link must have a stream (11 R510, R511; 12 R569, R571; log entry 184). -/
def State.mayReach (s : State) (p port addr : Nat) : Bool :=
  (s.linkOf p == port || s.inPool p port addr) && (!s.underLid p || (s.get Fld.LID_PART_tdisp p == 2 && s.ideStream port))

/-- The function whose requester ID a request of a partition carries: the link's function 0 to the pool, else its own (11 R510). -/
def State.dmaFn (s : State) (p port addr : Nat) : Nat := if s.inPool p port addr then linkFn0 port else p

/-- A request to an address behind a root port goes out now: the link is up, and the function may make requests (11 R502, R523). -/
def State.goesOut (s : State) (p port addr : Nat) : Bool := s.linkUp port && s.mayMaster (s.dmaFn p port addr)

/-- Some candidate port to a module is one that its route entry of the piece allows (10 R475). -/
def State.routeTo (s : State) (b m : Nat) : Bool :=
  (s.pieceAt b).sec.routes.any (fun e => e.1 == m && (s.nextPorts m).any (fun p => bitOf e.2.2 p))

/-- This module (rack and slot). -/
def State.me (s : State) : Nat := s.get Fld.CAP_MODULE_module 0

/-- A module is marked lost (10 R473). -/
def State.moduleLost (s : State) (m : Nat) : Bool := s.lostModules.contains m

/-- A message to a module is answered at once with peer-lost (05 R726). -/
def State.unreachable (s : State) (b m : Nat) : Bool := m != s.me && (s.moduleLost m || !s.routeTo b m)

/-- The base of the piece's T4 spill area. -/
def State.t4Base (s : State) (b : Nat) : Nat :=
  2 ^ 16 * s.get Fld.PG_T4_BASE_LO_base_lo b + 2 ^ 32 * s.get Fld.PG_T4_BASE_HI_base_hi b

/-- The root port of the piece's T4 spill area, and the address of one of its pages. -/
def State.spillPort (s : State) (b : Nat) : Nat := s.get Fld.PG_T4_PAGES_port b

def State.spillAddr (s : State) (b i : Nat) : Nat := s.t4Base b + 65536 * i

/-- A piece may reach an address behind a root port; its request to it goes out now. -/
def State.t4Reach (s : State) (b port addr : Nat) : Bool := s.mayReach (s.get Fld.CAP_BASKET_partition b) port addr

def State.t4Out (s : State) (b port addr : Nat) : Bool := s.goesOut (s.get Fld.CAP_BASKET_partition b) port addr

/-- One page of an access checked: rights, and for homes and spills elsewhere whether they can be reached (09 R402, R424,
R737; 10 R476; 11 R511; 12 R571). `need` is the right asked for. -/
def State.checkPlace (s : State) (b va need : Nat) (x : Xlate) : Option AccessFault :=
  match x with
  | .fault r l => some (.translation va r l)
  | .poison _ _ => some (.poisoned va)
  | .ok rights l place =>
    if rights &&& need != need then some (.translation va 2 l)
    else match place with
    | .t2 phys => if s.service.retiredChannels.contains (physChan phys) then some (.poisoned va) else none
    | .t3 m => if s.unreachable b m then some (.peerLost m) else none
    | .spillT3 m _ => if s.unreachable b m then some (.peerLost m) else none
    | .t4 port addr => if s.t4Reach b port addr then none else some (.translation va 2 l)
    | .spillT4 i => if s.t4Reach b (s.spillPort b) (s.spillAddr b i) then none else some (.translation va 2 l)
    | _ => none

/-- A sidecar tag failed: counted, and told where the partition asks for it (12 R561, R590). -/
def State.integrityFail (s : State) (p : Nat) : State :=
  let s := s.count Fld.LID_INTEGRITY_COUNT_count 0 Fld.LID_COUNT_STATUS_integ_wrap 0 0
  if s.flag Fld.LID_COUNT_STATUS_integ_event_en then s.report 0x42 p 0 else s

/-- A line that is not delivered is told: a tag that failed, or an uncorrectable error of HBM (12 R561; 14 R643, R663). -/
def State.linePoisoned (s : State) (b phys : Nat) (tag : Bool) : State :=
  if tag then s.integrityFail (s.get Fld.CAP_BASKET_partition b)
  else s.hbmUncorrectable (physChan phys) (phys % 2 ^ 31 / 64 * 64)

/-- A walk that met an undelivered line of a table tells it. -/
def State.walkTold (s : State) (b : Nat) (x : Xlate) : State :=
  match x with
  | .poison a tag => s.linePoisoned b a tag
  | _ => s

/-- The 64 KiB pages a range of bytes touches, in ascending address. -/
def pagesOf (va len : Nat) : List Nat :=
  if len = 0 then [] else (List.range ((va + len - 1) / 65536 - va / 65536 + 1)).map (fun i => (va / 65536 + i) * 65536)

end Sys2Proof.Machine
end

