-- ==== Sys2Proof/Machine/Pager.lean ====
section
/-! DEFINITION. The pager: frames, first touches, spills and bring-backs, accesses of the device's own, heat, and the
pager's copy of the object tables (09 R394, R403, R411 to R430, R738; 12 R558, R560; 06 R265, R735). -/

namespace Sys2Proof.Machine

/-! ## Leaves and frames -/

/-- The leaf that maps an address, if a walk ends in one. -/
def State.leafAt (s : State) (b va : Nat) : Option Leaf :=
  match s.walk b va with
  | .leaf l => some l
  | _ => none

/-- Writes the pager's fields of a 64 KiB leaf of home T2, and drops what TLBs hold of its page (09 R398, R404). -/
def State.setLeaf (s : State) (b va : Nat) (l : Leaf) (res spillT4 loc : Nat) : State :=
  let e := l.entry % 2 ^ 7 + res * 2 ^ 7 + spillT4 * 2 ^ 9 + bit l.noSpill * 2 ^ 10 + 2 ^ 12 * loc
  (s.setTableEntry b l.eaddr e).dropTlb b (va / 65536 * 65536) 1

/-- The use of a frame, by its physical address over 65,536. -/
def State.frameUse (s : State) (f : Nat) : FrameUse := Sparse.get .free s.frames f

def State.setFrame (s : State) (f : Nat) (u : FrameUse) : State := { s with frames := Sparse.set .free s.frames f u }

/-- The channels of a piece that frames are taken from: those in effect that it is not losing. -/
def State.pieceChans (s : State) (b : Nat) : List Nat :=
  (List.range 256).filter (fun c => bitOf (s.pieceAt b).chans c && !s.draining c)

/-- The `k`-th frame of a piece's channels. -/
def frameNth (chans : List Nat) (k : Nat) : Nat := chans.getD (k / 24576) 0 * 2 ^ 24 + k % 24576

/-- The first free frame from the `k`-th on, in a circle of `total`. -/
def State.probeFrame (s : State) (chans : List Nat) (total : Nat) : Nat → Nat → Option Nat
  | 0, _ => none
  | n + 1, k =>
    let f := frameNth chans (k % total)
    if s.frameUse f = .free then some f else State.probeFrame s chans total n (k + 1)

/-- Takes a frame of a piece's free ones, if it has one; which is left open (log entry 70). -/
def State.takeFrame (s : State) (b : Nat) (u : FrameUse) : Option (Nat × State) :=
  let chans := s.pieceChans b
  let total := 24576 * chans.length
  if s.get Fld.PG_FREE_FRAMES_frames b = 0 ∨ total = 0 then none
  else match s.probeFrame chans total (s.frames.length + 1) (s.freeValue % total) with
    | none => none
    | some f => some (f, (s.drawn.setFrame f u).set Fld.PG_FREE_FRAMES_frames b (s.get Fld.PG_FREE_FRAMES_frames b - 1))

/-- Returns a frame to the free ones of a piece, unless the piece is losing its channel; its heat is forgotten. -/
def State.freeFrame (s : State) (b f : Nat) : State :=
  let s := { s with heat := Sparse.set 0 s.heat f 0 }.setFrame f .free
  if s.draining (f / 2 ^ 24) then s else s.bump Fld.PG_FREE_FRAMES_frames b

/-- Adds to or takes from a page count of a piece. -/
def State.addPages (s : State) (f : Field) (b : Nat) (up : Bool) : State :=
  s.set f b (if up then s.get f b + 1 else s.get f b - 1)

/-! ## KV pool pages -/

/-- The base of a piece's KV pool (06 R265). -/
def State.kvBase (s : State) (b : Nat) : Nat :=
  2 ^ 16 * s.get Fld.PG_KV_POOL_LO_base_lo b + 2 ^ 32 * s.get Fld.PG_KV_POOL_HI_base_hi b

/-- An address lies in the piece's KV pool. -/
def State.inKvPool (s : State) (b va : Nat) : Bool :=
  decide (s.kvBase b ≤ va) && decide (va < s.kvBase b + s.get Fld.PG_KV_POOL_PAGES_pages b * 65536)

/-- The sequences of a piece. -/
def State.kvSeqs (s : State) (b : Nat) : List (Nat × KvSeq) := Sparse.get [] s.kv b

/-- The sequence at an index. -/
def State.kvSeq (s : State) (b i : Nat) : KvSeq := Sparse.get KvSeq.free (s.kvSeqs b) i

/-- The pool pages that sequences of a piece hold, each once. -/
def State.kvHeld (s : State) (b : Nat) : List Nat := ((s.kvSeqs b).flatMap (fun e => e.2.pages)).eraseDups

/-- Where a pool page lies: 0 in T2, 1 in T3, 2 in T4, 3 nowhere yet. A page on its way out counts where it was. -/
def State.kvTier (s : State) (b page : Nat) : Nat :=
  match s.leafAt b (s.kvBase b + page * 65536) with
  | none => 3
  | some l => if l.res = 0 ∨ l.res = 3 then 0 else if l.res = 1 then 3 else if l.spillT4 then 2 else 1

/-- Recounts the pages of a piece's pool by tier (06 R265). -/
def State.countKv (s : State) (b : Nat) : State :=
  let held := s.kvHeld b
  let tier := fun (k : Nat) => (held.filter (fun p => s.kvTier b p == k)).length
  s.setAll b [(Fld.PG_KV_T2_USED_pages, tier 0), (Fld.PG_KV_T3_USED_pages, tier 1), (Fld.PG_KV_T4_USED_pages, tier 2),
    (Fld.PG_KV_FREE_pages, s.get Fld.PG_KV_POOL_PAGES_pages b - held.length)]

/-! ## Held pages and victims -/

/-- The basket of the context on a slot, by `core · 8 + slot`. -/
def State.slotBasket (s : State) (k : Nat) : Nat :=
  s.get Fld.WVR_CTX_STATE_basket_index (Sparse.get Slot.none s.slots k).ctx

/-- An operation in flight holds a page (09 R413). -/
def State.held (s : State) (b va : Nat) : Bool :=
  s.shards.any (fun e => s.slotBasket e.1 == b && e.2.ops.any (fun o => o.pages.contains (va / 65536 * 65536)))

/-- Pages of a piece the pager may spill: frame, address and heat (09 R418). -/
def State.spillable (s : State) (b : Nat) : List (Nat × Nat × Nat) :=
  s.frames.filterMap (fun e =>
    match e.2 with
    | .page va =>
      if !bitOf (s.pieceAt b).chans (e.1 / 2 ^ 24) || s.inKvPool b va || s.held b va || s.moving b va then none
      else match s.leafAt b va with
        | some l => if l.shift = 16 ∧ l.res = 0 ∧ l.home = 0 ∧ !l.noSpill then some (e.1, va, Sparse.get 0 s.heat e.1) else none
        | none => none
    | _ => none)

/-- The page to spill: least heat, then lowest address. -/
def State.victim (s : State) (b : Nat) : Option (Nat × Nat × Nat) :=
  (s.spillable b).foldl (fun a e =>
    match a with
    | none => some e
    | some x => if e.2.2 < x.2.2 ∨ (e.2.2 = x.2.2 ∧ e.2.1 < x.2.1) then some e else some x) none

/-! ## Places to spill to (09 R420 to R422; 11 R523) -/

/-- The other members of a piece that can be reached, fewest hops first, then lowest ordinal (10 R476). -/
def State.spillOrder (s : State) (b : Nat) : List Nat :=
  let sec := (s.pieceAt b).sec
  let hopsOf := fun (m : Nat) => ((sec.routes.find? (fun r => r.1 == m)).map (fun r => r.2.1)).getD 4
  let ms := (sec.memberList.map (fun e => e.2.1)).filter (fun m => m != s.me && !s.unreachable b m)
  [1, 2, 3, 4].flatMap (fun h => ms.filter (fun m => hopsOf m == h))

/-- Where the tags of a page of the piece's T4 spill area lie (12 R560). -/
def State.spillTags (s : State) (b i : Nat) : Nat := s.t4Base b + 65536 * s.get Fld.PG_T4_PAGES_pages b + 8192 * i

/-- A page of the piece's T4 spill area, and its tags, can be reached now (11 R502, R510, R523; 12 R569, R571). -/
def State.reachesSpill (s : State) (b i : Nat) : Bool :=
  let ok := fun (addr : Nat) => s.t4Reach b (s.spillPort b) addr && s.t4Out b (s.spillPort b) addr
  ok (s.spillAddr b i) && (!s.sidecarOn b || ok (s.spillTags b i))

/-- The first free page of the piece's T4 spill area; none while it cannot be reached, which counts as full (11 R523). -/
def State.t4Free (s : State) (b : Nat) : Option Nat :=
  let n := s.get Fld.PG_T4_PAGES_pages b
  ((List.range (min n ((s.pieceAt b).t4Used.length + 1))).find? (fun i => !(s.pieceAt b).t4Used.contains i)).filter (s.reachesSpill b)

/-- Where a spill goes: a member's guest frame, or a page of the T4 area. Whether a member has a free guest frame, and
which, this module learns from outside: a free value (log entry 71). -/
def State.spillPlace (s : State) (b : Nat) : Option MoveKind × State :=
  let ms := s.spillOrder b
  let r := s.freeValue
  let s := if ms.isEmpty then s else s.drawn
  match (ms.zipIdx.find? (fun e => bitOf r e.2)) with
  | some e => (some (.spillT3 e.1 (r / 2 ^ 32)), s)
  | none => ((s.t4Free b).map MoveKind.spillT4, s)

/-- Marks a page of the T4 area used or free. -/
def State.useT4 (s : State) (b i : Nat) (used : Bool) : State :=
  let p := s.pieceAt b
  { s with
    pieces := Sparse.set Piece.none s.pieces b { p with t4Used := if used then i :: p.t4Used else p.t4Used.filter (· != i) } }

/-! ## Packets of the pager -/

/-- The place of a packet of the local engines that the ports have not taken up yet. -/
def localPlace : Nat := 127

/-- A packet of a piece. -/
def State.packetOf (s : State) (b dest ptype label ref ledger args : Nat) (payload : List Byte) : Packet :=
  let slot := s.memSlot (s.get Fld.CAP_BASKET_partition b)
  let hops := (((s.pieceAt b).sec.routes.find? (fun r => r.1 == dest)).map (fun r => r.2.1)).getD 0
  { dest := BitVec.ofNat 14 dest, src := BitVec.ofNat 14 s.me, ptype := BitVec.ofNat 8 ptype, label := BitVec.ofNat 4 label,
    hops := BitVec.ofNat 2 hops, keySlot := BitVec.ofNat 8 slot, keyEpoch := BitVec.ofNat 8 (s.get Fld.KS_ATTR_epoch slot),
    uid := BitVec.ofNat 64 (s.basketUid b), ref := BitVec.ofNat 64 ref, ledger := BitVec.ofNat 33 ledger,
    args := BitVec.ofNat 128 args, payload := payload, links := 0, place := localPlace }

/-- Sends a MESSAGE packet of a basket (10 R459). -/
def State.sendMsg (s : State) (b dest label ref : Nat) (x : MsgBody) : State :=
  s.emit (.message (s.packetOf b dest 8 label ref 0 x.kind ((Config.messageBytes x).take 7376)) x)

/-- The 16 PAGE packets of a page at a physical address (10 R461). -/
def State.pagePackets (s : State) (b dest va phys : Nat) : List Packet :=
  (List.range 16).map (fun c =>
    let tags := if s.sidecarOn b then s.tagsOf b (va + 4096 * c) (phys + 4096 * c) 64 else []
    s.packetOf b dest 9 15 (va / 64 + 64 * c) 0 c (s.ciphers b (va + 4096 * c) (phys + 4096 * c) 64 ++ tags))

def State.emitAll (s : State) (ps : List Packet) : State := { s with outbox := s.outbox ++ ps.map Sent.packet }

/-! ## Moves -/

/-- A number no move in progress has. -/
def State.nextMove (s : State) : Nat := s.moves.foldl (fun n m => max n (m.id + 1)) 0

/-- The first tier-move engine of a channel's memory-side die that is not fenced (14 R649). -/
def State.moveEngine (s : State) (ch : Nat) : Nat :=
  (((List.range 4).map (fun k => ch / 32 * 4 + k)).find? (fun e => !s.fc.fenced.contains (256 + e))).getD (ch / 32 * 4)

/-- Adds a move. -/
def State.addMove (s : State) (b va : Nat) (k : MoveKind) (frame : Nat) : Nat × State :=
  let id := s.nextMove
  let m : Move := { id := id, basket := b, va := va / 65536 * 65536, kind := k, frame := frame,
                    engine := s.moveEngine (frame / 2 ^ 24), chunks := 0, ready := false }
  (id, { s with moves := s.moves ++ [m] })

/-! ## Poison that goes with a page (04 R178) -/

/-- The key of a line of a basket among those that left their frame with poison. -/
def awayKey (b va : Nat) : Nat := b * 2 ^ 50 + va / 64

/-- Marks of `n` lines of a table, from one line on. -/
def marksIn (m : List (Nat × Nat)) (line n : Nat) : List (Nat × Nat) :=
  m.filter (fun e => e.2 == 2 && decide (line ≤ e.1) && decide (e.1 < line + n))

/-- The poisoned lines of a frame are remembered with the page that leaves it. -/
def State.poisonLeaves (s : State) (b va phys : Nat) : State :=
  { s with awayPoison := (marksIn s.hbmPoison (phys / 64) 1024).foldl (fun a (e : Nat × Nat) =>
      Sparse.set 0 a (awayKey b va + (e.1 - phys / 64)) 2) s.awayPoison }

/-- What is remembered of `n` lines of a basket is forgotten. -/
def State.poisonForgotten (s : State) (b va n : Nat) : State :=
  { s with awayPoison := s.awayPoison.filter (fun (e : Nat × Nat) => !(decide (awayKey b va ≤ e.1) && decide (e.1 < awayKey b va + n))) }

/-- The poisoned lines of a page are poisoned in the frame it comes back to. -/
def State.poisonReturns (s : State) (b va phys : Nat) : State :=
  { s with hbmPoison := (marksIn s.awayPoison (awayKey b va) 1024).foldl (fun m (e : Nat × Nat) =>
      Sparse.set 0 m (phys / 64 + (e.1 - awayKey b va)) 2) s.hbmPoison }.poisonForgotten b va 1024

/-- The poisoned lines of a frame are poisoned in the frame its page is copied to. -/
def State.poisonCopied (s : State) (src dst : Nat) : State :=
  { s with hbmPoison := (marksIn s.hbmPoison (src / 64) 1024).foldl (fun m (e : Nat × Nat) =>
      Sparse.set 0 m (dst / 64 + (e.1 - src / 64)) 2) s.hbmPoison }

/-- The first poisoned line that bytes of a page accessed where it was spilled lie in. -/
def State.awayPoisoned (s : State) (b va n : Nat) : Option Nat :=
  ((marksIn s.awayPoison (awayKey b va) ((va + n + 63) / 64 - va / 64)).head?).map (fun e => (e.1 - b * 2 ^ 50) * 64)

/-- Begins to spill a resident page: its leaf moves, its bytes leave as ciphertext (09 R417, R418). -/
def State.startSpill (s : State) (b va : Nat) (l : Leaf) (k : MoveKind) : Nat × State :=
  let frame := l.frame / 65536
  let s := match k with
    | .spillT3 m _ => s.emitAll (s.pagePackets b m (va / 65536 * 65536) l.frame)
    | .spillT4 i => s.useT4 b i true
    | _ => s
  let s := ((s.poisonLeaves b (va / 65536 * 65536) l.frame).setLeaf b va l 3 0 0).addPages Fld.PG_RESIDENT_pages b false
  s.addMove b va k frame

/-- The ledger words of requests of the device's own: a bring-back, and a read or write of its own. No shard has these addresses. -/
def pagerWord : Nat := 255 * 2 ^ 11 + 59 * 2 ^ 19 + 255 * 2 ^ 25

def deviceWord : Nat := 255 * 2 ^ 11 + 62 * 2 ^ 19 + 255 * 2 ^ 25

/-- An answer is awaited of a module: by the context that a ledger word names, or by the device itself (08 R368; log entry 91). -/
def State.asks (s : State) (b word kind m va : Nat) : State :=
  if word < 2048 then s.setCtx word { s.ctxAt word with asked := (s.ctxAt word).asked ++ [(kind, m)] }
  else { s with own := s.own ++ [{ word := word, kind := kind, module := m, basket := b, va := va }] }

/-- Begins to bring a spilled page back to a frame; the holder is asked for the page (log entry 72). -/
def State.startBring (s : State) (b va : Nat) (l : Leaf) (frame : Nat) : Nat × State :=
  let va := va / 65536 * 65536
  let (k, s) := if l.spillT4 then (MoveKind.bringT4 (bitsOf l.entry 12 24), s)
    else (MoveKind.bringT3 l.module (bitsOf l.entry 26 32),
        (s.asks b pagerWord 6 l.module va).emit (.packet (s.packetOf b l.module 1 15 va pagerWord 65536 [])))
  (s.setLeaf b va l 3 0 0).addMove b va k frame

/-- The encrypted zero page at an address. -/
def State.zeroCipher (s : State) (b va : Nat) : List Byte :=
  let k := s.basketKey b
  (List.range 1024).flatMap (fun i => encLine k (tweakOf (s.basketUid b) (va / 65536 * 65536 + 64 * i)) (List.replicate 64 0))

/-- The tags of a page's ciphertext. -/
def State.pageTags (s : State) (b va : Nat) (cipher : List Byte) : List Byte :=
  if s.sidecarOn b then
    (List.range 1024).flatMap (fun i =>
      lineMac (s.basketKey b) (tweakOf (s.basketUid b) (va / 65536 * 65536 + 64 * i)) ((cipher.drop (64 * i)).take 64))
  else List.replicate 8192 0

/-- Writes a run of ciphertext lines of a page to its frame; tags that are missing are zero. -/
def State.putPage (s : State) (b va phys : Nat) (cipher tags : List Byte) : State :=
  let n := cipher.length / 64
  s.putRun b va phys n cipher (tags.take (8 * n) ++ List.replicate (8 * n - tags.length) 0)

/-- Writes a page, with its tags, to a page of the T4 spill area (12 R560). -/
def State.putT4Page (s : State) (b i : Nat) (cipher tags : List Byte) : State :=
  let port := 2 ^ 64 * s.spillPort b
  let m := s.tier4.write (port + s.spillAddr b i) cipher
  { s with tier4 := if s.sidecarOn b then m.write (port + s.spillTags b i) tags else m }

/-- The ciphertext and tags of a page of the T4 spill area. -/
def State.getT4Page (s : State) (b i : Nat) : List Byte × List Byte :=
  let port := 2 ^ 64 * s.spillPort b
  (s.tier4.read (port + s.spillAddr b i) 65536,
    if s.sidecarOn b then s.tier4.read (port + s.spillTags b i) 8192 else List.replicate 8192 0)

/-! ## Giving an access its page (05 R225; 09 R415, R422, R423) -/

/-- Gives a page a zeroed frame, as ciphertext with its tags (09 R415; 12 R558). -/
def State.fillFrame (s : State) (b va : Nat) (l : Leaf) (frame : Nat) : State :=
  let z := s.zeroCipher b va
  let s := s.putPage b (va / 65536 * 65536) (frame * 65536) z (s.pageTags b va z)
  (s.setLeaf b va l 0 0 frame).addPages Fld.PG_RESIDENT_pages b true

/-- No tier has room for a first touch of a piece (R423). -/
def State.noTier (s : State) (b va : Nat) : State :=
  let s := s.set Fld.PG_TIER_STATUS_oom b 1
  if s.flag Fld.PG_TIER_STATUS_oom_event_en b then s.report 0x35 b va else s

/-- An access in place, where a first touch or a bring-back found no frame (R422). -/
def State.inPlace (s : State) (b : Nat) : State := s.count Fld.PG_INPLACE_COUNT_count b Fld.PG_TIER_STATUS_wrap b 2

/-- Gives an unpopulated page a zeroed page in T3 or T4 (09 R422). -/
def State.fillAway (s : State) (b va : Nat) (l : Leaf) : PageAt × State :=
  let z := s.zeroCipher b va
  let tags := s.pageTags b va z
  match s.spillPlace b with
  | (some (.spillT3 m g), s) =>
    let ps := (List.range 16).map (fun c => s.packetOf b m 9 15 (va / 65536 * 1024 + 64 * c) 0 c
      ((z.drop (4096 * c)).take 4096 ++ (if s.sidecarOn b then (tags.drop (512 * c)).take 512 else [])))
    (.atT3 m, (((s.emitAll ps).setLeaf b va l 2 0 (m % 2 ^ 14 + g % 2 ^ 32 * 2 ^ 14)).addPages Fld.PG_SPILL_T3_pages b true).inPlace b)
  | (some (.spillT4 i), s) =>
    (.atT4 i, ((((s.useT4 b i true).putT4Page b i z tags).setLeaf b va l 2 1 i).addPages Fld.PG_SPILL_T4_pages b true).inPlace b)
  | (_, s) => (.noRoom, s.noTier b va)

/-- Spills the victim of a piece, if there is one and a place for it; the number of the move. -/
def State.makeRoom (s : State) (b : Nat) : Option (Nat × State) :=
  match s.victim b with
  | none => none
  | some (_, va, _) =>
    match s.leafAt b va, s.spillPlace b with
    | some l, (some k, s) =>
      let (id, s) := s.startSpill b va l k
      some (id, s.count Fld.PG_EVICT_COUNT_count b Fld.PG_TIER_STATUS_wrap b 0)
    | _, _ => none

/-- The number of the move of a page in progress. -/
def State.moveOf (s : State) (b va : Nat) : Nat :=
  ((s.moves.find? (fun m => m.basket == b && m.va == va / 65536 * 65536)).map Move.id).getD 0

/-- An operation in flight accesses a page where it was spilled to: the page stays there until that operation completes (R413; log
entry 185). -/
def State.heldAway (s : State) (b va : Nat) : Bool :=
  s.shards.any (fun e => s.slotBasket e.1 == b && e.2.ops.any (fun o => o.places.any (fun y =>
    y.1 == va / 65536 * 65536 && (match y.2 with
      | .atT3 _ => true
      | .atT4 _ => true
      | _ => false))))

/-- A spilled page comes back to a frame, or is accessed where it lies: one the pager does not move (R414), or one for which no frame
can be had (R422). -/
def State.bringBack (s : State) (b va : Nat) (l : Leaf) (stay : PageAt) : PageAt × State :=
  if l.noSpill || s.heldAway b va then (stay, s)
  else match s.takeFrame b (.page (va / 65536 * 65536)) with
    | some (f, s) => let (id, s) := s.startBring b va l f; (.wait id, s)
    | none =>
      match s.makeRoom b with
      | some (id, s) => (.wait id, s)
      | none => (stay, s.inPlace b)

/-- Gives an access to an address its page: a first touch, a bring-back, or where it lies; or says that it cannot be reached. -/
def State.settle (s : State) (b va : Nat) (l : Leaf) : PageAt × State :=
  match l.place va with
  | .t2 phys => (.here phys, s)
  | .t3 m => (if s.unreachable b m then .lost m else .t3 m, s)
  | .t4 port addr => (if s.t4Reach b port addr then .t4 port addr else .barred, s)
  | .moving => (.wait (s.moveOf b va), s)
  | .unpopulated =>
    match s.takeFrame b (.page (va / 65536 * 65536)) with
    | some (f, s) => (.here (f * 65536 + va % 65536), s.fillFrame b va l f)
    | none =>
      match s.makeRoom b with
      | some (id, s) => (.wait id, s)
      | none => s.fillAway b va l
  | .spillT3 m _ => if s.unreachable b m then (.lost m, s) else s.bringBack b va l (.atT3 m)
  | .spillT4 i => if s.t4Reach b (s.spillPort b) (s.spillAddr b i) then s.bringBack b va l (.atT4 i) else (.barred, s)

/-! ## Bytes of a page -/

/-- What reading bytes finds. -/
inductive Bytes where
  | ok (bs : List Byte)
  /-- A poisoned line, by its address; whether its tag failed. -/
  | poison (va : Nat) (integrity : Bool)
  deriving DecidableEq, Repr

def Bytes.append (x y : Bytes) : Bytes :=
  match x, y with
  | .ok a, .ok b => .ok (a ++ b)
  | .ok _, p => p
  | p, _ => p

/-- Pieces of bytes joined; the first poison stands for all. -/
def joinBytes (xs : List Bytes) : Bytes := xs.foldl Bytes.append (.ok [])

/-- The lines that `n` bytes from an address touch. -/
def linesOf (va n : Nat) : List Nat :=
  if n = 0 then [] else (List.range ((va + n - 1) / 64 - va / 64 + 1)).map (fun i => (va / 64 + i) * 64)

/-- `n` bytes of a resident page from an address that lies at a physical one. -/
def State.readHere (s : State) (b va phys n : Nat) : Bytes :=
  match joinBytes ((linesOf va n).map (fun l =>
      match s.getLine b l (phys / 64 * 64 + (l - va / 64 * 64)) with
      | .ok x => .ok x
      | .poison i => .poison l i)) with
  | .ok bs => .ok ((bs.drop (va % 64)).take n)
  | p => p

/-- New bytes laid over a line from an offset. -/
def overlay (line : List Byte) (off : Nat) (bs : List Byte) : List Byte := line.take off ++ bs ++ line.drop (off + bs.length)

/-- A seal is at an index in a state; its range covers part of a range of bytes (15 R683, R697). -/
def State.sealCovers (s : State) (b i va n : Nat) : Bool :=
  let k := b * 16 + i
  let base := 2 ^ 16 * s.get Fld.PG_SEAL_BASE_LO_base_lo k + 2 ^ 32 * s.get Fld.PG_SEAL_BASE_HI_base_hi k
  decide (va < base + s.get Fld.PG_SEAL_LEN_pages k * 65536) && decide (base < va + n)

def State.sealAt (s : State) (b i : Nat) : SealRec := Sparse.get SealRec.none s.seals (b * 16 + i)

/-- A seal becomes BROKEN here (15 R685). -/
def State.breakSeal (s : State) (b i : Nat) : State :=
  let k := b * 16 + i
  let r := s.sealAt b i
  { s.set Fld.PG_SEAL_CMD_state k 3 with seals := Sparse.set SealRec.none s.seals k { r with breaks := r.breaks + 1 } }

/-- The other destinations of a basket's ROUTES record. -/
def State.routeModules (s : State) (b : Nat) : List Nat := ((s.pieceAt b).sec.routes.map (fun r => r.1)).filter (· != s.me)

/-- A write, or an edit, over lines of an INTACT seal breaks it here and tells every member (15 R685). -/
def State.breakSeals (s : State) (b va n : Nat) : State :=
  ((List.range 16).filter (fun i => s.get Fld.PG_SEAL_CMD_state (b * 16 + i) == 2 && s.sealCovers b i va n)).foldl (fun s i =>
    (s.routeModules b).foldl (fun s m => s.emit (.sealBreak (BitVec.ofNat 14 m) (BitVec.ofNat 64 (s.basketUid b)) i)) (s.breakSeal b i)) s

/-- Writes bytes to a resident page; a seal over them breaks. A partial write to a poisoned line leaves the line as it is (04 R178), and
the line is told (12 R561). -/
def State.writeHere (s : State) (b va phys : Nat) (bs : List Byte) : State :=
  (linesOf va bs.length).foldl (fun s l =>
    let lo := max l va
    let hi := min (l + 64) (va + bs.length)
    let part := (bs.drop (lo - va)).take (hi - lo)
    let p := phys / 64 * 64 + (l - va / 64 * 64)
    if part.length = 64 then s.putLine b l p part
    else match s.getLine b l p with
      | .ok old => s.putLine b l p (overlay old (lo - l) part)
      | .poison tag => s.linePoisoned b p tag) (s.breakSeals b va bs.length)

/-- The bytes of a line of home T4 behind a root port: ciphertext on a link in CXL role (12 R558). -/
def State.cxlRole (s : State) (port : Nat) : Bool := bitOf (s.get Fld.HI_LINK_CFG_role 0) port

/-- Bytes of a page of home T4. -/
def State.readT4 (s : State) (b va port addr n : Nat) : List Byte :=
  let at4 := port * 2 ^ 64 + addr
  if s.cxlRole port then
    (((linesOf va n).flatMap (fun l =>
      decLine (s.basketKey b) (tweakOf (s.basketUid b) l) (s.tier4.read (at4 / 64 * 64 + (l - va / 64 * 64)) 64))).drop (va % 64)).take n
  else s.tier4.read at4 n

/-- Writes bytes of a page of home T4. -/
def State.writeT4 (s : State) (b va port addr : Nat) (bs : List Byte) : State :=
  let at4 := port * 2 ^ 64 + addr
  if s.cxlRole port then
    (linesOf va bs.length).foldl (fun s l =>
      let lo := max l va
      let hi := min (l + 64) (va + bs.length)
      let p := at4 / 64 * 64 + (l - va / 64 * 64)
      let tw := tweakOf (s.basketUid b) l
      let old := decLine (s.basketKey b) tw (s.tier4.read p 64)
      { s with
        tier4 := s.tier4.write p (encLine (s.basketKey b) tw (overlay old (lo - l) ((bs.drop (lo - va)).take (hi - lo)))) }) s
  else { s with tier4 := s.tier4.write at4 bs }

/-- A line of a page in the T4 spill area (12 R560, R561). -/
def State.spillLine (s : State) (b i l : Nat) : LineRead :=
  let k := s.basketKey b
  let port := 2 ^ 64 * s.spillPort b
  let c := s.tier4.read (port + s.spillAddr b i + l % 65536) 64
  let tw := tweakOf (s.basketUid b) l
  if (s.awayPoisoned b l 64).isSome then .poison false
  else if s.sidecarOn b && lineMac k tw c != s.tier4.read (port + s.spillTags b i + l % 65536 / 8) 8 then .poison true
  else .ok (decLine k tw c)

/-- Bytes of a page accessed where it lies in the T4 spill area. -/
def State.readSpill (s : State) (b i va n : Nat) : Bytes :=
  match joinBytes ((linesOf va n).map (fun l =>
      match s.spillLine b i l with
      | .ok x => Bytes.ok x
      | .poison t => .poison l t)) with
  | .ok bs => .ok ((bs.drop (va % 64)).take n)
  | p => p

/-- Writes a line of a page in the T4 spill area, with its tag. -/
def State.putSpillLine (s : State) (b i l : Nat) (line : List Byte) : State :=
  let k := s.basketKey b
  let port := 2 ^ 64 * s.spillPort b
  let tw := tweakOf (s.basketUid b) l
  let c := encLine k tw line
  let m := s.tier4.write (port + s.spillAddr b i + l % 65536) c
  { s with tier4 := if s.sidecarOn b then m.write (port + s.spillTags b i + l % 65536 / 8) (lineMac k tw c) else m }

/-- Writes bytes of a page accessed where it lies in the T4 spill area; a line written in part that is not delivered stays as it is, as in
T2. -/
def State.writeSpill (s : State) (b i va : Nat) (bs : List Byte) : State :=
  (linesOf va bs.length).foldl (fun s l =>
    let lo := max l va
    let hi := min (l + 64) (va + bs.length)
    let part := (bs.drop (lo - va)).take (hi - lo)
    if hi - lo = 64 then (s.putSpillLine b i l part).poisonForgotten b l 1
    else match s.spillLine b i l with
      | .ok old => s.putSpillLine b i l (overlay old (lo - l) part)
      | .poison tag => if tag then s.integrityFail (s.get Fld.CAP_BASKET_partition b) else s) s

/-- A range of bytes cut at page borders: address and length. -/
def cutPages (va n : Nat) : List (Nat × Nat) :=
  (pagesOf va n).map (fun p => (max p va, min (p + 65536) (va + n) - max p va))

/-! ## Accesses of the device's own -/

/-- What a read of the device's own finds. -/
inductive DevRead where
  | ok (bs : List Byte)
  /-- The first address that cannot be read, with reason and level. -/
  | fault (va reason level : Nat)
  | poison (va : Nat)
  /-- The module that holds the page of an address cannot be reached (09 R424, R737). -/
  | lost (module va : Nat)
  /-- Bytes must first come from elsewhere: a move to wait for, the lines of another module that have been asked for, or a link that is
  not open (11 R523). -/
  | away
  deriving DecidableEq, Repr

/-- The bytes of a range among chunks that have arrived. -/
def chunkAt (got : List (Nat × List Byte)) (va n : Nat) : Option (List Byte) :=
  (got.find? (fun (c : Nat × List Byte) => decide (c.1 ≤ va) && decide (va + n ≤ c.1 + c.2.length))).map
    (fun (c : Nat × List Byte) => (c.2.drop (va - c.1)).take n)

/-- The first page of a range whose translation, or read right, is missing. -/
def State.devCheck (s : State) (b va n need : Nat) : Option (Nat × Nat × Nat) :=
  (cutPages va n).findSome? (fun c =>
    if 2 ^ 56 ≤ c.1 then some (c.1, 6, 0)
    else match s.walk b c.1 with
      | .fault r l => some (c.1, r, l)
      | .poison _ _ => none
      | .leaf l => if l.rights &&& need != need then some (c.1, 2, l.level) else none)

/-- The plain bytes of an access of this module to a page at its place. -/
def State.placeRead (s : State) (b va n : Nat) (p : PageAt) : Bytes :=
  match p with
  | .here phys => s.readHere b va phys n
  | .t4 port addr => .ok (s.readT4 b va port addr n)
  | .atT4 i => s.readSpill b i va n
  | _ => .ok []

/-- A poisoned line at `a` of an access from `va` on has been met. -/
def State.poisonMet (s : State) (b a va : Nat) (p : PageAt) (tag : Bool) : State :=
  match p with
  | .here phys => s.linePoisoned b (phys / 64 * 64 + (a - va / 64 * 64)) tag
  | _ => if tag then s.integrityFail (s.get Fld.CAP_BASKET_partition b) else s

/-- A place behind a root port is open to a request of the device's own now (11 R502, R523). -/
def State.open4 (s : State) (b : Nat) (p : PageAt) : Bool :=
  match p with
  | .t4 port addr => s.t4Out b port addr
  | .atT4 i => s.reachesSpill b i
  | _ => true

/-- One page's part of a read of the device's own. `got` holds bytes that have already come from elsewhere. -/
def State.devPage (s : State) (b : Nat) (got : List (Nat × List Byte)) (va n ledger : Nat) : DevRead × State :=
  match s.walk b va with
  | .fault r l => (.fault va r l, s)
  | .poison a tag => (.poison va, s.linePoisoned b a tag)
  | .leaf l =>
    let ask := fun (s : State) (m : Nat) =>
      let n := (va + n - 1) / 64 * 64 + 64 - va / 64 * 64
      (DevRead.away, (s.asks b ledger 6 m (va / 64 * 64)).emit (.packet (s.packetOf b m 1 0 (va / 64 * 64) ledger n [])))
    let come := match l.place va with
      | .t3 _ => chunkAt got va n
      | .spillT3 _ _ => chunkAt got va n
      | _ => none
    match come with
    | some bs => (.ok bs, s)
    | none =>
      match s.settle b va l with
      | (.t3 m, s) => ask s m
      | (.atT3 m, s) => ask s m
      | (.wait _, s) => (.away, s)
      | (.noRoom, s) => (.fault va 5 4, s)
      | (.barred, s) => (.fault va 2 l.level, s)
      | (.lost m, s) => (.lost m va, s)
      | (p, s) =>
        if !s.open4 b p then (.away, s)
        else match s.placeRead b va n p with
          | .ok bs => (.ok bs, s)
          | .poison a tag => (.poison a, s.poisonMet b a va p tag)

/-- A read of the device's own: the weaver's structures, rings and fences. Missing read right faults when `need` is 1. -/
def State.devRead (s : State) (b : Nat) (got : List (Nat × List Byte)) (va n need ledger : Nat) : DevRead × State :=
  match s.devCheck b va n need with
  | some (a, r, l) => (.fault a r l, s)
  | none =>
    (cutPages va n).foldl (fun acc c =>
      match acc.1 with
      | .ok bs =>
        (match acc.2.devPage b got c.1 c.2 ledger with
          | (.ok more, s) => (.ok (bs ++ more), s)
          | (x, s) => (x, s))
      | _ => acc) (.ok [], s)

/-- A read of the device's own that asks another module for a part of the range only once: `asked` holds the parts asked for. -/
def State.readOnce (s : State) (b : Nat) (got : List (Nat × List Byte)) (asked : List Nat) (va n need word : Nat) :
    DevRead × List Nat × State :=
  match s.devCheck b va n need with
  | some (a, r, l) => (.fault a r l, asked, s)
  | none =>
    (cutPages va n).foldl (fun (acc : DevRead × List Nat × State) c =>
      let (d, asked, s) := acc
      match d with
      | .ok bs =>
        if asked.contains c.1 && (chunkAt got c.1 c.2).isNone then (.away, asked, s)
        else match s.devPage b got c.1 c.2 word with
          | (.ok more, s) => (.ok (bs ++ more), asked, s)
          | (.away, s) =>
            (.away, if s.own.any (fun q => q.word == word && q.basket == b && q.va == c.1 / 64 * 64) then c.1 :: asked else asked, s)
          | (d, s) => (d, asked, s)
      | _ => acc) (.ok [], asked, s)

/-- Plain lines of a basket from an address on, as ciphertext (12 R557). -/
def State.cipherLines (s : State) (b va : Nat) (plain : List Byte) : List Byte :=
  (List.range (plain.length / 64)).flatMap (fun i =>
    encLine (s.basketKey b) (tweakOf (s.basketUid b) (va + 64 * i)) ((plain.drop (64 * i)).take 64))

/-- The tags that lines of ciphertext carry beside them in a packet, where the partition's lines carry tags (12 R560; log entry 201). -/
def State.lineTags (s : State) (b va : Nat) (cipher : List Byte) : List Byte :=
  if s.sidecarOn b then
    (List.range (cipher.length / 64)).flatMap (fun i =>
      lineMac (s.basketKey b) (tweakOf (s.basketUid b) (va + 64 * i)) ((cipher.drop (64 * i)).take 64))
  else []

/-- Whole lines go to another module in WRITE packets of at most 4,096 bytes (10 R457, R459): the addresses written. -/
def State.sendLines (s : State) (b m label va ledger : Nat) (plain : List Byte) : List Nat × State :=
  let cipher := s.cipherLines b va plain
  (List.range ((cipher.length + 4095) / 4096)).foldl (fun (a : List Nat × State) i =>
    let at' := va + 4096 * i
    let part := (cipher.drop (4096 * i)).take 4096
    (a.1 ++ [at'], a.2.emit (.packet (a.2.packetOf b m 3 label at' ledger part.length (part ++ a.2.lineTags b at' part))))) ([], s)

/-- Whole lines of the device's own go to another module; each packet's answer is awaited. -/
def State.sendOwn (s : State) (b m va : Nat) (plain : List Byte) : State :=
  let (sent, s) := s.sendLines b m 0 va deviceWord plain
  sent.foldl (fun s a => s.asks b deviceWord 2 m a) s

/-- A write of the device's own to another module: lines written in part are read first, and the write waits for them. -/
def State.putAway (s : State) (b m va : Nat) (bs : List Byte) : State :=
  if va % 64 = 0 ∧ bs.length % 64 = 0 then s.sendOwn b m va bs
  else
    let lo := va / 64 * 64
    (({ s with deferred := s.deferred ++ [{ basket := b, va := va, bytes := bs, away := some m }] } : State).asks b deviceWord 6 m lo).emit
      (.packet (s.packetOf b m 1 0 lo deviceWord ((va + bs.length + 63) / 64 * 64 - lo) []))

/-- What has become of a write of the device's own: performed, waiting, or dropped. -/
inductive Written where
  | done
  | later
  | dropped
  deriving DecidableEq, Repr

def Written.and (x y : Written) : Written :=
  match x, y with
  | .dropped, _ => .dropped
  | _, .dropped => .dropped
  | .later, _ => .later
  | _, y => y

/-- A write of the device's own is not performed: an interrupt that waits for it is not sent (11 R515). -/
def State.unnote (s : State) (b a : Nat) : State :=
  { s with queues := s.queues.map (fun (e : Nat × QueueData) =>
      (e.1, { e.2 with notes := e.2.notes.filter (fun n => !(n.1 == b && n.2 / 64 == a / 64)) })) }

/-- A write of the device's own has been dropped: the translation fault is recorded, and its event raised (09 R403). -/
def State.dropWrite (s : State) (b a r l : Nat) : State :=
  let s := s.unnote b a
  let t := s.recordFault b (.translation a r l)
  if s.flag Fld.XL_FAULT_INFO_fault_event_en b then t else t.report 0x34 b a

/-- Puts one page's part of a write of the device's own where the page lies; a write to a page on the move, or behind a link that is not
open, waits. One to a module that cannot be reached is lost (log entry 186). -/
def State.devPut (s : State) (b va : Nat) (bs : List Byte) : Written × State :=
  match s.leafAt b va with
  | none => (.dropped, s.unnote b va)
  | some l =>
    let later := fun (s : State) =>
      (Written.later, { s with deferred := s.deferred ++ [{ basket := b, va := va, bytes := bs, away := none }] })
    match s.settle b va l with
    | (.here phys, s) => (.done, s.writeHere b va phys bs)
    | (.t4 port addr, s) => if s.t4Out b port addr then (.done, s.writeT4 b va port addr bs) else later s
    | (.atT4 i, s) => if s.reachesSpill b i then (.done, s.writeSpill b i va bs) else later s
    | (.t3 m, s) => (.later, s.putAway b m va bs)
    | (.atT3 m, s) => (.later, s.putAway b m va bs)
    | (.wait _, s) => later s
    | (.noRoom, s) => (.dropped, s.dropWrite b va 5 4)
    | (.barred, s) => (.dropped, s.dropWrite b va 2 l.level)
    | (.lost _, s) => (.dropped, s.unnote b va)

/-- A write of the device's own, without a rights check; one whose translation faults is dropped and told (09 R403). -/
def State.devWrites (s : State) (b va : Nat) (bs : List Byte) : Written × State :=
  (cutPages va bs.length).foldl (fun a c =>
    let (x, s) := match a.2.devCheck b c.1 1 0 with
      | some (va, r, l) => (Written.dropped, a.2.dropWrite b va r l)
      | none => a.2.devPut b c.1 ((bs.drop (c.1 - va)).take c.2)
    (a.1.and x, s)) (.done, s)

def State.devWrite (s : State) (b va : Nat) (bs : List Byte) : State := (s.devWrites b va bs).2

/-! ## Watches (08 R384, R385; 09 R425) -/

/-- The address of a wake: the ledger entry of an operation; shard, entry and generation 0 for a command (R384; log entry 91). -/
def State.wakeAddress (s : State) (w : Waiter) : Nat × Nat × Nat × Nat :=
  match w with
  | .entry core slot e =>
    ((s.slotAt core slot).ctx, (s.shardAt core slot).shard, e.val,
      (Sparse.get LedgerEntry.free s.ledger ((core.val * 8 + slot) * 64 + e)).gen)
  | .command c => (c.val, 0, 0, 0)
  | .kernelStart c => (c.val, 0, 0, 0)
  | .away _ w => (w.val % 2 ^ 11, bitsOf w 11 8, bitsOf w 19 6, bitsOf w 25 8)

/-- The ledger word of a waiter: where the answers to what it asks go (10 R458). -/
def State.waiterWord (s : State) (w : Waiter) : Nat :=
  let (c, sh, e, g) := s.wakeAddress w
  c + sh * 2 ^ 11 + e * 2 ^ 19 + g * 2 ^ 25

/-- The class label of a context's kernel. -/
def State.kernelLabel (s : State) (c : Nat) : Nat := ((s.ctxAt c).kernel.map (fun k => leNat ((k.desc.drop 9).take 1) % 16)).getD 0

/-- The class label of what a waiter asks. -/
def State.waiterLabel (s : State) (w : Waiter) : Nat :=
  match w with
  | .entry core slot _ => s.kernelLabel (s.slotAt core slot).ctx
  | .command c => s.get Fld.WVR_CTX_SHARE_label c
  | .kernelStart c => s.kernelLabel c
  | .away _ _ => 0

/-- The module of a waiter. -/
def State.waiterModule (s : State) (w : Waiter) : Nat :=
  match w with
  | .away m _ => m.val
  | _ => s.me

/-- Sends a wake to a waiter: status 0 satisfied, 1 in error. -/
def State.sendWake (s : State) (w : Waiter) (ok : Bool) : State :=
  let (c, sh, e, g) := s.wakeAddress w
  s.emit (.resp (BitVec.ofNat 14 (s.waiterModule w))
    { src := BitVec.ofNat 14 s.me, ctx := BitVec.ofNat 11 c, shard := BitVec.ofNat 8 sh, entry := BitVec.ofNat 6 e,
      gen := BitVec.ofNat 8 g, kind := 5, status := if ok then 0 else 1 })

/-- Shows how many watches are in use. -/
def State.showWatches (s : State) : State :=
  s.set Fld.WVR_WATCH_USED_watches 0 (s.watches.filter (fun w => !w.polls && decide (w.die < 8))).length

/-- Drops the watch of a waiter. -/
def State.unwatch (s : State) (w : Waiter) : State :=
  { s with watches := s.watches.filter (fun x => x.waiter != w) }.showWatches

/-- Registers a watch at the die that holds a fence. Where that die has none free the waiter polls, which is counted once for the wait;
where no die holds the fence, it polls (R384, R385; log entry 90). -/
def State.watch (s : State) (b va target die : Nat) (w : Waiter) : State :=
  let again := s.watches.any (fun x => x.waiter == w && x.va == va && x.polls)
  let s := s.unwatch w
  let used := (s.watches.filter (fun x => !x.polls && x.die == die)).length
  let full := decide (die < 8) && decide (1024 ≤ used)
  let s := if full then s.set Fld.WVR_STATUS_watch_full 0 1 else s
  let s := if full && !again then s.count Fld.WVR_WATCH_POLL_COUNT_count 0 Fld.WVR_STATUS_poll_wrap 0 0 else s
  { s with
    watches := s.watches ++ [({ die := die, basket := b, va := va, target := target, waiter := w,
                                polls := full || die == 8, polled := s.time } : Watch)] : State }.showWatches

/-- A waiter of a context's own awaits the answer to a read of a fence. -/
def State.asksFence (s : State) (b m va : Nat) (w : Waiter) : State :=
  match w with
  | .entry _ _ _ => s
  | .away _ _ => s
  | .command c => s.asks b c 6 m va
  | .kernelStart c => s.asks b c 6 m va

/-- A read of a fence for a wait, sent to the module that holds it: the target goes with it, so that the wait is registered there (log entry
90). A waiter of another module is answered itself. -/
def State.askFence (s : State) (b m va target : Nat) (w : Waiter) : State :=
  let pkt := s.packetOf b m 1 (s.waiterLabel w) va (s.waiterWord w) (16 + 2 ^ 64 * target) []
  (s.asksFence b m va w).emit (.packet { pkt with src := BitVec.ofNat 14 (s.waiterModule w) })

/-- The watches on a page are registered at another die. -/
def State.rewatch (s : State) (b va die : Nat) : State :=
  (s.watches.filter (fun w => w.basket == b && w.va / 65536 == va / 65536 && w.die != die)).foldl (fun s w =>
    s.watch b w.va w.target die w.waiter) s

/-- The watches on a page go with it: to its new die, or to the module that holds it now; the waiters of a page that no die holds poll. -/
def State.moveWatches (s : State) (b va : Nat) : State :=
  match s.leafAt b va with
  | none => s
  | some l =>
    let away := fun (m : Nat) =>
      (s.watches.filter (fun w => w.basket == b && w.va / 65536 == va / 65536 && w.die != 9)).foldl (fun s w =>
        ((match w.waiter with
          | .away _ _ => s.unwatch w.waiter
          | _ => s.watch b w.va w.target 9 w.waiter).askFence b m w.va w.target w.waiter)) s
    match l.place va with
    | .t2 phys => s.rewatch b va (physChan phys / 32)
    | .t3 m => away m
    | .spillT3 m _ => away m
    | _ => s.rewatch b va 8

/-! ## The end of a move (09 R412, R416) -/

/-- A move has all its bytes. -/
def State.moveReady (s : State) (m : Move) : Bool :=
  match m.kind with
  | .bringT3 _ _ => m.chunks == 2 ^ 16 - 1
  | .bringT4 i => s.reachesSpill m.basket i
  | .spillT3 _ _ => m.ready
  | .spillT4 i => s.reachesSpill m.basket i
  | .migrate _ => true
  | .guestIn _ => false

/-- A bring-back of a page is over: its holder's answer is awaited no more. -/
def State.bringOver (s : State) (m : Move) : State :=
  { s with own := s.own.filter (fun q => !(q.word == pagerWord && q.basket == m.basket && q.va == m.va)) }

/-- A move ends, but for the watches on its page: its bytes lie where it takes them, its leaf says so, its frame is free or in use. -/
def State.moveEnds (s : State) (m : Move) : State :=
  let b := m.basket
  let leaf := s.leafAt b m.va
  let s := { s with moves := s.moves.filter (fun x => x.id != m.id) }.bringOver m
  match leaf with
  | none => s
  | some l =>
    let phys := m.frame * 65536
    match m.kind with
    | .bringT3 w g =>
      let s := (((s.poisonReturns b m.va phys).setLeaf b m.va l 0 0 m.frame).addPages Fld.PG_RESIDENT_pages b true).addPages
        Fld.PG_SPILL_T3_pages b false
      (s.count Fld.PG_FILL_COUNT_count b Fld.PG_TIER_STATUS_wrap b 1).emit
        (.guestFree (BitVec.ofNat 14 w) (BitVec.ofNat 64 (s.basketUid b)) g)
    | .bringT4 i =>
      let (c, t) := s.getT4Page b i
      let s := ((s.putPage b m.va phys c t).poisonReturns b m.va phys).useT4 b i false
      let s := ((s.setLeaf b m.va l 0 0 m.frame).addPages Fld.PG_RESIDENT_pages b true).addPages Fld.PG_SPILL_T4_pages b false
      s.count Fld.PG_FILL_COUNT_count b Fld.PG_TIER_STATUS_wrap b 1
    | .spillT3 w g =>
      ((s.setLeaf b m.va l 2 0 (w % 2 ^ 14 + g % 2 ^ 32 * 2 ^ 14)).freeFrame b m.frame).addPages Fld.PG_SPILL_T3_pages b true
    | .spillT4 i =>
      let s := s.putT4Page b i (s.ciphers b m.va phys 1024) (s.tagsOf b m.va phys 1024)
      ((s.setLeaf b m.va l 2 1 i).freeFrame b m.frame).addPages Fld.PG_SPILL_T4_pages b true
    | .migrate src =>
      let s := s.putPage b m.va phys (s.ciphers b m.va (src * 65536) 1024) (s.tagsOf b m.va (src * 65536) 1024)
      ((s.poisonCopied (src * 65536) phys).setLeaf b m.va l 0 0 m.frame).setFrame src .free
    | .guestIn _ => s

/-- Ends a move; the watches on its page go with it (R425). -/
def State.endMove (s : State) (m : Move) : State := (s.moveEnds m).moveWatches m.basket m.va

/-- Some write of the device's own to `n` bytes of a basket has not been performed: it waits for a page, or for the answer of another
module (05 R191; 08 R382). -/
def State.unwritten (s : State) (b va n : Nat) : Bool :=
  s.deferred.any (fun d => d.basket == b && decide (d.va < va + n) && decide (va < d.va + d.bytes.length)) ||
  s.own.any (fun q => q.kind == 2 && q.basket == b && decide (va / 64 * 64 ≤ q.va) && decide (q.va < va + n))

/-- The device's own writes that a page held up are tried again. -/
def State.retryWrites (s : State) : State :=
  (s.deferred.filter (fun d => d.away.isNone)).foldl (fun s d => s.devWrite d.basket d.va d.bytes)
    { s with deferred := s.deferred.filter (fun d => d.away.isSome) }

/-! ## Heat (09 R419) -/

/-- HEAT_EPOCH: the heat of each resident page of 64 KiB halves, and gains 128 where an L2 TLB entry of it has its accessed
bit; those bits are then cleared. -/
def execHeatEpoch (s : State) : Out :=
  let seen := fun (f : Nat) => s.tlb2.any (fun e => e.2.any (fun t => t.shift == 16 && t.accessed && t.phys / 65536 == f))
  let heat := s.frames.foldl (fun h e =>
    match e.2 with
    | .page _ => Sparse.set 0 h e.1 (Sparse.get 0 s.heat e.1 / 2 + 128 * bit (seen e.1))
    | _ => h) s.heat
  .next { s with heat := heat, tlb2 := s.tlb2.map (fun e => (e.1, e.2.map (fun t => { t with accessed := false }))) }

/-! ## The object table (09 R426 to R430, R738) -/

/-- The pager's copy of a piece's object table. -/
def State.objTable (s : State) (b : Nat) : ObjTable := Sparse.get { inEffect := false, entries := [] } s.objects b

def State.setObjTable (s : State) (b : Nat) (t : ObjTable) : State :=
  { s with objects := Sparse.set { inEffect := false, entries := [] } s.objects b t }

def ObjEntry.none : ObjEntry := { generation := 0, state := 0, base := 0, pages := 0, pins := 0 }

/-- An object of a piece. -/
def State.objAt (s : State) (b h : Nat) : ObjEntry := Sparse.get ObjEntry.none (s.objTable b).entries h

/-- The 32 bytes of an entry (09 Table 7). -/
def ObjEntry.bytes (e : ObjEntry) : List Byte :=
  leBytes 4 e.generation ++ leBytes 4 e.state ++ leBytes 8 e.base ++ leBytes 4 e.pages ++ leBytes 4 e.pins ++ leBytes 8 0

/-- The address of the object table. -/
def State.objTableVa (s : State) (b : Nat) : Nat :=
  2 ^ 5 * s.get Fld.PG_OBJ_TABLE_LO_table_lo b + 2 ^ 32 * s.get Fld.PG_OBJ_TABLE_HI_table_hi b

/-- Replaces an object in the copy and writes it through. -/
def State.setObj (s : State) (b h : Nat) (e : ObjEntry) : State :=
  let t := s.objTable b
  (s.setObjTable b { t with entries := Sparse.set ObjEntry.none t.entries h e }).devWrite b (s.objTableVa b + 32 * h) e.bytes

/-- Some object of a piece is live or draining. -/
def State.objectsLive (s : State) (b : Nat) : Bool := (s.objTable b).entries.any (fun e => e.2.state == 1 || e.2.state == 2)

/-- The ledger word of the read of an object table that takes effect. -/
def tableWord : Nat := 255 * 2 ^ 11 + 58 * 2 ^ 19 + 255 * 2 ^ 25

/-- A table takes effect: every entry is read once, its generation kept, and written back free (R738). What it may wait for is in what the
read finds; `got` and `asked` are of the edit that has it take effect. -/
def State.tableEffect (s : State) (b : Nat) (got : List (Nat × List Byte)) (asked : List Nat) : DevRead × List Nat × State :=
  let va := s.objTableVa b
  let n := s.get Fld.PG_OBJ_ENTRIES_entries b
  match s.readOnce b got asked va (32 * n) 0 tableWord with
  | (.ok bs, asked, s) =>
    let gens := (List.range n).map (fun h => leNat ((bs.drop (32 * h)).take 4))
    let es := gens.map (fun g => ({ ObjEntry.none with generation := g } : ObjEntry))
    let entries := es.zipIdx.foldl (fun l e => Sparse.set ObjEntry.none l e.2 e.1) []
    (.ok [], asked, (s.setObjTable b { inEffect := true, entries := entries }).devWrite b va (es.flatMap ObjEntry.bytes))
  | x => x

end Sys2Proof.Machine
end

