-- ==== Sys2Proof/Machine/Tensors.lean ====
section
/-! DEFINITION. Tensor-table entries, the shard an operation belongs to, and the SRAM it may reach: local-store slices and
row stores with their check bits, owners and seal tags (02 R33 to R36; 03 R86; 04 R134 to R148; 05 R194 to R197; 15 R686). -/

namespace Sys2Proof.Machine

/-! ## Tensors -/

/-- A tensor-table entry (05 R194). `rsRow` is die · 16 + row. -/
structure Tensor where
  base : Nat
  aux : Nat
  stride : Nat
  rows : Nat
  cols : Nat
  fmt : Nat
  space : Nat
  scale : Nat
  rsRow : Nat
  rsOwn : Bool
  deriving DecidableEq, Repr

/-- The entry 32 bytes spell. -/
def Tensor.of (e : List Byte) : Tensor :=
  { base := fieldAt e 0 7, aux := fieldAt e 8 7, stride := fieldAt e 16 4, rows := fieldAt e 20 4, cols := fieldAt e 24 4,
    fmt := bitsOf (fieldAt e 28 1) 0 5, space := bitsOf (fieldAt e 28 1) 5 3, scale := fieldAt e 29 1,
    rsRow := bitsOf (fieldAt e 30 1) 0 5, rsOwn := bitOf (fieldAt e 30 1) 5 }

/-- The element bits of a tensor. -/
def Tensor.bits (t : Tensor) : Nat := fmtBits t.fmt

/-- The bytes that columns `c` to `c + n - 1` of a row at `row` touch: address and length (05 R195; 02 R33). -/
def Tensor.span (t : Tensor) (row c n : Nat) : Nat × Nat :=
  (row + c * t.bits / 8, ((c + n) * t.bits + 7) / 8 - c * t.bits / 8)

/-- The scale bytes of blocks of columns `c` to `c + n - 1` of row `i`. -/
def Tensor.scaleSpan (t : Tensor) (i c n : Nat) : Nat × Nat := (t.aux + i * (t.cols / 32) + c / 32, (c + n + 31) / 32 - c / 32)

/-- The flag bytes of LONG128 elements. -/
def Tensor.flagSpan (t : Tensor) (i c n : Nat) : Nat × Nat := (t.aux + i * t.cols + c, n)

/-- The stride of a Splint image, and the place of its outlier list (02 R36). -/
def imageStride (f : Nat) : Nat := if f = 11 then 27136 else 18944

def imageList (f : Nat) : Nat := if f = 11 then 0x6800 else 0x4800

/-- The address of a Splint image (05 R196). -/
def Tensor.image (t : Tensor) (i j : Nat) : Nat := t.base + (i * ((t.cols + 255) / 256) + j) * imageStride t.fmt

/-- A tile of rows and columns lies inside a tensor (05 R201). -/
def Tensor.inside (t : Tensor) (r n c m : Nat) : Bool := decide (r + n ≤ t.rows) && decide (c + m ≤ t.cols)

/-- The element codes of a byte string that holds columns `c` on, `n` of them, from the byte of column `c` (02 R33). -/
def Tensor.codes (t : Tensor) (c n : Nat) (bs : List Byte) : List Nat :=
  let v := leNat bs / 2 ^ (c * t.bits % 8)
  (List.range n).map (fun j => bitsOf v (j * t.bits) t.bits)

/-- New codes laid over old bytes. -/
def Tensor.pack (t : Tensor) (c : Nat) (old : List Byte) (codes : List Nat) : List Byte :=
  let off := c * t.bits % 8
  let v := leNat old
  let new := codes.reverse.foldl (fun a x => a * 2 ^ t.bits + x % 2 ^ t.bits) 0
  leBytes old.length (putBits v off (codes.length * t.bits) new)

/-! ## The shard an operation runs in -/

/-- Where an operation runs: its core, slot and site, context, basket and partition, its shard and rank, the kernel
descriptor, the slice in bytes and the tensor table. -/
structure OpEnv where
  core : Nat
  slot : Nat
  site : Nat
  ctx : Nat
  basket : Nat
  part : Nat
  shard : Nat
  rank : Nat
  kern : List Byte
  sliceBase : Nat
  sliceLen : Nat
  tensors : List Tensor
  deriving DecidableEq, Repr

/-- The index of a slot's registers among the copies of its page. -/
def OpEnv.regs (e : OpEnv) : Nat := e.site * 8 + e.slot

def OpEnv.key (e : OpEnv) : Nat := e.core * 8 + e.slot

/-- Fields of the kernel descriptor (05 R186). -/
def OpEnv.redMode (e : OpEnv) : Nat := bitsOf (fieldAt e.kern 9 1) 4 2

def OpEnv.label (e : OpEnv) : Nat := fieldAt e.kern 9 1 % 16

def OpEnv.rankCount (e : OpEnv) : Nat := fieldAt e.kern 0x36 2

def OpEnv.kernelId (e : OpEnv) : Nat := fieldAt e.kern 0 8

/-- A signed 16-bit number. -/
def signed16 (n : Nat) : Int := if n < 0x8000 then n else (n : Int) - 0x10000

/-- The anchor of a slot, as its 16 bits. -/
def OpEnv.anchorBits (e : OpEnv) (k : Nat) : Nat := fieldAt e.kern (0x38 + 2 * k) 2

def OpEnv.anchor (e : OpEnv) (k : Nat) : Int := signed16 (e.anchorBits k)

/-- The first byte and the length of a slot's slice in its local store (04 R136). -/
def State.slice (s : State) (site slot : Nat) : Nat × Nat :=
  (s.get Fld.LS_SLICE_base_seg (site * 8 + slot) * 65536, s.get Fld.LS_SLICE_len_seg (site * 8 + slot) * 65536)

/-- The environment of the shard on a slot; none where no shard runs. The tensor table is the copy in the reserved area
(08 R365). -/
def State.opEnv (s : State) (core slot : Nat) : Option OpEnv :=
  let r := s.shardAt core slot
  let c := (s.slotAt core slot).ctx
  match s.siteOf core, (s.ctxAt c).kernel with
  | some site, some k =>
    if !r.active then none
    else
      let b := s.get Fld.WVR_CTX_STATE_basket_index c
      let sl := s.slice site slot
      let table := s.localStore.read (2 ^ 21 * site + sl.1 + 0x100) (32 * fieldAt k.desc 0x0E 1)
      some { core := core, slot := slot, site := site, ctx := c, basket := b, part := s.get Fld.CAP_BASKET_partition b,
             shard := r.shard, rank := fieldAt k.desc 0x34 2 + r.shard, kern := k.desc, sliceBase := sl.1, sliceLen := sl.2,
             tensors := (List.range (fieldAt k.desc 0x0E 1)).map (fun i => Tensor.of ((table.drop (32 * i)).take 32)) }
  | _, _ => none

/-- A tensor of the table. -/
def OpEnv.tensor (e : OpEnv) (i : Nat) : Tensor := e.tensors.getD i (Tensor.of [])

/-- The row store a tensor of space 1 lies in. -/
def OpEnv.rowOf (e : OpEnv) (t : Tensor) : Nat := if t.rsOwn then coreRow e.core else t.rsRow

/-! ## Local stores and row stores -/

/-- The seal tag of a segment after a write into it (15 R686). -/
def sealTag (old : Nat) (from? : Option Nat) : Nat :=
  match from? with
  | none => 1
  | some t => if old = 0 ∨ old = t then t else 1

/-- Writes tags of segments. -/
def State.tagSegments (s : State) (keys : List Nat) (from? : Option Nat) : State :=
  { s with segTags := keys.foldl (fun m k => Sparse.set 0 m k (sealTag (Sparse.get 0 m k) from?)) s.segTags }

/-- The numbers of the blocks of a size that a range touches. -/
def blocksOf (size a n : Nat) : List Nat := if n = 0 then [] else (List.range ((a + n - 1) / size - a / size + 1)).map (· + a / size)

/-- The error marks of 64-bit words after a write of `n` bytes from `a`: words written whole are clean, the first word takes an
injected error (04 R141; 14 R643). `base` is the number of word 0. -/
def markWords (m : List (Nat × Nat)) (base a n inj : Nat) : List (Nat × Nat) :=
  let m := m.filter (fun e => !(decide (8 * base + a ≤ 8 * e.1) && decide (8 * e.1 + 8 ≤ 8 * base + a + n)))
  if inj = 0 ∨ n = 0 then m else Sparse.set 0 m (base + a / 8) inj

/-- The marked words a range of `n` bytes from `a` touches, by their numbers from word 0: those with a mark. -/
def wordsMarked (m : List (Nat × Nat)) (base a n mark : Nat) : List Nat :=
  (m.filter (fun e => e.2 == mark && decide (8 * base + a < 8 * e.1 + 8) && decide (8 * e.1 < 8 * base + a + n))).map (fun e => e.1 - base)

/-- Writes bytes of a local store. -/
def State.lsWrite (s : State) (site a : Nat) (bs : List Byte) (from? : Option Nat := none) : State :=
  let (inj, s) := match s.coreOfSite site with
    | some c => s.takeInjection 0 c
    | none => (0, s)
  ({ s with
     localStore := s.localStore.write (2 ^ 21 * site + a) bs,
     lsPoison := markWords s.lsPoison (site * 2 ^ 18) a bs.length inj }).tagSegments
    ((blocksOf 65536 a bs.length).map (· + site * 32)) from?

/-- What an access finds: bytes, something to wait for, or the fault of its operation (05 Table 22). -/
inductive Got where
  | ok (bs : List Byte)
  | wait (w : List Wait)
  | fault (code info : Nat)
  deriving DecidableEq, Repr

/-- Reads bytes of a local store; errors are counted word by word, and an uncorrectable one faults with its line (04 R141). -/
def State.lsRead (s : State) (site a n : Nat) : Got × State :=
  match wordsMarked s.lsPoison (site * 2 ^ 18) a n 2 with
  | w :: _ => (.fault 0x0A (w / 64), s.sramUncorrectable (.localStore (Fin.ofNat 288 site)) (w / 64))
  | [] =>
    (.ok (s.localStore.read (2 ^ 21 * site + a) n),
      (wordsMarked s.lsPoison (site * 2 ^ 18) a n 1).foldl (fun s _ => s.sramCorrected (.localStore (Fin.ofNat 288 site))) s)

/-- Array accesses of a row store, one a line (04 R147, R181). -/
def State.rsAccess (s : State) (row a n : Nat) : State :=
  s.count Fld.RWS_ACCESS_COUNT_count row Fld.RWS_COUNT_STATUS_access_wrap row 0 (blocksOf 512 a n).length

/-- Reads bytes of a row store, one array access a line (04 R147, R181). -/
def State.rsRead (s : State) (row a n : Nat) : Got × State :=
  let s := s.rsAccess row a n
  match wordsMarked s.rsPoison (row * 2 ^ 19) a n 2 with
  | w :: _ => (.fault 0x0A (w / 64), s.sramUncorrectable (.rowStore (Fin.ofNat 32 row)) (w / 64))
  | [] =>
    (.ok (s.rowStore.read (2 ^ 22 * row + a) n),
      (wordsMarked s.rsPoison (row * 2 ^ 19) a n 1).foldl (fun s _ => s.sramCorrected (.rowStore (Fin.ofNat 32 row))) s)

/-! ## Waiting reads of row stores (04 R151 to R158) -/

def State.groupsAt (s : State) (row bank : Nat) : List MergeGroup := Sparse.get [] s.merge (row * 16 + bank)

def State.setGroups (s : State) (row bank : Nat) (gs : List MergeGroup) : State :=
  { s with merge := Sparse.set [] s.merge (row * 16 + bank) gs }

/-- The array access that writes bytes of a row store, an access a line. -/
def State.rsPut (s : State) (row a : Nat) (bs : List Byte) (from? : Option Nat) : State :=
  let (inj, s) := (s.rsAccess row a bs.length).takeInjection 1 row
  ({ s with
     rowStore := s.rowStore.write (2 ^ 22 * row + a) bs,
     rsPoison := markWords s.rsPoison (row * 2 ^ 19) a bs.length inj }).tagSegments
    ((blocksOf 65536 a bs.length).map (· + 2 ^ 16 + row * 64)) from?

/-- A write is performed; a group is served by one array access, and its line delivered to each of its requesters (R153); a line that cannot
be read is delivered to none. -/
def State.serveGroup (s : State) (row : Nat) (g : MergeGroup) : State :=
  match g.write with
  | some bs => s.rsPut row (512 * g.line) bs none
  | none =>
    let n := g.cores.length - 1
    let s := s.count Fld.RWS_MERGED_COUNT_count row Fld.RWS_COUNT_STATUS_merged_wrap row 0 n
    match s.rsRead row (512 * g.line) 512 with
    | (.ok bs, s) => g.cores.foldl (fun s c => s.emit (.line row g.line c bs)) s
    | (_, s) => s

/-- What waits at a bank in the order of its arrival, each with whether it is served now: it is due, or something behind it on its line is
(R154). -/
def dueGroups (due : MergeGroup → Bool) : List MergeGroup → List (Bool × MergeGroup)
  | [] => []
  | g :: gs => (due g || gs.any (fun h => h.line == g.line && due h), g) :: dueGroups due gs

/-- What waits at a bank and satisfies a test is served, oldest first, behind what came before it on its line, and leaves the bank. -/
def State.serveGroups (s : State) (row bank : Nat) (due : MergeGroup → Bool) : State :=
  let gs := dueGroups due (s.groupsAt row bank)
  (gs.filter Prod.fst).foldl (fun s g => s.serveGroup row g.2) (s.setGroups row bank ((gs.filter (fun g => !g.1)).map Prod.snd))

/-- A write closes the waiting groups of the lines it touches: they are served with the data before it (R154, R158). -/
def State.closeGroups (s : State) (row a n : Nat) : State :=
  (blocksOf 512 a n).foldl (fun s l => s.serveGroups row (l % 16) (fun g => g.line == l)) s

/-- Writes bytes of a row store, one array access a line, behind the reads of those lines that arrived before. -/
def State.rsWrite (s : State) (row a : Nat) (bs : List Byte) (from? : Option Nat := none) : State :=
  (s.closeGroups row a bs.length).rsPut row a bs from?

/-- The owner of a segment of a row store: a basket, or none (04 R148). -/
def State.segOwner (s : State) (row seg : Nat) : Option Nat :=
  let w := s.get Fld.RWS_SEG_OWNER_owners (row * 16 + seg / 4)
  if seg < 64 ∧ bitOf w (8 * (seg % 4) + 7) then some (bitsOf w (8 * (seg % 4)) 6) else none

/-- A range of slice offsets is outside the usable slice: the first offset that is (04 R138). -/
def OpEnv.sliceBound (e : OpEnv) (a n : Nat) : Option Nat :=
  if n = 0 then none
  else if a < 0x2000 then some a
  else if a + n ≤ e.sliceLen then none
  else some (max a e.sliceLen)

/-- A range of a row store reaches a segment the basket does not own: the segment (04 R148). -/
def State.notOwned (s : State) (row b a n : Nat) : Option Nat :=
  (blocksOf 65536 a n).find? (fun g => s.segOwner row g != some b)

end Sys2Proof.Machine
end

