-- ==== Sys2Proof/Machine/OpDecode.lean ====
section
/-! DEFINITION. The decode of tile-operation descriptors: their fields and what refuses them (05 R198 to R200, R211 to R249,
R728, R729; 02 R31, R32, R43, R45). -/

namespace Sys2Proof.Machine

/-- Bytes `o` to `o + n - 1` of a descriptor. -/
def opField (d : List Byte) (o n : Nat) : Nat := fieldAt d o n

/-- Bits of a byte of a descriptor. -/
def opBits (d : List Byte) (o lo w : Nat) : Nat := bitsOf (fieldAt d o 1) lo w

def opFlag (d : List Byte) (o k : Nat) : Bool := bitOf (fieldAt d o 1) k

def opCode (d : List Byte) : Nat := fieldAt d 0 1

def opCvt (d : List Byte) : Nat := fieldAt d 4 1

/-- The opcodes that exist (05 R199). -/
def opCodes : List Nat := [0x00, 0x01, 0x02, 0x03, 0x04, 0x08, 0x09, 0x0A, 0x0C, 0x0D, 0x10, 0x11, 0x12, 0x18, 0x19]

/-- The reserved fields of a descriptor's body: the byte each begins at, its bytes, and its mask in each of them. IDLE has no body in the spec:
bytes 8 to 31 of it are taken as reserved (05 R198; DESIGN CHOICE, log entry 194). -/
def opReserved (code : Nat) : List (Nat × Nat × Nat) :=
  if code = 0x00 then [(8, 24, 0xFF)]
  else if code = 0x01 then [(8, 1, 0xC0), (9, 1, 0xC0), (10, 1, 0xF0), (11, 1, 0x80), (12, 1, 0xC0), (13, 1, 0xFF), (15, 1, 0x80)]
  else if code = 0x02 then [(9, 1, 0xC0), (10, 1, 0xC0), (11, 1, 0xC0), (12, 1, 0xC0), (13, 1, 0xFC), (28, 4, 0xFF)]
  else if code = 0x03 then [(8, 1, 0xFC), (9, 1, 0xC0), (10, 1, 0xC0), (11, 1, 0xC0), (12, 1, 0xF8), (13, 1, 0x80), (15, 1, 0x80)]
  else if code = 0x04 then [(8, 1, 0xC0), (9, 1, 0xC0), (10, 1, 0xF8), (11, 1, 0xC0), (15, 1, 0x80), (28, 4, 0xFF)]
  else if code = 0x08 ∨ code = 0x09 then [(8, 1, 0xC0), (9, 1, 0xC0)]
  else if code = 0x0A then [(8, 1, 0xC0), (9, 1, 0xC0), (10, 1, 0xC0), (11, 1, 0xFF), (14, 2, 0xFF)]
  else if code = 0x0C then [(8, 1, 0xFC), (9, 1, 0xC0), (11, 1, 0xC0), (15, 1, 0x80), (25, 1, 0xC0), (27, 1, 0x80)]
  else if code = 0x0D then [(8, 1, 0xFE), (10, 1, 0xC0), (11, 1, 0xFC), (13, 1, 0x80), (15, 1, 0x80), (17, 1, 0xC0), (19, 1, 0x80),
    (20, 1, 0xC0), (21, 3, 0xFF)]
  else if code = 0x10 then [(8, 1, 0xC0), (9, 1, 0xC0), (10, 1, 0xC0), (11, 1, 0xC0)]
  else if code = 0x11 then [(8, 1, 0xC0), (9, 1, 0xC0), (10, 1, 0xFE), (11, 1, 0xFF), (14, 2, 0xFF), (24, 8, 0xFF)]
  else if code = 0x12 then [(8, 1, 0xC0), (9, 1, 0xC0), (10, 1, 0xC0), (11, 1, 0xFF), (12, 1, 0x80), (13, 3, 0xFF), (24, 8, 0xFF)]
  else if code = 0x18 then [(15, 1, 0xFF), (28, 4, 0xFF)]
  else [(15, 1, 0xFF), (24, 8, 0xFF)]

/-- An offset, when a condition holds. -/
def offends (bad : Bool) (off : Nat) : List Nat := if bad then [off] else []

/-- Reserved fields that are not zero. -/
def reservedOffends (d : List Byte) (rs : List (Nat × Nat × Nat)) : List Nat :=
  rs.flatMap (fun r => offends ((List.range r.2.1).any (fun i => fieldAt d (r.1 + i) 1 &&& r.2.2 != 0)) r.1)

/-- The rate of a matrix operand pair in MACs per core cycle; 0 where the pair is not one (02 R32, Table 5). -/
def pairRate (a b : Nat) : Nat :=
  let narrow := fun (f : Nat) => decide (3 ≤ f) && decide (f ≤ 10)
  if (a = 1 ∧ b = 1) ∨ (a = 2 ∧ b = 2) then 4096
  else if a = 9 ∧ (b = 9 ∨ b = 11) then 16384
  else if a = 9 ∧ (b = 12 ∨ b = 13) then 32768
  else if narrow a && (narrow b || isSplint b) then 8192
  else 0

/-- The bytes of a descriptor that hold tensor indices the operation uses, by opcode (05 R200). -/
def opTensors (e : OpEnv) (d : List Byte) : List Nat :=
  let code := opCode d
  let f := fieldAt d 8 1
  if code = 0x01 then [8, 9]
  else if code = 0x02 then [9, 10] ++ (if 2 ≤ (vecSources f).getD 1 then [11] else []) ++ (if (vecSources f).getD 1 = 3 then [12] else [])
  else if code = 0x03 then (if f < 2 then [9] else []) ++ [10] ++ (if f = 3 then [11] else [])
  else if code = 0x04 then (if opFlag d 10 0 then [9] else [8, 9])
  else if code = 0x08 ∨ code = 0x09 ∨ code = 0x11 then [8, 9]
  else if code = 0x0A ∨ code = 0x12 then [8, 9, 10]
  else if code = 0x0C then (if opFlag d 8 1 then [] else [9])
  else if code = 0x0D then (if e.redMode = 1 then [20] else [])
  else if code = 0x10 then [8, 9, 10, 11]
  else []

/-- The tensor a byte of a descriptor names. -/
def opTensor (e : OpEnv) (d : List Byte) (o : Nat) : Tensor := e.tensor (opBits d o 0 6)

/-- The tensor a byte of a descriptor names, if the table has it: what a rule says of a tensor that does not exist refuses
nothing beside its index (05 R729). -/
def opTensor? (e : OpEnv) (d : List Byte) (o : Nat) : Option Tensor :=
  if opBits d o 0 6 < e.tensors.length then some (opTensor e d o) else none

/-- A condition on two tensors that both exist. -/
def bothAny (a b : Option Tensor) (p : Tensor → Tensor → Bool) : Bool := a.any (fun x => b.any (p x))

/-- MATMUL (05 R213, R214; 02 R32; 03 R71, R72). -/
def matmulOffends (e : OpEnv) (d : List Byte) : List Nat :=
  let a := opTensor? e d 8
  let b := opTensor? e d 9
  let fast := bothAny a b (fun x y => decide (8192 ≤ pairRate x.fmt y.fmt))
  let k := opField d 24 4
  let n := opField d 28 4
  let row := opField d 20 4
  offends (bothAny a b (fun x y => pairRate x.fmt y.fmt == 0) || a.any (fun x => decide (2 ≤ x.space))) 8 ++
  offends (b.any (fun y => decide (2 ≤ y.space))) 9 ++
  offends (opFlag d 10 3 && opBits d 11 0 7 != 0) 11 ++
  offends (b.any (fun y => isSplint y.fmt) && row / 256 != (row + opBits d 12 0 6) / 256) 20 ++
  offends (fast && k % 32 != 0) 24 ++
  offends (n == 0 || (fast && n % 32 != 0 && bothAny a b (fun x y => k + n != x.cols && k + n != y.cols))) 28

/-- A tensor of the vector unit: FP32 or BF16, in space 0 or 1. -/
def vectorOk (t : Tensor) : Bool := decide (t.fmt ≤ 1) && decide (t.space ≤ 1)

/-- A tensor of the vector unit that exists is not one, or is not of the format of another. -/
def vectorBad (t x : Option Tensor) : Bool := t.any (fun y => !vectorOk y) || bothAny t x (fun y z => y.fmt != z.fmt)

/-- VEC (05 R215, R216). -/
def vecOffends (e : OpEnv) (d : List Byte) : List Nat :=
  let f := fieldAt d 8 1
  let n := (vecSources f).getD 1
  let x := opTensor? e d 10
  offends (vecSources f).isNone 8 ++ offends (vectorBad (opTensor? e d 9) x) 9 ++ offends (vectorBad x x) 10 ++
  offends (if 2 ≤ n then vectorBad (opTensor? e d 11) x else fieldAt d 11 1 != 0) 11 ++
  offends (if n = 3 then vectorBad (opTensor? e d 12) x else fieldAt d 12 1 != 0) 12 ++
  offends (opBits d 13 0 2 == 3) 13 ++ offends (opField d 24 4 == 0) 24

/-- VEC_REDUCE (05 R217). -/
def reduceOffends (e : OpEnv) (d : List Byte) : List Nat :=
  let f := fieldAt d 8 1
  let x := opTensor? e d 10
  offends (decide (f < 2) && vectorBad (opTensor? e d 9) x) 9 ++ offends (vectorBad x x) 10 ++
  offends (f == 3 && vectorBad (opTensor? e d 11) x) 11 ++ offends (opField d 24 4 == 0) 24

/-- CONVERT (05 R218 to R221). -/
def convertOffends (e : OpEnv) (d : List Byte) : List Nat :=
  let acc := opFlag d 10 0
  let t := opTensor? e d 9
  let src := if acc then some 15 else (opTensor? e d 8).map Tensor.fmt
  let mx := t.any (fun x => isMx x.fmt)
  offends (t.any (fun x => decide (2 ≤ x.space) || src.any (fun f => !convertible f x.fmt))) 9 ++
  offends (mx && opField d 20 4 % 32 != 0) 20 ++ offends (mx && !acc && opField d 24 4 % 32 != 0) 24

/-- A count of the rows or columns of a Splint tile is neither a multiple of 256 nor reaches the tensor's end (05 R224). -/
def splintCutOff (first n size : Nat) : Bool := n % 256 != 0 && first + n != size

/-- LOAD and STORE (05 R222 to R224, R728; 02 R31). A Splint tensor on either side is moved in whole images. -/
def moveOffends (e : OpEnv) (d : List Byte) (store : Bool) : List Nat :=
  let a := opTensor? e d 8
  let b := opTensor? e d 9
  let rows := opField d 10 2 + 1
  let cols := opField d 12 4
  let is := fun (p : Nat → Bool) (t : Option Tensor) => t.any (fun x => p x.fmt)
  let mx := is isMx a || is isMx b
  let whole := fun (t : Option Tensor) (r c : Nat) =>
    (t.any (fun x => isSplint x.fmt && splintCutOff (opField d r 4) rows x.rows),
     t.any (fun x => isSplint x.fmt && splintCutOff (opField d c 4) cols x.cols))
  offends (store && bothAny a b (fun x y => x.fmt == y.fmt) && opCvt d != 0) 4 ++
  offends (store && a.any (fun x => x.space != 0)) 8 ++
  offends (if store then b.any (fun y => y.space == 3) ||
      bothAny a b (fun x y => x.fmt != y.fmt && (x.fmt == 15 || !convertible x.fmt y.fmt))
    else b.any (fun y => decide (2 ≤ y.space)) || bothAny a b (fun x y => x.fmt != y.fmt)) 9 ++
  offends ((whole a 16 20).1 || (whole b 24 28).1) 10 ++
  offends ((mx && cols % 32 != 0) || (whole a 16 20).2 || (whole b 24 28).2) 12 ++
  offends (is isSplint a && opField d 16 4 % 256 != 0) 16 ++
  offends ((mx && opField d 20 4 % 32 != 0) || (is isSplint a && opField d 20 4 % 256 != 0)) 20 ++
  offends (is isSplint b && opField d 24 4 % 256 != 0) 24 ++
  offends ((mx && opField d 28 4 % 32 != 0) || (is isSplint b && opField d 28 4 % 256 != 0)) 28

/-- GATHER (05 R227, R224). -/
def gatherOffends (e : OpEnv) (d : List Byte) : List Nat :=
  let a := opTensor? e d 8
  let b := opTensor? e d 9
  let mx := a.any (fun x => isMx x.fmt)
  offends (a.any (fun x => isSplint x.fmt)) 8 ++
  offends (bothAny a b (fun x y => x.fmt != y.fmt) || b.any (fun y => decide (2 ≤ y.space) || isSplint y.fmt)) 9 ++
  offends ((opTensor? e d 10).any (fun x => x.fmt != 14)) 10 ++
  offends (mx && opField d 24 4 % 32 != 0) 24 ++ offends (mx && opField d 28 4 % 32 != 0) 28

/-- EXCHANGE (05 R224, R229, R233; 02 R31). -/
def exchangeOffends (e : OpEnv) (d : List Byte) : List Nat :=
  let recv := opFlag d 8 0
  let acc := opFlag d 8 1
  let t := opTensor? e d 9
  let n := opField d 26 2 % 2 ^ 15
  let mx := t.any (fun x => isMx x.fmt)
  offends (recv && acc) 8 ++ offends (!acc && t.any (fun x => isSplint x.fmt)) 9 ++
  offends (!acc && mx && opField d 20 4 % 32 != 0) 20 ++
  offends (decide (e.rankCount < opField d 24 2 % 2 ^ 14 + n)) 24 ++
  offends (n == 0 || decide (16384 < n) || (recv && n != 1)) 26 ++
  offends (!acc && mx && opField d 28 4 % 32 != 0) 28

/-- REDUCE_LONG (05 R234, R728; 03 R102). -/
def longOffends (e : OpEnv) (d : List Byte) : List Nat :=
  let t := opTensor? e d 20
  let tree := e.redMode == 1
  let n := opField d 18 2 % 2 ^ 15
  offends (decide (e.rankCount < opField d 16 2 % 2 ^ 14 + n)) 16 ++ offends (n == 0) 18 ++
  offends (tree && t.any (fun x => !convertible 0 x.fmt)) 20 ++
  offends (tree && t.any (fun x => isMx x.fmt) && opField d 28 4 % 32 != 0) 28

/-- ATTENTION (05 R238 to R241). -/
def attentionOffends (e : OpEnv) (d : List Byte) : List Nat :=
  let q := opTensor? e d 8
  let k := opTensor? e d 9
  let v := opTensor? e d 10
  let o := opTensor? e d 11
  let p := if opFlag d 13 6 then 3 else 1
  let fromSeq := opFlag d 15 7
  offends (q.any (fun x => decide (2 ≤ x.space))) 8 ++
  offends (k.any (fun x => x.space == 2) || bothAny q k (fun x y => pairRate x.fmt y.fmt == 0)) 9 ++
  offends (v.any (fun x => x.space == 2 || pairRate p x.fmt == 0 || isMx x.fmt || isSplint x.fmt)) 10 ++
  offends (o.any (fun x => decide (2 ≤ x.space) || !convertible 0 x.fmt)) 11 ++
  offends (fromSeq && k.any (fun x => x.space != 3)) 15 ++ offends (p == 3 && !fromSeq && opField d 16 4 % 32 != 0) 16

/-- KV_APPEND (05 R243, R223, R728): a Splint source converts to FP32 (02 R45), and does not move as it is (02 R31). -/
def appendOffends (e : OpEnv) (d : List Byte) : List Nat :=
  let a := opTensor? e d 8
  let b := opTensor? e d 9
  offends (bothAny a b (fun x y => x.fmt == y.fmt) && opCvt d != 0) 4 ++
  offends (a.any (fun x => decide (2 ≤ x.space) || x.fmt == 15)) 8 ++
  offends (b.any (fun y => y.space != 3 || isSplint y.fmt) ||
    bothAny a b (fun x y => x.fmt != y.fmt && !convertible x.fmt y.fmt)) 9

/-- SAMPLE (05 R245). -/
def sampleOffends (e : OpEnv) (d : List Byte) : List Nat :=
  offends ((opTensor? e d 8).any (fun l => decide (2 ≤ l.fmt) || decide (2 ≤ l.space))) 8 ++
  offends ((opTensor? e d 9).any (fun p =>
    !(decide (p.fmt ≤ 4) || p.fmt == 14) || decide (2 ≤ p.space) || decide (p.cols * p.bits < 256))) 9 ++
  offends ((opTensor? e d 10).any (fun o => o.fmt != 14 || decide (2 ≤ o.space))) 10

/-- What refuses a descriptor: the offsets of its offending fields (05 R200, R728, R729). -/
def opOffends (e : OpEnv) (d : List Byte) : List Nat :=
  let code := opCode d
  if !opCodes.contains code then [0]
  else
    let cvt := code == 0x04 || code == 0x09 || code == 0x11 || code == 0x10 || (code == 0x0D && e.redMode == 1)
    let missing := (opTensors e d).filter (fun o => decide (e.tensors.length ≤ opBits d o 0 6))
    reservedOffends d [(2, 1, 0x80), (3, 1, 0x80), (5, 3, 0xFF)] ++
    offends (if cvt then cvtBad (opCvt d) else opCvt d != 0) 4 ++ reservedOffends d (opReserved code) ++ missing ++
    (if code = 0x01 then matmulOffends e d
     else if code = 0x02 then vecOffends e d
     else if code = 0x03 then reduceOffends e d
     else if code = 0x04 then convertOffends e d
     else if code = 0x08 then moveOffends e d false
     else if code = 0x09 then moveOffends e d true
     else if code = 0x0A then gatherOffends e d
     else if code = 0x0C then exchangeOffends e d
     else if code = 0x0D then longOffends e d
     else if code = 0x10 then attentionOffends e d
     else if code = 0x11 then appendOffends e d
     else if code = 0x12 then sampleOffends e d
     else if code = 0x18 ∨ code = 0x19 then offends (opField d 8 7 % 16 != 0) 8
     else [])

/-- The fault information of a refusal: its structure and the lowest offending offset (05 R729). -/
def refusalInfo (structure' : Nat) (offs : List Nat) : Nat := structure' * 2 ^ 60 + (offs.min?).getD 0

/-- The descriptor faults at decode. -/
def opRefusal (e : OpEnv) (d : List Byte) : Option (Nat × Nat) :=
  let offs := opOffends e d
  if offs.isEmpty then none else some (0x01, refusalInfo 4 offs)

/-- An operation takes a ledger entry at issue (08 R366; 05 Table 7). A CONVERT takes none, whatever the space of its source (log
entry 81). -/
def takesEntry (e : OpEnv) (d : List Byte) : Bool :=
  let code := opCode d
  if [0x0C, 0x0D, 0x18, 0x19].contains code then true
  else if [0x08, 0x09, 0x0A, 0x10, 0x11].contains code then (opTensors e d).any (fun o => decide (2 ≤ (opTensor e d o).space))
  else false

/-- The sequences an operation names (06 R270). -/
def opSequences (e : OpEnv) (d : List Byte) : List Nat :=
  ((opTensors e d).map (opTensor e d)).filterMap (fun t => if t.space = 3 then some (t.base % 2 ^ 32) else none)

end Sys2Proof.Machine
end

