-- ==== Sys2Proof/Machine/OpAccess.lean ====
section
/-! DEFINITION. The accesses of tile operations: where the bytes of a tile lie, the checks made before any byte moves, the
pages given to an operation, and reading and writing each space (05 R195, R201, R225; 06 R258 to R260, R733; 08 R366, R367;
09 R402, R413, R414, R422 to R424; 10 R459; 11 R510, R511, R523; 12 R557, R558, R561, R582; 15 R686). -/

namespace Sys2Proof.Machine

/-! ## KV rows (06 R258, R259) -/

/-- The bytes of a row of a KV sequence. -/
def kvRowBytes (fmt cols : Nat) : Nat := (cols * fmtBits fmt / 8 + 63) / 64 * 64

/-- The positions in a page: the largest power of two that fits. -/
def kvPerPage (fmt cols : Nat) : Nat := 2 ^ Nat.log2 (65536 / max 1 (kvRowBytes fmt cols))

def KvSeq.perPage (q : KvSeq) : Nat := kvPerPage q.format q.cols

/-- The address of a position of a sequence; a position beyond its pages lies in page 0 of the pool (log entry 193). -/
def State.kvRow (s : State) (b : Nat) (q : KvSeq) (p : Nat) : Nat :=
  s.kvBase b + q.pages.getD (p / q.perPage) 0 * 65536 + p % q.perPage * kvRowBytes q.format q.cols

/-- The sequence a handle names: its index, generation and entry. -/
def State.kvNamed (s : State) (b handle : Nat) : Option KvSeq :=
  let q := s.kvSeq b (handle % 2 ^ 24)
  if q.state = 0 ∨ q.gen ≠ handle / 2 ^ 24 then none else some q

/-- A space-3 tensor names a sequence of its format and width (06 R260). -/
def State.kvTensor (s : State) (b : Nat) (t : Tensor) : Option KvSeq :=
  match s.kvNamed b t.base with
  | none => none
  | some q => if q.format = t.fmt ∧ q.cols = t.cols then some q else none

/-! ## Regions -/

/-- Bytes of one space: address ranges, and the row of a row store. -/
structure Region where
  space : Nat
  row : Nat
  spans : List (Nat × Nat)
  deriving DecidableEq, Repr

/-- The address of row `i` of a tensor. -/
def State.rowAddr (s : State) (e : OpEnv) (t : Tensor) (i : Nat) : Nat :=
  if t.space = 3 then s.kvRow e.basket (s.kvSeq e.basket (t.base % 2 ^ 24)) i else t.base + i * t.stride

/-- The region of given address ranges of a tensor. -/
def OpEnv.region (e : OpEnv) (t : Tensor) (spans : List (Nat × Nat)) : Region :=
  { space := min t.space 2, row := e.rowOf t, spans := spans }

/-- The element bytes of a row's columns. -/
def State.rowSpan (s : State) (e : OpEnv) (t : Tensor) (i c n : Nat) : Nat × Nat := t.span (s.rowAddr e t i) c n

/-- The bytes of a tile: elements, then scales or flags, row by row; of a Splint tile, whole images. -/
def State.tile (s : State) (e : OpEnv) (t : Tensor) (r n c m : Nat) : Region :=
  if isSplint t.fmt then
    e.region t ((blocksOf 256 r n).flatMap (fun i => (blocksOf 256 c m).map (fun j => (t.image i j, imageStride t.fmt))))
  else
    e.region t ((List.range n).flatMap (fun i =>
      s.rowSpan e t (r + i) c m :: (if isMx t.fmt then [t.scaleSpan (r + i) c m] else if t.fmt = 15 then [t.flagSpan (r + i) c m] else [])))

/-! ## Checks before any byte moves -/

/-- The first SRAM fault of a region: slice bound or ownership (04 R138, R148). -/
def State.sramFault (s : State) (e : OpEnv) (g : Region) : Option (Nat × Nat) :=
  if g.space = 0 then (g.spans.findSome? (fun p => e.sliceBound p.1 p.2)).map (fun a => (0x02, a))
  else if g.space = 1 then (g.spans.findSome? (fun p => s.notOwned g.row e.basket p.1 p.2)).map (fun a => (0x0B, a))
  else none

/-- The pages a region touches in the basket's address space, each with its first address touched. -/
def Region.pages (g : Region) : List (Nat × Nat) :=
  if g.space = 2 then g.spans.flatMap (fun p => (pagesOf p.1 p.2).map (fun x => (x, max x p.1))) else []

/-- Puts a page into a list in ascending order, once, with the rights it needs. -/
def insertPage (p a need : Nat) : List (Nat × Nat × Nat) → List (Nat × Nat × Nat)
  | [] => [(p, a, need)]
  | q :: qs => if p < q.1 then (p, a, need) :: q :: qs else if p = q.1 then (p, min a q.2.1, need ||| q.2.2) :: qs
    else q :: insertPage p a need qs

/-- The pages of reads and writes in ascending order, with first addresses and rights. -/
def accessPages (reads writes : List Region) : List (Nat × Nat × Nat) :=
  let l := (reads.flatMap Region.pages).foldl (fun l p => insertPage p.1 p.2 1 l) []
  (writes.flatMap Region.pages).foldl (fun l p => insertPage p.1 p.2 2 l) l

/-- The fault of an access with the code of 05 Table 22, recorded. -/
def State.accessFault (s : State) (b : Nat) (f : AccessFault) : (Nat × Nat) × State :=
  match f with
  | .translation a _ _ => ((0x0C, a), s.recordFault b f)
  | .peerLost m => ((0x0F, m), s)
  | .poisoned a => ((0x0A, a), s)
  | .revoked => ((0x14, s.memSlot (s.get Fld.CAP_BASKET_partition b)), s)

/-- The slot of a partition's memory key is being revoked (12 R582). -/
def State.keyRevoking (s : State) (p : Nat) : Bool := s.get Fld.KS_ATTR_state (s.memSlot p) == 2

/-- Where a page stands from its first byte, if the translation of an address in it has settled that (09 R406). -/
def Place.settled (x : Place) (a : Nat) : Option PageAt :=
  match x with
  | .t2 phys => some (.here (phys - a % 65536))
  | .t3 m => some (.t3 m)
  | .t4 port addr => some (.t4 port (addr - a % 65536))
  | _ => none

/-- Translates pages in ascending order and checks their rights: the places of those that need no pager, and the first page that faults
(05 R225; 09 R402, R410). -/
def State.checkPages (s : State) (e : OpEnv) : List (Nat × Nat × Nat) → List (Nat × PageAt) × Option (Nat × AccessFault) × State
  | [] => ([], none, s)
  | (p, a, need) :: ps =>
    if 2 ^ 56 ≤ a then ([], some (p, .translation a 6 0), s)
    else if s.keyRevoking e.part then ([], some (p, .revoked), s)
    else
      let (x, s) := s.xlate e.core e.basket a
      let s := s.walkTold e.basket x
      match s.checkPlace e.basket a need x with
      | some f => ([], some (p, f), s)
      | none =>
        let (l, f, s) := s.checkPages e ps
        let at? := match x with
          | .ok _ _ place => place.settled a
          | _ => none
        (at?.elim l (fun y => (p, y) :: l), f, s)

/-! ## Pages for an operation -/

/-- Where the pages of an operation lie for it. -/
abbrev Places := List (Nat × PageAt)

/-- An address of a page at a place, by its offset from the page's first byte. -/
def Places.find (ps : Places) (va : Nat) : PageAt := ((ps.find? (fun p => p.1 == va / 65536 * 65536)).map Prod.snd).getD .noRoom

/-- Replaces the record of an operation in flight. -/
def State.setOp (s : State) (core slot : Nat) (o : OpRec) : State :=
  let r := s.shardAt core slot
  s.setShard core slot { r with ops := r.ops.map (fun x => if x.index = o.index then o else x) }

/-- Settles pages one by one, each with the first address touched in it: their places, the moves to wait for, and the first that faults:
one for which no tier has room (09 R423), or that can no longer be reached. A page whose translation gave its place keeps it (R409); the
pager walks the tables for the others. -/
def State.settlePages (s : State) (b : Nat) (known : Places) : List (Nat × Nat) → Places × List Wait × Option AccessFault × State
  | [] => ([], [], none, s)
  | (p, a) :: ps =>
    match known.find? (fun x => x.1 == p) with
    | some x =>
      let (l, w, f, s) := s.settlePages b known ps
      (x :: l, w, f, s)
    | none =>
      match s.walk b a with
      | .fault r l => ([], [], some (.translation a r l), s)
      | .poison e tag => ([], [], some (.poisoned a), s.linePoisoned b e tag)
      | .leaf l =>
        match s.settle b p l with
        | (.noRoom, s) => ([], [], some (.translation a 5 4), s)
        | (.barred, s) => ([], [], some (.translation a 2 l.level), s)
        | (.lost m, s) => ([], [], some (.peerLost m), s)
        | (.wait id, s) =>
          let (x, w, f, s) := s.settlePages b known ps
          (x, .move id :: w, f, s)
        | (at', s) =>
          let (x, w, f, s) := s.settlePages b known ps
          ((p, at') :: x, w, f, s)

/-- Settling an operation's pages has ended in a fault in `t`: in `s`, of before, only the draws are kept and the fault is recorded, so that
no page is touched or moved for it (R410, R423). -/
def State.settleFault (s t : State) (b : Nat) (f : AccessFault) : (Nat × Nat) × State :=
  let s := { s with freeCounter := t.freeCounter }
  match f with
  | .translation a 5 _ => (s.noTier b a).accessFault b f
  | _ => s.accessFault b f

/-- The fault of an operation before any byte moves, SRAM first (log entry 82). Of the pages, the lowest that faults decides, and a page
for which no tier has room faults as the others do (R410, R423): whether one has is found by settling them on trial. -/
def State.checkAccess (s : State) (e : OpEnv) (o : OpRec) (reads writes : List Region) :
    Except (Nat × Nat) (List (Nat × PageAt)) × State :=
  match (reads ++ writes).findSome? (s.sramFault e) with
  | some f => (.error f, s)
  | none =>
    let pages := accessPages reads writes
    let (known, f, s) := s.checkPages e pages
    let below := match f with
      | none => pages
      | some (p, _) => pages.filter (fun q => decide (q.1 < p))
    let t := s.setOp e.core e.slot { o with pages := pages.map Prod.fst, places := known }
    match t.settlePages e.basket known (below.map (fun p => (p.1, p.2.1))), f with
    | (_, _, some g, t), _ =>
      let (f, s) := s.settleFault t e.basket g
      (.error f, s)
    | _, some (_, g) =>
      let (f, s) := s.accessFault e.basket g
      (.error f, s)
    | _, none => (.ok known, s)

/-- Places that no move changes while their pages are held (09 R413). -/
def Places.kept (l : Places) : Places :=
  l.filter (fun x => match x.2 with
    | .here _ => true
    | .t3 _ => true
    | .t4 _ _ => true
    | .atT3 _ => true
    | .atT4 _ => true
    | _ => false)

/-- The bytes of a page that must come from elsewhere: from the first to the last that is read, or written beside bytes of its line that
stay. -/
def neededLines (page : Nat) (reads writes : List Region) : Option (Nat × Nat) :=
  let cut := fun (p : Nat × Nat) => (max p.1 page, min (p.1 + p.2) (page + 65536))
  let rs := (reads.filter (fun g => g.space == 2)).flatMap (fun g => (g.spans.map cut).filter (fun c => decide (c.1 < c.2)))
  let ws := (writes.filter (fun g => g.space == 2)).flatMap (fun g => (g.spans.map cut).flatMap (fun c =>
    if c.2 ≤ c.1 then [] else (if c.1 % 64 = 0 then [] else [(c.1, c.1 + 1)]) ++ (if c.2 % 64 = 0 then [] else [(c.2 - 1, c.2)])))
  let all := rs ++ ws
  match (all.map Prod.fst).min?, (all.map Prod.snd).max? with
  | some lo, some hi => some (lo, hi - lo)
  | _, _ => none

/-- The ledger word of an operation's entry (10 R458). -/
def State.ledgerWord (s : State) (e : OpEnv) (entry : Option Nat) : Nat :=
  match entry with
  | none => 0
  | some k => e.ctx + e.shard * 2 ^ 11 + 2 ^ 19 * k + (Sparse.get LedgerEntry.free s.ledger (e.key * 64 + k)).gen * 2 ^ 25

/-- A number no outstanding DMA request has. -/
def State.nextDma (s : State) : Nat := s.dma.foldl (fun n d => max n (d.id + 1)) 0

/-- A DMA request of an operation (11 R510). -/
def State.askDma (s : State) (e : OpEnv) (op link addr va : Nat) (write : Bool) (data : List Byte) (len : Nat) : Nat × State :=
  let id := s.nextDma
  let d : Dma := { id := id, link := link, part := e.part, core := e.core, slot := e.slot, op := op, basket := e.basket, label := e.label, write := write,
                   addr := addr, va := va, data := data, len := len }
  (id, { s with dma := s.dma ++ [d] })

/-- Asks for what an operation needs from other modules and from T4; a request on a link that is down waits for its return (11
R523). -/
def State.askLines (s : State) (e : OpEnv) (o : OpRec) (reads writes : List Region) : Places → List Wait × Option (Nat × Nat) × State
  | [] => ([], none, s)
  | (p, at') :: ps =>
    match neededLines p reads writes with
    | none => s.askLines e o reads writes ps
    | some (lo, n) =>
      if (chunkAt o.fetched lo n).isSome then s.askLines e o reads writes ps
      else
        let viaDma := fun (link addr : Nat) =>
          let (id, s) := s.askDma e o.index link addr lo false [] n
          let (w, f, s) := s.askLines e o reads writes ps
          (.dma id :: w, f, s)
        let viaWeave := fun (m : Nat) =>
          let s := s.emit (.packet (s.packetOf e.basket m 1 e.label (lo / 64 * 64) (s.ledgerWord e o.entry)
            ((lo + n + 63) / 64 * 64 - lo / 64 * 64) []))
          let (w, f, s) := s.askLines e o reads writes ps
          (.read m lo n :: w, f, s)
        match at' with
        | .t3 m => viaWeave m
        | .atT3 m => viaWeave m
        | .t4 port addr => viaDma port (addr + (lo - p))
        | .atT4 i => viaDma (s.get Fld.PG_T4_PAGES_port e.basket) (s.spillAddr e.basket i + (lo - p))
        | _ => s.askLines e o reads writes ps

/-- What preparing an operation's accesses ends in. -/
inductive Prep where
  | ok (places : Places)
  | wait (w : List Wait)
  | fault (code info : Nat)
  deriving DecidableEq, Repr

/-- The places of pages settled now, beside those of the pages that stand as they were. -/
def Places.over (l known : Places) : Places := Places.kept (l ++ known.filter (fun x => !l.any (fun y => y.1 == x.1)))

/-- Gives an operation pages it has checked: held from then on, settled, and fetched where they lie elsewhere. -/
def State.prepare (s : State) (e : OpEnv) (o : OpRec) (reads writes : List Region) : Prep × State :=
  let pages := (accessPages reads writes).map (fun p => (p.1, p.2.1))
  let o := { o with pages := o.pages ++ (pages.map Prod.fst).filter (fun p => !o.pages.contains p) }
  let s := s.setOp e.core e.slot o
  match s.settlePages e.basket o.places pages with
  | (_, _, some f, t) =>
    let ((c, i), s) := s.settleFault t e.basket f
    (.fault c i, s)
  | (places, w, none, s) =>
    let o := { o with places := places.over o.places }
    let s := s.setOp e.core e.slot o
    if !w.isEmpty then (.wait w, s)
    else match s.askLines e o reads writes places with
      | (_, some (c, i), s) => (.fault c i, s)
      | (w, none, s) => if w.isEmpty then (.ok places, s) else (.wait w, s)

/-! ## Bytes -/

/-- Lines of HBM a read corrects are told (14 R643, R663). -/
def State.hbmCorrections (s : State) (phys n : Nat) : State :=
  ((blocksOf 64 phys n).filter (fun l => Sparse.get 0 s.hbmPoison l == 1)).foldl (fun s l =>
    s.hbmCorrected 0x18 (physChan (l * 64)) (l * 64 % 2 ^ 31)) s

/-- `n` bytes of the basket's address space, within one page. -/
def State.pageRead (s : State) (e : OpEnv) (o : OpRec) (ps : Places) (va n : Nat) : Got × State :=
  match ps.find va with
  | .here phys =>
    let phys := phys + va % 65536
    match s.readHere e.basket va phys n with
    | .ok bs => (.ok bs, s.hbmCorrections phys n)
    | .poison a tag => (.fault 0x0A a, s.linePoisoned e.basket (phys / 64 * 64 + (a - va / 64 * 64)) tag)
  | _ =>
    match s.awayPoisoned e.basket va n, chunkAt o.fetched va n with
    | some a, _ => (.fault 0x0A a, s)
    | none, some bs => (.ok bs, s)
    | none, none => (.fault 0x0A va, s)

/-- Bytes of a span of a region. -/
def State.spanRead (s : State) (e : OpEnv) (o : OpRec) (ps : Places) (g : Region) (a n : Nat) : Got × State :=
  if g.space = 0 then s.lsRead e.site (e.sliceBase + a) n
  else if g.space = 1 then s.rsRead g.row a n
  else
    (cutPages a n).foldl (fun acc c =>
      match acc.1 with
      | .ok bs =>
        (match acc.2.pageRead e o ps c.1 c.2 with
          | (.ok more, s) => (.ok (bs ++ more), s)
          | x => x)
      | _ => acc) (.ok [], s)

/-- The bytes of every span of a region, in order, or the first fault. -/
def State.regionRead (s : State) (e : OpEnv) (o : OpRec) (ps : Places) (g : Region) :
    List (Nat × Nat) → (List (List Byte) × Option (Nat × Nat)) × State
  | [] => (([], none), s)
  | (a, n) :: xs =>
    match s.spanRead e o ps g a n with
    | (.ok bs, s) =>
      let ((bss, f), s) := s.regionRead e o ps g xs
      ((bs :: bss, f), s)
    | (.fault c i, s) => (([], some (c, i)), s)
    | (.wait _, s) => (([], none), s)

/-- Every byte of a tile, its spans apart. -/
def State.readAll (s : State) (e : OpEnv) (o : OpRec) (ps : Places) (g : Region) : (List (List Byte) × Option (Nat × Nat)) × State :=
  s.regionRead e o ps g g.spans

/-- The operation in flight at an index of a shard's list. -/
def State.opAt (s : State) (core slot i : Nat) : Option OpRec := (s.shardAt core slot).ops.find? (fun o => o.index == i)

/-- Writes bytes of the basket's address space, within one page: what must be waited for. Lines of another module that are
written are kept with the operation, so that a second write to one lies over the first. -/
def State.pageWrite (s : State) (e : OpEnv) (o : OpRec) (ps : Places) (va : Nat) (bs : List Byte) : List Wait × State :=
  let o := (s.opAt e.core e.slot o.index).getD o
  let lo := va / 64 * 64
  let n := (va + bs.length + 63) / 64 * 64 - lo
  let whole := (va + bs.length) / 64 - (va + 63) / 64
  let s := s.poisonForgotten e.basket (va + 63) whole
  let away := fun (m : Nat) =>
    let line := (linesOf lo n).flatMap (fun l => (chunkAt o.fetched l 64).getD (List.replicate 64 0))
    let plain := overlay line (va - lo) bs
    let s := s.setOp e.core e.slot { o with fetched := (lo, plain) :: o.fetched }
    let (l, s) := s.sendLines e.basket m e.label lo (s.ledgerWord e o.entry) plain
    (l.map (fun a => Wait.written m (max a va)), s)
  match ps.find va with
  | .here phys => ([], s.writeHere e.basket va (phys + va % 65536) bs)
  | .t3 m => away m
  | .atT3 m => away m
  | .t4 port addr =>
    let (id, s) := s.askDma e o.index port (addr + va % 65536) va true bs bs.length
    ([.dma id], s)
  | .atT4 i =>
    let (id, s) := s.askDma e o.index (s.get Fld.PG_T4_PAGES_port e.basket) (s.spillAddr e.basket i + va % 65536) va true bs bs.length
    ([.dma id], s)
  | _ => ([], s)

/-- Writes bytes at an address of a region's space: what must be waited for. -/
def State.spanWrite (s : State) (e : OpEnv) (o : OpRec) (ps : Places) (g : Region) (a : Nat) (bs : List Byte)
    (from? : Option Nat := none) : List Wait × State :=
  if g.space = 0 then ([], s.lsWrite e.site (e.sliceBase + a) bs from?)
  else if g.space = 1 then ([], s.rsWrite g.row a bs from?)
  else
    (cutPages a bs.length).foldl (fun acc c =>
      let (w, s) := acc.2.pageWrite e o ps c.1 ((bs.drop (c.1 - a)).take c.2)
      (acc.1 ++ w, s)) ([], s)

/-- Writes byte strings to the spans of a region, in order. -/
def State.regionWrite (s : State) (e : OpEnv) (o : OpRec) (ps : Places) (g : Region) (xs : List ((Nat × Nat) × List Byte))
    (from? : Option Nat := none) : List Wait × State :=
  xs.foldl (fun acc x =>
    let (w, s) := acc.2.spanWrite e o ps g x.1.1 x.2 from?
    (acc.1 ++ w, s)) ([], s)

/-- What writing rows leaves: what must be waited for, and the fault of reading bits that stay beside new ones. -/
abbrev Put := List Wait × Option (Nat × Nat)

/-- Writes element codes to a row, keeping the bits beside them: where those cannot be read, nothing is written (04 R141, R178). -/
def State.putCodes (s : State) (e : OpEnv) (o : OpRec) (ps : Places) (t : Tensor) (i c : Nat) (codes : List Nat)
    (from? : Option Nat := none) : Put × State :=
  let sp := s.rowSpan e t i c codes.length
  let g := e.region t [sp]
  let (old, s) :=
    if c * t.bits % 8 = 0 ∧ codes.length * t.bits % 8 = 0 then (Got.ok (List.replicate sp.2 0), s)
    else s.spanRead e o ps g sp.1 sp.2
  match old with
  | .fault k n => (([], some (k, n)), s)
  | .wait w => ((w, none), s)
  | .ok bs =>
    let (w, s) := s.spanWrite e o ps g sp.1 (t.pack c bs codes) from?
    ((w, none), s)

/-- What an operation does when it is performed. -/
inductive Did where
  /-- Something must come first; nothing has moved. -/
  | wait (w : List Wait)
  /-- It ends with a fault. -/
  | fault (code info : Nat)
  /-- It has its effect; it completes once what it has sent is answered. `back` is written when it completes. -/
  | done (w : List Wait) (back : List (Nat × List Byte))
  deriving DecidableEq, Repr

end Sys2Proof.Machine
end

