-- ==== Sys2Proof/Machine/Sampling.lean ====
section
/-! DEFINITION. The strand generator and the sampling of one row (06 R282 to R286; 05 R246). -/

namespace Sys2Proof.Machine

/-- Rounds of Philox4x32-10 (06 R282). -/
def philoxRounds : Nat → Nat → Nat → Nat × Nat × Nat × Nat → Nat × Nat × Nat × Nat
  | 0, _, _, c => c
  | n + 1, k0, k1, (c0, c1, c2, c3) =>
    let p0 := 0xD2511F53 * c0
    let p1 := 0xCD9E8D57 * c2
    philoxRounds n ((k0 + 0x9E3779B9) % 2 ^ 32) ((k1 + 0xBB67AE85) % 2 ^ 32)
      (Nat.xor (Nat.xor (p1 / 2 ^ 32) c1) k0, p1 % 2 ^ 32, Nat.xor (Nat.xor (p0 / 2 ^ 32) c3) k1, p0 % 2 ^ 32)

/-- The strand generator. -/
def philox (k0 k1 c0 c1 c2 c3 : Nat) : Nat × Nat × Nat × Nat := philoxRounds 10 k0 k1 (c0, c1, c2, c3)

/-- A parameter record (05 R246). -/
structure SampleParams where
  seed : Nat
  sequence : Nat
  step : Nat
  position : Nat
  temperature : Nat
  topK : Nat
  topP : Nat
  deriving DecidableEq, Repr

/-- The parameter record 32 bytes spell. -/
def sampleParams (bs : List Byte) : SampleParams :=
  let w := fun (o n : Nat) => leNat ((bs.drop o).take n)
  { seed := w 0 8, sequence := w 8 4, step := w 12 4, position := w 16 4, temperature := w 20 4, topK := w 24 4, topP := w 28 4 }

/-- The draw of a row (06 R283). -/
def SampleParams.draw (p : SampleParams) : Nat :=
  let r := philox (p.seed % 2 ^ 32) (p.seed / 2 ^ 32) p.position p.step p.sequence 0
  r.2.1 * 2 ^ 32 + r.1

def fp32 (c : Nat) : Num := (floatFmt 0).value c

/-- −∞ of FP32. -/
def negInf32 : Nat := 0xFF800000

/-- A temperature or a top_p that makes the draw greedy (06 R284). -/
def SampleParams.greedy (p : SampleParams) : Bool :=
  !(decide (0x00800000 ≤ p.temperature) && decide (p.temperature < 0x7F800000)) ||
  (match fp32 p.topP with
    | .nan => true
    | .inf n => n
    | .fin n m _ => n || m == 0)

/-- Puts a candidate, an identifier with its scaled logit, into a list in descending order of logits, then ascending
identifiers (06 R284, R286). -/
def insertCand (c : Nat × Nat) : List (Nat × Nat) → List (Nat × Nat)
  | [] => [c]
  | d :: ds => if (fp32 d.2).lt (fp32 c.2) then c :: d :: ds else d :: insertCand c ds

/-- The candidates of scaled logits, in order. -/
def candidates (z : List Nat) : List (Nat × Nat) :=
  (z.zipIdx.filter (fun e => e.1 != negInf32)).foldl (fun l e => insertCand (e.2, e.1) l) []

/-- floor(exp(z − m) · 2^64). -/
def candWeight (m z : Nat) : Nat :=
  let d := (floatFmt 0).result ((fp32 z).add (fp32 m).negate)
  match fp32 ((floatFmt 0).result (vecFunction 0x10 (fp32 d))) with
  | .fin _ k e => if 0 ≤ e + 64 then k * 2 ^ (e + 64).toNat else k / 2 ^ (-(e + 64)).toNat
  | _ => 0

/-- Running sums. -/
def runningSums : Nat → List Nat → List Nat
  | _, [] => []
  | a, w :: ws => (a + w) :: runningSums (a + w) ws

/-- `W` reaches the smaller of top_p and one times the whole, exactly. -/
def reachesTopP (topP W last : Nat) : Bool :=
  match fp32 topP with
  | .fin _ m e => if magGt m e 1 0 then decide (last ≤ W) else !magGt (m * last) e W 0
  | _ => decide (last ≤ W)

/-- The token of a row of FP32 logits; none where no candidate stands (06 R284, R285). -/
def sampleRow (x : List Nat) (p : SampleParams) (rnd : Nat) : Option Nat :=
  let x := x.map (fun c => if fp32 c = .nan then negInf32 else c)
  let r := (floatFmt 0).result (vecFunction 0x14 (fp32 p.temperature))
  let z := if p.greedy then x else x.map (fun c => fp32Mul c r)
  match candidates z with
  | [] => none
  | top :: rest =>
    if p.greedy || top.2 == 0x7F800000 then some top.1
    else
      let c := if p.topK = 0 then top :: rest else (top :: rest).take p.topK
      let ws := runningSums 0 (c.map (fun e => candWeight top.2 e.2))
      let last := ws.getLastD 0
      let n := (ws.findIdx? (fun (w : Nat) => reachesTopP p.topP w last)).getD (ws.length - 1)
      let tgt := rnd * ws.getD n 0 / 2 ^ 64
      ((ws.take (n + 1)).findIdx? (fun (w : Nat) => decide (tgt < w))).bind (fun j => ((c)[j]?).map Prod.fst)

end Sys2Proof.Machine
end

