-- ==== Sys2Proof/Machine/OpCompute.lean ====
section
/-! DEFINITION. The compute operations: MATMUL, VEC, VEC_REDUCE, CONVERT, ATTENTION and SAMPLE, with the decodes, terms and
conversions they count (02 R24, R29 to R31, R37 to R67, R723, R724; 03 R68 to R92, R104 to R108; 04 R130 to R140; 05 R211 to
R221, R238 to R246, R730; 06 R282 to R286, R733; 15 R687, R689, R690). -/

namespace Sys2Proof.Machine

/-! ## Tiles of tensors -/

/-- A tile an operation reads or writes: the tensor's index, the tensor, its rows and columns, and how many of the rows it
reads or writes. -/
structure Tile where
  idx : Nat
  t : Tensor
  r : Nat
  n : Nat
  used : Nat
  c : Nat
  m : Nat
  write : Bool
  deriving DecidableEq, Repr

/-- A tile of the tensor a byte of the descriptor names. -/
def OpEnv.tileAt (e : OpEnv) (d : List Byte) (o r n c m : Nat) (write : Bool) : Tile :=
  { idx := opBits d o 0 6, t := opTensor e d o, r := r, n := n, used := n, c := c, m := m, write := write }

/-- What of a tile faults before any byte moves: its extent, or its sequence (05 R201; 06 R260, R733). -/
def State.tileFault (s : State) (e : OpEnv) (x : Tile) : Option (Nat × Nat) :=
  if !x.t.inside x.r x.n x.c x.m then some (0x03, x.idx)
  else if x.t.space = 3 then
    match s.kvTensor e.basket x.t with
    | none => some (0x13, x.t.base % 2 ^ 32)
    | some q => if !x.write ∧ x.used ≠ 0 ∧ q.length < x.r + x.used then some (0x13, x.t.base % 2 ^ 32) else none
  else none

/-- The bytes of a tile that an operation reads or writes. -/
def State.tileRegion (s : State) (e : OpEnv) (x : Tile) : Region := s.tile e x.t x.r x.used x.c x.m

def State.readRegions (s : State) (e : OpEnv) (tiles : List Tile) : List Region := (tiles.filter (fun x => !x.write)).map (s.tileRegion e)

def State.writeRegions (s : State) (e : OpEnv) (tiles : List Tile) : List Region := (tiles.filter (fun x => x.write)).map (s.tileRegion e)

/-- Checks the tiles and other regions of an operation: its fault, or the operation, which holds their pages from then on (05 R225; 09
R410, R413). -/
def State.check (s : State) (e : OpEnv) (o : OpRec) (tiles : List Tile) (reads writes : List Region) : Except (Nat × Nat) OpRec × State :=
  match tiles.findSome? (s.tileFault e) with
  | some f => (.error f, s)
  | none =>
    let rs := s.readRegions e tiles ++ reads
    let ws := s.writeRegions e tiles ++ writes
    match s.checkAccess e o rs ws with
    | (.error f, s) => (.error f, s)
    | (.ok known, s) =>
      let o := { o with pages := (accessPages rs ws).map Prod.fst, places := known }
      (.ok o, s.setOp e.core e.slot o)

/-- Checks the tiles and other regions of an operation once, and gives it their pages. -/
def State.begin (s : State) (e : OpEnv) (o : OpRec) (first : Bool) (tiles : List Tile) (reads writes : List Region) :
    Prep × State :=
  match (if first then s.check e o tiles reads writes else (.ok o, s)) with
  | (.error (c, i), s) => (.fault c i, s)
  | (.ok o, s) => s.prepare e o (s.readRegions e tiles ++ reads) (s.writeRegions e tiles ++ writes)

/-- A row's codes with the scales of its blocks and its LONG128 flags. -/
structure RowData where
  codes : List Nat
  scales : List Nat
  flags : List Nat
  deriving DecidableEq, Repr

def byteNats (bs : List Byte) : List Nat := bs.map BitVec.toNat

/-- Where the codes of columns `c` to `c + n - 1` of a Splint row lie: element bytes and scale bytes, image by image (02 R36). -/
def Tensor.splintSpans (t : Tensor) (i c n : Nat) : List (Nat × Nat × (Nat × Nat) × (Nat × Nat)) :=
  (blocksOf 256 c n).map (fun j =>
    let lo := max c (j * 256)
    let hi := min (c + n) (j * 256 + 256)
    let b0 := lo % 256 / 32
    let nb := (hi - j * 256 + 31) / 32 - b0
    let img := t.image (i / 256) j
    let w := 4 * t.bits
    (lo, hi - lo, (img + (i % 256 * 8 + b0) * w, nb * w), (img + 256 * 8 * w + i % 256 * 8 + b0, nb)))

/-- Reads columns of a row. -/
def State.readRow (s : State) (e : OpEnv) (o : OpRec) (ps : Places) (t : Tensor) (i c n : Nat) :
    (RowData × Option (Nat × Nat)) × State :=
  if isSplint t.fmt then
    let parts := t.splintSpans i c n
    let g := e.region t (parts.flatMap (fun p => [p.2.2.1, p.2.2.2]))
    let ((bss, f), s) := s.readAll e o ps g
    let rows := parts.zipIdx.map (fun p =>
      let lo := p.1.1
      ({ codes := (t.codes 0 (lo % 32 + p.1.2.1) (bss.getD (2 * p.2) [])).drop (lo % 32),
         scales := byteNats (bss.getD (2 * p.2 + 1) []), flags := [] } : RowData))
    (({ codes := rows.flatMap RowData.codes, scales := rows.flatMap RowData.scales, flags := [] }, f), s)
  else
    let el := s.rowSpan e t i c n
    let g := e.region t (el :: (if isMx t.fmt then [t.scaleSpan i c n] else if t.fmt = 15 then [t.flagSpan i c n] else []))
    let ((bss, f), s) := s.readAll e o ps g
    let aux := byteNats (bss.getD 1 [])
    (({ codes := t.codes c n (bss.getD 0 []), scales := if isMx t.fmt then aux else [],
        flags := if t.fmt = 15 then aux else [] }, f), s)

/-- Reads rows in order, or up to the first that faults. -/
def State.readRows (s : State) (e : OpEnv) (o : OpRec) (ps : Places) (t : Tensor) (c n : Nat) :
    List Nat → (List RowData × Option (Nat × Nat)) × State
  | [] => (([], none), s)
  | i :: is =>
    match s.readRow e o ps t i c n with
    | ((d, none), s) =>
      let ((ds, f), s) := s.readRows e o ps t c n is
      ((d :: ds, f), s)
    | ((_, some f), s) => (([], some f), s)

/-- The block of an element, counted from the block of the first column. -/
def blockIn (c j : Nat) : Nat := (c + j) / 32 - c / 32

/-- The exact values of a row, scales included (02 R21, R25, R44). -/
def RowData.values (d : RowData) (t : Tensor) (c : Nat) : List Num :=
  d.codes.zipIdx.map (fun x =>
    let v := elemValue t.fmt x.1
    if isMx t.fmt || isSplint t.fmt then scaled v (d.scales.getD (blockIn c x.2) 0x7F)
    else if hasTensorScale t.fmt then v.scale ((t.scale : Int) - 127)
    else v)

/-- The values of an element format without any scale: vector operands. -/
def RowData.plain (d : RowData) (t : Tensor) : List Num := d.codes.map (elemValue t.fmt)

/-- Writes a row: codes, and scales or flags beside them. -/
def State.writeRow (s : State) (e : OpEnv) (o : OpRec) (ps : Places) (t : Tensor) (i c : Nat) (d : RowData)
    (from? : Option Nat := none) : Put × State :=
  match s.putCodes e o ps t i c d.codes from? with
  | ((w, some f), s) => ((w, some f), s)
  | ((w, none), s) =>
    if isMx t.fmt then
      let sp := t.scaleSpan i c d.codes.length
      let (w', s) := s.spanWrite e o ps (e.region t [sp]) sp.1 (d.scales.map (BitVec.ofNat 8)) from?
      ((w ++ w', none), s)
    else if t.fmt = 15 then
      let sp := t.flagSpan i c d.codes.length
      let (w', s) := s.spanWrite e o ps (e.region t [sp]) sp.1 (d.flags.map (BitVec.ofNat 8)) from?
      ((w ++ w', none), s)
    else ((w, none), s)

/-- Writes rows to rows of a tensor one by one, until one faults: each with its number and the counts its conversion makes. -/
def State.writeRows (s : State) (e : OpEnv) (o : OpRec) (ps : Places) (t : Tensor) (c : Nat) : List (Nat × RowData) → Put × State
  | [] => (([], none), s)
  | (i, d) :: rs =>
    match s.writeRow e o ps t i c d with
    | ((w, some f), s) => ((w, some f), s)
    | ((w, none), s) =>
      let ((ws, f), s) := s.writeRows e o ps t c rs
      ((w ++ ws, f), s)

/-! ## Counters and events -/

/-- Changes the kernel of a context. -/
def State.onKernel (s : State) (c : Nat) (f : Kernel → Kernel) : State :=
  let x := s.ctxAt c
  match x.kernel with
  | none => s
  | some k => s.setCtx c { x with kernel := some (f k) }

/-- Raises an event of the core once per kernel of the context (02 R724). -/
def State.raiseOnce (s : State) (e : OpEnv) (family : Nat) : State :=
  match (s.ctxAt e.ctx).kernel with
  | none => s
  | some k =>
    if bitOf k.raised family then s
    else (s.onKernel e.ctx (fun k => { k with raised := k.raised + 2 ^ family })).report family e.core 0

/-- An activity counter of a slot rises; its event is raised where it is enabled. -/
def State.countEvent (s : State) (e : OpEnv) (f wrap : Field) (n : Nat) (event : Option (Field × Nat)) : State :=
  if n = 0 then s
  else
    let s := s.count f e.regs wrap e.regs 0 n
    match event with
    | none => s
    | some (en, family) => if s.flag en e.regs then s.raiseOnce e family else s

/-- What decodes of a matrix operand count (02 Table 14). -/
structure Decodes where
  invalid : Nat
  oor : Nat
  nonfinite : Nat
  outlier : Nat
  deriving DecidableEq, Repr

def Decodes.zero : Decodes := { invalid := 0, oor := 0, nonfinite := 0, outlier := 0 }

def Decodes.add (a b : Decodes) : Decodes :=
  { invalid := a.invalid + b.invalid, oor := a.oor + b.oor, nonfinite := a.nonfinite + b.nonfinite,
    outlier := a.outlier + b.outlier }

/-- The range of block scales a slot accepts (02 R59). -/
def State.scaleOor (s : State) (e : OpEnv) (sc : Nat) : Bool :=
  sc != 0xFF && (decide (sc < s.get Fld.MU_SCALE_RANGE_scale_min e.regs) || decide (s.get Fld.MU_SCALE_RANGE_scale_max e.regs < sc))

/-- The decodes of a row of an operand (02 R24, R29, R30, R57). -/
def State.decodeRow (s : State) (e : OpEnv) (t : Tensor) (c : Nat) (d : RowData) : Decodes :=
  let bad := fun (j : Nat) => d.scales.getD (blockIn c j) 0x7F == 0xFF
  let nans := (d.scales.filter (· == 0xFF)).length
  let live := d.codes.zipIdx.filter (fun x => !bad x.2)
  { invalid := if isSplint t.fmt then nans + (if t.fmt = 13 then (live.filter (fun x => x.1 == 2)).length else 0) else 0,
    oor := (d.scales.filter (s.scaleOor e)).length,
    nonfinite := if isSplint t.fmt then 0 else nans + (live.filter (fun x => !(elemValue t.fmt x.1).isFin)).length,
    outlier := 0 }

/-- Adds decodes to the slot's counters. -/
def State.countDecodes (s : State) (e : OpEnv) (d : Decodes) : State :=
  let s := s.countEvent e Fld.MU_INVALID_COUNT_count Fld.MU_FMT_STATUS_invalid_wrap d.invalid
    (some (Fld.MU_FMT_CTRL_invalid_event_en, 0x06))
  let s := s.countEvent e Fld.MU_SCALE_OOR_COUNT_count Fld.MU_FMT_STATUS_oor_wrap d.oor (some (Fld.MU_FMT_CTRL_range_event_en, 0x07))
  let s := s.countEvent e Fld.MU_NONFINITE_COUNT_count Fld.MU_FMT_STATUS_nonfinite_wrap d.nonfinite
    (some (Fld.MU_FMT_CTRL_nonfinite_event_en, 0x08))
  s.countEvent e Fld.MU_OUTLIER_COUNT_count Fld.MU_FMT_STATUS_outlier_wrap d.outlier none

/-- Adds the terms of a matrix-unit operation to the slot's counters (03 R104, R108). Where both events are raised, window escape is reported
before headroom, whichever terms raise them (DESIGN CHOICE, log entry 188). -/
def State.countMuTerms (s : State) (e : OpEnv) (t : TermCounts) : State :=
  let s := s.countEvent e Fld.MU_ESCAPE_COUNT_count Fld.MU_ACC_STATUS_escape_wrap t.escape
    (some (Fld.MU_ACC_CTRL_escape_event_en, 0x09))
  let s := s.countEvent e Fld.MU_TRUNC_COUNT_count Fld.MU_ACC_STATUS_trunc_wrap t.trunc none
  let s := s.countEvent e Fld.MU_HIGH_COUNT_count Fld.MU_ACC_STATUS_high_wrap t.high (some (Fld.MU_ACC_CTRL_high_event_en, 0x0A))
  (s.setBits Fld.MU_ACC_STATUS_esc_pos e.regs (bit t.escPos)).setBits Fld.MU_ACC_STATUS_esc_neg e.regs (bit t.escNeg)

/-- The same for the vector unit. -/
def State.countVuTerms (s : State) (e : OpEnv) (t : TermCounts) : State :=
  let s := s.countEvent e Fld.VU_ESCAPE_COUNT_count Fld.VU_ACC_STATUS_escape_wrap t.escape
    (some (Fld.VU_ACC_CTRL_escape_event_en, 0x09))
  let s := s.countEvent e Fld.VU_TRUNC_COUNT_count Fld.VU_ACC_STATUS_trunc_wrap t.trunc none
  let s := s.countEvent e Fld.VU_HIGH_COUNT_count Fld.VU_ACC_STATUS_high_wrap t.high (some (Fld.VU_ACC_CTRL_high_event_en, 0x0A))
  (s.setBits Fld.VU_ACC_STATUS_esc_pos e.regs (bit t.escPos)).setBits Fld.VU_ACC_STATUS_esc_neg e.regs (bit t.escNeg)

/-! ## The clip monitor (02 R64 to R67) -/

/-- A window that has all its elements. -/
def ClipWindow.full (w : ClipWindow) : Bool := w.n == 2 ^ w.log2

/-- A window closes: it is tested, if it began with the monitor enabled. -/
def State.closeWindow (s : State) (core slot site : Nat) : State :=
  let r := s.shardAt core slot
  match r.window with
  | none => s
  | some w =>
    let s := s.setShard core slot { r with window := none }
    if w.en && decide (w.limit * w.n < w.c * 65536) then (s.set Fld.VU_FMT_STATUS_clip_event (site * 8 + slot) 1).report 0x05 core 0
    else s

/-- A window that begins now. -/
def State.newWindow (s : State) (i : Nat) : ClipWindow :=
  { n := 0, c := 0, limit := s.get Fld.VU_CLIP_CTRL_clip_limit i, log2 := max 10 (min 24 (s.get Fld.VU_CLIP_CTRL_window_log2 i)),
    en := s.flag Fld.VU_CLIP_CTRL_monitor_en i }

/-- Quantized elements pass the monitor in the order they are produced: each with whether it clipped. A full window closes
before the next element. -/
def State.monitor (s : State) (e : OpEnv) (clips : List Bool) : State :=
  clips.foldl (fun s c =>
    let r := s.shardAt e.core e.slot
    let s := match r.window with
      | some w => if w.full then s.closeWindow e.core e.slot e.site else s
      | none => s
    let r := s.shardAt e.core e.slot
    let w := r.window.getD (s.newWindow e.regs)
    s.setShard e.core e.slot { r with window := some { w with n := w.n + 1, c := w.c + bit c } }) s

/-- CLIP_WINDOW_CLOSE (02 R64, R66): the window of a slot that has all its elements closes and is tested. -/
def execClipWindowClose (core : Fin 256) (slot : Fin 8) (s : State) : Out :=
  match s.siteOf core.val, (s.shardAt core.val slot.val).window with
  | some site, some w => if w.full then .next (s.closeWindow core.val slot.val site) else .next s
  | _, _ => .next s

/-- Counts converted elements: quantized elements and clips of a conversion that counts, and non-finite results (02 R46 to
R53, R723). -/
def State.countConv (s : State) (e : OpEnv) (counts : Bool) (cs : List Conv) (blocks : Nat := 0) : State :=
  let s := if counts then
      (s.countEvent e Fld.VU_QUANT_COUNT_count Fld.VU_FMT_STATUS_quant_wrap cs.length none).monitor e (cs.map Conv.clip)
    else s
  let s := s.countEvent e Fld.VU_CLIP_COUNT_count Fld.VU_FMT_STATUS_clip_wrap (cs.filter Conv.clip).length none
  s.countEvent e Fld.VU_NONFINITE_COUNT_count Fld.VU_FMT_STATUS_nonfinite_wrap ((cs.filter Conv.nonfinite).length + blocks) none

/-! ## Conversion of rows (02 R43 to R53, R92) -/

/-- A list cut into runs of `n`. -/
def runsOf {α : Type} (n : Nat) : Nat → List α → List (List α)
  | 0, _ => []
  | k + 1, xs => if xs.isEmpty then [] else xs.take n :: runsOf n k (xs.drop n)

/-- A value as the target tensor's format holds it: its per-tensor scale is divided out (02 R46; log entry 165). -/
def Tensor.target (t : Tensor) (x : Num) : Num := if hasTensorScale t.fmt then x.scale (127 - (t.scale : Int)) else x

/-- The anchor of a LONG128 lane with the target's per-tensor scale divided out. -/
def Tensor.targetAnchor (t : Tensor) (anchor : Int) : Int := if hasTensorScale t.fmt then anchor + 127 - (t.scale : Int) else anchor

/-- Exact values converted to a target tensor: the row, the outcomes, and the non-finite blocks. -/
def convertValues (t : Tensor) (cvt : Nat) (xs : List Num) : RowData × List Conv × Nat :=
  if isMx t.fmt then
    let bs := (runsOf 32 xs.length xs).map (quantizeBlock t.fmt cvt)
    let cs := bs.flatMap MxBlock.elems
    ({ codes := cs.map Conv.code, scales := bs.map MxBlock.scale, flags := [] }, cs, (bs.filter MxBlock.nonfinite).length)
  else
    let cs := xs.map (fun x => (floatFmt t.fmt).convert (bitOf cvt 0) (bitOf cvt 2) (t.target x))
    ({ codes := cs.map Conv.code, scales := [], flags := [] }, cs, 0)

/-- LONG128 lanes of an anchor converted to a target tensor (R92). -/
def convertLanes (t : Tensor) (cvt : Nat) (anchor : Int) (ls : List Lane) : List Conv :=
  ls.map (fun l => l.convert (t.targetAnchor anchor) (floatFmt t.fmt) (bitOf cvt 0) (bitOf cvt 2))

/-- A row of codes beside nothing else. -/
def RowData.of (codes : List Nat) : RowData := { codes := codes, scales := [], flags := [] }

/-- A row of a source tensor converted to a target: the row to write, with its counts made. Equal formats are copied (02 Table 11). -/
def State.convertRow (s : State) (e : OpEnv) (src : Tensor) (c : Nat) (d : RowData) (dst : Tensor) (cvt anchor : Nat) : RowData × State :=
  if src.fmt = dst.fmt then (d, s)
  else if src.fmt = 15 then
    let cs := convertLanes dst cvt (e.anchor anchor) ((d.codes.zip d.flags).map (fun x => { v := BitVec.ofNat 128 x.1, flags := x.2 }))
    (RowData.of (cs.map Conv.code), s.countConv e true cs)
  else
    let (row, cs, blocks) := convertValues dst cvt (d.values src c)
    (row, s.countConv e (countsConversion src.fmt dst.fmt) cs blocks)

/-! ## Accumulator tiles (04 R139, R140; 03 R83 to R85) -/

/-- The bytes of a tile of a given shape. -/
def accSize (rows cols : Nat) : Nat := 64 + 16 * (rows * cols) + (rows * cols + 63) / 64 * 64

/-- A tile's header: anchor bits, rows and columns. -/
structure AccHead where
  anchor : Nat
  rows : Nat
  cols : Nat
  deriving DecidableEq, Repr

def AccHead.of (bs : List Byte) : AccHead :=
  { anchor := fieldAt bs 0 2, rows := fieldAt bs 2 1 % 128 + 1, cols := fieldAt bs 3 1 % 64 + 1 }

/-- The lanes of a tile's bytes. -/
def accLanes (n : Nat) (bs : List Byte) : List Lane :=
  (List.range n).map (fun i => { v := BitVec.ofNat 128 (fieldAt bs (64 + 16 * i) 16), flags := fieldAt bs (64 + 16 * n + i) 1 })

/-- The bytes of a tile. -/
def accBytes (h : AccHead) (ls : List Lane) : List Byte :=
  leBytes 2 h.anchor ++ leBytes 1 (h.rows - 1) ++ leBytes 1 (h.cols - 1) ++ List.replicate 60 0 ++
  ls.flatMap (fun l => leBytes 16 l.v.toNat) ++ ls.map (fun l => BitVec.ofNat 8 l.flags) ++
  List.replicate ((ls.length + 63) / 64 * 64 - ls.length) 0

/-- A range of the slice. -/
def OpEnv.sliceRegion (_e : OpEnv) (a n : Nat) : Region := { space := 0, row := 0, spans := [(a, n)] }

/-- Write-backs to a tile base that operations in flight hold are made, in the order the operations issued (05 R207; 04 R130). -/
def State.settleBacks (s : State) (e : OpEnv) (off : Nat) : State :=
  (s.shardAt e.core e.slot).ops.foldl (fun s o =>
    let now := o.back.filter (fun b => b.1 == off)
    if now.isEmpty then s
    else now.foldl (fun s b => s.lsWrite e.site (e.sliceBase + b.1) b.2)
      (s.setOp e.core e.slot { o with back := o.back.filter (fun b => b.1 != off) })) s

/-- The bytes of a tile as an operation that adds into it finds them: after any write-back to its base (05 R207). -/
def State.accRead (s : State) (e : OpEnv) (off n : Nat) : Got × State := (s.settleBacks e off).lsRead e.site (e.sliceBase + off) n

/-- The lanes an operation starts from: those of the tile it adds into, or zeros (03 R84, R85; 04 R140). 05 Table 22 gives
'Anchor received' as the fault information of a mismatch, which may name either of the two anchors: here it is the operation's, and a
REDUCE_LONG, which receives its own tiles, names the tile's (DEDUCED, log entry 77). -/
def State.openTile (s : State) (e : OpEnv) (accumulate : Bool) (off : Nat) (h : AccHead) : Except (Nat × Nat) (List Lane) × State :=
  let n := h.rows * h.cols
  if !accumulate then (.ok (List.replicate n Lane.zero), s)
  else match s.accRead e off (accSize h.rows h.cols) with
    | (.ok bs, s) =>
      let old := AccHead.of bs
      (if old.anchor ≠ h.anchor then .error (0x05, h.anchor)
       else if old.rows ≠ h.rows ∨ old.cols ≠ h.cols then .error (0x06, off)
       else .ok (accLanes n bs), s)
    | (.fault c i, s) => (.error (c, i), s)
    | (.wait _, s) => (.error (0x06, off), s)

/-! ## MATMUL -/

/-- An outlier entry: row and column of the tensor, and its weight. -/
structure Outlier where
  row : Nat
  col : Nat
  w : Num
  deriving DecidableEq, Repr

/-- Strictly ascending. -/
def ascending : List Nat → Bool
  | a :: b :: xs => decide (a < b) && ascending (b :: xs)
  | _ => true

/-- An outlier list of 272 bytes: the entries, or none where it is malformed (02 R38 to R41). -/
def outlierList (bs : List Byte) : Option (List Outlier) :=
  let count := fieldAt bs 0 1
  let sc := fieldAt bs 1 1
  let vf := fieldAt bs 2 1
  let es := (List.range count).map (fun j => (bs.drop (16 + 4 * j)).take 4)
  let fmt := if vf = 0 then 3 else 4
  if 64 < count ∨ 2 ≤ vf ∨ sc = 0xFF ∨ fieldAt bs 3 13 ≠ 0 then none
  else if es.any (fun x => fieldAt x 3 1 != 0) || !ascending (es.map (fun x => fieldAt x 0 1 * 256 + fieldAt x 1 1)) ||
      es.any (fun x => !(elemValue fmt (fieldAt x 2 1)).isFin) then none
  else some (es.map (fun x => { row := fieldAt x 0 1, col := fieldAt x 1 1, w := (elemValue fmt (fieldAt x 2 1)).scale ((sc : Int) - 127) }))

/-- Reads and checks the outlier lists of images `(I, J)`: entries by row and column of the tensor, and the number of scales read that
are out of range (02 R38 to R41, R59). -/
def State.readOutliers (s : State) (e : OpEnv) (o : OpRec) (ps : Places) (t : Tensor) :
    List (Nat × Nat) → Except (Nat × Nat) (List Outlier × Nat) × State
  | [] => (.ok ([], 0), s)
  | (I, J) :: is =>
    let a := t.image I J + imageList t.fmt
    match s.spanRead e o ps (e.region t []) a 272 with
    | (.ok bs, s) =>
      match outlierList bs with
      | none => (.error (0x04, a), s)
      | some l =>
        match s.readOutliers e o ps t is with
        | (.ok (ls, n), s) =>
          (.ok (l.map (fun x => { x with row := I * 256 + x.row, col := J * 256 + x.col }) ++ ls,
            n + bit (s.scaleOor e (fieldAt bs 1 1))), s)
        | x => x
    | (.fault c i, s) => (.error (c, i), s)
    | (.wait _, s) => (.error (0x04, a), s)

/-- The outlier entries of the rows and columns an operation reads of its operand B; none where that is no Splint tensor. -/
def State.tileOutliers (s : State) (e : OpEnv) (o : OpRec) (ps : Places) (t : Tensor) (r n c m : Nat) :
    Except (Nat × Nat) (List Outlier × Nat) × State :=
  if !isSplint t.fmt then (.ok ([], 0), s)
  else match s.readOutliers e o ps t ((blocksOf 256 r n).flatMap (fun I => (blocksOf 256 c m).map (fun J => (I, J)))) with
    | (.ok (l, oor), s) =>
      (.ok (l.filter (fun x => decide (r ≤ x.row) && decide (x.row < r + n) && decide (c ≤ x.col) && decide (x.col < c + m)), oor), s)
    | x => x

/-- The exact products of two rows that an outlier does not replace; `skip j` holds for those that form no product. -/
def products (xs ys : List Num) (skip : Nat → Bool) : List Num :=
  (xs.zip ys).zipIdx.filterMap (fun p => if skip p.2 then none else some (p.1.1.mul p.1.2))

/-- The terms of one lane (03 R68, R73; 02 R30, R39): `k` is the first reduction element, `outs` the outlier entries of the
row of B. -/
def laneTerms (block : Bool) (k : Nat) (av bv : List Num) (bd : RowData) (splint : Bool) (outs : List Outlier) : List Num :=
  let dead := fun (j : Nat) => splint && bd.scales.getD (blockIn k j) 0x7F == 0xFF
  let replaced := fun (j : Nat) => outs.any (fun o => o.col == k + j)
  if !block then products av bv (fun _ => false)
  else
    let ps := (av.zip bv).zipIdx.map (fun p => if dead p.2 || replaced p.2 then numZero else p.1.1.mul p.1.2)
    let sums := (runsOf 32 ps.length ps).map exactSum
    sums ++ outs.map (fun o => (av.getD (o.col - k) numZero).mul o.w)

/-- Adds terms into lanes row by row. -/
def addLanes (anchor : Int) (lanes : List Lane) (terms : List (List Num)) : List Lane × TermCounts :=
  (lanes.zip terms).foldl (fun a x =>
    let (l, c) := addTerms anchor x.1 x.2
    (a.1 ++ [l], a.2.add c)) ([], TermCounts.zero)

/-- The tags of the segments a region of SRAM touches. -/
def State.regionTags (s : State) (e : OpEnv) (g : Region) : List Nat :=
  g.spans.flatMap (fun p =>
    (blocksOf 65536 (if g.space = 0 then e.sliceBase + p.1 else p.1) p.2).map (fun k =>
      Sparse.get 0 s.segTags (if g.space = 0 then e.site * 32 + k else 2 ^ 16 + g.row * 64 + k)))

/-- The seals of a sealed read; none where some segment is not sealed by an INTACT seal of the basket (15 R687). -/
def State.readSeals (s : State) (e : OpEnv) (g : Region) : Option Nat :=
  let tags := s.regionTags e g
  let ok := fun (t : Nat) => decide (2 ≤ t) && (t - 2) / 16 == e.basket && s.get Fld.PG_SEAL_CMD_state (t - 2) == 2
  if tags.all ok then some (tags.foldl (fun m t => m ||| 2 ^ ((t - 2) % 16)) 0) else none

/-- Records an operand B read for the replay record. -/
def State.noteSeals (s : State) (e : OpEnv) (g : Region) : State :=
  match s.readSeals e g with
  | some m => s.onKernel e.ctx (fun k =>
      let new := (List.range 16).filter (fun i => bitOf m i && !k.seals.any (fun x => x.1 == i))
      { k with seals := k.seals ++ new.map (fun i => (i, (s.sealAt e.basket i).breaks)) })
  | none => s.onKernel e.ctx (fun k => { k with sealedAll := false })

/-- MATMUL (05 R211 to R214): its lanes, written back when it completes. -/
def State.doMatmul (s : State) (e : OpEnv) (o : OpRec) (first : Bool) : Did × State :=
  let d := o.desc
  let a := opTensor e d 8
  let b := opTensor e d 9
  let m := opBits d 11 0 7 + 1
  let n := opBits d 12 0 6 + 1
  let ar := opField d 16 4
  let br := opField d 20 4
  let k := opField d 24 4
  let kl := opField d 28 4
  let off := opField d 14 2 * 64
  let slot := opBits d 10 0 2
  let acc := e.sliceRegion off (accSize m n)
  match s.begin e o first [e.tileAt d 8 ar m k kl false, e.tileAt d 9 br n k kl false]
      (if opFlag d 10 2 then [acc] else []) [acc] with
  | (.fault c i, s) => (.fault c i, s)
  | (.wait w, s) => (.wait w, s)
  | (.ok ps, s) =>
    let head : AccHead := { anchor := e.anchorBits slot, rows := m, cols := n }
    match s.openTile e (opFlag d 10 2) off head with
    | (.error (c, i), s) => (.fault c i, s)
    | (.ok lanes, s) =>
      let sp := isSplint b.fmt
      match s.tileOutliers e o ps b br n k kl with
      | (.error (c, i), s) => (.fault c i, s)
      | (.ok (outs, oor), s) =>
        match s.readRows e o ps a k kl ((List.range m).map (· + ar)) with
        | ((_, some (c, i)), s) => (.fault c i, s)
        | ((as, none), s) =>
          match s.readRows e o ps b k kl ((List.range n).map (· + br)) with
          | ((_, some (c, i)), s) => (.fault c i, s)
          | ((bs, none), s) =>
            let dec := (as.foldl (fun x r => x.add (s.decodeRow e a k r)) Decodes.zero).add
              (bs.foldl (fun x r => x.add (s.decodeRow e b k r)) { Decodes.zero with oor := oor, outlier := outs.length })
            let bvs := bs.zipIdx.map (fun r => (r.1, r.1.values b k, outs.filter (fun x => x.row == br + r.2)))
            let terms := as.flatMap (fun x =>
              let av := x.values a k
              bvs.map (fun y => laneTerms (pairRate a.fmt b.fmt != 4096) k av y.2.1 y.1 sp y.2.2))
            let (lanes, tc) := addLanes (e.anchor slot) lanes terms
            let s := ((s.countDecodes e dec).countMuTerms e tc).noteSeals e (s.tile e b br n k kl)
            (.done [] [(off, accBytes head lanes)], s)

/-! ## VEC and VEC_REDUCE -/

/-- Rows of a VEC one by one, until one faults. `yFixed` is a y read once. -/
def State.vecRows (s : State) (e : OpEnv) (o : OpRec) (ps : Places) (c n : Nat) (yFixed : Option (List Num)) :
    List Nat → Option (Nat × Nat) × State
  | [] => (none, s)
  | i :: is =>
    let d := o.desc
    let f := fieldAt d 8 1
    let k := (vecSources f).getD 1
    let x := opTensor e d 10
    match s.readRow e o ps x i c n with
    | ((_, some f), s) => (some f, s)
    | ((xr, none), s) =>
      match (if k < 2 ∨ yFixed.isSome then ((xr, none), s) else s.readRow e o ps (opTensor e d 11) i c n) with
      | ((_, some f), s) => (some f, s)
      | ((yr, none), s) =>
        match (if k < 3 then ((xr, none), s) else s.readRow e o ps (opTensor e d 12) i c n) with
        | ((_, some f), s) => (some f, s)
        | ((zr, none), s) =>
          let ys := yFixed.getD (yr.plain x)
          let out := (xr.plain x).zip (ys.zip (zr.plain x)) |>.map (fun v => (floatFmt x.fmt).result (vecOp f v.1 v.2.1 v.2.2))
          match s.writeRow e o ps (opTensor e d 9) i c (RowData.of out) with
          | ((_, some f), s) => (some f, s)
          | ((_, none), s) => s.vecRows e o ps c n yFixed is

/-- VEC (05 R215, R216). -/
def State.doVec (s : State) (e : OpEnv) (o : OpRec) (first : Bool) : Did × State :=
  let d := o.desc
  let k := (vecSources (fieldAt d 8 1)).getD 1
  let rows := opField d 14 2 + 1
  let r := opField d 16 4
  let c := opField d 20 4
  let n := opField d 24 4
  let one := opFlag d 13 0 || opFlag d 13 1
  let ny := if opFlag d 13 1 then 1 else n
  let tiles := [e.tileAt d 10 r rows c n false] ++
    (if 2 ≤ k then [e.tileAt d 11 r (if one then 1 else rows) c ny false] else []) ++
    (if k = 3 then [e.tileAt d 12 r rows c n false] else []) ++ [e.tileAt d 9 r rows c n true]
  match s.begin e o first tiles [] [] with
  | (.fault c i, s) => (.fault c i, s)
  | (.wait w, s) => (.wait w, s)
  | (.ok ps, s) =>
    let y := opTensor e d 11
    match (if 2 ≤ k ∧ one then s.readRow e o ps y r c ny else ((({ codes := [], scales := [], flags := [] } : RowData), none), s)) with
    | ((_, some (c, i)), s) => (.fault c i, s)
    | ((yr, none), s) =>
      let fixed := if 2 ≤ k ∧ one then some (if opFlag d 13 1 then List.replicate n ((yr.plain y).headD numZero) else yr.plain y) else none
      match s.vecRows e o ps c n fixed ((List.range rows).map (· + r)) with
      | (some (c, i), s) => (.fault c i, s)
      | (none, s) => (.done [] [], s)

/-- Rows of a maximum or minimum one by one. -/
def State.extremeRows (s : State) (e : OpEnv) (o : OpRec) (ps : Places) (c n dst : Nat) : List Nat → Option (Nat × Nat) × State
  | [] => (none, s)
  | i :: is =>
    let x := opTensor e o.desc 10
    match s.readRow e o ps x i c n with
    | ((_, some f), s) => (some f, s)
    | ((xr, none), s) =>
      let v := xr.plain x
      let best := v.tail.foldl (fun a b => if fieldAt o.desc 8 1 = 0 then a.max b else a.min b) (v.headD numZero)
      match s.writeRow e o ps (opTensor e o.desc 9) i dst (RowData.of [(floatFmt x.fmt).result best]) with
      | ((_, some f), s) => (some f, s)
      | ((_, none), s) => s.extremeRows e o ps c n dst is

/-- VEC_REDUCE (05 R217). -/
def State.doVecReduce (s : State) (e : OpEnv) (o : OpRec) (first : Bool) : Did × State :=
  let d := o.desc
  let f := opBits d 8 0 2
  let x := opTensor e d 10
  let rows := opBits d 13 0 7 + 1
  let r := opField d 16 4
  let c := opField d 20 4
  let n := opField d 24 4
  let dst := opField d 28 4
  let is := (List.range rows).map (· + r)
  if f < 2 then
    match s.begin e o first [e.tileAt d 10 r rows c n false, e.tileAt d 9 r rows dst 1 true] [] [] with
    | (.fault c i, s) => (.fault c i, s)
    | (.wait w, s) => (.wait w, s)
    | (.ok ps, s) =>
      match s.extremeRows e o ps c n dst is with
      | (some (c, i), s) => (.fault c i, s)
      | (none, s) => (.done [] [], s)
  else
    let off := opField d 14 2 * 64
    let slot := opBits d 12 0 2
    let acc := e.sliceRegion off (accSize rows 1)
    let head : AccHead := { anchor := e.anchorBits slot, rows := rows, cols := 1 }
    match s.begin e o first ([e.tileAt d 10 r rows c n false] ++ (if f = 3 then [e.tileAt d 11 r rows c n false] else []))
        (if opFlag d 12 2 then [acc] else []) [acc] with
    | (.fault c i, s) => (.fault c i, s)
    | (.wait w, s) => (.wait w, s)
    | (.ok ps, s) =>
      match s.openTile e (opFlag d 12 2) off head with
      | (.error (c, i), s) => (.fault c i, s)
      | (.ok lanes, s) =>
        match s.readRows e o ps x c n is with
        | ((_, some (c, i)), s) => (.fault c i, s)
        | ((xs, none), s) =>
          match (if f = 3 then s.readRows e o ps (opTensor e d 11) c n is else (([], none), s)) with
          | ((_, some (c, i)), s) => (.fault c i, s)
          | ((ys, none), s) =>
            let terms := if f = 3 then (xs.zip ys).map (fun p => products (p.1.plain x) (p.2.plain x) (fun _ => false))
              else xs.map (fun p => p.plain x)
            let (lanes, tc) := addLanes (e.anchor slot) lanes terms
            (.done [] [(off, accBytes head lanes)], s.countVuTerms e tc)

/-! ## CONVERT -/

/-- Rows converted one by one, until one faults. -/
def State.convertRows (s : State) (e : OpEnv) (o : OpRec) (ps : Places) (src dst : Tensor) (sc dc n anchor : Nat) :
    List (Nat × Nat) → Put × State
  | [] => (([], none), s)
  | (i, j) :: is =>
    match s.readRow e o ps src i sc n with
    | ((_, some f), s) => (([], some f), s)
    | ((d, none), s) =>
      let (row, s) := s.convertRow e src sc d dst (opCvt o.desc) anchor
      match s.writeRow e o ps dst j dc row with
      | ((w, some f), s) => ((w, some f), s)
      | ((w, none), s) =>
        let ((ws, f), s) := s.convertRows e o ps src dst sc dc n anchor is
        ((w ++ ws, f), s)

/-- Reads tiles back to back that must have one shape (04 R139; 05 R220, R229): their headers and lanes. -/
def State.readTiles (s : State) (e : OpEnv) (off size : Nat) (h : AccHead) : List Nat → Except (Nat × Nat) (List (AccHead × List Lane)) × State
  | [] => (.ok [], s)
  | t :: ts =>
    let a := off + t * size
    match s.lsRead e.site (e.sliceBase + a) size with
    | (.ok bs, s) =>
      let x := AccHead.of bs
      if x.rows ≠ h.rows ∨ x.cols ≠ h.cols then (.error (0x06, a), s)
      else match s.readTiles e off size h ts with
        | (.ok xs, s) => (.ok ((x, accLanes (h.rows * h.cols) bs) :: xs), s)
        | y => y
    | (.fault c i, s) => (.error (c, i), s)
    | (.wait _, s) => (.error (0x06, a), s)

/-- Tiles back to back from an offset: their shape from the first header, then all of them (04 R138, R139). -/
def State.tilesAt (s : State) (e : OpEnv) (off count : Nat) : Except (Nat × Nat) (AccHead × List (AccHead × List Lane)) × State :=
  match e.sliceBound off 64 with
  | some a => (.error (0x02, a), s)
  | none =>
    match s.lsRead e.site (e.sliceBase + off) 64 with
    | (.ok bs, s) =>
      let h := AccHead.of bs
      let size := accSize h.rows h.cols
      match e.sliceBound off (size * count) with
      | some a => (.error (0x02, a), s)
      | none =>
        match s.readTiles e off size h (List.range count) with
        | (.ok xs, s) => (.ok (h, xs), s)
        | (.error f, s) => (.error f, s)
    | (.fault c i, s) => (.error (c, i), s)
    | (.wait _, s) => (.error (0x06, off), s)

/-- Row `i` of lanes. -/
def laneRow (cols i : Nat) (ls : List Lane) : List Lane := (ls.drop (i * cols)).take cols

/-- A row of the lanes of tiles side by side, as CONVERT writes it: converted, or copied to a LONG128 target (02 Table 11). -/
def State.laneRowOut (s : State) (e : OpEnv) (dst : Tensor) (cvt cols i : Nat) (ts : List (AccHead × List Lane)) : RowData × State :=
  if dst.fmt = 15 then
    let ls := ts.flatMap (fun t => laneRow cols i t.2)
    ({ codes := ls.map (fun l => l.v.toNat), scales := [], flags := ls.map Lane.flags }, s)
  else
    let cs := ts.flatMap (fun t => convertLanes dst cvt (signed16 t.1.anchor) (laneRow cols i t.2))
    (RowData.of (cs.map Conv.code), s.countConv e true cs)

/-- Rows of tiles side by side, written one by one until one faults. -/
def State.laneRows (s : State) (e : OpEnv) (o : OpRec) (ps : Places) (dst : Tensor) (r c cols : Nat) (ts : List (AccHead × List Lane)) :
    List Nat → Option (Nat × Nat) × State
  | [] => (none, s)
  | i :: is =>
    let (row, s) := s.laneRowOut e dst (opCvt o.desc) cols i ts
    match s.writeRow e o ps dst (r + i) c row with
    | ((_, some f), s) => (some f, s)
    | ((_, none), s) => s.laneRows e o ps dst r c cols ts is

/-- CONVERT (05 R218 to R221). -/
def State.doConvert (s : State) (e : OpEnv) (o : OpRec) (first : Bool) : Did × State :=
  let d := o.desc
  let dst := opTensor e d 9
  let r := opField d 16 4
  let c := opField d 20 4
  if opFlag d 10 0 then
    match s.tilesAt e (bitsOf (opField d 14 2) 0 15 * 64) (opBits d 11 0 6 + 1) with
    | (.error (c, i), s) => (.fault c i, s)
    | (.ok (h, ts), s) =>
      match s.begin e o first [e.tileAt d 9 r h.rows c (h.cols * ts.length) true] [] [] with
      | (.fault c i, s) => (.fault c i, s)
      | (.wait w, s) => (.wait w, s)
      | (.ok ps, s) =>
        match s.laneRows e o ps dst r c h.cols ts (List.range h.rows) with
        | (some (c, i), s) => (.fault c i, s)
        | (none, s) => (.done [] [], s)
  else
    let rows := opField d 12 2 + 1
    let n := opField d 24 4
    match s.begin e o first [e.tileAt d 8 r rows c n false, e.tileAt d 9 r rows c n true] [] [] with
    | (.fault c i, s) => (.fault c i, s)
    | (.wait w, s) => (.wait w, s)
    | (.ok ps, s) =>
      match s.convertRows e o ps (opTensor e d 8) dst c c n (opBits d 10 1 2) ((List.range rows).map (fun i => (r + i, r + i))) with
      | ((_, some (c, i)), s) => (.fault c i, s)
      | ((w, none), s) => (.done w [], s)

/-! ## ATTENTION -/

/-- What an ATTENTION covers: its first key, its keys, and the position of its first query (05 R239). -/
structure AttnRange where
  start : Nat
  len : Nat
  pos : Int
  deriving DecidableEq, Repr

/-- The range in effect; with len_from_seq it follows the length of the K sequence. -/
def State.attnRange (s : State) (e : OpEnv) (d : List Byte) : AttnRange :=
  if opFlag d 15 7 then
    let l := ((s.kvNamed e.basket ((opTensor e d 9).base % 2 ^ 32)).map KvSeq.length).getD 0
    { start := 0, len := l, pos := (l : Int) - (if opFlag d 13 7 then opBits d 12 0 7 + 1 else 1 : Nat) }
  else { start := opField d 16 4, len := opField d 20 4, pos := opField d 28 4 }

/-- The keys included for query `i`: a count from the first (05 R239). -/
def AttnRange.keys (a : AttnRange) (d : List Byte) (i : Nat) : Nat :=
  if !opFlag d 12 7 then a.len
  else
    let p := a.pos + (if opFlag d 13 7 then (i : Int) else 0)
    min a.len (p + 1 - a.start).toNat

/-- FP32 code of a lane, RNE. -/
def laneFp32 (l : Lane) (anchor : Int) : Conv := l.convert anchor (floatFmt 0) false false

/-- One query row (05 Table 19): the row of out's values, with its counts made. Each key carries the outlier entries of its row. -/
def State.attnRow (s : State) (e : OpEnv) (d : List Byte) (q : RowData) (keys : List (RowData × List Outlier)) (vals : List RowData)
    (start n : Nat) : List Num × State :=
  let qt := opTensor e d 8
  let kt := opTensor e d 9
  let vt := opTensor e d 10
  let sp := isSplint kt.fmt
  let keys := keys.take n
  let vals := vals.take n
  let block := pairRate qt.fmt kt.fmt != 4096
  let qv := q.values qt 0
  let s := s.countDecodes e (s.decodeRow e qt 0 q)
  let aS := e.anchor (opBits d 13 0 2)
  let aL := e.anchor (opBits d 13 2 2)
  let aO := e.anchor (opBits d 13 4 2)
  let lanes := keys.map (fun k => addTerms aS Lane.zero (laneTerms block 0 qv (k.1.values kt 0) k.1 sp k.2))
  let s := lanes.foldl (fun s l => s.countMuTerms e l.2) s
  let sc := lanes.map (fun l => laneFp32 l.1 aS)
  let s := s.countConv e true sc
  let scores := sc.map (fun c => fp32Mul c.code (opField d 24 4))
  let m := (scores.tail.map fp32).foldl Num.max (fp32 (scores.headD 0))
  let es := scores.map (fun x => (floatFmt 0).result (vecFunction 0x10 (fp32 ((floatFmt 0).result ((fp32 x).add m.negate)))))
  let (l, tc) := addTerms aL Lane.zero (es.map fp32)
  let s := s.countVuTerms e tc
  let lc := laneFp32 l aL
  let s := s.countConv e true [lc]
  let pf := if opFlag d 13 6 then 3 else 1
  let ps := es.map (fun x => (floatFmt pf).convert false true (fp32 x))
  let s := s.countConv e true ps
  let pd : RowData := { codes := ps.map Conv.code, scales := [], flags := [] }
  let pt : Tensor := { qt with fmt := pf, scale := 0x7F }
  let s := s.countDecodes e (s.decodeRow e pt 0 pd)
  let pv := pd.values pt 0
  let vv := vals.map (fun v => v.values vt 0)
  let outs := (List.range vt.cols).map (fun j =>
    addTerms aO Lane.zero (laneTerms (pairRate pf vt.fmt != 4096) start pv (vv.map (fun v => v.getD j numZero))
      { codes := [], scales := [], flags := [] } false []))
  let s := outs.foldl (fun s l => s.countMuTerms e l.2) s
  let oc := outs.map (fun l => laneFp32 l.1 aO)
  let s := s.countConv e true oc
  let rl := (floatFmt 0).result (vecFunction 0x14 (fp32 lc.code))
  (oc.map (fun c => fp32 (fp32Mul c.code rl)), s)

/-- Query rows one by one; the output rows before one that faults are written. -/
def State.attnRows (s : State) (e : OpEnv) (o : OpRec) (ps : Places) (a : AttnRange) (keys : List (RowData × List Outlier))
    (vals : List RowData) : List Nat → Option (Nat × Nat) × State
  | [] => (none, s)
  | i :: is =>
    let d := o.desc
    let qt := opTensor e d 8
    let out := opTensor e d 11
    let row := bitsOf (opField d 14 2) 0 15 + i
    let n := a.keys d i
    if n = 0 then
      let (z, _, _) := convertValues out (opCvt d) (List.replicate (opTensor e d 10).cols numZero)
      match s.writeRow e o ps out row 0 z with
      | ((_, some f), s) => (some f, s)
      | ((_, none), s) => s.attnRows e o ps a keys vals is
    else match s.readRow e o ps qt row 0 qt.cols with
      | ((_, some f), s) => (some f, s)
      | ((q, none), s) =>
        let (vs, s) := s.attnRow e d q keys vals a.start n
        let (r, cs, blocks) := convertValues out (opCvt d) vs
        let s := if out.fmt = 0 then s else s.countConv e true cs blocks
        match s.writeRow e o ps out row 0 r with
        | ((_, some f), s) => (some f, s)
        | ((_, none), s) => s.attnRows e o ps a keys vals is

/-- ATTENTION (05 R238 to R242, R730). The head dimension is the columns of q; the output row has the columns of v (log
entry 87). -/
def State.doAttention (s : State) (e : OpEnv) (o : OpRec) (first : Bool) : Did × State :=
  let d := o.desc
  let qt := opTensor e d 8
  let kt := opTensor e d 9
  let vt := opTensor e d 10
  let rows := opBits d 12 0 7 + 1
  let row := bitsOf (opField d 14 2) 0 15
  let a := s.attnRange e d
  let kn := (List.range rows).foldl (fun x i => max x (a.keys d i)) 0
  match s.begin e o first
      [e.tileAt d 8 row rows 0 qt.cols false, { e.tileAt d 9 a.start a.len 0 qt.cols false with used := kn },
       { e.tileAt d 10 a.start a.len 0 vt.cols false with used := kn }, e.tileAt d 11 row rows 0 vt.cols true] [] [] with
  | (.fault c i, s) => (.fault c i, s)
  | (.wait w, s) => (.wait w, s)
  | (.ok ps, s) =>
    let js := (List.range kn).map (· + a.start)
    match s.tileOutliers e o ps kt a.start kn 0 qt.cols with
    | (.error (c, i), s) => (.fault c i, s)
    | (.ok (outs, oor), s) =>
      match s.readRows e o ps kt 0 qt.cols js with
      | ((_, some (c, i)), s) => (.fault c i, s)
      | ((ks, none), s) =>
        match s.readRows e o ps vt 0 vt.cols js with
        | ((_, some (c, i)), s) => (.fault c i, s)
        | ((vs, none), s) =>
          let dec := ks.foldl (fun x r => x.add (s.decodeRow e kt 0 r)) { Decodes.zero with oor := oor, outlier := outs.length }
          let dec := vs.foldl (fun x r => x.add (s.decodeRow e vt 0 r)) dec
          let keys := (ks.zip js).map (fun k => (k.1, outs.filter (fun x => x.row == k.2)))
          match (s.countDecodes e dec).attnRows e o ps a keys vs (List.range rows) with
          | (some (c, i), s) => (.fault c i, s)
          | (none, s) => (.done [] [], s)

/-! ## SAMPLE -/

/-- Two strand entries of one key merged (15 R689). -/
def strandMerge (a b : Strand) : Strand :=
  let same := !a.vary && !b.vary && a.temperature == b.temperature && a.topK == b.topK && a.topP == b.topP
  { a with
    stepMin := min a.stepMin b.stepMin, stepMax := max a.stepMax b.stepMax, posMin := min a.posMin b.posMin,
    posMax := max a.posMax b.posMax, draws := min (a.draws + b.draws) 0xFFFFFFFF,
    temperature := if same then a.temperature else 0, topK := if same then a.topK else 0,
    topP := if same then a.topP else 0, vary := !same }

/-- Puts an entry into a strand table in ascending order of keys. -/
def mergeStrand (x : Strand) : List Strand → List Strand
  | [] => [x]
  | y :: ys =>
    let kx := x.seed.toNat * 2 ^ 32 + x.sequence.toNat
    let ky := y.seed.toNat * 2 ^ 32 + y.sequence.toNat
    if kx = ky then strandMerge y x :: ys else if kx < ky then x :: y :: ys else y :: mergeStrand x ys

/-- The strand entry of one draw. -/
def SampleParams.strand (p : SampleParams) : Strand :=
  { seed := BitVec.ofNat 64 p.seed, sequence := BitVec.ofNat 32 p.sequence, stepMin := p.step, stepMax := p.step,
    posMin := p.position, posMax := p.position, draws := 1, temperature := BitVec.ofNat 32 p.temperature,
    topK := BitVec.ofNat 32 p.topK, topP := BitVec.ofNat 32 p.topP, vary := false }

/-- Rows sampled one by one. -/
def State.sampleRows (s : State) (e : OpEnv) (o : OpRec) (ps : Places) (vocab : Nat) : List Nat → Option (Nat × Nat) × State
  | [] => (none, s)
  | i :: is =>
    let d := o.desc
    let lt := opTensor e d 8
    let pt := opTensor e d 9
    match s.readRow e o ps lt i 0 vocab with
    | ((_, some f), s) => (some f, s)
    | ((x, none), s) =>
      match s.spanRead e o ps (e.region pt []) (s.rowAddr e pt i) 32 with
      | (.fault c i, s) => (some (c, i), s)
      | (.wait _, s) => (none, s)
      | (.ok bs, s) =>
        let p := sampleParams bs
        let logits := (x.plain lt).map (fun v => (floatFmt 0).result v)
        let tok := (sampleRow logits p p.draw).getD 0xFFFFFFFF
        let s := s.onKernel e.ctx (fun k => { k with strands := mergeStrand p.strand k.strands })
        match s.writeRow e o ps (opTensor e d 10) i 0 (RowData.of [tok]) with
        | ((_, some f), s) => (some f, s)
        | ((_, none), s) => s.sampleRows e o ps vocab is

/-- SAMPLE (05 R245, R246; 06 R282 to R286). -/
def State.doSample (s : State) (e : OpEnv) (o : OpRec) (first : Bool) : Did × State :=
  let d := o.desc
  let rows := opBits d 12 0 7 + 1
  let r := opField d 16 4
  let vocab := opField d 20 4
  match s.begin e o first [e.tileAt d 8 r rows 0 vocab false, e.tileAt d 9 r rows 0 (256 / (opTensor e d 9).bits) false,
      e.tileAt d 10 r rows 0 1 true] [] [] with
  | (.fault c i, s) => (.fault c i, s)
  | (.wait w, s) => (.wait w, s)
  | (.ok ps, s) =>
    match s.sampleRows e o ps vocab ((List.range rows).map (· + r)) with
    | (some (c, i), s) => (.fault c i, s)
    | (none, s) => (.done [] [], s)

end Sys2Proof.Machine
end

