-- ==== Sys2Proof/Machine/KvAlloc.lean ====
section
/-! DEFINITION. The KV page allocator: sequence tables, pages and page lists, the spill order, appends, and the phases of a
batch step (06 R257 to R278, R288 to R292, R731 to R735). -/

namespace Sys2Proof.Machine

/-! ## Sequences and their table -/

/-- The handle of an index. -/
def KvSeq.handle (q : KvSeq) (i : Nat) : Nat := i + q.gen * 2 ^ 24

def State.kvTableVa (s : State) (b : Nat) : Nat :=
  2 ^ 6 * s.get Fld.PG_KV_SEQ_LO_table_lo b + 2 ^ 32 * s.get Fld.PG_KV_SEQ_HI_table_hi b

def State.kvListVa (s : State) (b : Nat) : Nat :=
  2 ^ 6 * s.get Fld.PG_KV_LIST_LO_list_lo b + 2 ^ 32 * s.get Fld.PG_KV_LIST_HI_list_hi b

/-- The 64 bytes of an entry of the sequence table (06 Table 1). -/
def KvSeq.bytes (q : KvSeq) (list i : Nat) : List Byte :=
  leBytes 4 (q.handle i) ++ leBytes 1 q.state ++ leBytes 1 q.format ++ leBytes 2 q.members ++ leBytes 4 q.cols ++
  leBytes 4 q.length ++ leBytes 4 q.capacity ++ leBytes 4 q.pages.length ++
  leBytes 8 (if q.state = 0 then 0 else list + 4 * q.slot) ++ leBytes 8 q.lastStep ++ leBytes 4 q.parent ++
  leBytes 4 q.forkLength ++ leBytes 1 q.branches ++ leBytes 1 q.draftLen ++ List.replicate 14 0

/-- Replaces a sequence. -/
def State.setSeq (s : State) (b i : Nat) (q : KvSeq) : State :=
  { s with kv := Sparse.set [] s.kv b (Sparse.set KvSeq.free (s.kvSeqs b) i q) }

/-- Writes an entry and its page list to memory (R263, R731). -/
def State.kvStore (s : State) (b i : Nat) : State :=
  let q := s.kvSeq b i
  let s := if q.state = 0 ∨ q.pages = [] then s
    else s.devWrite b (s.kvListVa b + 4 * q.slot) (q.pages.flatMap (leBytes 4))
  s.devWrite b (s.kvTableVa b + 64 * i) (q.bytes (s.kvListVa b) i)

/-- Writes the entries that differ from those of an earlier table. -/
def State.kvFlush (s : State) (b : Nat) (before : List (Nat × KvSeq)) : State :=
  let is := ((before ++ s.kvSeqs b).map Prod.fst).eraseDups.filter (fun i =>
    decide (Sparse.get KvSeq.free before i ≠ s.kvSeq b i))
  is.foldl (fun s i => s.kvStore b i) s

/-- A KV_POOL record takes effect on a piece that had none: every entry is written free (R731). -/
def State.kvStart (s : State) (b entries : Nat) : State :=
  let s := { s with kv := Sparse.set [] s.kv b [] }
  s.devWrite b (s.kvTableVa b) ((List.range entries).flatMap (fun i => KvSeq.free.bytes 0 i))

/-! ## Pages -/

/-- The lowest pool pages no sequence holds, up to `n`. -/
def freeFrom (held : List Nat) (pages : Nat) : Nat → Nat → Nat → List Nat
  | 0, _, _ => []
  | _, 0, _ => []
  | fuel + 1, n + 1, k =>
    if pages ≤ k then [] else if held.contains k then freeFrom held pages fuel (n + 1) (k + 1) else k :: freeFrom held pages fuel n (k + 1)

def State.kvFreePages (s : State) (b n : Nat) : List Nat :=
  let held := s.kvHeld b
  freeFrom held (s.get Fld.PG_KV_POOL_PAGES_pages b) (held.length + n) n 0

/-- Spills a resident page within one command (log entry 27). -/
def State.spillNow (s : State) (b va : Nat) (k : MoveKind) : State :=
  match s.leafAt b va with
  | none => s
  | some l =>
    let (id, s) := s.startSpill b va l k
    match s.moves.find? (fun m => m.id == id) with
    | some m => s.endMove m
    | none => s

/-- A frame for a page of the pool; the piece's coldest page outside the pool leaves if none is free. -/
def State.kvFrame (s : State) (b va : Nat) : Option (Nat × State) :=
  match s.takeFrame b (.page va) with
  | some x => some x
  | none =>
    match s.victim b with
    | none => none
    | some (_, v, _) =>
      match s.spillPlace b with
      | (some k, s) => ((s.spillNow b v k).count Fld.PG_EVICT_COUNT_count b Fld.PG_TIER_STATUS_wrap b 0).takeFrame b (.page va)
      | (none, _) => none

/-- A page that has been taken becomes resident in T2, if a leaf maps it and a frame can be had (R732). -/
def State.kvResident (s : State) (b page : Nat) : Bool × State :=
  let va := s.kvBase b + page * 65536
  match s.leafAt b va with
  | none => (false, s)
  | some l =>
    if l.res = 0 then (true, s)
    else if l.res = 3 then (false, s)
    else match s.kvFrame b va with
      | none => (false, s)
      | some (f, s) =>
        let s := match l.place va with
          | .spillT3 m g =>
            (s.addPages Fld.PG_SPILL_T3_pages b false).emit (.guestFree (BitVec.ofNat 14 m) (BitVec.ofNat 64 (s.basketUid b)) g)
          | .spillT4 i => (s.addPages Fld.PG_SPILL_T4_pages b false).useT4 b i false
          | _ => s
        (true, s.fillFrame b va l f)

/-- Pages that have been taken become resident one after another, up to the first that cannot. -/
def State.kvResidents (s : State) (b : Nat) : List Nat → Bool × State
  | [] => (true, s)
  | p :: ps =>
    match s.kvResident b p with
    | (false, s) => (false, s)
    | (true, s) => s.kvResidents b ps

/-- The pool page can be spilled: a resident 64 KiB leaf that no operation holds. -/
def State.kvSpillable (s : State) (b page : Nat) : Bool :=
  let va := s.kvBase b + page * 65536
  match s.leafAt b va with
  | some l => l.shift == 16 && l.res == 0 && l.home == 0 && !l.noSpill && !s.held b va && !s.moving b va
  | none => false

/-- Sorts pairs of a key and a value by key, keeping the order of equal keys. -/
def insertKey (x : Nat × Nat) : List (Nat × Nat) → List (Nat × Nat)
  | [] => [x]
  | y :: ys => if y.1 ≤ x.1 then y :: insertKey x ys else x :: y :: ys

def sortKeys (l : List (Nat × Nat)) : List Nat := (l.foldl (fun a x => insertKey x a) []).map Prod.snd

/-- A sequence of a running group, or of a branch of one (Table 7 order 2). -/
def State.kvRunning (s : State) (b : Nat) (q : KvSeq) : Bool :=
  q.state == 1 || (q.state == 3 && (s.kvSeq b (q.parent % 2 ^ 24)).state == 1)

/-- The pages that could be spilled, in the order of Table 7. -/
def State.kvCands (s : State) (b : Nat) : List Nat :=
  let qs := s.kvSeqs b
  let bases := sortKeys ((qs.filter (fun e => e.2.state == 2 && e.2.members != 0)).map (fun e =>
    (e.2.lastStep * 2 ^ 32 + e.2.handle e.1, e.1)))
  let parked := bases.flatMap (fun i => (List.range (s.kvSeq b i).members).flatMap (fun k => (s.kvSeq b (i + k)).pages.reverse))
  let live := qs.filter (fun e => s.kvRunning b e.2)
  let lasts := live.filterMap (fun e => e.2.pages.getLast?)
  let running := sortKeys (live.flatMap (fun e => (e.2.pages.dropLast.zipIdx).map (fun p => (p.2 * 2 ^ 32 + e.2.handle e.1, p.1))))
  (parked ++ running.filter (fun p => !lasts.contains p)).eraseDups.filter (s.kvSpillable b)

/-- Spills pages in order, up to the first that finds no room; how many. -/
def State.kvSpill (s : State) (b : Nat) : List Nat → Nat × State
  | [] => (0, s)
  | p :: ps =>
    match s.spillPlace b with
    | (none, s) => (0, s)
    | (some k, s) =>
      let (n, s) := (s.spillNow b (s.kvBase b + p * 65536) k).kvSpill b ps
      (n + 1, s)

/-- The room a piece has in T2 within its KV quota (R275). -/
def State.kvRoom (s : State) (b : Nat) : Nat := s.get Fld.PG_KV_T2_QUOTA_quota b - s.get Fld.PG_KV_T2_USED_pages b

/-- Free pages are taken after `t` has made room for them; where one cannot be made resident, `s` stands, but for the draws made. -/
def State.kvTake (s t : State) (b : Nat) (ps : List Nat) : Option (List Nat) × State :=
  match t.kvResidents b ps with
  | (true, t) => (some ps, t)
  | (false, t) => (none, { s with freeCounter := t.freeCounter })

/-- Takes `n` pool pages for an entry, spilling exactly what that needs; none where the entry must be deferred (R275, R732). Where a
page taken cannot be made resident, nothing is taken (log entry 166). -/
def State.kvObtain (s : State) (b n : Nat) (spill : Bool) : Option (List Nat) × State :=
  let ps := s.kvFreePages b n
  let room := s.kvRoom b
  if n = 0 then (some [], s)
  else if ps.length < n then (none, s)
  else if n ≤ room then s.kvTake s b ps
  else if !spill then (none, s)
  else
    let cands := (s.kvCands b).take (n - room)
    if cands.length < n - room then (none, s)
    else
      let (k, t) := s.kvSpill b cands
      if k < n - room then (none, { s with freeCounter := t.freeCounter })
      else s.kvTake (t.count Fld.PG_KV_SPILL_COUNT_count b Fld.PG_KV_STATUS_spill_wrap b 0 k) b ps

/-- Marks whether a lowered quota of a piece still leaves an excess. -/
def State.setTrim (s : State) (b : Nat) (on : Bool) : State :=
  { s with pieces := Sparse.set Piece.none s.pieces b { s.pieceAt b with trim := on } }

/-- Pages above a lowered quota are spilled as far as there is room, until the excess is gone (R735). -/
def State.kvTrim (s : State) (b : Nat) : State :=
  if !(s.pieceAt b).trim then s
  else
    let excess := s.get Fld.PG_KV_T2_USED_pages b - s.get Fld.PG_KV_T2_QUOTA_quota b
    let (k, s) := s.kvSpill b ((s.kvCands b).take excess)
    let s := (if k = 0 then s else s.count Fld.PG_KV_SPILL_COUNT_count b Fld.PG_KV_STATUS_spill_wrap b 0 k).countKv b
    if s.get Fld.PG_KV_T2_USED_pages b ≤ s.get Fld.PG_KV_T2_QUOTA_quota b then s.setTrim b false else s

/-! ## Runs of indices and of page-list slots (R274, R731) -/

/-- The lowest run of `n` consecutive free indices: `k` is the next index to look at, `c` how many before it are free. -/
def freeRun (free : Nat → Bool) (entries n : Nat) : Nat → Nat → Nat → Option Nat
  | 0, _, _ => none
  | fuel + 1, k, c =>
    if c = n then some (k - n)
    else if entries ≤ k then none
    else freeRun free entries n fuel (k + 1) (if free k then c + 1 else 0)

def State.kvRun (s : State) (b n : Nat) : Option Nat :=
  freeRun (fun i => (s.kvSeq b i).state == 0) (s.get Fld.PG_KV_SEQ_MAX_entries b) n
    (((s.kvSeqs b).length + 1) * (n + 1) + 1) 0 0

/-- Slots a sequence's page list takes. -/
def KvSeq.listLen (q : KvSeq) : Nat := (q.capacity + q.perPage - 1) / max 1 q.perPage

/-- The lowest-addressed free run of `n` slots beside runs in rising order. -/
def freeSlots (total n : Nat) : Nat → List (Nat × Nat) → Option Nat
  | at', [] => if at' + n ≤ total then some at' else none
  | at', (a, l) :: rs => if at' + n ≤ a then some at' else freeSlots total n (max at' (a + l)) rs

def insertRun (x : Nat × Nat) : List (Nat × Nat) → List (Nat × Nat)
  | [] => [x]
  | y :: ys => if y.1 ≤ x.1 then y :: insertRun x ys else x :: y :: ys

/-- Runs for several lists, one after another. -/
def slotRuns (total : Nat) : List (Nat × Nat) → List Nat → Option (List Nat)
  | _, [] => some []
  | used, n :: ns =>
    match freeSlots total n 0 used with
    | none => none
    | some a => (slotRuns total (insertRun (a, n) used) ns).map (a :: ·)

def State.kvSlots (s : State) (b : Nat) (ns : List Nat) : Option (List Nat) :=
  let used := ((s.kvSeqs b).filter (fun e => e.2.state != 0)).foldl (fun l e => insertRun (e.2.slot, e.2.listLen) l) []
  slotRuns (s.get Fld.PG_KV_LIST_SLOTS_slots b) used ns

/-- The generation the members of a run receive. -/
def State.kvGen (s : State) (b i n : Nat) : Nat := (List.range n).foldl (fun g k => max g (s.kvSeq b (i + k)).gen) 0

/-- A group's members are released (R271). -/
def State.kvRelease (s : State) (b i n : Nat) : State :=
  (List.range n).foldl (fun s k => s.setSeq b (i + k) { KvSeq.free with gen := ((s.kvSeq b (i + k)).gen + 1) % 256 }) s

/-! ## Appends (05 R243, R244; 06 R261) -/

/-- The pages a sequence needs beside its own for its positions below `n`. -/
def KvSeq.needs (q : KvSeq) (n : Nat) : Nat := (n + q.perPage - 1) / q.perPage - q.pages.length

/-- The pool has that many pages free, and T2 room for them within the quota. -/
def State.kvCan (s : State) (b n : Nat) : Bool := n == 0 || (decide (n ≤ (s.kvFreePages b n).length) && decide (n ≤ s.kvRoom b))

/-- Gives a sequence the pages its positions below `n` need, without spilling, and shows them in its entry and list (R262); false where
there is no room. -/
def State.kvReserve (s : State) (b i n : Nat) : Bool × State :=
  let q := s.kvSeq b i
  match s.kvObtain b (q.needs n) false with
  | (none, s) => (false, s)
  | (some ps, s) =>
    if ps = [] then (true, s) else (true, ((s.setSeq b i { q with pages := q.pages ++ ps }).countKv b).kvStore b i)

/-! ## Step records (R267 to R269, R734) -/

/-- An entry of a step record. -/
structure StepEntry where
  kind : Nat
  fmt : Nat
  handle : Nat
  members : Nat
  branches : Nat
  draftLen : Nat
  cols : Nat
  capacity : Nat
  reserve : Nat
  tokens : Nat
  deriving DecidableEq, Repr

def StepEntry.of (x : List Byte) : StepEntry :=
  { kind := fieldAt x 0 1 % 16, fmt := fieldAt x 2 1, handle := fieldAt x 4 4, members := fieldAt x 8 2,
    branches := fieldAt x 10 1, draftLen := fieldAt x 11 1, cols := fieldAt x 12 4, capacity := fieldAt x 16 4,
    reserve := fieldAt x 20 4, tokens := fieldAt x 24 7 }

/-- The bytes of entry `i` of a record. -/
def stepEntry (rec : List Byte) (i : Nat) : List Byte := (rec.drop (64 + 32 * i)).take 32

def stepCount (rec : List Byte) : Nat := fieldAt rec 8 2

def stepEntries (rec : List Byte) : List StepEntry := (List.range (stepCount rec)).map (fun i => StepEntry.of (stepEntry rec i))

/-- Offending offsets of the header. -/
def stepHeadOffends (rec : List Byte) : List Nat :=
  offends (stepCount rec == 0 || decide (4096 < stepCount rec)) 0x08 ++
  offends (fieldAt rec 0x0A 1 == 0 || decide (64 < fieldAt rec 0x0A 1)) 0x0A ++
  reservedOffends rec [(0x0B, 1, 0xFF), (0x0D, 1, 0xC0), (0x0F, 1, 0x80)] ++
  offends (fieldAt rec 0x0E 2 % 2 ^ 15 == 0 || decide (16384 < fieldAt rec 0x0E 2 % 2 ^ 15)) 0x0E ++
  offends (fieldAt rec 0x10 8 % 256 != 0) 0x10 ++ reservedOffends rec [(0x17, 1, 0xFF), (0x18, 40, 0xFF)]

/-- The row size of a format and width, when a sequence may have them (R258). -/
def kvShapeOk (fmt cols : Nat) : Bool := decide (fmt ≤ 4) && cols != 0 && decide (kvRowBytes fmt cols ≤ 65536)

/-- Offending offsets of an entry, from its first byte. -/
def stepEntryOffends (x : List Byte) : List Nat :=
  let e := StepEntry.of x
  let join := e.kind == 1
  let fork := e.kind == 5
  let commit := e.kind == 6
  offends (decide (6 < e.kind)) 0 ++ reservedOffends x [(0, 1, 0xF0), (3, 1, 0xFF)] ++
  (if join then offends (decide (4 < e.fmt)) 2 else reservedOffends x [(2, 1, 0xFF)]) ++
  (if join then offends (e.members == 0 || decide (1024 < e.members)) 8 else reservedOffends x [(8, 2, 0xFF)]) ++
  (if fork || commit then
    offends (e.branches == 0 || decide (16 < e.branches)) 10 ++ offends (e.draftLen == 0 || decide (63 < e.draftLen)) 11
   else reservedOffends x [(10, 2, 0xFF)]) ++
  (if join then offends (e.cols == 0 || (decide (e.fmt ≤ 4) && !kvShapeOk e.fmt e.cols)) 12 ++
     offends (e.capacity == 0 || decide (2 ^ 24 < e.capacity)) 16 ++ offends (decide (e.capacity < e.reserve)) 20
   else reservedOffends x [(12, 4, 0xFF)]) ++
  (if join || commit then [] else reservedOffends x [(16, 8, 0xFF)]) ++
  (if commit then reservedOffends x [(21, 1, 0xF0), (22, 2, 0xFF), (31, 1, 0xFF)]
   else if fork then reservedOffends x [(28, 4, 0xFF)] else reservedOffends x [(24, 8, 0xFF)])

/-- The group a handle names, by the index of its first member, when it names one. -/
def State.kvGroup (s : State) (b handle : Nat) : Option (Nat × KvSeq) :=
  match s.kvNamed b handle with
  | none => none
  | some q => if handle = 0xFFFFFFFF ∨ q.members = 0 ∨ q.state = 3 then none else some (handle % 2 ^ 24, q)

/-- The state of its group refuses an entry; `seen` holds the groups named before. -/
def State.kvEntryBad (s : State) (b : Nat) (seen : List Nat) (e : StepEntry) : Bool :=
  if e.kind = 1 then false
  else match s.kvGroup b e.handle with
    | none => true
    | some (i, q) =>
      seen.contains i ||
      (if e.kind = 6 then q.branches == 0 || q.branches != e.branches || q.draftLen != e.draftLen
       else q.branches != 0 || ((e.kind == 0 || e.kind == 3) && q.state != 1) || (e.kind == 4 && q.state != 2))

/-- The first entry that offends: its number, fault code and information. -/
def State.stepBadEntry (s : State) (b : Nat) (rec : List Byte) : Nat → List Nat → List StepEntry → Option (Nat × Nat × Nat)
  | _, _, [] => none
  | i, seen, e :: es =>
    let offs := stepEntryOffends (stepEntry rec i)
    if !offs.isEmpty then some (i, 0x01, refusalInfo 5 (offs.map (· + 64 + 32 * i)))
    else if s.kvEntryBad b seen e then some (i, 0x13, e.handle)
    else s.stepBadEntry b rec (i + 1) (if e.kind = 1 then seen else e.handle % 2 ^ 24 :: seen) es

/-- What refuses a record: the entry concerned, if one is, the fault code and its information. -/
def State.stepRefusal (s : State) (b : Nat) (rec : List Byte) : Option (Option Nat × Nat × Nat) :=
  let offs := stepHeadOffends rec
  if !offs.isEmpty then some (none, 0x01, refusalInfo 5 offs)
  else (s.stepBadEntry b rec 0 [] (stepEntries rec)).map (fun x => (some x.1, x.2.1, x.2.2))

/-! ## The phases (R270 to R277, R288 to R292) -/

/-- What an entry ends with: its bytes, and the first index and members of an admitted JOIN. -/
structure StepOut where
  bytes : List Byte
  join : Option (Nat × Nat)
  deriving DecidableEq, Repr

/-- Bytes laid into an entry. -/
def putAt (x : List Byte) (o n v : Nat) : List Byte := overlay x o (leBytes n v)

def stepDone (x : List Byte) : StepOut := { bytes := putAt x 1 1 1, join := none }

def stepDeferred (x : List Byte) : StepOut :=
  { bytes := if fieldAt x 0 1 % 16 = 1 then putAt (putAt x 1 1 2) 4 4 0xFFFFFFFF else putAt x 1 1 2, join := none }

/-- Changes every member of a group. -/
def State.kvMembers (s : State) (b i n : Nat) (f : KvSeq → KvSeq) : State :=
  (List.range n).foldl (fun s k => s.setSeq b (i + k) (f (s.kvSeq b (i + k)))) s

/-- CONTINUE and RESUME: pages for every member (R273). -/
def State.kvContinue (s : State) (b i : Nat) (q : KvSeq) (tokens : Nat) (x : List Byte) (resume : Bool) : StepOut × State :=
  let need := (List.range q.members).map (fun k =>
    let m := s.kvSeq b (i + k)
    (min (m.length + tokens) m.capacity + m.perPage - 1) / m.perPage - m.pages.length)
  match s.kvObtain b need.sum true with
  | (none, s) => (stepDeferred x, s)
  | (some ps, s) =>
    let s := need.zipIdx.foldl (fun (a : List Nat × State) n =>
      let m := a.2.kvSeq b (i + n.2)
      (a.1.drop n.1, a.2.setSeq b (i + n.2) { m with pages := m.pages ++ a.1.take n.1, state := if resume then 1 else m.state })) (ps, s)
    (stepDone x, s.2)

/-- JOIN (R274). -/
def State.kvJoin (s : State) (b step : Nat) (e : StepEntry) (x : List Byte) : StepOut × State :=
  let q : KvSeq := { KvSeq.free with state := 1, format := e.fmt, cols := e.cols, capacity := e.capacity, lastStep := step }
  match s.kvRun b e.members, s.kvSlots b (List.replicate e.members q.listLen) with
  | some i, some slots =>
    let n := (min e.reserve e.capacity + q.perPage - 1) / q.perPage
    match s.kvObtain b (n * e.members) true with
    | (none, s) => (stepDeferred x, s)
    | (some ps, s) =>
      let g := s.kvGen b i e.members
      let s := slots.zipIdx.foldl (fun s a =>
        s.setSeq b (i + a.2) { q with
          gen := g, slot := a.1, pages := (ps.drop (n * a.2)).take n, members := if a.2 = 0 then e.members else 0 }) s
      ({ bytes := putAt (putAt x 1 1 1) 4 4 (i + 2 ^ 24 * g), join := some (i, e.members) }, s)
  | _, _ => (stepDeferred x, s)

/-- The page that holds the next position of a sequence, when it is partly filled: its place in the list. -/
def KvSeq.partPage (q : KvSeq) : Option Nat :=
  if q.length % q.perPage ≠ 0 ∧ q.length / q.perPage < q.pages.length then some (q.length / q.perPage) else none

/-- FORK (R288, R289). `copies` holds the bytes of partly filled pages by address. -/
def State.kvFork (s : State) (b i : Nat) (q : KvSeq) (step : Nat) (e : StepEntry) (x : List Byte)
    (copies : List (Nat × List Byte)) : StepOut × State :=
  let srcs := (List.range q.members).map (fun k => s.kvSeq b (i + k))
  let own := srcs.map (fun m => (min (m.length + e.draftLen + 1) m.capacity + m.perPage - 1) / m.perPage - m.length / m.perPage)
  let total := q.members * e.branches
  match s.kvRun b total, s.kvSlots b ((List.range e.branches).flatMap (fun _ => srcs.map KvSeq.listLen)) with
  | some r, some slots =>
    match s.kvObtain b (own.sum * e.branches) true with
    | (none, s) => (stepDeferred x, s)
    | (some ps, s) =>
      let g := s.kvGen b r total
      let s := slots.zipIdx.foldl (fun (a : List Nat × State) sl =>
        let k := sl.2 % q.members
        let m := srcs.getD k KvSeq.free
        let n := own.getD k 0
        let mine := a.1.take n
        let s := a.2.setSeq b (r + sl.2) { m with
          gen := g, state := 3, members := if k = 0 then q.members else 0, pages := m.pages.take (m.length / m.perPage) ++ mine,
          slot := sl.1, lastStep := step, parent := m.handle (i + k), forkLength := m.length, branches := 0, draftLen := 0, base := 0 }
        let s := match m.partPage with
          | none => s
          | some p =>
            (match copies.find? (fun c => c.1 == s.kvBase b + m.pages.getD p 0 * 65536) with
              | some c => s.devWrite b (s.kvBase b + mine.headD 0 * 65536) c.2
              | none => s)
        (a.1.drop n, s)) (ps, s)
      let s := s.2.kvMembers b i q.members (fun m => { m with branches := e.branches, draftLen := e.draftLen })
      let s := s.setSeq b i { s.kvSeq b i with base := r }
      ({ bytes := putAt (putAt x 1 1 1) 24 4 (r + 2 ^ 24 * g), join := none }, s)
  | _, _ => (stepDeferred x, s)

/-- The accepted count of a branch: drafts that equal the served model's tokens from the first (R291, R292). -/
def acceptedRun (d t : List Nat) : Nat :=
  match d, t with
  | a :: as, b :: bs => if a = b then acceptedRun as bs + 1 else 0
  | _, _ => 0

/-- The accepted counts of a token block. -/
def accepted (branches draft : Nat) (block : List Byte) : List Nat :=
  let tok := fun (j : Nat) => fieldAt block (4 * j) 4
  (List.range branches).map (fun b =>
    acceptedRun ((List.range draft).map (fun i => tok (b * draft + i)))
      ((List.range draft).map (fun i => tok (branches * draft + b * (draft + 1) + i))))

/-- COMMIT (R292). -/
def State.kvCommit (s : State) (b i : Nat) (q : KvSeq) (x block : List Byte) : StepOut × State :=
  let acc := accepted q.branches q.draftLen block
  let a := acc.foldl max 0
  let w := (acc.findIdx? (· == a)).getD 0
  let s := (List.range q.members).foldl (fun s k =>
    let m := s.kvSeq b (i + k)
    let win := s.kvSeq b (q.base + w * q.members + k)
    let n := win.forkLength / m.perPage
    s.setSeq b (i + k) { m with
      pages := m.pages.take n ++ win.pages.drop n, length := min (win.forkLength + a + 1) win.length }) s
  let s := s.kvRelease b q.base (q.branches * q.members)
  let s := s.kvMembers b i q.members (fun m => { m with branches := 0, draftLen := 0, base := 0 })
  ({ bytes := putAt (putAt (putAt x 1 1 1) 16 4 (s.kvSeq b i).length) 20 4 (a + w * 2 ^ 8), join := none }, s)

/-- The bytes of a COMMIT's token block (R291). -/
def StepEntry.blockLen (e : StepEntry) : Nat := 4 * (e.branches * (2 * e.draftLen + 1))

/-- One entry. `blocks` holds the token blocks by address; one of an entry has the length its entry gives. -/
def State.kvEntry (s : State) (b step tokens : Nat) (blocks copies : List (Nat × List Byte)) (x : List Byte) : StepOut × State :=
  let e := StepEntry.of x
  if e.kind = 1 then
    let (r, s) := s.kvJoin b step e x
    (r, s.countKv b)
  else
    let i := e.handle % 2 ^ 24
    let s := s.kvMembers b i (s.kvSeq b i).members (fun m => { m with lastStep := step })
    let q := s.kvSeq b i
    let (r, s) :=
      if e.kind = 2 then (stepDone x, s.kvRelease b i q.members)
      else if e.kind = 3 then (stepDone x, s.kvMembers b i q.members (fun m => { m with state := 2 }))
      else if e.kind = 6 then s.kvCommit b i q x (((blocks.find? (fun c => c.1 == e.tokens && c.2.length == e.blockLen)).map Prod.snd).getD [])
      else if e.kind = 5 then s.kvFork b i q step e x copies
      else s.kvContinue b i q tokens x (e.kind == 4)
    (r, s.countKv b)

/-- The entries of some kinds, in record order, over the results so far. -/
def State.kvPhase (s : State) (b step tokens : Nat) (blocks copies : List (Nat × List Byte)) (kinds : List Nat)
    (outs : List StepOut) : List StepOut × State :=
  outs.foldl (fun (a : List StepOut × State) o =>
    if kinds.contains (fieldAt o.bytes 0 1 % 16) then
      let (r, s) := a.2.kvEntry b step tokens blocks copies o.bytes
      (a.1 ++ [r], s)
    else (a.1 ++ [o], a.2)) ([], s)

/-- The three phases of an accepted record (R270 steps 3 to 5). -/
def State.kvPhases (s : State) (b : Nat) (rec : List Byte) (blocks copies : List (Nat × List Byte)) : List StepOut × State :=
  let step := fieldAt rec 0 8
  let tokens := fieldAt rec 0x0A 1
  let outs := (List.range (stepCount rec)).map (fun i => ({ bytes := stepEntry rec i, join := none } : StepOut))
  let s := (s.countKv b).kvTrim b
  let (outs, s) := s.kvPhase b step tokens blocks copies [2, 3, 6] outs
  let (outs, s) := s.kvPhase b step tokens blocks copies [0, 4, 5] outs
  s.kvPhase b step tokens blocks copies [1] outs

/-- Pages of FORK entries that must be copied, and token blocks of COMMIT entries: address and length. -/
def State.stepReads (s : State) (b : Nat) (rec : List Byte) : List (Nat × Nat) × List (Nat × Nat) :=
  let es := stepEntries rec
  ((es.filter (fun e => e.kind == 6)).map (fun e => (e.tokens, e.blockLen)),
    (es.filter (fun e => e.kind == 5)).flatMap (fun e =>
      let i := e.handle % 2 ^ 24
      (List.range (s.kvSeq b i).members).filterMap (fun k =>
        let m := s.kvSeq b (i + k)
        m.partPage.map (fun p => (s.kvBase b + m.pages.getD p 0 * 65536, 65536)))))

end Sys2Proof.Machine
end

