-- ==== Sys2Proof/Machine/OpMove.lean ====
section
/-! DEFINITION. The move operations: LOAD, STORE, GATHER, KV_APPEND, EXCHANGE and REDUCE_LONG, with the offers, pulls and
partials between shards (05 R222 to R237, R243, R244, R726; 03 R93 to R102; 06 R261; 10 R458 to R462; 15 R686). -/

namespace Sys2Proof.Machine

/-! ## LOAD and STORE -/

/-- The intact seal that covers every byte of a region of the basket's address space, as a segment tag (15 R686). -/
def State.sealOf (s : State) (e : OpEnv) (g : Region) : Option Nat :=
  if g.space ≠ 2 ∨ g.spans = [] then none
  else ((List.range 16).find? (fun i =>
    let k := e.basket * 16 + i
    let base := 2 ^ 16 * s.get Fld.PG_SEAL_BASE_LO_base_lo k + 2 ^ 32 * s.get Fld.PG_SEAL_BASE_HI_base_hi k
    s.get Fld.PG_SEAL_CMD_state k == 2 && g.spans.all (fun p =>
      decide (base ≤ p.1) && decide (p.1 + p.2 ≤ base + s.get Fld.PG_SEAL_LEN_pages k * 65536)))).map
    (fun i => 2 + 16 * e.basket + i)

/-- Rows copied, or converted where the formats differ, one by one until one faults: pairs of a source and a target row. -/
def State.copyRows (s : State) (e : OpEnv) (o : OpRec) (ps : Places) (src dst : Tensor) (sc dc n : Nat) (from? : Option Nat) :
    List (Nat × Nat) → Put × State
  | [] => (([], none), s)
  | (i, j) :: is =>
    match s.readRow e o ps src i sc n with
    | ((_, some f), s) => (([], some f), s)
    | ((d, none), s) =>
      let (row, s) := s.convertRow e src sc d dst (opCvt o.desc) 0
      match s.writeRow e o ps dst j dc row from? with
      | ((w, some f), s) => ((w, some f), s)
      | ((w, none), s) =>
        let ((ws, f), s) := s.copyRows e o ps src dst sc dc n from? is
        ((w ++ ws, f), s)

/-- Splint images copied bit for bit: pairs of a source and a target address (02 R31). -/
def State.copyImages (s : State) (e : OpEnv) (o : OpRec) (ps : Places) (src dst : Tensor) (from? : Option Nat) :
    List (Nat × Nat) → Put × State
  | [] => (([], none), s)
  | (a, b) :: is =>
    match s.spanRead e o ps (e.region src []) a (imageStride src.fmt) with
    | (.fault c i, s) => (([], some (c, i)), s)
    | (.wait _, s) => (([], none), s)
    | (.ok bs, s) =>
      let (w, s) := s.spanWrite e o ps (e.region dst []) b bs from?
      let ((ws, f), s) := s.copyImages e o ps src dst from? is
      ((w ++ ws, f), s)

/-- LOAD and STORE (05 R222 to R226): Splint images are copied whole; a STORE of a Splint tensor to FP32 converts its rows (02 R44). -/
def State.doMove (s : State) (e : OpEnv) (o : OpRec) (first : Bool) : Did × State :=
  let d := o.desc
  let src := opTensor e d 8
  let dst := opTensor e d 9
  let rows := opField d 10 2 + 1
  let cols := opField d 12 4
  let sr := opField d 16 4
  let sc := opField d 20 4
  let dr := opField d 24 4
  let dc := opField d 28 4
  match s.begin e o first [e.tileAt d 8 sr rows sc cols false, e.tileAt d 9 dr rows dc cols true] [] [] with
  | (.fault c i, s) => (.fault c i, s)
  | (.wait w, s) => (.wait w, s)
  | (.ok ps, s) =>
    let from? := if opCode d = 0x08 then s.sealOf e (s.tile e src sr rows sc cols) else none
    let r := if isSplint src.fmt ∧ src.fmt = dst.fmt then
        s.copyImages e o ps src dst from? ((List.range ((rows + 255) / 256)).flatMap (fun i =>
          (List.range ((cols + 255) / 256)).map (fun j => (src.image (sr / 256 + i) (sc / 256 + j), dst.image (dr / 256 + i) (dc / 256 + j)))))
      else s.copyRows e o ps src dst sc dc cols from? ((List.range rows).map (fun i => (sr + i, dr + i)))
    match r with
    | ((_, some (c, i)), s) => (.fault c i, s)
    | ((w, none), s) => (.done w [], s)

/-! ## GATHER -/

/-- A signed 32-bit index as the 64 bits of the fault information, which 05 Table 22 gives without an extension: its sign is extended
(DESIGN CHOICE, log entry 167). -/
def extend32 (n : Nat) : Nat := if n < 2 ^ 31 then n else n + (2 ^ 64 - 2 ^ 32)

/-- GATHER (05 R227, R228): every index is read and checked before any row moves. The pages of the indices are settled first, since they
name the rows; then the pages of all of it are checked together (log entry 198). -/
def State.doGather (s : State) (e : OpEnv) (o : OpRec) (first : Bool) : Did × State :=
  let d := o.desc
  let src := opTensor e d 8
  let dst := opTensor e d 9
  let idx := opTensor e d 10
  let rows := opField d 12 2 + 1
  let ic := opField d 16 4
  let dr := opField d 20 4
  let cols := opField d 24 4
  let sc := opField d 28 4
  let tiles := [e.tileAt d 10 0 1 ic rows false, e.tileAt d 9 dr rows 0 cols true, { e.tileAt d 8 0 1 sc cols false with used := 0 }]
  match (if first then s.check e o tiles [] [] else (.ok o, s)) with
  | (.error (c, i), s) => (.fault c i, s)
  | (.ok o, s) =>
  match s.begin e o false [e.tileAt d 10 0 1 ic rows false] [] [] with
  | (.fault c i, s) => (.fault c i, s)
  | (.wait w, s) => (.wait w, s)
  | (.ok ps, s) =>
    match s.readRow e o ps idx 0 ic rows with
    | ((_, some (c, i)), s) => (.fault c i, s)
    | ((x, none), s) =>
      match x.codes.find? (fun i => decide (2 ^ 31 ≤ i) || decide (src.rows ≤ i)) with
      | some i => (.fault 0x12 (extend32 i), s)
      | none =>
        let more := x.codes.map (fun i => e.tileAt d 8 i 1 sc cols false)
        let pages := (accessPages (more.map (fun t => s.tile e t.t t.r t.used t.c t.m)) []).map Prod.fst
        let again := first || pages == [] || !pages.all (fun p => o.pages.contains p)
        match s.begin e o again (tiles ++ more) [] [] with
        | (.fault c i, s) => (.fault c i, s)
        | (.wait w, s) => (.wait w, s)
        | (.ok ps, s) =>
          match s.copyRows e o ps src dst sc 0 cols none (x.codes.zipIdx.map (fun p => (p.1, dr + p.2))) with
          | ((_, some (c, i)), s) => (.fault c i, s)
          | ((w, none), s) => (.done w [], s)

/-! ## KV_APPEND -/

/-- The rows of a KV_APPEND move to the positions below `top`. -/
def State.appendRows (s : State) (e : OpEnv) (o : OpRec) (tile : Tile) (rows top : Nat) : Did × State :=
  let src := opTensor e o.desc 8
  let kv := opTensor e o.desc 9
  match s.begin e o false [tile] [] [s.tile e kv (top - rows) rows 0 kv.cols] with
  | (.fault c i, s) => (.fault c i, s)
  | (.wait w, s) => (.wait w, s)
  | (.ok ps, s) =>
    match s.copyRows e o ps src kv 0 0 kv.cols none ((List.range rows).map (fun i => (tile.r + i, top - rows + i))) with
    | ((_, some (c, i)), s) => (.fault c i, s)
    | ((w, none), s) => (.done w [], s)

/-- KV_APPEND (05 R225, R243, R244; 06 R261): every page is checked before one is taken, and every page obtained before a byte
moves. -/
def State.doAppend (s : State) (e : OpEnv) (o : OpRec) (first : Bool) : Did × State :=
  let d := o.desc
  let kv := opTensor e d 9
  let rows := opField d 12 2 + 1
  let handle := kv.base % 2 ^ 32
  let i := handle % 2 ^ 24
  let tile := e.tileAt d 8 (opField d 16 4) rows 0 kv.cols false
  match o.top with
  | some top => s.appendRows e o tile rows top
  | none =>
    match (if first then s.tileFault e tile else none), s.kvTensor e.basket kv with
    | some (c, n), _ => (.fault c n, s)
    | none, none => (.fault 0x13 handle, s)
    | none, some q =>
      let pos := if opFlag d 10 0 then q.length else opField d 20 4
      let top := pos + rows
      if q.length < pos ∨ kv.rows < top ∨ q.capacity < top ∨ !s.kvCan e.basket (q.needs top) then (.fault 0x13 handle, s)
      else
        let more := s.kvFreePages e.basket (q.needs top)
        let put := (s.setSeq e.basket i { q with pages := q.pages ++ more }).tile e kv pos rows 0 kv.cols
        let get := s.tile e tile.t tile.r tile.used tile.c tile.m
        match s.checkAccess e o [get] [put] with
        | (.error (c, n), s) => (.fault c n, s)
        | (.ok known, s) =>
          let o := { o with pages := (accessPages [get] [put]).map Prod.fst, places := known, top := some top }
          match (s.setOp e.core e.slot o).kvReserve e.basket i top with
          | (false, s) => (.fault 0x13 handle, s)
          | (true, s) => s.appendRows e o tile rows top

/-- A KV_APPEND that completes without a fault gives its sequence its new length (R243, R251). -/
def State.appendLength (s : State) (e : OpEnv) (o : OpRec) : State :=
  match o.top with
  | none => s
  | some top =>
    let i := (opTensor e o.desc 9).base % 2 ^ 24
    (s.setSeq e.basket i { s.kvSeq e.basket i with length := top }).kvStore e.basket i

/-! ## Ranks and ledger words -/

/-- The module whose shards have a rank of a context's kernel (05 R725). -/
def State.rankModule (s : State) (c rank : Nat) : Option Nat :=
  match (s.ctxAt c).kernel with
  | none => none
  | some k => (k.rankMap.find? (fun m => decide (m.2.1 ≤ rank) && decide (rank < m.2.1 + m.2.2))).map (fun m => m.1)

/-- The first of some ranks whose module cannot be reached. -/
def State.lostRank (s : State) (e : OpEnv) (ranks : List Nat) : Option Nat :=
  ranks.findSome? (fun r =>
    match s.rankModule e.ctx r with
    | some m => if s.unreachable e.basket m then some m else none
    | none => none)

/-- The operation in flight a ledger word names: its slot and record, when its entry is in use in that generation
(08 R367, R368). -/
def State.ledgerOp (s : State) (c shard entry gen : Nat) : Option (Nat × Nat × OpRec) :=
  (s.slotsOf c).findSome? (fun x =>
    let r := s.shardAt x.1 x.2
    let l := Sparse.get LedgerEntry.free s.ledger ((x.1 * 8 + x.2) * 64 + entry)
    if r.active && r.shard == shard && l.used && l.gen == gen then
      (r.ops.find? (fun o => o.entry == some entry)).map (fun o => (x.1, x.2, o))
    else none)

/-- The operation a whole ledger word names. -/
def State.wordOp (s : State) (w : Nat) : Option (Nat × Nat × OpRec) :=
  s.ledgerOp (w % 2 ^ 11) (bitsOf w 11 8) (bitsOf w 19 6) (bitsOf w 25 8)

/-! ## Payloads -/

/-- The tile of an EXCHANGE whose payload is a tensor. -/
def exchangeTile (e : OpEnv) (d : List Byte) (write : Bool) : Tile :=
  e.tileAt d 9 (opField d 16 4) (opField d 12 2 + 1) (opField d 20 4) (opField d 28 4) write

/-- The bytes of a row as a payload carries it: its codes from bit 0 on (log entry 88). -/
def rowBytes (t : Tensor) (codes : List Nat) : List Byte :=
  ({ t with base := 0 }).pack 0 (List.replicate ((codes.length * t.bits + 7) / 8) 0) codes

/-- The bytes of a tensor payload: every row's elements, then every row's scales or flags (log entry 88). -/
def tensorPayload (t : Tensor) (rows : List RowData) : List Byte :=
  rows.flatMap (fun r => rowBytes t r.codes) ++
  rows.flatMap (fun r => (r.scales ++ r.flags).map (BitVec.ofNat 8))

/-- The rows a tensor payload holds. -/
def payloadRows (t : Tensor) (rows cols : Nat) (bs : List Byte) : List RowData :=
  let n := (cols * t.bits + 7) / 8
  let a := if isMx t.fmt then (cols + 31) / 32 else if t.fmt = 15 then cols else 0
  (List.range rows).map (fun i =>
    let aux := byteNats ((bs.drop (rows * n + i * a)).take a)
    { codes := t.codes 0 cols ((bs.drop (i * n)).take n), scales := if isMx t.fmt then aux else [],
      flags := if t.fmt = 15 then aux else [] })

/-- The bytes a tensor payload takes. -/
def payloadLen (t : Tensor) (rows cols : Nat) : Nat :=
  rows * ((cols * t.bits + 7) / 8 + (if isMx t.fmt then (cols + 31) / 32 else if t.fmt = 15 then cols else 0))

/-- A tile of partials: sender rank, mode, whether its lanes are V with flags (else FP32), anchor bits, tile index, shape, and lanes
from the first. -/
structure Partial where
  rank : Nat
  mode : Nat
  long : Bool
  anchor : Nat
  tile : Nat
  rows : Nat
  cols : Nat
  first : Nat
  lanes : List (Nat × Nat)
  deriving DecidableEq, Repr

/-- Lanes as a partial carries them: LONG128 values with their flags, within a module whatever the reduction mode, or FP32 (03 R93,
R95, R99). -/
def partLanes (long : Bool) (anchor : Nat) (ls : List Lane) : List (Nat × Nat) :=
  ls.map (fun l => if long then (l.v.toNat, l.flags) else ((laneFp32 l (signed16 anchor)).code, 0))

/-- The tiles at an offset as partials of a rank, to this module or to another. -/
def tilesPartials (mode rank : Nat) (here : Bool) (ts : List (AccHead × List Lane)) : List Partial :=
  let long := here || mode != 1
  ts.zipIdx.map (fun t =>
    { rank := rank, mode := mode, long := long, anchor := t.1.1.anchor, tile := t.2, rows := t.1.1.rows, cols := t.1.1.cols, first := 0,
      lanes := partLanes long t.1.1.anchor t.1.2 })

/-- The FP32 codes or V values of a partial as the reduction of a mode takes them: the tree takes FP32 (03 R99, R100). A partial that stays
in the module travels as V with flags (R93) and is converted here, at the tree; the conversion is counted once, on the sender (log entry
187). -/
def Partial.codes (p : Partial) : List Nat :=
  if p.mode = 1 ∧ p.long then
    p.lanes.map (fun l => (laneFp32 { v := BitVec.ofNat 128 l.1, flags := l.2 } (signed16 p.anchor)).code)
  else p.lanes.map Prod.fst

/-- A tile of partials in pieces that fit a packet of 32 flits (10 R457, R460). -/
def Partial.pieces (p : Partial) : List Partial :=
  let n := if p.long then 10 + 31 * 13 else 46 + 31 * 58
  (List.range ((p.lanes.length + n - 1) / n)).map (fun i => { p with first := p.first + n * i, lanes := (p.lanes.drop (n * i)).take n })

/-- The args of a PARTIAL packet (10 R460). -/
def Partial.packetArgs (p : Partial) (chan : Nat) : Nat :=
  chan + p.rank * 2 ^ 8 + p.mode * 2 ^ 22 + p.anchor * 2 ^ 32 + p.tile * 2 ^ 48 + p.first * 2 ^ 64 + p.lanes.length * 2 ^ 80 +
  (p.rows - 1) * 2 ^ 96 + (p.cols - 1) * 2 ^ 104

/-- How many lanes a HEAD and a later flit of a PARTIAL hold, and the bytes of a lane (10 R460). -/
def laneShape (long : Bool) : Nat × Nat × Nat := if long then (10, 13, 17) else (46, 58, 4)

/-- Where a lane's bytes lie in the payload of a PARTIAL: a HEAD has 184 payload bytes beside the packet header, a later flit 232. -/
def laneAt (long : Bool) (i : Nat) : Nat :=
  let (head, more, size) := laneShape long
  if i < head then i * size else 184 + (i - head) / more * 232 + (i - head) % more * size

/-- The payload bytes of `n` lanes of a PARTIAL, in whole flits. -/
def lanesLen (long : Bool) (n : Nat) : Nat :=
  let (head, more, _) := laneShape long
  184 + (n - head + more - 1) / more * 232

/-- The payload of a PARTIAL packet: its lanes, flit by flit, with the unused bytes zero (10 R460). -/
def Partial.bytes (p : Partial) : List Byte :=
  (p.lanes.zipIdx.foldl (fun (a : List Byte) l =>
      a ++ List.replicate (laneAt p.long l.2 - a.length) 0 ++ (if p.long then leBytes 16 l.1.1 ++ leBytes 1 l.1.2 else leBytes 4 l.1.1)) []) |>
    fun a => a ++ List.replicate (lanesLen p.long p.lanes.length - a.length) 0

/-- The args of an OFFER: channel, sender rank, format, rows and columns. -/
def offerArgs (chan rank fmt rows cols : Nat) : Nat := chan + rank * 2 ^ 8 + 2 ^ 22 * fmt + 2 ^ 32 * rows + 2 ^ 64 * cols

/-! ## Ends of waits -/

/-- Removes one wait from a list. -/
def dropWait (p : Wait → Bool) : List Wait → List Wait
  | [] => []
  | w :: ws => if p w then ws else w :: dropWait p ws

/-- An operation's record changes; one whose waits have ended is ready. -/
def State.endWait (s : State) (core slot : Nat) (o : OpRec) (p : Wait → Bool) : State :=
  let ws := dropWait p o.waits
  s.setOp core slot { o with waits := ws, ready := o.ready || ws.isEmpty }

/-- An operation in flight ends with a fault once it completes; it waits no more, and its shard issues no more (R250). -/
def State.failOp (s : State) (core slot : Nat) (o : OpRec) (code info : Nat) : State :=
  let s := s.setOp core slot { o with waits := [], ready := true, fault := some (code, info) }
  s.setShard core slot { s.shardAt core slot with halted := true }

/-- A peer of a send has taken its payload (05 R230). -/
def State.taken (s : State) (w m : Nat) (rank : Option Nat) : State :=
  match s.wordOp w with
  | none => s
  | some (core, slot, o) =>
    s.endWait core slot o (fun x => match x with
      | .take m' r => m' == m && (rank.isNone || rank == some r)
      | _ => false)

/-- Tells a sender, here or elsewhere, that a payload has been taken, or pulls one: kind 0 take, 1 pull. -/
def State.answerOffer (s : State) (x : OfferRec) (kind : Nat) (rank : Nat) : State :=
  if x.src = s.me then (if kind = 0 then s.taken x.ledger s.me (some rank) else s)
  else s.emit (.resp (BitVec.ofNat 14 x.src)
    { src := BitVec.ofNat 14 s.me, ctx := BitVec.ofNat 11 x.ledger, shard := BitVec.ofNat 8 (x.ledger / 2 ^ 11),
      entry := BitVec.ofNat 6 (x.ledger / 2 ^ 19), gen := BitVec.ofNat 8 (x.ledger / 2 ^ 25), kind := BitVec.ofNat 4 kind,
      status := 0 })

/-! ## Receiving (05 R231 to R236) -/

/-- Writes the rows of a payload to the tensor of a receive: what must be waited for, or its fault. -/
def State.putPayload (s : State) (e : OpEnv) (o : OpRec) (rows : List RowData) : Put × State :=
  let t := exchangeTile e o.desc true
  match s.begin e o false [t] [] [] with
  | (.ok ps, s) => s.writeRows e o ps t.t t.c (rows.zipIdx.map (fun r => (t.r + r.2, r.1)))
  | (.fault c i, s) => (([], some (c, i)), s)
  | (.wait w, s) => ((w, none), s)

/-- A receive has its payload. -/
def State.received (s : State) (e : OpEnv) (o : OpRec) (rows : List RowData) : State :=
  let (w, s) := s.putPayload e o rows
  let o := (s.opAt e.core e.slot o.index).getD o
  match w with
  | (_, some (c, i)) => s.failOp e.core e.slot o c i
  | (w, none) => s.setOp e.core e.slot { o with waits := w, ready := w.isEmpty }

/-- The fields of a REDUCE_LONG. -/
structure Reduction where
  own : Bool
  chan : Nat
  count : Nat
  slot : Nat
  src : Nat
  dst : Nat
  first : Nat
  ranks : Nat
  deriving DecidableEq, Repr

def Reduction.of (d : List Byte) : Reduction :=
  { own := opFlag d 8 0, chan := opField d 9 1, count := opBits d 10 0 6 + 1, slot := opBits d 11 0 2,
    src := bitsOf (opField d 12 2) 0 15 * 64, dst := bitsOf (opField d 14 2) 0 15 * 64, first := opField d 16 2, ranks := opField d 18 2 }

def Reduction.covers (x : Reduction) (rank : Nat) : Bool := decide (x.first ≤ rank) && decide (rank < x.first + x.ranks)

/-- Adds lanes into a result tile in the slice, from a first lane on (03 R80, R96); the fault of reading it (04 R141). -/
def State.addPartial (s : State) (e : OpEnv) (off rows cols first : Nat) (ls : List Lane) : Option (Nat × Nat) × State :=
  let n := rows * cols
  match s.lsRead e.site (e.sliceBase + off) (accSize rows cols) with
  | (.ok bs, s) =>
    let old := accLanes n bs
    let new := old.zipIdx.map (fun x => if first ≤ x.2 then x.1.add (ls.getD (x.2 - first) Lane.zero) else x.1)
    (none, s.lsWrite e.site (e.sliceBase + off) (accBytes (AccHead.of bs) new))
  | (.fault c i, s) => (some (c, i), s)
  | (.wait _, s) => (none, s)

/-- Writes result tiles of zeros (05 R235). -/
def State.zeroTiles (s : State) (e : OpEnv) (dst count : Nat) (h : AccHead) : State :=
  let size := accSize h.rows h.cols
  (List.range count).foldl (fun s t =>
    s.lsWrite e.site (e.sliceBase + dst + t * size) (accBytes h (List.replicate (h.rows * h.cols) Lane.zero))) s

/-- The lanes a reduction holds of a rank and tile. -/
def lanesHeld (ps : List PartTile) (rank tile : Nat) : List Nat :=
  (ps.filter (fun p => p.rank == rank && p.tile == tile)).flatMap (fun p => p.lanes.map Prod.fst)

/-- The target of a REDUCE_LONG under red_mode 1, once its tile shape is known (05 R235; 03 R102). -/
def treeTile (e : OpEnv) (d : List Byte) (rows cols : Nat) : Tile :=
  e.tileAt d 20 (opField d 24 4) rows (opField d 28 4) (cols * (Reduction.of d).count) true

/-- A partial meets a reduction: checked, then added or kept for the tree (05 R235, R236; 03 R96, R97, R101). The reduction's tile shape
is that of its own tiles, which stand first among its parts, or of the first partial; with it the target of a tree is known, and its pages
are checked before anything is kept (09 R410). The rank's wait ends once all its lanes are in. Of several faults, the one first tested
here is raised, and tile-shape names the tile that the partial would go to (log entries 189, 190). -/
def State.takePartial (s : State) (e : OpEnv) (o : OpRec) (p : Partial) : State :=
  let x := Reduction.of o.desc
  let shape := (o.parts.head?).map (fun q => (q.rows, q.cols))
  let size := accSize p.rows p.cols
  let new := (List.range p.lanes.length).map (· + p.first)
  let fail := fun (c i : Nat) => s.failOp e.core e.slot o c i
  if p.anchor ≠ e.anchorBits x.slot then fail 0x05 p.anchor
  else if p.mode ≠ e.redMode then fail 0x07 p.rank
  else if !x.covers p.rank || (lanesHeld o.parts p.rank p.tile).any (fun l => new.contains l) then fail 0x08 p.rank
  else if x.count ≤ p.tile || (shape.isSome && shape != some (p.rows, p.cols)) then fail 0x06 (x.dst + p.tile * size)
  else
    let bound := if e.redMode = 0 ∧ shape = none then (e.sliceBound x.dst (size * x.count)).map (fun a => (0x02, a)) else none
    match (match bound with
      | some f => ((Except.error f, s) : Except (Nat × Nat) OpRec × State)
      | none => if e.redMode = 1 ∧ shape = none then s.check e o [treeTile e o.desc p.rows p.cols] [] [] else (.ok o, s)) with
    | (.error (c, i), s) => s.failOp e.core e.slot o c i
    | (.ok o, s) =>
      let (bad, s) := if e.redMode = 0 then
          let s := if shape = none then s.zeroTiles e x.dst x.count { anchor := p.anchor, rows := p.rows, cols := p.cols } else s
          s.addPartial e (x.dst + p.tile * size) p.rows p.cols p.first
            (p.lanes.map (fun l => { v := BitVec.ofNat 128 l.1, flags := l.2 }))
        else (none, s)
      match bad with
      | some (c, i) => s.failOp e.core e.slot o c i
      | none =>
        let parts := o.parts ++ [{ rank := p.rank, tile := p.tile, rows := p.rows, cols := p.cols, lanes := new.zip p.codes }]
        let full := (List.range x.count).all (fun t => (lanesHeld parts p.rank t).length == p.rows * p.cols)
        let o := { o with parts := parts }
        if full then
          let ws := dropWait (fun w => w == .partials p.rank) o.waits
          s.setOp e.core e.slot { o with waits := ws, ready := ws.isEmpty && e.redMode == 0 }
        else s.setOp e.core e.slot o

/-- The payload of a send in flight on this module, as partials or as rows, or the fault of reading it. -/
def State.sendTiles (s : State) (e : OpEnv) (o : OpRec) : Except (Nat × Nat) (List Partial) × State :=
  match s.tilesAt e (bitsOf (opField o.desc 14 2) 0 15 * 64) (opBits o.desc 11 0 6 + 1) with
  | (.ok (_, ts), s) => (.ok (tilesPartials e.redMode e.rank true ts), s)
  | (.error f, s) => (.error f, s)

def State.sendRows (s : State) (e : OpEnv) (o : OpRec) : Except (Nat × Nat) (List RowData) × State :=
  let t := exchangeTile e o.desc false
  match s.begin e o false [t] [] [] with
  | (.ok ps, s) =>
    (match s.readRows e o ps t.t t.c t.m ((List.range t.n).map (· + t.r)) with
      | ((_, some f), s) => (.error f, s)
      | ((rows, none), s) => (.ok rows, s))
  | (.fault c i, s) => (.error (c, i), s)
  | (.wait _, s) => (.ok [], s)

/-- A send in flight faults on its payload: it offers it to no shard any more. -/
def State.failSend (s : State) (e : OpEnv) (o : OpRec) (word : Nat) (f : Nat × Nat) : State :=
  { s with offers := s.offers.filter (fun x => !(x.src == s.me && x.ledger == word)) }.failOp e.core e.slot o f.1 f.2

/-- An offer an operation waits for: of its basket, kernel and channel, for its rank, and not taken by its shard before. -/
def OfferRec.for (x : OfferRec) (uid : Nat) (e : OpEnv) (r : ShardRun) (chan : Nat) : Bool :=
  x.uid == uid && x.kernel == e.kernelId && x.channel == chan && (x.dest.isNone || x.dest == some e.rank) &&
  !(x.dest.isNone && r.took.contains (x.src, x.ledger))

/-- An offer is taken from those held. -/
def State.takeOffer (s : State) (e : OpEnv) (x : OfferRec) : State :=
  let r := s.shardAt e.core e.slot
  { s with offers := s.offers.erase x }.setShard e.core e.slot
    { r with took := if x.dest.isNone then r.took ++ [(x.src, x.ledger)] else r.took }

/-- A receive whose operation has issued meets the offers held: the oldest of its rank is matched (05 R231, R232). -/
def State.matchReceive (s : State) (e : OpEnv) (o : OpRec) : State :=
  let d := o.desc
  let r := s.shardAt e.core e.slot
  let rank := opField d 24 2
  let t := exchangeTile e d true
  match s.offers.find? (fun x => x.for (s.basketUid e.basket) e r (opField d 10 1) && x.rank == rank) with
  | none => s
  | some x =>
    if x.format ≠ t.t.fmt ∨ x.rows ≠ t.n ∨ x.cols ≠ t.m then s.failOp e.core e.slot o 0x09 rank
    else if s.unreachable e.basket x.src then s.failOp e.core e.slot o 0x0F x.src
    else
      let s := s.takeOffer e x
      if x.src ≠ s.me then (s.setOp e.core e.slot { o with sent := true }).answerOffer x 1 e.rank
      else match s.wordOp x.ledger with
        | none => s
        | some (core, slot, so) =>
          match s.opEnv core slot with
          | none => s
          | some se =>
            (match s.sendRows se so with
              | (.error g, s) => s.failSend se so x.ledger g
              | (.ok rows, s) => (s.received e o rows).answerOffer x 0 e.rank)

/-- A reduction takes one offer, if it waits for one: a tensor payload of a rank it names faults it, and so does a rank
outside its range. -/
def State.matchReduce (s : State) (e : OpEnv) (o : OpRec) : State :=
  let x := Reduction.of o.desc
  let r := s.shardAt e.core e.slot
  match s.offers.find? (fun f => f.for (s.basketUid e.basket) e r x.chan && (f.format == 16 || x.covers f.rank)) with
  | none => s
  | some f =>
    if f.format ≠ 16 then s.failOp e.core e.slot o 0x09 f.rank
    else if !x.covers f.rank || o.parts.any (fun p => p.rank == f.rank) then s.failOp e.core e.slot o 0x08 f.rank
    else if s.unreachable e.basket f.src then s.failOp e.core e.slot o 0x0F f.src
    else
      let s := s.takeOffer e f
      if f.src ≠ s.me then s.answerOffer f 1 e.rank
      else match s.wordOp f.ledger with
        | none => s
        | some (core, slot, so) =>
          match s.opEnv core slot with
          | none => s
          | some se =>
            (match s.sendTiles se so with
              | (.error g, s) => s.failSend se so f.ledger g
              | (.ok ps, s) =>
                let s := ps.foldl (fun s p =>
                  match s.opAt e.core e.slot o.index with
                  | some o => if o.fault.isSome then s else s.takePartial e o p
                  | none => s) s
                s.answerOffer f 0 e.rank)

/-- An operation waits for payloads. -/
def OpRec.waitsPayload (o : OpRec) : Bool :=
  !o.sent && o.waits.any (fun w => match w with
    | .payload _ => true
    | _ => false)

def OpRec.waitsPartials (o : OpRec) : Bool :=
  o.waits.any (fun w => match w with
    | .partials _ => true
    | _ => false)

/-- One operation of a shard meets the offers held. -/
def State.matchOp (s : State) (core slot i : Nat) : State :=
  match s.opEnv core slot, s.opAt core slot i with
  | some e, some o =>
    if o.waitsPayload then s.matchReceive e o else if o.waitsPartials then s.matchReduce e o else s
  | _, _ => s

/-- Every operation that waits meets the offers held, as often as there are offers. -/
def State.matchOffers (s : State) : State :=
  (List.range s.offers.length).foldl (fun s _ =>
    s.shards.foldl (fun s r => r.2.ops.foldl (fun s o => s.matchOp (r.1 / 8) (r.1 % 8) o.index) s) s) s

/-! ## EXCHANGE and REDUCE_LONG -/

/-- The offers of a send to its peers, once its payload stands (05 R229, R230, R233; 10 R462). -/
def State.sendOffers (s : State) (e : OpEnv) (o : OpRec) (fmt rows cols : Nat) : Did × State :=
  let d := o.desc
  let chan := opField d 10 1
  let peers := ((List.range (opField d 26 2)).map (· + opField d 24 2)).filter (· != e.rank)
  match s.lostRank e peers with
  | some m => (.fault 0x0F m, s)
  | none =>
    let word := s.ledgerWord e o.entry
    let s := peers.foldl (fun s r =>
      match s.rankModule e.ctx r with
      | none => s
      | some m =>
        if m = s.me then
          { s with
            offers := s.offers ++ [{ uid := s.basketUid e.basket, kernel := e.kernelId, channel := chan, rank := e.rank, src := m,
                                     ledger := word, format := fmt, rows := rows, cols := cols, dest := some r }] }
        else s.emit (.packet (s.packetOf e.basket m 5 e.label e.kernelId word (offerArgs chan e.rank fmt rows cols) []))) s
    (.wait (peers.map (fun r => Wait.take ((s.rankModule e.ctx r).getD s.me) r)), s)

/-- EXCHANGE send. Under red_mode 1 its lanes are converted once (03 R99, R92). -/
def State.doSend (s : State) (e : OpEnv) (o : OpRec) (first : Bool) : Did × State :=
  let d := o.desc
  if opFlag d 8 1 then
    match s.tilesAt e (bitsOf (opField d 14 2) 0 15 * 64) (opBits d 11 0 6 + 1) with
    | (.error (c, i), s) => (.fault c i, s)
    | (.ok (h, ts), s) =>
      let s := if e.redMode = 1 then
          s.countConv e true (ts.flatMap (fun t => t.2.map (fun l => laneFp32 l (signed16 t.1.anchor)))) else s
      s.sendOffers e o 16 h.rows h.cols
  else
    let t := exchangeTile e d false
    match s.begin e o first [t] [] [] with
    | (.fault c i, s) => (.fault c i, s)
    | (.wait w, s) => (.wait w, s)
    | (.ok ps, s) =>
      match s.readRows e o ps t.t t.c t.m ((List.range t.n).map (· + t.r)) with
      | ((_, some (c, i)), s) => (.fault c i, s)
      | ((_, none), s) => s.sendOffers e o t.t.fmt t.n t.m

/-- EXCHANGE receive: waits for the payload of its one peer. -/
def State.doReceive (s : State) (e : OpEnv) (o : OpRec) (first : Bool) : Did × State :=
  match s.begin e o first [exchangeTile e o.desc true] [] [] with
  | (.fault c i, s) => (.fault c i, s)
  | (.wait w, s) => (.wait w, s)
  | (.ok _, s) =>
    let rank := opField o.desc 24 2
    match s.lostRank e [rank] with
    | some m => (.fault 0x0F m, s)
    | none => (.wait [.payload rank], s)

/-- The result tiles of a REDUCE_LONG overlap its own tiles (05 R237). The header is read at decode, at the head of the list, before the
operation's waits are over (log entry 192). -/
def State.reduceOverlap (s : State) (e : OpEnv) (d : List Byte) : Bool :=
  let x := Reduction.of d
  if opCode d ≠ 0x0D ∨ e.redMode ≠ 0 ∨ !x.own then false
  else
    let h := AccHead.of (s.localStore.read (e.site * 2 ^ 21 + e.sliceBase + x.src) 64)
    let n := accSize h.rows h.cols * x.count
    decide (x.src < x.dst + n) && decide (x.dst < x.src + n)

/-- REDUCE_LONG: its own tiles stand for its rank at once, and the result starts as their copy; the others' partials are waited for (05
R234, R235). Own tiles of a rank outside the sender range give the shape and the copy, and no contribution to a tree (log entry 168). The
shapes of all own tiles are checked before the anchors of any (log entry 191). A tensor payload offered already faults it before it writes
anything (05 R232), and so do the pages of a tree's target (09 R410). -/
def State.doReduce (s : State) (e : OpEnv) (o : OpRec) : Did × State :=
  let x := Reduction.of o.desc
  let others := ((List.range x.ranks).map (· + x.first)).filter (fun r => !(x.own && r == e.rank))
  match (if x.own then s.tilesAt e x.src x.count else (.ok (AccHead.of [], []), s)) with
  | (.error (c, i), s) => (.fault c i, s)
  | (.ok (h, ts), s) =>
    match ts.find? (fun t => t.1.anchor != e.anchorBits x.slot) with
    | some t => (.fault 0x05 t.1.anchor, s)
    | none =>
      let size := accSize h.rows h.cols
      match (if x.own ∧ e.redMode = 0 then e.sliceBound x.dst (size * x.count) else none) with
      | some a => (.fault 0x02 a, s)
      | none =>
        match s.lostRank e others with
        | some m => (.fault 0x0F m, s)
        | none =>
        match s.offers.find? (fun f => f.for (s.basketUid e.basket) e (s.shardAt e.core e.slot) x.chan && f.format != 16 && x.covers f.rank) with
        | some f => (.fault 0x09 f.rank, s)
        | none =>
        match (if e.redMode = 1 ∧ x.own then s.check e o [treeTile e o.desc h.rows h.cols] [] [] else (.ok o, s)) with
        | (.error (c, i), s) => (.fault c i, s)
        | (.ok _, s) =>
          let mine := if x.own then tilesPartials e.redMode e.rank false ts else []
          let s := if e.redMode = 1 ∧ x.own ∧ x.covers e.rank then
              s.countConv e true (ts.flatMap (fun t => t.2.map (fun l => laneFp32 l (signed16 t.1.anchor)))) else s
          let s := if x.own ∧ e.redMode = 0 then
              ts.zipIdx.foldl (fun s t => s.lsWrite e.site (e.sliceBase + x.dst + t.2 * size) (accBytes t.1.1 t.1.2)) s
            else s
          let parts := mine.map (fun p =>
            ({ rank := p.rank, tile := p.tile, rows := p.rows, cols := p.cols,
               lanes := p.lanes.zipIdx.map (fun l => (l.2, l.1.1)) } : PartTile))
          let o := (s.opAt e.core e.slot o.index).getD o
          (.wait (others.map Wait.partials), s.setOp e.core e.slot { o with parts := parts })

/-- The canonical tree over the FP32 partials of a lane, by rank (03 R100; 05 R235). -/
def treeLane (x : Reduction) (parts : List PartTile) (tile lane : Nat) : Nat :=
  let vs := (List.range x.ranks).map (fun k =>
    ((parts.filter (fun p => p.rank == x.first + k && p.tile == tile)).findSome? (fun p =>
      (p.lanes.find? (fun l => l.1 == lane)).map Prod.snd)).getD 0)
  treeSum 16 vs

/-- Row `i` of the tree's result as its target holds it, with its counts made. -/
def State.treeRow (s : State) (e : OpEnv) (o : OpRec) (t : Tensor) (cols i : Nat) : RowData × State :=
  let x := Reduction.of o.desc
  let codes := (List.range x.count).flatMap (fun k => (List.range cols).map (fun j => treeLane x o.parts k (i * cols + j)))
  if t.fmt = 0 then (RowData.of codes, s)
  else
    let (row, cs, blocks) := convertValues t (opCvt o.desc) (codes.map fp32)
    (row, s.countConv e true cs blocks)

/-- The rows of the tree's result, written one by one until one faults. -/
def State.treeRows (s : State) (e : OpEnv) (o : OpRec) (ps : Places) (t : Tensor) (r c : Nat) (p : PartTile) : List Nat → Put × State
  | [] => (([], none), s)
  | i :: is =>
    let (row, s) := s.treeRow e o t p.cols i
    match s.writeRow e o ps t (r + i) c row with
    | ((w, some f), s) => ((w, some f), s)
    | ((w, none), s) =>
      let ((ws, f), s) := s.treeRows e o ps t r c p is
      ((w ++ ws, f), s)

/-- The tree of a REDUCE_LONG runs once every partial is in, and its result is converted to dst (03 R100 to R102). -/
def State.doTree (s : State) (e : OpEnv) (o : OpRec) : Did × State :=
  match o.parts.head? with
  | none => (.done [] [], s)
  | some p =>
    let t := opTensor e o.desc 20
    let r := opField o.desc 24 4
    let c := opField o.desc 28 4
    match s.begin e o false [treeTile e o.desc p.rows p.cols] [] [] with
    | (.fault c i, s) => (.fault c i, s)
    | (.wait w, s) => (.wait w, s)
    | (.ok ps, s) =>
      match s.treeRows e o ps t r c p (List.range p.rows) with
      | ((_, some (c, i)), s) => (.fault c i, s)
      | ((w, none), s) => (.done w [], s)

end Sys2Proof.Machine
end

