-- ==== Sys2Proof/Machine/Fence.lean ====
section
/-! DEFINITION. Fences: where one lies, its atomic update, watches and wakes, and the fence operations (08 R375 to R387; 05 R247 to
R249; 09 R402, R425). -/

namespace Sys2Proof.Machine

/-! ## Where a fence lies -/

/-- Where the 16 bytes of a fence are for an access to it. -/
inductive FencePlace where
  | here (phys : Nat)
  | away (module : Nat)
  | t4 (port addr : Nat)
  | spill (index : Nat)
  | wait (move : Nat)
  /-- A fault of 05 Table 22. -/
  | fault (code info : Nat)
  deriving DecidableEq, Repr

/-- The number that stands for the link of a T4 page in a wait: no move has it. -/
def linkMove : Nat := 2 ^ 32

/-- Brings a page spilled to T4 back at once, where a frame is free; where none is, a victim leaves first, and where none can, the
fence is accessed in place (R381; 09 R418, R422; log entry 27). -/
def State.bringFence (s : State) (b va i : Nat) (l : Leaf) : FencePlace × State :=
  match s.bringBack b va l (.atT4 i) with
  | (.wait id, s) =>
    (match s.moves.find? (fun m => m.id == id && m.va == va / 65536 * 65536 && s.moveReady m) with
      | some m => (.here (m.frame * 65536 + va % 65536), s.endMove m)
      | none => (.wait id, s))
  | (_, s) => if s.reachesSpill b i then (.spill i, s) else (.wait linkMove, s)

/-- A fence's translation faults: recorded, and for a signal of the device's own told as a write that was dropped (09 R403, R736). -/
def State.fenceFault (s : State) (b va need reason level : Nat) : FencePlace × State :=
  (.fault 0x0C va, if need = 0 then s.dropWrite b va reason level else s.recordFault b (.translation va reason level))

/-- Finds a fence for an access that needs a right: 1 for a wait, 4 for a signal, 0 for a signal of the device's own (R381;
09 R402, R403). A page spilled to another module is updated where it lies, one spilled to T4 comes back first. -/
def State.fenceFind (s : State) (b va need : Nat) : FencePlace × State :=
  let part := s.get Fld.CAP_BASKET_partition b
  if 2 ^ 56 ≤ va then s.fenceFault b va need 6 0
  else match s.walk b va with
  | .fault r l => s.fenceFault b va need r l
  | .poison a tag => (.fault 0x0A va, s.linePoisoned b a tag)
  | .leaf l =>
    if l.rights &&& need != need then s.fenceFault b va need 2 l.level
    else if s.keyRevoking part then (.fault 0x14 (s.memSlot part), s)
    else
      let away := fun (m : Nat) => if s.unreachable b m then (FencePlace.fault 0x0F m, s) else (.away m, s)
      match l.place va with
      | .t2 phys => (.here phys, s)
      | .t3 m => away m
      | .spillT3 m _ => away m
      | .t4 port addr =>
        if !s.t4Reach b port addr then s.fenceFault b va need 2 l.level
        else if s.t4Out b port addr then (.t4 port addr, s) else (.wait linkMove, s)
      | .moving => (.wait (s.moveOf b va), s)
      | .spillT4 i => if s.t4Reach b (s.spillPort b) (s.spillAddr b i) then s.bringFence b va i l else s.fenceFault b va need 2 l.level
      | .unpopulated =>
        (match s.settle b va l with
          | (.here phys, s) => (.here phys, s)
          | (.atT3 m, s) => (.away m, s)
          | (.atT4 i, s) => (.spill i, s)
          | (.wait id, s) => (.wait id, s)
          | (_, s) => s.fenceFault b va need 5 4)

/-- The place of a fence as the pages of an operation keep it. -/
def FencePlace.place : FencePlace → PageAt
  | .here phys => .here phys
  | .away m => .t3 m
  | .t4 port addr => .t4 port addr
  | .spill i => .atT4 i
  | .wait id => .wait id
  | .fault _ _ => .noRoom

/-- A fence operation's page, kept with it from its translation on (09 R409, R413). -/
def State.keepFence (s : State) (core slot i va : Nat) (p : FencePlace) : State :=
  match s.opAt core slot i with
  | none => s
  | some o =>
    let page := va / 65536 * 65536
    let at' := match p with
      | .here phys => PageAt.here (phys - va % 65536)
      | .t4 port addr => .t4 port (addr - va % 65536)
      | p => p.place
    s.setOp core slot { o with pages := [page], places := Places.kept [(page, at')] }

/-- Where an operation found the page of its fence. -/
def OpRec.fencePlace (o : OpRec) (va : Nat) : Option FencePlace :=
  (o.places.find? (fun x => x.1 == va / 65536 * 65536)).bind (fun x => match x.2 with
    | .here phys => some (.here (phys + va % 65536))
    | .t3 m => some (.away m)
    | .t4 port addr => some (.t4 port (addr + va % 65536))
    | .atT4 i => some (.spill i)
    | _ => none)

/-- Finds the fence of an operation, under the translation it has made if it has made one. -/
def State.fenceOf (s : State) (o : OpRec) (b va need : Nat) : FencePlace × State :=
  match o.fencePlace va with
  | none => s.fenceFind b va need
  | some (.away m) => (if s.unreachable b m then .fault 0x0F m else .away m, s)
  | some p => if s.open4 b p.place then (p, s) else (.wait linkMove, s)

/-- The value and status word of a fence on this module; none where its line is poisoned. -/
def State.fenceGet (s : State) (b va : Nat) (p : FencePlace) : Option (Nat × Nat) :=
  match s.placeRead b va 16 p.place with
  | .ok bs => some (fieldAt bs 0 8, fieldAt bs 8 8)
  | .poison _ _ => none

/-- A fence's line that is not delivered is told (04 R178; 12 R561). -/
def State.fencePoison (s : State) (b va : Nat) (p : FencePlace) : State :=
  match s.placeRead b va 16 p.place with
  | .ok _ => s
  | .poison a tag => s.poisonMet b a va p.place tag

/-- Writes a fence on this module. -/
def State.fencePut (s : State) (b va : Nat) (p : FencePlace) (v st : Nat) : State :=
  let bs := leBytes 8 v ++ leBytes 8 st
  match p with
  | .here phys => s.writeHere b va phys bs
  | .t4 port addr => s.writeT4 b va port addr bs
  | .spill i => s.writeSpill b i va bs
  | _ => s

/-- The memory-side die that holds a fence: 9 where it is another module's, 8 where none does. -/
def FencePlace.die : FencePlace → Nat
  | .here phys => physChan phys / 32
  | .away _ => 9
  | _ => 8

/-! ## Updates (R376 to R379) -/

/-- The terminal value. -/
def fenceTerminal : Nat := 2 ^ 64 - 1

/-- The code of a status word. -/
def fenceCode (st : Nat) : Nat := st % 256

/-- What a signal makes of a fence: its value and status word (R377). -/
def fenceNext (v st nv ns : Nat) : Nat × Nat := (max v nv, if fenceCode st = 0 ∧ fenceCode ns ≠ 0 then ns else st)

/-- The state of a wait (R379). -/
inductive Waited where
  | pending
  | satisfied
  | error
  deriving DecidableEq, Repr

/-- What a fence's value and status mean to a wait for a target. -/
def fenceWaited (target v st : Nat) : Waited :=
  if fenceCode st ≠ 0 then .error else if target ≤ v then .satisfied else .pending

/-- The lowest bound context of a basket: the instance of a fence-terminal report (log entry 94). -/
def State.firstContext (s : State) (b : Nat) : Nat :=
  ((List.range 2048).find? (fun c => s.get Fld.WVR_CTX_STATE_state c != 0 && s.get Fld.WVR_CTX_STATE_basket_index c == b)).getD 0

/-- Wakes the watches of a fence that an update satisfies or ends in error. -/
def State.wakeWatches (s : State) (b va v st : Nat) : State :=
  let hit := fun (w : Watch) => w.basket == b && w.va == va && !w.polls && fenceWaited w.target v st != .pending
  let woken := s.watches.filter hit
  let s := { s with watches := s.watches.filter (fun w => !hit w) }
  (woken.foldl (fun s w => s.sendWake w.waiter (fenceWaited w.target v st == .satisfied)) s).showWatches

/-- Performs a signal at a fence of this module (R376 to R378, R384). A poisoned fence stays as it is. -/
def State.fenceSignal (s : State) (b va : Nat) (p : FencePlace) (nv ns : Nat) : State :=
  match s.fenceGet b va p with
  | none => s
  | some (v, st) =>
    let (v', st') := fenceNext v st nv ns
    let s := (s.fencePut b va p v' st').wakeWatches b va v' st'
    if v ≠ fenceTerminal ∧ v' = fenceTerminal ∧ fenceCode st' = 0 then s.report 0x31 (s.firstContext b) va else s

/-- The ATOMIC packet of a signal to a fence of another module (10 R459). -/
def State.sendAtomic (s : State) (b m label va ledger nv ns : Nat) : State :=
  s.emit (.packet (s.packetOf b m 4 label va ledger (nv + 2 ^ 64 * ns) []))

/-- What a signal ends in: performed, sent to another module, to be tried again, or a fault. -/
inductive Signalled where
  | done
  | sent (module : Nat)
  | wait (move : Nat)
  | fault (code info : Nat)
  deriving DecidableEq, Repr

/-- Signals a fence that has been found, here or where it lies. -/
def State.signalAt (s : State) (b va label ledger nv ns : Nat) : FencePlace → Signalled × State
  | .fault c i => (.fault c i, s)
  | .wait id => (.wait id, s)
  | .away m => (.sent m, s.sendAtomic b m label va ledger nv ns)
  | p => if (s.fenceGet b va p).isNone then (.fault 0x0A va, s.fencePoison b va p) else (.done, s.fenceSignal b va p nv ns)

/-- Finds a fence and signals it. -/
def State.signal (s : State) (b va need label ledger nv ns : Nat) : Signalled × State :=
  let (p, s) := s.fenceFind b va need
  s.signalAt b va label ledger nv ns p

/-! ## Waits (R379, R384, R385) -/

/-- What a wait finds. -/
inductive FenceRead where
  | is (w : Waited)
  /-- The fence's line has been asked of another module. -/
  | asked
  | wait (move : Nat)
  | fault (code info : Nat)
  deriving DecidableEq, Repr

/-- Reads a fence that has been found for a wait; a wait that stays pending is registered. -/
def State.awaitAt (s : State) (b va target : Nat) (w : Waiter) : FencePlace → FenceRead × State
  | .fault c i => (.fault c i, s.unwatch w)
  | .wait id => (.wait id, s)
  | .away m => (.asked, (s.watch b va target 9 w).askFence b m va target w)
  | p =>
    match s.fenceGet b va p with
    | none => (.fault 0x0A va, (s.fencePoison b va p).unwatch w)
    | some (v, st) =>
      match fenceWaited target v st with
      | .pending => (.is .pending, s.watch b va target p.die w)
      | x => (.is x, s.unwatch w)

/-- Finds a fence and reads it for a wait. -/
def State.awaitFence (s : State) (b va target : Nat) (w : Waiter) : FenceRead × State :=
  let (p, s) := s.fenceFind b va 1
  s.awaitAt b va target w p

/-! ## The operations (05 R247 to R249) -/

/-- FENCE_SIGNAL. One that must wait for its page keeps its place in the order of arrival (08 R376). -/
def State.doFenceSignal (s : State) (e : OpEnv) (o : OpRec) : Did × State :=
  let va := opField o.desc 8 7
  let (p, s) := s.fenceOf o e.basket va 4
  match (s.keepFence e.core e.slot o.index va p).signalAt e.basket va e.label (s.ledgerWord e o.entry) (opField o.desc 16 8) 0 p with
  | (.done, s) => (.done [] [], s)
  | (.sent m, s) => (.done [.signalled m va] [], s)
  | (.wait id, s) => (.wait [.move id], { s with updates := s.updates ++ [.op e.core e.slot o.index] })
  | (.fault c i, s) => (.fault c i, s)

/-- The waiter an operation's entry is. -/
def OpEnv.waiter (e : OpEnv) (entry : Nat) : Waiter :=
  .entry (Fin.ofNat 256 e.core) (Fin.ofNat 8 e.slot) (Fin.ofNat 64 entry)

/-- FENCE_WAIT. -/
def State.doFenceWait (s : State) (e : OpEnv) (o : OpRec) : Did × State :=
  let va := opField o.desc 8 7
  let (p, s) := s.fenceOf o e.basket va 1
  match (s.keepFence e.core e.slot o.index va p).awaitAt e.basket va (opField o.desc 16 8) (e.waiter (o.entry.getD 0)) p with
  | (.is .satisfied, s) => (.done [] [], s)
  | (.is .error, s) => (.fault 0x10 va, s)
  | (.is .pending, s) => (.wait [.fence va], s)
  | (.asked, s) => (.wait [.fence va], s)
  | (.wait id, s) => (.wait [.move id], s)
  | (.fault c i, s) => (.fault c i, s)

end Sys2Proof.Machine
end

