-- ==== Sys2Proof/Machine/Edits.lean ====
section
/-! DEFINITION. The edits of page tables, frames and the object table, and the release of objects (09 R394, R408, R409, R426 to
R429, R438, R738; 15 R685). -/

namespace Sys2Proof.Machine

/-! ## The edit registers -/

/-- The basket, address and page count an edit names. -/
def State.editBasket (s : State) (p : Nat) : Nat := s.get Fld.XL_EDIT_CMD_basket_index p

def State.editAddr (s : State) (p : Nat) : Nat :=
  2 ^ 16 * s.get Fld.XL_EDIT_ADDR_LO_addr_lo p + 2 ^ 32 * s.get Fld.XL_EDIT_ADDR_HI_addr_hi p

def State.editCount (s : State) (p : Nat) : Nat := s.get Fld.XL_EDIT_COUNT_count p

/-- An edit is refused: nothing changes but its error. -/
def State.editError (s : State) (p code : Nat) : State :=
  s.setAll p [(Fld.XL_EDIT_CMD_busy, 0), (Fld.XL_EDIT_CMD_error, 1), (Fld.XL_EDIT_CMD_err_code, code)]

def State.editDone (s : State) (p : Nat) : State :=
  s.setAll p [(Fld.XL_EDIT_CMD_busy, 0), (Fld.XL_EDIT_CMD_done, 1)]

/-- Writes the fields of XL_EDIT_CMD that are stored, and clears the bits written with 1 (00 R2). -/
def State.editStore (s : State) (p v : Nat) : State :=
  let s := s.setAll p [(Fld.XL_EDIT_CMD_op, bitsOf v 0 4), (Fld.XL_EDIT_CMD_basket_index, bitsOf v 4 6), (Fld.XL_EDIT_CMD_rights, bitsOf v 10 3)]
  let s := if bitOf v 18 then s.set Fld.XL_EDIT_CMD_done p 0 else s
  if bitOf v 19 then s.set Fld.XL_EDIT_CMD_error p 0 else s

/-! ## The steps of 09 Table 5 -/

/-- A page lies in an edit's range. -/
def Edit.covers (x : Edit) (va : Nat) : Bool := decide (x.va ≤ va) && decide (va < x.va + x.pages * 65536)

/-- The pages of an edit's range. -/
def Edit.pageList (x : Edit) : List Nat := (List.range x.pages).map (fun i => x.va + i * 65536)

/-- Removes one page's leaf: the frame, guest frame or T4 page it held is kept with the edit until step 5. -/
def State.unmapPage (s : State) (x : Edit) (va : Nat) : Edit × State :=
  let b := x.basket
  match s.leafAt b va with
  | none => (x, s)
  | some l =>
    let s := (s.setTableEntry b l.eaddr 0).poisonForgotten b (va / 65536 * 65536) 1024
    if l.home ≠ 0 ∨ l.shift ≠ 16 then (x, s)
    else match l.place va with
      | .t2 phys => ({ x with frames := phys / 65536 :: x.frames }, s.addPages Fld.PG_RESIDENT_pages b false)
      | .spillT3 m g => ({ x with guests := (m, g) :: x.guests }, s.addPages Fld.PG_SPILL_T3_pages b false)
      | .spillT4 i => ({ x with t4 := i :: x.t4 }, s.addPages Fld.PG_SPILL_T4_pages b false)
      | _ => (x, s)

/-- Rewrites the rights of one page's leaf. -/
def State.rightsPage (s : State) (b rights va : Nat) : State :=
  match s.leafAt b va with
  | none => s
  | some l => s.setTableEntry b l.eaddr (putBits l.entry 2 3 rights)

/-- Steps 2 and 3: the new entries, and the drop of what TLBs and walk caches hold. An edit over a sealed line breaks its
seal (15 R685). -/
def State.editApply (s : State) (x : Edit) : Edit × State :=
  let unmap := x.op == 1 || x.op == 16
  let (x, s) := if unmap then x.pageList.foldl (fun (a : Edit × State) va => a.2.unmapPage a.1 va) (x, s)
    else if x.op = 2 then (x, x.pageList.foldl (fun s va => s.rightsPage x.basket x.rights va) s)
    else (x, s)
  let s := s.dropTlb x.basket x.va x.pages
  ({ x with moving := false }, if x.op = 2 then s else s.breakSeals x.basket x.va (x.pages * 65536))

/-- Step 5: what the range held returns to its pools. -/
def State.editReturn (s : State) (x : Edit) : State :=
  let b := x.basket
  let s := x.frames.foldl (fun s f => s.freeFrame b f) s
  let s := x.t4.foldl (fun s i => s.useT4 b i false) s
  let s := x.guests.foldl (fun s g => s.emit (.guestFree (BitVec.ofNat 14 g.1) (BitVec.ofNat 64 (s.basketUid b)) g.2)) s
  if s.get Fld.PG_KV_POOL_PAGES_pages b = 0 then s else s.countKv b

/-- Step 6, or the end of an object's release: the object is free, and the event is raised (R429). -/
def State.editFinish (s : State) (x : Edit) : State :=
  if x.op = 16 then
    let b := x.basket
    let s := s.setObj b x.rights { s.objAt b x.rights with state := 0 }
    let s := s.set Fld.PG_TIER_STATUS_released b 1
    if s.flag Fld.PG_TIER_STATUS_release_event_en b then s.report 0x36 b 0 else s
  else s.editDone x.part

/-- An edit of a range waits before its step 2: for moves of its pages, and for the accesses that those moves have kept from their pages,
since they began under the old entry (R409, R412). -/
def State.editHeld (s : State) (x : Edit) : Bool :=
  s.moves.any (fun m => m.basket == x.basket && x.covers m.va) ||
  s.deferred.any (fun d => d.basket == x.basket && d.away.isNone && x.covers (d.va / 65536 * 65536)) ||
  s.shards.any (fun e => s.slotBasket e.1 == x.basket &&
    e.2.ops.any (fun o => o.waits.any (fun w => match w with
      | .move _ => true
      | _ => false) && o.pages.any (fun p => x.covers p && !o.places.any (fun y => y.1 == p))))

/-- An access that may have used an old entry of an edit's range has not completed: an operation that holds a page, or a write of the
device's own (R409 step 4, R413). -/
def State.editAwaits (s : State) (x : Edit) : Bool :=
  s.shards.any (fun e => s.slotBasket e.1 == x.basket && e.2.ops.any (fun o => o.pages.any x.covers)) ||
  s.unwritten x.basket x.va (x.pages * 65536)

/-! ## The object table (R427, R738) -/

/-- The object table, in effect: or what it waits for, or why it cannot take effect (R738). -/
def State.tableReady (s : State) (b : Nat) (got : List (Nat × List Byte)) (asked : List Nat) : DevRead × List Nat × State :=
  if (s.objTable b).inEffect then (.ok [], asked, s) else s.tableEffect b got asked

/-- A range overlaps a live or draining object. -/
def State.objOverlap (s : State) (b va pages : Nat) : Bool :=
  (s.objTable b).entries.any (fun e => (e.2.state == 1 || e.2.state == 2) && decide (e.2.base < va + pages * 65536) &&
    decide (va < e.2.base + e.2.pages * 65536))

/-- OBJ_CREATE over a table in effect (R427). -/
def State.objCreate (s : State) (x : Edit) : State :=
  let p := x.part
  let o := s.objAt x.basket x.rights
  if s.get Fld.PG_OBJ_ENTRIES_entries x.basket ≤ x.rights ∨ o.state ≠ 0 then s.editError p 3
  else if s.objOverlap x.basket x.va x.pages then s.editError p 2
  else
    let g := (o.generation + 1) % 2 ^ 32
    ((s.setObj x.basket x.rights { generation := g, state := 1, base := x.va, pages := x.pages, pins := 0 }).set
      Fld.XL_EDIT_GEN_generation p g).editDone p

/-- Takes an edit of a range as far as it goes now. -/
def State.rangeRun (s : State) (x : Edit) : State :=
  if x.moving && s.editHeld x then { s with edits := s.edits ++ [x] }
  else
    let (x, s) := if x.moving then s.editApply x else (x, s)
    if s.editAwaits x then { s with edits := s.edits ++ [x] } else (s.editReturn x).editFinish x

/-- An edit as it begins. -/
def Edit.begin (part op b va pages rights gen : Nat) : Edit :=
  { part := part, op := op, basket := b, va := va, pages := pages, rights := rights, moving := true, frames := [], t4 := [], guests := [],
    gen := gen, got := [], asked := [] }

/-- A range edit begins. -/
def State.editBegin (s : State) (part op b va pages rights : Nat) : State := s.rangeRun (Edit.begin part op b va pages rights 0)

/-- A draining object whose pins are zero is released (R429). -/
def State.releaseObject (s : State) (b h : Nat) : State :=
  let o := s.objAt b h
  if o.state = 2 ∧ o.pins = 0 ∧ s.edits.all (fun x => !(x.op == 16 && x.basket == b && x.rights == h)) then
    s.editBegin (s.get Fld.CAP_BASKET_partition b) 16 b o.base o.pages h
  else s

/-- OBJ_FREE over a table in effect (R427, R429). -/
def State.objFree (s : State) (x : Edit) : State :=
  let o := s.objAt x.basket x.rights
  if s.get Fld.PG_OBJ_ENTRIES_entries x.basket ≤ x.rights ∨ o.state ≠ 1 ∨ o.generation ≠ x.gen then s.editError x.part 3
  else
    ((s.setObj x.basket x.rights { o with generation := (o.generation + 1) % 2 ^ 32, state := 2 }).editDone x.part).releaseObject x.basket x.rights

/-- Takes an edit of the object table as far as it goes now: it waits for a table whose bytes must come from elsewhere (R738). -/
def State.objRun (s : State) (x : Edit) : State :=
  match s.tableReady x.basket x.got x.asked with
  | (.ok _, _, s) => if x.op = 3 then s.objCreate x else s.objFree x
  | (.away, asked, s) => { s with edits := s.edits ++ [{ x with asked := asked }] }
  | (_, _, s) => s.editError x.part 6

/-- Takes an edit as far as it goes now. -/
def State.editRun (s : State) (x : Edit) : State := if x.op = 3 ∨ x.op = 4 then s.objRun x else s.rangeRun x

/-! ## The edits -/

/-- The write of XL_EDIT_CMD by a partition with an op. `f` performs the edit of an owned, bound basket. While an edit is in progress go
alone is ignored; a reserved bit written with go refuses the edit (00 R2; R438). -/
def State.editCmd (s : State) (op : Nat) (p : Fin 32) (v : Nat) (f : State → State) : State :=
  if s.agentAsleep (.host p) ∨ v % 16 ≠ op then s
  else
    let busy := s.flag Fld.XL_EDIT_CMD_busy p
    let s := s.editStore p v
    if busy ∨ !bitOf v 16 then s
    else if bitsOf v 13 3 ≠ 0 ∨ bitsOf v 24 8 ≠ 0 then s.editError p 4
    else if s.basketOwner (s.editBasket p) ≠ some p.val then s.editError p 1
    else if s.editCount p = 0 && op != 4 then s.editError p 4
    else f s

/-- INVALIDATE, UNMAP and SET_RIGHTS. -/
def State.editRange (s : State) (op p : Nat) : State :=
  (s.set Fld.XL_EDIT_CMD_busy p 1).editBegin p op (s.editBasket p) (s.editAddr p) (s.editCount p) (s.get Fld.XL_EDIT_CMD_rights p)

/-- EDIT_INVALIDATE (09 R409). -/
def execEditInvalidate (p : Fin 32) (v : Word32) (s : State) : Out :=
  .next (s.editCmd 0 p v.toNat (fun s => s.editRange 0 p))

/-- EDIT_UNMAP (09 R409). -/
def execEditUnmap (p : Fin 32) (v : Word32) (s : State) : Out :=
  .next (s.editCmd 1 p v.toNat (fun s => s.editRange 1 p))

/-- EDIT_SET_RIGHTS (09 R409). -/
def execEditSetRights (p : Fin 32) (v : Word32) (s : State) : Out :=
  .next (s.editCmd 2 p v.toNat (fun s => s.editRange 2 p))

/-- OBJ_CREATE and OBJ_FREE: the edit's registers as they stand. -/
def State.editObject (s : State) (op p : Nat) : State :=
  (s.set Fld.XL_EDIT_CMD_busy p 1).objRun (Edit.begin p op (s.editBasket p) (s.editAddr p) (s.editCount p) (s.get Fld.XL_EDIT_OBJ_handle p)
    (s.get Fld.XL_EDIT_GEN_generation p))

/-- EDIT_OBJ_CREATE (09 R427, R738). -/
def execEditObjCreate (p : Fin 32) (v : Word32) (s : State) : Out :=
  .next (s.editCmd 3 p v.toNat (fun s => s.editObject 3 p))

/-- EDIT_OBJ_FREE (09 R427, R429, R738). -/
def execEditObjFree (p : Fin 32) (v : Word32) (s : State) : Out :=
  .next (s.editCmd 4 p v.toNat (fun s => s.editObject 4 p))

/-- The frames a frame edit names. -/
def State.editFrames (s : State) (p : Nat) : List Nat := (List.range (s.editCount p)).map (fun i => s.editAddr p / 65536 + i)

/-- Every frame named exists and lies in a channel of the piece. -/
def State.framesInPiece (s : State) (b : Nat) (fs : List Nat) : Bool :=
  fs.all (fun f => physOk (f * 65536) && bitOf (s.pieceAt b).chans (f / 2 ^ 24))

/-- Of some frames, those that count as free ones of their piece. -/
def State.counted (s : State) (fs : List Nat) : Nat := (fs.filter (fun f => !s.draining (f / 2 ^ 24))).length

/-- EDIT_FRAME_RESERVE (09 R394): free frames of the pager become the driver's. -/
def execEditFrameReserve (p : Fin 32) (v : Word32) (s : State) : Out :=
  .next (s.editCmd 5 p v.toNat (fun s =>
    let b := s.editBasket p
    let fs := s.editFrames p
    if !s.framesInPiece b fs then s.editError p 1
    else if !fs.all (fun f => s.frameUse f == .free) ∨ s.get Fld.PG_FREE_FRAMES_frames b < s.counted fs then s.editError p 5
    else
      let s := fs.foldl (fun s f => s.setFrame f .reserved) s
      (s.set Fld.PG_FREE_FRAMES_frames b (s.get Fld.PG_FREE_FRAMES_frames b - s.counted fs)).set Fld.XL_EDIT_CMD_done p 1))

/-- EDIT_FRAME_RELEASE (09 R394): reserved frames return to the pager. -/
def execEditFrameRelease (p : Fin 32) (v : Word32) (s : State) : Out :=
  .next (s.editCmd 6 p v.toNat (fun s =>
    let b := s.editBasket p
    let fs := s.editFrames p
    if !s.framesInPiece b fs then s.editError p 1
    else if !fs.all (fun f => s.frameUse f == .reserved) then s.editError p 5
    else
      let s := fs.foldl (fun s f => s.setFrame f .free) s
      (s.bump Fld.PG_FREE_FRAMES_frames b (s.counted fs)).set Fld.XL_EDIT_CMD_done p 1))

/-- Edits of a partition go on as far as they can. -/
def State.editsGoOn (s : State) (p : Nat) : State :=
  let mine := s.edits.filter (fun x => x.part == p)
  mine.foldl (fun s x => s.editRun x) { s with edits := s.edits.filter (fun x => x.part != p) }

/-- EDIT_DRAIN_DONE (09 R409 steps 1 and 4): moves and accesses an edit waited for may have ended. -/
def execEditDrainDone (p : Fin 32) (s : State) : Out := .next (s.editsGoOn p)

end Sys2Proof.Machine
end

