-- ==== Sys2Proof/Machine/Schedule.lean ====
section
/-! DEFINITION. What decides which operation issues next: the remote ledger, the scoreboard, slot states, and the choice of a slot (05
R202 to R206, R249; 06 R270; 08 R353 to R360, R365 to R371). -/

namespace Sys2Proof.Machine

/-! ## The remote ledger and the scoreboard -/

/-- The slot's number among all slots. -/
def slotKey (core slot : Nat) : Nat := core * 8 + slot

/-- An entry of a slot's ledger. -/
def State.ledgerAt (s : State) (core slot e : Nat) : LedgerEntry := Sparse.get LedgerEntry.free s.ledger (slotKey core slot * 64 + e)

def State.setLedger (s : State) (core slot e : Nat) (l : LedgerEntry) : State :=
  { s with ledger := Sparse.set LedgerEntry.free s.ledger (slotKey core slot * 64 + e) l }

/-- The entries in use of a slot's ledger. -/
def State.ledgerUsed (s : State) (core slot : Nat) : Nat :=
  (s.ledger.filter (fun e => e.1 / 64 == slotKey core slot && e.2.used)).length

/-- The lowest free entry. -/
def State.ledgerFree (s : State) (core slot : Nat) : Option Nat := (List.range 64).find? (fun e => !(s.ledgerAt core slot e).used)

/-- Frees an entry; its generation advances (R368). -/
def State.freeEntry (s : State) (core slot e : Nat) : State :=
  s.setLedger core slot e { used := false, gen := ((s.ledgerAt core slot e).gen + 1) % 256, deadline := none }

/-- The pending count of a tag. -/
def State.tagAt (s : State) (core slot t : Nat) : Nat := Sparse.get 0 s.tags (slotKey core slot * 64 + t)

def State.setTag (s : State) (core slot t n : Nat) : State := { s with tags := Sparse.set 0 s.tags (slotKey core slot * 64 + t) n }

/-- Clears a slot's scoreboard bank. -/
def State.clearTags (s : State) (core slot : Nat) : State :=
  { s with tags := s.tags.filter (fun e => e.1 / 64 != slotKey core slot) }

/-- The remote timeout in µs (R388). -/
def State.remoteTimeout (s : State) : Nat := max 100 (s.get Fld.WVR_REMOTE_TIMEOUT_us 0)

/-- Shows the ledger entries in use and the slots in WAIT_REMOTE of a context (R390). -/
def State.showWait (s : State) (c : Nat) : State :=
  let sl := s.slotsOf c
  let used := (sl.map (fun x => s.ledgerUsed x.1 x.2)).foldl (· + ·) 0
  let remote := (sl.filter (fun x => (s.slotAt x.1 x.2).state == .waitRemote)).length
  s.setAll c [(Fld.WVR_CTX_WAIT_ledger_used, used), (Fld.WVR_CTX_WAIT_remote_slots, remote)]

/-! ## What can issue (05 R204, R205) -/

/-- The indices of the sequences of the groups, and their branch groups, that a step record names (06 R270). -/
def State.stepNamed (s : State) (b : Nat) (rec : List Byte) : List Nat :=
  (stepEntries rec).flatMap (fun e =>
    if e.kind = 1 then []
    else match s.kvNamed b e.handle with
      | none => []
      | some q =>
        let i := e.handle % 2 ^ 24
        (List.range q.members).map (· + i) ++ (List.range (q.branches * q.members)).map (· + q.base))

/-- A batch step of a basket holds operations on a sequence. -/
def State.stepHolds (s : State) (b : Nat) (seqs : List Nat) : Bool :=
  s.contexts.any (fun x =>
    match x.2.step with
    | none => false
    | some r => s.get Fld.WVR_CTX_STATE_basket_index x.1 == b && r.named.any (fun i => seqs.contains i))

/-- An operation's entry of the operation list. -/
def opAddress (desc : List Byte) (shard i : Nat) : Nat := fieldAt desc 0x10 7 + shard * fieldAt desc 0x1C 4 + 32 * i

/-- A wait field of a header holds the operation back. -/
def State.waitsTag (s : State) (core slot : Nat) (d : List Byte) (o : Nat) : Bool :=
  opFlag d o 6 && s.tagAt core slot (opBits d o 0 6) != 0

/-- The descriptor at the head of a shard's list can issue now. -/
def State.issuable (s : State) (e : OpEnv) (r : ShardRun) (d : List Byte) : Bool :=
  !s.waitsTag e.core e.slot d 2 && !s.waitsTag e.core e.slot d 3 && !(opFlag d 1 7 && !r.ops.isEmpty) &&
  !(opFlag d 1 6 && decide (255 ≤ s.tagAt e.core e.slot (opBits d 1 0 6))) && !(opCode d == 0x19 && !r.ops.isEmpty) &&
  !r.ops.any (fun o => opCode o.desc == 0x18) && !(takesEntry e d && (s.ledgerFree e.core e.slot).isNone) &&
  !s.stepHolds e.basket ((opSequences e d).map (· % 2 ^ 24))

/-- A shard issues no more: all its operations have issued, or it or its context has been stopped. -/
def State.allIssued (s : State) (core slot : Nat) : Bool :=
  let r := s.shardAt core slot
  let c := (s.slotAt core slot).ctx
  match (s.ctxAt c).kernel with
  | none => true
  | some k => r.halted || s.get Fld.WVR_CTX_STATE_state c == 4 || decide (fieldAt k.desc 0x18 4 ≤ r.next)

/-- The next operation of a slot can issue, as far as the sequencer has seen it. -/
def State.canIssue (s : State) (core slot : Nat) : Bool :=
  let r := s.shardAt core slot
  if !r.active || s.allIssued core slot || s.fc.fenced.contains core then false
  else match r.head, s.opEnv core slot with
    | some d, some e => (opRefusal e d).isSome || s.reduceOverlap e d || s.issuable e r d
    | _, _ => true

/-! ## Slot states and the choice of a slot (R353 to R360) -/

/-- Pass `a` is less than pass `b` (R358). -/
def passLess (a b : Nat) : Bool := decide (2 ^ 63 ≤ (a + 2 ^ 64 - b) % 2 ^ 64)

/-- The quantum as a power of two (R388). -/
def State.quantumLog2 (s : State) : Nat := max 12 (min 24 (s.get Fld.WVR_QUANTUM_quantum_log2 0))

/-- The slots of a core that are RUNNING or RUNNABLE, in ascending order. -/
def State.contenders (s : State) (core : Nat) : List (Nat × Slot) :=
  (s.coreSlots core).filter (fun x => x.2.state == .running || x.2.state == .runnable)

/-- The contender with the least pass, and the lowest number among equals. -/
def leastPass (l : List (Nat × Slot)) : Option Nat :=
  (l.foldl (fun (a : Option (Nat × Slot)) x =>
    match a with
    | none => some x
    | some y => if passLess x.2.pass y.2.pass then some x else some y) none).map Prod.fst

/-- The state a slot takes, apart from being chosen: EMPTY, RUNNABLE, RUNNING or one of the waits (R353, R354). -/
def State.slotState (s : State) (core slot : Nat) : SlotState :=
  let cur := (s.slotAt core slot).state
  let can := s.canIssue core slot
  let idle := s.ledgerUsed core slot == 0
  if !(s.shardAt core slot).active then .empty
  else if can && cur == .running then .running
  else if can && (idle || cur == .runnable || cur == .empty) then .runnable
  else if idle then .waitLocal
  else .waitRemote

/-- A slot that becomes RUNNABLE: its pass is brought forward (R357). -/
def State.wakePass (s : State) (core slot : Nat) : Nat :=
  let own := (s.slotAt core slot).pass
  match leastPass ((s.contenders core).filter (fun x => x.1 != slot)) with
  | none => own
  | some k =>
    let r := ((s.slotAt core k).pass + 2 ^ 64 * 2 ^ 64 - 2 ^ s.quantumLog2 * (s.slotAt core slot).stride) % 2 ^ 64
    if passLess own r then r else own

/-- The running slot of a core. -/
def State.runningSlot (s : State) (core : Nat) : Option Nat :=
  ((s.coreSlots core).find? (fun x => x.2.state == .running)).map Prod.fst

/-- A slot has run for `n` core cycles more: its pass and its context's issue_cycles rise (R356, R362). -/
def State.charge (s : State) (core slot n : Nat) : State :=
  let x := s.slotAt core slot
  (s.setSlot core slot { x with pass := (x.pass + x.stride * n) % 2 ^ 64, ran := x.ran + n }).bump64
    Fld.WVR_CTX_ISSUE_LO_lo Fld.WVR_CTX_ISSUE_HI_hi x.ctx n

/-- The core cycles a slot still has of its quantum (R359). -/
def State.quantumLeft (s : State) (core slot : Nat) : Nat := 2 ^ s.quantumLog2 - (s.slotAt core slot).ran

/-- The running slot is charged the cycles since it was last charged: a free number of them, within its quantum (log entry 25). -/
def State.accrue (s : State) (core : Nat) : State :=
  match s.runningSlot core with
  | none => s
  | some k => (s.charge core k (s.freeValue % (s.quantumLeft core k + 1))).drawn

/-- At a decision point the shares in force become those of the contexts (R361). -/
def State.takeShares (s : State) (core : Nat) : State :=
  (s.coreSlots core).foldl (fun s x => s.setSlot core x.1 { s.slotAt core x.1 with stride := s.strideOf x.2.ctx }) s

/-- Makes a slot of a core the one whose operations issue; its quantum starts. -/
def State.runSlot (s : State) (core slot : Nat) : State :=
  let s := (s.coreSlots core).foldl (fun s x =>
    if x.2.state = .running ∧ x.1 ≠ slot then s.setSlot core x.1 { x.2 with state := .runnable } else s) s
  s.setSlot core slot { s.slotAt core slot with state := .running, ran := 0 }

/-- Shows the running slot of a core (04 R179). -/
def State.showRunning (s : State) (core : Nat) : State :=
  match s.siteOf core with
  | none => s
  | some site =>
    match s.runningSlot core with
    | none => s.set Fld.WVR_CORE_STATE_running_valid site 0
    | some k => s.setAll site [(Fld.WVR_CORE_STATE_running_slot, k), (Fld.WVR_CORE_STATE_running_valid, 1)]

/-- The slot a core's sequencer chooses at a decision point (R360, R361). -/
def State.choose (s : State) (core : Nat) : State :=
  let s := s.takeShares core
  match leastPass (s.contenders core) with
  | none => s.showRunning core
  | some k => (s.runSlot core k).showRunning core

/-- One slot's state follows; whether it has become RUNNABLE with a pass below the running slot's. In a gated half it asks for a
wake token (13 R609). The running slot is charged what it has run before passes are compared, and when it leaves RUNNING. -/
def State.settleSlot (s : State) (core slot : Nat) : Bool × State :=
  let x := s.slotAt core slot
  let st := s.slotState core slot
  if !x.bound then (false, s)
  else if st = .runnable ∧ x.state ≠ .runnable then
    let s := s.accrue core
    let p := s.wakePass core slot
    let s := s.setSlot core slot { x with state := st, pass := p }
    let s := if s.gated (coreHalf core) then s.requestWake core else s
    ((s.coreSlots core).any (fun y => y.2.state == .running && passLess p y.2.pass), s)
  else
    let s := if x.state = .running ∧ st ≠ .running then s.accrue core else s
    (false, s.setSlot core slot { s.slotAt core slot with state := st })

/-- The states of a core's slots follow what has changed, and its sequencer chooses where R359 has it choose. -/
def State.reschedule (s : State) (core : Nat) : State :=
  let (better, s) := (List.range 8).foldl (fun (a : Bool × State) k =>
    let (x, s) := a.2.settleSlot core k
    (a.1 || x, s)) (false, s)
  let s := if better || !(s.coreSlots core).any (fun x => x.2.state == .running) then s.choose core else s.showRunning core
  ((s.coreSlots core).map (fun x => x.2.ctx)).eraseDups.foldl State.showWait s

/-- The cores of a context follow. -/
def State.rescheduleCtx (s : State) (c : Nat) : State := (s.slotsOf c).foldl (fun s x => s.reschedule x.1) s

/-- The shards of a context that run. -/
def State.liveShards (s : State) (c : Nat) : List (Nat × Nat) := (s.slotsOf c).filter (fun x => (s.shardAt x.1 x.2).active)

/-- Every shard of a kernel issues no more (R250, R373 step 2). -/
def State.haltShards (s : State) (c : Nat) : State :=
  (s.liveShards c).foldl (fun s x => (s.setShard x.1 x.2 { s.shardAt x.1 x.2 with halted := true }).reschedule x.1) s

/-- QUANTUM_EXPIRE (R359, R360): the running slot has run for a quantum, and the sequencer chooses. -/
def execQuantumExpire (core : Fin 256) (s : State) : Out :=
  match s.runningSlot core with
  | none => .next s
  | some k => .next ((s.charge core k (s.quantumLeft core k)).choose core)

end Sys2Proof.Machine
end

