-- ==== Sys2Proof/Machine/Command.lean ====
section
/-! DEFINITION. Queues, commands and completion items (08 R335 to R352, R389; 11 R512 to R515, R530, R569). -/

namespace Sys2Proof.Machine

/-! ## Queues (R336 to R339, R347) -/

/-- The entries of a queue. -/
def State.queueAt (s : State) (q : Nat) : QueueData := Sparse.get QueueData.empty s.queues q

/-- Replaces the entries of a queue, and shows how many its buffers hold. -/
def State.setQueue (s : State) (q : Nat) (d : QueueData) : State :=
  ({ s with queues := Sparse.set QueueData.empty s.queues q d }).setAll q
    [(Fld.WVR_Q_STATUS_head_buf, d.head.length), (Fld.WVR_Q_STATUS_tail_buf, d.tail.length),
     (Fld.WVR_Q_STATUS_spilled, bit (d.ring != 0))]

/-- The most entries a queue holds. -/
def State.queueDepth (s : State) (q : Nat) : Nat := 2 ^ s.get Fld.WVR_Q_CFG_depth_log2 q

/-- The entries held (R338). -/
def State.queueHeld (s : State) (q : Nat) : Nat :=
  (s.get Fld.WVR_Q_PROD_count q + 2 ^ 32 - s.get Fld.WVR_Q_CONS_count q) % 2 ^ 32

/-- The piece a queue belongs to. -/
def State.queueBasket (s : State) (q : Nat) : Nat := s.get Fld.WVR_Q_CFG_basket_index q

/-- The ring of a queue, as its QUEUE record gives it. -/
def State.queueRing (s : State) (q : Nat) : Nat :=
  (((s.pieceAt (s.queueBasket q)).sec.queues.find? (fun r => r.queue == q)).map QueueRec.ring).getD 0

/-- The ring slot of the entry with a number (R336). -/
def State.ringSlot (s : State) (q n : Nat) : Nat := s.queueRing q + 64 * (n % s.queueDepth q)

/-- Entries move from the tail buffer to the head buffer while none lies in the ring; a tail buffer of more than 8 spills its
oldest (R337). -/
def State.queueSettle (s : State) (q : Nat) : State :=
  let d := s.queueAt q
  let n := if d.ring = 0 then min (8 - d.head.length) d.tail.length else 0
  let d := { d with head := d.head ++ d.tail.take n, tail := d.tail.drop n }
  match d.tail with
  | x :: rest =>
    if d.tail.length ≤ 8 then s.setQueue q d
    else
      let at' := s.ringSlot q (s.get Fld.WVR_Q_CONS_count q + d.head.length + d.ring)
      (s.devWrite (s.queueBasket q) at' x).setQueue q { d with ring := d.ring + 1, tail := rest }
  | [] => s.setQueue q d

/-- The interrupt of a notify line that has been performed. -/
def State.noteSent (s : State) (q : Nat) : State :=
  if s.flag Fld.HI_QVEC_irq_en q then
    s.sendMsix (s.get Fld.CAP_BASKET_partition (s.queueBasket q)) (s.get Fld.HI_QVEC_vector q)
  else s

/-- The notify line is written; its interrupt follows once the write has been performed (R347; 11 R515). -/
def State.notify (s : State) (q : Nat) : State :=
  if !s.flag Fld.WVR_Q_CTRL_note_en q then s
  else
    let va := 2 ^ 6 * s.get Fld.WVR_Q_NOTE_LO_addr_lo q + 2 ^ 32 * s.get Fld.WVR_Q_NOTE_HI_addr_hi q
    let line := leBytes 4 (s.get Fld.WVR_Q_PROD_count q) ++ leBytes 4 (s.get Fld.WVR_Q_CONS_count q) ++ leBytes 2 q ++
      List.replicate 54 0
    match s.devWrites (s.queueBasket q) va line with
    | (.done, s) => s.noteSent q
    | (.later, s) => s.setQueue q { s.queueAt q with notes := (s.queueAt q).notes ++ [(s.queueBasket q, va)] }
    | (.dropped, s) => s

/-- The interrupts of notify lines that have been performed by now are sent (11 R515). -/
def State.notesGoOn (s : State) : State :=
  s.queues.foldl (fun s (e : Nat × QueueData) =>
    let due := (s.queueAt e.1).notes.filter (fun n => !s.unwritten n.1 n.2 64)
    due.foldl (fun s n => (s.setQueue e.1 { s.queueAt e.1 with notes := (s.queueAt e.1).notes.erase n }).noteSent e.1) s) s

/-- The count the weaver advances has come to a multiple of the notify interval. -/
def State.noteDue (s : State) (q count : Nat) : Bool := count % 2 ^ min 20 (s.get Fld.WVR_Q_CTRL_note_every_log2 q) == 0

/-- An entry enters a queue. -/
def State.pushEntry (s : State) (q : Nat) (x : List Byte) : State :=
  let empty := s.queueHeld q == 0
  let s := s.bump Fld.WVR_Q_PROD_count q
  let s := s.setQueue q { s.queueAt q with tail := (s.queueAt q).tail ++ [x] } |>.queueSettle q
  let weaver := s.flag Fld.WVR_Q_CFG_kind q
  if empty || (weaver && s.noteDue q (s.get Fld.WVR_Q_PROD_count q)) then s.notify q else s

/-- The oldest entry leaves a queue, if its head buffer holds it. -/
def State.popEntry (s : State) (q : Nat) : Option (List Byte × State) :=
  match (s.queueAt q).head with
  | [] => none
  | x :: rest =>
    let s := s.setQueue q { s.queueAt q with head := rest }
    let s := (s.bump Fld.WVR_Q_CONS_count q).queueSettle q
    let weaver := !s.flag Fld.WVR_Q_CFG_kind q
    some (x, if s.queueHeld q == 0 || (weaver && s.noteDue q (s.get Fld.WVR_Q_CONS_count q)) then s.notify q else s)

/-- The queue of a kind that a context owns (R335). -/
def State.ctxQueue (s : State) (c kind : Nat) : Option Nat :=
  (List.range 1024).find? (fun q => s.flag Fld.WVR_Q_CFG_valid q && s.get Fld.WVR_Q_CFG_kind q == kind &&
    s.get Fld.WVR_Q_CFG_context q == c)

/-- Counts a discarded entry. -/
def State.dropEntry (s : State) (q : Nat) (why : Field) : State :=
  (s.set why q 1).count Fld.WVR_Q_DROP_COUNT_count q Fld.WVR_Q_STATUS_drop_wrap q 0

/-- Every submission queue of a partition is closed and every context of it stopped with discard (11 R524; 12 R570). -/
def State.closePart (s : State) (p : Nat) : State :=
  let qs := (List.range 1024).filter (fun q => s.queueOwner q == some p && !s.flag Fld.WVR_Q_CFG_kind q)
  let s := qs.foldl (fun s q => s.set Fld.WVR_Q_CTRL_closed q 1) s
  (s.contextsOf p).foldl (fun s c =>
    let s := (s.set Fld.WVR_CTX_CTRL_discard c 1).requestStop c
    if s.get Fld.WVR_CTX_STATE_state c = 4 then s.haltShards c else s) s

/-- The TDISP interface of a lid partition enters ERROR; from RUN its queues close and its contexts stop (12 R569, R570). -/
def State.tdispError (s : State) (p : Nat) : State :=
  if s.get Fld.LID_PART_tdisp p = 2 then (s.set Fld.LID_PART_tdisp p 3).closePart p else s.set Fld.LID_PART_tdisp p 3

/-- SUBMISSION_WRITE (R340 to R343; 11 R512, R514, R569). -/
def execSubmissionWrite (p : Fin 32) (q : Fin 1024) (off : BitVec 12) (bytes : List Byte) (ide : Bool) (s : State) : Out :=
  if s.halted || s.asleep p then .next s
  else if s.underLid p && !ide then .next (s.tdispError p)
  else if !s.flag Fld.WVR_Q_CFG_valid q || s.flag Fld.WVR_Q_CFG_kind q || s.queueOwner q != some p.val ||
      (s.underLid p && s.get Fld.LID_PART_tdisp p != 2) then .next s
  else if bytes.length ≠ 64 ∨ off.toNat % 64 ≠ 0 then .next (s.dropEntry q Fld.WVR_Q_STATUS_partial)
  else if s.flag Fld.WVR_Q_CTRL_closed q then .next (s.dropEntry q Fld.WVR_Q_STATUS_closed_drop)
  else if s.queueDepth q ≤ s.queueHeld q then
    let s := s.dropEntry q Fld.WVR_Q_STATUS_overrun
    .next (if s.flag Fld.WVR_Q_CTRL_overrun_event_en q then s.report 0x30 q 0 else s)
  else .next (s.pushEntry q bytes)

/-- Reads of a pop window that wait are answered, oldest first, as far as the head buffer has entries (08 R345). -/
def State.serveReads (s : State) (q : Nat) : Nat → State
  | 0 => s
  | n + 1 =>
    match (s.queueAt q).reads, s.popEntry q with
    | p :: ps, some (x, s) => ((s.setQueue q { s.queueAt q with reads := ps }).emit (.bytes p x)).serveReads q n
    | _, _ => s

/-- The oldest entry in a queue's ring returns to the head buffer, and reads that wait for it are answered. A slot that cannot be read, or
not yet, leaves the queue as it is; what comes of it from elsewhere is kept with the queue's context. -/
def State.fillQueue (s : State) (q : Nat) : State :=
  let d := s.queueAt q
  if d.ring = 0 ∨ 8 ≤ d.head.length then s
  else
    let va := s.ringSlot q (s.get Fld.WVR_Q_CONS_count q + d.head.length)
    let c := s.get Fld.WVR_Q_CFG_context q
    match s.devRead (s.queueBasket q) (s.ctxAt c).fetched va 64 0 c with
    | (.ok bs, s) => (s.setQueue q { d with head := d.head ++ [bs], ring := d.ring - 1 }).queueSettle q |>.serveReads q 8
    | (_, s) => s

/-- QUEUE_FILL (R337, R343). -/
def execQueueFill (q : Fin 1024) (s : State) : Out := .next (if s.halted then s else s.fillQueue q)

/-- The idle item (R346). -/
def idleItem : List Byte := List.replicate 64 0

/-- Reads that wait for an entry of a ring go on. -/
def State.readsGoOn (s : State) : State :=
  s.queues.foldl (fun s (e : Nat × QueueData) => if (s.queueAt e.1).reads.isEmpty then s else s.fillQueue e.1) s

/-- COMPLETION_POP (R345; 11 R513, R514): the function reads an item, the idle item, or zeros. Where the oldest item lies in the ring the
read waits until it has been filled from there, and reads behind it wait their turn (log entry 171). -/
def execCompletionPop (p : Fin 32) (q : Fin 1024) (off : BitVec 12) (len : Nat) (s : State) : Out :=
  if s.halted || s.asleep p then .next s
  else if !s.flag Fld.WVR_Q_CFG_valid q || !s.flag Fld.WVR_Q_CFG_kind q || s.queueOwner q != some p.val ||
      (s.underLid p && s.get Fld.LID_PART_tdisp p != 2) || len != 64 || off.toNat % 64 != 0 then
    .next (s.emit (.bytes p (List.replicate len 0)))
  else if (s.queueAt q).head = [] ∧ (s.queueAt q).ring = 0 then .next (s.emit (.bytes p idleItem))
  else
    let s := s.setQueue q { s.queueAt q with reads := (s.queueAt q).reads ++ [p.val] }
    .next (if (s.queueAt q).head = [] then s.fillQueue q else s.serveReads q 1)

/-! ## Commands (R348 to R351) -/

/-- What is wrong with a command (R351). -/
def cmdBad (x : List Byte) : Bool :=
  let code := fieldAt x 0 1
  let used := fun (o : Nat) => if o = 0 then 0xFF else if o = 1 then 1 else if 8 ≤ o ∧ o < 0x17 then 0xFF
    else if 0x18 ≤ o ∧ o < 0x20 then (if code = 3 ∨ code = 4 then 0xFF else 0)
    else if 0x20 ≤ o ∧ o < 0x24 then (if code = 3 then 0xFF else 0)
    else if o = 0x24 then (if code = 4 then 0xFF else 0) else 0
  let align := if code = 1 then 128 else if code = 2 then 64 else 16
  let st := fieldAt x 0x24 1
  decide (4 < code) || (List.range 64).any (fun o => (fieldAt x o 1 ||| used o) != used o) || decide (fieldAt x 0x10 7 % align ≠ 0) ||
  (code == 4 && (st == 1 || decide (3 < st)))

/-- Core cycles issued for a context (R362). -/
def State.issueCycles (s : State) (c : Nat) : Nat := s.get64 Fld.WVR_CTX_ISSUE_LO_lo Fld.WVR_CTX_ISSUE_HI_hi c

/-- The command an entry spells. -/
def State.cmdOf (s : State) (c q : Nat) (x : List Byte) : Cmd :=
  { opcode := fieldAt x 0 1, quiet := bitOf (fieldAt x 1 1) 0, id := fieldAt x 8 8, addr := fieldAt x 0x10 7, value := fieldAt x 0x18 8,
    timeout := fieldAt x 0x20 4, status := fieldAt x 0x24 1, queue := q, seq := s.get Fld.WVR_Q_CONS_count q,
    cycles := s.issueCycles c, time := s.time }

/-- Changes a context. -/
def State.onCtx (s : State) (c : Nat) (f : Context → Context) : State := s.setCtx c (f (s.ctxAt c))

/-- The 64 bytes of a completion item (R352). -/
def State.itemOf (s : State) (c : Nat) (k : Cmd) (status code record : Nat) : List Byte :=
  leBytes 1 1 ++ leBytes 1 k.opcode ++ leBytes 1 status ++ leBytes 1 code ++ leBytes 2 k.queue ++ leBytes 2 c ++ leBytes 8 k.id ++
  leBytes 4 k.seq ++ leBytes 4 0 ++ leBytes 8 record ++ leBytes 8 ((s.issueCycles c + 2 ^ 64 - k.cycles) % 2 ^ 64) ++ List.replicate 24 0

/-- A context has passed a kernel boundary (07 R310). -/
def State.boundary (s : State) (c : Nat) : State :=
  { s with plait := { s.plait with running := s.plait.running.filter (· != c) } }

/-- A command has completed, its item posted or not asked for (R349). -/
def State.cmdOver (s : State) (c : Nat) : State :=
  let s := (s.boundary c).onCtx c (fun x => { x with cmd := none, item := none, fetched := [], asked := [], kernel := none, step := none, stepRunning := false })
  let s := s.count Fld.WVR_CTX_CMD_COUNT_count c Fld.WVR_CTX_STATUS_cmd_wrap c 0
  if s.get Fld.WVR_CTX_STATE_state c = 2 ∨ s.get Fld.WVR_CTX_STATE_state c = 3 then s.set Fld.WVR_CTX_STATE_state c 1 else s

/-- A command ends with a status, a fault code and the address of the record written: its item waits to be posted, where one is
asked for and the context has a completion queue (R344, R348; log entry 95). -/
def State.finishCmd (s : State) (c status code record : Nat) : State :=
  match (s.ctxAt c).cmd with
  | none => s
  | some k =>
    if (k.quiet && status == 0) || (s.ctxQueue c 1).isNone then s.cmdOver c
    else (s.boundary c).onCtx c (fun x => { x with item := some (s.itemOf c k status code record), kernel := none, step := none, stepRunning := false })

/-- COMPLETION_POST (R344, R349, R352): the item is posted once the weaver holds a credit. -/
def execCompletionPost (ctx : Fin 2048) (s : State) : Out :=
  match (if s.halted then none else (s.ctxAt ctx).item), s.ctxQueue ctx 1 with
  | some x, some q => if s.queueHeld q < s.queueDepth q then .next ((s.pushEntry q x).cmdOver ctx) else .next s
  | some _, none => .next (s.cmdOver ctx)
  | none, _ => .next s

/-- A context can take a command: it is idle, none is in progress, it is not asked to stop, and the module has not stopped. -/
def State.canTake (s : State) (c : Nat) : Bool :=
  !s.halted && s.get Fld.WVR_CTX_STATE_state c == 1 && (s.ctxAt c).cmd.isNone && !s.flag Fld.WVR_CTX_CTRL_stop c

/-- Takes the command at the head of a context's submission queue if `want` holds of its opcode. -/
def State.takeCmd (s : State) (c : Nat) (want : Nat → Bool) : Option (Cmd × Bool × State) :=
  match (if s.canTake c then s.ctxQueue c 0 else none) with
  | none => none
  | some q =>
    match (s.queueAt q).head with
    | [] => none
    | x :: _ =>
      if !want (fieldAt x 0 1) then none
      else
        let k := s.cmdOf c q x
        match s.popEntry q with
        | none => none
        | some (_, s) => some (k, cmdBad x, s.onCtx c (fun x => { x with cmd := some k, fetched := [], asked := [] }))

/-- CMD_IDLE (R346, R351): an idle entry is consumed with no effect; one of a reserved opcode is refused. -/
def execCmdIdle (ctx : Fin 2048) (s : State) : Out :=
  match s.takeCmd ctx (fun o => o == 0 || decide (4 < o)) with
  | none => .next s
  | some (_, true, s) => .next (s.finishCmd ctx 2 0x01 0)
  | some (_, false, s) => .next (s.onCtx ctx (fun x => { x with cmd := none }))

end Sys2Proof.Machine
end

