-- ==== Sys2Proof/Machine/Slots.lean ====
section
/-! DEFINITION. Slots bound to contexts and taken from them, the scrub of local stores, the hand-over of a core between partitions,
and sparing (04 R121 to R127, R136, R142, R143, R182; 07 R309, R310, R315, R316; 14 R660, R661, R672). -/

namespace Sys2Proof.Machine

/-! ## The local store of a site -/

/-- Writes zero to segments of a local store: their bytes, their check bits and their seal tags (04 R142; 15 R686). -/
def State.zeroSegs (s : State) (site base len : Nat) : State :=
  let keep := fun (k unit : Nat) => !(decide (site * 32 * unit + base * unit ≤ k) && decide (k < site * 32 * unit + (base + len) * unit))
  { s with
    localStore := s.localStore.zero (2 ^ 21 * site + base * 65536) (len * 65536),
    lsPoison := s.lsPoison.filter (fun e => keep e.1 8192),
    segTags := s.segTags.filter (fun e => keep e.1 1) }

/-- The remote ledger of a slot is zero with the reserved area of its slice: every entry is free and of generation 0 (04 R137, R142; 08
R365). -/
def State.zeroLedger (s : State) (core k : Nat) : State :=
  { s with ledger := s.ledger.filter (fun e => e.1 / 64 != core * 8 + k) }

/-- Slot `k` of the core at a site holds a context. -/
def State.siteResident (s : State) (site k : Nat) : Bool :=
  match s.coreOfSite site with
  | some c => (s.slotAt c k).bound
  | none => false

/-- The slots a scrub selects. -/
def scrubSlots (whole : Bool) (mask : Nat) : List Nat := (List.range 8).filter (fun k => whole || bitOf mask k)

/-- A scrub starts, of the whole local store or of the slices of some slots. -/
def State.startScrub (s : State) (site : Nat) (whole : Bool) (mask : Nat) : State :=
  { s.set Fld.LS_SCRUB_busy site 1 with scrubs := Sparse.set 0 s.scrubs site (1 + 2 * bit whole + 4 * mask) }

/-- LS_SCRUB_START (04 R142, R143): a write of start by rim firmware begins a scrub, unless a slot it selects holds a context. A scrub
that runs keeps what it selected when it started, and starts no other: the spec does not say what start does then (DESIGN CHOICE, log entry
178). -/
def execLsScrubStart (a : Agent) (site : Fin 288) (v : Word32) (s : State) : Out :=
  if a ≠ .rim then .next s
  else
    let s := s.writeReg Fld.LS_SCRUB_start.reg site v.toNat
    if !bitOf v.toNat 0 then .next s
    else if (scrubSlots (bitOf v.toNat 1) (bitsOf v.toNat 2 8)).any (s.siteResident site) then .next (s.set Fld.LS_SCRUB_refused site 1)
    else if s.flag Fld.LS_SCRUB_busy site then .next s
    else .next (s.startScrub site (bitOf v.toNat 1) (bitsOf v.toNat 2 8))

/-- What a scrub does once it has ended: the selected slices, or every byte, are zero, and the scoreboard banks clear. -/
def State.scrubbed (s : State) (site : Nat) : State :=
  let run := Sparse.get 0 s.scrubs site
  let whole := bitOf run 1
  let slots := scrubSlots whole (bitsOf run 2 8)
  let s := { s with scrubs := Sparse.set 0 s.scrubs site 0 }
  let s := if whole then s.zeroSegs site 0 32
    else slots.foldl (fun s k => s.zeroSegs site (s.get Fld.LS_SLICE_base_seg (site * 8 + k)) (s.get Fld.LS_SLICE_len_seg (site * 8 + k))) s
  match s.coreOfSite site with
  | some c => slots.foldl (fun s k => (s.clearTags c k).zeroLedger c k) s
  | none => s

/-- LS_SCRUB_DONE (04 R142). A core in hand-over has its read-back next (07 R315 step 4). -/
def execLsScrubDone (site : Fin 288) (s : State) : Out :=
  if !s.flag Fld.LS_SCRUB_busy site then .next s
  else
    let whole := bitOf (Sparse.get 0 s.scrubs site) 1
    let s := (s.scrubbed site).setAll site [(Fld.LS_SCRUB_busy, 0), (Fld.LS_SCRUB_done, 1)]
    match s.coreOfSite site with
    | none => .next s
    | some c => .next { s with plait := { s.plait with
        handover := s.plait.handover.map (fun (e : Nat × Nat × Bool) => (e.1, e.2.1, e.2.2 || (e.1 == c && whole))) } }

/-! ## Hand-over (07 R315, R316) -/

/-- A core in hand-over. -/
def State.inHandover (s : State) (core : Nat) : Bool := s.plait.handover.any (fun e => e.1 == core)

/-- The partition that waits for a core which now belongs to another. -/
def State.coreWanted (s : State) (core : Nat) : Option Nat :=
  s.plait.changes.findSome? (fun c => match c with
    | .slotAdd b k _ _ _ => if k == core && s.otherCore core (s.piecePart b) then some (s.piecePart b) else none
    | _ => none)

/-- A core that holds no slot and is wanted by another partition enters Test, and its scrub begins (07 R315 step 2). -/
def State.handOver (s : State) (core : Nat) : State :=
  match s.siteOf core, s.coreWanted core with
  | some site, some p =>
    if !(s.coreSlots core).isEmpty || s.inHandover core || s.siteState site != 0 || s.fc.fenced.contains core then s
    else
      let s := { s with plait := { s.plait with handover := s.plait.handover ++ [(core, p, false)] } }
      ((s.setSite site 3).set Fld.LS_SCRUB_whole site 1).startScrub site true (s.get Fld.LS_SCRUB_slot_mask site)
  | _, _ => s

/-- A load whose changes have all taken effect, or been given up, is in COMMIT (07 R307). -/
def State.afterChange (s : State) : State :=
  if s.get Fld.RIM_PLAIT_STATUS_state 0 = 4 ∧ s.plait.changes.isEmpty = true then s.set Fld.RIM_PLAIT_STATUS_state 0 5 else s

/-- The additions that wait for a core are given up: the load goes on without it (07 R316, R318). -/
def State.dropAdds (s : State) (core : Nat) : State :=
  let gone := fun (c : Change) => match c with
    | .slotAdd _ k _ _ _ => k == core
    | _ => false
  if s.plait.changes.any gone then
    { s with plait := { s.plait with changes := s.plait.changes.filter (fun c => !gone c), reduced := true } }.afterChange
  else s

/-- HANDOVER_READBACK_DONE (07 R315 steps 4 and 5, R316; 14 R660): with every byte of its local store zero the core passes to the
new partition; else its site is marked for replacement. -/
def execHandoverReadbackDone (core : Fin 256) (s : State) : Out :=
  match s.plait.handover.find? (fun e => e.1 == core.val), s.siteOf core with
  | some (_, p, true), some site =>
    let clean := s.localStore.all (fun c => c.1 / 2 ^ 21 != site)
    let s := { s with plait := { s.plait with handover := s.plait.handover.filter (fun (e : Nat × Nat × Bool) => e.1 != core.val) } }
    if clean then
      let s := { s with plait := { s.plait with corePart := Sparse.set 0 s.plait.corePart core (p + 1) } }
      .next (s.setSite site 0)
    else .next ((s.dropAdds core).markSite site)
  | _, _ => .next s

/-! ## Binding a slot -/

/-- The cores a context holds slots on are counted (08 R389). -/
def State.countCores (s : State) (c : Nat) : State := s.set Fld.WVR_CTX_STATE_cores c (s.slotsOf c).length

/-- Binds a slot of a core to a context with a slice (04 R136; 08 R355; 07 R312). -/
def State.bindSlot (s : State) (core k c base len : Nat) : State :=
  match s.siteOf core with
  | none => s
  | some site =>
    let s := (s.zeroSegs site base len).setAll (site * 8 + k) [(Fld.LS_SLICE_base_seg, base), (Fld.LS_SLICE_len_seg, len)]
    let s := ((s.clearTags core k).zeroLedger core k).setShard core k ShardRun.none
    let p := s.piecePart (s.get Fld.WVR_CTX_STATE_basket_index c)
    let s := { s with plait := { s.plait with corePart := Sparse.set 0 s.plait.corePart core (p + 1) } }
    (s.setSlot core k { bound := true, ctx := c, state := .empty, pass := 0, stride := s.strideOf c, ran := 0 }).countCores c

/-- The last context has left a lane whose site is to be exchanged: the row's spare slot is tested (04 Table 2 steps 2 and 3). -/
def State.spareNext (s : State) (core : Nat) : State :=
  match s.siteOf core with
  | some site =>
    if (s.coreSlots core).isEmpty && (s.fc.marked.contains site || s.fc.rotating.contains (site / 9, site % 9)) then
      s.testSpare (site / 9) core
    else s
  | none => s

/-- A slot leaves its core: its slice is zero before it is bound again (07 R312). -/
def State.unbindSlot (s : State) (core k : Nat) : State :=
  let c := (s.slotAt core k).ctx
  let s := match s.siteOf core with
    | none => s
    | some site =>
      (s.zeroSegs site (s.get Fld.LS_SLICE_base_seg (site * 8 + k)) (s.get Fld.LS_SLICE_len_seg (site * 8 + k))).setAll
        (site * 8 + k) [(Fld.LS_SLICE_base_seg, 0), (Fld.LS_SLICE_len_seg, 0)]
  let s := ((s.clearTags core k).zeroLedger core k).setShard core k ShardRun.none
  ((((s.setSlot core k Slot.none).countCores c).showRunning core).spareNext core).handOver core

/-- The slots of a context on a core leave it. -/
def State.unbindCore (s : State) (core c : Nat) : State :=
  (s.coreSlots core).foldl (fun s e => if e.2.ctx = c then s.unbindSlot core e.1 else s) s

/-- A context runs a kernel. -/
def State.inKernel (s : State) (c : Nat) : Bool := (s.ctxAt c).kernel.isSome

/-- A slot of a core stands in the way of a new one (07 R296). -/
def State.slotBars (s : State) (core site p base len : Nat) (e : Nat × Slot) : Bool :=
  let o := s.get Fld.LS_SLICE_base_seg (site * 8 + e.1)
  let n := s.get Fld.LS_SLICE_len_seg (site * 8 + e.1)
  s.piecePart (s.get Fld.WVR_CTX_STATE_basket_index (s.slotAt core e.1).ctx) != p || (decide (o < base + len) && decide (base < o + n))

/-- A slot can be added on a core now: the context is bound and between kernels, the core serves its partition and has room (07
Table 6; 14 R653). -/
def State.addReady (s : State) (b core c base len : Nat) : Bool :=
  let p := s.piecePart b
  match s.siteOf core with
  | none => true
  | some site =>
    s.get Fld.WVR_CTX_STATE_state c != 0 && s.get Fld.WVR_CTX_STATE_basket_index c == b && !s.inKernel c &&
    !s.fc.fenced.contains core && !s.fc.marked.contains site && s.siteState site == 0 && !s.inHandover core && !s.otherCore core p &&
    decide ((s.coreSlots core).length < 8) && !(s.coreSlots core).any (s.slotBars core site p base len)

/-- Adds a slot on a core, the lowest free one (log entry 21); a core that is absent by now adds none, and the load is reduced. -/
def State.addSlot (s : State) (core c base len : Nat) : State :=
  if !s.corePresent core then { s with plait := { s.plait with reduced := true } }
  else if (s.coreSlots core).any (fun e => e.2.ctx == c) then s
  else match (List.range 8).find? (fun k => !(s.slotAt core k).bound) with
    | some k => s.bindSlot core k c base len
    | none => s

/-- A change of the slots of a context between kernels is ready. -/
def State.slotReady (s : State) : Change → Bool
  | .slotAdd b core c base len => s.addReady b core c base len
  | .slotRemove _ core c => !s.inKernel c && !s.fc.fenced.contains core
  | _ => false

/-- Makes such a change. -/
def State.slotChange (s : State) : Change → State
  | .slotAdd _ core c base len => s.addSlot core c base len
  | .slotRemove _ core c => s.unbindCore core c
  | _ => s

/-- The context a change of slots is of. -/
def Change.slotCtx : Change → Option Nat
  | .slotAdd _ _ c _ _ => some c
  | .slotRemove _ _ c => some c
  | _ => none

/-- A change has taken effect. -/
def State.dropChange (s : State) (x : Change) : State :=
  { s with plait := { s.plait with changes := s.plait.changes.erase x } }

/-- Between two kernels of a context, every change of its slots that can take effect does (07 R310). -/
def State.passBoundary (s : State) (c : Nat) : State :=
  ((s.plait.changes.filter (fun x => x.slotCtx == some c)).foldl (fun s x =>
    if s.slotReady x then (s.dropChange x).slotChange x else s) s).afterChange

/-! ## Sparing (04 R122 to R127, R182) -/

/-- The section a piece is to have: the one a load in progress gives it, else its own. -/
def State.nextSection (s : State) (b : Nat) (p : Piece) : Section := (s.plait.staged.find? (fun x => x.basket == b)).getD p.sec

/-- The contexts of pieces that stay bound that are to have a slot on a core (07 R309). -/
def State.slotRecs (s : State) (core : Nat) : List (Nat × CtxRec) :=
  s.pieces.flatMap (fun e =>
    if e.2.leaving then [] else ((s.nextSection e.1 e.2).contexts.filter (fun c => bitOf c.cores core)).map (fun c => (e.1, c)))

/-- A core returns to the baskets that use it (04 Table 2 step 7); a slot that a load is to add there is among its changes already. -/
def State.rejoinCore (s : State) (core : Nat) : State :=
  let cs := ((s.slotRecs core).map (fun e => Change.slotAdd e.1 core e.2.ctx e.2.base e.2.len)).filter (fun c => !s.plait.changes.contains c)
  { s with plait := { s.plait with changes := s.plait.changes ++ cs } }

/-- The cores and channels in service of each bound piece are counted (07 R330). -/
def State.countPieces (s : State) : State :=
  s.pieces.foldl (fun s e =>
    if s.get Fld.CAP_BASKET_state e.1 = 0 then s
    else s.setAll e.1 [
      (Fld.CAP_BASKET_cores, ((List.range 256).filter (fun k => bitOf e.2.sec.cores k && s.corePresent k)).length),
      (Fld.CAP_BASKET_channels, ((List.range 256).filter (fun k => bitOf e.2.chans k)).length)]) s

/-- A load is in APPLY and binds a resource, by the binding being left or the one being entered: it completes reduced (07 R318). -/
def State.shrinkLoad (s : State) (has : Section → Bool) : State :=
  let st := s.get Fld.RIM_PLAIT_STATUS_state 0
  if (st == 4 || st == 5) && (s.pieces.any (fun e => has e.2.sec) || s.plait.staged.any has) then
    { s with plait := { s.plait with reduced := true } }
  else s

/-- A core has no site any more: it is reported, and the capability table changes (04 R127; 14 R661). -/
def State.coreGone (s : State) (core : Nat) : State :=
  let s := ((s.dropAdds core).shrinkLoad (fun x => bitOf x.cores core)).report 0x0C core 0
  s.refreshCaps.countPieces.capChange

/-- The map and the states of a row are kept in the service record (04 Table 2 step 6). -/
def State.keepRow (s : State) (row : Nat) : State :=
  { s with service := { s.service with
    laneMap := Sparse.set 0x76543210 s.service.laneMap row (s.get Fld.RWS_LANE_MAP_lanes row),
    siteState := Sparse.set 0x00010000 s.service.siteState row (s.get Fld.RWS_SITE_STATE_slots row),
    seq := s.service.seq + 1 } }

/-- The collector forgets an engine that has been replaced. -/
def State.engineReplaced (s : State) (core site slot : Nat) : State :=
  let s := { s with fc := { s.fc with
    marked := s.fc.marked.filter (· != site), tested := s.fc.tested.filter (fun t => decide (9 ≤ slot) || t != core / 8 * 9 + slot),
    rotating := s.fc.rotating.filter (fun (e : Nat × Nat) => e.1 != core / 8),
    fenced := s.fc.fenced.filter (· != core), drained := s.fc.drained.filter (· != core) } }
  if s.fc.fenced.isEmpty then s.set Fld.FC_ENGINE_RESET_busy 0 0 else s

/-- Remaps a lane: the map and the states change together (04 R125 to R127). -/
def State.remapLane (s : State) (core slot fate : Nat) : State :=
  let row := coreRow core
  let old := s.siteOf core
  let s := s.set Fld.RWS_LANE_MAP_lanes row (putBits (s.get Fld.RWS_LANE_MAP_lanes row) (4 * (core % 8)) 4 slot)
  let s := match old with
    | some site => s.setSite site (if fate = 0 then 2 else 1)
    | none => s
  let s := if slot < 9 then s.setSite (row * 9 + slot) 0 else s
  let s := (s.set Fld.RWS_SPARE_STATUS_done row 1).keepRow row
  let s := match old with
    | some site => s.engineReplaced core site slot
    | none => s
  if slot < 9 then s.rejoinCore core else if old.isSome then s.coreGone core else s

/-- RWS_SPARE_CMD (04 R125 to R127, R182): acts on writes of rim firmware alone. A lane that is absent is given no slot again. -/
def execRwsSpareCmd (a : Agent) (row : Fin 32) (v : Word32) (s : State) : Out :=
  if a ≠ .rim then .next s
  else
    let lane := bitsOf v.toNat 0 3
    let slot := bitsOf v.toNat 3 4
    let fate := bitsOf v.toNat 7 2
    let core := row.val * 8 + lane
    let bad := (decide (9 ≤ slot) && slot != 15) || decide (2 ≤ fate) || !(s.coreSlots core).isEmpty ||
      (decide (slot < 9) && (s.siteState (row.val * 9 + slot) != 3 || !s.fc.tested.contains (row.val * 9 + slot) ||
        (s.siteOf core).isNone))
    if bad then .next (s.set Fld.RWS_SPARE_STATUS_refused row 1) else .next (s.remapLane core slot fate)

/-- SPARE_BUILT_IN_TEST_DONE (04 Table 2 step 3; R125): a slot in Test that is not in hand-over and passes is ready for a lane, its
local store and its scoreboard banks zero. One that fails stays in Test. -/
def execSpareBuiltInTestDone (row : Fin 32) (slot : Fin 9) (passed : Bool) (s : State) : Out :=
  let site := row.val * 9 + slot.val
  if s.siteState site ≠ 3 ∨ (s.coreOfSite site).isSome = true ∨ passed = false ∨ s.fc.tested.contains site = true then .next s
  else .next { s.zeroSegs site 0 32 with fc := { s.fc with tested := s.fc.tested ++ [site] } }

end Sys2Proof.Machine
end

