-- ==== Sys2Proof/Machine/Kernel.lean ====
section
/-! DEFINITION. Kernels: the checks of a descriptor, the start sequence, shards, the end sequence, the completion record and the replay
record (05 R186 to R194, R250 to R254, R725, R727, R729; 07 R314, R322; 09 R428 to R430; 13 R611, R613; 14 R662; 15 R675 to R682,
R687 to R695). -/

namespace Sys2Proof.Machine

/-! ## The descriptor -/

/-- Fields of a kernel descriptor (05 Table 1). -/
def kField (d : List Byte) (o n : Nat) : Nat := fieldAt d o n

def kShards (d : List Byte) : Nat := fieldAt d 0x0C 2

def kModules (d : List Byte) : Nat := fieldAt d 0x72 2 % 2 ^ 15

def kLead (d : List Byte) : Nat := fieldAt d 0x70 2 % 2 ^ 14

def kRankBase (d : List Byte) : Nat := fieldAt d 0x34 2 % 2 ^ 14

def kReplay (d : List Byte) : Bool := bitOf (fieldAt d 9 1) 6

/-- Offending offsets of a descriptor, its rank map apart (05 Table 2). -/
def State.kernelOffends (s : State) (b : Nat) (d : List Byte) : List Nat :=
  let n := kShards d
  let ranks := fieldAt d 0x36 2 % 2 ^ 15
  let mc := kModules d
  let st := s.get Fld.CAP_BASKET_state b
  offends (fieldAt d 8 1 != 1) 0x08 ++
  offends (decide (1 < bitsOf (fieldAt d 9 1) 4 2) || bitOf (fieldAt d 9 1) 7 || !bitOf (s.pieceAt b).sec.labels (fieldAt d 9 1 % 16)) 0x09 ++
  offends (n == 0 || decide (256 < n)) 0x0C ++ offends (decide (64 < fieldAt d 0x0E 1)) 0x0E ++
  reservedOffends d [(0x0B, 1, 0xFC), (0x0F, 1, 0xFF), (0x17, 1, 0xFF), (0x27, 1, 0xFF), (0x2F, 1, 0xFF), (0x32, 2, 0xFF), (0x35, 1, 0xC0),
    (0x37, 1, 0x80), (0x44, 1, 0xE0), (0x45, 3, 0xFF), (0x4F, 1, 0xFF), (0x57, 1, 0xFF), (0x67, 1, 0xFF), (0x71, 1, 0xC0), (0x73, 1, 0x80), (0x7F, 1, 0xFF)] ++
  offends (fieldAt d 0x10 7 % 32 != 0) 0x10 ++ offends (fieldAt d 0x18 4 == 0 || decide (2 ^ 20 < fieldAt d 0x18 4)) 0x18 ++
  offends (fieldAt d 0x1C 4 % 32 != 0) 0x1C ++ offends (fieldAt d 0x20 7 % 32 != 0) 0x20 ++ offends (fieldAt d 0x28 7 % 8 != 0) 0x28 ++
  offends (decide (256 < fieldAt d 0x30 2)) 0x30 ++ offends (decide (ranks < kRankBase d + n)) 0x34 ++
  offends (ranks == 0 || decide (16384 < ranks)) 0x36 ++
  (List.range 4).flatMap (fun i =>
    offends (decide (signed16 (fieldAt d (0x38 + 2 * i) 2) < -512) || decide (511 < signed16 (fieldAt d (0x38 + 2 * i) 2))) (0x38 + 2 * i)) ++
  offends (fieldAt d 0x48 7 % 256 != 0) 0x48 ++
  offends (bitOf (fieldAt d 0x0B 1) 0 && fieldAt d 0x50 7 % 16 != 0) 0x50 ++
  offends (bitOf (fieldAt d 0x0B 1) 1 && fieldAt d 0x60 7 % 16 != 0) 0x60 ++
  offends (mc == 0 || decide (16384 < mc) || (decide (1 < mc) && (st == 3 || st == 4))) 0x72 ++
  offends (fieldAt d 0x74 4 % 32 != 0) 0x74 ++
  offends (if mc = 1 then fieldAt d 0x78 7 != 0 else fieldAt d 0x78 7 == 0 || fieldAt d 0x78 7 % 8 != 0) 0x78

/-- The entries of a rank map: module, first rank and shards. -/
def rankEntries (n : Nat) (bs : List Byte) : List (Nat × Nat × Nat) :=
  (List.range n).map (fun i =>
    let x := fieldAt bs (8 * i) 8
    (bitsOf x 0 14, bitsOf x 16 14, bitsOf x 32 9))

/-- The rank after ranges that follow each other from a rank. A range of no rank is taken (DESIGN CHOICE, log entry 172: 05 R725 does not
say whether an entry may cover none). -/
def rankEnd (n : Nat) : List (Nat × Nat × Nat) → Option Nat
  | [] => some n
  | x :: xs => if x.2.1 = n then rankEnd (n + x.2.2) xs else none

/-- A rank map meets R725 on this module. -/
def State.rankMapOk (s : State) (d bs : List Byte) : Bool :=
  let es := rankEntries (kModules d) bs
  (List.range (kModules d)).all (fun i => bitsOf (fieldAt bs (8 * i) 8) 14 2 == 0 && bitsOf (fieldAt bs (8 * i) 8) 30 2 == 0 &&
    bitsOf (fieldAt bs (8 * i) 8) 41 23 == 0) &&
  rankEnd 0 es == some (fieldAt d 0x36 2 % 2 ^ 15) && es.any (fun x => x.1 == s.me && x.2.1 == kRankBase d && x.2.2 == kShards d)

/-- Offending offsets of a tensor-table entry (R194). An entry with reserved bits set, or with an aux_base that its format has no use for, is
among them (DESIGN CHOICE, log entry 195). -/
def tensorOffends (x : List Byte) : List Nat :=
  let t := Tensor.of x
  let row := (t.cols * t.bits + 7) / 8
  let sp := isSplint t.fmt
  offends (t.space != 3 && t.base % (if sp then 256 else 64) != 0 || (t.space == 3 && decide (2 ^ 32 ≤ t.base))) 0 ++
  reservedOffends x [(7, 1, 0xFF), (0x0F, 1, 0xFF), (0x1E, 1, 0xC0), (0x1F, 1, 0xFF)] ++
  offends (!isMx t.fmt && t.fmt != 15 && t.aux != 0) 0x08 ++
  offends (if sp || t.space == 3 then t.stride != 0 else t.stride % 64 != 0 || decide (t.stride < row)) 0x10 ++
  offends (t.rows == 0) 0x14 ++ offends (t.cols == 0 || (isMx t.fmt && t.cols % 32 != 0)) 0x18 ++
  offends (decide (15 < t.fmt) || decide (3 < t.space)) 0x1C ++
  offends (t.scale == 0xFF || (!hasTensorScale t.fmt && t.scale != 0x7F)) 0x1D

/-- Offending offsets of a tensor table. -/
def tableOffends (n : Nat) (bs : List Byte) : List Nat :=
  (List.range n).flatMap (fun i => (tensorOffends ((bs.drop (32 * i)).take 32)).map (· + 32 * i))

/-! ## The replay manifest (15 R676, R677) -/

def mKind (m : List Byte) : Nat := fieldAt m 4 1 % 4

/-- A manifest of a kind that opens, or that closes. -/
def mOpens (m : List Byte) : Bool := mKind m == 1 || mKind m == 3

def mCloses (m : List Byte) : Bool := mKind m == 2 || mKind m == 3

def mIns (m : List Byte) : Nat := fieldAt m 5 1 % 8

def mOuts (m : List Byte) : Nat := bitsOf (fieldAt m 5 1) 4 3

/-- The ranges of a manifest from one number on: base and length. -/
def mRanges (m : List Byte) (from' n : Nat) : List (Nat × Nat) :=
  (List.range n).map (fun i => (fieldAt m (0x10 + 16 * (from' + i)) 7, fieldAt m (0x18 + 16 * (from' + i)) 4))

/-- Offending offsets of a manifest. Members other than the lead read magic and kind alone (15 R679). -/
def manifestOffends (open' lead : Bool) (m : List Byte) : List Nat :=
  let k := mKind m
  offends (fieldAt m 0 4 != 0x4D524B51) 0 ++
  offends (k == 0 || decide (4 ≤ fieldAt m 4 1) || (mOpens m && open') || (k == 2 && !open')) 4 ++
  (if !lead then []
   else
     offends (decide (6 < mIns m + mOuts m) || decide (fieldAt m 5 1 &&& 0x88 ≠ 0) || (k == 1 && mOuts m != 0) || (k == 2 && mIns m != 0)) 5 ++
     reservedOffends m [(6, 2, 0xFF), (0x0F, 1, 0xFF), (0x70, 16, 0xFF)] ++
     offends (fieldAt m 8 7 % 256 != 0 || (k == 1 && fieldAt m 8 7 != 0)) 8 ++
     (List.range (min 6 (mIns m + mOuts m))).flatMap (fun i =>
       offends (fieldAt m (0x10 + 16 * i) 7 % 64 != 0) (0x10 + 16 * i) ++
       offends (fieldAt m (0x18 + 16 * i) 4 == 0 || fieldAt m (0x18 + 16 * i) 4 % 64 != 0) (0x18 + 16 * i) ++
       reservedOffends m [(0x17 + 16 * i, 1, 0xFF), (0x1C + 16 * i, 4, 0xFF)]))

/-! ## Completion records (05 R252, R253) -/

/-- What a completion record holds beside the kernel's own counts. -/
structure RecordParts where
  kernelId : Nat
  status : Nat
  code : Nat
  rank : Nat
  op : Nat
  info : Nat
  core : Nat
  total : Nat
  flags : Nat
  counts : List Nat
  ops : Nat
  cycles : Nat
  deriving DecidableEq, Repr

/-- The 256 bytes of a completion record (05 Table 24). -/
def RecordParts.bytes (r : RecordParts) : List Byte :=
  leBytes 8 r.kernelId ++ leBytes 1 r.status ++ leBytes 1 r.code ++ leBytes 2 r.rank ++ leBytes 4 r.op ++ leBytes 8 r.info ++
  leBytes 1 r.core ++ leBytes 1 0 ++ leBytes 2 (min r.total 0xFFFF) ++ leBytes 4 r.flags ++
  (List.range 13).flatMap (fun i => leBytes 8 (r.counts.getD i 0)) ++ leBytes 8 r.ops ++ leBytes 8 r.cycles ++ List.replicate 104 0

/-- A record with nothing counted. -/
def RecordParts.plain (kid status code rank info : Nat) : RecordParts :=
  { kernelId := kid, status := status, code := code, rank := rank, op := 0, info := info, core := 0, total := 0, flags := 0,
    counts := List.replicate 13 0, ops := 0, cycles := 0 }

/-- Writes a record at a descriptor's completion address, if that is aligned (R188): the address written, or 0. -/
def State.writeRecord (s : State) (b : Nat) (d : List Byte) (r : RecordParts) : Nat × State :=
  let va := fieldAt d 0x48 7
  if va % 256 ≠ 0 then (0, s) else (va, s.devWrite b va r.bytes)

/-- The status word a kernel's signal carries (R375, R380). -/
def kernelStatusWord (d : List Byte) (status code : Nat) : Nat :=
  if status = 0 then 0
  else (if status = 3 then 3 else 1) + code * 2 ^ 8 + fieldAt d 0 8 % 2 ^ 32 * 2 ^ 32

/-- The kernel of a context, and the piece it runs in. -/
def State.ctxBasket (s : State) (c : Nat) : Nat := s.get Fld.WVR_CTX_STATE_basket_index c

/-- A signal of a context's own has gone to another module: marked among what the context has had fetched, with no bytes. -/
def State.markSent (s : State) (c va : Nat) : State := s.onCtx c (fun x => { x with fetched := (va, []) :: x.fetched })

def State.isSent (s : State) (c va : Nat) : Bool := (s.ctxAt c).fetched.contains (va, [])

/-- Shows what a context's kernel does, unless it is stopping (08 R373, R390). -/
def State.showState (s : State) (c v : Nat) : State :=
  if s.get Fld.WVR_CTX_STATE_state c = 4 then s else s.set Fld.WVR_CTX_STATE_state c v

/-- Signals a kernel's fence: whether that is over, and the fault it ends in; the signal must still be performed where it is not (R190
step 6). -/
def State.trySignal (s : State) (c : Nat) (d : List Byte) (status code : Nat) : (Bool × Option (Nat × Nat)) × State :=
  if !bitOf (fieldAt d 0x0B 1) 1 || fieldAt d 0x60 7 % 16 != 0 then ((true, none), s)
  else if s.isSent c (fieldAt d 0x60 7) then ((false, none), s)
  else match s.signal (s.ctxBasket c) (fieldAt d 0x60 7) 4 (fieldAt d 9 1 % 16) c (fieldAt d 0x68 8) (kernelStatusWord d status code) with
    | (.done, s) => ((true, none), s)
    | (.fault x i, s) => ((true, some (x, i)), s)
    | (.sent m, s) => ((false, none), (s.markSent c (fieldAt d 0x60 7)).asks (s.ctxBasket c) c 3 m (fieldAt d 0x60 7))
    | (.wait _, s) => ((false, none), s)

/-- A kernel's signal is over: its item follows (R190 step 7). A kernel that ended OK whose signal faulted completes its command with that
fault (08 R381). -/
def State.kernelSignalled (s : State) (c : Nat) (f : Option (Nat × Nat)) : State :=
  match (s.ctxAt c).kernel.bind Kernel.result with
  | none => s
  | some (status, code, record) =>
    let (status, code) := match f with
      | some x => if status = 0 then (1, x.1) else (status, code)
      | none => (status, code)
    (s.onKernel c (fun k => { k with waiting := none })).finishCmd c status code record

/-- A kernel's end once its record is written: the signal, then the item (R190 steps 6 and 7). -/
def State.kernelSignal (s : State) (c : Nat) : State :=
  match (s.ctxAt c).kernel with
  | none => s
  | some k =>
    match k.result with
    | none => s
    | some (status, code, _) =>
      match s.trySignal c k.desc status code with
      | ((true, f), s) => s.kernelSignalled c f
      | ((false, _), s) => s.onKernel c (fun k => { k with waiting := some .signal })

/-- Lowers the pins a kernel raised, and releases what drains (R190 step 5; 09 R429). -/
def State.unpin (s : State) (b : Nat) (hs : List Nat) : State :=
  hs.foldl (fun s h =>
    let o := s.objAt b h
    (s.setObj b h { o with pins := o.pins - 1 }).releaseObject b h) s

/-- A kernel's end from its record on: once that is written, and the replay record where it closes a span (08 R382), the pins fall and the fence is signalled (R190 steps 4 to 7, R191). -/
def State.kernelWritten (s : State) (c : Nat) : State :=
  match (s.ctxAt c).kernel with
  | none => s
  | some k =>
    match k.result with
    | none => s
    | some (_, _, va) =>
      let b := s.ctxBasket c
      let replay := k.replay && mCloses k.manifest && s.unwritten b (fieldAt k.manifest 8 7) 2816
      if (va ≠ 0 ∧ s.unwritten b va 256 = true) ∨ replay = true then s.onKernel c (fun k => { k with waiting := some .record })
      else
        let s := s.unpin b ((k.objects.take k.pinned).map Prod.fst)
        (s.onKernel c (fun k => { k with pinned := 0, waiting := none })).kernelSignal c

/-! ## Counts (02 R55, R56; 03 R105, R106) -/

/-- The counts of a slot in the order of 05 Table 24, each with its wrap bit. -/
def countFields : List (Field × Field) :=
  [(Fld.MU_INVALID_COUNT_count, Fld.MU_FMT_STATUS_invalid_wrap), (Fld.MU_SCALE_OOR_COUNT_count, Fld.MU_FMT_STATUS_oor_wrap),
   (Fld.MU_NONFINITE_COUNT_count, Fld.MU_FMT_STATUS_nonfinite_wrap), (Fld.MU_OUTLIER_COUNT_count, Fld.MU_FMT_STATUS_outlier_wrap),
   (Fld.VU_QUANT_COUNT_count, Fld.VU_FMT_STATUS_quant_wrap), (Fld.VU_CLIP_COUNT_count, Fld.VU_FMT_STATUS_clip_wrap),
   (Fld.VU_NONFINITE_COUNT_count, Fld.VU_FMT_STATUS_nonfinite_wrap), (Fld.MU_ESCAPE_COUNT_count, Fld.MU_ACC_STATUS_escape_wrap),
   (Fld.MU_TRUNC_COUNT_count, Fld.MU_ACC_STATUS_trunc_wrap), (Fld.MU_HIGH_COUNT_count, Fld.MU_ACC_STATUS_high_wrap),
   (Fld.VU_ESCAPE_COUNT_count, Fld.VU_ACC_STATUS_escape_wrap), (Fld.VU_TRUNC_COUNT_count, Fld.VU_ACC_STATUS_trunc_wrap),
   (Fld.VU_HIGH_COUNT_count, Fld.VU_ACC_STATUS_high_wrap)]

/-- The flags of a slot that a record ORs. -/
def escFields : List Field :=
  [Fld.MU_ACC_STATUS_esc_pos, Fld.MU_ACC_STATUS_esc_neg, Fld.VU_ACC_STATUS_esc_pos, Fld.VU_ACC_STATUS_esc_neg]

/-- The counts, flags and settings of a slot at a kernel's start. -/
def State.loadCounters (s : State) (i : Nat) (d : List Byte) : State :=
  let s := countFields.foldl (fun s f => (s.set f.1 i 0).set f.2 i 0) s
  let s := escFields.foldl (fun s f => s.set f i 0) s
  s.setAll i [(Fld.VU_FMT_STATUS_clip_event, 0), (Fld.MU_SCALE_RANGE_scale_min, fieldAt d 0x40 1),
    (Fld.MU_SCALE_RANGE_scale_max, fieldAt d 0x41 1), (Fld.VU_CLIP_CTRL_clip_limit, fieldAt d 0x42 2),
    (Fld.VU_CLIP_CTRL_window_log2, fieldAt d 0x44 1 % 32), (Fld.MU_ANCHOR_01_anchor0, fieldAt d 0x38 2),
    (Fld.MU_ANCHOR_01_anchor1, fieldAt d 0x3A 2), (Fld.MU_ANCHOR_23_anchor2, fieldAt d 0x3C 2),
    (Fld.MU_ANCHOR_23_anchor3, fieldAt d 0x3E 2)]

/-- Sums of two lists of counts. -/
def addCounts (a b : List Nat) : List Nat := (List.range 13).map (fun i => a.getD i 0 + b.getD i 0)

/-- Adds the counts of a slot to its kernel. -/
def State.sumCounters (s : State) (c i : Nat) : State :=
  let counts := countFields.map (fun f => s.get f.1 i)
  let wrap := countFields.any (fun f => s.flag f.2 i)
  let esc := (escFields.zipIdx.map (fun f => 2 ^ f.2 * s.get f.1 i)).foldl (· + ·) 0
  s.onKernel c (fun k => { k with
    counts := addCounts k.counts counts, wrap := k.wrap || wrap, clip := k.clip || s.flag Fld.VU_FMT_STATUS_clip_event i, esc := k.esc ||| esc })

/-! ## Replay records (15 R682, R687 to R694) -/

/-- What hashing ranges finds. -/
inductive Hashed where
  | ok (digest : List Byte)
  | away
  | fault (va code : Nat)
  deriving DecidableEq, Repr

/-- The digest of ranges: of each, its length and the digest of its bytes (R682). -/
def State.hashRanges (s : State) (c : Nat) (rs : List (Nat × Nat)) : Hashed × State :=
  let b := s.ctxBasket c
  let (r, s) := rs.foldl (fun (a : Hashed × State) x =>
    match a.1 with
    | .ok acc =>
      (match a.2.devRead b (a.2.ctxAt c).fetched x.1 x.2 1 c with
        | (.ok bs, s) => (.ok (acc ++ leBytes 8 x.2 ++ sha512 bs), s)
        | (.away, s) => (.away, s)
        | (.fault va r l, s) => (.fault va 0x0C, s.recordFault b (.translation va r l))
        | (.poison va, s) => (.fault va 0x0A, s)
        | (.lost m _, s) => (.fault m 0x0F, s))
    | _ => a) (Hashed.ok [], s)
  match r with
  | .ok acc => (.ok (sha512 acc), s)
  | x => (x, s)

/-- The configuration block of a kernel (R690). -/
def configBlock (d : List Byte) (fmt cvt : Nat) : List Byte :=
  let mode := bitsOf (fieldAt d 9 1) 4 2
  (d.take 8) ++ leBytes 1 mode ++ leBytes 1 (fieldAt d 0x44 1) ++ leBytes 2 (if mode = 1 then fieldAt d 0x36 2 else 0) ++
  (d.drop 0x38).take 8 ++ (d.drop 0x40).take 2 ++ (d.drop 0x42).take 2 ++ leBytes 2 fmt ++ leBytes 2 cvt ++ leBytes 4 0

/-- A span that opens. -/
def Span.start (openId lead : Nat) (input : List Byte) : Span :=
  { openId := openId, lead := lead, config := [], kernels := 0, counts := List.replicate 13 0, modes := 0, used := [], sealedAll := true,
    strands := [], fault := false, short := false, wrap := false, ranks := none, mixed := false, input := input }

/-- The span of a context, if one is open. -/
def State.spanOf (s : State) (c : Nat) : Option Span := (s.spans.find? (fun e => e.1 == c)).map Prod.snd

def State.setSpan (s : State) (c : Nat) (x : Option Span) : State :=
  let rest := s.spans.filter (fun e => e.1 != c)
  match x with
  | none => { s with spans := rest }
  | some v => { s with spans := rest.filter (fun e => decide (e.1 < c)) ++ (c, v) :: rest.filter (fun e => decide (c < e.1)) }

/-- Seals used, each kept with its first count of breaks. -/
def addSeals (a b : List (Nat × Nat)) : List (Nat × Nat) := a ++ b.filter (fun x => !a.any (fun y => y.1 == x.1))

/-- The contribution of a kernel to the span it lies in, with the blocks of the other members (R690, R691, R693). -/
def State.spanAdd (s : State) (b : Nat) (x : Span) (k : Kernel) (status : Nat) (blocks : List CountBlock) (counts : List Nat) (wrap short : Bool) : Span :=
  let mode := bitsOf (fieldAt k.desc 9 1) 4 2
  let fmt := blocks.foldl (fun m y => m ||| y.formatMask) k.fmtMask
  let cvt := blocks.foldl (fun m y => m ||| y.cvtMask) k.cvtMask
  let others := (List.range 16).filter (fun i => blocks.any (fun y => bitOf y.sealMask i))
  let ranks := fieldAt k.desc 0x36 2
  { x with
    config := x.config ++ configBlock k.desc fmt cvt, kernels := x.kernels + 1, counts := addCounts x.counts counts, modes := x.modes ||| 2 ^ mode,
    used := addSeals (addSeals x.used k.seals) (others.map (fun i => (i, (s.sealAt b i).breaks))),
    sealedAll := x.sealedAll && k.sealedAll && blocks.all CountBlock.sealedAll,
    strands := (k.strands ++ blocks.flatMap CountBlock.strands).foldl (fun l y => mergeStrand y l) x.strands,
    fault := x.fault || status != 0 || blocks.any (fun y => y.status != 0), short := x.short || short, wrap := x.wrap || wrap,
    mixed := x.mixed || (mode == 1 && x.ranks.isSome && x.ranks != some ranks), ranks := if mode = 1 then some (x.ranks.getD ranks) else x.ranks }

/-- Inserts a digest with its seal in ascending byte order of the digests. -/
def insertSeal (x : Nat × Nat) : List (Nat × Nat) → List (Nat × Nat)
  | [] => [x]
  | y :: ys => if y.1 ≤ x.1 then y :: insertSeal x ys else x :: y :: ys

/-- The seals of a span: digest and index, ascending by digest (R688, R692). -/
def State.spanSeals (s : State) (b : Nat) (x : Span) : List (Nat × Nat) :=
  (x.used.map (fun u => ((s.sealAt b u.1).digest.toNat, u.1))).foldl (fun l y => insertSeal y l) []

/-- The 80 bytes of a seal entry (R692). -/
def State.sealEntry (s : State) (b : Nat) (x : Nat × Nat) : List Byte :=
  let k := b * 16 + x.2
  leBytes 8 (2 ^ 16 * s.get Fld.PG_SEAL_BASE_LO_base_lo k + 2 ^ 32 * s.get Fld.PG_SEAL_BASE_HI_base_hi k) ++
  leBytes 8 (s.get Fld.PG_SEAL_LEN_pages k * 65536) ++ beBytes 64 x.1

/-- The 48 bytes of a strand entry (R692). -/
def strandEntry (x : Strand) : List Byte :=
  leBytes 8 x.seed.toNat ++ leBytes 4 x.sequence.toNat ++ leBytes 4 x.stepMin ++ leBytes 4 x.stepMax ++ leBytes 4 x.posMin ++
  leBytes 4 x.posMax ++ leBytes 4 x.draws ++ leBytes 4 x.temperature.toNat ++ leBytes 4 x.topK.toNat ++ leBytes 4 x.topP.toNat ++
  leBytes 4 (bit x.vary)

/-- A byte string filled with zeros to a length. -/
def padTo (n : Nat) (bs : List Byte) : List Byte := bs ++ List.replicate (n - bs.length) 0

/-- The flags of a replay record (R693). -/
def State.replayFlags (s : State) (b : Nat) (x : Span) : Nat :=
  let broken := x.used.any (fun u => s.get Fld.PG_SEAL_CMD_state (b * 16 + u.1) != 2 || (s.sealAt b u.1).breaks != u.2)
  let kept := x.strands.take 16
  bit x.sealedAll + 2 * bit broken + 4 * bit (decide (16 < x.strands.length)) + 8 * bit (kept.any Strand.vary) + 16 * bit x.fault +
  32 * bit x.short + 64 * bit x.mixed + 128 * bit x.wrap

/-- The replay record of a span that closes, unsigned: 2,560 bytes (R692). -/
def State.replayBody (s : State) (b : Nat) (x : Span) (d output : List Byte) : List Byte :=
  let seals := s.spanSeals b x
  let kept := x.strands.take 16
  let mask := (x.used.map (fun u => 2 ^ u.1)).foldl (· + ·) 0
  let tcb := sha512 ([1, 2, 3, 4].flatMap (fun i => bytes512 ((s.measure i).getD 0)))
  padTo 0x200
    (leBytes 4 0x52524B51 ++ leBytes 2 1 ++ leBytes 1 (s.get Fld.CAP_VERSION_profile 0) ++ leBytes 1 x.modes ++ leBytes 4 (s.replayFlags b x) ++
     leBytes 4 x.kernels ++ leBytes 8 (s.basketUid b) ++ leBytes 8 x.openId ++ d.take 8 ++ leBytes 2 x.lead ++ leBytes 2 (kModules d) ++
     leBytes 4 0 ++ leBytes 8 Config.serial.toNat ++ leBytes 8 0 ++ tcb ++ sha512 x.config ++ x.input ++
     sha512 (seals.flatMap (fun y => beBytes 64 y.1)) ++ output ++ (List.range 13).flatMap (fun i => leBytes 8 (x.counts.getD i 0)) ++
     leBytes 2 mask ++ leBytes 1 seals.length ++ leBytes 1 kept.length) ++
  padTo 0x500 (seals.flatMap (s.sealEntry b)) ++ padTo 0x300 (kept.flatMap strandEntry)

/-- Signs and writes the record at the manifest's address; whether it was written (R694, R695). -/
def State.emitReplay (s : State) (b : Nat) (x : Span) (k : Kernel) (output : List Byte) : Bool × State :=
  let body := s.replayBody b x k.desc output
  let sig := ecdsaSign s.ident.aliasKey s.randomValue.toNat (sha512 body)
  let s := s.drawn
  let va := fieldAt k.manifest 8 7
  let ok := (s.devCheck b va 2816 0).isNone
  (ok, s.devWrite b va (body ++ padTo 256 sig))

/-! ## The end of a kernel (05 R190) -/

/-- The kernel's status: a fault outweighs a stop (R254). -/
def Kernel.status (k : Kernel) : Nat := if k.fault.isSome then 1 else if k.stopped then 3 else 0

/-- The count block of a member. -/
def Kernel.block (k : Kernel) : CountBlock :=
  { status := k.status, counts := k.counts, wrap := k.wrap, clipEvent := k.clip, escFlags := k.esc, formatMask := k.fmtMask,
    cvtMask := k.cvtMask, sealMask := (k.seals.map (fun x => 2 ^ x.1)).foldl (· + ·) 0, sealedAll := k.sealedAll, strands := k.strands }

/-- This module gathers the counts of a kernel. -/
def State.isLead (s : State) (d : List Byte) : Bool := kModules d == 1 || kLead d == s.me

/-- Writes the completion record, lowers the pins and signals (R190 steps 4 to 7). -/
def State.kernelRecord (s : State) (c : Nat) (k : Kernel) (emitted : Bool) : State :=
  let b := s.ctxBasket c
  let d := k.desc
  let lead := s.isLead d
  let blocks := if lead then k.blocks.map Prod.snd else []
  let st := k.status
  let (rank, op, code, info, core) := k.fault.getD (0, 0, 0, 0, 0)
  let code := if code = 0 ∧ k.short then 0x0E else code
  let flags := bit (k.wrap || blocks.any CountBlock.wrap) + 2 * bit (k.clip || blocks.any CountBlock.clipEvent) +
    4 * (blocks.foldl (fun m y => m ||| y.escFlags) k.esc % 16) + 64 * bit (lead && blocks.length + 1 == kModules d) + 128 * bit k.short +
    256 * bit (blocks.any (fun y => y.status != 0)) + 512 * bit emitted
  let r : RecordParts :=
    { kernelId := fieldAt d 0 8, status := st, code := code, rank := rank, op := op, info := info, core := core, total := k.faults,
      flags := flags, counts := blocks.foldl (fun a y => addCounts a y.counts) k.counts, ops := k.opsDone,
      cycles := (s.issueCycles c + 2 ^ 64 - k.cycles) % 2 ^ 64 }
  let (va, s) := s.writeRecord b d r
  (s.onKernel c (fun k => { k with result := some (st, code, va) })).kernelWritten c

/-- The end of a kernel on this module once every count it waits for is in: the span, then the record. -/
def State.kernelFinish (s : State) (c : Nat) : State :=
  match (s.ctxAt c).kernel with
  | none => s
  | some k =>
    let b := s.ctxBasket c
    let blocks := k.blocks.map Prod.snd
    let counts := blocks.foldl (fun a y => addCounts a y.counts) k.counts
    let closes := k.replay && mCloses k.manifest
    match s.spanOf c with
    | none => s.kernelRecord c k false
    | some x =>
      if !s.isLead k.desc then (if closes then s.setSpan c none else s).kernelRecord c k false
      else
        let x := s.spanAdd b x k k.status blocks counts (k.wrap || blocks.any CountBlock.wrap) k.short
        if !closes then (s.setSpan c (some x)).kernelRecord c k false
        else match s.hashRanges c (mRanges k.manifest (mIns k.manifest) (mOuts k.manifest)) with
          | (.away, s) => s.onKernel c (fun k => { k with waiting := some .fetch })
          | (.fault _ _, s) => (s.setSpan c none).kernelRecord c k false
          | (.ok out, s) =>
            let (ok, s) := s.emitReplay b x k out
            (s.setSpan c none).kernelRecord c k ok

/-- The lead has every count block it waits for. -/
def State.gathered (s : State) (k : Kernel) : Bool := !s.isLead k.desc || decide (kModules k.desc ≤ k.blocks.length + 1)

/-- A kernel is over: what the clip windows of its slots hold is tested, and they are discarded (02 R65). -/
def State.closeWindows (s : State) (c : Nat) : State :=
  (s.slotsOf c).foldl (fun s x =>
    match s.siteOf x.1 with
    | none => s
    | some site =>
      let was := s.flag Fld.VU_FMT_STATUS_clip_event (site * 8 + x.2)
      let s := (s.set Fld.VU_FMT_STATUS_clip_event (site * 8 + x.2) 0).closeWindow x.1 x.2 site
      let now := s.flag Fld.VU_FMT_STATUS_clip_event (site * 8 + x.2)
      (if was then s.set Fld.VU_FMT_STATUS_clip_event (site * 8 + x.2) 1 else s).onKernel c (fun k => { k with clip := k.clip || now })) s

/-- Every shard has ended (R190): a member sends its counts to the lead; the lead waits for the others' (steps 1 to 3). The
power arbiter learns the phase's power, which is a free value (13 R613; log entry 101). -/
def State.kernelOver (s : State) (c : Nat) : State :=
  match (s.ctxAt c).kernel with
  | none => s
  | some k =>
    let s := match (s.ctxAt c).phase with
      | none => s
      | some p =>
        let old := s.get Fld.PW_PHASE_MW_mw p
        let m := s.freeValue % 2 ^ 16
        s.drawn.set Fld.PW_PHASE_MW_mw p (if old = 0 then m else (7 * old + m) / 8)
    let s := (s.onCtx c (fun x => { x with phase := none })).closeWindows c
    let s := s.onKernel c (fun k => { k with gathering := true, waiting := none, since := s.time })
    let k := (s.ctxAt c).kernel.getD k
    let s := if s.isLead k.desc then s
      else s.sendMsg (s.ctxBasket c) (kLead k.desc) (fieldAt k.desc 9 1 % 16) (fieldAt k.desc 0 8) (.counts c k.block)
    if s.gathered k then s.kernelFinish c else s

/-! ## Shards (05 R193) -/

/-- A fault of an operation of a shard, kept if it is the first in rank and operation (R253). -/
def Kernel.addFault (k : Kernel) (rank op code info core : Nat) : Kernel :=
  let new := match k.fault with
    | none => true
    | some f => decide (rank < f.1) || (rank == f.1 && decide (op < f.2.1))
  { k with fault := if new then some (rank, op, code, info, core) else k.fault, faults := k.faults + 1 }

/-- Places a shard on a free slot of its context (R189 step 5). -/
def State.placeShard (s : State) (c core slot shard : Nat) : State :=
  match (s.ctxAt c).kernel, s.siteOf core with
  | some k, some site =>
    let s := s.loadCounters (site * 8 + slot) k.desc
    let table := k.tables.getD (if fieldAt k.desc 0x74 4 = 0 then 0 else shard) []
    let s := if table = [] then s else s.lsWrite site ((s.slice site slot).1 + 0x100) table
    let s := (s.clearTags core slot).setShard core slot { ShardRun.none with active := true, shard := shard, window := (s.shardAt core slot).window }
    s.onKernel c (fun k => { k with nextShard := k.nextShard + 1 })
  | _, _ => s

/-- A slot can take a shard. -/
def State.slotFree (s : State) (core slot : Nat) : Bool :=
  !(s.shardAt core slot).active && !s.fc.fenced.contains core && (s.siteOf core).isSome

/-- Places waiting shards on free slots of the context, in ascending order. -/
def State.placeShards (s : State) (c : Nat) : State :=
  (s.slotsOf c).foldl (fun s x =>
    match (s.ctxAt c).kernel with
    | none => s
    | some k =>
      if k.started && k.waiting.isNone && !k.gathering && k.fault.isNone && !k.stopped && s.get Fld.WVR_CTX_STATE_state c != 4 &&
          decide (k.nextShard < kShards k.desc) && s.slotFree x.1 x.2 then
        (s.placeShard c x.1 x.2 k.nextShard).reschedule x.1
      else s) s

/-- A shard ends: its counts are added, and its slot is free; its clip window goes on with the kernel (02 R65, R67; R190). -/
def State.endShard (s : State) (c core slot : Nat) : State :=
  let r := s.shardAt core slot
  match s.siteOf core with
  | none => s.setShard core slot ShardRun.none
  | some site =>
    ((s.sumCounters c (site * 8 + slot)).setShard core slot { ShardRun.none with window := r.window }).onKernel c
      (fun k => { k with ended := k.ended + 1, opsDone := k.opsDone + r.opsDone })

/-- Shards that have issued everything, or been stopped, and have nothing in flight end; waiting ones are placed; the kernel ends
with its last shard (R190, R193, R250). -/
def State.settleKernel (s : State) (c : Nat) : State :=
  let ended := (s.liveShards c).filter (fun x => s.allIssued x.1 x.2 && (s.shardAt x.1 x.2).ops.isEmpty)
  let s := ended.foldl (fun s x => s.endShard c x.1 x.2) s
  let s := (ended.foldl (fun s x => s.reschedule x.1) s).placeShards c
  match (s.ctxAt c).kernel with
  | none => s
  | some k =>
    if k.started && !k.gathering && (s.liveShards c).isEmpty && (k.fault.isSome || k.stopped || decide (kShards k.desc ≤ k.nextShard)) then s.kernelOver c
    else s

/-- An operation of a shard has faulted: the fault is recorded and the shards of its kernel stop (R250). -/
def State.shardFault (s : State) (e : OpEnv) (op code info : Nat) : State :=
  (s.onKernel e.ctx (fun k => k.addFault e.rank op code info e.core)).haltShards e.ctx

/-- A kernel ends with a fault before any shard is placed; no operation has faulted. -/
def State.startFault (s : State) (c code info core : Nat) : State :=
  (s.onKernel c (fun k => { k.addFault (kRankBase k.desc) 0 code info core with faults := k.faults })).kernelOver c

/-! ## The start of a kernel (05 R189) -/

/-- A kernel is refused, or its structures cannot be read: its record, its signal and its item (R188, R380, R727). -/
def State.kernelRefuse (s : State) (c : Nat) (d : List Byte) (status code rank info : Nat) : State :=
  let (va, s) := s.writeRecord (s.ctxBasket c) d (RecordParts.plain (fieldAt d 0 8) status code rank info)
  match (s.ctxAt c).kernel with
  | some _ => (s.onKernel c (fun k => { k with result := some (status, code, va), gathering := true })).kernelWritten c
  | none =>
    let k : Kernel :=
      { desc := d, rankMap := [], objects := [], waiting := none, since := s.time, started := false, nextShard := 0, ended := 0,
        fault := none, faults := 0, stopped := false, counts := List.replicate 13 0, wrap := false, clip := false, esc := 0, opsDone := 0,
        cycles := s.issueCycles c, raised := 0, blocks := [], gathering := true, fmtMask := 0, cvtMask := 0, seals := [], sealedAll := true,
        strands := [], replay := false, tables := [], manifest := [], pinned := 0, short := false, result := some (status, code, va) }
    (s.onCtx c (fun x => { x with kernel := some k })).kernelWritten c

/-- Starts the shards (R189 steps 5 and 6); a context left with no slot ends the kernel with engine-reset (14 R662; log entry 98). -/
def State.kernelPlace (s : State) (c : Nat) : State :=
  let s := s.onKernel c (fun k => { k with waiting := none, started := true })
  if s.slotsOf c = [] then
    let gone := ((List.range 256).find? (fun n => !s.corePresent n)).getD 0
    s.startFault c 0x15 gone gone
  else s.placeShards c

/-- The opening of a span (15 R680): the lead digests the inputs and tells the members; a member waits to be told. -/
def State.kernelSpan (s : State) (c : Nat) : State :=
  match (s.ctxAt c).kernel with
  | none => s
  | some k =>
    let kid := fieldAt k.desc 0 8
    let uid := s.basketUid (s.ctxBasket c)
    if !k.replay || !mOpens k.manifest then s.kernelPlace c
    else if s.isLead k.desc then
      match s.hashRanges c (mRanges k.manifest 0 (mIns k.manifest)) with
      | (.away, s) => s.onKernel c (fun k => { k with waiting := some .fetch })
      | (.fault va code, s) => s.startFault c code va 0
      | (.ok input, s) =>
        let lead := if kModules k.desc = 1 then s.me else kLead k.desc
        let s := s.setSpan c (some (Span.start kid lead input))
        let s := (k.rankMap.filter (fun m => m.1 != s.me)).foldl (fun s m =>
          s.emit (.span (BitVec.ofNat 14 m.1) (BitVec.ofNat 64 uid) (BitVec.ofNat 64 kid))) s
        s.kernelPlace c
    else if s.spanMsgs.contains (uid, kid) then
      ({ s with spanMsgs := s.spanMsgs.erase (uid, kid) }.setSpan c (some (Span.start kid (kLead k.desc) []))).kernelPlace c
    else s.onKernel c (fun k => { k with waiting := some .span, since := if k.waiting = some .span then k.since else s.time })

/-- The phase is reported to the power arbiter (R189 step 4; 13 R611). -/
def State.kernelPhase (s : State) (c : Nat) : State :=
  match (s.ctxAt c).kernel with
  | none => s
  | some k =>
    let p := fieldAt k.desc 0x0A 1
    let s := s.set Fld.PW_PHASE_learn_count p (min 64 (s.get Fld.PW_PHASE_learn_count p + 1))
    let s := (s.onCtx c (fun x => { x with phase := some p })).showState c 3
    s.kernelSpan c

/-- The wait fence (R189 step 3). -/
def State.kernelFence (s : State) (c : Nat) : State :=
  match (s.ctxAt c).kernel with
  | none => s
  | some k =>
    let d := k.desc
    if !bitOf (fieldAt d 0x0B 1) 0 then s.kernelPhase c
    else
      let hold := fun (s : State) => (s.onKernel c (fun k => { k with waiting := some .fence })).showState c 2
      match s.awaitFence (s.ctxBasket c) (fieldAt d 0x50 7) (fieldAt d 0x58 8) (.kernelStart (Fin.ofNat 2048 c)) with
      | (.is .satisfied, s) => s.kernelPhase c
      | (.is .error, s) => s.startFault c 0x10 (fieldAt d 0x50 7) 0
      | (.fault code info, s) => s.startFault c code info 0
      | (_, s) => hold s

/-- Raises pins one after another (R189 step 2; 09 R428, R430). -/
def State.pinFrom (s : State) (b : Nat) : Nat → List (Nat × Nat) → (Nat × Option Nat × Bool) × State
  | n, [] => ((n, none, false), s)
  | n, (h, g) :: os =>
    let o := s.objAt b h
    if o.state ≠ 1 ∨ o.generation ≠ g then ((n, some h, false), s)
    else if 2 ^ 24 - 1 ≤ o.pins then ((n, none, true), s)
    else (s.setObj b h { o with pins := o.pins + 1 }).pinFrom b (n + 1) os

/-- The pins of a kernel start. -/
def State.kernelPins (s : State) (c : Nat) : State :=
  match (s.ctxAt c).kernel with
  | none => s
  | some k =>
    let b := s.ctxBasket c
    match s.pinFrom b k.pinned (k.objects.drop k.pinned) with
    | ((n, some h, _), s) =>
      let s := (s.unpin b ((k.objects.take n).map Prod.fst)).onKernel c (fun k => { k with pinned := 0 })
      s.kernelRefuse c k.desc 2 0x0D (kRankBase k.desc) h
    | ((n, none, true), s) => s.onKernel c (fun k => { k with pinned := n, waiting := some .pins })
    | ((n, none, false), s) => (s.onKernel c (fun k => { k with pinned := n })).kernelFence c

/-- A kernel of more than one module starts only in a piece in state READY (07 R322). -/
def State.kernelReady (s : State) (c : Nat) : State :=
  match (s.ctxAt c).kernel with
  | none => s
  | some k =>
    let st := s.get Fld.CAP_BASKET_state (s.ctxBasket c)
    if kModules k.desc = 1 ∨ st = 2 then s.kernelPins c
    else if st = 1 then s.onKernel c (fun k => { k with waiting := some .ready, since := if k.waiting = some .ready then k.since else s.time })
    else s.kernelRefuse c k.desc 2 0x01 (kRankBase k.desc) (refusalInfo 0 [0x72])

/-- What the structures of a kernel beside its descriptor are. -/
structure KernelParts where
  map : List Byte
  tables : List (List Byte)
  objects : List Byte
  manifest : List Byte
  deriving DecidableEq, Repr

/-- What reading one of them finds. -/
inductive PartRead where
  | ok (p : KernelParts)
  | away
  /-- What the fault names: the lowest address that could not be read, or the module out of reach; and the rank. -/
  | fault (info rank code : Nat)
  deriving DecidableEq, Repr

/-- Reads every range of a list of the piece. -/
def State.readParts (s : State) (c : Nat) : List (Nat × Nat × Nat) → List DevRead × State
  | [] => ([], s)
  | (va, n, _) :: rs =>
    let (x, s) := s.devRead (s.ctxBasket c) (s.ctxAt c).fetched va n 1 c
    let (xs, s) := s.readParts c rs
    (x :: xs, s)

/-- A read that failed: the address it failed at, and the information and the code of the fault. -/
def DevRead.failed : DevRead → Option (Nat × Nat × Nat)
  | .fault va _ _ => some (va, va, 0x0C)
  | .poison va => some (va, va, 0x0A)
  | .lost m va => some (va, m, 0x0F)
  | _ => none

/-- The lowest address at which some of several reads failed: which read, the address, the information and the code. -/
def lowestFault (xs : List DevRead) : Option (Nat × Nat × Nat × Nat) :=
  xs.zipIdx.foldl (fun (a : Option (Nat × Nat × Nat × Nat)) x =>
    match x.1.failed, a with
    | none, a => a
    | some y, none => some (x.2, y)
    | some y, some z => if y.1 < z.2.1 then some (x.2, y) else some z) none

/-- The structures of a kernel beside its descriptor: rank map, tensor tables, object list, replay manifest. Each range has the rank its
fault names. -/
structure KernelRanges where
  map : List (Nat × Nat × Nat)
  tables : List (Nat × Nat × Nat)
  objects : List (Nat × Nat × Nat)
  manifest : List (Nat × Nat × Nat)
  deriving DecidableEq, Repr

/-- The ranges a descriptor at an address names: address, length and rank (05 R185, R193, R727). -/
def kernelRanges (addr : Nat) (d : List Byte) : KernelRanges :=
  let nt := fieldAt d 0x0E 1
  let base := kRankBase d
  let shards := if nt = 0 then 0 else if fieldAt d 0x74 4 = 0 then 1 else kShards d
  { map := if 1 < kModules d then [(fieldAt d 0x78 7, 8 * kModules d, base)] else [],
    tables := (List.range shards).map (fun i => (fieldAt d 0x20 7 + i * fieldAt d 0x74 4, 32 * nt, base + i)),
    objects := if fieldAt d 0x30 2 = 0 then [] else [(fieldAt d 0x28 7, 8 * fieldAt d 0x30 2, base)],
    manifest := if kReplay d then [(addr + 128, 128, base)] else [] }

def KernelRanges.all (r : KernelRanges) : List (Nat × Nat × Nat) := r.map ++ r.tables ++ r.objects ++ r.manifest

/-- Reads the rank map, the tensor tables, the object list and the replay manifest of a descriptor; where some cannot be read, the fault
is at the lowest address (R727). A rank map that cannot be read is treated like the others, with fault_rank rank_base (DEDUCED,
log entry 173: R727 does not name it). -/
def State.kernelParts (s : State) (c : Nat) (addr : Nat) (d : List Byte) : PartRead × State :=
  let r := kernelRanges addr d
  let (xs, s) := s.readParts c r.all
  match lowestFault xs with
  | some (i, _, info, code) =>
    let s := match xs[i]? with
      | some (.fault a r l) => s.recordFault (s.ctxBasket c) (.translation a r l)
      | _ => s
    (.fault info ((r.all.map (fun x => x.2.2)).getD i (kRankBase d)) code, s)
  | none =>
    if xs.any (· == .away) then (.away, s)
    else
      let bytes := xs.map (fun x => match x with
        | .ok bs => bs
        | _ => [])
      let n := r.map.length
      let t := r.tables.length
      (.ok { map := (bytes.take n).flatten, tables := (bytes.drop n).take t,
             objects := ((bytes.drop (n + t)).take r.objects.length).flatten,
             manifest := (bytes.drop (n + t + r.objects.length)).flatten }, s)

/-- The module that holds a page of a basket, where another does. -/
def State.holder (s : State) (b va : Nat) : Option Nat :=
  (s.leafAt b va).bind (fun l => match l.place va with
    | .t3 n => some n
    | .spillT3 n _ => some n
    | _ => none)

/-- A page of a basket lies on a module that is not this one. -/
def State.liesOn (s : State) (b va m : Nat) : Bool := s.holder b va == some m

/-- The lowest part on a module of ranges of a context's command that has not come yet: its address and rank. -/
def State.missingAt (s : State) (c m : Nat) (rs : List (Nat × Nat × Nat)) : Option (Nat × Nat) :=
  (rs.flatMap (fun r => (cutPages r.1 r.2.1).filterMap (fun x =>
    if s.liesOn (s.ctxBasket c) x.1 m && (chunkAt (s.ctxAt c).fetched x.1 x.2).isNone then some (x.1, r.2.2) else none))).foldl
    (fun a x => match a with
      | none => some x
      | some y => if x.1 < y.1 then some x else some y) none

/-- Begins a kernel whose command is in progress: its descriptor and structures are read and checked (R188, R189 step 1). -/
def State.kernelStart (s : State) (c : Nat) : State :=
  match (s.ctxAt c).cmd with
  | none => s
  | some cmd =>
    let b := s.ctxBasket c
    match s.devRead b (s.ctxAt c).fetched cmd.addr 128 1 c with
    | (.away, s) => s
    | (.fault va r l, s) => (s.recordFault b (.translation va r l)).finishCmd c 1 0x0C 0
    | (.poison _, s) => s.finishCmd c 1 0x0A 0
    | (.lost _ _, s) => s.finishCmd c 1 0x0F 0
    | (.ok d, s) =>
      let offs := s.kernelOffends b d
      if !offs.isEmpty then s.kernelRefuse c d 2 0x01 (kRankBase d) (refusalInfo 0 offs)
      else match s.kernelParts c cmd.addr d with
        | (.away, s) => s
        | (.fault va rank code, s) => s.kernelRefuse c d 1 code rank va
        | (.ok p, s) =>
          let lead := s.isLead d
          let bad := p.tables.findIdx? (fun t => !(tableOffends (fieldAt d 0x0E 1) t).isEmpty)
          let mOffs := if kReplay d then manifestOffends (s.spanOf c).isSome lead p.manifest else []
          if 1 < kModules d ∧ !s.rankMapOk d p.map then s.kernelRefuse c d 2 0x01 (kRankBase d) (refusalInfo 0 [0x78])
          else match bad with
          | some i => s.kernelRefuse c d 2 0x01 (kRankBase d + i) (refusalInfo 1 (tableOffends (fieldAt d 0x0E 1) (p.tables.getD i [])))
          | none =>
            if !mOffs.isEmpty then s.kernelRefuse c d 2 0x01 (kRankBase d) (refusalInfo 3 mOffs)
            else
              let k : Kernel :=
                { desc := d, rankMap := if kModules d = 1 then [(s.me, kRankBase d, kShards d)] else rankEntries (kModules d) p.map,
                  objects := (List.range (fieldAt d 0x30 2)).map (fun i => (fieldAt p.objects (8 * i) 4, fieldAt p.objects (8 * i + 4) 4)),
                  waiting := none, since := s.time, started := false, nextShard := 0, ended := 0, fault := none, faults := 0,
                  stopped := false, counts := List.replicate 13 0, wrap := false, clip := false, esc := 0, opsDone := 0,
                  cycles := s.issueCycles c, raised := 0, blocks := [], gathering := false, fmtMask := 0, cvtMask := 0, seals := [],
                  sealedAll := true, strands := [], replay := kReplay d, tables := p.tables, manifest := p.manifest, pinned := 0, short := false,
                  result := none }
              let s := s.onCtx c (fun x => { x with kernel := some k })
              let s := (s.set64 Fld.WVR_CTX_KERNEL_LO_lo Fld.WVR_CTX_KERNEL_HI_hi c (fieldAt d 0 8)).showState c 3
              s.kernelReady c

/-- CMD_KERNEL (R189; 08 R350, R351): the command is taken, or goes on once its structures have come. -/
def execCmdKernel (ctx : Fin 2048) (s : State) : Out :=
  match (s.passBoundary ctx).takeCmd ctx (· == 1) with
  | some (_, true, s) => .next (s.finishCmd ctx 2 0x01 0)
  | some (_, false, s) => .next (s.kernelStart ctx)
  | none =>
    match (s.ctxAt ctx).cmd, (s.ctxAt ctx).kernel, (s.ctxAt ctx).item with
    | some k, none, none => if k.opcode = 1 then .next (s.kernelStart ctx) else .next s
    | _, _, _ => .next s

/-- What a kernel waits for is looked at again. -/
def State.kernelResume (s : State) (c : Nat) : State :=
  match (s.ctxAt c).kernel with
  | none => s
  | some k =>
    match k.waiting with
    | none => s
    | some .ready => s.kernelReady c
    | some .pins => s.kernelPins c
    | some .fence => s.kernelFence c
    | some .span => s.kernelSpan c
    | some .fetch => if k.gathering then s.kernelFinish c else s.kernelSpan c
    | some .record => s.kernelWritten c
    | some .signal => s.kernelSignal c

/-- KERNEL_START_RESUME (R189; 07 R322; 09 R430; 15 R680). -/
def execKernelStartResume (ctx : Fin 2048) (s : State) : Out :=
  match (s.ctxAt ctx).cmd, (s.ctxAt ctx).kernel, (s.ctxAt ctx).item with
  | some k, none, none => if k.opcode = 1 then .next (s.kernelStart ctx) else .next s
  | _, some _, none => .next (s.kernelResume ctx)
  | _, _, _ => .next s

/-- The lead of a kernel, by its id, receives the block of a member (R190 steps 2 and 3; 15 R691). -/
def State.countBlock (s : State) (c m kid : Nat) (block : CountBlock) : State :=
  match (s.ctxAt c).kernel with
  | none => s
  | some k =>
    if fieldAt k.desc 0 8 != kid || !s.isLead k.desc || k.result.isSome || k.short || m == s.me ||
        !k.rankMap.any (fun x => x.1 == m) || k.blocks.any (fun x => x.1 == m) then s
    else
      let k := { k with blocks := k.blocks ++ [(m, block)] }
      let s := s.onKernel c (fun _ => k)
      if k.gathering && s.gathered k then s.kernelFinish c else s

/-- SPAN_OPEN (15 R680): the lead's message reaches a member; it is kept for the kernel it names. -/
def execSpanOpen (src : ModuleId) (uid kernelId : BitVec 64) (s : State) : Out :=
  let x := (uid.toNat, kernelId.toNat)
  let waits := s.contexts.find? (fun c =>
    match c.2.kernel with
    | none => false
    | some k => k.waiting == some .span && fieldAt k.desc 0 8 == x.2 && s.basketUid (s.ctxBasket c.1) == x.1 && kLead k.desc == src.toNat)
  let s := { s with spanMsgs := if s.spanMsgs.contains x then s.spanMsgs else s.spanMsgs ++ [x] }
  match waits with
  | some c => .next (s.kernelSpan c.1)
  | none => .next s

end Sys2Proof.Machine
end

