-- ==== Sys2Proof/Machine/Sequencer.lean ====
section
/-! DEFINITION. Tile operations from issue to completion: fetch, issue and performance, completion, deadlines, and the stop of a
context (05 R195 to R211, R247 to R251; 08 R353 to R374). -/

namespace Sys2Proof.Machine

/-! ## Performing an operation -/

/-- An operation of a shard is performed, as far as it goes now. -/
def State.performOp (s : State) (e : OpEnv) (o : OpRec) (first : Bool) : Did × State :=
  match opCode o.desc with
  | 0x01 => s.doMatmul e o first
  | 0x02 => s.doVec e o first
  | 0x03 => s.doVecReduce e o first
  | 0x04 => s.doConvert e o first
  | 0x08 => s.doMove e o first
  | 0x09 => s.doMove e o first
  | 0x0A => s.doGather e o first
  | 0x0C => if opFlag o.desc 8 0 then s.doReceive e o first else s.doSend e o first
  | 0x0D => s.doReduce e o
  | 0x10 => s.doAttention e o first
  | 0x11 => s.doAppend e o first
  | 0x12 => s.doSample e o first
  | 0x18 => s.doFenceWait e o
  | 0x19 => s.doFenceSignal e o
  | _ => (.done [] [], s)

/-- What an operation has asked of others is withdrawn: its watch, its offers to shards of this module, its DMA requests (05 R250;
08 R373 step 3). -/
def State.withdraw (s : State) (e : OpEnv) (o : OpRec) : State :=
  let s := { s with dma := s.dma.filter (fun d => !(d.core == e.core && d.slot == e.slot && d.op == o.index)) }
  match o.entry with
  | none => s
  | some k =>
    let w := s.ledgerWord e (some k)
    { s with offers := s.offers.filter (fun x => !(x.src == s.me && x.ledger == w)) }.unwatch (e.waiter k)

/-- An operation in flight ends with a fault once it completes, and asks no more of others. -/
def State.failEntry (s : State) (core slot : Nat) (o : OpRec) (code info : Nat) : State :=
  match s.opEnv core slot with
  | none => s.failOp core slot o code info
  | some e => (s.withdraw e o).failOp core slot o code info

/-- A reduction of red_mode 1 is not done before its tree. -/
def OpEnv.treeAfter (e : OpEnv) (o : OpRec) : Bool := opCode o.desc == 0x0D && e.redMode == 1

/-- What performing an operation ended in is kept with it. -/
def State.performed (s : State) (e : OpEnv) (i : Nat) (d : Did) : State :=
  match s.opAt e.core e.slot i with
  | none => s
  | some o =>
    match d with
    | .wait w => s.setOp e.core e.slot { o with waits := w, ready := w.isEmpty && !e.treeAfter o }
    | .done w back => s.setOp e.core e.slot { o with waits := w, back := back, ready := w.isEmpty }
    | .fault c n => s.failEntry e.core e.slot o c n

/-- Performs an operation in flight, and lets the operations that wait for payloads meet what it offers. -/
def State.perform (s : State) (e : OpEnv) (i : Nat) (first : Bool) : State :=
  match s.opAt e.core e.slot i with
  | none => s
  | some o =>
    let (d, s) := s.performOp e o first
    (s.performed e i d).matchOffers

/-- An operation whose pages or lines have come is performed again. -/
def State.retryOp (s : State) (core slot i : Nat) : State :=
  match s.opEnv core slot, s.opAt core slot i with
  | some e, some o =>
    if o.ready || !o.waits.isEmpty then s
    else if opCode o.desc = 0x0D then
      (if !o.sent then s
       else
         let (d, s) := s.doTree e o
         s.performed e i d)
    else s.perform e i false
  | _, _ => s

/-- A page or lines an operation waited for have come. -/
def State.endAccess (s : State) (core slot : Nat) (o : OpRec) (p : Wait → Bool) : State :=
  (s.setOp core slot { o with waits := dropWait p o.waits }).retryOp core slot o.index

/-! ## Counters (R362; 14 R673) -/

/-- A core has completed an operation. -/
def State.progress (s : State) (core : Nat) : State :=
  let s := match s.siteOf core with
    | none => s
    | some site => s.bump64 Fld.WVR_CORE_PROGRESS_LO_count_lo Fld.WVR_CORE_PROGRESS_HI_count_hi site
  s.bump64 Fld.FC_ENG_PROGRESS_LO_lo Fld.FC_ENG_PROGRESS_HI_hi core

/-- The matrix unit accumulates for an operation. -/
def usesMatrix (code : Nat) : Bool := code == 0x01 || code == 0x10

/-- The vector unit executes an operation (05 Table 7). -/
def usesVector (code : Nat) : Bool := [0x02, 0x03, 0x04, 0x0D, 0x10, 0x12].contains code

/-- The operations in flight on a core. -/
def State.coreOps (s : State) (core : Nat) : List OpRec := (s.coreSlots core).flatMap (fun x => (s.shardAt core x.1).ops)

/-- How many operations of the matrix unit are in flight on a core. -/
def State.matrixOps (s : State) (core : Nat) : Nat := ((s.coreOps core).filter (fun o => usesMatrix (opCode o.desc))).length

/-- Shows what the units of a core do, when an operation of a core that had `n` of the matrix unit in flight has issued or left: the
oldest of several is written back while the next accumulates, and the lane arrays take turns (04 R130, R179; log entry 169). -/
def State.showUnits (s : State) (core n : Nat) (matrix leaves : Bool) : State :=
  match s.siteOf core with
  | none => s
  | some site =>
    let ops := s.coreOps core
    let m := s.matrixOps core
    let turn := matrix && (n == 1 || (leaves && decide (3 ≤ n)))
    s.setAll site [(Fld.MU_STATUS_busy, bit (m != 0)), (Fld.MU_STATUS_writeback, bit (decide (2 ≤ m))),
      (Fld.MU_STATUS_array_sel, if turn then 1 - s.get Fld.MU_STATUS_array_sel site else s.get Fld.MU_STATUS_array_sel site),
      (Fld.VU_STATUS_busy, bit (ops.any (fun o => usesVector (opCode o.desc))))]

/-- The bytes a LOAD or STORE delivers: a Splint tensor that stays one goes as whole images (05 R222; 02 R31). -/
def movedBytes (src dst : Tensor) (rows cols : Nat) : Nat :=
  if isSplint src.fmt ∧ src.fmt = dst.fmt then (rows + 255) / 256 * ((cols + 255) / 256) * imageStride src.fmt else payloadLen dst rows cols

/-- The bytes an operation of the move engine delivers: elements, scales and flags of its target, once for each peer of a send; partials
as LONG128 values and flag bytes, or as FP32 codes under red_mode 1 (log entry 102). -/
def State.moveBytes (s : State) (e : OpEnv) (o : OpRec) : Nat :=
  let d := o.desc
  let kv := opTensor e d 9
  let peers := (((List.range (opField d 26 2)).map (· + opField d 24 2)).filter (· != e.rank)).length
  let lane := if e.redMode = 1 then 4 else 17
  match opCode d with
  | 0x08 => movedBytes (opTensor e d 8) kv (opField d 10 2 + 1) (opField d 12 4)
  | 0x09 => movedBytes (opTensor e d 8) kv (opField d 10 2 + 1) (opField d 12 4)
  | 0x0A => payloadLen kv (opField d 12 2 + 1) (opField d 24 4)
  | 0x11 => payloadLen kv (opField d 12 2 + 1) kv.cols
  | 0x0C =>
    let t := exchangeTile e d false
    if opFlag d 8 1 then
      let h := AccHead.of (s.localStore.read (e.site * 2 ^ 21 + e.sliceBase + bitsOf (opField d 14 2) 0 15 * 64) 64)
      h.rows * h.cols * (opBits d 11 0 6 + 1) * lane * peers
    else payloadLen t.t t.n t.m * (if opFlag d 8 0 then 1 else peers)
  | 0x0D =>
    (match o.parts.head? with
      | none => 0
      | some p =>
        let x := Reduction.of d
        if e.redMode = 1 then payloadLen (opTensor e d 20) p.rows (p.cols * x.count) else p.rows * p.cols * x.count * 17)
  | _ => 0

/-- The cycles the units have worked for an operation, as its completion reports them, and the bytes it has delivered: none where it
faulted or was ended by a stop before it was done (R362; log entry 25). -/
def State.account (s : State) (e : OpEnv) (o : OpRec) (cycles : Nat) : State :=
  let code := opCode o.desc
  let s := if usesMatrix code then s.bump64 Fld.WVR_CTX_MU_LO_lo Fld.WVR_CTX_MU_HI_hi e.ctx cycles else s
  let s := if usesVector code then s.bump64 Fld.WVR_CTX_VU_LO_lo Fld.WVR_CTX_VU_HI_hi e.ctx cycles else s
  if o.ready && o.fault.isNone then s.bump64 Fld.WVR_CTX_MOVE_LO_lo Fld.WVR_CTX_MOVE_HI_hi e.ctx (s.moveBytes e o) else s

/-! ## Issue (R195, R203 to R206, R210; 08 R366, R370, R371) -/

/-- The formats and conversion controls of an operation, for a replay record (15 R690; 05 R728; log entry 86). -/
def State.noteFormats (s : State) (e : OpEnv) (d : List Byte) : State :=
  let code := opCode d
  let ts := (opTensors e d).map (opTensor e d)
  let fmts := (ts.map (fun t => 2 ^ t.fmt)).foldl (· ||| ·) 0
  let differ := (ts.map Tensor.fmt).eraseDups.length != 1
  let conv := code == 0x04 || ((code == 0x09 || code == 0x11) && differ) || (code == 0x0D && e.redMode == 1) || code == 0x10
  s.onKernel e.ctx (fun k => { k with fmtMask := k.fmtMask ||| fmts, cvtMask := if conv then k.cvtMask ||| 2 ^ (opCvt d % 16) else k.cvtMask })

/-- The deadline of the ledger entry an operation takes. -/
def State.entryDeadline (s : State) (d : List Byte) : Option Nat :=
  if opCode d = 0x18 then (if opField d 24 4 = 0 then none else some (s.time + opField d 24 4)) else some (s.time + s.remoteTimeout)

/-- The place in the order of issue of the next operation of a core. -/
def State.nextOrder (s : State) (core : Nat) : Nat := ((s.coreOps core).map OpRec.order).foldl max 0 + 1

/-- An operation as it issues. -/
def freshOp (index order : Nat) (desc : List Byte) (entry : Option Nat) : OpRec :=
  { index := index, order := order, desc := desc, entry := entry, waits := [], pages := [], places := [], fetched := [], back := [], top := none, parts := [], sent := false, ready := false,
    fault := none }

/-- An IDLE issues and completes in the same cycle. -/
def State.issueIdle (s : State) (e : OpEnv) (d : List Byte) : State :=
  let r := s.shardAt e.core e.slot
  (s.setShard e.core e.slot { r with next := r.next + 1, head := none, opsDone := r.opsDone + 1 }).progress e.core

/-- An operation issues: its tag counts up, it takes its ledger entry, and it is performed. -/
def State.issue (s : State) (e : OpEnv) (d : List Byte) : State :=
  let r := s.shardAt e.core e.slot
  let entry := if takesEntry e d then s.ledgerFree e.core e.slot else none
  let o := freshOp r.next (s.nextOrder e.core) d entry
  let n := s.matrixOps e.core
  let s := s.setShard e.core e.slot { r with next := r.next + 1, head := none, ops := r.ops ++ [o] }
  let t := opBits d 1 0 6
  let s := if opFlag d 1 6 then s.setTag e.core e.slot t (s.tagAt e.core e.slot t + 1) else s
  let s := match entry with
    | none => s
    | some k => s.setLedger e.core e.slot k { used := true, gen := (s.ledgerAt e.core e.slot k).gen, deadline := s.entryDeadline d }
  ((s.showUnits e.core n (usesMatrix (opCode d)) false).noteFormats e d).perform e r.next true

/-- The descriptor at the head of a shard's list, fetched if it has not been: none while it is not to be had. -/
def State.fetchHead (s : State) (e : OpEnv) : Option (List Byte) × State :=
  let r := s.shardAt e.core e.slot
  match r.head with
  | some d => (some d, s)
  | none =>
    let va := opAddress e.kern e.shard r.next
    let (_, s) := s.xlate e.core e.basket va
    match s.devRead e.basket (s.ctxAt e.ctx).fetched va 32 1 e.ctx with
    | (.ok d, s) => (some d, s.setShard e.core e.slot { r with head := some d })
    | (.away, s) => (none, s)
    | (.fault a x l, s) => (none, (s.recordFault e.basket (.translation a x l)).shardFault e r.next 0x0C a)
    | (.poison a, s) => (none, s.shardFault e r.next 0x0A a)
    | (.lost m _, s) => (none, s.shardFault e r.next 0x0F m)

/-- What refuses the descriptor at a shard's head (05 R200, R237). -/
def State.headRefusal (s : State) (e : OpEnv) (d : List Byte) : Option (Nat × Nat) :=
  let clash := offends (s.reduceOverlap e d) 14
  match opRefusal e d with
  | some (c, n) => some (c, if opOffends e d = [] then n else refusalInfo 4 (opOffends e d ++ clash))
  | none => if clash = [] then none else some (0x01, refusalInfo 4 clash)

/-- A slot is the one its core's sequencer issues from, and has something to issue. -/
def State.mayIssue (s : State) (core slot : Nat) : Bool :=
  !s.halted && (s.slotAt core slot).state == .running && (s.shardAt core slot).active && !s.allIssued core slot && !s.fc.fenced.contains core &&
  !s.gated (coreHalf core)

/-- After something has happened to a shard: what ends, ends, and the sequencer looks again. -/
def State.settleSlotOf (s : State) (e : OpEnv) : State := (s.settleKernel e.ctx).reschedule e.core

/-- The entries of the tensor table that an operation names are read from the copy in its slice, where an uncorrectable error faults it
(04 R141; 08 R365). -/
def State.tableWords (s : State) (e : OpEnv) : List Nat → Option (Nat × Nat) × State
  | [] => (none, s)
  | t :: ts =>
    match s.lsRead e.site (e.sliceBase + 0x100 + 32 * t) 32 with
    | (.fault c n, s) => (some (c, n), s)
    | (_, s) => s.tableWords e ts

/-- The row of a tile operation: if the running slot's next operation is of the row, it is refused, issues, or holds its shard
back. An operation refused here, or whose descriptor cannot be had, has not issued and counts as none completed (DESIGN CHOICE, log
entry 170: 04 R180 does not say). -/
def State.opRow (s : State) (core slot : Nat) (want : List Byte → Bool) : State :=
  if !s.mayIssue core slot then s
  else match s.opEnv core slot with
    | none => s
    | some e =>
      match s.fetchHead e with
      | (none, s) => s.settleSlotOf e
      | (some d, s) =>
        if !want d then s
        else match s.tableWords e (((opTensors e d).map (fun o => opBits d o 0 6)).filter (fun t => decide (t < e.tensors.length))) with
        | (some (c, n), s) => (s.shardFault e (s.shardAt core slot).next c n).settleSlotOf e
        | (none, s) =>
          match s.headRefusal e d with
          | some (c, n) => (s.shardFault e (s.shardAt core slot).next c n).settleSlotOf e
          | none =>
            if !s.issuable e (s.shardAt core slot) d then s.reschedule core
            else (if opCode d = 0 then s.issueIdle e d else s.issue e d).settleSlotOf e

/-- Whether a descriptor has an opcode. -/
def isOp (code : Nat) (d : List Byte) : Bool := opCode d == code

/-- IDLE (05 R210). A descriptor of a reserved opcode is refused by this row too (R199, R200; log entry 93). -/
def execOpIdle (core : Fin 256) (slot : Fin 8) (s : State) : Out :=
  .next (s.opRow core slot (fun d => opCode d == 0 || !opCodes.contains (opCode d)))

/-- MATMUL (05 R211 to R214). -/
def execOpMatmul (core : Fin 256) (slot : Fin 8) (s : State) : Out := .next (s.opRow core slot (isOp 0x01))

/-- VEC (05 R215, R216). -/
def execOpVec (core : Fin 256) (slot : Fin 8) (s : State) : Out := .next (s.opRow core slot (isOp 0x02))

/-- VEC_REDUCE (05 R217). -/
def execOpVecReduce (core : Fin 256) (slot : Fin 8) (s : State) : Out := .next (s.opRow core slot (isOp 0x03))

/-- CONVERT (05 R218 to R221). -/
def execOpConvert (core : Fin 256) (slot : Fin 8) (s : State) : Out := .next (s.opRow core slot (isOp 0x04))

/-- LOAD (05 R222 to R226). -/
def execOpLoad (core : Fin 256) (slot : Fin 8) (s : State) : Out := .next (s.opRow core slot (isOp 0x08))

/-- STORE (05 R222 to R226). -/
def execOpStore (core : Fin 256) (slot : Fin 8) (s : State) : Out := .next (s.opRow core slot (isOp 0x09))

/-- GATHER (05 R227, R228). -/
def execOpGather (core : Fin 256) (slot : Fin 8) (s : State) : Out := .next (s.opRow core slot (isOp 0x0A))

/-- EXCHANGE that sends (05 R229, R230, R233). -/
def execOpExchangeSend (core : Fin 256) (slot : Fin 8) (s : State) : Out :=
  .next (s.opRow core slot (fun d => opCode d == 0x0C && !opFlag d 8 0))

/-- EXCHANGE that receives (05 R231 to R233). -/
def execOpExchangeReceive (core : Fin 256) (slot : Fin 8) (s : State) : Out :=
  .next (s.opRow core slot (fun d => opCode d == 0x0C && opFlag d 8 0))

/-- REDUCE_LONG (05 R234 to R237). -/
def execOpReduceLong (core : Fin 256) (slot : Fin 8) (s : State) : Out := .next (s.opRow core slot (isOp 0x0D))

/-- ATTENTION (05 R238 to R242). -/
def execOpAttention (core : Fin 256) (slot : Fin 8) (s : State) : Out := .next (s.opRow core slot (isOp 0x10))

/-- KV_APPEND (05 R243, R244). -/
def execOpKvAppend (core : Fin 256) (slot : Fin 8) (s : State) : Out := .next (s.opRow core slot (isOp 0x11))

/-- SAMPLE (05 R245, R246; 06 R284 to R300). -/
def execOpSample (core : Fin 256) (slot : Fin 8) (s : State) : Out := .next (s.opRow core slot (isOp 0x12))

/-- FENCE_WAIT (05 R247, R248). -/
def execOpFenceWait (core : Fin 256) (slot : Fin 8) (s : State) : Out := .next (s.opRow core slot (isOp 0x18))

/-- FENCE_SIGNAL (05 R249). -/
def execOpFenceSignal (core : Fin 256) (slot : Fin 8) (s : State) : Out := .next (s.opRow core slot (isOp 0x19))

/-! ## Completion (R203, R206; 08 R369; 03 R101) -/

/-- The units an operation must complete on in issue order. -/
def sameUnit (a b : Nat) : Bool := (usesMatrix a && usesMatrix b) || (usesVector a && usesVector b)

/-- No operation in flight on a core that issued before one must complete before it: those of its unit, whatever their slots. -/
def State.firstOfUnit (s : State) (core : Nat) (o : OpRec) : Bool :=
  !(s.coreOps core).any (fun x => decide (x.order < o.order) && sameUnit (opCode x.desc) (opCode o.desc))

/-- An operation leaves its shard: its tag counts down, its ledger entry is free, and it is counted. -/
def State.opLeaves (s : State) (e : OpEnv) (o : OpRec) (cycles : Nat) : State :=
  let s := s.withdraw e o
  let n := s.matrixOps e.core
  let r := s.shardAt e.core e.slot
  let s := s.setShard e.core e.slot { r with ops := r.ops.filter (fun x => x.index != o.index), opsDone := r.opsDone + 1 }
  let t := opBits o.desc 1 0 6
  let s := if opFlag o.desc 1 6 then s.setTag e.core e.slot t (s.tagAt e.core e.slot t - 1) else s
  let s := match o.entry with
    | none => s
    | some k => s.freeEntry e.core e.slot k
  ((s.showUnits e.core n (usesMatrix (opCode o.desc)) true).progress e.core).account e o cycles

/-- An operation completes: what it holds back is written, unless it faulted, and it leaves. -/
def State.complete (s : State) (e : OpEnv) (o : OpRec) (cycles : Nat) : State :=
  let s := if o.fault.isNone then o.back.foldl (fun s b => s.lsWrite e.site (e.sliceBase + b.1) b.2) (s.appendLength e o) else s
  let s := s.opLeaves e o cycles
  match o.fault with
  | none => s
  | some (c, n) => s.shardFault e o.index c n

/-- OPERATION_COMPLETE (05 R203, R206; 08 R369). Nothing executes in a half whose clock is stopped (04 R159, R170). -/
def execOperationComplete (core : Fin 256) (slot : Fin 8) (op : Nat) (cycles : Nat) (s : State) : Out :=
  match s.opEnv core slot, s.opAt core slot op with
  | some e, some o =>
    if !o.ready || !s.firstOfUnit core o || s.gated (coreHalf core) then .next s
    else .next ((s.complete e o cycles).settleSlotOf e)
  | _, _ => .next s

/-- REDUCE_TREE_START (03 R100 to R102): every partial has arrived. -/
def execReduceTreeStart (core : Fin 256) (slot : Fin 8) (e : Fin 64) (s : State) : Out :=
  match s.opEnv core slot, (s.shardAt core slot).ops.find? (fun o => o.entry == some e.val) with
  | some v, some o =>
    if !v.treeAfter o || o.ready || o.sent || !o.waits.isEmpty || s.gated (coreHalf core) then .next s
    else
      let (d, s) := s.doTree v o
      let s := match s.opAt core slot o.index with
        | none => s
        | some o => s.setOp core slot { o with sent := true }
      .next (s.performed v o.index d)
  | _, _ => .next s

/-! ## Deadlines (08 R370, R371) -/

/-- The peer a wait is for: a module or a rank (05 Table 22). -/
def State.waitPeer (s : State) (w : Wait) : Nat :=
  match w with
  | .take m _ => m
  | .read m _ _ => m
  | .written m _ => m
  | .signalled m _ => m
  | .payload r => r
  | .partials r => r
  | .move id =>
    (match (s.moves.find? (fun m => m.id == id)).map Move.kind with
      | some (.bringT3 m _) => m
      | some (.spillT3 m _) => m
      | _ => s.me)
  | .dma _ => s.me
  | .fence _ => s.me

/-- A remote timeout of a context has been seen. -/
def State.timeoutSeen (s : State) (c : Nat) : State := s.set Fld.WVR_CTX_STATUS_timeout_seen c 1

/-- The operation of a ledger entry whose deadline has come, and that is not done. -/
def State.overdue (s : State) (core slot e : Nat) : Option OpRec :=
  let l := s.ledgerAt core slot e
  match l.deadline with
  | none => none
  | some t =>
    if !l.used || decide (s.time < t) then none
    else (s.shardAt core slot).ops.find? (fun o => o.entry == some e && !o.ready)

/-- LEDGER_DEADLINE (08 R370). -/
def execLedgerDeadline (core : Fin 256) (slot : Fin 8) (e : Fin 64) (s : State) : Out :=
  match s.overdue core slot e with
  | none => .next s
  | some o =>
    if opCode o.desc = 0x18 then .next s
    else .next ((s.failEntry core slot o 0x0E ((o.waits.head?.map s.waitPeer).getD s.me)).timeoutSeen (s.slotAt core slot).ctx)

/-- FENCE_WAIT_TIMEOUT (05 R248; 08 R371). -/
def execFenceWaitTimeout (core : Fin 256) (slot : Fin 8) (e : Fin 64) (s : State) : Out :=
  match s.overdue core slot e with
  | none => .next s
  | some o => if opCode o.desc = 0x18 then .next (s.failEntry core slot o 0x11 (opField o.desc 8 7)) else .next s

/-! ## Stopping a context (08 R373, R374) -/

/-- The control register of a context. -/
def ctxCtrl (c : Nat) : Nat := 0x30008 + 64 * c

/-- CONTEXT_STOP (08 R373 steps 1 and 2). -/
def execContextStop (a : Agent) (ctx : Fin 2048) (v : Word32) (s : State) : Out :=
  if !s.takes a (ctxCtrl ctx) then .next s
  else
    let s := s.mmioWrite a (ctxCtrl ctx) v.toNat
    if !bitOf v.toNat 0 then .next s
    else
      let s := s.requestStop ctx
      .next (if s.get Fld.WVR_CTX_STATE_state ctx = 4 then s.haltShards ctx else s)

/-- A stop asked for during a step takes effect after it (R373). -/
def State.stopAfterStep (s : State) (c : Nat) : State :=
  if s.flag Fld.WVR_CTX_CTRL_stop c && s.get Fld.WVR_CTX_STATE_state c != 4 then (s.set Fld.WVR_CTX_STATE_state c 4).haltShards c else s

/-- The operations in flight of a context. -/
def State.opsOf (s : State) (c : Nat) : List (Nat × Nat × OpRec) :=
  (s.liveShards c).flatMap (fun x => (s.shardAt x.1 x.2).ops.map (fun o => (x.1, x.2, o)))

/-- Every ledger entry of a context completes at once: one that is not done without a fault and without its further effect
(step 3). -/
def State.endEntries (s : State) (c : Nat) : State :=
  (s.opsOf c).foldl (fun s x =>
    match s.opEnv x.1 x.2.1 with
    | none => s
    | some e => if x.2.2.ready then s.complete e x.2.2 0 else s.opLeaves e x.2.2 0) s

/-- A kernel whose structures are still being read ends with status STOPPED: with its record and its signal, once its descriptor has come;
with its item alone before (R373 step 4, R380). -/
def State.stopFetch (s : State) (c : Nat) (k : Cmd) : State :=
  match s.devRead (s.ctxBasket c) (s.ctxAt c).fetched k.addr 128 1 c with
  | (.ok d, s) => if (s.kernelOffends (s.ctxBasket c) d).isEmpty then s.kernelRefuse c d 3 0 (kRankBase d) 0 else s.finishCmd c 3 0 0
  | (_, s) => s.finishCmd c 3 0 0

/-- The kernel of a stopping context ends with status STOPPED (step 4). -/
def State.stopKernel (s : State) (c : Nat) : State :=
  match (s.ctxAt c).kernel with
  | none =>
    (match (s.ctxAt c).cmd with
      | some k => if k.opcode = 1 ∧ (s.ctxAt c).item = none then s.stopFetch c k else s
      | none => s)
  | some k =>
    if k.gathering then s
    else
      let s := s.onKernel c (fun k => { k with stopped := true })
      if k.started then s.settleKernel c else (s.unwatch (.kernelStart (Fin.ofNat 2048 c))).kernelOver c

/-- A FENCE_WAIT command in progress completes with status STOPPED (step 5). -/
def State.stopWait (s : State) (c : Nat) : State :=
  match (s.ctxAt c).cmd with
  | some k =>
    if k.opcode = 3 ∧ (s.ctxAt c).item = none then (s.unwatch (.command (Fin.ofNat 2048 c))).finishCmd c 3 0 0 else s
  | none => s

/-- Posts the completion item a context holds, if the completion queue has room. -/
def State.postItem (s : State) (c : Nat) : State :=
  match (s.ctxAt c).item, s.ctxQueue c 1 with
  | some x, some q => if s.queueHeld q < s.queueDepth q then (s.pushEntry q x).cmdOver c else s
  | some _, none => s.cmdOver c
  | none, _ => s

/-- Consumes held commands unexecuted, each with an item of status STOPPED (step 6), as far as credits and the head buffer go. -/
def State.discardHeld (s : State) (c q : Nat) : Nat → State
  | 0 => s
  | n + 1 =>
    match (if (s.ctxAt c).cmd.isNone then (s.queueAt q).head else []) with
    | [] => s
    | x :: _ =>
      let k := s.cmdOf c q x
      match s.popEntry q with
      | none => s
      | some (_, s) => (((s.onCtx c (fun y => { y with cmd := some k })).finishCmd c 3 0 0).postItem c).discardHeld c q n

/-- A stopping context holds nothing more: it is STOPPED (step 7), and an open span is discarded (15 R678). -/
def State.stopped (s : State) (c : Nat) : State :=
  (s.setSpan c none).setAll c [(Fld.WVR_CTX_STATE_state, 5), (Fld.WVR_CTX_STATUS_stopped, 1), (Fld.WVR_CTX_CTRL_stop, 0)]

/-- CONTEXT_STOPPED (08 R373 steps 2 to 7), as far as it goes now. -/
def execContextStopped (ctx : Fin 2048) (s : State) : Out :=
  if s.get Fld.WVR_CTX_STATE_state ctx ≠ 4 ∨ (s.ctxAt ctx).stepRunning = true then .next s
  else if (s.opsOf ctx).any (fun x => x.2.2.entry.isNone) then .next s
  else
    let s := (((s.endEntries ctx).stopKernel ctx).stopWait ctx).postItem ctx
    let s := s.rescheduleCtx ctx
    if (s.ctxAt ctx).cmd.isSome || (s.ctxAt ctx).kernel.isSome then .next s
    else match (if s.flag Fld.WVR_CTX_CTRL_discard ctx then s.ctxQueue ctx 0 else none) with
      | none => .next (s.stopped ctx)
      | some q =>
        let s := s.discardHeld ctx q (s.queueHeld q)
        .next (if s.queueHeld q = 0 ∧ (s.ctxAt ctx).cmd = none then s.stopped ctx else s)

/-- CONTEXT_RESUME (08 R374). -/
def execContextResume (a : Agent) (ctx : Fin 2048) (v : Word32) (s : State) : Out :=
  if !s.takes a (ctxCtrl ctx) then .next s
  else
    let s := s.mmioWrite a (ctxCtrl ctx) v.toNat
    .next (if bitOf v.toNat 1 && s.get Fld.WVR_CTX_STATE_state ctx == 5 then s.set Fld.WVR_CTX_STATE_state ctx 1 else s)

end Sys2Proof.Machine
end

