-- ==== Sys2Proof/Machine/Weights.lean ====
section
/-! DEFINITION. Weight bundles and their import (12 R572 to R577, R586). -/

namespace Sys2Proof.Machine

/-- The lid of a partition. -/
def State.lidAt (s : State) (p : Nat) : LidRec := Sparse.get LidRec.none s.lids p

/-- Replaces the lid of a partition. -/
def State.setLid (s : State) (p : Nat) (r : LidRec) : State := { s with lids := Sparse.set LidRec.none s.lids p r }

/-- The four plait-verification keys of a partition's lid, of 133 bytes each (12 R563). -/
def State.plaitKeys (s : State) (p : Nat) : List (List Byte) :=
  (List.range 4).map (fun k => ((s.lidAt p).charter.drop (0x120 + 133 * k)).take 133)

/-- Bytes that have come are joined to those that lie next to them. -/
def addChunk (a : Nat) (bs : List Byte) : List (Nat × List Byte) → List (Nat × List Byte)
  | [] => [(a, bs)]
  | (c, x) :: cs =>
    if x.isEmpty then (c, x) :: addChunk a bs cs
    else if c + x.length = a then (c, x ++ bs) :: cs
    else if a + bs.length = c then (a, bs ++ x) :: cs
    else (c, x) :: addChunk a bs cs

/-! ## The bundle (R572 to R574) -/

/-- Bytes of a bundle before its signature, with so many recipient entries. -/
def bundleSigned (recipients : Nat) : Nat := 0x100 + 112 * recipients

/-- Where its chunks begin. -/
def bundleChunks (recipients : Nat) : Nat := (bundleSigned recipients + 132 + 63) / 64 * 64

/-- Fields of a bundle's header. -/
def bundleRecipients (h : List Byte) : Nat := fieldAt h 0x18 2

def bundleLen (h : List Byte) : Nat := fieldAt h 0x10 8

/-- All bytes of a part of a header are zero. -/
def zeroAt (h : List Byte) (off n : Nat) : Bool := ((h.drop off).take n).all (· == 0)

/-- A bundle's header is well formed: magic, version, reserved bytes, a length and a number of recipients in range, and an ephemeral
key where and only where there are recipients (R573). -/
def bundleOk (h : List Byte) : Bool :=
  fieldAt h 0 4 == 0x42574B51 && fieldAt h 4 2 == 1 && decide (fieldAt h 6 1 < 4) && zeroAt h 7 1 &&
  bundleLen h != 0 && bundleLen h % 64 == 0 && decide (bundleRecipients h ≤ 16384) && zeroAt h 0x1A 6 && zeroAt h 0xA5 27 &&
  (if bundleRecipients h = 0 then zeroAt h 0x20 133 else (pointOf ((h.drop 0x20).take 133)).isSome)

/-- The digest of this module's binding public key, which names its entry. -/
def State.bindingDigest (s : State) : List Byte := sha512 (pointBytes (publicKey s.ident.bindingKey))

/-- The recipient entry of this module. -/
def State.bundleEntry (s : State) (bs : List Byte) : Option (List Byte) :=
  ((List.range (bundleRecipients bs)).map (fun j => (bs.drop (0x100 + 112 * j)).take 112)).find?
    (fun e => e.take 64 == s.bindingDigest)

/-- The key-encryption key of an entry (R574). -/
def State.entryKek (s : State) (bs entry : List Byte) : List Byte :=
  hkdf512 ((bs.drop 8).take 8) (ecdh s.ident.bindingKey (pointOf ((bs.drop 0x20).take 133))) (ascii "QKWB" ++ entry.take 64) 32

/-- The wrap slots a partition can use: those of its range after the two of its lid. -/
def State.wrapSlots (s : State) (p : Nat) : List Nat := (s.keyRange p).drop 2

/-- An EMPTY wrap slot of a partition: the lowest. -/
def State.freeWrap (s : State) (p : Nat) : Option Nat := (s.wrapSlots p).find? s.slotEmpty

/-- A wrap slot released for a bundle, with a use left (R577). -/
def State.releasedWrap (s : State) (p : Nat) (bundle : BitVec 64) : Option Nat :=
  (s.wrapSlots p).find? (fun k => s.slotActive k && s.get Fld.KS_ATTR_class k == 3 && (s.cell k).bundle == some bundle &&
    s.get Fld.KS_USE_use_left k != 0)

/-- Kw, and the slot it takes: its number, or the error code (R575 step 3). -/
def State.bundleKey (s : State) (p : Nat) (bs : List Byte) : (Nat × List Byte) ⊕ Nat :=
  if bundleRecipients bs = 0 then
    match s.releasedWrap p (BitVec.ofNat 64 (fieldAt bs 8 8)) with
    | none => .inr 9
    | some k => .inl (k, keyBytes (s.keyOf k) 32)
  else match s.bundleEntry bs with
    | none => .inr 3
    | some e =>
      match keyUnwrap (s.entryKek bs e) ((e.drop 64).take 40) with
      | none => .inr 4
      | some kw =>
        match s.freeWrap p with
        | none => .inr 9
        | some k => .inl (k, kw)

/-- The plaintext of chunk `i` of a bundle, when its tag verifies (R574). -/
def openChunk (kw id : List Byte) (i : Nat) (chunk : List Byte) : Option (List Byte) :=
  let n := chunk.length - 16
  let iv := leBytes 4 i ++ id
  if gcmTag kw iv [] (chunk.take n) = chunk.drop n then some (gcmCrypt kw iv (chunk.take n)) else none

/-! ## The import (R575, R576) -/

/-- The ledger word of the reads of an import. -/
def importWord : Nat := 255 * 2 ^ 11 + 60 * 2 ^ 19 + 255 * 2 ^ 25

/-- Bytes of a bundle, from where its pages lie. A page elsewhere is asked for once. -/
def State.importRead (s : State) (x : Import) (va n : Nat) : DevRead × Import × State :=
  let (d, asked, s) := s.readOnce x.basket x.got x.asked va n 1 importWord
  (d, { x with asked := asked }, s)

/-- Writes zero to the pages of an import's destination that it may write. -/
def State.zeroRange (s : State) (b va n : Nat) : State :=
  (cutPages va n).foldl (fun s c => if (s.devCheck b c.1 1 2).isNone then s.devWrite b c.1 (List.replicate c.2 0) else s) s

/-- The import of a partition. -/
def State.importAt (s : State) (p : Nat) : Option Import := (s.imports.find? (fun e => e.1 == p)).map Prod.snd

/-- Replaces the import of a partition, or forgets it. -/
def State.setImport (s : State) (p : Nat) (x : Import) : State := { s with imports := Sparse.set Import.none s.imports p x }

/-- A main-path import takes its wrap slot for Kw and empties it again. -/
def Import.mainPath (x : Import) : Bool := bundleRecipients x.head != 0

/-- The wrap slot that an import has taken is empty again (R575 step 7, R576). -/
def State.dropWrap (s : State) (x : Import) : State :=
  match x.key with
  | some (slot, _) => if x.mainPath then s.zeroSlot slot else s
  | none => s

/-- An import ends in an error, which its partition is told; its destination, of a length that is 0 while it is not known, is zero, and so
is the wrap slot it took (R575, R576; log entry 131). -/
def State.importFail (s : State) (p : Nat) (x : Import) (code : Nat) : State :=
  let s := ((s.dropWrap x).zeroRange x.basket x.dst x.len).setImport p Import.none
  (s.setAll p [(Fld.LID_IMPORT_CMD_busy, 0), (Fld.LID_IMPORT_CMD_error, 1), (Fld.LID_IMPORT_CMD_err_code, code)]).report 0x44 p code

/-- Steps 6 and 7 of an import all of whose chunks are stored: the digest is compared, a use spent, and a main-path slot emptied. -/
def State.importEnd (s : State) (p : Nat) (x : Import) (slot : Nat) : State :=
  if sha512 x.plain ≠ (x.head.drop 0xC0).take 64 then s.importFail p x 6
  else
    let s := s.set Fld.KS_USE_use_left slot (s.get Fld.KS_USE_use_left slot - 1)
    ((s.dropWrap x).setImport p Import.none).setAll p [(Fld.LID_IMPORT_CMD_busy, 0), (Fld.LID_IMPORT_CMD_done, 1)]

/-- Step 5 of an import: its chunks are decrypted, stored and counted one after another, as far as their bytes have come. -/
def State.importChunks (s : State) (p : Nat) (x : Import) (slot : Nat) (kw : List Byte) : Nat → State
  | 0 => s.importEnd p x slot
  | n + 1 =>
    let i := x.plain.length / 65536
    let m := min 65536 (x.len - x.plain.length)
    if m = 0 then s.importEnd p x slot
    else match s.importRead x (x.src + bundleChunks (bundleRecipients x.head) + 65552 * i) (m + 16) with
      | (.away, x, s) => s.setImport p x
      | (.ok chunk, x, s) =>
        (match openChunk kw ((x.head.drop 8).take 8) i chunk with
          | none => s.importFail p x 5
          | some bs =>
            ((s.devWrite x.basket (x.dst + x.plain.length) bs).set Fld.LID_IMPORT_CHUNKS_chunks p (i + 1)).importChunks p
              { x with plain := x.plain ++ bs } slot kw n)
      | (_, x, s) => s.importFail p x 5

/-- Steps 3 and 4 of an import whose header has been verified: its wrap slot, and its destination. -/
def State.importKey (s : State) (p : Nat) (x : Import) (bs : List Byte) : State :=
  match s.bundleKey p bs with
  | .inr code => s.importFail p x code
  | .inl (slot, kw) =>
    let x := { x with key := some (slot, kw) }
    let s := if x.mainPath then s.loadKey slot 3 (keyFrom kw) false true 1 else s
    if (s.devCheck x.basket x.dst x.len 2).isSome then s.importFail p x 7
    else s.importChunks p x slot kw ((x.len + 65535) / 65536)

/-- An import goes as far as the bytes that are there let it (R575; log entries 130, 132). -/
def State.importStep (s : State) (p : Nat) : State :=
  match s.importAt p with
  | none => s
  | some x =>
    if s.get Fld.LID_PART_state p ≠ 2 then s.importFail p x 8
    else if s.basketOwner x.basket ≠ some p then s.importFail p x 7
    else match x.key with
    | some (slot, kw) => s.importChunks p x slot kw ((x.len - x.plain.length + 65535) / 65536)
    | none =>
      match s.importRead x x.src 256 with
      | (.away, x, s) => s.setImport p x
      | (.ok h, x, s) =>
        if !bundleOk h then s.importFail p x 1
        else
          let n := bundleRecipients h
          let x := { x with len := bundleLen h, head := h }
          (match s.importRead x x.src (bundleSigned n + 132) with
            | (.away, x, s) => s.setImport p x
            | (.ok bs, x, s) =>
              if ecdsaVerify (pointOf ((s.plaitKeys p).getD (fieldAt h 6 1) [])) (sha512 (bs.take (bundleSigned n))) (bs.drop (bundleSigned n)) then
                s.importKey p x bs
              else s.importFail p x 2
            | (_, x, s) => s.importFail p x 1)
      | (_, x, s) => s.importFail p x 1

/-- Bytes that the imports of a basket have asked for cannot be had (R575). -/
def State.importLost (s : State) (b : Nat) : State :=
  (s.imports.filter (fun e => e.2.basket == b && !e.2.asked.isEmpty)).foldl (fun s e => s.importFail e.1 e.2 (if e.2.key.isSome then 5 else 1)) s

/-- Bytes of a bundle have come from another module. -/
def State.importData (s : State) (b va : Nat) (plain : List Byte) : State :=
  (s.imports.filter (fun e => e.2.basket == b)).foldl (fun s e =>
    (s.setImport e.1 { e.2 with got := addChunk va plain e.2.got }).importStep e.1) s

/-- LID_IMPORT (R575): a write of go starts an import, unless one is busy. -/
def execLidImport (p : Fin 32) (v : Word32) (s : State) : Out :=
  let off := 0xE0410 + 0x20 * p.val
  if !s.takes (.host p) off then .next s
  else
    let busy := s.flag Fld.LID_IMPORT_CMD_busy p
    let s := s.mmioWrite (.host p) off v.toNat
    if !bitOf v.toNat 8 || busy then .next s
    else
      let s := s.setAll p [(Fld.LID_IMPORT_CMD_busy, 1), (Fld.LID_IMPORT_CHUNKS_chunks, 0)]
      let x : Import :=
        { Import.none with
          basket := s.get Fld.LID_IMPORT_CMD_basket_index p
          src := 2 ^ 6 * s.get Fld.LID_IMPORT_SRC_LO_src_lo p + 2 ^ 32 * s.get Fld.LID_IMPORT_SRC_HI_src_hi p
          dst := 2 ^ 6 * s.get Fld.LID_IMPORT_DST_LO_dst_lo p + 2 ^ 32 * s.get Fld.LID_IMPORT_DST_HI_dst_hi p }
      .next ((s.setImport p x).importStep p)

/-- KEY_RELEASE (R577): Kw goes into an EMPTY wrap slot of the lid's partition, which then serves that bundle alone. A count out of range,
or no EMPTY slot, loads nothing (log entry 133). -/
def execKeyRelease (lidId bundleId : BitVec 64) (kw : BitVec 256) (uses : BitVec 24) (s : State) : Out :=
  match s.partitions.find? (fun p => s.get Fld.LID_PART_state p == 2 && s.get64 Fld.LID_ID_LO_id_lo Fld.LID_ID_HI_id_hi p == lidId.toNat) with
  | none => .next s
  | some p =>
    match s.freeWrap p with
    | none => .next s
    | some k =>
      if uses = 0 ∨ uses.toNat = useUncounted then .next s
      else
        let s := s.loadKey k 3 (keyFrom (beBytes 32 kw.toNat)) true true uses.toNat
        .next (s.setCell k { s.cell k with bundle := some bundleId })

end Sys2Proof.Machine
end

