-- ==== Sys2Proof/Machine/Respond.lean ====
section
/-! DEFINITION. Responses in the express slot, fence waits and signals of commands, and fence operations of a driver (05 R230, R726; 08
R350, R367, R368, R376 to R387; 10 R462, R466; 12 R583). -/

namespace Sys2Proof.Machine

/-! ## Page moves that end otherwise (09 R412, R424; 12 R582; 14 R649) -/

/-- Operations that wait for a move try again; fence signals among them do so with the other updates, in the order of their arrival (08 R376). -/
def State.moveOver (s : State) (id : Nat) : State :=
  s.shards.foldl (fun s r =>
    (r.2.ops.filter (fun o => o.waits.contains (.move id) && !s.updates.contains (.op (r.1 / 8) (r.1 % 8) o.index))).foldl (fun s o =>
      match s.opAt (r.1 / 8) (r.1 % 8) o.index with
      | none => s
      | some o => s.endAccess (r.1 / 8) (r.1 % 8) o (· == .move id)) s) s

/-- A guest frame is free again; it stays lent. -/
def State.freeGuest (s : State) (b f : Nat) : State := (s.setFrame f .free).addPages Fld.PG_GUEST_USED_frames b false

/-- A move is given up: the page stays where it was, and the frame it would have filled is free. -/
def State.abandonMove (s : State) (m : Move) : State :=
  let b := m.basket
  let leaf := s.leafAt b m.va
  let s := { s with moves := s.moves.filter (fun x => x.id != m.id) }.bringOver m
  match m.kind, leaf with
  | .guestIn _, _ => s.freeGuest b m.frame
  | _, none => s
  | .bringT3 w g, some l => (s.setLeaf b m.va l 2 0 (w % 2 ^ 14 + g % 2 ^ 32 * 2 ^ 14)).freeFrame b m.frame
  | .bringT4 i, some l => (s.setLeaf b m.va l 2 1 i).freeFrame b m.frame
  | .spillT3 _ _, some l => ((s.poisonForgotten b m.va 1024).setLeaf b m.va l 0 0 m.frame).addPages Fld.PG_RESIDENT_pages b true
  | .spillT4 i, some l => (((s.poisonForgotten b m.va 1024).setLeaf b m.va l 0 0 m.frame).addPages Fld.PG_RESIDENT_pages b true).useT4 b i false
  | .migrate src, some l => (s.setLeaf b m.va l 0 0 src).freeFrame b m.frame

/-! ## Answers -/

/-- A packet type is of the response class. -/
def isResponse (t : Nat) : Bool := t == 2

/-- The kind of RESP that answers a request: 0 take, 2 write done, 3 atomic done, 4 page ready, 6 read done. -/
def answerKind (t : Nat) : Nat := if t = 1 then 6 else if t = 3 then 2 else if t = 4 then 3 else if t = 9 then 4 else 0

/-- Answers a request to its ledger. -/
def State.answer (s : State) (pkt : Packet) (status : Nat) : State :=
  s.emit (.resp pkt.src
    { src := BitVec.ofNat 14 s.me, ctx := BitVec.ofNat 11 pkt.ledger.toNat, shard := BitVec.ofNat 8 (pkt.ledger.toNat / 2 ^ 11),
      entry := BitVec.ofNat 6 (pkt.ledger.toNat / 2 ^ 19), gen := BitVec.ofNat 8 (pkt.ledger.toNat / 2 ^ 25),
      kind := BitVec.ofNat 4 (answerKind pkt.ptype.toNat), status := BitVec.ofNat 4 status })

/-! ## Responses to a ledger entry (08 R367 to R369; 10 R466) -/

/-- A response that nothing waits for is discarded and counted (R368). -/
def State.stale (s : State) : State := s.count Fld.WVR_STALE_RESP_COUNT_count 0 Fld.WVR_STATUS_stale_wrap 0 0

/-- The operation in flight a response is for: its slot and record. Responses for the slots of a fenced core are discarded (14 R649
step 2). -/
def State.respOp (s : State) (r : RespMsg) : Option (Nat × Nat × OpRec) :=
  match s.ledgerOp r.ctx.toNat r.shard.toNat r.entry.toNat r.gen.toNat with
  | none => none
  | some x => if s.fc.fenced.contains x.1 then none else some x

/-- A response carries no ledger entry but the context of a command (log entry 91). It answers the command only where the context awaits
an answer of its kind. -/
def respOfCommand (r : RespMsg) : Bool := r.shard == 0 && r.entry == 0 && r.gen == 0

/-- A wait that a response of a kind from a module is for: 0 take, 1 pull, 2 write done, 3 atomic done, 6 read done. A fence wait asks for
its fence's line. -/
def Wait.answers (kind m : Nat) : Wait → Bool
  | .take n _ => decide (kind ≤ 1) && n == m
  | .written n _ => kind == 2 && n == m
  | .signalled n _ => kind == 3 && n == m
  | .read n _ _ => kind == 6 && n == m
  | .fence _ => kind == 6
  | _ => false

/-- A wait that a response of a kind is for, whoever answers. -/
def Wait.ofKind (kind : Nat) : Wait → Bool
  | .take _ _ => decide (kind ≤ 1)
  | .written _ _ => kind == 2
  | .signalled _ _ => kind == 3
  | .read _ _ _ => kind == 6
  | .fence _ => kind == 6
  | _ => false

/-- The module a wait is for; of a fence wait the module that holds its page, or else the one that answers. -/
def State.waitModule (s : State) (b m : Nat) : Wait → Nat
  | .take n _ => n
  | .written n _ => n
  | .signalled n _ => n
  | .read n _ _ => n
  | .fence va => (s.holder b va).getD m
  | _ => 0

/-- A status that a module on the way may answer with for another: not-bound or peer-lost (10 R475, R490). -/
def dropStatus (status : Nat) : Bool := status == 2 || status == 3

/-- The address a wait is for. -/
def Wait.addr : Wait → Nat
  | .written _ va => va
  | .signalled _ va => va
  | .read _ va _ => va
  | .fence va => va
  | _ => 0

/-- The fault a response of a status other than OK stands for (10 R466; 05 Table 22; 05 R726; 07 R323; 09 R737; log entry 103). -/
def State.statusFault (s : State) (b m va status : Nat) : (Nat × Nat) × State :=
  if status = 4 then ((0x0A, va), s)
  else if status = 5 then ((0x14, s.memSlot (s.get Fld.CAP_BASKET_partition b)), s)
  else if status = 6 then ((0x0C, va), s.recordFault b (.translation va 2 (((s.leafAt b va).map Leaf.level).getD 4)))
  else ((0x0F, m), s)

/-- A response to an operation: a wait ends, or the operation faults. A request that a module on the way dropped faults with the module
it was for (09 R737). -/
def State.opResponse (s : State) (core slot : Nat) (o : OpRec) (kind m status : Nat) : State :=
  if status = 0 then (if kind = 6 then s else s.endWait core slot o (Wait.answers kind m))
  else match (match o.waits.find? (Wait.answers kind m) with
      | some w => some w
      | none => if dropStatus status then o.waits.find? (Wait.ofKind kind) else none) with
    | none => s
    | some w =>
      let b := s.slotBasket (slotKey core slot)
      let ((c, n), s) := s.statusFault b (s.waitModule b m w) w.addr status
      s.failEntry core slot o c n

/-! ## The end of a step (06 R270 steps 7 and 8, R278) -/

/-- A step ends: its record is written, its command completes, and the operations it held may issue. A completion address that is not
aligned takes no record. -/
def State.stepEnd (s : State) (c : Nat) (head : List Byte) (r : RecordParts) : State :=
  let va := fieldAt head 0x10 7
  let ok := va % 256 == 0
  let s := if ok then s.devWrite (s.ctxBasket c) va r.bytes else s
  let s := s.onCtx c (fun x => { x with early := x.early.filter (fun o => o.1 != fieldAt head 0 8) })
  let s := (s.finishCmd c r.status r.code (if ok then va else 0)).stopAfterStep c
  s.shards.foldl (fun s x => s.reschedule (x.1 / 8)) s

/-- The address of a step record. -/
def State.stepAddr (s : State) (c : Nat) : Nat := ((s.ctxAt c).cmd.map Cmd.addr).getD 0

/-- Sets the status of an entry in memory, where it can be written. -/
def State.entryStatus (s : State) (c i status : Nat) : State :=
  s.devWrite (s.ctxBasket c) (s.stepAddr c + 64 + 32 * i + 1) (leBytes 1 status)

/-- A step whose token block cannot be read changes nothing (R734). -/
def State.stepUnread (s : State) (c va info code : Nat) (rec : List Byte) : State :=
  let hit := fun (x : List Byte) =>
    let e := StepEntry.of x
    e.kind == 6 && decide (e.tokens ≤ va) && decide (va < e.tokens + 4 * (e.branches * (2 * e.draftLen + 1)))
  let s := match ((List.range (stepCount rec)).map (stepEntry rec)).findIdx? hit with
    | some i => s.entryStatus c i 3
    | none => s
  s.stepEnd c (rec.take 64) (RecordParts.plain (fieldAt rec 0 8) 1 code 0 info)

/-! ## Responses to a command -/

/-- A shard whose next descriptor lies on a module, and is not here yet. -/
def State.headAt (s : State) (e : OpEnv) (m : Nat) : Bool :=
  let r := s.shardAt e.core e.slot
  let va := opAddress e.kern e.shard r.next
  r.head.isNone && !s.allIssued e.core e.slot && s.liesOn e.basket va m

/-- What a command reads, as far as it is known by now: its descriptor and what that names, its record and what that names, or its fence. -/
def State.cmdRanges (s : State) (c : Nat) (k : Cmd) : List (Nat × Nat × Nat) :=
  let b := s.ctxBasket c
  let got := (s.ctxAt c).fetched
  if k.opcode = 1 then
    (k.addr, 128, 0) :: (match (s.devRead b got k.addr 128 1 c).1 with
      | .ok d => (kernelRanges k.addr d).all
      | _ => [])
  else if k.opcode = 2 then
    match (s.ctxAt c).step with
    | some r =>
      if r.applied then [] else ((s.stepReads b r.record).1 ++ (s.stepReads b r.record).2).map (fun x => (x.1, x.2, 0))
    | none =>
      (k.addr, 64, 0) :: (match (s.devRead b got k.addr 64 1 c).1 with
        | .ok head => [(k.addr + 64, 32 * stepCount head, 0)]
        | _ => [])
  else [(k.addr, 16, 0)]

/-- A context whose command has no kernel yet cannot read what lies on a module: a KERNEL command whose descriptor has come ends with its
record and its signal (05 R727; 08 R380), a BATCH_STEP whose header has come with its record (06 R734), any other with its item alone. -/
def State.cmdFail (s : State) (c m status : Nat) (k : Cmd) : State :=
  let b := s.ctxBasket c
  let bare := fun (s : State) (va : Nat) =>
    let ((code, _), s) := s.statusFault b m va status
    ((s.unwatch (.command (Fin.ofNat 2048 c))).finishCmd c 1 code 0).stopAfterStep c
  let got := (s.ctxAt c).fetched
  if k.opcode = 1 then
    match s.devRead b got k.addr 128 1 c with
    | (.ok d, t) =>
      let (va, rank) := (s.missingAt c m (s.cmdRanges c k)).getD (k.addr, kRankBase d)
      let ((code, info), s) := t.statusFault b m va status
      s.kernelRefuse c d 1 code rank info
    | _ => bare s k.addr
  else if k.opcode = 2 then
    match (s.ctxAt c).step with
    | some r =>
      if r.applied then s
      else
        let (va, _) := (s.missingAt c m (s.cmdRanges c k)).getD (k.addr, 0)
        let ((code, info), s) := s.statusFault b m va status
        s.stepUnread c va info code r.record
    | none =>
      match s.devRead b got k.addr 64 1 c with
      | (.ok head, t) =>
        let (va, _) := (s.missingAt c m (s.cmdRanges c k)).getD (k.addr + 64, 0)
        let ((code, info), s) := t.statusFault b m va status
        (s.entryStatus c ((va - (k.addr + 64)) / 32) 3).stepEnd c head (RecordParts.plain (fieldAt head 0 8) 1 code 0 info)
      | _ => bare s k.addr
  else bare s k.addr

/-- What a context waits to read from a module cannot be had: its command, its kernel or the shards concerned fault. -/
def State.ctxFail (s : State) (c m status : Nat) : State :=
  match (s.ctxAt c).kernel with
  | none =>
    (match (s.ctxAt c).cmd with
      | some k => if (s.ctxAt c).item.isNone then s.cmdFail c m status k else s
      | none => s)
  | some k =>
    let b := s.ctxBasket c
    let fault := fun (s : State) (va : Nat) =>
      let ((code, info), s) := s.statusFault b m va status
      (s.unwatch (.kernelStart (Fin.ofNat 2048 c))).startFault c code info 0
    if k.result.isSome then s
    else if k.waiting = some .fence then fault s (fieldAt k.desc 0x50 7)
    else if k.waiting = some .fetch ∧ k.gathering = true then (s.setSpan c none).kernelRecord c k false
    else if !k.started then
      fault s ((s.missingAt c m ((mRanges k.manifest 0 (mIns k.manifest)).map (fun x => (x.1, x.2, 0)))).getD (fieldAt k.desc 0x20 7, 0)).1
    else
      let s := (s.liveShards c).foldl (fun s x =>
        match s.opEnv x.1 x.2 with
        | none => s
        | some e =>
          if s.headAt e m then
            let n := (s.shardAt x.1 x.2).next
            let ((code, info), s) := s.statusFault b m (opAddress e.kern e.shard n) status
            s.shardFault e n code info
          else s) s
      (s.settleKernel c).rescheduleCtx c

/-- A context waits for the performance of a signal of its kernel. -/
def State.kernelWaits (s : State) (c : Nat) (w : StartWait) : Bool :=
  match (s.ctxAt c).kernel with
  | none => false
  | some k => k.waiting == some w

/-- The command in progress of a context has an opcode, and has not ended. -/
def State.cmdIs (s : State) (c opcode : Nat) : Bool :=
  match (s.ctxAt c).cmd with
  | none => false
  | some k => k.opcode == opcode && (s.ctxAt c).item.isNone

/-- What a context has asked that a response answers: of its kind, of its module or, where the answer may be another's, of any. -/
def Context.answered (x : Context) (kind m status : Nat) : Option (Nat × Nat) :=
  match x.asked.find? (· == (kind, m)) with
  | some a => some a
  | none => if dropStatus status then x.asked.find? (fun a => a.1 == kind) else none

/-- A response to a command of a context. One that it awaits no answer of is stale. -/
def State.ctxResponse (s : State) (r : RespMsg) : State :=
  let c := r.ctx.toNat
  let b := s.ctxBasket c
  match (s.ctxAt c).answered r.kind.toNat r.src.toNat r.status.toNat with
  | none => s.stale
  | some a =>
    let s := s.onCtx c (fun x => { x with asked := x.asked.erase a })
    let signalled := fun (s : State) (va : Nat) =>
      if r.status = 0 then (none, s)
      else
        let (f, s) := s.statusFault b a.2 va r.status.toNat
        (some f, s)
    if a.1 = 3 ∧ s.kernelWaits c .signal then
      let (f, s) := signalled s (((s.ctxAt c).kernel.map (fun k => fieldAt k.desc 0x60 7)).getD 0)
      s.kernelSignalled c f
    else if a.1 = 3 ∧ s.cmdIs c 4 then
      let (f, s) := signalled s (((s.ctxAt c).cmd.map Cmd.addr).getD 0)
      s.finishCmd c (if f.isSome then 1 else 0) (f.elim 0 Prod.fst) 0
    else if a.1 = 6 ∧ r.status ≠ 0 then s.ctxFail c a.2 r.status.toNat
    else s

/-- The ledger word of a FENCE_OP: no shard has this address (log entry 92). -/
def respOfFenceOp (r : RespMsg) : Bool := r.shard == 255 && r.entry == 63 && r.gen == 255 && decide (r.ctx.toNat < 32)

/-- The ledger words of the device's own requests. -/
def respOfDevice (r : RespMsg) : Bool := r.shard == 255 && r.gen == 255 && decide (57 ≤ r.entry.toNat) && decide (r.entry.toNat ≤ 62)

/-- A bring-back that cannot be had from its holder is given up: the operations that wait for it fault (07 R323). -/
def State.bringFail (s : State) (m va status : Nat) : State :=
  match s.moves.find? (fun x => x.va == va && (match x.kind with
    | .bringT3 n _ => n == m
    | _ => false)) with
  | none => s
  | some x =>
    let s := s.abandonMove x
    s.shards.foldl (fun s r =>
      (r.2.ops.filter (fun o => o.waits.contains (.move x.id))).foldl (fun s o =>
        let ((c, n), s) := s.statusFault x.basket m va status
        s.failEntry (r.1 / 8) (r.1 % 8) o c n) s) s

/-- The ledger word of the reads of a seal's hash. -/
def sealWord : Nat := 255 * 2 ^ 11 + 61 * 2 ^ 19 + 255 * 2 ^ 25

def State.sealState (s : State) (b i : Nat) : Nat := s.get Fld.PG_SEAL_CMD_state (b * 16 + i)

/-- A seal command ends with an error. -/
def State.sealError (s : State) (b i code : Nat) : State :=
  s.setAll (b * 16 + i) [(Fld.PG_SEAL_CMD_error, 1), (Fld.PG_SEAL_CMD_err_code, code)]

/-- The seal that is HASHING on the module: its basket and index. -/
def State.hashing (s : State) : Option (Nat × Nat) :=
  ((List.range 1024).find? (fun k => s.get Fld.PG_SEAL_CMD_state k == 1)).map (fun k => (k / 16, k % 16))

/-- The seal that is hashing is given up: its range cannot be read any more (15 R684; log entry 106). -/
def State.sealLost (s : State) : State :=
  match s.hashing with
  | none => s
  | some (b, i) => ({ s.set Fld.PG_SEAL_CMD_state (b * 16 + i) 0 with sealGot := [] } : State).sealError b i 2

/-- The edits of a basket's object table that wait for its bytes end: the table cannot be read (09 R738). -/
def State.tableLost (s : State) (b : Nat) : State :=
  (s.edits.filter (fun x => x.basket == b && !x.asked.isEmpty)).foldl (fun s x => s.editError x.part 6)
    { s with edits := s.edits.filter (fun x => !(x.basket == b && !x.asked.isEmpty)) }

/-- The ledger word of the requests that this module passes on. -/
def relayWord : Nat := 255 * 2 ^ 11 + 57 * 2 ^ 19 + 255 * 2 ^ 25

/-- A part of a request that was passed on is answered: its requester is, with an error at once, or once every part is. -/
def State.relayEnd (s : State) (x : Relay) (status : Nat) : State :=
  let rest := s.relays.erase x
  if status ≠ 0 then { s with relays := rest.filter (fun y => y.pkt != x.pkt) }.answer x.pkt status
  else
    let s := { s with relays := rest }
    if x.pkt.ptype = 1 ∨ rest.any (fun y => y.pkt == x.pkt) then s else s.answer x.pkt 0

/-- The module a part was passed on to has answered it. -/
def State.relayAnswer (s : State) (q : OwnReq) (status : Nat) : State :=
  match s.relays.find? (fun x => x.va == q.va && answerKind x.pkt.ptype.toNat == q.kind) with
  | none => s
  | some x => s.relayEnd x status

/-- What a request of the device's own that is not answered with OK comes to: a bring-back is given up, as is a write to lines of another
module that cannot be had; a write that its home refuses is told (09 R403). -/
def State.ownFail (s : State) (q : OwnReq) (status : Nat) : State :=
  if q.word = pagerWord then s.bringFail q.module q.va status
  else if q.word = relayWord then s.relayAnswer q status
  else if q.word = importWord then s.importLost q.basket
  else if q.word = sealWord then s.sealLost
  else if q.word = tableWord then s.tableLost q.basket
  else
    let s := { s with deferred := s.deferred.filter (fun d => !(q.kind == 6 && d.away == some q.module && d.basket == q.basket &&
      d.va / 64 * 64 == q.va)) }
    if status = 6 then s.dropWrite q.basket q.va 2 (((s.leafAt q.basket q.va).map Leaf.level).getD 4) else s.unnote q.basket q.va

/-- An answer to a request of the device's own: the oldest of its word, kind and module, or of any module where another may answer. A
write that has been performed may let an interrupt go (11 R515). -/
def State.ownResponse (s : State) (r : RespMsg) : State :=
  let word := r.ctx.toNat + 255 * 2 ^ 11 + r.entry.toNat * 2 ^ 19 + 255 * 2 ^ 25
  let mine := fun (q : OwnReq) => q.word == word && q.kind == r.kind.toNat
  match (match s.own.find? (fun q => mine q && q.module == r.src.toNat) with
    | some q => some q
    | none => if dropStatus r.status.toNat then s.own.find? mine else none) with
  | none => s.stale
  | some q =>
    let s := { s with own := s.own.erase q }
    if r.status ≠ 0 then s.ownFail q r.status.toNat
    else if q.word = relayWord then s.relayAnswer q 0
    else s.notesGoOn

/-- A signal of a partition's FENCE_OP copy has ended. -/
def State.fenceOpEnd (s : State) (p : Nat) (ok : Bool) : State :=
  ({ s with fenceOps := s.fenceOps.filter (fun e => e.1 != p) }.set Fld.WVR_FENCE_OP_CMD_busy p 0).set
    (if ok then Fld.WVR_FENCE_OP_CMD_done else Fld.WVR_FENCE_OP_CMD_error) p 1

/-- The ledger word of the fence operation of partition `p`: shard, entry and generation all ones (log entry 92). -/
def fenceOpWord (p : Nat) : Nat := p + 255 * 2 ^ 11 + 63 * 2 ^ 19 + 255 * 2 ^ 25

/-- Performs a driver's signal, as far as it goes now (08 R387; 09 R403). One that must wait for its page keeps its place in the order of
arrival (R376). -/
def State.fenceOpRun (s : State) (p : Nat) (x : FenceOp) : State :=
  if x.sent then s
  else match s.signal x.basket x.va 0 0 (fenceOpWord p) x.value x.code with
    | (.done, s) => s.fenceOpEnd p true
    | (.fault _ _, s) => s.fenceOpEnd p false
    | (.sent _, s) => { s with fenceOps := s.fenceOps.map (fun (e : Nat × FenceOp) => (e.1, if e.1 = p then { e.2 with sent := true } else e.2)) }
    | (.wait _, s) => if s.updates.contains (.driver p) then s else { s with updates := s.updates ++ [.driver p] }

/-- The copy whose signal is in progress, or else the next with one after the copy served last, in rotating order (08 R387). -/
def State.fenceNext (s : State) : Option (Nat × FenceOp) :=
  ((List.range 33).map (fun k => (s.fenceTurn + k) % 32)).findSome? (fun p => s.fenceOps.find? (fun e => e.1 == p))

/-- Performs drivers' signals one at a time, until one must wait. -/
def State.fenceOpsRun (s : State) : Nat → State
  | 0 => s
  | n + 1 =>
    match s.fenceNext with
    | none => s
    | some (p, x) =>
      let s := { s with fenceTurn := p }.fenceOpRun p x
      if s.fenceOps.any (fun e => e.1 == p) then s else s.fenceOpsRun n

/-- The home of a driver's signal has answered it; one that its home refuses is told (09 R403). -/
def State.fenceOpAnswer (s : State) (p status : Nat) : State :=
  match s.fenceOps.find? (fun e => e.1 == p && e.2.sent) with
  | none => s.stale
  | some (_, x) =>
    let s := if status = 6 then s.dropWrite x.basket x.va 2 (((s.leafAt x.basket x.va).map Leaf.level).getD 4) else s
    (s.fenceOpEnd p (status == 0)).fenceOpsRun 32

/-- A response of any kind but a fence wake. -/
def State.respond (s : State) (r : RespMsg) : State :=
  match s.respOp r with
  | some (core, slot, o) => s.opResponse core slot o r.kind.toNat r.src.toNat r.status.toNat
  | none =>
    if r.kind = 3 ∧ respOfFenceOp r = true then s.fenceOpAnswer r.ctx.toNat r.status.toNat
    else if respOfDevice r then s.ownResponse r
    else if respOfCommand r then s.ctxResponse r else s.stale

/-- RESP: write done, atomic done, page ready and read done (08 R367, R368; 09 R412; 10 R466). -/
def execResp (r : RespMsg) (s : State) : Out :=
  if r.kind = 2 ∨ r.kind = 3 ∨ r.kind = 6 then .next (s.respond r)
  else if r.kind = 4 then
    let mine := fun (m : Move) => !m.ready && (match m.kind with
      | .spillT3 n _ => n == r.src.toNat
      | _ => false)
    (match s.moves.find? mine with
      | none => .next s.stale
      | some x => .next { s with moves := s.moves.map (fun m => if m.id = x.id then { m with ready := true } else m) })
  else .next s

/-- RESP of kind take (05 R230). -/
def execRespTake (r : RespMsg) (s : State) : Out := if r.kind = 0 then .next (s.respond r) else .next s

/-! ## Pulls (10 R457, R460, R462) -/

/-- A string cut into pieces of 4,096 bytes, each with its offset. -/
def pieces4k (bs : List Byte) : List (Nat × List Byte) :=
  (List.range ((bs.length + 4095) / 4096)).map (fun i => (4096 * i, (bs.drop (4096 * i)).take 4096))

/-- The packets of a send to a module; or the fault of reading what it sends. -/
def State.sendPackets (s : State) (e : OpEnv) (o : OpRec) (m : Nat) : Except (Nat × Nat) (List Packet) × State :=
  let d := o.desc
  let chan := opField d 10 1
  let word := s.ledgerWord e o.entry
  let packet := fun (ptype args : Nat) (bs : List Byte) => s.packetOf e.basket m ptype e.label e.kernelId word args bs
  if opFlag d 8 1 then
    match s.tilesAt e (bitsOf (opField d 14 2) 0 15 * 64) (opBits d 11 0 6 + 1) with
    | (.error f, s) => (.error f, s)
    | (.ok (_, ts), s) =>
      (.ok (((tilesPartials e.redMode e.rank (m == s.me) ts).flatMap Partial.pieces).map (fun p => packet 7 (p.packetArgs chan) p.bytes)), s)
  else
    let t := exchangeTile e d false
    match s.begin e o false [t] [] [] with
    | (.ok ps, s) =>
      (match s.readRows e o ps t.t t.c t.m ((List.range t.n).map (· + t.r)) with
        | ((_, some f), s) => (.error f, s)
        | ((rows, none), s) =>
          (.ok ((pieces4k (tensorPayload t.t rows)).map (fun x =>
            packet 6 (offerArgs chan e.rank t.t.fmt t.n t.m + x.1 * 2 ^ 96) x.2)), s))
    | (.fault c i, s) => (.error (c, i), s)
    | (.wait _, s) => (.ok [], s)

/-- RESP of kind pull (10 R462): the sender delivers its packets; a peer that cannot be reached by now faults it (05 R726). -/
def execRespPull (r : RespMsg) (s : State) : Out :=
  if r.kind ≠ 1 then .next s
  else match s.respOp r with
    | none => .next s.stale
    | some (core, slot, o) =>
      if r.status ≠ 0 then .next (s.respond r)
      else if !o.waits.any (Wait.answers 1 r.src.toNat) then .next s
      else match s.opEnv core slot with
        | none => .next s
        | some e =>
          if s.unreachable e.basket r.src.toNat then .next (s.failEntry core slot o 0x0F r.src.toNat)
          else match s.sendPackets e o r.src.toNat with
          | (.ok ps, s) => .next (s.emitAll ps)
          | (.error (c, n), s) => .next (s.failEntry core slot o c n)

/-! ## The end of a fence wait (08 R379, R384, R385) -/

/-- The operation of a waiter that waits on a fence, with the fence's address. -/
def State.fenceOp (s : State) (core slot e : Nat) : Option (OpRec × Nat) :=
  ((s.shardAt core slot).ops.find? (fun o => o.entry == some e && !o.ready)).bind (fun o =>
    o.waits.findSome? (fun w => match w with
      | .fence va => some (o, va)
      | _ => none))

/-- What a waiter finds at its fence takes effect on it. -/
def State.fenceFound (s : State) (w : Waiter) (r : FenceRead) : State :=
  match w with
  | .entry core slot e =>
    (match s.fenceOp core slot e with
      | none => s
      | some (o, va) =>
        match r with
        | .is .satisfied =>
          (s.unwatch w).endWait core slot o (fun x => match x with
            | .fence _ => true
            | _ => false)
        | .is .error => s.failEntry core slot o 0x10 va
        | .fault c n => s.failEntry core slot o c n
        | _ => s)
  | .command c =>
    if !s.cmdIs c 3 then s
    else (match r with
      | .is .satisfied => (s.unwatch w).finishCmd c 0 0 0
      | .is .error => (s.unwatch w).finishCmd c 1 0x10 0
      | .fault code _ => (s.unwatch w).finishCmd c 1 code 0
      | _ => s)
  | .kernelStart c =>
    if !s.kernelWaits c .fence then s
    else
      let va := ((s.ctxAt c).kernel.map (fun k => fieldAt k.desc 0x50 7)).getD 0
      (match r with
        | .is .satisfied => (s.unwatch w).kernelPhase c
        | .is .error => (s.unwatch w).startFault c 0x10 va 0
        | .fault code n => (s.unwatch w).startFault c code n 0
        | _ => s)
  | .away _ _ =>
    (match r with
      | .is .satisfied => (s.unwatch w).sendWake w true
      | .is .error => (s.unwatch w).sendWake w false
      | .fault _ _ => s.unwatch w
      | _ => s)

/-- FENCE_WAKE (08 R384): the wake of a watch reaches its waiter. -/
def execFenceWake (r : RespMsg) (s : State) : Out :=
  let found : FenceRead := if r.status = 0 then .is .satisfied else .is .error
  let c : Fin 2048 := Fin.ofNat 2048 r.ctx.toNat
  if r.kind ≠ 5 then .next s
  else match (s.respOp r).bind (fun x => if (s.fenceOp x.1 x.2.1 r.entry.toNat).isSome then some x else none) with
    | some (core, slot, _) => .next (s.fenceFound (.entry (Fin.ofNat 256 core) (Fin.ofNat 8 slot) (Fin.ofNat 64 r.entry.toNat)) found)
    | none =>
      if respOfCommand r && s.cmdIs c 3 then .next (s.fenceFound (.command c) found)
      else if respOfCommand r && s.kernelWaits c .fence then .next (s.fenceFound (.kernelStart c) found)
      else .next s.stale

/-- Reads a fence again for a waiter that is registered already. -/
def State.pollFence (s : State) (x : Watch) : FenceRead × State :=
  match s.fenceFind x.basket x.va 1 with
  | (.fault c i, s) => (.fault c i, s)
  | (.wait id, s) => (.wait id, s)
  | (.away m, s) =>
    (.asked, s.askFence x.basket m x.va x.target x.waiter)
  | (p, s) =>
    match s.fenceGet x.basket x.va p with
    | none => (.fault 0x0A x.va, s.fencePoison x.basket x.va p)
    | some (v, st) => (.is (fenceWaited x.target v st), s)

/-- FENCE_POLL (08 R385): a waiter without a watch reads its fence again, once every µs. -/
def execFencePoll (w : Waiter) (s : State) : Out :=
  match s.watches.find? (fun x => x.waiter == w && x.polls) with
  | none => .next s
  | some x =>
    if s.time ≤ x.polled then .next s
    else
      let s := { s with watches := s.watches.map (fun y => if y = x then { y with polled := s.time } else y) }
      let (r, s) := s.pollFence x
      .next (s.fenceFound w r)

/-- The 16 bytes of a fence of another module have come for a context or an operation that waits on it. -/
def State.fenceData (s : State) (va : Nat) (bs : List Byte) (who : Waiter → Bool) : State :=
  match s.watches.find? (fun x => x.va == va && who x.waiter) with
  | none => s
  | some x => s.fenceFound x.waiter (.is (fenceWaited x.target (fieldAt bs 0 8) (fieldAt bs 8 8)))

/-! ## Updates and commands -/

/-- The memory side of this module performs a signal; one of a fence whose page is on the move waits (08 R376; 09 R412), and one of a page
that another module has come to hold is performed there. -/
def State.fenceUpdate (s : State) (u : FenceUpdate) : State :=
  match s.fenceFind u.basket u.va 0 with
  | (.fault _ _, s) => s
  | (.wait _, s) => { s with updates := s.updates ++ [.update u] }
  | (.away m, s) => (s.asks u.basket deviceWord 3 m u.va).sendAtomic u.basket m 0 u.va deviceWord u.value u.status
  | (p, s) => if (s.fenceGet u.basket u.va p).isNone then s.fencePoison u.basket u.va p else s.fenceSignal u.basket u.va p u.value u.status

/-- FENCE_UPDATE (08 R376 to R378, R384). -/
def execFenceUpdate (b : Fin 64) (va : VAddr) (value status : BitVec 64) (s : State) : Out :=
  if s.get Fld.CAP_BASKET_state b = 0 ∨ va.toNat % 16 ≠ 0 ∨ s.halted = true then .next s
  else .next (s.fenceUpdate { basket := b, va := va.toNat, value := value.toNat, status := status.toNat })

/-- The register a partition commands its FENCE_OP copy with. -/
def fenceOpCmd : Nat := 0x20050

/-- The address of a partition's FENCE_OP copy. -/
def State.fenceOpAddr (s : State) (p : Nat) : Nat :=
  2 ^ 4 * s.get Fld.WVR_FENCE_OP_ADDR_LO_addr_lo p + 2 ^ 32 * s.get Fld.WVR_FENCE_OP_ADDR_HI_addr_hi p

/-- A write of WVR_FENCE_OP_CMD: the signal is taken as the copy's registers stand; while one is in progress go alone is ignored. -/
def State.fenceOpGo (s : State) (p : Fin 32) (v : Word32) : State :=
  let busy := s.flag Fld.WVR_FENCE_OP_CMD_busy p
  let s := s.writeReg Fld.WVR_FENCE_OP_CMD_code.reg p v.toNat
  let b := s.get Fld.WVR_FENCE_OP_CMD_basket_index p
  let code := s.get Fld.WVR_FENCE_OP_CMD_code p
  if busy || !bitOf v.toNat 16 then s
  else if s.basketOwner b ≠ some p.val ∨ 3 < code then s.set Fld.WVR_FENCE_OP_CMD_error p 1
  else
    let x : FenceOp := { basket := b, va := s.fenceOpAddr p, value := s.get64 Fld.WVR_FENCE_OP_VAL_LO_val_lo Fld.WVR_FENCE_OP_VAL_HI_val_hi p,
                         code := code, sent := false }
    ({ s with fenceOps := s.fenceOps ++ [(p.val, x)] }.set Fld.WVR_FENCE_OP_CMD_busy p 1).fenceOpsRun 32

/-- FENCE_OP_GO (08 R387, R388; 11 R502). -/
def execFenceOpGo (p : Fin 32) (v : Word32) (s : State) : Out := .next (if s.agentAsleep (.host p) then s else s.fenceOpGo p v)

/-- A FENCE_WAIT command reads its fence. -/
def State.cmdWait (s : State) (c : Nat) (k : Cmd) : State :=
  let w : Waiter := .command (Fin.ofNat 2048 c)
  match s.awaitFence (s.ctxBasket c) k.addr k.value w with
  | (r, s) => s.fenceFound w r

/-- CMD_FENCE_WAIT (08 R350, R379, R381): the command is taken, or goes on once a page it needs has come. -/
def execCmdFenceWait (ctx : Fin 2048) (s : State) : Out :=
  match s.takeCmd ctx (· == 3) with
  | some (_, true, s) => .next (s.finishCmd ctx 2 0x01 0)
  | some (k, false, s) => .next (s.cmdWait ctx k)
  | none =>
    match (s.ctxAt ctx).cmd with
    | none => .next s
    | some k =>
      if s.cmdIs ctx 3 && !s.watches.any (fun x => x.waiter == .command ctx) then .next (s.cmdWait ctx k) else .next s

/-- A FENCE_SIGNAL command signals its fence, once every earlier write of its context's basket by the device has been performed (R382). -/
def State.cmdSignal (s : State) (c : Nat) (k : Cmd) : State :=
  if s.unwritten (s.ctxBasket c) 0 (2 ^ 56) then s
  else match s.signal (s.ctxBasket c) k.addr 4 (s.get Fld.WVR_CTX_SHARE_label c) c k.value k.status with
  | (.done, s) => s.finishCmd c 0 0 0
  | (.fault code _, s) => s.finishCmd c 1 code 0
  | (.sent m, s) => (s.markSent c k.addr).asks (s.ctxBasket c) c 3 m k.addr
  | (_, s) => s

/-- CMD_FENCE_SIGNAL (08 R350, R377, R381): the command is taken, or goes on once a page it needs has come. -/
def execCmdFenceSignal (ctx : Fin 2048) (s : State) : Out :=
  match s.takeCmd ctx (· == 4) with
  | some (_, true, s) => .next (s.finishCmd ctx 2 0x01 0)
  | some (k, false, s) => .next (s.cmdSignal ctx k)
  | none =>
    match (s.ctxAt ctx).cmd with
    | none => .next s
    | some k => if s.cmdIs ctx 4 && !s.isSent ctx k.addr then .next (s.cmdSignal ctx k) else .next s

/-- CMD_FENCE_TIMEOUT (08 R350): a timeout of 0 is no limit. -/
def execCmdFenceTimeout (ctx : Fin 2048) (s : State) : Out :=
  match (s.ctxAt ctx).cmd with
  | none => .next s
  | some k =>
    if s.cmdIs ctx 3 && k.timeout != 0 && decide (k.time + k.timeout ≤ s.time) then
      .next ((s.unwatch (.command ctx)).finishCmd ctx 1 0x11 0)
    else .next s

end Sys2Proof.Machine
end

