-- ==== Sys2Proof/Machine/Batch.lean ====
section
/-! DEFINITION. Batch steps from command to completion: reading and checking a record, its phases, join verdicts, and its end (06 R267
to R281, R734; 08 R350, R372). -/

namespace Sys2Proof.Machine

/-! ## The end of a step (R270 steps 7 and 8, R278) -/

/-- The out fields of an entry, beside its status: offset and length (R268). -/
def outFields (x : List Byte) : List (Nat × Nat) :=
  match fieldAt x 0 1 % 16 with
  | 1 => [(1, 1), (4, 4)]
  | 5 => [(1, 1), (24, 4)]
  | 6 => [(1, 1), (16, 8)]
  | _ => [(1, 1)]

/-- Writes the out fields of every entry. -/
def State.writeOuts (s : State) (c : Nat) (outs : List (List Byte)) : State :=
  outs.zipIdx.foldl (fun s x =>
    (outFields x.1).foldl (fun s f =>
      s.devWrite (s.ctxBasket c) (s.stepAddr c + 64 + 32 * x.2 + f.1) ((x.1.drop f.1).take f.2)) s) s

/-- Steps 7 and 8 of a step that has been applied and whose verdicts are settled. -/
def State.stepFinish (s : State) (c : Nat) (short : Bool) : State :=
  match (s.ctxAt c).step with
  | none => s
  | some r =>
    let b := s.ctxBasket c
    let id := fieldAt r.record 0 8
    let deferred := (r.outs.filter (fun x => fieldAt x 1 1 == 2)).length
    let joined := (r.outs.filter (fun x => fieldAt x 0 1 % 16 == 1 && fieldAt x 1 1 == 1)).length
    let s := ((s.writeOuts c r.outs).kvFlush b r.before).set64 Fld.PG_KV_STEP_LO_step_lo Fld.PG_KV_STEP_HI_step_hi b id
    let s := if joined = 0 then s else s.count Fld.PG_KV_JOIN_COUNT_count b Fld.PG_KV_STATUS_join_wrap b 0 joined
    let s := if deferred = 0 then s
      else
        let s := (s.count Fld.PG_KV_DEFER_COUNT_count b Fld.PG_KV_STATUS_defer_wrap b 0 deferred).set Fld.PG_KV_STATUS_defer_event b 1
        if s.flag Fld.PG_KV_STATUS_defer_event_en b then s.report 0x37 b 0 else s
    let lead := fieldAt r.record 0x0C 2 % 2 ^ 14 == s.me
    s.stepEnd c (r.record.take 64)
      { RecordParts.plain id (if deferred = 0 then 0 else 4) (if short then 0x0E else 0) 0 0 with flags := 128 * bit (short && lead) }

/-! ## Beginning (R270 steps 1 and 2, R734) -/

/-- Reads a record, and holds the operations on what it names. -/
def State.stepBegin (s : State) (c : Nat) (k : Cmd) : State :=
  let b := s.ctxBasket c
  match s.devRead b (s.ctxAt c).fetched k.addr 64 1 c with
  | (.away, s) => s
  | (.fault va r l, s) => ((s.recordFault b (.translation va r l)).finishCmd c 1 0x0C 0).stopAfterStep c
  | (.poison _, s) => (s.finishCmd c 1 0x0A 0).stopAfterStep c
  | (.lost _ _, s) => (s.finishCmd c 1 0x0F 0).stopAfterStep c
  | (.ok head, s) =>
    let start := fun (s : State) (rec : List Byte) =>
      s.onCtx c (fun x => { x with
        step := some { record := rec, named := if (stepHeadOffends head).isEmpty then s.stepNamed b rec else [], outcomes := (x.early.filter (fun o => o.1 == fieldAt rec 0 8)).map Prod.snd, outs := [], joins := [], before := [], applied := false, since := s.time } })
    if !(stepHeadOffends head).isEmpty then start s (head ++ List.replicate (32 * stepCount head) 0)
    else match s.devRead b (s.ctxAt c).fetched (k.addr + 64) (32 * stepCount head) 1 c with
      | (.away, s) => s
      | (.ok es, s) => start s (head ++ es)
      | (.fault va r l, s) =>
        ((s.recordFault b (.translation va r l)).entryStatus c ((va - (k.addr + 64)) / 32) 3).stepEnd c head
          (RecordParts.plain (fieldAt head 0 8) 1 0x0C 0 va)
      | (.poison va, s) =>
        (s.entryStatus c ((va - (k.addr + 64)) / 32) 3).stepEnd c head (RecordParts.plain (fieldAt head 0 8) 1 0x0A 0 va)
      | (.lost m va, s) =>
        (s.entryStatus c ((va - (k.addr + 64)) / 32) 3).stepEnd c head (RecordParts.plain (fieldAt head 0 8) 1 0x0F 0 m)

/-- CMD_BATCH_STEP (R270 step 1; 08 R351): the command is taken, or goes on once its record has come. -/
def execCmdBatchStep (ctx : Fin 2048) (s : State) : Out :=
  match s.takeCmd ctx (· == 2) with
  | some (_, true, s) => .next (s.finishCmd ctx 2 0x01 0)
  | some (k, false, s) => .next ((s.onCtx ctx (fun x => { x with stepRunning := true })).stepBegin ctx k)
  | none =>
    match (s.ctxAt ctx).cmd with
    | none => .next s
    | some k => if s.cmdIs ctx 2 && (s.ctxAt ctx).step.isNone then .next (s.stepBegin ctx k) else .next s

/-! ## Verdicts (R279, R281) -/

/-- The joins a verdict defers are released, and their entries end DEFERRED. -/
def State.applyVerdicts (s : State) (c : Nat) (bits : List Bool) : State :=
  match (s.ctxAt c).step with
  | none => s
  | some r =>
    let b := s.ctxBasket c
    let s := (r.joins.zip bits).foldl (fun s x =>
      match x.1 with
      | none => s
      | some (i, n) => if x.2 then s else s.kvRelease b i n) s
    let s := s.countKv b
    let outs := r.outs.foldl (fun (a : List (List Byte) × List Bool) x =>
      if fieldAt x 0 1 % 16 = 1 then (a.1 ++ [if a.2.headD false then x else (stepDeferred x).bytes], a.2.drop 1) else (a.1 ++ [x], a.2)) ([], bits)
    s.onCtx c (fun y => { y with step := some { r with outs := outs.1 } })

/-- The step_id of a step. -/
def StepRun.id (r : StepRun) : Nat := fieldAt r.record 0 8

/-- The step of a context awaits outcomes or a verdict. -/
def StepRun.awaits (r : StepRun) : Bool := r.applied && decide (1 < fieldAt r.record 0x0E 2 % 2 ^ 15) && !r.joins.isEmpty

/-- The lead settles the verdicts once it holds the outcomes of every module. -/
def State.settleVerdicts (s : State) (c : Nat) : State :=
  match (s.ctxAt c).step with
  | none => s
  | some r =>
    if !r.awaits || r.outcomes.length + 1 < fieldAt r.record 0x0E 2 % 2 ^ 15 then s
    else
      let bits := r.joins.zipIdx.map (fun j => j.1.isSome && r.outcomes.all (fun o => o.2.getD j.2 false))
      let s := r.outcomes.foldl (fun s o =>
        s.sendMsg (s.ctxBasket c) o.1 (s.get Fld.WVR_CTX_SHARE_label c) r.id (.verdicts (BitVec.ofNat 64 r.id) bits)) s
      (s.applyVerdicts c bits).stepFinish c false

/-- The outcomes of a member for a step, by its step_id (R279). Outcomes that come before the lead's own step has begun are kept for it. -/
def State.joinOutcomes (s : State) (c m : Nat) (a : StepAnswers) : State :=
  let x := s.ctxAt c
  match x.step.filter (fun r => r.id == a.step.toNat) with
  | none =>
    if m = s.me ∨ x.early.any (fun o => o.1 == a.step.toNat && o.2.1 == m) then s
    else s.setCtx c { x with early := x.early ++ [(a.step.toNat, m, a.bits)] }
  | some r =>
    if fieldAt r.record 0x0C 2 % 2 ^ 14 ≠ s.me ∨ m = s.me ∨ r.outcomes.any (fun o => o.1 == m) then s
    else (s.onCtx c (fun x => { x with step := some { r with outcomes := r.outcomes ++ [(m, a.bits)] } })).settleVerdicts c

/-- The verdicts of the lead, for the step that awaits them (R279). -/
def State.stepVerdicts (s : State) (c : Nat) (v : StepVerdicts) : State :=
  match (s.ctxAt c).step with
  | none => s
  | some r =>
    if !r.awaits || r.id != v.step.toNat || fieldAt r.record 0x0C 2 % 2 ^ 14 != v.pkt.src.toNat || v.pkt.src.toNat == s.me then s
    else (s.applyVerdicts c v.bits).stepFinish c false

/-! ## Applying (R270 steps 2 to 6) -/

/-- What reading ranges of a step finds. -/
inductive StepReads where
  | ok (bytes : List (Nat × List Byte))
  | away
  /-- The lowest address that could not be read, with what its fault names and its code. -/
  | fault (va info code : Nat)
  deriving DecidableEq, Repr

/-- Reads the ranges of a step. -/
def State.readStep (s : State) (c need : Nat) (ranges : List (Nat × Nat)) : StepReads × State :=
  let b := s.ctxBasket c
  ranges.foldl (fun (a : StepReads × State) x =>
    let low := fun (va info code : Nat) => match a.1 with
      | .fault w j k => if w ≤ va then StepReads.fault w j k else .fault va info code
      | _ => .fault va info code
    match a.2.devRead b (a.2.ctxAt c).fetched x.1 x.2 need c with
    | (.ok bs, s) =>
      (match a.1 with
        | .ok l => (.ok (l ++ [(x.1, bs)]), s)
        | y => (y, s))
    | (.away, s) =>
      (match a.1 with
        | .fault w j k => (.fault w j k, s)
        | _ => (.away, s))
    | (.fault va r l, s) => (low va va 0x0C, s.recordFault b (.translation va r l))
    | (.lost m va, s) => (low va m 0x0F, s)
    | (.poison va, s) => (low va va 0x0A, s)) (StepReads.ok [], s)

/-- An accepted step is applied, and ends unless it awaits verdicts. -/
def State.stepApply (s : State) (c : Nat) (r : StepRun) (blocks copies : List (Nat × List Byte)) : State :=
  let b := s.ctxBasket c
  let before := s.kvSeqs b
  let (outs, s) := s.kvPhases b r.record blocks copies
  let joins := (outs.filter (fun o => fieldAt o.bytes 0 1 % 16 == 1)).map StepOut.join
  let r := { r with outs := outs.map StepOut.bytes, joins := joins, before := before, applied := true, since := s.time }
  let s := s.onCtx c (fun x => { x with step := some r })
  if !r.awaits then s.stepFinish c false
  else
    let lead := fieldAt r.record 0x0C 2 % 2 ^ 14
    if lead = s.me then s.settleVerdicts c
    else s.sendMsg b lead (s.get Fld.WVR_CTX_SHARE_label c) r.id (.outcomes (BitVec.ofNat 64 r.id) (joins.map Option.isSome))

/-- An operation on a sequence a step names is in flight. -/
def State.stepBusy (s : State) (b : Nat) (named : List Nat) : Bool :=
  s.shards.any (fun x =>
    match s.opEnv (x.1 / 8) (x.1 % 8) with
    | none => false
    | some e => e.basket == b && x.2.ops.any (fun o => (opSequences e o.desc).any (fun i => named.contains (i % 2 ^ 24))))

/-- BATCH_STEP_APPLY (R269, R270 steps 2 to 8, R734). -/
def execBatchStepApply (ctx : Fin 2048) (s : State) : Out :=
  let b := s.ctxBasket ctx
  match (s.ctxAt ctx).step with
  | none => .next s
  | some r =>
    if r.applied || s.stepBusy b r.named then .next s
    else match s.stepRefusal b r.record with
      | some (entry, code, info) =>
        let s := match entry with
          | some i => s.entryStatus ctx i 3
          | none => s
        .next (s.stepEnd ctx (r.record.take 64) (RecordParts.plain (fieldAt r.record 0 8) 2 code 0 info))
      | none =>
        let (tokens, copies) := s.stepReads b r.record
        match s.readStep ctx 1 tokens with
        | (.away, s) => .next s
        | (.fault va info code, s) => .next (s.stepUnread ctx va info code r.record)
        | (.ok blocks, s) =>
          match s.readStep ctx 0 copies with
          | (.ok cs, s) => .next (s.stepApply ctx r blocks cs)
          | (.away, s) => .next s
          | (.fault va info code, s) => .next (s.stepUnread ctx va info code r.record)

/-! ## The weaver's own deadlines (08 R372) -/

/-- A wait that began at a time has reached its deadline. -/
def State.pastDeadline (s : State) (since : Nat) : Bool := decide (since + s.remoteTimeout ≤ s.time)

/-- WEAVER_WAIT_TIMEOUT (06 R281; 07 R322; 08 R372; 15 R680): a wait for READY, for the span-open message, for count blocks or for
verdicts. -/
def execWeaverWaitTimeout (ctx : Fin 2048) (s : State) : Out :=
  match (s.ctxAt ctx).kernel, (s.ctxAt ctx).step with
  | some k, _ =>
    if !s.pastDeadline k.since || k.result.isSome then .next s
    else if k.waiting = some .ready ∨ k.waiting = some .span then .next ((s.startFault ctx 0x0E (kLead k.desc) 0).timeoutSeen ctx)
    else if k.gathering && k.waiting.isNone && !s.gathered k then
      .next (((s.onKernel ctx (fun k => { k with short := true })).kernelFinish ctx).timeoutSeen ctx)
    else .next s
  | none, some r =>
    if !r.awaits || !s.pastDeadline r.since then .next s
    else .next (((s.applyVerdicts ctx (r.joins.map (fun _ => false))).stepFinish ctx true).timeoutSeen ctx)
  | none, none => .next s

end Sys2Proof.Machine
end

