-- ==== Sys2Proof/Machine/Fabric.lean ====
section
/-! DEFINITION. The switch of the weave fabric: the choice of an output, forwarding, express queues, input buffers and the flits a port
sends (10 R444, R445, R448 to R455, R465 to R470, R474 to R478, R487, R490; 12 R579; log entry 179). -/

namespace Sys2Proof.Machine

/-- A rim packet (12 R541). -/
def isRimPacket (pkt : Packet) : Bool := pkt.ptype == 8 && pkt.uid == 0 && pkt.keySlot == 0 && pkt.keyEpoch == 0

/-! ## The choice of an output (10 R474 to R476, R490) -/

/-- The forwarding key of a packet (R474). -/
def packetKey (pkt : Packet) : Nat :=
  let u := pkt.uid.toNat
  (u % 2 ^ 32 ^^^ u / 2 ^ 32) ^^^ (2 ^ 14 * pkt.src.toNat ^^^ pkt.dest.toNat)

/-- The hash of a packet's forwarding key (R474). -/
def packetHash (pkt : Packet) : Nat := packetKey pkt * 0x9E3779B1 % 2 ^ 32 / 2 ^ 16

/-- The ports a basket's route entry to a module allows. -/
def State.routePorts (s : State) (pkt : Packet) : Nat :=
  ((s.basketOfUid pkt.uid.toNat).bind (fun b =>
    ((s.pieceAt b).sec.routes.find? (fun r => r.1 == pkt.dest.toNat)).map (fun r => r.2.2))).getD 0

/-- One of the candidates that a packet's module has, by the hash; none where it is dropped (R475). -/
def State.choosePort (s : State) (pkt : Packet) (routed : Bool) : Option Nat :=
  let c := s.nextPorts pkt.dest.toNat
  let c := if routed then c.filter (fun p => bitOf (s.routePorts pkt) p) else c
  if s.moduleLost pkt.dest.toNat ∨ c.isEmpty ∨ 4 ≤ pkt.links then none else (c)[packetHash pkt % c.length]?

/-- The output of a packet (R475): none where it is dropped. -/
def State.nextPort (s : State) (pkt : Packet) : Option Nat :=
  let dest := pkt.dest.toNat
  let near := (List.range 79).find? (fun p => (s.portState p == 2 || s.portState p == 3) && s.peerIs p dest)
  if s.moduleLost dest then none
  else if isRimPacket pkt && near.isSome then near
  else s.choosePort pkt (decide (pkt.src.toNat = s.me) && !isRimPacket pkt)

/-- A module at the far end of a port that is held in UP because it does not serve (R490). -/
def State.heldUp (s : State) (m : Nat) : Bool :=
  (s.portsIn 2).any (fun p => s.peerIs p m && s.flag Fld.WF_PORT_PEER_not_ready p) && !(s.portsIn 3).any (fun p => s.peerIs p m)

/-! ## Input buffers (10 R452, R453) -/

/-- Credits of a VC, or of express as 8, that an input port will return. -/
def Port.owe (x : Port) (vc n : Nat) : Port := { x with owed := x.owed.zipIdx.map (fun e => if e.2 = vc then e.1 + n else e.1) }

/-- A packet leaves its input buffer, by its number there: its flits are free, and their credits are owed. -/
def Port.freeInput (x : Port) (id : Nat) : Port :=
  match x.inputs.find? (fun i => i.id == id) with
  | .none => x
  | some i => { x.owe i.vc i.flits with inputs := x.inputs.erase i }

/-- The place of the packet of a number at a port, or among those of the local engines as port 127. -/
def placeAt (port n : Nat) : Nat := port + 128 * n

/-- A packet of an input buffer, by its place, has been taken or is acknowledged at its tail; those of the local engines have none. -/
def State.freePlace (s : State) (place : Nat) : State :=
  let p := place % 128
  if p < 80 ∧ (s.portAt p).inputs.any (fun i => i.id == place / 128) then s.setPort p ((s.portAt p).freeInput (place / 128)) else s

/-! ## Packets as flits (10 R449, R457, R458) -/

/-- The header of a packet (R458, Table 5). -/
def packetHeader (pkt : Packet) : List Byte :=
  leBytes 48 (pkt.dest.toNat + 2 ^ 16 * pkt.src.toNat + 2 ^ 32 * pkt.ptype.toNat + 2 ^ 40 * pkt.label.toNat + 2 ^ 44 * pkt.hops.toNat +
    2 ^ 48 * pkt.keySlot.toNat + 2 ^ 56 * pkt.keyEpoch.toNat + 2 ^ 64 * pkt.uid.toNat + 2 ^ 128 * pkt.ref.toNat + 2 ^ 192 * pkt.ledger.toNat +
    2 ^ 256 * pkt.args.toNat)

/-- The packet that the payload of flits spells, with the links it has crossed and its place. -/
def packetFrom (bs : List Byte) (links place : Nat) : Packet :=
  let h := leNat (bs.take 48)
  let f := fun lo w => bitsOf h lo w
  { dest := BitVec.ofNat 14 (f 0 14), src := BitVec.ofNat 14 (f 16 14), ptype := BitVec.ofNat 8 (f 32 8), label := BitVec.ofNat 4 (f 40 4),
    hops := BitVec.ofNat 2 (f 44 2), keySlot := BitVec.ofNat 8 (f 48 8), keyEpoch := BitVec.ofNat 8 (f 56 8), uid := BitVec.ofNat 64 (f 64 64),
    ref := BitVec.ofNat 64 (f 128 64), ledger := BitVec.ofNat 33 (f 192 33), args := BitVec.ofNat 128 (f 256 128), payload := bs.drop 48,
    links := links, place := place }

/-- The payloads of a packet's flits, 1 to 32: its header and the first 184 bytes after it in the HEAD, then 232 bytes a flit (R457, R458). -/
def packetFlits (pkt : Packet) : List (List Byte) :=
  (packetHeader pkt ++ pkt.payload.take 184) ::
    (List.range ((pkt.payload.length + 47) / 232)).map (fun k => (pkt.payload.drop (184 + 232 * k)).take 232)

/-- The type of the flit of a packet of `n` at an index: SOLE, HEAD, TAIL or BODY (R457). -/
def flitKind (n k : Nat) : Nat := if n = 1 then 4 else if k = 0 then 1 else if k + 1 = n then 3 else 2

/-- The VC of a packet that has crossed `links` links with the one it is to be sent on: its class, and its hop index (R449). -/
def packetVc (pkt : Packet) : Nat := 4 * bit (isResponse pkt.ptype.toNat) + (pkt.links - 1) % 4

/-- A packet is whole in the input buffer that its place names, as it says; one of the local engines, or of no buffer, is taken as it comes
(R450, R453, R455; log entry 179). -/
def State.delivered (s : State) (pkt : Packet) : Bool :=
  let p := pkt.place % 128
  decide (80 ≤ p) || (s.portAt p).inputs.any (fun i =>
    i.id == pkt.place / 128 && i.whole && { packetFrom i.bytes (i.vc % 4 + 1) pkt.place with payload := pkt.payload } == pkt &&
      (i.bytes.drop 48).take pkt.payload.length == pkt.payload)

/-! ## Forwarding (10 R475 to R477, R487, R490) -/

/-- A packet cannot go on: a request is answered, a response counted; its flits are free. -/
def State.dropPacket (s : State) (port : Nat) (pkt : Packet) (status : Nat) : State :=
  let s := s.freePlace pkt.place
  if isResponse pkt.ptype.toNat then
    (s.count Fld.WF_UNREACH_COUNT_count 0 Fld.WF_STATUS_wrap 0 1).report 0x24 port pkt.dest.toNat
  else s.answer pkt status

/-- A packet of a key waits: another of its key waits before it, or one sent on another port is not acknowledged at its tail (R477;
07 R313). -/
def State.keyWaits (s : State) (key port : Nat) : Bool :=
  s.forwardWait.any (fun w => packetKey w.2 == key) || s.sentOn.any (fun f => packetKey f.pkt == key && f.port != port)

/-- Sends a packet on by its choice of an output, drops it, or has it wait. -/
def State.forwardOne (s : State) (port : Nat) (pkt : Packet) : State :=
  if !isRimPacket pkt && s.heldUp pkt.dest.toNat then s.dropPacket port pkt 2
  else match s.nextPort pkt with
    | none => s.dropPacket port pkt 3
    | some q =>
      if s.keyWaits (packetKey pkt) q then { s with forwardWait := s.forwardWait ++ [(port, pkt)] }
      else
        let next := { pkt with links := pkt.links + 1 }
        let s : State := { s with sentOn := s.sentOn ++ [{ port := q, input := port, pkt := pkt }] }
        (s.setPort q { s.portAt q with outs := (s.portAt q).outs ++ [next] }).emit (.forward q next)

/-- The packets that wait are sent on as far as they can be, in their order. -/
def State.forwardAll (s : State) : State :=
  s.forwardWait.foldl (fun s w => s.forwardOne w.1 w.2) { s with forwardWait := [] }

/-- The tail of a packet is acknowledged: its flits are free, and packets that waited for it go on (R453, R477). -/
def State.tailAcked (s : State) (place : Nat) : State :=
  let s := { s with sentOn := s.sentOn.filter (fun f => f.pkt.place != place) }
  (s.freePlace place).forwardAll

/-- The packets meant for a port are to be sent another way (R453, R487, R488). -/
def State.recallPackets (s : State) (p : Nat) : State :=
  let mine := s.sentOn.filter (fun f => f.port == p)
  { s with sentOn := s.sentOn.filter (fun f => f.port != p), forwardWait := mine.map (fun f => (f.input, f.pkt)) ++ s.forwardWait }

/-! ## Express queues (10 R465 to R470) -/

/-- The states in which a port sends flits in every flit time (R445). -/
def State.sendsFlits (s : State) (p : Nat) : Bool := s.portState p == 2 || s.portState p == 3

/-- A field of a flit's header (R448). -/
def flitField (f : BitVec 2048) (lo w : Nat) : Nat := bitsOf f.toNat lo w

/-- The express slot of a message (R465). -/
def expressSlot (etype hop dest src body : Nat) : Nat := etype + 16 * hop + 2 ^ 8 * dest + 2 ^ 24 * src + 2 ^ 48 * body

/-- A message enters the queue of an output port, or waits at its source for room: input port `from`, or 80 for the local engines
(R467). An input port's credit is owed once its message is in the queue. -/
def State.enqueue (s : State) (q from' slot : Nat) : State :=
  let x := s.portAt q
  if x.queue.length < 64 ∧ x.waiting.isEmpty = true then
    let s := s.setPort q { x with queue := x.queue ++ [slot] }
    if from' < 80 then s.setPort from' ((s.portAt from').owe 8 1) else s
  else s.setPort q { x with waiting := x.waiting ++ [(from', slot)] }

/-- The next source whose message enters a queue, in rotating order after the one served last. -/
def nextSource (turn : Nat) (ws : List (Nat × Nat)) : Option (Nat × Nat) :=
  let ks := (List.range 81).map (fun k => (turn + 1 + k) % 81)
  ks.findSome? (fun k => ws.find? (fun w => w.1 == k))

/-- The message at the head of a queue leaves it; one that waits takes the place that is free. -/
def State.dequeue (s : State) (q : Nat) : State :=
  let x := s.portAt q
  match nextSource x.turn x.waiting with
  | none => s.setPort q { x with queue := x.queue.drop 1 }
  | some w =>
    let s := s.setPort q { x with queue := x.queue.drop 1 ++ [w.2], waiting := x.waiting.erase w, turn := w.1 }
    if w.1 < 80 then s.setPort w.1 ((s.portAt w.1).owe 8 1) else s

/-- The port on which an earlier message of the same source to the same destination is still on its way: in a queue, waiting for one, or in a
flit not acknowledged (R470). -/
def State.expressOn (s : State) (slot : Nat) : Option Nat :=
  let pair := fun m => bitsOf m 0 4 != 0 && bitsOf m 8 14 == bitsOf slot 8 14 && bitsOf m 24 14 == bitsOf slot 24 14
  (s.ports.find? (fun e => s.sendsFlits e.1 &&
    (e.2.queue.any pair || e.2.waiting.any (fun w => pair w.2) || e.2.unacked.any (fun u => pair (flitField u.1 64 128))))).map Prod.fst

/-- A message goes to the output that R475 gives with basket_uid zero, behind earlier ones of its pair, or is discarded and counted (R470). A
message names no basket, so no route entry restricts one of this module's own (DESIGN CHOICE, log entry 179). -/
def State.sendExpress (s : State) (from' slot : Nat) : State :=
  let pkt : Packet := { dest := BitVec.ofNat 14 (slot / 2 ^ 8), src := BitVec.ofNat 14 (slot / 2 ^ 24), ptype := 0, label := 0, hops := 0,
                        keySlot := 0, keyEpoch := 0, uid := 0, ref := 0, ledger := 0, args := 0, payload := [], links := bitsOf slot 4 3, place := 0 }
  match s.choosePort pkt false with
  | some q => s.enqueue ((s.expressOn slot).getD q) from' slot
  | none =>
    let s := if from' < 80 then s.setPort from' ((s.portAt from').owe 8 1) else s
    (s.count Fld.WF_UNREACH_COUNT_count 0 Fld.WF_STATUS_wrap 0 1).report 0x24 (if from' < 80 then from' else 0) pkt.dest.toNat

/-- A message that came in an express slot for another module is sent on, its hop raised by one (R470). -/
def State.forwardExpress (s : State) (p slot : Nat) : State :=
  if slot % 16 = 0 then s
  else if bitsOf slot 8 14 = s.me then s.setPort p ((s.portAt p).owe 8 1)
  else s.sendExpress p (putBits slot 4 3 (bitsOf slot 4 3 + 1))

/-- Express messages of a port that has gone are sent another way. -/
def State.recallExpress (s : State) (p : Nat) : State :=
  let x := s.portAt p
  let all := x.queue.map (fun m => (80, m)) ++ x.waiting
  all.foldl (fun s m => s.sendExpress m.1 m.2) (s.setPort p { x with queue := [], waiting := [] })

/-- The body of a RESP (R466). -/
def respBody (r : RespMsg) : Nat :=
  r.ctx.toNat + 2 ^ 11 * r.shard.toNat + 2 ^ 19 * r.entry.toNat + 2 ^ 25 * r.gen.toNat + 2 ^ 33 * r.kind.toNat + 2 ^ 37 * r.status.toNat

/-- Payload of a CTRL flit of a kind, from byte 24 (R456). -/
def ctrlPayload (kind : Nat) (body : List Byte) : List Byte := (leBytes 1 kind ++ body ++ List.replicate 231 0).take 232

/-- A link flit that waits to be sent on a port: its type, its tag and its payload. -/
def State.queueLink (s : State) (p kind tag : Nat) (payload : List Byte) : State :=
  s.setPort p { s.portAt p with link := (s.portAt p).link ++ [(kind, tag, payload)] }

/-- A packet of the local engines, the `n`-th thing the module has said, goes to another module by R475. -/
def State.sendOut (s : State) (n : Nat) (pkt : Packet) : State :=
  if pkt.dest.toNat = s.me then s else s.forwardOne 80 { pkt with place := placeAt 127 n }

/-- What the module has said goes to the ports: packets and messages to their outputs, control to the links. -/
def State.intakeOne (s : State) (n : Nat) (x : Sent) : State :=
  match x with
  | .resp dest r => if dest.toNat = s.me then s else s.sendExpress 80 (expressSlot 1 0 dest.toNat r.src.toNat (respBody r))
  | .pace dest uid point => if dest.toNat = s.me then s else s.sendExpress 80 (expressSlot 2 0 dest.toNat s.me (uid.toNat + 2 ^ 64 * point))
  | .loss p m hop => s.enqueue p 80 (expressSlot 3 hop (s.peerOf p) s.me m.toNat)
  | .ident p serving racks =>
    s.queueLink p 6 0 (ctrlPayload 1 (leBytes 3 (s.me + 2 ^ 14 * s.get Fld.CAP_MODULE_module_valid 0 + 2 ^ 15 * bit serving + 2 ^ 16 * p) ++
      leBytes 32 racks.toNat))
  | .notReady p m => s.queueLink p 6 0 (ctrlPayload 2 (leBytes 2 m.toNat))
  | .lane p l e swap => s.queueLink p 6 0 (ctrlPayload 4 (leBytes 1 (l + 4 * e + 16 * bit swap)))
  | .packet pkt => s.sendOut n pkt
  | .message pkt _ => s.sendOut n pkt
  | .rim pkt _ => s.sendOut n pkt
  | _ => s

/-- The ports take what the module has said since they last did. -/
def State.intake (s : State) : State :=
  ((s.outbox.drop s.heard).zipIdx s.heard).foldl (fun s e => s.intakeOne e.2 e.1) { s with heard := s.outbox.length }

/-! ## Flits (10 R447, R448) -/

/-- One byte of the CRC-16 with polynomial 0x1021, most significant bit first (R448; log entry 118). -/
def crcByte (c : Nat) (b : Byte) : Nat :=
  (List.range 8).foldl (fun c _ => if 2 ^ 15 ≤ c then (2 * c ^^^ 0x1021) % 2 ^ 16 else 2 * c) (c ^^^ b.toNat * 2 ^ 8)

/-- The crc of a flit: over its 256 bytes, with the field itself zero. -/
def flitCrc (bs : List Byte) : Nat := (bs.take 6 ++ [0, 0] ++ bs.drop 8).foldl crcByte 0xFFFF

/-- The bytes of a flit: byte `k` is bits [8k + 7:8k]. -/
def flitBytes (f : BitVec 2048) : List Byte := leBytes 256 f.toNat

/-- A flit is a CTRL flit of kind SEAL. -/
def isSealFlit (f : BitVec 2048) : Bool := flitField f 0 3 == 6 && flitField f 192 8 == 3

/-- The nonce of a seal group (12 R579): the group number, then the sender's port number. -/
def sealNonce (group port : Nat) : List Byte := leBytes 8 group ++ leBytes 4 port

/-- Bytes 8 to 255 of flits of a group, of which `before` came before them, under the group's stream (10 R455; log entry 114). -/
def groupCrypt (key nonce : List Byte) (before : Nat) (bytes : List Byte) : List Byte :=
  (gcmCrypt key nonce (List.replicate (248 * before) 0 ++ bytes)).drop (248 * before)

/-- The tag of a group: the headers as additional data, bytes 8 to 255 as ciphertext, in order (10 R455; log entry 114). -/
def flitsTag (key nonce : List Byte) (group : List (BitVec 2048)) : List Byte :=
  let fs := group.map flitBytes
  gcmTag key nonce (fs.flatMap (fun b => b.take 8)) (fs.flatMap (fun b => b.drop 8))

/-! ## What a port sends (10 R444, R445, R450 to R452, R455, R457, R468) -/

/-- A flit leaves on the active lanes: bytes 0 to 127 on the lower-lettered, the others on the other; whole on the one that survives
(R444, R486). -/
def State.onLanes (s : State) (p : Nat) (f : BitVec 2048) : Sent :=
  let l := s.get Fld.WF_PORT_STATE_lane_lo p
  let h := s.get Fld.WF_PORT_STATE_lane_hi p
  let one := if (s.portAt p).training = some l ∨ (s.portAt p).farLane = some l then h else l
  if s.flag Fld.WF_PORT_STATE_half_rate p then .flit p one one (f.extractLsb' 0 1024) (f.extractLsb' 1024 1024)
  else .flit p (min l h) (max l h) (f.extractLsb' 0 1024) (f.extractLsb' 1024 1024)

/-- The credits a flit returns: of the lowest VC that has some owed, express last (DESIGN CHOICE, log entry 179). -/
def Port.returns (x : Port) : Nat × Nat :=
  match x.owed.zipIdx.find? (fun e => decide (0 < e.1)) with
  | some e => (e.2, min 64 e.1)
  | .none => (15, 1)

/-- Sends a flit: its link number and acknowledgement, the credits it returns, the message at the head of the express queue where
there is an express credit, encrypted on an encrypted port but for a seal; it is kept until it is acknowledged. `last` is the place
of a packet that ends with it. -/
def State.sendFlit (s : State) (p kind vc tag seq : Nat) (payload : List Byte) (last : Option Nat) (plain : Bool) : State :=
  let x := s.portAt p
  let express := !plain && !x.queue.isEmpty && decide (0 < x.credits.getD 8 0)
  let slot := if express then x.queue.headD 0 else 0
  let (cv, cn) := x.returns
  let link := (x.txSeq + 1) % 256
  let head := kind + 8 * vc + 2 ^ 6 * tag + 2 ^ 14 * seq + 2 ^ 20 * link + 2 ^ 28 * x.rxSeq + 2 ^ 36 * cv + 2 ^ 40 * (cn - 1)
  let body := leBytes 16 slot ++ (payload ++ List.replicate 232 0).take 232
  let cover := s.flag Fld.WF_PORT_STATE_encrypted p && !plain
  let body := if cover then groupCrypt (keyBytes (s.keyOf (txSlot p)) 32) (sealNonce x.txGroupNo p) x.txGroup.length body else body
  let bytes := leBytes 8 head ++ body
  let f : BitVec 2048 := BitVec.ofNat 2048 (leNat bytes + 2 ^ 48 * flitCrc bytes)
  let x := { x with
    txSeq := link, unacked := x.unacked ++ [(f, last)], txGroup := if cover then x.txGroup ++ [f] else x.txGroup,
    owed := x.owed.zipIdx.map (fun e => if e.2 = cv then e.1 - cn else e.1),
    credits := if express then x.credits.set 8 (x.credits.getD 8 0 - 1) else x.credits }
  let s := (s.setPort p x).emit (s.onLanes p f)
  if express then s.dequeue p else s

/-- Sends the seal of a port's group; the next group begins (R455; 12 R579). -/
def State.sendSeal (s : State) (p : Nat) : State :=
  let x := s.portAt p
  let tag := flitsTag (keyBytes (s.keyOf (txSlot p)) 32) (sealNonce x.txGroupNo p) x.txGroup
  (s.setPort p { x with txGroup := [], txGroupNo := (x.txGroupNo + 1) % 2 ^ 64 }).sendFlit p 6 0 0 0 (ctrlPayload 3 tag) none true

/-- A port may not send: it does not exchange flits, or 127 are unacknowledged (R451). A port in TRAINING sends its link flits alone. -/
def State.linkBlocked (s : State) (p : Nat) : Bool :=
  let x := s.portAt p
  decide (127 ≤ x.unacked.length) || !(s.sendsFlits p || (s.portState p == 1 && !x.link.isEmpty))

/-- A beat of a port that its link takes: a seal that is due, or a link flit that waits. -/
def State.linkBeat (s : State) (p : Nat) : Option State :=
  let x := s.portAt p
  if s.flag Fld.WF_PORT_STATE_encrypted p ∧ 8 ≤ x.txGroup.length then some (s.sendSeal p)
  else match x.link with
    | [] => none
    | (kind, tag, payload) :: rest => some ((s.setPort p { x with link := rest }).sendFlit p kind 0 tag 0 payload none false)

/-- A beat of a port with nothing else to send: the seal of a group that is open, or an EMPTY flit (R445, R455). -/
def State.idleBeat (s : State) (p : Nat) : State :=
  if s.flag Fld.WF_PORT_STATE_encrypted p ∧ (s.portAt p).txGroup.isEmpty = false then s.sendSeal p
  else (s.count Fld.WF_TX_EMPTY_COUNT_count p Fld.WF_PORT_STATUS_wrap p 5).sendFlit p 0 0 0 0 [] none false

/-- The packet of a request at a port. -/
def State.outPacket (s : State) (p : Nat) (r : ArbReq) : Option Packet := (s.portAt p).outs.find? (fun k => k.place == r.place)

/-- A packet may send a flit on a port: its VC holds a credit, it has a tag or one is free, and a port in UP carries rim packets alone
(R452, R457, R478; 12 R541). -/
def State.mayStart (s : State) (p : Nat) (r : ArbReq) : Bool :=
  let x := s.portAt p
  match s.outPacket p r with
  | none => false
  | some pkt => decide (0 < x.credits.getD (packetVc pkt) 0) && (s.portState p == 3 || isRimPacket pkt) &&
      (x.sending.any (fun o => o.place == r.place) || decide (x.sending.length < 256))

/-- Sends the next flit of a packet on a port: under its tag, the lowest that is free for a new one (DESIGN CHOICE, log entry 179),
with its next seq, on its VC's credit (R449, R452, R457). -/
def State.packetBeat (s : State) (p : Nat) (r : ArbReq) : State :=
  match s.outPacket p r with
  | none => s
  | some pkt =>
    let x := s.portAt p
    let flits := packetFlits pkt
    let vc := packetVc pkt
    let o := (x.sending.find? (fun o => o.place == r.place)).getD
      { place := r.place, tag := ((List.range 256).find? (fun t => !x.sending.any (fun o => o.tag == t))).getD 0, seq := 0 }
    let rest := x.sending.filter (fun o => o.place != r.place)
    let ends := decide (flits.length ≤ o.seq + 1)
    let x := { x with
      sending := if ends then rest else { o with seq := o.seq + 1 } :: rest,
      outs := if ends then x.outs.filter (fun k => k.place != r.place) else x.outs,
      credits := x.credits.set vc (x.credits.getD vc 0 - 1) }
    (s.setPort p x).sendFlit p (flitKind flits.length o.seq) vc o.tag o.seq (flits.getD o.seq []) (if ends then some r.place else none) false

/-! ## What a flit that has been released does (10 R450 to R454) -/

/-- Credits come back for a VC or for express: no more than a sender holds (R452). -/
def addCredit (cs : List Nat) (vc n : Nat) : List Nat :=
  if 9 ≤ vc then cs else cs.zipIdx.map (fun e => if e.2 = vc then min (if vc = 8 then 32 else 96) (e.1 + n) else e.1)

/-- The flits that remain unacknowledged after an acknowledgement. -/
def stillUnacked (ack : Nat) (l : List (BitVec 2048 × Option Nat)) : List (BitVec 2048 × Option Nat) :=
  if l.any (fun e => flitField e.1 20 8 == ack) then (l.dropWhile (fun e => flitField e.1 20 8 != ack)).drop 1 else l

/-- The packets an acknowledgement reaches the tails of. -/
def Port.acks (x : Port) (ack : Nat) : List Nat :=
  (x.unacked.take (x.unacked.length - (stillUnacked ack x.unacked).length)).filterMap Prod.snd

/-- The packet open in an input buffer under a tag. -/
def Port.openInput (x : Port) (tag : Nat) : Option InPacket := x.inputs.find? (fun i => i.tag == tag && !i.whole)

/-- What a released flit's header says takes effect: the acknowledgement, the credits, which packets are open, and the flits its packet
has in the input buffer: one more, of its VC and next in its order. -/
def Port.release (x : Port) (f : BitVec 2048) : Port :=
  let kind := flitField f 0 3
  let tag := flitField f 6 8
  let body := (flitBytes f).drop 24
  let y := { x with
    ack := flitField f 28 8, unacked := stillUnacked (flitField f 28 8) x.unacked,
    credits := addCredit x.credits (flitField f 36 4) (flitField f 40 6 + 1),
    opened := if kind = 1 then tag :: x.opened.filter (· != tag) else if kind = 3 ∨ kind = 5 then x.opened.filter (· != tag) else x.opened }
  if kind = 1 ∨ kind = 4 then
    { y with
      arrived := y.arrived + 1,
      inputs := y.inputs ++ [{ id := y.arrived, tag := tag, vc := flitField f 3 3, flits := 1, whole := kind == 4, bytes := body }] }
  else match x.openInput tag with
    | .none => y
    | some i =>
      if (kind = 2 ∨ kind = 3) ∧ flitField f 3 3 = i.vc ∧ flitField f 14 6 = i.flits then
        { y with inputs := y.inputs.map (fun j => if j = i then { i with flits := i.flits + 1, whole := kind == 3, bytes := i.bytes ++ body } else j) }
      else if kind = 5 then y.freeInput i.id
      else y

/-- The packet of a place that another port is to send is closed there: an ABORT follows what it has sent (R454). -/
def State.abortPlace (s : State) (place : Nat) : State :=
  let s := s.ports.foldl (fun s e =>
    let x := { s.portAt e.1 with outs := (s.portAt e.1).outs.filter (fun k => k.place != place) }
    match e.2.sending.find? (fun o => o.place == place) with
    | none => if e.2.outs.any (fun k => k.place == place) then s.setPort e.1 x else s
    | some o => (s.setPort e.1 { x with sending := x.sending.erase o }).queueLink e.1 5 o.tag []) s
  { s with sentOn := s.sentOn.filter (fun f => f.pkt.place != place), forwardWait := s.forwardWait.filter (fun w => w.2.place != place) }

/-- A whole packet of an input buffer is one that the rim of this module takes as it comes (12 R541). -/
def State.rimTakes (s : State) (i : InPacket) : Bool :=
  let pkt := packetFrom i.bytes 0 0
  i.whole && isRimPacket pkt && pkt.dest.toNat == s.me

/-- A flit that has been released, its bytes in the clear: its header takes effect, packets acknowledged at their tails are let go, a
message goes on, an ABORT too, and a rim packet for this module is taken (R450, R453, R454, R470; log entry 179). -/
def State.released (s : State) (p : Nat) (f : BitVec 2048) : State :=
  let x := s.portAt p
  let s := s.setPort p (x.release f)
  let s := (x.acks (flitField f 28 8)).foldl State.tailAcked s
  let s := s.forwardExpress p (flitField f 64 128)
  let s := match if flitField f 0 3 = 5 then x.openInput (flitField f 6 8) else none with
    | some i => s.abortPlace (placeAt p i.id)
    | none => s
  ((s.portAt p).inputs.filter s.rimTakes).foldl (fun s i => s.freePlace (placeAt p i.id)) s

/-- A port stops: what it was sending is to be sent another way, and packets open on it are closed (R454, R487, R488). -/
def State.linkDown (s : State) (p : Nat) : State :=
  let x := s.portAt p
  let opened := x.inputs.filter (fun i => !i.whole)
  let s := s.setPort p { x with
    unacked := [], sending := [], outs := [], link := [], txGroup := [], inputs := x.inputs.filter (fun i => i.whole) }
  (opened.foldl (fun s i => s.abortPlace (placeAt p i.id)) s).recallPackets p

end Sys2Proof.Machine
end

