-- ==== Sys2Proof/Machine/Links.lean ====
section
/-! DEFINITION. The weave links: flits, seal groups, port states, lanes, loss and retirement (10 R443 to R456, R472, R473, R485 to
R490; 12 R578 to R580; 09 R412, R424). -/

namespace Sys2Proof.Machine

/-! ## Flits (10 R447 to R455) -/

/-- A port exchanges flits: it trains, is UP or is READY. -/
def State.exchanges (s : State) (p : Nat) : Bool := decide (1 ≤ s.portState p) && decide (s.portState p ≤ 3)

/-- FLIT_RECEIVE (10 R448, R450, R453 to R455, R493): what the FEC of its codeword found is counted; what a flit says at the link. A packet, message or control flit it carries is delivered by
its own row. -/
def execFlitReceive (port : Fin 80) (fec : EccResult) (flit : BitVec 2048) (s : State) : Out :=
  let x := s.portAt port
  let s := if fec = .corrected ∧ s.exchanges port = true then s.count Fld.WF_FEC_CORR_COUNT_count port Fld.WF_PORT_STATUS_wrap port 0 else s
  if !s.exchanges port then .next s
  else if fec = .uncorrectable then .next (s.count Fld.WF_FEC_UNCORR_COUNT_count port Fld.WF_PORT_STATUS_wrap port 1)
  else if flitCrc (flitBytes flit) ≠ flitField flit 48 16 ∨ flitField flit 20 8 ≠ (x.rxSeq + 1) % 256 then .next s
  else
    let x := { x with rxSeq := flitField flit 20 8 }
    let s := s.bump64 Fld.FC_ENG_PROGRESS_LO_lo Fld.FC_ENG_PROGRESS_HI_hi (292 + port)
    if !s.flag Fld.WF_PORT_STATE_encrypted port then .next ((s.setPort port x).released port flit)
    else if isSealFlit flit then .next ((s.setPort port x).released port flit)
    else .next (s.setPort port { x with group := x.group ++ [flit] })

/-- REPLAY_TIMEOUT (10 R451): a sender's unacknowledged flits go out again from the oldest. -/
def execReplayTimeout (port : Fin 80) (s : State) : Out :=
  let x := s.portAt port
  if !s.exchanges port || x.unacked.isEmpty then .next s
  else
    let s := s.count Fld.WF_REPLAY_COUNT_count port Fld.WF_PORT_STATUS_wrap port 2
    .next (x.unacked.foldl (fun s e => s.emit (s.onLanes port e.1)) s)

/-- The key and the nonce of the group a port receives. -/
def State.rxGroup (s : State) (p : Nat) : List Byte × List Byte :=
  (keyBytes (s.keyOf (rxSlot p)) 32, sealNonce (s.portAt p).groupNo (s.get Fld.WF_PORT_PEER_peer_port p))

/-- The tag of the group a port has received. -/
def State.groupTag (s : State) (p : Nat) : List Byte := flitsTag (s.rxGroup p).1 (s.rxGroup p).2 (s.portAt p).group

/-- The flits of the group a port has received, in the clear. -/
def State.groupPlain (s : State) (p : Nat) : List (BitVec 2048) :=
  (s.portAt p).group.zipIdx.map (fun e =>
    let b := flitBytes e.1
    BitVec.ofNat 2048 (leNat (b.take 8 ++ groupCrypt (s.rxGroup p).1 (s.rxGroup p).2 e.2 (b.drop 8))))

/-- A seal failure is counted and told (10 R455; 12 R580). -/
def State.sealFailed (s : State) (p : Nat) : State :=
  (s.count Fld.WF_SEAL_FAIL_COUNT_count p Fld.WF_PORT_STATUS_wrap p 6).report 0x26 p 0

/-- SEAL (10 R455): a group whose seal verifies is released; another is discarded, and comes again by a replay. -/
def execSealFlit (port : Fin 80) (tag : BitVec 128) (s : State) : Out :=
  let x := s.portAt port
  match x.group with
  | [] => .next s
  | f :: _ =>
    if !s.flag Fld.WF_PORT_STATE_encrypted port then .next s
    else if s.groupTag port = leBytes 16 tag.toNat then
      let s' := s.setPort port { x with group := [], groupNo := (x.groupNo + 1) % 2 ^ 64 }
      .next ((s.groupPlain port).foldl (fun t f => t.released port f) s')
    else .next ((s.setPort port { x with group := [], rxSeq := (flitField f 20 8 + 255) % 256 }).sealFailed port)

/-! ## Training, IDENT and NOT_READY (10 R445, R446, R472, R490) -/

/-- PORT_SIGNAL_DETECT (10 R445, R472; 14 R648): a port that is DOWN, enabled and not under reset begins to train. -/
def execPortSignalDetect (port : Fin 80) (s : State) : Out :=
  if s.portState port = 0 ∧ s.flag Fld.WF_PORT_CTRL_enable port = true ∧ s.run.phase = .running ∧
      s.fc.fenced.contains (292 + port.val) = false then
    .next (s.set Fld.WF_PORT_STATE_state port 1)
  else .next s

/-- The link keys of a global port are given up: every retraining needs a new session (12 R580). -/
def State.dropLinkKeys (s : State) (p : Nat) : State :=
  if isGlobalPort p then ((s.zeroSlot (txSlot p)).zeroSlot (rxSlot p)).set Fld.WF_PORT_STATE_encrypted p 0 else s

/-- LINK_TRAINED (10 R472): the lanes of a port that trains, or of a LOST port that is trying again, have trained; IDENT goes out. -/
def execLinkTrained (port : Fin 80) (s : State) : Out :=
  let x := s.portAt port
  if s.portState port = 1 ∨ (s.portState port = 4 ∧ x.training = some 3) then
    let s := s.setPort port Port.none
    let s := (s.dropLinkKeys port).setAll port [(Fld.WF_PORT_STATE_state, 1), (Fld.WF_PORT_STATE_half_rate, 0),
      (Fld.WF_PORT_PEER_not_ready, 0)]
    .next ((s.showPeer port).sendIdent port)
  else .next s

/-- LOST_PORT_RETRAIN (10 R446): every 10 ms a LOST port starts training again; it stays LOST until its lanes have trained
(log entry 112). -/
def execLostPortRetrain (port : Fin 80) (s : State) : Out :=
  let x := s.portAt port
  if s.portState port = 4 ∧ x.lostAt + 10000 ≤ s.time ∧ s.flag Fld.WF_PORT_CTRL_enable port = true then
    .next (s.setPort port { x with training := some 3, lostAt := s.time })
  else .next s

/-- IDENT (10 R456, R472): the far end is known, and the port is UP, with full credits, or READY. -/
def execIdent (port : Fin 80) (module : ModuleId) (known serving : Bool) (peerPort : BitVec 7) (racks : BitVec 256) (s : State) : Out :=
  if !s.exchanges port then .next s
  else
    let x := { s.portAt port with peerServing := known && serving, racks := racks }
    let up := s.portState port == 1
    let s := s.setPort port (if up then { x with credits := List.replicate 8 96 ++ [32] } else x)
    let s := s.setAll port [(Fld.WF_PORT_PEER_peer, module.toNat), (Fld.WF_PORT_PEER_peer_valid, bit known),
      (Fld.WF_PORT_PEER_peer_port, peerPort.toNat)]
    let s := if known && serving then s.set Fld.WF_PORT_PEER_not_ready port 0 else s
    let s := if up then s.set Fld.WF_PORT_STATE_state port 2 else s
    .next ((s.settlePort port).showPeer port)

/-- NOT_READY (10 R490): the port is held in UP, with not_ready set. -/
def execNotReady (port : Fin 80) (module : ModuleId) (s : State) : Out :=
  if s.portState port ≠ 2 ∧ s.portState port ≠ 3 then .next s
  else
    let s := s.setPort port { s.portAt port with peerServing := false }
    let s := s.setAll port [(Fld.WF_PORT_PEER_peer, module.toNat), (Fld.WF_PORT_PEER_not_ready, 1)]
    .next ((s.settlePort port).showPeer port)

/-- NOT_READY_REPEAT (10 R490): a module that does not serve says so on every port that has trained. -/
def execNotReadyRepeat (s : State) : Out :=
  if s.flag Fld.WF_CTRL_serving 0 then .next s
  else .next ((s.portsIn 2).foldl (fun s p => s.emit (.notReady p (BitVec.ofNat 14 (s.get Fld.CAP_MODULE_module 0)))) s)

/-! ## Loss (10 R485, R488, R489) -/

/-- A wait of an operation is for a module. -/
def State.waitsOn (s : State) (c b m : Nat) (w : Wait) : Bool :=
  match w with
  | .take n _ => n == m
  | .read n _ _ => n == m
  | .written n _ => n == m
  | .signalled n _ => n == m
  | .payload r => s.rankModule c r == some m
  | .partials r => s.rankModule c r == some m
  | .move id =>
    (match (s.moves.find? (fun x => x.id == id)).map Move.kind with
      | some (.bringT3 n _) => n == m
      | _ => false)
  | .fence va => s.liesOn b va m
  | .dma _ => false

/-- Every ledger entry that awaits a module completes, and its operation faults with peer-lost. -/
def State.loseOps (s : State) (m : Nat) : State :=
  s.shards.foldl (fun s r =>
    let c := (Sparse.get Slot.none s.slots r.1).ctx
    r.2.ops.foldl (fun s o =>
      if !o.ready && o.waits.any (s.waitsOn c (s.slotBasket r.1) m) then s.failEntry (r.1 / 8) (r.1 % 8) o 0x0F m else s) s) s

/-- What the command of a context, or its kernel, has asked of a module or sent to it cannot be had any more: it ends with peer-lost. -/
def State.loseCtx (s : State) (m : Nat) (c : Nat) : State :=
  let b := s.ctxBasket c
  match (s.ctxAt c).kernel with
  | none =>
    (match (s.ctxAt c).cmd with
      | some k => if (s.ctxAt c).item.isNone && (s.missingAt c m (s.cmdRanges c k)).isSome then s.cmdFail c m 3 k else s
      | none => s)
  | some k =>
    if k.waiting = some .signal then (if s.liesOn b (fieldAt k.desc 0x60 7) m then s.kernelSignalled c (some (0x0F, m)) else s)
    else if k.waiting = some .fence then (if s.liesOn b (fieldAt k.desc 0x50 7) m then s.ctxFail c m 3 else s)
    else if k.waiting = some .fetch then
      let rs := if k.gathering then mRanges k.manifest (mIns k.manifest) (mOuts k.manifest) else mRanges k.manifest 0 (mIns k.manifest)
      if (s.missingAt c m (rs.map (fun x => (x.1, x.2, 0)))).isSome then s.ctxFail c m 3 else s
    else if k.started then s.ctxFail c m 3 else s

/-- Moves to or from a module are given up. -/
def State.loseMoves (s : State) (m : Nat) : State :=
  (s.moves.filter (fun x => match x.kind with
    | .bringT3 n _ => n == m
    | .spillT3 n _ => n == m
    | .guestIn n => n == m
    | _ => false)).foldl (fun s x => (s.abandonMove x).moveOver x.id) s

/-- What the device itself has asked of a module, or sent to it, is given up, and so are drivers' signals. -/
def State.loseOwn (s : State) (m : Nat) : State :=
  let s := (s.own.filter (fun q => q.module == m)).foldl (fun s q => s.ownFail q 3) { s with own := s.own.filter (fun q => q.module != m) }
  let s := (s.fenceOps.filter (fun e => e.2.sent && s.liesOn e.2.basket e.2.va m)).foldl (fun s e => s.fenceOpEnd e.1 false) s
  s.fenceOpsRun 32

/-- A module is marked lost (10 R473). -/
def State.markLost (s : State) (m : Nat) : State :=
  if s.moduleLost m then s else { s with lostModules := s.lostModules ++ [m] }

/-- LOSS goes out on every READY port. -/
def State.sendLoss (s : State) (m hop : Nat) : State :=
  (s.portsIn 3).foldl (fun s p => s.emit (.loss p (BitVec.ofNat 14 m) hop)) s

/-- Packets open on a port are closed: an ABORT follows each that has been forwarded in part (10 R454). -/
def State.closePackets (s : State) (p : Nat) : State :=
  let x := s.portAt p
  (x.opened.foldl (fun s t => s.emit (.abort p t)) s).setPort p { x with opened := [], group := [], peerServing := false }

/-- A port leaves UP or READY for another state: what it was sending is to go another way. -/
def State.leaveUp (s : State) (p st : Nat) : State :=
  let was := s.portState p
  let s := ((s.closePackets p).linkDown p).set Fld.WF_PORT_STATE_state p st
  if was = 3 ∧ isGlobalPort p = true then s.sendIdents else s

/-- The event of a cause of loss has lasted long enough (10 R485). -/
def lossSeen : LossCause → Bool
  | .idle ns => decide (500 ≤ ns)
  | .silent flits => decide (128 ≤ flits)

/-- PORT_LOST (10 R473, R485, R488, Table 12). -/
def execPortLost (port : Fin 80) (cause : LossCause) (s : State) : Out :=
  if (s.portState port ≠ 2 ∧ s.portState port ≠ 3) ∨ lossSeen cause = false then .next s
  else
    let m := s.peerOf port
    let known := s.flag Fld.WF_PORT_PEER_peer_valid port
    let s := s.leaveUp port 4
    let s := s.setPort port { s.portAt port with lostAt := s.time, training := none }
    let s := s.set Fld.WF_PORT_STATUS_lost port 1
    let s := (s.set Fld.WF_STATUS_loss 0 1).count Fld.WF_LOSS_COUNT_count 0 Fld.WF_STATUS_wrap 0 0
    let s := if known then
        let s := (s.markLost m).loseOps m
        (s.contexts.map Prod.fst).foldl (fun s c => s.loseCtx m c) ((s.loseMoves m).loseOwn m)
      else s
    let s := s.showPeer port
    let s := if s.flag Fld.WF_CTRL_loss_event_en 0 then s.report 0x20 port m else s
    .next ((if known then s.sendLoss m 0 else s).recallExpress port).forwardAll

/-- LOSS (10 R489; 09 R424): a module not yet marked is marked, moves to it or from it are given up, and below hop 2 the message goes on. -/
def execLossMsg (lost : ModuleId) (hop : Nat) (s : State) : Out :=
  if s.moduleLost lost.toNat then .next s
  else
    let s := ((s.markLost lost.toNat).loseMoves lost.toNat).loseOwn lost.toNat
    .next (if hop < 2 then s.sendLoss lost.toNat (hop + 1) else s)

/-! ## Lanes and retirement (10 R486, R487) -/

/-- The active lane positions of a port. -/
def State.lanes (s : State) (p : Nat) : List Nat := [s.get Fld.WF_PORT_STATE_lane_lo p, s.get Fld.WF_PORT_STATE_lane_hi p]

/-- Position S takes the place of a position that leaves; the service record is updated (Table 11 step 4). -/
def State.swapLane (s : State) (p leaving : Nat) : State :=
  let other := (s.lanes p).filter (· != leaving)
  let s := s.setAll p [(Fld.WF_PORT_STATE_lane_lo, other.headD 0), (Fld.WF_PORT_STATE_lane_hi, 2), (Fld.WF_PORT_STATE_half_rate, 0),
    (Fld.WF_PORT_STATE_spare_used, 1), (Fld.WF_PORT_STATUS_swapped, 1)]
  let s := s.setPort p { s.portAt p with training := none, farLane := none }
  let s := { s with service := { s.service with spareUsed := Sparse.set 0 s.service.spareUsed p (leaving + 1) } }
  s.report 0x21 p leaving

/-- A port retires: it sends no flit again (10 R487; 07 R332). -/
def State.retirePort (s : State) (p : Nat) : State :=
  if s.portState p = 5 then s
  else
    let s := s.leaveUp p 5
    let s := { s with service := { s.service with
      retiredPorts := if s.service.retiredPorts.contains p then s.service.retiredPorts else s.service.retiredPorts ++ [p] } }
    ((((s.shrinkLoad (fun x => bitOf x.ports p)).set Fld.WF_PORT_CTRL_retire p 1).refreshCaps.showPeer p).report 0x22 p 0).recallExpress p |>.forwardAll

/-- A lane fails (R486). -/
def State.laneBad (s : State) : LaneFault → Bool
  | .lossOfLock => true
  | .codewords n => decide (s.get Fld.WF_LANE_THRESH_count 0 < n)

/-- LANE_FAIL (10 R486, Table 11 steps 1 and 2): the port goes on with one lane, tells its peer, and retrains the other. -/
def execLaneFail (port : Fin 80) (lane : Fin 3) (why : LaneFault) (s : State) : Out :=
  let up := s.portState port == 2 || s.portState port == 3
  if !up || !s.laneBad why || !(s.lanes port).contains lane.val || (s.portAt port).training.isSome then .next s
  else
    let s := s.setPort port { s.portAt port with training := some lane.val }
    .next ((s.set Fld.WF_PORT_STATE_half_rate port 1).emit (.lane port lane (((s.lanes port).filter (· != lane.val)).headD 0) false))

/-- The recovery counter of a lane position. -/
def laneRec (l : Nat) : Field :=
  if l = 0 then Fld.WF_LANE_RECOVERY_rec_a else if l = 1 then Fld.WF_LANE_RECOVERY_rec_b else Fld.WF_LANE_RECOVERY_rec_s

/-- LANE_RETRAIN_DONE (10 R486, Table 11 steps 3 to 5; 14 R641). A lane that the peer retrains is back once it has trained here as well; what
becomes of one that does not is the peer's to say. -/
def execLaneRetrainDone (port : Fin 80) (retrained spareTrained : Bool) (s : State) : Out :=
  match (s.portAt port).training with
  | none =>
    if retrained && (s.portAt port).farLane.isSome then
      .next ((s.setPort port { s.portAt port with farLane := none }).set Fld.WF_PORT_STATE_half_rate port 0)
    else .next s
  | some l =>
    if 3 ≤ l then .next s
    else
      let p := port.val
      let n := s.get (laneRec l) p
      let s := s.setPort p { s.portAt p with training := none }
      if retrained ∧ n < 255 then
        let s := (s.set (laneRec l) p (n + 1)).set Fld.WF_PORT_STATE_half_rate p (bit (s.portAt p).farLane.isSome)
        let s := { s with service := { s.service with laneRec := Sparse.set 0 s.service.laneRec (3 * p + l) (n + 1) } }
        .next (s.report 0x27 p l)
      else if s.flag Fld.WF_PORT_STATE_spare_used p = false ∧ spareTrained = true then
        .next ((s.emit (.lane p l 2 true)).swapLane p l)
      else .next (s.retirePort p)

/-- LANE (10 R456, R486): the peer sends on one lane, or swaps its spare in. -/
def execLaneFlit (port : Fin 80) (leaving entering : Fin 4) (swap : Bool) (s : State) : Out :=
  let up := s.portState port == 2 || s.portState port == 3
  if !up || !(s.lanes port).contains leaving.val then .next s
  else if !swap then .next ((s.setPort port { s.portAt port with farLane := some leaving.val }).set Fld.WF_PORT_STATE_half_rate port 1)
  else if entering = 2 ∧ s.flag Fld.WF_PORT_STATE_spare_used port = false then .next (s.swapLane port leaving)
  else .next s

/-- A port that is no longer enabled is held DOWN (10 R445, R493). -/
def State.portHeld (s : State) (p : Nat) : State :=
  if s.flag Fld.WF_PORT_CTRL_enable p || s.portState p == 5 || s.portState p == 0 then s
  else ((s.leaveUp p 0).showPeer p).recallExpress p |>.forwardAll

/-- PORT_RETIRE (10 R487, R493): retire acts only on writes from rim firmware. -/
def execPortRetire (a : Agent) (port : Fin 80) (v : Word32) (s : State) : Out :=
  let off := 0xA1008 + 0x40 * port.val
  if !s.takes a off then .next s
  else
    let s := (s.mmioWrite a off v.toNat).portHeld port
    .next (if a = .rim ∧ bitOf v.toNat 1 = true then s.retirePort port else s)

/-! ## Link keys (12 R578 to R580) -/

/-- The link keys of a global port are installed; groups count from 0 (12 R579). -/
def State.installLinkKeys (s : State) (p : Nat) (tx rx : BitVec 256) : State :=
  let s := s.dropLinkKeys p
  let s := s.loadKey (txSlot p) 2 (keyFrom (beBytes 32 tx.toNat)) false false useUncounted
  let s := s.loadKey (rxSlot p) 2 (keyFrom (beBytes 32 rx.toNat)) false false useUncounted
  (s.setPort p { s.portAt p with group := [], groupNo := 0, txGroup := [], txGroupNo := 0 }).set Fld.WF_PORT_STATE_encrypted p 1

/-- GLOBAL_PORT_KEY_EXCHANGE (12 R578, R580): the rims at the ends of a port in UP have finished a session; one that failed leaves
the port in UP and counts as a seal failure. -/
def execGlobalPortKeyExchange (g : Fin 16) (ok : Bool) (tx rx : BitVec 256) (s : State) : Out :=
  let p := 63 + g.val
  if s.portState p ≠ 2 then .next s
  else if !ok then .next (s.sealFailed p)
  else .next ((((s.installLinkKeys p tx rx).sendIdent p).settlePort p).showPeer p)

/-- KEY_UPDATE (12 R580): the rims replace the keys of an encrypted port. -/
def execKeyUpdate (g : Fin 16) (tx rx : BitVec 256) (s : State) : Out :=
  let p := 63 + g.val
  if s.flag Fld.WF_PORT_STATE_encrypted p then .next (s.installLinkKeys p tx rx) else .next s

end Sys2Proof.Machine
end

