-- ==== Sys2Proof/Machine/Packets.lean ====
section
/-! DEFINITION. Packets of the weave fabric: forwarding, and what each type does where it is delivered (10 R457 to R464, R473 to R477,
R490; 07 R323; 08 R376; 05 R231 to R236; 09 R412, R420, R421, R737; 12 R558, R583). -/

namespace Sys2Proof.Machine

/-! ## Answers and checks on arrival -/

/-- A packet's epoch is not one that its key slot takes: the current one or the one after it, where the slot is of the memory class; a slot
that is being revoked takes none (10 R463; 12 R542, R583). -/
def State.staleEpoch (s : State) (pkt : Packet) : Bool :=
  let k := pkt.keySlot.toNat
  let e := s.get Fld.KS_ATTR_epoch k
  s.get Fld.KS_ATTR_state k == 2 ||
    (s.get Fld.KS_ATTR_class k == 1 && pkt.keyEpoch.toNat != e && pkt.keyEpoch.toNat != (e + 1) % 256)

/-- A stale packet is discarded, counted and told: the slot in info [7:0], the module in [21:8]. Of one that
came in by no port the instance is free (log entry 116). -/
def State.dropStale (s : State) (pkt : Packet) : State :=
  let s := s.count Fld.WF_EPOCH_DROP_COUNT_count 0 Fld.WF_STATUS_wrap 0 2
  let port := if pkt.place % 128 < 80 then pkt.place % 128 else s.freeValue % 80
  let s := s.drawn.report 0x25 port (pkt.keySlot.toNat + pkt.src.toNat * 2 ^ 8)
  if isResponse pkt.ptype.toNat then s else s.answer pkt 5

/-- The basket of a uid that this module holds in state LOCAL or READY (07 R323). -/
def State.boundUid (s : State) (uid : Nat) : Option Nat :=
  (s.basketOfUid uid).bind (fun b => if s.get Fld.CAP_BASKET_state b = 1 ∨ s.get Fld.CAP_BASKET_state b = 2 then some b else none)

/-- The arrival of a packet of a type at this module, once it is whole in its input buffer: its links, its source's mark and its epoch; then
what it does. -/
def State.arriveHere (s : State) (pkt : Packet) (t : Nat) (f : State → State) : State :=
  if s.halted ∨ pkt.ptype.toNat ≠ t ∨ pkt.dest.toNat ≠ s.me ∨ s.delivered pkt = false then s
  else
    let s := if pkt.hops.toNat < pkt.links then s.count Fld.WF_HOP_EXCESS_COUNT_count 0 Fld.WF_STATUS_wrap 0 3 else s
    let s := (s.unmarkLost pkt.src.toNat).freePlace pkt.place
    if s.staleEpoch pkt then s.dropStale pkt else f s

/-- The arrival of a packet of a basket: what it does there. -/
def State.arrive (s : State) (pkt : Packet) (t : Nat) (f : State → Nat → State) : State :=
  s.arriveHere pkt t (fun s =>
    match (if s.flag Fld.WF_CTRL_serving 0 then s.boundUid pkt.uid.toNat else none) with
    | some b => f s b
    | none => if isResponse t then s else s.answer pkt 2)

/-! ## Messages of a basket (10 R459; 05 R190; 06 R279) -/

/-- The arrival of a message of a kind and ref for a context of its basket. -/
def State.arriveMsg (s : State) (pkt : Packet) (kind ref ctx : Nat) (f : State → State) : State :=
  s.arrive pkt 8 (fun s b =>
    if bitsOf pkt.args.toNat 0 8 = kind ∧ pkt.ref.toNat = ref ∧ s.ctxBasket ctx = b then f s else s)

/-- JOIN_OUTCOMES (06 R279): the outcomes of a member for the step whose step_id the message carries. -/
def execJoinOutcomes (ctx : Fin 2048) (pkt : Packet) (outcomes : StepAnswers) (s : State) : Out :=
  .next (s.arriveMsg pkt 1 outcomes.step.toNat ctx (fun s => s.joinOutcomes ctx pkt.src.toNat outcomes))

/-- STEP_VERDICT (06 R279): the lead's verdicts on the step whose step_id the message carries. -/
def execStepVerdict (ctx : Fin 2048) (verdicts : StepVerdicts) (s : State) : Out :=
  .next (s.arriveMsg verdicts.pkt 1 verdicts.step.toNat ctx (fun s => s.stepVerdicts ctx verdicts))

/-- COUNT_BLOCK (05 R190 steps 2 and 3; 15 R691): a member's block for the kernel whose id the message carries. -/
def execCountBlock (ctx : Fin 2048) (pkt : Packet) (block : CountBlock) (s : State) : Out :=
  .next (s.arriveMsg pkt 0 pkt.ref.toNat ctx (fun s => s.countBlock ctx pkt.src.toNat pkt.ref.toNat block))

/-! ## Forwarding (10 R474 to R477, R490) -/

/-- PACKET_FORWARD (10 R473 to R477, R490): a packet for another module goes out on the port chosen, waits for packets of its key, or is
dropped: a request is answered, a response counted. -/
def execPacketForward (port : Fin 80) (pkt : Packet) (s : State) : Out :=
  if pkt.dest.toNat = s.me then .next s
  else .next ((if pkt.src.toNat = s.me then s else s.unmarkLost pkt.src.toNat).forwardOne port pkt)

/-! ## Pages for requests of other modules (09 R420 to R422, R737) -/

/-- The guest frame that holds a page of another member. -/
def State.guestFrame (s : State) (uid va : Nat) : Option Nat :=
  (s.frames.find? (fun (e : Nat × FrameUse) => match e.2 with
    | .guest _ u a => u == uid && a == va / 65536 * 65536
    | _ => false)).map (fun (e : Nat × FrameUse) => e.1)

/-- What the pages of a request come to. -/
inductive HomePages where
  /-- Each part of the range, with its place. -/
  | ok (parts : List (Nat × Nat × PageAt))
  /-- A page must move first. -/
  | wait
  /-- The request is answered with a status. -/
  | refuse (status : Nat)
  deriving DecidableEq, Repr

/-- One page of a request that needs a right (an address above 56 bits is answered translation, 09 R392), at this module's own table or in a
guest frame: its place, or the status that refuses the request. A page spilled to a third module is accessed where it lies (R422); one for
which no tier has room is recorded here, and the peer is told what R737 gives (R423; log entry 200). -/
def State.homePage (s : State) (b va need : Nat) : PageAt × Option Nat × State :=
  if 2 ^ 56 ≤ va then (.noRoom, some 6, s)
  else match s.guestFrame (s.basketUid b) va with
  | some f =>
    if s.moves.any (fun m => m.frame == f && (match m.kind with
      | .guestIn _ => true
      | _ => false)) then (.wait 0, none, s) else (.here (f * 65536 + va % 65536), none, s)
  | none =>
    if s.keyRevoking (s.get Fld.CAP_BASKET_partition b) then (.noRoom, some 5, s)
    else match s.walk b va with
      | .fault _ _ => (.noRoom, some 6, s)
      | .poison a tag => (.noRoom, some 4, s.linePoisoned b a tag)
      | .leaf l =>
        if l.rights &&& need ≠ need ∨ l.home = 1 then (.noRoom, some 6, s)
        else match s.settle b va l with
          | (.noRoom, s) => (.noRoom, some 6, s.recordFault b (.translation va 5 4))
          | (.barred, s) => (.noRoom, some 6, s)
          | (.lost _, s) => (.noRoom, some 3, s)
          | (p, s) => if s.open4 b p then (p, none, s) else (.wait linkMove, none, s)

/-- The pages of a request's range. -/
def State.homePages (s : State) (b need : Nat) : List (Nat × Nat) → HomePages × State
  | [] => (.ok [], s)
  | (a, n) :: cs =>
    match s.homePage b a need with
    | (_, some st, s) => (.refuse st, s)
    | (.wait _, none, s) => (.wait, s)
    | (p, none, s) =>
      match s.homePages b need cs with
      | (.ok ps, s) => (.ok ((a, n, p) :: ps), s)
      | x => x

/-- A request waits for a page. -/
def State.hold (s : State) (pkt : Packet) : State := { s with waiting := s.waiting ++ [pkt] }

/-- A part of a request is passed on to the module that holds its page (09 R422). -/
def State.relay (s : State) (b m : Nat) (pkt : Packet) (va n args : Nat) (payload : List Byte) : State :=
  (({ s with relays := s.relays ++ [{ pkt := pkt, va := va, len := n }] } : State).asks b relayWord (answerKind pkt.ptype.toNat) m va).emit
    (.packet (s.packetOf b m pkt.ptype.toNat pkt.label.toNat va relayWord args payload))

/-- The first line of a range in a frame that carries poison. -/
def State.poisonLine (s : State) (b a phys n : Nat) : Option Nat :=
  (linesOf a n).find? (fun l => s.getLine b l (phys / 64 * 64 + (l - a / 64 * 64)) == .poison false)

/-- The ciphertext of the whole lines of a part of a range, with the tags they carry; none where a line is not delivered. A frame's lines
leave as they lie there: the module that asked for them verifies and decrypts them (12 R558, R559). -/
def State.homeRead (s : State) (b a n : Nat) (p : PageAt) : Option (List Byte × List Byte) × State :=
  match p with
  | .here phys =>
    (match s.poisonLine b a phys n with
      | some l => (none, s.poisonMet b l a p false)
      | none =>
        (some (s.ciphers b a phys (n / 64), if s.sidecarOn b then s.tagsOf b a phys (n / 64) else []), s.hbmCorrections phys n))
  | _ =>
    match s.placeRead b a n p with
    | .ok bs =>
      let c := s.cipherLines b a bs
      (some (c, s.lineTags b a c), s)
    | .poison l tag => (none, s.poisonMet b l a p tag)

/-- Writes whole lines of ciphertext, with the tags that came with them, to a part of a range; a part that a third module holds goes on to
it. -/
def State.homeWrite (s : State) (b : Nat) (pkt : Packet) (a : Nat) (cipher tags : List Byte) (p : PageAt) : State :=
  let n := cipher.length
  let plain := (List.range (n / 64)).flatMap (fun i =>
    decLine (s.basketKey b) (tweakOf (s.basketUid b) (a + 64 * i)) ((cipher.drop (64 * i)).take 64))
  match p with
  | .here phys => (s.breakSeals b a n).putPage b a phys cipher tags
  | .t4 port addr => s.writeT4 b a port addr plain
  | .atT4 i => s.writeSpill b i a plain
  | .atT3 m => s.relay b m pkt a n n (cipher ++ tags)
  | _ => s

/-! ## READ_REQ, WRITE and ATOMIC -/

/-- The READ_DATA packets of lines from an address, each with the tags of its lines (10 R457, R459; 12 R558, R560). -/
def State.sendData (s : State) (b : Nat) (pkt : Packet) (va : Nat) (cipher tags : List Byte) : State :=
  s.emitAll ((List.range ((cipher.length + 4095) / 4096)).map (fun i =>
    s.packetOf b pkt.src.toNat 2 pkt.label.toNat va pkt.ledger.toNat (4096 * i)
      ((cipher.drop (4096 * i)).take 4096 ++ (tags.drop (512 * i)).take 512)))

/-- The parts of a read that this module holds are read and sent, in order; one that is not delivered is answered, and ends the read.
A part that a third module holds is asked of it. -/
def State.serveParts (s : State) (b : Nat) (pkt : Packet) : List (Nat × Nat × PageAt) → State
  | [] => s
  | (a, n, .atT3 m) :: ps => (s.relay b m pkt a n n []).serveParts b pkt ps
  | (a, n, p) :: ps =>
    match s.homeRead b a n p with
    | (some (c, t), s) => (s.sendData b pkt a c t).serveParts b pkt ps
    | (none, s) => s.answer pkt 4

/-- A read of a fence for a wait that its module registers here, where the fence is still pending (08 R384; log entry 90). -/
def State.watchAway (s : State) (b : Nat) (pkt : Packet) (ps : List (Nat × Nat × PageAt)) : State :=
  let va := pkt.ref.toNat
  let target := pkt.args.toNat / 2 ^ 64
  if pkt.args.toNat % 2 ^ 32 ≠ 16 ∨ target = 0 ∨ va % 16 ≠ 0 then s
  else match ps with
    | [(a, _, .here phys)] =>
      let place := FencePlace.here (phys + (va - a))
      (match s.fenceGet b va place with
        | some (v, st) =>
          if fenceWaited target v st = .pending then
            s.watch b va target place.die (.away (Fin.ofNat 16384 pkt.src.toNat) (Fin.ofNat 8589934592 pkt.ledger.toNat))
          else s
        | none => s)
    | _ => s

/-- The waiters of other modules on a page that goes back to its home are registered there from now on. -/
def State.guestWatches (s : State) (b home va : Nat) : State :=
  (s.watches.filter (fun w => w.basket == b && w.va / 65536 == va / 65536)).foldl (fun s w =>
    match w.waiter with
    | .away m _ =>
      let s := s.unwatch w.waiter
      if m.val = home then s else s.askFence b home w.va w.target w.waiter
    | _ => s) s

/-- Serves a READ_REQ: a bring-back of a guest page with its 16 PAGE packets, after which its frame is free (log entry 72); else the
lines of the range, page by page. -/
def State.serveRead (s : State) (pkt : Packet) (b : Nat) : State :=
  let va := pkt.ref.toNat
  let n := pkt.args.toNat % 2 ^ 32
  if n = 0 ∨ 65536 < n then s.answer pkt 1
  else
    let lo := va / 64 * 64
    match s.homePages b 1 (cutPages lo ((va + n + 63) / 64 * 64 - lo)) with
    | (.refuse st, s) => s.answer pkt st
    | (.wait, s) => s.hold pkt
    | (.ok ps, s) =>
      match (if pkt.ledger.toNat = pagerWord then s.guestFrame (s.basketUid b) va else none) with
      | some f =>
        let page := va / 65536 * 65536
        ((s.emitAll (s.pagePackets b pkt.src.toNat page (f * 65536))).freeGuest b f).guestWatches b pkt.src.toNat page
      | none => (s.watchAway b pkt ps).serveParts b pkt ps

/-- READ_REQ (10 R459; 07 R323; 09 R737; 12 R558). -/
def execReadReq (pkt : Packet) (s : State) : Out := .next (s.arrive pkt 1 (fun s b => s.serveRead pkt b))

/-- Serves a WRITE of whole lines of ciphertext, with the tags they carry. -/
def State.serveWrite (s : State) (pkt : Packet) (b : Nat) : State :=
  let va := pkt.ref.toNat
  let n := pkt.args.toNat % 2 ^ 32
  if n = 0 ∨ n % 64 ≠ 0 ∨ va % 64 ≠ 0 ∨ pkt.payload.length ≠ n + (if s.sidecarOn b then n / 8 else 0) then s.answer pkt 1
  else match s.homePages b 2 (cutPages va n) with
    | (.refuse st, s) => s.answer pkt st
    | (.wait, s) => s.hold pkt
    | (.ok ps, s) =>
      let s := ps.foldl (fun s x =>
        s.homeWrite b pkt x.1 ((pkt.payload.drop (x.1 - va)).take x.2.1) ((pkt.payload.drop (n + (x.1 - va) / 8)).take (x.2.1 / 8)) x.2.2) s
      if s.relays.any (fun y => y.pkt == pkt) then s else s.answer pkt 0

/-- WRITE (10 R459; 09 R737; 12 R558). -/
def execWritePkt (pkt : Packet) (s : State) : Out := .next (s.arrive pkt 3 (fun s b => s.serveWrite pkt b))

/-- Serves an ATOMIC; one whose page is on the move keeps its place in the order of arrival (08 R376), and one of a page that a third module
holds goes on to it. -/
def State.serveAtomic (s : State) (pkt : Packet) (b : Nat) : State :=
  let va := pkt.ref.toNat
  let act := fun (s : State) (place : FencePlace) =>
    match s.fenceGet b va place with
    | none => (s.fencePoison b va place).answer pkt 4
    | some _ => (s.fenceSignal b va place (pkt.args.toNat % 2 ^ 64) (pkt.args.toNat / 2 ^ 64)).answer pkt 0
  if va % 16 ≠ 0 then s.answer pkt 1
  else match s.homePages b 4 [(va, 16)] with
    | (.refuse st, s) => s.answer pkt st
    | (.ok [(_, _, .here phys)], s) => act s (.here phys)
    | (.ok [(_, _, .t4 port addr)], s) => act s (.t4 port addr)
    | (.ok [(_, _, .atT4 i)], s) => act s (.spill i)
    | (.ok [(_, _, .atT3 m)], s) => s.relay b m pkt va 16 pkt.args.toNat []
    | (_, s) => { s with updates := s.updates ++ [.packet pkt] }

/-- ATOMIC (08 R376, R377; 10 R459). -/
def execAtomicPkt (pkt : Packet) (s : State) : Out := .next (s.arrive pkt 4 (fun s b => s.serveAtomic pkt b))

/-! ## READ_DATA -/

/-- Lines of another module have come for writes of the device's own: the writes are laid over them and go back whole. -/
def State.deviceData (s : State) (b m va : Nat) (bs : List Byte) : State :=
  let hit := fun (d : DeferredWrite) =>
    d.basket == b && decide (d.va < va + bs.length) && decide (va < d.va + d.bytes.length) && d.away == some m
  let mine := s.deferred.filter hit
  let cut := fun (d : DeferredWrite) => (max d.va va, min (d.va + d.bytes.length) (va + bs.length))
  let plain := mine.foldl (fun l d => overlay l ((cut d).1 - va) ((d.bytes.drop ((cut d).1 - d.va)).take ((cut d).2 - (cut d).1))) bs
  let rest := mine.flatMap (fun d =>
    (if d.va < va then [{ d with bytes := d.bytes.take (va - d.va) }] else []) ++
    (if va + bs.length < d.va + d.bytes.length then
      [{ d with va := va + bs.length, bytes := d.bytes.drop (va + bs.length - d.va) }] else []))
  let s := { s with deferred := s.deferred.filter (fun d => !hit d) ++ rest }
  mine.foldl (fun s d =>
    let lo := (cut d).1 / 64 * 64
    s.sendOwn b m lo ((plain.drop (lo - va)).take (((cut d).2 + 63) / 64 * 64 - lo))) s

/-- Bytes have come for an operation: a fence it polls, or lines of a range it reads. -/
def State.opData (s : State) (core slot : Nat) (o : OpRec) (m va : Nat) (bs : List Byte) : State :=
  let e := o.entry.getD 0
  match o.waits.findSome? (fun w => match w with
    | .fence f => if va ≤ f ∧ f + 16 ≤ va + bs.length then some f else none
    | _ => none) with
  | some f => s.fenceData f ((bs.drop (f - va)).take 16) (· == .entry (Fin.ofNat 256 core) (Fin.ofNat 8 slot) (Fin.ofNat 64 e))
  | none =>
    let got := addChunk va bs o.fetched
    let o := { o with fetched := got }
    match o.waits.find? (fun w => match w with
      | .read n lo len => n == m && (chunkAt got lo len).isSome
      | _ => false) with
    | some w => s.endAccess core slot o (· == w)
    | none => s.setOp core slot o

/-- Bytes have come for a context: the fence it waits on, or a structure it reads, or a queue of it. -/
def State.ctxData (s : State) (c va : Nat) (bs : List Byte) : State :=
  let mine := fun (w : Waiter) => w == .command (Fin.ofNat 2048 c) || w == .kernelStart (Fin.ofNat 2048 c)
  match s.watches.find? (fun x => mine x.waiter && decide (va ≤ x.va) && decide (x.va + 16 ≤ va + bs.length)) with
  | some x => s.fenceData x.va ((bs.drop (x.va - va)).take 16) mine
  | none => (s.onCtx c (fun x => { x with fetched := addChunk va bs x.fetched })).readsGoOn

/-- The data of a read of the device's own has begun to come: no other answer of it is awaited (log entry 91). -/
def State.ownRead (s : State) (w m va : Nat) : State :=
  match s.own.find? (fun q => q.word == w && q.kind == 6 && q.module == m && q.va == va) with
  | none => s
  | some q => { s with own := s.own.erase q }

/-- Bytes of an object table have come for the edits that wait for it (09 R738). -/
def State.tableData (s : State) (b va : Nat) (bs : List Byte) : State :=
  let mine := fun (x : Edit) => x.basket == b && !x.asked.isEmpty
  ((s.edits.filter mine).map Edit.part).eraseDups.foldl State.editsGoOn
    { s with edits := s.edits.map (fun x => if mine x then { x with got := addChunk va bs x.got } else x) }

/-- Lines passed on for another module's read have come: they go to it as they are. -/
def State.relayData (s : State) (b : Nat) (x : Relay) (pkt : Packet) (va n : Nat) : State :=
  let s := s.emit (.packet (s.packetOf b x.pkt.src.toNat 2 pkt.label.toNat pkt.ref.toNat x.pkt.ledger.toNat pkt.args.toNat pkt.payload))
  if x.va + x.len ≤ va + n then { s with relays := s.relays.erase x } else s

/-- What on this module has asked another module for lines under a ledger word that is no operation's (08 R368). -/
inductive DataFor where
  | device
  | imports
  | seal
  | table
  | relay (x : Relay)
  | ctx (c : Nat)
  | nobody
  deriving DecidableEq, Repr

/-- Some part asked for lies in the page of an address. -/
def askedAt (asked : List Nat) (va : Nat) : Bool := asked.any (fun a => a / 65536 == va / 65536)

/-- Who awaits data from a module under a ledger word. -/
def State.dataFor (s : State) (b w m va n : Nat) : DataFor :=
  if w = deviceWord then
    (if s.deferred.any (fun d => d.basket == b && d.away == some m && decide (d.va < va + n) && decide (va < d.va + d.bytes.length)) then .device
     else .nobody)
  else if w = importWord then (if s.imports.any (fun e => e.2.basket == b && askedAt e.2.asked va) then .imports else .nobody)
  else if w = sealWord then
    (match s.hashing with
      | none => .nobody
      | some (c, _) => if c = b ∧ s.liesOn b va m = true then .seal else .nobody)
  else if w = tableWord then (if s.edits.any (fun x => x.basket == b && askedAt x.asked va) then .table else .nobody)
  else if w = relayWord then
    (match s.relays.find? (fun x => x.pkt.ptype == 1 && decide (x.va ≤ va) && decide (va < x.va + x.len)) with
      | some x => .relay x
      | none => .nobody)
  else if w < 2048 ∧ (s.ctxAt w).asked.contains (6, m) = true then .ctx w
  else .nobody

/-- Lines have come for who awaits them. -/
def State.takeData (s : State) (b m va : Nat) (pkt : Packet) (plain : List Byte) : DataFor → State
  | .device => s.deviceData b m va plain
  | .imports => s.importData b va plain
  | .seal => { s with sealGot := addChunk va plain s.sealGot }
  | .table => s.tableData b va plain
  | .relay x => s.relayData b x pkt va plain.length
  | .ctx c => s.ctxData c va plain
  | .nobody => s.stale

/-- A line that has come does not verify: it is not delivered, and who awaits it does without (12 R559, R561). -/
def State.dataFails (s : State) (b w m va : Nat) (d : DataFor) : State :=
  match d with
  | .nobody => s.stale
  | .ctx c => (s.integrityFail (s.get Fld.CAP_BASKET_partition b)).ctxFail c m 4
  | _ => (s.integrityFail (s.get Fld.CAP_BASKET_partition b)).ownFail { word := w, kind := 6, module := m, basket := b, va := va } 4

/-- The first line of a packet whose tag does not verify (12 R560, R561). -/
def State.badLine (s : State) (b va : Nat) (cipher tags : List Byte) : Option Nat :=
  (List.range (cipher.length / 64)).findSome? (fun i =>
    if (s.lineTags b (va + 64 * i) ((cipher.drop (64 * i)).take 64)) = (tags.drop (8 * i)).take 8 then none else some (va + 64 * i))

/-- READ_DATA (10 R459; 12 R558, R559): ciphertext reaches the engine that asked for it, which verifies and decrypts it. Lines that nothing
asked for are discarded (08 R368). -/
def execReadData (pkt : Packet) (s : State) : Out :=
  .next (s.arrive pkt 2 (fun s b =>
    let va := pkt.ref.toNat + pkt.args.toNat % 2 ^ 32
    let w := pkt.ledger.toNat
    let m := pkt.src.toNat
    let per := if s.sidecarOn b then 72 else 64
    if va % 64 ≠ 0 ∨ pkt.payload.length % per ≠ 0 ∨ pkt.payload.length = 0 then s
    else
      let n := 64 * (pkt.payload.length / per)
      let cipher := pkt.payload.take n
      let plain := (List.range (n / 64)).flatMap (fun i =>
        decLine (s.basketKey b) (tweakOf (s.basketUid b) (va + 64 * i)) ((cipher.drop (64 * i)).take 64))
      match s.badLine b va cipher (pkt.payload.drop n), s.wordOp w with
      | none, some (core, slot, o) => if s.fc.fenced.contains core then s.stale else s.opData core slot o m va plain
      | some l, some (core, slot, o) =>
        if s.fc.fenced.contains core then s.stale
        else (s.integrityFail (s.get Fld.CAP_BASKET_partition b)).failEntry core slot o 0x0A l
      | none, none => (s.ownRead w m pkt.ref.toNat).takeData b m va pkt plain (s.dataFor b w m va n)
      | some _, none =>
        if w = relayWord then s.takeData b m va pkt plain (s.dataFor b w m va n)
        else (s.ownRead w m pkt.ref.toNat).dataFails b w m pkt.ref.toNat (s.dataFor b w m va n)))

/-! ## OFFER, DATA and PARTIAL -/

/-- OFFER (10 R462; 05 R231): held until an operation that matches has issued. -/
def execOfferPkt (pkt : Packet) (s : State) : Out :=
  .next (s.arrive pkt 5 (fun s b =>
    let a := pkt.args.toNat
    let x : OfferRec :=
      { uid := s.basketUid b, kernel := pkt.ref.toNat, channel := bitsOf a 0 8, rank := bitsOf a 8 14, src := pkt.src.toNat,
        ledger := pkt.ledger.toNat, format := bitsOf a 22 5, rows := bitsOf a 32 32, cols := bitsOf a 64 32, dest := none }
    { s with offers := s.offers ++ [x] }.matchOffers))

/-- The operations in flight of shards of a basket's kernel, with their environments. -/
def State.kernelOps (s : State) (b kernel : Nat) : List (OpEnv × OpRec) :=
  s.shards.flatMap (fun r =>
    match s.opEnv (r.1 / 8) (r.1 % 8) with
    | none => []
    | some e => if e.basket = b ∧ e.kernelId = kernel then r.2.ops.map (fun o => (e, o)) else [])

/-- Where payload bytes are kept with a receive until all are in. -/
def payloadBase : Nat := 2 ^ 64

/-- DATA (10 R457, R462; 05 R232): a payload reaches the receive that has pulled it; once all of it is in, its rows are written and
the sender is told. -/
def execDataPkt (pkt : Packet) (s : State) : Out :=
  .next (s.arrive pkt 6 (fun s b =>
    let a := pkt.args.toNat
    let rank := bitsOf a 8 14
    let off := payloadBase + bitsOf a 96 32
    let mine := fun (x : OpEnv × OpRec) =>
      opCode x.2.desc == 0x0C && x.2.sent && opField x.2.desc 10 1 == bitsOf a 0 8 && x.2.waits.contains (.payload rank) &&
      (chunkAt x.2.fetched off (max 1 pkt.payload.length)).isNone
    match (s.kernelOps b pkt.ref.toNat).find? mine with
    | none => s
    | some (e, o) =>
      let t := exchangeTile e o.desc true
      if bitsOf a 22 5 ≠ t.t.fmt ∨ bitsOf a 32 32 ≠ t.n ∨ bitsOf a 64 32 ≠ t.m then s.failEntry e.core e.slot o 0x09 rank
      else
        let o := { o with fetched := addChunk off pkt.payload o.fetched }
        let s := s.setOp e.core e.slot o
        match chunkAt o.fetched payloadBase (payloadLen t.t t.n t.m) with
        | none => s
        | some bs => (s.received e o (payloadRows t.t t.n t.m bs)).answer pkt 0))

/-- The partial of a PARTIAL packet (10 R460). -/
def partialOf (pkt : Packet) : Partial :=
  let a := pkt.args.toNat
  let mode := bitsOf a 22 1
  let n := bitsOf a 80 16
  { rank := bitsOf a 8 14, mode := mode, long := mode != 1, anchor := bitsOf a 32 16, tile := bitsOf a 48 6, rows := bitsOf a 96 8 + 1,
    cols := bitsOf a 104 8 + 1, first := bitsOf a 64 16,
    lanes := (List.range n).map (fun i =>
      let at' := laneAt (mode != 1) i
      if mode = 1 then (fieldAt pkt.payload at' 4, 0) else (fieldAt pkt.payload at' 16, fieldAt pkt.payload (at' + 16) 1)) }

/-- PARTIAL (10 R460, R462; 05 R233 to R236; 03 R96, R97, R101): a partial meets the reduction of its channel; a rank all of whose
lanes are in is answered. -/
def execPartialPkt (pkt : Packet) (s : State) : Out :=
  .next (s.arrive pkt 7 (fun s b =>
    let p := partialOf pkt
    let chan := pkt.args.toNat % 256
    let ops := (s.kernelOps b pkt.ref.toNat).filter (fun x =>
      opCode x.2.desc == 0x0D && (Reduction.of x.2.desc).chan == chan && x.2.waitsPartials)
    let due := ops.find? (fun x => x.2.waits.contains (.partials p.rank) && !(lanesHeld x.2.parts p.rank p.tile).contains p.first)
    match (match due with
      | some x => some x
      | none => ops.head?) with
    | none => s
    | some (e, o) =>
      let s := s.takePartial e o p
      match s.opAt e.core e.slot o.index with
      | none => s
      | some n =>
        if n.fault.isNone && o.waits.contains (.partials p.rank) && !n.waits.contains (.partials p.rank) then s.answer pkt 0 else s))

/-! ## PAGE (10 R461; 09 R417, R420, R421) -/

/-- Takes a lent frame for a page of another member. -/
def State.takeGuest (s : State) (b va : Nat) : Option (Nat × State) :=
  let chans := s.pieceChans b
  let total := 24576 * chans.length
  if total = 0 ∨ (s.pieceAt b).lent ≤ s.get Fld.PG_GUEST_USED_frames b then none
  else match s.probeFrame chans total (s.frames.length + 1) (s.freeValue % total) with
    | none => none
    | some f => some (f, (s.drawn.setFrame f (.guest f (s.basketUid b) va)).addPages Fld.PG_GUEST_USED_frames b true)

/-- The move that a chunk of a page from a module is for: a bring-back, or the filling of a guest frame, which begins here. -/
def State.pageMove (s : State) (b va m : Nat) : Option (Move × State) :=
  match s.moves.find? (fun x => x.basket == b && x.va == va && (match x.kind with
    | .bringT3 n _ => n == m
    | .guestIn n => n == m
    | _ => false)) with
  | some x => some (x, s)
  | none =>
    match (match s.guestFrame (s.basketUid b) va with
      | some f => some (f, s)
      | none => s.takeGuest b va) with
    | none => none
    | some (f, s) =>
      let (id, s) := s.addMove b va (.guestIn m) f
      (s.moves.find? (fun x => x.id == id)).map (fun x => (x, s))

/-- PAGE (10 R461): a chunk is written as it arrives; a guest page all of whose chunks are in is reported ready. -/
def execPagePkt (pkt : Packet) (s : State) : Out :=
  .next (s.arrive pkt 9 (fun s b =>
    let c := pkt.args.toNat % 16
    let at' := pkt.ref.toNat * 64
    let va := at' / 65536 * 65536
    if at' ≠ va + 4096 * c ∨ pkt.payload.length < 4096 ∨ 2 ^ 56 ≤ at' then s.answer pkt 1
    else match s.pageMove b va pkt.src.toNat with
      | none => s.answer pkt 1
      | some (m, s) =>
        let s := s.putPage b at' (m.frame * 65536 + 4096 * c) (pkt.payload.take 4096) (pkt.payload.drop 4096)
        let m := { m with chunks := m.chunks ||| 2 ^ c }
        match m.kind with
        | .guestIn _ =>
          if m.chunks = 2 ^ 16 - 1 then { s with moves := s.moves.filter (fun x => x.id != m.id) }.answer pkt 0
          else { s with moves := s.moves.map (fun x => if x.id = m.id then m else x) }
        | _ => { s with moves := s.moves.map (fun x => if x.id = m.id then m else x) }))

/-! ## PAGE_MOVE_DONE (09 R411 to R425) -/

/-- A request that waited for a page is served again. -/
def State.serveAgain (s : State) (pkt : Packet) : State :=
  match s.boundUid pkt.uid.toNat with
  | none => s.answer pkt 2
  | some b =>
    if pkt.ptype = 1 then s.serveRead pkt b else if pkt.ptype = 3 then s.serveWrite pkt b else s.serveAtomic pkt b

/-- An update that waited for a page goes on. -/
def State.heldRun (s : State) (x : FenceHeld) : State :=
  match x with
  | .update u => s.fenceUpdate u
  | .packet pkt => s.serveAgain pkt
  | .driver p =>
    (match s.fenceOps.find? (fun e => e.1 == p) with
      | some (_, f) => s.fenceOpRun p f
      | none => s)
  | .op core slot i =>
    match s.opAt core slot i with
    | some o => s.endAccess core slot o (fun w => match w with
        | .move _ => true
        | _ => false)
    | none => s

/-- What waited for moves to end goes on: writes of the device's own, requests of other modules, updates of fences in the order of their
arrival (08 R376), drivers' signals, edits, imports; and what those let go. -/
def State.afterMoves (s : State) : State :=
  let s := s.retryWrites
  let s := s.waiting.foldl State.serveAgain { s with waiting := [] }
  let s := s.updates.foldl State.heldRun { s with updates := [] }
  let s := s.fenceOpsRun 32
  let s := (s.edits.map Edit.part).eraseDups.foldl State.editsGoOn s
  let s := (s.imports.map Prod.fst).foldl State.importStep s
  s.notesGoOn.readsGoOn

/-- A way to T4 has opened: what waited for it goes on (11 R502, R523). -/
def State.linkOpens (s : State) : State := (s.moveOver linkMove).afterMoves

/-- PAGE_MOVE_DONE (09 R412): a move that has all its bytes ends; its watches go with it, and what waited for it proceeds. -/
def execPageMoveDone (move : Nat) (s : State) : Out :=
  match s.moves.find? (fun m => m.id == move) with
  | none => .next s
  | some m =>
    if !s.moveReady m then .next s
    else
      let s := s.endMove m
      let s := (if s.inKvPool m.basket m.va then s.countKv m.basket else s)
      let s := s.bump64 Fld.FC_ENG_PROGRESS_LO_lo Fld.FC_ENG_PROGRESS_HI_hi (256 + m.engine) 1024
      .next (s.moveOver move).afterMoves

end Sys2Proof.Machine
end

