-- ==== Sys2Proof/Machine/Seals.lean ====
section
/-! DEFINITION. Seals of weight ranges (15 R683 to R686, R697). -/

namespace Sys2Proof.Machine

/-- The command register of a seal. -/
def sealCmd (b i : Nat) : Nat := 0x7100C + 0x100 * b + 0x10 * i

/-- A seal's range: its first address and its pages. -/
def State.sealRange (s : State) (b i : Nat) : Nat × Nat :=
  let k := b * 16 + i
  (2 ^ 16 * s.get Fld.PG_SEAL_BASE_LO_base_lo k + 2 ^ 32 * s.get Fld.PG_SEAL_BASE_HI_base_hi k, s.get Fld.PG_SEAL_LEN_pages k)

/-- Every page of a range is a valid leaf of home T2 or T3 with read right (R684). -/
def State.sealable (s : State) (b va pages : Nat) : Bool :=
  (List.range pages).all (fun i =>
    let a := va + i * 65536
    decide (a < 2 ^ 56) && (match s.leafAt b a with
      | none => false
      | some l => l.home != 2 && bitOf l.rights 0))

/-- PG_SEAL (R683, R684, R697): a write of seal begins to hash a range; errors are found in the order of log entry 106. -/
def execPgSeal (p : Fin 32) (b : Fin 64) (i : Fin 16) (v : Word32) (s : State) : Out :=
  if !s.takes (.host p) (sealCmd b i) then .next s
  else
    let s := s.mmioWrite (.host p) (sealCmd b i) v.toNat
    if !bitOf v.toNat 0 then .next s
    else
      let (va, n) := s.sealRange b i
      if n = 0 then .next (s.sealError b i 1)
      else if !s.sealable b va n then .next (s.sealError b i 2)
      else if s.sealState b i ≠ 0 then .next (s.sealError b i 3)
      else if s.hashing.isSome then .next (s.sealError b i 5)
      else .next { s.set Fld.PG_SEAL_CMD_state (b * 16 + i) 1 with sealGot := [] }

/-- A seal is FREE; the segments it tagged are TAINTED (R685, R686). -/
def State.freeSeal (s : State) (b i : Nat) : State :=
  let k := b * 16 + i
  let r := s.sealAt b i
  let was := s.sealState b i
  let s := s.setAll k [(Fld.PG_SEAL_CMD_state, 0), (Fld.PG_SEAL_CMD_origin, 0)]
  { s with
    seals := Sparse.set SealRec.none s.seals k { r with breaks := if was = 2 then r.breaks + 1 else r.breaks },
    segTags := s.segTags.map (fun e => if e.2 = 2 + 16 * b + i then (e.1, 1) else e) }

/-- A seal is INTACT with a digest. -/
def State.installSeal (s : State) (b i : Nat) (digest : BitVec 512) : State :=
  let r := s.sealAt b i
  { s.set Fld.PG_SEAL_CMD_state (b * 16 + i) 2 with seals := Sparse.set SealRec.none s.seals (b * 16 + i) { r with digest := digest } }

/-- Tells the other destinations of the basket of a seal; a removal has no pages (log entry 107). -/
def State.tellSeal (s : State) (b i va pages : Nat) (digest : BitVec 512) : State :=
  (s.routeModules b).foldl (fun s m => s.emit (.seal (BitVec.ofNat 14 m) (BitVec.ofNat 64 (s.basketUid b)) i va pages digest)) s

/-- The address a basket's digests are written to; 0 for none. -/
def State.sealOut (s : State) (b : Nat) : Nat :=
  2 ^ 6 * s.get Fld.PG_SEAL_OUT_LO_addr_lo b + 2 ^ 32 * s.get Fld.PG_SEAL_OUT_HI_addr_hi b

/-- SEAL_HASH_DONE (R683): the range has been hashed, as soon as all its bytes are there, and the members have taken the seal or one
has refused it. A range that cannot be read any more ends with code 2 (log entry 106). -/
def execSealHashDone (accepted : Bool) (s : State) : Out :=
  match s.hashing with
  | none => .next s
  | some (b, i) =>
    let (va, n) := s.sealRange b i
    let k := b * 16 + i
    let free := fun (s : State) => { s.setAll k [(Fld.PG_SEAL_CMD_state, 0)] with sealGot := [] }
    match s.devRead b s.sealGot va (n * 65536) 1 sealWord with
    | (.away, s) => .next s
    | (.ok bs, s) =>
      let digest := BitVec.ofNat 512 (beNat (sha512 bs))
      let s := s.tellSeal b i va n digest
      if !accepted then .next (((free s).tellSeal b i va 0 digest).sealError b i 4)
      else
        let s : State := { s.installSeal b i digest with sealGot := [] }
        let s := s.setAll k [(Fld.PG_SEAL_CMD_done, 1), (Fld.PG_SEAL_CMD_origin, 1)]
        .next (if s.sealOut b = 0 then s else s.devWrite b (s.sealOut b) (bytes512 digest))
    | (_, s) => .next ((free s).sealError b i 2)

/-- SEAL_INSTALL (R683; log entry 107): a member installs a seal at a FREE index; it removes one when no pages are named. -/
def execSealInstall (_src : ModuleId) (uid : BitVec 64) (i : Fin 16) (base : VAddr) (pages : BitVec 24) (digest : BitVec 512) (s : State) : Out :=
  match s.boundUid uid.toNat with
  | none => .next s
  | some b =>
    if pages = 0 then .next (if s.sealState b i = 0 ∨ s.sealState b i = 1 then s else s.freeSeal b i)
    else if s.sealState b i ≠ 0 then .next s
    else
      let k := b * 16 + i.val
      let s := s.setAll k [(Fld.PG_SEAL_BASE_LO_base_lo, base.toNat / 2 ^ 16), (Fld.PG_SEAL_BASE_HI_base_hi, base.toNat / 2 ^ 32),
        (Fld.PG_SEAL_LEN_pages, pages.toNat), (Fld.PG_SEAL_CMD_origin, 0)]
      .next (s.installSeal b i digest)

/-- PG_SEAL_RELEASE (R685, R697): the seal is FREE on every member. -/
def execPgSealRelease (p : Fin 32) (b : Fin 64) (i : Fin 16) (v : Word32) (s : State) : Out :=
  if !s.takes (.host p) (sealCmd b i) then .next s
  else
    let s := s.mmioWrite (.host p) (sealCmd b i) v.toNat
    if !bitOf v.toNat 1 then .next s
    else
      let s := if s.sealState b i = 0 then s else (s.tellSeal b i (s.sealRange b i).1 0 (s.sealAt b i).digest).freeSeal b i
      .next (s.set Fld.PG_SEAL_CMD_done (b * 16 + i) 1)

/-- SEAL_BREAK (R685): an INTACT seal becomes BROKEN; what this module observes it tells the others. -/
def execSealBreak (src : ModuleId) (uid : BitVec 64) (i : Fin 16) (s : State) : Out :=
  match s.boundUid uid.toNat with
  | none => .next s
  | some b =>
    if s.sealState b i ≠ 2 then .next s
    else
      let s := s.breakSeal b i
      .next (if src.toNat = s.me then
          (s.routeModules b).foldl (fun s m => s.emit (.sealBreak (BitVec.ofNat 14 m) uid i)) s
        else s)

end Sys2Proof.Machine
end

