-- ==== Sys2Proof/Machine/Plait.lean ====
section
/-! DEFINITION. Loading a plait: fetch, check, staging, the changes of APPLY, COMMIT, the agreement between the pieces of a basket, and
channels that leave (07 R294 to R329; 14 R665 to R667; 12 R586). -/

namespace Sys2Proof.Machine

/-! ## The load (07 R306 to R308, R327) -/

/-- A partition is being removed (12 R586). -/
def State.removing (s : State) (p : Nat) : Bool := s.get Fld.LID_PART_state p == 3 || s.get Fld.LID_PART_state p == 4

/-- A load is in FETCH to COMMIT. -/
def State.loading (s : State) : Bool :=
  decide (1 ≤ s.get Fld.RIM_PLAIT_STATUS_state 0) && decide (s.get Fld.RIM_PLAIT_STATUS_state 0 ≤ 5)

/-- A load ends in FAILED with a code and the offset of the offending field. -/
def State.plaitFail (s : State) (code off : Nat) : State :=
  (s.setAll 0 [(Fld.RIM_PLAIT_STATUS_state, 7), (Fld.RIM_PLAIT_STATUS_failed, 1), (Fld.RIM_PLAIT_ERR_code, code),
    (Fld.RIM_PLAIT_ERR_OFF_offset, off)]).plaitEvent

/-- A write of RIM_PLAIT_CMD by partition 0 with an op. -/
def State.plaitCmd (s : State) (a : Agent) (v op : Nat) : Bool := a != .rim && s.takes a 0x80408 && bitsOf v 0 2 == op

/-- PLAIT_LOAD (07 R306, R307, R327; 12 R586). -/
def execPlaitLoad (a : Agent) (v : Word32) (s : State) : Out :=
  if !s.plaitCmd a v.toNat 1 then .next s
  else if s.loading || s.partitions.any s.removing then .next (s.set Fld.RIM_PLAIT_ERR_code 0 0x0E)
  else .next (s.set Fld.RIM_PLAIT_STATUS_state 0 1)

/-- PLAIT_ABORT (07 R308). -/
def execPlaitAbort (a : Agent) (v : Word32) (s : State) : Out :=
  let st := s.get Fld.RIM_PLAIT_STATUS_state 0
  if s.plaitCmd a v.toNat 2 && (st == 1 || st == 2) then .next (s.plaitFail 0 0) else .next s

/-! ## The changes a new plait asks for (07 Table 6) -/

/-- Changes of the slots of a context that stays: those a new core map or slice takes, and those it gives. -/
def slotDiff (b : Nat) (old new : CtxRec) : List Change × List Change :=
  let same := old.base == new.base && old.len == new.len
  let out := maskList 256 old.cores |>.filter (fun k => !same || !bitOf new.cores k)
  let inn := maskList 256 new.cores |>.filter (fun k => !same || !bitOf old.cores k)
  (out.map (fun k => .slotRemove b k new.ctx), inn.map (fun k => .slotAdd b k new.ctx new.base new.len))

/-- What a section gives that nothing held before. -/
def Section.adds (x : Section) : List Change :=
  x.contexts.flatMap (fun c => .ctxAdd x.basket c.ctx :: (maskList 256 c.cores).map (fun k => .slotAdd x.basket k c.ctx c.base c.len))

/-- The segments of a mask for each row. -/
def segList (segments : List Nat) : List (Nat × Nat) :=
  (List.range 32).flatMap (fun r => (maskList 64 (segments.getD r 0)).map (fun k => (r, k)))

/-- What a new section takes from its old one, and what it adds; `chans` are the channels now in effect. -/
def sectionDiff (old : Section) (chans : Nat) (new : Section) : List Change × List Change :=
  let b := new.basket
  let find := fun (l : List CtxRec) (c : Nat) => l.find? (fun r => r.ctx == c)
  let stay := new.contexts.filterMap (fun c => (find old.contexts c.ctx).map (fun o => slotDiff b o c))
  let gone := old.contexts.filter (fun c => (find new.contexts c.ctx).isNone)
  let fresh := new.contexts.filter (fun c => (find old.contexts c.ctx).isNone)
  let os := segList old.segments
  let ns := segList new.segments
  (stay.flatMap Prod.fst ++ gone.map (fun c => .ctxRemove b c.ctx) ++
     (os.filter (fun g => !ns.contains g)).map (fun g => .segRemove b g.1 g.2) ++
     ((maskList 256 chans).filter (fun k => !bitOf new.channels k)).map (.chanRemove b),
   ((maskList 256 new.channels).filter (fun k => !bitOf chans k)).map (.chanAdd b) ++
     (ns.filter (fun g => !os.contains g)).map (fun g => .segAdd b g.1 g.2) ++
     { new with contexts := fresh }.adds ++ stay.flatMap Prod.snd)

/-- What a removed piece takes with it. -/
def Piece.leaves (b : Nat) (p : Piece) : List Change :=
  p.sec.contexts.map (fun c => .ctxRemove b c.ctx) ++ (segList p.sec.segments).map (fun g => .segRemove b g.1 g.2) ++
  (maskList 256 p.chans).map (.chanRemove b)

/-- Replaces a piece. -/
def State.setPiece (s : State) (b : Nat) (p : Piece) : State := { s with pieces := Sparse.set Piece.none s.pieces b p }

/-- A section is as the active plait has it (07 R304). -/
def State.unchanged (s : State) (x : Section) : Bool :=
  match s.activeSection x.basket with
  | some y => y.digest == x.digest
  | none => false

/-- Submission queues that lose their record, by basket (07 Table 5, STAGED). -/
def lostQueues (old new : Section) : List QueueRec := old.queues.filter (fun q => !new.queues.contains q)

/-- Queues stop accepting submissions. -/
def State.closeQueues (s : State) (qs : List QueueRec) : State :=
  (qs.filter (fun q => q.kind == 0)).foldl (fun s q => s.set Fld.WVR_Q_CTRL_closed q.queue 1) s

/-- Stages a changed section: its route table and its ports take the old ones' place (07 Table 5, R313). -/
def State.stageSection (s : State) (x : Section) : State :=
  match s.activeSection x.basket with
  | none => s.setPiece x.basket { sec := x, leaving := false, chans := 0, t4Used := [], trim := false, lent := 0 }
  | some y =>
    let p := s.pieceAt x.basket
    (s.setPiece x.basket { p with sec := { p.sec with routes := x.routes, ports := x.ports } }).closeQueues (lostQueues y x)

/-- A piece that the new plait leaves out begins to leave. -/
def State.stageLeaving (s : State) (b : Nat) : State :=
  let p := s.pieceAt b
  ((s.setPiece b { p with leaving := true }).set Fld.CAP_BASKET_state b 4).closeQueues p.sec.queues

/-! ## Channels that leave (07 R311, R312) -/

/-- Begins to move a page of a frame to another frame of the piece, or out to T3 or T4; a page with no_spill stays (09 R414; log entry 199). -/
def State.evacuate (s : State) (b f va : Nat) : State :=
  match s.leafAt b va with
  | none => s
  | some l =>
    if l.noSpill then s
    else match s.takeFrame b (.page va) with
    | some (g, s) => ((s.setLeaf b va l 3 0 0).addMove b va (.migrate f) g).2
    | none =>
      match s.spillPlace b with
        | (some k, s) => (s.startSpill b va l k).2
        | (none, s) => s

/-- Moves a guest frame's page to another frame; its index stays. -/
def State.moveGuest (s : State) (b f index uid va : Nat) : State :=
  match s.takeFrame b (.guest index uid va) with
  | none => s
  | some (g, s) =>
    (((s.putPage b va (g * 65536) (s.ciphers b va (f * 65536) 1024) (s.tagsOf b va (f * 65536) 1024)).poisonCopied (f * 65536)
      (g * 65536)).setFrame f .free).rewatch b va (physChan (g * 65536) / 32)

/-- Moves what a piece has on a channel elsewhere, as far as nothing holds it: managed pages and guest frames. -/
def State.evacuateChan (s : State) (b ch : Nat) : State :=
  (s.frames.filter (fun e => e.1 / 2 ^ 24 == ch)).foldl (fun s e =>
    match e.2 with
    | .page va => if s.moving b va || s.held b va then s else s.evacuate b e.1 va
    | .guest i uid va => if s.moves.any (fun m => m.frame == e.1) then s else s.moveGuest b e.1 i uid va
    | _ => s) s

/-- The piece that has a channel in effect. -/
def State.chanPiece (s : State) (ch : Nat) : Option Nat := (s.pieces.find? (fun e => bitOf e.2.chans ch)).map Prod.fst

/-- A channel holds no frame in use. -/
def State.chanEmpty (s : State) (ch : Nat) : Bool :=
  s.frames.all (fun e => e.1 / 2 ^ 24 != ch) && s.moves.all (fun m => m.frame / 2 ^ 24 != ch)

/-- Writes zero to all of a channel; its frames are free. -/
def State.zeroChan (s : State) (ch : Nat) : State :=
  { s with
    hbm := s.hbm.zero (2 ^ 40 * ch) (2 ^ 31), sidecar := s.sidecar.zero (2 ^ 37 * ch) (2 ^ 28),
    lineTag := s.lineTag.filter (fun e => e.1 / 2 ^ 34 != ch), hbmPoison := s.hbmPoison.filter (fun e => e.1 / 2 ^ 34 != ch),
    frames := s.frames.filter (fun e => e.1 / 2 ^ 24 != ch), heat := s.heat.filter (fun e => e.1 / 2 ^ 24 != ch) }

/-- A channel is out of effect for a piece. -/
def State.dropChan (s : State) (b ch : Nat) : State :=
  let p := s.pieceAt b
  (s.setPiece b { p with chans := putBits p.chans ch 1 0 }).dropBasket b

/-- CHANNEL_RETIRE (14 R665 to R667; 11 R509): a retiring channel's pages go on leaving it; when it holds no frame in use, or after
10 s, it is retired: it leaves its carve-out, and the capability table changes. -/
def execChannelRetire (ch : Fin 256) (s : State) : Out :=
  match s.fc.retiring.find? (fun e => e.1 == ch.val) with
  | none => .next s
  | some (_, since) =>
    let b := s.chanPiece ch
    let s := match b with
      | some b => s.evacuateChan b ch
      | none => s
    if !s.chanEmpty ch && decide (s.time < since + 10000000) then .next s
    else
      let s : State := { s with
        fc := { s.fc with retiring := s.fc.retiring.filter (fun (e : Nat × Nat) => e.1 != ch.val) },
        service := { s.service with retiredChannels := s.service.retiredChannels ++ [ch.val], seq := s.service.seq + 1 } }
      let s := (List.range 32).foldl (fun s p =>
        let i := p * 8 + ch.val / 32
        s.set Fld.HI_CARVE_MAP_channels i (putBits (s.get Fld.HI_CARVE_MAP_channels i) (ch.val % 32) 1 0)) s
      let s := match b with
        | some b => s.dropChan b ch
        | none => s
      .next (s.shrinkLoad (fun x => bitOf x.channels ch)).refreshCaps.countPieces.capChange

/-! ## Row-store segments -/

/-- The copy of RWS_SEG_OWNER and the first bit that name a segment's owner. -/
def segOwnerAt (row seg : Nat) : Nat × Nat := (row * 16 + seg / 4, 8 * (seg % 4))

/-- Writes a segment's owner: none, or a basket (04 R181). -/
def State.setSegOwner (s : State) (row seg : Nat) (owner : Option Nat) : State :=
  let (i, lo) := segOwnerAt row seg
  s.set Fld.RWS_SEG_OWNER_owners i (putBits (s.get Fld.RWS_SEG_OWNER_owners i) lo 8 (match owner with
    | some b => 128 + b % 64
    | none => 0))

/-- A segment has an owner. -/
def State.segOwned (s : State) (row seg : Nat) : Bool :=
  let (i, lo) := segOwnerAt row seg
  bitOf (s.get Fld.RWS_SEG_OWNER_owners i) (lo + 7)

/-- Writes zero to a segment of a row store, in 128 array accesses (04 R181). -/
def State.zeroSegment (s : State) (row seg : Nat) : State :=
  let s := s.count Fld.RWS_ACCESS_COUNT_count row Fld.RWS_COUNT_STATUS_access_wrap row 0 128
  { s with
    rowStore := s.rowStore.zero (2 ^ 22 * row + seg * 65536) 65536,
    rsPoison := s.rsPoison.filter (fun e => e.1 / 8192 != row * 64 + seg),
    segTags := s.segTags.filter (fun e => e.1 != 2 ^ 16 + row * 64 + seg) }

/-! ## Contexts and queues -/

/-- Registers of an index return to their reset values. -/
def State.clearRegs (s : State) (lo hi i : Nat) : State :=
  (allFields.filter (fun f => decide (lo ≤ f.reg) && decide (f.reg ≤ hi))).foldl (fun s f => s.clear f i) s

/-- An unbound queue's registers read as at reset; it holds nothing (08 R389), and a read of it that waits is answered with zeros (11 R514). -/
def State.dropQueue (s : State) (q : Nat) : State :=
  let s := (s.queueAt q).reads.foldl (fun s p => s.emit (.bytes p (List.replicate 64 0))) s
  { (s.clearRegs Fld.WVR_Q_CFG_valid.reg Fld.WVR_Q_STATUS_partial.reg q).clearRegs Fld.HI_QVEC_vector.reg Fld.HI_QVEC_vector.reg q with queues := Sparse.set QueueData.empty s.queues q QueueData.empty }

/-- The registers of a context return to their reset values: its counters are zero when it is bound (08 R363). -/
def State.clearCtx (s : State) (c : Nat) : State :=
  (s.clearRegs Fld.WVR_CTX_STATE_state.reg Fld.WVR_CTX_STATUS_stopped.reg c).setCtx c Context.none

/-- The CONTEXT record a load gives a context of a basket. -/
def State.stagedCtx (s : State) (b c : Nat) : Option CtxRec :=
  (s.plait.staged.find? (fun x => x.basket == b)).bind (fun x => x.contexts.find? (fun r => r.ctx == c))

/-- Binds a context, idle (08 R349, R389). -/
def State.bindCtx (s : State) (b c : Nat) : State :=
  let s := (s.clearCtx c).setAll c [(Fld.WVR_CTX_STATE_state, 1), (Fld.WVR_CTX_STATE_basket_index, b)]
  match s.stagedCtx b c with
  | some r => s.setAll c [(Fld.WVR_CTX_SHARE_share, r.share), (Fld.WVR_CTX_SHARE_label, r.label)]
  | none => s

/-- The queues bound to a context. -/
def State.queuesOf (s : State) (c : Nat) : List Nat :=
  (List.range 1024).filter (fun q => s.flag Fld.WVR_Q_CFG_valid q && s.get Fld.WVR_Q_CFG_context q == c)

/-- A context leaves: its slots, its queues, its span. -/
def State.unbindCtx (s : State) (c : Nat) : State :=
  let s := (s.slotsOf c).foldl (fun s x => s.unbindSlot x.1 x.2) s
  let s := (s.queuesOf c).foldl State.dropQueue s
  (s.setSpan c none).clearCtx c

/-! ## Changes of APPLY take effect (07 R309, Table 6) -/

/-- The piece a change is of. -/
def Change.basket : Change → Nat
  | .slotAdd b _ _ _ _ => b
  | .slotRemove b _ _ => b
  | .ctxAdd b _ => b
  | .ctxRemove b _ => b
  | .chanAdd b _ => b
  | .chanRemove b _ => b
  | .segAdd b _ _ => b
  | .segRemove b _ _ => b

/-- A context of a piece that leaves has not left. -/
def State.ctxLeaving (s : State) (b : Nat) : Bool :=
  s.plait.changes.any (fun c => match c with
    | .ctxRemove x _ => x == b
    | _ => false)

/-- What a change waits for has ended. -/
def State.changeReady (s : State) (x : Change) : Bool :=
  match x with
  | .slotAdd _ _ _ _ _ => s.slotReady x
  | .slotRemove _ _ _ => s.slotReady x
  | .ctxAdd _ c => s.get Fld.WVR_CTX_STATE_state c == 0
  | .ctxRemove _ c =>
    !s.inKernel c && (s.ctxAt c).cmd.isNone && (match s.ctxQueue c 0 with
      | some q => s.queueHeld q == 0
      | none => true)
  | .chanAdd _ ch => (s.chanPiece ch).isNone
  | .chanRemove b ch => if (s.pieceAt b).leaving then !s.ctxLeaving b else s.chanEmpty ch || s.service.retiredChannels.contains ch
  | .segAdd _ r g => !s.segOwned r g
  | .segRemove b _ _ =>
    (s.pieceAt b).sec.contexts.all (fun c => !s.plait.running.contains c.ctx)

/-- A change of APPLY takes effect. -/
def State.changeEffect (s : State) (x : Change) : State :=
  match x with
  | .slotAdd _ _ _ _ _ => s.slotChange x
  | .slotRemove _ _ _ => s.slotChange x
  | .ctxAdd b c => s.bindCtx b c
  | .ctxRemove _ c => s.unbindCtx c
  | .chanAdd b ch =>
    if s.service.retiredChannels.contains ch then { s with plait := { s.plait with reduced := true } }
    else
      let p := s.pieceAt b
      ((s.zeroChan ch).setPiece b { p with chans := putBits p.chans ch 1 1 }).bump Fld.PG_FREE_FRAMES_frames b 24576
  | .chanRemove b ch =>
    (({ s with moves := s.moves.filter (fun m => m.frame / 2 ^ 24 != ch) }).zeroChan ch).dropChan b ch
  | .segAdd b r g => (s.zeroSegment r g).setSegOwner r g (some b)
  | .segRemove _ r g => (s.zeroSegment r g).setSegOwner r g none

/-- A held update is of a piece, of a basket index and a uid. -/
def FenceHeld.ofPiece (b uid : Nat) : FenceHeld → Bool
  | .update u => u.basket == b
  | .packet pkt => pkt.uid.toNat == uid
  | _ => false

/-- Everything a piece that has left held is forgotten, a driver's signal of it ends in error (08 R388), and the registers of its index
return to their reset values. -/
def State.pieceGone (s : State) (b : Nat) : State :=
  let uid := s.basketUid b
  let s := (s.fenceOps.filter (fun e => e.2.basket == b)).foldl (fun s e => s.fenceOpEnd e.1 false) s
  let s := (s.clearRegs Fld.XL_ROOT_LO_root_lo.reg Fld.PG_TIER_STATUS_oom.reg b).clearRegs Fld.PG_KV_POOL_LO_base_lo.reg Fld.PG_KV_LIST_SLOTS_slots.reg b
  let s := s.clearRegs Fld.CAP_BASKET_state.reg Fld.CAP_BASKET_UID_HI_uid_hi.reg b
  let s := (List.range 16).foldl (fun s i => s.clearRegs Fld.PG_SEAL_BASE_LO_base_lo.reg Fld.PG_SEAL_CMD_state.reg (b * 16 + i)) s
  let s := s.clearRegs Fld.PG_SEAL_OUT_LO_addr_lo.reg Fld.PG_SEAL_OUT_HI_addr_hi.reg b
  ({ s with
     pieces := Sparse.set Piece.none s.pieces b Piece.none, objects := s.objects.filter (fun e => e.1 != b),
     kv := s.kv.filter (fun e => e.1 != b), seals := s.seals.filter (fun e => e.1 / 16 != b),
     moves := s.moves.filter (fun m => m.basket != b), edits := s.edits.filter (fun e => e.basket != b),
     watches := s.watches.filter (fun w => w.basket != b), deferred := s.deferred.filter (fun d => d.basket != b),
     offers := s.offers.filter (fun o => o.uid != uid), waiting := s.waiting.filter (fun k => k.uid.toNat != uid),
     relays := s.relays.filter (fun x => x.pkt.uid.toNat != uid),
     own := s.own.filter (fun o => o.basket != b), updates := s.updates.filter (fun u => !u.ofPiece b uid),
     awayPoison := s.awayPoison.filter (fun e => e.1 / 2 ^ 50 != b),
     spanMsgs := s.spanMsgs.filter (fun e => e.1 != uid), reports := s.reports.filter (fun e => e.1 / 2 ^ 14 != uid) }).dropBasket b

/-- PLAIT_CHANGE_EFFECT (07 R309): the `k`-th of the pending changes takes effect if it can; one that cannot has what it waits for
started: the pages of a channel that leaves, the hand-over of a core. -/
def execPlaitChangeEffect (k : Nat) (s : State) : Out :=
  match s.plait.changes[k]? with
  | none => .next s
  | some x =>
    if s.changeReady x then .next ((s.dropChange x).changeEffect x).afterChange
    else match x with
      | .chanRemove b ch => .next (if (s.pieceAt b).leaving then s else s.evacuateChan b ch)
      | .slotAdd _ core _ _ _ => .next (s.handOver core)
      | _ => .next s

/-! ## From CHECK to APPLY (07 R303 to R307) -/

/-- The staging writes, and the first moment of APPLY. -/
def State.stage (s : State) (secs : List Section) (gen : Nat) : State :=
  let changed := secs.filter (fun x => !s.unchanged x)
  let removed := (s.pieces.filter (fun e => !e.2.leaving && !secs.any (fun x => x.basket == e.1))).map Prod.fst
  let diffs := changed.map (fun x =>
    match s.activeSection x.basket with
    | some y => sectionDiff y (s.pieceAt x.basket).chans x
    | none => sectionDiff Section.none 0 x)
  let outs := removed.flatMap (fun b => (s.pieceAt b).leaves b) ++ diffs.flatMap Prod.fst
  let ins := diffs.flatMap Prod.snd
  let s := removed.foldl State.stageLeaving (changed.foldl State.stageSection s)
  let s := if removed.isEmpty then s else s.capChange
  let lost := outs.filterMap (fun c => match c with
    | .chanRemove _ ch => some ch
    | _ => none)
  let s := (lost.filter (fun ch => !s.draining ch)).foldl State.dropFree s
  let running := (s.contexts.filter (fun e => e.2.kernel.isSome)).map Prod.fst
  let s := { s with plait := { s.plait with
    staged := secs, newGen := gen, changes := s.plait.changes ++ outs ++ ins, running := running, reduced := false } }
  let s := s.set Fld.RIM_PLAIT_STATUS_state 0 (if s.plait.changes.isEmpty then 5 else 4)
  let s := lost.foldl (fun s ch =>
    match s.chanPiece ch with
    | some b => if (s.pieceAt b).leaving then s else s.evacuateChan b ch
    | none => s) s
  (List.range 256).foldl State.handOver s

/-- PLAIT_FETCH_DONE (07 R303 to R307): the plait is read and checked; it is refused, or staged, and APPLY begins. -/
def execPlaitFetchDone (s : State) : Out :=
  if s.get Fld.RIM_PLAIT_STATUS_state 0 ≠ 1 then .next s
  else
    let addr := s.get Fld.RIM_PLAIT_ADDR_LO_addr_lo 0 * 64 + 2 ^ 32 * s.get Fld.RIM_PLAIT_ADDR_HI_addr_hi 0
    let total := fieldAt (s.hostBytes 0 addr 64) 0x14 4
    if !s.canMaster 0 then .next (s.plaitFail 1 0)
    else if 2 ^ 22 < total then .next (s.plaitFail 1 0x14)
    else
      let bs := s.hostBytes 0 addr (max 64 total)
      match s.checkPlait s.plaitKeys bs with
      | (_, some (off, code)) => .next (s.plaitFail code off)
      | (secs, none) => .next (s.stage secs (fieldAt bs 8 8))

/-! ## COMMIT (07 R307, R309, R321, R325, R328, R329) -/

/-- Binds a queue: empty, its registers at their reset values otherwise (08 R335, R389). -/
def State.bindQueue (s : State) (b : Nat) (q : QueueRec) : State :=
  (s.dropQueue q.queue).setAll q.queue [(Fld.WVR_Q_CFG_valid, 1), (Fld.WVR_Q_CFG_kind, q.kind), (Fld.WVR_Q_CFG_depth_log2, q.depth),
    (Fld.WVR_Q_CFG_context, q.ctx), (Fld.WVR_Q_CFG_basket_index, b)]

/-- The KV pool of a piece at COMMIT: a new one's sequence table is written (06 R731); a lowered quota spills (R735). -/
def State.commitKv (s : State) (b : Nat) (old new : Option KvRec) : State :=
  match new with
  | none => s
  | some k =>
    let s := s.setAll b [(Fld.PG_KV_POOL_LO_base_lo, k.base / 2 ^ 16), (Fld.PG_KV_POOL_HI_base_hi, k.base / 2 ^ 32),
      (Fld.PG_KV_POOL_PAGES_pages, k.pages), (Fld.PG_KV_T2_QUOTA_quota, k.quota), (Fld.PG_KV_SEQ_LO_table_lo, k.table / 64),
      (Fld.PG_KV_SEQ_HI_table_hi, k.table / 2 ^ 32), (Fld.PG_KV_SEQ_MAX_entries, k.entries), (Fld.PG_KV_LIST_LO_list_lo, k.list / 64),
      (Fld.PG_KV_LIST_HI_list_hi, k.list / 2 ^ 32), (Fld.PG_KV_LIST_SLOTS_slots, k.slots)]
    (match old with
     | none => s.kvStart b k.entries
     | some o =>
       let low := decide (k.quota < o.quota) && decide (k.quota < s.get Fld.PG_KV_T2_USED_pages b)
       (if low then s.setTrim b true else s).kvTrim b).countKv b

/-- The other members of a piece: their modules. -/
def State.otherMembers (s : State) (b : Nat) : List Nat :=
  let x := (s.pieceAt b).sec
  (x.memberList.filter (fun e => e.1 != x.ordinal)).map (fun e => e.2.1)

/-- The module at ordinal 0 of a piece. -/
def State.leadMember (s : State) (b : Nat) : Option Nat :=
  ((s.pieceAt b).sec.memberList.find? (fun e => e.1 == 0)).map (fun e => e.2.1)

/-- What this member reports of a piece: shape_gen and shape digest (07 R320, R321). -/
def State.ownShape (s : State) (b : Nat) : Nat × BitVec 512 := ((s.pieceAt b).sec.shapeGen, (s.pieceAt b).sec.shape)

/-- What a member has reported of a basket. -/
def State.reported (s : State) (uid m : Nat) : Nat × BitVec 512 := Sparse.get (0, 0) s.reports (2 ^ 14 * uid + m)

/-- Ordinal 0 tells every other member of a piece its state, and takes it itself. -/
def State.tellShape (s : State) (b st : Nat) : State :=
  (s.otherMembers b).foldl (fun s m => s.sendMsg b m 0 0 (.shapeState (BitVec.ofNat 64 (s.basketUid b)) st)) (s.set Fld.CAP_BASKET_state b st)

/-- Ordinal 0 answers a member whose values it has: LOCAL while others are missing, MISMATCH where they differ (07 R321). -/
def State.answerShape (s : State) (b m : Nat) : State :=
  let v := s.reported (s.basketUid b) m
  if v = (0, 0) then s
  else s.sendMsg b m 0 0 (.shapeState (BitVec.ofNat 64 (s.basketUid b)) (if v = s.ownShape b then 1 else 3))

/-- Every member has reported ordinal 0's own values. -/
def State.agreed (s : State) (b : Nat) : Bool := (s.otherMembers b).all (fun m => s.reported (s.basketUid b) m == s.ownShape b)

/-- Ordinal 0 answers members: READY to all once every member carries its values, else each by what it has reported. -/
def State.answerShapes (s : State) (b : Nat) (ms : List Nat) : State :=
  if s.agreed b then s.tellShape b 2 else ms.foldl (fun s m => s.answerShape b m) s

/-- A piece at COMMIT: its agreement with the others begins (07 R321, R325). -/
def State.commitShape (s : State) (b : Nat) (old : Option Section) : State :=
  let x := (s.pieceAt b).sec
  let s := if old.isNone then s.set Fld.CAP_BASKET_state b 1 else s
  if x.members ≤ 1 then s.set Fld.CAP_BASKET_state b 2
  else if x.ordinal = 0 then
    (if (old.map (fun y => y.shapeGen)).getD x.shapeGen = x.shapeGen then s else s.tellShape b 1).answerShapes b (s.otherMembers b)
  else match s.leadMember b with
    | some m => s.sendMsg b m 0 0 (.shape (BitVec.ofNat 64 x.uid) (BitVec.ofNat 32 x.shapeGen) x.shape)
    | none => s

/-- A changed section at COMMIT. -/
def State.commitSection (s : State) (x : Section) : State :=
  let b := x.basket
  let old := s.activeSection b
  let p := s.pieceAt b
  let s := s.setPiece b { p with sec := x }
  let s := s.setAll b [(Fld.CAP_BASKET_partition, x.part), (Fld.CAP_BASKET_SHAPE_members, x.members),
    (Fld.CAP_BASKET_SHAPE_ordinal, x.ordinal), (Fld.CAP_BASKET_UID_LO_uid_lo, x.uid), (Fld.CAP_BASKET_UID_HI_uid_hi, x.uid / 2 ^ 32),
    (Fld.XL_ROOT_LO_root_lo, x.root), (Fld.XL_ROOT_HI_root_hi, x.root / 2 ^ 32)]
  let s := x.contexts.foldl (fun s c => s.setAll c.ctx [(Fld.WVR_CTX_SHARE_share, c.share), (Fld.WVR_CTX_SHARE_label, c.label)]) s
  let lost := match old with
    | some y => lostQueues y x
    | none => []
  let s := lost.foldl (fun s q => if s.get Fld.WVR_Q_CFG_basket_index q.queue = b then s.dropQueue q.queue else s) s
  let fresh := x.queues.filter (fun q => !((old.map (fun y => y.queues)).getD []).contains q)
  let s := fresh.foldl (fun s q => s.bindQueue b q) s
  (s.commitShape b old).commitKv b (old.bind Section.kv) x.kv

/-- The pieces that were leaving are absent: COMMIT updates the basket states, with the capability table (07 Table 5; R334; log entry 176). -/
def State.dropLeavers (s : State) : State :=
  ((s.pieces.filter (fun e => e.2.leaving)).map Prod.fst).foldl State.pieceGone s

/-- drained of every partition: the active plait holds no section of it, and no piece of it is leaving (07 R329). -/
def State.showDrained (s : State) : State :=
  (List.range 32).foldl (fun s p => s.set Fld.LID_PART_drained p (bit (!s.pieces.any (fun e => e.2.sec.part == p)))) s

/-- A section binds a core, channel or port that the capability table does not show (07 R318). -/
def State.bindsAbsent (s : State) (x : Section) : Bool :=
  let miss := fun (f : Field) (k : Nat) => !bitOf (s.get f (k / 32)) (k % 32)
  (maskList 256 x.cores).any (miss Fld.CAP_CORE_MAP_present) || (maskList 256 x.channels).any (miss Fld.CAP_CHAN_MAP_present) ||
  (maskList 80 x.ports).any (miss Fld.CAP_PORT_MAP_present)

/-- PLAIT_COMMIT (07 R307): generation, capability table and piece states are updated, and the load is DONE. -/
def execPlaitCommit (s : State) : Out :=
  if s.get Fld.RIM_PLAIT_STATUS_state 0 ≠ 5 then .next s
  else
    let changed := s.plait.staged.filter (fun x => !s.unchanged x)
    let reduced := s.plait.reduced || changed.any s.bindsAbsent
    let s := s.set64 Fld.RIM_PLAIT_GEN_LO_gen_lo Fld.RIM_PLAIT_GEN_HI_gen_hi 0 s.plait.newGen
    let s := (changed.foldl State.commitSection s.dropLeavers).countPieces.showDrained
    let s := { s with plait := { s.plait with staged := [], running := [], reduced := false } }
    let s := (if reduced then s.set Fld.RIM_PLAIT_STATUS_reduced 0 1 else s).capChange
    .next (s.setAll 0 [(Fld.RIM_PLAIT_STATUS_state, 6), (Fld.RIM_PLAIT_STATUS_done, 1)]).plaitEvent

/-! ## Agreement between members (07 R320 to R325) -/

/-- A piece's state may have changed since `old`: a change advances CAP_GEN, so that R334 holds of it (log entry 176). -/
def State.shapeShown (s old : State) (b : Nat) : State :=
  if s.get Fld.CAP_BASKET_state b = old.get Fld.CAP_BASKET_state b then s else s.capChange

/-- Ordinal 0 takes the report of a member (07 R321, R325). A report of a basket not bound here yet is kept for its COMMIT. -/
def State.takeReport (s : State) (uid m gen : Nat) (digest : BitVec 512) : State :=
  let old := s.reported uid m
  let s := { s with reports := Sparse.set (0, 0) s.reports (2 ^ 14 * uid + m) (gen, digest) }
  match (s.basketOfUid uid).filter (fun b => s.get Fld.CAP_BASKET_state b != 4) with
  | none => s
  | some b =>
    if (s.pieceAt b).sec.ordinal ≠ 0 ∨ !(s.otherMembers b).contains m then s
    else
      let t := if old ≠ (0, 0) ∧ old.1 ≠ gen then s.tellShape b 1 else s
      (t.answerShapes b [m]).shapeShown s b

/-- SHAPE_REPORT (07 R321, R325): the report of the member that a shape message comes from, of the basket it names. -/
def execShapeReport (pkt : Packet) (uid : BitVec 64) (shapeGen : Word32) (digest : BitVec 512) (s : State) : Out :=
  .next (s.arriveHere pkt 8 (fun s =>
    if bitsOf pkt.args.toNat 0 8 ≠ 2 ∨ pkt.uid ≠ uid then s else s.takeReport uid.toNat pkt.src.toNat shapeGen.toNat digest))

/-- A member takes the state ordinal 0 gives its piece (07 R321). -/
def State.takeShape (s : State) (uid m st : Nat) : State :=
  match s.basketOfUid uid with
  | none => s
  | some b =>
    if (s.pieceAt b).sec.ordinal = 0 ∨ s.leadMember b ≠ some m ∨ s.get Fld.CAP_BASKET_state b = 4 ∨ st = 0 ∨ st = 4 then s
    else (s.set Fld.CAP_BASKET_state b st).shapeShown s b

/-- SHAPE_STATE (07 R321): the state that a readiness message gives the piece of the basket it names. -/
def execShapeState (pkt : Packet) (uid : BitVec 64) (state : Fin 5) (s : State) : Out :=
  .next (s.arriveHere pkt 8 (fun s =>
    if bitsOf pkt.args.toNat 0 8 ≠ 3 ∨ pkt.uid ≠ uid then s else s.takeShape uid.toNat pkt.src.toNat state))

end Sys2Proof.Machine
end

