-- ==== Sys2Proof/Machine/Host.lean ====
section
/-! DEFINITION. What the functions present, host links, the boot ROM's entry, DMA, function-level resets and the interfaces of lid
partitions (11 R496 to R502, R510, R514, R520, R523 to R526; 12 R568 to R571; 14 R654; 16 R706). -/

namespace Sys2Proof.Machine

/-! ## What the functions present (11 R498 to R500, R514) -/

/-- A partition's number among the virtual functions of its link: 1, 2, 3 and so on in ascending partition number (11 R499). -/
def State.vfNumber (s : State) (p : Nat) : Nat := ((s.linkParts (s.linkOf p)).filter (fun q => decide (1 ≤ q) && decide (q ≤ p))).length

/-- TotalVFs of a link: the partitions 1 to 31 that the manifest assigns to it (11 R499). -/
def State.totalVfs (s : State) (n : Nat) : Nat := ((s.linkParts n).filter (fun q => decide (1 ≤ q))).length

/-- A capability of Table 2 of 11. -/
inductive FnCap where
  | pcie | powerManagement | msix (vectors : Nat) | aer | ari | sriov (totalVfs : Nat) | doe | ide | serial (number : BitVec 64) | tdisp | cxlDvsecs
  deriving DecidableEq, Repr

/-- What a function's configuration space says of it (11 R500, Table 2): a BAR by its number. -/
structure FnConfig where
  vendor : Nat
  device : Nat
  classCode : Nat
  bars : List Nat
  caps : List FnCap
  deriving DecidableEq, Repr

/-- The configuration space of a function: partition 0, a virtual function, or the carrier of a link (11 R500; ATS, PRI, PASID and VF
Migration are not supported). -/
def State.fnConfig (s : State) (fn : Nat) : FnConfig :=
  let cxl := if s.cxlRole (s.fnLink fn) then [FnCap.cxlDvsecs] else []
  if fn = 0 then
    { vendor := 0x1F3C, device := 0x0900, classCode := 0x120000, bars := [0, 2, 4],
      caps := [.pcie, .powerManagement, .msix 2048, .aer, .ari, .sriov (s.totalVfs 0), .doe, .ide, .serial Config.serial] ++ cxl }
  else if fn < 32 then
    { vendor := 0x1F3C, device := 0x0902, classCode := 0x120000, bars := [0, 2, 4], caps := [.pcie, .msix 2048, .doe, .tdisp] }
  else
    { vendor := 0x1F3C, device := 0x0901, classCode := 0x120000, bars := [0],
      caps := [.pcie, .powerManagement, .msix 1, .aer, .ari, .sriov (s.totalVfs (fn - 32)), .doe, .ide] ++ cxl }

/-- What a read of `n` bytes of BAR2 returns; it changes nothing (11 R514). -/
def readBar2 (n : Nat) : List Byte := List.replicate n 0

/-! ## Loss and return of a link (11 R523, Table 5) -/

/-- The functions a link carries: its partitions, and the carrier function of links 1 to 3 (11 R498). -/
def State.linkFns (s : State) (n : Nat) : List Nat := s.linkParts n ++ (if n = 0 then [] else [32 + n])

/-- Sets or clears the bit of a link in every HI_LINK_STATE. -/
def State.setLink (s : State) (n : Nat) (up : Bool) : State :=
  (List.range 36).foldl (fun s fn =>
    s.set Fld.HI_LINK_STATE_up fn (putBits (s.get Fld.HI_LINK_STATE_up fn) n 1 (bit up))) s

/-- The operation of a DMA request, if it is still in flight. -/
def State.dmaOp (s : State) (d : Dma) : Option OpRec := s.opAt d.core d.slot d.op

/-- The operation of a DMA request faults. -/
def State.failDma (s : State) (d : Dma) (code info : Nat) : State :=
  match s.dmaOp d with
  | some o => s.failEntry d.core d.slot o code info
  | none => s

/-- What a link's loss does (11 Table 5 steps 1 to 5): its requests end with peer-lost, T4 behind it is full, messages wait. -/
def State.linkLost (s : State) (n : Nat) : State :=
  let s := s.setLink n false
  let gone := s.dma.filter (fun d => d.link == n)
  let s := gone.foldl (fun s d => s.failDma d 0x0F (0x4000 + n)) { s with dma := s.dma.filter (fun d => d.link != n) }
  let s := (s.linkFns n).foldl (fun s fn => s.count Fld.HI_LINK_DOWN_COUNT_count fn Fld.HI_EVENT_STATUS_down_wrap fn 0) s
  s.report 0x3A n 0

/-- The links whose fields differ between two links fields: every link where bifur does, else those whose role does (11 R497). -/
def changedLinks (old new : Nat) : List Nat :=
  (List.range 4).filter (fun n => bitsOf old 0 2 != bitsOf new 0 2 || bitOf old (2 + n) != bitOf new (2 + n))

/-- The links whose fields a re-seat changes leave their active state, to train anew (11 R497, R523). -/
def State.retrainLinks (s : State) (r : Reseat) : State :=
  match r.manifest with
  | none => s
  | some m =>
    (changedLinks (linksOf s.manifest) (linksOf (some m))).foldl (fun s n => if s.linkUp n then s.linkLost n else s) s

/-- LINK_DOWN (11 R523). -/
def execLinkDown (n : Fin 4) (s : State) : Out := if s.linkUp n then .next (s.linkLost n) else .next s

/-- The configuration space of a function is at its reset values: it is in D0. -/
def State.wake (s : State) (fn : Nat) : State := { s with d3hot := s.d3hot.filter (· != fn) }

/-- A link trains: the configuration space of its functions is at its reset values; if it has trained before, each is told (11 Table 5
steps 6 and 7). -/
def execLinkReturn (n : Fin 4) (s : State) : Out :=
  if s.run.phase ≠ .running ∨ s.linkUp n = true ∨ linkCount (s.get Fld.HI_LINK_CFG_bifur 0) ≤ n.val then .next s
  else
    let again := s.run.trained.contains n.val
    let s := s.setLink n true
    let s := { s with run := { s.run with trained := if again then s.run.trained else s.run.trained ++ [n.val] } }
    .next ((s.linkFns n).foldl (fun s fn =>
      let s := (s.wake fn).set Fld.HI_ATTACH_bus_master fn 0
      if again then (s.set Fld.HI_ATTACH_attached fn 0).hostEvent fn Fld.HI_EVENT_STATUS_reattached else s) s)

/-! ## The boot ROM's entry (16 R706, R714 to R717) -/

/-- BOOT_ROM_ENTRY (16 R706): at power-up once the PLL has locked, at a re-seat that has been accepted, or at a rim restart. A re-seat whose
image or manifest the boot ROM refuses ends with error, and is not counted as completed (16 R712, R721; log entry 205). -/
def execBootRomEntry (s : State) : Out :=
  if s.run.phase = .locked then .next s.powerUpBoot
  else if s.run.phase ≠ .running then .next s
  else match s.run.reseat with
    | some r =>
      let s := { s with run := { s.run with reseat := none } }
      let wrong := s.reseatWrong r
      let s := if wrong = 0 then s.retrainLinks r else s
      let s := (s.reseatBoot r).set Fld.RIM_RESEAT_CMD_busy 0 0
      .next (if wrong = 0 then (s.count Fld.RIM_RESEAT_COUNT_count 0 Fld.RIM_STATUS2_reseat_wrap 0 0).set Fld.RIM_RESEAT_CMD_done 0 1
        else s.reseatError wrong).refreshServing
    | none =>
      if s.run.restartDue then .next (s.reseatBoot { manifest := none, image := none }).restartDone else .next s

/-! ## DMA (11 R510, R520; 14 R654) -/

/-- The bytes a DMA read brings for an operation, from where the page now lies. -/
def State.dmaRead (s : State) (b : Nat) (d : Dma) : Bytes :=
  match (s.leafAt b d.va).map (fun (l : Leaf) => l.place d.va) with
  | some (Place.spillT4 i) => s.readSpill b i d.va d.len
  | _ => .ok (s.readT4 b d.va d.link d.addr d.len)

/-- A DMA write of an operation is performed; a seal over it breaks (15 R685). -/
def State.dmaWrite (s : State) (b : Nat) (d : Dma) : State :=
  match (s.leafAt b d.va).map (fun (l : Leaf) => l.place d.va) with
  | some (Place.spillT4 i) => (s.breakSeals b d.va d.data.length).writeSpill b i d.va d.data
  | some (Place.t2 phys) => s.writeHere b d.va phys d.data
  | _ => (s.breakSeals b d.va d.data.length).writeT4 b d.va d.link d.addr d.data

/-- DMA_COMPLETION (11 R520, R523; 14 Table 2 family 0x3B): a request that went out is answered. An error faults its operation with
translation, reason right; a line that carries poison, or whose tag fails, with data-poison (12 R561). -/
def execDmaCompletion (n : Fin 4) (req : Nat) (ok : Bool) (s : State) : Out :=
  match s.dma.find? (fun d => d.id == req && d.link == n.val) with
  | none => .next s
  | some d =>
    if !s.goesOut d.part n.val d.addr then .next s
    else
      let b := s.slotBasket (d.core * 8 + d.slot)
      let s := { s with dma := s.dma.filter (fun x => x.id != req) }
      let s := s.bump64 Fld.FC_ENG_PROGRESS_LO_lo Fld.FC_ENG_PROGRESS_HI_hi (288 + n)
      match s.dmaOp d with
      | none => .next s
      | some o =>
        if !ok then
          let level := ((s.leafAt b d.va).map Leaf.level).getD 4
          let s := (s.report 0x3B n 0).recordFault b (.translation d.va 2 level)
          .next (s.failEntry d.core d.slot o 0x0C d.va)
        else if d.write then .next ((s.dmaWrite b d).endWait d.core d.slot o (· == .dma req))
        else match s.dmaRead b d with
          | .ok bs => .next (s.endAccess d.core d.slot { o with fetched := (d.va, bs) :: o.fetched } (· == .dma req))
          | .poison va tag => .next ((if tag then s.integrityFail d.part else s).failEntry d.core d.slot o 0x0A va)

/-! ## Function-level resets (11 R524 to R526) -/

/-- The configuration space and the MSI-X table of a function are at their reset values. -/
def State.resetFn (s : State) (fn : Nat) : State :=
  ({ s with msix := s.msix.filter (fun e => e.1 / 2048 != fn) }.wake fn).set Fld.HI_ATTACH_bus_master fn 0

/-- A function-level reset of a partition's function. -/
def State.flr (s : State) (p : Nat) : State := ((s.closePart p).resetFn p).hostEvent p Fld.HI_EVENT_STATUS_flr_done

/-- FLR_VF (11 R524). -/
def execFlrVf (p : Fin 32) (s : State) : Out := if p.val = 0 ∨ !s.partitions.contains p.val then .next s else .next (s.flr p)

/-- FLR_PF (11 R525): as for a virtual function, for partition 0 alone; a load goes on. -/
def execFlrPf (s : State) : Out := if s.partitions.contains 0 then .next (s.flr 0) else .next s

/-- FLR_CARRIER (11 R526). -/
def execFlrCarrier (n : Fin 4) (s : State) : Out :=
  if n.val = 0 then .next s else .next ((s.resetFn (32 + n)).hostEvent (32 + n) Fld.HI_EVENT_STATUS_flr_done)

/-! ## TDISP and IDE (12 R568 to R570) -/

/-- TDISP_NON_IDE_TLP (12 R569, R570). -/
def execTdispNonIdeTlp (p : Fin 32) (s : State) : Out := if s.underLid p then .next (s.tdispError p) else .next s

/-- LOCK_INTERFACE_REQUEST (12 R568): from CONFIG_UNLOCKED or ERROR, while the lid is ACTIVE. -/
def execLockInterfaceRequest (p : Fin 32) (s : State) : Out :=
  let t := s.get Fld.LID_PART_tdisp p
  if s.underLid p && s.get Fld.LID_PART_state p == 2 && (t == 0 || t == 3) then .next (s.set Fld.LID_PART_tdisp p 1) else .next s

/-- TDISP_RUN (12 R569): a locked interface enters RUN. -/
def execTdispRun (p : Fin 32) (s : State) : Out :=
  if s.underLid p && s.get Fld.LID_PART_tdisp p == 1 then .next (s.set Fld.LID_PART_tdisp p 2) else .next s

/-- The selective streams of a link that have their keys; stream 0 is its link stream (11 R501; log entry 203). -/
def State.ideSelective (s : State) (n : Nat) : List Nat :=
  (s.ideKeys.map Prod.fst).filter (fun k => k / 256 == n && k % 256 != 0)

/-- IDE_KM_KEY_PROG (12 R568; 11 R501): the key of a stream goes into the link's own key registers, which hold one link stream and up to 32
selective ones. -/
def execIdeKmKeyProg (n : Fin 4) (stream : BitVec 8) (key : BitVec 256) (s : State) : Out :=
  let k := n * 256 + stream.toNat
  let own := s.ideSelective n
  if stream = 0 ∨ own.contains k = true ∨ own.length < 32 then .next { s with ideKeys := Sparse.set 0 s.ideKeys k (key.toNat + 1) }
  else .next s

end Sys2Proof.Machine
end

