-- ==== Sys2Proof/Machine/Lid.lean ====
section
/-! DEFINITION. Lids: the charter, forming and amending a lid, removing one, and what its partition leaves behind (12 R562 to R567, R581
to R586). -/

namespace Sys2Proof.Machine

/-! ## The charter (R563) -/

def charterMembers (c : List Byte) : Nat := fieldAt c 6 2

def charterId (c : List Byte) : Nat := fieldAt c 8 8

def charterGen (c : List Byte) : Nat := fieldAt c 0x10 4

/-- Member `i`: 72 bytes. -/
def charterMember (c : List Byte) (i : Nat) : List Byte := (c.drop (0x340 + 72 * i)).take 72

/-- The members' entries, in order. -/
def charterEntries (c : List Byte) : List (List Byte) := (List.range (charterMembers c)).map (charterMember c)

/-- The module and the partition of an entry; its other bytes hold the digest of the DeviceID from byte 8. -/
def memberModule (m : List Byte) : Nat := fieldAt m 0 2

def memberPart (m : List Byte) : Nat := fieldAt m 2 1

/-- The digests of the measurements a charter accepts. -/
def charterAccepts (c : List Byte) : List (List Byte) := (List.range (fieldAt c 0x15 1)).map (fun k => (c.drop (0x20 + 64 * k)).take 64)

/-- The bytes before the signature. -/
def charterSigned (c : List Byte) : List Byte := c.take (0x340 + 72 * charterMembers c)

/-- A charter has the layout of Table 8. -/
def charterOk (c : List Byte) : Bool :=
  let n := charterMembers c
  fieldAt c 0 4 == 0x434C4B51 && fieldAt c 4 2 == 1 && decide (1 ≤ n) && decide (n ≤ 16384) && charterId c != 0 &&
  decide (1 ≤ fieldAt c 0x15 1) && decide (fieldAt c 0x15 1 ≤ 4) && zeroAt c 0x16 10 && zeroAt c 0x334 12 &&
  (List.range n).all (fun i => decide (fieldAt (charterMember c i) 0 2 < 2 ^ 14) && zeroAt (charterMember c i) 3 5) &&
  c.length == 0x340 + 72 * n + 132

/-- A charter's signature verifies under a key. -/
def charterVerifies (c key : List Byte) : Bool :=
  ecdsaVerify (pointOf key) (sha512 (charterSigned c)) (c.drop (charterSigned c).length)

/-- The entry of partition `p` of this module stands in a charter (R564 step 3). -/
def State.ownEntry (s : State) (p : Nat) (c : List Byte) : Bool :=
  let device := sha512 (pointBytes (publicKey deviceKey))
  (charterEntries c).any (fun m => memberModule m == s.me && memberPart m == p && m.drop 8 == device)

/-- The module's measurement blocks 1 to 4 are among those a charter accepts. -/
def State.accepted (s : State) (c : List Byte) : Bool :=
  (charterAccepts c).contains (sha512 ((List.range 4).flatMap (fun i => bytes512 ((s.measure (i + 1)).getD 0))))

/-- The digest of the charter key the manifest names for a partition (16 Table 5). -/
def State.charterDigest (s : State) (p : Nat) : List Byte := beBytes 64 (s.setupOf s.manifest p).charter

/-! ## Forming (R564, R565) -/

/-- An entry names partition `p` of this module. -/
def State.isOwn (s : State) (p : Nat) (m : List Byte) : Bool := memberModule m == s.me && memberPart m == p

/-- Partition `p` of this module leads the lid of a charter. -/
def State.leads (s : State) (p : Nat) (c : List Byte) : Bool := s.isOwn p (charterMember c 0)

/-- The other members of a charter. -/
def State.charterOthers (s : State) (p : Nat) (c : List Byte) : List (List Byte) := (charterEntries c).filter (fun m => !s.isOwn p m)

/-- Sends a message to another module's rim, in a MESSAGE packet with basket_uid, key_slot and key_epoch zero (12 R541). -/
def State.sendRim (s : State) (dest : Nat) (msg : RimMsg) : State :=
  s.emit (.rim { dest := BitVec.ofNat 14 dest, src := BitVec.ofNat 14 s.me, ptype := 8, label := 0, hops := 0, keySlot := 0, keyEpoch := 0,
                 uid := 0, ref := 0, ledger := 0, args := 0, payload := [], links := 0, place := localPlace } msg)

/-- The keys of a lid go into its slots, with an epoch (R564 steps 4 and 6). -/
def State.loadLidKeys (s : State) (p e : Nat) (mem mac : BitVec 768) : State :=
  let k := s.memSlot p
  let s := (s.loadKey k 1 mem false true useUncounted).loadKey (k + 1) 4 mac false true useUncounted
  (s.setEpoch k e).setEpoch (k + 1) e

/-- The epochs of both lid slots advance by one (R567). -/
def State.stepEpochs (s : State) (p : Nat) : State :=
  let k := s.memSlot p
  (s.setEpoch k (s.get Fld.KS_ATTR_epoch k + 1)).setEpoch (k + 1) (s.get Fld.KS_ATTR_epoch (k + 1) + 1)

/-- The lid of a partition is ACTIVE, under its charter (R564 step 7). -/
def State.lidActive (s : State) (p : Nat) : State :=
  let c := (s.lidAt p).charter
  s.setAll p [(Fld.LID_PART_state, 2), (Fld.LID_ID_LO_id_lo, charterId c), (Fld.LID_ID_HI_id_hi, charterId c / 2 ^ 32),
    (Fld.LID_CHARTER_GEN_gen, charterGen c)]

/-- The leader sends KEY_DIST to a member whose session shows the DeviceID its entry names and a measurement the charter accepts (R564
step 5; log entry 207). -/
def State.sendKeys (s : State) (p : Nat) (m : List Byte) : State :=
  let c := (s.lidAt p).charter
  let t := s.drawn
  if Config.attests s.freeCounter (memberModule m) (m.drop 8) (charterAccepts c) then
    t.sendRim (memberModule m)
      (.keyDist (BitVec.ofNat 64 (charterId c)) (sha512 c) (memberPart m) (s.get Fld.KS_ATTR_epoch (s.memSlot p)))
  else t

/-- The leader sends KEY_DIST to members, and awaits their acknowledgement; with none to await the lid is ready (R564 steps 5 and 7). -/
def State.shareKeys (s : State) (p : Nat) (ms : List (List Byte)) : State :=
  let r := s.lidAt p
  let s := ms.foldl (fun s m => s.sendKeys p m) s
  if ms.isEmpty then (s.setLid p { r with awaits := [], sharing := false }).lidActive p
  else s.setLid p { r with awaits := ms.map memberModule, since := s.time, sharing := true }

/-- LID_CHARTER (R564 steps 2 to 5): a member checks a charter and enters FORMING, or refuses it; the leader draws the keys and sends
them. -/
def execLidCharter (p : Fin 32) (charter charterKey : List Byte) (s : State) : Out :=
  let k := s.memSlot p
  let st := s.get Fld.LID_PART_state p
  if !charterOk charter || sha512 charterKey != s.charterDigest p || !charterVerifies charter charterKey || !s.ownEntry p charter ||
      !s.underLid p || fieldAt charter 0x14 1 != k || !s.slotEmpty k || !s.slotEmpty (k + 1) || !s.accepted charter ||
      !(st == 0 || st == 1) then .next s
  else
    let s := (s.setLid p { LidRec.none with charter := charter, key := charterKey }).set Fld.LID_PART_state p 1
    if !s.leads p charter then .next s
    else
      let (mem, s) := s.draw768
      let mac := keyFrom (bytes512 s.randomValue)
      let s := s.drawn.loadLidKeys p (s.get Fld.KS_ATTR_epoch k + 1) mem mac
      .next (s.shareKeys p (s.charterOthers p charter))

/-- KEY_DIST (R564 step 6; log entry 136): a member that is FORMING loads the keys of its charter's lid and acknowledges them. -/
def execKeyDist (p : Fin 32) (lidId : BitVec 64) (charterDigest : BitVec 512) (epoch : BitVec 8) (memKey : BitVec 768) (macKey : BitVec 512)
    (s : State) : Out :=
  let c := (s.lidAt p).charter
  let k := s.memSlot p
  if s.get Fld.LID_PART_state p ≠ 1 ∨ charterId c ≠ lidId.toNat ∨ sha512 c ≠ bytes512 charterDigest ∨ !s.slotEmpty k ∨ !s.slotEmpty (k + 1) then
    .next s
  else
    let s := s.loadLidKeys p epoch.toNat memKey (keyFrom (bytes512 macKey))
    .next (s.sendRim (memberModule (charterMember c 0)) (.keyAck lidId))

/-- KEY_ACK (R564 step 7): once every member has acknowledged, the leader sends LID_READY and its own lid is ACTIVE. A message from a module
clears its mark (10 R473). -/
def execKeyAck (p : Fin 32) (src : ModuleId) (s : State) : Out :=
  let s := s.unmarkLost src.toNat
  let r := s.lidAt p
  if !r.sharing || r.removal.isSome || !r.awaits.contains src.toNat then .next s
  else
    let r := { r with awaits := r.awaits.erase src.toNat }
    if !r.awaits.isEmpty then .next (s.setLid p r)
    else
      let s := (s.setLid p { r with sharing := false }).lidActive p
      let id := BitVec.ofNat 64 (charterId r.charter)
      .next ((s.charterOthers p r.charter).foldl (fun s m => s.sendRim (memberModule m) (.lidReady id)) s)

/-- LID_READY (R564 step 7): a member that holds the keys is ACTIVE. -/
def execLidReady (p : Fin 32) (lidId : BitVec 64) (s : State) : Out :=
  if s.get Fld.LID_PART_state p = 1 ∧ charterId (s.lidAt p).charter = lidId.toNat ∧ s.slotActive (s.memSlot p) = true then
    .next (s.lidActive p)
  else .next s

/-! ## Removal (R581 to R586) -/

/-- LID_REVOKE_TIMEOUT (R589). -/
def State.revokeTimeout (s : State) : Nat := max 1000 (s.get Fld.LID_REVOKE_TIMEOUT_us 0)

/-- What a REVOKE authenticates: lid_id, lid_slot and the new epoch (Table 11 step 3; log entry 135). -/
def revokeBytes (lid slot epoch : Nat) : List Byte := leBytes 8 lid ++ leBytes 1 slot ++ leBytes 1 epoch

/-- What a DEPART authenticates: lid_id and the module. -/
def departBytes (lid m : Nat) : List Byte := leBytes 8 lid ++ leBytes 2 m

/-- The authentication of a message under the MAC key of a partition's lid. -/
def State.lidMac (s : State) (p : Nat) (m : List Byte) : BitVec 512 :=
  BitVec.ofNat 512 (beNat (hmac512 (keyBytes (s.keyOf (s.memSlot p + 1)) 64) m))

/-- A partition's lid holds its MAC key. -/
def State.macHeld (s : State) (p : Nat) : Bool := s.get Fld.KS_ATTR_class (s.memSlot p + 1) == 4

/-- Operations and moves that need the slots of a partition end: their DMA is over, and they fault with revoked (R582). -/
def State.endRevoked (s : State) (p : Nat) : State :=
  let gone := s.dma.filter (fun d => d.part == p)
  let s := { s with dma := s.dma.filter (fun d => d.part != p) }
  let s := gone.foldl (fun s d => s.failDma d 0x14 (s.memSlot p)) s
  (s.moves.filter (fun m => s.basketOwner m.basket == some p)).foldl (fun s m => (s.abandonMove m).moveOver m.id) s

/-- Steps 1 and 2 of a removal (Table 11; R586). -/
def State.revokePart (s : State) (p : Nat) : State :=
  let k := s.memSlot p
  let wraps := (s.wrapSlots p).filter (fun x => s.get Fld.KS_ATTR_class x == 3 && !s.slotEmpty x)
  let s := ((k :: (k + 1) :: wraps).foldl State.revokeSlot (s.set Fld.LID_PART_state p 3)).report 0x43 p 0
  let s := match s.importAt p with
    | some x => s.importFail p x 10
    | none => s
  (s.endRevoked p).closePart p

/-- Step 2 of a removal has ended: every context of the partition is stopped. -/
def State.partStopped (s : State) (p : Nat) : Bool := (s.contextsOf p).all (fun c => s.get Fld.WVR_CTX_STATE_state c == 5)

/-- Step 6: the slots of step 1 are zeroized. -/
def State.zeroPart (s : State) (p : Nat) : State :=
  ((s.keyRange p).filter (fun k => s.get Fld.KS_ATTR_state k == 2)).foldl State.zeroSlot (s.set Fld.LID_PART_state p 4)

/-- Step 3, once step 2 has ended: the other members are told, or answered (Table 11 steps 3 and 4). -/
def State.tellRemoval (s : State) (p : Nat) : State :=
  let r := s.lidAt p
  let k := s.memSlot p
  let lid := charterId r.charter
  let id := BitVec.ofNat 64 lid
  let e := s.get Fld.KS_ATTR_epoch k
  let others := (s.charterOthers p r.charter).map memberModule
  let s := r.answers.foldl (fun s m => s.sendRim m (.revokeAck id)) s
  match r.removal with
  | some .dissolved =>
    let mac := s.lidMac p (revokeBytes lid k e)
    others.foldl (fun s m => s.sendRim m (.revoke id k e mac))
      (s.setLid p { r with answers := [], sent := true, awaits := others, since := s.time })
  | some .departs =>
    let mac := s.lidMac p (departBytes lid s.me)
    others.foldl (fun s m => s.sendRim m (.depart id mac))
      (s.setLid p { r with answers := [], sent := true, awaits := others, since := s.time })
  | _ => s.setLid p { r with answers := [], sent := true, awaits := [] }

/-- A removal goes on as far as it can: it begins once no load is in progress, tells the others once step 2 has ended, and zeroizes the
slots once nobody is awaited (R584, R586). -/
def State.removalStep (s : State) (p : Nat) : State :=
  let r := s.lidAt p
  if r.removal.isNone then s
  else
    let st := s.get Fld.LID_PART_state p
    let s := if (st == 1 || st == 2) && !s.loading then s.revokePart p else s
    let s := if s.get Fld.LID_PART_state p == 3 && !r.sent && s.partStopped p then s.tellRemoval p else s
    let r := s.lidAt p
    if s.get Fld.LID_PART_state p == 3 && r.sent && r.awaits.isEmpty then s.zeroPart p else s

/-- A removal starts; one that runs already is joined (R581). -/
def State.startRemoval (s : State) (p : Nat) (why : Removal) (answer : List Nat) : State :=
  let r := s.lidAt p
  if r.removal.isSome then
    if r.sent then answer.foldl (fun s m => s.sendRim m (.revokeAck (BitVec.ofNat 64 (charterId r.charter)))) s
    else s.setLid p { r with answers := r.answers ++ answer }
  else
    let s := s.setLid p { r with removal := some why, answers := answer, awaits := [], sharing := false, sent := false }
    s.removalStep p

/-- The partition whose lid has an id. -/
def State.partOfLid (s : State) (lid : BitVec 64) : Option Nat :=
  s.partitions.find? (fun p => s.get Fld.LID_PART_state p != 0 && charterId (s.lidAt p).charter == lid.toNat)

/-- KEY_DIST_TIMEOUT (R565): the leader dissolves the lid. -/
def execKeyDistTimeout (p : Fin 32) (s : State) : Out :=
  let r := s.lidAt p
  if r.sharing && r.removal.isNone && decide (r.since + s.revokeTimeout ≤ s.time) then .next (s.startRemoval p .dissolved []) else .next s

/-- LID_AMEND (R567): a charter of the same lid and key with a greater generation. A member it leaves out removes itself; the others
advance their epochs, and the leader gives the keys to those it adds. -/
def execLidAmend (p : Fin 32) (charter charterKey : List Byte) (s : State) : Out :=
  let r := s.lidAt p
  if s.get Fld.LID_PART_state p ≠ 2 ∨ r.removal.isSome ∨ !charterOk charter ∨ charterKey ≠ r.key ∨ !charterVerifies charter charterKey ∨
      charterId charter ≠ charterId r.charter ∨ charterGen charter ≤ charterGen r.charter ∨ fieldAt charter 0x14 1 ≠ s.memSlot p then .next s
  else if !s.ownEntry p charter then .next (s.startRemoval p .amended [])
  else
    let added := (s.charterOthers p charter).filter (fun m => !(charterEntries r.charter).contains m)
    let s := ((s.setLid p { r with charter := charter }).stepEpochs p).lidActive p
    .next (if s.leads p charter && !added.isEmpty then s.shareKeys p added else s)

/-- LID_DISSOLVE (R581; log entry 134): signed by the charter key, it begins a lid-wide removal. -/
def execLidDissolve (p : Fin 32) (lidId : BitVec 64) (sig : List Byte) (s : State) : Out :=
  let r := s.lidAt p
  if s.get Fld.LID_PART_state p = 0 ∨ s.get Fld.LID_PART_state p = 4 ∨ charterId r.charter ≠ lidId.toNat ∨
      !ecdsaVerify (pointOf r.key) (sha512 (Config.dissolveMessage lidId)) sig then .next s
  else .next (s.startRemoval p .dissolved [])

/-- REVOKE (R581, Table 11 step 4): an authenticated one begins a lid-wide removal of this member's own, which it answers. -/
def execRevoke (lidId : BitVec 64) (src : ModuleId) (slot epoch : BitVec 8) (mac : BitVec 512) (s : State) : Out :=
  let s := s.unmarkLost src.toNat
  match s.partOfLid lidId with
  | none => .next s
  | some p =>
    if !s.macHeld p || s.memSlot p != slot.toNat || mac != s.lidMac p (revokeBytes lidId.toNat slot.toNat epoch.toNat) then .next s
    else .next (s.startRemoval p .revoked [src.toNat])

/-- DEPART (R581, Table 11 step 4; R567): the epochs of both lid slots advance, and the member is answered. -/
def execDepart (lidId : BitVec 64) (src : ModuleId) (mac : BitVec 512) (s : State) : Out :=
  let s := s.unmarkLost src.toNat
  match s.partOfLid lidId with
  | none => .next s
  | some p =>
    if !s.macHeld p || (s.lidAt p).removal.isSome || mac != s.lidMac p (departBytes lidId.toNat src.toNat) then .next s
    else .next ((s.stepEpochs p).sendRim src.toNat (.revokeAck lidId))

/-- LID_PART_REMOVE (R581, R589): a write of remove by partition 0 sets it and begins a local removal. Of a partition whose lid is NONE nothing
begins, and one that is being removed goes on as it is (DESIGN CHOICE, log entry 197). -/
def execLidPartRemove (a : Agent) (p : Fin 32) (v : Word32) (s : State) : Out :=
  let off := 0xE0100 + 0x10 * p.val
  if !s.takes a off then .next s
  else
    let s := s.mmioWrite a off v.toNat
    let st := s.get Fld.LID_PART_state p
    if !bitOf v.toNat 21 || !s.fromPf a || a == .rim then .next s
    else
      let s := s.set Fld.LID_PART_remove p 1
      .next (if st = 1 ∨ st = 2 then s.startRemoval p .departs [] else s)

/-- REVOKE_ACK (R584): once every member that was told has acknowledged, the slots are zeroized. -/
def execRevokeAck (p : Fin 32) (src : ModuleId) (s : State) : Out :=
  let s := s.unmarkLost src.toNat
  let r := s.lidAt p
  if s.get Fld.LID_PART_state p ≠ 3 ∨ !r.sent then .next s
  else .next ((s.setLid p { r with awaits := r.awaits.erase src.toNat }).removalStep p)

/-- REVOKE_TIMEOUT (R584): nobody is awaited any more. -/
def execRevokeTimeout (p : Fin 32) (s : State) : Out :=
  let r := s.lidAt p
  if s.get Fld.LID_PART_state p ≠ 3 ∨ !r.sent ∨ r.awaits.isEmpty = true ∨ s.time < r.since + s.revokeTimeout then .next s
  else
    let s := (s.set Fld.LID_PART_ack_short p 1).count Fld.LID_ACK_SHORT_COUNT_count 0 Fld.LID_COUNT_STATUS_ack_wrap 0 0
    .next ((s.setLid p { r with awaits := [] }).removalStep p)

/-- Everything a piece of the partition held is zero and unbound (R585). -/
def State.scrubPiece (s : State) (b : Nat) : State :=
  let x := (s.pieceAt b).sec
  let chans := maskList 256 (s.pieceAt b).chans
  let s := (x.contexts.map (fun c => c.ctx)).foldl State.unbindCtx s
  let s := (x.queues.map (fun q => q.queue)).foldl State.dropQueue s
  let s := (segList x.segments).foldl (fun s g => (s.zeroSegment g.1 g.2).setSegOwner g.1 g.2 none) s
  let s := chans.foldl (fun s ch => (s.zeroChan ch).dropChan b ch) s
  let s := { s with plait := { s.plait with changes := s.plait.changes.filter (fun c => c.basket != b) } }
  s.pieceGone b

/-- LID_SCRUB_DONE (Table 11 steps 7 and 8; R585): the scrub has ended; the partition's sections are gone and its lid is NONE. -/
def execLidScrubDone (p : Fin 32) (s : State) : Out :=
  if s.get Fld.LID_PART_state p ≠ 4 then .next s
  else
    let mine := (s.pieces.filter (fun e => e.2.sec.part == p.val)).map Prod.fst
    let carve := (List.range 256).filter (s.inCarve p)
    let s := carve.foldl State.zeroChan (mine.foldl State.scrubPiece s)
    let s := s.bump64 Fld.RIM_PLAIT_GEN_LO_gen_lo Fld.RIM_PLAIT_GEN_HI_gen_hi 0
    let s := s.setAll p [(Fld.LID_PART_state, 0), (Fld.LID_PART_remove, 0), (Fld.LID_ID_LO_id_lo, 0), (Fld.LID_ID_HI_id_hi, 0),
      (Fld.LID_CHARTER_GEN_gen, 0)]
    .next ((s.setLid p LidRec.none).showDrained.countPieces).capChange

end Sys2Proof.Machine
end

