-- ==== Sys2Proof/Machine/Engines.lean ====
section
/-! DEFINITION. Resets of engines: what drains, what is cleared, and the return to service (14 R648 to R653, R660). -/

namespace Sys2Proof.Machine

/-- Every operation in flight of a slot ends with engine-reset, and its shard faults (14 Table 5 step 4). The progress counters are
kept, and count these operations as they count every completion (04 R180; 14 R650; DEDUCED, log entry 78). -/
def State.resetShard (s : State) (e : OpEnv) : State :=
  let r := s.shardAt e.core e.slot
  let s := r.ops.foldl (fun s o => s.complete e { o with fault := some (0x15, e.core) } 0) s
  if r.ops.isEmpty then s.shardFault e r.next 0x15 e.core else s

/-- Steps 3 to 5 of the reset of a core: its requests are over, its shards fault, and all but its local store and slot bindings is
cleared (R649). Its kernel boundaries count as reached (R653). -/
def State.resetCore (s : State) (core : Nat) : State :=
  let s := { s with dma := s.dma.filter (fun d => d.core != core) }
  let live := (List.range 8).filter (fun k => (s.shardAt core k).active)
  let ctxs := (live.map (fun k => (s.slotAt core k).ctx)).eraseDups
  let s := live.foldl (fun s k =>
    match s.opEnv core k with
    | some e => s.resetShard e
    | none => s.setShard core k ShardRun.none) s
  let s := ctxs.foldl State.settleKernel s
  let s := { s with
    tlb1 := Sparse.set [] s.tlb1 core [],
    plait := { s.plait with running := s.plait.running.filter (fun c => !ctxs.contains c) } }
  let s := (List.range 8).foldl (fun s k => s.clearTags core k) s
  match s.siteOf core with
  | none => s
  | some site =>
    (List.range 8).foldl (fun s k => s.clearRegs Fld.MU_FMT_CTRL_invalid_event_en.reg Fld.VU_ACC_STATUS_high_wrap.reg (site * 8 + k)) s

/-- A move starts again from the beginning (14 Table 4); the filling of a guest frame is its sender's to begin again. -/
def State.restartMove (s : State) (m : Move) : State :=
  match m.kind, s.leafAt m.basket m.va with
  | .guestIn _, _ => s
  | _, none => s
  | .migrate src, some _ => s.evacuate m.basket src m.va
  | .bringT3 _ _, some l =>
    (match s.takeFrame m.basket (.page m.va) with
      | some (f, s) => (s.startBring m.basket m.va l f).2
      | none => s)
  | .bringT4 _, some l =>
    (match s.takeFrame m.basket (.page m.va) with
      | some (f, s) => (s.startBring m.basket m.va l f).2
      | none => s)
  | k, some l => (s.startSpill m.basket m.va l k).2

/-- A tier-move engine abandons its moves, and the pager starts each again. -/
def State.resetMover (s : State) (e : Nat) : State :=
  (s.moves.filter (fun m => m.engine == e)).foldl (fun s m => ((s.abandonMove m).restartMove m).moveOver m.id) s

/-- ENGINE_RESET_DRAINED (R648, R649 steps 3 to 5): what a reset of each kind of engine does. -/
def execEngineResetDrained (engine : Fin 372) (s : State) : Out :=
  let e := engine.val
  if !s.fc.fenced.contains e || s.fc.drained.contains e then .next s
  else
    let s : State := { s with fc := { s.fc with drained := s.fc.drained ++ [e] } }
    if e < 256 then .next (s.resetCore e)
    else if e < 288 then .next (s.resetMover (e - 256)).afterMoves
    else if e < 292 then .next (if s.linkUp (e - 288) then s.linkLost (e - 288) else s)
    else
      let p := e - 292
      .next (if s.portState p = 0 ∨ s.portState p = 5 then s else ((s.leaveUp p 0).showPeer p).recallExpress p |>.forwardAll)

/-- ENGINE_BIST_DONE (14 R649 steps 6 and 7, R660): a reset engine whose operations have drained is unfenced, or waiting shards are
placed on its slots; or the site of a core that failed, or was reset three times within one hour, is marked for replacement. -/
def execEngineBistDone (engine : Fin 372) (passed : Bool) (s : State) : Out :=
  let e := engine.val
  if !s.fc.drained.contains e then .next s
  else
    let times := s.fc.resetTimes.filter (fun r => decide (s.time < r.2 + 3600000000))
    let s := { s with fc := { s.fc with drained := s.fc.drained.filter (· != e), resetTimes := times } }
    let s :=
      if passed then
        let s := { s with fc := { s.fc with fenced := s.fc.fenced.filter (· != e) } }
        let s := s.count Fld.FC_ENGINE_RESET_COUNT_count 0 Fld.FC_STATUS_wrap 0 1
        s.set Fld.FC_ENGINE_RESET_done 0 1
      else s
    let s := if s.fc.fenced.isEmpty then s.set Fld.FC_ENGINE_RESET_busy 0 0 else s
    if 256 ≤ e then .next s
    else
      let s := if passed then (((s.coreSlots e).map (fun x => x.2.ctx)).eraseDups.foldl State.placeShards s).reschedule e else s
      match s.siteOf e with
      | none => .next s
      | some site =>
        if !passed || decide (3 ≤ (times.filter (fun r => r.1 == e)).length) then .next (s.markSite site) else .next s

end Sys2Proof.Machine
end

