-- ==== Sys2Proof/Machine/Access.lean ====
section
/-! DEFINITION. A write of a word at a BAR0 offset, whatever lies there: the effect of a command register, the MSI-X table, or the
access codes alone (00 R2, R3; 11 R500, R503, R504). -/

namespace Sys2Proof.Machine

/-! ## The MSI-X table (11 R500, R503; PRESUMED its layout is that of PCI Express, log entry 13) -/

/-- The vector whose entry lies at an offset of BAR0, and the word of the entry. The one vector of a carrier lies at 0xC000 of its own
(DESIGN CHOICE, log entry 204). -/
def msixAt (a : Agent) (off : Nat) : Option (Nat × Nat) :=
  match a with
  | .carrier _ => if 0xC000 ≤ off ∧ off < 0xC010 ∧ off % 4 = 0 then some (0, off % 16 / 4) else none
  | _ => if 0xC0000 ≤ off ∧ off < 0xC8000 ∧ off % 4 = 0 then some ((off - 0xC0000) / 16, off % 16 / 4) else none

/-- The word of pending bits that lies at an offset. -/
def pbaAt (a : Agent) (off : Nat) : Option Nat :=
  match a with
  | .carrier _ => if off = 0xC800 then some 0 else none
  | _ => if 0xC8000 ≤ off ∧ off < 0xC8100 ∧ off % 4 = 0 then some ((off - 0xC8000) / 4) else none

/-- Sends the messages of a function's vectors that wait and are not masked. -/
def State.sendPending (s : State) (fn : Nat) : State :=
  (s.msix.filter (fun e => e.1 / 2048 == fn && e.2.pending && !e.2.masked)).foldl (fun s e =>
    ({ s with msix := Sparse.set MsixVector.reset s.msix e.1 { e.2 with pending := false } } : State).sendMsix fn (e.1 % 2048)) s

/-- A write of a word of a vector's entry. -/
def State.writeVector (s : State) (fn v word value : Nat) : State :=
  let m := s.vector fn v
  let m :=
    if word = 0 then { m with addr := putBits m.addr 0 32 value }
    else if word = 1 then { m with addr := putBits m.addr 32 32 value }
    else if word = 2 then { m with data := value }
    else { m with masked := bitOf value 0 }
  ({ s with msix := Sparse.set MsixVector.reset s.msix (fn * 2048 + v) m } : State).sendPending fn

/-- A word of the MSI-X table, or of its pending bits. -/
def State.readMsix (s : State) (a : Agent) (off : Nat) : Option Nat :=
  let fn := agentFn a
  match msixAt a off with
  | some (v, w) =>
    let m := s.vector fn v
    some (if w = 0 then bitsOf m.addr 0 32 else if w = 1 then bitsOf m.addr 32 32 else if w = 2 then m.data else bit m.masked)
  | none => (pbaAt a off).map (mapWord (fun v => (s.vector fn v).pending))

/-! ## The word read at an offset -/

/-- A read of BAR0. -/
def State.barRead (s : State) (a : Agent) (off : Nat) : Nat :=
  if s.agentAsleep a then 0 else (s.readMsix a off).getD (s.mmioRead a off)

/-! ## Command registers -/

/-- A write of XL_EDIT_CMD; a reserved op is refused (09 R438). -/
def State.writeEdit (s : State) (p : Fin 32) (v : Word32) : Out :=
  match v.toNat % 16 with
  | 0 => execEditInvalidate p v s
  | 1 => execEditUnmap p v s
  | 2 => execEditSetRights p v s
  | 3 => execEditObjCreate p v s
  | 4 => execEditObjFree p v s
  | 5 => execEditFrameReserve p v s
  | 6 => execEditFrameRelease p v s
  | op => .next (s.editCmd op p v.toNat (fun s => s.editError p 4))

/-- A write of LID_OWNER_CMD: challenge acts before op; a reserved op is refused (12 R546; log entry 137). -/
def State.writeOwner (s : State) (a : Agent) (v : Word32) : Out :=
  if bitOf v.toNat 8 then execOwnerChallenge a v s
  else match v.toNat % 16 with
  | 0 => execOwnerProgram a v s
  | 1 => execMonitorUnlock a v s
  | 2 => execSvnAdvance a v s
  | 3 => execOwnerRelease a v s
  | _ =>
    if !s.fromPf a then .next s
    else
      let s := s.writeReg Fld.LID_OWNER_CMD_op.reg 0 v.toNat
      .next (if bitOf v.toNat 9 then s.ownerError else s)

/-- A write of RIM_RESEAT_CMD; op 0 names no re-seat (16 R721). -/
def State.writeReseat (s : State) (a : Agent) (off : Nat) (v : Word32) : Out :=
  match v.toNat % 4 with
  | 1 => execReseatManifest a v s
  | 2 => execReseatFirmware a v s
  | 3 => execReseatBoth a v s
  | _ => .next (s.mmioWrite a off v.toNat)

/-- A write of PG_OBJ_TABLE or PG_OBJ_ENTRIES: ignored while an object is live or draining; a table written is not in effect (09 R439,
R738). -/
def State.writeObjects (s : State) (a : Agent) (off b v : Nat) : State :=
  if s.objectsLive b || !s.accepts a off then s
  else (s.mmioWrite a off v).setObjTable b { inEffect := false, entries := [] }

/-- A write of HI_ATTACH: the driver that attaches has enabled the function's bus mastering (11 R519; log entry 122), and what waited for it
goes on (11 R523). -/
def State.writeAttach (s : State) (a : Agent) (off fn v : Nat) : State :=
  let s := s.mmioWrite a off v
  if s.flag Fld.HI_ATTACH_attached fn then ((s.set Fld.HI_ATTACH_bus_master fn 1).sendPending fn).linkOpens else s

/-- Two commands of one word act one after the other (log entry 138). -/
def Out.andThen (o : Out) (f : State → Out) : Out :=
  match o with
  | .next s => f s
  | .fault x => .fault x
  | .refused r => .refused r

/-- A write of a word at an offset. -/
def State.barWrite (s : State) (a : Agent) (off : Nat) (v : Word32) : Out :=
  if s.agentAsleep a then .next s
  else match msixAt a off with
  | some (x, w) => .next (s.writeVector (agentFn a) x w v.toNat)
  | none =>
    match s.target a off with
    | none => .next s
    | some (r, i) =>
      let p : Fin 32 := Fin.ofNat 32 (agentFn a)
      let own := a != .rim
      if r = Fld.RIM_RESEAT_CMD_op.reg then s.writeReseat a off v
      else if r = Fld.RIM_PLAIT_CMD_op.reg then
        (match v.toNat % 4 with
          | 1 => execPlaitLoad a v s
          | 2 => execPlaitAbort a v s
          | _ => .next s)
      else if r = Fld.FC_RIM_RESTART_restart.reg then execRimRestart a v s
      else if r = Fld.FC_FORCE_family.reg then execFcForce a v s
      else if r = Fld.FC_INJECT_arm.reg then execFcInjectArm a v s
      else if r = Fld.FC_ENGINE_RESET_engine.reg then execEngineReset a v s
      else if r = Fld.RWS_SPARE_CMD_lane.reg then execRwsSpareCmd a (Fin.ofNat 32 i) v s
      else if r = Fld.LS_SCRUB_start.reg then execLsScrubStart a (Fin.ofNat 288 i) v s
      else if r = Fld.WVR_CTX_CTRL_stop.reg then
        (execContextStop a (Fin.ofNat 2048 i) v s).andThen (fun s =>
          if bitOf v.toNat 1 then execContextResume a (Fin.ofNat 2048 i) v s else .next s)
      else if r = Fld.WVR_FENCE_OP_CMD_code.reg ∧ own = true then execFenceOpGo p v s
      else if r = Fld.PW_TEMP_CLR_clear_peaks.reg then execTempClearPeaks a v s
      else if r = Fld.XL_EDIT_CMD_op.reg ∧ own = true then s.writeEdit p v
      else if r = Fld.WF_PORT_CTRL_retire.reg then execPortRetire a (Fin.ofNat 80 i) v s
      else if r = Fld.LID_OWNER_CMD_op.reg then s.writeOwner a v
      else if r = Fld.KS_LOAD_CMD_slot.reg then execKsLoad a v s
      else if r = Fld.KS_ZERO_slot.reg then execKsZero a v s
      else if r = Fld.LID_PART_remove.reg then execLidPartRemove a (Fin.ofNat 32 i) v s
      else if r = Fld.LID_IMPORT_CMD_go.reg ∧ own = true then
        (if i = p.val then execLidImport p v s else .next (s.mmioWrite a off v.toNat))
      else if r = Fld.PG_SEAL_CMD_seal.reg ∧ own = true then
        (execPgSeal p (Fin.ofNat 64 (i / 16)) (Fin.ofNat 16 i) v s).andThen (fun s =>
          if bitOf v.toNat 1 then execPgSealRelease p (Fin.ofNat 64 (i / 16)) (Fin.ofNat 16 i) v s else .next s)
      else if r = Fld.PG_OBJ_TABLE_LO_table_lo.reg ∨ r = Fld.PG_OBJ_TABLE_HI_table_hi.reg ∨ r = Fld.PG_OBJ_ENTRIES_entries.reg then
        .next (s.writeObjects a off i v.toNat)
      else if r = Fld.HI_ATTACH_attached.reg then .next (s.writeAttach a off i v.toNat)
      else .next (s.mmioWrite a off v.toNat)

/-- REGISTER_WRITE (00 R2, R3; 11 R504). -/
def execRegisterWrite (a : Agent) (off : BitVec 26) (v : Word32) (s : State) : Out := s.barWrite a off.toNat v

end Sys2Proof.Machine
end

