-- ==== Sys2Proof/Machine/Arbiter.lean ====
section
/-! DEFINITION. The common arbiter, the bandwidth windows, the merged reads of row stores and the die bridges (04 R147 to R156,
R174 to R178; 09 R431 to R437; 10 R478 to R484; 14 R668). -/

namespace Sys2Proof.Machine

/-! ## The common arbiter (10 R478 to R484) -/

/-- The place of an arbiter in the table. -/
def arbKey : ArbId → Nat
  | .port p => p.val
  | .channel c => 128 + c.val
  | .bank row b => 1024 + row.val * 16 + b.val

def State.arbAt (s : State) (k : Nat) : Arb := Sparse.get Arb.none s.arbs k

def State.setArb (s : State) (k : Nat) (a : Arb) : State := { s with arbs := Sparse.set Arb.none s.arbs k a }

/-- The class of a request at a channel: background work is of class 15 (09 R431, Table 8). -/
def reqClass (r : ArbReq) : Nat := if r.master = 296 then 15 else r.label.val

/-- A request at a channel carries the class label and the basket of a kernel whose shard the core that makes it holds (05 R192). -/
def State.labelled (s : State) (r : ArbReq) : Bool :=
  decide (256 ≤ r.master) || (List.range 8).any (fun k =>
    let c := (s.slotAt r.master k).ctx
    (s.slotAt r.master k).bound && s.ctxBasket c == r.basket.val &&
      match (s.ctxAt c).kernel with
      | some x => fieldAt x.desc 9 1 % 16 == r.label.val
      | none => false)

/-- A request at a channel has waited long enough to be raised (09 R433). -/
def agedAtChannel (r : ArbReq) : Bool := (r.master < 293 || 295 < r.master) && decide (4096 ≤ r.waited)

/-- A budgeted master has had more than its budget in this window (09 R431 to R433). -/
def State.overBudget (s : State) (m : Nat) : Bool :=
  let budget := if m < 293 then s.get Fld.HB_MASTER_BUDGET_budget m else 0
  budget != 0 && decide (64 * budget < Sparse.get 0 s.granted m)

/-- The priority of a request at an HBM channel (09 R433). -/
def State.channelPriority (s : State) (r : ArbReq) : Nat :=
  let l := reqClass r
  let target := 10 * s.get Fld.HB_CLASS_CFG_target l
  let lat := s.get Fld.HB_CLASS_LAT_ns l
  let p := min 5 (s.get Fld.HB_CLASS_CFG_base_prio l)
  if 293 ≤ r.master ∧ r.master ≤ 295 then 7
  else if agedAtChannel r then 6
  else if s.overBudget r.master then 0
  else if target = 0 then p
  else if target ≤ lat then min 5 (p + 2)
  else if 3 * target ≤ 4 * lat then min 5 (p + 1)
  else p

/-- The priority of a packet at a weave output port, by its class label (10 R484; 12 R541). -/
def State.portPriority (s : State) (p : Nat) (r : ArbReq) : Nat :=
  let pkt := s.outPacket p r
  if r.urgent || (pkt.map isRimPacket).getD false || decide (s.get Fld.WF_AGE_cycles 0 ≤ r.waited) then 7
  else min 6 (s.get Fld.WF_CLASS_CFG_prio ((pkt.map (fun k => k.label.toNat)).getD r.label.val))

/-- The priority of a request at an arbiter; at a bank all are equal (10 Table 10). -/
def State.priorityAt (s : State) (id : ArbId) (r : ArbReq) : Nat :=
  match id with
  | .port p => s.portPriority p r
  | .channel _ => s.channelPriority r
  | .bank _ _ => 0

/-- The bytes of a beat at a channel (10 Table 10). -/
def burst : Nat := 64

/-- A class-15 request at a channel has had its share of the window, while requests of other classes wait (09 R436). -/
def State.held15 (s : State) (c : Nat) (reqs : List ArbReq) (r : ArbReq) : Bool :=
  reqClass r == 15 && reqs.any (fun x => reqClass x != 15) &&
  decide (min 10 (s.get Fld.HB_REG_CTRL_bg_limit 0) * (Sparse.get 0 s.chanBytes c + burst) < 1024 * (Sparse.get 0 s.chanBack c + burst))

/-- The requests a decision considers. -/
def State.considered (s : State) (id : ArbId) (reqs : List ArbReq) : List ArbReq :=
  match id with
  | .channel c =>
    let reqs := reqs.filter s.labelled
    reqs.filter (fun r => !s.held15 c.val reqs r)
  | .port p => if s.sendsFlits p then reqs.filter (fun r => s.mayStart p r) else reqs
  | .bank _ _ => reqs

/-- A list of numbers in rising order, each once. -/
def insertNew (x : Nat) : List Nat → List Nat
  | [] => [x]
  | y :: ys => if x < y then x :: y :: ys else if x = y then y :: ys else y :: insertNew x ys

/-- The ranks with the requesters that have none yet at their end, in rising order (log entry 12). -/
def withRanks (ranks : List Nat) (reqs : List ArbReq) : List Nat :=
  ranks ++ (reqs.foldl (fun l r => if ranks.contains r.requester then l else insertNew r.requester l) [])

/-- The highest priority wins; among equals the highest rank (10 R480). -/
def winner (prio : ArbReq → Nat) (ranks : List Nat) (reqs : List ArbReq) : Option ArbReq :=
  reqs.foldl (fun (best : Option ArbReq) r =>
    match best with
    | none => some r
    | some b =>
      if prio b < prio r ∨ (prio b = prio r ∧ ranks.idxOf r.requester < ranks.idxOf b.requester) then some r else some b) none

/-- How a decision comes about. -/
inductive Verdict where
  /-- The owner goes on, or the grant stays parked on it. -/
  | keeps
  /-- A request of higher priority takes the grant from the owner. -/
  | revokes
  /-- The owner has held the grant for 256 beats. -/
  | cuts
  /-- The grant is free. -/
  | opens
  deriving DecidableEq, Repr

/-- What a decision does with the owner of the grant (10 R481 to R483). -/
def verdict (prio : ArbReq → Nat) (a : Arb) (reqs : List ArbReq) : Verdict :=
  match reqs.find? (fun r => a.owner == some r.requester) with
  | none => .opens
  | some o =>
    let others := reqs.filter (fun r => r.requester != o.requester)
    if others.isEmpty then .keeps
    else if 256 ≤ a.beats then .cuts
    else if !o.begun then .opens
    else if others.any (fun r => decide (prio o < prio r)) then .revokes
    else .keeps

/-- Counts a cut-off or a revocation at a weave port; a cut-off at another instance adds to the count of its own (`Arb.hogs`). -/
def State.countVerdict (s : State) (id : ArbId) (v : Verdict) : State :=
  match id, v with
  | .port p, .revokes => s.count Fld.WF_REVOKE_COUNT_count p Fld.WF_PORT_STATUS_wrap p 3
  | .port p, .cuts =>
    let first := !s.flag Fld.WF_PORT_STATUS_hog p
    let s := (s.count Fld.WF_HOG_COUNT_count p Fld.WF_PORT_STATUS_wrap p 4).set Fld.WF_PORT_STATUS_hog p 1
    if first && s.flag Fld.WF_PORT_CTRL_hog_event_en p then s.report 0x23 p 0 else s
  | _, _ => s

/-- A read of a class has returned its data: HB_CLASS_LAT is the mean of the last 256, or of those there have been, rounded down (09 R435;
log entry 180). -/
def State.noteRead (s : State) (l ns : Nat) : State :=
  let xs := (ns :: Sparse.get [] s.latencies l).take 256
  { s with latencies := Sparse.set [] s.latencies l xs }.set Fld.HB_CLASS_LAT_ns l (min 65535 (xs.sum / xs.length))

/-- The grant of a beat at a channel is charged to its master and class, and counted (09 R432, R436, R440; log entry 109). -/
def State.chargeGrant (s : State) (id : ArbId) (r : ArbReq) : State :=
  match id with
  | .channel c =>
    let s := if r.begun || (decide (293 ≤ r.master) && decide (r.master ≤ 295)) then s
      else if agedAtChannel r then s.count Fld.HB_AGED_COUNT_count 0 Fld.HB_REG_STATUS_aged_wrap 0 0
      else if s.overBudget r.master then s.count Fld.HB_OVER_COUNT_count 0 Fld.HB_REG_STATUS_over_wrap 0 0
      else s
    let add := fun (m : List (Nat × Nat)) (k : Nat) => Sparse.set 0 m k (Sparse.get 0 m k + burst)
    let s := match r.read with
      | some ns => s.noteRead (reqClass r) ns
      | none => s
    { s with
      granted := if r.master < 293 then add s.granted r.master else s.granted, chanBytes := add s.chanBytes c,
      chanBack := if reqClass r = 15 then add s.chanBack c else s.chanBack }
  | _ => s

/-- A row-store bank grants a core: of what waits there first on its line, the oldest with a read or the write of the core is served (04 R151,
R154). -/
def State.grantBank (s : State) (id : ArbId) (core : Nat) : State :=
  match id with
  | .bank row b =>
    let gs := s.groupsAt row b
    match gs.find? (fun g => g.cores.contains core && gs.find? (fun x => x.line == g.line) == some g) with
    | some g => (s.setGroups row b (gs.erase g)).serveGroup row g
    | none => s
  | _ => s

/-- What a grant moves: a flit of a packet on a port that sends, a group of reads of a bank; the data of a channel has its own rows. -/
def State.beat (s : State) (id : ArbId) (r : ArbReq) : State :=
  match id with
  | .port p => if s.sendsFlits p then s.packetBeat p r else s
  | .bank _ _ => s.grantBank id r.requester
  | .channel _ => s

/-- A beat that no request wins: a port that sends fills it with an EMPTY flit (10 R445). -/
def State.noBeat (s : State) (id : ArbId) : State :=
  match id with
  | .port p => if s.sendsFlits p then s.idleBeat p else s
  | _ => s

/-- The grant of the next beat, from the requests present (10 R480 to R483). -/
def State.decideBeat (s : State) (arb : ArbId) (reqs : List ArbReq) : State :=
  let a := s.arbAt (arbKey arb)
  let cands := s.considered arb reqs
  let prio := s.priorityAt arb
  let v := verdict prio a cands
  let ranks := withRanks a.ranks cands
  let pool := if v = .keeps ∨ v = .cuts then cands.filter (fun r => (a.owner == some r.requester) == (v == .keeps)) else cands
  match winner prio ranks pool with
  | none => s.noBeat arb
  | some w =>
    let held := a.owner == some w.requester
    let down := fun (l : List Nat) (x : Nat) => l.filter (· != x) ++ [x]
    let ranks := match v, a.owner with
      | .cuts, some o => down ranks o
      | _, _ => ranks
    let ranks := if held then ranks else down ranks w.requester
    let done := if w.begun then Sparse.get 0 a.progress w.requester else 0
    let kept := a.progress.filter (fun e => reqs.any (fun r => r.requester == e.1 && r.begun))
    let a : Arb := { ranks := ranks, owner := some w.requester, beats := if held then a.beats + 1 else 1,
                     progress := Sparse.set 0 kept w.requester (done + 1),
                     hogs := match arb, v with
                       | .port _, _ => a.hogs
                       | _, .cuts => a.hogs + 1
                       | _, _ => a.hogs }
    (((s.countVerdict arb v).setArb (arbKey arb) a).chargeGrant arb w).beat arb w

/-- ARBITER_DECISION (10 R445, R480 to R483): the owner of the next beat, from the requests present. At a weave port it is a flit time: the
ports have taken up what the module has said; a port whose store is full sends nothing (R451), and a beat its link needs is the
link's. -/
def execArbiterDecision (arb : ArbId) (reqs : List ArbReq) (s : State) : Out :=
  match arb with
  | .port p =>
    let s := s.intake
    if s.portState p = 1 ∨ s.sendsFlits p = true then
      if s.linkBlocked p then .next s
      else match s.linkBeat p with
        | some t => .next t
        | none => .next (s.decideBeat arb reqs)
    else .next (s.decideBeat arb reqs)
  | _ => .next (s.decideBeat arb reqs)

/-- BUDGET_WINDOW (09 R432, R436): where a window of 16,384 root edges has ended, its counts start from zero; the windows follow one
another from root edge 0. -/
def execBudgetWindow (s : State) : Out :=
  let edge := s.run.rootEdge / 16384 * 16384
  if edge ≤ s.windowEdge then .next s
  else .next { s with granted := [], chanBytes := [], chanBack := [], windowEdge := edge }

/-! ## Row-store banks (04 R147 to R156) -/

/-- How long a read may wait at a bank, in core cycles: 0 when merging is off (R151, R156). -/
def State.mergeWait (s : State) (row : Nat) : Nat :=
  if s.flag Fld.RWS_MERGE_CTRL_merge_en row then s.get Fld.RWS_MERGE_CTRL_merge_window row else 0

/-- The cycle to which something may wait at a bank: a read to the end of its window, a write only to be granted. -/
def State.waitsTo (s : State) (row : Nat) (g : MergeGroup) : Nat := if g.write.isSome then g.since else g.since + s.mergeWait row

/-- What waited at a bank to an earlier cycle is served. -/
def State.serveOverdue (s : State) (row bank cycle : Nat) : State := s.serveGroups row bank (fun g => decide (s.waitsTo row g < cycle))

/-- A read joins the group that waits last on its line, if it is one of reads (R152, R154); the list is newest first. -/
def joinGroup (line core : Nat) : List MergeGroup → Option (List MergeGroup)
  | [] => none
  | g :: gs =>
    if g.line ≠ line then (joinGroup line core gs).map (g :: ·)
    else if g.write.isNone then some ({ g with cores := g.cores ++ [core] } :: gs)
    else none

/-- ROW_STORE_READ (04 R148, R151, R152, R156): a read waits at its bank, with the others of its line. What has waited as long as it may
is served first. A segment its basket does not own is neither read nor joined (log entry 110). -/
def execRowStoreRead (row : Fin 32) (line : Fin 8192) (core : Fin 256) (b : Fin 64) (cycle : Nat) (s : State) : Out :=
  let bank := line.val % 16
  let s := s.serveOverdue row bank cycle
  if s.halted = true ∨ s.segOwner row (line.val / 128) ≠ some b.val then .next s
  else
    let gs := s.groupsAt row bank
    .next (s.setGroups row bank (((joinGroup line core gs.reverse).map List.reverse).getD (gs ++ [{ line := line, cores := [core.val], since := cycle, write := none }])))

/-- ROW_STORE_WRITE (04 R148, R154; 10 R478): a write waits at its bank to be granted, behind the reads of its line that arrived before it. -/
def execRowStoreWrite (row : Fin 32) (line : Fin 8192) (core : Fin 256) (b : Fin 64) (data : List Byte) (cycle : Nat) (s : State) : Out :=
  let bank := line.val % 16
  let s := s.serveOverdue row bank cycle
  if s.halted = true ∨ s.segOwner row (line.val / 128) ≠ some b.val then .next s
  else .next (s.setGroups row bank
    (s.groupsAt row bank ++ [{ line := line, cores := [core.val], since := cycle, write := some (data.take 512) }]))

/-- MERGE_WINDOW_EXPIRE (04 R151, R153): what has waited as long as it may is served. -/
def execMergeWindowExpire (row : Fin 32) (bank : Fin 16) (cycle : Nat) (s : State) : Out :=
  .next (s.serveGroups row bank (fun g => decide (s.waitsTo row g ≤ cycle)))

/-! ## Die bridges (04 R174 to R178; 14 R643, R668) -/

/-- A sub-link is retired: its bit stands in FC_BRIDGE_STATUS and in the service record. -/
def State.retireSubLink (s : State) (b sub : Nat) : State :=
  let v := s.get Fld.FC_BRIDGE_STATUS_retired b
  if bitOf v sub then s
  else
    let v := v ||| 2 ^ sub
    let s := { s with service := { s.service with subLinks := Sparse.set 0 s.service.subLinks b v } }
    (s.set Fld.FC_BRIDGE_STATUS_retired b v).report 0x10 b sub

/-- A flit of a sub-link is sent again: counted, and more than 64 times within 1 ms retires the sub-link. -/
def State.retransmit (s : State) (b sub : Nat) : State :=
  let recent := ((Sparse.get [] s.bridgeTimes (b * 16 + sub)).filter (fun t => decide (s.time < t + 1000))) ++ [s.time]
  let s := { s with bridgeTimes := Sparse.set [] s.bridgeTimes (b * 16 + sub) recent }
  let s := s.count Fld.FC_BRIDGE_REPLAY_count b Fld.FC_BRIDGE_STATUS_replay_wrap b 0
  if 64 < recent.length then s.retireSubLink b sub else s

/-- The poison of a flit's data goes on (04 R178): an operation in flight consumes the data and faults with data-poison, or the data is
written and its line carries the poison. A bridge's flit names neither the operation nor the address, nor which of the two happens, if
either: these are free values (log entry 174). -/
def State.poisonTaken (s : State) : State :=
  let ops := s.shards.flatMap (fun r => (r.2.ops.filter (fun o => o.fault.isNone)).map (fun o => (r.1 / 8, r.1 % 8, o)))
  let k := s.freeValue % (ops.length + 2)
  let s := s.drawn
  match ops[k]? with
  | none =>
    if k = ops.length then s
    else (s.markHbm (2 ^ 34 * (s.freeValue % 256) + s.freeValue / 256 % 25165824) 2).drawn
  | some (core, slot, o) => (s.failEntry core slot o 0x0A (s.freeValue % 2 ^ 50 * 64)).drawn

/-- BRIDGE_FLIT_RECEIVE (04 R176 to R178; 14 R643): a flit whose CRC fails is sent again; one that carries poison is told of.
An injection armed for the bridge gives the flit a wrong CRC. Nothing crosses a retired sub-link. -/
def execBridgeFlitReceive (b : Fin 13) (sub : Fin 16) (crcOk poison : Bool) (s : State) : Out :=
  if bitOf (s.get Fld.FC_BRIDGE_STATUS_retired b) sub then .next s
  else
    let (e, s) := s.takeInjection 3 b
    let s := if !crcOk || e != 0 then s.retransmit b sub else s
    if !poison then .next s else .next ((s.set Fld.FC_BRIDGE_STATUS_poison_seen b 1).report 0x11 b 0).poisonTaken

/-- SUB_LINK_LOSS_OF_LOCK (14 R668): a sub-link that does not retrain is retired. -/
def execSubLinkLossOfLock (b : Fin 13) (sub : Fin 16) (retrained : Bool) (s : State) : Out :=
  .next (if retrained then s else s.retireSubLink b sub)

end Sys2Proof.Machine
end

