-- ==== Sys2Proof/Machine/Monitor.lean ====
section
/-! DEFINITION. The rim monitor (16 R713, R719, R720; 12 R587, R588). -/

namespace Sys2Proof.Machine

/-! ## Answers (R719) -/

/-- The answer to a line: OK, or ERR and a code, then the prompt. -/
def State.answerLine (s : State) (t : String) : State := (s.emit (.monitor (ascii t))).emit (.monitor (ascii "qk> "))

/-- A command that has been performed, with the values it prints. -/
def State.monitorOk (s : State) (values : List Nat) : State :=
  (if values.isEmpty then s else s.emit (.monitorValues values)).answerLine "OK"

/-- A command is answered while rim firmware runs; one that is not permitted answers ERR 2. -/
def State.monitorCmd (s : State) (permitted : Bool) (f : State → Out) : Out :=
  if !s.rimServes then .next s else if permitted then f s else .next (s.answerLine "ERR 2")

/-- The commands that write are permitted: unlocked, and not in confidential mode (R720; 12 R587). -/
def State.monitorWrites (s : State) : Bool := s.run.monitorUnlocked && !s.confMode

/-! ## What the commands print -/

/-- The offsets of a register's copies. -/
def RegInfo.offsets (r : RegInfo) : List Nat :=
  (List.range r.count1).flatMap (fun i => (List.range r.count2).map (fun j => r.base + i * r.stride1 + j * r.stride2))

/-- The words of the registers in a range of offsets, as partition 0 reads them. -/
def State.readRange (s : State) (lo hi : Nat) : List Nat :=
  (allRegs.flatMap RegInfo.offsets).filterMap (fun o =>
    if decide (lo ≤ o) && decide (o < hi) then some (s.barRead .monitor o) else none)

/-- The words of some registers, as partition 0 reads them. -/
def State.readRegs (s : State) (rs : List Nat) : List Nat :=
  ((allRegs.filter (fun r => rs.contains r.reg)).flatMap RegInfo.offsets).map (s.barRead .monitor)

/-- MONITOR_STATUS: mode, boot stage, manifest_gen, fw_svn, coolant and serving state. It is answered after a coolant stop too (13 R622). -/
def execMonitorStatus (s : State) : Out :=
  if !(s.rimServes || s.run.phase == .stopped) then .next s
  else .next (s.monitorOk [s.get Fld.RIM_STATUS_mode 0, s.get Fld.RIM_STATUS_stage 0,
    s.get64 Fld.RIM_MANIFEST_GEN_LO_gen_lo Fld.RIM_MANIFEST_GEN_HI_gen_hi 0, s.get Fld.LID_SVN_fw_svn 0,
    bit s.pins.coolantOk + 2 * s.get Fld.PW_COOLANT_stopped 0, s.get Fld.WF_CTRL_serving 0])

/-- MONITOR_CAP: the capability table. -/
def execMonitorCap (s : State) : Out := s.monitorCmd true (fun s => .next (s.monitorOk (s.readRange 0x10000 0x20000)))

/-- The log slots of the last `n` entries, oldest first. -/
def State.lastLogs (s : State) (n : Nat) : List Nat :=
  let count := s.get Fld.FC_LOG_HEAD_count 0
  let m := min n (min 256 count)
  (List.range m).map (fun i => (count - m + i) % 256)

/-- MONITOR_LOG: the last fault log entries, under 14 R631. -/
def execMonitorLog (n : Nat) (s : State) : Out :=
  s.monitorCmd true (fun s =>
    .next (s.monitorOk ((s.lastLogs n).flatMap (fun k => (List.range 4).map (fun w => s.barRead .monitor (0x94000 + 16 * k + 4 * w))))))

/-- MONITOR_POWER: PW_INPUT, PW_HALF and PW_TEMP. -/
def execMonitorPower (s : State) : Out :=
  s.monitorCmd true (fun s => .next (s.monitorOk (s.readRegs [Fld.PW_INPUT_now_w.reg, Fld.PW_INPUT_VI_mv.reg, Fld.PW_HALF_grant.reg,
    Fld.PW_HALF_RAIL_mv.reg, Fld.PW_TEMP_now_c.reg])))

/-- MONITOR_RD: one word of BAR0 as partition 0 sees it; a low word latches its high word. -/
def execMonitorRd (addr : BitVec 26) (s : State) : Out :=
  s.monitorCmd true (fun s =>
    let v := s.barRead .monitor addr.toNat
    (execReadLoLatchesHi .monitor addr s).andThen (fun s => .next (s.monitorOk [v])))

/-- MONITOR_BAUD: the rate changes after the OK; a rate out of range is answered as an unknown command (log entry 139). -/
def execMonitorBaud (n : Nat) (s : State) : Out :=
  s.monitorCmd true (fun s =>
    if n < 9600 ∨ 3000000 < n then .next (s.answerLine "ERR 1")
    else
      let s := s.monitorOk []
      .next { s with pins := { s.pins with uartBaud := n } })

/-- MONITOR_WR: one write as partition 0. -/
def execMonitorWr (addr : BitVec 26) (v : Word32) (s : State) : Out :=
  s.monitorCmd s.monitorWrites (fun s => (s.barWrite .monitor addr.toNat v).andThen (fun s => .next (s.monitorOk [])))

/-- MONITOR_FORCE: as FC_FORCE. -/
def execMonitorForce (f : BitVec 8) (i : BitVec 9) (s : State) : Out :=
  s.monitorCmd s.monitorWrites (fun s =>
    (execFcForce .monitor (BitVec.ofNat 32 (f.toNat + i.toNat * 2 ^ 8 + 2 ^ 17)) s).andThen (fun s => .next (s.monitorOk [])))

/-- MONITOR_HOLD (R713): the request is kept in the service record; nothing else changes. -/
def execMonitorHold (withdraw : Bool) (s : State) : Out :=
  s.monitorCmd s.monitorWrites (fun s =>
    .next ({ s with service := { s.service with hold := !withdraw, seq := s.service.seq + 1 } }.monitorOk []))

/-- The names of the monitor's commands. -/
def monitorNames : List (List Byte) := ["status", "cap", "log", "power", "rd", "baud", "wr", "force", "hold"].map ascii

/-- MONITOR_UNKNOWN_COMMAND: a line whose first word names no command answers ERR 1. -/
def execMonitorUnknownCommand (line : List Byte) (s : State) : Out :=
  if monitorNames.contains (line.takeWhile (· != 0x20)) then .next s
  else s.monitorCmd true (fun s => .next (s.answerLine "ERR 1"))

end Sys2Proof.Machine
end

