-- ==== Sys2Proof/Machine/Dispatch.lean ====
section
/-! DEFINITION. Which meaning each command has. -/

namespace Sys2Proof.Machine

def exec (i : Instr) (s : State) : Host.Outcome State Fault Refusal :=
  match i with
  | .powerInputApply mv heldUs => Sys2Proof.Machine.execPowerInputApply mv heldUs s
  | .powerInputLoss mv us => Sys2Proof.Machine.execPowerInputLoss mv us s
  | .perstAssert us => Sys2Proof.Machine.execPerstAssert us s
  | .perstRelease => Sys2Proof.Machine.execPerstRelease s
  | .pllLock => Sys2Proof.Machine.execPllLock s
  | .pllHoldover lost ppm => Sys2Proof.Machine.execPllHoldover lost ppm s
  | .pllRelock => Sys2Proof.Machine.execPllRelock s
  | .bootRomEntry => Sys2Proof.Machine.execBootRomEntry s
  | .coreRelease highSamples => Sys2Proof.Machine.execCoreRelease highSamples s
  | .coolantStop lowSamples => Sys2Proof.Machine.execCoolantStop lowSamples s
  | .i3cModuleWrite module => Sys2Proof.Machine.execI3cModuleWrite module s
  | .registerWrite a off v => Sys2Proof.Machine.execRegisterWrite a off v s
  | .monitorStatus => Sys2Proof.Machine.execMonitorStatus s
  | .monitorCap => Sys2Proof.Machine.execMonitorCap s
  | .monitorLog n => Sys2Proof.Machine.execMonitorLog n s
  | .monitorPower => Sys2Proof.Machine.execMonitorPower s
  | .monitorRd addr => Sys2Proof.Machine.execMonitorRd addr s
  | .monitorBaud n => Sys2Proof.Machine.execMonitorBaud n s
  | .monitorWr addr v => Sys2Proof.Machine.execMonitorWr addr v s
  | .monitorForce f k => Sys2Proof.Machine.execMonitorForce f k s
  | .monitorHold withdraw => Sys2Proof.Machine.execMonitorHold withdraw s
  | .reseatManifest a v => Sys2Proof.Machine.execReseatManifest a v s
  | .reseatFirmware a v => Sys2Proof.Machine.execReseatFirmware a v s
  | .reseatBoth a v => Sys2Proof.Machine.execReseatBoth a v s
  | .rimRestart a v => Sys2Proof.Machine.execRimRestart a v s
  | .rimHeartbeat => Sys2Proof.Machine.execRimHeartbeat s
  | .faultReport family inst info prev now => Sys2Proof.Machine.execFaultReport family inst info prev now s
  | .errPulseEnd => Sys2Proof.Machine.execErrPulseEnd s
  | .quietPeriod family => Sys2Proof.Machine.execQuietPeriod family s
  | .fcForce a v => Sys2Proof.Machine.execFcForce a v s
  | .fcInjectArm a v => Sys2Proof.Machine.execFcInjectArm a v s
  | .engineReset a v => Sys2Proof.Machine.execEngineReset a v s
  | .engineResetDrained engine => Sys2Proof.Machine.execEngineResetDrained engine s
  | .engineBistDone engine passed => Sys2Proof.Machine.execEngineBistDone engine passed s
  | .rwsSpareCmd a row v => Sys2Proof.Machine.execRwsSpareCmd a row v s
  | .lsScrubStart a site v => Sys2Proof.Machine.execLsScrubStart a site v s
  | .lsScrubDone site => Sys2Proof.Machine.execLsScrubDone site s
  | .handoverReadbackDone core => Sys2Proof.Machine.execHandoverReadbackDone core s
  | .channelRetire ch => Sys2Proof.Machine.execChannelRetire ch s
  | .patrolScrub ch off ecc => Sys2Proof.Machine.execPatrolScrub ch off ecc s
  | .hbmPhyRecal stack => Sys2Proof.Machine.execHbmPhyRecal stack s
  | .sramScrub unit line ecc => Sys2Proof.Machine.execSramScrub unit line ecc s
  | .agingCheck site fallPct => Sys2Proof.Machine.execAgingCheck site fallPct s
  | .coreRotation row slot => Sys2Proof.Machine.execCoreRotation row slot s
  | .telemetrySample => Sys2Proof.Machine.execTelemetrySample s
  | .submissionWrite p q off bytes ide => Sys2Proof.Machine.execSubmissionWrite p q off bytes ide s
  | .queueFill q => Sys2Proof.Machine.execQueueFill q s
  | .completionPop p q off len => Sys2Proof.Machine.execCompletionPop p q off len s
  | .completionPost ctx => Sys2Proof.Machine.execCompletionPost ctx s
  | .cmdIdle ctx => Sys2Proof.Machine.execCmdIdle ctx s
  | .cmdKernel ctx => Sys2Proof.Machine.execCmdKernel ctx s
  | .kernelStartResume ctx => Sys2Proof.Machine.execKernelStartResume ctx s
  | .cmdBatchStep ctx => Sys2Proof.Machine.execCmdBatchStep ctx s
  | .batchStepApply ctx => Sys2Proof.Machine.execBatchStepApply ctx s
  | .joinOutcomes ctx src outcomes => Sys2Proof.Machine.execJoinOutcomes ctx src outcomes s
  | .stepVerdict ctx verdicts => Sys2Proof.Machine.execStepVerdict ctx verdicts s
  | .cmdFenceWait ctx => Sys2Proof.Machine.execCmdFenceWait ctx s
  | .cmdFenceSignal ctx => Sys2Proof.Machine.execCmdFenceSignal ctx s
  | .cmdFenceTimeout ctx => Sys2Proof.Machine.execCmdFenceTimeout ctx s
  | .contextStop a ctx v => Sys2Proof.Machine.execContextStop a ctx v s
  | .contextStopped ctx => Sys2Proof.Machine.execContextStopped ctx s
  | .contextResume a ctx v => Sys2Proof.Machine.execContextResume a ctx v s
  | .quantumExpire core => Sys2Proof.Machine.execQuantumExpire core s
  | .opIdle core slot => Sys2Proof.Machine.execOpIdle core slot s
  | .opMatmul core slot => Sys2Proof.Machine.execOpMatmul core slot s
  | .opVec core slot => Sys2Proof.Machine.execOpVec core slot s
  | .opVecReduce core slot => Sys2Proof.Machine.execOpVecReduce core slot s
  | .opConvert core slot => Sys2Proof.Machine.execOpConvert core slot s
  | .opLoad core slot => Sys2Proof.Machine.execOpLoad core slot s
  | .opStore core slot => Sys2Proof.Machine.execOpStore core slot s
  | .opGather core slot => Sys2Proof.Machine.execOpGather core slot s
  | .opExchangeSend core slot => Sys2Proof.Machine.execOpExchangeSend core slot s
  | .opExchangeReceive core slot => Sys2Proof.Machine.execOpExchangeReceive core slot s
  | .opReduceLong core slot => Sys2Proof.Machine.execOpReduceLong core slot s
  | .reduceTreeStart core slot e => Sys2Proof.Machine.execReduceTreeStart core slot e s
  | .opAttention core slot => Sys2Proof.Machine.execOpAttention core slot s
  | .opKvAppend core slot => Sys2Proof.Machine.execOpKvAppend core slot s
  | .opSample core slot => Sys2Proof.Machine.execOpSample core slot s
  | .opFenceWait core slot => Sys2Proof.Machine.execOpFenceWait core slot s
  | .opFenceSignal core slot => Sys2Proof.Machine.execOpFenceSignal core slot s
  | .fenceWaitTimeout core slot e => Sys2Proof.Machine.execFenceWaitTimeout core slot e s
  | .operationComplete core slot op cycles => Sys2Proof.Machine.execOperationComplete core slot op cycles s
  | .clipWindowClose core slot => Sys2Proof.Machine.execClipWindowClose core slot s
  | .countBlock ctx src block => Sys2Proof.Machine.execCountBlock ctx src block s
  | .weaverWaitTimeout ctx => Sys2Proof.Machine.execWeaverWaitTimeout ctx s
  | .ledgerDeadline core slot e => Sys2Proof.Machine.execLedgerDeadline core slot e s
  | .resp r => Sys2Proof.Machine.execResp r s
  | .respPull r => Sys2Proof.Machine.execRespPull r s
  | .respTake r => Sys2Proof.Machine.execRespTake r s
  | .fenceWake r => Sys2Proof.Machine.execFenceWake r s
  | .fencePoll w => Sys2Proof.Machine.execFencePoll w s
  | .fenceUpdate b va value status => Sys2Proof.Machine.execFenceUpdate b va value status s
  | .fenceOpGo p v => Sys2Proof.Machine.execFenceOpGo p v s
  | .rowStoreRead row line core b cycle => Sys2Proof.Machine.execRowStoreRead row line core b cycle s
  | .rowStoreWrite row line core b data cycle => Sys2Proof.Machine.execRowStoreWrite row line core b data cycle s
  | .mergeWindowExpire row bank cycle => Sys2Proof.Machine.execMergeWindowExpire row bank cycle s
  | .arbiterDecision arb reqs => Sys2Proof.Machine.execArbiterDecision arb reqs s
  | .budgetWindow => Sys2Proof.Machine.execBudgetWindow s
  | .seamEntryArrive die toEast lane entry => Sys2Proof.Machine.execSeamEntryArrive die toEast lane entry s
  | .seamCreditReturn die toEast lane edge => Sys2Proof.Machine.execSeamCreditReturn die toEast lane edge s
  | .wakeTokenIssue => Sys2Proof.Machine.execWakeTokenIssue s
  | .gateIdle h idleUs => Sys2Proof.Machine.execGateIdle h idleUs s
  | .bridgeFlitReceive b sub crcOk poison => Sys2Proof.Machine.execBridgeFlitReceive b sub crcOk poison s
  | .dvfsGrant => Sys2Proof.Machine.execDvfsGrant s
  | .railSettled h => Sys2Proof.Machine.execRailSettled h s
  | .droopDetect row dropMv => Sys2Proof.Machine.execDroopDetect row dropMv s
  | .stretchRunEnd h stillLow => Sys2Proof.Machine.execStretchRunEnd h stillLow s
  | .ceilingExpire h => Sys2Proof.Machine.execCeilingExpire h s
  | .droopCalibrate row => Sys2Proof.Machine.execDroopCalibrate row s
  | .powerMeasure watts mv current => Sys2Proof.Machine.execPowerMeasure watts mv current s
  | .powerAdjust => Sys2Proof.Machine.execPowerAdjust s
  | .tempSample sensor c => Sys2Proof.Machine.execTempSample sensor c s
  | .thermalCapStep h => Sys2Proof.Machine.execThermalCapStep h s
  | .tempClearPeaks a v => Sys2Proof.Machine.execTempClearPeaks a v s
  | .paceRepeat h => Sys2Proof.Machine.execPaceRepeat h s
  | .pace uid point => Sys2Proof.Machine.execPace uid point s
  | .paceCapExpire b => Sys2Proof.Machine.execPaceCapExpire b s
  | .heatEpoch => Sys2Proof.Machine.execHeatEpoch s
  | .pageMoveDone move => Sys2Proof.Machine.execPageMoveDone move s
  | .editInvalidate p v => Sys2Proof.Machine.execEditInvalidate p v s
  | .editUnmap p v => Sys2Proof.Machine.execEditUnmap p v s
  | .editSetRights p v => Sys2Proof.Machine.execEditSetRights p v s
  | .editObjCreate p v => Sys2Proof.Machine.execEditObjCreate p v s
  | .editObjFree p v => Sys2Proof.Machine.execEditObjFree p v s
  | .editFrameReserve p v => Sys2Proof.Machine.execEditFrameReserve p v s
  | .editFrameRelease p v => Sys2Proof.Machine.execEditFrameRelease p v s
  | .editDrainDone p => Sys2Proof.Machine.execEditDrainDone p s
  | .flitReceive port fecOk flit => Sys2Proof.Machine.execFlitReceive port fecOk flit s
  | .replayTimeout port => Sys2Proof.Machine.execReplayTimeout port s
  | .packetForward port pkt => Sys2Proof.Machine.execPacketForward port pkt s
  | .readReq pkt => Sys2Proof.Machine.execReadReq pkt s
  | .readData pkt => Sys2Proof.Machine.execReadData pkt s
  | .writePkt pkt => Sys2Proof.Machine.execWritePkt pkt s
  | .atomicPkt pkt => Sys2Proof.Machine.execAtomicPkt pkt s
  | .offerPkt pkt => Sys2Proof.Machine.execOfferPkt pkt s
  | .dataPkt pkt => Sys2Proof.Machine.execDataPkt pkt s
  | .partialPkt pkt => Sys2Proof.Machine.execPartialPkt pkt s
  | .pagePkt pkt => Sys2Proof.Machine.execPagePkt pkt s
  | .ident port module known serving peerPort racks => Sys2Proof.Machine.execIdent port module known serving peerPort racks s
  | .notReady port module => Sys2Proof.Machine.execNotReady port module s
  | .notReadyRepeat => Sys2Proof.Machine.execNotReadyRepeat s
  | .sealFlit port tag => Sys2Proof.Machine.execSealFlit port tag s
  | .laneFlit port leaving entering swap => Sys2Proof.Machine.execLaneFlit port leaving entering swap s
  | .linkTrained port => Sys2Proof.Machine.execLinkTrained port s
  | .portLost port cause => Sys2Proof.Machine.execPortLost port cause s
  | .lostPortRetrain port => Sys2Proof.Machine.execLostPortRetrain port s
  | .lossMsg lost hop => Sys2Proof.Machine.execLossMsg lost hop s
  | .laneFail port lane why => Sys2Proof.Machine.execLaneFail port lane why s
  | .laneRetrainDone port retrained spareTrained => Sys2Proof.Machine.execLaneRetrainDone port retrained spareTrained s
  | .portRetire a port v => Sys2Proof.Machine.execPortRetire a port v s
  | .globalPortKeyExchange g ok tx rx => Sys2Proof.Machine.execGlobalPortKeyExchange g ok tx rx s
  | .keyUpdate g tx rx => Sys2Proof.Machine.execKeyUpdate g tx rx s
  | .linkDown n => Sys2Proof.Machine.execLinkDown n s
  | .linkReturn n => Sys2Proof.Machine.execLinkReturn n s
  | .dmaCompletion n req ok => Sys2Proof.Machine.execDmaCompletion n req ok s
  | .flrVf p => Sys2Proof.Machine.execFlrVf p s
  | .flrPf => Sys2Proof.Machine.execFlrPf s
  | .flrCarrier n => Sys2Proof.Machine.execFlrCarrier n s
  | .tdispNonIdeTlp p => Sys2Proof.Machine.execTdispNonIdeTlp p s
  | .lockInterfaceRequest p => Sys2Proof.Machine.execLockInterfaceRequest p s
  | .ideKmKeyProg n stream key => Sys2Proof.Machine.execIdeKmKeyProg n stream key s
  | .spdmRequest code => Sys2Proof.Machine.execSpdmRequest code s
  | .negotiateAlgorithms p521 sha512 secp521r1 aes256gcm => Sys2Proof.Machine.execNegotiateAlgorithms p521 sha512 secp521r1 aes256gcm s
  | .getMeasurements index => Sys2Proof.Machine.execGetMeasurements index s
  | .getBinding => Sys2Proof.Machine.execGetBinding s
  | .ownerChallenge a v => Sys2Proof.Machine.execOwnerChallenge a v s
  | .nonceExpire => Sys2Proof.Machine.execNonceExpire s
  | .ownerProgram a v => Sys2Proof.Machine.execOwnerProgram a v s
  | .monitorUnlock a v => Sys2Proof.Machine.execMonitorUnlock a v s
  | .svnAdvance a v => Sys2Proof.Machine.execSvnAdvance a v s
  | .ownerRelease a v => Sys2Proof.Machine.execOwnerRelease a v s
  | .ksLoad a v => Sys2Proof.Machine.execKsLoad a v s
  | .ksZero a v => Sys2Proof.Machine.execKsZero a v s
  | .lidCharter p charter charterKey => Sys2Proof.Machine.execLidCharter p charter charterKey s
  | .lidAmend p charter charterKey => Sys2Proof.Machine.execLidAmend p charter charterKey s
  | .keyDist p lidId charterDigest epoch memKey macKey => Sys2Proof.Machine.execKeyDist p lidId charterDigest epoch memKey macKey s
  | .keyAck p src => Sys2Proof.Machine.execKeyAck p src s
  | .lidReady p lidId => Sys2Proof.Machine.execLidReady p lidId s
  | .keyDistTimeout p => Sys2Proof.Machine.execKeyDistTimeout p s
  | .lidDissolve p lidId sig => Sys2Proof.Machine.execLidDissolve p lidId sig s
  | .revoke lidId src slot epoch mac => Sys2Proof.Machine.execRevoke lidId src slot epoch mac s
  | .depart lidId src mac => Sys2Proof.Machine.execDepart lidId src mac s
  | .lidPartRemove a p v => Sys2Proof.Machine.execLidPartRemove a p v s
  | .revokeAck p src => Sys2Proof.Machine.execRevokeAck p src s
  | .revokeTimeout p => Sys2Proof.Machine.execRevokeTimeout p s
  | .lidScrubDone p => Sys2Proof.Machine.execLidScrubDone p s
  | .lidImport p v => Sys2Proof.Machine.execLidImport p v s
  | .keyRelease lidId bundleId kw uses => Sys2Proof.Machine.execKeyRelease lidId bundleId kw uses s
  | .plaitLoad a v => Sys2Proof.Machine.execPlaitLoad a v s
  | .plaitAbort a v => Sys2Proof.Machine.execPlaitAbort a v s
  | .plaitFetchDone => Sys2Proof.Machine.execPlaitFetchDone s
  | .plaitChangeEffect k => Sys2Proof.Machine.execPlaitChangeEffect k s
  | .plaitCommit => Sys2Proof.Machine.execPlaitCommit s
  | .shapeReport src uid shapeGen digest => Sys2Proof.Machine.execShapeReport src uid shapeGen digest s
  | .shapeState src uid state => Sys2Proof.Machine.execShapeState src uid state s
  | .spanOpen src uid kernelId => Sys2Proof.Machine.execSpanOpen src uid kernelId s
  | .pgSeal p b k v => Sys2Proof.Machine.execPgSeal p b k v s
  | .sealHashDone accepted => Sys2Proof.Machine.execSealHashDone accepted s
  | .sealInstall src uid k base pages digest => Sys2Proof.Machine.execSealInstall src uid k base pages digest s
  | .pgSealRelease p b k v => Sys2Proof.Machine.execPgSealRelease p b k v s
  | .sealBreak src uid k => Sys2Proof.Machine.execSealBreak src uid k s
  | .readLoLatchesHi a off => Sys2Proof.Machine.execReadLoLatchesHi a off s
  | .tdispRun p => Sys2Proof.Machine.execTdispRun p s
  | .i3cDynamicAddress addr => Sys2Proof.Machine.execI3cDynamicAddress addr s
  | .monitorUnknownCommand line => Sys2Proof.Machine.execMonitorUnknownCommand line s
  | .spareBuiltInTestDone row slot passed => Sys2Proof.Machine.execSpareBuiltInTestDone row slot passed s
  | .subLinkLossOfLock b sub retrained => Sys2Proof.Machine.execSubLinkLossOfLock b sub retrained s
  | .portSignalDetect port => Sys2Proof.Machine.execPortSignalDetect port s

end Sys2Proof.Machine
end

