-- ==== Sys2Proof/Machine/Tick.lean ====
section
/-! DEFINITION. One µs of time (08 R372; 13 R592; log entry 3). -/

namespace Sys2Proof.Machine

/-- The root PLL runs, and WVR_TIME counts. -/
def State.counting (s : State) : Bool := s.run.phase == .locked || s.run.phase == .running || s.run.phase == .stopped

/-- One µs passes: WVR_TIME counts it, 12,000 root edges go by, pages go on leaving channels that retire (14 R665), and the removals
of lids go on (12 R584, R586). -/
def State.tick (s : State) : State :=
  if !s.counting then s
  else
    let s := s.bump64 Fld.WVR_TIME_LO_time_lo Fld.WVR_TIME_HI_time_hi 0
    let s := ({ s with run := { s.run with rootEdge := s.run.rootEdge + 12000 } }).seamTo (s.run.rootEdge + 12000)
    let s := (if s.halted then [] else s.fc.retiring).foldl (fun s e =>
      match s.chanPiece e.1 with
      | some b => s.evacuateChan b e.1
      | none => s) s
    (s.lids.map Prod.fst).foldl State.removalStep s

end Sys2Proof.Machine
end

