-- ==== Sys2Proof/Safety.lean ====
section
/-! DEFINITION. What counts as a sound state, and what no command may do to it, in the terms the statements use. -/

namespace Sys2Proof.Machine

/-- Every memory is in its canonical form: addresses strictly rising, and no byte listed that an unlisted address reads as. -/
def State.memWf (s : State) : Prop :=
  s.hbm.wf = true ∧ s.sidecar.wf = true ∧ s.localStore.wf = true ∧ s.rowStore.wf = true ∧ s.tier4.wf = true

/-- The register table lists each field of each copy once, in rising order of its key. -/
def State.regsRising (s : State) : Prop := (s.regs.map Prod.fst).Pairwise (· < ·)

/-- An owner entry of the fuses after some time: a programmed entry keeps its cells, and a retired one stays retired
(12 R531, R546). -/
def OwnerEntry.le (a b : OwnerEntry) : Prop :=
  (a.programmed = true → b.programmed = true ∧ b.cells = a.cells) ∧ (a.retired = true → b.retired = true)

/-- The fuses after some time: no entry is unburnt, and the fused security version does not fall (12 R531, R546). -/
def Fuses.le (a b : Fuses) : Prop :=
  a.svn ≤ b.svn ∧ b.owner.length = a.owner.length ∧ ∀ (i : Nat) (x : OwnerEntry), a.owner[i]? = some x → ∃ y, b.owner[i]? = some y ∧ x.le y

/-- Registers a write of which does more than its access codes say: the command registers, each a row of its own or an operation on
one, and those whose write moves ERR_N, the guest frames or the object table. -/
def effectRegs : List Nat :=
  [Fld.RIM_RESEAT_CMD_op.reg, Fld.RIM_PLAIT_CMD_op.reg, Fld.FC_RIM_RESTART_restart.reg, Fld.FC_FORCE_family.reg,
   Fld.FC_INJECT_arm.reg, Fld.FC_ENGINE_RESET_engine.reg, Fld.RWS_SPARE_CMD_lane.reg, Fld.LS_SCRUB_start.reg,
   Fld.WVR_CTX_CTRL_stop.reg, Fld.WVR_FENCE_OP_CMD_code.reg, Fld.PW_TEMP_CLR_clear_peaks.reg, Fld.XL_EDIT_CMD_op.reg,
   Fld.WF_PORT_CTRL_retire.reg, Fld.LID_OWNER_CMD_op.reg, Fld.KS_LOAD_CMD_slot.reg, Fld.KS_ZERO_slot.reg, Fld.LID_PART_remove.reg,
   Fld.LID_IMPORT_CMD_go.reg, Fld.PG_SEAL_CMD_seal.reg, Fld.PG_OBJ_TABLE_LO_table_lo.reg, Fld.PG_OBJ_TABLE_HI_table_hi.reg,
   Fld.PG_OBJ_ENTRIES_entries.reg, Fld.HI_ATTACH_attached.reg, Fld.FC_SRC_STATUS_pending.reg, Fld.FC_CTRL_err_mode.reg,
   Fld.FC_ERR_PIN_sw_assert.reg, Fld.FC_SRC_CFG_severity.reg, Fld.PG_GUEST_FRAMES_frames.reg]

/-! ## What a fault report writes (14 R629 to R633, R645) -/

/-- The fields of a log entry and of the head of the log. -/
def logFields : List Field :=
  [Fld.FC_LOG_family, Fld.FC_LOG_instance, Fld.FC_LOG_severity, Fld.FC_LOG_partition, Fld.FC_LOG_part_valid, Fld.FC_LOG_rail,
   Fld.FC_LOG_forced, Fld.FC_LOG_TIME_time, Fld.FC_LOG_INFO_LO_info_lo, Fld.FC_LOG_INFO_HI_info_hi, Fld.FC_LOG_HEAD_count,
   Fld.FC_STATUS_wrap]

/-- The fields of a family's status. -/
def statusFields : List Field :=
  [Fld.FC_SRC_COUNT_count, Fld.FC_SRC_STATUS_pending, Fld.FC_SRC_STATUS_last_instance, Fld.FC_SRC_INFO_info,
   Fld.FC_SRC_STATUS_rail, Fld.FC_SRC_STATUS_forced, Fld.FC_SRC_STATUS_demoted]

/-- The fields of a partition's notice, and the event that tells of it. -/
def noticeFields : List Field :=
  [Fld.FC_PART_sev, Fld.FC_PART_family, Fld.FC_PART_INST_instance, Fld.FC_PART_INFO_LO_info_lo, Fld.FC_PART_INFO_HI_info_hi,
   Fld.HI_EVENT_STATUS_fault_notice]

/-- The fields through which the action of a severity shows. -/
def actionFields : List Field :=
  [Fld.FC_ENGINE_RESET_busy, Fld.WVR_CTX_CTRL_stop, Fld.WVR_CTX_STATE_state, Fld.FC_RIM_RESTART_busy]

/-- The fields that show ERR_N. -/
def errFields : List Field := [Fld.FC_ERR_PIN_low, Fld.FC_ERR_PIN_pulsing]

/-- The fields a new grant may write (04 R168; 13 R595, R596, R615). -/
def grantFields : List Field :=
  [Fld.PW_HALF_want, Fld.PW_HALF_pace_cap, Fld.PW_HALF_grant, Fld.PW_HALF_reason, Fld.PW_HALF_ruling_phase, Fld.SEAM_DIV_west_div,
   Fld.SEAM_DIV_east_div, Fld.SEAM_HOLD_held_w, Fld.SEAM_HOLD_held_e, Fld.PW_PACE_TX_COUNT_count, Fld.PW_STATUS_wrap]

/-- Every field a fault report may write. -/
def reportFields : List Field := logFields ++ (statusFields ++ (noticeFields ++ (actionFields ++ errFields)))

/-- The lines that end a monitor answer: OK or ERR and a code, then the prompt (16 R719). -/
def monitorEnd (line : String) : List Sent := [.monitor (ascii line), .monitor (ascii "qk> ")]

/-- An answer with values, and the lines that end it. -/
def monitorAnswer (values : List Nat) : List Sent := .monitorValues values :: monitorEnd "OK"

/-! ## What a command leaves unchanged -/

/-- Every field of every copy of every register reads in `t` as in `s`, but for the listed fields of the listed copies. -/
def State.fieldsBut (s t : State) (ws : List (Field × Nat)) : Prop :=
  ∀ (f : Field) (i : Nat), (∀ w ∈ ws, f.key i ≠ w.1.key w.2) → t.get f i = s.get f i

/-- Every field of every copy of every register reads in `t` as in `s`, but for copies of the listed fields. -/
def State.copiesBut (s t : State) (fs : List Field) : Prop :=
  ∀ (f : Field) (i : Nat), (∀ w ∈ fs, ∀ j, f.key i ≠ w.key j) → t.get f i = s.get f i

/-- Every byte of every memory reads in `t` as in `s`. -/
def State.bytesSame (s t : State) : Prop :=
  ∀ a, t.hbm.byte a = s.hbm.byte a ∧ t.sidecar.byte a = s.sidecar.byte a ∧ t.localStore.byte a = s.localStore.byte a ∧
    t.rowStore.byte a = s.rowStore.byte a ∧ t.tier4.byte a = s.tier4.byte a

/-- A module as it takes a packet that is delivered to it: links above the packet's hops counted, its source not lost, its input buffer
free (10 R453, R464, R473). -/
def State.packetTaken (s : State) (pkt : Packet) : State :=
  ((if pkt.hops.toNat < pkt.links then s.count Fld.WF_HOP_EXCESS_COUNT_count 0 Fld.WF_STATUS_wrap 0 3 else s).unmarkLost pkt.src.toNat).freePlace pkt.place

/-- A packet of a type is delivered to this module, and a bound basket takes it under an epoch that is not stale (10 R459, R463). -/
def State.admits (s : State) (pkt : Packet) (t b : Nat) : Prop :=
  s.halted = false ∧ pkt.ptype.toNat = t ∧ pkt.dest.toNat = s.me ∧ s.delivered pkt = true ∧ (s.packetTaken pkt).staleEpoch pkt = false ∧
    (s.packetTaken pkt).flag Fld.WF_CTRL_serving = true ∧ (s.packetTaken pkt).boundUid pkt.uid.toNat = some b

/-- A crossing into a half changes the channels, the requests that are out, the root edge that has come and what is sent, and nothing
else but registers. -/
def State.seamRest (s t : State) : Prop :=
  { t with regs := s.regs, seam := s.seam, seamOut := s.seamOut, outbox := s.outbox, run := { t.run with edge := s.run.edge } } = s

/-- Beside its registers a new grant changes the power arbiter, what is sent, and what the halves capture up to the root edge the next
divider starts from. -/
def State.grantRest (s t : State) : Prop := s.seamRest { t with power := s.power }

/-- `t` differs from `s` in the listed fields of the listed copies of registers, and in nothing else. -/
def State.onlyFields (s t : State) (ws : List (Field × Nat)) : Prop :=
  s.fieldsBut t ws ∧ { t with regs := s.regs } = s

end Sys2Proof.Machine
end

