-- ==== Sys2Proof/Certificates/Slice0/Obligations.lean ====
section
/-! DEFINITION. What is claimed of the model: one statement for each obligation of OBLIGATIONS.json. -/

open Sys2Proof Sys2Proof.Machine

/-- A step runs the command at the front of the queue on the state with the rest of the queue (95_what_each_step_holds.md,
log entry 15). -/
def Obligations.StepRunsTheFrontCommand : Prop :=
  ∀ (c : Instr) (rest : List Instr) (s : State), s.pending = c :: rest → step s = exec c { s with pending := rest }

/-- With no command waiting a step is one µs of time, once the root PLL has been released (the model's choice, log entry
3) (R372, log entry 3). -/
def Obligations.EmptyQueueLetsTimePass : Prop :=
  ∀ (s : State), s.pending = [] →
    (∃ t, step s = .next t ∧ t.pending = []) ∧
    (s.run.phase = .unpowered ∨ s.run.phase = .held ∨ s.run.phase = .waitLock → step s = .next s)

/-- Before power every table is in its canonical form, every register holds its reset value and nothing waits
(00_scope.md, log entry 4). -/
def Obligations.ResetIsSound : Prop :=
  State.reset.memWf ∧ State.reset.regsRising ∧ State.reset.pending = [] ∧ State.reset.outbox = [] ∧
  State.reset.run.phase = .unpowered ∧
  (∀ (f : Field) (i : Nat), State.reset.get f i = f.resetAt i) ∧
  (∀ a, State.reset.hbm.byte a = 0 ∧ State.reset.sidecar.byte a = 0 ∧ State.reset.localStore.byte a = 0 ∧
    State.reset.rowStore.byte a = 0 ∧ State.reset.tier4.byte a = 0)

/-- Every step from any state keeps the canonical form of HBM, sidecar, local stores, row stores and host memory
(09_memory_translation_and_tiers.md, log entry 10). -/
def Obligations.StepKeepsMemoryForm : Prop :=
  ∀ (s t : State), s.memWf → s.regsRising → step s = .next t → t.memWf ∧ t.regsRising

/-- No step from any state unburns a fuse: a programmed owner entry keeps its secret, a retired one stays retired, the
version never falls (R531, R546). -/
def Obligations.StepNeverUnburnsAFuse : Prop :=
  ∀ (s t : State), step s = .next t → s.fuses.le t.fuses

/-- Only the loss of the 54 V input, the assertion of PERST_N and the loss of coolant take a running module out of service
(R16, R622, R698, R705). -/
def Obligations.OnlyThreeEventsEndRunning : Prop :=
  ∀ (s t : State), s.run.phase = .running → step s = .next t → t.run.phase ≠ .running →
    ∃ (c : Instr) (rest : List Instr), s.pending = c :: rest ∧
      ((∃ mv us, c = .powerInputLoss mv us ∧ mv < 44000 ∧ 100 ≤ us) ∨
       (∃ us, c = .perstAssert us ∧ 100 ≤ us) ∨
       (∃ n, c = .coolantStop n ∧ s.run.coolantArmed = true ∧ 10 ≤ n))

/-- Every command answers a next state and keeps the queue, what was sent, the draws of free values and the retired
channels (R16, R665, log entry 2, log entry 15). -/
def Obligations.EveryCommandAnswersAndKeepsQueueAndSent : Prop :=
  ∀ (c : Instr) (s : State), ∃ t, exec c s = .next t ∧ t.pending = s.pending ∧ s.outbox <+: t.outbox ∧
    s.freeCounter ≤ t.freeCounter ∧ s.service.retiredChannels ⊆ t.service.retiredChannels

/-- POWER_INPUT_APPLY brings an unpowered module to its held state; POWER_INPUT_LOSS below 44.0 V for 100 µs takes
everything volatile away (R698); that memory then reads as zero, and what a module that has seen no loss needs, are the model's
choices (log entry 10, log entry 183). -/
def Obligations.PowerInputApplyAndLoss : Prop :=
  ∀ (s : State) (mv us : Nat),
    (s.run.phase = .unpowered → 50000 ≤ mv → mv ≤ 57600 → (s.pins.lossSeen = true → 50000 < mv ∧ 10000 ≤ us) →
      ∃ t, exec (.powerInputApply mv us) s = .next t ∧ t.run.phase = .held ∧ t.pins.inputOk = true ∧ t.pins.lossSeen = false ∧
        t.pins.perstN = s.pins.perstN ∧ { t with pins := s.pins, run := s.run } = s) ∧
    (s.run.phase ≠ .unpowered ∨ mv < 50000 ∨ 57600 < mv ∨ (s.pins.lossSeen = true ∧ (mv = 50000 ∨ us < 10000)) →
      exec (.powerInputApply mv us) s = .next s) ∧
    (s.run.phase ≠ .unpowered → mv < 44000 → 100 ≤ us →
      ∃ t, exec (.powerInputLoss mv us) s = .next t ∧ t.run.phase = .unpowered ∧ t.pins.lossSeen = true ∧ t.pins.perstN = false ∧
        (∀ f i, t.get f i = f.resetAt i) ∧
        (∀ a, t.hbm.byte a = 0 ∧ t.sidecar.byte a = 0 ∧ t.localStore.byte a = 0 ∧ t.rowStore.byte a = 0 ∧
          t.tier4.byte a = s.tier4.byte a) ∧
        t.keys = [] ∧ t.service = s.service ∧ t.fuses = s.fuses ∧ t.flash = s.flash ∧ t.outbox = s.outbox ∧ t.pending = s.pending) ∧
    (s.run.phase = .unpowered ∨ 44000 ≤ mv ∨ us < 100 → exec (.powerInputLoss mv us) s = .next s)

/-- PERST_N low for 100 µs loses every volatile state and keeps the service record and the fuses; a shorter pulse does
nothing (R705); that memory then reads as zero, and that the coolant bits stay, are the model's (log entry 10, log entry 183). -/
def Obligations.PerstResetsTheModule : Prop :=
  ∀ (s : State) (us : Nat),
    (s.run.phase ≠ .unpowered → 100 ≤ us →
      ∃ t, exec (.perstAssert us) s = .next t ∧ t.run.phase = .held ∧ t.pins.perstN = false ∧
        (∀ f i, (∀ w ∈ [Fld.FC_ERR_PIN_coolant_hold, Fld.PW_COOLANT_stopped, Fld.FC_ERR_PIN_low, Fld.FC_ERR_PIN_pulsing,
            Fld.PW_COOLANT_therm_alert], f.key i ≠ w.key 0) → t.get f i = f.resetAt i) ∧
        t.flag Fld.PW_COOLANT_stopped = decide (s.get Fld.PW_COOLANT_stopped % 2 ≠ 0) ∧
        (∀ a, t.hbm.byte a = 0 ∧ t.sidecar.byte a = 0 ∧ t.localStore.byte a = 0 ∧ t.rowStore.byte a = 0 ∧
          t.tier4.byte a = s.tier4.byte a) ∧
        t.slots = [] ∧ t.contexts = [] ∧ t.keys = [] ∧ t.ledger = [] ∧ t.queues = [] ∧ t.watches = [] ∧ t.moves = [] ∧
        t.service = s.service ∧ t.fuses = s.fuses ∧ t.flash = s.flash ∧ t.outbox = s.outbox ∧ t.pending = s.pending) ∧
    (us < 100 ∨ s.run.phase = .unpowered → exec (.perstAssert us) s = .next s)

/-- A module comes from no power to a locked PLL by an input in range, PERST_RELEASE, which lets a held module wait for the PLL, and
PLL_LOCK, which sets locked and starts the root edges at 0; a loss of input or PERST_N takes it back, with its service record, fuses
and flash (R592, R698, R704, R705, log entry 183). -/
def Obligations.PerstReleaseAndPllLock : Prop :=
  ∀ (s : State),
    (∀ mv us, s.run.phase = .unpowered → 50000 < mv → mv ≤ 57600 → 10000 ≤ us → exec (.powerInputApply mv us) s =
      .next { s with pins := { s.pins with inputOk := true, lossSeen := false }, run := { s.run with phase := .held } }) ∧
    (∀ mv us, s.run.phase ≠ .unpowered → mv < 44000 → 100 ≤ us → exec (.powerInputLoss mv us) s =
      .next { s.lostAll with pins := { s.lostAll.pins with inputOk := false, lossSeen := true, perstN := false } }) ∧
    (∀ us, s.run.phase ≠ .unpowered → 100 ≤ us → ∃ t, exec (.perstAssert us) s = .next t ∧ t.run.phase = .held ∧
      { t with regs := [], pins := s.lostAll.pins, run := s.lostAll.run } = { s.lostAll with regs := [] }) ∧
    (s.lostAll.service = s.service ∧ s.lostAll.fuses = s.fuses ∧ s.lostAll.flash = s.flash ∧ s.lostAll.regs = [] ∧ s.lostAll.keys = [] ∧
      s.lostAll.slots = [] ∧ s.lostAll.contexts = [] ∧ s.lostAll.hbm = [] ∧ s.lostAll.localStore = [] ∧ s.lostAll.rowStore = []) ∧
    (s.run.phase = .held →
      ∃ t, exec .perstRelease s = .next t ∧ t.run.phase = .waitLock ∧ t.pins.perstN = true ∧ t.pins.uartBaud = 115200 ∧
        t.get Fld.FC_ERR_PIN_coolant_hold = 0 ∧ t.get Fld.PW_COOLANT_stopped = 0 ∧
        s.fieldsBut t [(Fld.FC_ERR_PIN_coolant_hold, 0), (Fld.PW_COOLANT_stopped, 0), (Fld.FC_ERR_PIN_low, 0),
          (Fld.FC_ERR_PIN_pulsing, 0), (Fld.PW_COOLANT_therm_alert, 0)] ∧
        { t with regs := s.regs, pins := s.pins, run := s.run } = s) ∧
    (s.run.phase ≠ .held → exec .perstRelease s = .next s) ∧
    (s.run.phase = .waitLock →
      ∃ t, exec .pllLock s = .next t ∧ t.run.phase = .locked ∧ t.run.rootEdge = 0 ∧ t.get Fld.CK_PLL_STATUS_locked = 1 ∧
        s.fieldsBut t [(Fld.CK_PLL_STATUS_locked, 0)] ∧ { t with regs := s.regs, run := s.run } = s) ∧
    (s.run.phase ≠ .waitLock → exec .pllLock s = .next s)

/-- A lost REFCLK, or one outside 300 ppm, puts a locked PLL in holdover; its return relocks it (R593). -/
def Obligations.PllHoldoverAndRelock : Prop :=
  ∀ (s : State) (lost : Bool) (ppm : Nat),
    (s.flag Fld.CK_PLL_STATUS_locked = true → (lost = true ∨ 300 < ppm) →
      ∃ u, u.get Fld.CK_PLL_STATUS_locked = 0 ∧ u.get Fld.CK_PLL_STATUS_holdover = 1 ∧ u.get Fld.CK_PLL_STATUS_lock_lost = 1 ∧
        u.pins.refclkOk = false ∧
        s.fieldsBut u [(Fld.CK_PLL_STATUS_locked, 0), (Fld.CK_PLL_STATUS_holdover, 0), (Fld.CK_PLL_STATUS_lock_lost, 0)] ∧
        { u with regs := s.regs, pins := s.pins } = s ∧
        exec (.pllHoldover lost ppm) s = .next (if s.flag Fld.CK_PLL_STATUS_lock_event_en then u.report 0x48 0 0 else u)) ∧
    (s.flag Fld.CK_PLL_STATUS_locked = false ∨ (lost = false ∧ ppm ≤ 300) → exec (.pllHoldover lost ppm) s = .next s) ∧
    (s.flag Fld.CK_PLL_STATUS_holdover = true →
      ∃ t, exec .pllRelock s = .next t ∧ t.get Fld.CK_PLL_STATUS_locked = 1 ∧ t.get Fld.CK_PLL_STATUS_holdover = 0 ∧
        t.pins.refclkOk = true ∧
        s.fieldsBut t [(Fld.CK_PLL_STATUS_locked, 0), (Fld.CK_PLL_STATUS_holdover, 0)] ∧
        { t with regs := s.regs, pins := s.pins } = s) ∧
    (s.flag Fld.CK_PLL_STATUS_holdover = false → exec .pllRelock s = .next s)

/-- Ten consecutive low samples of COOLANT_OK with the stop armed stop every core clock, idle every port and link and
abandon all work (R622). -/
def Obligations.CoolantStop : Prop :=
  ∀ (s : State) (n : Nat),
    (s.run.phase = .running → s.run.coolantArmed = true → 10 ≤ n →
      ∃ t, exec (.coolantStop n) s = .next t ∧ t.run.phase = .stopped ∧ t.run.coresReleased = false ∧ t.run.coolantArmed = false ∧
        t.pins.coolantOk = false ∧ t.pins.errN = false ∧ t.pins.thermAlertN = false ∧ t.get Fld.PW_COOLANT_stopped = 1 ∧
        (∀ h : Fin 4, t.get Fld.PW_HALF_gated h = 1) ∧ (∀ p : Fin 80, t.get Fld.WF_PORT_STATE_state p = 0) ∧
        (∀ fn : Fin 36, t.get Fld.HI_LINK_STATE_up fn = 0) ∧
        t.slots = [] ∧ t.contexts = [] ∧ t.shards = [] ∧ t.ledger = [] ∧ t.dma = [] ∧ t.moves = [] ∧ t.edits = [] ∧ t.fenceOps = [] ∧
        t.imports = [] ∧ t.merge = [] ∧ t.seam = [] ∧ t.power.wakeQueue = [] ∧ t.power.tokensLeft = 0 ∧ t.halted = true ∧
        t.service.coolantStops = s.service.coolantStops + 1 ∧ s.bytesSame t) ∧
    (s.run.phase = .running → s.run.coolantArmed = false → 10 ≤ n →
      exec (.coolantStop n) s = .next { s with pins := { s.pins with coolantOk := false } }) ∧
    (s.run.phase ≠ .running ∨ n < 10 → exec (.coolantStop n) s = .next s)

/-- The boot ROM runs at power-up, at an accepted re-seat or at a rim restart, and cores are released at ten high samples
of COOLANT_OK (R623, R624, R706). -/
def Obligations.BootEntryAndCoreRelease : Prop :=
  ∀ (s : State) (n : Nat),
    (s.run.phase = .locked → exec .bootRomEntry s = .next s.powerUpBoot ∧ (s.bootBank = none → s.powerUpBoot = s)) ∧
    (∀ bank, s.run.phase = .locked → s.bootBank = some bank →
      ∃ t, exec .bootRomEntry s = .next t ∧ t.run.phase = .running ∧ t.get Fld.RIM_STATUS_stage = 5 ∧ t.get Fld.RIM_STATUS_bank = bank % 2 ^ Fld.RIM_STATUS_bank.width ∧
        t.get Fld.RIM_STATUS_mode = (if t.run.rimOnly then 2 else 1) ∧ (s.service.hold = true → t.run.rimOnly = true) ∧
        (s.service.hold = false → s.fuses.active = 4 → t.run.rimOnly = false ∧ t.manifest = none) ∧
        t.run.coresReleased = s.run.coresReleased ∧ t.service.hold = false ∧ t.ident.image = s.imageIn bank ∧
        t.get Fld.LID_OWNER_CMD_tries = 8 ∧ t.fuses = s.fuses ∧ t.flash = s.flash ∧ t.outbox = s.outbox ∧ s.bytesSame t) ∧
    (∀ (r : Reseat) (x u : State), s.run.phase = .running → s.run.reseat = some r → x = { s with run := { s.run with reseat := none } } →
      u = (if x.reseatWrong r = 0 then x.retrainLinks r else x).reseatBoot r →
      u.get Fld.RIM_STATUS_stage = 5 ∧ u.get Fld.RIM_STATUS_mode = (if u.run.rimOnly then 2 else 1) ∧
      (x.reseatWrong r = 0 → ∃ v : State, v.get Fld.RIM_RESEAT_CMD_busy = 0 ∧ v.get Fld.RIM_RESEAT_CMD_done = 1 ∧
        v.get Fld.RIM_RESEAT_COUNT_count = (u.get Fld.RIM_RESEAT_COUNT_count + 1) % 2 ^ Fld.RIM_RESEAT_COUNT_count.width ∧
        u.onlyFields v [(Fld.RIM_RESEAT_CMD_busy, 0), (Fld.RIM_RESEAT_CMD_done, 0), (Fld.RIM_RESEAT_COUNT_count, 0), (Fld.RIM_STATUS2_reseat_wrap, 0)] ∧
        exec .bootRomEntry s = .next v.refreshServing) ∧
      (x.reseatWrong r ≠ 0 → ∃ v : State, v.get Fld.RIM_RESEAT_CMD_busy = 0 ∧ v.get Fld.RIM_RESEAT_CMD_error = 1 ∧
        v.get Fld.RIM_RESEAT_CMD_err_code = x.reseatWrong r % 2 ^ Fld.RIM_RESEAT_CMD_err_code.width ∧
        u.onlyFields v [(Fld.RIM_RESEAT_CMD_busy, 0), (Fld.RIM_RESEAT_CMD_error, 0), (Fld.RIM_RESEAT_CMD_err_code, 0)] ∧
        exec .bootRomEntry s = .next v.refreshServing)) ∧
    (s.run.phase = .running → s.run.reseat = none → s.run.restartDue = true → ∀ u, u = s.reseatBoot { manifest := none, image := none } →
      exec .bootRomEntry s = .next u.restartDone ∧
      ∃ t, exec .bootRomEntry s = .next t ∧ t.run.restartDue = false ∧ t.get Fld.FC_RIM_RESTART_busy = 0 ∧ t.get Fld.FC_RIM_RESTART_done = 1 ∧
        t.get Fld.FC_RESTART_COUNT_count = (u.get Fld.FC_RESTART_COUNT_count + 1) % 2 ^ Fld.FC_RESTART_COUNT_count.width ∧
        t.get Fld.FC_SRC_COUNT_count 0x47 = (u.get Fld.FC_SRC_COUNT_count 0x47 + 1) % 2 ^ Fld.FC_SRC_COUNT_count.width ∧ u.bytesSame t) ∧
    (s.run.phase = .running → s.run.reseat = none → s.run.restartDue = false → exec .bootRomEntry s = .next s) ∧
    (s.run.phase ≠ .locked → s.run.phase ≠ .running → exec .bootRomEntry s = .next s) ∧
    (s.run.phase = .running → s.run.coresReleased = false → s.run.rimOnly = false → 10 ≤ n →
      ∃ t, exec (.coreRelease n) s = .next t ∧ t.run = { s.run with coresReleased := true, coolantArmed := true } ∧
        t.pins = { s.pins with coolantOk := true } ∧ t.flag Fld.WF_CTRL_serving = s.flag Fld.CAP_MODULE_module_valid ∧
        t.service = s.service ∧ t.fuses = s.fuses ∧ t.keys = s.keys ∧ t.slots = s.slots ∧ s.bytesSame t) ∧
    (s.run.phase ≠ .running ∨ s.run.coresReleased = true ∨ s.run.rimOnly = true ∨ n < 10 → exec (.coreRelease n) s = .next s)

/-- The first I3C write of the module number after a release of PERST_N sets CAP_MODULE, later ones do nothing; a dynamic
address is kept (R701). -/
def Obligations.I3cWritesTakeEffectOnce : Prop :=
  ∀ (s : State) (m : ModuleId) (a : BitVec 7),
    (s.pins.perstN = true → s.pins.i3cModuleWritten = false →
      ∃ u, u.get Fld.CAP_MODULE_module = m.toNat ∧ u.get Fld.CAP_MODULE_module_valid = 1 ∧ u.pins.i3cModuleWritten = true ∧
        s.fieldsBut u [(Fld.CAP_MODULE_module, 0), (Fld.CAP_MODULE_module_valid, 0)] ∧
        { u with regs := s.regs, pins := s.pins } = s ∧ exec (.i3cModuleWrite m) s = .next u.refreshServing) ∧
    (s.pins.perstN = false ∨ s.pins.i3cModuleWritten = true → exec (.i3cModuleWrite m) s = .next s) ∧
    (s.pins.perstN = true → exec (.i3cDynamicAddress a) s = .next { s with pins := { s.pins with i3cDynamic := some a.toNat } }) ∧
    (s.pins.perstN = false → exec (.i3cDynamicAddress a) s = .next s)

/-- A write of a plain register replaces RW bits, clears W1C bits written 1, sets W1S bits written 1 and changes no other
register (R2, R503, R504). -/
def Obligations.RegisterWriteFollowsItsAccessCodes : Prop :=
  ∀ (s : State) (a : Agent) (off : BitVec 26) (v : Word32), msixAt a off.toNat = none →
    (s.target a off.toNat = none → exec (.registerWrite a off v) s = .next s) ∧
    ∀ (r i : Nat), s.target a off.toNat = some (r, i) → r ∉ effectRegs →
      (s.accepts a off.toNat = false → exec (.registerWrite a off v) s = .next s) ∧
      (s.accepts a off.toNat = true →
        ∃ t, exec (.registerWrite a off v) s = .next t ∧
          (∀ f ∈ fieldsOf r, ∀ b < f.width, bitOf (t.get f i) b =
            (match f.acc with
            | .ro => bitOf (s.get f i) b
            | .wo => if f = Fld.LID_OWNER_DATA_data ∨ f = Fld.KS_LOAD_DATA_data then bitOf v.toNat (f.lo + b) else bitOf (s.get f i) b
            | .rw => bitOf v.toNat (f.lo + b)
            | .rwl => bitOf v.toNat (f.lo + b)
            | .w1c => bitOf (s.get f i) b && !bitOf v.toNat (f.lo + b)
            | .w1s => bitOf (s.get f i) b || bitOf v.toNat (f.lo + b)
            | .bw => if s.run.bootWindow then bitOf v.toNat (f.lo + b) else bitOf (s.get f i) b)) ∧
          s.onlyFields t ((fieldsOf r).map (fun f => (f, i))))

/-- Reading the low word of a 64-bit counter latches its high word, which is what the next read of the high word returns (R180,
R363, R388, R721, log entry 157). -/
def Obligations.ReadOfLowWordLatchesHighWord : Prop :=
  ∀ (s : State) (a : Agent) (off : BitVec 26),
    (∀ (i : Nat), ∀ p ∈ latchPairs, s.target a off.toNat = some (p.1.reg, i) →
      ∃ t, exec (.readLoLatchesHi a off) s = .next t ∧ Sparse.get 0 t.latched (p.1.key i) = s.get p.2 i + 1 ∧
        (∀ k, k ≠ p.1.key i → Sparse.get 0 t.latched k = Sparse.get 0 s.latched k) ∧ { t with latched := s.latched } = s ∧
        (∀ hi, t.target a hi = some (p.2.reg, i) → (s.run.restartDue = true → hi < 0x80000 ∨ 0x90000 ≤ hi) →
          t.mmioRead a hi = s.get p.2 i)) ∧
    ((∀ r i, s.target a off.toNat = some (r, i) → ∀ p ∈ latchPairs, p.1.reg ≠ r) → exec (.readLoLatchesHi a off) s = .next s)

/-- status, cap, log, power and rd answer their values, OK and the prompt, and change nothing but a latched high word
(R719, R720). -/
def Obligations.MonitorReadsAnswerAndChangeNothing : Prop :=
  ∀ (s : State) (n : Nat) (addr : BitVec 26),
    (s.rimServes = true ∨ s.run.phase = .stopped → exec .monitorStatus s = .next { s with
      outbox := s.outbox ++ monitorAnswer [s.get Fld.RIM_STATUS_mode, s.get Fld.RIM_STATUS_stage, s.get64 Fld.RIM_MANIFEST_GEN_LO_gen_lo Fld.RIM_MANIFEST_GEN_HI_gen_hi 0,
        s.get Fld.LID_SVN_fw_svn, bit s.pins.coolantOk + 2 * s.get Fld.PW_COOLANT_stopped, s.get Fld.WF_CTRL_serving] }) ∧
    (s.rimServes = true →
      exec .monitorCap s = .next { s with outbox := s.outbox ++ monitorAnswer (s.readRange 0x10000 0x20000) }) ∧
    (s.rimServes = true → 0 < n → 0 < s.get Fld.FC_LOG_HEAD_count →
      ∃ vs, vs.length = 4 * min n (min 256 (s.get Fld.FC_LOG_HEAD_count)) ∧
        (∀ k < min n (min 256 (s.get Fld.FC_LOG_HEAD_count)), ∀ w < 4, vs[4 * k + w]? = some (s.barRead .monitor (0x94000 +
          16 * ((s.get Fld.FC_LOG_HEAD_count - min n (min 256 (s.get Fld.FC_LOG_HEAD_count)) + k) % 256) + 4 * w))) ∧
        exec (.monitorLog n) s = .next { s with outbox := s.outbox ++ monitorAnswer vs }) ∧
    (s.rimServes = true → exec .monitorPower s = .next { s with
      outbox := s.outbox ++ monitorAnswer (s.readRegs [Fld.PW_INPUT_now_w.reg, Fld.PW_INPUT_VI_mv.reg, Fld.PW_HALF_grant.reg, Fld.PW_HALF_RAIL_mv.reg,
        Fld.PW_TEMP_now_c.reg]) }) ∧
    (s.rimServes = true → ∃ u, exec (.readLoLatchesHi .monitor addr) s = .next u ∧
      exec (.monitorRd addr) s = .next { u with outbox := u.outbox ++ monitorAnswer [s.barRead .monitor addr.toNat] }) ∧
    (s.rimServes = false → exec .monitorCap s = .next s ∧ exec (.monitorLog n) s = .next s ∧ exec .monitorPower s = .next s ∧
      exec (.monitorRd addr) s = .next s ∧ (s.run.phase ≠ .stopped → exec .monitorStatus s = .next s))

/-- wr, force and hold act only after MONITOR_UNLOCK and never in confidential mode; else the monitor answers ERR 2 and
changes nothing (R720, R587, R719). -/
def Obligations.MonitorWritesNeedUnlock : Prop :=
  ∀ (s : State) (addr : BitVec 26) (v : Word32) (f : BitVec 8) (i : BitVec 9) (w : Bool), s.rimServes = true →
    (s.run.monitorUnlocked = true ∧ s.flag Fld.LID_STATUS_conf_mode = false →
      (∃ t, exec (.registerWrite .monitor addr v) s = .next t ∧
        exec (.monitorWr addr v) s = .next { t with outbox := t.outbox ++ monitorEnd "OK" }) ∧
      (∃ t, exec (.fcForce .monitor (BitVec.ofNat 32 (f.toNat + 256 * i.toNat + 2 ^ 17))) s = .next t ∧
        exec (.monitorForce f i) s = .next { t with outbox := t.outbox ++ monitorEnd "OK" }) ∧
      exec (.monitorHold w) s = .next { s with
        service := { s.service with hold := !w, seq := s.service.seq + 1 }, outbox := s.outbox ++ monitorEnd "OK" }) ∧
    (s.run.monitorUnlocked = false ∨ s.flag Fld.LID_STATUS_conf_mode = true →
      ∀ c ∈ [Instr.monitorWr addr v, Instr.monitorForce f i, Instr.monitorHold w],
        exec c s = .next { s with outbox := s.outbox ++ monitorEnd "ERR 2" })

/-- baud sets the rate after its OK, from 9,600 to 3,000,000; an unknown command answers ERR 1 and changes nothing (R720, R719,
log entry 139). -/
def Obligations.MonitorBaudAndUnknownCommand : Prop :=
  ∀ (s : State) (n : Nat) (line : List Byte),
    (s.rimServes = true → 9600 ≤ n → n ≤ 3000000 → exec (.monitorBaud n) s = .next { s with
      outbox := s.outbox ++ monitorEnd "OK", pins := { s.pins with uartBaud := n } }) ∧
    (s.rimServes = true → n < 9600 ∨ 3000000 < n → exec (.monitorBaud n) s = .next { s with outbox := s.outbox ++ monitorEnd "ERR 1" }) ∧
    (s.rimServes = true → (∀ w ∈ monitorNames, line.takeWhile (· != 0x20) ≠ w) →
      exec (.monitorUnknownCommand line) s = .next { s with outbox := s.outbox ++ monitorEnd "ERR 1" }) ∧
    (s.rimServes = false → exec (.monitorBaud n) s = .next s ∧ exec (.monitorUnknownCommand line) s = .next s)

/-- A re-seat by partition 0 is staged once its manifest and its image verify; a failure sets error and its code and
stages nothing (R715, R716, R721; the order of the checks and the image's place are the model's, log entry 43, log entry 182). -/
def Obligations.ReseatIsFetchedVerifiedAndStaged : Prop :=
  ∀ (s : State) (a : Agent) (v : Word32) (c : Instr) (op : Nat),
    (c, op) ∈ [(Instr.reseatManifest a v, 1), (Instr.reseatFirmware a v, 2), (Instr.reseatBoth a v, 3)] →
    (s.fromPf a = false ∨ s.run.phase ≠ .running ∨ s.run.restartDue = true ∨ bitsOf v.toNat 0 2 ≠ op → exec c s = .next s) ∧
    (s.fromPf a = true → s.run.phase = .running → s.run.restartDue = false → bitsOf v.toNat 0 2 = op →
      ∀ (u : State) (addr place : Nat) (m : List Byte), u = s.writeReg Fld.RIM_RESEAT_CMD_op.reg 0 v.toNat →
      addr = 64 * u.get Fld.RIM_RESEAT_ADDR_LO_addr_lo + 2 ^ 32 * u.get Fld.RIM_RESEAT_ADDR_HI_addr_hi → m = u.hostBytes 0 addr 4224 →
      place = (if op = 2 then addr else 65536 * (addr / 65536 + 1)) →
      (bitOf v.toNat 2 = false → exec c s = .next u) ∧
      (bitOf v.toNat 2 = true → u.reseatBusy = false → u.canMaster 0 = true → (op ≠ 2 → u.manifestError u.ownerKey m true = 0) →
        ∀ img : Option Image, ((op = 1 ∧ img = none) ∨ (op ≠ 1 ∧ ∃ i, img = some i ∧ u.fetchImage place = .inl i)) →
        ∃ t, exec c s = .next t ∧ t.run = { u.run with reseat := some { manifest := if op = 2 then none else some m, image := img } } ∧
          t.get Fld.RIM_RESEAT_CMD_busy = 1 ∧ t.get Fld.RIM_STATUS_mode = 3 ∧ (img = none → t.flash = u.flash) ∧
          (img ≠ none → t.flash = (if u.get Fld.RIM_STATUS_bank = 0 then { u.flash with bank1 := img, staged := 1 }
            else { u.flash with bank0 := img, staged := 0 })) ∧
          u.fieldsBut t [(Fld.RIM_RESEAT_CMD_busy, 0), (Fld.RIM_STATUS_mode, 0)] ∧ { t with regs := u.regs, run := u.run, flash := u.flash } = u) ∧
      (∀ code : Nat, bitOf v.toNat 2 = true →
        (u.reseatBusy = true ∧ code = 9) ∨ (u.reseatBusy = false ∧ u.canMaster 0 = false ∧ code = 1) ∨
        (u.reseatBusy = false ∧ u.canMaster 0 = true ∧ op ≠ 2 ∧ code ≠ 0 ∧ u.manifestError u.ownerKey m true = code) ∨
        (u.reseatBusy = false ∧ u.canMaster 0 = true ∧ op ≠ 1 ∧ (op = 3 → u.manifestError u.ownerKey m true = 0) ∧ u.fetchImage place = .inr code) →
        ∃ t, exec c s = .next t ∧ t.get Fld.RIM_RESEAT_CMD_error = 1 ∧ t.get Fld.RIM_RESEAT_CMD_err_code = code ∧
          u.onlyFields t [(Fld.RIM_RESEAT_CMD_error, 0), (Fld.RIM_RESEAT_CMD_err_code, 0)]))

/-- A restart written by partition 0 on a running module is due at once; a re-seat that verifies is due too; rim firmware's heartbeat
rises by one (R656, R657, R658, R715, log entry 182). -/
def Obligations.RimRestartAndHeartbeat : Prop :=
  ∀ (s : State) (a : Agent) (v : Word32),
    (s.fromPf a = true → s.run.phase = .running → s.run.restartDue = false → bitOf v.toNat 0 = true →
      ∃ t, exec (.rimRestart a v) s = .next t ∧ t.run.restartDue = true ∧ t.get Fld.FC_RIM_RESTART_busy = 1 ∧
        s.fieldsBut t ((fieldsOf Fld.FC_RIM_RESTART_restart.reg).map (fun f => (f, 0))) ∧ { t with regs := s.regs, run := s.run } = s) ∧
    (s.fromPf a = false → exec (.rimRestart a v) s = .next s) ∧
    (∀ (u : State) (addr : Nat) (go : Reseat → State), u = s.writeReg Fld.RIM_RESEAT_CMD_op.reg 0 v.toNat →
      addr = u.get Fld.RIM_RESEAT_ADDR_LO_addr_lo 0 * 64 + 2 ^ 32 * u.get Fld.RIM_RESEAT_ADDR_HI_addr_hi 0 →
      go = (fun r => ({ u.stageImage r.image with run := { u.run with reseat := some r } } : State).setAll 0
        [(Fld.RIM_RESEAT_CMD_busy, 1), (Fld.RIM_STATUS_mode, 3)]) →
      s.fromPf a = true → s.run.phase = .running → s.run.restartDue = false → bitOf v.toNat 2 = true → u.reseatBusy = false → u.canMaster 0 = true →
      (bitsOf v.toNat 0 2 = 1 → u.manifestError u.ownerKey (u.hostBytes 0 addr 4224) true = 0 →
        exec (.reseatManifest a v) s = .next (go { manifest := some (u.hostBytes 0 addr 4224), image := none })) ∧
      (∀ i, bitsOf v.toNat 0 2 = 2 → u.fetchImage addr = .inl i → exec (.reseatFirmware a v) s = .next (go { manifest := none, image := some i })) ∧
      (∀ i, bitsOf v.toNat 0 2 = 3 → u.manifestError u.ownerKey (u.hostBytes 0 addr 4224) true = 0 → u.fetchImage ((addr / 65536 + 1) * 65536) = .inl i →
        exec (.reseatBoth a v) s = .next (go { manifest := some (u.hostBytes 0 addr 4224), image := some i }))) ∧
    (s.run.phase = .running → s.run.restartDue = false →
      ∃ t, exec .rimHeartbeat s = .next t ∧ t.get Fld.FC_RIM_HEARTBEAT_count = (s.get Fld.FC_RIM_HEARTBEAT_count + 1) % 2 ^ 32 ∧
        s.onlyFields t [(Fld.FC_RIM_HEARTBEAT_count, 0)]) ∧
    (s.run.phase ≠ .running ∨ s.run.restartDue = true → exec .rimHeartbeat s = .next s)

/-- A fault report writes one log entry, adds one to its family's count, sets pending, fences its engine and drives ERR_N (R628,
R629, R633, R645, R646, R664, log entry 26, log entry 151). -/
def Obligations.FaultReportIsLoggedAndPending : Prop :=
  ∀ (s : State) (f : BitVec 8) (i : BitVec 9) (info : BitVec 64) (prev now : BitVec 2),
    (families.contains f.toNat = true → f ≠ 0x1C → railFault prev now = true ∨ (now = 2 ∧ f ≠ 0x1A) →
      ∃ t, exec (.faultReport f i info prev now) s = .next t ∧
        t.get Fld.FC_LOG_family (s.get Fld.FC_LOG_HEAD_count % 256) = f.toNat ∧
        t.get Fld.FC_LOG_instance (s.get Fld.FC_LOG_HEAD_count % 256) = i.toNat ∧
        t.get Fld.FC_LOG_severity (s.get Fld.FC_LOG_HEAD_count % 256) = s.severity f.toNat ∧
        t.get Fld.FC_LOG_forced (s.get Fld.FC_LOG_HEAD_count % 256) = 0 ∧
        t.get Fld.FC_LOG_TIME_time (s.get Fld.FC_LOG_HEAD_count % 256) = s.time % 2 ^ Fld.FC_LOG_TIME_time.width ∧
        t.get Fld.FC_LOG_part_valid (s.get Fld.FC_LOG_HEAD_count % 256) = bit ((s.instanceOwners f.toNat i.toNat).length == 1) ∧
        (∀ p, s.instanceOwners f.toNat i.toNat = [p] →
          t.get Fld.FC_LOG_partition (s.get Fld.FC_LOG_HEAD_count % 256) = p % 2 ^ Fld.FC_LOG_partition.width) ∧
        t.get Fld.FC_LOG_rail (s.get Fld.FC_LOG_HEAD_count % 256) = bit (railFault prev now) ∧
        t.get64 Fld.FC_LOG_INFO_LO_info_lo Fld.FC_LOG_INFO_HI_info_hi (s.get Fld.FC_LOG_HEAD_count % 256) = info.toNat ∧
        t.get Fld.FC_LOG_HEAD_count = (s.get Fld.FC_LOG_HEAD_count + 1) % 2 ^ Fld.FC_LOG_HEAD_count.width ∧
        t.get Fld.FC_SRC_COUNT_count f.toNat = (s.get Fld.FC_SRC_COUNT_count f.toNat + 1) % 2 ^ Fld.FC_SRC_COUNT_count.width ∧
        t.get Fld.FC_SRC_STATUS_pending f.toNat = 1 ∧ t.get Fld.FC_SRC_STATUS_last_instance f.toNat = i.toNat ∧
        t.get Fld.FC_SRC_INFO_info f.toNat = info.toNat % 2 ^ 32 ∧
        (∀ e, engineOf f.toNat i.toNat = some e → 2 ≤ s.severity f.toNat → e ∈ t.fc.fenced) ∧
        (∀ p ∈ (if s.instanceOwners f.toNat i.toNat = [] then s.partitions else s.instanceOwners f.toNat i.toNat),
          t.get Fld.FC_PART_family p = f.toNat ∧ t.get Fld.FC_PART_INST_instance p = i.toNat ∧ t.flag Fld.HI_EVENT_STATUS_fault_notice p = true ∧
          (s.severity f.toNat < 5 → bitOf (t.get Fld.FC_PART_sev p) (s.severity f.toNat) = true)) ∧
        t.pins.errN = !t.errLow ∧ s.copiesBut t reportFields ∧
        { t with regs := s.regs, msix := s.msix, fc := s.fc, outbox := s.outbox, run := s.run, pins := s.pins } = s) ∧
    (families.contains f.toNat = false ∨ (railFault prev now = false ∧ now ≠ 2) → exec (.faultReport f i info prev now) s = .next s) ∧
    (f = 0x1A → railFault prev now = false → now = 2 → exec (.faultReport f i info prev now) s =
      .next ((s.report 0x1A i.toNat info.toNat).hbmRowSpare i.toNat (info.toNat % 2 ^ 31)) ∧
      ∃ t, exec (.faultReport f i info prev now) s = .next t ∧ t.get Fld.FC_SRC_STATUS_pending 0x1A = 1 ∧
        t.get Fld.FC_SRC_COUNT_count 0x1A = (s.get Fld.FC_SRC_COUNT_count 0x1A + 1) % 2 ^ Fld.FC_SRC_COUNT_count.width ∧ s.bytesSame t) ∧
    (f = 0x1C → railFault prev now = true ∨ now = 2 →
      exec (.faultReport f i info prev now) s = .next (if Sparse.get 0 s.fc.spareLanes i.toNat < Config.spareLanes then
        State.report { s with fc := { s.fc with spareLanes := Sparse.set 0 s.fc.spareLanes i.toNat (Sparse.get 0 s.fc.spareLanes i.toNat + 1) } }
          0x1C i.toNat info.toNat (railFault prev now) else s.retireChannel i.toNat info.toNat) ∧
      (Sparse.get 0 s.fc.spareLanes i.toNat < Config.spareLanes → ∃ t, exec (.faultReport f i info prev now) s = .next t ∧
        Sparse.get 0 t.fc.spareLanes i.toNat = Sparse.get 0 s.fc.spareLanes i.toNat + 1 ∧ t.get Fld.FC_SRC_STATUS_pending 0x1C = 1 ∧
        t.get Fld.FC_SRC_COUNT_count 0x1C = (s.get Fld.FC_SRC_COUNT_count 0x1C + 1) % 2 ^ Fld.FC_SRC_COUNT_count.width) ∧
      (Config.spareLanes ≤ Sparse.get 0 s.fc.spareLanes i.toNat → (∀ e ∈ s.fc.retiring, e.1 ≠ i.toNat) →
        ∃ t, exec (.faultReport f i info prev now) s = .next t ∧ t.fc.retiring = s.fc.retiring ++ [(i.toNat, s.time)] ∧
          t.get Fld.FC_SRC_COUNT_count 0x1D = (s.get Fld.FC_SRC_COUNT_count 0x1D + 1) % 2 ^ Fld.FC_SRC_COUNT_count.width) ∧
      (Config.spareLanes ≤ Sparse.get 0 s.fc.spareLanes i.toNat → (∃ e ∈ s.fc.retiring, e.1 = i.toNat) →
        exec (.faultReport f i info prev now) s = .next s))

/-- The ERR_N pulse ends at its time, and a quiet family of clear A loses its pending bit (R639, R640, R645, R646). -/
def Obligations.ErrPulseEndsAndQuietPeriodClears : Prop :=
  ∀ (s : State) (f : BitVec 8),
    (∀ u, s.fc.pulseEnd = some u → u ≤ s.time →
      ∃ t, exec .errPulseEnd s = .next t ∧ t.fc.pulseEnd = none ∧ t.get Fld.FC_ERR_PIN_pulsing = 0 ∧ t.pins.errN = !t.errLow ∧
        s.fieldsBut t [(Fld.FC_ERR_PIN_low, 0), (Fld.FC_ERR_PIN_pulsing, 0)] ∧
        { t with regs := s.regs, pins := s.pins, fc := s.fc } = s) ∧
    (s.fc.pulseEnd = none ∨ (∃ u, s.fc.pulseEnd = some u ∧ s.time < u) → exec .errPulseEnd s = .next s) ∧
    (s.flag Fld.FC_SRC_CFG_auto f.toNat = true ∧ s.flag Fld.FC_SRC_STATUS_pending f.toNat = true ∧
        s.flag Fld.FC_SRC_STATUS_demoted f.toNat = false ∧ s.flag Fld.FC_SRC_STATUS_rail f.toNat = false ∧
        Sparse.get 0 s.fc.lastReport f.toNat + s.quietUs ≤ s.time →
      ∃ t, exec (.quietPeriod f) s = .next t ∧ t.get Fld.FC_SRC_STATUS_pending f.toNat = 0 ∧
        t.fc.reporters = s.fc.reporters.filter (fun e => e.1 != f.toNat) ∧ t.pins.errN = !t.errLow ∧
        s.copiesBut t [Fld.FC_SRC_STATUS_pending, Fld.FC_PATROL_REC_recs, Fld.FC_SERDES_REC_recs, Fld.FC_ERR_PIN_low, Fld.FC_ERR_PIN_pulsing] ∧
        (∀ g, g ≠ f.toNat → t.get Fld.FC_SRC_STATUS_pending g = s.get Fld.FC_SRC_STATUS_pending g) ∧ s.bytesSame t) ∧
    (s.flag Fld.FC_SRC_CFG_auto f.toNat = false ∨ s.flag Fld.FC_SRC_STATUS_pending f.toNat = false ∨
        s.flag Fld.FC_SRC_STATUS_demoted f.toNat = true ∨ s.flag Fld.FC_SRC_STATUS_rail f.toNat = true ∨
        s.time < Sparse.get 0 s.fc.lastReport f.toNat + s.quietUs → exec (.quietPeriod f) s = .next s)

/-- FC_FORCE makes one forced report and FC_INJECT arms an injection, only from partition 0 and never on what a lid partition owns
(R642, R643, R644, log entry 150, log entry 151). -/
def Obligations.ForcedReportsAndInjection : Prop :=
  ∀ (s : State) (a : Agent) (v : Word32),
    (s.fromPf a = true → s.lidInstance (bitsOf v.toNat 0 8) (bitsOf v.toNat 8 9) = false →
      ∃ u, u.get Fld.FC_FORCE_family = bitsOf v.toNat 0 8 ∧ u.get Fld.FC_FORCE_instance = bitsOf v.toNat 8 9 ∧
        s.onlyFields u [(Fld.FC_FORCE_family, 0), (Fld.FC_FORCE_instance, 0)] ∧
        exec (.fcForce a v) s = .next (if bitOf v.toNat 17 && families.contains (bitsOf v.toNat 0 8) then
          u.report (bitsOf v.toNat 0 8) (bitsOf v.toNat 8 9) 0 false true else u)) ∧
    (s.fromPf a = false ∨ s.lidInstance (bitsOf v.toNat 0 8) (bitsOf v.toNat 8 9) = true → exec (.fcForce a v) s = .next s) ∧
    (s.fromPf a = true → s.lidInstance (injectFamily (bitsOf v.toNat 0 3)) (bitsOf v.toNat 3 9) = false →
      (bitOf v.toNat 13 = true → s.flag Fld.FC_INJECT_armed = false) →
      ∃ t, exec (.fcInjectArm a v) s = .next t ∧ t.get Fld.FC_INJECT_target = bitsOf v.toNat 0 3 ∧
        t.get Fld.FC_INJECT_instance = bitsOf v.toNat 3 9 ∧ t.get Fld.FC_INJECT_double = bitsOf v.toNat 12 1 ∧
        t.get Fld.FC_INJECT_arm = (if bitOf v.toNat 13 then 1 else s.get Fld.FC_INJECT_arm) ∧
        t.get Fld.FC_INJECT_armed = (if bitOf v.toNat 13 then bit (decide (bitsOf v.toNat 0 3 ≤ 3)) else s.get Fld.FC_INJECT_armed) ∧
        s.onlyFields t [(Fld.FC_INJECT_target, 0), (Fld.FC_INJECT_instance, 0), (Fld.FC_INJECT_double, 0), (Fld.FC_INJECT_arm, 0),
          (Fld.FC_INJECT_armed, 0)]) ∧
    (s.fromPf a = false ∨ s.lidInstance (injectFamily (bitsOf v.toNat 0 3)) (bitsOf v.toNat 3 9) = true ∨
        (bitOf v.toNat 13 = true ∧ s.flag Fld.FC_INJECT_armed = true) → exec (.fcInjectArm a v) s = .next s)

/-- FC_ENGINE_RESET fences an engine or refuses it by code; a drained engine that passes its built-in test is released and counted
(R648, R649, R650, R651, R652, log entry 78, log entry 148, log entry 149, log entry 158). -/
def Obligations.EngineResetIsFencedAndReleased : Prop :=
  ∀ (s : State) (a : Agent) (v : Word32) (e : Fin 372) (passed : Bool),
    (s.fromPf a = true → bitOf v.toNat 16 = true →
      ∀ u, u = s.writeReg Fld.FC_ENGINE_RESET_engine.reg 0 v.toNat →
      (bitsOf v.toNat 0 9 < 372 → u.fc.fenced.contains (bitsOf v.toNat 0 9) = false →
        (bitsOf v.toNat 0 9 < 256 → u.resettable (bitsOf v.toNat 0 9) = true) →
        ∃ t, exec (.engineReset a v) s = .next t ∧ t.fc.fenced = s.fc.fenced ++ [bitsOf v.toNat 0 9] ∧
          t.get Fld.FC_ENGINE_RESET_busy = 1 ∧ t.get Fld.FC_ENGINE_RESET_engine = bitsOf v.toNat 0 9 ∧
          s.fieldsBut t ((fieldsOf Fld.FC_ENGINE_RESET_engine.reg).map (fun f => (f, 0))) ∧
          { t with regs := s.regs, fc := s.fc } = s) ∧
      (∀ code, (372 ≤ bitsOf v.toNat 0 9 ∧ code = 1) ∨
          (bitsOf v.toNat 0 9 < 372 ∧ u.fc.fenced.contains (bitsOf v.toNat 0 9) = true ∧ code = 2) ∨
          (bitsOf v.toNat 0 9 < 256 ∧ u.fc.fenced.contains (bitsOf v.toNat 0 9) = false ∧ u.resettable (bitsOf v.toNat 0 9) = false ∧ code = 3) →
        ∃ t, exec (.engineReset a v) s = .next t ∧ t.get Fld.FC_ENGINE_RESET_error = 1 ∧ t.get Fld.FC_ENGINE_RESET_err_code = code ∧
          u.onlyFields t [(Fld.FC_ENGINE_RESET_error, 0), (Fld.FC_ENGINE_RESET_err_code, 0)])) ∧
    (s.fromPf a = false → exec (.engineReset a v) s = .next s) ∧
    (s.fc.fenced.contains e.val = true → s.fc.drained.contains e.val = false →
      ∀ u, u = { s with fc := { s.fc with drained := s.fc.drained ++ [e.val] } } →
      (e.val < 256 → exec (.engineResetDrained e) s = .next (u.resetCore e)) ∧
      (256 ≤ e.val → e.val < 288 → exec (.engineResetDrained e) s = .next (u.resetMover (e - 256)).afterMoves) ∧
      (288 ≤ e.val → e.val < 292 → exec (.engineResetDrained e) s = .next (if u.linkUp (e - 288) then u.linkLost (e - 288) else u)) ∧
      (292 ≤ e.val → exec (.engineResetDrained e) s = .next
        (if u.portState (e - 292) = 0 ∨ u.portState (e - 292) = 5 then u
          else (((u.leaveUp (e - 292) 0).showPeer (e - 292)).recallExpress (e - 292)).forwardAll))) ∧
    (s.fc.fenced.contains e.val = false ∨ s.fc.drained.contains e.val = true → exec (.engineResetDrained e) s = .next s) ∧
    (s.fc.drained.contains e.val = true → 256 ≤ e.val →
      ∃ t, exec (.engineBistDone e true) s = .next t ∧ t.fc.drained = s.fc.drained.filter (· != e.val) ∧
        t.fc.fenced = s.fc.fenced.filter (· != e.val) ∧ t.get Fld.FC_ENGINE_RESET_done = 1 ∧
        t.get Fld.FC_ENGINE_RESET_COUNT_count = (s.get Fld.FC_ENGINE_RESET_COUNT_count + 1) % 2 ^ 32 ∧
        (t.fc.fenced = [] → t.get Fld.FC_ENGINE_RESET_busy = 0) ∧
        s.fieldsBut t [(Fld.FC_ENGINE_RESET_done, 0), (Fld.FC_ENGINE_RESET_COUNT_count, 0), (Fld.FC_ENGINE_RESET_busy, 0), (Fld.FC_STATUS_wrap, 0)] ∧
        { t with regs := s.regs, fc := s.fc } = s) ∧
    (s.fc.drained.contains e.val = false → exec (.engineBistDone e passed) s = .next s)

/-- A core that passes its built-in test takes shards again; one that fails, or is reset three times in an hour, has its site
marked for replacement (R649, R652, R660, log entry 148, log entry 158). -/
def Obligations.CoreReturnsAfterItsReset : Prop :=
  ∀ (s : State) (e : Fin 372) (passed : Bool), s.fc.drained.contains e.val = true → e.val < 256 →
    ∀ (times : List (Nat × Nat)) (u v w : State),
      times = s.fc.resetTimes.filter (fun r => decide (s.time < r.2 + 3600000000)) →
      u = { s with fc := { s.fc with drained := s.fc.drained.filter (· != e.val), resetTimes := times } } →
      v = (if passed then (({ u with fc := { u.fc with fenced := u.fc.fenced.filter (· != e.val) } }).count
        Fld.FC_ENGINE_RESET_COUNT_count 0 Fld.FC_STATUS_wrap 0 1).set Fld.FC_ENGINE_RESET_done 0 1 else u) →
      w = (if v.fc.fenced.isEmpty then v.set Fld.FC_ENGINE_RESET_busy 0 0 else v) →
    exec (.engineBistDone e passed) s = .next (
      let r := if passed then (((w.coreSlots e).map (fun x => x.2.ctx)).eraseDups.foldl State.placeShards w).reschedule e else w
      match r.siteOf e with
      | none => r
      | some site => if passed = false ∨ 3 ≤ (times.filter (fun x => x.1 == e.val)).length then r.markSite site else r)

/-- A scrub started by the rim sets busy, or refused over a slot in use; when done, the bytes it selects are zero and no other
byte has changed (R142, R143, R315, log entry 10, log entry 178). -/
def Obligations.ScrubZeroesWhatItSelects : Prop :=
  ∀ (s : State) (a : Agent) (site : Fin 288) (v : Word32),
    (a = .rim → ∀ u, u = s.writeReg Fld.LS_SCRUB_start.reg site v.toNat →
      (bitOf v.toNat 0 = false → exec (.lsScrubStart a site v) s = .next u) ∧
      (bitOf v.toNat 0 = true → u.flag Fld.LS_SCRUB_busy site = false →
        (∀ k ∈ scrubSlots (bitOf v.toNat 1) (bitsOf v.toNat 2 8), u.siteResident site k = false) →
        ∃ t, exec (.lsScrubStart a site v) s = .next t ∧ t.get Fld.LS_SCRUB_busy site = 1 ∧
          t.scrubs = Sparse.set 0 s.scrubs site (1 + 2 * bit (bitOf v.toNat 1) + 4 * bitsOf v.toNat 2 8) ∧
          u.fieldsBut t [(Fld.LS_SCRUB_busy, site.val)] ∧ { t with regs := u.regs, scrubs := u.scrubs } = u) ∧
      (bitOf v.toNat 0 = true → u.flag Fld.LS_SCRUB_busy site = true →
        (∀ k ∈ scrubSlots (bitOf v.toNat 1) (bitsOf v.toNat 2 8), u.siteResident site k = false) → exec (.lsScrubStart a site v) s = .next u) ∧
      (bitOf v.toNat 0 = true → (∃ k ∈ scrubSlots (bitOf v.toNat 1) (bitsOf v.toNat 2 8), u.siteResident site k = true) →
        ∃ t, exec (.lsScrubStart a site v) s = .next t ∧ t.get Fld.LS_SCRUB_refused site = 1 ∧ u.onlyFields t [(Fld.LS_SCRUB_refused, site.val)])) ∧
    (a ≠ .rim → exec (.lsScrubStart a site v) s = .next s) ∧
    (s.flag Fld.LS_SCRUB_busy site = true → ∀ (whole : Bool) (mask : Nat), whole = bitOf (Sparse.get 0 s.scrubs site) 1 →
      mask = bitsOf (Sparse.get 0 s.scrubs site) 2 8 →
      ∃ t, exec (.lsScrubDone site) s = .next t ∧ t.get Fld.LS_SCRUB_busy site = 0 ∧ t.get Fld.LS_SCRUB_done site = 1 ∧
        s.fieldsBut t [(Fld.LS_SCRUB_busy, site.val), (Fld.LS_SCRUB_done, site.val)] ∧
        (∀ x, t.localStore.byte x =
          if 2 ^ 21 * site.val ≤ x ∧ x < 2 ^ 21 * (site.val + 1) ∧ whole = true then 0
          else if whole = false ∧ ∃ k ∈ scrubSlots false mask,
            2 ^ 21 * site.val + 65536 * s.get Fld.LS_SLICE_base_seg (8 * site + k) ≤ x ∧
            x < 2 ^ 21 * site.val + 65536 * (s.get Fld.LS_SLICE_base_seg (8 * site + k) + s.get Fld.LS_SLICE_len_seg (8 * site + k)) then 0
          else s.localStore.byte x) ∧
        (∀ c k n, s.coreOfSite site = some c → k ∈ scrubSlots whole mask → n < 64 → t.tagAt c k n = 0 ∧
          t.ledgerAt c k n = { used := false, gen := 0, deadline := none }) ∧
        t.hbm = s.hbm ∧ t.sidecar = s.sidecar ∧ t.rowStore = s.rowStore ∧ t.tier4 = s.tier4) ∧
    (s.flag Fld.LS_SCRUB_busy site = false → exec (.lsScrubDone site) s = .next s)

/-- A spare that passes its test is ready with its store zero; RWS_SPARE_CMD remaps or is refused; a clean read-back gives the
core to its new partition (R125, R126, R127, R182, R315, R316, log entry 152, log entry 158). -/
def Obligations.SpareTestRemapAndHandover : Prop :=
  ∀ (s : State) (a : Agent) (row : Fin 32) (slot : Fin 9) (v : Word32) (core : Fin 256),
    (s.siteState (row * 9 + slot) = 3 → s.coreOfSite (row * 9 + slot) = none → s.fc.tested.contains (row.val * 9 + slot.val) = false →
      ∃ t, exec (.spareBuiltInTestDone row slot true) s = .next t ∧ t.fc.tested = s.fc.tested ++ [row.val * 9 + slot.val] ∧
        (∀ x, t.localStore.byte x = if 2 ^ 21 * (row.val * 9 + slot.val) ≤ x ∧ x < 2 ^ 21 * (row.val * 9 + slot.val + 1) then 0
          else s.localStore.byte x) ∧
        t.hbm = s.hbm ∧ t.sidecar = s.sidecar ∧ t.rowStore = s.rowStore ∧ t.tier4 = s.tier4 ∧ t.regs = s.regs) ∧
    (s.siteState (row * 9 + slot) ≠ 3 ∨ (s.coreOfSite (row * 9 + slot)).isSome = true ∨ s.fc.tested.contains (row.val * 9 + slot.val) = true →
      exec (.spareBuiltInTestDone row slot true) s = .next s) ∧
    exec (.spareBuiltInTestDone row slot false) s = .next s ∧
    (∀ (lane sl fate c : Nat), lane = bitsOf v.toNat 0 3 → sl = bitsOf v.toNat 3 4 → fate = bitsOf v.toNat 7 2 → c = row * 8 + lane →
      ((sl < 9 ∨ sl = 15) → fate < 2 → s.coreSlots c = [] →
        (sl < 9 → s.siteState (row * 9 + sl) = 3 ∧ s.fc.tested.contains (row.val * 9 + sl) = true ∧ (s.siteOf c).isSome = true) →
        exec (.rwsSpareCmd .rim row v) s = .next (s.remapLane c sl fate)) ∧
      ((9 ≤ sl ∧ sl ≠ 15) ∨ 2 ≤ fate ∨ s.coreSlots c ≠ [] ∨ (sl < 9 ∧ s.siteState (row * 9 + sl) ≠ 3) ∨
        (sl < 9 ∧ s.fc.tested.contains (row.val * 9 + sl) = false) ∨ (sl < 9 ∧ s.siteOf c = none) →
        ∃ t, exec (.rwsSpareCmd .rim row v) s = .next t ∧ t.get Fld.RWS_SPARE_STATUS_refused row = 1 ∧
          s.onlyFields t [(Fld.RWS_SPARE_STATUS_refused, row.val)])) ∧
    (a ≠ .rim → exec (.rwsSpareCmd a row v) s = .next s) ∧
    (∀ (x : Nat × Nat × Bool) (site : Nat), s.plait.handover.find? (fun e => e.1 == core.val) = some x → x.2.2 = true → s.siteOf core = some site →
      (∀ c ∈ s.localStore, c.1 / 2 ^ 21 ≠ site) →
      ∃ t, exec (.handoverReadbackDone core) s = .next t ∧ Sparse.get 0 t.plait.corePart core.val = x.2.1 + 1 ∧
        t.plait.handover = s.plait.handover.filter (fun e => e.1 != core.val) ∧
        s.fieldsBut t [(Fld.RWS_SITE_STATE_slots, site / 9)] ∧ { t with regs := s.regs, plait := s.plait } = s) ∧
    (∀ (x : Nat × Nat × Bool) (site : Nat), s.plait.handover.find? (fun e => e.1 == core.val) = some x → x.2.2 = true → s.siteOf core = some site →
      (∃ c ∈ s.localStore, c.1 / 2 ^ 21 = site) → exec (.handoverReadbackDone core) s = .next ((State.dropAdds { s with plait := { s.plait with
        handover := s.plait.handover.filter (fun e => e.1 != core.val) } } core).markSite site)) ∧
    (s.siteOf core = none ∨ s.plait.handover.find? (fun e => e.1 == core.val) = none ∨
      (∃ x, s.plait.handover.find? (fun e => e.1 == core.val) = some x ∧ x.2.2 = false) → exec (.handoverReadbackDone core) s = .next s)

/-- A retiring channel that is empty, or has had its ten seconds, is retired for good; until then its pages keep leaving
it (R665, R509, R311). -/
def Obligations.RetiringChannelLeavesService : Prop :=
  ∀ (s : State) (ch : Fin 256),
    (∀ (x : Nat × Nat) (u : State), s.fc.retiring.find? (fun e => e.1 == ch.val) = some x →
      u = (match s.chanPiece ch with
        | some b => s.evacuateChan b ch
        | none => s) →
      (u.chanEmpty ch = true ∨ x.2 + 10000000 ≤ u.time → ∃ t, exec (.channelRetire ch) s = .next t ∧ ch.val ∈ t.service.retiredChannels) ∧
      (u.chanEmpty ch = false → u.time < x.2 + 10000000 → exec (.channelRetire ch) s = .next u)) ∧
    (s.fc.retiring.find? (fun e => e.1 == ch.val) = none → exec (.channelRetire ch) s = .next s)

/-- A patrol or hourly scrub changes nothing over a clean line, and records, marks and reports one it corrects or cannot correct
(R141, R632, R663, R665, R669, R670, log entry 26, log entry 164). -/
def Obligations.ScrubsReportWhatTheyFind : Prop :=
  ∀ (s : State) (ch : Fin 256) (off : BitVec 31) (site : Fin 288) (row : Fin 32) (line : Fin 8192) (stack : Fin 8),
    exec (.patrolScrub ch off .clean) s = .next s ∧ exec (.sramScrub (.localStore site) line .clean) s = .next s ∧
    exec (.hbmPhyRecal stack) s = .next s ∧ exec .telemetrySample s = .next s ∧
    (∃ u : State, u.get Fld.RWS_ACCESS_COUNT_count row = (s.get Fld.RWS_ACCESS_COUNT_count row + 1) % 2 ^ Fld.RWS_ACCESS_COUNT_count.width ∧
      s.onlyFields u [(Fld.RWS_ACCESS_COUNT_count, row.val), (Fld.RWS_COUNT_STATUS_access_wrap, row.val)] ∧
      exec (.sramScrub (.rowStore row) line .clean) s = .next u ∧
      (∃ v : State, v.get Fld.RWS_ECC_STATUS_corr_count row = (s.get Fld.RWS_ECC_STATUS_corr_count row + 1) % 2 ^ Fld.RWS_ECC_STATUS_corr_count.width ∧
        u.onlyFields v [(Fld.RWS_ECC_STATUS_corr_count, row.val), (Fld.RWS_ECC_STATUS_corr_wrap, row.val)] ∧
        exec (.sramScrub (.rowStore row) line .corrected) s = .next (v.report 0x03 row 0)) ∧
      ∃ v : State, v.get Fld.RWS_ECC_STATUS_uncorr row = 1 ∧ v.get Fld.RWS_UNCORR_ADDR_line row = line.val ∧
        (∃ w, v.rsPoison = markLineWord s.rsPoison (2 ^ 19 * row.val + 64 * line.val) w) ∧ v.freeCounter = s.freeCounter + 1 ∧
        u.fieldsBut v [(Fld.RWS_ECC_STATUS_uncorr, row.val), (Fld.RWS_UNCORR_ADDR_line, row.val)] ∧
        { v with regs := u.regs, rsPoison := u.rsPoison, freeCounter := u.freeCounter } = u ∧
        exec (.sramScrub (.rowStore row) line .uncorrectable) s = .next (v.report 0x02 row line)) ∧
    (∀ (u : SramUnit) (f i : Nat), (∃ k : Fin 288, u = .localStore k ∧ f = 0x00 ∧ i = (s.coreOfSite k).getD 0) ∨ (∃ k : Fin 32, u = .rowStore k ∧ f = 0x02 ∧ i = k) →
      (∃ t, exec (.sramScrub u line .uncorrectable) s = .next t ∧ t.get Fld.FC_SRC_STATUS_pending f = 1 ∧
        t.get Fld.FC_SRC_STATUS_last_instance f = i % 2 ^ Fld.FC_SRC_STATUS_last_instance.width ∧ t.get Fld.FC_SRC_INFO_info f = line.val ∧
        t.get Fld.FC_SRC_COUNT_count f = (s.get Fld.FC_SRC_COUNT_count f + 1) % 2 ^ Fld.FC_SRC_COUNT_count.width ∧ s.bytesSame t) ∧
      ∃ t, exec (.sramScrub u line .corrected) s = .next t ∧ t.get Fld.FC_SRC_STATUS_pending (f + 1) = 1 ∧ t.get Fld.FC_SRC_INFO_info (f + 1) = 0 ∧
        t.get Fld.FC_SRC_COUNT_count (f + 1) = (s.get Fld.FC_SRC_COUNT_count (f + 1) + 1) % 2 ^ Fld.FC_SRC_COUNT_count.width ∧ s.bytesSame t) ∧
    (∃ t, exec (.patrolScrub ch off .corrected) s = .next t ∧
      t.hbmPoison = Sparse.set 0 s.hbmPoison ((2 ^ 40 * ch.val + off.toNat) / 64) 0 ∧ t.get Fld.FC_SRC_STATUS_pending 0x19 = 1 ∧
      t.get Fld.FC_SRC_INFO_info 0x19 = off.toNat ∧
      t.get Fld.FC_SRC_COUNT_count 0x19 = (s.get Fld.FC_SRC_COUNT_count 0x19 + 1) % 2 ^ Fld.FC_SRC_COUNT_count.width ∧ s.bytesSame t) ∧
    (∃ t, exec (.patrolScrub ch off .uncorrectable) s = .next t ∧
      t.hbmPoison = Sparse.set 0 s.hbmPoison ((2 ^ 40 * ch.val + off.toNat) / 64) 2 ∧ t.get Fld.FC_SRC_STATUS_pending 0x1A = 1 ∧
      t.get Fld.FC_SRC_INFO_info 0x1A = off.toNat ∧
      t.get Fld.FC_SRC_COUNT_count 0x1A = (s.get Fld.FC_SRC_COUNT_count 0x1A + 1) % 2 ^ Fld.FC_SRC_COUNT_count.width ∧ s.bytesSame t) ∧
    (∃ u : State, u.hbmPoison = Sparse.set 0 s.hbmPoison ((2 ^ 40 * ch.val + off.toNat) / 64) 0 ∧ { u with hbmPoison := s.hbmPoison } = s ∧
      exec (.patrolScrub ch off .corrected) s = .next (u.hbmCorrected 0x19 ch off.toNat) ∧ s.bytesSame (u.hbmCorrected 0x19 ch off.toNat)) ∧
    (∃ u : State, u.hbmPoison = Sparse.set 0 s.hbmPoison ((2 ^ 40 * ch.val + off.toNat) / 64) 2 ∧ { u with hbmPoison := s.hbmPoison } = s ∧
      exec (.patrolScrub ch off .uncorrectable) s = .next ((u.report 0x1A ch off.toNat).hbmRowSpare ch off.toNat) ∧
      s.bytesSame ((u.report 0x1A ch off.toNat).hbmRowSpare ch off.toNat)) ∧
    (∃ u : State, u.get Fld.LS_ECC_STATUS_corr_count site = (s.get Fld.LS_ECC_STATUS_corr_count site + 1) % 2 ^ Fld.LS_ECC_STATUS_corr_count.width ∧
      s.onlyFields u [(Fld.LS_ECC_STATUS_corr_count, site.val), (Fld.LS_ECC_STATUS_corr_wrap, site.val)] ∧
      exec (.sramScrub (.localStore site) line .corrected) s = .next (u.report 0x01 ((u.coreOfSite site).getD 0) 0)) ∧
    (∃ u : State, u.get Fld.LS_ECC_STATUS_uncorr site = 1 ∧ u.get Fld.LS_UNCORR_ADDR_line site = line.val % 2 ^ Fld.LS_UNCORR_ADDR_line.width ∧
      (∃ w, u.lsPoison = markLineWord s.lsPoison (2 ^ 18 * site.val + 64 * (line.val % 4096)) w) ∧ u.freeCounter = s.freeCounter + 1 ∧
      s.fieldsBut u [(Fld.LS_ECC_STATUS_uncorr, site.val), (Fld.LS_UNCORR_ADDR_line, site.val)] ∧
      { u with regs := s.regs, lsPoison := s.lsPoison, freeCounter := s.freeCounter } = s ∧
      exec (.sramScrub (.localStore site) line .uncorrectable) s = .next (u.report 0x00 ((u.coreOfSite site).getD 0) line)) ∧
    (∀ (m : List (Nat × Nat)) (n w : Nat), ∃ e ∈ markLineWord m (64 * n) w, e.1 / 64 = n ∧ e.2 = 2)

/-- A fall of aging_pct or more is reported and starts the exchange of the core's site at once; a rotation starts unless
rotate_days is 0 (R671, R672). -/
def Obligations.AgeingStartsTheExchange : Prop :=
  ∀ (s : State) (site : Fin 288) (pct : Nat) (row : Fin 32) (slot : Fin 9) (k c : Nat),
    (max 1 (s.get Fld.FC_WEAR_CFG_aging_pct) ≤ pct → s.coreOfSite site = some c →
      exec (.agingCheck site pct) s = .next ((s.report 0x0B c 0).beginRotation (site / 9) (site % 9)) ∧
      ∃ t, exec (.agingCheck site pct) s = .next t ∧ t.get Fld.FC_SRC_STATUS_pending 0x0B = 1 ∧
        t.get Fld.FC_SRC_STATUS_last_instance 0x0B = c % 2 ^ Fld.FC_SRC_STATUS_last_instance.width ∧
        t.get Fld.FC_SRC_COUNT_count 0x0B = (s.get Fld.FC_SRC_COUNT_count 0x0B + 1) % 2 ^ Fld.FC_SRC_COUNT_count.width ∧
        (s.siteState site = 0 → (∀ e ∈ s.fc.rotating, rowHalf e.1 ≠ rowHalf (site / 9)) → s.rowSlotIn (site / 9) 1 ≠ none →
          t.fc.rotating = s.fc.rotating ++ [(site.val / 9, site.val % 9)])) ∧
    (pct < max 1 (s.get Fld.FC_WEAR_CFG_aging_pct) ∨ s.coreOfSite site = none → exec (.agingCheck site pct) s = .next s) ∧
    (s.get Fld.FC_WEAR_CFG_rotate_days ≠ 0 → s.siteState (row * 9 + slot) = 0 → (∀ e ∈ s.fc.rotating, rowHalf e.1 ≠ rowHalf row) →
      s.rowSlotIn row 1 = some k → s.coreOfSite (row * 9 + slot) = some c →
      (s.coreSlots c ≠ [] → ∃ t, exec (.coreRotation row slot) s = .next t ∧ t.fc.rotating = s.fc.rotating ++ [(row.val, slot.val)] ∧
        t.plait.changes = s.plait.changes ++ (s.coreSlots c).map (fun e => Change.slotRemove (s.get Fld.WVR_CTX_STATE_basket_index e.2.ctx) c e.2.ctx) ∧
        { t with fc := s.fc, plait := s.plait } = s) ∧
      (s.coreSlots c = [] → ∀ u v, u = { s with fc := { s.fc with rotating := s.fc.rotating ++ [(row.val, slot.val)] } } →
        v = u.requestWake c →
        ∃ t, exec (.coreRotation row slot) s = .next t ∧ t.siteState (row * 9 + k) = 3 ∧ t.fc = u.fc ∧
          v.onlyFields t [(Fld.RWS_SITE_STATE_slots, row.val)])) ∧
    (s.get Fld.FC_WEAR_CFG_rotate_days ≠ 0 → exec (.coreRotation row slot) s = .next (s.beginRotation row slot)) ∧
    (s.get Fld.FC_WEAR_CFG_rotate_days = 0 ∨ s.siteState (row * 9 + slot) ≠ 0 ∨ (∃ e ∈ s.fc.rotating, rowHalf e.1 = rowHalf row) ∨
      s.rowSlotIn row 1 = none ∨ s.coreOfSite (row * 9 + slot) = none → exec (.coreRotation row slot) s = .next s)

/-- DVFS_GRANT grants each half the slowest of want, ceiling, pace cap and thermal cap; a settled rail, a wake-token issue and
gating do what they say (R595, R596, R597, R609, R170, log entry 32, log entry 156). -/
def Obligations.GrantIsTheSlowestLimit : Prop :=
  ∀ (s : State) (h : Fin 4) (idle : Nat),
    (∃ t, exec .dvfsGrant s = .next t ∧
      (∀ k < 4, t.get Fld.PW_HALF_want k = (s.want k).1 % 4 ∧ t.get Fld.PW_HALF_pace_cap k = s.paceCap k % 4 ∧
        t.get Fld.PW_HALF_grant k =
          (max (max (s.want k).1 (s.get Fld.PW_HALF_ceiling k)) (max (s.paceCap k) (s.get Fld.PW_HALF_thermal_cap k))) % 4) ∧
      s.copiesBut t grantFields ∧ s.grantRest t) ∧
    (∀ n, Sparse.get 0 s.power.target h.val = n + 1 → ∃ u : State, u.get Fld.PW_HALF_RAIL_mv h = pointMv n ∧
        u.power = { s.power with target := Sparse.set 0 s.power.target h 0 } ∧
        s.fieldsBut u [(Fld.PW_HALF_RAIL_mv, h.val)] ∧ { u with regs := s.regs, power := s.power } = s ∧
        (s.gated h = true → exec (.railSettled h) s = .next u) ∧
        (s.gated h = false → ∃ t, exec (.railSettled h) s = .next t ∧ t.get (divField h) (h / 2) = n % 8 ∧
          t.run = { s.run with edge := roundUp s.run.edge 120 } ∧
          u.copiesBut t [divField h, Fld.SEAM_HOLD_held_w, Fld.SEAM_HOLD_held_e] ∧ u.seamRest t)) ∧
    (Sparse.get 0 s.power.target h.val = 0 → exec (.railSettled h) s = .next s) ∧
    (s.gated h = false → s.halfBusy h = false → s.halfExecutes h = false → s.seamWaiting h = false → s.get Fld.PW_WAKE_CFG_gate_idle ≤ idle →
      ∃ t, exec (.gateIdle h idle) s = .next t ∧ t.get Fld.PW_HALF_gated h = 1 ∧ t.get (divField h) (h / 2) = 4 ∧
        (∀ k, k ≠ h.val → t.get Fld.PW_HALF_gated k = s.get Fld.PW_HALF_gated k) ∧ t.run = { s.run with edge := roundUp s.run.edge 120 } ∧
        s.copiesBut t [Fld.PW_HALF_gated, divField h, Fld.SEAM_HOLD_held_w, Fld.SEAM_HOLD_held_e] ∧ s.seamRest t) ∧
    (∀ n, ∃ k, roundUp n 120 = 120 * k ∧ n ≤ 120 * k ∧ 120 * k < n + 120) ∧
    (s.gated h = true ∨ s.halfBusy h = true ∨ s.halfExecutes h = true ∨ s.seamWaiting h = true ∨ idle < s.get Fld.PW_WAKE_CFG_gate_idle →
      exec (.gateIdle h idle) s = .next s) ∧
    (s.halted = true → exec .wakeTokenIssue s = .next s) ∧
    (s.halted = false → s.power.wakeQueue = [] → exec .wakeTokenIssue s = .next { s with power := { s.power with tokensLeft := s.wakeTokens } }) ∧
    (s.halted = false → exec .wakeTokenIssue s =
      .next (State.giveTokens s.wakeTokens { s with power := { s.power with tokensLeft := s.wakeTokens } }) ∧
      ∃ t, exec .wakeTokenIssue s = .next t ∧ t.power.wakeQueue.length = s.power.wakeQueue.length - s.wakeTokens ∧
        t.power.tokensLeft = s.wakeTokens - s.power.wakeQueue.length ∧ s.bytesSame t)

/-- A droop starts a stretch run, too many runs in one ms lower the ceiling for 10 ms, and the ceiling it displaced
returns (R598, R600, R601, R602, log entry 33). -/
def Obligations.DroopStretchesAndLimitsTheRate : Prop :=
  ∀ (s : State) (row : Fin 32) (mv : Nat) (h : Fin 4) (low : Bool),
    (s.flag Fld.CK_DROOP_CFG_droop_en = true → s.gated (rowHalf row) = false → 20 < mv → s.get Fld.CK_DROOP_CFG_thresh_mv < mv →
      ∃ t, exec (.droopDetect row mv) s = .next t ∧ t.get Fld.PW_HALF_stretching (rowHalf row) = 1 ∧
        s.onlyFields t [(Fld.PW_HALF_stretching, rowHalf row)]) ∧
    (s.flag Fld.CK_DROOP_CFG_droop_en = false ∨ s.gated (rowHalf row) = true ∨ mv ≤ max 20 (s.get Fld.CK_DROOP_CFG_thresh_mv) →
      exec (.droopDetect row mv) s = .next s) ∧
    (s.flag Fld.PW_HALF_stretching h = true → ∀ n : Nat,
      n = (if Sparse.get 0 s.power.runsMs h.val = s.time / 1000 then Sparse.get 0 s.power.runsInMs h.val else 0) + 1 →
      ∃ u : State, u.get Fld.CK_STRETCH_COUNT_count h = (s.get Fld.CK_STRETCH_COUNT_count h + 1) % 2 ^ Fld.CK_STRETCH_COUNT_count.width ∧
        u.get Fld.PW_HALF_stretching h = bit low ∧
        u.power = { s.power with runsMs := Sparse.set 0 s.power.runsMs h (s.time / 1000), runsInMs := Sparse.set 0 s.power.runsInMs h n } ∧
        s.fieldsBut u [(Fld.CK_STRETCH_COUNT_count, h.val), (Fld.CK_STATUS_stretch_wrap, 0), (Fld.PW_HALF_stretching, h.val)] ∧
        { u with regs := s.regs, power := s.power } = s ∧
        (n ≠ s.get Fld.CK_DROOP_CFG_rate_limit + 1 → exec (.stretchRunEnd h low) s = .next u) ∧
        (n = s.get Fld.CK_DROOP_CFG_rate_limit + 1 → exec (.stretchRunEnd h low) s = .next (u.droopCeiling h))) ∧
    (s.flag Fld.PW_HALF_stretching h = false → exec (.stretchRunEnd h low) s = .next s) ∧
    ((s.droopCeiling h).get Fld.PW_HALF_ceiling h = min 3 (s.get Fld.PW_HALF_grant h + 1) ∧
      Sparse.get 0 (s.droopCeiling h).power.droopUntil h.val = s.time + 10000 ∧
      (s.droopCeiling h).get Fld.FC_SRC_COUNT_count 0x49 = (s.get Fld.FC_SRC_COUNT_count 0x49 + 1) % 2 ^ Fld.FC_SRC_COUNT_count.width) ∧
    (Sparse.get 0 s.power.droopUntil h.val ≠ 0 → Sparse.get 0 s.power.droopUntil h.val ≤ s.time →
      ∃ t, exec (.ceilingExpire h) s = .next t ∧ t.get Fld.PW_HALF_ceiling h = Sparse.get 0 s.power.droopPrev h.val % 4 ∧
        Sparse.get 0 t.power.droopUntil h.val = 0 ∧ s.copiesBut t (Fld.PW_HALF_ceiling :: grantFields)) ∧
    (Sparse.get 0 s.power.droopUntil h.val = 0 ∨ s.time < Sparse.get 0 s.power.droopUntil h.val → exec (.ceilingExpire h) s = .next s) ∧
    (∃ t, exec (.droopCalibrate row) s = .next t ∧ t.get Fld.CK_DROOP_CFG_cal_done = 1 ∧ s.onlyFields t [(Fld.CK_DROOP_CFG_cal_done, 0)])

/-- POWER_MEASURE shows the measurement, forms a sample of each hundred and answers a transient; POWER_ADJUST lowers or
raises one ceiling (R603, R604, R605, R606, log entry 34). -/
def Obligations.MeasuredPowerMovesTheCeilings : Prop :=
  ∀ (s : State) (watts mv current : Nat),
    (∃ u : State, u.get Fld.PW_INPUT_now_w = watts % 2 ^ 16 ∧ u.get Fld.PW_INPUT_VI_mv = mv % 2 ^ 16 ∧
      u.get Fld.PW_INPUT_VI_current = current % 2 ^ 16 ∧
      s.fieldsBut u [(Fld.PW_INPUT_now_w, 0), (Fld.PW_INPUT_VI_mv, 0), (Fld.PW_INPUT_VI_current, 0), (Fld.PW_INPUT_avg_w, 0)] ∧
      { u with regs := s.regs, power := s.power } = s ∧
      u.power.overRun = (if s.powerLimit < watts then s.power.overRun + 1 else 0) ∧
      (s.power.tens.length < 99 → u.power.tens = watts :: s.power.tens ∧ u.power.samples = s.power.samples ∧
        u.get Fld.PW_INPUT_avg_w = s.get Fld.PW_INPUT_avg_w) ∧
      (99 ≤ s.power.tens.length → u.power.tens = [] ∧
        u.power.samples = (((watts :: s.power.tens).sum / 100) :: s.power.samples).take 8000 ∧
        u.get Fld.PW_INPUT_avg_w = u.windowMean % 2 ^ 16) ∧
      { u.power with tens := s.power.tens, samples := s.power.samples, overRun := s.power.overRun } = s.power ∧
      (4500 < watts → ∃ t, exec (.powerMeasure watts mv current) s = .next t ∧ t.get Fld.PW_STATUS_transient = 1 ∧
        ∀ h < 4, s.get Fld.PW_HALF_ceiling h ≤ 3 → t.get Fld.PW_HALF_ceiling h = min 3 (s.get Fld.PW_HALF_ceiling h + 1)) ∧
      (watts ≤ 4500 → u.power.overRun = 800 → ∃ t, exec (.powerMeasure watts mv current) s = .next t ∧ t.get Fld.PW_STATUS_transient = 1 ∧
        ∀ h < 4, s.get Fld.PW_HALF_ceiling h ≤ 3 → t.get Fld.PW_HALF_ceiling h = 3) ∧
      (watts ≤ 4500 → u.power.overRun ≠ 800 → exec (.powerMeasure watts mv current) s = .next u)) ∧
    (s.windowSamples = [] → exec .powerAdjust s = .next s) ∧
    (∀ (l : Nat) (ls : List Nat) (n proj unit : Nat), s.windowSamples = l :: ls → n = ls.length + 1 →
      proj = (10 * s.powerWindow - 1) * (l :: ls).sum + l * n → unit = s.powerLimit * 10 * s.powerWindow * n →
      (98 * unit < 100 * proj → ∀ h, bestHalf (fun h => s.predict h (s.get Fld.PW_HALF_grant h) - s.predict h (s.get Fld.PW_HALF_grant h + 1))
          ([0, 1, 2, 3].filter (fun h => s.get Fld.PW_HALF_grant h != 3)) = some h →
        exec .powerAdjust s = .next (if (s.lowerCeiling h (s.get Fld.PW_HALF_grant h + 1) 1).flag Fld.PW_STATUS_limit_event_en
          then ((s.lowerCeiling h (s.get Fld.PW_HALF_grant h + 1) 1).report 0x4A 0 0).grantAll
          else (s.lowerCeiling h (s.get Fld.PW_HALF_grant h + 1) 1).grantAll)) ∧
      (100 * proj < 95 * unit → s.power.ceilingChanged + 10000 ≤ s.time →
        ∀ h, bestHalf (fun h => 2 ^ 64 - (s.predict h (s.get Fld.PW_HALF_ceiling h - 1) - s.predict h (s.get Fld.PW_HALF_ceiling h)))
          ([0, 1, 2, 3].filter (fun h => decide (s.get Fld.PW_HALF_want h < s.get Fld.PW_HALF_ceiling h))) = some h →
        ∃ t, exec .powerAdjust s = .next t ∧ t.get Fld.PW_HALF_ceiling h = (s.get Fld.PW_HALF_ceiling h - 1) % 4 ∧
          t.power.ceilingChanged = s.time ∧ s.copiesBut t (Fld.PW_HALF_ceiling :: grantFields)) ∧
      (100 * proj ≤ 98 * unit → 95 * unit ≤ 100 * proj ∨ s.time < s.power.ceilingChanged + 10000 → exec .powerAdjust s = .next s))

/-- TEMP_SAMPLE shows a reading and its peak and drives THERM_ALERT_N; THERMAL_CAP_STEP moves one half's cap;
TEMP_CLEAR_PEAKS takes the present readings (R619, R620, R621, R625, log entry 35). -/
def Obligations.TemperatureCapsAndAlerts : Prop :=
  ∀ (s : State) (k : Fin 14) (c : BitVec 8) (h : Fin 4) (a : Agent) (v : Word32),
    (∃ t, exec (.tempSample k c) s = .next t ∧ t.get Fld.PW_TEMP_now_c k = c.toNat ∧
      t.get Fld.PW_TEMP_peak_c k = max c.toNat (s.get Fld.PW_TEMP_peak_c k) % 256 ∧
      (∀ j, j ≠ k.val → j < 14 → t.get Fld.PW_TEMP_now_c j = s.get Fld.PW_TEMP_now_c j) ∧
      ((∃ j < 14, s.get Fld.PW_THERM_CFG_alert_c ≤ t.get Fld.PW_TEMP_now_c j) ∨ s.flag Fld.PW_COOLANT_stopped = true → t.pins.thermAlertN = false) ∧
      ((∀ j < 14, t.get Fld.PW_TEMP_now_c j + 3 ≤ s.get Fld.PW_THERM_CFG_alert_c) → s.flag Fld.PW_COOLANT_stopped = false → t.pins.thermAlertN = true) ∧
      (s.get Fld.PW_TEMP_now_c k < s.get Fld.PW_THERM_CFG_throttle_c → s.get Fld.PW_THERM_CFG_throttle_c ≤ c.toNat →
        t.get Fld.PW_STATUS_thermal = 1)) ∧
    (s.get Fld.PW_THERM_CFG_throttle_c ≤ s.halfTemp h → s.get Fld.PW_HALF_thermal_cap h < 3 →
        Sparse.get 0 s.power.capChanged h.val = 0 ∨ Sparse.get 0 s.power.capChanged h.val + 1000 ≤ s.time →
      ∃ t, exec (.thermalCapStep h) s = .next t ∧ t.get Fld.PW_HALF_thermal_cap h = s.get Fld.PW_HALF_thermal_cap h + 1 ∧
        s.copiesBut t (Fld.PW_HALF_thermal_cap :: grantFields) ∧ s.grantRest t) ∧
    (s.halfTemp h + 3 ≤ s.get Fld.PW_THERM_CFG_throttle_c → 0 < s.get Fld.PW_HALF_thermal_cap h → s.get Fld.PW_HALF_thermal_cap h ≤ 3 →
        Sparse.get 0 s.power.capChanged h.val + 10000 ≤ s.time → s.power.critical.contains h.val = false →
      ∃ t, exec (.thermalCapStep h) s = .next t ∧ t.get Fld.PW_HALF_thermal_cap h = s.get Fld.PW_HALF_thermal_cap h - 1 ∧
        s.copiesBut t (Fld.PW_HALF_thermal_cap :: grantFields) ∧ s.grantRest t) ∧
    (s.halfTemp h < s.get Fld.PW_THERM_CFG_throttle_c → s.get Fld.PW_THERM_CFG_throttle_c < s.halfTemp h + 3 →
      exec (.thermalCapStep h) s = .next s) ∧
    (s.fromPf a = true → bitOf v.toNat 0 = true →
      ∃ t, exec (.tempClearPeaks a v) s = .next t ∧ (∀ j < 14, t.get Fld.PW_TEMP_peak_c j = s.get Fld.PW_TEMP_now_c j % 256) ∧
        s.copiesBut t [Fld.PW_TEMP_peak_c] ∧ { t with regs := s.regs } = s) ∧
    (s.fromPf a = false ∨ bitOf v.toNat 0 = false → exec (.tempClearPeaks a v) s = .next s)

/-- PACE caps a paced basket at a point as slow as its cap, or once the cap expired, for pace_hold µs; any other PACE is
discarded and counted (R616). -/
def Obligations.PaceSetsACapOrIsDiscarded : Prop :=
  ∀ (s : State) (uid : BitVec 64) (point : BitVec 2) (h : Fin 4),
    (∀ b, s.basketOfUid uid.toNat = some b → s.paceEnabled b = true →
      Sparse.get 0 s.power.capPoint b ≤ point.toNat ∨ Sparse.get 0 s.power.capUntil b ≤ s.time →
      ∃ t, exec (.pace uid point) s = .next t ∧ Sparse.get 0 t.power.capPoint b = point.toNat ∧
        Sparse.get 0 t.power.capUntil b = s.time + max 100 (s.get Fld.PW_PACE_HOLD_us) ∧
        (∀ c, c ≠ b → Sparse.get 0 t.power.capPoint c = Sparse.get 0 s.power.capPoint c ∧
          Sparse.get 0 t.power.capUntil c = Sparse.get 0 s.power.capUntil c) ∧
        s.copiesBut t grantFields ∧ s.grantRest t) ∧
    (s.basketOfUid uid.toNat = none ∨ (∃ b, s.basketOfUid uid.toNat = some b ∧ (s.paceEnabled b = false ∨
        (point.toNat < Sparse.get 0 s.power.capPoint b ∧ s.time < Sparse.get 0 s.power.capUntil b))) →
      ∃ t, exec (.pace uid point) s = .next t ∧
        t.get Fld.PW_PACE_RX_COUNT_count = (s.get Fld.PW_PACE_RX_COUNT_count + 1) % 2 ^ Fld.PW_PACE_RX_COUNT_count.width ∧
        s.onlyFields t [(Fld.PW_PACE_RX_COUNT_count, 0), (Fld.PW_STATUS_wrap, 0)]) ∧
    (∀ b : Fin 64, Sparse.get 0 s.power.capUntil b.val ≠ 0 → Sparse.get 0 s.power.capUntil b.val ≤ s.time →
      ∃ t, exec (.paceCapExpire b) s = .next t ∧ Sparse.get 0 t.power.capPoint b.val = 0 ∧ Sparse.get 0 t.power.capUntil b.val = 0 ∧
        s.copiesBut t grantFields ∧ s.grantRest t) ∧
    (∀ b : Fin 64, Sparse.get 0 s.power.capUntil b.val = 0 ∨ s.time < Sparse.get 0 s.power.capUntil b.val →
      exec (.paceCapExpire b) s = .next s) ∧
    (s.throttled h = true → Sparse.get 0 s.power.paceSent h.val + s.paceHold / 2 ≤ s.time + 1 →
      exec (.paceRepeat h) s = .next (s.sendPace h)) ∧
    (s.throttled h = false ∨ s.time + 1 < Sparse.get 0 s.power.paceSent h.val + s.paceHold / 2 → exec (.paceRepeat h) s = .next s)

/-- A seam entry is launched at a sender edge with a credit and captured at the receiver's first edge two root edges on, stalls without
one, and waits in order for a gated half, whose cores ask for wake tokens (R162, R163, R164, R165, R167, R168, R169, log entry 177). -/
def Obligations.SeamEntriesNeedCreditsAndWakeHalves : Prop :=
  (∀ (s : State) (die : Fin 2) (toEast : Bool) (via : Crossing) (chan : Fin 16) (edge : Nat) (head : Bool) (data : BitVec 512) (h k : Nat)
    (c : SeamChan) (e : SeamEntry) (v u : State),
    h = die.val * 2 + bit toEast → k = seamKey h via chan → e = { launch := edge, head := head, data := data } →
    v = s.seamTo edge → c = (v.seamAt k).credited edge → u = v.setSeam k c →
    (s.senderDiv h .seam = if s.divCode (otherHalf h) = 4 then none else some (pointDivider (s.divCode (otherHalf h)))) ∧
    (s.sends h via edge = true ↔ ∃ d, s.senderDiv h via = some d ∧ edge % d = 0 ∧ s.run.edge ≤ edge ∧ edge < s.run.rootEdge + 12000) ∧
    c.credits = (v.seamAt k).credits + ((v.seamAt k).back.filter (fun b => decide (b + 2 ≤ edge))).length ∧
    (s.sends h via edge = true → u.seamAt k = c ∧ (∀ j, j ≠ k → u.seamAt j = v.seamAt j) ∧ u.run = { s.run with edge := edge } ∧ s.seamRest u) ∧
    (s.sends h via edge = false → exec (.seamEntryArrive die toEast ⟨via, chan⟩ e) s = .next s ∧
      exec (.seamCreditReturn die toEast ⟨via, chan⟩ edge) s = .next s) ∧
    (edge < (s.seamAt k).last → exec (.seamEntryArrive die toEast ⟨via, chan⟩ e) s = .next s) ∧
    (s.sends h via edge = true → exec (.seamCreditReturn die toEast ⟨via, chan⟩ edge) s = .next u) ∧
    (chan.val < 8 → (u.seamBarred h via chan head = true ↔ head = true ∧ via = .seam ∧ 64 ≤ u.outstanding h + u.responsesFor (otherHalf h) .network)) ∧
    (8 ≤ chan.val → head = true → (u.seamBarred h via chan head = true ↔ (via = .seam ∧ u.outstanding (otherHalf h) ≤ u.responsesFor h .seam) ∨
      (via = .network ∧ u.gated h = true ∧ 64 ≤ u.placesUsed h))) ∧
    (8 ≤ chan.val → head = false → (u.seamBarred h via chan head = true ↔ c.len = 0 ∨ 8 ≤ c.len)) ∧
    (s.sends h via edge = true → (s.seamAt k).last ≤ edge →
      (u.seamBarred h via chan head = true → exec (.seamEntryArrive die toEast ⟨via, chan⟩ e) s = .next u) ∧
      (u.seamBarred h via chan head = false →
        (u.gated h = true → 8 ≤ chan.val → ∃ w : State, (w.seamAt k).held = c.held ++ [(e, false)] ∧ (w.seamAt k).credits = c.credits ∧
          (w.seamAt k).last = edge + 1 ∧ (∀ j, j ≠ k → w.seamAt j = u.seamAt j) ∧
          (head = true → w.get (holdField h) die = (u.get (holdField h) die + 1) % 2 ^ (holdField h).width) ∧
          (head = false → w.regs = u.regs) ∧ u.fieldsBut w [(holdField h, die.val)] ∧ { w with regs := u.regs, seam := u.seam } = u ∧
          exec (.seamEntryArrive die toEast ⟨via, chan⟩ e) s = .next (w.seamWake h)) ∧
        (u.gated h = false ∨ chan.val < 8 → c.credits = 0 → ∃ t, exec (.seamEntryArrive die toEast ⟨via, chan⟩ e) s = .next t ∧
          t.get Fld.SEAM_STALL_COUNT_count die = (u.get Fld.SEAM_STALL_COUNT_count die + 1) % 2 ^ Fld.SEAM_STALL_COUNT_count.width ∧
          t.seamAt k = { c with last := edge + 1 } ∧ (∀ j, j ≠ k → t.seamAt j = u.seamAt j) ∧
          u.fieldsBut t [(Fld.SEAM_STALL_COUNT_count, die.val), (Fld.SEAM_STATUS_stall_wrap, die.val)] ∧
          { t with regs := u.regs, seam := u.seam } = u) ∧
        (u.gated h = false ∨ chan.val < 8 → c.credits ≠ 0 → ∃ w : State, (w.seamAt k).held = c.held ++ [(e, true)] ∧
          (w.seamAt k).credits = c.credits - 1 ∧ (w.seamAt k).last = edge + 1 ∧ (∀ j, j ≠ k → w.seamAt j = u.seamAt j) ∧
          w.outstanding h = u.outstanding h + bit (head && decide (chan.val < 8) && via == .seam) ∧ w.regs = u.regs ∧
          { w with seam := u.seam, seamOut := u.seamOut } = u ∧
          exec (.seamEntryArrive die toEast ⟨via, chan⟩ e) s = .next (if u.gated h then w.seamWake h else w)))) ∧
    (s.seamWake h).get Fld.SEAM_WAKE_COUNT_count die =
      (s.get Fld.SEAM_WAKE_COUNT_count die + (s.halfCores h).length) % 2 ^ Fld.SEAM_WAKE_COUNT_count.width) ∧
  (∀ (x : SeamChan) (d t : Nat), 0 < d →
    (x.advance d t).2.map Prod.snd ++ (x.advance d t).1.held = x.held ∧
    (∀ y ∈ (x.advance d t).2, y.1 % d = 0 ∧ y.2.1.launch + 2 ≤ y.1 ∧ x.cap ≤ y.1 ∧ y.1 ≤ t) ∧
    (∀ e es, x.held = e :: es → ((x.advance d t).2 = [] ↔ ∀ n, n % d = 0 → e.1.launch + 2 ≤ n → x.cap ≤ n → t < n))) ∧
  ∀ (s : State) (t k : Nat) (y : Nat × SeamEntry × Bool),
    (s.divCode (keyHalf k) = 4 → s.seamChannel t k = s) ∧
    (s.divCode (keyHalf k) ≠ 4 → ∀ r, r = (s.seamAt k).advance (pointDivider (s.divCode (keyHalf k))) t →
      s.seamChannel t k = r.2.foldl (fun s x => s.captured k x) (s.setSeam k r.1)) ∧
    (s.captured k y).outbox = s.outbox ++ [.seam (keyHalf k) (k % 16) y.1 y.2.1.data]

/-- A bridge flit that fails its check is counted as sent again, poison is shown and reported, and a sub-link retires after 64 in
a ms or a failed retrain (R176, R177, R178, R643, R668, log entry 174). -/
def Obligations.BridgeFlitsAndSubLinks : Prop :=
  ∀ (s : State) (b : Fin 13) (sub : Fin 16) (ok poison : Bool) (e : Nat) (u : State), s.takeInjection 3 b = (e, u) →
    (bitOf (s.get Fld.FC_BRIDGE_STATUS_retired b) sub = true → exec (.bridgeFlitReceive b sub ok poison) s = .next s ∧
      exec (.subLinkLossOfLock b sub false) s = .next s) ∧
    exec (.subLinkLossOfLock b sub true) s = .next s ∧
    (bitOf (s.get Fld.FC_BRIDGE_STATUS_retired b) sub = false →
      (ok = true → e = 0 → exec (.bridgeFlitReceive b sub ok false) s = .next u ∧
        exec (.bridgeFlitReceive b sub ok true) s = .next ((u.set Fld.FC_BRIDGE_STATUS_poison_seen b 1).report 0x11 b 0).poisonTaken) ∧
      (ok = false ∨ e ≠ 0 → ∃ t, exec (.bridgeFlitReceive b sub ok false) s = .next t ∧
        exec (.bridgeFlitReceive b sub ok true) s = .next ((t.set Fld.FC_BRIDGE_STATUS_poison_seen b 1).report 0x11 b 0).poisonTaken ∧
        t.get Fld.FC_BRIDGE_REPLAY_count b = (u.get Fld.FC_BRIDGE_REPLAY_count b + 1) % 2 ^ Fld.FC_BRIDGE_REPLAY_count.width ∧
        (bitOf (t.get Fld.FC_BRIDGE_STATUS_retired b) sub = true ↔
          bitOf (u.get Fld.FC_BRIDGE_STATUS_retired b) sub = true ∨
          64 ≤ ((Sparse.get [] u.bridgeTimes (b.val * 16 + sub)).filter (fun x => decide (u.time < x + 1000))).length) ∧ s.bytesSame t) ∧
      ∃ t, exec (.subLinkLossOfLock b sub false) s = .next t ∧ bitOf (t.get Fld.FC_BRIDGE_STATUS_retired b) sub = true ∧
        bitOf (Sparse.get 0 t.service.subLinks b.val) sub = true ∧
        t.get Fld.FC_SRC_COUNT_count 0x10 = (s.get Fld.FC_SRC_COUNT_count 0x10 + 1) % 2 ^ Fld.FC_SRC_COUNT_count.width ∧
        s.copiesBut t (Fld.FC_BRIDGE_STATUS_retired :: reportFields) ∧ s.bytesSame t)

/-- A row-store write waits behind the reads of its line that arrived before it, which are served first, with the data before it; later
reads form a new group and see what was written (R154). -/
def Obligations.RowStoreWritesCloseWaitingReads : Prop :=
  ∀ (s : State) (row : Fin 32) (line : Fin 8192) (core : Fin 256) (b : Fin 64) (data : List Byte) (cycle bank : Nat) (u : State)
    (gs : List MergeGroup) (n : MergeGroup),
    bank = line.val % 16 → u = s.serveOverdue row bank cycle → gs = u.groupsAt row bank →
    n = { line := line, cores := [core.val], since := cycle, write := none } →
    (u.halted = false → u.segOwner row (line.val / 128) = some b.val →
      ((∀ g ∈ gs, g.line ≠ line.val) → exec (.rowStoreRead row line core b cycle) s = .next (u.setGroups row bank (gs ++ [n]))) ∧
      (∀ xs g ys, gs = xs ++ g :: ys → g.line = line.val → (∀ y ∈ ys, y.line ≠ line.val) →
        (g.write = none → exec (.rowStoreRead row line core b cycle) s =
          .next (u.setGroups row bank (xs ++ { g with cores := g.cores ++ [core.val] } :: ys))) ∧
        (g.write ≠ none → exec (.rowStoreRead row line core b cycle) s = .next (u.setGroups row bank (gs ++ [n])))) ∧
      ∃ t, exec (.rowStoreWrite row line core b data cycle) s = .next t ∧
        t.groupsAt row bank = gs ++ [{ n with write := some (data.take 512) }] ∧ { t with merge := u.merge } = u) ∧
    (u.halted = true ∨ u.segOwner row (line.val / 128) ≠ some b.val → exec (.rowStoreRead row line core b cycle) s = .next u ∧
      exec (.rowStoreWrite row line core b data cycle) s = .next u) ∧
    (∀ k : Fin 16, exec (.mergeWindowExpire row k cycle) s = .next (s.serveGroups row k (fun g => decide (s.waitsTo row g ≤ cycle)))) ∧
    (∀ g : MergeGroup, s.waitsTo row g = if g.write = none then g.since + s.mergeWait row else g.since) ∧
    (∀ (due : MergeGroup → Bool) (k : Nat), (s.serveGroups row k due).groupsAt row k =
      ((dueGroups due (s.groupsAt row k)).filter (fun g => !g.1)).map Prod.snd) ∧
    (∀ (due : MergeGroup → Bool) (xs ys : List MergeGroup) (g : MergeGroup), (dueGroups due (xs ++ g :: ys))[xs.length]? =
      some (due g || ys.any (fun h => h.line == g.line && due h), g)) ∧
    (∀ (g w : MergeGroup) (due : MergeGroup → Bool) (k : Nat) (bs : List Byte) (t : State), s.groupsAt row k = [g, w] → due w = true →
      g.write = none → w.write = some bs → bs.length = 512 → g.line = line.val → w.line = line.val →
      (∀ e ∈ s.rsPoison, e.1 / 64 ≠ row.val * 8192 + line.val) → t = s.serveGroups row k due →
      t.groupsAt row k = [] ∧
      t.outbox = s.outbox ++ g.cores.map (fun c => Sent.line row line.val c (s.rowStore.read (2 ^ 22 * row.val + 512 * line.val) 512)) ∧
      (∀ x, t.rowStore.byte x = if 2 ^ 22 * row.val + 512 * line.val ≤ x ∧ x < 2 ^ 22 * row.val + 512 * line.val + 512
        then bs.getD (x - (2 ^ 22 * row.val + 512 * line.val)) 0 else s.rowStore.byte x) ∧
      t.hbm = s.hbm ∧ t.sidecar = s.sidecar ∧ t.localStore = s.localStore ∧ t.tier4 = s.tier4) ∧
    (∀ (g : MergeGroup), g.write = none → (∀ e ∈ s.rsPoison, e.1 / 64 ≠ row.val * 8192 + g.line) →
      (s.serveGroup row g).outbox =
        s.outbox ++ g.cores.map (fun c => Sent.line row g.line c (s.rowStore.read (2 ^ 22 * row.val + 512 * g.line) 512)))

/-- An arbiter grants the highest priority, then the highest rank; a new owner drops to the lowest rank; a port grants at a flit
time; the budget windows start from zero (R151, R445, R480, R481, R482, R483, log entry 12, log entry 179). -/
def Obligations.ArbiterGrantsTheHighestPriority : Prop :=
  (∀ (prio : ArbReq → Nat) (ranks : List Nat) (reqs : List ArbReq) (w : ArbReq), winner prio ranks reqs = some w →
      w ∈ reqs ∧ ∀ r ∈ reqs, prio r ≤ prio w ∧ (prio r = prio w → ranks.idxOf w.requester ≤ ranks.idxOf r.requester)) ∧
  (∀ (prio : ArbReq → Nat) (a : Arb) (reqs : List ArbReq) (o : ArbReq), o ∈ reqs → a.owner = some o.requester →
      ((∀ r ∈ reqs, r.requester = o.requester) → verdict prio a reqs = .keeps) ∧
      ((∃ r ∈ reqs, r.requester ≠ o.requester) → 256 ≤ a.beats → verdict prio a reqs = .cuts)) ∧
  (∀ (s : State) (arb : ArbId) (reqs : List ArbReq) (a : Arb) (cands pool : List ArbReq) (v : Verdict),
    a = s.arbAt (arbKey arb) → cands = s.considered arb reqs → v = verdict (s.priorityAt arb) a cands →
    pool = (if v = .keeps ∨ v = .cuts then cands.filter (fun r => (a.owner == some r.requester) == (v == .keeps)) else cands) →
    (winner (s.priorityAt arb) (withRanks a.ranks cands) pool = none → s.decideBeat arb reqs = s.noBeat arb) ∧
    (∀ w, winner (s.priorityAt arb) (withRanks a.ranks cands) pool = some w →
      ∃ t : State, s.decideBeat arb reqs = t.beat arb w ∧ (t.arbAt (arbKey arb)).owner = some w.requester ∧
        (t.arbAt (arbKey arb)).beats = (if a.owner = some w.requester then a.beats + 1 else 1) ∧
        (a.owner ≠ some w.requester → (t.arbAt (arbKey arb)).ranks.getLast? = some w.requester) ∧
        Sparse.get 0 (t.arbAt (arbKey arb)).progress w.requester = (if w.begun then Sparse.get 0 a.progress w.requester else 0) + 1 ∧
        (t.arbAt (arbKey arb)).hogs = (match arb with
          | .port _ => a.hogs
          | _ => if v = .cuts then a.hogs + 1 else a.hogs) ∧
        (∀ k, k ≠ arbKey arb → t.arbAt k = s.arbAt k) ∧ s.bytesSame t)) ∧
  ∀ (s : State) (reqs : List ArbReq) (ch : Fin 256) (row : Fin 32) (b : Fin 16) (p : Fin 80) (w : ArbReq) (g : MergeGroup),
    exec (.arbiterDecision (.channel ch) reqs) s = .next (s.decideBeat (.channel ch) reqs) ∧
    exec (.arbiterDecision (.bank row b) reqs) s = .next (s.decideBeat (.bank row b) reqs) ∧
    (∀ u, u = s.intake →
      (u.portState p ≠ 1 → u.sendsFlits p = false → exec (.arbiterDecision (.port p) reqs) s = .next (u.decideBeat (.port p) reqs)) ∧
      (u.portState p = 1 ∨ u.sendsFlits p = true →
        (u.linkBlocked p = true → exec (.arbiterDecision (.port p) reqs) s = .next u) ∧
        (u.linkBlocked p = false → ∀ t, u.linkBeat p = some t → exec (.arbiterDecision (.port p) reqs) s = .next t) ∧
        (u.linkBlocked p = false → u.linkBeat p = none →
          exec (.arbiterDecision (.port p) reqs) s = .next (u.decideBeat (.port p) reqs)))) ∧
    (s.noBeat (.channel ch) = s ∧ s.noBeat (.bank row b) = s ∧ s.noBeat (.port p) = (if s.sendsFlits p then s.idleBeat p else s)) ∧
    (s.beat (.channel ch) w = s ∧ s.beat (.port p) w = (if s.sendsFlits p then s.packetBeat p w else s)) ∧
    ((s.groupsAt row b).find? (fun x => x.cores.contains w.requester && (s.groupsAt row b).find? (fun y => y.line == x.line) == some x) = some g →
      s.beat (.bank row b) w = (s.setGroups row b ((s.groupsAt row b).erase g)).serveGroup row g) ∧
    (∀ edge, edge = s.run.rootEdge / 16384 * 16384 →
      (s.windowEdge < edge →
        exec .budgetWindow s = .next { s with granted := [], chanBytes := [], chanBack := [], windowEdge := edge }) ∧
      (edge ≤ s.windowEdge → exec .budgetWindow s = .next s))

/-- A write of XL_EDIT_CMD is stored; with go and no edit in progress it is refused by code or performed: INVALIDATE drops what caches
hold, objects change generation, frames change hands (R394, R409, R426, R427, R429, R438, R738, log entry 97). -/
def Obligations.EditsTakeOrderAndReportErrors : Prop :=
  ∀ (s : State) (p : Fin 32) (v : Word32) (u : State) (b h n a : Nat),
    u = s.editStore p v.toNat → b = u.editBasket p → h = u.get Fld.XL_EDIT_OBJ_handle p → n = u.editCount p → a = u.editAddr p →
    (∀ x ∈ [(0, Instr.editInvalidate p v), (1, .editUnmap p v), (2, .editSetRights p v), (3, .editObjCreate p v), (4, .editObjFree p v),
        (5, .editFrameReserve p v), (6, .editFrameRelease p v)],
      (s.agentAsleep (.host p) = true ∨ v.toNat % 16 ≠ x.1 → exec x.2 s = .next s) ∧
      (s.agentAsleep (.host p) = false → v.toNat % 16 = x.1 →
        (bitOf v.toNat 16 = false ∨ s.flag Fld.XL_EDIT_CMD_busy p = true → exec x.2 s = .next u) ∧
        (bitOf v.toNat 16 = true → s.flag Fld.XL_EDIT_CMD_busy p = false →
          (bitsOf v.toNat 13 3 ≠ 0 ∨ bitsOf v.toNat 24 8 ≠ 0 → exec x.2 s = .next (u.editError p 4)) ∧
          (bitsOf v.toNat 13 3 = 0 → bitsOf v.toNat 24 8 = 0 →
            (u.basketOwner b ≠ some p.val → exec x.2 s = .next (u.editError p 1)) ∧
            (u.basketOwner b = some p.val → n = 0 → x.1 ≠ 4 → exec x.2 s = .next (u.editError p 4)))))) ∧
    (s.agentAsleep (.host p) = false → s.flag Fld.XL_EDIT_CMD_busy p = false → bitOf v.toNat 16 = true → bitsOf v.toNat 13 3 = 0 →
      bitsOf v.toNat 24 8 = 0 → u.basketOwner b = some p.val →
      (n ≠ 0 → ∀ x ∈ [(0, Instr.editInvalidate p v), (1, .editUnmap p v), (2, .editSetRights p v)], v.toNat % 16 = x.1 →
        exec x.2 s = .next (u.editRange x.1 p) ∧
        ∃ t, exec x.2 s = .next t ∧
          ((t.get Fld.XL_EDIT_CMD_done p = 1 ∧ t.get Fld.XL_EDIT_CMD_busy p = 0) ∨
            ∃ e ∈ t.edits, e.part = p.val ∧ e.op = x.1 ∧ e.basket = b ∧ e.va = a ∧ e.pages = n)) ∧
      (n ≠ 0 → v.toNat % 16 = 0 →
        (∀ m ∈ u.moves, m.basket = b → m.va < a ∨ a + n * 65536 ≤ m.va) →
        (∀ e ∈ u.shards, u.slotBasket e.1 = b → ∀ o ∈ e.2.ops, ∀ g ∈ o.pages, g < a ∨ a + n * 65536 ≤ g) →
        (∀ d ∈ u.deferred, d.basket = b → d.away = none → d.va / 65536 * 65536 < a ∨ a + n * 65536 ≤ d.va / 65536 * 65536) →
        u.unwritten b a (n * 65536) = false →
        ∃ t, exec (.editInvalidate p v) s = .next t ∧ t.get Fld.XL_EDIT_CMD_done p = 1 ∧ t.get Fld.XL_EDIT_CMD_busy p = 0 ∧
          (∀ e ∈ t.tlb1 ++ t.tlb2, ∀ x ∈ e.2, x.basket = b → a + n * 65536 ≤ x.page * 2 ^ x.shift ∨ (x.page + 1) * 2 ^ x.shift ≤ a) ∧
          (∀ e ∈ t.walkCache, ∀ x ∈ e.2, x.basket ≠ b) ∧ s.bytesSame t) ∧
      (∀ (d : DevRead) (asked : List Nat) (w : State), (u.set Fld.XL_EDIT_CMD_busy p 1).tableReady b [] [] = (d, asked, w) →
        (n ≠ 0 → v.toNat % 16 = 3 →
          (d = .away → exec (.editObjCreate p v) s = .next { w with edits := w.edits ++
            [{ Edit.begin p 3 b a n h (u.get Fld.XL_EDIT_GEN_generation p) with asked := asked }] }) ∧
          (d ≠ .away → (∀ bs, d ≠ .ok bs) → exec (.editObjCreate p v) s = .next (w.editError p 6)) ∧
          (∀ bs, d = .ok bs →
            (w.get Fld.PG_OBJ_ENTRIES_entries b ≤ h ∨ (w.objAt b h).state ≠ 0 → exec (.editObjCreate p v) s = .next (w.editError p 3)) ∧
            (h < w.get Fld.PG_OBJ_ENTRIES_entries b → (w.objAt b h).state = 0 → w.objOverlap b a n = true →
              exec (.editObjCreate p v) s = .next (w.editError p 2)) ∧
            (h < w.get Fld.PG_OBJ_ENTRIES_entries b → (w.objAt b h).state = 0 → w.objOverlap b a n = false →
              ∀ g, g = ((w.objAt b h).generation + 1) % 2 ^ 32 →
              ∃ t, exec (.editObjCreate p v) s = .next t ∧ t.get Fld.XL_EDIT_GEN_generation p = g ∧ t.get Fld.XL_EDIT_CMD_done p = 1 ∧
                t.get Fld.XL_EDIT_CMD_busy p = 0 ∧
                (w.setObj b h { generation := g, state := 1, base := a, pages := n, pins := 0 }).onlyFields t
                  [(Fld.XL_EDIT_GEN_generation, p.val), (Fld.XL_EDIT_CMD_busy, p.val), (Fld.XL_EDIT_CMD_done, p.val)]))) ∧
        (v.toNat % 16 = 4 →
          (d = .away → exec (.editObjFree p v) s = .next { w with edits := w.edits ++
            [{ Edit.begin p 4 b a n h (u.get Fld.XL_EDIT_GEN_generation p) with asked := asked }] }) ∧
          (d ≠ .away → (∀ bs, d ≠ .ok bs) → exec (.editObjFree p v) s = .next (w.editError p 6)) ∧
          (∀ bs, d = .ok bs →
            (w.get Fld.PG_OBJ_ENTRIES_entries b ≤ h ∨ (w.objAt b h).state ≠ 1 ∨ (w.objAt b h).generation ≠ u.get Fld.XL_EDIT_GEN_generation p →
              exec (.editObjFree p v) s = .next (w.editError p 3)) ∧
            (h < w.get Fld.PG_OBJ_ENTRIES_entries b → (w.objAt b h).state = 1 →
              (w.objAt b h).generation = u.get Fld.XL_EDIT_GEN_generation p →
              ∀ g, g = ((w.objAt b h).generation + 1) % 2 ^ 32 →
              exec (.editObjFree p v) s = .next (((w.setObj b h { w.objAt b h with generation := g, state := 2 }).editDone p).releaseObject b h) ∧
              ∃ t, exec (.editObjFree p v) s = .next t ∧ t.get Fld.XL_EDIT_CMD_done p = 1 ∧ t.get Fld.XL_EDIT_CMD_busy p = 0 ∧
                (t.objAt b h).generation = g ∧ ((t.objAt b h).state = 0 ∨ (t.objAt b h).state = 2))))) ∧
      (n ≠ 0 → ∀ x ∈ [(5, Instr.editFrameReserve p v, FrameUse.free), (6, .editFrameRelease p v, .reserved)], v.toNat % 16 = x.1 →
        (u.framesInPiece b (u.editFrames p) = false → exec x.2.1 s = .next (u.editError p 1)) ∧
        (u.framesInPiece b (u.editFrames p) = true → (∃ f ∈ u.editFrames p, u.frameUse f ≠ x.2.2) →
          exec x.2.1 s = .next (u.editError p 5))) ∧
      (n ≠ 0 → v.toNat % 16 = 5 → u.framesInPiece b (u.editFrames p) = true → (∀ f ∈ u.editFrames p, u.frameUse f = .free) →
        (u.get Fld.PG_FREE_FRAMES_frames b < u.counted (u.editFrames p) → exec (.editFrameReserve p v) s = .next (u.editError p 5)) ∧
        (u.counted (u.editFrames p) ≤ u.get Fld.PG_FREE_FRAMES_frames b →
          ∃ t, exec (.editFrameReserve p v) s = .next t ∧
            (∀ f, t.frameUse f = if f ∈ u.editFrames p then .reserved else u.frameUse f) ∧
            t.get Fld.PG_FREE_FRAMES_frames b = (u.get Fld.PG_FREE_FRAMES_frames b - u.counted (u.editFrames p)) % 2 ^ 24 ∧
            t.get Fld.XL_EDIT_CMD_done p = 1 ∧ u.fieldsBut t [(Fld.PG_FREE_FRAMES_frames, b), (Fld.XL_EDIT_CMD_done, p.val)] ∧
            { t with regs := u.regs, frames := u.frames } = u)) ∧
      (n ≠ 0 → v.toNat % 16 = 6 → u.framesInPiece b (u.editFrames p) = true → (∀ f ∈ u.editFrames p, u.frameUse f = .reserved) →
        ∃ t, exec (.editFrameRelease p v) s = .next t ∧
          (∀ f, t.frameUse f = if f ∈ u.editFrames p then .free else u.frameUse f) ∧
          t.get Fld.PG_FREE_FRAMES_frames b = (u.get Fld.PG_FREE_FRAMES_frames b + u.counted (u.editFrames p)) % 2 ^ 24 ∧
          t.get Fld.XL_EDIT_CMD_done p = 1 ∧ u.fieldsBut t [(Fld.PG_FREE_FRAMES_frames, b), (Fld.XL_EDIT_CMD_done, p.val)] ∧
          { t with regs := u.regs, frames := u.frames } = u))

/-- A heat epoch ages every page and clears every accessed bit; a move with all its bytes ends and frees what waits; a drained
edit goes on (R409, R412, R419, log entry 27). -/
def Obligations.HeatEpochsMovesAndDrainedEdits : Prop :=
  ∀ (s : State) (id : Nat) (p : Fin 32),
    (∃ t, exec .heatEpoch s = .next t ∧
      t.heat = s.frames.foldl (fun m e => match e.2 with
        | .page _ => Sparse.set 0 m e.1 (Sparse.get 0 s.heat e.1 / 2 +
            if ∃ c ∈ s.tlb2, ∃ x ∈ c.2, x.shift = 16 ∧ x.accessed = true ∧ x.phys / 65536 = e.1 then 128 else 0)
        | _ => m) s.heat ∧
      (∀ c ∈ t.tlb2, ∀ x ∈ c.2, x.accessed = false) ∧ t.tlb2.map Prod.fst = s.tlb2.map Prod.fst ∧
      { t with heat := s.heat, tlb2 := s.tlb2 } = s) ∧
    (∀ m, s.moves.find? (fun m => m.id == id) = some m →
      (s.moveReady m = false → exec (.pageMoveDone id) s = .next s) ∧
      (s.moveReady m = true → ∀ u v : State, u = s.endMove m → v = (if u.inKvPool m.basket m.va then u.countKv m.basket else u) →
        exec (.pageMoveDone id) s = .next (((v.bump64 Fld.FC_ENG_PROGRESS_LO_lo Fld.FC_ENG_PROGRESS_HI_hi
          (256 + m.engine) 1024).moveOver id).afterMoves) ∧
        ∃ t, exec (.pageMoveDone id) s = .next t)) ∧
    (s.moves.find? (fun m => m.id == id) = none → exec (.pageMoveDone id) s = .next s) ∧
    ((∀ x ∈ s.edits, x.part ≠ p.val) → exec (.editDrainDone p) s = .next s) ∧
    (∀ (x : Edit) (xs ys : List Edit), s.edits = xs ++ x :: ys → x.part = p.val → (∀ y ∈ xs ++ ys, y.part ≠ p.val) →
      exec (.editDrainDone p) s = .next ({ s with edits := xs ++ ys }.editRun x)) ∧
    (∀ x : Edit, x.part = p.val → x.op ≤ 2 →
      (s.editHeld x = true → x.moving = true → s.editRun x = { s with edits := s.edits ++ [x] }) ∧
      ((∀ m ∈ s.moves, m.basket = x.basket → x.covers m.va = false) →
        (∀ d ∈ s.deferred, d.basket = x.basket → d.away = none → x.covers (d.va / 65536 * 65536) = false) →
        (∀ e ∈ s.shards, s.slotBasket e.1 = x.basket → ∀ o ∈ e.2.ops, o.pages.any x.covers = false) →
        s.unwritten x.basket x.va (x.pages * 65536) = false →
        (s.editRun x).get Fld.XL_EDIT_CMD_done p = 1 ∧ (s.editRun x).get Fld.XL_EDIT_CMD_busy p = 0))

/-- A submission write of 64 aligned bytes enters an open queue with room; a pop takes the oldest item; everything else is dropped
and counted, or reads zeros (R336, R338, R340, R341, R342, R343, R344, R345, R515, log entry 95, log entry 146, log entry 171). -/
def Obligations.QueuesTakeAndGiveEntries : Prop :=
  ∀ (s : State) (p : Fin 32) (q : Fin 1024) (off : BitVec 12) (bytes : List Byte) (ide : Bool) (len : Nat) (ctx : Fin 2048),
    (s.halted = true ∨ s.asleep p = true →
      exec (.submissionWrite p q off bytes ide) s = .next s ∧ exec (.completionPop p q off len) s = .next s) ∧
    (s.halted = true → exec (.queueFill q) s = .next s ∧ exec (.completionPost ctx) s = .next s) ∧
    (s.halted = false → s.asleep p = false → s.underLid p = true → exec (.submissionWrite p q off bytes false) s = .next (s.tdispError p)) ∧
    (s.halted = false → s.asleep p = false → (s.underLid p = true → ide = true) →
      (s.flag Fld.WVR_Q_CFG_valid q = false ∨ s.flag Fld.WVR_Q_CFG_kind q = true ∨ s.queueOwner q ≠ some p.val ∨
        (s.underLid p = true ∧ s.get Fld.LID_PART_tdisp p ≠ 2) → exec (.submissionWrite p q off bytes ide) s = .next s) ∧
      (s.flag Fld.WVR_Q_CFG_valid q = true → s.flag Fld.WVR_Q_CFG_kind q = false → s.queueOwner q = some p.val →
        (s.underLid p = true → s.get Fld.LID_PART_tdisp p = 2) →
        (∀ why : Field, ((bytes.length ≠ 64 ∨ off.toNat % 64 ≠ 0) ∧ why = Fld.WVR_Q_STATUS_partial) ∨
            (bytes.length = 64 ∧ off.toNat % 64 = 0 ∧ s.flag Fld.WVR_Q_CTRL_closed q = true ∧ why = Fld.WVR_Q_STATUS_closed_drop) ∨
            (bytes.length = 64 ∧ off.toNat % 64 = 0 ∧ s.flag Fld.WVR_Q_CTRL_closed q = false ∧ s.queueDepth q ≤ s.queueHeld q ∧
              s.flag Fld.WVR_Q_CTRL_overrun_event_en q = false ∧ why = Fld.WVR_Q_STATUS_overrun) →
          ∃ t, exec (.submissionWrite p q off bytes ide) s = .next t ∧ t.get why q = 1 ∧
            t.get Fld.WVR_Q_DROP_COUNT_count q = (s.get Fld.WVR_Q_DROP_COUNT_count q + 1) % 2 ^ Fld.WVR_Q_DROP_COUNT_count.width ∧
            s.onlyFields t [(why, q.val), (Fld.WVR_Q_DROP_COUNT_count, q.val), (Fld.WVR_Q_STATUS_drop_wrap, q.val)]) ∧
        (bytes.length = 64 → off.toNat % 64 = 0 → s.flag Fld.WVR_Q_CTRL_closed q = false → s.queueHeld q < s.queueDepth q →
          exec (.submissionWrite p q off bytes ide) s = .next (s.pushEntry q bytes) ∧
          (s.flag Fld.WVR_Q_CTRL_note_en q = false → (s.queueAt q).ring = 0 → (s.queueAt q).tail = [] → (s.queueAt q).head.length < 8 →
            ∃ t, exec (.submissionWrite p q off bytes ide) s = .next t ∧
              t.queueAt q = { s.queueAt q with head := (s.queueAt q).head ++ [bytes] } ∧ (∀ k, k ≠ q.val → t.queueAt k = s.queueAt k) ∧
              t.get Fld.WVR_Q_PROD_count q = (s.get Fld.WVR_Q_PROD_count q + 1) % 2 ^ 32 ∧
              s.fieldsBut t [(Fld.WVR_Q_PROD_count, q.val), (Fld.WVR_Q_STATUS_head_buf, q.val), (Fld.WVR_Q_STATUS_tail_buf, q.val),
                (Fld.WVR_Q_STATUS_spilled, q.val)] ∧ { t with regs := s.regs, queues := s.queues } = s)))) ∧
    (s.halted = false → s.asleep p = false →
      s.flag Fld.WVR_Q_CFG_valid q = false ∨ s.flag Fld.WVR_Q_CFG_kind q = false ∨ s.queueOwner q ≠ some p.val ∨
        (s.underLid p = true ∧ s.get Fld.LID_PART_tdisp p ≠ 2) ∨ len ≠ 64 ∨ off.toNat % 64 ≠ 0 →
      exec (.completionPop p q off len) s = .next { s with outbox := s.outbox ++ [.bytes p (List.replicate len 0)] }) ∧
    (s.halted = false → s.asleep p = false → s.flag Fld.WVR_Q_CFG_valid q = true → s.flag Fld.WVR_Q_CFG_kind q = true →
      s.queueOwner q = some p.val → (s.underLid p = true → s.get Fld.LID_PART_tdisp p = 2) → off.toNat % 64 = 0 →
      ((s.queueAt q).head = [] → (s.queueAt q).ring = 0 →
        exec (.completionPop p q off 64) s = .next { s with outbox := s.outbox ++ [.bytes p (List.replicate 64 0)] }) ∧
      (∀ x rest, (s.queueAt q).head = x :: rest → (s.queueAt q).reads = [] → s.flag Fld.WVR_Q_CTRL_note_en q = false →
        (s.queueAt q).tail = [] →
        ∃ t, exec (.completionPop p q off 64) s = .next t ∧ t.outbox = s.outbox ++ [.bytes p x] ∧
          t.queueAt q = { s.queueAt q with head := rest } ∧ (∀ k, k ≠ q.val → t.queueAt k = s.queueAt k) ∧
          t.get Fld.WVR_Q_CONS_count q = (s.get Fld.WVR_Q_CONS_count q + 1) % 2 ^ 32 ∧
          s.fieldsBut t [(Fld.WVR_Q_CONS_count, q.val), (Fld.WVR_Q_STATUS_head_buf, q.val), (Fld.WVR_Q_STATUS_tail_buf, q.val),
            (Fld.WVR_Q_STATUS_spilled, q.val)] ∧ { t with regs := s.regs, queues := s.queues, outbox := s.outbox } = s) ∧
      (∀ w, w = s.setQueue q { s.queueAt q with reads := (s.queueAt q).reads ++ [p.val] } →
        ((s.queueAt q).head ≠ [] → exec (.completionPop p q off 64) s = .next (w.serveReads q 1)) ∧
        ((s.queueAt q).head = [] → (s.queueAt q).ring ≠ 0 → exec (.completionPop p q off 64) s = .next (w.fillQueue q) ∧
          ∀ (x : DevRead) (u : State), w.devRead (w.queueBasket q) (w.ctxAt (w.get Fld.WVR_Q_CFG_context q)).fetched
              (w.ringSlot q (w.get Fld.WVR_Q_CONS_count q)) 64 0 (w.get Fld.WVR_Q_CFG_context q) = (x, u) →
            ((∀ bs, x ≠ .ok bs) → exec (.completionPop p q off 64) s = .next u) ∧
            (∀ bs, x = .ok bs → (s.queueAt q).reads = [] → (s.queueAt q).tail = [] → u.flag Fld.WVR_Q_CTRL_note_en q = false →
              ∃ t, exec (.completionPop p q off 64) s = .next t ∧ t.outbox = u.outbox ++ [.bytes p bs] ∧
                t.queueAt q = { s.queueAt q with ring := (s.queueAt q).ring - 1 } ∧
                t.get Fld.WVR_Q_CONS_count q = (u.get Fld.WVR_Q_CONS_count q + 1) % 2 ^ 32)))) ∧
    (s.halted = false → ∀ x k, (s.ctxAt ctx).item = some x → s.ctxQueue ctx 1 = some k →
      (s.queueHeld k < s.queueDepth k → exec (.completionPost ctx) s = .next ((s.pushEntry k x).cmdOver ctx)) ∧
      (s.queueDepth k ≤ s.queueHeld k → exec (.completionPost ctx) s = .next s)) ∧
    (s.halted = false → (s.ctxAt ctx).item ≠ none → s.ctxQueue ctx 1 = none → exec (.completionPost ctx) s = .next (s.cmdOver ctx)) ∧
    ((s.ctxAt ctx).item = none → exec (.completionPost ctx) s = .next s) ∧
    ((s.queueAt q).ring = 0 ∨ 8 ≤ (s.queueAt q).head.length → exec (.queueFill q) s = .next s ∧ s.fillQueue q = s) ∧
    (∀ bs u, (s.queueAt q).ring ≠ 0 → (s.queueAt q).head.length < 8 →
      s.devRead (s.queueBasket q) (s.ctxAt (s.get Fld.WVR_Q_CFG_context q)).fetched
        (s.ringSlot q (s.get Fld.WVR_Q_CONS_count q + (s.queueAt q).head.length)) 64 0 (s.get Fld.WVR_Q_CFG_context q) = (.ok bs, u) →
      ∀ w, w = (u.setQueue q { s.queueAt q with head := (s.queueAt q).head ++ [bs], ring := (s.queueAt q).ring - 1 }).queueSettle q →
      (s.halted = false → exec (.queueFill q) s = .next (w.serveReads q 8)) ∧
      ((s.queueAt q).reads = [] → w.serveReads q 8 = w)) ∧
    (s.flag Fld.WVR_Q_CTRL_note_en q = false → s.notify q = s) ∧
    (s.flag Fld.WVR_Q_CTRL_note_en q = true → ∀ va line,
      va = 2 ^ 6 * s.get Fld.WVR_Q_NOTE_LO_addr_lo q + 2 ^ 32 * s.get Fld.WVR_Q_NOTE_HI_addr_hi q →
      line = leBytes 4 (s.get Fld.WVR_Q_PROD_count q) ++ leBytes 4 (s.get Fld.WVR_Q_CONS_count q) ++ leBytes 2 q ++ List.replicate 54 0 →
      (∀ u, s.devWrites (s.queueBasket q) va line = (.done, u) → s.notify q = (if u.flag Fld.HI_QVEC_irq_en q = true then
        u.sendMsix (u.get Fld.CAP_BASKET_partition (u.queueBasket q)) (u.get Fld.HI_QVEC_vector q) else u)) ∧
      (∀ u, s.devWrites (s.queueBasket q) va line = (.dropped, u) → s.notify q = u) ∧
      (∀ u, s.devWrites (s.queueBasket q) va line = (.later, u) →
        s.notify q = u.setQueue q { u.queueAt q with notes := (u.queueAt q).notes ++ [(u.queueBasket q, va)] }))

/-- An idle context takes the command at the head of its queue; a malformed one ends refused; a kernel starts, resumes, gathers
counts and times out (R346, R348, R349, R351, R186, R189, R372, R680, log entry 93, log entry 95, log entry 142, log entry 143).
-/
def Obligations.CommandsAreTakenInOrderAndRefused : Prop :=
  ∀ (s : State) (ctx : Fin 2048) (src : ModuleId) (pkt : Packet) (block : CountBlock) (uid kid : BitVec 64),
    (s.halted = true ∨ s.get Fld.WVR_CTX_STATE_state ctx ≠ 1 ∨ (s.ctxAt ctx).cmd ≠ none ∨ s.flag Fld.WVR_CTX_CTRL_stop ctx = true →
      ∀ w, s.takeCmd ctx w = none) ∧
    (∀ k u, s.takeCmd ctx (fun o => o == 0 || decide (4 < o)) = some (k, true, u) → exec (.cmdIdle ctx) s = .next (u.finishCmd ctx 2 1 0)) ∧
    (∀ k u, s.takeCmd ctx (fun o => o == 0 || decide (4 < o)) = some (k, false, u) →
      ∃ t, exec (.cmdIdle ctx) s = .next t ∧ (t.ctxAt ctx).cmd = none ∧ t.queues = u.queues ∧ t.regs = u.regs ∧
        { t with contexts := u.contexts } = u) ∧
    (s.takeCmd ctx (fun o => o == 0 || decide (4 < o)) = none → exec (.cmdIdle ctx) s = .next s) ∧
    (∀ k u, (s.passBoundary ctx).takeCmd ctx (· == 1) = some (k, true, u) → exec (.cmdKernel ctx) s = .next (u.finishCmd ctx 2 1 0)) ∧
    (∀ k u, (s.passBoundary ctx).takeCmd ctx (· == 1) = some (k, false, u) → exec (.cmdKernel ctx) s = .next (u.kernelStart ctx)) ∧
    ((s.passBoundary ctx).takeCmd ctx (· == 1) = none →
      ((s.ctxAt ctx).cmd = none ∨ (s.ctxAt ctx).kernel ≠ none ∨ (s.ctxAt ctx).item ≠ none → exec (.cmdKernel ctx) s = .next s) ∧
      (∀ k, (s.ctxAt ctx).cmd = some k → (s.ctxAt ctx).kernel = none → (s.ctxAt ctx).item = none →
        exec (.cmdKernel ctx) s = .next (if k.opcode = 1 then s.kernelStart ctx else s))) ∧
    (∀ k, (s.ctxAt ctx).cmd = some k → (s.ctxAt ctx).kernel = none → (s.ctxAt ctx).item = none → k.opcode = 1 →
      exec (.kernelStartResume ctx) s = .next (s.kernelStart ctx)) ∧
    ((s.ctxAt ctx).kernel ≠ none → (s.ctxAt ctx).item = none → exec (.kernelStartResume ctx) s = .next (s.kernelResume ctx)) ∧
    ((s.ctxAt ctx).item ≠ none → exec (.kernelStartResume ctx) s = .next s) ∧
    (∀ b u, s.admits pkt 8 b → u = s.packetTaken pkt →
      (bitsOf pkt.args.toNat 0 8 ≠ 0 ∨ u.ctxBasket ctx ≠ b → exec (.countBlock ctx pkt block) s = .next u) ∧
      (bitsOf pkt.args.toNat 0 8 = 0 → u.ctxBasket ctx = b →
        ((u.ctxAt ctx).kernel = none → exec (.countBlock ctx pkt block) s = .next u) ∧
        (∀ k, (u.ctxAt ctx).kernel = some k →
          (fieldAt k.desc 0 8 = pkt.ref.toNat → u.isLead k.desc = true → k.result = none → k.short = false → pkt.src.toNat ≠ u.me →
            (∃ x ∈ k.rankMap, x.1 = pkt.src.toNat) → (∀ x ∈ k.blocks, x.1 ≠ pkt.src.toNat) →
            ∀ n w, n = { k with blocks := k.blocks ++ [(pkt.src.toNat, block)] } → w = u.onKernel ctx (fun _ => n) →
            exec (.countBlock ctx pkt block) s = .next (if n.gathering && w.gathered n then w.kernelFinish ctx else w)) ∧
          (fieldAt k.desc 0 8 ≠ pkt.ref.toNat ∨ u.isLead k.desc = false ∨ k.result ≠ none ∨ k.short = true ∨ pkt.src.toNat = u.me ∨
              (∀ x ∈ k.rankMap, x.1 ≠ pkt.src.toNat) ∨ (∃ x ∈ k.blocks, x.1 = pkt.src.toNat) →
            exec (.countBlock ctx pkt block) s = .next u)))) ∧
    ((∀ c ∈ s.contexts, c.2.kernel = none) → exec (.spanOpen src uid kid) s = .next { s with
      spanMsgs := if s.spanMsgs.contains (uid.toNat, kid.toNat) then s.spanMsgs else s.spanMsgs ++ [(uid.toNat, kid.toNat)] }) ∧
    (∀ c u, s.contexts.find? (fun c => match c.2.kernel with
        | none => false
        | some k => k.waiting == some .span && fieldAt k.desc 0 8 == kid.toNat && s.basketUid (s.ctxBasket c.1) == uid.toNat && kLead k.desc == src.toNat) = some c →
      u = { s with spanMsgs := if s.spanMsgs.contains (uid.toNat, kid.toNat) then s.spanMsgs else s.spanMsgs ++ [(uid.toNat, kid.toNat)] } →
      exec (.spanOpen src uid kid) s = .next (u.kernelSpan c.1)) ∧
    (∀ k, (s.ctxAt ctx).kernel = some k →
      (s.pastDeadline k.since = false ∨ k.result ≠ none → exec (.weaverWaitTimeout ctx) s = .next s) ∧
      (s.pastDeadline k.since = true → k.result = none → k.waiting = some .ready ∨ k.waiting = some .span →
        exec (.weaverWaitTimeout ctx) s = .next ((s.startFault ctx 0x0E (kLead k.desc) 0).timeoutSeen ctx)) ∧
      (s.pastDeadline k.since = true → k.result = none → k.waiting = none → k.gathering = true → s.gathered k = false →
        exec (.weaverWaitTimeout ctx) s =
          .next (((s.onKernel ctx (fun k => { k with short := true })).kernelFinish ctx).timeoutSeen ctx))) ∧
    ((s.ctxAt ctx).kernel = none → (s.ctxAt ctx).step = none → exec (.weaverWaitTimeout ctx) s = .next s)

/-- A batch step waits for the operations on its sequences, is applied or refused as a whole, and its joins stand only where every
module admits them (R268, R269, R270, R279, R281, R734, log entry 149, log entry 158). -/
def Obligations.BatchStepsAreAdmittedTogether : Prop :=
  ∀ (s : State) (ctx : Fin 2048) (pkt : Packet) (n : BitVec 64) (bits : List Bool),
    (∀ k u, s.takeCmd ctx (· == 2) = some (k, true, u) → exec (.cmdBatchStep ctx) s = .next (u.finishCmd ctx 2 1 0)) ∧
    (∀ k u, s.takeCmd ctx (· == 2) = some (k, false, u) →
      exec (.cmdBatchStep ctx) s = .next ((u.onCtx ctx (fun x => { x with stepRunning := true })).stepBegin ctx k)) ∧
    (s.takeCmd ctx (· == 2) = none → s.cmdIs ctx 2 = false ∨ (s.ctxAt ctx).step ≠ none → exec (.cmdBatchStep ctx) s = .next s) ∧
    (s.takeCmd ctx (· == 2) = none → s.cmdIs ctx 2 = true → (s.ctxAt ctx).step = none → ∀ k, (s.ctxAt ctx).cmd = some k →
      exec (.cmdBatchStep ctx) s = .next (s.stepBegin ctx k)) ∧
    ((s.ctxAt ctx).step = none → exec (.batchStepApply ctx) s = .next s) ∧
    (∀ b u, s.admits pkt 8 b → u = s.packetTaken pkt →
      (bitsOf pkt.args.toNat 0 8 ≠ 1 ∨ pkt.ref ≠ n ∨ u.ctxBasket ctx ≠ b →
        exec (.joinOutcomes ctx pkt ⟨n, bits⟩) s = .next u ∧ exec (.stepVerdict ctx ⟨pkt, n, bits⟩) s = .next u) ∧
      (bitsOf pkt.args.toNat 0 8 = 1 → pkt.ref = n → u.ctxBasket ctx = b →
        ((∀ r, (u.ctxAt ctx).step = some r → r.id ≠ n.toNat) → exec (.stepVerdict ctx ⟨pkt, n, bits⟩) s = .next u ∧
          (pkt.src.toNat = u.me ∨ (∃ o ∈ (u.ctxAt ctx).early, o.1 = n.toNat ∧ o.2.1 = pkt.src.toNat) →
            exec (.joinOutcomes ctx pkt ⟨n, bits⟩) s = .next u) ∧
          (pkt.src.toNat ≠ u.me → (∀ o ∈ (u.ctxAt ctx).early, o.1 ≠ n.toNat ∨ o.2.1 ≠ pkt.src.toNat) →
            ∃ t, exec (.joinOutcomes ctx pkt ⟨n, bits⟩) s = .next t ∧
              t.ctxAt ctx = { u.ctxAt ctx with early := (u.ctxAt ctx).early ++ [(n.toNat, pkt.src.toNat, bits)] } ∧
              (∀ k, k ≠ ctx.val → t.ctxAt k = u.ctxAt k) ∧ { t with contexts := u.contexts } = u)) ∧
        (∀ r, (u.ctxAt ctx).step = some r → r.id = n.toNat →
          (fieldAt r.record 0x0C 2 % 2 ^ 14 = u.me → pkt.src.toNat ≠ u.me → (∀ o ∈ r.outcomes, o.1 ≠ pkt.src.toNat) →
            exec (.joinOutcomes ctx pkt ⟨n, bits⟩) s = .next ((u.onCtx ctx (fun x => { x with
              step := some { r with outcomes := r.outcomes ++ [(pkt.src.toNat, bits)] } })).settleVerdicts ctx)) ∧
          (fieldAt r.record 0x0C 2 % 2 ^ 14 ≠ u.me ∨ pkt.src.toNat = u.me ∨ (∃ o ∈ r.outcomes, o.1 = pkt.src.toNat) →
            exec (.joinOutcomes ctx pkt ⟨n, bits⟩) s = .next u) ∧
          (r.awaits = true → fieldAt r.record 0x0C 2 % 2 ^ 14 = pkt.src.toNat → pkt.src.toNat ≠ u.me →
            exec (.stepVerdict ctx ⟨pkt, n, bits⟩) s = .next ((u.applyVerdicts ctx bits).stepFinish ctx false)) ∧
          (r.awaits = false ∨ fieldAt r.record 0x0C 2 % 2 ^ 14 ≠ pkt.src.toNat ∨ pkt.src.toNat = u.me →
            exec (.stepVerdict ctx ⟨pkt, n, bits⟩) s = .next u)))) ∧
    (∀ r, (s.ctxAt ctx).step = some r →
      (r.applied = true ∨ s.stepBusy (s.ctxBasket ctx) r.named = true → exec (.batchStepApply ctx) s = .next s) ∧
      (r.applied = false → s.stepBusy (s.ctxBasket ctx) r.named = false →
        (∀ entry code info, s.stepRefusal (s.ctxBasket ctx) r.record = some (entry, code, info) →
          exec (.batchStepApply ctx) s = .next ((match entry with
            | some i => s.entryStatus ctx i 3
            | none => s).stepEnd ctx (r.record.take 64) (RecordParts.plain (fieldAt r.record 0 8) 2 code 0 info))) ∧
        (s.stepRefusal (s.ctxBasket ctx) r.record = none → ∀ tokens copies, s.stepReads (s.ctxBasket ctx) r.record = (tokens, copies) →
          (∀ u, s.readStep ctx 1 tokens = (.away, u) → exec (.batchStepApply ctx) s = .next u) ∧
          (∀ va info code u, s.readStep ctx 1 tokens = (.fault va info code, u) →
            exec (.batchStepApply ctx) s = .next (u.stepUnread ctx va info code r.record)) ∧
          (∀ blocks u, s.readStep ctx 1 tokens = (.ok blocks, u) →
            (∀ v, u.readStep ctx 0 copies = (.away, v) → exec (.batchStepApply ctx) s = .next v) ∧
            (∀ va info code v, u.readStep ctx 0 copies = (.fault va info code, v) →
              exec (.batchStepApply ctx) s = .next (v.stepUnread ctx va info code r.record)) ∧
            (∀ cs v, u.readStep ctx 0 copies = (.ok cs, v) → exec (.batchStepApply ctx) s = .next (v.stepApply ctx r blocks cs))))) ∧
      ((s.ctxAt ctx).kernel = none → r.awaits = true → s.pastDeadline r.since = true → exec (.weaverWaitTimeout ctx) s =
        .next (((s.applyVerdicts ctx (r.joins.map (fun _ => false))).stepFinish ctx true).timeoutSeen ctx)))

/-- A signal raises a fence to the greater value and keeps its first failure; waits end when it is reached, in error, or at their
timeout (R350, R376, R377, R379, R381, R384, R385, R387, log entry 90, log entry 91, log entry 92, log entry 147). -/
def Obligations.FencesRiseAndWakeWaiters : Prop :=
  ∀ (s : State) (ctx : Fin 2048) (b : Fin 64) (va : VAddr) (value status : BitVec 64) (p : Fin 32) (v : Word32) (r : RespMsg) (w : Waiter),
    (∀ x st nv ns : Nat, (fenceNext x st nv ns).1 = max x nv ∧ (st % 256 ≠ 0 ∨ ns % 256 = 0 → (fenceNext x st nv ns).2 = st) ∧
      (st % 256 = 0 → ns % 256 ≠ 0 → (fenceNext x st nv ns).2 = ns) ∧
      (fenceWaited nv x st = .error ↔ st % 256 ≠ 0) ∧ (fenceWaited nv x st = .satisfied ↔ st % 256 = 0 ∧ nv ≤ x)) ∧
    (s.get Fld.CAP_BASKET_state b = 0 ∨ va.toNat % 16 ≠ 0 ∨ s.halted = true → exec (.fenceUpdate b va value status) s = .next s) ∧
    (s.get Fld.CAP_BASKET_state b ≠ 0 → va.toNat % 16 = 0 → s.halted = false → ∀ u,
      (∀ phys port addr i, ∀ pl ∈ [FencePlace.here phys, .t4 port addr, .spill i], s.fenceFind b va.toNat 0 = (pl, u) →
        (u.fenceGet b va.toNat pl = none → exec (.fenceUpdate b va value status) s = .next (u.fencePoison b va.toNat pl)) ∧
        (u.fenceGet b va.toNat pl ≠ none →
          exec (.fenceUpdate b va value status) s = .next (u.fenceSignal b va.toNat pl value.toNat status.toNat)) ∧
        ∀ x st, u.fenceGet b va.toNat pl = some (x, st) → (status.toNat % 256 ≠ 0 ∨ max x value.toNat < 2 ^ 64 - 1) →
          exec (.fenceUpdate b va value status) s = .next ((u.fencePut b va.toNat pl (fenceNext x st value.toNat status.toNat).1
            (fenceNext x st value.toNat status.toNat).2).wakeWatches b va.toNat (fenceNext x st value.toNat status.toNat).1
            (fenceNext x st value.toNat status.toNat).2)) ∧
      (∀ c i, s.fenceFind b va.toNat 0 = (.fault c i, u) → exec (.fenceUpdate b va value status) s = .next u) ∧
      (∀ m, s.fenceFind b va.toNat 0 = (.away m, u) → exec (.fenceUpdate b va value status) s =
        .next ((u.asks b deviceWord 3 m va.toNat).sendAtomic b m 0 va.toNat deviceWord value.toNat status.toNat)) ∧
      (∀ m, s.fenceFind b va.toNat 0 = (.wait m, u) → exec (.fenceUpdate b va value status) s = .next { u with
        updates := u.updates ++ [.update { basket := b, va := va.toNat, value := value.toNat, status := status.toNat }] })) ∧
    (∀ k u, (s.takeCmd ctx (· == 3) = some (k, true, u) → exec (.cmdFenceWait ctx) s = .next (u.finishCmd ctx 2 1 0)) ∧
      (s.takeCmd ctx (· == 3) = some (k, false, u) → exec (.cmdFenceWait ctx) s = .next (u.cmdWait ctx k)) ∧
      (s.takeCmd ctx (· == 4) = some (k, true, u) → exec (.cmdFenceSignal ctx) s = .next (u.finishCmd ctx 2 1 0)) ∧
      (s.takeCmd ctx (· == 4) = some (k, false, u) → exec (.cmdFenceSignal ctx) s = .next (u.cmdSignal ctx k))) ∧
    ((s.ctxAt ctx).cmd = none → s.takeCmd ctx (· == 3) = none → s.takeCmd ctx (· == 4) = none →
      exec (.cmdFenceWait ctx) s = .next s ∧ exec (.cmdFenceSignal ctx) s = .next s ∧ exec (.cmdFenceTimeout ctx) s = .next s) ∧
    (∀ k, (s.ctxAt ctx).cmd = some k → s.takeCmd ctx (· == 3) = none → s.takeCmd ctx (· == 4) = none →
      (s.cmdIs ctx 3 = true → (∀ x ∈ s.watches, x.waiter ≠ .command ctx) → exec (.cmdFenceWait ctx) s = .next (s.cmdWait ctx k)) ∧
      (s.cmdIs ctx 3 = false ∨ (∃ x ∈ s.watches, x.waiter = .command ctx) → exec (.cmdFenceWait ctx) s = .next s) ∧
      (s.cmdIs ctx 4 = true → s.isSent ctx k.addr = false → exec (.cmdFenceSignal ctx) s = .next (s.cmdSignal ctx k)) ∧
      (s.cmdIs ctx 4 = false ∨ s.isSent ctx k.addr = true → exec (.cmdFenceSignal ctx) s = .next s)) ∧
    (∀ k, (s.ctxAt ctx).cmd = some k →
      (s.cmdIs ctx 3 = true → k.timeout ≠ 0 → k.time + k.timeout ≤ s.time →
        exec (.cmdFenceTimeout ctx) s = .next ((s.unwatch (.command ctx)).finishCmd ctx 1 0x11 0)) ∧
      (s.cmdIs ctx 3 = false ∨ k.timeout = 0 ∨ s.time < k.time + k.timeout → exec (.cmdFenceTimeout ctx) s = .next s)) ∧
    (r.kind ≠ 5 → exec (.fenceWake r) s = .next s) ∧
    (r.kind = 5 → ∀ f : FenceRead, f = (if r.status = 0 then .is .satisfied else .is .error) →
      (∀ core slot o, s.respOp r = some (core, slot, o) → (s.fenceOp core slot r.entry.toNat).isSome = true → exec (.fenceWake r) s =
        .next (s.fenceFound (.entry (Fin.ofNat 256 core) (Fin.ofNat 8 slot) (Fin.ofNat 64 r.entry.toNat)) f)) ∧
      (s.respOp r = none → respOfCommand r = true → s.cmdIs r.ctx.toNat 3 = true →
        exec (.fenceWake r) s = .next (s.fenceFound (.command (Fin.ofNat 2048 r.ctx.toNat)) f)) ∧
      (s.respOp r = none → respOfCommand r = true → s.cmdIs r.ctx.toNat 3 = false → s.kernelWaits r.ctx.toNat .fence = true →
        exec (.fenceWake r) s = .next (s.fenceFound (.kernelStart (Fin.ofNat 2048 r.ctx.toNat)) f)) ∧
      (s.respOp r = none →
          respOfCommand r = false ∨ (s.cmdIs r.ctx.toNat 3 = false ∧ s.kernelWaits r.ctx.toNat .fence = false) → ∃ t, exec (.fenceWake r) s = .next t ∧
        t.get Fld.WVR_STALE_RESP_COUNT_count = (s.get Fld.WVR_STALE_RESP_COUNT_count + 1) % 2 ^ Fld.WVR_STALE_RESP_COUNT_count.width ∧
        s.onlyFields t [(Fld.WVR_STALE_RESP_COUNT_count, 0), (Fld.WVR_STATUS_stale_wrap, 0)])) ∧
    ((∀ x ∈ s.watches, x.waiter = w → x.polls = false) → exec (.fencePoll w) s = .next s) ∧
    (∀ x, s.watches.find? (fun x => x.waiter == w && x.polls) = some x →
      (s.time ≤ x.polled → exec (.fencePoll w) s = .next s) ∧
      (x.polled < s.time → ∀ f u, State.pollFence { s with watches := s.watches.map (fun y => if y = x then { y with polled := s.time } else y) } x = (f, u) →
        exec (.fencePoll w) s = .next (u.fenceFound w f))) ∧
    (s.agentAsleep (.host p) = true → exec (.fenceOpGo p v) s = .next s) ∧
    (s.agentAsleep (.host p) = false → ∀ u, u = s.writeReg Fld.WVR_FENCE_OP_CMD_code.reg p v.toNat →
      (s.flag Fld.WVR_FENCE_OP_CMD_busy p = true ∨ bitOf v.toNat 16 = false → exec (.fenceOpGo p v) s = .next u) ∧
      (s.flag Fld.WVR_FENCE_OP_CMD_busy p = false → bitOf v.toNat 16 = true →
        (u.basketOwner (u.get Fld.WVR_FENCE_OP_CMD_basket_index p) ≠ some p.val ∨ 3 < u.get Fld.WVR_FENCE_OP_CMD_code p →
          ∃ t, exec (.fenceOpGo p v) s = .next t ∧ t.get Fld.WVR_FENCE_OP_CMD_error p = 1 ∧ u.onlyFields t [(Fld.WVR_FENCE_OP_CMD_error, p.val)]) ∧
        (u.basketOwner (u.get Fld.WVR_FENCE_OP_CMD_basket_index p) = some p.val → u.get Fld.WVR_FENCE_OP_CMD_code p ≤ 3 →
          ∀ x : FenceOp, x = ⟨u.get Fld.WVR_FENCE_OP_CMD_basket_index p, u.fenceOpAddr p,
              u.get64 Fld.WVR_FENCE_OP_VAL_LO_val_lo Fld.WVR_FENCE_OP_VAL_HI_val_hi p, u.get Fld.WVR_FENCE_OP_CMD_code p, false⟩ →
          exec (.fenceOpGo p v) s =
            .next ((State.set { u with fenceOps := u.fenceOps ++ [(p.val, x)] } Fld.WVR_FENCE_OP_CMD_busy p 1).fenceOpsRun 32)))) ∧
    (∀ (x : FenceOp) (t : State), x.sent = false →
      (s.signal x.basket x.va 0 0 (fenceOpWord p) x.value x.code = (.done, t) → s.fenceOpRun p x = t.fenceOpEnd p true) ∧
      (∀ c i, s.signal x.basket x.va 0 0 (fenceOpWord p) x.value x.code = (.fault c i, t) → s.fenceOpRun p x = t.fenceOpEnd p false) ∧
      (∀ m, s.signal x.basket x.va 0 0 (fenceOpWord p) x.value x.code = (.sent m, t) → s.fenceOpRun p x =
        { t with fenceOps := t.fenceOps.map (fun (e : Nat × FenceOp) => (e.1, if e.1 = p then { e.2 with sent := true } else e.2)) }) ∧
      (∀ m, s.signal x.basket x.va 0 0 (fenceOpWord p) x.value x.code = (.wait m, t) → s.fenceOpRun p x =
        (if t.updates.contains (.driver p) then t else { t with updates := t.updates ++ [.driver p] }))) ∧
    (∀ ok : Bool, (s.fenceOpEnd p ok).get Fld.WVR_FENCE_OP_CMD_busy p = 0 ∧
      (s.fenceOpEnd p ok).get (if ok then Fld.WVR_FENCE_OP_CMD_done else Fld.WVR_FENCE_OP_CMD_error) p = 1 ∧
      (∀ e ∈ (s.fenceOpEnd p ok).fenceOps, e.1 ≠ p.val))

/-- A stop halts a context's shards; with nothing in flight or held it is STOPPED and its span discarded; resume makes it idle; a
quantum's end chooses anew (R353, R359, R360, R373, R374, R678, log entry 25, log entry 138, log entry 146). -/
def Obligations.ContextsStopAndResume : Prop :=
  ∀ (s : State) (a : Agent) (ctx : Fin 2048) (v : Word32) (core : Fin 256),
    (s.takes a (ctxCtrl ctx) = false → exec (.contextStop a ctx v) s = .next s ∧ exec (.contextResume a ctx v) s = .next s) ∧
    (s.takes a (ctxCtrl ctx) = true → ∀ u, u = s.mmioWrite a (ctxCtrl ctx) v.toNat →
      (bitOf v.toNat 0 = false → exec (.contextStop a ctx v) s = .next u) ∧
      (bitOf v.toNat 0 = true → u.get Fld.WVR_CTX_STATE_state ctx = 0 ∨ u.get Fld.WVR_CTX_STATE_state ctx = 5 → exec (.contextStop a ctx v) s = .next u) ∧
      (bitOf v.toNat 0 = true → u.get Fld.WVR_CTX_STATE_state ctx ≠ 0 → u.get Fld.WVR_CTX_STATE_state ctx ≠ 5 → (u.ctxAt ctx).stepRunning = false →
        ∃ w : State, w.get Fld.WVR_CTX_STATE_state ctx = 4 ∧ w.get Fld.WVR_CTX_CTRL_stop ctx = 1 ∧
          u.onlyFields w [(Fld.WVR_CTX_STATE_state, ctx.val), (Fld.WVR_CTX_CTRL_stop, ctx.val)] ∧
          exec (.contextStop a ctx v) s = .next (w.haltShards ctx)) ∧
      (bitOf v.toNat 0 = true → u.get Fld.WVR_CTX_STATE_state ctx ≠ 0 → u.get Fld.WVR_CTX_STATE_state ctx ≠ 5 → (u.ctxAt ctx).stepRunning = true →
        ∃ w : State, w.get Fld.WVR_CTX_CTRL_stop ctx = 1 ∧ u.onlyFields w [(Fld.WVR_CTX_CTRL_stop, ctx.val)] ∧
          exec (.contextStop a ctx v) s = .next (if u.get Fld.WVR_CTX_STATE_state ctx = 4 then w.haltShards ctx else w)) ∧
      (bitOf v.toNat 1 = true → u.get Fld.WVR_CTX_STATE_state ctx = 5 → ∃ t, exec (.contextResume a ctx v) s = .next t ∧
        t.get Fld.WVR_CTX_STATE_state ctx = 1 ∧ u.onlyFields t [(Fld.WVR_CTX_STATE_state, ctx.val)]) ∧
      (bitOf v.toNat 1 = false ∨ u.get Fld.WVR_CTX_STATE_state ctx ≠ 5 → exec (.contextResume a ctx v) s = .next u)) ∧
    (s.get Fld.WVR_CTX_STATE_state ctx ≠ 4 ∨ (s.ctxAt ctx).stepRunning = true ∨ (∃ x ∈ s.opsOf ctx, x.2.2.entry = none) →
      exec (.contextStopped ctx) s = .next s) ∧
    (s.get Fld.WVR_CTX_STATE_state ctx = 4 → (s.ctxAt ctx).stepRunning = false → s.opsOf ctx = [] → (s.ctxAt ctx).cmd = none →
      (s.ctxAt ctx).kernel = none → (s.ctxAt ctx).item = none → s.flag Fld.WVR_CTX_CTRL_discard ctx = false →
      ∃ t, exec (.contextStopped ctx) s = .next t ∧ t.get Fld.WVR_CTX_STATE_state ctx = 5 ∧ t.get Fld.WVR_CTX_STATUS_stopped ctx = 1 ∧
        t.get Fld.WVR_CTX_CTRL_stop ctx = 0 ∧ t.spanOf ctx = none ∧ s.bytesSame t) ∧
    (s.runningSlot core = none → exec (.quantumExpire core) s = .next s) ∧
    (∀ k, s.runningSlot core = some k → exec (.quantumExpire core) s = .next ((s.charge core k (s.quantumLeft core k)).choose core)) ∧
    (∀ k n, (s.charge core k n).slotAt core k = { s.slotAt core k with
        pass := ((s.slotAt core k).pass + (s.slotAt core k).stride * n) % 2 ^ 64, ran := (s.slotAt core k).ran + n } ∧ s.bytesSame (s.charge core k n)) ∧
    (∀ k, leastPass ((s.takeShares core).contenders core) = some k → s.choose core = ((s.takeShares core).runSlot core k).showRunning core)

/-- A tile operation issues from the running slot only with its wait tags at zero, its barrier met and its own tag below
255; else it holds its shard back (R204). -/
def Obligations.OperationsIssueOnlyWhenTheirWaitsAreOver : Prop :=
  ∀ (s : State) (core : Fin 256) (slot : Fin 8),
    (∀ x ∈ [((fun d => opCode d == 0 || !opCodes.contains (opCode d) : List Byte → Bool), Instr.opIdle core slot),
        (isOp 0x01, .opMatmul core slot), (isOp 0x02, .opVec core slot), (isOp 0x03, .opVecReduce core slot), (isOp 0x04, .opConvert core slot),
        (isOp 0x08, .opLoad core slot), (isOp 0x09, .opStore core slot), (isOp 0x0A, .opGather core slot),
        ((fun d => opCode d == 0x0C && !opFlag d 8 0), .opExchangeSend core slot),
        ((fun d => opCode d == 0x0C && opFlag d 8 0), .opExchangeReceive core slot), (isOp 0x0D, .opReduceLong core slot),
        (isOp 0x10, .opAttention core slot), (isOp 0x11, .opKvAppend core slot), (isOp 0x12, .opSample core slot),
        (isOp 0x18, .opFenceWait core slot), (isOp 0x19, .opFenceSignal core slot)],
      (s.mayIssue core slot = false ∨ s.opEnv core slot = none → exec x.2 s = .next s) ∧
      ∀ (e : OpEnv) (u : State), s.mayIssue core slot = true → s.opEnv core slot = some e →
        (s.fetchHead e = (none, u) → exec x.2 s = .next (u.settleSlotOf e)) ∧
        ∀ d, s.fetchHead e = (some d, u) →
          (x.1 d = false → exec x.2 s = .next u) ∧
          (x.1 d = true → ∀ (f : Option (Nat × Nat)) (w : State),
            u.tableWords e (((opTensors e d).map (fun o => opBits d o 0 6)).filter (fun t => decide (t < e.tensors.length))) = (f, w) →
            (∀ c n, f = some (c, n) ∨ (f = none ∧ w.headRefusal e d = some (c, n)) →
              exec x.2 s = .next ((w.shardFault e (w.shardAt core slot).next c n).settleSlotOf e)) ∧
            (f = none → w.headRefusal e d = none →
              ((opFlag d 2 6 = true ∧ w.tagAt core slot (opBits d 2 0 6) ≠ 0) ∨ (opFlag d 3 6 = true ∧ w.tagAt core slot (opBits d 3 0 6) ≠ 0) ∨
                (opFlag d 1 7 = true ∧ (w.shardAt core slot).ops ≠ []) ∨ (opFlag d 1 6 = true ∧ 255 ≤ w.tagAt core slot (opBits d 1 0 6)) ∨
                w.issuable e (w.shardAt core slot) d = false → exec x.2 s = .next (w.reschedule core)) ∧
              (w.issuable e (w.shardAt core slot) d = true →
                exec x.2 s = .next ((if opCode d = 0 then w.issueIdle e d else w.issue e d).settleSlotOf e))))) ∧
    (∀ (e : OpEnv) (d : List Byte), s.bytesSame (s.issueIdle e d) ∧
      (s.issueIdle e d).shardAt e.core e.slot = { s.shardAt e.core e.slot with
        next := (s.shardAt e.core e.slot).next + 1, head := none, opsDone := (s.shardAt e.core e.slot).opsDone + 1 }) ∧
    (∀ (e : OpEnv) (d : List Byte) (r : ShardRun) (k : Option Nat), r = s.shardAt e.core e.slot →
      k = (if takesEntry e d then s.ledgerFree e.core e.slot else none) → ∃ w : State, s.issue e d = w.perform e r.next true ∧
        w.shardAt e.core e.slot = { r with next := r.next + 1, head := none, ops := r.ops ++ [freshOp r.next (s.nextOrder e.core) d k] } ∧
        (opFlag d 1 6 = true → w.tagAt e.core e.slot (opBits d 1 0 6) = s.tagAt e.core e.slot (opBits d 1 0 6) + 1) ∧
        (∀ n, k = some n → w.ledgerAt e.core e.slot n = { used := true, gen := (s.ledgerAt e.core e.slot n).gen, deadline := s.entryDeadline d }) ∧
        s.bytesSame w) ∧
    (∀ (e : OpEnv) (i : Nat) (o : OpRec) (x : Did) (t : State), s.opAt e.core e.slot i = some o → s.performOp e o true = (x, t) →
      s.perform e i true = (t.performed e i x).matchOffers) ∧
    (∀ (e : OpEnv) (o : OpRec),
      (opCode o.desc = 0x01 → s.performOp e o true = s.doMatmul e o true) ∧ (opCode o.desc = 0x02 → s.performOp e o true = s.doVec e o true) ∧
      (opCode o.desc = 0x03 → s.performOp e o true = s.doVecReduce e o true) ∧ (opCode o.desc = 0x04 → s.performOp e o true = s.doConvert e o true) ∧
      (opCode o.desc = 0x08 ∨ opCode o.desc = 0x09 → s.performOp e o true = s.doMove e o true) ∧
      (opCode o.desc = 0x0A → s.performOp e o true = s.doGather e o true) ∧
      (opCode o.desc = 0x0C → opFlag o.desc 8 0 = false → s.performOp e o true = s.doSend e o true) ∧
      (opCode o.desc = 0x0C → opFlag o.desc 8 0 = true → s.performOp e o true = s.doReceive e o true) ∧
      (opCode o.desc = 0x0D → s.performOp e o true = s.doReduce e o) ∧ (opCode o.desc = 0x10 → s.performOp e o true = s.doAttention e o true) ∧
      (opCode o.desc = 0x11 → s.performOp e o true = s.doAppend e o true) ∧ (opCode o.desc = 0x12 → s.performOp e o true = s.doSample e o true) ∧
      (opCode o.desc = 0x18 → s.performOp e o true = s.doFenceWait e o) ∧ (opCode o.desc = 0x19 → s.performOp e o true = s.doFenceSignal e o))

/-- An operation that is done completes in its unit's order, gives back its tag and ledger entry, and one past its deadline faults
(R64, R101, R203, R206, R248, R368, R369, R370, R371, log entry 20, log entry 25, log entry 102). -/
def Obligations.OperationsCompleteAndTimeOut : Prop :=
  ∀ (s : State) (core : Fin 256) (slot : Fin 8) (op cycles : Nat) (k : Fin 64),
    (s.opEnv core slot = none ∨ s.opAt core slot op = none → exec (.operationComplete core slot op cycles) s = .next s) ∧
    (∀ e o, s.opEnv core slot = some e → s.opAt core slot op = some o →
      (o.ready = false ∨ s.gated (coreHalf core) = true ∨
          (∃ x ∈ s.coreOps core, x.order < o.order ∧ sameUnit (opCode x.desc) (opCode o.desc) = true) →
        exec (.operationComplete core slot op cycles) s = .next s) ∧
      (o.ready = true → s.gated (coreHalf core) = false →
          (∀ x ∈ s.coreOps core, x.order < o.order → sameUnit (opCode x.desc) (opCode o.desc) = false) →
        exec (.operationComplete core slot op cycles) s = .next ((s.complete e o cycles).settleSlotOf e) ∧
        (o.fault = none → o.back = [] → s.complete e o cycles = (s.appendLength e o).opLeaves e o cycles ∧
          (o.top = none → s.appendLength e o = s)) ∧
        (∀ c n, o.fault = some (c, n) → s.complete e o cycles = (s.opLeaves e o cycles).shardFault e o.index c n))) ∧
    (∀ (e : OpEnv) (o : OpRec) (t : State), t = s.opLeaves e o cycles →
      (opFlag o.desc 1 6 = true → t.tagAt e.core e.slot (opBits o.desc 1 0 6) = s.tagAt e.core e.slot (opBits o.desc 1 0 6) - 1) ∧
      (∀ n, o.entry = some n → t.ledgerAt e.core e.slot n =
        { used := false, gen := ((s.ledgerAt e.core e.slot n).gen + 1) % 256, deadline := none }) ∧
      (t.shardAt e.core e.slot).ops = (s.shardAt e.core e.slot).ops.filter (fun x => x.index != o.index) ∧
      (t.shardAt e.core e.slot).opsDone = (s.shardAt e.core e.slot).opsDone + 1 ∧ s.bytesSame t) ∧
    (∀ e o, s.opEnv core slot = some e → (s.shardAt core slot).ops.find? (fun o => o.entry == some k.val) = some o →
      (e.treeAfter o = false ∨ o.ready = true ∨ o.sent = true ∨ o.waits ≠ [] ∨ s.gated (coreHalf core) = true →
        exec (.reduceTreeStart core slot k) s = .next s) ∧
      (e.treeAfter o = true → o.ready = false → o.sent = false → o.waits = [] → s.gated (coreHalf core) = false → ∀ d u, s.doTree e o = (d, u) →
        ∀ w, w = (match u.opAt core slot o.index with
          | none => u
          | some o => u.setOp core slot { o with sent := true }) →
        exec (.reduceTreeStart core slot k) s = .next (w.performed e o.index d))) ∧
    (s.overdue core slot k = none → exec (.fenceWaitTimeout core slot k) s = .next s ∧ exec (.ledgerDeadline core slot k) s = .next s) ∧
    (∀ o, s.overdue core slot k = some o →
      (opCode o.desc = 0x18 → exec (.fenceWaitTimeout core slot k) s = .next (s.failEntry core slot o 0x11 (opField o.desc 8 7)) ∧
        exec (.ledgerDeadline core slot k) s = .next s) ∧
      (opCode o.desc ≠ 0x18 → exec (.fenceWaitTimeout core slot k) s = .next s ∧
        ∃ t, exec (.ledgerDeadline core slot k) s = .next t ∧ t.get Fld.WVR_CTX_STATUS_timeout_seen (s.slotAt core slot).ctx = 1 ∧
          (s.failEntry core slot o 0x0E ((o.waits.head?.map s.waitPeer).getD s.me)).onlyFields t
            [(Fld.WVR_CTX_STATUS_timeout_seen, (s.slotAt core slot).ctx)])) ∧
    (∀ (w : ClipWindow) (site : Nat) (u : State), (s.shardAt core slot).window = some w → s.siteOf core = some site →
      u = s.setShard core slot { s.shardAt core slot with window := none } →
      (w.full = false → exec (.clipWindowClose core slot) s = .next s) ∧
      (w.full = true → w.en = false ∨ w.c * 65536 ≤ w.limit * w.n → exec (.clipWindowClose core slot) s = .next u) ∧
      (w.full = true → w.en = true → w.limit * w.n < w.c * 65536 → exec (.clipWindowClose core slot) s =
        .next ((u.set Fld.VU_FMT_STATUS_clip_event (site * 8 + slot) 1).report 0x05 core 0))) ∧
    ((s.shardAt core slot).window = none ∨ s.siteOf core = none → exec (.clipWindowClose core slot) s = .next s)

/-- A response ends the wait of the operation it names, or faults it; one that nothing waits for is discarded and counted (R230,
R367, R368, R369, R412, R462, R466, log entry 91, log entry 92). -/
def Obligations.ResponsesReachWhatWaits : Prop :=
  ∀ (s : State) (r : RespMsg),
    (r.kind = 2 ∨ r.kind = 3 ∨ r.kind = 6 → exec (.resp r) s = .next (s.respond r)) ∧ (r.kind = 0 → exec (.respTake r) s = .next (s.respond r)) ∧
    (r.kind ≠ 2 → r.kind ≠ 3 → r.kind ≠ 6 → r.kind ≠ 4 → exec (.resp r) s = .next s) ∧
    (r.kind ≠ 0 → exec (.respTake r) s = .next s) ∧ (r.kind ≠ 1 → exec (.respPull r) s = .next s) ∧
    (s.respOp r = none → r.kind = 1 → exec (.respPull r) s = .next s.stale) ∧
    (s.respOp r = none → r.kind ≠ 3 ∨ respOfFenceOp r = false → respOfDevice r = false → respOfCommand r = false →
      ∀ t : State, t = s.respond r → t.get Fld.WVR_STALE_RESP_COUNT_count =
          (s.get Fld.WVR_STALE_RESP_COUNT_count + 1) % 2 ^ Fld.WVR_STALE_RESP_COUNT_count.width ∧
        s.onlyFields t [(Fld.WVR_STALE_RESP_COUNT_count, 0), (Fld.WVR_STATUS_stale_wrap, 0)]) ∧
    (s.respOp r = none → r.kind = 3 → respOfFenceOp r = true → exec (.resp r) s = .next (s.fenceOpAnswer r.ctx.toNat r.status.toNat)) ∧
    (∀ core slot o, s.respOp r = some (core, slot, o) →
      (r.status = 0 → r.kind ≠ 6 → s.respond r = s.endWait core slot o (Wait.answers r.kind.toNat r.src.toNat)) ∧
      (r.status = 0 → r.kind = 6 → s.respond r = s) ∧
      (r.status ≠ 0 → (∀ w ∈ o.waits, Wait.answers r.kind.toNat r.src.toNat w = false) →
        (r.status ≠ 2 ∧ r.status ≠ 3) ∨ (∀ w ∈ o.waits, Wait.ofKind r.kind.toNat w = false) → s.respond r = s) ∧
      (∀ w c n u, r.status ≠ 0 → o.waits.find? (Wait.answers r.kind.toNat r.src.toNat) = some w ∨
          ((r.status = 2 ∨ r.status = 3) ∧ (∀ x ∈ o.waits, Wait.answers r.kind.toNat r.src.toNat x = false) ∧
            o.waits.find? (Wait.ofKind r.kind.toNat) = some w) →
        s.statusFault (s.slotBasket (slotKey core slot)) (s.waitModule (s.slotBasket (slotKey core slot)) r.src.toNat w) w.addr r.status.toNat = ((c, n), u) →
        s.respond r = u.failEntry core slot o c n) ∧
      (r.kind = 1 → r.status ≠ 0 → exec (.respPull r) s = .next (s.respond r)) ∧
      (r.kind = 1 → r.status = 0 → (∀ w ∈ o.waits, Wait.answers 1 r.src.toNat w = false) → exec (.respPull r) s = .next s) ∧
      (∀ e, r.kind = 1 → r.status = 0 → (∃ w ∈ o.waits, Wait.answers 1 r.src.toNat w = true) → s.opEnv core slot = some e →
        (s.unreachable e.basket r.src.toNat = true → exec (.respPull r) s = .next (s.failEntry core slot o 0x0F r.src.toNat)) ∧
        (s.unreachable e.basket r.src.toNat = false → ∀ ps u, s.sendPackets e o r.src.toNat = (.ok ps, u) → exec (.respPull r) s = .next (u.emitAll ps)) ∧
        (s.unreachable e.basket r.src.toNat = false → ∀ c n u, s.sendPackets e o r.src.toNat = (.error (c, n), u) → exec (.respPull r) s = .next (u.failEntry core slot o c n)))) ∧
    (r.kind = 4 → ∀ p : Move → Bool, p = (fun m => !m.ready && (match m.kind with
        | .spillT3 n _ => n == r.src.toNat
        | _ => false)) →
      (s.moves.find? p = none → exec (.resp r) s = .next s.stale) ∧
      (∀ x, s.moves.find? p = some x → exec (.resp r) s =
        .next { s with moves := s.moves.map (fun m => if m.id = x.id then { m with ready := true } else m) }))

/-- A port accepts a flit whose FEC, CRC and link_seq are right, counts it, and acts on it at once or once its group's seal
verifies; its sent flits wait for their acknowledgement, and an EMPTY one goes out where there is nothing else (R445, R448, R450,
R451, R453, R454, R455, R580, log entry 108, log entry 114, log entry 118, log entry 179). -/
def Obligations.FlitsAreAcceptedInSequence : Prop :=
  ∀ (s : State) (port : Fin 80) (flit : BitVec 2048) (tag : BitVec 128) (fec : EccResult),
    (s.exchanges port = false → exec (.flitReceive port fec flit) s = .next s) ∧
    (s.exchanges port = true → ∃ t, exec (.flitReceive port .uncorrectable flit) s = .next t ∧
      t.get Fld.WF_FEC_UNCORR_COUNT_count port = (s.get Fld.WF_FEC_UNCORR_COUNT_count port + 1) % 2 ^ Fld.WF_FEC_UNCORR_COUNT_count.width ∧
      s.onlyFields t [(Fld.WF_FEC_UNCORR_COUNT_count, port.val), (Fld.WF_PORT_STATUS_wrap, port.val)]) ∧
    (s.exchanges port = true → fec ≠ .uncorrectable → ∃ c : State, (fec = .clean → c = s) ∧
      (fec = .corrected →
        c.get Fld.WF_FEC_CORR_COUNT_count port = (s.get Fld.WF_FEC_CORR_COUNT_count port + 1) % 2 ^ Fld.WF_FEC_CORR_COUNT_count.width ∧
        s.onlyFields c [(Fld.WF_FEC_CORR_COUNT_count, port.val), (Fld.WF_PORT_STATUS_wrap, port.val)]) ∧
      (flitCrc (flitBytes flit) ≠ flitField flit 48 16 ∨ flitField flit 20 8 ≠ ((s.portAt port).rxSeq + 1) % 256 →
        exec (.flitReceive port fec flit) s = .next c) ∧
      (flitCrc (flitBytes flit) = flitField flit 48 16 → flitField flit 20 8 = ((s.portAt port).rxSeq + 1) % 256 →
        ∃ t : State, t.portAt port = (let x := { s.portAt port with rxSeq := flitField flit 20 8 }
            if s.flag Fld.WF_PORT_STATE_encrypted port && !isSealFlit flit then { x with group := x.group ++ [flit] } else x) ∧
          (∀ k, k ≠ port.val → t.portAt k = s.portAt k) ∧
          t.get64 Fld.FC_ENG_PROGRESS_LO_lo Fld.FC_ENG_PROGRESS_HI_hi (292 + port) =
            (s.get64 Fld.FC_ENG_PROGRESS_LO_lo Fld.FC_ENG_PROGRESS_HI_hi (292 + port) + 1) % 2 ^ 64 ∧
          c.fieldsBut t [(Fld.FC_ENG_PROGRESS_LO_lo, 292 + port.val), (Fld.FC_ENG_PROGRESS_HI_hi, 292 + port.val)] ∧
          { t with regs := c.regs, ports := c.ports } = c ∧
          exec (.flitReceive port fec flit) s =
            .next (if s.flag Fld.WF_PORT_STATE_encrypted port && !isSealFlit flit then t else t.released port flit))) ∧
    ((s.portAt port).acks (flitField flit 28 8) = [] → flitField flit 64 4 = 0 → flitField flit 0 3 < 3 →
      (∀ i ∈ ((s.portAt port).release flit).inputs, (s.setPort port ((s.portAt port).release flit)).rimTakes i = false) →
      s.released port flit = s.setPort port ((s.portAt port).release flit)) ∧
    (∀ x : Port, (x.release flit).ack = flitField flit 28 8 ∧ (x.release flit).unacked = stillUnacked (flitField flit 28 8) x.unacked ∧
      (x.release flit).credits = addCredit x.credits (flitField flit 36 4) (flitField flit 40 6 + 1) ∧ (x.release flit).rxSeq = x.rxSeq) ∧
    ((s.portAt port).group = [] ∨ s.flag Fld.WF_PORT_STATE_encrypted port = false → exec (.sealFlit port tag) s = .next s) ∧
    (∀ f fs, (s.portAt port).group = f :: fs → s.flag Fld.WF_PORT_STATE_encrypted port = true →
      (s.groupTag port = leBytes 16 tag.toNat → exec (.sealFlit port tag) s = .next ((s.groupPlain port).foldl (fun t f => t.released port f)
        (s.setPort port { s.portAt port with group := [], groupNo := ((s.portAt port).groupNo + 1) % 2 ^ 64 }))) ∧
      (s.groupTag port ≠ leBytes 16 tag.toNat → ∃ t, exec (.sealFlit port tag) s = .next t ∧
        t.portAt port = { s.portAt port with group := [], rxSeq := (flitField f 20 8 + 255) % 256 } ∧
        t.get Fld.WF_SEAL_FAIL_COUNT_count port = (s.get Fld.WF_SEAL_FAIL_COUNT_count port + 1) % 2 ^ Fld.WF_SEAL_FAIL_COUNT_count.width ∧
        t.get Fld.FC_SRC_COUNT_count 0x26 = (s.get Fld.FC_SRC_COUNT_count 0x26 + 1) % 2 ^ Fld.FC_SRC_COUNT_count.width ∧ s.bytesSame t)) ∧
    (s.exchanges port = true → (s.portAt port).unacked ≠ [] → ∃ t, exec (.replayTimeout port) s = .next t ∧
      t.outbox = s.outbox ++ (s.portAt port).unacked.map (fun e => s.onLanes port e.1) ∧
      t.get Fld.WF_REPLAY_COUNT_count port = (s.get Fld.WF_REPLAY_COUNT_count port + 1) % 2 ^ Fld.WF_REPLAY_COUNT_count.width ∧
      s.fieldsBut t [(Fld.WF_REPLAY_COUNT_count, port.val), (Fld.WF_PORT_STATUS_wrap, port.val)] ∧
      { t with regs := s.regs, outbox := s.outbox } = s) ∧
    (s.exchanges port = false ∨ (s.portAt port).unacked = [] → exec (.replayTimeout port) s = .next s) ∧
    (s.flag Fld.WF_PORT_STATE_encrypted port = false → (s.portAt port).rxSeq < 256 → (s.portAt port).owed.length = 9 →
      ∃ f : BitVec 2048, flitField f 0 3 = 0 ∧ flitField f 20 8 = ((s.portAt port).txSeq + 1) % 256 ∧ flitField f 28 8 = (s.portAt port).rxSeq ∧
        flitCrc (flitBytes f) = flitField f 48 16 ∧ (s.idleBeat port).outbox = s.outbox ++ [s.onLanes port f] ∧
        ((s.idleBeat port).portAt port).unacked = (s.portAt port).unacked ++ [(f, none)] ∧
        (s.idleBeat port).get Fld.WF_TX_EMPTY_COUNT_count port =
          (s.get Fld.WF_TX_EMPTY_COUNT_count port + 1) % 2 ^ Fld.WF_TX_EMPTY_COUNT_count.width)

/-- A port trains, sends and takes IDENT, and is UP or READY as both ends serve; a global port becomes READY only with its link
keys (R445, R446, R452, R456, R472, R490, R578, R580, log entry 112, log entry 108). -/
def Obligations.PortsTrainAndIntroduceThemselves : Prop :=
  ∀ (s : State) (port : Fin 80) (g : Fin 16) (module : ModuleId) (known serving ok : Bool) (pp : BitVec 7) (racks tx rx : BitVec 256),
    (s.portState port = 0 → s.flag Fld.WF_PORT_CTRL_enable port = true → s.run.phase = .running → s.fc.fenced.contains (292 + port.val) = false →
      ∃ t, exec (.portSignalDetect port) s = .next t ∧ t.portState port = 1 ∧ s.onlyFields t [(Fld.WF_PORT_STATE_state, port.val)]) ∧
    (s.portState port ≠ 0 ∨ s.flag Fld.WF_PORT_CTRL_enable port = false ∨ s.run.phase ≠ .running ∨ s.fc.fenced.contains (292 + port.val) = true →
      exec (.portSignalDetect port) s = .next s) ∧
    (s.portState port = 1 ∨ (s.portState port = 4 ∧ (s.portAt port).training = some 3) →
      ∃ u : State, u.portState port = 1 ∧ u.get Fld.WF_PORT_STATE_half_rate port = 0 ∧ u.get Fld.WF_PORT_PEER_not_ready port = 0 ∧
        u.portAt port = Port.none ∧ (isGlobalPort port = true → u.get Fld.WF_PORT_STATE_encrypted port = 0 ∧ u.linkKeys port = false) ∧
        s.bytesSame u ∧ exec (.linkTrained port) s = .next ((u.showPeer port).sendIdent port)) ∧
    (s.portState port ≠ 1 → s.portState port ≠ 4 ∨ (s.portAt port).training ≠ some 3 → exec (.linkTrained port) s = .next s) ∧
    (s.exchanges port = false → exec (.ident port module known serving pp racks) s = .next s) ∧
    (s.exchanges port = true → ∃ u : State, (u.portAt port).peerServing = (known && serving) ∧ (u.portAt port).racks = racks ∧
      u.get Fld.WF_PORT_PEER_peer port = module.toNat ∧ u.get Fld.WF_PORT_PEER_peer_valid port = bit known ∧
      u.get Fld.WF_PORT_PEER_peer_port port = pp.toNat ∧ (known = true → serving = true → u.get Fld.WF_PORT_PEER_not_ready port = 0) ∧
      (s.portState port = 1 → u.portState port = 2 ∧ (u.portAt port).credits = List.replicate 8 96 ++ [32]) ∧
      (s.portState port ≠ 1 → u.portState port = s.portState port ∧ (u.portAt port).credits = (s.portAt port).credits) ∧
      s.fieldsBut u [(Fld.WF_PORT_PEER_peer, port.val), (Fld.WF_PORT_PEER_peer_valid, port.val), (Fld.WF_PORT_PEER_peer_port, port.val),
        (Fld.WF_PORT_PEER_not_ready, port.val), (Fld.WF_PORT_STATE_state, port.val)] ∧ { u with regs := s.regs, ports := s.ports } = s ∧
      exec (.ident port module known serving pp racks) s = .next ((u.settlePort port).showPeer port)) ∧
    (∀ u : State, (u.portState port = 2 ∨ u.portState port = 3) →
      (u.settlePort port).portState port = if u.servesOn port && (u.portAt port).peerServing then 3 else 2) ∧
    (isGlobalPort port = true → s.linkKeys port = false → s.servesOn port = false) ∧
    (s.portState port ≠ 2 → s.portState port ≠ 3 → exec (.notReady port module) s = .next s) ∧
    (s.portState port = 2 ∨ s.portState port = 3 → ∃ u : State, u.get Fld.WF_PORT_PEER_peer port = module.toNat ∧
      u.get Fld.WF_PORT_PEER_not_ready port = 1 ∧ u.portAt port = { s.portAt port with peerServing := false } ∧
      s.fieldsBut u [(Fld.WF_PORT_PEER_peer, port.val), (Fld.WF_PORT_PEER_not_ready, port.val)] ∧ { u with regs := s.regs, ports := s.ports } = s ∧
      exec (.notReady port module) s = .next ((u.settlePort port).showPeer port)) ∧
    (s.flag Fld.WF_CTRL_serving = false → ∀ out, out = (s.portsIn 2).map (fun p => Sent.notReady p (BitVec.ofNat 14 (s.get Fld.CAP_MODULE_module))) →
      exec .notReadyRepeat s = .next { s with outbox := s.outbox ++ out }) ∧
    (s.flag Fld.WF_CTRL_serving = true → exec .notReadyRepeat s = .next s) ∧
    (s.portState (63 + g) ≠ 2 → exec (.globalPortKeyExchange g ok tx rx) s = .next s) ∧
    (s.portState (63 + g) = 2 → exec (.globalPortKeyExchange g false tx rx) s = .next (s.sealFailed (63 + g)) ∧
      exec (.globalPortKeyExchange g true tx rx) s =
        .next ((((s.installLinkKeys (63 + g) tx rx).sendIdent (63 + g)).settlePort (63 + g)).showPeer (63 + g))) ∧
    (s.flag Fld.WF_PORT_STATE_encrypted (63 + g) = true → exec (.keyUpdate g tx rx) s = .next (s.installLinkKeys (63 + g) tx rx)) ∧
    (s.flag Fld.WF_PORT_STATE_encrypted (63 + g) = false → exec (.keyUpdate g tx rx) s = .next s)

/-- A silent port is LOST and its peer's work ended, LOSS spreads two hops, a failed lane is retrained, swapped for the
spare or retires the port (R446, R473, R485, R486, R487, R488, R489, R641, log entry 112). -/
def Obligations.LostPortsLanesAndRetirement : Prop :=
  ∀ (s : State) (port : Fin 80) (cause : LossCause) (lost : ModuleId) (hop : Nat) (lane : Fin 3) (why : LaneFault) (a : Agent) (v : Word32)
      (leaving entering : Fin 4) (back spare : Bool),
    ((s.portState port ≠ 2 ∧ s.portState port ≠ 3) ∨ lossSeen cause = false → exec (.portLost port cause) s = .next s) ∧
    (s.portState port = 2 ∨ s.portState port = 3 → lossSeen cause = true → ∃ w : State,
      w = (((s.leaveUp port 4).setPort port { (s.leaveUp port 4).portAt port with lostAt := (s.leaveUp port 4).time, training := none }).set
        Fld.WF_PORT_STATUS_lost port 1).set Fld.WF_STATUS_loss 0 1 ∧
      w.portState port = 4 ∧ (w.portAt port).lostAt = s.time ∧ (w.portAt port).training = none ∧
      (∀ (x y : State) (m : Nat), x = w.count Fld.WF_LOSS_COUNT_count 0 Fld.WF_STATUS_wrap 0 0 → m = s.peerOf port →
        (s.flag Fld.WF_PORT_PEER_peer_valid port = false → y = x.showPeer port →
          exec (.portLost port cause) s =
            .next (((if y.flag Fld.WF_CTRL_loss_event_en then y.report 0x20 port m else y).recallExpress port).forwardAll)) ∧
        (s.flag Fld.WF_PORT_PEER_peer_valid port = true → ∀ z : State, z = (((x.markLost m).loseOps m).loseMoves m).loseOwn m →
          y = (((((x.markLost m).loseOps m).contexts.map Prod.fst).foldl (fun s c => s.loseCtx m c) z).showPeer port) →
          exec (.portLost port cause) s =
            .next ((((if y.flag Fld.WF_CTRL_loss_event_en then y.report 0x20 port m else y).sendLoss m 0).recallExpress port).forwardAll)))) ∧
    (s.portState port = 4 → (s.portAt port).lostAt + 10000 ≤ s.time → s.flag Fld.WF_PORT_CTRL_enable port = true →
      ∃ t, exec (.lostPortRetrain port) s = .next t ∧ t.portAt port = { s.portAt port with training := some 3, lostAt := s.time } ∧
        (∀ k, k ≠ port.val → t.portAt k = s.portAt k) ∧ { t with ports := s.ports } = s) ∧
    (s.portState port ≠ 4 ∨ s.time < (s.portAt port).lostAt + 10000 ∨ s.flag Fld.WF_PORT_CTRL_enable port = false →
      exec (.lostPortRetrain port) s = .next s) ∧
    (s.moduleLost lost.toNat = true → exec (.lossMsg lost hop) s = .next s) ∧
    (s.moduleLost lost.toNat = false → ∀ u, u = ((s.markLost lost.toNat).loseMoves lost.toNat).loseOwn lost.toNat →
      exec (.lossMsg lost hop) s = .next (if hop < 2 then u.sendLoss lost.toNat (hop + 1) else u)) ∧
    (s.moduleLost lost.toNat = false → (∀ x ∈ s.moves, x.kind ≠ .guestIn lost.toNat ∧ ∀ g, x.kind ≠ .bringT3 lost.toNat g ∧ x.kind ≠ .spillT3 lost.toNat g) →
        (∀ q ∈ s.own, q.module ≠ lost.toNat) → s.fenceOps = [] → ∃ t, exec (.lossMsg lost hop) s = .next t ∧ t.lostModules = s.lostModules ++ [lost.toNat] ∧
      t.outbox = s.outbox ++ (if hop < 2 then (s.portsIn 3).map (fun p => Sent.loss p lost (hop + 1)) else []) ∧
      { t with lostModules := s.lostModules, outbox := s.outbox } = s) ∧
    (s.portState port = 2 ∨ s.portState port = 3 → s.laneBad why = true → lane.val ∈ s.lanes port → (s.portAt port).training = none →
      ∃ t, exec (.laneFail port lane why) s = .next t ∧ (t.portAt port).training = some lane.val ∧ t.get Fld.WF_PORT_STATE_half_rate port = 1 ∧
        t.outbox = s.outbox ++ [.lane port lane (((s.lanes port).filter (· != lane.val)).headD 0) false] ∧
        s.fieldsBut t [(Fld.WF_PORT_STATE_half_rate, port.val)] ∧ { t with regs := s.regs, ports := s.ports, outbox := s.outbox } = s) ∧
    ((s.portState port ≠ 2 ∧ s.portState port ≠ 3) ∨ s.laneBad why = false ∨ lane.val ∉ s.lanes port ∨ (s.portAt port).training ≠ none →
      exec (.laneFail port lane why) s = .next s) ∧
    ((s.portAt port).training = none → back = false ∨ (s.portAt port).farLane = none → exec (.laneRetrainDone port back spare) s = .next s) ∧
    ((s.portAt port).training = some 3 → exec (.laneRetrainDone port back spare) s = .next s) ∧
    ((s.portAt port).training = none → (s.portAt port).farLane ≠ none → ∃ t, exec (.laneRetrainDone port true spare) s = .next t ∧
      t.portAt port = { s.portAt port with farLane := none } ∧ (∀ k, k ≠ port.val → t.portAt k = s.portAt k) ∧
      t.get Fld.WF_PORT_STATE_half_rate port = 0 ∧ s.fieldsBut t [(Fld.WF_PORT_STATE_half_rate, port.val)] ∧
      { t with regs := s.regs, ports := s.ports } = s) ∧
    (∀ (n : Nat) (u : State), (s.portAt port).training = some lane.val → n = s.get (laneRec lane) port →
      u = s.setPort port { s.portAt port with training := none } →
      (back = true → n < 255 → ∃ t, exec (.laneRetrainDone port back spare) s = .next t ∧ t.get (laneRec lane) port = n + 1 ∧
        t.get Fld.WF_PORT_STATE_half_rate port = (if (s.portAt port).farLane = none then 0 else 1) ∧ (t.portAt port).training = none ∧
        Sparse.get 0 t.service.laneRec (3 * port.val + lane) = n + 1 ∧
        t.get Fld.FC_SRC_COUNT_count 0x27 = (s.get Fld.FC_SRC_COUNT_count 0x27 + 1) % 2 ^ Fld.FC_SRC_COUNT_count.width) ∧
      (back = false ∨ 255 ≤ n → s.flag Fld.WF_PORT_STATE_spare_used port = false → spare = true →
        exec (.laneRetrainDone port back spare) s = .next ((u.emit (.lane port lane 2 true)).swapLane port lane)) ∧
      (back = false ∨ 255 ≤ n → s.flag Fld.WF_PORT_STATE_spare_used port = true ∨ spare = false →
        exec (.laneRetrainDone port back spare) s = .next (u.retirePort port))) ∧
    (s.portState port = 2 ∨ s.portState port = 3 → leaving.val ∈ s.lanes port →
      (∃ t, exec (.laneFlit port leaving entering false) s = .next t ∧ t.get Fld.WF_PORT_STATE_half_rate port = 1 ∧
        t.portAt port = { s.portAt port with farLane := some leaving.val } ∧ (∀ k, k ≠ port.val → t.portAt k = s.portAt k) ∧
        s.fieldsBut t [(Fld.WF_PORT_STATE_half_rate, port.val)] ∧ { t with regs := s.regs, ports := s.ports } = s) ∧
      (entering = 2 → s.flag Fld.WF_PORT_STATE_spare_used port = false → exec (.laneFlit port leaving entering true) s = .next (s.swapLane port leaving)) ∧
      (entering ≠ 2 ∨ s.flag Fld.WF_PORT_STATE_spare_used port = true → exec (.laneFlit port leaving entering true) s = .next s)) ∧
    ((s.portState port ≠ 2 ∧ s.portState port ≠ 3) ∨ leaving.val ∉ s.lanes port → exec (.laneFlit port leaving entering back) s = .next s) ∧
    (s.takes a (0xA1008 + 0x40 * port.val) = false → exec (.portRetire a port v) s = .next s) ∧
    (s.takes a (0xA1008 + 0x40 * port.val) = true → ∀ u, u = (s.mmioWrite a (0xA1008 + 0x40 * port.val) v.toNat).portHeld port →
      (a = .rim → bitOf v.toNat 1 = true → exec (.portRetire a port v) s = .next (u.retirePort port)) ∧
      (a ≠ .rim ∨ bitOf v.toNat 1 = false → exec (.portRetire a port v) s = .next u)) ∧
    (s.portState port = 5 → s.retirePort port = s) ∧
    (s.portState port ≠ 5 → (s.retirePort port).portState port = 5 ∧ port.val ∈ (s.retirePort port).service.retiredPorts) ∧
    (∀ u : State, u = s.swapLane port leaving →
      u.get Fld.WF_PORT_STATE_lane_lo port = ((s.lanes port).filter (· != leaving.val)).headD 0 % 2 ^ Fld.WF_PORT_STATE_lane_lo.width ∧
      u.get Fld.WF_PORT_STATE_lane_hi port = 2 ∧
      u.get Fld.WF_PORT_STATE_half_rate port = 0 ∧ u.get Fld.WF_PORT_STATE_spare_used port = 1 ∧ u.get Fld.WF_PORT_STATUS_swapped port = 1 ∧
      (u.portAt port).training = none ∧ (u.portAt port).farLane = none)

/-- A packet for another module goes out on the port chosen or is answered or counted; one for this module is served for a bound
basket under a current epoch (R459, R462, R463, R473, R474, R475, R476, R737, log entry 72, log entry 88, log entry 116, log entry
179). -/
def Obligations.PacketsAreForwardedServedOrAnswered : Prop :=
  ∀ (s : State) (port : Fin 80) (pkt : Packet) (u : State) (ctx : Fin 2048) (block : CountBlock) (n : BitVec 64) (bits : List Bool) (b : Nat),
    (pkt.dest.toNat = s.me → exec (.packetForward port pkt) s = .next s) ∧
    (pkt.dest.toNat ≠ s.me → ∀ (w : State) (drop : Nat → State), w = (if pkt.src.toNat = s.me then s else s.unmarkLost pkt.src.toNat) →
      drop = (fun st => if isResponse pkt.ptype.toNat then
        ((w.freePlace pkt.place).count Fld.WF_UNREACH_COUNT_count 0 Fld.WF_STATUS_wrap 0 1).report 0x24 port pkt.dest.toNat
        else (w.freePlace pkt.place).answer pkt st) →
      (isRimPacket pkt = false → w.heldUp pkt.dest.toNat = true → exec (.packetForward port pkt) s = .next (drop 2)) ∧
      (isRimPacket pkt = true ∨ w.heldUp pkt.dest.toNat = false →
        (∀ p, w.nextPort pkt = some p →
          (w.keyWaits (packetKey pkt) p = true → exec (.packetForward port pkt) s = .next { w with forwardWait := w.forwardWait ++ [(port.val, pkt)] }) ∧
          (w.keyWaits (packetKey pkt) p = false → ∀ next : Packet, next = { pkt with links := pkt.links + 1 } →
            exec (.packetForward port pkt) s = .next ((State.setPort { w with sentOn := w.sentOn ++ [⟨p, port, pkt⟩] } p
              { w.portAt p with outs := (w.portAt p).outs ++ [next] }).emit (.forward p next)))) ∧
        (∀ p, w.keyWaits (packetKey pkt) p = true ↔ (∃ x ∈ w.forwardWait, packetKey x.2 = packetKey pkt) ∨
          (∃ f ∈ w.sentOn, packetKey f.pkt = packetKey pkt ∧ f.port ≠ p)) ∧
        (w.nextPort pkt = none → exec (.packetForward port pkt) s = .next (drop 3)))) ∧
    (∀ x ∈ [(1, Instr.readReq pkt), (2, .readData pkt), (3, .writePkt pkt), (4, .atomicPkt pkt), (5, .offerPkt pkt), (6, .dataPkt pkt),
        (7, .partialPkt pkt), (9, .pagePkt pkt), (8, .countBlock ctx pkt block), (8, .joinOutcomes ctx pkt ⟨n, bits⟩), (8, .stepVerdict ctx ⟨pkt, n, bits⟩)],
      (s.halted = true ∨ pkt.ptype.toNat ≠ x.1 ∨ pkt.dest.toNat ≠ s.me ∨ s.delivered pkt = false → exec x.2 s = .next s) ∧
      (s.halted = false → pkt.ptype.toNat = x.1 → pkt.dest.toNat = s.me → s.delivered pkt = true → u = s.packetTaken pkt →
        (u.staleEpoch pkt = true → exec x.2 s = .next (u.dropStale pkt)) ∧
        (u.staleEpoch pkt = false → u.flag Fld.WF_CTRL_serving = false ∨ u.boundUid pkt.uid.toNat = none →
          exec x.2 s = .next (if isResponse x.1 then u else u.answer pkt 2)))) ∧
    (u.staleEpoch pkt = true ↔ u.get Fld.KS_ATTR_state pkt.keySlot.toNat = 2 ∨ (u.get Fld.KS_ATTR_class pkt.keySlot.toNat = 1 ∧
      pkt.keyEpoch.toNat ≠ u.get Fld.KS_ATTR_epoch pkt.keySlot.toNat ∧ pkt.keyEpoch.toNat ≠ (u.get Fld.KS_ATTR_epoch pkt.keySlot.toNat + 1) % 256)) ∧
    (∀ t, s.admits pkt t b → u = s.packetTaken pkt →
      (pkt.ptype = 1 → ∀ va len lo : Nat, va = pkt.ref.toNat → len = pkt.args.toNat % 2 ^ 32 → lo = va / 64 * 64 →
        (len = 0 ∨ 65536 < len → exec (.readReq pkt) s = .next (u.answer pkt 1)) ∧
        (len ≠ 0 → len ≤ 65536 → ∀ (h : HomePages) (w : State), u.homePages b 1 (cutPages lo ((va + len + 63) / 64 * 64 - lo)) = (h, w) →
          (∀ st, h = .refuse st → exec (.readReq pkt) s = .next (w.answer pkt st)) ∧ (h = .wait → exec (.readReq pkt) s = .next (w.hold pkt)) ∧
          (∀ ps, h = .ok ps → pkt.ledger.toNat ≠ pagerWord ∨ w.guestFrame (w.basketUid b) va = none →
            exec (.readReq pkt) s = .next ((w.watchAway b pkt ps).serveParts b pkt ps)) ∧
          (∀ ps f, h = .ok ps → pkt.ledger.toNat = pagerWord → w.guestFrame (w.basketUid b) va = some f → exec (.readReq pkt) s =
            .next (((w.emitAll (w.pagePackets b pkt.src.toNat (va / 65536 * 65536) (f * 65536))).freeGuest b f).guestWatches b pkt.src.toNat
              (va / 65536 * 65536))))) ∧
      (pkt.ptype = 3 → ∀ va len : Nat, va = pkt.ref.toNat → len = pkt.args.toNat % 2 ^ 32 →
        (len = 0 ∨ len % 64 ≠ 0 ∨ va % 64 ≠ 0 ∨ pkt.payload.length ≠ len + (if u.sidecarOn b then len / 8 else 0) →
          exec (.writePkt pkt) s = .next (u.answer pkt 1)) ∧
        (len ≠ 0 → len % 64 = 0 → va % 64 = 0 → pkt.payload.length = len + (if u.sidecarOn b then len / 8 else 0) →
          ∀ (h : HomePages) (w : State), u.homePages b 2 (cutPages va len) = (h, w) →
          (∀ st, h = .refuse st → exec (.writePkt pkt) s = .next (w.answer pkt st)) ∧ (h = .wait → exec (.writePkt pkt) s = .next (w.hold pkt)) ∧
          (∀ ps y, h = .ok ps → y = ps.foldl (fun s x => s.homeWrite b pkt x.1 ((pkt.payload.drop (x.1 - va)).take x.2.1)
              ((pkt.payload.drop (len + (x.1 - va) / 8)).take (x.2.1 / 8)) x.2.2) w →
            exec (.writePkt pkt) s = .next (if y.relays.any (fun x => x.pkt == pkt) then y else y.answer pkt 0)))) ∧
      (pkt.ptype = 4 → ∀ va : Nat, va = pkt.ref.toNat →
        (va % 16 ≠ 0 → exec (.atomicPkt pkt) s = .next (u.answer pkt 1)) ∧
        (va % 16 = 0 → ∀ (h : HomePages) (w : State), u.homePages b 4 [(va, 16)] = (h, w) →
          (∀ st, h = .refuse st → exec (.atomicPkt pkt) s = .next (w.answer pkt st)) ∧
          (h = .wait → exec (.atomicPkt pkt) s = .next { w with updates := w.updates ++ [.packet pkt] }) ∧
          (∀ a len m, h = .ok [(a, len, .atT3 m)] → exec (.atomicPkt pkt) s = .next (w.relay b m pkt va 16 pkt.args.toNat [])) ∧
          (∀ a len phys i, ∀ pl ∈ [(PageAt.here phys, FencePlace.here phys), (.atT4 i, .spill i)],
            h = .ok [(a, len, pl.1)] →
            (w.fenceGet b va pl.2 = none → exec (.atomicPkt pkt) s = .next ((w.fencePoison b va pl.2).answer pkt 4)) ∧
            (w.fenceGet b va pl.2 ≠ none → exec (.atomicPkt pkt) s = .next
              ((w.fenceSignal b va pl.2 (pkt.args.toNat % 2 ^ 64) (pkt.args.toNat / 2 ^ 64)).answer pkt 0))))) ∧
      (pkt.ptype = 2 → ∀ (va k len : Nat) (cipher plain : List Byte), va = pkt.ref.toNat + pkt.args.toNat % 2 ^ 32 →
        k = (if u.sidecarOn b then 72 else 64) → len = 64 * (pkt.payload.length / k) → cipher = pkt.payload.take len →
        plain = (List.range (len / 64)).flatMap (fun i =>
          decLine (u.basketKey b) (tweakOf (u.basketUid b) (va + 64 * i)) ((cipher.drop (64 * i)).take 64)) →
        (va % 64 ≠ 0 ∨ pkt.payload.length % k ≠ 0 ∨ pkt.payload = [] → exec (.readData pkt) s = .next u) ∧
        (va % 64 = 0 → pkt.payload.length % k = 0 → pkt.payload ≠ [] →
          (∀ core slot o, u.wordOp pkt.ledger.toNat = some (core, slot, o) →
            (u.fc.fenced.contains core = true → exec (.readData pkt) s = .next u.stale) ∧
            (u.fc.fenced.contains core = false → u.badLine b va cipher (pkt.payload.drop len) = none →
              exec (.readData pkt) s = .next (u.opData core slot o pkt.src.toNat va plain)) ∧
            (∀ l, u.fc.fenced.contains core = false → u.badLine b va cipher (pkt.payload.drop len) = some l → exec (.readData pkt) s =
              .next ((u.integrityFail (u.get Fld.CAP_BASKET_partition b)).failEntry core slot o 0x0A l))) ∧
          (u.wordOp pkt.ledger.toNat = none → ∀ (y : State) (d : DataFor), y = u.ownRead pkt.ledger.toNat pkt.src.toNat pkt.ref.toNat →
            d = u.dataFor b pkt.ledger.toNat pkt.src.toNat va len →
            (u.badLine b va cipher (pkt.payload.drop len) = none →
              exec (.readData pkt) s = .next (y.takeData b pkt.src.toNat va pkt plain d) ∧ (d = .nobody → exec (.readData pkt) s = .next y.stale)) ∧
            (∀ l, u.badLine b va cipher (pkt.payload.drop len) = some l →
              (pkt.ledger.toNat = relayWord → exec (.readData pkt) s = .next (u.takeData b pkt.src.toNat va pkt plain d)) ∧
              (pkt.ledger.toNat ≠ relayWord → exec (.readData pkt) s =
                .next (y.dataFails b pkt.ledger.toNat pkt.src.toNat pkt.ref.toNat d)))))) ∧
      (pkt.ptype = 5 → ∀ o : OfferRec, o =
        { uid := u.basketUid b, kernel := pkt.ref.toNat, channel := bitsOf pkt.args.toNat 0 8, rank := bitsOf pkt.args.toNat 8 14,
          src := pkt.src.toNat, ledger := pkt.ledger.toNat, format := bitsOf pkt.args.toNat 22 5, rows := bitsOf pkt.args.toNat 32 32,
          cols := bitsOf pkt.args.toNat 64 32, dest := none } →
        exec (.offerPkt pkt) s = .next { u with offers := u.offers ++ [o] }.matchOffers) ∧
      (pkt.ptype = 6 → ∀ mine : OpEnv × OpRec → Bool, mine = (fun x =>
          opCode x.2.desc == 0x0C && x.2.sent && opField x.2.desc 10 1 == bitsOf pkt.args.toNat 0 8 &&
          x.2.waits.contains (.payload (bitsOf pkt.args.toNat 8 14)) &&
          (chunkAt x.2.fetched (payloadBase + bitsOf pkt.args.toNat 96 32) (max 1 pkt.payload.length)).isNone) →
        ((u.kernelOps b pkt.ref.toNat).find? mine = none → exec (.dataPkt pkt) s = .next u) ∧
        (∀ e o, (u.kernelOps b pkt.ref.toNat).find? mine = some (e, o) →
          bitsOf pkt.args.toNat 22 5 ≠ (exchangeTile e o.desc true).t.fmt ∨ bitsOf pkt.args.toNat 32 32 ≠ (exchangeTile e o.desc true).n ∨
            bitsOf pkt.args.toNat 64 32 ≠ (exchangeTile e o.desc true).m →
          exec (.dataPkt pkt) s = .next (u.failEntry e.core e.slot o 0x09 (bitsOf pkt.args.toNat 8 14))) ∧
        (∀ (e : OpEnv) (o n : OpRec) (t : Tile), (u.kernelOps b pkt.ref.toNat).find? mine = some (e, o) →
          t = exchangeTile e o.desc true → bitsOf pkt.args.toNat 22 5 = t.t.fmt → bitsOf pkt.args.toNat 32 32 = t.n →
          bitsOf pkt.args.toNat 64 32 = t.m →
          n = { o with fetched := addChunk (payloadBase + bitsOf pkt.args.toNat 96 32) pkt.payload o.fetched } →
          (chunkAt n.fetched payloadBase (payloadLen t.t t.n t.m) = none → exec (.dataPkt pkt) s = .next (u.setOp e.core e.slot n)) ∧
          (∀ bs, chunkAt n.fetched payloadBase (payloadLen t.t t.n t.m) = some bs →
            exec (.dataPkt pkt) s = .next (((u.setOp e.core e.slot n).received e n (payloadRows t.t t.n t.m bs)).answer pkt 0)))) ∧
      (pkt.ptype = 7 → ∀ ops : List (OpEnv × OpRec), ops = (u.kernelOps b pkt.ref.toNat).filter (fun x => opCode x.2.desc == 0x0D &&
          (Reduction.of x.2.desc).chan == pkt.args.toNat % 256 && x.2.waitsPartials) →
        (ops = [] → exec (.partialPkt pkt) s = .next u) ∧
        (∀ (e : OpEnv) (o : OpRec) (f : Option OpRec), ops.find? (fun x => x.2.waits.contains (.partials (partialOf pkt).rank) &&
              !(lanesHeld x.2.parts (partialOf pkt).rank (partialOf pkt).tile).contains (partialOf pkt).first) = some (e, o) ∨
            (ops.find? (fun x => x.2.waits.contains (.partials (partialOf pkt).rank) &&
              !(lanesHeld x.2.parts (partialOf pkt).rank (partialOf pkt).tile).contains (partialOf pkt).first) = none ∧ ops.head? = some (e, o)) →
          (u.takePartial e o (partialOf pkt)).opAt e.core e.slot o.index = f →
          (f = none → exec (.partialPkt pkt) s = .next (u.takePartial e o (partialOf pkt))) ∧
          (∀ n, f = some n → exec (.partialPkt pkt) s = .next (if n.fault.isNone && o.waits.contains (.partials (partialOf pkt).rank) &&
              !n.waits.contains (.partials (partialOf pkt).rank)
            then (u.takePartial e o (partialOf pkt)).answer pkt 0 else u.takePartial e o (partialOf pkt))))) ∧
      (pkt.ptype = 9 → ∀ (at' c va : Nat), at' = pkt.ref.toNat * 64 → c = pkt.args.toNat % 16 → va = at' / 65536 * 65536 →
        (at' ≠ va + 4096 * c ∨ pkt.payload.length < 4096 ∨ 2 ^ 56 ≤ at' → exec (.pagePkt pkt) s = .next (u.answer pkt 1)) ∧
        (at' = va + 4096 * c → 4096 ≤ pkt.payload.length → at' < 2 ^ 56 →
          (u.pageMove b va pkt.src.toNat = none → exec (.pagePkt pkt) s = .next (u.answer pkt 1)) ∧
          (∀ (m n : Move) (w k : State) (g : Nat), u.pageMove b va pkt.src.toNat = some (m, w) → m.kind = .guestIn g →
            k = w.putPage b at' (m.frame * 65536 + 4096 * c) (pkt.payload.take 4096) (pkt.payload.drop 4096) →
            n = { m with chunks := m.chunks ||| 2 ^ c } → n.chunks = 2 ^ 16 - 1 →
            exec (.pagePkt pkt) s = .next ({ k with moves := k.moves.filter (fun x => x.id != m.id) }.answer pkt 0)) ∧
          (∀ (m n : Move) (w k : State), u.pageMove b va pkt.src.toNat = some (m, w) →
            k = w.putPage b at' (m.frame * 65536 + 4096 * c) (pkt.payload.take 4096) (pkt.payload.drop 4096) →
            n = { m with chunks := m.chunks ||| 2 ^ c } → n.chunks ≠ 2 ^ 16 - 1 ∨ (∀ g, m.kind ≠ .guestIn g) →
            exec (.pagePkt pkt) s = .next { k with moves := k.moves.map (fun x => if x.id = m.id then n else x) }))))

/-- A lost host link ends its requests, a returned one resets its functions; DMA, function resets, TDISP, IDE keys and SPDM act as
their rules give (R496, R510, R520, R523, R525, R537, log entry 23, log entry 41, log entry 42, log entry 44, log entry 159, log
entry 181). -/
def Obligations.LinksDmaResetsInterfacesAndSpdm : Prop :=
  ∀ (s : State) (n : Fin 4) (req : Nat) (ok x y z w : Bool) (p : Fin 32) (stream index : BitVec 8) (key : BitVec 256)
      (r : SpdmRequest),
    (s.linkUp n = false → exec (.linkDown n) s = .next s) ∧
    (s.linkUp n = true → ∃ u : State, u.linkUp n = false ∧
      (∀ fn < 36, ∀ b < Fld.HI_LINK_STATE_up.width, bitOf (u.get Fld.HI_LINK_STATE_up fn) b = (bitOf (s.get Fld.HI_LINK_STATE_up fn) b && b != n.val)) ∧
      s.copiesBut u [Fld.HI_LINK_STATE_up] ∧ { u with regs := s.regs } = s ∧
      ∀ v : State, v = (s.dma.filter (fun d => d.link == n.val)).foldl (fun s d => s.failDma d 0x0F (0x4000 + n))
          { u with dma := s.dma.filter (fun d => d.link != n.val) } →
        exec (.linkDown n) s = .next (((v.linkFns n).foldl
          (fun s fn => s.count Fld.HI_LINK_DOWN_COUNT_count fn Fld.HI_EVENT_STATUS_down_wrap fn 0) v).report 0x3A n 0)) ∧
    (s.run.phase ≠ .running ∨ s.linkUp n = true ∨ linkCount (s.get Fld.HI_LINK_CFG_bifur) ≤ n.val → exec (.linkReturn n) s = .next s) ∧
    (s.run.phase = .running → s.linkUp n = false → n.val < linkCount (s.get Fld.HI_LINK_CFG_bifur) →
      ∃ t, exec (.linkReturn n) s = .next t ∧ t.linkUp n = true ∧ n.val ∈ t.run.trained ∧
        (∀ fn ∈ s.linkFns n, t.get Fld.HI_ATTACH_bus_master fn = 0 ∧ (n.val ∈ s.run.trained →
          t.get Fld.HI_ATTACH_attached fn = 0 ∧ t.flag Fld.HI_EVENT_STATUS_reattached fn = true) ∧ t.asleep fn = false) ∧
        s.copiesBut t ([Fld.HI_LINK_STATE_up, Fld.HI_ATTACH_bus_master] ++
          if n.val ∈ s.run.trained then [Fld.HI_ATTACH_attached, Fld.HI_EVENT_STATUS_reattached] else []) ∧ s.bytesSame t ∧ t.dma = s.dma) ∧
    (s.dma.find? (fun d => d.id == req && d.link == n.val) = none → exec (.dmaCompletion n req ok) s = .next s) ∧
    (∀ d, s.dma.find? (fun d => d.id == req && d.link == n.val) = some d →
      (s.goesOut d.part n d.addr = false → exec (.dmaCompletion n req ok) s = .next s) ∧
      (s.goesOut d.part n d.addr = true →
        ∃ u : State, u.dma = s.dma.filter (fun d => d.id != req) ∧
          u.get64 Fld.FC_ENG_PROGRESS_LO_lo Fld.FC_ENG_PROGRESS_HI_hi (288 + n) =
            (s.get64 Fld.FC_ENG_PROGRESS_LO_lo Fld.FC_ENG_PROGRESS_HI_hi (288 + n) + 1) % 2 ^ 64 ∧
          s.fieldsBut u [(Fld.FC_ENG_PROGRESS_LO_lo, 288 + n.val), (Fld.FC_ENG_PROGRESS_HI_hi, 288 + n.val)] ∧
          { u with regs := s.regs, dma := s.dma } = s ∧
          (u.dmaOp d = none → exec (.dmaCompletion n req ok) s = .next u) ∧
          ∀ (o : OpRec) (b : Nat), u.dmaOp d = some o → b = s.slotBasket (d.core * 8 + d.slot) →
            exec (.dmaCompletion n req false) s = .next (((u.report 0x3B n 0).recordFault b
              (.translation d.va 2 (((u.leafAt b d.va).map Leaf.level).getD 4))).failEntry d.core d.slot o 0x0C d.va) ∧
            (d.write = true → exec (.dmaCompletion n req true) s = .next ((u.dmaWrite b d).endWait d.core d.slot o (· == .dma req))) ∧
            (d.write = false → (∀ bs, u.dmaRead b d = .ok bs →
              exec (.dmaCompletion n req true) s = .next (u.endAccess d.core d.slot { o with fetched := (d.va, bs) :: o.fetched } (· == .dma req))) ∧
              (∀ va, u.dmaRead b d = .poison va true →
                exec (.dmaCompletion n req true) s = .next ((u.integrityFail d.part).failEntry d.core d.slot o 0x0A va)) ∧
              (∀ va, u.dmaRead b d = .poison va false → exec (.dmaCompletion n req true) s = .next (u.failEntry d.core d.slot o 0x0A va))))) ∧
    (∀ addr fn, fn = (if s.inPool p n addr then linkFn0 n else p.val) → (s.goesOut p n addr = true ↔
      s.linkUp n = true ∧ s.flag Fld.HI_ATTACH_bus_master fn = true ∧ s.asleep fn = false)) ∧
    (p.val = 0 ∨ s.partitions.contains p.val = false → exec (.flrVf p) s = .next s) ∧
    (p.val ≠ 0 → s.partitions.contains p.val = true →
      exec (.flrVf p) s = .next (((s.closePart p).resetFn p).hostEvent p Fld.HI_EVENT_STATUS_flr_done)) ∧
    (s.partitions.contains 0 = false → exec .flrPf s = .next s) ∧
    (s.partitions.contains 0 = true → exec .flrPf s = .next (((s.closePart 0).resetFn 0).hostEvent 0 Fld.HI_EVENT_STATUS_flr_done)) ∧
    (n.val = 0 → exec (.flrCarrier n) s = .next s) ∧
    (n.val ≠ 0 → exec (.flrCarrier n) s = .next ((s.resetFn (32 + n)).hostEvent (32 + n) Fld.HI_EVENT_STATUS_flr_done)) ∧
    (∀ fn, (s.resetFn fn).get Fld.HI_ATTACH_bus_master fn = 0 ∧ s.fieldsBut (s.resetFn fn) [(Fld.HI_ATTACH_bus_master, fn)] ∧
      (Sparse.wf MsixVector.reset s.msix = true → ∀ k, ∀ v < 2048, (s.resetFn fn).vector k v = if k = fn then MsixVector.reset else s.vector k v) ∧
      (s.resetFn fn).asleep fn = false ∧ (∀ k, k ≠ fn → (s.resetFn fn).asleep k = s.asleep k) ∧
      { s.resetFn fn with regs := s.regs, msix := s.msix, d3hot := s.d3hot } = s) ∧
    (s.underLid p = false → exec (.tdispNonIdeTlp p) s = .next s) ∧
    (s.underLid p = true → ∃ u : State, u.get Fld.LID_PART_tdisp p = 3 ∧ s.onlyFields u [(Fld.LID_PART_tdisp, p.val)] ∧
      exec (.tdispNonIdeTlp p) s = .next (if s.get Fld.LID_PART_tdisp p = 2 then u.closePart p else u)) ∧
    (s.underLid p = true → s.get Fld.LID_PART_state p = 2 → s.get Fld.LID_PART_tdisp p = 0 ∨ s.get Fld.LID_PART_tdisp p = 3 →
      ∃ t, exec (.lockInterfaceRequest p) s = .next t ∧ t.get Fld.LID_PART_tdisp p = 1 ∧ s.onlyFields t [(Fld.LID_PART_tdisp, p.val)]) ∧
    (s.underLid p = false ∨ s.get Fld.LID_PART_state p ≠ 2 ∨ (s.get Fld.LID_PART_tdisp p ≠ 0 ∧ s.get Fld.LID_PART_tdisp p ≠ 3) →
      exec (.lockInterfaceRequest p) s = .next s) ∧
    (s.underLid p = true → s.get Fld.LID_PART_tdisp p = 1 →
      ∃ t, exec (.tdispRun p) s = .next t ∧ t.get Fld.LID_PART_tdisp p = 2 ∧ s.onlyFields t [(Fld.LID_PART_tdisp, p.val)]) ∧
    (s.underLid p = false ∨ s.get Fld.LID_PART_tdisp p ≠ 1 → exec (.tdispRun p) s = .next s) ∧
    (stream ≠ 0 → n * 256 + stream.toNat ∉ s.ideSelective n → 32 ≤ (s.ideSelective n).length → exec (.ideKmKeyProg n stream key) s = .next s) ∧
    (stream = 0 ∨ n * 256 + stream.toNat ∈ s.ideSelective n ∨ (s.ideSelective n).length < 32 →
      ∃ t, exec (.ideKmKeyProg n stream key) s = .next t ∧ Sparse.get 0 t.ideKeys (n * 256 + stream.toNat) = key.toNat + 1 ∧
      (∀ k, k ≠ n * 256 + stream.toNat → Sparse.get 0 t.ideKeys k = Sparse.get 0 s.ideKeys k) ∧ { t with ideKeys := s.ideKeys } = s) ∧
    (s.rimServes = false → exec (.spdmRequest r) s = .next s ∧ exec (.negotiateAlgorithms x y z w) s = .next s ∧
      exec (.getMeasurements index) s = .next s ∧ exec .getBinding s = .next s) ∧
    (s.rimServes = true →
      exec (.spdmRequest ⟨0x82, 0⟩) s = .next { s with outbox := s.outbox ++ [.spdm ([0x13, 0x02] ++ (s.flash.deviceCert ++ s.ident.aliasCert))] } ∧
      exec (.spdmRequest ⟨0x81, 0⟩) s = .next { s with
        outbox := s.outbox ++ [.spdm ([0x13, 0x01, 0x01] ++ sha512 (s.flash.deviceCert ++ s.ident.aliasCert))] } ∧
      exec (.spdmRequest ⟨0xE1, r.slot⟩) s = .next { s with outbox := s.outbox ++ [.spdm ([0x13, 0x61] ++ leBytes 4 spdmCapabilities)] } ∧
      (r.slot ≠ 0 → r.code = 0x82 ∨ r.code = 0x83 →
        exec (.spdmRequest r) s = .next { s with outbox := s.outbox ++ [.spdm [0x13, 0x7F, 0x01, 0x00]] }) ∧
      (r.code = 0xE6 ∨ r.code = 0xE7 ∨ r.code = 0xEE ∨ r.code = 0xED →
        exec (.spdmRequest r) s = .next { s with outbox := s.outbox ++ [.spdm [0x13, 0x7F, 0x07, r.code]] }) ∧
      (∃ d, exec (.spdmRequest r) s = .next { s with outbox := s.outbox ++ [.spdm d] }) ∧
      exec (.negotiateAlgorithms x y z w) s = .next { s with outbox := s.outbox ++
        [.spdm (if x && y && z && w then [0x13, 0x63] ++ spdmAlgorithms else [0x13, 0x7F, 0x05, 0x00])] } ∧
      exec .getBinding s = .next { s with outbox := s.outbox ++ [.spdm (s.flash.deviceCert ++ s.ident.bindingCert)] } ∧
      (∀ d, index ≠ 0 → index ≠ 0xFF → s.measure index.toNat = some d →
        exec (.getMeasurements index) s = .next { s with outbox := s.outbox ++ [.spdm ([0x13, 0x60] ++ measureBlock index.toNat d)] }) ∧
      (index ≠ 0 → index ≠ 0xFF → s.measure index.toNat = none →
        exec (.getMeasurements index) s = .next { s with outbox := s.outbox ++ [.spdm [0x13, 0x7F, 0x01, 0x00]] }) ∧
      exec (.getMeasurements 0) s = .next { s with outbox := s.outbox ++ [.spdm [0x13, 0x60, 38]] } ∧
      exec (.getMeasurements 0xFF) s = .next { s with outbox := s.outbox ++ [.spdm ([0x13, 0x60] ++
        ([1, 2, 3, 4, 5, 6] ++ (List.range 32).map (· + 0x10)).flatMap (fun k => measureBlock k ((s.measure k).getD 0)))] } ∧
      s.measure 1 = some Config.bootRomDigest ∧ s.measure 2 = some s.ident.image.digest ∧ s.measure 5 = some (sha512Nat s.manifestBytes))

/-- A challenge draws a nonce good for one go and 10 s; a wrong response costs a try; owner operations, key loads and zeroization
act or are refused (R543, R544, R545, R546, R549, R551, R553, R589, log entry 140, log entry 137). -/
def Obligations.OwnerAndKeySlotCommands : Prop :=
  ∀ (s : State) (a : Agent) (v : Word32),
    (s.fromPf a = false → exec (.ownerChallenge a v) s = .next s ∧ exec (.ownerProgram a v) s = .next s ∧ exec (.monitorUnlock a v) s = .next s ∧
      exec (.svnAdvance a v) s = .next s ∧ exec (.ownerRelease a v) s = .next s ∧ exec (.ksLoad a v) s = .next s ∧ exec (.ksZero a v) s = .next s) ∧
    (bitsOf v.toNat 0 4 ≠ 0 → exec (.ownerProgram a v) s = .next s) ∧ (bitsOf v.toNat 0 4 ≠ 1 → exec (.monitorUnlock a v) s = .next s) ∧
    (bitsOf v.toNat 0 4 ≠ 2 → exec (.svnAdvance a v) s = .next s) ∧ (bitsOf v.toNat 0 4 ≠ 3 → exec (.ownerRelease a v) s = .next s) ∧
    (s.flag Fld.LID_OWNER_CMD_nonce_valid = true → s.nonceTime + 10000000 ≤ s.time →
      ∃ t, exec .nonceExpire s = .next t ∧ t.get Fld.LID_OWNER_CMD_nonce_valid = 0 ∧ s.onlyFields t [(Fld.LID_OWNER_CMD_nonce_valid, 0)]) ∧
    (s.flag Fld.LID_OWNER_CMD_nonce_valid = false ∨ s.time < s.nonceTime + 10000000 → exec .nonceExpire s = .next s) ∧
    (s.fromPf a = true →
      (bitOf v.toNat 8 = true → ∃ t, exec (.ownerChallenge a v) s = .next t ∧ t.get Fld.LID_OWNER_CMD_nonce_valid = 1 ∧
        t.wordBytes Fld.LID_OWNER_NONCE_nonce 16 = bytes512 (Config.random s.freeCounter) ∧ t.nonceTime = s.time ∧
        { t with regs := s.regs, freeCounter := s.freeCounter, nonceTime := s.nonceTime } = s ∧ t.freeCounter = s.freeCounter + 1 ∧
        s.copiesBut t (fieldsOf Fld.LID_OWNER_CMD_op.reg ++ [Fld.LID_OWNER_NONCE_nonce])) ∧
      (bitOf v.toNat 8 = false → exec (.ownerChallenge a v) s = .next (s.writeReg Fld.LID_OWNER_CMD_op.reg 0 v.toNat)) ∧
      ∀ u, u = s.writeReg Fld.LID_OWNER_CMD_op.reg 0 v.toNat →
        s.onlyFields u ((fieldsOf Fld.LID_OWNER_CMD_op.reg).map (fun f => (f, 0))) ∧
        (∀ e ∈ [(1, Instr.monitorUnlock a v), (2, Instr.svnAdvance a v), (3, Instr.ownerRelease a v)], bitsOf v.toNat 0 4 = e.1 →
          (bitOf v.toNat 9 = false → exec e.2 s = .next u) ∧
          (bitOf v.toNat 9 = true →
            (u.flag Fld.LID_STATUS_owner_locked = true → exec e.2 s = .next
              ((u.set Fld.LID_OWNER_CMD_nonce_valid 0 0).set Fld.LID_OWNER_CMD_error 0 1)) ∧
            (u.flag Fld.LID_STATUS_owner_locked = false →
              u.slotEmpty 0 = true ∨ u.flag Fld.LID_OWNER_CMD_nonce_valid = false ∨ u.nonceTime + 10000000 ≤ u.time ∨
                u.wordBytes Fld.LID_OWNER_DATA_data 16 ≠ u.ownerResponse (keyBytes (u.keyOf 0) 64) e.1 →
              ∃ t, exec e.2 s = .next t ∧ t.get Fld.KS_USE_use_left = (u.get Fld.KS_USE_use_left - 1) % 2 ^ 24 ∧
                t.get Fld.LID_OWNER_CMD_nonce_valid = 0 ∧ t.get Fld.LID_OWNER_CMD_error = 1 ∧
                (u.get Fld.KS_USE_use_left ≤ 1 → t.get Fld.LID_STATUS_owner_locked = 1) ∧
                (1 < u.get Fld.KS_USE_use_left → t.get Fld.LID_STATUS_owner_locked = u.get Fld.LID_STATUS_owner_locked) ∧
                u.onlyFields t [(Fld.LID_OWNER_CMD_nonce_valid, 0), (Fld.KS_USE_use_left, 0), (Fld.LID_OWNER_CMD_tries, 0),
                  (Fld.LID_OWNER_CMD_error, 0), (Fld.LID_STATUS_owner_locked, 0)]))) ∧
        (∀ (w : State) (key : List Byte), w = (((u.set Fld.LID_OWNER_CMD_nonce_valid 0 0).set Fld.KS_USE_use_left 0 8).set Fld.LID_OWNER_CMD_tries 0 8) →
          key = keyBytes (u.keyOf 0) 64 → bitOf v.toNat 9 = true → u.flag Fld.LID_STATUS_owner_locked = false → u.slotEmpty 0 = false →
          u.flag Fld.LID_OWNER_CMD_nonce_valid = true → u.time < u.nonceTime + 10000000 →
          (bitsOf v.toNat 0 4 = 1 → u.wordBytes Fld.LID_OWNER_DATA_data 16 = u.ownerResponse key 1 →
            (w.flag Fld.LID_STATUS_conf_mode = true → exec (.monitorUnlock a v) s = .next (w.set Fld.LID_OWNER_CMD_error 0 1)) ∧
            (w.flag Fld.LID_STATUS_conf_mode = false → exec (.monitorUnlock a v) s =
              .next ({ w with run := { w.run with monitorUnlocked := true } }.set Fld.LID_OWNER_CMD_done 0 1))) ∧
          (bitsOf v.toNat 0 4 = 2 → u.wordBytes Fld.LID_OWNER_DATA_data 16 = u.ownerResponse key 2 →
            (s.ident.image.svn < s.ownerArg ∨ 64 < s.ownerArg → exec (.svnAdvance a v) s = .next (w.set Fld.LID_OWNER_CMD_error 0 1)) ∧
            (s.ownerArg ≤ s.ident.image.svn → s.ownerArg ≤ 64 → ∃ t, exec (.svnAdvance a v) s = .next t ∧
              t.fuses = { s.fuses with svn := max s.fuses.svn s.ownerArg } ∧ t.get Fld.LID_OWNER_CMD_done = 1 ∧
              { t with regs := s.regs, fuses := s.fuses } = s)) ∧
          (bitsOf v.toNat 0 4 = 3 → u.wordBytes Fld.LID_OWNER_DATA_data 16 = u.ownerResponse key 3 →
            (w.flag Fld.LID_STATUS_conf_mode = true → exec (.ownerRelease a v) s = .next (w.set Fld.LID_OWNER_CMD_error 0 1)) ∧
            (w.flag Fld.LID_STATUS_conf_mode = false → ∃ t, exec (.ownerRelease a v) s = .next t ∧
              (∀ e, s.fuses.owner[s.fuses.active]? = some e → t.fuses.owner[s.fuses.active]? = some { e with retired := true }) ∧
              (∀ i, i ≠ s.fuses.active → t.fuses.owner[i]? = s.fuses.owner[i]?) ∧ t.cell 0 = KeyCell.empty ∧ t.get Fld.KS_ATTR_state = 0 ∧
              t.get Fld.KS_ATTR_class = 0 ∧ t.get Fld.KS_USE_use_left = 8 ∧ t.get Fld.LID_OWNER_CMD_tries = 8 ∧
              t.get Fld.LID_OWNER_CMD_done = 1 ∧ { t with regs := s.regs, fuses := s.fuses, keys := s.keys } = s))) ∧
        (bitsOf v.toNat 0 4 = 0 → bitOf v.toNat 9 = false → exec (.ownerProgram a v) s = .next u) ∧
        (bitsOf v.toNat 0 4 = 0 → bitOf v.toNat 9 = true →
          (u.flag Fld.LID_STATUS_owner_locked = true ∨ u.fuses.active < 4 ∨ u.flag Fld.LID_STATUS_conf_mode = true ∨
              (∀ e ∈ u.fuses.owner.take 4, e.programmed = true ∨ e.retired = true) →
            exec (.ownerProgram a v) s = .next (u.set Fld.LID_OWNER_CMD_error 0 1)) ∧
          (∀ (i : Nat) (e : OwnerEntry), u.flag Fld.LID_STATUS_owner_locked = false → 4 ≤ u.fuses.active → u.flag Fld.LID_STATUS_conf_mode = false →
            i < 4 → u.fuses.owner[i]? = some e → e.programmed = false → e.retired = false →
            (∀ x ∈ u.fuses.owner.take i, x.programmed = true ∨ x.retired = true) →
            ∃ t, exec (.ownerProgram a v) s = .next t ∧ t.get Fld.LID_OWNER_CMD_done = 1 ∧
              t.fuses.owner[i]? = some ⟨fuseCells i (BitVec.ofNat 512 (beNat (u.wordBytes Fld.LID_OWNER_DATA_data 16))), true, false⟩ ∧
              (∀ k, k ≠ i → t.fuses.owner[k]? = s.fuses.owner[k]?) ∧ t.fuses.svn = s.fuses.svn ∧
              { t with regs := s.regs, fuses := s.fuses } = s))) ∧
    (s.fromPf a = true → ∀ k, k = bitsOf v.toNat 0 8 →
      (∀ u, u = s.writeReg Fld.KS_ZERO_slot.reg 0 v.toNat →
        (bitOf v.toNat 8 = false → exec (.ksZero a v) s = .next u) ∧
        (bitOf v.toNat 8 = true → u.pfSlotOwner k = none → exec (.ksZero a v) s = .next (u.set Fld.KS_ZERO_error 0 1)) ∧
        (bitOf v.toNat 8 = true → u.pfSlotOwner k ≠ none → ∃ t, exec (.ksZero a v) s = .next t ∧ t.cell k = KeyCell.empty ∧
          t.get Fld.KS_ATTR_state k = 0 ∧ t.get Fld.KS_ATTR_class k = 0 ∧ t.get Fld.KS_ATTR_epoch k = u.get Fld.KS_ATTR_epoch k ∧
          t.get Fld.KS_ZERO_done = 1 ∧ (∀ j, j ≠ k → t.cell j = s.cell j) ∧ { t with regs := s.regs, keys := s.keys } = s)) ∧
      (∀ u, u = s.writeReg Fld.KS_LOAD_CMD_slot.reg 0 v.toNat →
        (bitOf v.toNat 16 = false → exec (.ksLoad a v) s = .next u) ∧
        (∀ (w : State) (c : Nat), bitOf v.toNat 16 = true → w = (List.range 24).foldl (fun s i => s.set Fld.KS_LOAD_DATA_data i 0) u →
            c = bitsOf v.toNat 8 3 →
          (c = 0 ∨ 6 ≤ c ∨ bitsOf v.toNat 12 4 ≠ 0 ∨ bitsOf v.toNat 23 9 ≠ 0 → exec (.ksLoad a v) s = .next (w.loadError 3)) ∧
          (1 ≤ c → c ≤ 5 → bitsOf v.toNat 12 4 = 0 → bitsOf v.toNat 23 9 = 0 →
            (k < 33 → exec (.ksLoad a v) s = .next (w.loadError 4)) ∧
            (33 ≤ k → c ≠ 1 ∨ w.get Fld.KS_LOAD_USE_use_left ≠ 0xFFFFFF ∨ w.pfSlotOwner k = none →
              exec (.ksLoad a v) s = .next (w.loadError 1)) ∧
            (33 ≤ k → c = 1 → w.get Fld.KS_LOAD_USE_use_left = 0xFFFFFF → w.pfSlotOwner k ≠ none →
              (w.get Fld.KS_ATTR_state k ≠ 0 → exec (.ksLoad a v) s = .next (w.loadError 2)) ∧
              (w.get Fld.KS_ATTR_state k = 0 → ∃ t, exec (.ksLoad a v) s = .next t ∧ t.keyOf k = keyFrom (u.wordBytes Fld.KS_LOAD_DATA_data 24) ∧
                t.get Fld.KS_ATTR_state k = 1 ∧ t.get Fld.KS_ATTR_class k = 1 ∧ t.get Fld.KS_USE_use_left k = 0xFFFFFF ∧
                t.get Fld.KS_ATTR_expire_reset k = bitsOf v.toNat 11 1 ∧ t.get Fld.KS_LOAD_CMD_done = 1 ∧ (∀ j, j ≠ k → t.cell j = s.cell j) ∧
                { t with regs := s.regs, keys := s.keys } = s)))))) ∧
    (∀ i key, fuseValue i (fuseCells i key) = key)

/-- A member takes a charter that passes every check; keys are loaded, acknowledged and made active; an amendment and an import go
as their rules give (R564, R565, R567, R574, R575, R577, R589, log entry 132, log entry 133, log entry 136, log entry 130, log
entry 131). -/
def Obligations.LidsFormAmendAndImport : Prop :=
  ∀ (s : State) (p : Fin 32) (charter key : List Byte) (src : ModuleId) (id bundle : BitVec 64) (digest macKey : BitVec 512) (epoch : BitVec 8)
      (memKey : BitVec 768) (kw : BitVec 256) (uses : BitVec 24) (v : Word32) (k : Nat) (r : LidRec), k = s.memSlot p → r = s.lidAt p →
    (charterOk charter = false ∨ sha512 key ≠ s.charterDigest p ∨ charterVerifies charter key = false ∨ s.ownEntry p charter = false ∨
        s.underLid p = false ∨ fieldAt charter 0x14 1 ≠ k ∨ s.get Fld.KS_ATTR_state k ≠ 0 ∨ s.get Fld.KS_ATTR_state (k + 1) ≠ 0 ∨
        s.accepted charter = false ∨ 2 ≤ s.get Fld.LID_PART_state p → exec (.lidCharter p charter key) s = .next s) ∧
    (charterOk charter = true → sha512 key = s.charterDigest p → charterVerifies charter key = true → s.ownEntry p charter = true →
      s.underLid p = true → fieldAt charter 0x14 1 = k → s.get Fld.KS_ATTR_state k = 0 → s.get Fld.KS_ATTR_state (k + 1) = 0 →
      s.accepted charter = true → s.get Fld.LID_PART_state p < 2 → ∃ u : State, u.get Fld.LID_PART_state p = 1 ∧
        u.lidAt p = { LidRec.none with charter := charter, key := key } ∧ s.fieldsBut u [(Fld.LID_PART_state, p.val)] ∧
        { u with regs := s.regs, lids := s.lids } = s ∧
        (s.leads p charter = false → exec (.lidCharter p charter key) s = .next u) ∧
        (s.leads p charter = true → ∀ w, w = u.draw768.2.drawn.loadLidKeys p (s.get Fld.KS_ATTR_epoch k + 1) u.draw768.1
            (keyFrom (bytes512 u.draw768.2.randomValue)) →
          exec (.lidCharter p charter key) s = .next (w.shareKeys p (s.charterOthers p charter)))) ∧
    (∀ (m : Nat) (msg : RimMsg), ∃ pkt : Packet, isRimPacket pkt = true ∧ pkt.dest = BitVec.ofNat 14 m ∧ pkt.src = BitVec.ofNat 14 s.me ∧
      s.sendRim m msg = { s with outbox := s.outbox ++ [.rim pkt msg] }) ∧
    (∀ (ms : List (List Byte)) (w : State), w = ms.foldl (fun s m => s.sendKeys p m) s →
      (ms = [] → s.shareKeys p ms = (w.setLid p { r with awaits := [], sharing := false }).lidActive p) ∧
      (ms ≠ [] → s.shareKeys p ms = w.setLid p { r with awaits := ms.map memberModule, since := w.time, sharing := true })) ∧
    (∀ m : List Byte, s.sendKeys p m = (if Config.attests s.freeCounter (memberModule m) (m.drop 8) (charterAccepts r.charter) then
      s.drawn.sendRim (memberModule m) (.keyDist (BitVec.ofNat 64 (charterId r.charter)) (sha512 r.charter) (memberPart m) (s.get Fld.KS_ATTR_epoch k))
      else s.drawn)) ∧
    (∀ (e : Nat) (mem mac : BitVec 768) (t : State), t = s.loadLidKeys p e mem mac → t.keyOf k = mem ∧ t.keyOf (k + 1) = mac ∧
      t.get Fld.KS_ATTR_state k = 1 ∧ t.get Fld.KS_ATTR_state (k + 1) = 1 ∧ t.get Fld.KS_ATTR_class k = 1 ∧ t.get Fld.KS_ATTR_class (k + 1) = 4 ∧
      t.get Fld.KS_ATTR_epoch k = e % 256 ∧ t.get Fld.KS_ATTR_epoch (k + 1) = e % 256 ∧ (∀ j, j ≠ k → j ≠ k + 1 → t.cell j = s.cell j)) ∧
    (s.get Fld.LID_PART_state p ≠ 1 ∨ charterId r.charter ≠ id.toNat ∨ sha512 r.charter ≠ bytes512 digest ∨ s.get Fld.KS_ATTR_state k ≠ 0 ∨
        s.get Fld.KS_ATTR_state (k + 1) ≠ 0 → exec (.keyDist p id digest epoch memKey macKey) s = .next s) ∧
    (s.get Fld.LID_PART_state p = 1 → charterId r.charter = id.toNat → sha512 r.charter = bytes512 digest → s.get Fld.KS_ATTR_state k = 0 →
      s.get Fld.KS_ATTR_state (k + 1) = 0 → ∀ t, t = s.loadLidKeys p epoch.toNat memKey (keyFrom (bytes512 macKey)) →
        exec (.keyDist p id digest epoch memKey macKey) s = .next (t.sendRim (memberModule (charterMember r.charter 0)) (.keyAck id))) ∧
    (∀ w, w = s.unmarkLost src.toNat →
      (r.sharing = false ∨ r.removal ≠ none ∨ src.toNat ∉ r.awaits → exec (.keyAck p src) s = .next w) ∧
      (r.sharing = true → r.removal = none → src.toNat ∈ r.awaits → ∀ n, n = { r with awaits := r.awaits.erase src.toNat } →
        (n.awaits ≠ [] → exec (.keyAck p src) s = .next (w.setLid p n)) ∧
        (n.awaits = [] → ∀ t, t = (w.setLid p { n with sharing := false }).lidActive p → t.get Fld.LID_PART_state p = 2 ∧
          exec (.keyAck p src) s = .next ((s.charterOthers p r.charter).foldl
            (fun s m => s.sendRim (memberModule m) (.lidReady (BitVec.ofNat 64 (charterId r.charter)))) t)))) ∧
    (s.get Fld.LID_PART_state p = 1 → charterId r.charter = id.toNat → s.get Fld.KS_ATTR_state k = 1 →
      ∃ t, exec (.lidReady p id) s = .next t ∧ t.get Fld.LID_PART_state p = 2 ∧
        t.get64 Fld.LID_ID_LO_id_lo Fld.LID_ID_HI_id_hi p = id.toNat ∧ t.get Fld.LID_CHARTER_GEN_gen p = charterGen r.charter ∧
        s.onlyFields t [(Fld.LID_PART_state, p.val), (Fld.LID_ID_LO_id_lo, p.val), (Fld.LID_ID_HI_id_hi, p.val), (Fld.LID_CHARTER_GEN_gen, p.val)]) ∧
    (s.get Fld.LID_PART_state p ≠ 1 ∨ charterId r.charter ≠ id.toNat ∨ s.get Fld.KS_ATTR_state k ≠ 1 → exec (.lidReady p id) s = .next s) ∧
    (r.sharing = true → r.removal = none → r.since + max 1000 (s.get Fld.LID_REVOKE_TIMEOUT_us) ≤ s.time →
      exec (.keyDistTimeout p) s = .next (s.startRemoval p .dissolved [])) ∧
    (r.sharing = false ∨ r.removal ≠ none ∨ s.time < r.since + max 1000 (s.get Fld.LID_REVOKE_TIMEOUT_us) →
      exec (.keyDistTimeout p) s = .next s) ∧
    (s.get Fld.LID_PART_state p ≠ 2 ∨ r.removal ≠ none ∨ charterOk charter = false ∨ key ≠ r.key ∨ charterVerifies charter key = false ∨
        charterId charter ≠ charterId r.charter ∨ charterGen charter ≤ charterGen r.charter ∨ fieldAt charter 0x14 1 ≠ k →
      exec (.lidAmend p charter key) s = .next s) ∧
    (s.get Fld.LID_PART_state p = 2 → r.removal = none → charterOk charter = true → key = r.key → charterVerifies charter key = true →
      charterId charter = charterId r.charter → charterGen r.charter < charterGen charter → fieldAt charter 0x14 1 = k →
      (s.ownEntry p charter = false → exec (.lidAmend p charter key) s = .next (s.startRemoval p .amended [])) ∧
      (s.ownEntry p charter = true → ∃ u : State, (u.lidAt p).charter = charter ∧ u.get Fld.LID_PART_state p = 2 ∧
        u.get Fld.KS_ATTR_epoch k = (s.get Fld.KS_ATTR_epoch k + 1) % 256 ∧ u.get Fld.KS_ATTR_epoch (k + 1) = (s.get Fld.KS_ATTR_epoch (k + 1) + 1) % 256 ∧
        u.get Fld.LID_CHARTER_GEN_gen p = charterGen charter ∧ { u with regs := s.regs, lids := s.lids } = s ∧
        ∀ added, added = (s.charterOthers p charter).filter (fun m => !(charterEntries r.charter).contains m) →
          exec (.lidAmend p charter key) s = .next (if s.leads p charter && !added.isEmpty then u.shareKeys p added else u))) ∧
    (s.takes (.host p) (0xE0410 + 0x20 * p.val) = true → ∀ u, u = s.mmioWrite (.host p) (0xE0410 + 0x20 * p.val) v.toNat →
      (bitOf v.toNat 8 = false ∨ s.flag Fld.LID_IMPORT_CMD_busy p = true → exec (.lidImport p v) s = .next u) ∧
      (bitOf v.toNat 8 = true → s.flag Fld.LID_IMPORT_CMD_busy p = false →
        ∃ w : State, w.get Fld.LID_IMPORT_CMD_busy p = 1 ∧ w.get Fld.LID_IMPORT_CHUNKS_chunks p = 0 ∧
          w.imports = Sparse.set Import.none u.imports p
            { Import.none with
              basket := u.get Fld.LID_IMPORT_CMD_basket_index p,
              src := 2 ^ 6 * u.get Fld.LID_IMPORT_SRC_LO_src_lo p + 2 ^ 32 * u.get Fld.LID_IMPORT_SRC_HI_src_hi p,
              dst := 2 ^ 6 * u.get Fld.LID_IMPORT_DST_LO_dst_lo p + 2 ^ 32 * u.get Fld.LID_IMPORT_DST_HI_dst_hi p } ∧
          u.fieldsBut w [(Fld.LID_IMPORT_CMD_busy, p.val), (Fld.LID_IMPORT_CHUNKS_chunks, p.val)] ∧
          { w with regs := u.regs, imports := u.imports } = u ∧ exec (.lidImport p v) s = .next (w.importStep p))) ∧
    (∀ x, s.importAt p = some x →
      (s.get Fld.LID_PART_state p ≠ 2 → s.importStep p = s.importFail p x 8) ∧
      (s.get Fld.LID_PART_state p = 2 → s.basketOwner x.basket ≠ some p.val → s.importStep p = s.importFail p x 7) ∧
      (s.get Fld.LID_PART_state p = 2 → s.basketOwner x.basket = some p.val → ∀ slot kw, x.key = some (slot, kw) →
        s.importStep p = s.importChunks p x slot kw ((x.len - x.plain.length + 65535) / 65536))) ∧
    (s.partitions.find? (fun q => s.get Fld.LID_PART_state q == 2 && s.get64 Fld.LID_ID_LO_id_lo Fld.LID_ID_HI_id_hi q == id.toNat) = none →
      exec (.keyRelease id bundle kw uses) s = .next s) ∧
    (∀ q, s.partitions.find? (fun q => s.get Fld.LID_PART_state q == 2 && s.get64 Fld.LID_ID_LO_id_lo Fld.LID_ID_HI_id_hi q == id.toNat) = some q →
      (s.freeWrap q = none ∨ uses = 0 ∨ uses = 0xFFFFFF → exec (.keyRelease id bundle kw uses) s = .next s) ∧
      (∀ j, s.freeWrap q = some j → uses ≠ 0 → uses ≠ 0xFFFFFF → ∃ t, exec (.keyRelease id bundle kw uses) s = .next t ∧
        t.keyOf j = keyFrom (beBytes 32 kw.toNat) ∧ (t.cell j).bundle = some bundle ∧ t.get Fld.KS_ATTR_state j = 1 ∧ t.get Fld.KS_ATTR_class j = 3 ∧
        t.get Fld.KS_ATTR_expire_reset j = 1 ∧ t.get Fld.KS_USE_use_left j = uses.toNat ∧ (∀ i, i ≠ j → t.cell i = s.cell i) ∧
        { t with regs := s.regs, keys := s.keys } = s))

/-- A dissolved, revoked, departed or removed lid revokes its slots, stops, tells or answers the others, zeroizes its
slots and is scrubbed (R549, R551, R581, R582, R584, R585, R586, R567, R589, log entry 134, log entry 135). -/
def Obligations.LidsAreRemovedInOrder : Prop :=
  ∀ (s : State) (p : Fin 32) (id : BitVec 64) (sig : List Byte) (src : ModuleId) (slot epoch : BitVec 8) (mac : BitVec 512) (a : Agent) (v : Word32)
      (r : LidRec), r = s.lidAt p →
    (s.get Fld.LID_PART_state p = 0 ∨ s.get Fld.LID_PART_state p = 4 ∨ charterId r.charter ≠ id.toNat ∨
        ecdsaVerify (pointOf r.key) (sha512 (Config.dissolveMessage id)) sig = false → exec (.lidDissolve p id sig) s = .next s) ∧
    (s.get Fld.LID_PART_state p ≠ 0 → s.get Fld.LID_PART_state p ≠ 4 → charterId r.charter = id.toNat →
      ecdsaVerify (pointOf r.key) (sha512 (Config.dissolveMessage id)) sig = true →
      exec (.lidDissolve p id sig) s = .next (s.startRemoval p .dissolved [])) ∧
    (∀ w, w = s.unmarkLost src.toNat →
      (s.partOfLid id = none → exec (.revoke id src slot epoch mac) s = .next w ∧ exec (.depart id src mac) s = .next w) ∧
      ∀ q, s.partOfLid id = some q →
      (s.macHeld q = false ∨ s.memSlot q ≠ slot.toNat ∨ mac ≠ s.lidMac q (revokeBytes id.toNat slot.toNat epoch.toNat) →
        exec (.revoke id src slot epoch mac) s = .next w) ∧
      (s.macHeld q = true → s.memSlot q = slot.toNat → mac = s.lidMac q (revokeBytes id.toNat slot.toNat epoch.toNat) →
        exec (.revoke id src slot epoch mac) s = .next (w.startRemoval q .revoked [src.toNat])) ∧
      (s.macHeld q = false ∨ (s.lidAt q).removal ≠ none ∨ mac ≠ s.lidMac q (departBytes id.toNat src.toNat) →
        exec (.depart id src mac) s = .next w) ∧
      (s.macHeld q = true → (s.lidAt q).removal = none → mac = s.lidMac q (departBytes id.toNat src.toNat) →
        ∃ t pkt, exec (.depart id src mac) s = .next t ∧ t.outbox = s.outbox ++ [.rim pkt (.revokeAck id)] ∧ pkt.dest = src ∧
          t.get Fld.KS_ATTR_epoch (s.memSlot q) = (s.get Fld.KS_ATTR_epoch (s.memSlot q) + 1) % 256 ∧
          t.get Fld.KS_ATTR_epoch (s.memSlot q + 1) = (s.get Fld.KS_ATTR_epoch (s.memSlot q + 1) + 1) % 256 ∧
          s.copiesBut t [Fld.KS_ATTR_epoch, Fld.LID_PART_epoch] ∧ { t with regs := w.regs, outbox := w.outbox } = w)) ∧
    (s.takes a (0xE0100 + 0x10 * p.val) = false → exec (.lidPartRemove a p v) s = .next s) ∧
    (s.takes a (0xE0100 + 0x10 * p.val) = true → ∀ u, u = s.mmioWrite a (0xE0100 + 0x10 * p.val) v.toNat →
      (bitOf v.toNat 21 = false ∨ s.fromPf a = false ∨ a = .rim → exec (.lidPartRemove a p v) s = .next u) ∧
      (bitOf v.toNat 21 = true → s.fromPf a = true → a ≠ .rim → ∀ w, w = u.set Fld.LID_PART_remove p 1 → w.get Fld.LID_PART_remove p = 1 ∧
        (u.get Fld.LID_PART_state p = 1 ∨ u.get Fld.LID_PART_state p = 2 → exec (.lidPartRemove a p v) s = .next (w.startRemoval p .departs [])) ∧
        (u.get Fld.LID_PART_state p ≠ 1 → u.get Fld.LID_PART_state p ≠ 2 → exec (.lidPartRemove a p v) s = .next w))) ∧
    (∀ (why : Removal) (ms : List Nat),
      (r.removal = none → s.startRemoval p why ms =
        (s.setLid p { r with removal := some why, answers := ms, awaits := [], sharing := false, sent := false }).removalStep p) ∧
      (r.removal ≠ none → r.sent = false → s.startRemoval p why ms = s.setLid p { r with answers := r.answers ++ ms }) ∧
      (r.removal ≠ none → r.sent = true →
        s.startRemoval p why ms = ms.foldl (fun s m => s.sendRim m (.revokeAck (BitVec.ofNat 64 (charterId r.charter)))) s)) ∧
    (r.removal = none → s.removalStep p = s) ∧
    (s.get Fld.LID_PART_state p = 1 ∨ s.get Fld.LID_PART_state p = 2 → s.loading = true → s.removalStep p = s) ∧
    (s.get Fld.LID_PART_state p = 3 → r.sent = false → s.partStopped p = false → s.removalStep p = s) ∧
    (s.get Fld.LID_PART_state p = 3 → r.sent = true → r.awaits ≠ [] → s.removalStep p = s) ∧
    (s.get Fld.LID_PART_state p = 3 → r.removal ≠ none → r.sent = true → r.awaits = [] → ∃ t, s.removalStep p = t ∧ t.get Fld.LID_PART_state p = 4 ∧
      (∀ k, t.get Fld.KS_ATTR_epoch k = s.get Fld.KS_ATTR_epoch k) ∧
      (∀ k ∈ s.keyRange p, s.get Fld.KS_ATTR_state k = 2 → t.get Fld.KS_ATTR_state k = 0 ∧ t.get Fld.KS_ATTR_class k = 0 ∧ t.cell k = KeyCell.empty) ∧
      (∀ k, k ∉ s.keyRange p ∨ s.get Fld.KS_ATTR_state k ≠ 2 → t.get Fld.KS_ATTR_state k = s.get Fld.KS_ATTR_state k ∧ t.cell k = s.cell k) ∧
      { t with regs := s.regs, keys := s.keys } = s) ∧
    (∀ w, w = s.unmarkLost src.toNat →
      (s.get Fld.LID_PART_state p ≠ 3 ∨ r.sent = false → exec (.revokeAck p src) s = .next w) ∧
      (s.get Fld.LID_PART_state p = 3 → r.sent = true →
        exec (.revokeAck p src) s = .next ((w.setLid p { r with awaits := r.awaits.erase src.toNat }).removalStep p))) ∧
    (s.get Fld.LID_PART_state p ≠ 3 ∨ r.sent = false ∨ r.awaits = [] ∨ s.time < r.since + max 1000 (s.get Fld.LID_REVOKE_TIMEOUT_us) →
      exec (.revokeTimeout p) s = .next s) ∧
    (s.get Fld.LID_PART_state p = 3 → r.sent = true → r.awaits ≠ [] → r.since + max 1000 (s.get Fld.LID_REVOKE_TIMEOUT_us) ≤ s.time →
      ∃ u : State, u.get Fld.LID_PART_ack_short p = 1 ∧ u.lidAt p = { r with awaits := [] } ∧
        u.get Fld.LID_ACK_SHORT_COUNT_count = (s.get Fld.LID_ACK_SHORT_COUNT_count + 1) % 2 ^ Fld.LID_ACK_SHORT_COUNT_count.width ∧
        s.fieldsBut u [(Fld.LID_PART_ack_short, p.val), (Fld.LID_ACK_SHORT_COUNT_count, 0), (Fld.LID_COUNT_STATUS_ack_wrap, 0)] ∧
        { u with regs := s.regs, lids := s.lids } = s ∧ exec (.revokeTimeout p) s = .next (u.removalStep p)) ∧
    (s.get Fld.LID_PART_state p ≠ 4 → exec (.lidScrubDone p) s = .next s) ∧
    (s.get Fld.LID_PART_state p = 4 → ∃ u w : State,
      u = ((List.range 256).filter (s.inCarve p)).foldl State.zeroChan
        (((s.pieces.filter (fun e => e.2.sec.part == p.val)).map Prod.fst).foldl State.scrubPiece s) ∧
      (∀ ch < 256, s.inCarve p ch = true → ∀ x, 2 ^ 40 * ch ≤ x → x < 2 ^ 40 * ch + 2 ^ 31 → u.hbm.byte x = 0) ∧
      w.get Fld.LID_PART_state p = 0 ∧ w.get Fld.LID_PART_remove p = 0 ∧ w.get64 Fld.LID_ID_LO_id_lo Fld.LID_ID_HI_id_hi p = 0 ∧
      w.get Fld.LID_CHARTER_GEN_gen p = 0 ∧ w.lidAt p = LidRec.none ∧
      w.get64 Fld.RIM_PLAIT_GEN_LO_gen_lo Fld.RIM_PLAIT_GEN_HI_gen_hi 0 = (u.get64 Fld.RIM_PLAIT_GEN_LO_gen_lo Fld.RIM_PLAIT_GEN_HI_gen_hi 0 + 1) % 2 ^ 64 ∧
      { w with regs := u.regs, lids := u.lids } = u ∧ exec (.lidScrubDone p) s = .next w.showDrained.countPieces.capChange)

/-- Only partition 0 loads a plait; it is fetched, refused by code or staged, its changes take effect as they become ready, and
COMMIT ends it (R304, R307, R308, R309, R315, R321, R327, R329, R586, log entry 144, log entry 153, log entry 176). -/
def Obligations.PlaitsAreCheckedStagedAndCommitted : Prop :=
  ∀ (s : State) (a : Agent) (v : Word32) (k : Nat) (pkt : Packet) (uid : BitVec 64) (gen : Word32) (digest : BitVec 512) (st : Fin 5),
    (a = .rim ∨ s.takes a 0x80408 = false → exec (.plaitLoad a v) s = .next s ∧ exec (.plaitAbort a v) s = .next s) ∧
    (bitsOf v.toNat 0 2 ≠ 1 → exec (.plaitLoad a v) s = .next s) ∧
    (a ≠ .rim → s.takes a 0x80408 = true → bitsOf v.toNat 0 2 = 1 →
      ((1 ≤ s.get Fld.RIM_PLAIT_STATUS_state ∧ s.get Fld.RIM_PLAIT_STATUS_state ≤ 5) ∨
          (∃ p ∈ s.partitions, s.get Fld.LID_PART_state p = 3 ∨ s.get Fld.LID_PART_state p = 4) →
        ∃ t, exec (.plaitLoad a v) s = .next t ∧ t.get Fld.RIM_PLAIT_ERR_code = 0x0E ∧ s.onlyFields t [(Fld.RIM_PLAIT_ERR_code, 0)]) ∧
      ((s.get Fld.RIM_PLAIT_STATUS_state = 0 ∨ 5 < s.get Fld.RIM_PLAIT_STATUS_state) →
          (∀ p ∈ s.partitions, s.get Fld.LID_PART_state p ≠ 3 ∧ s.get Fld.LID_PART_state p ≠ 4) →
        ∃ t, exec (.plaitLoad a v) s = .next t ∧ t.get Fld.RIM_PLAIT_STATUS_state = 1 ∧ s.onlyFields t [(Fld.RIM_PLAIT_STATUS_state, 0)])) ∧
    (∀ code off, ∃ u : State, u.get Fld.RIM_PLAIT_STATUS_state = 7 ∧ u.get Fld.RIM_PLAIT_STATUS_failed = 1 ∧
      u.get Fld.RIM_PLAIT_ERR_code = code % 2 ^ Fld.RIM_PLAIT_ERR_code.width ∧ u.get Fld.RIM_PLAIT_ERR_OFF_offset = off % 2 ^ Fld.RIM_PLAIT_ERR_OFF_offset.width ∧
      s.onlyFields u [(Fld.RIM_PLAIT_STATUS_state, 0), (Fld.RIM_PLAIT_STATUS_failed, 0), (Fld.RIM_PLAIT_ERR_code, 0), (Fld.RIM_PLAIT_ERR_OFF_offset, 0)] ∧
      ∀ t, t = (if s.flag Fld.RIM_PLAIT_STATUS_done_event_en then u.report 0x40 0 0 else u) →
        (code = 0 → off = 0 → a ≠ .rim → s.takes a 0x80408 = true → bitsOf v.toNat 0 2 = 2 →
          s.get Fld.RIM_PLAIT_STATUS_state = 1 ∨ s.get Fld.RIM_PLAIT_STATUS_state = 2 → exec (.plaitAbort a v) s = .next t) ∧
        (s.get Fld.RIM_PLAIT_STATUS_state = 1 → ∀ addr total bs, addr = s.get Fld.RIM_PLAIT_ADDR_LO_addr_lo * 64 + 2 ^ 32 * s.get Fld.RIM_PLAIT_ADDR_HI_addr_hi →
            total = fieldAt (s.hostBytes 0 addr 64) 0x14 4 → bs = s.hostBytes 0 addr (max 64 total) →
          (s.canMaster 0 = false → code = 1 → off = 0 → exec .plaitFetchDone s = .next t) ∧
          (s.canMaster 0 = true → 2 ^ 22 < total → code = 1 → off = 0x14 → exec .plaitFetchDone s = .next t) ∧
          (s.canMaster 0 = true → total ≤ 2 ^ 22 → (∀ secs, s.checkPlait s.plaitKeys bs = (secs, some (off, code)) →
              exec .plaitFetchDone s = .next t) ∧
            (∀ secs, s.checkPlait s.plaitKeys bs = (secs, none) → exec .plaitFetchDone s = .next (s.stage secs (fieldAt bs 8 8)))))) ∧
    (bitsOf v.toNat 0 2 ≠ 2 ∨ (s.get Fld.RIM_PLAIT_STATUS_state ≠ 1 ∧ s.get Fld.RIM_PLAIT_STATUS_state ≠ 2) → exec (.plaitAbort a v) s = .next s) ∧
    (s.get Fld.RIM_PLAIT_STATUS_state ≠ 1 → exec .plaitFetchDone s = .next s) ∧
    (s.plait.changes.length ≤ k → exec (.plaitChangeEffect k) s = .next s) ∧
    (∀ x, s.plait.changes[k]? = some x →
      (s.changeReady x = true → exec (.plaitChangeEffect k) s = .next ((s.dropChange x).changeEffect x).afterChange) ∧
      (s.changeReady x = false →
        (∀ b ch, x = .chanRemove b ch → exec (.plaitChangeEffect k) s = .next (if (s.pieceAt b).leaving then s else s.evacuateChan b ch)) ∧
        (∀ b core c base len, x = .slotAdd b core c base len → exec (.plaitChangeEffect k) s = .next (s.handOver core)) ∧
        ((∀ b ch, x ≠ .chanRemove b ch) → (∀ b core c base len, x ≠ .slotAdd b core c base len) → exec (.plaitChangeEffect k) s = .next s))) ∧
    (∀ b c, s.changeReady (.ctxAdd b c) = decide (s.get Fld.WVR_CTX_STATE_state c = 0)) ∧
    (∀ b r g, s.changeReady (.segAdd b r g) = !s.segOwned r g) ∧
    (s.get Fld.RIM_PLAIT_STATUS_state ≠ 5 → exec .plaitCommit s = .next s) ∧
    (s.get Fld.RIM_PLAIT_STATUS_state = 5 → ∀ changed u w, changed = s.plait.staged.filter (fun x => !s.unchanged x) →
      u = ((changed.foldl State.commitSection
        (s.set64 Fld.RIM_PLAIT_GEN_LO_gen_lo Fld.RIM_PLAIT_GEN_HI_gen_hi 0 s.plait.newGen).dropLeavers).countPieces).showDrained →
      w = (if s.plait.reduced || changed.any s.bindsAbsent then
        { u with plait := { u.plait with staged := [], running := [], reduced := false } }.set Fld.RIM_PLAIT_STATUS_reduced 0 1
        else { u with plait := { u.plait with staged := [], running := [], reduced := false } }).capChange →
      exec .plaitCommit s = .next ((w.set Fld.RIM_PLAIT_STATUS_state 0 6).set Fld.RIM_PLAIT_STATUS_done 0 1).plaitEvent) ∧
    (s.halted = true ∨ pkt.ptype.toNat ≠ 8 ∨ pkt.dest.toNat ≠ s.me ∨ s.delivered pkt = false →
      exec (.shapeReport pkt uid gen digest) s = .next s ∧ exec (.shapeState pkt uid st) s = .next s) ∧
    (s.halted = false → pkt.ptype.toNat = 8 → pkt.dest.toNat = s.me → s.delivered pkt = true → ∀ x m, x = s.packetTaken pkt → m = pkt.src.toNat →
      (x.staleEpoch pkt = true →
        exec (.shapeReport pkt uid gen digest) s = .next (x.dropStale pkt) ∧ exec (.shapeState pkt uid st) s = .next (x.dropStale pkt)) ∧
      (x.staleEpoch pkt = false →
        (bitsOf pkt.args.toNat 0 8 ≠ 2 ∨ pkt.uid ≠ uid → exec (.shapeReport pkt uid gen digest) s = .next x) ∧
        (bitsOf pkt.args.toNat 0 8 ≠ 3 ∨ pkt.uid ≠ uid → exec (.shapeState pkt uid st) s = .next x) ∧
        (bitsOf pkt.args.toNat 0 8 = 2 → pkt.uid = uid → ∀ u : State,
          u = { x with reports := Sparse.set (0, 0) x.reports (2 ^ 14 * uid.toNat + m) (gen.toNat, digest) } →
          (x.basketOfUid uid.toNat = none → exec (.shapeReport pkt uid gen digest) s = .next u) ∧
          (∀ b, x.basketOfUid uid.toNat = some b →
            (x.get Fld.CAP_BASKET_state b = 4 ∨ (x.pieceAt b).sec.ordinal ≠ 0 ∨ m ∉ x.otherMembers b →
              exec (.shapeReport pkt uid gen digest) s = .next u) ∧
            (x.get Fld.CAP_BASKET_state b ≠ 4 → (x.pieceAt b).sec.ordinal = 0 → m ∈ x.otherMembers b → ∀ w,
              w = (if x.reported uid.toNat m ≠ (0, 0) ∧ (x.reported uid.toNat m).1 ≠ gen.toNat then u.tellShape b 1 else u) →
              (w.agreed b = true → exec (.shapeReport pkt uid gen digest) s = .next ((w.tellShape b 2).shapeShown u b)) ∧
              (w.agreed b = false → exec (.shapeReport pkt uid gen digest) s = .next ((w.answerShape b m).shapeShown u b))))) ∧
        (bitsOf pkt.args.toNat 0 8 = 3 → pkt.uid = uid →
          (x.basketOfUid uid.toNat = none → exec (.shapeState pkt uid st) s = .next x) ∧
          (∀ b, x.basketOfUid uid.toNat = some b →
            ((x.pieceAt b).sec.ordinal = 0 ∨ x.leadMember b ≠ some m ∨ x.get Fld.CAP_BASKET_state b = 4 ∨ st = 0 ∨ st = 4 →
              exec (.shapeState pkt uid st) s = .next x) ∧
            ((x.pieceAt b).sec.ordinal ≠ 0 → x.leadMember b = some m → x.get Fld.CAP_BASKET_state b ≠ 4 → st ≠ 0 → st ≠ 4 →
              ∃ t : State, t.get Fld.CAP_BASKET_state b = st.val ∧ x.onlyFields t [(Fld.CAP_BASKET_state, b)] ∧
                exec (.shapeState pkt uid st) s =
                  .next (if x.get Fld.CAP_BASKET_state b = st.val then t else t.capChange)))))) ∧
    (∀ (b m : Nat), (s.agreed b = true ↔ ∀ n ∈ s.otherMembers b, s.reported (s.basketUid b) n = s.ownShape b) ∧
      (s.reported (s.basketUid b) m = (0, 0) → s.answerShape b m = s) ∧
      (s.reported (s.basketUid b) m ≠ (0, 0) → ∀ c : Nat, c = (if s.reported (s.basketUid b) m = s.ownShape b then 1 else 3) →
        ∃ q : Packet, q.ptype = 8 ∧ q.dest = BitVec.ofNat 14 m ∧ q.uid = BitVec.ofNat 64 (s.basketUid b) ∧ bitsOf q.args.toNat 0 8 = 3 ∧
          s.answerShape b m = { s with outbox := s.outbox ++ [.message q (.shapeState (BitVec.ofNat 64 (s.basketUid b)) c)] }))

/-- A seal of readable T2 or T3 pages at a FREE index is hashed, installed INTACT on every member, broken by an event and released
on all (R683, R684, R685, R686, R697, log entry 106, log entry 107, log entry 138). -/
def Obligations.SealsHashInstallBreakAndRelease : Prop :=
  ∀ (s : State) (p : Fin 32) (b : Fin 64) (i : Fin 16) (v : Word32) (ok : Bool) (src : ModuleId) (uid : BitVec 64) (base : VAddr) (pages : BitVec 24)
      (digest : BitVec 512),
    (s.takes (.host p) (sealCmd b i) = false → exec (.pgSeal p b i v) s = .next s ∧ exec (.pgSealRelease p b i v) s = .next s) ∧
    (s.takes (.host p) (sealCmd b i) = true → ∀ u, u = s.mmioWrite (.host p) (sealCmd b i) v.toNat →
      (bitOf v.toNat 0 = false → exec (.pgSeal p b i v) s = .next u) ∧
      (∀ (va n : Nat), bitOf v.toNat 0 = true → u.sealRange b i = (va, n) →
        (∀ code : Nat, (n = 0 ∧ code = 1) ∨ (n ≠ 0 ∧ u.sealable b va n = false ∧ code = 2) ∨
            (n ≠ 0 ∧ u.sealable b va n = true ∧ u.sealState b i ≠ 0 ∧ code = 3) ∨
            (n ≠ 0 ∧ u.sealable b va n = true ∧ u.sealState b i = 0 ∧ u.hashing ≠ none ∧ code = 5) →
          ∃ t, exec (.pgSeal p b i v) s = .next t ∧ t.get Fld.PG_SEAL_CMD_error (b * 16 + i) = 1 ∧ t.get Fld.PG_SEAL_CMD_err_code (b * 16 + i) = code ∧
            u.onlyFields t [(Fld.PG_SEAL_CMD_error, b.val * 16 + i.val), (Fld.PG_SEAL_CMD_err_code, b.val * 16 + i.val)]) ∧
        (n ≠ 0 → u.sealable b va n = true → u.sealState b i = 0 → u.hashing = none → ∃ t, exec (.pgSeal p b i v) s = .next t ∧ t.sealState b i = 1 ∧
          t.sealGot = [] ∧ u.fieldsBut t [(Fld.PG_SEAL_CMD_state, b.val * 16 + i.val)] ∧ { t with regs := u.regs, sealGot := u.sealGot } = u)) ∧
      (bitOf v.toNat 1 = false → exec (.pgSealRelease p b i v) s = .next u) ∧
      (bitOf v.toNat 1 = true → ∀ w, w = (if u.sealState b i = 0 then u else (u.tellSeal b i (u.sealRange b i).1 0 (u.sealAt b i).digest).freeSeal b i) →
        exec (.pgSealRelease p b i v) s = .next (w.set Fld.PG_SEAL_CMD_done (b * 16 + i) 1))) ∧
    (∃ t, t = s.freeSeal b i ∧ t.sealState b i = 0 ∧ (∀ e ∈ t.segTags, e.2 ≠ 2 + 16 * b.val + i.val) ∧
      (∀ e ∈ s.segTags, (e.1, if e.2 = 2 + 16 * b.val + i.val then 1 else e.2) ∈ t.segTags) ∧
      s.fieldsBut t [(Fld.PG_SEAL_CMD_state, b.val * 16 + i.val), (Fld.PG_SEAL_CMD_origin, b.val * 16 + i.val)] ∧
      { t with regs := s.regs, seals := s.seals, segTags := s.segTags } = s) ∧
    (s.hashing = none → exec (.sealHashDone ok) s = .next s) ∧
    (∀ (c j va n : Nat), s.hashing = some (c, j) → s.sealRange c j = (va, n) →
      (∀ u, s.devRead c s.sealGot va (n * 65536) 1 sealWord = (.away, u) → exec (.sealHashDone ok) s = .next u) ∧
      (∀ u, (∃ x y z, s.devRead c s.sealGot va (n * 65536) 1 sealWord = (.fault x y z, u)) ∨
          (∃ x, s.devRead c s.sealGot va (n * 65536) 1 sealWord = (.poison x, u)) ∨
          (∃ m x, s.devRead c s.sealGot va (n * 65536) 1 sealWord = (.lost m x, u)) →
        exec (.sealHashDone ok) s = .next ({ u.set Fld.PG_SEAL_CMD_state (c * 16 + j) 0 with sealGot := [] }.sealError c j 2)) ∧
      (∀ bs u w d, s.devRead c s.sealGot va (n * 65536) 1 sealWord = (.ok bs, u) → d = BitVec.ofNat 512 (beNat (sha512 bs)) → w = u.tellSeal c j va n d →
        exec (.sealHashDone false) s = .next (({ w.set Fld.PG_SEAL_CMD_state (c * 16 + j) 0 with sealGot := [] }.tellSeal c j va 0 d).sealError c j 4) ∧
        ∃ x : State, x.sealState c j = 2 ∧ (x.sealAt c j).digest = d ∧ x.get Fld.PG_SEAL_CMD_done (c * 16 + j) = 1 ∧
          x.get Fld.PG_SEAL_CMD_origin (c * 16 + j) = 1 ∧ x.sealGot = [] ∧
          w.fieldsBut x [(Fld.PG_SEAL_CMD_state, c * 16 + j), (Fld.PG_SEAL_CMD_done, c * 16 + j), (Fld.PG_SEAL_CMD_origin, c * 16 + j)] ∧
          { x with regs := w.regs, seals := w.seals, sealGot := w.sealGot } = w ∧
          exec (.sealHashDone true) s = .next (if x.sealOut c = 0 then x else x.devWrite c (x.sealOut c) (bytes512 d)))) ∧
    (s.boundUid uid.toNat = none → exec (.sealInstall src uid i base pages digest) s = .next s ∧ exec (.sealBreak src uid i) s = .next s) ∧
    (∀ c, s.boundUid uid.toNat = some c →
      (pages = 0 → s.sealState c i = 0 ∨ s.sealState c i = 1 → exec (.sealInstall src uid i base pages digest) s = .next s) ∧
      (pages = 0 → s.sealState c i ≠ 0 → s.sealState c i ≠ 1 → exec (.sealInstall src uid i base pages digest) s = .next (s.freeSeal c i)) ∧
      (pages ≠ 0 → s.sealState c i ≠ 0 → exec (.sealInstall src uid i base pages digest) s = .next s) ∧
      (pages ≠ 0 → s.sealState c i = 0 → ∃ t, exec (.sealInstall src uid i base pages digest) s = .next t ∧ t.sealState c i = 2 ∧
        (t.sealAt c i).digest = digest ∧ t.sealRange c i = (base.toNat / 65536 * 65536, pages.toNat) ∧ t.get Fld.PG_SEAL_CMD_origin (c * 16 + i) = 0 ∧
        s.fieldsBut t [(Fld.PG_SEAL_BASE_LO_base_lo, c * 16 + i.val), (Fld.PG_SEAL_BASE_HI_base_hi, c * 16 + i.val), (Fld.PG_SEAL_LEN_pages, c * 16 + i.val),
          (Fld.PG_SEAL_CMD_origin, c * 16 + i.val), (Fld.PG_SEAL_CMD_state, c * 16 + i.val)] ∧ { t with regs := s.regs, seals := s.seals } = s) ∧
      (s.sealState c i ≠ 2 → exec (.sealBreak src uid i) s = .next s) ∧
      (s.sealState c i = 2 → src.toNat ≠ s.me → exec (.sealBreak src uid i) s = .next (s.breakSeal c i)) ∧
      (s.sealState c i = 2 → src.toNat = s.me → ∀ t out, t = s.breakSeal c i → out = (t.routeModules c).map (fun m => Sent.sealBreak (BitVec.ofNat 14 m) uid i) →
        exec (.sealBreak src uid i) s = .next { t with outbox := t.outbox ++ out }) ∧
      (s.sealState c i = 2 → (s.breakSeal c i).sealState c i = 3))
end

