-- ==== Sys2Proof/Laws/Fuses.lean ====
section
/-! SUPPORT. What is burnt into fuse cells is what the read path gives (12 R531). -/

namespace Sys2Proof.Machine

/-- Swapping two bits twice leaves the value. -/
theorem swapBits_swapBits (v : BitVec 512) (e : Fin 512 × Fin 512) : swapBits (swapBits v e) e = v := by
  by_cases h : v.getLsbD e.1 = v.getLsbD e.2
  · rw [swapBits, swapBits, if_pos h, if_pos h]
  · have hne : e.1.val ≠ e.2.val := fun q => h (by rw [Fin.ext q])
    have hx : ∀ k : Fin 512, (v ^^^ (BitVec.twoPow 512 e.1 ^^^ BitVec.twoPow 512 e.2)).getLsbD k =
        (v.getLsbD k ^^ (decide (e.1.val = k.val) ^^ decide (e.2.val = k.val))) := fun k => by
      rw [BitVec.getLsbD_xor, BitVec.getLsbD_xor, BitVec.getLsbD_twoPow, BitVec.getLsbD_twoPow]
      simp only [e.1.isLt, e.2.isLt, decide_true, Bool.true_and]
    rw [swapBits, swapBits, if_neg h, if_neg, BitVec.xor_assoc, BitVec.xor_self, BitVec.xor_zero]
    rw [hx, hx]
    revert h
    cases v.getLsbD e.1 <;> cases v.getLsbD e.2 <;> simp [hne, hne.symm]

/-- The value burnt into a place of the fuses is read back, whatever the permutation of the die and the mask of the place. -/
theorem fuseValue_fuseCells (n : Nat) (v : BitVec 512) : fuseValue n (fuseCells n v) = v := by
  simp only [fuseValue, fuseCells, BitVec.xor_assoc, BitVec.xor_self, BitVec.xor_zero]
  induction Config.fuseSwaps generalizing v with
  | nil => rfl
  | cons e l ih => simp only [List.foldl_cons, List.reverse_cons, List.foldl_append, ih, List.foldl_nil, swapBits_swapBits]

end Sys2Proof.Machine
end

