-- ==== Sys2Proof/Laws/Sparse.lean ====
section
/-! SUPPORT. The laws of the one table form: what a read gives after a write, and that the canonical form is kept. -/

set_option Elab.async false

namespace Sys2Proof.Machine

theorem Sparse.get_nil {α : Type} (d : α) (k : Nat) : Sparse.get d [] k = d := rfl

/-- Entries whose keys all lie below a key do not change what is read there. -/
theorem Sparse.get_skip {α : Type} (d : α) {l : List (Nat × α)} {j : Nat} (h : ∀ e ∈ l, e.1 < j) (m : List (Nat × α)) :
    Sparse.get d (l ++ m) j = Sparse.get d m j := by
  induction l with
  | nil => rfl
  | cons e l ih =>
    have h1 := h e (by simp)
    simp only [List.cons_append, Sparse.get]
    rw [if_neg (by omega), if_neg (by omega)]
    exact ih (fun e he => h e (by simp [he]))

/-- A list that begins, if at all, above a key reads there as nothing listed. -/
theorem Sparse.get_above {α : Type} (d : α) {m : List (Nat × α)} {j : Nat} (h : ∀ e ∈ m.head?, j < e.1) : Sparse.get d m j = d := by
  cases m with
  | nil => rfl
  | cons e m =>
    have := h e (by simp)
    simp only [Sparse.get]
    rw [if_neg (by omega), if_pos this]

theorem Sparse.head_dropWhile {α : Type} (p : α → Bool) (m : List α) : ∀ e ∈ (m.dropWhile p).head?, p e = false := by
  induction m with
  | nil => simp
  | cons a m ih =>
    simp only [List.dropWhile_cons]
    split
    · exact ih
    · rename_i h
      simpa using h

theorem Sparse.mem_takeWhile {α : Type} (p : α → Bool) (m : List α) : ∀ e ∈ m.takeWhile p, p e = true := by
  induction m with
  | nil => simp
  | cons a m ih =>
    simp only [List.takeWhile_cons]
    split
    · rename_i h
      intro e he
      rcases List.mem_cons.1 he with rfl | he
      · exact h
      · exact ih e he
    · simp

/-- Dropping entries whose keys lie below a key does not change what is read there. -/
theorem Sparse.get_dropWhile {α : Type} (d : α) (p : Nat × α → Bool) {j : Nat} (h : ∀ e : Nat × α, p e = true → e.1 < j)
    (m : List (Nat × α)) : Sparse.get d (m.dropWhile p) j = Sparse.get d m j := by
  conv => rhs; rw [← List.takeWhile_append_dropWhile (p := p) (l := m)]
  exact (Sparse.get_skip d (fun e he => h e (Sparse.mem_takeWhile p m e he)) _).symm

/-- Below the first key a prefix test lets through, the prefix decides what is read. -/
theorem Sparse.get_takeWhile {α : Type} (d : α) {lo j : Nat} (h : j < lo) (m n : List (Nat × α))
    (hn : ∀ e ∈ n.head?, lo ≤ e.1) :
    Sparse.get d (m.takeWhile (fun e => decide (e.1 < lo)) ++ n) j = Sparse.get d m j := by
  induction m with
  | nil =>
    simp only [List.takeWhile_nil, List.nil_append, Sparse.get_nil]
    exact Sparse.get_above d (fun e he => by have := hn e he; omega)
  | cons e m ih =>
    simp only [List.takeWhile_cons]
    split
    · simp only [List.cons_append, Sparse.get]
      rw [ih]
    · rename_i hc
      have hc : lo ≤ e.1 := by simpa using hc
      rw [List.nil_append, Sparse.get_above d (fun e he => by have := hn e he; omega)]
      exact (Sparse.get_above d (fun e' he => by simp at he; subst he; omega)).symm

/-- A read gives what was last written. -/
theorem Sparse.get_set {α : Type} [DecidableEq α] (d : α) (m : List (Nat × α)) (k j : Nat) (v : α) :
    Sparse.get d (Sparse.set d m k v) j = if j = k then v else Sparse.get d m j := by
  induction m with
  | nil =>
    simp only [Sparse.set]
    by_cases hv : v = d
    · simp [hv, Sparse.get]
    · rw [if_neg hv]
      simp only [Sparse.get]
      by_cases h : k = j
      · simp [h]
      · rw [if_neg h, if_neg (Ne.symm h)]
        split <;> rfl
  | cons e m ih =>
    obtain ⟨k', v'⟩ := e
    simp only [Sparse.set]
    by_cases h1 : k < k'
    · rw [if_pos h1]
      by_cases hv : v = d
      · rw [if_pos hv]
        split
        · subst hv; subst_vars; simp only [Sparse.get]; rw [if_neg (by omega), if_pos h1]
        · rfl
      · rw [if_neg hv]
        by_cases hj : j = k
        · subst hj; simp [Sparse.get]
        · rw [if_neg hj]
          by_cases hjk : j < k
          · simp only [Sparse.get]
            rw [if_neg (by omega), if_pos hjk, if_neg (by omega), if_pos (by omega)]
          · conv => lhs; unfold Sparse.get
            rw [if_neg (by omega), if_neg hjk]
    · rw [if_neg h1]
      by_cases h2 : k = k'
      · rw [if_pos h2]
        subst h2
        by_cases hv : v = d
        · rw [if_pos hv]
          rcases Nat.lt_trichotomy j k with hj | hj | hj
          · rw [if_neg (by omega)]
            rw [Sparse.get_above d (fun e he => by
              have := Sparse.head_dropWhile _ _ e he; simp at this; omega)]
            exact (Sparse.get_above d (fun e he => by simp at he; subst he; exact hj)).symm
          · rw [if_pos hj, hv]
            exact Sparse.get_above d (fun e he => by
              have := Sparse.head_dropWhile _ _ e he; simp at this; omega)
          · rw [if_neg (by omega)]
            rw [Sparse.get_dropWhile d _ (j := j) (fun e he => by simp at he; omega)]
            simp only [Sparse.get]
            rw [if_neg (by omega), if_neg (by omega)]
        · rw [if_neg hv]
          simp only [Sparse.get]
          by_cases hj : k = j
          · simp [hj]
          · rw [if_neg hj, if_neg (Ne.symm hj), if_neg hj]
      · rw [if_neg h2]
        simp only [Sparse.get]
        rw [ih]
        by_cases hj : j = k
        · subst hj
          simp only [if_true]
          rw [if_neg (by omega), if_neg (by omega)]
        · simp only [if_neg hj]

@[simp] theorem Sparse.get_set_same {α : Type} [DecidableEq α] (d : α) (m : List (Nat × α)) (k : Nat) (v : α) :
    Sparse.get d (Sparse.set d m k v) k = v := by rw [Sparse.get_set, if_pos rfl]

theorem Sparse.get_set_other {α : Type} [DecidableEq α] (d : α) (m : List (Nat × α)) {k j : Nat} (h : j ≠ k) (v : α) :
    Sparse.get d (Sparse.set d m k v) j = Sparse.get d m j := by rw [Sparse.get_set, if_neg h]

/-! ## The canonical form -/

theorem Sparse.wfFrom_mono {α : Type} [DecidableEq α] (d : α) {lo lo' : Nat} (h : lo' ≤ lo) {m : List (Nat × α)}
    (hw : Sparse.wfFrom d lo m = true) : Sparse.wfFrom d lo' m = true := by
  cases m with
  | nil => rfl
  | cons e m =>
    obtain ⟨k, v⟩ := e
    simp only [Sparse.wfFrom, Bool.and_eq_true, decide_eq_true_eq] at hw ⊢
    exact ⟨⟨by omega, hw.1.2⟩, hw.2⟩

theorem Sparse.wfFrom_dropWhile {α : Type} [DecidableEq α] (d : α) (p : Nat × α → Bool) {lo : Nat} {m : List (Nat × α)}
    (hw : Sparse.wfFrom d lo m = true) : Sparse.wfFrom d lo (m.dropWhile p) = true := by
  induction m generalizing lo with
  | nil => rfl
  | cons e m ih =>
    simp only [List.dropWhile_cons]
    split
    · simp only [Sparse.wfFrom, Bool.and_eq_true, decide_eq_true_eq] at hw
      exact ih (Sparse.wfFrom_mono d (by omega) hw.2)
    · exact hw

theorem Sparse.wfFrom_set {α : Type} [DecidableEq α] (d : α) {lo : Nat} {m : List (Nat × α)} (hw : Sparse.wfFrom d lo m = true)
    {k : Nat} (hk : lo ≤ k) (v : α) : Sparse.wfFrom d lo (Sparse.set d m k v) = true := by
  induction m generalizing lo with
  | nil =>
    simp only [Sparse.set]
    split
    · rfl
    · simp_all [Sparse.wfFrom]
  | cons e m ih =>
    obtain ⟨k', v'⟩ := e
    have hw' := hw
    simp only [Sparse.wfFrom, Bool.and_eq_true, decide_eq_true_eq] at hw
    simp only [Sparse.set]
    split
    · split
      · exact hw'
      · rename_i h1 h2
        simp only [Sparse.wfFrom, Bool.and_eq_true, decide_eq_true_eq]
        exact ⟨⟨hk, h2⟩, ⟨h1, hw.1.2⟩, hw.2⟩
    · split
      · split
        · exact Sparse.wfFrom_mono d (by omega) (Sparse.wfFrom_dropWhile d _ hw.2)
        · rename_i h1 h2 h3
          subst h2
          simp only [Sparse.wfFrom, Bool.and_eq_true, decide_eq_true_eq]
          exact ⟨⟨hk, h3⟩, hw.2⟩
      · simp only [Sparse.wfFrom, Bool.and_eq_true, decide_eq_true_eq]
        exact ⟨hw.1, ih hw.2 (by omega)⟩

theorem Sparse.wf_set {α : Type} [DecidableEq α] (d : α) {m : List (Nat × α)} (hw : Sparse.wf d m = true) (k : Nat) (v : α) :
    Sparse.wf d (Sparse.set d m k v) = true := Sparse.wfFrom_set d hw (Nat.zero_le k) v

/-- The part below `lo`, then a canonical part from `lo` to `hi`, then the part from `hi` on, is canonical. -/
theorem Sparse.wf_splice {α : Type} [DecidableEq α] (d : α) {m n : List (Nat × α)} {lo hi : Nat} (hm : Sparse.wf d m = true)
    (hn : Sparse.wfFrom d lo n = true) (hb : ∀ e ∈ n, e.1 < hi) (hl : lo ≤ hi) :
    Sparse.wf d (m.takeWhile (fun e => decide (e.1 < lo)) ++ (n ++ m.dropWhile (fun e => decide (e.1 < hi)))) = true := by
  have tail : ∀ (lo₀ : Nat) (m : List (Nat × α)), Sparse.wfFrom d lo₀ m = true →
      Sparse.wfFrom d hi (m.dropWhile (fun e => decide (e.1 < hi))) = true := by
    intro lo₀ m h
    have hw := Sparse.wfFrom_dropWhile d (fun e => decide (e.1 < hi)) h
    have hh := Sparse.head_dropWhile (fun e : Nat × α => decide (e.1 < hi)) m
    generalize m.dropWhile (fun e => decide (e.1 < hi)) = t at hw hh
    cases t with
    | nil => rfl
    | cons e t =>
      have := hh e (by simp)
      simp only [decide_eq_false_iff_not] at this
      simp only [Sparse.wfFrom, Bool.and_eq_true, decide_eq_true_eq] at hw ⊢
      exact ⟨⟨by omega, hw.1.2⟩, hw.2⟩
  have mid : ∀ (lo : Nat) (n t : List (Nat × α)), Sparse.wfFrom d lo n = true → (∀ e ∈ n, e.1 < hi) → lo ≤ hi →
      Sparse.wfFrom d hi t = true → Sparse.wfFrom d lo (n ++ t) = true := by
    intro lo n t
    induction n generalizing lo with
    | nil => intro _ _ hl ht; exact Sparse.wfFrom_mono d hl ht
    | cons e n ih =>
      intro h hb _ ht
      simp only [List.cons_append, Sparse.wfFrom, Bool.and_eq_true, decide_eq_true_eq] at h ⊢
      refine ⟨h.1, ih (e.1 + 1) h.2 (fun e he => hb e (by simp [he])) ?_ ht⟩
      have := hb e (by simp); omega
  have hd : ∀ (lo₀ : Nat) (m t : List (Nat × α)), Sparse.wfFrom d lo₀ m = true → lo₀ ≤ lo → Sparse.wfFrom d lo t = true →
      Sparse.wfFrom d lo₀ (m.takeWhile (fun e => decide (e.1 < lo)) ++ t) = true := by
    intro lo₀ m t
    induction m generalizing lo₀ with
    | nil => intro _ h ht; exact Sparse.wfFrom_mono d h ht
    | cons e m ih =>
      intro h hle ht
      simp only [List.takeWhile_cons]
      split
      · rename_i hc
        simp only [decide_eq_true_eq] at hc
        simp only [List.cons_append, Sparse.wfFrom, Bool.and_eq_true, decide_eq_true_eq] at h ⊢
        exact ⟨h.1, ih (e.1 + 1) h.2 (by omega) ht⟩
      · exact Sparse.wfFrom_mono d hle ht
  exact hd 0 m _ hm (Nat.zero_le _) (mid lo n _ hn hb hl (tail 0 m hm))

/-! ## Memories -/

theorem Mem.cells_lt (a : Nat) (bs : List Byte) : ∀ e ∈ Mem.cells a bs, e.1 < a + bs.length := by
  induction bs generalizing a with
  | nil => simp [Mem.cells]
  | cons b bs ih =>
    intro e he
    simp only [Mem.cells] at he
    split at he
    · have := ih (a + 1) e he; simp only [List.length_cons]; omega
    · rcases List.mem_cons.1 he with rfl | he
      · simp
      · have := ih (a + 1) e he; simp only [List.length_cons]; omega

theorem Mem.cells_wf (a : Nat) (bs : List Byte) : Sparse.wfFrom Mem.blank a (Mem.cells a bs) = true := by
  induction bs generalizing a with
  | nil => rfl
  | cons b bs ih =>
    simp only [Mem.cells]
    split
    · exact Sparse.wfFrom_mono _ (Nat.le_succ a) (ih (a + 1))
    · rename_i h
      simp only [Sparse.wfFrom, Bool.and_eq_true, decide_eq_true_eq]
      exact ⟨⟨Nat.le_refl a, h⟩, ih (a + 1)⟩

theorem Mem.write_wf {m : Mem} (h : m.wf = true) (a : Nat) (bs : List Byte) : (m.write a bs).wf = true :=
  Sparse.wf_splice Mem.blank h (Mem.cells_wf a bs) (Mem.cells_lt a bs) (Nat.le_add_right a _)

theorem Mem.zero_wf {m : Mem} (h : m.wf = true) (a n : Nat) : (m.zero a n).wf = true := by
  have := Sparse.wf_splice Mem.blank (n := []) (lo := a) (hi := a + n) h rfl (by simp) (Nat.le_add_right a n)
  simpa [Mem.zero, Sparse.clearRun, Mem.wf] using this

theorem Mem.setByte_wf {m : Mem} (h : m.wf = true) (a : Nat) (b : Byte) : (m.setByte a b).wf = true := Sparse.wf_set _ h a b

theorem Mem.cells_get (a : Nat) (bs : List Byte) (t : Mem) (ht : ∀ e ∈ t.head?, a + bs.length ≤ e.1) (j : Nat) (h1 : a ≤ j)
    (h2 : j < a + bs.length) : Sparse.get Mem.blank (Mem.cells a bs ++ t) j = bs.getD (j - a) Mem.blank := by
  induction bs generalizing a with
  | nil => simp at h2; omega
  | cons b bs ih =>
    simp only [List.length_cons] at h2 ht
    have above : ∀ e ∈ (Mem.cells (a + 1) bs ++ t).head?, a < e.1 := by
      intro e he
      have hm : e ∈ Mem.cells (a + 1) bs ++ t := List.mem_of_mem_head? he
      cases hc : Mem.cells (a + 1) bs with
      | nil => rw [hc] at he; have := ht e (by simpa using he); omega
      | cons c cs =>
        rw [hc] at he
        simp only [List.cons_append, List.head?_cons, Option.mem_def, Option.some.injEq] at he
        have hw := Mem.cells_wf (a + 1) bs
        rw [hc] at hw
        subst he
        simp only [Sparse.wfFrom, Bool.and_eq_true, decide_eq_true_eq] at hw
        omega
    by_cases hj : j = a
    · subst hj
      simp only [Mem.cells]
      split
      · rename_i hb
        rw [Sparse.get_above _ above]; simp [hb]
      · simp [Sparse.get]
    · have ih' := ih (a + 1) (fun e he => by have := ht e he; omega) (by omega) (by omega)
      have hs : (b :: bs).getD (j - a) Mem.blank = bs.getD (j - (a + 1)) Mem.blank := by
        have : j - a = (j - (a + 1)) + 1 := by omega
        rw [this]; simp
      rw [hs, ← ih']
      simp only [Mem.cells]
      split
      · rfl
      · simp only [List.cons_append, Sparse.get]
        rw [if_neg (by omega), if_neg (by omega)]

/-- A byte outside what was written reads as before. -/
theorem Mem.byte_write_out (m : Mem) (a : Nat) (bs : List Byte) {j : Nat} (h : j < a ∨ a + bs.length ≤ j) :
    (m.write a bs).byte j = m.byte j := by
  unfold Mem.byte Mem.write
  rcases h with h | h
  · refine Sparse.get_takeWhile _ h m _ ?_
    intro e he
    have hm := Mem.cells_wf a bs
    cases hc : Mem.cells a bs with
    | nil =>
      rw [hc] at he
      have := Sparse.head_dropWhile _ _ e (by simpa using he)
      simp at this; omega
    | cons c cs =>
      rw [hc] at he hm
      simp only [List.cons_append, List.head?_cons, Option.mem_def, Option.some.injEq] at he
      subst he
      simp only [Sparse.wfFrom, Bool.and_eq_true, decide_eq_true_eq] at hm
      exact hm.1.1
  · rw [Sparse.get_skip _ (fun e he => by have := Sparse.mem_takeWhile _ _ e he; simp at this; omega),
      Sparse.get_skip _ (fun e he => by have := Mem.cells_lt a bs e he; omega)]
    exact Sparse.get_dropWhile _ _ (fun e he => by simp at he; omega) m

/-- A byte that was written reads as what was written. -/
theorem Mem.byte_write_in (m : Mem) (a : Nat) (bs : List Byte) {j : Nat} (h1 : a ≤ j) (h2 : j < a + bs.length) :
    (m.write a bs).byte j = bs.getD (j - a) Mem.blank := by
  unfold Mem.byte Mem.write
  rw [Sparse.get_skip _ (fun e he => by have := Sparse.mem_takeWhile _ _ e he; simp at this; omega)]
  refine Mem.cells_get a bs _ ?_ j h1 h2
  intro e he
  have := Sparse.head_dropWhile _ _ e he
  simpa using this

theorem Sparse.get_clearRun {α : Type} (d : α) (m : List (Nat × α)) (a n j : Nat) :
    Sparse.get d (Sparse.clearRun m a n) j = if a ≤ j ∧ j < a + n then d else Sparse.get d m j := by
  unfold Sparse.clearRun
  rcases Nat.lt_or_ge j a with h | h
  · rw [if_neg (by omega)]
    refine Sparse.get_takeWhile d h m _ ?_
    intro e he
    have := Sparse.head_dropWhile _ _ e he
    simp at this; omega
  · rw [Sparse.get_skip _ (fun e he => by have := Sparse.mem_takeWhile _ _ e he; simp at this; omega)]
    rcases Nat.lt_or_ge j (a + n) with h2 | h2
    · rw [if_pos ⟨h, h2⟩]
      refine Sparse.get_above d ?_
      intro e he
      have := Sparse.head_dropWhile _ _ e he
      simp at this; omega
    · rw [if_neg (by omega)]
      exact Sparse.get_dropWhile d _ (fun e he => by simp at he; omega) m

/-- What is zeroed reads as zero, and every other byte as before. -/
theorem Mem.byte_zero (m : Mem) (a n j : Nat) : (m.zero a n).byte j = if a ≤ j ∧ j < a + n then Mem.blank else m.byte j :=
  Sparse.get_clearRun Mem.blank m a n j

theorem Mem.byte_setByte (m : Mem) (a j : Nat) (b : Byte) : (m.setByte a b).byte j = if j = a then b else m.byte j :=
  Sparse.get_set Mem.blank m a j b

theorem Mem.fill_eq (a n : Nat) {m : Mem} (h : Sparse.wfFrom Mem.blank a m = true) :
    Mem.fill a n m = (List.range n).map (fun i => m.byte (a + i)) := by
  induction n generalizing a m with
  | zero => rfl
  | succ n ih =>
    rw [List.range_succ_eq_map, List.map_cons, List.map_map]
    cases m with
    | nil =>
      simp only [Mem.fill]
      rw [ih (a + 1) (m := []) rfl]
      simp [Mem.byte, Sparse.get, Function.comp_def]
    | cons e m =>
      obtain ⟨k, v⟩ := e
      simp only [Sparse.wfFrom, Bool.and_eq_true, decide_eq_true_eq] at h
      simp only [Mem.fill]
      split
      · rename_i hk
        subst hk
        rw [ih (k + 1) h.2]
        refine List.cons_eq_cons.2 ⟨by simp [Mem.byte, Sparse.get], List.map_congr_left ?_⟩
        intro i _
        simp only [Function.comp, Mem.byte, Sparse.get]
        rw [if_neg (by omega), if_neg (by omega)]
        congr 1; omega
      · rename_i hk
        have hw : Sparse.wfFrom Mem.blank (a + 1) ((k, v) :: m) = true := by
          simp only [Sparse.wfFrom, Bool.and_eq_true, decide_eq_true_eq]
          exact ⟨⟨by omega, h.1.2⟩, h.2⟩
        rw [ih (a + 1) hw]
        refine List.cons_eq_cons.2 ⟨?_, List.map_congr_left ?_⟩
        · simp only [Mem.byte, Sparse.get]; rw [if_neg (by omega), if_pos (by omega)]
        · intro i _
          simp only [Function.comp]
          congr 1; omega

/-- In canonical form, a read of `n` bytes gives the bytes one by one. -/
theorem Mem.read_eq {m : Mem} (h : m.wf = true) (a n : Nat) : m.read a n = (List.range n).map (fun i => m.byte (a + i)) := by
  unfold Mem.read
  have hw : Sparse.wfFrom Mem.blank a (m.dropWhile (fun c => decide (c.1 < a))) = true := by
    have h1 := Sparse.wfFrom_dropWhile Mem.blank (fun c => decide (c.1 < a)) h
    have h2 := Sparse.head_dropWhile (fun c : Nat × Byte => decide (c.1 < a)) m
    generalize m.dropWhile (fun c => decide (c.1 < a)) = t at h1 h2
    cases t with
    | nil => rfl
    | cons e t =>
      have := h2 e (by simp)
      simp only [decide_eq_false_iff_not] at this
      simp only [Sparse.wfFrom, Bool.and_eq_true, decide_eq_true_eq] at h1 ⊢
      exact ⟨⟨by omega, h1.1.2⟩, h1.2⟩
  rw [Mem.fill_eq a n hw]
  refine List.map_congr_left (fun i _ => ?_)
  unfold Mem.byte
  exact Sparse.get_dropWhile _ _ (fun e he => by simp at he; omega) m

theorem Mem.nil_wf : Mem.wf [] = true := rfl

end Sys2Proof.Machine
end

