-- ==== Sys2Proof/Laws/Kept.lean ====
section
/-! SUPPORT. What no operation of the machine does, whatever else it does: it leaves the queue of commands, it keeps what has
been sent, what has been drawn and what has been fused, and it keeps the canonical form of the memories and of the register
table. The lemmas of Laws/Kept*.lean say so of every operation, one lemma for each. -/

set_option Elab.async false

namespace Sys2Proof.Machine

/-- `t` comes after `s`. -/
structure Kept (s t : State) : Prop where
  pending : t.pending = s.pending
  outbox : s.outbox <+: t.outbox
  drawn : s.freeCounter ≤ t.freeCounter
  fuses : s.fuses.le t.fuses
  mem : s.memWf → t.memWf
  regs : s.regsRising → t.regsRising
  running : s.run.phase = .running → t.run.phase = .running
  retired : s.service.retiredChannels ⊆ t.service.retiredChannels

theorem OwnerEntry.le_refl (a : OwnerEntry) : a.le a := ⟨fun h => ⟨h, rfl⟩, id⟩

theorem OwnerEntry.le_trans {a b c : OwnerEntry} (h : a.le b) (g : b.le c) : a.le c :=
  ⟨fun x => ⟨(g.1 (h.1 x).1).1, (g.1 (h.1 x).1).2.trans (h.1 x).2⟩, fun x => g.2 (h.2 x)⟩

theorem Fuses.le_refl (a : Fuses) : a.le a := ⟨Nat.le_refl _, rfl, fun _ x h => ⟨x, h, OwnerEntry.le_refl x⟩⟩

theorem Fuses.le_trans {a b c : Fuses} (h : a.le b) (g : b.le c) : a.le c := by
  refine ⟨Nat.le_trans h.1 g.1, g.2.1.trans h.2.1, fun i x hx => ?_⟩
  obtain ⟨y, hy, h1⟩ := h.2.2 i x hx
  obtain ⟨z, hz, h2⟩ := g.2.2 i y hy
  exact ⟨z, hz, OwnerEntry.le_trans h1 h2⟩

theorem Kept.refl (s : State) : Kept s s :=
  ⟨rfl, List.prefix_refl _, Nat.le_refl _, Fuses.le_refl _, id, id, id, List.Subset.refl _⟩

theorem Kept.trans {a b c : State} (h : Kept a b) (g : Kept b c) : Kept a c :=
  ⟨g.pending.trans h.pending, h.outbox.trans g.outbox, Nat.le_trans h.drawn g.drawn, Fuses.le_trans h.fuses g.fuses,
    fun x => g.mem (h.mem x), fun x => g.regs (h.regs x), fun x => g.running (h.running x), List.Subset.trans h.retired g.retired⟩

/-- A state that agrees in the fields `Kept` speaks of. -/
theorem Kept.same {a b c : State} (h : Kept a b) (hp : c.pending = b.pending) (ho : c.outbox = b.outbox)
    (hd : c.freeCounter = b.freeCounter) (hf : c.fuses = b.fuses) (h1 : c.hbm = b.hbm) (h2 : c.sidecar = b.sidecar)
    (h3 : c.localStore = b.localStore) (h4 : c.rowStore = b.rowStore) (h5 : c.tier4 = b.tier4) (h6 : c.regs = b.regs)
    (hr : b.run.phase = .running → c.run.phase = .running) (hc : b.service.retiredChannels ⊆ c.service.retiredChannels) :
    Kept a c := by
  refine ⟨hp ▸ h.pending, ho ▸ h.outbox, hd ▸ h.drawn, hf ▸ h.fuses, fun x => ?_, fun x => ?_, fun x => hr (h.running x),
    List.Subset.trans h.retired hc⟩
  · have := h.mem x
    unfold State.memWf at this ⊢
    rw [h1, h2, h3, h4, h5]; exact this
  · have := h.regs x
    unfold State.regsRising at this ⊢
    rw [h6]; exact this

/-- A state whose memories alone differ among those fields, each in canonical form if it was. -/
theorem Kept.memories {a b c : State} (h : Kept a b) (hp : c.pending = b.pending) (ho : c.outbox = b.outbox)
    (hd : c.freeCounter = b.freeCounter) (hf : c.fuses = b.fuses) (h6 : c.regs = b.regs) (hm : b.memWf → c.memWf)
    (hr : b.run.phase = .running → c.run.phase = .running) (hc : b.service.retiredChannels ⊆ c.service.retiredChannels) :
    Kept a c := by
  refine ⟨hp ▸ h.pending, ho ▸ h.outbox, hd ▸ h.drawn, hf ▸ h.fuses, fun x => hm (h.mem x), fun x => ?_,
    fun x => hr (h.running x), List.Subset.trans h.retired hc⟩
  have := h.regs x
  unfold State.regsRising at this ⊢
  rw [h6]; exact this

/-- A record update that leaves the fields `Kept` speaks of. -/
theorem Kept.frame {a s : State}
    {latched : List (Nat × Nat)} {lineTag : List (Nat × Nat)} {hbmPoison : List (Nat × Nat)} {awayPoison : List (Nat × Nat)}
    {lsPoison : List (Nat × Nat)} {rsPoison : List (Nat × Nat)} {scrubs : List (Nat × Nat)}
    {tlb1 : List (Nat × List TlbEntry)} {tlb2 : List (Nat × List TlbEntry)} {walkCache : List (Nat × List WalkEntry)}
    {slots : List (Nat × Slot)} {shards : List (Nat × ShardRun)} {tags : List (Nat × Nat)}
    {ledger : List (Nat × LedgerEntry)} {queues : List (Nat × QueueData)} {watches : List Watch} {offers : List OfferRec}
    {deferred : List DeferredWrite} {waiting : List Packet} {relays : List Relay} {own : List OwnReq}
    {updates : List FenceHeld} {fenceOps : List (Nat × FenceOp)} {fenceTurn : Nat} {contexts : List (Nat × Context)}
    {pieces : List (Nat × Piece)} {plait : PlaitEngine} {reports : List (Nat × Nat × BitVec 512)}
    {frames : List (Nat × FrameUse)} {objects : List (Nat × ObjTable)} {kv : List (Nat × List (Nat × KvSeq))}
    {segTags : List (Nat × Nat)} {seals : List (Nat × SealRec)} {spans : List (Nat × Span)} {spanMsgs : List (Nat × Nat)}
    {moves : List Move} {edits : List Edit} {heat : List (Nat × Nat)} {pins : Pins} {run : Run} {service : Service}
    {flash : Flash} {keys : List (Nat × KeyCell)} {keyMask : BitVec 768} {ident : Ident} {nonceTime : Nat}
    {manifest : Option (List Byte)} {parts : List (Nat × Nat)} {power : Power} {fc : Collector} {dma : List Dma}
    {ideKeys : List (Nat × Nat)} {msix : List (Nat × MsixVector)} {merge : List (Nat × List MergeGroup)}
    {seam : List (Nat × SeamChan)} {seamOut : List (Nat × Nat)} {bridgeTimes : List (Nat × List Nat)}
    {ports : List (Nat × Port)} {sentOn : List SentOn} {forwardWait : List (Nat × Packet)} {heard : Nat}
    {arbs : List (Nat × Arb)} {granted : List (Nat × Nat)} {windowEdge : Nat} {chanBytes : List (Nat × Nat)}
    {chanBack : List (Nat × Nat)} {latencies : List (Nat × List Nat)} {d3hot : List Nat} {sealGot : List (Nat × List Byte)}
    {lids : List (Nat × LidRec)} {imports : List (Nat × Import)} {lostModules : List Nat}
    (h : Kept a s) (hr : s.run.phase = .running → run.phase = .running)
    (hc : s.service.retiredChannels ⊆ service.retiredChannels) : Kept a (State.mk
      s.regs latched s.hbm s.sidecar s.localStore s.rowStore lineTag s.tier4 hbmPoison awayPoison lsPoison rsPoison scrubs
      tlb1 tlb2 walkCache slots shards tags ledger queues watches offers deferred waiting relays own updates fenceOps
      fenceTurn contexts pieces plait reports frames objects kv segTags seals spans spanMsgs moves edits heat pins run
      service s.fuses flash keys keyMask ident nonceTime manifest parts power fc dma ideKeys msix merge seam seamOut
      bridgeTimes ports sentOn forwardWait heard arbs granted windowEdge chanBytes chanBack latencies d3hot sealGot lids
      imports lostModules s.outbox s.freeCounter s.pending) := Kept.same h rfl rfl rfl rfl rfl rfl rfl rfl rfl rfl hr hc

/-- A record update of the memories, each still in canonical form if it was. -/
theorem Kept.frameMem {a s : State}
    {latched : List (Nat × Nat)} {lineTag : List (Nat × Nat)} {hbmPoison : List (Nat × Nat)} {awayPoison : List (Nat × Nat)}
    {lsPoison : List (Nat × Nat)} {rsPoison : List (Nat × Nat)} {scrubs : List (Nat × Nat)}
    {tlb1 : List (Nat × List TlbEntry)} {tlb2 : List (Nat × List TlbEntry)} {walkCache : List (Nat × List WalkEntry)}
    {slots : List (Nat × Slot)} {shards : List (Nat × ShardRun)} {tags : List (Nat × Nat)}
    {ledger : List (Nat × LedgerEntry)} {queues : List (Nat × QueueData)} {watches : List Watch} {offers : List OfferRec}
    {deferred : List DeferredWrite} {waiting : List Packet} {relays : List Relay} {own : List OwnReq}
    {updates : List FenceHeld} {fenceOps : List (Nat × FenceOp)} {fenceTurn : Nat} {contexts : List (Nat × Context)}
    {pieces : List (Nat × Piece)} {plait : PlaitEngine} {reports : List (Nat × Nat × BitVec 512)}
    {frames : List (Nat × FrameUse)} {objects : List (Nat × ObjTable)} {kv : List (Nat × List (Nat × KvSeq))}
    {segTags : List (Nat × Nat)} {seals : List (Nat × SealRec)} {spans : List (Nat × Span)} {spanMsgs : List (Nat × Nat)}
    {moves : List Move} {edits : List Edit} {heat : List (Nat × Nat)} {pins : Pins} {run : Run} {service : Service}
    {flash : Flash} {keys : List (Nat × KeyCell)} {keyMask : BitVec 768} {ident : Ident} {nonceTime : Nat}
    {manifest : Option (List Byte)} {parts : List (Nat × Nat)} {power : Power} {fc : Collector} {dma : List Dma}
    {ideKeys : List (Nat × Nat)} {msix : List (Nat × MsixVector)} {merge : List (Nat × List MergeGroup)}
    {seam : List (Nat × SeamChan)} {seamOut : List (Nat × Nat)} {bridgeTimes : List (Nat × List Nat)}
    {ports : List (Nat × Port)} {sentOn : List SentOn} {forwardWait : List (Nat × Packet)} {heard : Nat}
    {arbs : List (Nat × Arb)} {granted : List (Nat × Nat)} {windowEdge : Nat} {chanBytes : List (Nat × Nat)}
    {chanBack : List (Nat × Nat)} {latencies : List (Nat × List Nat)} {d3hot : List Nat} {sealGot : List (Nat × List Byte)}
    {lids : List (Nat × LidRec)} {imports : List (Nat × Import)} {lostModules : List Nat}
    {hbm sidecar localStore rowStore tier4 : Mem} (h : Kept a s)
    (h1 : s.hbm.wf = true → hbm.wf = true) (h2 : s.sidecar.wf = true → sidecar.wf = true)
    (h3 : s.localStore.wf = true → localStore.wf = true) (h4 : s.rowStore.wf = true → rowStore.wf = true)
    (h5 : s.tier4.wf = true → tier4.wf = true) (hr : s.run.phase = .running → run.phase = .running)
    (hc : s.service.retiredChannels ⊆ service.retiredChannels) : Kept a (State.mk
      s.regs latched hbm sidecar localStore rowStore lineTag tier4 hbmPoison awayPoison lsPoison rsPoison scrubs tlb1 tlb2
      walkCache slots shards tags ledger queues watches offers deferred waiting relays own updates fenceOps fenceTurn
      contexts pieces plait reports frames objects kv segTags seals spans spanMsgs moves edits heat pins run service s.fuses
      flash keys keyMask ident nonceTime manifest parts power fc dma ideKeys msix merge seam seamOut bridgeTimes ports
      sentOn forwardWait heard arbs granted windowEdge chanBytes chanBack latencies d3hot sealGot lids imports lostModules
      s.outbox s.freeCounter s.pending) :=
  Kept.memories h rfl rfl rfl rfl rfl (fun ⟨x1, x2, x3, x4, x5⟩ => ⟨h1 x1, h2 x2, h3 x3, h4 x4, h5 x5⟩) hr hc

/-- The draws a state has made are kept, whatever else of it is given up. -/
theorem Kept.redraw {a s t : State} (h : Kept a s) (g : Kept s t) : Kept a { s with freeCounter := t.freeCounter } :=
  h.trans ⟨rfl, List.prefix_refl _, g.drawn, Fuses.le_refl _, id, id, id, List.Subset.refl _⟩

theorem Kept.foldl {α : Type} {a : State} {f : State → α → State} {l : List α} {s : State} (h : Kept a s)
    (hf : ∀ s x, Kept a s → Kept a (f s x)) : Kept a (l.foldl f s) := by
  induction l generalizing s with
  | nil => exact h
  | cons x l ih => exact ih (hf s x h)

/-- A fold that carries a value beside the state. -/
theorem Kept.foldl₁ {α β : Type} {a : State} {f : State × β → α → State × β} {l : List α} {p : State × β} (h : Kept a p.1)
    (hf : ∀ p x, Kept a p.1 → Kept a (f p x).1) : Kept a (l.foldl f p).1 := by
  induction l generalizing p with
  | nil => exact h
  | cons x l ih => exact ih (hf p x h)

theorem Kept.foldl₂ {α β : Type} {a : State} {f : β × State → α → β × State} {l : List α} {p : β × State} (h : Kept a p.2)
    (hf : ∀ p x, Kept a p.2 → Kept a (f p x).2) : Kept a (l.foldl f p).2 := by
  induction l generalizing p with
  | nil => exact h
  | cons x l ih => exact ih (hf p x h)

theorem Kept.foldl₃ {α β γ : Type} {a : State} {f : β × γ × State → α → β × γ × State} {l : List α} {p : β × γ × State} (h : Kept a p.2.2)
    (hf : ∀ p x, Kept a p.2.2 → Kept a (f p x).2.2) : Kept a (l.foldl f p).2.2 := by
  induction l generalizing p with
  | nil => exact h
  | cons x l ih => exact ih (hf p x h)

/-- The state of a pair an operation answers. -/
theorem Kept.of_eq2 {α : Type} {a t : State} {p : α × State} {x : α} (e : p = (x, t)) (h : Kept a p.2) : Kept a t := by
  rw [e] at h; exact h

theorem Kept.of_eq3 {α β : Type} {a t : State} {p : α × β × State} {x : α} {y : β} (e : p = (x, y, t)) (h : Kept a p.2.2) :
    Kept a t := by
  rw [e] at h; exact h

theorem Kept.of_eq4 {α β γ : Type} {a t : State} {p : α × β × γ × State} {x : α} {y : β} {z : γ} (e : p = (x, y, z, t))
    (h : Kept a p.2.2.2) : Kept a t := by
  rw [e] at h; exact h

/-- The state an operation answers, if it answers one, comes after `a`. -/
structure KeptO {α : Type} (st : α → State) (a : State) (o : Option α) : Prop where
  out : ∀ x, o = some x → Kept a (st x)

theorem KeptO.none {α : Type} {st : α → State} {a : State} : KeptO st a Option.none := ⟨fun _ h => by cases h⟩

theorem KeptO.some {α : Type} {st : α → State} {a : State} {x : α} (h : Kept a (st x)) : KeptO st a (Option.some x) :=
  ⟨fun _ e => by cases e; exact h⟩

theorem KeptO.someS {a t : State} (h : Kept a t) : KeptO id a (Option.some t) := KeptO.some h

theorem Kept.of_some {α : Type} {a t : State} {o : Option (α × State)} {x : α} (e : o = Option.some (x, t))
    (h : KeptO Prod.snd a o) : Kept a t := h.out _ e

theorem Kept.of_some3 {α β : Type} {a t : State} {o : Option (α × β × State)} {x : α} {y : β} (e : o = Option.some (x, y, t))
    (h : KeptO (fun p => p.2.2) a o) : Kept a t := h.out _ e

theorem Kept.of_someS {a t : State} {o : Option State} (e : o = Option.some t) (h : KeptO id a o) : Kept a t := h.out _ e

/-- Cuts a goal at a state between. -/
theorem Kept.cut {a x v : State} {P : Prop} (e : x = v) (h : Kept a v) (g : Kept a x → P) : P := g (e ▸ h)

/-! ## Outcomes -/

/-- The next state of an outcome, if it is one, comes after `a`. -/
structure KeptR (a : State) (o : Host.Outcome State Fault Refusal) : Prop where
  out : ∀ t, o = .next t → Kept a t

theorem KeptR.next {a t : State} (h : Kept a t) : KeptR a (.next t) := ⟨fun _ e => by cases e; exact h⟩

theorem KeptR.ite {a : State} {p : Prop} [Decidable p] {o r : Host.Outcome State Fault Refusal} (h : KeptR a o) (g : KeptR a r) :
    KeptR a (if p then o else r) := by
  split
  · exact h
  · exact g

/-! ## Fuses -/

/-- Burning a fuse. -/
theorem Kept.fuse {a s : State} (h : Kept a s) {f : Fuses} (hf : s.fuses.le f) : Kept a { s with fuses := f } :=
  h.trans ⟨rfl, List.prefix_refl _, Nat.le_refl _, hf, id, id, id, List.Subset.refl _⟩

/-- An owner entry is replaced by one that may stand after it. -/
theorem Fuses.le_owner {f : Fuses} {i : Nat} {e : OwnerEntry} (h : ∀ x, f.owner[i]? = some x → x.le e) :
    f.le { f with owner := f.owner.set i e } := by
  refine ⟨Nat.le_refl _, by simp, fun j x hx => ?_⟩
  by_cases hj : i = j
  · subst hj
    have hl : i < f.owner.length := (List.getElem?_eq_some_iff.1 hx).1
    exact ⟨e, by simp [hl], h x hx⟩
  · exact ⟨x, by simp [hj, hx], OwnerEntry.le_refl x⟩

/-- The fused version rises. -/
theorem Fuses.le_svn {f : Fuses} {v : Nat} (h : f.svn ≤ v) : f.le { f with svn := v } :=
  ⟨h, rfl, fun _ x hx => ⟨x, hx, OwnerEntry.le_refl x⟩⟩

/-! ## The basic operations -/

theorem Sparse.rising_set {α : Type} [DecidableEq α] (d : α) {m : List (Nat × α)} (h : (m.map Prod.fst).Pairwise (· < ·)) (k : Nat)
    (v : α) : ((Sparse.set d m k v).map Prod.fst).Pairwise (· < ·) := by
  have key : ∀ (m : List (Nat × α)), ∀ x ∈ (Sparse.set d m k v).map Prod.fst, x = k ∨ x ∈ m.map Prod.fst := by
    intro m
    induction m with
    | nil => simp only [Sparse.set]; split <;> simp
    | cons e m ih =>
      obtain ⟨k', v'⟩ := e
      intro x hx
      simp only [Sparse.set] at hx
      split at hx
      · split at hx
        · exact Or.inr hx
        · simpa using hx
      · split at hx
        · split at hx
          · right
            rw [List.mem_map] at hx ⊢
            obtain ⟨e, he, rfl⟩ := hx
            exact ⟨e, List.mem_cons_of_mem _ ((List.dropWhile_suffix _).subset he), rfl⟩
          · simp only [List.map_cons, List.mem_cons] at hx ⊢
            rcases hx with rfl | hx
            · exact Or.inl rfl
            · exact Or.inr (Or.inr hx)
        · simp only [List.map_cons, List.mem_cons] at hx ⊢
          rcases hx with rfl | hx
          · exact Or.inr (Or.inl rfl)
          · rcases ih x hx with h | h
            · exact Or.inl h
            · exact Or.inr (Or.inr h)
  induction m with
  | nil => simp only [Sparse.set]; split <;> simp
  | cons e m ih =>
    obtain ⟨k', v'⟩ := e
    simp only [List.map_cons, List.pairwise_cons] at h
    simp only [Sparse.set]
    split
    · rename_i hk
      split
      · simpa using h
      · simp only [List.map_cons, List.pairwise_cons, List.mem_cons]
        refine ⟨?_, h⟩
        rintro x (rfl | hx)
        · exact hk
        · exact Nat.lt_trans hk (h.1 x hx)
    · split
      · split
        · exact h.2.sublist ((List.dropWhile_suffix _).sublist.map _)
        · rename_i h1 h2 h3
          simp only [List.map_cons, List.pairwise_cons]
          exact ⟨fun x hx => h2 ▸ h.1 x hx, h.2⟩
      · simp only [List.map_cons, List.pairwise_cons]
        refine ⟨fun x hx => ?_, ih h.2⟩
        rcases key m x hx with rfl | hx
        · omega
        · exact h.1 x hx

theorem State.set_kept {a s : State} (f : Field) (i v : Nat) (h : Kept a s) : Kept a (s.set f i v) :=
  h.trans ⟨rfl, List.prefix_refl _, Nat.le_refl _, Fuses.le_refl _, id, fun x => Sparse.rising_set _ x _ _, id, List.Subset.refl _⟩

theorem State.emit_kept {a s : State} (x : Sent) (h : Kept a s) : Kept a (s.emit x) :=
  h.trans ⟨rfl, List.prefix_append _ _, Nat.le_refl _, Fuses.le_refl _, id, id, id, List.Subset.refl _⟩

theorem State.emitAll_kept {a s : State} (ps : List Packet) (h : Kept a s) : Kept a (s.emitAll ps) :=
  h.trans ⟨rfl, List.prefix_append _ _, Nat.le_refl _, Fuses.le_refl _, id, id, id, List.Subset.refl _⟩

theorem State.drawn_kept {a s : State} (h : Kept a s) : Kept a s.drawn :=
  h.trans ⟨rfl, List.prefix_refl _, Nat.le_succ _, Fuses.le_refl _, id, id, id, List.Subset.refl _⟩

theorem State.setAll_kept {a s : State} (i : Nat) (l : List (Field × Nat)) (h : Kept a s) : Kept a (s.setAll i l) := by
  induction l generalizing s with
  | nil => exact h
  | cons e l ih => exact ih (State.set_kept _ _ _ h)

end Sys2Proof.Machine
end

