-- ==== Sys2Proof/Laws/KeptOps.lean ====
section
/-! SUPPORT. What the operations of Machine/Ops.lean keep (Laws/Kept.lean). -/

set_option maxRecDepth 8000
set_option Elab.async false

namespace Sys2Proof.Machine

theorem State.setBits_kept {s₀ s : State} {f : Field} {i mask : Nat} (hk : Kept s₀ s) : Kept s₀ ((State.setBits s f i mask)) := by
  unfold State.setBits
  repeat' first
    | with_reducible assumption
    | ((try lift_lets -underBinder); intro x; clear_value (hx : x = _); refine Kept.cut (a := s₀) hx ?_ (fun hk' => ?_); rotate_left; clear hx; rotate_right)
    | ((try lift_lets -underBinder); intro x)
    | with_reducible apply State.set_kept
    | (with_reducible apply Kept.of_eq2; with_reducible assumption)
    | (with_reducible apply Kept.of_eq3; with_reducible assumption)
    | (with_reducible apply Kept.of_eq4; with_reducible assumption)
    | with_reducible apply Kept.foldl
    | with_reducible apply Kept.foldl₁
    | with_reducible apply Kept.foldl₂
    | with_reducible apply Kept.foldl₃
    | exact id
    | exact List.Subset.refl _
    | split
    | dsimp +zetaDelta -zeta only
    | with_reducible apply Kept.frame
    | intro _
    | dsimp only

theorem State.clear_kept {s₀ s : State} {f : Field} {i : Nat} (hk : Kept s₀ s) : Kept s₀ ((State.clear s f i)) := by
  unfold State.clear
  repeat' first
    | with_reducible assumption
    | ((try lift_lets -underBinder); intro x; clear_value (hx : x = _); refine Kept.cut (a := s₀) hx ?_ (fun hk' => ?_); rotate_left; clear hx; rotate_right)
    | ((try lift_lets -underBinder); intro x)
    | with_reducible apply State.set_kept
    | (with_reducible apply Kept.of_eq2; with_reducible assumption)
    | (with_reducible apply Kept.of_eq3; with_reducible assumption)
    | (with_reducible apply Kept.of_eq4; with_reducible assumption)
    | with_reducible apply Kept.foldl
    | with_reducible apply Kept.foldl₁
    | with_reducible apply Kept.foldl₂
    | with_reducible apply Kept.foldl₃
    | exact id
    | exact List.Subset.refl _
    | split
    | dsimp +zetaDelta -zeta only
    | with_reducible apply Kept.frame
    | intro _
    | dsimp only

theorem State.count_kept {s₀ s : State} {f : Field} {i : Nat} {wrap : Field} {wi k : Nat} {n : Nat} (hk : Kept s₀ s) : Kept s₀ ((State.count s f i wrap wi k n)) := by
  unfold State.count
  repeat' first
    | with_reducible assumption
    | ((try lift_lets -underBinder); intro x; clear_value (hx : x = _); refine Kept.cut (a := s₀) hx ?_ (fun hk' => ?_); rotate_left; clear hx; rotate_right)
    | ((try lift_lets -underBinder); intro x)
    | with_reducible apply State.set_kept
    | with_reducible apply State.setBits_kept
    | (with_reducible apply Kept.of_eq2; with_reducible assumption)
    | (with_reducible apply Kept.of_eq3; with_reducible assumption)
    | (with_reducible apply Kept.of_eq4; with_reducible assumption)
    | with_reducible apply Kept.foldl
    | with_reducible apply Kept.foldl₁
    | with_reducible apply Kept.foldl₂
    | with_reducible apply Kept.foldl₃
    | exact id
    | exact List.Subset.refl _
    | split
    | dsimp +zetaDelta -zeta only
    | with_reducible apply Kept.frame
    | intro _
    | dsimp only

theorem State.bump_kept {s₀ s : State} {f : Field} {i : Nat} {n : Nat} (hk : Kept s₀ s) : Kept s₀ ((State.bump s f i n)) := by
  unfold State.bump
  repeat' first
    | with_reducible assumption
    | ((try lift_lets -underBinder); intro x; clear_value (hx : x = _); refine Kept.cut (a := s₀) hx ?_ (fun hk' => ?_); rotate_left; clear hx; rotate_right)
    | ((try lift_lets -underBinder); intro x)
    | with_reducible apply State.set_kept
    | (with_reducible apply Kept.of_eq2; with_reducible assumption)
    | (with_reducible apply Kept.of_eq3; with_reducible assumption)
    | (with_reducible apply Kept.of_eq4; with_reducible assumption)
    | with_reducible apply Kept.foldl
    | with_reducible apply Kept.foldl₁
    | with_reducible apply Kept.foldl₂
    | with_reducible apply Kept.foldl₃
    | exact id
    | exact List.Subset.refl _
    | split
    | dsimp +zetaDelta -zeta only
    | with_reducible apply Kept.frame
    | intro _
    | dsimp only

theorem State.set64_kept {s₀ s : State} {lo hi : Field} {i v : Nat} (hk : Kept s₀ s) : Kept s₀ ((State.set64 s lo hi i v)) := by
  unfold State.set64
  repeat' first
    | with_reducible assumption
    | ((try lift_lets -underBinder); intro x; clear_value (hx : x = _); refine Kept.cut (a := s₀) hx ?_ (fun hk' => ?_); rotate_left; clear hx; rotate_right)
    | ((try lift_lets -underBinder); intro x)
    | with_reducible apply State.set_kept
    | (with_reducible apply Kept.of_eq2; with_reducible assumption)
    | (with_reducible apply Kept.of_eq3; with_reducible assumption)
    | (with_reducible apply Kept.of_eq4; with_reducible assumption)
    | with_reducible apply Kept.foldl
    | with_reducible apply Kept.foldl₁
    | with_reducible apply Kept.foldl₂
    | with_reducible apply Kept.foldl₃
    | exact id
    | exact List.Subset.refl _
    | split
    | dsimp +zetaDelta -zeta only
    | with_reducible apply Kept.frame
    | intro _
    | dsimp only

theorem State.bump64_kept {s₀ s : State} {lo hi : Field} {i : Nat} {n : Nat} (hk : Kept s₀ s) : Kept s₀ ((State.bump64 s lo hi i n)) := by
  unfold State.bump64
  repeat' first
    | with_reducible assumption
    | ((try lift_lets -underBinder); intro x; clear_value (hx : x = _); refine Kept.cut (a := s₀) hx ?_ (fun hk' => ?_); rotate_left; clear hx; rotate_right)
    | ((try lift_lets -underBinder); intro x)
    | with_reducible apply State.set64_kept
    | (with_reducible apply Kept.of_eq2; with_reducible assumption)
    | (with_reducible apply Kept.of_eq3; with_reducible assumption)
    | (with_reducible apply Kept.of_eq4; with_reducible assumption)
    | with_reducible apply Kept.foldl
    | with_reducible apply Kept.foldl₁
    | with_reducible apply Kept.foldl₂
    | with_reducible apply Kept.foldl₃
    | exact id
    | exact List.Subset.refl _
    | split
    | dsimp +zetaDelta -zeta only
    | with_reducible apply Kept.frame
    | intro _
    | dsimp only

theorem State.setShard_kept {s₀ s : State} {core slot : Nat} {r : ShardRun} (hk : Kept s₀ s) : Kept s₀ ((State.setShard s core slot r)) := by
  unfold State.setShard
  repeat' first
    | with_reducible assumption
    | ((try lift_lets -underBinder); intro x; clear_value (hx : x = _); refine Kept.cut (a := s₀) hx ?_ (fun hk' => ?_); rotate_left; clear hx; rotate_right)
    | ((try lift_lets -underBinder); intro x)
    | with_reducible apply State.set_kept
    | (with_reducible apply Kept.of_eq2; with_reducible assumption)
    | (with_reducible apply Kept.of_eq3; with_reducible assumption)
    | (with_reducible apply Kept.of_eq4; with_reducible assumption)
    | with_reducible apply Kept.foldl
    | with_reducible apply Kept.foldl₁
    | with_reducible apply Kept.foldl₂
    | with_reducible apply Kept.foldl₃
    | exact id
    | exact List.Subset.refl _
    | split
    | dsimp +zetaDelta -zeta only
    | with_reducible apply Kept.frame
    | intro _
    | dsimp only

theorem State.setSlot_kept {s₀ s : State} {core k : Nat} {v : Slot} (hk : Kept s₀ s) : Kept s₀ ((State.setSlot s core k v)) := by
  unfold State.setSlot
  repeat' first
    | with_reducible assumption
    | ((try lift_lets -underBinder); intro x; clear_value (hx : x = _); refine Kept.cut (a := s₀) hx ?_ (fun hk' => ?_); rotate_left; clear hx; rotate_right)
    | ((try lift_lets -underBinder); intro x)
    | with_reducible apply State.set_kept
    | (with_reducible apply Kept.of_eq2; with_reducible assumption)
    | (with_reducible apply Kept.of_eq3; with_reducible assumption)
    | (with_reducible apply Kept.of_eq4; with_reducible assumption)
    | with_reducible apply Kept.foldl
    | with_reducible apply Kept.foldl₁
    | with_reducible apply Kept.foldl₂
    | with_reducible apply Kept.foldl₃
    | exact id
    | exact List.Subset.refl _
    | split
    | dsimp +zetaDelta -zeta only
    | with_reducible apply Kept.frame
    | intro _
    | dsimp only

theorem State.setCtx_kept {s₀ s : State} {c : Nat} {v : Context} (hk : Kept s₀ s) : Kept s₀ ((State.setCtx s c v)) := by
  unfold State.setCtx
  repeat' first
    | with_reducible assumption
    | ((try lift_lets -underBinder); intro x; clear_value (hx : x = _); refine Kept.cut (a := s₀) hx ?_ (fun hk' => ?_); rotate_left; clear hx; rotate_right)
    | ((try lift_lets -underBinder); intro x)
    | with_reducible apply State.set_kept
    | (with_reducible apply Kept.of_eq2; with_reducible assumption)
    | (with_reducible apply Kept.of_eq3; with_reducible assumption)
    | (with_reducible apply Kept.of_eq4; with_reducible assumption)
    | with_reducible apply Kept.foldl
    | with_reducible apply Kept.foldl₁
    | with_reducible apply Kept.foldl₂
    | with_reducible apply Kept.foldl₃
    | exact id
    | exact List.Subset.refl _
    | split
    | dsimp +zetaDelta -zeta only
    | with_reducible apply Kept.frame
    | intro _
    | dsimp only

theorem State.dropFree_kept {s₀ s : State} {ch : Nat} (hk : Kept s₀ s) : Kept s₀ ((State.dropFree s ch)) := by
  unfold State.dropFree
  repeat' first
    | with_reducible assumption
    | ((try lift_lets -underBinder); intro x; clear_value (hx : x = _); refine Kept.cut (a := s₀) hx ?_ (fun hk' => ?_); rotate_left; clear hx; rotate_right)
    | ((try lift_lets -underBinder); intro x)
    | with_reducible apply State.set_kept
    | (with_reducible apply Kept.of_eq2; with_reducible assumption)
    | (with_reducible apply Kept.of_eq3; with_reducible assumption)
    | (with_reducible apply Kept.of_eq4; with_reducible assumption)
    | with_reducible apply Kept.foldl
    | with_reducible apply Kept.foldl₁
    | with_reducible apply Kept.foldl₂
    | with_reducible apply Kept.foldl₃
    | exact id
    | exact List.Subset.refl _
    | split
    | dsimp +zetaDelta -zeta only
    | with_reducible apply Kept.frame
    | intro _
    | dsimp only

theorem State.sendMsix_kept {s₀ s : State} {fn v : Nat} (hk : Kept s₀ s) : Kept s₀ ((State.sendMsix s fn v)) := by
  unfold State.sendMsix
  repeat' first
    | with_reducible assumption
    | ((try lift_lets -underBinder); intro x; clear_value (hx : x = _); refine Kept.cut (a := s₀) hx ?_ (fun hk' => ?_); rotate_left; clear hx; rotate_right)
    | ((try lift_lets -underBinder); intro x)
    | with_reducible apply State.set_kept
    | with_reducible apply State.emit_kept
    | (with_reducible apply Kept.of_eq2; with_reducible assumption)
    | (with_reducible apply Kept.of_eq3; with_reducible assumption)
    | (with_reducible apply Kept.of_eq4; with_reducible assumption)
    | with_reducible apply Kept.foldl
    | with_reducible apply Kept.foldl₁
    | with_reducible apply Kept.foldl₂
    | with_reducible apply Kept.foldl₃
    | exact id
    | exact List.Subset.refl _
    | split
    | dsimp +zetaDelta -zeta only
    | with_reducible apply Kept.frame
    | intro _
    | dsimp only

theorem State.hostEvent_kept {s₀ s : State} {fn : Nat} {f : Field} (hk : Kept s₀ s) : Kept s₀ ((State.hostEvent s fn f)) := by
  unfold State.hostEvent
  repeat' first
    | with_reducible assumption
    | ((try lift_lets -underBinder); intro x; clear_value (hx : x = _); refine Kept.cut (a := s₀) hx ?_ (fun hk' => ?_); rotate_left; clear hx; rotate_right)
    | ((try lift_lets -underBinder); intro x)
    | with_reducible apply State.set_kept
    | with_reducible apply State.sendMsix_kept
    | (with_reducible apply Kept.of_eq2; with_reducible assumption)
    | (with_reducible apply Kept.of_eq3; with_reducible assumption)
    | (with_reducible apply Kept.of_eq4; with_reducible assumption)
    | with_reducible apply Kept.foldl
    | with_reducible apply Kept.foldl₁
    | with_reducible apply Kept.foldl₂
    | with_reducible apply Kept.foldl₃
    | exact id
    | exact List.Subset.refl _
    | split
    | dsimp +zetaDelta -zeta only
    | with_reducible apply Kept.frame
    | intro _
    | dsimp only

theorem State.driveErr_kept {s₀ s : State} (hk : Kept s₀ s) : Kept s₀ ((State.driveErr s)) := by
  unfold State.driveErr
  repeat' first
    | with_reducible assumption
    | ((try lift_lets -underBinder); intro x; clear_value (hx : x = _); refine Kept.cut (a := s₀) hx ?_ (fun hk' => ?_); rotate_left; clear hx; rotate_right)
    | ((try lift_lets -underBinder); intro x)
    | with_reducible apply State.set_kept
    | (with_reducible apply Kept.of_eq2; with_reducible assumption)
    | (with_reducible apply Kept.of_eq3; with_reducible assumption)
    | (with_reducible apply Kept.of_eq4; with_reducible assumption)
    | with_reducible apply Kept.foldl
    | with_reducible apply Kept.foldl₁
    | with_reducible apply Kept.foldl₂
    | with_reducible apply Kept.foldl₃
    | exact id
    | exact List.Subset.refl _
    | split
    | dsimp +zetaDelta -zeta only
    | with_reducible apply Kept.frame
    | intro _
    | dsimp only

theorem State.errRise_kept {s₀ s : State} {f : Nat} (hk : Kept s₀ s) : Kept s₀ ((State.errRise s f)) := by
  unfold State.errRise
  repeat' first
    | with_reducible assumption
    | ((try lift_lets -underBinder); intro x; clear_value (hx : x = _); refine Kept.cut (a := s₀) hx ?_ (fun hk' => ?_); rotate_left; clear hx; rotate_right)
    | ((try lift_lets -underBinder); intro x)
    | (with_reducible apply Kept.of_eq2; with_reducible assumption)
    | (with_reducible apply Kept.of_eq3; with_reducible assumption)
    | (with_reducible apply Kept.of_eq4; with_reducible assumption)
    | with_reducible apply Kept.foldl
    | with_reducible apply Kept.foldl₁
    | with_reducible apply Kept.foldl₂
    | with_reducible apply Kept.foldl₃
    | exact id
    | exact List.Subset.refl _
    | split
    | dsimp +zetaDelta -zeta only
    | with_reducible apply Kept.frame
    | intro _
    | dsimp only

theorem State.fence_kept {s₀ s : State} {e : Nat} (hk : Kept s₀ s) : Kept s₀ ((State.fence s e)) := by
  unfold State.fence
  repeat' first
    | with_reducible assumption
    | ((try lift_lets -underBinder); intro x; clear_value (hx : x = _); refine Kept.cut (a := s₀) hx ?_ (fun hk' => ?_); rotate_left; clear hx; rotate_right)
    | ((try lift_lets -underBinder); intro x)
    | with_reducible apply State.set_kept
    | (with_reducible apply Kept.of_eq2; with_reducible assumption)
    | (with_reducible apply Kept.of_eq3; with_reducible assumption)
    | (with_reducible apply Kept.of_eq4; with_reducible assumption)
    | with_reducible apply Kept.foldl
    | with_reducible apply Kept.foldl₁
    | with_reducible apply Kept.foldl₂
    | with_reducible apply Kept.foldl₃
    | exact id
    | exact List.Subset.refl _
    | split
    | dsimp +zetaDelta -zeta only
    | with_reducible apply Kept.frame
    | intro _
    | dsimp only

theorem State.requestStop_kept {s₀ s : State} {c : Nat} (hk : Kept s₀ s) : Kept s₀ ((State.requestStop s c)) := by
  unfold State.requestStop
  repeat' first
    | with_reducible assumption
    | ((try lift_lets -underBinder); intro x; clear_value (hx : x = _); refine Kept.cut (a := s₀) hx ?_ (fun hk' => ?_); rotate_left; clear hx; rotate_right)
    | ((try lift_lets -underBinder); intro x)
    | with_reducible apply State.set_kept
    | (with_reducible apply Kept.of_eq2; with_reducible assumption)
    | (with_reducible apply Kept.of_eq3; with_reducible assumption)
    | (with_reducible apply Kept.of_eq4; with_reducible assumption)
    | with_reducible apply Kept.foldl
    | with_reducible apply Kept.foldl₁
    | with_reducible apply Kept.foldl₂
    | with_reducible apply Kept.foldl₃
    | exact id
    | exact List.Subset.refl _
    | split
    | dsimp +zetaDelta -zeta only
    | with_reducible apply Kept.frame
    | intro _
    | dsimp only

theorem State.notice_kept {s₀ s : State} {p f i info sev : Nat} (hk : Kept s₀ s) : Kept s₀ ((State.notice s p f i info sev)) := by
  unfold State.notice
  repeat' first
    | with_reducible assumption
    | ((try lift_lets -underBinder); intro x; clear_value (hx : x = _); refine Kept.cut (a := s₀) hx ?_ (fun hk' => ?_); rotate_left; clear hx; rotate_right)
    | ((try lift_lets -underBinder); intro x)
    | with_reducible apply State.setBits_kept
    | with_reducible apply State.setAll_kept
    | with_reducible apply State.hostEvent_kept
    | (with_reducible apply Kept.of_eq2; with_reducible assumption)
    | (with_reducible apply Kept.of_eq3; with_reducible assumption)
    | (with_reducible apply Kept.of_eq4; with_reducible assumption)
    | with_reducible apply Kept.foldl
    | with_reducible apply Kept.foldl₁
    | with_reducible apply Kept.foldl₂
    | with_reducible apply Kept.foldl₃
    | exact id
    | exact List.Subset.refl _
    | split
    | dsimp +zetaDelta -zeta only
    | with_reducible apply Kept.frame
    | intro _
    | dsimp only

theorem State.logReport_kept {s₀ s : State} {f i info : Nat} {rail forced : Bool} {owners : List Nat} (hk : Kept s₀ s) : Kept s₀ ((State.logReport s f i info rail forced owners)) := by
  unfold State.logReport
  repeat' first
    | with_reducible assumption
    | ((try lift_lets -underBinder); intro x; clear_value (hx : x = _); refine Kept.cut (a := s₀) hx ?_ (fun hk' => ?_); rotate_left; clear hx; rotate_right)
    | ((try lift_lets -underBinder); intro x)
    | with_reducible apply State.set_kept
    | with_reducible apply State.setAll_kept
    | with_reducible apply State.count_kept
    | (with_reducible apply Kept.of_eq2; with_reducible assumption)
    | (with_reducible apply Kept.of_eq3; with_reducible assumption)
    | (with_reducible apply Kept.of_eq4; with_reducible assumption)
    | with_reducible apply Kept.foldl
    | with_reducible apply Kept.foldl₁
    | with_reducible apply Kept.foldl₂
    | with_reducible apply Kept.foldl₃
    | exact id
    | exact List.Subset.refl _
    | split
    | dsimp +zetaDelta -zeta only
    | with_reducible apply Kept.frame
    | intro _
    | dsimp only

theorem State.statusReport_kept {s₀ s : State} {f i info : Nat} {rail forced : Bool} (hk : Kept s₀ s) : Kept s₀ ((State.statusReport s f i info rail forced)) := by
  unfold State.statusReport
  repeat' first
    | with_reducible assumption
    | ((try lift_lets -underBinder); intro x; clear_value (hx : x = _); refine Kept.cut (a := s₀) hx ?_ (fun hk' => ?_); rotate_left; clear hx; rotate_right)
    | ((try lift_lets -underBinder); intro x)
    | with_reducible apply State.set_kept
    | with_reducible apply State.setAll_kept
    | with_reducible apply State.bump_kept
    | with_reducible apply State.errRise_kept
    | (with_reducible apply Kept.of_eq2; with_reducible assumption)
    | (with_reducible apply Kept.of_eq3; with_reducible assumption)
    | (with_reducible apply Kept.of_eq4; with_reducible assumption)
    | with_reducible apply Kept.foldl
    | with_reducible apply Kept.foldl₁
    | with_reducible apply Kept.foldl₂
    | with_reducible apply Kept.foldl₃
    | exact id
    | exact List.Subset.refl _
    | split
    | dsimp +zetaDelta -zeta only
    | with_reducible apply Kept.frame
    | intro _
    | dsimp only

theorem State.severityAction_kept {s₀ s : State} {f i : Nat} {owners : List Nat} (hk : Kept s₀ s) : Kept s₀ ((State.severityAction s f i owners)) := by
  unfold State.severityAction
  repeat' first
    | with_reducible assumption
    | ((try lift_lets -underBinder); intro x; clear_value (hx : x = _); refine Kept.cut (a := s₀) hx ?_ (fun hk' => ?_); rotate_left; clear hx; rotate_right)
    | ((try lift_lets -underBinder); intro x)
    | with_reducible apply State.fence_kept
    | with_reducible apply State.requestStop_kept
    | (with_reducible apply Kept.of_eq2; with_reducible assumption)
    | (with_reducible apply Kept.of_eq3; with_reducible assumption)
    | (with_reducible apply Kept.of_eq4; with_reducible assumption)
    | with_reducible apply Kept.foldl
    | with_reducible apply Kept.foldl₁
    | with_reducible apply Kept.foldl₂
    | with_reducible apply Kept.foldl₃
    | exact id
    | exact List.Subset.refl _
    | split
    | dsimp +zetaDelta -zeta only
    | with_reducible apply Kept.frame
    | intro _
    | dsimp only

theorem State.startRimRestart_kept {s₀ s : State} (hk : Kept s₀ s) : Kept s₀ ((State.startRimRestart s)) := by
  unfold State.startRimRestart
  repeat' first
    | with_reducible assumption
    | ((try lift_lets -underBinder); intro x; clear_value (hx : x = _); refine Kept.cut (a := s₀) hx ?_ (fun hk' => ?_); rotate_left; clear hx; rotate_right)
    | ((try lift_lets -underBinder); intro x)
    | with_reducible apply State.set_kept
    | (with_reducible apply Kept.of_eq2; with_reducible assumption)
    | (with_reducible apply Kept.of_eq3; with_reducible assumption)
    | (with_reducible apply Kept.of_eq4; with_reducible assumption)
    | with_reducible apply Kept.foldl
    | with_reducible apply Kept.foldl₁
    | with_reducible apply Kept.foldl₂
    | with_reducible apply Kept.foldl₃
    | exact id
    | exact List.Subset.refl _
    | split
    | dsimp +zetaDelta -zeta only
    | with_reducible apply Kept.frame
    | intro _
    | dsimp only

theorem State.report_kept {s₀ s : State} {f i info : Nat} {rail : Bool} {forced : Bool} (hk : Kept s₀ s) : Kept s₀ ((State.report s f i info rail forced)) := by
  unfold State.report
  repeat' first
    | with_reducible assumption
    | ((try lift_lets -underBinder); intro x; clear_value (hx : x = _); refine Kept.cut (a := s₀) hx ?_ (fun hk' => ?_); rotate_left; clear hx; rotate_right)
    | ((try lift_lets -underBinder); intro x)
    | with_reducible apply State.driveErr_kept
    | with_reducible apply State.notice_kept
    | with_reducible apply State.logReport_kept
    | with_reducible apply State.statusReport_kept
    | with_reducible apply State.severityAction_kept
    | with_reducible apply State.startRimRestart_kept
    | (with_reducible apply Kept.of_eq2; with_reducible assumption)
    | (with_reducible apply Kept.of_eq3; with_reducible assumption)
    | (with_reducible apply Kept.of_eq4; with_reducible assumption)
    | with_reducible apply Kept.foldl
    | with_reducible apply Kept.foldl₁
    | with_reducible apply Kept.foldl₂
    | with_reducible apply Kept.foldl₃
    | exact id
    | exact List.Subset.refl _
    | split
    | dsimp +zetaDelta -zeta only
    | with_reducible apply Kept.frame
    | intro _
    | dsimp only

theorem State.refreshCaps_kept {s₀ s : State} (hk : Kept s₀ s) : Kept s₀ ((State.refreshCaps s)) := by
  unfold State.refreshCaps
  repeat' first
    | with_reducible assumption
    | ((try lift_lets -underBinder); intro x; clear_value (hx : x = _); refine Kept.cut (a := s₀) hx ?_ (fun hk' => ?_); rotate_left; clear hx; rotate_right)
    | ((try lift_lets -underBinder); intro x)
    | with_reducible apply State.set_kept
    | with_reducible apply State.setAll_kept
    | (with_reducible apply Kept.of_eq2; with_reducible assumption)
    | (with_reducible apply Kept.of_eq3; with_reducible assumption)
    | (with_reducible apply Kept.of_eq4; with_reducible assumption)
    | with_reducible apply Kept.foldl
    | with_reducible apply Kept.foldl₁
    | with_reducible apply Kept.foldl₂
    | with_reducible apply Kept.foldl₃
    | exact id
    | exact List.Subset.refl _
    | split
    | dsimp +zetaDelta -zeta only
    | with_reducible apply Kept.frame
    | intro _
    | dsimp only

theorem State.capChange_kept {s₀ s : State} (hk : Kept s₀ s) : Kept s₀ ((State.capChange s)) := by
  unfold State.capChange
  repeat' first
    | with_reducible assumption
    | ((try lift_lets -underBinder); intro x; clear_value (hx : x = _); refine Kept.cut (a := s₀) hx ?_ (fun hk' => ?_); rotate_left; clear hx; rotate_right)
    | ((try lift_lets -underBinder); intro x)
    | with_reducible apply State.bump_kept
    | with_reducible apply State.hostEvent_kept
    | with_reducible apply State.report_kept
    | (with_reducible apply Kept.of_eq2; with_reducible assumption)
    | (with_reducible apply Kept.of_eq3; with_reducible assumption)
    | (with_reducible apply Kept.of_eq4; with_reducible assumption)
    | with_reducible apply Kept.foldl
    | with_reducible apply Kept.foldl₁
    | with_reducible apply Kept.foldl₂
    | with_reducible apply Kept.foldl₃
    | exact id
    | exact List.Subset.refl _
    | split
    | dsimp +zetaDelta -zeta only
    | with_reducible apply Kept.frame
    | intro _
    | dsimp only

theorem State.lsUncorrectable_kept {s₀ s : State} {site core line : Nat} (hk : Kept s₀ s) : Kept s₀ ((State.lsUncorrectable s site core line)) := by
  unfold State.lsUncorrectable
  repeat' first
    | with_reducible assumption
    | ((try lift_lets -underBinder); intro x; clear_value (hx : x = _); refine Kept.cut (a := s₀) hx ?_ (fun hk' => ?_); rotate_left; clear hx; rotate_right)
    | ((try lift_lets -underBinder); intro x)
    | with_reducible apply State.setAll_kept
    | with_reducible apply State.report_kept
    | (with_reducible apply Kept.of_eq2; with_reducible assumption)
    | (with_reducible apply Kept.of_eq3; with_reducible assumption)
    | (with_reducible apply Kept.of_eq4; with_reducible assumption)
    | with_reducible apply Kept.foldl
    | with_reducible apply Kept.foldl₁
    | with_reducible apply Kept.foldl₂
    | with_reducible apply Kept.foldl₃
    | exact id
    | exact List.Subset.refl _
    | split
    | dsimp +zetaDelta -zeta only
    | with_reducible apply Kept.frame
    | intro _
    | dsimp only

end Sys2Proof.Machine
end

