-- ==== Sys2Proof/Laws/KeptPorts.lean ====
section
/-! SUPPORT. What the operations of Machine/Ports.lean keep (Laws/Kept.lean). -/

set_option maxRecDepth 8000
set_option Elab.async false

namespace Sys2Proof.Machine

theorem State.setPort_kept {s₀ s : State} {p : Nat} {x : Port} (hk : Kept s₀ s) : Kept s₀ ((State.setPort s p x)) := by
  unfold State.setPort
  repeat' first
    | with_reducible assumption
    | ((try lift_lets -underBinder); intro x; clear_value (hx : x = _); refine Kept.cut (a := s₀) hx ?_ (fun hk' => ?_); rotate_left; clear hx; rotate_right)
    | ((try lift_lets -underBinder); intro x)
    | with_reducible apply State.set_kept
    | (with_reducible apply Kept.of_eq2; with_reducible assumption)
    | (with_reducible apply Kept.of_eq3; with_reducible assumption)
    | (with_reducible apply Kept.of_eq4; with_reducible assumption)
    | with_reducible apply Kept.foldl
    | with_reducible apply Kept.foldl₁
    | with_reducible apply Kept.foldl₂
    | with_reducible apply Kept.foldl₃
    | exact id
    | exact List.Subset.refl _
    | split
    | dsimp +zetaDelta -zeta only
    | with_reducible apply Kept.frame
    | intro _
    | dsimp only

theorem State.sendIdent_kept {s₀ s : State} {p : Nat} (hk : Kept s₀ s) : Kept s₀ ((State.sendIdent s p)) := by
  unfold State.sendIdent
  repeat' first
    | with_reducible assumption
    | ((try lift_lets -underBinder); intro x; clear_value (hx : x = _); refine Kept.cut (a := s₀) hx ?_ (fun hk' => ?_); rotate_left; clear hx; rotate_right)
    | ((try lift_lets -underBinder); intro x)
    | with_reducible apply State.emit_kept
    | (with_reducible apply Kept.of_eq2; with_reducible assumption)
    | (with_reducible apply Kept.of_eq3; with_reducible assumption)
    | (with_reducible apply Kept.of_eq4; with_reducible assumption)
    | with_reducible apply Kept.foldl
    | with_reducible apply Kept.foldl₁
    | with_reducible apply Kept.foldl₂
    | with_reducible apply Kept.foldl₃
    | exact id
    | exact List.Subset.refl _
    | split
    | dsimp +zetaDelta -zeta only
    | with_reducible apply Kept.frame
    | intro _
    | dsimp only

theorem State.sendIdents_kept {s₀ s : State} (hk : Kept s₀ s) : Kept s₀ ((State.sendIdents s)) := by
  unfold State.sendIdents
  repeat' first
    | with_reducible assumption
    | ((try lift_lets -underBinder); intro x; clear_value (hx : x = _); refine Kept.cut (a := s₀) hx ?_ (fun hk' => ?_); rotate_left; clear hx; rotate_right)
    | ((try lift_lets -underBinder); intro x)
    | with_reducible apply State.sendIdent_kept
    | (with_reducible apply Kept.of_eq2; with_reducible assumption)
    | (with_reducible apply Kept.of_eq3; with_reducible assumption)
    | (with_reducible apply Kept.of_eq4; with_reducible assumption)
    | with_reducible apply Kept.foldl
    | with_reducible apply Kept.foldl₁
    | with_reducible apply Kept.foldl₂
    | with_reducible apply Kept.foldl₃
    | exact id
    | exact List.Subset.refl _
    | split
    | dsimp +zetaDelta -zeta only
    | with_reducible apply Kept.frame
    | intro _
    | dsimp only

theorem State.showPeer_kept {s₀ s : State} {p : Nat} (hk : Kept s₀ s) : Kept s₀ ((State.showPeer s p)) := by
  unfold State.showPeer
  repeat' first
    | with_reducible assumption
    | ((try lift_lets -underBinder); intro x; clear_value (hx : x = _); refine Kept.cut (a := s₀) hx ?_ (fun hk' => ?_); rotate_left; clear hx; rotate_right)
    | ((try lift_lets -underBinder); intro x)
    | with_reducible apply State.setAll_kept
    | with_reducible apply State.capChange_kept
    | (with_reducible apply Kept.of_eq2; with_reducible assumption)
    | (with_reducible apply Kept.of_eq3; with_reducible assumption)
    | (with_reducible apply Kept.of_eq4; with_reducible assumption)
    | with_reducible apply Kept.foldl
    | with_reducible apply Kept.foldl₁
    | with_reducible apply Kept.foldl₂
    | with_reducible apply Kept.foldl₃
    | exact id
    | exact List.Subset.refl _
    | split
    | dsimp +zetaDelta -zeta only
    | with_reducible apply Kept.frame
    | intro _
    | dsimp only

theorem State.unmarkLost_kept {s₀ s : State} {m : Nat} (hk : Kept s₀ s) : Kept s₀ ((State.unmarkLost s m)) := by
  unfold State.unmarkLost
  repeat' first
    | with_reducible assumption
    | ((try lift_lets -underBinder); intro x; clear_value (hx : x = _); refine Kept.cut (a := s₀) hx ?_ (fun hk' => ?_); rotate_left; clear hx; rotate_right)
    | ((try lift_lets -underBinder); intro x)
    | (with_reducible apply Kept.of_eq2; with_reducible assumption)
    | (with_reducible apply Kept.of_eq3; with_reducible assumption)
    | (with_reducible apply Kept.of_eq4; with_reducible assumption)
    | with_reducible apply Kept.foldl
    | with_reducible apply Kept.foldl₁
    | with_reducible apply Kept.foldl₂
    | with_reducible apply Kept.foldl₃
    | exact id
    | exact List.Subset.refl _
    | split
    | dsimp +zetaDelta -zeta only
    | with_reducible apply Kept.frame
    | intro _
    | dsimp only

theorem State.settlePort_kept {s₀ s : State} {p : Nat} (hk : Kept s₀ s) : Kept s₀ ((State.settlePort s p)) := by
  unfold State.settlePort
  repeat' first
    | with_reducible assumption
    | ((try lift_lets -underBinder); intro x; clear_value (hx : x = _); refine Kept.cut (a := s₀) hx ?_ (fun hk' => ?_); rotate_left; clear hx; rotate_right)
    | ((try lift_lets -underBinder); intro x)
    | with_reducible apply State.set_kept
    | with_reducible apply State.sendIdents_kept
    | with_reducible apply State.unmarkLost_kept
    | (with_reducible apply Kept.of_eq2; with_reducible assumption)
    | (with_reducible apply Kept.of_eq3; with_reducible assumption)
    | (with_reducible apply Kept.of_eq4; with_reducible assumption)
    | with_reducible apply Kept.foldl
    | with_reducible apply Kept.foldl₁
    | with_reducible apply Kept.foldl₂
    | with_reducible apply Kept.foldl₃
    | exact id
    | exact List.Subset.refl _
    | split
    | dsimp +zetaDelta -zeta only
    | with_reducible apply Kept.frame
    | intro _
    | dsimp only

theorem State.refreshServing_kept {s₀ s : State} (hk : Kept s₀ s) : Kept s₀ ((State.refreshServing s)) := by
  unfold State.refreshServing
  repeat' first
    | with_reducible assumption
    | ((try lift_lets -underBinder); intro x; clear_value (hx : x = _); refine Kept.cut (a := s₀) hx ?_ (fun hk' => ?_); rotate_left; clear hx; rotate_right)
    | ((try lift_lets -underBinder); intro x)
    | with_reducible apply State.set_kept
    | with_reducible apply State.sendIdents_kept
    | with_reducible apply State.settlePort_kept
    | (with_reducible apply Kept.of_eq2; with_reducible assumption)
    | (with_reducible apply Kept.of_eq3; with_reducible assumption)
    | (with_reducible apply Kept.of_eq4; with_reducible assumption)
    | with_reducible apply Kept.foldl
    | with_reducible apply Kept.foldl₁
    | with_reducible apply Kept.foldl₂
    | with_reducible apply Kept.foldl₃
    | exact id
    | exact List.Subset.refl _
    | split
    | dsimp +zetaDelta -zeta only
    | with_reducible apply Kept.frame
    | intro _
    | dsimp only

end Sys2Proof.Machine
end

