-- ==== Sys2Proof/Laws/KeptMmio.lean ====
section
/-! SUPPORT. What the operations of Machine/Mmio.lean keep (Laws/Kept.lean). -/

set_option maxRecDepth 8000
set_option Elab.async false

namespace Sys2Proof.Machine

theorem State.writeField_kept {s₀ s : State} {i v : Nat} {f : Field} (hk : Kept s₀ s) : Kept s₀ ((State.writeField s i v f)) := by
  unfold State.writeField
  repeat' first
    | with_reducible assumption
    | ((try lift_lets -underBinder); intro x; clear_value (hx : x = _); refine Kept.cut (a := s₀) hx ?_ (fun hk' => ?_); rotate_left; clear hx; rotate_right)
    | ((try lift_lets -underBinder); intro x)
    | with_reducible apply State.set_kept
    | (with_reducible apply Kept.of_eq2; with_reducible assumption)
    | (with_reducible apply Kept.of_eq3; with_reducible assumption)
    | (with_reducible apply Kept.of_eq4; with_reducible assumption)
    | with_reducible apply Kept.foldl
    | with_reducible apply Kept.foldl₁
    | with_reducible apply Kept.foldl₂
    | with_reducible apply Kept.foldl₃
    | exact id
    | exact List.Subset.refl _
    | split
    | dsimp +zetaDelta -zeta only
    | with_reducible apply Kept.frame
    | intro _
    | dsimp only

theorem State.writeReg_kept {s₀ s : State} {r i v : Nat} (hk : Kept s₀ s) : Kept s₀ ((State.writeReg s r i v)) := by
  unfold State.writeReg
  repeat' first
    | with_reducible assumption
    | ((try lift_lets -underBinder); intro x; clear_value (hx : x = _); refine Kept.cut (a := s₀) hx ?_ (fun hk' => ?_); rotate_left; clear hx; rotate_right)
    | ((try lift_lets -underBinder); intro x)
    | with_reducible apply State.writeField_kept
    | (with_reducible apply Kept.of_eq2; with_reducible assumption)
    | (with_reducible apply Kept.of_eq3; with_reducible assumption)
    | (with_reducible apply Kept.of_eq4; with_reducible assumption)
    | with_reducible apply Kept.foldl
    | with_reducible apply Kept.foldl₁
    | with_reducible apply Kept.foldl₂
    | with_reducible apply Kept.foldl₃
    | exact id
    | exact List.Subset.refl _
    | split
    | dsimp +zetaDelta -zeta only
    | with_reducible apply Kept.frame
    | intro _
    | dsimp only

theorem State.lend_kept {s₀ s : State} {b v : Nat} (hk : Kept s₀ s) : Kept s₀ ((State.lend s b v)) := by
  unfold State.lend
  repeat' first
    | with_reducible assumption
    | ((try lift_lets -underBinder); intro x; clear_value (hx : x = _); refine Kept.cut (a := s₀) hx ?_ (fun hk' => ?_); rotate_left; clear hx; rotate_right)
    | ((try lift_lets -underBinder); intro x)
    | with_reducible apply State.set_kept
    | (with_reducible apply Kept.of_eq2; with_reducible assumption)
    | (with_reducible apply Kept.of_eq3; with_reducible assumption)
    | (with_reducible apply Kept.of_eq4; with_reducible assumption)
    | with_reducible apply Kept.foldl
    | with_reducible apply Kept.foldl₁
    | with_reducible apply Kept.foldl₂
    | with_reducible apply Kept.foldl₃
    | exact id
    | exact List.Subset.refl _
    | split
    | dsimp +zetaDelta -zeta only
    | with_reducible apply Kept.frame
    | intro _
    | dsimp only

theorem State.afterWrite_kept {s₀ s : State} {r i : Nat} (hk : Kept s₀ s) : Kept s₀ ((State.afterWrite s r i)) := by
  unfold State.afterWrite
  repeat' first
    | with_reducible assumption
    | ((try lift_lets -underBinder); intro x; clear_value (hx : x = _); refine Kept.cut (a := s₀) hx ?_ (fun hk' => ?_); rotate_left; clear hx; rotate_right)
    | ((try lift_lets -underBinder); intro x)
    | with_reducible apply State.set_kept
    | with_reducible apply State.driveErr_kept
    | with_reducible apply State.lend_kept
    | (with_reducible apply Kept.of_eq2; with_reducible assumption)
    | (with_reducible apply Kept.of_eq3; with_reducible assumption)
    | (with_reducible apply Kept.of_eq4; with_reducible assumption)
    | with_reducible apply Kept.foldl
    | with_reducible apply Kept.foldl₁
    | with_reducible apply Kept.foldl₂
    | with_reducible apply Kept.foldl₃
    | exact id
    | exact List.Subset.refl _
    | split
    | dsimp +zetaDelta -zeta only
    | with_reducible apply Kept.frame
    | intro _
    | dsimp only

theorem State.mmioWrite_kept {s₀ s : State} {a : Agent} {off v : Nat} (hk : Kept s₀ s) : Kept s₀ ((State.mmioWrite s a off v)) := by
  unfold State.mmioWrite
  repeat' first
    | with_reducible assumption
    | ((try lift_lets -underBinder); intro x; clear_value (hx : x = _); refine Kept.cut (a := s₀) hx ?_ (fun hk' => ?_); rotate_left; clear hx; rotate_right)
    | ((try lift_lets -underBinder); intro x)
    | with_reducible apply State.writeReg_kept
    | with_reducible apply State.afterWrite_kept
    | (with_reducible apply Kept.of_eq2; with_reducible assumption)
    | (with_reducible apply Kept.of_eq3; with_reducible assumption)
    | (with_reducible apply Kept.of_eq4; with_reducible assumption)
    | with_reducible apply Kept.foldl
    | with_reducible apply Kept.foldl₁
    | with_reducible apply Kept.foldl₂
    | with_reducible apply Kept.foldl₃
    | exact id
    | exact List.Subset.refl _
    | split
    | dsimp +zetaDelta -zeta only
    | with_reducible apply Kept.frame
    | intro _
    | dsimp only

end Sys2Proof.Machine
end

