-- ==== Sys2Proof/Laws/KeptSeam.lean ====
section
/-! SUPPORT. What the operations of Machine/Seam.lean keep (Laws/Kept.lean). -/

set_option maxRecDepth 8000
set_option Elab.async false

namespace Sys2Proof.Machine

theorem State.setSeam_kept {s₀ s : State} {k : Nat} {v : SeamChan} (hk : Kept s₀ s) : Kept s₀ ((State.setSeam s k v)) := by
  unfold State.setSeam
  repeat' first
    | with_reducible assumption
    | ((try lift_lets -underBinder); intro x; clear_value (hx : x = _); refine Kept.cut (a := s₀) hx ?_ (fun hk' => ?_); rotate_left; clear hx; rotate_right)
    | ((try lift_lets -underBinder); intro x)
    | with_reducible apply State.set_kept
    | (with_reducible apply Kept.of_eq2; with_reducible assumption)
    | (with_reducible apply Kept.of_eq3; with_reducible assumption)
    | (with_reducible apply Kept.of_eq4; with_reducible assumption)
    | with_reducible apply Kept.foldl
    | with_reducible apply Kept.foldl₁
    | with_reducible apply Kept.foldl₂
    | with_reducible apply Kept.foldl₃
    | exact id
    | exact List.Subset.refl _
    | split
    | dsimp +zetaDelta -zeta only
    | with_reducible apply Kept.frame
    | intro _
    | dsimp only

theorem State.captured_kept {s₀ s : State} {k : Nat} {x : Nat × SeamEntry × Bool} (hk : Kept s₀ s) : Kept s₀ ((State.captured s k x)) := by
  unfold State.captured
  repeat' first
    | with_reducible assumption
    | ((try lift_lets -underBinder); intro x; clear_value (hx : x = _); refine Kept.cut (a := s₀) hx ?_ (fun hk' => ?_); rotate_left; clear hx; rotate_right)
    | ((try lift_lets -underBinder); intro x)
    | with_reducible apply State.set_kept
    | with_reducible apply State.emit_kept
    | (with_reducible apply Kept.of_eq2; with_reducible assumption)
    | (with_reducible apply Kept.of_eq3; with_reducible assumption)
    | (with_reducible apply Kept.of_eq4; with_reducible assumption)
    | with_reducible apply Kept.foldl
    | with_reducible apply Kept.foldl₁
    | with_reducible apply Kept.foldl₂
    | with_reducible apply Kept.foldl₃
    | exact id
    | exact List.Subset.refl _
    | split
    | dsimp +zetaDelta -zeta only
    | with_reducible apply Kept.frame
    | intro _
    | dsimp only

theorem State.seamChannel_kept {s₀ s : State} {t k : Nat} (hk : Kept s₀ s) : Kept s₀ ((State.seamChannel s t k)) := by
  unfold State.seamChannel
  repeat' first
    | with_reducible assumption
    | ((try lift_lets -underBinder); intro x; clear_value (hx : x = _); refine Kept.cut (a := s₀) hx ?_ (fun hk' => ?_); rotate_left; clear hx; rotate_right)
    | ((try lift_lets -underBinder); intro x)
    | with_reducible apply State.setSeam_kept
    | with_reducible apply State.captured_kept
    | (with_reducible apply Kept.of_eq2; with_reducible assumption)
    | (with_reducible apply Kept.of_eq3; with_reducible assumption)
    | (with_reducible apply Kept.of_eq4; with_reducible assumption)
    | with_reducible apply Kept.foldl
    | with_reducible apply Kept.foldl₁
    | with_reducible apply Kept.foldl₂
    | with_reducible apply Kept.foldl₃
    | exact id
    | exact List.Subset.refl _
    | split
    | dsimp +zetaDelta -zeta only
    | with_reducible apply Kept.frame
    | intro _
    | dsimp only

theorem State.seamTo_kept {s₀ s : State} {t : Nat} (hk : Kept s₀ s) : Kept s₀ ((State.seamTo s t)) := by
  unfold State.seamTo
  repeat' first
    | with_reducible assumption
    | ((try lift_lets -underBinder); intro x; clear_value (hx : x = _); refine Kept.cut (a := s₀) hx ?_ (fun hk' => ?_); rotate_left; clear hx; rotate_right)
    | ((try lift_lets -underBinder); intro x)
    | with_reducible apply State.seamChannel_kept
    | (with_reducible apply Kept.of_eq2; with_reducible assumption)
    | (with_reducible apply Kept.of_eq3; with_reducible assumption)
    | (with_reducible apply Kept.of_eq4; with_reducible assumption)
    | with_reducible apply Kept.foldl
    | with_reducible apply Kept.foldl₁
    | with_reducible apply Kept.foldl₂
    | with_reducible apply Kept.foldl₃
    | exact id
    | exact List.Subset.refl _
    | split
    | dsimp +zetaDelta -zeta only
    | with_reducible apply Kept.frame
    | intro _
    | dsimp only

theorem State.setDiv_kept {s₀ s : State} {h code : Nat} (hk : Kept s₀ s) : Kept s₀ ((State.setDiv s h code)) := by
  unfold State.setDiv
  repeat' first
    | with_reducible assumption
    | ((try lift_lets -underBinder); intro x; clear_value (hx : x = _); refine Kept.cut (a := s₀) hx ?_ (fun hk' => ?_); rotate_left; clear hx; rotate_right)
    | ((try lift_lets -underBinder); intro x)
    | with_reducible apply State.set_kept
    | with_reducible apply State.seamTo_kept
    | (with_reducible apply Kept.of_eq2; with_reducible assumption)
    | (with_reducible apply Kept.of_eq3; with_reducible assumption)
    | (with_reducible apply Kept.of_eq4; with_reducible assumption)
    | with_reducible apply Kept.foldl
    | with_reducible apply Kept.foldl₁
    | with_reducible apply Kept.foldl₂
    | with_reducible apply Kept.foldl₃
    | exact id
    | exact List.Subset.refl _
    | split
    | dsimp +zetaDelta -zeta only
    | with_reducible apply Kept.frame
    | intro _
    | dsimp only

theorem State.wakeChannels_kept {s₀ s : State} {h : Nat} (hk : Kept s₀ s) : Kept s₀ ((State.wakeChannels s h)) := by
  unfold State.wakeChannels
  repeat' first
    | with_reducible assumption
    | ((try lift_lets -underBinder); intro x; clear_value (hx : x = _); refine Kept.cut (a := s₀) hx ?_ (fun hk' => ?_); rotate_left; clear hx; rotate_right)
    | ((try lift_lets -underBinder); intro x)
    | (with_reducible apply Kept.of_eq2; with_reducible assumption)
    | (with_reducible apply Kept.of_eq3; with_reducible assumption)
    | (with_reducible apply Kept.of_eq4; with_reducible assumption)
    | with_reducible apply Kept.foldl
    | with_reducible apply Kept.foldl₁
    | with_reducible apply Kept.foldl₂
    | with_reducible apply Kept.foldl₃
    | exact id
    | exact List.Subset.refl _
    | split
    | dsimp +zetaDelta -zeta only
    | with_reducible apply Kept.frame
    | intro _
    | dsimp only

theorem State.wakeHalf_kept {s₀ s : State} {h : Nat} (hk : Kept s₀ s) : Kept s₀ ((State.wakeHalf s h)) := by
  unfold State.wakeHalf
  repeat' first
    | with_reducible assumption
    | ((try lift_lets -underBinder); intro x; clear_value (hx : x = _); refine Kept.cut (a := s₀) hx ?_ (fun hk' => ?_); rotate_left; clear hx; rotate_right)
    | ((try lift_lets -underBinder); intro x)
    | with_reducible apply State.set_kept
    | with_reducible apply State.setDiv_kept
    | with_reducible apply State.wakeChannels_kept
    | (with_reducible apply Kept.of_eq2; with_reducible assumption)
    | (with_reducible apply Kept.of_eq3; with_reducible assumption)
    | (with_reducible apply Kept.of_eq4; with_reducible assumption)
    | with_reducible apply Kept.foldl
    | with_reducible apply Kept.foldl₁
    | with_reducible apply Kept.foldl₂
    | with_reducible apply Kept.foldl₃
    | exact id
    | exact List.Subset.refl _
    | split
    | dsimp +zetaDelta -zeta only
    | with_reducible apply Kept.frame
    | intro _
    | dsimp only

theorem State.giveToken_kept {s₀ s : State} {core : Nat} (hk : Kept s₀ s) : Kept s₀ ((State.giveToken s core)) := by
  unfold State.giveToken
  repeat' first
    | with_reducible assumption
    | ((try lift_lets -underBinder); intro x; clear_value (hx : x = _); refine Kept.cut (a := s₀) hx ?_ (fun hk' => ?_); rotate_left; clear hx; rotate_right)
    | ((try lift_lets -underBinder); intro x)
    | with_reducible apply State.count_kept
    | with_reducible apply State.wakeHalf_kept
    | (with_reducible apply Kept.of_eq2; with_reducible assumption)
    | (with_reducible apply Kept.of_eq3; with_reducible assumption)
    | (with_reducible apply Kept.of_eq4; with_reducible assumption)
    | with_reducible apply Kept.foldl
    | with_reducible apply Kept.foldl₁
    | with_reducible apply Kept.foldl₂
    | with_reducible apply Kept.foldl₃
    | exact id
    | exact List.Subset.refl _
    | split
    | dsimp +zetaDelta -zeta only
    | with_reducible apply Kept.frame
    | intro _
    | dsimp only

theorem State.requestWake_kept {s₀ s : State} {core : Nat} (hk : Kept s₀ s) : Kept s₀ ((State.requestWake s core)) := by
  unfold State.requestWake
  repeat' first
    | with_reducible assumption
    | ((try lift_lets -underBinder); intro x; clear_value (hx : x = _); refine Kept.cut (a := s₀) hx ?_ (fun hk' => ?_); rotate_left; clear hx; rotate_right)
    | ((try lift_lets -underBinder); intro x)
    | with_reducible apply State.count_kept
    | with_reducible apply State.giveToken_kept
    | (with_reducible apply Kept.of_eq2; with_reducible assumption)
    | (with_reducible apply Kept.of_eq3; with_reducible assumption)
    | (with_reducible apply Kept.of_eq4; with_reducible assumption)
    | with_reducible apply Kept.foldl
    | with_reducible apply Kept.foldl₁
    | with_reducible apply Kept.foldl₂
    | with_reducible apply Kept.foldl₃
    | exact id
    | exact List.Subset.refl _
    | split
    | dsimp +zetaDelta -zeta only
    | with_reducible apply Kept.frame
    | intro _
    | dsimp only

theorem State.seamWake_kept {s₀ s : State} {h : Nat} (hk : Kept s₀ s) : Kept s₀ ((State.seamWake s h)) := by
  unfold State.seamWake
  repeat' first
    | with_reducible assumption
    | ((try lift_lets -underBinder); intro x; clear_value (hx : x = _); refine Kept.cut (a := s₀) hx ?_ (fun hk' => ?_); rotate_left; clear hx; rotate_right)
    | ((try lift_lets -underBinder); intro x)
    | with_reducible apply State.count_kept
    | with_reducible apply State.requestWake_kept
    | (with_reducible apply Kept.of_eq2; with_reducible assumption)
    | (with_reducible apply Kept.of_eq3; with_reducible assumption)
    | (with_reducible apply Kept.of_eq4; with_reducible assumption)
    | with_reducible apply Kept.foldl
    | with_reducible apply Kept.foldl₁
    | with_reducible apply Kept.foldl₂
    | with_reducible apply Kept.foldl₃
    | exact id
    | exact List.Subset.refl _
    | split
    | dsimp +zetaDelta -zeta only
    | with_reducible apply Kept.frame
    | intro _
    | dsimp only

theorem State.launch_kept {s₀ s : State} {k : Nat} {e : SeamEntry} {credit : Bool} (hk : Kept s₀ s) : Kept s₀ ((State.launch s k e credit)) := by
  unfold State.launch
  repeat' first
    | with_reducible assumption
    | ((try lift_lets -underBinder); intro x; clear_value (hx : x = _); refine Kept.cut (a := s₀) hx ?_ (fun hk' => ?_); rotate_left; clear hx; rotate_right)
    | ((try lift_lets -underBinder); intro x)
    | with_reducible apply State.set_kept
    | with_reducible apply State.setSeam_kept
    | (with_reducible apply Kept.of_eq2; with_reducible assumption)
    | (with_reducible apply Kept.of_eq3; with_reducible assumption)
    | (with_reducible apply Kept.of_eq4; with_reducible assumption)
    | with_reducible apply Kept.foldl
    | with_reducible apply Kept.foldl₁
    | with_reducible apply Kept.foldl₂
    | with_reducible apply Kept.foldl₃
    | exact id
    | exact List.Subset.refl _
    | split
    | dsimp +zetaDelta -zeta only
    | with_reducible apply Kept.frame
    | intro _
    | dsimp only

end Sys2Proof.Machine
end

