-- ==== Sys2Proof/Laws/KeptFaults.lean ====
section
/-! SUPPORT. What the operations of Machine/Faults.lean keep (Laws/Kept.lean). -/

set_option maxRecDepth 8000
set_option Elab.async false

namespace Sys2Proof.Machine

theorem State.retireChannel_kept {s₀ s : State} {ch info : Nat} (hk : Kept s₀ s) : Kept s₀ ((State.retireChannel s ch info)) := by
  unfold State.retireChannel
  repeat' first
    | with_reducible assumption
    | ((try lift_lets -underBinder); intro x; clear_value (hx : x = _); refine Kept.cut (a := s₀) hx ?_ (fun hk' => ?_); rotate_left; clear hx; rotate_right)
    | ((try lift_lets -underBinder); intro x)
    | with_reducible apply State.dropFree_kept
    | with_reducible apply State.report_kept
    | (with_reducible apply Kept.of_eq2; with_reducible assumption)
    | (with_reducible apply Kept.of_eq3; with_reducible assumption)
    | (with_reducible apply Kept.of_eq4; with_reducible assumption)
    | with_reducible apply Kept.foldl
    | with_reducible apply Kept.foldl₁
    | with_reducible apply Kept.foldl₂
    | with_reducible apply Kept.foldl₃
    | exact id
    | exact List.Subset.refl _
    | split
    | dsimp +zetaDelta -zeta only
    | with_reducible apply Kept.frame
    | intro _
    | dsimp only

theorem State.hbmRowSpare_kept {s₀ s : State} {ch off : Nat} (hk : Kept s₀ s) : Kept s₀ ((State.hbmRowSpare s ch off)) := by
  unfold State.hbmRowSpare
  repeat' first
    | with_reducible assumption
    | ((try lift_lets -underBinder); intro x; clear_value (hx : x = _); refine Kept.cut (a := s₀) hx ?_ (fun hk' => ?_); rotate_left; clear hx; rotate_right)
    | ((try lift_lets -underBinder); intro x)
    | with_reducible apply State.set_kept
    | with_reducible apply State.report_kept
    | with_reducible apply State.retireChannel_kept
    | (with_reducible apply Kept.of_eq2; with_reducible assumption)
    | (with_reducible apply Kept.of_eq3; with_reducible assumption)
    | (with_reducible apply Kept.of_eq4; with_reducible assumption)
    | with_reducible apply Kept.foldl
    | with_reducible apply Kept.foldl₁
    | with_reducible apply Kept.foldl₂
    | with_reducible apply Kept.foldl₃
    | exact id
    | exact List.Subset.refl _
    | split
    | dsimp +zetaDelta -zeta only
    | with_reducible apply Kept.frame
    | intro _
    | dsimp only

theorem State.hbmLaneSpare_kept {s₀ s : State} {ch info : Nat} {rail : Bool} (hk : Kept s₀ s) : Kept s₀ ((State.hbmLaneSpare s ch info rail)) := by
  unfold State.hbmLaneSpare
  repeat' first
    | with_reducible assumption
    | ((try lift_lets -underBinder); intro x; clear_value (hx : x = _); refine Kept.cut (a := s₀) hx ?_ (fun hk' => ?_); rotate_left; clear hx; rotate_right)
    | ((try lift_lets -underBinder); intro x)
    | with_reducible apply State.set_kept
    | with_reducible apply State.report_kept
    | with_reducible apply State.retireChannel_kept
    | (with_reducible apply Kept.of_eq2; with_reducible assumption)
    | (with_reducible apply Kept.of_eq3; with_reducible assumption)
    | (with_reducible apply Kept.of_eq4; with_reducible assumption)
    | with_reducible apply Kept.foldl
    | with_reducible apply Kept.foldl₁
    | with_reducible apply Kept.foldl₂
    | with_reducible apply Kept.foldl₃
    | exact id
    | exact List.Subset.refl _
    | split
    | dsimp +zetaDelta -zeta only
    | with_reducible apply Kept.frame
    | intro _
    | dsimp only

theorem State.markHbm_kept {s₀ s : State} {line v : Nat} (hk : Kept s₀ s) : Kept s₀ ((State.markHbm s line v)) := by
  unfold State.markHbm
  repeat' first
    | with_reducible assumption
    | ((try lift_lets -underBinder); intro x; clear_value (hx : x = _); refine Kept.cut (a := s₀) hx ?_ (fun hk' => ?_); rotate_left; clear hx; rotate_right)
    | ((try lift_lets -underBinder); intro x)
    | with_reducible apply State.set_kept
    | (with_reducible apply Kept.of_eq2; with_reducible assumption)
    | (with_reducible apply Kept.of_eq3; with_reducible assumption)
    | (with_reducible apply Kept.of_eq4; with_reducible assumption)
    | with_reducible apply Kept.foldl
    | with_reducible apply Kept.foldl₁
    | with_reducible apply Kept.foldl₂
    | with_reducible apply Kept.foldl₃
    | exact id
    | exact List.Subset.refl _
    | split
    | dsimp +zetaDelta -zeta only
    | with_reducible apply Kept.frame
    | intro _
    | dsimp only

theorem State.hbmCorrected_kept {s₀ s : State} {family ch off : Nat} (hk : Kept s₀ s) : Kept s₀ ((State.hbmCorrected s family ch off)) := by
  unfold State.hbmCorrected
  repeat' first
    | with_reducible assumption
    | ((try lift_lets -underBinder); intro x; clear_value (hx : x = _); refine Kept.cut (a := s₀) hx ?_ (fun hk' => ?_); rotate_left; clear hx; rotate_right)
    | ((try lift_lets -underBinder); intro x)
    | with_reducible apply State.report_kept
    | with_reducible apply State.hbmRowSpare_kept
    | (with_reducible apply Kept.of_eq2; with_reducible assumption)
    | (with_reducible apply Kept.of_eq3; with_reducible assumption)
    | (with_reducible apply Kept.of_eq4; with_reducible assumption)
    | with_reducible apply Kept.foldl
    | with_reducible apply Kept.foldl₁
    | with_reducible apply Kept.foldl₂
    | with_reducible apply Kept.foldl₃
    | exact id
    | exact List.Subset.refl _
    | split
    | dsimp +zetaDelta -zeta only
    | with_reducible apply Kept.frame
    | intro _
    | dsimp only

theorem State.hbmUncorrectable_kept {s₀ s : State} {ch off : Nat} (hk : Kept s₀ s) : Kept s₀ ((State.hbmUncorrectable s ch off)) := by
  unfold State.hbmUncorrectable
  repeat' first
    | with_reducible assumption
    | ((try lift_lets -underBinder); intro x; clear_value (hx : x = _); refine Kept.cut (a := s₀) hx ?_ (fun hk' => ?_); rotate_left; clear hx; rotate_right)
    | ((try lift_lets -underBinder); intro x)
    | with_reducible apply State.report_kept
    | with_reducible apply State.hbmRowSpare_kept
    | with_reducible apply State.markHbm_kept
    | (with_reducible apply Kept.of_eq2; with_reducible assumption)
    | (with_reducible apply Kept.of_eq3; with_reducible assumption)
    | (with_reducible apply Kept.of_eq4; with_reducible assumption)
    | with_reducible apply Kept.foldl
    | with_reducible apply Kept.foldl₁
    | with_reducible apply Kept.foldl₂
    | with_reducible apply Kept.foldl₃
    | exact id
    | exact List.Subset.refl _
    | split
    | dsimp +zetaDelta -zeta only
    | with_reducible apply Kept.frame
    | intro _
    | dsimp only

theorem State.recover_kept {s₀ s : State} {f i : Nat} (hk : Kept s₀ s) : Kept s₀ ((State.recover s f i)) := by
  unfold State.recover
  repeat' first
    | with_reducible assumption
    | ((try lift_lets -underBinder); intro x; clear_value (hx : x = _); refine Kept.cut (a := s₀) hx ?_ (fun hk' => ?_); rotate_left; clear hx; rotate_right)
    | ((try lift_lets -underBinder); intro x)
    | with_reducible apply State.set_kept
    | (with_reducible apply Kept.of_eq2; with_reducible assumption)
    | (with_reducible apply Kept.of_eq3; with_reducible assumption)
    | (with_reducible apply Kept.of_eq4; with_reducible assumption)
    | with_reducible apply Kept.foldl
    | with_reducible apply Kept.foldl₁
    | with_reducible apply Kept.foldl₂
    | with_reducible apply Kept.foldl₃
    | exact id
    | exact List.Subset.refl _
    | split
    | dsimp +zetaDelta -zeta only
    | with_reducible apply Kept.frame
    | intro _
    | dsimp only

theorem State.takeInjection_kept {s₀ s : State} {target inst : Nat} (hk : Kept s₀ s) : Kept s₀ ((State.takeInjection s target inst).2) := by
  unfold State.takeInjection
  repeat' first
    | with_reducible assumption
    | ((try lift_lets -underBinder); intro x; clear_value (hx : x = _); refine Kept.cut (a := s₀) hx ?_ (fun hk' => ?_); rotate_left; clear hx; rotate_right)
    | ((try lift_lets -underBinder); intro x)
    | with_reducible apply State.set_kept
    | (with_reducible apply Kept.of_eq2; with_reducible assumption)
    | (with_reducible apply Kept.of_eq3; with_reducible assumption)
    | (with_reducible apply Kept.of_eq4; with_reducible assumption)
    | with_reducible apply Kept.foldl
    | with_reducible apply Kept.foldl₁
    | with_reducible apply Kept.foldl₂
    | with_reducible apply Kept.foldl₃
    | exact id
    | exact List.Subset.refl _
    | split
    | dsimp +zetaDelta -zeta only
    | with_reducible apply Kept.frame
    | intro _
    | dsimp only

theorem State.beginReset_kept {s₀ s : State} {e : Nat} (hk : Kept s₀ s) : Kept s₀ ((State.beginReset s e)) := by
  unfold State.beginReset
  repeat' first
    | with_reducible assumption
    | ((try lift_lets -underBinder); intro x; clear_value (hx : x = _); refine Kept.cut (a := s₀) hx ?_ (fun hk' => ?_); rotate_left; clear hx; rotate_right)
    | ((try lift_lets -underBinder); intro x)
    | with_reducible apply State.fence_kept
    | (with_reducible apply Kept.of_eq2; with_reducible assumption)
    | (with_reducible apply Kept.of_eq3; with_reducible assumption)
    | (with_reducible apply Kept.of_eq4; with_reducible assumption)
    | with_reducible apply Kept.foldl
    | with_reducible apply Kept.foldl₁
    | with_reducible apply Kept.foldl₂
    | with_reducible apply Kept.foldl₃
    | exact id
    | exact List.Subset.refl _
    | split
    | dsimp +zetaDelta -zeta only
    | with_reducible apply Kept.frame
    | intro _
    | dsimp only

theorem State.resetError_kept {s₀ s : State} {code : Nat} (hk : Kept s₀ s) : Kept s₀ ((State.resetError s code)) := by
  unfold State.resetError
  repeat' first
    | with_reducible assumption
    | ((try lift_lets -underBinder); intro x; clear_value (hx : x = _); refine Kept.cut (a := s₀) hx ?_ (fun hk' => ?_); rotate_left; clear hx; rotate_right)
    | ((try lift_lets -underBinder); intro x)
    | with_reducible apply State.setAll_kept
    | (with_reducible apply Kept.of_eq2; with_reducible assumption)
    | (with_reducible apply Kept.of_eq3; with_reducible assumption)
    | (with_reducible apply Kept.of_eq4; with_reducible assumption)
    | with_reducible apply Kept.foldl
    | with_reducible apply Kept.foldl₁
    | with_reducible apply Kept.foldl₂
    | with_reducible apply Kept.foldl₃
    | exact id
    | exact List.Subset.refl _
    | split
    | dsimp +zetaDelta -zeta only
    | with_reducible apply Kept.frame
    | intro _
    | dsimp only

theorem State.setSite_kept {s₀ s : State} {site st : Nat} (hk : Kept s₀ s) : Kept s₀ ((State.setSite s site st)) := by
  unfold State.setSite
  repeat' first
    | with_reducible assumption
    | ((try lift_lets -underBinder); intro x; clear_value (hx : x = _); refine Kept.cut (a := s₀) hx ?_ (fun hk' => ?_); rotate_left; clear hx; rotate_right)
    | ((try lift_lets -underBinder); intro x)
    | with_reducible apply State.set_kept
    | (with_reducible apply Kept.of_eq2; with_reducible assumption)
    | (with_reducible apply Kept.of_eq3; with_reducible assumption)
    | (with_reducible apply Kept.of_eq4; with_reducible assumption)
    | with_reducible apply Kept.foldl
    | with_reducible apply Kept.foldl₁
    | with_reducible apply Kept.foldl₂
    | with_reducible apply Kept.foldl₃
    | exact id
    | exact List.Subset.refl _
    | split
    | dsimp +zetaDelta -zeta only
    | with_reducible apply Kept.frame
    | intro _
    | dsimp only

theorem State.leaveCore_kept {s₀ s : State} {core : Nat} (hk : Kept s₀ s) : Kept s₀ ((State.leaveCore s core)) := by
  unfold State.leaveCore
  repeat' first
    | with_reducible assumption
    | ((try lift_lets -underBinder); intro x; clear_value (hx : x = _); refine Kept.cut (a := s₀) hx ?_ (fun hk' => ?_); rotate_left; clear hx; rotate_right)
    | ((try lift_lets -underBinder); intro x)
    | (with_reducible apply Kept.of_eq2; with_reducible assumption)
    | (with_reducible apply Kept.of_eq3; with_reducible assumption)
    | (with_reducible apply Kept.of_eq4; with_reducible assumption)
    | with_reducible apply Kept.foldl
    | with_reducible apply Kept.foldl₁
    | with_reducible apply Kept.foldl₂
    | with_reducible apply Kept.foldl₃
    | exact id
    | exact List.Subset.refl _
    | split
    | dsimp +zetaDelta -zeta only
    | with_reducible apply Kept.frame
    | intro _
    | dsimp only

theorem State.testSpare_kept {s₀ s : State} {row core : Nat} (hk : Kept s₀ s) : Kept s₀ ((State.testSpare s row core)) := by
  unfold State.testSpare
  repeat' first
    | with_reducible assumption
    | ((try lift_lets -underBinder); intro x; clear_value (hx : x = _); refine Kept.cut (a := s₀) hx ?_ (fun hk' => ?_); rotate_left; clear hx; rotate_right)
    | ((try lift_lets -underBinder); intro x)
    | with_reducible apply State.requestWake_kept
    | with_reducible apply State.setSite_kept
    | (with_reducible apply Kept.of_eq2; with_reducible assumption)
    | (with_reducible apply Kept.of_eq3; with_reducible assumption)
    | (with_reducible apply Kept.of_eq4; with_reducible assumption)
    | with_reducible apply Kept.foldl
    | with_reducible apply Kept.foldl₁
    | with_reducible apply Kept.foldl₂
    | with_reducible apply Kept.foldl₃
    | exact id
    | exact List.Subset.refl _
    | split
    | dsimp +zetaDelta -zeta only
    | with_reducible apply Kept.frame
    | intro _
    | dsimp only

theorem State.spareLane_kept {s₀ s : State} {core : Nat} (hk : Kept s₀ s) : Kept s₀ ((State.spareLane s core)) := by
  unfold State.spareLane
  repeat' first
    | with_reducible assumption
    | ((try lift_lets -underBinder); intro x; clear_value (hx : x = _); refine Kept.cut (a := s₀) hx ?_ (fun hk' => ?_); rotate_left; clear hx; rotate_right)
    | ((try lift_lets -underBinder); intro x)
    | with_reducible apply State.leaveCore_kept
    | with_reducible apply State.testSpare_kept
    | (with_reducible apply Kept.of_eq2; with_reducible assumption)
    | (with_reducible apply Kept.of_eq3; with_reducible assumption)
    | (with_reducible apply Kept.of_eq4; with_reducible assumption)
    | with_reducible apply Kept.foldl
    | with_reducible apply Kept.foldl₁
    | with_reducible apply Kept.foldl₂
    | with_reducible apply Kept.foldl₃
    | exact id
    | exact List.Subset.refl _
    | split
    | dsimp +zetaDelta -zeta only
    | with_reducible apply Kept.frame
    | intro _
    | dsimp only

theorem State.markSite_kept {s₀ s : State} {site : Nat} (hk : Kept s₀ s) : Kept s₀ ((State.markSite s site)) := by
  unfold State.markSite
  repeat' first
    | with_reducible assumption
    | ((try lift_lets -underBinder); intro x; clear_value (hx : x = _); refine Kept.cut (a := s₀) hx ?_ (fun hk' => ?_); rotate_left; clear hx; rotate_right)
    | ((try lift_lets -underBinder); intro x)
    | with_reducible apply State.spareLane_kept
    | (with_reducible apply Kept.of_eq2; with_reducible assumption)
    | (with_reducible apply Kept.of_eq3; with_reducible assumption)
    | (with_reducible apply Kept.of_eq4; with_reducible assumption)
    | with_reducible apply Kept.foldl
    | with_reducible apply Kept.foldl₁
    | with_reducible apply Kept.foldl₂
    | with_reducible apply Kept.foldl₃
    | exact id
    | exact List.Subset.refl _
    | split
    | dsimp +zetaDelta -zeta only
    | with_reducible apply Kept.frame
    | intro _
    | dsimp only

theorem State.sramCorrected_kept {s₀ s : State} {u : SramUnit} (hk : Kept s₀ s) : Kept s₀ ((State.sramCorrected s u)) := by
  unfold State.sramCorrected
  repeat' first
    | with_reducible assumption
    | ((try lift_lets -underBinder); intro x; clear_value (hx : x = _); refine Kept.cut (a := s₀) hx ?_ (fun hk' => ?_); rotate_left; clear hx; rotate_right)
    | ((try lift_lets -underBinder); intro x)
    | with_reducible apply State.count_kept
    | with_reducible apply State.report_kept
    | (with_reducible apply Kept.of_eq2; with_reducible assumption)
    | (with_reducible apply Kept.of_eq3; with_reducible assumption)
    | (with_reducible apply Kept.of_eq4; with_reducible assumption)
    | with_reducible apply Kept.foldl
    | with_reducible apply Kept.foldl₁
    | with_reducible apply Kept.foldl₂
    | with_reducible apply Kept.foldl₃
    | exact id
    | exact List.Subset.refl _
    | split
    | dsimp +zetaDelta -zeta only
    | with_reducible apply Kept.frame
    | intro _
    | dsimp only

theorem State.sramUncorrectable_kept {s₀ s : State} {u : SramUnit} {line : Nat} (hk : Kept s₀ s) : Kept s₀ ((State.sramUncorrectable s u line)) := by
  unfold State.sramUncorrectable
  repeat' first
    | with_reducible assumption
    | ((try lift_lets -underBinder); intro x; clear_value (hx : x = _); refine Kept.cut (a := s₀) hx ?_ (fun hk' => ?_); rotate_left; clear hx; rotate_right)
    | ((try lift_lets -underBinder); intro x)
    | with_reducible apply State.setAll_kept
    | with_reducible apply State.report_kept
    | (with_reducible apply Kept.of_eq2; with_reducible assumption)
    | (with_reducible apply Kept.of_eq3; with_reducible assumption)
    | (with_reducible apply Kept.of_eq4; with_reducible assumption)
    | with_reducible apply Kept.foldl
    | with_reducible apply Kept.foldl₁
    | with_reducible apply Kept.foldl₂
    | with_reducible apply Kept.foldl₃
    | exact id
    | exact List.Subset.refl _
    | split
    | dsimp +zetaDelta -zeta only
    | with_reducible apply Kept.frame
    | intro _
    | dsimp only

theorem State.markSram_kept {s₀ s : State} {u : SramUnit} {line : Nat} (hk : Kept s₀ s) : Kept s₀ ((State.markSram s u line)) := by
  unfold State.markSram
  repeat' first
    | with_reducible assumption
    | ((try lift_lets -underBinder); intro x; clear_value (hx : x = _); refine Kept.cut (a := s₀) hx ?_ (fun hk' => ?_); rotate_left; clear hx; rotate_right)
    | ((try lift_lets -underBinder); intro x)
    | with_reducible apply State.drawn_kept
    | (with_reducible apply Kept.of_eq2; with_reducible assumption)
    | (with_reducible apply Kept.of_eq3; with_reducible assumption)
    | (with_reducible apply Kept.of_eq4; with_reducible assumption)
    | with_reducible apply Kept.foldl
    | with_reducible apply Kept.foldl₁
    | with_reducible apply Kept.foldl₂
    | with_reducible apply Kept.foldl₃
    | exact id
    | exact List.Subset.refl _
    | split
    | dsimp +zetaDelta -zeta only
    | with_reducible apply Kept.frame
    | intro _
    | dsimp only

theorem State.scrubRead_kept {s₀ s : State} {u : SramUnit} (hk : Kept s₀ s) : Kept s₀ ((State.scrubRead s u)) := by
  unfold State.scrubRead
  repeat' first
    | with_reducible assumption
    | ((try lift_lets -underBinder); intro x; clear_value (hx : x = _); refine Kept.cut (a := s₀) hx ?_ (fun hk' => ?_); rotate_left; clear hx; rotate_right)
    | ((try lift_lets -underBinder); intro x)
    | with_reducible apply State.count_kept
    | (with_reducible apply Kept.of_eq2; with_reducible assumption)
    | (with_reducible apply Kept.of_eq3; with_reducible assumption)
    | (with_reducible apply Kept.of_eq4; with_reducible assumption)
    | with_reducible apply Kept.foldl
    | with_reducible apply Kept.foldl₁
    | with_reducible apply Kept.foldl₂
    | with_reducible apply Kept.foldl₃
    | exact id
    | exact List.Subset.refl _
    | split
    | dsimp +zetaDelta -zeta only
    | with_reducible apply Kept.frame
    | intro _
    | dsimp only

theorem State.beginRotation_kept {s₀ s : State} {row slot : Nat} (hk : Kept s₀ s) : Kept s₀ ((State.beginRotation s row slot)) := by
  unfold State.beginRotation
  repeat' first
    | with_reducible assumption
    | ((try lift_lets -underBinder); intro x; clear_value (hx : x = _); refine Kept.cut (a := s₀) hx ?_ (fun hk' => ?_); rotate_left; clear hx; rotate_right)
    | ((try lift_lets -underBinder); intro x)
    | with_reducible apply State.spareLane_kept
    | (with_reducible apply Kept.of_eq2; with_reducible assumption)
    | (with_reducible apply Kept.of_eq3; with_reducible assumption)
    | (with_reducible apply Kept.of_eq4; with_reducible assumption)
    | with_reducible apply Kept.foldl
    | with_reducible apply Kept.foldl₁
    | with_reducible apply Kept.foldl₂
    | with_reducible apply Kept.foldl₃
    | exact id
    | exact List.Subset.refl _
    | split
    | dsimp +zetaDelta -zeta only
    | with_reducible apply Kept.frame
    | intro _
    | dsimp only

end Sys2Proof.Machine
end

