-- ==== Sys2Proof/Laws/KeptMemory.lean ====
section
/-! SUPPORT. What the operations of Machine/Memory.lean keep (Laws/Kept.lean). -/

set_option maxRecDepth 8000
set_option Elab.async false

namespace Sys2Proof.Machine

theorem State.injected_kept {s₀ s : State} {phys : Nat} (hk : Kept s₀ s) : Kept s₀ ((State.injected s phys).2) := by
  unfold State.injected
  repeat' first
    | with_reducible assumption
    | ((try lift_lets -underBinder); intro x; clear_value (hx : x = _); refine Kept.cut (a := s₀) hx ?_ (fun hk' => ?_); rotate_left; clear hx; rotate_right)
    | ((try lift_lets -underBinder); intro x)
    | with_reducible apply State.set_kept
    | (with_reducible apply Kept.of_eq2; with_reducible assumption)
    | (with_reducible apply Kept.of_eq3; with_reducible assumption)
    | (with_reducible apply Kept.of_eq4; with_reducible assumption)
    | with_reducible apply Kept.foldl
    | with_reducible apply Kept.foldl₁
    | with_reducible apply Kept.foldl₂
    | with_reducible apply Kept.foldl₃
    | exact id
    | exact List.Subset.refl _
    | split
    | dsimp +zetaDelta -zeta only
    | with_reducible apply Kept.frame
    | intro _
    | dsimp only

theorem State.putCipher_kept {s₀ s : State} {phys tw : Nat} {cipher tag : List Byte} (hk : Kept s₀ s) : Kept s₀ ((State.putCipher s phys tw cipher tag)) := by
  unfold State.putCipher
  repeat' first
    | (intro hm; with_reducible exact hm)
    | (intro hm; exact Mem.write_wf hm _ _)
    | (intro hm; exact Mem.write_wf (Mem.write_wf hm _ _) _ _)
    | (intro hm; exact Mem.zero_wf hm _ _)
    | with_reducible assumption
    | ((try lift_lets -underBinder); intro x; clear_value (hx : x = _); refine Kept.cut (a := s₀) hx ?_ (fun hk' => ?_); rotate_left; clear hx; rotate_right)
    | ((try lift_lets -underBinder); intro x)
    | with_reducible apply State.set_kept
    | with_reducible apply State.injected_kept
    | (with_reducible apply Kept.of_eq2; with_reducible assumption)
    | (with_reducible apply Kept.of_eq3; with_reducible assumption)
    | (with_reducible apply Kept.of_eq4; with_reducible assumption)
    | with_reducible apply Kept.foldl
    | with_reducible apply Kept.foldl₁
    | with_reducible apply Kept.foldl₂
    | with_reducible apply Kept.foldl₃
    | exact id
    | exact List.Subset.refl _
    | split
    | with_reducible apply Kept.frameMem
    | dsimp +zetaDelta -zeta only
    | with_reducible apply Kept.frame
    | intro _
    | dsimp only

theorem State.putRun_kept {s₀ s : State} {b va phys n : Nat} {cipher tags : List Byte} (hk : Kept s₀ s) : Kept s₀ ((State.putRun s b va phys n cipher tags)) := by
  unfold State.putRun
  repeat' first
    | (intro hm; with_reducible exact hm)
    | (intro hm; exact Mem.write_wf hm _ _)
    | (intro hm; exact Mem.write_wf (Mem.write_wf hm _ _) _ _)
    | (intro hm; exact Mem.zero_wf hm _ _)
    | with_reducible assumption
    | ((try lift_lets -underBinder); intro x; clear_value (hx : x = _); refine Kept.cut (a := s₀) hx ?_ (fun hk' => ?_); rotate_left; clear hx; rotate_right)
    | ((try lift_lets -underBinder); intro x)
    | with_reducible apply State.set_kept
    | with_reducible apply State.injected_kept
    | (with_reducible apply Kept.of_eq2; with_reducible assumption)
    | (with_reducible apply Kept.of_eq3; with_reducible assumption)
    | (with_reducible apply Kept.of_eq4; with_reducible assumption)
    | with_reducible apply Kept.foldl
    | with_reducible apply Kept.foldl₁
    | with_reducible apply Kept.foldl₂
    | with_reducible apply Kept.foldl₃
    | exact id
    | exact List.Subset.refl _
    | split
    | with_reducible apply Kept.frameMem
    | dsimp +zetaDelta -zeta only
    | with_reducible apply Kept.frame
    | intro _
    | dsimp only

theorem State.zeroLines_kept {s₀ s : State} {phys n : Nat} (hk : Kept s₀ s) : Kept s₀ ((State.zeroLines s phys n)) := by
  unfold State.zeroLines
  repeat' first
    | (intro hm; with_reducible exact hm)
    | (intro hm; exact Mem.write_wf hm _ _)
    | (intro hm; exact Mem.write_wf (Mem.write_wf hm _ _) _ _)
    | (intro hm; exact Mem.zero_wf hm _ _)
    | with_reducible assumption
    | ((try lift_lets -underBinder); intro x; clear_value (hx : x = _); refine Kept.cut (a := s₀) hx ?_ (fun hk' => ?_); rotate_left; clear hx; rotate_right)
    | ((try lift_lets -underBinder); intro x)
    | with_reducible apply State.set_kept
    | with_reducible apply State.injected_kept
    | (with_reducible apply Kept.of_eq2; with_reducible assumption)
    | (with_reducible apply Kept.of_eq3; with_reducible assumption)
    | (with_reducible apply Kept.of_eq4; with_reducible assumption)
    | with_reducible apply Kept.foldl
    | with_reducible apply Kept.foldl₁
    | with_reducible apply Kept.foldl₂
    | with_reducible apply Kept.foldl₃
    | exact id
    | exact List.Subset.refl _
    | split
    | with_reducible apply Kept.frameMem
    | dsimp +zetaDelta -zeta only
    | with_reducible apply Kept.frame
    | intro _
    | dsimp only

theorem State.putLine_kept {s₀ s : State} {b va phys : Nat} {line : List Byte} (hk : Kept s₀ s) : Kept s₀ ((State.putLine s b va phys line)) := by
  unfold State.putLine
  repeat' first
    | with_reducible assumption
    | ((try lift_lets -underBinder); intro x; clear_value (hx : x = _); refine Kept.cut (a := s₀) hx ?_ (fun hk' => ?_); rotate_left; clear hx; rotate_right)
    | ((try lift_lets -underBinder); intro x)
    | with_reducible apply State.putCipher_kept
    | (with_reducible apply Kept.of_eq2; with_reducible assumption)
    | (with_reducible apply Kept.of_eq3; with_reducible assumption)
    | (with_reducible apply Kept.of_eq4; with_reducible assumption)
    | with_reducible apply Kept.foldl
    | with_reducible apply Kept.foldl₁
    | with_reducible apply Kept.foldl₂
    | with_reducible apply Kept.foldl₃
    | exact id
    | exact List.Subset.refl _
    | split
    | dsimp +zetaDelta -zeta only
    | with_reducible apply Kept.frame
    | intro _
    | dsimp only

theorem State.setTableEntry_kept {s₀ s : State} {b phys v : Nat} (hk : Kept s₀ s) : Kept s₀ ((State.setTableEntry s b phys v)) := by
  unfold State.setTableEntry
  repeat' first
    | (intro hm; with_reducible exact hm)
    | (intro hm; exact Mem.write_wf hm _ _)
    | (intro hm; exact Mem.write_wf (Mem.write_wf hm _ _) _ _)
    | (intro hm; exact Mem.zero_wf hm _ _)
    | with_reducible assumption
    | ((try lift_lets -underBinder); intro x; clear_value (hx : x = _); refine Kept.cut (a := s₀) hx ?_ (fun hk' => ?_); rotate_left; clear hx; rotate_right)
    | ((try lift_lets -underBinder); intro x)
    | with_reducible apply State.putCipher_kept
    | (with_reducible apply Kept.of_eq2; with_reducible assumption)
    | (with_reducible apply Kept.of_eq3; with_reducible assumption)
    | (with_reducible apply Kept.of_eq4; with_reducible assumption)
    | with_reducible apply Kept.foldl
    | with_reducible apply Kept.foldl₁
    | with_reducible apply Kept.foldl₂
    | with_reducible apply Kept.foldl₃
    | exact id
    | exact List.Subset.refl _
    | split
    | with_reducible apply Kept.frameMem
    | dsimp +zetaDelta -zeta only
    | with_reducible apply Kept.frame
    | intro _
    | dsimp only

theorem State.l1Miss_kept {s₀ s : State} {core : Nat} (hk : Kept s₀ s) : Kept s₀ ((State.l1Miss s core)) := by
  unfold State.l1Miss
  repeat' first
    | with_reducible assumption
    | ((try lift_lets -underBinder); intro x; clear_value (hx : x = _); refine Kept.cut (a := s₀) hx ?_ (fun hk' => ?_); rotate_left; clear hx; rotate_right)
    | ((try lift_lets -underBinder); intro x)
    | with_reducible apply State.count_kept
    | (with_reducible apply Kept.of_eq2; with_reducible assumption)
    | (with_reducible apply Kept.of_eq3; with_reducible assumption)
    | (with_reducible apply Kept.of_eq4; with_reducible assumption)
    | with_reducible apply Kept.foldl
    | with_reducible apply Kept.foldl₁
    | with_reducible apply Kept.foldl₂
    | with_reducible apply Kept.foldl₃
    | exact id
    | exact List.Subset.refl _
    | split
    | dsimp +zetaDelta -zeta only
    | with_reducible apply Kept.frame
    | intro _
    | dsimp only

theorem State.fillL1_kept {s₀ s : State} {core : Nat} {e : TlbEntry} (hk : Kept s₀ s) : Kept s₀ ((State.fillL1 s core e)) := by
  unfold State.fillL1
  repeat' first
    | with_reducible assumption
    | ((try lift_lets -underBinder); intro x; clear_value (hx : x = _); refine Kept.cut (a := s₀) hx ?_ (fun hk' => ?_); rotate_left; clear hx; rotate_right)
    | ((try lift_lets -underBinder); intro x)
    | with_reducible apply State.set_kept
    | (with_reducible apply Kept.of_eq2; with_reducible assumption)
    | (with_reducible apply Kept.of_eq3; with_reducible assumption)
    | (with_reducible apply Kept.of_eq4; with_reducible assumption)
    | with_reducible apply Kept.foldl
    | with_reducible apply Kept.foldl₁
    | with_reducible apply Kept.foldl₂
    | with_reducible apply Kept.foldl₃
    | exact id
    | exact List.Subset.refl _
    | split
    | dsimp +zetaDelta -zeta only
    | with_reducible apply Kept.frame
    | intro _
    | dsimp only

theorem State.fillL2_kept {s₀ s : State} {h va : Nat} {e : TlbEntry} (hk : Kept s₀ s) : Kept s₀ ((State.fillL2 s h va e)) := by
  unfold State.fillL2
  repeat' first
    | with_reducible assumption
    | ((try lift_lets -underBinder); intro x; clear_value (hx : x = _); refine Kept.cut (a := s₀) hx ?_ (fun hk' => ?_); rotate_left; clear hx; rotate_right)
    | ((try lift_lets -underBinder); intro x)
    | with_reducible apply State.set_kept
    | (with_reducible apply Kept.of_eq2; with_reducible assumption)
    | (with_reducible apply Kept.of_eq3; with_reducible assumption)
    | (with_reducible apply Kept.of_eq4; with_reducible assumption)
    | with_reducible apply Kept.foldl
    | with_reducible apply Kept.foldl₁
    | with_reducible apply Kept.foldl₂
    | with_reducible apply Kept.foldl₃
    | exact id
    | exact List.Subset.refl _
    | split
    | dsimp +zetaDelta -zeta only
    | with_reducible apply Kept.frame
    | intro _
    | dsimp only

theorem State.findL2_kept {s₀ s : State} {h b va : Nat} (hk : Kept s₀ s) : KeptO Prod.snd s₀ (State.findL2 s h b va) := by
  unfold State.findL2
  refine ⟨fun x e => ?_⟩
  obtain ⟨sh, _, e⟩ := List.exists_of_findSome?_eq_some e
  split at e
  · cases e
  · cases e
    exact State.fillL2_kept hk

theorem State.fillWalk_kept {s₀ s : State} {h b lv va e : Nat} (hk : Kept s₀ s) : Kept s₀ ((State.fillWalk s h b lv va e)) := by
  unfold State.fillWalk
  repeat' first
    | with_reducible assumption
    | ((try lift_lets -underBinder); intro x; clear_value (hx : x = _); refine Kept.cut (a := s₀) hx ?_ (fun hk' => ?_); rotate_left; clear hx; rotate_right)
    | ((try lift_lets -underBinder); intro x)
    | with_reducible apply State.set_kept
    | (with_reducible apply Kept.of_eq2; with_reducible assumption)
    | (with_reducible apply Kept.of_eq3; with_reducible assumption)
    | (with_reducible apply Kept.of_eq4; with_reducible assumption)
    | with_reducible apply Kept.foldl
    | with_reducible apply Kept.foldl₁
    | with_reducible apply Kept.foldl₂
    | with_reducible apply Kept.foldl₃
    | exact id
    | exact List.Subset.refl _
    | split
    | dsimp +zetaDelta -zeta only
    | with_reducible apply Kept.frame
    | intro _
    | dsimp only

theorem State.walkHalf_kept {s₀ s : State} {h b va : Nat} {p0 : Nat} {p1 : Nat} {p2 : Nat} (hk : Kept s₀ s) : Kept s₀ ((State.walkHalf s h b va p0 p1 p2).2) := by
  induction p0 generalizing s p1 p2 with
  | zero =>
    unfold State.walkHalf
    repeat' first
      | with_reducible assumption
      | ((try lift_lets -underBinder); intro x; clear_value (hx : x = _); refine Kept.cut (a := s₀) hx ?_ (fun hk' => ?_); rotate_left; clear hx; rotate_right)
      | ((try lift_lets -underBinder); intro x)
      | with_reducible apply State.fillWalk_kept
      | (with_reducible apply Kept.of_eq2; with_reducible assumption)
      | (with_reducible apply Kept.of_eq3; with_reducible assumption)
      | (with_reducible apply Kept.of_eq4; with_reducible assumption)
      | with_reducible apply Kept.foldl
      | with_reducible apply Kept.foldl₁
      | with_reducible apply Kept.foldl₂
      | with_reducible apply Kept.foldl₃
      | exact id
      | exact List.Subset.refl _
      | split
      | dsimp +zetaDelta -zeta only
      | with_reducible apply Kept.frame
      | intro _
      | dsimp only
  | succ n ih =>
    unfold State.walkHalf
    repeat' first
      | with_reducible assumption
      | ((try lift_lets -underBinder); intro x; clear_value (hx : x = _); refine Kept.cut (a := s₀) hx ?_ (fun hk' => ?_); rotate_left; clear hx; rotate_right)
      | ((try lift_lets -underBinder); intro x)
      | with_reducible apply ih
      | with_reducible apply State.fillWalk_kept
      | (with_reducible apply Kept.of_eq2; with_reducible assumption)
      | (with_reducible apply Kept.of_eq3; with_reducible assumption)
      | (with_reducible apply Kept.of_eq4; with_reducible assumption)
      | with_reducible apply Kept.foldl
      | with_reducible apply Kept.foldl₁
      | with_reducible apply Kept.foldl₂
      | with_reducible apply Kept.foldl₃
      | exact id
      | exact List.Subset.refl _
      | split
      | dsimp +zetaDelta -zeta only
      | with_reducible apply Kept.frame
      | intro _
      | dsimp only

theorem State.xlate_kept {s₀ s : State} {core b va : Nat} (hk : Kept s₀ s) : Kept s₀ ((State.xlate s core b va).2) := by
  unfold State.xlate
  repeat' first
    | with_reducible assumption
    | with_reducible apply State.findL2_kept
    | ((try lift_lets -underBinder); intro x; clear_value (hx : x = _); refine Kept.cut (a := s₀) hx ?_ (fun hk' => ?_); rotate_left; clear hx; rotate_right)
    | ((try lift_lets -underBinder); intro x)
    | with_reducible apply State.set_kept
    | with_reducible apply State.count_kept
    | with_reducible apply State.l1Miss_kept
    | with_reducible apply State.fillL1_kept
    | with_reducible apply State.fillL2_kept
    | with_reducible apply State.walkHalf_kept
    | (with_reducible apply Kept.of_eq2; with_reducible assumption)
    | (with_reducible apply Kept.of_eq3; with_reducible assumption)
    | (with_reducible apply Kept.of_eq4; with_reducible assumption)
    | (with_reducible apply Kept.of_some; with_reducible assumption)
    | (with_reducible apply Kept.of_some3; with_reducible assumption)
    | (with_reducible apply Kept.of_someS; with_reducible assumption)
    | with_reducible apply Kept.foldl
    | with_reducible apply Kept.foldl₁
    | with_reducible apply Kept.foldl₂
    | with_reducible apply Kept.foldl₃
    | exact id
    | exact List.Subset.refl _
    | split
    | dsimp +zetaDelta -zeta only
    | with_reducible apply Kept.frame
    | intro _
    | dsimp only

theorem State.dropTlb_kept {s₀ s : State} {b va pages : Nat} (hk : Kept s₀ s) : Kept s₀ ((State.dropTlb s b va pages)) := by
  unfold State.dropTlb
  repeat' first
    | with_reducible assumption
    | ((try lift_lets -underBinder); intro x; clear_value (hx : x = _); refine Kept.cut (a := s₀) hx ?_ (fun hk' => ?_); rotate_left; clear hx; rotate_right)
    | ((try lift_lets -underBinder); intro x)
    | (with_reducible apply Kept.of_eq2; with_reducible assumption)
    | (with_reducible apply Kept.of_eq3; with_reducible assumption)
    | (with_reducible apply Kept.of_eq4; with_reducible assumption)
    | with_reducible apply Kept.foldl
    | with_reducible apply Kept.foldl₁
    | with_reducible apply Kept.foldl₂
    | with_reducible apply Kept.foldl₃
    | exact id
    | exact List.Subset.refl _
    | split
    | dsimp +zetaDelta -zeta only
    | with_reducible apply Kept.frame
    | intro _
    | dsimp only

theorem State.dropBasket_kept {s₀ s : State} {b : Nat} (hk : Kept s₀ s) : Kept s₀ ((State.dropBasket s b)) := by
  unfold State.dropBasket
  repeat' first
    | with_reducible assumption
    | ((try lift_lets -underBinder); intro x; clear_value (hx : x = _); refine Kept.cut (a := s₀) hx ?_ (fun hk' => ?_); rotate_left; clear hx; rotate_right)
    | ((try lift_lets -underBinder); intro x)
    | with_reducible apply State.dropTlb_kept
    | (with_reducible apply Kept.of_eq2; with_reducible assumption)
    | (with_reducible apply Kept.of_eq3; with_reducible assumption)
    | (with_reducible apply Kept.of_eq4; with_reducible assumption)
    | with_reducible apply Kept.foldl
    | with_reducible apply Kept.foldl₁
    | with_reducible apply Kept.foldl₂
    | with_reducible apply Kept.foldl₃
    | exact id
    | exact List.Subset.refl _
    | split
    | dsimp +zetaDelta -zeta only
    | with_reducible apply Kept.frame
    | intro _
    | dsimp only

theorem State.recordFault_kept {s₀ s : State} {b : Nat} {f : AccessFault} (hk : Kept s₀ s) : Kept s₀ ((State.recordFault s b f)) := by
  unfold State.recordFault
  repeat' first
    | with_reducible assumption
    | ((try lift_lets -underBinder); intro x; clear_value (hx : x = _); refine Kept.cut (a := s₀) hx ?_ (fun hk' => ?_); rotate_left; clear hx; rotate_right)
    | ((try lift_lets -underBinder); intro x)
    | with_reducible apply State.setAll_kept
    | with_reducible apply State.count_kept
    | with_reducible apply State.report_kept
    | (with_reducible apply Kept.of_eq2; with_reducible assumption)
    | (with_reducible apply Kept.of_eq3; with_reducible assumption)
    | (with_reducible apply Kept.of_eq4; with_reducible assumption)
    | with_reducible apply Kept.foldl
    | with_reducible apply Kept.foldl₁
    | with_reducible apply Kept.foldl₂
    | with_reducible apply Kept.foldl₃
    | exact id
    | exact List.Subset.refl _
    | split
    | dsimp +zetaDelta -zeta only
    | with_reducible apply Kept.frame
    | intro _
    | dsimp only

theorem State.integrityFail_kept {s₀ s : State} {p : Nat} (hk : Kept s₀ s) : Kept s₀ ((State.integrityFail s p)) := by
  unfold State.integrityFail
  repeat' first
    | with_reducible assumption
    | ((try lift_lets -underBinder); intro x; clear_value (hx : x = _); refine Kept.cut (a := s₀) hx ?_ (fun hk' => ?_); rotate_left; clear hx; rotate_right)
    | ((try lift_lets -underBinder); intro x)
    | with_reducible apply State.count_kept
    | with_reducible apply State.report_kept
    | (with_reducible apply Kept.of_eq2; with_reducible assumption)
    | (with_reducible apply Kept.of_eq3; with_reducible assumption)
    | (with_reducible apply Kept.of_eq4; with_reducible assumption)
    | with_reducible apply Kept.foldl
    | with_reducible apply Kept.foldl₁
    | with_reducible apply Kept.foldl₂
    | with_reducible apply Kept.foldl₃
    | exact id
    | exact List.Subset.refl _
    | split
    | dsimp +zetaDelta -zeta only
    | with_reducible apply Kept.frame
    | intro _
    | dsimp only

theorem State.linePoisoned_kept {s₀ s : State} {b phys : Nat} {tag : Bool} (hk : Kept s₀ s) : Kept s₀ ((State.linePoisoned s b phys tag)) := by
  unfold State.linePoisoned
  repeat' first
    | with_reducible assumption
    | ((try lift_lets -underBinder); intro x; clear_value (hx : x = _); refine Kept.cut (a := s₀) hx ?_ (fun hk' => ?_); rotate_left; clear hx; rotate_right)
    | ((try lift_lets -underBinder); intro x)
    | with_reducible apply State.hbmUncorrectable_kept
    | with_reducible apply State.integrityFail_kept
    | (with_reducible apply Kept.of_eq2; with_reducible assumption)
    | (with_reducible apply Kept.of_eq3; with_reducible assumption)
    | (with_reducible apply Kept.of_eq4; with_reducible assumption)
    | with_reducible apply Kept.foldl
    | with_reducible apply Kept.foldl₁
    | with_reducible apply Kept.foldl₂
    | with_reducible apply Kept.foldl₃
    | exact id
    | exact List.Subset.refl _
    | split
    | dsimp +zetaDelta -zeta only
    | with_reducible apply Kept.frame
    | intro _
    | dsimp only

theorem State.walkTold_kept {s₀ s : State} {b : Nat} {x : Xlate} (hk : Kept s₀ s) : Kept s₀ ((State.walkTold s b x)) := by
  unfold State.walkTold
  repeat' first
    | with_reducible assumption
    | ((try lift_lets -underBinder); intro x; clear_value (hx : x = _); refine Kept.cut (a := s₀) hx ?_ (fun hk' => ?_); rotate_left; clear hx; rotate_right)
    | ((try lift_lets -underBinder); intro x)
    | with_reducible apply State.linePoisoned_kept
    | (with_reducible apply Kept.of_eq2; with_reducible assumption)
    | (with_reducible apply Kept.of_eq3; with_reducible assumption)
    | (with_reducible apply Kept.of_eq4; with_reducible assumption)
    | with_reducible apply Kept.foldl
    | with_reducible apply Kept.foldl₁
    | with_reducible apply Kept.foldl₂
    | with_reducible apply Kept.foldl₃
    | exact id
    | exact List.Subset.refl _
    | split
    | dsimp +zetaDelta -zeta only
    | with_reducible apply Kept.frame
    | intro _
    | dsimp only

end Sys2Proof.Machine
end

