-- ==== Sys2Proof/Laws/KeptOpAccess.lean ====
section
/-! SUPPORT. What the operations of Machine/OpAccess.lean keep (Laws/Kept.lean). -/

set_option maxRecDepth 8000
set_option Elab.async false

namespace Sys2Proof.Machine

theorem State.accessFault_kept {s₀ s : State} {b : Nat} {f : AccessFault} (hk : Kept s₀ s) : Kept s₀ ((State.accessFault s b f).2) := by
  unfold State.accessFault
  repeat' first
    | with_reducible assumption
    | ((try lift_lets -underBinder); intro x; clear_value (hx : x = _); refine Kept.cut (a := s₀) hx ?_ (fun hk' => ?_); rotate_left; clear hx; rotate_right)
    | ((try lift_lets -underBinder); intro x)
    | with_reducible apply State.recordFault_kept
    | (with_reducible apply Kept.of_eq2; with_reducible assumption)
    | (with_reducible apply Kept.of_eq3; with_reducible assumption)
    | (with_reducible apply Kept.of_eq4; with_reducible assumption)
    | with_reducible apply Kept.foldl
    | with_reducible apply Kept.foldl₁
    | with_reducible apply Kept.foldl₂
    | with_reducible apply Kept.foldl₃
    | exact id
    | exact List.Subset.refl _
    | split
    | dsimp +zetaDelta -zeta only
    | with_reducible apply Kept.frame
    | intro _
    | dsimp only

theorem State.checkPages_kept {s₀ s : State} {e : OpEnv} {p0 : List (Nat × Nat × Nat)} (hk : Kept s₀ s) : Kept s₀ ((State.checkPages s e p0).2.2) := by
  induction p0 generalizing s with
  | nil =>
    unfold State.checkPages
    repeat' first
      | with_reducible assumption
      | ((try lift_lets -underBinder); intro x; clear_value (hx : x = _); refine Kept.cut (a := s₀) hx ?_ (fun hk' => ?_); rotate_left; clear hx; rotate_right)
      | ((try lift_lets -underBinder); intro x)
      | with_reducible apply State.xlate_kept
      | with_reducible apply State.walkTold_kept
      | (with_reducible apply Kept.of_eq2; with_reducible assumption)
      | (with_reducible apply Kept.of_eq3; with_reducible assumption)
      | (with_reducible apply Kept.of_eq4; with_reducible assumption)
      | with_reducible apply Kept.foldl
      | with_reducible apply Kept.foldl₁
      | with_reducible apply Kept.foldl₂
      | with_reducible apply Kept.foldl₃
      | exact id
      | exact List.Subset.refl _
      | split
      | dsimp +zetaDelta -zeta only
      | with_reducible apply Kept.frame
      | intro _
      | dsimp only
  | cons x xs ih =>
    unfold State.checkPages
    repeat' first
      | with_reducible assumption
      | ((try lift_lets -underBinder); intro x; clear_value (hx : x = _); refine Kept.cut (a := s₀) hx ?_ (fun hk' => ?_); rotate_left; clear hx; rotate_right)
      | ((try lift_lets -underBinder); intro x)
      | with_reducible apply ih
      | with_reducible apply State.xlate_kept
      | with_reducible apply State.walkTold_kept
      | (with_reducible apply Kept.of_eq2; with_reducible assumption)
      | (with_reducible apply Kept.of_eq3; with_reducible assumption)
      | (with_reducible apply Kept.of_eq4; with_reducible assumption)
      | with_reducible apply Kept.foldl
      | with_reducible apply Kept.foldl₁
      | with_reducible apply Kept.foldl₂
      | with_reducible apply Kept.foldl₃
      | exact id
      | exact List.Subset.refl _
      | split
      | dsimp +zetaDelta -zeta only
      | with_reducible apply Kept.frame
      | intro _
      | dsimp only

theorem State.setOp_kept {s₀ s : State} {core slot : Nat} {o : OpRec} (hk : Kept s₀ s) : Kept s₀ ((State.setOp s core slot o)) := by
  unfold State.setOp
  repeat' first
    | with_reducible assumption
    | ((try lift_lets -underBinder); intro x; clear_value (hx : x = _); refine Kept.cut (a := s₀) hx ?_ (fun hk' => ?_); rotate_left; clear hx; rotate_right)
    | ((try lift_lets -underBinder); intro x)
    | with_reducible apply State.setShard_kept
    | (with_reducible apply Kept.of_eq2; with_reducible assumption)
    | (with_reducible apply Kept.of_eq3; with_reducible assumption)
    | (with_reducible apply Kept.of_eq4; with_reducible assumption)
    | with_reducible apply Kept.foldl
    | with_reducible apply Kept.foldl₁
    | with_reducible apply Kept.foldl₂
    | with_reducible apply Kept.foldl₃
    | exact id
    | exact List.Subset.refl _
    | split
    | dsimp +zetaDelta -zeta only
    | with_reducible apply Kept.frame
    | intro _
    | dsimp only

theorem State.settlePages_kept {s₀ s : State} {b : Nat} {known : Places} {p0 : List (Nat × Nat)} (hk : Kept s₀ s) : Kept s₀ ((State.settlePages s b known p0).2.2.2) := by
  induction p0 generalizing s with
  | nil =>
    unfold State.settlePages
    repeat' first
      | with_reducible assumption
      | ((try lift_lets -underBinder); intro x; clear_value (hx : x = _); refine Kept.cut (a := s₀) hx ?_ (fun hk' => ?_); rotate_left; clear hx; rotate_right)
      | ((try lift_lets -underBinder); intro x)
      | with_reducible apply State.linePoisoned_kept
      | with_reducible apply State.settle_kept
      | (with_reducible apply Kept.of_eq2; with_reducible assumption)
      | (with_reducible apply Kept.of_eq3; with_reducible assumption)
      | (with_reducible apply Kept.of_eq4; with_reducible assumption)
      | with_reducible apply Kept.foldl
      | with_reducible apply Kept.foldl₁
      | with_reducible apply Kept.foldl₂
      | with_reducible apply Kept.foldl₃
      | exact id
      | exact List.Subset.refl _
      | split
      | dsimp +zetaDelta -zeta only
      | with_reducible apply Kept.frame
      | intro _
      | dsimp only
  | cons x xs ih =>
    unfold State.settlePages
    repeat' first
      | with_reducible assumption
      | ((try lift_lets -underBinder); intro x; clear_value (hx : x = _); refine Kept.cut (a := s₀) hx ?_ (fun hk' => ?_); rotate_left; clear hx; rotate_right)
      | ((try lift_lets -underBinder); intro x)
      | with_reducible apply ih
      | with_reducible apply State.linePoisoned_kept
      | with_reducible apply State.settle_kept
      | (with_reducible apply Kept.of_eq2; with_reducible assumption)
      | (with_reducible apply Kept.of_eq3; with_reducible assumption)
      | (with_reducible apply Kept.of_eq4; with_reducible assumption)
      | with_reducible apply Kept.foldl
      | with_reducible apply Kept.foldl₁
      | with_reducible apply Kept.foldl₂
      | with_reducible apply Kept.foldl₃
      | exact id
      | exact List.Subset.refl _
      | split
      | dsimp +zetaDelta -zeta only
      | with_reducible apply Kept.frame
      | intro _
      | dsimp only

theorem State.settleFault_kept {s₀ s t : State} {b : Nat} {f : AccessFault} (ht : Kept s t) (hk : Kept s₀ s) :
    Kept s₀ ((State.settleFault s t b f).2) := by
  unfold State.settleFault
  dsimp only
  split
  · exact State.accessFault_kept (State.noTier_kept (Kept.redraw hk ht))
  · exact State.accessFault_kept (Kept.redraw hk ht)

theorem State.checkAccess_kept {s₀ s : State} {e : OpEnv} {o : OpRec} {reads writes : List Region} (hk : Kept s₀ s) : Kept s₀ ((State.checkAccess s e o reads writes).2) := by
  unfold State.checkAccess
  split
  · exact hk
  · dsimp only
    have hc := State.checkPages_kept (e := e) (p0 := accessPages reads writes) hk
    generalize hx : State.checkPages s e (accessPages reads writes) = x at hc ⊢
    obtain ⟨known, f, u⟩ := x
    dsimp only at hc ⊢
    split
    · exact State.settleFault_kept (Kept.of_eq4 (by assumption) (State.settlePages_kept (State.setOp_kept (Kept.refl _)))) hc
    · exact State.accessFault_kept hc
    · exact hc

theorem State.askDma_kept {s₀ s : State} {e : OpEnv} {op link addr va : Nat} {write : Bool} {data : List Byte} {len : Nat} (hk : Kept s₀ s) : Kept s₀ ((State.askDma s e op link addr va write data len).2) := by
  unfold State.askDma
  repeat' first
    | with_reducible assumption
    | ((try lift_lets -underBinder); intro x; clear_value (hx : x = _); refine Kept.cut (a := s₀) hx ?_ (fun hk' => ?_); rotate_left; clear hx; rotate_right)
    | ((try lift_lets -underBinder); intro x)
    | (with_reducible apply Kept.of_eq2; with_reducible assumption)
    | (with_reducible apply Kept.of_eq3; with_reducible assumption)
    | (with_reducible apply Kept.of_eq4; with_reducible assumption)
    | with_reducible apply Kept.foldl
    | with_reducible apply Kept.foldl₁
    | with_reducible apply Kept.foldl₂
    | with_reducible apply Kept.foldl₃
    | exact id
    | exact List.Subset.refl _
    | split
    | dsimp +zetaDelta -zeta only
    | with_reducible apply Kept.frame
    | intro _
    | dsimp only

theorem State.askLines_kept {s₀ s : State} {e : OpEnv} {o : OpRec} {reads writes : List Region} {p0 : Places} (hk : Kept s₀ s) : Kept s₀ ((State.askLines s e o reads writes p0).2.2) := by
  induction p0 generalizing s with
  | nil =>
    unfold State.askLines
    repeat' first
      | with_reducible assumption
      | ((try lift_lets -underBinder); intro x; clear_value (hx : x = _); refine Kept.cut (a := s₀) hx ?_ (fun hk' => ?_); rotate_left; clear hx; rotate_right)
      | ((try lift_lets -underBinder); intro x)
      | with_reducible apply State.emit_kept
      | with_reducible apply State.askDma_kept
      | (with_reducible apply Kept.of_eq2; with_reducible assumption)
      | (with_reducible apply Kept.of_eq3; with_reducible assumption)
      | (with_reducible apply Kept.of_eq4; with_reducible assumption)
      | with_reducible apply Kept.foldl
      | with_reducible apply Kept.foldl₁
      | with_reducible apply Kept.foldl₂
      | with_reducible apply Kept.foldl₃
      | exact id
      | exact List.Subset.refl _
      | split
      | dsimp +zetaDelta -zeta only
      | with_reducible apply Kept.frame
      | intro _
      | dsimp only
  | cons x xs ih =>
    unfold State.askLines
    repeat' first
      | with_reducible assumption
      | ((try lift_lets -underBinder); intro x; clear_value (hx : x = _); refine Kept.cut (a := s₀) hx ?_ (fun hk' => ?_); rotate_left; clear hx; rotate_right)
      | ((try lift_lets -underBinder); intro x)
      | with_reducible apply ih
      | with_reducible apply State.emit_kept
      | with_reducible apply State.askDma_kept
      | (with_reducible apply Kept.of_eq2; with_reducible assumption)
      | (with_reducible apply Kept.of_eq3; with_reducible assumption)
      | (with_reducible apply Kept.of_eq4; with_reducible assumption)
      | with_reducible apply Kept.foldl
      | with_reducible apply Kept.foldl₁
      | with_reducible apply Kept.foldl₂
      | with_reducible apply Kept.foldl₃
      | exact id
      | exact List.Subset.refl _
      | split
      | dsimp +zetaDelta -zeta only
      | with_reducible apply Kept.frame
      | intro _
      | dsimp only

theorem State.prepare_kept {s₀ s : State} {e : OpEnv} {o : OpRec} {reads writes : List Region} (hk : Kept s₀ s) : Kept s₀ ((State.prepare s e o reads writes).2) := by
  unfold State.prepare
  dsimp only
  split
  · exact State.settleFault_kept (Kept.of_eq4 (by assumption) (State.settlePages_kept (Kept.refl _))) (State.setOp_kept hk)
  · have h := Kept.of_eq4 (a := s₀) (by assumption) (State.settlePages_kept (State.setOp_kept hk))
    split
    · exact State.setOp_kept h
    · split
      · exact Kept.of_eq3 (by assumption) (State.askLines_kept (State.setOp_kept h))
      · have g := Kept.of_eq3 (a := s₀) (by assumption) (State.askLines_kept (State.setOp_kept h))
        split
        · exact g
        · exact g

theorem State.hbmCorrections_kept {s₀ s : State} {phys n : Nat} (hk : Kept s₀ s) : Kept s₀ ((State.hbmCorrections s phys n)) := by
  unfold State.hbmCorrections
  repeat' first
    | with_reducible assumption
    | ((try lift_lets -underBinder); intro x; clear_value (hx : x = _); refine Kept.cut (a := s₀) hx ?_ (fun hk' => ?_); rotate_left; clear hx; rotate_right)
    | ((try lift_lets -underBinder); intro x)
    | with_reducible apply State.hbmCorrected_kept
    | (with_reducible apply Kept.of_eq2; with_reducible assumption)
    | (with_reducible apply Kept.of_eq3; with_reducible assumption)
    | (with_reducible apply Kept.of_eq4; with_reducible assumption)
    | with_reducible apply Kept.foldl
    | with_reducible apply Kept.foldl₁
    | with_reducible apply Kept.foldl₂
    | with_reducible apply Kept.foldl₃
    | exact id
    | exact List.Subset.refl _
    | split
    | dsimp +zetaDelta -zeta only
    | with_reducible apply Kept.frame
    | intro _
    | dsimp only

theorem State.pageRead_kept {s₀ s : State} {e : OpEnv} {o : OpRec} {ps : Places} {va n : Nat} (hk : Kept s₀ s) : Kept s₀ ((State.pageRead s e o ps va n).2) := by
  unfold State.pageRead
  repeat' first
    | with_reducible assumption
    | ((try lift_lets -underBinder); intro x; clear_value (hx : x = _); refine Kept.cut (a := s₀) hx ?_ (fun hk' => ?_); rotate_left; clear hx; rotate_right)
    | ((try lift_lets -underBinder); intro x)
    | with_reducible apply State.linePoisoned_kept
    | with_reducible apply State.hbmCorrections_kept
    | (with_reducible apply Kept.of_eq2; with_reducible assumption)
    | (with_reducible apply Kept.of_eq3; with_reducible assumption)
    | (with_reducible apply Kept.of_eq4; with_reducible assumption)
    | with_reducible apply Kept.foldl
    | with_reducible apply Kept.foldl₁
    | with_reducible apply Kept.foldl₂
    | with_reducible apply Kept.foldl₃
    | exact id
    | exact List.Subset.refl _
    | split
    | dsimp +zetaDelta -zeta only
    | with_reducible apply Kept.frame
    | intro _
    | dsimp only

theorem State.spanRead_kept {s₀ s : State} {e : OpEnv} {o : OpRec} {ps : Places} {g : Region} {a n : Nat} (hk : Kept s₀ s) : Kept s₀ ((State.spanRead s e o ps g a n).2) := by
  unfold State.spanRead
  repeat' first
    | with_reducible assumption
    | ((try lift_lets -underBinder); intro x; clear_value (hx : x = _); refine Kept.cut (a := s₀) hx ?_ (fun hk' => ?_); rotate_left; clear hx; rotate_right)
    | ((try lift_lets -underBinder); intro x)
    | with_reducible apply State.lsRead_kept
    | with_reducible apply State.rsRead_kept
    | with_reducible apply State.pageRead_kept
    | (with_reducible apply Kept.of_eq2; with_reducible assumption)
    | (with_reducible apply Kept.of_eq3; with_reducible assumption)
    | (with_reducible apply Kept.of_eq4; with_reducible assumption)
    | with_reducible apply Kept.foldl
    | with_reducible apply Kept.foldl₁
    | with_reducible apply Kept.foldl₂
    | with_reducible apply Kept.foldl₃
    | exact id
    | exact List.Subset.refl _
    | split
    | dsimp +zetaDelta -zeta only
    | with_reducible apply Kept.frame
    | intro _
    | dsimp only

theorem State.regionRead_kept {s₀ s : State} {e : OpEnv} {o : OpRec} {ps : Places} {g : Region} {p0 : List (Nat × Nat)} (hk : Kept s₀ s) : Kept s₀ ((State.regionRead s e o ps g p0).2) := by
  induction p0 generalizing s with
  | nil =>
    unfold State.regionRead
    repeat' first
      | with_reducible assumption
      | ((try lift_lets -underBinder); intro x; clear_value (hx : x = _); refine Kept.cut (a := s₀) hx ?_ (fun hk' => ?_); rotate_left; clear hx; rotate_right)
      | ((try lift_lets -underBinder); intro x)
      | with_reducible apply State.spanRead_kept
      | (with_reducible apply Kept.of_eq2; with_reducible assumption)
      | (with_reducible apply Kept.of_eq3; with_reducible assumption)
      | (with_reducible apply Kept.of_eq4; with_reducible assumption)
      | with_reducible apply Kept.foldl
      | with_reducible apply Kept.foldl₁
      | with_reducible apply Kept.foldl₂
      | with_reducible apply Kept.foldl₃
      | exact id
      | exact List.Subset.refl _
      | split
      | dsimp +zetaDelta -zeta only
      | with_reducible apply Kept.frame
      | intro _
      | dsimp only
  | cons x xs ih =>
    unfold State.regionRead
    repeat' first
      | with_reducible assumption
      | ((try lift_lets -underBinder); intro x; clear_value (hx : x = _); refine Kept.cut (a := s₀) hx ?_ (fun hk' => ?_); rotate_left; clear hx; rotate_right)
      | ((try lift_lets -underBinder); intro x)
      | with_reducible apply ih
      | with_reducible apply State.spanRead_kept
      | (with_reducible apply Kept.of_eq2; with_reducible assumption)
      | (with_reducible apply Kept.of_eq3; with_reducible assumption)
      | (with_reducible apply Kept.of_eq4; with_reducible assumption)
      | with_reducible apply Kept.foldl
      | with_reducible apply Kept.foldl₁
      | with_reducible apply Kept.foldl₂
      | with_reducible apply Kept.foldl₃
      | exact id
      | exact List.Subset.refl _
      | split
      | dsimp +zetaDelta -zeta only
      | with_reducible apply Kept.frame
      | intro _
      | dsimp only

theorem State.readAll_kept {s₀ s : State} {e : OpEnv} {o : OpRec} {ps : Places} {g : Region} (hk : Kept s₀ s) : Kept s₀ ((State.readAll s e o ps g).2) := by
  unfold State.readAll
  repeat' first
    | with_reducible assumption
    | ((try lift_lets -underBinder); intro x; clear_value (hx : x = _); refine Kept.cut (a := s₀) hx ?_ (fun hk' => ?_); rotate_left; clear hx; rotate_right)
    | ((try lift_lets -underBinder); intro x)
    | with_reducible apply State.regionRead_kept
    | (with_reducible apply Kept.of_eq2; with_reducible assumption)
    | (with_reducible apply Kept.of_eq3; with_reducible assumption)
    | (with_reducible apply Kept.of_eq4; with_reducible assumption)
    | with_reducible apply Kept.foldl
    | with_reducible apply Kept.foldl₁
    | with_reducible apply Kept.foldl₂
    | with_reducible apply Kept.foldl₃
    | exact id
    | exact List.Subset.refl _
    | split
    | dsimp +zetaDelta -zeta only
    | with_reducible apply Kept.frame
    | intro _
    | dsimp only

theorem State.pageWrite_kept {s₀ s : State} {e : OpEnv} {o : OpRec} {ps : Places} {va : Nat} {bs : List Byte} (hk : Kept s₀ s) : Kept s₀ ((State.pageWrite s e o ps va bs).2) := by
  unfold State.pageWrite
  repeat' first
    | with_reducible assumption
    | ((try lift_lets -underBinder); intro x; clear_value (hx : x = _); refine Kept.cut (a := s₀) hx ?_ (fun hk' => ?_); rotate_left; clear hx; rotate_right)
    | ((try lift_lets -underBinder); intro x)
    | with_reducible apply State.poisonForgotten_kept
    | with_reducible apply State.writeHere_kept
    | with_reducible apply State.sendLines_kept
    | with_reducible apply State.setOp_kept
    | with_reducible apply State.askDma_kept
    | (with_reducible apply Kept.of_eq2; with_reducible assumption)
    | (with_reducible apply Kept.of_eq3; with_reducible assumption)
    | (with_reducible apply Kept.of_eq4; with_reducible assumption)
    | with_reducible apply Kept.foldl
    | with_reducible apply Kept.foldl₁
    | with_reducible apply Kept.foldl₂
    | with_reducible apply Kept.foldl₃
    | exact id
    | exact List.Subset.refl _
    | split
    | dsimp +zetaDelta -zeta only
    | with_reducible apply Kept.frame
    | intro _
    | dsimp only

theorem State.spanWrite_kept {s₀ s : State} {e : OpEnv} {o : OpRec} {ps : Places} {g : Region} {a : Nat} {bs : List Byte} {from? : Option Nat} (hk : Kept s₀ s) : Kept s₀ ((State.spanWrite s e o ps g a bs from?).2) := by
  unfold State.spanWrite
  repeat' first
    | with_reducible assumption
    | ((try lift_lets -underBinder); intro x; clear_value (hx : x = _); refine Kept.cut (a := s₀) hx ?_ (fun hk' => ?_); rotate_left; clear hx; rotate_right)
    | ((try lift_lets -underBinder); intro x)
    | with_reducible apply State.lsWrite_kept
    | with_reducible apply State.rsWrite_kept
    | with_reducible apply State.pageWrite_kept
    | (with_reducible apply Kept.of_eq2; with_reducible assumption)
    | (with_reducible apply Kept.of_eq3; with_reducible assumption)
    | (with_reducible apply Kept.of_eq4; with_reducible assumption)
    | with_reducible apply Kept.foldl
    | with_reducible apply Kept.foldl₁
    | with_reducible apply Kept.foldl₂
    | with_reducible apply Kept.foldl₃
    | exact id
    | exact List.Subset.refl _
    | split
    | dsimp +zetaDelta -zeta only
    | with_reducible apply Kept.frame
    | intro _
    | dsimp only

theorem State.regionWrite_kept {s₀ s : State} {e : OpEnv} {o : OpRec} {ps : Places} {g : Region} {xs : List ((Nat × Nat) × List Byte)} {from? : Option Nat} (hk : Kept s₀ s) : Kept s₀ ((State.regionWrite s e o ps g xs from?).2) := by
  unfold State.regionWrite
  repeat' first
    | with_reducible assumption
    | ((try lift_lets -underBinder); intro x; clear_value (hx : x = _); refine Kept.cut (a := s₀) hx ?_ (fun hk' => ?_); rotate_left; clear hx; rotate_right)
    | ((try lift_lets -underBinder); intro x)
    | with_reducible apply State.spanWrite_kept
    | (with_reducible apply Kept.of_eq2; with_reducible assumption)
    | (with_reducible apply Kept.of_eq3; with_reducible assumption)
    | (with_reducible apply Kept.of_eq4; with_reducible assumption)
    | with_reducible apply Kept.foldl
    | with_reducible apply Kept.foldl₁
    | with_reducible apply Kept.foldl₂
    | with_reducible apply Kept.foldl₃
    | exact id
    | exact List.Subset.refl _
    | split
    | dsimp +zetaDelta -zeta only
    | with_reducible apply Kept.frame
    | intro _
    | dsimp only

theorem State.putCodes_kept {s₀ s : State} {e : OpEnv} {o : OpRec} {ps : Places} {t : Tensor} {i c : Nat} {codes : List Nat} {from? : Option Nat} (hk : Kept s₀ s) : Kept s₀ ((State.putCodes s e o ps t i c codes from?).2) := by
  unfold State.putCodes
  repeat' first
    | with_reducible assumption
    | ((try lift_lets -underBinder); intro x; clear_value (hx : x = _); refine Kept.cut (a := s₀) hx ?_ (fun hk' => ?_); rotate_left; clear hx; rotate_right)
    | ((try lift_lets -underBinder); intro x)
    | with_reducible apply State.spanRead_kept
    | with_reducible apply State.spanWrite_kept
    | (with_reducible apply Kept.of_eq2; with_reducible assumption)
    | (with_reducible apply Kept.of_eq3; with_reducible assumption)
    | (with_reducible apply Kept.of_eq4; with_reducible assumption)
    | with_reducible apply Kept.foldl
    | with_reducible apply Kept.foldl₁
    | with_reducible apply Kept.foldl₂
    | with_reducible apply Kept.foldl₃
    | exact id
    | exact List.Subset.refl _
    | split
    | dsimp +zetaDelta -zeta only
    | with_reducible apply Kept.frame
    | intro _
    | dsimp only

end Sys2Proof.Machine
end

