-- ==== Sys2Proof/Laws/KeptOpCompute.lean ====
section
/-! SUPPORT. What the operations of Machine/OpCompute.lean keep (Laws/Kept.lean). -/

set_option maxRecDepth 8000
set_option Elab.async false

namespace Sys2Proof.Machine

theorem State.check_kept {s₀ s : State} {e : OpEnv} {o : OpRec} {tiles : List Tile} {reads writes : List Region} (hk : Kept s₀ s) : Kept s₀ ((State.check s e o tiles reads writes).2) := by
  unfold State.check
  repeat' first
    | with_reducible assumption
    | ((try lift_lets -underBinder); intro x; clear_value (hx : x = _); refine Kept.cut (a := s₀) hx ?_ (fun hk' => ?_); rotate_left; clear hx; rotate_right)
    | ((try lift_lets -underBinder); intro x)
    | with_reducible apply State.setOp_kept
    | with_reducible apply State.checkAccess_kept
    | (with_reducible apply Kept.of_eq2; with_reducible assumption)
    | (with_reducible apply Kept.of_eq3; with_reducible assumption)
    | (with_reducible apply Kept.of_eq4; with_reducible assumption)
    | with_reducible apply Kept.foldl
    | with_reducible apply Kept.foldl₁
    | with_reducible apply Kept.foldl₂
    | with_reducible apply Kept.foldl₃
    | exact id
    | exact List.Subset.refl _
    | split
    | dsimp +zetaDelta -zeta only
    | with_reducible apply Kept.frame
    | intro _
    | dsimp only

theorem State.begin_kept {s₀ s : State} {e : OpEnv} {o : OpRec} {first : Bool} {tiles : List Tile} {reads writes : List Region} (hk : Kept s₀ s) : Kept s₀ ((State.begin s e o first tiles reads writes).2) := by
  unfold State.begin
  repeat' first
    | with_reducible assumption
    | ((try lift_lets -underBinder); intro x; clear_value (hx : x = _); refine Kept.cut (a := s₀) hx ?_ (fun hk' => ?_); rotate_left; clear hx; rotate_right)
    | ((try lift_lets -underBinder); intro x)
    | with_reducible apply State.prepare_kept
    | with_reducible apply State.check_kept
    | (with_reducible apply Kept.of_eq2; with_reducible assumption)
    | (with_reducible apply Kept.of_eq3; with_reducible assumption)
    | (with_reducible apply Kept.of_eq4; with_reducible assumption)
    | with_reducible apply Kept.foldl
    | with_reducible apply Kept.foldl₁
    | with_reducible apply Kept.foldl₂
    | with_reducible apply Kept.foldl₃
    | exact id
    | exact List.Subset.refl _
    | split
    | dsimp +zetaDelta -zeta only
    | with_reducible apply Kept.frame
    | intro _
    | dsimp only

theorem State.readRow_kept {s₀ s : State} {e : OpEnv} {o : OpRec} {ps : Places} {t : Tensor} {i c n : Nat} (hk : Kept s₀ s) : Kept s₀ ((State.readRow s e o ps t i c n).2) := by
  unfold State.readRow
  repeat' first
    | with_reducible assumption
    | ((try lift_lets -underBinder); intro x; clear_value (hx : x = _); refine Kept.cut (a := s₀) hx ?_ (fun hk' => ?_); rotate_left; clear hx; rotate_right)
    | ((try lift_lets -underBinder); intro x)
    | with_reducible apply State.readAll_kept
    | (with_reducible apply Kept.of_eq2; with_reducible assumption)
    | (with_reducible apply Kept.of_eq3; with_reducible assumption)
    | (with_reducible apply Kept.of_eq4; with_reducible assumption)
    | with_reducible apply Kept.foldl
    | with_reducible apply Kept.foldl₁
    | with_reducible apply Kept.foldl₂
    | with_reducible apply Kept.foldl₃
    | exact id
    | exact List.Subset.refl _
    | split
    | dsimp +zetaDelta -zeta only
    | with_reducible apply Kept.frame
    | intro _
    | dsimp only

theorem State.readRows_kept {s₀ s : State} {e : OpEnv} {o : OpRec} {ps : Places} {t : Tensor} {c n : Nat} {p0 : List Nat} (hk : Kept s₀ s) : Kept s₀ ((State.readRows s e o ps t c n p0).2) := by
  induction p0 generalizing s with
  | nil =>
    unfold State.readRows
    repeat' first
      | with_reducible assumption
      | ((try lift_lets -underBinder); intro x; clear_value (hx : x = _); refine Kept.cut (a := s₀) hx ?_ (fun hk' => ?_); rotate_left; clear hx; rotate_right)
      | ((try lift_lets -underBinder); intro x)
      | with_reducible apply State.readRow_kept
      | (with_reducible apply Kept.of_eq2; with_reducible assumption)
      | (with_reducible apply Kept.of_eq3; with_reducible assumption)
      | (with_reducible apply Kept.of_eq4; with_reducible assumption)
      | with_reducible apply Kept.foldl
      | with_reducible apply Kept.foldl₁
      | with_reducible apply Kept.foldl₂
      | with_reducible apply Kept.foldl₃
      | exact id
      | exact List.Subset.refl _
      | split
      | dsimp +zetaDelta -zeta only
      | with_reducible apply Kept.frame
      | intro _
      | dsimp only
  | cons x xs ih =>
    unfold State.readRows
    repeat' first
      | with_reducible assumption
      | ((try lift_lets -underBinder); intro x; clear_value (hx : x = _); refine Kept.cut (a := s₀) hx ?_ (fun hk' => ?_); rotate_left; clear hx; rotate_right)
      | ((try lift_lets -underBinder); intro x)
      | with_reducible apply ih
      | with_reducible apply State.readRow_kept
      | (with_reducible apply Kept.of_eq2; with_reducible assumption)
      | (with_reducible apply Kept.of_eq3; with_reducible assumption)
      | (with_reducible apply Kept.of_eq4; with_reducible assumption)
      | with_reducible apply Kept.foldl
      | with_reducible apply Kept.foldl₁
      | with_reducible apply Kept.foldl₂
      | with_reducible apply Kept.foldl₃
      | exact id
      | exact List.Subset.refl _
      | split
      | dsimp +zetaDelta -zeta only
      | with_reducible apply Kept.frame
      | intro _
      | dsimp only

theorem State.writeRow_kept {s₀ s : State} {e : OpEnv} {o : OpRec} {ps : Places} {t : Tensor} {i c : Nat} {d : RowData} {from? : Option Nat} (hk : Kept s₀ s) : Kept s₀ ((State.writeRow s e o ps t i c d from?).2) := by
  unfold State.writeRow
  repeat' first
    | with_reducible assumption
    | ((try lift_lets -underBinder); intro x; clear_value (hx : x = _); refine Kept.cut (a := s₀) hx ?_ (fun hk' => ?_); rotate_left; clear hx; rotate_right)
    | ((try lift_lets -underBinder); intro x)
    | with_reducible apply State.spanWrite_kept
    | with_reducible apply State.putCodes_kept
    | (with_reducible apply Kept.of_eq2; with_reducible assumption)
    | (with_reducible apply Kept.of_eq3; with_reducible assumption)
    | (with_reducible apply Kept.of_eq4; with_reducible assumption)
    | with_reducible apply Kept.foldl
    | with_reducible apply Kept.foldl₁
    | with_reducible apply Kept.foldl₂
    | with_reducible apply Kept.foldl₃
    | exact id
    | exact List.Subset.refl _
    | split
    | dsimp +zetaDelta -zeta only
    | with_reducible apply Kept.frame
    | intro _
    | dsimp only

theorem State.writeRows_kept {s₀ s : State} {e : OpEnv} {o : OpRec} {ps : Places} {t : Tensor} {c : Nat} {p0 : List (Nat × RowData)} (hk : Kept s₀ s) : Kept s₀ ((State.writeRows s e o ps t c p0).2) := by
  induction p0 generalizing s with
  | nil =>
    unfold State.writeRows
    repeat' first
      | with_reducible assumption
      | ((try lift_lets -underBinder); intro x; clear_value (hx : x = _); refine Kept.cut (a := s₀) hx ?_ (fun hk' => ?_); rotate_left; clear hx; rotate_right)
      | ((try lift_lets -underBinder); intro x)
      | with_reducible apply State.writeRow_kept
      | (with_reducible apply Kept.of_eq2; with_reducible assumption)
      | (with_reducible apply Kept.of_eq3; with_reducible assumption)
      | (with_reducible apply Kept.of_eq4; with_reducible assumption)
      | with_reducible apply Kept.foldl
      | with_reducible apply Kept.foldl₁
      | with_reducible apply Kept.foldl₂
      | with_reducible apply Kept.foldl₃
      | exact id
      | exact List.Subset.refl _
      | split
      | dsimp +zetaDelta -zeta only
      | with_reducible apply Kept.frame
      | intro _
      | dsimp only
  | cons x xs ih =>
    unfold State.writeRows
    repeat' first
      | with_reducible assumption
      | ((try lift_lets -underBinder); intro x; clear_value (hx : x = _); refine Kept.cut (a := s₀) hx ?_ (fun hk' => ?_); rotate_left; clear hx; rotate_right)
      | ((try lift_lets -underBinder); intro x)
      | with_reducible apply ih
      | with_reducible apply State.writeRow_kept
      | (with_reducible apply Kept.of_eq2; with_reducible assumption)
      | (with_reducible apply Kept.of_eq3; with_reducible assumption)
      | (with_reducible apply Kept.of_eq4; with_reducible assumption)
      | with_reducible apply Kept.foldl
      | with_reducible apply Kept.foldl₁
      | with_reducible apply Kept.foldl₂
      | with_reducible apply Kept.foldl₃
      | exact id
      | exact List.Subset.refl _
      | split
      | dsimp +zetaDelta -zeta only
      | with_reducible apply Kept.frame
      | intro _
      | dsimp only

theorem State.onKernel_kept {s₀ s : State} {c : Nat} {f : Kernel → Kernel} (hk : Kept s₀ s) : Kept s₀ ((State.onKernel s c f)) := by
  unfold State.onKernel
  repeat' first
    | with_reducible assumption
    | ((try lift_lets -underBinder); intro x; clear_value (hx : x = _); refine Kept.cut (a := s₀) hx ?_ (fun hk' => ?_); rotate_left; clear hx; rotate_right)
    | ((try lift_lets -underBinder); intro x)
    | with_reducible apply State.setCtx_kept
    | (with_reducible apply Kept.of_eq2; with_reducible assumption)
    | (with_reducible apply Kept.of_eq3; with_reducible assumption)
    | (with_reducible apply Kept.of_eq4; with_reducible assumption)
    | with_reducible apply Kept.foldl
    | with_reducible apply Kept.foldl₁
    | with_reducible apply Kept.foldl₂
    | with_reducible apply Kept.foldl₃
    | exact id
    | exact List.Subset.refl _
    | split
    | dsimp +zetaDelta -zeta only
    | with_reducible apply Kept.frame
    | intro _
    | dsimp only

theorem State.raiseOnce_kept {s₀ s : State} {e : OpEnv} {family : Nat} (hk : Kept s₀ s) : Kept s₀ ((State.raiseOnce s e family)) := by
  unfold State.raiseOnce
  repeat' first
    | with_reducible assumption
    | ((try lift_lets -underBinder); intro x; clear_value (hx : x = _); refine Kept.cut (a := s₀) hx ?_ (fun hk' => ?_); rotate_left; clear hx; rotate_right)
    | ((try lift_lets -underBinder); intro x)
    | with_reducible apply State.report_kept
    | with_reducible apply State.onKernel_kept
    | (with_reducible apply Kept.of_eq2; with_reducible assumption)
    | (with_reducible apply Kept.of_eq3; with_reducible assumption)
    | (with_reducible apply Kept.of_eq4; with_reducible assumption)
    | with_reducible apply Kept.foldl
    | with_reducible apply Kept.foldl₁
    | with_reducible apply Kept.foldl₂
    | with_reducible apply Kept.foldl₃
    | exact id
    | exact List.Subset.refl _
    | split
    | dsimp +zetaDelta -zeta only
    | with_reducible apply Kept.frame
    | intro _
    | dsimp only

theorem State.countEvent_kept {s₀ s : State} {e : OpEnv} {f wrap : Field} {n : Nat} {event : Option (Field × Nat)} (hk : Kept s₀ s) : Kept s₀ ((State.countEvent s e f wrap n event)) := by
  unfold State.countEvent
  repeat' first
    | with_reducible assumption
    | ((try lift_lets -underBinder); intro x; clear_value (hx : x = _); refine Kept.cut (a := s₀) hx ?_ (fun hk' => ?_); rotate_left; clear hx; rotate_right)
    | ((try lift_lets -underBinder); intro x)
    | with_reducible apply State.count_kept
    | with_reducible apply State.raiseOnce_kept
    | (with_reducible apply Kept.of_eq2; with_reducible assumption)
    | (with_reducible apply Kept.of_eq3; with_reducible assumption)
    | (with_reducible apply Kept.of_eq4; with_reducible assumption)
    | with_reducible apply Kept.foldl
    | with_reducible apply Kept.foldl₁
    | with_reducible apply Kept.foldl₂
    | with_reducible apply Kept.foldl₃
    | exact id
    | exact List.Subset.refl _
    | split
    | dsimp +zetaDelta -zeta only
    | with_reducible apply Kept.frame
    | intro _
    | dsimp only

theorem State.countDecodes_kept {s₀ s : State} {e : OpEnv} {d : Decodes} (hk : Kept s₀ s) : Kept s₀ ((State.countDecodes s e d)) := by
  unfold State.countDecodes
  repeat' first
    | with_reducible assumption
    | ((try lift_lets -underBinder); intro x; clear_value (hx : x = _); refine Kept.cut (a := s₀) hx ?_ (fun hk' => ?_); rotate_left; clear hx; rotate_right)
    | ((try lift_lets -underBinder); intro x)
    | with_reducible apply State.countEvent_kept
    | (with_reducible apply Kept.of_eq2; with_reducible assumption)
    | (with_reducible apply Kept.of_eq3; with_reducible assumption)
    | (with_reducible apply Kept.of_eq4; with_reducible assumption)
    | with_reducible apply Kept.foldl
    | with_reducible apply Kept.foldl₁
    | with_reducible apply Kept.foldl₂
    | with_reducible apply Kept.foldl₃
    | exact id
    | exact List.Subset.refl _
    | split
    | dsimp +zetaDelta -zeta only
    | with_reducible apply Kept.frame
    | intro _
    | dsimp only

theorem State.countMuTerms_kept {s₀ s : State} {e : OpEnv} {t : TermCounts} (hk : Kept s₀ s) : Kept s₀ ((State.countMuTerms s e t)) := by
  unfold State.countMuTerms
  repeat' first
    | with_reducible assumption
    | ((try lift_lets -underBinder); intro x; clear_value (hx : x = _); refine Kept.cut (a := s₀) hx ?_ (fun hk' => ?_); rotate_left; clear hx; rotate_right)
    | ((try lift_lets -underBinder); intro x)
    | with_reducible apply State.setBits_kept
    | with_reducible apply State.countEvent_kept
    | (with_reducible apply Kept.of_eq2; with_reducible assumption)
    | (with_reducible apply Kept.of_eq3; with_reducible assumption)
    | (with_reducible apply Kept.of_eq4; with_reducible assumption)
    | with_reducible apply Kept.foldl
    | with_reducible apply Kept.foldl₁
    | with_reducible apply Kept.foldl₂
    | with_reducible apply Kept.foldl₃
    | exact id
    | exact List.Subset.refl _
    | split
    | dsimp +zetaDelta -zeta only
    | with_reducible apply Kept.frame
    | intro _
    | dsimp only

theorem State.countVuTerms_kept {s₀ s : State} {e : OpEnv} {t : TermCounts} (hk : Kept s₀ s) : Kept s₀ ((State.countVuTerms s e t)) := by
  unfold State.countVuTerms
  repeat' first
    | with_reducible assumption
    | ((try lift_lets -underBinder); intro x; clear_value (hx : x = _); refine Kept.cut (a := s₀) hx ?_ (fun hk' => ?_); rotate_left; clear hx; rotate_right)
    | ((try lift_lets -underBinder); intro x)
    | with_reducible apply State.setBits_kept
    | with_reducible apply State.countEvent_kept
    | (with_reducible apply Kept.of_eq2; with_reducible assumption)
    | (with_reducible apply Kept.of_eq3; with_reducible assumption)
    | (with_reducible apply Kept.of_eq4; with_reducible assumption)
    | with_reducible apply Kept.foldl
    | with_reducible apply Kept.foldl₁
    | with_reducible apply Kept.foldl₂
    | with_reducible apply Kept.foldl₃
    | exact id
    | exact List.Subset.refl _
    | split
    | dsimp +zetaDelta -zeta only
    | with_reducible apply Kept.frame
    | intro _
    | dsimp only

theorem State.closeWindow_kept {s₀ s : State} {core slot site : Nat} (hk : Kept s₀ s) : Kept s₀ ((State.closeWindow s core slot site)) := by
  unfold State.closeWindow
  repeat' first
    | with_reducible assumption
    | ((try lift_lets -underBinder); intro x; clear_value (hx : x = _); refine Kept.cut (a := s₀) hx ?_ (fun hk' => ?_); rotate_left; clear hx; rotate_right)
    | ((try lift_lets -underBinder); intro x)
    | with_reducible apply State.set_kept
    | with_reducible apply State.report_kept
    | with_reducible apply State.setShard_kept
    | (with_reducible apply Kept.of_eq2; with_reducible assumption)
    | (with_reducible apply Kept.of_eq3; with_reducible assumption)
    | (with_reducible apply Kept.of_eq4; with_reducible assumption)
    | with_reducible apply Kept.foldl
    | with_reducible apply Kept.foldl₁
    | with_reducible apply Kept.foldl₂
    | with_reducible apply Kept.foldl₃
    | exact id
    | exact List.Subset.refl _
    | split
    | dsimp +zetaDelta -zeta only
    | with_reducible apply Kept.frame
    | intro _
    | dsimp only

theorem State.monitor_kept {s₀ s : State} {e : OpEnv} {clips : List Bool} (hk : Kept s₀ s) : Kept s₀ ((State.monitor s e clips)) := by
  unfold State.monitor
  repeat' first
    | with_reducible assumption
    | ((try lift_lets -underBinder); intro x; clear_value (hx : x = _); refine Kept.cut (a := s₀) hx ?_ (fun hk' => ?_); rotate_left; clear hx; rotate_right)
    | ((try lift_lets -underBinder); intro x)
    | with_reducible apply State.setShard_kept
    | with_reducible apply State.closeWindow_kept
    | (with_reducible apply Kept.of_eq2; with_reducible assumption)
    | (with_reducible apply Kept.of_eq3; with_reducible assumption)
    | (with_reducible apply Kept.of_eq4; with_reducible assumption)
    | with_reducible apply Kept.foldl
    | with_reducible apply Kept.foldl₁
    | with_reducible apply Kept.foldl₂
    | with_reducible apply Kept.foldl₃
    | exact id
    | exact List.Subset.refl _
    | split
    | dsimp +zetaDelta -zeta only
    | with_reducible apply Kept.frame
    | intro _
    | dsimp only

theorem State.countConv_kept {s₀ s : State} {e : OpEnv} {counts : Bool} {cs : List Conv} {blocks : Nat} (hk : Kept s₀ s) : Kept s₀ ((State.countConv s e counts cs blocks)) := by
  unfold State.countConv
  repeat' first
    | with_reducible assumption
    | ((try lift_lets -underBinder); intro x; clear_value (hx : x = _); refine Kept.cut (a := s₀) hx ?_ (fun hk' => ?_); rotate_left; clear hx; rotate_right)
    | ((try lift_lets -underBinder); intro x)
    | with_reducible apply State.countEvent_kept
    | with_reducible apply State.monitor_kept
    | (with_reducible apply Kept.of_eq2; with_reducible assumption)
    | (with_reducible apply Kept.of_eq3; with_reducible assumption)
    | (with_reducible apply Kept.of_eq4; with_reducible assumption)
    | with_reducible apply Kept.foldl
    | with_reducible apply Kept.foldl₁
    | with_reducible apply Kept.foldl₂
    | with_reducible apply Kept.foldl₃
    | exact id
    | exact List.Subset.refl _
    | split
    | dsimp +zetaDelta -zeta only
    | with_reducible apply Kept.frame
    | intro _
    | dsimp only

theorem State.convertRow_kept {s₀ s : State} {e : OpEnv} {src : Tensor} {c : Nat} {d : RowData} {dst : Tensor} {cvt anchor : Nat} (hk : Kept s₀ s) : Kept s₀ ((State.convertRow s e src c d dst cvt anchor).2) := by
  unfold State.convertRow
  repeat' first
    | with_reducible assumption
    | ((try lift_lets -underBinder); intro x; clear_value (hx : x = _); refine Kept.cut (a := s₀) hx ?_ (fun hk' => ?_); rotate_left; clear hx; rotate_right)
    | ((try lift_lets -underBinder); intro x)
    | with_reducible apply State.countConv_kept
    | (with_reducible apply Kept.of_eq2; with_reducible assumption)
    | (with_reducible apply Kept.of_eq3; with_reducible assumption)
    | (with_reducible apply Kept.of_eq4; with_reducible assumption)
    | with_reducible apply Kept.foldl
    | with_reducible apply Kept.foldl₁
    | with_reducible apply Kept.foldl₂
    | with_reducible apply Kept.foldl₃
    | exact id
    | exact List.Subset.refl _
    | split
    | dsimp +zetaDelta -zeta only
    | with_reducible apply Kept.frame
    | intro _
    | dsimp only

theorem State.settleBacks_kept {s₀ s : State} {e : OpEnv} {off : Nat} (hk : Kept s₀ s) : Kept s₀ ((State.settleBacks s e off)) := by
  unfold State.settleBacks
  repeat' first
    | with_reducible assumption
    | ((try lift_lets -underBinder); intro x; clear_value (hx : x = _); refine Kept.cut (a := s₀) hx ?_ (fun hk' => ?_); rotate_left; clear hx; rotate_right)
    | ((try lift_lets -underBinder); intro x)
    | with_reducible apply State.lsWrite_kept
    | with_reducible apply State.setOp_kept
    | (with_reducible apply Kept.of_eq2; with_reducible assumption)
    | (with_reducible apply Kept.of_eq3; with_reducible assumption)
    | (with_reducible apply Kept.of_eq4; with_reducible assumption)
    | with_reducible apply Kept.foldl
    | with_reducible apply Kept.foldl₁
    | with_reducible apply Kept.foldl₂
    | with_reducible apply Kept.foldl₃
    | exact id
    | exact List.Subset.refl _
    | split
    | dsimp +zetaDelta -zeta only
    | with_reducible apply Kept.frame
    | intro _
    | dsimp only

theorem State.accRead_kept {s₀ s : State} {e : OpEnv} {off n : Nat} (hk : Kept s₀ s) : Kept s₀ ((State.accRead s e off n).2) := by
  unfold State.accRead
  repeat' first
    | with_reducible assumption
    | ((try lift_lets -underBinder); intro x; clear_value (hx : x = _); refine Kept.cut (a := s₀) hx ?_ (fun hk' => ?_); rotate_left; clear hx; rotate_right)
    | ((try lift_lets -underBinder); intro x)
    | with_reducible apply State.lsRead_kept
    | with_reducible apply State.settleBacks_kept
    | (with_reducible apply Kept.of_eq2; with_reducible assumption)
    | (with_reducible apply Kept.of_eq3; with_reducible assumption)
    | (with_reducible apply Kept.of_eq4; with_reducible assumption)
    | with_reducible apply Kept.foldl
    | with_reducible apply Kept.foldl₁
    | with_reducible apply Kept.foldl₂
    | with_reducible apply Kept.foldl₃
    | exact id
    | exact List.Subset.refl _
    | split
    | dsimp +zetaDelta -zeta only
    | with_reducible apply Kept.frame
    | intro _
    | dsimp only

theorem State.openTile_kept {s₀ s : State} {e : OpEnv} {accumulate : Bool} {off : Nat} {h : AccHead} (hk : Kept s₀ s) : Kept s₀ ((State.openTile s e accumulate off h).2) := by
  unfold State.openTile
  repeat' first
    | with_reducible assumption
    | ((try lift_lets -underBinder); intro x; clear_value (hx : x = _); refine Kept.cut (a := s₀) hx ?_ (fun hk' => ?_); rotate_left; clear hx; rotate_right)
    | ((try lift_lets -underBinder); intro x)
    | with_reducible apply State.accRead_kept
    | (with_reducible apply Kept.of_eq2; with_reducible assumption)
    | (with_reducible apply Kept.of_eq3; with_reducible assumption)
    | (with_reducible apply Kept.of_eq4; with_reducible assumption)
    | with_reducible apply Kept.foldl
    | with_reducible apply Kept.foldl₁
    | with_reducible apply Kept.foldl₂
    | with_reducible apply Kept.foldl₃
    | exact id
    | exact List.Subset.refl _
    | split
    | dsimp +zetaDelta -zeta only
    | with_reducible apply Kept.frame
    | intro _
    | dsimp only

theorem State.readOutliers_kept {s₀ s : State} {e : OpEnv} {o : OpRec} {ps : Places} {t : Tensor} {p0 : List (Nat × Nat)} (hk : Kept s₀ s) : Kept s₀ ((State.readOutliers s e o ps t p0).2) := by
  induction p0 generalizing s with
  | nil =>
    unfold State.readOutliers
    repeat' first
      | with_reducible assumption
      | ((try lift_lets -underBinder); intro x; clear_value (hx : x = _); refine Kept.cut (a := s₀) hx ?_ (fun hk' => ?_); rotate_left; clear hx; rotate_right)
      | ((try lift_lets -underBinder); intro x)
      | with_reducible apply State.spanRead_kept
      | (with_reducible apply Kept.of_eq2; with_reducible assumption)
      | (with_reducible apply Kept.of_eq3; with_reducible assumption)
      | (with_reducible apply Kept.of_eq4; with_reducible assumption)
      | with_reducible apply Kept.foldl
      | with_reducible apply Kept.foldl₁
      | with_reducible apply Kept.foldl₂
      | with_reducible apply Kept.foldl₃
      | exact id
      | exact List.Subset.refl _
      | split
      | dsimp +zetaDelta -zeta only
      | with_reducible apply Kept.frame
      | intro _
      | dsimp only
  | cons x xs ih =>
    unfold State.readOutliers
    repeat' first
      | with_reducible assumption
      | ((try lift_lets -underBinder); intro x; clear_value (hx : x = _); refine Kept.cut (a := s₀) hx ?_ (fun hk' => ?_); rotate_left; clear hx; rotate_right)
      | ((try lift_lets -underBinder); intro x)
      | with_reducible apply ih
      | with_reducible apply State.spanRead_kept
      | (with_reducible apply Kept.of_eq2; with_reducible assumption)
      | (with_reducible apply Kept.of_eq3; with_reducible assumption)
      | (with_reducible apply Kept.of_eq4; with_reducible assumption)
      | with_reducible apply Kept.foldl
      | with_reducible apply Kept.foldl₁
      | with_reducible apply Kept.foldl₂
      | with_reducible apply Kept.foldl₃
      | exact id
      | exact List.Subset.refl _
      | split
      | dsimp +zetaDelta -zeta only
      | with_reducible apply Kept.frame
      | intro _
      | dsimp only

theorem State.tileOutliers_kept {s₀ s : State} {e : OpEnv} {o : OpRec} {ps : Places} {t : Tensor} {r n c m : Nat} (hk : Kept s₀ s) : Kept s₀ ((State.tileOutliers s e o ps t r n c m).2) := by
  unfold State.tileOutliers
  repeat' first
    | with_reducible assumption
    | ((try lift_lets -underBinder); intro x; clear_value (hx : x = _); refine Kept.cut (a := s₀) hx ?_ (fun hk' => ?_); rotate_left; clear hx; rotate_right)
    | ((try lift_lets -underBinder); intro x)
    | with_reducible apply State.readOutliers_kept
    | (with_reducible apply Kept.of_eq2; with_reducible assumption)
    | (with_reducible apply Kept.of_eq3; with_reducible assumption)
    | (with_reducible apply Kept.of_eq4; with_reducible assumption)
    | with_reducible apply Kept.foldl
    | with_reducible apply Kept.foldl₁
    | with_reducible apply Kept.foldl₂
    | with_reducible apply Kept.foldl₃
    | exact id
    | exact List.Subset.refl _
    | split
    | dsimp +zetaDelta -zeta only
    | with_reducible apply Kept.frame
    | intro _
    | dsimp only

theorem State.noteSeals_kept {s₀ s : State} {e : OpEnv} {g : Region} (hk : Kept s₀ s) : Kept s₀ ((State.noteSeals s e g)) := by
  unfold State.noteSeals
  repeat' first
    | with_reducible assumption
    | ((try lift_lets -underBinder); intro x; clear_value (hx : x = _); refine Kept.cut (a := s₀) hx ?_ (fun hk' => ?_); rotate_left; clear hx; rotate_right)
    | ((try lift_lets -underBinder); intro x)
    | with_reducible apply State.onKernel_kept
    | (with_reducible apply Kept.of_eq2; with_reducible assumption)
    | (with_reducible apply Kept.of_eq3; with_reducible assumption)
    | (with_reducible apply Kept.of_eq4; with_reducible assumption)
    | with_reducible apply Kept.foldl
    | with_reducible apply Kept.foldl₁
    | with_reducible apply Kept.foldl₂
    | with_reducible apply Kept.foldl₃
    | exact id
    | exact List.Subset.refl _
    | split
    | dsimp +zetaDelta -zeta only
    | with_reducible apply Kept.frame
    | intro _
    | dsimp only

theorem State.doMatmul_kept {s₀ s : State} {e : OpEnv} {o : OpRec} {first : Bool} (hk : Kept s₀ s) : Kept s₀ ((State.doMatmul s e o first).2) := by
  unfold State.doMatmul
  repeat' first
    | with_reducible assumption
    | ((try lift_lets -underBinder); intro x; clear_value (hx : x = _); refine Kept.cut (a := s₀) hx ?_ (fun hk' => ?_); rotate_left; clear hx; rotate_right)
    | ((try lift_lets -underBinder); intro x)
    | with_reducible apply State.begin_kept
    | with_reducible apply State.readRows_kept
    | with_reducible apply State.countDecodes_kept
    | with_reducible apply State.countMuTerms_kept
    | with_reducible apply State.openTile_kept
    | with_reducible apply State.tileOutliers_kept
    | with_reducible apply State.noteSeals_kept
    | (with_reducible apply Kept.of_eq2; with_reducible assumption)
    | (with_reducible apply Kept.of_eq3; with_reducible assumption)
    | (with_reducible apply Kept.of_eq4; with_reducible assumption)
    | with_reducible apply Kept.foldl
    | with_reducible apply Kept.foldl₁
    | with_reducible apply Kept.foldl₂
    | with_reducible apply Kept.foldl₃
    | exact id
    | exact List.Subset.refl _
    | split
    | dsimp +zetaDelta -zeta only
    | with_reducible apply Kept.frame
    | intro _
    | dsimp only

theorem State.vecRows_kept {s₀ s : State} {e : OpEnv} {o : OpRec} {ps : Places} {c n : Nat} {yFixed : Option (List Num)} {p0 : List Nat} (hk : Kept s₀ s) : Kept s₀ ((State.vecRows s e o ps c n yFixed p0).2) := by
  induction p0 generalizing s with
  | nil =>
    unfold State.vecRows
    repeat' first
      | with_reducible assumption
      | ((try lift_lets -underBinder); intro x; clear_value (hx : x = _); refine Kept.cut (a := s₀) hx ?_ (fun hk' => ?_); rotate_left; clear hx; rotate_right)
      | ((try lift_lets -underBinder); intro x)
      | with_reducible apply State.readRow_kept
      | with_reducible apply State.writeRow_kept
      | (with_reducible apply Kept.of_eq2; with_reducible assumption)
      | (with_reducible apply Kept.of_eq3; with_reducible assumption)
      | (with_reducible apply Kept.of_eq4; with_reducible assumption)
      | with_reducible apply Kept.foldl
      | with_reducible apply Kept.foldl₁
      | with_reducible apply Kept.foldl₂
      | with_reducible apply Kept.foldl₃
      | exact id
      | exact List.Subset.refl _
      | split
      | dsimp +zetaDelta -zeta only
      | with_reducible apply Kept.frame
      | intro _
      | dsimp only
  | cons x xs ih =>
    unfold State.vecRows
    repeat' first
      | with_reducible assumption
      | ((try lift_lets -underBinder); intro x; clear_value (hx : x = _); refine Kept.cut (a := s₀) hx ?_ (fun hk' => ?_); rotate_left; clear hx; rotate_right)
      | ((try lift_lets -underBinder); intro x)
      | with_reducible apply ih
      | with_reducible apply State.readRow_kept
      | with_reducible apply State.writeRow_kept
      | (with_reducible apply Kept.of_eq2; with_reducible assumption)
      | (with_reducible apply Kept.of_eq3; with_reducible assumption)
      | (with_reducible apply Kept.of_eq4; with_reducible assumption)
      | with_reducible apply Kept.foldl
      | with_reducible apply Kept.foldl₁
      | with_reducible apply Kept.foldl₂
      | with_reducible apply Kept.foldl₃
      | exact id
      | exact List.Subset.refl _
      | split
      | dsimp +zetaDelta -zeta only
      | with_reducible apply Kept.frame
      | intro _
      | dsimp only

theorem State.doVec_kept {s₀ s : State} {e : OpEnv} {o : OpRec} {first : Bool} (hk : Kept s₀ s) : Kept s₀ ((State.doVec s e o first).2) := by
  unfold State.doVec
  repeat' first
    | with_reducible assumption
    | ((try lift_lets -underBinder); intro x; clear_value (hx : x = _); refine Kept.cut (a := s₀) hx ?_ (fun hk' => ?_); rotate_left; clear hx; rotate_right)
    | ((try lift_lets -underBinder); intro x)
    | with_reducible apply State.begin_kept
    | with_reducible apply State.readRow_kept
    | with_reducible apply State.vecRows_kept
    | (with_reducible apply Kept.of_eq2; with_reducible assumption)
    | (with_reducible apply Kept.of_eq3; with_reducible assumption)
    | (with_reducible apply Kept.of_eq4; with_reducible assumption)
    | with_reducible apply Kept.foldl
    | with_reducible apply Kept.foldl₁
    | with_reducible apply Kept.foldl₂
    | with_reducible apply Kept.foldl₃
    | exact id
    | exact List.Subset.refl _
    | split
    | dsimp +zetaDelta -zeta only
    | with_reducible apply Kept.frame
    | intro _
    | dsimp only

theorem State.extremeRows_kept {s₀ s : State} {e : OpEnv} {o : OpRec} {ps : Places} {c n dst : Nat} {p0 : List Nat} (hk : Kept s₀ s) : Kept s₀ ((State.extremeRows s e o ps c n dst p0).2) := by
  induction p0 generalizing s with
  | nil =>
    unfold State.extremeRows
    repeat' first
      | with_reducible assumption
      | ((try lift_lets -underBinder); intro x; clear_value (hx : x = _); refine Kept.cut (a := s₀) hx ?_ (fun hk' => ?_); rotate_left; clear hx; rotate_right)
      | ((try lift_lets -underBinder); intro x)
      | with_reducible apply State.readRow_kept
      | with_reducible apply State.writeRow_kept
      | (with_reducible apply Kept.of_eq2; with_reducible assumption)
      | (with_reducible apply Kept.of_eq3; with_reducible assumption)
      | (with_reducible apply Kept.of_eq4; with_reducible assumption)
      | with_reducible apply Kept.foldl
      | with_reducible apply Kept.foldl₁
      | with_reducible apply Kept.foldl₂
      | with_reducible apply Kept.foldl₃
      | exact id
      | exact List.Subset.refl _
      | split
      | dsimp +zetaDelta -zeta only
      | with_reducible apply Kept.frame
      | intro _
      | dsimp only
  | cons x xs ih =>
    unfold State.extremeRows
    repeat' first
      | with_reducible assumption
      | ((try lift_lets -underBinder); intro x; clear_value (hx : x = _); refine Kept.cut (a := s₀) hx ?_ (fun hk' => ?_); rotate_left; clear hx; rotate_right)
      | ((try lift_lets -underBinder); intro x)
      | with_reducible apply ih
      | with_reducible apply State.readRow_kept
      | with_reducible apply State.writeRow_kept
      | (with_reducible apply Kept.of_eq2; with_reducible assumption)
      | (with_reducible apply Kept.of_eq3; with_reducible assumption)
      | (with_reducible apply Kept.of_eq4; with_reducible assumption)
      | with_reducible apply Kept.foldl
      | with_reducible apply Kept.foldl₁
      | with_reducible apply Kept.foldl₂
      | with_reducible apply Kept.foldl₃
      | exact id
      | exact List.Subset.refl _
      | split
      | dsimp +zetaDelta -zeta only
      | with_reducible apply Kept.frame
      | intro _
      | dsimp only

theorem State.doVecReduce_kept {s₀ s : State} {e : OpEnv} {o : OpRec} {first : Bool} (hk : Kept s₀ s) : Kept s₀ ((State.doVecReduce s e o first).2) := by
  unfold State.doVecReduce
  repeat' first
    | with_reducible assumption
    | ((try lift_lets -underBinder); intro x; clear_value (hx : x = _); refine Kept.cut (a := s₀) hx ?_ (fun hk' => ?_); rotate_left; clear hx; rotate_right)
    | ((try lift_lets -underBinder); intro x)
    | with_reducible apply State.begin_kept
    | with_reducible apply State.readRows_kept
    | with_reducible apply State.countVuTerms_kept
    | with_reducible apply State.openTile_kept
    | with_reducible apply State.extremeRows_kept
    | (with_reducible apply Kept.of_eq2; with_reducible assumption)
    | (with_reducible apply Kept.of_eq3; with_reducible assumption)
    | (with_reducible apply Kept.of_eq4; with_reducible assumption)
    | with_reducible apply Kept.foldl
    | with_reducible apply Kept.foldl₁
    | with_reducible apply Kept.foldl₂
    | with_reducible apply Kept.foldl₃
    | exact id
    | exact List.Subset.refl _
    | split
    | dsimp +zetaDelta -zeta only
    | with_reducible apply Kept.frame
    | intro _
    | dsimp only

theorem State.convertRows_kept {s₀ s : State} {e : OpEnv} {o : OpRec} {ps : Places} {src dst : Tensor} {sc dc n anchor : Nat} {p0 : List (Nat × Nat)} (hk : Kept s₀ s) : Kept s₀ ((State.convertRows s e o ps src dst sc dc n anchor p0).2) := by
  induction p0 generalizing s with
  | nil =>
    unfold State.convertRows
    repeat' first
      | with_reducible assumption
      | ((try lift_lets -underBinder); intro x; clear_value (hx : x = _); refine Kept.cut (a := s₀) hx ?_ (fun hk' => ?_); rotate_left; clear hx; rotate_right)
      | ((try lift_lets -underBinder); intro x)
      | with_reducible apply State.readRow_kept
      | with_reducible apply State.writeRow_kept
      | with_reducible apply State.convertRow_kept
      | (with_reducible apply Kept.of_eq2; with_reducible assumption)
      | (with_reducible apply Kept.of_eq3; with_reducible assumption)
      | (with_reducible apply Kept.of_eq4; with_reducible assumption)
      | with_reducible apply Kept.foldl
      | with_reducible apply Kept.foldl₁
      | with_reducible apply Kept.foldl₂
      | with_reducible apply Kept.foldl₃
      | exact id
      | exact List.Subset.refl _
      | split
      | dsimp +zetaDelta -zeta only
      | with_reducible apply Kept.frame
      | intro _
      | dsimp only
  | cons x xs ih =>
    unfold State.convertRows
    repeat' first
      | with_reducible assumption
      | ((try lift_lets -underBinder); intro x; clear_value (hx : x = _); refine Kept.cut (a := s₀) hx ?_ (fun hk' => ?_); rotate_left; clear hx; rotate_right)
      | ((try lift_lets -underBinder); intro x)
      | with_reducible apply ih
      | with_reducible apply State.readRow_kept
      | with_reducible apply State.writeRow_kept
      | with_reducible apply State.convertRow_kept
      | (with_reducible apply Kept.of_eq2; with_reducible assumption)
      | (with_reducible apply Kept.of_eq3; with_reducible assumption)
      | (with_reducible apply Kept.of_eq4; with_reducible assumption)
      | with_reducible apply Kept.foldl
      | with_reducible apply Kept.foldl₁
      | with_reducible apply Kept.foldl₂
      | with_reducible apply Kept.foldl₃
      | exact id
      | exact List.Subset.refl _
      | split
      | dsimp +zetaDelta -zeta only
      | with_reducible apply Kept.frame
      | intro _
      | dsimp only

theorem State.readTiles_kept {s₀ s : State} {e : OpEnv} {off size : Nat} {h : AccHead} {p0 : List Nat} (hk : Kept s₀ s) : Kept s₀ ((State.readTiles s e off size h p0).2) := by
  induction p0 generalizing s with
  | nil =>
    unfold State.readTiles
    repeat' first
      | with_reducible assumption
      | ((try lift_lets -underBinder); intro x; clear_value (hx : x = _); refine Kept.cut (a := s₀) hx ?_ (fun hk' => ?_); rotate_left; clear hx; rotate_right)
      | ((try lift_lets -underBinder); intro x)
      | with_reducible apply State.lsRead_kept
      | (with_reducible apply Kept.of_eq2; with_reducible assumption)
      | (with_reducible apply Kept.of_eq3; with_reducible assumption)
      | (with_reducible apply Kept.of_eq4; with_reducible assumption)
      | with_reducible apply Kept.foldl
      | with_reducible apply Kept.foldl₁
      | with_reducible apply Kept.foldl₂
      | with_reducible apply Kept.foldl₃
      | exact id
      | exact List.Subset.refl _
      | split
      | dsimp +zetaDelta -zeta only
      | with_reducible apply Kept.frame
      | intro _
      | dsimp only
  | cons x xs ih =>
    unfold State.readTiles
    repeat' first
      | with_reducible assumption
      | ((try lift_lets -underBinder); intro x; clear_value (hx : x = _); refine Kept.cut (a := s₀) hx ?_ (fun hk' => ?_); rotate_left; clear hx; rotate_right)
      | ((try lift_lets -underBinder); intro x)
      | with_reducible apply ih
      | with_reducible apply State.lsRead_kept
      | (with_reducible apply Kept.of_eq2; with_reducible assumption)
      | (with_reducible apply Kept.of_eq3; with_reducible assumption)
      | (with_reducible apply Kept.of_eq4; with_reducible assumption)
      | with_reducible apply Kept.foldl
      | with_reducible apply Kept.foldl₁
      | with_reducible apply Kept.foldl₂
      | with_reducible apply Kept.foldl₃
      | exact id
      | exact List.Subset.refl _
      | split
      | dsimp +zetaDelta -zeta only
      | with_reducible apply Kept.frame
      | intro _
      | dsimp only

theorem State.tilesAt_kept {s₀ s : State} {e : OpEnv} {off count : Nat} (hk : Kept s₀ s) : Kept s₀ ((State.tilesAt s e off count).2) := by
  unfold State.tilesAt
  repeat' first
    | with_reducible assumption
    | ((try lift_lets -underBinder); intro x; clear_value (hx : x = _); refine Kept.cut (a := s₀) hx ?_ (fun hk' => ?_); rotate_left; clear hx; rotate_right)
    | ((try lift_lets -underBinder); intro x)
    | with_reducible apply State.count_kept
    | with_reducible apply State.lsRead_kept
    | with_reducible apply State.readTiles_kept
    | (with_reducible apply Kept.of_eq2; with_reducible assumption)
    | (with_reducible apply Kept.of_eq3; with_reducible assumption)
    | (with_reducible apply Kept.of_eq4; with_reducible assumption)
    | with_reducible apply Kept.foldl
    | with_reducible apply Kept.foldl₁
    | with_reducible apply Kept.foldl₂
    | with_reducible apply Kept.foldl₃
    | exact id
    | exact List.Subset.refl _
    | split
    | dsimp +zetaDelta -zeta only
    | with_reducible apply Kept.frame
    | intro _
    | dsimp only

theorem State.laneRowOut_kept {s₀ s : State} {e : OpEnv} {dst : Tensor} {cvt cols i : Nat} {ts : List (AccHead × List Lane)} (hk : Kept s₀ s) : Kept s₀ ((State.laneRowOut s e dst cvt cols i ts).2) := by
  unfold State.laneRowOut
  repeat' first
    | with_reducible assumption
    | ((try lift_lets -underBinder); intro x; clear_value (hx : x = _); refine Kept.cut (a := s₀) hx ?_ (fun hk' => ?_); rotate_left; clear hx; rotate_right)
    | ((try lift_lets -underBinder); intro x)
    | with_reducible apply State.countConv_kept
    | (with_reducible apply Kept.of_eq2; with_reducible assumption)
    | (with_reducible apply Kept.of_eq3; with_reducible assumption)
    | (with_reducible apply Kept.of_eq4; with_reducible assumption)
    | with_reducible apply Kept.foldl
    | with_reducible apply Kept.foldl₁
    | with_reducible apply Kept.foldl₂
    | with_reducible apply Kept.foldl₃
    | exact id
    | exact List.Subset.refl _
    | split
    | dsimp +zetaDelta -zeta only
    | with_reducible apply Kept.frame
    | intro _
    | dsimp only

theorem State.laneRows_kept {s₀ s : State} {e : OpEnv} {o : OpRec} {ps : Places} {dst : Tensor} {r c cols : Nat} {ts : List (AccHead × List Lane)} {p0 : List Nat} (hk : Kept s₀ s) : Kept s₀ ((State.laneRows s e o ps dst r c cols ts p0).2) := by
  induction p0 generalizing s with
  | nil =>
    unfold State.laneRows
    repeat' first
      | with_reducible assumption
      | ((try lift_lets -underBinder); intro x; clear_value (hx : x = _); refine Kept.cut (a := s₀) hx ?_ (fun hk' => ?_); rotate_left; clear hx; rotate_right)
      | ((try lift_lets -underBinder); intro x)
      | with_reducible apply State.writeRow_kept
      | with_reducible apply State.laneRowOut_kept
      | (with_reducible apply Kept.of_eq2; with_reducible assumption)
      | (with_reducible apply Kept.of_eq3; with_reducible assumption)
      | (with_reducible apply Kept.of_eq4; with_reducible assumption)
      | with_reducible apply Kept.foldl
      | with_reducible apply Kept.foldl₁
      | with_reducible apply Kept.foldl₂
      | with_reducible apply Kept.foldl₃
      | exact id
      | exact List.Subset.refl _
      | split
      | dsimp +zetaDelta -zeta only
      | with_reducible apply Kept.frame
      | intro _
      | dsimp only
  | cons x xs ih =>
    unfold State.laneRows
    repeat' first
      | with_reducible assumption
      | ((try lift_lets -underBinder); intro x; clear_value (hx : x = _); refine Kept.cut (a := s₀) hx ?_ (fun hk' => ?_); rotate_left; clear hx; rotate_right)
      | ((try lift_lets -underBinder); intro x)
      | with_reducible apply ih
      | with_reducible apply State.writeRow_kept
      | with_reducible apply State.laneRowOut_kept
      | (with_reducible apply Kept.of_eq2; with_reducible assumption)
      | (with_reducible apply Kept.of_eq3; with_reducible assumption)
      | (with_reducible apply Kept.of_eq4; with_reducible assumption)
      | with_reducible apply Kept.foldl
      | with_reducible apply Kept.foldl₁
      | with_reducible apply Kept.foldl₂
      | with_reducible apply Kept.foldl₃
      | exact id
      | exact List.Subset.refl _
      | split
      | dsimp +zetaDelta -zeta only
      | with_reducible apply Kept.frame
      | intro _
      | dsimp only

theorem State.doConvert_kept {s₀ s : State} {e : OpEnv} {o : OpRec} {first : Bool} (hk : Kept s₀ s) : Kept s₀ ((State.doConvert s e o first).2) := by
  unfold State.doConvert
  repeat' first
    | with_reducible assumption
    | ((try lift_lets -underBinder); intro x; clear_value (hx : x = _); refine Kept.cut (a := s₀) hx ?_ (fun hk' => ?_); rotate_left; clear hx; rotate_right)
    | ((try lift_lets -underBinder); intro x)
    | with_reducible apply State.begin_kept
    | with_reducible apply State.convertRows_kept
    | with_reducible apply State.tilesAt_kept
    | with_reducible apply State.laneRows_kept
    | (with_reducible apply Kept.of_eq2; with_reducible assumption)
    | (with_reducible apply Kept.of_eq3; with_reducible assumption)
    | (with_reducible apply Kept.of_eq4; with_reducible assumption)
    | with_reducible apply Kept.foldl
    | with_reducible apply Kept.foldl₁
    | with_reducible apply Kept.foldl₂
    | with_reducible apply Kept.foldl₃
    | exact id
    | exact List.Subset.refl _
    | split
    | dsimp +zetaDelta -zeta only
    | with_reducible apply Kept.frame
    | intro _
    | dsimp only

theorem State.attnRow_kept {s₀ s : State} {e : OpEnv} {d : List Byte} {q : RowData} {keys : List (RowData × List Outlier)} {vals : List RowData} {start n : Nat} (hk : Kept s₀ s) : Kept s₀ ((State.attnRow s e d q keys vals start n).2) := by
  unfold State.attnRow
  repeat' first
    | with_reducible assumption
    | ((try lift_lets -underBinder); intro x; clear_value (hx : x = _); refine Kept.cut (a := s₀) hx ?_ (fun hk' => ?_); rotate_left; clear hx; rotate_right)
    | ((try lift_lets -underBinder); intro x)
    | with_reducible apply State.countDecodes_kept
    | with_reducible apply State.countMuTerms_kept
    | with_reducible apply State.countVuTerms_kept
    | with_reducible apply State.countConv_kept
    | (with_reducible apply Kept.of_eq2; with_reducible assumption)
    | (with_reducible apply Kept.of_eq3; with_reducible assumption)
    | (with_reducible apply Kept.of_eq4; with_reducible assumption)
    | with_reducible apply Kept.foldl
    | with_reducible apply Kept.foldl₁
    | with_reducible apply Kept.foldl₂
    | with_reducible apply Kept.foldl₃
    | exact id
    | exact List.Subset.refl _
    | split
    | dsimp +zetaDelta -zeta only
    | with_reducible apply Kept.frame
    | intro _
    | dsimp only

theorem State.attnRows_kept {s₀ s : State} {e : OpEnv} {o : OpRec} {ps : Places} {a : AttnRange} {keys : List (RowData × List Outlier)} {vals : List RowData} {p0 : List Nat} (hk : Kept s₀ s) : Kept s₀ ((State.attnRows s e o ps a keys vals p0).2) := by
  induction p0 generalizing s with
  | nil =>
    unfold State.attnRows
    repeat' first
      | with_reducible assumption
      | ((try lift_lets -underBinder); intro x; clear_value (hx : x = _); refine Kept.cut (a := s₀) hx ?_ (fun hk' => ?_); rotate_left; clear hx; rotate_right)
      | ((try lift_lets -underBinder); intro x)
      | with_reducible apply State.readRow_kept
      | with_reducible apply State.writeRow_kept
      | with_reducible apply State.countConv_kept
      | with_reducible apply State.attnRow_kept
      | (with_reducible apply Kept.of_eq2; with_reducible assumption)
      | (with_reducible apply Kept.of_eq3; with_reducible assumption)
      | (with_reducible apply Kept.of_eq4; with_reducible assumption)
      | with_reducible apply Kept.foldl
      | with_reducible apply Kept.foldl₁
      | with_reducible apply Kept.foldl₂
      | with_reducible apply Kept.foldl₃
      | exact id
      | exact List.Subset.refl _
      | split
      | dsimp +zetaDelta -zeta only
      | with_reducible apply Kept.frame
      | intro _
      | dsimp only
  | cons x xs ih =>
    unfold State.attnRows
    repeat' first
      | with_reducible assumption
      | ((try lift_lets -underBinder); intro x; clear_value (hx : x = _); refine Kept.cut (a := s₀) hx ?_ (fun hk' => ?_); rotate_left; clear hx; rotate_right)
      | ((try lift_lets -underBinder); intro x)
      | with_reducible apply ih
      | with_reducible apply State.readRow_kept
      | with_reducible apply State.writeRow_kept
      | with_reducible apply State.countConv_kept
      | with_reducible apply State.attnRow_kept
      | (with_reducible apply Kept.of_eq2; with_reducible assumption)
      | (with_reducible apply Kept.of_eq3; with_reducible assumption)
      | (with_reducible apply Kept.of_eq4; with_reducible assumption)
      | with_reducible apply Kept.foldl
      | with_reducible apply Kept.foldl₁
      | with_reducible apply Kept.foldl₂
      | with_reducible apply Kept.foldl₃
      | exact id
      | exact List.Subset.refl _
      | split
      | dsimp +zetaDelta -zeta only
      | with_reducible apply Kept.frame
      | intro _
      | dsimp only

theorem State.doAttention_kept {s₀ s : State} {e : OpEnv} {o : OpRec} {first : Bool} (hk : Kept s₀ s) : Kept s₀ ((State.doAttention s e o first).2) := by
  unfold State.doAttention
  repeat' first
    | with_reducible assumption
    | ((try lift_lets -underBinder); intro x; clear_value (hx : x = _); refine Kept.cut (a := s₀) hx ?_ (fun hk' => ?_); rotate_left; clear hx; rotate_right)
    | ((try lift_lets -underBinder); intro x)
    | with_reducible apply State.begin_kept
    | with_reducible apply State.readRows_kept
    | with_reducible apply State.countDecodes_kept
    | with_reducible apply State.tileOutliers_kept
    | with_reducible apply State.attnRows_kept
    | (with_reducible apply Kept.of_eq2; with_reducible assumption)
    | (with_reducible apply Kept.of_eq3; with_reducible assumption)
    | (with_reducible apply Kept.of_eq4; with_reducible assumption)
    | with_reducible apply Kept.foldl
    | with_reducible apply Kept.foldl₁
    | with_reducible apply Kept.foldl₂
    | with_reducible apply Kept.foldl₃
    | exact id
    | exact List.Subset.refl _
    | split
    | dsimp +zetaDelta -zeta only
    | with_reducible apply Kept.frame
    | intro _
    | dsimp only

theorem State.sampleRows_kept {s₀ s : State} {e : OpEnv} {o : OpRec} {ps : Places} {vocab : Nat} {p0 : List Nat} (hk : Kept s₀ s) : Kept s₀ ((State.sampleRows s e o ps vocab p0).2) := by
  induction p0 generalizing s with
  | nil =>
    unfold State.sampleRows
    repeat' first
      | with_reducible assumption
      | ((try lift_lets -underBinder); intro x; clear_value (hx : x = _); refine Kept.cut (a := s₀) hx ?_ (fun hk' => ?_); rotate_left; clear hx; rotate_right)
      | ((try lift_lets -underBinder); intro x)
      | with_reducible apply State.spanRead_kept
      | with_reducible apply State.readRow_kept
      | with_reducible apply State.writeRow_kept
      | with_reducible apply State.onKernel_kept
      | (with_reducible apply Kept.of_eq2; with_reducible assumption)
      | (with_reducible apply Kept.of_eq3; with_reducible assumption)
      | (with_reducible apply Kept.of_eq4; with_reducible assumption)
      | with_reducible apply Kept.foldl
      | with_reducible apply Kept.foldl₁
      | with_reducible apply Kept.foldl₂
      | with_reducible apply Kept.foldl₃
      | exact id
      | exact List.Subset.refl _
      | split
      | dsimp +zetaDelta -zeta only
      | with_reducible apply Kept.frame
      | intro _
      | dsimp only
  | cons x xs ih =>
    unfold State.sampleRows
    repeat' first
      | with_reducible assumption
      | ((try lift_lets -underBinder); intro x; clear_value (hx : x = _); refine Kept.cut (a := s₀) hx ?_ (fun hk' => ?_); rotate_left; clear hx; rotate_right)
      | ((try lift_lets -underBinder); intro x)
      | with_reducible apply ih
      | with_reducible apply State.spanRead_kept
      | with_reducible apply State.readRow_kept
      | with_reducible apply State.writeRow_kept
      | with_reducible apply State.onKernel_kept
      | (with_reducible apply Kept.of_eq2; with_reducible assumption)
      | (with_reducible apply Kept.of_eq3; with_reducible assumption)
      | (with_reducible apply Kept.of_eq4; with_reducible assumption)
      | with_reducible apply Kept.foldl
      | with_reducible apply Kept.foldl₁
      | with_reducible apply Kept.foldl₂
      | with_reducible apply Kept.foldl₃
      | exact id
      | exact List.Subset.refl _
      | split
      | dsimp +zetaDelta -zeta only
      | with_reducible apply Kept.frame
      | intro _
      | dsimp only

theorem State.doSample_kept {s₀ s : State} {e : OpEnv} {o : OpRec} {first : Bool} (hk : Kept s₀ s) : Kept s₀ ((State.doSample s e o first).2) := by
  unfold State.doSample
  repeat' first
    | with_reducible assumption
    | ((try lift_lets -underBinder); intro x; clear_value (hx : x = _); refine Kept.cut (a := s₀) hx ?_ (fun hk' => ?_); rotate_left; clear hx; rotate_right)
    | ((try lift_lets -underBinder); intro x)
    | with_reducible apply State.begin_kept
    | with_reducible apply State.sampleRows_kept
    | (with_reducible apply Kept.of_eq2; with_reducible assumption)
    | (with_reducible apply Kept.of_eq3; with_reducible assumption)
    | (with_reducible apply Kept.of_eq4; with_reducible assumption)
    | with_reducible apply Kept.foldl
    | with_reducible apply Kept.foldl₁
    | with_reducible apply Kept.foldl₂
    | with_reducible apply Kept.foldl₃
    | exact id
    | exact List.Subset.refl _
    | split
    | dsimp +zetaDelta -zeta only
    | with_reducible apply Kept.frame
    | intro _
    | dsimp only

end Sys2Proof.Machine
end

