-- ==== Sys2Proof/Laws/KeptKvAlloc.lean ====
section
/-! SUPPORT. What the operations of Machine/KvAlloc.lean keep (Laws/Kept.lean). -/

set_option maxRecDepth 8000
set_option Elab.async false

namespace Sys2Proof.Machine

theorem State.setSeq_kept {s₀ s : State} {b i : Nat} {q : KvSeq} (hk : Kept s₀ s) : Kept s₀ ((State.setSeq s b i q)) := by
  unfold State.setSeq
  repeat' first
    | with_reducible assumption
    | ((try lift_lets -underBinder); intro x; clear_value (hx : x = _); refine Kept.cut (a := s₀) hx ?_ (fun hk' => ?_); rotate_left; clear hx; rotate_right)
    | ((try lift_lets -underBinder); intro x)
    | with_reducible apply State.set_kept
    | (with_reducible apply Kept.of_eq2; with_reducible assumption)
    | (with_reducible apply Kept.of_eq3; with_reducible assumption)
    | (with_reducible apply Kept.of_eq4; with_reducible assumption)
    | with_reducible apply Kept.foldl
    | with_reducible apply Kept.foldl₁
    | with_reducible apply Kept.foldl₂
    | with_reducible apply Kept.foldl₃
    | exact id
    | exact List.Subset.refl _
    | split
    | dsimp +zetaDelta -zeta only
    | with_reducible apply Kept.frame
    | intro _
    | dsimp only

theorem State.kvStore_kept {s₀ s : State} {b i : Nat} (hk : Kept s₀ s) : Kept s₀ ((State.kvStore s b i)) := by
  unfold State.kvStore
  repeat' first
    | with_reducible assumption
    | ((try lift_lets -underBinder); intro x; clear_value (hx : x = _); refine Kept.cut (a := s₀) hx ?_ (fun hk' => ?_); rotate_left; clear hx; rotate_right)
    | ((try lift_lets -underBinder); intro x)
    | with_reducible apply State.devWrite_kept
    | (with_reducible apply Kept.of_eq2; with_reducible assumption)
    | (with_reducible apply Kept.of_eq3; with_reducible assumption)
    | (with_reducible apply Kept.of_eq4; with_reducible assumption)
    | with_reducible apply Kept.foldl
    | with_reducible apply Kept.foldl₁
    | with_reducible apply Kept.foldl₂
    | with_reducible apply Kept.foldl₃
    | exact id
    | exact List.Subset.refl _
    | split
    | dsimp +zetaDelta -zeta only
    | with_reducible apply Kept.frame
    | intro _
    | dsimp only

theorem State.kvFlush_kept {s₀ s : State} {b : Nat} {before : List (Nat × KvSeq)} (hk : Kept s₀ s) : Kept s₀ ((State.kvFlush s b before)) := by
  unfold State.kvFlush
  repeat' first
    | with_reducible assumption
    | ((try lift_lets -underBinder); intro x; clear_value (hx : x = _); refine Kept.cut (a := s₀) hx ?_ (fun hk' => ?_); rotate_left; clear hx; rotate_right)
    | ((try lift_lets -underBinder); intro x)
    | with_reducible apply State.kvStore_kept
    | (with_reducible apply Kept.of_eq2; with_reducible assumption)
    | (with_reducible apply Kept.of_eq3; with_reducible assumption)
    | (with_reducible apply Kept.of_eq4; with_reducible assumption)
    | with_reducible apply Kept.foldl
    | with_reducible apply Kept.foldl₁
    | with_reducible apply Kept.foldl₂
    | with_reducible apply Kept.foldl₃
    | exact id
    | exact List.Subset.refl _
    | split
    | dsimp +zetaDelta -zeta only
    | with_reducible apply Kept.frame
    | intro _
    | dsimp only

theorem State.kvStart_kept {s₀ s : State} {b entries : Nat} (hk : Kept s₀ s) : Kept s₀ ((State.kvStart s b entries)) := by
  unfold State.kvStart
  repeat' first
    | with_reducible assumption
    | ((try lift_lets -underBinder); intro x; clear_value (hx : x = _); refine Kept.cut (a := s₀) hx ?_ (fun hk' => ?_); rotate_left; clear hx; rotate_right)
    | ((try lift_lets -underBinder); intro x)
    | with_reducible apply State.set_kept
    | with_reducible apply State.devWrite_kept
    | (with_reducible apply Kept.of_eq2; with_reducible assumption)
    | (with_reducible apply Kept.of_eq3; with_reducible assumption)
    | (with_reducible apply Kept.of_eq4; with_reducible assumption)
    | with_reducible apply Kept.foldl
    | with_reducible apply Kept.foldl₁
    | with_reducible apply Kept.foldl₂
    | with_reducible apply Kept.foldl₃
    | exact id
    | exact List.Subset.refl _
    | split
    | dsimp +zetaDelta -zeta only
    | with_reducible apply Kept.frame
    | intro _
    | dsimp only

theorem State.spillNow_kept {s₀ s : State} {b va : Nat} {k : MoveKind} (hk : Kept s₀ s) : Kept s₀ ((State.spillNow s b va k)) := by
  unfold State.spillNow
  repeat' first
    | with_reducible assumption
    | ((try lift_lets -underBinder); intro x; clear_value (hx : x = _); refine Kept.cut (a := s₀) hx ?_ (fun hk' => ?_); rotate_left; clear hx; rotate_right)
    | ((try lift_lets -underBinder); intro x)
    | with_reducible apply State.startSpill_kept
    | with_reducible apply State.endMove_kept
    | (with_reducible apply Kept.of_eq2; with_reducible assumption)
    | (with_reducible apply Kept.of_eq3; with_reducible assumption)
    | (with_reducible apply Kept.of_eq4; with_reducible assumption)
    | with_reducible apply Kept.foldl
    | with_reducible apply Kept.foldl₁
    | with_reducible apply Kept.foldl₂
    | with_reducible apply Kept.foldl₃
    | exact id
    | exact List.Subset.refl _
    | split
    | dsimp +zetaDelta -zeta only
    | with_reducible apply Kept.frame
    | intro _
    | dsimp only

theorem State.kvFrame_kept {s₀ s : State} {b va : Nat} (hk : Kept s₀ s) : KeptO Prod.snd s₀ (State.kvFrame s b va) := by
  unfold State.kvFrame
  repeat' first
    | ((try lift_lets -underBinder); intro x; clear_value (hx : x = _); refine Kept.cut (a := s₀) hx ?_ (fun hk' => ?_); rotate_left; clear hx; rotate_right)
    | with_reducible assumption
    | with_reducible apply State.takeFrame_kept
    | ((try lift_lets -underBinder); intro x; clear_value (hx : x = _); refine Kept.cut (a := s₀) hx ?_ (fun hk' => ?_); rotate_left; clear hx; rotate_right)
    | ((try lift_lets -underBinder); intro x)
    | with_reducible apply State.count_kept
    | with_reducible apply State.spillPlace_kept
    | with_reducible apply State.spillNow_kept
    | (with_reducible apply Kept.of_eq2; with_reducible assumption)
    | (with_reducible apply Kept.of_eq3; with_reducible assumption)
    | (with_reducible apply Kept.of_eq4; with_reducible assumption)
    | (with_reducible apply Kept.of_some; with_reducible assumption)
    | (with_reducible apply Kept.of_some3; with_reducible assumption)
    | (with_reducible apply Kept.of_someS; with_reducible assumption)
    | with_reducible exact KeptO.none
    | with_reducible apply KeptO.someS
    | with_reducible apply KeptO.some
    | with_reducible apply Kept.foldl
    | with_reducible apply Kept.foldl₁
    | with_reducible apply Kept.foldl₂
    | with_reducible apply Kept.foldl₃
    | exact id
    | exact List.Subset.refl _
    | split
    | dsimp +zetaDelta -zeta only
    | with_reducible apply Kept.frame
    | intro _
    | dsimp only

theorem State.kvResident_kept {s₀ s : State} {b page : Nat} (hk : Kept s₀ s) : Kept s₀ ((State.kvResident s b page).2) := by
  unfold State.kvResident
  repeat' first
    | with_reducible assumption
    | with_reducible apply State.kvFrame_kept
    | ((try lift_lets -underBinder); intro x; clear_value (hx : x = _); refine Kept.cut (a := s₀) hx ?_ (fun hk' => ?_); rotate_left; clear hx; rotate_right)
    | ((try lift_lets -underBinder); intro x)
    | with_reducible apply State.emit_kept
    | with_reducible apply State.addPages_kept
    | with_reducible apply State.useT4_kept
    | with_reducible apply State.fillFrame_kept
    | (with_reducible apply Kept.of_eq2; with_reducible assumption)
    | (with_reducible apply Kept.of_eq3; with_reducible assumption)
    | (with_reducible apply Kept.of_eq4; with_reducible assumption)
    | (with_reducible apply Kept.of_some; with_reducible assumption)
    | (with_reducible apply Kept.of_some3; with_reducible assumption)
    | (with_reducible apply Kept.of_someS; with_reducible assumption)
    | with_reducible apply Kept.foldl
    | with_reducible apply Kept.foldl₁
    | with_reducible apply Kept.foldl₂
    | with_reducible apply Kept.foldl₃
    | exact id
    | exact List.Subset.refl _
    | split
    | dsimp +zetaDelta -zeta only
    | with_reducible apply Kept.frame
    | intro _
    | dsimp only

theorem State.kvResidents_kept {s₀ s : State} {b : Nat} {p0 : List Nat} (hk : Kept s₀ s) : Kept s₀ ((State.kvResidents s b p0).2) := by
  induction p0 generalizing s with
  | nil =>
    unfold State.kvResidents
    repeat' first
      | with_reducible assumption
      | ((try lift_lets -underBinder); intro x; clear_value (hx : x = _); refine Kept.cut (a := s₀) hx ?_ (fun hk' => ?_); rotate_left; clear hx; rotate_right)
      | ((try lift_lets -underBinder); intro x)
      | with_reducible apply State.kvResident_kept
      | (with_reducible apply Kept.of_eq2; with_reducible assumption)
      | (with_reducible apply Kept.of_eq3; with_reducible assumption)
      | (with_reducible apply Kept.of_eq4; with_reducible assumption)
      | with_reducible apply Kept.foldl
      | with_reducible apply Kept.foldl₁
      | with_reducible apply Kept.foldl₂
      | with_reducible apply Kept.foldl₃
      | exact id
      | exact List.Subset.refl _
      | split
      | dsimp +zetaDelta -zeta only
      | with_reducible apply Kept.frame
      | intro _
      | dsimp only
  | cons x xs ih =>
    unfold State.kvResidents
    repeat' first
      | with_reducible assumption
      | ((try lift_lets -underBinder); intro x; clear_value (hx : x = _); refine Kept.cut (a := s₀) hx ?_ (fun hk' => ?_); rotate_left; clear hx; rotate_right)
      | ((try lift_lets -underBinder); intro x)
      | with_reducible apply ih
      | with_reducible apply State.kvResident_kept
      | (with_reducible apply Kept.of_eq2; with_reducible assumption)
      | (with_reducible apply Kept.of_eq3; with_reducible assumption)
      | (with_reducible apply Kept.of_eq4; with_reducible assumption)
      | with_reducible apply Kept.foldl
      | with_reducible apply Kept.foldl₁
      | with_reducible apply Kept.foldl₂
      | with_reducible apply Kept.foldl₃
      | exact id
      | exact List.Subset.refl _
      | split
      | dsimp +zetaDelta -zeta only
      | with_reducible apply Kept.frame
      | intro _
      | dsimp only

theorem State.kvSpill_kept {s₀ s : State} {b : Nat} {p0 : List Nat} (hk : Kept s₀ s) : Kept s₀ ((State.kvSpill s b p0).2) := by
  induction p0 generalizing s with
  | nil =>
    unfold State.kvSpill
    repeat' first
      | with_reducible assumption
      | ((try lift_lets -underBinder); intro x; clear_value (hx : x = _); refine Kept.cut (a := s₀) hx ?_ (fun hk' => ?_); rotate_left; clear hx; rotate_right)
      | ((try lift_lets -underBinder); intro x)
      | with_reducible apply State.spillPlace_kept
      | with_reducible apply State.spillNow_kept
      | (with_reducible apply Kept.of_eq2; with_reducible assumption)
      | (with_reducible apply Kept.of_eq3; with_reducible assumption)
      | (with_reducible apply Kept.of_eq4; with_reducible assumption)
      | with_reducible apply Kept.foldl
      | with_reducible apply Kept.foldl₁
      | with_reducible apply Kept.foldl₂
      | with_reducible apply Kept.foldl₃
      | exact id
      | exact List.Subset.refl _
      | split
      | dsimp +zetaDelta -zeta only
      | with_reducible apply Kept.frame
      | intro _
      | dsimp only
  | cons x xs ih =>
    unfold State.kvSpill
    repeat' first
      | with_reducible assumption
      | ((try lift_lets -underBinder); intro x; clear_value (hx : x = _); refine Kept.cut (a := s₀) hx ?_ (fun hk' => ?_); rotate_left; clear hx; rotate_right)
      | ((try lift_lets -underBinder); intro x)
      | with_reducible apply ih
      | with_reducible apply State.spillPlace_kept
      | with_reducible apply State.spillNow_kept
      | (with_reducible apply Kept.of_eq2; with_reducible assumption)
      | (with_reducible apply Kept.of_eq3; with_reducible assumption)
      | (with_reducible apply Kept.of_eq4; with_reducible assumption)
      | with_reducible apply Kept.foldl
      | with_reducible apply Kept.foldl₁
      | with_reducible apply Kept.foldl₂
      | with_reducible apply Kept.foldl₃
      | exact id
      | exact List.Subset.refl _
      | split
      | dsimp +zetaDelta -zeta only
      | with_reducible apply Kept.frame
      | intro _
      | dsimp only

theorem State.kvTake_kept {s₀ s t : State} {b : Nat} {ps : List Nat} (ht : Kept s t) (hk : Kept s₀ s) :
    Kept s₀ ((State.kvTake s t b ps).2) := by
  unfold State.kvTake
  split
  · exact Kept.of_eq2 (by assumption) (State.kvResidents_kept (hk.trans ht))
  · exact Kept.redraw hk (Kept.of_eq2 (by assumption) (State.kvResidents_kept ht))

theorem State.kvObtain_kept {s₀ s : State} {b n : Nat} {spill : Bool} (hk : Kept s₀ s) : Kept s₀ ((State.kvObtain s b n spill).2) := by
  unfold State.kvObtain
  repeat' first
    | with_reducible assumption
    | with_reducible exact State.kvTake_kept (Kept.refl s) hk
    | exact State.kvTake_kept (State.count_kept (Kept.of_eq2 (by with_reducible assumption) (State.kvSpill_kept (Kept.refl s)))) hk
    | exact Kept.redraw hk (Kept.of_eq2 (by with_reducible assumption) (State.kvSpill_kept (Kept.refl _)))
    | ((try lift_lets -underBinder); intro x)
    | split
    | dsimp only

theorem State.setTrim_kept {s₀ s : State} {b : Nat} {on : Bool} (hk : Kept s₀ s) : Kept s₀ ((State.setTrim s b on)) := by
  unfold State.setTrim
  repeat' first
    | with_reducible assumption
    | ((try lift_lets -underBinder); intro x; clear_value (hx : x = _); refine Kept.cut (a := s₀) hx ?_ (fun hk' => ?_); rotate_left; clear hx; rotate_right)
    | ((try lift_lets -underBinder); intro x)
    | with_reducible apply State.set_kept
    | (with_reducible apply Kept.of_eq2; with_reducible assumption)
    | (with_reducible apply Kept.of_eq3; with_reducible assumption)
    | (with_reducible apply Kept.of_eq4; with_reducible assumption)
    | with_reducible apply Kept.foldl
    | with_reducible apply Kept.foldl₁
    | with_reducible apply Kept.foldl₂
    | with_reducible apply Kept.foldl₃
    | exact id
    | exact List.Subset.refl _
    | split
    | dsimp +zetaDelta -zeta only
    | with_reducible apply Kept.frame
    | intro _
    | dsimp only

theorem State.kvTrim_kept {s₀ s : State} {b : Nat} (hk : Kept s₀ s) : Kept s₀ ((State.kvTrim s b)) := by
  unfold State.kvTrim
  repeat' first
    | with_reducible assumption
    | ((try lift_lets -underBinder); intro x; clear_value (hx : x = _); refine Kept.cut (a := s₀) hx ?_ (fun hk' => ?_); rotate_left; clear hx; rotate_right)
    | ((try lift_lets -underBinder); intro x)
    | with_reducible apply State.count_kept
    | with_reducible apply State.countKv_kept
    | with_reducible apply State.kvSpill_kept
    | with_reducible apply State.setTrim_kept
    | (with_reducible apply Kept.of_eq2; with_reducible assumption)
    | (with_reducible apply Kept.of_eq3; with_reducible assumption)
    | (with_reducible apply Kept.of_eq4; with_reducible assumption)
    | with_reducible apply Kept.foldl
    | with_reducible apply Kept.foldl₁
    | with_reducible apply Kept.foldl₂
    | with_reducible apply Kept.foldl₃
    | exact id
    | exact List.Subset.refl _
    | split
    | dsimp +zetaDelta -zeta only
    | with_reducible apply Kept.frame
    | intro _
    | dsimp only

theorem State.kvRelease_kept {s₀ s : State} {b i n : Nat} (hk : Kept s₀ s) : Kept s₀ ((State.kvRelease s b i n)) := by
  unfold State.kvRelease
  repeat' first
    | with_reducible assumption
    | ((try lift_lets -underBinder); intro x; clear_value (hx : x = _); refine Kept.cut (a := s₀) hx ?_ (fun hk' => ?_); rotate_left; clear hx; rotate_right)
    | ((try lift_lets -underBinder); intro x)
    | with_reducible apply State.setSeq_kept
    | (with_reducible apply Kept.of_eq2; with_reducible assumption)
    | (with_reducible apply Kept.of_eq3; with_reducible assumption)
    | (with_reducible apply Kept.of_eq4; with_reducible assumption)
    | with_reducible apply Kept.foldl
    | with_reducible apply Kept.foldl₁
    | with_reducible apply Kept.foldl₂
    | with_reducible apply Kept.foldl₃
    | exact id
    | exact List.Subset.refl _
    | split
    | dsimp +zetaDelta -zeta only
    | with_reducible apply Kept.frame
    | intro _
    | dsimp only

theorem State.kvReserve_kept {s₀ s : State} {b i n : Nat} (hk : Kept s₀ s) : Kept s₀ ((State.kvReserve s b i n).2) := by
  unfold State.kvReserve
  repeat' first
    | with_reducible assumption
    | ((try lift_lets -underBinder); intro x; clear_value (hx : x = _); refine Kept.cut (a := s₀) hx ?_ (fun hk' => ?_); rotate_left; clear hx; rotate_right)
    | ((try lift_lets -underBinder); intro x)
    | with_reducible apply State.countKv_kept
    | with_reducible apply State.setSeq_kept
    | with_reducible apply State.kvStore_kept
    | with_reducible apply State.kvObtain_kept
    | (with_reducible apply Kept.of_eq2; with_reducible assumption)
    | (with_reducible apply Kept.of_eq3; with_reducible assumption)
    | (with_reducible apply Kept.of_eq4; with_reducible assumption)
    | with_reducible apply Kept.foldl
    | with_reducible apply Kept.foldl₁
    | with_reducible apply Kept.foldl₂
    | with_reducible apply Kept.foldl₃
    | exact id
    | exact List.Subset.refl _
    | split
    | dsimp +zetaDelta -zeta only
    | with_reducible apply Kept.frame
    | intro _
    | dsimp only

theorem State.kvMembers_kept {s₀ s : State} {b i n : Nat} {f : KvSeq → KvSeq} (hk : Kept s₀ s) : Kept s₀ ((State.kvMembers s b i n f)) := by
  unfold State.kvMembers
  repeat' first
    | with_reducible assumption
    | ((try lift_lets -underBinder); intro x; clear_value (hx : x = _); refine Kept.cut (a := s₀) hx ?_ (fun hk' => ?_); rotate_left; clear hx; rotate_right)
    | ((try lift_lets -underBinder); intro x)
    | with_reducible apply State.setSeq_kept
    | (with_reducible apply Kept.of_eq2; with_reducible assumption)
    | (with_reducible apply Kept.of_eq3; with_reducible assumption)
    | (with_reducible apply Kept.of_eq4; with_reducible assumption)
    | with_reducible apply Kept.foldl
    | with_reducible apply Kept.foldl₁
    | with_reducible apply Kept.foldl₂
    | with_reducible apply Kept.foldl₃
    | exact id
    | exact List.Subset.refl _
    | split
    | dsimp +zetaDelta -zeta only
    | with_reducible apply Kept.frame
    | intro _
    | dsimp only

theorem State.kvContinue_kept {s₀ s : State} {b i : Nat} {q : KvSeq} {tokens : Nat} {x : List Byte} {resume : Bool} (hk : Kept s₀ s) : Kept s₀ ((State.kvContinue s b i q tokens x resume).2) := by
  unfold State.kvContinue
  repeat' first
    | with_reducible assumption
    | ((try lift_lets -underBinder); intro x; clear_value (hx : x = _); refine Kept.cut (a := s₀) hx ?_ (fun hk' => ?_); rotate_left; clear hx; rotate_right)
    | ((try lift_lets -underBinder); intro x)
    | with_reducible apply State.setSeq_kept
    | with_reducible apply State.kvObtain_kept
    | (with_reducible apply Kept.of_eq2; with_reducible assumption)
    | (with_reducible apply Kept.of_eq3; with_reducible assumption)
    | (with_reducible apply Kept.of_eq4; with_reducible assumption)
    | with_reducible apply Kept.foldl
    | with_reducible apply Kept.foldl₁
    | with_reducible apply Kept.foldl₂
    | with_reducible apply Kept.foldl₃
    | exact id
    | exact List.Subset.refl _
    | split
    | dsimp +zetaDelta -zeta only
    | with_reducible apply Kept.frame
    | intro _
    | dsimp only

theorem State.kvJoin_kept {s₀ s : State} {b step : Nat} {e : StepEntry} {x : List Byte} (hk : Kept s₀ s) : Kept s₀ ((State.kvJoin s b step e x).2) := by
  unfold State.kvJoin
  repeat' first
    | with_reducible assumption
    | ((try lift_lets -underBinder); intro x; clear_value (hx : x = _); refine Kept.cut (a := s₀) hx ?_ (fun hk' => ?_); rotate_left; clear hx; rotate_right)
    | ((try lift_lets -underBinder); intro x)
    | with_reducible apply State.setSeq_kept
    | with_reducible apply State.kvObtain_kept
    | (with_reducible apply Kept.of_eq2; with_reducible assumption)
    | (with_reducible apply Kept.of_eq3; with_reducible assumption)
    | (with_reducible apply Kept.of_eq4; with_reducible assumption)
    | with_reducible apply Kept.foldl
    | with_reducible apply Kept.foldl₁
    | with_reducible apply Kept.foldl₂
    | with_reducible apply Kept.foldl₃
    | exact id
    | exact List.Subset.refl _
    | split
    | dsimp +zetaDelta -zeta only
    | with_reducible apply Kept.frame
    | intro _
    | dsimp only

theorem State.kvFork_kept {s₀ s : State} {b i : Nat} {q : KvSeq} {step : Nat} {e : StepEntry} {x : List Byte} {copies : List (Nat × List Byte)} (hk : Kept s₀ s) : Kept s₀ ((State.kvFork s b i q step e x copies).2) := by
  unfold State.kvFork
  repeat' first
    | with_reducible assumption
    | ((try lift_lets -underBinder); intro x; clear_value (hx : x = _); refine Kept.cut (a := s₀) hx ?_ (fun hk' => ?_); rotate_left; clear hx; rotate_right)
    | ((try lift_lets -underBinder); intro x)
    | with_reducible apply State.devWrite_kept
    | with_reducible apply State.setSeq_kept
    | with_reducible apply State.kvObtain_kept
    | with_reducible apply State.kvMembers_kept
    | (with_reducible apply Kept.of_eq2; with_reducible assumption)
    | (with_reducible apply Kept.of_eq3; with_reducible assumption)
    | (with_reducible apply Kept.of_eq4; with_reducible assumption)
    | with_reducible apply Kept.foldl
    | with_reducible apply Kept.foldl₁
    | with_reducible apply Kept.foldl₂
    | with_reducible apply Kept.foldl₃
    | exact id
    | exact List.Subset.refl _
    | split
    | dsimp +zetaDelta -zeta only
    | with_reducible apply Kept.frame
    | intro _
    | dsimp only

theorem State.kvCommit_kept {s₀ s : State} {b i : Nat} {q : KvSeq} {x block : List Byte} (hk : Kept s₀ s) : Kept s₀ ((State.kvCommit s b i q x block).2) := by
  unfold State.kvCommit
  repeat' first
    | with_reducible assumption
    | ((try lift_lets -underBinder); intro x; clear_value (hx : x = _); refine Kept.cut (a := s₀) hx ?_ (fun hk' => ?_); rotate_left; clear hx; rotate_right)
    | ((try lift_lets -underBinder); intro x)
    | with_reducible apply State.setSeq_kept
    | with_reducible apply State.kvRelease_kept
    | with_reducible apply State.kvMembers_kept
    | (with_reducible apply Kept.of_eq2; with_reducible assumption)
    | (with_reducible apply Kept.of_eq3; with_reducible assumption)
    | (with_reducible apply Kept.of_eq4; with_reducible assumption)
    | with_reducible apply Kept.foldl
    | with_reducible apply Kept.foldl₁
    | with_reducible apply Kept.foldl₂
    | with_reducible apply Kept.foldl₃
    | exact id
    | exact List.Subset.refl _
    | split
    | dsimp +zetaDelta -zeta only
    | with_reducible apply Kept.frame
    | intro _
    | dsimp only

theorem State.kvEntry_kept {s₀ s : State} {b step tokens : Nat} {blocks copies : List (Nat × List Byte)} {x : List Byte} (hk : Kept s₀ s) : Kept s₀ ((State.kvEntry s b step tokens blocks copies x).2) := by
  unfold State.kvEntry
  repeat' first
    | with_reducible assumption
    | ((try lift_lets -underBinder); intro x; clear_value (hx : x = _); refine Kept.cut (a := s₀) hx ?_ (fun hk' => ?_); rotate_left; clear hx; rotate_right)
    | ((try lift_lets -underBinder); intro x)
    | with_reducible apply State.countKv_kept
    | with_reducible apply State.kvRelease_kept
    | with_reducible apply State.kvMembers_kept
    | with_reducible apply State.kvContinue_kept
    | with_reducible apply State.kvJoin_kept
    | with_reducible apply State.kvFork_kept
    | with_reducible apply State.kvCommit_kept
    | (with_reducible apply Kept.of_eq2; with_reducible assumption)
    | (with_reducible apply Kept.of_eq3; with_reducible assumption)
    | (with_reducible apply Kept.of_eq4; with_reducible assumption)
    | with_reducible apply Kept.foldl
    | with_reducible apply Kept.foldl₁
    | with_reducible apply Kept.foldl₂
    | with_reducible apply Kept.foldl₃
    | exact id
    | exact List.Subset.refl _
    | split
    | dsimp +zetaDelta -zeta only
    | with_reducible apply Kept.frame
    | intro _
    | dsimp only

theorem State.kvPhase_kept {s₀ s : State} {b step tokens : Nat} {blocks copies : List (Nat × List Byte)} {kinds : List Nat} {outs : List StepOut} (hk : Kept s₀ s) : Kept s₀ ((State.kvPhase s b step tokens blocks copies kinds outs).2) := by
  unfold State.kvPhase
  repeat' first
    | with_reducible assumption
    | ((try lift_lets -underBinder); intro x; clear_value (hx : x = _); refine Kept.cut (a := s₀) hx ?_ (fun hk' => ?_); rotate_left; clear hx; rotate_right)
    | ((try lift_lets -underBinder); intro x)
    | with_reducible apply State.kvEntry_kept
    | (with_reducible apply Kept.of_eq2; with_reducible assumption)
    | (with_reducible apply Kept.of_eq3; with_reducible assumption)
    | (with_reducible apply Kept.of_eq4; with_reducible assumption)
    | with_reducible apply Kept.foldl
    | with_reducible apply Kept.foldl₁
    | with_reducible apply Kept.foldl₂
    | with_reducible apply Kept.foldl₃
    | exact id
    | exact List.Subset.refl _
    | split
    | dsimp +zetaDelta -zeta only
    | with_reducible apply Kept.frame
    | intro _
    | dsimp only

theorem State.kvPhases_kept {s₀ s : State} {b : Nat} {rec : List Byte} {blocks copies : List (Nat × List Byte)} (hk : Kept s₀ s) : Kept s₀ ((State.kvPhases s b rec blocks copies).2) := by
  unfold State.kvPhases
  repeat' first
    | with_reducible assumption
    | ((try lift_lets -underBinder); intro x; clear_value (hx : x = _); refine Kept.cut (a := s₀) hx ?_ (fun hk' => ?_); rotate_left; clear hx; rotate_right)
    | ((try lift_lets -underBinder); intro x)
    | with_reducible apply State.countKv_kept
    | with_reducible apply State.kvTrim_kept
    | with_reducible apply State.kvPhase_kept
    | (with_reducible apply Kept.of_eq2; with_reducible assumption)
    | (with_reducible apply Kept.of_eq3; with_reducible assumption)
    | (with_reducible apply Kept.of_eq4; with_reducible assumption)
    | with_reducible apply Kept.foldl
    | with_reducible apply Kept.foldl₁
    | with_reducible apply Kept.foldl₂
    | with_reducible apply Kept.foldl₃
    | exact id
    | exact List.Subset.refl _
    | split
    | dsimp +zetaDelta -zeta only
    | with_reducible apply Kept.frame
    | intro _
    | dsimp only

end Sys2Proof.Machine
end

