-- ==== Sys2Proof/Laws/KeptCommands.lean ====
section
/-! SUPPORT. What each command keeps (Laws/Kept.lean): all but the three that end the module's running. -/

set_option maxRecDepth 8000
set_option Elab.async false

namespace Sys2Proof.Machine

theorem KeptR.andThen {a : State} {o : Out} {f : State → Out} (h : KeptR a o) (g : ∀ s, Kept a s → KeptR a (f s)) :
    KeptR a (o.andThen f) := by
  cases o with
  | next s => exact g s (h.out s rfl)
  | fault x => exact ⟨fun _ e => by cases e⟩
  | refused x => exact ⟨fun _ e => by cases e⟩

theorem execFaultReport_kept {s₀ s : State} {family : BitVec 8} {inst : BitVec 9} {info : BitVec 64} {prev now : BitVec 2} (hk : Kept s₀ s) : KeptR s₀ (execFaultReport family inst info prev now s) := by
  unfold execFaultReport
  repeat' first
    | with_reducible assumption
    | with_reducible apply KeptR.next
    | ((try lift_lets -underBinder); intro x; clear_value (hx : x = _); refine Kept.cut (a := s₀) hx ?_ (fun hk' => ?_); rotate_left; clear hx; rotate_right)
    | ((try lift_lets -underBinder); intro x)
    | with_reducible apply State.report_kept
    | with_reducible apply State.hbmRowSpare_kept
    | with_reducible apply State.hbmLaneSpare_kept
    | (with_reducible apply Kept.of_eq2; with_reducible assumption)
    | (with_reducible apply Kept.of_eq3; with_reducible assumption)
    | (with_reducible apply Kept.of_eq4; with_reducible assumption)
    | with_reducible apply Kept.foldl
    | with_reducible apply Kept.foldl₁
    | with_reducible apply Kept.foldl₂
    | with_reducible apply Kept.foldl₃
    | exact id
    | exact List.Subset.refl _
    | split
    | dsimp +zetaDelta -zeta only
    | with_reducible apply Kept.frame
    | intro _
    | dsimp only

theorem execErrPulseEnd_kept {s₀ s : State}  (hk : Kept s₀ s) : KeptR s₀ (execErrPulseEnd s) := by
  unfold execErrPulseEnd
  repeat' first
    | with_reducible assumption
    | with_reducible apply KeptR.next
    | ((try lift_lets -underBinder); intro x; clear_value (hx : x = _); refine Kept.cut (a := s₀) hx ?_ (fun hk' => ?_); rotate_left; clear hx; rotate_right)
    | ((try lift_lets -underBinder); intro x)
    | with_reducible apply State.driveErr_kept
    | (with_reducible apply Kept.of_eq2; with_reducible assumption)
    | (with_reducible apply Kept.of_eq3; with_reducible assumption)
    | (with_reducible apply Kept.of_eq4; with_reducible assumption)
    | with_reducible apply Kept.foldl
    | with_reducible apply Kept.foldl₁
    | with_reducible apply Kept.foldl₂
    | with_reducible apply Kept.foldl₃
    | exact id
    | exact List.Subset.refl _
    | split
    | dsimp +zetaDelta -zeta only
    | with_reducible apply Kept.frame
    | intro _
    | dsimp only

theorem execQuietPeriod_kept {s₀ s : State} {family : BitVec 8} (hk : Kept s₀ s) : KeptR s₀ (execQuietPeriod family s) := by
  unfold execQuietPeriod
  repeat' first
    | with_reducible assumption
    | with_reducible apply KeptR.next
    | ((try lift_lets -underBinder); intro x; clear_value (hx : x = _); refine Kept.cut (a := s₀) hx ?_ (fun hk' => ?_); rotate_left; clear hx; rotate_right)
    | ((try lift_lets -underBinder); intro x)
    | with_reducible apply State.set_kept
    | with_reducible apply State.driveErr_kept
    | with_reducible apply State.recover_kept
    | (with_reducible apply Kept.of_eq2; with_reducible assumption)
    | (with_reducible apply Kept.of_eq3; with_reducible assumption)
    | (with_reducible apply Kept.of_eq4; with_reducible assumption)
    | with_reducible apply Kept.foldl
    | with_reducible apply Kept.foldl₁
    | with_reducible apply Kept.foldl₂
    | with_reducible apply Kept.foldl₃
    | exact id
    | exact List.Subset.refl _
    | split
    | dsimp +zetaDelta -zeta only
    | with_reducible apply Kept.frame
    | intro _
    | dsimp only

theorem execFcForce_kept {s₀ s : State} {a : Agent} {v : Word32} (hk : Kept s₀ s) : KeptR s₀ (execFcForce a v s) := by
  unfold execFcForce
  repeat' first
    | with_reducible assumption
    | with_reducible apply KeptR.next
    | ((try lift_lets -underBinder); intro x; clear_value (hx : x = _); refine Kept.cut (a := s₀) hx ?_ (fun hk' => ?_); rotate_left; clear hx; rotate_right)
    | ((try lift_lets -underBinder); intro x)
    | with_reducible apply State.setAll_kept
    | with_reducible apply State.report_kept
    | (with_reducible apply Kept.of_eq2; with_reducible assumption)
    | (with_reducible apply Kept.of_eq3; with_reducible assumption)
    | (with_reducible apply Kept.of_eq4; with_reducible assumption)
    | with_reducible apply Kept.foldl
    | with_reducible apply Kept.foldl₁
    | with_reducible apply Kept.foldl₂
    | with_reducible apply Kept.foldl₃
    | exact id
    | exact List.Subset.refl _
    | split
    | dsimp +zetaDelta -zeta only
    | with_reducible apply Kept.frame
    | intro _
    | dsimp only

theorem execFcInjectArm_kept {s₀ s : State} {a : Agent} {v : Word32} (hk : Kept s₀ s) : KeptR s₀ (execFcInjectArm a v s) := by
  unfold execFcInjectArm
  repeat' first
    | with_reducible assumption
    | with_reducible apply KeptR.next
    | ((try lift_lets -underBinder); intro x; clear_value (hx : x = _); refine Kept.cut (a := s₀) hx ?_ (fun hk' => ?_); rotate_left; clear hx; rotate_right)
    | ((try lift_lets -underBinder); intro x)
    | with_reducible apply State.setAll_kept
    | (with_reducible apply Kept.of_eq2; with_reducible assumption)
    | (with_reducible apply Kept.of_eq3; with_reducible assumption)
    | (with_reducible apply Kept.of_eq4; with_reducible assumption)
    | with_reducible apply Kept.foldl
    | with_reducible apply Kept.foldl₁
    | with_reducible apply Kept.foldl₂
    | with_reducible apply Kept.foldl₃
    | exact id
    | exact List.Subset.refl _
    | split
    | dsimp +zetaDelta -zeta only
    | with_reducible apply Kept.frame
    | intro _
    | dsimp only

theorem execEngineReset_kept {s₀ s : State} {a : Agent} {v : Word32} (hk : Kept s₀ s) : KeptR s₀ (execEngineReset a v s) := by
  unfold execEngineReset
  repeat' first
    | with_reducible assumption
    | with_reducible apply KeptR.next
    | ((try lift_lets -underBinder); intro x; clear_value (hx : x = _); refine Kept.cut (a := s₀) hx ?_ (fun hk' => ?_); rotate_left; clear hx; rotate_right)
    | ((try lift_lets -underBinder); intro x)
    | with_reducible apply State.writeReg_kept
    | with_reducible apply State.beginReset_kept
    | with_reducible apply State.resetError_kept
    | (with_reducible apply Kept.of_eq2; with_reducible assumption)
    | (with_reducible apply Kept.of_eq3; with_reducible assumption)
    | (with_reducible apply Kept.of_eq4; with_reducible assumption)
    | with_reducible apply Kept.foldl
    | with_reducible apply Kept.foldl₁
    | with_reducible apply Kept.foldl₂
    | with_reducible apply Kept.foldl₃
    | exact id
    | exact List.Subset.refl _
    | split
    | dsimp +zetaDelta -zeta only
    | with_reducible apply Kept.frame
    | intro _
    | dsimp only

theorem execRimRestart_kept {s₀ s : State} {a : Agent} {v : Word32} (hk : Kept s₀ s) : KeptR s₀ (execRimRestart a v s) := by
  unfold execRimRestart
  repeat' first
    | with_reducible assumption
    | with_reducible apply KeptR.next
    | ((try lift_lets -underBinder); intro x; clear_value (hx : x = _); refine Kept.cut (a := s₀) hx ?_ (fun hk' => ?_); rotate_left; clear hx; rotate_right)
    | ((try lift_lets -underBinder); intro x)
    | with_reducible apply State.startRimRestart_kept
    | with_reducible apply State.writeReg_kept
    | (with_reducible apply Kept.of_eq2; with_reducible assumption)
    | (with_reducible apply Kept.of_eq3; with_reducible assumption)
    | (with_reducible apply Kept.of_eq4; with_reducible assumption)
    | with_reducible apply Kept.foldl
    | with_reducible apply Kept.foldl₁
    | with_reducible apply Kept.foldl₂
    | with_reducible apply Kept.foldl₃
    | exact id
    | exact List.Subset.refl _
    | split
    | dsimp +zetaDelta -zeta only
    | with_reducible apply Kept.frame
    | intro _
    | dsimp only

theorem execRimHeartbeat_kept {s₀ s : State}  (hk : Kept s₀ s) : KeptR s₀ (execRimHeartbeat s) := by
  unfold execRimHeartbeat
  repeat' first
    | with_reducible assumption
    | with_reducible apply KeptR.next
    | ((try lift_lets -underBinder); intro x; clear_value (hx : x = _); refine Kept.cut (a := s₀) hx ?_ (fun hk' => ?_); rotate_left; clear hx; rotate_right)
    | ((try lift_lets -underBinder); intro x)
    | with_reducible apply State.bump_kept
    | (with_reducible apply Kept.of_eq2; with_reducible assumption)
    | (with_reducible apply Kept.of_eq3; with_reducible assumption)
    | (with_reducible apply Kept.of_eq4; with_reducible assumption)
    | with_reducible apply Kept.foldl
    | with_reducible apply Kept.foldl₁
    | with_reducible apply Kept.foldl₂
    | with_reducible apply Kept.foldl₃
    | exact id
    | exact List.Subset.refl _
    | split
    | dsimp +zetaDelta -zeta only
    | with_reducible apply Kept.frame
    | intro _
    | dsimp only

theorem execPatrolScrub_kept {s₀ s : State} {ch : Fin 256} {off : BitVec 31} {ecc : EccResult} (hk : Kept s₀ s) : KeptR s₀ (execPatrolScrub ch off ecc s) := by
  unfold execPatrolScrub
  repeat' first
    | with_reducible assumption
    | with_reducible apply KeptR.next
    | ((try lift_lets -underBinder); intro x; clear_value (hx : x = _); refine Kept.cut (a := s₀) hx ?_ (fun hk' => ?_); rotate_left; clear hx; rotate_right)
    | ((try lift_lets -underBinder); intro x)
    | with_reducible apply State.markHbm_kept
    | with_reducible apply State.hbmCorrected_kept
    | with_reducible apply State.hbmUncorrectable_kept
    | (with_reducible apply Kept.of_eq2; with_reducible assumption)
    | (with_reducible apply Kept.of_eq3; with_reducible assumption)
    | (with_reducible apply Kept.of_eq4; with_reducible assumption)
    | with_reducible apply Kept.foldl
    | with_reducible apply Kept.foldl₁
    | with_reducible apply Kept.foldl₂
    | with_reducible apply Kept.foldl₃
    | exact id
    | exact List.Subset.refl _
    | split
    | dsimp +zetaDelta -zeta only
    | with_reducible apply Kept.frame
    | intro _
    | dsimp only

theorem execHbmPhyRecal_kept {s₀ s : State} {_stack : Fin 8} (hk : Kept s₀ s) : KeptR s₀ (execHbmPhyRecal _stack s) := by
  unfold execHbmPhyRecal
  repeat' first
    | with_reducible assumption
    | with_reducible apply KeptR.next
    | ((try lift_lets -underBinder); intro x; clear_value (hx : x = _); refine Kept.cut (a := s₀) hx ?_ (fun hk' => ?_); rotate_left; clear hx; rotate_right)
    | ((try lift_lets -underBinder); intro x)
    | (with_reducible apply Kept.of_eq2; with_reducible assumption)
    | (with_reducible apply Kept.of_eq3; with_reducible assumption)
    | (with_reducible apply Kept.of_eq4; with_reducible assumption)
    | with_reducible apply Kept.foldl
    | with_reducible apply Kept.foldl₁
    | with_reducible apply Kept.foldl₂
    | with_reducible apply Kept.foldl₃
    | exact id
    | exact List.Subset.refl _
    | split
    | dsimp +zetaDelta -zeta only
    | with_reducible apply Kept.frame
    | intro _
    | dsimp only

theorem execSramScrub_kept {s₀ s : State} {unit : SramUnit} {line : Fin 8192} {ecc : EccResult} (hk : Kept s₀ s) : KeptR s₀ (execSramScrub unit line ecc s) := by
  unfold execSramScrub
  repeat' first
    | with_reducible assumption
    | with_reducible apply KeptR.next
    | ((try lift_lets -underBinder); intro x; clear_value (hx : x = _); refine Kept.cut (a := s₀) hx ?_ (fun hk' => ?_); rotate_left; clear hx; rotate_right)
    | ((try lift_lets -underBinder); intro x)
    | with_reducible apply State.sramCorrected_kept
    | with_reducible apply State.sramUncorrectable_kept
    | with_reducible apply State.markSram_kept
    | with_reducible apply State.scrubRead_kept
    | (with_reducible apply Kept.of_eq2; with_reducible assumption)
    | (with_reducible apply Kept.of_eq3; with_reducible assumption)
    | (with_reducible apply Kept.of_eq4; with_reducible assumption)
    | with_reducible apply Kept.foldl
    | with_reducible apply Kept.foldl₁
    | with_reducible apply Kept.foldl₂
    | with_reducible apply Kept.foldl₃
    | exact id
    | exact List.Subset.refl _
    | split
    | dsimp +zetaDelta -zeta only
    | with_reducible apply Kept.frame
    | intro _
    | dsimp only

theorem execAgingCheck_kept {s₀ s : State} {site : Fin 288} {fallPct : Nat} (hk : Kept s₀ s) : KeptR s₀ (execAgingCheck site fallPct s) := by
  unfold execAgingCheck
  repeat' first
    | with_reducible assumption
    | with_reducible apply KeptR.next
    | ((try lift_lets -underBinder); intro x; clear_value (hx : x = _); refine Kept.cut (a := s₀) hx ?_ (fun hk' => ?_); rotate_left; clear hx; rotate_right)
    | ((try lift_lets -underBinder); intro x)
    | with_reducible apply State.report_kept
    | with_reducible apply State.beginRotation_kept
    | (with_reducible apply Kept.of_eq2; with_reducible assumption)
    | (with_reducible apply Kept.of_eq3; with_reducible assumption)
    | (with_reducible apply Kept.of_eq4; with_reducible assumption)
    | with_reducible apply Kept.foldl
    | with_reducible apply Kept.foldl₁
    | with_reducible apply Kept.foldl₂
    | with_reducible apply Kept.foldl₃
    | exact id
    | exact List.Subset.refl _
    | split
    | dsimp +zetaDelta -zeta only
    | with_reducible apply Kept.frame
    | intro _
    | dsimp only

theorem execCoreRotation_kept {s₀ s : State} {row : Fin 32} {slot : Fin 9} (hk : Kept s₀ s) : KeptR s₀ (execCoreRotation row slot s) := by
  unfold execCoreRotation
  repeat' first
    | with_reducible assumption
    | with_reducible apply KeptR.next
    | ((try lift_lets -underBinder); intro x; clear_value (hx : x = _); refine Kept.cut (a := s₀) hx ?_ (fun hk' => ?_); rotate_left; clear hx; rotate_right)
    | ((try lift_lets -underBinder); intro x)
    | with_reducible apply State.beginRotation_kept
    | (with_reducible apply Kept.of_eq2; with_reducible assumption)
    | (with_reducible apply Kept.of_eq3; with_reducible assumption)
    | (with_reducible apply Kept.of_eq4; with_reducible assumption)
    | with_reducible apply Kept.foldl
    | with_reducible apply Kept.foldl₁
    | with_reducible apply Kept.foldl₂
    | with_reducible apply Kept.foldl₃
    | exact id
    | exact List.Subset.refl _
    | split
    | dsimp +zetaDelta -zeta only
    | with_reducible apply Kept.frame
    | intro _
    | dsimp only

theorem execTelemetrySample_kept {s₀ s : State}  (hk : Kept s₀ s) : KeptR s₀ (execTelemetrySample s) := by
  unfold execTelemetrySample
  repeat' first
    | with_reducible assumption
    | with_reducible apply KeptR.next
    | ((try lift_lets -underBinder); intro x; clear_value (hx : x = _); refine Kept.cut (a := s₀) hx ?_ (fun hk' => ?_); rotate_left; clear hx; rotate_right)
    | ((try lift_lets -underBinder); intro x)
    | (with_reducible apply Kept.of_eq2; with_reducible assumption)
    | (with_reducible apply Kept.of_eq3; with_reducible assumption)
    | (with_reducible apply Kept.of_eq4; with_reducible assumption)
    | with_reducible apply Kept.foldl
    | with_reducible apply Kept.foldl₁
    | with_reducible apply Kept.foldl₂
    | with_reducible apply Kept.foldl₃
    | exact id
    | exact List.Subset.refl _
    | split
    | dsimp +zetaDelta -zeta only
    | with_reducible apply Kept.frame
    | intro _
    | dsimp only

theorem execReadLoLatchesHi_kept {s₀ s : State} {a : Agent} {off : BitVec 26} (hk : Kept s₀ s) : KeptR s₀ (execReadLoLatchesHi a off s) := by
  unfold execReadLoLatchesHi
  repeat' first
    | with_reducible assumption
    | with_reducible apply KeptR.next
    | ((try lift_lets -underBinder); intro x; clear_value (hx : x = _); refine Kept.cut (a := s₀) hx ?_ (fun hk' => ?_); rotate_left; clear hx; rotate_right)
    | ((try lift_lets -underBinder); intro x)
    | with_reducible apply State.set_kept
    | (with_reducible apply Kept.of_eq2; with_reducible assumption)
    | (with_reducible apply Kept.of_eq3; with_reducible assumption)
    | (with_reducible apply Kept.of_eq4; with_reducible assumption)
    | with_reducible apply Kept.foldl
    | with_reducible apply Kept.foldl₁
    | with_reducible apply Kept.foldl₂
    | with_reducible apply Kept.foldl₃
    | exact id
    | exact List.Subset.refl _
    | split
    | dsimp +zetaDelta -zeta only
    | with_reducible apply Kept.frame
    | intro _
    | dsimp only

theorem execKsLoad_kept {s₀ s : State} {a : Agent} {v : Word32} (hk : Kept s₀ s) : KeptR s₀ (execKsLoad a v s) := by
  unfold execKsLoad
  repeat' first
    | with_reducible assumption
    | with_reducible apply KeptR.next
    | ((try lift_lets -underBinder); intro x; clear_value (hx : x = _); refine Kept.cut (a := s₀) hx ?_ (fun hk' => ?_); rotate_left; clear hx; rotate_right)
    | ((try lift_lets -underBinder); intro x)
    | with_reducible apply State.set_kept
    | with_reducible apply State.writeReg_kept
    | with_reducible apply State.loadKey_kept
    | with_reducible apply State.clearLoadData_kept
    | with_reducible apply State.loadError_kept
    | (with_reducible apply Kept.of_eq2; with_reducible assumption)
    | (with_reducible apply Kept.of_eq3; with_reducible assumption)
    | (with_reducible apply Kept.of_eq4; with_reducible assumption)
    | with_reducible apply Kept.foldl
    | with_reducible apply Kept.foldl₁
    | with_reducible apply Kept.foldl₂
    | with_reducible apply Kept.foldl₃
    | exact id
    | exact List.Subset.refl _
    | split
    | dsimp +zetaDelta -zeta only
    | with_reducible apply Kept.frame
    | intro _
    | dsimp only

theorem execKsZero_kept {s₀ s : State} {a : Agent} {v : Word32} (hk : Kept s₀ s) : KeptR s₀ (execKsZero a v s) := by
  unfold execKsZero
  repeat' first
    | with_reducible assumption
    | with_reducible apply KeptR.next
    | ((try lift_lets -underBinder); intro x; clear_value (hx : x = _); refine Kept.cut (a := s₀) hx ?_ (fun hk' => ?_); rotate_left; clear hx; rotate_right)
    | ((try lift_lets -underBinder); intro x)
    | with_reducible apply State.set_kept
    | with_reducible apply State.writeReg_kept
    | with_reducible apply State.zeroSlot_kept
    | (with_reducible apply Kept.of_eq2; with_reducible assumption)
    | (with_reducible apply Kept.of_eq3; with_reducible assumption)
    | (with_reducible apply Kept.of_eq4; with_reducible assumption)
    | with_reducible apply Kept.foldl
    | with_reducible apply Kept.foldl₁
    | with_reducible apply Kept.foldl₂
    | with_reducible apply Kept.foldl₃
    | exact id
    | exact List.Subset.refl _
    | split
    | dsimp +zetaDelta -zeta only
    | with_reducible apply Kept.frame
    | intro _
    | dsimp only

theorem execOwnerChallenge_kept {s₀ s : State} {a : Agent} {v : Word32} (hk : Kept s₀ s) : KeptR s₀ (execOwnerChallenge a v s) := by
  unfold execOwnerChallenge
  repeat' first
    | with_reducible assumption
    | with_reducible apply KeptR.next
    | ((try lift_lets -underBinder); intro x; clear_value (hx : x = _); refine Kept.cut (a := s₀) hx ?_ (fun hk' => ?_); rotate_left; clear hx; rotate_right)
    | ((try lift_lets -underBinder); intro x)
    | with_reducible apply State.set_kept
    | with_reducible apply State.drawn_kept
    | with_reducible apply State.writeReg_kept
    | (with_reducible apply Kept.of_eq2; with_reducible assumption)
    | (with_reducible apply Kept.of_eq3; with_reducible assumption)
    | (with_reducible apply Kept.of_eq4; with_reducible assumption)
    | with_reducible apply Kept.foldl
    | with_reducible apply Kept.foldl₁
    | with_reducible apply Kept.foldl₂
    | with_reducible apply Kept.foldl₃
    | exact id
    | exact List.Subset.refl _
    | split
    | dsimp +zetaDelta -zeta only
    | with_reducible apply Kept.frame
    | intro _
    | dsimp only

theorem execNonceExpire_kept {s₀ s : State}  (hk : Kept s₀ s) : KeptR s₀ (execNonceExpire s) := by
  unfold execNonceExpire
  repeat' first
    | with_reducible assumption
    | with_reducible apply KeptR.next
    | ((try lift_lets -underBinder); intro x; clear_value (hx : x = _); refine Kept.cut (a := s₀) hx ?_ (fun hk' => ?_); rotate_left; clear hx; rotate_right)
    | ((try lift_lets -underBinder); intro x)
    | with_reducible apply State.dropNonce_kept
    | (with_reducible apply Kept.of_eq2; with_reducible assumption)
    | (with_reducible apply Kept.of_eq3; with_reducible assumption)
    | (with_reducible apply Kept.of_eq4; with_reducible assumption)
    | with_reducible apply Kept.foldl
    | with_reducible apply Kept.foldl₁
    | with_reducible apply Kept.foldl₂
    | with_reducible apply Kept.foldl₃
    | exact id
    | exact List.Subset.refl _
    | split
    | dsimp +zetaDelta -zeta only
    | with_reducible apply Kept.frame
    | intro _
    | dsimp only

theorem execOwnerProgram_kept {s₀ s : State} {a : Agent} {v : Word32} (hk : Kept s₀ s) : KeptR s₀ (execOwnerProgram a v s) := by
  unfold execOwnerProgram
  have h := @State.writeReg_kept s₀ s Fld.LID_OWNER_CMD_op.reg 0 v.toNat hk
  revert h
  generalize s.writeReg Fld.LID_OWNER_CMD_op.reg 0 v.toNat = u
  intro h
  refine KeptR.ite (KeptR.next hk) (KeptR.ite (KeptR.next h) (KeptR.ite (KeptR.next (State.ownerError_kept h)) ?_))
  split
  · exact KeptR.next (State.ownerError_kept h)
  · rename_i i hi
    refine KeptR.next (State.ownerDone_kept (State.showFuses_kept (h.fuse (Fuses.le_owner (fun x hx => ?_)))))
    have hp := List.find?_some hi
    rw [hx] at hp
    simp at hp
    exact ⟨fun p => by simp [hp.1] at p, fun p => by simp [hp.2] at p⟩

theorem execMonitorUnlock_kept {s₀ s : State} {a : Agent} {v : Word32} (hk : Kept s₀ s) : KeptR s₀ (execMonitorUnlock a v s) := by
  unfold execMonitorUnlock
  refine KeptR.next (State.ownerOp_kept (fun s t e h => ?_) hk)
  split at e
  · cases e
  · cases e
    exact Kept.frame h id (List.Subset.refl _)

theorem execSvnAdvance_kept {s₀ s : State} {a : Agent} {v : Word32} (hk : Kept s₀ s) : KeptR s₀ (execSvnAdvance a v s) := by
  unfold execSvnAdvance
  refine KeptR.next (State.ownerOp_kept (fun s t e h => ?_) hk)
  split at e
  · cases e
  · cases e
    exact State.showFuses_kept (h.fuse (Fuses.le_svn (Nat.le_max_left _ _)))

theorem execOwnerRelease_kept {s₀ s : State} {a : Agent} {v : Word32} (hk : Kept s₀ s) : KeptR s₀ (execOwnerRelease a v s) := by
  unfold execOwnerRelease
  refine KeptR.next (State.ownerOp_kept (fun s t e h => ?_) hk)
  split at e
  · cases e
  · have hz : ((s.zeroSlot 0).setTries 8).fuses = s.fuses := rfl
    cases e
    refine State.showFuses_kept ((State.setTries_kept (State.zeroSlot_kept h)).fuse ?_)
    rw [hz]
    refine Fuses.le_owner (fun x hx => ?_)
    rw [hx]
    exact ⟨fun p => ⟨p, rfl⟩, fun _ => rfl⟩

theorem execHeatEpoch_kept {s₀ s : State}  (hk : Kept s₀ s) : KeptR s₀ (execHeatEpoch s) := by
  unfold execHeatEpoch
  repeat' first
    | with_reducible assumption
    | with_reducible apply KeptR.next
    | ((try lift_lets -underBinder); intro x; clear_value (hx : x = _); refine Kept.cut (a := s₀) hx ?_ (fun hk' => ?_); rotate_left; clear hx; rotate_right)
    | ((try lift_lets -underBinder); intro x)
    | with_reducible apply State.set_kept
    | (with_reducible apply Kept.of_eq2; with_reducible assumption)
    | (with_reducible apply Kept.of_eq3; with_reducible assumption)
    | (with_reducible apply Kept.of_eq4; with_reducible assumption)
    | with_reducible apply Kept.foldl
    | with_reducible apply Kept.foldl₁
    | with_reducible apply Kept.foldl₂
    | with_reducible apply Kept.foldl₃
    | exact id
    | exact List.Subset.refl _
    | split
    | dsimp +zetaDelta -zeta only
    | with_reducible apply Kept.frame
    | intro _
    | dsimp only

theorem execPllLock_kept {s₀ s : State} (hk : Kept s₀ s) : KeptR s₀ (execPllLock s) := by
  unfold execPllLock
  split
  · refine KeptR.next (hk.trans ⟨rfl, List.prefix_refl _, Nat.le_refl _, Fuses.le_refl _, id, fun x => ?_, fun x => ?_, List.Subset.refl _⟩)
    · first
        | exact x
        | exact Sparse.rising_set _ x _ _
    · simp_all
  · exact KeptR.next hk

theorem execPllHoldover_kept {s₀ s : State} {lost : Bool} {ppm : Nat} (hk : Kept s₀ s) : KeptR s₀ (execPllHoldover lost ppm s) := by
  unfold execPllHoldover
  repeat' first
    | with_reducible assumption
    | with_reducible apply KeptR.next
    | ((try lift_lets -underBinder); intro x; clear_value (hx : x = _); refine Kept.cut (a := s₀) hx ?_ (fun hk' => ?_); rotate_left; clear hx; rotate_right)
    | ((try lift_lets -underBinder); intro x)
    | with_reducible apply State.setAll_kept
    | with_reducible apply State.report_kept
    | (with_reducible apply Kept.of_eq2; with_reducible assumption)
    | (with_reducible apply Kept.of_eq3; with_reducible assumption)
    | (with_reducible apply Kept.of_eq4; with_reducible assumption)
    | with_reducible apply Kept.foldl
    | with_reducible apply Kept.foldl₁
    | with_reducible apply Kept.foldl₂
    | with_reducible apply Kept.foldl₃
    | exact id
    | exact List.Subset.refl _
    | split
    | dsimp +zetaDelta -zeta only
    | with_reducible apply Kept.frame
    | intro _
    | dsimp only

theorem execPllRelock_kept {s₀ s : State}  (hk : Kept s₀ s) : KeptR s₀ (execPllRelock s) := by
  unfold execPllRelock
  repeat' first
    | with_reducible assumption
    | with_reducible apply KeptR.next
    | ((try lift_lets -underBinder); intro x; clear_value (hx : x = _); refine Kept.cut (a := s₀) hx ?_ (fun hk' => ?_); rotate_left; clear hx; rotate_right)
    | ((try lift_lets -underBinder); intro x)
    | with_reducible apply State.setAll_kept
    | (with_reducible apply Kept.of_eq2; with_reducible assumption)
    | (with_reducible apply Kept.of_eq3; with_reducible assumption)
    | (with_reducible apply Kept.of_eq4; with_reducible assumption)
    | with_reducible apply Kept.foldl
    | with_reducible apply Kept.foldl₁
    | with_reducible apply Kept.foldl₂
    | with_reducible apply Kept.foldl₃
    | exact id
    | exact List.Subset.refl _
    | split
    | dsimp +zetaDelta -zeta only
    | with_reducible apply Kept.frame
    | intro _
    | dsimp only

theorem execWakeTokenIssue_kept {s₀ s : State} (hk : Kept s₀ s) : KeptR s₀ (execWakeTokenIssue s) := by
  unfold execWakeTokenIssue
  repeat' first
    | with_reducible assumption
    | with_reducible apply KeptR.next
    | ((try lift_lets -underBinder); intro x; clear_value (hx : x = _); refine Kept.cut (a := s₀) hx ?_ (fun hk' => ?_); rotate_left; clear hx; rotate_right)
    | ((try lift_lets -underBinder); intro x)
    | with_reducible apply State.giveTokens_kept
    | (with_reducible apply Kept.of_eq2; with_reducible assumption)
    | (with_reducible apply Kept.of_eq3; with_reducible assumption)
    | (with_reducible apply Kept.of_eq4; with_reducible assumption)
    | with_reducible apply Kept.foldl
    | with_reducible apply Kept.foldl₁
    | with_reducible apply Kept.foldl₂
    | with_reducible apply Kept.foldl₃
    | exact id
    | exact List.Subset.refl _
    | split
    | dsimp +zetaDelta -zeta only
    | with_reducible apply Kept.frame
    | intro _
    | dsimp only

theorem execGateIdle_kept {s₀ s : State} {h : Fin 4} {idleUs : Nat} (hk : Kept s₀ s) : KeptR s₀ (execGateIdle h idleUs s) := by
  unfold execGateIdle
  repeat' first
    | with_reducible assumption
    | with_reducible apply KeptR.next
    | ((try lift_lets -underBinder); intro x; clear_value (hx : x = _); refine Kept.cut (a := s₀) hx ?_ (fun hk' => ?_); rotate_left; clear hx; rotate_right)
    | ((try lift_lets -underBinder); intro x)
    | with_reducible apply State.set_kept
    | with_reducible apply State.setDiv_kept
    | (with_reducible apply Kept.of_eq2; with_reducible assumption)
    | (with_reducible apply Kept.of_eq3; with_reducible assumption)
    | (with_reducible apply Kept.of_eq4; with_reducible assumption)
    | with_reducible apply Kept.foldl
    | with_reducible apply Kept.foldl₁
    | with_reducible apply Kept.foldl₂
    | with_reducible apply Kept.foldl₃
    | exact id
    | exact List.Subset.refl _
    | split
    | dsimp +zetaDelta -zeta only
    | with_reducible apply Kept.frame
    | intro _
    | dsimp only

theorem execSeamEntryArrive_kept {s₀ s : State} {die : Fin 2} {toEast : Bool} {lane : SeamLane} {entry : SeamEntry} (hk : Kept s₀ s) : KeptR s₀ (execSeamEntryArrive die toEast lane entry s) := by
  unfold execSeamEntryArrive
  repeat' first
    | with_reducible assumption
    | with_reducible apply KeptR.next
    | ((try lift_lets -underBinder); intro x; clear_value (hx : x = _); refine Kept.cut (a := s₀) hx ?_ (fun hk' => ?_); rotate_left; clear hx; rotate_right)
    | ((try lift_lets -underBinder); intro x)
    | with_reducible apply State.count_kept
    | with_reducible apply State.setSeam_kept
    | with_reducible apply State.seamTo_kept
    | with_reducible apply State.seamWake_kept
    | with_reducible apply State.launch_kept
    | (with_reducible apply Kept.of_eq2; with_reducible assumption)
    | (with_reducible apply Kept.of_eq3; with_reducible assumption)
    | (with_reducible apply Kept.of_eq4; with_reducible assumption)
    | with_reducible apply Kept.foldl
    | with_reducible apply Kept.foldl₁
    | with_reducible apply Kept.foldl₂
    | with_reducible apply Kept.foldl₃
    | exact id
    | exact List.Subset.refl _
    | split
    | dsimp +zetaDelta -zeta only
    | with_reducible apply Kept.frame
    | intro _
    | dsimp only

theorem execSeamCreditReturn_kept {s₀ s : State} {die : Fin 2} {toEast : Bool} {lane : SeamLane} {edge : Nat} (hk : Kept s₀ s) : KeptR s₀ (execSeamCreditReturn die toEast lane edge s) := by
  unfold execSeamCreditReturn
  repeat' first
    | with_reducible assumption
    | with_reducible apply KeptR.next
    | ((try lift_lets -underBinder); intro x; clear_value (hx : x = _); refine Kept.cut (a := s₀) hx ?_ (fun hk' => ?_); rotate_left; clear hx; rotate_right)
    | ((try lift_lets -underBinder); intro x)
    | with_reducible apply State.setSeam_kept
    | with_reducible apply State.seamTo_kept
    | (with_reducible apply Kept.of_eq2; with_reducible assumption)
    | (with_reducible apply Kept.of_eq3; with_reducible assumption)
    | (with_reducible apply Kept.of_eq4; with_reducible assumption)
    | with_reducible apply Kept.foldl
    | with_reducible apply Kept.foldl₁
    | with_reducible apply Kept.foldl₂
    | with_reducible apply Kept.foldl₃
    | exact id
    | exact List.Subset.refl _
    | split
    | dsimp +zetaDelta -zeta only
    | with_reducible apply Kept.frame
    | intro _
    | dsimp only

theorem execDvfsGrant_kept {s₀ s : State}  (hk : Kept s₀ s) : KeptR s₀ (execDvfsGrant s) := by
  unfold execDvfsGrant
  repeat' first
    | with_reducible assumption
    | with_reducible apply KeptR.next
    | ((try lift_lets -underBinder); intro x; clear_value (hx : x = _); refine Kept.cut (a := s₀) hx ?_ (fun hk' => ?_); rotate_left; clear hx; rotate_right)
    | ((try lift_lets -underBinder); intro x)
    | with_reducible apply State.grantAll_kept
    | (with_reducible apply Kept.of_eq2; with_reducible assumption)
    | (with_reducible apply Kept.of_eq3; with_reducible assumption)
    | (with_reducible apply Kept.of_eq4; with_reducible assumption)
    | with_reducible apply Kept.foldl
    | with_reducible apply Kept.foldl₁
    | with_reducible apply Kept.foldl₂
    | with_reducible apply Kept.foldl₃
    | exact id
    | exact List.Subset.refl _
    | split
    | dsimp +zetaDelta -zeta only
    | with_reducible apply Kept.frame
    | intro _
    | dsimp only

theorem execRailSettled_kept {s₀ s : State} {h : Fin 4} (hk : Kept s₀ s) : KeptR s₀ (execRailSettled h s) := by
  unfold execRailSettled
  repeat' first
    | with_reducible assumption
    | with_reducible apply KeptR.next
    | ((try lift_lets -underBinder); intro x; clear_value (hx : x = _); refine Kept.cut (a := s₀) hx ?_ (fun hk' => ?_); rotate_left; clear hx; rotate_right)
    | ((try lift_lets -underBinder); intro x)
    | with_reducible apply State.set_kept
    | with_reducible apply State.setDiv_kept
    | (with_reducible apply Kept.of_eq2; with_reducible assumption)
    | (with_reducible apply Kept.of_eq3; with_reducible assumption)
    | (with_reducible apply Kept.of_eq4; with_reducible assumption)
    | with_reducible apply Kept.foldl
    | with_reducible apply Kept.foldl₁
    | with_reducible apply Kept.foldl₂
    | with_reducible apply Kept.foldl₃
    | exact id
    | exact List.Subset.refl _
    | split
    | dsimp +zetaDelta -zeta only
    | with_reducible apply Kept.frame
    | intro _
    | dsimp only

theorem execDroopDetect_kept {s₀ s : State} {row : Fin 32} {dropMv : Nat} (hk : Kept s₀ s) : KeptR s₀ (execDroopDetect row dropMv s) := by
  unfold execDroopDetect
  repeat' first
    | with_reducible assumption
    | with_reducible apply KeptR.next
    | ((try lift_lets -underBinder); intro x; clear_value (hx : x = _); refine Kept.cut (a := s₀) hx ?_ (fun hk' => ?_); rotate_left; clear hx; rotate_right)
    | ((try lift_lets -underBinder); intro x)
    | with_reducible apply State.set_kept
    | (with_reducible apply Kept.of_eq2; with_reducible assumption)
    | (with_reducible apply Kept.of_eq3; with_reducible assumption)
    | (with_reducible apply Kept.of_eq4; with_reducible assumption)
    | with_reducible apply Kept.foldl
    | with_reducible apply Kept.foldl₁
    | with_reducible apply Kept.foldl₂
    | with_reducible apply Kept.foldl₃
    | exact id
    | exact List.Subset.refl _
    | split
    | dsimp +zetaDelta -zeta only
    | with_reducible apply Kept.frame
    | intro _
    | dsimp only

theorem execStretchRunEnd_kept {s₀ s : State} {h : Fin 4} {stillLow : Bool} (hk : Kept s₀ s) : KeptR s₀ (execStretchRunEnd h stillLow s) := by
  unfold execStretchRunEnd
  repeat' first
    | with_reducible assumption
    | with_reducible apply KeptR.next
    | ((try lift_lets -underBinder); intro x; clear_value (hx : x = _); refine Kept.cut (a := s₀) hx ?_ (fun hk' => ?_); rotate_left; clear hx; rotate_right)
    | ((try lift_lets -underBinder); intro x)
    | with_reducible apply State.set_kept
    | with_reducible apply State.count_kept
    | with_reducible apply State.droopCeiling_kept
    | (with_reducible apply Kept.of_eq2; with_reducible assumption)
    | (with_reducible apply Kept.of_eq3; with_reducible assumption)
    | (with_reducible apply Kept.of_eq4; with_reducible assumption)
    | with_reducible apply Kept.foldl
    | with_reducible apply Kept.foldl₁
    | with_reducible apply Kept.foldl₂
    | with_reducible apply Kept.foldl₃
    | exact id
    | exact List.Subset.refl _
    | split
    | dsimp +zetaDelta -zeta only
    | with_reducible apply Kept.frame
    | intro _
    | dsimp only

theorem execCeilingExpire_kept {s₀ s : State} {h : Fin 4} (hk : Kept s₀ s) : KeptR s₀ (execCeilingExpire h s) := by
  unfold execCeilingExpire
  repeat' first
    | with_reducible assumption
    | with_reducible apply KeptR.next
    | ((try lift_lets -underBinder); intro x; clear_value (hx : x = _); refine Kept.cut (a := s₀) hx ?_ (fun hk' => ?_); rotate_left; clear hx; rotate_right)
    | ((try lift_lets -underBinder); intro x)
    | with_reducible apply State.set_kept
    | with_reducible apply State.grantHalf_kept
    | (with_reducible apply Kept.of_eq2; with_reducible assumption)
    | (with_reducible apply Kept.of_eq3; with_reducible assumption)
    | (with_reducible apply Kept.of_eq4; with_reducible assumption)
    | with_reducible apply Kept.foldl
    | with_reducible apply Kept.foldl₁
    | with_reducible apply Kept.foldl₂
    | with_reducible apply Kept.foldl₃
    | exact id
    | exact List.Subset.refl _
    | split
    | dsimp +zetaDelta -zeta only
    | with_reducible apply Kept.frame
    | intro _
    | dsimp only

theorem execDroopCalibrate_kept {s₀ s : State} {_row : Fin 32} (hk : Kept s₀ s) : KeptR s₀ (execDroopCalibrate _row s) := by
  unfold execDroopCalibrate
  repeat' first
    | with_reducible assumption
    | with_reducible apply KeptR.next
    | ((try lift_lets -underBinder); intro x; clear_value (hx : x = _); refine Kept.cut (a := s₀) hx ?_ (fun hk' => ?_); rotate_left; clear hx; rotate_right)
    | ((try lift_lets -underBinder); intro x)
    | with_reducible apply State.set_kept
    | (with_reducible apply Kept.of_eq2; with_reducible assumption)
    | (with_reducible apply Kept.of_eq3; with_reducible assumption)
    | (with_reducible apply Kept.of_eq4; with_reducible assumption)
    | with_reducible apply Kept.foldl
    | with_reducible apply Kept.foldl₁
    | with_reducible apply Kept.foldl₂
    | with_reducible apply Kept.foldl₃
    | exact id
    | exact List.Subset.refl _
    | split
    | dsimp +zetaDelta -zeta only
    | with_reducible apply Kept.frame
    | intro _
    | dsimp only

theorem execPowerMeasure_kept {s₀ s : State} {watts mv current : Nat} (hk : Kept s₀ s) : KeptR s₀ (execPowerMeasure watts mv current s) := by
  unfold execPowerMeasure
  repeat' first
    | with_reducible assumption
    | with_reducible apply KeptR.next
    | ((try lift_lets -underBinder); intro x; clear_value (hx : x = _); refine Kept.cut (a := s₀) hx ?_ (fun hk' => ?_); rotate_left; clear hx; rotate_right)
    | ((try lift_lets -underBinder); intro x)
    | with_reducible apply State.set_kept
    | with_reducible apply State.setAll_kept
    | with_reducible apply State.lowerCeiling_kept
    | with_reducible apply State.transient_kept
    | (with_reducible apply Kept.of_eq2; with_reducible assumption)
    | (with_reducible apply Kept.of_eq3; with_reducible assumption)
    | (with_reducible apply Kept.of_eq4; with_reducible assumption)
    | with_reducible apply Kept.foldl
    | with_reducible apply Kept.foldl₁
    | with_reducible apply Kept.foldl₂
    | with_reducible apply Kept.foldl₃
    | exact id
    | exact List.Subset.refl _
    | split
    | dsimp +zetaDelta -zeta only
    | with_reducible apply Kept.frame
    | intro _
    | dsimp only

theorem execPowerAdjust_kept {s₀ s : State}  (hk : Kept s₀ s) : KeptR s₀ (execPowerAdjust s) := by
  unfold execPowerAdjust
  repeat' first
    | with_reducible assumption
    | with_reducible apply KeptR.next
    | ((try lift_lets -underBinder); intro x; clear_value (hx : x = _); refine Kept.cut (a := s₀) hx ?_ (fun hk' => ?_); rotate_left; clear hx; rotate_right)
    | ((try lift_lets -underBinder); intro x)
    | with_reducible apply State.set_kept
    | with_reducible apply State.report_kept
    | with_reducible apply State.grantAll_kept
    | with_reducible apply State.lowerCeiling_kept
    | (with_reducible apply Kept.of_eq2; with_reducible assumption)
    | (with_reducible apply Kept.of_eq3; with_reducible assumption)
    | (with_reducible apply Kept.of_eq4; with_reducible assumption)
    | with_reducible apply Kept.foldl
    | with_reducible apply Kept.foldl₁
    | with_reducible apply Kept.foldl₂
    | with_reducible apply Kept.foldl₃
    | exact id
    | exact List.Subset.refl _
    | split
    | dsimp +zetaDelta -zeta only
    | with_reducible apply Kept.frame
    | intro _
    | dsimp only

theorem execPaceRepeat_kept {s₀ s : State} {h : Fin 4} (hk : Kept s₀ s) : KeptR s₀ (execPaceRepeat h s) := by
  unfold execPaceRepeat
  repeat' first
    | with_reducible assumption
    | with_reducible apply KeptR.next
    | ((try lift_lets -underBinder); intro x; clear_value (hx : x = _); refine Kept.cut (a := s₀) hx ?_ (fun hk' => ?_); rotate_left; clear hx; rotate_right)
    | ((try lift_lets -underBinder); intro x)
    | with_reducible apply State.sendPace_kept
    | (with_reducible apply Kept.of_eq2; with_reducible assumption)
    | (with_reducible apply Kept.of_eq3; with_reducible assumption)
    | (with_reducible apply Kept.of_eq4; with_reducible assumption)
    | with_reducible apply Kept.foldl
    | with_reducible apply Kept.foldl₁
    | with_reducible apply Kept.foldl₂
    | with_reducible apply Kept.foldl₃
    | exact id
    | exact List.Subset.refl _
    | split
    | dsimp +zetaDelta -zeta only
    | with_reducible apply Kept.frame
    | intro _
    | dsimp only

theorem execPace_kept {s₀ s : State} {uid : BitVec 64} {point : BitVec 2} (hk : Kept s₀ s) : KeptR s₀ (execPace uid point s) := by
  unfold execPace
  repeat' first
    | with_reducible assumption
    | with_reducible apply KeptR.next
    | ((try lift_lets -underBinder); intro x; clear_value (hx : x = _); refine Kept.cut (a := s₀) hx ?_ (fun hk' => ?_); rotate_left; clear hx; rotate_right)
    | ((try lift_lets -underBinder); intro x)
    | with_reducible apply State.set_kept
    | with_reducible apply State.count_kept
    | with_reducible apply State.grantAll_kept
    | (with_reducible apply Kept.of_eq2; with_reducible assumption)
    | (with_reducible apply Kept.of_eq3; with_reducible assumption)
    | (with_reducible apply Kept.of_eq4; with_reducible assumption)
    | with_reducible apply Kept.foldl
    | with_reducible apply Kept.foldl₁
    | with_reducible apply Kept.foldl₂
    | with_reducible apply Kept.foldl₃
    | exact id
    | exact List.Subset.refl _
    | split
    | dsimp +zetaDelta -zeta only
    | with_reducible apply Kept.frame
    | intro _
    | dsimp only

theorem execPaceCapExpire_kept {s₀ s : State} {b : Fin 64} (hk : Kept s₀ s) : KeptR s₀ (execPaceCapExpire b s) := by
  unfold execPaceCapExpire
  repeat' first
    | with_reducible assumption
    | with_reducible apply KeptR.next
    | ((try lift_lets -underBinder); intro x; clear_value (hx : x = _); refine Kept.cut (a := s₀) hx ?_ (fun hk' => ?_); rotate_left; clear hx; rotate_right)
    | ((try lift_lets -underBinder); intro x)
    | with_reducible apply State.set_kept
    | with_reducible apply State.grantAll_kept
    | (with_reducible apply Kept.of_eq2; with_reducible assumption)
    | (with_reducible apply Kept.of_eq3; with_reducible assumption)
    | (with_reducible apply Kept.of_eq4; with_reducible assumption)
    | with_reducible apply Kept.foldl
    | with_reducible apply Kept.foldl₁
    | with_reducible apply Kept.foldl₂
    | with_reducible apply Kept.foldl₃
    | exact id
    | exact List.Subset.refl _
    | split
    | dsimp +zetaDelta -zeta only
    | with_reducible apply Kept.frame
    | intro _
    | dsimp only

theorem execTempSample_kept {s₀ s : State} {sensor : Fin 14} {c : BitVec 8} (hk : Kept s₀ s) : KeptR s₀ (execTempSample sensor c s) := by
  unfold execTempSample
  repeat' first
    | with_reducible assumption
    | with_reducible apply KeptR.next
    | ((try lift_lets -underBinder); intro x; clear_value (hx : x = _); refine Kept.cut (a := s₀) hx ?_ (fun hk' => ?_); rotate_left; clear hx; rotate_right)
    | ((try lift_lets -underBinder); intro x)
    | with_reducible apply State.set_kept
    | with_reducible apply State.setAll_kept
    | with_reducible apply State.report_kept
    | with_reducible apply State.grantAll_kept
    | with_reducible apply State.driveTherm_kept
    | with_reducible apply State.criticalHalf_kept
    | (with_reducible apply Kept.of_eq2; with_reducible assumption)
    | (with_reducible apply Kept.of_eq3; with_reducible assumption)
    | (with_reducible apply Kept.of_eq4; with_reducible assumption)
    | with_reducible apply Kept.foldl
    | with_reducible apply Kept.foldl₁
    | with_reducible apply Kept.foldl₂
    | with_reducible apply Kept.foldl₃
    | exact id
    | exact List.Subset.refl _
    | split
    | dsimp +zetaDelta -zeta only
    | with_reducible apply Kept.frame
    | intro _
    | dsimp only

theorem execThermalCapStep_kept {s₀ s : State} {h : Fin 4} (hk : Kept s₀ s) : KeptR s₀ (execThermalCapStep h s) := by
  unfold execThermalCapStep
  repeat' first
    | with_reducible assumption
    | with_reducible apply KeptR.next
    | ((try lift_lets -underBinder); intro x; clear_value (hx : x = _); refine Kept.cut (a := s₀) hx ?_ (fun hk' => ?_); rotate_left; clear hx; rotate_right)
    | ((try lift_lets -underBinder); intro x)
    | with_reducible apply State.set_kept
    | with_reducible apply State.grantAll_kept
    | (with_reducible apply Kept.of_eq2; with_reducible assumption)
    | (with_reducible apply Kept.of_eq3; with_reducible assumption)
    | (with_reducible apply Kept.of_eq4; with_reducible assumption)
    | with_reducible apply Kept.foldl
    | with_reducible apply Kept.foldl₁
    | with_reducible apply Kept.foldl₂
    | with_reducible apply Kept.foldl₃
    | exact id
    | exact List.Subset.refl _
    | split
    | dsimp +zetaDelta -zeta only
    | with_reducible apply Kept.frame
    | intro _
    | dsimp only

theorem execTempClearPeaks_kept {s₀ s : State} {a : Agent} {v : Word32} (hk : Kept s₀ s) : KeptR s₀ (execTempClearPeaks a v s) := by
  unfold execTempClearPeaks
  repeat' first
    | with_reducible assumption
    | with_reducible apply KeptR.next
    | ((try lift_lets -underBinder); intro x; clear_value (hx : x = _); refine Kept.cut (a := s₀) hx ?_ (fun hk' => ?_); rotate_left; clear hx; rotate_right)
    | ((try lift_lets -underBinder); intro x)
    | with_reducible apply State.set_kept
    | (with_reducible apply Kept.of_eq2; with_reducible assumption)
    | (with_reducible apply Kept.of_eq3; with_reducible assumption)
    | (with_reducible apply Kept.of_eq4; with_reducible assumption)
    | with_reducible apply Kept.foldl
    | with_reducible apply Kept.foldl₁
    | with_reducible apply Kept.foldl₂
    | with_reducible apply Kept.foldl₃
    | exact id
    | exact List.Subset.refl _
    | split
    | dsimp +zetaDelta -zeta only
    | with_reducible apply Kept.frame
    | intro _
    | dsimp only

theorem execPowerInputApply_kept {s₀ s : State} {mv heldUs : Nat} (hk : Kept s₀ s) : KeptR s₀ (execPowerInputApply mv heldUs s) := by
  unfold execPowerInputApply
  split
  · refine KeptR.next (hk.trans ⟨rfl, List.prefix_refl _, Nat.le_refl _, Fuses.le_refl _, id, fun x => ?_, fun x => ?_, List.Subset.refl _⟩)
    · first
        | exact x
        | exact Sparse.rising_set _ x _ _
    · simp_all
  · exact KeptR.next hk

theorem execPerstRelease_kept {s₀ s : State} (hk : Kept s₀ s) : KeptR s₀ (execPerstRelease s) := by
  unfold execPerstRelease
  split
  · rename_i h
    refine KeptR.next (State.driveTherm_kept (State.driveErr_kept (State.setAll_kept _ _ (hk.trans
      ⟨rfl, List.prefix_refl _, Nat.le_refl _, Fuses.le_refl _, id, id, fun x => ?_, List.Subset.refl _⟩))))
    rw [h] at x
    cases x
  · exact KeptR.next hk

theorem execI3cModuleWrite_kept {s₀ s : State} {module : ModuleId} (hk : Kept s₀ s) : KeptR s₀ (execI3cModuleWrite module s) := by
  unfold execI3cModuleWrite
  repeat' first
    | with_reducible assumption
    | with_reducible apply KeptR.next
    | ((try lift_lets -underBinder); intro x; clear_value (hx : x = _); refine Kept.cut (a := s₀) hx ?_ (fun hk' => ?_); rotate_left; clear hx; rotate_right)
    | ((try lift_lets -underBinder); intro x)
    | with_reducible apply State.setAll_kept
    | with_reducible apply State.refreshServing_kept
    | (with_reducible apply Kept.of_eq2; with_reducible assumption)
    | (with_reducible apply Kept.of_eq3; with_reducible assumption)
    | (with_reducible apply Kept.of_eq4; with_reducible assumption)
    | with_reducible apply Kept.foldl
    | with_reducible apply Kept.foldl₁
    | with_reducible apply Kept.foldl₂
    | with_reducible apply Kept.foldl₃
    | exact id
    | exact List.Subset.refl _
    | split
    | dsimp +zetaDelta -zeta only
    | with_reducible apply Kept.frame
    | intro _
    | dsimp only

theorem execI3cDynamicAddress_kept {s₀ s : State} {addr : BitVec 7} (hk : Kept s₀ s) : KeptR s₀ (execI3cDynamicAddress addr s) := by
  unfold execI3cDynamicAddress
  repeat' first
    | with_reducible assumption
    | with_reducible apply KeptR.next
    | ((try lift_lets -underBinder); intro x; clear_value (hx : x = _); refine Kept.cut (a := s₀) hx ?_ (fun hk' => ?_); rotate_left; clear hx; rotate_right)
    | ((try lift_lets -underBinder); intro x)
    | (with_reducible apply Kept.of_eq2; with_reducible assumption)
    | (with_reducible apply Kept.of_eq3; with_reducible assumption)
    | (with_reducible apply Kept.of_eq4; with_reducible assumption)
    | with_reducible apply Kept.foldl
    | with_reducible apply Kept.foldl₁
    | with_reducible apply Kept.foldl₂
    | with_reducible apply Kept.foldl₃
    | exact id
    | exact List.Subset.refl _
    | split
    | dsimp +zetaDelta -zeta only
    | with_reducible apply Kept.frame
    | intro _
    | dsimp only

theorem execCoreRelease_kept {s₀ s : State} {highSamples : Nat} (hk : Kept s₀ s) : KeptR s₀ (execCoreRelease highSamples s) := by
  unfold execCoreRelease
  repeat' first
    | with_reducible assumption
    | with_reducible apply KeptR.next
    | ((try lift_lets -underBinder); intro x; clear_value (hx : x = _); refine Kept.cut (a := s₀) hx ?_ (fun hk' => ?_); rotate_left; clear hx; rotate_right)
    | ((try lift_lets -underBinder); intro x)
    | with_reducible apply State.refreshServing_kept
    | (with_reducible apply Kept.of_eq2; with_reducible assumption)
    | (with_reducible apply Kept.of_eq3; with_reducible assumption)
    | (with_reducible apply Kept.of_eq4; with_reducible assumption)
    | with_reducible apply Kept.foldl
    | with_reducible apply Kept.foldl₁
    | with_reducible apply Kept.foldl₂
    | with_reducible apply Kept.foldl₃
    | exact id
    | exact List.Subset.refl _
    | split
    | dsimp +zetaDelta -zeta only
    | with_reducible apply Kept.frame
    | intro _
    | dsimp only

theorem execReseatManifest_kept {s₀ s : State} {a : Agent} {v : Word32} (hk : Kept s₀ s) : KeptR s₀ (execReseatManifest a v s) := by
  unfold execReseatManifest
  repeat' first
    | with_reducible assumption
    | with_reducible apply KeptR.next
    | ((try lift_lets -underBinder); intro x; clear_value (hx : x = _); refine Kept.cut (a := s₀) hx ?_ (fun hk' => ?_); rotate_left; clear hx; rotate_right)
    | ((try lift_lets -underBinder); intro x)
    | with_reducible apply State.reseatGo_kept
    | (with_reducible apply Kept.of_eq2; with_reducible assumption)
    | (with_reducible apply Kept.of_eq3; with_reducible assumption)
    | (with_reducible apply Kept.of_eq4; with_reducible assumption)
    | with_reducible apply Kept.foldl
    | with_reducible apply Kept.foldl₁
    | with_reducible apply Kept.foldl₂
    | with_reducible apply Kept.foldl₃
    | exact id
    | exact List.Subset.refl _
    | split
    | dsimp +zetaDelta -zeta only
    | with_reducible apply Kept.frame
    | intro _
    | dsimp only

theorem execReseatFirmware_kept {s₀ s : State} {a : Agent} {v : Word32} (hk : Kept s₀ s) : KeptR s₀ (execReseatFirmware a v s) := by
  unfold execReseatFirmware
  repeat' first
    | with_reducible assumption
    | with_reducible apply KeptR.next
    | ((try lift_lets -underBinder); intro x; clear_value (hx : x = _); refine Kept.cut (a := s₀) hx ?_ (fun hk' => ?_); rotate_left; clear hx; rotate_right)
    | ((try lift_lets -underBinder); intro x)
    | with_reducible apply State.reseatGo_kept
    | (with_reducible apply Kept.of_eq2; with_reducible assumption)
    | (with_reducible apply Kept.of_eq3; with_reducible assumption)
    | (with_reducible apply Kept.of_eq4; with_reducible assumption)
    | with_reducible apply Kept.foldl
    | with_reducible apply Kept.foldl₁
    | with_reducible apply Kept.foldl₂
    | with_reducible apply Kept.foldl₃
    | exact id
    | exact List.Subset.refl _
    | split
    | dsimp +zetaDelta -zeta only
    | with_reducible apply Kept.frame
    | intro _
    | dsimp only

theorem execReseatBoth_kept {s₀ s : State} {a : Agent} {v : Word32} (hk : Kept s₀ s) : KeptR s₀ (execReseatBoth a v s) := by
  unfold execReseatBoth
  repeat' first
    | with_reducible assumption
    | with_reducible apply KeptR.next
    | ((try lift_lets -underBinder); intro x; clear_value (hx : x = _); refine Kept.cut (a := s₀) hx ?_ (fun hk' => ?_); rotate_left; clear hx; rotate_right)
    | ((try lift_lets -underBinder); intro x)
    | with_reducible apply State.reseatGo_kept
    | (with_reducible apply Kept.of_eq2; with_reducible assumption)
    | (with_reducible apply Kept.of_eq3; with_reducible assumption)
    | (with_reducible apply Kept.of_eq4; with_reducible assumption)
    | with_reducible apply Kept.foldl
    | with_reducible apply Kept.foldl₁
    | with_reducible apply Kept.foldl₂
    | with_reducible apply Kept.foldl₃
    | exact id
    | exact List.Subset.refl _
    | split
    | dsimp +zetaDelta -zeta only
    | with_reducible apply Kept.frame
    | intro _
    | dsimp only

theorem execSpdmRequest_kept {s₀ s : State} {r : SpdmRequest} (hk : Kept s₀ s) : KeptR s₀ (execSpdmRequest r s) := by
  unfold execSpdmRequest
  repeat' first
    | with_reducible assumption
    | with_reducible apply KeptR.next
    | ((try lift_lets -underBinder); intro x; clear_value (hx : x = _); refine Kept.cut (a := s₀) hx ?_ (fun hk' => ?_); rotate_left; clear hx; rotate_right)
    | ((try lift_lets -underBinder); intro x)
    | with_reducible apply State.spdm_kept
    | (with_reducible apply Kept.of_eq2; with_reducible assumption)
    | (with_reducible apply Kept.of_eq3; with_reducible assumption)
    | (with_reducible apply Kept.of_eq4; with_reducible assumption)
    | with_reducible apply Kept.foldl
    | with_reducible apply Kept.foldl₁
    | with_reducible apply Kept.foldl₂
    | with_reducible apply Kept.foldl₃
    | exact id
    | exact List.Subset.refl _
    | split
    | dsimp +zetaDelta -zeta only
    | with_reducible apply Kept.frame
    | intro _
    | dsimp only

theorem execNegotiateAlgorithms_kept {s₀ s : State} {p521 sha512 secp521r1 aes256gcm : Bool} (hk : Kept s₀ s) : KeptR s₀ (execNegotiateAlgorithms p521 sha512 secp521r1 aes256gcm s) := by
  unfold execNegotiateAlgorithms
  repeat' first
    | with_reducible assumption
    | with_reducible apply KeptR.next
    | ((try lift_lets -underBinder); intro x; clear_value (hx : x = _); refine Kept.cut (a := s₀) hx ?_ (fun hk' => ?_); rotate_left; clear hx; rotate_right)
    | ((try lift_lets -underBinder); intro x)
    | with_reducible apply State.spdm_kept
    | (with_reducible apply Kept.of_eq2; with_reducible assumption)
    | (with_reducible apply Kept.of_eq3; with_reducible assumption)
    | (with_reducible apply Kept.of_eq4; with_reducible assumption)
    | with_reducible apply Kept.foldl
    | with_reducible apply Kept.foldl₁
    | with_reducible apply Kept.foldl₂
    | with_reducible apply Kept.foldl₃
    | exact id
    | exact List.Subset.refl _
    | split
    | dsimp +zetaDelta -zeta only
    | with_reducible apply Kept.frame
    | intro _
    | dsimp only

theorem execGetMeasurements_kept {s₀ s : State} {index : BitVec 8} (hk : Kept s₀ s) : KeptR s₀ (execGetMeasurements index s) := by
  unfold execGetMeasurements
  repeat' first
    | with_reducible assumption
    | with_reducible apply KeptR.next
    | ((try lift_lets -underBinder); intro x; clear_value (hx : x = _); refine Kept.cut (a := s₀) hx ?_ (fun hk' => ?_); rotate_left; clear hx; rotate_right)
    | ((try lift_lets -underBinder); intro x)
    | with_reducible apply State.spdm_kept
    | (with_reducible apply Kept.of_eq2; with_reducible assumption)
    | (with_reducible apply Kept.of_eq3; with_reducible assumption)
    | (with_reducible apply Kept.of_eq4; with_reducible assumption)
    | with_reducible apply Kept.foldl
    | with_reducible apply Kept.foldl₁
    | with_reducible apply Kept.foldl₂
    | with_reducible apply Kept.foldl₃
    | exact id
    | exact List.Subset.refl _
    | split
    | dsimp +zetaDelta -zeta only
    | with_reducible apply Kept.frame
    | intro _
    | dsimp only

theorem execGetBinding_kept {s₀ s : State} (hk : Kept s₀ s) : KeptR s₀ (execGetBinding s) := by
  unfold execGetBinding
  repeat' first
    | with_reducible assumption
    | with_reducible apply KeptR.next
    | ((try lift_lets -underBinder); intro x; clear_value (hx : x = _); refine Kept.cut (a := s₀) hx ?_ (fun hk' => ?_); rotate_left; clear hx; rotate_right)
    | ((try lift_lets -underBinder); intro x)
    | with_reducible apply State.spdm_kept
    | (with_reducible apply Kept.of_eq2; with_reducible assumption)
    | (with_reducible apply Kept.of_eq3; with_reducible assumption)
    | (with_reducible apply Kept.of_eq4; with_reducible assumption)
    | with_reducible apply Kept.foldl
    | with_reducible apply Kept.foldl₁
    | with_reducible apply Kept.foldl₂
    | with_reducible apply Kept.foldl₃
    | exact id
    | exact List.Subset.refl _
    | split
    | dsimp +zetaDelta -zeta only
    | with_reducible apply Kept.frame
    | intro _
    | dsimp only

theorem execClipWindowClose_kept {s₀ s : State} {core : Fin 256} {slot : Fin 8} (hk : Kept s₀ s) : KeptR s₀ (execClipWindowClose core slot s) := by
  unfold execClipWindowClose
  repeat' first
    | with_reducible assumption
    | with_reducible apply KeptR.next
    | ((try lift_lets -underBinder); intro x; clear_value (hx : x = _); refine Kept.cut (a := s₀) hx ?_ (fun hk' => ?_); rotate_left; clear hx; rotate_right)
    | ((try lift_lets -underBinder); intro x)
    | with_reducible apply State.closeWindow_kept
    | (with_reducible apply Kept.of_eq2; with_reducible assumption)
    | (with_reducible apply Kept.of_eq3; with_reducible assumption)
    | (with_reducible apply Kept.of_eq4; with_reducible assumption)
    | with_reducible apply Kept.foldl
    | with_reducible apply Kept.foldl₁
    | with_reducible apply Kept.foldl₂
    | with_reducible apply Kept.foldl₃
    | exact id
    | exact List.Subset.refl _
    | split
    | dsimp +zetaDelta -zeta only
    | with_reducible apply Kept.frame
    | intro _
    | dsimp only

theorem execEditInvalidate_kept {s₀ s : State} {p : Fin 32} {v : Word32} (hk : Kept s₀ s) : KeptR s₀ (execEditInvalidate p v s) := by
  unfold execEditInvalidate
  repeat' first
    | with_reducible assumption
    | with_reducible apply KeptR.next
    | ((try lift_lets -underBinder); intro x; clear_value (hx : x = _); refine Kept.cut (a := s₀) hx ?_ (fun hk' => ?_); rotate_left; clear hx; rotate_right)
    | ((try lift_lets -underBinder); intro x)
    | with_reducible apply State.editCmd_kept
    | with_reducible apply State.editRange_kept
    | (with_reducible apply Kept.of_eq2; with_reducible assumption)
    | (with_reducible apply Kept.of_eq3; with_reducible assumption)
    | (with_reducible apply Kept.of_eq4; with_reducible assumption)
    | with_reducible apply Kept.foldl
    | with_reducible apply Kept.foldl₁
    | with_reducible apply Kept.foldl₂
    | with_reducible apply Kept.foldl₃
    | exact id
    | exact List.Subset.refl _
    | split
    | dsimp +zetaDelta -zeta only
    | with_reducible apply Kept.frame
    | intro _
    | dsimp only

theorem execEditUnmap_kept {s₀ s : State} {p : Fin 32} {v : Word32} (hk : Kept s₀ s) : KeptR s₀ (execEditUnmap p v s) := by
  unfold execEditUnmap
  repeat' first
    | with_reducible assumption
    | with_reducible apply KeptR.next
    | ((try lift_lets -underBinder); intro x; clear_value (hx : x = _); refine Kept.cut (a := s₀) hx ?_ (fun hk' => ?_); rotate_left; clear hx; rotate_right)
    | ((try lift_lets -underBinder); intro x)
    | with_reducible apply State.editCmd_kept
    | with_reducible apply State.editRange_kept
    | (with_reducible apply Kept.of_eq2; with_reducible assumption)
    | (with_reducible apply Kept.of_eq3; with_reducible assumption)
    | (with_reducible apply Kept.of_eq4; with_reducible assumption)
    | with_reducible apply Kept.foldl
    | with_reducible apply Kept.foldl₁
    | with_reducible apply Kept.foldl₂
    | with_reducible apply Kept.foldl₃
    | exact id
    | exact List.Subset.refl _
    | split
    | dsimp +zetaDelta -zeta only
    | with_reducible apply Kept.frame
    | intro _
    | dsimp only

theorem execEditSetRights_kept {s₀ s : State} {p : Fin 32} {v : Word32} (hk : Kept s₀ s) : KeptR s₀ (execEditSetRights p v s) := by
  unfold execEditSetRights
  repeat' first
    | with_reducible assumption
    | with_reducible apply KeptR.next
    | ((try lift_lets -underBinder); intro x; clear_value (hx : x = _); refine Kept.cut (a := s₀) hx ?_ (fun hk' => ?_); rotate_left; clear hx; rotate_right)
    | ((try lift_lets -underBinder); intro x)
    | with_reducible apply State.editCmd_kept
    | with_reducible apply State.editRange_kept
    | (with_reducible apply Kept.of_eq2; with_reducible assumption)
    | (with_reducible apply Kept.of_eq3; with_reducible assumption)
    | (with_reducible apply Kept.of_eq4; with_reducible assumption)
    | with_reducible apply Kept.foldl
    | with_reducible apply Kept.foldl₁
    | with_reducible apply Kept.foldl₂
    | with_reducible apply Kept.foldl₃
    | exact id
    | exact List.Subset.refl _
    | split
    | dsimp +zetaDelta -zeta only
    | with_reducible apply Kept.frame
    | intro _
    | dsimp only

theorem execEditObjCreate_kept {s₀ s : State} {p : Fin 32} {v : Word32} (hk : Kept s₀ s) : KeptR s₀ (execEditObjCreate p v s) := by
  unfold execEditObjCreate
  repeat' first
    | with_reducible assumption
    | with_reducible apply KeptR.next
    | ((try lift_lets -underBinder); intro x; clear_value (hx : x = _); refine Kept.cut (a := s₀) hx ?_ (fun hk' => ?_); rotate_left; clear hx; rotate_right)
    | ((try lift_lets -underBinder); intro x)
    | with_reducible apply State.editCmd_kept
    | with_reducible apply State.editObject_kept
    | (with_reducible apply Kept.of_eq2; with_reducible assumption)
    | (with_reducible apply Kept.of_eq3; with_reducible assumption)
    | (with_reducible apply Kept.of_eq4; with_reducible assumption)
    | with_reducible apply Kept.foldl
    | with_reducible apply Kept.foldl₁
    | with_reducible apply Kept.foldl₂
    | with_reducible apply Kept.foldl₃
    | exact id
    | exact List.Subset.refl _
    | split
    | dsimp +zetaDelta -zeta only
    | with_reducible apply Kept.frame
    | intro _
    | dsimp only

theorem execEditObjFree_kept {s₀ s : State} {p : Fin 32} {v : Word32} (hk : Kept s₀ s) : KeptR s₀ (execEditObjFree p v s) := by
  unfold execEditObjFree
  repeat' first
    | with_reducible assumption
    | with_reducible apply KeptR.next
    | ((try lift_lets -underBinder); intro x; clear_value (hx : x = _); refine Kept.cut (a := s₀) hx ?_ (fun hk' => ?_); rotate_left; clear hx; rotate_right)
    | ((try lift_lets -underBinder); intro x)
    | with_reducible apply State.editCmd_kept
    | with_reducible apply State.editObject_kept
    | (with_reducible apply Kept.of_eq2; with_reducible assumption)
    | (with_reducible apply Kept.of_eq3; with_reducible assumption)
    | (with_reducible apply Kept.of_eq4; with_reducible assumption)
    | with_reducible apply Kept.foldl
    | with_reducible apply Kept.foldl₁
    | with_reducible apply Kept.foldl₂
    | with_reducible apply Kept.foldl₃
    | exact id
    | exact List.Subset.refl _
    | split
    | dsimp +zetaDelta -zeta only
    | with_reducible apply Kept.frame
    | intro _
    | dsimp only

theorem execEditFrameReserve_kept {s₀ s : State} {p : Fin 32} {v : Word32} (hk : Kept s₀ s) : KeptR s₀ (execEditFrameReserve p v s) := by
  unfold execEditFrameReserve
  repeat' first
    | with_reducible assumption
    | with_reducible apply KeptR.next
    | ((try lift_lets -underBinder); intro x; clear_value (hx : x = _); refine Kept.cut (a := s₀) hx ?_ (fun hk' => ?_); rotate_left; clear hx; rotate_right)
    | ((try lift_lets -underBinder); intro x)
    | with_reducible apply State.set_kept
    | with_reducible apply State.setFrame_kept
    | with_reducible apply State.editError_kept
    | with_reducible apply State.editCmd_kept
    | (with_reducible apply Kept.of_eq2; with_reducible assumption)
    | (with_reducible apply Kept.of_eq3; with_reducible assumption)
    | (with_reducible apply Kept.of_eq4; with_reducible assumption)
    | with_reducible apply Kept.foldl
    | with_reducible apply Kept.foldl₁
    | with_reducible apply Kept.foldl₂
    | with_reducible apply Kept.foldl₃
    | exact id
    | exact List.Subset.refl _
    | split
    | dsimp +zetaDelta -zeta only
    | with_reducible apply Kept.frame
    | intro _
    | dsimp only

theorem execEditFrameRelease_kept {s₀ s : State} {p : Fin 32} {v : Word32} (hk : Kept s₀ s) : KeptR s₀ (execEditFrameRelease p v s) := by
  unfold execEditFrameRelease
  repeat' first
    | with_reducible assumption
    | with_reducible apply KeptR.next
    | ((try lift_lets -underBinder); intro x; clear_value (hx : x = _); refine Kept.cut (a := s₀) hx ?_ (fun hk' => ?_); rotate_left; clear hx; rotate_right)
    | ((try lift_lets -underBinder); intro x)
    | with_reducible apply State.set_kept
    | with_reducible apply State.bump_kept
    | with_reducible apply State.setFrame_kept
    | with_reducible apply State.editError_kept
    | with_reducible apply State.editCmd_kept
    | (with_reducible apply Kept.of_eq2; with_reducible assumption)
    | (with_reducible apply Kept.of_eq3; with_reducible assumption)
    | (with_reducible apply Kept.of_eq4; with_reducible assumption)
    | with_reducible apply Kept.foldl
    | with_reducible apply Kept.foldl₁
    | with_reducible apply Kept.foldl₂
    | with_reducible apply Kept.foldl₃
    | exact id
    | exact List.Subset.refl _
    | split
    | dsimp +zetaDelta -zeta only
    | with_reducible apply Kept.frame
    | intro _
    | dsimp only

theorem execEditDrainDone_kept {s₀ s : State} {p : Fin 32} (hk : Kept s₀ s) : KeptR s₀ (execEditDrainDone p s) := by
  unfold execEditDrainDone
  repeat' first
    | with_reducible assumption
    | with_reducible apply KeptR.next
    | ((try lift_lets -underBinder); intro x; clear_value (hx : x = _); refine Kept.cut (a := s₀) hx ?_ (fun hk' => ?_); rotate_left; clear hx; rotate_right)
    | ((try lift_lets -underBinder); intro x)
    | with_reducible apply State.editsGoOn_kept
    | (with_reducible apply Kept.of_eq2; with_reducible assumption)
    | (with_reducible apply Kept.of_eq3; with_reducible assumption)
    | (with_reducible apply Kept.of_eq4; with_reducible assumption)
    | with_reducible apply Kept.foldl
    | with_reducible apply Kept.foldl₁
    | with_reducible apply Kept.foldl₂
    | with_reducible apply Kept.foldl₃
    | exact id
    | exact List.Subset.refl _
    | split
    | dsimp +zetaDelta -zeta only
    | with_reducible apply Kept.frame
    | intro _
    | dsimp only

theorem execQuantumExpire_kept {s₀ s : State} {core : Fin 256} (hk : Kept s₀ s) : KeptR s₀ (execQuantumExpire core s) := by
  unfold execQuantumExpire
  repeat' first
    | with_reducible assumption
    | with_reducible apply KeptR.next
    | ((try lift_lets -underBinder); intro x; clear_value (hx : x = _); refine Kept.cut (a := s₀) hx ?_ (fun hk' => ?_); rotate_left; clear hx; rotate_right)
    | ((try lift_lets -underBinder); intro x)
    | with_reducible apply State.charge_kept
    | with_reducible apply State.choose_kept
    | (with_reducible apply Kept.of_eq2; with_reducible assumption)
    | (with_reducible apply Kept.of_eq3; with_reducible assumption)
    | (with_reducible apply Kept.of_eq4; with_reducible assumption)
    | with_reducible apply Kept.foldl
    | with_reducible apply Kept.foldl₁
    | with_reducible apply Kept.foldl₂
    | with_reducible apply Kept.foldl₃
    | exact id
    | exact List.Subset.refl _
    | split
    | dsimp +zetaDelta -zeta only
    | with_reducible apply Kept.frame
    | intro _
    | dsimp only

theorem execSubmissionWrite_kept {s₀ s : State} {p : Fin 32} {q : Fin 1024} {off : BitVec 12} {bytes : List Byte} {ide : Bool} (hk : Kept s₀ s) : KeptR s₀ (execSubmissionWrite p q off bytes ide s) := by
  unfold execSubmissionWrite
  repeat' first
    | with_reducible assumption
    | with_reducible apply KeptR.next
    | ((try lift_lets -underBinder); intro x; clear_value (hx : x = _); refine Kept.cut (a := s₀) hx ?_ (fun hk' => ?_); rotate_left; clear hx; rotate_right)
    | ((try lift_lets -underBinder); intro x)
    | with_reducible apply State.report_kept
    | with_reducible apply State.pushEntry_kept
    | with_reducible apply State.dropEntry_kept
    | with_reducible apply State.tdispError_kept
    | (with_reducible apply Kept.of_eq2; with_reducible assumption)
    | (with_reducible apply Kept.of_eq3; with_reducible assumption)
    | (with_reducible apply Kept.of_eq4; with_reducible assumption)
    | with_reducible apply Kept.foldl
    | with_reducible apply Kept.foldl₁
    | with_reducible apply Kept.foldl₂
    | with_reducible apply Kept.foldl₃
    | exact id
    | exact List.Subset.refl _
    | split
    | dsimp +zetaDelta -zeta only
    | with_reducible apply Kept.frame
    | intro _
    | dsimp only

theorem execQueueFill_kept {s₀ s : State} {q : Fin 1024} (hk : Kept s₀ s) : KeptR s₀ (execQueueFill q s) := by
  unfold execQueueFill
  repeat' first
    | with_reducible assumption
    | with_reducible apply KeptR.next
    | ((try lift_lets -underBinder); intro x; clear_value (hx : x = _); refine Kept.cut (a := s₀) hx ?_ (fun hk' => ?_); rotate_left; clear hx; rotate_right)
    | ((try lift_lets -underBinder); intro x)
    | with_reducible apply State.fillQueue_kept
    | (with_reducible apply Kept.of_eq2; with_reducible assumption)
    | (with_reducible apply Kept.of_eq3; with_reducible assumption)
    | (with_reducible apply Kept.of_eq4; with_reducible assumption)
    | with_reducible apply Kept.foldl
    | with_reducible apply Kept.foldl₁
    | with_reducible apply Kept.foldl₂
    | with_reducible apply Kept.foldl₃
    | exact id
    | exact List.Subset.refl _
    | split
    | dsimp +zetaDelta -zeta only
    | with_reducible apply Kept.frame
    | intro _
    | dsimp only

theorem execCompletionPop_kept {s₀ s : State} {p : Fin 32} {q : Fin 1024} {off : BitVec 12} {len : Nat} (hk : Kept s₀ s) : KeptR s₀ (execCompletionPop p q off len s) := by
  unfold execCompletionPop
  repeat' first
    | with_reducible assumption
    | with_reducible apply KeptR.next
    | ((try lift_lets -underBinder); intro x; clear_value (hx : x = _); refine Kept.cut (a := s₀) hx ?_ (fun hk' => ?_); rotate_left; clear hx; rotate_right)
    | ((try lift_lets -underBinder); intro x)
    | with_reducible apply State.emit_kept
    | with_reducible apply State.setQueue_kept
    | with_reducible apply State.serveReads_kept
    | with_reducible apply State.fillQueue_kept
    | (with_reducible apply Kept.of_eq2; with_reducible assumption)
    | (with_reducible apply Kept.of_eq3; with_reducible assumption)
    | (with_reducible apply Kept.of_eq4; with_reducible assumption)
    | with_reducible apply Kept.foldl
    | with_reducible apply Kept.foldl₁
    | with_reducible apply Kept.foldl₂
    | with_reducible apply Kept.foldl₃
    | exact id
    | exact List.Subset.refl _
    | split
    | dsimp +zetaDelta -zeta only
    | with_reducible apply Kept.frame
    | intro _
    | dsimp only

theorem execCompletionPost_kept {s₀ s : State} {ctx : Fin 2048} (hk : Kept s₀ s) : KeptR s₀ (execCompletionPost ctx s) := by
  unfold execCompletionPost
  repeat' first
    | with_reducible assumption
    | with_reducible apply KeptR.next
    | ((try lift_lets -underBinder); intro x; clear_value (hx : x = _); refine Kept.cut (a := s₀) hx ?_ (fun hk' => ?_); rotate_left; clear hx; rotate_right)
    | ((try lift_lets -underBinder); intro x)
    | with_reducible apply State.pushEntry_kept
    | with_reducible apply State.cmdOver_kept
    | (with_reducible apply Kept.of_eq2; with_reducible assumption)
    | (with_reducible apply Kept.of_eq3; with_reducible assumption)
    | (with_reducible apply Kept.of_eq4; with_reducible assumption)
    | with_reducible apply Kept.foldl
    | with_reducible apply Kept.foldl₁
    | with_reducible apply Kept.foldl₂
    | with_reducible apply Kept.foldl₃
    | exact id
    | exact List.Subset.refl _
    | split
    | dsimp +zetaDelta -zeta only
    | with_reducible apply Kept.frame
    | intro _
    | dsimp only

theorem execCmdIdle_kept {s₀ s : State} {ctx : Fin 2048} (hk : Kept s₀ s) : KeptR s₀ (execCmdIdle ctx s) := by
  unfold execCmdIdle
  repeat' first
    | with_reducible assumption
    | with_reducible apply KeptR.next
    | with_reducible apply State.takeCmd_kept
    | ((try lift_lets -underBinder); intro x; clear_value (hx : x = _); refine Kept.cut (a := s₀) hx ?_ (fun hk' => ?_); rotate_left; clear hx; rotate_right)
    | ((try lift_lets -underBinder); intro x)
    | with_reducible apply State.onCtx_kept
    | with_reducible apply State.finishCmd_kept
    | (with_reducible apply Kept.of_eq2; with_reducible assumption)
    | (with_reducible apply Kept.of_eq3; with_reducible assumption)
    | (with_reducible apply Kept.of_eq4; with_reducible assumption)
    | (with_reducible apply Kept.of_some; with_reducible assumption)
    | (with_reducible apply Kept.of_some3; with_reducible assumption)
    | (with_reducible apply Kept.of_someS; with_reducible assumption)
    | with_reducible apply Kept.foldl
    | with_reducible apply Kept.foldl₁
    | with_reducible apply Kept.foldl₂
    | with_reducible apply Kept.foldl₃
    | exact id
    | exact List.Subset.refl _
    | split
    | dsimp +zetaDelta -zeta only
    | with_reducible apply Kept.frame
    | intro _
    | dsimp only

theorem execLsScrubStart_kept {s₀ s : State} {a : Agent} {site : Fin 288} {v : Word32} (hk : Kept s₀ s) : KeptR s₀ (execLsScrubStart a site v s) := by
  unfold execLsScrubStart
  repeat' first
    | with_reducible assumption
    | with_reducible apply KeptR.next
    | ((try lift_lets -underBinder); intro x; clear_value (hx : x = _); refine Kept.cut (a := s₀) hx ?_ (fun hk' => ?_); rotate_left; clear hx; rotate_right)
    | ((try lift_lets -underBinder); intro x)
    | with_reducible apply State.set_kept
    | with_reducible apply State.writeReg_kept
    | with_reducible apply State.startScrub_kept
    | (with_reducible apply Kept.of_eq2; with_reducible assumption)
    | (with_reducible apply Kept.of_eq3; with_reducible assumption)
    | (with_reducible apply Kept.of_eq4; with_reducible assumption)
    | with_reducible apply Kept.foldl
    | with_reducible apply Kept.foldl₁
    | with_reducible apply Kept.foldl₂
    | with_reducible apply Kept.foldl₃
    | exact id
    | exact List.Subset.refl _
    | split
    | dsimp +zetaDelta -zeta only
    | with_reducible apply Kept.frame
    | intro _
    | dsimp only

theorem execLsScrubDone_kept {s₀ s : State} {site : Fin 288} (hk : Kept s₀ s) : KeptR s₀ (execLsScrubDone site s) := by
  unfold execLsScrubDone
  repeat' first
    | with_reducible assumption
    | with_reducible apply KeptR.next
    | ((try lift_lets -underBinder); intro x; clear_value (hx : x = _); refine Kept.cut (a := s₀) hx ?_ (fun hk' => ?_); rotate_left; clear hx; rotate_right)
    | ((try lift_lets -underBinder); intro x)
    | with_reducible apply State.setAll_kept
    | with_reducible apply State.scrubbed_kept
    | (with_reducible apply Kept.of_eq2; with_reducible assumption)
    | (with_reducible apply Kept.of_eq3; with_reducible assumption)
    | (with_reducible apply Kept.of_eq4; with_reducible assumption)
    | with_reducible apply Kept.foldl
    | with_reducible apply Kept.foldl₁
    | with_reducible apply Kept.foldl₂
    | with_reducible apply Kept.foldl₃
    | exact id
    | exact List.Subset.refl _
    | split
    | dsimp +zetaDelta -zeta only
    | with_reducible apply Kept.frame
    | intro _
    | dsimp only

theorem execHandoverReadbackDone_kept {s₀ s : State} {core : Fin 256} (hk : Kept s₀ s) : KeptR s₀ (execHandoverReadbackDone core s) := by
  unfold execHandoverReadbackDone
  repeat' first
    | with_reducible assumption
    | with_reducible apply KeptR.next
    | ((try lift_lets -underBinder); intro x; clear_value (hx : x = _); refine Kept.cut (a := s₀) hx ?_ (fun hk' => ?_); rotate_left; clear hx; rotate_right)
    | ((try lift_lets -underBinder); intro x)
    | with_reducible apply State.set_kept
    | with_reducible apply State.setSite_kept
    | with_reducible apply State.markSite_kept
    | with_reducible apply State.dropAdds_kept
    | (with_reducible apply Kept.of_eq2; with_reducible assumption)
    | (with_reducible apply Kept.of_eq3; with_reducible assumption)
    | (with_reducible apply Kept.of_eq4; with_reducible assumption)
    | with_reducible apply Kept.foldl
    | with_reducible apply Kept.foldl₁
    | with_reducible apply Kept.foldl₂
    | with_reducible apply Kept.foldl₃
    | exact id
    | exact List.Subset.refl _
    | split
    | dsimp +zetaDelta -zeta only
    | with_reducible apply Kept.frame
    | intro _
    | dsimp only

theorem execRwsSpareCmd_kept {s₀ s : State} {a : Agent} {row : Fin 32} {v : Word32} (hk : Kept s₀ s) : KeptR s₀ (execRwsSpareCmd a row v s) := by
  unfold execRwsSpareCmd
  repeat' first
    | with_reducible assumption
    | with_reducible apply KeptR.next
    | ((try lift_lets -underBinder); intro x; clear_value (hx : x = _); refine Kept.cut (a := s₀) hx ?_ (fun hk' => ?_); rotate_left; clear hx; rotate_right)
    | ((try lift_lets -underBinder); intro x)
    | with_reducible apply State.set_kept
    | with_reducible apply State.remapLane_kept
    | (with_reducible apply Kept.of_eq2; with_reducible assumption)
    | (with_reducible apply Kept.of_eq3; with_reducible assumption)
    | (with_reducible apply Kept.of_eq4; with_reducible assumption)
    | with_reducible apply Kept.foldl
    | with_reducible apply Kept.foldl₁
    | with_reducible apply Kept.foldl₂
    | with_reducible apply Kept.foldl₃
    | exact id
    | exact List.Subset.refl _
    | split
    | dsimp +zetaDelta -zeta only
    | with_reducible apply Kept.frame
    | intro _
    | dsimp only

theorem execSpareBuiltInTestDone_kept {s₀ s : State} {row : Fin 32} {slot : Fin 9} {passed : Bool} (hk : Kept s₀ s) : KeptR s₀ (execSpareBuiltInTestDone row slot passed s) := by
  unfold execSpareBuiltInTestDone
  repeat' first
    | with_reducible assumption
    | with_reducible apply KeptR.next
    | ((try lift_lets -underBinder); intro x; clear_value (hx : x = _); refine Kept.cut (a := s₀) hx ?_ (fun hk' => ?_); rotate_left; clear hx; rotate_right)
    | ((try lift_lets -underBinder); intro x)
    | with_reducible apply State.zeroSegs_kept
    | (with_reducible apply Kept.of_eq2; with_reducible assumption)
    | (with_reducible apply Kept.of_eq3; with_reducible assumption)
    | (with_reducible apply Kept.of_eq4; with_reducible assumption)
    | with_reducible apply Kept.foldl
    | with_reducible apply Kept.foldl₁
    | with_reducible apply Kept.foldl₂
    | with_reducible apply Kept.foldl₃
    | exact id
    | exact List.Subset.refl _
    | split
    | dsimp +zetaDelta -zeta only
    | with_reducible apply Kept.frame
    | intro _
    | dsimp only

theorem execCmdKernel_kept {s₀ s : State} {ctx : Fin 2048} (hk : Kept s₀ s) : KeptR s₀ (execCmdKernel ctx s) := by
  unfold execCmdKernel
  repeat' first
    | with_reducible assumption
    | with_reducible apply KeptR.next
    | with_reducible apply State.takeCmd_kept
    | ((try lift_lets -underBinder); intro x; clear_value (hx : x = _); refine Kept.cut (a := s₀) hx ?_ (fun hk' => ?_); rotate_left; clear hx; rotate_right)
    | ((try lift_lets -underBinder); intro x)
    | with_reducible apply State.finishCmd_kept
    | with_reducible apply State.passBoundary_kept
    | with_reducible apply State.kernelStart_kept
    | (with_reducible apply Kept.of_eq2; with_reducible assumption)
    | (with_reducible apply Kept.of_eq3; with_reducible assumption)
    | (with_reducible apply Kept.of_eq4; with_reducible assumption)
    | (with_reducible apply Kept.of_some; with_reducible assumption)
    | (with_reducible apply Kept.of_some3; with_reducible assumption)
    | (with_reducible apply Kept.of_someS; with_reducible assumption)
    | with_reducible apply Kept.foldl
    | with_reducible apply Kept.foldl₁
    | with_reducible apply Kept.foldl₂
    | with_reducible apply Kept.foldl₃
    | exact id
    | exact List.Subset.refl _
    | split
    | dsimp +zetaDelta -zeta only
    | with_reducible apply Kept.frame
    | intro _
    | dsimp only

theorem execKernelStartResume_kept {s₀ s : State} {ctx : Fin 2048} (hk : Kept s₀ s) : KeptR s₀ (execKernelStartResume ctx s) := by
  unfold execKernelStartResume
  repeat' first
    | with_reducible assumption
    | with_reducible apply KeptR.next
    | ((try lift_lets -underBinder); intro x; clear_value (hx : x = _); refine Kept.cut (a := s₀) hx ?_ (fun hk' => ?_); rotate_left; clear hx; rotate_right)
    | ((try lift_lets -underBinder); intro x)
    | with_reducible apply State.kernelStart_kept
    | with_reducible apply State.kernelResume_kept
    | (with_reducible apply Kept.of_eq2; with_reducible assumption)
    | (with_reducible apply Kept.of_eq3; with_reducible assumption)
    | (with_reducible apply Kept.of_eq4; with_reducible assumption)
    | with_reducible apply Kept.foldl
    | with_reducible apply Kept.foldl₁
    | with_reducible apply Kept.foldl₂
    | with_reducible apply Kept.foldl₃
    | exact id
    | exact List.Subset.refl _
    | split
    | dsimp +zetaDelta -zeta only
    | with_reducible apply Kept.frame
    | intro _
    | dsimp only

theorem execSpanOpen_kept {s₀ s : State} {src : ModuleId} {uid kernelId : BitVec 64} (hk : Kept s₀ s) : KeptR s₀ (execSpanOpen src uid kernelId s) := by
  unfold execSpanOpen
  repeat' first
    | with_reducible assumption
    | with_reducible apply KeptR.next
    | ((try lift_lets -underBinder); intro x; clear_value (hx : x = _); refine Kept.cut (a := s₀) hx ?_ (fun hk' => ?_); rotate_left; clear hx; rotate_right)
    | ((try lift_lets -underBinder); intro x)
    | with_reducible apply State.kernelSpan_kept
    | (with_reducible apply Kept.of_eq2; with_reducible assumption)
    | (with_reducible apply Kept.of_eq3; with_reducible assumption)
    | (with_reducible apply Kept.of_eq4; with_reducible assumption)
    | with_reducible apply Kept.foldl
    | with_reducible apply Kept.foldl₁
    | with_reducible apply Kept.foldl₂
    | with_reducible apply Kept.foldl₃
    | exact id
    | exact List.Subset.refl _
    | split
    | dsimp +zetaDelta -zeta only
    | with_reducible apply Kept.frame
    | intro _
    | dsimp only

theorem execOpIdle_kept {s₀ s : State} {core : Fin 256} {slot : Fin 8} (hk : Kept s₀ s) : KeptR s₀ (execOpIdle core slot s) := by
  unfold execOpIdle
  repeat' first
    | with_reducible assumption
    | with_reducible apply KeptR.next
    | ((try lift_lets -underBinder); intro x; clear_value (hx : x = _); refine Kept.cut (a := s₀) hx ?_ (fun hk' => ?_); rotate_left; clear hx; rotate_right)
    | ((try lift_lets -underBinder); intro x)
    | with_reducible apply State.opRow_kept
    | (with_reducible apply Kept.of_eq2; with_reducible assumption)
    | (with_reducible apply Kept.of_eq3; with_reducible assumption)
    | (with_reducible apply Kept.of_eq4; with_reducible assumption)
    | with_reducible apply Kept.foldl
    | with_reducible apply Kept.foldl₁
    | with_reducible apply Kept.foldl₂
    | with_reducible apply Kept.foldl₃
    | exact id
    | exact List.Subset.refl _
    | split
    | dsimp +zetaDelta -zeta only
    | with_reducible apply Kept.frame
    | intro _
    | dsimp only

theorem execOpMatmul_kept {s₀ s : State} {core : Fin 256} {slot : Fin 8} (hk : Kept s₀ s) : KeptR s₀ (execOpMatmul core slot s) := by
  unfold execOpMatmul
  repeat' first
    | with_reducible assumption
    | with_reducible apply KeptR.next
    | ((try lift_lets -underBinder); intro x; clear_value (hx : x = _); refine Kept.cut (a := s₀) hx ?_ (fun hk' => ?_); rotate_left; clear hx; rotate_right)
    | ((try lift_lets -underBinder); intro x)
    | with_reducible apply State.opRow_kept
    | (with_reducible apply Kept.of_eq2; with_reducible assumption)
    | (with_reducible apply Kept.of_eq3; with_reducible assumption)
    | (with_reducible apply Kept.of_eq4; with_reducible assumption)
    | with_reducible apply Kept.foldl
    | with_reducible apply Kept.foldl₁
    | with_reducible apply Kept.foldl₂
    | with_reducible apply Kept.foldl₃
    | exact id
    | exact List.Subset.refl _
    | split
    | dsimp +zetaDelta -zeta only
    | with_reducible apply Kept.frame
    | intro _
    | dsimp only

theorem execOpVec_kept {s₀ s : State} {core : Fin 256} {slot : Fin 8} (hk : Kept s₀ s) : KeptR s₀ (execOpVec core slot s) := by
  unfold execOpVec
  repeat' first
    | with_reducible assumption
    | with_reducible apply KeptR.next
    | ((try lift_lets -underBinder); intro x; clear_value (hx : x = _); refine Kept.cut (a := s₀) hx ?_ (fun hk' => ?_); rotate_left; clear hx; rotate_right)
    | ((try lift_lets -underBinder); intro x)
    | with_reducible apply State.opRow_kept
    | (with_reducible apply Kept.of_eq2; with_reducible assumption)
    | (with_reducible apply Kept.of_eq3; with_reducible assumption)
    | (with_reducible apply Kept.of_eq4; with_reducible assumption)
    | with_reducible apply Kept.foldl
    | with_reducible apply Kept.foldl₁
    | with_reducible apply Kept.foldl₂
    | with_reducible apply Kept.foldl₃
    | exact id
    | exact List.Subset.refl _
    | split
    | dsimp +zetaDelta -zeta only
    | with_reducible apply Kept.frame
    | intro _
    | dsimp only

theorem execOpVecReduce_kept {s₀ s : State} {core : Fin 256} {slot : Fin 8} (hk : Kept s₀ s) : KeptR s₀ (execOpVecReduce core slot s) := by
  unfold execOpVecReduce
  repeat' first
    | with_reducible assumption
    | with_reducible apply KeptR.next
    | ((try lift_lets -underBinder); intro x; clear_value (hx : x = _); refine Kept.cut (a := s₀) hx ?_ (fun hk' => ?_); rotate_left; clear hx; rotate_right)
    | ((try lift_lets -underBinder); intro x)
    | with_reducible apply State.opRow_kept
    | (with_reducible apply Kept.of_eq2; with_reducible assumption)
    | (with_reducible apply Kept.of_eq3; with_reducible assumption)
    | (with_reducible apply Kept.of_eq4; with_reducible assumption)
    | with_reducible apply Kept.foldl
    | with_reducible apply Kept.foldl₁
    | with_reducible apply Kept.foldl₂
    | with_reducible apply Kept.foldl₃
    | exact id
    | exact List.Subset.refl _
    | split
    | dsimp +zetaDelta -zeta only
    | with_reducible apply Kept.frame
    | intro _
    | dsimp only

theorem execOpConvert_kept {s₀ s : State} {core : Fin 256} {slot : Fin 8} (hk : Kept s₀ s) : KeptR s₀ (execOpConvert core slot s) := by
  unfold execOpConvert
  repeat' first
    | with_reducible assumption
    | with_reducible apply KeptR.next
    | ((try lift_lets -underBinder); intro x; clear_value (hx : x = _); refine Kept.cut (a := s₀) hx ?_ (fun hk' => ?_); rotate_left; clear hx; rotate_right)
    | ((try lift_lets -underBinder); intro x)
    | with_reducible apply State.opRow_kept
    | (with_reducible apply Kept.of_eq2; with_reducible assumption)
    | (with_reducible apply Kept.of_eq3; with_reducible assumption)
    | (with_reducible apply Kept.of_eq4; with_reducible assumption)
    | with_reducible apply Kept.foldl
    | with_reducible apply Kept.foldl₁
    | with_reducible apply Kept.foldl₂
    | with_reducible apply Kept.foldl₃
    | exact id
    | exact List.Subset.refl _
    | split
    | dsimp +zetaDelta -zeta only
    | with_reducible apply Kept.frame
    | intro _
    | dsimp only

theorem execOpLoad_kept {s₀ s : State} {core : Fin 256} {slot : Fin 8} (hk : Kept s₀ s) : KeptR s₀ (execOpLoad core slot s) := by
  unfold execOpLoad
  repeat' first
    | with_reducible assumption
    | with_reducible apply KeptR.next
    | ((try lift_lets -underBinder); intro x; clear_value (hx : x = _); refine Kept.cut (a := s₀) hx ?_ (fun hk' => ?_); rotate_left; clear hx; rotate_right)
    | ((try lift_lets -underBinder); intro x)
    | with_reducible apply State.opRow_kept
    | (with_reducible apply Kept.of_eq2; with_reducible assumption)
    | (with_reducible apply Kept.of_eq3; with_reducible assumption)
    | (with_reducible apply Kept.of_eq4; with_reducible assumption)
    | with_reducible apply Kept.foldl
    | with_reducible apply Kept.foldl₁
    | with_reducible apply Kept.foldl₂
    | with_reducible apply Kept.foldl₃
    | exact id
    | exact List.Subset.refl _
    | split
    | dsimp +zetaDelta -zeta only
    | with_reducible apply Kept.frame
    | intro _
    | dsimp only

theorem execOpStore_kept {s₀ s : State} {core : Fin 256} {slot : Fin 8} (hk : Kept s₀ s) : KeptR s₀ (execOpStore core slot s) := by
  unfold execOpStore
  repeat' first
    | with_reducible assumption
    | with_reducible apply KeptR.next
    | ((try lift_lets -underBinder); intro x; clear_value (hx : x = _); refine Kept.cut (a := s₀) hx ?_ (fun hk' => ?_); rotate_left; clear hx; rotate_right)
    | ((try lift_lets -underBinder); intro x)
    | with_reducible apply State.opRow_kept
    | (with_reducible apply Kept.of_eq2; with_reducible assumption)
    | (with_reducible apply Kept.of_eq3; with_reducible assumption)
    | (with_reducible apply Kept.of_eq4; with_reducible assumption)
    | with_reducible apply Kept.foldl
    | with_reducible apply Kept.foldl₁
    | with_reducible apply Kept.foldl₂
    | with_reducible apply Kept.foldl₃
    | exact id
    | exact List.Subset.refl _
    | split
    | dsimp +zetaDelta -zeta only
    | with_reducible apply Kept.frame
    | intro _
    | dsimp only

theorem execOpGather_kept {s₀ s : State} {core : Fin 256} {slot : Fin 8} (hk : Kept s₀ s) : KeptR s₀ (execOpGather core slot s) := by
  unfold execOpGather
  repeat' first
    | with_reducible assumption
    | with_reducible apply KeptR.next
    | ((try lift_lets -underBinder); intro x; clear_value (hx : x = _); refine Kept.cut (a := s₀) hx ?_ (fun hk' => ?_); rotate_left; clear hx; rotate_right)
    | ((try lift_lets -underBinder); intro x)
    | with_reducible apply State.opRow_kept
    | (with_reducible apply Kept.of_eq2; with_reducible assumption)
    | (with_reducible apply Kept.of_eq3; with_reducible assumption)
    | (with_reducible apply Kept.of_eq4; with_reducible assumption)
    | with_reducible apply Kept.foldl
    | with_reducible apply Kept.foldl₁
    | with_reducible apply Kept.foldl₂
    | with_reducible apply Kept.foldl₃
    | exact id
    | exact List.Subset.refl _
    | split
    | dsimp +zetaDelta -zeta only
    | with_reducible apply Kept.frame
    | intro _
    | dsimp only

theorem execOpExchangeSend_kept {s₀ s : State} {core : Fin 256} {slot : Fin 8} (hk : Kept s₀ s) : KeptR s₀ (execOpExchangeSend core slot s) := by
  unfold execOpExchangeSend
  repeat' first
    | with_reducible assumption
    | with_reducible apply KeptR.next
    | ((try lift_lets -underBinder); intro x; clear_value (hx : x = _); refine Kept.cut (a := s₀) hx ?_ (fun hk' => ?_); rotate_left; clear hx; rotate_right)
    | ((try lift_lets -underBinder); intro x)
    | with_reducible apply State.opRow_kept
    | (with_reducible apply Kept.of_eq2; with_reducible assumption)
    | (with_reducible apply Kept.of_eq3; with_reducible assumption)
    | (with_reducible apply Kept.of_eq4; with_reducible assumption)
    | with_reducible apply Kept.foldl
    | with_reducible apply Kept.foldl₁
    | with_reducible apply Kept.foldl₂
    | with_reducible apply Kept.foldl₃
    | exact id
    | exact List.Subset.refl _
    | split
    | dsimp +zetaDelta -zeta only
    | with_reducible apply Kept.frame
    | intro _
    | dsimp only

theorem execOpExchangeReceive_kept {s₀ s : State} {core : Fin 256} {slot : Fin 8} (hk : Kept s₀ s) : KeptR s₀ (execOpExchangeReceive core slot s) := by
  unfold execOpExchangeReceive
  repeat' first
    | with_reducible assumption
    | with_reducible apply KeptR.next
    | ((try lift_lets -underBinder); intro x; clear_value (hx : x = _); refine Kept.cut (a := s₀) hx ?_ (fun hk' => ?_); rotate_left; clear hx; rotate_right)
    | ((try lift_lets -underBinder); intro x)
    | with_reducible apply State.opRow_kept
    | (with_reducible apply Kept.of_eq2; with_reducible assumption)
    | (with_reducible apply Kept.of_eq3; with_reducible assumption)
    | (with_reducible apply Kept.of_eq4; with_reducible assumption)
    | with_reducible apply Kept.foldl
    | with_reducible apply Kept.foldl₁
    | with_reducible apply Kept.foldl₂
    | with_reducible apply Kept.foldl₃
    | exact id
    | exact List.Subset.refl _
    | split
    | dsimp +zetaDelta -zeta only
    | with_reducible apply Kept.frame
    | intro _
    | dsimp only

theorem execOpReduceLong_kept {s₀ s : State} {core : Fin 256} {slot : Fin 8} (hk : Kept s₀ s) : KeptR s₀ (execOpReduceLong core slot s) := by
  unfold execOpReduceLong
  repeat' first
    | with_reducible assumption
    | with_reducible apply KeptR.next
    | ((try lift_lets -underBinder); intro x; clear_value (hx : x = _); refine Kept.cut (a := s₀) hx ?_ (fun hk' => ?_); rotate_left; clear hx; rotate_right)
    | ((try lift_lets -underBinder); intro x)
    | with_reducible apply State.opRow_kept
    | (with_reducible apply Kept.of_eq2; with_reducible assumption)
    | (with_reducible apply Kept.of_eq3; with_reducible assumption)
    | (with_reducible apply Kept.of_eq4; with_reducible assumption)
    | with_reducible apply Kept.foldl
    | with_reducible apply Kept.foldl₁
    | with_reducible apply Kept.foldl₂
    | with_reducible apply Kept.foldl₃
    | exact id
    | exact List.Subset.refl _
    | split
    | dsimp +zetaDelta -zeta only
    | with_reducible apply Kept.frame
    | intro _
    | dsimp only

theorem execOpAttention_kept {s₀ s : State} {core : Fin 256} {slot : Fin 8} (hk : Kept s₀ s) : KeptR s₀ (execOpAttention core slot s) := by
  unfold execOpAttention
  repeat' first
    | with_reducible assumption
    | with_reducible apply KeptR.next
    | ((try lift_lets -underBinder); intro x; clear_value (hx : x = _); refine Kept.cut (a := s₀) hx ?_ (fun hk' => ?_); rotate_left; clear hx; rotate_right)
    | ((try lift_lets -underBinder); intro x)
    | with_reducible apply State.opRow_kept
    | (with_reducible apply Kept.of_eq2; with_reducible assumption)
    | (with_reducible apply Kept.of_eq3; with_reducible assumption)
    | (with_reducible apply Kept.of_eq4; with_reducible assumption)
    | with_reducible apply Kept.foldl
    | with_reducible apply Kept.foldl₁
    | with_reducible apply Kept.foldl₂
    | with_reducible apply Kept.foldl₃
    | exact id
    | exact List.Subset.refl _
    | split
    | dsimp +zetaDelta -zeta only
    | with_reducible apply Kept.frame
    | intro _
    | dsimp only

theorem execOpKvAppend_kept {s₀ s : State} {core : Fin 256} {slot : Fin 8} (hk : Kept s₀ s) : KeptR s₀ (execOpKvAppend core slot s) := by
  unfold execOpKvAppend
  repeat' first
    | with_reducible assumption
    | with_reducible apply KeptR.next
    | ((try lift_lets -underBinder); intro x; clear_value (hx : x = _); refine Kept.cut (a := s₀) hx ?_ (fun hk' => ?_); rotate_left; clear hx; rotate_right)
    | ((try lift_lets -underBinder); intro x)
    | with_reducible apply State.opRow_kept
    | (with_reducible apply Kept.of_eq2; with_reducible assumption)
    | (with_reducible apply Kept.of_eq3; with_reducible assumption)
    | (with_reducible apply Kept.of_eq4; with_reducible assumption)
    | with_reducible apply Kept.foldl
    | with_reducible apply Kept.foldl₁
    | with_reducible apply Kept.foldl₂
    | with_reducible apply Kept.foldl₃
    | exact id
    | exact List.Subset.refl _
    | split
    | dsimp +zetaDelta -zeta only
    | with_reducible apply Kept.frame
    | intro _
    | dsimp only

theorem execOpSample_kept {s₀ s : State} {core : Fin 256} {slot : Fin 8} (hk : Kept s₀ s) : KeptR s₀ (execOpSample core slot s) := by
  unfold execOpSample
  repeat' first
    | with_reducible assumption
    | with_reducible apply KeptR.next
    | ((try lift_lets -underBinder); intro x; clear_value (hx : x = _); refine Kept.cut (a := s₀) hx ?_ (fun hk' => ?_); rotate_left; clear hx; rotate_right)
    | ((try lift_lets -underBinder); intro x)
    | with_reducible apply State.opRow_kept
    | (with_reducible apply Kept.of_eq2; with_reducible assumption)
    | (with_reducible apply Kept.of_eq3; with_reducible assumption)
    | (with_reducible apply Kept.of_eq4; with_reducible assumption)
    | with_reducible apply Kept.foldl
    | with_reducible apply Kept.foldl₁
    | with_reducible apply Kept.foldl₂
    | with_reducible apply Kept.foldl₃
    | exact id
    | exact List.Subset.refl _
    | split
    | dsimp +zetaDelta -zeta only
    | with_reducible apply Kept.frame
    | intro _
    | dsimp only

theorem execOpFenceWait_kept {s₀ s : State} {core : Fin 256} {slot : Fin 8} (hk : Kept s₀ s) : KeptR s₀ (execOpFenceWait core slot s) := by
  unfold execOpFenceWait
  repeat' first
    | with_reducible assumption
    | with_reducible apply KeptR.next
    | ((try lift_lets -underBinder); intro x; clear_value (hx : x = _); refine Kept.cut (a := s₀) hx ?_ (fun hk' => ?_); rotate_left; clear hx; rotate_right)
    | ((try lift_lets -underBinder); intro x)
    | with_reducible apply State.opRow_kept
    | (with_reducible apply Kept.of_eq2; with_reducible assumption)
    | (with_reducible apply Kept.of_eq3; with_reducible assumption)
    | (with_reducible apply Kept.of_eq4; with_reducible assumption)
    | with_reducible apply Kept.foldl
    | with_reducible apply Kept.foldl₁
    | with_reducible apply Kept.foldl₂
    | with_reducible apply Kept.foldl₃
    | exact id
    | exact List.Subset.refl _
    | split
    | dsimp +zetaDelta -zeta only
    | with_reducible apply Kept.frame
    | intro _
    | dsimp only

theorem execOpFenceSignal_kept {s₀ s : State} {core : Fin 256} {slot : Fin 8} (hk : Kept s₀ s) : KeptR s₀ (execOpFenceSignal core slot s) := by
  unfold execOpFenceSignal
  repeat' first
    | with_reducible assumption
    | with_reducible apply KeptR.next
    | ((try lift_lets -underBinder); intro x; clear_value (hx : x = _); refine Kept.cut (a := s₀) hx ?_ (fun hk' => ?_); rotate_left; clear hx; rotate_right)
    | ((try lift_lets -underBinder); intro x)
    | with_reducible apply State.opRow_kept
    | (with_reducible apply Kept.of_eq2; with_reducible assumption)
    | (with_reducible apply Kept.of_eq3; with_reducible assumption)
    | (with_reducible apply Kept.of_eq4; with_reducible assumption)
    | with_reducible apply Kept.foldl
    | with_reducible apply Kept.foldl₁
    | with_reducible apply Kept.foldl₂
    | with_reducible apply Kept.foldl₃
    | exact id
    | exact List.Subset.refl _
    | split
    | dsimp +zetaDelta -zeta only
    | with_reducible apply Kept.frame
    | intro _
    | dsimp only

theorem execOperationComplete_kept {s₀ s : State} {core : Fin 256} {slot : Fin 8} {op : Nat} {cycles : Nat} (hk : Kept s₀ s) : KeptR s₀ (execOperationComplete core slot op cycles s) := by
  unfold execOperationComplete
  repeat' first
    | with_reducible assumption
    | with_reducible apply KeptR.next
    | ((try lift_lets -underBinder); intro x; clear_value (hx : x = _); refine Kept.cut (a := s₀) hx ?_ (fun hk' => ?_); rotate_left; clear hx; rotate_right)
    | ((try lift_lets -underBinder); intro x)
    | with_reducible apply State.settleSlotOf_kept
    | with_reducible apply State.complete_kept
    | (with_reducible apply Kept.of_eq2; with_reducible assumption)
    | (with_reducible apply Kept.of_eq3; with_reducible assumption)
    | (with_reducible apply Kept.of_eq4; with_reducible assumption)
    | with_reducible apply Kept.foldl
    | with_reducible apply Kept.foldl₁
    | with_reducible apply Kept.foldl₂
    | with_reducible apply Kept.foldl₃
    | exact id
    | exact List.Subset.refl _
    | split
    | dsimp +zetaDelta -zeta only
    | with_reducible apply Kept.frame
    | intro _
    | dsimp only

theorem execReduceTreeStart_kept {s₀ s : State} {core : Fin 256} {slot : Fin 8} {e : Fin 64} (hk : Kept s₀ s) : KeptR s₀ (execReduceTreeStart core slot e s) := by
  unfold execReduceTreeStart
  repeat' first
    | with_reducible assumption
    | with_reducible apply KeptR.next
    | ((try lift_lets -underBinder); intro x; clear_value (hx : x = _); refine Kept.cut (a := s₀) hx ?_ (fun hk' => ?_); rotate_left; clear hx; rotate_right)
    | ((try lift_lets -underBinder); intro x)
    | with_reducible apply State.setOp_kept
    | with_reducible apply State.doTree_kept
    | with_reducible apply State.performed_kept
    | (with_reducible apply Kept.of_eq2; with_reducible assumption)
    | (with_reducible apply Kept.of_eq3; with_reducible assumption)
    | (with_reducible apply Kept.of_eq4; with_reducible assumption)
    | with_reducible apply Kept.foldl
    | with_reducible apply Kept.foldl₁
    | with_reducible apply Kept.foldl₂
    | with_reducible apply Kept.foldl₃
    | exact id
    | exact List.Subset.refl _
    | split
    | dsimp +zetaDelta -zeta only
    | with_reducible apply Kept.frame
    | intro _
    | dsimp only

theorem execLedgerDeadline_kept {s₀ s : State} {core : Fin 256} {slot : Fin 8} {e : Fin 64} (hk : Kept s₀ s) : KeptR s₀ (execLedgerDeadline core slot e s) := by
  unfold execLedgerDeadline
  repeat' first
    | with_reducible assumption
    | with_reducible apply KeptR.next
    | ((try lift_lets -underBinder); intro x; clear_value (hx : x = _); refine Kept.cut (a := s₀) hx ?_ (fun hk' => ?_); rotate_left; clear hx; rotate_right)
    | ((try lift_lets -underBinder); intro x)
    | with_reducible apply State.failEntry_kept
    | with_reducible apply State.timeoutSeen_kept
    | (with_reducible apply Kept.of_eq2; with_reducible assumption)
    | (with_reducible apply Kept.of_eq3; with_reducible assumption)
    | (with_reducible apply Kept.of_eq4; with_reducible assumption)
    | with_reducible apply Kept.foldl
    | with_reducible apply Kept.foldl₁
    | with_reducible apply Kept.foldl₂
    | with_reducible apply Kept.foldl₃
    | exact id
    | exact List.Subset.refl _
    | split
    | dsimp +zetaDelta -zeta only
    | with_reducible apply Kept.frame
    | intro _
    | dsimp only

theorem execFenceWaitTimeout_kept {s₀ s : State} {core : Fin 256} {slot : Fin 8} {e : Fin 64} (hk : Kept s₀ s) : KeptR s₀ (execFenceWaitTimeout core slot e s) := by
  unfold execFenceWaitTimeout
  repeat' first
    | with_reducible assumption
    | with_reducible apply KeptR.next
    | ((try lift_lets -underBinder); intro x; clear_value (hx : x = _); refine Kept.cut (a := s₀) hx ?_ (fun hk' => ?_); rotate_left; clear hx; rotate_right)
    | ((try lift_lets -underBinder); intro x)
    | with_reducible apply State.failEntry_kept
    | (with_reducible apply Kept.of_eq2; with_reducible assumption)
    | (with_reducible apply Kept.of_eq3; with_reducible assumption)
    | (with_reducible apply Kept.of_eq4; with_reducible assumption)
    | with_reducible apply Kept.foldl
    | with_reducible apply Kept.foldl₁
    | with_reducible apply Kept.foldl₂
    | with_reducible apply Kept.foldl₃
    | exact id
    | exact List.Subset.refl _
    | split
    | dsimp +zetaDelta -zeta only
    | with_reducible apply Kept.frame
    | intro _
    | dsimp only

theorem execContextStop_kept {s₀ s : State} {a : Agent} {ctx : Fin 2048} {v : Word32} (hk : Kept s₀ s) : KeptR s₀ (execContextStop a ctx v s) := by
  unfold execContextStop
  repeat' first
    | with_reducible assumption
    | with_reducible apply KeptR.next
    | ((try lift_lets -underBinder); intro x; clear_value (hx : x = _); refine Kept.cut (a := s₀) hx ?_ (fun hk' => ?_); rotate_left; clear hx; rotate_right)
    | ((try lift_lets -underBinder); intro x)
    | with_reducible apply State.requestStop_kept
    | with_reducible apply State.mmioWrite_kept
    | with_reducible apply State.haltShards_kept
    | (with_reducible apply Kept.of_eq2; with_reducible assumption)
    | (with_reducible apply Kept.of_eq3; with_reducible assumption)
    | (with_reducible apply Kept.of_eq4; with_reducible assumption)
    | with_reducible apply Kept.foldl
    | with_reducible apply Kept.foldl₁
    | with_reducible apply Kept.foldl₂
    | with_reducible apply Kept.foldl₃
    | exact id
    | exact List.Subset.refl _
    | split
    | dsimp +zetaDelta -zeta only
    | with_reducible apply Kept.frame
    | intro _
    | dsimp only

theorem execContextStopped_kept {s₀ s : State} {ctx : Fin 2048} (hk : Kept s₀ s) : KeptR s₀ (execContextStopped ctx s) := by
  unfold execContextStopped
  repeat' first
    | with_reducible assumption
    | with_reducible apply KeptR.next
    | ((try lift_lets -underBinder); intro x; clear_value (hx : x = _); refine Kept.cut (a := s₀) hx ?_ (fun hk' => ?_); rotate_left; clear hx; rotate_right)
    | ((try lift_lets -underBinder); intro x)
    | with_reducible apply State.rescheduleCtx_kept
    | with_reducible apply State.endEntries_kept
    | with_reducible apply State.stopKernel_kept
    | with_reducible apply State.stopWait_kept
    | with_reducible apply State.postItem_kept
    | with_reducible apply State.discardHeld_kept
    | with_reducible apply State.stopped_kept
    | (with_reducible apply Kept.of_eq2; with_reducible assumption)
    | (with_reducible apply Kept.of_eq3; with_reducible assumption)
    | (with_reducible apply Kept.of_eq4; with_reducible assumption)
    | with_reducible apply Kept.foldl
    | with_reducible apply Kept.foldl₁
    | with_reducible apply Kept.foldl₂
    | with_reducible apply Kept.foldl₃
    | exact id
    | exact List.Subset.refl _
    | split
    | dsimp +zetaDelta -zeta only
    | with_reducible apply Kept.frame
    | intro _
    | dsimp only

theorem execContextResume_kept {s₀ s : State} {a : Agent} {ctx : Fin 2048} {v : Word32} (hk : Kept s₀ s) : KeptR s₀ (execContextResume a ctx v s) := by
  unfold execContextResume
  repeat' first
    | with_reducible assumption
    | with_reducible apply KeptR.next
    | ((try lift_lets -underBinder); intro x; clear_value (hx : x = _); refine Kept.cut (a := s₀) hx ?_ (fun hk' => ?_); rotate_left; clear hx; rotate_right)
    | ((try lift_lets -underBinder); intro x)
    | with_reducible apply State.set_kept
    | with_reducible apply State.mmioWrite_kept
    | (with_reducible apply Kept.of_eq2; with_reducible assumption)
    | (with_reducible apply Kept.of_eq3; with_reducible assumption)
    | (with_reducible apply Kept.of_eq4; with_reducible assumption)
    | with_reducible apply Kept.foldl
    | with_reducible apply Kept.foldl₁
    | with_reducible apply Kept.foldl₂
    | with_reducible apply Kept.foldl₃
    | exact id
    | exact List.Subset.refl _
    | split
    | dsimp +zetaDelta -zeta only
    | with_reducible apply Kept.frame
    | intro _
    | dsimp only

theorem execLidImport_kept {s₀ s : State} {p : Fin 32} {v : Word32} (hk : Kept s₀ s) : KeptR s₀ (execLidImport p v s) := by
  unfold execLidImport
  repeat' first
    | with_reducible assumption
    | with_reducible apply KeptR.next
    | ((try lift_lets -underBinder); intro x; clear_value (hx : x = _); refine Kept.cut (a := s₀) hx ?_ (fun hk' => ?_); rotate_left; clear hx; rotate_right)
    | ((try lift_lets -underBinder); intro x)
    | with_reducible apply State.setAll_kept
    | with_reducible apply State.mmioWrite_kept
    | with_reducible apply State.setImport_kept
    | with_reducible apply State.importStep_kept
    | (with_reducible apply Kept.of_eq2; with_reducible assumption)
    | (with_reducible apply Kept.of_eq3; with_reducible assumption)
    | (with_reducible apply Kept.of_eq4; with_reducible assumption)
    | with_reducible apply Kept.foldl
    | with_reducible apply Kept.foldl₁
    | with_reducible apply Kept.foldl₂
    | with_reducible apply Kept.foldl₃
    | exact id
    | exact List.Subset.refl _
    | split
    | dsimp +zetaDelta -zeta only
    | with_reducible apply Kept.frame
    | intro _
    | dsimp only

theorem execKeyRelease_kept {s₀ s : State} {lidId bundleId : BitVec 64} {kw : BitVec 256} {uses : BitVec 24} (hk : Kept s₀ s) : KeptR s₀ (execKeyRelease lidId bundleId kw uses s) := by
  unfold execKeyRelease
  repeat' first
    | with_reducible assumption
    | with_reducible apply KeptR.next
    | ((try lift_lets -underBinder); intro x; clear_value (hx : x = _); refine Kept.cut (a := s₀) hx ?_ (fun hk' => ?_); rotate_left; clear hx; rotate_right)
    | ((try lift_lets -underBinder); intro x)
    | with_reducible apply State.setCell_kept
    | with_reducible apply State.loadKey_kept
    | (with_reducible apply Kept.of_eq2; with_reducible assumption)
    | (with_reducible apply Kept.of_eq3; with_reducible assumption)
    | (with_reducible apply Kept.of_eq4; with_reducible assumption)
    | with_reducible apply Kept.foldl
    | with_reducible apply Kept.foldl₁
    | with_reducible apply Kept.foldl₂
    | with_reducible apply Kept.foldl₃
    | exact id
    | exact List.Subset.refl _
    | split
    | dsimp +zetaDelta -zeta only
    | with_reducible apply Kept.frame
    | intro _
    | dsimp only

theorem execResp_kept {s₀ s : State} {r : RespMsg} (hk : Kept s₀ s) : KeptR s₀ (execResp r s) := by
  unfold execResp
  repeat' first
    | with_reducible assumption
    | with_reducible apply KeptR.next
    | ((try lift_lets -underBinder); intro x; clear_value (hx : x = _); refine Kept.cut (a := s₀) hx ?_ (fun hk' => ?_); rotate_left; clear hx; rotate_right)
    | ((try lift_lets -underBinder); intro x)
    | with_reducible apply State.stale_kept
    | with_reducible apply State.respond_kept
    | (with_reducible apply Kept.of_eq2; with_reducible assumption)
    | (with_reducible apply Kept.of_eq3; with_reducible assumption)
    | (with_reducible apply Kept.of_eq4; with_reducible assumption)
    | with_reducible apply Kept.foldl
    | with_reducible apply Kept.foldl₁
    | with_reducible apply Kept.foldl₂
    | with_reducible apply Kept.foldl₃
    | exact id
    | exact List.Subset.refl _
    | split
    | dsimp +zetaDelta -zeta only
    | with_reducible apply Kept.frame
    | intro _
    | dsimp only

theorem execRespTake_kept {s₀ s : State} {r : RespMsg} (hk : Kept s₀ s) : KeptR s₀ (execRespTake r s) := by
  unfold execRespTake
  repeat' first
    | with_reducible assumption
    | with_reducible apply KeptR.next
    | ((try lift_lets -underBinder); intro x; clear_value (hx : x = _); refine Kept.cut (a := s₀) hx ?_ (fun hk' => ?_); rotate_left; clear hx; rotate_right)
    | ((try lift_lets -underBinder); intro x)
    | with_reducible apply State.respond_kept
    | (with_reducible apply Kept.of_eq2; with_reducible assumption)
    | (with_reducible apply Kept.of_eq3; with_reducible assumption)
    | (with_reducible apply Kept.of_eq4; with_reducible assumption)
    | with_reducible apply Kept.foldl
    | with_reducible apply Kept.foldl₁
    | with_reducible apply Kept.foldl₂
    | with_reducible apply Kept.foldl₃
    | exact id
    | exact List.Subset.refl _
    | split
    | dsimp +zetaDelta -zeta only
    | with_reducible apply Kept.frame
    | intro _
    | dsimp only

theorem execRespPull_kept {s₀ s : State} {r : RespMsg} (hk : Kept s₀ s) : KeptR s₀ (execRespPull r s) := by
  unfold execRespPull
  repeat' first
    | with_reducible assumption
    | with_reducible apply KeptR.next
    | ((try lift_lets -underBinder); intro x; clear_value (hx : x = _); refine Kept.cut (a := s₀) hx ?_ (fun hk' => ?_); rotate_left; clear hx; rotate_right)
    | ((try lift_lets -underBinder); intro x)
    | with_reducible apply State.emitAll_kept
    | with_reducible apply State.failEntry_kept
    | with_reducible apply State.stale_kept
    | with_reducible apply State.respond_kept
    | with_reducible apply State.sendPackets_kept
    | (with_reducible apply Kept.of_eq2; with_reducible assumption)
    | (with_reducible apply Kept.of_eq3; with_reducible assumption)
    | (with_reducible apply Kept.of_eq4; with_reducible assumption)
    | with_reducible apply Kept.foldl
    | with_reducible apply Kept.foldl₁
    | with_reducible apply Kept.foldl₂
    | with_reducible apply Kept.foldl₃
    | exact id
    | exact List.Subset.refl _
    | split
    | dsimp +zetaDelta -zeta only
    | with_reducible apply Kept.frame
    | intro _
    | dsimp only

theorem execFenceWake_kept {s₀ s : State} {r : RespMsg} (hk : Kept s₀ s) : KeptR s₀ (execFenceWake r s) := by
  unfold execFenceWake
  repeat' first
    | with_reducible assumption
    | with_reducible apply KeptR.next
    | ((try lift_lets -underBinder); intro x; clear_value (hx : x = _); refine Kept.cut (a := s₀) hx ?_ (fun hk' => ?_); rotate_left; clear hx; rotate_right)
    | ((try lift_lets -underBinder); intro x)
    | with_reducible apply State.fence_kept
    | with_reducible apply State.kernelStart_kept
    | with_reducible apply State.stale_kept
    | with_reducible apply State.fenceFound_kept
    | (with_reducible apply Kept.of_eq2; with_reducible assumption)
    | (with_reducible apply Kept.of_eq3; with_reducible assumption)
    | (with_reducible apply Kept.of_eq4; with_reducible assumption)
    | with_reducible apply Kept.foldl
    | with_reducible apply Kept.foldl₁
    | with_reducible apply Kept.foldl₂
    | with_reducible apply Kept.foldl₃
    | exact id
    | exact List.Subset.refl _
    | split
    | dsimp +zetaDelta -zeta only
    | with_reducible apply Kept.frame
    | intro _
    | dsimp only

theorem execFencePoll_kept {s₀ s : State} {w : Waiter} (hk : Kept s₀ s) : KeptR s₀ (execFencePoll w s) := by
  unfold execFencePoll
  repeat' first
    | with_reducible assumption
    | with_reducible apply KeptR.next
    | ((try lift_lets -underBinder); intro x; clear_value (hx : x = _); refine Kept.cut (a := s₀) hx ?_ (fun hk' => ?_); rotate_left; clear hx; rotate_right)
    | ((try lift_lets -underBinder); intro x)
    | with_reducible apply State.fenceFound_kept
    | with_reducible apply State.pollFence_kept
    | (with_reducible apply Kept.of_eq2; with_reducible assumption)
    | (with_reducible apply Kept.of_eq3; with_reducible assumption)
    | (with_reducible apply Kept.of_eq4; with_reducible assumption)
    | with_reducible apply Kept.foldl
    | with_reducible apply Kept.foldl₁
    | with_reducible apply Kept.foldl₂
    | with_reducible apply Kept.foldl₃
    | exact id
    | exact List.Subset.refl _
    | split
    | dsimp +zetaDelta -zeta only
    | with_reducible apply Kept.frame
    | intro _
    | dsimp only

theorem execFenceUpdate_kept {s₀ s : State} {b : Fin 64} {va : VAddr} {value status : BitVec 64} (hk : Kept s₀ s) : KeptR s₀ (execFenceUpdate b va value status s) := by
  unfold execFenceUpdate
  repeat' first
    | with_reducible assumption
    | with_reducible apply KeptR.next
    | ((try lift_lets -underBinder); intro x; clear_value (hx : x = _); refine Kept.cut (a := s₀) hx ?_ (fun hk' => ?_); rotate_left; clear hx; rotate_right)
    | ((try lift_lets -underBinder); intro x)
    | with_reducible apply State.fenceUpdate_kept
    | (with_reducible apply Kept.of_eq2; with_reducible assumption)
    | (with_reducible apply Kept.of_eq3; with_reducible assumption)
    | (with_reducible apply Kept.of_eq4; with_reducible assumption)
    | with_reducible apply Kept.foldl
    | with_reducible apply Kept.foldl₁
    | with_reducible apply Kept.foldl₂
    | with_reducible apply Kept.foldl₃
    | exact id
    | exact List.Subset.refl _
    | split
    | dsimp +zetaDelta -zeta only
    | with_reducible apply Kept.frame
    | intro _
    | dsimp only

theorem execFenceOpGo_kept {s₀ s : State} {p : Fin 32} {v : Word32} (hk : Kept s₀ s) : KeptR s₀ (execFenceOpGo p v s) := by
  unfold execFenceOpGo
  repeat' first
    | with_reducible assumption
    | with_reducible apply KeptR.next
    | ((try lift_lets -underBinder); intro x; clear_value (hx : x = _); refine Kept.cut (a := s₀) hx ?_ (fun hk' => ?_); rotate_left; clear hx; rotate_right)
    | ((try lift_lets -underBinder); intro x)
    | with_reducible apply State.fenceOpGo_kept
    | (with_reducible apply Kept.of_eq2; with_reducible assumption)
    | (with_reducible apply Kept.of_eq3; with_reducible assumption)
    | (with_reducible apply Kept.of_eq4; with_reducible assumption)
    | with_reducible apply Kept.foldl
    | with_reducible apply Kept.foldl₁
    | with_reducible apply Kept.foldl₂
    | with_reducible apply Kept.foldl₃
    | exact id
    | exact List.Subset.refl _
    | split
    | dsimp +zetaDelta -zeta only
    | with_reducible apply Kept.frame
    | intro _
    | dsimp only

theorem execCmdFenceWait_kept {s₀ s : State} {ctx : Fin 2048} (hk : Kept s₀ s) : KeptR s₀ (execCmdFenceWait ctx s) := by
  unfold execCmdFenceWait
  repeat' first
    | with_reducible assumption
    | with_reducible apply KeptR.next
    | with_reducible apply State.takeCmd_kept
    | ((try lift_lets -underBinder); intro x; clear_value (hx : x = _); refine Kept.cut (a := s₀) hx ?_ (fun hk' => ?_); rotate_left; clear hx; rotate_right)
    | ((try lift_lets -underBinder); intro x)
    | with_reducible apply State.finishCmd_kept
    | with_reducible apply State.cmdWait_kept
    | (with_reducible apply Kept.of_eq2; with_reducible assumption)
    | (with_reducible apply Kept.of_eq3; with_reducible assumption)
    | (with_reducible apply Kept.of_eq4; with_reducible assumption)
    | (with_reducible apply Kept.of_some; with_reducible assumption)
    | (with_reducible apply Kept.of_some3; with_reducible assumption)
    | (with_reducible apply Kept.of_someS; with_reducible assumption)
    | with_reducible apply Kept.foldl
    | with_reducible apply Kept.foldl₁
    | with_reducible apply Kept.foldl₂
    | with_reducible apply Kept.foldl₃
    | exact id
    | exact List.Subset.refl _
    | split
    | dsimp +zetaDelta -zeta only
    | with_reducible apply Kept.frame
    | intro _
    | dsimp only

theorem execCmdFenceSignal_kept {s₀ s : State} {ctx : Fin 2048} (hk : Kept s₀ s) : KeptR s₀ (execCmdFenceSignal ctx s) := by
  unfold execCmdFenceSignal
  repeat' first
    | with_reducible assumption
    | with_reducible apply KeptR.next
    | with_reducible apply State.takeCmd_kept
    | ((try lift_lets -underBinder); intro x; clear_value (hx : x = _); refine Kept.cut (a := s₀) hx ?_ (fun hk' => ?_); rotate_left; clear hx; rotate_right)
    | ((try lift_lets -underBinder); intro x)
    | with_reducible apply State.finishCmd_kept
    | with_reducible apply State.cmdSignal_kept
    | (with_reducible apply Kept.of_eq2; with_reducible assumption)
    | (with_reducible apply Kept.of_eq3; with_reducible assumption)
    | (with_reducible apply Kept.of_eq4; with_reducible assumption)
    | (with_reducible apply Kept.of_some; with_reducible assumption)
    | (with_reducible apply Kept.of_some3; with_reducible assumption)
    | (with_reducible apply Kept.of_someS; with_reducible assumption)
    | with_reducible apply Kept.foldl
    | with_reducible apply Kept.foldl₁
    | with_reducible apply Kept.foldl₂
    | with_reducible apply Kept.foldl₃
    | exact id
    | exact List.Subset.refl _
    | split
    | dsimp +zetaDelta -zeta only
    | with_reducible apply Kept.frame
    | intro _
    | dsimp only

theorem execCmdFenceTimeout_kept {s₀ s : State} {ctx : Fin 2048} (hk : Kept s₀ s) : KeptR s₀ (execCmdFenceTimeout ctx s) := by
  unfold execCmdFenceTimeout
  repeat' first
    | with_reducible assumption
    | with_reducible apply KeptR.next
    | ((try lift_lets -underBinder); intro x; clear_value (hx : x = _); refine Kept.cut (a := s₀) hx ?_ (fun hk' => ?_); rotate_left; clear hx; rotate_right)
    | ((try lift_lets -underBinder); intro x)
    | with_reducible apply State.unwatch_kept
    | with_reducible apply State.finishCmd_kept
    | (with_reducible apply Kept.of_eq2; with_reducible assumption)
    | (with_reducible apply Kept.of_eq3; with_reducible assumption)
    | (with_reducible apply Kept.of_eq4; with_reducible assumption)
    | with_reducible apply Kept.foldl
    | with_reducible apply Kept.foldl₁
    | with_reducible apply Kept.foldl₂
    | with_reducible apply Kept.foldl₃
    | exact id
    | exact List.Subset.refl _
    | split
    | dsimp +zetaDelta -zeta only
    | with_reducible apply Kept.frame
    | intro _
    | dsimp only

theorem execCmdBatchStep_kept {s₀ s : State} {ctx : Fin 2048} (hk : Kept s₀ s) : KeptR s₀ (execCmdBatchStep ctx s) := by
  unfold execCmdBatchStep
  repeat' first
    | with_reducible assumption
    | with_reducible apply KeptR.next
    | with_reducible apply State.takeCmd_kept
    | ((try lift_lets -underBinder); intro x; clear_value (hx : x = _); refine Kept.cut (a := s₀) hx ?_ (fun hk' => ?_); rotate_left; clear hx; rotate_right)
    | ((try lift_lets -underBinder); intro x)
    | with_reducible apply State.onCtx_kept
    | with_reducible apply State.finishCmd_kept
    | with_reducible apply State.stepBegin_kept
    | (with_reducible apply Kept.of_eq2; with_reducible assumption)
    | (with_reducible apply Kept.of_eq3; with_reducible assumption)
    | (with_reducible apply Kept.of_eq4; with_reducible assumption)
    | (with_reducible apply Kept.of_some; with_reducible assumption)
    | (with_reducible apply Kept.of_some3; with_reducible assumption)
    | (with_reducible apply Kept.of_someS; with_reducible assumption)
    | with_reducible apply Kept.foldl
    | with_reducible apply Kept.foldl₁
    | with_reducible apply Kept.foldl₂
    | with_reducible apply Kept.foldl₃
    | exact id
    | exact List.Subset.refl _
    | split
    | dsimp +zetaDelta -zeta only
    | with_reducible apply Kept.frame
    | intro _
    | dsimp only

theorem execBatchStepApply_kept {s₀ s : State} {ctx : Fin 2048} (hk : Kept s₀ s) : KeptR s₀ (execBatchStepApply ctx s) := by
  unfold execBatchStepApply
  repeat' first
    | with_reducible assumption
    | with_reducible apply KeptR.next
    | ((try lift_lets -underBinder); intro x; clear_value (hx : x = _); refine Kept.cut (a := s₀) hx ?_ (fun hk' => ?_); rotate_left; clear hx; rotate_right)
    | ((try lift_lets -underBinder); intro x)
    | with_reducible apply State.stepEnd_kept
    | with_reducible apply State.entryStatus_kept
    | with_reducible apply State.stepUnread_kept
    | with_reducible apply State.readStep_kept
    | with_reducible apply State.stepApply_kept
    | (with_reducible apply Kept.of_eq2; with_reducible assumption)
    | (with_reducible apply Kept.of_eq3; with_reducible assumption)
    | (with_reducible apply Kept.of_eq4; with_reducible assumption)
    | with_reducible apply Kept.foldl
    | with_reducible apply Kept.foldl₁
    | with_reducible apply Kept.foldl₂
    | with_reducible apply Kept.foldl₃
    | exact id
    | exact List.Subset.refl _
    | split
    | dsimp +zetaDelta -zeta only
    | with_reducible apply Kept.frame
    | intro _
    | dsimp only

theorem execWeaverWaitTimeout_kept {s₀ s : State} {ctx : Fin 2048} (hk : Kept s₀ s) : KeptR s₀ (execWeaverWaitTimeout ctx s) := by
  unfold execWeaverWaitTimeout
  repeat' first
    | with_reducible assumption
    | with_reducible apply KeptR.next
    | ((try lift_lets -underBinder); intro x; clear_value (hx : x = _); refine Kept.cut (a := s₀) hx ?_ (fun hk' => ?_); rotate_left; clear hx; rotate_right)
    | ((try lift_lets -underBinder); intro x)
    | with_reducible apply State.onKernel_kept
    | with_reducible apply State.kernelFinish_kept
    | with_reducible apply State.startFault_kept
    | with_reducible apply State.timeoutSeen_kept
    | with_reducible apply State.stepFinish_kept
    | with_reducible apply State.applyVerdicts_kept
    | (with_reducible apply Kept.of_eq2; with_reducible assumption)
    | (with_reducible apply Kept.of_eq3; with_reducible assumption)
    | (with_reducible apply Kept.of_eq4; with_reducible assumption)
    | with_reducible apply Kept.foldl
    | with_reducible apply Kept.foldl₁
    | with_reducible apply Kept.foldl₂
    | with_reducible apply Kept.foldl₃
    | exact id
    | exact List.Subset.refl _
    | split
    | dsimp +zetaDelta -zeta only
    | with_reducible apply Kept.frame
    | intro _
    | dsimp only

theorem execFlitReceive_kept {s₀ s : State} {port : Fin 80} {fec : EccResult} {flit : BitVec 2048} (hk : Kept s₀ s) : KeptR s₀ (execFlitReceive port fec flit s) := by
  unfold execFlitReceive
  repeat' first
    | with_reducible assumption
    | with_reducible apply KeptR.next
    | ((try lift_lets -underBinder); intro x; clear_value (hx : x = _); refine Kept.cut (a := s₀) hx ?_ (fun hk' => ?_); rotate_left; clear hx; rotate_right)
    | ((try lift_lets -underBinder); intro x)
    | with_reducible apply State.count_kept
    | with_reducible apply State.bump64_kept
    | with_reducible apply State.setPort_kept
    | with_reducible apply State.released_kept
    | (with_reducible apply Kept.of_eq2; with_reducible assumption)
    | (with_reducible apply Kept.of_eq3; with_reducible assumption)
    | (with_reducible apply Kept.of_eq4; with_reducible assumption)
    | with_reducible apply Kept.foldl
    | with_reducible apply Kept.foldl₁
    | with_reducible apply Kept.foldl₂
    | with_reducible apply Kept.foldl₃
    | exact id
    | exact List.Subset.refl _
    | split
    | dsimp +zetaDelta -zeta only
    | with_reducible apply Kept.frame
    | intro _
    | dsimp only

theorem execReplayTimeout_kept {s₀ s : State} {port : Fin 80} (hk : Kept s₀ s) : KeptR s₀ (execReplayTimeout port s) := by
  unfold execReplayTimeout
  repeat' first
    | with_reducible assumption
    | with_reducible apply KeptR.next
    | ((try lift_lets -underBinder); intro x; clear_value (hx : x = _); refine Kept.cut (a := s₀) hx ?_ (fun hk' => ?_); rotate_left; clear hx; rotate_right)
    | ((try lift_lets -underBinder); intro x)
    | with_reducible apply State.count_kept
    | with_reducible apply State.emit_kept
    | (with_reducible apply Kept.of_eq2; with_reducible assumption)
    | (with_reducible apply Kept.of_eq3; with_reducible assumption)
    | (with_reducible apply Kept.of_eq4; with_reducible assumption)
    | with_reducible apply Kept.foldl
    | with_reducible apply Kept.foldl₁
    | with_reducible apply Kept.foldl₂
    | with_reducible apply Kept.foldl₃
    | exact id
    | exact List.Subset.refl _
    | split
    | dsimp +zetaDelta -zeta only
    | with_reducible apply Kept.frame
    | intro _
    | dsimp only

theorem execSealFlit_kept {s₀ s : State} {port : Fin 80} {tag : BitVec 128} (hk : Kept s₀ s) : KeptR s₀ (execSealFlit port tag s) := by
  unfold execSealFlit
  repeat' first
    | with_reducible assumption
    | with_reducible apply KeptR.next
    | ((try lift_lets -underBinder); intro x; clear_value (hx : x = _); refine Kept.cut (a := s₀) hx ?_ (fun hk' => ?_); rotate_left; clear hx; rotate_right)
    | ((try lift_lets -underBinder); intro x)
    | with_reducible apply State.setPort_kept
    | with_reducible apply State.released_kept
    | with_reducible apply State.sealFailed_kept
    | (with_reducible apply Kept.of_eq2; with_reducible assumption)
    | (with_reducible apply Kept.of_eq3; with_reducible assumption)
    | (with_reducible apply Kept.of_eq4; with_reducible assumption)
    | with_reducible apply Kept.foldl
    | with_reducible apply Kept.foldl₁
    | with_reducible apply Kept.foldl₂
    | with_reducible apply Kept.foldl₃
    | exact id
    | exact List.Subset.refl _
    | split
    | dsimp +zetaDelta -zeta only
    | with_reducible apply Kept.frame
    | intro _
    | dsimp only

theorem execPortSignalDetect_kept {s₀ s : State} {port : Fin 80} (hk : Kept s₀ s) : KeptR s₀ (execPortSignalDetect port s) := by
  unfold execPortSignalDetect
  repeat' first
    | with_reducible assumption
    | with_reducible apply KeptR.next
    | ((try lift_lets -underBinder); intro x; clear_value (hx : x = _); refine Kept.cut (a := s₀) hx ?_ (fun hk' => ?_); rotate_left; clear hx; rotate_right)
    | ((try lift_lets -underBinder); intro x)
    | with_reducible apply State.set_kept
    | (with_reducible apply Kept.of_eq2; with_reducible assumption)
    | (with_reducible apply Kept.of_eq3; with_reducible assumption)
    | (with_reducible apply Kept.of_eq4; with_reducible assumption)
    | with_reducible apply Kept.foldl
    | with_reducible apply Kept.foldl₁
    | with_reducible apply Kept.foldl₂
    | with_reducible apply Kept.foldl₃
    | exact id
    | exact List.Subset.refl _
    | split
    | dsimp +zetaDelta -zeta only
    | with_reducible apply Kept.frame
    | intro _
    | dsimp only

theorem execLinkTrained_kept {s₀ s : State} {port : Fin 80} (hk : Kept s₀ s) : KeptR s₀ (execLinkTrained port s) := by
  unfold execLinkTrained
  repeat' first
    | with_reducible assumption
    | with_reducible apply KeptR.next
    | ((try lift_lets -underBinder); intro x; clear_value (hx : x = _); refine Kept.cut (a := s₀) hx ?_ (fun hk' => ?_); rotate_left; clear hx; rotate_right)
    | ((try lift_lets -underBinder); intro x)
    | with_reducible apply State.setAll_kept
    | with_reducible apply State.setPort_kept
    | with_reducible apply State.sendIdent_kept
    | with_reducible apply State.showPeer_kept
    | with_reducible apply State.dropLinkKeys_kept
    | (with_reducible apply Kept.of_eq2; with_reducible assumption)
    | (with_reducible apply Kept.of_eq3; with_reducible assumption)
    | (with_reducible apply Kept.of_eq4; with_reducible assumption)
    | with_reducible apply Kept.foldl
    | with_reducible apply Kept.foldl₁
    | with_reducible apply Kept.foldl₂
    | with_reducible apply Kept.foldl₃
    | exact id
    | exact List.Subset.refl _
    | split
    | dsimp +zetaDelta -zeta only
    | with_reducible apply Kept.frame
    | intro _
    | dsimp only

theorem execLostPortRetrain_kept {s₀ s : State} {port : Fin 80} (hk : Kept s₀ s) : KeptR s₀ (execLostPortRetrain port s) := by
  unfold execLostPortRetrain
  repeat' first
    | with_reducible assumption
    | with_reducible apply KeptR.next
    | ((try lift_lets -underBinder); intro x; clear_value (hx : x = _); refine Kept.cut (a := s₀) hx ?_ (fun hk' => ?_); rotate_left; clear hx; rotate_right)
    | ((try lift_lets -underBinder); intro x)
    | with_reducible apply State.setPort_kept
    | (with_reducible apply Kept.of_eq2; with_reducible assumption)
    | (with_reducible apply Kept.of_eq3; with_reducible assumption)
    | (with_reducible apply Kept.of_eq4; with_reducible assumption)
    | with_reducible apply Kept.foldl
    | with_reducible apply Kept.foldl₁
    | with_reducible apply Kept.foldl₂
    | with_reducible apply Kept.foldl₃
    | exact id
    | exact List.Subset.refl _
    | split
    | dsimp +zetaDelta -zeta only
    | with_reducible apply Kept.frame
    | intro _
    | dsimp only

theorem execIdent_kept {s₀ s : State} {port : Fin 80} {module : ModuleId} {known serving : Bool} {peerPort : BitVec 7} {racks : BitVec 256} (hk : Kept s₀ s) : KeptR s₀ (execIdent port module known serving peerPort racks s) := by
  unfold execIdent
  repeat' first
    | with_reducible assumption
    | with_reducible apply KeptR.next
    | ((try lift_lets -underBinder); intro x; clear_value (hx : x = _); refine Kept.cut (a := s₀) hx ?_ (fun hk' => ?_); rotate_left; clear hx; rotate_right)
    | ((try lift_lets -underBinder); intro x)
    | with_reducible apply State.set_kept
    | with_reducible apply State.setAll_kept
    | with_reducible apply State.setPort_kept
    | with_reducible apply State.showPeer_kept
    | with_reducible apply State.settlePort_kept
    | (with_reducible apply Kept.of_eq2; with_reducible assumption)
    | (with_reducible apply Kept.of_eq3; with_reducible assumption)
    | (with_reducible apply Kept.of_eq4; with_reducible assumption)
    | with_reducible apply Kept.foldl
    | with_reducible apply Kept.foldl₁
    | with_reducible apply Kept.foldl₂
    | with_reducible apply Kept.foldl₃
    | exact id
    | exact List.Subset.refl _
    | split
    | dsimp +zetaDelta -zeta only
    | with_reducible apply Kept.frame
    | intro _
    | dsimp only

theorem execNotReady_kept {s₀ s : State} {port : Fin 80} {module : ModuleId} (hk : Kept s₀ s) : KeptR s₀ (execNotReady port module s) := by
  unfold execNotReady
  repeat' first
    | with_reducible assumption
    | with_reducible apply KeptR.next
    | ((try lift_lets -underBinder); intro x; clear_value (hx : x = _); refine Kept.cut (a := s₀) hx ?_ (fun hk' => ?_); rotate_left; clear hx; rotate_right)
    | ((try lift_lets -underBinder); intro x)
    | with_reducible apply State.setAll_kept
    | with_reducible apply State.setPort_kept
    | with_reducible apply State.showPeer_kept
    | with_reducible apply State.settlePort_kept
    | (with_reducible apply Kept.of_eq2; with_reducible assumption)
    | (with_reducible apply Kept.of_eq3; with_reducible assumption)
    | (with_reducible apply Kept.of_eq4; with_reducible assumption)
    | with_reducible apply Kept.foldl
    | with_reducible apply Kept.foldl₁
    | with_reducible apply Kept.foldl₂
    | with_reducible apply Kept.foldl₃
    | exact id
    | exact List.Subset.refl _
    | split
    | dsimp +zetaDelta -zeta only
    | with_reducible apply Kept.frame
    | intro _
    | dsimp only

theorem execNotReadyRepeat_kept {s₀ s : State}  (hk : Kept s₀ s) : KeptR s₀ (execNotReadyRepeat s) := by
  unfold execNotReadyRepeat
  repeat' first
    | with_reducible assumption
    | with_reducible apply KeptR.next
    | ((try lift_lets -underBinder); intro x; clear_value (hx : x = _); refine Kept.cut (a := s₀) hx ?_ (fun hk' => ?_); rotate_left; clear hx; rotate_right)
    | ((try lift_lets -underBinder); intro x)
    | with_reducible apply State.emit_kept
    | (with_reducible apply Kept.of_eq2; with_reducible assumption)
    | (with_reducible apply Kept.of_eq3; with_reducible assumption)
    | (with_reducible apply Kept.of_eq4; with_reducible assumption)
    | with_reducible apply Kept.foldl
    | with_reducible apply Kept.foldl₁
    | with_reducible apply Kept.foldl₂
    | with_reducible apply Kept.foldl₃
    | exact id
    | exact List.Subset.refl _
    | split
    | dsimp +zetaDelta -zeta only
    | with_reducible apply Kept.frame
    | intro _
    | dsimp only

theorem execPortLost_kept {s₀ s : State} {port : Fin 80} {cause : LossCause} (hk : Kept s₀ s) : KeptR s₀ (execPortLost port cause s) := by
  unfold execPortLost
  repeat' first
    | with_reducible assumption
    | with_reducible apply KeptR.next
    | ((try lift_lets -underBinder); intro x; clear_value (hx : x = _); refine Kept.cut (a := s₀) hx ?_ (fun hk' => ?_); rotate_left; clear hx; rotate_right)
    | ((try lift_lets -underBinder); intro x)
    | with_reducible apply State.set_kept
    | with_reducible apply State.count_kept
    | with_reducible apply State.report_kept
    | with_reducible apply State.setPort_kept
    | with_reducible apply State.showPeer_kept
    | with_reducible apply State.forwardAll_kept
    | with_reducible apply State.recallExpress_kept
    | with_reducible apply State.loseOps_kept
    | with_reducible apply State.loseCtx_kept
    | with_reducible apply State.loseMoves_kept
    | with_reducible apply State.loseOwn_kept
    | with_reducible apply State.markLost_kept
    | with_reducible apply State.sendLoss_kept
    | with_reducible apply State.leaveUp_kept
    | (with_reducible apply Kept.of_eq2; with_reducible assumption)
    | (with_reducible apply Kept.of_eq3; with_reducible assumption)
    | (with_reducible apply Kept.of_eq4; with_reducible assumption)
    | with_reducible apply Kept.foldl
    | with_reducible apply Kept.foldl₁
    | with_reducible apply Kept.foldl₂
    | with_reducible apply Kept.foldl₃
    | exact id
    | exact List.Subset.refl _
    | split
    | dsimp +zetaDelta -zeta only
    | with_reducible apply Kept.frame
    | intro _
    | dsimp only

theorem execLossMsg_kept {s₀ s : State} {lost : ModuleId} {hop : Nat} (hk : Kept s₀ s) : KeptR s₀ (execLossMsg lost hop s) := by
  unfold execLossMsg
  repeat' first
    | with_reducible assumption
    | with_reducible apply KeptR.next
    | ((try lift_lets -underBinder); intro x; clear_value (hx : x = _); refine Kept.cut (a := s₀) hx ?_ (fun hk' => ?_); rotate_left; clear hx; rotate_right)
    | ((try lift_lets -underBinder); intro x)
    | with_reducible apply State.loseMoves_kept
    | with_reducible apply State.loseOwn_kept
    | with_reducible apply State.markLost_kept
    | with_reducible apply State.sendLoss_kept
    | (with_reducible apply Kept.of_eq2; with_reducible assumption)
    | (with_reducible apply Kept.of_eq3; with_reducible assumption)
    | (with_reducible apply Kept.of_eq4; with_reducible assumption)
    | with_reducible apply Kept.foldl
    | with_reducible apply Kept.foldl₁
    | with_reducible apply Kept.foldl₂
    | with_reducible apply Kept.foldl₃
    | exact id
    | exact List.Subset.refl _
    | split
    | dsimp +zetaDelta -zeta only
    | with_reducible apply Kept.frame
    | intro _
    | dsimp only

theorem execLaneFail_kept {s₀ s : State} {port : Fin 80} {lane : Fin 3} {why : LaneFault} (hk : Kept s₀ s) : KeptR s₀ (execLaneFail port lane why s) := by
  unfold execLaneFail
  repeat' first
    | with_reducible assumption
    | with_reducible apply KeptR.next
    | ((try lift_lets -underBinder); intro x; clear_value (hx : x = _); refine Kept.cut (a := s₀) hx ?_ (fun hk' => ?_); rotate_left; clear hx; rotate_right)
    | ((try lift_lets -underBinder); intro x)
    | with_reducible apply State.set_kept
    | with_reducible apply State.emit_kept
    | with_reducible apply State.setPort_kept
    | (with_reducible apply Kept.of_eq2; with_reducible assumption)
    | (with_reducible apply Kept.of_eq3; with_reducible assumption)
    | (with_reducible apply Kept.of_eq4; with_reducible assumption)
    | with_reducible apply Kept.foldl
    | with_reducible apply Kept.foldl₁
    | with_reducible apply Kept.foldl₂
    | with_reducible apply Kept.foldl₃
    | exact id
    | exact List.Subset.refl _
    | split
    | dsimp +zetaDelta -zeta only
    | with_reducible apply Kept.frame
    | intro _
    | dsimp only

theorem execLaneRetrainDone_kept {s₀ s : State} {port : Fin 80} {retrained spareTrained : Bool} (hk : Kept s₀ s) : KeptR s₀ (execLaneRetrainDone port retrained spareTrained s) := by
  unfold execLaneRetrainDone
  repeat' first
    | with_reducible assumption
    | with_reducible apply KeptR.next
    | ((try lift_lets -underBinder); intro x; clear_value (hx : x = _); refine Kept.cut (a := s₀) hx ?_ (fun hk' => ?_); rotate_left; clear hx; rotate_right)
    | ((try lift_lets -underBinder); intro x)
    | with_reducible apply State.set_kept
    | with_reducible apply State.emit_kept
    | with_reducible apply State.report_kept
    | with_reducible apply State.setPort_kept
    | with_reducible apply State.swapLane_kept
    | with_reducible apply State.retirePort_kept
    | (with_reducible apply Kept.of_eq2; with_reducible assumption)
    | (with_reducible apply Kept.of_eq3; with_reducible assumption)
    | (with_reducible apply Kept.of_eq4; with_reducible assumption)
    | with_reducible apply Kept.foldl
    | with_reducible apply Kept.foldl₁
    | with_reducible apply Kept.foldl₂
    | with_reducible apply Kept.foldl₃
    | exact id
    | exact List.Subset.refl _
    | split
    | dsimp +zetaDelta -zeta only
    | with_reducible apply Kept.frame
    | intro _
    | dsimp only

theorem execLaneFlit_kept {s₀ s : State} {port : Fin 80} {leaving entering : Fin 4} {swap : Bool} (hk : Kept s₀ s) : KeptR s₀ (execLaneFlit port leaving entering swap s) := by
  unfold execLaneFlit
  repeat' first
    | with_reducible assumption
    | with_reducible apply KeptR.next
    | ((try lift_lets -underBinder); intro x; clear_value (hx : x = _); refine Kept.cut (a := s₀) hx ?_ (fun hk' => ?_); rotate_left; clear hx; rotate_right)
    | ((try lift_lets -underBinder); intro x)
    | with_reducible apply State.set_kept
    | with_reducible apply State.setPort_kept
    | with_reducible apply State.swapLane_kept
    | (with_reducible apply Kept.of_eq2; with_reducible assumption)
    | (with_reducible apply Kept.of_eq3; with_reducible assumption)
    | (with_reducible apply Kept.of_eq4; with_reducible assumption)
    | with_reducible apply Kept.foldl
    | with_reducible apply Kept.foldl₁
    | with_reducible apply Kept.foldl₂
    | with_reducible apply Kept.foldl₃
    | exact id
    | exact List.Subset.refl _
    | split
    | dsimp +zetaDelta -zeta only
    | with_reducible apply Kept.frame
    | intro _
    | dsimp only

theorem execPortRetire_kept {s₀ s : State} {a : Agent} {port : Fin 80} {v : Word32} (hk : Kept s₀ s) : KeptR s₀ (execPortRetire a port v s) := by
  unfold execPortRetire
  repeat' first
    | with_reducible assumption
    | with_reducible apply KeptR.next
    | ((try lift_lets -underBinder); intro x; clear_value (hx : x = _); refine Kept.cut (a := s₀) hx ?_ (fun hk' => ?_); rotate_left; clear hx; rotate_right)
    | ((try lift_lets -underBinder); intro x)
    | with_reducible apply State.mmioWrite_kept
    | with_reducible apply State.retirePort_kept
    | with_reducible apply State.portHeld_kept
    | (with_reducible apply Kept.of_eq2; with_reducible assumption)
    | (with_reducible apply Kept.of_eq3; with_reducible assumption)
    | (with_reducible apply Kept.of_eq4; with_reducible assumption)
    | with_reducible apply Kept.foldl
    | with_reducible apply Kept.foldl₁
    | with_reducible apply Kept.foldl₂
    | with_reducible apply Kept.foldl₃
    | exact id
    | exact List.Subset.refl _
    | split
    | dsimp +zetaDelta -zeta only
    | with_reducible apply Kept.frame
    | intro _
    | dsimp only

theorem execGlobalPortKeyExchange_kept {s₀ s : State} {g : Fin 16} {ok : Bool} {tx rx : BitVec 256} (hk : Kept s₀ s) : KeptR s₀ (execGlobalPortKeyExchange g ok tx rx s) := by
  unfold execGlobalPortKeyExchange
  repeat' first
    | with_reducible assumption
    | with_reducible apply KeptR.next
    | ((try lift_lets -underBinder); intro x; clear_value (hx : x = _); refine Kept.cut (a := s₀) hx ?_ (fun hk' => ?_); rotate_left; clear hx; rotate_right)
    | ((try lift_lets -underBinder); intro x)
    | with_reducible apply State.sendIdent_kept
    | with_reducible apply State.showPeer_kept
    | with_reducible apply State.settlePort_kept
    | with_reducible apply State.sealFailed_kept
    | with_reducible apply State.installLinkKeys_kept
    | (with_reducible apply Kept.of_eq2; with_reducible assumption)
    | (with_reducible apply Kept.of_eq3; with_reducible assumption)
    | (with_reducible apply Kept.of_eq4; with_reducible assumption)
    | with_reducible apply Kept.foldl
    | with_reducible apply Kept.foldl₁
    | with_reducible apply Kept.foldl₂
    | with_reducible apply Kept.foldl₃
    | exact id
    | exact List.Subset.refl _
    | split
    | dsimp +zetaDelta -zeta only
    | with_reducible apply Kept.frame
    | intro _
    | dsimp only

theorem execKeyUpdate_kept {s₀ s : State} {g : Fin 16} {tx rx : BitVec 256} (hk : Kept s₀ s) : KeptR s₀ (execKeyUpdate g tx rx s) := by
  unfold execKeyUpdate
  repeat' first
    | with_reducible assumption
    | with_reducible apply KeptR.next
    | ((try lift_lets -underBinder); intro x; clear_value (hx : x = _); refine Kept.cut (a := s₀) hx ?_ (fun hk' => ?_); rotate_left; clear hx; rotate_right)
    | ((try lift_lets -underBinder); intro x)
    | with_reducible apply State.installLinkKeys_kept
    | (with_reducible apply Kept.of_eq2; with_reducible assumption)
    | (with_reducible apply Kept.of_eq3; with_reducible assumption)
    | (with_reducible apply Kept.of_eq4; with_reducible assumption)
    | with_reducible apply Kept.foldl
    | with_reducible apply Kept.foldl₁
    | with_reducible apply Kept.foldl₂
    | with_reducible apply Kept.foldl₃
    | exact id
    | exact List.Subset.refl _
    | split
    | dsimp +zetaDelta -zeta only
    | with_reducible apply Kept.frame
    | intro _
    | dsimp only

theorem execJoinOutcomes_kept {s₀ s : State} {ctx : Fin 2048} {pkt : Packet} {outcomes : StepAnswers} (hk : Kept s₀ s) : KeptR s₀ (execJoinOutcomes ctx pkt outcomes s) := by
  unfold execJoinOutcomes
  repeat' first
    | with_reducible assumption
    | with_reducible apply KeptR.next
    | ((try lift_lets -underBinder); intro x; clear_value (hx : x = _); refine Kept.cut (a := s₀) hx ?_ (fun hk' => ?_); rotate_left; clear hx; rotate_right)
    | ((try lift_lets -underBinder); intro x)
    | with_reducible apply State.joinOutcomes_kept
    | with_reducible apply State.arriveMsg_kept
    | (with_reducible apply Kept.of_eq2; with_reducible assumption)
    | (with_reducible apply Kept.of_eq3; with_reducible assumption)
    | (with_reducible apply Kept.of_eq4; with_reducible assumption)
    | with_reducible apply Kept.foldl
    | with_reducible apply Kept.foldl₁
    | with_reducible apply Kept.foldl₂
    | with_reducible apply Kept.foldl₃
    | exact id
    | exact List.Subset.refl _
    | split
    | dsimp +zetaDelta -zeta only
    | with_reducible apply Kept.frame
    | intro _
    | dsimp only

theorem execStepVerdict_kept {s₀ s : State} {ctx : Fin 2048} {verdicts : StepVerdicts} (hk : Kept s₀ s) : KeptR s₀ (execStepVerdict ctx verdicts s) := by
  unfold execStepVerdict
  repeat' first
    | with_reducible assumption
    | with_reducible apply KeptR.next
    | ((try lift_lets -underBinder); intro x; clear_value (hx : x = _); refine Kept.cut (a := s₀) hx ?_ (fun hk' => ?_); rotate_left; clear hx; rotate_right)
    | ((try lift_lets -underBinder); intro x)
    | with_reducible apply State.stepVerdicts_kept
    | with_reducible apply State.arriveMsg_kept
    | (with_reducible apply Kept.of_eq2; with_reducible assumption)
    | (with_reducible apply Kept.of_eq3; with_reducible assumption)
    | (with_reducible apply Kept.of_eq4; with_reducible assumption)
    | with_reducible apply Kept.foldl
    | with_reducible apply Kept.foldl₁
    | with_reducible apply Kept.foldl₂
    | with_reducible apply Kept.foldl₃
    | exact id
    | exact List.Subset.refl _
    | split
    | dsimp +zetaDelta -zeta only
    | with_reducible apply Kept.frame
    | intro _
    | dsimp only

theorem execCountBlock_kept {s₀ s : State} {ctx : Fin 2048} {pkt : Packet} {block : CountBlock} (hk : Kept s₀ s) : KeptR s₀ (execCountBlock ctx pkt block s) := by
  unfold execCountBlock
  repeat' first
    | with_reducible assumption
    | with_reducible apply KeptR.next
    | ((try lift_lets -underBinder); intro x; clear_value (hx : x = _); refine Kept.cut (a := s₀) hx ?_ (fun hk' => ?_); rotate_left; clear hx; rotate_right)
    | ((try lift_lets -underBinder); intro x)
    | with_reducible apply State.countBlock_kept
    | with_reducible apply State.arriveMsg_kept
    | (with_reducible apply Kept.of_eq2; with_reducible assumption)
    | (with_reducible apply Kept.of_eq3; with_reducible assumption)
    | (with_reducible apply Kept.of_eq4; with_reducible assumption)
    | with_reducible apply Kept.foldl
    | with_reducible apply Kept.foldl₁
    | with_reducible apply Kept.foldl₂
    | with_reducible apply Kept.foldl₃
    | exact id
    | exact List.Subset.refl _
    | split
    | dsimp +zetaDelta -zeta only
    | with_reducible apply Kept.frame
    | intro _
    | dsimp only

theorem execPacketForward_kept {s₀ s : State} {port : Fin 80} {pkt : Packet} (hk : Kept s₀ s) : KeptR s₀ (execPacketForward port pkt s) := by
  unfold execPacketForward
  repeat' first
    | with_reducible assumption
    | with_reducible apply KeptR.next
    | ((try lift_lets -underBinder); intro x; clear_value (hx : x = _); refine Kept.cut (a := s₀) hx ?_ (fun hk' => ?_); rotate_left; clear hx; rotate_right)
    | ((try lift_lets -underBinder); intro x)
    | with_reducible apply State.unmarkLost_kept
    | with_reducible apply State.forwardOne_kept
    | (with_reducible apply Kept.of_eq2; with_reducible assumption)
    | (with_reducible apply Kept.of_eq3; with_reducible assumption)
    | (with_reducible apply Kept.of_eq4; with_reducible assumption)
    | with_reducible apply Kept.foldl
    | with_reducible apply Kept.foldl₁
    | with_reducible apply Kept.foldl₂
    | with_reducible apply Kept.foldl₃
    | exact id
    | exact List.Subset.refl _
    | split
    | dsimp +zetaDelta -zeta only
    | with_reducible apply Kept.frame
    | intro _
    | dsimp only

theorem execReadReq_kept {s₀ s : State} {pkt : Packet} (hk : Kept s₀ s) : KeptR s₀ (execReadReq pkt s) := by
  unfold execReadReq
  repeat' first
    | with_reducible assumption
    | with_reducible apply KeptR.next
    | ((try lift_lets -underBinder); intro x; clear_value (hx : x = _); refine Kept.cut (a := s₀) hx ?_ (fun hk' => ?_); rotate_left; clear hx; rotate_right)
    | ((try lift_lets -underBinder); intro x)
    | with_reducible apply State.arrive_kept
    | with_reducible apply State.serveRead_kept
    | (with_reducible apply Kept.of_eq2; with_reducible assumption)
    | (with_reducible apply Kept.of_eq3; with_reducible assumption)
    | (with_reducible apply Kept.of_eq4; with_reducible assumption)
    | with_reducible apply Kept.foldl
    | with_reducible apply Kept.foldl₁
    | with_reducible apply Kept.foldl₂
    | with_reducible apply Kept.foldl₃
    | exact id
    | exact List.Subset.refl _
    | split
    | dsimp +zetaDelta -zeta only
    | with_reducible apply Kept.frame
    | intro _
    | dsimp only

theorem execWritePkt_kept {s₀ s : State} {pkt : Packet} (hk : Kept s₀ s) : KeptR s₀ (execWritePkt pkt s) := by
  unfold execWritePkt
  repeat' first
    | with_reducible assumption
    | with_reducible apply KeptR.next
    | ((try lift_lets -underBinder); intro x; clear_value (hx : x = _); refine Kept.cut (a := s₀) hx ?_ (fun hk' => ?_); rotate_left; clear hx; rotate_right)
    | ((try lift_lets -underBinder); intro x)
    | with_reducible apply State.arrive_kept
    | with_reducible apply State.serveWrite_kept
    | (with_reducible apply Kept.of_eq2; with_reducible assumption)
    | (with_reducible apply Kept.of_eq3; with_reducible assumption)
    | (with_reducible apply Kept.of_eq4; with_reducible assumption)
    | with_reducible apply Kept.foldl
    | with_reducible apply Kept.foldl₁
    | with_reducible apply Kept.foldl₂
    | with_reducible apply Kept.foldl₃
    | exact id
    | exact List.Subset.refl _
    | split
    | dsimp +zetaDelta -zeta only
    | with_reducible apply Kept.frame
    | intro _
    | dsimp only

theorem execAtomicPkt_kept {s₀ s : State} {pkt : Packet} (hk : Kept s₀ s) : KeptR s₀ (execAtomicPkt pkt s) := by
  unfold execAtomicPkt
  repeat' first
    | with_reducible assumption
    | with_reducible apply KeptR.next
    | ((try lift_lets -underBinder); intro x; clear_value (hx : x = _); refine Kept.cut (a := s₀) hx ?_ (fun hk' => ?_); rotate_left; clear hx; rotate_right)
    | ((try lift_lets -underBinder); intro x)
    | with_reducible apply State.arrive_kept
    | with_reducible apply State.serveAtomic_kept
    | (with_reducible apply Kept.of_eq2; with_reducible assumption)
    | (with_reducible apply Kept.of_eq3; with_reducible assumption)
    | (with_reducible apply Kept.of_eq4; with_reducible assumption)
    | with_reducible apply Kept.foldl
    | with_reducible apply Kept.foldl₁
    | with_reducible apply Kept.foldl₂
    | with_reducible apply Kept.foldl₃
    | exact id
    | exact List.Subset.refl _
    | split
    | dsimp +zetaDelta -zeta only
    | with_reducible apply Kept.frame
    | intro _
    | dsimp only

theorem execReadData_kept {s₀ s : State} {pkt : Packet} (hk : Kept s₀ s) : KeptR s₀ (execReadData pkt s) := by
  unfold execReadData
  repeat' first
    | with_reducible assumption
    | with_reducible apply KeptR.next
    | ((try lift_lets -underBinder); intro x; clear_value (hx : x = _); refine Kept.cut (a := s₀) hx ?_ (fun hk' => ?_); rotate_left; clear hx; rotate_right)
    | ((try lift_lets -underBinder); intro x)
    | with_reducible apply State.integrityFail_kept
    | with_reducible apply State.failEntry_kept
    | with_reducible apply State.stale_kept
    | with_reducible apply State.arrive_kept
    | with_reducible apply State.opData_kept
    | with_reducible apply State.ownRead_kept
    | with_reducible apply State.takeData_kept
    | with_reducible apply State.dataFails_kept
    | (with_reducible apply Kept.of_eq2; with_reducible assumption)
    | (with_reducible apply Kept.of_eq3; with_reducible assumption)
    | (with_reducible apply Kept.of_eq4; with_reducible assumption)
    | with_reducible apply Kept.foldl
    | with_reducible apply Kept.foldl₁
    | with_reducible apply Kept.foldl₂
    | with_reducible apply Kept.foldl₃
    | exact id
    | exact List.Subset.refl _
    | split
    | dsimp +zetaDelta -zeta only
    | with_reducible apply Kept.frame
    | intro _
    | dsimp only

theorem execOfferPkt_kept {s₀ s : State} {pkt : Packet} (hk : Kept s₀ s) : KeptR s₀ (execOfferPkt pkt s) := by
  unfold execOfferPkt
  repeat' first
    | with_reducible assumption
    | with_reducible apply KeptR.next
    | ((try lift_lets -underBinder); intro x; clear_value (hx : x = _); refine Kept.cut (a := s₀) hx ?_ (fun hk' => ?_); rotate_left; clear hx; rotate_right)
    | ((try lift_lets -underBinder); intro x)
    | with_reducible apply State.matchOffers_kept
    | with_reducible apply State.arrive_kept
    | (with_reducible apply Kept.of_eq2; with_reducible assumption)
    | (with_reducible apply Kept.of_eq3; with_reducible assumption)
    | (with_reducible apply Kept.of_eq4; with_reducible assumption)
    | with_reducible apply Kept.foldl
    | with_reducible apply Kept.foldl₁
    | with_reducible apply Kept.foldl₂
    | with_reducible apply Kept.foldl₃
    | exact id
    | exact List.Subset.refl _
    | split
    | dsimp +zetaDelta -zeta only
    | with_reducible apply Kept.frame
    | intro _
    | dsimp only

theorem execDataPkt_kept {s₀ s : State} {pkt : Packet} (hk : Kept s₀ s) : KeptR s₀ (execDataPkt pkt s) := by
  unfold execDataPkt
  repeat' first
    | with_reducible assumption
    | with_reducible apply KeptR.next
    | ((try lift_lets -underBinder); intro x; clear_value (hx : x = _); refine Kept.cut (a := s₀) hx ?_ (fun hk' => ?_); rotate_left; clear hx; rotate_right)
    | ((try lift_lets -underBinder); intro x)
    | with_reducible apply State.setOp_kept
    | with_reducible apply State.received_kept
    | with_reducible apply State.failEntry_kept
    | with_reducible apply State.answer_kept
    | with_reducible apply State.arrive_kept
    | (with_reducible apply Kept.of_eq2; with_reducible assumption)
    | (with_reducible apply Kept.of_eq3; with_reducible assumption)
    | (with_reducible apply Kept.of_eq4; with_reducible assumption)
    | with_reducible apply Kept.foldl
    | with_reducible apply Kept.foldl₁
    | with_reducible apply Kept.foldl₂
    | with_reducible apply Kept.foldl₃
    | exact id
    | exact List.Subset.refl _
    | split
    | dsimp +zetaDelta -zeta only
    | with_reducible apply Kept.frame
    | intro _
    | dsimp only

theorem execPartialPkt_kept {s₀ s : State} {pkt : Packet} (hk : Kept s₀ s) : KeptR s₀ (execPartialPkt pkt s) := by
  unfold execPartialPkt
  repeat' first
    | with_reducible assumption
    | with_reducible apply KeptR.next
    | ((try lift_lets -underBinder); intro x; clear_value (hx : x = _); refine Kept.cut (a := s₀) hx ?_ (fun hk' => ?_); rotate_left; clear hx; rotate_right)
    | ((try lift_lets -underBinder); intro x)
    | with_reducible apply State.takePartial_kept
    | with_reducible apply State.answer_kept
    | with_reducible apply State.arrive_kept
    | (with_reducible apply Kept.of_eq2; with_reducible assumption)
    | (with_reducible apply Kept.of_eq3; with_reducible assumption)
    | (with_reducible apply Kept.of_eq4; with_reducible assumption)
    | with_reducible apply Kept.foldl
    | with_reducible apply Kept.foldl₁
    | with_reducible apply Kept.foldl₂
    | with_reducible apply Kept.foldl₃
    | exact id
    | exact List.Subset.refl _
    | split
    | dsimp +zetaDelta -zeta only
    | with_reducible apply Kept.frame
    | intro _
    | dsimp only

theorem execPagePkt_kept {s₀ s : State} {pkt : Packet} (hk : Kept s₀ s) : KeptR s₀ (execPagePkt pkt s) := by
  unfold execPagePkt
  repeat' first
    | with_reducible assumption
    | with_reducible apply KeptR.next
    | with_reducible apply State.pageMove_kept
    | ((try lift_lets -underBinder); intro x; clear_value (hx : x = _); refine Kept.cut (a := s₀) hx ?_ (fun hk' => ?_); rotate_left; clear hx; rotate_right)
    | ((try lift_lets -underBinder); intro x)
    | with_reducible apply State.putPage_kept
    | with_reducible apply State.answer_kept
    | with_reducible apply State.arrive_kept
    | (with_reducible apply Kept.of_eq2; with_reducible assumption)
    | (with_reducible apply Kept.of_eq3; with_reducible assumption)
    | (with_reducible apply Kept.of_eq4; with_reducible assumption)
    | (with_reducible apply Kept.of_some; with_reducible assumption)
    | (with_reducible apply Kept.of_some3; with_reducible assumption)
    | (with_reducible apply Kept.of_someS; with_reducible assumption)
    | with_reducible apply Kept.foldl
    | with_reducible apply Kept.foldl₁
    | with_reducible apply Kept.foldl₂
    | with_reducible apply Kept.foldl₃
    | exact id
    | exact List.Subset.refl _
    | split
    | dsimp +zetaDelta -zeta only
    | with_reducible apply Kept.frame
    | intro _
    | dsimp only

theorem execPageMoveDone_kept {s₀ s : State} {move : Nat} (hk : Kept s₀ s) : KeptR s₀ (execPageMoveDone move s) := by
  unfold execPageMoveDone
  repeat' first
    | with_reducible assumption
    | with_reducible apply KeptR.next
    | ((try lift_lets -underBinder); intro x; clear_value (hx : x = _); refine Kept.cut (a := s₀) hx ?_ (fun hk' => ?_); rotate_left; clear hx; rotate_right)
    | ((try lift_lets -underBinder); intro x)
    | with_reducible apply State.bump64_kept
    | with_reducible apply State.countKv_kept
    | with_reducible apply State.endMove_kept
    | with_reducible apply State.moveOver_kept
    | with_reducible apply State.afterMoves_kept
    | (with_reducible apply Kept.of_eq2; with_reducible assumption)
    | (with_reducible apply Kept.of_eq3; with_reducible assumption)
    | (with_reducible apply Kept.of_eq4; with_reducible assumption)
    | with_reducible apply Kept.foldl
    | with_reducible apply Kept.foldl₁
    | with_reducible apply Kept.foldl₂
    | with_reducible apply Kept.foldl₃
    | exact id
    | exact List.Subset.refl _
    | split
    | dsimp +zetaDelta -zeta only
    | with_reducible apply Kept.frame
    | intro _
    | dsimp only

theorem execPgSeal_kept {s₀ s : State} {p : Fin 32} {b : Fin 64} {i : Fin 16} {v : Word32} (hk : Kept s₀ s) : KeptR s₀ (execPgSeal p b i v s) := by
  unfold execPgSeal
  repeat' first
    | with_reducible assumption
    | with_reducible apply KeptR.next
    | ((try lift_lets -underBinder); intro x; clear_value (hx : x = _); refine Kept.cut (a := s₀) hx ?_ (fun hk' => ?_); rotate_left; clear hx; rotate_right)
    | ((try lift_lets -underBinder); intro x)
    | with_reducible apply State.set_kept
    | with_reducible apply State.mmioWrite_kept
    | with_reducible apply State.sealError_kept
    | (with_reducible apply Kept.of_eq2; with_reducible assumption)
    | (with_reducible apply Kept.of_eq3; with_reducible assumption)
    | (with_reducible apply Kept.of_eq4; with_reducible assumption)
    | with_reducible apply Kept.foldl
    | with_reducible apply Kept.foldl₁
    | with_reducible apply Kept.foldl₂
    | with_reducible apply Kept.foldl₃
    | exact id
    | exact List.Subset.refl _
    | split
    | dsimp +zetaDelta -zeta only
    | with_reducible apply Kept.frame
    | intro _
    | dsimp only

theorem execSealHashDone_kept {s₀ s : State} {accepted : Bool} (hk : Kept s₀ s) : KeptR s₀ (execSealHashDone accepted s) := by
  unfold execSealHashDone
  repeat' first
    | with_reducible assumption
    | with_reducible apply KeptR.next
    | ((try lift_lets -underBinder); intro x; clear_value (hx : x = _); refine Kept.cut (a := s₀) hx ?_ (fun hk' => ?_); rotate_left; clear hx; rotate_right)
    | ((try lift_lets -underBinder); intro x)
    | with_reducible apply State.setAll_kept
    | with_reducible apply State.devRead_kept
    | with_reducible apply State.devWrite_kept
    | with_reducible apply State.sealError_kept
    | with_reducible apply State.installSeal_kept
    | with_reducible apply State.tellSeal_kept
    | (with_reducible apply Kept.of_eq2; with_reducible assumption)
    | (with_reducible apply Kept.of_eq3; with_reducible assumption)
    | (with_reducible apply Kept.of_eq4; with_reducible assumption)
    | with_reducible apply Kept.foldl
    | with_reducible apply Kept.foldl₁
    | with_reducible apply Kept.foldl₂
    | with_reducible apply Kept.foldl₃
    | exact id
    | exact List.Subset.refl _
    | split
    | dsimp +zetaDelta -zeta only
    | with_reducible apply Kept.frame
    | intro _
    | dsimp only

theorem execSealInstall_kept {s₀ s : State} {_src : ModuleId} {uid : BitVec 64} {i : Fin 16} {base : VAddr} {pages : BitVec 24} {digest : BitVec 512} (hk : Kept s₀ s) : KeptR s₀ (execSealInstall _src uid i base pages digest s) := by
  unfold execSealInstall
  repeat' first
    | with_reducible assumption
    | with_reducible apply KeptR.next
    | ((try lift_lets -underBinder); intro x; clear_value (hx : x = _); refine Kept.cut (a := s₀) hx ?_ (fun hk' => ?_); rotate_left; clear hx; rotate_right)
    | ((try lift_lets -underBinder); intro x)
    | with_reducible apply State.setAll_kept
    | with_reducible apply State.freeSeal_kept
    | with_reducible apply State.installSeal_kept
    | (with_reducible apply Kept.of_eq2; with_reducible assumption)
    | (with_reducible apply Kept.of_eq3; with_reducible assumption)
    | (with_reducible apply Kept.of_eq4; with_reducible assumption)
    | with_reducible apply Kept.foldl
    | with_reducible apply Kept.foldl₁
    | with_reducible apply Kept.foldl₂
    | with_reducible apply Kept.foldl₃
    | exact id
    | exact List.Subset.refl _
    | split
    | dsimp +zetaDelta -zeta only
    | with_reducible apply Kept.frame
    | intro _
    | dsimp only

theorem execPgSealRelease_kept {s₀ s : State} {p : Fin 32} {b : Fin 64} {i : Fin 16} {v : Word32} (hk : Kept s₀ s) : KeptR s₀ (execPgSealRelease p b i v s) := by
  unfold execPgSealRelease
  repeat' first
    | with_reducible assumption
    | with_reducible apply KeptR.next
    | ((try lift_lets -underBinder); intro x; clear_value (hx : x = _); refine Kept.cut (a := s₀) hx ?_ (fun hk' => ?_); rotate_left; clear hx; rotate_right)
    | ((try lift_lets -underBinder); intro x)
    | with_reducible apply State.set_kept
    | with_reducible apply State.mmioWrite_kept
    | with_reducible apply State.freeSeal_kept
    | with_reducible apply State.tellSeal_kept
    | (with_reducible apply Kept.of_eq2; with_reducible assumption)
    | (with_reducible apply Kept.of_eq3; with_reducible assumption)
    | (with_reducible apply Kept.of_eq4; with_reducible assumption)
    | with_reducible apply Kept.foldl
    | with_reducible apply Kept.foldl₁
    | with_reducible apply Kept.foldl₂
    | with_reducible apply Kept.foldl₃
    | exact id
    | exact List.Subset.refl _
    | split
    | dsimp +zetaDelta -zeta only
    | with_reducible apply Kept.frame
    | intro _
    | dsimp only

theorem execSealBreak_kept {s₀ s : State} {src : ModuleId} {uid : BitVec 64} {i : Fin 16} (hk : Kept s₀ s) : KeptR s₀ (execSealBreak src uid i s) := by
  unfold execSealBreak
  repeat' first
    | with_reducible assumption
    | with_reducible apply KeptR.next
    | ((try lift_lets -underBinder); intro x; clear_value (hx : x = _); refine Kept.cut (a := s₀) hx ?_ (fun hk' => ?_); rotate_left; clear hx; rotate_right)
    | ((try lift_lets -underBinder); intro x)
    | with_reducible apply State.emit_kept
    | with_reducible apply State.breakSeal_kept
    | (with_reducible apply Kept.of_eq2; with_reducible assumption)
    | (with_reducible apply Kept.of_eq3; with_reducible assumption)
    | (with_reducible apply Kept.of_eq4; with_reducible assumption)
    | with_reducible apply Kept.foldl
    | with_reducible apply Kept.foldl₁
    | with_reducible apply Kept.foldl₂
    | with_reducible apply Kept.foldl₃
    | exact id
    | exact List.Subset.refl _
    | split
    | dsimp +zetaDelta -zeta only
    | with_reducible apply Kept.frame
    | intro _
    | dsimp only

theorem execPlaitLoad_kept {s₀ s : State} {a : Agent} {v : Word32} (hk : Kept s₀ s) : KeptR s₀ (execPlaitLoad a v s) := by
  unfold execPlaitLoad
  repeat' first
    | with_reducible assumption
    | with_reducible apply KeptR.next
    | ((try lift_lets -underBinder); intro x; clear_value (hx : x = _); refine Kept.cut (a := s₀) hx ?_ (fun hk' => ?_); rotate_left; clear hx; rotate_right)
    | ((try lift_lets -underBinder); intro x)
    | with_reducible apply State.set_kept
    | (with_reducible apply Kept.of_eq2; with_reducible assumption)
    | (with_reducible apply Kept.of_eq3; with_reducible assumption)
    | (with_reducible apply Kept.of_eq4; with_reducible assumption)
    | with_reducible apply Kept.foldl
    | with_reducible apply Kept.foldl₁
    | with_reducible apply Kept.foldl₂
    | with_reducible apply Kept.foldl₃
    | exact id
    | exact List.Subset.refl _
    | split
    | dsimp +zetaDelta -zeta only
    | with_reducible apply Kept.frame
    | intro _
    | dsimp only

theorem execPlaitAbort_kept {s₀ s : State} {a : Agent} {v : Word32} (hk : Kept s₀ s) : KeptR s₀ (execPlaitAbort a v s) := by
  unfold execPlaitAbort
  repeat' first
    | with_reducible assumption
    | with_reducible apply KeptR.next
    | ((try lift_lets -underBinder); intro x; clear_value (hx : x = _); refine Kept.cut (a := s₀) hx ?_ (fun hk' => ?_); rotate_left; clear hx; rotate_right)
    | ((try lift_lets -underBinder); intro x)
    | with_reducible apply State.plaitFail_kept
    | (with_reducible apply Kept.of_eq2; with_reducible assumption)
    | (with_reducible apply Kept.of_eq3; with_reducible assumption)
    | (with_reducible apply Kept.of_eq4; with_reducible assumption)
    | with_reducible apply Kept.foldl
    | with_reducible apply Kept.foldl₁
    | with_reducible apply Kept.foldl₂
    | with_reducible apply Kept.foldl₃
    | exact id
    | exact List.Subset.refl _
    | split
    | dsimp +zetaDelta -zeta only
    | with_reducible apply Kept.frame
    | intro _
    | dsimp only

theorem execChannelRetire_kept {s₀ s : State} {ch : Fin 256} (hk : Kept s₀ s) : KeptR s₀ (execChannelRetire ch s) := by
  unfold execChannelRetire
  repeat' first
    | with_reducible assumption
    | with_reducible apply KeptR.next
    | exact List.mem_append_left _ (by with_reducible assumption)
    | ((try lift_lets -underBinder); intro x; clear_value (hx : x = _); refine Kept.cut (a := s₀) hx ?_ (fun hk' => ?_); rotate_left; clear hx; rotate_right)
    | ((try lift_lets -underBinder); intro x)
    | with_reducible apply State.set_kept
    | with_reducible apply State.refreshCaps_kept
    | with_reducible apply State.capChange_kept
    | with_reducible apply State.countPieces_kept
    | with_reducible apply State.shrinkLoad_kept
    | with_reducible apply State.evacuateChan_kept
    | with_reducible apply State.dropChan_kept
    | (with_reducible apply Kept.of_eq2; with_reducible assumption)
    | (with_reducible apply Kept.of_eq3; with_reducible assumption)
    | (with_reducible apply Kept.of_eq4; with_reducible assumption)
    | with_reducible apply Kept.foldl
    | with_reducible apply Kept.foldl₁
    | with_reducible apply Kept.foldl₂
    | with_reducible apply Kept.foldl₃
    | exact id
    | exact List.Subset.refl _
    | split
    | dsimp +zetaDelta -zeta only
    | with_reducible apply Kept.frame
    | intro _
    | dsimp only

theorem execPlaitChangeEffect_kept {s₀ s : State} {k : Nat} (hk : Kept s₀ s) : KeptR s₀ (execPlaitChangeEffect k s) := by
  unfold execPlaitChangeEffect
  repeat' first
    | with_reducible assumption
    | with_reducible apply KeptR.next
    | ((try lift_lets -underBinder); intro x; clear_value (hx : x = _); refine Kept.cut (a := s₀) hx ?_ (fun hk' => ?_); rotate_left; clear hx; rotate_right)
    | ((try lift_lets -underBinder); intro x)
    | with_reducible apply State.handOver_kept
    | with_reducible apply State.dropChange_kept
    | with_reducible apply State.evacuateChan_kept
    | with_reducible apply State.changeEffect_kept
    | with_reducible apply State.afterChange_kept
    | (with_reducible apply Kept.of_eq2; with_reducible assumption)
    | (with_reducible apply Kept.of_eq3; with_reducible assumption)
    | (with_reducible apply Kept.of_eq4; with_reducible assumption)
    | with_reducible apply Kept.foldl
    | with_reducible apply Kept.foldl₁
    | with_reducible apply Kept.foldl₂
    | with_reducible apply Kept.foldl₃
    | exact id
    | exact List.Subset.refl _
    | split
    | dsimp +zetaDelta -zeta only
    | with_reducible apply Kept.frame
    | intro _
    | dsimp only

theorem execPlaitFetchDone_kept {s₀ s : State}  (hk : Kept s₀ s) : KeptR s₀ (execPlaitFetchDone s) := by
  unfold execPlaitFetchDone
  repeat' first
    | with_reducible assumption
    | with_reducible apply KeptR.next
    | ((try lift_lets -underBinder); intro x; clear_value (hx : x = _); refine Kept.cut (a := s₀) hx ?_ (fun hk' => ?_); rotate_left; clear hx; rotate_right)
    | ((try lift_lets -underBinder); intro x)
    | with_reducible apply State.plaitFail_kept
    | with_reducible apply State.stage_kept
    | (with_reducible apply Kept.of_eq2; with_reducible assumption)
    | (with_reducible apply Kept.of_eq3; with_reducible assumption)
    | (with_reducible apply Kept.of_eq4; with_reducible assumption)
    | with_reducible apply Kept.foldl
    | with_reducible apply Kept.foldl₁
    | with_reducible apply Kept.foldl₂
    | with_reducible apply Kept.foldl₃
    | exact id
    | exact List.Subset.refl _
    | split
    | dsimp +zetaDelta -zeta only
    | with_reducible apply Kept.frame
    | intro _
    | dsimp only

theorem execPlaitCommit_kept {s₀ s : State} (hk : Kept s₀ s) : KeptR s₀ (execPlaitCommit s) := by
  unfold execPlaitCommit
  repeat' first
    | with_reducible assumption
    | with_reducible apply KeptR.next
    | ((try lift_lets -underBinder); intro x; clear_value (hx : x = _); refine Kept.cut (a := s₀) hx ?_ (fun hk' => ?_); rotate_left; clear hx; rotate_right)
    | ((try lift_lets -underBinder); intro x)
    | with_reducible apply State.set_kept
    | with_reducible apply State.setAll_kept
    | with_reducible apply State.set64_kept
    | with_reducible apply State.capChange_kept
    | with_reducible apply State.countPieces_kept
    | with_reducible apply State.plaitEvent_kept
    | with_reducible apply State.commitSection_kept
    | with_reducible apply State.dropLeavers_kept
    | with_reducible apply State.showDrained_kept
    | (with_reducible apply Kept.of_eq2; with_reducible assumption)
    | (with_reducible apply Kept.of_eq3; with_reducible assumption)
    | (with_reducible apply Kept.of_eq4; with_reducible assumption)
    | with_reducible apply Kept.foldl
    | with_reducible apply Kept.foldl₁
    | with_reducible apply Kept.foldl₂
    | with_reducible apply Kept.foldl₃
    | exact id
    | exact List.Subset.refl _
    | split
    | dsimp +zetaDelta -zeta only
    | with_reducible apply Kept.frame
    | intro _
    | dsimp only

theorem execShapeReport_kept {s₀ s : State} {pkt : Packet} {uid : BitVec 64} {shapeGen : Word32} {digest : BitVec 512} (hk : Kept s₀ s) : KeptR s₀ (execShapeReport pkt uid shapeGen digest s) := by
  unfold execShapeReport
  repeat' first
    | with_reducible assumption
    | with_reducible apply KeptR.next
    | ((try lift_lets -underBinder); intro x; clear_value (hx : x = _); refine Kept.cut (a := s₀) hx ?_ (fun hk' => ?_); rotate_left; clear hx; rotate_right)
    | ((try lift_lets -underBinder); intro x)
    | with_reducible apply State.arriveHere_kept
    | with_reducible apply State.takeReport_kept
    | (with_reducible apply Kept.of_eq2; with_reducible assumption)
    | (with_reducible apply Kept.of_eq3; with_reducible assumption)
    | (with_reducible apply Kept.of_eq4; with_reducible assumption)
    | with_reducible apply Kept.foldl
    | with_reducible apply Kept.foldl₁
    | with_reducible apply Kept.foldl₂
    | with_reducible apply Kept.foldl₃
    | exact id
    | exact List.Subset.refl _
    | split
    | dsimp +zetaDelta -zeta only
    | with_reducible apply Kept.frame
    | intro _
    | dsimp only

theorem execShapeState_kept {s₀ s : State} {pkt : Packet} {uid : BitVec 64} {state : Fin 5} (hk : Kept s₀ s) : KeptR s₀ (execShapeState pkt uid state s) := by
  unfold execShapeState
  repeat' first
    | with_reducible assumption
    | with_reducible apply KeptR.next
    | ((try lift_lets -underBinder); intro x; clear_value (hx : x = _); refine Kept.cut (a := s₀) hx ?_ (fun hk' => ?_); rotate_left; clear hx; rotate_right)
    | ((try lift_lets -underBinder); intro x)
    | with_reducible apply State.arriveHere_kept
    | with_reducible apply State.takeShape_kept
    | (with_reducible apply Kept.of_eq2; with_reducible assumption)
    | (with_reducible apply Kept.of_eq3; with_reducible assumption)
    | (with_reducible apply Kept.of_eq4; with_reducible assumption)
    | with_reducible apply Kept.foldl
    | with_reducible apply Kept.foldl₁
    | with_reducible apply Kept.foldl₂
    | with_reducible apply Kept.foldl₃
    | exact id
    | exact List.Subset.refl _
    | split
    | dsimp +zetaDelta -zeta only
    | with_reducible apply Kept.frame
    | intro _
    | dsimp only

theorem execLinkDown_kept {s₀ s : State} {n : Fin 4} (hk : Kept s₀ s) : KeptR s₀ (execLinkDown n s) := by
  unfold execLinkDown
  repeat' first
    | with_reducible assumption
    | with_reducible apply KeptR.next
    | ((try lift_lets -underBinder); intro x; clear_value (hx : x = _); refine Kept.cut (a := s₀) hx ?_ (fun hk' => ?_); rotate_left; clear hx; rotate_right)
    | ((try lift_lets -underBinder); intro x)
    | with_reducible apply State.linkLost_kept
    | (with_reducible apply Kept.of_eq2; with_reducible assumption)
    | (with_reducible apply Kept.of_eq3; with_reducible assumption)
    | (with_reducible apply Kept.of_eq4; with_reducible assumption)
    | with_reducible apply Kept.foldl
    | with_reducible apply Kept.foldl₁
    | with_reducible apply Kept.foldl₂
    | with_reducible apply Kept.foldl₃
    | exact id
    | exact List.Subset.refl _
    | split
    | dsimp +zetaDelta -zeta only
    | with_reducible apply Kept.frame
    | intro _
    | dsimp only

theorem execLinkReturn_kept {s₀ s : State} {n : Fin 4} (hk : Kept s₀ s) : KeptR s₀ (execLinkReturn n s) := by
  unfold execLinkReturn
  repeat' first
    | with_reducible assumption
    | with_reducible apply KeptR.next
    | ((try lift_lets -underBinder); intro x; clear_value (hx : x = _); refine Kept.cut (a := s₀) hx ?_ (fun hk' => ?_); rotate_left; clear hx; rotate_right)
    | ((try lift_lets -underBinder); intro x)
    | with_reducible apply State.set_kept
    | with_reducible apply State.hostEvent_kept
    | with_reducible apply State.setLink_kept
    | with_reducible apply State.wake_kept
    | (with_reducible apply Kept.of_eq2; with_reducible assumption)
    | (with_reducible apply Kept.of_eq3; with_reducible assumption)
    | (with_reducible apply Kept.of_eq4; with_reducible assumption)
    | with_reducible apply Kept.foldl
    | with_reducible apply Kept.foldl₁
    | with_reducible apply Kept.foldl₂
    | with_reducible apply Kept.foldl₃
    | exact id
    | exact List.Subset.refl _
    | split
    | dsimp +zetaDelta -zeta only
    | with_reducible apply Kept.frame
    | intro _
    | dsimp only

theorem execBootRomEntry_kept {s₀ s : State} (hk : Kept s₀ s) : KeptR s₀ (execBootRomEntry s) := by
  unfold execBootRomEntry
  repeat' first
    | with_reducible assumption
    | with_reducible apply KeptR.next
    | ((try lift_lets -underBinder); intro x; clear_value (hx : x = _); refine Kept.cut (a := s₀) hx ?_ (fun hk' => ?_); rotate_left; clear hx; rotate_right)
    | ((try lift_lets -underBinder); intro x)
    | with_reducible apply State.set_kept
    | with_reducible apply State.count_kept
    | with_reducible apply State.refreshServing_kept
    | with_reducible apply State.powerUpBoot_kept
    | with_reducible apply State.reseatBoot_kept
    | with_reducible apply State.reseatError_kept
    | with_reducible apply State.restartDone_kept
    | with_reducible apply State.retrainLinks_kept
    | (with_reducible apply Kept.of_eq2; with_reducible assumption)
    | (with_reducible apply Kept.of_eq3; with_reducible assumption)
    | (with_reducible apply Kept.of_eq4; with_reducible assumption)
    | with_reducible apply Kept.foldl
    | with_reducible apply Kept.foldl₁
    | with_reducible apply Kept.foldl₂
    | with_reducible apply Kept.foldl₃
    | exact id
    | exact List.Subset.refl _
    | split
    | dsimp +zetaDelta -zeta only
    | with_reducible apply Kept.frame
    | intro _
    | dsimp only

theorem execDmaCompletion_kept {s₀ s : State} {n : Fin 4} {req : Nat} {ok : Bool} (hk : Kept s₀ s) : KeptR s₀ (execDmaCompletion n req ok s) := by
  unfold execDmaCompletion
  repeat' first
    | with_reducible assumption
    | with_reducible apply KeptR.next
    | ((try lift_lets -underBinder); intro x; clear_value (hx : x = _); refine Kept.cut (a := s₀) hx ?_ (fun hk' => ?_); rotate_left; clear hx; rotate_right)
    | ((try lift_lets -underBinder); intro x)
    | with_reducible apply State.bump64_kept
    | with_reducible apply State.report_kept
    | with_reducible apply State.recordFault_kept
    | with_reducible apply State.integrityFail_kept
    | with_reducible apply State.endWait_kept
    | with_reducible apply State.failEntry_kept
    | with_reducible apply State.endAccess_kept
    | with_reducible apply State.dmaWrite_kept
    | (with_reducible apply Kept.of_eq2; with_reducible assumption)
    | (with_reducible apply Kept.of_eq3; with_reducible assumption)
    | (with_reducible apply Kept.of_eq4; with_reducible assumption)
    | with_reducible apply Kept.foldl
    | with_reducible apply Kept.foldl₁
    | with_reducible apply Kept.foldl₂
    | with_reducible apply Kept.foldl₃
    | exact id
    | exact List.Subset.refl _
    | split
    | dsimp +zetaDelta -zeta only
    | with_reducible apply Kept.frame
    | intro _
    | dsimp only

theorem execFlrVf_kept {s₀ s : State} {p : Fin 32} (hk : Kept s₀ s) : KeptR s₀ (execFlrVf p s) := by
  unfold execFlrVf
  repeat' first
    | with_reducible assumption
    | with_reducible apply KeptR.next
    | ((try lift_lets -underBinder); intro x; clear_value (hx : x = _); refine Kept.cut (a := s₀) hx ?_ (fun hk' => ?_); rotate_left; clear hx; rotate_right)
    | ((try lift_lets -underBinder); intro x)
    | with_reducible apply State.flr_kept
    | (with_reducible apply Kept.of_eq2; with_reducible assumption)
    | (with_reducible apply Kept.of_eq3; with_reducible assumption)
    | (with_reducible apply Kept.of_eq4; with_reducible assumption)
    | with_reducible apply Kept.foldl
    | with_reducible apply Kept.foldl₁
    | with_reducible apply Kept.foldl₂
    | with_reducible apply Kept.foldl₃
    | exact id
    | exact List.Subset.refl _
    | split
    | dsimp +zetaDelta -zeta only
    | with_reducible apply Kept.frame
    | intro _
    | dsimp only

theorem execFlrPf_kept {s₀ s : State}  (hk : Kept s₀ s) : KeptR s₀ (execFlrPf s) := by
  unfold execFlrPf
  repeat' first
    | with_reducible assumption
    | with_reducible apply KeptR.next
    | ((try lift_lets -underBinder); intro x; clear_value (hx : x = _); refine Kept.cut (a := s₀) hx ?_ (fun hk' => ?_); rotate_left; clear hx; rotate_right)
    | ((try lift_lets -underBinder); intro x)
    | with_reducible apply State.flr_kept
    | (with_reducible apply Kept.of_eq2; with_reducible assumption)
    | (with_reducible apply Kept.of_eq3; with_reducible assumption)
    | (with_reducible apply Kept.of_eq4; with_reducible assumption)
    | with_reducible apply Kept.foldl
    | with_reducible apply Kept.foldl₁
    | with_reducible apply Kept.foldl₂
    | with_reducible apply Kept.foldl₃
    | exact id
    | exact List.Subset.refl _
    | split
    | dsimp +zetaDelta -zeta only
    | with_reducible apply Kept.frame
    | intro _
    | dsimp only

theorem execFlrCarrier_kept {s₀ s : State} {n : Fin 4} (hk : Kept s₀ s) : KeptR s₀ (execFlrCarrier n s) := by
  unfold execFlrCarrier
  repeat' first
    | with_reducible assumption
    | with_reducible apply KeptR.next
    | ((try lift_lets -underBinder); intro x; clear_value (hx : x = _); refine Kept.cut (a := s₀) hx ?_ (fun hk' => ?_); rotate_left; clear hx; rotate_right)
    | ((try lift_lets -underBinder); intro x)
    | with_reducible apply State.hostEvent_kept
    | with_reducible apply State.resetFn_kept
    | (with_reducible apply Kept.of_eq2; with_reducible assumption)
    | (with_reducible apply Kept.of_eq3; with_reducible assumption)
    | (with_reducible apply Kept.of_eq4; with_reducible assumption)
    | with_reducible apply Kept.foldl
    | with_reducible apply Kept.foldl₁
    | with_reducible apply Kept.foldl₂
    | with_reducible apply Kept.foldl₃
    | exact id
    | exact List.Subset.refl _
    | split
    | dsimp +zetaDelta -zeta only
    | with_reducible apply Kept.frame
    | intro _
    | dsimp only

theorem execTdispNonIdeTlp_kept {s₀ s : State} {p : Fin 32} (hk : Kept s₀ s) : KeptR s₀ (execTdispNonIdeTlp p s) := by
  unfold execTdispNonIdeTlp
  repeat' first
    | with_reducible assumption
    | with_reducible apply KeptR.next
    | ((try lift_lets -underBinder); intro x; clear_value (hx : x = _); refine Kept.cut (a := s₀) hx ?_ (fun hk' => ?_); rotate_left; clear hx; rotate_right)
    | ((try lift_lets -underBinder); intro x)
    | with_reducible apply State.tdispError_kept
    | (with_reducible apply Kept.of_eq2; with_reducible assumption)
    | (with_reducible apply Kept.of_eq3; with_reducible assumption)
    | (with_reducible apply Kept.of_eq4; with_reducible assumption)
    | with_reducible apply Kept.foldl
    | with_reducible apply Kept.foldl₁
    | with_reducible apply Kept.foldl₂
    | with_reducible apply Kept.foldl₃
    | exact id
    | exact List.Subset.refl _
    | split
    | dsimp +zetaDelta -zeta only
    | with_reducible apply Kept.frame
    | intro _
    | dsimp only

theorem execLockInterfaceRequest_kept {s₀ s : State} {p : Fin 32} (hk : Kept s₀ s) : KeptR s₀ (execLockInterfaceRequest p s) := by
  unfold execLockInterfaceRequest
  repeat' first
    | with_reducible assumption
    | with_reducible apply KeptR.next
    | ((try lift_lets -underBinder); intro x; clear_value (hx : x = _); refine Kept.cut (a := s₀) hx ?_ (fun hk' => ?_); rotate_left; clear hx; rotate_right)
    | ((try lift_lets -underBinder); intro x)
    | with_reducible apply State.set_kept
    | (with_reducible apply Kept.of_eq2; with_reducible assumption)
    | (with_reducible apply Kept.of_eq3; with_reducible assumption)
    | (with_reducible apply Kept.of_eq4; with_reducible assumption)
    | with_reducible apply Kept.foldl
    | with_reducible apply Kept.foldl₁
    | with_reducible apply Kept.foldl₂
    | with_reducible apply Kept.foldl₃
    | exact id
    | exact List.Subset.refl _
    | split
    | dsimp +zetaDelta -zeta only
    | with_reducible apply Kept.frame
    | intro _
    | dsimp only

theorem execTdispRun_kept {s₀ s : State} {p : Fin 32} (hk : Kept s₀ s) : KeptR s₀ (execTdispRun p s) := by
  unfold execTdispRun
  repeat' first
    | with_reducible assumption
    | with_reducible apply KeptR.next
    | ((try lift_lets -underBinder); intro x; clear_value (hx : x = _); refine Kept.cut (a := s₀) hx ?_ (fun hk' => ?_); rotate_left; clear hx; rotate_right)
    | ((try lift_lets -underBinder); intro x)
    | with_reducible apply State.set_kept
    | (with_reducible apply Kept.of_eq2; with_reducible assumption)
    | (with_reducible apply Kept.of_eq3; with_reducible assumption)
    | (with_reducible apply Kept.of_eq4; with_reducible assumption)
    | with_reducible apply Kept.foldl
    | with_reducible apply Kept.foldl₁
    | with_reducible apply Kept.foldl₂
    | with_reducible apply Kept.foldl₃
    | exact id
    | exact List.Subset.refl _
    | split
    | dsimp +zetaDelta -zeta only
    | with_reducible apply Kept.frame
    | intro _
    | dsimp only

theorem execIdeKmKeyProg_kept {s₀ s : State} {n : Fin 4} {stream : BitVec 8} {key : BitVec 256} (hk : Kept s₀ s) : KeptR s₀ (execIdeKmKeyProg n stream key s) := by
  unfold execIdeKmKeyProg
  repeat' first
    | with_reducible assumption
    | with_reducible apply KeptR.next
    | ((try lift_lets -underBinder); intro x; clear_value (hx : x = _); refine Kept.cut (a := s₀) hx ?_ (fun hk' => ?_); rotate_left; clear hx; rotate_right)
    | ((try lift_lets -underBinder); intro x)
    | with_reducible apply State.set_kept
    | (with_reducible apply Kept.of_eq2; with_reducible assumption)
    | (with_reducible apply Kept.of_eq3; with_reducible assumption)
    | (with_reducible apply Kept.of_eq4; with_reducible assumption)
    | with_reducible apply Kept.foldl
    | with_reducible apply Kept.foldl₁
    | with_reducible apply Kept.foldl₂
    | with_reducible apply Kept.foldl₃
    | exact id
    | exact List.Subset.refl _
    | split
    | dsimp +zetaDelta -zeta only
    | with_reducible apply Kept.frame
    | intro _
    | dsimp only

theorem execLidCharter_kept {s₀ s : State} {p : Fin 32} {charter charterKey : List Byte} (hk : Kept s₀ s) : KeptR s₀ (execLidCharter p charter charterKey s) := by
  unfold execLidCharter
  repeat' first
    | with_reducible assumption
    | with_reducible apply KeptR.next
    | ((try lift_lets -underBinder); intro x; clear_value (hx : x = _); refine Kept.cut (a := s₀) hx ?_ (fun hk' => ?_); rotate_left; clear hx; rotate_right)
    | ((try lift_lets -underBinder); intro x)
    | with_reducible apply State.set_kept
    | with_reducible apply State.drawn_kept
    | with_reducible apply State.draw768_kept
    | with_reducible apply State.setLid_kept
    | with_reducible apply State.loadLidKeys_kept
    | with_reducible apply State.shareKeys_kept
    | (with_reducible apply Kept.of_eq2; with_reducible assumption)
    | (with_reducible apply Kept.of_eq3; with_reducible assumption)
    | (with_reducible apply Kept.of_eq4; with_reducible assumption)
    | with_reducible apply Kept.foldl
    | with_reducible apply Kept.foldl₁
    | with_reducible apply Kept.foldl₂
    | with_reducible apply Kept.foldl₃
    | exact id
    | exact List.Subset.refl _
    | split
    | dsimp +zetaDelta -zeta only
    | with_reducible apply Kept.frame
    | intro _
    | dsimp only

theorem execKeyDist_kept {s₀ s : State} {p : Fin 32} {lidId : BitVec 64} {charterDigest : BitVec 512} {epoch : BitVec 8} {memKey : BitVec 768} {macKey : BitVec 512} (hk : Kept s₀ s) : KeptR s₀ (execKeyDist p lidId charterDigest epoch memKey macKey s) := by
  unfold execKeyDist
  repeat' first
    | with_reducible assumption
    | with_reducible apply KeptR.next
    | ((try lift_lets -underBinder); intro x; clear_value (hx : x = _); refine Kept.cut (a := s₀) hx ?_ (fun hk' => ?_); rotate_left; clear hx; rotate_right)
    | ((try lift_lets -underBinder); intro x)
    | with_reducible apply State.sendRim_kept
    | with_reducible apply State.loadLidKeys_kept
    | (with_reducible apply Kept.of_eq2; with_reducible assumption)
    | (with_reducible apply Kept.of_eq3; with_reducible assumption)
    | (with_reducible apply Kept.of_eq4; with_reducible assumption)
    | with_reducible apply Kept.foldl
    | with_reducible apply Kept.foldl₁
    | with_reducible apply Kept.foldl₂
    | with_reducible apply Kept.foldl₃
    | exact id
    | exact List.Subset.refl _
    | split
    | dsimp +zetaDelta -zeta only
    | with_reducible apply Kept.frame
    | intro _
    | dsimp only

theorem execKeyAck_kept {s₀ s : State} {p : Fin 32} {src : ModuleId} (hk : Kept s₀ s) : KeptR s₀ (execKeyAck p src s) := by
  unfold execKeyAck
  repeat' first
    | with_reducible assumption
    | with_reducible apply KeptR.next
    | ((try lift_lets -underBinder); intro x; clear_value (hx : x = _); refine Kept.cut (a := s₀) hx ?_ (fun hk' => ?_); rotate_left; clear hx; rotate_right)
    | ((try lift_lets -underBinder); intro x)
    | with_reducible apply State.unmarkLost_kept
    | with_reducible apply State.setLid_kept
    | with_reducible apply State.sendRim_kept
    | with_reducible apply State.lidActive_kept
    | (with_reducible apply Kept.of_eq2; with_reducible assumption)
    | (with_reducible apply Kept.of_eq3; with_reducible assumption)
    | (with_reducible apply Kept.of_eq4; with_reducible assumption)
    | with_reducible apply Kept.foldl
    | with_reducible apply Kept.foldl₁
    | with_reducible apply Kept.foldl₂
    | with_reducible apply Kept.foldl₃
    | exact id
    | exact List.Subset.refl _
    | split
    | dsimp +zetaDelta -zeta only
    | with_reducible apply Kept.frame
    | intro _
    | dsimp only

theorem execLidReady_kept {s₀ s : State} {p : Fin 32} {lidId : BitVec 64} (hk : Kept s₀ s) : KeptR s₀ (execLidReady p lidId s) := by
  unfold execLidReady
  repeat' first
    | with_reducible assumption
    | with_reducible apply KeptR.next
    | ((try lift_lets -underBinder); intro x; clear_value (hx : x = _); refine Kept.cut (a := s₀) hx ?_ (fun hk' => ?_); rotate_left; clear hx; rotate_right)
    | ((try lift_lets -underBinder); intro x)
    | with_reducible apply State.lidActive_kept
    | (with_reducible apply Kept.of_eq2; with_reducible assumption)
    | (with_reducible apply Kept.of_eq3; with_reducible assumption)
    | (with_reducible apply Kept.of_eq4; with_reducible assumption)
    | with_reducible apply Kept.foldl
    | with_reducible apply Kept.foldl₁
    | with_reducible apply Kept.foldl₂
    | with_reducible apply Kept.foldl₃
    | exact id
    | exact List.Subset.refl _
    | split
    | dsimp +zetaDelta -zeta only
    | with_reducible apply Kept.frame
    | intro _
    | dsimp only

theorem execKeyDistTimeout_kept {s₀ s : State} {p : Fin 32} (hk : Kept s₀ s) : KeptR s₀ (execKeyDistTimeout p s) := by
  unfold execKeyDistTimeout
  repeat' first
    | with_reducible assumption
    | with_reducible apply KeptR.next
    | ((try lift_lets -underBinder); intro x; clear_value (hx : x = _); refine Kept.cut (a := s₀) hx ?_ (fun hk' => ?_); rotate_left; clear hx; rotate_right)
    | ((try lift_lets -underBinder); intro x)
    | with_reducible apply State.startRemoval_kept
    | (with_reducible apply Kept.of_eq2; with_reducible assumption)
    | (with_reducible apply Kept.of_eq3; with_reducible assumption)
    | (with_reducible apply Kept.of_eq4; with_reducible assumption)
    | with_reducible apply Kept.foldl
    | with_reducible apply Kept.foldl₁
    | with_reducible apply Kept.foldl₂
    | with_reducible apply Kept.foldl₃
    | exact id
    | exact List.Subset.refl _
    | split
    | dsimp +zetaDelta -zeta only
    | with_reducible apply Kept.frame
    | intro _
    | dsimp only

theorem execLidAmend_kept {s₀ s : State} {p : Fin 32} {charter charterKey : List Byte} (hk : Kept s₀ s) : KeptR s₀ (execLidAmend p charter charterKey s) := by
  unfold execLidAmend
  repeat' first
    | with_reducible assumption
    | with_reducible apply KeptR.next
    | ((try lift_lets -underBinder); intro x; clear_value (hx : x = _); refine Kept.cut (a := s₀) hx ?_ (fun hk' => ?_); rotate_left; clear hx; rotate_right)
    | ((try lift_lets -underBinder); intro x)
    | with_reducible apply State.setLid_kept
    | with_reducible apply State.stepEpochs_kept
    | with_reducible apply State.lidActive_kept
    | with_reducible apply State.shareKeys_kept
    | with_reducible apply State.startRemoval_kept
    | (with_reducible apply Kept.of_eq2; with_reducible assumption)
    | (with_reducible apply Kept.of_eq3; with_reducible assumption)
    | (with_reducible apply Kept.of_eq4; with_reducible assumption)
    | with_reducible apply Kept.foldl
    | with_reducible apply Kept.foldl₁
    | with_reducible apply Kept.foldl₂
    | with_reducible apply Kept.foldl₃
    | exact id
    | exact List.Subset.refl _
    | split
    | dsimp +zetaDelta -zeta only
    | with_reducible apply Kept.frame
    | intro _
    | dsimp only

theorem execLidDissolve_kept {s₀ s : State} {p : Fin 32} {lidId : BitVec 64} {sig : List Byte} (hk : Kept s₀ s) : KeptR s₀ (execLidDissolve p lidId sig s) := by
  unfold execLidDissolve
  repeat' first
    | with_reducible assumption
    | with_reducible apply KeptR.next
    | ((try lift_lets -underBinder); intro x; clear_value (hx : x = _); refine Kept.cut (a := s₀) hx ?_ (fun hk' => ?_); rotate_left; clear hx; rotate_right)
    | ((try lift_lets -underBinder); intro x)
    | with_reducible apply State.startRemoval_kept
    | (with_reducible apply Kept.of_eq2; with_reducible assumption)
    | (with_reducible apply Kept.of_eq3; with_reducible assumption)
    | (with_reducible apply Kept.of_eq4; with_reducible assumption)
    | with_reducible apply Kept.foldl
    | with_reducible apply Kept.foldl₁
    | with_reducible apply Kept.foldl₂
    | with_reducible apply Kept.foldl₃
    | exact id
    | exact List.Subset.refl _
    | split
    | dsimp +zetaDelta -zeta only
    | with_reducible apply Kept.frame
    | intro _
    | dsimp only

theorem execRevoke_kept {s₀ s : State} {lidId : BitVec 64} {src : ModuleId} {slot epoch : BitVec 8} {mac : BitVec 512} (hk : Kept s₀ s) : KeptR s₀ (execRevoke lidId src slot epoch mac s) := by
  unfold execRevoke
  repeat' first
    | with_reducible assumption
    | with_reducible apply KeptR.next
    | ((try lift_lets -underBinder); intro x; clear_value (hx : x = _); refine Kept.cut (a := s₀) hx ?_ (fun hk' => ?_); rotate_left; clear hx; rotate_right)
    | ((try lift_lets -underBinder); intro x)
    | with_reducible apply State.unmarkLost_kept
    | with_reducible apply State.startRemoval_kept
    | (with_reducible apply Kept.of_eq2; with_reducible assumption)
    | (with_reducible apply Kept.of_eq3; with_reducible assumption)
    | (with_reducible apply Kept.of_eq4; with_reducible assumption)
    | with_reducible apply Kept.foldl
    | with_reducible apply Kept.foldl₁
    | with_reducible apply Kept.foldl₂
    | with_reducible apply Kept.foldl₃
    | exact id
    | exact List.Subset.refl _
    | split
    | dsimp +zetaDelta -zeta only
    | with_reducible apply Kept.frame
    | intro _
    | dsimp only

theorem execDepart_kept {s₀ s : State} {lidId : BitVec 64} {src : ModuleId} {mac : BitVec 512} (hk : Kept s₀ s) : KeptR s₀ (execDepart lidId src mac s) := by
  unfold execDepart
  repeat' first
    | with_reducible assumption
    | with_reducible apply KeptR.next
    | ((try lift_lets -underBinder); intro x; clear_value (hx : x = _); refine Kept.cut (a := s₀) hx ?_ (fun hk' => ?_); rotate_left; clear hx; rotate_right)
    | ((try lift_lets -underBinder); intro x)
    | with_reducible apply State.unmarkLost_kept
    | with_reducible apply State.sendRim_kept
    | with_reducible apply State.stepEpochs_kept
    | (with_reducible apply Kept.of_eq2; with_reducible assumption)
    | (with_reducible apply Kept.of_eq3; with_reducible assumption)
    | (with_reducible apply Kept.of_eq4; with_reducible assumption)
    | with_reducible apply Kept.foldl
    | with_reducible apply Kept.foldl₁
    | with_reducible apply Kept.foldl₂
    | with_reducible apply Kept.foldl₃
    | exact id
    | exact List.Subset.refl _
    | split
    | dsimp +zetaDelta -zeta only
    | with_reducible apply Kept.frame
    | intro _
    | dsimp only

theorem execLidPartRemove_kept {s₀ s : State} {a : Agent} {p : Fin 32} {v : Word32} (hk : Kept s₀ s) : KeptR s₀ (execLidPartRemove a p v s) := by
  unfold execLidPartRemove
  repeat' first
    | with_reducible assumption
    | with_reducible apply KeptR.next
    | ((try lift_lets -underBinder); intro x; clear_value (hx : x = _); refine Kept.cut (a := s₀) hx ?_ (fun hk' => ?_); rotate_left; clear hx; rotate_right)
    | ((try lift_lets -underBinder); intro x)
    | with_reducible apply State.set_kept
    | with_reducible apply State.mmioWrite_kept
    | with_reducible apply State.startRemoval_kept
    | (with_reducible apply Kept.of_eq2; with_reducible assumption)
    | (with_reducible apply Kept.of_eq3; with_reducible assumption)
    | (with_reducible apply Kept.of_eq4; with_reducible assumption)
    | with_reducible apply Kept.foldl
    | with_reducible apply Kept.foldl₁
    | with_reducible apply Kept.foldl₂
    | with_reducible apply Kept.foldl₃
    | exact id
    | exact List.Subset.refl _
    | split
    | dsimp +zetaDelta -zeta only
    | with_reducible apply Kept.frame
    | intro _
    | dsimp only

theorem execRevokeAck_kept {s₀ s : State} {p : Fin 32} {src : ModuleId} (hk : Kept s₀ s) : KeptR s₀ (execRevokeAck p src s) := by
  unfold execRevokeAck
  repeat' first
    | with_reducible assumption
    | with_reducible apply KeptR.next
    | ((try lift_lets -underBinder); intro x; clear_value (hx : x = _); refine Kept.cut (a := s₀) hx ?_ (fun hk' => ?_); rotate_left; clear hx; rotate_right)
    | ((try lift_lets -underBinder); intro x)
    | with_reducible apply State.unmarkLost_kept
    | with_reducible apply State.setLid_kept
    | with_reducible apply State.removalStep_kept
    | (with_reducible apply Kept.of_eq2; with_reducible assumption)
    | (with_reducible apply Kept.of_eq3; with_reducible assumption)
    | (with_reducible apply Kept.of_eq4; with_reducible assumption)
    | with_reducible apply Kept.foldl
    | with_reducible apply Kept.foldl₁
    | with_reducible apply Kept.foldl₂
    | with_reducible apply Kept.foldl₃
    | exact id
    | exact List.Subset.refl _
    | split
    | dsimp +zetaDelta -zeta only
    | with_reducible apply Kept.frame
    | intro _
    | dsimp only

theorem execRevokeTimeout_kept {s₀ s : State} {p : Fin 32} (hk : Kept s₀ s) : KeptR s₀ (execRevokeTimeout p s) := by
  unfold execRevokeTimeout
  repeat' first
    | with_reducible assumption
    | with_reducible apply KeptR.next
    | ((try lift_lets -underBinder); intro x; clear_value (hx : x = _); refine Kept.cut (a := s₀) hx ?_ (fun hk' => ?_); rotate_left; clear hx; rotate_right)
    | ((try lift_lets -underBinder); intro x)
    | with_reducible apply State.set_kept
    | with_reducible apply State.count_kept
    | with_reducible apply State.setLid_kept
    | with_reducible apply State.removalStep_kept
    | (with_reducible apply Kept.of_eq2; with_reducible assumption)
    | (with_reducible apply Kept.of_eq3; with_reducible assumption)
    | (with_reducible apply Kept.of_eq4; with_reducible assumption)
    | with_reducible apply Kept.foldl
    | with_reducible apply Kept.foldl₁
    | with_reducible apply Kept.foldl₂
    | with_reducible apply Kept.foldl₃
    | exact id
    | exact List.Subset.refl _
    | split
    | dsimp +zetaDelta -zeta only
    | with_reducible apply Kept.frame
    | intro _
    | dsimp only

theorem execLidScrubDone_kept {s₀ s : State} {p : Fin 32} (hk : Kept s₀ s) : KeptR s₀ (execLidScrubDone p s) := by
  unfold execLidScrubDone
  repeat' first
    | with_reducible assumption
    | with_reducible apply KeptR.next
    | ((try lift_lets -underBinder); intro x; clear_value (hx : x = _); refine Kept.cut (a := s₀) hx ?_ (fun hk' => ?_); rotate_left; clear hx; rotate_right)
    | ((try lift_lets -underBinder); intro x)
    | with_reducible apply State.setAll_kept
    | with_reducible apply State.bump64_kept
    | with_reducible apply State.capChange_kept
    | with_reducible apply State.setLid_kept
    | with_reducible apply State.countPieces_kept
    | with_reducible apply State.zeroChan_kept
    | with_reducible apply State.showDrained_kept
    | with_reducible apply State.scrubPiece_kept
    | (with_reducible apply Kept.of_eq2; with_reducible assumption)
    | (with_reducible apply Kept.of_eq3; with_reducible assumption)
    | (with_reducible apply Kept.of_eq4; with_reducible assumption)
    | with_reducible apply Kept.foldl
    | with_reducible apply Kept.foldl₁
    | with_reducible apply Kept.foldl₂
    | with_reducible apply Kept.foldl₃
    | exact id
    | exact List.Subset.refl _
    | split
    | dsimp +zetaDelta -zeta only
    | with_reducible apply Kept.frame
    | intro _
    | dsimp only

theorem execEngineResetDrained_kept {s₀ s : State} {engine : Fin 372} (hk : Kept s₀ s) : KeptR s₀ (execEngineResetDrained engine s) := by
  unfold execEngineResetDrained
  repeat' first
    | with_reducible assumption
    | with_reducible apply KeptR.next
    | ((try lift_lets -underBinder); intro x; clear_value (hx : x = _); refine Kept.cut (a := s₀) hx ?_ (fun hk' => ?_); rotate_left; clear hx; rotate_right)
    | ((try lift_lets -underBinder); intro x)
    | with_reducible apply State.showPeer_kept
    | with_reducible apply State.forwardAll_kept
    | with_reducible apply State.recallExpress_kept
    | with_reducible apply State.leaveUp_kept
    | with_reducible apply State.afterMoves_kept
    | with_reducible apply State.linkLost_kept
    | with_reducible apply State.resetCore_kept
    | with_reducible apply State.resetMover_kept
    | (with_reducible apply Kept.of_eq2; with_reducible assumption)
    | (with_reducible apply Kept.of_eq3; with_reducible assumption)
    | (with_reducible apply Kept.of_eq4; with_reducible assumption)
    | with_reducible apply Kept.foldl
    | with_reducible apply Kept.foldl₁
    | with_reducible apply Kept.foldl₂
    | with_reducible apply Kept.foldl₃
    | exact id
    | exact List.Subset.refl _
    | split
    | dsimp +zetaDelta -zeta only
    | with_reducible apply Kept.frame
    | intro _
    | dsimp only

theorem execEngineBistDone_kept {s₀ s : State} {engine : Fin 372} {passed : Bool} (hk : Kept s₀ s) : KeptR s₀ (execEngineBistDone engine passed s) := by
  unfold execEngineBistDone
  repeat' first
    | with_reducible assumption
    | with_reducible apply KeptR.next
    | ((try lift_lets -underBinder); intro x; clear_value (hx : x = _); refine Kept.cut (a := s₀) hx ?_ (fun hk' => ?_); rotate_left; clear hx; rotate_right)
    | ((try lift_lets -underBinder); intro x)
    | with_reducible apply State.set_kept
    | with_reducible apply State.count_kept
    | with_reducible apply State.markSite_kept
    | with_reducible apply State.reschedule_kept
    | with_reducible apply State.placeShards_kept
    | (with_reducible apply Kept.of_eq2; with_reducible assumption)
    | (with_reducible apply Kept.of_eq3; with_reducible assumption)
    | (with_reducible apply Kept.of_eq4; with_reducible assumption)
    | with_reducible apply Kept.foldl
    | with_reducible apply Kept.foldl₁
    | with_reducible apply Kept.foldl₂
    | with_reducible apply Kept.foldl₃
    | exact id
    | exact List.Subset.refl _
    | split
    | dsimp +zetaDelta -zeta only
    | with_reducible apply Kept.frame
    | intro _
    | dsimp only

theorem State.writeEdit_kept {s₀ s : State} {p : Fin 32} {v : Word32} (hk : Kept s₀ s) : KeptR s₀ (State.writeEdit s p v) := by
  unfold State.writeEdit
  repeat' first
    | with_reducible assumption
    | with_reducible apply KeptR.next
    | with_reducible apply execEditInvalidate_kept
    | with_reducible apply execEditUnmap_kept
    | with_reducible apply execEditSetRights_kept
    | with_reducible apply execEditObjCreate_kept
    | with_reducible apply execEditObjFree_kept
    | with_reducible apply execEditFrameReserve_kept
    | with_reducible apply execEditFrameRelease_kept
    | ((try lift_lets -underBinder); intro x; clear_value (hx : x = _); refine Kept.cut (a := s₀) hx ?_ (fun hk' => ?_); rotate_left; clear hx; rotate_right)
    | ((try lift_lets -underBinder); intro x)
    | with_reducible apply State.editError_kept
    | with_reducible apply State.editCmd_kept
    | (with_reducible apply Kept.of_eq2; with_reducible assumption)
    | (with_reducible apply Kept.of_eq3; with_reducible assumption)
    | (with_reducible apply Kept.of_eq4; with_reducible assumption)
    | with_reducible apply Kept.foldl
    | with_reducible apply Kept.foldl₁
    | with_reducible apply Kept.foldl₂
    | with_reducible apply Kept.foldl₃
    | exact id
    | exact List.Subset.refl _
    | split
    | dsimp +zetaDelta -zeta only
    | with_reducible apply Kept.frame
    | intro _
    | dsimp only

theorem State.writeOwner_kept {s₀ s : State} {a : Agent} {v : Word32} (hk : Kept s₀ s) : KeptR s₀ (State.writeOwner s a v) := by
  unfold State.writeOwner
  repeat' first
    | with_reducible assumption
    | with_reducible apply KeptR.next
    | ((try lift_lets -underBinder); intro x; clear_value (hx : x = _); refine Kept.cut (a := s₀) hx ?_ (fun hk' => ?_); rotate_left; clear hx; rotate_right)
    | ((try lift_lets -underBinder); intro x)
    | with_reducible apply State.writeReg_kept
    | with_reducible apply execOwnerChallenge_kept
    | with_reducible apply State.ownerError_kept
    | with_reducible apply execOwnerProgram_kept
    | with_reducible apply execMonitorUnlock_kept
    | with_reducible apply execSvnAdvance_kept
    | with_reducible apply execOwnerRelease_kept
    | (with_reducible apply Kept.of_eq2; with_reducible assumption)
    | (with_reducible apply Kept.of_eq3; with_reducible assumption)
    | (with_reducible apply Kept.of_eq4; with_reducible assumption)
    | with_reducible apply Kept.foldl
    | with_reducible apply Kept.foldl₁
    | with_reducible apply Kept.foldl₂
    | with_reducible apply Kept.foldl₃
    | exact id
    | exact List.Subset.refl _
    | split
    | dsimp +zetaDelta -zeta only
    | with_reducible apply Kept.frame
    | intro _
    | dsimp only

theorem State.writeReseat_kept {s₀ s : State} {a : Agent} {off : Nat} {v : Word32} (hk : Kept s₀ s) : KeptR s₀ (State.writeReseat s a off v) := by
  unfold State.writeReseat
  repeat' first
    | with_reducible assumption
    | with_reducible apply KeptR.next
    | with_reducible apply execReseatManifest_kept
    | with_reducible apply execReseatFirmware_kept
    | with_reducible apply execReseatBoth_kept
    | ((try lift_lets -underBinder); intro x; clear_value (hx : x = _); refine Kept.cut (a := s₀) hx ?_ (fun hk' => ?_); rotate_left; clear hx; rotate_right)
    | ((try lift_lets -underBinder); intro x)
    | with_reducible apply State.mmioWrite_kept
    | (with_reducible apply Kept.of_eq2; with_reducible assumption)
    | (with_reducible apply Kept.of_eq3; with_reducible assumption)
    | (with_reducible apply Kept.of_eq4; with_reducible assumption)
    | with_reducible apply Kept.foldl
    | with_reducible apply Kept.foldl₁
    | with_reducible apply Kept.foldl₂
    | with_reducible apply Kept.foldl₃
    | exact id
    | exact List.Subset.refl _
    | split
    | dsimp +zetaDelta -zeta only
    | with_reducible apply Kept.frame
    | intro _
    | dsimp only

theorem State.barWrite_kept {s₀ s : State} {a : Agent} {off : Nat} {v : Word32} (hk : Kept s₀ s) : KeptR s₀ (State.barWrite s a off v) := by
  unfold State.barWrite
  repeat' first
    | with_reducible assumption
    | with_reducible apply KeptR.next
    | with_reducible apply KeptR.andThen
    | with_reducible apply KeptR.ite
    | ((try lift_lets -underBinder); intro x; clear_value (hx : x = _); refine Kept.cut (a := s₀) hx ?_ (fun hk' => ?_); rotate_left; clear hx; rotate_right)
    | ((try lift_lets -underBinder); intro x)
    | with_reducible apply State.mmioWrite_kept
    | with_reducible apply execFcForce_kept
    | with_reducible apply execFcInjectArm_kept
    | with_reducible apply execEngineReset_kept
    | with_reducible apply execRimRestart_kept
    | with_reducible apply execKsLoad_kept
    | with_reducible apply execKsZero_kept
    | with_reducible apply execTempClearPeaks_kept
    | with_reducible apply execLsScrubStart_kept
    | with_reducible apply execRwsSpareCmd_kept
    | with_reducible apply execContextStop_kept
    | with_reducible apply execContextResume_kept
    | with_reducible apply execLidImport_kept
    | with_reducible apply execFenceOpGo_kept
    | with_reducible apply execPortRetire_kept
    | with_reducible apply execPgSeal_kept
    | with_reducible apply execPgSealRelease_kept
    | with_reducible apply execPlaitLoad_kept
    | with_reducible apply execPlaitAbort_kept
    | with_reducible apply execLidPartRemove_kept
    | with_reducible apply State.writeVector_kept
    | with_reducible apply State.writeEdit_kept
    | with_reducible apply State.writeOwner_kept
    | with_reducible apply State.writeReseat_kept
    | with_reducible apply State.writeObjects_kept
    | with_reducible apply State.writeAttach_kept
    | (with_reducible apply Kept.of_eq2; with_reducible assumption)
    | (with_reducible apply Kept.of_eq3; with_reducible assumption)
    | (with_reducible apply Kept.of_eq4; with_reducible assumption)
    | with_reducible apply Kept.foldl
    | with_reducible apply Kept.foldl₁
    | with_reducible apply Kept.foldl₂
    | with_reducible apply Kept.foldl₃
    | exact id
    | exact List.Subset.refl _
    | split
    | dsimp +zetaDelta -zeta only
    | with_reducible apply Kept.frame
    | intro _
    | dsimp only

theorem execRegisterWrite_kept {s₀ s : State} {a : Agent} {off : BitVec 26} {v : Word32} (hk : Kept s₀ s) : KeptR s₀ (execRegisterWrite a off v s) := by
  unfold execRegisterWrite
  repeat' first
    | with_reducible assumption
    | with_reducible apply KeptR.next
    | with_reducible apply State.barWrite_kept
    | ((try lift_lets -underBinder); intro x; clear_value (hx : x = _); refine Kept.cut (a := s₀) hx ?_ (fun hk' => ?_); rotate_left; clear hx; rotate_right)
    | ((try lift_lets -underBinder); intro x)
    | (with_reducible apply Kept.of_eq2; with_reducible assumption)
    | (with_reducible apply Kept.of_eq3; with_reducible assumption)
    | (with_reducible apply Kept.of_eq4; with_reducible assumption)
    | with_reducible apply Kept.foldl
    | with_reducible apply Kept.foldl₁
    | with_reducible apply Kept.foldl₂
    | with_reducible apply Kept.foldl₃
    | exact id
    | exact List.Subset.refl _
    | split
    | dsimp +zetaDelta -zeta only
    | with_reducible apply Kept.frame
    | intro _
    | dsimp only

theorem execArbiterDecision_kept {s₀ s : State} {arb : ArbId} {reqs : List ArbReq} (hk : Kept s₀ s) : KeptR s₀ (execArbiterDecision arb reqs s) := by
  unfold execArbiterDecision
  repeat' first
    | with_reducible assumption
    | with_reducible apply KeptR.next
    | with_reducible apply State.linkBeat_kept
    | ((try lift_lets -underBinder); intro x; clear_value (hx : x = _); refine Kept.cut (a := s₀) hx ?_ (fun hk' => ?_); rotate_left; clear hx; rotate_right)
    | ((try lift_lets -underBinder); intro x)
    | with_reducible apply State.intake_kept
    | with_reducible apply State.decideBeat_kept
    | (with_reducible apply Kept.of_eq2; with_reducible assumption)
    | (with_reducible apply Kept.of_eq3; with_reducible assumption)
    | (with_reducible apply Kept.of_eq4; with_reducible assumption)
    | (with_reducible apply Kept.of_some; with_reducible assumption)
    | (with_reducible apply Kept.of_some3; with_reducible assumption)
    | (with_reducible apply Kept.of_someS; with_reducible assumption)
    | with_reducible apply Kept.foldl
    | with_reducible apply Kept.foldl₁
    | with_reducible apply Kept.foldl₂
    | with_reducible apply Kept.foldl₃
    | exact id
    | exact List.Subset.refl _
    | split
    | dsimp +zetaDelta -zeta only
    | with_reducible apply Kept.frame
    | intro _
    | dsimp only

theorem execBudgetWindow_kept {s₀ s : State} (hk : Kept s₀ s) : KeptR s₀ (execBudgetWindow s) := by
  unfold execBudgetWindow
  repeat' first
    | with_reducible assumption
    | with_reducible apply KeptR.next
    | ((try lift_lets -underBinder); intro x; clear_value (hx : x = _); refine Kept.cut (a := s₀) hx ?_ (fun hk' => ?_); rotate_left; clear hx; rotate_right)
    | ((try lift_lets -underBinder); intro x)
    | (with_reducible apply Kept.of_eq2; with_reducible assumption)
    | (with_reducible apply Kept.of_eq3; with_reducible assumption)
    | (with_reducible apply Kept.of_eq4; with_reducible assumption)
    | with_reducible apply Kept.foldl
    | with_reducible apply Kept.foldl₁
    | with_reducible apply Kept.foldl₂
    | with_reducible apply Kept.foldl₃
    | exact id
    | exact List.Subset.refl _
    | split
    | dsimp +zetaDelta -zeta only
    | with_reducible apply Kept.frame
    | intro _
    | dsimp only

theorem execRowStoreRead_kept {s₀ s : State} {row : Fin 32} {line : Fin 8192} {core : Fin 256} {b : Fin 64} {cycle : Nat} (hk : Kept s₀ s) : KeptR s₀ (execRowStoreRead row line core b cycle s) := by
  unfold execRowStoreRead
  repeat' first
    | with_reducible assumption
    | with_reducible apply KeptR.next
    | ((try lift_lets -underBinder); intro x; clear_value (hx : x = _); refine Kept.cut (a := s₀) hx ?_ (fun hk' => ?_); rotate_left; clear hx; rotate_right)
    | ((try lift_lets -underBinder); intro x)
    | with_reducible apply State.setGroups_kept
    | with_reducible apply State.serveOverdue_kept
    | (with_reducible apply Kept.of_eq2; with_reducible assumption)
    | (with_reducible apply Kept.of_eq3; with_reducible assumption)
    | (with_reducible apply Kept.of_eq4; with_reducible assumption)
    | with_reducible apply Kept.foldl
    | with_reducible apply Kept.foldl₁
    | with_reducible apply Kept.foldl₂
    | with_reducible apply Kept.foldl₃
    | exact id
    | exact List.Subset.refl _
    | split
    | dsimp +zetaDelta -zeta only
    | with_reducible apply Kept.frame
    | intro _
    | dsimp only

theorem execRowStoreWrite_kept {s₀ s : State} {row : Fin 32} {line : Fin 8192} {core : Fin 256} {b : Fin 64} {data : List Byte} {cycle : Nat} (hk : Kept s₀ s) : KeptR s₀ (execRowStoreWrite row line core b data cycle s) := by
  unfold execRowStoreWrite
  repeat' first
    | with_reducible assumption
    | with_reducible apply KeptR.next
    | ((try lift_lets -underBinder); intro x; clear_value (hx : x = _); refine Kept.cut (a := s₀) hx ?_ (fun hk' => ?_); rotate_left; clear hx; rotate_right)
    | ((try lift_lets -underBinder); intro x)
    | with_reducible apply State.setGroups_kept
    | with_reducible apply State.serveOverdue_kept
    | (with_reducible apply Kept.of_eq2; with_reducible assumption)
    | (with_reducible apply Kept.of_eq3; with_reducible assumption)
    | (with_reducible apply Kept.of_eq4; with_reducible assumption)
    | with_reducible apply Kept.foldl
    | with_reducible apply Kept.foldl₁
    | with_reducible apply Kept.foldl₂
    | with_reducible apply Kept.foldl₃
    | exact id
    | exact List.Subset.refl _
    | split
    | dsimp +zetaDelta -zeta only
    | with_reducible apply Kept.frame
    | intro _
    | dsimp only

theorem execMergeWindowExpire_kept {s₀ s : State} {row : Fin 32} {bank : Fin 16} {cycle : Nat} (hk : Kept s₀ s) : KeptR s₀ (execMergeWindowExpire row bank cycle s) := by
  unfold execMergeWindowExpire
  repeat' first
    | with_reducible assumption
    | with_reducible apply KeptR.next
    | ((try lift_lets -underBinder); intro x; clear_value (hx : x = _); refine Kept.cut (a := s₀) hx ?_ (fun hk' => ?_); rotate_left; clear hx; rotate_right)
    | ((try lift_lets -underBinder); intro x)
    | with_reducible apply State.serveGroups_kept
    | (with_reducible apply Kept.of_eq2; with_reducible assumption)
    | (with_reducible apply Kept.of_eq3; with_reducible assumption)
    | (with_reducible apply Kept.of_eq4; with_reducible assumption)
    | with_reducible apply Kept.foldl
    | with_reducible apply Kept.foldl₁
    | with_reducible apply Kept.foldl₂
    | with_reducible apply Kept.foldl₃
    | exact id
    | exact List.Subset.refl _
    | split
    | dsimp +zetaDelta -zeta only
    | with_reducible apply Kept.frame
    | intro _
    | dsimp only

theorem execBridgeFlitReceive_kept {s₀ s : State} {b : Fin 13} {sub : Fin 16} {crcOk poison : Bool} (hk : Kept s₀ s) : KeptR s₀ (execBridgeFlitReceive b sub crcOk poison s) := by
  unfold execBridgeFlitReceive
  repeat' first
    | with_reducible assumption
    | with_reducible apply KeptR.next
    | ((try lift_lets -underBinder); intro x; clear_value (hx : x = _); refine Kept.cut (a := s₀) hx ?_ (fun hk' => ?_); rotate_left; clear hx; rotate_right)
    | ((try lift_lets -underBinder); intro x)
    | with_reducible apply State.set_kept
    | with_reducible apply State.report_kept
    | with_reducible apply State.takeInjection_kept
    | with_reducible apply State.retransmit_kept
    | with_reducible apply State.poisonTaken_kept
    | (with_reducible apply Kept.of_eq2; with_reducible assumption)
    | (with_reducible apply Kept.of_eq3; with_reducible assumption)
    | (with_reducible apply Kept.of_eq4; with_reducible assumption)
    | with_reducible apply Kept.foldl
    | with_reducible apply Kept.foldl₁
    | with_reducible apply Kept.foldl₂
    | with_reducible apply Kept.foldl₃
    | exact id
    | exact List.Subset.refl _
    | split
    | dsimp +zetaDelta -zeta only
    | with_reducible apply Kept.frame
    | intro _
    | dsimp only

theorem execSubLinkLossOfLock_kept {s₀ s : State} {b : Fin 13} {sub : Fin 16} {retrained : Bool} (hk : Kept s₀ s) : KeptR s₀ (execSubLinkLossOfLock b sub retrained s) := by
  unfold execSubLinkLossOfLock
  repeat' first
    | with_reducible assumption
    | with_reducible apply KeptR.next
    | ((try lift_lets -underBinder); intro x; clear_value (hx : x = _); refine Kept.cut (a := s₀) hx ?_ (fun hk' => ?_); rotate_left; clear hx; rotate_right)
    | ((try lift_lets -underBinder); intro x)
    | with_reducible apply State.retireSubLink_kept
    | (with_reducible apply Kept.of_eq2; with_reducible assumption)
    | (with_reducible apply Kept.of_eq3; with_reducible assumption)
    | (with_reducible apply Kept.of_eq4; with_reducible assumption)
    | with_reducible apply Kept.foldl
    | with_reducible apply Kept.foldl₁
    | with_reducible apply Kept.foldl₂
    | with_reducible apply Kept.foldl₃
    | exact id
    | exact List.Subset.refl _
    | split
    | dsimp +zetaDelta -zeta only
    | with_reducible apply Kept.frame
    | intro _
    | dsimp only

theorem State.monitorCmd_kept {s₀ s : State} {permitted : Bool} {f : State → Out} (h_f : ∀ s, Kept s₀ s → KeptR s₀ (f s)) (hk : Kept s₀ s) : KeptR s₀ (State.monitorCmd s permitted f) := by
  unfold State.monitorCmd
  repeat' first
    | with_reducible assumption
    | with_reducible apply KeptR.next
    | with_reducible apply h_f
    | ((try lift_lets -underBinder); intro x; clear_value (hx : x = _); refine Kept.cut (a := s₀) hx ?_ (fun hk' => ?_); rotate_left; clear hx; rotate_right)
    | ((try lift_lets -underBinder); intro x)
    | with_reducible apply State.answerLine_kept
    | (with_reducible apply Kept.of_eq2; with_reducible assumption)
    | (with_reducible apply Kept.of_eq3; with_reducible assumption)
    | (with_reducible apply Kept.of_eq4; with_reducible assumption)
    | with_reducible apply Kept.foldl
    | with_reducible apply Kept.foldl₁
    | with_reducible apply Kept.foldl₂
    | with_reducible apply Kept.foldl₃
    | exact id
    | exact List.Subset.refl _
    | split
    | dsimp +zetaDelta -zeta only
    | with_reducible apply Kept.frame
    | intro _
    | dsimp only

theorem execMonitorStatus_kept {s₀ s : State}  (hk : Kept s₀ s) : KeptR s₀ (execMonitorStatus s) := by
  unfold execMonitorStatus
  repeat' first
    | with_reducible assumption
    | with_reducible apply KeptR.next
    | ((try lift_lets -underBinder); intro x; clear_value (hx : x = _); refine Kept.cut (a := s₀) hx ?_ (fun hk' => ?_); rotate_left; clear hx; rotate_right)
    | ((try lift_lets -underBinder); intro x)
    | with_reducible apply State.stopped_kept
    | with_reducible apply State.monitorOk_kept
    | (with_reducible apply Kept.of_eq2; with_reducible assumption)
    | (with_reducible apply Kept.of_eq3; with_reducible assumption)
    | (with_reducible apply Kept.of_eq4; with_reducible assumption)
    | with_reducible apply Kept.foldl
    | with_reducible apply Kept.foldl₁
    | with_reducible apply Kept.foldl₂
    | with_reducible apply Kept.foldl₃
    | exact id
    | exact List.Subset.refl _
    | split
    | dsimp +zetaDelta -zeta only
    | with_reducible apply Kept.frame
    | intro _
    | dsimp only

theorem execMonitorCap_kept {s₀ s : State}  (hk : Kept s₀ s) : KeptR s₀ (execMonitorCap s) := by
  unfold execMonitorCap
  repeat' first
    | with_reducible assumption
    | with_reducible apply State.monitorCmd_kept
    | with_reducible apply KeptR.next
    | ((try lift_lets -underBinder); intro x; clear_value (hx : x = _); refine Kept.cut (a := s₀) hx ?_ (fun hk' => ?_); rotate_left; clear hx; rotate_right)
    | ((try lift_lets -underBinder); intro x)
    | with_reducible apply State.monitorOk_kept
    | (with_reducible apply Kept.of_eq2; with_reducible assumption)
    | (with_reducible apply Kept.of_eq3; with_reducible assumption)
    | (with_reducible apply Kept.of_eq4; with_reducible assumption)
    | with_reducible apply Kept.foldl
    | with_reducible apply Kept.foldl₁
    | with_reducible apply Kept.foldl₂
    | with_reducible apply Kept.foldl₃
    | exact id
    | exact List.Subset.refl _
    | split
    | dsimp +zetaDelta -zeta only
    | with_reducible apply Kept.frame
    | intro _
    | dsimp only

theorem execMonitorLog_kept {s₀ s : State} {n : Nat} (hk : Kept s₀ s) : KeptR s₀ (execMonitorLog n s) := by
  unfold execMonitorLog
  repeat' first
    | with_reducible assumption
    | with_reducible apply State.monitorCmd_kept
    | with_reducible apply KeptR.next
    | ((try lift_lets -underBinder); intro x; clear_value (hx : x = _); refine Kept.cut (a := s₀) hx ?_ (fun hk' => ?_); rotate_left; clear hx; rotate_right)
    | ((try lift_lets -underBinder); intro x)
    | with_reducible apply State.monitor_kept
    | with_reducible apply State.monitorOk_kept
    | (with_reducible apply Kept.of_eq2; with_reducible assumption)
    | (with_reducible apply Kept.of_eq3; with_reducible assumption)
    | (with_reducible apply Kept.of_eq4; with_reducible assumption)
    | with_reducible apply Kept.foldl
    | with_reducible apply Kept.foldl₁
    | with_reducible apply Kept.foldl₂
    | with_reducible apply Kept.foldl₃
    | exact id
    | exact List.Subset.refl _
    | split
    | dsimp +zetaDelta -zeta only
    | with_reducible apply Kept.frame
    | intro _
    | dsimp only

theorem execMonitorPower_kept {s₀ s : State}  (hk : Kept s₀ s) : KeptR s₀ (execMonitorPower s) := by
  unfold execMonitorPower
  repeat' first
    | with_reducible assumption
    | with_reducible apply State.monitorCmd_kept
    | with_reducible apply KeptR.next
    | ((try lift_lets -underBinder); intro x; clear_value (hx : x = _); refine Kept.cut (a := s₀) hx ?_ (fun hk' => ?_); rotate_left; clear hx; rotate_right)
    | ((try lift_lets -underBinder); intro x)
    | with_reducible apply State.monitorOk_kept
    | (with_reducible apply Kept.of_eq2; with_reducible assumption)
    | (with_reducible apply Kept.of_eq3; with_reducible assumption)
    | (with_reducible apply Kept.of_eq4; with_reducible assumption)
    | with_reducible apply Kept.foldl
    | with_reducible apply Kept.foldl₁
    | with_reducible apply Kept.foldl₂
    | with_reducible apply Kept.foldl₃
    | exact id
    | exact List.Subset.refl _
    | split
    | dsimp +zetaDelta -zeta only
    | with_reducible apply Kept.frame
    | intro _
    | dsimp only

theorem execMonitorRd_kept {s₀ s : State} {addr : BitVec 26} (hk : Kept s₀ s) : KeptR s₀ (execMonitorRd addr s) := by
  unfold execMonitorRd
  repeat' first
    | with_reducible assumption
    | with_reducible apply State.monitorCmd_kept
    | with_reducible apply KeptR.next
    | with_reducible apply KeptR.andThen
    | with_reducible apply execReadLoLatchesHi_kept
    | ((try lift_lets -underBinder); intro x; clear_value (hx : x = _); refine Kept.cut (a := s₀) hx ?_ (fun hk' => ?_); rotate_left; clear hx; rotate_right)
    | ((try lift_lets -underBinder); intro x)
    | with_reducible apply State.monitor_kept
    | with_reducible apply State.monitorOk_kept
    | (with_reducible apply Kept.of_eq2; with_reducible assumption)
    | (with_reducible apply Kept.of_eq3; with_reducible assumption)
    | (with_reducible apply Kept.of_eq4; with_reducible assumption)
    | with_reducible apply Kept.foldl
    | with_reducible apply Kept.foldl₁
    | with_reducible apply Kept.foldl₂
    | with_reducible apply Kept.foldl₃
    | exact id
    | exact List.Subset.refl _
    | split
    | dsimp +zetaDelta -zeta only
    | with_reducible apply Kept.frame
    | intro _
    | dsimp only

theorem execMonitorBaud_kept {s₀ s : State} {n : Nat} (hk : Kept s₀ s) : KeptR s₀ (execMonitorBaud n s) := by
  unfold execMonitorBaud
  repeat' first
    | with_reducible assumption
    | with_reducible apply State.monitorCmd_kept
    | with_reducible apply KeptR.next
    | ((try lift_lets -underBinder); intro x; clear_value (hx : x = _); refine Kept.cut (a := s₀) hx ?_ (fun hk' => ?_); rotate_left; clear hx; rotate_right)
    | ((try lift_lets -underBinder); intro x)
    | with_reducible apply State.answerLine_kept
    | with_reducible apply State.monitorOk_kept
    | (with_reducible apply Kept.of_eq2; with_reducible assumption)
    | (with_reducible apply Kept.of_eq3; with_reducible assumption)
    | (with_reducible apply Kept.of_eq4; with_reducible assumption)
    | with_reducible apply Kept.foldl
    | with_reducible apply Kept.foldl₁
    | with_reducible apply Kept.foldl₂
    | with_reducible apply Kept.foldl₃
    | exact id
    | exact List.Subset.refl _
    | split
    | dsimp +zetaDelta -zeta only
    | with_reducible apply Kept.frame
    | intro _
    | dsimp only

theorem execMonitorWr_kept {s₀ s : State} {addr : BitVec 26} {v : Word32} (hk : Kept s₀ s) : KeptR s₀ (execMonitorWr addr v s) := by
  unfold execMonitorWr
  repeat' first
    | with_reducible assumption
    | with_reducible apply State.monitorCmd_kept
    | with_reducible apply KeptR.next
    | with_reducible apply KeptR.andThen
    | with_reducible apply State.barWrite_kept
    | ((try lift_lets -underBinder); intro x; clear_value (hx : x = _); refine Kept.cut (a := s₀) hx ?_ (fun hk' => ?_); rotate_left; clear hx; rotate_right)
    | ((try lift_lets -underBinder); intro x)
    | with_reducible apply State.monitor_kept
    | with_reducible apply State.monitorOk_kept
    | (with_reducible apply Kept.of_eq2; with_reducible assumption)
    | (with_reducible apply Kept.of_eq3; with_reducible assumption)
    | (with_reducible apply Kept.of_eq4; with_reducible assumption)
    | with_reducible apply Kept.foldl
    | with_reducible apply Kept.foldl₁
    | with_reducible apply Kept.foldl₂
    | with_reducible apply Kept.foldl₃
    | exact id
    | exact List.Subset.refl _
    | split
    | dsimp +zetaDelta -zeta only
    | with_reducible apply Kept.frame
    | intro _
    | dsimp only

theorem execMonitorForce_kept {s₀ s : State} {f : BitVec 8} {i : BitVec 9} (hk : Kept s₀ s) : KeptR s₀ (execMonitorForce f i s) := by
  unfold execMonitorForce
  repeat' first
    | with_reducible assumption
    | with_reducible apply State.monitorCmd_kept
    | with_reducible apply KeptR.next
    | with_reducible apply KeptR.andThen
    | with_reducible apply execFcForce_kept
    | ((try lift_lets -underBinder); intro x; clear_value (hx : x = _); refine Kept.cut (a := s₀) hx ?_ (fun hk' => ?_); rotate_left; clear hx; rotate_right)
    | ((try lift_lets -underBinder); intro x)
    | with_reducible apply State.monitor_kept
    | with_reducible apply State.monitorOk_kept
    | (with_reducible apply Kept.of_eq2; with_reducible assumption)
    | (with_reducible apply Kept.of_eq3; with_reducible assumption)
    | (with_reducible apply Kept.of_eq4; with_reducible assumption)
    | with_reducible apply Kept.foldl
    | with_reducible apply Kept.foldl₁
    | with_reducible apply Kept.foldl₂
    | with_reducible apply Kept.foldl₃
    | exact id
    | exact List.Subset.refl _
    | split
    | dsimp +zetaDelta -zeta only
    | with_reducible apply Kept.frame
    | intro _
    | dsimp only

theorem execMonitorHold_kept {s₀ s : State} {withdraw : Bool} (hk : Kept s₀ s) : KeptR s₀ (execMonitorHold withdraw s) := by
  unfold execMonitorHold
  repeat' first
    | with_reducible assumption
    | with_reducible apply State.monitorCmd_kept
    | with_reducible apply KeptR.next
    | ((try lift_lets -underBinder); intro x; clear_value (hx : x = _); refine Kept.cut (a := s₀) hx ?_ (fun hk' => ?_); rotate_left; clear hx; rotate_right)
    | ((try lift_lets -underBinder); intro x)
    | with_reducible apply State.withdraw_kept
    | with_reducible apply State.hold_kept
    | with_reducible apply State.monitorOk_kept
    | (with_reducible apply Kept.of_eq2; with_reducible assumption)
    | (with_reducible apply Kept.of_eq3; with_reducible assumption)
    | (with_reducible apply Kept.of_eq4; with_reducible assumption)
    | with_reducible apply Kept.foldl
    | with_reducible apply Kept.foldl₁
    | with_reducible apply Kept.foldl₂
    | with_reducible apply Kept.foldl₃
    | exact id
    | exact List.Subset.refl _
    | split
    | dsimp +zetaDelta -zeta only
    | with_reducible apply Kept.frame
    | intro _
    | dsimp only

theorem execMonitorUnknownCommand_kept {s₀ s : State} {line : List Byte} (hk : Kept s₀ s) : KeptR s₀ (execMonitorUnknownCommand line s) := by
  unfold execMonitorUnknownCommand
  repeat' first
    | with_reducible assumption
    | with_reducible apply State.monitorCmd_kept
    | with_reducible apply KeptR.next
    | ((try lift_lets -underBinder); intro x; clear_value (hx : x = _); refine Kept.cut (a := s₀) hx ?_ (fun hk' => ?_); rotate_left; clear hx; rotate_right)
    | ((try lift_lets -underBinder); intro x)
    | with_reducible apply State.answerLine_kept
    | (with_reducible apply Kept.of_eq2; with_reducible assumption)
    | (with_reducible apply Kept.of_eq3; with_reducible assumption)
    | (with_reducible apply Kept.of_eq4; with_reducible assumption)
    | with_reducible apply Kept.foldl
    | with_reducible apply Kept.foldl₁
    | with_reducible apply Kept.foldl₂
    | with_reducible apply Kept.foldl₃
    | exact id
    | exact List.Subset.refl _
    | split
    | dsimp +zetaDelta -zeta only
    | with_reducible apply Kept.frame
    | intro _
    | dsimp only

end Sys2Proof.Machine
end

