-- ==== Sys2Proof/Laws/State.lean ====
section
/-! SUPPORT. What reading back a register gives after each named update, and that each update leaves every other part of the
state as it was. -/

set_option Elab.async false

namespace Sys2Proof.Machine

/-! ## Keys -/

/-- Where a field lies in the register table, whatever its copy. -/
theorem Field.key_mod (f : Field) (i : Nat) : f.key i % 16384 = (f.reg * 32 + f.lo) % 16384 := by
  unfold Field.key
  omega

/-- Fields at different places never share a key. -/
theorem Field.key_ne {f g : Field} (h : (f.reg * 32 + f.lo) % 16384 ≠ (g.reg * 32 + g.lo) % 16384) (i j : Nat) :
    f.key i ≠ g.key j := by
  intro e
  exact h (by rw [← Field.key_mod f i, ← Field.key_mod g j, e])

/-- Copies of one field have different keys. -/
theorem Field.key_copy {f : Field} {i j : Nat} (h : i ≠ j) : f.key i ≠ f.key j := by
  unfold Field.key
  omega

theorem Field.key_copy_iff (f : Field) (i j : Nat) : f.key i = f.key j ↔ i = j :=
  ⟨fun e => Decidable.byContradiction fun h => Field.key_copy h e, fun e => e ▸ rfl⟩

/-! ## Reading a table after setting one key of it, whatever its unlisted keys read as -/

theorem Sparse.get_set_apart {α : Type} [DecidableEq α] (d d' : α) (m : List (Nat × α)) {k j : Nat} (h : j ≠ k) (v : α) :
    Sparse.get d (Sparse.set d' m k v) j = Sparse.get d m j := by
  induction m with
  | nil =>
    by_cases hv : v = d'
    · simp [Sparse.set, hv]
    · simp only [Sparse.set, hv, if_false, Sparse.get]
      split
      · omega
      · split <;> rfl
  | cons e m ih =>
    obtain ⟨k', v'⟩ := e
    by_cases h1 : k < k'
    · by_cases hv : v = d'
      · simp [Sparse.set, h1, hv]
      · simp only [Sparse.set, h1, hv, if_true, if_false]
        conv => lhs; unfold Sparse.get
        have hkj : ¬ k = j := fun e => h e.symm
        rw [if_neg hkj]
        by_cases h2 : j < k
        · rw [if_pos h2]
          have h3 : ¬ k' = j := by omega
          have h4 : j < k' := by omega
          simp [Sparse.get, h3, h4]
        · rw [if_neg h2]
    · by_cases h2 : k = k'
      · subst h2
        have hkj : ¬ k = j := fun e => h e.symm
        by_cases hv : v = d'
        · simp only [Sparse.set, Nat.lt_irrefl, if_false, hv, if_true]
          by_cases h3 : j < k
          · have ha : Sparse.get d (m.dropWhile (fun e => decide (e.1 ≤ k))) j = d := by
              apply Sparse.get_above
              intro e he
              have := Sparse.head_dropWhile (fun e : Nat × α => decide (e.1 ≤ k)) m e he
              simp at this
              omega
            rw [ha]
            simp [Sparse.get, hkj, h3]
          · rw [Sparse.get_dropWhile d (fun e => decide (e.1 ≤ k)) (by intro e he; simp at he; omega)]
            simp [Sparse.get, hkj, h3]
        · simp only [Sparse.set, Nat.lt_irrefl, if_false, hv]
          simp [Sparse.get, hkj]
      · simp only [Sparse.set, h1, h2, if_false]
        simp only [Sparse.get, ih]

/-! ## Registers -/

@[simp] theorem State.get_set_same (s : State) (f : Field) (i v : Nat) : (s.set f i v).get f i = v % 2 ^ f.width := by
  simp [State.get, State.set]

theorem State.get_set_apart (s : State) {f g : Field} {i j : Nat} (h : g.key j ≠ f.key i) (v : Nat) :
    (s.set f i v).get g j = s.get g j := Sparse.get_set_apart _ _ _ h _

/-- A field at another place reads as before. -/
theorem State.get_set_field (s : State) {f g : Field} (h : (g.reg * 32 + g.lo) % 16384 ≠ (f.reg * 32 + f.lo) % 16384) (i j v : Nat) :
    (s.set f i v).get g j = s.get g j := s.get_set_apart (Field.key_ne h j i) v

/-- Another copy of the field reads as before. -/
theorem State.get_set_copy (s : State) {f : Field} {i j : Nat} (h : j ≠ i) (v : Nat) : (s.set f i v).get f j = s.get f j :=
  s.get_set_apart (Field.key_copy h) v

theorem State.get_set_ite (s : State) (f : Field) (i j v : Nat) :
    (s.set f i v).get f j = if j = i then v % 2 ^ f.width else s.get f j := by
  split
  · rename_i h
    rw [h, State.get_set_same]
  · rename_i h
    exact s.get_set_copy h v

@[simp] theorem State.setAll_nil (s : State) (i : Nat) : s.setAll i [] = s := rfl

@[simp] theorem State.setAll_cons (s : State) (i : Nat) (f : Field) (v : Nat) (fs : List (Field × Nat)) :
    s.setAll i ((f, v) :: fs) = (s.set f i v).setAll i fs := rfl

/-- What a field reads as depends on the register table alone. -/
theorem State.get_of_regs {s t : State} (h : t.regs = s.regs) (f : Field) (i : Nat) : t.get f i = s.get f i := by
  unfold State.get
  rw [h]

theorem State.flag_of_regs {s t : State} (h : t.regs = s.regs) (f : Field) (i : Nat) : t.flag f i = s.flag f i := by
  unfold State.flag
  rw [State.get_of_regs h]

/-- At reset every register reads as its reset value. -/
@[simp] theorem State.reset_get (f : Field) (i : Nat) : State.reset.get f i = f.resetAt i := rfl

/-! ## Frames -/

theorem State.fieldsBut_refl (s : State) (ws : List (Field × Nat)) : s.fieldsBut s ws := fun _ _ _ => rfl

theorem State.fieldsBut_of_regs {s t : State} {ws : List (Field × Nat)} (h : t.regs = s.regs) : s.fieldsBut t ws :=
  fun f i _ => State.get_of_regs h f i

theorem State.fieldsBut_set {s t : State} {ws : List (Field × Nat)} (h : s.fieldsBut t ws) {f : Field} {i : Nat} (hm : (f, i) ∈ ws)
    (v : Nat) : s.fieldsBut (t.set f i v) ws :=
  fun g j hw => (t.get_set_apart (hw (f, i) hm) v).trans (h g j hw)

theorem State.fieldsBut_trans {s t u : State} {ws : List (Field × Nat)} (h : s.fieldsBut t ws) (h' : t.fieldsBut u ws) :
    s.fieldsBut u ws := fun f i hw => (h' f i hw).trans (h f i hw)

theorem State.fieldsBut_then {s t u : State} {ws : List (Field × Nat)} (h : s.fieldsBut t ws) (e : u.regs = t.regs) :
    s.fieldsBut u ws := fun f i hw => (State.get_of_regs e f i).trans (h f i hw)

theorem State.copiesBut_refl (s : State) (fs : List Field) : s.copiesBut s fs := fun _ _ _ => rfl

theorem State.copiesBut_set {s t : State} {fs : List Field} (h : s.copiesBut t fs) {f : Field} (hm : f ∈ fs) (i v : Nat) :
    s.copiesBut (t.set f i v) fs :=
  fun g j hw => (t.get_set_apart (hw f hm i) v).trans (h g j hw)

theorem State.copiesBut_trans {s t u : State} {fs : List Field} (h : s.copiesBut t fs) (h' : t.copiesBut u fs) :
    s.copiesBut u fs := fun f i hw => (h' f i hw).trans (h f i hw)

theorem State.copiesBut_then {s t u : State} {fs : List Field} (h : s.copiesBut t fs) (e : u.regs = t.regs) :
    s.copiesBut u fs := fun f i hw => (State.get_of_regs e f i).trans (h f i hw)

/-- A run of updates that each keep to some fields keeps to them. -/
theorem State.copiesBut_foldl {α : Type} {s : State} {fs : List Field} (f : State → α → State)
    (hf : ∀ t x, s.copiesBut t fs → s.copiesBut (f t x) fs) (l : List α) {t : State} (h : s.copiesBut t fs) :
    s.copiesBut (l.foldl f t) fs := by
  induction l generalizing t with
  | nil => exact h
  | cons x l ih => exact ih (hf t x h)

/-! ## State.set -/

@[simp] theorem State.set_latched (s : State) (f : Field) (i v : Nat) : (s.set f i v).latched = s.latched := rfl

@[simp] theorem State.set_hbm (s : State) (f : Field) (i v : Nat) : (s.set f i v).hbm = s.hbm := rfl

@[simp] theorem State.set_sidecar (s : State) (f : Field) (i v : Nat) : (s.set f i v).sidecar = s.sidecar := rfl

@[simp] theorem State.set_localStore (s : State) (f : Field) (i v : Nat) : (s.set f i v).localStore = s.localStore := rfl

@[simp] theorem State.set_rowStore (s : State) (f : Field) (i v : Nat) : (s.set f i v).rowStore = s.rowStore := rfl

@[simp] theorem State.set_lineTag (s : State) (f : Field) (i v : Nat) : (s.set f i v).lineTag = s.lineTag := rfl

@[simp] theorem State.set_tier4 (s : State) (f : Field) (i v : Nat) : (s.set f i v).tier4 = s.tier4 := rfl

@[simp] theorem State.set_hbmPoison (s : State) (f : Field) (i v : Nat) : (s.set f i v).hbmPoison = s.hbmPoison := rfl

@[simp] theorem State.set_awayPoison (s : State) (f : Field) (i v : Nat) : (s.set f i v).awayPoison = s.awayPoison := rfl

@[simp] theorem State.set_lsPoison (s : State) (f : Field) (i v : Nat) : (s.set f i v).lsPoison = s.lsPoison := rfl

@[simp] theorem State.set_rsPoison (s : State) (f : Field) (i v : Nat) : (s.set f i v).rsPoison = s.rsPoison := rfl

@[simp] theorem State.set_scrubs (s : State) (f : Field) (i v : Nat) : (s.set f i v).scrubs = s.scrubs := rfl

@[simp] theorem State.set_tlb1 (s : State) (f : Field) (i v : Nat) : (s.set f i v).tlb1 = s.tlb1 := rfl

@[simp] theorem State.set_tlb2 (s : State) (f : Field) (i v : Nat) : (s.set f i v).tlb2 = s.tlb2 := rfl

@[simp] theorem State.set_walkCache (s : State) (f : Field) (i v : Nat) : (s.set f i v).walkCache = s.walkCache := rfl

@[simp] theorem State.set_slots (s : State) (f : Field) (i v : Nat) : (s.set f i v).slots = s.slots := rfl

@[simp] theorem State.set_shards (s : State) (f : Field) (i v : Nat) : (s.set f i v).shards = s.shards := rfl

@[simp] theorem State.set_tags (s : State) (f : Field) (i v : Nat) : (s.set f i v).tags = s.tags := rfl

@[simp] theorem State.set_ledger (s : State) (f : Field) (i v : Nat) : (s.set f i v).ledger = s.ledger := rfl

@[simp] theorem State.set_queues (s : State) (f : Field) (i v : Nat) : (s.set f i v).queues = s.queues := rfl

@[simp] theorem State.set_watches (s : State) (f : Field) (i v : Nat) : (s.set f i v).watches = s.watches := rfl

@[simp] theorem State.set_offers (s : State) (f : Field) (i v : Nat) : (s.set f i v).offers = s.offers := rfl

@[simp] theorem State.set_deferred (s : State) (f : Field) (i v : Nat) : (s.set f i v).deferred = s.deferred := rfl

@[simp] theorem State.set_waiting (s : State) (f : Field) (i v : Nat) : (s.set f i v).waiting = s.waiting := rfl

@[simp] theorem State.set_relays (s : State) (f : Field) (i v : Nat) : (s.set f i v).relays = s.relays := rfl

@[simp] theorem State.set_own (s : State) (f : Field) (i v : Nat) : (s.set f i v).own = s.own := rfl

@[simp] theorem State.set_updates (s : State) (f : Field) (i v : Nat) : (s.set f i v).updates = s.updates := rfl

@[simp] theorem State.set_fenceOps (s : State) (f : Field) (i v : Nat) : (s.set f i v).fenceOps = s.fenceOps := rfl

@[simp] theorem State.set_fenceTurn (s : State) (f : Field) (i v : Nat) : (s.set f i v).fenceTurn = s.fenceTurn := rfl

@[simp] theorem State.set_contexts (s : State) (f : Field) (i v : Nat) : (s.set f i v).contexts = s.contexts := rfl

@[simp] theorem State.set_pieces (s : State) (f : Field) (i v : Nat) : (s.set f i v).pieces = s.pieces := rfl

@[simp] theorem State.set_plait (s : State) (f : Field) (i v : Nat) : (s.set f i v).plait = s.plait := rfl

@[simp] theorem State.set_reports (s : State) (f : Field) (i v : Nat) : (s.set f i v).reports = s.reports := rfl

@[simp] theorem State.set_frames (s : State) (f : Field) (i v : Nat) : (s.set f i v).frames = s.frames := rfl

@[simp] theorem State.set_objects (s : State) (f : Field) (i v : Nat) : (s.set f i v).objects = s.objects := rfl

@[simp] theorem State.set_kv (s : State) (f : Field) (i v : Nat) : (s.set f i v).kv = s.kv := rfl

@[simp] theorem State.set_segTags (s : State) (f : Field) (i v : Nat) : (s.set f i v).segTags = s.segTags := rfl

@[simp] theorem State.set_seals (s : State) (f : Field) (i v : Nat) : (s.set f i v).seals = s.seals := rfl

@[simp] theorem State.set_spans (s : State) (f : Field) (i v : Nat) : (s.set f i v).spans = s.spans := rfl

@[simp] theorem State.set_spanMsgs (s : State) (f : Field) (i v : Nat) : (s.set f i v).spanMsgs = s.spanMsgs := rfl

@[simp] theorem State.set_moves (s : State) (f : Field) (i v : Nat) : (s.set f i v).moves = s.moves := rfl

@[simp] theorem State.set_edits (s : State) (f : Field) (i v : Nat) : (s.set f i v).edits = s.edits := rfl

@[simp] theorem State.set_heat (s : State) (f : Field) (i v : Nat) : (s.set f i v).heat = s.heat := rfl

@[simp] theorem State.set_pins (s : State) (f : Field) (i v : Nat) : (s.set f i v).pins = s.pins := rfl

@[simp] theorem State.set_run (s : State) (f : Field) (i v : Nat) : (s.set f i v).run = s.run := rfl

@[simp] theorem State.set_service (s : State) (f : Field) (i v : Nat) : (s.set f i v).service = s.service := rfl

@[simp] theorem State.set_fuses (s : State) (f : Field) (i v : Nat) : (s.set f i v).fuses = s.fuses := rfl

@[simp] theorem State.set_flash (s : State) (f : Field) (i v : Nat) : (s.set f i v).flash = s.flash := rfl

@[simp] theorem State.set_keys (s : State) (f : Field) (i v : Nat) : (s.set f i v).keys = s.keys := rfl

@[simp] theorem State.set_keyMask (s : State) (f : Field) (i v : Nat) : (s.set f i v).keyMask = s.keyMask := rfl

@[simp] theorem State.set_ident (s : State) (f : Field) (i v : Nat) : (s.set f i v).ident = s.ident := rfl

@[simp] theorem State.set_nonceTime (s : State) (f : Field) (i v : Nat) : (s.set f i v).nonceTime = s.nonceTime := rfl

@[simp] theorem State.set_manifest (s : State) (f : Field) (i v : Nat) : (s.set f i v).manifest = s.manifest := rfl

@[simp] theorem State.set_parts (s : State) (f : Field) (i v : Nat) : (s.set f i v).parts = s.parts := rfl

@[simp] theorem State.set_power (s : State) (f : Field) (i v : Nat) : (s.set f i v).power = s.power := rfl

@[simp] theorem State.set_fc (s : State) (f : Field) (i v : Nat) : (s.set f i v).fc = s.fc := rfl

@[simp] theorem State.set_dma (s : State) (f : Field) (i v : Nat) : (s.set f i v).dma = s.dma := rfl

@[simp] theorem State.set_ideKeys (s : State) (f : Field) (i v : Nat) : (s.set f i v).ideKeys = s.ideKeys := rfl

@[simp] theorem State.set_msix (s : State) (f : Field) (i v : Nat) : (s.set f i v).msix = s.msix := rfl

@[simp] theorem State.set_merge (s : State) (f : Field) (i v : Nat) : (s.set f i v).merge = s.merge := rfl

@[simp] theorem State.set_seam (s : State) (f : Field) (i v : Nat) : (s.set f i v).seam = s.seam := rfl

@[simp] theorem State.set_seamOut (s : State) (f : Field) (i v : Nat) : (s.set f i v).seamOut = s.seamOut := rfl

@[simp] theorem State.set_bridgeTimes (s : State) (f : Field) (i v : Nat) : (s.set f i v).bridgeTimes = s.bridgeTimes := rfl

@[simp] theorem State.set_ports (s : State) (f : Field) (i v : Nat) : (s.set f i v).ports = s.ports := rfl

@[simp] theorem State.set_sentOn (s : State) (f : Field) (i v : Nat) : (s.set f i v).sentOn = s.sentOn := rfl

@[simp] theorem State.set_forwardWait (s : State) (f : Field) (i v : Nat) : (s.set f i v).forwardWait = s.forwardWait := rfl

@[simp] theorem State.set_heard (s : State) (f : Field) (i v : Nat) : (s.set f i v).heard = s.heard := rfl

@[simp] theorem State.set_arbs (s : State) (f : Field) (i v : Nat) : (s.set f i v).arbs = s.arbs := rfl

@[simp] theorem State.set_granted (s : State) (f : Field) (i v : Nat) : (s.set f i v).granted = s.granted := rfl

@[simp] theorem State.set_windowEdge (s : State) (f : Field) (i v : Nat) : (s.set f i v).windowEdge = s.windowEdge := rfl

@[simp] theorem State.set_chanBytes (s : State) (f : Field) (i v : Nat) : (s.set f i v).chanBytes = s.chanBytes := rfl

@[simp] theorem State.set_chanBack (s : State) (f : Field) (i v : Nat) : (s.set f i v).chanBack = s.chanBack := rfl

@[simp] theorem State.set_latencies (s : State) (f : Field) (i v : Nat) : (s.set f i v).latencies = s.latencies := rfl

@[simp] theorem State.set_d3hot (s : State) (f : Field) (i v : Nat) : (s.set f i v).d3hot = s.d3hot := rfl

@[simp] theorem State.set_sealGot (s : State) (f : Field) (i v : Nat) : (s.set f i v).sealGot = s.sealGot := rfl

@[simp] theorem State.set_lids (s : State) (f : Field) (i v : Nat) : (s.set f i v).lids = s.lids := rfl

@[simp] theorem State.set_imports (s : State) (f : Field) (i v : Nat) : (s.set f i v).imports = s.imports := rfl

@[simp] theorem State.set_lostModules (s : State) (f : Field) (i v : Nat) : (s.set f i v).lostModules = s.lostModules := rfl

@[simp] theorem State.set_outbox (s : State) (f : Field) (i v : Nat) : (s.set f i v).outbox = s.outbox := rfl

@[simp] theorem State.set_freeCounter (s : State) (f : Field) (i v : Nat) : (s.set f i v).freeCounter = s.freeCounter := rfl

@[simp] theorem State.set_pending (s : State) (f : Field) (i v : Nat) : (s.set f i v).pending = s.pending := rfl

/-! ## State.setAll -/

@[simp] theorem State.setAll_latched (s : State) (i : Nat) (l : List (Field × Nat)) : (s.setAll i l).latched = s.latched := by
  induction l generalizing s with
  | nil => rfl
  | cons e l ih => exact ih _

@[simp] theorem State.setAll_hbm (s : State) (i : Nat) (l : List (Field × Nat)) : (s.setAll i l).hbm = s.hbm := by
  induction l generalizing s with
  | nil => rfl
  | cons e l ih => exact ih _

@[simp] theorem State.setAll_sidecar (s : State) (i : Nat) (l : List (Field × Nat)) : (s.setAll i l).sidecar = s.sidecar := by
  induction l generalizing s with
  | nil => rfl
  | cons e l ih => exact ih _

@[simp] theorem State.setAll_localStore (s : State) (i : Nat) (l : List (Field × Nat)) : (s.setAll i l).localStore = s.localStore := by
  induction l generalizing s with
  | nil => rfl
  | cons e l ih => exact ih _

@[simp] theorem State.setAll_rowStore (s : State) (i : Nat) (l : List (Field × Nat)) : (s.setAll i l).rowStore = s.rowStore := by
  induction l generalizing s with
  | nil => rfl
  | cons e l ih => exact ih _

@[simp] theorem State.setAll_lineTag (s : State) (i : Nat) (l : List (Field × Nat)) : (s.setAll i l).lineTag = s.lineTag := by
  induction l generalizing s with
  | nil => rfl
  | cons e l ih => exact ih _

@[simp] theorem State.setAll_tier4 (s : State) (i : Nat) (l : List (Field × Nat)) : (s.setAll i l).tier4 = s.tier4 := by
  induction l generalizing s with
  | nil => rfl
  | cons e l ih => exact ih _

@[simp] theorem State.setAll_hbmPoison (s : State) (i : Nat) (l : List (Field × Nat)) : (s.setAll i l).hbmPoison = s.hbmPoison := by
  induction l generalizing s with
  | nil => rfl
  | cons e l ih => exact ih _

@[simp] theorem State.setAll_awayPoison (s : State) (i : Nat) (l : List (Field × Nat)) : (s.setAll i l).awayPoison = s.awayPoison := by
  induction l generalizing s with
  | nil => rfl
  | cons e l ih => exact ih _

@[simp] theorem State.setAll_lsPoison (s : State) (i : Nat) (l : List (Field × Nat)) : (s.setAll i l).lsPoison = s.lsPoison := by
  induction l generalizing s with
  | nil => rfl
  | cons e l ih => exact ih _

@[simp] theorem State.setAll_rsPoison (s : State) (i : Nat) (l : List (Field × Nat)) : (s.setAll i l).rsPoison = s.rsPoison := by
  induction l generalizing s with
  | nil => rfl
  | cons e l ih => exact ih _

@[simp] theorem State.setAll_scrubs (s : State) (i : Nat) (l : List (Field × Nat)) : (s.setAll i l).scrubs = s.scrubs := by
  induction l generalizing s with
  | nil => rfl
  | cons e l ih => exact ih _

@[simp] theorem State.setAll_tlb1 (s : State) (i : Nat) (l : List (Field × Nat)) : (s.setAll i l).tlb1 = s.tlb1 := by
  induction l generalizing s with
  | nil => rfl
  | cons e l ih => exact ih _

@[simp] theorem State.setAll_tlb2 (s : State) (i : Nat) (l : List (Field × Nat)) : (s.setAll i l).tlb2 = s.tlb2 := by
  induction l generalizing s with
  | nil => rfl
  | cons e l ih => exact ih _

@[simp] theorem State.setAll_walkCache (s : State) (i : Nat) (l : List (Field × Nat)) : (s.setAll i l).walkCache = s.walkCache := by
  induction l generalizing s with
  | nil => rfl
  | cons e l ih => exact ih _

@[simp] theorem State.setAll_slots (s : State) (i : Nat) (l : List (Field × Nat)) : (s.setAll i l).slots = s.slots := by
  induction l generalizing s with
  | nil => rfl
  | cons e l ih => exact ih _

@[simp] theorem State.setAll_shards (s : State) (i : Nat) (l : List (Field × Nat)) : (s.setAll i l).shards = s.shards := by
  induction l generalizing s with
  | nil => rfl
  | cons e l ih => exact ih _

@[simp] theorem State.setAll_tags (s : State) (i : Nat) (l : List (Field × Nat)) : (s.setAll i l).tags = s.tags := by
  induction l generalizing s with
  | nil => rfl
  | cons e l ih => exact ih _

@[simp] theorem State.setAll_ledger (s : State) (i : Nat) (l : List (Field × Nat)) : (s.setAll i l).ledger = s.ledger := by
  induction l generalizing s with
  | nil => rfl
  | cons e l ih => exact ih _

@[simp] theorem State.setAll_queues (s : State) (i : Nat) (l : List (Field × Nat)) : (s.setAll i l).queues = s.queues := by
  induction l generalizing s with
  | nil => rfl
  | cons e l ih => exact ih _

@[simp] theorem State.setAll_watches (s : State) (i : Nat) (l : List (Field × Nat)) : (s.setAll i l).watches = s.watches := by
  induction l generalizing s with
  | nil => rfl
  | cons e l ih => exact ih _

@[simp] theorem State.setAll_offers (s : State) (i : Nat) (l : List (Field × Nat)) : (s.setAll i l).offers = s.offers := by
  induction l generalizing s with
  | nil => rfl
  | cons e l ih => exact ih _

@[simp] theorem State.setAll_deferred (s : State) (i : Nat) (l : List (Field × Nat)) : (s.setAll i l).deferred = s.deferred := by
  induction l generalizing s with
  | nil => rfl
  | cons e l ih => exact ih _

@[simp] theorem State.setAll_waiting (s : State) (i : Nat) (l : List (Field × Nat)) : (s.setAll i l).waiting = s.waiting := by
  induction l generalizing s with
  | nil => rfl
  | cons e l ih => exact ih _

@[simp] theorem State.setAll_relays (s : State) (i : Nat) (l : List (Field × Nat)) : (s.setAll i l).relays = s.relays := by
  induction l generalizing s with
  | nil => rfl
  | cons e l ih => exact ih _

@[simp] theorem State.setAll_own (s : State) (i : Nat) (l : List (Field × Nat)) : (s.setAll i l).own = s.own := by
  induction l generalizing s with
  | nil => rfl
  | cons e l ih => exact ih _

@[simp] theorem State.setAll_updates (s : State) (i : Nat) (l : List (Field × Nat)) : (s.setAll i l).updates = s.updates := by
  induction l generalizing s with
  | nil => rfl
  | cons e l ih => exact ih _

@[simp] theorem State.setAll_fenceOps (s : State) (i : Nat) (l : List (Field × Nat)) : (s.setAll i l).fenceOps = s.fenceOps := by
  induction l generalizing s with
  | nil => rfl
  | cons e l ih => exact ih _

@[simp] theorem State.setAll_fenceTurn (s : State) (i : Nat) (l : List (Field × Nat)) : (s.setAll i l).fenceTurn = s.fenceTurn := by
  induction l generalizing s with
  | nil => rfl
  | cons e l ih => exact ih _

@[simp] theorem State.setAll_contexts (s : State) (i : Nat) (l : List (Field × Nat)) : (s.setAll i l).contexts = s.contexts := by
  induction l generalizing s with
  | nil => rfl
  | cons e l ih => exact ih _

@[simp] theorem State.setAll_pieces (s : State) (i : Nat) (l : List (Field × Nat)) : (s.setAll i l).pieces = s.pieces := by
  induction l generalizing s with
  | nil => rfl
  | cons e l ih => exact ih _

@[simp] theorem State.setAll_plait (s : State) (i : Nat) (l : List (Field × Nat)) : (s.setAll i l).plait = s.plait := by
  induction l generalizing s with
  | nil => rfl
  | cons e l ih => exact ih _

@[simp] theorem State.setAll_reports (s : State) (i : Nat) (l : List (Field × Nat)) : (s.setAll i l).reports = s.reports := by
  induction l generalizing s with
  | nil => rfl
  | cons e l ih => exact ih _

@[simp] theorem State.setAll_frames (s : State) (i : Nat) (l : List (Field × Nat)) : (s.setAll i l).frames = s.frames := by
  induction l generalizing s with
  | nil => rfl
  | cons e l ih => exact ih _

@[simp] theorem State.setAll_objects (s : State) (i : Nat) (l : List (Field × Nat)) : (s.setAll i l).objects = s.objects := by
  induction l generalizing s with
  | nil => rfl
  | cons e l ih => exact ih _

@[simp] theorem State.setAll_kv (s : State) (i : Nat) (l : List (Field × Nat)) : (s.setAll i l).kv = s.kv := by
  induction l generalizing s with
  | nil => rfl
  | cons e l ih => exact ih _

@[simp] theorem State.setAll_segTags (s : State) (i : Nat) (l : List (Field × Nat)) : (s.setAll i l).segTags = s.segTags := by
  induction l generalizing s with
  | nil => rfl
  | cons e l ih => exact ih _

@[simp] theorem State.setAll_seals (s : State) (i : Nat) (l : List (Field × Nat)) : (s.setAll i l).seals = s.seals := by
  induction l generalizing s with
  | nil => rfl
  | cons e l ih => exact ih _

@[simp] theorem State.setAll_spans (s : State) (i : Nat) (l : List (Field × Nat)) : (s.setAll i l).spans = s.spans := by
  induction l generalizing s with
  | nil => rfl
  | cons e l ih => exact ih _

@[simp] theorem State.setAll_spanMsgs (s : State) (i : Nat) (l : List (Field × Nat)) : (s.setAll i l).spanMsgs = s.spanMsgs := by
  induction l generalizing s with
  | nil => rfl
  | cons e l ih => exact ih _

@[simp] theorem State.setAll_moves (s : State) (i : Nat) (l : List (Field × Nat)) : (s.setAll i l).moves = s.moves := by
  induction l generalizing s with
  | nil => rfl
  | cons e l ih => exact ih _

@[simp] theorem State.setAll_edits (s : State) (i : Nat) (l : List (Field × Nat)) : (s.setAll i l).edits = s.edits := by
  induction l generalizing s with
  | nil => rfl
  | cons e l ih => exact ih _

@[simp] theorem State.setAll_heat (s : State) (i : Nat) (l : List (Field × Nat)) : (s.setAll i l).heat = s.heat := by
  induction l generalizing s with
  | nil => rfl
  | cons e l ih => exact ih _

@[simp] theorem State.setAll_pins (s : State) (i : Nat) (l : List (Field × Nat)) : (s.setAll i l).pins = s.pins := by
  induction l generalizing s with
  | nil => rfl
  | cons e l ih => exact ih _

@[simp] theorem State.setAll_run (s : State) (i : Nat) (l : List (Field × Nat)) : (s.setAll i l).run = s.run := by
  induction l generalizing s with
  | nil => rfl
  | cons e l ih => exact ih _

@[simp] theorem State.setAll_service (s : State) (i : Nat) (l : List (Field × Nat)) : (s.setAll i l).service = s.service := by
  induction l generalizing s with
  | nil => rfl
  | cons e l ih => exact ih _

@[simp] theorem State.setAll_fuses (s : State) (i : Nat) (l : List (Field × Nat)) : (s.setAll i l).fuses = s.fuses := by
  induction l generalizing s with
  | nil => rfl
  | cons e l ih => exact ih _

@[simp] theorem State.setAll_flash (s : State) (i : Nat) (l : List (Field × Nat)) : (s.setAll i l).flash = s.flash := by
  induction l generalizing s with
  | nil => rfl
  | cons e l ih => exact ih _

@[simp] theorem State.setAll_keys (s : State) (i : Nat) (l : List (Field × Nat)) : (s.setAll i l).keys = s.keys := by
  induction l generalizing s with
  | nil => rfl
  | cons e l ih => exact ih _

@[simp] theorem State.setAll_keyMask (s : State) (i : Nat) (l : List (Field × Nat)) : (s.setAll i l).keyMask = s.keyMask := by
  induction l generalizing s with
  | nil => rfl
  | cons e l ih => exact ih _

@[simp] theorem State.setAll_ident (s : State) (i : Nat) (l : List (Field × Nat)) : (s.setAll i l).ident = s.ident := by
  induction l generalizing s with
  | nil => rfl
  | cons e l ih => exact ih _

@[simp] theorem State.setAll_nonceTime (s : State) (i : Nat) (l : List (Field × Nat)) : (s.setAll i l).nonceTime = s.nonceTime := by
  induction l generalizing s with
  | nil => rfl
  | cons e l ih => exact ih _

@[simp] theorem State.setAll_manifest (s : State) (i : Nat) (l : List (Field × Nat)) : (s.setAll i l).manifest = s.manifest := by
  induction l generalizing s with
  | nil => rfl
  | cons e l ih => exact ih _

@[simp] theorem State.setAll_parts (s : State) (i : Nat) (l : List (Field × Nat)) : (s.setAll i l).parts = s.parts := by
  induction l generalizing s with
  | nil => rfl
  | cons e l ih => exact ih _

@[simp] theorem State.setAll_power (s : State) (i : Nat) (l : List (Field × Nat)) : (s.setAll i l).power = s.power := by
  induction l generalizing s with
  | nil => rfl
  | cons e l ih => exact ih _

@[simp] theorem State.setAll_fc (s : State) (i : Nat) (l : List (Field × Nat)) : (s.setAll i l).fc = s.fc := by
  induction l generalizing s with
  | nil => rfl
  | cons e l ih => exact ih _

@[simp] theorem State.setAll_dma (s : State) (i : Nat) (l : List (Field × Nat)) : (s.setAll i l).dma = s.dma := by
  induction l generalizing s with
  | nil => rfl
  | cons e l ih => exact ih _

@[simp] theorem State.setAll_ideKeys (s : State) (i : Nat) (l : List (Field × Nat)) : (s.setAll i l).ideKeys = s.ideKeys := by
  induction l generalizing s with
  | nil => rfl
  | cons e l ih => exact ih _

@[simp] theorem State.setAll_msix (s : State) (i : Nat) (l : List (Field × Nat)) : (s.setAll i l).msix = s.msix := by
  induction l generalizing s with
  | nil => rfl
  | cons e l ih => exact ih _

@[simp] theorem State.setAll_merge (s : State) (i : Nat) (l : List (Field × Nat)) : (s.setAll i l).merge = s.merge := by
  induction l generalizing s with
  | nil => rfl
  | cons e l ih => exact ih _

@[simp] theorem State.setAll_seam (s : State) (i : Nat) (l : List (Field × Nat)) : (s.setAll i l).seam = s.seam := by
  induction l generalizing s with
  | nil => rfl
  | cons e l ih => exact ih _

@[simp] theorem State.setAll_seamOut (s : State) (i : Nat) (l : List (Field × Nat)) : (s.setAll i l).seamOut = s.seamOut := by
  induction l generalizing s with
  | nil => rfl
  | cons e l ih => exact ih _

@[simp] theorem State.setAll_bridgeTimes (s : State) (i : Nat) (l : List (Field × Nat)) : (s.setAll i l).bridgeTimes = s.bridgeTimes := by
  induction l generalizing s with
  | nil => rfl
  | cons e l ih => exact ih _

@[simp] theorem State.setAll_ports (s : State) (i : Nat) (l : List (Field × Nat)) : (s.setAll i l).ports = s.ports := by
  induction l generalizing s with
  | nil => rfl
  | cons e l ih => exact ih _

@[simp] theorem State.setAll_sentOn (s : State) (i : Nat) (l : List (Field × Nat)) : (s.setAll i l).sentOn = s.sentOn := by
  induction l generalizing s with
  | nil => rfl
  | cons e l ih => exact ih _

@[simp] theorem State.setAll_forwardWait (s : State) (i : Nat) (l : List (Field × Nat)) : (s.setAll i l).forwardWait = s.forwardWait := by
  induction l generalizing s with
  | nil => rfl
  | cons e l ih => exact ih _

@[simp] theorem State.setAll_heard (s : State) (i : Nat) (l : List (Field × Nat)) : (s.setAll i l).heard = s.heard := by
  induction l generalizing s with
  | nil => rfl
  | cons e l ih => exact ih _

@[simp] theorem State.setAll_arbs (s : State) (i : Nat) (l : List (Field × Nat)) : (s.setAll i l).arbs = s.arbs := by
  induction l generalizing s with
  | nil => rfl
  | cons e l ih => exact ih _

@[simp] theorem State.setAll_granted (s : State) (i : Nat) (l : List (Field × Nat)) : (s.setAll i l).granted = s.granted := by
  induction l generalizing s with
  | nil => rfl
  | cons e l ih => exact ih _

@[simp] theorem State.setAll_windowEdge (s : State) (i : Nat) (l : List (Field × Nat)) : (s.setAll i l).windowEdge = s.windowEdge := by
  induction l generalizing s with
  | nil => rfl
  | cons e l ih => exact ih _

@[simp] theorem State.setAll_chanBytes (s : State) (i : Nat) (l : List (Field × Nat)) : (s.setAll i l).chanBytes = s.chanBytes := by
  induction l generalizing s with
  | nil => rfl
  | cons e l ih => exact ih _

@[simp] theorem State.setAll_chanBack (s : State) (i : Nat) (l : List (Field × Nat)) : (s.setAll i l).chanBack = s.chanBack := by
  induction l generalizing s with
  | nil => rfl
  | cons e l ih => exact ih _

@[simp] theorem State.setAll_latencies (s : State) (i : Nat) (l : List (Field × Nat)) : (s.setAll i l).latencies = s.latencies := by
  induction l generalizing s with
  | nil => rfl
  | cons e l ih => exact ih _

@[simp] theorem State.setAll_d3hot (s : State) (i : Nat) (l : List (Field × Nat)) : (s.setAll i l).d3hot = s.d3hot := by
  induction l generalizing s with
  | nil => rfl
  | cons e l ih => exact ih _

@[simp] theorem State.setAll_sealGot (s : State) (i : Nat) (l : List (Field × Nat)) : (s.setAll i l).sealGot = s.sealGot := by
  induction l generalizing s with
  | nil => rfl
  | cons e l ih => exact ih _

@[simp] theorem State.setAll_lids (s : State) (i : Nat) (l : List (Field × Nat)) : (s.setAll i l).lids = s.lids := by
  induction l generalizing s with
  | nil => rfl
  | cons e l ih => exact ih _

@[simp] theorem State.setAll_imports (s : State) (i : Nat) (l : List (Field × Nat)) : (s.setAll i l).imports = s.imports := by
  induction l generalizing s with
  | nil => rfl
  | cons e l ih => exact ih _

@[simp] theorem State.setAll_lostModules (s : State) (i : Nat) (l : List (Field × Nat)) : (s.setAll i l).lostModules = s.lostModules := by
  induction l generalizing s with
  | nil => rfl
  | cons e l ih => exact ih _

@[simp] theorem State.setAll_outbox (s : State) (i : Nat) (l : List (Field × Nat)) : (s.setAll i l).outbox = s.outbox := by
  induction l generalizing s with
  | nil => rfl
  | cons e l ih => exact ih _

@[simp] theorem State.setAll_freeCounter (s : State) (i : Nat) (l : List (Field × Nat)) : (s.setAll i l).freeCounter = s.freeCounter := by
  induction l generalizing s with
  | nil => rfl
  | cons e l ih => exact ih _

@[simp] theorem State.setAll_pending (s : State) (i : Nat) (l : List (Field × Nat)) : (s.setAll i l).pending = s.pending := by
  induction l generalizing s with
  | nil => rfl
  | cons e l ih => exact ih _

/-! ## State.setBits -/

@[simp] theorem State.setBits_latched (s : State) (f : Field) (i m : Nat) : (s.setBits f i m).latched = s.latched := rfl

@[simp] theorem State.setBits_hbm (s : State) (f : Field) (i m : Nat) : (s.setBits f i m).hbm = s.hbm := rfl

@[simp] theorem State.setBits_sidecar (s : State) (f : Field) (i m : Nat) : (s.setBits f i m).sidecar = s.sidecar := rfl

@[simp] theorem State.setBits_localStore (s : State) (f : Field) (i m : Nat) : (s.setBits f i m).localStore = s.localStore := rfl

@[simp] theorem State.setBits_rowStore (s : State) (f : Field) (i m : Nat) : (s.setBits f i m).rowStore = s.rowStore := rfl

@[simp] theorem State.setBits_lineTag (s : State) (f : Field) (i m : Nat) : (s.setBits f i m).lineTag = s.lineTag := rfl

@[simp] theorem State.setBits_tier4 (s : State) (f : Field) (i m : Nat) : (s.setBits f i m).tier4 = s.tier4 := rfl

@[simp] theorem State.setBits_hbmPoison (s : State) (f : Field) (i m : Nat) : (s.setBits f i m).hbmPoison = s.hbmPoison := rfl

@[simp] theorem State.setBits_awayPoison (s : State) (f : Field) (i m : Nat) : (s.setBits f i m).awayPoison = s.awayPoison := rfl

@[simp] theorem State.setBits_lsPoison (s : State) (f : Field) (i m : Nat) : (s.setBits f i m).lsPoison = s.lsPoison := rfl

@[simp] theorem State.setBits_rsPoison (s : State) (f : Field) (i m : Nat) : (s.setBits f i m).rsPoison = s.rsPoison := rfl

@[simp] theorem State.setBits_scrubs (s : State) (f : Field) (i m : Nat) : (s.setBits f i m).scrubs = s.scrubs := rfl

@[simp] theorem State.setBits_tlb1 (s : State) (f : Field) (i m : Nat) : (s.setBits f i m).tlb1 = s.tlb1 := rfl

@[simp] theorem State.setBits_tlb2 (s : State) (f : Field) (i m : Nat) : (s.setBits f i m).tlb2 = s.tlb2 := rfl

@[simp] theorem State.setBits_walkCache (s : State) (f : Field) (i m : Nat) : (s.setBits f i m).walkCache = s.walkCache := rfl

@[simp] theorem State.setBits_slots (s : State) (f : Field) (i m : Nat) : (s.setBits f i m).slots = s.slots := rfl

@[simp] theorem State.setBits_shards (s : State) (f : Field) (i m : Nat) : (s.setBits f i m).shards = s.shards := rfl

@[simp] theorem State.setBits_tags (s : State) (f : Field) (i m : Nat) : (s.setBits f i m).tags = s.tags := rfl

@[simp] theorem State.setBits_ledger (s : State) (f : Field) (i m : Nat) : (s.setBits f i m).ledger = s.ledger := rfl

@[simp] theorem State.setBits_queues (s : State) (f : Field) (i m : Nat) : (s.setBits f i m).queues = s.queues := rfl

@[simp] theorem State.setBits_watches (s : State) (f : Field) (i m : Nat) : (s.setBits f i m).watches = s.watches := rfl

@[simp] theorem State.setBits_offers (s : State) (f : Field) (i m : Nat) : (s.setBits f i m).offers = s.offers := rfl

@[simp] theorem State.setBits_deferred (s : State) (f : Field) (i m : Nat) : (s.setBits f i m).deferred = s.deferred := rfl

@[simp] theorem State.setBits_waiting (s : State) (f : Field) (i m : Nat) : (s.setBits f i m).waiting = s.waiting := rfl

@[simp] theorem State.setBits_relays (s : State) (f : Field) (i m : Nat) : (s.setBits f i m).relays = s.relays := rfl

@[simp] theorem State.setBits_own (s : State) (f : Field) (i m : Nat) : (s.setBits f i m).own = s.own := rfl

@[simp] theorem State.setBits_updates (s : State) (f : Field) (i m : Nat) : (s.setBits f i m).updates = s.updates := rfl

@[simp] theorem State.setBits_fenceOps (s : State) (f : Field) (i m : Nat) : (s.setBits f i m).fenceOps = s.fenceOps := rfl

@[simp] theorem State.setBits_fenceTurn (s : State) (f : Field) (i m : Nat) : (s.setBits f i m).fenceTurn = s.fenceTurn := rfl

@[simp] theorem State.setBits_contexts (s : State) (f : Field) (i m : Nat) : (s.setBits f i m).contexts = s.contexts := rfl

@[simp] theorem State.setBits_pieces (s : State) (f : Field) (i m : Nat) : (s.setBits f i m).pieces = s.pieces := rfl

@[simp] theorem State.setBits_plait (s : State) (f : Field) (i m : Nat) : (s.setBits f i m).plait = s.plait := rfl

@[simp] theorem State.setBits_reports (s : State) (f : Field) (i m : Nat) : (s.setBits f i m).reports = s.reports := rfl

@[simp] theorem State.setBits_frames (s : State) (f : Field) (i m : Nat) : (s.setBits f i m).frames = s.frames := rfl

@[simp] theorem State.setBits_objects (s : State) (f : Field) (i m : Nat) : (s.setBits f i m).objects = s.objects := rfl

@[simp] theorem State.setBits_kv (s : State) (f : Field) (i m : Nat) : (s.setBits f i m).kv = s.kv := rfl

@[simp] theorem State.setBits_segTags (s : State) (f : Field) (i m : Nat) : (s.setBits f i m).segTags = s.segTags := rfl

@[simp] theorem State.setBits_seals (s : State) (f : Field) (i m : Nat) : (s.setBits f i m).seals = s.seals := rfl

@[simp] theorem State.setBits_spans (s : State) (f : Field) (i m : Nat) : (s.setBits f i m).spans = s.spans := rfl

@[simp] theorem State.setBits_spanMsgs (s : State) (f : Field) (i m : Nat) : (s.setBits f i m).spanMsgs = s.spanMsgs := rfl

@[simp] theorem State.setBits_moves (s : State) (f : Field) (i m : Nat) : (s.setBits f i m).moves = s.moves := rfl

@[simp] theorem State.setBits_edits (s : State) (f : Field) (i m : Nat) : (s.setBits f i m).edits = s.edits := rfl

@[simp] theorem State.setBits_heat (s : State) (f : Field) (i m : Nat) : (s.setBits f i m).heat = s.heat := rfl

@[simp] theorem State.setBits_pins (s : State) (f : Field) (i m : Nat) : (s.setBits f i m).pins = s.pins := rfl

@[simp] theorem State.setBits_run (s : State) (f : Field) (i m : Nat) : (s.setBits f i m).run = s.run := rfl

@[simp] theorem State.setBits_service (s : State) (f : Field) (i m : Nat) : (s.setBits f i m).service = s.service := rfl

@[simp] theorem State.setBits_fuses (s : State) (f : Field) (i m : Nat) : (s.setBits f i m).fuses = s.fuses := rfl

@[simp] theorem State.setBits_flash (s : State) (f : Field) (i m : Nat) : (s.setBits f i m).flash = s.flash := rfl

@[simp] theorem State.setBits_keys (s : State) (f : Field) (i m : Nat) : (s.setBits f i m).keys = s.keys := rfl

@[simp] theorem State.setBits_keyMask (s : State) (f : Field) (i m : Nat) : (s.setBits f i m).keyMask = s.keyMask := rfl

@[simp] theorem State.setBits_ident (s : State) (f : Field) (i m : Nat) : (s.setBits f i m).ident = s.ident := rfl

@[simp] theorem State.setBits_nonceTime (s : State) (f : Field) (i m : Nat) : (s.setBits f i m).nonceTime = s.nonceTime := rfl

@[simp] theorem State.setBits_manifest (s : State) (f : Field) (i m : Nat) : (s.setBits f i m).manifest = s.manifest := rfl

@[simp] theorem State.setBits_parts (s : State) (f : Field) (i m : Nat) : (s.setBits f i m).parts = s.parts := rfl

@[simp] theorem State.setBits_power (s : State) (f : Field) (i m : Nat) : (s.setBits f i m).power = s.power := rfl

@[simp] theorem State.setBits_fc (s : State) (f : Field) (i m : Nat) : (s.setBits f i m).fc = s.fc := rfl

@[simp] theorem State.setBits_dma (s : State) (f : Field) (i m : Nat) : (s.setBits f i m).dma = s.dma := rfl

@[simp] theorem State.setBits_ideKeys (s : State) (f : Field) (i m : Nat) : (s.setBits f i m).ideKeys = s.ideKeys := rfl

@[simp] theorem State.setBits_msix (s : State) (f : Field) (i m : Nat) : (s.setBits f i m).msix = s.msix := rfl

@[simp] theorem State.setBits_merge (s : State) (f : Field) (i m : Nat) : (s.setBits f i m).merge = s.merge := rfl

@[simp] theorem State.setBits_seam (s : State) (f : Field) (i m : Nat) : (s.setBits f i m).seam = s.seam := rfl

@[simp] theorem State.setBits_seamOut (s : State) (f : Field) (i m : Nat) : (s.setBits f i m).seamOut = s.seamOut := rfl

@[simp] theorem State.setBits_bridgeTimes (s : State) (f : Field) (i m : Nat) : (s.setBits f i m).bridgeTimes = s.bridgeTimes := rfl

@[simp] theorem State.setBits_ports (s : State) (f : Field) (i m : Nat) : (s.setBits f i m).ports = s.ports := rfl

@[simp] theorem State.setBits_sentOn (s : State) (f : Field) (i m : Nat) : (s.setBits f i m).sentOn = s.sentOn := rfl

@[simp] theorem State.setBits_forwardWait (s : State) (f : Field) (i m : Nat) : (s.setBits f i m).forwardWait = s.forwardWait := rfl

@[simp] theorem State.setBits_heard (s : State) (f : Field) (i m : Nat) : (s.setBits f i m).heard = s.heard := rfl

@[simp] theorem State.setBits_arbs (s : State) (f : Field) (i m : Nat) : (s.setBits f i m).arbs = s.arbs := rfl

@[simp] theorem State.setBits_granted (s : State) (f : Field) (i m : Nat) : (s.setBits f i m).granted = s.granted := rfl

@[simp] theorem State.setBits_windowEdge (s : State) (f : Field) (i m : Nat) : (s.setBits f i m).windowEdge = s.windowEdge := rfl

@[simp] theorem State.setBits_chanBytes (s : State) (f : Field) (i m : Nat) : (s.setBits f i m).chanBytes = s.chanBytes := rfl

@[simp] theorem State.setBits_chanBack (s : State) (f : Field) (i m : Nat) : (s.setBits f i m).chanBack = s.chanBack := rfl

@[simp] theorem State.setBits_latencies (s : State) (f : Field) (i m : Nat) : (s.setBits f i m).latencies = s.latencies := rfl

@[simp] theorem State.setBits_d3hot (s : State) (f : Field) (i m : Nat) : (s.setBits f i m).d3hot = s.d3hot := rfl

@[simp] theorem State.setBits_sealGot (s : State) (f : Field) (i m : Nat) : (s.setBits f i m).sealGot = s.sealGot := rfl

@[simp] theorem State.setBits_lids (s : State) (f : Field) (i m : Nat) : (s.setBits f i m).lids = s.lids := rfl

@[simp] theorem State.setBits_imports (s : State) (f : Field) (i m : Nat) : (s.setBits f i m).imports = s.imports := rfl

@[simp] theorem State.setBits_lostModules (s : State) (f : Field) (i m : Nat) : (s.setBits f i m).lostModules = s.lostModules := rfl

@[simp] theorem State.setBits_outbox (s : State) (f : Field) (i m : Nat) : (s.setBits f i m).outbox = s.outbox := rfl

@[simp] theorem State.setBits_freeCounter (s : State) (f : Field) (i m : Nat) : (s.setBits f i m).freeCounter = s.freeCounter := rfl

@[simp] theorem State.setBits_pending (s : State) (f : Field) (i m : Nat) : (s.setBits f i m).pending = s.pending := rfl

/-! ## State.bump -/

@[simp] theorem State.bump_latched (s : State) (f : Field) (i n : Nat) : (s.bump f i n).latched = s.latched := rfl

@[simp] theorem State.bump_hbm (s : State) (f : Field) (i n : Nat) : (s.bump f i n).hbm = s.hbm := rfl

@[simp] theorem State.bump_sidecar (s : State) (f : Field) (i n : Nat) : (s.bump f i n).sidecar = s.sidecar := rfl

@[simp] theorem State.bump_localStore (s : State) (f : Field) (i n : Nat) : (s.bump f i n).localStore = s.localStore := rfl

@[simp] theorem State.bump_rowStore (s : State) (f : Field) (i n : Nat) : (s.bump f i n).rowStore = s.rowStore := rfl

@[simp] theorem State.bump_lineTag (s : State) (f : Field) (i n : Nat) : (s.bump f i n).lineTag = s.lineTag := rfl

@[simp] theorem State.bump_tier4 (s : State) (f : Field) (i n : Nat) : (s.bump f i n).tier4 = s.tier4 := rfl

@[simp] theorem State.bump_hbmPoison (s : State) (f : Field) (i n : Nat) : (s.bump f i n).hbmPoison = s.hbmPoison := rfl

@[simp] theorem State.bump_awayPoison (s : State) (f : Field) (i n : Nat) : (s.bump f i n).awayPoison = s.awayPoison := rfl

@[simp] theorem State.bump_lsPoison (s : State) (f : Field) (i n : Nat) : (s.bump f i n).lsPoison = s.lsPoison := rfl

@[simp] theorem State.bump_rsPoison (s : State) (f : Field) (i n : Nat) : (s.bump f i n).rsPoison = s.rsPoison := rfl

@[simp] theorem State.bump_scrubs (s : State) (f : Field) (i n : Nat) : (s.bump f i n).scrubs = s.scrubs := rfl

@[simp] theorem State.bump_tlb1 (s : State) (f : Field) (i n : Nat) : (s.bump f i n).tlb1 = s.tlb1 := rfl

@[simp] theorem State.bump_tlb2 (s : State) (f : Field) (i n : Nat) : (s.bump f i n).tlb2 = s.tlb2 := rfl

@[simp] theorem State.bump_walkCache (s : State) (f : Field) (i n : Nat) : (s.bump f i n).walkCache = s.walkCache := rfl

@[simp] theorem State.bump_slots (s : State) (f : Field) (i n : Nat) : (s.bump f i n).slots = s.slots := rfl

@[simp] theorem State.bump_shards (s : State) (f : Field) (i n : Nat) : (s.bump f i n).shards = s.shards := rfl

@[simp] theorem State.bump_tags (s : State) (f : Field) (i n : Nat) : (s.bump f i n).tags = s.tags := rfl

@[simp] theorem State.bump_ledger (s : State) (f : Field) (i n : Nat) : (s.bump f i n).ledger = s.ledger := rfl

@[simp] theorem State.bump_queues (s : State) (f : Field) (i n : Nat) : (s.bump f i n).queues = s.queues := rfl

@[simp] theorem State.bump_watches (s : State) (f : Field) (i n : Nat) : (s.bump f i n).watches = s.watches := rfl

@[simp] theorem State.bump_offers (s : State) (f : Field) (i n : Nat) : (s.bump f i n).offers = s.offers := rfl

@[simp] theorem State.bump_deferred (s : State) (f : Field) (i n : Nat) : (s.bump f i n).deferred = s.deferred := rfl

@[simp] theorem State.bump_waiting (s : State) (f : Field) (i n : Nat) : (s.bump f i n).waiting = s.waiting := rfl

@[simp] theorem State.bump_relays (s : State) (f : Field) (i n : Nat) : (s.bump f i n).relays = s.relays := rfl

@[simp] theorem State.bump_own (s : State) (f : Field) (i n : Nat) : (s.bump f i n).own = s.own := rfl

@[simp] theorem State.bump_updates (s : State) (f : Field) (i n : Nat) : (s.bump f i n).updates = s.updates := rfl

@[simp] theorem State.bump_fenceOps (s : State) (f : Field) (i n : Nat) : (s.bump f i n).fenceOps = s.fenceOps := rfl

@[simp] theorem State.bump_fenceTurn (s : State) (f : Field) (i n : Nat) : (s.bump f i n).fenceTurn = s.fenceTurn := rfl

@[simp] theorem State.bump_contexts (s : State) (f : Field) (i n : Nat) : (s.bump f i n).contexts = s.contexts := rfl

@[simp] theorem State.bump_pieces (s : State) (f : Field) (i n : Nat) : (s.bump f i n).pieces = s.pieces := rfl

@[simp] theorem State.bump_plait (s : State) (f : Field) (i n : Nat) : (s.bump f i n).plait = s.plait := rfl

@[simp] theorem State.bump_reports (s : State) (f : Field) (i n : Nat) : (s.bump f i n).reports = s.reports := rfl

@[simp] theorem State.bump_frames (s : State) (f : Field) (i n : Nat) : (s.bump f i n).frames = s.frames := rfl

@[simp] theorem State.bump_objects (s : State) (f : Field) (i n : Nat) : (s.bump f i n).objects = s.objects := rfl

@[simp] theorem State.bump_kv (s : State) (f : Field) (i n : Nat) : (s.bump f i n).kv = s.kv := rfl

@[simp] theorem State.bump_segTags (s : State) (f : Field) (i n : Nat) : (s.bump f i n).segTags = s.segTags := rfl

@[simp] theorem State.bump_seals (s : State) (f : Field) (i n : Nat) : (s.bump f i n).seals = s.seals := rfl

@[simp] theorem State.bump_spans (s : State) (f : Field) (i n : Nat) : (s.bump f i n).spans = s.spans := rfl

@[simp] theorem State.bump_spanMsgs (s : State) (f : Field) (i n : Nat) : (s.bump f i n).spanMsgs = s.spanMsgs := rfl

@[simp] theorem State.bump_moves (s : State) (f : Field) (i n : Nat) : (s.bump f i n).moves = s.moves := rfl

@[simp] theorem State.bump_edits (s : State) (f : Field) (i n : Nat) : (s.bump f i n).edits = s.edits := rfl

@[simp] theorem State.bump_heat (s : State) (f : Field) (i n : Nat) : (s.bump f i n).heat = s.heat := rfl

@[simp] theorem State.bump_pins (s : State) (f : Field) (i n : Nat) : (s.bump f i n).pins = s.pins := rfl

@[simp] theorem State.bump_run (s : State) (f : Field) (i n : Nat) : (s.bump f i n).run = s.run := rfl

@[simp] theorem State.bump_service (s : State) (f : Field) (i n : Nat) : (s.bump f i n).service = s.service := rfl

@[simp] theorem State.bump_fuses (s : State) (f : Field) (i n : Nat) : (s.bump f i n).fuses = s.fuses := rfl

@[simp] theorem State.bump_flash (s : State) (f : Field) (i n : Nat) : (s.bump f i n).flash = s.flash := rfl

@[simp] theorem State.bump_keys (s : State) (f : Field) (i n : Nat) : (s.bump f i n).keys = s.keys := rfl

@[simp] theorem State.bump_keyMask (s : State) (f : Field) (i n : Nat) : (s.bump f i n).keyMask = s.keyMask := rfl

@[simp] theorem State.bump_ident (s : State) (f : Field) (i n : Nat) : (s.bump f i n).ident = s.ident := rfl

@[simp] theorem State.bump_nonceTime (s : State) (f : Field) (i n : Nat) : (s.bump f i n).nonceTime = s.nonceTime := rfl

@[simp] theorem State.bump_manifest (s : State) (f : Field) (i n : Nat) : (s.bump f i n).manifest = s.manifest := rfl

@[simp] theorem State.bump_parts (s : State) (f : Field) (i n : Nat) : (s.bump f i n).parts = s.parts := rfl

@[simp] theorem State.bump_power (s : State) (f : Field) (i n : Nat) : (s.bump f i n).power = s.power := rfl

@[simp] theorem State.bump_fc (s : State) (f : Field) (i n : Nat) : (s.bump f i n).fc = s.fc := rfl

@[simp] theorem State.bump_dma (s : State) (f : Field) (i n : Nat) : (s.bump f i n).dma = s.dma := rfl

@[simp] theorem State.bump_ideKeys (s : State) (f : Field) (i n : Nat) : (s.bump f i n).ideKeys = s.ideKeys := rfl

@[simp] theorem State.bump_msix (s : State) (f : Field) (i n : Nat) : (s.bump f i n).msix = s.msix := rfl

@[simp] theorem State.bump_merge (s : State) (f : Field) (i n : Nat) : (s.bump f i n).merge = s.merge := rfl

@[simp] theorem State.bump_seam (s : State) (f : Field) (i n : Nat) : (s.bump f i n).seam = s.seam := rfl

@[simp] theorem State.bump_seamOut (s : State) (f : Field) (i n : Nat) : (s.bump f i n).seamOut = s.seamOut := rfl

@[simp] theorem State.bump_bridgeTimes (s : State) (f : Field) (i n : Nat) : (s.bump f i n).bridgeTimes = s.bridgeTimes := rfl

@[simp] theorem State.bump_ports (s : State) (f : Field) (i n : Nat) : (s.bump f i n).ports = s.ports := rfl

@[simp] theorem State.bump_sentOn (s : State) (f : Field) (i n : Nat) : (s.bump f i n).sentOn = s.sentOn := rfl

@[simp] theorem State.bump_forwardWait (s : State) (f : Field) (i n : Nat) : (s.bump f i n).forwardWait = s.forwardWait := rfl

@[simp] theorem State.bump_heard (s : State) (f : Field) (i n : Nat) : (s.bump f i n).heard = s.heard := rfl

@[simp] theorem State.bump_arbs (s : State) (f : Field) (i n : Nat) : (s.bump f i n).arbs = s.arbs := rfl

@[simp] theorem State.bump_granted (s : State) (f : Field) (i n : Nat) : (s.bump f i n).granted = s.granted := rfl

@[simp] theorem State.bump_windowEdge (s : State) (f : Field) (i n : Nat) : (s.bump f i n).windowEdge = s.windowEdge := rfl

@[simp] theorem State.bump_chanBytes (s : State) (f : Field) (i n : Nat) : (s.bump f i n).chanBytes = s.chanBytes := rfl

@[simp] theorem State.bump_chanBack (s : State) (f : Field) (i n : Nat) : (s.bump f i n).chanBack = s.chanBack := rfl

@[simp] theorem State.bump_latencies (s : State) (f : Field) (i n : Nat) : (s.bump f i n).latencies = s.latencies := rfl

@[simp] theorem State.bump_d3hot (s : State) (f : Field) (i n : Nat) : (s.bump f i n).d3hot = s.d3hot := rfl

@[simp] theorem State.bump_sealGot (s : State) (f : Field) (i n : Nat) : (s.bump f i n).sealGot = s.sealGot := rfl

@[simp] theorem State.bump_lids (s : State) (f : Field) (i n : Nat) : (s.bump f i n).lids = s.lids := rfl

@[simp] theorem State.bump_imports (s : State) (f : Field) (i n : Nat) : (s.bump f i n).imports = s.imports := rfl

@[simp] theorem State.bump_lostModules (s : State) (f : Field) (i n : Nat) : (s.bump f i n).lostModules = s.lostModules := rfl

@[simp] theorem State.bump_outbox (s : State) (f : Field) (i n : Nat) : (s.bump f i n).outbox = s.outbox := rfl

@[simp] theorem State.bump_freeCounter (s : State) (f : Field) (i n : Nat) : (s.bump f i n).freeCounter = s.freeCounter := rfl

@[simp] theorem State.bump_pending (s : State) (f : Field) (i n : Nat) : (s.bump f i n).pending = s.pending := rfl

/-! ## State.set64 -/

@[simp] theorem State.set64_latched (s : State) (l h : Field) (i v : Nat) : (s.set64 l h i v).latched = s.latched := rfl

@[simp] theorem State.set64_hbm (s : State) (l h : Field) (i v : Nat) : (s.set64 l h i v).hbm = s.hbm := rfl

@[simp] theorem State.set64_sidecar (s : State) (l h : Field) (i v : Nat) : (s.set64 l h i v).sidecar = s.sidecar := rfl

@[simp] theorem State.set64_localStore (s : State) (l h : Field) (i v : Nat) : (s.set64 l h i v).localStore = s.localStore := rfl

@[simp] theorem State.set64_rowStore (s : State) (l h : Field) (i v : Nat) : (s.set64 l h i v).rowStore = s.rowStore := rfl

@[simp] theorem State.set64_lineTag (s : State) (l h : Field) (i v : Nat) : (s.set64 l h i v).lineTag = s.lineTag := rfl

@[simp] theorem State.set64_tier4 (s : State) (l h : Field) (i v : Nat) : (s.set64 l h i v).tier4 = s.tier4 := rfl

@[simp] theorem State.set64_hbmPoison (s : State) (l h : Field) (i v : Nat) : (s.set64 l h i v).hbmPoison = s.hbmPoison := rfl

@[simp] theorem State.set64_awayPoison (s : State) (l h : Field) (i v : Nat) : (s.set64 l h i v).awayPoison = s.awayPoison := rfl

@[simp] theorem State.set64_lsPoison (s : State) (l h : Field) (i v : Nat) : (s.set64 l h i v).lsPoison = s.lsPoison := rfl

@[simp] theorem State.set64_rsPoison (s : State) (l h : Field) (i v : Nat) : (s.set64 l h i v).rsPoison = s.rsPoison := rfl

@[simp] theorem State.set64_scrubs (s : State) (l h : Field) (i v : Nat) : (s.set64 l h i v).scrubs = s.scrubs := rfl

@[simp] theorem State.set64_tlb1 (s : State) (l h : Field) (i v : Nat) : (s.set64 l h i v).tlb1 = s.tlb1 := rfl

@[simp] theorem State.set64_tlb2 (s : State) (l h : Field) (i v : Nat) : (s.set64 l h i v).tlb2 = s.tlb2 := rfl

@[simp] theorem State.set64_walkCache (s : State) (l h : Field) (i v : Nat) : (s.set64 l h i v).walkCache = s.walkCache := rfl

@[simp] theorem State.set64_slots (s : State) (l h : Field) (i v : Nat) : (s.set64 l h i v).slots = s.slots := rfl

@[simp] theorem State.set64_shards (s : State) (l h : Field) (i v : Nat) : (s.set64 l h i v).shards = s.shards := rfl

@[simp] theorem State.set64_tags (s : State) (l h : Field) (i v : Nat) : (s.set64 l h i v).tags = s.tags := rfl

@[simp] theorem State.set64_ledger (s : State) (l h : Field) (i v : Nat) : (s.set64 l h i v).ledger = s.ledger := rfl

@[simp] theorem State.set64_queues (s : State) (l h : Field) (i v : Nat) : (s.set64 l h i v).queues = s.queues := rfl

@[simp] theorem State.set64_watches (s : State) (l h : Field) (i v : Nat) : (s.set64 l h i v).watches = s.watches := rfl

@[simp] theorem State.set64_offers (s : State) (l h : Field) (i v : Nat) : (s.set64 l h i v).offers = s.offers := rfl

@[simp] theorem State.set64_deferred (s : State) (l h : Field) (i v : Nat) : (s.set64 l h i v).deferred = s.deferred := rfl

@[simp] theorem State.set64_waiting (s : State) (l h : Field) (i v : Nat) : (s.set64 l h i v).waiting = s.waiting := rfl

@[simp] theorem State.set64_relays (s : State) (l h : Field) (i v : Nat) : (s.set64 l h i v).relays = s.relays := rfl

@[simp] theorem State.set64_own (s : State) (l h : Field) (i v : Nat) : (s.set64 l h i v).own = s.own := rfl

@[simp] theorem State.set64_updates (s : State) (l h : Field) (i v : Nat) : (s.set64 l h i v).updates = s.updates := rfl

@[simp] theorem State.set64_fenceOps (s : State) (l h : Field) (i v : Nat) : (s.set64 l h i v).fenceOps = s.fenceOps := rfl

@[simp] theorem State.set64_fenceTurn (s : State) (l h : Field) (i v : Nat) : (s.set64 l h i v).fenceTurn = s.fenceTurn := rfl

@[simp] theorem State.set64_contexts (s : State) (l h : Field) (i v : Nat) : (s.set64 l h i v).contexts = s.contexts := rfl

@[simp] theorem State.set64_pieces (s : State) (l h : Field) (i v : Nat) : (s.set64 l h i v).pieces = s.pieces := rfl

@[simp] theorem State.set64_plait (s : State) (l h : Field) (i v : Nat) : (s.set64 l h i v).plait = s.plait := rfl

@[simp] theorem State.set64_reports (s : State) (l h : Field) (i v : Nat) : (s.set64 l h i v).reports = s.reports := rfl

@[simp] theorem State.set64_frames (s : State) (l h : Field) (i v : Nat) : (s.set64 l h i v).frames = s.frames := rfl

@[simp] theorem State.set64_objects (s : State) (l h : Field) (i v : Nat) : (s.set64 l h i v).objects = s.objects := rfl

@[simp] theorem State.set64_kv (s : State) (l h : Field) (i v : Nat) : (s.set64 l h i v).kv = s.kv := rfl

@[simp] theorem State.set64_segTags (s : State) (l h : Field) (i v : Nat) : (s.set64 l h i v).segTags = s.segTags := rfl

@[simp] theorem State.set64_seals (s : State) (l h : Field) (i v : Nat) : (s.set64 l h i v).seals = s.seals := rfl

@[simp] theorem State.set64_spans (s : State) (l h : Field) (i v : Nat) : (s.set64 l h i v).spans = s.spans := rfl

@[simp] theorem State.set64_spanMsgs (s : State) (l h : Field) (i v : Nat) : (s.set64 l h i v).spanMsgs = s.spanMsgs := rfl

@[simp] theorem State.set64_moves (s : State) (l h : Field) (i v : Nat) : (s.set64 l h i v).moves = s.moves := rfl

@[simp] theorem State.set64_edits (s : State) (l h : Field) (i v : Nat) : (s.set64 l h i v).edits = s.edits := rfl

@[simp] theorem State.set64_heat (s : State) (l h : Field) (i v : Nat) : (s.set64 l h i v).heat = s.heat := rfl

@[simp] theorem State.set64_pins (s : State) (l h : Field) (i v : Nat) : (s.set64 l h i v).pins = s.pins := rfl

@[simp] theorem State.set64_run (s : State) (l h : Field) (i v : Nat) : (s.set64 l h i v).run = s.run := rfl

@[simp] theorem State.set64_service (s : State) (l h : Field) (i v : Nat) : (s.set64 l h i v).service = s.service := rfl

@[simp] theorem State.set64_fuses (s : State) (l h : Field) (i v : Nat) : (s.set64 l h i v).fuses = s.fuses := rfl

@[simp] theorem State.set64_flash (s : State) (l h : Field) (i v : Nat) : (s.set64 l h i v).flash = s.flash := rfl

@[simp] theorem State.set64_keys (s : State) (l h : Field) (i v : Nat) : (s.set64 l h i v).keys = s.keys := rfl

@[simp] theorem State.set64_keyMask (s : State) (l h : Field) (i v : Nat) : (s.set64 l h i v).keyMask = s.keyMask := rfl

@[simp] theorem State.set64_ident (s : State) (l h : Field) (i v : Nat) : (s.set64 l h i v).ident = s.ident := rfl

@[simp] theorem State.set64_nonceTime (s : State) (l h : Field) (i v : Nat) : (s.set64 l h i v).nonceTime = s.nonceTime := rfl

@[simp] theorem State.set64_manifest (s : State) (l h : Field) (i v : Nat) : (s.set64 l h i v).manifest = s.manifest := rfl

@[simp] theorem State.set64_parts (s : State) (l h : Field) (i v : Nat) : (s.set64 l h i v).parts = s.parts := rfl

@[simp] theorem State.set64_power (s : State) (l h : Field) (i v : Nat) : (s.set64 l h i v).power = s.power := rfl

@[simp] theorem State.set64_fc (s : State) (l h : Field) (i v : Nat) : (s.set64 l h i v).fc = s.fc := rfl

@[simp] theorem State.set64_dma (s : State) (l h : Field) (i v : Nat) : (s.set64 l h i v).dma = s.dma := rfl

@[simp] theorem State.set64_ideKeys (s : State) (l h : Field) (i v : Nat) : (s.set64 l h i v).ideKeys = s.ideKeys := rfl

@[simp] theorem State.set64_msix (s : State) (l h : Field) (i v : Nat) : (s.set64 l h i v).msix = s.msix := rfl

@[simp] theorem State.set64_merge (s : State) (l h : Field) (i v : Nat) : (s.set64 l h i v).merge = s.merge := rfl

@[simp] theorem State.set64_seam (s : State) (l h : Field) (i v : Nat) : (s.set64 l h i v).seam = s.seam := rfl

@[simp] theorem State.set64_seamOut (s : State) (l h : Field) (i v : Nat) : (s.set64 l h i v).seamOut = s.seamOut := rfl

@[simp] theorem State.set64_bridgeTimes (s : State) (l h : Field) (i v : Nat) : (s.set64 l h i v).bridgeTimes = s.bridgeTimes := rfl

@[simp] theorem State.set64_ports (s : State) (l h : Field) (i v : Nat) : (s.set64 l h i v).ports = s.ports := rfl

@[simp] theorem State.set64_sentOn (s : State) (l h : Field) (i v : Nat) : (s.set64 l h i v).sentOn = s.sentOn := rfl

@[simp] theorem State.set64_forwardWait (s : State) (l h : Field) (i v : Nat) : (s.set64 l h i v).forwardWait = s.forwardWait := rfl

@[simp] theorem State.set64_heard (s : State) (l h : Field) (i v : Nat) : (s.set64 l h i v).heard = s.heard := rfl

@[simp] theorem State.set64_arbs (s : State) (l h : Field) (i v : Nat) : (s.set64 l h i v).arbs = s.arbs := rfl

@[simp] theorem State.set64_granted (s : State) (l h : Field) (i v : Nat) : (s.set64 l h i v).granted = s.granted := rfl

@[simp] theorem State.set64_windowEdge (s : State) (l h : Field) (i v : Nat) : (s.set64 l h i v).windowEdge = s.windowEdge := rfl

@[simp] theorem State.set64_chanBytes (s : State) (l h : Field) (i v : Nat) : (s.set64 l h i v).chanBytes = s.chanBytes := rfl

@[simp] theorem State.set64_chanBack (s : State) (l h : Field) (i v : Nat) : (s.set64 l h i v).chanBack = s.chanBack := rfl

@[simp] theorem State.set64_latencies (s : State) (l h : Field) (i v : Nat) : (s.set64 l h i v).latencies = s.latencies := rfl

@[simp] theorem State.set64_d3hot (s : State) (l h : Field) (i v : Nat) : (s.set64 l h i v).d3hot = s.d3hot := rfl

@[simp] theorem State.set64_sealGot (s : State) (l h : Field) (i v : Nat) : (s.set64 l h i v).sealGot = s.sealGot := rfl

@[simp] theorem State.set64_lids (s : State) (l h : Field) (i v : Nat) : (s.set64 l h i v).lids = s.lids := rfl

@[simp] theorem State.set64_imports (s : State) (l h : Field) (i v : Nat) : (s.set64 l h i v).imports = s.imports := rfl

@[simp] theorem State.set64_lostModules (s : State) (l h : Field) (i v : Nat) : (s.set64 l h i v).lostModules = s.lostModules := rfl

@[simp] theorem State.set64_outbox (s : State) (l h : Field) (i v : Nat) : (s.set64 l h i v).outbox = s.outbox := rfl

@[simp] theorem State.set64_freeCounter (s : State) (l h : Field) (i v : Nat) : (s.set64 l h i v).freeCounter = s.freeCounter := rfl

@[simp] theorem State.set64_pending (s : State) (l h : Field) (i v : Nat) : (s.set64 l h i v).pending = s.pending := rfl

/-! ## State.bump64 -/

@[simp] theorem State.bump64_latched (s : State) (l h : Field) (i n : Nat) : (s.bump64 l h i n).latched = s.latched := rfl

@[simp] theorem State.bump64_hbm (s : State) (l h : Field) (i n : Nat) : (s.bump64 l h i n).hbm = s.hbm := rfl

@[simp] theorem State.bump64_sidecar (s : State) (l h : Field) (i n : Nat) : (s.bump64 l h i n).sidecar = s.sidecar := rfl

@[simp] theorem State.bump64_localStore (s : State) (l h : Field) (i n : Nat) : (s.bump64 l h i n).localStore = s.localStore := rfl

@[simp] theorem State.bump64_rowStore (s : State) (l h : Field) (i n : Nat) : (s.bump64 l h i n).rowStore = s.rowStore := rfl

@[simp] theorem State.bump64_lineTag (s : State) (l h : Field) (i n : Nat) : (s.bump64 l h i n).lineTag = s.lineTag := rfl

@[simp] theorem State.bump64_tier4 (s : State) (l h : Field) (i n : Nat) : (s.bump64 l h i n).tier4 = s.tier4 := rfl

@[simp] theorem State.bump64_hbmPoison (s : State) (l h : Field) (i n : Nat) : (s.bump64 l h i n).hbmPoison = s.hbmPoison := rfl

@[simp] theorem State.bump64_awayPoison (s : State) (l h : Field) (i n : Nat) : (s.bump64 l h i n).awayPoison = s.awayPoison := rfl

@[simp] theorem State.bump64_lsPoison (s : State) (l h : Field) (i n : Nat) : (s.bump64 l h i n).lsPoison = s.lsPoison := rfl

@[simp] theorem State.bump64_rsPoison (s : State) (l h : Field) (i n : Nat) : (s.bump64 l h i n).rsPoison = s.rsPoison := rfl

@[simp] theorem State.bump64_scrubs (s : State) (l h : Field) (i n : Nat) : (s.bump64 l h i n).scrubs = s.scrubs := rfl

@[simp] theorem State.bump64_tlb1 (s : State) (l h : Field) (i n : Nat) : (s.bump64 l h i n).tlb1 = s.tlb1 := rfl

@[simp] theorem State.bump64_tlb2 (s : State) (l h : Field) (i n : Nat) : (s.bump64 l h i n).tlb2 = s.tlb2 := rfl

@[simp] theorem State.bump64_walkCache (s : State) (l h : Field) (i n : Nat) : (s.bump64 l h i n).walkCache = s.walkCache := rfl

@[simp] theorem State.bump64_slots (s : State) (l h : Field) (i n : Nat) : (s.bump64 l h i n).slots = s.slots := rfl

@[simp] theorem State.bump64_shards (s : State) (l h : Field) (i n : Nat) : (s.bump64 l h i n).shards = s.shards := rfl

@[simp] theorem State.bump64_tags (s : State) (l h : Field) (i n : Nat) : (s.bump64 l h i n).tags = s.tags := rfl

@[simp] theorem State.bump64_ledger (s : State) (l h : Field) (i n : Nat) : (s.bump64 l h i n).ledger = s.ledger := rfl

@[simp] theorem State.bump64_queues (s : State) (l h : Field) (i n : Nat) : (s.bump64 l h i n).queues = s.queues := rfl

@[simp] theorem State.bump64_watches (s : State) (l h : Field) (i n : Nat) : (s.bump64 l h i n).watches = s.watches := rfl

@[simp] theorem State.bump64_offers (s : State) (l h : Field) (i n : Nat) : (s.bump64 l h i n).offers = s.offers := rfl

@[simp] theorem State.bump64_deferred (s : State) (l h : Field) (i n : Nat) : (s.bump64 l h i n).deferred = s.deferred := rfl

@[simp] theorem State.bump64_waiting (s : State) (l h : Field) (i n : Nat) : (s.bump64 l h i n).waiting = s.waiting := rfl

@[simp] theorem State.bump64_relays (s : State) (l h : Field) (i n : Nat) : (s.bump64 l h i n).relays = s.relays := rfl

@[simp] theorem State.bump64_own (s : State) (l h : Field) (i n : Nat) : (s.bump64 l h i n).own = s.own := rfl

@[simp] theorem State.bump64_updates (s : State) (l h : Field) (i n : Nat) : (s.bump64 l h i n).updates = s.updates := rfl

@[simp] theorem State.bump64_fenceOps (s : State) (l h : Field) (i n : Nat) : (s.bump64 l h i n).fenceOps = s.fenceOps := rfl

@[simp] theorem State.bump64_fenceTurn (s : State) (l h : Field) (i n : Nat) : (s.bump64 l h i n).fenceTurn = s.fenceTurn := rfl

@[simp] theorem State.bump64_contexts (s : State) (l h : Field) (i n : Nat) : (s.bump64 l h i n).contexts = s.contexts := rfl

@[simp] theorem State.bump64_pieces (s : State) (l h : Field) (i n : Nat) : (s.bump64 l h i n).pieces = s.pieces := rfl

@[simp] theorem State.bump64_plait (s : State) (l h : Field) (i n : Nat) : (s.bump64 l h i n).plait = s.plait := rfl

@[simp] theorem State.bump64_reports (s : State) (l h : Field) (i n : Nat) : (s.bump64 l h i n).reports = s.reports := rfl

@[simp] theorem State.bump64_frames (s : State) (l h : Field) (i n : Nat) : (s.bump64 l h i n).frames = s.frames := rfl

@[simp] theorem State.bump64_objects (s : State) (l h : Field) (i n : Nat) : (s.bump64 l h i n).objects = s.objects := rfl

@[simp] theorem State.bump64_kv (s : State) (l h : Field) (i n : Nat) : (s.bump64 l h i n).kv = s.kv := rfl

@[simp] theorem State.bump64_segTags (s : State) (l h : Field) (i n : Nat) : (s.bump64 l h i n).segTags = s.segTags := rfl

@[simp] theorem State.bump64_seals (s : State) (l h : Field) (i n : Nat) : (s.bump64 l h i n).seals = s.seals := rfl

@[simp] theorem State.bump64_spans (s : State) (l h : Field) (i n : Nat) : (s.bump64 l h i n).spans = s.spans := rfl

@[simp] theorem State.bump64_spanMsgs (s : State) (l h : Field) (i n : Nat) : (s.bump64 l h i n).spanMsgs = s.spanMsgs := rfl

@[simp] theorem State.bump64_moves (s : State) (l h : Field) (i n : Nat) : (s.bump64 l h i n).moves = s.moves := rfl

@[simp] theorem State.bump64_edits (s : State) (l h : Field) (i n : Nat) : (s.bump64 l h i n).edits = s.edits := rfl

@[simp] theorem State.bump64_heat (s : State) (l h : Field) (i n : Nat) : (s.bump64 l h i n).heat = s.heat := rfl

@[simp] theorem State.bump64_pins (s : State) (l h : Field) (i n : Nat) : (s.bump64 l h i n).pins = s.pins := rfl

@[simp] theorem State.bump64_run (s : State) (l h : Field) (i n : Nat) : (s.bump64 l h i n).run = s.run := rfl

@[simp] theorem State.bump64_service (s : State) (l h : Field) (i n : Nat) : (s.bump64 l h i n).service = s.service := rfl

@[simp] theorem State.bump64_fuses (s : State) (l h : Field) (i n : Nat) : (s.bump64 l h i n).fuses = s.fuses := rfl

@[simp] theorem State.bump64_flash (s : State) (l h : Field) (i n : Nat) : (s.bump64 l h i n).flash = s.flash := rfl

@[simp] theorem State.bump64_keys (s : State) (l h : Field) (i n : Nat) : (s.bump64 l h i n).keys = s.keys := rfl

@[simp] theorem State.bump64_keyMask (s : State) (l h : Field) (i n : Nat) : (s.bump64 l h i n).keyMask = s.keyMask := rfl

@[simp] theorem State.bump64_ident (s : State) (l h : Field) (i n : Nat) : (s.bump64 l h i n).ident = s.ident := rfl

@[simp] theorem State.bump64_nonceTime (s : State) (l h : Field) (i n : Nat) : (s.bump64 l h i n).nonceTime = s.nonceTime := rfl

@[simp] theorem State.bump64_manifest (s : State) (l h : Field) (i n : Nat) : (s.bump64 l h i n).manifest = s.manifest := rfl

@[simp] theorem State.bump64_parts (s : State) (l h : Field) (i n : Nat) : (s.bump64 l h i n).parts = s.parts := rfl

@[simp] theorem State.bump64_power (s : State) (l h : Field) (i n : Nat) : (s.bump64 l h i n).power = s.power := rfl

@[simp] theorem State.bump64_fc (s : State) (l h : Field) (i n : Nat) : (s.bump64 l h i n).fc = s.fc := rfl

@[simp] theorem State.bump64_dma (s : State) (l h : Field) (i n : Nat) : (s.bump64 l h i n).dma = s.dma := rfl

@[simp] theorem State.bump64_ideKeys (s : State) (l h : Field) (i n : Nat) : (s.bump64 l h i n).ideKeys = s.ideKeys := rfl

@[simp] theorem State.bump64_msix (s : State) (l h : Field) (i n : Nat) : (s.bump64 l h i n).msix = s.msix := rfl

@[simp] theorem State.bump64_merge (s : State) (l h : Field) (i n : Nat) : (s.bump64 l h i n).merge = s.merge := rfl

@[simp] theorem State.bump64_seam (s : State) (l h : Field) (i n : Nat) : (s.bump64 l h i n).seam = s.seam := rfl

@[simp] theorem State.bump64_seamOut (s : State) (l h : Field) (i n : Nat) : (s.bump64 l h i n).seamOut = s.seamOut := rfl

@[simp] theorem State.bump64_bridgeTimes (s : State) (l h : Field) (i n : Nat) : (s.bump64 l h i n).bridgeTimes = s.bridgeTimes := rfl

@[simp] theorem State.bump64_ports (s : State) (l h : Field) (i n : Nat) : (s.bump64 l h i n).ports = s.ports := rfl

@[simp] theorem State.bump64_sentOn (s : State) (l h : Field) (i n : Nat) : (s.bump64 l h i n).sentOn = s.sentOn := rfl

@[simp] theorem State.bump64_forwardWait (s : State) (l h : Field) (i n : Nat) : (s.bump64 l h i n).forwardWait = s.forwardWait := rfl

@[simp] theorem State.bump64_heard (s : State) (l h : Field) (i n : Nat) : (s.bump64 l h i n).heard = s.heard := rfl

@[simp] theorem State.bump64_arbs (s : State) (l h : Field) (i n : Nat) : (s.bump64 l h i n).arbs = s.arbs := rfl

@[simp] theorem State.bump64_granted (s : State) (l h : Field) (i n : Nat) : (s.bump64 l h i n).granted = s.granted := rfl

@[simp] theorem State.bump64_windowEdge (s : State) (l h : Field) (i n : Nat) : (s.bump64 l h i n).windowEdge = s.windowEdge := rfl

@[simp] theorem State.bump64_chanBytes (s : State) (l h : Field) (i n : Nat) : (s.bump64 l h i n).chanBytes = s.chanBytes := rfl

@[simp] theorem State.bump64_chanBack (s : State) (l h : Field) (i n : Nat) : (s.bump64 l h i n).chanBack = s.chanBack := rfl

@[simp] theorem State.bump64_latencies (s : State) (l h : Field) (i n : Nat) : (s.bump64 l h i n).latencies = s.latencies := rfl

@[simp] theorem State.bump64_d3hot (s : State) (l h : Field) (i n : Nat) : (s.bump64 l h i n).d3hot = s.d3hot := rfl

@[simp] theorem State.bump64_sealGot (s : State) (l h : Field) (i n : Nat) : (s.bump64 l h i n).sealGot = s.sealGot := rfl

@[simp] theorem State.bump64_lids (s : State) (l h : Field) (i n : Nat) : (s.bump64 l h i n).lids = s.lids := rfl

@[simp] theorem State.bump64_imports (s : State) (l h : Field) (i n : Nat) : (s.bump64 l h i n).imports = s.imports := rfl

@[simp] theorem State.bump64_lostModules (s : State) (l h : Field) (i n : Nat) : (s.bump64 l h i n).lostModules = s.lostModules := rfl

@[simp] theorem State.bump64_outbox (s : State) (l h : Field) (i n : Nat) : (s.bump64 l h i n).outbox = s.outbox := rfl

@[simp] theorem State.bump64_freeCounter (s : State) (l h : Field) (i n : Nat) : (s.bump64 l h i n).freeCounter = s.freeCounter := rfl

@[simp] theorem State.bump64_pending (s : State) (l h : Field) (i n : Nat) : (s.bump64 l h i n).pending = s.pending := rfl

/-! ## State.count -/

@[simp] theorem State.count_latched (s : State) (f : Field) (i : Nat) (w : Field) (j k n : Nat) : (s.count f i w j k n).latched = s.latched := by
  unfold State.count
  dsimp only
  split <;> rfl

@[simp] theorem State.count_hbm (s : State) (f : Field) (i : Nat) (w : Field) (j k n : Nat) : (s.count f i w j k n).hbm = s.hbm := by
  unfold State.count
  dsimp only
  split <;> rfl

@[simp] theorem State.count_sidecar (s : State) (f : Field) (i : Nat) (w : Field) (j k n : Nat) : (s.count f i w j k n).sidecar = s.sidecar := by
  unfold State.count
  dsimp only
  split <;> rfl

@[simp] theorem State.count_localStore (s : State) (f : Field) (i : Nat) (w : Field) (j k n : Nat) : (s.count f i w j k n).localStore = s.localStore := by
  unfold State.count
  dsimp only
  split <;> rfl

@[simp] theorem State.count_rowStore (s : State) (f : Field) (i : Nat) (w : Field) (j k n : Nat) : (s.count f i w j k n).rowStore = s.rowStore := by
  unfold State.count
  dsimp only
  split <;> rfl

@[simp] theorem State.count_lineTag (s : State) (f : Field) (i : Nat) (w : Field) (j k n : Nat) : (s.count f i w j k n).lineTag = s.lineTag := by
  unfold State.count
  dsimp only
  split <;> rfl

@[simp] theorem State.count_tier4 (s : State) (f : Field) (i : Nat) (w : Field) (j k n : Nat) : (s.count f i w j k n).tier4 = s.tier4 := by
  unfold State.count
  dsimp only
  split <;> rfl

@[simp] theorem State.count_hbmPoison (s : State) (f : Field) (i : Nat) (w : Field) (j k n : Nat) : (s.count f i w j k n).hbmPoison = s.hbmPoison := by
  unfold State.count
  dsimp only
  split <;> rfl

@[simp] theorem State.count_awayPoison (s : State) (f : Field) (i : Nat) (w : Field) (j k n : Nat) : (s.count f i w j k n).awayPoison = s.awayPoison := by
  unfold State.count
  dsimp only
  split <;> rfl

@[simp] theorem State.count_lsPoison (s : State) (f : Field) (i : Nat) (w : Field) (j k n : Nat) : (s.count f i w j k n).lsPoison = s.lsPoison := by
  unfold State.count
  dsimp only
  split <;> rfl

@[simp] theorem State.count_rsPoison (s : State) (f : Field) (i : Nat) (w : Field) (j k n : Nat) : (s.count f i w j k n).rsPoison = s.rsPoison := by
  unfold State.count
  dsimp only
  split <;> rfl

@[simp] theorem State.count_scrubs (s : State) (f : Field) (i : Nat) (w : Field) (j k n : Nat) : (s.count f i w j k n).scrubs = s.scrubs := by
  unfold State.count
  dsimp only
  split <;> rfl

@[simp] theorem State.count_tlb1 (s : State) (f : Field) (i : Nat) (w : Field) (j k n : Nat) : (s.count f i w j k n).tlb1 = s.tlb1 := by
  unfold State.count
  dsimp only
  split <;> rfl

@[simp] theorem State.count_tlb2 (s : State) (f : Field) (i : Nat) (w : Field) (j k n : Nat) : (s.count f i w j k n).tlb2 = s.tlb2 := by
  unfold State.count
  dsimp only
  split <;> rfl

@[simp] theorem State.count_walkCache (s : State) (f : Field) (i : Nat) (w : Field) (j k n : Nat) : (s.count f i w j k n).walkCache = s.walkCache := by
  unfold State.count
  dsimp only
  split <;> rfl

@[simp] theorem State.count_slots (s : State) (f : Field) (i : Nat) (w : Field) (j k n : Nat) : (s.count f i w j k n).slots = s.slots := by
  unfold State.count
  dsimp only
  split <;> rfl

@[simp] theorem State.count_shards (s : State) (f : Field) (i : Nat) (w : Field) (j k n : Nat) : (s.count f i w j k n).shards = s.shards := by
  unfold State.count
  dsimp only
  split <;> rfl

@[simp] theorem State.count_tags (s : State) (f : Field) (i : Nat) (w : Field) (j k n : Nat) : (s.count f i w j k n).tags = s.tags := by
  unfold State.count
  dsimp only
  split <;> rfl

@[simp] theorem State.count_ledger (s : State) (f : Field) (i : Nat) (w : Field) (j k n : Nat) : (s.count f i w j k n).ledger = s.ledger := by
  unfold State.count
  dsimp only
  split <;> rfl

@[simp] theorem State.count_queues (s : State) (f : Field) (i : Nat) (w : Field) (j k n : Nat) : (s.count f i w j k n).queues = s.queues := by
  unfold State.count
  dsimp only
  split <;> rfl

@[simp] theorem State.count_watches (s : State) (f : Field) (i : Nat) (w : Field) (j k n : Nat) : (s.count f i w j k n).watches = s.watches := by
  unfold State.count
  dsimp only
  split <;> rfl

@[simp] theorem State.count_offers (s : State) (f : Field) (i : Nat) (w : Field) (j k n : Nat) : (s.count f i w j k n).offers = s.offers := by
  unfold State.count
  dsimp only
  split <;> rfl

@[simp] theorem State.count_deferred (s : State) (f : Field) (i : Nat) (w : Field) (j k n : Nat) : (s.count f i w j k n).deferred = s.deferred := by
  unfold State.count
  dsimp only
  split <;> rfl

@[simp] theorem State.count_waiting (s : State) (f : Field) (i : Nat) (w : Field) (j k n : Nat) : (s.count f i w j k n).waiting = s.waiting := by
  unfold State.count
  dsimp only
  split <;> rfl

@[simp] theorem State.count_relays (s : State) (f : Field) (i : Nat) (w : Field) (j k n : Nat) : (s.count f i w j k n).relays = s.relays := by
  unfold State.count
  dsimp only
  split <;> rfl

@[simp] theorem State.count_own (s : State) (f : Field) (i : Nat) (w : Field) (j k n : Nat) : (s.count f i w j k n).own = s.own := by
  unfold State.count
  dsimp only
  split <;> rfl

@[simp] theorem State.count_updates (s : State) (f : Field) (i : Nat) (w : Field) (j k n : Nat) : (s.count f i w j k n).updates = s.updates := by
  unfold State.count
  dsimp only
  split <;> rfl

@[simp] theorem State.count_fenceOps (s : State) (f : Field) (i : Nat) (w : Field) (j k n : Nat) : (s.count f i w j k n).fenceOps = s.fenceOps := by
  unfold State.count
  dsimp only
  split <;> rfl

@[simp] theorem State.count_fenceTurn (s : State) (f : Field) (i : Nat) (w : Field) (j k n : Nat) : (s.count f i w j k n).fenceTurn = s.fenceTurn := by
  unfold State.count
  dsimp only
  split <;> rfl

@[simp] theorem State.count_contexts (s : State) (f : Field) (i : Nat) (w : Field) (j k n : Nat) : (s.count f i w j k n).contexts = s.contexts := by
  unfold State.count
  dsimp only
  split <;> rfl

@[simp] theorem State.count_pieces (s : State) (f : Field) (i : Nat) (w : Field) (j k n : Nat) : (s.count f i w j k n).pieces = s.pieces := by
  unfold State.count
  dsimp only
  split <;> rfl

@[simp] theorem State.count_plait (s : State) (f : Field) (i : Nat) (w : Field) (j k n : Nat) : (s.count f i w j k n).plait = s.plait := by
  unfold State.count
  dsimp only
  split <;> rfl

@[simp] theorem State.count_reports (s : State) (f : Field) (i : Nat) (w : Field) (j k n : Nat) : (s.count f i w j k n).reports = s.reports := by
  unfold State.count
  dsimp only
  split <;> rfl

@[simp] theorem State.count_frames (s : State) (f : Field) (i : Nat) (w : Field) (j k n : Nat) : (s.count f i w j k n).frames = s.frames := by
  unfold State.count
  dsimp only
  split <;> rfl

@[simp] theorem State.count_objects (s : State) (f : Field) (i : Nat) (w : Field) (j k n : Nat) : (s.count f i w j k n).objects = s.objects := by
  unfold State.count
  dsimp only
  split <;> rfl

@[simp] theorem State.count_kv (s : State) (f : Field) (i : Nat) (w : Field) (j k n : Nat) : (s.count f i w j k n).kv = s.kv := by
  unfold State.count
  dsimp only
  split <;> rfl

@[simp] theorem State.count_segTags (s : State) (f : Field) (i : Nat) (w : Field) (j k n : Nat) : (s.count f i w j k n).segTags = s.segTags := by
  unfold State.count
  dsimp only
  split <;> rfl

@[simp] theorem State.count_seals (s : State) (f : Field) (i : Nat) (w : Field) (j k n : Nat) : (s.count f i w j k n).seals = s.seals := by
  unfold State.count
  dsimp only
  split <;> rfl

@[simp] theorem State.count_spans (s : State) (f : Field) (i : Nat) (w : Field) (j k n : Nat) : (s.count f i w j k n).spans = s.spans := by
  unfold State.count
  dsimp only
  split <;> rfl

@[simp] theorem State.count_spanMsgs (s : State) (f : Field) (i : Nat) (w : Field) (j k n : Nat) : (s.count f i w j k n).spanMsgs = s.spanMsgs := by
  unfold State.count
  dsimp only
  split <;> rfl

@[simp] theorem State.count_moves (s : State) (f : Field) (i : Nat) (w : Field) (j k n : Nat) : (s.count f i w j k n).moves = s.moves := by
  unfold State.count
  dsimp only
  split <;> rfl

@[simp] theorem State.count_edits (s : State) (f : Field) (i : Nat) (w : Field) (j k n : Nat) : (s.count f i w j k n).edits = s.edits := by
  unfold State.count
  dsimp only
  split <;> rfl

@[simp] theorem State.count_heat (s : State) (f : Field) (i : Nat) (w : Field) (j k n : Nat) : (s.count f i w j k n).heat = s.heat := by
  unfold State.count
  dsimp only
  split <;> rfl

@[simp] theorem State.count_pins (s : State) (f : Field) (i : Nat) (w : Field) (j k n : Nat) : (s.count f i w j k n).pins = s.pins := by
  unfold State.count
  dsimp only
  split <;> rfl

@[simp] theorem State.count_run (s : State) (f : Field) (i : Nat) (w : Field) (j k n : Nat) : (s.count f i w j k n).run = s.run := by
  unfold State.count
  dsimp only
  split <;> rfl

@[simp] theorem State.count_service (s : State) (f : Field) (i : Nat) (w : Field) (j k n : Nat) : (s.count f i w j k n).service = s.service := by
  unfold State.count
  dsimp only
  split <;> rfl

@[simp] theorem State.count_fuses (s : State) (f : Field) (i : Nat) (w : Field) (j k n : Nat) : (s.count f i w j k n).fuses = s.fuses := by
  unfold State.count
  dsimp only
  split <;> rfl

@[simp] theorem State.count_flash (s : State) (f : Field) (i : Nat) (w : Field) (j k n : Nat) : (s.count f i w j k n).flash = s.flash := by
  unfold State.count
  dsimp only
  split <;> rfl

@[simp] theorem State.count_keys (s : State) (f : Field) (i : Nat) (w : Field) (j k n : Nat) : (s.count f i w j k n).keys = s.keys := by
  unfold State.count
  dsimp only
  split <;> rfl

@[simp] theorem State.count_keyMask (s : State) (f : Field) (i : Nat) (w : Field) (j k n : Nat) : (s.count f i w j k n).keyMask = s.keyMask := by
  unfold State.count
  dsimp only
  split <;> rfl

@[simp] theorem State.count_ident (s : State) (f : Field) (i : Nat) (w : Field) (j k n : Nat) : (s.count f i w j k n).ident = s.ident := by
  unfold State.count
  dsimp only
  split <;> rfl

@[simp] theorem State.count_nonceTime (s : State) (f : Field) (i : Nat) (w : Field) (j k n : Nat) : (s.count f i w j k n).nonceTime = s.nonceTime := by
  unfold State.count
  dsimp only
  split <;> rfl

@[simp] theorem State.count_manifest (s : State) (f : Field) (i : Nat) (w : Field) (j k n : Nat) : (s.count f i w j k n).manifest = s.manifest := by
  unfold State.count
  dsimp only
  split <;> rfl

@[simp] theorem State.count_parts (s : State) (f : Field) (i : Nat) (w : Field) (j k n : Nat) : (s.count f i w j k n).parts = s.parts := by
  unfold State.count
  dsimp only
  split <;> rfl

@[simp] theorem State.count_power (s : State) (f : Field) (i : Nat) (w : Field) (j k n : Nat) : (s.count f i w j k n).power = s.power := by
  unfold State.count
  dsimp only
  split <;> rfl

@[simp] theorem State.count_fc (s : State) (f : Field) (i : Nat) (w : Field) (j k n : Nat) : (s.count f i w j k n).fc = s.fc := by
  unfold State.count
  dsimp only
  split <;> rfl

@[simp] theorem State.count_dma (s : State) (f : Field) (i : Nat) (w : Field) (j k n : Nat) : (s.count f i w j k n).dma = s.dma := by
  unfold State.count
  dsimp only
  split <;> rfl

@[simp] theorem State.count_ideKeys (s : State) (f : Field) (i : Nat) (w : Field) (j k n : Nat) : (s.count f i w j k n).ideKeys = s.ideKeys := by
  unfold State.count
  dsimp only
  split <;> rfl

@[simp] theorem State.count_msix (s : State) (f : Field) (i : Nat) (w : Field) (j k n : Nat) : (s.count f i w j k n).msix = s.msix := by
  unfold State.count
  dsimp only
  split <;> rfl

@[simp] theorem State.count_merge (s : State) (f : Field) (i : Nat) (w : Field) (j k n : Nat) : (s.count f i w j k n).merge = s.merge := by
  unfold State.count
  dsimp only
  split <;> rfl

@[simp] theorem State.count_seam (s : State) (f : Field) (i : Nat) (w : Field) (j k n : Nat) : (s.count f i w j k n).seam = s.seam := by
  unfold State.count
  dsimp only
  split <;> rfl

@[simp] theorem State.count_seamOut (s : State) (f : Field) (i : Nat) (w : Field) (j k n : Nat) : (s.count f i w j k n).seamOut = s.seamOut := by
  unfold State.count
  dsimp only
  split <;> rfl

@[simp] theorem State.count_bridgeTimes (s : State) (f : Field) (i : Nat) (w : Field) (j k n : Nat) : (s.count f i w j k n).bridgeTimes = s.bridgeTimes := by
  unfold State.count
  dsimp only
  split <;> rfl

@[simp] theorem State.count_ports (s : State) (f : Field) (i : Nat) (w : Field) (j k n : Nat) : (s.count f i w j k n).ports = s.ports := by
  unfold State.count
  dsimp only
  split <;> rfl

@[simp] theorem State.count_sentOn (s : State) (f : Field) (i : Nat) (w : Field) (j k n : Nat) : (s.count f i w j k n).sentOn = s.sentOn := by
  unfold State.count
  dsimp only
  split <;> rfl

@[simp] theorem State.count_forwardWait (s : State) (f : Field) (i : Nat) (w : Field) (j k n : Nat) : (s.count f i w j k n).forwardWait = s.forwardWait := by
  unfold State.count
  dsimp only
  split <;> rfl

@[simp] theorem State.count_heard (s : State) (f : Field) (i : Nat) (w : Field) (j k n : Nat) : (s.count f i w j k n).heard = s.heard := by
  unfold State.count
  dsimp only
  split <;> rfl

@[simp] theorem State.count_arbs (s : State) (f : Field) (i : Nat) (w : Field) (j k n : Nat) : (s.count f i w j k n).arbs = s.arbs := by
  unfold State.count
  dsimp only
  split <;> rfl

@[simp] theorem State.count_granted (s : State) (f : Field) (i : Nat) (w : Field) (j k n : Nat) : (s.count f i w j k n).granted = s.granted := by
  unfold State.count
  dsimp only
  split <;> rfl

@[simp] theorem State.count_windowEdge (s : State) (f : Field) (i : Nat) (w : Field) (j k n : Nat) : (s.count f i w j k n).windowEdge = s.windowEdge := by
  unfold State.count
  dsimp only
  split <;> rfl

@[simp] theorem State.count_chanBytes (s : State) (f : Field) (i : Nat) (w : Field) (j k n : Nat) : (s.count f i w j k n).chanBytes = s.chanBytes := by
  unfold State.count
  dsimp only
  split <;> rfl

@[simp] theorem State.count_chanBack (s : State) (f : Field) (i : Nat) (w : Field) (j k n : Nat) : (s.count f i w j k n).chanBack = s.chanBack := by
  unfold State.count
  dsimp only
  split <;> rfl

@[simp] theorem State.count_latencies (s : State) (f : Field) (i : Nat) (w : Field) (j k n : Nat) : (s.count f i w j k n).latencies = s.latencies := by
  unfold State.count
  dsimp only
  split <;> rfl

@[simp] theorem State.count_d3hot (s : State) (f : Field) (i : Nat) (w : Field) (j k n : Nat) : (s.count f i w j k n).d3hot = s.d3hot := by
  unfold State.count
  dsimp only
  split <;> rfl

@[simp] theorem State.count_sealGot (s : State) (f : Field) (i : Nat) (w : Field) (j k n : Nat) : (s.count f i w j k n).sealGot = s.sealGot := by
  unfold State.count
  dsimp only
  split <;> rfl

@[simp] theorem State.count_lids (s : State) (f : Field) (i : Nat) (w : Field) (j k n : Nat) : (s.count f i w j k n).lids = s.lids := by
  unfold State.count
  dsimp only
  split <;> rfl

@[simp] theorem State.count_imports (s : State) (f : Field) (i : Nat) (w : Field) (j k n : Nat) : (s.count f i w j k n).imports = s.imports := by
  unfold State.count
  dsimp only
  split <;> rfl

@[simp] theorem State.count_lostModules (s : State) (f : Field) (i : Nat) (w : Field) (j k n : Nat) : (s.count f i w j k n).lostModules = s.lostModules := by
  unfold State.count
  dsimp only
  split <;> rfl

@[simp] theorem State.count_outbox (s : State) (f : Field) (i : Nat) (w : Field) (j k n : Nat) : (s.count f i w j k n).outbox = s.outbox := by
  unfold State.count
  dsimp only
  split <;> rfl

@[simp] theorem State.count_freeCounter (s : State) (f : Field) (i : Nat) (w : Field) (j k n : Nat) : (s.count f i w j k n).freeCounter = s.freeCounter := by
  unfold State.count
  dsimp only
  split <;> rfl

@[simp] theorem State.count_pending (s : State) (f : Field) (i : Nat) (w : Field) (j k n : Nat) : (s.count f i w j k n).pending = s.pending := by
  unfold State.count
  dsimp only
  split <;> rfl

/-! ## State.emit -/

@[simp] theorem State.emit_regs (s : State) (x : Sent) : (s.emit x).regs = s.regs := rfl

@[simp] theorem State.emit_latched (s : State) (x : Sent) : (s.emit x).latched = s.latched := rfl

@[simp] theorem State.emit_hbm (s : State) (x : Sent) : (s.emit x).hbm = s.hbm := rfl

@[simp] theorem State.emit_sidecar (s : State) (x : Sent) : (s.emit x).sidecar = s.sidecar := rfl

@[simp] theorem State.emit_localStore (s : State) (x : Sent) : (s.emit x).localStore = s.localStore := rfl

@[simp] theorem State.emit_rowStore (s : State) (x : Sent) : (s.emit x).rowStore = s.rowStore := rfl

@[simp] theorem State.emit_lineTag (s : State) (x : Sent) : (s.emit x).lineTag = s.lineTag := rfl

@[simp] theorem State.emit_tier4 (s : State) (x : Sent) : (s.emit x).tier4 = s.tier4 := rfl

@[simp] theorem State.emit_hbmPoison (s : State) (x : Sent) : (s.emit x).hbmPoison = s.hbmPoison := rfl

@[simp] theorem State.emit_awayPoison (s : State) (x : Sent) : (s.emit x).awayPoison = s.awayPoison := rfl

@[simp] theorem State.emit_lsPoison (s : State) (x : Sent) : (s.emit x).lsPoison = s.lsPoison := rfl

@[simp] theorem State.emit_rsPoison (s : State) (x : Sent) : (s.emit x).rsPoison = s.rsPoison := rfl

@[simp] theorem State.emit_scrubs (s : State) (x : Sent) : (s.emit x).scrubs = s.scrubs := rfl

@[simp] theorem State.emit_tlb1 (s : State) (x : Sent) : (s.emit x).tlb1 = s.tlb1 := rfl

@[simp] theorem State.emit_tlb2 (s : State) (x : Sent) : (s.emit x).tlb2 = s.tlb2 := rfl

@[simp] theorem State.emit_walkCache (s : State) (x : Sent) : (s.emit x).walkCache = s.walkCache := rfl

@[simp] theorem State.emit_slots (s : State) (x : Sent) : (s.emit x).slots = s.slots := rfl

@[simp] theorem State.emit_shards (s : State) (x : Sent) : (s.emit x).shards = s.shards := rfl

@[simp] theorem State.emit_tags (s : State) (x : Sent) : (s.emit x).tags = s.tags := rfl

@[simp] theorem State.emit_ledger (s : State) (x : Sent) : (s.emit x).ledger = s.ledger := rfl

@[simp] theorem State.emit_queues (s : State) (x : Sent) : (s.emit x).queues = s.queues := rfl

@[simp] theorem State.emit_watches (s : State) (x : Sent) : (s.emit x).watches = s.watches := rfl

@[simp] theorem State.emit_offers (s : State) (x : Sent) : (s.emit x).offers = s.offers := rfl

@[simp] theorem State.emit_deferred (s : State) (x : Sent) : (s.emit x).deferred = s.deferred := rfl

@[simp] theorem State.emit_waiting (s : State) (x : Sent) : (s.emit x).waiting = s.waiting := rfl

@[simp] theorem State.emit_relays (s : State) (x : Sent) : (s.emit x).relays = s.relays := rfl

@[simp] theorem State.emit_own (s : State) (x : Sent) : (s.emit x).own = s.own := rfl

@[simp] theorem State.emit_updates (s : State) (x : Sent) : (s.emit x).updates = s.updates := rfl

@[simp] theorem State.emit_fenceOps (s : State) (x : Sent) : (s.emit x).fenceOps = s.fenceOps := rfl

@[simp] theorem State.emit_fenceTurn (s : State) (x : Sent) : (s.emit x).fenceTurn = s.fenceTurn := rfl

@[simp] theorem State.emit_contexts (s : State) (x : Sent) : (s.emit x).contexts = s.contexts := rfl

@[simp] theorem State.emit_pieces (s : State) (x : Sent) : (s.emit x).pieces = s.pieces := rfl

@[simp] theorem State.emit_plait (s : State) (x : Sent) : (s.emit x).plait = s.plait := rfl

@[simp] theorem State.emit_reports (s : State) (x : Sent) : (s.emit x).reports = s.reports := rfl

@[simp] theorem State.emit_frames (s : State) (x : Sent) : (s.emit x).frames = s.frames := rfl

@[simp] theorem State.emit_objects (s : State) (x : Sent) : (s.emit x).objects = s.objects := rfl

@[simp] theorem State.emit_kv (s : State) (x : Sent) : (s.emit x).kv = s.kv := rfl

@[simp] theorem State.emit_segTags (s : State) (x : Sent) : (s.emit x).segTags = s.segTags := rfl

@[simp] theorem State.emit_seals (s : State) (x : Sent) : (s.emit x).seals = s.seals := rfl

@[simp] theorem State.emit_spans (s : State) (x : Sent) : (s.emit x).spans = s.spans := rfl

@[simp] theorem State.emit_spanMsgs (s : State) (x : Sent) : (s.emit x).spanMsgs = s.spanMsgs := rfl

@[simp] theorem State.emit_moves (s : State) (x : Sent) : (s.emit x).moves = s.moves := rfl

@[simp] theorem State.emit_edits (s : State) (x : Sent) : (s.emit x).edits = s.edits := rfl

@[simp] theorem State.emit_heat (s : State) (x : Sent) : (s.emit x).heat = s.heat := rfl

@[simp] theorem State.emit_pins (s : State) (x : Sent) : (s.emit x).pins = s.pins := rfl

@[simp] theorem State.emit_run (s : State) (x : Sent) : (s.emit x).run = s.run := rfl

@[simp] theorem State.emit_service (s : State) (x : Sent) : (s.emit x).service = s.service := rfl

@[simp] theorem State.emit_fuses (s : State) (x : Sent) : (s.emit x).fuses = s.fuses := rfl

@[simp] theorem State.emit_flash (s : State) (x : Sent) : (s.emit x).flash = s.flash := rfl

@[simp] theorem State.emit_keys (s : State) (x : Sent) : (s.emit x).keys = s.keys := rfl

@[simp] theorem State.emit_keyMask (s : State) (x : Sent) : (s.emit x).keyMask = s.keyMask := rfl

@[simp] theorem State.emit_ident (s : State) (x : Sent) : (s.emit x).ident = s.ident := rfl

@[simp] theorem State.emit_nonceTime (s : State) (x : Sent) : (s.emit x).nonceTime = s.nonceTime := rfl

@[simp] theorem State.emit_manifest (s : State) (x : Sent) : (s.emit x).manifest = s.manifest := rfl

@[simp] theorem State.emit_parts (s : State) (x : Sent) : (s.emit x).parts = s.parts := rfl

@[simp] theorem State.emit_power (s : State) (x : Sent) : (s.emit x).power = s.power := rfl

@[simp] theorem State.emit_fc (s : State) (x : Sent) : (s.emit x).fc = s.fc := rfl

@[simp] theorem State.emit_dma (s : State) (x : Sent) : (s.emit x).dma = s.dma := rfl

@[simp] theorem State.emit_ideKeys (s : State) (x : Sent) : (s.emit x).ideKeys = s.ideKeys := rfl

@[simp] theorem State.emit_msix (s : State) (x : Sent) : (s.emit x).msix = s.msix := rfl

@[simp] theorem State.emit_merge (s : State) (x : Sent) : (s.emit x).merge = s.merge := rfl

@[simp] theorem State.emit_seam (s : State) (x : Sent) : (s.emit x).seam = s.seam := rfl

@[simp] theorem State.emit_seamOut (s : State) (x : Sent) : (s.emit x).seamOut = s.seamOut := rfl

@[simp] theorem State.emit_bridgeTimes (s : State) (x : Sent) : (s.emit x).bridgeTimes = s.bridgeTimes := rfl

@[simp] theorem State.emit_ports (s : State) (x : Sent) : (s.emit x).ports = s.ports := rfl

@[simp] theorem State.emit_sentOn (s : State) (x : Sent) : (s.emit x).sentOn = s.sentOn := rfl

@[simp] theorem State.emit_forwardWait (s : State) (x : Sent) : (s.emit x).forwardWait = s.forwardWait := rfl

@[simp] theorem State.emit_heard (s : State) (x : Sent) : (s.emit x).heard = s.heard := rfl

@[simp] theorem State.emit_arbs (s : State) (x : Sent) : (s.emit x).arbs = s.arbs := rfl

@[simp] theorem State.emit_granted (s : State) (x : Sent) : (s.emit x).granted = s.granted := rfl

@[simp] theorem State.emit_windowEdge (s : State) (x : Sent) : (s.emit x).windowEdge = s.windowEdge := rfl

@[simp] theorem State.emit_chanBytes (s : State) (x : Sent) : (s.emit x).chanBytes = s.chanBytes := rfl

@[simp] theorem State.emit_chanBack (s : State) (x : Sent) : (s.emit x).chanBack = s.chanBack := rfl

@[simp] theorem State.emit_latencies (s : State) (x : Sent) : (s.emit x).latencies = s.latencies := rfl

@[simp] theorem State.emit_d3hot (s : State) (x : Sent) : (s.emit x).d3hot = s.d3hot := rfl

@[simp] theorem State.emit_sealGot (s : State) (x : Sent) : (s.emit x).sealGot = s.sealGot := rfl

@[simp] theorem State.emit_lids (s : State) (x : Sent) : (s.emit x).lids = s.lids := rfl

@[simp] theorem State.emit_imports (s : State) (x : Sent) : (s.emit x).imports = s.imports := rfl

@[simp] theorem State.emit_lostModules (s : State) (x : Sent) : (s.emit x).lostModules = s.lostModules := rfl

@[simp] theorem State.emit_freeCounter (s : State) (x : Sent) : (s.emit x).freeCounter = s.freeCounter := rfl

@[simp] theorem State.emit_pending (s : State) (x : Sent) : (s.emit x).pending = s.pending := rfl

/-! ## State.drawn -/

@[simp] theorem State.drawn_regs (s : State) : s.drawn.regs = s.regs := rfl

@[simp] theorem State.drawn_latched (s : State) : s.drawn.latched = s.latched := rfl

@[simp] theorem State.drawn_hbm (s : State) : s.drawn.hbm = s.hbm := rfl

@[simp] theorem State.drawn_sidecar (s : State) : s.drawn.sidecar = s.sidecar := rfl

@[simp] theorem State.drawn_localStore (s : State) : s.drawn.localStore = s.localStore := rfl

@[simp] theorem State.drawn_rowStore (s : State) : s.drawn.rowStore = s.rowStore := rfl

@[simp] theorem State.drawn_lineTag (s : State) : s.drawn.lineTag = s.lineTag := rfl

@[simp] theorem State.drawn_tier4 (s : State) : s.drawn.tier4 = s.tier4 := rfl

@[simp] theorem State.drawn_hbmPoison (s : State) : s.drawn.hbmPoison = s.hbmPoison := rfl

@[simp] theorem State.drawn_awayPoison (s : State) : s.drawn.awayPoison = s.awayPoison := rfl

@[simp] theorem State.drawn_lsPoison (s : State) : s.drawn.lsPoison = s.lsPoison := rfl

@[simp] theorem State.drawn_rsPoison (s : State) : s.drawn.rsPoison = s.rsPoison := rfl

@[simp] theorem State.drawn_scrubs (s : State) : s.drawn.scrubs = s.scrubs := rfl

@[simp] theorem State.drawn_tlb1 (s : State) : s.drawn.tlb1 = s.tlb1 := rfl

@[simp] theorem State.drawn_tlb2 (s : State) : s.drawn.tlb2 = s.tlb2 := rfl

@[simp] theorem State.drawn_walkCache (s : State) : s.drawn.walkCache = s.walkCache := rfl

@[simp] theorem State.drawn_slots (s : State) : s.drawn.slots = s.slots := rfl

@[simp] theorem State.drawn_shards (s : State) : s.drawn.shards = s.shards := rfl

@[simp] theorem State.drawn_tags (s : State) : s.drawn.tags = s.tags := rfl

@[simp] theorem State.drawn_ledger (s : State) : s.drawn.ledger = s.ledger := rfl

@[simp] theorem State.drawn_queues (s : State) : s.drawn.queues = s.queues := rfl

@[simp] theorem State.drawn_watches (s : State) : s.drawn.watches = s.watches := rfl

@[simp] theorem State.drawn_offers (s : State) : s.drawn.offers = s.offers := rfl

@[simp] theorem State.drawn_deferred (s : State) : s.drawn.deferred = s.deferred := rfl

@[simp] theorem State.drawn_waiting (s : State) : s.drawn.waiting = s.waiting := rfl

@[simp] theorem State.drawn_relays (s : State) : s.drawn.relays = s.relays := rfl

@[simp] theorem State.drawn_own (s : State) : s.drawn.own = s.own := rfl

@[simp] theorem State.drawn_updates (s : State) : s.drawn.updates = s.updates := rfl

@[simp] theorem State.drawn_fenceOps (s : State) : s.drawn.fenceOps = s.fenceOps := rfl

@[simp] theorem State.drawn_fenceTurn (s : State) : s.drawn.fenceTurn = s.fenceTurn := rfl

@[simp] theorem State.drawn_contexts (s : State) : s.drawn.contexts = s.contexts := rfl

@[simp] theorem State.drawn_pieces (s : State) : s.drawn.pieces = s.pieces := rfl

@[simp] theorem State.drawn_plait (s : State) : s.drawn.plait = s.plait := rfl

@[simp] theorem State.drawn_reports (s : State) : s.drawn.reports = s.reports := rfl

@[simp] theorem State.drawn_frames (s : State) : s.drawn.frames = s.frames := rfl

@[simp] theorem State.drawn_objects (s : State) : s.drawn.objects = s.objects := rfl

@[simp] theorem State.drawn_kv (s : State) : s.drawn.kv = s.kv := rfl

@[simp] theorem State.drawn_segTags (s : State) : s.drawn.segTags = s.segTags := rfl

@[simp] theorem State.drawn_seals (s : State) : s.drawn.seals = s.seals := rfl

@[simp] theorem State.drawn_spans (s : State) : s.drawn.spans = s.spans := rfl

@[simp] theorem State.drawn_spanMsgs (s : State) : s.drawn.spanMsgs = s.spanMsgs := rfl

@[simp] theorem State.drawn_moves (s : State) : s.drawn.moves = s.moves := rfl

@[simp] theorem State.drawn_edits (s : State) : s.drawn.edits = s.edits := rfl

@[simp] theorem State.drawn_heat (s : State) : s.drawn.heat = s.heat := rfl

@[simp] theorem State.drawn_pins (s : State) : s.drawn.pins = s.pins := rfl

@[simp] theorem State.drawn_run (s : State) : s.drawn.run = s.run := rfl

@[simp] theorem State.drawn_service (s : State) : s.drawn.service = s.service := rfl

@[simp] theorem State.drawn_fuses (s : State) : s.drawn.fuses = s.fuses := rfl

@[simp] theorem State.drawn_flash (s : State) : s.drawn.flash = s.flash := rfl

@[simp] theorem State.drawn_keys (s : State) : s.drawn.keys = s.keys := rfl

@[simp] theorem State.drawn_keyMask (s : State) : s.drawn.keyMask = s.keyMask := rfl

@[simp] theorem State.drawn_ident (s : State) : s.drawn.ident = s.ident := rfl

@[simp] theorem State.drawn_nonceTime (s : State) : s.drawn.nonceTime = s.nonceTime := rfl

@[simp] theorem State.drawn_manifest (s : State) : s.drawn.manifest = s.manifest := rfl

@[simp] theorem State.drawn_parts (s : State) : s.drawn.parts = s.parts := rfl

@[simp] theorem State.drawn_power (s : State) : s.drawn.power = s.power := rfl

@[simp] theorem State.drawn_fc (s : State) : s.drawn.fc = s.fc := rfl

@[simp] theorem State.drawn_dma (s : State) : s.drawn.dma = s.dma := rfl

@[simp] theorem State.drawn_ideKeys (s : State) : s.drawn.ideKeys = s.ideKeys := rfl

@[simp] theorem State.drawn_msix (s : State) : s.drawn.msix = s.msix := rfl

@[simp] theorem State.drawn_merge (s : State) : s.drawn.merge = s.merge := rfl

@[simp] theorem State.drawn_seam (s : State) : s.drawn.seam = s.seam := rfl

@[simp] theorem State.drawn_seamOut (s : State) : s.drawn.seamOut = s.seamOut := rfl

@[simp] theorem State.drawn_bridgeTimes (s : State) : s.drawn.bridgeTimes = s.bridgeTimes := rfl

@[simp] theorem State.drawn_ports (s : State) : s.drawn.ports = s.ports := rfl

@[simp] theorem State.drawn_sentOn (s : State) : s.drawn.sentOn = s.sentOn := rfl

@[simp] theorem State.drawn_forwardWait (s : State) : s.drawn.forwardWait = s.forwardWait := rfl

@[simp] theorem State.drawn_heard (s : State) : s.drawn.heard = s.heard := rfl

@[simp] theorem State.drawn_arbs (s : State) : s.drawn.arbs = s.arbs := rfl

@[simp] theorem State.drawn_granted (s : State) : s.drawn.granted = s.granted := rfl

@[simp] theorem State.drawn_windowEdge (s : State) : s.drawn.windowEdge = s.windowEdge := rfl

@[simp] theorem State.drawn_chanBytes (s : State) : s.drawn.chanBytes = s.chanBytes := rfl

@[simp] theorem State.drawn_chanBack (s : State) : s.drawn.chanBack = s.chanBack := rfl

@[simp] theorem State.drawn_latencies (s : State) : s.drawn.latencies = s.latencies := rfl

@[simp] theorem State.drawn_d3hot (s : State) : s.drawn.d3hot = s.d3hot := rfl

@[simp] theorem State.drawn_sealGot (s : State) : s.drawn.sealGot = s.sealGot := rfl

@[simp] theorem State.drawn_lids (s : State) : s.drawn.lids = s.lids := rfl

@[simp] theorem State.drawn_imports (s : State) : s.drawn.imports = s.imports := rfl

@[simp] theorem State.drawn_lostModules (s : State) : s.drawn.lostModules = s.lostModules := rfl

@[simp] theorem State.drawn_outbox (s : State) : s.drawn.outbox = s.outbox := rfl

@[simp] theorem State.drawn_pending (s : State) : s.drawn.pending = s.pending := rfl

/-! ## State.setSlot -/

@[simp] theorem State.setSlot_regs (s : State) (c k : Nat) (v : Slot) : (s.setSlot c k v).regs = s.regs := rfl

@[simp] theorem State.setSlot_latched (s : State) (c k : Nat) (v : Slot) : (s.setSlot c k v).latched = s.latched := rfl

@[simp] theorem State.setSlot_hbm (s : State) (c k : Nat) (v : Slot) : (s.setSlot c k v).hbm = s.hbm := rfl

@[simp] theorem State.setSlot_sidecar (s : State) (c k : Nat) (v : Slot) : (s.setSlot c k v).sidecar = s.sidecar := rfl

@[simp] theorem State.setSlot_localStore (s : State) (c k : Nat) (v : Slot) : (s.setSlot c k v).localStore = s.localStore := rfl

@[simp] theorem State.setSlot_rowStore (s : State) (c k : Nat) (v : Slot) : (s.setSlot c k v).rowStore = s.rowStore := rfl

@[simp] theorem State.setSlot_lineTag (s : State) (c k : Nat) (v : Slot) : (s.setSlot c k v).lineTag = s.lineTag := rfl

@[simp] theorem State.setSlot_tier4 (s : State) (c k : Nat) (v : Slot) : (s.setSlot c k v).tier4 = s.tier4 := rfl

@[simp] theorem State.setSlot_hbmPoison (s : State) (c k : Nat) (v : Slot) : (s.setSlot c k v).hbmPoison = s.hbmPoison := rfl

@[simp] theorem State.setSlot_awayPoison (s : State) (c k : Nat) (v : Slot) : (s.setSlot c k v).awayPoison = s.awayPoison := rfl

@[simp] theorem State.setSlot_lsPoison (s : State) (c k : Nat) (v : Slot) : (s.setSlot c k v).lsPoison = s.lsPoison := rfl

@[simp] theorem State.setSlot_rsPoison (s : State) (c k : Nat) (v : Slot) : (s.setSlot c k v).rsPoison = s.rsPoison := rfl

@[simp] theorem State.setSlot_scrubs (s : State) (c k : Nat) (v : Slot) : (s.setSlot c k v).scrubs = s.scrubs := rfl

@[simp] theorem State.setSlot_tlb1 (s : State) (c k : Nat) (v : Slot) : (s.setSlot c k v).tlb1 = s.tlb1 := rfl

@[simp] theorem State.setSlot_tlb2 (s : State) (c k : Nat) (v : Slot) : (s.setSlot c k v).tlb2 = s.tlb2 := rfl

@[simp] theorem State.setSlot_walkCache (s : State) (c k : Nat) (v : Slot) : (s.setSlot c k v).walkCache = s.walkCache := rfl

@[simp] theorem State.setSlot_shards (s : State) (c k : Nat) (v : Slot) : (s.setSlot c k v).shards = s.shards := rfl

@[simp] theorem State.setSlot_tags (s : State) (c k : Nat) (v : Slot) : (s.setSlot c k v).tags = s.tags := rfl

@[simp] theorem State.setSlot_ledger (s : State) (c k : Nat) (v : Slot) : (s.setSlot c k v).ledger = s.ledger := rfl

@[simp] theorem State.setSlot_queues (s : State) (c k : Nat) (v : Slot) : (s.setSlot c k v).queues = s.queues := rfl

@[simp] theorem State.setSlot_watches (s : State) (c k : Nat) (v : Slot) : (s.setSlot c k v).watches = s.watches := rfl

@[simp] theorem State.setSlot_offers (s : State) (c k : Nat) (v : Slot) : (s.setSlot c k v).offers = s.offers := rfl

@[simp] theorem State.setSlot_deferred (s : State) (c k : Nat) (v : Slot) : (s.setSlot c k v).deferred = s.deferred := rfl

@[simp] theorem State.setSlot_waiting (s : State) (c k : Nat) (v : Slot) : (s.setSlot c k v).waiting = s.waiting := rfl

@[simp] theorem State.setSlot_relays (s : State) (c k : Nat) (v : Slot) : (s.setSlot c k v).relays = s.relays := rfl

@[simp] theorem State.setSlot_own (s : State) (c k : Nat) (v : Slot) : (s.setSlot c k v).own = s.own := rfl

@[simp] theorem State.setSlot_updates (s : State) (c k : Nat) (v : Slot) : (s.setSlot c k v).updates = s.updates := rfl

@[simp] theorem State.setSlot_fenceOps (s : State) (c k : Nat) (v : Slot) : (s.setSlot c k v).fenceOps = s.fenceOps := rfl

@[simp] theorem State.setSlot_fenceTurn (s : State) (c k : Nat) (v : Slot) : (s.setSlot c k v).fenceTurn = s.fenceTurn := rfl

@[simp] theorem State.setSlot_contexts (s : State) (c k : Nat) (v : Slot) : (s.setSlot c k v).contexts = s.contexts := rfl

@[simp] theorem State.setSlot_pieces (s : State) (c k : Nat) (v : Slot) : (s.setSlot c k v).pieces = s.pieces := rfl

@[simp] theorem State.setSlot_plait (s : State) (c k : Nat) (v : Slot) : (s.setSlot c k v).plait = s.plait := rfl

@[simp] theorem State.setSlot_reports (s : State) (c k : Nat) (v : Slot) : (s.setSlot c k v).reports = s.reports := rfl

@[simp] theorem State.setSlot_frames (s : State) (c k : Nat) (v : Slot) : (s.setSlot c k v).frames = s.frames := rfl

@[simp] theorem State.setSlot_objects (s : State) (c k : Nat) (v : Slot) : (s.setSlot c k v).objects = s.objects := rfl

@[simp] theorem State.setSlot_kv (s : State) (c k : Nat) (v : Slot) : (s.setSlot c k v).kv = s.kv := rfl

@[simp] theorem State.setSlot_segTags (s : State) (c k : Nat) (v : Slot) : (s.setSlot c k v).segTags = s.segTags := rfl

@[simp] theorem State.setSlot_seals (s : State) (c k : Nat) (v : Slot) : (s.setSlot c k v).seals = s.seals := rfl

@[simp] theorem State.setSlot_spans (s : State) (c k : Nat) (v : Slot) : (s.setSlot c k v).spans = s.spans := rfl

@[simp] theorem State.setSlot_spanMsgs (s : State) (c k : Nat) (v : Slot) : (s.setSlot c k v).spanMsgs = s.spanMsgs := rfl

@[simp] theorem State.setSlot_moves (s : State) (c k : Nat) (v : Slot) : (s.setSlot c k v).moves = s.moves := rfl

@[simp] theorem State.setSlot_edits (s : State) (c k : Nat) (v : Slot) : (s.setSlot c k v).edits = s.edits := rfl

@[simp] theorem State.setSlot_heat (s : State) (c k : Nat) (v : Slot) : (s.setSlot c k v).heat = s.heat := rfl

@[simp] theorem State.setSlot_pins (s : State) (c k : Nat) (v : Slot) : (s.setSlot c k v).pins = s.pins := rfl

@[simp] theorem State.setSlot_run (s : State) (c k : Nat) (v : Slot) : (s.setSlot c k v).run = s.run := rfl

@[simp] theorem State.setSlot_service (s : State) (c k : Nat) (v : Slot) : (s.setSlot c k v).service = s.service := rfl

@[simp] theorem State.setSlot_fuses (s : State) (c k : Nat) (v : Slot) : (s.setSlot c k v).fuses = s.fuses := rfl

@[simp] theorem State.setSlot_flash (s : State) (c k : Nat) (v : Slot) : (s.setSlot c k v).flash = s.flash := rfl

@[simp] theorem State.setSlot_keys (s : State) (c k : Nat) (v : Slot) : (s.setSlot c k v).keys = s.keys := rfl

@[simp] theorem State.setSlot_keyMask (s : State) (c k : Nat) (v : Slot) : (s.setSlot c k v).keyMask = s.keyMask := rfl

@[simp] theorem State.setSlot_ident (s : State) (c k : Nat) (v : Slot) : (s.setSlot c k v).ident = s.ident := rfl

@[simp] theorem State.setSlot_nonceTime (s : State) (c k : Nat) (v : Slot) : (s.setSlot c k v).nonceTime = s.nonceTime := rfl

@[simp] theorem State.setSlot_manifest (s : State) (c k : Nat) (v : Slot) : (s.setSlot c k v).manifest = s.manifest := rfl

@[simp] theorem State.setSlot_parts (s : State) (c k : Nat) (v : Slot) : (s.setSlot c k v).parts = s.parts := rfl

@[simp] theorem State.setSlot_power (s : State) (c k : Nat) (v : Slot) : (s.setSlot c k v).power = s.power := rfl

@[simp] theorem State.setSlot_fc (s : State) (c k : Nat) (v : Slot) : (s.setSlot c k v).fc = s.fc := rfl

@[simp] theorem State.setSlot_dma (s : State) (c k : Nat) (v : Slot) : (s.setSlot c k v).dma = s.dma := rfl

@[simp] theorem State.setSlot_ideKeys (s : State) (c k : Nat) (v : Slot) : (s.setSlot c k v).ideKeys = s.ideKeys := rfl

@[simp] theorem State.setSlot_msix (s : State) (c k : Nat) (v : Slot) : (s.setSlot c k v).msix = s.msix := rfl

@[simp] theorem State.setSlot_merge (s : State) (c k : Nat) (v : Slot) : (s.setSlot c k v).merge = s.merge := rfl

@[simp] theorem State.setSlot_seam (s : State) (c k : Nat) (v : Slot) : (s.setSlot c k v).seam = s.seam := rfl

@[simp] theorem State.setSlot_seamOut (s : State) (c k : Nat) (v : Slot) : (s.setSlot c k v).seamOut = s.seamOut := rfl

@[simp] theorem State.setSlot_bridgeTimes (s : State) (c k : Nat) (v : Slot) : (s.setSlot c k v).bridgeTimes = s.bridgeTimes := rfl

@[simp] theorem State.setSlot_ports (s : State) (c k : Nat) (v : Slot) : (s.setSlot c k v).ports = s.ports := rfl

@[simp] theorem State.setSlot_sentOn (s : State) (c k : Nat) (v : Slot) : (s.setSlot c k v).sentOn = s.sentOn := rfl

@[simp] theorem State.setSlot_forwardWait (s : State) (c k : Nat) (v : Slot) : (s.setSlot c k v).forwardWait = s.forwardWait := rfl

@[simp] theorem State.setSlot_heard (s : State) (c k : Nat) (v : Slot) : (s.setSlot c k v).heard = s.heard := rfl

@[simp] theorem State.setSlot_arbs (s : State) (c k : Nat) (v : Slot) : (s.setSlot c k v).arbs = s.arbs := rfl

@[simp] theorem State.setSlot_granted (s : State) (c k : Nat) (v : Slot) : (s.setSlot c k v).granted = s.granted := rfl

@[simp] theorem State.setSlot_windowEdge (s : State) (c k : Nat) (v : Slot) : (s.setSlot c k v).windowEdge = s.windowEdge := rfl

@[simp] theorem State.setSlot_chanBytes (s : State) (c k : Nat) (v : Slot) : (s.setSlot c k v).chanBytes = s.chanBytes := rfl

@[simp] theorem State.setSlot_chanBack (s : State) (c k : Nat) (v : Slot) : (s.setSlot c k v).chanBack = s.chanBack := rfl

@[simp] theorem State.setSlot_latencies (s : State) (c k : Nat) (v : Slot) : (s.setSlot c k v).latencies = s.latencies := rfl

@[simp] theorem State.setSlot_d3hot (s : State) (c k : Nat) (v : Slot) : (s.setSlot c k v).d3hot = s.d3hot := rfl

@[simp] theorem State.setSlot_sealGot (s : State) (c k : Nat) (v : Slot) : (s.setSlot c k v).sealGot = s.sealGot := rfl

@[simp] theorem State.setSlot_lids (s : State) (c k : Nat) (v : Slot) : (s.setSlot c k v).lids = s.lids := rfl

@[simp] theorem State.setSlot_imports (s : State) (c k : Nat) (v : Slot) : (s.setSlot c k v).imports = s.imports := rfl

@[simp] theorem State.setSlot_lostModules (s : State) (c k : Nat) (v : Slot) : (s.setSlot c k v).lostModules = s.lostModules := rfl

@[simp] theorem State.setSlot_outbox (s : State) (c k : Nat) (v : Slot) : (s.setSlot c k v).outbox = s.outbox := rfl

@[simp] theorem State.setSlot_freeCounter (s : State) (c k : Nat) (v : Slot) : (s.setSlot c k v).freeCounter = s.freeCounter := rfl

@[simp] theorem State.setSlot_pending (s : State) (c k : Nat) (v : Slot) : (s.setSlot c k v).pending = s.pending := rfl

/-! ## State.setCtx -/

@[simp] theorem State.setCtx_regs (s : State) (c : Nat) (v : Context) : (s.setCtx c v).regs = s.regs := rfl

@[simp] theorem State.setCtx_latched (s : State) (c : Nat) (v : Context) : (s.setCtx c v).latched = s.latched := rfl

@[simp] theorem State.setCtx_hbm (s : State) (c : Nat) (v : Context) : (s.setCtx c v).hbm = s.hbm := rfl

@[simp] theorem State.setCtx_sidecar (s : State) (c : Nat) (v : Context) : (s.setCtx c v).sidecar = s.sidecar := rfl

@[simp] theorem State.setCtx_localStore (s : State) (c : Nat) (v : Context) : (s.setCtx c v).localStore = s.localStore := rfl

@[simp] theorem State.setCtx_rowStore (s : State) (c : Nat) (v : Context) : (s.setCtx c v).rowStore = s.rowStore := rfl

@[simp] theorem State.setCtx_lineTag (s : State) (c : Nat) (v : Context) : (s.setCtx c v).lineTag = s.lineTag := rfl

@[simp] theorem State.setCtx_tier4 (s : State) (c : Nat) (v : Context) : (s.setCtx c v).tier4 = s.tier4 := rfl

@[simp] theorem State.setCtx_hbmPoison (s : State) (c : Nat) (v : Context) : (s.setCtx c v).hbmPoison = s.hbmPoison := rfl

@[simp] theorem State.setCtx_awayPoison (s : State) (c : Nat) (v : Context) : (s.setCtx c v).awayPoison = s.awayPoison := rfl

@[simp] theorem State.setCtx_lsPoison (s : State) (c : Nat) (v : Context) : (s.setCtx c v).lsPoison = s.lsPoison := rfl

@[simp] theorem State.setCtx_rsPoison (s : State) (c : Nat) (v : Context) : (s.setCtx c v).rsPoison = s.rsPoison := rfl

@[simp] theorem State.setCtx_scrubs (s : State) (c : Nat) (v : Context) : (s.setCtx c v).scrubs = s.scrubs := rfl

@[simp] theorem State.setCtx_tlb1 (s : State) (c : Nat) (v : Context) : (s.setCtx c v).tlb1 = s.tlb1 := rfl

@[simp] theorem State.setCtx_tlb2 (s : State) (c : Nat) (v : Context) : (s.setCtx c v).tlb2 = s.tlb2 := rfl

@[simp] theorem State.setCtx_walkCache (s : State) (c : Nat) (v : Context) : (s.setCtx c v).walkCache = s.walkCache := rfl

@[simp] theorem State.setCtx_slots (s : State) (c : Nat) (v : Context) : (s.setCtx c v).slots = s.slots := rfl

@[simp] theorem State.setCtx_shards (s : State) (c : Nat) (v : Context) : (s.setCtx c v).shards = s.shards := rfl

@[simp] theorem State.setCtx_tags (s : State) (c : Nat) (v : Context) : (s.setCtx c v).tags = s.tags := rfl

@[simp] theorem State.setCtx_ledger (s : State) (c : Nat) (v : Context) : (s.setCtx c v).ledger = s.ledger := rfl

@[simp] theorem State.setCtx_queues (s : State) (c : Nat) (v : Context) : (s.setCtx c v).queues = s.queues := rfl

@[simp] theorem State.setCtx_watches (s : State) (c : Nat) (v : Context) : (s.setCtx c v).watches = s.watches := rfl

@[simp] theorem State.setCtx_offers (s : State) (c : Nat) (v : Context) : (s.setCtx c v).offers = s.offers := rfl

@[simp] theorem State.setCtx_deferred (s : State) (c : Nat) (v : Context) : (s.setCtx c v).deferred = s.deferred := rfl

@[simp] theorem State.setCtx_waiting (s : State) (c : Nat) (v : Context) : (s.setCtx c v).waiting = s.waiting := rfl

@[simp] theorem State.setCtx_relays (s : State) (c : Nat) (v : Context) : (s.setCtx c v).relays = s.relays := rfl

@[simp] theorem State.setCtx_own (s : State) (c : Nat) (v : Context) : (s.setCtx c v).own = s.own := rfl

@[simp] theorem State.setCtx_updates (s : State) (c : Nat) (v : Context) : (s.setCtx c v).updates = s.updates := rfl

@[simp] theorem State.setCtx_fenceOps (s : State) (c : Nat) (v : Context) : (s.setCtx c v).fenceOps = s.fenceOps := rfl

@[simp] theorem State.setCtx_fenceTurn (s : State) (c : Nat) (v : Context) : (s.setCtx c v).fenceTurn = s.fenceTurn := rfl

@[simp] theorem State.setCtx_pieces (s : State) (c : Nat) (v : Context) : (s.setCtx c v).pieces = s.pieces := rfl

@[simp] theorem State.setCtx_plait (s : State) (c : Nat) (v : Context) : (s.setCtx c v).plait = s.plait := rfl

@[simp] theorem State.setCtx_reports (s : State) (c : Nat) (v : Context) : (s.setCtx c v).reports = s.reports := rfl

@[simp] theorem State.setCtx_frames (s : State) (c : Nat) (v : Context) : (s.setCtx c v).frames = s.frames := rfl

@[simp] theorem State.setCtx_objects (s : State) (c : Nat) (v : Context) : (s.setCtx c v).objects = s.objects := rfl

@[simp] theorem State.setCtx_kv (s : State) (c : Nat) (v : Context) : (s.setCtx c v).kv = s.kv := rfl

@[simp] theorem State.setCtx_segTags (s : State) (c : Nat) (v : Context) : (s.setCtx c v).segTags = s.segTags := rfl

@[simp] theorem State.setCtx_seals (s : State) (c : Nat) (v : Context) : (s.setCtx c v).seals = s.seals := rfl

@[simp] theorem State.setCtx_spans (s : State) (c : Nat) (v : Context) : (s.setCtx c v).spans = s.spans := rfl

@[simp] theorem State.setCtx_spanMsgs (s : State) (c : Nat) (v : Context) : (s.setCtx c v).spanMsgs = s.spanMsgs := rfl

@[simp] theorem State.setCtx_moves (s : State) (c : Nat) (v : Context) : (s.setCtx c v).moves = s.moves := rfl

@[simp] theorem State.setCtx_edits (s : State) (c : Nat) (v : Context) : (s.setCtx c v).edits = s.edits := rfl

@[simp] theorem State.setCtx_heat (s : State) (c : Nat) (v : Context) : (s.setCtx c v).heat = s.heat := rfl

@[simp] theorem State.setCtx_pins (s : State) (c : Nat) (v : Context) : (s.setCtx c v).pins = s.pins := rfl

@[simp] theorem State.setCtx_run (s : State) (c : Nat) (v : Context) : (s.setCtx c v).run = s.run := rfl

@[simp] theorem State.setCtx_service (s : State) (c : Nat) (v : Context) : (s.setCtx c v).service = s.service := rfl

@[simp] theorem State.setCtx_fuses (s : State) (c : Nat) (v : Context) : (s.setCtx c v).fuses = s.fuses := rfl

@[simp] theorem State.setCtx_flash (s : State) (c : Nat) (v : Context) : (s.setCtx c v).flash = s.flash := rfl

@[simp] theorem State.setCtx_keys (s : State) (c : Nat) (v : Context) : (s.setCtx c v).keys = s.keys := rfl

@[simp] theorem State.setCtx_keyMask (s : State) (c : Nat) (v : Context) : (s.setCtx c v).keyMask = s.keyMask := rfl

@[simp] theorem State.setCtx_ident (s : State) (c : Nat) (v : Context) : (s.setCtx c v).ident = s.ident := rfl

@[simp] theorem State.setCtx_nonceTime (s : State) (c : Nat) (v : Context) : (s.setCtx c v).nonceTime = s.nonceTime := rfl

@[simp] theorem State.setCtx_manifest (s : State) (c : Nat) (v : Context) : (s.setCtx c v).manifest = s.manifest := rfl

@[simp] theorem State.setCtx_parts (s : State) (c : Nat) (v : Context) : (s.setCtx c v).parts = s.parts := rfl

@[simp] theorem State.setCtx_power (s : State) (c : Nat) (v : Context) : (s.setCtx c v).power = s.power := rfl

@[simp] theorem State.setCtx_fc (s : State) (c : Nat) (v : Context) : (s.setCtx c v).fc = s.fc := rfl

@[simp] theorem State.setCtx_dma (s : State) (c : Nat) (v : Context) : (s.setCtx c v).dma = s.dma := rfl

@[simp] theorem State.setCtx_ideKeys (s : State) (c : Nat) (v : Context) : (s.setCtx c v).ideKeys = s.ideKeys := rfl

@[simp] theorem State.setCtx_msix (s : State) (c : Nat) (v : Context) : (s.setCtx c v).msix = s.msix := rfl

@[simp] theorem State.setCtx_merge (s : State) (c : Nat) (v : Context) : (s.setCtx c v).merge = s.merge := rfl

@[simp] theorem State.setCtx_seam (s : State) (c : Nat) (v : Context) : (s.setCtx c v).seam = s.seam := rfl

@[simp] theorem State.setCtx_seamOut (s : State) (c : Nat) (v : Context) : (s.setCtx c v).seamOut = s.seamOut := rfl

@[simp] theorem State.setCtx_bridgeTimes (s : State) (c : Nat) (v : Context) : (s.setCtx c v).bridgeTimes = s.bridgeTimes := rfl

@[simp] theorem State.setCtx_ports (s : State) (c : Nat) (v : Context) : (s.setCtx c v).ports = s.ports := rfl

@[simp] theorem State.setCtx_sentOn (s : State) (c : Nat) (v : Context) : (s.setCtx c v).sentOn = s.sentOn := rfl

@[simp] theorem State.setCtx_forwardWait (s : State) (c : Nat) (v : Context) : (s.setCtx c v).forwardWait = s.forwardWait := rfl

@[simp] theorem State.setCtx_heard (s : State) (c : Nat) (v : Context) : (s.setCtx c v).heard = s.heard := rfl

@[simp] theorem State.setCtx_arbs (s : State) (c : Nat) (v : Context) : (s.setCtx c v).arbs = s.arbs := rfl

@[simp] theorem State.setCtx_granted (s : State) (c : Nat) (v : Context) : (s.setCtx c v).granted = s.granted := rfl

@[simp] theorem State.setCtx_windowEdge (s : State) (c : Nat) (v : Context) : (s.setCtx c v).windowEdge = s.windowEdge := rfl

@[simp] theorem State.setCtx_chanBytes (s : State) (c : Nat) (v : Context) : (s.setCtx c v).chanBytes = s.chanBytes := rfl

@[simp] theorem State.setCtx_chanBack (s : State) (c : Nat) (v : Context) : (s.setCtx c v).chanBack = s.chanBack := rfl

@[simp] theorem State.setCtx_latencies (s : State) (c : Nat) (v : Context) : (s.setCtx c v).latencies = s.latencies := rfl

@[simp] theorem State.setCtx_d3hot (s : State) (c : Nat) (v : Context) : (s.setCtx c v).d3hot = s.d3hot := rfl

@[simp] theorem State.setCtx_sealGot (s : State) (c : Nat) (v : Context) : (s.setCtx c v).sealGot = s.sealGot := rfl

@[simp] theorem State.setCtx_lids (s : State) (c : Nat) (v : Context) : (s.setCtx c v).lids = s.lids := rfl

@[simp] theorem State.setCtx_imports (s : State) (c : Nat) (v : Context) : (s.setCtx c v).imports = s.imports := rfl

@[simp] theorem State.setCtx_lostModules (s : State) (c : Nat) (v : Context) : (s.setCtx c v).lostModules = s.lostModules := rfl

@[simp] theorem State.setCtx_outbox (s : State) (c : Nat) (v : Context) : (s.setCtx c v).outbox = s.outbox := rfl

@[simp] theorem State.setCtx_freeCounter (s : State) (c : Nat) (v : Context) : (s.setCtx c v).freeCounter = s.freeCounter := rfl

@[simp] theorem State.setCtx_pending (s : State) (c : Nat) (v : Context) : (s.setCtx c v).pending = s.pending := rfl

/-! ## State.setPort -/

@[simp] theorem State.setPort_regs (s : State) (p : Nat) (x : Port) : (s.setPort p x).regs = s.regs := rfl

@[simp] theorem State.setPort_latched (s : State) (p : Nat) (x : Port) : (s.setPort p x).latched = s.latched := rfl

@[simp] theorem State.setPort_hbm (s : State) (p : Nat) (x : Port) : (s.setPort p x).hbm = s.hbm := rfl

@[simp] theorem State.setPort_sidecar (s : State) (p : Nat) (x : Port) : (s.setPort p x).sidecar = s.sidecar := rfl

@[simp] theorem State.setPort_localStore (s : State) (p : Nat) (x : Port) : (s.setPort p x).localStore = s.localStore := rfl

@[simp] theorem State.setPort_rowStore (s : State) (p : Nat) (x : Port) : (s.setPort p x).rowStore = s.rowStore := rfl

@[simp] theorem State.setPort_lineTag (s : State) (p : Nat) (x : Port) : (s.setPort p x).lineTag = s.lineTag := rfl

@[simp] theorem State.setPort_tier4 (s : State) (p : Nat) (x : Port) : (s.setPort p x).tier4 = s.tier4 := rfl

@[simp] theorem State.setPort_hbmPoison (s : State) (p : Nat) (x : Port) : (s.setPort p x).hbmPoison = s.hbmPoison := rfl

@[simp] theorem State.setPort_awayPoison (s : State) (p : Nat) (x : Port) : (s.setPort p x).awayPoison = s.awayPoison := rfl

@[simp] theorem State.setPort_lsPoison (s : State) (p : Nat) (x : Port) : (s.setPort p x).lsPoison = s.lsPoison := rfl

@[simp] theorem State.setPort_rsPoison (s : State) (p : Nat) (x : Port) : (s.setPort p x).rsPoison = s.rsPoison := rfl

@[simp] theorem State.setPort_scrubs (s : State) (p : Nat) (x : Port) : (s.setPort p x).scrubs = s.scrubs := rfl

@[simp] theorem State.setPort_tlb1 (s : State) (p : Nat) (x : Port) : (s.setPort p x).tlb1 = s.tlb1 := rfl

@[simp] theorem State.setPort_tlb2 (s : State) (p : Nat) (x : Port) : (s.setPort p x).tlb2 = s.tlb2 := rfl

@[simp] theorem State.setPort_walkCache (s : State) (p : Nat) (x : Port) : (s.setPort p x).walkCache = s.walkCache := rfl

@[simp] theorem State.setPort_slots (s : State) (p : Nat) (x : Port) : (s.setPort p x).slots = s.slots := rfl

@[simp] theorem State.setPort_shards (s : State) (p : Nat) (x : Port) : (s.setPort p x).shards = s.shards := rfl

@[simp] theorem State.setPort_tags (s : State) (p : Nat) (x : Port) : (s.setPort p x).tags = s.tags := rfl

@[simp] theorem State.setPort_ledger (s : State) (p : Nat) (x : Port) : (s.setPort p x).ledger = s.ledger := rfl

@[simp] theorem State.setPort_queues (s : State) (p : Nat) (x : Port) : (s.setPort p x).queues = s.queues := rfl

@[simp] theorem State.setPort_watches (s : State) (p : Nat) (x : Port) : (s.setPort p x).watches = s.watches := rfl

@[simp] theorem State.setPort_offers (s : State) (p : Nat) (x : Port) : (s.setPort p x).offers = s.offers := rfl

@[simp] theorem State.setPort_deferred (s : State) (p : Nat) (x : Port) : (s.setPort p x).deferred = s.deferred := rfl

@[simp] theorem State.setPort_waiting (s : State) (p : Nat) (x : Port) : (s.setPort p x).waiting = s.waiting := rfl

@[simp] theorem State.setPort_relays (s : State) (p : Nat) (x : Port) : (s.setPort p x).relays = s.relays := rfl

@[simp] theorem State.setPort_own (s : State) (p : Nat) (x : Port) : (s.setPort p x).own = s.own := rfl

@[simp] theorem State.setPort_updates (s : State) (p : Nat) (x : Port) : (s.setPort p x).updates = s.updates := rfl

@[simp] theorem State.setPort_fenceOps (s : State) (p : Nat) (x : Port) : (s.setPort p x).fenceOps = s.fenceOps := rfl

@[simp] theorem State.setPort_fenceTurn (s : State) (p : Nat) (x : Port) : (s.setPort p x).fenceTurn = s.fenceTurn := rfl

@[simp] theorem State.setPort_contexts (s : State) (p : Nat) (x : Port) : (s.setPort p x).contexts = s.contexts := rfl

@[simp] theorem State.setPort_pieces (s : State) (p : Nat) (x : Port) : (s.setPort p x).pieces = s.pieces := rfl

@[simp] theorem State.setPort_plait (s : State) (p : Nat) (x : Port) : (s.setPort p x).plait = s.plait := rfl

@[simp] theorem State.setPort_reports (s : State) (p : Nat) (x : Port) : (s.setPort p x).reports = s.reports := rfl

@[simp] theorem State.setPort_frames (s : State) (p : Nat) (x : Port) : (s.setPort p x).frames = s.frames := rfl

@[simp] theorem State.setPort_objects (s : State) (p : Nat) (x : Port) : (s.setPort p x).objects = s.objects := rfl

@[simp] theorem State.setPort_kv (s : State) (p : Nat) (x : Port) : (s.setPort p x).kv = s.kv := rfl

@[simp] theorem State.setPort_segTags (s : State) (p : Nat) (x : Port) : (s.setPort p x).segTags = s.segTags := rfl

@[simp] theorem State.setPort_seals (s : State) (p : Nat) (x : Port) : (s.setPort p x).seals = s.seals := rfl

@[simp] theorem State.setPort_spans (s : State) (p : Nat) (x : Port) : (s.setPort p x).spans = s.spans := rfl

@[simp] theorem State.setPort_spanMsgs (s : State) (p : Nat) (x : Port) : (s.setPort p x).spanMsgs = s.spanMsgs := rfl

@[simp] theorem State.setPort_moves (s : State) (p : Nat) (x : Port) : (s.setPort p x).moves = s.moves := rfl

@[simp] theorem State.setPort_edits (s : State) (p : Nat) (x : Port) : (s.setPort p x).edits = s.edits := rfl

@[simp] theorem State.setPort_heat (s : State) (p : Nat) (x : Port) : (s.setPort p x).heat = s.heat := rfl

@[simp] theorem State.setPort_pins (s : State) (p : Nat) (x : Port) : (s.setPort p x).pins = s.pins := rfl

@[simp] theorem State.setPort_run (s : State) (p : Nat) (x : Port) : (s.setPort p x).run = s.run := rfl

@[simp] theorem State.setPort_service (s : State) (p : Nat) (x : Port) : (s.setPort p x).service = s.service := rfl

@[simp] theorem State.setPort_fuses (s : State) (p : Nat) (x : Port) : (s.setPort p x).fuses = s.fuses := rfl

@[simp] theorem State.setPort_flash (s : State) (p : Nat) (x : Port) : (s.setPort p x).flash = s.flash := rfl

@[simp] theorem State.setPort_keys (s : State) (p : Nat) (x : Port) : (s.setPort p x).keys = s.keys := rfl

@[simp] theorem State.setPort_keyMask (s : State) (p : Nat) (x : Port) : (s.setPort p x).keyMask = s.keyMask := rfl

@[simp] theorem State.setPort_ident (s : State) (p : Nat) (x : Port) : (s.setPort p x).ident = s.ident := rfl

@[simp] theorem State.setPort_nonceTime (s : State) (p : Nat) (x : Port) : (s.setPort p x).nonceTime = s.nonceTime := rfl

@[simp] theorem State.setPort_manifest (s : State) (p : Nat) (x : Port) : (s.setPort p x).manifest = s.manifest := rfl

@[simp] theorem State.setPort_parts (s : State) (p : Nat) (x : Port) : (s.setPort p x).parts = s.parts := rfl

@[simp] theorem State.setPort_power (s : State) (p : Nat) (x : Port) : (s.setPort p x).power = s.power := rfl

@[simp] theorem State.setPort_fc (s : State) (p : Nat) (x : Port) : (s.setPort p x).fc = s.fc := rfl

@[simp] theorem State.setPort_dma (s : State) (p : Nat) (x : Port) : (s.setPort p x).dma = s.dma := rfl

@[simp] theorem State.setPort_ideKeys (s : State) (p : Nat) (x : Port) : (s.setPort p x).ideKeys = s.ideKeys := rfl

@[simp] theorem State.setPort_msix (s : State) (p : Nat) (x : Port) : (s.setPort p x).msix = s.msix := rfl

@[simp] theorem State.setPort_merge (s : State) (p : Nat) (x : Port) : (s.setPort p x).merge = s.merge := rfl

@[simp] theorem State.setPort_seam (s : State) (p : Nat) (x : Port) : (s.setPort p x).seam = s.seam := rfl

@[simp] theorem State.setPort_seamOut (s : State) (p : Nat) (x : Port) : (s.setPort p x).seamOut = s.seamOut := rfl

@[simp] theorem State.setPort_bridgeTimes (s : State) (p : Nat) (x : Port) : (s.setPort p x).bridgeTimes = s.bridgeTimes := rfl

@[simp] theorem State.setPort_sentOn (s : State) (p : Nat) (x : Port) : (s.setPort p x).sentOn = s.sentOn := rfl

@[simp] theorem State.setPort_forwardWait (s : State) (p : Nat) (x : Port) : (s.setPort p x).forwardWait = s.forwardWait := rfl

@[simp] theorem State.setPort_heard (s : State) (p : Nat) (x : Port) : (s.setPort p x).heard = s.heard := rfl

@[simp] theorem State.setPort_arbs (s : State) (p : Nat) (x : Port) : (s.setPort p x).arbs = s.arbs := rfl

@[simp] theorem State.setPort_granted (s : State) (p : Nat) (x : Port) : (s.setPort p x).granted = s.granted := rfl

@[simp] theorem State.setPort_windowEdge (s : State) (p : Nat) (x : Port) : (s.setPort p x).windowEdge = s.windowEdge := rfl

@[simp] theorem State.setPort_chanBytes (s : State) (p : Nat) (x : Port) : (s.setPort p x).chanBytes = s.chanBytes := rfl

@[simp] theorem State.setPort_chanBack (s : State) (p : Nat) (x : Port) : (s.setPort p x).chanBack = s.chanBack := rfl

@[simp] theorem State.setPort_latencies (s : State) (p : Nat) (x : Port) : (s.setPort p x).latencies = s.latencies := rfl

@[simp] theorem State.setPort_d3hot (s : State) (p : Nat) (x : Port) : (s.setPort p x).d3hot = s.d3hot := rfl

@[simp] theorem State.setPort_sealGot (s : State) (p : Nat) (x : Port) : (s.setPort p x).sealGot = s.sealGot := rfl

@[simp] theorem State.setPort_lids (s : State) (p : Nat) (x : Port) : (s.setPort p x).lids = s.lids := rfl

@[simp] theorem State.setPort_imports (s : State) (p : Nat) (x : Port) : (s.setPort p x).imports = s.imports := rfl

@[simp] theorem State.setPort_lostModules (s : State) (p : Nat) (x : Port) : (s.setPort p x).lostModules = s.lostModules := rfl

@[simp] theorem State.setPort_outbox (s : State) (p : Nat) (x : Port) : (s.setPort p x).outbox = s.outbox := rfl

@[simp] theorem State.setPort_freeCounter (s : State) (p : Nat) (x : Port) : (s.setPort p x).freeCounter = s.freeCounter := rfl

@[simp] theorem State.setPort_pending (s : State) (p : Nat) (x : Port) : (s.setPort p x).pending = s.pending := rfl

/-! ## Reading a register after an update of something else -/

@[simp] theorem State.emit_get (s : State) (x : Sent) (f : Field) (i : Nat) : (s.emit x).get f i = s.get f i := rfl

@[simp] theorem State.emit_flag (s : State) (x : Sent) (f : Field) (i : Nat) : (s.emit x).flag f i = s.flag f i := rfl

@[simp] theorem State.drawn_get (s : State) (f : Field) (i : Nat) : s.drawn.get f i = s.get f i := rfl

@[simp] theorem State.drawn_flag (s : State) (f : Field) (i : Nat) : s.drawn.flag f i = s.flag f i := rfl

@[simp] theorem State.setSlot_get (s : State) (c k : Nat) (v : Slot) (f : Field) (i : Nat) : (s.setSlot c k v).get f i = s.get f i := rfl

@[simp] theorem State.setSlot_flag (s : State) (c k : Nat) (v : Slot) (f : Field) (i : Nat) : (s.setSlot c k v).flag f i = s.flag f i := rfl

@[simp] theorem State.setCtx_get (s : State) (c : Nat) (v : Context) (f : Field) (i : Nat) : (s.setCtx c v).get f i = s.get f i := rfl

@[simp] theorem State.setCtx_flag (s : State) (c : Nat) (v : Context) (f : Field) (i : Nat) : (s.setCtx c v).flag f i = s.flag f i := rfl

@[simp] theorem State.setPort_get (s : State) (p : Nat) (x : Port) (f : Field) (i : Nat) : (s.setPort p x).get f i = s.get f i := rfl

@[simp] theorem State.setPort_flag (s : State) (p : Nat) (x : Port) (f : Field) (i : Nat) : (s.setPort p x).flag f i = s.flag f i := rfl

end Sys2Proof.Machine
end

