-- ==== Sys2Proof/Laws/Ops.lean ====
section
/-! SUPPORT. What the shared operations of Machine/Ops.lean and Machine/Ports.lean can do, each said once. -/

set_option Elab.async false

namespace Sys2Proof.Machine

/-! ## Register reads -/

/-- Writing registers of one copy, all of them listed. -/
theorem State.fieldsBut_setAll {s t : State} {ws : List (Field × Nat)} (h : s.fieldsBut t ws) (i : Nat) (l : List (Field × Nat))
    (hl : ∀ e ∈ l, (e.1, i) ∈ ws) : s.fieldsBut (t.setAll i l) ws := by
  induction l generalizing t with
  | nil => exact h
  | cons e l ih =>
    exact ih (State.fieldsBut_set h (hl e (List.mem_cons_self ..)) _) (fun x hx => hl x (List.mem_cons_of_mem _ hx))

theorem State.copiesBut_setAll {s t : State} {fs : List Field} (h : s.copiesBut t fs) (i : Nat) (l : List (Field × Nat))
    (hl : ∀ e ∈ l, e.1 ∈ fs) : s.copiesBut (t.setAll i l) fs := by
  induction l generalizing t with
  | nil => exact h
  | cons e l ih =>
    exact ih (State.copiesBut_set h (hl e (List.mem_cons_self ..)) _ _) (fun x hx => hl x (List.mem_cons_of_mem _ hx))

theorem State.copiesBut_mono {s t : State} {fs gs : List Field} (h : s.copiesBut t fs) (hs : ∀ f ∈ fs, f ∈ gs) : s.copiesBut t gs :=
  fun f i hw => h f i (fun w hm j => hw w (hs w hm) j)

theorem State.copiesBut_count {s t : State} {fs : List Field} (h : s.copiesBut t fs) {f w : Field} (hf : f ∈ fs) (hw : w ∈ fs)
    (i wi k n : Nat) : s.copiesBut (t.count f i w wi k n) fs := by
  unfold State.count
  dsimp only
  split
  · exact State.copiesBut_set h hf _ _
  · exact State.copiesBut_set (State.copiesBut_set h hf _ _) hw _ _

/-- What a field of a copy reads as when no listed field of any copy shares its place. -/
theorem State.copiesBut_get {s t : State} {fs : List Field} (h : s.copiesBut t fs) {f : Field}
    (hf : ∀ w ∈ fs, (f.reg * 32 + f.lo) % 16384 ≠ (w.reg * 32 + w.lo) % 16384) (i : Nat) : t.get f i = s.get f i :=
  h f i (fun w hw j => Field.key_ne (hf w hw) i j)

/-! ## What the parts of a fault report touch -/

/-- `t` agrees with `s` but in registers, interrupt vectors, the collector, what is sent, the rim's run and the pins. -/
def State.reportRest (s t : State) : Prop :=
  { t with regs := s.regs, msix := s.msix, fc := s.fc, outbox := s.outbox, run := s.run, pins := s.pins } = s

theorem State.reportRest_refl (s : State) : s.reportRest s := rfl

theorem State.reportRest_trans {s t u : State} (h : s.reportRest t) (g : t.reportRest u) : s.reportRest u := by
  unfold State.reportRest at h g ⊢
  rw [← h, ← g]

theorem State.reportRest_foldl {α : Type} {s : State} (f : State → α → State) (hf : ∀ (t : State) (x : α), t.reportRest (f t x)) (l : List α)
    {t : State} (h : s.reportRest t) : s.reportRest (l.foldl f t) := by
  induction l generalizing t with
  | nil => exact h
  | cons x l ih => exact ih (State.reportRest_trans h (hf t x))

theorem State.set_reportRest (s : State) (f : Field) (i v : Nat) : s.reportRest (s.set f i v) := rfl

theorem State.setAll_reportRest (s : State) (i : Nat) (l : List (Field × Nat)) : s.reportRest (s.setAll i l) := by
  induction l generalizing s with
  | nil => rfl
  | cons e l ih => exact State.reportRest_trans (s.set_reportRest e.1 i e.2) (ih _)

theorem State.count_reportRest (s : State) (f : Field) (i : Nat) (w : Field) (wi k n : Nat) : s.reportRest (s.count f i w wi k n) := by
  unfold State.count
  dsimp only
  split <;> rfl

/-- A message goes out or its vector's pending bit is set; no register changes. -/
theorem State.sendMsix_regs (s : State) (fn v : Nat) : (s.sendMsix fn v).regs = s.regs := by
  unfold State.sendMsix
  dsimp only
  generalize (if v < (if fn < 32 then 2048 else 1) then v else 0) = w
  split <;> rfl

theorem State.sendMsix_reportRest (s : State) (fn v : Nat) : s.reportRest (s.sendMsix fn v) := by
  unfold State.sendMsix
  dsimp only
  generalize (if v < (if fn < 32 then 2048 else 1) then v else 0) = w
  split <;> rfl

/-- An event's bit is set; no other register changes. -/
theorem State.hostEvent_copies (s : State) (fn : Nat) (f : Field) : s.copiesBut (s.hostEvent fn f) [f] := by
  unfold State.hostEvent
  split
  · exact State.copiesBut_refl _ _
  · dsimp only
    have h := State.copiesBut_set (State.copiesBut_refl s [f]) (List.mem_singleton_self f) fn 1
    split
    · exact State.copiesBut_then h (State.sendMsix_regs _ _ _)
    · exact h

theorem State.hostEvent_reportRest (s : State) (fn : Nat) (f : Field) : s.reportRest (s.hostEvent fn f) := by
  unfold State.hostEvent
  split
  · rfl
  · dsimp only
    split
    · exact State.reportRest_trans (s.set_reportRest f fn 1) (State.sendMsix_reportRest _ _ _)
    · rfl

theorem State.notice_copies {s t : State} (h : s.copiesBut t noticeFields) (p f i info sev : Nat) :
    s.copiesBut (t.notice p f i info sev) noticeFields := by
  unfold State.notice
  refine State.copiesBut_trans ?_ (State.copiesBut_mono (State.hostEvent_copies _ _ _) (by decide))
  exact State.copiesBut_setAll (State.copiesBut_set h (by decide) _ _) _ _ (by simp [noticeFields])

theorem State.notice_reportRest (s : State) (p f i info sev : Nat) : s.reportRest (s.notice p f i info sev) := by
  unfold State.notice
  exact State.reportRest_trans (State.reportRest_trans (s.set_reportRest _ _ _) (State.setAll_reportRest _ _ _))
    (State.hostEvent_reportRest _ _ _)

theorem State.logReport_copies (s : State) (f i info : Nat) (rail forced : Bool) (owners : List Nat) :
    s.copiesBut (s.logReport f i info rail forced owners) logFields := by
  unfold State.logReport
  refine State.copiesBut_count ?_ (by decide) (by decide) _ _ _ _
  exact State.copiesBut_then (State.copiesBut_setAll (State.copiesBut_refl _ _) _ _ (by simp [logFields])) rfl

theorem State.logReport_reportRest (s : State) (f i info : Nat) (rail forced : Bool) (owners : List Nat) :
    s.reportRest (s.logReport f i info rail forced owners) := by
  unfold State.logReport
  have h := State.setAll_reportRest s (s.get Fld.FC_LOG_HEAD_count % 256) [(Fld.FC_LOG_family, f), (Fld.FC_LOG_instance, i),
    (Fld.FC_LOG_severity, s.severity f), (Fld.FC_LOG_partition, owners.headD 0), (Fld.FC_LOG_part_valid, bit (owners.length == 1)),
    (Fld.FC_LOG_rail, bit rail), (Fld.FC_LOG_forced, bit forced), (Fld.FC_LOG_TIME_time, s.time), (Fld.FC_LOG_INFO_LO_info_lo, info),
    (Fld.FC_LOG_INFO_HI_info_hi, info / 2 ^ 32)]
  dsimp only at h ⊢
  generalize (State.setAll s _ _) = u at h ⊢
  exact State.reportRest_trans h (State.reportRest_trans (t := { u with fc := { u.fc with
    masked := Sparse.set false (Sparse.set false u.fc.masked (s.get Fld.FC_LOG_HEAD_count % 256) (owners.any fun p => u.underLid p))
      (256 + f) (owners.any fun p => u.underLid p) } }) rfl (State.count_reportRest _ _ _ _ _ _ _))

theorem State.errRise_regs (s : State) (f : Nat) : (s.errRise f).regs = s.regs := by
  unfold State.errRise
  split <;> rfl

theorem State.errRise_reportRest (s : State) (f : Nat) : s.reportRest (s.errRise f) := by
  unfold State.errRise
  split <;> rfl

theorem State.statusReport_copies {s t : State} (h : s.copiesBut t statusFields) (f i info : Nat) (rail forced : Bool) :
    s.copiesBut (t.statusReport f i info rail forced) statusFields := by
  unfold State.statusReport
  have h1 : s.copiesBut ((t.bump Fld.FC_SRC_COUNT_count f).setAll f [(Fld.FC_SRC_STATUS_pending, 1), (Fld.FC_SRC_STATUS_last_instance, i),
      (Fld.FC_SRC_INFO_info, info)]) statusFields :=
    State.copiesBut_setAll (State.copiesBut_set h (by decide) _ _) _ _ (by simp [statusFields])
  dsimp only at h1 ⊢
  generalize (State.setAll _ f _) = u at h1 ⊢
  have h2 : ∀ (v : State), s.copiesBut v statusFields → ∀ (b : Bool) (g : Field), g ∈ statusFields →
      s.copiesBut (if b = true then v.set g f 1 else v) statusFields := by
    intro v hv b g hg
    split
    · exact State.copiesBut_set hv hg _ _
    · exact hv
  have h3 := h2 _ (h2 u h1 rail Fld.FC_SRC_STATUS_rail (by decide)) forced Fld.FC_SRC_STATUS_forced (by decide)
  generalize (if forced = true then _ else _ : State) = v at h3 ⊢
  have h4 : s.copiesBut (if v.demotedInst f i = true then v.set Fld.FC_SRC_STATUS_demoted f 1
      else { v with fc := { v.fc with lastReport := Sparse.set 0 v.fc.lastReport f v.time } }) statusFields := by
    split
    · exact State.copiesBut_set h3 (by decide) _ _
    · exact State.copiesBut_then h3 rfl
  generalize (if v.demotedInst f i = true then _ else _ : State) = w at h4 ⊢
  split
  · exact State.copiesBut_then h4 rfl
  · exact State.copiesBut_then h4 (State.errRise_regs _ _)

theorem State.statusReport_reportRest (s : State) (f i info : Nat) (rail forced : Bool) :
    s.reportRest (s.statusReport f i info rail forced) := by
  unfold State.statusReport
  have h1 : s.reportRest ((s.bump Fld.FC_SRC_COUNT_count f).setAll f [(Fld.FC_SRC_STATUS_pending, 1), (Fld.FC_SRC_STATUS_last_instance, i),
      (Fld.FC_SRC_INFO_info, info)]) :=
    State.reportRest_trans (s.set_reportRest _ _ _) (State.setAll_reportRest _ _ _)
  dsimp only at h1 ⊢
  generalize (State.setAll _ f _) = u at h1 ⊢
  have h2 : ∀ (v : State), s.reportRest v → ∀ (b : Bool) (g : Field), s.reportRest (if b = true then v.set g f 1 else v) := by
    intro v hv b g
    split
    · exact State.reportRest_trans hv (v.set_reportRest _ _ _)
    · exact hv
  have h3 := h2 _ (h2 u h1 rail Fld.FC_SRC_STATUS_rail) forced Fld.FC_SRC_STATUS_forced
  generalize (if forced = true then _ else _ : State) = v at h3 ⊢
  have h4 : s.reportRest (if v.demotedInst f i = true then v.set Fld.FC_SRC_STATUS_demoted f 1
      else { v with fc := { v.fc with lastReport := Sparse.set 0 v.fc.lastReport f v.time } }) := by
    split
    · exact State.reportRest_trans h3 (v.set_reportRest _ _ _)
    · exact State.reportRest_trans h3 rfl
  generalize (if v.demotedInst f i = true then _ else _ : State) = w at h4 ⊢
  split
  · exact State.reportRest_trans h4 rfl
  · refine State.reportRest_trans h4 (State.reportRest_trans ?_ (State.errRise_reportRest _ _))
    rfl

theorem State.requestStop_copies {s t : State} (h : s.copiesBut t actionFields) (c : Nat) : s.copiesBut (t.requestStop c) actionFields := by
  unfold State.requestStop
  dsimp only
  split
  · exact h
  · have h1 := State.copiesBut_set h (f := Fld.WVR_CTX_CTRL_stop) (by decide) c 1
    split
    · exact h1
    · exact State.copiesBut_set h1 (by decide) _ _

theorem State.requestStop_reportRest (s : State) (c : Nat) : s.reportRest (s.requestStop c) := by
  unfold State.requestStop
  dsimp only
  split
  · rfl
  · split <;> rfl

theorem State.fence_copies {s t : State} (h : s.copiesBut t actionFields) (e : Nat) : s.copiesBut (t.fence e) actionFields := by
  unfold State.fence
  split
  · exact h
  · exact State.copiesBut_set (State.copiesBut_then h rfl) (by decide) _ _

theorem State.fence_reportRest (s : State) (e : Nat) : s.reportRest (s.fence e) := by
  unfold State.fence
  split <;> rfl

theorem State.severityAction_copies {s t : State} (h : s.copiesBut t actionFields) (f i : Nat) (owners : List Nat) :
    s.copiesBut (t.severityAction f i owners) actionFields := by
  unfold State.severityAction
  have h1 : s.copiesBut (if t.severity f < 2 then t else match engineOf f i with
      | some e => t.fence e
      | none => t) actionFields := by
    split
    · exact h
    · split
      · exact State.fence_copies h _
      · exact h
  dsimp only at h1 ⊢
  generalize (if t.severity f < 2 then _ else _ : State) = u at h1 ⊢
  split
  · exact h1
  · exact State.copiesBut_foldl _ (fun v p hv => State.copiesBut_foldl _ (fun w c hw => State.requestStop_copies hw c) _ hv) _ h1

theorem State.severityAction_reportRest (s : State) (f i : Nat) (owners : List Nat) : s.reportRest (s.severityAction f i owners) := by
  unfold State.severityAction
  have h1 : s.reportRest (if s.severity f < 2 then s else match engineOf f i with
      | some e => s.fence e
      | none => s) := by
    split
    · rfl
    · split
      · exact State.fence_reportRest _ _
      · rfl
  dsimp only at h1 ⊢
  generalize (if s.severity f < 2 then _ else _ : State) = u at h1 ⊢
  split
  · exact h1
  · exact State.reportRest_foldl _ (fun v p => State.reportRest_foldl _ (fun w c => State.requestStop_reportRest w c) _ rfl) _ h1

theorem State.driveErr_copies {s t : State} (h : s.copiesBut t errFields) : s.copiesBut t.driveErr errFields :=
  State.copiesBut_then (State.copiesBut_set (State.copiesBut_set h (f := Fld.FC_ERR_PIN_low) (by decide) 0 (bit t.errLow))
    (f := Fld.FC_ERR_PIN_pulsing) (by decide) 0 _) rfl

theorem State.driveErr_reportRest (s : State) : s.reportRest s.driveErr := rfl

/-- A fault report writes copies of `reportFields` and no other register. -/
theorem State.report_copies (s : State) (f i info : Nat) (rail forced : Bool) :
    s.copiesBut (s.report f i info rail forced) reportFields := by
  unfold State.report
  lift_lets
  intro owners told s1 s2 s3 s4 s5
  have h1 : s.copiesBut s1 reportFields := State.copiesBut_mono (State.logReport_copies s f i info rail forced owners) (by decide)
  have h2 : s1.copiesBut s2 statusFields := State.statusReport_copies (State.copiesBut_refl _ _) f i info rail forced
  have h3 : s2.copiesBut s3 noticeFields :=
    State.copiesBut_foldl _ (fun t p ht => State.notice_copies ht _ _ _ _ _) told (State.copiesBut_refl _ _)
  have h4 : s3.copiesBut s4 actionFields := State.severityAction_copies (State.copiesBut_refl _ _) f i owners
  have h5 : s.copiesBut s4 reportFields := State.copiesBut_trans h1 (State.copiesBut_trans (State.copiesBut_mono h2 (by decide))
    (State.copiesBut_trans (State.copiesBut_mono h3 (by decide)) (State.copiesBut_mono h4 (by decide))))
  refine State.copiesBut_trans ?_ (State.copiesBut_mono (State.driveErr_copies (State.copiesBut_refl _ _)) (by decide))
  clear_value s4
  show s.copiesBut (if f = 0x46 then s4.startRimRestart else s4) reportFields
  split
  · exact State.copiesBut_set (State.copiesBut_then h5 rfl) (by decide) _ _
  · exact h5

/-- A fault report changes nothing but registers, interrupt vectors, the collector, what is sent, the rim's run and the pins. -/
theorem State.report_reportRest (s : State) (f i info : Nat) (rail forced : Bool) : s.reportRest (s.report f i info rail forced) := by
  unfold State.report
  lift_lets
  intro owners told s1 s2 s3 s4 s5
  have h1 : s.reportRest s1 := State.logReport_reportRest s f i info rail forced owners
  have h2 : s.reportRest s2 := State.reportRest_trans h1 (State.statusReport_reportRest s1 f i info rail forced)
  have h3 : s.reportRest s3 := State.reportRest_foldl _ (fun t p => State.notice_reportRest t _ _ _ _ _) told h2
  have h4 : s.reportRest s4 := State.reportRest_trans h3 (State.severityAction_reportRest s3 f i owners)
  refine State.reportRest_trans ?_ (State.driveErr_reportRest _)
  clear_value s4
  show s.reportRest (if f = 0x46 then s4.startRimRestart else s4)
  split
  · exact State.reportRest_trans h4 rfl
  · exact h4

end Sys2Proof.Machine
end

