-- ==== Sys2Proof/Laws/Registers.lean ====
section
/-! SUPPORT. The register table: its fields in rising order, so no two share a place. -/

set_option maxRecDepth 20000
set_option Elab.async false

namespace Sys2Proof.Machine

/-- Numbers in strictly rising order from above a first one. -/
def risingFrom : Nat → List Nat → Bool
  | _, [] => true
  | n, m :: l => decide (n < m) && risingFrom m l

theorem risingFrom_lt {n : Nat} {l : List Nat} (h : risingFrom n l = true) : ∀ x ∈ l, n < x := by
  induction l generalizing n with
  | nil => simp
  | cons m l ih =>
    simp [risingFrom] at h
    intro x hx
    rcases List.mem_cons.1 hx with rfl | hx
    · exact h.1
    · exact Nat.lt_trans h.1 (ih h.2 x hx)

theorem risingFrom_pairwise {n : Nat} {l : List Nat} (h : risingFrom n l = true) : l.Pairwise (· < ·) := by
  induction l generalizing n with
  | nil => exact List.Pairwise.nil
  | cons m l ih =>
    simp [risingFrom] at h
    exact List.Pairwise.cons (risingFrom_lt h.2) (ih h.2)

/-- The fields of the tables lie at rising places. -/
theorem allFields_rising : ((allFields.map (fun f => f.reg * 32 + f.lo + 1))).Pairwise (· < ·) :=
  risingFrom_pairwise (n := 0) (by decide +kernel)

/-- No two fields of a register share a place. -/
theorem fieldsOf_rising (r : Nat) : ((fieldsOf r).map (fun f => f.reg * 32 + f.lo + 1)).Pairwise (· < ·) :=
  allFields_rising.sublist (List.filter_sublist.map _)

end Sys2Proof.Machine
end

