-- ==== Sys2Proof/WellFormed.lean ====
section
/-! DEFINITION. Which commands are well formed: an operand of a command that is not is one no sender of the spec can send.
The meanings do not rest on these checks: every command has its effect, and an operand out of form has the effect its rule
gives what it does hold. -/

namespace Sys2Proof

/-- A carrier function lies on links 1 to 3 (11 R498). -/
def Agent.wellFormed : Agent → Bool
  | .host _ => true
  | .carrier l => decide (l.val ≠ 0)
  | .rim => true
  | .monitor => true

/-- A register access names a word (00 R2). -/
def offWellFormed (off : BitVec 26) : Bool := decide (off.toNat % 4 = 0)

/-- A local store has 4,096 lines (04 R134). -/
def SramUnit.wellFormed (line : Nat) : SramUnit → Bool
  | .localStore _ => decide (line < 4096)
  | .rowStore _ => true

/-- A request moves one beat of up to 64 bytes, from one of the masters 0 to 296 (09 R431; 10 R479). -/
def ArbReq.wellFormed (r : ArbReq) : Bool := decide (r.master ≤ 296) && (r.master != 296 || r.label == 15)

/-- A packet of a type that has crossed at most four links (10 R449, R458, R459). -/
def Packet.wellFormed (p : Packet) (t : BitVec 8) : Bool :=
  decide (p.ptype = t) && decide (p.links ≤ 4)

/-- A count block has the 13 counts of 05 Table 24 and a status (05 R190). -/
def CountBlock.wellFormed (b : CountBlock) : Bool := decide (b.counts.length = 13) && decide (b.status < 4)

/-- The well-formed commands. -/
def Instr.wellFormed : Instr → Bool
  | .powerInputApply _ _ => true
  | .powerInputLoss _ _ => true
  | .perstAssert _ => true
  | .perstRelease => true
  | .pllLock => true
  | .pllHoldover _ _ => true
  | .pllRelock => true
  | .bootRomEntry => true
  | .coreRelease _ => true
  | .coolantStop _ => true
  | .i3cModuleWrite _ => true
  | .registerWrite a off _ => a.wellFormed && offWellFormed off
  | .monitorStatus => true
  | .monitorCap => true
  | .monitorLog n => decide (n ≤ 256)
  | .monitorPower => true
  | .monitorRd addr => offWellFormed addr
  | .monitorBaud _ => true
  | .monitorWr addr _ => offWellFormed addr
  | .monitorForce _ _ => true
  | .monitorHold _ => true
  | .reseatManifest a _ => a.wellFormed
  | .reseatFirmware a _ => a.wellFormed
  | .reseatBoth a _ => a.wellFormed
  | .rimRestart a _ => a.wellFormed
  | .rimHeartbeat => true
  | .faultReport _ inst _ _ _ => decide (inst.toNat < 512)
  | .errPulseEnd => true
  | .quietPeriod _ => true
  | .fcForce a _ => a.wellFormed
  | .fcInjectArm a _ => a.wellFormed
  | .engineReset a _ => a.wellFormed
  | .engineResetDrained _ => true
  | .engineBistDone _ _ => true
  | .rwsSpareCmd a _ _ => a.wellFormed
  | .lsScrubStart a _ _ => a.wellFormed
  | .lsScrubDone _ => true
  | .handoverReadbackDone _ => true
  | .channelRetire _ => true
  | .patrolScrub _ off _ => decide (off.toNat < 1536 * 2 ^ 20) && decide (off.toNat % 64 = 0)
  | .hbmPhyRecal _ => true
  | .sramScrub unit line _ => unit.wellFormed line.val
  | .agingCheck _ fallPct => decide (fallPct ≤ 100)
  | .coreRotation _ _ => true
  | .telemetrySample => true
  | .submissionWrite _ _ off bytes _ => decide (0 < bytes.length) && decide (off.toNat + bytes.length ≤ 4096)
  | .queueFill _ => true
  | .completionPop _ _ off len => decide (0 < len) && decide (off.toNat + len ≤ 4096)
  | .completionPost _ => true
  | .cmdIdle _ => true
  | .cmdKernel _ => true
  | .kernelStartResume _ => true
  | .cmdBatchStep _ => true
  | .batchStepApply _ => true
  | .joinOutcomes _ _ _ => true
  | .stepVerdict _ _ => true
  | .cmdFenceWait _ => true
  | .cmdFenceSignal _ => true
  | .cmdFenceTimeout _ => true
  | .contextStop a _ _ => a.wellFormed
  | .contextStopped _ => true
  | .contextResume a _ _ => a.wellFormed
  | .quantumExpire _ => true
  | .opIdle _ _ => true
  | .opMatmul _ _ => true
  | .opVec _ _ => true
  | .opVecReduce _ _ => true
  | .opConvert _ _ => true
  | .opLoad _ _ => true
  | .opStore _ _ => true
  | .opGather _ _ => true
  | .opExchangeSend _ _ => true
  | .opExchangeReceive _ _ => true
  | .opReduceLong _ _ => true
  | .reduceTreeStart _ _ _ => true
  | .opAttention _ _ => true
  | .opKvAppend _ _ => true
  | .opSample _ _ => true
  | .opFenceWait _ _ => true
  | .opFenceSignal _ _ => true
  | .fenceWaitTimeout _ _ _ => true
  | .operationComplete _ _ _ _ => true
  | .clipWindowClose _ _ => true
  | .countBlock _ _ block => block.wellFormed
  | .weaverWaitTimeout _ => true
  | .ledgerDeadline _ _ _ => true
  | .resp r => decide (r.kind ≠ 0) && decide (r.kind ≠ 1) && decide (r.kind ≠ 5)
  | .respPull r => decide (r.kind = 1)
  | .respTake r => decide (r.kind = 0)
  | .fenceWake r => decide (r.kind = 5)
  | .fencePoll _ => true
  | .fenceUpdate _ _ _ _ => true
  | .fenceOpGo _ _ => true
  | .rowStoreRead _ _ _ _ _ => true
  | .rowStoreWrite _ _ _ _ data _ => decide (data.length = 512)
  | .mergeWindowExpire _ _ _ => true
  | .arbiterDecision _ reqs => decide (reqs.map (fun r => r.requester)).Nodup && reqs.all ArbReq.wellFormed
  | .budgetWindow => true
  | .seamEntryArrive _ _ _ _ => true
  | .seamCreditReturn _ _ _ _ => true
  | .wakeTokenIssue => true
  | .gateIdle _ _ => true
  | .bridgeFlitReceive _ _ _ _ => true
  | .dvfsGrant => true
  | .railSettled _ => true
  | .droopDetect _ _ => true
  | .stretchRunEnd _ _ => true
  | .ceilingExpire _ => true
  | .droopCalibrate _ => true
  | .powerMeasure _ _ _ => true
  | .powerAdjust => true
  | .tempSample _ _ => true
  | .thermalCapStep _ => true
  | .tempClearPeaks a _ => a.wellFormed
  | .paceRepeat _ => true
  | .pace _ _ => true
  | .paceCapExpire _ => true
  | .heatEpoch => true
  | .pageMoveDone _ => true
  | .editInvalidate _ _ => true
  | .editUnmap _ _ => true
  | .editSetRights _ _ => true
  | .editObjCreate _ _ => true
  | .editObjFree _ _ => true
  | .editFrameReserve _ _ => true
  | .editFrameRelease _ _ => true
  | .editDrainDone _ => true
  | .flitReceive _ _ _ => true
  | .replayTimeout _ => true
  | .packetForward _ pkt => pkt.wellFormed pkt.ptype
  | .readReq pkt => pkt.wellFormed 1
  | .readData pkt => pkt.wellFormed 2
  | .writePkt pkt => pkt.wellFormed 3
  | .atomicPkt pkt => pkt.wellFormed 4
  | .offerPkt pkt => pkt.wellFormed 5
  | .dataPkt pkt => pkt.wellFormed 6
  | .partialPkt pkt => pkt.wellFormed 7
  | .pagePkt pkt => pkt.wellFormed 9
  | .ident _ _ _ _ peerPort _ => decide (peerPort.toNat < 80)
  | .notReady _ _ => true
  | .notReadyRepeat => true
  | .sealFlit _ _ => true
  | .laneFlit _ leaving entering _ => decide (leaving.val < 3) && decide (entering.val < 3)
  | .linkTrained _ => true
  | .portLost _ _ => true
  | .lostPortRetrain _ => true
  | .lossMsg _ hop => decide (hop < 3)
  | .laneFail _ _ _ => true
  | .laneRetrainDone _ _ _ => true
  | .portRetire a _ _ => a.wellFormed
  | .globalPortKeyExchange _ _ _ _ => true
  | .keyUpdate _ _ _ => true
  | .linkDown _ => true
  | .linkReturn _ => true
  | .dmaCompletion _ _ _ => true
  | .flrVf _ => true
  | .flrPf => true
  | .flrCarrier _ => true
  | .tdispNonIdeTlp _ => true
  | .lockInterfaceRequest _ => true
  | .ideKmKeyProg _ _ _ => true
  | .spdmRequest _ => true
  | .negotiateAlgorithms _ _ _ _ => true
  | .getMeasurements _ => true
  | .getBinding => true
  | .ownerChallenge a _ => a.wellFormed
  | .nonceExpire => true
  | .ownerProgram a _ => a.wellFormed
  | .monitorUnlock a _ => a.wellFormed
  | .svnAdvance a _ => a.wellFormed
  | .ownerRelease a _ => a.wellFormed
  | .ksLoad a _ => a.wellFormed
  | .ksZero a _ => a.wellFormed
  | .lidCharter _ _ _ => true
  | .lidAmend _ _ _ => true
  | .keyDist _ _ _ _ _ _ => true
  | .keyAck _ _ => true
  | .lidReady _ _ => true
  | .keyDistTimeout _ => true
  | .lidDissolve _ _ _ => true
  | .revoke _ _ _ _ _ => true
  | .depart _ _ _ => true
  | .lidPartRemove a _ _ => a.wellFormed
  | .revokeAck _ _ => true
  | .revokeTimeout _ => true
  | .lidScrubDone _ => true
  | .lidImport _ _ => true
  | .keyRelease _ _ _ _ => true
  | .plaitLoad a _ => a.wellFormed
  | .plaitAbort a _ => a.wellFormed
  | .plaitFetchDone => true
  | .plaitChangeEffect _ => true
  | .plaitCommit => true
  | .shapeReport _ _ _ _ => true
  | .shapeState _ _ _ => true
  | .spanOpen _ _ _ => true
  | .pgSeal _ _ _ _ => true
  | .sealHashDone _ => true
  | .sealInstall _ _ _ _ _ _ => true
  | .pgSealRelease _ _ _ _ => true
  | .sealBreak _ _ _ => true
  | .readLoLatchesHi a off => a.wellFormed && offWellFormed off
  | .tdispRun _ => true
  | .i3cDynamicAddress _ => true
  | .monitorUnknownCommand _ => true
  | .spareBuiltInTestDone _ _ _ => true
  | .subLinkLossOfLock _ _ _ => true
  | .portSignalDetect _ => true

end Sys2Proof
end

