-- ==== Sys2Proof/Tests/Slice0.lean ====
section
/-! SUPPORT. Tests of the model on small states, and for each statement with hypotheses a state and operands that meet them, clause by
clause at boundary values. -/

set_option maxRecDepth 20000
set_option Elab.async false

namespace Sys2Proof.Tests

open Sys2Proof.Machine

/-- `s` with register fields of copies set. -/
def regs (ws : List (Field × Nat × Nat)) (s : State) : State := ws.foldl (fun s w => s.set w.1 w.2.1 w.2.2) s

/-- The state before power, in a phase. -/
def inPhase (p : Phase) : State := { State.reset with run := { State.reset.run with phase := p } }

/-- A module whose rim firmware runs. -/
def up : State := inPhase .running

/-- What a command answers, when that is a next state. -/
def after (o : Host.Outcome State Fault Refusal) : State :=
  match o with
  | .next t => t
  | _ => State.reset

/-! ## Witnesses: the machine, power, boot, the monitor -/

theorem test_wit_step : ({ up with pending := [.pllLock, .getBinding] } : State).pending = .pllLock :: [.getBinding] ∧ up.pending = [] ∧
    (inPhase .held).pending = [] ∧ (inPhase .held).run.phase = .held := by decide +kernel

theorem test_wit_invariants : up.memWf ∧ up.regsRising ∧ up.run.phase = .running ∧
    (∃ t, step { up with pending := [.perstAssert 100] } = .next t ∧ t.run.phase ≠ .running) :=
  ⟨by unfold State.memWf; decide +kernel, by unfold State.regsRising; decide +kernel, rfl, _, rfl, by decide +kernel⟩

theorem test_wit_power : State.reset.run.phase = .unpowered ∧ State.reset.pins.lossSeen = false ∧ up.run.phase ≠ .unpowered ∧
    ({ State.reset with pins := { State.reset.pins with lossSeen := true } } : State).run.phase = .unpowered ∧ (43999 < 44000 ∧ 100 ≤ 100) ∧
    (50000 ≤ 50000 ∧ 50000 ≤ 57600) ∧ (57600 < 57601 ∧ 9999 < 10000) ∧ (50000 < 50001 ∧ 10000 ≤ 10000) := by decide

theorem test_wit_perst : (inPhase .stopped).run.phase ≠ .unpowered ∧ 99 < 100 ∧ 100 ≤ 100 ∧ State.reset.run.phase = .unpowered := by decide

theorem test_wit_release : (inPhase .held).run.phase = .held ∧ up.run.phase ≠ .held ∧ (inPhase .waitLock).run.phase = .waitLock ∧
    up.run.phase ≠ .waitLock := by decide

theorem test_wit_holdover : (regs [(Fld.CK_PLL_STATUS_locked, 0, 1)] up).flag Fld.CK_PLL_STATUS_locked = true ∧ 300 < 301 ∧
    up.flag Fld.CK_PLL_STATUS_locked = false ∧ up.flag Fld.CK_PLL_STATUS_holdover = false ∧
    (regs [(Fld.CK_PLL_STATUS_holdover, 0, 1)] up).flag Fld.CK_PLL_STATUS_holdover = true := by decide +kernel

theorem test_wit_coolant : ({ up with run := { up.run with coolantArmed := true } } : State).run.phase = .running ∧
    ({ up with run := { up.run with coolantArmed := true } } : State).run.coolantArmed = true ∧ up.run.coolantArmed = false ∧ 10 ≤ 10 ∧ 9 < 10 ∧
    (inPhase .stopped).run.phase ≠ .running := by decide

theorem test_wit_boot : (inPhase .locked).run.phase = .locked ∧
    ({ up with run := { up.run with reseat := some { manifest := none, image := none } } } : State).run.reseat =
      some { manifest := none, image := none } ∧
    ({ up with run := { up.run with restartDue := true } } : State).run.restartDue = true ∧ up.run.reseat = none ∧
    up.run.coresReleased = false ∧ up.run.rimOnly = false := by decide

theorem test_wit_bootBank : (inPhase .locked).bootBank = some 0 ∧ ({ inPhase .locked with fuses := { up.fuses with svn := 1 } } : State).bootBank = none ∧
    up.service.hold = false ∧ up.fuses.active = 4 ∧ ({ inPhase .locked with service := { up.service with hold := true } } : State).service.hold = true ∧
    up.reseatWrong ⟨none, none⟩ = 0 ∧ up.reseatWrong ⟨some [], none⟩ ≠ 0 ∧
    ({ up with run := { up.run with rimOnly := true } } : State).run.rimOnly = true ∧ (9 < 10 ∧ 10 ≤ 10) := by decide +kernel

theorem test_wit_i3c : ({ up with pins := { up.pins with perstN := true } } : State).pins.perstN = true ∧
    ({ up with pins := { up.pins with perstN := true } } : State).pins.i3cModuleWritten = false ∧ up.pins.perstN = false ∧
    ({ up with pins := { up.pins with i3cModuleWritten := true } } : State).pins.i3cModuleWritten = true := by decide

/-- WVR_TIME_LO, which partition 0 reads, and the enable word of a port, which it writes. -/
theorem test_wit_registers : up.target (.host 0) 0x20010 = some (Fld.WVR_TIME_LO_time_lo.reg, 0) ∧
    (Fld.WVR_TIME_LO_time_lo, Fld.WVR_TIME_HI_time_hi) ∈ latchPairs ∧ up.target (.host 0) 0x20014 = some (Fld.WVR_TIME_HI_time_hi.reg, 0) ∧
    up.target (.carrier 1) 0x20010 = none ∧ msixAt (.host 0) 0xA0004 = none ∧ msixAt (.carrier 1) 0xC00C = some (0, 3) ∧ msixAt (.carrier 1) 0xC010 = none ∧
    up.target (.host 0) 0xA0004 = some (Fld.WF_CTRL_loss_event_en.reg, 0) ∧ Fld.WF_CTRL_loss_event_en.reg ∉ effectRegs ∧
    up.accepts (.host 0) 0xA0004 = true := by decide +kernel

theorem test_wit_monitor : up.rimServes = true ∧ (inPhase .stopped).run.phase = .stopped ∧ (inPhase .stopped).rimServes = false ∧
    0 < (regs [(Fld.FC_LOG_HEAD_count, 0, 1)] up).get Fld.FC_LOG_HEAD_count ∧
    ({ up with run := { up.run with monitorUnlocked := true } } : State).run.monitorUnlocked = true ∧
    up.flag Fld.LID_STATUS_conf_mode = false ∧ up.run.monitorUnlocked = false ∧
    (regs [(Fld.LID_STATUS_conf_mode, 0, 1)] up).flag Fld.LID_STATUS_conf_mode = true ∧ 9600 ≤ 3000000 ∧ 9599 < 9600 ∧
    (∀ w ∈ monitorNames, (ascii "help").takeWhile (· != 0x20) ≠ w) := by decide +kernel

/-- The host link is up, partition 0 masters the bus, and slot 0 holds an owner secret of zeros. -/
def mastered : State := regs [(Fld.HI_LINK_STATE_up, 0, 1), (Fld.HI_ATTACH_bus_master, 0, 1), (Fld.KS_ATTR_state, 0, 1)] { up with parts := [(0, 0)] }

theorem test_wit_reseat : mastered.fromPf (.host 0) = true ∧ mastered.run.phase = .running ∧ mastered.run.restartDue = false ∧ bitOf 0x5 2 = true ∧
    bitOf 0x1 2 = false ∧ bitsOf 0x5 0 2 = 1 ∧ bitsOf 0x6 0 2 = 2 ∧ bitsOf 0x7 0 2 = 3 ∧ mastered.reseatBusy = false ∧ mastered.canMaster 0 = true ∧
    up.canMaster 0 = false ∧ mastered.manifestError mastered.ownerKey (List.replicate 4224 0) true = 3 ∧
    (regs [(Fld.RIM_PLAIT_STATUS_state, 0, 5)] mastered).reseatBusy = true ∧ up.run.restartDue = false ∧ mastered.fromPf (.host 1) = false ∧
    bitOf 0x1 0 = true ∧ (match mastered.fetchImage 0 with
      | .inl _ => 0
      | .inr code => code) = 7 := by decide +kernel

/-- A manifest of the module without an owner: its header, zeros, and its HMAC under the empty secret. -/
def manifestBytes : List Byte :=
  [0x51, 0x4B, 0x50, 0x4D, 1] ++ List.replicate 59 0 ++ [1] ++ List.replicate 4095 0 ++
    beBytes 64 0xb2407e0c4dba18202efe38fe9b231c865a5a6b5c54933769b60e6bbbe9be2b78018ba2da2f193d1cd6a1727837aaff08a5bd727390121d0b62c7c457e8046037

/-- The header of an empty firmware image and its signature, whose two numbers are the digest. -/
def imageBytes : List Byte :=
  [0x51, 0x4B, 0x52, 0x46, 0, 0, 0, 0, 0, 0] ++ sha512 [] ++
    beBytes 66 0xecce94f7291402186db1601605786d71d46c38e0a524e049e424aef2d139ef35a0aa9504da92eb34ad99419d82cdca9a82f146324f06d20ff65519cd85aa70a3 ++
    beBytes 66 0xecce94f7291402186db1601605786d71d46c38e0a524e049e424aef2d139ef35a0aa9504da92eb34ad99419d82cdca9a82f146324f06d20ff65519cd85aa70a3 ++
    List.replicate 50 0

/-- The host offers the manifest at 0 (unless the image is there) and the image at an address; the flash holds the key the image verifies under. -/
def offered (at' : Nat) : State :=
  { mastered with
    tier4 := Mem.write (Mem.write [] 0 (if at' = 0 then [] else manifestBytes)) at' imageBytes, manifest := some manifestBytes,
    flash := { mastered.flash with key :=
      (0x19eddbbab725d51c6ead54dec9129d3581c035a157c421b8622d4a61212a23515c4584128f1cc29ba1b26cb8dbf559bf28de2fd6f5da90e81f8d6408137e979174f,
       0xcad62da170be7df3cab41da7a406a575fd7e3704ef351a22e95ee10111b132f8f41fa4dd02e068b8e1a18341d28d4aa76e74f0aff3ea0d707778f577cefaf01814) } }

/-- A re-seat of the firmware at 0 is accepted, and one of the manifest at 0, alone or with the firmware at the next boundary. -/
theorem test_wit_reseatFirmware : ((offered 0).writeReg Fld.RIM_RESEAT_CMD_op.reg 0 6).fetchImage 0 = .inl { svn := 0, digest := sha512Nat [] } := by decide +kernel

theorem test_wit_reseatBoth : ((offered 65536).writeReg Fld.RIM_RESEAT_CMD_op.reg 0 7).fetchImage 65536 = .inl { svn := 0, digest := sha512Nat [] } := by
  decide +kernel

/-- The inner hash of the manifest's HMAC under a secret of zeros is taken over this (RFC 2104). -/
def macInput : List Byte := List.replicate 128 0x36 ++ manifestBytes.take 0x1040

/-- The working words after 9, 18, 27 and all 34 blocks of it. -/
def macWords (k : Nat) : ShaWords :=
  if k = 1 then ⟨0x298dede8e4b73955, 0x6947e40e96d438c9, 0x9cd154fba1059856, 0x4b54a457537d803d, 0x1c1913a1682d8f8d, 0x2a05a430f60a74ef, 0xf4d578732e23e471, 0x4a4c83cded108d5f⟩
  else if k = 2 then ⟨0x26c9826d751e3882, 0x4882efc6ddbbb731, 0xbb43c5290bad5d16, 0x1d00629385ea9378, 0x2a9a37c1364a9c32, 0xce3d8b852a5d11ba, 0xec75d36d6c337a02, 0x851ac765cf6e8c7d⟩
  else if k = 3 then ⟨0x67b71bebda0fd31c, 0x3ae63ab7087b67da, 0x63bae98a5f8e6e4a, 0x8df0de2cf098030b, 0x5ba7f592a085ee80, 0x625066ca7a66f4e1, 0x36c8ae2192a076eb, 0xe383a10cc6780a5⟩
  else ⟨0xd4255a93ed683b0f, 0x4fd5b46ba5d589e, 0xe305d3917f5b5ff7, 0xbfd971ef60ffe966, 0xaa01511fa9f564de, 0x33d95fc9d10761f2, 0x78da94530a84f953, 0x7752cd9f96e8f3e0⟩

theorem test_mac1 : ((shaPadded macInput).take 9).foldl ShaWords.block shaStart = macWords 1 := by decide +kernel

theorem test_mac2 : (((shaPadded macInput).drop 9).take 9).foldl ShaWords.block (macWords 1) = macWords 2 := by decide +kernel

theorem test_mac3 : ((((shaPadded macInput).drop 9).drop 9).take 9).foldl ShaWords.block (macWords 2) = macWords 3 := by decide +kernel

theorem test_mac4 : ((((shaPadded macInput).drop 9).drop 9).drop 9).foldl ShaWords.block (macWords 3) = macWords 4 := by decide +kernel

/-- Hashing some blocks and then the others. -/
theorem foldl_parts (n : Nat) (ws : List (List (BitVec 64))) (v : ShaWords) :
    ws.foldl ShaWords.block v = (ws.drop n).foldl ShaWords.block ((ws.take n).foldl ShaWords.block v) := by
  rw [← List.foldl_append, List.take_append_drop]

theorem test_macInner : (shaPadded macInput).foldl ShaWords.block shaStart = macWords 4 := by
  rw [foldl_parts 9, test_mac1, foldl_parts 9, test_mac2, foldl_parts 9, test_mac3, test_mac4]

theorem test_manifestMac : manifestBytes.drop 0x1040 = hmac512 (bytes512 0) (manifestBytes.take 0x1040) := by
  have h : hmac512 (bytes512 0) (manifestBytes.take 0x1040) = sha512 (List.replicate 128 0x5C ++ sha512 macInput) := by
    have hl : (bytes512 0).length ≤ 128 := by decide +kernel
    have hk : (bytes512 0 ++ List.replicate (128 - (bytes512 0).length) 0 : List Byte) = List.replicate 128 0 := by decide +kernel
    simp only [hmac512, if_pos hl, hk, List.map_replicate]
    rfl
  rw [h, sha512, sha512, test_macInner]
  decide +kernel

theorem test_wit_reseatRead : ∀ v ∈ [5, 7], ((offered 65536).writeReg Fld.RIM_RESEAT_CMD_op.reg 0 v).hostBytes 0 0 4224 = manifestBytes := by decide +kernel

theorem test_manifestForm : manifestBytes.length = 4224 ∧ fieldAt manifestBytes 0 4 = 0x4D504B51 ∧ fieldAt manifestBytes 4 2 = 1 ∧
    fieldAt manifestBytes 0x10 8 = 0 := by decide +kernel

/-- A field of a run of zeros is 0. -/
theorem fieldAt_zeros (a b : List Byte) (k o n : Nat) (h : a.length ≤ o) (h' : o + n ≤ a.length + k) :
    fieldAt (a ++ List.replicate k 0 ++ b) o n = 0 := by
  have hz : ∀ n : Nat, leNat (List.replicate n (0 : Byte)) = 0 := by
    intro n
    induction n with
    | zero => rfl
    | succ n ih => rw [List.replicate_succ, leNat, ih]; rfl
  have hd : ((a ++ List.replicate k 0 ++ b).drop o).take n = List.replicate n (0 : Byte) := by
    rw [List.append_assoc, List.drop_append, List.drop_eq_nil_of_le h, List.nil_append, List.drop_append, List.drop_replicate,
      List.length_replicate, Nat.sub_eq_zero_of_le (by omega : o - a.length ≤ k), List.drop_zero, List.take_append, List.take_replicate,
      List.length_replicate, Nat.sub_eq_zero_of_le (by omega : n ≤ k - (o - a.length)), List.take_zero, List.append_nil,
      Nat.min_eq_left (by omega)]
  rw [fieldAt, hd, hz]

theorem test_manifestHead : fieldAt manifestBytes 6 2 = 0 ∧ fieldAt manifestBytes 0x18 1 = 0 ∧ fieldAt manifestBytes 0x19 39 = 0 ∧
    bitsOf (fieldAt manifestBytes 64 1) 5 3 = 0 := by decide +kernel

theorem test_manifestReserved : manifestReservedZero manifestBytes = true := by
  have hz : ∀ o n : Nat, 65 ≤ o → o + n ≤ 4160 → fieldAt manifestBytes o n = 0 := fun o n h h' => fieldAt_zeros _ _ 4095 o n h h'
  have hb : ∀ lo w : Nat, bitsOf 0 lo w = 0 := by simp [bitsOf]
  have hp : ∀ p : Nat, bitsOf (fieldAt manifestBytes (0x40 + 128 * p) 1) 5 3 = 0 ∨ 31 < p := by
    intro p
    rcases Nat.eq_zero_or_pos p with rfl | h
    · exact .inl test_manifestHead.2.2.2
    · by_cases h' : 31 < p
      · exact .inr h'
      · exact .inl (by rw [hz _ _ (by omega) (by omega), hb])
  simp only [manifestReservedZero, test_manifestHead, hb, Bool.and_eq_true, List.all_eq_true, beq_iff_eq, List.mem_range]
  refine ⟨by simp, fun p h => ?_⟩
  have hq := (hp p).resolve_right (by omega)
  rw [hz (0x40 + 128 * p + 6) 1 (by omega) (by omega), hz (0x40 + 128 * p + 7) 1 (by omega) (by omega),
    hz (0x40 + 128 * p + 0x10) 4 (by omega) (by omega), hz (0x40 + 128 * p + 0x14) 12 (by omega) (by omega)]
  simp [hq, hb]

theorem test_manifestActive : ∀ v ∈ [5, 7], ((offered 65536).writeReg Fld.RIM_RESEAT_CMD_op.reg 0 v).manifest = some manifestBytes := by
  decide +kernel

theorem test_manifestAgrees : mastered.manifestConflict manifestBytes = false := by decide +kernel

/-- A manifest changes nothing that the active one does not say already. -/
theorem sameManifest_drained {s : State} {m : List Byte} (h : s.manifest = some m) : s.manifestUndrained m = false := by
  simp [State.manifestUndrained, State.setupOf, h]

theorem test_wit_reseatManifest : ∀ v ∈ [5, 7], ((offered 65536).writeReg Fld.RIM_RESEAT_CMD_op.reg 0 v).manifestError
    ((offered 65536).writeReg Fld.RIM_RESEAT_CMD_op.reg 0 v).ownerKey manifestBytes true = 0 := by
  have hs : ∀ v ∈ [5, 7], ((offered 65536).writeReg Fld.RIM_RESEAT_CMD_op.reg 0 v).ownerKey = some (bytes512 0) ∧
      ((offered 65536).writeReg Fld.RIM_RESEAT_CMD_op.reg 0 v).service = mastered.service ∧
      mastered.service.manifestGen = 0 := by decide +kernel
  intro v hv
  generalize hu : (offered 65536).writeReg Fld.RIM_RESEAT_CMD_op.reg 0 v = u
  have h := hu ▸ hs v hv
  have hm : u.manifest = some manifestBytes := hu ▸ test_manifestActive v hv
  have hc : u.manifestConflict manifestBytes = mastered.manifestConflict manifestBytes := by unfold State.manifestConflict; rw [h.2.1]
  have hg : ¬ fieldAt manifestBytes 8 8 < u.service.manifestGen := by rw [h.2.1, h.2.2]; exact Nat.not_lt_zero _
  rw [State.manifestError, if_neg (by simp [test_manifestForm, test_manifestReserved]),
    if_neg (by rw [h.1]; exact not_not_intro (congrArg some test_manifestMac.symm)), if_neg hg]
  simp [hc, test_manifestAgrees, sameManifest_drained hm]

theorem test_wit_reseatAsked : ∀ x ∈ [(0, 6), (65536, 5), (65536, 7)], (offered x.1).fromPf (.host 0) = true ∧ (offered x.1).run.phase = .running ∧
    (offered x.1).run.restartDue = false ∧ ((offered x.1).writeReg Fld.RIM_RESEAT_CMD_op.reg 0 x.2).reseatBusy = false ∧
    ((offered x.1).writeReg Fld.RIM_RESEAT_CMD_op.reg 0 x.2).canMaster 0 = true ∧
    ((offered x.1).writeReg Fld.RIM_RESEAT_CMD_op.reg 0 x.2).get Fld.RIM_RESEAT_ADDR_LO_addr_lo = 0 ∧
    ((offered x.1).writeReg Fld.RIM_RESEAT_CMD_op.reg 0 x.2).get Fld.RIM_RESEAT_ADDR_HI_addr_hi = 0 := by decide +kernel

/-! ## Witnesses: faults, engines, sites -/

theorem test_wit_report : families.contains 0x47 = true ∧ railFault 3 2 = false ∧ railFault 0 0 = true ∧ (0x47 : BitVec 8) ≠ 0x1A ∧
    families.contains 0xFF = false ∧ engineOf 0x00 255 = some 255 := by decide +kernel

/-- A channel has lanes to spare, or has used them all and retires or does so now. -/
theorem test_wit_spareLanes (n : Nat) (h : n < Config.spareLanes) : Sparse.get 0 [(255, n)] (255 : BitVec 9).toNat < Config.spareLanes ∧
    Config.spareLanes ≤ Sparse.get 0 [(255, Config.spareLanes)] (255 : BitVec 9).toNat ∧ (∀ e ∈ up.fc.retiring, e.1 ≠ (255 : BitVec 9).toNat) ∧
    (∃ e ∈ [((255 : Nat), (0 : Nat))], e.1 = (255 : BitVec 9).toNat) :=
  ⟨h, Nat.le_refl _, nofun, _, List.mem_singleton.mpr rfl, rfl⟩

theorem test_wit_lane : families.contains 0x1C = true ∧ railFault 3 2 = false ∧ (2 : BitVec 2) = 2 := by decide

/-- Family 0x48 is pending, and the pulse ends now. -/
def pulsing : State := { regs [(Fld.FC_SRC_STATUS_pending, 0x48, 1), (Fld.FC_SRC_CFG_auto, 0x48, 1), (Fld.FC_CTRL_quiet_ms, 0, 0), (Fld.WVR_TIME_LO_time_lo, 0, 10000)] up with
  fc := { up.fc with pulseEnd := some 10000 } }

theorem test_wit_pulse : pulsing.fc.pulseEnd = some 10000 ∧ 10000 ≤ pulsing.time ∧ up.fc.pulseEnd = none ∧
    pulsing.flag Fld.FC_SRC_CFG_auto 0x48 = true ∧ pulsing.flag Fld.FC_SRC_STATUS_pending 0x48 = true ∧
    pulsing.flag Fld.FC_SRC_STATUS_demoted 0x48 = false ∧ pulsing.flag Fld.FC_SRC_STATUS_rail 0x48 = false ∧
    Sparse.get 0 pulsing.fc.lastReport 0x48 + pulsing.quietUs ≤ pulsing.time ∧ up.flag Fld.FC_SRC_STATUS_pending 0x48 = false ∧
    up.time < Sparse.get 0 up.fc.lastReport 0x48 + up.quietUs := by decide +kernel

/-- Partition 1 is under a lid and owns channel 3. -/
def lidOwner : State := regs [(Fld.HI_PART_ID_lid, 1, 1), (Fld.HI_CARVE_MAP_channels, 8, 8)] { up with parts := [(0, 0), (1, 0)] }

theorem test_wit_instances : lidOwner.instanceOwners 0x18 3 = [1] ∧ up.instanceOwners 0x18 3 = [] ∧ families.contains 0x18 = true ∧ families.contains 0x04 = true ∧
    engineOf 0x04 3 = some 3 ∧ 2 ≤ up.severity 0x04 ∧ (0x1A : BitVec 8) = 0x1A ∧ railFault 3 2 = false := by decide +kernel

theorem test_wit_force : up.lidInstance 0x18 3 = false ∧ lidOwner.lidInstance 0x18 3 = true ∧ up.fromPf .monitor = true ∧
    bitOf 0x2000 13 = true ∧ up.flag Fld.FC_INJECT_armed = false ∧ (regs [(Fld.FC_INJECT_armed, 0, 1)] up).flag Fld.FC_INJECT_armed = true := by
  decide +kernel

/-- Engine 371, a weave port, and core 255 are fenced and drained. -/
def fencedDrained : State := { up with fc := { up.fc with fenced := [371, 255], drained := [371, 255] } }

theorem test_wit_engine : bitOf 0x10173 16 = true ∧ bitsOf 0x10173 0 9 = 371 ∧ up.fc.fenced.contains 371 = false ∧ bitsOf 0x10174 0 9 = 372 ∧
    fencedDrained.fc.fenced.contains 371 = true ∧ (regs [(Fld.RWS_SITE_STATE_slots, 31, 0x1C000)] up).resettable 255 = false ∧ fencedDrained.fc.drained.contains 371 = true ∧
    fencedDrained.fc.drained.contains 255 = true ∧ up.fc.drained.contains 371 = false ∧
    ({ up with fc := { up.fc with fenced := [256] } } : State).fc.fenced.contains 256 = true := by decide +kernel

/-! ## Witnesses: sites, power, seam, bridge, row store, arbiters -/

theorem test_wit_scrub : bitOf 0x3FF 0 = true ∧ (∀ k ∈ scrubSlots true 0xFF, up.siteResident 287 k = false) ∧
    (∃ k ∈ scrubSlots false 0x80, ({ up with slots := [(255 * 8 + 7, { Slot.none with bound := true })] } : State).siteResident 286 k = true) ∧
    (regs [(Fld.LS_SCRUB_busy, 287, 1), (Fld.LS_SCRUB_whole, 287, 1)] up).flag Fld.LS_SCRUB_busy 287 = true ∧
    (regs [(Fld.LS_SCRUB_busy, 287, 1), (Fld.LS_SCRUB_slot_mask, 287, 0x80), (Fld.LS_SLICE_base_seg, 2303, 31), (Fld.LS_SLICE_len_seg, 2303, 1)] up).flag
      Fld.LS_SCRUB_whole 287 = false ∧ up.flag Fld.LS_SCRUB_busy 287 = false ∧ (.monitor : Agent) ≠ .rim := by decide +kernel

/-- The spare slot of row 31 is under test, and has passed it. -/
def tested : State := { regs [(Fld.RWS_SITE_STATE_slots, 31, 0x30000)] up with fc := { up.fc with tested := [287] } }

/-- Core 255 has been handed over to partition 1 and waits for its read-back. -/
def handed : State := { up with plait := { up.plait with handover := [(255, 1, true)] } }

theorem test_wit_spare : tested.siteState 287 = 3 ∧ tested.coreOfSite 287 = none ∧
    (regs [(Fld.RWS_SITE_STATE_slots, 31, 0x30000)] up).fc.tested.contains 287 = false ∧ up.siteState 287 ≠ 3 ∧
    bitsOf 0x47 0 3 = 7 ∧ bitsOf 0x47 3 4 = 8 ∧ bitsOf 0x47 7 2 = 0 ∧ tested.coreSlots 255 = [] ∧ tested.fc.tested.contains 287 = true ∧
    (tested.siteOf 255).isSome = true ∧ bitsOf 0x4F 3 4 = 9 ∧ bitsOf 0x7F 3 4 = 15 ∧ bitsOf 0x147 7 2 = 2 ∧
    handed.plait.handover.find? (fun e => e.1 == 255) = some (255, 1, true) ∧ handed.siteOf 255 = some 286 ∧
    (∀ c ∈ handed.localStore, c.1 / 2 ^ 21 ≠ 286) := by decide +kernel

/-- A scrub of slot 7 of the last core's store is under way, its slice the last segment; core 255's handover found no clean byte, or its lane
maps to no slot. -/
theorem test_wit_scrubs : ∀ s, s = { regs [(Fld.LS_SCRUB_busy, 286, 1), (Fld.LS_SLICE_base_seg, 2295, 31), (Fld.LS_SLICE_len_seg, 2295, 1)] up with scrubs := [(286, 1 + 4 * 0x80)] } →
    s.flag Fld.LS_SCRUB_busy 286 = true ∧ bitOf (Sparse.get 0 s.scrubs 286) 1 = false ∧ bitsOf (Sparse.get 0 s.scrubs 286) 2 8 = 0x80 ∧ s.coreOfSite 286 = some 255 ∧
    7 ∈ scrubSlots false 0x80 ∧ 7 ∈ scrubSlots true 0 ∧ bitOf (1 + 2) 1 = true ∧ bitsOf (1 + 2) 2 8 = 0 ∧
    (∃ c ∈ ({ handed with localStore := [(2 ^ 21 * 287 - 1, 1)] } : State).localStore, c.1 / 2 ^ 21 = 286) ∧
    (regs [(Fld.RWS_LANE_MAP_lanes, 31, 0xFFFFFFFF)] handed).siteOf 255 = none ∧
    ({ up with plait := { up.plait with handover := [(255, 1, false)] } } : State).plait.handover.find? (fun e => e.1 == 255) = some (255, 1, false) := by
  rintro s rfl; decide +kernel

/-- Channel 255 is retiring. -/
def retiring : State := { up with fc := { up.fc with retiring := [(255, 0)] } }

theorem test_wit_retire : retiring.fc.retiring.find? (fun e => e.1 == 255) = some (255, 0) ∧ retiring.chanPiece 255 = none ∧
    retiring.chanEmpty 255 = true ∧ ({ retiring with frames := [(255 * 2 ^ 24, .reserved)] } : State).chanEmpty 255 = false ∧
    (regs [(Fld.WVR_TIME_LO_time_lo, 0, 10000000)] retiring).time = 0 + 10000000 ∧ retiring.time < 0 + 10000000 ∧
    up.fc.retiring.find? (fun e => e.1 == 255) = none := by decide +kernel

theorem test_wit_ageing : max 1 (up.get Fld.FC_WEAR_CFG_aging_pct) ≤ 6 ∧ up.coreOfSite 286 = some 255 ∧ 0 < max 1 (up.get Fld.FC_WEAR_CFG_aging_pct) ∧
    up.coreOfSite 287 = none ∧ up.get Fld.FC_WEAR_CFG_rotate_days ≠ 0 ∧ up.siteState 279 = 0 ∧
    (∀ e ∈ up.fc.rotating, rowHalf e.1 ≠ rowHalf 31) ∧ up.rowSlotIn 31 1 = some 8 ∧ up.siteState 287 ≠ 0 ∧
    (regs [(Fld.FC_WEAR_CFG_rotate_days, 0, 0)] up).get Fld.FC_WEAR_CFG_rotate_days = 0 := by decide +kernel

theorem test_wit_rotation : up.coreSlots 255 = [] ∧ (∃ e ∈ ({ up with fc := { up.fc with rotating := [(30, 0)] } } : State).fc.rotating, rowHalf e.1 = rowHalf 31) ∧
    (regs [(Fld.RWS_SITE_STATE_slots, 31, 0x20000)] up).rowSlotIn 31 1 = none ∧
    ({ up with slots := [(2047, { Slot.none with bound := true, ctx := 2047 })] } : State).coreSlots 255 ≠ [] := by decide +kernel

/-- Half 3 is awake and has a rail transition under way. -/
def awake : State := { regs [(Fld.PW_HALF_gated, 3, 0), (Fld.PW_WAKE_CFG_gate_idle, 0, 10)] up with power := { up.power with target := [(3, 4)] } }

theorem test_wit_grant : Sparse.get 0 awake.power.target 3 = 3 + 1 ∧ awake.gated 3 = false ∧ up.gated 3 = true ∧ Sparse.get 0 up.power.target 3 = 0 ∧
    awake.halfBusy 3 = false ∧ awake.halfExecutes 3 = false ∧ awake.seamWaiting 3 = false ∧ awake.get Fld.PW_WAKE_CFG_gate_idle ≤ 10 ∧
    9 < awake.get Fld.PW_WAKE_CFG_gate_idle ∧ up.power.wakeQueue = [] ∧
    ({ up with power := { up.power with wakeQueue := [255] } } : State).power.wakeQueue ≠ [] := by decide +kernel

/-- Half 3 is awake, its droop detectors enabled and a stretch run under way; a droop ceiling ends at 10 ms. -/
def drooping : State := { regs [(Fld.PW_HALF_gated, 3, 0), (Fld.CK_DROOP_CFG_droop_en, 0, 1), (Fld.CK_DROOP_CFG_thresh_mv, 0, 20), (Fld.PW_HALF_stretching, 3, 1),
    (Fld.CK_DROOP_CFG_rate_limit, 0, 0), (Fld.WVR_TIME_LO_time_lo, 0, 10000)] up with power := { up.power with droopUntil := [(3, 10000)] } }

theorem test_wit_droop : drooping.flag Fld.CK_DROOP_CFG_droop_en = true ∧ rowHalf 31 = 3 ∧ drooping.gated 3 = false ∧ 20 < 21 ∧
    drooping.get Fld.CK_DROOP_CFG_thresh_mv < 21 ∧ 20 ≤ max 20 (drooping.get Fld.CK_DROOP_CFG_thresh_mv) ∧ up.gated 3 = true ∧
    drooping.flag Fld.PW_HALF_stretching 3 = true ∧ up.flag Fld.PW_HALF_stretching 3 = false ∧
    0 + 1 = drooping.get Fld.CK_DROOP_CFG_rate_limit + 1 ∧ 0 + 1 ≠ up.get Fld.CK_DROOP_CFG_rate_limit + 1 ∧
    Sparse.get 0 drooping.power.droopUntil 3 ≠ 0 ∧ Sparse.get 0 drooping.power.droopUntil 3 ≤ drooping.time ∧
    Sparse.get 0 up.power.droopUntil 3 = 0 ∧ (regs [(Fld.WVR_TIME_LO_time_lo, 0, 9999)] drooping).time < 10000 := by decide +kernel

/-- 99 measurements wait for the hundredth. -/
def measured : State := { up with power := { up.power with tens := List.replicate 99 4000, overRun := 799 } }

/-- One sample of the window, of `l` W. -/
def window (l : Nat) : State := { regs [(Fld.PW_HALF_want, 0, 0), (Fld.PW_HALF_ceiling, 0, 1), (Fld.WVR_TIME_LO_time_lo, 0, 10000)] up with
  power := { up.power with samples := [l] } }

theorem test_wit_measure : measured.power.tens.length = 99 ∧ up.power.tens.length < 99 ∧ 4500 < 4501 ∧ measured.powerLimit < 4500 ∧
    measured.power.overRun + 1 = 800 ∧ up.windowSamples = [] ∧ (window 4400).windowSamples = 4400 :: [] ∧ (window 4400).powerLimit = 3200 ∧
    (window 4400).powerWindow = 4 ∧ 98 * (3200 * 10 * 4) < 100 * ((10 * 4 - 1) * 4400 + 4400) ∧
    100 * ((10 * 4 - 1) * 1000 + 1000) < 95 * (3200 * 10 * 4) ∧
    (window 1000).power.ceilingChanged + 10000 ≤ (window 1000).time ∧ (window 1000).get Fld.PW_HALF_want 0 < (window 1000).get Fld.PW_HALF_ceiling 0 ∧
    100 * ((10 * 4 - 1) * 3100 + 3100) ≤ 98 * (3200 * 10 * 4) ∧ 95 * (3200 * 10 * 4) ≤ 100 * ((10 * 4 - 1) * 3100 + 3100) := by decide +kernel

/-- All sensors read `c`; half 3 may step its cap, which is 1. -/
def warm (c : Nat) : State :=
  regs ((List.range 14).map (fun k => (Fld.PW_TEMP_now_c, k, c)) ++ [(Fld.PW_HALF_thermal_cap, 3, 1), (Fld.WVR_TIME_LO_time_lo, 0, 10000)]) up

theorem test_wit_thermal : (warm 95).get Fld.PW_THERM_CFG_throttle_c = 95 ∧ (warm 95).get Fld.PW_THERM_CFG_throttle_c ≤ (warm 95).halfTemp 3 ∧
    (warm 95).get Fld.PW_HALF_thermal_cap 3 < 3 ∧ Sparse.get 0 (warm 95).power.capChanged 3 = 0 ∧
    (warm 92).halfTemp 3 + 3 ≤ (warm 92).get Fld.PW_THERM_CFG_throttle_c ∧ 0 < (warm 92).get Fld.PW_HALF_thermal_cap 3 ∧
    Sparse.get 0 (warm 92).power.capChanged 3 + 10000 ≤ (warm 92).time ∧ (warm 92).power.critical.contains 3 = false ∧
    (warm 94).halfTemp 3 < (warm 94).get Fld.PW_THERM_CFG_throttle_c ∧ (warm 94).get Fld.PW_THERM_CFG_throttle_c < (warm 94).halfTemp 3 + 3 ∧
    (warm 94).get Fld.PW_TEMP_now_c 13 < 95 ∧ (warm 95).get Fld.PW_THERM_CFG_alert_c ≤ 105 ∧ bitOf 1 0 = true := by decide +kernel

/-- Basket 63 is bound and paced, under a cap at point 2 until 100 µs; half 3 is throttled. -/
def paced : State := { regs [(Fld.CAP_BASKET_state, 63, 2), (Fld.CAP_BASKET_UID_LO_uid_lo, 63, 9), (Fld.PW_PACE_EN_HI_en, 0, 2 ^ 31), (Fld.PW_HALF_want, 3, 0),
    (Fld.PW_HALF_grant, 3, 2), (Fld.PW_HALF_ceiling, 3, 2)] up with power := { up.power with capPoint := [(63, 2)], capUntil := [(63, 100)] } }

theorem test_wit_pace : paced.basketOfUid 9 = some 63 ∧ paced.paceEnabled 63 = true ∧ Sparse.get 0 paced.power.capPoint 63 ≤ 2 ∧
    1 < Sparse.get 0 paced.power.capPoint 63 ∧ paced.time < Sparse.get 0 paced.power.capUntil 63 ∧ paced.basketOfUid 8 = none ∧
    (regs [(Fld.WVR_TIME_LO_time_lo, 0, 100)] paced).time = 100 ∧ (regs [(Fld.PW_PACE_EN_HI_en, 0, 0)] paced).paceEnabled 63 = false ∧
    paced.throttled 3 = true ∧ up.throttled 3 = false ∧ 0 + paced.paceHold / 2 ≤ (regs [(Fld.WVR_TIME_LO_time_lo, 0, 100000)] paced).time + 1 ∧
    paced.time + 1 < 0 + paced.paceHold / 2 := by decide +kernel

/-- Half 2 runs, half 3 is gated or not; the last channel east across the seam has no credit, one of which comes back at edge 10; the
first has one, and has captured at edge 30; half 3 has `n` requests outstanding, half 2 `k`; two responses to half 3 are 7 and 8 entries long. -/
def seamed (g n k : Nat) : State :=
  { regs [(Fld.PW_HALF_gated, 2, 0), (Fld.SEAM_DIV_west_div, 1, 0), (Fld.PW_HALF_gated, 3, g), (divField 3, 1, if g = 0 then 0 else 4)] up with
    seam := [(80, { SeamChan.empty with credits := 1, cap := 30 }), (88, { SeamChan.empty with len := 7 }), (89, { SeamChan.empty with len := 8 }),
      (95, { SeamChan.empty with credits := 0, back := [10] })],
    seamOut := [(2, k), (3, n)] }

theorem test_wit_seam : (seamed 1 0 0).senderDiv 3 .seam = some (pointDivider 0) ∧ (seamed 1 0 0).sends 3 .seam 0 = true ∧ (seamed 1 0 0).sends 3 .seam 1 = false ∧
    up.sends 3 .seam 0 = false ∧ (seamed 1 0 0).sends 3 .network 11994 = true ∧ (seamed 1 0 0).sends 3 .network 12000 = false ∧
    (seamed 1 0 0).gated 3 = true ∧ (seamed 0 0 0).gated 3 = false ∧ ((seamed 1 0 0).seamAt (seamKey 3 .seam 15)).credits = 0 ∧
    (((seamed 1 0 0).seamAt 95).credited 11).credits = 0 ∧ (((seamed 1 0 0).seamAt 95).credited 12).credits = 1 ∧
    ((seamed 1 0 0).seamAt (seamKey 3 .seam 0)).credits ≠ 0 := by decide +kernel

theorem test_wit_seamBarred : (seamed 1 63 0).seamBarred 3 .seam 0 true = false ∧ (seamed 1 64 0).seamBarred 3 .seam 7 true = true ∧
    (seamed 1 64 0).seamBarred 3 .seam 7 false = false ∧ (seamed 1 64 0).seamBarred 3 .network 7 true = false ∧
    (seamed 1 0 1).seamBarred 3 .seam 8 true = false ∧ (seamed 1 0 0).seamBarred 3 .seam 15 true = true ∧
    (seamed 1 0 63).seamBarred 3 .network 8 true = false ∧ (seamed 1 0 64).seamBarred 3 .network 15 true = true ∧
    (seamed 0 0 64).seamBarred 3 .network 15 true = false ∧ (seamed 0 0 0).seamBarred 3 .seam 8 false = false ∧
    (seamed 0 0 0).seamBarred 3 .seam 9 false = true ∧ (seamed 0 0 0).seamBarred 3 .seam 10 false = true ∧
    (({ seamed 0 0 0 with seam := [(80, { SeamChan.empty with last := 13 })] } : State).seamAt 80).last = 12 + 1 := by decide +kernel

/-- Sub-link 15 of bridge 12 is retired. -/
def oneSubLess : State := regs [(Fld.FC_BRIDGE_STATUS_retired, 12, 2 ^ 15)] up

theorem test_wit_bridge : (up.takeInjection 3 12).1 = 0 ∧ bitOf (oneSubLess.get Fld.FC_BRIDGE_STATUS_retired 12) 15 = true ∧
    bitOf (up.get Fld.FC_BRIDGE_STATUS_retired 12) 15 = false ∧
    64 ≤ ((Sparse.get [] ({ up with bridgeTimes := [(207, List.replicate 64 0)] } : State).bridgeTimes 207).filter (fun x => decide (up.time < x + 1000))).length := by
  decide +kernel

/-- Basket 63 owns the last segment of row 31, and a read of line 8191 waits there. -/
def waitingRead : State := { regs [(Fld.RWS_SEG_OWNER_owners, 511, 2 ^ 24 * (128 + 63))] up with merge := [(31 * 16 + 15, [{ line := 8191, cores := [254], since := 0, write := none }])] }

/-- A write of that line waits behind the read. -/
def waitingWrite : State := { waitingRead with
  merge := [(31 * 16 + 15, [{ line := 8191, cores := [254], since := 0, write := none }, { line := 8191, cores := [3], since := 1, write := some (List.replicate 512 7) }])] }

theorem test_wit_rowstoreWrite : ∃ g w, waitingWrite.groupsAt 31 15 = [g, w] ∧ g.write = none ∧ w.write = some (List.replicate 512 7) ∧
    (List.replicate 512 (7 : Byte)).length = 512 ∧ g.line = 8191 ∧ w.line = 8191 ∧ (fun x : MergeGroup => decide (waitingWrite.waitsTo 31 x ≤ 1)) w = true ∧
    (waitingWrite.serveOverdue 31 15 1).halted = false :=
  ⟨_, _, rfl, rfl, rfl, by decide, rfl, rfl, by decide +kernel, by decide +kernel⟩

theorem test_wit_rowstore : waitingRead.segOwner 31 (8191 / 128) = some 63 ∧ (waitingRead.serveOverdue 31 15 0).segOwner 31 63 = some 63 ∧
    (waitingRead.serveOverdue 31 15 0).halted = false ∧ (∃ g ∈ waitingRead.groupsAt 31 15, g.line = 8191) ∧ (∀ g ∈ waitingRead.groupsAt 31 15, g.line ≠ 8175) ∧ (List.replicate 512 (0 : Byte)).length = 512 ∧
    up.segOwner 31 63 ≠ some 63 ∧
    (∀ e ∈ ({ waitingRead with rsPoison := [(64 * (31 * 8192 + 8190), 2)] } : State).rsPoison, e.1 / 64 ≠ 31 * 8192 + 8191) := by decide +kernel

/-- A request of requester `r`. -/
def req (r : Nat) : ArbReq := { requester := r, master := 0, label := 0, basket := 0, waited := 0, urgent := false, begun := false, place := 127, read := none }

theorem test_wit_arbiter : winner (fun _ => 0) [2, 1] [req 1, req 2] = some (req 2) ∧ winner (fun _ => 0) [2, 1] [] = none ∧
    req 1 ∈ [req 1, req 2] ∧ ({ up.arbAt 0 with owner := some 1, beats := 256 } : Arb).owner = some 1 ∧ (∃ r ∈ [req 1, req 2], r.requester ≠ 1) ∧
    (∀ r ∈ [req 1], r.requester = (req 1).requester) := by decide +kernel

/-- At a bank of a fresh module a request alone is the winner. -/
theorem test_wit_granted : up.considered (.bank 31 15) [req 7] = [req 7] ∧ (up.arbAt (arbKey (.bank 31 15))).owner = none ∧
    winner (up.priorityAt (.bank 31 15)) (withRanks (up.arbAt (arbKey (.bank 31 15))).ranks [req 7]) [req 7] = some (req 7) ∧
    winner (up.priorityAt (.bank 31 15)) (withRanks (up.arbAt (arbKey (.bank 31 15))).ranks []) [] = none := by decide +kernel

/-- Port 79 is in a state; it has unacknowledged flits, and what its link layer sends next. -/
def sender (st n : Nat) (l : List (Nat × Nat × List Byte)) : State :=
  { regs [(Fld.WF_PORT_STATE_state, 79, st)] up with
    ports := [(79, { Port.none with unacked := List.replicate n (0, none), link := l, owed := List.replicate 9 0 })] }

theorem test_wit_flitTimes : (sender 0 0 []).intake.portState 79 ≠ 1 ∧ (sender 0 0 []).intake.sendsFlits 79 = false ∧ (sender 3 0 []).intake.sendsFlits 79 = true ∧
    (sender 3 127 []).intake.linkBlocked 79 = true ∧ (sender 3 126 []).intake.linkBlocked 79 = false ∧ (sender 1 0 []).intake.linkBlocked 79 = true ∧
    ((sender 3 0 [(7, 0, [])]).intake.linkBeat 79).isSome = true ∧ (sender 3 0 []).intake.linkBeat 79 = none ∧
    (waitingWrite.groupsAt 31 15).find? (fun x => x.cores.contains (req 254).requester &&
      (waitingWrite.groupsAt 31 15).find? (fun y => y.line == x.line) == some x) = some { line := 8191, cores := [254], since := 0, write := none } ∧
    up.windowEdge < { up with run := { up.run with rootEdge := 16384 } }.run.rootEdge / 16384 * 16384 ∧ up.run.rootEdge / 16384 * 16384 ≤ up.windowEdge := by decide +kernel

/-! ## Witnesses: edits, moves -/

/-- Basket 63, uid 9, is READY and partition 31's; its edit registers name the last two pages of the address space and handle 5; its piece has
channel 255, one of whose first two frames is free, and an object table in which 5 is free, 6 live and 7 draining. -/
def owned : State :=
  { regs [(Fld.CAP_BASKET_state, 63, 2), (Fld.CAP_BASKET_partition, 63, 31), (Fld.CAP_BASKET_UID_LO_uid_lo, 63, 9), (Fld.XL_EDIT_ADDR_LO_addr_lo, 31, 0xFFFE),
      (Fld.XL_EDIT_ADDR_HI_addr_hi, 31, 0xFFFFFF), (Fld.XL_EDIT_COUNT_count, 31, 2), (Fld.XL_EDIT_OBJ_handle, 31, 5), (Fld.PG_OBJ_ENTRIES_entries, 63, 8)] up with
    pieces := [(63, { Piece.none with chans := 2 ^ 255 })],
    objects := [(63, { inEffect := true, entries := [(6, { generation := 0, state := 1, base := 0, pages := 1, pins := 0 }),
      (7, { generation := 3, state := 2, base := 2 ^ 56 - 65536, pages := 1, pins := 1 })] })] }

/-- The word of operation `o` with go, for basket 63. -/
def editWord (o : Nat) : Word32 := BitVec.ofNat 32 (o + 63 * 16 + 2 ^ 16)

/-- The state with the word stored, and a handle, address and count. -/
def editing (o h lo hi n : Nat) : State :=
  regs [(Fld.XL_EDIT_OBJ_handle, 31, h), (Fld.XL_EDIT_ADDR_LO_addr_lo, 31, lo), (Fld.XL_EDIT_ADDR_HI_addr_hi, 31, hi), (Fld.XL_EDIT_COUNT_count, 31, n)]
    (owned.editStore 31 (editWord o).toNat)

theorem test_wit_edits : owned.flag Fld.XL_EDIT_CMD_busy 31 = false ∧ (editWord 6).toNat % 16 = 6 ∧ bitOf (editWord 6).toNat 16 = true ∧
    bitOf (63 * 16) 16 = false ∧ (∀ o < 7, (editing o 5 0xFFFE 0xFFFFFF 2).editBasket 31 = 63) ∧ (editing 0 5 0xFFFE 0xFFFFFF 2).basketOwner 63 = some 31 ∧
    (editing 0 5 0xFFFE 0xFFFFFF 2).editCount 31 = 2 ∧ (editing 0 5 0 0 0).editCount 31 = 0 ∧ up.basketOwner 63 ≠ some 31 ∧
    (regs [(Fld.XL_EDIT_CMD_busy, 31, 1)] owned).flag Fld.XL_EDIT_CMD_busy 31 = true ∧ (editing 0 5 0xFFFE 0xFFFFFF 2).moves = [] ∧
    (editing 0 5 0xFFFE 0xFFFFFF 2).shards = [] ∧ (editing 0 5 0xFFFE 0xFFFFFF 2).deferred = [] ∧ owned.agentAsleep (.host 31) = false ∧
    (editing 0 5 0xFFFE 0xFFFFFF 2).unwritten 63 (2 ^ 56 - 131072) 131072 = false ∧ bitsOf (editWord 6).toNat 13 3 = 0 ∧ bitsOf (editWord 6).toNat 24 8 = 0 ∧
    bitsOf (2 ^ 13) 13 3 ≠ 0 ∧ bitsOf (2 ^ 31) 24 8 ≠ 0 ∧ ({ owned with d3hot := [31] } : State).agentAsleep (.host 31) = true ∧
    (inPhase .stopped).agentAsleep (.host 31) = true := by decide +kernel

theorem test_wit_editObjects : ((editing 3 5 0 1 1).set Fld.XL_EDIT_CMD_busy 31 1).tableReady 63 [] [] =
      (.ok [], [], (editing 3 5 0 1 1).set Fld.XL_EDIT_CMD_busy 31 1) ∧
    5 < (editing 3 5 0 1 1).get Fld.PG_OBJ_ENTRIES_entries 63 ∧ ((editing 3 5 0 1 1).objAt 63 5).state = 0 ∧
    (editing 3 5 0 1 1).objOverlap 63 (2 ^ 32) 1 = false ∧ (editing 3 5 0 0 1).objOverlap 63 0 1 = true ∧
    (editing 3 5 0xFFFE 0xFFFFFF 2).objOverlap 63 (2 ^ 56 - 131072) 2 = true ∧ (editing 3 8 0 1 1).get Fld.PG_OBJ_ENTRIES_entries 63 ≤ 8 ∧
    ((editing 3 6 0 1 1).objAt 63 6).state ≠ 0 ∧ ((editing 4 6 0 0 0).objAt 63 6).state = 1 ∧
    ((editing 4 6 0 0 0).objAt 63 6).generation = (editing 4 6 0 0 0).get Fld.XL_EDIT_GEN_generation 31 ∧
    ((editing 4 7 0 0 0).objAt 63 7).generation ≠ (editing 4 7 0 0 0).get Fld.XL_EDIT_GEN_generation 31 ∧
    (({ editing 3 5 0 1 1 with objects := [] } : State).tableReady 63 [] []).1 = .fault 0 4 0 := by
  refine ⟨rfl, ?_⟩; decide +kernel

/-- The edit names the last frame of channel 255, which is free, or the driver's. -/
def lastFrame (o : Nat) (f : FrameUse) : State := { editing o 5 0x5FFF 0xFF00 1 with frames := if f = .free then [] else [(0xFF005FFF, f)] }

theorem test_wit_editFrames : (lastFrame 5 .free).editFrames 31 = [0xFF005FFF] ∧ (lastFrame 5 .free).framesInPiece 63 [0xFF005FFF] = true ∧
    (∀ f ∈ [0xFF005FFF], (lastFrame 5 .free).frameUse f = .free) ∧ (lastFrame 5 .free).counted [0xFF005FFF] = 1 ∧
    1 ≤ (regs [(Fld.PG_FREE_FRAMES_frames, 63, 1)] (lastFrame 5 .free)).get Fld.PG_FREE_FRAMES_frames 63 ∧
    (∀ f ∈ [0xFF005FFF], (lastFrame 6 .reserved).frameUse f = .reserved) ∧ (lastFrame 6 .reserved).framesInPiece 63 [0xFF005FFF] = true ∧
    (lastFrame 6 .reserved).editFrames 31 = [0xFF005FFF] := by decide +kernel

/-- A page that leaves a frame, and one that waits for bytes. -/
def moving (k : MoveKind) : Move := { id := 7, basket := 63, va := 0, kind := k, frame := 0xFF000000, engine := 3, chunks := 0, ready := false }

/-- An edit of partition 31. -/
def anEdit : Edit :=
  { part := 31, op := 0, basket := 63, va := 0, pages := 1, rights := 0, moving := true, frames := [], t4 := [], guests := [], gen := 0, got := [], asked := [] }

theorem test_wit_moves : ({ owned with moves := [moving (.migrate 0xFF000001)] } : State).moves.find? (fun m => m.id == 7) = some (moving (.migrate 0xFF000001)) ∧
    owned.moveReady (moving (.migrate 0xFF000001)) = true ∧ owned.moveReady (moving (.bringT3 1 0)) = false ∧
    owned.moveReady { moving (.bringT3 1 0) with chunks := 65535 } = true ∧ owned.moves.find? (fun m => m.id == 7) = none ∧
    ({ owned with edits := [anEdit] } : State).edits = [] ++ anEdit :: [] ∧ anEdit.part = (31 : Fin 32).val ∧ (∀ x ∈ owned.edits, x.part ≠ 31) ∧
    anEdit.op ≤ 2 ∧ owned.unwritten 63 0 65536 = false ∧ ({ owned with moves := [moving (.migrate 0)] } : State).editHeld anEdit = true ∧
    anEdit.moving = true ∧ (∀ m ∈ ({ owned with moves := [{ moving (.migrate 0) with va := 65536 }] } : State).moves,
      m.basket = anEdit.basket → anEdit.covers m.va = false) ∧ owned.shards = [] := by decide +kernel

/-! ## Witnesses: queues, contexts, batch steps, fences -/

/-- `n` bytes, zero but for fields at offsets. -/
def bytesOf (n : Nat) (fs : List (Nat × Nat × Nat)) : List Byte := fs.foldl (fun x f => putAt x f.1 f.2.1 f.2.2) (List.replicate n 0)

theorem exists_of_fst {α β : Type} (p : α × β) (a : α) (h : p.1 = a) : ∃ u, p = (a, u) := ⟨p.2, by rw [← h]⟩

theorem exists_of_map {α β : Type} (o : Option (α × Bool × β)) (b : Bool) (h : o.map (fun x => x.2.1) = some b) : ∃ k u, o = some (k, b, u) := by
  cases o with
  | none => cases h
  | some x => exact ⟨x.1, x.2.2, by cases h; rfl⟩

/-- Queue `q` is open, of 2 entries, submits to the idle context 2047 of basket 63, and holds `x`; the queue before it takes completions. -/
def queuedAt (q : Nat) (x : List (List Byte)) : State :=
  { regs [(Fld.WVR_Q_CFG_valid, q, 1), (Fld.WVR_Q_CFG_depth_log2, q, 1), (Fld.WVR_Q_CFG_context, q, 2047), (Fld.WVR_Q_CFG_basket_index, q, 63),
      (Fld.WVR_Q_CFG_valid, q - 1, 1), (Fld.WVR_Q_CFG_kind, q - 1, 1), (Fld.WVR_Q_CFG_depth_log2, q - 1, 1), (Fld.WVR_Q_CFG_context, q - 1, 2047),
      (Fld.WVR_Q_CFG_basket_index, q - 1, 63), (Fld.WVR_Q_PROD_count, q, x.length), (Fld.WVR_CTX_STATE_state, 2047, 1), (Fld.WVR_CTX_STATE_basket_index, 2047, 63)]
      owned with queues := if x = [] then [] else [(q, { QueueData.empty with head := x })] }

/-- The last queue. -/
def queued : List (List Byte) → State := queuedAt 1023

/-- A completion item waits in the last queue but one. -/
def answered : State := { regs [(Fld.WVR_Q_PROD_count, 1022, 1)] (queued []) with queues := [(1022, { QueueData.empty with head := [bytesOf 64 []] })] }

theorem test_wit_halted : (inPhase .stopped).halted = true ∧ (queued []).halted = false ∧ (queued []).asleep 31 = false ∧
    ({ queued [] with d3hot := [31] } : State).asleep 31 = true := by decide +kernel

theorem test_wit_submission : (queued []).underLid 31 = false ∧ (queued []).flag Fld.WVR_Q_CFG_valid 1023 = true ∧ (queued []).flag Fld.WVR_Q_CFG_kind 1023 = false ∧
    (queued []).queueOwner 1023 = some 31 ∧ (queued []).flag Fld.WVR_Q_CTRL_closed 1023 = false ∧ (bytesOf 64 []).length = 64 ∧
    ((0xFC0 : BitVec 12).toNat % 64 = 0) ∧ ((0xFFF : BitVec 12).toNat % 64 ≠ 0) ∧ (queued []).queueHeld 1023 < (queued []).queueDepth 1023 ∧
    ((queued []).queueAt 1023).ring = 0 ∧ ((queued []).queueAt 1023).tail = [] ∧ ((queued []).queueAt 1023).head.length < 8 ∧
    (queued []).flag Fld.WVR_Q_CTRL_note_en 1023 = false ∧ (queued [[], []]).queueDepth 1023 ≤ (queued [[], []]).queueHeld 1023 ∧
    (regs [(Fld.WVR_Q_CTRL_overrun_event_en, 1023, 0)] (queued [[], []])).flag Fld.WVR_Q_CTRL_overrun_event_en 1023 = false ∧
    (regs [(Fld.WVR_Q_CTRL_closed, 1023, 1)] (queued [])).flag Fld.WVR_Q_CTRL_closed 1023 = true ∧ up.flag Fld.WVR_Q_CFG_valid 1023 = false ∧
    (regs [(Fld.HI_PART_ID_lid, 31, 1), (Fld.LID_PART_tdisp, 31, 2)] (queued [])).underLid 31 = true ∧
    (regs [(Fld.HI_PART_ID_lid, 31, 1), (Fld.LID_PART_tdisp, 31, 2)] (queued [])).get Fld.LID_PART_tdisp 31 = 2 := by decide +kernel

theorem test_wit_completion : answered.flag Fld.WVR_Q_CFG_kind 1022 = true ∧ answered.queueOwner 1022 = some 31 ∧ answered.underLid 31 = false ∧
    (answered.queueAt 1022).head = bytesOf 64 [] :: [] ∧ answered.flag Fld.WVR_Q_CTRL_note_en 1022 = false ∧ (answered.queueAt 1022).tail = [] ∧
    ((queued []).queueAt 1022).head = [] ∧ (63 : Nat) ≠ 64 ∧ (queuedAt 1 []).ctxQueue 2047 1 = some 0 ∧
    answered.queueHeld 1022 < answered.queueDepth 1022 ∧ ((queued []).fillQueue 1022).queueAt 1022 = (queued []).queueAt 1022 ∧
    (regs [(Fld.WVR_Q_PROD_count, 1022, 2)] answered).queueDepth 1022 ≤ (regs [(Fld.WVR_Q_PROD_count, 1022, 2)] answered).queueHeld 1022 ∧
    ((answered.onCtx 2047 (fun c => { c with item := some [] })).ctxAt 2047).item = some [] ∧ (answered.ctxAt 2047).item = none ∧ up.ctxQueue 2047 1 = none := by
  decide +kernel

/-- Tables in channel 255 that map the page at address 0 by a leaf. -/
def mapped (s : State) (leaf : Nat) : State :=
  { regs [(Fld.XL_ROOT_LO_root_lo, 63, 0), (Fld.XL_ROOT_HI_root_hi, 63, 0xFF), (Fld.HI_CARVE_MAP_channels, 255, 0xC0000000)] s with
    hbm := (List.range 5).foldl (fun m i => m.write (0xFF0000000000 + 4096 * i)
      (leBytes 8 (if i = 4 then leaf else 1 + (i + 1) * 2 ^ 16 + 0xFF * 2 ^ 44))) [] }

/-- A leaf of home T2 with every right, in the first frame of channel 254. -/
def here : Nat := 0x1F + 0xFE000000 * 2 ^ 12

/-- One of home T3 on module 2. -/
def away : Nat := 0x3F + 2 * 2 ^ 12

/-- The route of basket 63 to module 2 goes by port 78, which is READY. -/
def routed (s : State) : State :=
  { regs [(Fld.WF_PORT_STATE_state, 78, 3), (Fld.WF_PORT_PEER_peer, 78, 2), (Fld.WF_PORT_PEER_peer_valid, 78, 1)] s with
    pieces := [(63, { Piece.none with sec := { Section.none with routes := [(2, 1, 2 ^ 78)] } })] }

theorem test_wit_editTableAway : ((routed (mapped { editing 3 5 0 1 1 with objects := [] } away)).tableReady 63 [] []).1 = .away := by
  decide +kernel

/-- An entry of the last queue lies in its ring at address 0. -/
def spilled : State :=
  { mapped (queued []) here with
    queues := [(1023, { QueueData.empty with ring := 1 })], pieces := [(63, { Piece.none with chans := 2 ^ 255, sec := { Section.none with queues :=
      [{ queue := 1023, ctx := 2047, kind := 0, depth := 2, ring := 0 }] } })] }

theorem test_wit_fill : (spilled.queueAt 1023).ring ≠ 0 ∧ (spilled.queueAt 1023).head.length < 8 ∧ (queued []).halted = false := by decide +kernel

theorem test_wit_fetchedEntry : ∃ bs u, spilled.devRead (spilled.queueBasket 1023) (spilled.ctxAt (spilled.get Fld.WVR_Q_CFG_context 1023)).fetched
    (spilled.ringSlot 1023 (spilled.get Fld.WVR_Q_CONS_count 1023 + (spilled.queueAt 1023).head.length)) 64 0 (spilled.get Fld.WVR_Q_CFG_context 1023) = (.ok bs, u) :=
  ⟨List.replicate 64 0, exists_of_fst _ _ (by decide +kernel)⟩

/-- A command entry with an opcode; byte 63 of it must be 0. -/
def entry (op last : Nat) : List Byte := bytesOf 64 [(0, 1, op), (63, 1, last)]

theorem test_wit_take : ∀ x ∈ [((fun o => o == 0 || decide (4 < o) : Nat → Bool), 0, 0), ((fun o => o == 0 || decide (4 < o)), 255, 0), ((· == 2), 2, 0), ((· == 2), 2, 1),
    ((· == 3), 3, 0), ((· == 3), 3, 1), ((· == 4), 4, 0), ((· == 4), 4, 1)], ∃ k u, (queuedAt 1 [entry x.2.1 x.2.2]).takeCmd 2047 x.1 =
      some (k, decide (4 < x.2.1) || decide (x.2.2 = 1), u) := by
  intro x hx
  exact exists_of_map _ _ ((by decide +kernel : ∀ x ∈ [((fun o => o == 0 || decide (4 < o) : Nat → Bool), 0, 0), ((fun o => o == 0 || decide (4 < o)), 255, 0), ((· == 2), 2, 0),
    ((· == 2), 2, 1), ((· == 3), 3, 0), ((· == 3), 3, 1), ((· == 4), 4, 0), ((· == 4), 4, 1)], ((queuedAt 1 [entry x.2.1 x.2.2]).takeCmd 2047 x.1).map (fun y => y.2.1) =
      some (decide (4 < x.2.1) || decide (x.2.2 = 1))) x hx)

theorem test_wit_takeKernel : ∀ n ∈ [0, 1], ∃ k u, ((queuedAt 1 [entry 1 n]).passBoundary 2047).takeCmd 2047 (· == 1) = some (k, decide (n = 1), u) := by
  intro n hn
  exact exists_of_map _ _ ((by decide +kernel : ∀ n ∈ [0, 1], (((queuedAt 1 [entry 1 n]).passBoundary 2047).takeCmd 2047 (· == 1)).map (fun y => y.2.1) =
    some (decide (n = 1))) n hn)

theorem test_wit_takeNone : (queuedAt 1 []).takeCmd 2047 (· == 1) = none ∧ (queuedAt 1 [entry 0 0]).get Fld.WVR_CTX_STATE_state 2047 = 1 ∧
    (regs [(Fld.WVR_CTX_CTRL_stop, 2047, 1)] (queuedAt 1 [])).flag Fld.WVR_CTX_CTRL_stop 2047 = true := by decide +kernel

/-- A command of an opcode taken at time 0, with a timeout. -/
def command (op timeout : Nat) : Cmd :=
  { opcode := op, quiet := false, id := 0, addr := 0, value := 0, timeout := timeout, status := 0, queue := 1023, seq := 0, cycles := 0, time := 0 }

/-- A kernel over 2 modules with lead `lead`. -/
def kernel (lead : Nat) (w : Option StartWait) (gathering : Bool) : Kernel :=
  { desc := bytesOf 128 [(0, 8, 77), (0x70, 2, lead), (0x72, 2, 2)], rankMap := [(1, 0, 1), (0, 1, 1)], objects := [], waiting := w, since := 0, started := true, nextShard := 0,
    ended := 0, fault := none, faults := 0, stopped := false, counts := [], wrap := false, clip := false, esc := 0, opsDone := 0, cycles := 0, raised := 0,
    blocks := [], gathering := gathering, fmtMask := 0, cvtMask := 0, seals := [], sealedAll := false, strands := [], replay := false, tables := [],
    manifest := [], pinned := 0, short := false, result := none }

/-- Context 2047 runs a command, a kernel, a step; the deadline of a wait since 0 has passed. -/
def inCommand (k : Option Cmd) (n : Option Kernel) (r : Option StepRun) : State :=
  { regs [(Fld.WVR_TIME_HI_time_hi, 0, 1), (Fld.WVR_CTX_STATE_state, 2047, 2)] (queued []) with
    contexts := [(2047, { Context.none with cmd := k, kernel := n, step := r })] }

theorem test_wit_kernels : ((inCommand (some (command 1 0)) none none).passBoundary 2047).takeCmd 2047 (· == 1) = none ∧
    ((inCommand (some (command 1 0)) none none).ctxAt 2047).cmd = some (command 1 0) ∧ (command 1 0).opcode = 1 ∧ (command 2 0).opcode ≠ 1 ∧
    ((inCommand (some (command 1 0)) none none).ctxAt 2047).kernel = none ∧ ((inCommand (some (command 1 0)) none none).ctxAt 2047).item = none ∧
    ((inCommand none (some (kernel 0 none true)) none).ctxAt 2047).kernel = some (kernel 0 none true) ∧ up.me = 0 ∧
    (inCommand none (some (kernel 0 none true)) none).isLead (kernel 0 none true).desc = true ∧ (1 : ModuleId).toNat ≠ up.me ∧
    (∃ x ∈ (kernel 0 none true).rankMap, x.1 = (1 : ModuleId).toNat) ∧ (∀ x ∈ (kernel 0 none true).blocks, x.1 ≠ (1 : ModuleId).toNat) ∧
    up.isLead (kernel 1 none false).desc = false ∧ (∀ c ∈ up.contexts, c.2.kernel = none) := by decide +kernel

theorem test_wit_waits : (inCommand none (some (kernel 1 (some .span) false)) none).contexts.find? (fun c => match c.2.kernel with
      | none => false
      | some k => k.waiting == some .span && fieldAt k.desc 0 8 == (77 : BitVec 64).toNat &&
        (inCommand none (some (kernel 1 (some .span) false)) none).basketUid ((inCommand none (some (kernel 1 (some .span) false)) none).ctxBasket c.1) ==
          (9 : BitVec 64).toNat && kLead k.desc == (1 : ModuleId).toNat) =
      some (2047, { Context.none with kernel := some (kernel 1 (some .span) false) }) ∧
    (inCommand none (some (kernel 1 (some .span) false)) none).pastDeadline (kernel 1 (some .span) false).since = true ∧
    up.pastDeadline (kernel 1 (some .span) false).since = false ∧ (kernel 1 (some .span) false).result = none ∧
    (inCommand none (some (kernel 0 none true)) none).gathered (kernel 0 none true) = false ∧ (kernel 0 none true).waiting = none ∧
    (kernel 0 none true).gathering = true := by decide +kernel

/-- A step of one JOIN of one member under lead `lead`, or of no entry. -/
def aStep (lead entries : Nat) (applied : Bool) : StepRun :=
  { record := bytesOf 96 [(0, 8, 5), (8, 2, entries), (0x0A, 1, 1), (0x0C, 2, lead), (0x0E, 2, 2), (64, 1, 1), (72, 2, 1), (76, 4, 64), (80, 4, 16)],
    named := [], outcomes := [], outs := [], joins := [none], before := [], applied := applied, since := 0 }

/-- A step that waits for the lead's verdicts has been applied. -/
theorem test_wit_steps : ((inCommand (some (command 2 0)) none (some (aStep 0 1 false))).ctxAt 2047).step = some (aStep 0 1 false) ∧
    (aStep 0 1 false).applied = false ∧ (aStep 0 1 true).applied = true ∧
    (inCommand (some (command 2 0)) none (some (aStep 0 1 false))).stepBusy 63 (aStep 0 1 false).named = false ∧
    (inCommand (some (command 2 0)) none (some (aStep 0 0 false))).stepRefusal 63 (aStep 0 0 false).record = some (none, 1, refusalInfo 5 [8]) ∧
    (inCommand (some (command 2 0)) none (some (aStep 0 1 false))).stepRefusal 63 (aStep 0 1 false).record = none ∧
    (inCommand (some (command 2 0)) none (some (aStep 0 1 false))).stepReads 63 (aStep 0 1 false).record = ([], []) ∧
    ((inCommand (some (command 2 0)) none (some (aStep 0 1 false))).readStep 2047 1 []).1 = .ok [] ∧
    ((inCommand (some (command 2 0)) none (some (aStep 0 1 false))).readStep 2047 1 [(0, 4)]).1 = .fault 0 0 0x0C ∧
    ((routed (mapped (inCommand (some (command 2 0)) none (some (aStep 0 1 false))) away)).readStep 2047 1 [(0, 4)]).1 = .away ∧
    fieldAt (aStep 0 1 false).record 0x0C 2 % 2 ^ 14 = up.me ∧ fieldAt (aStep 1 1 true).record 0x0C 2 % 2 ^ 14 ≠ up.me ∧
    (∀ o ∈ (aStep 0 1 false).outcomes, o.1 ≠ 1) ∧ (aStep 1 1 true).awaits = true ∧ (aStep 1 1 false).awaits = false ∧
    ((queuedAt 1 []).ctxAt 2047).step = none ∧ (queuedAt 1 []).takeCmd 2047 (· == 2) = none ∧ (queued []).cmdIs 2047 2 = false ∧
    (inCommand (some (command 2 0)) none none).cmdIs 2047 2 = true ∧ (inCommand (some (command 2 0)) none none).takeCmd 2047 (· == 2) = none := by
  decide +kernel

/-- The outcomes of module 1 for step 5 have come before it began. -/
def early : State := { queued [] with contexts := [(2047, { Context.none with early := [(5, 1, [true])] })] }

theorem test_wit_stepIds : (aStep 0 1 false).id = (5 : BitVec 64).toNat ∧ (aStep 0 1 false).id ≠ (6 : BitVec 64).toNat ∧ (1 : ModuleId).toNat ≠ up.me ∧ (0 : ModuleId).toNat = up.me ∧
    ((queued []).ctxAt 2047).early = [] ∧ (∃ o ∈ (early.ctxAt 2047).early, o.1 = (5 : BitVec 64).toNat ∧ o.2.1 = (1 : ModuleId).toNat) := by decide +kernel

/-- A watch of context 2047's command that polls the fence at 0. -/
def poll : Watch := { die := 1, basket := 63, va := 0, target := 1, waiter := .command 2047, polls := true, polled := 0 }

/-- A response of module 1 to a command of context 2047. -/
def wake (status : Nat) : RespMsg :=
  { src := 1, ctx := 2047, shard := 0, entry := 0, gen := 0, kind := 5, status := BitVec.ofNat 4 status }

/-- An operation at ledger entry 63 that waits on the fence at 16. -/
def fenceOp : OpRec :=
  { index := 0, order := 0, desc := [], entry := some 63, waits := [.fence 16], pages := [], places := [], fetched := [], back := [], top := none, parts := [], sent := true, ready := false,
    fault := none }

/-- It is in flight on the only slot of context 2047. -/
def waitingOp : State :=
  { queued [] with
    slots := [(2047, { Slot.none with bound := true, ctx := 2047 })],
    ledger := [(2047 * 64 + 63, { used := true, gen := 255, deadline := none })],
    shards := [(2047, { ShardRun.none with active := true, shard := 255, ops := [fenceOp] })] }

theorem test_wit_fences : (mapped owned here).get Fld.CAP_BASKET_state 63 ≠ 0 ∧ (up.get Fld.CAP_BASKET_state 63 = 0) ∧ (65520) % 16 = 0 ∧ 8 % 16 ≠ 0 ∧
    (mapped owned here).fenceGet 63 (65520) (.here (0xFE0000000000 + 65520)) = some (0, 0) ∧ max 0 (2 ^ 64 - 2) < 2 ^ 64 - 1 ∧
    (inCommand (some (command 3 1)) none none).cmdIs 2047 3 = true ∧ (command 3 1).timeout ≠ 0 ∧
    (command 3 1).time + (command 3 1).timeout ≤ (inCommand (some (command 3 1)) none none).time ∧ (command 3 0).timeout = 0 ∧
    (regs [(Fld.WVR_TIME_HI_time_hi, 0, 0)] (inCommand (some (command 3 1)) none none)).time < (command 3 1).time + (command 3 1).timeout ∧
    (wake 0).kind = 5 ∧ { wake 0 with kind := 6 }.kind ≠ 5 ∧ respOfCommand (wake 1) = true ∧ up.respOp (wake 1) = none ∧
    respOfCommand { wake 1 with entry := 63 } = false ∧ up.respOp { wake 1 with entry := 63 } = none ∧
    (waitingOp.respOp { wake 0 with shard := 255, entry := 63, gen := 255 }).isSome = true ∧ (waitingOp.fenceOp 255 7 63).isSome = true := by decide +kernel

/-- Where a fence lies: elsewhere, on a page that moves, here, or nowhere. -/
theorem test_wit_fencePlaces : (∃ u, (mapped (routed owned) away).fenceFind 63 0 0 = (.away 2, u)) ∧
    (∃ u, ({ mapped owned 0x19F with moves := [moving (.migrate 0)] } : State).fenceFind 63 0 0 = (.wait 7, u)) ∧
    (∃ u, (mapped owned here).fenceFind 63 (65520) 0 = (.here (0xFE0000000000 + 65520), u)) ∧
    (∃ u, (mapped owned away).fenceFind 63 0 0 = (.fault 0x0F 2, u)) := by
  refine ⟨exists_of_fst _ _ ?_, exists_of_fst _ _ ?_, exists_of_fst _ _ ?_, exists_of_fst _ _ ?_⟩ <;> decide +kernel

/-- What a fence operation of partition 31 comes to. -/
theorem test_wit_fenceSignals : (∃ t, (mapped owned here).signal 63 65520 0 0 (fenceOpWord 31) 5 0 = (.done, t)) ∧
    (∃ t, (mapped owned away).signal 63 65520 0 0 (fenceOpWord 31) 5 0 = (.fault 0x0F 2, t)) :=
  ⟨exists_of_fst _ _ (by decide +kernel), exists_of_fst _ _ (by decide +kernel)⟩

/-- The word of WVR_FENCE_OP_CMD with go for basket 63 and a code. -/
def fenceWord (code : Nat) : Nat := 63 + 2 ^ 16 + code * 2 ^ 8

theorem test_wit_polls : ({ up with watches := [poll] } : State).watches.find? (fun x => x.waiter == .command 2047 && x.polls) = some poll ∧
    (∀ x ∈ up.watches, x.waiter = .command 2047 → x.polls = false) ∧ up.time ≤ poll.polled ∧ poll.polled < (regs [(Fld.WVR_TIME_LO_time_lo, 0, 1)] up).time ∧
    owned.flag Fld.WVR_FENCE_OP_CMD_busy 31 = false ∧ bitOf (fenceWord 3) 16 = true ∧
    (owned.writeReg Fld.WVR_FENCE_OP_CMD_code.reg 31 (fenceWord 3)).basketOwner
      ((owned.writeReg Fld.WVR_FENCE_OP_CMD_code.reg 31 (fenceWord 3)).get Fld.WVR_FENCE_OP_CMD_basket_index 31) = some 31 ∧
    (owned.writeReg Fld.WVR_FENCE_OP_CMD_code.reg 31 (fenceWord 3)).get Fld.WVR_FENCE_OP_CMD_code 31 ≤ 3 ∧
    3 < (owned.writeReg Fld.WVR_FENCE_OP_CMD_code.reg 31 (fenceWord 4)).get Fld.WVR_FENCE_OP_CMD_code 31 ∧
    (regs [(Fld.WVR_FENCE_OP_CMD_busy, 31, 1)] owned).flag Fld.WVR_FENCE_OP_CMD_busy 31 = true := by decide +kernel

theorem test_wit_pollRead : ∃ f u, ({ up with watches := [{ poll with polled := 1 }] } : State).pollFence poll = (f, u) := ⟨_, _, rfl⟩

/-- Context 2047 is in a state; core 255's slots 6 and 7 hold it and another, one running. -/
def stopping (x : Nat) : State :=
  { regs [(Fld.WVR_CTX_STATE_state, 2047, x), (Fld.WVR_CTX_CTRL_stop, 2047, 1)] (queued []) with
    slots := [(2046, { bound := true, ctx := 2047, state := .running, pass := 1, stride := 1, ran := 0 }), (2047, { bound := true, ctx := 2046, state := .runnable, pass := 0, stride := 1, ran := 0 })] }

theorem test_wit_stop : (stopping 2).takes (.host 31) (ctxCtrl 2047) = true ∧ (stopping 2).takes (.host 30) (ctxCtrl 2047) = false ∧
    bitOf 1 0 = true ∧ bitOf 2 0 = false ∧ bitOf 2 1 = true ∧
    ((stopping 2).mmioWrite (.host 31) (ctxCtrl 2047) 1).get Fld.WVR_CTX_STATE_state 2047 = 2 ∧
    (((stopping 2).mmioWrite (.host 31) (ctxCtrl 2047) 1).ctxAt 2047).stepRunning = false ∧
    ((stopping 5).mmioWrite (.host 31) (ctxCtrl 2047) 2).get Fld.WVR_CTX_STATE_state 2047 = 5 ∧ (stopping 4).get Fld.WVR_CTX_STATE_state 2047 = 4 ∧
    ((stopping 4).ctxAt 2047).stepRunning = false ∧ (stopping 4).opsOf 2047 = [] ∧ ((stopping 4).ctxAt 2047).cmd = none ∧
    ((stopping 4).ctxAt 2047).kernel = none ∧ ((stopping 4).ctxAt 2047).item = none ∧ (stopping 4).flag Fld.WVR_CTX_CTRL_discard 2047 = false ∧
    (stopping 4).runningSlot 255 = some 6 ∧ leastPass (((stopping 4).takeShares 255).contenders 255) = some 7 ∧
    up.runningSlot 255 = none := by decide +kernel
/-! ## Witnesses: tile operations -/

/-- Eight tensors: FP32 and BF16 in the slice, UINT32 in the slice, FP32 and BF16 in spaces 2 and 3. -/
def tensors : List (Nat × Nat) := [(0, 0), (1, 0), (14, 0), (0, 2), (1, 2), (0, 3), (1, 3), (1, 0)]

def tensorTable : List Byte :=
  tensors.flatMap (fun t => bytesOf 32 [(0, 2, 0x400), (16, 4, 256), (20, 4, 4), (24, 4, 64), (28, 1, t.1 + 32 * t.2)])

/-- A kernel of one operation a shard on this module alone, over 2 ranks. -/
def running : Kernel := { kernel 0 none false with desc := bytesOf 128 [(0x0E, 1, 8), (0x18, 4, 1), (0x36, 2, 2), (0x72, 2, 1)] }

/-- Core 255, at site 286, runs slot 7: the shard's next descriptor, the operations in flight and the kernel's table are there. -/
def onCore (d : Option (List Byte)) (os : List OpRec) : State :=
  { regs [(Fld.PW_HALF_gated, 3, 0), (Fld.LS_SLICE_len_seg, 2295, 16), (Fld.WVR_CTX_STATE_state, 2047, 2), (Fld.WVR_CTX_STATE_basket_index, 2047, 63)] owned with
    contexts := [(2047, { Context.none with kernel := some running })],
    slots := [(2047, { bound := true, ctx := 2047, state := .running, pass := 0, stride := 1, ran := 0 })],
    ledger := [(2047 * 64 + 63, { used := true, gen := 255, deadline := some 0 })],
    shards := [(2047, { ShardRun.none with active := true, shard := 1, head := d, ops := os })],
    localStore := Mem.write [] (2 ^ 21 * 286 + 0x100) tensorTable }

/-- A descriptor: its opcode, the bytes 1 to 3, and fields. -/
def descriptor (op own w0 w1 : Nat) (fs : List (Nat × Nat × Nat)) : List Byte := bytesOf 32 ([(0, 1, op), (1, 1, own), (2, 1, w0), (3, 1, w1)] ++ fs)

/-- One descriptor of each row that may issue at once: IDLE, MATMUL, VEC, VEC_REDUCE, CONVERT, LOAD, STORE, GATHER, a send, a receive, REDUCE_LONG, ATTENTION,
KV_APPEND, SAMPLE, FENCE_WAIT and FENCE_SIGNAL. -/
def eachRow : List (Nat × List (Nat × Nat × Nat)) :=
  [(0, []), (1, [(8, 1, 1), (9, 1, 1), (28, 4, 1)]), (2, [(24, 4, 1)]), (3, [(24, 4, 1)]), (4, [(9, 1, 1)]), (8, [(8, 1, 3)]),
    (9, [(9, 1, 3)]), (10, [(8, 1, 3), (10, 1, 2)]), (12, [(26, 2, 1)]), (12, [(8, 1, 1), (26, 2, 1)]), (13, [(18, 2, 1)]),
    (16, [(8, 1, 1), (9, 1, 6), (10, 1, 6), (11, 1, 1)]), (17, [(8, 1, 1), (9, 1, 6)]), (18, [(9, 1, 2), (10, 1, 2)]), (24, []), (25, [])]

theorem exists_of_any {α : Type} (o : Option α) (p : α → Bool) (h : o.any p = true) : ∃ a, o = some a ∧ p a = true := by
  cases o with
  | none => cases h
  | some a => exact ⟨a, rfl, h⟩

/-- The slot issues from a descriptor. -/
def heads (s : State) (d : List Byte) (p : OpEnv → Bool) : Bool :=
  match s.opEnv 255 7 with
  | some e => s.mayIssue 255 7 && (s.fetchHead e).1 == some d && p e
  | none => false

theorem exists_of_heads (s : State) (d : List Byte) (p : OpEnv → Bool) (h : heads s d p = true) :
    s.mayIssue 255 7 = true ∧ ∃ e u, s.opEnv 255 7 = some e ∧ s.fetchHead e = (some d, u) ∧ p e = true := by
  unfold heads at h
  split at h
  · rename_i e he
    simp only [Bool.and_eq_true, beq_iff_eq] at h
    obtain ⟨u, hu⟩ := exists_of_fst (s.fetchHead e) (some d) h.1.2
    exact ⟨h.1.1, e, u, he, hu, h.2⟩
  · cases h

/-- The state whose slot heads for the descriptor of a row. -/
def headed (x : Nat × List (Nat × Nat × Nat)) : State := onCore (some (descriptor x.1 0x7F 0x7F 0x7F x.2)) []

theorem test_wit_issue : ∀ x ∈ eachRow, (headed x).mayIssue 255 7 = true ∧ ∃ e u, (headed x).opEnv 255 7 = some e ∧
    (headed x).fetchHead e = (some (descriptor x.1 0x7F 0x7F 0x7F x.2), u) ∧ (((headed x).headRefusal e (descriptor x.1 0x7F 0x7F 0x7F x.2)).isNone &&
      (headed x).issuable e ((headed x).shardAt 255 7) (descriptor x.1 0x7F 0x7F 0x7F x.2)) = true := by
  intro x hx
  exact exists_of_heads _ _ _ ((by decide +kernel : ∀ x ∈ eachRow, heads (headed x) (descriptor x.1 0x7F 0x7F 0x7F x.2) (fun e =>
    ((headed x).headRefusal e (descriptor x.1 0x7F 0x7F 0x7F x.2)).isNone &&
      (headed x).issuable e ((headed x).shardAt 255 7) (descriptor x.1 0x7F 0x7F 0x7F x.2)) = true) x hx)

theorem test_wit_refused : heads (onCore (some (descriptor 0xFF 0 0 0 [])) []) (descriptor 0xFF 0 0 0 [])
      (fun e => ((onCore none []).headRefusal e (descriptor 0xFF 0 0 0 [])) == some (1, refusalInfo 4 [0])) = true ∧
    heads ({ headed (0, []) with tags := [(2047 * 64 + 63, 1)] }) (descriptor 0 0x7F 0x7F 0x7F []) (fun e => ((onCore none []).headRefusal e (descriptor 0 0x7F 0x7F 0x7F [])).isNone) = true := by
  decide +kernel

theorem test_wit_holds : ({ headed (0, []) with tags := [(2047 * 64 + 63, 1)] } : State).tagAt 255 7 63 ≠ 0 ∧ opFlag (descriptor 0 0 0x7F 0 []) 2 6 = true ∧
    opFlag (descriptor 0 0 0 0x7F []) 3 6 = true ∧ opFlag (descriptor 0 0x80 0 0 []) 1 7 = true ∧ ((onCore none [fenceOp]).shardAt 255 7).ops ≠ [] ∧
    opFlag (descriptor 0 0x7F 0 0 []) 1 6 = true ∧ 255 ≤ ({ headed (0, []) with tags := [(2047 * 64 + 63, 255)] } : State).tagAt 255 7 63 ∧
    up.mayIssue 255 7 = false ∧ (∃ x ∈ (onCore none [{ fenceOp with entry := none }]).opsOf 2047, x.2.2.entry = none) := by decide +kernel

theorem test_wit_unfetched : ∃ e u, (onCore none []).opEnv 255 7 = some e ∧ (onCore none []).fetchHead e = (none, u) := by
  have h : ((onCore none []).opEnv 255 7).any (fun e => ((onCore none []).fetchHead e).1 == none) = true := by decide +kernel
  obtain ⟨e, he, hf⟩ := exists_of_any _ _ h
  obtain ⟨u, hu⟩ := exists_of_fst ((onCore none []).fetchHead e) none (by simpa using hf)
  exact ⟨e, u, he, hu⟩

/-- An operation of a descriptor, with ledger entry 63. -/
def anOp (d : List Byte) (ready : Bool) (ws : List Wait) : OpRec := { fenceOp with desc := d, waits := ws, ready := ready, sent := false }

/-- A reduction under the canonical tree. -/
def treeOn (o : OpRec) : State :=
  { onCore none [o] with contexts := [(2047, { Context.none with kernel := some { running with desc := putAt running.desc 9 1 0x10 } })] }

theorem test_wit_complete : ((onCore none [anOp (descriptor 8 0x7F 0 0 []) true []]).opEnv 255 7).isSome = true ∧
    (onCore none [anOp (descriptor 8 0x7F 0 0 []) true []]).opAt 255 7 0 = some (anOp (descriptor 8 0x7F 0 0 []) true []) ∧
    (onCore none [anOp (descriptor 8 0x7F 0 0 []) true []]).firstOfUnit 255 (anOp (descriptor 8 0x7F 0 0 []) true []) = true ∧
    (onCore none [anOp (descriptor 1 0 0 0 []) true [], { anOp (descriptor 1 0 0 0 []) true [] with index := 1, order := 1 }]).firstOfUnit 255
      { anOp (descriptor 1 0 0 0 []) true [] with index := 1, order := 1 } = false ∧
    (anOp (descriptor 8 0x7F 0 0 []) true []).fault = none ∧ (anOp (descriptor 8 0x7F 0 0 []) true []).back = [] ∧
    (onCore none []).opAt 255 7 0 = none ∧ ((treeOn (anOp (descriptor 13 0 0 0 [(18, 2, 1)]) false [])).opEnv 255 7).any
      (fun e => e.treeAfter (anOp (descriptor 13 0 0 0 [(18, 2, 1)]) false [])) = true ∧
    ((onCore none []).opEnv 255 7).any (fun e => e.treeAfter (anOp (descriptor 13 0 0 0 [(18, 2, 1)]) false [])) = false ∧
    (treeOn (anOp (descriptor 13 0 0 0 [(18, 2, 1)]) false [])).opAt 255 7 0 = some (anOp (descriptor 13 0 0 0 [(18, 2, 1)]) false []) ∧
    (onCore none [anOp (descriptor 24 0 0 0 []) false [.fence 16]]).overdue 255 7 63 = some (anOp (descriptor 24 0 0 0 []) false [.fence 16]) ∧
    opCode (descriptor 24 0 0 0 []) = 0x18 ∧
    (onCore none [anOp (descriptor 8 0 0 0 []) false [.written 1 0]]).overdue 255 7 63 = some (anOp (descriptor 8 0 0 0 []) false [.written 1 0]) ∧
    opCode (descriptor 8 0 0 0 []) ≠ 0x18 ∧ (onCore none []).overdue 255 7 63 = none := by decide +kernel

/-- A window of the clip monitor. -/
def clips (n c : Nat) (en : Bool) : ClipWindow := { n := n, c := c, limit := 0xFFFF, log2 := 10, en := en }

/-- It is slot 7's. -/
def monitored (w : ClipWindow) : State := { onCore none [] with shards := [(2047, { ShardRun.none with active := true, shard := 1, window := some w })] }

theorem test_wit_clips : ((monitored (clips 1024 1024 true)).shardAt 255 7).window = some (clips 1024 1024 true) ∧
    (monitored (clips 1024 1024 true)).siteOf 255 = some 286 ∧ (clips 1023 0 true).full = false ∧ (clips 1024 0 true).full = true ∧
    0xFFFF * 1024 < 1024 * 65536 ∧ (clips 1024 1023 true).c * 65536 ≤ (clips 1024 1023 true).limit * (clips 1024 1023 true).n ∧
    (clips 1024 1024 false).en = false ∧ ((onCore none []).shardAt 255 7).window = none := by decide +kernel

/-- A response of module 2 to the operation at entry 63. -/
def answer (kind status : Nat) : RespMsg := { src := 2, ctx := 2047, shard := 1, entry := 63, gen := 255, kind := BitVec.ofNat 4 kind, status := BitVec.ofNat 4 status }

/-- A send to rank 1, which module 2 holds, waits for its take and pull. -/
def sending : State :=
  { onCore none [anOp (descriptor 12 0 0 0 [(24, 2, 1), (26, 2, 1)]) false [.take 2 1]] with
    contexts := [(2047, { Context.none with kernel := some { running with rankMap := [(0, 0, 1), (2, 1, 1)] } })] }

theorem test_wit_responses : (sending.respOp (answer 0 0)).isSome = true ∧ up.respOp (answer 0 0) = none ∧ respOfFenceOp (answer 0 0) = false ∧
    respOfDevice (answer 0 0) = false ∧ respOfCommand (answer 0 0) = false ∧ (answer 15 0).kind ≠ 2 ∧ (answer 15 0).kind ≠ 3 ∧ (answer 15 0).kind ≠ 6 ∧
    (answer 15 0).kind ≠ 4 ∧ (answer 15 0).kind ≠ 0 ∧ (answer 15 0).kind ≠ 1 ∧ (∃ w ∈ ([.take 2 1] : List Wait), Wait.answers 1 2 w = true) ∧
    (∀ w ∈ ([.take 2 1] : List Wait), Wait.answers 2 2 w = false) ∧ (∀ w ∈ ([.take 2 1] : List Wait), Wait.answers 0 3 w = false) ∧
    ([.take 2 1] : List Wait).find? (Wait.ofKind 0) = some (.take 2 1) ∧ (∀ w ∈ ([.take 2 1] : List Wait), Wait.ofKind 2 w = false) ∧
    (answer 0 15).status ≠ 0 ∧ (answer 0 15).status ≠ 2 ∧ (answer 0 15).status ≠ 3 ∧ (answer 0 2).status = 2 ∧ (answer 0 3).status = 3 ∧
    ([.take 2 1] : List Wait).find? (Wait.answers 0 2) = some (.take 2 1) ∧ (sending.opEnv 255 7).isSome = true ∧ sending.unreachable 63 2 = true ∧
    (routed sending).unreachable 63 2 = false ∧
    ((routed sending).opEnv 255 7).any (fun e => ((routed sending).sendPackets e (anOp (descriptor 12 0 0 0 [(24, 2, 1), (26, 2, 1)]) false [.take 2 1]) 2).1.isOk) = true := by
  decide +kernel

theorem test_wit_statusFault : ∃ c n u, sending.statusFault 63 2 0 15 = ((c, n), u) := ⟨_, _, _, rfl⟩

theorem test_wit_ready : ({ up with moves := [{ moving (.spillT3 2 5) with ready := false }] } : State).moves.find? (fun m => !m.ready && (match m.kind with
      | .spillT3 n _ => n == (2 : ModuleId).toNat
      | _ => false)) = some { moving (.spillT3 2 5) with ready := false } ∧ up.moves = [] ∧ (answer 4 0).kind = 4 := by decide +kernel
/-! ## Witnesses: links and packets -/

/-- A flit of zeros but for its link_seq and its crc. -/
def flit (seq : Nat) : BitVec 2048 := BitVec.ofNat 2048 (seq * 2 ^ 20 + flitCrc (leBytes 256 (seq * 2 ^ 20)) * 2 ^ 48)

/-- Port `p` is in a state, its far end module 2 by port 78; it is enabled. -/
def linked (p st : Nat) : State :=
  regs [(Fld.WF_PORT_STATE_state, p, st), (Fld.WF_PORT_CTRL_enable, p, 1), (Fld.WF_PORT_PEER_peer, p, 2), (Fld.WF_PORT_PEER_peer_valid, p, 1),
    (Fld.WF_PORT_PEER_peer_port, p, 78), (Fld.WF_CTRL_serving, 0, 1)] up

/-- It has received the flit before `seq`, and a group waits for its SEAL. -/
def grouped (seq : Nat) (enc : Nat) : State :=
  { regs [(Fld.WF_PORT_STATE_encrypted, 78, enc)] (linked 78 3) with ports := [(78, { Port.none with rxSeq := (seq + 255) % 256, group := [flit seq] })] }

theorem test_wit_flits : (linked 79 1).exchanges 79 = true ∧ (linked 79 3).exchanges 79 = true ∧ (linked 79 0).exchanges 79 = false ∧ (linked 79 4).exchanges 79 = false ∧
    flitCrc (flitBytes (flit 0)) = flitField (flit 0) 48 16 ∧ flitField (flit 0) 20 8 = ((linked 79 3).portAt 79).rxSeq + 1 - 256 ∧
    flitField (flit 255) 20 8 = 255 ∧ flitCrc (flitBytes (flit 255)) = flitField (flit 255) 48 16 ∧
    flitField (flit 0) 20 8 = (((grouped 0 1).portAt 78).rxSeq + 1) % 256 ∧ flitField (flit 1) 20 8 ≠ (((linked 79 3).portAt 79).rxSeq + 1) % 256 ∧
    ((grouped 0 1).portAt 78).group = flit 0 :: [] ∧ (grouped 0 1).flag Fld.WF_PORT_STATE_encrypted 78 = true ∧
    (grouped 0 0).flag Fld.WF_PORT_STATE_encrypted 78 = false ∧ (up.portAt 78).group = [] ∧ (linked 79 2).portState 79 = 2 := by decide +kernel

theorem test_wit_sent : ((sender 3 1 []).portAt 79).acks 0xFF = [] ∧ flitField (flit 0) 64 4 = 0 ∧ flitField (flit 0) 0 3 < 3 ∧ ((sender 3 1 []).portAt 79).unacked ≠ [] ∧
    (sender 2 1 []).portState 79 = 2 ∧ (sender 3 1 []).portState 79 = 3 ∧ (sender 4 1 []).portState 79 = 4 ∧ ((sender 3 0 []).portAt 79).unacked = [] ∧
    (sender 3 0 []).flag Fld.WF_PORT_STATE_encrypted 79 = false ∧ ((sender 3 0 []).portAt 79).rxSeq < 256 ∧ ((sender 3 0 []).portAt 79).owed.length = 9 := by
  decide +kernel

theorem test_wit_seal : (∃ tag : BitVec 128, (grouped 0 1).groupTag 78 = leBytes 16 tag.toNat) ∧ (∃ tag : BitVec 128, (grouped 0 1).groupTag 78 ≠ leBytes 16 tag.toNat) := by
  refine ⟨⟨BitVec.ofNat 128 (leNat ((grouped 0 1).groupTag 78)), ?_⟩, ⟨BitVec.ofNat 128 (leNat ((grouped 0 1).groupTag 78) + 1), ?_⟩⟩ <;> decide +kernel

theorem test_wit_train : (linked 78 0).portState 78 = 0 ∧ (linked 78 0).flag Fld.WF_PORT_CTRL_enable 78 = true ∧ (linked 78 0).run.phase = .running ∧
    (linked 78 0).fc.fenced.contains (292 + 78) = false ∧ (regs [(Fld.WF_PORT_CTRL_enable, 79, 0)] up).flag Fld.WF_PORT_CTRL_enable 79 = false ∧ (linked 78 1).portState 78 = 1 ∧
    (({ linked 78 4 with ports := [(78, { Port.none with training := some 3 })] } : State).portAt 78).training = some 3 ∧ isGlobalPort 78 = true ∧
    isGlobalPort 79 = false ∧ (linked 78 3).linkKeys 78 = false ∧ (linked 78 3).flag Fld.WF_CTRL_serving = true ∧ up.flag Fld.WF_CTRL_serving = false ∧
    (linked 78 2).portState (63 + (15 : Fin 16)) = 2 ∧ (grouped 0 1).flag Fld.WF_PORT_STATE_encrypted (63 + (15 : Fin 16)) = true ∧
    ((linked 79 2).settlePort 79).portState 79 = 2 ∧
    (({ linked 79 2 with ports := [(79, { Port.none with peerServing := true })] } : State).settlePort 79).portState 79 = 3 := by decide +kernel

/-- Port 79's lanes are 0 and 1; lane 1 retrains. -/
def lanes (spare n : Nat) : State :=
  { regs [(Fld.WF_PORT_STATE_lane_hi, 79, 1), (Fld.WF_PORT_STATE_spare_used, 79, spare), (Fld.WF_LANE_RECOVERY_rec_b, 79, n)] (linked 79 3) with
    ports := [(79, { Port.none with training := some 1 })] }

theorem test_wit_lost : (linked 79 3).portState 79 = 3 ∧ lossSeen (.idle 500) = true ∧ lossSeen (.idle 499) = false ∧ lossSeen (.silent 128) = true ∧
    (linked 79 3).flag Fld.WF_PORT_PEER_peer_valid 79 = true ∧ up.flag Fld.WF_PORT_PEER_peer_valid 79 = false ∧ (linked 79 4).portState 79 = 4 ∧
    ((linked 79 4).portAt 79).lostAt + 10000 ≤ (regs [(Fld.WVR_TIME_LO_time_lo, 0, 10000)] (linked 79 4)).time ∧
    (regs [(Fld.WVR_TIME_LO_time_lo, 0, 9999)] (linked 79 4)).time < ((linked 79 4).portAt 79).lostAt + 10000 ∧
    ({ up with lostModules := [16383] } : State).moduleLost 16383 = true ∧ up.moduleLost 16383 = false ∧ ¬ 2 < 2 ∧ 1 < 2 := by decide +kernel

theorem test_wit_lanes : (lanes 0 0).laneBad .lossOfLock = true ∧ (lanes 0 0).laneBad (.codewords 0) = false ∧ (1 : Nat) ∈ (lanes 0 0).lanes 79 ∧
    (2 : Nat) ∉ (lanes 0 0).lanes 79 ∧ (lanes 0 0).flag Fld.WF_PORT_STATE_half_rate 79 = false ∧
    (regs [(Fld.WF_PORT_STATE_half_rate, 79, 1)] (lanes 0 0)).flag Fld.WF_PORT_STATE_half_rate 79 = true ∧
    ((lanes 0 0).portAt 79).training = some 1 ∧ (lanes 0 254).get (laneRec 1) 79 = 254 ∧ 254 < 255 ∧ (lanes 0 255).get (laneRec 1) 79 = 255 ∧
    (lanes 0 0).flag Fld.WF_PORT_STATE_spare_used 79 = false ∧ (lanes 1 0).flag Fld.WF_PORT_STATE_spare_used 79 = true ∧
    ((linked 79 3).portAt 79).training = none ∧ (lanes 0 0).takes .rim (0xA1008 + 0x40 * 79) = true ∧
    (lanes 0 0).takes (.host 31) (0xA1008 + 0x40 * 79) = false ∧ bitOf 2 1 = true ∧ (lanes 0 0).portState 79 ≠ 5 := by decide +kernel

/-- A packet of a type from module 2 for a module, of basket uid 9. -/
def packet (type dest : Nat) : Packet :=
  { dest := BitVec.ofNat 14 dest, src := 2, ptype := BitVec.ofNat 8 type, label := 0, hops := 1, keySlot := 0, keyEpoch := 0, uid := 9, ref := 0, ledger := 0,
    args := 0, payload := [], links := 2, place := 127 }

/-- Basket 63 is bound and this module serves; port 78 leads to module 3 and is in a state. -/
def serving (st : Nat) : State :=
  regs [(Fld.WF_CTRL_serving, 0, 1), (Fld.WF_PORT_STATE_state, 78, st), (Fld.WF_PORT_PEER_peer, 78, 3), (Fld.WF_PORT_PEER_peer_valid, 78, 1)] owned

/-- Slot 0 is of a class. -/
def memSlot0 (c : Nat) : State := regs [(Fld.KS_ATTR_state, 0, 1), (Fld.KS_ATTR_class, 0, c)] (serving 3)

theorem test_wit_packets : (packet 1 3).dest.toNat ≠ (serving 3).me ∧ isRimPacket (packet 1 3) = false ∧ (serving 3).heldUp 3 = false ∧
    (serving 3).nextPort (packet 1 3) = some 78 ∧ (serving 0).nextPort (packet 1 3) = none ∧
    (regs [(Fld.WF_PORT_PEER_not_ready, 78, 1)] (serving 2)).heldUp 3 = true ∧ isResponse 2 = true ∧ isResponse 1 = false ∧
    (packet 9 0).dest.toNat = (serving 3).me ∧ (packet 9 0).hops.toNat < (packet 9 0).links ∧ (serving 3).staleEpoch (packet 9 0) = false ∧
    (memSlot0 1).staleEpoch { packet 9 0 with keyEpoch := 1 } = false ∧ (memSlot0 1).staleEpoch { packet 9 0 with keyEpoch := 2 } = true ∧
    (memSlot0 4).staleEpoch { packet 9 0 with keyEpoch := 2 } = false ∧
    (serving 3).flag Fld.WF_CTRL_serving = true ∧ (serving 3).boundUid (9 : BitVec 64).toNat = some 63 ∧ (serving 3).boundUid (8 : BitVec 64).toNat = none ∧
    up.flag Fld.WF_CTRL_serving = false ∧ (serving 3).halted = false := by decide +kernel

/-- An earlier packet of the key waits, or is unacknowledged on port 78. -/
theorem test_wit_keys : (serving 3).keyWaits (packetKey (packet 1 3)) 79 = false ∧
    ({ serving 3 with forwardWait := [(78, packet 1 3)] } : State).keyWaits (packetKey (packet 1 3)) 79 = true ∧
    ({ serving 3 with sentOn := [⟨78, 77, packet 1 3⟩] } : State).keyWaits (packetKey (packet 1 3)) 79 = true ∧
    (serving 3).wordOp deviceWord = none := by decide +kernel

/-- A receive waits for a payload of rank 0, which it has asked for. -/
def receiving : State :=
  onCore none [{ anOp (descriptor 12 0 0 0 [(8, 1, 1), (26, 2, 1), (28, 4, 1)]) false [.payload 0] with sent := true }]

/-- A payload packet of rank 0: one FP32 value, or one BF16 value. -/
def payload (fmt : Nat) : Packet := { packet 6 0 with args := BitVec.ofNat 128 (fmt * 2 ^ 22 + 2 ^ 32 + 2 ^ 64), payload := bytesOf 4 [] }

theorem test_wit_data : (((serving 3).kernelOps 63 0).find? (fun x => opCode x.2.desc == 0x0C)).isNone = true ∧
    ((receiving.kernelOps 63 0).map (fun x => (opCode x.2.desc == 0x0C && x.2.sent && opField x.2.desc 10 1 == bitsOf (payload 0).args.toNat 0 8 &&
      x.2.waits.contains (.payload (bitsOf (payload 0).args.toNat 8 14)) &&
      (chunkAt x.2.fetched (payloadBase + bitsOf (payload 0).args.toNat 96 32) (max 1 (payload 0).payload.length)).isNone,
      decide (bitsOf (payload 0).args.toNat 22 5 = (exchangeTile x.1 x.2.desc true).t.fmt), decide (bitsOf (payload 0).args.toNat 32 32 = (exchangeTile x.1 x.2.desc true).n),
      decide (bitsOf (payload 0).args.toNat 64 32 = (exchangeTile x.1 x.2.desc true).m),
      (chunkAt (addChunk (payloadBase + bitsOf (payload 0).args.toNat 96 32) (payload 0).payload x.2.fetched) payloadBase
        (payloadLen (exchangeTile x.1 x.2.desc true).t (exchangeTile x.1 x.2.desc true).n (exchangeTile x.1 x.2.desc true).m)).isSome,
      decide (bitsOf (payload 1).args.toNat 22 5 ≠ (exchangeTile x.1 x.2.desc true).t.fmt)))) = [(true, true, true, true, true, true)] := by decide +kernel

/-- A reduction that waits for the partials of rank 1. -/
def reducing : OpRec := anOp (descriptor 13 0 0 0 [(16, 2, 1), (18, 2, 1)]) false [.partials 1]

theorem test_wit_partials : (((onCore none [reducing]).kernelOps 63 0).filter (fun x => opCode x.2.desc == 0x0D &&
      (Reduction.of x.2.desc).chan == (packet 7 0).args.toNat % 256 && x.2.waitsPartials)).map Prod.snd = [reducing] ∧
    ((onCore none [reducing]).kernelOps 63 0).all (fun x => (((onCore none [reducing]).takePartial x.1 x.2 (partialOf (packet 7 0))).opAt x.1.core x.1.slot x.2.index).isSome) = true := by
  decide +kernel

theorem test_wit_lines : (0 + 64) % 64 = 0 ∧ (bytesOf 64 []).length % 64 = 0 ∧ bytesOf 64 [] ≠ [] ∧ 63 % 64 ≠ 0 ∧
    (onCore none [fenceOp]).wordOp (2047 + 1 * 2 ^ 11 + 63 * 2 ^ 19 + 255 * 2 ^ 25) = some (255, 7, fenceOp) ∧ up.wordOp 2047 = none ∧ 2047 < 2048 ∧
    ((inCommand (some (command 2 0)) none none).ctxAt 2047).cmd ≠ none := by decide +kernel

/-- A page packet's page and chunk: the last of the page at 0. -/
theorem test_wit_pages : (61440 : Nat) / 65536 * 65536 = 0 ∧ 61440 = 0 + 4096 * 15 ∧ (bytesOf 4160 []).length ≥ 4096 ∧
    (serving 3).pageMove 63 0 2 = none ∧
    (∃ m w, ({ serving 3 with moves := [{ moving (.guestIn 2) with chunks := 2 ^ 15 - 1 }] } : State).pageMove 63 0 2 = some (m, w) ∧ m.kind = .guestIn 2 ∧
      m.chunks ||| 2 ^ 15 = 2 ^ 16 - 1 ∧ m.chunks ||| 2 ^ 14 ≠ 2 ^ 16 - 1) :=
  ⟨by decide +kernel, by decide +kernel, by decide +kernel, by decide +kernel, _, _, rfl, rfl, by decide +kernel, by decide +kernel⟩
/-! ## Witnesses: the host interface -/

/-- Partition 31 is on link 3, of 4, which is up or down; functions of the link master the bus; a request of core 255's LOAD is out there. -/
def hosted (up' write : Bool) (o : OpRec) : State :=
  { regs [(Fld.HI_LINK_STATE_up, 0, if up' then 8 else 0), (Fld.HI_LINK_CFG_bifur, 0, 2), (Fld.HI_ATTACH_bus_master, 31, 1), (Fld.HI_ATTACH_bus_master, 35, 1)] (onCore none [o]) with
    parts := [(0, 0), (31, 3)], dma := [{ id := 5, link := 3, part := 31, core := 255, slot := 7, op := 0, basket := 63, label := 0, write := write, addr := 0, va := 0, data := [], len := 64 }] }

/-- The LOAD that waits for it. -/
def loading : OpRec := anOp (descriptor 8 0 0 0 []) false [.dma 5]

theorem test_wit_dma : (hosted true false loading).linkUp 3 = true ∧ (hosted false false loading).linkUp 3 = false ∧ linkCount 2 = 4 ∧ (3 : Fin 4).val < linkCount 2 ∧
    linkCount 1 ≤ (2 : Fin 4).val ∧ (hosted false false loading).run.phase = .running ∧ (hosted true false loading).get Fld.HI_LINK_CFG_bifur = 2 ∧
    3 ∉ (hosted true false loading).run.trained ∧ (∃ fn ∈ (hosted true false loading).linkFns 3, fn = 35) ∧
    ((hosted true false loading).dma.find? (fun d => d.id == 5 && d.link == (3 : Fin 4).val)).isSome = true ∧
    (hosted true false loading).dma.find? (fun d => d.id == 4 && d.link == (3 : Fin 4).val) = none ∧ (hosted true false loading).linkOf 31 = 3 ∧
    (hosted true false loading).flag Fld.HI_ATTACH_bus_master 31 = true ∧ (hosted true false loading).asleep 31 = false ∧
    ({ hosted true false loading with d3hot := [31] } : State).asleep ((hosted true false loading).dmaFn 31 3 0) = true ∧ up.flag Fld.HI_ATTACH_bus_master 31 = false ∧
    (hosted true false loading).dma.all (fun d => (hosted true false loading).dmaOp d == some loading) = true ∧
    (hosted true false { loading with index := 1 }).dma.all (fun d => (hosted true false { loading with index := 1 }).dmaOp d == none) = true ∧
    (mapped (hosted true false loading) 0x4F).dma.all (fun d => (mapped (hosted true false loading) 0x4F).dmaRead 63 d == .ok (List.replicate 64 0)) = true ∧
    (hosted true false loading).dma.all (fun d => (hosted true false loading).dmaRead 63 d == .ok (List.replicate 64 0)) = true := by decide +kernel

/-- Partition 31 is a lid partition in a state, its interface in another. -/
def confidential (st tdisp : Nat) : State :=
  regs [(Fld.HI_PART_ID_lid, 31, 1), (Fld.LID_PART_state, 31, st), (Fld.LID_PART_tdisp, 31, tdisp)] { up with parts := [(0, 0), (31, 3)] }

theorem test_wit_tdisp : (31 : Fin 32).val ≠ 0 ∧ (confidential 2 0).partitions.contains 31 = true ∧ (confidential 2 0).partitions.contains 0 = true ∧
    up.partitions.contains 0 = false ∧ (confidential 2 0).partitions.contains 30 = false ∧ (confidential 2 2).underLid 31 = true ∧ up.underLid 31 = false ∧
    (confidential 2 3).get Fld.LID_PART_state 31 = 2 ∧ (confidential 2 0).get Fld.LID_PART_tdisp 31 = 0 ∧ (confidential 2 3).get Fld.LID_PART_tdisp 31 = 3 ∧
    (confidential 1 0).get Fld.LID_PART_state 31 ≠ 2 ∧ (confidential 2 1).get Fld.LID_PART_tdisp 31 = 1 ∧ (confidential 2 2).get Fld.LID_PART_tdisp 31 = 2 ∧
    Sparse.wf MsixVector.reset up.msix = true ∧ up.rimServes = true ∧ (inPhase .stopped).rimServes = false ∧ (1 : BitVec 8) ≠ 0 ∧ (1 : BitVec 8) ≠ 0xFF := by
  decide +kernel

theorem test_wit_measure_blocks : (up.measure (1 : BitVec 8).toNat).isSome = true ∧ up.measure (7 : BitVec 8).toNat = none ∧
    up.measure (0x30 : BitVec 8).toNat = none := ⟨rfl, by decide +kernel, by decide +kernel⟩
/-! ## Witnesses: owner and key slots -/

theorem leBytes_leNat : ∀ l : List Byte, leBytes l.length (leNat l) = l
  | [] => rfl
  | b :: bs => by
    have hb := b.isLt
    have h1 : (b.toNat + 256 * leNat bs) % 256 = b.toNat := by omega
    have h2 : (b.toNat + 256 * leNat bs) / 256 = leNat bs := by omega
    show BitVec.ofNat 8 ((b.toNat + 256 * leNat bs) % 256) :: leBytes bs.length ((b.toNat + 256 * leNat bs) / 256) = b :: bs
    rw [h1, h2, leBytes_leNat bs]
    simp

theorem leNat_lt : ∀ l : List Byte, leNat l < 256 ^ l.length
  | [] => by simp [leNat]
  | b :: bs => by
    have hb := b.isLt
    have ih := leNat_lt bs
    simp only [leNat, List.length_cons, Nat.pow_succ]
    omega

theorem leBytes_length : ∀ n v : Nat, (leBytes n v).length = n
  | 0, _ => rfl
  | n + 1, v => by simp [leBytes, leBytes_length n]

theorem sha512_length (m : List Byte) : (sha512 m).length = 64 := by
  simp [sha512, beBytes, leBytes_length]

/-- The bytes written to the words of LID_OWNER_DATA. -/
def withData (s : State) (l : List Byte) (n : Nat) : State := (List.range n).foldl (fun s i => s.set Fld.LID_OWNER_DATA_data i (fieldAt l (4 * i) 4)) s

theorem withData_get (s : State) (l : List Byte) (i : Nat) (hl : 4 * i + 4 ≤ l.length) : ∀ n, i < n →
    leBytes 4 ((withData s l n).get Fld.LID_OWNER_DATA_data i) = (l.drop (4 * i)).take 4
  | 0, h => by omega
  | n + 1, h => by
    rw [withData, List.range_succ, List.foldl_append]
    show leBytes 4 (((withData s l n).set Fld.LID_OWNER_DATA_data n (fieldAt l (4 * n) 4)).get Fld.LID_OWNER_DATA_data i) = _
    rw [State.get_set_ite]
    split
    · rename_i h'
      have hlen : ((l.drop (4 * i)).take 4).length = 4 := by simp; omega
      have := leNat_lt ((l.drop (4 * i)).take 4)
      rw [hlen] at this
      have hw : Fld.LID_OWNER_DATA_data.width = 32 := rfl
      have back := leBytes_leNat ((l.drop (4 * i)).take 4)
      rw [hlen] at back
      rw [← h', hw, Nat.mod_eq_of_lt (by simpa [fieldAt] using this), fieldAt, back]
    · exact withData_get s l i hl n (by omega)

theorem flatMap_words : ∀ (n k : Nat) (l : List Byte), l.length = 4 * k + 4 * n → (List.range n).flatMap (fun i => (l.drop (4 * (k + i))).take 4) = l.drop (4 * k)
  | 0, k, l, h => by simp; omega
  | n + 1, k, l, h => by
    rw [List.range_succ_eq_map, List.flatMap_cons, List.flatMap_map]
    have ih := flatMap_words n (k + 1) l (by omega)
    have e : (fun i => (l.drop (4 * (k + Nat.succ i))).take 4) = (fun i => (l.drop (4 * (k + 1 + i))).take 4) := by
      funext i; congr 2; omega
    rw [e, ih]
    have : 4 * (k + 1) = 4 * k + 4 := by omega
    rw [this, ← List.drop_drop, Nat.add_zero, List.take_append_drop]

theorem withData_bytes (s : State) (l : List Byte) (h : l.length = 64) : (withData s l 16).wordBytes Fld.LID_OWNER_DATA_data 16 = l := by
  have hw := flatMap_words 16 0 l (by omega)
  simp only [Nat.zero_add, Nat.mul_zero, List.drop_zero] at hw
  have hh : ∀ i ∈ List.range 16, leBytes 4 ((withData s l 16).get Fld.LID_OWNER_DATA_data i) = (l.drop (4 * i)).take 4 := fun i hi =>
    withData_get s l i (by rw [h]; have := List.mem_range.mp hi; omega) 16 (List.mem_range.mp hi)
  rw [State.wordBytes, List.flatMap_def, List.map_congr_left hh, ← List.flatMap_def]
  exact hw

theorem withData_other (s : State) (l : List Byte) (f : Field) (i : Nat) (h : (f.reg * 32 + f.lo) % 16384 ≠ 225 * 32) : ∀ n, (withData s l n).get f i = s.get f i
  | 0 => rfl
  | n + 1 => by
    rw [withData, List.range_succ, List.foldl_append]
    show ((withData s l n).set Fld.LID_OWNER_DATA_data n (fieldAt l (4 * n) 4)).get f i = _
    rw [State.get_set_field _ (by simpa [Fld.LID_OWNER_DATA_data] using h)]
    exact withData_other s l f i h n

theorem withData_rest (s : State) (l : List Byte) : ∀ n, { withData s l n with regs := s.regs } = s
  | 0 => rfl
  | n + 1 => by
    rw [withData, List.range_succ, List.foldl_append]
    exact withData_rest s l n

theorem rest_of_rest (x t s : State) (h : { x with regs := t.regs } = t) : ({ x with regs := s.regs } : State) = { t with regs := s.regs } := by
  rw [← h]

theorem rest_fields (x s : State) (h : { x with regs := s.regs } = s) : x.fuses = s.fuses ∧ x.nonceTime = s.nonceTime ∧ x.keys = s.keys :=
  ⟨(congrArg State.fuses h : ({ x with regs := s.regs } : State).fuses = s.fuses), (congrArg State.nonceTime h : ({ x with regs := s.regs } : State).nonceTime = _),
    (congrArg State.keys h : ({ x with regs := s.regs } : State).keys = _)⟩

theorem rest_ident (x s : State) (h : { x with regs := s.regs } = s) : x.ident = s.ident :=
  (congrArg State.ident h : ({ x with regs := s.regs } : State).ident = s.ident)

theorem time_congr {s t : State} (hl : t.get Fld.WVR_TIME_LO_time_lo 0 = s.get Fld.WVR_TIME_LO_time_lo 0)
    (hh : t.get Fld.WVR_TIME_HI_time_hi 0 = s.get Fld.WVR_TIME_HI_time_hi 0) : t.time = s.time := by
  simp only [State.time, State.get64, hl, hh]

theorem flag_congr {s t : State} {f : Field} (h : t.get f 0 = s.get f 0) : t.flag f = s.flag f := by
  simp only [State.flag, h]

theorem writeField_other (g : Field) (j : Nat) (s : State) (i v : Nat) (f : Field)
    (hf : f.acc = .ro ∨ (g.reg * 32 + g.lo) % 16384 ≠ (f.reg * 32 + f.lo) % 16384) :
    (s.writeField i v f).get g j = s.get g j ∧ { s.writeField i v f with regs := s.regs } = s := by
  rcases hf with hf | hf
  · have e : s.writeField i v f = s := by
      unfold State.writeField
      simp only [hf]
      split <;> rfl
    rw [e]
    exact ⟨rfl, rfl⟩
  · unfold State.writeField
    refine ⟨?_, ?_⟩ <;> (dsimp only; repeat' split) <;> first | rfl | exact State.get_set_field _ hf _ _ _

/-- A plain write of fields leaves every other field as it is. -/
theorem writeFields_other (g : Field) (j : Nat) : ∀ (l : List Field) (s : State) (i v : Nat),
    (∀ f ∈ l, f.acc = .ro ∨ (g.reg * 32 + g.lo) % 16384 ≠ (f.reg * 32 + f.lo) % 16384) → (l.foldl (fun s f => s.writeField i v f) s).get g j = s.get g j ∧
      { l.foldl (fun s f => s.writeField i v f) s with regs := s.regs } = s
  | [], s, _, _, _ => ⟨rfl, rfl⟩
  | f :: l, s, i, v, h => by
    have ih := writeFields_other g j l (s.writeField i v f) i v (fun x hx => h x (List.mem_cons_of_mem _ hx))
    have one := writeField_other g j s i v f (h f (List.mem_cons_self ..))
    refine ⟨ih.1.trans one.1, ?_⟩
    have h2 := congrArg (fun t : State => ({ t with regs := s.regs } : State)) ih.2
    exact h2.trans one.2

theorem writeReg_other (s : State) (r i v : Nat) (g : Field) (j : Nat)
    (h : ∀ f ∈ fieldsOf r, f.acc = .ro ∨ (g.reg * 32 + g.lo) % 16384 ≠ (f.reg * 32 + f.lo) % 16384) :
    (s.writeReg r i v).get g j = s.get g j ∧ { s.writeReg r i v with regs := s.regs } = s := by
  unfold State.writeReg
  exact writeFields_other g j (fieldsOf r) s i v h

/-- The response of the owner whose key is in slot 0 to an operation. -/
def answerTo (s : State) (op : Nat) : List Byte := s.ownerResponse (keyBytes (s.keyOf 0) 64) op

/-- The owner's response to an operation is in the words, and the word of LID_OWNER_CMD has been written. -/
@[irreducible] def responded (s : State) (op : Nat) (v : Word32) : State := (withData s (answerTo s op) 16).writeReg Fld.LID_OWNER_CMD_op.reg 0 v.toNat

theorem responded_get (s : State) (op : Nat) (v : Word32) (g : Field) (j : Nat) (hd : (g.reg * 32 + g.lo) % 16384 ≠ 225 * 32)
    (hc : ∀ f ∈ fieldsOf Fld.LID_OWNER_CMD_op.reg, f.acc = .ro ∨ (g.reg * 32 + g.lo) % 16384 ≠ (f.reg * 32 + f.lo) % 16384) : (responded s op v).get g j = s.get g j :=
  by
  unfold responded
  rw [(writeReg_other _ _ _ _ g j hc).1, withData_other _ _ g j hd 16]

theorem responded_rest (s : State) (op : Nat) (v : Word32) : { responded s op v with regs := s.regs } = s := by
  have h := (writeReg_other (withData s (answerTo s op) 16) Fld.LID_OWNER_CMD_op.reg 0 v.toNat Fld.LID_OWNER_DATA_data 0 (by decide +kernel)).2
  unfold responded
  rw [rest_of_rest _ _ s h]
  exact withData_rest s _ 16

theorem wordBytes_congr {s t : State} {f : Field} (h : ∀ i, t.get f i = s.get f i) (n : Nat) : t.wordBytes f n = s.wordBytes f n := by
  simp only [State.wordBytes, h]

theorem ownerArg_congr {s t : State} (hl : t.get Fld.LID_OWNER_ARG_LO_arg_lo 0 = s.get Fld.LID_OWNER_ARG_LO_arg_lo 0)
    (hh : t.get Fld.LID_OWNER_ARG_HI_arg_hi 0 = s.get Fld.LID_OWNER_ARG_HI_arg_hi 0) : t.ownerArg = s.ownerArg := by
  simp only [State.ownerArg, State.get64, hl, hh]

theorem ownerResponse_congr {s t : State} (hk : t.keys = s.keys)
    (hn : t.wordBytes Fld.LID_OWNER_NONCE_nonce 16 = s.wordBytes Fld.LID_OWNER_NONCE_nonce 16) (ha : t.ownerArg = s.ownerArg) (op : Nat) :
    answerTo t op = answerTo s op := by
  simp only [answerTo, State.ownerResponse, State.keyOf, State.cell, hk, hn, ha]

theorem ownerResponse_length (s : State) (op : Nat) : (answerTo s op).length = 64 := by
  unfold answerTo State.ownerResponse hmac512
  exact sha512_length _

theorem responded_right (s : State) (op : Nat) (v : Word32) :
    (responded s op v).wordBytes Fld.LID_OWNER_DATA_data 16 = answerTo (responded s op v) op := by
  have e : answerTo (responded s op v) op = answerTo s op :=
    ownerResponse_congr (rest_fields _ _ (responded_rest s op v)).2.2
      (wordBytes_congr (fun i => responded_get s op v Fld.LID_OWNER_NONCE_nonce i (by decide) (by decide +kernel)) 16)
      (ownerArg_congr (responded_get s op v Fld.LID_OWNER_ARG_LO_arg_lo 0 (by decide) (by decide +kernel))
        (responded_get s op v Fld.LID_OWNER_ARG_HI_arg_hi 0 (by decide) (by decide +kernel))) op
  have w : ∀ i, (responded s op v).get Fld.LID_OWNER_DATA_data i = (withData s (answerTo s op) 16).get Fld.LID_OWNER_DATA_data i := fun i => by
    unfold responded
    exact (writeReg_other _ _ 0 v.toNat Fld.LID_OWNER_DATA_data i (by decide +kernel)).1
  rw [wordBytes_congr w, e]
  exact withData_bytes s _ (ownerResponse_length s op)

/-- An owner entry. -/
def owner (key : BitVec 512) (programmed retired : Bool) : OwnerEntry := ⟨key, programmed, retired⟩

/-- The last owner entry is active, slot 0 holds a key, its nonce was drawn at 0 and is valid, and the last try is left; nothing of the running firmware's svn is asked. -/
def challenged : State :=
  { regs [(Fld.LID_OWNER_CMD_nonce_valid, 0, 1), (Fld.KS_USE_use_left, 0, 1), (Fld.KS_ATTR_state, 0, 1)] up with
    fuses := { up.fuses with owner := List.replicate 3 (owner 1 true true) ++ [owner 2 true false] } }

/-- A word of LID_OWNER_CMD with an operation and go. -/
def ownerWord (op : Nat) : Word32 := BitVec.ofNat 32 (op + 2 ^ 9)

/-- For each operation, a state in which all that performing it needs holds, the right response among it. -/
theorem test_wit_owner : ∀ op ∈ [1, 2, 3], ∃ s u : State, u = s.writeReg Fld.LID_OWNER_CMD_op.reg 0 (ownerWord op).toNat ∧
    (bitsOf (ownerWord op).toNat 0 4 = op ∧ bitOf (ownerWord op).toNat 9 = true) ∧ u.slotEmpty 0 = false ∧ u.time < u.nonceTime + 10000000 ∧
    u.flag Fld.LID_STATUS_owner_locked = false ∧ u.flag Fld.LID_STATUS_conf_mode = false ∧ u.flag Fld.LID_OWNER_CMD_nonce_valid = true ∧
    u.wordBytes Fld.LID_OWNER_DATA_data 16 = u.ownerResponse (keyBytes (u.keyOf 0) 64) op ∧ s.ownerArg ≤ s.ident.image.svn ∧ s.ownerArg ≤ 64 := by
  intro op hop
  have hr := rest_fields _ _ (responded_rest challenged op (ownerWord op))
  have ha : (withData challenged (answerTo challenged op) 16).ownerArg = challenged.ownerArg :=
    ownerArg_congr (withData_other _ _ _ _ (by decide) 16) (withData_other _ _ _ _ (by decide) 16)
  have hi := rest_ident _ _ (withData_rest challenged (answerTo challenged op) 16)
  have ht : (responded challenged op (ownerWord op)).time = challenged.time :=
    time_congr (responded_get _ _ _ Fld.WVR_TIME_LO_time_lo 0 (by decide) (by decide +kernel)) (responded_get _ _ _ Fld.WVR_TIME_HI_time_hi 0 (by decide) (by decide +kernel))
  refine ⟨withData challenged (answerTo challenged op) 16, responded challenged op (ownerWord op), by unfold responded; rfl, ?_, ?_, ?_, ?_, ?_, ?_,
    responded_right _ _ _, ?_⟩
  · clear hr ha hi ht; revert op; decide
  · rw [State.slotEmpty, responded_get _ _ _ Fld.KS_ATTR_state 0 (by decide) (by decide +kernel)]; decide +kernel
  · rw [hr.2.1, ht]; decide +kernel
  · rw [flag_congr (responded_get _ _ _ Fld.LID_STATUS_owner_locked 0 (by decide) (by decide +kernel))]; decide +kernel
  · rw [flag_congr (responded_get _ _ _ Fld.LID_STATUS_conf_mode 0 (by decide) (by decide +kernel))]; decide +kernel
  · rw [flag_congr (responded_get _ _ _ Fld.LID_OWNER_CMD_nonce_valid 0 (by decide) (by decide +kernel))]; decide +kernel
  · rw [ha, hi]; decide +kernel

theorem test_wit_ownerFails : (challenged.writeReg Fld.LID_OWNER_CMD_op.reg 0 (ownerWord 1).toNat).flag Fld.LID_OWNER_CMD_nonce_valid = true ∧
    challenged.fromPf (.host 0) = true ∧ challenged.fromPf (.host 31) = false ∧ challenged.get Fld.KS_USE_use_left ≤ 1 ∧
    1 < (regs [(Fld.KS_USE_use_left, 0, 2)] challenged).get Fld.KS_USE_use_left ∧ challenged.fuses.active = 3 ∧ up.fuses.active = 4 ∧
    challenged.flag Fld.LID_STATUS_owner_locked = false ∧ (regs [(Fld.LID_STATUS_owner_locked, 0, 1)] challenged).flag Fld.LID_STATUS_owner_locked = true ∧
    (regs [(Fld.LID_STATUS_conf_mode, 0, 1)] challenged).flag Fld.LID_STATUS_conf_mode = true ∧
    challenged.nonceTime + 10000000 ≤ (regs [(Fld.WVR_TIME_LO_time_lo, 0, 10000000)] challenged).time ∧
    (regs [(Fld.WVR_TIME_LO_time_lo, 0, 9999999)] challenged).time < challenged.nonceTime + 10000000 ∧ bitOf 0x100 8 = true ∧
    64 < (regs [(Fld.LID_OWNER_ARG_LO_arg_lo, 0, 65)] challenged).ownerArg := by decide +kernel

/-- Three entries are retired, the last is blank. -/
def blankOwner : State :=
  { up with fuses := { up.fuses with owner := List.replicate 3 (owner 1 true true) ++ [owner 0 false false] } }

theorem test_wit_program : bitsOf (ownerWord 0).toNat 0 4 = 0 ∧ bitOf (ownerWord 0).toNat 9 = true ∧ 4 ≤ blankOwner.fuses.active ∧
    blankOwner.fuses.owner[3]? = some (owner 0 false false) ∧ (∀ x ∈ blankOwner.fuses.owner.take 3, x.programmed = true ∨ x.retired = true) ∧
    (∀ e ∈ challenged.fuses.owner.take 4, e.programmed = true ∨ e.retired = true) := by decide +kernel

/-- Slot 255 is the last of partition 31, without lid or piece. -/
def keyed (st : Nat) : State :=
  regs [(Fld.HI_KEYSLOT_first, 31, 255), (Fld.HI_KEYSLOT_count, 31, 1), (Fld.KS_LOAD_USE_use_left, 0, 0xFFFFFF), (Fld.KS_ATTR_state, 255, st)] { up with parts := [(0, 0), (31, 0)] }

/-- The word of KS_LOAD_CMD with go for a slot and a class. -/
def loadWord (k c : Nat) : Nat := k + c * 2 ^ 8 + 2 ^ 16

theorem test_wit_keySlots : bitOf (255 + 2 ^ 8) 8 = true ∧ bitsOf (255 + 2 ^ 8) 0 8 = 255 ∧ (keyed 0).pfSlotOwner 255 ≠ none ∧ (keyed 0).pfSlotOwner 254 = none ∧
    bitOf (loadWord 255 1) 16 = true ∧ bitsOf (loadWord 255 1) 0 8 = 255 ∧ bitsOf (loadWord 255 1) 8 3 = 1 ∧ bitsOf (loadWord 32 5) 8 3 = 5 ∧ bitsOf (loadWord 32 5) 0 8 < 33 ∧
    bitsOf (loadWord 33 6) 8 3 = 6 ∧ bitsOf (loadWord 255 1) 12 4 = 0 ∧ bitsOf (loadWord 255 1) 23 9 = 0 ∧
    (keyed 0).get Fld.KS_LOAD_USE_use_left = 0xFFFFFF ∧ (keyed 0).get Fld.KS_ATTR_state 255 = 0 ∧ (keyed 1).get Fld.KS_ATTR_state 255 ≠ 0 := by decide +kernel

/-! ## Witnesses: lids -/

/-- A charter of lid 7 with generation `gen` and slot 254, of one member, up to its signature. -/
def charterBytes (gen module : Nat) : List Byte :=
  bytesOf 904 [(0, 4, 0x434C4B51), (4, 2, 1), (6, 2, 1), (8, 8, 7), (0x10, 4, gen), (0x14, 1, 254), (0x15, 1, 1), (0x340, 2, module), (0x342, 1, 31)]

/-- A key and a signature of the charter of generation 7 and member 3: both of the signature's numbers are the digest, so that what is verified is
the sum of the base point and the key. -/
def charterKey : List Byte :=
  4 :: beBytes 66 0x12ff0821c9b2a8038a014013b9fe21c78c4aed19ba81aa5d25f94dc453ce49d69b6b15fb503b5c5c59d2db51b709fa5a097cceefad1a05f7d9d4953e0e529785a6a ++
    beBytes 66 0x102d30d55fe7cc31ce88035cede8f5918680bbd87955747d74b33805301db3a6008a247320d1f106755eca697a54524047a520f5962a0757243b0d42935e8f87049

def charterSig : List Byte :=
  beBytes 66 0x50792dcf32ee416ce84e8f073f5e33c67662b2b5b9734e5d8fb891af051393bceb6c6b031a744c144f800b51b35f0eb45f4f0226a47b1ca57e94438461d89616 ++
    beBytes 66 0x50792dcf32ee416ce84e8f073f5e33c67662b2b5b9734e5d8fb891af051393bceb6c6b031a744c144f800b51b35f0eb45f4f0226a47b1ca57e94438461d89616

theorem test_charterVerifies : charterVerifies (charterBytes 7 3 ++ charterSig) charterKey = true := by decide +kernel

/-- Partition 31 is a lid partition in a state, with slots 254 and 255, the latter of a class and a state. -/
def lidBase (st cls key : Nat) : State :=
  { regs [(Fld.HI_PART_ID_lid, 31, 1), (Fld.LID_PART_state, 31, st), (Fld.HI_KEYSLOT_first, 31, 254), (Fld.HI_KEYSLOT_count, 31, 2), (Fld.KS_ATTR_class, 255, cls),
      (Fld.KS_ATTR_state, 254, key), (Fld.KS_ATTR_state, 255, key), (Fld.HI_LINK_STATE_up, 0, 1), (Fld.LID_ID_LO_id_lo, 31, if st = 2 then 7 else 0)] up with
    parts := [(0, 0), (31, 0)] }

/-- And a record of its lid. -/
def lidded (st cls key : Nat) (r : LidRec) : State := { lidBase st cls key with lids := [(31, r)] }

/-- A lid under the charter of generation 6, awaiting members since 1. -/
def lidRec (awaits : List Nat) : LidRec := { LidRec.none with charter := charterBytes 6 3 ++ List.replicate 132 0, key := charterKey, awaits := awaits, since := 1, sharing := true }

/-- A removal that has told the others. -/
def removing (sent : Bool) (awaits : List Nat) : LidRec := { lidRec awaits with removal := some .departs, sharing := false, sent := sent }

/-- A charter that leaves this member out. -/
def leavesOut : List Byte := charterBytes 7 3 ++ charterSig

theorem test_wit_amendOut : (lidded 2 4 1 (lidRec [])).memSlot 31 = 254 ∧ (lidded 2 4 1 (lidRec [])).get Fld.LID_PART_state 31 = 2 ∧
    ((lidded 2 4 1 (lidRec [])).lidAt 31).removal = none ∧ charterOk leavesOut = true ∧ charterKey = ((lidded 2 4 1 (lidRec [])).lidAt 31).key ∧
    charterVerifies leavesOut charterKey = true ∧ charterId leavesOut = charterId ((lidded 2 4 1 (lidRec [])).lidAt 31).charter ∧
    charterGen ((lidded 2 4 1 (lidRec [])).lidAt 31).charter < charterGen leavesOut ∧ fieldAt leavesOut 0x14 1 = 254 ∧
    (lidded 2 4 1 (lidRec [])).ownEntry 31 leavesOut = false := by decide +kernel

theorem test_wit_lidForms : charterOk [] = false ∧ (lidded 0 0 0 LidRec.none).get Fld.LID_PART_state 31 < 2 ∧ 2 ≤ (lidded 2 4 1 (lidRec [])).get Fld.LID_PART_state 31 ∧
    charterId (lidRec []).charter = (7 : BitVec 64).toNat ∧ sha512 (lidRec []).charter = bytes512 (sha512Nat (lidRec []).charter) ∧
    (lidded 1 0 0 (lidRec [])).get Fld.LID_PART_state 31 = 1 ∧ (lidded 1 0 0 (lidRec [])).get Fld.KS_ATTR_state 254 = 0 ∧ (lidded 1 0 0 (lidRec [])).get Fld.KS_ATTR_state 255 = 0 ∧
    ((lidded 1 0 0 (lidRec [])).lidAt 31).charter = (lidRec []).charter ∧ (lidded 1 4 1 (lidRec [])).get Fld.KS_ATTR_state 254 = 1 ∧
    ((lidded 1 4 1 (lidRec [4])).lidAt 31).sharing = true ∧ ((lidded 1 4 1 (lidRec [4])).lidAt 31).removal = none ∧
    (4 : ModuleId).toNat ∈ ((lidded 1 4 1 (lidRec [4])).lidAt 31).awaits ∧ (lidRec [4]).awaits.filter (· != (4 : ModuleId).toNat) = [] ∧
    (lidRec [4, 5]).awaits.filter (· != (4 : ModuleId).toNat) ≠ [] ∧ (5 : ModuleId).toNat ∉ (lidRec [4]).awaits ∧
    (lidRec [4]).since + max 1000 ((lidded 1 4 1 (lidRec [4])).get Fld.LID_REVOKE_TIMEOUT_us) ≤
      (regs [(Fld.WVR_TIME_LO_time_lo, 0, 1 + max 1000 (up.get Fld.LID_REVOKE_TIMEOUT_us))] (lidded 1 4 1 (lidRec [4]))).time ∧
    (regs [(Fld.WVR_TIME_LO_time_lo, 0, max 1000 (up.get Fld.LID_REVOKE_TIMEOUT_us))] (lidded 1 4 1 (lidRec [4]))).time <
      (lidRec [4]).since + max 1000 ((lidded 1 4 1 (lidRec [4])).get Fld.LID_REVOKE_TIMEOUT_us) := by decide +kernel

/-- Slot 255 of partition 31 may take a wrap key. -/
def wrapping (key : Nat) : State :=
  regs [(Fld.HI_KEYSLOT_first, 31, 253), (Fld.HI_KEYSLOT_count, 31, 3), (Fld.KS_ATTR_state, 255, key)] (lidded 2 4 1 (lidRec []))

theorem test_wit_import : (lidded 2 4 1 (lidRec [])).takes (.host 31) (0xE0410 + 0x20 * 31) = true ∧
    bitOf (0x100 : Word32).toNat 8 = true ∧ bitOf (0 : Word32).toNat 8 = false ∧
    ((lidded 2 4 1 (lidRec [])).mmioWrite (.host 31) (0xE0410 + 0x20 * 31) 0x100).flag Fld.LID_IMPORT_CMD_busy 31 = false ∧
    ((regs [(Fld.LID_IMPORT_CMD_busy, 31, 1)] (lidded 2 4 1 (lidRec []))).mmioWrite (.host 31) (0xE0410 + 0x20 * 31) 0x100).flag Fld.LID_IMPORT_CMD_busy 31 = true ∧
    ({ lidded 1 4 1 (lidRec []) with imports := [(31, { Import.none with basket := 63 })] } : State).importAt 31 = some { Import.none with basket := 63 } ∧
    (wrapping 0).partitions.find? (fun q => (wrapping 0).get Fld.LID_PART_state q == 2 && (wrapping 0).get64 Fld.LID_ID_LO_id_lo Fld.LID_ID_HI_id_hi q == (7 : BitVec 64).toNat) = some 31 ∧
    (wrapping 0).partitions.find? (fun q => (wrapping 0).get Fld.LID_PART_state q == 2 && (wrapping 0).get64 Fld.LID_ID_LO_id_lo Fld.LID_ID_HI_id_hi q == (8 : BitVec 64).toNat) = none ∧
    (wrapping 0).freeWrap 31 = some 255 ∧ (wrapping 1).freeWrap 31 = none ∧ (1 : BitVec 24) ≠ 0 ∧ (0xFFFFFE : BitVec 24) ≠ 0xFFFFFF := by decide +kernel

theorem test_wit_lidRemoval : (lidded 0 4 1 (lidRec [])).get Fld.LID_PART_state 31 = 0 ∧ (lidded 4 4 1 (lidRec [])).get Fld.LID_PART_state 31 = 4 ∧
    (lidded 2 4 1 (lidRec [])).partOfLid 7 = some 31 ∧ (lidded 2 4 1 (lidRec [])).partOfLid 8 = none ∧ (lidded 2 4 1 (lidRec [])).macHeld 31 = true ∧
    (lidded 2 0 1 (lidRec [])).macHeld 31 = false ∧ (lidded 2 4 1 (lidRec [])).memSlot 31 = (254 : BitVec 8).toNat ∧
    ((lidded 2 4 1 (lidRec [])).lidAt 31).removal = none ∧ ((lidded 3 4 1 (removing true [4])).lidAt 31).removal ≠ none ∧
    (lidded 2 4 1 (lidRec [])).takes (.host 0) (0xE0100 + 0x10 * 31) = true ∧ up.takes (.host 30) (0xE0100 + 0x10 * 31) = false ∧
    bitOf (0x200000 : Word32).toNat 21 = true ∧ up.fromPf (.host 0) = true ∧ Agent.host 0 ≠ .rim ∧
    ((lidded 2 4 1 (lidRec [])).mmioWrite (.host 0) (0xE0100 + 0x10 * 31) 0x200000).get Fld.LID_PART_state 31 = 2 ∧
    ((lidded 1 4 1 (lidRec [])).mmioWrite (.host 0) (0xE0100 + 0x10 * 31) 0x200000).get Fld.LID_PART_state 31 = 1 ∧
    (regs [(Fld.RIM_PLAIT_STATUS_state, 0, 5)] (lidded 1 4 1 (lidRec []))).loading = true ∧ ((lidded 3 4 2 (removing false [])).lidAt 31).sent = false ∧
    (regs [(Fld.WVR_CTX_STATE_state, 2047, 2), (Fld.CAP_BASKET_state, 63, 2), (Fld.CAP_BASKET_partition, 63, 31), (Fld.WVR_CTX_STATE_basket_index, 2047, 63)]
      (lidded 3 4 2 (removing false []))).partStopped 31 = false ∧
    (lidded 3 4 2 (removing true [])).get Fld.LID_PART_state 31 = 3 ∧ ((lidded 3 4 2 (removing true [])).lidAt 31).awaits = [] ∧
    ((lidded 3 4 2 (removing true [4])).lidAt 31).awaits ≠ [] ∧ 254 ∈ (lidded 3 4 2 (removing true [])).keyRange 31 ∧
    (lidded 3 4 2 (removing true [])).get Fld.KS_ATTR_state 254 = 2 ∧ 253 ∉ (lidded 3 4 2 (removing true [])).keyRange 31 ∧
    (removing true [4]).since + max 1000 (up.get Fld.LID_REVOKE_TIMEOUT_us) ≤
      (regs [(Fld.WVR_TIME_LO_time_lo, 0, 1 + max 1000 (up.get Fld.LID_REVOKE_TIMEOUT_us))] (lidded 3 4 2 (removing true [4]))).time ∧
    (regs [(Fld.HI_CARVE_MAP_channels, 31 * 8 + 7, 2 ^ 31)] (lidded 4 4 0 (removing true []))).inCarve 31 255 = true := by decide +kernel

/-! A charter that names this device and its measurements is not evaluable, since both are the implementation's: what is shown of one is
that all the other conditions hold of every charter of this form, whatever its key and its signature are. -/

theorem fieldAt_left {x : List Byte} (y : List Byte) {o n : Nat} (h : o + n ≤ x.length) : fieldAt (x ++ y) o n = fieldAt x o n := by
  unfold fieldAt
  rw [List.drop_append_of_le_length (by omega), List.take_append_of_le_length (by simp; omega)]

theorem fieldAt_right {x : List Byte} (y : List Byte) {o n : Nat} (h : x.length ≤ o) : fieldAt (x ++ y) o n = fieldAt y (o - x.length) n := by
  unfold fieldAt
  rw [List.drop_append, List.drop_eq_nil_of_le h, List.nil_append]

theorem zeroAt_left {x : List Byte} (y : List Byte) {o n : Nat} (h : o + n ≤ x.length) : zeroAt (x ++ y) o n = zeroAt x o n := by
  unfold zeroAt
  rw [List.drop_append_of_le_length (by omega), List.take_append_of_le_length (by simp; omega)]

theorem zeroAt_right {x : List Byte} (y : List Byte) {o n : Nat} (h : x.length ≤ o) : zeroAt (x ++ y) o n = zeroAt y (o - x.length) n := by
  unfold zeroAt
  rw [List.drop_append, List.drop_eq_nil_of_le h, List.nil_append]

theorem takeDrop_right {x : List Byte} (y : List Byte) {o n : Nat} (h : x.length ≤ o) : ((x ++ y).drop o).take n = (y.drop (o - x.length)).take n := by
  rw [List.drop_append, List.drop_eq_nil_of_le h, List.nil_append]

theorem beBytes_beNat (l : List Byte) : beBytes l.length (beNat l) = l := by
  unfold beBytes beNat
  have h := leBytes_leNat l.reverse
  rw [List.length_reverse] at h
  rw [h, List.reverse_reverse]

/-- The bytes of a charter of two members before the digest of measurements it accepts. -/
def charterHead : List Byte := bytesOf 32 [(0, 4, 0x434C4B51), (4, 2, 1), (6, 2, 2), (8, 8, 7), (0x10, 4, 7), (0x14, 1, 254), (0x15, 1, 1)]

/-- Those from there to the digest of its second member: the first member's module is `lead`, the second's 3. -/
def charterMiddle (lead : Nat) : List Byte := bytesOf 816 [(0x2E0, 2, lead), (0x2E2, 1, 31), (0x328, 2, 3), (0x32A, 1, 31)]

/-- The charter with both digests and a signature. -/
def charterOf (lead : Nat) (meas dev sig : List Byte) : List Byte := charterHead ++ (meas ++ (charterMiddle lead ++ (dev ++ sig)))

theorem charterHead_length : charterHead.length = 32 := by decide

theorem charterMiddle_length : ∀ lead ∈ [2, 3], (charterMiddle lead).length = 816 := by decide

theorem charterOf_fields {lead : Nat} (hl : lead ∈ [2, 3]) {meas dev sig : List Byte} (hm : meas.length = 64) (hd : dev.length = 64) :
    ((∀ o n, o + n ≤ 32 → fieldAt (charterOf lead meas dev sig) o n = fieldAt charterHead o n ∧ zeroAt (charterOf lead meas dev sig) o n = zeroAt charterHead o n) ∧
      (∀ o n, o + n ≤ 816 → fieldAt (charterOf lead meas dev sig) (96 + o) n = fieldAt (charterMiddle lead) o n ∧
        zeroAt (charterOf lead meas dev sig) (96 + o) n = zeroAt (charterMiddle lead) o n)) ∧
    ((charterOf lead meas dev sig).drop 32).take 64 = meas ∧ ((charterOf lead meas dev sig).drop 912).take 64 = dev ∧
    (charterOf lead meas dev sig).length = 976 + sig.length := by
  have ha := charterHead_length
  have hb := charterMiddle_length lead hl
  refine ⟨⟨fun o n h => ⟨fieldAt_left _ (by omega), zeroAt_left _ (by omega)⟩, fun o n h => ?_⟩, ?_, ?_, ?_⟩
  · unfold charterOf
    constructor
    · rw [fieldAt_right _ (by omega), fieldAt_right _ (by omega), fieldAt_left _ (by omega)]; congr 1; omega
    · rw [zeroAt_right _ (by omega), zeroAt_right _ (by omega), zeroAt_left _ (by omega)]; congr 1; omega
  · unfold charterOf
    rw [takeDrop_right _ (by omega), ha, Nat.sub_self, List.drop_zero, List.take_append_of_le_length (by omega), List.take_of_length_le (by omega)]
  · unfold charterOf
    rw [takeDrop_right _ (by omega), takeDrop_right _ (by omega), takeDrop_right _ (by omega), ha, hm, hb, List.drop_zero, List.take_append_of_le_length (by omega),
      List.take_of_length_le (by omega)]
  · simp [charterOf, ha, hb, hm, hd]; omega

theorem fieldAt_member (c : List Byte) (i o n : Nat) (h : o + n ≤ 72) : fieldAt (charterMember c i) o n = fieldAt c (832 + 72 * i + o) n := by
  unfold fieldAt charterMember
  rw [List.drop_take, List.take_take, List.drop_drop, Nat.min_eq_left (by omega)]

theorem zeroAt_member (c : List Byte) (i o n : Nat) (h : o + n ≤ 72) : zeroAt (charterMember c i) o n = zeroAt c (832 + 72 * i + o) n := by
  unfold zeroAt charterMember
  rw [List.drop_take, List.take_take, List.drop_drop, Nat.min_eq_left (by omega)]

theorem charterOf_ok {lead : Nat} (hl : lead ∈ [2, 3]) {meas dev sig : List Byte} (hm : meas.length = 64) (hd : dev.length = 64) (hs : sig.length = 132) :
    charterOk (charterOf lead meas dev sig) = true ∧ fieldAt (charterOf lead meas dev sig) 0x14 1 = 254 ∧ charterGen (charterOf lead meas dev sig) = 7 ∧
    charterId (charterOf lead meas dev sig) = 7 ∧ memberModule (charterMember (charterOf lead meas dev sig) 0) = lead ∧
    memberPart (charterMember (charterOf lead meas dev sig) 0) = 31 := by
  obtain ⟨⟨F, M⟩, _, _, L⟩ := charterOf_fields hl (sig := sig) hm hd
  have f := fun o n h => (F o n h).1
  have z := fun o n h => (F o n h).2
  have m := fun o n h => (M o n h).1
  have y := fun o n h => (M o n h).2
  have hn : charterMembers (charterOf lead meas dev sig) = 2 := (f 6 2 (by decide)).trans (by decide)
  have r : List.range 2 = [0, 1] := rfl
  refine ⟨?_, (f 0x14 1 (by decide)).trans (by decide), (f 0x10 4 (by decide)).trans (by decide), (f 8 8 (by decide)).trans (by decide), ?_⟩
  · unfold charterOk
    simp only [hn, r, L, hs, List.all_cons, List.all_nil, Bool.and_true, charterId, f 0 4 (by decide), f 4 2 (by decide), f 8 8 (by decide), f 0x15 1 (by decide),
      z 0x16 10 (by decide), y 724 12 (by decide), fieldAt_member _ 0 0 2 (by decide), fieldAt_member _ 1 0 2 (by decide), zeroAt_member _ 0 3 5 (by decide),
      zeroAt_member _ 1 3 5 (by decide), m 736 2 (by decide), m 808 2 (by decide), y 739 5 (by decide), y 811 5 (by decide)]
    clear F M L f z m y hn
    rcases List.mem_cons.mp hl with rfl | h
    · decide
    · rcases List.mem_singleton.mp h with rfl
      decide
  · unfold memberModule memberPart
    simp only [fieldAt_member _ 0 0 2 (by decide), fieldAt_member _ 0 2 1 (by decide), m 736 2 (by decide), m 738 1 (by decide)]
    rcases List.mem_cons.mp hl with rfl | h
    · decide
    · rcases List.mem_singleton.mp h with rfl
      decide

/-- The manifest that names a charter key for partition 31. -/
def manifestOf (key : List Byte) : List Byte := List.replicate 0x1000 0 ++ (sha512 key ++ List.replicate 64 0)

/-- This device's member entry. -/
def ownDigest : List Byte := sha512 (pointBytes (publicKey deviceKey))

/-- What the module measures. -/
def ownMeasures (s : State) : List Byte := sha512 ((List.range 4).flatMap (fun i => bytes512 ((s.measure (i + 1)).getD 0)))

theorem ownDigest_length : ownDigest.length = 64 := sha512_length _

theorem ownMeasures_length (s : State) : (ownMeasures s).length = 64 := sha512_length _

theorem charterOf_mine {lead : Nat} (hl : lead ∈ [2, 3]) (s : State) (h : s.me = 3) (sig : List Byte) :
    s.ownEntry 31 (charterOf lead (ownMeasures s) ownDigest sig) = true ∧ s.accepted (charterOf lead (ownMeasures s) ownDigest sig) = true := by
  obtain ⟨⟨F, M⟩, A, D, L⟩ := charterOf_fields hl (sig := sig) (ownMeasures_length s) ownDigest_length
  have hn : charterMembers (charterOf lead (ownMeasures s) ownDigest sig) = 2 := (F 6 2 (by decide)).1.trans (by decide)
  constructor
  · unfold State.ownEntry
    rw [charterEntries, hn, List.any_eq_true]
    refine ⟨charterMember _ 1, List.mem_map.mpr ⟨1, by decide, rfl⟩, ?_⟩
    have e : (charterMember (charterOf lead (ownMeasures s) ownDigest sig) 1).drop 8 = ownDigest := by
      unfold charterMember
      rw [List.drop_take, List.drop_drop]
      exact D
    dsimp only [memberModule, memberPart]
    rw [h, fieldAt_member _ 1 0 2 (by decide), fieldAt_member _ 1 2 1 (by decide), (M 808 2 (by decide)).1, (M 810 1 (by decide)).1, e]
    have c : ∀ lead ∈ [2, 3], (fieldAt (charterMiddle lead) 808 2 == 3 && fieldAt (charterMiddle lead) 810 1 == 31) = true := by decide
    rw [c lead hl, Bool.true_and]
    exact beq_self_eq_true _
  · unfold State.accepted
    rw [charterAccepts, (F 0x15 1 (by decide)).1, List.contains_iff_mem]
    refine List.mem_map.mpr ⟨0, by decide, ?_⟩
    rw [show 0x20 + 64 * 0 = 32 from rfl, A]
    rfl

/-- A module of number 3 whose partition 31 may take a charter under a key. -/
def takingBase (st key : Nat) : State := regs [(Fld.CAP_MODULE_module, 0, 3)] (lidBase st 0 key)

def takingCharter (st key : Nat) (r : LidRec) (ck : List Byte) : State := { takingBase st key with lids := [(31, r)], manifest := some (manifestOf ck) }

theorem test_wit_charter (key sig : List Byte) (hs : sig.length = 132) : ∀ lead ∈ [2, 3], ∀ s c, s = takingCharter 1 0 (lidRec []) key →
    c = charterOf lead (ownMeasures s) ownDigest sig → charterOk c = true ∧ sha512 key = s.charterDigest 31 ∧ s.ownEntry 31 c = true ∧ s.underLid 31 = true ∧
    fieldAt c 0x14 1 = s.memSlot 31 ∧ s.get Fld.KS_ATTR_state (s.memSlot 31) = 0 ∧ s.get Fld.KS_ATTR_state (s.memSlot 31 + 1) = 0 ∧ s.accepted c = true ∧
    s.get Fld.LID_PART_state 31 < 2 ∧ s.leads 31 c = (lead == 3) := by
  intro lead hl s c es ec
  have g : ∀ f i, s.get f i = (takingBase 1 0).get f i := fun _ _ => by rw [es]; dsimp only [takingCharter, State.get]
  have he : s.me = 3 := (g _ _).trans (by decide)
  have hm : s.memSlot 31 = 254 := (g _ _).trans (by decide)
  have hk := charterOf_ok hl (ownMeasures_length s) ownDigest_length hs
  have hc := charterOf_mine hl s he sig
  rw [← ec] at hk hc
  refine ⟨hk.1, ?_, hc.1, ?_, ?_, ?_, ?_, hc.2, ?_, ?_⟩
  · rw [es]
    dsimp only [State.charterDigest, State.setupOf, takingCharter, manifestPart]
    rw [show 0x40 + 128 * 31 + 0x40 = 0x1000 from rfl]
    have : ((manifestOf key).drop 0x1000).take 64 = sha512 key := by
      unfold manifestOf
      rw [takeDrop_right _ (by simp), List.length_replicate, Nat.sub_self, List.drop_zero, List.take_append_of_le_length (by simp [sha512_length]),
        List.take_of_length_le (by simp [sha512_length])]
    rw [this]
    have h := beBytes_beNat (sha512 key)
    rw [sha512_length] at h
    exact h.symm
  · rw [State.underLid, State.flag, g]; decide
  · rw [hm, hk.2.1]
  · rw [hm, g]; decide
  · rw [hm, g]; decide
  · rw [g]; decide
  · rw [State.leads, State.isOwn, hk.2.2.2.2.1, hk.2.2.2.2.2, he]
    exact Bool.and_true _

theorem test_wit_amendIn (key sig : List Byte) (hs : sig.length = 132) : ∀ lead ∈ [2, 3], ∀ s c,
    s = takingCharter 2 1 { lidRec [] with key := key } key → c = charterOf lead (ownMeasures s) ownDigest sig →
    s.get Fld.LID_PART_state 31 = 2 ∧ (s.lidAt 31).removal = none ∧ charterOk c = true ∧ key = (s.lidAt 31).key ∧ charterId c = charterId (s.lidAt 31).charter ∧
    charterGen (s.lidAt 31).charter < charterGen c ∧ fieldAt c 0x14 1 = s.memSlot 31 ∧ s.ownEntry 31 c = true := by
  intro lead hl s c es ec
  have g : ∀ f i, s.get f i = (takingBase 2 1).get f i := fun _ _ => by rw [es]; dsimp only [takingCharter, State.get]
  have he : s.me = 3 := (g _ _).trans (by decide)
  have hm : s.memSlot 31 = 254 := (g _ _).trans (by decide)
  have hk := charterOf_ok hl (ownMeasures_length s) ownDigest_length hs
  have hc := charterOf_mine hl s he sig
  rw [← ec] at hk hc
  have hr : s.lidAt 31 = { lidRec [] with key := key } := by rw [es]; rfl
  have hid : charterId (lidRec []).charter = 7 := by decide +kernel
  have hg : charterGen (lidRec []).charter = 6 := by decide +kernel
  refine ⟨by rw [g]; decide, ?_, hk.1, ?_, ?_, ?_, ?_, hc.1⟩
  · rw [hr]; rfl
  · rw [hr]
  · rw [hr, hk.2.2.2.1]; exact hid.symm
  · rw [hr, hk.2.2.1]; show charterGen (lidRec []).charter < 7; rw [hg]; decide
  · rw [hk.2.1, hm]

theorem test_wit_dissolve (key : List Byte) : (lidded 2 4 1 { lidRec [] with key := key }).get Fld.LID_PART_state 31 = 2 ∧
    charterId ((lidded 2 4 1 { lidRec [] with key := key }).lidAt 31).charter = (7 : BitVec 64).toNat ∧
    ((lidded 2 4 1 { lidRec [] with key := key }).lidAt 31).key = key := by
  refine ⟨?_, ?_, rfl⟩
  · dsimp only [lidded, State.get]; decide
  · show charterId (lidRec []).charter = 7
    decide

/-! ## Witnesses: plaits -/

/-- The plait of generation 1 without a section: its header, and its trailer with the digest of the header. -/
def emptyPlait : List Byte :=
  let h := bytesOf 64 [(0, 4, 0x4C504B51), (4, 2, 1), (8, 8, 1), (0x14, 4, 136)]
  h ++ [0xFF, 0, 0, 0, 72, 0, 0, 0] ++ sha512 h

/-- A load is in a state; link 0 is up, and partition 0 masters the bus or not; what is in its memory at the address of a plait. -/
def fetching (st master : Nat) (bs : List Byte) : State :=
  { regs [(Fld.RIM_PLAIT_STATUS_state, 0, st), (Fld.HI_LINK_STATE_up, 0, 1), (Fld.HI_ATTACH_bus_master, 0, master)] up with
    parts := [(0, 0), (31, 0)], tier4 := Mem.write [] 0 bs }

/-- A partition of it is being removed. -/
def withRemoval (st : Nat) (s : State) : State := regs [(Fld.LID_PART_state, 31, st)] s

theorem test_wit_plaitLoad : Agent.host 0 ≠ .rim ∧ (fetching 0 1 []).takes (.host 0) 0x80408 = true ∧ (fetching 0 1 []).takes (.host 31) 0x80408 = false ∧
    bitsOf (1 : Word32).toNat 0 2 = 1 ∧ bitsOf (2 : Word32).toNat 0 2 = 2 ∧ bitsOf (3 : Word32).toNat 0 2 ≠ 1 ∧ bitsOf (3 : Word32).toNat 0 2 ≠ 2 ∧
    (fetching 1 1 []).get Fld.RIM_PLAIT_STATUS_state = 1 ∧ (fetching 5 1 []).get Fld.RIM_PLAIT_STATUS_state ≤ 5 ∧ 5 < (fetching 6 1 []).get Fld.RIM_PLAIT_STATUS_state ∧
    (31 ∈ (fetching 0 1 []).partitions ∧ (withRemoval 3 (fetching 0 1 [])).get Fld.LID_PART_state 31 = 3 ∧ (withRemoval 4 (fetching 0 1 [])).get Fld.LID_PART_state 31 = 4) ∧
    (∀ p ∈ (fetching 0 1 []).partitions, (withRemoval 2 (fetching 0 1 [])).get Fld.LID_PART_state p ≠ 3 ∧ (withRemoval 2 (fetching 0 1 [])).get Fld.LID_PART_state p ≠ 4) ∧
    (fetching 2 1 []).get Fld.RIM_PLAIT_STATUS_state = 2 ∧ (fetching 3 1 []).get Fld.RIM_PLAIT_STATUS_state ≠ 1 ∧
    (regs [(Fld.RIM_PLAIT_STATUS_done_event_en, 0, 1)] (fetching 1 1 [])).flag Fld.RIM_PLAIT_STATUS_done_event_en = true ∧
    (fetching 1 1 []).canMaster 0 = true ∧ (fetching 1 0 []).canMaster 0 = false ∧
    2 ^ 22 < fieldAt ((fetching 1 1 (bytesOf 64 [(0x14, 4, 2 ^ 22 + 1)])).hostBytes 0 0 64) 0x14 4 ∧
    fieldAt ((fetching 1 1 (bytesOf 64 [(0x14, 4, 2 ^ 22)])).hostBytes 0 0 64) 0x14 4 ≤ 2 ^ 22 := by decide +kernel

theorem test_wit_plaitCheck : fieldAt ((fetching 1 1 emptyPlait).hostBytes 0 0 64) 0x14 4 = 136 ∧ (fetching 1 1 emptyPlait).hostBytes 0 0 (max 64 136) = emptyPlait ∧
    (fetching 1 1 emptyPlait).checkPlait (fetching 1 1 emptyPlait).plaitKeys emptyPlait = ([], none) ∧
    ((fetching 1 1 []).checkPlait (fetching 1 1 []).plaitKeys (List.replicate 64 0)).2 = some (0, 2) := by decide +kernel

/-- A change is pending. -/
def changing (x : Change) (s : State) : State := { s with plait := { s.plait with changes := [x] } }

/-- What a change waits for has ended, and has not. -/
theorem test_wit_changes : (changing (.ctxAdd 63 2047) up).plait.changes[0]? = some (.ctxAdd 63 2047) ∧ (changing (.ctxAdd 63 2047) up).plait.changes.length ≤ 1 ∧
    (changing (.ctxAdd 63 2047) up).changeReady (.ctxAdd 63 2047) = true ∧ (queued []).changeReady (.ctxAdd 63 2047) = false ∧
    (changing (.chanRemove 63 255) owned).changeReady (.chanRemove 63 255) = true ∧
    ({ owned with frames := [(255 * 2 ^ 24, .free)] } : State).changeReady (.chanRemove 63 255) = false ∧ (owned.pieceAt 63).leaving = false ∧
    ({ owned with pieces := [(63, { Piece.none with leaving := true })], plait := { owned.plait with changes := [.ctxRemove 63 2047] } } : State).changeReady (.chanRemove 63 255) = false ∧
    owned.changeReady (.slotAdd 63 255 2047 0 32) = false ∧ up.changeReady (.segAdd 63 31 63) = true ∧
    (regs [(Fld.RWS_SEG_OWNER_owners, 31 * 16 + 15, 2 ^ 31)] up).changeReady (.segAdd 63 31 63) = false ∧
    (fetching 5 1 []).get Fld.RIM_PLAIT_STATUS_state = 5 := by decide +kernel

/-- Basket 63 has members 0 (here, module 0) and 1 (module 2), this one at an ordinal, in a state; member 1 has reported. -/
def shaped (ordinal st gen : Nat) : State :=
  { regs [(Fld.CAP_BASKET_state, 63, st)] owned with
    pieces := [(63, { Piece.none with sec := { Section.none with uid := 9, members := 2, ordinal := ordinal, memberList := [(0, 2 * ordinal, 1), (1, 2 - 2 * ordinal, 1)], shapeGen := 5 } })]
    reports := [(2 ^ 14 * 9 + 2, (gen, 1))] }

theorem test_wit_shapes : (shaped 0 2 5).basketOfUid (9 : BitVec 64).toNat = some 63 ∧ (shaped 0 2 5).basketOfUid (8 : BitVec 64).toNat = none ∧
    (shaped 0 2 5).get Fld.CAP_BASKET_state 63 ≠ 4 ∧ (shaped 0 4 5).get Fld.CAP_BASKET_state 63 = 4 ∧ ((shaped 0 2 5).pieceAt 63).sec.ordinal = 0 ∧
    ((shaped 1 2 5).pieceAt 63).sec.ordinal ≠ 0 ∧ (2 : ModuleId).toNat ∈ (shaped 0 2 5).otherMembers 63 ∧ (3 : ModuleId).toNat ∉ (shaped 0 2 5).otherMembers 63 ∧
    (shaped 0 2 5).reported (9 : BitVec 64).toNat (2 : ModuleId).toNat ≠ (0, 0) ∧ ((shaped 0 2 5).reported 9 2).1 ≠ (6 : Word32).toNat ∧
    ((5 : Word32).toNat, (0 : BitVec 512)) = (shaped 0 2 5).ownShape 63 ∧ ((6 : Word32).toNat, (0 : BitVec 512)) ≠ (shaped 0 2 5).ownShape 63 ∧
    (shaped 0 2 5).agreed 63 = false ∧ ({ shaped 0 2 5 with reports := [(2 ^ 14 * 9 + 2, (5, 0))] } : State).agreed 63 = true ∧
    (shaped 0 2 5).reported ((shaped 0 2 5).basketUid 63) 3 = (0, 0) ∧ (shaped 0 2 5).reported ((shaped 0 2 5).basketUid 63) 2 ≠ (0, 0) ∧
    (shaped 1 1 5).leadMember 63 = some (2 : ModuleId).toNat ∧ (shaped 1 1 5).leadMember 63 ≠ some (3 : ModuleId).toNat ∧ (3 : Fin 5) ≠ 0 ∧ (3 : Fin 5) ≠ 4 := by decide +kernel

/-! ## Witnesses: seals -/

/-- The last seal of basket 63 has a range of pages from address 0, which a leaf maps, and is in a state. -/
def sealing (st pages leaf : Nat) : State := mapped (regs [(Fld.PG_SEAL_LEN_pages, 1023, pages), (Fld.PG_SEAL_CMD_state, 1023, st)] owned) leaf

/-- Right after the command's word is written. -/
def sealCalled (st pages leaf : Nat) : State := (sealing st pages leaf).mmioWrite (.host 31) (sealCmd 63 15) 1

theorem test_wit_sealCmd : (sealing 0 1 here).takes (.host 31) (sealCmd 63 15) = true ∧ (sealing 0 1 here).takes (.host 30) (sealCmd 63 15) = false ∧
    bitOf (1 : Word32).toNat 0 = true ∧ bitOf (1 : Word32).toNat 1 = false ∧ bitOf (2 : Word32).toNat 0 = false ∧ bitOf (2 : Word32).toNat 1 = true ∧
    (sealCalled 0 0 here).sealRange 63 15 = (0, 0) ∧ (sealCalled 0 1 here).sealRange 63 15 = (0, 1) ∧ (sealCalled 0 2 here).sealable 63 0 2 = false ∧
    (sealCalled 0 1 here).sealable 63 0 1 = true ∧ (sealCalled 0 1 away).sealable 63 0 1 = true ∧ (sealCalled 0 1 (away + 2 ^ 5)).sealable 63 0 1 = false ∧
    (sealCalled 0 1 here).sealState 63 15 = 0 ∧ (sealCalled 3 1 here).sealState 63 15 = 3 := by decide +kernel

theorem test_wit_hashing : (sealCalled 0 1 here).hashing = none ∧ (sealCalled 1 1 here).hashing = some (63, 15) ∧
    (regs [(Fld.PG_SEAL_CMD_state, 1023, 0), (Fld.PG_SEAL_CMD_state, 1022, 1)] (sealCalled 0 1 here)).hashing = some (63, 14) := by decide +kernel

/-- A read of the device's own gave bytes, has asked another module, faults, met poison, or asks a lost module. -/
def readKind (r : DevRead) : Nat :=
  match r with
  | .ok _ => 0
  | .away => 1
  | .fault _ _ _ => 2
  | .poison _ => 3
  | .lost _ _ => 4

theorem exists_of_kind (p : DevRead × State) : (readKind p.1 = 0 → ∃ bs u, p = (.ok bs, u)) ∧ (readKind p.1 = 1 → ∃ u, p = (.away, u)) ∧
    (readKind p.1 = 2 → ∃ x y z u, p = (.fault x y z, u)) ∧ (readKind p.1 = 3 → ∃ x u, p = (.poison x, u)) := by
  obtain ⟨r, u⟩ := p
  cases r with
  | ok bs => exact ⟨fun _ => ⟨bs, u, rfl⟩, nofun, nofun, nofun⟩
  | away => exact ⟨nofun, fun _ => ⟨u, rfl⟩, nofun, nofun⟩
  | fault x y z => exact ⟨nofun, nofun, fun _ => ⟨x, y, z, u, rfl⟩, nofun⟩
  | poison x => exact ⟨nofun, nofun, nofun, fun _ => ⟨x, u, rfl⟩⟩
  | lost m x => exact ⟨nofun, nofun, nofun, nofun⟩

/-- The address of the first line of the page is poisoned. -/
def poisoned (s : State) : State := { s with hbmPoison := [(0xFE0000000000 / 64, 2)] }

theorem test_wit_sealHash :
    readKind ((sealing 1 1 (away + 2 ^ 5)).devRead 63 [] 0 65536 1 sealWord).1 = 2 ∧
    readKind (({ sealing 1 1 away with sealGot := [(0, List.replicate 65536 0)] } : State).devRead 63 [(0, List.replicate 65536 0)] 0 65536 1 sealWord).1 = 0 ∧
    readKind ((sealing 1 1 away).devRead 63 [] 0 65536 1 sealWord).1 = 4 ∧ readKind ((routed (sealing 1 1 away)).devRead 63 [] 0 65536 1 sealWord).1 = 1 ∧
    readKind ((poisoned (sealing 1 1 here)).devRead 63 [] 0 65536 1 sealWord).1 = 3 ∧
    (sealing 1 1 here).sealOut 63 = 0 ∧ (regs [(Fld.PG_SEAL_OUT_LO_addr_lo, 63, 1)] (sealing 1 1 here)).sealOut 63 = 64 := by decide +kernel

theorem test_wit_sealInstall : (sealing 0 1 here).boundUid (9 : BitVec 64).toNat = some 63 ∧ (sealing 0 1 here).boundUid (8 : BitVec 64).toNat = none ∧
    (sealing 1 1 here).sealState 63 15 = 1 ∧ (sealing 2 1 here).sealState 63 15 = 2 ∧ (1 : BitVec 24) ≠ 0 ∧ (3 : ModuleId).toNat ≠ (sealing 2 1 here).me ∧
    (0 : ModuleId).toNat = (sealing 2 1 here).me ∧ (∃ e ∈ ({ sealing 2 1 here with segTags := [(5, 1025)] } : State).segTags, e.2 = 2 + 16 * (63 : Fin 64).val + (15 : Fin 16).val) := by
  decide +kernel

/-! ## Witnesses: pages in other places -/

theorem exists_of_pair {α β : Type} (p : α × β) (a : α) (P : β → Prop) (h : p.1 = a ∧ P p.2) : ∃ u, p = (a, u) ∧ P u := ⟨p.2, by rw [← h.1], h.2⟩

/-- Page 0 of basket 63, whose T4 area is on link 3, has a leaf. -/
def onT4 (up' : Bool) (leaf : Nat) : State := mapped (regs [(Fld.PG_T4_PAGES_port, 63, 3), (Fld.PG_T4_PAGES_pages, 63, 4)] (hosted up' false loading)) leaf

theorem test_wit_fenceT4 : (∃ u, (onT4 true 0x304F).fenceFind 63 65520 0 = (.t4 3 65520, u) ∧ u.fenceGet 63 65520 (.t4 3 65520) = some (0, 0)) ∧
    (∃ u, (onT4 true 0x30F).fenceFind 63 65520 0 = (.spill 0, u) ∧ (u.fenceGet 63 65520 (.spill 0)).isSome = true) ∧
    (∃ u, (poisoned (mapped owned here)).fenceFind 63 0 0 = (.here 0xFE0000000000, u) ∧ u.fenceGet 63 0 (.here 0xFE0000000000) = none) ∧
    (∃ u, (onT4 false 0x304F).signal 63 0 0 0 (fenceOpWord 31) 5 0 = (.wait linkMove, u) ∧ FenceHeld.driver 31 ∉ u.updates) ∧
    (∃ u, (routed (onT4 true away)).signal 63 0 0 0 (fenceOpWord 31) 5 0 = (.sent 2, u) ∧ u.outbox ≠ []) := by
  refine ⟨exists_of_pair _ _ _ ?_, exists_of_pair _ _ _ ?_, exists_of_pair _ _ _ ?_, exists_of_pair _ _ _ ?_, exists_of_pair _ _ _ ?_⟩ <;> decide +kernel

/-- A fence command whose signal has been sent, and one a kernel's start waits by. -/
theorem test_wit_fenceSent : (({ inCommand (some (command 4 0)) none none with contexts := [(2047, { Context.none with cmd := some (command 4 0), fetched := [(0, [])] })] } : State).isSent
      2047 (command 4 0).addr) = true ∧ (inCommand (some (command 4 0)) none none).isSent 2047 (command 4 0).addr = false ∧
    (inCommand (some (command 4 0)) none none).cmdIs 2047 4 = true ∧ (inCommand (some (command 1 0)) (some (kernel 0 (some .fence) false)) none).kernelWaits 2047 .fence = true ∧
    (inCommand (some (command 1 0)) (some (kernel 0 (some .fence) false)) none).cmdIs 2047 3 = false ∧ respOfCommand (wake 0) = true ∧
    (inCommand (some (command 1 0)) (some (kernel 0 (some .fence) false)) none).respOp (wake 0) = none ∧
    ({ up with watches := [{ poll with polls := false }] } : State).watches.find? (fun x => x.waiter == .command 2047 && x.polls) = none ∧
    (∃ x ∈ ({ up with watches := [poll] } : State).watches, x.waiter = .command 2047) := by decide +kernel

/-- The last queue takes completions and has its oldest item in its ring at address 0; a read of it waits. -/
def ringed (leaf : Nat) : State :=
  let s := mapped (regs [(Fld.WVR_Q_CFG_kind, 1023, 1), (Fld.WVR_Q_PROD_count, 1023, 1)] { spilled with hbm := [] }) leaf
  s.setQueue 1023 { s.queueAt 1023 with reads := [31] }

/-- The read of that item. -/
def ringRead (s : State) : DevRead × State := s.devRead (s.queueBasket 1023) (s.ctxAt (s.get Fld.WVR_Q_CFG_context 1023)).fetched
  (s.ringSlot 1023 (s.get Fld.WVR_Q_CONS_count 1023)) 64 0 (s.get Fld.WVR_Q_CFG_context 1023)

theorem test_wit_ringed : readKind (ringRead (ringed here)).1 = 0 ∧ (ringRead (ringed here)).2.flag Fld.WVR_Q_CTRL_note_en 1023 = false ∧
    readKind (ringRead (ringed 0)).1 = 2 ∧ readKind (ringRead (ringed away)).1 = 4 ∧ readKind (ringRead (routed (ringed away))).1 = 1 ∧
    ((ringed here).queueAt 1023).head = [] ∧ ((ringed here).queueAt 1023).ring ≠ 0 ∧ ((ringed here).queueAt 1023).tail = [] ∧
    (ringed here).queueOwner 1023 = some 31 ∧ (ringed here).flag Fld.WVR_Q_CFG_valid 1023 = true ∧ (ringed here).flag Fld.WVR_Q_CFG_kind 1023 = true ∧
    (ringed here).underLid 31 = false ∧ (ringed here).asleep 31 = false ∧ (ringed here).halted = false := by decide +kernel

/-- The last queue's notify line is at address 0. -/
def noting (s : State) : State := regs [(Fld.WVR_Q_CTRL_note_en, 1023, 1), (Fld.WVR_Q_CFG_basket_index, 1023, 63), (Fld.HI_QVEC_irq_en, 1023, 1)] s

theorem test_wit_notify : (∃ u, (noting (onT4 true 0x304F)).devWrites 63 0 (List.replicate 64 7) = (.done, u) ∧ u.flag Fld.HI_QVEC_irq_en 1023 = true) ∧
    (∃ u, (noting (onT4 false 0x304F)).devWrites 63 0 (List.replicate 64 7) = (.later, u) ∧ u.deferred ≠ []) ∧
    (∃ u, (noting (onT4 false 0x4F)).devWrites 63 0 (List.replicate 64 7) = (.dropped, u) ∧ u.deferred = []) ∧
    (noting (onT4 true 0x304F)).queueBasket 1023 = 63 ∧ (noting (onT4 true 0x304F)).flag Fld.WVR_Q_CTRL_note_en 1023 = true := by
  refine ⟨exists_of_pair _ _ _ ?_, exists_of_pair _ _ _ ?_, exists_of_pair _ _ _ ?_, ?_⟩ <;> decide +kernel

/-- A module that serves. -/
def inService (s : State) : State := regs [(Fld.WF_CTRL_serving, 0, 1)] s

/-- Every type of packet is admitted for basket 63; so are a member's counts, and its outcomes or the lead's verdicts. -/
theorem test_wit_admits : ∀ t ∈ [1, 2, 3, 4, 5, 6, 7, 8, 9], (serving 3).admits (packet t 0) t 63 := by unfold State.admits; decide +kernel

theorem test_wit_counted : ∀ pkt s, pkt = { packet 8 0 with ref := 77, src := 1 } → s = inService (inCommand none (some (kernel 0 none true)) none) →
    s.admits pkt 8 63 ∧ bitsOf pkt.args.toNat 0 8 = 0 ∧ (s.packetTaken pkt).ctxBasket 2047 = 63 ∧
    ((s.packetTaken pkt).ctxAt 2047).kernel = some (kernel 0 none true) ∧ fieldAt (kernel 0 none true).desc 0 8 = pkt.ref.toNat ∧
    (s.packetTaken pkt).isLead (kernel 0 none true).desc = true ∧ (kernel 0 none true).short = false ∧ pkt.src.toNat ≠ (s.packetTaken pkt).me ∧
    ((serving 3).packetTaken pkt).ctxBasket 2047 ≠ 63 ∧ (serving 3).admits pkt 8 63 := by
  rintro _ _ rfl rfl; unfold State.admits; decide +kernel

theorem test_wit_outcomes : ∀ x ∈ [(0, false), (1, true)], ∀ pkt s, pkt = { packet 8 0 with args := 1, ref := 5, src := 1 } →
    s = inService (inCommand (some (command 2 0)) none (some (aStep x.1 1 x.2))) → s.admits pkt 8 63 ∧ bitsOf pkt.args.toNat 0 8 = 1 ∧ pkt.ref = 5 ∧
    (s.packetTaken pkt).ctxBasket 2047 = 63 ∧ ((s.packetTaken pkt).ctxAt 2047).step = some (aStep x.1 1 x.2) ∧ (s.packetTaken pkt).me = 0 := by
  intro x hx pkt s hp hs; subst hp hs; revert x; unfold State.admits; decide +kernel

/-- A context whose step runs has been asked to stop. -/
theorem test_wit_stopStep : (({ stopping 2 with contexts := [(2047, { Context.none with stepRunning := true })] } : State).mmioWrite (.host 31) (ctxCtrl 2047) 1).ctxAt 2047 =
    { Context.none with stepRunning := true } ∧ (stopping 2).takes (.host 31) (ctxCtrl 2047) = true ∧
    ((stopping 2).mmioWrite (.host 31) (ctxCtrl 2047) 1).get Fld.WVR_CTX_STATE_state 2047 = 2 := by decide +kernel

/-- The core's half is gated or not; an older operation of its unit is in flight, or none. -/
theorem test_wit_gatedCore : (regs [(Fld.PW_HALF_gated, 3, 1)] (onCore none [])).gated (coreHalf 255) = true ∧ (onCore none []).gated (coreHalf 255) = false ∧
    (∀ x ∈ (onCore none [anOp (descriptor 1 0 0 0 []) true []]).coreOps 255, x.order < 0 → sameUnit (opCode x.desc) 1 = false) ∧
    (∃ x ∈ (onCore none [anOp (descriptor 1 0 0 0 []) true [], { anOp (descriptor 1 0 0 0 []) true [] with index := 1, order := 1 }]).coreOps 255,
      x.order < 1 ∧ sameUnit (opCode x.desc) 1 = true) := by
  decide +kernel

theorem test_wit_farLane : ({ lanes 0 0 with ports := [(79, { Port.none with farLane := some 1 })] } : State).portAt 79 = { Port.none with farLane := some 1 } ∧
    (linked 79 3).moves = [] ∧ (linked 79 3).own = [] ∧ (linked 79 3).fenceOps = [] ∧ ((linked 79 3).portAt 79).inputs = [] ∧ (lanes 0 0).portState 79 = 3 ∧
    (∀ i ∈ (((linked 79 3).portAt 79).release (flit 0)).inputs, ((linked 79 3).setPort 79 (((linked 79 3).portAt 79).release (flit 0))).rimTakes i = false) := by decide +kernel

/-- What a home finds for a request: its pages, a status, or a wait. -/
def homeKind (h : HomePages) : Nat :=
  match h with
  | .ok ps => ps.length
  | .refuse st => 100 + st
  | .wait => 200

/-- Page 0 of basket 63 at a home that serves. -/
def home (leaf : Nat) : State := mapped (serving 3) leaf

theorem test_wit_home : homeKind ((home here).homePages 63 1 [(0, 64), (65472, 64)]).1 = 2 ∧ homeKind ((home 0).homePages 63 1 [(0, 64)]).1 = 106 ∧
    homeKind (({ home 0x19F with moves := [moving (.migrate 0)] } : State).homePages 63 1 [(65472, 64)]).1 = 200 ∧
    homeKind ((inService (onT4 false 0x30F)).homePages 63 1 [(0, 64)]).1 = 200 ∧ homeKind ((home here).homePages 63 2 [(0, 64)]).1 = 1 ∧
    ((routed (home (away + 0xE0))).homePages 63 4 [(0, 16)]).1 = .ok [(0, 16, .atT3 2)] ∧ ((home here).homePages 63 4 [(65520, 16)]).1 = .ok [(65520, 16, .here 0xFE000000FFF0)] ∧
    ((inService (onT4 true 0x31F)).homePages 63 4 [(0, 16)]).1 = .ok [(0, 16, .atT4 0)] := by
  decide +kernel

/-- The serving module's memory carries tags, and the response of a read carries the wrong one, or the right one. -/
theorem test_wit_tags : (regs [(Fld.LID_PART_sidecar_en, 31, 1)] (serving 3)).badLine 63 65472 (List.replicate 64 0) (List.replicate 8 0) = some 65472 ∧
    (serving 3).badLine 63 65472 (List.replicate 64 0) [] = none ∧ (serving 3).sidecarOn 63 = false ∧ (serving 3).dataFor 63 relayWord 3 0 64 = .nobody ∧
    (sealing 1 1 away).dataFor 63 sealWord 2 0 64 = .seal ∧ (sealing 1 1 away).wordOp sealWord = none ∧
    ({ serving 3 with frames := [(0xFE000000, .guest 3 9 0)] } : State).guestFrame ((serving 3).basketUid 63) 0 = some 0xFE000000 ∧
    (serving 3).guestFrame ((serving 3).basketUid 63) 0 = none ∧ (serving 3).pageMove 63 0 2 = none ∧
    (({ serving 3 with moves := [moving (.guestIn 2)] } : State).pageMove 63 0 2).isSome = true := by decide +kernel

/-- A request reads a page spilled to T4, whose tags do not fit, or which left its frame with poison; a response and a LOAD await it. -/
theorem test_wit_dmaPoison : ∀ x ∈ [(1, 0, true), (0, 2, false)], ∀ s, s = { regs [(Fld.LID_PART_sidecar_en, 31, x.1)] (onT4 true 0x30F) with awayPoison := [(63 * 2 ^ 50, x.2.1)] } →
    s.dma.map (s.dmaRead 63) = [.poison 0 x.2.2] ∧ s.goesOut 31 3 0 = true ∧ (s.dma.map s.dmaOp) = [some loading] ∧ s.slotBasket 2047 = 63 ∧
    ({ s with d3hot := [31] } : State).goesOut 31 3 0 = false := by
  intro x hx s hs; subst hs; revert x; decide +kernel

/-- Link 3 has the most selective IDE streams, or room for one more. -/
def streams (n : Nat) : State := { up with ideKeys := (List.range n).map (fun k => (3 * 256 + 1 + k, 1)) }

theorem test_wit_streams : ((streams 32).ideSelective 3).length = 32 ∧ 3 * 256 + 255 ∉ (streams 32).ideSelective 3 ∧ 3 * 256 + 32 ∈ (streams 32).ideSelective 3 ∧
    ((streams 31).ideSelective 3).length = 31 ∧ (255 : BitVec 8) ≠ 0 ∧ (streams 32).ideSelective 2 = [] := by decide +kernel

theorem test_wit_ownerSlot : up.slotEmpty 0 = true ∧ challenged.slotEmpty 0 = false ∧ bitsOf (ownerWord 0).toNat 0 4 = 0 ∧ bitOf (BitVec.ofNat 32 2 : Word32).toNat 9 = false ∧
    blankOwner.flag Fld.LID_STATUS_owner_locked = false ∧ blankOwner.flag Fld.LID_STATUS_conf_mode = false := by decide +kernel

/-- An import of partition 31 goes on from its bundle key. -/
theorem test_wit_importKey : ∀ s, s = { regs [(Fld.CAP_BASKET_state, 63, 2), (Fld.CAP_BASKET_partition, 63, 31)] (lidded 2 4 1 (lidRec [])) with
      imports := [(31, { Import.none with basket := 63, key := some (255, []), len := 65537 })] } →
    s.importAt 31 = some { Import.none with basket := 63, key := some (255, []), len := 65537 } ∧ s.get Fld.LID_PART_state 31 = 2 ∧ s.basketOwner 63 = some 31 ∧
    s.basketOwner 62 ≠ some 31 := by
  rintro s rfl; decide +kernel

/-- Remove is written for a partition whose lid is NONE. -/
theorem test_wit_removeNone : (lidded 0 4 1 LidRec.none).takes (.host 0) (0xE0100 + 0x10 * 31) = true ∧ bitOf (0x200000 : Word32).toNat 21 = true ∧
    ((lidded 0 4 1 LidRec.none).mmioWrite (.host 0) (0xE0100 + 0x10 * 31) 0x200000).get Fld.LID_PART_state 31 = 0 ∧ (lidded 0 4 1 LidRec.none).fromPf (.host 0) = true ∧
    ((lidded 3 4 1 (removing false [])).lidAt 31).removal ≠ none ∧ (removing false []).sent = false ∧ (lidRec []).removal = none := by decide +kernel

/-- A message of a kind from a module, of basket uid 9. -/
def message (kind src : Nat) : Packet := { packet 8 0 with args := BitVec.ofNat 128 kind, src := BitVec.ofNat 14 src }

/-- The lead hears of a member's shape, and a member of its basket's state. -/
theorem test_wit_shapeMessages : ∀ x ∈ [(2, 0, 2), (3, 1, 1)], ∀ pkt s, pkt = message x.1 2 → s = inService (shaped x.2.1 x.2.2 5) → s.halted = false ∧
    pkt.ptype.toNat = 8 ∧ pkt.dest.toNat = s.me ∧ s.delivered pkt = true ∧ (s.packetTaken pkt).staleEpoch pkt = false ∧ bitsOf pkt.args.toNat 0 8 = x.1 ∧ pkt.uid = 9 ∧
    (s.packetTaken pkt).basketOfUid 9 = some 63 ∧ pkt.src.toNat = 2 ∧ (x.1 = 2 → ((s.packetTaken pkt).pieceAt 63).sec.ordinal = 0 ∧ 2 ∈ (s.packetTaken pkt).otherMembers 63) ∧
    (x.1 = 3 → ((s.packetTaken pkt).pieceAt 63).sec.ordinal ≠ 0 ∧ (s.packetTaken pkt).leadMember 63 = some 2) := by
  intro x hx pkt s hp hs; subst hp hs; revert x; decide +kernel

/-- A message of a revoked slot is stale. -/
theorem test_wit_staleMessage : ((regs [(Fld.KS_ATTR_state, 0, 2)] (serving 3)).packetTaken (message 2 2)).staleEpoch (message 2 2) = true ∧
    (regs [(Fld.KS_ATTR_state, 0, 2)] (serving 3)).delivered (message 2 2) = true := by decide +kernel

/-! ## Ill-formed commands are refused, one for each check -/

/-- A packet of a type that has crossed some links. -/
def crossed (t n : Nat) : Packet := { packet t 0 with links := n }

/-- A count block without counts. -/
def noCounts : CountBlock :=
  { status := 0, counts := List.replicate 13 0, wrap := false, clipEvent := false, escFlags := 0, formatMask := 0, cvtMask := 0, sealMask := 0, sealedAll := true, strands := [] }

theorem test_illFormed : [Instr.registerWrite (.carrier 0) 0 0, .registerWrite (.host 0) 2 0, .registerWrite .rim 0x3FFFFFF 0, .monitorLog 257, .monitorRd 1, .monitorWr 3 0,
     .patrolScrub 0 0x60000000 .clean, .patrolScrub 0 32 .clean, .sramScrub (.localStore 0) 4096 .clean, .agingCheck 0 101,
    .submissionWrite 0 0 0 [] true, .submissionWrite 0 0 4095 [0, 0] true, .completionPop 0 0 0 0, .completionPop 0 0 0xFFF 2,
    .countBlock 0 (crossed 8 1) { noCounts with status := 4 }, .countBlock 0 (crossed 8 1) { noCounts with counts := [] }, .lidPartRemove (.carrier 0) 0 0,
    .readReq (crossed 2 0), .readData (crossed 1 0), .writePkt (crossed 3 5), .packetForward 0 (crossed 1 5), .readLoLatchesHi .rim 2].all (fun i => !i.wellFormed) = true := by
  decide +kernel

theorem test_wellFormed : [Instr.registerWrite (.carrier 3) 4 0, .monitorLog 256, .agingCheck 0 100, .submissionWrite 0 0 4095 [0] true, .readReq (crossed 1 4),
    .writePkt (crossed 3 4), .packetForward 0 (crossed 9 4)].all Instr.wellFormed = true := by decide +kernel

/-! ## The step -/

theorem test_step_idles : (after (step (regs [(Fld.WVR_TIME_LO_time_lo, 0, 0xFFFFFFFF)] up))).time = 2 ^ 32 ∧ after (step State.reset) = State.reset :=
  ⟨by decide +kernel, rfl⟩

theorem test_step_takes_front : (after (step { up with pending := [.monitorStatus, .plaitCommit] })).pending = [.plaitCommit] := by decide +kernel

theorem test_no_word : decodeTableWord 32 0 = none ∧ (up.withFetchWord 32 5).pending = [] := by decide +kernel

/-! ## The spec's worked examples -/

/-- 02 Example 1: the codes of eight SPL3 weights, element 7 down to 0. -/
theorem test_spl3_codes : (List.range 8).map (fun k => elemValue 11 (bitsOf 0xAB8CE1 (3 * k) 3)) =
    [.fin false 3 (-1), .fin true 1 (-1), .fin false 7 (-1), .fin true 5 (-1), .fin false 1 (-1), .fin true 7 (-1), .fin false 5 (-1), .fin true 3 (-1)] := by
  decide

/-- 02 Example 2: FP32 to E4M3 near the top of its range, saturating and not. -/
theorem test_e4m3_top : [0x43E80000, 0x43FA0000, 0x43DC0000].map (fun c => ((floatFmt 3).convert false true (fp32 c), (floatFmt 3).convert false false (fp32 c))) =
    [(⟨0x7E, true, false⟩, ⟨0x7E, true, false⟩), (⟨0x7E, true, false⟩, ⟨0x7F, true, false⟩), (⟨0x7E, false, false⟩, ⟨0x7E, false, false⟩)] := by decide +kernel

/-- 02 Example 3: one MXFP4 block under both rules of the scale. -/
theorem test_mxfp4 : [0, 8].map (fun cvt =>
      let b := quantizeBlock 9 cvt (([0x41500000, 0x40280000, 0xBF400000, 0x40A00000] ++ List.replicate 28 0).map fp32)
      (b.scale, (b.elems.map Conv.code).take 5, (b.elems.filter Conv.clip).length)) =
    [(0x80, [0b0111, 0b0011, 0b1001, 0b0100, 0], 1), (0x81, [0b0101, 0b0001, 0b1000, 0b0010, 0], 0)] := by decide +kernel

/-- 03 Example 1: three terms in a lane, and its conversions to FP32, BF16 and E4M3. -/
theorem test_lane : (addTerms 0 Lane.zero [.fin false 15 0, .fin false 5 (-66), .fin true 3 (-66)]).1 = { v := 0x000000000000000F0000000000000001, flags := 0 } ∧
    (addTerms 0 Lane.zero [.fin false 15 0, .fin false 5 (-66), .fin true 3 (-66)]).2 = { TermCounts.zero with trunc := 2 } ∧
    [0, 1, 3].map (fun f => (Lane.convert { v := 0x000000000000000F0000000000000001, flags := 0 } 0 (floatFmt f) false false).code) = [0x41700000, 0x4170, 0x57] := by
  decide +kernel

/-- 03 Example 2: a term that escapes. -/
theorem test_lane_escape : (addTerms 0 Lane.zero [.fin false 3 69, .fin false 1 0]).1 = { v := 0x8000000000000000FFFFFFFFFFFFFFFF, flags := 0x28 } ∧
    Lane.convert { v := 0x8000000000000000FFFFFFFFFFFFFFFF, flags := 0x28 } 0 (floatFmt 1) false false = ⟨0x7F80, true, false⟩ ∧
    Lane.convert { v := 0x8000000000000000FFFFFFFFFFFFFFFF, flags := 0x28 } 0 (floatFmt 1) false true = ⟨0x7F7F, true, false⟩ := by decide +kernel

/-- 06 Example 2: a sampled row returns token 2. -/
theorem test_sampled_row : candidates [0x3F800000, 0x40000000, 0x40000000, 0, 0xFF800000, 0x3F800000] =
      [(1, 0x40000000), (2, 0x40000000), (0, 0x3F800000), (5, 0x3F800000), (3, 0)] ∧ candWeight 0x40000000 0x3F800000 = 0x5E2D590000000000 ∧
    sampleRow [0x3F800000, 0x40000000, 0x40000000, 0, 0xFF800000, 0x3F800000]
      { seed := 0, sequence := 0, step := 0, position := 0, temperature := 0x3F800000, topK := 4, topP := 0x3F400000 } 0xC000000000000000 = some 2 := by decide +kernel

/-- 04 Example 1: the lane map and the slots of a fresh row. -/
theorem test_fresh_row : State.reset.get Fld.RWS_LANE_MAP_lanes 5 = 0x76543210 ∧ State.reset.get Fld.RWS_SITE_STATE_slots 5 = 0x10000 := by decide +kernel

/-- The message "abc" of FIPS 180-4. -/
theorem test_sha512 : beNat (sha512 (ascii "abc")) = 0xddaf35a193617abacc417349ae20413112e6fa4e89a97ea20a9eeee64b55d39a2192992a274fc1a836ba3c23a3feebbd454d4423643ce80e2a9ac94fa54ca49f := by
  decide +kernel

/-- The AES-256 example of FIPS 197. -/
theorem test_aes256 : aesEnc ((List.range 32).map (BitVec.ofNat 8)) (beBytes 16 0x00112233445566778899aabbccddeeff) = beBytes 16 0x8ea2b7ca516745bfeafc49904b496089 ∧
    aesDec ((List.range 32).map (BitVec.ofNat 8)) (beBytes 16 0x8ea2b7ca516745bfeafc49904b496089) = beBytes 16 0x00112233445566778899aabbccddeeff := by decide +kernel

theorem test_p521 : onCurve p521Gx p521Gy = true := by decide +kernel

end Sys2Proof.Tests
end

/-! What a write of a plain register does (00 R2, R3; 11 R503, R504): bit by bit to the fields of the copy written, and to nothing else. -/

namespace Sys2Proof.Machine

/-! ## Bits of numbers -/

theorem bitOf_eq_testBit (n b : Nat) : bitOf n b = n.testBit b := by
  rw [Nat.testBit_eq_decide_div_mod_eq]
  rfl

theorem bitOf_and (m n b : Nat) : bitOf (m &&& n) b = (bitOf m b && bitOf n b) := by
  simp only [bitOf_eq_testBit, Nat.testBit_and]

theorem bitOf_or (m n b : Nat) : bitOf (m ||| n) b = (bitOf m b || bitOf n b) := by
  simp only [bitOf_eq_testBit, Nat.testBit_or]

theorem bitOf_mod_two_pow (n : Nat) {b w : Nat} (hb : b < w) : bitOf (n % 2 ^ w) b = bitOf n b := by
  simp [bitOf_eq_testBit, Nat.testBit_mod_two_pow, hb]

theorem bitOf_bitsOf (n lo : Nat) {b w : Nat} (hb : b < w) : bitOf (bitsOf n lo w) b = bitOf n (lo + b) := by
  rw [bitsOf, bitOf_mod_two_pow _ hb, bitOf_eq_testBit, bitOf_eq_testBit, Nat.testBit_div_two_pow, Nat.add_comm]

/-- The mask a W1C field is ANDed with has the bits that were not written 1. -/
theorem bitOf_xor_ones (n : Nat) {b w : Nat} (hb : b < w) : bitOf (n ^^^ (2 ^ w - 1)) b = !bitOf n b := by
  simp [bitOf_eq_testBit, Nat.testBit_xor, Nat.testBit_two_pow_sub_one, hb]

/-- Within its width a field reads back the bits it was set to. -/
theorem State.bitOf_get_set (s : State) (f : Field) (i x : Nat) {b : Nat} (hb : b < f.width) :
    bitOf ((s.set f i x).get f i) b = bitOf x b := by
  rw [State.get_set_same, bitOf_mod_two_pow x hb]

/-! ## States that differ in listed fields alone -/

theorem State.onlyFields_refl (s : State) (ws : List (Field × Nat)) : s.onlyFields s ws := ⟨s.fieldsBut_refl ws, rfl⟩

theorem State.onlyFields_set {s t : State} {ws : List (Field × Nat)} (h : s.onlyFields t ws) {f : Field} {i : Nat} (hm : (f, i) ∈ ws)
    (x : Nat) : s.onlyFields (t.set f i x) ws := ⟨State.fieldsBut_set h.1 hm x, h.2⟩

theorem State.onlyFields_run {s t : State} {ws : List (Field × Nat)} (h : s.onlyFields t ws) : t.run = s.run :=
  (congrArg State.run h.2 : ({ t with regs := s.regs } : State).run = s.run)

/-! ## One field -/

/-- A bit of a field after a write, from the bit before and the bit written, as its access code says (00 R2); `window` is the boot
window, in which BW bits take writes. -/
def Field.bitAfter (f : Field) (window old written : Bool) : Bool :=
  match f.acc with
  | .ro => old
  | .wo => if f = Fld.LID_OWNER_DATA_data ∨ f = Fld.KS_LOAD_DATA_data then written else old
  | .rw => written
  | .rwl => written
  | .w1c => old && !written
  | .w1s => old || written
  | .bw => if window then written else old

theorem State.writeField_bit (s : State) (i v : Nat) {f : Field} (hf : f ∉ commandFields) {b : Nat} (hb : b < f.width) :
    bitOf ((s.writeField i v f).get f i) b = f.bitAfter s.run.bootWindow (bitOf (s.get f i) b) (bitOf v (f.lo + b)) := by
  have hplain : ¬ commandFields.contains f = true := fun h => hf (List.contains_iff_mem.1 h)
  have hset : ∀ x, bitOf ((s.set f i x).get f i) b = bitOf x b := fun x => s.bitOf_get_set f i x hb
  have hnew : bitOf (bitsOf v f.lo f.width) b = bitOf v (f.lo + b) := bitOf_bitsOf v f.lo hb
  simp only [State.writeField, if_neg hplain, Field.bitAfter]
  cases f.acc with
  | ro => rfl
  | rw => exact (hset _).trans hnew
  | rwl => exact (hset _).trans hnew
  | w1c => simp only [hset, bitOf_and, bitOf_xor_ones _ hb, hnew]
  | w1s => simp only [hset, bitOf_or, hnew]
  | wo =>
    dsimp only
    split
    · exact (hset _).trans hnew
    · exact rfl
  | bw =>
    dsimp only
    split
    · exact (hset _).trans hnew
    · exact rfl

/-- A write of a field sets it or leaves the state as it is. -/
theorem State.writeField_eq_self_or_set (s : State) (i v : Nat) (f : Field) :
    s.writeField i v f = s ∨ ∃ x, s.writeField i v f = s.set f i x := by
  unfold State.writeField
  dsimp only
  split
  · exact .inl rfl
  · cases f.acc with
    | ro => exact .inl rfl
    | rw => exact .inr ⟨_, rfl⟩
    | rwl => exact .inr ⟨_, rfl⟩
    | w1c => exact .inr ⟨_, rfl⟩
    | w1s => exact .inr ⟨_, rfl⟩
    | wo =>
      dsimp only
      split
      · exact .inr ⟨_, rfl⟩
      · exact .inl rfl
    | bw =>
      dsimp only
      split
      · exact .inr ⟨_, rfl⟩
      · exact .inl rfl

theorem State.onlyFields_writeField {s t : State} {ws : List (Field × Nat)} (h : s.onlyFields t ws) {f : Field} {i : Nat}
    (hm : (f, i) ∈ ws) (v : Nat) : s.onlyFields (t.writeField i v f) ws := by
  obtain hs | ⟨x, hs⟩ := t.writeField_eq_self_or_set i v f
  · rwa [hs]
  · rw [hs]
    exact State.onlyFields_set h hm x

/-! ## The fields of a register, one after the other -/

/-- The fields of a list after a write of a word, all of copy `i`. -/
def State.writeFields (s : State) (i v : Nat) (fs : List Field) : State := fs.foldl (fun s f => s.writeField i v f) s

theorem State.writeReg_eq_writeFields (s : State) (r i v : Nat) : s.writeReg r i v = s.writeFields i v (fieldsOf r) := rfl

theorem State.writeFields_cons (s : State) (i v : Nat) (f : Field) (fs : List Field) :
    s.writeFields i v (f :: fs) = (s.writeField i v f).writeFields i v fs := rfl

theorem State.onlyFields_writeFields {s t : State} {ws : List (Field × Nat)} (h : s.onlyFields t ws) {i : Nat} {fs : List Field}
    (hm : ∀ f ∈ fs, (f, i) ∈ ws) (v : Nat) : s.onlyFields (t.writeFields i v fs) ws := by
  induction fs generalizing t with
  | nil => exact h
  | cons f fs ih =>
    exact ih (State.onlyFields_writeField h (hm f (List.mem_cons_self ..)) v) (fun g hg => hm g (List.mem_cons_of_mem _ hg))

/-- A write of fields changes the written copies of those fields alone. -/
theorem State.writeFields_onlyFields (s : State) (i v : Nat) (fs : List Field) :
    s.onlyFields (s.writeFields i v fs) (fs.map (fun f => (f, i))) :=
  State.onlyFields_writeFields (s.onlyFields_refl _) (fun _ hf => List.mem_map_of_mem hf) v

/-- A field whose place none of the written fields shares reads as before. -/
theorem State.writeFields_get_apart (s : State) (i v : Nat) {fs : List Field} {g : Field} {j : Nat}
    (h : ∀ f ∈ fs, g.key j ≠ f.key i) : (s.writeFields i v fs).get g j = s.get g j := by
  refine (s.writeFields_onlyFields i v fs).1 g j (fun w hw => ?_)
  obtain ⟨f, hf, rfl⟩ := List.mem_map.1 hw
  exact h f hf

/-- Where no two fields share a place each takes its own bits, whatever is written before and after it. -/
theorem State.writeFields_bit (s : State) (i v : Nat) {fs : List Field} (hfs : fs.Pairwise (fun f g => f.key i ≠ g.key i))
    {f : Field} (hm : f ∈ fs) (hf : f ∉ commandFields) {b : Nat} (hb : b < f.width) :
    bitOf ((s.writeFields i v fs).get f i) b = f.bitAfter s.run.bootWindow (bitOf (s.get f i) b) (bitOf v (f.lo + b)) := by
  induction fs generalizing s with
  | nil => cases hm
  | cons g fs ih =>
    obtain ⟨hg, hrest⟩ := List.pairwise_cons.1 hfs
    rw [State.writeFields_cons]
    rcases List.mem_cons.1 hm with rfl | hm
    · rw [State.writeFields_get_apart _ i v hg, s.writeField_bit i v hf hb]
    · have hget : (s.writeField i v g).get f i = s.get f i :=
        s.writeFields_get_apart i v (fs := [g]) (by simpa using (hg f hm).symm)
      have hrun : (s.writeField i v g).run = s.run := State.onlyFields_run (s.writeFields_onlyFields i v [g])
      rw [ih _ hrest hm, hget, hrun]

/-- No two fields of a register share a place. -/
theorem fieldsOf_keys_ne (r i : Nat) : (fieldsOf r).Pairwise (fun f g => f.key i ≠ g.key i) := by
  refine (List.pairwise_map.1 (fieldsOf_rising r)).imp (fun {f g} h => ?_)
  unfold Field.key
  omega

theorem reg_of_mem_fieldsOf {r : Nat} {f : Field} (h : f ∈ fieldsOf r) : f.reg = r :=
  beq_iff_eq.1 (List.mem_filter.1 h).2

/-! ## Registers whose write has no further effect -/

theorem commandFields_reg_mem_effectRegs : ∀ f ∈ commandFields, f.reg ∈ effectRegs := by decide

theorem not_mem_commandFields {r : Nat} (hr : r ∉ effectRegs) {f : Field} (hf : f ∈ fieldsOf r) : f ∉ commandFields :=
  fun hc => hr (reg_of_mem_fieldsOf hf ▸ commandFields_reg_mem_effectRegs f hc)

/-- What a write of a plain register leaves in each bit of its fields. -/
theorem State.writeReg_bit (s : State) {r : Nat} (hr : r ∉ effectRegs) (i v : Nat) {f : Field} (hf : f ∈ fieldsOf r) {b : Nat}
    (hb : b < f.width) :
    bitOf ((s.writeReg r i v).get f i) b = f.bitAfter s.run.bootWindow (bitOf (s.get f i) b) (bitOf v (f.lo + b)) :=
  s.writeFields_bit i v (fieldsOf_keys_ne r i) hf (not_mem_commandFields hr hf) hb

theorem State.afterWrite_plain (s : State) {r : Nat} (hr : r ∉ effectRegs) (i : Nat) : s.afterWrite r i = s := by
  have hne : ∀ e ∈ effectRegs, r ≠ e := fun e he h => hr (h ▸ he)
  have hpin : ¬ (r = Fld.FC_CTRL_err_mode.reg ∨ r = Fld.FC_ERR_PIN_sw_assert.reg ∨ r = Fld.FC_SRC_CFG_severity.reg) := by
    rintro (h | h | h) <;> exact hne _ (by decide) h
  rw [State.afterWrite, if_neg (hne _ (by decide)), if_neg hpin, if_neg (hne _ (by decide))]

theorem State.mmioWrite_plain (s : State) {a : Agent} {off r i : Nat} (ht : s.target a off = some (r, i)) (hr : r ∉ effectRegs)
    (v : Nat) : s.mmioWrite a off v = if s.accepts a off then s.writeReg r i v else s := by
  simp only [State.mmioWrite, ht, State.afterWrite_plain _ hr]

/-- A sleeping agent's window shows nothing. -/
theorem State.target_of_asleep (s : State) {a : Agent} (h : s.agentAsleep a = true) (off : Nat) : s.target a off = none := by
  simp [State.target, h]

theorem State.barWrite_no_target (s : State) {a : Agent} {off : Nat} (hx : msixAt a off = none) (ht : s.target a off = none)
    (v : Word32) : s.barWrite a off v = .next s := by
  simp [State.barWrite, hx, ht]

/-- A write where a plain register lies goes by its access codes alone. -/
theorem State.barWrite_plain (s : State) {a : Agent} {off r i : Nat} (hx : msixAt a off = none) (ht : s.target a off = some (r, i))
    (hr : r ∉ effectRegs) (v : Word32) : s.barWrite a off v = .next (s.mmioWrite a off v.toNat) := by
  have hawake : ¬ s.agentAsleep a = true := fun h => by simp [s.target_of_asleep h off] at ht
  simp only [effectRegs, List.mem_cons, List.not_mem_nil, not_or] at hr
  simp only [State.barWrite, hawake, hx, ht, hr, Bool.false_eq_true, if_false, false_and, or_self]

theorem exec_registerWrite (s : State) (a : Agent) (off : BitVec 26) (v : Word32) :
    exec (.registerWrite a off v) s = s.barWrite a off.toNat v := rfl

/-- Settles O15: a write of a plain register writes its fields one after the other, and since no two of them share a place each bit
follows its own access code. -/
theorem registerWriteFollowsItsAccessCodes : Obligations.RegisterWriteFollowsItsAccessCodes := by
  intro s a off v hx
  rw [exec_registerWrite]
  refine ⟨fun ht => s.barWrite_no_target hx ht v, fun r i ht hr => ?_⟩
  rw [s.barWrite_plain hx ht hr, s.mmioWrite_plain ht hr]
  refine ⟨fun ha => by simp [ha], fun ha => ⟨s.writeReg r i v.toNat, by simp [ha], ?_, ?_⟩⟩
  · intro f hf b hb
    exact s.writeReg_bit hr i v.toNat hf hb
  · exact s.writeFields_onlyFields i v.toNat (fieldsOf r)

end Sys2Proof.Machine

/-! What every command does, whatever else it does: it answers a next state, and that state comes after the one before (Laws/Kept.lean),
but that three commands may end the module's running (13 R622; 16 R698, R705). -/

namespace Sys2Proof.Machine

/-! ## The three commands that end the module's running -/

/-- A command that ends the running of a module in this state (13 R622; 16 R698, R705). -/
def State.endsRunning (s : State) : Instr → Prop
  | .powerInputLoss mv us => mv < 44000 ∧ 100 ≤ us
  | .perstAssert us => 100 ≤ us
  | .coolantStop n => s.run.coolantArmed = true ∧ 10 ≤ n
  | _ => False

theorem State.endsRunning_cases {s : State} {c : Instr} (h : s.endsRunning c) :
    (∃ mv us, c = .powerInputLoss mv us ∧ mv < 44000 ∧ 100 ≤ us) ∨ (∃ us, c = .perstAssert us ∧ 100 ≤ us) ∨
      (∃ n, c = .coolantStop n ∧ s.run.coolantArmed = true ∧ 10 ≤ n) := by
  cases c with
  | powerInputLoss mv us => exact .inl ⟨mv, us, rfl, h⟩
  | perstAssert us => exact .inr (.inl ⟨us, rfl, h⟩)
  | coolantStop n => exact .inr (.inr ⟨n, rfl, h⟩)
  | _ => exact h.elim

/-- An input that is too high, or low for too short a time, is no loss. -/
theorem execPowerInputLoss_kept {s₀ s : State} (hk : Kept s₀ s) {mv us : Nat} (h : ¬ (mv < 44000 ∧ 100 ≤ us)) :
    KeptR s₀ (execPowerInputLoss mv us s) := by
  rw [execPowerInputLoss, if_neg (fun hc => h ⟨hc.1, hc.2.1⟩)]
  exact .next hk

theorem execPerstAssert_kept {s₀ s : State} (hk : Kept s₀ s) {us : Nat} (h : ¬ 100 ≤ us) :
    KeptR s₀ (execPerstAssert us s) := by
  rw [execPerstAssert, if_pos (.inl (Nat.lt_of_not_le h))]
  exact .next hk

/-- A low coolant signal that stops nothing shows in the pin alone. -/
theorem execCoolantStop_kept {s₀ s : State} (hk : Kept s₀ s) {n : Nat} (h : ¬ (s.run.coolantArmed = true ∧ 10 ≤ n)) :
    KeptR s₀ (execCoolantStop n s) := by
  rw [execCoolantStop, if_neg (fun hc => h hc.2)]
  exact .ite (.next (hk.frame id (List.Subset.refl _))) (.next hk)

/-- Left to unification, with the operand unknown, this unfolding goes too deep. -/
theorem exec_sealHashDone (accepted : Bool) (s : State) : exec (.sealHashDone accepted) s = execSealHashDone accepted s := rfl

/-- What every command keeps that does not end the module's running. -/
theorem exec_kept {s₀ s : State} (hk : Kept s₀ s) (c : Instr) (hc : ¬ s.endsRunning c) : KeptR s₀ (exec c s) := by
  cases c with
  | powerInputLoss => exact execPowerInputLoss_kept hk hc
  | perstAssert => exact execPerstAssert_kept hk hc
  | coolantStop => exact execCoolantStop_kept hk hc
  | powerInputApply => exact execPowerInputApply_kept hk
  | perstRelease => exact execPerstRelease_kept hk
  | pllLock => exact execPllLock_kept hk
  | pllHoldover => exact execPllHoldover_kept hk
  | pllRelock => exact execPllRelock_kept hk
  | bootRomEntry => exact execBootRomEntry_kept hk
  | coreRelease => exact execCoreRelease_kept hk
  | i3cModuleWrite => exact execI3cModuleWrite_kept hk
  | registerWrite => exact execRegisterWrite_kept hk
  | monitorStatus => exact execMonitorStatus_kept hk
  | monitorCap => exact execMonitorCap_kept hk
  | monitorLog => exact execMonitorLog_kept hk
  | monitorPower => exact execMonitorPower_kept hk
  | monitorRd => exact execMonitorRd_kept hk
  | monitorBaud => exact execMonitorBaud_kept hk
  | monitorWr => exact execMonitorWr_kept hk
  | monitorForce => exact execMonitorForce_kept hk
  | monitorHold => exact execMonitorHold_kept hk
  | reseatManifest => exact execReseatManifest_kept hk
  | reseatFirmware => exact execReseatFirmware_kept hk
  | reseatBoth => exact execReseatBoth_kept hk
  | rimRestart => exact execRimRestart_kept hk
  | rimHeartbeat => exact execRimHeartbeat_kept hk
  | faultReport => exact execFaultReport_kept hk
  | errPulseEnd => exact execErrPulseEnd_kept hk
  | quietPeriod => exact execQuietPeriod_kept hk
  | fcForce => exact execFcForce_kept hk
  | fcInjectArm => exact execFcInjectArm_kept hk
  | engineReset => exact execEngineReset_kept hk
  | engineResetDrained => exact execEngineResetDrained_kept hk
  | engineBistDone => exact execEngineBistDone_kept hk
  | rwsSpareCmd => exact execRwsSpareCmd_kept hk
  | lsScrubStart => exact execLsScrubStart_kept hk
  | lsScrubDone => exact execLsScrubDone_kept hk
  | handoverReadbackDone => exact execHandoverReadbackDone_kept hk
  | channelRetire => exact execChannelRetire_kept hk
  | patrolScrub => exact execPatrolScrub_kept hk
  | hbmPhyRecal i => exact execHbmPhyRecal_kept (_stack := i) hk
  | sramScrub => exact execSramScrub_kept hk
  | agingCheck => exact execAgingCheck_kept hk
  | coreRotation => exact execCoreRotation_kept hk
  | telemetrySample => exact execTelemetrySample_kept hk
  | submissionWrite => exact execSubmissionWrite_kept hk
  | queueFill => exact execQueueFill_kept hk
  | completionPop => exact execCompletionPop_kept hk
  | completionPost => exact execCompletionPost_kept hk
  | cmdIdle => exact execCmdIdle_kept hk
  | cmdKernel => exact execCmdKernel_kept hk
  | kernelStartResume => exact execKernelStartResume_kept hk
  | cmdBatchStep => exact execCmdBatchStep_kept hk
  | batchStepApply => exact execBatchStepApply_kept hk
  | joinOutcomes => exact execJoinOutcomes_kept hk
  | stepVerdict => exact execStepVerdict_kept hk
  | cmdFenceWait => exact execCmdFenceWait_kept hk
  | cmdFenceSignal => exact execCmdFenceSignal_kept hk
  | cmdFenceTimeout => exact execCmdFenceTimeout_kept hk
  | contextStop => exact execContextStop_kept hk
  | contextStopped => exact execContextStopped_kept hk
  | contextResume => exact execContextResume_kept hk
  | quantumExpire => exact execQuantumExpire_kept hk
  | opIdle => exact execOpIdle_kept hk
  | opMatmul => exact execOpMatmul_kept hk
  | opVec => exact execOpVec_kept hk
  | opVecReduce => exact execOpVecReduce_kept hk
  | opConvert => exact execOpConvert_kept hk
  | opLoad => exact execOpLoad_kept hk
  | opStore => exact execOpStore_kept hk
  | opGather => exact execOpGather_kept hk
  | opExchangeSend => exact execOpExchangeSend_kept hk
  | opExchangeReceive => exact execOpExchangeReceive_kept hk
  | opReduceLong => exact execOpReduceLong_kept hk
  | reduceTreeStart => exact execReduceTreeStart_kept hk
  | opAttention => exact execOpAttention_kept hk
  | opKvAppend => exact execOpKvAppend_kept hk
  | opSample => exact execOpSample_kept hk
  | opFenceWait => exact execOpFenceWait_kept hk
  | opFenceSignal => exact execOpFenceSignal_kept hk
  | fenceWaitTimeout => exact execFenceWaitTimeout_kept hk
  | operationComplete => exact execOperationComplete_kept hk
  | clipWindowClose => exact execClipWindowClose_kept hk
  | countBlock => exact execCountBlock_kept hk
  | weaverWaitTimeout => exact execWeaverWaitTimeout_kept hk
  | ledgerDeadline => exact execLedgerDeadline_kept hk
  | resp => exact execResp_kept hk
  | respPull => exact execRespPull_kept hk
  | respTake => exact execRespTake_kept hk
  | fenceWake => exact execFenceWake_kept hk
  | fencePoll => exact execFencePoll_kept hk
  | fenceUpdate => exact execFenceUpdate_kept hk
  | fenceOpGo => exact execFenceOpGo_kept hk
  | rowStoreRead => exact execRowStoreRead_kept hk
  | rowStoreWrite => exact execRowStoreWrite_kept hk
  | mergeWindowExpire => exact execMergeWindowExpire_kept hk
  | arbiterDecision => exact execArbiterDecision_kept hk
  | budgetWindow => exact execBudgetWindow_kept hk
  | seamEntryArrive => exact execSeamEntryArrive_kept hk
  | seamCreditReturn => exact execSeamCreditReturn_kept hk
  | wakeTokenIssue => exact execWakeTokenIssue_kept hk
  | gateIdle => exact execGateIdle_kept hk
  | bridgeFlitReceive => exact execBridgeFlitReceive_kept hk
  | dvfsGrant => exact execDvfsGrant_kept hk
  | railSettled => exact execRailSettled_kept hk
  | droopDetect => exact execDroopDetect_kept hk
  | stretchRunEnd => exact execStretchRunEnd_kept hk
  | ceilingExpire => exact execCeilingExpire_kept hk
  | droopCalibrate i => exact execDroopCalibrate_kept (_row := i) hk
  | powerMeasure => exact execPowerMeasure_kept hk
  | powerAdjust => exact execPowerAdjust_kept hk
  | tempSample => exact execTempSample_kept hk
  | thermalCapStep => exact execThermalCapStep_kept hk
  | tempClearPeaks => exact execTempClearPeaks_kept hk
  | paceRepeat => exact execPaceRepeat_kept hk
  | pace => exact execPace_kept hk
  | paceCapExpire => exact execPaceCapExpire_kept hk
  | heatEpoch => exact execHeatEpoch_kept hk
  | pageMoveDone => exact execPageMoveDone_kept hk
  | editInvalidate => exact execEditInvalidate_kept hk
  | editUnmap => exact execEditUnmap_kept hk
  | editSetRights => exact execEditSetRights_kept hk
  | editObjCreate => exact execEditObjCreate_kept hk
  | editObjFree => exact execEditObjFree_kept hk
  | editFrameReserve => exact execEditFrameReserve_kept hk
  | editFrameRelease => exact execEditFrameRelease_kept hk
  | editDrainDone => exact execEditDrainDone_kept hk
  | flitReceive => exact execFlitReceive_kept hk
  | replayTimeout => exact execReplayTimeout_kept hk
  | packetForward => exact execPacketForward_kept hk
  | readReq => exact execReadReq_kept hk
  | readData => exact execReadData_kept hk
  | writePkt => exact execWritePkt_kept hk
  | atomicPkt => exact execAtomicPkt_kept hk
  | offerPkt => exact execOfferPkt_kept hk
  | dataPkt => exact execDataPkt_kept hk
  | partialPkt => exact execPartialPkt_kept hk
  | pagePkt => exact execPagePkt_kept hk
  | ident => exact execIdent_kept hk
  | notReady => exact execNotReady_kept hk
  | notReadyRepeat => exact execNotReadyRepeat_kept hk
  | sealFlit => exact execSealFlit_kept hk
  | laneFlit => exact execLaneFlit_kept hk
  | linkTrained => exact execLinkTrained_kept hk
  | portLost => exact execPortLost_kept hk
  | lostPortRetrain => exact execLostPortRetrain_kept hk
  | lossMsg => exact execLossMsg_kept hk
  | laneFail => exact execLaneFail_kept hk
  | laneRetrainDone => exact execLaneRetrainDone_kept hk
  | portRetire => exact execPortRetire_kept hk
  | globalPortKeyExchange => exact execGlobalPortKeyExchange_kept hk
  | keyUpdate => exact execKeyUpdate_kept hk
  | linkDown => exact execLinkDown_kept hk
  | linkReturn => exact execLinkReturn_kept hk
  | dmaCompletion => exact execDmaCompletion_kept hk
  | flrVf => exact execFlrVf_kept hk
  | flrPf => exact execFlrPf_kept hk
  | flrCarrier => exact execFlrCarrier_kept hk
  | tdispNonIdeTlp => exact execTdispNonIdeTlp_kept hk
  | lockInterfaceRequest => exact execLockInterfaceRequest_kept hk
  | ideKmKeyProg => exact execIdeKmKeyProg_kept hk
  | spdmRequest => exact execSpdmRequest_kept hk
  | negotiateAlgorithms => exact execNegotiateAlgorithms_kept hk
  | getMeasurements => exact execGetMeasurements_kept hk
  | getBinding => exact execGetBinding_kept hk
  | ownerChallenge => exact execOwnerChallenge_kept hk
  | nonceExpire => exact execNonceExpire_kept hk
  | ownerProgram => exact execOwnerProgram_kept hk
  | monitorUnlock => exact execMonitorUnlock_kept hk
  | svnAdvance => exact execSvnAdvance_kept hk
  | ownerRelease => exact execOwnerRelease_kept hk
  | ksLoad => exact execKsLoad_kept hk
  | ksZero => exact execKsZero_kept hk
  | lidCharter => exact execLidCharter_kept hk
  | lidAmend => exact execLidAmend_kept hk
  | keyDist => exact execKeyDist_kept hk
  | keyAck => exact execKeyAck_kept hk
  | lidReady => exact execLidReady_kept hk
  | keyDistTimeout => exact execKeyDistTimeout_kept hk
  | lidDissolve => exact execLidDissolve_kept hk
  | revoke => exact execRevoke_kept hk
  | depart => exact execDepart_kept hk
  | lidPartRemove => exact execLidPartRemove_kept hk
  | revokeAck => exact execRevokeAck_kept hk
  | revokeTimeout => exact execRevokeTimeout_kept hk
  | lidScrubDone => exact execLidScrubDone_kept hk
  | lidImport => exact execLidImport_kept hk
  | keyRelease => exact execKeyRelease_kept hk
  | plaitLoad => exact execPlaitLoad_kept hk
  | plaitAbort => exact execPlaitAbort_kept hk
  | plaitFetchDone => exact execPlaitFetchDone_kept hk
  | plaitChangeEffect => exact execPlaitChangeEffect_kept hk
  | plaitCommit => exact execPlaitCommit_kept hk
  | shapeReport => exact execShapeReport_kept hk
  | shapeState => exact execShapeState_kept hk
  | spanOpen => exact execSpanOpen_kept hk
  | pgSeal => exact execPgSeal_kept hk
  | sealHashDone accepted =>
    rw [exec_sealHashDone]
    exact execSealHashDone_kept hk
  | sealInstall src => exact execSealInstall_kept (_src := src) hk
  | pgSealRelease => exact execPgSealRelease_kept hk
  | sealBreak => exact execSealBreak_kept hk
  | readLoLatchesHi => exact execReadLoLatchesHi_kept hk
  | tdispRun => exact execTdispRun_kept hk
  | i3cDynamicAddress => exact execI3cDynamicAddress_kept hk
  | monitorUnknownCommand => exact execMonitorUnknownCommand_kept hk
  | spareBuiltInTestDone => exact execSpareBuiltInTestDone_kept hk
  | subLinkLossOfLock => exact execSubLinkLossOfLock_kept hk
  | portSignalDetect => exact execPortSignalDetect_kept hk

/-! ## What the three commands keep all the same

`{ s with run := Run.reset }` does not run, so that to come after it is to keep all that `Kept` names but the running. -/

theorem Kept.runReset (s : State) : Kept { s with run := Run.reset } s :=
  ⟨rfl, List.prefix_refl _, Nat.le_refl _, Fuses.le_refl _, id, id, (fun h => nomatch h), List.Subset.refl _⟩

theorem Kept.withRunReset {s t : State} (h : Kept { s with run := Run.reset } t) :
    Kept { s with run := Run.reset } { t with run := Run.reset } :=
  ⟨h.pending, h.outbox, h.drawn, h.fuses, h.mem, h.regs, (fun hr => nomatch hr), h.retired⟩

theorem execPowerInputLoss_keptButRun (mv us : Nat) (s : State) :
    KeptR { s with run := Run.reset } (execPowerInputLoss mv us s) :=
  .ite (.next (s.lostAll_kept.frame id (List.Subset.refl _))) (.next (.runReset s))

theorem execPerstAssert_keptButRun (us : Nat) (s : State) : KeptR { s with run := Run.reset } (execPerstAssert us s) :=
  have held := s.lostAll_kept.frame (run := { s.lostAll.run with phase := .held }) (fun hr => nomatch hr) (List.Subset.refl _)
  .ite (.next (.runReset s)) (.next (State.driveTherm_kept (State.driveErr_kept (State.setAll_kept 0 _ held))))

theorem execCoolantStop_keptButRun (n : Nat) (s : State) : KeptR { s with run := Run.reset } (execCoolantStop n s) := by
  have hs : Kept { s with run := Run.reset } s := .runReset s
  refine .ite ?_ (.ite (.next (hs.frame id (List.Subset.refl _))) (.next hs))
  extract_lets _ pin flagged reported gated unported unlinked stopped
  have h : Kept { s with run := Run.reset } unlinked := by
    refine .foldl (.foldl (.foldl ?_ fun t h ht => ?_) fun t p ht => State.set_kept _ _ _ ht) fun t fn ht => State.set_kept _ _ _ ht
    · exact State.driveTherm_kept (State.report_kept (State.setAll_kept _ _ (hs.frame id (List.Subset.refl _))))
    · exact State.set_kept _ _ _ (State.setDiv_kept (State.set_kept _ _ _ ht))
  clear_value unlinked
  exact .next (State.refreshServing_kept (h.withRunReset.frame (fun hr => nomatch hr) (List.Subset.refl _)))

/-- Every command keeps the queue, what was sent and drawn, the fuses, the form of the memories and the registers, and the retired
channels. -/
theorem exec_keptButRun (c : Instr) (s : State) : KeptR { s with run := Run.reset } (exec c s) := by
  by_cases hc : s.endsRunning c
  · cases c with
    | powerInputLoss mv us => exact execPowerInputLoss_keptButRun mv us s
    | perstAssert us => exact execPerstAssert_keptButRun us s
    | coolantStop n => exact execCoolantStop_keptButRun n s
    | _ => exact hc.elim
  · exact exec_kept (.runReset s) c hc

/-! ## Every command answers -/

/-- An outcome that is a next state. -/
def Answers (o : Out) : Prop := ∃ t, o = .next t

theorem Answers.next (s : State) : Answers (.next s) := ⟨s, rfl⟩

theorem Answers.ite {p : Prop} [Decidable p] {o r : Out} (ho : Answers o) (hr : Answers r) : Answers (if p then o else r) := by
  split
  · exact ho
  · exact hr

theorem Answers.andThen {o : Out} {f : State → Out} (ho : Answers o) (hf : ∀ s, Answers (f s)) : Answers (o.andThen f) := by
  obtain ⟨s, rfl⟩ := ho
  exact hf s

/-- The commands whose meaning runs another command's: a write at any offset, and the lines of the monitor. -/
def runsAnother : Instr → Bool
  | .registerWrite .. | .monitorCap | .monitorLog .. | .monitorPower | .monitorRd .. | .monitorBaud .. | .monitorWr ..
  | .monitorForce .. | .monitorHold .. | .monitorUnknownCommand .. => true
  | _ => false

/-- A meaning that runs no other command's is one next state, or conditions and cases with a next state in every branch. The groups
below are these three shapes; in the last, a state that is named in between is set aside before the cases behind it. -/
theorem exec_answers_of_not_runsAnother (c : Instr) (s : State) (hc : runsAnother c = false) : Answers (exec c s) := by
  cases c
  case registerWrite | monitorCap | monitorLog | monitorPower | monitorRd | monitorBaud | monitorWr | monitorForce | monitorHold |
      monitorUnknownCommand => cases hc
  case reseatManifest | reseatFirmware | reseatBoth | hbmPhyRecal | telemetrySample | queueFill | joinOutcomes | stepVerdict |
    opIdle | opMatmul | opVec | opVecReduce | opConvert | opLoad | opStore | opGather | opExchangeSend | opExchangeReceive |
    opReduceLong | opAttention | opKvAppend | opSample | opFenceWait | opFenceSignal | countBlock | fenceOpGo |
    mergeWindowExpire | dvfsGrant | droopCalibrate | tempSample | heatEpoch | editInvalidate | editUnmap | editSetRights |
    editObjCreate | editObjFree | editFrameReserve | editFrameRelease | editDrainDone | readReq | readData | writePkt |
    atomicPkt | offerPkt | dataPkt | partialPkt | pagePkt | spdmRequest | negotiateAlgorithms | getBinding | monitorUnlock |
    svnAdvance | ownerRelease | shapeReport | shapeState | subLinkLossOfLock => exact Answers.next _
  case powerInputApply | powerInputLoss | perstAssert | perstRelease | pllLock | pllHoldover | pllRelock | coreRelease |
    coolantStop | i3cModuleWrite | monitorStatus | rimRestart | rimHeartbeat | faultReport | quietPeriod | fcForce |
    fcInjectArm | engineReset | engineResetDrained | rwsSpareCmd | lsScrubStart | coreRotation | submissionWrite |
    completionPop | contextStop | contextResume | respTake | fenceUpdate | rowStoreRead | rowStoreWrite | budgetWindow |
    seamEntryArrive | seamCreditReturn | wakeTokenIssue | gateIdle | railSettled | droopDetect | stretchRunEnd |
    ceilingExpire | powerMeasure | thermalCapStep | tempClearPeaks | paceRepeat | paceCapExpire | flitReceive | replayTimeout |
    packetForward | ident | notReady | notReadyRepeat | laneFlit | linkTrained | portLost | lostPortRetrain | lossMsg |
    laneFail | portRetire | globalPortKeyExchange | keyUpdate | linkDown | linkReturn | flrVf | flrPf | flrCarrier |
    tdispNonIdeTlp | lockInterfaceRequest | ideKmKeyProg | ownerChallenge | nonceExpire | ksLoad | ksZero | lidAmend |
    keyDist | keyAck | lidReady | keyDistTimeout | lidDissolve | lidPartRemove | revokeAck | revokeTimeout | lidScrubDone |
    lidImport | plaitLoad | plaitAbort | plaitCommit | pgSealRelease | tdispRun | i3cDynamicAddress | spareBuiltInTestDone |
    portSignalDetect =>
    refine Answers.ite ?_ ?_
    all_goals repeat' with_reducible refine Answers.ite ?_ ?_
    all_goals exact Answers.next _
  all_goals
    dsimp -zeta only [exec, execBootRomEntry, execErrPulseEnd, execEngineBistDone, execLsScrubDone, execHandoverReadbackDone,
      execChannelRetire, execPatrolScrub, execSramScrub, execAgingCheck, execCompletionPost, execCmdIdle, execCmdKernel,
      execKernelStartResume, execCmdBatchStep, execBatchStepApply, execCmdFenceWait, execCmdFenceSignal, execCmdFenceTimeout,
      execContextStopped, execQuantumExpire, execReduceTreeStart, execFenceWaitTimeout, execOperationComplete,
      execClipWindowClose, execWeaverWaitTimeout, execLedgerDeadline, execResp, execRespPull, execFenceWake, execFencePoll,
      execArbiterDecision, execBridgeFlitReceive, execPowerAdjust, execPace, execPageMoveDone, execSealFlit,
      execLaneRetrainDone, execDmaCompletion, execGetMeasurements, execOwnerProgram, execLidCharter, execRevoke, execDepart,
      execKeyRelease, execPlaitFetchDone, execPlaitChangeEffect, execSpanOpen, execPgSeal, execSealHashDone, execSealInstall,
      execSealBreak, execReadLoLatchesHi]
    repeat' first
      | with_reducible exact Answers.next _
      | (extract_lets; clear_value *)
      | with_reducible refine Answers.ite ?_ ?_
      | split

theorem State.writeReseat_answers (s : State) (a : Agent) (off : Nat) (v : Word32) : Answers (s.writeReseat a off v) := by
  unfold State.writeReseat
  split <;> exact Answers.next _

theorem State.writeEdit_answers (s : State) (p : Fin 32) (v : Word32) : Answers (s.writeEdit p v) := by
  unfold State.writeEdit
  split <;> exact Answers.next _

theorem State.writeOwner_answers (s : State) (a : Agent) (v : Word32) : Answers (s.writeOwner a v) := by
  unfold State.writeOwner
  refine Answers.ite (exec_answers_of_not_runsAnother (.ownerChallenge a v) s rfl) ?_
  split
  · exact exec_answers_of_not_runsAnother (.ownerProgram a v) s rfl
  · exact exec_answers_of_not_runsAnother (.monitorUnlock a v) s rfl
  · exact exec_answers_of_not_runsAnother (.svnAdvance a v) s rfl
  · exact exec_answers_of_not_runsAnother (.ownerRelease a v) s rfl
  · exact Answers.ite (Answers.next _) (Answers.next _)

/-- A write at any offset answers, whatever command it gives. -/
theorem State.barWrite_answers (s : State) (a : Agent) (off : Nat) (v : Word32) : Answers (s.barWrite a off v) := by
  have run : ∀ c : Instr, runsAnother c = false → Answers (exec c s) := fun c => exec_answers_of_not_runsAnother c s
  unfold State.barWrite
  refine Answers.ite (Answers.next _) ?_
  split
  next => exact Answers.next _
  next =>
    split
    next => exact Answers.next _
    next r i _ =>
      refine .ite (s.writeReseat_answers a off v) <| .ite ?plait <| .ite (run (.rimRestart a v) rfl) <|
        .ite (run (.fcForce a v) rfl) <| .ite (run (.fcInjectArm a v) rfl) <|
        .ite (run (.engineReset a v) rfl) <| .ite (run (.rwsSpareCmd a (Fin.ofNat 32 i) v) rfl) <|
        .ite (run (.lsScrubStart a (Fin.ofNat 288 i) v) rfl) <| .ite ?stop <|
        .ite (run (.fenceOpGo _ v) rfl) <| .ite (run (.tempClearPeaks a v) rfl) <|
        .ite (s.writeEdit_answers _ v) <| .ite (run (.portRetire a (Fin.ofNat 80 i) v) rfl) <|
        .ite (s.writeOwner_answers a v) <| .ite (run (.ksLoad a v) rfl) <| .ite (run (.ksZero a v) rfl) <|
        .ite (run (.lidPartRemove a (Fin.ofNat 32 i) v) rfl) <|
        .ite (.ite (run (.lidImport _ v) rfl) (Answers.next _)) <| .ite ?sealing <|
        .ite (Answers.next _) <| .ite (Answers.next _) (Answers.next _)
      case plait =>
        split
        · exact run (.plaitLoad a v) rfl
        · exact run (.plaitAbort a v) rfl
        · exact Answers.next _
      case stop =>
        refine .andThen (run (.contextStop a (Fin.ofNat 2048 i) v) rfl) fun t => .ite ?_ (Answers.next _)
        exact exec_answers_of_not_runsAnother (.contextResume a (Fin.ofNat 2048 i) v) t rfl
      case sealing =>
        refine .andThen (run (.pgSeal _ (Fin.ofNat 64 (i / 16)) (Fin.ofNat 16 i) v) rfl) fun t => .ite ?_ (Answers.next _)
        exact exec_answers_of_not_runsAnother (.pgSealRelease _ (Fin.ofNat 64 (i / 16)) (Fin.ofNat 16 i) v) t rfl

theorem State.monitorCmd_answers (s : State) (permitted : Bool) {f : State → Out} (hf : ∀ s, Answers (f s)) :
    Answers (s.monitorCmd permitted f) :=
  .ite (Answers.next _) (.ite (hf s) (Answers.next _))

theorem execMonitorCap_answers (s : State) : Answers (execMonitorCap s) := by
  unfold execMonitorCap
  exact s.monitorCmd_answers _ fun _ => Answers.next _

theorem execMonitorRd_answers (s : State) (addr : BitVec 26) : Answers (execMonitorRd addr s) := by
  unfold execMonitorRd
  refine s.monitorCmd_answers _ fun t => .andThen ?_ fun _ => Answers.next _
  exact exec_answers_of_not_runsAnother (.readLoLatchesHi .monitor addr) t rfl

theorem execMonitorBaud_answers (s : State) (n : Nat) : Answers (execMonitorBaud n s) := by
  unfold execMonitorBaud
  exact s.monitorCmd_answers _ fun _ => .ite (Answers.next _) (Answers.next _)

theorem execMonitorWr_answers (s : State) (addr : BitVec 26) (v : Word32) : Answers (execMonitorWr addr v s) := by
  unfold execMonitorWr
  exact s.monitorCmd_answers _ fun t => .andThen (t.barWrite_answers .monitor addr.toNat v) fun _ => Answers.next _

theorem execMonitorForce_answers (s : State) (f : BitVec 8) (k : BitVec 9) : Answers (execMonitorForce f k s) := by
  unfold execMonitorForce
  exact s.monitorCmd_answers _ fun t => .andThen (exec_answers_of_not_runsAnother (.fcForce .monitor _) t rfl) fun _ => Answers.next _

theorem execMonitorHold_answers (s : State) (withdraw : Bool) : Answers (execMonitorHold withdraw s) := by
  unfold execMonitorHold
  exact s.monitorCmd_answers _ fun _ => Answers.next _

/-- No command traps or stops the model. -/
theorem exec_answers (c : Instr) (s : State) : Answers (exec c s) := by
  by_cases hc : runsAnother c = false
  · exact exec_answers_of_not_runsAnother c s hc
  · cases c with
    | registerWrite a off v => exact s.barWrite_answers a off.toNat v
    | monitorCap => exact execMonitorCap_answers s
    | monitorLog | monitorPower => exact s.monitorCmd_answers _ fun _ => Answers.next _
    | monitorHold withdraw => exact execMonitorHold_answers s withdraw
    | monitorRd addr => exact execMonitorRd_answers s addr
    | monitorBaud n => exact execMonitorBaud_answers s n
    | monitorWr addr v => exact execMonitorWr_answers s addr v
    | monitorForce f k => exact execMonitorForce_answers s f k
    | monitorUnknownCommand line =>
      exact .ite (Answers.next _) (s.monitorCmd_answers _ fun _ => Answers.next _)
    | _ => exact absurd rfl hc

/-! ## The obligations -/

theorem step_of_pending_nil {s : State} (h : s.pending = []) : step s = .next s.tick := by
  simp [step, h]

theorem step_of_pending_cons {s : State} {c : Instr} {rest : List Instr} (h : s.pending = c :: rest) :
    step s = exec c { s with pending := rest } := by
  simp [step, h]

/-- Settles O6: time keeps the module running, and so does every command but the three that may end it. -/
theorem onlyThreeEventsEndRunning : Obligations.OnlyThreeEventsEndRunning := by
  intro s t hrun hstep hstop
  cases hp : s.pending with
  | nil =>
    rw [step_of_pending_nil hp] at hstep
    cases hstep
    exact absurd ((State.tick_kept (.refl s)).running hrun) hstop
  | cons c rest =>
    rw [step_of_pending_cons hp] at hstep
    by_cases hc : State.endsRunning { s with pending := rest } c
    · exact ⟨c, rest, rfl, State.endsRunning_cases hc⟩
    · exact absurd (((exec_kept (.refl _) c hc).out t hstep).running hrun) hstop

/-- Settles O7: every command answers, and its next state comes after the one before in all but the running. -/
theorem everyCommandAnswersAndKeepsQueueAndSent : Obligations.EveryCommandAnswersAndKeepsQueueAndSent := by
  intro c s
  obtain ⟨t, ht⟩ := exec_answers c s
  have hk := (exec_keptButRun c s).out t ht
  exact ⟨t, ht, hk.pending, hk.outbox, hk.drawn, hk.retired⟩

end Sys2Proof.Machine

/-! How operations end (05 R203, R206, R248; 08 R368 to R371; 03 R101; 02 R64): what one that leaves its shard gives back, and the commands
that complete an operation, start its tree, end it at its deadline, or close a clip window. -/

namespace Sys2Proof.Machine

/-! ## States that differ in registers and in what an operation asks of others -/

/-- `t` agrees with `s` but in registers, DMA requests, offers and watches. -/
def State.asksRest (s t : State) : Prop :=
  { t with regs := s.regs, dma := s.dma, offers := s.offers, watches := s.watches } = s

theorem State.asksRest_refl (s : State) : s.asksRest s := rfl

theorem State.asksRest_trans {s t u : State} (h : s.asksRest t) (g : t.asksRest u) : s.asksRest u := by
  unfold State.asksRest at h g ⊢
  rw [← h, ← g]

theorem State.asksRest_shardAt {s t : State} (h : s.asksRest t) (core slot : Nat) : t.shardAt core slot = s.shardAt core slot := by
  rw [← h]
  rfl

theorem State.asksRest_tagAt {s t : State} (h : s.asksRest t) (core slot n : Nat) : t.tagAt core slot n = s.tagAt core slot n := by
  rw [← h]
  rfl

theorem State.asksRest_ledgerAt {s t : State} (h : s.asksRest t) (core slot n : Nat) : t.ledgerAt core slot n = s.ledgerAt core slot n := by
  rw [← h]
  rfl

theorem State.asksRest_bytesSame {s t : State} (h : s.asksRest t) : s.bytesSame t := by
  rw [← h]
  exact fun _ => ⟨rfl, rfl, rfl, rfl, rfl⟩

theorem State.bytesSame_trans {s t u : State} (h : s.bytesSame t) (g : t.bytesSame u) : s.bytesSame u := by
  intro a
  obtain ⟨h1, h2, h3, h4, h5⟩ := h a
  obtain ⟨g1, g2, g3, g4, g5⟩ := g a
  exact ⟨g1.trans h1, g2.trans h2, g3.trans h3, g4.trans h4, g5.trans h5⟩

theorem State.set_asksRest (s : State) (f : Field) (i v : Nat) : s.asksRest (s.set f i v) := rfl

theorem State.setAll_asksRest (s : State) (i : Nat) (l : List (Field × Nat)) : s.asksRest (s.setAll i l) := by
  induction l generalizing s with
  | nil => exact s.asksRest_refl
  | cons e l ih => exact State.asksRest_trans (s.set_asksRest e.1 i e.2) (ih _)

theorem State.bump64_asksRest (s : State) (lo hi : Field) (i n : Nat) : s.asksRest (s.bump64 lo hi i n) := rfl

theorem State.withdraw_asksRest (s : State) (e : OpEnv) (o : OpRec) : s.asksRest (s.withdraw e o) := by
  unfold State.withdraw
  split <;> rfl

theorem State.showUnits_asksRest (s : State) (core n : Nat) (matrix leaves : Bool) : s.asksRest (s.showUnits core n matrix leaves) := by
  unfold State.showUnits
  split
  · exact s.asksRest_refl
  · exact s.setAll_asksRest _ _

theorem State.progress_asksRest (s : State) (core : Nat) : s.asksRest (s.progress core) := by
  unfold State.progress
  split <;> rfl

theorem State.account_asksRest (s : State) (e : OpEnv) (o : OpRec) (cycles : Nat) : s.asksRest (s.account e o cycles) := by
  have counts : ∀ (t : State) (b : Bool) (lo hi : Field) (n : Nat), s.asksRest t →
      s.asksRest (if b = true then t.bump64 lo hi e.ctx n else t) := by
    intro t b lo hi n h
    split
    · exact State.asksRest_trans h (t.bump64_asksRest lo hi _ n)
    · exact h
  exact counts _ _ _ _ _ (counts _ _ _ _ _ (counts _ _ _ _ _ s.asksRest_refl))

/-! ## What an operation that leaves gives back -/

/-- An operation's record, its tag's count and its ledger entry are given back. -/
def State.opGivesBack (s : State) (e : OpEnv) (o : OpRec) : State :=
  let r := s.shardAt e.core e.slot
  let s := s.setShard e.core e.slot { r with ops := r.ops.filter (fun x => x.index != o.index), opsDone := r.opsDone + 1 }
  let t := opBits o.desc 1 0 6
  let s := if opFlag o.desc 1 6 then s.setTag e.core e.slot t (s.tagAt e.core e.slot t - 1) else s
  match o.entry with
  | none => s
  | some k => s.freeEntry e.core e.slot k

/-- An operation leaves by withdrawing what it asks, giving back what it holds, and being counted in registers. -/
theorem State.opGivesBack_asksRest_opLeaves (s : State) (e : OpEnv) (o : OpRec) (cycles : Nat) :
    ((s.withdraw e o).opGivesBack e o).asksRest (s.opLeaves e o cycles) :=
  State.asksRest_trans (State.showUnits_asksRest _ _ _ _ _)
    (State.asksRest_trans (State.progress_asksRest _ _) (State.account_asksRest _ _ _ _))

theorem State.opGivesBack_shardAt (s : State) (e : OpEnv) (o : OpRec) :
    (s.opGivesBack e o).shardAt e.core e.slot =
      { s.shardAt e.core e.slot with
        ops := (s.shardAt e.core e.slot).ops.filter (fun x => x.index != o.index), opsDone := (s.shardAt e.core e.slot).opsDone + 1 } := by
  have h := Sparse.get_set_same ShardRun.none s.shards (e.core * 8 + e.slot)
  unfold State.opGivesBack
  split <;> split <;> exact h _

theorem State.opGivesBack_tagAt {s : State} {o : OpRec} (e : OpEnv) (h : opFlag o.desc 1 6 = true) :
    (s.opGivesBack e o).tagAt e.core e.slot (opBits o.desc 1 0 6) = s.tagAt e.core e.slot (opBits o.desc 1 0 6) - 1 := by
  have hs := Sparse.get_set_same 0 s.tags (slotKey e.core e.slot * 64 + opBits o.desc 1 0 6)
  simp only [State.opGivesBack, if_pos h]
  split <;> exact hs _

theorem State.opGivesBack_ledgerAt {s : State} {o : OpRec} {n : Nat} (e : OpEnv) (h : o.entry = some n) :
    (s.opGivesBack e o).ledgerAt e.core e.slot n =
      { used := false, gen := ((s.ledgerAt e.core e.slot n).gen + 1) % 256, deadline := none } := by
  have hs := Sparse.get_set_same LedgerEntry.free s.ledger (slotKey e.core e.slot * 64 + n)
  unfold State.opGivesBack
  rw [h]
  split <;> exact hs _

theorem State.opGivesBack_bytesSame (s : State) (e : OpEnv) (o : OpRec) : s.bytesSame (s.opGivesBack e o) := by
  unfold State.opGivesBack
  split <;> split <;> exact fun _ => ⟨rfl, rfl, rfl, rfl, rfl⟩

theorem State.opLeaves_shardAt (s : State) (e : OpEnv) (o : OpRec) (cycles : Nat) :
    (s.opLeaves e o cycles).shardAt e.core e.slot =
      { s.shardAt e.core e.slot with
        ops := (s.shardAt e.core e.slot).ops.filter (fun x => x.index != o.index), opsDone := (s.shardAt e.core e.slot).opsDone + 1 } := by
  rw [State.asksRest_shardAt (s.opGivesBack_asksRest_opLeaves e o cycles), State.opGivesBack_shardAt,
    State.asksRest_shardAt (s.withdraw_asksRest e o)]

theorem State.opLeaves_tagAt {s : State} {o : OpRec} (e : OpEnv) (cycles : Nat) (h : opFlag o.desc 1 6 = true) :
    (s.opLeaves e o cycles).tagAt e.core e.slot (opBits o.desc 1 0 6) = s.tagAt e.core e.slot (opBits o.desc 1 0 6) - 1 := by
  rw [State.asksRest_tagAt (s.opGivesBack_asksRest_opLeaves e o cycles), State.opGivesBack_tagAt e h,
    State.asksRest_tagAt (s.withdraw_asksRest e o)]

theorem State.opLeaves_ledgerAt {s : State} {o : OpRec} {n : Nat} (e : OpEnv) (cycles : Nat) (h : o.entry = some n) :
    (s.opLeaves e o cycles).ledgerAt e.core e.slot n =
      { used := false, gen := ((s.ledgerAt e.core e.slot n).gen + 1) % 256, deadline := none } := by
  rw [State.asksRest_ledgerAt (s.opGivesBack_asksRest_opLeaves e o cycles), State.opGivesBack_ledgerAt e h,
    State.asksRest_ledgerAt (s.withdraw_asksRest e o)]

theorem State.opLeaves_bytesSame (s : State) (e : OpEnv) (o : OpRec) (cycles : Nat) : s.bytesSame (s.opLeaves e o cycles) :=
  State.bytesSame_trans (State.asksRest_bytesSame (s.withdraw_asksRest e o))
    (State.bytesSame_trans (State.opGivesBack_bytesSame _ e o) (State.asksRest_bytesSame (s.opGivesBack_asksRest_opLeaves e o cycles)))

/-! ## Completion, and the start of a tree -/

theorem State.firstOfUnit_iff (s : State) (core : Nat) (o : OpRec) :
    s.firstOfUnit core o = true ↔ ∀ x ∈ s.coreOps core, x.order < o.order → sameUnit (opCode x.desc) (opCode o.desc) = false := by
  simp [State.firstOfUnit]

theorem State.firstOfUnit_eq_false {s : State} {core : Nat} {o x : OpRec} (hx : x ∈ s.coreOps core) (ho : x.order < o.order)
    (hu : sameUnit (opCode x.desc) (opCode o.desc) = true) : s.firstOfUnit core o = false := by
  rw [Bool.eq_false_iff, ne_eq, State.firstOfUnit_iff]
  intro h
  simp [h x hx ho] at hu

theorem State.appendLength_of_top_none {s : State} {o : OpRec} (e : OpEnv) (h : o.top = none) : s.appendLength e o = s := by
  simp [State.appendLength, h]

theorem State.complete_of_back_nil {s : State} {o : OpRec} (e : OpEnv) (cycles : Nat) (hf : o.fault = none) (hb : o.back = []) :
    s.complete e o cycles = (s.appendLength e o).opLeaves e o cycles := by
  simp [State.complete, hf, hb]

theorem State.complete_of_fault {s : State} {o : OpRec} {c n : Nat} (e : OpEnv) (cycles : Nat) (hf : o.fault = some (c, n)) :
    s.complete e o cycles = (s.opLeaves e o cycles).shardFault e o.index c n := by
  simp [State.complete, hf]

/-- The operation at an index has its tree begun: it is not begun again. -/
def State.treeBegun (s : State) (core slot i : Nat) : State :=
  match s.opAt core slot i with
  | none => s
  | some o => s.setOp core slot { o with sent := true }

section
variable {s : State} {core : Fin 256} {slot : Fin 8}

theorem execOperationComplete_of_none {op : Nat} (cycles : Nat) (h : s.opEnv core slot = none ∨ s.opAt core slot op = none) :
    execOperationComplete core slot op cycles s = .next s := by
  unfold execOperationComplete
  split
  · next he ho => simp [he, ho] at h
  · rfl

theorem execOperationComplete_of_some {op : Nat} {e : OpEnv} {o : OpRec} (cycles : Nat) (he : s.opEnv core slot = some e)
    (ho : s.opAt core slot op = some o) :
    execOperationComplete core slot op cycles s =
      if o.ready = true ∧ s.firstOfUnit core o = true ∧ s.gated (coreHalf core) = false then
        .next ((s.complete e o cycles).settleSlotOf e) else .next s := by
  simp only [execOperationComplete, he, ho]
  cases o.ready <;> cases s.firstOfUnit core o <;> cases s.gated (coreHalf core) <;> rfl

theorem execReduceTreeStart_of_some {k : Fin 64} {e : OpEnv} {o : OpRec} (he : s.opEnv core slot = some e)
    (ho : (s.shardAt core slot).ops.find? (fun o => o.entry == some k.val) = some o) :
    execReduceTreeStart core slot k s =
      if e.treeAfter o = false ∨ o.ready = true ∨ o.sent = true ∨ o.waits ≠ [] ∨ s.gated (coreHalf core) = true then .next s
      else .next (((s.doTree e o).2.treeBegun core slot o.index).performed e o.index (s.doTree e o).1) := by
  simp only [execReduceTreeStart, he, ho]
  exact ite_congr (by simp [or_assoc]) (fun _ => rfl) (fun _ => rfl)

/-! ## Deadlines -/

theorem execFenceWaitTimeout_of_none {k : Fin 64} (h : s.overdue core slot k = none) : execFenceWaitTimeout core slot k s = .next s := by
  simp [execFenceWaitTimeout, h]

theorem execLedgerDeadline_of_none {k : Fin 64} (h : s.overdue core slot k = none) : execLedgerDeadline core slot k s = .next s := by
  simp [execLedgerDeadline, h]

theorem execFenceWaitTimeout_of_some {k : Fin 64} {o : OpRec} (h : s.overdue core slot k = some o) :
    execFenceWaitTimeout core slot k s =
      if opCode o.desc = 0x18 then .next (s.failEntry core slot o 0x11 (opField o.desc 8 7)) else .next s := by
  simp [execFenceWaitTimeout, h]

theorem execLedgerDeadline_of_some {k : Fin 64} {o : OpRec} (h : s.overdue core slot k = some o) :
    execLedgerDeadline core slot k s =
      if opCode o.desc = 0x18 then .next s
      else .next ((s.failEntry core slot o 0x0E ((o.waits.head?.map s.waitPeer).getD s.me)).timeoutSeen (s.slotAt core slot).ctx) := by
  simp [execLedgerDeadline, h]

theorem State.timeoutSeen_get (t : State) (c : Nat) : (t.timeoutSeen c).get Fld.WVR_CTX_STATUS_timeout_seen c = 1 :=
  t.get_set_same _ _ _

theorem State.timeoutSeen_onlyFields (t : State) (c : Nat) : t.onlyFields (t.timeoutSeen c) [(Fld.WVR_CTX_STATUS_timeout_seen, c)] :=
  ⟨State.fieldsBut_set (t.fieldsBut_refl _) (List.mem_singleton_self _) _, rfl⟩

/-! ## The clip window -/

theorem execClipWindowClose_of_none (h : (s.shardAt core slot).window = none ∨ s.siteOf core = none) :
    execClipWindowClose core slot s = .next s := by
  unfold execClipWindowClose
  split
  · next hs hw => simp [hs, hw] at h
  · rfl

theorem execClipWindowClose_of_some {site : Nat} {w : ClipWindow} (hs : s.siteOf core = some site)
    (hw : (s.shardAt core slot).window = some w) :
    execClipWindowClose core slot s = if w.full = true then .next (s.closeWindow core slot site) else .next s := by
  simp [execClipWindowClose, hs, hw]

end

theorem State.closeWindow_of_some {s : State} {core slot : Nat} {w : ClipWindow} (site : Nat) (hw : (s.shardAt core slot).window = some w) :
    s.closeWindow core slot site =
      if w.en = true ∧ w.limit * w.n < w.c * 65536 then
        ((s.setShard core slot { s.shardAt core slot with window := none }).set Fld.VU_FMT_STATUS_clip_event (site * 8 + slot) 1).report
          0x05 core 0
      else s.setShard core slot { s.shardAt core slot with window := none } := by
  simp [State.closeWindow, hw]

/-! ## The obligation -/

/-- Settles O49: each command through the equations of its cases, and what an operation gives back through what its leaving does to its shard,
its tag and its ledger entry. -/
theorem operationsCompleteAndTimeOut : Obligations.OperationsCompleteAndTimeOut := by
  intro s core slot op cycles k
  refine ⟨execOperationComplete_of_none cycles, ?completes, ?leaves, ?tree, ?early, ?overdue, ?window, execClipWindowClose_of_none⟩
  case completes =>
    intro e o he ho
    have hx := execOperationComplete_of_some cycles he ho
    refine ⟨fun h => ?_, fun hr hg hu => ⟨?_, fun hf hb => ?_, fun c n hf => State.complete_of_fault e cycles hf⟩⟩
    · refine hx.trans (if_neg ?_)
      rintro ⟨hr, hu, hg⟩
      rcases h with h | h | ⟨x, hx, hlt, hsame⟩
      · simp [hr] at h
      · simp [hg] at h
      · simp [State.firstOfUnit_eq_false hx hlt hsame] at hu
    · exact hx.trans (if_pos ⟨hr, (s.firstOfUnit_iff core o).2 hu, hg⟩)
    · exact ⟨State.complete_of_back_nil e cycles hf hb, State.appendLength_of_top_none e⟩
  case leaves =>
    rintro e o t rfl
    have hs := s.opLeaves_shardAt e o cycles
    exact ⟨State.opLeaves_tagAt e cycles, fun n => State.opLeaves_ledgerAt e cycles, congrArg ShardRun.ops hs,
      congrArg ShardRun.opsDone hs, s.opLeaves_bytesSame e o cycles⟩
  case tree =>
    intro e o he ho
    have hx := execReduceTreeStart_of_some he ho
    refine ⟨fun h => hx.trans (if_pos h), ?_⟩
    rintro ht hr hsent hw hg d u hd w rfl
    rw [hd] at hx
    exact hx.trans (if_neg (by simp [ht, hr, hsent, hw, hg]))
  case early => exact fun h => ⟨execFenceWaitTimeout_of_none h, execLedgerDeadline_of_none h⟩
  case overdue =>
    intro o h
    have hf := execFenceWaitTimeout_of_some h
    have hl := execLedgerDeadline_of_some h
    exact ⟨fun hc => ⟨hf.trans (if_pos hc), hl.trans (if_pos hc)⟩,
      fun hc => ⟨hf.trans (if_neg hc), _, hl.trans (if_neg hc), State.timeoutSeen_get _ _, State.timeoutSeen_onlyFields _ _⟩⟩
  case window =>
    rintro w site u hw hs rfl
    have hx := execClipWindowClose_of_some hs hw
    have hc := State.closeWindow_of_some site hw
    refine ⟨fun hn => hx.trans (if_neg (by simp [hn])), fun hfull hq => ?_, fun hfull hen hlt => ?_⟩
    · have hquiet : ¬ (w.en = true ∧ w.limit * w.n < w.c * 65536) := by
        rintro ⟨hen, hlt⟩
        rcases hq with h | h
        · simp [hen] at h
        · omega
      rw [if_neg hquiet] at hc
      exact (hx.trans (if_pos hfull)).trans (congrArg _ hc)
    · rw [if_pos ⟨hen, hlt⟩] at hc
      exact (hx.trans (if_pos hfull)).trans (congrArg _ hc)

end Sys2Proof.Machine

/-! What a response comes to (05 R230; 08 R367 to R369; 09 R412; 10 R462, R466): the wait it ends, the fault it stands for, the pull it
begins, or the count of those that nothing waits for. -/

namespace Sys2Proof.Machine

/-! ## A counter with a wrap bit -/

theorem State.get_count_same (s : State) {f w : Field} {i wi : Nat} (h : f.key i ≠ w.key wi) (k n : Nat) :
    (s.count f i w wi k n).get f i = (s.get f i + n) % 2 ^ f.width := by
  unfold State.count
  dsimp only
  split
  · exact s.get_set_same f i _
  · exact (State.get_set_apart _ h _).trans (s.get_set_same f i _)

theorem State.onlyFields_count {s t : State} {ws : List (Field × Nat)} (h : s.onlyFields t ws) {f w : Field} {i wi : Nat}
    (hf : (f, i) ∈ ws) (hw : (w, wi) ∈ ws) (k n : Nat) : s.onlyFields (t.count f i w wi k n) ws := by
  unfold State.count
  dsimp only
  split
  · exact State.onlyFields_set h hf _
  · exact State.onlyFields_set (State.onlyFields_set h hf _) hw _

theorem State.stale_get (s : State) : s.stale.get Fld.WVR_STALE_RESP_COUNT_count =
    (s.get Fld.WVR_STALE_RESP_COUNT_count + 1) % 2 ^ Fld.WVR_STALE_RESP_COUNT_count.width :=
  s.get_count_same (by decide) 0 1

theorem State.stale_onlyFields (s : State) :
    s.onlyFields s.stale [(Fld.WVR_STALE_RESP_COUNT_count, 0), (Fld.WVR_STATUS_stale_wrap, 0)] :=
  State.onlyFields_count (s.onlyFields_refl _) (by simp) (by simp) 0 1

section
variable {s : State} {r : RespMsg}

/-! ## The kinds each command takes -/

theorem execResp_of_answer (h : r.kind = 2 ∨ r.kind = 3 ∨ r.kind = 6) : execResp r s = .next (s.respond r) := if_pos h

theorem execResp_of_otherKind (h2 : r.kind ≠ 2) (h3 : r.kind ≠ 3) (h6 : r.kind ≠ 6) (h4 : r.kind ≠ 4) : execResp r s = .next s :=
  (if_neg (by simp only [h2, h3, h6, or_self, not_false_eq_true])).trans (if_neg h4)

/-- The moves that a page-ready response tells of: a spill to its source that is not ready yet (09 R412). -/
def readied (r : RespMsg) (m : Move) : Bool :=
  !m.ready && (match m.kind with
    | .spillT3 n _ => n == r.src.toNat
    | _ => false)

theorem execResp_of_pageReady (h : r.kind = 4) :
    execResp r s = .next ((s.moves.find? (readied r)).elim s.stale (fun x =>
      { s with moves := s.moves.map (fun m => if m.id = x.id then { m with ready := true } else m) })) := by
  unfold execResp
  rw [if_neg (by simp [h]), if_pos h]
  dsimp only
  split
  · next hn => rw [show s.moves.find? (readied r) = none from hn]; rfl
  · next x hx => rw [show s.moves.find? (readied r) = some x from hx]; rfl

/-! ## What a response comes to -/

theorem State.respond_of_op {core slot : Nat} {o : OpRec} (h : s.respOp r = some (core, slot, o)) :
    s.respond r = s.opResponse core slot o r.kind.toNat r.src.toNat r.status.toNat := by
  simp [State.respond, h]

theorem State.respond_of_fenceOp (h : s.respOp r = none) (hk : r.kind = 3) (hf : respOfFenceOp r = true) :
    s.respond r = s.fenceOpAnswer r.ctx.toNat r.status.toNat := by
  simp [State.respond, h, hk, hf]

theorem State.respond_stale (h : s.respOp r = none) (hf : r.kind ≠ 3 ∨ respOfFenceOp r = false) (hd : respOfDevice r = false)
    (hc : respOfCommand r = false) : s.respond r = s.stale := by
  have hn : ¬ (r.kind = 3 ∧ respOfFenceOp r = true) := by
    rintro ⟨hk, hw⟩
    rcases hf with hf | hf
    · exact hf hk
    · simp [hw] at hf
  simp only [State.respond, h, if_neg hn, hd, hc, Bool.false_eq_true, if_false]

/-- The wait that a response of a status other than OK faults: one it answers, or one of its kind where another may answer. -/
def faultedWait (ws : List Wait) (kind m status : Nat) : Option Wait :=
  match ws.find? (Wait.answers kind m) with
  | some w => some w
  | none => if dropStatus status then ws.find? (Wait.ofKind kind) else none

theorem faultedWait_of_answered {ws : List Wait} {kind m : Nat} {w : Wait} (status : Nat) (h : ws.find? (Wait.answers kind m) = some w) :
    faultedWait ws kind m status = some w := by
  simp [faultedWait, h]

theorem faultedWait_of_not_answered {ws : List Wait} {kind m : Nat} (status : Nat) (h : ∀ w ∈ ws, Wait.answers kind m w = false) :
    faultedWait ws kind m status = if dropStatus status then ws.find? (Wait.ofKind kind) else none := by
  have hn : ws.find? (Wait.answers kind m) = none := by simpa using h
  simp [faultedWait, hn]

section
variable {core slot : Nat} {o : OpRec} {kind m status : Nat}

theorem State.opResponse_ok : s.opResponse core slot o kind m 0 = if kind = 6 then s else s.endWait core slot o (Wait.answers kind m) :=
  rfl

/-- An operation faults as the response to one of its waits says. -/
def State.failWait (s : State) (core slot : Nat) (o : OpRec) (m status : Nat) (w : Wait) : State :=
  let b := s.slotBasket (slotKey core slot)
  let ((c, n), u) := s.statusFault b (s.waitModule b m w) w.addr status
  u.failEntry core slot o c n

theorem State.opResponse_eq (hs : status ≠ 0) :
    s.opResponse core slot o kind m status = (faultedWait o.waits kind m status).elim s (s.failWait core slot o m status) := by
  unfold State.opResponse
  rw [if_neg hs]
  split
  · next hn => rw [show faultedWait o.waits kind m status = none from hn]; rfl
  · next w hw => rw [show faultedWait o.waits kind m status = some w from hw]; rfl

theorem State.opResponse_of_not_faulted (hs : status ≠ 0) (h : faultedWait o.waits kind m status = none) :
    s.opResponse core slot o kind m status = s := by
  rw [State.opResponse_eq hs, h]
  rfl

theorem State.opResponse_of_faulted {w : Wait} {c n : Nat} {u : State} (hs : status ≠ 0) (h : faultedWait o.waits kind m status = some w)
    (hf : s.statusFault (s.slotBasket (slotKey core slot)) (s.waitModule (s.slotBasket (slotKey core slot)) m w) w.addr status =
      ((c, n), u)) : s.opResponse core slot o kind m status = u.failEntry core slot o c n := by
  rw [State.opResponse_eq hs, h]
  simp only [Option.elim_some, State.failWait, hf]

end

theorem dropStatus_iff (r : RespMsg) : dropStatus r.status.toNat = true ↔ r.status = 2 ∨ r.status = 3 := by
  simp [dropStatus, BitVec.toNat_eq]

/-! ## Pulls -/

theorem execRespPull_of_otherKind (h : r.kind ≠ 1) : execRespPull r s = .next s := if_pos h

theorem execRespPull_of_none (hk : r.kind = 1) (h : s.respOp r = none) : execRespPull r s = .next s.stale := by
  simp [execRespPull, hk, h]

section
variable {core slot : Nat} {o : OpRec}

theorem execRespPull_of_notOk (hk : r.kind = 1) (h : s.respOp r = some (core, slot, o)) (hs : r.status ≠ 0) :
    execRespPull r s = .next (s.respond r) := by
  unfold execRespPull
  rw [if_neg (not_not_intro hk), h]
  exact if_pos hs

theorem execRespPull_of_not_awaited (hk : r.kind = 1) (h : s.respOp r = some (core, slot, o)) (hs : r.status = 0)
    (hw : ∀ w ∈ o.waits, Wait.answers 1 r.src.toNat w = false) : execRespPull r s = .next s := by
  have hn : o.waits.any (Wait.answers 1 r.src.toNat) = false := by simpa using hw
  simp [execRespPull, hk, h, hs, hn]

/-- The payload of an operation that a peer has pulled goes out, or its reading faults the operation. -/
def State.sendPulled (s : State) (e : OpEnv) (core slot : Nat) (o : OpRec) (m : Nat) : State :=
  match s.sendPackets e o m with
  | (.ok ps, u) => u.emitAll ps
  | (.error (c, n), u) => u.failEntry core slot o c n

theorem execRespPull_of_awaited {e : OpEnv} (hk : r.kind = 1) (h : s.respOp r = some (core, slot, o)) (hs : r.status = 0)
    (hw : ∃ w ∈ o.waits, Wait.answers 1 r.src.toNat w = true) (he : s.opEnv core slot = some e) :
    execRespPull r s = .next (if s.unreachable e.basket r.src.toNat = true then s.failEntry core slot o 0x0F r.src.toNat
      else s.sendPulled e core slot o r.src.toNat) := by
  have hn : ¬ (!o.waits.any (Wait.answers 1 r.src.toNat)) = true := by simpa using hw
  unfold execRespPull State.sendPulled
  rw [if_neg (not_not_intro hk), h]
  dsimp only
  rw [if_neg (not_not_intro hs), if_neg hn, he]
  dsimp only
  split
  · rfl
  · rcases s.sendPackets e o r.src.toNat with ⟨_ | _, _⟩ <;> rfl
end

end

/-! ## The obligation -/

/-- Settles O50: each kind through the equation of its command, and a response to an operation through the wait it ends or faults. -/
theorem responsesReachWhatWaits : Obligations.ResponsesReachWhatWaits := by
  intro s r
  refine ⟨execResp_of_answer, fun h => if_pos h, execResp_of_otherKind, fun h => if_neg h, execRespPull_of_otherKind,
    fun h hk => execRespPull_of_none hk h, ?stale, fun h hk hf => ?fence, ?op, ?ready⟩
  case stale =>
    rintro h hf hd hc t rfl
    rw [State.respond_stale h hf hd hc]
    exact ⟨s.stale_get, s.stale_onlyFields⟩
  case fence => exact (execResp_of_answer (.inr (.inl hk))).trans (congrArg _ (State.respond_of_fenceOp h hk hf))
  case op =>
    intro core slot o h
    have hr := State.respond_of_op h
    have toNat_ne : r.status ≠ 0 → r.status.toNat ≠ 0 := fun hs hn => hs (BitVec.eq_of_toNat_eq hn)
    refine ⟨fun hs hk => ?_, fun hs hk => ?_, fun hs hw hd => ?_, fun w c n u hs hw hf => ?_, fun hk hs => execRespPull_of_notOk hk h hs,
      fun hk hs hw => execRespPull_of_not_awaited hk h hs hw, fun e hk hs hw he => ?_⟩
    · rw [hr, hs]
      exact if_neg fun hn => hk (BitVec.eq_of_toNat_eq hn)
    · rw [hr, hs, hk]
      rfl
    · refine hr.trans (State.opResponse_of_not_faulted (toNat_ne hs) ?_)
      rw [faultedWait_of_not_answered _ hw]
      rcases hd with hd | hd
      · exact if_neg fun hn => ((dropStatus_iff r).1 hn).elim hd.1 hd.2
      · simpa using fun _ => hd
    · refine hr.trans (State.opResponse_of_faulted (toNat_ne hs) ?_ hf)
      rcases hw with hw | ⟨hd, hn, hw⟩
      · exact faultedWait_of_answered _ hw
      · rw [faultedWait_of_not_answered _ hn, if_pos ((dropStatus_iff r).2 hd), hw]
    · have hx := execRespPull_of_awaited hk h hs hw he
      refine ⟨fun hu => hx.trans (by rw [if_pos hu]), fun hu ps u hp => hx.trans ?_, fun hu c n u hp => hx.trans ?_⟩ <;>
        rw [hu, State.sendPulled, hp] <;> rfl
  case ready =>
    rintro hk p rfl
    have hx := execResp_of_pageReady (s := s) hk
    refine ⟨fun h => ?_, fun x h => ?_⟩ <;> rw [show s.moves.find? (readied r) = _ from h] at hx <;> exact hx

end Sys2Proof.Machine

/-! The issue of tile operations (05 R195, R199 to R206, R210; 08 R365 to R367): what the row of an operation does with the descriptor at
its shard's head, what an operation that issues takes, and how it is then performed. -/

namespace Sys2Proof.Machine

/-! ## The row of an operation -/

theorem State.opEnv_place {s : State} {core slot : Nat} {e : OpEnv} (h : s.opEnv core slot = some e) : e.core = core ∧ e.slot = slot := by
  unfold State.opEnv at h
  dsimp only at h
  split at h
  · split at h
    · simp at h
    · cases h
      exact ⟨rfl, rfl⟩
  · simp at h

/-- The entries of the tensor table that a descriptor names. -/
def namedTensors (e : OpEnv) (d : List Byte) : List Nat :=
  ((opTensors e d).map (fun o => opBits d o 0 6)).filter (fun t => decide (t < e.tensors.length))

section
variable {s : State} {core slot : Nat} {want : List Byte → Bool}

theorem State.opRow_of_idle (h : s.mayIssue core slot = false ∨ s.opEnv core slot = none) : s.opRow core slot want = s := by
  rcases h with h | h <;> simp [State.opRow, h]

variable {e : OpEnv} {u : State} (hm : s.mayIssue core slot = true) (he : s.opEnv core slot = some e)
include hm he

theorem State.opRow_of_unfetched (hd : s.fetchHead e = (none, u)) : s.opRow core slot want = u.settleSlotOf e := by
  simp [State.opRow, hm, he, hd]

variable {d : List Byte} (hd : s.fetchHead e = (some d, u))
include hd

theorem State.opRow_of_otherRow (hw : want d = false) : s.opRow core slot want = u := by
  simp [State.opRow, hm, he, hd, hw]

variable {f : Option (Nat × Nat)} {w : State} (hw : want d = true) (ht : u.tableWords e (namedTensors e d) = (f, w))
include hw ht

theorem State.opRow_of_refused {c n : Nat} (hf : f = some (c, n) ∨ (f = none ∧ w.headRefusal e d = some (c, n))) :
    s.opRow core slot want = (w.shardFault e (w.shardAt core slot).next c n).settleSlotOf e := by
  unfold namedTensors at ht
  rcases hf with rfl | ⟨rfl, hr⟩
  · simp [State.opRow, hm, he, hd, hw, ht]
  · simp [State.opRow, hm, he, hd, hw, ht, hr]

theorem State.opRow_of_readable (hf : f = none) (hr : w.headRefusal e d = none) :
    s.opRow core slot want = if w.issuable e (w.shardAt core slot) d = true then
      (if opCode d = 0 then w.issueIdle e d else w.issue e d).settleSlotOf e else w.reschedule core := by
  unfold namedTensors at ht
  subst hf
  simp only [State.opRow, hm, he, hd, hw, ht, hr, Bool.not_true, Bool.false_eq_true, if_false]
  cases w.issuable e (w.shardAt core slot) d <;> rfl

end

/-- An operation that may issue has its wait tags at zero, its barrier met and its own tag below 255 (05 R204). -/
theorem State.waitsOver_of_issuable {s : State} {e : OpEnv} {r : ShardRun} {d : List Byte} (h : s.issuable e r d = true) :
    (opFlag d 2 6 = true → s.tagAt e.core e.slot (opBits d 2 0 6) = 0) ∧ (opFlag d 3 6 = true → s.tagAt e.core e.slot (opBits d 3 0 6) = 0) ∧
      (opFlag d 1 7 = true → r.ops = []) ∧ (opFlag d 1 6 = true → s.tagAt e.core e.slot (opBits d 1 0 6) < 255) := by
  simp only [State.issuable, State.waitsTag, Bool.and_eq_true] at h
  obtain ⟨⟨⟨⟨⟨⟨⟨h0, h1⟩, hb⟩, ht⟩, -⟩, -⟩, -⟩, -⟩ := h
  refine ⟨fun hf => ?_, fun hf => ?_, fun hf => ?_, fun hf => ?_⟩
  · simpa [hf] using h0
  · simpa [hf] using h1
  · simpa [hf] using hb
  · simpa [hf] using ht

/-- The rows of the tile operations: the descriptors each is for, and its command. -/
def opRows (core : Fin 256) (slot : Fin 8) : List ((List Byte → Bool) × Instr) :=
  [((fun d => opCode d == 0 || !opCodes.contains (opCode d)), Instr.opIdle core slot),
    (isOp 0x01, .opMatmul core slot), (isOp 0x02, .opVec core slot), (isOp 0x03, .opVecReduce core slot), (isOp 0x04, .opConvert core slot),
    (isOp 0x08, .opLoad core slot), (isOp 0x09, .opStore core slot), (isOp 0x0A, .opGather core slot),
    ((fun d => opCode d == 0x0C && !opFlag d 8 0), .opExchangeSend core slot),
    ((fun d => opCode d == 0x0C && opFlag d 8 0), .opExchangeReceive core slot), (isOp 0x0D, .opReduceLong core slot),
    (isOp 0x10, .opAttention core slot), (isOp 0x11, .opKvAppend core slot), (isOp 0x12, .opSample core slot),
    (isOp 0x18, .opFenceWait core slot), (isOp 0x19, .opFenceSignal core slot)]

theorem exec_opRows (s : State) (core : Fin 256) (slot : Fin 8) : ∀ x ∈ opRows core slot, exec x.2 s = .next (s.opRow core slot x.1) := by
  simp only [opRows, List.forall_mem_cons]
  exact ⟨rfl, rfl, rfl, rfl, rfl, rfl, rfl, rfl, rfl, rfl, rfl, rfl, rfl, rfl, rfl, rfl, fun _ h => nomatch h⟩

/-! ## What an operation takes as it issues -/

theorem State.issueIdle_asksRest (s : State) (e : OpEnv) (d : List Byte) :
    (s.setShard e.core e.slot { s.shardAt e.core e.slot with
      next := (s.shardAt e.core e.slot).next + 1, head := none, opsDone := (s.shardAt e.core e.slot).opsDone + 1 }).asksRest (s.issueIdle e d) :=
  State.progress_asksRest _ _

@[simp] theorem State.shardAt_setShard_same (s : State) (core slot : Nat) (r : ShardRun) : (s.setShard core slot r).shardAt core slot = r :=
  Sparse.get_set_same _ _ _ _

theorem State.setShard_bytesSame (s : State) (core slot : Nat) (r : ShardRun) : s.bytesSame (s.setShard core slot r) :=
  fun _ => ⟨rfl, rfl, rfl, rfl, rfl⟩

theorem State.issueIdle_shardAt (s : State) (e : OpEnv) (d : List Byte) :
    (s.issueIdle e d).shardAt e.core e.slot = { s.shardAt e.core e.slot with
      next := (s.shardAt e.core e.slot).next + 1, head := none, opsDone := (s.shardAt e.core e.slot).opsDone + 1 } := by
  rw [State.asksRest_shardAt (s.issueIdle_asksRest e d), State.shardAt_setShard_same]

theorem State.issueIdle_bytesSame (s : State) (e : OpEnv) (d : List Byte) : s.bytesSame (s.issueIdle e d) :=
  State.bytesSame_trans (s.setShard_bytesSame _ _ _) (State.asksRest_bytesSame (s.issueIdle_asksRest e d))

/-- The ledger entry that an operation takes at issue: the lowest free one, where it takes one. -/
def State.entryTaken (s : State) (e : OpEnv) (d : List Byte) : Option Nat := if takesEntry e d then s.ledgerFree e.core e.slot else none

/-- The shard of an operation that issues: the operation is the latest of those in flight. -/
def State.shardTaken (s : State) (e : OpEnv) (d : List Byte) : ShardRun :=
  let r := s.shardAt e.core e.slot
  { r with next := r.next + 1, head := none, ops := r.ops ++ [freshOp r.next (s.nextOrder e.core) d (s.entryTaken e d)] }

/-- An operation that issues takes its place in its shard, a count of its tag, and its ledger entry. -/
def State.opTakes (s : State) (e : OpEnv) (d : List Byte) : State :=
  let t := opBits d 1 0 6
  let u := s.setShard e.core e.slot (s.shardTaken e d)
  let u := if opFlag d 1 6 then u.setTag e.core e.slot t (u.tagAt e.core e.slot t + 1) else u
  match s.entryTaken e d with
  | none => u
  | some k => u.setLedger e.core e.slot k { used := true, gen := (u.ledgerAt e.core e.slot k).gen, deadline := u.entryDeadline d }

/-- An operation that issues, as it is before it is performed: the units show it, and its kernel notes its formats. -/
def State.opEnters (s : State) (e : OpEnv) (d : List Byte) : State :=
  ((s.opTakes e d).showUnits e.core (s.matrixOps e.core) (usesMatrix (opCode d)) false).noteFormats e d

theorem State.issue_eq_perform (s : State) (e : OpEnv) (d : List Byte) :
    s.issue e d = (s.opEnters e d).perform e (s.shardAt e.core e.slot).next true := rfl

theorem State.opTakes_shardAt (s : State) (e : OpEnv) (d : List Byte) : (s.opTakes e d).shardAt e.core e.slot = s.shardTaken e d := by
  have h := s.shardAt_setShard_same e.core e.slot (s.shardTaken e d)
  unfold State.opTakes
  split <;> split <;> exact h

theorem State.opTakes_tagAt {s : State} {d : List Byte} (e : OpEnv) (h : opFlag d 1 6 = true) :
    (s.opTakes e d).tagAt e.core e.slot (opBits d 1 0 6) = s.tagAt e.core e.slot (opBits d 1 0 6) + 1 := by
  have hs := Sparse.get_set_same 0 s.tags (slotKey e.core e.slot * 64 + opBits d 1 0 6)
  simp only [State.opTakes, if_pos h]
  split <;> exact hs _

theorem State.opTakes_ledgerAt {s : State} {e : OpEnv} {d : List Byte} {n : Nat} (h : s.entryTaken e d = some n) :
    (s.opTakes e d).ledgerAt e.core e.slot n = { used := true, gen := (s.ledgerAt e.core e.slot n).gen, deadline := s.entryDeadline d } := by
  have hs := Sparse.get_set_same LedgerEntry.free s.ledger (slotKey e.core e.slot * 64 + n)
  simp only [State.opTakes, h]
  split <;> exact hs _

theorem State.opTakes_bytesSame (s : State) (e : OpEnv) (d : List Byte) : s.bytesSame (s.opTakes e d) := by
  unfold State.opTakes
  split <;> split <;> exact fun _ => ⟨rfl, rfl, rfl, rfl, rfl⟩

theorem State.onKernel_withContexts (s : State) (c : Nat) (f : Kernel → Kernel) : ∃ x, s.onKernel c f = { s with contexts := x } := by
  unfold State.onKernel
  dsimp only
  split <;> exact ⟨_, rfl⟩

@[simp] theorem State.onKernel_shardAt (s : State) (c : Nat) (f : Kernel → Kernel) (core slot : Nat) :
    (s.onKernel c f).shardAt core slot = s.shardAt core slot := by
  obtain ⟨_, h⟩ := s.onKernel_withContexts c f
  rw [h]
  rfl

@[simp] theorem State.onKernel_tagAt (s : State) (c : Nat) (f : Kernel → Kernel) (core slot n : Nat) :
    (s.onKernel c f).tagAt core slot n = s.tagAt core slot n := by
  obtain ⟨_, h⟩ := s.onKernel_withContexts c f
  rw [h]
  rfl

@[simp] theorem State.onKernel_ledgerAt (s : State) (c : Nat) (f : Kernel → Kernel) (core slot n : Nat) :
    (s.onKernel c f).ledgerAt core slot n = s.ledgerAt core slot n := by
  obtain ⟨_, h⟩ := s.onKernel_withContexts c f
  rw [h]
  rfl

theorem State.onKernel_bytesSame (s : State) (c : Nat) (f : Kernel → Kernel) : s.bytesSame (s.onKernel c f) := by
  obtain ⟨_, h⟩ := s.onKernel_withContexts c f
  rw [h]
  exact fun _ => ⟨rfl, rfl, rfl, rfl, rfl⟩

section
variable (s : State) (e : OpEnv) (d : List Byte)

theorem State.opEnters_shardAt : (s.opEnters e d).shardAt e.core e.slot = s.shardTaken e d :=
  (State.onKernel_shardAt ..).trans ((State.asksRest_shardAt (State.showUnits_asksRest ..) _ _).trans (s.opTakes_shardAt e d))

theorem State.opEnters_tagAt (n : Nat) : (s.opEnters e d).tagAt e.core e.slot n = (s.opTakes e d).tagAt e.core e.slot n :=
  (State.onKernel_tagAt ..).trans (State.asksRest_tagAt (State.showUnits_asksRest ..) _ _ _)

theorem State.opEnters_ledgerAt (n : Nat) : (s.opEnters e d).ledgerAt e.core e.slot n = (s.opTakes e d).ledgerAt e.core e.slot n :=
  (State.onKernel_ledgerAt ..).trans (State.asksRest_ledgerAt (State.showUnits_asksRest ..) _ _ _)

theorem State.opEnters_bytesSame : s.bytesSame (s.opEnters e d) :=
  State.bytesSame_trans (s.opTakes_bytesSame e d)
    (State.bytesSame_trans (State.asksRest_bytesSame (State.showUnits_asksRest ..)) (State.onKernel_bytesSame _ _ _))

end

/-! ## How an operation is performed -/

theorem State.perform_of_performOp {s t : State} {e : OpEnv} {i : Nat} {o : OpRec} {first : Bool} {x : Did}
    (ho : s.opAt e.core e.slot i = some o) (hp : s.performOp e o first = (x, t)) :
    s.perform e i first = (t.performed e i x).matchOffers := by
  simp [State.perform, ho, hp]

/-! ## The obligation -/

/-- Settles O48: each row's command is the one function of a row, whose cases are the clauses; the rest is what an operation takes as it
issues, and the performance its opcode has. -/
theorem operationsIssueOnlyWhenTheirWaitsAreOver : Obligations.OperationsIssueOnlyWhenTheirWaitsAreOver := by
  intro s core slot
  refine ⟨fun x hx => ?row, fun e d => ⟨s.issueIdle_bytesSame e d, s.issueIdle_shardAt e d⟩, ?issue,
    fun e i o x t => State.perform_of_performOp, ?perform⟩
  case row =>
    rw [exec_opRows s core slot x hx]
    refine ⟨fun h => congrArg _ (State.opRow_of_idle h), fun e u hm he => ⟨fun hd => congrArg _ (State.opRow_of_unfetched hm he hd),
      fun d hd => ⟨fun hw => congrArg _ (State.opRow_of_otherRow hm he hd hw), fun hw f w ht =>
        ⟨fun c n hf => congrArg _ (State.opRow_of_refused hm he hd hw ht hf), fun hf hr => ?_⟩⟩⟩⟩
    have hx := State.opRow_of_readable hm he hd hw ht hf hr
    refine ⟨fun h => congrArg _ (hx.trans (if_neg fun hi => ?_)), fun hi => congrArg _ (hx.trans (if_pos hi))⟩
    obtain ⟨h0, h1, hb, hown⟩ := State.waitsOver_of_issuable hi
    obtain ⟨hc, hs⟩ := State.opEnv_place he
    rw [hc, hs] at h0 h1 hown
    rcases h with ⟨hf, h⟩ | ⟨hf, h⟩ | ⟨hf, h⟩ | ⟨hf, h⟩ | h
    · exact h (h0 hf)
    · exact h (h1 hf)
    · exact h (hb hf)
    · exact absurd (hown hf) (Nat.not_lt.2 h)
    · simp [hi] at h
  case issue =>
    rintro e d r k rfl rfl
    exact ⟨s.opEnters e d, s.issue_eq_perform e d, s.opEnters_shardAt e d,
      fun h => (s.opEnters_tagAt e d _).trans (State.opTakes_tagAt e h),
      fun n h => (s.opEnters_ledgerAt e d n).trans (State.opTakes_ledgerAt h), s.opEnters_bytesSame e d⟩
  case perform =>
    intro e o
    refine ⟨fun h => ?_, fun h => ?_, fun h => ?_, fun h => ?_, fun h => ?move, fun h => ?_, fun h hf => ?_, fun h hf => ?_, fun h => ?_,
      fun h => ?_, fun h => ?_, fun h => ?_, fun h => ?_, fun h => ?_⟩
    case move => rcases h with h | h <;> simp only [State.performOp, h]
    all_goals simp [State.performOp, *]

end Sys2Proof.Machine

/-! How a batch step goes on (06 R269, R270, R279, R281, R734): its command, its application, the messages that carry outcomes and
verdicts, and its deadline. -/

namespace Sys2Proof.Machine

/-! ## Packets that are admitted -/

section
variable {s : State} {pkt : Packet} {b : Nat}

theorem State.arriveHere_of_admits {t : Nat} (h : s.admits pkt t b) (f : State → State) : s.arriveHere pkt t f = f (s.packetTaken pkt) := by
  obtain ⟨hh, ht, hd, hv, he, -, -⟩ := h
  unfold State.arriveHere
  rw [if_neg (by simp [hh, ht, hd, hv])]
  exact if_neg (by simpa [State.packetTaken] using he)

theorem State.arrive_of_admits {t : Nat} (h : s.admits pkt t b) (f : State → Nat → State) : s.arrive pkt t f = f (s.packetTaken pkt) b := by
  have ⟨_, _, _, _, _, hs, hb⟩ := h
  unfold State.arrive
  rw [State.arriveHere_of_admits h]
  simp only [hs, if_true, hb]

variable (h : s.admits pkt 8 b) {kind ref ctx : Nat} (f : State → State)
include h

theorem State.arriveMsg_of_meant (hk : bitsOf pkt.args.toNat 0 8 = kind) (hr : pkt.ref.toNat = ref)
    (hc : (s.packetTaken pkt).ctxBasket ctx = b) : s.arriveMsg pkt kind ref ctx f = f (s.packetTaken pkt) :=
  (State.arrive_of_admits h _).trans (if_pos ⟨hk, hr, hc⟩)

theorem State.arriveMsg_of_not_meant
    (hn : bitsOf pkt.args.toNat 0 8 ≠ kind ∨ pkt.ref.toNat ≠ ref ∨ (s.packetTaken pkt).ctxBasket ctx ≠ b) :
    s.arriveMsg pkt kind ref ctx f = s.packetTaken pkt :=
  (State.arrive_of_admits h _).trans (if_neg fun ⟨hk, hr, hc⟩ => hn.elim (· hk) (Or.elim · (· hr) (· hc)))

end

/-! ## A context's part of the state -/

@[simp] theorem State.ctxAt_setCtx_same (s : State) (c : Nat) (v : Context) : (s.setCtx c v).ctxAt c = v :=
  Sparse.get_set_same _ _ _ _

theorem State.ctxAt_setCtx_other (s : State) {c k : Nat} (h : k ≠ c) (v : Context) : (s.setCtx c v).ctxAt k = s.ctxAt k :=
  Sparse.get_set_other _ _ h _

section
variable {s : State} {ctx : Fin 2048}

/-! ## The command -/

theorem execCmdBatchStep_of_refused {k : Cmd} {u : State} (h : s.takeCmd ctx (· == 2) = some (k, true, u)) :
    execCmdBatchStep ctx s = .next (u.finishCmd ctx 2 1 0) := by
  simp only [execCmdBatchStep, h]

theorem execCmdBatchStep_of_taken {k : Cmd} {u : State} (h : s.takeCmd ctx (· == 2) = some (k, false, u)) :
    execCmdBatchStep ctx s = .next ((u.onCtx ctx (fun x => { x with stepRunning := true })).stepBegin ctx k) := by
  simp only [execCmdBatchStep, h]

theorem execCmdBatchStep_of_begun (h : s.takeCmd ctx (· == 2) = none) (hs : s.cmdIs ctx 2 = false ∨ (s.ctxAt ctx).step ≠ none) :
    execCmdBatchStep ctx s = .next s := by
  have hn : (s.cmdIs ctx 2 && (s.ctxAt ctx).step.isNone) = false := by
    rcases hs with hs | hs
    · rw [hs, Bool.false_and]
    · rw [Option.isNone_eq_false_iff.2 (Option.isSome_iff_ne_none.2 hs), Bool.and_false]
  simp only [execCmdBatchStep, h, hn]
  cases (s.ctxAt ctx).cmd <;> rfl

theorem execCmdBatchStep_of_waiting {k : Cmd} (h : s.takeCmd ctx (· == 2) = none) (hc : s.cmdIs ctx 2 = true)
    (hs : (s.ctxAt ctx).step = none) (hk : (s.ctxAt ctx).cmd = some k) : execCmdBatchStep ctx s = .next (s.stepBegin ctx k) := by
  simp [execCmdBatchStep, h, hc, hs, hk]

/-! ## Application -/

theorem execBatchStepApply_of_noStep (h : (s.ctxAt ctx).step = none) : execBatchStepApply ctx s = .next s := by
  simp only [execBatchStepApply, h]

section
variable {r : StepRun} (h : (s.ctxAt ctx).step = some r)
include h

theorem execBatchStepApply_of_held (hb : r.applied = true ∨ s.stepBusy (s.ctxBasket ctx) r.named = true) :
    execBatchStepApply ctx s = .next s := by
  simp [execBatchStepApply, h, hb]

variable (ha : r.applied = false) (hb : s.stepBusy (s.ctxBasket ctx) r.named = false)
include ha hb

theorem execBatchStepApply_of_refused {entry : Option Nat} {code info : Nat}
    (hr : s.stepRefusal (s.ctxBasket ctx) r.record = some (entry, code, info)) :
    execBatchStepApply ctx s = .next ((match entry with
      | some i => s.entryStatus ctx i 3
      | none => s).stepEnd ctx (r.record.take 64) (RecordParts.plain (fieldAt r.record 0 8) 2 code 0 info)) := by
  cases entry <;> simp [execBatchStepApply, h, ha, hb, hr]

variable (hr : s.stepRefusal (s.ctxBasket ctx) r.record = none) {tokens copies : List (Nat × Nat)}
  (ht : s.stepReads (s.ctxBasket ctx) r.record = (tokens, copies)) {u : State}
include hr ht

theorem execBatchStepApply_of_tokensAway (hu : s.readStep ctx 1 tokens = (.away, u)) : execBatchStepApply ctx s = .next u := by
  simp [execBatchStepApply, h, ha, hb, hr, ht, hu]

theorem execBatchStepApply_of_tokensFault {va info code : Nat} (hu : s.readStep ctx 1 tokens = (.fault va info code, u)) :
    execBatchStepApply ctx s = .next (u.stepUnread ctx va info code r.record) := by
  simp [execBatchStepApply, h, ha, hb, hr, ht, hu]

variable {blocks : List (Nat × List Byte)} (hu : s.readStep ctx 1 tokens = (.ok blocks, u)) {v : State}
include hu

theorem execBatchStepApply_of_copiesAway (hv : u.readStep ctx 0 copies = (.away, v)) : execBatchStepApply ctx s = .next v := by
  simp [execBatchStepApply, h, ha, hb, hr, ht, hu, hv]

theorem execBatchStepApply_of_copiesFault {va info code : Nat} (hv : u.readStep ctx 0 copies = (.fault va info code, v)) :
    execBatchStepApply ctx s = .next (v.stepUnread ctx va info code r.record) := by
  simp [execBatchStepApply, h, ha, hb, hr, ht, hu, hv]

theorem execBatchStepApply_of_read {cs : List (Nat × List Byte)} (hv : u.readStep ctx 0 copies = (.ok cs, v)) :
    execBatchStepApply ctx s = .next (v.stepApply ctx r blocks cs) := by
  simp [execBatchStepApply, h, ha, hb, hr, ht, hu, hv]

end

/-! ## The deadline -/

theorem execWeaverWaitTimeout_of_overdueStep {r : StepRun} (hk : (s.ctxAt ctx).kernel = none) (hs : (s.ctxAt ctx).step = some r)
    (ha : r.awaits = true) (hd : s.pastDeadline r.since = true) : execWeaverWaitTimeout ctx s =
      .next (((s.applyVerdicts ctx (r.joins.map (fun _ => false))).stepFinish ctx true).timeoutSeen ctx) := by
  simp [execWeaverWaitTimeout, hk, hs, ha, hd]

end

section
variable {s : State} {c m : Nat}

/-! ## Outcomes of another module (R279) -/

section
variable {a : StepAnswers}

/-- Where no step of the step_id is under way, another module's outcomes are kept for it, once. -/
theorem State.joinOutcomes_of_otherStep (h : ∀ r, (s.ctxAt c).step = some r → r.id ≠ a.step.toNat) :
    s.joinOutcomes c m a = if m = s.me ∨ ∃ o ∈ (s.ctxAt c).early, o.1 = a.step.toNat ∧ o.2.1 = m then s
      else s.setCtx c { s.ctxAt c with early := (s.ctxAt c).early ++ [(a.step.toNat, m, a.bits)] } := by
  have hn : (s.ctxAt c).step.filter (fun r => r.id == a.step.toNat) = none := by
    simpa [Option.filter_eq_none_iff] using h
  simp only [State.joinOutcomes, hn]
  exact ite_congr (by simp only [List.any_eq_true, Bool.and_eq_true, beq_iff_eq]) (fun _ => rfl) (fun _ => rfl)

/-- At the lead another module's outcomes count once for the step that they are for. -/
theorem State.joinOutcomes_of_step {r : StepRun} (h : (s.ctxAt c).step = some r) (hi : r.id = a.step.toNat) :
    s.joinOutcomes c m a = if fieldAt r.record 0x0C 2 % 2 ^ 14 ≠ s.me ∨ m = s.me ∨ ∃ o ∈ r.outcomes, o.1 = m then s
      else (s.onCtx c (fun x => { x with step := some { r with outcomes := r.outcomes ++ [(m, a.bits)] } })).settleVerdicts c := by
  have hf : (s.ctxAt c).step.filter (fun r => r.id == a.step.toNat) = some r := by
    simp [h, hi]
  simp only [State.joinOutcomes, hf]
  exact ite_congr (by simp only [List.any_eq_true, beq_iff_eq]) (fun _ => rfl) (fun _ => rfl)

end

/-! ## The lead's verdicts (R279) -/

section
variable {v : StepVerdicts}

theorem State.stepVerdicts_of_otherStep (h : ∀ r, (s.ctxAt c).step = some r → r.id ≠ v.step.toNat) : s.stepVerdicts c v = s := by
  unfold State.stepVerdicts
  split
  · rfl
  · next r hr => exact if_pos (by simp [h r hr])

variable {r : StepRun} (h : (s.ctxAt c).step = some r)
include h

theorem State.stepVerdicts_of_not_awaited
    (hn : r.awaits = false ∨ fieldAt r.record 0x0C 2 % 2 ^ 14 ≠ v.pkt.src.toNat ∨ v.pkt.src.toNat = s.me) : s.stepVerdicts c v = s := by
  simp only [State.stepVerdicts, h]
  exact if_pos (by rcases hn with hn | hn | hn <;> simp [hn, -Nat.reducePow])

theorem State.stepVerdicts_of_awaited (hi : r.id = v.step.toNat) (ha : r.awaits = true)
    (hl : fieldAt r.record 0x0C 2 % 2 ^ 14 = v.pkt.src.toNat) (hm : v.pkt.src.toNat ≠ s.me) :
    s.stepVerdicts c v = (s.applyVerdicts c v.bits).stepFinish c false := by
  simp only [State.stepVerdicts, h]
  exact if_neg (by simp [hi, ha, hl, hm, -Nat.reducePow])

end

end

/-! ## The obligation -/

/-- Settles O45: each clause is an equation of its command; a message is what its admitted packet says, to the step it names. -/
theorem batchStepsAreAdmittedTogether : Obligations.BatchStepsAreAdmittedTogether := by
  intro s ctx pkt n bits
  refine ⟨fun k u => execCmdBatchStep_of_refused, fun k u => execCmdBatchStep_of_taken, execCmdBatchStep_of_begun,
    fun h hc hs k hk => execCmdBatchStep_of_waiting h hc hs hk, execBatchStepApply_of_noStep, ?messages, ?apply⟩
  case messages =>
    rintro b u hadm rfl
    refine ⟨fun hn => ?notMeant, fun hk hr hb => ?meant⟩
    case notMeant =>
      rw [Ne, Ne, BitVec.toNat_eq] at hn
      exact ⟨congrArg _ (State.arriveMsg_of_not_meant hadm _ hn), congrArg _ (State.arriveMsg_of_not_meant hadm _ hn)⟩
    have meant : ∀ f, s.arriveMsg pkt 1 n.toNat ctx f = f (s.packetTaken pkt) := fun f =>
      State.arriveMsg_of_meant hadm f hk (congrArg _ hr) hb
    have hjoin : exec (.joinOutcomes ctx pkt ⟨n, bits⟩) s = .next ((s.packetTaken pkt).joinOutcomes ctx pkt.src.toNat ⟨n, bits⟩) :=
      congrArg _ (meant _)
    have hverdict : exec (.stepVerdict ctx ⟨pkt, n, bits⟩) s = .next ((s.packetTaken pkt).stepVerdicts ctx ⟨pkt, n, bits⟩) :=
      congrArg _ (meant _)
    rw [hjoin, hverdict]
    generalize s.packetTaken pkt = u
    refine ⟨fun ho => ⟨congrArg _ (State.stepVerdicts_of_otherStep ho), fun h => ?_, fun hm he => ?early⟩,
      fun r hs hi => ⟨fun hl hm ho => ?_, fun h => ?_, fun ha hl hm => congrArg _ (State.stepVerdicts_of_awaited hs hi ha hl hm),
        fun h => congrArg _ (State.stepVerdicts_of_not_awaited hs h)⟩⟩
    · rw [State.joinOutcomes_of_otherStep ho, if_pos h]
    case early =>
      rw [State.joinOutcomes_of_otherStep ho, if_neg (by
        rintro (h | ⟨o, ho, hn, hs⟩)
        · exact hm h
        · exact (he o ho).elim (· hn) (· hs))]
      exact ⟨_, rfl, u.ctxAt_setCtx_same _ _, fun k hk => u.ctxAt_setCtx_other hk _, rfl⟩
    · rw [State.joinOutcomes_of_step hs hi, if_neg (by
        rintro (h | h | ⟨o, h, hn⟩)
        · exact h hl
        · exact hm h
        · exact ho o h hn)]
    · rw [State.joinOutcomes_of_step hs hi, if_pos h]
  case apply =>
    intro r h
    exact ⟨execBatchStepApply_of_held h, fun ha hb => ⟨fun entry code info => execBatchStepApply_of_refused h ha hb,
      fun hr tokens copies ht => ⟨fun u => execBatchStepApply_of_tokensAway h ha hb hr ht,
        fun va info code u => execBatchStepApply_of_tokensFault h ha hb hr ht,
        fun blocks u hu => ⟨fun v => execBatchStepApply_of_copiesAway h ha hb hr ht hu,
          fun va info code v => execBatchStepApply_of_copiesFault h ha hb hr ht hu,
          fun cs v => execBatchStepApply_of_read h ha hb hr ht hu⟩⟩⟩,
      fun hk => execWeaverWaitTimeout_of_overdueStep hk h⟩

end Sys2Proof.Machine

/-! How a plait is loaded and its pieces agree (07 R304 to R309, R315, R321, R327, R329; 12 R586): the load's command, its end, its
changes and its COMMIT, and the messages by which the members of a basket agree on its shape. -/

namespace Sys2Proof.Machine

/-! ## Packets that come here -/

section
variable {s : State} {pkt : Packet} {t : Nat}

theorem State.arriveHere_of_notHere (h : s.halted = true ∨ pkt.ptype.toNat ≠ t ∨ pkt.dest.toNat ≠ s.me ∨ s.delivered pkt = false)
    (f : State → State) : s.arriveHere pkt t f = s := if_pos h

theorem State.arriveHere_of_here (hh : s.halted = false) (ht : pkt.ptype.toNat = t) (hd : pkt.dest.toNat = s.me)
    (hv : s.delivered pkt = true) (f : State → State) :
    s.arriveHere pkt t f = if (s.packetTaken pkt).staleEpoch pkt = true then (s.packetTaken pkt).dropStale pkt else f (s.packetTaken pkt) :=
  if_neg (by simp [hh, ht, hd, hv])

end

section
variable {s : State} {a : Agent} {v : Word32}

/-! ## States that differ in one field -/

theorem State.set_onlyFields (s : State) (f : Field) (i x : Nat) : s.onlyFields (s.set f i x) [(f, i)] :=
  State.onlyFields_set (s.onlyFields_refl _) (List.mem_singleton_self _) x

/-! ## The command of a load (R306, R308, R327) -/

theorem State.plaitCmd_iff {v op : Nat} : s.plaitCmd a v op = true ↔ a ≠ .rim ∧ s.takes a 0x80408 = true ∧ bitsOf v 0 2 = op := by
  simp [State.plaitCmd, and_assoc]

/-- Partition 0 alone writes the command. -/
theorem State.plaitCmd_of_refused (h : a = .rim ∨ s.takes a 0x80408 = false) (v op : Nat) : ¬ s.plaitCmd a v op = true := by
  rw [State.plaitCmd_iff]
  rintro ⟨ha, ht, -⟩
  rcases h with h | h
  · exact ha h
  · simp [h] at ht

theorem State.plaitCmd_of_otherOp {v op : Nat} (h : bitsOf v 0 2 ≠ op) : ¬ s.plaitCmd a v op = true :=
  fun hc => h (State.plaitCmd_iff.1 hc).2.2

/-- A load is in progress, or a partition is being removed. -/
theorem State.loading_or_removing_iff : (s.loading || s.partitions.any s.removing) = true ↔
    (1 ≤ s.get Fld.RIM_PLAIT_STATUS_state ∧ s.get Fld.RIM_PLAIT_STATUS_state ≤ 5) ∨
      ∃ p ∈ s.partitions, s.get Fld.LID_PART_state p = 3 ∨ s.get Fld.LID_PART_state p = 4 := by
  simp [State.loading, State.removing]

theorem execPlaitLoad_of_notCmd (h : ¬ s.plaitCmd a v.toNat 1 = true) : execPlaitLoad a v s = .next s := if_pos (by simpa using h)

theorem execPlaitLoad_of_busy (h : s.plaitCmd a v.toNat 1 = true) (hb : (s.loading || s.partitions.any s.removing) = true) :
    execPlaitLoad a v s = .next (s.set Fld.RIM_PLAIT_ERR_code 0 0x0E) := by
  rw [execPlaitLoad, if_neg (by simp [h]), if_pos hb]

theorem execPlaitLoad_of_free (h : s.plaitCmd a v.toNat 1 = true) (hb : ¬ (s.loading || s.partitions.any s.removing) = true) :
    execPlaitLoad a v s = .next (s.set Fld.RIM_PLAIT_STATUS_state 0 1) := by
  rw [execPlaitLoad, if_neg (by simp [h]), if_neg hb]

theorem execPlaitAbort_of_notCmd (h : ¬ s.plaitCmd a v.toNat 2 = true) : execPlaitAbort a v s = .next s :=
  if_neg fun hc => h (Bool.and_eq_true_iff.1 hc).1

theorem execPlaitAbort_of_otherState (h : s.get Fld.RIM_PLAIT_STATUS_state ≠ 1 ∧ s.get Fld.RIM_PLAIT_STATUS_state ≠ 2) :
    execPlaitAbort a v s = .next s :=
  if_neg (by simp [h])

theorem execPlaitAbort_of_cmd (h : s.plaitCmd a v.toNat 2 = true)
    (hs : s.get Fld.RIM_PLAIT_STATUS_state = 1 ∨ s.get Fld.RIM_PLAIT_STATUS_state = 2) :
    execPlaitAbort a v s = .next (s.plaitFail 0 0) :=
  if_pos (by simpa [h] using hs)

/-! ## A load that fails -/

/-- What the registers show of a load that has failed. -/
def State.plaitFailed (s : State) (code off : Nat) : State :=
  s.setAll 0 [(Fld.RIM_PLAIT_STATUS_state, 7), (Fld.RIM_PLAIT_STATUS_failed, 1), (Fld.RIM_PLAIT_ERR_code, code),
    (Fld.RIM_PLAIT_ERR_OFF_offset, off)]

theorem State.plaitFailed_get (s : State) (code off : Nat) :
    (s.plaitFailed code off).get Fld.RIM_PLAIT_STATUS_state = 7 ∧ (s.plaitFailed code off).get Fld.RIM_PLAIT_STATUS_failed = 1 ∧
      (s.plaitFailed code off).get Fld.RIM_PLAIT_ERR_code = code % 2 ^ Fld.RIM_PLAIT_ERR_code.width ∧
      (s.plaitFailed code off).get Fld.RIM_PLAIT_ERR_OFF_offset = off % 2 ^ Fld.RIM_PLAIT_ERR_OFF_offset.width := by
  simp only [State.plaitFailed, State.setAll_cons, State.setAll_nil]
  refine ⟨?_, ?_, ?_, State.get_set_same ..⟩
  · rw [State.get_set_field _ (by decide), State.get_set_field _ (by decide), State.get_set_field _ (by decide), State.get_set_same]
    rfl
  · rw [State.get_set_field _ (by decide), State.get_set_field _ (by decide), State.get_set_same]
    rfl
  · rw [State.get_set_field _ (by decide), State.get_set_same]

theorem State.plaitFailed_onlyFields (s : State) (code off : Nat) : s.onlyFields (s.plaitFailed code off)
    [(Fld.RIM_PLAIT_STATUS_state, 0), (Fld.RIM_PLAIT_STATUS_failed, 0), (Fld.RIM_PLAIT_ERR_code, 0), (Fld.RIM_PLAIT_ERR_OFF_offset, 0)] :=
  ⟨State.fieldsBut_setAll (s.fieldsBut_refl _) 0 _ (by simp), rfl⟩

/-- The event is raised where it was enabled: a failure leaves its enable as it was. -/
theorem State.plaitFail_eq (s : State) (code off : Nat) : s.plaitFail code off =
    if s.flag Fld.RIM_PLAIT_STATUS_done_event_en = true then (s.plaitFailed code off).report 0x40 0 0 else s.plaitFailed code off := by
  have hen : (s.plaitFailed code off).flag Fld.RIM_PLAIT_STATUS_done_event_en = s.flag Fld.RIM_PLAIT_STATUS_done_event_en := by
    rw [State.flag, (s.plaitFailed_onlyFields code off).1 _ 0 (by decide), State.flag]
  rw [← hen]
  rfl

/-! ## FETCH and CHECK (R304 to R307) -/

/-- Where the plait lies in the memory of link 0. -/
def State.plaitAddr (s : State) : Nat := s.get Fld.RIM_PLAIT_ADDR_LO_addr_lo * 64 + 2 ^ 32 * s.get Fld.RIM_PLAIT_ADDR_HI_addr_hi

/-- The length that the plait's header gives. -/
def State.plaitTotal (s : State) : Nat := fieldAt (s.hostBytes 0 s.plaitAddr 64) 0x14 4

/-- The bytes of the plait. -/
def State.plaitBytes (s : State) : List Byte := s.hostBytes 0 s.plaitAddr (max 64 s.plaitTotal)

theorem execPlaitFetchDone_of_otherState (h : s.get Fld.RIM_PLAIT_STATUS_state ≠ 1) : execPlaitFetchDone s = .next s := if_pos h

section
variable (h : s.get Fld.RIM_PLAIT_STATUS_state = 1)
include h

theorem execPlaitFetchDone_of_unreadable (hm : s.canMaster 0 = false) : execPlaitFetchDone s = .next (s.plaitFail 1 0) := by
  simp [execPlaitFetchDone, h, hm]

variable (hm : s.canMaster 0 = true)
include hm

theorem execPlaitFetchDone_of_tooLong (hl : 2 ^ 22 < s.plaitTotal) : execPlaitFetchDone s = .next (s.plaitFail 1 0x14) := by
  rw [execPlaitFetchDone, if_neg (by simp [h])]
  exact (if_neg (by simp [hm])).trans (if_pos hl)

variable (hl : s.plaitTotal ≤ 2 ^ 22) {secs : List Section}
include hl

theorem execPlaitFetchDone_of_refused {code off : Nat} (hc : s.checkPlait s.plaitKeys s.plaitBytes = (secs, some (off, code))) :
    execPlaitFetchDone s = .next (s.plaitFail code off) := by
  simp only [State.plaitBytes, State.plaitTotal, State.plaitAddr] at hl hc
  simp only [execPlaitFetchDone, h, hm, hc, ne_eq, not_true_eq_false, Bool.not_true, Bool.false_eq_true, if_false, Nat.not_lt.2 hl]

theorem execPlaitFetchDone_of_checked (hc : s.checkPlait s.plaitKeys s.plaitBytes = (secs, none)) :
    execPlaitFetchDone s = .next (s.stage secs (fieldAt s.plaitBytes 8 8)) := by
  simp only [State.plaitBytes, State.plaitTotal, State.plaitAddr] at hl hc ⊢
  simp only [execPlaitFetchDone, h, hm, hc, ne_eq, not_true_eq_false, Bool.not_true, Bool.false_eq_true, if_false, Nat.not_lt.2 hl]

end

/-! ## APPLY (R309) -/

theorem execPlaitChangeEffect_of_none {k : Nat} (h : s.plait.changes.length ≤ k) : execPlaitChangeEffect k s = .next s := by
  simp only [execPlaitChangeEffect, List.getElem?_eq_none h]

section
variable {k : Nat} {x : Change} (h : s.plait.changes[k]? = some x)
include h

theorem execPlaitChangeEffect_of_ready (hr : s.changeReady x = true) :
    execPlaitChangeEffect k s = .next ((s.dropChange x).changeEffect x).afterChange := by
  simp only [execPlaitChangeEffect, h, hr, if_true]

variable (hr : s.changeReady x = false)
include hr

/-- The pages of a channel that leaves a piece that stays are moved on. -/
theorem execPlaitChangeEffect_of_chanHeld {b ch : Nat} (hx : x = .chanRemove b ch) :
    execPlaitChangeEffect k s = .next (if (s.pieceAt b).leaving then s else s.evacuateChan b ch) := by
  subst hx
  simp [execPlaitChangeEffect, h, hr]

/-- A held core is asked to hand over. -/
theorem execPlaitChangeEffect_of_coreHeld {b core c base len : Nat} (hx : x = .slotAdd b core c base len) :
    execPlaitChangeEffect k s = .next (s.handOver core) := by
  subst hx
  simp [execPlaitChangeEffect, h, hr]

theorem execPlaitChangeEffect_of_otherHeld (hchan : ∀ b ch, x ≠ .chanRemove b ch)
    (hslot : ∀ b core c base len, x ≠ .slotAdd b core c base len) : execPlaitChangeEffect k s = .next s := by
  simp only [execPlaitChangeEffect, h, hr, Bool.false_eq_true, if_false]

end

/-! ## COMMIT (R307, R309, R329) -/

theorem execPlaitCommit_of_otherState (h : s.get Fld.RIM_PLAIT_STATUS_state ≠ 5) : execPlaitCommit s = .next s := if_pos h

/-- The sections that a commit changes. -/
def State.changedSections (s : State) : List Section := s.plait.staged.filter (fun x => !s.unchanged x)

/-- The generation is set, what leaves ends, what changed is bound, and the counts of the pieces are shown. -/
def State.commitPieces (s : State) : State :=
  (s.changedSections.foldl State.commitSection
    (s.set64 Fld.RIM_PLAIT_GEN_LO_gen_lo Fld.RIM_PLAIT_GEN_HI_gen_hi 0 s.plait.newGen).dropLeavers).countPieces.showDrained

/-- The plait staged is no longer held apart. -/
def State.plaitSettled (s : State) : State := { s with plait := { s.plait with staged := [], running := [], reduced := false } }

theorem execPlaitCommit_of_commit (h : s.get Fld.RIM_PLAIT_STATUS_state = 5) : execPlaitCommit s =
    .next (((if s.plait.reduced || s.changedSections.any s.bindsAbsent
      then s.commitPieces.plaitSettled.set Fld.RIM_PLAIT_STATUS_reduced 0 1 else s.commitPieces.plaitSettled).capChange.set
        Fld.RIM_PLAIT_STATUS_state 0 6).set Fld.RIM_PLAIT_STATUS_done 0 1).plaitEvent := by
  rw [execPlaitCommit, if_neg (by simp [h])]
  rfl

end

section
variable {s : State} {b m : Nat}

/-! ## What ordinal 0 answers (R321, R325) -/

theorem State.agreed_iff : s.agreed b = true ↔ ∀ n ∈ s.otherMembers b, s.reported (s.basketUid b) n = s.ownShape b := by
  simp [State.agreed]

theorem State.answerShape_of_unreported (h : s.reported (s.basketUid b) m = (0, 0)) : s.answerShape b m = s := if_pos h

theorem State.answerShape_of_reported (h : s.reported (s.basketUid b) m ≠ (0, 0)) : s.answerShape b m =
    s.sendMsg b m 0 0 (.shapeState (BitVec.ofNat 64 (s.basketUid b)) (if s.reported (s.basketUid b) m = s.ownShape b then 1 else 3)) :=
  if_neg h

theorem State.answerShapes_of_agreed (h : s.agreed b = true) (ms : List Nat) : s.answerShapes b ms = s.tellShape b 2 := if_pos h

theorem State.answerShapes_of_notAgreed (h : s.agreed b = false) : s.answerShapes b [m] = s.answerShape b m := if_neg (by simp [h])

/-! ## The report of a member (R321) -/

section
variable {uid gen : Nat} {digest : BitVec 512}

/-- A member's report is kept, in the place of the one before. -/
def State.keepReport (s : State) (uid m gen : Nat) (digest : BitVec 512) : State :=
  { s with reports := Sparse.set (0, 0) s.reports (2 ^ 14 * uid + m) (gen, digest) }

/-- A report of a basket that is not bound here, or whose piece is LEAVING, is kept. -/
theorem State.takeReport_of_notHere (h : ∀ b, s.basketOfUid uid = some b → s.get Fld.CAP_BASKET_state b = 4) :
    s.takeReport uid m gen digest = s.keepReport uid m gen digest := by
  have hk : ((s.keepReport uid m gen digest).basketOfUid uid).filter
      (fun b => (s.keepReport uid m gen digest).get Fld.CAP_BASKET_state b != 4) = none :=
    Option.filter_eq_none_iff.2 fun b hb => by simp [show (s.keepReport uid m gen digest).get Fld.CAP_BASKET_state b = 4 from h b hb]
  simp only [State.keepReport] at hk ⊢
  simp only [State.takeReport, hk]

/-- Ordinal 0 answers a member's report. -/
theorem State.takeReport_of_here (h : s.basketOfUid uid = some b) (hs : s.get Fld.CAP_BASKET_state b ≠ 4) {u : State}
    (hu : u = s.keepReport uid m gen digest) : s.takeReport uid m gen digest =
    if (s.pieceAt b).sec.ordinal ≠ 0 ∨ !(s.otherMembers b).contains m then u
    else ((if s.reported uid m ≠ (0, 0) ∧ (s.reported uid m).1 ≠ gen then u.tellShape b 1 else u).answerShapes b [m]).shapeShown u b := by
  have hk : (u.basketOfUid uid).filter (fun b => u.get Fld.CAP_BASKET_state b != 4) = some b := by
    subst hu
    exact Option.filter_eq_some_iff.2 ⟨h, bne_iff_ne.2 hs⟩
  subst hu
  simp only [State.keepReport] at hk ⊢
  simp only [State.takeReport, hk]
  rfl

end

/-! ## The state that ordinal 0 gives (R321) -/

section
variable {uid : Nat} {st : Fin 5}

theorem State.get_set_basketState (s : State) (b : Nat) (st : Fin 5) : (s.set Fld.CAP_BASKET_state b st).get Fld.CAP_BASKET_state b = st.val := by
  rw [State.get_set_same]
  exact Nat.mod_eq_of_lt (Nat.lt_trans st.isLt (by decide))

theorem State.takeShape_of_unbound (h : s.basketOfUid uid = none) : s.takeShape uid m st = s := by
  simp only [State.takeShape, h]

/-- A member takes from ordinal 0 alone, and neither ABSENT nor LEAVING (Table 8). -/
theorem State.takeShape_of_here (h : s.basketOfUid uid = some b) : s.takeShape uid m st =
    if (s.pieceAt b).sec.ordinal = 0 ∨ s.leadMember b ≠ some m ∨ s.get Fld.CAP_BASKET_state b = 4 ∨ st = 0 ∨ st = 4 then s
    else (s.set Fld.CAP_BASKET_state b st).shapeShown s b := by
  simp only [State.takeShape, h]
  exact ite_congr (by rw [Fin.ext_iff, Fin.ext_iff]; rfl) (fun _ => rfl) (fun _ => rfl)

end

end

/-! ## Messages of shape -/

section
variable {s : State} {pkt : Packet} {uid : BitVec 64} {gen : Word32} {digest : BitVec 512} {st : Fin 5}

/-- What is no message delivered to a module that runs changes nothing. -/
theorem execShape_of_notHere (h : s.halted = true ∨ pkt.ptype.toNat ≠ 8 ∨ pkt.dest.toNat ≠ s.me ∨ s.delivered pkt = false) :
    execShapeReport pkt uid gen digest s = .next s ∧ execShapeState pkt uid st s = .next s :=
  ⟨congrArg _ (State.arriveHere_of_notHere h _), congrArg _ (State.arriveHere_of_notHere h _)⟩

section
variable (hh : s.halted = false) (ht : pkt.ptype.toNat = 8) (hd : pkt.dest.toNat = s.me) (hv : s.delivered pkt = true)
include hh ht hd hv

theorem execShape_of_stale (he : (s.packetTaken pkt).staleEpoch pkt = true) :
    execShapeReport pkt uid gen digest s = .next ((s.packetTaken pkt).dropStale pkt) ∧
      execShapeState pkt uid st s = .next ((s.packetTaken pkt).dropStale pkt) :=
  ⟨congrArg _ ((State.arriveHere_of_here hh ht hd hv _).trans (if_pos he)),
    congrArg _ ((State.arriveHere_of_here hh ht hd hv _).trans (if_pos he))⟩

variable (he : (s.packetTaken pkt).staleEpoch pkt = false)
include he

theorem execShapeReport_of_fresh : execShapeReport pkt uid gen digest s =
    .next (if bitsOf pkt.args.toNat 0 8 ≠ 2 ∨ pkt.uid ≠ uid then s.packetTaken pkt
      else (s.packetTaken pkt).takeReport uid.toNat pkt.src.toNat gen.toNat digest) :=
  congrArg _ ((State.arriveHere_of_here hh ht hd hv _).trans (if_neg (by simp [he])))

theorem execShapeState_of_fresh : execShapeState pkt uid st s =
    .next (if bitsOf pkt.args.toNat 0 8 ≠ 3 ∨ pkt.uid ≠ uid then s.packetTaken pkt
      else (s.packetTaken pkt).takeShape uid.toNat pkt.src.toNat st) :=
  congrArg _ ((State.arriveHere_of_here hh ht hd hv _).trans (if_neg (by simp [he])))

end

end

/-! ## The obligation -/

/-- Settles O59: each command through the equations of its cases; a message of shape is what its packet, once taken, says to the piece. -/
theorem plaitsAreCheckedStagedAndCommitted : Obligations.PlaitsAreCheckedStagedAndCommitted := by
  intro s a v k pkt uid gen digest st
  refine ⟨fun h => ⟨execPlaitLoad_of_notCmd (State.plaitCmd_of_refused h _ _), execPlaitAbort_of_notCmd (State.plaitCmd_of_refused h _ _)⟩,
    fun h => execPlaitLoad_of_notCmd (State.plaitCmd_of_otherOp h), fun ha ht hv => ?load, fun code off => ?fails,
    fun h => h.elim (fun h => execPlaitAbort_of_notCmd (State.plaitCmd_of_otherOp h)) execPlaitAbort_of_otherState,
    execPlaitFetchDone_of_otherState, execPlaitChangeEffect_of_none,
    fun x h => ⟨execPlaitChangeEffect_of_ready h, fun hr => ⟨fun b ch => execPlaitChangeEffect_of_chanHeld h hr,
      fun b core c base len => execPlaitChangeEffect_of_coreHeld h hr, execPlaitChangeEffect_of_otherHeld h hr⟩⟩,
    fun b c => rfl, fun b r g => rfl, execPlaitCommit_of_otherState, ?commit, execShape_of_notHere, fun hh ht hd hv => ?shapes,
    fun b m => ⟨State.agreed_iff, State.answerShape_of_unreported, fun h => ?answer⟩⟩
  case load =>
    have hc : s.plaitCmd a v.toNat 1 = true := State.plaitCmd_iff.2 ⟨ha, ht, hv⟩
    refine ⟨fun hb => ?_, fun hs hp => ?_⟩
    · exact ⟨_, execPlaitLoad_of_busy hc (State.loading_or_removing_iff.2 hb), State.get_set_same .., s.set_onlyFields _ _ _⟩
    · refine ⟨_, execPlaitLoad_of_free hc fun hb => ?_, State.get_set_same .., s.set_onlyFields _ _ _⟩
      rcases State.loading_or_removing_iff.1 hb with hb | ⟨p, hm, hb⟩
      · omega
      · exact hb.elim (hp p hm).1 (hp p hm).2
  case fails =>
    obtain ⟨hstate, hfailed, hcode, hoff⟩ := s.plaitFailed_get code off
    refine ⟨s.plaitFailed code off, hstate, hfailed, hcode, hoff, s.plaitFailed_onlyFields code off, ?_⟩
    rintro _ rfl
    rw [← s.plaitFail_eq]
    refine ⟨?abort, ?fetch⟩
    case abort =>
      rintro rfl rfl ha ht hv hs
      exact execPlaitAbort_of_cmd (State.plaitCmd_iff.2 ⟨ha, ht, hv⟩) hs
    case fetch =>
      rintro h _ _ _ rfl rfl rfl
      refine ⟨?_, ?_, fun hm hl => ⟨fun secs => execPlaitFetchDone_of_refused h hm hl, fun secs => execPlaitFetchDone_of_checked h hm hl⟩⟩
      · rintro hm rfl rfl
        exact execPlaitFetchDone_of_unreadable h hm
      · rintro hm hl rfl rfl
        exact execPlaitFetchDone_of_tooLong h hm hl
  case commit =>
    rintro h _ _ _ rfl rfl rfl
    exact execPlaitCommit_of_commit h
  case shapes =>
    rintro _ _ rfl rfl
    refine ⟨execShape_of_stale hh ht hd hv, fun he => ?_⟩
    rw [show exec (.shapeReport pkt uid gen digest) s = _ from execShapeReport_of_fresh hh ht hd hv he,
      show exec (.shapeState pkt uid st) s = _ from execShapeState_of_fresh hh ht hd hv he]
    generalize s.packetTaken pkt = x
    refine ⟨fun h => congrArg _ (if_pos h), fun h => congrArg _ (if_pos h), fun hk hu => ?report, fun hk hu => ?state⟩
    case report =>
      rw [if_neg (by simp [hk, hu])]
      intro u hkeep
      refine ⟨fun h => congrArg _ ?_, fun b hb => ⟨fun h => congrArg _ ?_, fun hs ho hm w hw => ?_⟩⟩
      · rw [hkeep]
        exact State.takeReport_of_notHere fun b hb => by simp [h] at hb
      · by_cases hs : x.get Fld.CAP_BASKET_state b = 4
        · rw [hkeep]
          exact State.takeReport_of_notHere fun c hc => Option.some.inj (hb.symm.trans hc) ▸ hs
        · rw [State.takeReport_of_here hb hs hkeep]
          exact if_pos (by simpa [hs] using h)
      · rw [State.takeReport_of_here hb hs hkeep, if_neg (by simp [ho, hm]), ← hw]
        exact ⟨fun h => by rw [State.answerShapes_of_agreed h], fun h => by rw [State.answerShapes_of_notAgreed h]⟩
    case state =>
      rw [if_neg (by simp [hk, hu])]
      refine ⟨fun h => congrArg _ (State.takeShape_of_unbound h), fun b hb => ⟨fun h => ?_,
        fun ho hl hs h0 h4 => ⟨x.set Fld.CAP_BASKET_state b st, x.get_set_basketState b st, x.set_onlyFields _ _ _, congrArg _ ?_⟩⟩⟩
      · rw [State.takeShape_of_here hb, if_pos h]
      · rw [State.takeShape_of_here hb, if_neg (by simp [ho, hl, hs, h0, h4]), State.shapeShown, x.get_set_basketState]
        exact ite_congr (propext eq_comm) (fun _ => rfl) (fun _ => rfl)
  case answer =>
    rintro _ rfl
    have hkind : bitsOf (BitVec.ofNat 128 3).toNat 0 8 = 3 := by decide
    exact ⟨_, rfl, rfl, rfl, hkind, State.answerShape_of_reported h⟩

end Sys2Proof.Machine

/-! How a context takes its commands and its kernel goes on (05 R186, R189; 08 R346, R348, R349, R351, R372; 15 R680): the command at the
head of its queue, the start and the resumption of a kernel, the count blocks and the span message that a kernel waits for, and its
deadline. -/

namespace Sys2Proof.Machine

section
variable {s : State} {ctx : Fin 2048}

/-! ## The command at the head of the queue (R348, R349) -/

theorem State.canTake_eq_false {c : Nat}
    (h : s.halted = true ∨ s.get Fld.WVR_CTX_STATE_state c ≠ 1 ∨ (s.ctxAt c).cmd ≠ none ∨ s.flag Fld.WVR_CTX_CTRL_stop c = true) :
    s.canTake c = false := by
  rcases h with h | h | h | h
  · simp [State.canTake, h]
  · simp [State.canTake, h]
  · simp [State.canTake, Option.isNone_eq_false_iff.2 (Option.isSome_iff_ne_none.2 h)]
  · simp [State.canTake, h]

theorem State.takeCmd_of_cannot {c : Nat} (h : s.canTake c = false) (want : Nat → Bool) : s.takeCmd c want = none := by
  simp [State.takeCmd, h]

theorem execCmdIdle_of_none (h : s.takeCmd ctx (fun o => o == 0 || decide (4 < o)) = none) : execCmdIdle ctx s = .next s := by
  simp only [execCmdIdle, h]

section
variable {k : Cmd} {u : State}

theorem execCmdIdle_of_refused (h : s.takeCmd ctx (fun o => o == 0 || decide (4 < o)) = some (k, true, u)) :
    execCmdIdle ctx s = .next (u.finishCmd ctx 2 1 0) := by
  simp only [execCmdIdle, h]

theorem execCmdIdle_of_taken (h : s.takeCmd ctx (fun o => o == 0 || decide (4 < o)) = some (k, false, u)) :
    execCmdIdle ctx s = .next (u.onCtx ctx (fun x => { x with cmd := none })) := by
  simp only [execCmdIdle, h]

/-! ## The start of a kernel, and its resumption (05 R189) -/

theorem execCmdKernel_of_refused (h : (s.passBoundary ctx).takeCmd ctx (· == 1) = some (k, true, u)) :
    execCmdKernel ctx s = .next (u.finishCmd ctx 2 1 0) := by
  simp only [execCmdKernel, h]

theorem execCmdKernel_of_taken (h : (s.passBoundary ctx).takeCmd ctx (· == 1) = some (k, false, u)) :
    execCmdKernel ctx s = .next (u.kernelStart ctx) := by
  simp only [execCmdKernel, h]

end

section
variable (h : (s.passBoundary ctx).takeCmd ctx (· == 1) = none)
include h

theorem execCmdKernel_of_begun (hc : (s.ctxAt ctx).cmd = none ∨ (s.ctxAt ctx).kernel ≠ none ∨ (s.ctxAt ctx).item ≠ none) :
    execCmdKernel ctx s = .next s := by
  simp only [execCmdKernel, h]
  split
  · next hk hn hi => simp [hk, hn, hi] at hc
  · rfl

theorem execCmdKernel_of_waiting {k : Cmd} (hk : (s.ctxAt ctx).cmd = some k) (hn : (s.ctxAt ctx).kernel = none)
    (hi : (s.ctxAt ctx).item = none) : execCmdKernel ctx s = .next (if k.opcode = 1 then s.kernelStart ctx else s) := by
  simp only [execCmdKernel, h, hk, hn, hi]
  split <;> rfl

end

theorem execKernelStartResume_of_start {k : Cmd} (hk : (s.ctxAt ctx).cmd = some k) (hn : (s.ctxAt ctx).kernel = none)
    (hi : (s.ctxAt ctx).item = none) (ho : k.opcode = 1) : execKernelStartResume ctx s = .next (s.kernelStart ctx) := by
  simp [execKernelStartResume, hk, hn, hi, ho]

theorem execKernelStartResume_of_kernel (hn : (s.ctxAt ctx).kernel ≠ none) (hi : (s.ctxAt ctx).item = none) :
    execKernelStartResume ctx s = .next (s.kernelResume ctx) := by
  obtain ⟨k, hk⟩ := Option.ne_none_iff_exists'.1 hn
  simp only [execKernelStartResume, hk, hi]

theorem execKernelStartResume_of_item (hi : (s.ctxAt ctx).item ≠ none) : execKernelStartResume ctx s = .next s := by
  unfold execKernelStartResume
  split
  · next hn => exact absurd hn hi
  · next hn => exact absurd hn hi
  · rfl

/-! ## Count blocks (05 R190; 15 R691) -/

section
variable {c m kid : Nat} {block : CountBlock}

theorem State.countBlock_of_noKernel (h : (s.ctxAt c).kernel = none) : s.countBlock c m kid block = s := by
  simp only [State.countBlock, h]

/-- The lead of the kernel with the id waits for the block of a member that has not sent one. -/
def State.awaitsBlock (s : State) (k : Kernel) (m kid : Nat) : Prop :=
  fieldAt k.desc 0 8 = kid ∧ s.isLead k.desc = true ∧ k.result = none ∧ k.short = false ∧ m ≠ s.me ∧ (∃ x ∈ k.rankMap, x.1 = m) ∧
    ∀ x ∈ k.blocks, x.1 ≠ m

theorem State.awaitsBlock_iff {k : Kernel} : s.awaitsBlock k m kid ↔
    ¬ (fieldAt k.desc 0 8 != kid || !s.isLead k.desc || k.result.isSome || k.short || m == s.me ||
      !k.rankMap.any (fun x => x.1 == m) || k.blocks.any (fun x => x.1 == m)) = true := by
  simp only [State.awaitsBlock, Bool.or_eq_true, not_or, and_assoc, List.any_eq_true, beq_iff_eq, bne_iff_ne, Bool.not_eq_true',
    Bool.not_eq_false, ne_eq, Decidable.not_not, Option.isSome_eq_false_iff, Option.isNone_iff_eq_none, Bool.not_eq_true, not_exists, not_and]

variable {k : Kernel} (h : (s.ctxAt c).kernel = some k)
include h

theorem State.countBlock_of_awaited (ha : s.awaitsBlock k m kid) {n : Kernel} {w : State}
    (hn : n = { k with blocks := k.blocks ++ [(m, block)] }) (hw : w = s.onKernel c (fun _ => n)) :
    s.countBlock c m kid block = if n.gathering && w.gathered n then w.kernelFinish c else w := by
  subst hw hn
  simp only [State.countBlock, h]
  exact if_neg (State.awaitsBlock_iff.1 ha)

theorem State.countBlock_of_not_awaited (hn : ¬ s.awaitsBlock k m kid) : s.countBlock c m kid block = s := by
  simp only [State.countBlock, h]
  exact if_pos (Decidable.byContradiction (hn ∘ State.awaitsBlock_iff.2))

end

/-! ## The message that a span opens (15 R680) -/

section
variable {src : ModuleId} {uid kid : BitVec 64}

/-- A member's message that the span of a kernel opens is kept, once. -/
def State.keepSpanMsg (s : State) (uid kid : BitVec 64) : State :=
  { s with spanMsgs := if s.spanMsgs.contains (uid.toNat, kid.toNat) then s.spanMsgs else s.spanMsgs ++ [(uid.toNat, kid.toNat)] }

/-- The kernel of a context waits for the span message of its lead. -/
def State.awaitsSpan (s : State) (src : ModuleId) (uid kid : BitVec 64) (c : Nat × Context) : Bool :=
  match c.2.kernel with
  | none => false
  | some k => k.waiting == some .span && fieldAt k.desc 0 8 == kid.toNat && s.basketUid (s.ctxBasket c.1) == uid.toNat && kLead k.desc == src.toNat

theorem execSpanOpen_eq : execSpanOpen src uid kid s =
    .next ((s.contexts.find? (s.awaitsSpan src uid kid)).elim (s.keepSpanMsg uid kid) (fun c => (s.keepSpanMsg uid kid).kernelSpan c.1)) := by
  unfold execSpanOpen
  dsimp only
  split
  · next c hc => rw [show s.contexts.find? (s.awaitsSpan src uid kid) = some c from hc]; rfl
  · next hn => rw [show s.contexts.find? (s.awaitsSpan src uid kid) = none from hn]; rfl

theorem execSpanOpen_of_found {c : Nat × Context} (h : s.contexts.find? (s.awaitsSpan src uid kid) = some c) :
    execSpanOpen src uid kid s = .next ((s.keepSpanMsg uid kid).kernelSpan c.1) := by
  rw [execSpanOpen_eq, h]
  rfl

theorem execSpanOpen_of_noKernel (h : ∀ c ∈ s.contexts, c.2.kernel = none) :
    execSpanOpen src uid kid s = .next (s.keepSpanMsg uid kid) := by
  have hn : s.contexts.find? (s.awaitsSpan src uid kid) = none :=
    List.find?_eq_none.2 fun c hc => by simp [State.awaitsSpan, h c hc]
  rw [execSpanOpen_eq, hn]
  rfl

end

/-! ## The deadline of a kernel (R372) -/

theorem execWeaverWaitTimeout_of_idle (hk : (s.ctxAt ctx).kernel = none) (hs : (s.ctxAt ctx).step = none) :
    execWeaverWaitTimeout ctx s = .next s := by
  simp only [execWeaverWaitTimeout, hk, hs]

section
variable {k : Kernel} (h : (s.ctxAt ctx).kernel = some k)
include h

theorem execWeaverWaitTimeout_of_early (hd : s.pastDeadline k.since = false ∨ k.result ≠ none) : execWeaverWaitTimeout ctx s = .next s := by
  simp only [execWeaverWaitTimeout, h]
  refine if_pos ?_
  rcases hd with hd | hd
  · simp [hd]
  · simp [Option.isSome_iff_ne_none.2 hd]

variable (hd : s.pastDeadline k.since = true) (hr : k.result = none)
include hd hr

theorem execWeaverWaitTimeout_of_start (hw : k.waiting = some .ready ∨ k.waiting = some .span) :
    execWeaverWaitTimeout ctx s = .next ((s.startFault ctx 0x0E (kLead k.desc) 0).timeoutSeen ctx) := by
  simp [execWeaverWaitTimeout, h, hd, hr, hw]

theorem execWeaverWaitTimeout_of_gathering (hw : k.waiting = none) (hg : k.gathering = true) (hm : s.gathered k = false) :
    execWeaverWaitTimeout ctx s =
      .next (((s.onKernel ctx (fun k => { k with short := true })).kernelFinish ctx).timeoutSeen ctx) := by
  simp [execWeaverWaitTimeout, h, hd, hr, hw, hg, hm]

end

end

/-! ## The obligation -/

/-- Settles O44: each clause is an equation of its command; a count block is what its admitted packet says to the kernel it names. -/
theorem commandsAreTakenInOrderAndRefused : Obligations.CommandsAreTakenInOrderAndRefused := by
  intro s ctx src pkt block uid kid
  refine ⟨fun h => State.takeCmd_of_cannot (State.canTake_eq_false h), fun k u => execCmdIdle_of_refused, fun k u h => ?taken,
    execCmdIdle_of_none, fun k u => execCmdKernel_of_refused, fun k u => execCmdKernel_of_taken,
    fun h => ⟨execCmdKernel_of_begun h, fun k => execCmdKernel_of_waiting h⟩, fun k => execKernelStartResume_of_start,
    execKernelStartResume_of_kernel, execKernelStartResume_of_item, ?counts, execSpanOpen_of_noKernel, ?span,
    fun k h => ⟨execWeaverWaitTimeout_of_early h, execWeaverWaitTimeout_of_start h, execWeaverWaitTimeout_of_gathering h⟩,
    execWeaverWaitTimeout_of_idle⟩
  case taken =>
    refine ⟨_, execCmdIdle_of_taken h, ?_, rfl, rfl, rfl⟩
    rw [State.onCtx, State.ctxAt_setCtx_same]
  case counts =>
    rintro b u hadm rfl
    refine ⟨fun hn => congrArg _ (State.arriveMsg_of_not_meant hadm _ (hn.imp_right .inr)), fun hk hb => ?_⟩
    have hx : exec (.countBlock ctx pkt block) s =
        .next ((s.packetTaken pkt).countBlock ctx pkt.src.toNat pkt.ref.toNat block) :=
      congrArg _ (State.arriveMsg_of_meant hadm _ hk rfl hb)
    rw [hx]
    generalize s.packetTaken pkt = u
    refine ⟨fun h => congrArg _ (State.countBlock_of_noKernel h), fun k h => ⟨?_, fun hn => ?_⟩⟩
    · intro hkid hlead hres hshort hm hrank hblocks n w hn hw
      exact congrArg _ (State.countBlock_of_awaited h ⟨hkid, hlead, hres, hshort, hm, hrank, hblocks⟩ hn hw)
    · refine congrArg _ (State.countBlock_of_not_awaited h ?_)
      rintro ⟨hkid, hlead, hres, hshort, hm, ⟨x, hx, hxm⟩, hblocks⟩
      rcases hn with hn | hn | hn | hn | hn | hn | ⟨y, hy, hym⟩
      · exact hn hkid
      · simp [hlead] at hn
      · exact hn hres
      · simp [hshort] at hn
      · exact hm hn
      · exact hn x hx hxm
      · exact hblocks y hy hym
  case span =>
    rintro c u h rfl
    exact execSpanOpen_of_found h

end Sys2Proof.Machine

/-! How queues take and give entries (08 R336 to R347; 11 R512 to R515; 12 R569, R570): what an entry that enters or leaves does to its
queue, the entries discarded, the reads that wait, and the notify line. -/

namespace Sys2Proof.Machine

/-! ## A queue's part of the state -/

@[simp] theorem State.queueAt_setQueue_same (s : State) (q : Nat) (d : QueueData) : (s.setQueue q d).queueAt q = d := by
  rw [State.queueAt, State.setQueue, State.setAll_queues]
  exact Sparse.get_set_same _ _ _ _

theorem State.queueAt_setQueue_other (s : State) {q k : Nat} (h : k ≠ q) (d : QueueData) : (s.setQueue q d).queueAt k = s.queueAt k := by
  rw [State.queueAt, State.setQueue, State.setAll_queues]
  exact Sparse.get_set_other _ _ h _

/-- The fields that an entry's passage through a queue may write: a count of the queue, and how many entries each place holds. -/
def queueFields (f : Field) (q : Nat) : List (Field × Nat) :=
  [(f, q), (Fld.WVR_Q_STATUS_head_buf, q), (Fld.WVR_Q_STATUS_tail_buf, q), (Fld.WVR_Q_STATUS_spilled, q)]

/-- `t` differs from `s` in the entries of one queue, a count of it, and how many entries each place holds. -/
def State.onlyQueue (s t : State) (f : Field) (q : Nat) : Prop :=
  (∀ k, k ≠ q → t.queueAt k = s.queueAt k) ∧ s.fieldsBut t (queueFields f q) ∧ { t with regs := s.regs, queues := s.queues } = s

section
variable {s t : State} {f : Field} {q : Nat}

theorem State.onlyQueue_refl (s : State) (f : Field) (q : Nat) : s.onlyQueue s f q := ⟨fun _ _ => rfl, s.fieldsBut_refl _, rfl⟩

theorem State.onlyQueue_bump (h : s.onlyQueue t f q) : s.onlyQueue (t.bump f q) f q :=
  ⟨h.1, State.fieldsBut_set h.2.1 (List.mem_cons_self ..) _, h.2.2⟩

theorem State.onlyQueue_setQueue (h : s.onlyQueue t f q) (d : QueueData) : s.onlyQueue (t.setQueue q d) f q := by
  obtain ⟨hq, hf, hr⟩ := h
  refine ⟨fun k hk => (t.queueAt_setQueue_other hk d).trans (hq k hk), ?_, hr⟩
  unfold State.setQueue
  refine State.fieldsBut_setAll ?_ q _ ?_
  · exact State.fieldsBut_then hf rfl
  · simp [queueFields]

theorem State.onlyQueue_trans {u : State} (h : s.onlyQueue t f q) (g : t.onlyQueue u f q) : s.onlyQueue u f q := by
  obtain ⟨hq, hf, hr⟩ := h
  obtain ⟨gq, gf, gr⟩ := g
  refine ⟨fun k hk => (gq k hk).trans (hq k hk), State.fieldsBut_trans hf gf, ?_⟩
  rw [← hr, ← gr]

/-- A field at another place than those that an entry's passage writes reads as before. -/
theorem State.onlyQueue_get (h : s.onlyQueue t f q) {g : Field}
    (hg : ∀ w ∈ [f, Fld.WVR_Q_STATUS_head_buf, Fld.WVR_Q_STATUS_tail_buf, Fld.WVR_Q_STATUS_spilled],
      (g.reg * 32 + g.lo) % 16384 ≠ (w.reg * 32 + w.lo) % 16384) (i : Nat) : t.get g i = s.get g i := by
  refine h.2.1 g i fun w hw => Field.key_ne (hg w.1 ?_) _ _
  simpa [queueFields] using List.mem_map_of_mem (f := Prod.fst) hw

theorem State.onlyQueue_outbox (h : s.onlyQueue t f q) : t.outbox = s.outbox :=
  (congrArg State.outbox h.2.2 : ({ t with regs := s.regs, queues := s.queues } : State).outbox = s.outbox)

/-- Besides, something is sent. -/
theorem State.onlyQueue_emit (h : s.onlyQueue t f q) (x : Sent) :
    { t.emit x with regs := s.regs, queues := s.queues, outbox := s.outbox } = s := by
  have ho := State.onlyQueue_outbox h
  have hr := h.2.2
  rw [State.emit, ← ho]
  exact hr

theorem State.setQueue_get (s : State) (q : Nat) (d : QueueData) {g : Field}
    (hg : ∀ w ∈ [Fld.WVR_Q_STATUS_head_buf, Fld.WVR_Q_STATUS_tail_buf, Fld.WVR_Q_STATUS_spilled],
      (g.reg * 32 + g.lo) % 16384 ≠ (w.reg * 32 + w.lo) % 16384) (i : Nat) : (s.setQueue q d).get g i = s.get g i :=
  State.onlyQueue_get (f := Fld.WVR_Q_STATUS_head_buf) (State.onlyQueue_setQueue (s.onlyQueue_refl _ q) d) (by simpa using hg) i

/-! ## Entries move between the places of a queue (R337) -/

theorem State.queueSettle_of_tail_nil {d : QueueData} (hq : s.queueAt q = d) (ht : d.tail = []) : s.queueSettle q = s.setQueue q d := by
  simp only [State.queueSettle, hq, ht, List.length_nil, Nat.min_zero, ite_self, List.take_nil, List.drop_nil, List.append_nil]
  rw [← ht]

/-- An entry alone in the tail buffer moves to a head buffer with room. -/
theorem State.queueSettle_of_tail_one {d : QueueData} {x : List Byte} (hq : s.queueAt q = d) (ht : d.tail = [x]) (hr : d.ring = 0)
    (hl : d.head.length < 8) : s.queueSettle q = s.setQueue q { d with head := d.head ++ [x], tail := [] } := by
  have hn : min (8 - d.head.length) 1 = 1 := by omega
  simp only [State.queueSettle, hq, ht, hr, if_true, List.length_singleton, hn, List.take_succ_cons, List.take_zero, List.drop_succ_cons,
    List.drop_nil]

/-- Reads that wait stay with their queue. -/
theorem State.queueSettle_reads (s : State) (q : Nat) : ((s.queueSettle q).queueAt q).reads = (s.queueAt q).reads := by
  unfold State.queueSettle
  dsimp only
  generalize (if (s.queueAt q).ring = 0 then _ else 0) = n
  split
  · split <;> rw [State.queueAt_setQueue_same]
  · rw [State.queueAt_setQueue_same]

/-! ## The notify line (R347; 11 R515) -/

theorem State.notify_of_disabled (h : s.flag Fld.WVR_Q_CTRL_note_en q = false) : s.notify q = s := by
  simp [State.notify, h]

/-- The address of a queue's notify line. -/
def State.noteAddr (s : State) (q : Nat) : Nat := 2 ^ 6 * s.get Fld.WVR_Q_NOTE_LO_addr_lo q + 2 ^ 32 * s.get Fld.WVR_Q_NOTE_HI_addr_hi q

/-- The notify line of a queue: its counts and its number. -/
def State.noteLine (s : State) (q : Nat) : List Byte :=
  leBytes 4 (s.get Fld.WVR_Q_PROD_count q) ++ leBytes 4 (s.get Fld.WVR_Q_CONS_count q) ++ leBytes 2 q ++ List.replicate 54 0

section
variable (h : s.flag Fld.WVR_Q_CTRL_note_en q = true) {u : State}
include h

theorem State.notify_of_done (hw : s.devWrites (s.queueBasket q) (s.noteAddr q) (s.noteLine q) = (.done, u)) :
    s.notify q = u.noteSent q := by
  simp only [State.noteAddr, State.noteLine] at hw
  simp only [State.notify, h, Bool.not_true, Bool.false_eq_true, if_false, hw]

theorem State.notify_of_dropped (hw : s.devWrites (s.queueBasket q) (s.noteAddr q) (s.noteLine q) = (.dropped, u)) :
    s.notify q = u := by
  simp only [State.noteAddr, State.noteLine] at hw
  simp only [State.notify, h, Bool.not_true, Bool.false_eq_true, if_false, hw]

theorem State.notify_of_later (hw : s.devWrites (s.queueBasket q) (s.noteAddr q) (s.noteLine q) = (.later, u)) :
    s.notify q = u.setQueue q { u.queueAt q with notes := (u.queueAt q).notes ++ [(u.queueBasket q, s.noteAddr q)] } := by
  simp only [State.noteAddr, State.noteLine] at hw
  simp only [State.notify, h, Bool.not_true, Bool.false_eq_true, if_false, hw, State.noteAddr]

end

/-! ## An entry enters, and the oldest leaves -/

theorem State.ite_notify_of_disabled (h : s.flag Fld.WVR_Q_CTRL_note_en q = false) (b : Bool) : (if b then s.notify q else s) = s := by
  rw [State.notify_of_disabled h, ite_self]

/-- An entry has entered the head buffer by way of the tail buffer. -/
def State.entryIn (s : State) (q : Nat) (x : List Byte) : State :=
  ((s.bump Fld.WVR_Q_PROD_count q).setQueue q { s.queueAt q with tail := [x] }).setQueue q
    { s.queueAt q with head := (s.queueAt q).head ++ [x], tail := [] }

theorem State.entryIn_onlyQueue (s : State) (q : Nat) (x : List Byte) : s.onlyQueue (s.entryIn q x) Fld.WVR_Q_PROD_count q :=
  State.onlyQueue_setQueue (State.onlyQueue_setQueue (State.onlyQueue_bump (s.onlyQueue_refl _ q)) _) _

/-- With no notify line and nothing spilled an entry that enters is the youngest in the head buffer. -/
theorem State.pushEntry_eq_entryIn (x : List Byte) (hn : s.flag Fld.WVR_Q_CTRL_note_en q = false) (hr : (s.queueAt q).ring = 0)
    (ht : (s.queueAt q).tail = []) (hl : (s.queueAt q).head.length < 8) : s.pushEntry q x = s.entryIn q x := by
  have hquiet : (s.entryIn q x).flag Fld.WVR_Q_CTRL_note_en q = false := by
    rw [State.flag, State.onlyQueue_get (s.entryIn_onlyQueue q x) (by decide)]
    exact hn
  have hin : ((s.bump Fld.WVR_Q_PROD_count q).setQueue q { s.queueAt q with tail := [x] }).queueSettle q = s.entryIn q x :=
    State.queueSettle_of_tail_one (d := { s.queueAt q with tail := [x] }) (State.queueAt_setQueue_same ..) rfl hr hl
  unfold State.pushEntry
  dsimp only
  rw [show (s.bump Fld.WVR_Q_PROD_count q).queueAt q = s.queueAt q from rfl, ht, List.nil_append, hin]
  exact State.ite_notify_of_disabled hquiet _

theorem State.entryIn_queueAt (x : List Byte) (ht : (s.queueAt q).tail = []) :
    (s.entryIn q x).queueAt q = { s.queueAt q with head := (s.queueAt q).head ++ [x] } := by
  rw [State.entryIn, State.queueAt_setQueue_same, ← ht]

theorem State.entryIn_count (s : State) (q : Nat) (x : List Byte) :
    (s.entryIn q x).get Fld.WVR_Q_PROD_count q = (s.get Fld.WVR_Q_PROD_count q + 1) % 2 ^ 32 := by
  rw [State.entryIn, State.setQueue_get _ _ _ (by decide), State.setQueue_get _ _ _ (by decide)]
  exact s.get_set_same _ _ _

/-- The oldest entry has left the head buffer, and `rest` stays there. -/
def State.entryOut (s : State) (q : Nat) (rest : List (List Byte)) : State :=
  ((s.setQueue q { s.queueAt q with head := rest }).bump Fld.WVR_Q_CONS_count q).setQueue q { s.queueAt q with head := rest }

section
variable (s : State) (q : Nat) (rest : List (List Byte))

theorem State.entryOut_onlyQueue : s.onlyQueue (s.entryOut q rest) Fld.WVR_Q_CONS_count q :=
  State.onlyQueue_setQueue (State.onlyQueue_bump (State.onlyQueue_setQueue (s.onlyQueue_refl _ q) _)) _

theorem State.entryOut_queueAt : (s.entryOut q rest).queueAt q = { s.queueAt q with head := rest } := State.queueAt_setQueue_same ..

theorem State.entryOut_count : (s.entryOut q rest).get Fld.WVR_Q_CONS_count q = (s.get Fld.WVR_Q_CONS_count q + 1) % 2 ^ 32 := by
  rw [State.entryOut, State.setQueue_get _ _ _ (by decide),
    ← s.setQueue_get q { s.queueAt q with head := rest } (g := Fld.WVR_Q_CONS_count) (by decide)]
  exact State.get_set_same ..

end

/-- With no notify line and nothing in the tail buffer the oldest entry leaves the head buffer. -/
theorem State.popEntry_eq_entryOut {x : List Byte} {rest : List (List Byte)} (hn : s.flag Fld.WVR_Q_CTRL_note_en q = false)
    (hh : (s.queueAt q).head = x :: rest) (ht : (s.queueAt q).tail = []) : s.popEntry q = some (x, s.entryOut q rest) := by
  have hquiet : (s.entryOut q rest).flag Fld.WVR_Q_CTRL_note_en q = false := by
    rw [State.flag, State.onlyQueue_get (s.entryOut_onlyQueue q rest) (by decide)]
    exact hn
  have hout : ((s.setQueue q { s.queueAt q with head := rest }).bump Fld.WVR_Q_CONS_count q).queueSettle q = s.entryOut q rest :=
    State.queueSettle_of_tail_nil (s.queueAt_setQueue_same q _) ht
  simp only [State.popEntry, hh]
  rw [hout, State.ite_notify_of_disabled hquiet]

/-! ## Reads that wait (R345, log entry 171) -/

theorem State.serveReads_of_none (h : (s.queueAt q).reads = []) (n : Nat) : s.serveReads q n = s := by
  cases n with
  | zero => rfl
  | succ n => simp only [State.serveReads, h]

/-- One read waits: it is answered with the oldest entry. -/
theorem State.serveReads_quiet {p : Nat} {x : List Byte} {rest : List (List Byte)} (n : Nat) (hr : (s.queueAt q).reads = [p])
    (hn : s.flag Fld.WVR_Q_CTRL_note_en q = false) (hh : (s.queueAt q).head = x :: rest) (ht : (s.queueAt q).tail = []) :
    ∃ u, s.serveReads q (n + 1) = u.emit (.bytes p x) ∧ u.queueAt q = { s.queueAt q with head := rest, reads := [] } ∧
      u.get Fld.WVR_Q_CONS_count q = (s.get Fld.WVR_Q_CONS_count q + 1) % 2 ^ 32 ∧ s.onlyQueue u Fld.WVR_Q_CONS_count q := by
  refine ⟨(s.entryOut q rest).setQueue q { s.queueAt q with head := rest, reads := [] }, ?_, State.queueAt_setQueue_same .., ?_,
    State.onlyQueue_setQueue (s.entryOut_onlyQueue q rest) _⟩
  · simp only [State.serveReads, hr, State.popEntry_eq_entryOut hn hh ht, State.entryOut_queueAt]
    exact State.serveReads_of_none (congrArg QueueData.reads (State.queueAt_setQueue_same ..)) n
  · rw [State.setQueue_get _ _ _ (by decide), State.entryOut_count]

/-- A read waits its turn at a queue. -/
def State.readWaits (s : State) (q p : Nat) : State := s.setQueue q { s.queueAt q with reads := (s.queueAt q).reads ++ [p] }

theorem State.readWaits_queueAt (s : State) (q p : Nat) :
    (s.readWaits q p).queueAt q = { s.queueAt q with reads := (s.queueAt q).reads ++ [p] } := State.queueAt_setQueue_same ..

/-- A read that none waits before is answered at once with the oldest entry. -/
theorem State.serveReads_of_read {x : List Byte} {rest : List (List Byte)} (p : Nat) (hr : (s.queueAt q).reads = [])
    (hn : s.flag Fld.WVR_Q_CTRL_note_en q = false) (hh : (s.queueAt q).head = x :: rest) (ht : (s.queueAt q).tail = []) :
    ∃ u, (s.readWaits q p).serveReads q 1 = u.emit (.bytes p x) ∧
      u.queueAt q = { s.queueAt q with head := rest } ∧ u.get Fld.WVR_Q_CONS_count q = (s.get Fld.WVR_Q_CONS_count q + 1) % 2 ^ 32 ∧
      s.onlyQueue u Fld.WVR_Q_CONS_count q := by
  have hw := s.readWaits_queueAt q p
  obtain ⟨u, hu, hq, hc, ho⟩ := State.serveReads_quiet (s := s.readWaits q p) (q := q) (p := p) (x := x) (rest := rest) 0
    (by rw [hw, hr]; rfl) (by rw [State.flag, State.readWaits, s.setQueue_get _ _ (by decide)]; exact hn) (by rw [hw, hh]) (by rw [hw, ht])
  refine ⟨u, hu, ?_, ?_, State.onlyQueue_trans (State.onlyQueue_setQueue (s.onlyQueue_refl _ q) _) ho⟩
  · rw [hq, hw, ← hr]
  · rw [hc, State.readWaits, s.setQueue_get _ _ (by decide)]

/-! ## The ring (R337) -/

theorem State.fillQueue_of_held (h : (s.queueAt q).ring = 0 ∨ 8 ≤ (s.queueAt q).head.length) : s.fillQueue q = s := if_pos h

/-- The reading of the oldest entry in a queue's ring. -/
def State.ringRead (s : State) (q : Nat) : DevRead × State :=
  s.devRead (s.queueBasket q) (s.ctxAt (s.get Fld.WVR_Q_CFG_context q)).fetched
    (s.ringSlot q (s.get Fld.WVR_Q_CONS_count q + (s.queueAt q).head.length)) 64 0 (s.get Fld.WVR_Q_CFG_context q)

/-- A queue whose oldest entry in the ring has come to the head buffer. -/
def State.unspilled (s : State) (q : Nat) (bs : List Byte) : QueueData :=
  { s.queueAt q with head := (s.queueAt q).head ++ [bs], ring := (s.queueAt q).ring - 1 }

section
variable (hr : (s.queueAt q).ring ≠ 0) (hl : (s.queueAt q).head.length < 8) {x : DevRead} {u : State}
include hr hl

/-- The oldest entry in the ring comes to the head buffer. -/
theorem State.fillQueue_of_read {bs : List Byte} (h : s.ringRead q = (.ok bs, u)) :
    s.fillQueue q = ((u.setQueue q (s.unspilled q bs)).queueSettle q).serveReads q 8 := by
  have hn : ¬ ((s.queueAt q).ring = 0 ∨ 8 ≤ (s.queueAt q).head.length) := by omega
  rw [State.ringRead] at h
  simp only [State.fillQueue, if_neg hn, h, State.unspilled]

/-- Where one read waits and the buffers are empty, the entry that comes from the ring answers it. -/
theorem State.fillQueue_quiet {p : Nat} {bs : List Byte} (hp : (s.queueAt q).reads = [p]) (hh : (s.queueAt q).head = [])
    (ht : (s.queueAt q).tail = []) (hn : u.flag Fld.WVR_Q_CTRL_note_en q = false) (h : s.ringRead q = (.ok bs, u)) :
    ∃ v : State, s.fillQueue q = v.emit (.bytes p bs) ∧ v.queueAt q = { s.queueAt q with ring := (s.queueAt q).ring - 1, reads := [] } ∧
      v.get Fld.WVR_Q_CONS_count q = (u.get Fld.WVR_Q_CONS_count q + 1) % 2 ^ 32 ∧ v.outbox = u.outbox := by
  have hset : (u.setQueue q (s.unspilled q bs)).queueSettle q = (u.setQueue q (s.unspilled q bs)).setQueue q (s.unspilled q bs) :=
    State.queueSettle_of_tail_nil (u.queueAt_setQueue_same q _) ht
  rw [State.fillQueue_of_read hr hl h, hset]
  generalize hf : (u.setQueue q (s.unspilled q bs)).setQueue q (s.unspilled q bs) = f
  have hd : f.queueAt q = s.unspilled q bs := hf ▸ State.queueAt_setQueue_same ..
  have ho : u.onlyQueue f Fld.WVR_Q_CONS_count q := hf ▸ State.onlyQueue_setQueue (State.onlyQueue_setQueue (u.onlyQueue_refl _ q) _) _
  have hget : ∀ {g : Field}, (∀ w ∈ [Fld.WVR_Q_STATUS_head_buf, Fld.WVR_Q_STATUS_tail_buf, Fld.WVR_Q_STATUS_spilled],
      (g.reg * 32 + g.lo) % 16384 ≠ (w.reg * 32 + w.lo) % 16384) → f.get g q = u.get g q := fun hg =>
    hf ▸ (State.setQueue_get _ _ _ hg q).trans (State.setQueue_get _ _ _ hg q)
  obtain ⟨v, hv, hq, hc, hov⟩ := State.serveReads_quiet (s := f) (q := q) (p := p) (x := bs) (rest := []) 7
    (by rw [hd]; exact hp) (by rw [State.flag, hget (by decide)]; exact hn) (by rw [hd, State.unspilled, hh]; rfl) (by rw [hd]; exact ht)
  refine ⟨v, hv, ?_, by rw [hc, hget (by decide)], (State.onlyQueue_outbox hov).trans (State.onlyQueue_outbox ho)⟩
  rw [hq, hd, ← hh]
  rfl

theorem State.fillQueue_of_unread (h : s.ringRead q = (x, u)) (hx : ∀ bs, x ≠ .ok bs) : s.fillQueue q = u := by
  have hn : ¬ ((s.queueAt q).ring = 0 ∨ 8 ≤ (s.queueAt q).head.length) := by omega
  rw [State.ringRead] at h
  simp only [State.fillQueue, if_neg hn, h]

end

end

/-! ## Entries discarded (R340 to R342) -/

/-- The fields that tell why an entry was discarded. -/
def dropReasons : List Field := [Fld.WVR_Q_STATUS_partial, Fld.WVR_Q_STATUS_closed_drop, Fld.WVR_Q_STATUS_overrun]

theorem one_mod_dropReasons : ∀ f ∈ dropReasons, 1 % 2 ^ f.width = 1 := by decide

theorem dropReasons_apart : ∀ f ∈ dropReasons, ∀ w ∈ [Fld.WVR_Q_DROP_COUNT_count, Fld.WVR_Q_STATUS_drop_wrap],
    (f.reg * 32 + f.lo) % 16384 ≠ (w.reg * 32 + w.lo) % 16384 := by decide

theorem State.dropEntry_get_reason (s : State) (q : Nat) {why : Field} (h : why ∈ dropReasons) : (s.dropEntry q why).get why q = 1 := by
  have hc := State.copiesBut_count ((s.set why q 1).copiesBut_refl [Fld.WVR_Q_DROP_COUNT_count, Fld.WVR_Q_STATUS_drop_wrap])
    (List.mem_cons_self ..) (List.mem_cons_of_mem _ (List.mem_singleton_self _)) q q 0 1
  exact (State.copiesBut_get hc (dropReasons_apart why h) q).trans ((s.get_set_same why q 1).trans (one_mod_dropReasons why h))

theorem State.dropEntry_get_count (s : State) (q : Nat) {why : Field} (h : why ∈ dropReasons) :
    (s.dropEntry q why).get Fld.WVR_Q_DROP_COUNT_count q =
      (s.get Fld.WVR_Q_DROP_COUNT_count q + 1) % 2 ^ Fld.WVR_Q_DROP_COUNT_count.width := by
  have hw := (dropReasons_apart why h _ (List.mem_cons_self ..)).symm
  exact ((s.set why q 1).get_count_same (Field.key_ne (by decide) q q) 0 1).trans (by rw [State.get_set_field s hw])

theorem State.dropEntry_onlyFields (s : State) (q : Nat) (why : Field) :
    s.onlyFields (s.dropEntry q why) [(why, q), (Fld.WVR_Q_DROP_COUNT_count, q), (Fld.WVR_Q_STATUS_drop_wrap, q)] :=
  State.onlyFields_count (State.onlyFields_set (s.onlyFields_refl _) (by simp) 1) (by simp) (by simp) 0 1

/-! ## The commands of a queue's owner (R340 to R345) -/

section
variable {s : State} {p : Fin 32} {q : Fin 1024} {off : BitVec 12} {bytes : List Byte} {ide : Bool} {len : Nat}

theorem execQueue_of_notHere (h : s.halted = true ∨ s.asleep p = true) :
    execSubmissionWrite p q off bytes ide s = .next s ∧ execCompletionPop p q off len s = .next s := by
  have hc : (s.halted || s.asleep p) = true := by simpa using h
  exact ⟨if_pos hc, if_pos hc⟩

/-- A function owns a queue of a kind, bound, whose interface runs where it is a lid partition's. -/
def State.ownsQueue (s : State) (p q : Nat) (kind : Bool) : Prop :=
  s.flag Fld.WVR_Q_CFG_valid q = true ∧ s.flag Fld.WVR_Q_CFG_kind q = kind ∧ s.queueOwner q = some p ∧
    (s.underLid p = true → s.get Fld.LID_PART_tdisp p = 2)

variable (hh : s.halted = false) (ha : s.asleep p = false)
include hh ha

theorem execSubmissionWrite_of_plain (hl : s.underLid p = true) :
    execSubmissionWrite p q off bytes false s = .next (s.tdispError p) := by
  simp [execSubmissionWrite, hh, ha, hl]

theorem execSubmissionWrite_of_other (hi : s.underLid p = true → ide = true)
    (hn : s.flag Fld.WVR_Q_CFG_valid q = false ∨ s.flag Fld.WVR_Q_CFG_kind q = true ∨ s.queueOwner q ≠ some p.val ∨
      (s.underLid p = true ∧ s.get Fld.LID_PART_tdisp p ≠ 2)) : execSubmissionWrite p q off bytes ide s = .next s := by
  have hp : ¬ (s.underLid p && !ide) = true := by simpa using hi
  have hc : (!s.flag Fld.WVR_Q_CFG_valid q || s.flag Fld.WVR_Q_CFG_kind q || s.queueOwner q != some p.val ||
      (s.underLid p && s.get Fld.LID_PART_tdisp p != 2)) = true := by simpa [or_assoc] using hn
  rw [execSubmissionWrite, if_neg (by simp [hh, ha]), if_neg hp, if_pos hc]

/-- A write by its owner to a submission queue enters it, or is discarded for the first reason that holds. -/
theorem execSubmissionWrite_of_owner (hi : s.underLid p = true → ide = true) (ho : s.ownsQueue p q false) :
    execSubmissionWrite p q off bytes ide s =
      if bytes.length ≠ 64 ∨ off.toNat % 64 ≠ 0 then .next (s.dropEntry q Fld.WVR_Q_STATUS_partial)
      else if s.flag Fld.WVR_Q_CTRL_closed q = true then .next (s.dropEntry q Fld.WVR_Q_STATUS_closed_drop)
      else if s.queueDepth q ≤ s.queueHeld q then
        .next (if s.flag Fld.WVR_Q_CTRL_overrun_event_en q = true then (s.dropEntry q Fld.WVR_Q_STATUS_overrun).report 0x30 q 0
          else s.dropEntry q Fld.WVR_Q_STATUS_overrun)
      else .next (s.pushEntry q bytes) := by
  obtain ⟨hv, hk, hq, ht⟩ := ho
  have hp : ¬ (s.underLid p && !ide) = true := by simpa using hi
  have hc : ¬ (!s.flag Fld.WVR_Q_CFG_valid q || s.flag Fld.WVR_Q_CFG_kind q || s.queueOwner q != some p.val ||
      (s.underLid p && s.get Fld.LID_PART_tdisp p != 2)) = true := by simpa [hv, hk, hq] using ht
  have hen : (s.dropEntry q Fld.WVR_Q_STATUS_overrun).flag Fld.WVR_Q_CTRL_overrun_event_en q =
      s.flag Fld.WVR_Q_CTRL_overrun_event_en q := by
    rw [State.flag, (s.dropEntry_onlyFields q _).1 _ _ (by
      simp only [List.forall_mem_cons]
      exact ⟨Field.key_ne (by decide) _ _, Field.key_ne (by decide) _ _, Field.key_ne (by decide) _ _, fun _ h => nomatch h⟩), State.flag]
  rw [execSubmissionWrite, if_neg (by simp [hh, ha]), if_neg hp, if_neg hc]
  dsimp only
  rw [hen]

theorem execCompletionPop_of_other
    (hn : s.flag Fld.WVR_Q_CFG_valid q = false ∨ s.flag Fld.WVR_Q_CFG_kind q = false ∨ s.queueOwner q ≠ some p.val ∨
      (s.underLid p = true ∧ s.get Fld.LID_PART_tdisp p ≠ 2) ∨ len ≠ 64 ∨ off.toNat % 64 ≠ 0) :
    execCompletionPop p q off len s = .next (s.emit (.bytes p (List.replicate len 0))) := by
  rw [execCompletionPop, if_neg (by simp [hh, ha]), if_pos (by simpa [or_assoc] using hn)]

/-- A read by its owner of a completion queue with items waits its turn. -/
theorem execCompletionPop_of_owner (ho : s.ownsQueue p q true) (hoff : off.toNat % 64 = 0) : execCompletionPop p q off 64 s =
    if (s.queueAt q).head = [] ∧ (s.queueAt q).ring = 0 then .next (s.emit (.bytes p (List.replicate 64 0)))
    else .next (if (s.queueAt q).head = [] then (s.readWaits q p).fillQueue q else (s.readWaits q p).serveReads q 1) := by
  obtain ⟨hv, hk, hq, ht⟩ := ho
  have hc : ¬ (!s.flag Fld.WVR_Q_CFG_valid q || !s.flag Fld.WVR_Q_CFG_kind q || s.queueOwner q != some p.val ||
      (s.underLid p && s.get Fld.LID_PART_tdisp p != 2) || 64 != 64 || off.toNat % 64 != 0) = true := by
    simpa [hv, hk, hq, hoff] using ht
  rw [execCompletionPop, if_neg (by simp [hh, ha]), if_neg hc]
  dsimp only
  rw [State.queueAt_setQueue_same]
  rfl

end

/-! ## Completion items (R344, R349) -/

section
variable {s : State} {ctx : Fin 2048}

theorem execCompletionPost_of_none (h : s.halted = true ∨ (s.ctxAt ctx).item = none) : execCompletionPost ctx s = .next s := by
  rcases h with h | h <;> simp [execCompletionPost, h]

variable {x : List Byte} (hh : s.halted = false) (hi : (s.ctxAt ctx).item = some x)
include hh hi

theorem execCompletionPost_of_queue {k : Nat} (hk : s.ctxQueue ctx 1 = some k) :
    execCompletionPost ctx s = if s.queueHeld k < s.queueDepth k then .next ((s.pushEntry k x).cmdOver ctx) else .next s := by
  simp [execCompletionPost, hh, hi, hk]

theorem execCompletionPost_of_noQueue (hk : s.ctxQueue ctx 1 = none) : execCompletionPost ctx s = .next (s.cmdOver ctx) := by
  simp [execCompletionPost, hh, hi, hk]

end

/-! ## The obligation -/

/-- Settles O43: each command through the equation of its cases, and an entry that enters or leaves through what its passage does to its
queue and to nothing else. -/
theorem queuesTakeAndGiveEntries : Obligations.QueuesTakeAndGiveEntries := by
  intro s p q off bytes ide len ctx
  refine ⟨execQueue_of_notHere, fun h => ⟨congrArg _ (if_pos h), execCompletionPost_of_none (.inl h)⟩,
    fun hh ha => execSubmissionWrite_of_plain hh ha,
    fun hh ha hi => ⟨execSubmissionWrite_of_other hh ha hi, fun hv hk hq ht => ?write⟩, fun hh ha => execCompletionPop_of_other hh ha,
    fun hh ha hv hk hq ht hoff => ?pop, fun hh x k hi hk => ?post, fun hh hi hk => ?postNone,
    fun hi => execCompletionPost_of_none (.inr hi), fun h => ?held, fun bs u hr hl hd w hw => ?fill, State.notify_of_disabled,
    fun h va line hva hline => ?notify⟩
  case write =>
    have hx := execSubmissionWrite_of_owner (off := off) (bytes := bytes) hh ha hi ⟨hv, hk, hq, ht⟩
    refine ⟨fun why hwhy => ?dropped, fun hb ho hc hd => ?entered⟩
    case dropped =>
      have hdrop : why ∈ dropReasons ∧ execSubmissionWrite p q off bytes ide s = .next (s.dropEntry q why) := by
        rw [hx]
        rcases hwhy with ⟨hbad, rfl⟩ | ⟨hb, ho, hc, rfl⟩ | ⟨hb, ho, hc, hd, he, rfl⟩
        · exact ⟨by decide, if_pos hbad⟩
        · exact ⟨by decide, (if_neg (by simp [hb, ho])).trans (if_pos hc)⟩
        · refine ⟨by decide, ?_⟩
          rw [if_neg (by simp [hb, ho]), if_neg (by simp [hc]), if_pos hd, if_neg (by simp [he])]
      exact ⟨_, hdrop.2, s.dropEntry_get_reason q hdrop.1, s.dropEntry_get_count q hdrop.1, s.dropEntry_onlyFields q why⟩
    case entered =>
      rw [if_neg (by simp [hb, ho]), if_neg (by simp [hc]), if_neg (Nat.not_le.2 hd)] at hx
      refine ⟨hx, fun hn hr ht hl => ?_⟩
      obtain ⟨hother, hfields, hrest⟩ := s.entryIn_onlyQueue q bytes
      rw [State.pushEntry_eq_entryIn bytes hn hr ht hl] at hx
      exact ⟨_, hx, State.entryIn_queueAt bytes ht, hother, s.entryIn_count q bytes, hfields, hrest⟩
  case pop =>
    have hx := execCompletionPop_of_owner hh ha ⟨hv, hk, hq, ht⟩ hoff
    have hserve : (s.queueAt q).head ≠ [] → execCompletionPop p q off 64 s = .next ((s.readWaits q p).serveReads q 1) := fun hne => by
      rw [hx, if_neg (by simp [hne]), if_neg hne]
    refine ⟨fun he hr => hx.trans (if_pos ⟨he, hr⟩), fun x rest hhead hreads hn htail => ?served, ?waits⟩
    case served =>
      obtain ⟨u, hu, hqu, hcons, ho⟩ := State.serveReads_of_read p.val hreads hn hhead htail
      refine ⟨_, hserve (by simp [hhead]), ?_⟩
      rw [hu]
      exact ⟨by rw [← State.onlyQueue_outbox ho]; rfl, hqu, ho.1, hcons, ho.2.1, State.onlyQueue_emit ho _⟩
    case waits =>
      intro w hw
      have hw : w = s.readWaits q p := hw
      have hq := s.readWaits_queueAt q p
      rw [← hw] at hx hserve hq
      refine ⟨hserve, fun he hr => ?_⟩
      rw [if_neg (by simp [hr]), if_pos he] at hx
      have hhead : (w.queueAt q).head = [] := by rw [hq]; exact he
      have hring : (w.queueAt q).ring ≠ 0 := by rw [hq]; exact hr
      have hroom : (w.queueAt q).head.length < 8 := by simp [hhead]
      have hcount : w.get Fld.WVR_Q_CONS_count q = w.get Fld.WVR_Q_CONS_count q + (w.queueAt q).head.length := by simp [hhead]
      refine ⟨hx, fun x u hd => ?_⟩
      rw [hcount] at hd
      refine ⟨fun hbad => hx.trans (congrArg _ (State.fillQueue_of_unread hring hroom hd hbad)), fun bs hbs hreads htail hn => ?_⟩
      subst hbs
      obtain ⟨v, hv, hqv, hcons, hout⟩ := State.fillQueue_quiet hring hroom (p := p.val) (by rw [hq, hreads]; rfl) hhead
        (by rw [hq]; exact htail) hn hd
      refine ⟨_, hx.trans (congrArg _ hv), by rw [← hout]; rfl, ?_, hcons⟩
      show v.queueAt q = _
      rw [hqv, hq, ← hreads]
  case post =>
    have hx := execCompletionPost_of_queue hh hi hk
    exact ⟨fun hlt => hx.trans (if_pos hlt), fun hle => hx.trans (if_neg (Nat.not_lt.2 hle))⟩
  case postNone =>
    obtain ⟨x, hx⟩ := Option.ne_none_iff_exists'.1 hi
    exact execCompletionPost_of_noQueue hh hx hk
  case held =>
    have hf : s.fillQueue q = s := State.fillQueue_of_held h
    refine ⟨?_, hf⟩
    show execQueueFill q s = .next s
    rw [execQueueFill, hf, ite_self]
  case fill =>
    subst hw
    refine ⟨fun hh => ?_, fun hreads => State.serveReads_of_none ?_ 8⟩
    · show execQueueFill q s = _
      rw [execQueueFill, if_neg (by simp [hh]), State.fillQueue_of_read hr hl hd]
      rfl
    · rw [State.queueSettle_reads, State.queueAt_setQueue_same]
      exact hreads
  case notify =>
    subst hva hline
    exact ⟨fun u => State.notify_of_done h, fun u => State.notify_of_dropped h, fun u => State.notify_of_later h⟩

end Sys2Proof.Machine

/-! How fences rise and waits for them end (08 R350, R376 to R387; 05 R248): what a signal makes of a fence and a wait of what it reads,
the update of a fence, the commands that wait and signal, wakes and polls, and the signals of a driver. -/

namespace Sys2Proof.Machine

/-! ## What a signal makes of a fence, and what a wait finds (R377, R379) -/

theorem fenceNext_fst (v st nv ns : Nat) : (fenceNext v st nv ns).1 = max v nv := rfl

theorem fenceNext_snd_of_kept {st ns : Nat} (h : st % 256 ≠ 0 ∨ ns % 256 = 0) (v nv : Nat) : (fenceNext v st nv ns).2 = st :=
  if_neg fun ⟨hst, hns⟩ => h.elim (· hst) hns

theorem fenceNext_snd_of_failed {st ns : Nat} (hst : st % 256 = 0) (hns : ns % 256 ≠ 0) (v nv : Nat) : (fenceNext v st nv ns).2 = ns :=
  if_pos ⟨hst, hns⟩

/-- After a signal that fails a fence has a failure. -/
theorem fenceNext_code_ne {st ns : Nat} (hns : ns % 256 ≠ 0) (v nv : Nat) : fenceCode (fenceNext v st nv ns).2 ≠ 0 := by
  by_cases hst : st % 256 = 0
  · rwa [fenceNext_snd_of_failed hst hns]
  · rwa [fenceNext_snd_of_kept (.inl hst)]

theorem fenceWaited_eq_error_iff (target v st : Nat) : fenceWaited target v st = .error ↔ st % 256 ≠ 0 := by
  unfold fenceWaited
  split
  · next h => exact ⟨fun _ => h, fun _ => rfl⟩
  · next h => exact ⟨fun hw => by split at hw <;> simp at hw, fun hst => absurd hst h⟩

theorem fenceWaited_eq_satisfied_iff (target v st : Nat) : fenceWaited target v st = .satisfied ↔ st % 256 = 0 ∧ target ≤ v := by
  unfold fenceWaited
  split
  · next h => exact ⟨fun hw => by simp at hw, fun hst => absurd hst.1 h⟩
  · next h =>
    refine ⟨fun hw => ⟨Decidable.not_not.1 h, Decidable.byContradiction fun hlt => ?_⟩, fun hst => if_pos hst.2⟩
    rw [if_neg hlt] at hw
    cases hw

section
variable {s : State}

/-! ## Updates (R376 to R378, R384) -/

/-- A fence that this module's memory side accesses itself. -/
def FencePlace.inReach : FencePlace → Bool
  | .here _ => true
  | .t4 _ _ => true
  | .spill _ => true
  | _ => false

theorem State.fenceSignal_of_quiet {b va nv ns x st : Nat} {p : FencePlace} (h : s.fenceGet b va p = some (x, st))
    (hq : ns % 256 ≠ 0 ∨ max x nv < 2 ^ 64 - 1) {n : Nat × Nat} (hn : n = Machine.fenceNext x st nv ns) :
    s.fenceSignal b va p nv ns = (s.fencePut b va p n.1 n.2).wakeWatches b va n.1 n.2 := by
  subst hn
  simp only [State.fenceSignal, h]
  refine if_neg ?_
  rintro ⟨-, hterm, hcode⟩
  rcases hq with hq | hq
  · exact fenceNext_code_ne hq x nv hcode
  · rw [fenceNext_fst] at hterm
    exact Nat.ne_of_lt hq hterm

section
variable {f : FenceUpdate} {u : State}

theorem State.fenceUpdate_of_found {p : FencePlace} (hp : p.inReach = true) (h : s.fenceFind f.basket f.va 0 = (p, u)) :
    s.fenceUpdate f = if (u.fenceGet f.basket f.va p).isNone = true then u.fencePoison f.basket f.va p
      else u.fenceSignal f.basket f.va p f.value f.status := by
  cases p with
  | here phys => simp only [State.fenceUpdate, h]
  | t4 port addr => simp only [State.fenceUpdate, h]
  | spill i => simp only [State.fenceUpdate, h]
  | away m => simp [FencePlace.inReach] at hp
  | wait id => simp [FencePlace.inReach] at hp
  | fault c i => simp [FencePlace.inReach] at hp

theorem State.fenceUpdate_of_fault {c i : Nat} (h : s.fenceFind f.basket f.va 0 = (.fault c i, u)) : s.fenceUpdate f = u := by
  simp only [State.fenceUpdate, h]

theorem State.fenceUpdate_of_away {m : Nat} (h : s.fenceFind f.basket f.va 0 = (.away m, u)) :
    s.fenceUpdate f = (u.asks f.basket deviceWord 3 m f.va).sendAtomic f.basket m 0 f.va deviceWord f.value f.status := by
  simp only [State.fenceUpdate, h]

theorem State.fenceUpdate_of_wait {m : Nat} (h : s.fenceFind f.basket f.va 0 = (.wait m, u)) :
    s.fenceUpdate f = { u with updates := u.updates ++ [.update f] } := by
  simp only [State.fenceUpdate, h]

end

theorem execFenceUpdate_of_bound {b : Fin 64} {va : VAddr} (value status : BitVec 64) (hb : s.get Fld.CAP_BASKET_state b ≠ 0)
    (hva : va.toNat % 16 = 0) (hh : s.halted = false) : execFenceUpdate b va value status s =
      .next (s.fenceUpdate { basket := b, va := va.toNat, value := value.toNat, status := status.toNat }) :=
  if_neg (by simp [hb, hva, hh])

/-! ## The commands of a context (R350, R381) -/

section
variable {ctx : Fin 2048} {k : Cmd}

theorem execCmdFenceWait_of_refused {u : State} (h : s.takeCmd ctx (· == 3) = some (k, true, u)) :
    execCmdFenceWait ctx s = .next (u.finishCmd ctx 2 1 0) := by
  simp only [execCmdFenceWait, h]

theorem execCmdFenceWait_of_taken {u : State} (h : s.takeCmd ctx (· == 3) = some (k, false, u)) :
    execCmdFenceWait ctx s = .next (u.cmdWait ctx k) := by
  simp only [execCmdFenceWait, h]

theorem execCmdFenceSignal_of_refused {u : State} (h : s.takeCmd ctx (· == 4) = some (k, true, u)) :
    execCmdFenceSignal ctx s = .next (u.finishCmd ctx 2 1 0) := by
  simp only [execCmdFenceSignal, h]

theorem execCmdFenceSignal_of_taken {u : State} (h : s.takeCmd ctx (· == 4) = some (k, false, u)) :
    execCmdFenceSignal ctx s = .next (u.cmdSignal ctx k) := by
  simp only [execCmdFenceSignal, h]

theorem execCmdFence_of_noCmd (hc : (s.ctxAt ctx).cmd = none) (hw : s.takeCmd ctx (· == 3) = none) (hs : s.takeCmd ctx (· == 4) = none) :
    execCmdFenceWait ctx s = .next s ∧ execCmdFenceSignal ctx s = .next s ∧ execCmdFenceTimeout ctx s = .next s := by
  simp only [execCmdFenceWait, execCmdFenceSignal, execCmdFenceTimeout, hc, hw, hs, and_self]

variable (hc : (s.ctxAt ctx).cmd = some k)
include hc

/-- The command waits, as long as it has no watch. -/
theorem execCmdFenceWait_of_cmd (hw : s.takeCmd ctx (· == 3) = none) : execCmdFenceWait ctx s =
    if s.cmdIs ctx 3 = true ∧ ∀ x ∈ s.watches, x.waiter ≠ .command ctx then .next (s.cmdWait ctx k) else .next s := by
  simp only [execCmdFenceWait, hw, hc]
  exact ite_congr (by simp) (fun _ => rfl) (fun _ => rfl)

/-- The command signals, as long as its signal is not out. -/
theorem execCmdFenceSignal_of_cmd (hs : s.takeCmd ctx (· == 4) = none) : execCmdFenceSignal ctx s =
    if s.cmdIs ctx 4 = true ∧ s.isSent ctx k.addr = false then .next (s.cmdSignal ctx k) else .next s := by
  simp only [execCmdFenceSignal, hs, hc]
  exact ite_congr (by simp) (fun _ => rfl) (fun _ => rfl)

theorem execCmdFenceTimeout_of_cmd : execCmdFenceTimeout ctx s =
    if s.cmdIs ctx 3 = true ∧ k.timeout ≠ 0 ∧ k.time + k.timeout ≤ s.time then .next ((s.unwatch (.command ctx)).finishCmd ctx 1 0x11 0)
    else .next s := by
  simp only [execCmdFenceTimeout, hc]
  exact ite_congr (by simp [and_assoc]) (fun _ => rfl) (fun _ => rfl)

end

/-! ## Wakes (R384) -/

section
variable {r : RespMsg}

/-- What the wake of a watch says of its fence. -/
def wakeFound (r : RespMsg) : FenceRead := if r.status = 0 then .is .satisfied else .is .error

theorem execFenceWake_of_otherKind (h : r.kind ≠ 5) : execFenceWake r s = .next s := if_pos h

variable (hk : r.kind = 5)
include hk

theorem execFenceWake_of_op {core slot : Nat} {o : OpRec} (h : s.respOp r = some (core, slot, o))
    (hf : (s.fenceOp core slot r.entry.toNat).isSome = true) : execFenceWake r s =
      .next (s.fenceFound (.entry (Fin.ofNat 256 core) (Fin.ofNat 8 slot) (Fin.ofNat 64 r.entry.toNat)) (wakeFound r)) := by
  unfold execFenceWake
  dsimp only
  rw [if_neg (not_not_intro hk), h, Option.bind_some, if_pos hf]
  rfl

/-- A wake of no operation is for the command of a context that waits, or else for a kernel start that does. -/
theorem execFenceWake_of_noOp (h : s.respOp r = none) : execFenceWake r s =
    if respOfCommand r = true ∧ s.cmdIs r.ctx.toNat 3 = true then
      .next (s.fenceFound (.command (Fin.ofNat 2048 r.ctx.toNat)) (wakeFound r))
    else if respOfCommand r = true ∧ s.kernelWaits r.ctx.toNat .fence = true then
      .next (s.fenceFound (.kernelStart (Fin.ofNat 2048 r.ctx.toNat)) (wakeFound r))
    else .next s.stale := by
  have hctx : (Fin.ofNat 2048 r.ctx.toNat).val = r.ctx.toNat := Nat.mod_eq_of_lt r.ctx.isLt
  unfold execFenceWake
  dsimp only
  rw [if_neg (not_not_intro hk), h, hctx]
  exact ite_congr (by simp) (fun _ => rfl) (fun _ => ite_congr (by simp) (fun _ => rfl) (fun _ => rfl))

end

/-! ## Polls (R385) -/

theorem execFencePoll_of_none {w : Waiter} (h : ∀ x ∈ s.watches, x.waiter = w → x.polls = false) : execFencePoll w s = .next s := by
  have hn : s.watches.find? (fun x => x.waiter == w && x.polls) = none := List.find?_eq_none.2 fun x hx => by simpa using h x hx
  simp only [execFencePoll, hn]

section
variable {w : Waiter} {x : Watch} (h : s.watches.find? (fun x => x.waiter == w && x.polls) = some x)
include h

theorem execFencePoll_of_early (ht : s.time ≤ x.polled) : execFencePoll w s = .next s := by
  simp only [execFencePoll, h]
  exact if_pos ht

theorem execFencePoll_of_due (ht : x.polled < s.time) {f : FenceRead} {u : State}
    (hp : State.pollFence { s with watches := s.watches.map (fun y => if y = x then { y with polled := s.time } else y) } x = (f, u)) :
    execFencePoll w s = .next (u.fenceFound w f) := by
  simp only [execFencePoll, h]
  rw [if_neg (Nat.not_le.2 ht), hp]

end

/-! ## Signals of a driver (R387) -/

section
variable {p : Fin 32} {v : Word32}

theorem execFenceOpGo_of_asleep (h : s.agentAsleep (.host p) = true) : execFenceOpGo p v s = .next s := congrArg _ (if_pos h)

theorem execFenceOpGo_of_awake (h : s.agentAsleep (.host p) = false) : execFenceOpGo p v s = .next (s.fenceOpGo p v) :=
  congrArg _ (if_neg (by simp [h]))

/-- The signal that a partition's copy stands for. -/
def State.fenceOpOf (u : State) (p : Nat) : FenceOp :=
  ⟨u.get Fld.WVR_FENCE_OP_CMD_basket_index p, u.fenceOpAddr p, u.get64 Fld.WVR_FENCE_OP_VAL_LO_val_lo Fld.WVR_FENCE_OP_VAL_HI_val_hi p,
    u.get Fld.WVR_FENCE_OP_CMD_code p, false⟩

/-- A signal joins those that wait their turn. -/
def State.fenceOpJoins (u : State) (p : Nat) (x : FenceOp) : State :=
  (State.set { u with fenceOps := u.fenceOps ++ [(p, x)] } Fld.WVR_FENCE_OP_CMD_busy p 1).fenceOpsRun 32

/-- A write of the command, as the copy stands once it has been written. -/
theorem State.fenceOpGo_eq {u : State} (hu : u = s.writeReg Fld.WVR_FENCE_OP_CMD_code.reg p v.toNat) : s.fenceOpGo p v =
    if s.flag Fld.WVR_FENCE_OP_CMD_busy p = true ∨ bitOf v.toNat 16 = false then u
    else if u.basketOwner (u.get Fld.WVR_FENCE_OP_CMD_basket_index p) ≠ some p.val ∨ 3 < u.get Fld.WVR_FENCE_OP_CMD_code p then
      u.set Fld.WVR_FENCE_OP_CMD_error p 1
    else u.fenceOpJoins p (u.fenceOpOf p) := by
  subst hu
  exact ite_congr (by simp) (fun _ => rfl) (fun _ => rfl)

end

section
variable {p : Nat} {x : FenceOp} {t : State} (hx : x.sent = false)
include hx

theorem State.fenceOpRun_of_done (h : s.signal x.basket x.va 0 0 (fenceOpWord p) x.value x.code = (.done, t)) :
    s.fenceOpRun p x = t.fenceOpEnd p true := by
  simp [State.fenceOpRun, hx, h]

theorem State.fenceOpRun_of_fault {c i : Nat} (h : s.signal x.basket x.va 0 0 (fenceOpWord p) x.value x.code = (.fault c i, t)) :
    s.fenceOpRun p x = t.fenceOpEnd p false := by
  simp [State.fenceOpRun, hx, h]

theorem State.fenceOpRun_of_sent {m : Nat} (h : s.signal x.basket x.va 0 0 (fenceOpWord p) x.value x.code = (.sent m, t)) :
    s.fenceOpRun p x =
      { t with fenceOps := t.fenceOps.map (fun (e : Nat × FenceOp) => (e.1, if e.1 = p then { e.2 with sent := true } else e.2)) } := by
  simp only [State.fenceOpRun, hx, Bool.false_eq_true, if_false, h]

theorem State.fenceOpRun_of_wait {m : Nat} (h : s.signal x.basket x.va 0 0 (fenceOpWord p) x.value x.code = (.wait m, t)) :
    s.fenceOpRun p x = if t.updates.contains (.driver p) then t else { t with updates := t.updates ++ [.driver p] } := by
  simp only [State.fenceOpRun, hx, Bool.false_eq_true, if_false, h]

end

/-- The field that tells how a driver's signal has ended. -/
def fenceOpResult (ok : Bool) : Field := if ok then Fld.WVR_FENCE_OP_CMD_done else Fld.WVR_FENCE_OP_CMD_error

theorem State.fenceOpEnd_eq (s : State) (p : Nat) (ok : Bool) : s.fenceOpEnd p ok =
    (State.set { s with fenceOps := s.fenceOps.filter (fun e => e.1 != p) } Fld.WVR_FENCE_OP_CMD_busy p 0).set (fenceOpResult ok) p 1 := rfl

theorem State.fenceOpEnd_busy (s : State) (p : Nat) (ok : Bool) : (s.fenceOpEnd p ok).get Fld.WVR_FENCE_OP_CMD_busy p = 0 := by
  rw [State.fenceOpEnd_eq, State.get_set_field _ (by cases ok <;> decide), State.get_set_same]
  rfl

theorem State.fenceOpEnd_result (s : State) (p : Nat) (ok : Bool) : (s.fenceOpEnd p ok).get (fenceOpResult ok) p = 1 := by
  rw [State.fenceOpEnd_eq, State.get_set_same]
  cases ok <;> rfl

theorem State.fenceOpEnd_ne (s : State) (p : Nat) (ok : Bool) : ∀ e ∈ (s.fenceOpEnd p ok).fenceOps, e.1 ≠ p := fun e he => by
  have hm : e ∈ s.fenceOps.filter (fun e => e.1 != p) := he
  simpa using (List.mem_filter.1 hm).2

end

/-! ## The obligation -/

/-- Settles O46: each command through the equations of its cases, and a fence through what a signal makes of its value and status. -/
theorem fencesRiseAndWakeWaiters : Obligations.FencesRiseAndWakeWaiters := by
  intro s ctx b va value status p v r w
  refine ⟨fun x st nv ns => ⟨fenceNext_fst x st nv ns, fun h => fenceNext_snd_of_kept h x nv, fun hst hns => fenceNext_snd_of_failed hst hns x nv,
      fenceWaited_eq_error_iff nv x st, fenceWaited_eq_satisfied_iff nv x st⟩,
    fun h => if_pos h, fun hb hva hh u => ?update,
    fun k u => ⟨execCmdFenceWait_of_refused, execCmdFenceWait_of_taken, execCmdFenceSignal_of_refused, execCmdFenceSignal_of_taken⟩,
    execCmdFence_of_noCmd, fun k hc hw hs => ?commands, fun k hc => ?timeout, execFenceWake_of_otherKind, fun hk f hf => ?wake,
    execFencePoll_of_none, fun x h => ⟨execFencePoll_of_early h, fun ht f u => execFencePoll_of_due h ht⟩, execFenceOpGo_of_asleep,
    fun h u hu => ?go,
    fun x t hx => ⟨State.fenceOpRun_of_done hx, fun c i => State.fenceOpRun_of_fault hx, fun m => State.fenceOpRun_of_sent hx,
      fun m => State.fenceOpRun_of_wait hx⟩,
    fun ok => ⟨s.fenceOpEnd_busy p ok, s.fenceOpEnd_result p ok, s.fenceOpEnd_ne p ok⟩⟩
  case update =>
    have hx : exec (.fenceUpdate b va value status) s = .next (s.fenceUpdate ⟨b, va.toNat, value.toNat, status.toNat⟩) :=
      execFenceUpdate_of_bound value status hb hva hh
    rw [hx]
    refine ⟨fun phys port addr i pl hpl hf => ?_, fun c i hf => congrArg _ (State.fenceUpdate_of_fault hf),
      fun m hf => congrArg _ (State.fenceUpdate_of_away hf), fun m hf => congrArg _ (State.fenceUpdate_of_wait hf)⟩
    have hp : pl.inReach = true := by
      simp only [List.mem_cons, List.not_mem_nil, or_false] at hpl
      rcases hpl with rfl | rfl | rfl <;> rfl
    rw [State.fenceUpdate_of_found hp hf]
    refine ⟨fun hn => ?_, fun hn => ?_, fun x st hg hq => ?_⟩
    · rw [hn]
      rfl
    · rw [if_neg (by simpa using hn)]
    · rw [hg, ← State.fenceSignal_of_quiet hg hq rfl]
      rfl
  case commands =>
    have hwait := execCmdFenceWait_of_cmd hc hw
    have hsignal := execCmdFenceSignal_of_cmd hc hs
    refine ⟨fun hi hn => hwait.trans (if_pos ⟨hi, hn⟩), fun h => hwait.trans (if_neg ?_),
      fun hi hn => hsignal.trans (if_pos ⟨hi, hn⟩), fun h => hsignal.trans (if_neg ?_)⟩
    · rintro ⟨hi, hn⟩
      rcases h with h | ⟨x, hx, hxw⟩
      · simp [hi] at h
      · exact hn x hx hxw
    · rintro ⟨hi, hn⟩
      rcases h with h | h
      · simp [hi] at h
      · simp [hn] at h
  case timeout =>
    have hx := execCmdFenceTimeout_of_cmd hc
    refine ⟨fun hi ht hle => hx.trans (if_pos ⟨hi, ht, hle⟩), fun h => hx.trans (if_neg ?_)⟩
    rintro ⟨hi, ht, hle⟩
    rcases h with h | h | h
    · simp [hi] at h
    · exact ht h
    · omega
  case wake =>
    subst hf
    refine ⟨fun core slot o => execFenceWake_of_op hk, fun h hcmd hi => ?_, fun h hcmd hi hw => ?_,
      fun h hn => ⟨_, ?_, s.stale_get, s.stale_onlyFields⟩⟩
    · exact (execFenceWake_of_noOp hk h).trans (if_pos ⟨hcmd, hi⟩)
    · exact (execFenceWake_of_noOp hk h).trans ((if_neg (by simp [hi])).trans (if_pos ⟨hcmd, hw⟩))
    · have hcmd : ¬ (respOfCommand r = true ∧ s.cmdIs r.ctx.toNat 3 = true) := by
        rintro ⟨hc, hi⟩
        rcases hn with hn | ⟨hn, -⟩
        · simp [hc] at hn
        · simp [hi] at hn
      have hstart : ¬ (respOfCommand r = true ∧ s.kernelWaits r.ctx.toNat .fence = true) := by
        rintro ⟨hc, hi⟩
        rcases hn with hn | ⟨-, hn⟩
        · simp [hc] at hn
        · simp [hi] at hn
      exact (execFenceWake_of_noOp hk h).trans ((if_neg hcmd).trans (if_neg hstart))
  case go =>
    have hx : exec (.fenceOpGo p v) s = .next (s.fenceOpGo p v) := execFenceOpGo_of_awake h
    rw [hx, State.fenceOpGo_eq hu]
    refine ⟨fun hn => congrArg _ (if_pos hn), fun hb hg => ?_⟩
    rw [if_neg (by simp [hb, hg])]
    refine ⟨fun hn => ⟨_, congrArg _ (if_pos hn), u.get_set_same _ _ _, u.set_onlyFields _ _ _⟩, ?_⟩
    rintro ho hcode _ rfl
    rw [if_neg (by simpa [ho] using hcode)]
    rfl

end Sys2Proof.Machine

/-! How contexts stop and resume (08 R353 to R360, R373, R374; 15 R678): what a sequencer's choice leaves as it was, the commands that stop
a context and let it go on, and the end of a quantum. -/

namespace Sys2Proof.Machine

/-! ## What a sequencer's choice leaves as it was -/

/-- The fields that a sequencer's choice may write: cycles charged, what waits, the running slot, and what a half that wakes shows. -/
def choiceFields : List Field :=
  [Fld.WVR_CTX_ISSUE_LO_lo, Fld.WVR_CTX_ISSUE_HI_hi, Fld.WVR_CTX_WAIT_ledger_used, Fld.WVR_CTX_WAIT_remote_slots,
   Fld.WVR_CORE_STATE_running_slot, Fld.WVR_CORE_STATE_running_valid, Fld.PW_WAKE_COUNT_count, Fld.PW_WAKE_QUEUED_count, Fld.PW_STATUS_wrap,
   Fld.PW_HALF_gated, Fld.SEAM_DIV_west_div, Fld.SEAM_DIV_east_div, Fld.SEAM_HOLD_held_w, Fld.SEAM_HOLD_held_e]

/-- `t` agrees with `s` but in registers, slots, draws, the wake tokens, the seam, the rim's run and what is sent. -/
def State.choiceRest (s t : State) : Prop :=
  { t with regs := s.regs, slots := s.slots, freeCounter := s.freeCounter, power := s.power, seam := s.seam, seamOut := s.seamOut,
           run := s.run, outbox := s.outbox } = s

/-- `t` differs from `s` in no more than a sequencer's choice may change. -/
def State.onlyChoice (s t : State) : Prop := s.copiesBut t choiceFields ∧ s.choiceRest t

section
variable {s t : State}

theorem State.onlyChoice_refl (s : State) : s.onlyChoice s := ⟨s.copiesBut_refl _, rfl⟩

theorem State.onlyChoice_set (h : s.onlyChoice t) {f : Field} (hf : f ∈ choiceFields) (i v : Nat) : s.onlyChoice (t.set f i v) :=
  ⟨State.copiesBut_set h.1 hf i v, h.2⟩

theorem State.onlyChoice_setAll (h : s.onlyChoice t) (i : Nat) (l : List (Field × Nat)) (hl : ∀ e ∈ l, e.1 ∈ choiceFields) :
    s.onlyChoice (t.setAll i l) := by
  induction l generalizing t with
  | nil => exact h
  | cons e l ih =>
    exact ih (State.onlyChoice_set h (hl e (List.mem_cons_self ..)) i e.2) (fun x hx => hl x (List.mem_cons_of_mem _ hx))

theorem State.onlyChoice_count (h : s.onlyChoice t) {f w : Field} (hf : f ∈ choiceFields) (hw : w ∈ choiceFields) (i wi k n : Nat) :
    s.onlyChoice (t.count f i w wi k n) := by
  unfold State.count
  dsimp only
  split
  · exact State.onlyChoice_set h hf _ _
  · exact State.onlyChoice_set (State.onlyChoice_set h hf _ _) hw _ _

/-- A change outside the registers. -/
theorem State.onlyChoice_rest {u : State} (h : s.onlyChoice t) (hr : u.regs = t.regs) (hu : t.choiceRest u) : s.onlyChoice u := by
  refine ⟨State.copiesBut_then h.1 hr, ?_⟩
  have ht := h.2
  unfold State.choiceRest at ht hu ⊢
  rw [← ht, ← hu]

theorem State.onlyChoice_foldl {α : Type} {f : State → α → State} (hf : ∀ t x, s.onlyChoice t → s.onlyChoice (f t x)) (l : List α)
    (h : s.onlyChoice t) : s.onlyChoice (l.foldl f t) := by
  induction l generalizing t with
  | nil => exact h
  | cons x l ih => exact ih (hf t x h)

theorem State.onlyChoice_foldl₂ {α β : Type} {f : β × State → α → β × State} (hf : ∀ p x, s.onlyChoice p.2 → s.onlyChoice (f p x).2)
    (l : List α) {p : β × State} (h : s.onlyChoice p.2) : s.onlyChoice (l.foldl f p).2 := by
  induction l generalizing p with
  | nil => exact h
  | cons x l ih => exact ih (hf p x h)

theorem State.onlyChoice_ite {p : Prop} [Decidable p] {u : State} (ht : s.onlyChoice t) (hu : s.onlyChoice u) :
    s.onlyChoice (if p then t else u) := by
  split
  · exact ht
  · exact hu

theorem State.onlyChoice_ctxAt (h : s.onlyChoice t) (c : Nat) : t.ctxAt c = s.ctxAt c := by
  rw [← h.2]
  rfl

theorem State.onlyChoice_bytesSame (h : s.onlyChoice t) : s.bytesSame t := by
  rw [← h.2]
  exact fun _ => ⟨rfl, rfl, rfl, rfl, rfl⟩

theorem State.onlyChoice_emit (h : s.onlyChoice t) (x : Sent) : s.onlyChoice (t.emit x) := State.onlyChoice_rest h rfl rfl

/-! ### A half that wakes (04 R160 to R169; 13 R609) -/

theorem divField_mem (h : Nat) : divField h ∈ choiceFields := by
  unfold divField
  split <;> decide

theorem holdField_mem (h : Nat) : holdField h ∈ choiceFields := by
  unfold holdField
  split <;> decide

variable (h : s.onlyChoice t)
include h

theorem State.onlyChoice_captured (k : Nat) (x : Nat × SeamEntry × Bool) : s.onlyChoice (t.captured k x) := by
  unfold State.captured
  dsimp only
  have hold : s.onlyChoice (if (x.2.1.head && !x.2.2) = true then
      t.set (holdField (keyHalf k)) (keyHalf k / 2) (t.get (holdField (keyHalf k)) (keyHalf k / 2) - 1) else t) :=
    State.onlyChoice_ite (State.onlyChoice_set h (holdField_mem _) _ _) h
  generalize (if (x.2.1.head && !x.2.2) = true then _ else t : State) = u at hold ⊢
  refine State.onlyChoice_emit ?_ _
  split
  · exact State.onlyChoice_rest hold rfl rfl
  · exact hold

theorem State.onlyChoice_seamChannel (e k : Nat) : s.onlyChoice (t.seamChannel e k) :=
  State.onlyChoice_ite h
    (State.onlyChoice_foldl (fun _ x hu => State.onlyChoice_captured hu k x) _ (State.onlyChoice_rest h rfl rfl))

theorem State.onlyChoice_seamTo (e : Nat) : s.onlyChoice (t.seamTo e) := by
  refine State.onlyChoice_foldl (fun _ k hu => State.onlyChoice_seamChannel hu e k) _ ?_
  exact State.onlyChoice_rest h rfl rfl

theorem State.onlyChoice_setDiv (half code : Nat) : s.onlyChoice (t.setDiv half code) :=
  State.onlyChoice_set (State.onlyChoice_seamTo h _) (divField_mem half) _ _

theorem State.onlyChoice_wakeHalf (half : Nat) : s.onlyChoice (t.wakeHalf half) :=
  State.onlyChoice_ite h
    (State.onlyChoice_rest (State.onlyChoice_setDiv (State.onlyChoice_set h (f := Fld.PW_HALF_gated) (by decide) _ _) _ _) rfl rfl)

theorem State.onlyChoice_requestWake (core : Nat) : s.onlyChoice (t.requestWake core) := by
  unfold State.requestWake State.giveToken
  have hcount := fun (f : Field) (hf : f ∈ choiceFields) (k : Nat) =>
    State.onlyChoice_count h hf (w := Fld.PW_STATUS_wrap) (by decide) 0 0 k 1
  refine State.onlyChoice_ite h (State.onlyChoice_ite (State.onlyChoice_wakeHalf ?_ _) ?_)
  · exact State.onlyChoice_rest (hcount Fld.PW_WAKE_COUNT_count (by decide) 1) rfl rfl
  · exact State.onlyChoice_rest (hcount Fld.PW_WAKE_QUEUED_count (by decide) 2) rfl rfl

/-! ### Slots, and the choice of one (R353 to R360) -/

theorem State.onlyChoice_setSlot (core k : Nat) (x : Slot) : s.onlyChoice (t.setSlot core k x) := State.onlyChoice_rest h rfl rfl

theorem State.onlyChoice_charge (core slot n : Nat) : s.onlyChoice (t.charge core slot n) :=
  State.onlyChoice_set (State.onlyChoice_set (State.onlyChoice_setSlot h _ _ _) (f := Fld.WVR_CTX_ISSUE_LO_lo) (by decide) _ _)
    (f := Fld.WVR_CTX_ISSUE_HI_hi) (by decide) _ _

theorem State.onlyChoice_accrue (core : Nat) : s.onlyChoice (t.accrue core) := by
  unfold State.accrue
  split
  · exact h
  · exact State.onlyChoice_rest (State.onlyChoice_charge h _ _ _) rfl rfl

theorem State.onlyChoice_showRunning (core : Nat) : s.onlyChoice (t.showRunning core) := by
  unfold State.showRunning
  split
  · exact h
  · split
    · exact State.onlyChoice_set h (by decide) _ _
    · exact State.onlyChoice_setAll h _ _ (by simp [choiceFields])

theorem State.onlyChoice_takeShares (core : Nat) : s.onlyChoice (t.takeShares core) :=
  State.onlyChoice_foldl (fun _ _ hu => State.onlyChoice_setSlot hu _ _ _) _ h

theorem State.onlyChoice_runSlot (core slot : Nat) : s.onlyChoice (t.runSlot core slot) :=
  State.onlyChoice_setSlot
    (State.onlyChoice_foldl (fun _ _ hu => State.onlyChoice_ite (State.onlyChoice_setSlot hu _ _ _) hu) _ h) _ _ _

theorem State.onlyChoice_choose (core : Nat) : s.onlyChoice (t.choose core) := by
  have hs := State.onlyChoice_takeShares h core
  unfold State.choose
  dsimp only
  split
  · exact State.onlyChoice_showRunning hs _
  · exact State.onlyChoice_showRunning (State.onlyChoice_runSlot hs _ _) _

theorem State.onlyChoice_settleSlot (core slot : Nat) : s.onlyChoice (t.settleSlot core slot).2 := by
  have ha := State.onlyChoice_accrue h core
  unfold State.settleSlot
  dsimp only
  split
  · exact h
  · split <;> dsimp only
    · exact State.onlyChoice_ite (State.onlyChoice_requestWake (State.onlyChoice_setSlot ha _ _ _) _) (State.onlyChoice_setSlot ha _ _ _)
    · exact State.onlyChoice_setSlot (State.onlyChoice_ite ha h) _ _ _

theorem State.onlyChoice_showWait (c : Nat) : s.onlyChoice (t.showWait c) :=
  State.onlyChoice_setAll h _ _ (by simp [choiceFields])

theorem State.onlyChoice_reschedule (core : Nat) : s.onlyChoice (t.reschedule core) := by
  unfold State.reschedule
  split
  next better u hfold =>
    have hu : s.onlyChoice (better, u).2 := by
      rw [← hfold]
      refine State.onlyChoice_foldl₂ (fun p k hp => ?_) _ h
      have hk := State.onlyChoice_settleSlot hp core k
      generalize p.2.settleSlot core k = r at hk ⊢
      exact hk
    exact State.onlyChoice_foldl (fun _ c hv => State.onlyChoice_showWait hv c) _
      (State.onlyChoice_ite (State.onlyChoice_choose hu _) (State.onlyChoice_showRunning hu _))

theorem State.onlyChoice_rescheduleCtx (c : Nat) : s.onlyChoice (t.rescheduleCtx c) := by
  unfold State.rescheduleCtx
  refine State.onlyChoice_foldl (fun u x hu => ?_) _ h
  exact State.onlyChoice_reschedule hu x.1

end

/-! ## A context is asked to stop, or to go on (R373 steps 1 and 2, R374) -/

section
variable {s : State}

theorem State.requestStop_of_unstoppable {c : Nat} (h : s.get Fld.WVR_CTX_STATE_state c = 0 ∨ s.get Fld.WVR_CTX_STATE_state c = 5) :
    s.requestStop c = s := if_pos h

section
variable {c : Nat} (h0 : s.get Fld.WVR_CTX_STATE_state c ≠ 0) (h5 : s.get Fld.WVR_CTX_STATE_state c ≠ 5)
include h0 h5

theorem State.requestStop_of_noStep (hs : (s.ctxAt c).stepRunning = false) :
    s.requestStop c = (s.set Fld.WVR_CTX_CTRL_stop c 1).set Fld.WVR_CTX_STATE_state c 4 :=
  (if_neg (by simp [h0, h5])).trans (if_neg (ne_true_of_eq_false hs))

/-- During a batch step the context keeps its state. -/
theorem State.requestStop_of_step (hs : (s.ctxAt c).stepRunning = true) : s.requestStop c = s.set Fld.WVR_CTX_CTRL_stop c 1 :=
  (if_neg (by simp [h0, h5])).trans (if_pos hs)

end

section
variable {a : Agent} {ctx : Fin 2048} {v : Word32}

theorem execContext_of_not_taken (h : s.takes a (ctxCtrl ctx) = false) :
    execContextStop a ctx v s = .next s ∧ execContextResume a ctx v s = .next s :=
  ⟨if_pos (by simp [h]), if_pos (by simp [h])⟩

variable (h : s.takes a (ctxCtrl ctx) = true) {u : State} (hu : u = s.mmioWrite a (ctxCtrl ctx) v.toNat)
include h hu

theorem execContextStop_of_unset (hb : bitOf v.toNat 0 = false) : execContextStop a ctx v s = .next u := by
  subst hu
  simp [execContextStop, h, hb]

theorem execContextStop_of_set (hb : bitOf v.toNat 0 = true) : execContextStop a ctx v s =
    .next (if (u.requestStop ctx).get Fld.WVR_CTX_STATE_state ctx = 4 then (u.requestStop ctx).haltShards ctx else u.requestStop ctx) := by
  subst hu
  simp [execContextStop, h, hb]

theorem execContextResume_of_taken : execContextResume a ctx v s =
    .next (if bitOf v.toNat 1 = true ∧ u.get Fld.WVR_CTX_STATE_state ctx = 5 then u.set Fld.WVR_CTX_STATE_state ctx 1 else u) := by
  subst hu
  simp [execContextResume, h]

end

/-! ## A context comes to rest (R373 steps 3 to 7) -/

section
variable {ctx : Fin 2048}

theorem execContextStopped_of_busy (h : s.get Fld.WVR_CTX_STATE_state ctx ≠ 4 ∨ (s.ctxAt ctx).stepRunning = true ∨
    ∃ x ∈ s.opsOf ctx, x.2.2.entry = none) : execContextStopped ctx s = .next s := by
  unfold execContextStopped
  split
  · rfl
  · next hn =>
    obtain ⟨h4, hs⟩ := not_or.1 hn
    obtain ⟨x, hx, he⟩ := (h.resolve_left h4).resolve_left hs
    exact if_pos (List.any_eq_true.2 ⟨x, hx, by rw [he]; rfl⟩)

theorem State.endEntries_of_noOp {c : Nat} (h : s.opsOf c = []) : s.endEntries c = s := by
  rw [State.endEntries, h]
  rfl

section
variable {c : Nat} (hc : (s.ctxAt c).cmd = none)
include hc

theorem State.stopKernel_of_noKernel (hk : (s.ctxAt c).kernel = none) : s.stopKernel c = s := by
  simp only [State.stopKernel, hk, hc]

theorem State.stopWait_of_noCmd : s.stopWait c = s := by
  simp only [State.stopWait, hc]

end

theorem State.postItem_of_noItem {c : Nat} (h : (s.ctxAt c).item = none) : s.postItem c = s := by
  simp only [State.postItem, h]

/-- With nothing in flight or held the context is stopped at once. -/
theorem execContextStopped_of_idle (h4 : s.get Fld.WVR_CTX_STATE_state ctx = 4) (hs : (s.ctxAt ctx).stepRunning = false)
    (ho : s.opsOf ctx = []) (hc : (s.ctxAt ctx).cmd = none) (hk : (s.ctxAt ctx).kernel = none) (hi : (s.ctxAt ctx).item = none)
    (hd : s.flag Fld.WVR_CTX_CTRL_discard ctx = false) : execContextStopped ctx s = .next ((s.rescheduleCtx ctx).stopped ctx) := by
  have hr := State.onlyChoice_rescheduleCtx s.onlyChoice_refl ctx
  have hctx : (s.rescheduleCtx ctx).ctxAt ctx = s.ctxAt ctx := State.onlyChoice_ctxAt hr ctx
  have hdis : (s.rescheduleCtx ctx).flag Fld.WVR_CTX_CTRL_discard ctx = false := by
    rw [State.flag, State.copiesBut_get hr.1 (by decide)]
    exact hd
  unfold execContextStopped
  rw [if_neg (by simp [h4, hs]), if_neg (by simp [ho])]
  dsimp only
  rw [State.endEntries_of_noOp ho, State.stopKernel_of_noKernel hc hk, State.stopWait_of_noCmd hc, State.postItem_of_noItem hi, hctx, hc,
    hk, hdis]
  rfl

theorem State.stopped_get (s : State) (c : Nat) : (s.stopped c).get Fld.WVR_CTX_STATE_state c = 5 ∧
    (s.stopped c).get Fld.WVR_CTX_STATUS_stopped c = 1 ∧ (s.stopped c).get Fld.WVR_CTX_CTRL_stop c = 0 := by
  refine ⟨?_, ?_, ?_⟩
  · exact (State.get_set_field _ (by decide) ..).trans ((State.get_set_field _ (by decide) ..).trans (State.get_set_same ..))
  · exact (State.get_set_field _ (by decide) ..).trans (State.get_set_same ..)
  · exact State.get_set_same ..

theorem State.stopped_spanOf (s : State) (c : Nat) : (s.stopped c).spanOf c = none := by
  have hn : (s.spans.filter (fun e => e.1 != c)).find? (fun e => e.1 == c) = none :=
    List.find?_eq_none.2 fun e he => by simpa using (List.mem_filter.1 he).2
  exact congrArg (Option.map Prod.snd) hn

theorem State.stopped_bytesSame (s : State) (c : Nat) : s.bytesSame (s.stopped c) := fun _ => ⟨rfl, rfl, rfl, rfl, rfl⟩

end

/-! ## The end of a quantum (R359, R360) -/

section
variable {core : Fin 256}

theorem execQuantumExpire_of_none (h : s.runningSlot core = none) : execQuantumExpire core s = .next s := by
  simp only [execQuantumExpire, h]

theorem execQuantumExpire_of_some {k : Nat} (h : s.runningSlot core = some k) :
    execQuantumExpire core s = .next ((s.charge core k (s.quantumLeft core k)).choose core) := by
  simp only [execQuantumExpire, h]

end

theorem State.charge_slotAt (s : State) (core k n : Nat) : (s.charge core k n).slotAt core k = { s.slotAt core k with
    pass := ((s.slotAt core k).pass + (s.slotAt core k).stride * n) % 2 ^ 64, ran := (s.slotAt core k).ran + n } :=
  Sparse.get_set_same ..

theorem State.choose_of_some {core k : Nat} (h : leastPass ((s.takeShares core).contenders core) = some k) :
    s.choose core = ((s.takeShares core).runSlot core k).showRunning core := by
  simp only [State.choose, h]

end

/-! ## The obligation -/

/-- Settles O47: each command through the equations of its cases; a context with nothing in flight stops as it stands, since the choice of
the sequencers before it keeps contexts, memories and what its control register asks. -/
theorem contextsStopAndResume : Obligations.ContextsStopAndResume := by
  intro s a ctx v core
  refine ⟨execContext_of_not_taken, fun h u hu => ⟨execContextStop_of_unset h hu, fun hb hn => ?unstoppable, fun hb h0 h5 hs => ?stopping,
      fun hb h0 h5 hs => ?stepping, fun hb h5 => ?resumed, fun hn => ?kept⟩,
    execContextStopped_of_busy, fun h4 hs ho hc hk hi hd => ?stopped, execQuantumExpire_of_none, fun k => execQuantumExpire_of_some,
    fun k n => ⟨s.charge_slotAt core k n, State.onlyChoice_bytesSame (State.onlyChoice_charge s.onlyChoice_refl core k n)⟩,
    fun k => State.choose_of_some⟩
  case unstoppable =>
    refine (execContextStop_of_set h hu hb).trans (congrArg _ ?_)
    rw [State.requestStop_of_unstoppable hn, if_neg (by omega)]
  case stopping =>
    have hstate : ((u.set Fld.WVR_CTX_CTRL_stop ctx 1).set Fld.WVR_CTX_STATE_state ctx 4).get Fld.WVR_CTX_STATE_state ctx = 4 :=
      State.get_set_same ..
    refine ⟨_, hstate, (State.get_set_field _ (by decide) ..).trans (State.get_set_same ..),
      State.onlyFields_set (State.onlyFields_set (u.onlyFields_refl _) (by simp) 1) (by simp) 4, ?_⟩
    refine (execContextStop_of_set h hu hb).trans (congrArg _ ?_)
    rw [State.requestStop_of_noStep h0 h5 hs, if_pos hstate]
  case stepping =>
    refine ⟨_, State.get_set_same .., u.set_onlyFields Fld.WVR_CTX_CTRL_stop ctx 1, ?_⟩
    refine (execContextStop_of_set h hu hb).trans (congrArg _ ?_)
    rw [State.requestStop_of_step h0 h5 hs, State.get_set_field _ (by decide)]
  case resumed =>
    exact ⟨_, (execContextResume_of_taken h hu).trans (congrArg _ (if_pos ⟨hb, h5⟩)), State.get_set_same .., u.set_onlyFields _ _ _⟩
  case kept =>
    refine (execContextResume_of_taken h hu).trans (congrArg _ (if_neg ?_))
    rintro ⟨hb, h5⟩
    rcases hn with hn | hn
    · simp [hb] at hn
    · exact hn h5
  case stopped =>
    obtain ⟨hstate, hstopped, hstop⟩ := (s.rescheduleCtx ctx).stopped_get ctx
    exact ⟨_, execContextStopped_of_idle h4 hs ho hc hk hi hd, hstate, hstopped, hstop, State.stopped_spanOf _ _,
      State.bytesSame_trans (State.onlyChoice_bytesSame (State.onlyChoice_rescheduleCtx s.onlyChoice_refl ctx))
        (State.stopped_bytesSame _ _)⟩

end Sys2Proof.Machine

/-! How edits of a range proceed and moves end (09 R408, R409, R412, R419; 15 R685; log entry 27): what an edit changes as it takes effect,
what it waits for, the ageing of heat, and the commands by which moves end and edits go on. -/

namespace Sys2Proof.Machine

/-! ## What a change of table entries leaves as it was -/

/-- The fields that an edit of a range may write as it takes effect: an armed injection, the pages counted, the seals broken. -/
def entryFields : List Field :=
  [Fld.FC_INJECT_armed, Fld.PG_RESIDENT_pages, Fld.PG_SPILL_T3_pages, Fld.PG_SPILL_T4_pages, Fld.PG_SEAL_CMD_state]

/-- `t` agrees with `s` but in registers, the lines of HBM and their marks, what caches hold, seals and what is sent. -/
def State.entryRest (s t : State) : Prop :=
  { t with regs := s.regs, hbm := s.hbm, sidecar := s.sidecar, lineTag := s.lineTag, hbmPoison := s.hbmPoison, awayPoison := s.awayPoison,
           tlb1 := s.tlb1, tlb2 := s.tlb2, walkCache := s.walkCache, seals := s.seals, outbox := s.outbox } = s

/-- `t` differs from `s` in no more than a change of table entries and of what depends on them may change. -/
def State.onlyEntries (s t : State) : Prop := s.copiesBut t entryFields ∧ s.entryRest t

section
variable {s t : State}

theorem State.onlyEntries_refl (s : State) : s.onlyEntries s := ⟨s.copiesBut_refl _, rfl⟩

theorem State.onlyEntries_set (h : s.onlyEntries t) {f : Field} (hf : f ∈ entryFields) (i v : Nat) : s.onlyEntries (t.set f i v) :=
  ⟨State.copiesBut_set h.1 hf i v, h.2⟩

/-- A change outside the registers. -/
theorem State.onlyEntries_rest {u : State} (h : s.onlyEntries t) (hr : u.regs = t.regs) (hu : t.entryRest u) : s.onlyEntries u := by
  refine ⟨State.copiesBut_then h.1 hr, ?_⟩
  have ht := h.2
  unfold State.entryRest at ht hu ⊢
  rw [← ht, ← hu]

theorem State.onlyEntries_foldl {α : Type} {f : State → α → State} (hf : ∀ t x, s.onlyEntries t → s.onlyEntries (f t x)) (l : List α)
    (h : s.onlyEntries t) : s.onlyEntries (l.foldl f t) := by
  induction l generalizing t with
  | nil => exact h
  | cons x l ih => exact ih (hf t x h)

variable (h : s.onlyEntries t)
include h

theorem State.onlyEntries_addPages {f : Field} (hf : f ∈ entryFields) (b : Nat) (up : Bool) : s.onlyEntries (t.addPages f b up) :=
  State.onlyEntries_set h hf _ _

theorem State.onlyEntries_injected (phys : Nat) : s.onlyEntries (t.injected phys).2 := by
  unfold State.injected
  split
  · exact State.onlyEntries_set h (by decide) _ _
  · exact h

theorem State.onlyEntries_putCipher (phys tw : Nat) (cipher tag : List Byte) : s.onlyEntries (t.putCipher phys tw cipher tag) :=
  State.onlyEntries_rest (State.onlyEntries_injected h phys) rfl rfl

theorem State.onlyEntries_setTableEntry (b phys v : Nat) : s.onlyEntries (t.setTableEntry b phys v) := by
  unfold State.setTableEntry
  split
  · exact h
  · dsimp only
    split
    · exact State.onlyEntries_rest h rfl rfl
    · exact State.onlyEntries_putCipher h _ _ _ _

theorem State.onlyEntries_dropTlb (b va pages : Nat) : s.onlyEntries (t.dropTlb b va pages) := State.onlyEntries_rest h rfl rfl

theorem State.onlyEntries_poisonForgotten (b va n : Nat) : s.onlyEntries (t.poisonForgotten b va n) := State.onlyEntries_rest h rfl rfl

theorem State.onlyEntries_breakSeals (b va n : Nat) : s.onlyEntries (t.breakSeals b va n) := by
  refine State.onlyEntries_foldl (fun u i hu => ?_) _ h
  refine State.onlyEntries_foldl (fun v m hv => ?_) _ ?_
  · exact State.onlyEntries_rest hv rfl rfl
  · exact State.onlyEntries_rest (State.onlyEntries_set hu (f := Fld.PG_SEAL_CMD_state) (by decide) (b * 16 + i) 3) rfl rfl

theorem State.onlyEntries_unmapPage (x : Edit) (va : Nat) : s.onlyEntries (t.unmapPage x va).2 := by
  unfold State.unmapPage
  dsimp only
  split
  · exact h
  · rename_i l _
    have hw := State.onlyEntries_poisonForgotten (State.onlyEntries_setTableEntry h x.basket l.eaddr 0) x.basket (va / 65536 * 65536) 1024
    split
    · exact hw
    · split
      · exact State.onlyEntries_addPages hw (by decide) _ _
      · exact State.onlyEntries_addPages hw (by decide) _ _
      · exact State.onlyEntries_addPages hw (by decide) _ _
      · exact hw

theorem State.onlyEntries_rightsPage (b rights va : Nat) : s.onlyEntries (t.rightsPage b rights va) := by
  unfold State.rightsPage
  split
  · exact h
  · exact State.onlyEntries_setTableEntry h _ _ _

end

/-! ## An edit of a range takes effect (R409 steps 2 and 3) -/

/-- `y` is the edit `x`, further on: it has its range and its order, whatever it has taken from the table. -/
def Edit.goneOn (x y : Edit) : Prop := { y with moving := x.moving, frames := x.frames, t4 := x.t4, guests := x.guests } = x

theorem Edit.goneOn_unmapPage {x y : Edit} (h : x.goneOn y) (s : State) (va : Nat) : x.goneOn (s.unmapPage y va).1 := by
  unfold State.unmapPage
  dsimp only
  split
  · exact h
  · split
    · exact h
    · split <;> exact h

theorem Edit.goneOn_order {x y : Edit} (h : x.goneOn y) : y.part = x.part ∧ y.op = x.op ∧ y.rights = x.rights := by
  rw [← h]
  exact ⟨rfl, rfl, rfl⟩

theorem Edit.goneOn_range {x y : Edit} (h : x.goneOn y) : y.basket = x.basket ∧ y.va = x.va ∧ y.pages = x.pages := by
  rw [← h]
  exact ⟨rfl, rfl, rfl⟩

section
variable {s : State} {x : Edit}

/-- The pages of a range are unmapped one after the other. -/
theorem State.unmapPages_goneOn (l : List Nat) {a : Edit × State} (h : x.goneOn a.1 ∧ s.onlyEntries a.2) :
    x.goneOn (l.foldl (fun a va => a.2.unmapPage a.1 va) a).1 ∧ s.onlyEntries (l.foldl (fun a va => a.2.unmapPage a.1 va) a).2 := by
  induction l generalizing a with
  | nil => exact h
  | cons va l ih => exact ih ⟨Edit.goneOn_unmapPage h.1 a.2 va, State.onlyEntries_unmapPage h.2 a.1 va⟩

/-- As it takes effect an edit keeps its range, and changes entries and what depends on them. -/
theorem State.editApply_goneOn (s : State) (x : Edit) : x.goneOn (s.editApply x).1 ∧ s.onlyEntries (s.editApply x).2 := by
  have drop : ∀ a : Edit × State, x.goneOn a.1 ∧ s.onlyEntries a.2 → x.goneOn { a.1 with moving := false } ∧
      s.onlyEntries (if a.1.op = 2 then a.2.dropTlb a.1.basket a.1.va a.1.pages
        else (a.2.dropTlb a.1.basket a.1.va a.1.pages).breakSeals a.1.basket a.1.va (a.1.pages * 65536)) := by
    intro a h
    refine ⟨h.1, ?_⟩
    split
    · exact State.onlyEntries_dropTlb h.2 _ _ _
    · exact State.onlyEntries_breakSeals (State.onlyEntries_dropTlb h.2 _ _ _) _ _ _
  unfold State.editApply
  refine drop _ ?_
  split
  · exact State.unmapPages_goneOn _ ⟨rfl, s.onlyEntries_refl⟩
  · split
    · exact ⟨rfl, State.onlyEntries_foldl (fun _ _ hu => State.onlyEntries_rightsPage hu _ _ _) _ s.onlyEntries_refl⟩
    · exact ⟨rfl, s.onlyEntries_refl⟩

/-- An edit whose step 2 is behind it, and the state it leaves. -/
def State.editTaken (s : State) (x : Edit) : Edit × State := if x.moving then s.editApply x else (x, s)

theorem State.editTaken_goneOn (s : State) (x : Edit) : x.goneOn (s.editTaken x).1 ∧ s.onlyEntries (s.editTaken x).2 := by
  unfold State.editTaken
  split
  · exact s.editApply_goneOn x
  · exact ⟨rfl, s.onlyEntries_refl⟩

/-! ## What an edit of a range waits for (R409 steps 1 and 4) -/

theorem State.onlyEntries_edits {t : State} (h : s.onlyEntries t) : t.edits = s.edits := by
  rw [← h.2]

theorem State.onlyEntries_slotBasket {t : State} (h : s.onlyEntries t) (k : Nat) : t.slotBasket k = s.slotBasket k := by
  have hs : t.slots = s.slots := by rw [← h.2]
  rw [State.slotBasket, hs]
  exact State.copiesBut_get h.1 (by decide) _

/-- What changes entries leaves what an edit of a range awaits. -/
theorem State.onlyEntries_editAwaits {t : State} {y : Edit} (h : s.onlyEntries t) (hy : x.goneOn y) : t.editAwaits y = s.editAwaits x := by
  have hh : t.shards = s.shards := by rw [← h.2]
  have hd : t.deferred = s.deferred := by rw [← h.2]
  have ho : t.own = s.own := by rw [← h.2]
  obtain ⟨hb, hv, hp⟩ := Edit.goneOn_range hy
  have hc : y.covers = x.covers := by
    funext va
    rw [Edit.covers, hv, hp]
    rfl
  simp only [State.editAwaits, State.unwritten, State.onlyEntries_slotBasket h, hc, hh, hd, ho, hb, hv, hp]

/-- No move, no write that a page held up and no operation is at a page of an edit's range, and every write to it has been performed. -/
def State.rangeClear (s : State) (x : Edit) : Prop :=
  (∀ m ∈ s.moves, m.basket = x.basket → x.covers m.va = false) ∧
  (∀ d ∈ s.deferred, d.basket = x.basket → d.away = none → x.covers (d.va / 65536 * 65536) = false) ∧
  (∀ e ∈ s.shards, s.slotBasket e.1 = x.basket → ∀ o ∈ e.2.ops, o.pages.any x.covers = false) ∧
  s.unwritten x.basket x.va (x.pages * 65536) = false

theorem State.editHeld_of_clear (h : s.rangeClear x) : s.editHeld x = false := by
  obtain ⟨hm, hd, ho, -⟩ := h
  have moves : s.moves.any (fun m => m.basket == x.basket && x.covers m.va) = false := by
    simpa [List.any_eq_false] using hm
  have deferred : s.deferred.any (fun d => d.basket == x.basket && d.away.isNone && x.covers (d.va / 65536 * 65536)) = false := by
    simpa [List.any_eq_false] using hd
  rw [State.editHeld, moves, deferred, Bool.false_or, Bool.false_or, List.any_eq_false]
  intro e he hc
  obtain ⟨hb, hc⟩ := Bool.and_eq_true_iff.1 hc
  obtain ⟨o, hmem, hc⟩ := List.any_eq_true.1 hc
  obtain ⟨g, hg, hc⟩ := List.any_eq_true.1 (Bool.and_eq_true_iff.1 hc).2
  have hn := List.any_eq_false.1 (ho e he (beq_iff_eq.1 hb) o hmem) g hg
  exact hn (Bool.and_eq_true_iff.1 hc).1

theorem State.editAwaits_of_clear (h : s.rangeClear x) : s.editAwaits x = false := by
  obtain ⟨-, -, ho, hw⟩ := h
  rw [State.editAwaits, hw, Bool.or_false, List.any_eq_false]
  intro e he hc
  obtain ⟨hb, hc⟩ := Bool.and_eq_true_iff.1 hc
  obtain ⟨o, hmem, hc⟩ := List.any_eq_true.1 hc
  exact Bool.false_ne_true ((ho e he (beq_iff_eq.1 hb) o hmem).symm.trans hc)

/-! ## An edit of a range goes as far as it can -/

theorem State.rangeRun_of_held (hm : x.moving = true) (hh : s.editHeld x = true) : s.rangeRun x = { s with edits := s.edits ++ [x] } :=
  if_pos (by simp [hm, hh])

/-- An edit that is not held takes effect, and waits on, or ends. -/
theorem State.rangeRun_of_free (h : (x.moving && s.editHeld x) = false) : s.rangeRun x =
    if s.editAwaits x then { (s.editTaken x).2 with edits := s.edits ++ [(s.editTaken x).1] }
    else ((s.editTaken x).2.editReturn (s.editTaken x).1).editFinish (s.editTaken x).1 := by
  obtain ⟨hx, hs⟩ := s.editTaken_goneOn x
  have he := State.onlyEntries_edits hs
  rw [← State.onlyEntries_editAwaits hs hx, ← he]
  exact if_neg (by simp [h])

theorem State.rangeRun_of_clear (h : s.rangeClear x) :
    s.rangeRun x = ((s.editTaken x).2.editReturn (s.editTaken x).1).editFinish (s.editTaken x).1 := by
  rw [State.rangeRun_of_free (by rw [State.editHeld_of_clear h, Bool.and_false]), State.editAwaits_of_clear h]
  rfl

theorem State.editFinish_of_edit (s : State) (h : x.op ≠ 16) : s.editFinish x = s.editDone x.part := if_neg h

theorem State.editDone_get (s : State) (p : Nat) :
    (s.editDone p).get Fld.XL_EDIT_CMD_done p = 1 ∧ (s.editDone p).get Fld.XL_EDIT_CMD_busy p = 0 :=
  ⟨State.get_set_same .., (State.get_set_field _ (by decide) ..).trans (State.get_set_same ..)⟩

theorem State.editRun_of_range (h : x.op ≤ 2) : s.editRun x = s.rangeRun x := if_neg (by omega)

/-- An edit of a range that waits for nothing is done. -/
theorem State.rangeRun_done (h : s.rangeClear x) (hop : x.op ≠ 16) :
    (s.rangeRun x).get Fld.XL_EDIT_CMD_done x.part = 1 ∧ (s.rangeRun x).get Fld.XL_EDIT_CMD_busy x.part = 0 := by
  obtain ⟨hp, ho, -⟩ := Edit.goneOn_order (s.editTaken_goneOn x).1
  rw [State.rangeRun_of_clear h, State.editFinish_of_edit _ (ho ▸ hop), hp]
  exact State.editDone_get _ _

/-! ## Heat (R419) -/

/-- An L2 TLB entry of the page in a frame has its accessed bit set. -/
def State.frameSeen (s : State) (f : Nat) : Prop :=
  ∃ c ∈ s.tlb2, ∃ x ∈ c.2, x.shift = 16 ∧ x.accessed = true ∧ x.phys / 65536 = f

theorem State.any_accessed_iff (s : State) (f : Nat) :
    s.tlb2.any (fun e => e.2.any (fun t => t.shift == 16 && t.accessed && t.phys / 65536 == f)) = true ↔ s.frameSeen f := by
  simp [State.frameSeen, and_assoc]

/-- What an accessed bit adds to the heat of a frame. -/
theorem State.heat_gain (s : State) (f : Nat) {_ : Decidable (s.frameSeen f)} :
    128 * bit (s.tlb2.any (fun e => e.2.any (fun t => t.shift == 16 && t.accessed && t.phys / 65536 == f))) =
      if s.frameSeen f then 128 else 0 := by
  simp only [bit, s.any_accessed_iff]
  split <;> rfl

/-! ## The commands by which moves end and edits go on (R409, R412) -/

theorem execPageMoveDone_of_none {id : Nat} (h : s.moves.find? (fun m => m.id == id) = none) : execPageMoveDone id s = .next s := by
  simp only [execPageMoveDone, h]

theorem execPageMoveDone_of_some {id : Nat} {m : Move} (h : s.moves.find? (fun m => m.id == id) = some m) : execPageMoveDone id s =
    if !s.moveReady m then .next s
    else
      let u := s.endMove m
      let v := if u.inKvPool m.basket m.va then u.countKv m.basket else u
      .next (((v.bump64 Fld.FC_ENG_PROGRESS_LO_lo Fld.FC_ENG_PROGRESS_HI_hi (256 + m.engine) 1024).moveOver id).afterMoves) := by
  simp only [execPageMoveDone, h]

theorem State.editsGoOn_of_none {p : Nat} (h : ∀ y ∈ s.edits, y.part ≠ p) : s.editsGoOn p = s := by
  have mine : s.edits.filter (fun x => x.part == p) = [] := List.filter_eq_nil_iff.2 (by simpa using h)
  have others : s.edits.filter (fun x => x.part != p) = s.edits := List.filter_eq_self.2 (by simpa using h)
  rw [State.editsGoOn, mine, others]
  rfl

/-- The one edit of a partition goes on, the others waiting. -/
theorem State.editsGoOn_of_one {p : Nat} {xs ys : List Edit} (hs : s.edits = xs ++ x :: ys) (hx : x.part = p)
    (h : ∀ y ∈ xs ++ ys, y.part ≠ p) : s.editsGoOn p = { s with edits := xs ++ ys }.editRun x := by
  have hn : ∀ l : List Edit, (∀ y ∈ l, y.part ≠ p) → l.filter (fun x => x.part == p) = [] := fun l hl =>
    List.filter_eq_nil_iff.2 (by simpa using hl)
  have ho : ∀ l : List Edit, (∀ y ∈ l, y.part ≠ p) → l.filter (fun x => x.part != p) = l := fun l hl =>
    List.filter_eq_self.2 (by simpa using hl)
  have hxs : ∀ y ∈ xs, y.part ≠ p := fun y hy => h y (List.mem_append_left _ hy)
  have hys : ∀ y ∈ ys, y.part ≠ p := fun y hy => h y (List.mem_append_right _ hy)
  have mine : s.edits.filter (fun x => x.part == p) = [x] := by simp [hs, hn xs hxs, hn ys hys, hx]
  have others : s.edits.filter (fun x => x.part != p) = xs ++ ys := by simp [hs, ho xs hxs, ho ys hys, hx]
  rw [State.editsGoOn, mine, others]
  rfl

end

/-! ## The obligation -/

/-- Settles O42: each command through the equations of its cases; an edit of a range that waits for nothing is done, since what it changes
as it takes effect is not what it waits for. -/
theorem heatEpochsMovesAndDrainedEdits : Obligations.HeatEpochsMovesAndDrainedEdits := by
  intro s id p
  refine ⟨⟨_, rfl, ?heat, ?cleared, ?sets, rfl⟩, fun m hm => ⟨fun h => ?waits, fun h u v hu hv => ?ends⟩, execPageMoveDone_of_none,
    fun h => congrArg _ (State.editsGoOn_of_none h), fun x xs ys hs hx h => congrArg _ (State.editsGoOn_of_one hs hx h),
    fun x hx hop => ⟨fun hh hm => ?held, fun hm hd ho hw => ?drained⟩⟩
  case heat =>
    refine congrArg (fun f => s.frames.foldl f s.heat) (funext fun m => funext fun e => ?_)
    obtain ⟨f, use⟩ := e
    cases use with
    | page va => exact congrArg (fun n => Sparse.set 0 m f (Sparse.get 0 s.heat f / 2 + n)) (s.heat_gain f)
    | free => rfl
    | reserved => rfl
    | guest i uid va => rfl
  case cleared =>
    intro c hc x hx
    obtain ⟨c', -, rfl⟩ := List.mem_map.1 hc
    obtain ⟨x', -, rfl⟩ := List.mem_map.1 hx
    rfl
  case sets => exact List.map_map ..
  case waits => exact (execPageMoveDone_of_some hm).trans (if_pos (by rw [h]; rfl))
  case ends =>
    subst hu hv
    have hrun := (execPageMoveDone_of_some hm).trans (if_neg (by simp [h]))
    exact ⟨hrun, _, hrun⟩
  case held => exact (State.editRun_of_range hop).trans (State.rangeRun_of_held hm hh)
  case drained =>
    rw [State.editRun_of_range hop, ← hx]
    exact State.rangeRun_done ⟨hm, hd, ho, hw⟩ (by omega)

end Sys2Proof.Machine

/-! How edits are ordered and refused (09 R394, R409, R426, R427, R429, R438, R738; log entry 97): the write of XL_EDIT_CMD, what an
INVALIDATE leaves as it was, the objects of a table in effect, what the pager's work leaves as it was while an object is released, and the
frames that change hands. -/

namespace Sys2Proof.Machine

/-! ## What the pager's work leaves as it was -/

/-- The fields that accesses of the device's own and the end of an edit may write: entries' fields, frames and pages counted, what the
tiers and the KV pool show, translation faults, tags that failed, and what a fault report writes. -/
def pagerFields : List Field :=
  entryFields ++ ([Fld.PG_FREE_FRAMES_frames, Fld.PG_EVICT_COUNT_count, Fld.PG_INPLACE_COUNT_count, Fld.PG_TIER_STATUS_wrap,
    Fld.PG_TIER_STATUS_oom, Fld.PG_TIER_STATUS_released, Fld.PG_KV_T2_USED_pages, Fld.PG_KV_T3_USED_pages, Fld.PG_KV_T4_USED_pages,
    Fld.PG_KV_FREE_pages, Fld.XL_FAULT_VA_LO_va_lo, Fld.XL_FAULT_VA_HI_va_hi, Fld.XL_FAULT_INFO_reason, Fld.XL_FAULT_INFO_level,
    Fld.XL_FAULT_COUNT_count, Fld.XL_FAULT_STATUS_fault_wrap, Fld.LID_INTEGRITY_COUNT_count, Fld.LID_COUNT_STATUS_integ_wrap] ++ reportFields)

/-- `t` has the objects of `s`, and differs from it in no field of a register but the pager's. -/
def State.onlyPager (s t : State) : Prop := s.copiesBut t pagerFields ∧ t.objects = s.objects

section
variable {s t : State}

theorem State.onlyPager_refl (s : State) : s.onlyPager s := ⟨s.copiesBut_refl _, rfl⟩

theorem State.onlyPager_foldl {α : Type} {f : State → α → State} (hf : ∀ t x, s.onlyPager t → s.onlyPager (f t x)) (l : List α)
    (h : s.onlyPager t) : s.onlyPager (l.foldl f t) := by
  induction l generalizing t with
  | nil => exact h
  | cons x l ih => exact ih (hf t x h)

theorem State.onlyPager_foldl₂ {α β : Type} {f : β × State → α → β × State} (hf : ∀ p x, s.onlyPager p.2 → s.onlyPager (f p x).2)
    (l : List α) {p : β × State} (h : s.onlyPager p.2) : s.onlyPager (l.foldl f p).2 := by
  induction l generalizing p with
  | nil => exact h
  | cons x l ih => exact ih (hf p x h)

/-- A register field of the pager is written. -/
theorem State.onlyPager_set (h : s.onlyPager t) {f : Field} (hf : f ∈ pagerFields) (i v : Nat) : s.onlyPager (t.set f i v) :=
  ⟨State.copiesBut_set h.1 hf i v, h.2⟩

theorem State.onlyPager_setAll (h : s.onlyPager t) (i : Nat) (l : List (Field × Nat)) (hl : ∀ e ∈ l, e.1 ∈ pagerFields) :
    s.onlyPager (t.setAll i l) :=
  ⟨State.copiesBut_setAll h.1 i l hl, (State.setAll_objects ..).trans h.2⟩

theorem State.onlyPager_count (h : s.onlyPager t) {f w : Field} (hf : f ∈ pagerFields) (hw : w ∈ pagerFields) (i wi k n : Nat) :
    s.onlyPager (t.count f i w wi k n) :=
  ⟨State.copiesBut_count h.1 hf hw _ _ _ _, (State.count_objects ..).trans h.2⟩

/-- A change outside the registers and the object tables. -/
theorem State.onlyPager_rest {u : State} (h : s.onlyPager t) (hr : u.regs = t.regs) (ho : u.objects = t.objects) : s.onlyPager u :=
  ⟨State.copiesBut_then h.1 hr, ho.trans h.2⟩

/-- Table entries change, with what depends on them. -/
theorem State.onlyPager_entries {u : State} (h : s.onlyPager t) (hu : t.onlyEntries u) : s.onlyPager u := by
  have ho : u.objects = t.objects := by rw [← hu.2]
  exact ⟨State.copiesBut_trans h.1 (State.copiesBut_mono hu.1 (fun _ hf => List.mem_append_left _ hf)), ho.trans h.2⟩

/-- The object tables are among what a fault report leaves. -/
theorem State.reportRest_objects (h : s.reportRest t) : t.objects = s.objects := by
  rw [← h]

variable (h : s.onlyPager t)
include h

/-! ### Reports and poison (12 R561; 14 R643, R663) -/

theorem State.onlyPager_report (f i info : Nat) (rail forced : Bool) : s.onlyPager (t.report f i info rail forced) := by
  have hcopies : t.copiesBut (t.report f i info rail forced) pagerFields := State.copiesBut_mono (t.report_copies f i info rail forced)
    (fun _ hf => List.mem_append_right _ (List.mem_append_right _ hf))
  have hrest := State.reportRest_objects (t.report_reportRest f i info rail forced)
  exact ⟨State.copiesBut_trans h.1 hcopies, hrest.trans h.2⟩

theorem State.onlyPager_integrityFail (p : Nat) : s.onlyPager (t.integrityFail p) := by
  have hc := State.onlyPager_count h (f := Fld.LID_INTEGRITY_COUNT_count) (w := Fld.LID_COUNT_STATUS_integ_wrap) (by decide) (by decide) 0 0 0 1
  unfold State.integrityFail
  dsimp only
  split
  · exact State.onlyPager_report hc _ _ _ _ _
  · exact hc

theorem State.onlyPager_retireChannel (ch info : Nat) : s.onlyPager (t.retireChannel ch info) := by
  unfold State.retireChannel
  split
  · exact h
  · have ht : s.onlyPager { t with fc := { t.fc with retiring := t.fc.retiring ++ [(ch, t.time)] } } := State.onlyPager_rest h rfl rfl
    refine State.onlyPager_report ?_ _ _ _ _ _
    split
    · exact ht
    · refine State.onlyPager_foldl (fun u e hu => ?_) _ ht
      split
      · exact State.onlyPager_set hu (by decide) _ _
      · exact hu

theorem State.onlyPager_hbmUncorrectable (ch off : Nat) : s.onlyPager (t.hbmUncorrectable ch off) := by
  have hr := State.onlyPager_report (State.onlyPager_rest (u := t.markHbm ((2 ^ 40 * ch + off) / 64) 2) h rfl rfl) 0x1A ch off false false
  unfold State.hbmUncorrectable
  generalize (State.report _ 0x1A ch off) = u at hr ⊢
  have spared : ∀ c : Collector, s.onlyPager { u with fc := c } := fun _ => State.onlyPager_rest hr rfl rfl
  unfold State.hbmRowSpare
  dsimp only
  split
  · exact State.onlyPager_report (spared _) _ _ _ _ _
  · exact State.onlyPager_retireChannel hr _ _

theorem State.onlyPager_linePoisoned (b phys : Nat) (tag : Bool) : s.onlyPager (t.linePoisoned b phys tag) := by
  unfold State.linePoisoned
  split
  · exact State.onlyPager_integrityFail h _
  · exact State.onlyPager_hbmUncorrectable h _ _

theorem State.onlyPager_recordFault (b a r l : Nat) : s.onlyPager (t.recordFault b (.translation a r l)) := by
  unfold State.recordFault
  dsimp only
  generalize (if r = 6 then 0 else a) = va
  have hc := State.onlyPager_count (State.onlyPager_setAll h b [(Fld.XL_FAULT_VA_LO_va_lo, va), (Fld.XL_FAULT_VA_HI_va_hi, va / 2 ^ 32),
    (Fld.XL_FAULT_INFO_reason, r), (Fld.XL_FAULT_INFO_level, l)] (by simp [pagerFields])) (f := Fld.XL_FAULT_COUNT_count)
    (w := Fld.XL_FAULT_STATUS_fault_wrap) (by decide) (by decide) b b 0 1
  split
  · exact State.onlyPager_report hc _ _ _ _ _
  · exact hc

/-! ### What is sent, asked, and kept of a piece -/

theorem State.onlyPager_emit (x : Sent) : s.onlyPager (t.emit x) := State.onlyPager_rest h rfl rfl

theorem State.onlyPager_emitAll (ps : List Packet) : s.onlyPager (t.emitAll ps) := State.onlyPager_rest h rfl rfl

theorem State.onlyPager_useT4 (b i : Nat) (used : Bool) : s.onlyPager (t.useT4 b i used) := State.onlyPager_rest h rfl rfl

theorem State.onlyPager_tier4 (m : Mem) : s.onlyPager { t with tier4 := m } := State.onlyPager_rest h rfl rfl

theorem State.onlyPager_deferred (l : List DeferredWrite) : s.onlyPager { t with deferred := l } := State.onlyPager_rest h rfl rfl

theorem State.onlyPager_poisonLeaves (b va phys : Nat) : s.onlyPager (t.poisonLeaves b va phys) := State.onlyPager_rest h rfl rfl

theorem State.onlyPager_unnote (b a : Nat) : s.onlyPager (t.unnote b a) := State.onlyPager_rest h rfl rfl

theorem State.onlyPager_addMove (b va : Nat) (k : MoveKind) (frame : Nat) : s.onlyPager (t.addMove b va k frame).2 :=
  State.onlyPager_rest h rfl rfl

theorem State.onlyPager_asks (b word kind m va : Nat) : s.onlyPager (t.asks b word kind m va) := by
  unfold State.asks
  split <;> exact State.onlyPager_rest h rfl rfl

/-! ### Frames, leaves and moves (09 R394, R412, R415 to R422) -/

theorem State.onlyPager_addPages {f : Field} (hf : f ∈ pagerFields) (b : Nat) (up : Bool) : s.onlyPager (t.addPages f b up) :=
  State.onlyPager_set h hf _ _

theorem State.onlyPager_setLeaf (b va : Nat) (l : Leaf) (res spillT4 loc : Nat) : s.onlyPager (t.setLeaf b va l res spillT4 loc) :=
  State.onlyPager_entries h (State.onlyEntries_dropTlb (State.onlyEntries_setTableEntry t.onlyEntries_refl _ _ _) _ _ _)

theorem State.onlyPager_putPage (b va phys : Nat) (cipher tags : List Byte) : s.onlyPager (t.putPage b va phys cipher tags) :=
  State.onlyPager_rest (State.onlyPager_entries h (State.onlyEntries_injected t.onlyEntries_refl phys)) rfl rfl

theorem State.onlyPager_takeFrame {b f : Nat} {use : FrameUse} {u : State} (hu : t.takeFrame b use = some (f, u)) : s.onlyPager u := by
  unfold State.takeFrame at hu
  dsimp only at hu
  split at hu
  · cases hu
  · split at hu
    · cases hu
    · obtain ⟨-, rfl⟩ := Prod.mk.inj (Option.some.inj hu)
      exact State.onlyPager_set (State.onlyPager_rest h rfl rfl) (by decide) _ _

theorem State.onlyPager_fillFrame (b va : Nat) (l : Leaf) (frame : Nat) : s.onlyPager (t.fillFrame b va l frame) :=
  State.onlyPager_addPages (State.onlyPager_setLeaf (State.onlyPager_putPage h _ _ _ _ _) _ _ _ _ _ _) (by decide) _ _

theorem State.onlyPager_noTier (b va : Nat) : s.onlyPager (t.noTier b va) := by
  have hs := State.onlyPager_set h (f := Fld.PG_TIER_STATUS_oom) (by decide) b 1
  unfold State.noTier
  dsimp only
  split
  · exact State.onlyPager_report hs _ _ _ _ _
  · exact hs

theorem State.onlyPager_inPlace (b : Nat) : s.onlyPager (t.inPlace b) := State.onlyPager_count h (by decide) (by decide) _ _ _ _

theorem State.onlyPager_spillPlace (b : Nat) : s.onlyPager (t.spillPlace b).2 := by
  have hd : s.onlyPager (if (t.spillOrder b).isEmpty then t else t.drawn) := by
    split
    · exact h
    · exact State.onlyPager_rest h rfl rfl
  unfold State.spillPlace
  dsimp only
  split <;> exact hd

theorem State.onlyPager_fillAway (b va : Nat) (l : Leaf) : s.onlyPager (t.fillAway b va l).2 := by
  have hp := State.onlyPager_spillPlace h b
  unfold State.fillAway
  dsimp only
  split <;> rename_i hs <;> rw [hs] at hp
  · refine State.onlyPager_inPlace (State.onlyPager_addPages (State.onlyPager_setLeaf ?_ _ _ _ _ _ _) (f := Fld.PG_SPILL_T3_pages)
      (by decide) _ _) _
    exact State.onlyPager_emitAll hp _
  · refine State.onlyPager_inPlace (State.onlyPager_addPages (State.onlyPager_setLeaf ?_ _ _ _ _ _ _) (f := Fld.PG_SPILL_T4_pages)
      (by decide) _ _) _
    exact State.onlyPager_tier4 (State.onlyPager_useT4 hp _ _ _) _
  · exact State.onlyPager_noTier hp _ _

theorem State.onlyPager_startSpill (b va : Nat) (l : Leaf) (k : MoveKind) : s.onlyPager (t.startSpill b va l k).2 := by
  have hk : s.onlyPager (match k with
      | .spillT3 m _ => t.emitAll (t.pagePackets b m (va / 65536 * 65536) l.frame)
      | .spillT4 i => t.useT4 b i true
      | _ => t) := by
    cases k with
    | spillT3 m g => exact State.onlyPager_emitAll h _
    | spillT4 i => exact State.onlyPager_useT4 h _ _ _
    | _ => exact h
  have hl := State.onlyPager_setLeaf (State.onlyPager_poisonLeaves hk b (va / 65536 * 65536) l.frame) b va l 3 0 0
  exact State.onlyPager_addMove (State.onlyPager_addPages hl (f := Fld.PG_RESIDENT_pages) (by decide) b false) _ _ _ _

theorem State.onlyPager_makeRoom {b id : Nat} {u : State} (hu : t.makeRoom b = some (id, u)) : s.onlyPager u := by
  have hp := State.onlyPager_spillPlace h b
  unfold State.makeRoom at hu
  split at hu
  · cases hu
  · split at hu
    · rename_i hs
      rw [hs] at hp
      obtain ⟨-, rfl⟩ := Prod.mk.inj (Option.some.inj hu)
      exact State.onlyPager_count (State.onlyPager_startSpill hp _ _ _ _) (by decide) (by decide) _ _ _ _
    · cases hu

theorem State.onlyPager_startBring (b va : Nat) (l : Leaf) (frame : Nat) : s.onlyPager (t.startBring b va l frame).2 := by
  unfold State.startBring
  dsimp only
  split
  · exact State.onlyPager_addMove (State.onlyPager_setLeaf h _ _ _ _ _ _) _ _ _ _
  · exact State.onlyPager_addMove (State.onlyPager_setLeaf (State.onlyPager_emit (State.onlyPager_asks h _ _ _ _ _) _) _ _ _ _ _ _) _ _ _ _

theorem State.onlyPager_bringBack (b va : Nat) (l : Leaf) (stay : PageAt) : s.onlyPager (t.bringBack b va l stay).2 := by
  unfold State.bringBack
  split
  · exact h
  · split
    · exact State.onlyPager_startBring (State.onlyPager_takeFrame h ‹_›) _ _ _ _
    · split
      · exact State.onlyPager_makeRoom h ‹_›
      · exact State.onlyPager_inPlace h _

/-- Giving an access its page is work of the pager. -/
theorem State.onlyPager_settle (b va : Nat) (l : Leaf) : s.onlyPager (t.settle b va l).2 := by
  unfold State.settle
  split
  · exact h
  · exact h
  · exact h
  · exact h
  · split
    · exact State.onlyPager_fillFrame (State.onlyPager_takeFrame h ‹_›) _ _ _ _
    · split
      · exact State.onlyPager_makeRoom h ‹_›
      · exact State.onlyPager_fillAway h _ _ _
  · split
    · exact h
    · exact State.onlyPager_bringBack h _ _ _ _
  · split
    · exact State.onlyPager_bringBack h _ _ _ _
    · exact h

/-! ### Writes of the device's own (09 R403) -/

theorem State.onlyPager_putLine (b va phys : Nat) (line : List Byte) : s.onlyPager (t.putLine b va phys line) :=
  State.onlyPager_entries h (State.onlyEntries_putCipher t.onlyEntries_refl _ _ _ _)

theorem State.onlyPager_writeHere (b va phys : Nat) (bs : List Byte) : s.onlyPager (t.writeHere b va phys bs) := by
  refine State.onlyPager_foldl (fun u l hu => ?_) _ (State.onlyPager_entries h (State.onlyEntries_breakSeals t.onlyEntries_refl _ _ _))
  dsimp only
  split
  · exact State.onlyPager_putLine hu _ _ _ _
  · split
    · exact State.onlyPager_putLine hu _ _ _ _
    · exact State.onlyPager_linePoisoned hu _ _ _

theorem State.onlyPager_writeT4 (b va port addr : Nat) (bs : List Byte) : s.onlyPager (t.writeT4 b va port addr bs) := by
  unfold State.writeT4
  dsimp only
  split
  · exact State.onlyPager_foldl (fun u l hu => State.onlyPager_tier4 hu _) _ h
  · exact State.onlyPager_tier4 h _

theorem State.onlyPager_writeSpill (b i va : Nat) (bs : List Byte) : s.onlyPager (t.writeSpill b i va bs) := by
  refine State.onlyPager_foldl (fun u l hu => ?_) _ h
  dsimp only
  split
  · exact State.onlyPager_entries (State.onlyPager_tier4 hu _) (State.onlyEntries_poisonForgotten (State.onlyEntries_refl _) _ _ _)
  · split
    · exact State.onlyPager_tier4 hu _
    · split
      · exact State.onlyPager_integrityFail hu _
      · exact hu

theorem State.onlyPager_sendOwn (b m va : Nat) (plain : List Byte) : s.onlyPager (t.sendOwn b m va plain) := by
  have hs : s.onlyPager (t.sendLines b m 0 va deviceWord plain).2 := by
    refine State.onlyPager_foldl₂ (fun a i ha => ?_) _ h
    exact State.onlyPager_emit ha _
  exact State.onlyPager_foldl (fun u a hu => State.onlyPager_asks hu _ _ _ _ _) _ hs

theorem State.onlyPager_putAway (b m va : Nat) (bs : List Byte) : s.onlyPager (t.putAway b m va bs) := by
  unfold State.putAway
  split
  · exact State.onlyPager_sendOwn h _ _ _ _
  · exact State.onlyPager_emit (State.onlyPager_asks (State.onlyPager_deferred h _) _ _ _ _ _) _

theorem State.onlyPager_dropWrite (b a r l : Nat) : s.onlyPager (t.dropWrite b a r l) := by
  have hr := State.onlyPager_recordFault (State.onlyPager_unnote h b a) b a r l
  unfold State.dropWrite
  dsimp only
  split
  · exact hr
  · exact State.onlyPager_report hr _ _ _ _ _

theorem State.onlyPager_devPut (b va : Nat) (bs : List Byte) : s.onlyPager (t.devPut b va bs).2 := by
  unfold State.devPut
  split
  · exact State.onlyPager_unnote h _ _
  · rename_i l _
    have hs := State.onlyPager_settle h b va l
    dsimp only
    split <;> rename_i hp <;> rw [hp] at hs
    · exact State.onlyPager_writeHere hs _ _ _ _
    · split
      · exact State.onlyPager_writeT4 hs _ _ _ _ _
      · exact State.onlyPager_deferred hs _
    · split
      · exact State.onlyPager_writeSpill hs _ _ _ _
      · exact State.onlyPager_deferred hs _
    · exact State.onlyPager_putAway hs _ _ _ _
    · exact State.onlyPager_putAway hs _ _ _ _
    · exact State.onlyPager_deferred hs _
    · exact State.onlyPager_dropWrite hs _ _ _ _
    · exact State.onlyPager_dropWrite hs _ _ _ _
    · exact State.onlyPager_unnote hs _ _

/-- A write of the device's own is work of the pager. -/
theorem State.onlyPager_devWrite (b va : Nat) (bs : List Byte) : s.onlyPager (t.devWrite b va bs) := by
  refine State.onlyPager_foldl₂ (fun a c ha => ?_) _ h
  dsimp only
  split
  · exact State.onlyPager_dropWrite ha _ _ _ _
  · exact State.onlyPager_devPut ha _ _ _

/-! ### What an edit's range held returns to its pools (09 R409 step 5) -/

theorem State.onlyPager_freeFrame (b f : Nat) : s.onlyPager (t.freeFrame b f) := by
  have hf : s.onlyPager ({ t with heat := Sparse.set 0 t.heat f 0 }.setFrame f .free) := State.onlyPager_rest h rfl rfl
  unfold State.freeFrame
  dsimp only
  split
  · exact hf
  · exact State.onlyPager_set hf (by decide) _ _

theorem State.onlyPager_editReturn (x : Edit) : s.onlyPager (t.editReturn x) := by
  have frames := State.onlyPager_foldl (fun u f hu => State.onlyPager_freeFrame hu x.basket f) x.frames h
  have pages := State.onlyPager_foldl (f := fun s i => s.useT4 x.basket i false) (fun u i hu => State.onlyPager_useT4 hu _ _ _) x.t4 frames
  have guests := State.onlyPager_foldl
    (f := fun s g => s.emit (.guestFree (BitVec.ofNat 14 g.1) (BitVec.ofNat 64 (s.basketUid x.basket)) g.2))
    (fun u g hu => State.onlyPager_emit hu _) x.guests pages
  unfold State.editReturn
  dsimp only
  split
  · exact guests
  · exact State.onlyPager_setAll guests _ _ (by simp [pagerFields])

end

/-! ## Objects (R426, R427, R429) -/

theorem State.objAt_of_objects {s t : State} (h : t.objects = s.objects) (b i : Nat) : t.objAt b i = s.objAt b i := by
  rw [State.objAt, State.objTable, h]
  rfl

/-- An object is replaced, and its entry written through. -/
theorem State.setObj_objAt (s : State) (b i : Nat) (e : ObjEntry) : (s.setObj b i e).objAt b i = e := by
  unfold State.setObj
  rw [State.objAt_of_objects (State.onlyPager_devWrite (State.onlyPager_refl _) _ _ _).2]
  simp [State.objAt, State.objTable, State.setObjTable]

theorem State.setObj_copies (s : State) (b i : Nat) (e : ObjEntry) : s.copiesBut (s.setObj b i e) pagerFields :=
  State.copiesBut_trans (State.copiesBut_then (s.copiesBut_refl _) rfl) (State.onlyPager_devWrite (State.onlyPager_refl _) _ _ _).1

/-- From `s` to `t` a draining object has kept its generation and may have become free, and only fields of the pager were written. -/
def State.objReleases (s t : State) (b i : Nat) : Prop :=
  s.copiesBut t pagerFields ∧ (t.objAt b i).generation = (s.objAt b i).generation ∧ ((t.objAt b i).state = 0 ∨ (t.objAt b i).state = 2)

section
variable {s t : State} {b i : Nat}

theorem State.objReleases_of_onlyPager (h : s.onlyPager t) (hs : (s.objAt b i).state = 2) : s.objReleases t b i := by
  rw [State.objReleases, State.objAt_of_objects h.2]
  exact ⟨h.1, rfl, .inr hs⟩

/-- The end of the edit that releases an object makes it free. -/
theorem State.objReleases_editFinish (h : s.onlyPager t) {x : Edit} (hop : x.op = 16) (hb : x.basket = b) (hi : x.rights = i) :
    s.objReleases (t.editFinish x) b i := by
  subst hb hi
  have hset := t.setObj_objAt x.basket x.rights { t.objAt x.basket x.rights with state := 0 }
  have hcopies := State.copiesBut_trans h.1 (t.setObj_copies x.basket x.rights { t.objAt x.basket x.rights with state := 0 })
  unfold State.editFinish
  rw [if_pos hop]
  dsimp only
  generalize State.setObj t x.basket x.rights _ = u at hset hcopies ⊢
  have told : u.onlyPager (if (u.set Fld.PG_TIER_STATUS_released x.basket 1).flag Fld.PG_TIER_STATUS_release_event_en x.basket
      then (u.set Fld.PG_TIER_STATUS_released x.basket 1).report 0x36 x.basket 0 else u.set Fld.PG_TIER_STATUS_released x.basket 1) := by
    have hr := State.onlyPager_set u.onlyPager_refl (f := Fld.PG_TIER_STATUS_released) (by decide) x.basket 1
    split
    · exact State.onlyPager_report hr _ _ _ _ _
    · exact hr
  rw [State.objReleases, State.objAt_of_objects told.2, hset, State.objAt_of_objects h.2]
  exact ⟨State.copiesBut_trans hcopies told.1, rfl, .inl rfl⟩

/-- The edit that releases a draining object, as far as it goes. -/
theorem State.objReleases_rangeRun (hs : (s.objAt b i).state = 2) {x : Edit} (hop : x.op = 16) (hb : x.basket = b) (hi : x.rights = i)
    (hm : x.moving = true) : s.objReleases (s.rangeRun x) b i := by
  cases hh : s.editHeld x with
  | true =>
    rw [State.rangeRun_of_held hm hh]
    exact State.objReleases_of_onlyPager (State.onlyPager_rest s.onlyPager_refl rfl rfl) hs
  | false =>
    obtain ⟨hx, ht⟩ := s.editTaken_goneOn x
    obtain ⟨-, ho, hr⟩ := Edit.goneOn_order hx
    have taken := State.onlyPager_entries s.onlyPager_refl ht
    rw [State.rangeRun_of_free (by rw [hh, Bool.and_false])]
    split
    · exact State.objReleases_of_onlyPager (State.onlyPager_rest taken rfl rfl) hs
    · exact State.objReleases_editFinish (State.onlyPager_editReturn taken _) (ho.trans hop) ((Edit.goneOn_range hx).1.trans hb) (hr.trans hi)

theorem State.objReleases_releaseObject (hs : (s.objAt b i).state = 2) : s.objReleases (s.releaseObject b i) b i := by
  unfold State.releaseObject
  dsimp only
  split
  · exact State.objReleases_rangeRun hs rfl rfl rfl rfl
  · exact State.objReleases_of_onlyPager s.onlyPager_refl hs

end

section
variable {s w : State} {x : Edit} {d : DevRead} {asked : List Nat}

/-! ### An edit of the object table -/

theorem State.objRun_of_away (h : s.tableReady x.basket x.got x.asked = (.away, asked, w)) :
    s.objRun x = { w with edits := w.edits ++ [{ x with asked := asked }] } := by
  simp only [State.objRun, h]

theorem State.objRun_of_failed (h : s.tableReady x.basket x.got x.asked = (d, asked, w)) (ha : d ≠ .away) (hn : ∀ bs, d ≠ .ok bs) :
    s.objRun x = w.editError x.part 6 := by
  cases d with
  | ok bs => exact absurd rfl (hn bs)
  | away => exact absurd rfl ha
  | fault va r l => simp only [State.objRun, h]
  | poison va => simp only [State.objRun, h]
  | lost m va => simp only [State.objRun, h]

theorem State.objRun_of_ready {bs : List Byte} (h : s.tableReady x.basket x.got x.asked = (.ok bs, asked, w)) :
    s.objRun x = if x.op = 3 then w.objCreate x else w.objFree x := by
  simp only [State.objRun, h]

theorem State.objCreate_of_taken (h : s.get Fld.PG_OBJ_ENTRIES_entries x.basket ≤ x.rights ∨ (s.objAt x.basket x.rights).state ≠ 0) :
    s.objCreate x = s.editError x.part 3 := if_pos h

theorem State.objCreate_of_free (hr : x.rights < s.get Fld.PG_OBJ_ENTRIES_entries x.basket) (hs : (s.objAt x.basket x.rights).state = 0)
    {g : Nat} (hg : g = ((s.objAt x.basket x.rights).generation + 1) % 2 ^ 32) :
    s.objCreate x = if s.objOverlap x.basket x.va x.pages then s.editError x.part 2
      else ((s.setObj x.basket x.rights { generation := g, state := 1, base := x.va, pages := x.pages, pins := 0 }).set
        Fld.XL_EDIT_GEN_generation x.part g).editDone x.part := by
  subst hg
  exact if_neg (by omega)

theorem State.objFree_of_other (h : s.get Fld.PG_OBJ_ENTRIES_entries x.basket ≤ x.rights ∨ (s.objAt x.basket x.rights).state ≠ 1 ∨
    (s.objAt x.basket x.rights).generation ≠ x.gen) : s.objFree x = s.editError x.part 3 := if_pos h

theorem State.objFree_of_live (hr : x.rights < s.get Fld.PG_OBJ_ENTRIES_entries x.basket) (hs : (s.objAt x.basket x.rights).state = 1)
    (he : (s.objAt x.basket x.rights).generation = x.gen) {g : Nat} (hg : g = ((s.objAt x.basket x.rights).generation + 1) % 2 ^ 32) :
    s.objFree x = ((s.setObj x.basket x.rights { s.objAt x.basket x.rights with generation := g, state := 2 }).editDone
      x.part).releaseObject x.basket x.rights := by
  subst hg
  exact if_neg (by omega)

/-- What a created object's edit leaves: the generation shown, the edit done, and no other field written since the entry was. -/
theorem State.created_fields (s : State) (p : Nat) {g : Nat} (hg : g < 2 ^ 32) {t : State}
    (ht : t = (s.set Fld.XL_EDIT_GEN_generation p g).editDone p) : t.get Fld.XL_EDIT_GEN_generation p = g ∧
      t.get Fld.XL_EDIT_CMD_done p = 1 ∧ t.get Fld.XL_EDIT_CMD_busy p = 0 ∧
      s.onlyFields t [(Fld.XL_EDIT_GEN_generation, p), (Fld.XL_EDIT_CMD_busy, p), (Fld.XL_EDIT_CMD_done, p)] := by
  subst ht
  obtain ⟨hdone, hidle⟩ := State.editDone_get (s.set Fld.XL_EDIT_GEN_generation p g) p
  have hgen : ((s.set Fld.XL_EDIT_GEN_generation p g).editDone p).get Fld.XL_EDIT_GEN_generation p = g % 2 ^ 32 :=
    ((State.get_set_field _ (by decide) ..).trans (State.get_set_field _ (by decide) ..)).trans (State.get_set_same ..)
  exact ⟨hgen.trans (Nat.mod_eq_of_lt hg), hdone, hidle, State.onlyFields_set (State.onlyFields_set (State.onlyFields_set
    (s.onlyFields_refl _) (by simp) _) (by simp) _) (by simp) _⟩

/-- A freed object's edit is done, and the object has its new generation, free or draining. -/
theorem State.freed_done (s : State) (b i p : Nat) (e : ObjEntry) (he : e.state = 2) {t : State}
    (ht : t = ((s.setObj b i e).editDone p).releaseObject b i) : t.get Fld.XL_EDIT_CMD_done p = 1 ∧ t.get Fld.XL_EDIT_CMD_busy p = 0 ∧
      (t.objAt b i).generation = e.generation ∧ ((t.objAt b i).state = 0 ∨ (t.objAt b i).state = 2) := by
  have hobj : ((s.setObj b i e).editDone p).objAt b i = e := s.setObj_objAt b i e
  obtain ⟨hdone, hidle⟩ := State.editDone_get (s.setObj b i e) p
  obtain ⟨hcopies, hgen, hstate⟩ := State.objReleases_releaseObject (hobj.symm ▸ he)
  rw [hobj] at hgen
  rw [ht, State.copiesBut_get hcopies (by decide), State.copiesBut_get hcopies (by decide)]
  exact ⟨hdone, hidle, hgen, hstate⟩

/-! ## Edits of a range (R409, log entry 97) -/

/-- An edit of a range is done, or waits with its range and its order. -/
theorem State.rangeRun_done_or_waits (hop : x.op ≠ 16) :
    ((s.rangeRun x).get Fld.XL_EDIT_CMD_done x.part = 1 ∧ (s.rangeRun x).get Fld.XL_EDIT_CMD_busy x.part = 0) ∨
      ∃ e ∈ (s.rangeRun x).edits, x.goneOn e := by
  cases hh : (x.moving && s.editHeld x) with
  | true =>
    obtain ⟨hm, hh⟩ := Bool.and_eq_true_iff.1 hh
    rw [State.rangeRun_of_held hm hh]
    exact .inr ⟨x, List.mem_append_right _ (List.mem_singleton_self x), rfl⟩
  | false =>
    have hx := (s.editTaken_goneOn x).1
    obtain ⟨hp, ho, -⟩ := Edit.goneOn_order hx
    rw [State.rangeRun_of_free hh]
    split
    · exact .inr ⟨_, List.mem_append_right _ (List.mem_singleton_self _), hx⟩
    · rw [State.editFinish_of_edit _ (ho ▸ hop), hp]
      exact .inl (State.editDone_get _ _)

theorem Edit.covers_eq_false {va : Nat} (h : va < x.va ∨ x.va + x.pages * 65536 ≤ va) : x.covers va = false := by
  simp only [Edit.covers, Bool.and_eq_false_iff, decide_eq_false_iff_not]
  omega

/-- No entry of the basket is left in a TLB that maps a page of the range that is dropped. -/
theorem State.dropTlb_apart (s : State) (b va pages : Nat) :
    ∀ e ∈ (s.dropTlb b va pages).tlb1 ++ (s.dropTlb b va pages).tlb2, ∀ x ∈ e.2, x.basket = b →
      va + pages * 65536 ≤ x.page * 2 ^ x.shift ∨ (x.page + 1) * 2 ^ x.shift ≤ va := by
  intro e he x hx hb
  have kept : ∃ l : List TlbEntry, x ∈ l.filter (fun e => !(e.basket == b && decide (e.page * 2 ^ e.shift < va + pages * 65536) &&
      decide (va < (e.page + 1) * 2 ^ e.shift))) := by
    rcases List.mem_append.1 he with he | he
    all_goals
      obtain ⟨c, -, rfl⟩ := List.mem_map.1 (List.mem_filter.1 he).1
      exact ⟨c.2, hx⟩
  obtain ⟨l, hl⟩ := kept
  have hit := (List.mem_filter.1 hl).2
  simp only [hb, beq_self_eq_true, Bool.true_and, Bool.not_eq_true', Bool.and_eq_false_iff, decide_eq_false_iff_not] at hit
  omega

theorem State.dropTlb_walkCache (s : State) (b va pages : Nat) : ∀ e ∈ (s.dropTlb b va pages).walkCache, ∀ x ∈ e.2, x.basket ≠ b := by
  intro e he x hx
  obtain ⟨c, -, rfl⟩ := List.mem_map.1 (List.mem_filter.1 he).1
  simpa using (List.mem_filter.1 hx).2

/-- `t` agrees with `s` but in seals, registers and what is sent. -/
def State.sealsRest (s t : State) : Prop := { t with regs := s.regs, seals := s.seals, outbox := s.outbox } = s

theorem State.breakSeals_sealsRest (s : State) (b va n : Nat) : s.sealsRest (s.breakSeals b va n) := by
  refine List.foldlRecOn (motive := s.sealsRest) _ _ rfl (fun t ht i _ => ?_)
  exact List.foldlRecOn (motive := s.sealsRest) _ _ ht (fun u hu m _ => hu)

/-- An edit that holds nothing gives nothing back: the KV pool's pages are counted. -/
theorem State.editReturn_asksRest (hf : x.frames = []) (h4 : x.t4 = []) (hg : x.guests = []) : s.asksRest (s.editReturn x) := by
  simp only [State.editReturn, hf, h4, hg, List.foldl_nil]
  split
  · exact s.asksRest_refl
  · exact s.setAll_asksRest _ _

/-- A range clear of what an INVALIDATE waits for: what caches hold of it is dropped, its seals are broken, and the edit is done. -/
theorem State.rangeRun_invalidate (h : s.rangeClear x) (hop : x.op = 0) (hm : x.moving = true) (hf : x.frames = []) (h4 : x.t4 = [])
    (hg : x.guests = []) : ((s.dropTlb x.basket x.va x.pages).breakSeals x.basket x.va (x.pages * 65536)).asksRest (s.rangeRun x) := by
  have taken : s.editTaken x =
      ({ x with moving := false }, (s.dropTlb x.basket x.va x.pages).breakSeals x.basket x.va (x.pages * 65536)) := by
    simp [State.editTaken, State.editApply, hm, hop]
  rw [State.rangeRun_of_clear h, taken, State.editFinish_of_edit _ (by simp [hop])]
  exact State.asksRest_trans (State.editReturn_asksRest hf h4 hg) (State.setAll_asksRest _ _ _)

theorem State.sealsRest_bytesSame (h : s.sealsRest w) : s.bytesSame w := by
  rw [← h]
  exact fun _ => ⟨rfl, rfl, rfl, rfl, rfl⟩

theorem State.sealsRest_caches (h : s.sealsRest w) : w.tlb1 = s.tlb1 ∧ w.tlb2 = s.tlb2 ∧ w.walkCache = s.walkCache := by
  rw [← h]
  exact ⟨rfl, rfl, rfl⟩

theorem State.asksRest_caches (h : s.asksRest w) : w.tlb1 = s.tlb1 ∧ w.tlb2 = s.tlb2 ∧ w.walkCache = s.walkCache := by
  rw [← h]
  exact ⟨rfl, rfl, rfl⟩

/-- Such an INVALIDATE leaves no cached translation of the range and no walk entry of the basket, and every byte as it was. -/
theorem State.rangeRun_invalidate_drops
    (h : ((s.dropTlb x.basket x.va x.pages).breakSeals x.basket x.va (x.pages * 65536)).asksRest w) :
    (∀ e ∈ w.tlb1 ++ w.tlb2, ∀ y ∈ e.2, y.basket = x.basket →
      x.va + x.pages * 65536 ≤ y.page * 2 ^ y.shift ∨ (y.page + 1) * 2 ^ y.shift ≤ x.va) ∧
      (∀ e ∈ w.walkCache, ∀ y ∈ e.2, y.basket ≠ x.basket) ∧ s.bytesSame w := by
  have hseals := (s.dropTlb x.basket x.va x.pages).breakSeals_sealsRest x.basket x.va (x.pages * 65536)
  have hbytes := State.sealsRest_bytesSame hseals
  obtain ⟨h1, h2, hw⟩ := State.asksRest_caches h
  obtain ⟨g1, g2, gw⟩ := State.sealsRest_caches hseals
  rw [h1, h2, hw, g1, g2, gw]
  exact ⟨s.dropTlb_apart _ _ _, s.dropTlb_walkCache _ _ _, State.bytesSame_trans hbytes (State.asksRest_bytesSame h)⟩

end
/-! ## The write of XL_EDIT_CMD (00 R2; R438) -/

section
variable {s u : State} {op v : Nat} {p : Fin 32} {f : State → State}

theorem State.editStore_asksRest (s : State) (p v : Nat) : s.asksRest (s.editStore p v) := by
  unfold State.editStore
  dsimp only
  have h := s.setAll_asksRest p [(Fld.XL_EDIT_CMD_op, bitsOf v 0 4), (Fld.XL_EDIT_CMD_basket_index, bitsOf v 4 6),
    (Fld.XL_EDIT_CMD_rights, bitsOf v 10 3)]
  generalize s.setAll p _ = t at h ⊢
  split <;> split <;> exact h

theorem State.editCmd_of_not_taken (h : s.agentAsleep (.host p) = true ∨ v % 16 ≠ op) : s.editCmd op p v f = s := if_pos h

variable (ha : s.agentAsleep (.host p) = false) (hop : v % 16 = op) (hu : u = s.editStore p v)
include ha hop hu

/-- A write of the command by its function is stored; then it is refused by code, or performed. -/
theorem State.editCmd_of_taken : s.editCmd op p v f =
    if s.flag Fld.XL_EDIT_CMD_busy p = true ∨ (!bitOf v 16) = true then u
    else if bitsOf v 13 3 ≠ 0 ∨ bitsOf v 24 8 ≠ 0 then u.editError p 4
    else if u.basketOwner (u.editBasket p) ≠ some p.val then u.editError p 1
    else if (decide (u.editCount p = 0) && op != 4) = true then u.editError p 4
    else f u := by
  subst hu
  exact if_neg (by simp [ha, hop])

theorem State.editCmd_of_stored (h : bitOf v 16 = false ∨ s.flag Fld.XL_EDIT_CMD_busy p = true) : s.editCmd op p v f = u := by
  rw [State.editCmd_of_taken ha hop hu, if_pos]
  rcases h with h | h <;> simp [h]

variable (hgo : bitOf v 16 = true) (hb : s.flag Fld.XL_EDIT_CMD_busy p = false)
include hgo hb

/-- A reserved bit written with go refuses the edit. -/
theorem State.editCmd_of_reserved (h : bitsOf v 13 3 ≠ 0 ∨ bitsOf v 24 8 ≠ 0) : s.editCmd op p v f = u.editError p 4 := by
  rw [State.editCmd_of_taken ha hop hu, if_neg (by simp [hgo, hb]), if_pos h]

variable (h13 : bitsOf v 13 3 = 0) (h24 : bitsOf v 24 8 = 0)
include h13 h24

theorem State.editCmd_of_foreign (h : u.basketOwner (u.editBasket p) ≠ some p.val) : s.editCmd op p v f = u.editError p 1 := by
  rw [State.editCmd_of_taken ha hop hu, if_neg (by simp [hgo, hb]), if_neg (by simp [h13, h24]), if_pos h]

variable (ho : u.basketOwner (u.editBasket p) = some p.val)
include ho

theorem State.editCmd_of_empty (hn : u.editCount p = 0) (h4 : op ≠ 4) : s.editCmd op p v f = u.editError p 4 := by
  rw [State.editCmd_of_taken ha hop hu, if_neg (by simp [hgo, hb]), if_neg (by simp [h13, h24]), if_neg (by simp [ho]),
    if_pos (by simp [hn, h4])]

theorem State.editCmd_of_performed (hn : u.editCount p ≠ 0 ∨ op = 4) : s.editCmd op p v f = f u := by
  rw [State.editCmd_of_taken ha hop hu, if_neg (by simp [hgo, hb]), if_neg (by simp [h13, h24]), if_neg (by simp [ho]), if_neg]
  rcases hn with hn | hn <;> simp [hn]

end

/-- Each edit is a write of XL_EDIT_CMD with its own op. -/
theorem exec_edit (p : Fin 32) (v : Word32) (s : State) :
    ∀ x ∈ [(0, Instr.editInvalidate p v), (1, .editUnmap p v), (2, .editSetRights p v), (3, .editObjCreate p v), (4, .editObjFree p v),
      (5, .editFrameReserve p v), (6, .editFrameRelease p v)], ∃ f, exec x.2 s = .next (s.editCmd x.1 p v.toNat f) := by
  simp only [List.forall_mem_cons]
  exact ⟨⟨_, rfl⟩, ⟨_, rfl⟩, ⟨_, rfl⟩, ⟨_, rfl⟩, ⟨_, rfl⟩, ⟨_, rfl⟩, ⟨_, rfl⟩, fun _ h => absurd h (List.not_mem_nil)⟩

/-- The three edits of a range take theirs on. -/
theorem exec_editRange (p : Fin 32) (v : Word32) (s : State) :
    ∀ x ∈ [(0, Instr.editInvalidate p v), (1, .editUnmap p v), (2, .editSetRights p v)],
      exec x.2 s = .next (s.editCmd x.1 p v.toNat (fun s => s.editRange x.1 p)) ∧ x.1 ≠ 16 := by
  simp only [List.forall_mem_cons]
  exact ⟨⟨rfl, by decide⟩, ⟨rfl, by decide⟩, ⟨rfl, by decide⟩, fun _ h => absurd h (List.not_mem_nil)⟩

/-! ## Frames (R394) -/

/-- Frames are given one use. -/
def State.framesTo (s : State) (fs : List Nat) (use : FrameUse) : State := fs.foldl (fun s f => s.setFrame f use) s

theorem State.framesTo_eq (s : State) (fs : List Nat) (use : FrameUse) : ∃ m, s.framesTo fs use = { s with frames := m } := by
  unfold State.framesTo
  induction fs generalizing s with
  | nil => exact ⟨s.frames, rfl⟩
  | cons f fs ih => exact ih (s.setFrame f use)

theorem State.frameUse_framesTo (s : State) (fs : List Nat) (use : FrameUse) (f : Nat) :
    (s.framesTo fs use).frameUse f = if f ∈ fs then use else s.frameUse f := by
  unfold State.framesTo
  induction fs generalizing s with
  | nil => rfl
  | cons g fs ih =>
    have hg : (s.setFrame g use).frameUse f = if f = g then use else s.frameUse f := Sparse.get_set ..
    rw [List.foldl_cons, ih, hg]
    by_cases h : f ∈ fs <;> by_cases he : f = g <;> simp [h, he]

section
variable {s u : State} {p : Fin 32} {v : Word32}

/-- What a frame edit makes of the frames it names, and of the count of free ones. -/
theorem State.framesMoved (u : State) (p : Nat) (fs : List Nat) (use : FrameUse) (b n : Nat) {t : State}
    (ht : t = ((u.framesTo fs use).set Fld.PG_FREE_FRAMES_frames b n).set Fld.XL_EDIT_CMD_done p 1) :
    (∀ f, t.frameUse f = if f ∈ fs then use else u.frameUse f) ∧ t.get Fld.PG_FREE_FRAMES_frames b = n % 2 ^ 24 ∧
      t.get Fld.XL_EDIT_CMD_done p = 1 ∧ u.fieldsBut t [(Fld.PG_FREE_FRAMES_frames, b), (Fld.XL_EDIT_CMD_done, p)] ∧
      { t with regs := u.regs, frames := u.frames } = u := by
  have huse := u.frameUse_framesTo fs use
  obtain ⟨m, hm⟩ := u.framesTo_eq fs use
  rw [hm] at huse ht
  subst ht
  exact ⟨huse, (State.get_set_field _ (by decide) ..).trans (State.get_set_same ..), State.get_set_same ..,
    State.fieldsBut_set (State.fieldsBut_set (State.fieldsBut_of_regs rfl) (by simp) _) (by simp) _, rfl⟩

theorem execEditFrameReserve_of_performed (h : ∀ f, s.editCmd 5 p v.toNat f = f u) : execEditFrameReserve p v s = .next
    (if !u.framesInPiece (u.editBasket p) (u.editFrames p) then u.editError p 1
    else if !(u.editFrames p).all (fun f => u.frameUse f == .free) ∨
        u.get Fld.PG_FREE_FRAMES_frames (u.editBasket p) < u.counted (u.editFrames p) then u.editError p 5
    else ((u.framesTo (u.editFrames p) .reserved).set Fld.PG_FREE_FRAMES_frames (u.editBasket p)
      ((u.framesTo (u.editFrames p) .reserved).get Fld.PG_FREE_FRAMES_frames (u.editBasket p) -
        (u.framesTo (u.editFrames p) .reserved).counted (u.editFrames p))).set Fld.XL_EDIT_CMD_done p 1) :=
  congrArg Host.Outcome.next (h _)

theorem execEditFrameRelease_of_performed (h : ∀ f, s.editCmd 6 p v.toNat f = f u) : execEditFrameRelease p v s = .next
    (if !u.framesInPiece (u.editBasket p) (u.editFrames p) then u.editError p 1
    else if !(u.editFrames p).all (fun f => u.frameUse f == .reserved) then u.editError p 5
    else ((u.framesTo (u.editFrames p) .free).set Fld.PG_FREE_FRAMES_frames (u.editBasket p)
      ((u.framesTo (u.editFrames p) .free).get Fld.PG_FREE_FRAMES_frames (u.editBasket p) +
        (u.framesTo (u.editFrames p) .free).counted (u.editFrames p))).set Fld.XL_EDIT_CMD_done p 1) :=
  congrArg Host.Outcome.next (h _)

/-- What frames are used for does not bear on how many of them are counted. -/
theorem State.framesTo_count (u : State) (fs gs : List Nat) (use : FrameUse) (b : Nat) :
    (u.framesTo fs use).get Fld.PG_FREE_FRAMES_frames b = u.get Fld.PG_FREE_FRAMES_frames b ∧
      (u.framesTo fs use).counted gs = u.counted gs := by
  obtain ⟨m, hm⟩ := u.framesTo_eq fs use
  rw [hm]
  exact ⟨rfl, rfl⟩

end

/-! ## The obligation -/

/-- Settles O41: each command through the write of XL_EDIT_CMD and the equations of its cases; an INVALIDATE ends since what it changes is not
what it waits for, and a freed object keeps its generation since the pager's work writes neither objects nor the command's register. -/
theorem editsTakeOrderAndReportErrors : Obligations.EditsTakeOrderAndReportErrors := by
  intro s p v u b h n a hu hb hh hn ha
  subst hb hh hn ha
  refine ⟨fun x hx => ?refused, fun hawake hbusy hgo h13 h24 howner => ?_⟩
  case refused =>
    obtain ⟨f, he⟩ := exec_edit p v s x hx
    rw [he]
    exact ⟨fun h => congrArg _ (State.editCmd_of_not_taken h), fun hawake hop =>
      ⟨fun h => congrArg _ (State.editCmd_of_stored hawake hop hu h), fun hgo hbusy =>
        ⟨fun h => congrArg _ (State.editCmd_of_reserved hawake hop hu hgo hbusy h), fun h13 h24 =>
          ⟨fun h => congrArg _ (State.editCmd_of_foreign hawake hop hu hgo hbusy h13 h24 h),
            fun ho hn h4 => congrArg _ (State.editCmd_of_empty hawake hop hu hgo hbusy h13 h24 ho hn h4)⟩⟩⟩⟩
  have performed : ∀ op, v.toNat % 16 = op → u.editCount p ≠ 0 ∨ op = 4 → ∀ f, s.editCmd op p v.toNat f = f u := fun op hop hn f =>
    State.editCmd_of_performed hawake hop hu hgo hbusy h13 h24 howner hn
  refine ⟨fun hn x hx hop => ?range, fun hn hop hm ho hd hw => ?invalidate, fun d asked w hready => ⟨fun hn hop => ?create, fun hop => ?free⟩,
    fun hn => ?frames, fun hn hop hp hf => ⟨fun hc => ?short, fun hc => ?reserve⟩, fun hn hop hp hf => ?release⟩
  case range =>
    obtain ⟨he, h16⟩ := exec_editRange p v s x hx
    have hrun := he.trans (congrArg _ (performed x.1 hop (.inl hn) _))
    refine ⟨hrun, _, hrun, (State.rangeRun_done_or_waits h16).imp id ?_⟩
    rintro ⟨e, hmem, hgone⟩
    obtain ⟨hpart, hop, -⟩ := Edit.goneOn_order hgone
    obtain ⟨hbasket, hva, hpages⟩ := Edit.goneOn_range hgone
    exact ⟨e, hmem, hpart, hop, hbasket, hva, hpages⟩
  case invalidate =>
    have hrun : exec (.editInvalidate p v) s = .next (u.editRange 0 p) := congrArg Host.Outcome.next (performed 0 hop (.inl hn) _)
    have hslot : ∀ k, (u.set Fld.XL_EDIT_CMD_busy p 1).slotBasket k = u.slotBasket k := fun k => State.get_set_field _ (by decide) ..
    have clear : (u.set Fld.XL_EDIT_CMD_busy p 1).rangeClear
        (Edit.begin p 0 (u.editBasket p) (u.editAddr p) (u.editCount p) (u.get Fld.XL_EDIT_CMD_rights p) 0) :=
      ⟨fun m hmem hb => Edit.covers_eq_false (hm m hmem hb), fun d hmem hb ha => Edit.covers_eq_false (hd d hmem hb ha),
        fun e hmem hb o hop => List.any_eq_false.2 fun g hg => Bool.eq_false_iff.1
          (Edit.covers_eq_false (ho e hmem ((hslot e.1).symm.trans hb) o hop g hg)), hw⟩
    obtain ⟨hdone, hidle⟩ := State.rangeRun_done clear (Nat.zero_ne_add_one 15)
    obtain ⟨htlb, hwalk, hbytes⟩ := State.rangeRun_invalidate_drops (State.rangeRun_invalidate clear rfl rfl rfl rfl rfl)
    have stored : s.asksRest (u.set Fld.XL_EDIT_CMD_busy p 1) :=
      State.asksRest_trans (hu ▸ s.editStore_asksRest p v.toNat) (u.set_asksRest _ _ _)
    exact ⟨_, hrun, hdone, hidle, htlb, hwalk, State.bytesSame_trans (State.asksRest_bytesSame stored) hbytes⟩
  case create =>
    have hrun : exec (.editObjCreate p v) s = .next (u.editObject 3 p) := congrArg Host.Outcome.next (performed 3 hop (.inl hn) _)
    refine ⟨fun hd => ?_, fun hd hn => hrun.trans (congrArg _ (State.objRun_of_failed hready hd hn)), fun bs hd => ?_⟩
    · subst hd
      exact hrun.trans (congrArg _ (State.objRun_of_away hready))
    · subst hd
      replace hrun := hrun.trans (congrArg _ (State.objRun_of_ready hready))
      refine ⟨fun ht => hrun.trans (congrArg _ (State.objCreate_of_taken ht)), fun hr hs ho => ?_, fun hr hs ho g hg => ?_⟩
      · exact hrun.trans (congrArg _ ((State.objCreate_of_free hr hs rfl).trans (if_pos ho)))
      · replace hrun := hrun.trans (congrArg _ (State.objCreate_of_free hr hs hg))
        rw [if_neg (Bool.not_eq_true _ ▸ ho)] at hrun
        exact ⟨_, hrun, State.created_fields _ p (hg ▸ Nat.mod_lt _ (by decide)) rfl⟩
  case free =>
    have hrun : exec (.editObjFree p v) s = .next (u.editObject 4 p) := congrArg Host.Outcome.next (performed 4 hop (.inr rfl) _)
    refine ⟨fun hd => ?_, fun hd hn => hrun.trans (congrArg _ (State.objRun_of_failed hready hd hn)), fun bs hd => ?_⟩
    · subst hd
      exact hrun.trans (congrArg _ (State.objRun_of_away hready))
    · subst hd
      replace hrun := hrun.trans (congrArg _ (State.objRun_of_ready hready))
      refine ⟨fun ht => hrun.trans (congrArg _ (State.objFree_of_other ht)), fun hr hs he g hg => ?_⟩
      replace hrun := hrun.trans (congrArg _ (State.objFree_of_live hr hs he hg))
      exact ⟨hrun, _, hrun, State.freed_done _ _ _ _ _ rfl rfl⟩
  case frames =>
    simp only [List.forall_mem_cons]
    refine ⟨fun hop => ?_, fun hop => ?_, fun _ h => absurd h (List.not_mem_nil)⟩
    · have hrun := execEditFrameReserve_of_performed (performed 5 hop (.inl hn))
      refine ⟨fun hp => hrun.trans (congrArg _ (if_pos (by simp [hp]))), fun hp hf => ?_⟩
      exact hrun.trans (congrArg _ ((if_neg (by simp [hp])).trans (if_pos (.inl (by simpa using hf)))))
    · have hrun := execEditFrameRelease_of_performed (performed 6 hop (.inl hn))
      refine ⟨fun hp => hrun.trans (congrArg _ (if_pos (by simp [hp]))), fun hp hf => ?_⟩
      exact hrun.trans (congrArg _ ((if_neg (by simp [hp])).trans (if_pos (by simpa using hf))))
  case short =>
    refine (execEditFrameReserve_of_performed (performed 5 hop (.inl hn))).trans (congrArg _ ?_)
    exact (if_neg (by simp [hp])).trans (if_pos (.inr hc))
  case reserve =>
    have hrun := execEditFrameReserve_of_performed (performed 5 hop (.inl hn))
    rw [if_neg (by simp [hp]), if_neg (by simpa using ⟨hf, hc⟩)] at hrun
    obtain ⟨hfree, hcount⟩ := u.framesTo_count (u.editFrames p) (u.editFrames p) .reserved (u.editBasket p)
    rw [hfree, hcount] at hrun
    exact ⟨_, hrun, u.framesMoved p _ _ _ _ rfl⟩
  case release =>
    have hrun := execEditFrameRelease_of_performed (performed 6 hop (.inl hn))
    rw [if_neg (by simp [hp]), if_neg (by simpa using hf)] at hrun
    obtain ⟨hfree, hcount⟩ := u.framesTo_count (u.editFrames p) (u.editFrames p) .free (u.editBasket p)
    rw [hfree, hcount] at hrun
    exact ⟨_, hrun, u.framesMoved p _ _ _ _ rfl⟩

end Sys2Proof.Machine

/-! How flits are received, released by their seal, replayed, and sent where nothing else is (10 R445 to R455; 12 R579): what reading a
port gives after an update, what a report counts, and the commands of a link. -/

namespace Sys2Proof.Machine

/-! ## A port's part of the state -/

@[simp] theorem State.portAt_setPort_same (s : State) (p : Nat) (x : Port) : (s.setPort p x).portAt p = x := Sparse.get_set_same _ _ _ _

theorem State.portAt_setPort_other (s : State) {p k : Nat} (h : k ≠ p) (x : Port) : (s.setPort p x).portAt k = s.portAt k :=
  Sparse.get_set_other _ _ h _

@[simp] theorem State.portAt_set (s : State) (f : Field) (i v p : Nat) : (s.set f i v).portAt p = s.portAt p := rfl

@[simp] theorem State.portAt_emit (s : State) (x : Sent) (p : Nat) : (s.emit x).portAt p = s.portAt p := rfl

@[simp] theorem State.portAt_count (s : State) (f : Field) (i : Nat) (w : Field) (wi k n p : Nat) :
    (s.count f i w wi k n).portAt p = s.portAt p := by
  rw [State.portAt, State.count_ports, ← State.portAt]

@[simp] theorem State.portAt_setAll (s : State) (i : Nat) (l : List (Field × Nat)) (p : Nat) : (s.setAll i l).portAt p = s.portAt p := by
  rw [State.portAt, State.setAll_ports, ← State.portAt]

theorem State.setPort_bytesSame (s : State) (p : Nat) (x : Port) : s.bytesSame (s.setPort p x) := fun _ => ⟨rfl, rfl, rfl, rfl, rfl⟩

/-- A fault report leaves the ports beside their registers. -/
theorem State.reportRest_portAt {s t : State} (h : s.reportRest t) (p : Nat) : t.portAt p = s.portAt p := by
  rw [← h]
  rfl

@[simp] theorem State.portAt_report (s : State) (f i info : Nat) (rail forced : Bool) (p : Nat) :
    (s.report f i info rail forced).portAt p = s.portAt p := State.reportRest_portAt (s.report_reportRest ..) p

/-- A field at another place than a counter and its wrap bits reads as before. -/
theorem State.get_count_field (s : State) {f w g : Field} (hf : (g.reg * 32 + g.lo) % 16384 ≠ (f.reg * 32 + f.lo) % 16384)
    (hw : (g.reg * 32 + g.lo) % 16384 ≠ (w.reg * 32 + w.lo) % 16384) (i wi k n j : Nat) : (s.count f i w wi k n).get g j = s.get g j := by
  unfold State.count
  dsimp only
  split
  · exact s.get_set_field hf _ _ _
  · exact (State.get_set_field _ hw _ _ _).trans (s.get_set_field hf _ _ _)

theorem State.reportRest_bytesSame {s t : State} (h : s.reportRest t) : s.bytesSame t := by
  rw [← h]
  exact fun _ => ⟨rfl, rfl, rfl, rfl, rfl⟩

/-! ## What a report counts (14 R629) -/

/-- The fields of a family's status beside the count of its reports. -/
def statusShown : List Field := statusFields.drop 1

/-- A report's status is its count, and then what shows of the report. -/
theorem State.statusReport_shown (s : State) (f i info : Nat) (rail forced : Bool) :
    (s.bump Fld.FC_SRC_COUNT_count f).copiesBut (s.statusReport f i info rail forced) statusShown := by
  unfold State.statusReport
  dsimp only
  generalize s.bump Fld.FC_SRC_COUNT_count f = counted
  have shows : ∀ (c : Bool) (t : State) (g : Field), g ∈ statusShown → counted.copiesBut t statusShown →
      counted.copiesBut (if c = true then t.set g f 1 else t) statusShown := by
    intro c t g hg ht
    split
    · exact State.copiesBut_set ht hg _ _
    · exact ht
  have h1 : counted.copiesBut (counted.setAll f [(Fld.FC_SRC_STATUS_pending, 1), (Fld.FC_SRC_STATUS_last_instance, i),
      (Fld.FC_SRC_INFO_info, info)]) statusShown :=
    State.copiesBut_setAll (State.copiesBut_refl _ _) f _ (by simp [statusShown, statusFields])
  have h2 := shows forced _ Fld.FC_SRC_STATUS_forced (by decide) (shows rail _ Fld.FC_SRC_STATUS_rail (by decide) h1)
  generalize (if forced = true then _ else _ : State) = u at h2 ⊢
  have h3 : counted.copiesBut (if u.demotedInst f i = true then u.set Fld.FC_SRC_STATUS_demoted f 1
      else { u with fc := { u.fc with lastReport := Sparse.set 0 u.fc.lastReport f u.time } }) statusShown := by
    split
    · exact State.copiesBut_set h2 (by decide) _ _
    · exact State.copiesBut_then h2 rfl
  generalize (if u.demotedInst f i = true then _ else _ : State) = v at h3 ⊢
  split
  · exact State.copiesBut_then h3 rfl
  · exact State.copiesBut_then h3 (State.errRise_regs _ _)

/-- What a report writes once its status is written. -/
theorem State.report_after_status (s : State) (f i info : Nat) (rail forced : Bool) : ∃ u : State, s.copiesBut u logFields ∧
    (u.statusReport f i info rail forced).copiesBut (s.report f i info rail forced) (noticeFields ++ (actionFields ++ errFields)) := by
  refine ⟨_, s.logReport_copies f i info rail forced (s.instanceOwners f i), ?_⟩
  unfold State.report
  dsimp only
  generalize (s.logReport f i info rail forced (s.instanceOwners f i)).statusReport f i info rail forced = status
  have h1 := State.copiesBut_foldl (fun t p => t.notice p f i info (t.severity f)) (fun t p ht => State.notice_copies ht _ _ _ _ _)
    (if (s.instanceOwners f i).isEmpty then s.partitions else s.instanceOwners f i) (State.copiesBut_refl status noticeFields)
  generalize List.foldl _ status _ = noticed at h1 ⊢
  have h2 := State.severityAction_copies (State.copiesBut_refl noticed _) f i (s.instanceOwners f i)
  generalize noticed.severityAction f i _ = acted at h2 ⊢
  have h3 : acted.copiesBut (if f = 0x46 then acted.startRimRestart else acted) actionFields := by
    split
    · exact State.copiesBut_set (State.copiesBut_then (State.copiesBut_refl _ _) rfl) (by decide) _ _
    · exact State.copiesBut_refl _ _
  generalize (if f = 0x46 then acted.startRimRestart else acted) = restarted at h3 ⊢
  have h4 := State.driveErr_copies (State.copiesBut_refl restarted errFields)
  exact State.copiesBut_trans (State.copiesBut_mono h1 (by decide)) (State.copiesBut_trans
    (State.copiesBut_mono (State.copiesBut_trans h2 h3) (by decide)) (State.copiesBut_mono h4 (by decide)))

/-- A report is counted once, for its family. -/
theorem State.report_counted (s : State) (f i info : Nat) (rail forced : Bool) :
    (s.report f i info rail forced).get Fld.FC_SRC_COUNT_count f =
      (s.get Fld.FC_SRC_COUNT_count f + 1) % 2 ^ Fld.FC_SRC_COUNT_count.width := by
  obtain ⟨u, hlog, hrest⟩ := s.report_after_status f i info rail forced
  rw [State.copiesBut_get hrest (by decide), State.copiesBut_get (u.statusReport_shown f i info rail forced) (by decide), State.bump,
    State.get_set_same, State.copiesBut_get hlog (by decide)]

/-- A field that no report writes reads as before. -/
theorem State.get_report_field (s : State) {g : Field}
    (h : ∀ w ∈ reportFields, (g.reg * 32 + g.lo) % 16384 ≠ (w.reg * 32 + w.lo) % 16384) (f i info : Nat) (rail forced : Bool) (j : Nat) :
    (s.report f i info rail forced).get g j = s.get g j := State.copiesBut_get (s.report_copies f i info rail forced) h j

/-! ## 64-bit counters -/

theorem State.get64_bump64 (s : State) {lo hi : Field} {i : Nat} (h : lo.key i ≠ hi.key i) (hl : lo.width = 32) (hh : hi.width = 32)
    (n : Nat) : (s.bump64 lo hi i n).get64 lo hi i = (s.get64 lo hi i + n) % 2 ^ 64 := by
  rw [State.bump64, State.set64, State.get64, State.get_set_apart _ h, State.get_set_same, State.get_set_same, hl, hh]
  omega

theorem State.fieldsBut_bump64 (s : State) (lo hi : Field) (i n : Nat) : s.fieldsBut (s.bump64 lo hi i n) [(lo, i), (hi, i)] :=
  State.fieldsBut_set (State.fieldsBut_set (s.fieldsBut_refl _) (by simp) _) (by simp) _

/-! ## Messages sent one after the other -/

/-- Messages that what is sent does not bear on go out in order. -/
theorem State.foldl_emit {α : Type} {g : State → α → Sent} (hg : ∀ s x y, g (s.emit y) x = g s x) (l : List α) (s : State) :
    l.foldl (fun s x => s.emit (g s x)) s = { s with outbox := s.outbox ++ l.map (g s) } := by
  induction l generalizing s with
  | nil => simp
  | cons x l ih =>
    have hs : g (s.emit (g s x)) = g s := funext fun y => hg s y _
    rw [List.foldl_cons, ih, hs]
    simp [State.emit]

/-! ## Bytes of numbers (00 R6) -/

theorem length_leBytes (n v : Nat) : (leBytes n v).length = n := by
  induction n generalizing v with
  | zero => rfl
  | succ n ih => exact congrArg (· + 1) (ih _)

/-- The low bytes of a number, and then those of what lies above them. -/
theorem leBytes_add (m n a b : Nat) (h : a < 256 ^ m) : leBytes (m + n) (a + 256 ^ m * b) = leBytes m a ++ leBytes n b := by
  induction m generalizing a with
  | zero => simp [show a = 0 by simpa using h, leBytes]
  | succ m ih =>
    have hmod : (a + 256 ^ (m + 1) * b) % 256 = a % 256 := by rw [Nat.pow_succ', Nat.mul_assoc, Nat.add_mul_mod_self_left]
    have hdiv : (a + 256 ^ (m + 1) * b) / 256 = a / 256 + 256 ^ m * b := by
      rw [Nat.pow_succ', Nat.mul_assoc, Nat.add_mul_div_left _ _ (by decide)]
    rw [Nat.succ_add, leBytes, hmod, hdiv, ih _ (by rw [Nat.pow_succ'] at h; omega)]
    rfl

/-- The bytes of the number that bytes spell are those bytes. -/
theorem leBytes_of_leNat (l : List Byte) : leBytes l.length (leNat l) = l := by
  induction l with
  | nil => rfl
  | cons b l ih =>
    have hb := b.isLt
    have hmod : (b.toNat + 256 * leNat l) % 256 = b.toNat := by omega
    have hdiv : (b.toNat + 256 * leNat l) / 256 = leNat l := by omega
    rw [List.length_cons, leNat, leBytes, hmod, hdiv, ih, BitVec.ofNat_toNat, BitVec.setWidth_eq]

theorem leNat_append (l m : List Byte) : leNat (l ++ m) = leNat l + 256 ^ l.length * leNat m := by
  induction l with
  | nil => simp [leNat]
  | cons b l ih =>
    rw [List.cons_append, leNat, ih, leNat, List.length_cons, Nat.pow_succ', Nat.mul_add, Nat.mul_assoc, Nat.add_assoc]

theorem leNat_lt_pow (l : List Byte) : leNat l < 256 ^ l.length := by
  induction l with
  | nil => decide
  | cons b l ih =>
    have hb := b.isLt
    rw [leNat, List.length_cons, Nat.pow_succ]
    omega

/-- The number that the bytes of a number spell, where they hold it. -/
theorem leNat_leBytes (n v : Nat) (h : v < 256 ^ n) : leNat (leBytes n v) = v := by
  induction n generalizing v with
  | zero => exact (Nat.lt_one_iff.1 h).symm
  | succ n ih =>
    rw [leBytes, leNat, ih _ (by rw [Nat.pow_succ] at h; omega), BitVec.toNat_ofNat]
    omega

/-! ## Flits (R448) -/

theorem crcByte_lt {c : Nat} (hc : c < 2 ^ 16) (b : Byte) : crcByte c b < 2 ^ 16 := by
  have hb := b.isLt
  unfold crcByte
  have step : ∀ l : List Nat, ∀ c < 2 ^ 16,
      l.foldl (fun c _ => if 2 ^ 15 ≤ c then (2 * c ^^^ 0x1021) % 2 ^ 16 else 2 * c) c < 2 ^ 16 := by
    intro l
    induction l with
    | nil => exact fun c hc => hc
    | cons x l ih =>
      intro c hc
      refine ih _ ?_
      dsimp only
      split
      · exact Nat.mod_lt _ (by decide)
      · omega
  exact step _ _ (Nat.xor_lt_two_pow hc (by omega))

theorem flitCrc_lt (bs : List Byte) : flitCrc bs < 2 ^ 16 := by
  have step : ∀ l : List Byte, ∀ c < 2 ^ 16, l.foldl crcByte c < 2 ^ 16 := by
    intro l
    induction l with
    | nil => exact fun c hc => hc
    | cons b l ih =>
      intro c hc
      rw [List.foldl_cons]
      exact ih _ (crcByte_lt hc b)
  unfold flitCrc
  exact step _ _ (by decide)

/-- A number of `m` bits below one of `n`. -/
theorem add_mul_lt_two_pow {a b m n : Nat} (ha : a < 2 ^ m) (hb : b < 2 ^ n) : a + 2 ^ m * b < 2 ^ (m + n) :=
  calc a + 2 ^ m * b
    _ < 2 ^ m * (b + 1) := by rw [Nat.mul_succ]; omega
    _ ≤ 2 ^ m * 2 ^ n := Nat.mul_le_mul_left _ hb
    _ = 2 ^ (m + n) := (Nat.pow_add ..).symm

/-- The flit of a header without its crc, and of the bytes after it. -/
def framedFlit (head : Nat) (body : List Byte) : BitVec 2048 :=
  BitVec.ofNat 2048 (leNat (leBytes 8 head ++ body) + 2 ^ 48 * flitCrc (leBytes 8 head ++ body))

section
variable {head : Nat} {body : List Byte} (hh : head < 2 ^ 48) (hb : body.length = 248)
include hh hb

theorem framedFlit_toNat :
    (framedFlit head body).toNat = head + 2 ^ 48 * flitCrc (leBytes 8 head ++ body) + 2 ^ 64 * leNat body := by
  have hcrc := flitCrc_lt (leBytes 8 head ++ body)
  have hlow : head + 2 ^ 48 * flitCrc (leBytes 8 head ++ body) < 2 ^ 64 := by omega
  have hbody : leNat body < 2 ^ (8 * 248) := by
    have h := leNat_lt_pow body
    rwa [hb, show 256 = 2 ^ 8 from rfl, ← Nat.pow_mul] at h
  rw [framedFlit, BitVec.toNat_ofNat, leNat_append, length_leBytes, leNat_leBytes 8 head (by omega)]
  generalize flitCrc (leBytes 8 head ++ body) = crc at hlow ⊢
  rw [show head + 256 ^ 8 * leNat body + 2 ^ 48 * crc = head + 2 ^ 48 * crc + 2 ^ 64 * leNat body by omega]
  have hlt := add_mul_lt_two_pow hlow hbody
  rw [show 64 + 8 * 248 = 2048 from rfl] at hlt
  rw [Nat.mod_eq_of_lt hlt]

/-- Below its crc a flit reads as its header. -/
theorem flitField_framedFlit_head {lo w : Nat} (hw : lo + w ≤ 48) : flitField (framedFlit head body) lo w = bitsOf head lo w := by
  have hsplit : (framedFlit head body).toNat = head + 2 ^ (lo + w) * (2 ^ (48 - (lo + w)) *
      (flitCrc (leBytes 8 head ++ body) + 2 ^ 16 * leNat body)) := by
    rw [framedFlit_toNat hh hb, ← Nat.mul_assoc, ← Nat.pow_add, Nat.add_sub_cancel' hw]
    omega
  rw [flitField, bitsOf, bitsOf, hsplit, ← Nat.mod_mul_right_div_self, ← Nat.mod_mul_right_div_self, ← Nat.pow_add, Nat.add_mul_mod_self_left]

theorem flitField_framedFlit_crc : flitField (framedFlit head body) 48 16 = flitCrc (leBytes 8 head ++ body) := by
  have hcrc := flitCrc_lt (leBytes 8 head ++ body)
  rw [flitField, bitsOf, framedFlit_toNat hh hb]
  omega

theorem flitBytes_framedFlit :
    flitBytes (framedFlit head body) = leBytes 6 head ++ leBytes 2 (flitCrc (leBytes 8 head ++ body)) ++ body := by
  have hcrc := flitCrc_lt (leBytes 8 head ++ body)
  have hlow : head + 2 ^ 48 * flitCrc (leBytes 8 head ++ body) < 256 ^ 8 := by omega
  have hall := leBytes_add 8 248 _ (leNat body) hlow
  have hhead := leBytes_add 6 2 head (flitCrc (leBytes 8 head ++ body)) (by omega)
  rw [flitBytes, framedFlit_toNat hh hb, show (2 : Nat) ^ 64 = 256 ^ 8 from rfl, hall, show (2 : Nat) ^ 48 = 256 ^ 6 from rfl, hhead,
    ← hb, leBytes_of_leNat]

/-- The crc of a flit is over its bytes with the crc's own two zero. -/
theorem flitCrc_framedFlit : flitCrc (flitBytes (framedFlit head body)) = flitField (framedFlit head body) 48 16 := by
  have hzero : leBytes 8 head = leBytes 6 head ++ [0, 0] := by
    have h := leBytes_add 6 2 head 0 (by omega)
    rwa [Nat.mul_zero, Nat.add_zero] at h
  have same : ∀ crc, flitCrc (leBytes 6 head ++ leBytes 2 crc ++ body) = flitCrc (leBytes 8 head ++ body) := fun crc => by
    rw [hzero]
    simp [flitCrc, List.drop_append, length_leBytes]
  rw [flitField_framedFlit_crc hh hb, flitBytes_framedFlit hh hb, same]

end

/-! ## A flit comes in (R448, R450, R455) -/

section
variable {s : State} {port : Fin 80} {fec : EccResult} {flit : BitVec 2048}

/-- What the FEC of a codeword found is counted where it corrected it. -/
def State.fecCounted (s : State) (port : Fin 80) (fec : EccResult) : State :=
  if fec = .corrected then s.count Fld.WF_FEC_CORR_COUNT_count port Fld.WF_PORT_STATUS_wrap port 0 else s

/-- A flit that is right is counted, and joins its group on an encrypted port. -/
def State.flitTaken (c : State) (port : Fin 80) (flit : BitVec 2048) : State :=
  let x := { c.portAt port with rxSeq := flitField flit 20 8 }
  (c.bump64 Fld.FC_ENG_PROGRESS_LO_lo Fld.FC_ENG_PROGRESS_HI_hi (292 + port)).setPort port
    (if c.flag Fld.WF_PORT_STATE_encrypted port && !isSealFlit flit then { x with group := x.group ++ [flit] } else x)

theorem execFlitReceive_of_silent (h : s.exchanges port = false) : execFlitReceive port fec flit s = .next s := by
  simp [execFlitReceive, h]

theorem execFlitReceive_of_uncorrectable (h : s.exchanges port = true) : execFlitReceive port .uncorrectable flit s =
    .next (s.count Fld.WF_FEC_UNCORR_COUNT_count port Fld.WF_PORT_STATUS_wrap port 1) := by
  simp [execFlitReceive, h]

theorem State.fecCounted_portAt (s : State) (port : Fin 80) (fec : EccResult) (k : Nat) : (s.fecCounted port fec).portAt k = s.portAt k := by
  unfold State.fecCounted
  split
  · exact State.portAt_count ..
  · rfl

/-- A field that the count of corrected codewords does not share reads as before. -/
theorem State.fecCounted_get {g : Field} (hf : (g.reg * 32 + g.lo) % 16384 ≠ Fld.WF_FEC_CORR_COUNT_count.reg * 32 % 16384)
    (hw : (g.reg * 32 + g.lo) % 16384 ≠ (Fld.WF_PORT_STATUS_wrap.reg * 32 + Fld.WF_PORT_STATUS_wrap.lo) % 16384) (j : Nat) :
    (s.fecCounted port fec).get g j = s.get g j := by
  unfold State.fecCounted
  split
  · exact s.get_count_field hf hw _ _ _ _ _
  · rfl

theorem State.fecCounted_get64 (s : State) (port : Fin 80) (fec : EccResult) (i : Nat) :
    (s.fecCounted port fec).get64 Fld.FC_ENG_PROGRESS_LO_lo Fld.FC_ENG_PROGRESS_HI_hi i =
      s.get64 Fld.FC_ENG_PROGRESS_LO_lo Fld.FC_ENG_PROGRESS_HI_hi i := by
  rw [State.get64, State.fecCounted_get (by decide) (by decide), State.fecCounted_get (by decide) (by decide), ← State.get64]

theorem State.fecCounted_encrypted : (s.fecCounted port fec).flag Fld.WF_PORT_STATE_encrypted port = s.flag Fld.WF_PORT_STATE_encrypted port := by
  rw [State.flag, State.fecCounted_get (by decide) (by decide), ← State.flag]

theorem State.fecCounted_exchanges : (s.fecCounted port fec).exchanges port = s.exchanges port := by
  rw [State.exchanges, State.portState, State.fecCounted_get (by decide) (by decide), ← State.portState, ← State.exchanges]

theorem State.bump64_encrypted (c : State) (i n p : Nat) :
    (c.bump64 Fld.FC_ENG_PROGRESS_LO_lo Fld.FC_ENG_PROGRESS_HI_hi i n).flag Fld.WF_PORT_STATE_encrypted p =
      c.flag Fld.WF_PORT_STATE_encrypted p := by
  rw [State.flag, State.bump64, State.set64, State.get_set_field _ (by decide), State.get_set_field _ (by decide), ← State.flag]

/-- A flit whose codeword can be read is discarded where its crc or its link_seq is wrong, and else taken. -/
theorem execFlitReceive_of_read (h : s.exchanges port = true) (hf : fec ≠ .uncorrectable) : execFlitReceive port fec flit s = .next (
    if flitCrc (flitBytes flit) ≠ flitField flit 48 16 ∨ flitField flit 20 8 ≠ ((s.portAt port).rxSeq + 1) % 256 then s.fecCounted port fec
    else if s.flag Fld.WF_PORT_STATE_encrypted port && !isSealFlit flit then (s.fecCounted port fec).flitTaken port flit
    else ((s.fecCounted port fec).flitTaken port flit).released port flit) := by
  have hc : (if fec = .corrected ∧ s.exchanges port = true then s.count Fld.WF_FEC_CORR_COUNT_count port Fld.WF_PORT_STATUS_wrap port 0
      else s) = s.fecCounted port fec := by simp [h, State.fecCounted]
  unfold execFlitReceive
  dsimp only
  rw [hc, State.fecCounted_exchanges, if_neg (by simp [h]), if_neg hf]
  by_cases hbad : flitCrc (flitBytes flit) ≠ flitField flit 48 16 ∨ flitField flit 20 8 ≠ ((s.portAt port).rxSeq + 1) % 256
  · rw [if_pos hbad, if_pos hbad]
  · rw [if_neg hbad, if_neg hbad, State.bump64_encrypted, State.fecCounted_encrypted]
    cases he : s.flag Fld.WF_PORT_STATE_encrypted port with
    | false => simp [State.flitTaken, State.fecCounted_portAt, State.fecCounted_encrypted, he]
    | true =>
      cases hs : isSealFlit flit <;> simp [State.flitTaken, State.fecCounted_portAt, State.fecCounted_encrypted, he, hs]

theorem State.flitTaken_portAt (c : State) (port : Fin 80) (flit : BitVec 2048) : (c.flitTaken port flit).portAt port =
    (let x := { c.portAt port with rxSeq := flitField flit 20 8 }
      if c.flag Fld.WF_PORT_STATE_encrypted port && !isSealFlit flit then { x with group := x.group ++ [flit] } else x) :=
  State.portAt_setPort_same ..

theorem State.flitTaken_progress (c : State) (port : Fin 80) (flit : BitVec 2048) :
    (c.flitTaken port flit).get64 Fld.FC_ENG_PROGRESS_LO_lo Fld.FC_ENG_PROGRESS_HI_hi (292 + port) =
      (c.get64 Fld.FC_ENG_PROGRESS_LO_lo Fld.FC_ENG_PROGRESS_HI_hi (292 + port) + 1) % 2 ^ 64 :=
  c.get64_bump64 (Field.key_ne (by decide) _ _) rfl rfl 1

theorem State.flitTaken_fieldsBut (c : State) (port : Fin 80) (flit : BitVec 2048) : c.fieldsBut (c.flitTaken port flit)
    [(Fld.FC_ENG_PROGRESS_LO_lo, 292 + port.val), (Fld.FC_ENG_PROGRESS_HI_hi, 292 + port.val)] :=
  State.fieldsBut_then (c.fieldsBut_bump64 _ _ _ 1) rfl

/-! ## What a flit does once it is released (R450 to R454) -/

theorem Port.release_fields (x : Port) (f : BitVec 2048) :
    (x.release f).ack = flitField f 28 8 ∧ (x.release f).unacked = stillUnacked (flitField f 28 8) x.unacked ∧
      (x.release f).credits = addCredit x.credits (flitField f 36 4) (flitField f 40 6 + 1) ∧ (x.release f).rxSeq = x.rxSeq := by
  have freed : ∀ (y : Port) (id : Nat), (y.freeInput id).ack = y.ack ∧ (y.freeInput id).unacked = y.unacked ∧
      (y.freeInput id).credits = y.credits ∧ (y.freeInput id).rxSeq = y.rxSeq := by
    intro y id
    unfold Port.freeInput
    split <;> exact ⟨rfl, rfl, rfl, rfl⟩
  unfold Port.release
  dsimp only
  split
  · exact ⟨rfl, rfl, rfl, rfl⟩
  · split
    · exact ⟨rfl, rfl, rfl, rfl⟩
    · split
      · exact ⟨rfl, rfl, rfl, rfl⟩
      · split
        · exact freed _ _
        · exact ⟨rfl, rfl, rfl, rfl⟩

theorem State.forwardExpress_of_none (s : State) (p : Nat) {f : BitVec 2048} (h : flitField f 64 4 = 0) :
    s.forwardExpress p (flitField f 64 128) = s := by
  refine if_pos ?_
  rw [← h, flitField, flitField, bitsOf, bitsOf, show 16 = 2 ^ 4 from rfl]
  exact Nat.mod_mod_of_dvd _ (Nat.pow_dvd_pow 2 (by decide))

/-- A flit of a packet that reaches no tail, carries no message and ends no rim packet changes its port alone. -/
theorem State.released_of_quiet {p : Nat} {f : BitVec 2048} (ha : (s.portAt p).acks (flitField f 28 8) = []) (hm : flitField f 64 4 = 0)
    (hk : flitField f 0 3 < 3)
    (hr : ∀ i ∈ ((s.portAt p).release f).inputs, (s.setPort p ((s.portAt p).release f)).rimTakes i = false) :
    s.released p f = s.setPort p ((s.portAt p).release f) := by
  have hopen : ¬ flitField f 0 3 = 5 := by omega
  have hrim : ((s.portAt p).release f).inputs.filter (s.setPort p ((s.portAt p).release f)).rimTakes = [] :=
    List.filter_eq_nil_iff.2 (by simpa using hr)
  simp only [State.released, ha, List.foldl_nil, State.forwardExpress_of_none _ _ hm, hopen, if_false, State.portAt_setPort_same, hrim]

/-! ## A group's seal (R455) -/

variable {tag : BitVec 128}

theorem execSealFlit_of_nothing (h : (s.portAt port).group = [] ∨ s.flag Fld.WF_PORT_STATE_encrypted port = false) :
    execSealFlit port tag s = .next s := by
  unfold execSealFlit
  dsimp only
  split
  · rfl
  · next f fs hg => rw [h.resolve_left (by simp [hg])]; rfl

section
variable {f : BitVec 2048} {fs : List (BitVec 2048)} (hg : (s.portAt port).group = f :: fs)
  (he : s.flag Fld.WF_PORT_STATE_encrypted port = true)
include hg he

theorem execSealFlit_of_right (ht : s.groupTag port = leBytes 16 tag.toNat) :
    execSealFlit port tag s = .next ((s.groupPlain port).foldl (fun t f => t.released port f)
      (s.setPort port { s.portAt port with group := [], groupNo := ((s.portAt port).groupNo + 1) % 2 ^ 64 })) := by
  simp only [execSealFlit, hg, he, ht, Bool.not_true, Bool.false_eq_true, if_false, if_true]

theorem execSealFlit_of_wrong (ht : s.groupTag port ≠ leBytes 16 tag.toNat) : execSealFlit port tag s =
    .next ((s.setPort port { s.portAt port with group := [], rxSeq := (flitField f 20 8 + 255) % 256 }).sealFailed port) := by
  simp only [execSealFlit, hg, he, ht, Bool.not_true, Bool.false_eq_true, if_false]

end

theorem State.sealFailed_portAt (s : State) (p k : Nat) : (s.sealFailed p).portAt k = s.portAt k := by
  rw [State.sealFailed, State.portAt_report, State.portAt_count]

theorem State.sealFailed_counted (s : State) (p : Nat) : (s.sealFailed p).get Fld.WF_SEAL_FAIL_COUNT_count p =
    (s.get Fld.WF_SEAL_FAIL_COUNT_count p + 1) % 2 ^ Fld.WF_SEAL_FAIL_COUNT_count.width := by
  rw [State.sealFailed, State.get_report_field _ (by decide), State.get_count_same _ (Field.key_ne (by decide) _ _)]

theorem State.sealFailed_reported (s : State) (p : Nat) : (s.sealFailed p).get Fld.FC_SRC_COUNT_count 0x26 =
    (s.get Fld.FC_SRC_COUNT_count 0x26 + 1) % 2 ^ Fld.FC_SRC_COUNT_count.width := by
  rw [State.sealFailed, State.report_counted, State.get_count_field _ (by decide) (by decide)]

theorem State.sealFailed_bytesSame (s : State) (p : Nat) : s.bytesSame (s.sealFailed p) :=
  State.reportRest_bytesSame (State.reportRest_trans (s.count_reportRest ..) (State.report_reportRest ..))

/-! ## Flits that are sent again (R451) -/

/-- The fields of a port's state that say on which lanes it sends. -/
def laneFields : List Field := [Fld.WF_PORT_STATE_lane_lo, Fld.WF_PORT_STATE_lane_hi, Fld.WF_PORT_STATE_half_rate]

/-- A port sends on the same lanes while its lane fields and what it and its peer retrain stay as they are. -/
theorem State.onLanes_congr {s t : State} {p : Nat} (hf : ∀ g ∈ laneFields, t.get g p = s.get g p) (hp : t.portAt p = s.portAt p) :
    t.onLanes p = s.onLanes p := by
  have hlo := hf Fld.WF_PORT_STATE_lane_lo (by decide)
  have hhi := hf Fld.WF_PORT_STATE_lane_hi (by decide)
  have hhalf := hf Fld.WF_PORT_STATE_half_rate (by decide)
  funext g
  unfold State.onLanes State.flag
  rw [hlo, hhi, hhalf, hp]

/-- Counting leaves the lanes a port sends on. -/
theorem State.onLanes_count (s : State) (p : Nat) {f w : Field}
    (hf : ∀ g ∈ laneFields, (g.reg * 32 + g.lo) % 16384 ≠ (f.reg * 32 + f.lo) % 16384 ∧
      (g.reg * 32 + g.lo) % 16384 ≠ (w.reg * 32 + w.lo) % 16384) (i wi k n : Nat) : (s.count f i w wi k n).onLanes p = s.onLanes p :=
  State.onLanes_congr (fun g hg => s.get_count_field (hf g hg).1 (hf g hg).2 _ _ _ _ _) (s.portAt_count ..)

theorem execReplayTimeout_of_nothing (h : s.exchanges port = false ∨ (s.portAt port).unacked = []) : execReplayTimeout port s = .next s :=
  if_pos (by rcases h with h | h <;> simp [h])

/-- The flits not acknowledged go out again in order. -/
theorem execReplayTimeout_of_waiting (h : s.exchanges port = true) (hu : (s.portAt port).unacked ≠ []) : execReplayTimeout port s =
    .next { s.count Fld.WF_REPLAY_COUNT_count port Fld.WF_PORT_STATUS_wrap port 2 with
      outbox := s.outbox ++ (s.portAt port).unacked.map (fun e => s.onLanes port e.1) } := by
  have hsends := State.foldl_emit (g := fun s e => s.onLanes port (Prod.fst e)) (fun _ _ _ => rfl) (s.portAt port).unacked
    (s.count Fld.WF_REPLAY_COUNT_count port Fld.WF_PORT_STATUS_wrap port 2)
  rw [State.count_outbox, State.onLanes_count _ _ (by decide)] at hsends
  exact (if_neg (by simp [h, hu])).trans (congrArg _ hsends)

end

/-! ## Flits that go out (R445, R448, R450, R452) -/

section
variable {s : State} {p : Nat}

/-- The head of an express queue leaves it by changing the queues of ports alone. -/
theorem State.dequeue_rest (s : State) (p : Nat) : { s.dequeue p with ports := s.ports } = s := by
  unfold State.dequeue
  dsimp only
  split
  · rfl
  · split <;> rfl

theorem State.dequeue_unacked (s : State) (p k : Nat) : ((s.dequeue p).portAt k).unacked = (s.portAt k).unacked := by
  have same : ∀ (u : State) (q : Nat) (x : Port), x.unacked = (u.portAt q).unacked →
      ((u.setPort q x).portAt k).unacked = (u.portAt k).unacked := by
    intro u q x hx
    by_cases hk : k = q
    · rw [hk, State.portAt_setPort_same, hx]
    · rw [State.portAt_setPort_other _ hk]
  unfold State.dequeue
  dsimp only
  split
  · exact same _ _ _ rfl
  · split
    · refine (same _ _ _ ?_).trans (same _ _ _ rfl)
      rfl
    · exact same _ _ _ rfl

/-- The header of a port's next flit without its crc: its type, VC, tag and seq, its number, what it acknowledges and returns. -/
def Port.flitHead (x : Port) (kind vc tag seq : Nat) : Nat :=
  kind + 8 * vc + 2 ^ 6 * tag + 2 ^ 14 * seq + 2 ^ 20 * ((x.txSeq + 1) % 256) + 2 ^ 28 * x.rxSeq + 2 ^ 36 * x.returns.1 +
    2 ^ 40 * (x.returns.2 - 1)

/-- A message goes with a flit: one waits, and there is an express credit. -/
def Port.takesExpress (x : Port) : Bool := !x.queue.isEmpty && decide (0 < x.credits.getD 8 0)

/-- The bytes of a flit in the clear after its header: an express slot, and its payload. -/
def Port.flitBody (x : Port) (payload : List Byte) : List Byte :=
  leBytes 16 (if x.takesExpress then x.queue.headD 0 else 0) ++ (payload ++ List.replicate 232 0).take 232

theorem Port.flitBody_length (x : Port) (payload : List Byte) : (x.flitBody payload).length = 248 := by
  rw [Port.flitBody, List.length_append, length_leBytes, List.length_take, List.length_append, List.length_replicate]
  omega

/-- A port that has sent a flit in the clear. -/
def Port.sent (x : Port) (f : BitVec 2048) (last : Option Nat) : Port :=
  { x with
    txSeq := (x.txSeq + 1) % 256, unacked := x.unacked ++ [(f, last)],
    owed := x.owed.zipIdx.map (fun e => if e.2 = x.returns.1 then e.1 - x.returns.2 else e.1),
    credits := if x.takesExpress then x.credits.set 8 (x.credits.getD 8 0 - 1) else x.credits }

/-- A flit in the clear that is no seal leaves on the lanes and waits for its acknowledgement; a message goes with it or none. -/
theorem State.sendFlit_of_clear (h : s.flag Fld.WF_PORT_STATE_encrypted p = false) (kind vc tag seq : Nat) (payload : List Byte)
    (last : Option Nat) {x : Port} (hx : x = s.portAt p) {f : BitVec 2048}
    (hf : f = framedFlit (x.flitHead kind vc tag seq) (x.flitBody payload)) {t : State}
    (ht : t = (s.setPort p (x.sent f last)).emit (s.onLanes p f)) :
    s.sendFlit p kind vc tag seq payload last false = if x.takesExpress then t.dequeue p else t := by
  subst hx hf ht
  simp only [State.sendFlit, h, Bool.false_and, Bool.false_eq_true, if_false]
  rfl

/-- An EMPTY flit in the clear: what it acknowledges and numbers, and that its crc is right (R445, R448). -/
theorem Port.emptyFlit_fields {x : Port} (hr : x.rxSeq < 256) (ho : x.owed.length = 9) {f : BitVec 2048}
    (hf : f = framedFlit (x.flitHead 0 0 0 0) (x.flitBody [])) :
    flitField f 0 3 = 0 ∧ flitField f 20 8 = (x.txSeq + 1) % 256 ∧ flitField f 28 8 = x.rxSeq ∧ flitCrc (flitBytes f) = flitField f 48 16 := by
  have hreturns : x.returns.1 < 16 ∧ x.returns.2 ≤ 64 := by
    unfold Port.returns
    split
    · next e he =>
      have hlt := List.snd_lt_of_mem_zipIdx (List.mem_of_find?_eq_some he)
      exact ⟨by omega, Nat.min_le_left _ _⟩
    · decide
  obtain ⟨hvc, hcredits⟩ := hreturns
  have hseq : (x.txSeq + 1) % 256 < 256 := Nat.mod_lt _ (by decide)
  have hhead : x.flitHead 0 0 0 0 = 2 ^ 20 * ((x.txSeq + 1) % 256) + 2 ^ 28 * x.rxSeq + 2 ^ 36 * x.returns.1 + 2 ^ 40 * (x.returns.2 - 1) := by
    simp [Port.flitHead]
  have hlen := x.flitBody_length []
  have hlt : x.flitHead 0 0 0 0 < 2 ^ 48 := by omega
  subst hf
  refine ⟨?_, ?_, ?_, flitCrc_framedFlit hlt hlen⟩
  · rw [flitField_framedFlit_head hlt hlen (by decide), bitsOf]
    omega
  · rw [flitField_framedFlit_head hlt hlen (by decide), bitsOf]
    omega
  · rw [flitField_framedFlit_head hlt hlen (by decide), bitsOf]
    omega

/-- A beat in the clear with nothing to send sends an EMPTY flit, and counts it. -/
theorem State.idleBeat_of_clear (h : s.flag Fld.WF_PORT_STATE_encrypted p = false) : s.idleBeat p =
    (s.count Fld.WF_TX_EMPTY_COUNT_count p Fld.WF_PORT_STATUS_wrap p 5).sendFlit p 0 0 0 0 [] none false :=
  if_neg (by simp [h])

theorem State.idleBeat_sends (h : s.flag Fld.WF_PORT_STATE_encrypted p = false) {f : BitVec 2048}
    (hf : f = framedFlit ((s.portAt p).flitHead 0 0 0 0) ((s.portAt p).flitBody [])) :
    (s.idleBeat p).outbox = s.outbox ++ [s.onLanes p f] ∧ ((s.idleBeat p).portAt p).unacked = (s.portAt p).unacked ++ [(f, none)] ∧
      (s.idleBeat p).get Fld.WF_TX_EMPTY_COUNT_count p = (s.get Fld.WF_TX_EMPTY_COUNT_count p + 1) % 2 ^ Fld.WF_TX_EMPTY_COUNT_count.width := by
  have hcounted : (s.count Fld.WF_TX_EMPTY_COUNT_count p Fld.WF_PORT_STATUS_wrap p 5).flag Fld.WF_PORT_STATE_encrypted p = false := by
    rw [State.flag, s.get_count_field (by decide) (by decide), ← State.flag, h]
  have hsent := State.sendFlit_of_clear hcounted 0 0 0 0 [] none (s.portAt_count ..).symm hf rfl
  rw [State.onLanes_count _ _ (by decide)] at hsent
  rw [State.idleBeat_of_clear h, hsent]
  have hcount := s.get_count_same (f := Fld.WF_TX_EMPTY_COUNT_count) (w := Fld.WF_PORT_STATUS_wrap) (i := p) (wi := p)
    (Field.key_ne (by decide) _ _) 5 1
  generalize ht : (State.setPort _ p _).emit _ = t
  have hout : t.outbox = s.outbox ++ [s.onLanes p f] := by
    rw [← ht, State.emit, State.setPort_outbox, State.count_outbox]
  have hunacked : (t.portAt p).unacked = (s.portAt p).unacked ++ [(f, none)] := by
    rw [← ht, State.portAt_emit, State.portAt_setPort_same]
    rfl
  have hget : t.get Fld.WF_TX_EMPTY_COUNT_count p = _ := (by rw [← ht]; rfl : _ = _).trans hcount
  split
  · have hrest := t.dequeue_rest p
    refine ⟨?_, (t.dequeue_unacked p p).trans hunacked, ?_⟩
    · exact (congrArg State.outbox hrest).trans hout
    · exact (congrArg (fun u => State.get u Fld.WF_TX_EMPTY_COUNT_count p) hrest).trans hget
  · exact ⟨hout, hunacked, hget⟩

end

/-! ## The obligation on flits -/

/-- Settles O51: each command through the equations of its cases; the EMPTY flit through what a header and its crc spell. -/
theorem flitsAreAcceptedInSequence : Obligations.FlitsAreAcceptedInSequence := by
  intro s port flit tag fec
  refine ⟨execFlitReceive_of_silent, fun h => ⟨_, execFlitReceive_of_uncorrectable h, s.get_count_same (Field.key_ne (by decide) _ _) 1 1,
      State.onlyFields_count (s.onlyFields_refl _) (by simp) (by simp) 1 1⟩, fun h hf => ?receive, State.released_of_quiet,
    fun x => x.release_fields flit, execSealFlit_of_nothing,
    fun f fs hg he => ⟨execSealFlit_of_right hg he, fun ht => ⟨_, execSealFlit_of_wrong hg he ht, ?port, ?counted, ?reported, ?bytes⟩⟩,
    fun h hu => ⟨_, execReplayTimeout_of_waiting h hu, rfl, ?replays⟩, execReplayTimeout_of_nothing, fun he hr ho => ?idle⟩
  case receive =>
    refine ⟨s.fecCounted port fec, fun hc => if_neg (by simp [hc]), fun hc => ?_, fun hbad => ?_, fun hcrc hseq => ?_⟩
    · rw [State.fecCounted, if_pos hc]
      exact ⟨s.get_count_same (Field.key_ne (by decide) _ _) 0 1, State.onlyFields_count (s.onlyFields_refl _) (by simp) (by simp) 0 1⟩
    · exact (execFlitReceive_of_read h hf).trans (congrArg _ (if_pos hbad))
    · have hread := (execFlitReceive_of_read h hf).trans (congrArg _ (if_neg (not_or.2 ⟨Decidable.not_not.2 hcrc, Decidable.not_not.2 hseq⟩)))
      refine ⟨(s.fecCounted port fec).flitTaken port flit, ?_, fun k hk => ?_, ?_, State.flitTaken_fieldsBut _ _ _, rfl, hread⟩
      · rw [State.flitTaken_portAt, State.fecCounted_portAt, State.fecCounted_encrypted]
      · exact (State.portAt_setPort_other _ hk _).trans (s.fecCounted_portAt port fec k)
      · rw [State.flitTaken_progress, s.fecCounted_get64]
  case port => exact (State.sealFailed_portAt ..).trans (State.portAt_setPort_same ..)
  case counted => exact State.sealFailed_counted ..
  case reported => exact State.sealFailed_reported ..
  case bytes => exact State.bytesSame_trans (s.setPort_bytesSame _ _) (State.sealFailed_bytesSame _ _)
  case replays =>
    have hcount := State.onlyFields_count (s.onlyFields_refl [(Fld.WF_REPLAY_COUNT_count, port.val), (Fld.WF_PORT_STATUS_wrap, port.val)])
      (i := port.val) (wi := port.val)
      (List.mem_cons_self ..) (List.mem_cons_of_mem _ (List.mem_cons_self ..)) 2 1
    exact ⟨s.get_count_same (Field.key_ne (by decide) _ _) 2 1, hcount.1, congrArg (fun u => { u with outbox := s.outbox }) hcount.2⟩
  case idle =>
    obtain ⟨hkind, hseq, hack, hcrc⟩ := Port.emptyFlit_fields hr ho rfl
    exact ⟨_, hkind, hseq, hack, hcrc, State.idleBeat_sends he rfl⟩

end Sys2Proof.Machine

/-! How ports train and introduce themselves (10 R445, R446, R452, R456, R472, R490; 12 R578 to R580): what a port forgets as it trains, what
IDENT and NOT_READY leave of it, how it settles, and the link keys of a global port. -/

namespace Sys2Proof.Machine

/-! ## What ports say of themselves -/

/-- IDENT on every port that exchanges flits is sent, and nothing else changes. -/
theorem State.sendIdents_rest (s : State) : { s.sendIdents with outbox := s.outbox } = s := by
  have hsent := State.foldl_emit (g := fun s p => Sent.ident p (s.servesOn p) s.ownRacks) (fun _ _ _ => rfl)
    ((List.range 80).filter (fun p => decide (1 ≤ s.portState p) && decide (s.portState p ≤ 3))) s
  exact congrArg (fun u : State => { u with outbox := s.outbox }) hsent

@[simp] theorem State.sendIdents_get (s : State) (f : Field) (i : Nat) : s.sendIdents.get f i = s.get f i :=
  (congrArg (fun u : State => u.get f i) s.sendIdents_rest :)

@[simp] theorem State.sendIdents_portAt (s : State) (p : Nat) : s.sendIdents.portAt p = s.portAt p :=
  (congrArg (fun u : State => u.portAt p) s.sendIdents_rest :)

/-! ## A field that is set on a condition -/

theorem State.fieldsBut_setIf {s t : State} {ws : List (Field × Nat)} (h : s.fieldsBut t ws) {f : Field} {i : Nat} (hm : (f, i) ∈ ws)
    (c : Bool) (v : Nat) : s.fieldsBut (if c = true then t.set f i v else t) ws := by
  split
  · exact State.fieldsBut_set h hm v
  · exact h

/-- A field at another place reads as before. -/
theorem State.get_setIf_field (s : State) {f g : Field} (h : (g.reg * 32 + g.lo) % 16384 ≠ (f.reg * 32 + f.lo) % 16384) (c : Bool)
    (i j v : Nat) : (if c = true then s.set f i v else s).get g j = s.get g j := by
  split
  · exact s.get_set_field h _ _ _
  · rfl

section
variable {s : State} {port : Fin 80}

/-! ## Training (R445, R446) -/

theorem execPortSignalDetect_of_down (h0 : s.portState port = 0) (he : s.flag Fld.WF_PORT_CTRL_enable port = true)
    (hr : s.run.phase = .running) (hf : s.fc.fenced.contains (292 + port.val) = false) :
    execPortSignalDetect port s = .next (s.set Fld.WF_PORT_STATE_state port 1) := if_pos ⟨h0, he, hr, hf⟩

theorem execPortSignalDetect_of_not (h : s.portState port ≠ 0 ∨ s.flag Fld.WF_PORT_CTRL_enable port = false ∨ s.run.phase ≠ .running ∨
    s.fc.fenced.contains (292 + port.val) = true) : execPortSignalDetect port s = .next s := by
  refine if_neg ?_
  rintro ⟨h0, he, hr, hf⟩
  rcases h with h | h | h | h
  · exact h h0
  · simp [h] at he
  · exact h hr
  · exact Bool.false_ne_true (hf.symm.trans h)

/-! ## Link keys given up (12 R580) -/

theorem State.zeroSlot_state (s : State) (k : Nat) : (s.zeroSlot k).get Fld.KS_ATTR_state k = 0 := by
  unfold State.zeroSlot
  simp (disch := decide) only [State.setAll_cons, State.setAll_nil, State.get_set_field, State.get_set_same, Nat.zero_mod]

theorem State.dropLinkKeys_portAt (s : State) (p k : Nat) : (s.dropLinkKeys p).portAt k = s.portAt k := by
  unfold State.dropLinkKeys
  split <;> rfl

theorem State.dropLinkKeys_bytesSame (s : State) (p : Nat) : s.bytesSame (s.dropLinkKeys p) := by
  unfold State.dropLinkKeys
  split <;> exact fun _ => ⟨rfl, rfl, rfl, rfl, rfl⟩

theorem State.dropLinkKeys_encrypted {p : Nat} (hg : isGlobalPort p = true) : (s.dropLinkKeys p).get Fld.WF_PORT_STATE_encrypted p = 0 := by
  rw [State.dropLinkKeys, if_pos hg, State.get_set_same, Nat.zero_mod]

theorem State.dropLinkKeys_rxSlot {p : Nat} (hg : isGlobalPort p = true) : (s.dropLinkKeys p).get Fld.KS_ATTR_state (rxSlot p) = 0 := by
  rw [State.dropLinkKeys, if_pos hg, State.get_set_field _ (by decide), State.zeroSlot_state]

/-! ## The lanes of a port have trained (R472) -/

/-- A port that has trained: it holds nothing of before, and no link keys. -/
def State.portTrained (s : State) (p : Nat) : State :=
  ((s.setPort p Port.none).dropLinkKeys p).setAll p [(Fld.WF_PORT_STATE_state, 1), (Fld.WF_PORT_STATE_half_rate, 0),
    (Fld.WF_PORT_PEER_not_ready, 0)]

theorem execLinkTrained_of_training (h : s.portState port = 1 ∨ (s.portState port = 4 ∧ (s.portAt port).training = some 3)) :
    execLinkTrained port s = .next (((s.portTrained port).showPeer port).sendIdent port) := if_pos h

theorem execLinkTrained_of_not (h1 : s.portState port ≠ 1) (h4 : s.portState port ≠ 4 ∨ (s.portAt port).training ≠ some 3) :
    execLinkTrained port s = .next s := if_neg (not_or.2 ⟨h1, fun h => h4.elim (· h.1) (· h.2)⟩)

section
variable (s : State) (p : Nat)

theorem State.portTrained_state : (s.portTrained p).portState p = 1 := by
  unfold State.portTrained
  simp only [State.setAll_cons, State.setAll_nil]
  rw [State.portState, State.get_set_field _ (by decide), State.get_set_field _ (by decide), State.get_set_same]
  rfl

theorem State.portTrained_half_rate : (s.portTrained p).get Fld.WF_PORT_STATE_half_rate p = 0 := by
  unfold State.portTrained
  simp only [State.setAll_cons, State.setAll_nil]
  rw [State.get_set_field _ (by decide), State.get_set_same, Nat.zero_mod]

theorem State.portTrained_not_ready : (s.portTrained p).get Fld.WF_PORT_PEER_not_ready p = 0 := by
  unfold State.portTrained
  simp only [State.setAll_cons, State.setAll_nil]
  rw [State.get_set_same, Nat.zero_mod]

theorem State.portTrained_portAt : (s.portTrained p).portAt p = Port.none := by
  rw [State.portTrained, State.portAt_setAll, State.dropLinkKeys_portAt, State.portAt_setPort_same]

theorem State.portTrained_bytesSame : s.bytesSame (s.portTrained p) :=
  State.bytesSame_trans (State.bytesSame_trans (s.setPort_bytesSame p Port.none) (State.dropLinkKeys_bytesSame _ p))
    (State.asksRest_bytesSame (State.setAll_asksRest ..))

/-- A field that training does not set reads as once the link keys are given up. -/
theorem State.portTrained_get {f : Field} (hf : ∀ g ∈ [Fld.WF_PORT_STATE_state, Fld.WF_PORT_STATE_half_rate, Fld.WF_PORT_PEER_not_ready],
    (f.reg * 32 + f.lo) % 16384 ≠ (g.reg * 32 + g.lo) % 16384) (i : Nat) :
    (s.portTrained p).get f i = ((s.setPort p Port.none).dropLinkKeys p).get f i :=
  State.copiesBut_get (State.copiesBut_setAll (State.copiesBut_refl _ _) _ _ (by simp)) hf i

variable {p}

theorem State.portTrained_encrypted (hg : isGlobalPort p = true) : (s.portTrained p).get Fld.WF_PORT_STATE_encrypted p = 0 := by
  rw [State.portTrained_get _ _ (by decide), State.dropLinkKeys_encrypted hg]

theorem State.portTrained_linkKeys (hg : isGlobalPort p = true) : (s.portTrained p).linkKeys p = false := by
  rw [State.linkKeys, s.portTrained_get p (f := Fld.KS_ATTR_state) (by decide) (rxSlot p), State.dropLinkKeys_rxSlot hg]
  simp

end

/-! ## IDENT (R456, R472) -/

section
variable {module : ModuleId} {known serving : Bool} {pp : BitVec 7} {racks : BitVec 256}

/-- A port once it knows its far end: one that trains is UP, with full credits. -/
def State.identTaken (s : State) (p : Nat) (module : ModuleId) (known serving : Bool) (pp : BitVec 7) (racks : BitVec 256) : State :=
  let x := { s.portAt p with peerServing := known && serving, racks := racks }
  let up := s.portState p == 1
  let s := s.setPort p (if up then { x with credits := List.replicate 8 96 ++ [32] } else x)
  let s := s.setAll p [(Fld.WF_PORT_PEER_peer, module.toNat), (Fld.WF_PORT_PEER_peer_valid, bit known), (Fld.WF_PORT_PEER_peer_port, pp.toNat)]
  let s := if known && serving then s.set Fld.WF_PORT_PEER_not_ready p 0 else s
  if up then s.set Fld.WF_PORT_STATE_state p 2 else s

theorem execIdent_of_silent (h : s.exchanges port = false) : execIdent port module known serving pp racks s = .next s :=
  if_pos (by simp [h])

theorem execIdent_of_exchanges (h : s.exchanges port = true) : execIdent port module known serving pp racks s =
    .next (((s.identTaken port module known serving pp racks).settlePort port).showPeer port) := if_neg (by simp [h])

variable (s : State) (p : Nat) (module : ModuleId) (known serving : Bool) (pp : BitVec 7) (racks : BitVec 256)

theorem State.identTaken_portAt : (s.identTaken p module known serving pp racks).portAt p =
    (let x := { s.portAt p with peerServing := known && serving, racks := racks }
      if s.portState p == 1 then { x with credits := List.replicate 8 96 ++ [32] } else x) := by
  unfold State.identTaken
  dsimp only
  split <;> split <;> simp only [State.portAt_set, State.portAt_setAll, State.portAt_setPort_same]

/-- The fields that IDENT sets. -/
def identFields (p : Nat) : List (Field × Nat) :=
  [(Fld.WF_PORT_PEER_peer, p), (Fld.WF_PORT_PEER_peer_valid, p), (Fld.WF_PORT_PEER_peer_port, p), (Fld.WF_PORT_PEER_not_ready, p),
    (Fld.WF_PORT_STATE_state, p)]

theorem State.identTaken_fieldsBut : s.fieldsBut (s.identTaken p module known serving pp racks) (identFields p) := by
  have hset : ∀ x, s.fieldsBut ((s.setPort p x).setAll p [(Fld.WF_PORT_PEER_peer, module.toNat), (Fld.WF_PORT_PEER_peer_valid, bit known),
      (Fld.WF_PORT_PEER_peer_port, pp.toNat)]) (identFields p) :=
    fun x => State.fieldsBut_setAll (State.fieldsBut_of_regs (s.setPort_regs p x)) _ _ (by simp [identFields])
  exact State.fieldsBut_setIf (State.fieldsBut_setIf (hset _) (by simp [identFields]) _ _) (by simp [identFields]) _ _

theorem State.identTaken_rest : { s.identTaken p module known serving pp racks with regs := s.regs, ports := s.ports } = s := by
  unfold State.identTaken
  dsimp only
  split <;> split <;> rfl

theorem State.identTaken_peer : (s.identTaken p module known serving pp racks).get Fld.WF_PORT_PEER_peer p = module.toNat := by
  simp only [State.identTaken, State.setAll_cons, State.setAll_nil]
  rw [State.get_setIf_field _ (by decide), State.get_setIf_field _ (by decide), State.get_set_field _ (by decide),
    State.get_set_field _ (by decide), State.get_set_same]
  exact Nat.mod_eq_of_lt module.isLt

theorem State.identTaken_peer_valid : (s.identTaken p module known serving pp racks).get Fld.WF_PORT_PEER_peer_valid p = bit known := by
  simp only [State.identTaken, State.setAll_cons, State.setAll_nil]
  rw [State.get_setIf_field _ (by decide), State.get_setIf_field _ (by decide), State.get_set_field _ (by decide), State.get_set_same]
  cases known <;> rfl

theorem State.identTaken_peer_port : (s.identTaken p module known serving pp racks).get Fld.WF_PORT_PEER_peer_port p = pp.toNat := by
  simp only [State.identTaken, State.setAll_cons, State.setAll_nil]
  rw [State.get_setIf_field _ (by decide), State.get_setIf_field _ (by decide), State.get_set_same]
  exact Nat.mod_eq_of_lt pp.isLt

theorem State.identTaken_not_ready : (s.identTaken p module true true pp racks).get Fld.WF_PORT_PEER_not_ready p = 0 := by
  simp only [State.identTaken, Bool.and_self, if_true]
  rw [State.get_setIf_field _ (by decide), State.get_set_same, Nat.zero_mod]

theorem State.identTaken_state_up (h : s.portState p = 1) : (s.identTaken p module known serving pp racks).portState p = 2 := by
  simp only [State.identTaken, h, beq_self_eq_true, if_true]
  exact State.get_set_same ..

theorem State.identTaken_state_kept (h : s.portState p ≠ 1) : (s.identTaken p module known serving pp racks).portState p = s.portState p := by
  simp only [State.identTaken, beq_iff_eq, h, if_false, State.setAll_cons, State.setAll_nil]
  rw [State.portState, State.get_setIf_field _ (by decide), State.get_set_field _ (by decide), State.get_set_field _ (by decide),
    State.get_set_field _ (by decide)]
  rfl

end

/-! ## A port settles (R472) -/

/-- A port that is UP or READY stands as both ends serve. -/
theorem State.settlePort_state {p : Nat} (h : s.portState p = 2 ∨ s.portState p = 3) :
    (s.settlePort p).portState p = if (s.servesOn p && (s.portAt p).peerServing) = true then 3 else 2 := by
  have hwant : ∀ b : Bool, (if b = true then 3 else 2) % 2 ^ Fld.WF_PORT_STATE_state.width = if b = true then 3 else 2 := by decide
  unfold State.settlePort
  dsimp only
  have hset := (s.get_set_same Fld.WF_PORT_STATE_state p _).trans (hwant (s.servesOn p && (s.portAt p).peerServing))
  generalize (if (s.servesOn p && (s.portAt p).peerServing) = true then 3 else 2) = want at hset ⊢
  split
  · have hread : (if want = 3 then (s.set Fld.WF_PORT_STATE_state p want).unmarkLost ((s.set Fld.WF_PORT_STATE_state p want).peerOf p)
        else s.set Fld.WF_PORT_STATE_state p want).portState p = want := by
      split <;> exact hset
    split
    · exact (State.sendIdents_get ..).trans hread
    · exact hread
  · next hn => exact Decidable.not_not.1 fun hne => hn ⟨h, hne⟩

/-- A global port without its link keys does not serve (12 R578). -/
theorem State.servesOn_of_noKeys {p : Nat} (hg : isGlobalPort p = true) (hk : s.linkKeys p = false) : s.servesOn p = false := by
  simp [State.servesOn, hg, hk]

/-! ## NOT_READY (R490) -/

/-- A port whose far end has said that it does not serve. -/
def State.peerNotReady (s : State) (p : Nat) (module : ModuleId) : State :=
  (s.setPort p { s.portAt p with peerServing := false }).setAll p [(Fld.WF_PORT_PEER_peer, module.toNat), (Fld.WF_PORT_PEER_not_ready, 1)]

theorem execNotReady_of_other {module : ModuleId} (h2 : s.portState port ≠ 2) (h3 : s.portState port ≠ 3) :
    execNotReady port module s = .next s := if_pos ⟨h2, h3⟩

theorem execNotReady_of_up {module : ModuleId} (h : s.portState port = 2 ∨ s.portState port = 3) :
    execNotReady port module s = .next (((s.peerNotReady port module).settlePort port).showPeer port) :=
  if_neg fun hn => h.elim hn.1 hn.2

theorem State.peerNotReady_peer (s : State) (p : Nat) (module : ModuleId) :
    (s.peerNotReady p module).get Fld.WF_PORT_PEER_peer p = module.toNat := by
  simp only [State.peerNotReady, State.setAll_cons, State.setAll_nil]
  rw [State.get_set_field _ (by decide), State.get_set_same]
  exact Nat.mod_eq_of_lt module.isLt

theorem State.peerNotReady_not_ready (s : State) (p : Nat) (module : ModuleId) :
    (s.peerNotReady p module).get Fld.WF_PORT_PEER_not_ready p = 1 := by
  simp only [State.peerNotReady, State.setAll_cons, State.setAll_nil]
  exact State.get_set_same ..

theorem State.peerNotReady_fieldsBut (s : State) (p : Nat) (module : ModuleId) :
    s.fieldsBut (s.peerNotReady p module) [(Fld.WF_PORT_PEER_peer, p), (Fld.WF_PORT_PEER_not_ready, p)] :=
  State.fieldsBut_setAll (State.fieldsBut_of_regs (s.setPort_regs ..)) _ _ (by simp)

theorem execNotReadyRepeat_of_serving (h : s.flag Fld.WF_CTRL_serving = true) : execNotReadyRepeat s = .next s := if_pos h

/-- A module that does not serve says so on each port that is UP. -/
theorem execNotReadyRepeat_of_notServing (h : s.flag Fld.WF_CTRL_serving = false) : execNotReadyRepeat s =
    .next { s with outbox := s.outbox ++ (s.portsIn 2).map (fun p => Sent.notReady p (BitVec.ofNat 14 (s.get Fld.CAP_MODULE_module))) } :=
  (if_neg (by simp [h])).trans (congrArg _ (State.foldl_emit (g := fun s p => .notReady p (BitVec.ofNat 14 (s.get Fld.CAP_MODULE_module)))
    (fun _ _ _ => rfl) (s.portsIn 2) s))

/-! ## Link keys (12 R578, R580) -/

section
variable {g : Fin 16} {ok : Bool} {tx rx : BitVec 256}

theorem execGlobalPortKeyExchange_of_notUp (h : s.portState (63 + g) ≠ 2) : execGlobalPortKeyExchange g ok tx rx s = .next s := if_pos h

theorem execGlobalPortKeyExchange_of_failed (h : s.portState (63 + g) = 2) :
    execGlobalPortKeyExchange g false tx rx s = .next (s.sealFailed (63 + g)) := if_neg (Decidable.not_not.2 h)

theorem execGlobalPortKeyExchange_of_agreed (h : s.portState (63 + g) = 2) : execGlobalPortKeyExchange g true tx rx s =
    .next ((((s.installLinkKeys (63 + g) tx rx).sendIdent (63 + g)).settlePort (63 + g)).showPeer (63 + g)) := if_neg (Decidable.not_not.2 h)

theorem execKeyUpdate_of_encrypted (h : s.flag Fld.WF_PORT_STATE_encrypted (63 + g) = true) :
    execKeyUpdate g tx rx s = .next (s.installLinkKeys (63 + g) tx rx) := if_pos h

theorem execKeyUpdate_of_clear (h : s.flag Fld.WF_PORT_STATE_encrypted (63 + g) = false) : execKeyUpdate g tx rx s = .next s :=
  if_neg (by simp [h])

end

end

/-! ## The obligation on training -/

/-- Settles O52: each command through the equations of its cases, with what a port that has trained, or knows its far end, reads as. -/
theorem portsTrainAndIntroduceThemselves : Obligations.PortsTrainAndIntroduceThemselves := by
  intro s port g module known serving ok pp racks tx rx
  refine ⟨fun h0 he hr hf => ⟨_, execPortSignalDetect_of_down h0 he hr hf, State.get_set_same .., s.set_onlyFields _ _ _⟩,
    execPortSignalDetect_of_not,
    fun h => ⟨s.portTrained port, s.portTrained_state port, s.portTrained_half_rate port, s.portTrained_not_ready port, s.portTrained_portAt port,
      fun hg => ⟨s.portTrained_encrypted hg, s.portTrained_linkKeys hg⟩, s.portTrained_bytesSame port, execLinkTrained_of_training h⟩,
    execLinkTrained_of_not, execIdent_of_silent, fun h => ?ident, fun u => State.settlePort_state, State.servesOn_of_noKeys, execNotReady_of_other,
    fun h => ⟨s.peerNotReady port module, s.peerNotReady_peer port module, s.peerNotReady_not_ready port module, ?portNotReady,
      s.peerNotReady_fieldsBut port module, rfl, execNotReady_of_up h⟩,
    fun h out ho => ho ▸ execNotReadyRepeat_of_notServing h, execNotReadyRepeat_of_serving, execGlobalPortKeyExchange_of_notUp,
    fun h => ⟨execGlobalPortKeyExchange_of_failed h, execGlobalPortKeyExchange_of_agreed h⟩, execKeyUpdate_of_encrypted,
    execKeyUpdate_of_clear⟩
  case ident =>
    have hport := s.identTaken_portAt port module known serving pp racks
    refine ⟨s.identTaken port module known serving pp racks, ?_, ?_, State.identTaken_peer .., State.identTaken_peer_valid ..,
      State.identTaken_peer_port .., ?_, fun h1 => ⟨State.identTaken_state_up _ _ _ _ _ _ _ h1, ?_⟩,
      fun h1 => ⟨State.identTaken_state_kept _ _ _ _ _ _ _ h1, ?_⟩, s.identTaken_fieldsBut _ _ _ _ _ _, State.identTaken_rest ..,
      execIdent_of_exchanges h⟩
    · rw [hport]
      dsimp only
      split <;> rfl
    · rw [hport]
      dsimp only
      split <;> rfl
    · rintro rfl rfl
      exact State.identTaken_not_ready ..
    · simp [hport, h1]
    · simp [hport, h1]
  case portNotReady => exact (State.portAt_setAll ..).trans (State.portAt_setPort_same ..)

end Sys2Proof.Machine

/-! How ports, modules and lanes are lost, and ports retire (10 R446, R473, R485 to R489; 14 R641): what closing a port's packets and sending
on what waits leave as they were, and the commands of loss, of lanes and of retirement. -/

namespace Sys2Proof.Machine

/-! ## What closing a port's packets leaves as it was (R453, R454) -/

/-- `t` agrees with `s` but in the ports, in the packets sent on or that wait to be, and in what is sent. -/
def State.linkRest (s t : State) : Prop :=
  { t with ports := s.ports, sentOn := s.sentOn, forwardWait := s.forwardWait, outbox := s.outbox } = s

theorem State.linkRest_refl (s : State) : s.linkRest s := rfl

theorem State.linkRest_trans {s t u : State} (h : s.linkRest t) (g : t.linkRest u) : s.linkRest u := by
  unfold State.linkRest at h g ⊢
  rw [← h, ← g]

theorem State.linkRest_foldl {α : Type} {f : State → α → State} (hf : ∀ (t : State) (x : α), t.linkRest (f t x)) (l : List α) (s : State) :
    s.linkRest (l.foldl f s) := by
  induction l generalizing s with
  | nil => exact s.linkRest_refl
  | cons x l ih => exact State.linkRest_trans (hf s x) (ih _)

theorem State.linkRest_regs {s t : State} (h : s.linkRest t) : t.regs = s.regs := by
  rw [← h]

theorem State.linkRest_service {s t : State} (h : s.linkRest t) : t.service = s.service := by
  rw [← h]

theorem State.setPort_linkRest (s : State) (p : Nat) (x : Port) : s.linkRest (s.setPort p x) := rfl

theorem State.abortPlace_linkRest (s : State) (place : Nat) : s.linkRest (s.abortPlace place) := by
  unfold State.abortPlace
  dsimp only
  generalize hu : List.foldl _ s s.ports = u
  have each : s.linkRest u := by
    rw [← hu]
    refine State.linkRest_foldl (fun t e => ?_) s.ports s
    split
    · split <;> rfl
    · rfl
  exact each

theorem State.closePackets_linkRest (s : State) (p : Nat) : s.linkRest (s.closePackets p) :=
  State.linkRest_trans (State.linkRest_foldl (fun t x => (rfl : t.linkRest (t.emit (.abort p x)))) _ s) rfl

theorem State.linkDown_linkRest (s : State) (p : Nat) : s.linkRest (s.linkDown p) := by
  unfold State.linkDown
  dsimp only
  generalize hu : List.foldl _ (s.setPort p _) _ = u
  have closed : s.linkRest u := by
    rw [← hu]
    exact State.linkRest_trans (s.setPort_linkRest p _) (State.linkRest_foldl (fun t i => t.abortPlace_linkRest _) _ _)
  exact closed

theorem State.sendIdents_linkRest (s : State) : s.linkRest s.sendIdents :=
  (congrArg (fun u : State => { u with ports := s.ports, sentOn := s.sentOn, forwardWait := s.forwardWait }) s.sendIdents_rest :)

/-- A port that leaves UP or READY shows its new state, and changes no other register nor the service record. -/
theorem State.leaveUp_eq (s : State) (p st : Nat) : ∃ u, s.linkRest u ∧ (u.set Fld.WF_PORT_STATE_state p st).linkRest (s.leaveUp p st) := by
  refine ⟨(s.closePackets p).linkDown p, State.linkRest_trans (s.closePackets_linkRest p) (State.linkDown_linkRest _ p), ?_⟩
  unfold State.leaveUp
  dsimp only
  split
  · exact State.sendIdents_linkRest _
  · rfl

theorem State.leaveUp_get_field (s : State) {f : Field}
    (h : (f.reg * 32 + f.lo) % 16384 ≠ (Fld.WF_PORT_STATE_state.reg * 32 + Fld.WF_PORT_STATE_state.lo) % 16384) (p st i : Nat) :
    (s.leaveUp p st).get f i = s.get f i := by
  obtain ⟨u, hu, hl⟩ := s.leaveUp_eq p st
  rw [State.get_of_regs (State.linkRest_regs hl), u.get_set_field h, State.get_of_regs (State.linkRest_regs hu)]

theorem State.leaveUp_state (s : State) (p st : Nat) : (s.leaveUp p st).portState p = st % 2 ^ Fld.WF_PORT_STATE_state.width := by
  obtain ⟨u, -, hl⟩ := s.leaveUp_eq p st
  rw [State.portState, State.get_of_regs (State.linkRest_regs hl), State.get_set_same]

theorem State.leaveUp_service (s : State) (p st : Nat) : (s.leaveUp p st).service = s.service := by
  obtain ⟨u, hu, hl⟩ := s.leaveUp_eq p st
  rw [State.linkRest_service hl, State.set_service, State.linkRest_service hu]

theorem State.leaveUp_time (s : State) (p st : Nat) : (s.leaveUp p st).time = s.time := by
  unfold State.time State.get64
  rw [s.leaveUp_get_field (by decide), s.leaveUp_get_field (by decide)]

/-! ## What sending on what waits leaves as it was (R453, R470, R475; 07 R332) -/

/-- The fields that show the ports of the module, and what a packet or message that cannot go on is counted and told in. -/
def forwardFields : List Field :=
  [Fld.WF_UNREACH_COUNT_count, Fld.WF_STATUS_wrap, Fld.WF_PORT_CTRL_retire, Fld.CAP_CORE_MAP_present, Fld.CAP_CHAN_MAP_present,
    Fld.CAP_PORT_MAP_present, Fld.CAP_COUNTS_cores, Fld.CAP_COUNTS_channels, Fld.CAP_COUNTS_ports, Fld.CAP_HBM_MIB_mib, Fld.CAP_SRAM_KIB_kib,
    Fld.CAP_PEAK_2X4_gops, Fld.CAP_PEAK_4X4_gops, Fld.CAP_PEAK_FP8_gops, Fld.CAP_PEAK_BF16_gops, Fld.CAP_PEAK_FP32_gflops,
    Fld.CAP_PEER_peer, Fld.CAP_PEER_peer_valid, Fld.CAP_PEER_not_ready, Fld.CAP_PEER_link, Fld.CAP_GEN_gen,
    Fld.HI_EVENT_STATUS_cap_change] ++ reportFields

/-- `t` has the service record of `s`, and differs from it in no register field but those. -/
def State.onlyForward (s t : State) : Prop := s.copiesBut t forwardFields ∧ t.service = s.service

section
variable {s t : State}

theorem State.onlyForward_refl (s : State) : s.onlyForward s := ⟨s.copiesBut_refl _, rfl⟩

theorem State.onlyForward_foldl {α : Type} {f : State → α → State} (hf : ∀ t x, s.onlyForward t → s.onlyForward (f t x)) (l : List α)
    (h : s.onlyForward t) : s.onlyForward (l.foldl f t) := by
  induction l generalizing t with
  | nil => exact h
  | cons x l ih => exact ih (hf t x h)

/-- No field of a port's state is among those. -/
theorem State.onlyForward_portState (h : s.onlyForward t) (p : Nat) : t.portState p = s.portState p := State.copiesBut_get h.1 (by decide) p

/-- What a report leaves has the service record. -/
theorem State.reportRest_service (h : s.reportRest t) : t.service = s.service := by
  rw [← h]

variable (h : s.onlyForward t)
include h

/-- A change outside the registers and the service record. -/
theorem State.onlyForward_rest {u : State} (hr : u.regs = t.regs) (hs : u.service = t.service) : s.onlyForward u :=
  ⟨State.copiesBut_then h.1 hr, hs.trans h.2⟩

theorem State.onlyForward_set {f : Field} (hf : f ∈ forwardFields) (i v : Nat) : s.onlyForward (t.set f i v) :=
  ⟨State.copiesBut_set h.1 hf i v, h.2⟩

theorem State.onlyForward_setAll (i : Nat) (l : List (Field × Nat)) (hl : ∀ e ∈ l, e.1 ∈ forwardFields) : s.onlyForward (t.setAll i l) :=
  ⟨State.copiesBut_setAll h.1 i l hl, (State.setAll_service ..).trans h.2⟩

theorem State.onlyForward_report (f i info : Nat) (rail forced : Bool) : s.onlyForward (t.report f i info rail forced) :=
  ⟨State.copiesBut_trans h.1 (State.copiesBut_mono (t.report_copies f i info rail forced) (fun _ hf => List.mem_append_right _ hf)),
    (State.reportRest_service (t.report_reportRest ..)).trans h.2⟩

/-! ### The capability table (07 R330 to R333) -/

theorem State.onlyForward_refreshCaps : s.onlyForward t.refreshCaps := by
  have each : ∀ (u : State) (f : Field) (g : State → Nat → Nat) (l : List Nat), f ∈ forwardFields → s.onlyForward u →
      s.onlyForward (l.foldl (fun v i => v.set f i (g v i)) u) :=
    fun u f g l hf hu => State.onlyForward_foldl (fun v i hv => State.onlyForward_set hv hf i _) l hu
  refine State.onlyForward_setAll ?_ _ _ (by simp [forwardFields])
  exact each _ _ (fun v => mapWord (fun c => decide (c < 80) && !v.service.retiredPorts.contains c)) _ (by decide)
    (each _ _ (fun v => mapWord (fun c => !v.service.retiredChannels.contains c)) _ (by decide)
      (each t _ (fun v => mapWord v.corePresent) _ (by decide) h))

theorem State.onlyForward_capChange : s.onlyForward t.capChange := by
  have hr := State.onlyForward_report (State.onlyForward_set h (f := Fld.CAP_GEN_gen) (by decide) 0 (t.get Fld.CAP_GEN_gen + 1)) 0x41 0 0 false false
  refine State.onlyForward_foldl (fun u fn hu => ⟨?_, ?_⟩) _ hr
  · exact State.copiesBut_trans hu.1 (State.copiesBut_mono (u.hostEvent_copies fn _) (by decide))
  · exact (State.reportRest_service (u.hostEvent_reportRest fn _)).trans hu.2

theorem State.onlyForward_showPeer (p : Nat) : s.onlyForward (t.showPeer p) := by
  have hs := State.onlyForward_setAll h p [(Fld.CAP_PEER_peer, t.peerOf p), (Fld.CAP_PEER_peer_valid, t.get Fld.WF_PORT_PEER_peer_valid p),
    (Fld.CAP_PEER_not_ready, t.get Fld.WF_PORT_PEER_not_ready p), (Fld.CAP_PEER_link, linkCode (t.portState p))] (by simp [forwardFields])
  unfold State.showPeer
  dsimp only
  split
  · exact State.onlyForward_capChange hs
  · exact hs

theorem State.onlyForward_shrinkLoad (has : Section → Bool) : s.onlyForward (t.shrinkLoad has) := by
  unfold State.shrinkLoad
  dsimp only
  split
  · exact State.onlyForward_rest h rfl rfl
  · exact h

/-! ### Packets and messages go on (R453, R465 to R470, R475) -/

theorem State.onlyForward_setPort (p : Nat) (x : Port) : s.onlyForward (t.setPort p x) := State.onlyForward_rest h rfl rfl

theorem State.onlyForward_emit (x : Sent) : s.onlyForward (t.emit x) := State.onlyForward_rest h rfl rfl

/-- What cannot go on is counted and told. -/
theorem State.onlyForward_unreached (i info : Nat) :
    s.onlyForward ((t.count Fld.WF_UNREACH_COUNT_count 0 Fld.WF_STATUS_wrap 0 1).report 0x24 i info) :=
  State.onlyForward_report ⟨State.copiesBut_count h.1 (by decide) (by decide) _ _ _ _, (State.count_service ..).trans h.2⟩ _ _ _ _ _

theorem State.onlyForward_freePlace (place : Nat) : s.onlyForward (t.freePlace place) := by
  unfold State.freePlace
  dsimp only
  split
  · exact State.onlyForward_setPort h _ _
  · exact h

theorem State.onlyForward_dropPacket (port : Nat) (pkt : Packet) (status : Nat) : s.onlyForward (t.dropPacket port pkt status) := by
  have hf := State.onlyForward_freePlace h pkt.place
  unfold State.dropPacket
  dsimp only
  split
  · exact State.onlyForward_unreached hf _ _
  · exact State.onlyForward_emit hf _

theorem State.onlyForward_forwardOne (port : Nat) (pkt : Packet) : s.onlyForward (t.forwardOne port pkt) := by
  unfold State.forwardOne
  split
  · exact State.onlyForward_dropPacket h _ _ _
  · split
    · exact State.onlyForward_dropPacket h _ _ _
    · split <;> exact State.onlyForward_rest h rfl rfl

theorem State.onlyForward_forwardAll : s.onlyForward t.forwardAll :=
  State.onlyForward_foldl (fun _ w hu => State.onlyForward_forwardOne hu w.1 w.2) _ (State.onlyForward_rest h rfl rfl)

theorem State.onlyForward_enqueue (q from' slot : Nat) : s.onlyForward (t.enqueue q from' slot) := by
  unfold State.enqueue
  dsimp only
  split
  · split <;> exact State.onlyForward_rest h rfl rfl
  · exact State.onlyForward_setPort h _ _

theorem State.onlyForward_sendExpress (from' slot : Nat) : s.onlyForward (t.sendExpress from' slot) := by
  unfold State.sendExpress
  dsimp only
  split
  · exact State.onlyForward_enqueue h _ _ _
  · refine State.onlyForward_unreached ?_ _ _
    split
    · exact State.onlyForward_setPort h _ _
    · exact h

theorem State.onlyForward_recallExpress (p : Nat) : s.onlyForward (t.recallExpress p) :=
  State.onlyForward_foldl (fun _ m hu => State.onlyForward_sendExpress hu m.1 m.2) _ (State.onlyForward_setPort h _ _)

end

section
variable {s : State} {port : Fin 80}

/-! ## A silent port (R473, R485, R488) -/

section
variable {cause : LossCause}

/-- A port that has just been lost, before its loss is counted. -/
def State.portSilent (s : State) (p : Nat) : State :=
  (((s.leaveUp p 4).setPort p { (s.leaveUp p 4).portAt p with lostAt := (s.leaveUp p 4).time, training := none }).set
    Fld.WF_PORT_STATUS_lost p 1).set Fld.WF_STATUS_loss 0 1

theorem State.portSilent_state (s : State) (p : Nat) : (s.portSilent p).portState p = 4 := by
  rw [State.portSilent, State.portState, State.get_set_field _ (by decide), State.get_set_field _ (by decide), State.setPort_get]
  exact s.leaveUp_state p 4

theorem State.portSilent_portAt (s : State) (p : Nat) :
    (s.portSilent p).portAt p = { (s.leaveUp p 4).portAt p with lostAt := s.time, training := none } := by
  rw [← s.leaveUp_time p 4]
  exact State.portAt_setPort_same ..

theorem execPortLost_of_not (h : (s.portState port ≠ 2 ∧ s.portState port ≠ 3) ∨ lossSeen cause = false) :
    execPortLost port cause s = .next s := if_pos h

/-- What a lost peer was doing here ends, where it is known. -/
def State.peerEnds (x : State) (m : Nat) (known : Bool) : State :=
  if known then
    let s := (x.markLost m).loseOps m
    (s.contexts.map Prod.fst).foldl (fun s c => s.loseCtx m c) ((s.loseMoves m).loseOwn m)
  else x

/-- A loss is told, to the READY ports where the peer is known, and what waits goes on. -/
def State.lossTold (y : State) (p m : Nat) (known : Bool) : State :=
  let s := if y.flag Fld.WF_CTRL_loss_event_en then y.report 0x20 p m else y
  ((if known then s.sendLoss m 0 else s).recallExpress p).forwardAll

theorem State.lossTold_of_unknown (y : State) (p m : Nat) : y.lossTold p m false =
    ((if y.flag Fld.WF_CTRL_loss_event_en then y.report 0x20 p m else y).recallExpress p).forwardAll := by
  simp only [State.lossTold, Bool.false_eq_true, if_false]

theorem State.lossTold_of_known (y : State) (p m : Nat) : y.lossTold p m true =
    (((if y.flag Fld.WF_CTRL_loss_event_en then y.report 0x20 p m else y).sendLoss m 0).recallExpress p).forwardAll := by
  simp only [State.lossTold, if_true]

section
variable (hup : s.portState port = 2 ∨ s.portState port = 3) (hseen : lossSeen cause = true) {x y : State} {m : Nat}
  (hx : x = (s.portSilent port).count Fld.WF_LOSS_COUNT_count 0 Fld.WF_STATUS_wrap 0 0) (hm : m = s.peerOf port)
include hup hseen hx hm

/-- A port in use is lost: it is counted, its peer's work ends, and the loss is told. -/
theorem execPortLost_of_lost : execPortLost port cause s =
    .next (((x.peerEnds m (s.flag Fld.WF_PORT_PEER_peer_valid port)).showPeer port).lossTold port m
      (s.flag Fld.WF_PORT_PEER_peer_valid port)) := by
  subst hx hm
  exact if_neg (not_or.2 ⟨by omega, by simp [hseen]⟩)

/-- Nothing is asked of, or marked for, a peer that is not known. -/
theorem execPortLost_of_unknown (hk : s.flag Fld.WF_PORT_PEER_peer_valid port = false) (hy : y = x.showPeer port) :
    execPortLost port cause s =
      .next (((if y.flag Fld.WF_CTRL_loss_event_en then y.report 0x20 port m else y).recallExpress port).forwardAll) := by
  rw [execPortLost_of_lost hup hseen hx hm, hk, State.lossTold_of_unknown, hy]
  rfl

theorem execPortLost_of_known (hk : s.flag Fld.WF_PORT_PEER_peer_valid port = true) {z : State}
    (hz : z = (((x.markLost m).loseOps m).loseMoves m).loseOwn m)
    (hy : y = ((((x.markLost m).loseOps m).contexts.map Prod.fst).foldl (fun s c => s.loseCtx m c) z).showPeer port) :
    execPortLost port cause s =
      .next ((((if y.flag Fld.WF_CTRL_loss_event_en then y.report 0x20 port m else y).sendLoss m 0).recallExpress port).forwardAll) := by
  rw [execPortLost_of_lost hup hseen hx hm, hk, State.lossTold_of_known, hy, hz]
  rfl

end

theorem execLostPortRetrain_of_due (h4 : s.portState port = 4) (ht : (s.portAt port).lostAt + 10000 ≤ s.time)
    (he : s.flag Fld.WF_PORT_CTRL_enable port = true) :
    execLostPortRetrain port s = .next (s.setPort port { s.portAt port with training := some 3, lostAt := s.time }) :=
  if_pos ⟨h4, ht, he⟩

theorem execLostPortRetrain_of_not (h : s.portState port ≠ 4 ∨ s.time < (s.portAt port).lostAt + 10000 ∨
    s.flag Fld.WF_PORT_CTRL_enable port = false) : execLostPortRetrain port s = .next s := by
  refine if_neg ?_
  rintro ⟨h4, ht, he⟩
  rcases h with h | h | h
  · exact h h4
  · omega
  · simp [h] at he

end

/-! ## LOSS (R489) -/

section
variable {m : Nat}

theorem State.loseMoves_of_none (h : ∀ x ∈ s.moves, x.kind ≠ .guestIn m ∧ ∀ g, x.kind ≠ .bringT3 m g ∧ x.kind ≠ .spillT3 m g) :
    s.loseMoves m = s := by
  unfold State.loseMoves
  rw [List.filter_eq_nil_iff.2 fun x hx hm => ?_]
  · rfl
  · obtain ⟨hguest, hother⟩ := h x hx
    split at hm
    · next n g hk => exact (hother g).1 (beq_iff_eq.1 hm ▸ hk)
    · next n g hk => exact (hother g).2 (beq_iff_eq.1 hm ▸ hk)
    · next n hk => exact hguest (beq_iff_eq.1 hm ▸ hk)
    · exact Bool.false_ne_true hm

theorem State.fenceOpsRun_of_none (h : s.fenceOps = []) (n : Nat) : s.fenceOpsRun n = s := by
  have hnext : s.fenceNext = none := by simp [State.fenceNext, h]
  cases n with
  | zero => rfl
  | succ n => simp only [State.fenceOpsRun, hnext]

theorem State.loseOwn_of_none (h : ∀ q ∈ s.own, q.module ≠ m) (hf : s.fenceOps = []) : s.loseOwn m = s := by
  have hmine : s.own.filter (fun q => q.module == m) = [] := List.filter_eq_nil_iff.2 (by simpa using h)
  have hothers : s.own.filter (fun q => q.module != m) = s.own := List.filter_eq_self.2 (by simpa using h)
  have hsignals : ∀ f, s.fenceOps.filter f = [] := by simp [hf]
  simp only [State.loseOwn, hmine, hothers, hsignals, List.foldl_nil]
  exact State.fenceOpsRun_of_none hf 32

theorem State.markLost_of_notLost (h : s.moduleLost m = false) : s.markLost m = { s with lostModules := s.lostModules ++ [m] } :=
  if_neg (by simp [h])

/-- LOSS goes out on each READY port, in order. -/
theorem State.sendLoss_eq (s : State) (m hop : Nat) :
    s.sendLoss m hop = { s with outbox := s.outbox ++ (s.portsIn 3).map (fun p => Sent.loss p (BitVec.ofNat 14 m) hop) } :=
  State.foldl_emit (g := fun _ p => Sent.loss p (BitVec.ofNat 14 m) hop) (fun _ _ _ => rfl) (s.portsIn 3) s

end

section
variable {lost : ModuleId} {hop : Nat}

theorem execLossMsg_of_lost (h : s.moduleLost lost.toNat = true) : execLossMsg lost hop s = .next s := if_pos h

theorem execLossMsg_of_new (h : s.moduleLost lost.toNat = false) {u : State}
    (hu : u = ((s.markLost lost.toNat).loseMoves lost.toNat).loseOwn lost.toNat) :
    execLossMsg lost hop s = .next (if hop < 2 then u.sendLoss lost.toNat (hop + 1) else u) := by
  subst hu
  exact if_neg (by simp [h])

/-- Where nothing is under way with the module it is marked, and the message goes on. -/
theorem execLossMsg_of_idle (h : s.moduleLost lost.toNat = false)
    (hm : ∀ x ∈ s.moves, x.kind ≠ .guestIn lost.toNat ∧ ∀ g, x.kind ≠ .bringT3 lost.toNat g ∧ x.kind ≠ .spillT3 lost.toNat g)
    (ho : ∀ q ∈ s.own, q.module ≠ lost.toNat) (hf : s.fenceOps = []) : execLossMsg lost hop s =
    .next { s with
      lostModules := s.lostModules ++ [lost.toNat],
      outbox := s.outbox ++ (if hop < 2 then (s.portsIn 3).map (fun p => Sent.loss p lost (hop + 1)) else []) } := by
  have hu : { s with lostModules := s.lostModules ++ [lost.toNat] } = ((s.markLost lost.toNat).loseMoves lost.toNat).loseOwn lost.toNat := by
    rw [State.markLost_of_notLost h]
    generalize hv : { s with lostModules := s.lostModules ++ [lost.toNat] } = v
    have hmoves : v.moves = s.moves := hv ▸ rfl
    have hown : v.own = s.own := hv ▸ rfl
    have hfence : v.fenceOps = s.fenceOps := hv ▸ rfl
    rw [State.loseMoves_of_none (hmoves ▸ hm), State.loseOwn_of_none (hown ▸ ho) (hfence.trans hf)]
  rw [execLossMsg_of_new h hu]
  split
  · rw [State.sendLoss_eq, BitVec.ofNat_toNat, BitVec.setWidth_eq]
    rfl
  · rw [List.append_nil]

end

/-! ## Lanes (R486; 14 R641) -/

section
variable {lane : Fin 3} {why : LaneFault}

theorem execLaneFail_of_bad (hup : s.portState port = 2 ∨ s.portState port = 3) (hb : s.laneBad why = true) (hl : lane.val ∈ s.lanes port)
    (ht : (s.portAt port).training = none) : execLaneFail port lane why s =
    .next (((s.setPort port { s.portAt port with training := some lane.val }).set Fld.WF_PORT_STATE_half_rate port 1).emit
      (.lane port lane (((s.lanes port).filter (· != lane.val)).headD 0) false)) :=
  if_neg (by rcases hup with h | h <;> simp [h, hb, hl, ht])

theorem execLaneFail_of_not (h : (s.portState port ≠ 2 ∧ s.portState port ≠ 3) ∨ s.laneBad why = false ∨ lane.val ∉ s.lanes port ∨
    (s.portAt port).training ≠ none) : execLaneFail port lane why s = .next s := by
  refine if_pos ?_
  rcases h with ⟨h2, h3⟩ | h | h | h
  · simp [h2, h3]
  · simp [h]
  · simp [h]
  · simp [Option.isSome_iff_ne_none.2 h]

/-! ### A lane has retrained, or has not -/

variable {back spare : Bool}

theorem execLaneRetrainDone_of_nothing (ht : (s.portAt port).training = none) (h : back = false ∨ (s.portAt port).farLane = none) :
    execLaneRetrainDone port back spare s = .next s := by
  simp only [execLaneRetrainDone, ht]
  exact if_neg (by rcases h with h | h <;> simp [h])

theorem execLaneRetrainDone_of_whole (ht : (s.portAt port).training = some 3) : execLaneRetrainDone port back spare s = .next s := by
  simp [execLaneRetrainDone, ht]

theorem execLaneRetrainDone_of_far (ht : (s.portAt port).training = none) (hf : (s.portAt port).farLane ≠ none) :
    execLaneRetrainDone port true spare s =
      .next ((s.setPort port { s.portAt port with farLane := none }).set Fld.WF_PORT_STATE_half_rate port 0) := by
  simp [execLaneRetrainDone, ht, Option.isSome_iff_ne_none.2 hf]

/-- A lane that has retrained, before it is told: it is counted, and the rate is whole unless the far end retrains one. -/
def State.laneBack (s : State) (p l : Nat) : State :=
  let n := s.get (laneRec l) p
  let u := ((s.setPort p { s.portAt p with training := none }).set (laneRec l) p (n + 1)).set Fld.WF_PORT_STATE_half_rate p
    (bit (s.portAt p).farLane.isSome)
  { u with service := { s.service with laneRec := Sparse.set 0 s.service.laneRec (3 * p + l) (n + 1) } }

section
variable (ht : (s.portAt port).training = some lane.val)
include ht

theorem execLaneRetrainDone_of_back (hb : back = true) (hn : s.get (laneRec lane) port < 255) :
    execLaneRetrainDone port back spare s = .next ((s.laneBack port lane).report 0x27 port lane) := by
  have hlane := lane.isLt
  simp only [execLaneRetrainDone, ht, if_neg (by omega : ¬ 3 ≤ lane.val), if_pos (And.intro hb hn), State.portAt_setPort_same]
  rfl

section
variable (h : back = false ∨ 255 ≤ s.get (laneRec lane) port)
include h

/-- A lane that has not come back gives its place to the spare, or the port retires. -/
theorem execLaneRetrainDone_of_notBack {u : State} (hu : u = s.setPort port { s.portAt port with training := none }) :
    execLaneRetrainDone port back spare s = if s.flag Fld.WF_PORT_STATE_spare_used port = false ∧ spare = true then
      .next ((u.emit (.lane port lane 2 true)).swapLane port lane) else .next (u.retirePort port) := by
  have hlane := lane.isLt
  have hn : ¬ (back = true ∧ s.get (laneRec lane) port < 255) := by
    rintro ⟨hb, hlt⟩
    rcases h with h | h
    · simp [h] at hb
    · omega
  subst hu
  simp only [execLaneRetrainDone, ht, if_neg (by omega : ¬ 3 ≤ lane.val), if_neg hn]
  rfl

theorem execLaneRetrainDone_of_spare {u : State} (hu : u = s.setPort port { s.portAt port with training := none })
    (hused : s.flag Fld.WF_PORT_STATE_spare_used port = false) (hs : spare = true) :
    execLaneRetrainDone port back spare s = .next ((u.emit (.lane port lane 2 true)).swapLane port lane) :=
  (execLaneRetrainDone_of_notBack ht h hu).trans (if_pos ⟨hused, hs⟩)

theorem execLaneRetrainDone_of_noSpare {u : State} (hu : u = s.setPort port { s.portAt port with training := none })
    (hs : s.flag Fld.WF_PORT_STATE_spare_used port = true ∨ spare = false) :
    execLaneRetrainDone port back spare s = .next (u.retirePort port) := by
  refine (execLaneRetrainDone_of_notBack ht h hu).trans (if_neg ?_)
  rintro ⟨hused, hspare⟩
  rcases hs with hs | hs
  · simp [hs] at hused
  · simp [hs] at hspare

end

end

/-- The recovery counters of a port hold eight bits each and lie apart from the other fields that a retrained lane sets. -/
theorem laneRec_width (l : Nat) : (laneRec l).width = 8 := by
  unfold laneRec
  split
  · rfl
  · split <;> rfl

theorem laneRec_apart (l : Nat) {f : Field} (h : ∀ g ∈ [Fld.WF_LANE_RECOVERY_rec_a, Fld.WF_LANE_RECOVERY_rec_b, Fld.WF_LANE_RECOVERY_rec_s],
    (g.reg * 32 + g.lo) % 16384 ≠ (f.reg * 32 + f.lo) % 16384) :
    ((laneRec l).reg * 32 + (laneRec l).lo) % 16384 ≠ (f.reg * 32 + f.lo) % 16384 := by
  unfold laneRec
  split
  · exact h _ (by decide)
  · split
    · exact h _ (by decide)
    · exact h _ (by decide)

/-- No report writes a recovery counter. -/
theorem laneRec_unreported (l : Nat) : ∀ w ∈ reportFields, ((laneRec l).reg * 32 + (laneRec l).lo) % 16384 ≠ (w.reg * 32 + w.lo) % 16384 :=
  fun w hw => laneRec_apart l (fun g hg => (by decide : ∀ g ∈ [Fld.WF_LANE_RECOVERY_rec_a, Fld.WF_LANE_RECOVERY_rec_b,
    Fld.WF_LANE_RECOVERY_rec_s], ∀ w ∈ reportFields, (g.reg * 32 + g.lo) % 16384 ≠ (w.reg * 32 + w.lo) % 16384) g hg w hw)

theorem State.laneBack_rec (s : State) (p l : Nat) (h : s.get (laneRec l) p < 255) :
    (s.laneBack p l).get (laneRec l) p = s.get (laneRec l) p + 1 := by
  have hset : (s.laneBack p l).get (laneRec l) p = _ :=
    (State.get_set_field _ (laneRec_apart l (by decide)) _ _ _).trans (State.get_set_same _ (laneRec l) p (s.get (laneRec l) p + 1))
  rw [hset, laneRec_width]
  exact Nat.mod_eq_of_lt (by omega)

theorem State.laneBack_half_rate (s : State) (p l : Nat) :
    (s.laneBack p l).get Fld.WF_PORT_STATE_half_rate p = if (s.portAt p).farLane = none then 0 else 1 := by
  have hset : (s.laneBack p l).get Fld.WF_PORT_STATE_half_rate p = _ :=
    State.get_set_same _ Fld.WF_PORT_STATE_half_rate p (bit (s.portAt p).farLane.isSome)
  rw [hset]
  cases (s.portAt p).farLane <;> rfl

theorem State.laneBack_portAt (s : State) (p l : Nat) : (s.laneBack p l).portAt p = { s.portAt p with training := none } :=
  State.portAt_setPort_same ..

theorem State.laneBack_service (s : State) (p l : Nat) :
    Sparse.get 0 (s.laneBack p l).service.laneRec (3 * p + l) = s.get (laneRec l) p + 1 := Sparse.get_set_same ..

theorem State.laneBack_sourceCount (s : State) (p l i : Nat) : (s.laneBack p l).get Fld.FC_SRC_COUNT_count i = s.get Fld.FC_SRC_COUNT_count i :=
  (State.get_set_field _ (by decide) _ _ _).trans
    (State.get_set_field _ (laneRec_apart l (f := Fld.FC_SRC_COUNT_count) (by decide)).symm _ _ _)

/-! ### The peer sends on one lane, or swaps its spare in -/

variable {leaving entering : Fin 4} {swap : Bool}

theorem execLaneFlit_of_not (h : (s.portState port ≠ 2 ∧ s.portState port ≠ 3) ∨ leaving.val ∉ s.lanes port) :
    execLaneFlit port leaving entering swap s = .next s := by
  refine if_pos ?_
  rcases h with ⟨h2, h3⟩ | h
  · simp [h2, h3]
  · simp [h]

section
variable (hup : s.portState port = 2 ∨ s.portState port = 3) (hl : leaving.val ∈ s.lanes port)
include hup hl

theorem execLaneFlit_of_leaving : execLaneFlit port leaving entering false s =
    .next ((s.setPort port { s.portAt port with farLane := some leaving.val }).set Fld.WF_PORT_STATE_half_rate port 1) :=
  if_neg (by rcases hup with h | h <;> simp [h, hl])

/-- The spare's swap is taken where the spare enters for the first time. -/
theorem execLaneFlit_of_swapping : execLaneFlit port leaving entering true s =
    if entering = 2 ∧ s.flag Fld.WF_PORT_STATE_spare_used port = false then .next (s.swapLane port leaving) else .next s :=
  if_neg (by rcases hup with h | h <;> simp [h, hl])

theorem execLaneFlit_of_swap (he : entering = 2) (hu : s.flag Fld.WF_PORT_STATE_spare_used port = false) :
    execLaneFlit port leaving entering true s = .next (s.swapLane port leaving) :=
  (execLaneFlit_of_swapping hup hl).trans (if_pos ⟨he, hu⟩)

theorem execLaneFlit_of_noSwap (h : entering ≠ 2 ∨ s.flag Fld.WF_PORT_STATE_spare_used port = true) :
    execLaneFlit port leaving entering true s = .next s := by
  refine (execLaneFlit_of_swapping hup hl).trans (if_neg ?_)
  rintro ⟨he, hu⟩
  rcases h with h | h
  · exact h he
  · simp [h] at hu

end

/-! ### The spare takes a position's place -/

/-- The fields that a swap sets. -/
theorem State.swapLane_get (s : State) (p leaving : Nat) {f : Field}
    (hf : ∀ w ∈ reportFields, (f.reg * 32 + f.lo) % 16384 ≠ (w.reg * 32 + w.lo) % 16384) (i : Nat) :
    (s.swapLane p leaving).get f i = (s.setAll p [(Fld.WF_PORT_STATE_lane_lo, ((s.lanes p).filter (· != leaving)).headD 0),
      (Fld.WF_PORT_STATE_lane_hi, 2), (Fld.WF_PORT_STATE_half_rate, 0), (Fld.WF_PORT_STATE_spare_used, 1), (Fld.WF_PORT_STATUS_swapped, 1)]).get f i :=
  State.get_report_field _ hf _ _ _ _ _ _

theorem State.swapLane_lane_lo (s : State) (p leaving : Nat) : (s.swapLane p leaving).get Fld.WF_PORT_STATE_lane_lo p =
    ((s.lanes p).filter (· != leaving)).headD 0 % 2 ^ Fld.WF_PORT_STATE_lane_lo.width := by
  rw [s.swapLane_get p leaving (by decide)]
  simp (disch := decide) only [State.setAll_cons, State.setAll_nil, State.get_set_field, State.get_set_same]

theorem State.swapLane_lane_hi (s : State) (p leaving : Nat) : (s.swapLane p leaving).get Fld.WF_PORT_STATE_lane_hi p = 2 := by
  rw [s.swapLane_get p leaving (by decide)]
  simp (disch := decide) only [State.setAll_cons, State.setAll_nil, State.get_set_field, State.get_set_same]
  rfl

theorem State.swapLane_half_rate (s : State) (p leaving : Nat) : (s.swapLane p leaving).get Fld.WF_PORT_STATE_half_rate p = 0 := by
  rw [s.swapLane_get p leaving (by decide)]
  simp (disch := decide) only [State.setAll_cons, State.setAll_nil, State.get_set_field, State.get_set_same, Nat.zero_mod]

theorem State.swapLane_spare_used (s : State) (p leaving : Nat) : (s.swapLane p leaving).get Fld.WF_PORT_STATE_spare_used p = 1 := by
  rw [s.swapLane_get p leaving (by decide)]
  simp only [State.setAll_cons, State.setAll_nil]
  rw [State.get_set_field _ (by decide), State.get_set_same]
  rfl

theorem State.swapLane_swapped (s : State) (p leaving : Nat) : (s.swapLane p leaving).get Fld.WF_PORT_STATUS_swapped p = 1 := by
  rw [s.swapLane_get p leaving (by decide)]
  exact State.get_set_same ..

theorem State.swapLane_portAt (s : State) (p leaving : Nat) :
    (s.swapLane p leaving).portAt p = { s.portAt p with training := none, farLane := none } := by
  have hset : (s.swapLane p leaving).portAt p = _ := (State.portAt_report ..).trans (State.portAt_setPort_same _ p _)
  rw [hset, State.portAt_setAll]

end

/-! ## Retirement (R487) -/

theorem State.retirePort_of_retired {p : Nat} (h : s.portState p = 5) : s.retirePort p = s := if_pos h

/-- The service record lists a port that retires. -/
def State.portListed (s : State) (p : Nat) : State :=
  { s with service := { s.service with
    retiredPorts := if s.service.retiredPorts.contains p then s.service.retiredPorts else s.service.retiredPorts ++ [p] } }

theorem State.mem_portListed (s : State) (p : Nat) : p ∈ (s.portListed p).service.retiredPorts := by
  unfold State.portListed
  dsimp only
  split
  · next h => simpa using h
  · simp

/-- What follows a port's retirement changes neither its state nor the service record. -/
theorem State.retirePort_onlyForward {p : Nat} (h : s.portState p ≠ 5) : ((s.leaveUp p 5).portListed p).onlyForward (s.retirePort p) := by
  have hset := State.onlyForward_set
    (State.onlyForward_shrinkLoad (State.onlyForward_refl ((s.leaveUp p 5).portListed p)) (fun x => bitOf x.ports p))
    (f := Fld.WF_PORT_CTRL_retire) (by decide) p 1
  have htold := State.onlyForward_report (State.onlyForward_showPeer (State.onlyForward_refreshCaps hset) p) 0x22 p 0 false false
  rw [State.retirePort, if_neg h]
  exact State.onlyForward_forwardAll (State.onlyForward_recallExpress htold p)

theorem State.retirePort_retired {p : Nat} (h : s.portState p ≠ 5) :
    (s.retirePort p).portState p = 5 ∧ p ∈ (s.retirePort p).service.retiredPorts := by
  have h5 : (s.retirePort p).portState p = _ := State.onlyForward_portState (State.retirePort_onlyForward h) p
  exact ⟨h5.trans (s.leaveUp_state p 5), (State.retirePort_onlyForward h).2 ▸ State.mem_portListed ..⟩

section
variable {a : Agent} {v : Word32}

theorem execPortRetire_of_refused (h : s.takes a (0xA1008 + 0x40 * port.val) = false) : execPortRetire a port v s = .next s :=
  if_pos (by simp [h])

/-- Retire acts on a write of rim firmware alone. -/
theorem execPortRetire_of_taken (h : s.takes a (0xA1008 + 0x40 * port.val) = true) {u : State}
    (hu : u = (s.mmioWrite a (0xA1008 + 0x40 * port.val) v.toNat).portHeld port) :
    execPortRetire a port v s = .next (if a = .rim ∧ bitOf v.toNat 1 = true then u.retirePort port else u) := by
  subst hu
  exact if_neg (by simp [h])

end

end

/-! ## The obligation on loss -/

/-- Settles O53: each command through the equations of its cases; a retired port stays retired because what follows its retirement changes
no port's state. -/
theorem lostPortsLanesAndRetirement : Obligations.LostPortsLanesAndRetirement := by
  intro s port cause lost hop lane why a v leaving entering back spare
  refine ⟨execPortLost_of_not, fun hup hseen => ⟨s.portSilent port, rfl, s.portSilent_state port, ?lostAt, ?training, fun x y m hx hm =>
      ⟨execPortLost_of_unknown hup hseen hx hm, fun hk z hz => execPortLost_of_known hup hseen hx hm hk hz⟩⟩,
    fun h4 ht he => ⟨_, execLostPortRetrain_of_due h4 ht he, State.portAt_setPort_same .., fun k hk => State.portAt_setPort_other _ hk _, rfl⟩,
    execLostPortRetrain_of_not, execLossMsg_of_lost, fun h u => execLossMsg_of_new h,
    fun h hm ho hf => ⟨_, execLossMsg_of_idle h hm ho hf, rfl, rfl, rfl⟩,
    fun hup hb hl ht => ⟨_, execLaneFail_of_bad hup hb hl ht, ?failing, State.get_set_same .., rfl, ?failed, rfl⟩,
    execLaneFail_of_not, execLaneRetrainDone_of_nothing, execLaneRetrainDone_of_whole,
    fun ht hf => ⟨_, execLaneRetrainDone_of_far ht hf, State.portAt_setPort_same .., fun k hk => State.portAt_setPort_other _ hk _,
      State.get_set_same .., ?far, rfl⟩,
    fun n u ht hn hu => ?retrained, fun hup hl => ⟨⟨_, execLaneFlit_of_leaving hup hl, State.get_set_same .., State.portAt_setPort_same ..,
      fun k hk => State.portAt_setPort_other _ hk _, ?half, rfl⟩, execLaneFlit_of_swap hup hl, execLaneFlit_of_noSwap hup hl⟩,
    execLaneFlit_of_not, execPortRetire_of_refused,
    fun ht u hu => ⟨fun ha hb => (execPortRetire_of_taken ht hu).trans (congrArg _ (if_pos ⟨ha, hb⟩)), fun h =>
      (execPortRetire_of_taken ht hu).trans (congrArg _ (if_neg ?other))⟩,
    State.retirePort_of_retired, State.retirePort_retired, ?swapped⟩
  case lostAt => rw [s.portSilent_portAt]
  case training => rw [s.portSilent_portAt]
  case failing => exact congrArg Port.training (State.portAt_setPort_same s port _)
  case failed => exact State.fieldsBut_set (State.fieldsBut_of_regs rfl) (by simp) _
  case far => exact State.fieldsBut_set (State.fieldsBut_of_regs rfl) (by simp) _
  case half => exact State.fieldsBut_set (State.fieldsBut_of_regs rfl) (by simp) _
  case retrained =>
    subst hn
    refine ⟨fun hb hlt => ⟨_, execLaneRetrainDone_of_back ht hb hlt, ?_, ?_, ?_, ?_, ?_⟩, fun h => execLaneRetrainDone_of_spare ht h hu,
      fun h => execLaneRetrainDone_of_noSpare ht h hu⟩
    · rw [State.get_report_field _ (laneRec_unreported lane), State.laneBack_rec _ _ _ hlt]
    · rw [State.get_report_field _ (by decide), State.laneBack_half_rate]
    · rw [State.portAt_report, State.laneBack_portAt]
    · rw [State.reportRest_service (State.report_reportRest ..), State.laneBack_service]
    · rw [State.report_counted, State.laneBack_sourceCount]
  case other =>
    rintro ⟨ha, hb⟩
    rcases h with h | h
    · exact h ha
    · simp [h] at hb
  case swapped =>
    rintro _ rfl
    refine ⟨?_, ?_, ?_, ?_, ?_, ?_, ?_⟩
    · exact s.swapLane_lane_lo port leaving
    · exact s.swapLane_lane_hi port leaving
    · exact s.swapLane_half_rate port leaving
    · exact s.swapLane_spare_used port leaving
    · exact s.swapLane_swapped port leaving
    · rw [s.swapLane_portAt]
    · rw [s.swapLane_portAt]

end Sys2Proof.Machine

/-! How packets go on, and what each does where it is delivered (10 R459, R462, R463, R473 to R477; 09 R412, R420 to R422, R737; 12 R558 to
R561): the choice of an output, the arrival of a packet of a basket, and the equations of what serves each type. -/

namespace Sys2Proof.Machine

/-! ## A packet for another module (R473 to R477, R490) -/

section
variable {s : State} {port : Fin 80} {pkt : Packet}

theorem execPacketForward_of_here (h : pkt.dest.toNat = s.me) : execPacketForward port pkt s = .next s := if_pos h

/-- A packet clears the mark of its source, unless that is this module, and is sent on. -/
theorem execPacketForward_of_away (h : pkt.dest.toNat ≠ s.me) {w : State}
    (hw : w = if pkt.src.toNat = s.me then s else s.unmarkLost pkt.src.toNat) :
    execPacketForward port pkt s = .next (w.forwardOne port pkt) := by
  subst hw
  exact if_neg h

section
variable {w : State} {p : Nat}

theorem State.forwardOne_of_heldUp (hr : isRimPacket pkt = false) (hh : w.heldUp pkt.dest.toNat = true) :
    w.forwardOne p pkt = w.dropPacket p pkt 2 := if_pos (by simp [hr, hh])

variable (h : isRimPacket pkt = true ∨ w.heldUp pkt.dest.toNat = false)
include h

theorem State.forwardOne_of_open : w.forwardOne p pkt =
    match w.nextPort pkt with
    | none => w.dropPacket p pkt 3
    | some q =>
      if w.keyWaits (packetKey pkt) q then { w with forwardWait := w.forwardWait ++ [(p, pkt)] }
      else
        let next := { pkt with links := pkt.links + 1 }
        let s : State := { w with sentOn := w.sentOn ++ [{ port := q, input := p, pkt := pkt }] }
        (s.setPort q { s.portAt q with outs := (s.portAt q).outs ++ [next] }).emit (.forward q next) := by
  refine (if_neg (by rcases h with h | h <;> simp [h])).trans ?_
  rfl

theorem State.forwardOne_of_noPort (hn : w.nextPort pkt = none) : w.forwardOne p pkt = w.dropPacket p pkt 3 := by
  rw [State.forwardOne_of_open h, hn]

section
variable {q : Nat} (hn : w.nextPort pkt = some q)
include hn

theorem State.forwardOne_of_waits (hk : w.keyWaits (packetKey pkt) q = true) :
    w.forwardOne p pkt = { w with forwardWait := w.forwardWait ++ [(p, pkt)] } := by
  rw [State.forwardOne_of_open h, hn]
  exact if_pos hk

theorem State.forwardOne_of_free (hk : w.keyWaits (packetKey pkt) q = false) {next : Packet} (hx : next = { pkt with links := pkt.links + 1 }) :
    w.forwardOne p pkt = (State.setPort { w with sentOn := w.sentOn ++ [⟨q, p, pkt⟩] } q
      { w.portAt q with outs := (w.portAt q).outs ++ [next] }).emit (.forward q next) := by
  subst hx
  rw [State.forwardOne_of_open h, hn]
  exact if_neg (by simp [hk])

end

end

/-- A packet of a key waits while an earlier one waits, or is unacknowledged on another port. -/
theorem State.keyWaits_iff (w : State) (key p : Nat) : w.keyWaits key p = true ↔
    (∃ x ∈ w.forwardWait, packetKey x.2 = key) ∨ (∃ f ∈ w.sentOn, packetKey f.pkt = key ∧ f.port ≠ p) := by
  simp [State.keyWaits]

end

/-! ## The arrival of a packet of a basket (R459, R463, R464) -/

section
variable {s : State} {pkt : Packet} {t : Nat}

theorem State.staleEpoch_iff (u : State) (pkt : Packet) : u.staleEpoch pkt = true ↔ u.get Fld.KS_ATTR_state pkt.keySlot.toNat = 2 ∨
    (u.get Fld.KS_ATTR_class pkt.keySlot.toNat = 1 ∧ pkt.keyEpoch.toNat ≠ u.get Fld.KS_ATTR_epoch pkt.keySlot.toNat ∧
      pkt.keyEpoch.toNat ≠ (u.get Fld.KS_ATTR_epoch pkt.keySlot.toNat + 1) % 256) := by
  simp [State.staleEpoch, and_assoc]

section
variable (hh : s.halted = false) (ht : pkt.ptype.toNat = t) (hd : pkt.dest.toNat = s.me) (hv : s.delivered pkt = true)
include hh ht hd hv

theorem State.arrive_of_stale (he : (s.packetTaken pkt).staleEpoch pkt = true) (f : State → Nat → State) :
    s.arrive pkt t f = (s.packetTaken pkt).dropStale pkt := (State.arriveHere_of_here hh ht hd hv _).trans (if_pos he)

theorem State.arrive_of_unbound (he : (s.packetTaken pkt).staleEpoch pkt = false)
    (hb : (s.packetTaken pkt).flag Fld.WF_CTRL_serving = false ∨ (s.packetTaken pkt).boundUid pkt.uid.toNat = none) (f : State → Nat → State) :
    s.arrive pkt t f = if isResponse t then s.packetTaken pkt else (s.packetTaken pkt).answer pkt 2 := by
  have hnone : (if (s.packetTaken pkt).flag Fld.WF_CTRL_serving then (s.packetTaken pkt).boundUid pkt.uid.toNat else none) = none := by
    rcases hb with hb | hb <;> simp [hb]
  refine (State.arriveHere_of_here hh ht hd hv _).trans ((if_neg (by simp [he])).trans ?_)
  rw [hnone]

end

/-- Each row of a packet, and each message for a context, is the arrival of a packet of its type. -/
theorem exec_packetRow (s : State) (pkt : Packet) (ctx : Fin 2048) (block : CountBlock) (n : BitVec 64) (bits : List Bool) :
    ∀ x ∈ [(1, Instr.readReq pkt), (2, .readData pkt), (3, .writePkt pkt), (4, .atomicPkt pkt), (5, .offerPkt pkt), (6, .dataPkt pkt),
      (7, .partialPkt pkt), (9, .pagePkt pkt), (8, .countBlock ctx pkt block), (8, .joinOutcomes ctx pkt ⟨n, bits⟩),
      (8, .stepVerdict ctx ⟨pkt, n, bits⟩)], ∃ f, exec x.2 s = .next (s.arrive pkt x.1 f) := by
  simp only [List.mem_cons, List.not_mem_nil, or_false, forall_eq_or_imp, forall_eq]
  exact ⟨⟨_, rfl⟩, ⟨_, rfl⟩, ⟨_, rfl⟩, ⟨_, rfl⟩, ⟨_, rfl⟩, ⟨_, rfl⟩, ⟨_, rfl⟩, ⟨_, rfl⟩, ⟨_, rfl⟩, ⟨_, rfl⟩, ⟨_, rfl⟩⟩

end

/-! ## READ_REQ (R459; 09 R737) -/

section
variable {u w : State} {pkt : Packet} {b va len : Nat}

theorem State.serveRead_of_malformed (hlen : len = pkt.args.toNat % 2 ^ 32) (h : len = 0 ∨ 65536 < len) :
    u.serveRead pkt b = u.answer pkt 1 := by
  subst hlen
  exact if_pos h

variable (hva : va = pkt.ref.toNat) (hlen : len = pkt.args.toNat % 2 ^ 32)
include hva hlen

section
variable {lo : Nat} (hlo : lo = va / 64 * 64) (h0 : len ≠ 0) (hle : len ≤ 65536)
include hlo h0 hle

theorem State.serveRead_of_refused {st : Nat} (hp : u.homePages b 1 (cutPages lo ((va + len + 63) / 64 * 64 - lo)) = (.refuse st, w)) :
    u.serveRead pkt b = w.answer pkt st := by
  subst hva hlen hlo
  refine (if_neg (by omega)).trans ?_
  dsimp only
  rw [hp]

theorem State.serveRead_of_wait (hp : u.homePages b 1 (cutPages lo ((va + len + 63) / 64 * 64 - lo)) = (.wait, w)) :
    u.serveRead pkt b = w.hold pkt := by
  subst hva hlen hlo
  refine (if_neg (by omega)).trans ?_
  dsimp only
  rw [hp]

variable {ps : List (Nat × Nat × PageAt)} (hp : u.homePages b 1 (cutPages lo ((va + len + 63) / 64 * 64 - lo)) = (.ok ps, w))
include hp

theorem State.serveRead_of_lines (h : pkt.ledger.toNat ≠ pagerWord ∨ w.guestFrame (w.basketUid b) va = none) :
    u.serveRead pkt b = (w.watchAway b pkt ps).serveParts b pkt ps := by
  subst hva hlen hlo
  have hnone : (if pkt.ledger.toNat = pagerWord then w.guestFrame (w.basketUid b) pkt.ref.toNat else none) = none := by
    rcases h with h | h <;> simp [h]
  refine (if_neg (by omega)).trans ?_
  dsimp only
  rw [hp]
  dsimp only
  rw [hnone]

/-- A bring-back of a guest page, after which its frame is free. -/
theorem State.serveRead_of_guest (hl : pkt.ledger.toNat = pagerWord) {f : Nat} (hf : w.guestFrame (w.basketUid b) va = some f) :
    u.serveRead pkt b = ((w.emitAll (w.pagePackets b pkt.src.toNat (va / 65536 * 65536) (f * 65536))).freeGuest b f).guestWatches b
      pkt.src.toNat (va / 65536 * 65536) := by
  subst hva hlen hlo
  refine (if_neg (by omega)).trans ?_
  dsimp only
  rw [hp]
  dsimp only
  rw [if_pos hl, hf]

end

/-! ## WRITE (R459; 12 R558) -/

theorem State.serveWrite_of_malformed (h : len = 0 ∨ len % 64 ≠ 0 ∨ va % 64 ≠ 0 ∨
    pkt.payload.length ≠ len + (if u.sidecarOn b then len / 8 else 0)) : u.serveWrite pkt b = u.answer pkt 1 := by
  subst hva hlen
  exact if_pos h

section
variable (h0 : len ≠ 0) (hl : len % 64 = 0) (hv : va % 64 = 0) (hy : pkt.payload.length = len + (if u.sidecarOn b then len / 8 else 0))
include h0 hl hv hy

theorem State.serveWrite_of_refused {st : Nat} (hp : u.homePages b 2 (cutPages va len) = (.refuse st, w)) :
    u.serveWrite pkt b = w.answer pkt st := by
  subst hva hlen
  refine (if_neg (not_or.2 ⟨h0, by omega⟩)).trans ?_
  rw [hp]

theorem State.serveWrite_of_wait (hp : u.homePages b 2 (cutPages va len) = (.wait, w)) : u.serveWrite pkt b = w.hold pkt := by
  subst hva hlen
  refine (if_neg (not_or.2 ⟨h0, by omega⟩)).trans ?_
  rw [hp]

/-- The lines are written page by page; a part that goes on to a third module is answered by that one. -/
theorem State.serveWrite_of_lines {ps : List (Nat × Nat × PageAt)} (hp : u.homePages b 2 (cutPages va len) = (.ok ps, w)) {y : State}
    (hw : y = ps.foldl (fun s x => s.homeWrite b pkt x.1 ((pkt.payload.drop (x.1 - va)).take x.2.1)
      ((pkt.payload.drop (len + (x.1 - va) / 8)).take (x.2.1 / 8)) x.2.2) w) :
    u.serveWrite pkt b = if y.relays.any (fun x => x.pkt == pkt) then y else y.answer pkt 0 := by
  subst hva hlen hw
  refine (if_neg (not_or.2 ⟨h0, by omega⟩)).trans ?_
  rw [hp]

end

end

/-! ## ATOMIC (08 R376; R459) -/

section
variable {u w : State} {pkt : Packet} {b va : Nat} (hva : va = pkt.ref.toNat)
include hva

theorem State.serveAtomic_of_malformed (h : va % 16 ≠ 0) : u.serveAtomic pkt b = u.answer pkt 1 := by
  subst hva
  exact if_pos h

variable (hl : va % 16 = 0)
include hl

theorem State.serveAtomic_of_refused {st : Nat} (hp : u.homePages b 4 [(va, 16)] = (.refuse st, w)) :
    u.serveAtomic pkt b = w.answer pkt st := by
  subst hva
  refine (if_neg (by simp [hl])).trans ?_
  rw [hp]

theorem State.serveAtomic_of_wait (hp : u.homePages b 4 [(va, 16)] = (.wait, w)) :
    u.serveAtomic pkt b = { w with updates := w.updates ++ [.packet pkt] } := by
  subst hva
  refine (if_neg (by simp [hl])).trans ?_
  rw [hp]

theorem State.serveAtomic_of_third {a n m : Nat} (hp : u.homePages b 4 [(va, 16)] = (.ok [(a, n, .atT3 m)], w)) :
    u.serveAtomic pkt b = w.relay b m pkt va 16 pkt.args.toNat [] := by
  subst hva
  refine (if_neg (by simp [hl])).trans ?_
  rw [hp]

section
variable {a n phys i : Nat} {pl : PageAt × FencePlace} (hpl : pl ∈ [(PageAt.here phys, FencePlace.here phys), (.atT4 i, .spill i)])
  (hp : u.homePages b 4 [(va, 16)] = (.ok [(a, n, pl.1)], w))
include hpl hp

/-- A fence that lies here, or was spilled from here to host memory, is signalled where it lies, unless its line carries poison. -/
theorem State.serveAtomic_of_here : u.serveAtomic pkt b = (w.fenceGet b va pl.2).elim ((w.fencePoison b va pl.2).answer pkt 4)
    (fun _ => (w.fenceSignal b va pl.2 (pkt.args.toNat % 2 ^ 64) (pkt.args.toNat / 2 ^ 64)).answer pkt 0) := by
  subst hva
  refine (if_neg (by simp [hl])).trans ?_
  simp only [List.mem_cons, List.not_mem_nil, or_false] at hpl
  rcases hpl with rfl | rfl
  · rw [hp]
    dsimp only
    cases w.fenceGet b pkt.ref.toNat (.here phys) <;> rfl
  · rw [hp]
    dsimp only
    cases w.fenceGet b pkt.ref.toNat (.spill i) <;> rfl

theorem State.serveAtomic_of_poisoned (hn : w.fenceGet b va pl.2 = none) :
    u.serveAtomic pkt b = (w.fencePoison b va pl.2).answer pkt 4 := by
  rw [State.serveAtomic_of_here hva hl hpl hp, hn]
  rfl

theorem State.serveAtomic_of_signalled (hn : w.fenceGet b va pl.2 ≠ none) : u.serveAtomic pkt b =
    (w.fenceSignal b va pl.2 (pkt.args.toNat % 2 ^ 64) (pkt.args.toNat / 2 ^ 64)).answer pkt 0 := by
  obtain ⟨x, hx⟩ := Option.ne_none_iff_exists'.1 hn
  rw [State.serveAtomic_of_here hva hl hpl hp, hx]
  rfl

end

end

/-! ## READ_DATA (R459; 08 R368; 12 R558 to R561) -/

/-- Whole lines have come under a ledger word: an operation's, or that of whoever else awaits them. -/
def State.linesCome (u : State) (pkt : Packet) (b va len : Nat) (cipher plain : List Byte) : State :=
  match u.badLine b va cipher (pkt.payload.drop len), u.wordOp pkt.ledger.toNat with
  | none, some (core, slot, o) => if u.fc.fenced.contains core then u.stale else u.opData core slot o pkt.src.toNat va plain
  | some l, some (core, slot, o) =>
    if u.fc.fenced.contains core then u.stale
    else (u.integrityFail (u.get Fld.CAP_BASKET_partition b)).failEntry core slot o 0x0A l
  | none, none => (u.ownRead pkt.ledger.toNat pkt.src.toNat pkt.ref.toNat).takeData b pkt.src.toNat va pkt plain
      (u.dataFor b pkt.ledger.toNat pkt.src.toNat va len)
  | some _, none =>
    if pkt.ledger.toNat = relayWord then
      u.takeData b pkt.src.toNat va pkt plain (u.dataFor b pkt.ledger.toNat pkt.src.toNat va len)
    else (u.ownRead pkt.ledger.toNat pkt.src.toNat pkt.ref.toNat).dataFails b pkt.ledger.toNat pkt.src.toNat pkt.ref.toNat
      (u.dataFor b pkt.ledger.toNat pkt.src.toNat va len)

section
variable {s u : State} {pkt : Packet} {b va k len : Nat} {cipher plain : List Byte}

section
variable (h : s.admits pkt 2 b) (hu : u = s.packetTaken pkt) (hva : va = pkt.ref.toNat + pkt.args.toNat % 2 ^ 32)
  (hk : k = if u.sidecarOn b then 72 else 64)
include h hu hva hk

theorem execReadData_of_malformed (hm : va % 64 ≠ 0 ∨ pkt.payload.length % k ≠ 0 ∨ pkt.payload = []) : execReadData pkt s = .next u := by
  subst hk hva hu
  refine (congrArg _ (State.arrive_of_admits h _)).trans (congrArg _ (if_pos ?_))
  rwa [List.length_eq_zero_iff]

theorem execReadData_of_lines (hv : va % 64 = 0) (hm : pkt.payload.length % k = 0) (hn : pkt.payload ≠ [])
    (hlen : len = 64 * (pkt.payload.length / k)) (hcipher : cipher = pkt.payload.take len)
    (hplain : plain = (List.range (len / 64)).flatMap (fun i =>
      decLine (u.basketKey b) (tweakOf (u.basketUid b) (va + 64 * i)) ((cipher.drop (64 * i)).take 64))) :
    execReadData pkt s = .next (u.linesCome pkt b va len cipher plain) := by
  subst hplain hcipher hlen hk hva hu
  refine (congrArg _ (State.arrive_of_admits h _)).trans (congrArg _ ((if_neg ?_).trans rfl))
  rw [List.length_eq_zero_iff]
  exact not_or.2 ⟨Decidable.not_not.2 hv, not_or.2 ⟨Decidable.not_not.2 hm, hn⟩⟩

end

section
variable {core slot : Nat} {o : OpRec} (hw : u.wordOp pkt.ledger.toNat = some (core, slot, o))
include hw

/-- The lines of an operation of a fenced core are discarded. -/
theorem State.linesCome_of_fenced (hf : u.fc.fenced.contains core = true) : u.linesCome pkt b va len cipher plain = u.stale := by
  unfold State.linesCome
  rw [hw]
  cases u.badLine b va cipher (pkt.payload.drop len) with
  | none => exact if_pos hf
  | some l => exact if_pos hf

variable (hf : u.fc.fenced.contains core = false)
include hf

theorem State.linesCome_of_op (hb : u.badLine b va cipher (pkt.payload.drop len) = none) :
    u.linesCome pkt b va len cipher plain = u.opData core slot o pkt.src.toNat va plain := by
  unfold State.linesCome
  rw [hw, hb]
  exact if_neg (Bool.eq_false_iff.1 hf)

theorem State.linesCome_of_badOp {l : Nat} (hb : u.badLine b va cipher (pkt.payload.drop len) = some l) :
    u.linesCome pkt b va len cipher plain =
      (u.integrityFail (u.get Fld.CAP_BASKET_partition b)).failEntry core slot o 0x0A l := by
  unfold State.linesCome
  rw [hw, hb]
  exact if_neg (Bool.eq_false_iff.1 hf)

end

section
variable (hw : u.wordOp pkt.ledger.toNat = none) {y : State} {d : DataFor} (hd : d = u.dataFor b pkt.ledger.toNat pkt.src.toNat va len)
include hw hd

theorem State.linesCome_of_other (hb : u.badLine b va cipher (pkt.payload.drop len) = none)
    (hy : y = u.ownRead pkt.ledger.toNat pkt.src.toNat pkt.ref.toNat) :
    u.linesCome pkt b va len cipher plain = y.takeData b pkt.src.toNat va pkt plain d := by
  subst hd hy
  unfold State.linesCome
  rw [hw, hb]

variable {l : Nat} (hb : u.badLine b va cipher (pkt.payload.drop len) = some l)
include hb

/-- Lines passed on for another module are not verified here. -/
theorem State.linesCome_of_relay (hr : pkt.ledger.toNat = relayWord) :
    u.linesCome pkt b va len cipher plain = u.takeData b pkt.src.toNat va pkt plain d := by
  subst hd
  unfold State.linesCome
  rw [hw, hb]
  exact if_pos hr

theorem State.linesCome_of_badOther (hr : pkt.ledger.toNat ≠ relayWord)
    (hy : y = u.ownRead pkt.ledger.toNat pkt.src.toNat pkt.ref.toNat) :
    u.linesCome pkt b va len cipher plain = y.dataFails b pkt.ledger.toNat pkt.src.toNat pkt.ref.toNat d := by
  subst hd hy
  unfold State.linesCome
  rw [hw, hb]
  exact if_neg hr

end

end

/-! ## DATA (R462; 05 R232) -/

section
variable {s u : State} {pkt : Packet} {b : Nat} (h : s.admits pkt 6 b) (hu : u = s.packetTaken pkt) {mine : OpEnv × OpRec → Bool}
  (hmine : mine = fun x => opCode x.2.desc == 0x0C && x.2.sent && opField x.2.desc 10 1 == bitsOf pkt.args.toNat 0 8 &&
    x.2.waits.contains (.payload (bitsOf pkt.args.toNat 8 14)) &&
    (chunkAt x.2.fetched (payloadBase + bitsOf pkt.args.toNat 96 32) (max 1 pkt.payload.length)).isNone)
include h hu hmine

theorem execDataPkt_of_none (hn : (u.kernelOps b pkt.ref.toNat).find? mine = none) : execDataPkt pkt s = .next u := by
  subst hmine hu
  refine (congrArg _ (State.arrive_of_admits h _)).trans (congrArg _ ?_)
  dsimp only
  rw [hn]

section
variable {e : OpEnv} {o : OpRec} (hs : (u.kernelOps b pkt.ref.toNat).find? mine = some (e, o))
include hs

theorem execDataPkt_of_mismatch (hx : bitsOf pkt.args.toNat 22 5 ≠ (exchangeTile e o.desc true).t.fmt ∨
    bitsOf pkt.args.toNat 32 32 ≠ (exchangeTile e o.desc true).n ∨ bitsOf pkt.args.toNat 64 32 ≠ (exchangeTile e o.desc true).m) :
    execDataPkt pkt s = .next (u.failEntry e.core e.slot o 0x09 (bitsOf pkt.args.toNat 8 14)) := by
  subst hmine hu
  refine (congrArg _ (State.arrive_of_admits h _)).trans (congrArg _ ?_)
  dsimp only
  rw [hs]
  exact if_pos hx

section
variable {n : OpRec} {t : Tile} (ht : t = exchangeTile e o.desc true) (hfmt : bitsOf pkt.args.toNat 22 5 = t.t.fmt)
  (hrows : bitsOf pkt.args.toNat 32 32 = t.n) (hcols : bitsOf pkt.args.toNat 64 32 = t.m)
  (hx : n = { o with fetched := addChunk (payloadBase + bitsOf pkt.args.toNat 96 32) pkt.payload o.fetched })
include ht hfmt hrows hcols hx

theorem execDataPkt_of_part (hc : chunkAt n.fetched payloadBase (payloadLen t.t t.n t.m) = none) :
    execDataPkt pkt s = .next (u.setOp e.core e.slot n) := by
  subst hmine hu ht hx
  refine (congrArg _ (State.arrive_of_admits h _)).trans (congrArg _ ?_)
  dsimp only at hc ⊢
  rw [hs]
  refine (if_neg (by simp [hfmt, hrows, hcols])).trans ?_
  rw [hc]

theorem execDataPkt_of_whole {bs : List Byte} (hc : chunkAt n.fetched payloadBase (payloadLen t.t t.n t.m) = some bs) :
    execDataPkt pkt s = .next (((u.setOp e.core e.slot n).received e n (payloadRows t.t t.n t.m bs)).answer pkt 0) := by
  subst hmine hu ht hx
  refine (congrArg _ (State.arrive_of_admits h _)).trans (congrArg _ ?_)
  dsimp only at hc ⊢
  rw [hs]
  refine (if_neg (by simp [hfmt, hrows, hcols])).trans ?_
  rw [hc]

end

end

end

/-! ## PARTIAL (R460, R462; 05 R233 to R236) -/

/-- A reduction still lacks the lanes of a partial. -/
def lacksPartial (p : Partial) (x : OpEnv × OpRec) : Bool :=
  x.2.waits.contains (.partials p.rank) && !(lanesHeld x.2.parts p.rank p.tile).contains p.first

section
variable {s u : State} {pkt : Packet} {b : Nat} (h : s.admits pkt 7 b) (hu : u = s.packetTaken pkt) {ops : List (OpEnv × OpRec)}
  (hops : ops = (u.kernelOps b pkt.ref.toNat).filter (fun x =>
    opCode x.2.desc == 0x0D && (Reduction.of x.2.desc).chan == pkt.args.toNat % 256 && x.2.waitsPartials))
include h hu hops

theorem execPartialPkt_of_none (hn : ops = []) : execPartialPkt pkt s = .next u := by
  subst hu
  refine (congrArg _ (State.arrive_of_admits h _)).trans (congrArg _ ?_)
  dsimp only
  rw [← hops, hn]
  rfl

section
variable {e : OpEnv} {o : OpRec}
  (hd : ops.find? (lacksPartial (partialOf pkt)) = some (e, o) ∨ (ops.find? (lacksPartial (partialOf pkt)) = none ∧ ops.head? = some (e, o)))
include hd

/-- A partial meets the first reduction that lacks it, or else the first: a rank whose lanes are all in is answered. -/
theorem execPartialPkt_of_met : execPartialPkt pkt s = .next (((u.takePartial e o (partialOf pkt)).opAt e.core e.slot o.index).elim
    (u.takePartial e o (partialOf pkt)) (fun n =>
      if n.fault.isNone && o.waits.contains (.partials (partialOf pkt).rank) && !n.waits.contains (.partials (partialOf pkt).rank)
      then (u.takePartial e o (partialOf pkt)).answer pkt 0 else u.takePartial e o (partialOf pkt))) := by
  subst hu
  refine (congrArg _ (State.arrive_of_admits h _)).trans (congrArg _ ?_)
  unfold lacksPartial at hd
  dsimp only
  rw [← hops]
  rcases hd with hd | ⟨hd, hh⟩
  · rw [hd]
    dsimp only
    cases State.opAt _ e.core e.slot o.index <;> rfl
  · rw [hd, hh]
    dsimp only
    cases State.opAt _ e.core e.slot o.index <;> rfl

end

end

/-! ## PAGE (R461; 09 R417, R420, R421) -/

section
variable {s u : State} {pkt : Packet} {b at' c va : Nat} (h : s.admits pkt 9 b) (hu : u = s.packetTaken pkt)
  (hat : at' = pkt.ref.toNat * 64) (hc : c = pkt.args.toNat % 16) (hva : va = at' / 65536 * 65536)
include h hu hat hc hva

theorem execPagePkt_of_malformed (hm : at' ≠ va + 4096 * c ∨ pkt.payload.length < 4096 ∨ 2 ^ 56 ≤ at') :
    execPagePkt pkt s = .next (u.answer pkt 1) := by
  subst hva hc hat hu
  exact (congrArg _ (State.arrive_of_admits h _)).trans (congrArg _ (if_pos hm))

section
variable (he : at' = va + 4096 * c) (hl : 4096 ≤ pkt.payload.length) (hr : at' < 2 ^ 56)
include he hl hr

theorem execPagePkt_of_noFrame (hn : u.pageMove b va pkt.src.toNat = none) : execPagePkt pkt s = .next (u.answer pkt 1) := by
  subst hva hc hat hu
  refine (congrArg _ (State.arrive_of_admits h _)).trans (congrArg _ ((if_neg (by omega)).trans ?_))
  rw [hn]

section
variable {m n : Move} {w k : State} (hm : u.pageMove b va pkt.src.toNat = some (m, w))
  (hk : k = w.putPage b at' (m.frame * 65536 + 4096 * c) (pkt.payload.take 4096) (pkt.payload.drop 4096))
  (hn : n = { m with chunks := m.chunks ||| 2 ^ c })
include hm hk hn

/-- The last chunk of a guest page has come: the page is reported ready. -/
theorem execPagePkt_of_ready {g : Nat} (hg : m.kind = .guestIn g) (hw : n.chunks = 2 ^ 16 - 1) :
    execPagePkt pkt s = .next ({ k with moves := k.moves.filter (fun x => x.id != m.id) }.answer pkt 0) := by
  subst hn hk hva hc hat hu
  refine (congrArg _ (State.arrive_of_admits h _)).trans (congrArg _ ((if_neg (by omega)).trans ?_))
  rw [hm]
  dsimp only at hw ⊢
  rw [hg]
  exact if_pos hw

theorem execPagePkt_of_kept (hw : n.chunks ≠ 2 ^ 16 - 1 ∨ ∀ g, m.kind ≠ .guestIn g) :
    execPagePkt pkt s = .next { k with moves := k.moves.map (fun x => if x.id = m.id then n else x) } := by
  subst hn hk hva hc hat hu
  refine (congrArg _ (State.arrive_of_admits h _)).trans (congrArg _ ((if_neg (by omega)).trans ?_))
  rw [hm]
  dsimp only at hw ⊢
  split
  · next g hg => exact if_neg (hw.resolve_right (fun hn => hn g hg))
  · rfl

end

end

end

/-! ## The obligation on packets -/

/-- A packet is admitted under the number of its type. -/
theorem State.type_of_admits {s : State} {pkt : Packet} {t b : Nat} (h : s.admits pkt t b) {k : BitVec 8} (ht : pkt.ptype = k) : t = k.toNat := by
  rw [← ht]
  exact h.2.1.symm

/-- Settles O54: a packet for another module through the choice of its output; one for this module is the arrival of a packet of its type,
which then does what serves that type. -/
theorem packetsAreForwardedServedOrAnswered : Obligations.PacketsAreForwardedServedOrAnswered := by
  intro s port pkt u ctx block n bits b
  refine ⟨execPacketForward_of_here, fun hd w drop hw hdrop => ?forward, fun x hx => ?rows, u.staleEpoch_iff pkt, fun t h hu =>
    ⟨fun ht => ?read, fun ht => ?write, fun ht => ?atomic, fun ht => ?data, fun ht => ?offer, fun ht => ?payload, fun ht => ?reduction, fun ht => ?page⟩⟩
  case forward =>
    have hx : exec (.packetForward port pkt) s = .next (w.forwardOne port pkt) := execPacketForward_of_away hd hw
    rw [hx]
    subst hdrop
    exact ⟨fun hr hh => congrArg _ (State.forwardOne_of_heldUp hr hh), fun ho => ⟨fun p hn => ⟨fun hk => congrArg _ (State.forwardOne_of_waits ho hn hk),
      fun hk next hnext => congrArg _ (State.forwardOne_of_free ho hn hk hnext)⟩, w.keyWaits_iff (packetKey pkt),
      fun hn => congrArg _ (State.forwardOne_of_noPort ho hn)⟩⟩
  case rows =>
    obtain ⟨f, hf⟩ := exec_packetRow s pkt ctx block n bits x hx
    rw [hf]
    refine ⟨fun hn => congrArg _ (State.arriveHere_of_notHere hn _), fun hh ht hd hv hu => ⟨fun he => ?_, fun he hb => ?_⟩⟩
    · rw [State.arrive_of_stale hh ht hd hv (hu ▸ he), hu]
    · rw [State.arrive_of_unbound hh ht hd hv (hu ▸ he) (hu ▸ hb), hu]
  case read =>
    obtain rfl := State.type_of_admits h ht
    have hx : exec (.readReq pkt) s = .next (u.serveRead pkt b) := hu ▸ congrArg _ (State.arrive_of_admits h _)
    rw [hx]
    intro va len lo hva hlen hlo
    exact ⟨fun hm => congrArg _ (State.serveRead_of_malformed hlen hm), fun h0 hle hp w hpages =>
      ⟨fun st hr => congrArg _ (State.serveRead_of_refused hva hlen hlo h0 hle (hr ▸ hpages)),
        fun hr => congrArg _ (State.serveRead_of_wait hva hlen hlo h0 hle (hr ▸ hpages)),
        fun ps hr hl => congrArg _ (State.serveRead_of_lines hva hlen hlo h0 hle (hr ▸ hpages) hl),
        fun ps f hr hl hf => congrArg _ (State.serveRead_of_guest hva hlen hlo h0 hle (hr ▸ hpages) hl hf)⟩⟩
  case write =>
    obtain rfl := State.type_of_admits h ht
    have hx : exec (.writePkt pkt) s = .next (u.serveWrite pkt b) := hu ▸ congrArg _ (State.arrive_of_admits h _)
    rw [hx]
    intro va len hva hlen
    exact ⟨fun hm => congrArg _ (State.serveWrite_of_malformed hva hlen hm), fun h0 hl hv hy hp w hpages =>
      ⟨fun st hr => congrArg _ (State.serveWrite_of_refused hva hlen h0 hl hv hy (hr ▸ hpages)),
        fun hr => congrArg _ (State.serveWrite_of_wait hva hlen h0 hl hv hy (hr ▸ hpages)),
        fun ps y hr hw => congrArg _ (State.serveWrite_of_lines hva hlen h0 hl hv hy (hr ▸ hpages) hw)⟩⟩
  case atomic =>
    obtain rfl := State.type_of_admits h ht
    have hx : exec (.atomicPkt pkt) s = .next (u.serveAtomic pkt b) := hu ▸ congrArg _ (State.arrive_of_admits h _)
    rw [hx]
    intro va hva
    exact ⟨fun hm => congrArg _ (State.serveAtomic_of_malformed hva hm), fun hl hp w hpages =>
      ⟨fun st hr => congrArg _ (State.serveAtomic_of_refused hva hl (hr ▸ hpages)),
        fun hr => congrArg _ (State.serveAtomic_of_wait hva hl (hr ▸ hpages)),
        fun a len m hr => congrArg _ (State.serveAtomic_of_third hva hl (hr ▸ hpages)),
        fun a len phys i pl hpl hr => ⟨fun hn => congrArg _ (State.serveAtomic_of_poisoned hva hl hpl (hr ▸ hpages) hn),
          fun hn => congrArg _ (State.serveAtomic_of_signalled hva hl hpl (hr ▸ hpages) hn)⟩⟩⟩
  case data =>
    obtain rfl := State.type_of_admits h ht
    intro va k len cipher plain hva hk hlen hcipher hplain
    refine ⟨execReadData_of_malformed h hu hva hk, fun hv hm hn => ?_⟩
    have hx : exec (.readData pkt) s = .next (u.linesCome pkt b va len cipher plain) :=
      execReadData_of_lines h hu hva hk hv hm hn hlen hcipher hplain
    rw [hx]
    refine ⟨fun core slot o hw => ⟨fun hf => congrArg _ (State.linesCome_of_fenced hw hf),
      fun hf hb => congrArg _ (State.linesCome_of_op hw hf hb), fun l hf hb => congrArg _ (State.linesCome_of_badOp hw hf hb)⟩,
      fun hw y d hy hd => ⟨fun hb => ?_, fun l hb => ⟨fun hr => congrArg _ (State.linesCome_of_relay hw hd hb hr),
        fun hr => congrArg _ (State.linesCome_of_badOther hw hd hb hr hy)⟩⟩⟩
    rw [State.linesCome_of_other hw hd hb hy]
    exact ⟨rfl, fun hnobody => by rw [hnobody]; rfl⟩
  case offer =>
    obtain rfl := State.type_of_admits h ht
    intro o ho
    subst ho hu
    exact congrArg _ (State.arrive_of_admits h _)
  case payload =>
    obtain rfl := State.type_of_admits h ht
    intro mine hmine
    exact ⟨execDataPkt_of_none h hu hmine, fun e o hs hx => execDataPkt_of_mismatch h hu hmine hs hx,
      fun e o n t hs ht hfmt hrows hcols hn => ⟨execDataPkt_of_part h hu hmine hs ht hfmt hrows hcols hn,
        fun bs => execDataPkt_of_whole h hu hmine hs ht hfmt hrows hcols hn⟩⟩
  case reduction =>
    obtain rfl := State.type_of_admits h ht
    intro ops hops
    refine ⟨execPartialPkt_of_none h hu hops, fun e o f hd hf => ?_⟩
    have hx : exec (.partialPkt pkt) s = _ := execPartialPkt_of_met h hu hops hd
    rw [hx, hf]
    exact ⟨fun hn => by rw [hn]; rfl, fun n hn => by rw [hn]; rfl⟩
  case page =>
    obtain rfl := State.type_of_admits h ht
    intro at' c va hat hc hva
    exact ⟨execPagePkt_of_malformed h hu hat hc hva, fun he hl hr => ⟨execPagePkt_of_noFrame h hu hat hc hva he hl hr,
      fun m n w k g hm hg hk hn => execPagePkt_of_ready h hu hat hc hva he hl hr hm hk hn hg,
      fun m n w k hm hk hn => execPagePkt_of_kept h hu hat hc hva he hl hr hm hk hn⟩⟩

end Sys2Proof.Machine

/-! Host links, DMA, function resets, TDISP, IDE keys and SPDM (11 R496 to R526; 12 R537 to R540, R568 to R571): what each command's cases
come to, and what a link that trains does to each of its functions. -/

namespace Sys2Proof.Machine

/-! ## Frames -/

/-- `t` agrees with `s` but in registers. -/
def State.onlyRegs (s t : State) : Prop := { t with regs := s.regs } = s

theorem State.onlyRegs_trans {s t u : State} (h : s.onlyRegs t) (g : t.onlyRegs u) : s.onlyRegs u := by
  unfold State.onlyRegs at h g ⊢
  rw [← h, ← g]

theorem State.set_onlyRegs (s : State) (f : Field) (i v : Nat) : s.onlyRegs (s.set f i v) := rfl

section
variable {s t : State} (h : s.onlyRegs t)
include h

theorem State.onlyRegs_dma : t.dma = s.dma := by
  rw [← h]

theorem State.onlyRegs_run : t.run = s.run := by
  rw [← h]

theorem State.onlyRegs_linkFns (n : Nat) : t.linkFns n = s.linkFns n := by
  rw [← h]
  rfl

theorem State.onlyRegs_bytesSame : s.bytesSame t := by
  rw [← h]
  exact fun _ => ⟨rfl, rfl, rfl, rfl, rfl⟩

end

/-- Listed copies are copies of the fields listed with them. -/
theorem State.copiesBut_of_fieldsBut {s t : State} {ws : List (Field × Nat)} (h : s.fieldsBut t ws) {fs : List Field}
    (hm : ∀ w ∈ ws, w.1 ∈ fs) : s.copiesBut t fs :=
  fun f i hw => h f i (fun w hws => hw w.1 (hm w hws) w.2)

/-- A field of a copy that no listed pair names reads as before. -/
theorem State.fieldsBut_get_copy {s t : State} {fs : List Field} {i : Nat} (h : s.fieldsBut t (fs.map (fun f => (f, i)))) {g : Field}
    (hg : ∀ f ∈ fs, g = f ∨ (g.reg * 32 + g.lo) % 16384 ≠ (f.reg * 32 + f.lo) % 16384) {j : Nat} (hj : j ≠ i) : t.get g j = s.get g j := by
  refine h g j (fun w hw => ?_)
  obtain ⟨f, hf, rfl⟩ := List.mem_map.1 hw
  rcases hg f hf with rfl | hne
  · exact Field.key_copy hj
  · exact Field.key_ne hne j i

/-- An event's bit of its function is set; no other register changes. -/
theorem State.hostEvent_fieldsBut (s : State) (fn : Nat) (f : Field) : s.fieldsBut (s.hostEvent fn f) [(f, fn)] := by
  unfold State.hostEvent
  split
  · exact s.fieldsBut_refl _
  · have h := State.fieldsBut_set (s.fieldsBut_refl [(f, fn)]) (List.mem_singleton_self _) 1
    dsimp only
    split
    · exact State.fieldsBut_then h (State.sendMsix_regs _ _ _)
    · exact h

/-- An event that has been told of shows, whether its bit was set before or not. -/
theorem State.hostEvent_flag (s : State) (fn : Nat) {f : Field} (hf : f.width = 1) : (s.hostEvent fn f).flag f fn = true := by
  have hset : (s.set f fn 1).flag f fn = true := by simp [State.flag, hf]
  unfold State.hostEvent
  split
  · assumption
  · dsimp only
    split
    · exact (State.flag_of_regs (State.sendMsix_regs _ _ _) f fn).trans hset
    · exact hset

/-! ## The bit of a link in HI_LINK_STATE (11 R496, R523) -/

/-- Writing one bit of a number changes that bit alone. -/
theorem bitOf_putBits_one (n l : Nat) (v : Bool) (b : Nat) : bitOf (putBits n l 1 (bit v)) b = if b = l then v else bitOf n b := by
  have hr : n % 2 ^ l < 2 ^ l := Nat.mod_lt _ (Nat.two_pow_pos l)
  have hn : n = 2 ^ l * (n / 2 ^ l) + n % 2 ^ l := (Nat.div_add_mod n (2 ^ l)).symm
  have hput : putBits n l 1 (bit v) = 2 ^ l * (2 * (n / 2 ^ l / 2) + bit v) + n % 2 ^ l := by
    have hq : 2 ^ l * (n / 2 ^ l) = 2 ^ l * (2 * (n / 2 ^ l / 2)) + n / 2 ^ l % 2 * 2 ^ l := by
      rw [Nat.mul_comm _ (2 ^ l), ← Nat.mul_add, Nat.div_add_mod]
    have hv : bit v % 2 ^ 1 = bit v := by cases v <;> rfl
    rw [putBits, bitsOf, hv, Nat.pow_one, Nat.mul_add, Nat.mul_comm (bit v)]
    omega
  rw [hput, bitOf_eq_testBit, bitOf_eq_testBit, Nat.testBit_two_pow_mul_add _ hr]
  conv => rhs; rw [hn, Nat.testBit_two_pow_mul_add _ hr]
  rcases Nat.lt_trichotomy b l with h | rfl | h
  · rw [if_pos h, if_pos h, if_neg (by omega)]
  · rw [if_neg (Nat.lt_irrefl b), if_pos rfl, Nat.sub_self]
    cases v <;> simp [bit, Nat.testBit_zero]
  · obtain ⟨k, hk⟩ : ∃ k, b - l = k + 1 := ⟨b - l - 1, by omega⟩
    rw [if_neg (by omega), if_neg (by omega), if_neg (by omega), hk, Nat.testBit_succ, Nat.testBit_succ]
    have hv : bit v < 2 := by cases v <;> decide
    congr 1
    omega

/-- Sets or clears the bit of a link in one function's HI_LINK_STATE. -/
def State.setLinkAt (n : Nat) (up : Bool) (s : State) (fn : Nat) : State :=
  s.set Fld.HI_LINK_STATE_up fn (putBits (s.get Fld.HI_LINK_STATE_up fn) n 1 (bit up))

section
variable (s : State) (n : Nat) (up : Bool)

theorem State.setLink_eq_foldl : s.setLink n up = (List.range 36).foldl (State.setLinkAt n up) s := rfl

/-- One function's bit of the link is written, and no other function's. -/
theorem State.setLinkAt_bit (fn k : Nat) {b : Nat} (hb : b < Fld.HI_LINK_STATE_up.width) :
    bitOf ((State.setLinkAt n up s fn).get Fld.HI_LINK_STATE_up k) b =
      if k = fn ∧ b = n then up else bitOf (s.get Fld.HI_LINK_STATE_up k) b := by
  rw [State.setLinkAt, State.get_set_ite]
  by_cases hk : k = fn
  · rw [if_pos hk, bitOf_mod_two_pow _ hb, bitOf_putBits_one, hk]
    simp
  · rw [if_neg hk, if_neg (fun h => hk h.1)]

theorem State.foldl_setLinkAt_bit (l : List Nat) (fn : Nat) {b : Nat} (hb : b < Fld.HI_LINK_STATE_up.width) :
    bitOf ((l.foldl (State.setLinkAt n up) s).get Fld.HI_LINK_STATE_up fn) b =
      if fn ∈ l ∧ b = n then up else bitOf (s.get Fld.HI_LINK_STATE_up fn) b := by
  induction l generalizing s with
  | nil => simp
  | cons x l ih =>
    rw [List.foldl_cons, ih, s.setLinkAt_bit n up x fn hb]
    by_cases hn : b = n <;> by_cases hx : fn = x <;> simp [hn, hx]

theorem State.setLink_bit {fn b : Nat} (hfn : fn < 36) (hb : b < Fld.HI_LINK_STATE_up.width) :
    bitOf ((s.setLink n up).get Fld.HI_LINK_STATE_up fn) b = if b = n then up else bitOf (s.get Fld.HI_LINK_STATE_up fn) b := by
  rw [State.setLink_eq_foldl, State.foldl_setLinkAt_bit s n up _ fn hb]
  simp [hfn]

theorem State.setLink_copies : s.copiesBut (s.setLink n up) [Fld.HI_LINK_STATE_up] := by
  rw [State.setLink_eq_foldl]
  exact State.copiesBut_foldl (State.setLinkAt n up) (fun _ _ h => State.copiesBut_set h (List.mem_singleton_self _) _ _) _ (s.copiesBut_refl _)

theorem State.setLink_onlyRegs : s.onlyRegs (s.setLink n up) := by
  rw [State.setLink_eq_foldl]
  exact List.foldlRecOn _ _ rfl (fun t h fn _ => State.onlyRegs_trans h (t.set_onlyRegs _ fn _))

end

theorem State.setLink_linkUp (s : State) (n : Fin 4) (up : Bool) : (s.setLink n up).linkUp n = up :=
  (s.setLink_bit n up (by decide) n.isLt).trans (if_pos rfl)

/-! ## LINK_DOWN (11 R523) -/

section
variable {s : State} {n : Fin 4}

theorem execLinkDown_of_down (h : s.linkUp n = false) : execLinkDown n s = .next s := if_neg (by simp [h])

theorem execLinkDown_of_up (h : s.linkUp n = true) : execLinkDown n s = .next (s.linkLost n) := if_pos h

/-- The loss of a link, from the state in which its bit is clear. -/
theorem State.linkLost_eq {v : State} (hv : v = (s.dma.filter (fun d => d.link == n.val)).foldl (fun s d => s.failDma d 0x0F (0x4000 + n))
      { s.setLink n false with dma := s.dma.filter (fun d => d.link != n.val) }) :
    s.linkLost n = ((v.linkFns n).foldl
      (fun s fn => s.count Fld.HI_LINK_DOWN_COUNT_count fn Fld.HI_EVENT_STATUS_down_wrap fn 0) v).report 0x3A n 0 := by
  subst hv
  rw [State.linkLost, State.onlyRegs_dma (s.setLink_onlyRegs n false)]

end

/-! ## LINK_RETURN (11 Table 5 steps 6 and 7) -/

/-- What a link that trains does to one of its functions, `again` when it has trained before. -/
def State.fnReturns (again : Bool) (s : State) (fn : Nat) : State :=
  let s := (s.wake fn).set Fld.HI_ATTACH_bus_master fn 0
  if again then (s.set Fld.HI_ATTACH_attached fn 0).hostEvent fn Fld.HI_EVENT_STATUS_reattached else s

/-- The fields of a function that its link's return writes. -/
def returnFields (again : Bool) : List Field :=
  Fld.HI_ATTACH_bus_master :: if again then [Fld.HI_ATTACH_attached, Fld.HI_EVENT_STATUS_reattached] else []

/-- A function as its link's return leaves it: no bus master, in D0, and after an earlier training not attached, and told so. -/
def State.fnReturned (again : Bool) (s : State) (fn : Nat) : Prop :=
  s.get Fld.HI_ATTACH_bus_master fn = 0 ∧
  (again = true → s.get Fld.HI_ATTACH_attached fn = 0 ∧ s.flag Fld.HI_EVENT_STATUS_reattached fn = true) ∧ s.asleep fn = false

/-- `t` agrees with `s` but in registers, interrupt vectors, what is sent and which functions sleep. -/
def State.returnRest (s t : State) : Prop :=
  { t with regs := s.regs, msix := s.msix, outbox := s.outbox, d3hot := s.d3hot } = s

theorem State.returnRest_trans {s t u : State} (h : s.returnRest t) (g : t.returnRest u) : s.returnRest u := by
  unfold State.returnRest at h g ⊢
  rw [← h, ← g]

theorem State.returnRest_bytesSame {s t : State} (h : s.returnRest t) : s.bytesSame t := by
  rw [← h]
  exact fun _ => ⟨rfl, rfl, rfl, rfl, rfl⟩

theorem State.returnRest_dma {s t : State} (h : s.returnRest t) : t.dma = s.dma := by
  rw [← h]

theorem State.returnRest_run {s t : State} (h : s.returnRest t) : t.run = s.run := by
  rw [← h]

theorem State.set_returnRest (s : State) (f : Field) (i v : Nat) : s.returnRest (s.set f i v) := rfl

theorem State.wake_returnRest (s : State) (fn : Nat) : s.returnRest (s.wake fn) := rfl

/-- `t` agrees with `s` but in registers, interrupt vectors and what is sent. -/
def State.eventRest (s t : State) : Prop := { t with regs := s.regs, msix := s.msix, outbox := s.outbox } = s

theorem State.eventRest_trans {s t u : State} (h : s.eventRest t) (g : t.eventRest u) : s.eventRest u := by
  unfold State.eventRest at h g ⊢
  rw [← h, ← g]

theorem State.set_eventRest (s : State) (f : Field) (i v : Nat) : s.eventRest (s.set f i v) := rfl

theorem State.sendMsix_eventRest (s : State) (fn v : Nat) : s.eventRest (s.sendMsix fn v) := by
  unfold State.sendMsix
  dsimp only
  generalize (if v < (if fn < 32 then 2048 else 1) then v else 0) = w
  split <;> rfl

theorem State.hostEvent_eventRest (s : State) (fn : Nat) (f : Field) : s.eventRest (s.hostEvent fn f) := by
  unfold State.hostEvent
  split
  · rfl
  · dsimp only
    split
    · exact State.eventRest_trans (s.set_eventRest f fn 1) (State.sendMsix_eventRest _ fn 0)
    · rfl

theorem State.eventRest_returnRest {s t : State} (h : s.eventRest t) : s.returnRest t := by
  unfold State.eventRest at h
  unfold State.returnRest
  rw [← h]

theorem State.eventRest_d3hot {s t : State} (h : s.eventRest t) : t.d3hot = s.d3hot := by
  rw [← h]

/-- A woken function is in D0, and the others sleep or not as before. -/
theorem State.wake_asleep (s : State) (fn k : Nat) : (s.wake fn).asleep k = (s.asleep k && k != fn) := by
  rw [Bool.eq_iff_iff]
  simp [State.wake, State.asleep]

section
variable (again : Bool) (s : State) (fn : Nat)

theorem State.fnReturns_fieldsBut : s.fieldsBut (State.fnReturns again s fn) ((returnFields again).map (fun f => (f, fn))) := by
  unfold State.fnReturns
  have hwake : s.fieldsBut (s.wake fn) ((returnFields again).map (fun f => (f, fn))) := State.fieldsBut_of_regs rfl
  have hmaster := State.fieldsBut_set hwake (f := Fld.HI_ATTACH_bus_master) (i := fn) (by simp [returnFields]) 0
  cases again with
  | false => exact hmaster
  | true =>
    have hattach := State.fieldsBut_set hmaster (f := Fld.HI_ATTACH_attached) (i := fn) (by simp [returnFields]) 0
    exact State.fieldsBut_trans hattach (fun f i hw => State.hostEvent_fieldsBut _ fn _ f i
      (fun w hm => hw w (by rw [List.mem_singleton.1 hm]; simp [returnFields])))

theorem State.fnReturns_returnRest : s.returnRest (State.fnReturns again s fn) := by
  have hmaster := State.returnRest_trans (s.wake_returnRest fn) (State.set_returnRest _ Fld.HI_ATTACH_bus_master fn 0)
  cases again with
  | false => exact hmaster
  | true => exact State.returnRest_trans hmaster (State.returnRest_trans (State.set_returnRest _ Fld.HI_ATTACH_attached fn 0)
      (State.eventRest_returnRest (State.hostEvent_eventRest _ fn _)))

theorem State.fnReturns_asleep (k : Nat) : (State.fnReturns again s fn).asleep k = (s.asleep k && k != fn) := by
  have hd : (State.fnReturns again s fn).d3hot = (s.wake fn).d3hot := by
    unfold State.fnReturns
    cases again with
    | false => rfl
    | true => exact (State.eventRest_d3hot (State.hostEvent_eventRest _ fn _)).trans rfl
  rw [← s.wake_asleep fn k, State.asleep, hd, ← State.asleep]

theorem State.fnReturns_returned : (State.fnReturns again s fn).fnReturned again fn := by
  refine ⟨?_, ?_, by simp [State.fnReturns_asleep]⟩
  · unfold State.fnReturns
    cases again with
    | false => exact State.get_set_same _ _ _ _
    | true =>
      dsimp only [if_true]
      rw [if_pos rfl, State.copiesBut_get (State.hostEvent_copies _ _ _) (by decide), State.get_set_field _ (by decide), State.get_set_same]
      rfl
  · rintro rfl
    refine ⟨?_, State.hostEvent_flag _ fn rfl⟩
    rw [State.fnReturns, if_pos rfl, State.copiesBut_get (State.hostEvent_copies _ _ _) (by decide), State.get_set_same]
    rfl

/-- What a function's return leaves, the return of another function keeps. -/
theorem State.fnReturned_fnReturns {k : Nat} (h : s.fnReturned again k) : (State.fnReturns again s fn).fnReturned again k := by
  by_cases hk : k = fn
  · exact hk ▸ s.fnReturns_returned again fn
  · obtain ⟨hmaster, hagain, hsleep⟩ := h
    have hkeep := fun g hg => State.fieldsBut_get_copy (s.fnReturns_fieldsBut again fn) (g := g) hg hk
    refine ⟨(hkeep _ (by cases again <;> decide)).trans hmaster, ?_, by rw [s.fnReturns_asleep again fn k, hsleep]; rfl⟩
    rintro rfl
    obtain ⟨hattached, htold⟩ := hagain rfl
    exact ⟨(hkeep _ (by decide)).trans hattached, by rw [State.flag, hkeep _ (by decide)]; exact htold⟩

end

section
variable (again : Bool) (l : List Nat) (s : State)

theorem State.foldl_fnReturns_copies : s.copiesBut (l.foldl (State.fnReturns again) s) (returnFields again) :=
  State.copiesBut_foldl _ (fun t fn h => State.copiesBut_trans h (State.copiesBut_of_fieldsBut (t.fnReturns_fieldsBut again fn)
    (by simp))) l (s.copiesBut_refl _)

theorem State.foldl_fnReturns_returnRest : s.returnRest (l.foldl (State.fnReturns again) s) :=
  List.foldlRecOn l _ rfl (fun t h fn _ => State.returnRest_trans h (t.fnReturns_returnRest again fn))

theorem State.foldl_fnReturns_returned : ∀ fn ∈ l, (l.foldl (State.fnReturns again) s).fnReturned again fn := by
  induction l generalizing s with
  | nil => exact fun _ h => absurd h (List.not_mem_nil)
  | cons x l ih =>
    intro fn hfn
    rcases List.mem_cons.1 hfn with rfl | hfn
    · exact List.foldlRecOn (motive := fun t => t.fnReturned again fn) l _ (s.fnReturns_returned again fn)
        (fun t h k _ => State.fnReturned_fnReturns again t k h)
    · exact ih _ fn hfn

end

/-- The training of a link is remembered, `again` when it has trained before. -/
def State.noteTraining (s : State) (n : Nat) (again : Bool) : State :=
  { s with run := { s.run with trained := if again then s.run.trained else s.run.trained ++ [n] } }

/-- A link that trains: its bit is set, its training remembered, and each of its functions returns. -/
def State.linkBack (s : State) (n : Nat) : State :=
  (s.linkFns n).foldl (State.fnReturns (s.run.trained.contains n)) ((s.setLink n true).noteTraining n (s.run.trained.contains n))

section
variable (s : State) (n : Nat) (again : Bool)

theorem State.noteTraining_regs : (s.noteTraining n again).regs = s.regs := rfl

theorem State.noteTraining_dma : (s.noteTraining n again).dma = s.dma := rfl

theorem State.noteTraining_bytesSame : s.bytesSame (s.noteTraining n again) := fun _ => ⟨rfl, rfl, rfl, rfl, rfl⟩

theorem State.mem_noteTraining_trained (h : again = true → n ∈ s.run.trained) : n ∈ (s.noteTraining n again).run.trained := by
  rw [State.noteTraining]
  cases again with
  | false => exact List.mem_append_right _ (List.mem_singleton_self n)
  | true => exact h rfl

theorem State.linkBack_returnRest : ((s.setLink n true).noteTraining n (s.run.trained.contains n)).returnRest (s.linkBack n) := by
  rw [State.linkBack]
  exact State.foldl_fnReturns_returnRest _ _ _

theorem State.linkBack_copies_trained : ((s.setLink n true).noteTraining n (s.run.trained.contains n)).copiesBut (s.linkBack n)
    (returnFields (s.run.trained.contains n)) := by
  rw [State.linkBack]
  exact State.foldl_fnReturns_copies _ _ _

theorem State.linkBack_copies : s.copiesBut (s.linkBack n) (Fld.HI_LINK_STATE_up :: returnFields (s.run.trained.contains n)) :=
  State.copiesBut_trans (State.copiesBut_then (State.copiesBut_mono (s.setLink_copies n true) (by simp)) (State.noteTraining_regs _ _ _))
    (State.copiesBut_mono (s.linkBack_copies_trained n) (fun _ h => List.mem_cons_of_mem _ h))

theorem State.linkBack_dma : (s.linkBack n).dma = s.dma := by
  rw [State.returnRest_dma (s.linkBack_returnRest n), State.noteTraining_dma, State.onlyRegs_dma (s.setLink_onlyRegs n true)]

theorem State.linkBack_bytesSame : s.bytesSame (s.linkBack n) :=
  State.bytesSame_trans (State.onlyRegs_bytesSame (s.setLink_onlyRegs n true))
    (State.bytesSame_trans (State.noteTraining_bytesSame _ _ _) (State.returnRest_bytesSame (s.linkBack_returnRest n)))

theorem State.mem_linkBack_trained : n ∈ (s.linkBack n).run.trained := by
  rw [State.returnRest_run (s.linkBack_returnRest n)]
  refine State.mem_noteTraining_trained _ n _ (fun h => ?_)
  rw [State.onlyRegs_run (s.setLink_onlyRegs n true)]
  exact List.contains_iff_mem.1 h

theorem State.linkBack_returned : ∀ fn ∈ s.linkFns n, (s.linkBack n).fnReturned (s.run.trained.contains n) fn := by
  rw [State.linkBack]
  exact State.foldl_fnReturns_returned _ _ _

end

theorem State.linkBack_linkUp (s : State) (n : Fin 4) : (s.linkBack n).linkUp n = true := by
  rw [State.linkUp, State.copiesBut_get (s.linkBack_copies_trained n) (by cases s.run.trained.contains n.val <;> decide) 0,
    State.get_of_regs (State.noteTraining_regs _ _ _), ← State.linkUp, State.setLink_linkUp]

section
variable {s : State} {n : Fin 4}

theorem execLinkReturn_of_stays (h : s.run.phase ≠ .running ∨ s.linkUp n = true ∨ linkCount (s.get Fld.HI_LINK_CFG_bifur) ≤ n.val) :
    execLinkReturn n s = .next s := if_pos h

/-- A link that is in use and down trains, and each of its functions returns. -/
theorem execLinkReturn_of_trains (hp : s.run.phase = .running) (hu : s.linkUp n = false) (hn : n.val < linkCount (s.get Fld.HI_LINK_CFG_bifur)) :
    execLinkReturn n s = .next (s.linkBack n) := by
  rw [execLinkReturn, if_neg (by simp [hp, hu, hn]), State.linkBack, ← State.onlyRegs_linkFns (s.setLink_onlyRegs n true)]
  generalize s.setLink n true = u
  rfl

end

/-! ## DMA_COMPLETION (11 R510, R520, R523) -/

/-- A request goes out on a link that is up, from the function whose requester ID it carries, when that masters the bus and is awake. -/
theorem State.goesOut_iff (s : State) {p n addr fn : Nat} (hfn : fn = if s.inPool p n addr then linkFn0 n else p) :
    s.goesOut p n addr = true ↔ s.linkUp n = true ∧ s.flag Fld.HI_ATTACH_bus_master fn = true ∧ s.asleep fn = false := by
  subst hfn
  simp [State.goesOut, State.mayMaster, State.dmaFn]

/-- A request that has been answered leaves the list, and counts as its engine's progress. -/
def State.dmaAnswered (s : State) (n req : Nat) : State :=
  ({ s with dma := s.dma.filter (fun d => d.id != req) } : State).bump64 Fld.FC_ENG_PROGRESS_LO_lo Fld.FC_ENG_PROGRESS_HI_hi (288 + n)

theorem State.dmaAnswered_progress (s : State) (n req : Nat) :
    (s.dmaAnswered n req).get64 Fld.FC_ENG_PROGRESS_LO_lo Fld.FC_ENG_PROGRESS_HI_hi (288 + n) =
      (s.get64 Fld.FC_ENG_PROGRESS_LO_lo Fld.FC_ENG_PROGRESS_HI_hi (288 + n) + 1) % 2 ^ 64 :=
  State.get64_bump64 _ (Field.key_ne (by decide) _ _) rfl rfl 1

theorem State.dmaAnswered_fieldsBut (s : State) (n req : Nat) : s.fieldsBut (s.dmaAnswered n req)
    [(Fld.FC_ENG_PROGRESS_LO_lo, 288 + n), (Fld.FC_ENG_PROGRESS_HI_hi, 288 + n)] :=
  State.fieldsBut_trans (State.fieldsBut_of_regs rfl) (State.fieldsBut_bump64 _ _ _ _ 1)

/-- What the bytes a request has read, or the poison among them, do to the operation that waits for them. -/
def State.dmaReadEnds (u : State) (b req : Nat) (d : Dma) (o : OpRec) : State :=
  match u.dmaRead b d with
  | .ok bs => u.endAccess d.core d.slot { o with fetched := (d.va, bs) :: o.fetched } (· == .dma req)
  | .poison va tag => (if tag then u.integrityFail d.part else u).failEntry d.core d.slot o 0x0A va

/-- What an answer does to the operation that waits for it: a translation fault, its write performed, or the bytes it read. -/
def State.dmaEnds (u : State) (n b req : Nat) (ok : Bool) (d : Dma) (o : OpRec) : State :=
  if ok = false then ((u.report 0x3B n 0).recordFault b (.translation d.va 2 (((u.leafAt b d.va).map Leaf.level).getD 4))).failEntry
    d.core d.slot o 0x0C d.va
  else if d.write = true then (u.dmaWrite b d).endWait d.core d.slot o (· == .dma req)
  else u.dmaReadEnds b req d o

section
variable {u : State} {n b req : Nat} {d : Dma} {o : OpRec}

theorem State.dmaEnds_of_write (hw : d.write = true) : u.dmaEnds n b req true d o = (u.dmaWrite b d).endWait d.core d.slot o (· == .dma req) := by
  rw [State.dmaEnds, if_neg (by decide), if_pos hw]

theorem State.dmaEnds_of_read (hw : d.write = false) {bs : List Byte} (hr : u.dmaRead b d = .ok bs) :
    u.dmaEnds n b req true d o = u.endAccess d.core d.slot { o with fetched := (d.va, bs) :: o.fetched } (· == .dma req) := by
  rw [State.dmaEnds, if_neg (by decide), if_neg (by simp [hw]), State.dmaReadEnds, hr]

theorem State.dmaEnds_of_poison (hw : d.write = false) {va : Nat} {tag : Bool} (hr : u.dmaRead b d = .poison va tag) :
    u.dmaEnds n b req true d o = (if tag then u.integrityFail d.part else u).failEntry d.core d.slot o 0x0A va := by
  rw [State.dmaEnds, if_neg (by decide), if_neg (by simp [hw]), State.dmaReadEnds, hr]

end

section
variable {s : State} {n : Fin 4} {req : Nat} {ok : Bool}

theorem execDmaCompletion_of_none (h : s.dma.find? (fun d => d.id == req && d.link == n.val) = none) : execDmaCompletion n req ok s = .next s := by
  rw [execDmaCompletion, h]

section
variable {d : Dma} (hd : s.dma.find? (fun d => d.id == req && d.link == n.val) = some d)
include hd

theorem execDmaCompletion_of_held (hg : s.goesOut d.part n d.addr = false) : execDmaCompletion n req ok s = .next s := by
  rw [execDmaCompletion, hd]
  exact if_pos (by simp [hg])

section
variable (hg : s.goesOut d.part n d.addr = true) {u : State} (hu : u = s.dmaAnswered n req)
include hg hu

/-- An answered request is taken from the list; its operation, if it is still in flight, ends or goes on. -/
theorem execDmaCompletion_of_out : execDmaCompletion n req ok s = .next
    (((u.dmaOp d).map (u.dmaEnds n (s.slotBasket (d.core * 8 + d.slot)) req ok d)).getD u) := by
  subst hu
  rw [execDmaCompletion, hd]
  refine (if_neg (by simp [hg])).trans ?_
  dsimp only
  rw [← State.dmaAnswered]
  generalize s.dmaAnswered n req = u
  cases u.dmaOp d with
  | none => rfl
  | some o =>
    cases ok with
    | false => rfl
    | true =>
      dsimp only [Option.map_some, Option.getD_some]
      cases hw : d.write with
      | true => rw [State.dmaEnds_of_write hw]; rfl
      | false =>
        cases hr : u.dmaRead (s.slotBasket (d.core * 8 + d.slot)) d with
        | ok bs => rw [State.dmaEnds_of_read hw hr]; rfl
        | poison va tag => rw [State.dmaEnds_of_poison hw hr]; rfl

theorem execDmaCompletion_of_gone (ho : u.dmaOp d = none) : execDmaCompletion n req ok s = .next u := by
  rw [execDmaCompletion_of_out hd hg hu, ho]
  rfl

theorem execDmaCompletion_of_op {o : OpRec} {b : Nat} (ho : u.dmaOp d = some o) (hb : b = s.slotBasket (d.core * 8 + d.slot)) :
    execDmaCompletion n req ok s = .next (u.dmaEnds n b req ok d o) := by
  rw [execDmaCompletion_of_out hd hg hu, ho, hb]
  rfl

end

end

end

/-! ## Function-level resets (11 R524 to R526) -/

/-- A function-level reset closes the partition, resets its function, and tells of it. -/
theorem execFlrVf_of_partition {s : State} {p : Fin 32} (h0 : p.val ≠ 0) (h : s.partitions.contains p.val = true) :
    execFlrVf p s = .next (s.flr p) := if_neg (by simpa [h0] using h)

theorem execFlrVf_of_stays {s : State} {p : Fin 32} (h : p.val = 0 ∨ s.partitions.contains p.val = false) : execFlrVf p s = .next s :=
  if_pos (by simpa using h)

/-- A key below every listed one reads as nothing listed. -/
theorem Sparse.get_of_wfFrom {α : Type} [DecidableEq α] {d : α} {lo : Nat} {m : List (Nat × α)} (h : Sparse.wfFrom d lo m = true) {k : Nat}
    (hk : k < lo) : Sparse.get d m k = d := by
  refine Sparse.get_above d (fun e he => ?_)
  cases m with
  | nil => cases he
  | cons x m =>
    obtain rfl : x = e := by simpa using he
    simp only [Sparse.wfFrom, Bool.and_eq_true, decide_eq_true_eq] at h
    omega

/-- A canonical table of which only the entries of some keys are kept reads there as before, and elsewhere as nothing listed. -/
theorem Sparse.get_filter {α : Type} [DecidableEq α] {d : α} (p : Nat → Bool) {lo : Nat} {m : List (Nat × α)}
    (h : Sparse.wfFrom d lo m = true) (k : Nat) : Sparse.get d (m.filter (fun e => p e.1)) k = if p k then Sparse.get d m k else d := by
  induction m generalizing lo with
  | nil => simp [Sparse.get]
  | cons e m ih =>
    obtain ⟨j, v⟩ := e
    have hm : Sparse.wfFrom d (j + 1) m = true := by
      simp only [Sparse.wfFrom, Bool.and_eq_true] at h
      exact h.2
    have hcons : Sparse.get d ((j, v) :: m) k = if j = k then v else Sparse.get d m k := by
      rw [Sparse.get]
      split
      · rfl
      · split
        · next hlt => exact (Sparse.get_of_wfFrom hm (by omega)).symm
        · rfl
    rw [List.filter_cons, hcons]
    by_cases hj : j = k
    · subst hj
      by_cases hp : p j = true
      · simp [hp, Sparse.get]
      · rw [if_neg hp, if_neg hp, ih hm, if_neg hp]
    · rw [if_neg hj, ← ih hm]
      split
      · rw [Sparse.get, if_neg hj]
        split
        · next hlt => rw [ih hm, Sparse.get_of_wfFrom hm (by omega), ite_self]
        · rfl
      · rfl

section
variable (s : State) (fn : Nat)

theorem State.resetFn_bus_master : (s.resetFn fn).get Fld.HI_ATTACH_bus_master fn = 0 := State.get_set_same _ _ _ _

theorem State.resetFn_fieldsBut : s.fieldsBut (s.resetFn fn) [(Fld.HI_ATTACH_bus_master, fn)] :=
  State.fieldsBut_set (State.fieldsBut_of_regs rfl) (List.mem_singleton_self _) 0

theorem State.resetFn_asleep (k : Nat) : (s.resetFn fn).asleep k = (s.asleep k && k != fn) := s.wake_asleep fn k

theorem State.resetFn_vector (hw : Sparse.wf MsixVector.reset s.msix = true) (k : Nat) {v : Nat} (hv : v < 2048) :
    (s.resetFn fn).vector k v = if k = fn then MsixVector.reset else s.vector k v := by
  have hk : (k * 2048 + v) / 2048 = k := by omega
  refine (Sparse.get_filter (fun key => key / 2048 != fn) hw _).trans ?_
  rw [hk]
  by_cases h : k = fn
  · simp [h]
  · rw [if_neg h, if_pos (by simpa using h), State.vector]

end

/-! ## TDISP and IDE (12 R568 to R571) -/

section
variable {s : State} {p : Fin 32}

theorem execTdispNonIdeTlp_of_open (h : s.underLid p = false) : execTdispNonIdeTlp p s = .next s := if_neg (by simp [h])

/-- The interface is in ERROR; from RUN its partition is closed. -/
theorem execTdispNonIdeTlp_of_lid (h : s.underLid p = true) : execTdispNonIdeTlp p s =
    .next (if s.get Fld.LID_PART_tdisp p = 2 then (s.set Fld.LID_PART_tdisp p 3).closePart p else s.set Fld.LID_PART_tdisp p 3) := if_pos h

theorem execLockInterfaceRequest_of_active (hu : s.underLid p = true) (ha : s.get Fld.LID_PART_state p = 2)
    (ht : s.get Fld.LID_PART_tdisp p = 0 ∨ s.get Fld.LID_PART_tdisp p = 3) :
    execLockInterfaceRequest p s = .next (s.set Fld.LID_PART_tdisp p 1) := if_pos (by simpa [hu, ha] using ht)

theorem execLockInterfaceRequest_of_stays (h : s.underLid p = false ∨ s.get Fld.LID_PART_state p ≠ 2 ∨
    (s.get Fld.LID_PART_tdisp p ≠ 0 ∧ s.get Fld.LID_PART_tdisp p ≠ 3)) : execLockInterfaceRequest p s = .next s :=
  if_neg (by rcases h with h | h | h <;> simp [h])

theorem execTdispRun_of_locked (hu : s.underLid p = true) (ht : s.get Fld.LID_PART_tdisp p = 1) :
    execTdispRun p s = .next (s.set Fld.LID_PART_tdisp p 2) := if_pos (by simp [hu, ht])

theorem execTdispRun_of_stays (h : s.underLid p = false ∨ s.get Fld.LID_PART_tdisp p ≠ 1) : execTdispRun p s = .next s :=
  if_neg (by rcases h with h | h <;> simp [h])

end

section
variable {s : State} {n : Fin 4} {stream : BitVec 8} {key : BitVec 256}

theorem execIdeKmKeyProg_of_full (h0 : stream ≠ 0) (hn : n * 256 + stream.toNat ∉ s.ideSelective n) (hl : 32 ≤ (s.ideSelective n).length) :
    execIdeKmKeyProg n stream key s = .next s := if_neg (by simpa [hn, hl] using h0)

theorem execIdeKmKeyProg_of_room (h : stream = 0 ∨ n * 256 + stream.toNat ∈ s.ideSelective n ∨ (s.ideSelective n).length < 32) :
    execIdeKmKeyProg n stream key s = .next { s with ideKeys := Sparse.set 0 s.ideKeys (n * 256 + stream.toNat) (key.toNat + 1) } :=
  if_pos (by simpa using h)

end

/-! ## SPDM (12 R537 to R540) -/

/-- Each SPDM row sends one answer, which changes nothing else. -/
theorem exec_spdmRow (s : State) (r : SpdmRequest) (x y z w : Bool) (index : BitVec 8) :
    ∀ c ∈ [Instr.spdmRequest r, .negotiateAlgorithms x y z w, .getMeasurements index, .getBinding], ∃ d, exec c s = .next (s.spdm d) := by
  simp only [List.mem_cons, List.not_mem_nil, or_false, forall_eq_or_imp, forall_eq]
  refine ⟨⟨_, rfl⟩, ⟨_, rfl⟩, ?_, ⟨_, rfl⟩⟩
  change ∃ d, execGetMeasurements index s = _
  unfold execGetMeasurements
  dsimp only
  split
  · exact ⟨_, rfl⟩
  · split
    · exact ⟨_, rfl⟩
    · split
      · exact ⟨_, rfl⟩
      · exact ⟨_, rfl⟩

theorem State.spdm_of_silent {s : State} (h : s.rimServes = false) (d : List Byte) : s.spdm d = s := if_neg (by simp [h])

theorem exec_spdmRow_of_silent {s : State} (h : s.rimServes = false) (r : SpdmRequest) (x y z w : Bool) (index : BitVec 8) :
    ∀ c ∈ [Instr.spdmRequest r, .negotiateAlgorithms x y z w, .getMeasurements index, .getBinding], exec c s = .next s := by
  intro c hc
  obtain ⟨d, hd⟩ := exec_spdmRow s r x y z w index c hc
  rw [hd, State.spdm_of_silent h]

theorem State.spdm_of_serves {s : State} (h : s.rimServes = true) (d : List Byte) : s.spdm d = { s with outbox := s.outbox ++ [.spdm d] } :=
  if_pos h

/-- A request that names a slot other than 0 is invalid. -/
theorem execSpdmRequest_of_slot {s : State} {r : SpdmRequest} (hs : r.slot ≠ 0) (hc : r.code = 0x82 ∨ r.code = 0x83) :
    execSpdmRequest r s = .next (s.spdm [0x13, 0x7F, 0x01, 0x00]) := by
  unfold execSpdmRequest
  have hslot : ¬ r.slot = 0#4 := hs
  rcases hc with hc | hc <;> simp [hc, hslot]

theorem execSpdmRequest_of_unsupported {s : State} {r : SpdmRequest} (hc : r.code = 0xE6 ∨ r.code = 0xE7 ∨ r.code = 0xEE ∨ r.code = 0xED) :
    execSpdmRequest r s = .next (s.spdm [0x13, 0x7F, 0x07, r.code]) := by
  unfold execSpdmRequest
  rcases hc with hc | hc | hc | hc <;> simp [hc]

section
variable {s : State} {index : BitVec 8} (h0 : index ≠ 0) (hall : index ≠ 0xFF)
include h0 hall

theorem execGetMeasurements_of_block {d : BitVec 512} (hd : s.measure index.toNat = some d) :
    execGetMeasurements index s = .next (s.spdm ([0x13, 0x60] ++ measureBlock index.toNat d)) := by
  refine (if_neg (fun h => h0 (BitVec.eq_of_toNat_eq h))).trans ((if_neg (fun h => hall (BitVec.eq_of_toNat_eq h))).trans ?_)
  rw [hd]

theorem execGetMeasurements_of_noBlock (hd : s.measure index.toNat = none) :
    execGetMeasurements index s = .next (s.spdm [0x13, 0x7F, 0x01, 0x00]) := by
  refine (if_neg (fun h => h0 (BitVec.eq_of_toNat_eq h))).trans ((if_neg (fun h => hall (BitVec.eq_of_toNat_eq h))).trans ?_)
  rw [hd]

end

/-! ## The obligation -/

/-- Settles O55: each command through the equations of its cases; a link's bit through what a fold over its copies writes, a returned
function through what its own return writes and the others' returns keep. -/
theorem linksDmaResetsInterfacesAndSpdm : Obligations.LinksDmaResetsInterfacesAndSpdm := by
  intro s n req ok x y z w p stream index key r
  refine ⟨execLinkDown_of_down, fun hup => ?down, execLinkReturn_of_stays, fun hp hu hn => ?trained, execDmaCompletion_of_none,
    fun d hd => ⟨execDmaCompletion_of_held hd, fun hg => ?answered⟩, fun addr fn hfn => s.goesOut_iff hfn,
    execFlrVf_of_stays, execFlrVf_of_partition, fun h => if_neg (by simpa using h), fun h => if_pos h, fun h => if_pos h, fun h => if_neg h,
    fun fn => ?reset, execTdispNonIdeTlp_of_open, fun hu => ?plain, fun hu ha ht => ?locks, execLockInterfaceRequest_of_stays,
    fun hu ht => ?runs, execTdispRun_of_stays, execIdeKmKeyProg_of_full, fun h => ?programmed, fun h => ?silent, fun h => ?serves⟩
  case down =>
    refine ⟨s.setLink n false, s.setLink_linkUp n false, fun fn hfn b hb => ?_,
      s.setLink_copies n false, s.setLink_onlyRegs n false, fun v hv => (execLinkDown_of_up hup).trans (congrArg _ (State.linkLost_eq hv))⟩
    rw [s.setLink_bit n false hfn hb]
    by_cases h : b = n.val <;> simp [h]
  case trained =>
    refine ⟨s.linkBack n, execLinkReturn_of_trains hp hu hn, s.linkBack_linkUp n, s.mem_linkBack_trained n, fun fn hfn => ?_, ?_,
      s.linkBack_bytesSame n, s.linkBack_dma n⟩
    · obtain ⟨hmaster, hagain, hsleep⟩ := s.linkBack_returned n fn hfn
      exact ⟨hmaster, fun h => hagain (List.contains_iff_mem.2 h), hsleep⟩
    · have hcopies := s.linkBack_copies n
      simpa only [returnFields, List.contains_iff_mem, List.cons_append, List.nil_append] using hcopies
  case answered =>
    refine ⟨s.dmaAnswered n req, rfl, s.dmaAnswered_progress n req, s.dmaAnswered_fieldsBut n req, rfl, execDmaCompletion_of_gone hd hg rfl,
      fun o b ho hb => ?_⟩
    have hends : ∀ ok, exec (.dmaCompletion n req ok) s = .next ((s.dmaAnswered n req).dmaEnds n b req ok d o) :=
      fun _ => execDmaCompletion_of_op hd hg rfl ho hb
    exact ⟨hends false, fun hw => by rw [hends, State.dmaEnds_of_write hw], fun hw => ⟨fun bs hr => by rw [hends, State.dmaEnds_of_read hw hr],
      fun va hr => by rw [hends, State.dmaEnds_of_poison hw hr, if_pos rfl],
      fun va hr => by rw [hends, State.dmaEnds_of_poison hw hr, if_neg Bool.false_ne_true]⟩⟩
  case reset =>
    exact ⟨s.resetFn_bus_master fn, s.resetFn_fieldsBut fn, fun hw k v hv => s.resetFn_vector fn hw k hv, by simp [s.resetFn_asleep],
      fun k hk => by simp [s.resetFn_asleep, hk], rfl⟩
  case plain =>
    exact ⟨s.set Fld.LID_PART_tdisp p 3, State.get_set_same _ _ _ _, s.set_onlyFields _ _ _, execTdispNonIdeTlp_of_lid hu⟩
  case locks =>
    exact ⟨_, execLockInterfaceRequest_of_active hu ha ht, State.get_set_same _ _ _ _, s.set_onlyFields _ _ _⟩
  case runs => exact ⟨_, execTdispRun_of_locked hu ht, State.get_set_same _ _ _ _, s.set_onlyFields _ _ _⟩
  case programmed =>
    exact ⟨_, execIdeKmKeyProg_of_room h, Sparse.get_set_same .., fun k hk => Sparse.get_set_other _ _ hk _, rfl⟩
  case silent =>
    have hrow := exec_spdmRow_of_silent h r x y z w index
    exact ⟨hrow _ (by simp), hrow _ (by simp), hrow _ (by simp), hrow _ (by simp)⟩
  case serves =>
    have answer : ∀ {c : Instr} {d : List Byte}, exec c s = .next (s.spdm d) → exec c s = .next { s with outbox := s.outbox ++ [.spdm d] } :=
      fun hc => hc.trans (congrArg _ (State.spdm_of_serves h _))
    obtain ⟨d, hd⟩ := exec_spdmRow s r x y z w index (.spdmRequest r) (by simp)
    exact ⟨answer rfl, answer rfl, answer rfl, fun hs hc => answer (execSpdmRequest_of_slot hs hc),
      fun hc => answer (execSpdmRequest_of_unsupported hc), ⟨d, answer hd⟩, answer rfl, answer rfl,
      fun d h0 hall hm => answer (execGetMeasurements_of_block h0 hall hm), fun h0 hall hm => answer (execGetMeasurements_of_noBlock h0 hall hm),
      answer rfl, answer rfl, rfl, rfl, rfl⟩

end Sys2Proof.Machine

/-! What every step does: it runs the front command, and whatever it does the memories and the register table keep their form and no fuse is
unburnt (09; 12 R531, R546). -/

namespace Sys2Proof.Machine

/-! ## What a step keeps -/

/-- A step comes after the state before in all that `Kept` names but the queue and the running. -/
theorem step_keepsForm {s t : State} (h : step s = .next t) :
    (s.memWf → t.memWf) ∧ (s.regsRising → t.regsRising) ∧ s.fuses.le t.fuses := by
  cases hp : s.pending with
  | nil =>
    rw [step_of_pending_nil hp] at h
    cases h
    have hk := State.tick_kept (.refl s)
    exact ⟨hk.mem, hk.regs, hk.fuses⟩
  | cons c rest =>
    rw [step_of_pending_cons hp] at h
    have hk := (exec_keptButRun c { s with pending := rest }).out t h
    exact ⟨hk.mem, hk.regs, hk.fuses⟩

/-- Settles O4: every command and the passing of time keep both forms (Laws/Kept.lean). -/
theorem stepKeepsMemoryForm : Obligations.StepKeepsMemoryForm := by
  intro s t hmem hregs hstep
  obtain ⟨keepsMem, keepsRegs, -⟩ := step_keepsForm hstep
  exact ⟨keepsMem hmem, keepsRegs hregs⟩

/-- Settles O5: the fuses after a step come after those before it, whether a command or time made the step (Laws/Kept.lean). -/
theorem stepNeverUnburnsAFuse : Obligations.StepNeverUnburnsAFuse :=
  fun _ _ hstep => (step_keepsForm hstep).2.2

/-- Settles O1: with a command waiting a step is that command's meaning on the state with the rest of the queue. -/
theorem stepRunsTheFrontCommand : Obligations.StepRunsTheFrontCommand :=
  fun _ _ _ hp => step_of_pending_cons hp

/-! ## The state before power -/

theorem Mem.byte_nil (a : Nat) : Mem.byte [] a = 0 := rfl

/-- Settles O3: the tables before power are empty, so each is in order and reads as what an unlisted key stands for. -/
theorem resetIsSound : Obligations.ResetIsSound :=
  have hmem : State.reset.memWf := ⟨rfl, rfl, rfl, rfl, rfl⟩
  have hregs : State.reset.regsRising := List.Pairwise.nil
  ⟨hmem, hregs, rfl, rfl, rfl, State.reset_get,
    fun a => ⟨Mem.byte_nil a, Mem.byte_nil a, Mem.byte_nil a, Mem.byte_nil a, Mem.byte_nil a⟩⟩

end Sys2Proof.Machine

/-! Power and reset (16 R698 to R705), the root PLL (13 R592, R593) and the I3C target (16 R701): what each command gives in each phase. -/

namespace Sys2Proof.Machine

/-! ## What showing ERR_N and THERM_ALERT_N writes (14 R645; 13 R621) -/

theorem State.fieldsBut_driveErr {s t : State} {ws : List (Field × Nat)} (h : s.fieldsBut t ws) (hl : (Fld.FC_ERR_PIN_low, 0) ∈ ws)
    (hp : (Fld.FC_ERR_PIN_pulsing, 0) ∈ ws) : s.fieldsBut t.driveErr ws :=
  State.fieldsBut_then (State.fieldsBut_set (State.fieldsBut_set h hl (bit t.errLow)) hp _) rfl

theorem State.fieldsBut_driveTherm {s t : State} {ws : List (Field × Nat)} (h : s.fieldsBut t ws)
    (hm : (Fld.PW_COOLANT_therm_alert, 0) ∈ ws) : s.fieldsBut t.driveTherm ws :=
  State.fieldsBut_then (State.fieldsBut_set h hm (bit t.driveTherm.pins.thermAlertN.not)) (by simp [State.driveTherm])

/-- The fields that show the two pins. -/
def shownPins : List (Field × Nat) := [(Fld.FC_ERR_PIN_low, 0), (Fld.FC_ERR_PIN_pulsing, 0), (Fld.PW_COOLANT_therm_alert, 0)]

/-- ERR_N and THERM_ALERT_N are shown as they stand. -/
def State.showPins (s : State) : State := s.driveErr.driveTherm

theorem State.showPins_fieldsBut (s : State) : s.fieldsBut s.showPins shownPins :=
  State.fieldsBut_driveTherm (State.fieldsBut_driveErr (s.fieldsBut_refl _) (by decide) (by decide)) (by decide)

theorem State.showPins_get (s : State) {f : Field} {i : Nat} (h : ∀ w ∈ shownPins, f.key i ≠ w.1.key w.2) :
    s.showPins.get f i = s.get f i := s.showPins_fieldsBut f i h

/-! ## The input and PERST_N (16 R698, R705) -/

section
variable {s : State} {mv us : Nat}

theorem execPowerInputApply_of_inRange (hp : s.run.phase = .unpowered) (hlow : 50000 ≤ mv) (hhigh : mv ≤ 57600)
    (hl : s.pins.lossSeen = true → 50000 < mv ∧ 10000 ≤ us) : execPowerInputApply mv us s =
      .next { s with pins := { s.pins with inputOk := true, lossSeen := false }, run := { s.run with phase := .held } } := by
  refine if_pos ⟨hp, hlow, hhigh, ?_⟩
  cases hs : s.pins.lossSeen with
  | false => exact .inl rfl
  | true => exact .inr (hl hs)

theorem execPowerInputApply_of_refused
    (h : s.run.phase ≠ .unpowered ∨ mv < 50000 ∨ 57600 < mv ∨ (s.pins.lossSeen = true ∧ (mv = 50000 ∨ us < 10000))) :
    execPowerInputApply mv us s = .next s := by
  refine if_neg ?_
  rintro ⟨hp, hlow, hhigh, hl⟩
  rcases h with h | h | h | ⟨hs, h⟩
  · exact h hp
  · omega
  · omega
  · rcases hl with hl | ⟨hm, hu⟩
    · rw [hs] at hl
      cases hl
    · omega

/-- A module without its 54 V input. -/
def State.unpowered (s : State) : State :=
  { s.lostAll with pins := { s.lostAll.pins with inputOk := false, lossSeen := true, perstN := false } }

theorem execPowerInputLoss_of_loss (hp : s.run.phase ≠ .unpowered) (hm : mv < 44000) (hu : 100 ≤ us) :
    execPowerInputLoss mv us s = .next s.unpowered := if_pos ⟨hm, hu, hp⟩

theorem execPowerInputLoss_of_none (h : s.run.phase = .unpowered ∨ 44000 ≤ mv ∨ us < 100) : execPowerInputLoss mv us s = .next s := by
  refine if_neg ?_
  rintro ⟨hm, hu, hp⟩
  rcases h with h | h | h
  · exact hp h
  · omega
  · omega

/-- The state PERST_N holds, before the two pins are shown: all is lost but the coolant bits (log entry 183). -/
def State.heldInReset (s : State) : State :=
  ({ s.lostAll with run := { s.lostAll.run with phase := .held } } : State).setAll 0
    [(Fld.FC_ERR_PIN_coolant_hold, s.get Fld.FC_ERR_PIN_coolant_hold 0), (Fld.PW_COOLANT_stopped, s.get Fld.PW_COOLANT_stopped 0)]

theorem execPerstAssert_of_long (hp : s.run.phase ≠ .unpowered) (hu : 100 ≤ us) :
    execPerstAssert us s = .next s.heldInReset.showPins := if_neg (by simp [hp, hu])

theorem execPerstAssert_of_none (h : us < 100 ∨ s.run.phase = .unpowered) : execPerstAssert us s = .next s := if_pos h

theorem State.heldInReset_get (s : State) {f : Field} {i : Nat}
    (h : ∀ w ∈ [Fld.FC_ERR_PIN_coolant_hold, Fld.PW_COOLANT_stopped], f.key i ≠ w.key 0) : s.heldInReset.get f i = f.resetAt i :=
  State.fieldsBut_setAll (ws := [(Fld.FC_ERR_PIN_coolant_hold, 0), (Fld.PW_COOLANT_stopped, 0)]) (State.fieldsBut_refl _ _) 0 _
    (by simp) f i (by simpa using h)

end

/-- Settles O8: the four outcomes of the two commands; what a loss leaves is read off the state in which all is lost. -/
theorem powerInputApplyAndLoss : Obligations.PowerInputApplyAndLoss := by
  intro s mv us
  refine ⟨fun hp hlow hhigh hl => ⟨_, execPowerInputApply_of_inRange hp hlow hhigh hl, rfl, rfl, rfl, rfl, rfl⟩,
    execPowerInputApply_of_refused, fun hp hm hu => ?_, execPowerInputLoss_of_none⟩
  exact ⟨s.unpowered, execPowerInputLoss_of_loss hp hm hu, rfl, rfl, rfl, fun _ _ => rfl,
    fun _ => ⟨rfl, rfl, rfl, rfl, rfl⟩, rfl, rfl, rfl, rfl, rfl, rfl⟩

/-- Settles O9: the held state is the one in which all is lost, with the coolant bits put back and the two pins shown. -/
theorem perstResetsTheModule : Obligations.PerstResetsTheModule := by
  intro s us
  refine ⟨fun hp hu => ⟨_, execPerstAssert_of_long hp hu, rfl, rfl, fun f i hf => ?_, ?_,
    fun _ => ⟨rfl, rfl, rfl, rfl, rfl⟩, rfl, rfl, rfl, rfl, rfl, rfl, rfl, rfl, rfl, rfl, rfl, rfl⟩, execPerstAssert_of_none⟩
  · simp only [List.forall_mem_cons] at hf
    obtain ⟨hhold, hstopped, hlow, hpulsing, htherm, -⟩ := hf
    rw [State.showPins_get _ (by simp [shownPins, hlow, hpulsing, htherm]), State.heldInReset_get _ (by simp [hhold, hstopped])]
  · have hget : s.heldInReset.showPins.get Fld.PW_COOLANT_stopped = s.get Fld.PW_COOLANT_stopped % 2 := by
      rw [State.showPins_get _ (by decide)]
      exact State.get_set_same _ _ _ _
    rw [State.flag, hget]
    exact (decide_not ..).symm

/-! ## From held to a locked PLL (16 R704; 13 R592) -/

section
variable {s : State}

/-- A held module as PERST_N is released, before the two pins are shown. -/
def State.resetReleased (s : State) : State :=
  ({ s with pins := { s.pins with perstN := true, uartBaud := 115200 }, run := { s.run with phase := .waitLock } } : State).setAll 0
    [(Fld.FC_ERR_PIN_coolant_hold, 0), (Fld.PW_COOLANT_stopped, 0)]

theorem execPerstRelease_of_held (h : s.run.phase = .held) : execPerstRelease s = .next s.resetReleased.showPins := if_pos h

theorem execPerstRelease_of_otherPhase (h : s.run.phase ≠ .held) : execPerstRelease s = .next s := if_neg h

theorem State.resetReleased_get_coolant (s : State) :
    s.resetReleased.get Fld.FC_ERR_PIN_coolant_hold = 0 ∧ s.resetReleased.get Fld.PW_COOLANT_stopped = 0 := by
  simp (disch := decide) only [State.resetReleased, State.setAll_cons, State.setAll_nil, State.get_set_field, State.get_set_same]
  exact ⟨rfl, rfl⟩

theorem State.resetReleased_fieldsBut (s : State) :
    s.fieldsBut s.resetReleased [(Fld.FC_ERR_PIN_coolant_hold, 0), (Fld.PW_COOLANT_stopped, 0)] :=
  State.fieldsBut_setAll (State.fieldsBut_of_regs rfl) 0 _ (by simp)

theorem execPllLock_of_waiting (h : s.run.phase = .waitLock) : execPllLock s =
    .next (({ s with run := { s.run with phase := .locked, rootEdge := 0, edge := 0 } } : State).set Fld.CK_PLL_STATUS_locked 0 1) := if_pos h

theorem execPllLock_of_otherPhase (h : s.run.phase ≠ .waitLock) : execPllLock s = .next s := if_neg h

end

theorem State.fieldsBut_mono {s t : State} {ws vs : List (Field × Nat)} (h : s.fieldsBut t ws) (hm : ∀ w ∈ ws, w ∈ vs) :
    s.fieldsBut t vs := fun f i hf => h f i (fun w hw => hf w (hm w hw))

/-- Settles O10: each command gives its state in its phase and nothing in the others. -/
theorem perstReleaseAndPllLock : Obligations.PerstReleaseAndPllLock := by
  intro s
  refine ⟨fun mv us hp hm hh hu => execPowerInputApply_of_inRange hp (Nat.le_of_lt hm) hh (fun _ => ⟨hm, hu⟩),
    fun mv us hp hm hu => execPowerInputLoss_of_loss hp hm hu, fun us hp hu => ⟨_, execPerstAssert_of_long hp hu, rfl, rfl⟩,
    ⟨rfl, rfl, rfl, rfl, rfl, rfl, rfl, rfl, rfl, rfl⟩, fun h => ?_, execPerstRelease_of_otherPhase, fun h => ?_, execPllLock_of_otherPhase⟩
  · obtain ⟨hhold, hstopped⟩ := s.resetReleased_get_coolant
    refine ⟨_, execPerstRelease_of_held h, rfl, rfl, rfl, ?_, ?_, ?_, rfl⟩
    · rw [State.showPins_get _ (by decide), hhold]
    · rw [State.showPins_get _ (by decide), hstopped]
    · exact State.fieldsBut_trans (State.fieldsBut_mono s.resetReleased_fieldsBut (by decide))
        (State.fieldsBut_mono s.resetReleased.showPins_fieldsBut (by decide))
  · exact ⟨_, execPllLock_of_waiting h, rfl, rfl, State.get_set_same _ _ _ _,
      State.fieldsBut_set (State.fieldsBut_of_regs rfl) (by decide) 1, rfl⟩

/-! ## REFCLK (13 R593) -/

section
variable {s : State} {lost : Bool} {ppm : Nat}

/-- A module whose PLL has lost REFCLK, before the event is reported. -/
def State.heldOver (s : State) : State :=
  ({ s with pins := { s.pins with refclkOk := false } } : State).setAll 0
    [(Fld.CK_PLL_STATUS_locked, 0), (Fld.CK_PLL_STATUS_holdover, 1), (Fld.CK_PLL_STATUS_lock_lost, 1)]

theorem State.heldOver_get (s : State) : s.heldOver.get Fld.CK_PLL_STATUS_locked = 0 ∧ s.heldOver.get Fld.CK_PLL_STATUS_holdover = 1 ∧
    s.heldOver.get Fld.CK_PLL_STATUS_lock_lost = 1 := by
  simp (disch := decide) only [State.heldOver, State.setAll_cons, State.setAll_nil, State.get_set_field, State.get_set_same]
  exact ⟨rfl, rfl, rfl⟩

theorem State.heldOver_fieldsBut (s : State) : s.fieldsBut s.heldOver
    [(Fld.CK_PLL_STATUS_locked, 0), (Fld.CK_PLL_STATUS_holdover, 0), (Fld.CK_PLL_STATUS_lock_lost, 0)] :=
  State.fieldsBut_setAll (State.fieldsBut_of_regs rfl) 0 _ (by simp)

/-- The event's enable is read where the loss has been shown, which leaves it as it was. -/
theorem execPllHoldover_of_lost (hl : s.flag Fld.CK_PLL_STATUS_locked = true) (h : lost = true ∨ 300 < ppm) :
    execPllHoldover lost ppm s =
      .next (if s.flag Fld.CK_PLL_STATUS_lock_event_en then s.heldOver.report 0x48 0 0 else s.heldOver) := by
  have hen : s.heldOver.flag Fld.CK_PLL_STATUS_lock_event_en = s.flag Fld.CK_PLL_STATUS_lock_event_en :=
    congrArg (· != 0) (s.heldOver_fieldsBut _ 0 (by decide))
  rw [← hen, apply_ite Host.Outcome.next]
  exact if_pos (by simp [hl, h])

theorem execPllHoldover_of_kept (h : s.flag Fld.CK_PLL_STATUS_locked = false ∨ (lost = false ∧ ppm ≤ 300)) :
    execPllHoldover lost ppm s = .next s := by
  refine if_neg ?_
  rcases h with h | ⟨rfl, h⟩
  · simp [h]
  · simp [h]

/-- A PLL that has locked to REFCLK again. -/
def State.relocked (s : State) : State :=
  ({ s with pins := { s.pins with refclkOk := true } } : State).setAll 0 [(Fld.CK_PLL_STATUS_locked, 1), (Fld.CK_PLL_STATUS_holdover, 0)]

theorem execPllRelock_of_holdover (h : s.flag Fld.CK_PLL_STATUS_holdover = true) : execPllRelock s = .next s.relocked := if_pos h

theorem execPllRelock_of_none (h : s.flag Fld.CK_PLL_STATUS_holdover = false) : execPllRelock s = .next s := if_neg (by simp [h])

end

/-- Settles O11: the loss of a locked PLL's REFCLK and its return, and that nothing comes of either elsewhere. -/
theorem pllHoldoverAndRelock : Obligations.PllHoldoverAndRelock := by
  intro s lost ppm
  refine ⟨fun hl h => ?_, execPllHoldover_of_kept, fun h => ?_, execPllRelock_of_none⟩
  · obtain ⟨hlocked, hhold, hlost⟩ := s.heldOver_get
    exact ⟨s.heldOver, hlocked, hhold, hlost, rfl, s.heldOver_fieldsBut, rfl, execPllHoldover_of_lost hl h⟩
  · refine ⟨_, execPllRelock_of_holdover h, ?_, State.get_set_same _ _ _ _, rfl,
      State.fieldsBut_setAll (State.fieldsBut_of_regs rfl) 0 _ (by simp), rfl⟩
    exact (State.get_set_field _ (by decide) _ _ _).trans (State.get_set_same _ _ _ _)

/-! ## The I3C target (16 R701) -/

section
variable {s : State} {m : ModuleId}

/-- A module that has been given its number over I3C. -/
def State.named (s : State) (m : ModuleId) : State :=
  ({ s with pins := { s.pins with i3cModuleWritten := true } } : State).setAll 0
    [(Fld.CAP_MODULE_module, m.toNat), (Fld.CAP_MODULE_module_valid, 1)]

theorem execI3cModuleWrite_of_first (hp : s.pins.perstN = true) (hw : s.pins.i3cModuleWritten = false) :
    execI3cModuleWrite m s = .next (s.named m).refreshServing := if_pos (by simp [hp, hw])

theorem execI3cModuleWrite_of_later (h : s.pins.perstN = false ∨ s.pins.i3cModuleWritten = true) : execI3cModuleWrite m s = .next s := by
  refine if_neg ?_
  rcases h with h | h
  · simp [h]
  · simp [h]

theorem State.named_get_module (s : State) (m : ModuleId) : (s.named m).get Fld.CAP_MODULE_module = m.toNat :=
  ((State.get_set_field _ (by decide) _ _ _).trans (State.get_set_same _ _ _ _)).trans (Nat.mod_eq_of_lt m.isLt)

end

/-- Settles O14: the first number is taken while PERST_N is released, and a dynamic address is held in the pins. -/
theorem i3cWritesTakeEffectOnce : Obligations.I3cWritesTakeEffectOnce := by
  intro s m a
  refine ⟨fun hp hw => ⟨s.named m, s.named_get_module m, State.get_set_same _ _ _ _, rfl, ?_, rfl,
    execI3cModuleWrite_of_first hp hw⟩, execI3cModuleWrite_of_later, fun hp => if_pos hp, fun hp => if_neg (by simp [hp])⟩
  exact State.fieldsBut_setAll (State.fieldsBut_of_regs rfl) 0 _ (by simp)

end Sys2Proof.Machine

/-! The rim monitor (16 R719, R720): what each line answers, and that it changes nothing but what its command writes. -/

namespace Sys2Proof.Machine

/-! ## Answers -/

theorem State.answerLine_eq (s : State) (t : String) : s.answerLine t = { s with outbox := s.outbox ++ monitorEnd t } := by
  simp [State.answerLine, State.emit, monitorEnd]

theorem State.monitorOk_nil (s : State) : s.monitorOk [] = { s with outbox := s.outbox ++ monitorEnd "OK" } := s.answerLine_eq "OK"

theorem State.monitorOk_of_values (s : State) {vs : List Nat} (h : vs ≠ []) :
    s.monitorOk vs = { s with outbox := s.outbox ++ monitorAnswer vs } := by
  rw [State.monitorOk, if_neg (by simpa using h), State.answerLine_eq]
  simp [State.emit, monitorAnswer]

section
variable {s : State} {permitted : Bool} (f : State → Out)

theorem State.monitorCmd_of_silent (h : s.rimServes = false) : s.monitorCmd permitted f = .next s := if_pos (by simp [h])

theorem State.monitorCmd_of_permitted (h : s.rimServes = true) : s.monitorCmd true f = f s := if_neg (by simp [h])

theorem State.monitorCmd_of_not_permitted (h : s.rimServes = true) :
    s.monitorCmd false f = .next { s with outbox := s.outbox ++ monitorEnd "ERR 2" } := by
  rw [← State.answerLine_eq]
  exact if_neg (by simp [h])

/-- What a line answers that another command's meaning and then OK make up. -/
theorem State.andThen_monitorOk {o : Out} (h : Answers o) (vs : List Nat) :
    ∃ t, o = .next t ∧ o.andThen (fun s => .next (s.monitorOk vs)) = .next (t.monitorOk vs) := by
  obtain ⟨t, rfl⟩ := h
  exact ⟨t, rfl, rfl⟩

end

/-! ## What there is to print -/

/-- The first copy of a register lies at its base. -/
theorem RegInfo.base_mem_offsets {r : RegInfo} (h1 : 0 < r.count1) (h2 : 0 < r.count2) : r.base ∈ r.offsets := by
  unfold RegInfo.offsets
  exact List.mem_flatMap.2 ⟨0, List.mem_range.2 h1, List.mem_map.2 ⟨0, List.mem_range.2 h2, by omega⟩⟩

/-- CAP_VERSION is the first word of the capability table. -/
theorem State.readRange_cap_ne_nil (s : State) : s.readRange 0x10000 0x20000 ≠ [] := by
  have hreg : (⟨83, "CAP_VERSION", 0x10000, 0x0, 1, 0x0, 1⟩ : RegInfo) ∈ allRegs := by decide +kernel
  have hoff := List.mem_flatMap.2 ⟨_, hreg, RegInfo.base_mem_offsets Nat.one_pos Nat.one_pos⟩
  exact List.ne_nil_of_mem (List.mem_filterMap.2 ⟨_, hoff, rfl⟩)

/-- The words of some registers are at least one where one of them is a register with a copy. -/
theorem State.readRegs_ne_nil (s : State) {rs : List Nat} {r : RegInfo} (hr : r ∈ allRegs) (hrs : rs.contains r.reg = true)
    (h1 : 0 < r.count1) (h2 : 0 < r.count2) : s.readRegs rs ≠ [] :=
  List.ne_nil_of_mem (List.mem_map_of_mem (List.mem_flatMap.2 ⟨r, List.mem_filter.2 ⟨hr, hrs⟩, RegInfo.base_mem_offsets h1 h2⟩))

/-- PW_INPUT, the first of the power registers. -/
def inputReg : RegInfo := ⟨252, "PW_INPUT", 0xd1008, 0x0, 1, 0x0, 1⟩

theorem inputReg_mem : inputReg ∈ allRegs := by decide +kernel

/-- The entry at a place of lists of one length put one after the other. -/
theorem getElem?_flatMap_of_length {α β : Type} {f : α → List β} {n : Nat} (hf : ∀ x, (f x).length = n) (l : List α) (k : Nat) {w : Nat}
    (hw : w < n) : (l.flatMap f)[n * k + w]? = (l[k]?).bind (fun x => (f x)[w]?) := by
  induction l generalizing k with
  | nil => rfl
  | cons x l ih =>
    rw [List.flatMap_cons]
    cases k with
    | zero =>
      rw [List.getElem?_append_left (by rw [hf]; omega)]
      simp
    | succ k =>
      rw [List.getElem?_append_right (by rw [hf, Nat.mul_succ]; omega), hf, List.getElem?_cons_succ, ← ih]
      congr 1
      rw [Nat.mul_succ]
      omega

/-- The words of one log entry, as partition 0 reads them. -/
def State.logWords (s : State) (k : Nat) : List Nat := (List.range 4).map (fun w => s.barRead .monitor (0x94000 + 16 * k + 4 * w))

theorem State.logWords_length (s : State) (k : Nat) : (s.logWords k).length = 4 := rfl

section
variable (s : State) (n : Nat)

/-- How many entries MONITOR_LOG prints. -/
def State.logsShown : Nat := min n (min 256 (s.get Fld.FC_LOG_HEAD_count))

theorem State.length_lastLogs_words : ((s.lastLogs n).flatMap s.logWords).length = 4 * s.logsShown n := by
  rw [List.length_flatMap, List.map_congr_left (g := fun _ => 4) (fun k _ => s.logWords_length k), List.map_const', List.sum_replicate]
  simp [State.lastLogs, State.logsShown, Nat.mul_comm]

theorem State.lastLogs_words {k w : Nat} (hk : k < s.logsShown n) (hw : w < 4) : ((s.lastLogs n).flatMap s.logWords)[4 * k + w]? =
    some (s.barRead .monitor (0x94000 + 16 * ((s.get Fld.FC_LOG_HEAD_count - s.logsShown n + k) % 256) + 4 * w)) := by
  have hlog : (s.lastLogs n)[k]? = some ((s.get Fld.FC_LOG_HEAD_count - s.logsShown n + k) % 256) := by
    rw [State.lastLogs, List.getElem?_map, List.getElem?_range (by exact hk)]
    rfl
  rw [getElem?_flatMap_of_length s.logWords_length _ k hw, hlog]
  simp [State.logWords, List.getElem?_range hw]

end

/-! ## The lines -/

section
variable {s : State}

theorem execMonitorStatus_of_answered (h : s.rimServes = true ∨ s.run.phase = .stopped) : execMonitorStatus s =
    .next { s with outbox := s.outbox ++ monitorAnswer [s.get Fld.RIM_STATUS_mode, s.get Fld.RIM_STATUS_stage,
      s.get64 Fld.RIM_MANIFEST_GEN_LO_gen_lo Fld.RIM_MANIFEST_GEN_HI_gen_hi 0, s.get Fld.LID_SVN_fw_svn,
      bit s.pins.coolantOk + 2 * s.get Fld.PW_COOLANT_stopped, s.get Fld.WF_CTRL_serving] } := by
  rw [← s.monitorOk_of_values (List.cons_ne_nil _ _)]
  refine if_neg ?_
  rcases h with h | h
  · simp [h]
  · simp [h]

theorem execMonitorStatus_of_silent (h : s.rimServes = false) (hp : s.run.phase ≠ .stopped) : execMonitorStatus s = .next s :=
  if_pos (by simp [h, hp])

theorem execMonitor_of_silent (h : s.rimServes = false) (n : Nat) (addr : BitVec 26) : execMonitorCap s = .next s ∧
    execMonitorLog n s = .next s ∧ execMonitorPower s = .next s ∧ execMonitorRd addr s = .next s := by
  simp only [execMonitorCap, execMonitorLog, execMonitorPower, execMonitorRd, State.monitorCmd_of_silent _ h, and_self]

theorem execMonitorCap_of_serves (h : s.rimServes = true) :
    execMonitorCap s = .next { s with outbox := s.outbox ++ monitorAnswer (s.readRange 0x10000 0x20000) } := by
  rw [← s.monitorOk_of_values s.readRange_cap_ne_nil]
  exact State.monitorCmd_of_permitted _ h

theorem execMonitorPower_of_serves (h : s.rimServes = true) : execMonitorPower s =
    .next { s with outbox := s.outbox ++ monitorAnswer (s.readRegs [Fld.PW_INPUT_now_w.reg, Fld.PW_INPUT_VI_mv.reg, Fld.PW_HALF_grant.reg,
      Fld.PW_HALF_RAIL_mv.reg, Fld.PW_TEMP_now_c.reg]) } := by
  rw [← s.monitorOk_of_values (s.readRegs_ne_nil inputReg_mem (by decide) Nat.one_pos Nat.one_pos)]
  exact State.monitorCmd_of_permitted _ h

theorem execMonitorLog_of_serves {n : Nat} (h : s.rimServes = true) (hn : 0 < s.logsShown n) :
    execMonitorLog n s = .next { s with outbox := s.outbox ++ monitorAnswer ((s.lastLogs n).flatMap s.logWords) } := by
  have hne : (s.lastLogs n).flatMap s.logWords ≠ [] := by
    rw [Ne, ← List.length_eq_zero_iff, s.length_lastLogs_words]
    omega
  rw [← s.monitorOk_of_values hne]
  exact State.monitorCmd_of_permitted _ h

theorem execMonitorRd_of_serves (addr : BitVec 26) (h : s.rimServes = true) : ∃ u, execReadLoLatchesHi .monitor addr s = .next u ∧
    execMonitorRd addr s = .next { u with outbox := u.outbox ++ monitorAnswer [s.barRead .monitor addr.toNat] } := by
  obtain ⟨u, hu, hok⟩ := State.andThen_monitorOk (exec_answers (.readLoLatchesHi .monitor addr) s) [s.barRead .monitor addr.toNat]
  rw [u.monitorOk_of_values (List.cons_ne_nil _ _)] at hok
  exact ⟨u, hu, (State.monitorCmd_of_permitted _ h).trans hok⟩

end

/-- Settles O17: each line answers the words it names, of which there is one at least, then OK. -/
theorem monitorReadsAnswerAndChangeNothing : Obligations.MonitorReadsAnswerAndChangeNothing := by
  intro s n addr
  refine ⟨execMonitorStatus_of_answered, execMonitorCap_of_serves, fun h hn hc => ?_, execMonitorPower_of_serves,
    execMonitorRd_of_serves addr, fun h => ?_⟩
  · have hpos : 0 < s.logsShown n := by
      unfold State.logsShown
      omega
    exact ⟨_, s.length_lastLogs_words n, fun k hk w hw => s.lastLogs_words n hk hw, execMonitorLog_of_serves h hpos⟩
  · obtain ⟨hcap, hlog, hpower, hrd⟩ := execMonitor_of_silent h n addr
    exact ⟨hcap, hlog, hpower, hrd, execMonitorStatus_of_silent h⟩

/-! ## The lines that write (R720; 12 R587) -/

section
variable {s : State}

theorem State.monitorWrites_iff : s.monitorWrites = true ↔ s.run.monitorUnlocked = true ∧ s.flag Fld.LID_STATUS_conf_mode = false := by
  simp [State.monitorWrites, State.confMode]

theorem State.monitorCmd_of_writes (hs : s.rimServes = true) (hw : s.monitorWrites = true) (f : State → Out) :
    s.monitorCmd s.monitorWrites f = f s := by
  rw [hw]
  exact State.monitorCmd_of_permitted f hs

/-- A line that runs the meaning of another command. -/
theorem State.monitorCmd_runs (hs : s.rimServes = true) (hw : s.monitorWrites = true) {f : State → Out} (h : Answers (f s)) :
    ∃ t, f s = .next t ∧ s.monitorCmd s.monitorWrites (fun s => (f s).andThen fun s => .next (s.monitorOk [])) =
      .next { t with outbox := t.outbox ++ monitorEnd "OK" } := by
  obtain ⟨t, ht, hok⟩ := State.andThen_monitorOk h []
  rw [t.monitorOk_nil] at hok
  exact ⟨t, ht, (State.monitorCmd_of_writes hs hw _).trans hok⟩

end

theorem execMonitorHold_of_writes {s : State} (hs : s.rimServes = true) (hw : s.monitorWrites = true) (withdraw : Bool) :
    execMonitorHold withdraw s = .next { s with
      service := { s.service with hold := !withdraw, seq := s.service.seq + 1 }, outbox := s.outbox ++ monitorEnd "OK" } := by
  simp only [execMonitorHold, State.monitorCmd_of_writes hs hw, State.monitorOk_nil]

theorem execMonitor_of_notWrites {s : State} (hs : s.rimServes = true) (hw : s.monitorWrites = false) (addr : BitVec 26) (v : Word32)
    (f : BitVec 8) (i : BitVec 9) (withdraw : Bool) {t : State} (ht : t = { s with outbox := s.outbox ++ monitorEnd "ERR 2" }) :
    execMonitorWr addr v s = .next t ∧ execMonitorForce f i s = .next t ∧ execMonitorHold withdraw s = .next t := by
  simp only [execMonitorWr, execMonitorForce, execMonitorHold, hw, State.monitorCmd_of_not_permitted _ hs, ht, and_self]

/-- Settles O18: a permitted line runs its command's meaning and answers OK; one that is not permitted answers ERR 2. -/
theorem monitorWritesNeedUnlock : Obligations.MonitorWritesNeedUnlock := by
  intro s addr v f i w hs
  refine ⟨fun h => ?_, fun h => ?_⟩
  · have hw := State.monitorWrites_iff.2 h
    refine ⟨State.monitorCmd_runs hs hw (exec_answers (.registerWrite .monitor addr v) s), ?_, ?_⟩
    · rw [Nat.mul_comm 256]
      exact State.monitorCmd_runs hs hw (exec_answers (.fcForce .monitor (BitVec.ofNat 32 (f.toNat + i.toNat * 256 + 2 ^ 17))) s)
    · exact execMonitorHold_of_writes hs hw w
  · have hw : s.monitorWrites = false := by
      rcases h with h | h
      · simp [State.monitorWrites, h]
      · simp [State.monitorWrites, State.confMode, h]
    obtain ⟨hwr, hforce, hhold⟩ := execMonitor_of_notWrites hs hw addr v f i w rfl
    simp only [List.forall_mem_cons]
    exact ⟨hwr, hforce, hhold, by simp⟩

section
variable {s : State} {n : Nat} {line : List Byte}

theorem execMonitorBaud_of_serves (hs : s.rimServes = true) : execMonitorBaud n s =
    if n < 9600 ∨ 3000000 < n then .next { s with outbox := s.outbox ++ monitorEnd "ERR 1" }
    else .next { s with outbox := s.outbox ++ monitorEnd "OK", pins := { s.pins with uartBaud := n } } := by
  simp only [execMonitorBaud, State.monitorCmd_of_permitted _ hs, State.monitorOk_nil, State.answerLine_eq]

theorem execMonitorUnknownCommand_of_serves (hs : s.rimServes = true) (hw : ∀ w ∈ monitorNames, line.takeWhile (· != 0x20) ≠ w) :
    execMonitorUnknownCommand line s = .next { s with outbox := s.outbox ++ monitorEnd "ERR 1" } := by
  have unknown : ¬ monitorNames.contains (line.takeWhile (· != 0x20)) = true := fun hc => hw _ (List.contains_iff_mem.1 hc) rfl
  simp only [execMonitorUnknownCommand, if_neg unknown, State.monitorCmd_of_permitted _ hs, State.answerLine_eq]

theorem execMonitorBaud_of_silent (hs : s.rimServes = false) : execMonitorBaud n s = .next s := by
  simp only [execMonitorBaud, State.monitorCmd_of_silent _ hs]

theorem execMonitorUnknownCommand_of_silent (hs : s.rimServes = false) : execMonitorUnknownCommand line s = .next s := by
  simp only [execMonitorUnknownCommand, State.monitorCmd_of_silent _ hs, ite_self]

end

/-- Settles O19: a rate in range is taken after OK, any other and a line that names no command answer ERR 1. -/
theorem monitorBaudAndUnknownCommand : Obligations.MonitorBaudAndUnknownCommand := by
  intro s n line
  refine ⟨fun hs hlow hhigh => ?_, fun hs hn => ?_, execMonitorUnknownCommand_of_serves,
    fun hs => ⟨execMonitorBaud_of_silent hs, execMonitorUnknownCommand_of_silent hs⟩⟩
  · exact (execMonitorBaud_of_serves hs).trans (if_neg fun hn => hn.elim (Nat.not_lt.2 hlow) (Nat.not_lt.2 hhigh))
  · exact (execMonitorBaud_of_serves hs).trans (if_pos hn)

end Sys2Proof.Machine

/-! The re-seat, the rim restart and the heartbeat (14 R656 to R658; 16 R715 to R717, R721): when each is taken, and what it stages, makes
due or refuses. -/

namespace Sys2Proof.Machine

/-! ## Checks of a manifest and an image (16 R707, R710; 12 R534) -/

/-- The codes of a manifest that is refused. -/
theorem State.manifestError_le (s : State) (owner : Option (List Byte)) (m : List Byte) (reseat : Bool) :
    s.manifestError owner m reseat ≤ 6 := by
  unfold State.manifestError
  repeat' split
  all_goals decide

/-- The codes of an image that is refused. -/
theorem State.fetchImage_code {s : State} {addr code : Nat} (h : s.fetchImage addr = .inr code) : code = 7 ∨ code = 8 := by
  unfold State.fetchImage at h
  dsimp only at h
  split at h
  · exact .inl (Sum.inr.inj h).symm
  · split at h
    · exact .inr (Sum.inr.inj h).symm
    · cases h

/-- A write of a register changes the written copies of its fields alone. -/
theorem State.writeReg_onlyFields (s : State) (r i v : Nat) : s.onlyFields (s.writeReg r i v) ((fieldsOf r).map (fun f => (f, i))) :=
  s.writeFields_onlyFields i v (fieldsOf r)

/-! ## A write of RIM_RESEAT_CMD -/

section
variable {s : State} {a : Agent} {v op : Nat}

theorem State.reseatGo_of_notTaken (h : s.fromPf a = false ∨ s.run.phase ≠ .running ∨ s.run.restartDue = true ∨ bitsOf v 0 2 ≠ op) :
    s.reseatGo op a v = s := by
  unfold State.reseatGo
  rcases h with h | h | h | h
  · exact if_pos (by simp [h])
  · exact if_pos (by simp [h])
  · rw [if_pos h, ite_self]
  · exact if_pos (by simp [h])

/-- The registers name where the re-seat's bytes begin. -/
def State.reseatAddr (s : State) : Nat := s.get Fld.RIM_RESEAT_ADDR_LO_addr_lo 0 * 64 + 2 ^ 32 * s.get Fld.RIM_RESEAT_ADDR_HI_addr_hi 0

/-- The manifest a re-seat names. -/
def State.reseatManifestBytes (s : State) : List Byte := s.hostBytes 0 s.reseatAddr 4224

/-- Where the image of a re-seat lies: alone at its address, after a manifest at the next 64 KiB (log entry 182). -/
def State.imagePlace (s : State) (op : Nat) : Nat := if op = 2 then s.reseatAddr else (s.reseatAddr / 65536 + 1) * 65536

/-- The re-seat an op makes of a manifest and an image. -/
def reseatOf (op : Nat) (m : List Byte) (i : Option Image) : Reseat := { manifest := if op = 2 then none else some m, image := i }

variable {u : State}

theorem State.reseatGo_of_taken (hf : s.fromPf a = true) (hp : s.run.phase = .running) (hd : s.run.restartDue = false)
    (ho : bitsOf v 0 2 = op) (hu : u = s.writeReg Fld.RIM_RESEAT_CMD_op.reg 0 v) : s.reseatGo op a v =
      if bitOf v 2 = false then u
      else if u.reseatBusy then u.reseatError 9
      else if u.canMaster 0 = false then u.reseatError 1
      else if op ≠ 2 ∧ u.manifestError u.ownerKey u.reseatManifestBytes true ≠ 0 then
        u.reseatError (u.manifestError u.ownerKey u.reseatManifestBytes true)
      else if op = 1 then u.beginReseat (reseatOf op u.reseatManifestBytes none)
      else (u.fetchImage (u.imagePlace op)).elim (fun i => u.beginReseat (reseatOf op u.reseatManifestBytes (some i))) u.reseatError := by
  unfold State.reseatGo
  rw [if_neg (by simp [hf, hp, ho]), if_neg (by simp [hd])]
  dsimp only
  rw [← hu]
  simp only [Bool.not_eq_true', State.imagePlace, State.reseatManifestBytes, State.reseatAddr, reseatOf]
  by_cases h2 : op = 2
  · simp only [h2, if_true, ne_eq, not_true_eq_false, false_and, if_false]
    generalize State.fetchImage _ _ = img
    cases img <;> rfl
  · simp only [h2, if_false, ne_eq, not_false_eq_true, true_and]
    generalize State.fetchImage _ _ = img
    cases img <;> rfl

variable (hf : s.fromPf a = true) (hp : s.run.phase = .running) (hd : s.run.restartDue = false) (ho : bitsOf v 0 2 = op)
  (hu : u = s.writeReg Fld.RIM_RESEAT_CMD_op.reg 0 v)
include hf hp hd ho hu

theorem State.reseatGo_of_noGo (hg : bitOf v 2 = false) : s.reseatGo op a v = u := by
  rw [State.reseatGo_of_taken hf hp hd ho hu, if_pos hg]

/-- Why a re-seat that partition 0 starts is refused, in the order of log entry 43. -/
theorem State.reseatGo_of_refused (hg : bitOf v 2 = true) {code : Nat}
    (h : (u.reseatBusy = true ∧ code = 9) ∨ (u.reseatBusy = false ∧ u.canMaster 0 = false ∧ code = 1) ∨
      (u.reseatBusy = false ∧ u.canMaster 0 = true ∧ op ≠ 2 ∧ code ≠ 0 ∧ u.manifestError u.ownerKey u.reseatManifestBytes true = code) ∨
      (u.reseatBusy = false ∧ u.canMaster 0 = true ∧ op ≠ 1 ∧ (op = 3 → u.manifestError u.ownerKey u.reseatManifestBytes true = 0) ∧
        u.fetchImage (u.imagePlace op) = .inr code)) (hop : op = 1 ∨ op = 2 ∨ op = 3) : s.reseatGo op a v = u.reseatError code := by
  rw [State.reseatGo_of_taken hf hp hd ho hu, if_neg (by simp [hg])]
  rcases h with ⟨hb, rfl⟩ | ⟨hb, hm, rfl⟩ | ⟨hb, hm, h2, hc, rfl⟩ | ⟨hb, hm, h1, h3, hi⟩
  · rw [if_pos hb]
  · rw [if_neg (by simp [hb]), if_pos hm]
  · rw [if_neg (by simp [hb]), if_neg (by simp [hm]), if_pos ⟨h2, hc⟩]
  · have hmanifest : ¬ (op ≠ 2 ∧ u.manifestError u.ownerKey u.reseatManifestBytes true ≠ 0) := fun ⟨h2, he⟩ => he (h3 (by omega))
    rw [if_neg (by simp [hb]), if_neg (by simp [hm]), if_neg hmanifest, if_neg h1, hi]
    rfl

/-- A re-seat that verifies waits for the boot ROM. -/
theorem State.reseatGo_of_verified (hg : bitOf v 2 = true) (hb : u.reseatBusy = false) (hm : u.canMaster 0 = true)
    (he : op ≠ 2 → u.manifestError u.ownerKey u.reseatManifestBytes true = 0) {img : Option Image}
    (hi : (op = 1 ∧ img = none) ∨ (op ≠ 1 ∧ ∃ i, img = some i ∧ u.fetchImage (u.imagePlace op) = .inl i)) :
    s.reseatGo op a v = u.beginReseat (reseatOf op u.reseatManifestBytes img) := by
  have hmanifest : ¬ (op ≠ 2 ∧ u.manifestError u.ownerKey u.reseatManifestBytes true ≠ 0) := fun ⟨h2, hn⟩ => hn (he h2)
  rw [State.reseatGo_of_taken hf hp hd ho hu, if_neg (by simp [hg]), if_neg (by simp [hb]), if_neg (by simp [hm]), if_neg hmanifest]
  rcases hi with ⟨h1, rfl⟩ | ⟨h1, i, rfl, hi⟩
  · rw [if_pos h1]
  · rw [if_neg h1, hi]
    rfl

end

/-! ## What a re-seat that waits, or is refused, shows -/

section
variable (u : State)

/-- An image is staged in the flash alone, in the bank that does not run. -/
theorem State.stageImage_eq (img : Option Image) : u.stageImage img =
    { u with flash := if img = none then u.flash else if u.get Fld.RIM_STATUS_bank = 0 then { u.flash with bank1 := img, staged := 1 }
      else { u.flash with bank0 := img, staged := 0 } } := by
  cases img with
  | none => rfl
  | some i =>
    unfold State.stageImage
    by_cases h : u.get Fld.RIM_STATUS_bank = 0
    · simp [h]
    · have hidle : 1 - u.get Fld.RIM_STATUS_bank = 0 := by omega
      simp [h, hidle]

/-- A state whose rim holds a re-seat and whose image is staged, before the registers show it. -/
def State.reseatStaged (r : Reseat) : State := { u.stageImage r.image with run := { u.run with reseat := some r } }

theorem State.beginReseat_eq (r : Reseat) :
    u.beginReseat r = (u.reseatStaged r).setAll 0 [(Fld.RIM_RESEAT_CMD_busy, 1), (Fld.RIM_STATUS_mode, 3)] := by
  unfold State.beginReseat State.reseatStaged
  rw [u.stageImage_eq]

theorem State.reseatStaged_regs (r : Reseat) : (u.reseatStaged r).regs = u.regs := by
  unfold State.reseatStaged
  rw [u.stageImage_eq]

theorem State.beginReseat_get (r : Reseat) :
    (u.beginReseat r).get Fld.RIM_RESEAT_CMD_busy = 1 ∧ (u.beginReseat r).get Fld.RIM_STATUS_mode = 3 := by
  simp (disch := decide) only [State.beginReseat_eq, State.setAll_cons, State.setAll_nil, State.get_set_field, State.get_set_same]
  exact ⟨rfl, rfl⟩

theorem State.beginReseat_fieldsBut (r : Reseat) :
    u.fieldsBut (u.beginReseat r) [(Fld.RIM_RESEAT_CMD_busy, 0), (Fld.RIM_STATUS_mode, 0)] := by
  rw [State.beginReseat_eq]
  exact State.fieldsBut_setAll (State.fieldsBut_of_regs (u.reseatStaged_regs r)) 0 _ (by simp)

theorem State.beginReseat_rest (r : Reseat) : (u.beginReseat r).run = { u.run with reseat := some r } ∧
    (u.beginReseat r).flash = (if r.image = none then u.flash else if u.get Fld.RIM_STATUS_bank = 0 then { u.flash with bank1 := r.image, staged := 1 }
      else { u.flash with bank0 := r.image, staged := 0 }) ∧
    { u.beginReseat r with regs := u.regs, run := u.run, flash := u.flash } = u := by
  rw [State.beginReseat_eq, State.reseatStaged, u.stageImage_eq]
  exact ⟨rfl, rfl, rfl⟩

theorem State.reseatError_get {code : Nat} (h : code < 16) : (u.reseatError code).get Fld.RIM_RESEAT_CMD_error = 1 ∧
    (u.reseatError code).get Fld.RIM_RESEAT_CMD_err_code = code := by
  simp (disch := decide) only [State.reseatError, State.setAll_cons, State.setAll_nil, State.get_set_field, State.get_set_same]
  exact ⟨rfl, Nat.mod_eq_of_lt h⟩

theorem State.reseatError_onlyFields (code : Nat) :
    u.onlyFields (u.reseatError code) [(Fld.RIM_RESEAT_CMD_error, 0), (Fld.RIM_RESEAT_CMD_err_code, 0)] :=
  ⟨State.fieldsBut_setAll (u.fieldsBut_refl _) 0 _ (by simp), rfl⟩

end

/-- The three commands are one operation under their ops. -/
theorem exec_reseat (s : State) (a : Agent) (v : Word32) :
    ∀ x ∈ [(Instr.reseatManifest a v, 1), (Instr.reseatFirmware a v, 2), (Instr.reseatBoth a v, 3)],
      exec x.1 s = .next (s.reseatGo x.2 a v.toNat) ∧ (x.2 = 1 ∨ x.2 = 2 ∨ x.2 = 3) := by
  simp only [List.forall_mem_cons]
  exact ⟨⟨rfl, .inl trivial⟩, ⟨rfl, .inr (.inl trivial)⟩, ⟨rfl, .inr (.inr trivial)⟩, by simp⟩

/-- Settles O20: one operation serves the three commands; what it does is read off whether the write is taken, what refuses it and
what it verifies. -/
theorem reseatIsFetchedVerifiedAndStaged : Obligations.ReseatIsFetchedVerifiedAndStaged := by
  intro s a v c op hc
  obtain ⟨hx, hop⟩ := exec_reseat s a v _ hc
  dsimp only at hx hop
  rw [hx]
  refine ⟨fun h => congrArg _ (State.reseatGo_of_notTaken h), fun hf hp hd ho u addr place m hu haddr hm hplace => ?_⟩
  have haddr : addr = u.reseatAddr := haddr.trans (by rw [State.reseatAddr, Nat.mul_comm 64])
  have hm : m = u.reseatManifestBytes := by rw [hm, haddr, State.reseatManifestBytes]
  have hplace : place = u.imagePlace op := by rw [hplace, haddr, State.imagePlace, Nat.mul_comm 65536]
  rw [hm, hplace]
  refine ⟨fun hg => congrArg _ (State.reseatGo_of_noGo hf hp hd ho hu hg), fun hg hb hcan he img hi => ?_, fun code hg h => ?_⟩
  · obtain ⟨hbusy, hmode⟩ := u.beginReseat_get (reseatOf op u.reseatManifestBytes img)
    obtain ⟨hrun, hflash, hrest⟩ := u.beginReseat_rest (reseatOf op u.reseatManifestBytes img)
    refine ⟨_, congrArg _ (State.reseatGo_of_verified hf hp hd ho hu hg hb hcan he hi), hrun, hbusy, hmode, fun hn => ?_, fun hn => ?_,
      u.beginReseat_fieldsBut _, hrest⟩
    · exact hflash.trans (if_pos hn)
    · exact hflash.trans (if_neg hn)
  · have hcode : code < 16 := by
      rcases h with ⟨-, rfl⟩ | ⟨-, -, rfl⟩ | ⟨-, -, -, -, rfl⟩ | ⟨-, -, -, -, h⟩
      · decide
      · decide
      · exact Nat.lt_of_le_of_lt (State.manifestError_le ..) (by decide)
      · rcases State.fetchImage_code h with rfl | rfl <;> decide
    obtain ⟨herror, hshown⟩ := u.reseatError_get hcode
    exact ⟨_, congrArg _ (State.reseatGo_of_refused hf hp hd ho hu hg h hop), herror, hshown, u.reseatError_onlyFields code⟩

/-! ## Restart and heartbeat (14 R656 to R658) -/

section
variable {s : State} {a : Agent} {v : Word32}

/-- A restart that partition 0 has written is due at once. -/
theorem execRimRestart_of_taken (hf : s.fromPf a = true) (hp : s.run.phase = .running) (hd : s.run.restartDue = false)
    (hg : bitOf v.toNat 0 = true) : execRimRestart a v s = .next (s.writeReg Fld.FC_RIM_RESTART_restart.reg 0 v.toNat).startRimRestart := by
  have hrun := State.onlyFields_run (s.writeReg_onlyFields Fld.FC_RIM_RESTART_restart.reg 0 v.toNat)
  rw [execRimRestart, if_neg (by simp [hf])]
  exact if_pos (by simp [hrun, hp, hd, hg])

theorem execRimRestart_of_notPf (hf : s.fromPf a = false) : execRimRestart a v s = .next s := if_pos (by simp [hf])

theorem State.startRimRestart_fieldsBut {s t : State} {ws : List (Field × Nat)} (h : s.fieldsBut t ws) (hm : (Fld.FC_RIM_RESTART_busy, 0) ∈ ws) :
    s.fieldsBut t.startRimRestart ws := State.fieldsBut_set (State.fieldsBut_then h rfl) hm 1

theorem State.startRimRestart_rest {s t : State} (h : { t with regs := s.regs } = s) :
    { t.startRimRestart with regs := s.regs, run := s.run } = s := by
  rw [← h]
  rfl

theorem execRimHeartbeat_of_serves (hp : s.run.phase = .running) (hd : s.run.restartDue = false) :
    execRimHeartbeat s = .next (s.bump Fld.FC_RIM_HEARTBEAT_count 0) := if_pos (by simp [hp, hd])

theorem execRimHeartbeat_of_silent (h : s.run.phase ≠ .running ∨ s.run.restartDue = true) : execRimHeartbeat s = .next s := by
  refine if_neg ?_
  rcases h with h | h
  · simp [h]
  · simp [h]

end

/-- Settles O21: a restart sets busy and is due, a re-seat that verifies is staged as O20 says, and the heartbeat is a counter. -/
theorem rimRestartAndHeartbeat : Obligations.RimRestartAndHeartbeat := by
  intro s a v
  refine ⟨fun hf hp hd hg => ?_, execRimRestart_of_notPf, fun u addr go hu haddr hgo hf hp hd hg hb hm => ?_, fun hp hd => ?_,
    execRimHeartbeat_of_silent⟩
  · have hw := s.writeReg_onlyFields Fld.FC_RIM_RESTART_restart.reg 0 v.toNat
    exact ⟨_, execRimRestart_of_taken hf hp hd hg, rfl, State.get_set_same _ _ _ _,
      State.startRimRestart_fieldsBut hw.1 (by decide +kernel), State.startRimRestart_rest hw.2⟩
  · have hgo : ∀ r, u.beginReseat r = go r := fun r => hgo ▸ u.beginReseat_eq r
    have hbytes : u.hostBytes 0 addr 4224 = u.reseatManifestBytes := by
      rw [haddr]
      rfl
    rw [hbytes]
    refine ⟨fun ho he => ?_, fun i ho hi => ?_, fun i ho he hi => ?_⟩
    · rw [← hgo]
      exact congrArg _ (State.reseatGo_of_verified hf hp hd ho hu hg hb hm (fun _ => he) (.inl ⟨rfl, rfl⟩))
    · rw [haddr] at hi
      rw [← hgo]
      exact congrArg _ (State.reseatGo_of_verified hf hp hd ho hu hg hb hm (fun h => absurd rfl h) (.inr ⟨by decide, i, rfl, hi⟩))
    · rw [haddr] at hi
      rw [← hgo]
      exact congrArg _ (State.reseatGo_of_verified hf hp hd ho hu hg hb hm (fun _ => he) (.inr ⟨by decide, i, rfl, hi⟩))
  · exact ⟨_, execRimHeartbeat_of_serves hp hd, State.get_set_same _ _ _ _, s.set_onlyFields _ _ _⟩

end Sys2Proof.Machine

/-! ERR_N's pulse and the quiet period (14 R639, R640, R645), and forced reports and injections (14 R642 to R644). -/

namespace Sys2Proof.Machine

/-! ## ERR_N as it is driven (14 R645, R646) -/

section
variable {s t : State}

/-- What ERR_N is rests on no field that shows it. -/
theorem State.errLow_congr (h : s.copiesBut t errFields) (hf : t.fc.pulseEnd = s.fc.pulseEnd) : t.errLow = s.errLow := by
  have hsw := State.copiesBut_get h (f := Fld.FC_ERR_PIN_sw_assert) (by decide)
  have hhold := State.copiesBut_get h (f := Fld.FC_ERR_PIN_coolant_hold) (by decide)
  have hmode := State.copiesBut_get h (f := Fld.FC_CTRL_err_mode) (by decide)
  have hpending := State.copiesBut_get h (f := Fld.FC_SRC_STATUS_pending) (by decide)
  have hsev := State.copiesBut_get h (f := Fld.FC_SRC_CFG_severity) (by decide)
  have hmin := State.copiesBut_get h (f := Fld.FC_CTRL_err_min_sev) (by decide)
  simp only [State.errLow, State.flag, State.qualifies, State.severity, hsw, hhold, hmode, hpending, hsev, hmin, hf]
  rfl

theorem State.driveErr_errN (s : State) : s.driveErr.pins.errN = !s.driveErr.errLow := by
  rw [State.errLow_congr (State.driveErr_copies (s.copiesBut_refl errFields)) rfl]
  rfl

theorem State.driveErr_fieldsBut (s : State) : s.fieldsBut s.driveErr [(Fld.FC_ERR_PIN_low, 0), (Fld.FC_ERR_PIN_pulsing, 0)] :=
  State.fieldsBut_driveErr (s.fieldsBut_refl _) (by decide) (by decide)

/-- With no pulse ERR_N shows none. -/
theorem State.driveErr_get_pulsing (s : State) (h : s.fc.pulseEnd = none) : s.driveErr.get Fld.FC_ERR_PIN_pulsing = 0 := by
  have hget := ((s.set Fld.FC_ERR_PIN_low 0 (bit s.errLow))).get_set_same Fld.FC_ERR_PIN_pulsing 0
    (bit (!(s.set Fld.FC_ERR_PIN_low 0 (bit s.errLow)).flag Fld.FC_CTRL_err_mode && s.fc.pulseEnd.isSome))
  rw [h, Option.isSome_none, Bool.and_false] at hget
  refine Eq.trans ?_ hget
  simp only [State.driveErr, State.set_fc, h, Option.isSome_none, Bool.and_false]
  rfl

/-- A pulse that has come to its end. -/
def State.pulseOver (s : State) : State := { s with fc := { s.fc with pulseEnd := none } }

theorem execErrPulseEnd_of_due {u : Nat} (h : s.fc.pulseEnd = some u) (hu : u ≤ s.time) :
    execErrPulseEnd s = .next s.pulseOver.driveErr := by
  simp only [execErrPulseEnd, h]
  exact if_pos hu

theorem execErrPulseEnd_of_none (h : s.fc.pulseEnd = none ∨ ∃ u, s.fc.pulseEnd = some u ∧ s.time < u) : execErrPulseEnd s = .next s := by
  rcases h with h | ⟨u, h, hu⟩
  · simp only [execErrPulseEnd, h]
  · simp only [execErrPulseEnd, h]
    exact if_neg (by omega)

end

/-! ## The quiet period (14 R639, R640) -/

section
variable {s : State} {f : BitVec 8}

/-- The registers of the recovery counters. -/
def recoveryFields : List Field := [Fld.FC_PATROL_REC_recs, Fld.FC_SERDES_REC_recs]

theorem State.recover_copies (s : State) (k i : Nat) : s.copiesBut (s.recover k i) recoveryFields := by
  unfold State.recover
  split
  · exact State.copiesBut_then (State.copiesBut_set (s.copiesBut_refl _) (by decide) _ _) rfl
  · split
    · exact State.copiesBut_then (State.copiesBut_set (s.copiesBut_refl _) (by decide) _ _) rfl
    · exact s.copiesBut_refl _

/-- A recovery counter lies in a register and in the service record. -/
def State.recoverRest (s t : State) : Prop := { t with regs := s.regs, service := s.service } = s

theorem State.recover_rest (s : State) (k i : Nat) : s.recoverRest (s.recover k i) := by
  unfold State.recover
  split
  · rfl
  · split <;> rfl

theorem State.foldl_recover_rest (k : Nat) (l : List Nat) (s : State) : s.recoverRest (l.foldl (fun s i => s.recover k i) s) := by
  induction l generalizing s with
  | nil => rfl
  | cons i l ih =>
    have hfirst := s.recover_rest k i
    have hrest := ih (s.recover k i)
    unfold State.recoverRest at hfirst hrest ⊢
    rw [← hrest] at hfirst
    exact hfirst

theorem State.foldl_recover_copies (k : Nat) (l : List Nat) (s : State) : s.copiesBut (l.foldl (fun s i => s.recover k i) s) recoveryFields :=
  State.copiesBut_foldl _ (fun t i ht => State.copiesBut_trans ht (t.recover_copies k i)) l (s.copiesBut_refl _)

/-- A family that has been quiet for its period. -/
def State.quiet (s : State) (k : Nat) : State :=
  { s.set Fld.FC_SRC_STATUS_pending k 0 with fc := { s.fc with reporters := s.fc.reporters.filter (fun e => e.1 != k) } }

/-- The instances of a family whose recovery counters the quiet period raises. -/
def State.recovering (s : State) (k : Nat) : List Nat := (s.fc.reporters.filter (fun e => e.1 == k && !s.demotedInst k e.2)).map Prod.snd

theorem execQuietPeriod_of_quiet (ha : s.flag Fld.FC_SRC_CFG_auto f.toNat = true) (hp : s.flag Fld.FC_SRC_STATUS_pending f.toNat = true)
    (hd : s.flag Fld.FC_SRC_STATUS_demoted f.toNat = false) (hr : s.flag Fld.FC_SRC_STATUS_rail f.toNat = false)
    (ht : Sparse.get 0 s.fc.lastReport f.toNat + s.quietUs ≤ s.time) : execQuietPeriod f s =
      .next ((s.recovering f.toNat).foldl (fun s i => s.recover f.toNat i) (s.quiet f.toNat)).driveErr :=
  if_pos (by simp [ha, hp, hd, hr, ht])

theorem execQuietPeriod_of_kept (h : s.flag Fld.FC_SRC_CFG_auto f.toNat = false ∨ s.flag Fld.FC_SRC_STATUS_pending f.toNat = false ∨
    s.flag Fld.FC_SRC_STATUS_demoted f.toNat = true ∨ s.flag Fld.FC_SRC_STATUS_rail f.toNat = true ∨
    s.time < Sparse.get 0 s.fc.lastReport f.toNat + s.quietUs) : execQuietPeriod f s = .next s := by
  refine if_neg ?_
  rcases h with h | h | h | h | h
  · simp [h]
  · simp [h]
  · simp [h]
  · simp [h]
  · simp [Nat.not_le.2 h]

end

/-- Settles O23: the pulse's end drives ERR_N anew; the quiet family's pending bit alone of the pending bits is cleared. -/
theorem errPulseEndsAndQuietPeriodClears : Obligations.ErrPulseEndsAndQuietPeriodClears := by
  intro s f
  refine ⟨fun u hu ht => ⟨_, execErrPulseEnd_of_due hu ht, rfl, s.pulseOver.driveErr_get_pulsing rfl, s.pulseOver.driveErr_errN,
    State.fieldsBut_trans (State.fieldsBut_of_regs rfl) s.pulseOver.driveErr_fieldsBut, rfl⟩, execErrPulseEnd_of_none, ?_,
    execQuietPeriod_of_kept⟩
  rintro ⟨ha, hp, hd, hr, ht⟩
  have hrest := State.foldl_recover_rest f.toNat (s.recovering f.toNat) (s.quiet f.toNat)
  have hcopies := State.foldl_recover_copies f.toNat (s.recovering f.toNat) (s.quiet f.toNat)
  refine ⟨_, execQuietPeriod_of_quiet ha hp hd hr ht, ?_⟩
  generalize (s.recovering f.toNat).foldl _ (s.quiet f.toNat) = u at hrest hcopies
  have hdriven : (s.quiet f.toNat).copiesBut u.driveErr (recoveryFields ++ errFields) :=
    State.copiesBut_trans (State.copiesBut_mono hcopies (by decide))
      (State.copiesBut_mono (State.driveErr_copies (u.copiesBut_refl _)) (by decide))
  have hpending (g : Nat) : u.driveErr.get Fld.FC_SRC_STATUS_pending g = (s.set Fld.FC_SRC_STATUS_pending f.toNat 0).get Fld.FC_SRC_STATUS_pending g :=
    State.copiesBut_get hdriven (by decide) g
  refine ⟨(hpending _).trans (State.get_set_same ..), congrArg (·.fc.reporters) hrest, u.driveErr_errN, ?_,
    fun g hg => (hpending g).trans (State.get_set_copy _ hg _), fun a => ?_⟩
  · exact State.copiesBut_trans (State.copiesBut_then (State.copiesBut_set (s.copiesBut_refl _) (by decide) f.toNat 0) rfl)
      (State.copiesBut_mono hdriven (by decide))
  · exact ⟨congrArg (·.hbm.byte a) hrest, congrArg (·.sidecar.byte a) hrest, congrArg (·.localStore.byte a) hrest,
      congrArg (·.rowStore.byte a) hrest, congrArg (·.tier4.byte a) hrest⟩

/-! ## FC_FORCE and FC_INJECT (14 R642 to R644) -/

section
variable {s : State} {a : Agent} {v : Word32}

/-- The fields of a register take the bits of a word whole. -/
theorem bitsOf_mod_self (n lo w : Nat) : bitsOf n lo w % 2 ^ w = bitsOf n lo w := Nat.mod_mod ..

/-- A module whose FC_FORCE shows what a write of it names. -/
def State.forceShown (s : State) (v : Word32) : State :=
  s.setAll 0 [(Fld.FC_FORCE_family, bitsOf v.toNat 0 8), (Fld.FC_FORCE_instance, bitsOf v.toNat 8 9)]

theorem State.forceShown_get (s : State) (v : Word32) : (s.forceShown v).get Fld.FC_FORCE_family = bitsOf v.toNat 0 8 ∧
    (s.forceShown v).get Fld.FC_FORCE_instance = bitsOf v.toNat 8 9 := by
  simp (disch := decide) only [State.forceShown, State.setAll_cons, State.setAll_nil, State.get_set_field, State.get_set_same]
  exact ⟨bitsOf_mod_self _ 0 8, bitsOf_mod_self _ 8 9⟩

theorem execFcForce_of_taken (hf : s.fromPf a = true) (hl : s.lidInstance (bitsOf v.toNat 0 8) (bitsOf v.toNat 8 9) = false) :
    execFcForce a v s = .next (if bitOf v.toNat 17 && families.contains (bitsOf v.toNat 0 8) then
      (s.forceShown v).report (bitsOf v.toNat 0 8) (bitsOf v.toNat 8 9) 0 false true else s.forceShown v) := by
  rw [apply_ite Host.Outcome.next]
  exact if_neg (by rw [hf, hl]; decide)

theorem execFcForce_of_ignored (h : s.fromPf a = false ∨ s.lidInstance (bitsOf v.toNat 0 8) (bitsOf v.toNat 8 9) = true) :
    execFcForce a v s = .next s := by
  refine if_pos ?_
  rcases h with h | h <;> simp [h]

/-- A module whose FC_INJECT names what an injection is to strike. -/
def State.injectShown (s : State) (v : Word32) : State :=
  s.setAll 0 [(Fld.FC_INJECT_target, bitsOf v.toNat 0 3), (Fld.FC_INJECT_instance, bitsOf v.toNat 3 9),
    (Fld.FC_INJECT_double, bitsOf v.toNat 12 1)]

/-- An injection that is armed, for a target that exists. -/
def State.injectArmed (s : State) (v : Word32) : State :=
  s.setAll 0 [(Fld.FC_INJECT_arm, 1), (Fld.FC_INJECT_armed, bit (decide (bitsOf v.toNat 0 3 ≤ 3)))]

theorem State.injectShown_get (s : State) (v : Word32) : (s.injectShown v).get Fld.FC_INJECT_target = bitsOf v.toNat 0 3 ∧
    (s.injectShown v).get Fld.FC_INJECT_instance = bitsOf v.toNat 3 9 ∧ (s.injectShown v).get Fld.FC_INJECT_double = bitsOf v.toNat 12 1 ∧
    (s.injectShown v).get Fld.FC_INJECT_arm = s.get Fld.FC_INJECT_arm ∧ (s.injectShown v).get Fld.FC_INJECT_armed = s.get Fld.FC_INJECT_armed := by
  simp (disch := decide) only [State.injectShown, State.setAll_cons, State.setAll_nil, State.get_set_field, State.get_set_same]
  exact ⟨bitsOf_mod_self _ 0 3, bitsOf_mod_self _ 3 9, bitsOf_mod_self _ 12 1, trivial, trivial⟩

theorem bit_mod_two (b : Bool) : bit b % 2 = bit b := by cases b <;> rfl

theorem State.injectArmed_get (s : State) (v : Word32) : (s.injectArmed v).get Fld.FC_INJECT_arm = 1 ∧
    (s.injectArmed v).get Fld.FC_INJECT_armed = bit (decide (bitsOf v.toNat 0 3 ≤ 3)) ∧
    (∀ f ∈ [Fld.FC_INJECT_target, Fld.FC_INJECT_instance, Fld.FC_INJECT_double], (s.injectArmed v).get f = s.get f) := by
  simp (disch := decide) only [State.injectArmed, State.setAll_cons, State.setAll_nil, State.get_set_field, State.get_set_same,
    List.forall_mem_cons]
  exact ⟨rfl, bit_mod_two _, trivial, trivial, trivial, by simp⟩

/-- The fields a write of FC_INJECT may change. -/
def injectFields : List (Field × Nat) :=
  [(Fld.FC_INJECT_target, 0), (Fld.FC_INJECT_instance, 0), (Fld.FC_INJECT_double, 0), (Fld.FC_INJECT_arm, 0), (Fld.FC_INJECT_armed, 0)]

theorem State.injectShown_onlyFields (s : State) (v : Word32) : s.onlyFields (s.injectShown v) injectFields :=
  ⟨State.fieldsBut_setAll (s.fieldsBut_refl _) 0 _ (by simp [injectFields]), rfl⟩

theorem State.injectArmed_onlyFields (s : State) (v : Word32) : s.onlyFields (s.injectArmed v) injectFields :=
  ⟨State.fieldsBut_setAll (s.fieldsBut_refl _) 0 _ (by simp [injectFields]), rfl⟩

theorem execFcInjectArm_of_taken (hf : s.fromPf a = true) (hl : s.lidInstance (injectFamily (bitsOf v.toNat 0 3)) (bitsOf v.toNat 3 9) = false)
    (hm : bitOf v.toNat 13 = true → s.flag Fld.FC_INJECT_armed = false) : execFcInjectArm a v s =
      .next (if bitOf v.toNat 13 then (s.injectShown v).injectArmed v else s.injectShown v) := by
  rw [apply_ite Host.Outcome.next]
  refine (if_neg (by rw [hf, hl]; decide)).trans (if_neg ?_)
  rw [Bool.and_eq_true]
  exact fun h => by simp [hm h.1] at h

theorem execFcInjectArm_of_ignored (h : s.fromPf a = false ∨
    s.lidInstance (injectFamily (bitsOf v.toNat 0 3)) (bitsOf v.toNat 3 9) = true ∨
    (bitOf v.toNat 13 = true ∧ s.flag Fld.FC_INJECT_armed = true)) : execFcInjectArm a v s = .next s := by
  unfold execFcInjectArm
  dsimp only
  rcases h with h | h | ⟨hb, h⟩
  · exact if_pos (by simp [h])
  · exact if_pos (by simp [h])
  · rw [if_pos (show (bitOf v.toNat 13 && s.flag Fld.FC_INJECT_armed) = true by simp [hb, h]), ite_self]

end

/-- Settles O24: what a write that is taken stores, and that every other write changes nothing. -/
theorem forcedReportsAndInjection : Obligations.ForcedReportsAndInjection := by
  intro s a v
  refine ⟨fun hf hl => ?_, execFcForce_of_ignored, fun hf hl hm => ⟨_, execFcInjectArm_of_taken hf hl hm, ?_⟩, execFcInjectArm_of_ignored⟩
  · obtain ⟨hfamily, hinstance⟩ := s.forceShown_get v
    exact ⟨s.forceShown v, hfamily, hinstance, ⟨State.fieldsBut_setAll (s.fieldsBut_refl _) 0 _ (by simp), rfl⟩, execFcForce_of_taken hf hl⟩
  · obtain ⟨htarget, hinst, hdouble, harm, harmed⟩ := s.injectShown_get v
    cases bitOf v.toNat 13 with
    | false => exact ⟨htarget, hinst, hdouble, harm, harmed, s.injectShown_onlyFields v⟩
    | true =>
      obtain ⟨harm', harmed', hsame⟩ := (s.injectShown v).injectArmed_get v
      refine ⟨(hsame _ (by simp)).trans htarget, (hsame _ (by simp)).trans hinst, (hsame _ (by simp)).trans hdouble, harm', harmed',
        State.fieldsBut_trans (s.injectShown_onlyFields v).1 ((s.injectShown v).injectArmed_onlyFields v).1, rfl⟩

end Sys2Proof.Machine

/-! What a fault report shows: its log entry, its family's status, the notices of the partitions and the fence of its engine (14 R628 to
R633, R663 to R665). -/

namespace Sys2Proof.Machine

/-! ## What a report leaves of the collector and the run -/

/-- `t` agrees with `s` but in registers, interrupt vectors, what is sent, the pins and what the collector keeps of reports. -/
def State.reportOnly (s t : State) : Prop :=
  { t with regs := s.regs, msix := s.msix, outbox := s.outbox, pins := s.pins,
           fc := { t.fc with masked := s.fc.masked, lastReport := s.fc.lastReport, reporters := s.fc.reporters, fenced := s.fc.fenced,
                             pulseEnd := s.fc.pulseEnd } } = s

theorem State.reportOnly_trans {s t u : State} (h : s.reportOnly t) (g : t.reportOnly u) : s.reportOnly u := by
  unfold State.reportOnly at h g ⊢
  rw [← g] at h
  exact h

theorem State.reportOnly_foldl {α : Type} {s : State} (f : State → α → State) (hf : ∀ (t : State) (x : α), t.reportOnly (f t x)) (l : List α)
    {t : State} (h : s.reportOnly t) : s.reportOnly (l.foldl f t) := by
  induction l generalizing t with
  | nil => exact h
  | cons x l ih => exact ih (State.reportOnly_trans h (hf t x))

theorem State.setAll_reportOnly (s : State) (i : Nat) (l : List (Field × Nat)) : s.reportOnly (s.setAll i l) := by
  induction l generalizing s with
  | nil => rfl
  | cons e l ih => exact State.reportOnly_trans (t := s.set e.1 i e.2) rfl (ih _)

theorem State.count_reportOnly (s : State) (f : Field) (i : Nat) (w : Field) (wi k n : Nat) : s.reportOnly (s.count f i w wi k n) := by
  unfold State.count
  dsimp only
  split <;> rfl

theorem State.sendMsix_reportOnly (s : State) (fn v : Nat) : s.reportOnly (s.sendMsix fn v) := by
  unfold State.sendMsix
  dsimp only
  generalize (if v < (if fn < 32 then 2048 else 1) then v else 0) = w
  split <;> rfl

theorem State.hostEvent_reportOnly (s : State) (fn : Nat) (f : Field) : s.reportOnly (s.hostEvent fn f) := by
  unfold State.hostEvent
  split
  · rfl
  · dsimp only
    split
    · exact State.reportOnly_trans (t := s.set f fn 1) rfl (State.sendMsix_reportOnly _ _ _)
    · rfl

theorem State.notice_reportOnly (s : State) (p f i info sev : Nat) : s.reportOnly (s.notice p f i info sev) := by
  unfold State.notice
  exact State.reportOnly_trans (State.reportOnly_trans (t := s.setBits Fld.FC_PART_sev p (2 ^ sev)) rfl (State.setAll_reportOnly _ _ _))
    (State.hostEvent_reportOnly _ _ _)

theorem State.requestStop_reportOnly (s : State) (c : Nat) : s.reportOnly (s.requestStop c) := by
  unfold State.requestStop
  dsimp only
  split
  · rfl
  · split <;> rfl

theorem State.fence_reportOnly (s : State) (e : Nat) : s.reportOnly (s.fence e) := by
  unfold State.fence
  split <;> rfl

/-! ## The stages of a report -/

section
variable (s : State) (f i info : Nat) (rail forced : Bool)

/-- The partitions a report is told to. -/
def State.toldOf : List Nat := if (s.instanceOwners f i).isEmpty then s.partitions else s.instanceOwners f i

/-- The log entry of a report, as fields and values. -/
def State.logEntry (owners : List Nat) : List (Field × Nat) :=
  [(Fld.FC_LOG_family, f), (Fld.FC_LOG_instance, i), (Fld.FC_LOG_severity, s.severity f),
    (Fld.FC_LOG_partition, owners.headD 0), (Fld.FC_LOG_part_valid, bit (owners.length == 1)), (Fld.FC_LOG_rail, bit rail),
    (Fld.FC_LOG_forced, bit forced), (Fld.FC_LOG_TIME_time, s.time), (Fld.FC_LOG_INFO_LO_info_lo, info),
    (Fld.FC_LOG_INFO_HI_info_hi, info / 2 ^ 32)]

/-- A report that has been logged and shown in its family's status. -/
def State.reportShown : State := (s.logReport f i info rail forced (s.instanceOwners f i)).statusReport f i info rail forced

/-- A report that has been told to its partitions. -/
def State.reportTold : State :=
  (s.toldOf f i).foldl (fun t p => t.notice p f i info (t.severity f)) (s.reportShown f i info rail forced)

/-- A report whose severity has acted. -/
def State.reportActed : State := (s.reportTold f i info rail forced).severityAction f i (s.instanceOwners f i)

/-- A report: its log entry, its status, its notices, its severity's action, the restart a dead rim calls for, and ERR_N. -/
theorem State.report_eq : s.report f i info rail forced =
    (if f = 0x46 then (s.reportActed f i info rail forced).startRimRestart else s.reportActed f i info rail forced).driveErr := rfl

/-! ## Its frames, stage by stage -/

/-- A family's status as a report shows it, before its flags. -/
def State.statusSet (s : State) (f i info : Nat) : State := (s.bump Fld.FC_SRC_COUNT_count f).setAll f
  [(Fld.FC_SRC_STATUS_pending, 1), (Fld.FC_SRC_STATUS_last_instance, i), (Fld.FC_SRC_INFO_info, info)]

/-- The flags of a family's status a report may raise. -/
def statusFlags : List Field := [Fld.FC_SRC_STATUS_rail, Fld.FC_SRC_STATUS_forced, Fld.FC_SRC_STATUS_demoted]

theorem State.setIf_fieldsBut {s t : State} {ws : List (Field × Nat)} (h : s.fieldsBut t ws) (c : Bool) {g : Field} {j : Nat}
    (hm : (g, j) ∈ ws) (v : Nat) : s.fieldsBut (if c = true then t.set g j v else t) ws := by
  split
  · exact State.fieldsBut_set h hm v
  · exact h

theorem State.setIf_reportOnly {s t : State} (h : s.reportOnly t) (c : Bool) (g : Field) (j v : Nat) :
    s.reportOnly (if c = true then t.set g j v else t) := by
  split
  · exact State.reportOnly_trans h rfl
  · exact h

/-- After what it says of itself a report writes only flags of its family's status. -/
theorem State.statusReport_flags : (s.statusSet f i info).fieldsBut (s.statusReport f i info rail forced) (statusFlags.map (fun g => (g, f))) := by
  unfold State.statusReport
  have hflags := State.setIf_fieldsBut (State.setIf_fieldsBut ((s.statusSet f i info).fieldsBut_refl (statusFlags.map (fun g => (g, f))))
    rail (g := Fld.FC_SRC_STATUS_rail) (j := f) (by simp [statusFlags]) 1) forced (g := Fld.FC_SRC_STATUS_forced) (j := f)
    (by simp [statusFlags]) 1
  unfold State.statusSet at hflags ⊢
  dsimp only at hflags ⊢
  generalize (s.bump Fld.FC_SRC_COUNT_count f).setAll f _ = shown at hflags ⊢
  generalize (if forced = true then _ else _ : State) = u at hflags ⊢
  have hdemoted : shown.fieldsBut (if u.demotedInst f i = true then u.set Fld.FC_SRC_STATUS_demoted f 1
      else { u with fc := { u.fc with lastReport := Sparse.set 0 u.fc.lastReport f u.time } }) (statusFlags.map (fun g => (g, f))) := by
    split
    · exact State.fieldsBut_set hflags (by simp [statusFlags]) _
    · exact State.fieldsBut_then hflags rfl
  generalize (if u.demotedInst f i = true then _ else _ : State) = v at hdemoted ⊢
  split
  · exact State.fieldsBut_then hdemoted rfl
  · exact State.fieldsBut_then hdemoted (State.errRise_regs _ _)

theorem State.errRise_reportOnly (s : State) (f : Nat) : s.reportOnly (s.errRise f) := by
  unfold State.errRise
  split <;> rfl

theorem State.statusReport_reportOnly : s.reportOnly (s.statusReport f i info rail forced) := by
  unfold State.statusReport
  have hset : s.reportOnly (s.statusSet f i info) :=
    State.reportOnly_trans (t := s.bump Fld.FC_SRC_COUNT_count f) rfl (State.setAll_reportOnly _ _ _)
  have hflags := State.setIf_reportOnly (State.setIf_reportOnly hset rail Fld.FC_SRC_STATUS_rail f 1) forced Fld.FC_SRC_STATUS_forced f 1
  unfold State.statusSet at hflags
  dsimp only at hflags ⊢
  generalize (if forced = true then _ else _ : State) = u at hflags ⊢
  have hdemoted : s.reportOnly (if u.demotedInst f i = true then u.set Fld.FC_SRC_STATUS_demoted f 1
      else { u with fc := { u.fc with lastReport := Sparse.set 0 u.fc.lastReport f u.time } }) := by
    split
    · exact State.reportOnly_trans hflags rfl
    · exact State.reportOnly_trans hflags rfl
  generalize (if u.demotedInst f i = true then _ else _ : State) = v at hdemoted ⊢
  split
  · exact State.reportOnly_trans hdemoted rfl
  · refine State.reportOnly_trans hdemoted (State.reportOnly_trans ?_ (State.errRise_reportOnly _ _))
    rfl

/-- A log entry, written at the head. -/
theorem State.logReport_reportOnly (owners : List Nat) : s.reportOnly (s.logReport f i info rail forced owners) := by
  have hentry : s.reportOnly (s.setAll (s.get Fld.FC_LOG_HEAD_count % 256) (s.logEntry f i info rail forced owners)) := s.setAll_reportOnly _ _
  unfold State.logReport
  unfold State.logEntry at hentry
  dsimp only at hentry ⊢
  generalize State.setAll s _ _ = u at hentry ⊢
  refine State.reportOnly_trans hentry (State.reportOnly_trans ?_ (State.count_reportOnly _ _ _ _ _ _ _))
  rfl

theorem State.severityAction_reportOnly (owners : List Nat) : s.reportOnly (s.severityAction f i owners) := by
  have hfence : s.reportOnly (if s.severity f < 2 then s else match engineOf f i with
      | some e => s.fence e
      | none => s) := by
    split
    · rfl
    · split
      · exact s.fence_reportOnly _
      · rfl
  unfold State.severityAction
  dsimp only at hfence ⊢
  generalize (if s.severity f < 2 then _ else _ : State) = u at hfence ⊢
  split
  · exact hfence
  · exact State.reportOnly_foldl _ (fun v p => State.reportOnly_foldl _ State.requestStop_reportOnly _ rfl) _ hfence

theorem State.driveErr_reportOnly (s : State) : s.reportOnly s.driveErr := rfl

theorem State.reportActed_reportOnly : s.reportOnly (s.reportActed f i info rail forced) := by
  have hlogged := s.logReport_reportOnly f i info rail forced (s.instanceOwners f i)
  have hshown : s.reportOnly (s.reportShown f i info rail forced) :=
    State.reportOnly_trans hlogged (State.statusReport_reportOnly _ f i info rail forced)
  have htold : s.reportOnly (s.reportTold f i info rail forced) :=
    State.reportOnly_foldl _ (fun t p => t.notice_reportOnly p f i info (t.severity f)) _ hshown
  exact State.reportOnly_trans htold (State.severityAction_reportOnly _ f i _)

/-- A report of a family that calls for no rim restart leaves the run, and of the collector all but what it keeps of reports. -/
theorem State.report_reportOnly (h : f ≠ 0x46) : s.reportOnly (s.report f i info rail forced) := by
  rw [State.report_eq, if_neg h]
  exact State.reportOnly_trans (s.reportActed_reportOnly f i info rail forced) (State.driveErr_reportOnly _)

/-- What the collector keeps beside reports is kept by every report. -/
theorem State.report_collector : { (s.report f i info rail forced).fc with
    masked := s.fc.masked, lastReport := s.fc.lastReport, reporters := s.fc.reporters, fenced := s.fc.fenced, pulseEnd := s.fc.pulseEnd } = s.fc := by
  have hacted := s.reportActed_reportOnly f i info rail forced
  rw [State.report_eq]
  generalize s.reportActed f i info rail forced = u at hacted
  have hfc : (if f = 0x46 then u.startRimRestart else u).driveErr.fc = u.fc := by split <;> rfl
  rw [hfc]
  exact congrArg State.fc hacted

theorem State.reportTold_copies : (s.reportShown f i info rail forced).copiesBut (s.reportTold f i info rail forced) noticeFields :=
  State.copiesBut_foldl (fun t p => t.notice p f i info (t.severity f)) (fun _ _ ht => State.notice_copies ht _ _ _ _ _) _
    (State.copiesBut_refl _ _)

theorem State.report_afterTold : (s.reportTold f i info rail forced).copiesBut (s.report f i info rail forced) (actionFields ++ errFields) := by
  have hacted : (s.reportTold f i info rail forced).copiesBut (s.reportActed f i info rail forced) actionFields :=
    State.severityAction_copies (State.copiesBut_refl _ _) f i _
  rw [State.report_eq]
  generalize s.reportActed f i info rail forced = u at hacted ⊢
  refine State.copiesBut_trans ?_ (State.copiesBut_mono (State.driveErr_copies (State.copiesBut_refl _ _)) (by decide))
  split
  · exact State.copiesBut_mono (State.copiesBut_set (State.copiesBut_then hacted rfl) (by decide) _ _) (by decide)
  · exact State.copiesBut_mono hacted (by decide)

/-! ## What shows of a report -/

theorem State.statusSet_get : (s.statusSet f i info).get Fld.FC_SRC_STATUS_pending f = 1 ∧
    (s.statusSet f i info).get Fld.FC_SRC_STATUS_last_instance f = i % 2 ^ 9 ∧
    (s.statusSet f i info).get Fld.FC_SRC_INFO_info f = info % 2 ^ 32 := by
  simp (disch := decide) only [State.statusSet, State.setAll_cons, State.setAll_nil, State.get_set_field, State.get_set_same]
  exact ⟨rfl, rfl, rfl⟩

/-- What a status shows of a report that is no flag stays to its end. -/
theorem State.report_get_shown {g : Field} (h : ∀ w ∈ statusFlags, (g.reg * 32 + g.lo) % 16384 ≠ (w.reg * 32 + w.lo) % 16384)
    (h' : ∀ w ∈ noticeFields ++ (actionFields ++ errFields), (g.reg * 32 + g.lo) % 16384 ≠ (w.reg * 32 + w.lo) % 16384) (j : Nat) :
    (s.report f i info rail forced).get g j =
      ((s.logReport f i info rail forced (s.instanceOwners f i)).statusSet f i info).get g j := by
  rw [State.copiesBut_get (s.report_afterTold f i info rail forced) (fun w hw => h' w (List.mem_append_right _ hw)),
    State.copiesBut_get (s.reportTold_copies f i info rail forced) (fun w hw => h' w (List.mem_append_left _ hw))]
  refine State.statusReport_flags _ f i info rail forced g j (fun w hw => ?_)
  obtain ⟨k, hk, rfl⟩ := List.mem_map.1 hw
  exact Field.key_ne (h k hk) j f

/-- A report shows in its family's status. -/
theorem State.report_status : (s.report f i info rail forced).get Fld.FC_SRC_STATUS_pending f = 1 ∧
    (s.report f i info rail forced).get Fld.FC_SRC_STATUS_last_instance f = i % 2 ^ 9 ∧
    (s.report f i info rail forced).get Fld.FC_SRC_INFO_info f = info % 2 ^ 32 := by
  obtain ⟨hpending, hinstance, hinfo⟩ := (s.logReport f i info rail forced (s.instanceOwners f i)).statusSet_get f i info
  refine ⟨?_, ?_, ?_⟩
  · rw [State.report_get_shown _ _ _ _ _ _ (by decide) (by decide), hpending]
  · rw [State.report_get_shown _ _ _ _ _ _ (by decide) (by decide), hinstance]
  · rw [State.report_get_shown _ _ _ _ _ _ (by decide) (by decide), hinfo]

/-- Another family's pending bit and count stay as they were. -/
theorem State.report_otherFamily {g : Nat} (h : g ≠ f) :
    (s.report f i info rail forced).get Fld.FC_SRC_STATUS_pending g = s.get Fld.FC_SRC_STATUS_pending g ∧
    (s.report f i info rail forced).get Fld.FC_SRC_COUNT_count g = s.get Fld.FC_SRC_COUNT_count g := by
  have hlog := s.logReport_copies f i info rail forced (s.instanceOwners f i)
  rw [State.report_get_shown _ _ _ _ _ _ (by decide) (by decide), State.report_get_shown _ _ _ _ _ _ (by decide) (by decide),
    ← State.copiesBut_get hlog (by decide) g, ← State.copiesBut_get hlog (by decide) g]
  generalize s.logReport f i info rail forced (s.instanceOwners f i) = u
  have hset : u.fieldsBut (u.statusSet f i info) ((statusFields.take 4).map (fun w => (w, f))) :=
    State.fieldsBut_setAll (State.fieldsBut_set (u.fieldsBut_refl _) (by simp [statusFields]) _) f _ (by simp [statusFields])
  exact ⟨State.fieldsBut_get_copy hset (by decide) h, State.fieldsBut_get_copy hset (by decide) h⟩

/-- The fields of a log entry, without the log's head. -/
theorem State.report_get_log {g : Field} (h : ∀ w ∈ statusFields ++ (noticeFields ++ (actionFields ++ errFields)),
    (g.reg * 32 + g.lo) % 16384 ≠ (w.reg * 32 + w.lo) % 16384) (j : Nat) :
    (s.report f i info rail forced).get g j = (s.logReport f i info rail forced (s.instanceOwners f i)).get g j := by
  rw [State.copiesBut_get (s.report_afterTold f i info rail forced) (fun w hw => h w (List.mem_append_right _ (List.mem_append_right _ hw))),
    State.copiesBut_get (s.reportTold_copies f i info rail forced) (fun w hw => h w (List.mem_append_right _ (List.mem_append_left _ hw))),
    State.reportShown, State.copiesBut_get (State.statusReport_copies (State.copiesBut_refl _ _) f i info rail forced)
      (fun w hw => h w (List.mem_append_left _ hw))]

theorem State.severity_le (s : State) (f : Nat) : s.severity f ≤ 4 := Nat.min_le_left ..

variable (owners : List Nat)

/-- The log entry is written, and then the head counts it. -/
theorem State.logReport_eq : ∃ u : State,
    u.regs = (s.setAll (s.get Fld.FC_LOG_HEAD_count % 256) (s.logEntry f i info rail forced owners)).regs ∧
    s.logReport f i info rail forced owners = u.count Fld.FC_LOG_HEAD_count 0 Fld.FC_STATUS_wrap 0 2 := by
  unfold State.logReport State.logEntry
  dsimp only
  generalize State.setAll s _ _ = u
  refine ⟨_, ?_, rfl⟩
  rfl

theorem State.logReport_get_head : (s.logReport f i info rail forced owners).get Fld.FC_LOG_HEAD_count =
    (s.get Fld.FC_LOG_HEAD_count + 1) % 2 ^ Fld.FC_LOG_HEAD_count.width := by
  have hentry : s.copiesBut (s.setAll (s.get Fld.FC_LOG_HEAD_count % 256) (s.logEntry f i info rail forced owners)) (logFields.take 10) :=
    State.copiesBut_setAll (s.copiesBut_refl _) _ _ (by simp [State.logEntry, logFields])
  obtain ⟨u, hu, hlog⟩ := s.logReport_eq f i info rail forced owners
  rw [hlog, State.get_count_same _ (by decide), State.get_of_regs hu, State.copiesBut_get hentry (by decide)]

/-- An entry's field, once the head has counted. -/
theorem State.logReport_get_entry {g : Field} (hh : (g.reg * 32 + g.lo) % 16384 ≠ (Fld.FC_LOG_HEAD_count.reg * 32 + Fld.FC_LOG_HEAD_count.lo) % 16384)
    (hw : (g.reg * 32 + g.lo) % 16384 ≠ (Fld.FC_STATUS_wrap.reg * 32 + Fld.FC_STATUS_wrap.lo) % 16384) (j : Nat) :
    (s.logReport f i info rail forced owners).get g j =
      (s.setAll (s.get Fld.FC_LOG_HEAD_count % 256) (s.logEntry f i info rail forced owners)).get g j := by
  obtain ⟨u, hu, hlog⟩ := s.logReport_eq f i info rail forced owners
  rw [hlog, State.get_count_field _ hh hw, State.get_of_regs hu]

end

end Sys2Proof.Machine

/-! A report's notices, the fence of its engine, and the outcomes of FAULT_REPORT (14 R628 to R633, R645, R663 to R665). -/

namespace Sys2Proof.Machine

/-! ## The log entry -/

section
variable (s : State) (f i info : Nat) (rail forced : Bool)

/-- The slot of the log the next report takes. -/
def State.logSlot : Nat := s.get Fld.FC_LOG_HEAD_count % 256

theorem State.setAll_logEntry_get (k : Nat) (owners : List Nat) :
    let t := s.setAll k (s.logEntry f i info rail forced owners)
    t.get Fld.FC_LOG_family k = f % 2 ^ 8 ∧ t.get Fld.FC_LOG_instance k = i % 2 ^ 9 ∧ t.get Fld.FC_LOG_severity k = s.severity f ∧
    t.get Fld.FC_LOG_partition k = owners.headD 0 % 2 ^ 5 ∧ t.get Fld.FC_LOG_part_valid k = bit (owners.length == 1) ∧
    t.get Fld.FC_LOG_rail k = bit rail ∧ t.get Fld.FC_LOG_forced k = bit forced ∧ t.get Fld.FC_LOG_TIME_time k = s.time % 2 ^ 32 ∧
    t.get Fld.FC_LOG_INFO_LO_info_lo k = info % 2 ^ 32 ∧ t.get Fld.FC_LOG_INFO_HI_info_hi k = info / 2 ^ 32 % 2 ^ 32 := by
  simp (disch := decide) only [State.logEntry, State.setAll_cons, State.setAll_nil, State.get_set_field, State.get_set_same]
  exact ⟨rfl, rfl, Nat.mod_eq_of_lt (Nat.lt_of_le_of_lt (s.severity_le f) (by decide)), rfl, bit_mod_two _, bit_mod_two _, bit_mod_two _, rfl,
    rfl, rfl⟩

/-- What the log shows of a report. -/
theorem State.report_log :
    let t := s.report f i info rail forced
    t.get Fld.FC_LOG_family s.logSlot = f % 2 ^ 8 ∧ t.get Fld.FC_LOG_instance s.logSlot = i % 2 ^ 9 ∧
    t.get Fld.FC_LOG_severity s.logSlot = s.severity f ∧ t.get Fld.FC_LOG_partition s.logSlot = (s.instanceOwners f i).headD 0 % 2 ^ 5 ∧
    t.get Fld.FC_LOG_part_valid s.logSlot = bit ((s.instanceOwners f i).length == 1) ∧
    t.get Fld.FC_LOG_rail s.logSlot = bit rail ∧ t.get Fld.FC_LOG_forced s.logSlot = bit forced ∧
    t.get Fld.FC_LOG_TIME_time s.logSlot = s.time % 2 ^ 32 ∧ t.get Fld.FC_LOG_INFO_LO_info_lo s.logSlot = info % 2 ^ 32 ∧
    t.get Fld.FC_LOG_INFO_HI_info_hi s.logSlot = info / 2 ^ 32 % 2 ^ 32 := by
  have hentry := s.setAll_logEntry_get f i info rail forced s.logSlot (s.instanceOwners f i)
  have hget (g : Field) (hg : g ∈ logFields.take 10) (j : Nat) : (s.report f i info rail forced).get g j =
      (s.setAll s.logSlot (s.logEntry f i info rail forced (s.instanceOwners f i))).get g j := by
    have hapart : ∀ g ∈ logFields.take 10, ∀ w ∈ Fld.FC_LOG_HEAD_count :: Fld.FC_STATUS_wrap :: (statusFields ++ (noticeFields ++ (actionFields ++ errFields))),
      (g.reg * 32 + g.lo) % 16384 ≠ (w.reg * 32 + w.lo) % 16384 := by decide
    have hg' := hapart g hg
    rw [State.report_get_log _ _ _ _ _ _ (fun w hw => hg' w (List.mem_cons_of_mem _ (List.mem_cons_of_mem _ hw))),
      State.logReport_get_entry _ _ _ _ _ _ _ (hg' _ (List.mem_cons_self ..)) (hg' _ (List.mem_cons_of_mem _ (List.mem_cons_self ..)))]
    rfl
  dsimp only at hentry ⊢
  simpa only [hget _ (by decide : Fld.FC_LOG_family ∈ logFields.take 10), hget _ (by decide : Fld.FC_LOG_instance ∈ logFields.take 10),
    hget _ (by decide : Fld.FC_LOG_severity ∈ logFields.take 10), hget _ (by decide : Fld.FC_LOG_partition ∈ logFields.take 10),
    hget _ (by decide : Fld.FC_LOG_part_valid ∈ logFields.take 10), hget _ (by decide : Fld.FC_LOG_rail ∈ logFields.take 10),
    hget _ (by decide : Fld.FC_LOG_forced ∈ logFields.take 10), hget _ (by decide : Fld.FC_LOG_TIME_time ∈ logFields.take 10),
    hget _ (by decide : Fld.FC_LOG_INFO_LO_info_lo ∈ logFields.take 10), hget _ (by decide : Fld.FC_LOG_INFO_HI_info_hi ∈ logFields.take 10)] using hentry

/-- The log's head counts a report. -/
theorem State.report_get_head : (s.report f i info rail forced).get Fld.FC_LOG_HEAD_count =
    (s.get Fld.FC_LOG_HEAD_count + 1) % 2 ^ Fld.FC_LOG_HEAD_count.width := by
  rw [State.report_get_log _ _ _ _ _ _ (by decide), State.logReport_get_head]

/-! ## The notices -/

/-- A partition has the notice of a report. -/
def State.noticed (s : State) (p f i sev : Nat) : Prop :=
  s.get Fld.FC_PART_family p = f % 2 ^ 8 ∧ s.get Fld.FC_PART_INST_instance p = i % 2 ^ 9 ∧
  s.flag Fld.HI_EVENT_STATUS_fault_notice p = true ∧ (sev < 5 → bitOf (s.get Fld.FC_PART_sev p) sev = true)

variable {p sev : Nat}

/-- Whoever has the notice has it while its four fields stand. -/
theorem State.noticed_of_copies {s t : State} (h : s.noticed p f i sev)
    (ht : ∀ g ∈ [Fld.FC_PART_family, Fld.FC_PART_INST_instance, Fld.HI_EVENT_STATUS_fault_notice, Fld.FC_PART_sev], t.get g p = s.get g p) :
    t.noticed p f i sev := by
  simpa only [State.noticed, State.flag, ht _ (List.mem_cons_self ..), ht Fld.FC_PART_INST_instance (by decide),
    ht Fld.HI_EVENT_STATUS_fault_notice (by decide), ht Fld.FC_PART_sev (by decide)] using h

/-- A notice is given to its partition. -/
theorem State.notice_noticed (p sev : Nat) : (s.notice p f i info sev).noticed p f i sev := by
  unfold State.notice
  dsimp only
  have hset : ((s.setBits Fld.FC_PART_sev p (2 ^ sev)).setAll p [(Fld.FC_PART_family, f), (Fld.FC_PART_INST_instance, i),
      (Fld.FC_PART_INFO_LO_info_lo, info), (Fld.FC_PART_INFO_HI_info_hi, info / 2 ^ 32)]).get Fld.FC_PART_family p = f % 2 ^ 8 ∧
    ((s.setBits Fld.FC_PART_sev p (2 ^ sev)).setAll p [(Fld.FC_PART_family, f), (Fld.FC_PART_INST_instance, i),
      (Fld.FC_PART_INFO_LO_info_lo, info), (Fld.FC_PART_INFO_HI_info_hi, info / 2 ^ 32)]).get Fld.FC_PART_INST_instance p = i % 2 ^ 9 ∧
    ((s.setBits Fld.FC_PART_sev p (2 ^ sev)).setAll p [(Fld.FC_PART_family, f), (Fld.FC_PART_INST_instance, i),
      (Fld.FC_PART_INFO_LO_info_lo, info), (Fld.FC_PART_INFO_HI_info_hi, info / 2 ^ 32)]).get Fld.FC_PART_sev p =
        (s.get Fld.FC_PART_sev p ||| 2 ^ sev) % 2 ^ 5 := by
    simp (disch := decide) only [State.setBits, State.setAll_cons, State.setAll_nil, State.get_set_field, State.get_set_same]
    exact ⟨rfl, rfl, rfl⟩
  generalize State.setAll _ p _ = u at hset ⊢
  obtain ⟨hfamily, hinstance, hsev⟩ := hset
  have hevent := u.hostEvent_copies p Fld.HI_EVENT_STATUS_fault_notice
  refine ⟨?_, ?_, u.hostEvent_flag p rfl, fun hlt => ?_⟩
  · rw [State.copiesBut_get hevent (by decide), hfamily]
  · rw [State.copiesBut_get hevent (by decide), hinstance]
  · rw [State.copiesBut_get hevent (by decide), hsev, bitOf_mod_two_pow _ hlt, bitOf_or]
    simp [bitOf_eq_testBit]

/-- The notice of one partition leaves those of the others. -/
theorem State.notice_fieldsBut (p sev : Nat) : s.fieldsBut (s.notice p f i info sev) (noticeFields.map (fun g => (g, p))) := by
  unfold State.notice
  refine State.fieldsBut_trans ?_ (State.fieldsBut_mono (State.hostEvent_fieldsBut _ p _) (by simp [noticeFields]))
  exact State.fieldsBut_setAll (State.fieldsBut_set (s.fieldsBut_refl _) (by simp [noticeFields]) _) p _ (by simp [noticeFields])

/-- One who has the notice keeps it while it is told to others, and is told of it again. -/
theorem State.noticed_notice (h : s.noticed p f i sev) (q : Nat) : (s.notice q f i info sev).noticed p f i sev := by
  by_cases hq : p = q
  · rw [hq]
    exact s.notice_noticed f i info q sev
  · have hapart : ∀ g ∈ [Fld.FC_PART_family, Fld.FC_PART_INST_instance, Fld.HI_EVENT_STATUS_fault_notice, Fld.FC_PART_sev],
        ∀ w ∈ noticeFields, g = w ∨ (g.reg * 32 + g.lo) % 16384 ≠ (w.reg * 32 + w.lo) % 16384 := by decide
    exact State.noticed_of_copies f i h (fun g hg => State.fieldsBut_get_copy (s.notice_fieldsBut f i info q sev) (hapart g hg) hq)

theorem State.severity_of_copies {s t : State} {fs : List Field} (h : s.copiesBut t fs)
    (hf : ∀ w ∈ fs, (Fld.FC_SRC_CFG_severity.reg * 32 + Fld.FC_SRC_CFG_severity.lo) % 16384 ≠ (w.reg * 32 + w.lo) % 16384) (f : Nat) :
    t.severity f = s.severity f := by
  unfold State.severity
  rw [State.copiesBut_get h hf]

/-- Tells one partition of a report, with the severity its family has. -/
def State.tell (s : State) (q : Nat) : State := s.notice q f i info (s.severity f)

theorem State.tell_severity (q : Nat) : (s.tell f i info q).severity f = s.severity f :=
  State.severity_of_copies (State.notice_copies (s.copiesBut_refl _) q f i info _) (by decide) f

theorem State.foldl_tell_keeps (l : List Nat) {s : State} (hsev : s.severity f = sev) (h : s.noticed p f i sev) :
    (l.foldl (fun t q => t.tell f i info q) s).noticed p f i sev := by
  induction l generalizing s with
  | nil => exact h
  | cons q l ih =>
    refine ih ((s.tell_severity f i info q).trans hsev) ?_
    show (s.notice q f i info (s.severity f)).noticed p f i sev
    rw [hsev]
    exact s.noticed_notice f i info h q

/-- Everyone on the list is told. -/
theorem State.foldl_tell_noticed {l : List Nat} (hp : p ∈ l) {s : State} (hsev : s.severity f = sev) :
    (l.foldl (fun t q => t.tell f i info q) s).noticed p f i sev := by
  induction l generalizing s with
  | nil => cases hp
  | cons q l ih =>
    have hnext := (s.tell_severity f i info q).trans hsev
    rcases List.mem_cons.1 hp with rfl | hl
    · refine State.foldl_tell_keeps f i info l hnext ?_
      show (s.notice p f i info (s.severity f)).noticed p f i sev
      rw [hsev]
      exact s.notice_noticed f i info p sev
    · exact ih hl hnext

/-- A report leaves its severity as it was until it acts. -/
theorem State.reportShown_severity : (s.reportShown f i info rail forced).severity f = s.severity f :=
  (State.severity_of_copies (State.statusReport_copies (State.copiesBut_refl _ _) f i info rail forced) (by decide) f).trans
    (State.severity_of_copies (s.logReport_copies f i info rail forced _) (by decide) f)

/-- Every partition the report belongs to has its notice. -/
theorem State.report_noticed (h : p ∈ s.toldOf f i) : (s.report f i info rail forced).noticed p f i (s.severity f) := by
  have htold : (s.reportTold f i info rail forced).noticed p f i (s.severity f) :=
    State.foldl_tell_noticed f i info h (s.reportShown_severity f i info rail forced)
  have hapart : ∀ g ∈ [Fld.FC_PART_family, Fld.FC_PART_INST_instance, Fld.HI_EVENT_STATUS_fault_notice, Fld.FC_PART_sev],
    ∀ w ∈ actionFields ++ errFields, (g.reg * 32 + g.lo) % 16384 ≠ (w.reg * 32 + w.lo) % 16384 := by decide
  exact State.noticed_of_copies f i htold
    (fun g hg => State.copiesBut_get (s.report_afterTold f i info rail forced) (hapart g hg) p)

/-! ## The fence -/

theorem State.foldl_fc {α : Type} (g : State → α → State) (hg : ∀ t x, (g t x).fc = t.fc) (l : List α) (s : State) :
    (l.foldl g s).fc = s.fc := by
  induction l generalizing s with
  | nil => rfl
  | cons x l ih => exact (ih _).trans (hg s x)

theorem State.requestStop_fc (s : State) (c : Nat) : (s.requestStop c).fc = s.fc := by
  unfold State.requestStop
  dsimp only
  split
  · rfl
  · split <;> rfl

theorem State.fence_fenced (s : State) (e : Nat) : e ∈ (s.fence e).fc.fenced := by
  unfold State.fence
  split
  · exact List.contains_iff_mem.1 ‹_›
  · exact List.mem_append_right _ (List.mem_singleton_self e)

theorem State.severityAction_fenced {e : Nat} (he : engineOf f i = some e) (h : 2 ≤ s.severity f) (owners : List Nat) :
    e ∈ (s.severityAction f i owners).fc.fenced := by
  unfold State.severityAction
  dsimp only
  rw [if_neg (Nat.not_lt.2 h), he]
  dsimp only
  split
  · exact s.fence_fenced e
  · rw [State.foldl_fc _ (fun t p => State.foldl_fc _ State.requestStop_fc _ t)]
    exact s.fence_fenced e

/-- A report of severity ENGINE or above fences the engine that it names. -/
theorem State.report_fenced {e : Nat} (he : engineOf f i = some e) (h : 2 ≤ s.severity f) : e ∈ (s.report f i info rail forced).fc.fenced := by
  have htold : (s.reportTold f i info rail forced).severity f = s.severity f :=
    (State.severity_of_copies (s.reportTold_copies f i info rail forced) (by decide) f).trans (s.reportShown_severity f i info rail forced)
  have hacted : e ∈ (s.reportActed f i info rail forced).fc.fenced :=
    State.severityAction_fenced _ f i he (htold ▸ h) _
  rw [State.report_eq]
  generalize s.reportActed f i info rail forced = u at hacted ⊢
  split
  · exact hacted
  · exact hacted

theorem State.report_errN : (s.report f i info rail forced).pins.errN = !(s.report f i info rail forced).errLow := by
  rw [State.report_eq]
  exact State.driveErr_errN _

end

end Sys2Proof.Machine

/-! FAULT_REPORT: the report of a source, the sparing of a row and of a lane, and the retiring of a channel (14 R628 to R633, R663 to R665). -/

namespace Sys2Proof.Machine

/-! ## A row or a lane that is spared, a channel that retires -/

theorem State.reportRest_of_reportOnly {s t : State} (h : s.reportOnly t) : s.reportRest t := by
  unfold State.reportOnly at h
  unfold State.reportRest
  rw [← h]

section
variable {s : State} (ch info : Nat) (rail : Bool)

theorem State.dropFree_copies (s : State) : s.copiesBut (s.dropFree ch) [Fld.PG_FREE_FRAMES_frames] := by
  refine State.copiesBut_foldl _ (fun t e ht => ?_) s.pieces (s.copiesBut_refl _)
  split
  · exact State.copiesBut_set ht (List.mem_singleton_self _) _ _
  · exact ht

theorem State.dropFree_reportOnly (s : State) : s.reportOnly (s.dropFree ch) := by
  refine State.reportOnly_foldl _ (fun t e => ?_) s.pieces rfl
  split <;> rfl

/-- A channel is among the retiring from now on. -/
def State.retiringNoted (s : State) : State := { s with fc := { s.fc with retiring := s.fc.retiring ++ [(ch, s.time)] } }

/-- A channel that has begun to retire, before it is reported. -/
def State.retiringSince (s : State) : State :=
  if s.draining ch then s.retiringNoted ch else (s.retiringNoted ch).dropFree ch

theorem State.retireChannel_of_first (h : ∀ e ∈ s.fc.retiring, e.1 ≠ ch) :
    s.retireChannel ch info = (s.retiringSince ch).report 0x1D ch info :=
  if_neg (by simpa using fun b hm => h (ch, b) hm rfl)

theorem State.retireChannel_of_again (h : ∃ e ∈ s.fc.retiring, e.1 = ch) : s.retireChannel ch info = s :=
  if_pos (by simpa using h)

theorem State.retiringSince_reportOnly (s : State) : (s.retiringNoted ch).reportOnly (s.retiringSince ch) := by
  unfold State.retiringSince
  split
  · rfl
  · exact State.dropFree_reportOnly ch _

theorem State.retiringSince_copies (s : State) : s.copiesBut (s.retiringSince ch) [Fld.PG_FREE_FRAMES_frames] := by
  unfold State.retiringSince
  split
  · exact State.copiesBut_then (s.copiesBut_refl _) rfl
  · exact State.copiesBut_trans (State.copiesBut_then (s.copiesBut_refl _) rfl) (State.dropFree_copies ch _)

/-- What the collector keeps beside reports is read after a report as before it. -/
theorem State.report_fc_retiring (s : State) (f i info : Nat) (rail forced : Bool) :
    (s.report f i info rail forced).fc.retiring = s.fc.retiring ∧ (s.report f i info rail forced).fc.spareLanes = s.fc.spareLanes ∧
    (s.report f i info rail forced).fc.rotating = s.fc.rotating :=
  ⟨(congrArg Collector.retiring (s.report_collector f i info rail forced) :),
    (congrArg Collector.spareLanes (s.report_collector f i info rail forced) :),
    (congrArg Collector.rotating (s.report_collector f i info rail forced) :)⟩

theorem State.retireChannel_retiring (h : ∀ e ∈ s.fc.retiring, e.1 ≠ ch) :
    (s.retireChannel ch info).fc.retiring = s.fc.retiring ++ [(ch, s.time)] := by
  rw [State.retireChannel_of_first ch info h, (State.report_fc_retiring _ _ _ _ _ _).1]
  exact (congrArg (fun t => t.fc.retiring) (s.retiringSince_reportOnly ch) :)

/-- A retiring channel is counted as one report. -/
theorem State.retireChannel_counted (h : ∀ e ∈ s.fc.retiring, e.1 ≠ ch) : (s.retireChannel ch info).get Fld.FC_SRC_COUNT_count 0x1D =
    (s.get Fld.FC_SRC_COUNT_count 0x1D + 1) % 2 ^ Fld.FC_SRC_COUNT_count.width := by
  rw [State.retireChannel_of_first ch info h, State.report_counted, State.copiesBut_get (s.retiringSince_copies ch) (by decide)]

theorem State.retireChannel_reportRest (s : State) : s.reportRest (s.retireChannel ch info) := by
  unfold State.retireChannel
  split
  · rfl
  · exact State.reportRest_trans (State.reportRest_trans (t := s.retiringNoted ch) rfl
      (State.reportRest_of_reportOnly (s.retiringSince_reportOnly ch))) (State.report_reportRest _ _ _ _ _ _)

/-- Retiring a channel reports no family but its own. -/
theorem State.retireChannel_otherFamily (s : State) {g : Nat} (hg : g ≠ 0x1D) :
    (s.retireChannel ch info).get Fld.FC_SRC_STATUS_pending g = s.get Fld.FC_SRC_STATUS_pending g ∧
    (s.retireChannel ch info).get Fld.FC_SRC_COUNT_count g = s.get Fld.FC_SRC_COUNT_count g := by
  unfold State.retireChannel
  split
  · exact ⟨rfl, rfl⟩
  · obtain ⟨hpending, hcount⟩ := (s.retiringSince ch).report_otherFamily 0x1D ch info false false hg
    exact ⟨hpending.trans (State.copiesBut_get (s.retiringSince_copies ch) (by decide) g),
      hcount.trans (State.copiesBut_get (s.retiringSince_copies ch) (by decide) g)⟩

/-- A bank one of whose spare rows is taken. -/
def State.rowTaken (s : State) (bank : Nat) : State :=
  { s with fc := { s.fc with spareRows := Sparse.set 0 s.fc.spareRows bank (Sparse.get 0 s.fc.spareRows bank + 1) } }

theorem State.hbmRowSpare_eq (s : State) (off : Nat) : s.hbmRowSpare ch off =
    if Sparse.get 0 s.fc.spareRows (ch * 2 ^ 31 + Config.hbmBank off) < Config.spareRows then
      (s.rowTaken (ch * 2 ^ 31 + Config.hbmBank off)).report 0x1B ch off
    else s.retireChannel ch off := rfl

theorem State.hbmRowSpare_reportRest (s : State) (off : Nat) : s.reportRest (s.hbmRowSpare ch off) := by
  rw [State.hbmRowSpare_eq]
  split
  · have htaken (bank : Nat) : s.reportRest (s.rowTaken bank) := rfl
    exact State.reportRest_trans (htaken _) (State.report_reportRest _ _ _ _ _ _)
  · exact s.retireChannel_reportRest ch off

/-- Sparing a row reports the row's sparing or the channel's retiring, no other family. -/
theorem State.hbmRowSpare_otherFamily (s : State) (off : Nat) {g : Nat} (hb : g ≠ 0x1B) (hd : g ≠ 0x1D) :
    (s.hbmRowSpare ch off).get Fld.FC_SRC_STATUS_pending g = s.get Fld.FC_SRC_STATUS_pending g ∧
    (s.hbmRowSpare ch off).get Fld.FC_SRC_COUNT_count g = s.get Fld.FC_SRC_COUNT_count g := by
  rw [State.hbmRowSpare_eq]
  split
  · exact State.report_otherFamily (s.rowTaken _) 0x1B ch off false false hb
  · exact s.retireChannel_otherFamily ch off hd

/-- A channel one of whose spare lanes is taken. -/
def State.laneTaken (s : State) : State :=
  { s with fc := { s.fc with spareLanes := Sparse.set 0 s.fc.spareLanes ch (Sparse.get 0 s.fc.spareLanes ch + 1) } }

theorem State.hbmLaneSpare_eq (s : State) : s.hbmLaneSpare ch info rail =
    if Sparse.get 0 s.fc.spareLanes ch < Config.spareLanes then (s.laneTaken ch).report 0x1C ch info rail else s.retireChannel ch info := rfl

end

/-! ## The outcomes of FAULT_REPORT -/

section
variable {s : State} {f : BitVec 8} {i : BitVec 9} {info : BitVec 64} {prev now : BitVec 2}

theorem execFaultReport_eq (hk : families.contains f.toNat = true) : execFaultReport f i info prev now s = .next (
    if f.toNat = 0x1C ∧ (railFault prev now = true ∨ now = 2) then s.hbmLaneSpare i.toNat info.toNat (railFault prev now)
    else if railFault prev now then s.report f.toNat i.toNat info.toNat true
    else if now = 2 then
      if f.toNat = 0x1A then (s.report f.toNat i.toNat info.toNat).hbmRowSpare i.toNat (info.toNat % 2 ^ 31)
      else s.report f.toNat i.toNat info.toNat
    else s) := by
  unfold execFaultReport
  dsimp only
  rw [hk]
  simp only [Bool.not_true, Bool.false_eq_true, if_false, apply_ite Host.Outcome.next]

theorem execFaultReport_of_none (h : families.contains f.toNat = false ∨ (railFault prev now = false ∧ now ≠ 2)) :
    execFaultReport f i info prev now s = .next s := by
  cases hk : families.contains f.toNat with
  | false => exact if_pos (by rw [hk]; rfl)
  | true =>
    obtain ⟨hr, hn⟩ := h.resolve_left (by simp only [hk, Bool.true_eq_false, not_false_eq_true])
    have hreport : ¬ (railFault prev now = true ∨ now = 2) := not_or.2 ⟨by simp [hr], hn⟩
    rw [execFaultReport_eq hk, if_neg (fun h => hreport h.2), if_neg (fun h => hreport (.inl h)), if_neg hn]

theorem execFaultReport_of_lane (hf : f = 0x1C) (h : railFault prev now = true ∨ now = 2) :
    execFaultReport f i info prev now s = .next (s.hbmLaneSpare i.toNat info.toNat (railFault prev now)) := by
  subst hf
  rw [execFaultReport_eq (by decide), if_pos ⟨rfl, h⟩]

theorem execFaultReport_of_row (hf : f = 0x1A) (hr : railFault prev now = false) (hn : now = 2) :
    execFaultReport f i info prev now s = .next ((s.report 0x1A i.toNat info.toNat).hbmRowSpare i.toNat (info.toNat % 2 ^ 31)) := by
  subst hf
  rw [execFaultReport_eq (by decide), if_neg (fun h => absurd h.1 (by decide)), hr, if_neg Bool.false_ne_true, if_pos hn, if_pos (by decide)]
  rfl

theorem execFaultReport_of_report (hk : families.contains f.toNat = true) (hf : f ≠ 0x1C) (h : railFault prev now = true ∨ (now = 2 ∧ f ≠ 0x1A)) :
    execFaultReport f i info prev now s = .next (s.report f.toNat i.toNat info.toNat (railFault prev now)) := by
  have hlane : f.toNat ≠ 0x1C := fun e => hf (BitVec.eq_of_toNat_eq e)
  rw [execFaultReport_eq hk, if_neg (fun h => hlane h.1)]
  cases hr : railFault prev now with
  | true => rw [if_pos rfl]
  | false =>
    obtain ⟨hn, hrow⟩ := h.resolve_left (by simp [hr])
    have hrow' : f.toNat ≠ 0x1A := fun e => hrow (BitVec.eq_of_toNat_eq e)
    rw [if_neg Bool.false_ne_true, if_pos hn, if_neg hrow']

end

/-- The 64 bits of an info, read as its two words. -/
theorem info_words (info : BitVec 64) : info.toNat % 2 ^ 32 + 2 ^ 32 * (info.toNat / 2 ^ 32 % 2 ^ 32) = info.toNat := by
  have := info.isLt
  omega

/-- Settles O22: a report's stages show what it says; a row is spared after its report, a lane before it or the channel retires. -/
theorem faultReportIsLoggedAndPending : Obligations.FaultReportIsLoggedAndPending := by
  intro s f i info prev now
  refine ⟨fun hk hf h => ⟨_, execFaultReport_of_report hk hf h, ?_⟩, execFaultReport_of_none, fun hf hr hn => ?_, fun hf h => ?_⟩
  · obtain ⟨hfamily, hinstance, hseverity, hpartition, hvalid, hrail, hforced, htime, hlow, hhigh⟩ :=
      s.report_log f.toNat i.toNat info.toNat (railFault prev now) false
    obtain ⟨hpending, hlast, hinfo⟩ := s.report_status f.toNat i.toNat info.toNat (railFault prev now) false
    have hf8 : f.toNat % 2 ^ 8 = f.toNat := Nat.mod_eq_of_lt f.isLt
    have hi9 : i.toNat % 2 ^ 9 = i.toNat := Nat.mod_eq_of_lt i.isLt
    refine ⟨hfamily.trans hf8, hinstance.trans hi9, hseverity, hforced, htime, hvalid, fun p hp => ?_, hrail, ?_,
      s.report_get_head _ _ _ _ _, s.report_counted _ _ _ _ _, hpending, hlast.trans hi9, hinfo, fun e he h2 => s.report_fenced _ _ _ _ _ he h2,
      fun p hp => ?_, s.report_errN _ _ _ _ _, s.report_copies _ _ _ _ _, s.report_reportRest _ _ _ _ _⟩
    · rw [hp] at hpartition
      exact hpartition
    · exact (congrArg₂ (fun a b => a + 2 ^ 32 * b) hlow hhigh).trans (info_words info)
    · have htold : p ∈ s.toldOf f.toNat i.toNat := by
        simpa only [State.toldOf, List.isEmpty_iff] using hp
      obtain ⟨hfam, hinst, hevent, hsev⟩ := s.report_noticed f.toNat i.toNat info.toNat (railFault prev now) false htold
      exact ⟨hfam.trans hf8, hinst.trans hi9, hevent, hsev⟩
  · have hexec := execFaultReport_of_row (s := s) (i := i) (info := info) hf hr hn
    obtain ⟨hpending, hcount⟩ := (s.report 0x1A i.toNat info.toNat).hbmRowSpare_otherFamily i.toNat (info.toNat % 2 ^ 31)
      (g := 0x1A) (by decide) (by decide)
    exact ⟨hexec, _, hexec, hpending.trans (s.report_status _ _ _ _ _).1, hcount.trans (s.report_counted _ _ _ _ _),
      State.reportRest_bytesSame (State.reportRest_trans (s.report_reportRest _ _ _ _ _) (State.hbmRowSpare_reportRest _ _ _))⟩
  · have hexec := execFaultReport_of_lane (s := s) (i := i) (info := info) hf h
    rw [State.hbmLaneSpare_eq] at hexec
    refine ⟨hexec, fun hu => ⟨_, hexec.trans (congrArg _ (if_pos hu)), ?_, (State.report_status _ _ _ _ _ _).1, State.report_counted _ _ _ _ _ _⟩,
      fun hu hn => ⟨_, hexec.trans (congrArg _ (if_neg (Nat.not_lt.2 hu))), State.retireChannel_retiring _ _ hn,
        State.retireChannel_counted _ _ hn⟩, fun hu hr => ?_⟩
    · rw [(State.report_fc_retiring _ _ _ _ _ _).2.1]
      exact Sparse.get_set_same _ _ _ _
    · rw [if_neg (Nat.not_lt.2 hu), State.retireChannel_of_again _ _ hr] at hexec
      exact hexec

end Sys2Proof.Machine

/-! Engine resets, a core's return to service, a channel's retiring and the exchange of an ageing core (14 R648 to R653, R660, R665, R671,
R672). -/

namespace Sys2Proof.Machine

/-! ## A written field of plain access -/

/-- A field of plain access takes its bits of the word, whatever else the register holds. -/
theorem State.writeFields_get_rw (s : State) (i v : Nat) {fs : List Field} (hfs : fs.Pairwise (fun f g => f.key i ≠ g.key i)) {f : Field}
    (hm : f ∈ fs) (hf : f ∉ commandFields) (ha : f.acc = .rw) : (s.writeFields i v fs).get f i = bitsOf v f.lo f.width := by
  induction fs generalizing s with
  | nil => cases hm
  | cons g fs ih =>
    obtain ⟨hg, hrest⟩ := List.pairwise_cons.1 hfs
    rw [State.writeFields_cons]
    rcases List.mem_cons.1 hm with rfl | hm
    · have hplain : ¬ commandFields.contains f = true := fun h => hf (List.contains_iff_mem.1 h)
      rw [State.writeFields_get_apart _ i v hg, State.writeField, if_neg hplain, ha]
      exact (s.get_set_same f i _).trans (bitsOf_mod_self v f.lo f.width)
    · exact ih _ hrest hm

theorem State.writeReg_get_rw (s : State) (i v : Nat) {f : Field} (hm : f ∈ fieldsOf f.reg) (hf : f ∉ commandFields) (ha : f.acc = .rw) :
    (s.writeReg f.reg i v).get f i = bitsOf v f.lo f.width :=
  s.writeFields_get_rw i v (fieldsOf_keys_ne f.reg i) hm hf ha

theorem mem_fieldsOf {f : Field} (h : f ∈ allFields) : f ∈ fieldsOf f.reg := List.mem_filter.2 ⟨h, beq_self_eq_true _⟩

/-! ## The write of FC_ENGINE_RESET (14 R648 to R652) -/

section
variable {s u : State} {a : Agent} {v : Word32}

theorem execEngineReset_of_other (hf : s.fromPf a = false) : execEngineReset a v s = .next s := if_pos (by simp [hf])

/-- Why a reset is refused, in the order of its codes. -/
theorem execEngineReset_of_go (hf : s.fromPf a = true) (hg : bitOf v.toNat 16 = true)
    (hu : u = s.writeReg Fld.FC_ENGINE_RESET_engine.reg 0 v.toNat) : execEngineReset a v s = .next (
      if 372 ≤ bitsOf v.toNat 0 9 then u.resetError 1
      else if u.fc.fenced.contains (bitsOf v.toNat 0 9) then u.resetError 2
      else if bitsOf v.toNat 0 9 < 256 ∧ u.resettable (bitsOf v.toNat 0 9) = false then u.resetError 3
      else u.beginReset (bitsOf v.toNat 0 9)) := by
  unfold execEngineReset
  rw [if_neg (by simp [hf])]
  dsimp only
  rw [← hu, if_neg (by simp [hg])]
  simp only [Bool.and_eq_true, decide_eq_true_eq, Bool.not_eq_true', apply_ite Host.Outcome.next]

/-- An engine that is not fenced yet is, and a core's reset is timed. -/
theorem State.beginReset_of_free (u : State) {e : Nat} (h : u.fc.fenced.contains e = false) :
    (u.beginReset e).fc.fenced = u.fc.fenced ++ [e] ∧ (u.beginReset e).regs = (u.set Fld.FC_ENGINE_RESET_busy 0 1).regs ∧
    { u.beginReset e with regs := u.regs, fc := u.fc } = u := by
  have hfence : u.fence e = State.set { u with fc := { u.fc with fenced := u.fc.fenced ++ [e] } } Fld.FC_ENGINE_RESET_busy 0 1 :=
    if_neg (by rw [h]; exact Bool.false_ne_true)
  unfold State.beginReset
  rw [hfence]
  dsimp only
  split
  · exact ⟨rfl, rfl, rfl⟩
  · exact ⟨rfl, rfl, rfl⟩

theorem State.resetError_get (u : State) {code : Nat} (h : code < 4) : (u.resetError code).get Fld.FC_ENGINE_RESET_error = 1 ∧
    (u.resetError code).get Fld.FC_ENGINE_RESET_err_code = code := by
  simp (disch := decide) only [State.resetError, State.setAll_cons, State.setAll_nil, State.get_set_field, State.get_set_same]
  exact ⟨rfl, Nat.mod_eq_of_lt h⟩

theorem State.resetError_onlyFields (u : State) (code : Nat) :
    u.onlyFields (u.resetError code) [(Fld.FC_ENGINE_RESET_error, 0), (Fld.FC_ENGINE_RESET_err_code, 0)] :=
  ⟨State.fieldsBut_setAll (u.fieldsBut_refl _) 0 _ (by simp), rfl⟩

end

/-! ## A drained engine (14 R649 steps 3 to 7) -/

section
variable {s : State} {e : Fin 372} {passed : Bool}

theorem execEngineResetDrained_of_kept (h : s.fc.fenced.contains e.val = false ∨ s.fc.drained.contains e.val = true) :
    execEngineResetDrained e s = .next s := by
  refine if_pos ?_
  rcases h with h | h <;> simp only [h, Bool.not_false, Bool.true_or, Bool.or_true]

/-- A fenced engine whose operations are over. -/
def State.nowDrained (s : State) (e : Nat) : State := { s with fc := { s.fc with drained := s.fc.drained ++ [e] } }

theorem execEngineResetDrained_of_fenced (hf : s.fc.fenced.contains e.val = true) (hd : s.fc.drained.contains e.val = false) :
    execEngineResetDrained e s =
      if e.val < 256 then .next ((s.nowDrained e).resetCore e)
      else if e.val < 288 then .next ((s.nowDrained e).resetMover (e.val - 256)).afterMoves
      else if e.val < 292 then
        .next (if (s.nowDrained e).linkUp (e.val - 288) then (s.nowDrained e).linkLost (e.val - 288) else s.nowDrained e)
      else .next (if (s.nowDrained e).portState (e.val - 292) = 0 ∨ (s.nowDrained e).portState (e.val - 292) = 5 then s.nowDrained e
        else ((((s.nowDrained e).leaveUp (e.val - 292) 0).showPeer (e.val - 292)).recallExpress (e.val - 292)).forwardAll) :=
  if_neg (by simp only [hf, hd, Bool.not_true, Bool.or_false, Bool.false_eq_true, not_false_eq_true])

/-- The resets of the last hour. -/
def State.recentResets (s : State) : List (Nat × Nat) := s.fc.resetTimes.filter (fun r => decide (s.time < r.2 + 3600000000))

/-- An engine whose built-in test is over: it is drained no more, and of the resets the last hour's are kept. -/
def State.bistOver (s : State) (e : Nat) : State :=
  { s with fc := { s.fc with drained := s.fc.drained.filter (· != e), resetTimes := s.recentResets } }

/-- An engine that has passed is unfenced and counted. -/
def State.engineReturned (u : State) (e : Nat) : State :=
  (State.count { u with fc := { u.fc with fenced := u.fc.fenced.filter (· != e) } } Fld.FC_ENGINE_RESET_COUNT_count 0 Fld.FC_STATUS_wrap 0 1).set
    Fld.FC_ENGINE_RESET_done 0 1

/-- Busy ends when no engine is fenced. -/
def State.showFenced (u : State) : State := if u.fc.fenced.isEmpty then u.set Fld.FC_ENGINE_RESET_busy 0 0 else u

/-- The state in which the outcome of a built-in test is recorded. -/
def State.bistShown (s : State) (e : Nat) (passed : Bool) : State :=
  (if passed then (s.bistOver e).engineReturned e else s.bistOver e).showFenced

/-- A core that has passed takes shards again. -/
def State.coreServes (w : State) (e : Nat) : State :=
  (((w.coreSlots e).map (fun x => x.2.ctx)).eraseDups.foldl State.placeShards w).reschedule e

theorem execEngineBistDone_of_undrained (h : s.fc.drained.contains e.val = false) : execEngineBistDone e passed s = .next s :=
  if_pos (by rw [h]; rfl)

theorem execEngineBistDone_of_engine (h : s.fc.drained.contains e.val = true) (he : 256 ≤ e.val) :
    execEngineBistDone e passed s = .next (s.bistShown e passed) := by
  refine (if_neg (by rw [h]; decide)).trans ((if_pos he).trans ?_)
  rfl

theorem execEngineBistDone_of_core (h : s.fc.drained.contains e.val = true) (he : e.val < 256) :
    execEngineBistDone e passed s = .next (
      let r := if passed then (s.bistShown e passed).coreServes e else s.bistShown e passed
      match r.siteOf e with
      | none => r
      | some site => if passed = false ∨ 3 ≤ (s.recentResets.filter (fun x => x.1 == e.val)).length then r.markSite site else r) := by
  have hexec : execEngineBistDone e passed s =
      match (if passed then (s.bistShown e passed).coreServes e else s.bistShown e passed).siteOf e with
      | none => .next (if passed then (s.bistShown e passed).coreServes e else s.bistShown e passed)
      | some site => if (!passed || decide (3 ≤ (s.recentResets.filter (fun x => x.1 == e.val)).length)) = true then
          .next ((if passed then (s.bistShown e passed).coreServes e else s.bistShown e passed).markSite site)
        else .next (if passed then (s.bistShown e passed).coreServes e else s.bistShown e passed) := by
    refine (if_neg (by rw [h]; decide)).trans ((if_neg (Nat.not_le.2 he)).trans ?_)
    rfl
  rw [hexec]
  dsimp only
  generalize (if passed then (s.bistShown e passed).coreServes e else s.bistShown e passed) = r
  cases r.siteOf e with
  | none => rfl
  | some site =>
    simp only [Bool.or_eq_true, Bool.not_eq_true', decide_eq_true_eq]
    exact (apply_ite Host.Outcome.next _ _ _).symm

/-- The engine's reset is counted, and nothing but the collector and its registers changes. -/
theorem State.engineReturned_get (u : State) (k : Nat) : (u.engineReturned k).get Fld.FC_ENGINE_RESET_done = 1 ∧
    (u.engineReturned k).get Fld.FC_ENGINE_RESET_COUNT_count = (u.get Fld.FC_ENGINE_RESET_COUNT_count + 1) % 2 ^ 32 := by
  refine ⟨State.get_set_same _ _ _ _, ?_⟩
  rw [State.engineReturned, State.get_set_field _ (by decide), State.get_count_same _ (by decide)]
  rfl

/-- The fields that show an engine's return. -/
def returnedFields : List (Field × Nat) :=
  [(Fld.FC_ENGINE_RESET_done, 0), (Fld.FC_ENGINE_RESET_COUNT_count, 0), (Fld.FC_ENGINE_RESET_busy, 0), (Fld.FC_STATUS_wrap, 0)]

theorem State.engineReturned_onlyFields (u : State) (k : Nat) :
    ({ u with fc := { u.fc with fenced := u.fc.fenced.filter (· != k) } } : State).onlyFields (u.engineReturned k) returnedFields :=
  State.onlyFields_set (State.onlyFields_count (State.onlyFields_refl _ _) (by simp [returnedFields]) (by simp [returnedFields]) _ _)
    (by simp [returnedFields]) _

theorem State.showFenced_get (u : State) {f : Field}
    (h : (f.reg * 32 + f.lo) % 16384 ≠ (Fld.FC_ENGINE_RESET_busy.reg * 32 + Fld.FC_ENGINE_RESET_busy.lo) % 16384) :
    u.showFenced.get f = u.get f := by
  unfold State.showFenced
  split
  · exact u.get_set_field h _ _ _
  · rfl

theorem State.showFenced_onlyFields (u : State) : u.onlyFields u.showFenced returnedFields := by
  unfold State.showFenced
  split
  · exact State.onlyFields_set (u.onlyFields_refl _) (by simp [returnedFields]) _
  · exact u.onlyFields_refl _

theorem State.showFenced_busy (u : State) (h : u.showFenced.fc.fenced = []) : u.showFenced.get Fld.FC_ENGINE_RESET_busy = 0 := by
  unfold State.showFenced at h ⊢
  split
  · exact State.get_set_same _ _ _ _
  · next hn =>
    rw [if_neg hn] at h
    exact absurd (List.isEmpty_iff.2 h) hn

theorem State.onlyFields_fc {s t : State} {ws : List (Field × Nat)} (h : s.onlyFields t ws) : t.fc = s.fc := (congrArg State.fc h.2 :)

end

/-- Settles O25: the write's outcomes in the order of their codes, each kind of engine drained, and the return of one that is no core. -/
theorem engineResetIsFencedAndReleased : Obligations.EngineResetIsFencedAndReleased := by
  intro s a v e passed
  refine ⟨fun hf hg u hu => ⟨fun hlt hfree hres => ?_, fun code hcode => ?_⟩, execEngineReset_of_other, fun hf hd u hu => ?_,
    execEngineResetDrained_of_kept, fun hd he => ?_, execEngineBistDone_of_undrained⟩
  · have hexec := execEngineReset_of_go hf hg hu
    rw [if_neg (Nat.not_le.2 hlt), if_neg (by rw [hfree]; decide), if_neg (fun h => by simp [hres h.1] at h)] at hexec
    have hwrite : s.onlyFields u ((fieldsOf Fld.FC_ENGINE_RESET_engine.reg).map (fun f => (f, 0))) := hu ▸ s.writeFields_onlyFields 0 _ _
    obtain ⟨hfenced, hregs, hrest⟩ := u.beginReset_of_free hfree
    have hbusy : (Fld.FC_ENGINE_RESET_busy, 0) ∈ (fieldsOf Fld.FC_ENGINE_RESET_engine.reg).map (fun f => (f, 0)) :=
      List.mem_map_of_mem (mem_fieldsOf (f := Fld.FC_ENGINE_RESET_busy) (by decide +kernel))
    refine ⟨_, hexec, hfenced.trans (by rw [State.onlyFields_fc hwrite]), (State.get_of_regs hregs _ _).trans (State.get_set_same _ _ _ _),
      ?_, State.fieldsBut_then (State.fieldsBut_set hwrite.1 hbusy 1) hregs, ?_⟩
    · rw [State.get_of_regs hregs, State.get_set_field _ (by decide), hu]
      exact s.writeReg_get_rw 0 _ (mem_fieldsOf (by decide +kernel)) (by decide) rfl
    · exact (congrArg (fun x : State => { x with regs := s.regs, fc := s.fc }) hrest).trans
        (congrArg (fun x : State => { x with fc := s.fc }) hwrite.2)
  · have hexec := execEngineReset_of_go hf hg hu
    obtain ⟨hget, hcodes⟩ := u.resetError_get (code := code) (by omega)
    refine ⟨u.resetError code, ?_, hget, hcodes, u.resetError_onlyFields code⟩
    refine hexec.trans ?_
    rcases hcode with ⟨hlt, rfl⟩ | ⟨hlt, hfenced, rfl⟩ | ⟨hlt, hfenced, hres, rfl⟩
    · rw [if_pos hlt]
    · rw [if_neg (Nat.not_le.2 hlt), if_pos hfenced]
    · rw [if_neg (by omega), if_neg (by rw [hfenced]; decide), if_pos ⟨hlt, hres⟩]
  · have hexec := execEngineResetDrained_of_fenced hf hd
    have hnow : s.nowDrained e = u := hu.symm
    rw [hnow] at hexec
    refine ⟨fun h => hexec.trans (if_pos h), fun h h' => hexec.trans ?_, fun h h' => hexec.trans ?_, fun h => hexec.trans ?_⟩
    · rw [if_neg (by omega), if_pos h']
    · rw [if_neg (by omega), if_neg (by omega), if_pos h']
    · rw [if_neg (by omega), if_neg (by omega), if_neg (by omega)]
  · have hreturn := (s.bistOver e).engineReturned_onlyFields e
    have hshown := ((s.bistOver e).engineReturned e).showFenced_onlyFields
    have hfc : (s.bistShown e true).fc = { (s.bistOver e).fc with fenced := s.fc.fenced.filter (· != e.val) } :=
      (State.onlyFields_fc hshown).trans (State.onlyFields_fc hreturn)
    obtain ⟨hdone, hcount⟩ := (s.bistOver e).engineReturned_get e
    refine ⟨_, execEngineBistDone_of_engine hd he, congrArg Collector.drained hfc, congrArg Collector.fenced hfc,
      (State.showFenced_get _ (by decide)).trans hdone, (State.showFenced_get _ (by decide)).trans hcount, State.showFenced_busy _,
      State.fieldsBut_trans (State.fieldsBut_trans (State.fieldsBut_of_regs rfl) hreturn.1) hshown.1, ?_⟩
    have hrest : { s.bistShown e true with regs := s.regs } =
        { s.bistOver e with fc := { (s.bistOver e).fc with fenced := (s.bistOver e).fc.fenced.filter (· != e.val) } } := by
      have h1 := hreturn.2
      have h2 := hshown.2
      rw [← h2] at h1
      exact h1
    exact (congrArg (fun t => { t with fc := s.fc }) hrest :)

/-- Settles O26: the recorded test, and then the core's shards and its site. -/
theorem coreReturnsAfterItsReset : Obligations.CoreReturnsAfterItsReset := by
  intro s e passed hd he times u v w ht hu hv hw
  have hshown : s.bistShown e passed = w := by
    rw [hw, hv, hu, ht]
    rfl
  have hexec := execEngineBistDone_of_core (passed := passed) hd he
  rw [hshown] at hexec
  rw [ht]
  exact hexec

/-! ## A channel that retires (14 R665) -/

section
variable {s : State} {ch : Fin 256}

/-- The state in which the pages of a retiring channel have gone on leaving it. -/
def State.leftBy (s : State) (ch : Nat) : State :=
  match s.chanPiece ch with
  | some b => s.evacuateChan b ch
  | none => s

/-- A channel is among the retired of the service record. -/
def State.retiredNow (u : State) (ch : Nat) : State :=
  { u with
    fc := { u.fc with retiring := u.fc.retiring.filter (fun (e : Nat × Nat) => e.1 != ch) },
    service := { u.service with retiredChannels := u.service.retiredChannels ++ [ch], seq := u.service.seq + 1 } }

theorem execChannelRetire_of_none (h : s.fc.retiring.find? (fun e => e.1 == ch.val) = none) : execChannelRetire ch s = .next s := by
  unfold execChannelRetire
  rw [h]

theorem execChannelRetire_of_waiting {x : Nat × Nat} (h : s.fc.retiring.find? (fun e => e.1 == ch.val) = some x)
    (he : (s.leftBy ch).chanEmpty ch = false) (ht : (s.leftBy ch).time < x.2 + 10000000) : execChannelRetire ch s = .next (s.leftBy ch) := by
  have hwaits : (!(s.leftBy ch).chanEmpty ch && decide ((s.leftBy ch).time < x.2 + 10000000)) = true := by
    rw [he, decide_eq_true ht]
    rfl
  unfold execChannelRetire
  rw [h]
  exact if_pos hwaits

/-- What leaves service does so for good: nothing after it takes the channel out of the retired. -/
theorem execChannelRetire_of_over {x : Nat × Nat} (h : s.fc.retiring.find? (fun e => e.1 == ch.val) = some x)
    (ho : (s.leftBy ch).chanEmpty ch = true ∨ x.2 + 10000000 ≤ (s.leftBy ch).time) :
    ∃ t, execChannelRetire ch s = .next t ∧ Kept ((s.leftBy ch).retiredNow ch) t := by
  have hover : ¬ (!(s.leftBy ch).chanEmpty ch && decide ((s.leftBy ch).time < x.2 + 10000000)) = true := by
    rcases ho with ho | ho
    · simp [ho]
    · simp [Nat.not_lt.2 ho]
  unfold execChannelRetire
  rw [h]
  refine ⟨_, if_neg hover, ?_⟩
  refine State.capChange_kept (State.countPieces_kept (State.refreshCaps_kept (State.shrinkLoad_kept ?_)))
  have hcarve : Kept ((s.leftBy ch).retiredNow ch) ((List.range 32).foldl (fun s p => s.set Fld.HI_CARVE_MAP_channels (p * 8 + ch.val / 32)
      (putBits (s.get Fld.HI_CARVE_MAP_channels (p * 8 + ch.val / 32)) (ch.val % 32) 1 0)) ((s.leftBy ch).retiredNow ch)) :=
    Kept.foldl (Kept.refl _) (fun _ _ h => State.set_kept _ _ _ h)
  revert hcarve
  unfold State.leftBy
  cases s.chanPiece ch with
  | none => exact id
  | some b => exact State.dropChan_kept

end

/-- Settles O29: an empty channel, or one out of time, is put among the retired, where it stays; another keeps leaving. -/
theorem retiringChannelLeavesService : Obligations.RetiringChannelLeavesService := by
  intro s ch
  refine ⟨fun x u hx hu => ?_, execChannelRetire_of_none⟩
  have hleft : s.leftBy ch = u := hu.symm
  refine ⟨fun ho => ?_, fun he ht => ?_⟩
  · obtain ⟨t, hexec, hkept⟩ := execChannelRetire_of_over hx (hleft ▸ ho)
    exact ⟨t, hexec, hkept.retired (List.mem_append_right _ (List.mem_singleton_self _))⟩
  · exact (execChannelRetire_of_waiting hx (hleft ▸ he) (hleft ▸ ht)).trans (congrArg _ hleft)

/-! ## The exchange of a site (14 R671, R672) -/

/-- Bits put in a number are read back. -/
theorem bitsOf_putBits (n lo w v : Nat) : bitsOf (putBits n lo w v) lo w = v % 2 ^ w := by
  have hpos : 0 < 2 ^ lo := Nat.two_pow_pos lo
  have hsub : (n - bitsOf n lo w * 2 ^ lo) / 2 ^ lo = n / 2 ^ lo - n / 2 ^ lo % 2 ^ w := by
    rw [Nat.mul_comm]
    exact Nat.sub_mul_div n (2 ^ lo) _
  have hdiv : n / 2 ^ lo - n / 2 ^ lo % 2 ^ w = 2 ^ w * (n / 2 ^ lo / 2 ^ w) := by
    have := Nat.div_add_mod (n / 2 ^ lo) (2 ^ w)
    omega
  unfold putBits
  rw [bitsOf, Nat.add_mul_div_right _ _ hpos, hsub, hdiv, Nat.mul_add_mod, Nat.mod_mod]

/-- Bits within its width are read from a number as from what it is cut to. -/
theorem bitsOf_mod_two_pow (n : Nat) {lo w k : Nat} (h : lo + w ≤ k) : bitsOf (n % 2 ^ k) lo w = bitsOf n lo w := by
  have hsplit : 2 ^ k = 2 ^ lo * (2 ^ w * 2 ^ (k - (lo + w))) := by
    rw [← Nat.pow_add, ← Nat.pow_add]
    congr 1
    omega
  rw [bitsOf, bitsOf, hsplit, Nat.mod_mul_right_div_self, Nat.mod_mul_right_mod]

section
variable {s : State} {row slot k c : Nat}

/-- A site shows the state it is set to. -/
theorem State.setSite_siteState (s : State) (site st : Nat) : (s.setSite site st).siteState site = st % 4 := by
  rw [State.siteState, State.setSite, State.get_set_same,
    bitsOf_mod_two_pow _ (show 2 * (site % 9) + 2 ≤ Fld.RWS_SITE_STATE_slots.width from by simp only [Fld.RWS_SITE_STATE_slots]; omega), bitsOf_putBits]
  rfl

theorem State.rowSlotIn_lt (h : s.rowSlotIn row 1 = some k) : k < 9 := List.mem_range.1 (List.mem_of_find?_eq_some h)

/-- The core of a site lies in the site's row. -/
theorem State.coreOfSite_row {site : Nat} (h : s.coreOfSite site = some c) : c / 8 = site / 9 := by
  obtain ⟨l, hl, hc⟩ := List.exists_of_findSome?_eq_some h
  have hl8 := List.mem_range.1 hl
  split at hc
  · cases hc
    omega
  · cases hc

/-- Which core a site has is read in its row's lanes. -/
theorem State.coreOfSite_congr {t : State} (h : ∀ r, t.get Fld.RWS_LANE_MAP_lanes r = s.get Fld.RWS_LANE_MAP_lanes r) (site : Nat) :
    t.coreOfSite site = s.coreOfSite site := by
  simp only [State.coreOfSite, State.siteOf, State.laneSlot, h]
  rfl

theorem State.siteState_congr {t : State} (h : ∀ r, t.get Fld.RWS_SITE_STATE_slots r = s.get Fld.RWS_SITE_STATE_slots r) (site : Nat) :
    t.siteState site = s.siteState site := by
  simp only [State.siteState, h]

theorem State.rowSlotIn_congr {t : State} (h : ∀ r, t.get Fld.RWS_SITE_STATE_slots r = s.get Fld.RWS_SITE_STATE_slots r) (row st : Nat) :
    t.rowSlotIn row st = s.rowSlotIn row st := by
  simp only [State.rowSlotIn, State.siteState_congr h]

/-- A row whose exchange has begun. -/
def State.rotatingFrom (s : State) (row slot : Nat) : State := { s with fc := { s.fc with rotating := s.fc.rotating ++ [(row, slot)] } }

theorem State.beginRotation_of_taken (h0 : s.siteState (row * 9 + slot) = 0) (hr : ∀ e ∈ s.fc.rotating, rowHalf e.1 ≠ rowHalf row)
    (hk : s.rowSlotIn row 1 ≠ none) (hc : s.coreOfSite (row * 9 + slot) = some c) :
    s.beginRotation row slot = (s.rotatingFrom row slot).spareLane c := by
  obtain ⟨k, hk⟩ := Option.ne_none_iff_exists'.1 hk
  have hfree : ¬ (s.siteState (row * 9 + slot) != 0 || s.fc.rotating.any (fun e => rowHalf e.1 == rowHalf row)) = true := by
    simpa [h0] using fun a b hm => hr (a, b) hm
  unfold State.beginRotation
  rw [if_neg hfree, hk, hc]
  rfl

theorem State.beginRotation_of_refused (h : s.siteState (row * 9 + slot) ≠ 0 ∨ (∃ e ∈ s.fc.rotating, rowHalf e.1 = rowHalf row) ∨
    s.rowSlotIn row 1 = none ∨ s.coreOfSite (row * 9 + slot) = none) : s.beginRotation row slot = s := by
  unfold State.beginRotation
  split
  · rfl
  · next hn =>
    obtain ⟨h0, hr⟩ : s.siteState (row * 9 + slot) = 0 ∧ ∀ e ∈ s.fc.rotating, rowHalf e.1 ≠ rowHalf row := by simpa using hn
    rcases h with h | ⟨e, he, h⟩ | h | h
    · exact absurd h0 h
    · exact absurd h (hr e he)
    · rw [h]
    · rw [h]
      cases s.rowSlotIn row 1 <;> rfl

/-- The fields a sparing sequence may write as it begins. -/
def sparingFields : List Field := Fld.RWS_SITE_STATE_slots :: choiceFields

theorem State.testSpare_frame (s : State) (row c : Nat) : s.copiesBut (s.testSpare row c) sparingFields ∧ (s.testSpare row c).fc = s.fc := by
  unfold State.testSpare
  cases s.rowSlotIn row 1 with
  | none => exact ⟨s.copiesBut_refl _, rfl⟩
  | some k =>
    have hwake := State.onlyChoice_requestWake (State.onlyChoice_refl s) c
    exact ⟨State.copiesBut_set (State.copiesBut_mono hwake.1 (fun f hf => List.mem_cons_of_mem _ hf)) (List.mem_cons_self ..) _ _,
      (congrArg State.fc hwake.2 :)⟩

theorem State.spareLane_frame (s : State) (c : Nat) : s.copiesBut (s.spareLane c) sparingFields ∧ (s.spareLane c).fc = s.fc := by
  unfold State.spareLane
  split
  · exact s.testSpare_frame _ c
  · exact ⟨State.copiesBut_then (s.copiesBut_refl _) rfl, rfl⟩

theorem State.beginRotation_copies (s : State) (row slot : Nat) : s.copiesBut (s.beginRotation row slot) sparingFields := by
  unfold State.beginRotation
  split
  · exact s.copiesBut_refl _
  · split
    · exact s.copiesBut_refl _
    · split
      · next c _ => exact State.copiesBut_trans (State.copiesBut_then (s.copiesBut_refl _) rfl) ((s.rotatingFrom row slot).spareLane_frame c).1
      · exact s.copiesBut_refl _

/-- A row's exchange is told by no register a report writes or reads its site from. -/
theorem State.report_rotation (s : State) (f i info : Nat) : (s.report f i info).fc.rotating = s.fc.rotating ∧
    (∀ site, (s.report f i info).siteState site = s.siteState site) ∧ (∀ row st, (s.report f i info).rowSlotIn row st = s.rowSlotIn row st) ∧
    ∀ site, (s.report f i info).coreOfSite site = s.coreOfSite site := by
  have hstate := s.get_report_field (g := Fld.RWS_SITE_STATE_slots) (by decide) f i info false false
  exact ⟨(s.report_fc_retiring f i info false false).2.2, State.siteState_congr hstate, State.rowSlotIn_congr hstate,
    State.coreOfSite_congr (s.get_report_field (by decide) f i info false false)⟩

theorem execAgingCheck_of_fall {site : Fin 288} {pct : Nat} (h : max 1 (s.get Fld.FC_WEAR_CFG_aging_pct) ≤ pct) (hc : s.coreOfSite site = some c) :
    execAgingCheck site pct s = .next ((s.report 0x0B c 0).beginRotation (site.val / 9) (site.val % 9)) := by
  unfold execAgingCheck
  rw [if_pos h, hc]

theorem execAgingCheck_of_kept {site : Fin 288} {pct : Nat}
    (h : pct < max 1 (s.get Fld.FC_WEAR_CFG_aging_pct) ∨ s.coreOfSite site = none) : execAgingCheck site pct s = .next s := by
  unfold execAgingCheck
  rcases h with h | h
  · exact if_neg (Nat.not_le.2 h)
  · rw [h, ite_self]

end

/-- Settles O31: the report leaves what the exchange is begun by, and the exchange leaves what the report shows. -/
theorem ageingStartsTheExchange : Obligations.AgeingStartsTheExchange := by
  intro s site pct row slot k c
  have hrotate (h : s.get Fld.FC_WEAR_CFG_rotate_days ≠ 0) : execCoreRotation row slot s = .next (s.beginRotation row slot) := if_neg h
  refine ⟨fun hp hc => ?_, execAgingCheck_of_kept, fun hd h0 hr hk hc => ?_, hrotate, fun h => ?_⟩
  · have hexec := execAgingCheck_of_fall hp hc
    obtain ⟨hpending, hlast, -⟩ := s.report_status 0x0B c 0 false false
    have hcopies := (s.report 0x0B c 0).beginRotation_copies (site.val / 9) (site.val % 9)
    refine ⟨hexec, _, hexec, (State.copiesBut_get hcopies (by decide) _).trans hpending, (State.copiesBut_get hcopies (by decide) _).trans hlast,
      (State.copiesBut_get hcopies (by decide) _).trans (s.report_counted _ _ _ _ _), fun h0 hr hk => ?_⟩
    obtain ⟨hrotating, hstate, hslot, hcore⟩ := s.report_rotation 0x0B c 0
    have hsite : site.val / 9 * 9 + site.val % 9 = site.val := Nat.div_add_mod' _ _
    rw [State.beginRotation_of_taken (c := c) (by rw [hsite, hstate, h0]) (by rwa [hrotating]) (by rwa [hslot]) (by rw [hsite, hcore, hc]),
      (State.spareLane_frame _ _).2, ← hrotating]
    rfl
  · have hexec := (hrotate hd).trans (congrArg _ (State.beginRotation_of_taken h0 hr (by rw [hk]; exact Option.some_ne_none k) hc))
    refine ⟨fun hslots => ⟨_, hexec.trans (congrArg _ (if_neg (show ¬ (s.coreSlots c).isEmpty = true by simpa using hslots))), rfl, rfl, rfl⟩, fun hslots u v hu hv => ?_⟩
    have hrow : c / 8 = row.val := by
      have := State.coreOfSite_row hc
      have := slot.isLt
      omega
    have hspare : (s.rotatingFrom row slot).spareLane c = v.setSite (row.val * 9 + k) 3 := by
      have htest : (s.rotatingFrom row slot).spareLane c = (s.rotatingFrom row slot).testSpare (c / 8) c :=
        if_pos (List.isEmpty_iff.2 hslots)
      have hslot : (s.rotatingFrom row slot).rowSlotIn row 1 = some k := hk
      rw [htest, State.testSpare, hrow, hslot, hv, hu]
      rfl
    have hk9 := State.rowSlotIn_lt hk
    have hdiv : (row.val * 9 + k) / 9 = row.val := by omega
    refine ⟨_, hexec.trans (congrArg _ hspare), State.setSite_siteState _ _ _, ?_, ?_⟩
    · rw [hv]
      exact (congrArg State.fc (State.onlyChoice_requestWake (State.onlyChoice_refl u) c).2 :)
    · unfold State.setSite
      rw [hdiv]
      exact v.set_onlyFields _ _ _
  · rcases h with h | h
    · exact if_pos h
    · by_cases hd : s.get Fld.FC_WEAR_CFG_rotate_days = 0
      · exact if_pos hd
      · exact (hrotate hd).trans (congrArg _ (State.beginRotation_of_refused h))

end Sys2Proof.Machine

/-! Grants, rails, gating and wake tokens (13 R595 to R597, R609; 04 R160 to R170), droop (13 R598 to R602) and pacing (13 R615 to R617). -/

namespace Sys2Proof.Machine

/-! ## What a crossing of the seam leaves (04 R164 to R169) -/

/-- The fields that count the entries held for a half. -/
def holdFields : List Field := [Fld.SEAM_HOLD_held_w, Fld.SEAM_HOLD_held_e]

/-- Entries that are captured move between channels and what is sent, and leave the hold buffers. -/
def State.seamMoved (s t : State) : Prop :=
  s.copiesBut t holdFields ∧ { t with regs := s.regs, seam := s.seam, seamOut := s.seamOut, outbox := s.outbox } = s

section
variable {s t u : State}

theorem State.seamMoved_trans (h : s.seamMoved t) (g : t.seamMoved u) : s.seamMoved u := by
  refine ⟨State.copiesBut_trans h.1 g.1, ?_⟩
  have hrest := h.2
  rw [← g.2] at hrest
  exact hrest

theorem State.seamMoved_foldl {α : Type} {f : State → α → State} (hf : ∀ (t : State) (x : α), t.seamMoved (f t x)) (l : List α) (s : State) :
    s.seamMoved (l.foldl f s) := by
  induction l generalizing s with
  | nil => exact ⟨s.copiesBut_refl _, rfl⟩
  | cons x l ih => exact State.seamMoved_trans (hf s x) (ih _)

theorem holdField_mem_holdFields (h : Nat) : holdField h ∈ holdFields := by
  unfold holdField
  split <;> decide

theorem State.captured_moved (s : State) (k : Nat) (x : Nat × SeamEntry × Bool) : s.seamMoved (s.captured k x) := by
  unfold State.captured
  dsimp only
  have hheld : s.seamMoved (if (x.2.1.head && !x.2.2) = true then
      s.set (holdField (keyHalf k)) (keyHalf k / 2) (s.get (holdField (keyHalf k)) (keyHalf k / 2) - 1) else s) := by
    split
    · exact ⟨State.copiesBut_set (s.copiesBut_refl _) (holdField_mem_holdFields _) _ _, rfl⟩
    · exact ⟨s.copiesBut_refl _, rfl⟩
  generalize (if (x.2.1.head && !x.2.2) = true then _ else s : State) = v at hheld ⊢
  refine State.seamMoved_trans hheld ?_
  split
  · exact ⟨State.copiesBut_then (v.copiesBut_refl _) rfl, rfl⟩
  · exact ⟨State.copiesBut_then (v.copiesBut_refl _) rfl, rfl⟩

theorem State.seamChannel_moved (s : State) (e k : Nat) : s.seamMoved (s.seamChannel e k) := by
  unfold State.seamChannel
  split
  · exact ⟨s.copiesBut_refl _, rfl⟩
  · have hset (c : SeamChan) : s.seamMoved (s.setSeam k c) := ⟨State.copiesBut_then (s.copiesBut_refl _) rfl, rfl⟩
    exact State.seamMoved_trans (hset _) (State.seamMoved_foldl (fun v x => v.captured_moved k x) _ _)

/-- A state that root edge `e` has come to. -/
def State.atEdge (s : State) (e : Nat) : State := { s with run := { s.run with edge := max s.run.edge e } }

theorem State.seamTo_moved (s : State) (e : Nat) : (s.atEdge e).seamMoved (s.seamTo e) :=
  State.seamMoved_foldl (fun v k => v.seamChannel_moved e k) _ _

theorem State.seamMoved_run (h : s.seamMoved t) : t.run = s.run := (congrArg State.run h.2 :)

/-! ## A half's divider (04 R160, R161) -/

/-- A change of divider takes force at a multiple of 120 root edges. -/
theorem roundUp_120 (n : Nat) : ∃ k, roundUp n 120 = 120 * k ∧ n ≤ 120 * k ∧ 120 * k < n + 120 := by
  refine ⟨(n + 119) / 120, ?_, ?_, ?_⟩
  · unfold roundUp
    omega
  · omega
  · omega

theorem State.setDiv_get (s : State) (h code : Nat) : (s.setDiv h code).get (divField h) (h / 2) = code % 8 := by
  have hwidth : (divField h).width = 3 := by
    unfold divField
    split <;> rfl
  rw [State.setDiv, State.get_set_same, hwidth]
  rfl

theorem State.setDiv_run (s : State) (h code : Nat) : (s.setDiv h code).run = { s.run with edge := roundUp s.run.edge 120 } := by
  have hmax : max s.run.edge (roundUp s.run.edge 120) = roundUp s.run.edge 120 := by
    obtain ⟨k, hk, hle, -⟩ := roundUp_120 s.run.edge
    omega
  refine (State.seamMoved_run (s.seamTo_moved (roundUp s.run.edge 120))).trans ?_
  rw [State.atEdge, hmax]

theorem State.setDiv_copies (s : State) (h code : Nat) :
    s.copiesBut (s.setDiv h code) [divField h, Fld.SEAM_HOLD_held_w, Fld.SEAM_HOLD_held_e] := by
  refine State.copiesBut_set ?_ (List.mem_cons_self ..) _ _
  have hmoved := (s.seamTo_moved (roundUp s.run.edge 120)).1
  exact State.copiesBut_mono (State.copiesBut_trans (State.copiesBut_then (s.copiesBut_refl _) rfl) hmoved)
    (fun f hf => List.mem_cons_of_mem _ hf)

theorem State.setDiv_seamRest (s : State) (h code : Nat) : s.seamRest (s.setDiv h code) := by
  have hrest := (s.seamTo_moved (roundUp s.run.edge 120)).2
  exact (congrArg (fun x : State => { x with run := { x.run with edge := s.run.edge } }) hrest :)

theorem State.setDiv_power (s : State) (h code : Nat) : (s.setDiv h code).power = s.power :=
  (congrArg State.power (s.seamTo_moved (roundUp s.run.edge 120)).2 :)

/-! ## What a grant leaves (13 R595, R596, R615) -/

/-- `t` differs from `s` in copies of `fs`, in the seam and in what is sent, and of the arbiter in where the rails move to and when
notices were sent. -/
def State.powerMoved (fs : List Field) (s t : State) : Prop :=
  s.copiesBut t fs ∧ s.seamRest { t with power := { t.power with target := s.power.target, paceSent := s.power.paceSent } }

section
variable {fs gs : List Field}

theorem State.powerMoved_refl (s : State) : State.powerMoved fs s s := ⟨s.copiesBut_refl _, rfl⟩

theorem State.powerMoved_trans (h : State.powerMoved fs s t) (g : State.powerMoved fs t u) : State.powerMoved fs s u := by
  refine ⟨State.copiesBut_trans h.1 g.1, ?_⟩
  have hrest := h.2
  have hnext := g.2
  unfold State.seamRest at hrest hnext ⊢
  rw [← hnext] at hrest
  exact hrest

theorem State.powerMoved_mono (h : State.powerMoved fs s t) (hg : ∀ f ∈ fs, f ∈ gs) : State.powerMoved gs s t :=
  ⟨State.copiesBut_mono h.1 hg, h.2⟩

theorem State.powerMoved_foldl {α : Type} {f : State → α → State} (hf : ∀ (t : State) (x : α), State.powerMoved fs t (f t x)) (l : List α)
    (s : State) : State.powerMoved fs s (l.foldl f s) := by
  induction l generalizing s with
  | nil => exact s.powerMoved_refl
  | cons x l ih => exact State.powerMoved_trans (hf s x) (ih _)

end

/-- `t` differs from `s` in no more than a grant may change. -/
def State.onlyGrant (s t : State) : Prop := State.powerMoved grantFields s t

theorem State.onlyGrant_power (h : s.onlyGrant t) :
    { t.power with target := s.power.target, paceSent := s.power.paceSent } = s.power := (congrArg State.power h.2 :)

theorem State.grantRest_of_onlyGrant (h : s.onlyGrant t) : s.grantRest t := by
  have hrest := h.2
  rw [State.onlyGrant_power h] at hrest
  exact hrest

/-! ## The grant of one half -/

/-- The fields by which a grant's move and its notices show. -/
def movedFields : List Field :=
  [Fld.SEAM_DIV_west_div, Fld.SEAM_DIV_east_div, Fld.SEAM_HOLD_held_w, Fld.SEAM_HOLD_held_e, Fld.PW_PACE_TX_COUNT_count, Fld.PW_STATUS_wrap]

/-- What a move to a point and its notices change. -/
def State.onlyMoved (s t : State) : Prop := State.powerMoved movedFields s t

theorem divField_mem_movedFields (h : Nat) : ∀ f ∈ [divField h, Fld.SEAM_HOLD_held_w, Fld.SEAM_HOLD_held_e], f ∈ movedFields := by
  unfold divField
  split <;> decide

theorem State.setDiv_moved (s : State) (h code : Nat) : s.onlyMoved (s.setDiv h code) := by
  refine ⟨State.copiesBut_mono (s.setDiv_copies h code) (divField_mem_movedFields h), ?_⟩
  have hrest := s.setDiv_seamRest h code
  rw [s.setDiv_power h code]
  have hpower := s.setDiv_power h code
  unfold State.seamRest at hrest ⊢
  rw [← hpower]
  exact hrest

/-- A rail moves to a point. -/
def State.railTo (s : State) (h point : Nat) : State :=
  { s with power := { s.power with target := Sparse.set 0 s.power.target h (point + 1) } }

theorem State.moveTo_moved (s : State) (h old new : Nat) : s.onlyMoved (s.moveTo h old new) := by
  have hrail : s.onlyMoved (s.railTo h new) := ⟨State.copiesBut_then (s.copiesBut_refl _) rfl, rfl⟩
  unfold State.moveTo
  split
  · exact s.powerMoved_refl
  · dsimp only
    split
    · exact State.powerMoved_trans hrail ((s.railTo h new).setDiv_moved h new)
    · exact hrail

theorem State.count_moved (s : State) (k n : Nat) : s.onlyMoved (s.count Fld.PW_PACE_TX_COUNT_count 0 Fld.PW_STATUS_wrap 0 k n) := by
  refine ⟨State.copiesBut_count (s.copiesBut_refl _) (by decide) (by decide) _ _ _ _, ?_⟩
  unfold State.count
  dsimp only
  split <;> rfl

theorem State.sendPace_moved (s : State) (h : Nat) : s.onlyMoved (s.sendPace h) := by
  have hsent : s.onlyMoved { s with power := { s.power with paceSent := Sparse.set 0 s.power.paceSent h (s.time + 1) } } :=
    ⟨State.copiesBut_then (s.copiesBut_refl _) rfl, rfl⟩
  refine State.powerMoved_trans hsent (State.powerMoved_foldl (fun v b => ?_) _ _)
  split
  · exact v.powerMoved_refl
  · refine State.powerMoved_foldl (fun w r => ?_) _ _
    have hemit (x : Sent) : w.onlyMoved (w.emit x) := ⟨State.copiesBut_then (w.copiesBut_refl _) rfl, rfl⟩
    exact State.powerMoved_trans (hemit _) (State.count_moved _ 3 1)

/-- The point a half is granted: the slowest of what limits it. -/
def State.grantPoint (s : State) (h : Nat) : Nat :=
  max (max (s.want h).1 (s.get Fld.PW_HALF_ceiling h)) (max (s.paceCap h) (s.get Fld.PW_HALF_thermal_cap h))

/-- A grant as the half's register shows it. -/
def State.grantShown (s : State) (h : Nat) : State :=
  s.setAll h [(Fld.PW_HALF_want, (s.want h).1), (Fld.PW_HALF_pace_cap, s.paceCap h), (Fld.PW_HALF_grant, s.grantPoint h),
    (Fld.PW_HALF_reason, s.grantReason h (s.want h).1 (s.want h).2.2 (s.grantPoint h)),
    (Fld.PW_HALF_ruling_phase, if (s.want h).2.1 = 256 then 0 else (s.want h).2.1)]

theorem State.grantHalf_moved (s : State) (h : Nat) : (s.grantShown h).onlyMoved (s.grantHalf h) := by
  have hmove := (s.grantShown h).moveTo_moved h (s.get Fld.PW_HALF_grant h) (s.grantPoint h)
  have heq : s.grantHalf h = (if (((s.grantShown h).moveTo h (s.get Fld.PW_HALF_grant h) (s.grantPoint h)).throttled h && !s.throttled h) = true
      then ((s.grantShown h).moveTo h (s.get Fld.PW_HALF_grant h) (s.grantPoint h)).sendPace h
      else (s.grantShown h).moveTo h (s.get Fld.PW_HALF_grant h) (s.grantPoint h)) := rfl
  rw [heq]
  generalize (s.grantShown h).moveTo h _ _ = v at hmove ⊢
  split
  · exact State.powerMoved_trans hmove (v.sendPace_moved h)
  · exact hmove

/-- A half's want, pace cap and grant are as the arbiter gives them in `s`. -/
def State.grantsAs (s t : State) (k : Nat) : Prop :=
  t.get Fld.PW_HALF_want k = (s.want k).1 % 4 ∧ t.get Fld.PW_HALF_pace_cap k = s.paceCap k % 4 ∧
  t.get Fld.PW_HALF_grant k = s.grantPoint k % 4

theorem State.grantShown_get (s : State) (h : Nat) : s.grantsAs (s.grantShown h) h := by
  simp (disch := decide) only [State.grantsAs, State.grantShown, State.setAll_cons, State.setAll_nil, State.get_set_field, State.get_set_same]
  exact ⟨rfl, rfl, rfl⟩

theorem State.grantHalf_grants (s : State) (h : Nat) : s.grantsAs (s.grantHalf h) h := by
  have hcopies := (s.grantHalf_moved h).1
  obtain ⟨hwant, hcap, hgrant⟩ := s.grantShown_get h
  exact ⟨(State.copiesBut_get hcopies (by decide) h).trans hwant, (State.copiesBut_get hcopies (by decide) h).trans hcap,
    (State.copiesBut_get hcopies (by decide) h).trans hgrant⟩

theorem State.grantHalf_onlyGrant (s : State) (h : Nat) : s.onlyGrant (s.grantHalf h) := by
  have hmoved := s.grantHalf_moved h
  have hshown : s.onlyGrant (s.grantShown h) :=
    ⟨State.copiesBut_setAll (s.copiesBut_refl _) h _ (by simp [grantFields]), rfl⟩
  exact State.powerMoved_trans hshown (State.powerMoved_mono hmoved (by decide))

/-- The grant of one half leaves what another shows. -/
theorem State.grantHalf_other (s : State) {h k : Nat} (hk : k ≠ h) : ∀ f ∈ [Fld.PW_HALF_want, Fld.PW_HALF_pace_cap, Fld.PW_HALF_grant],
    (s.grantHalf h).get f k = s.get f k := by
  have hcopies := (s.grantHalf_moved h).1
  have hshown : s.fieldsBut (s.grantShown h) ([Fld.PW_HALF_want, Fld.PW_HALF_pace_cap, Fld.PW_HALF_grant, Fld.PW_HALF_reason,
      Fld.PW_HALF_ruling_phase].map (fun f => (f, h))) := State.fieldsBut_setAll (s.fieldsBut_refl _) h _ (by simp)
  have hmoved : ∀ f ∈ [Fld.PW_HALF_want, Fld.PW_HALF_pace_cap, Fld.PW_HALF_grant], ∀ w ∈ movedFields,
      (f.reg * 32 + f.lo) % 16384 ≠ (w.reg * 32 + w.lo) % 16384 := by decide
  have hlisted : ∀ f ∈ [Fld.PW_HALF_want, Fld.PW_HALF_pace_cap, Fld.PW_HALF_grant], ∀ w ∈ [Fld.PW_HALF_want, Fld.PW_HALF_pace_cap,
      Fld.PW_HALF_grant, Fld.PW_HALF_reason, Fld.PW_HALF_ruling_phase], f = w ∨ (f.reg * 32 + f.lo) % 16384 ≠ (w.reg * 32 + w.lo) % 16384 := by
    decide
  exact fun f hf => (State.copiesBut_get hcopies (hmoved f hf) k).trans (State.fieldsBut_get_copy hshown (hlisted f hf) hk)

/-! ## What a grant is made from -/

theorem State.onlyGrant_get (h : s.onlyGrant t) {f : Field}
    (hf : ∀ w ∈ grantFields, (f.reg * 32 + f.lo) % 16384 ≠ (w.reg * 32 + w.lo) % 16384) (i : Nat) : t.get f i = s.get f i :=
  State.copiesBut_get h.1 hf i

theorem State.onlyGrant_time (h : s.onlyGrant t) : t.time = s.time := by
  rw [State.time, State.time, State.get64, State.get64, State.onlyGrant_get h (by decide), State.onlyGrant_get h (by decide)]

theorem State.onlyGrant_boundSlots (h : s.onlyGrant t) : t.boundSlots = s.boundSlots := (congrArg State.boundSlots h.2 :)

/-- A grant leaves what every half wants. -/
theorem State.onlyGrant_want (h : s.onlyGrant t) (k : Nat) : t.want k = s.want k := by
  have hctx (c : Nat) : t.ctxAt c = s.ctxAt c := (congrArg (fun x : State => x.ctxAt c) h.2 :)
  have hpref := State.onlyGrant_get h (f := Fld.PW_PHASE_pref) (by decide)
  have hseed := State.onlyGrant_get h (f := Fld.PW_COLD_SEED_point) (by decide)
  have hlearn := State.onlyGrant_get h (f := Fld.PW_PHASE_learn_count) (by decide)
  simp only [State.want, State.halfPhases, State.phasePoint, State.onlyGrant_boundSlots h, hctx, hpref, hseed, hlearn]
  rfl

theorem State.onlyGrant_paceCap (h : s.onlyGrant t) (k : Nat) : t.paceCap k = s.paceCap k := by
  have hindex := State.onlyGrant_get h (f := Fld.WVR_CTX_STATE_basket_index) (by decide)
  have hlow := State.onlyGrant_get h (f := Fld.PW_PACE_EN_LO_en) (by decide)
  have hhigh := State.onlyGrant_get h (f := Fld.PW_PACE_EN_HI_en) (by decide)
  have huntil : t.power.capUntil = s.power.capUntil := (congrArg Power.capUntil (State.onlyGrant_power h) :)
  have hpoint : t.power.capPoint = s.power.capPoint := (congrArg Power.capPoint (State.onlyGrant_power h) :)
  have hbaskets : t.halfBaskets k = s.halfBaskets k := by
    simp only [State.halfBaskets, State.onlyGrant_boundSlots h, hindex]
  have hcap (b : Nat) : t.basketCap b = s.basketCap b := by
    simp only [State.basketCap, State.paceEnabled, hlow, hhigh, huntil, hpoint, State.onlyGrant_time h]
    rfl
  rw [State.paceCap, State.paceCap, hbaskets, List.map_congr_left (fun b _ => hcap b)]

theorem State.onlyGrant_grantsAs (h : s.onlyGrant t) {u : State} {k : Nat} (g : t.grantsAs u k) : s.grantsAs u k := by
  have hceiling := State.onlyGrant_get h (f := Fld.PW_HALF_ceiling) (by decide) k
  have hthermal := State.onlyGrant_get h (f := Fld.PW_HALF_thermal_cap) (by decide) k
  unfold State.grantsAs State.grantPoint at g ⊢
  rw [State.onlyGrant_want h, State.onlyGrant_paceCap h, hceiling, hthermal] at g
  exact g

theorem State.grantsAs_of_get {k : Nat} (h : s.grantsAs t k)
    (hu : ∀ f ∈ [Fld.PW_HALF_want, Fld.PW_HALF_pace_cap, Fld.PW_HALF_grant], u.get f k = t.get f k) : s.grantsAs u k := by
  obtain ⟨hwant, hcap, hgrant⟩ := h
  exact ⟨(hu _ (by decide)).trans hwant, (hu _ (by decide)).trans hcap, (hu _ (by decide)).trans hgrant⟩

/-- Halves granted one after the other each get what the first state gives them. -/
theorem State.foldl_grantHalf_grants {l : List Nat} (hl : l.Nodup) (s : State) : ∀ k ∈ l, s.grantsAs (l.foldl State.grantHalf s) k := by
  have hkeep (k : Nat) (l : List Nat) : k ∉ l → ∀ v : State, ∀ f ∈ [Fld.PW_HALF_want, Fld.PW_HALF_pace_cap, Fld.PW_HALF_grant],
      (l.foldl State.grantHalf v).get f k = v.get f k := by
    induction l with
    | nil => exact fun _ _ _ _ => rfl
    | cons h l ih =>
      intro hk v f hf
      obtain ⟨hne, hk⟩ := not_or.1 (fun h => hk (List.mem_cons.2 h))
      exact (ih hk (v.grantHalf h) f hf).trans (v.grantHalf_other hne f hf)
  induction l generalizing s with
  | nil => exact fun k hk => by cases hk
  | cons h l ih =>
    obtain ⟨hh, hl⟩ := List.nodup_cons.1 hl
    intro k hk
    rcases List.mem_cons.1 hk with rfl | hk
    · exact State.grantsAs_of_get (s.grantHalf_grants k) (hkeep k l hh (s.grantHalf k))
    · exact State.onlyGrant_grantsAs (s.grantHalf_onlyGrant h) (ih hl (s.grantHalf h) k hk)

theorem State.grantAll_grants (s : State) {k : Nat} (hk : k < 4) : s.grantsAs s.grantAll k :=
  State.foldl_grantHalf_grants (by decide) s k (by interval_cases k <;> decide)

theorem State.grantAll_onlyGrant (s : State) : s.onlyGrant s.grantAll := State.powerMoved_foldl State.grantHalf_onlyGrant _ s

end

end Sys2Proof.Machine

/-! The outcomes of DVFS_GRANT, RAIL_SETTLED, GATE_IDLE and WAKE_TOKEN_ISSUE (13 R595 to R597, R609; 04 R170), of the droop commands
(13 R598 to R602) and of pacing (13 R615 to R617). -/

namespace Sys2Proof.Machine

/-! ## Rails and gating -/

section
variable {s : State} {h : Fin 4} {idle : Nat}

/-- A half whose rail has arrived at a point. -/
def State.railAt (s : State) (h point : Nat) : State :=
  ({ s with power := { s.power with target := Sparse.set 0 s.power.target h 0 } }).set Fld.PW_HALF_RAIL_mv h (pointMv point)

theorem State.railAt_gated (s : State) (h point k : Nat) : (s.railAt h point).gated k = s.gated k :=
  congrArg (· != 0) (State.get_set_field _ (by decide) _ _ _)

theorem execRailSettled_of_move {n : Nat} (ht : Sparse.get 0 s.power.target h.val = n + 1) : execRailSettled h s =
    .next (if s.gated h then s.railAt h n else (s.railAt h n).setDiv h n) := by
  rw [← s.railAt_gated h n h, apply_ite Host.Outcome.next]
  unfold execRailSettled
  dsimp only
  rw [ht]
  rfl

theorem State.railAt_get (s : State) (h n : Nat) : (s.railAt h n).get Fld.PW_HALF_RAIL_mv h = pointMv n := by
  refine (State.get_set_same _ _ _ _).trans (Nat.mod_eq_of_lt ?_)
  show pointMv n < 1024
  unfold pointMv
  split
  · decide
  · split
    · decide
    · split <;> decide

theorem execGateIdle_of_kept (hk : s.gated h = true ∨ s.halfBusy h = true ∨ s.halfExecutes h = true ∨ s.seamWaiting h = true ∨
    idle < s.get Fld.PW_WAKE_CFG_gate_idle) : execGateIdle h idle s = .next s := by
  refine if_pos ?_
  simp only [Bool.or_eq_true, decide_eq_true_eq, or_assoc]
  exact hk

theorem execGateIdle_of_idle (hg : s.gated h = false) (hb : s.halfBusy h = false) (he : s.halfExecutes h = false)
    (hs : s.seamWaiting h = false) (hi : s.get Fld.PW_WAKE_CFG_gate_idle ≤ idle) :
    execGateIdle h idle s = .next ((s.set Fld.PW_HALF_gated h 1).setDiv h 4) :=
  if_neg (by simp [hg, hb, he, hs, hi])

end

/-- A half's divider is shown apart from what a half shows. -/
theorem divField_apart (h : Nat) : ∀ w ∈ [divField h, Fld.SEAM_HOLD_held_w, Fld.SEAM_HOLD_held_e],
    (Fld.PW_HALF_gated.reg * 32 + Fld.PW_HALF_gated.lo) % 16384 ≠ (w.reg * 32 + w.lo) % 16384 := by
  unfold divField
  split <;> decide

/-! ## Wake tokens -/

section
variable {s : State}

/-- A token goes to a waiting core, as long as one waits. -/
theorem nextWake_mem {last c : Nat} {q : List Nat} (h : nextWake last q = some c) : c ∈ q := by
  unfold nextWake at h
  dsimp only at h
  have hmem := List.min?_mem h
  split at hmem
  · exact hmem
  · exact (List.mem_filter.1 hmem).1

theorem nextWake_eq_none {last : Nat} {q : List Nat} (h : nextWake last q = none) : q = [] := by
  unfold nextWake at h
  dsimp only at h
  rw [List.min?_eq_none_iff] at h
  split at h
  · exact h
  · next hn => exact absurd (List.isEmpty_iff.2 h) hn

theorem State.wakeHalf_power (s : State) (h : Nat) : (s.wakeHalf h).power = s.power := by
  unfold State.wakeHalf
  split
  · rfl
  · exact (s.set Fld.PW_HALF_gated h 0).setDiv_power h (s.get Fld.PW_HALF_grant h)

theorem State.giveToken_power (s : State) (core : Nat) :
    (s.giveToken core).power = { s.power with lastWoken := core, tokensLeft := s.power.tokensLeft - 1 } := by
  have hcount : (s.count Fld.PW_WAKE_COUNT_count 0 Fld.PW_STATUS_wrap 0 1).power = s.power := by simp
  unfold State.giveToken
  rw [State.wakeHalf_power]
  dsimp only
  rw [hcount]

/-- A core that waits no more. -/
def State.unqueued (s : State) (core : Nat) : State := { s with power := { s.power with wakeQueue := s.power.wakeQueue.erase core } }

/-- Of `n` tokens each goes to a core while one waits. -/
theorem State.giveTokens_spends (n : Nat) (s : State) :
    (State.giveTokens n s).power.wakeQueue.length = s.power.wakeQueue.length - n ∧
    (State.giveTokens n s).power.tokensLeft = s.power.tokensLeft - min n s.power.wakeQueue.length ∧ s.bytesSame (State.giveTokens n s) := by
  induction n generalizing s with
  | zero => exact ⟨rfl, by simp [State.giveTokens], fun _ => ⟨rfl, rfl, rfl, rfl, rfl⟩⟩
  | succ n ih =>
    unfold State.giveTokens
    cases hc : nextWake s.power.lastWoken s.power.wakeQueue with
    | none =>
      have hempty := nextWake_eq_none hc
      exact ⟨by simp [hempty], by simp [hempty], fun _ => ⟨rfl, rfl, rfl, rfl, rfl⟩⟩
    | some c =>
      obtain ⟨hlength, htokens, hbytes⟩ := ih ((s.unqueued c).giveToken c)
      have hmem := nextWake_mem hc
      have herase : ((s.unqueued c).giveToken c).power.wakeQueue.length = s.power.wakeQueue.length - 1 :=
        (congrArg (fun p => p.wakeQueue.length) ((s.unqueued c).giveToken_power c)).trans (List.length_erase_of_mem hmem)
      have hleft : ((s.unqueued c).giveToken c).power.tokensLeft = s.power.tokensLeft - 1 :=
        congrArg Power.tokensLeft ((s.unqueued c).giveToken_power c)
      have hpos := List.length_pos_of_mem hmem
      have hwake : (s.unqueued c).onlyChoice ((s.unqueued c).giveToken c) := by
        refine State.onlyChoice_wakeHalf ?_ _
        exact State.onlyChoice_rest (State.onlyChoice_count (State.onlyChoice_refl _) (f := Fld.PW_WAKE_COUNT_count)
          (w := Fld.PW_STATUS_wrap) (by decide) (by decide) 0 0 1 1) rfl rfl
      have hsame := State.onlyChoice_bytesSame hwake
      refine ⟨?_, ?_, State.bytesSame_trans hsame hbytes⟩
      · exact hlength.trans (by omega)
      · exact htokens.trans (by omega)

/-- A new quarter of a µs has its tokens. -/
def State.tokensIssued (s : State) : State := { s with power := { s.power with tokensLeft := s.wakeTokens } }

theorem execWakeTokenIssue_of_halted (h : s.halted = true) : execWakeTokenIssue s = .next s := if_pos h

theorem execWakeTokenIssue_of_running (h : s.halted = false) :
    execWakeTokenIssue s = .next (State.giveTokens s.wakeTokens s.tokensIssued) := if_neg (by simp [h])

theorem State.giveTokens_of_noneWaits (n : Nat) (h : s.power.wakeQueue = []) : State.giveTokens n s = s := by
  cases n with
  | zero => rfl
  | succ n =>
    unfold State.giveTokens
    rw [h]
    rfl

end

/-- Settles O32: the grants of the four halves, the rail's arrival, the gate and the tokens, each by what it moves. -/
theorem grantIsTheSlowestLimit : Obligations.GrantIsTheSlowestLimit := by
  intro s h idle
  refine ⟨⟨s.grantAll, rfl, fun k hk => s.grantAll_grants hk, s.grantAll_onlyGrant.1, State.grantRest_of_onlyGrant s.grantAll_onlyGrant⟩,
    fun n hn => ?_, fun h0 => if_pos h0, fun hg hb he hs hi => ?_, roundUp_120, execGateIdle_of_kept, execWakeTokenIssue_of_halted,
    fun hr hq => ?_, fun hr => ⟨execWakeTokenIssue_of_running hr, _, execWakeTokenIssue_of_running hr, ?_⟩⟩
  · have hexec := execRailSettled_of_move (h := h) hn
    refine ⟨s.railAt h n, s.railAt_get h n, rfl, State.fieldsBut_set (State.fieldsBut_of_regs rfl) (List.mem_singleton_self _) _, rfl,
      fun hg => hexec.trans (congrArg _ (if_pos hg)), fun hg => ⟨_, hexec.trans (congrArg _ (if_neg (by simp [hg]))), ?_⟩⟩
    exact ⟨State.setDiv_get _ _ _, State.setDiv_run _ _ _, State.setDiv_copies _ _ _, State.setDiv_seamRest _ _ _⟩
  · have hcopies := (s.set Fld.PW_HALF_gated h 1).setDiv_copies h 4
    have hgated (k : Nat) := State.copiesBut_get hcopies (divField_apart h) k
    refine ⟨_, execGateIdle_of_idle hg hb he hs hi, (hgated h).trans (State.get_set_same _ _ _ _), State.setDiv_get _ _ _,
      fun k hk => (hgated k).trans (State.get_set_copy _ hk _), State.setDiv_run _ _ _, ?_,
      (congrArg (fun x : State => { x with regs := s.regs }) ((s.set Fld.PW_HALF_gated h 1).setDiv_seamRest h 4) :)⟩
    exact State.copiesBut_trans (State.copiesBut_set (s.copiesBut_refl _) (List.mem_cons_self ..) _ _)
      (State.copiesBut_mono hcopies (fun f hf => List.mem_cons_of_mem _ hf))
  · exact (execWakeTokenIssue_of_running hr).trans (congrArg _ (State.giveTokens_of_noneWaits (s := s.tokensIssued) _ hq))
  · obtain ⟨hlength, htokens, hbytes⟩ := State.giveTokens_spends s.wakeTokens s.tokensIssued
    exact ⟨hlength, htokens.trans (tsub_eq_tsub_min _ _).symm, hbytes⟩

/-! ## Droop (13 R598 to R602) -/

section
variable {s : State} {row : Fin 32} {mv : Nat} {h : Fin 4} {low : Bool}

theorem execDroopDetect_of_droop (he : s.flag Fld.CK_DROOP_CFG_droop_en = true) (hg : s.gated (rowHalf row) = false) (h20 : 20 < mv)
    (ht : s.get Fld.CK_DROOP_CFG_thresh_mv < mv) : execDroopDetect row mv s = .next (s.set Fld.PW_HALF_stretching (rowHalf row) 1) :=
  if_pos (by simp [he, hg, h20, ht])

theorem execDroopDetect_of_kept (hk : s.flag Fld.CK_DROOP_CFG_droop_en = false ∨ s.gated (rowHalf row) = true ∨
    mv ≤ max 20 (s.get Fld.CK_DROOP_CFG_thresh_mv)) : execDroopDetect row mv s = .next s := by
  refine if_neg ?_
  rcases hk with hk | hk | hk
  · simp [hk]
  · simp [hk]
  · simp [Nat.not_lt.2 hk]

/-- The stretch runs of a half in the present ms, with one more. -/
def State.runsNow (s : State) (h : Nat) : Nat :=
  (if Sparse.get 0 s.power.runsMs h = s.time / 1000 then Sparse.get 0 s.power.runsInMs h else 0) + 1

/-- A stretch run that has been counted. -/
def State.runCounted (s : State) (h : Nat) (low : Bool) : State :=
  (s.count Fld.CK_STRETCH_COUNT_count h Fld.CK_STATUS_stretch_wrap 0 h).set Fld.PW_HALF_stretching h (bit low)

/-- The runs of a half in the ms they fall in. -/
def State.runsNoted (s : State) (h ms n : Nat) : State :=
  { s with power := { s.power with runsMs := Sparse.set 0 s.power.runsMs h ms, runsInMs := Sparse.set 0 s.power.runsInMs h n } }

theorem State.runCounted_onlyFields (s : State) (h : Nat) (low : Bool) : s.onlyFields (s.runCounted h low)
    [(Fld.CK_STRETCH_COUNT_count, h), (Fld.CK_STATUS_stretch_wrap, 0), (Fld.PW_HALF_stretching, h)] :=
  State.onlyFields_set (State.onlyFields_count (s.onlyFields_refl _) (by simp) (by simp) _ _) (by simp) _

/-- The time is read in registers that no listed field shares a place with. -/
theorem State.time_of_copies {s t : State} {fs : List Field} (h : s.copiesBut t fs)
    (hf : ∀ w ∈ fs, (Fld.WVR_TIME_LO_time_lo.reg * 32 + Fld.WVR_TIME_LO_time_lo.lo) % 16384 ≠ (w.reg * 32 + w.lo) % 16384 ∧
      (Fld.WVR_TIME_HI_time_hi.reg * 32 + Fld.WVR_TIME_HI_time_hi.lo) % 16384 ≠ (w.reg * 32 + w.lo) % 16384) : t.time = s.time := by
  rw [State.time, State.time, State.get64, State.get64, State.copiesBut_get h (fun w hw => (hf w hw).1),
    State.copiesBut_get h (fun w hw => (hf w hw).2)]

theorem execStretchRunEnd_of_run (hs : s.flag Fld.PW_HALF_stretching h = true) : execStretchRunEnd h low s =
    .next (if s.runsNow h = s.get Fld.CK_DROOP_CFG_rate_limit + 1 then
      ((s.runCounted h low).runsNoted h (s.time / 1000) (s.runsNow h)).droopCeiling h
    else (s.runCounted h low).runsNoted h (s.time / 1000) (s.runsNow h)) := by
  have honly := s.runCounted_onlyFields h low
  have hcopies : s.copiesBut (s.runCounted h low) [Fld.CK_STRETCH_COUNT_count, Fld.CK_STATUS_stretch_wrap, Fld.PW_HALF_stretching] :=
    State.copiesBut_of_fieldsBut honly.1 (by simp)
  have htime : (s.runCounted h low).time = s.time := State.time_of_copies hcopies (by decide)
  have hpower : (s.runCounted h low).power = s.power := (congrArg State.power honly.2 :)
  have hruns : (s.runCounted h low).runsNow h = s.runsNow h := by
    unfold State.runsNow
    rw [hpower, htime]
  have hlimit := State.copiesBut_get hcopies (f := Fld.CK_DROOP_CFG_rate_limit) (by decide) 0
  have hexec : execStretchRunEnd h low s = if (s.runCounted h low).runsNow h = (s.runCounted h low).get Fld.CK_DROOP_CFG_rate_limit + 1 then
        .next (((s.runCounted h low).runsNoted h ((s.runCounted h low).time / 1000) ((s.runCounted h low).runsNow h)).droopCeiling h)
      else .next ((s.runCounted h low).runsNoted h ((s.runCounted h low).time / 1000) ((s.runCounted h low).runsNow h)) :=
    (if_neg (by simp [hs])).trans rfl
  rw [hexec, hruns, hlimit, htime, apply_ite Host.Outcome.next]

theorem execStretchRunEnd_of_none (hs : s.flag Fld.PW_HALF_stretching h = false) : execStretchRunEnd h low s = .next s :=
  if_pos (by simp [hs])

theorem execCeilingExpire_of_kept (hk : Sparse.get 0 s.power.droopUntil h.val = 0 ∨ s.time < Sparse.get 0 s.power.droopUntil h.val) :
    execCeilingExpire h s = .next s := if_pos hk

/-- A half whose droop-rate ceiling has ended, before it is granted anew. -/
def State.ceilingBack (s : State) (h : Nat) : State :=
  { s.set Fld.PW_HALF_ceiling h (Sparse.get 0 s.power.droopPrev h) with
    power := { s.power with
      droopUntil := Sparse.set 0 s.power.droopUntil h 0,
      ceilCause := Sparse.set 0 s.power.ceilCause h (Sparse.get 0 s.power.droopPrevCause h) } }

theorem execCeilingExpire_of_due (h0 : Sparse.get 0 s.power.droopUntil h.val ≠ 0) (ht : Sparse.get 0 s.power.droopUntil h.val ≤ s.time) :
    execCeilingExpire h s = .next ((s.ceilingBack h).grantHalf h) := if_neg (by omega)

/-- A grant leaves the ceilings and what ends them. -/
theorem State.grantHalf_keeps (s : State) (h k : Nat) : (s.grantHalf h).get Fld.PW_HALF_ceiling k = s.get Fld.PW_HALF_ceiling k ∧
    (s.grantHalf h).power.droopUntil = s.power.droopUntil ∧ (∀ f, (s.grantHalf h).get Fld.FC_SRC_COUNT_count f = s.get Fld.FC_SRC_COUNT_count f) := by
  have hgrant := s.grantHalf_onlyGrant h
  exact ⟨State.onlyGrant_get hgrant (by decide) k, (congrArg Power.droopUntil (State.onlyGrant_power hgrant) :),
    State.onlyGrant_get hgrant (by decide)⟩

/-- A droop-rate ceiling, before it is reported. -/
def State.droopLowered (s : State) (h : Nat) : State :=
  State.set { s with power := { s.power with
    droopPrev := if (Sparse.get 0 s.power.droopUntil h == 0) = true then Sparse.set 0 s.power.droopPrev h (s.get Fld.PW_HALF_ceiling h)
      else s.power.droopPrev,
    droopPrevCause := if (Sparse.get 0 s.power.droopUntil h == 0) = true then
      Sparse.set 0 s.power.droopPrevCause h (Sparse.get 0 s.power.ceilCause h) else s.power.droopPrevCause,
    droopUntil := Sparse.set 0 s.power.droopUntil h (s.time + 10000), ceilCause := Sparse.set 0 s.power.ceilCause h 6 } }
    Fld.PW_HALF_ceiling h (min 3 (s.get Fld.PW_HALF_grant h + 1))

theorem State.droopCeiling_eq (s : State) (h : Nat) : s.droopCeiling h = ((s.droopLowered h).report 0x49 h 0).grantHalf h := rfl

theorem State.droopCeiling_shows (s : State) (h : Nat) : (s.droopCeiling h).get Fld.PW_HALF_ceiling h = min 3 (s.get Fld.PW_HALF_grant h + 1) ∧
    Sparse.get 0 (s.droopCeiling h).power.droopUntil h = s.time + 10000 ∧
    (s.droopCeiling h).get Fld.FC_SRC_COUNT_count 0x49 = (s.get Fld.FC_SRC_COUNT_count 0x49 + 1) % 2 ^ Fld.FC_SRC_COUNT_count.width := by
  obtain ⟨hceiling, huntil, hcount⟩ := ((s.droopLowered h).report 0x49 h 0).grantHalf_keeps h h
  have hpower : ((s.droopLowered h).report 0x49 h 0).power = (s.droopLowered h).power :=
    (congrArg State.power ((s.droopLowered h).report_reportRest 0x49 h 0 false false) :)
  rw [State.droopCeiling_eq]
  refine ⟨?_, ?_, ?_⟩
  · rw [hceiling, State.get_report_field _ (by decide)]
    refine (State.get_set_same _ _ _ _).trans (Nat.mod_eq_of_lt ?_)
    show min 3 (s.get Fld.PW_HALF_grant h + 1) < 4
    omega
  · rw [huntil, hpower]
    exact Sparse.get_set_same _ _ _ _
  · rw [hcount, State.report_counted]
    exact congrArg (fun n => (n + 1) % 2 ^ Fld.FC_SRC_COUNT_count.width) (State.get_set_field _ (by decide) _ _ _)

end

/-- Settles O33: a run's count decides the ceiling, which ends by its time and gives back the one it displaced. -/
theorem droopStretchesAndLimitsTheRate : Obligations.DroopStretchesAndLimitsTheRate := by
  intro s row mv h low
  refine ⟨fun he hg h20 ht => ⟨_, execDroopDetect_of_droop he hg h20 ht, State.get_set_same _ _ _ _, s.set_onlyFields _ _ _⟩,
    execDroopDetect_of_kept, fun hs n hn => ?_, execStretchRunEnd_of_none, s.droopCeiling_shows h, fun h0 ht => ?_,
    execCeilingExpire_of_kept, _, rfl, State.get_set_same _ _ _ _, s.set_onlyFields _ _ _⟩
  · have hruns : s.runsNow h = n := hn.symm
    have hexec := execStretchRunEnd_of_run (low := low) hs
    have honly := s.runCounted_onlyFields h low
    rw [hruns] at hexec
    refine ⟨(s.runCounted h low).runsNoted h (s.time / 1000) n, ?_, (State.get_set_same _ _ _ _).trans (bit_mod_two low), ?_,
      State.fieldsBut_then honly.1 rfl, ?_, fun hne => hexec.trans (congrArg _ (if_neg hne)), fun heq => hexec.trans (congrArg _ (if_pos heq))⟩
    · exact (State.get_set_field _ (by decide) _ _ _).trans (State.get_count_same _ (Field.key_ne (by decide) _ _) _ _)
    · have hpower : (s.runCounted h low).power = s.power := (congrArg State.power honly.2 :)
      rw [← hpower]
      rfl
    · exact (congrArg (fun x : State => { x with power := s.power }) honly.2 :)
  · obtain ⟨hceiling, huntil, -⟩ := (s.ceilingBack h).grantHalf_keeps h h
    refine ⟨_, execCeilingExpire_of_due h0 ht, hceiling.trans (State.get_set_same _ _ _ _), ?_, ?_⟩
    · rw [huntil]
      exact Sparse.get_set_same _ _ _ _
    · exact State.copiesBut_trans (State.copiesBut_then (State.copiesBut_set (s.copiesBut_refl _) (List.mem_cons_self ..) _ _) rfl)
        (State.copiesBut_mono ((s.ceilingBack h).grantHalf_onlyGrant h).1 (fun f hf => List.mem_cons_of_mem _ hf))

/-! ## Pacing (13 R615 to R617) -/

section
variable {s : State} {uid : BitVec 64} {point : BitVec 2} {b : Nat}

/-- A basket under a new cap, before the halves are granted anew. -/
def State.capped (s : State) (b point ends : Nat) : State :=
  { s with power := { s.power with capPoint := Sparse.set 0 s.power.capPoint b point, capUntil := Sparse.set 0 s.power.capUntil b ends } }

theorem execPace_of_taken (hb : s.basketOfUid uid.toNat = some b) (he : s.paceEnabled b = true)
    (hc : Sparse.get 0 s.power.capPoint b ≤ point.toNat ∨ Sparse.get 0 s.power.capUntil b ≤ s.time) :
    execPace uid point s = .next (s.capped b point.toNat (s.time + s.paceHold)).grantAll := by
  have htaken : (s.paceEnabled b && (decide (Sparse.get 0 s.power.capPoint b ≤ point.toNat) ||
      decide (Sparse.get 0 s.power.capUntil b ≤ s.time))) = true := by simpa [he] using hc
  unfold execPace
  rw [hb]
  exact if_pos htaken

theorem execPace_of_discarded (hd : s.basketOfUid uid.toNat = none ∨ (∃ b, s.basketOfUid uid.toNat = some b ∧ (s.paceEnabled b = false ∨
    (point.toNat < Sparse.get 0 s.power.capPoint b ∧ s.time < Sparse.get 0 s.power.capUntil b)))) :
    execPace uid point s = .next (s.count Fld.PW_PACE_RX_COUNT_count 0 Fld.PW_STATUS_wrap 0 4) := by
  unfold execPace
  rcases hd with hb | ⟨b, hb, hd⟩
  · rw [hb]
  · have hnot : ¬ (s.paceEnabled b && (decide (Sparse.get 0 s.power.capPoint b ≤ point.toNat) ||
        decide (Sparse.get 0 s.power.capUntil b ≤ s.time))) = true := by
      rcases hd with hd | ⟨hp, ht⟩
      · simp [hd]
      · simp [Nat.not_le.2 hp, Nat.not_le.2 ht]
    rw [hb]
    exact if_neg hnot

/-- The caps after a grant are the caps before it. -/
theorem State.grantAll_caps (s : State) : s.grantAll.power.capPoint = s.power.capPoint ∧ s.grantAll.power.capUntil = s.power.capUntil := by
  have hpower := State.onlyGrant_power s.grantAll_onlyGrant
  generalize s.grantAll = t at hpower ⊢
  exact ⟨(congrArg Power.capPoint hpower :), (congrArg Power.capUntil hpower :)⟩

/-- A cap set and the halves granted anew. -/
theorem State.capped_grantAll (s : State) (b point ends : Nat) :
    Sparse.get 0 (s.capped b point ends).grantAll.power.capPoint b = point ∧
    Sparse.get 0 (s.capped b point ends).grantAll.power.capUntil b = ends ∧
    (∀ c, c ≠ b → Sparse.get 0 (s.capped b point ends).grantAll.power.capPoint c = Sparse.get 0 s.power.capPoint c ∧
      Sparse.get 0 (s.capped b point ends).grantAll.power.capUntil c = Sparse.get 0 s.power.capUntil c) ∧
    s.copiesBut (s.capped b point ends).grantAll grantFields ∧ s.grantRest (s.capped b point ends).grantAll := by
  obtain ⟨hpoint, huntil⟩ := (s.capped b point ends).grantAll_caps
  have honly := (s.capped b point ends).grantAll_onlyGrant
  rw [hpoint, huntil]
  refine ⟨Sparse.get_set_same _ _ _ _, Sparse.get_set_same _ _ _ _,
    fun c hc => ⟨Sparse.get_set_apart _ _ _ hc _, Sparse.get_set_apart _ _ _ hc _⟩,
    State.copiesBut_trans (State.copiesBut_then (s.copiesBut_refl _) rfl) honly.1, ?_⟩
  have hrest := State.grantRest_of_onlyGrant honly
  generalize (s.capped b point ends).grantAll = t at hrest ⊢
  exact (congrArg (fun x : State => { x with power := s.power }) hrest :)

theorem execPaceCapExpire_of_due {b : Fin 64} (h0 : Sparse.get 0 s.power.capUntil b.val ≠ 0) (ht : Sparse.get 0 s.power.capUntil b.val ≤ s.time) :
    execPaceCapExpire b s = .next (s.capped b 0 0).grantAll := if_neg (by omega)

end

/-- Settles O36: a cap is set or ended and the halves are granted anew, or the notice is counted alone. -/
theorem paceSetsACapOrIsDiscarded : Obligations.PaceSetsACapOrIsDiscarded := by
  intro s uid point h
  refine ⟨fun b hb he hc => ⟨_, execPace_of_taken hb he hc, s.capped_grantAll b point.toNat _⟩, fun hd => ⟨_, execPace_of_discarded hd, ?_⟩,
    fun b h0 ht => ⟨_, execPaceCapExpire_of_due h0 ht, ?_⟩, fun b hk => if_pos hk, fun hs ht => if_pos (by simp [hs, ht]), fun hk => if_neg ?_⟩
  · exact ⟨s.get_count_same (by decide) _ _, State.onlyFields_count (s.onlyFields_refl _) (by simp) (by simp) _ _⟩
  · obtain ⟨hpoint, huntil, -, hcopies, hrest⟩ := s.capped_grantAll b.val 0 0
    exact ⟨hpoint, huntil, hcopies, hrest⟩
  · rcases hk with hk | hk
    · simp [hk]
    · simp [Nat.not_le.2 hk]

end Sys2Proof.Machine

/-! The owner's challenge and operations (12 R543 to R546) and the loading and zeroization of key slots (12 R549, R551, R553). -/

namespace Sys2Proof.Machine

/-! ## Words of a register file -/

theorem length_beBytes (n v : Nat) : (beBytes n v).length = n := by rw [beBytes, List.length_reverse, length_leBytes]

section
variable {s t : State} {f : Field}

/-- Copies set one after the other each read what they were set to. -/
theorem State.get_foldl_set (s : State) (f : Field) (g : Nat → Nat) {n i : Nat} (hi : i < n) :
    ((List.range n).foldl (fun s i => s.set f i (g i)) s).get f i = g i % 2 ^ f.width := by
  induction n with
  | zero => cases hi
  | succ n ih =>
    rw [List.range_succ, List.foldl_append, List.foldl_cons, List.foldl_nil, State.get_set_ite]
    split
    · next h => rw [h]
    · exact ih (by omega)

theorem State.foldl_set_copies (s : State) (f : Field) (g : Nat → Nat) (l : List Nat) :
    s.copiesBut (l.foldl (fun s i => s.set f i (g i)) s) [f] :=
  State.copiesBut_foldl _ (fun _ _ ht => State.copiesBut_set ht (List.mem_singleton_self f) _ _) l (s.copiesBut_refl _)

theorem State.foldl_set_rest (s : State) (f : Field) (g : Nat → Nat) (l : List Nat) :
    { l.foldl (fun s i => s.set f i (g i)) s with regs := s.regs } = s := by
  induction l generalizing s with
  | nil => rfl
  | cons i l ih => exact (congrArg (fun x : State => { x with regs := s.regs }) (ih (s.set f i (g i))) :)

theorem flatMap_fours (l : List Byte) (n : Nat) : (List.range n).flatMap (fun i => (l.drop (4 * i)).take 4) = l.take (4 * n) := by
  induction n with
  | zero => rfl
  | succ n ih => rw [List.range_succ, List.flatMap_append, ih, Nat.mul_succ, List.take_add]; simp

/-- Bytes written word by word are read back. -/
theorem State.wordBytes_foldl_set (s : State) (hf : f.width = 32) {l : List Byte} {n : Nat} (hl : l.length = 4 * n) :
    ((List.range n).foldl (fun s i => s.set f i (leNat ((l.drop (4 * i)).take 4))) s).wordBytes f n = l := by
  have hword (i : Nat) (hi : i ∈ List.range n) :
      leBytes 4 (((List.range n).foldl (fun s i => s.set f i (leNat ((l.drop (4 * i)).take 4))) s).get f i) = (l.drop (4 * i)).take 4 := by
    have hlength : ((l.drop (4 * i)).take 4).length = 4 := by
      have := List.mem_range.1 hi
      rw [List.length_take, List.length_drop]
      omega
    have hlt := leNat_lt_pow ((l.drop (4 * i)).take 4)
    have hback := leBytes_of_leNat ((l.drop (4 * i)).take 4)
    have hpow : 256 ^ 4 = 2 ^ 32 := by decide
    rw [hlength] at hlt hback
    rw [hpow] at hlt
    rw [State.get_foldl_set _ _ _ (List.mem_range.1 hi), hf, Nat.mod_eq_of_lt hlt, hback]
  rw [State.wordBytes, List.flatMap_congr hword, flatMap_fours, ← hl, List.take_length]

theorem State.wordBytes_congr (h : ∀ i, t.get f i = s.get f i) (n : Nat) : t.wordBytes f n = s.wordBytes f n := by
  unfold State.wordBytes
  simp only [h]

end

/-! ## The owner's registers -/

section
variable {s u : State} {a : Agent} {v : Word32} {op : Nat}

/-- A write of the owner's command register, before what its bits ask for. -/
def State.ownerWritten (s : State) (v : Nat) : State := s.writeReg Fld.LID_OWNER_CMD_op.reg 0 v

/-- The fields of the owner's command register. -/
def ownerCmdFields : List Field :=
  [Fld.LID_OWNER_CMD_op, Fld.LID_OWNER_CMD_challenge, Fld.LID_OWNER_CMD_go, Fld.LID_OWNER_CMD_nonce_valid, Fld.LID_OWNER_CMD_done,
   Fld.LID_OWNER_CMD_error, Fld.LID_OWNER_CMD_tries]

theorem fieldsOf_ownerCmd : fieldsOf Fld.LID_OWNER_CMD_op.reg = ownerCmdFields := by decide +kernel

theorem State.ownerWritten_onlyFields (s : State) (v : Nat) :
    s.onlyFields (s.ownerWritten v) ((fieldsOf Fld.LID_OWNER_CMD_op.reg).map (fun f => (f, 0))) := s.writeFields_onlyFields 0 v _

theorem State.ownerWritten_copies (s : State) (v : Nat) : s.copiesBut (s.ownerWritten v) ownerCmdFields := by
  have honly := s.ownerWritten_onlyFields v
  rw [fieldsOf_ownerCmd] at honly
  exact State.copiesBut_of_fieldsBut honly.1 (by simp)

theorem State.ownerWritten_rest (s : State) (v : Nat) : { s.ownerWritten v with regs := s.regs } = s := (s.ownerWritten_onlyFields v).2

/-! ## The challenge (12 R543, R544) -/

/-- A challenge has drawn its nonce. -/
def State.nonceDrawn (u : State) : State := { u.drawn with nonceTime := u.time }

/-- The nonce is shown, word by word. -/
def State.nonceShown (u : State) : State :=
  (List.range 16).foldl (fun s i => s.set Fld.LID_OWNER_NONCE_nonce i (leNat (((bytes512 u.randomValue).drop (4 * i)).take 4))) u.nonceDrawn

theorem execOwnerChallenge_of_draw (hf : s.fromPf a = true) (hc : bitOf v.toNat 8 = true) :
    execOwnerChallenge a v s = .next ((s.ownerWritten v.toNat).nonceShown.set Fld.LID_OWNER_CMD_nonce_valid 0 1) := by
  refine (if_neg (by simp [hf])).trans ((if_neg (by simp [hc])).trans ?_)
  rfl

theorem execOwnerChallenge_of_write (hf : s.fromPf a = true) (hc : bitOf v.toNat 8 = false) :
    execOwnerChallenge a v s = .next (s.ownerWritten v.toNat) := by
  refine (if_neg (by simp [hf])).trans ((if_pos (by simp [hc])).trans ?_)
  rfl

theorem State.nonceShown_copies (u : State) : u.copiesBut u.nonceShown [Fld.LID_OWNER_NONCE_nonce] :=
  State.copiesBut_trans (State.copiesBut_then (u.copiesBut_refl _) rfl) (State.foldl_set_copies u.nonceDrawn _ _ _)

theorem State.nonceShown_bytes (u : State) : u.nonceShown.wordBytes Fld.LID_OWNER_NONCE_nonce 16 = bytes512 u.randomValue :=
  State.wordBytes_foldl_set u.nonceDrawn rfl (length_beBytes 64 _)

theorem State.nonceShown_rest (u : State) : { u.nonceShown with regs := u.nonceDrawn.regs } = u.nonceDrawn :=
  State.foldl_set_rest u.nonceDrawn _ _ _

theorem execNonceExpire_of_due (hn : s.flag Fld.LID_OWNER_CMD_nonce_valid = true) (ht : s.nonceTime + 10000000 ≤ s.time) :
    execNonceExpire s = .next s.dropNonce := if_pos (by simp [hn, ht])

theorem execNonceExpire_of_kept (h : s.flag Fld.LID_OWNER_CMD_nonce_valid = false ∨ s.time < s.nonceTime + 10000000) :
    execNonceExpire s = .next s := by
  refine if_neg ?_
  rcases h with h | h
  · simp [h]
  · simp [Nat.not_le.2 h]

/-! ## Operations that need a challenge (12 R544 to R546) -/

variable {f : State → Option State}

theorem State.ownerOp_of_notTaken (h : s.fromPf a = false ∨ bitsOf v.toNat 0 4 ≠ op) : s.ownerOp a v.toNat op f = s := by
  refine if_pos ?_
  rcases h with h | h <;> simp [h]

theorem State.ownerOp_of_taken (hf : s.fromPf a = true) (ho : bitsOf v.toNat 0 4 = op) (hu : u = s.ownerWritten v.toNat) :
    s.ownerOp a v.toNat op f =
      if bitOf v.toNat 9 = false then u
      else if u.flag Fld.LID_STATUS_owner_locked then u.dropNonce.ownerError
      else if u.ownerAnswers op = false then u.dropNonce.ownerFail
      else (f (u.dropNonce.setTries 8)).elim (u.dropNonce.setTries 8).ownerError State.ownerDone := by
  unfold State.ownerOp
  rw [if_neg (by simp [hf, ho])]
  dsimp only
  rw [← State.ownerWritten, ← hu]
  simp only [Bool.not_eq_true']
  cases f (u.dropNonce.setTries 8) <;> rfl

/-- The response is right where slot 0 has a key, the nonce is valid now and the data words are the response under that key. -/
theorem State.ownerAnswers_eq_true_iff : u.ownerAnswers op = true ↔ u.slotEmpty 0 = false ∧ u.flag Fld.LID_OWNER_CMD_nonce_valid = true ∧
    u.time < u.nonceTime + 10000000 ∧ u.wordBytes Fld.LID_OWNER_DATA_data 16 = u.ownerResponse (keyBytes (u.keyOf 0) 64) op := by
  unfold State.ownerAnswers State.ownerKey
  cases u.slotEmpty 0 with
  | true => simp
  | false => simp [State.nonceValid, and_assoc]

/-- A failed operation costs a try; with none left the owner is locked. -/
theorem State.ownerFail_shows (u : State) : u.dropNonce.ownerFail.get Fld.KS_USE_use_left = (u.get Fld.KS_USE_use_left - 1) % 2 ^ 24 ∧
    u.dropNonce.ownerFail.get Fld.LID_OWNER_CMD_nonce_valid = 0 ∧ u.dropNonce.ownerFail.get Fld.LID_OWNER_CMD_error = 1 ∧
    (u.get Fld.KS_USE_use_left ≤ 1 → u.dropNonce.ownerFail.get Fld.LID_STATUS_owner_locked = 1) ∧
    (1 < u.get Fld.KS_USE_use_left → u.dropNonce.ownerFail.get Fld.LID_STATUS_owner_locked = u.get Fld.LID_STATUS_owner_locked) := by
  have huse : u.dropNonce.get Fld.KS_USE_use_left 0 = u.get Fld.KS_USE_use_left := u.get_set_field (by decide) _ _ _
  unfold State.ownerFail
  dsimp only
  rw [huse]
  split
  · next h0 =>
    simp (disch := decide) only [State.dropNonce, State.setTries, State.ownerError, State.get_set_field, State.get_set_same]
    exact ⟨rfl, rfl, rfl, fun _ => rfl, fun h => by omega⟩
  · next h0 =>
    simp (disch := decide) only [State.dropNonce, State.setTries, State.ownerError, State.get_set_field, State.get_set_same]
    exact ⟨rfl, rfl, rfl, fun h => by omega, fun _ => trivial⟩

theorem State.ownerFail_onlyFields (u : State) : u.onlyFields u.dropNonce.ownerFail [(Fld.LID_OWNER_CMD_nonce_valid, 0),
    (Fld.KS_USE_use_left, 0), (Fld.LID_OWNER_CMD_tries, 0), (Fld.LID_OWNER_CMD_error, 0), (Fld.LID_STATUS_owner_locked, 0)] := by
  have herror (n : Nat) : u.onlyFields (u.dropNonce.setTries n).ownerError [(Fld.LID_OWNER_CMD_nonce_valid, 0),
      (Fld.KS_USE_use_left, 0), (Fld.LID_OWNER_CMD_tries, 0), (Fld.LID_OWNER_CMD_error, 0), (Fld.LID_STATUS_owner_locked, 0)] :=
    State.onlyFields_set (State.onlyFields_set (State.onlyFields_set (State.onlyFields_set (u.onlyFields_refl _) (by simp) _) (by simp) _)
      (by simp) _) (by simp) _
  unfold State.ownerFail
  dsimp only
  split
  · exact State.onlyFields_set (herror _) (by simp) _
  · exact herror _

/-- What the three operations do once the response was right. -/
def State.unlockOf (s : State) : Option State := if s.confMode then none else some { s with run := { s.run with monitorUnlocked := true } }

/-- The fused version, advanced to the operand. -/
def State.svnAdvanced (s : State) : State := ({ s with fuses := { s.fuses with svn := max s.fuses.svn s.ownerArg } } : State).showFuses

def State.advanceOf (s : State) : Option State :=
  if s.ident.image.svn < s.ownerArg ∨ 64 < s.ownerArg then none else some s.svnAdvanced

/-- The active owner entry, retired; slot 0 emptied, its counter as the right response left it (log entry 140). -/
def State.released0 (s : State) : State :=
  { ((s.zeroSlot 0).setTries 8) with fuses := { s.fuses with
    owner := s.fuses.owner.set s.fuses.active
      { (s.fuses.owner[s.fuses.active]?).getD { cells := 0, programmed := true, retired := false } with retired := true } } }

def State.releaseOf (s : State) : Option State := if s.confMode then none else some s.released0.showFuses

theorem State.svnAdvanced_rest (w : State) : { w.svnAdvanced.ownerDone with regs := w.regs, fuses := w.fuses } = w := rfl

theorem State.showFuses_rest (w : State) : { w.showFuses.ownerDone with regs := w.regs } = w := rfl

theorem State.setTries_rest (w : State) (n : Nat) : { w.setTries n with regs := w.regs } = w := rfl

theorem State.zeroSlot_rest (w : State) (k : Nat) : { w.zeroSlot k with regs := w.regs, keys := w.keys } = w := rfl

theorem State.released0_rest (w : State) :
    { w.released0.showFuses.ownerDone with regs := w.regs, fuses := w.fuses, keys := w.keys } = w := by
  have htries := (w.zeroSlot 0).setTries_rest 8
  have hzeroed := w.zeroSlot_rest 0
  have hreleased : { w.released0 with regs := w.regs, fuses := w.fuses, keys := w.keys } = w := by
    unfold State.released0
    generalize (w.zeroSlot 0).setTries 8 = x at htries ⊢
    generalize w.zeroSlot 0 = y at htries hzeroed
    exact (congrArg (fun z : State => { z with regs := w.regs, fuses := w.fuses, keys := w.keys }) htries).trans
      (congrArg (fun z : State => { z with fuses := w.fuses }) hzeroed)
  exact (congrArg (fun z : State => { z with regs := w.regs, fuses := w.fuses, keys := w.keys }) w.released0.showFuses_rest).trans hreleased

theorem execMonitorUnlock_eq : execMonitorUnlock a v s = .next (s.ownerOp a v.toNat 1 State.unlockOf) := rfl

theorem execSvnAdvance_eq : execSvnAdvance a v s = .next (s.ownerOp a v.toNat 2 State.advanceOf) := rfl

theorem execOwnerRelease_eq : execOwnerRelease a v s = .next (s.ownerOp a v.toNat 3 State.releaseOf) := rfl

/-- A challenge that a go has spent with the right response: the tries stand at 8 again. -/
def State.answered (u : State) : State := u.dropNonce.setTries 8

/-- A right response lets the operation act or refuse. -/
theorem State.ownerOp_of_answered (hf : s.fromPf a = true) (ho : bitsOf v.toNat 0 4 = op) (hu : u = s.ownerWritten v.toNat)
    (hg : bitOf v.toNat 9 = true) (hl : u.flag Fld.LID_STATUS_owner_locked = false) (hr : u.ownerAnswers op = true) :
    s.ownerOp a v.toNat op f = (f u.answered).elim u.answered.ownerError State.ownerDone := by
  rw [State.ownerOp_of_taken hf ho hu, if_neg (by simp [hg]), if_neg (by simp [hl]), if_neg (by simp [hr])]
  rfl

theorem State.answered_onlyFields (u : State) : u.onlyFields u.answered
    [(Fld.LID_OWNER_CMD_nonce_valid, 0), (Fld.KS_USE_use_left, 0), (Fld.LID_OWNER_CMD_tries, 0)] :=
  State.onlyFields_set (State.onlyFields_set (State.onlyFields_set (u.onlyFields_refl _) (by simp) _) (by simp) _) (by simp) _

/-- The command's write, the nonce's end and the tries leave the operand as it was. -/
theorem State.answered_ownerArg (s : State) (v : Nat) : (s.ownerWritten v).answered.ownerArg = s.ownerArg := by
  have hwritten := s.ownerWritten_copies v
  have hanswered : (s.ownerWritten v).copiesBut (s.ownerWritten v).answered
      [Fld.LID_OWNER_CMD_nonce_valid, Fld.KS_USE_use_left, Fld.LID_OWNER_CMD_tries] :=
    State.copiesBut_of_fieldsBut (s.ownerWritten v).answered_onlyFields.1 (by simp)
  rw [State.ownerArg, State.get64, State.copiesBut_get hanswered (by decide), State.copiesBut_get hanswered (by decide),
    State.copiesBut_get hwritten (by decide), State.copiesBut_get hwritten (by decide)]
  rfl

theorem State.answered_rest (s : State) (v : Nat) : { (s.ownerWritten v).answered with regs := s.regs } = s := by
  have hanswered := (s.ownerWritten v).answered_onlyFields.2
  have hwritten := s.ownerWritten_rest v
  exact (congrArg (fun x : State => { x with regs := s.regs }) hanswered).trans hwritten

end

end Sys2Proof.Machine

/-! Burning an owner's secret, zeroizing and loading key slots, and what the owner's commands come to (12 R531, R543 to R554). -/

namespace Sys2Proof.Machine

/-! ## Burning an entry (12 R546) -/

/-- Entry `i` can be burnt: it exists, neither programmed nor retired. -/
def Fuses.isFree (f : Fuses) (i : Nat) : Bool :=
  match f.owner[i]? with
  | some e => !e.programmed && !e.retired
  | none => false

theorem Fuses.isFree_eq_true {f : Fuses} {i : Nat} {e : OwnerEntry} (he : f.owner[i]? = some e) (hp : e.programmed = false)
    (hr : e.retired = false) : f.isFree i = true := by
  rw [Fuses.isFree, he]
  simp [hp, hr]

/-- An entry among the first ones that are all used is not free. -/
theorem Fuses.isFree_eq_false {f : Fuses} {i n : Nat} (hi : i < n)
    (h : ∀ e ∈ f.owner.take n, e.programmed = true ∨ e.retired = true) : f.isFree i = false := by
  unfold Fuses.isFree
  cases he : f.owner[i]? with
  | none => rfl
  | some e =>
    have hmem : e ∈ f.owner.take n := List.mem_of_getElem? (by rw [List.getElem?_take, if_pos hi, he])
    rcases h e hmem with h | h <;> simp [h]

/-- An entry holds a key, and the registers show the fuses. -/
def State.burnt (u : State) (i : Nat) (key : BitVec 512) : State :=
  ({ u with fuses := { u.fuses with owner := u.fuses.owner.set i ⟨fuseCells i key, true, false⟩ } } : State).showFuses

section
variable {s u : State} {a : Agent} {v : Word32} {k : Nat}

theorem execOwnerProgram_of_notTaken (h : s.fromPf a = false ∨ bitsOf v.toNat 0 4 ≠ 0) : execOwnerProgram a v s = .next s := by
  refine if_pos ?_
  rcases h with h | h <;> simp [h]

theorem execOwnerProgram_of_taken (hf : s.fromPf a = true) (ho : bitsOf v.toNat 0 4 = 0) (hu : u = s.ownerWritten v.toNat) :
    execOwnerProgram a v s = if bitOf v.toNat 9 = false then .next u
      else if u.flag Fld.LID_STATUS_owner_locked = true ∨ u.fuses.active < 4 ∨ u.confMode = true then .next u.ownerError
      else match (List.range 4).find? u.fuses.isFree with
        | none => .next u.ownerError
        | some i => .next (u.burnt i (BitVec.ofNat 512 (beNat (u.wordBytes Fld.LID_OWNER_DATA_data 16)))).ownerDone := by
  unfold execOwnerProgram
  rw [if_neg (by simp [hf, ho])]
  dsimp only
  rw [← State.ownerWritten, ← hu]
  simp only [Bool.not_eq_true', Bool.or_eq_true, decide_eq_true_eq, or_assoc]
  rfl

theorem State.burnt_rest (u : State) (i : Nat) (key : BitVec 512) :
    { (u.burnt i key).ownerDone with regs := u.regs, fuses := u.fuses } = u := rfl

/-! ## Zeroization (12 R551, R553) -/

theorem execKsZero_of_other (hf : s.fromPf a = false) : execKsZero a v s = .next s := if_pos (by simp [hf])

theorem execKsZero_of_pf (hf : s.fromPf a = true) (hu : u = s.writeReg Fld.KS_ZERO_slot.reg 0 v.toNat) : execKsZero a v s = .next (
    if bitOf v.toNat 8 = false then u
    else if u.pfSlotOwner (bitsOf v.toNat 0 8) = none then u.set Fld.KS_ZERO_error 0 1
    else (u.zeroSlot (bitsOf v.toNat 0 8)).set Fld.KS_ZERO_done 0 1) := by
  unfold execKsZero
  rw [if_neg (by simp [hf])]
  dsimp only
  rw [← hu]
  simp only [Bool.not_eq_true', Option.isNone_iff_eq_none, apply_ite Host.Outcome.next]

theorem State.zeroSlot_get (u : State) (k : Nat) : (u.zeroSlot k).get Fld.KS_ATTR_state k = 0 ∧ (u.zeroSlot k).get Fld.KS_ATTR_class k = 0 ∧
    (u.zeroSlot k).get Fld.KS_USE_use_left k = 0 ∧ (u.zeroSlot k).get Fld.KS_ATTR_epoch k = u.get Fld.KS_ATTR_epoch k := by
  simp (disch := decide) only [State.zeroSlot, State.setAll_cons, State.setAll_nil, State.get_set_field, State.get_set_same]
  exact ⟨rfl, rfl, rfl, rfl⟩

theorem State.zeroSlot_cell (u : State) (k : Nat) : (u.zeroSlot k).cell k = KeyCell.empty ∧ ∀ j, j ≠ k → (u.zeroSlot k).cell j = u.cell j :=
  ⟨Sparse.get_set_same _ _ _ _, fun _ hj => Sparse.get_set_apart _ _ _ hj _⟩

/-! ## Loading (12 R549, R553, R554) -/

theorem execKsLoad_of_other (hf : s.fromPf a = false) : execKsLoad a v s = .next s := if_pos (by simp [hf])

theorem execKsLoad_of_noGo (hf : s.fromPf a = true) (hg : bitOf v.toNat 16 = false) :
    execKsLoad a v s = .next (s.writeReg Fld.KS_LOAD_CMD_slot.reg 0 v.toNat) := by
  refine (if_neg (by simp [hf])).trans ((if_pos (by simp [hg])).trans ?_)
  rfl

/-- A go's refusals in the order of their checks, over the state whose data words are cleared. -/
theorem execKsLoad_of_go (hf : s.fromPf a = true) (hg : bitOf v.toNat 16 = true) (hu : u = s.writeReg Fld.KS_LOAD_CMD_slot.reg 0 v.toNat) :
    execKsLoad a v s = .next (
      if bitsOf v.toNat 8 3 = 0 ∨ 6 ≤ bitsOf v.toNat 8 3 ∨ bitsOf v.toNat 12 4 ≠ 0 ∨ bitsOf v.toNat 23 9 ≠ 0 then u.clearLoadData.loadError 3
      else if bitsOf v.toNat 0 8 < 33 then u.clearLoadData.loadError 4
      else if bitsOf v.toNat 8 3 ≠ 1 ∨ u.clearLoadData.get Fld.KS_LOAD_USE_use_left 0 ≠ 0xFFFFFF ∨
          u.clearLoadData.pfSlotOwner (bitsOf v.toNat 0 8) = none then u.clearLoadData.loadError 1
      else if u.clearLoadData.slotEmpty (bitsOf v.toNat 0 8) = false then u.clearLoadData.loadError 2
      else (u.clearLoadData.loadKey (bitsOf v.toNat 0 8) 1 (keyFrom (u.wordBytes Fld.KS_LOAD_DATA_data 24)) (bitOf v.toNat 11) false
        0xFFFFFF).set Fld.KS_LOAD_CMD_done 0 1) := by
  unfold execKsLoad
  rw [if_neg (by simp [hf])]
  dsimp only
  rw [← hu, if_neg (by simp [hg])]
  simp only [Bool.not_eq_true', Option.isNone_iff_eq_none, apply_ite Host.Outcome.next]
  rfl

theorem State.loadKey_get (w : State) (k cls : Nat) (key : BitVec 768) (expire lid : Bool) (use : Nat) :
    (w.loadKey k cls key expire lid use).get Fld.KS_ATTR_state k = 1 ∧ (w.loadKey k cls key expire lid use).get Fld.KS_ATTR_class k = cls % 8 ∧
    (w.loadKey k cls key expire lid use).get Fld.KS_USE_use_left k = use % 2 ^ 24 ∧
    (w.loadKey k cls key expire lid use).get Fld.KS_ATTR_expire_reset k = bit expire ∧
    (w.loadKey k cls key expire lid use).get Fld.KS_ATTR_lid k = bit lid := by
  simp (disch := decide) only [State.loadKey, State.setAll_cons, State.setAll_nil, State.get_set_field, State.get_set_same]
  exact ⟨rfl, rfl, rfl, bit_mod_two _, bit_mod_two _⟩

/-- A loaded slot holds its key under the mask in force. -/
theorem State.loadKey_keyOf (w : State) (k cls : Nat) (key : BitVec 768) (expire lid : Bool) (use : Nat) :
    (w.loadKey k cls key expire lid use).keyOf k = key ∧
    ∀ j, j ≠ k → (w.loadKey k cls key expire lid use).cell j = w.cell j := by
  have hcell : (w.loadKey k cls key expire lid use).cell k = { stored := key ^^^ w.keyMask, mask := w.keyMask, bundle := none } :=
    Sparse.get_set_same _ _ _ _
  refine ⟨?_, fun _ hj => Sparse.get_set_apart _ _ _ hj _⟩
  rw [State.keyOf, hcell, BitVec.xor_assoc, BitVec.xor_self, BitVec.xor_zero]

theorem State.loadKey_rest (w : State) (k cls : Nat) (key : BitVec 768) (expire lid : Bool) (use : Nat) :
    { w.loadKey k cls key expire lid use with regs := w.regs, keys := w.keys } = w := rfl

theorem State.clearLoadData_rest (u : State) : { u.clearLoadData with regs := u.regs } = u := State.foldl_set_rest u _ (fun _ => 0) _

end

/-- A bit as the number of the one bit it is. -/
theorem bit_bitOf (n b : Nat) : bit (bitOf n b) = bitsOf n b 1 := by
  rcases Nat.mod_two_eq_zero_or_one (n / 2 ^ b) with h | h <;> simp [bit, bitOf, bitsOf, h]

end Sys2Proof.Machine

/-! What the owner's operations and the key slots' commands come to (12 R543 to R554). -/

namespace Sys2Proof.Machine

section
variable {s u : State} {a : Agent} {v : Word32}

/-- What a write that is not the PF's changes: nothing. -/
theorem ownerAndKeySlots_of_other (hf : s.fromPf a = false) : exec (.ownerChallenge a v) s = .next s ∧ exec (.ownerProgram a v) s = .next s ∧
    exec (.monitorUnlock a v) s = .next s ∧ exec (.svnAdvance a v) s = .next s ∧ exec (.ownerRelease a v) s = .next s ∧
    exec (.ksLoad a v) s = .next s ∧ exec (.ksZero a v) s = .next s :=
  ⟨if_pos (by simp [hf]), execOwnerProgram_of_notTaken (.inl hf), congrArg _ (State.ownerOp_of_notTaken (.inl hf)),
    congrArg _ (State.ownerOp_of_notTaken (.inl hf)), congrArg _ (State.ownerOp_of_notTaken (.inl hf)), execKsLoad_of_other hf,
    execKsZero_of_other hf⟩

/-- A challenge, as the statement asks for it. -/
theorem ownerChallenge_draws (hf : s.fromPf a = true) (hc : bitOf v.toNat 8 = true) :
    ∃ t, exec (.ownerChallenge a v) s = .next t ∧ t.get Fld.LID_OWNER_CMD_nonce_valid = 1 ∧
      t.wordBytes Fld.LID_OWNER_NONCE_nonce 16 = bytes512 (Config.random s.freeCounter) ∧ t.nonceTime = s.time ∧
      { t with regs := s.regs, freeCounter := s.freeCounter, nonceTime := s.nonceTime } = s ∧ t.freeCounter = s.freeCounter + 1 ∧
      s.copiesBut t (fieldsOf Fld.LID_OWNER_CMD_op.reg ++ [Fld.LID_OWNER_NONCE_nonce]) := by
  have hcopies := s.ownerWritten_copies v.toNat
  have hrest := s.ownerWritten_rest v.toNat
  have hcounter : (s.ownerWritten v.toNat).freeCounter = s.freeCounter := (congrArg State.freeCounter hrest :)
  have htime : (s.ownerWritten v.toNat).time = s.time := State.time_of_copies hcopies (by decide)
  refine ⟨_, execOwnerChallenge_of_draw hf hc, State.get_set_same _ _ _ _, ?_, ?_, ?_, ?_, ?_⟩
  · rw [State.wordBytes_congr (fun i => State.get_set_field _ (by decide) _ _ _), State.nonceShown_bytes, State.randomValue, hcounter]
  · exact (congrArg State.nonceTime (s.ownerWritten v.toNat).nonceShown_rest).trans htime
  · have hshown := (s.ownerWritten v.toNat).nonceShown_rest
    generalize (s.ownerWritten v.toNat).nonceShown = t at hshown ⊢
    exact (congrArg (fun x : State => { x with regs := s.regs, freeCounter := s.freeCounter, nonceTime := s.nonceTime }) hshown).trans
      (congrArg (fun x : State => { x with freeCounter := s.freeCounter, nonceTime := s.nonceTime }) hrest)
  · exact (congrArg State.freeCounter (s.ownerWritten v.toNat).nonceShown_rest).trans (congrArg (· + 1) hcounter)
  · rw [fieldsOf_ownerCmd]
    exact State.copiesBut_set (State.copiesBut_trans (State.copiesBut_mono hcopies (fun f hg => List.mem_append_left _ hg))
      (State.copiesBut_mono (State.nonceShown_copies _) (fun f hg => List.mem_append_right _ hg))) (by decide) _ _

/-! ## Operations refused or failed -/

theorem State.ownerAnswers_of_wrong {op : Nat} (h : u.slotEmpty 0 = true ∨ u.flag Fld.LID_OWNER_CMD_nonce_valid = false ∨
    u.nonceTime + 10000000 ≤ u.time ∨ u.wordBytes Fld.LID_OWNER_DATA_data 16 ≠ u.ownerResponse (keyBytes (u.keyOf 0) 64) op) :
    u.ownerAnswers op = false := by
  rw [Bool.eq_false_iff]
  intro ha
  obtain ⟨hempty, hvalid, htime, hbytes⟩ := State.ownerAnswers_eq_true_iff.1 ha
  rcases h with h | h | h | h
  · rw [hempty] at h
    cases h
  · rw [hvalid] at h
    cases h
  · omega
  · exact h hbytes

/-- A go without the right response: nothing but the nonce's end while locked, else a try. -/
theorem State.ownerOp_unanswered (hf : s.fromPf a = true) {op : Nat} (f : State → Option State) (ho : bitsOf v.toNat 0 4 = op)
    (hu : u = s.ownerWritten v.toNat) :
    (bitOf v.toNat 9 = false → s.ownerOp a v.toNat op f = u) ∧
    (bitOf v.toNat 9 = true →
      (u.flag Fld.LID_STATUS_owner_locked = true → s.ownerOp a v.toNat op f =
        (u.set Fld.LID_OWNER_CMD_nonce_valid 0 0).set Fld.LID_OWNER_CMD_error 0 1) ∧
      (u.flag Fld.LID_STATUS_owner_locked = false → u.ownerAnswers op = false → s.ownerOp a v.toNat op f = u.dropNonce.ownerFail)) := by
  rw [State.ownerOp_of_taken hf ho hu]
  refine ⟨fun hg => if_pos hg, fun hg => ⟨fun hl => ?_, fun hl hr => ?_⟩⟩
  · rw [if_neg (by simp [hg]), if_pos hl]
    rfl
  · rw [if_neg (by simp [hg]), if_neg (by simp [hl]), if_pos hr]

/-! ## Operations performed -/

/-- A right response to MONITOR_UNLOCK. -/
theorem monitorUnlock_of_answered (hf : s.fromPf a = true) (ho : bitsOf v.toNat 0 4 = 1) (hu : u = s.ownerWritten v.toNat)
    (hg : bitOf v.toNat 9 = true) (hl : u.flag Fld.LID_STATUS_owner_locked = false) (hr : u.ownerAnswers 1 = true) :
    (u.answered.flag Fld.LID_STATUS_conf_mode = true → exec (.monitorUnlock a v) s = .next (u.answered.set Fld.LID_OWNER_CMD_error 0 1)) ∧
    (u.answered.flag Fld.LID_STATUS_conf_mode = false → exec (.monitorUnlock a v) s =
      .next (State.set { u.answered with run := { u.answered.run with monitorUnlocked := true } } Fld.LID_OWNER_CMD_done 0 1)) := by
  have hexec : exec (.monitorUnlock a v) s = .next ((State.unlockOf u.answered).elim u.answered.ownerError State.ownerDone) :=
    congrArg _ (State.ownerOp_of_answered hf ho hu hg hl hr)
  rw [hexec]
  unfold State.unlockOf State.confMode
  refine ⟨fun hc => ?_, fun hc => ?_⟩
  · rw [if_pos hc]
    rfl
  · rw [if_neg (by simp [hc])]
    rfl

/-- A right response to SVN_ADVANCE. -/
theorem svnAdvance_of_answered (hf : s.fromPf a = true) (ho : bitsOf v.toNat 0 4 = 2) (hu : u = s.ownerWritten v.toNat)
    (hg : bitOf v.toNat 9 = true) (hl : u.flag Fld.LID_STATUS_owner_locked = false) (hr : u.ownerAnswers 2 = true) :
    (s.ident.image.svn < s.ownerArg ∨ 64 < s.ownerArg → exec (.svnAdvance a v) s = .next (u.answered.set Fld.LID_OWNER_CMD_error 0 1)) ∧
    (s.ownerArg ≤ s.ident.image.svn → s.ownerArg ≤ 64 → ∃ t, exec (.svnAdvance a v) s = .next t ∧
      t.fuses = { s.fuses with svn := max s.fuses.svn s.ownerArg } ∧ t.get Fld.LID_OWNER_CMD_done = 1 ∧
      { t with regs := s.regs, fuses := s.fuses } = s) := by
  have hexec : exec (.svnAdvance a v) s = .next ((State.advanceOf u.answered).elim u.answered.ownerError State.ownerDone) :=
    congrArg _ (State.ownerOp_of_answered hf ho hu hg hl hr)
  have hrest : { u.answered with regs := s.regs } = s := hu ▸ s.answered_rest v.toNat
  have harg : u.answered.ownerArg = s.ownerArg := hu ▸ s.answered_ownerArg v.toNat
  have hident : u.answered.ident = s.ident := (congrArg State.ident hrest :)
  have hfuses : u.answered.fuses = s.fuses := (congrArg State.fuses hrest :)
  rw [hexec]
  have hallowed : State.advanceOf u.answered = if s.ident.image.svn < s.ownerArg ∨ 64 < s.ownerArg then none else some u.answered.svnAdvanced := by
    rw [← harg, ← hident]
    rfl
  rw [hallowed]
  refine ⟨fun h => ?_, fun h1 h2 => ?_⟩
  · rw [if_pos h]
    rfl
  · rw [if_neg (by omega)]
    have hfused : u.answered.svnAdvanced.ownerDone.fuses = { u.answered.fuses with svn := max u.answered.fuses.svn u.answered.ownerArg } := rfl
    rw [hfuses, harg] at hfused
    refine ⟨u.answered.svnAdvanced.ownerDone, rfl, hfused, State.get_set_same _ _ _ _, ?_⟩
    exact (congrArg (fun x : State => { x with regs := s.regs, fuses := s.fuses }) u.answered.svnAdvanced_rest).trans
      (congrArg (fun x : State => { x with fuses := s.fuses }) hrest)

theorem State.released0_get (w : State) : w.released0.get Fld.KS_ATTR_state = 0 ∧ w.released0.get Fld.KS_ATTR_class = 0 ∧
    w.released0.get Fld.KS_USE_use_left = 8 ∧ w.released0.get Fld.LID_OWNER_CMD_tries = 8 := by
  have hregs : w.released0.regs = ((w.zeroSlot 0).setTries 8).regs := rfl
  simp only [State.get_of_regs hregs]
  simp (disch := decide) only [State.setTries, State.get_set_field, State.get_set_same]
  obtain ⟨hstate, hclass, -, -⟩ := w.zeroSlot_get 0
  exact ⟨hstate, hclass, rfl, rfl⟩

theorem State.showFuses_copies (w : State) : w.copiesBut w.showFuses [Fld.LID_STATUS_owner_set, Fld.LID_STATUS_owner_entry, Fld.LID_SVN_fused_svn] :=
  State.copiesBut_setAll (w.copiesBut_refl _) 0 _ (by simp)

/-- A right response to OWNER_RELEASE. -/
theorem ownerRelease_of_answered (hf : s.fromPf a = true) (ho : bitsOf v.toNat 0 4 = 3) (hu : u = s.ownerWritten v.toNat)
    (hg : bitOf v.toNat 9 = true) (hl : u.flag Fld.LID_STATUS_owner_locked = false) (hr : u.ownerAnswers 3 = true) :
    (u.answered.flag Fld.LID_STATUS_conf_mode = true → exec (.ownerRelease a v) s = .next (u.answered.set Fld.LID_OWNER_CMD_error 0 1)) ∧
    (u.answered.flag Fld.LID_STATUS_conf_mode = false → ∃ t, exec (.ownerRelease a v) s = .next t ∧
      (∀ e, s.fuses.owner[s.fuses.active]? = some e → t.fuses.owner[s.fuses.active]? = some { e with retired := true }) ∧
      (∀ i, i ≠ s.fuses.active → t.fuses.owner[i]? = s.fuses.owner[i]?) ∧ t.cell 0 = KeyCell.empty ∧ t.get Fld.KS_ATTR_state = 0 ∧
      t.get Fld.KS_ATTR_class = 0 ∧ t.get Fld.KS_USE_use_left = 8 ∧ t.get Fld.LID_OWNER_CMD_tries = 8 ∧
      t.get Fld.LID_OWNER_CMD_done = 1 ∧ { t with regs := s.regs, fuses := s.fuses, keys := s.keys } = s) := by
  have hexec : exec (.ownerRelease a v) s = .next ((State.releaseOf u.answered).elim u.answered.ownerError State.ownerDone) :=
    congrArg _ (State.ownerOp_of_answered hf ho hu hg hl hr)
  have hrest : { u.answered with regs := s.regs } = s := hu ▸ s.answered_rest v.toNat
  have hfuses : u.answered.fuses = s.fuses := (congrArg State.fuses hrest :)
  rw [hexec]
  unfold State.releaseOf State.confMode
  refine ⟨fun hc => ?_, fun hc => ?_⟩
  · rw [if_pos hc]
    rfl
  · rw [if_neg (by simp [hc])]
    obtain ⟨hstate, hclass, huse, htries⟩ := u.answered.released0_get
    have hcopies : u.answered.released0.copiesBut u.answered.released0.showFuses.ownerDone
        [Fld.LID_STATUS_owner_set, Fld.LID_STATUS_owner_entry, Fld.LID_SVN_fused_svn, Fld.LID_OWNER_CMD_done] :=
      State.copiesBut_set (State.copiesBut_mono (State.showFuses_copies _) (by decide)) (by decide) _ _
    have howner : u.answered.released0.showFuses.ownerDone.fuses.owner = s.fuses.owner.set s.fuses.active
        { (s.fuses.owner[s.fuses.active]?).getD { cells := 0, programmed := true, retired := false } with retired := true } := by
      rw [← hfuses]
      rfl
    have hcell : u.answered.released0.showFuses.ownerDone.cell 0 = KeyCell.empty := (u.answered.zeroSlot_cell 0).1
    refine ⟨u.answered.released0.showFuses.ownerDone, rfl, fun e he => ?_, fun i hi => ?_, hcell, (State.copiesBut_get hcopies (by decide) _).trans hstate,
      (State.copiesBut_get hcopies (by decide) _).trans hclass, (State.copiesBut_get hcopies (by decide) _).trans huse,
      (State.copiesBut_get hcopies (by decide) _).trans htries, State.get_set_same _ _ _ _,
      (congrArg (fun x : State => { x with regs := s.regs, fuses := s.fuses, keys := s.keys }) u.answered.released0_rest).trans
        (congrArg (fun x : State => { x with fuses := s.fuses, keys := s.keys }) hrest)⟩
    · obtain ⟨hlt, -⟩ := List.getElem?_eq_some_iff.1 he
      refine (congrArg (·[s.fuses.active]?) howner).trans ((List.getElem?_set_self hlt).trans ?_)
      rw [he]
      rfl
    · exact (congrArg (·[i]?) howner).trans (List.getElem?_set_ne (Ne.symm hi))

/-! ## PROGRAM -/

theorem ownerProgram_of_refused (hf : s.fromPf a = true) (ho : bitsOf v.toNat 0 4 = 0) (hu : u = s.ownerWritten v.toNat)
    (hg : bitOf v.toNat 9 = true) (h : u.flag Fld.LID_STATUS_owner_locked = true ∨ u.fuses.active < 4 ∨
      u.flag Fld.LID_STATUS_conf_mode = true ∨ (∀ e ∈ u.fuses.owner.take 4, e.programmed = true ∨ e.retired = true)) :
    execOwnerProgram a v s = .next (u.set Fld.LID_OWNER_CMD_error 0 1) := by
  rw [execOwnerProgram_of_taken hf ho hu, if_neg (by simp [hg])]
  split
  · rfl
  · next hn =>
    have hused : ∀ e ∈ u.fuses.owner.take 4, e.programmed = true ∨ e.retired = true := by
      rcases h with h | h | h | h
      · exact absurd (.inl h) hn
      · exact absurd (.inr (.inl h)) hn
      · exact absurd (.inr (.inr h)) hn
      · exact h
    have hnone : (List.range 4).find? u.fuses.isFree = none :=
      List.find?_eq_none.2 (fun i hi => by rw [Fuses.isFree_eq_false (List.mem_range.1 hi) hused]; exact Bool.false_ne_true)
    rw [hnone]
    rfl

theorem ownerProgram_of_free (hf : s.fromPf a = true) (ho : bitsOf v.toNat 0 4 = 0) (hu : u = s.ownerWritten v.toNat)
    (hg : bitOf v.toNat 9 = true) {i : Nat} {e : OwnerEntry} (hl : u.flag Fld.LID_STATUS_owner_locked = false) (ha : 4 ≤ u.fuses.active)
    (hc : u.flag Fld.LID_STATUS_conf_mode = false) (hi : i < 4) (he : u.fuses.owner[i]? = some e) (hp : e.programmed = false)
    (hr : e.retired = false) (hused : ∀ x ∈ u.fuses.owner.take i, x.programmed = true ∨ x.retired = true) :
    execOwnerProgram a v s = .next (u.burnt i (BitVec.ofNat 512 (beNat (u.wordBytes Fld.LID_OWNER_DATA_data 16)))).ownerDone := by
  have hfind : (List.range 4).find? u.fuses.isFree = some i := List.find?_range_eq_some.2
    ⟨Fuses.isFree_eq_true he hp hr, List.mem_range.2 hi, fun j hj => by rw [Fuses.isFree_eq_false hj hused]; rfl⟩
  have hopen : ¬ (u.flag Fld.LID_STATUS_owner_locked = true ∨ u.fuses.active < 4 ∨ u.confMode = true) := by
    simp [hl, ha, State.confMode, hc]
  rw [execOwnerProgram_of_taken hf ho hu, if_neg (by simp [hg]), if_neg hopen, hfind]

/-! ## Key slots -/

/-- A slot the PF may manage is zeroized. -/
theorem ksZero_of_owned (hf : s.fromPf a = true) (hu : u = s.writeReg Fld.KS_ZERO_slot.reg 0 v.toNat) (hg : bitOf v.toNat 8 = true)
    (ho : u.pfSlotOwner (bitsOf v.toNat 0 8) ≠ none) :
    ∃ t, exec (.ksZero a v) s = .next t ∧ t.cell (bitsOf v.toNat 0 8) = KeyCell.empty ∧
      t.get Fld.KS_ATTR_state (bitsOf v.toNat 0 8) = 0 ∧ t.get Fld.KS_ATTR_class (bitsOf v.toNat 0 8) = 0 ∧
      t.get Fld.KS_ATTR_epoch (bitsOf v.toNat 0 8) = u.get Fld.KS_ATTR_epoch (bitsOf v.toNat 0 8) ∧
      t.get Fld.KS_ZERO_done = 1 ∧ (∀ j, j ≠ bitsOf v.toNat 0 8 → t.cell j = s.cell j) ∧ { t with regs := s.regs, keys := s.keys } = s := by
  have hexec : execKsZero a v s = .next ((u.zeroSlot (bitsOf v.toNat 0 8)).set Fld.KS_ZERO_done 0 1) := by
    rw [execKsZero_of_pf hf hu, if_neg (by simp [hg]), if_neg ho]
  have hwritten : { u with regs := s.regs } = s := hu ▸ (s.writeFields_onlyFields 0 v.toNat (fieldsOf Fld.KS_ZERO_slot.reg)).2
  have hkeys : u.keys = s.keys := (congrArg State.keys hwritten :)
  obtain ⟨hstate, hclass, -, hepoch⟩ := u.zeroSlot_get (bitsOf v.toNat 0 8)
  obtain ⟨hcell, hother⟩ := u.zeroSlot_cell (bitsOf v.toNat 0 8)
  refine ⟨_, hexec, hcell, (State.get_set_field _ (by decide) _ _ _).trans hstate, (State.get_set_field _ (by decide) _ _ _).trans hclass,
    (State.get_set_field _ (by decide) _ _ _).trans hepoch, State.get_set_same _ _ _ _, fun j hj => (hother j hj).trans ?_, ?_⟩
  · rw [State.cell, State.cell, hkeys]
  · exact (congrArg (fun x : State => { x with regs := s.regs, keys := s.keys }) (u.zeroSlot_rest (bitsOf v.toNat 0 8)) :).trans
      (congrArg (fun x : State => { x with keys := s.keys }) hwritten)

/-- Clearing the load's data words changes nothing but registers of a state that differs from another in registers only. -/
theorem State.clearLoadData_regs (hu : { u with regs := s.regs } = s) : { u.clearLoadData with regs := s.regs } = s := by
  have hcleared := u.clearLoadData_rest
  generalize u.clearLoadData = w at hcleared ⊢
  exact (congrArg (fun x : State => { x with regs := s.regs }) hcleared :).trans hu

/-- An empty slot of a partition takes the memory key; `w` is the state whose data words are cleared. -/
theorem ksLoad_of_cleared {w : State} {key : BitVec 768} (hw : { w with regs := s.regs } = s)
    (hexec : execKsLoad a v s = .next ((w.loadKey (bitsOf v.toNat 0 8) 1 key (bitOf v.toNat 11) false 0xFFFFFF).set Fld.KS_LOAD_CMD_done 0 1)) :
    ∃ t, exec (.ksLoad a v) s = .next t ∧ t.keyOf (bitsOf v.toNat 0 8) = key ∧
      t.get Fld.KS_ATTR_state (bitsOf v.toNat 0 8) = 1 ∧ t.get Fld.KS_ATTR_class (bitsOf v.toNat 0 8) = 1 ∧
      t.get Fld.KS_USE_use_left (bitsOf v.toNat 0 8) = 0xFFFFFF ∧ t.get Fld.KS_ATTR_expire_reset (bitsOf v.toNat 0 8) = bitsOf v.toNat 11 1 ∧
      t.get Fld.KS_LOAD_CMD_done = 1 ∧ (∀ j, j ≠ bitsOf v.toNat 0 8 → t.cell j = s.cell j) ∧ { t with regs := s.regs, keys := s.keys } = s := by
  have hkeys : w.keys = s.keys := (congrArg State.keys hw :)
  obtain ⟨hstate, hclass, huse, hexpire, -⟩ := w.loadKey_get (bitsOf v.toNat 0 8) 1 key (bitOf v.toNat 11) false 0xFFFFFF
  obtain ⟨hkey, hother⟩ := w.loadKey_keyOf (bitsOf v.toNat 0 8) 1 key (bitOf v.toNat 11) false 0xFFFFFF
  refine ⟨_, hexec, hkey, (State.get_set_field _ (by decide) _ _ _).trans hstate, (State.get_set_field _ (by decide) _ _ _).trans hclass,
    (State.get_set_field _ (by decide) _ _ _).trans huse, (State.get_set_field _ (by decide) _ _ _).trans (hexpire.trans (bit_bitOf _ _)),
    State.get_set_same _ _ _ _, fun j hj => (hother j hj).trans ?_, ?_⟩
  · rw [State.cell, State.cell, hkeys]
  · exact ((congrArg (fun x : State => { x with regs := s.regs, keys := s.keys }) (w.loadKey_rest (bitsOf v.toNat 0 8) 1
      key (bitOf v.toNat 11) false 0xFFFFFF) :).trans (congrArg (fun x : State => { x with keys := s.keys }) hw) :)

end

/-- Settles O56: each command by its own lemma; an operation's response is right or wrong before it acts. -/
theorem ownerAndKeySlotCommands : Obligations.OwnerAndKeySlotCommands := by
  intro s a v
  refine ⟨ownerAndKeySlots_of_other, fun h => execOwnerProgram_of_notTaken (.inr h), fun h => congrArg _ (State.ownerOp_of_notTaken (.inr h)),
    fun h => congrArg _ (State.ownerOp_of_notTaken (.inr h)), fun h => congrArg _ (State.ownerOp_of_notTaken (.inr h)),
    fun hn ht => ⟨_, execNonceExpire_of_due hn ht, State.get_set_same _ _ _ _, s.set_onlyFields _ _ _⟩, execNonceExpire_of_kept,
    fun hf => ⟨ownerChallenge_draws hf, execOwnerChallenge_of_write hf, fun u hu => ⟨hu ▸ s.ownerWritten_onlyFields v.toNat, ?_, ?_, ?_, ?_⟩⟩,
    fun hf k hk => ?_, fuseValue_fuseCells⟩
  case refine_1 =>
    have hunanswered : ∀ (op : Nat) (c : Instr) (f : State → Option State), exec c s = .next (s.ownerOp a v.toNat op f) →
        bitsOf v.toNat 0 4 = op → (bitOf v.toNat 9 = false → exec c s = .next u) ∧ (bitOf v.toNat 9 = true →
          (u.flag Fld.LID_STATUS_owner_locked = true → exec c s = .next
            ((u.set Fld.LID_OWNER_CMD_nonce_valid 0 0).set Fld.LID_OWNER_CMD_error 0 1)) ∧
          (u.flag Fld.LID_STATUS_owner_locked = false → u.ownerAnswers op = false → exec c s = .next u.dropNonce.ownerFail)) := by
      intro op c f hc ho
      obtain ⟨hnogo, hgo⟩ := State.ownerOp_unanswered hf f ho hu
      exact ⟨fun hg => hc.trans (congrArg _ (hnogo hg)), fun hg => ⟨fun hl => hc.trans (congrArg _ ((hgo hg).1 hl)),
        fun hl hr => hc.trans (congrArg _ ((hgo hg).2 hl hr))⟩⟩
    have hcases : ∀ e ∈ [(1, Instr.monitorUnlock a v), (2, Instr.svnAdvance a v), (3, Instr.ownerRelease a v)],
        ∃ f, exec e.2 s = .next (s.ownerOp a v.toNat e.1 f) := by
      simp only [List.forall_mem_cons]
      exact ⟨⟨_, execMonitorUnlock_eq⟩, ⟨_, execSvnAdvance_eq⟩, ⟨_, execOwnerRelease_eq⟩, by simp⟩
    intro e he ho
    obtain ⟨f, hc⟩ := hcases e he
    obtain ⟨hnogo, hgo⟩ := hunanswered e.1 e.2 f hc ho
    refine ⟨hnogo, fun hg => ⟨(hgo hg).1, fun hl hr => ⟨_, (hgo hg).2 hl (State.ownerAnswers_of_wrong hr), ?_⟩⟩⟩
    obtain ⟨huse, hvalid, herror, hlocked, hopen⟩ := u.ownerFail_shows
    exact ⟨huse, hvalid, herror, hlocked, hopen, u.ownerFail_onlyFields⟩
  case refine_2 =>
    intro w key hw hkey hg hl hempty hvalid htime
    have hw : w = u.answered := hw
    subst hw hkey
    have hright {op : Nat} (h : u.wordBytes Fld.LID_OWNER_DATA_data 16 = u.ownerResponse (keyBytes (u.keyOf 0) 64) op) :
        u.ownerAnswers op = true := State.ownerAnswers_eq_true_iff.2 ⟨hempty, hvalid, htime, h⟩
    exact ⟨fun ho hr => monitorUnlock_of_answered hf ho hu hg hl (hright hr), fun ho hr => svnAdvance_of_answered hf ho hu hg hl (hright hr),
      fun ho hr => ownerRelease_of_answered hf ho hu hg hl (hright hr)⟩
  case refine_3 => exact fun ho hg => (execOwnerProgram_of_taken hf ho hu).trans (if_pos hg)
  case refine_4 =>
    refine fun ho hg => ⟨ownerProgram_of_refused hf ho hu hg, fun i e hl ha hc hi he hp hr hused => ⟨_, ownerProgram_of_free hf ho hu hg hl ha hc hi
      he hp hr hused, State.get_set_same _ _ _ _, ?_⟩⟩
    have hrest : { u with regs := s.regs } = s := hu ▸ s.ownerWritten_rest v.toNat
    have hfuses : u.fuses = s.fuses := (congrArg State.fuses hrest :)
    obtain ⟨hlt, -⟩ := List.getElem?_eq_some_iff.1 he
    refine ⟨List.getElem?_set_self hlt, fun k hk => (List.getElem?_set_ne (Ne.symm hk)).trans (by rw [hfuses]), (congrArg Fuses.svn hfuses :), ?_⟩
    exact (congrArg (fun x : State => { x with regs := s.regs, fuses := s.fuses }) (u.burnt_rest i
      (BitVec.ofNat 512 (beNat (u.wordBytes Fld.LID_OWNER_DATA_data 16))))).trans
      (congrArg (fun x : State => { x with fuses := s.fuses }) hrest)
  case refine_5 =>
    subst hk
    refine ⟨fun u hu => ⟨fun hg => (execKsZero_of_pf hf hu).trans (congrArg _ (if_pos hg)), fun hg ho => ?_, fun hg ho => ksZero_of_owned hf hu hg ho⟩,
      fun u hu => ⟨fun hg => (execKsLoad_of_noGo hf hg).trans (congrArg _ hu.symm), fun w c hg hw hc => ?_⟩⟩
    · exact (execKsZero_of_pf hf hu).trans (congrArg _ ((if_neg (by simp [hg])).trans (if_pos ho)))
    · have hw : w = u.clearLoadData := hw
      subst hw hc
      have hexec := execKsLoad_of_go hf hg hu
      refine ⟨fun h => hexec.trans (congrArg _ (if_pos h)), fun h1 h5 h12 h23 => ?_⟩
      have hwritten : { u with regs := s.regs } = s := hu ▸ (s.writeFields_onlyFields 0 v.toNat (fieldsOf Fld.KS_LOAD_CMD_slot.reg)).2
      rw [if_neg (by omega)] at hexec
      refine ⟨fun hk => hexec.trans (congrArg _ (if_pos hk)), fun hk h => ?_, fun hk hc huse ho => ?_⟩
      · rw [if_neg (Nat.not_lt.2 hk)] at hexec
        exact hexec.trans (congrArg _ (if_pos h))
      · rw [if_neg (Nat.not_lt.2 hk), if_neg (by simp [hc, huse, ho])] at hexec
        refine ⟨fun h => hexec.trans (congrArg _ (if_pos ?_)), fun h => ksLoad_of_cleared (State.clearLoadData_regs hwritten) (hexec.trans (congrArg _ (if_neg ?_)))⟩
        · simpa [State.slotEmpty] using h
        · simp [State.slotEmpty, h]

end Sys2Proof.Machine

/-! SUPPORT. Seals: how a seal command is refused or begins to hash, how a hash ends, and how members install, break and free a seal
(15 R683 to R686, R697). -/

namespace Sys2Proof.Machine

section

variable {s u : State} {p : Fin 32} {b : Fin 64} {i : Fin 16} {v : Word32} {va n : Nat}

/-! ## The commands -/

/-- A host whose write of the command register is not taken changes nothing. -/
theorem execPgSeal_of_untaken (h : s.takes (.host p) (sealCmd b i) = false) : execPgSeal p b i v s = .next s := by
  simp [execPgSeal, h]

theorem execPgSealRelease_of_untaken (h : s.takes (.host p) (sealCmd b i) = false) : execPgSealRelease p b i v s = .next s := by
  simp [execPgSealRelease, h]

/-- A taken write of seal is refused in the order of log entry 106, or begins to hash. -/
theorem execPgSeal_of_taken (h : s.takes (.host p) (sealCmd b i) = true) (hu : u = s.mmioWrite (.host p) (sealCmd b i) v.toNat)
    (hr : u.sealRange b i = (va, n)) : execPgSeal p b i v s =
      if !bitOf v.toNat 0 then .next u
      else if n = 0 then .next (u.sealError b i 1)
      else if !u.sealable b va n then .next (u.sealError b i 2)
      else if u.sealState b i ≠ 0 then .next (u.sealError b i 3)
      else if u.hashing.isSome then .next (u.sealError b i 5)
      else .next { u.set Fld.PG_SEAL_CMD_state (b * 16 + i) 1 with sealGot := [] } := by
  simp only [execPgSeal, h, Bool.not_true, Bool.false_eq_true, if_false, ← hu, hr]

/-- A taken write of release frees a seal in use, here and elsewhere, and sets done. -/
theorem execPgSealRelease_of_taken (h : s.takes (.host p) (sealCmd b i) = true)
    (hu : u = s.mmioWrite (.host p) (sealCmd b i) v.toNat) : execPgSealRelease p b i v s =
      if !bitOf v.toNat 1 then .next u
      else .next (State.set (if u.sealState b i = 0 then u else (u.tellSeal b i (u.sealRange b i).1 0 (u.sealAt b i).digest).freeSeal b i)
        Fld.PG_SEAL_CMD_done (b * 16 + i) 1) := by
  simp only [execPgSealRelease, h, Bool.not_true, Bool.false_eq_true, if_false, ← hu]

/-- A seal command's error shows its code and changes nothing else. -/
theorem State.sealError_shows (s : State) (b i : Nat) {code : Nat} (hc : code < 8) :
    (s.sealError b i code).get Fld.PG_SEAL_CMD_error (b * 16 + i) = 1 ∧ (s.sealError b i code).get Fld.PG_SEAL_CMD_err_code (b * 16 + i) = code ∧
      s.onlyFields (s.sealError b i code) [(Fld.PG_SEAL_CMD_error, b * 16 + i), (Fld.PG_SEAL_CMD_err_code, b * 16 + i)] := by
  refine ⟨?_, ?_, State.onlyFields_set (State.onlyFields_set (s.onlyFields_refl _) (by simp) _) (by simp) _⟩
  · simp (disch := decide) only [State.sealError, State.setAll_cons, State.setAll_nil, State.get_set_field, State.get_set_same]
    rfl
  · simp (disch := decide) only [State.sealError, State.setAll_cons, State.setAll_nil, State.get_set_same]
    exact Nat.mod_eq_of_lt hc

/-- A seal is refused for no pages, a page that may not be sealed, an index in use, or while another hashes, in that order. -/
theorem pgSeal_refused (h : s.takes (.host p) (sealCmd b i) = true) (hu : u = s.mmioWrite (.host p) (sealCmd b i) v.toNat)
    (hr : u.sealRange b i = (va, n)) (hg : bitOf v.toNat 0 = true) {code : Nat}
    (hcode : (n = 0 ∧ code = 1) ∨ (n ≠ 0 ∧ u.sealable b va n = false ∧ code = 2) ∨
      (n ≠ 0 ∧ u.sealable b va n = true ∧ u.sealState b i ≠ 0 ∧ code = 3) ∨
      (n ≠ 0 ∧ u.sealable b va n = true ∧ u.sealState b i = 0 ∧ u.hashing ≠ none ∧ code = 5)) :
    execPgSeal p b i v s = .next (u.sealError b i code) ∧ code < 8 := by
  rw [execPgSeal_of_taken h hu hr, if_neg (by simp [hg])]
  obtain ⟨hn, rfl⟩ | ⟨hn, hs, rfl⟩ | ⟨hn, hs, hf, rfl⟩ | ⟨hn, hs, hf, hh, rfl⟩ := hcode
  · exact ⟨if_pos hn, by omega⟩
  · exact ⟨by rw [if_neg hn, if_pos (by simp [hs])], by omega⟩
  · exact ⟨by rw [if_neg hn, if_neg (by simp [hs]), if_pos hf], by omega⟩
  · exact ⟨by rw [if_neg hn, if_neg (by simp [hs]), if_neg (not_not_intro hf), if_pos (Option.isSome_iff_ne_none.2 hh)], by omega⟩

/-- A range that may be sealed, at a FREE index, begins to hash. -/
theorem pgSeal_hashes (h : s.takes (.host p) (sealCmd b i) = true) (hu : u = s.mmioWrite (.host p) (sealCmd b i) v.toNat)
    (hr : u.sealRange b i = (va, n)) (hg : bitOf v.toNat 0 = true) (hn : n ≠ 0) (hs : u.sealable b va n = true)
    (hf : u.sealState b i = 0) (hh : u.hashing = none) :
    execPgSeal p b i v s = .next { u.set Fld.PG_SEAL_CMD_state (b * 16 + i) 1 with sealGot := [] } := by
  rw [execPgSeal_of_taken h hu hr, if_neg (by simp [hg]), if_neg hn, if_neg (by simp [hs]), if_neg (not_not_intro hf), if_neg (by simp [hh])]

end

/-! ## Freeing, installing and breaking -/

/-- A freed seal is FREE and none of its segment tags is left: they read TAINTED. -/
theorem State.freeSeal_shows (s : State) (b : Fin 64) (i : Fin 16) :
    (s.freeSeal b i).sealState b i = 0 ∧ (∀ e ∈ (s.freeSeal b i).segTags, e.2 ≠ 2 + 16 * b.val + i.val) ∧
      (∀ e ∈ s.segTags, (e.1, if e.2 = 2 + 16 * b.val + i.val then 1 else e.2) ∈ (s.freeSeal b i).segTags) ∧
      s.fieldsBut (s.freeSeal b i) [(Fld.PG_SEAL_CMD_state, b.val * 16 + i.val), (Fld.PG_SEAL_CMD_origin, b.val * 16 + i.val)] ∧
      { s.freeSeal b i with regs := s.regs, seals := s.seals, segTags := s.segTags } = s := by
  refine ⟨?_, fun e he => ?_, fun e he => List.mem_map.2 ⟨e, he, ?_⟩,
    State.fieldsBut_set (State.fieldsBut_set (s.fieldsBut_refl _) (by simp) _) (by simp) _, rfl⟩
  · show (s.setAll _ _).get _ _ = 0
    simp (disch := decide) only [State.setAll_cons, State.setAll_nil, State.get_set_field, State.get_set_same]
    rfl
  · obtain ⟨d, -, rfl⟩ := List.mem_map.1 he
    split
    · show 1 ≠ _
      omega
    · assumption
  · split <;> rfl

/-- A broken seal is BROKEN. -/
theorem State.breakSeal_sealState (s : State) (b i : Nat) : (s.breakSeal b i).sealState b i = 3 := State.get_set_same _ _ _ _

/-- An installed seal is INTACT with its digest; nothing but its state changes. -/
theorem State.installSeal_shows (s : State) (b i : Nat) (d : BitVec 512) :
    (s.installSeal b i d).sealState b i = 2 ∧ ((s.installSeal b i d).sealAt b i).digest = d ∧
      s.fieldsBut (s.installSeal b i d) [(Fld.PG_SEAL_CMD_state, b * 16 + i)] ∧ { s.installSeal b i d with regs := s.regs, seals := s.seals } = s :=
  ⟨State.get_set_same _ _ _ _, congrArg SealRec.digest (Sparse.get_set_same _ _ _ _), (s.set_onlyFields _ _ _).1, rfl⟩

/-! ## The end of a hash -/

section

variable {s u : State} {c j va n : Nat}

theorem execSealHashDone_of_none (ok : Bool) (h : s.hashing = none) : execSealHashDone ok s = .next s := by
  unfold execSealHashDone
  rw [h]

/-- A range whose bytes are on their way waits for them. -/
theorem execSealHashDone_of_away (ok : Bool) (h : s.hashing = some (c, j)) (hr : s.sealRange c j = (va, n))
    (hd : s.devRead c s.sealGot va (n * 65536) 1 sealWord = (.away, u)) : execSealHashDone ok s = .next u := by
  unfold execSealHashDone
  rw [h]
  dsimp only
  rw [hr]
  dsimp only
  rw [hd]

/-- A range that cannot be read ends the seal with code 2. -/
theorem execSealHashDone_of_unreadable (ok : Bool) (h : s.hashing = some (c, j)) (hr : s.sealRange c j = (va, n))
    (hd : (∃ x y z, s.devRead c s.sealGot va (n * 65536) 1 sealWord = (.fault x y z, u)) ∨
      (∃ x, s.devRead c s.sealGot va (n * 65536) 1 sealWord = (.poison x, u)) ∨
      (∃ m x, s.devRead c s.sealGot va (n * 65536) 1 sealWord = (.lost m x, u))) :
    execSealHashDone ok s = .next ({ u.set Fld.PG_SEAL_CMD_state (c * 16 + j) 0 with sealGot := [] }.sealError c j 2) := by
  unfold execSealHashDone
  rw [h]
  dsimp only
  rw [hr]
  obtain ⟨x, y, z, hd⟩ | ⟨x, hd⟩ | ⟨m, x, hd⟩ := hd <;> (dsimp only; rw [hd]; rfl)

/-- A seal whose members and bytes are there: INTACT, done, of this module's origin. -/
def State.sealHashed (w : State) (c j : Nat) (d : BitVec 512) : State :=
  { w.installSeal c j d with sealGot := [] }.setAll (c * 16 + j) [(Fld.PG_SEAL_CMD_done, 1), (Fld.PG_SEAL_CMD_origin, 1)]

theorem State.sealHashed_shows (w : State) (c j : Nat) (d : BitVec 512) :
    (w.sealHashed c j d).sealState c j = 2 ∧ ((w.sealHashed c j d).sealAt c j).digest = d ∧
      (w.sealHashed c j d).get Fld.PG_SEAL_CMD_done (c * 16 + j) = 1 ∧ (w.sealHashed c j d).get Fld.PG_SEAL_CMD_origin (c * 16 + j) = 1 ∧
      (w.sealHashed c j d).sealGot = [] ∧
      w.fieldsBut (w.sealHashed c j d) [(Fld.PG_SEAL_CMD_state, c * 16 + j), (Fld.PG_SEAL_CMD_done, c * 16 + j),
        (Fld.PG_SEAL_CMD_origin, c * 16 + j)] ∧
      { w.sealHashed c j d with regs := w.regs, seals := w.seals, sealGot := w.sealGot } = w := by
  obtain ⟨hstate, hdigest, hfields, -⟩ := w.installSeal_shows c j d
  refine ⟨?_, hdigest, ?_, ?_, rfl, State.fieldsBut_set (State.fieldsBut_set (State.fieldsBut_mono hfields (by simp)) (by simp) _) (by simp) _, rfl⟩
  · exact (State.get_set_field _ (by decide) _ _ _).trans ((State.get_set_field _ (by decide) _ _ _).trans hstate)
  · exact (State.get_set_field _ (by decide) _ _ _).trans (State.get_set_same _ _ _ _)
  · exact State.get_set_same _ _ _ _

/-- A hashed range is told to the other destinations, and the seal ends refused or INTACT. -/
theorem execSealHashDone_of_read {bs : List Byte} (h : s.hashing = some (c, j)) (hr : s.sealRange c j = (va, n))
    (hd : s.devRead c s.sealGot va (n * 65536) 1 sealWord = (.ok bs, u)) {d : BitVec 512} (hdig : d = BitVec.ofNat 512 (beNat (sha512 bs)))
    {w : State} (hw : w = u.tellSeal c j va n d) :
    execSealHashDone false s = .next (({ w.set Fld.PG_SEAL_CMD_state (c * 16 + j) 0 with sealGot := [] }.tellSeal c j va 0 d).sealError c j 4) ∧
      execSealHashDone true s = .next (if (w.sealHashed c j d).sealOut c = 0 then w.sealHashed c j d
        else (w.sealHashed c j d).devWrite c ((w.sealHashed c j d).sealOut c) (bytes512 d)) := by
  have hends (ok : Bool) : execSealHashDone ok s = if !ok then
      .next (({ w.set Fld.PG_SEAL_CMD_state (c * 16 + j) 0 with sealGot := [] }.tellSeal c j va 0 d).sealError c j 4)
      else .next (if (w.sealHashed c j d).sealOut c = 0 then w.sealHashed c j d
        else (w.sealHashed c j d).devWrite c ((w.sealHashed c j d).sealOut c) (bytes512 d)) := by
    unfold execSealHashDone
    rw [h]
    dsimp only
    rw [hr]
    dsimp only
    rw [hd, hw, hdig]
    rfl
  exact ⟨hends false, hends true⟩

end

/-! ## What the other members do -/

section

variable {s : State} {c : Nat} (src : ModuleId) {uid : BitVec 64} {i : Fin 16} {base : VAddr} {pages : BitVec 24} {digest : BitVec 512}

theorem execSealInstall_of_unbound (h : s.boundUid uid.toNat = none) : execSealInstall src uid i base pages digest s = .next s := by
  simp only [execSealInstall, h]

theorem execSealBreak_of_unbound (h : s.boundUid uid.toNat = none) : execSealBreak src uid i s = .next s := by
  simp only [execSealBreak, h]

/-- A SEAL_INSTALL without pages frees an installed seal. -/
theorem execSealInstall_of_noPages (h : s.boundUid uid.toNat = some c) (hp : pages = 0) :
    execSealInstall src uid i base pages digest s = .next (if s.sealState c i = 0 ∨ s.sealState c i = 1 then s else s.freeSeal c i) := by
  simp only [execSealInstall, h, if_pos hp]

theorem execSealInstall_of_used (h : s.boundUid uid.toNat = some c) (hp : pages ≠ 0) (hs : s.sealState c i ≠ 0) :
    execSealInstall src uid i base pages digest s = .next s := by
  simp only [execSealInstall, h, if_neg hp, if_pos hs]

/-- The range of a seal as SEAL_INSTALL gives it. -/
def State.sealRanged (s : State) (k : Nat) (base : VAddr) (pages : BitVec 24) : State :=
  s.setAll k [(Fld.PG_SEAL_BASE_LO_base_lo, base.toNat / 2 ^ 16), (Fld.PG_SEAL_BASE_HI_base_hi, base.toNat / 2 ^ 32),
    (Fld.PG_SEAL_LEN_pages, pages.toNat), (Fld.PG_SEAL_CMD_origin, 0)]

theorem execSealInstall_of_free (h : s.boundUid uid.toNat = some c) (hp : pages ≠ 0) (hs : s.sealState c i = 0) :
    execSealInstall src uid i base pages digest s = .next ((s.sealRanged (c * 16 + i.val) base pages).installSeal c i digest) := by
  simp only [execSealInstall, h, if_neg hp, if_neg (not_not_intro hs), State.sealRanged]

/-- The range reads back in whole pages. -/
theorem State.sealRanged_sealRange (s : State) (c i : Nat) (base : VAddr) (pages : BitVec 24) :
    (s.sealRanged (c * 16 + i) base pages).sealRange c i = (base.toNat / 65536 * 65536, pages.toNat) := by
  simp (disch := decide) only [State.sealRanged, State.sealRange, State.setAll_cons, State.setAll_nil, State.get_set_field, State.get_set_same]
  have hb := base.isLt
  have hp := pages.isLt
  simp only [Fld.PG_SEAL_BASE_LO_base_lo, Fld.PG_SEAL_BASE_HI_base_hi, Fld.PG_SEAL_LEN_pages, Prod.mk.injEq]
  omega

/-- The seal that a member installs. -/
theorem State.sealInstalled_shows (s : State) (c i : Nat) (base : VAddr) (pages : BitVec 24) (d : BitVec 512) (t : State)
    (ht : t = (s.sealRanged (c * 16 + i) base pages).installSeal c i d) :
    t.sealState c i = 2 ∧ (t.sealAt c i).digest = d ∧ t.sealRange c i = (base.toNat / 65536 * 65536, pages.toNat) ∧
      t.get Fld.PG_SEAL_CMD_origin (c * 16 + i) = 0 ∧
      s.fieldsBut t [(Fld.PG_SEAL_BASE_LO_base_lo, c * 16 + i), (Fld.PG_SEAL_BASE_HI_base_hi, c * 16 + i), (Fld.PG_SEAL_LEN_pages, c * 16 + i),
        (Fld.PG_SEAL_CMD_origin, c * 16 + i), (Fld.PG_SEAL_CMD_state, c * 16 + i)] ∧ { t with regs := s.regs, seals := s.seals } = s := by
  subst ht
  obtain ⟨hstate, hdigest, hfields, hrest⟩ := (s.sealRanged (c * 16 + i) base pages).installSeal_shows c i d
  refine ⟨hstate, hdigest, ?_, ?_, ?_, rfl⟩
  · rw [← s.sealRanged_sealRange c i base pages]
    have hget {f : Field} (hf : (f.reg * 32 + f.lo) % 16384 ≠ (Fld.PG_SEAL_CMD_state.reg * 32 + Fld.PG_SEAL_CMD_state.lo) % 16384) (k : Nat) :
        ((s.sealRanged (c * 16 + i) base pages).installSeal c i d).get f k = (s.sealRanged (c * 16 + i) base pages).get f k :=
      State.get_set_field _ hf _ _ _
    rw [State.sealRange, State.sealRange, hget (by decide), hget (by decide), hget (by decide)]
  · exact (State.get_set_field _ (by decide) _ _ _).trans (State.get_set_same _ _ _ _)
  · exact State.fieldsBut_trans (State.fieldsBut_setAll (s.fieldsBut_refl _) _ _ (by simp)) (State.fieldsBut_mono hfields (by simp))

theorem execSealBreak_of_bound (h : s.boundUid uid.toNat = some c) : execSealBreak src uid i s =
    if s.sealState c i ≠ 2 then .next s
    else .next (if src.toNat = (s.breakSeal c i).me then
      ((s.breakSeal c i).routeModules c).foldl (fun s m => s.emit (.sealBreak (BitVec.ofNat 14 m) uid i)) (s.breakSeal c i)
      else s.breakSeal c i) := by
  simp only [execSealBreak, h]

/-- Breaking a seal leaves the module's own number. -/
theorem State.breakSeal_me (s : State) (b i : Nat) : (s.breakSeal b i).me = s.me := State.get_set_field _ (by decide) _ _ _

end

/-- Settles O60: the commands by their refusals, the hash by what the read of the range gives, the members' part by their seal's state. -/
theorem sealsHashInstallBreakAndRelease : Obligations.SealsHashInstallBreakAndRelease := by
  intro s p b i v ok src uid base pages digest
  refine ⟨fun h => ⟨execPgSeal_of_untaken h, execPgSealRelease_of_untaken h⟩, fun h u hu => ⟨fun hg => ?_, fun va n hg hr => ⟨fun code hc => ?_,
    fun hn hs hf hh => ?_⟩, fun hg => ?_, fun hg w hw => ?_⟩, ⟨_, rfl, s.freeSeal_shows b i⟩, (fun h => (exec_sealHashDone ok s).trans (execSealHashDone_of_none ok h)),
    fun c j va n h hr => ⟨fun u hd => (exec_sealHashDone ok s).trans (execSealHashDone_of_away ok h hr hd), fun u hd =>
        (exec_sealHashDone ok s).trans (execSealHashDone_of_unreadable ok h hr hd),
      fun bs u w d hd hdig hw => ?_⟩, fun h => ⟨execSealInstall_of_unbound src h, execSealBreak_of_unbound src h⟩, fun c h => ?_⟩
  · exact (execPgSeal_of_taken h hu rfl).trans (if_pos (by simp [hg]))
  · obtain ⟨hexec, hlt⟩ := pgSeal_refused h hu hr hg hc
    exact ⟨_, hexec, u.sealError_shows b i hlt⟩
  · exact ⟨_, pgSeal_hashes h hu hr hg hn hs hf hh, State.get_set_same _ _ _ _, rfl, (u.set_onlyFields _ _ _).1, rfl⟩
  · exact (execPgSealRelease_of_taken h hu).trans (if_pos (by simp [hg]))
  · exact (execPgSealRelease_of_taken h hu).trans ((if_neg (by simp [hg])).trans (by rw [hw]))
  · obtain ⟨hrefused, htaken⟩ := execSealHashDone_of_read h hr hd hdig hw
    obtain ⟨hstate, hdigest, hdone, horigin, hgot, hfields, hrest⟩ := w.sealHashed_shows c j d
    exact ⟨hrefused, _, hstate, hdigest, hdone, horigin, hgot, hfields, hrest, htaken⟩
  · have hbreak := execSealBreak_of_bound src (i := i) h
    refine ⟨fun hp hs => (execSealInstall_of_noPages src h hp).trans (by rw [if_pos hs]),
      fun hp h0 h1 => (execSealInstall_of_noPages src h hp).trans (by rw [if_neg (not_or.2 ⟨h0, h1⟩)]), execSealInstall_of_used src h,
      fun hp hs => ⟨_, execSealInstall_of_free src h hp hs, State.sealInstalled_shows s c i base pages digest _ rfl⟩, fun hs => hbreak.trans (if_pos hs),
      fun hs hsrc => hbreak.trans ((if_neg (not_not_intro hs)).trans (by rw [State.breakSeal_me, if_neg hsrc])), fun hs hsrc t out ht hout => ?_,
      fun _ => s.breakSeal_sealState c i⟩
    refine hbreak.trans ((if_neg (not_not_intro hs)).trans ?_)
    rw [State.breakSeal_me, if_pos hsrc, ← ht, State.foldl_emit (fun _ _ _ => rfl), hout]

end Sys2Proof.Machine

/-! SUPPORT. Lids: the rules of what a lid's commands are made of (its record, its slots' epochs, what it sends), and how a lid is
removed, scrubbed and gone (12 R581 to R586). -/

namespace Sys2Proof.Machine

/-! ## A lid's record and its messages -/

@[simp] theorem State.lidAt_setLid (s : State) (p : Nat) (r : LidRec) : (s.setLid p r).lidAt p = r := Sparse.get_set_same _ _ _ _

/-- A message of the rim is a rim packet from this module. -/
theorem State.sendRim_sends (s : State) (m : Nat) (msg : RimMsg) : ∃ pkt : Packet, isRimPacket pkt = true ∧ pkt.dest = BitVec.ofNat 14 m ∧
    pkt.src = BitVec.ofNat 14 s.me ∧ s.sendRim m msg = { s with outbox := s.outbox ++ [.rim pkt msg] } := ⟨_, rfl, rfl, rfl, rfl⟩

/-! ## Epochs -/

/-- Showing an epoch writes LID_PART_epoch only. -/
theorem State.showEpoch_copies (s : State) (k : Nat) : s.copiesBut (s.showEpoch k) [Fld.LID_PART_epoch] :=
  List.foldlRecOn (motive := fun t => s.copiesBut t _) _ _ (s.copiesBut_refl _) fun t ht p _ => by
    split
    · exact State.copiesBut_set ht (by simp) _ _
    · exact ht

theorem State.showEpoch_rest (s : State) (k : Nat) : { s.showEpoch k with regs := s.regs } = s :=
  List.foldlRecOn (motive := fun t : State => { t with regs := s.regs } = s) _ _ rfl fun t ht p _ => by
    split
    · exact ht
    · exact ht

/-- The fields that setting an epoch writes. -/
def epochFields : List Field := [Fld.KS_ATTR_epoch, Fld.LID_PART_epoch]

theorem State.setEpoch_copies (s : State) (k e : Nat) : s.copiesBut (s.setEpoch k e) epochFields :=
  State.copiesBut_trans (State.copiesBut_set (s.copiesBut_refl _) (by decide +kernel) _ _)
    (State.copiesBut_mono ((s.set Fld.KS_ATTR_epoch k e).showEpoch_copies k) (by decide +kernel))

theorem State.setEpoch_rest (s : State) (k e : Nat) : { s.setEpoch k e with regs := s.regs } = s :=
  (congrArg (fun t : State => { t with regs := s.regs }) ((s.set Fld.KS_ATTR_epoch k e).showEpoch_rest k) :)

/-- The epoch of the slot is the one set, and that of any other slot stays. -/
theorem State.get_setEpoch_epoch (s : State) (k e j : Nat) :
    (s.setEpoch k e).get Fld.KS_ATTR_epoch j = if j = k then e % 256 else s.get Fld.KS_ATTR_epoch j := by
  have hshow : (s.setEpoch k e).get Fld.KS_ATTR_epoch j = (s.set Fld.KS_ATTR_epoch k e).get Fld.KS_ATTR_epoch j :=
    State.copiesBut_get ((s.set Fld.KS_ATTR_epoch k e).showEpoch_copies k) (by decide +kernel) j
  rw [hshow]
  by_cases hj : j = k
  · subst hj
    rw [if_pos rfl, State.get_set_same]
    rfl
  · rw [if_neg hj, State.get_set_copy _ hj]

/-- Both epochs of a lid advance, and nothing else. -/
theorem State.stepEpochs_epochs (s : State) (p : Nat) :
    (s.stepEpochs p).get Fld.KS_ATTR_epoch (s.memSlot p) = (s.get Fld.KS_ATTR_epoch (s.memSlot p) + 1) % 256 ∧
      (s.stepEpochs p).get Fld.KS_ATTR_epoch (s.memSlot p + 1) = (s.get Fld.KS_ATTR_epoch (s.memSlot p + 1) + 1) % 256 := by
  rw [State.stepEpochs, State.get_setEpoch_epoch, State.get_setEpoch_epoch, State.get_setEpoch_epoch, if_neg (by omega), if_pos rfl, if_pos rfl]
  exact ⟨rfl, rfl⟩

theorem State.stepEpochs_copies (s : State) (p : Nat) : s.copiesBut (s.stepEpochs p) epochFields :=
  State.copiesBut_trans (s.setEpoch_copies _ _) ((s.setEpoch _ _).setEpoch_copies _ _)

theorem State.stepEpochs_rest (s : State) (p : Nat) : { s.stepEpochs p with regs := s.regs } = s :=
  (congrArg (fun t : State => { t with regs := s.regs }) ((s.setEpoch (s.memSlot p) _).setEpoch_rest (s.memSlot p + 1) _)).trans
    (s.setEpoch_rest _ _)

/-! ## Zeroized slots (12 R586 step 6) -/

/-- The fields that zeroizing a slot writes. -/
def zeroedFields : List Field := [Fld.KS_ATTR_class, Fld.KS_ATTR_state, Fld.KS_ATTR_expire_reset, Fld.KS_ATTR_lid, Fld.KS_USE_use_left]

theorem State.zeroSlot_copies (s : State) (k : Nat) : s.copiesBut (s.zeroSlot k) zeroedFields :=
  State.copiesBut_set (t := (s.setCell k KeyCell.empty).setAll k [(Fld.KS_ATTR_class, 0), (Fld.KS_ATTR_state, 0), (Fld.KS_ATTR_expire_reset, 0),
    (Fld.KS_ATTR_lid, 0)]) (State.copiesBut_setAll (t := s.setCell k KeyCell.empty) (fun _ _ _ => rfl) _ _ (by decide +kernel)) (by decide +kernel) _ _

/-- Another slot keeps its state and class. -/
theorem State.zeroSlot_get_other (s : State) {k j : Nat} (hj : j ≠ k) : (s.zeroSlot k).get Fld.KS_ATTR_state j = s.get Fld.KS_ATTR_state j ∧
    (s.zeroSlot k).get Fld.KS_ATTR_class j = s.get Fld.KS_ATTR_class j := by
  simp only [State.zeroSlot, State.setAll_cons, State.setAll_nil]
  constructor
  · simp (disch := decide) only [State.get_set_field]
    rw [State.get_set_copy _ hj, State.get_set_field _ (by decide)]
    rfl
  · simp (disch := decide) only [State.get_set_field]
    rw [State.get_set_copy _ hj]
    rfl

/-- A slot is empty. -/
def State.slotZeroed (t : State) (k : Nat) : Prop :=
  t.get Fld.KS_ATTR_state k = 0 ∧ t.get Fld.KS_ATTR_class k = 0 ∧ t.cell k = KeyCell.empty

/-- A slot is as in another state. -/
def State.slotSame (s t : State) (k : Nat) : Prop :=
  t.get Fld.KS_ATTR_state k = s.get Fld.KS_ATTR_state k ∧ t.get Fld.KS_ATTR_class k = s.get Fld.KS_ATTR_class k ∧ t.cell k = s.cell k

theorem State.slotZeroed_of_same {s t : State} {k : Nat} (hs : s.slotZeroed k) (h : s.slotSame t k) : t.slotZeroed k :=
  ⟨h.1.trans hs.1, h.2.1.trans hs.2.1, h.2.2.trans hs.2.2⟩

/-- Slots zeroized one after the other: those are empty, and no other slot moves. -/
theorem State.zeroSlots_slots (l : List Nat) (s : State) :
    (∀ k ∈ l, (l.foldl State.zeroSlot s).slotZeroed k) ∧ ∀ k, k ∉ l → s.slotSame (l.foldl State.zeroSlot s) k := by
  induction l generalizing s with
  | nil => exact ⟨by simp, fun _ _ => ⟨rfl, rfl, rfl⟩⟩
  | cons a l ih =>
    obtain ⟨hin, hout⟩ := ih (s.zeroSlot a)
    obtain ⟨hstate, hclass, -, -⟩ := s.zeroSlot_get a
    obtain ⟨hcell, hother⟩ := s.zeroSlot_cell a
    refine ⟨fun k hk => ?_, fun k hk => ?_⟩
    · by_cases hl : k ∈ l
      · exact hin k hl
      · obtain rfl : k = a := by simpa [hl] using hk
        exact State.slotZeroed_of_same ⟨hstate, hclass, hcell⟩ (hout k hl)
    · obtain ⟨hs, hc, hk'⟩ := hout k (fun h => hk (List.mem_cons_of_mem _ h))
      have hne : k ≠ a := fun h => hk (h ▸ List.mem_cons_self ..)
      obtain ⟨hsame, hsameClass⟩ := s.zeroSlot_get_other hne
      exact ⟨hs.trans hsame, hc.trans hsameClass, hk'.trans (hother k hne)⟩

theorem State.zeroSlots_copies (l : List Nat) (s : State) : s.copiesBut (l.foldl State.zeroSlot s) zeroedFields :=
  List.foldlRecOn (motive := fun t => s.copiesBut t zeroedFields) l _ (s.copiesBut_refl _) fun t ht k _ => State.copiesBut_trans ht (t.zeroSlot_copies k)

theorem State.zeroSlots_rest (l : List Nat) (s : State) : { l.foldl State.zeroSlot s with regs := s.regs, keys := s.keys } = s :=
  List.foldlRecOn (motive := fun t : State => { t with regs := s.regs, keys := s.keys } = s) l _ rfl fun t ht k _ =>
    (congrArg (fun w : State => { w with regs := s.regs, keys := s.keys }) (t.zeroSlot_rest k) :).trans ht

section

variable {s : State} {p : Fin 32} {r : LidRec}

/-! ## A removal goes on -/

/-- With no removal under way nothing happens. -/
theorem State.removalStep_of_none (h : (s.lidAt p).removal = none) : s.removalStep p = s := if_pos (by rw [h]; rfl)

/-- While a load is in progress a removal does not begin. -/
theorem State.removalStep_of_loading (hst : s.get Fld.LID_PART_state p = 1 ∨ s.get Fld.LID_PART_state p = 2) (hl : s.loading = true) :
    s.removalStep p = s := by
  have hne : s.get Fld.LID_PART_state p ≠ 3 := by omega
  simp [State.removalStep, hl, hne]

/-- A removal that has revoked its slots tells the others once step 2 has ended, and zeroizes once nobody is awaited. -/
theorem State.removalStep_of_revoking (hst : s.get Fld.LID_PART_state p = 3) (hr : (s.lidAt p).removal ≠ none)
    (hs : (s.lidAt p).sent = true ∨ s.partStopped p = false) :
    s.removalStep p = if (s.lidAt p).sent && (s.lidAt p).awaits.isEmpty then s.zeroPart p else s := by
  have hnone : (s.lidAt p).removal.isNone = false := by simpa [Option.ne_none_iff_isSome] using hr
  have htell : (if s.get Fld.LID_PART_state p == 3 && !(s.lidAt p).sent && s.partStopped p then s.tellRemoval p else s) = s :=
    if_neg (by rcases hs with hs | hs <;> simp [hs])
  unfold State.removalStep
  dsimp only
  have hbegin : (if (s.get Fld.LID_PART_state p == 1 || s.get Fld.LID_PART_state p == 2) && !s.loading then s.revokePart p else s) = s :=
    if_neg (by simp [hst])
  rw [if_neg (by simp [hnone]), hbegin, htell, hst]
  rfl

/-- A removal that waits for a context, or for another member, waits. -/
theorem State.removalStep_of_waiting (hst : s.get Fld.LID_PART_state p = 3)
    (hw : ((s.lidAt p).sent = false ∧ s.partStopped p = false) ∨ ((s.lidAt p).sent = true ∧ (s.lidAt p).awaits ≠ [])) : s.removalStep p = s := by
  by_cases hr : (s.lidAt p).removal = none
  · exact State.removalStep_of_none hr
  · obtain ⟨hs, hstop⟩ | ⟨hs, ha⟩ := hw
    · rw [State.removalStep_of_revoking hst hr (.inr hstop), if_neg (by simp [hs])]
    · rw [State.removalStep_of_revoking hst hr (.inl hs), if_neg (by simp [ha])]

/-- Step 6 zeroizes the revoked slots of the range and keeps every epoch. -/
theorem State.zeroPart_shows (s : State) (p : Nat) : (s.zeroPart p).get Fld.LID_PART_state p = 4 ∧
    (∀ k, (s.zeroPart p).get Fld.KS_ATTR_epoch k = s.get Fld.KS_ATTR_epoch k) ∧
    (∀ k ∈ s.keyRange p, s.get Fld.KS_ATTR_state k = 2 → (s.zeroPart p).get Fld.KS_ATTR_state k = 0 ∧ (s.zeroPart p).get Fld.KS_ATTR_class k = 0 ∧
      (s.zeroPart p).cell k = KeyCell.empty) ∧
    (∀ k, k ∉ s.keyRange p ∨ s.get Fld.KS_ATTR_state k ≠ 2 →
      (s.zeroPart p).get Fld.KS_ATTR_state k = s.get Fld.KS_ATTR_state k ∧ (s.zeroPart p).cell k = s.cell k) ∧
    { s.zeroPart p with regs := s.regs, keys := s.keys } = s := by
  obtain ⟨hin, hout⟩ := State.zeroSlots_slots ((s.keyRange p).filter (fun k => s.get Fld.KS_ATTR_state k == 2)) (s.set Fld.LID_PART_state p 4)
  have hcopies := State.zeroSlots_copies ((s.keyRange p).filter (fun k => s.get Fld.KS_ATTR_state k == 2)) (s.set Fld.LID_PART_state p 4)
  refine ⟨(State.copiesBut_get hcopies (by decide +kernel) _).trans (State.get_set_same _ _ _ _),
    fun k => (State.copiesBut_get hcopies (by decide +kernel) k).trans (State.get_set_field _ (by decide) _ _ _),
    fun k hk hs => hin k (List.mem_filter.2 ⟨hk, by simp [hs]⟩), fun k hk => ?_,
    (congrArg (fun t : State => { t with regs := s.regs }) (State.zeroSlots_rest _ (s.set Fld.LID_PART_state p 4)) :)⟩
  obtain ⟨hs, -, hc⟩ := hout k (fun h => by
    obtain ⟨hm, h2⟩ := List.mem_filter.1 h
    exact hk.elim (fun h => h hm) (fun h => h (beq_iff_eq.1 h2)))
  exact ⟨hs.trans (State.get_set_field _ (by decide) _ _ _), hc⟩

end

end Sys2Proof.Machine

/-! SUPPORT. How each command of a lid's removal is refused or acts, and what the scrub leaves (12 R581 to R586). -/

namespace Sys2Proof.Machine

/-! ## What a write of a register leaves -/

/-- A write of a register moves registers, pins and pieces only. -/
theorem State.afterWrite_rest (s : State) (r i : Nat) : { s.afterWrite r i with regs := s.regs, pins := s.pins, pieces := s.pieces } = s := by
  unfold State.afterWrite
  split
  · split
    · rfl
    · rfl
  · split
    · rfl
    · split
      · rfl
      · rfl

theorem State.mmioWrite_rest (s : State) (a : Agent) (off v : Nat) :
    { s.mmioWrite a off v with regs := s.regs, pins := s.pins, pieces := s.pieces } = s := by
  unfold State.mmioWrite
  split
  · rfl
  next r i _ =>
    split
    · have hwrite := (s.writeFields_onlyFields i v (fieldsOf r)).2
      generalize hw : s.writeReg r i v = w
      have hw : { w with regs := s.regs } = s := hw ▸ hwrite
      exact (congrArg (fun t : State => { t with regs := s.regs, pins := s.pins, pieces := s.pieces }) (w.afterWrite_rest r i) :).trans
        (congrArg (fun t : State => { t with pins := s.pins, pieces := s.pieces }) hw :)
    · rfl

/-- An agent that is partition 0 is so after a write. -/
theorem State.mmioWrite_fromPf (s : State) (a : Agent) (off v : Nat) : (s.mmioWrite a off v).fromPf a = s.fromPf a := by
  have hrest := s.mmioWrite_rest a off v
  generalize s.mmioWrite a off v = w at hrest ⊢
  have hd3 : w.d3hot = s.d3hot := (congrArg State.d3hot hrest :)
  have hrun : w.run = s.run := (congrArg State.run hrest :)
  have hasleep : w.agentAsleep a = s.agentAsleep a := by
    cases a <;> simp only [State.agentAsleep, State.asleep, State.halted, hd3, hrun]
  cases a <;> simp only [State.fromPf, hasleep]

section

variable {s w : State} {p : Fin 32} {q : Nat} {id : BitVec 64} {sig : List Byte} {src : ModuleId} {slot epoch : BitVec 8} {mac : BitVec 512}
  {a : Agent} {v : Word32} {r : LidRec}

/-! ## The starts of a removal -/

theorem execLidDissolve_of_refused (hr : r = s.lidAt p) (h : s.get Fld.LID_PART_state p = 0 ∨ s.get Fld.LID_PART_state p = 4 ∨
    charterId r.charter ≠ id.toNat ∨ ecdsaVerify (pointOf r.key) (sha512 (Config.dissolveMessage id)) sig = false) :
    execLidDissolve p id sig s = .next s := by
  subst hr
  exact if_pos (by simpa using h)

theorem execLidDissolve_of_signed (hr : r = s.lidAt p) (h0 : s.get Fld.LID_PART_state p ≠ 0) (h4 : s.get Fld.LID_PART_state p ≠ 4)
    (hid : charterId r.charter = id.toNat) (hsig : ecdsaVerify (pointOf r.key) (sha512 (Config.dissolveMessage id)) sig = true) :
    execLidDissolve p id sig s = .next (s.startRemoval p .dissolved []) := by
  subst hr
  exact if_neg (by simp [h0, h4, hid, hsig])

/-- What a message's mark leaves: the lids read as before. -/
theorem State.partOfLid_unmarkLost (s : State) (m : Nat) (id : BitVec 64) : (s.unmarkLost m).partOfLid id = s.partOfLid id := rfl

/-- A REVOKE that names no lid here only clears its sender's mark. -/
theorem execRevoke_of_noLid (h : s.partOfLid id = none) : execRevoke id src slot epoch mac s = .next (s.unmarkLost src.toNat) := by
  simp only [execRevoke, State.partOfLid_unmarkLost, h]

/-- A REVOKE of a lid here starts a removal when it is authenticated, for the slot of the lid. -/
theorem execRevoke_of_lid (h : s.partOfLid id = some q) : execRevoke id src slot epoch mac s =
    if !s.macHeld q || s.memSlot q != slot.toNat || mac != s.lidMac q (revokeBytes id.toNat slot.toNat epoch.toNat) then
      .next (s.unmarkLost src.toNat)
    else .next ((s.unmarkLost src.toNat).startRemoval q .revoked [src.toNat]) := by
  simp only [execRevoke, State.partOfLid_unmarkLost, h]
  rfl

theorem execDepart_of_noLid (h : s.partOfLid id = none) : execDepart id src mac s = .next (s.unmarkLost src.toNat) := by
  simp only [execDepart, State.partOfLid_unmarkLost, h]

/-- A DEPART of a lid here is answered when it is authenticated and no removal runs. -/
theorem execDepart_of_lid (h : s.partOfLid id = some q) : execDepart id src mac s =
    if !s.macHeld q || (s.lidAt q).removal.isSome || mac != s.lidMac q (departBytes id.toNat src.toNat) then .next (s.unmarkLost src.toNat)
    else .next (((s.unmarkLost src.toNat).stepEpochs q).sendRim src.toNat (.revokeAck id)) := by
  simp only [execDepart, State.partOfLid_unmarkLost, h]
  rfl

/-- Both epochs advanced and an answer sent: what reads as before. -/
theorem State.answered_shows (hw : w = s.unmarkLost src.toNat) (q : Nat) (id : BitVec 64) :
    ∃ t pkt, (w.stepEpochs q).sendRim src.toNat (.revokeAck id) = t ∧ t.outbox = s.outbox ++ [.rim pkt (.revokeAck id)] ∧ pkt.dest = src ∧
      t.get Fld.KS_ATTR_epoch (s.memSlot q) = (s.get Fld.KS_ATTR_epoch (s.memSlot q) + 1) % 256 ∧
      t.get Fld.KS_ATTR_epoch (s.memSlot q + 1) = (s.get Fld.KS_ATTR_epoch (s.memSlot q + 1) + 1) % 256 ∧
      s.copiesBut t [Fld.KS_ATTR_epoch, Fld.LID_PART_epoch] ∧ { t with regs := w.regs, outbox := w.outbox } = w := by
  have hmem : w.memSlot q = s.memSlot q := by rw [hw]; rfl
  have hget (f : Field) (k : Nat) : w.get f k = s.get f k := by rw [hw]; rfl
  have hout : w.outbox = s.outbox := by rw [hw]; rfl
  obtain ⟨hfirst, hsecond⟩ := w.stepEpochs_epochs q
  have hcopies := w.stepEpochs_copies q
  have hrest := w.stepEpochs_rest q
  generalize w.stepEpochs q = t at hfirst hsecond hcopies hrest ⊢
  obtain ⟨pkt, -, hdest, -, hsend⟩ := t.sendRim_sends src.toNat (.revokeAck id)
  have hreads (f : Field) (k : Nat) : (t.sendRim src.toNat (.revokeAck id)).get f k = t.get f k := by rw [hsend]; rfl
  have htout : t.outbox = s.outbox := (congrArg State.outbox hrest :).trans hout
  refine ⟨_, pkt, rfl, ?_, by rw [hdest, BitVec.ofNat_toNat, BitVec.setWidth_eq], ?_, ?_, fun f k hf => ?_, ?_⟩
  · rw [hsend, ← htout]
  · rw [hreads, ← hmem, hfirst, hget]
  · rw [hreads, ← hmem, hsecond, hget]
  · exact (hreads f k).trans ((hcopies f k hf).trans (hget f k))
  · rw [hsend]
    exact (congrArg (fun x : State => { x with outbox := w.outbox }) hrest :)

/-- A write of remove that is not taken changes nothing. -/
theorem execLidPartRemove_of_untaken (h : s.takes a (0xE0100 + 0x10 * p.val) = false) : execLidPartRemove a p v s = .next s := by
  simp [execLidPartRemove, h]

/-- A taken write of remove by partition 0 starts the removal of a lid that is FORMING or ACTIVE. -/
theorem execLidPartRemove_of_taken (h : s.takes a (0xE0100 + 0x10 * p.val) = true) {u : State}
    (hu : u = s.mmioWrite a (0xE0100 + 0x10 * p.val) v.toNat) : execLidPartRemove a p v s =
    if !bitOf v.toNat 21 || !s.fromPf a || a == .rim then .next u
    else .next (if u.get Fld.LID_PART_state p = 1 ∨ u.get Fld.LID_PART_state p = 2 then (u.set Fld.LID_PART_remove p 1).startRemoval p .departs []
      else u.set Fld.LID_PART_remove p 1) := by
  have hpf : u.fromPf a = s.fromPf a := by rw [hu, State.mmioWrite_fromPf]
  simp only [execLidPartRemove, h, Bool.not_true, Bool.false_eq_true, if_false, ← hu, hpf]

/-! ## A removal that is joined -/

theorem State.startRemoval_of_none (h : (s.lidAt p).removal = none) (why : Removal) (ms : List Nat) : s.startRemoval p why ms =
    (s.setLid p { s.lidAt p with removal := some why, answers := ms, awaits := [], sharing := false, sent := false }).removalStep p := by
  unfold State.startRemoval
  dsimp only
  exact if_neg (by simp [h])

theorem State.startRemoval_of_some (h : (s.lidAt p).removal ≠ none) (why : Removal) (ms : List Nat) : s.startRemoval p why ms =
    if (s.lidAt p).sent then ms.foldl (fun t m => t.sendRim m (.revokeAck (BitVec.ofNat 64 (charterId (s.lidAt p).charter)))) s
    else s.setLid p { s.lidAt p with answers := (s.lidAt p).answers ++ ms } := by
  unfold State.startRemoval
  dsimp only
  rw [if_pos (Option.isSome_iff_ne_none.2 h)]

/-! ## Acknowledgements and their end -/

theorem execRevokeAck_of_ignored (h : s.get Fld.LID_PART_state p ≠ 3 ∨ (s.lidAt p).sent = false) :
    execRevokeAck p src s = .next (s.unmarkLost src.toNat) :=
  if_pos (h.imp id (fun h => (by rw [h]; decide : (!(s.lidAt p).sent) = true)))

theorem execRevokeAck_of_awaited (hst : s.get Fld.LID_PART_state p = 3) (hs : (s.lidAt p).sent = true) : execRevokeAck p src s =
    .next (((s.unmarkLost src.toNat).setLid p { s.lidAt p with awaits := (s.lidAt p).awaits.erase src.toNat }).removalStep p) :=
  if_neg (by
    rintro (h | h)
    · exact h hst
    · exact absurd (hs ▸ h : (!true) = true) (by decide))

theorem execRevokeTimeout_of_early (hr : r = s.lidAt p) (h : s.get Fld.LID_PART_state p ≠ 3 ∨ r.sent = false ∨ r.awaits = [] ∨
    s.time < r.since + max 1000 (s.get Fld.LID_REVOKE_TIMEOUT_us)) : execRevokeTimeout p s = .next s := by
  subst hr
  exact if_pos (by simpa [State.revokeTimeout] using h)

/-- The state in which nobody is awaited any more. -/
def State.ackShort (s : State) (p : Nat) : State :=
  ((s.set Fld.LID_PART_ack_short p 1).count Fld.LID_ACK_SHORT_COUNT_count 0 Fld.LID_COUNT_STATUS_ack_wrap 0 0).setLid p
    { s.lidAt p with awaits := [] }

theorem execRevokeTimeout_of_due (hr : r = s.lidAt p) (hst : s.get Fld.LID_PART_state p = 3) (hs : r.sent = true) (ha : r.awaits ≠ [])
    (ht : r.since + max 1000 (s.get Fld.LID_REVOKE_TIMEOUT_us) ≤ s.time) : execRevokeTimeout p s = .next ((s.ackShort p).removalStep p) := by
  subst hr
  exact if_neg (by simpa [State.revokeTimeout, hst, hs, ha] using ht)

theorem State.ackShort_shows (s : State) (p : Nat) : (s.ackShort p).get Fld.LID_PART_ack_short p = 1 ∧
    (s.ackShort p).lidAt p = { s.lidAt p with awaits := [] } ∧
    (s.ackShort p).get Fld.LID_ACK_SHORT_COUNT_count = (s.get Fld.LID_ACK_SHORT_COUNT_count + 1) % 2 ^ Fld.LID_ACK_SHORT_COUNT_count.width ∧
    s.fieldsBut (s.ackShort p) [(Fld.LID_PART_ack_short, p), (Fld.LID_ACK_SHORT_COUNT_count, 0), (Fld.LID_COUNT_STATUS_ack_wrap, 0)] ∧
    { s.ackShort p with regs := s.regs, lids := s.lids } = s := by
  have hcount : (s.set Fld.LID_PART_ack_short p 1).onlyFields ((s.set Fld.LID_PART_ack_short p 1).count Fld.LID_ACK_SHORT_COUNT_count 0
      Fld.LID_COUNT_STATUS_ack_wrap 0 0) [(Fld.LID_ACK_SHORT_COUNT_count, 0), (Fld.LID_COUNT_STATUS_ack_wrap, 0)] :=
    State.onlyFields_count (State.onlyFields_refl _ _) (by simp) (by simp) _ _
  refine ⟨?_, Sparse.get_set_same _ _ _ _, ?_, ?_, ?_⟩
  · exact (State.get_count_field _ (by decide) (by decide) _ _ _ _ _).trans (State.get_set_same _ _ _ _)
  · refine (State.get_count_same _ (by decide) _ _).trans ?_
    rw [State.get_set_field _ (by decide)]
  · exact State.fieldsBut_trans (State.fieldsBut_mono (s.set_onlyFields _ _ _).1 (by simp)) (State.fieldsBut_mono hcount.1 (by simp))
  · exact (congrArg (fun t : State => { t with regs := s.regs, lids := s.lids }) hcount.2 :)

/-! ## The scrub (12 R585) -/

theorem execLidScrubDone_of_other (h : s.get Fld.LID_PART_state p ≠ 4) : execLidScrubDone p s = .next s := if_pos h

/-- What the partition held, scrubbed. -/
def State.lidScrubbed (s : State) (p : Nat) : State :=
  ((List.range 256).filter (s.inCarve p)).foldl State.zeroChan
    (((s.pieces.filter (fun e => e.2.sec.part == p)).map Prod.fst).foldl State.scrubPiece s)

/-- The registers of a partition whose lid is gone. -/
def State.lidGone (u : State) (p : Nat) : State :=
  ((u.bump64 Fld.RIM_PLAIT_GEN_LO_gen_lo Fld.RIM_PLAIT_GEN_HI_gen_hi 0).setAll p [(Fld.LID_PART_state, 0), (Fld.LID_PART_remove, 0),
    (Fld.LID_ID_LO_id_lo, 0), (Fld.LID_ID_HI_id_hi, 0), (Fld.LID_CHARTER_GEN_gen, 0)]).setLid p LidRec.none

theorem execLidScrubDone_of_scrubbing (h : s.get Fld.LID_PART_state p = 4) :
    execLidScrubDone p s = .next ((s.lidScrubbed p).lidGone p).showDrained.countPieces.capChange := if_neg (not_not_intro h)

theorem State.lidGone_shows (u : State) (p : Nat) : (u.lidGone p).get Fld.LID_PART_state p = 0 ∧ (u.lidGone p).get Fld.LID_PART_remove p = 0 ∧
    (u.lidGone p).get64 Fld.LID_ID_LO_id_lo Fld.LID_ID_HI_id_hi p = 0 ∧ (u.lidGone p).get Fld.LID_CHARTER_GEN_gen p = 0 ∧
    (u.lidGone p).lidAt p = LidRec.none ∧
    (u.lidGone p).get64 Fld.RIM_PLAIT_GEN_LO_gen_lo Fld.RIM_PLAIT_GEN_HI_gen_hi 0 =
      (u.get64 Fld.RIM_PLAIT_GEN_LO_gen_lo Fld.RIM_PLAIT_GEN_HI_gen_hi 0 + 1) % 2 ^ 64 ∧
    { u.lidGone p with regs := u.regs, lids := u.lids } = u := by
  rw [← State.get64_bump64 u (by decide) rfl rfl]
  have hget (f : Field) (k : Nat) : (u.lidGone p).get f k = ((u.bump64 Fld.RIM_PLAIT_GEN_LO_gen_lo Fld.RIM_PLAIT_GEN_HI_gen_hi 0).setAll p
    [(Fld.LID_PART_state, 0), (Fld.LID_PART_remove, 0), (Fld.LID_ID_LO_id_lo, 0), (Fld.LID_ID_HI_id_hi, 0), (Fld.LID_CHARTER_GEN_gen, 0)]).get f k := rfl
  refine ⟨?_, ?_, ?_, ?_, State.lidAt_setLid _ _ _, ?_, rfl⟩ <;>
    simp (disch := decide) only [State.get64, hget, State.setAll_cons, State.setAll_nil, State.get_set_field, State.get_set_same] <;> rfl

/-- A channel zeroed among others reads zero. -/
theorem State.zeroChans_byte (l : List Nat) (s : State) {x : Nat} (h : s.hbm.byte x = 0 ∨ ∃ ch ∈ l, 2 ^ 40 * ch ≤ x ∧ x < 2 ^ 40 * ch + 2 ^ 31) :
    (l.foldl State.zeroChan s).hbm.byte x = 0 := by
  induction l generalizing s with
  | nil => simpa using h
  | cons c l ih =>
    have hbyte : (s.zeroChan c).hbm.byte x = if 2 ^ 40 * c ≤ x ∧ x < 2 ^ 40 * c + 2 ^ 31 then 0 else s.hbm.byte x := Mem.byte_zero _ _ _ _
    refine ih _ ?_
    by_cases hc : 2 ^ 40 * c ≤ x ∧ x < 2 ^ 40 * c + 2 ^ 31
    · exact .inl (hbyte.trans (if_pos hc))
    · obtain h0 | ⟨ch, hm, hx⟩ := h
      · exact .inl ((hbyte.trans (if_neg hc)).trans h0)
      · rcases List.mem_cons.1 hm with rfl | hm
        · exact absurd hx hc
        · exact .inr ⟨ch, hm, hx⟩

theorem State.lidScrubbed_byte {ch x : Nat} (hc : ch < 256) (hin : s.inCarve p ch = true) (hlo : 2 ^ 40 * ch ≤ x) (hhi : x < 2 ^ 40 * ch + 2 ^ 31) :
    (s.lidScrubbed p).hbm.byte x = 0 :=
  State.zeroChans_byte _ _ (.inr ⟨ch, List.mem_filter.2 ⟨List.mem_range.2 hc, hin⟩, hlo, hhi⟩)

end

/-- Settles O58: each start of a removal by its lemma, the removal's own steps by its state, and the scrub by what it leaves. -/
theorem lidsAreRemovedInOrder : Obligations.LidsAreRemovedInOrder := by
  intro s p id sig src slot epoch mac a v r hr
  obtain ⟨hshort, hlid, hcount, hfields, hrest⟩ := s.ackShort_shows p
  refine ⟨execLidDissolve_of_refused hr, execLidDissolve_of_signed hr, fun w hw => ⟨fun h => ?_, fun q h => ⟨fun hc => ?_, fun hm hs hc => ?_,
    fun hc => ?_, fun hm hn hc => ?_⟩⟩, execLidPartRemove_of_untaken, fun h u hu => ⟨fun hc => ?_, fun hv hf ha w hw => ?_⟩,
    fun why ms => ⟨fun h => ?_, fun h hs => ?_, fun h hs => ?_⟩, fun h => State.removalStep_of_none (hr ▸ h), State.removalStep_of_loading,
    fun hst hs hp => State.removalStep_of_waiting hst (.inl ⟨hr ▸ hs, hp⟩), fun hst hs ha => State.removalStep_of_waiting hst (.inr ⟨hr ▸ hs, hr ▸ ha⟩),
    fun hst hn hs ha => ?_, fun w hw => ⟨fun h => ?_, fun hst hs => ?_⟩, execRevokeTimeout_of_early hr,
    fun hst hs ha ht => ⟨_, hshort, hr ▸ hlid, hcount, hfields, hrest, execRevokeTimeout_of_due hr hst hs ha ht⟩, execLidScrubDone_of_other, fun h => ?_⟩
  · exact ⟨hw ▸ execRevoke_of_noLid h, hw ▸ execDepart_of_noLid h⟩
  · exact (execRevoke_of_lid h).trans ((if_pos (by simpa [or_assoc] using hc)).trans (by rw [hw]))
  · exact (execRevoke_of_lid h).trans ((if_neg (by simp [hm, hs, hc])).trans (by rw [hw]))
  · exact (execDepart_of_lid h).trans ((if_pos (by simpa [Option.isSome_iff_ne_none, or_assoc] using hc)).trans (by rw [hw]))
  · obtain ⟨t, pkt, ht, houtbox, hdest, hfirst, hsecond, hcopies, hrest⟩ := State.answered_shows hw q id
    refine ⟨t, pkt, (execDepart_of_lid h).trans ((if_neg (by simp [hm, hn, hc])).trans (by rw [← hw, ht])), houtbox, hdest, hfirst, hsecond, hcopies, hrest⟩
  · exact (execLidPartRemove_of_taken h hu).trans (if_pos (by simpa [or_assoc] using hc))
  · have hexec := (execLidPartRemove_of_taken h hu).trans (if_neg (by simp [hv, hf, ha]))
    rw [← hw] at hexec
    exact ⟨hw ▸ State.get_set_same _ _ _ _, fun hs => hexec.trans (by rw [if_pos hs]), fun h1 h2 => hexec.trans (by rw [if_neg (by simp [h1, h2])])⟩
  · rw [State.startRemoval_of_none (hr ▸ h), ← hr]
  · rw [State.startRemoval_of_some (hr ▸ h), ← hr, if_neg (by simp [hs])]
  · rw [State.startRemoval_of_some (hr ▸ h), if_pos (hr ▸ hs), hr]
  · exact ⟨_, (State.removalStep_of_revoking hst (hr ▸ hn) (.inl (hr ▸ hs))).trans (if_pos (by simp [← hr, hs, ha])), s.zeroPart_shows p⟩
  · exact hw ▸ execRevokeAck_of_ignored (hr ▸ h)
  · rw [hw, hr]
    exact execRevokeAck_of_awaited hst (hr ▸ hs)
  · obtain ⟨hstate, hremove, hid, hgen, hnone, hplait, hother⟩ := (s.lidScrubbed p).lidGone_shows p
    exact ⟨_, (s.lidScrubbed p).lidGone p, rfl, fun ch hc hin x hlo hhi => State.lidScrubbed_byte hc hin hlo hhi, hstate, hremove, hid, hgen, hnone, hplait,
      hother, execLidScrubDone_of_scrubbing h⟩

end Sys2Proof.Machine

/-! SUPPORT. Lids: how a charter is taken and shared, how keys go from the leader to the members, how a lid becomes ACTIVE and is
amended (12 R564 to R567). -/

namespace Sys2Proof.Machine

/-! ## A lid that is ACTIVE, and its keys -/

/-- A number read from bytes fits them. -/
theorem fieldAt_lt (m : List Byte) (off n : Nat) : fieldAt m off n < 256 ^ n := by
  refine Nat.lt_of_lt_of_le (leNat_lt_pow _) (Nat.pow_le_pow_right (by omega) ?_)
  exact List.length_take_le _ _

theorem State.lidActive_onlyFields (s : State) (p : Nat) : s.onlyFields (s.lidActive p) [(Fld.LID_PART_state, p), (Fld.LID_ID_LO_id_lo, p),
    (Fld.LID_ID_HI_id_hi, p), (Fld.LID_CHARTER_GEN_gen, p)] :=
  ⟨State.fieldsBut_setAll (s.fieldsBut_refl _) _ _ (by simp), rfl⟩

/-- An ACTIVE lid shows its charter's id and generation. -/
theorem State.lidActive_shows (s : State) (p : Nat) : (s.lidActive p).get Fld.LID_PART_state p = 2 ∧
    (s.lidActive p).get64 Fld.LID_ID_LO_id_lo Fld.LID_ID_HI_id_hi p = charterId (s.lidAt p).charter ∧
    (s.lidActive p).get Fld.LID_CHARTER_GEN_gen p = charterGen (s.lidAt p).charter := by
  have hid : charterId (s.lidAt p).charter < 256 ^ 8 := fieldAt_lt _ _ _
  have hgen : charterGen (s.lidAt p).charter < 256 ^ 4 := fieldAt_lt _ _ _
  simp (disch := decide) only [State.lidActive, State.get64, State.setAll_cons, State.setAll_nil, State.get_set_field, State.get_set_same]
  refine ⟨rfl, ?_, Nat.mod_eq_of_lt hgen⟩
  simp only [Fld.LID_ID_LO_id_lo, Fld.LID_ID_HI_id_hi]
  omega

/-- A field that an ACTIVE lid does not write reads as before. -/
theorem State.get_lidActive (s : State) {p : Nat} {f : Field} (hf : ∀ g ∈ [Fld.LID_PART_state, Fld.LID_ID_LO_id_lo, Fld.LID_ID_HI_id_hi,
    Fld.LID_CHARTER_GEN_gen], (f.reg * 32 + f.lo) % 16384 ≠ (g.reg * 32 + g.lo) % 16384) (k : Nat) : (s.lidActive p).get f k = s.get f k :=
  State.copiesBut_get (State.copiesBut_setAll (s.copiesBut_refl _) _ _ (by simp)) hf k

/-- Who the members of a charter are goes by the module's number alone. -/
theorem State.leads_of_me {s t : State} (h : t.me = s.me) (p : Nat) (c : List Byte) : t.leads p c = s.leads p c := by
  rw [State.leads, State.leads, State.isOwn, State.isOwn, h]

theorem State.charterOthers_of_me {s t : State} (h : t.me = s.me) (p : Nat) (c : List Byte) : t.charterOthers p c = s.charterOthers p c := by
  simp only [State.charterOthers, State.isOwn, h]

/-- The fields that loading a key writes. -/
def loadedFields : List Field := [Fld.KS_ATTR_class, Fld.KS_ATTR_state, Fld.KS_ATTR_expire_reset, Fld.KS_ATTR_lid, Fld.KS_USE_use_left]

theorem State.loadKey_copies (s : State) (k cls : Nat) (key : BitVec 768) (e l : Bool) (use : Nat) :
    s.copiesBut (s.loadKey k cls key e l use) loadedFields :=
  State.copiesBut_set (t := (s.setCell k { stored := key ^^^ s.keyMask, mask := s.keyMask, bundle := none }).setAll k [(Fld.KS_ATTR_class, cls),
    (Fld.KS_ATTR_state, 1), (Fld.KS_ATTR_expire_reset, bit e), (Fld.KS_ATTR_lid, bit l)])
    (State.copiesBut_setAll (t := s.setCell k { stored := key ^^^ s.keyMask, mask := s.keyMask, bundle := none }) (fun _ _ _ => rfl) _ _
      (by simp [loadedFields])) (by decide +kernel) _ _

/-- A field of another slot reads as before. -/
theorem State.loadKey_get_other (s : State) {k j : Nat} (hj : j ≠ k) (cls : Nat) (key : BitVec 768) (e l : Bool) (use : Nat) :
    (s.loadKey k cls key e l use).get Fld.KS_ATTR_state j = s.get Fld.KS_ATTR_state j ∧
      (s.loadKey k cls key e l use).get Fld.KS_ATTR_class j = s.get Fld.KS_ATTR_class j := by
  simp only [State.loadKey, State.setAll_cons, State.setAll_nil]
  constructor
  · simp (disch := decide) only [State.get_set_field]
    rw [State.get_set_copy _ hj, State.get_set_field _ (by decide)]
    rfl
  · simp (disch := decide) only [State.get_set_field]
    rw [State.get_set_copy _ hj]
    rfl

/-- The keys of a lid are in its slots with their epoch, and no other cell moves. -/
theorem State.loadLidKeys_shows {s t : State} {p e : Nat} {mem mac : BitVec 768} (ht : t = s.loadLidKeys p e mem mac) :
    t.keyOf (s.memSlot p) = mem ∧ t.keyOf (s.memSlot p + 1) = mac ∧ t.get Fld.KS_ATTR_state (s.memSlot p) = 1 ∧
      t.get Fld.KS_ATTR_state (s.memSlot p + 1) = 1 ∧ t.get Fld.KS_ATTR_class (s.memSlot p) = 1 ∧
      t.get Fld.KS_ATTR_class (s.memSlot p + 1) = 4 ∧ t.get Fld.KS_ATTR_epoch (s.memSlot p) = e % 256 ∧
      t.get Fld.KS_ATTR_epoch (s.memSlot p + 1) = e % 256 ∧ (∀ j, j ≠ s.memSlot p → j ≠ s.memSlot p + 1 → t.cell j = s.cell j) := by
  obtain ⟨hstate, hclass, -, -, -⟩ := s.loadKey_get (s.memSlot p) 1 mem false true useUncounted
  obtain ⟨hkey, hcell⟩ := s.loadKey_keyOf (s.memSlot p) 1 mem false true useUncounted
  unfold State.loadLidKeys at ht
  dsimp only at ht
  generalize s.memSlot p = k at *
  generalize s.loadKey k 1 mem false true useUncounted = w at *
  obtain ⟨hstate', hclass', -, -, -⟩ := w.loadKey_get (k + 1) 4 mac false true useUncounted
  obtain ⟨hkey', hcell'⟩ := w.loadKey_keyOf (k + 1) 4 mac false true useUncounted
  obtain ⟨hsame, hsameClass⟩ := w.loadKey_get_other (k := k + 1) (j := k) (by omega) 4 mac false true useUncounted
  generalize w.loadKey (k + 1) 4 mac false true useUncounted = x at *
  have hcopies : x.copiesBut t epochFields := ht ▸ State.copiesBut_trans (x.setEpoch_copies k e) ((x.setEpoch k e).setEpoch_copies (k + 1) e)
  have hrest : { t with regs := x.regs } = x := ht ▸
    (congrArg (fun y : State => { y with regs := x.regs }) ((x.setEpoch k e).setEpoch_rest (k + 1) e) :).trans (x.setEpoch_rest k e)
  have hkeys : t.keys = x.keys := (congrArg State.keys hrest :)
  have hread (j : Nat) : t.cell j = x.cell j := by rw [State.cell, State.cell, hkeys]
  have hget {f : Field} (hf : f = Fld.KS_ATTR_state ∨ f = Fld.KS_ATTR_class) (j : Nat) : t.get f j = x.get f j := by
    rcases hf with rfl | rfl
    · exact State.copiesBut_get hcopies (by decide +kernel) j
    · exact State.copiesBut_get hcopies (by decide +kernel) j
  have hepoch (j : Nat) : t.get Fld.KS_ATTR_epoch j = if j = k + 1 then e % 256 else if j = k then e % 256 else x.get Fld.KS_ATTR_epoch j := by
    rw [ht, State.get_setEpoch_epoch, State.get_setEpoch_epoch]
  refine ⟨?_, ?_, (hget (.inl rfl) _).trans (hsame.trans hstate), (hget (.inl rfl) _).trans hstate', (hget (.inr rfl) _).trans (hsameClass.trans hclass),
    (hget (.inr rfl) _).trans hclass', ?_, ?_, fun j hk hk' => (hread j).trans ((hcell' j hk').trans (hcell j hk))⟩
  · rw [State.keyOf, hread, hcell' k (by omega), ← State.keyOf, hkey]
  · rw [State.keyOf, hread, ← State.keyOf, hkey']
  · rw [hepoch, if_neg (by omega), if_pos rfl]
  · rw [hepoch, if_pos rfl]

/-- Loading a lid's keys leaves the module's number. -/
theorem State.loadLidKeys_me (s : State) (p e : Nat) (mem mac : BitVec 768) : (s.loadLidKeys p e mem mac).me = s.me := by
  have hkeys : ∀ w : State, ∀ k cls key l use, (w.loadKey k cls key false l use).get Fld.CAP_MODULE_module 0 = w.get Fld.CAP_MODULE_module 0 :=
    fun w k cls key l use => State.copiesBut_get (w.loadKey_copies k cls key false l use) (by decide +kernel) 0
  have hepoch : ∀ w : State, ∀ k e, (w.setEpoch k e).get Fld.CAP_MODULE_module 0 = w.get Fld.CAP_MODULE_module 0 :=
    fun w k e => State.copiesBut_get (w.setEpoch_copies k e) (by decide +kernel) 0
  rw [State.me, State.me, State.loadLidKeys, hepoch, hepoch, hkeys, hkeys]

/-! ## Sharing keys (12 R564 step 5) -/

/-- A member that the session attests is sent the keys. -/
theorem State.sendKeys_eq (s : State) (p : Nat) (m : List Byte) : s.sendKeys p m =
    if Config.attests s.freeCounter (memberModule m) (m.drop 8) (charterAccepts (s.lidAt p).charter) then
      s.drawn.sendRim (memberModule m) (.keyDist (BitVec.ofNat 64 (charterId (s.lidAt p).charter)) (sha512 (s.lidAt p).charter) (memberPart m)
        (s.get Fld.KS_ATTR_epoch (s.memSlot p)))
    else s.drawn := rfl

/-- With nobody to share with the lid is ACTIVE at once; else their acknowledgement is awaited. -/
theorem State.shareKeys_eq {s w : State} {ms : List (List Byte)} {p : Nat} (hw : w = ms.foldl (fun s m => s.sendKeys p m) s) : s.shareKeys p ms =
    if ms.isEmpty then (w.setLid p { s.lidAt p with awaits := [], sharing := false }).lidActive p
    else w.setLid p { s.lidAt p with awaits := ms.map memberModule, since := w.time, sharing := true } := by
  rw [hw]
  rfl

section

variable {s u : State} {p : Fin 32} {charter key : List Byte} {src : ModuleId} {id : BitVec 64} {digest macKey : BitVec 512} {epoch : BitVec 8}
  {memKey : BitVec 768} {k : Nat} {r : LidRec}

/-! ## The charter -/

/-- A charter that fails a check changes nothing. -/
theorem execLidCharter_of_refused (hk : k = s.memSlot p) (h : charterOk charter = false ∨ sha512 key ≠ s.charterDigest p ∨
    charterVerifies charter key = false ∨ s.ownEntry p charter = false ∨ s.underLid p = false ∨ fieldAt charter 0x14 1 ≠ k ∨
    s.get Fld.KS_ATTR_state k ≠ 0 ∨ s.get Fld.KS_ATTR_state (k + 1) ≠ 0 ∨ s.accepted charter = false ∨ 2 ≤ s.get Fld.LID_PART_state p) :
    execLidCharter p charter key s = .next s := by
  subst hk
  have hstate : 2 ≤ s.get Fld.LID_PART_state p ↔ ¬ (s.get Fld.LID_PART_state p = 0 ∨ s.get Fld.LID_PART_state p = 1) := by omega
  rw [hstate] at h
  exact if_pos (by simpa [State.slotEmpty, or_assoc] using h)

/-- The member whose charter passed. -/
def State.forming (s : State) (p : Nat) (charter key : List Byte) : State :=
  (s.setLid p { LidRec.none with charter := charter, key := key }).set Fld.LID_PART_state p 1

theorem State.forming_me (s : State) (p : Nat) (charter key : List Byte) : (s.forming p charter key).me = s.me := State.get_set_field _ (by decide) _ _ _

/-- The leader's fresh keys, in its slots under the next epoch. -/
def State.freshKeys (u : State) (p e : Nat) : State := u.draw768.2.drawn.loadLidKeys p e u.draw768.1 (keyFrom (bytes512 u.draw768.2.randomValue))

theorem State.freshKeys_me (u : State) (p e : Nat) : (u.freshKeys p e).me = u.me := State.loadLidKeys_me _ _ _ _ _

/-- A charter that passes puts the partition in FORMING; its leader shares fresh keys. -/
theorem execLidCharter_of_taken (hk : k = s.memSlot p) (hok : charterOk charter = true) (hdig : sha512 key = s.charterDigest p)
    (hver : charterVerifies charter key = true) (hown : s.ownEntry p charter = true) (hlid : s.underLid p = true)
    (hslot : fieldAt charter 0x14 1 = k) (h0 : s.get Fld.KS_ATTR_state k = 0) (h1 : s.get Fld.KS_ATTR_state (k + 1) = 0)
    (hacc : s.accepted charter = true) (hst : s.get Fld.LID_PART_state p < 2) : execLidCharter p charter key s =
      if s.leads p charter then .next (((s.forming p charter key).freshKeys p (s.get Fld.KS_ATTR_epoch k + 1)).shareKeys p (s.charterOthers p charter))
      else .next (s.forming p charter key) := by
  subst hk
  have hstate : s.get Fld.LID_PART_state p = 0 ∨ s.get Fld.LID_PART_state p = 1 := by omega
  have htaken : ¬ (!charterOk charter || sha512 key != s.charterDigest p || !charterVerifies charter key || !s.ownEntry p charter ||
      !s.underLid p || fieldAt charter 0x14 1 != s.memSlot p || !s.slotEmpty (s.memSlot p) || !s.slotEmpty (s.memSlot p + 1) || !s.accepted charter ||
      !(s.get Fld.LID_PART_state p == 0 || s.get Fld.LID_PART_state p == 1)) = true := by
    simpa [State.slotEmpty, hok, hdig, hver, hown, hlid, hslot, h0, h1, hacc] using or_iff_not_imp_left.1 hstate
  have hepoch : (s.forming p charter key).draw768.2.get Fld.KS_ATTR_epoch (s.memSlot p) = s.get Fld.KS_ATTR_epoch (s.memSlot p) :=
    State.get_set_field _ (by decide) _ _ _
  refine (if_neg htaken).trans ?_
  show (if !(s.forming p charter key).leads p charter then .next (s.forming p charter key)
    else .next (((s.forming p charter key).freshKeys p ((s.forming p charter key).draw768.2.get Fld.KS_ATTR_epoch (s.memSlot p) + 1)).shareKeys p
      (((s.forming p charter key).freshKeys p ((s.forming p charter key).draw768.2.get Fld.KS_ATTR_epoch (s.memSlot p) + 1)).charterOthers p charter)) : Out) = _
  rw [hepoch, State.leads_of_me (s.forming_me p charter key),
    State.charterOthers_of_me ((State.freshKeys_me _ _ _).trans (s.forming_me p charter key))]
  cases s.leads p charter <;> rfl

end

end Sys2Proof.Machine

/-! SUPPORT. Lids: how keys are distributed and acknowledged, how a charter is amended, how an import goes on and a wrap key is released
(12 R564 to R567, R574 to R577). -/

namespace Sys2Proof.Machine

section

variable {s u w : State} {p : Fin 32} {charter key : List Byte} {src : ModuleId} {id bundle : BitVec 64} {digest macKey : BitVec 512} {epoch : BitVec 8}
  {memKey : BitVec 768} {kw : BitVec 256} {uses : BitVec 24} {v : Word32} {k : Nat} {r : LidRec}

/-! ## Keys given and acknowledged -/

theorem execKeyDist_of_refused (hk : k = s.memSlot p) (hr : r = s.lidAt p) (h : s.get Fld.LID_PART_state p ≠ 1 ∨ charterId r.charter ≠ id.toNat ∨
    sha512 r.charter ≠ bytes512 digest ∨ s.get Fld.KS_ATTR_state k ≠ 0 ∨ s.get Fld.KS_ATTR_state (k + 1) ≠ 0) :
    execKeyDist p id digest epoch memKey macKey s = .next s := by
  subst hk hr
  exact if_pos (by simpa [State.slotEmpty] using h)

theorem execKeyDist_of_forming (hk : k = s.memSlot p) (hr : r = s.lidAt p) (hst : s.get Fld.LID_PART_state p = 1)
    (hid : charterId r.charter = id.toNat) (hdig : sha512 r.charter = bytes512 digest) (h0 : s.get Fld.KS_ATTR_state k = 0)
    (h1 : s.get Fld.KS_ATTR_state (k + 1) = 0) : execKeyDist p id digest epoch memKey macKey s =
      .next ((s.loadLidKeys p epoch.toNat memKey (keyFrom (bytes512 macKey))).sendRim (memberModule (charterMember r.charter 0)) (.keyAck id)) := by
  subst hk hr
  exact if_neg (by simp [State.slotEmpty, hst, hid, hdig, h0, h1])

theorem execKeyAck_of_ignored (hr : r = s.lidAt p) (h : r.sharing = false ∨ r.removal ≠ none ∨ src.toNat ∉ r.awaits) :
    execKeyAck p src s = .next (s.unmarkLost src.toNat) := by
  have hlid : (s.unmarkLost src.toNat).lidAt p = r := hr.symm
  unfold execKeyAck
  dsimp only
  rw [hlid]
  exact if_pos (by simpa [Option.isSome_iff_ne_none, or_assoc] using h)

/-- An awaited acknowledgement; with the last one the lid is ready. -/
theorem execKeyAck_of_awaited (hr : r = s.lidAt p) (hs : r.sharing = true) (hn : r.removal = none) (ha : src.toNat ∈ r.awaits) {n : LidRec}
    (hnew : n = { r with awaits := r.awaits.erase src.toNat }) {t : State}
    (ht : t = ((s.unmarkLost src.toNat).setLid p { n with sharing := false }).lidActive p) : execKeyAck p src s =
      if n.awaits = [] then .next ((t.charterOthers p r.charter).foldl
        (fun s m => s.sendRim (memberModule m) (.lidReady (BitVec.ofNat 64 (charterId r.charter)))) t)
      else .next ((s.unmarkLost src.toNat).setLid p n) := by
  have hlid : (s.unmarkLost src.toNat).lidAt p = r := hr.symm
  subst hnew ht
  unfold execKeyAck
  dsimp only
  rw [hlid, if_neg (by simp [hs, hn, ha])]
  simp only [List.isEmpty_iff, Bool.not_eq_true', ← Bool.not_eq_true, ite_not]

theorem execLidReady_of_refused (hk : k = s.memSlot p) (hr : r = s.lidAt p) (h : s.get Fld.LID_PART_state p ≠ 1 ∨
    charterId r.charter ≠ id.toNat ∨ s.get Fld.KS_ATTR_state k ≠ 1) : execLidReady p id s = .next s := by
  subst hk hr
  refine if_neg ?_
  rintro ⟨hst, hid, hact⟩
  have hact : s.get Fld.KS_ATTR_state (s.memSlot p) = 1 := by simpa [State.slotActive] using hact
  exact h.elim (fun h => h hst) (fun h => h.elim (fun h => h hid) (fun h => h hact))

theorem execLidReady_of_held (hk : k = s.memSlot p) (hr : r = s.lidAt p) (hst : s.get Fld.LID_PART_state p = 1)
    (hid : charterId r.charter = id.toNat) (hact : s.get Fld.KS_ATTR_state k = 1) : execLidReady p id s = .next (s.lidActive p) := by
  subst hk hr
  exact if_pos ⟨hst, hid, by simp [State.slotActive, hact]⟩

theorem execKeyDistTimeout_of_due (hr : r = s.lidAt p) (hs : r.sharing = true) (hn : r.removal = none)
    (ht : r.since + max 1000 (s.get Fld.LID_REVOKE_TIMEOUT_us) ≤ s.time) : execKeyDistTimeout p s = .next (s.startRemoval p .dissolved []) := by
  subst hr
  have hdue : decide ((s.lidAt p).since + s.revokeTimeout ≤ s.time) = true := decide_eq_true ht
  exact if_pos (by rw [hs, hn, hdue]; decide)

theorem execKeyDistTimeout_of_early (hr : r = s.lidAt p) (h : r.sharing = false ∨ r.removal ≠ none ∨
    s.time < r.since + max 1000 (s.get Fld.LID_REVOKE_TIMEOUT_us)) : execKeyDistTimeout p s = .next s := by
  subst hr
  refine if_neg ?_
  rcases h with h | h | h
  · simp [h]
  · simp [h]
  · have hearly : decide ((s.lidAt p).since + s.revokeTimeout ≤ s.time) = false := decide_eq_false (Nat.not_le.2 h)
    rw [hearly, Bool.and_false]
    decide

/-! ## Amending (12 R567) -/

theorem execLidAmend_of_refused (hk : k = s.memSlot p) (hr : r = s.lidAt p) (h : s.get Fld.LID_PART_state p ≠ 2 ∨ r.removal ≠ none ∨
    charterOk charter = false ∨ key ≠ r.key ∨ charterVerifies charter key = false ∨ charterId charter ≠ charterId r.charter ∨
    charterGen charter ≤ charterGen r.charter ∨ fieldAt charter 0x14 1 ≠ k) : execLidAmend p charter key s = .next s := by
  subst hk hr
  exact if_pos (by simpa [Option.isSome_iff_ne_none] using h)

/-- The member with the new charter and advanced epochs. -/
def State.amended (s : State) (p : Nat) (charter : List Byte) : State :=
  ((s.setLid p { s.lidAt p with charter := charter }).stepEpochs p).lidActive p

/-- An amendment that leaves the member out begins its removal; else the leader gives the keys to those it adds. -/
theorem execLidAmend_of_taken (hk : k = s.memSlot p) (hr : r = s.lidAt p) (hst : s.get Fld.LID_PART_state p = 2) (hn : r.removal = none)
    (hok : charterOk charter = true) (hkey : key = r.key) (hver : charterVerifies charter key = true) (hid : charterId charter = charterId r.charter)
    (hgen : charterGen r.charter < charterGen charter) (hslot : fieldAt charter 0x14 1 = k) : execLidAmend p charter key s =
      if !s.ownEntry p charter then .next (s.startRemoval p .amended [])
      else .next (if (s.amended p charter).leads p charter && !((s.charterOthers p charter).filter (fun m => !(charterEntries r.charter).contains m)).isEmpty
        then (s.amended p charter).shareKeys p ((s.charterOthers p charter).filter (fun m => !(charterEntries r.charter).contains m))
        else s.amended p charter) := by
  subst hk hr
  exact if_neg (by simp [hst, hn, hok, hkey ▸ hver, hkey, hid, Nat.not_le.2 hgen, hslot])

theorem State.amended_shows (s : State) (p : Nat) (charter : List Byte) :
    ((s.amended p charter).lidAt p).charter = charter ∧ (s.amended p charter).get Fld.LID_PART_state p = 2 ∧
      (s.amended p charter).get Fld.KS_ATTR_epoch (s.memSlot p) = (s.get Fld.KS_ATTR_epoch (s.memSlot p) + 1) % 256 ∧
      (s.amended p charter).get Fld.KS_ATTR_epoch (s.memSlot p + 1) = (s.get Fld.KS_ATTR_epoch (s.memSlot p + 1) + 1) % 256 ∧
      (s.amended p charter).get Fld.LID_CHARTER_GEN_gen p = charterGen charter ∧
      { s.amended p charter with regs := s.regs, lids := s.lids } = s ∧ (s.amended p charter).me = s.me := by
  unfold State.amended
  have hlid : (s.setLid p { s.lidAt p with charter := charter }).lidAt p = { s.lidAt p with charter := charter } := State.lidAt_setLid _ _ _
  have hmem : (s.setLid p { s.lidAt p with charter := charter }).memSlot p = s.memSlot p := rfl
  have hread (f : Field) (j : Nat) : (s.setLid p { s.lidAt p with charter := charter }).get f j = s.get f j := rfl
  have hset : { s.setLid p { s.lidAt p with charter := charter } with lids := s.lids } = s := rfl
  generalize s.setLid p { s.lidAt p with charter := charter } = w at *
  obtain ⟨hfirst, hsecond⟩ := w.stepEpochs_epochs p
  have hcopies := w.stepEpochs_copies p
  have hrest := w.stepEpochs_rest p
  generalize w.stepEpochs p = x at *
  obtain ⟨hstate, -, hgen⟩ := x.lidActive_shows p
  have hxlid : x.lidAt p = w.lidAt p := by
    rw [State.lidAt, State.lidAt, show x.lids = w.lids from (congrArg State.lids hrest :)]
  have hcharter : (x.lidAt p).charter = charter := by rw [hxlid, hlid]
  have hactive : { x.lidActive p with regs := x.regs } = x := (x.lidActive_onlyFields p).2
  refine ⟨hcharter, hstate, ?_, ?_, by rw [hgen, hcharter], ?_, ?_⟩
  · rw [State.get_lidActive _ (by decide +kernel), ← hmem, hfirst, hread]
  · rw [State.get_lidActive _ (by decide +kernel), ← hmem, hsecond, hread]
  · exact ((congrArg (fun y : State => { y with regs := s.regs, lids := s.lids }) hactive :).trans
      (congrArg (fun y : State => { y with regs := s.regs, lids := s.lids }) hrest :)).trans
      (congrArg (fun y : State => { y with regs := s.regs }) hset :)
  · rw [State.me, State.me, State.get_lidActive _ (by decide +kernel), State.copiesBut_get hcopies (by decide +kernel), hread]

/-! ## Imports and wrap keys (12 R574 to R577) -/

/-- The import that a write of go starts. -/
def State.importStarted (u : State) (p : Nat) : State :=
  (u.setAll p [(Fld.LID_IMPORT_CMD_busy, 1), (Fld.LID_IMPORT_CHUNKS_chunks, 0)]).setImport p
    { Import.none with
      basket := u.get Fld.LID_IMPORT_CMD_basket_index p,
      src := 2 ^ 6 * u.get Fld.LID_IMPORT_SRC_LO_src_lo p + 2 ^ 32 * u.get Fld.LID_IMPORT_SRC_HI_src_hi p,
      dst := 2 ^ 6 * u.get Fld.LID_IMPORT_DST_LO_dst_lo p + 2 ^ 32 * u.get Fld.LID_IMPORT_DST_HI_dst_hi p }

theorem execLidImport_of_taken (h : s.takes (.host p) (0xE0410 + 0x20 * p.val) = true)
    (hu : u = s.mmioWrite (.host p) (0xE0410 + 0x20 * p.val) v.toNat) : execLidImport p v s =
      if !bitOf v.toNat 8 || s.flag Fld.LID_IMPORT_CMD_busy p then .next u else .next ((u.importStarted p).importStep p) := by
  have hget {f : Field} (hf : ∀ g ∈ [Fld.LID_IMPORT_CMD_busy, Fld.LID_IMPORT_CHUNKS_chunks],
      (f.reg * 32 + f.lo) % 16384 ≠ (g.reg * 32 + g.lo) % 16384) :
      (u.setAll p [(Fld.LID_IMPORT_CMD_busy, 1), (Fld.LID_IMPORT_CHUNKS_chunks, 0)]).get f p = u.get f p :=
    State.copiesBut_get (State.copiesBut_setAll (u.copiesBut_refl _) _ _ (by simp)) hf p
  unfold execLidImport
  dsimp only
  rw [if_neg (by simp [h]), ← hu]
  rw [hget (by decide +kernel), hget (by decide +kernel), hget (by decide +kernel), hget (by decide +kernel), hget (by decide +kernel)]
  rfl

theorem State.importStarted_shows (u : State) (p : Nat) : (u.importStarted p).get Fld.LID_IMPORT_CMD_busy p = 1 ∧
    (u.importStarted p).get Fld.LID_IMPORT_CHUNKS_chunks p = 0 ∧
    u.fieldsBut (u.importStarted p) [(Fld.LID_IMPORT_CMD_busy, p), (Fld.LID_IMPORT_CHUNKS_chunks, p)] ∧
    { u.importStarted p with regs := u.regs, imports := u.imports } = u :=
  ⟨(State.get_set_field _ (by decide) _ _ _).trans (State.get_set_same _ _ _ _), State.get_set_same _ _ _ _,
    State.fieldsBut_setAll (t := u) (u.fieldsBut_refl _) _ _ (by simp), rfl⟩

/-- An import of a lid that is not ACTIVE ends with code 8, and one in another's basket with 7. -/
theorem State.importStep_of_inactive {x : Import} (h : s.importAt p = some x) (hst : s.get Fld.LID_PART_state p ≠ 2) :
    s.importStep p = s.importFail p x 8 := by
  unfold State.importStep
  rw [h]
  exact if_pos hst

theorem State.importStep_of_foreign {x : Import} (h : s.importAt p = some x) (hst : s.get Fld.LID_PART_state p = 2)
    (ho : s.basketOwner x.basket ≠ some p.val) : s.importStep p = s.importFail p x 7 := by
  unfold State.importStep
  rw [h]
  exact (if_neg (not_not_intro hst)).trans (if_pos ho)

/-- An import that has its header and its key goes on by chunks. -/
theorem State.importStep_of_keyed {x : Import} (h : s.importAt p = some x) (hst : s.get Fld.LID_PART_state p = 2)
    (ho : s.basketOwner x.basket = some p.val) {slot : Nat} {kw : List Byte} (hk : x.key = some (slot, kw)) :
    s.importStep p = s.importChunks p x slot kw ((x.len - x.plain.length + 65535) / 65536) := by
  unfold State.importStep
  rw [h]
  dsimp only
  rw [if_neg (not_not_intro hst), if_neg (not_not_intro ho), hk]

theorem execKeyRelease_of_noLid (h : s.partitions.find? (fun q => s.get Fld.LID_PART_state q == 2 &&
    s.get64 Fld.LID_ID_LO_id_lo Fld.LID_ID_HI_id_hi q == id.toNat) = none) : execKeyRelease id bundle kw uses s = .next s := by
  simp only [execKeyRelease, h]

/-- A wrap key bound to its bundle. -/
def State.wrapLoaded (s : State) (j : Nat) (bundle : BitVec 64) (kw : BitVec 256) (uses : BitVec 24) : State :=
  (s.loadKey j 3 (keyFrom (beBytes 32 kw.toNat)) true true uses.toNat).setCell j
    { (s.loadKey j 3 (keyFrom (beBytes 32 kw.toNat)) true true uses.toNat).cell j with bundle := some bundle }

theorem execKeyRelease_of_refused {q : Nat} (h : s.partitions.find? (fun q => s.get Fld.LID_PART_state q == 2 &&
    s.get64 Fld.LID_ID_LO_id_lo Fld.LID_ID_HI_id_hi q == id.toNat) = some q) (hc : s.freeWrap q = none ∨ uses = 0 ∨ uses = 0xFFFFFF) :
    execKeyRelease id bundle kw uses s = .next s := by
  cases hf : s.freeWrap q with
  | none => simp only [execKeyRelease, h, hf]
  | some j =>
    have huses : uses = 0 ∨ uses.toNat = useUncounted := hc.elim (fun h => by rw [h] at hf; cases hf) (Or.imp_right fun h => by rw [h]; rfl)
    simp only [execKeyRelease, h, hf, if_pos huses]

theorem execKeyRelease_of_free {q j : Nat} (h : s.partitions.find? (fun q => s.get Fld.LID_PART_state q == 2 &&
    s.get64 Fld.LID_ID_LO_id_lo Fld.LID_ID_HI_id_hi q == id.toNat) = some q) (hf : s.freeWrap q = some j) (h0 : uses ≠ 0) (hc : uses ≠ 0xFFFFFF) :
    execKeyRelease id bundle kw uses s = .next (s.wrapLoaded j bundle kw uses) := by
  have huses : ¬ (uses = 0 ∨ uses.toNat = useUncounted) := fun hu => hu.elim h0 fun hu => hc (BitVec.eq_of_toNat_eq hu)
  simp only [execKeyRelease, h, hf, if_neg huses, State.wrapLoaded]

theorem State.wrapLoaded_shows (s : State) (j : Nat) (bundle : BitVec 64) (kw : BitVec 256) (uses : BitVec 24) :
    (s.wrapLoaded j bundle kw uses).keyOf j = keyFrom (beBytes 32 kw.toNat) ∧ ((s.wrapLoaded j bundle kw uses).cell j).bundle = some bundle ∧
      (s.wrapLoaded j bundle kw uses).get Fld.KS_ATTR_state j = 1 ∧ (s.wrapLoaded j bundle kw uses).get Fld.KS_ATTR_class j = 3 ∧
      (s.wrapLoaded j bundle kw uses).get Fld.KS_ATTR_expire_reset j = 1 ∧ (s.wrapLoaded j bundle kw uses).get Fld.KS_USE_use_left j = uses.toNat ∧
      (∀ i, i ≠ j → (s.wrapLoaded j bundle kw uses).cell i = s.cell i) ∧
      { s.wrapLoaded j bundle kw uses with regs := s.regs, keys := s.keys } = s := by
  obtain ⟨hstate, hclass, huse, hexpire, -⟩ := s.loadKey_get j 3 (keyFrom (beBytes 32 kw.toNat)) true true uses.toNat
  obtain ⟨hkey, hother⟩ := s.loadKey_keyOf j 3 (keyFrom (beBytes 32 kw.toNat)) true true uses.toNat
  have hrest := s.loadKey_rest j 3 (keyFrom (beBytes 32 kw.toNat)) true true uses.toNat
  unfold State.wrapLoaded
  generalize s.loadKey j 3 (keyFrom (beBytes 32 kw.toNat)) true true uses.toNat = w at *
  have hcell : (w.setCell j { w.cell j with bundle := some bundle }).cell j = { w.cell j with bundle := some bundle } := Sparse.get_set_same _ _ _ _
  refine ⟨?_, by rw [hcell], hstate, hclass, hexpire, huse.trans (Nat.mod_eq_of_lt uses.isLt),
    fun i hi => (Sparse.get_set_apart _ _ _ hi _).trans (hother i hi), hrest⟩
  rw [State.keyOf, hcell, ← hkey]
  rfl

end

end Sys2Proof.Machine

/-! SUPPORT. The lid's forming, amending and importing, put together (12 R564 to R577). -/

namespace Sys2Proof.Machine

/-- Settles O57: the charter, the keys, the amendment and the import each by its own lemmas. -/
theorem lidsFormAmendAndImport : Obligations.LidsFormAmendAndImport := by
  intro s p charter key src id bundle digest macKey epoch memKey kw uses v k r hk hr
  refine ⟨execLidCharter_of_refused hk, fun hok hdig hver hown hlid hslot h0 h1 hacc hst => ?_, fun m msg => s.sendRim_sends m msg,
    fun ms w hw => ⟨fun hms => ?_, fun hms => ?_⟩, fun m => ?_, fun e mem mac t ht => hk ▸ State.loadLidKeys_shows ht, execKeyDist_of_refused hk hr,
    fun hst hid hdig h0 h1 t ht => ht ▸ execKeyDist_of_forming hk hr hst hid hdig h0 h1, fun w hw => ⟨fun h => hw ▸ execKeyAck_of_ignored hr h,
      fun hs hn ha n hnew => ⟨fun hrest => ?_, fun hlast t ht => ⟨?_, ?_⟩⟩⟩, fun hst hid hact => ?_, execLidReady_of_refused hk hr,
    execKeyDistTimeout_of_due hr, execKeyDistTimeout_of_early hr, execLidAmend_of_refused hk hr,
    fun hst hn hok hkey hver hid hgen hslot => ?_, fun h u hu => ⟨fun hc => ?_, fun hv hb => ?_⟩,
    fun x hx => ⟨State.importStep_of_inactive hx, State.importStep_of_foreign hx, fun hst ho slot kw => State.importStep_of_keyed hx hst ho⟩,
    execKeyRelease_of_noLid, fun q hq => ⟨execKeyRelease_of_refused hq,
      fun j hf h0 hc => ⟨_, execKeyRelease_of_free hq hf h0 hc, s.wrapLoaded_shows j bundle kw uses⟩⟩⟩
  · have hexec := execLidCharter_of_taken hk hok hdig hver hown hlid hslot h0 h1 hacc hst
    exact ⟨s.forming p charter key, State.get_set_same _ _ _ _, State.lidAt_setLid _ _ _, ((s.setLid p _).set_onlyFields _ _ _).1, rfl,
      fun hl => hexec.trans (if_neg (by simp [hl])), fun hl w hw => hexec.trans ((if_pos hl).trans (by rw [hw]; rfl))⟩
  · rw [State.shareKeys_eq hw, if_pos (by simp [hms]), hr]
  · rw [State.shareKeys_eq hw, if_neg (by simp [hms]), hr]
  · rw [hr, hk]
    exact s.sendKeys_eq p m
  · exact (execKeyAck_of_awaited hr hs hn ha hnew rfl).trans ((if_neg hrest).trans (by rw [hw]))
  · exact ht ▸ (State.lidActive_shows _ p).1
  · have hme : t.me = s.me := by rw [ht, hw, State.me, State.get_lidActive _ (by decide +kernel)]; rfl
    refine (execKeyAck_of_awaited hr hs hn ha hnew (t := t) (hw ▸ ht)).trans ((if_pos hlast).trans ?_)
    rw [State.charterOthers_of_me hme]
  · obtain ⟨hstate, hlid, hgen⟩ := s.lidActive_shows p
    exact ⟨_, execLidReady_of_held hk hr hst hid hact, hstate, hlid.trans (hr ▸ hid), hr ▸ hgen, s.lidActive_onlyFields p⟩
  · have hexec := execLidAmend_of_taken hk hr hst hn hok hkey hver hid hgen hslot
    obtain ⟨hcharter, hstate, hfirst, hsecond, hshown, hrest, hme⟩ := s.amended_shows p charter
    refine ⟨fun ho => hexec.trans (if_pos (by simp [ho])), fun ho => ⟨s.amended p charter, hcharter, hstate, hk ▸ hfirst, hk ▸ hsecond, hshown, hrest,
      fun added hadd => hexec.trans ((if_neg (by simp [ho])).trans ?_)⟩⟩
    rw [State.leads_of_me hme, hadd]
  · exact (execLidImport_of_taken h hu).trans (if_pos (by simpa using hc))
  · obtain ⟨hbusy, hchunks, hfields, hrest⟩ := u.importStarted_shows p
    exact ⟨_, hbusy, hchunks, rfl, hfields, hrest, (execLidImport_of_taken h hu).trans (if_neg (by simp [hv, hb]))⟩

end Sys2Proof.Machine

/-! SUPPORT. The power-up boot: which registers its stages write, and what besides them it moves (16 R706 to R712). -/

namespace Sys2Proof.Machine

/-! ## The stages of the boot ROM -/

/-- The fields that the stages of a boot write, but for its own status and the owner's tries. -/
def bootFields : List Field :=
  [Fld.HI_PART_ID_lid, Fld.HI_PART_PORTS_ports, Fld.HI_KEYSLOT_first, Fld.HI_KEYSLOT_count, Fld.HI_LABELS_labels, Fld.HI_POOL_BASE_LO_base_lo,
   Fld.HI_POOL_BASE_HI_base_hi, Fld.HI_POOL_SIZE_pages, Fld.HI_POOL_SIZE_port, Fld.LID_PART_sidecar_en, Fld.LID_PART_mem_slot, Fld.LID_PART_epoch,
   Fld.HI_CARVE_MAP_channels, Fld.HI_LINK_CFG_bifur, Fld.HI_LINK_CFG_role, Fld.KS_ATTR_partition, Fld.KS_ATTR_in_range, Fld.LID_STATUS_conf_mode,
   Fld.RIM_MANIFEST_GEN_LO_gen_lo, Fld.RIM_MANIFEST_GEN_HI_gen_hi, Fld.RIM_STATUS_default_manifest, Fld.RWS_LANE_MAP_lanes, Fld.RWS_SITE_STATE_slots,
   Fld.FC_BRIDGE_STATUS_retired, Fld.FC_PATROL_REC_recs, Fld.FC_SERDES_REC_recs, Fld.WF_LANE_RECOVERY_rec_a, Fld.WF_LANE_RECOVERY_rec_b,
   Fld.WF_LANE_RECOVERY_rec_s, Fld.WF_PORT_STATE_spare_used, Fld.WF_PORT_STATE_lane_lo, Fld.WF_PORT_STATE_lane_hi, Fld.WF_PORT_STATE_state,
   Fld.CAP_PEER_link, Fld.CK_DROOP_CFG_cal_done, Fld.CAP_CORE_MAP_present, Fld.CAP_CHAN_MAP_present, Fld.CAP_PORT_MAP_present, Fld.CAP_COUNTS_cores,
   Fld.CAP_COUNTS_channels, Fld.CAP_COUNTS_ports, Fld.CAP_HBM_MIB_mib, Fld.CAP_SRAM_KIB_kib, Fld.CAP_PEAK_2X4_gops, Fld.CAP_PEAK_4X4_gops,
   Fld.CAP_PEAK_FP8_gops, Fld.CAP_PEAK_BF16_gops, Fld.CAP_PEAK_FP32_gflops, Fld.LID_STATUS_owner_set, Fld.LID_STATUS_owner_entry,
   Fld.LID_SVN_fused_svn, Fld.KS_ATTR_class, Fld.KS_ATTR_state, Fld.KS_ATTR_expire_reset, Fld.KS_ATTR_lid, Fld.KS_USE_use_left]

/-- `t` agrees with `s` but in the fields of a boot's stages, the keys and the random draws. -/
def State.bootStage (s t : State) : Prop :=
  s.copiesBut t bootFields ∧ { t with regs := s.regs, keys := s.keys, freeCounter := s.freeCounter } = s

section

variable {s t u : State}

theorem State.bootStage_refl (s : State) : s.bootStage s := ⟨s.copiesBut_refl _, rfl⟩

theorem State.bootStage_trans (h : s.bootStage t) (g : t.bootStage u) : s.bootStage u :=
  ⟨State.copiesBut_trans h.1 g.1, (congrArg (fun x : State => { x with regs := s.regs, keys := s.keys, freeCounter := s.freeCounter }) g.2 :).trans h.2⟩

/-- Stages one after the other. -/
theorem State.bootStage_foldl {α : Type} {f : State → α → State} (hf : ∀ (x : State) (a : α), s.bootStage x → s.bootStage (f x a)) (l : List α) (h : s.bootStage t) :
    s.bootStage (l.foldl f t) :=
  List.foldlRecOn (motive := s.bootStage) l _ h fun x hx a _ => hf x a hx

theorem State.bootStage_set (h : s.bootStage t) {f : Field} (hf : f ∈ bootFields) (i v : Nat) : s.bootStage (t.set f i v) :=
  ⟨State.copiesBut_set h.1 hf i v, h.2⟩

theorem State.setAll_onlyRegs (s : State) (i : Nat) (l : List (Field × Nat)) : { s.setAll i l with regs := s.regs } = s := by
  induction l generalizing s with
  | nil => rfl
  | cons e l ih => exact (congrArg (fun x : State => { x with regs := s.regs }) (ih (s.set e.1 i e.2)) :)

theorem State.bootStage_setAll (h : s.bootStage t) (i : Nat) (l : List (Field × Nat)) (hl : ∀ e ∈ l, e.1 ∈ bootFields) : s.bootStage (t.setAll i l) :=
  ⟨State.copiesBut_setAll h.1 i l hl,
    (congrArg (fun x : State => { x with regs := s.regs, keys := s.keys, freeCounter := s.freeCounter }) (t.setAll_onlyRegs i l) :).trans h.2⟩

theorem State.bootStage_loadKey (s : State) (k cls : Nat) (key : BitVec 768) (e l : Bool) (use : Nat) : s.bootStage (s.loadKey k cls key e l use) :=
  ⟨State.copiesBut_mono (s.loadKey_copies k cls key e l use) (by decide +kernel),
    (congrArg (fun x : State => { x with freeCounter := s.freeCounter }) (s.loadKey_rest k cls key e l use) :)⟩

end

/-! ### Stage 2: the manifest -/

theorem State.writeSetup_bootStage (s : State) (p : Nat) (x : PartSetup) : s.bootStage (s.writeSetup p x) := by
  refine State.bootStage_foldl (fun y i hy => ?_) _ ?_
  · exact State.bootStage_set hy (by decide +kernel) _ _
  · exact State.bootStage_set (State.bootStage_setAll s.bootStage_refl _ _ (by simp [bootFields])) (by decide +kernel) _ _

theorem State.showRanges_bootStage (s : State) : s.bootStage s.showRanges := by
  refine State.bootStage_foldl (fun x k hx => ?_) _ s.bootStage_refl
  split
  · exact State.bootStage_setAll hx _ _ (by simp [bootFields])
  · exact State.bootStage_setAll hx _ _ (by simp [bootFields])

/-- What a manifest's entry shows: an invalid one shows nothing. -/
def PartSetup.shown (x : PartSetup) : PartSetup :=
  if x.valid then x else { x with
    lid := false, sidecar := false, first := 0, count := 0, labels := 0, ports := 0, poolPort := 0, poolBase := 0, poolPages := 0, carve := 0 }

/-- The registers of a manifest's set-up, from the partitions and the set-ups it gives. -/
def State.manifestRegs (s : State) (us : List (Nat × PartSetup)) (links conf gen none : Nat) : State :=
  (((((List.range 36).foldl (fun s fn => s.setLinkCfg links fn) (us.foldl (fun s e => s.writeSetup e.1 e.2.shown) s)).showRanges.set
    Fld.LID_STATUS_conf_mode 0 conf).set64 Fld.RIM_MANIFEST_GEN_LO_gen_lo Fld.RIM_MANIFEST_GEN_HI_gen_hi 0 gen).set
    Fld.RIM_STATUS_default_manifest 0 none)

theorem State.manifestRegs_bootStage (s : State) (us : List (Nat × PartSetup)) (links conf gen none : Nat) :
    s.bootStage (s.manifestRegs us links conf gen none) := by
  have hsetups : s.bootStage (us.foldl (fun s e => s.writeSetup e.1 e.2.shown) s) := by
    refine State.bootStage_foldl (fun x e hx => ?_) us s.bootStage_refl
    have hone := x.writeSetup_bootStage e.1 e.2.shown
    exact State.bootStage_trans hx hone
  have hlinks : s.bootStage ((List.range 36).foldl (fun s fn => s.setLinkCfg links fn) (us.foldl (fun s e => s.writeSetup e.1 e.2.shown) s)) := by
    refine State.bootStage_foldl (fun x fn hx => ?_) _ hsetups
    exact State.bootStage_setAll hx _ _ (by simp [bootFields])
  unfold State.manifestRegs State.set64
  generalize (List.range 36).foldl _ _ = x at hlinks ⊢
  refine State.bootStage_set ?_ (by decide +kernel) _ _
  refine State.bootStage_set ?_ (by decide +kernel) _ _
  refine State.bootStage_set ?_ (by decide +kernel) _ _
  refine State.bootStage_set ?_ (by decide +kernel) _ _
  exact State.bootStage_trans hlinks x.showRanges_bootStage

/-- The set-ups of the partitions under a manifest. -/
def State.setups (s : State) (m : Option (List Byte)) : List (Nat × PartSetup) := (List.range 32).map (fun p => (p, s.setupOf m p))

/-- The partitions a manifest makes valid. -/
def State.validSetups (s : State) (m : Option (List Byte)) : List (Nat × PartSetup) := (s.setups m).filter (fun e => e.2.valid)

/-- The state a manifest gives before its generation is recorded. -/
def State.manifested (s : State) (m : Option (List Byte)) (gen : Nat) : State :=
  State.manifestRegs { s with manifest := m, parts := (s.validSetups m).map (fun (e : Nat × PartSetup) => (e.1, e.2.link)) } (s.setups m) (linksOf m)
    (bit ((s.validSetups m).any (fun e => e.2.lid))) gen (bit m.isNone)

/-- A manifest's generation goes into the service record. -/
def State.recordGen (x : State) (g : Nat) : State := { x with service := { x.service with manifestGen := g, seq := x.service.seq + 1 } }

theorem State.applyManifest_none (s : State) : s.applyManifest none = s.manifested none 0 := rfl

theorem State.applyManifest_some (s : State) (b : List Byte) :
    s.applyManifest (some b) = (s.manifested (some b) (fieldAt b 8 8)).recordGen (fieldAt b 8 8) := by
  unfold State.applyManifest State.recordGen State.manifested State.manifestRegs State.validSetups State.setups PartSetup.shown
  dsimp only

/-- `t` agrees with `s` but in what a manifest moves. -/
def State.manifestRest (s t : State) : Prop :=
  { t with regs := s.regs, keys := s.keys, freeCounter := s.freeCounter, manifest := s.manifest, parts := s.parts,
           service := { t.service with manifestGen := s.service.manifestGen, seq := s.service.seq } } = s

theorem State.manifested_shows (s : State) (m : Option (List Byte)) (gen : Nat) : (s.manifested m gen).manifest = m ∧
    s.copiesBut (s.manifested m gen) bootFields ∧
    { s.manifested m gen with regs := s.regs, keys := s.keys, freeCounter := s.freeCounter, manifest := s.manifest, parts := s.parts } = s := by
  unfold State.manifested
  generalize (s.validSetups m).map (fun (e : Nat × PartSetup) => (e.1, e.2.link)) = parts
  generalize bit ((s.validSetups m).any (fun e => e.2.lid)) = conf
  obtain ⟨hcopies, hrest⟩ := { s with manifest := m, parts := parts }.manifestRegs_bootStage (s.setups m) (linksOf m) conf gen (bit m.isNone)
  generalize { s with manifest := m, parts := parts }.manifestRegs (s.setups m) (linksOf m) conf gen (bit m.isNone) = x at hcopies hrest ⊢
  exact ⟨(congrArg State.manifest hrest :), hcopies, (congrArg (fun y : State => { y with manifest := s.manifest, parts := s.parts }) hrest :)⟩

/-- An applied manifest is kept; besides it the partitions and its generation in the service record move. -/
theorem State.applyManifest_shows (s : State) (m : Option (List Byte)) : (s.applyManifest m).manifest = m ∧
    s.copiesBut (s.applyManifest m) bootFields ∧ s.manifestRest (s.applyManifest m) := by
  cases m with
  | none =>
    rw [State.applyManifest_none]
    obtain ⟨hmanifest, hcopies, hrest⟩ := s.manifested_shows none 0
    generalize s.manifested none 0 = x at hmanifest hcopies hrest ⊢
    exact ⟨hmanifest, hcopies,
      (congrArg (fun y : State => { y with service := { y.service with manifestGen := s.service.manifestGen, seq := s.service.seq } }) hrest :)⟩
  | some b =>
    rw [State.applyManifest_some]
    obtain ⟨hmanifest, hcopies, hrest⟩ := s.manifested_shows (some b) (fieldAt b 8 8)
    generalize s.manifested (some b) (fieldAt b 8 8) = x at hmanifest hcopies hrest ⊢
    exact ⟨hmanifest, State.copiesBut_then hcopies rfl,
      (congrArg (fun y : State => { y with service := { y.service with manifestGen := s.service.manifestGen, seq := s.service.seq } }) hrest :)⟩

/-! ### Stages 3 and 4: the service record and the keys -/

theorem State.refreshCaps_bootStage (s : State) : s.bootStage s.refreshCaps := by
  have each : ∀ (u : State) (f : Field) (g : State → Nat → Nat) (l : List Nat), f ∈ bootFields → s.bootStage u →
      s.bootStage (l.foldl (fun v i => v.set f i (g v i)) u) :=
    fun u f g l hf hu => State.bootStage_foldl (fun v i hv => State.bootStage_set hv hf i _) l hu
  refine State.bootStage_setAll ?_ _ _ (by simp [bootFields])
  exact each _ _ (fun v => mapWord (fun c => decide (c < 80) && !v.service.retiredPorts.contains c)) _ (by decide +kernel)
    (each _ _ (fun v => mapWord (fun c => !v.service.retiredChannels.contains c)) _ (by decide +kernel)
      (each s _ (fun v => mapWord v.corePresent) _ (by decide +kernel) s.bootStage_refl))

theorem State.loadService_bootStage (s : State) : s.bootStage s.loadService := by
  unfold State.loadService
  dsimp only
  refine State.bootStage_trans (State.bootStage_set ?_ (by decide +kernel) _ _) (State.refreshCaps_bootStage _)
  refine State.bootStage_foldl (fun x p hx => ?_) _ ?_
  · exact State.bootStage_setAll hx _ _ (by simp [bootFields])
  refine State.bootStage_foldl (fun x p hx => ?_) _ ?_
  · exact State.bootStage_setAll hx _ _ (by simp [bootFields])
  refine State.bootStage_foldl (fun x p hx => ?_) _ ?_
  · exact State.bootStage_set hx (by decide +kernel) _ _
  refine State.bootStage_foldl (fun x p hx => ?_) _ ?_
  · exact State.bootStage_set hx (by decide +kernel) _ _
  refine State.bootStage_foldl (fun x p hx => ?_) _ ?_
  · exact State.bootStage_set hx (by decide +kernel) _ _
  refine State.bootStage_foldl (fun x p hx => ?_) _ s.bootStage_refl
  exact State.bootStage_setAll hx _ _ (by simp [bootFields])

theorem State.showFuses_bootStage (s : State) : s.bootStage s.showFuses := State.bootStage_setAll s.bootStage_refl _ _ (by simp [bootFields])

theorem State.loadOwner_bootStage (s : State) : s.bootStage s.loadOwner := by
  unfold State.loadOwner
  split
  · exact s.bootStage_loadKey _ _ _ _ _ _
  · exact s.bootStage_refl

theorem State.loadMemoryKeys_bootStage (s : State) (ps : List Nat) : s.bootStage (s.loadMemoryKeys ps) := by
  refine State.bootStage_foldl (fun x p hx => ?_) _ s.bootStage_refl
  split
  · exact hx
  · exact State.bootStage_trans hx (State.bootStage_trans (t := x.draw768.2) ⟨fun _ _ _ => rfl, rfl⟩ (State.bootStage_loadKey x.draw768.2 _ _ _ _ _ _))

end Sys2Proof.Machine

/-! SUPPORT. What the boot ROM's entry leaves at power-up, at a re-seat and at a rim restart, and what the release of the cores does
(13 R623, R624; 16 R706, R714). -/

namespace Sys2Proof.Machine

/-! ## Power-up -/

/-- The identity of a bank's image, under a fresh mask, with the bank shown. -/
def State.bootIdent (s : State) (bank : Nat) : State :=
  (State.deriveIdentity { s.draw768.2 with keyMask := s.draw768.1 } (s.imageIn bank)).set Fld.RIM_STATUS_bank 0 bank

/-- The request to hold is taken back. -/
def State.holdTaken (s : State) : State := { s with service := { s.service with hold := false, seq := s.service.seq + bit s.service.hold } }

/-- A boot is refused its manifest: it was asked to hold, or the owner's manifest does not verify, for reason `e`. -/
def State.bootRefused (s : State) (e : Nat) : Bool := s.service.hold || (decide (s.fuses.active < 4) && e != 0)

/-- The manifest a boot applies. -/
def State.bootManifest (s : State) (e : Nat) : Option (List Byte) := if decide (s.fuses.active < 4) && !s.bootRefused e then s.flash.manifest else none

/-- The service record and the owner's slot are loaded. -/
def State.bootOwner (s : State) : State := s.loadService.showFuses

/-- The keys are loaded. -/
def State.bootKeys (s : State) : State := (s.loadOwner.setTries 8).loadMemoryKeys s.partitions

/-- Rim firmware runs. -/
def State.bootRuns (s : State) (engine : BitVec 512) (refused : Bool) : State :=
  { s with run := { s.run with phase := .running, rimOnly := refused, engineStaged := engine, engineActive := engine, oldCmds := [] } }.setAll 0
    [(Fld.RIM_STATUS_mode, if refused then 2 else 1), (Fld.RIM_STATUS_stage, 5)]

theorem State.powerUpBoot_of_none {s : State} (h : s.bootBank = none) : s.powerUpBoot = s := by
  unfold State.powerUpBoot
  rw [h]

/-- The boot with a bank to start from. -/
theorem State.powerUpBoot_of_bank {s : State} {bank : Nat} (h : s.bootBank = some bank) : ∃ e engine, s.powerUpBoot =
    ((((s.bootIdent bank).holdTaken.applyManifest (s.bootManifest e)).bootOwner.bootKeys).bootRuns engine (s.bootRefused e)) := by
  unfold State.powerUpBoot
  rw [h]
  dsimp only
  exact ⟨_, _, rfl⟩

/-- `t` agrees with `s` but in what a boot moves: registers, keys and their mask, the identity, the manifest, the service record, the run. -/
def State.bootRest (s t : State) : Prop :=
  { t with regs := s.regs, keys := s.keys, keyMask := s.keyMask, freeCounter := s.freeCounter, ident := s.ident, manifest := s.manifest,
           parts := s.parts, service := s.service, run := s.run } = s

theorem State.bootRest_bytesSame {s t : State} (h : s.bootRest t) : s.bytesSame t := by
  rw [← h]
  exact fun _ => ⟨rfl, rfl, rfl, rfl, rfl⟩

/-- A derived identity holds its image, and nothing but registers and a draw moves besides it. -/
theorem State.deriveIdentity_image (s : State) (img : Image) : (s.deriveIdentity img).ident.image = img := by
  unfold State.deriveIdentity
  dsimp only [State.set, State.drawn]

theorem State.deriveIdentity_rest (s : State) (img : Image) :
    { s.deriveIdentity img with regs := s.regs, ident := s.ident, freeCounter := s.freeCounter } = s := by
  unfold State.deriveIdentity
  dsimp only [State.set, State.drawn]

/-- The identity's image is the bank's, and the bank is shown. -/
theorem State.bootIdent_shows (s : State) (bank : Nat) : (s.bootIdent bank).get Fld.RIM_STATUS_bank = bank % 2 ^ Fld.RIM_STATUS_bank.width ∧
    (s.bootIdent bank).ident.image = s.imageIn bank ∧ { s.bootIdent bank with
      regs := s.regs, keyMask := s.keyMask, freeCounter := s.freeCounter, ident := s.ident } = s := by
  have hmask : { ({ s.draw768.2 with keyMask := s.draw768.1 } : State) with keyMask := s.keyMask, freeCounter := s.freeCounter } = s := rfl
  unfold State.bootIdent
  generalize ({ s.draw768.2 with keyMask := s.draw768.1 } : State) = x at hmask ⊢
  have himage := x.deriveIdentity_image (s.imageIn bank)
  have hrest := x.deriveIdentity_rest (s.imageIn bank)
  generalize x.deriveIdentity (s.imageIn bank) = y at himage hrest ⊢
  exact ⟨State.get_set_same _ _ _ _, himage,
    (congrArg (fun q : State => { q with regs := s.regs, keyMask := s.keyMask, freeCounter := s.freeCounter, ident := s.ident }) hrest :).trans
      (congrArg (fun q : State => { q with regs := s.regs, ident := s.ident }) hmask :)⟩

/-- Stages 2 to 4 keep the bank shown, the run and the identity; the manifest is the one applied, no hold is asked for, and the tries are 8. -/
theorem State.bootKeys_shows {s w : State} (m : Option (List Byte)) (hw : w = (s.applyManifest m).bootOwner.bootKeys) :
    w.get Fld.RIM_STATUS_bank = s.get Fld.RIM_STATUS_bank ∧ w.get Fld.LID_OWNER_CMD_tries = 8 ∧ w.manifest = m ∧ w.run = s.run ∧
      w.ident = s.ident ∧ w.service.hold = s.service.hold ∧ s.bootRest w := by
  obtain ⟨hmanifest, hcopies, hrest⟩ := s.applyManifest_shows m
  have howner : (s.applyManifest m).bootStage (s.applyManifest m).bootOwner :=
    State.bootStage_trans (State.loadService_bootStage _) (State.showFuses_bootStage _)
  unfold State.bootKeys at hw
  generalize (s.applyManifest m) = x at hmanifest hcopies hrest howner hw
  generalize x.bootOwner = y at howner hw
  have hslot := y.loadOwner_bootStage
  generalize y.loadOwner = z at hslot hw
  have hz : x.bootStage z := State.bootStage_trans howner hslot
  have hkeys := (z.setTries 8).loadMemoryKeys_bootStage y.partitions
  rw [← hw] at hkeys
  have htries : (z.setTries 8).get Fld.RIM_STATUS_bank = z.get Fld.RIM_STATUS_bank :=
    (State.get_set_field _ (by decide) _ _ _).trans (State.get_set_field _ (by decide) _ _ _)
  have hset : { z.setTries 8 with regs := z.regs } = z := z.setTries_rest 8
  have hall : { w with regs := x.regs, keys := x.keys, freeCounter := x.freeCounter } = x :=
    ((congrArg (fun q : State => { q with regs := x.regs, keys := x.keys, freeCounter := x.freeCounter }) hkeys.2 :).trans
      (congrArg (fun q : State => { q with regs := x.regs, keys := x.keys, freeCounter := x.freeCounter }) hset :)).trans hz.2
  have hrun : x.run = s.run := (congrArg State.run hrest :)
  have hident : x.ident = s.ident := (congrArg State.ident hrest :)
  have hhold : x.service.hold = s.service.hold := (congrArg (fun q : State => q.service.hold) hrest :)
  refine ⟨?_, ?_, ((congrArg State.manifest hall :).trans hmanifest), ((congrArg State.run hall :).trans hrun), ((congrArg State.ident hall :).trans hident),
    (congrArg (fun q : State => q.service.hold) hall :).trans hhold, ?_⟩
  · rw [State.copiesBut_get hkeys.1 (by decide +kernel), htries, State.copiesBut_get hz.1 (by decide +kernel), State.copiesBut_get hcopies (by decide +kernel)]
  · rw [State.copiesBut_get hkeys.1 (by decide +kernel)]
    exact State.get_set_same _ _ _ _
  · exact (congrArg (fun q : State => { q with
      regs := s.regs, keys := s.keys, keyMask := s.keyMask, freeCounter := s.freeCounter, ident := s.ident, manifest := s.manifest, parts := s.parts,
      service := s.service, run := s.run }) hall :).trans (congrArg (fun q : State => { q with
        keyMask := s.keyMask, ident := s.ident, service := s.service, run := s.run }) hrest :)

/-- Rim firmware's run shows in its status. -/
theorem State.bootRuns_shows (w : State) (engine : BitVec 512) (refused : Bool) :
    (w.bootRuns engine refused).run.phase = .running ∧ (w.bootRuns engine refused).run.rimOnly = refused ∧
      (w.bootRuns engine refused).run.coresReleased = w.run.coresReleased ∧ (w.bootRuns engine refused).get Fld.RIM_STATUS_stage = 5 ∧
      (w.bootRuns engine refused).get Fld.RIM_STATUS_mode = (if refused then 2 else 1) ∧
      (w.bootRuns engine refused).get Fld.RIM_STATUS_bank = w.get Fld.RIM_STATUS_bank ∧
      (w.bootRuns engine refused).get Fld.LID_OWNER_CMD_tries = w.get Fld.LID_OWNER_CMD_tries ∧
      { w.bootRuns engine refused with regs := w.regs, run := w.run } = w := by
  refine ⟨rfl, rfl, rfl, State.get_set_same _ _ _ _, ?_, ?_, ?_, rfl⟩
  · refine (State.get_set_field _ (by decide) _ _ _).trans ((State.get_set_same _ _ _ _).trans ?_)
    cases refused <;> rfl
  · exact (State.get_set_field _ (by decide) _ _ _).trans ((State.get_set_field _ (by decide) _ _ _).trans rfl)
  · exact (State.get_set_field _ (by decide) _ _ _).trans ((State.get_set_field _ (by decide) _ _ _).trans rfl)

/-- The power-up boot of a module with a bank to start from. -/
theorem powerUp_shows {s : State} {bank : Nat} (hp : s.run.phase = .locked) (h : s.bootBank = some bank) :
    ∃ t, execBootRomEntry s = .next t ∧ t.run.phase = .running ∧ t.get Fld.RIM_STATUS_stage = 5 ∧
      t.get Fld.RIM_STATUS_bank = bank % 2 ^ Fld.RIM_STATUS_bank.width ∧ t.get Fld.RIM_STATUS_mode = (if t.run.rimOnly then 2 else 1) ∧
      (s.service.hold = true → t.run.rimOnly = true) ∧ (s.service.hold = false → s.fuses.active = 4 → t.run.rimOnly = false ∧ t.manifest = none) ∧
      t.run.coresReleased = s.run.coresReleased ∧ t.service.hold = false ∧ t.ident.image = s.imageIn bank ∧
      t.get Fld.LID_OWNER_CMD_tries = 8 ∧ t.fuses = s.fuses ∧ t.flash = s.flash ∧ t.outbox = s.outbox ∧ s.bytesSame t := by
  obtain ⟨e, engine, hboot⟩ := State.powerUpBoot_of_bank h
  obtain ⟨hbank, himage, hident⟩ := s.bootIdent_shows bank
  have hexec : execBootRomEntry s = .next s.powerUpBoot := if_pos hp
  rw [hboot] at hexec
  generalize s.bootIdent bank = x at hbank himage hident hexec
  obtain ⟨hwbank, hwtries, hwmanifest, hwrun, hwident, hwhold, hwrest⟩ := State.bootKeys_shows (s := x.holdTaken) (s.bootManifest e) rfl
  generalize (x.holdTaken.applyManifest (s.bootManifest e)).bootOwner.bootKeys = w at hwbank hwtries hwmanifest hwrun hwident hwhold hwrest hexec
  obtain ⟨hphase, hrim, hcores, hstage, hmode, htbank, httries, htrest⟩ := w.bootRuns_shows engine (s.bootRefused e)
  generalize w.bootRuns engine (s.bootRefused e) = t at hphase hrim hcores hstage hmode htbank httries htrest hexec
  have hall : s.bootRest t :=
    ((congrArg (fun q : State => { q with
      regs := s.regs, keys := s.keys, keyMask := s.keyMask, freeCounter := s.freeCounter, ident := s.ident, manifest := s.manifest, parts := s.parts,
      service := s.service, run := s.run }) htrest :).trans (congrArg (fun q : State => { q with
      regs := s.regs, keys := s.keys, keyMask := s.keyMask, freeCounter := s.freeCounter, ident := s.ident, manifest := s.manifest, parts := s.parts,
      service := s.service, run := s.run }) hwrest :)).trans (congrArg (fun q : State => { q with
        keys := s.keys, manifest := s.manifest, parts := s.parts, service := s.service, run := s.run }) hident :)
  have hxrun : x.run = s.run := (congrArg State.run hident :)
  refine ⟨t, hexec, hphase, hstage, htbank.trans (hwbank.trans hbank), by rw [hmode, hrim], fun hhold => ?_, fun hhold hactive => ⟨?_, ?_⟩, ?_, ?_, ?_,
    httries.trans hwtries, (congrArg State.fuses hall :), (congrArg State.flash hall :), (congrArg State.outbox hall :), State.bootRest_bytesSame hall⟩
  · rw [hrim, State.bootRefused, hhold, Bool.true_or]
  · simp [hrim, State.bootRefused, hhold, hactive]
  · have hm : t.manifest = w.manifest := (congrArg State.manifest htrest :)
    rw [hm, hwmanifest, State.bootManifest, if_neg (by simp [hactive])]
  · rw [hcores, hwrun, ← hxrun]
    rfl
  · exact (congrArg (fun q : State => q.service.hold) htrest :).trans hwhold
  · have hi : t.ident = w.ident := (congrArg State.ident htrest :)
    rw [hi, hwident, ← himage]
    rfl

end Sys2Proof.Machine

/-! SUPPORT. What the boot ROM's entry leaves at a re-seat and at a rim restart, and what the release of the cores does (13 R623, R624;
14 R657; 16 R714 to R717). -/

namespace Sys2Proof.Machine

/-! ## Re-seat -/

/-- A re-seat's boot ends in stage 5, in the mode that fits. -/
theorem State.reseatBoot_shows (s : State) (r : Reseat) : (s.reseatBoot r).get Fld.RIM_STATUS_stage = 5 ∧
    (s.reseatBoot r).get Fld.RIM_STATUS_mode = (if (s.reseatBoot r).run.rimOnly then 2 else 1) := by
  have hends : ∃ w : State, s.reseatBoot r = w.setAll 0 [(Fld.RIM_STATUS_mode, if w.run.rimOnly then 2 else 1), (Fld.RIM_STATUS_stage, 5)] := by
    unfold State.reseatBoot
    exact ⟨_, rfl⟩
  obtain ⟨w, hw⟩ := hends
  have hrun : (s.reseatBoot r).run = w.run := by rw [hw]; rfl
  rw [hrun, hw]
  refine ⟨State.get_set_same _ _ _ _, (State.get_set_field _ (by decide) _ _ _).trans ((State.get_set_same _ _ _ _).trans ?_)⟩
  split <;> rfl

/-- A re-seat that was booted: no longer busy, done, and counted. -/
def State.reseatDone (u : State) : State :=
  ((u.set Fld.RIM_RESEAT_CMD_busy 0 0).count Fld.RIM_RESEAT_COUNT_count 0 Fld.RIM_STATUS2_reseat_wrap 0 0).set Fld.RIM_RESEAT_CMD_done 0 1

theorem State.reseatDone_shows (u : State) : u.reseatDone.get Fld.RIM_RESEAT_CMD_busy = 0 ∧ u.reseatDone.get Fld.RIM_RESEAT_CMD_done = 1 ∧
    u.reseatDone.get Fld.RIM_RESEAT_COUNT_count = (u.get Fld.RIM_RESEAT_COUNT_count + 1) % 2 ^ Fld.RIM_RESEAT_COUNT_count.width ∧
    u.onlyFields u.reseatDone [(Fld.RIM_RESEAT_CMD_busy, 0), (Fld.RIM_RESEAT_CMD_done, 0), (Fld.RIM_RESEAT_COUNT_count, 0),
      (Fld.RIM_STATUS2_reseat_wrap, 0)] := by
  refine ⟨?_, State.get_set_same _ _ _ _, ?_, ?_⟩
  · exact (State.get_set_field _ (by decide) _ _ _).trans ((State.get_count_field _ (by decide) (by decide) _ _ _ _ _).trans (State.get_set_same _ _ _ _))
  · refine (State.get_set_field _ (by decide) _ _ _).trans ((State.get_count_same _ (by decide) _ _).trans ?_)
    rw [State.get_set_field _ (by decide)]
  · exact State.onlyFields_set (State.onlyFields_count (State.onlyFields_set (u.onlyFields_refl _) (by simp) _) (by simp) (by simp) _ _) (by simp) _

/-- A re-seat that is found wrong by now: no longer busy, and its error shown. -/
def State.reseatRefused (u : State) (code : Nat) : State := (u.set Fld.RIM_RESEAT_CMD_busy 0 0).reseatError code

theorem State.reseatRefused_shows (u : State) (code : Nat) : (u.reseatRefused code).get Fld.RIM_RESEAT_CMD_busy = 0 ∧
    (u.reseatRefused code).get Fld.RIM_RESEAT_CMD_error = 1 ∧
    (u.reseatRefused code).get Fld.RIM_RESEAT_CMD_err_code = code % 2 ^ Fld.RIM_RESEAT_CMD_err_code.width ∧
    u.onlyFields (u.reseatRefused code) [(Fld.RIM_RESEAT_CMD_busy, 0), (Fld.RIM_RESEAT_CMD_error, 0), (Fld.RIM_RESEAT_CMD_err_code, 0)] := by
  refine ⟨?_, ?_, State.get_set_same _ _ _ _, State.onlyFields_set (State.onlyFields_set (State.onlyFields_set (u.onlyFields_refl _) (by simp) _)
    (by simp) _) (by simp) _⟩
  · exact (State.get_set_field _ (by decide) _ _ _).trans ((State.get_set_field _ (by decide) _ _ _).trans (State.get_set_same _ _ _ _))
  · exact (State.get_set_field _ (by decide) _ _ _).trans (State.get_set_same _ _ _ _)

section

variable {s x u : State} {r : Reseat}

/-- The entry with a re-seat accepted. -/
theorem execBootRomEntry_of_reseat (hp : s.run.phase = .running) (hr : s.run.reseat = some r) (hx : x = { s with run := { s.run with reseat := none } })
    (hu : u = (if x.reseatWrong r = 0 then x.retrainLinks r else x).reseatBoot r) : execBootRomEntry s =
      .next (if x.reseatWrong r = 0 then u.reseatDone else u.reseatRefused (x.reseatWrong r)).refreshServing := by
  have hlocked : ¬ s.run.phase = .locked := by rw [hp]; decide
  unfold execBootRomEntry
  rw [if_neg hlocked, if_neg (not_not_intro hp), hr]
  dsimp only
  rw [← hx, ← hu]
  rfl

/-! ## Rim restart -/

theorem execBootRomEntry_of_restart (hp : s.run.phase = .running) (hr : s.run.reseat = none) (hd : s.run.restartDue = true) :
    execBootRomEntry s = .next (s.reseatBoot { manifest := none, image := none }).restartDone := by
  have hlocked : ¬ s.run.phase = .locked := by rw [hp]; decide
  unfold execBootRomEntry
  rw [if_neg hlocked, if_neg (not_not_intro hp), hr]
  exact if_pos hd

theorem execBootRomEntry_of_running (hp : s.run.phase = .running) (hr : s.run.reseat = none) (hd : s.run.restartDue = false) :
    execBootRomEntry s = .next s := by
  have hlocked : ¬ s.run.phase = .locked := by rw [hp]; decide
  unfold execBootRomEntry
  rw [if_neg hlocked, if_neg (not_not_intro hp), hr]
  exact if_neg (by simp [hd])

theorem execBootRomEntry_of_other (hl : s.run.phase ≠ .locked) (hp : s.run.phase ≠ .running) : execBootRomEntry s = .next s :=
  (if_neg hl).trans (if_pos hp)

/-- The restart's registers. -/
def State.restartShown (s : State) : State :=
  ({ s with run := { s.run with restartDue := false } }.setAll 0 [(Fld.FC_RIM_RESTART_busy, 0), (Fld.FC_RIM_RESTART_done, 1)]).count
    Fld.FC_RESTART_COUNT_count 0 Fld.FC_STATUS_wrap 0 0

/-- A load that the restart ends. -/
def State.restartEndsLoad (s : State) : State :=
  if s.get Fld.RIM_PLAIT_STATUS_state = 1 ∨ s.get Fld.RIM_PLAIT_STATUS_state = 2 then
    (s.setAll 0 [(Fld.RIM_PLAIT_STATUS_state, 7), (Fld.RIM_PLAIT_STATUS_failed, 1), (Fld.RIM_PLAIT_ERR_code, 0)]).plaitEvent else s

theorem State.restartDone_eq (s : State) : s.restartDone = s.restartShown.restartEndsLoad.report 0x47 0 0 := rfl

theorem State.restartShown_shows (s : State) : s.restartShown.run.restartDue = false ∧ s.restartShown.get Fld.FC_RIM_RESTART_busy = 0 ∧
    s.restartShown.get Fld.FC_RIM_RESTART_done = 1 ∧
    s.restartShown.get Fld.FC_RESTART_COUNT_count = (s.get Fld.FC_RESTART_COUNT_count + 1) % 2 ^ Fld.FC_RESTART_COUNT_count.width ∧
    s.restartShown.get Fld.FC_SRC_COUNT_count 0x47 = s.get Fld.FC_SRC_COUNT_count 0x47 ∧
    { s.restartShown with regs := s.regs, run := s.run } = s := by
  unfold State.restartShown
  refine ⟨by rw [State.count_run, State.setAll_run], ?_, ?_, ?_, ?_, ?_⟩
  · rw [State.get_count_field _ (by decide) (by decide)]
    exact (State.get_set_field _ (by decide) _ _ _).trans (State.get_set_same _ _ _ _)
  · rw [State.get_count_field _ (by decide) (by decide)]
    exact State.get_set_same _ _ _ _
  · rw [State.get_count_same _ (by decide)]
    exact congrArg (fun n => (n + 1) % 2 ^ Fld.FC_RESTART_COUNT_count.width)
      ((State.get_set_field _ (by decide) _ _ _).trans (State.get_set_field _ (by decide) _ _ _))
  · rw [State.get_count_field _ (by decide) (by decide)]
    exact (State.get_set_field _ (by decide) _ _ _).trans (State.get_set_field _ (by decide) _ _ _)
  · have hset : { ({ s with run := { s.run with restartDue := false } } : State).setAll 0 [(Fld.FC_RIM_RESTART_busy, 0), (Fld.FC_RIM_RESTART_done, 1)] with
        regs := s.regs, run := s.run } = s := rfl
    generalize ({ s with run := { s.run with restartDue := false } } : State).setAll 0 [(Fld.FC_RIM_RESTART_busy, 0), (Fld.FC_RIM_RESTART_done, 1)] = x
      at hset ⊢
    have hcount : x.onlyFields (x.count Fld.FC_RESTART_COUNT_count 0 Fld.FC_STATUS_wrap 0 0) [(Fld.FC_RESTART_COUNT_count, 0), (Fld.FC_STATUS_wrap, 0)] :=
      State.onlyFields_count (x.onlyFields_refl _) (by simp) (by simp) _ _
    exact (congrArg (fun y : State => { y with regs := s.regs, run := s.run }) hcount.2 :).trans hset

/-- The fields that ending a load writes. -/
def loadEndFields : List Field := Fld.RIM_PLAIT_STATUS_state :: Fld.RIM_PLAIT_STATUS_failed :: Fld.RIM_PLAIT_ERR_code :: reportFields

/-- Only a dead rim's report sets a restart's busy bit. -/
theorem State.severityAction_restartBusy (s : State) (f i : Nat) (owners : List Nat) :
    (s.severityAction f i owners).get Fld.FC_RIM_RESTART_busy = s.get Fld.FC_RIM_RESTART_busy := by
  have hfence : ∀ e, (s.fence e).get Fld.FC_RIM_RESTART_busy = s.get Fld.FC_RIM_RESTART_busy := fun e => by
    unfold State.fence
    split
    · rfl
    · exact State.get_set_field _ (by decide) _ _ _
  have hstop : ∀ (t : State) (c : Nat), (t.requestStop c).get Fld.FC_RIM_RESTART_busy = t.get Fld.FC_RIM_RESTART_busy := fun t c => by
    unfold State.requestStop
    dsimp only
    split
    · rfl
    · split
      · exact State.get_set_field _ (by decide) _ _ _
      · exact (State.get_set_field _ (by decide) _ _ _).trans (State.get_set_field _ (by decide) _ _ _)
  have hfenced : (if s.severity f < 2 then s else match engineOf f i with
      | some e => s.fence e
      | none => s).get Fld.FC_RIM_RESTART_busy = s.get Fld.FC_RIM_RESTART_busy := by
    split
    · rfl
    · split
      · exact hfence _
      · rfl
  unfold State.severityAction
  dsimp only at hfenced ⊢
  generalize (if s.severity f < 2 then _ else _ : State) = u at hfenced ⊢
  split
  · exact hfenced
  · exact List.foldlRecOn (motive := fun t : State => t.get Fld.FC_RIM_RESTART_busy = s.get Fld.FC_RIM_RESTART_busy) _ _ hfenced fun t ht p _ =>
      List.foldlRecOn (motive := fun t : State => t.get Fld.FC_RIM_RESTART_busy = s.get Fld.FC_RIM_RESTART_busy) _ _ ht fun v hv c _ =>
        (hstop v c).trans hv

theorem State.report_restartBusy (s : State) {f : Nat} (h : f ≠ 0x46) (i info : Nat) :
    (s.report f i info).get Fld.FC_RIM_RESTART_busy = s.get Fld.FC_RIM_RESTART_busy := by
  have hlog := s.logReport_copies f i info false false (s.instanceOwners f i)
  have hshown := State.copiesBut_trans (State.copiesBut_mono hlog (by decide : ∀ w ∈ logFields, w ∈ logFields ++ statusFields))
    (State.copiesBut_mono (State.statusReport_copies (State.copiesBut_refl _ _) f i info false false) (by decide))
  have htold := s.reportTold_copies f i info false false
  rw [State.report_eq, if_neg h, State.copiesBut_get (State.driveErr_copies (State.copiesBut_refl _ _)) (by decide),
    State.reportActed, State.severityAction_restartBusy, State.copiesBut_get htold (by decide)]
  exact State.copiesBut_get hshown (by decide) 0

/-- The plait-load event is a report of its own family. -/
theorem State.plaitEvent_shows (s : State) : s.reportOnly s.plaitEvent ∧ s.plaitEvent.get Fld.FC_SRC_COUNT_count 0x47 = s.get Fld.FC_SRC_COUNT_count 0x47 ∧
    s.plaitEvent.get Fld.FC_RIM_RESTART_busy = s.get Fld.FC_RIM_RESTART_busy ∧ s.copiesBut s.plaitEvent reportFields := by
  unfold State.plaitEvent
  split
  · exact ⟨State.report_reportOnly _ _ _ _ _ _ (by decide), (State.report_otherFamily _ _ _ _ _ _ (by decide)).2,
      s.report_restartBusy (by decide) 0 0, s.report_copies _ _ _ _ _⟩
  · exact ⟨rfl, rfl, rfl, s.copiesBut_refl _⟩

/-- Ending a load reports the plait-load family at most. -/
theorem State.restartEndsLoad_shows (s : State) : s.reportOnly s.restartEndsLoad ∧
    s.restartEndsLoad.get Fld.FC_SRC_COUNT_count 0x47 = s.get Fld.FC_SRC_COUNT_count 0x47 ∧
    s.restartEndsLoad.get Fld.FC_RIM_RESTART_busy = s.get Fld.FC_RIM_RESTART_busy ∧ s.copiesBut s.restartEndsLoad loadEndFields := by
  unfold State.restartEndsLoad
  split
  · have hset := s.setAll_reportOnly 0 [(Fld.RIM_PLAIT_STATUS_state, 7), (Fld.RIM_PLAIT_STATUS_failed, 1), (Fld.RIM_PLAIT_ERR_code, 0)]
    have hcopies : s.copiesBut (s.setAll 0 [(Fld.RIM_PLAIT_STATUS_state, 7), (Fld.RIM_PLAIT_STATUS_failed, 1), (Fld.RIM_PLAIT_ERR_code, 0)])
        [Fld.RIM_PLAIT_STATUS_state, Fld.RIM_PLAIT_STATUS_failed, Fld.RIM_PLAIT_ERR_code] :=
      State.copiesBut_setAll (s.copiesBut_refl _) _ _ (by decide +kernel)
    generalize s.setAll 0 [(Fld.RIM_PLAIT_STATUS_state, 7), (Fld.RIM_PLAIT_STATUS_failed, 1), (Fld.RIM_PLAIT_ERR_code, 0)] = x at hset hcopies ⊢
    obtain ⟨honly, hcount, hbusy, hevent⟩ := x.plaitEvent_shows
    exact ⟨State.reportOnly_trans hset honly, hcount.trans (State.copiesBut_get hcopies (by decide +kernel) _),
      hbusy.trans (State.copiesBut_get hcopies (by decide +kernel) _),
      State.copiesBut_trans (State.copiesBut_mono hcopies (by decide +kernel)) (State.copiesBut_mono hevent (by decide +kernel))⟩
  · exact ⟨rfl, rfl, rfl, s.copiesBut_refl _⟩

/-- A restart that has run shows, and is counted and reported. -/
theorem State.restartDone_shows (u : State) : u.restartDone.run.restartDue = false ∧ u.restartDone.get Fld.FC_RIM_RESTART_busy = 0 ∧
    u.restartDone.get Fld.FC_RIM_RESTART_done = 1 ∧
    u.restartDone.get Fld.FC_RESTART_COUNT_count = (u.get Fld.FC_RESTART_COUNT_count + 1) % 2 ^ Fld.FC_RESTART_COUNT_count.width ∧
    u.restartDone.get Fld.FC_SRC_COUNT_count 0x47 = (u.get Fld.FC_SRC_COUNT_count 0x47 + 1) % 2 ^ Fld.FC_SRC_COUNT_count.width ∧
    u.bytesSame u.restartDone := by
  obtain ⟨hdue, hbusy, hdone, hcount, hfamily, hrest⟩ := u.restartShown_shows
  rw [State.restartDone_eq]
  generalize u.restartShown = x at *
  obtain ⟨honly, hkept, hload, hcopies⟩ := x.restartEndsLoad_shows
  generalize x.restartEndsLoad = y at *
  have hreport : y.reportOnly (y.report 0x47 0 0) := State.report_reportOnly _ _ _ _ _ _ (by decide)
  have hall : x.reportOnly (y.report 0x47 0 0) := State.reportOnly_trans honly hreport
  have hget {f : Field} (hf : ∀ w ∈ loadEndFields, (f.reg * 32 + f.lo) % 16384 ≠ (w.reg * 32 + w.lo) % 16384) :
      (y.report 0x47 0 0).get f 0 = x.get f 0 :=
    State.copiesBut_get (State.copiesBut_trans hcopies (State.copiesBut_mono (y.report_copies 0x47 0 0 false false) (by decide +kernel))) hf 0
  refine ⟨(congrArg (fun q : State => q.run.restartDue) hall :).trans hdue,
    (y.report_restartBusy (by decide) 0 0).trans (hload.trans hbusy), (hget (by decide +kernel)).trans hdone,
    (hget (by decide +kernel)).trans hcount, ?_, ?_⟩
  · rw [State.report_counted, hkept, hfamily]
  · refine State.bytesSame_trans (t := x) ?_ (State.reportRest_bytesSame (State.reportRest_of_reportOnly hall))
    rw [← hrest]
    exact fun _ => ⟨rfl, rfl, rfl, rfl, rfl⟩

end

/-! ## The release of the cores -/

/-- `t` agrees with `s` but in what the ports say: their states, modules marked lost, and what is sent. -/
def State.servingRest (s t : State) : Prop :=
  s.copiesBut t [Fld.WF_PORT_STATE_state] ∧ { t with regs := s.regs, lostModules := s.lostModules, outbox := s.outbox } = s

theorem State.servingRest_trans {s t u : State} (h : s.servingRest t) (g : t.servingRest u) : s.servingRest u :=
  ⟨State.copiesBut_trans h.1 g.1, (congrArg (fun x : State => { x with regs := s.regs, lostModules := s.lostModules, outbox := s.outbox }) g.2 :).trans h.2⟩

theorem State.sendIdents_servingRest (s : State) : s.servingRest s.sendIdents :=
  ⟨fun f i _ => s.sendIdents_get f i, (congrArg (fun x : State => { x with regs := s.regs, lostModules := s.lostModules }) s.sendIdents_rest :)⟩

/-- A port that settles writes its state, clears its peer's mark and tells the others. -/
theorem State.settlePort_servingRest (s : State) (p : Nat) : s.servingRest (s.settlePort p) := by
  unfold State.settlePort
  dsimp only
  generalize (if s.servesOn p && (s.portAt p).peerServing then 3 else 2) = want
  have hset : s.servingRest (if want = 3 then (s.set Fld.WF_PORT_STATE_state p want).unmarkLost ((s.set Fld.WF_PORT_STATE_state p want).peerOf p)
      else s.set Fld.WF_PORT_STATE_state p want) := by
    split
    · exact ⟨State.copiesBut_then (State.copiesBut_set (s.copiesBut_refl _) (by simp) p want) rfl, rfl⟩
    · exact ⟨State.copiesBut_set (s.copiesBut_refl _) (by simp) p want, rfl⟩
  split
  · split
    · exact State.servingRest_trans hset (State.sendIdents_servingRest _)
    · exact hset
  · exact ⟨s.copiesBut_refl _, rfl⟩

/-- serving is what the release of the cores and a known identity give. -/
def State.servesNow (s : State) : Bool :=
  s.run.coresReleased && !s.run.rimOnly && s.flag Fld.CAP_MODULE_module_valid && s.run.phase == .running

theorem State.refreshServing_shows (s : State) : s.refreshServing.flag Fld.WF_CTRL_serving = s.servesNow ∧
    { s.refreshServing with regs := s.regs, lostModules := s.lostModules, outbox := s.outbox } = s := by
  have hnow : (s.run.coresReleased && !s.run.rimOnly && s.flag Fld.CAP_MODULE_module_valid && s.run.phase == .running) = s.servesNow := rfl
  unfold State.refreshServing
  dsimp only
  rw [hnow]
  split
  next h => exact ⟨h, rfl⟩
  · have hsettled : (s.set Fld.WF_CTRL_serving 0 (bit s.servesNow)).servingRest
        ((List.range 80).foldl State.settlePort (s.set Fld.WF_CTRL_serving 0 (bit s.servesNow))).sendIdents :=
      State.servingRest_trans (List.foldlRecOn (motive := (s.set Fld.WF_CTRL_serving 0 (bit s.servesNow)).servingRest) _ _ ⟨State.copiesBut_refl _ _, rfl⟩
        fun t ht p _ => State.servingRest_trans ht (t.settlePort_servingRest p)) (State.sendIdents_servingRest _)
    generalize ((List.range 80).foldl State.settlePort (s.set Fld.WF_CTRL_serving 0 (bit s.servesNow))).sendIdents = t at hsettled ⊢
    refine ⟨?_, (congrArg (fun x : State => { x with regs := s.regs }) hsettled.2 :)⟩
    rw [State.flag, State.copiesBut_get hsettled.1 (by decide +kernel), State.get_set_same]
    cases s.servesNow <;> rfl

/-- The cores as they are released. -/
def State.coresUp (s : State) : State :=
  { s with pins := { s.pins with coolantOk := true }, run := { s.run with coresReleased := true, coolantArmed := true } }

theorem execCoreRelease_of_high {s : State} {n : Nat} (hp : s.run.phase = .running) (hc : s.run.coresReleased = false) (hr : s.run.rimOnly = false)
    (hn : 10 ≤ n) : execCoreRelease n s = .next s.coresUp.refreshServing := if_pos ⟨hp, hc, hr, hn⟩

theorem execCoreRelease_of_other {s : State} {n : Nat} (h : s.run.phase ≠ .running ∨ s.run.coresReleased = true ∨ s.run.rimOnly = true ∨ n < 10) :
    execCoreRelease n s = .next s := by
  refine if_neg ?_
  rintro ⟨hp, hc, hr, hn⟩
  rcases h with h | h | h | h
  · exact h hp
  · exact absurd (h.symm.trans hc) (by decide)
  · exact absurd (h.symm.trans hr) (by decide)
  · omega

/-- A module whose cores are released serves as its number is known, and keeps all it holds. -/
theorem State.coresUp_shows {s : State} (hp : s.run.phase = .running) (hr : s.run.rimOnly = false) :
    s.coresUp.refreshServing.run = { s.run with coresReleased := true, coolantArmed := true } ∧
      s.coresUp.refreshServing.pins = { s.pins with coolantOk := true } ∧
      s.coresUp.refreshServing.flag Fld.WF_CTRL_serving = s.flag Fld.CAP_MODULE_module_valid ∧ s.coresUp.refreshServing.service = s.service ∧
      s.coresUp.refreshServing.fuses = s.fuses ∧ s.coresUp.refreshServing.keys = s.keys ∧ s.coresUp.refreshServing.slots = s.slots ∧
      s.bytesSame s.coresUp.refreshServing := by
  obtain ⟨hflag, hrest⟩ := s.coresUp.refreshServing_shows
  have hnow : s.coresUp.servesNow = s.flag Fld.CAP_MODULE_module_valid := by
    show (true && !s.run.rimOnly && s.flag Fld.CAP_MODULE_module_valid && s.run.phase == .running) = _
    rw [hr, hp, Bool.not_false, Bool.and_self, Bool.true_and]
    exact Bool.and_true _
  generalize s.coresUp.refreshServing = t at hflag hrest ⊢
  refine ⟨(congrArg State.run hrest :), (congrArg State.pins hrest :), hflag.trans hnow, (congrArg State.service hrest :), (congrArg State.fuses hrest :),
    (congrArg State.keys hrest :), (congrArg State.slots hrest :), fun a => ?_⟩
  have hbytes : s.coresUp.bytesSame t := by
    rw [← hrest]
    exact fun _ => ⟨rfl, rfl, rfl, rfl, rfl⟩
  exact hbytes a

/-- Settles O13: the entry at power-up, at a re-seat, at a restart and elsewhere, and the release of the cores, each by its lemma. -/
theorem bootEntryAndCoreRelease : Obligations.BootEntryAndCoreRelease := by
  intro s n
  refine ⟨fun hp => ⟨if_pos hp, State.powerUpBoot_of_none⟩, fun bank hp hb => powerUp_shows hp hb, fun r x u hp hr hx hu => ?_,
    fun hp hr hd u hu => ?_, execBootRomEntry_of_running, execBootRomEntry_of_other,
    fun hp hc hr hn => ⟨_, execCoreRelease_of_high hp hc hr hn, State.coresUp_shows hp hr⟩, execCoreRelease_of_other⟩
  · have hexec := execBootRomEntry_of_reseat hp hr hx hu
    have hboot := hu ▸ (State.reseatBoot_shows (if x.reseatWrong r = 0 then x.retrainLinks r else x) r)
    obtain ⟨hstage, hmode⟩ := hboot
    refine ⟨hstage, hmode, fun hw => ?_, fun hw => ?_⟩
    · obtain ⟨hbusy, hdone, hcount, hfields⟩ := u.reseatDone_shows
      exact ⟨_, hbusy, hdone, hcount, hfields, hexec.trans (by rw [if_pos hw])⟩
    · obtain ⟨hbusy, herror, hcode, hfields⟩ := u.reseatRefused_shows (x.reseatWrong r)
      exact ⟨_, hbusy, herror, hcode, hfields, hexec.trans (by rw [if_neg hw])⟩
  · have hexec := execBootRomEntry_of_restart hp hr hd
    rw [← hu] at hexec
    obtain ⟨hdue, hbusy, hdone, hcount, hfamily, hbytes⟩ := u.restartDone_shows
    exact ⟨hexec, _, hexec, hdue, hbusy, hdone, hcount, hfamily, hbytes⟩

end Sys2Proof.Machine
